-- ==== Sys2Proof/Word.lean ====
section
/-! DEFINITION. The words the DZ-5216 stores, and the sparse tables the model keeps large stores in. -/

namespace Sys2Proof

/-- One byte. -/
abbrev Byte := BitVec 8
/-- One 16-bit half-word. -/
abbrev Half := BitVec 16
/-- One 32-bit word: a register, a lane value, an address while it is computed. -/
abbrev Word := BitVec 32
/-- The 72-bit accumulator of an Atward core (R219). -/
abbrev Acc := BitVec 72

/-- A sparse store in one canonical form: keys strictly rising, and no entry equal to what an unlisted key
reads as (which each store names for itself). -/
abbrev Table (α : Type) := List (Nat × α)

/-- The natural number a list of bytes spells, lowest address first: every Atward core and every register is
little-endian (R215, R898). -/
def leNat : List Byte → Nat
  | [] => 0
  | b :: bs => b.toNat + 256 * leNat bs

/-- The `n` bytes of a number, lowest address first (R215). -/
def leBytes : Nat → Nat → List Byte
  | 0, _ => []
  | n + 1, v => BitVec.ofNat 8 v :: leBytes n (v / 256)

end Sys2Proof
end

