-- ==== Sys2Proof/Config.lean ====
section
/-! DEFINITION. What the spec leaves open: values without a stated number, as constants without a body. Nothing can be
proved about which number any of them is. -/

namespace Sys2Proof

/-- The n-th value that nothing else fixes (assumption 2). -/
opaque Config.freeValue : Nat → Word
/-- Does a scaled quantity that is not exact round up? Called with the place that rounds, numerator and denominator,
where no rule states the rounding (assumption 3). -/
opaque Config.roundUp : Nat → Int → Nat → Bool
/-- What a read of CACHE_OP, a write-only system register, returns (assumption 4). -/
opaque Config.cacheOpRead : Word → Word
/-- The filter of the media-clock servo: filtered phase error from the one before and the latest measurement (R116,
assumption 5). -/
opaque Config.servoFilter : Int → Int → Int
/-- The pull the servo demands, from filtered phase error and applied pull (assumption 5). -/
opaque Config.servoDemand : Int → Int → Int
/-- How far the tone generators' sine lies from sin(2πφ / 2^32), which the rule leaves within one LSB of 24 bits (R393,
assumption 6). -/
opaque Config.sineError : Word → Nat
/-- Which of its four forms the tone generators' noise register has: the polynomial is stated, its form is not (chapter 12,
assumption 6). -/
opaque Config.noiseForm : Nat
/-- A logarithmic sweep from PINC1 0, of PINC2, frame and frames: R395's formula divides by 0 (assumption 6). -/
opaque Config.sweepZero : Nat → Nat → Nat → Nat
/-- How far the gain that a limiter applies lies from the gain R408 calls for, which R409 leaves within 0.01 dB: of the
sample and the gain (assumption 7). -/
opaque Config.limError : Word → Int → Nat
/-- The tap of an F-rate lane's half-band filter one 96 kHz sample from its centre, in 2^-24 (chapter 12, assumption 6). -/
opaque Config.eqTap : Int
/-- A tap of a synchronous rate bridge's filter, in 2^-24 of full scale: from the configuration's domains and filter, and
from the distance of the input from the output, in frames of the faster of its two domains (R127, R128, assumption 8). -/
opaque Config.bridgeTap : Nat → Nat → Int
/-- An asynchronous bridge's estimate of its ratio, from the one before and the position of the received frame (R133,
assumption 8). -/
opaque Config.asyncRatio : Word → Nat → Word
/-- How an asynchronous bridge corrects what it takes in a media-side frame, in 2^-28 of an external frame, from ratio and
fill, to hold the fill at its target (R133, assumption 8). -/
opaque Config.asyncTrim : Word → Nat → Int
/-- An asynchronous bridge's resampled value, from its configuration word, its ratio, the fraction of an external frame
reached, and the inputs of one slot, newest first (R131, assumption 8). -/
opaque Config.asyncFilter : Word → Word → Nat → List Word → Word
/-- The decibels reported for a ratio with a 0 in it, in 1/64 dB (R614, R628, R637; assumption 9). -/
opaque Config.dbOfZero : Int
/-- Does the Hann window of R612 end where it began, with 89999 steps, or a step before, with 90000 (assumption 9)? -/
opaque Config.hannClosed : Bool
/-- The first 17 bits of the test sequence, and whether its recurrence is the mirrored one (R625: the polynomial is stated,
start and form are not; assumption 9). -/
opaque Config.mlsStart : BitVec 17
opaque Config.mlsMirror : Bool
/-- Response word n of a silent test from the accumulated words and the periods, where R636's scale does not give it
(assumption 9). -/
opaque Config.response : List Word → Nat → Nat → Word
/-- The first-order 20 Hz high-pass of a microphone line, from its latest output, its latest input and the input (R648;
assumption 10). -/
opaque Config.micHpf : Word → Word → Word → Word
/-- The interpolator of 16 kHz clips: from a value that stands for its hidden state, the third of the sample, and the
clip's samples from 16 before to 16 after (R697; assumption 12). -/
opaque Config.interp16 : Word → Nat → List Word → Word
/-- SHA-256 (FIPS 180-4; assumption 13). -/
opaque Config.sha256 : List Byte → List Byte
/-- HMAC-SHA-256 of a message under a key (assumption 13). -/
opaque Config.hmac : List Byte → List Byte → List Byte
/-- AES-256-GCM: the plaintext of a key, IV, additional data, ciphertext and tag, or none where the tag fails (assumption 13). -/
opaque Config.gcmOpen : List Byte → List Byte → List Byte → List Byte → List Byte → Option (List Byte)
/-- AES-256-GCM: ciphertext and tag of a key, IV, additional data and plaintext (assumption 13). -/
opaque Config.gcmSeal : List Byte → List Byte → List Byte → List Byte → List Byte
/-- Does an ECDSA P-256 signature verify: public key, message, signature (FIPS 186-4, R765; assumption 13)? -/
opaque Config.ecdsaOk : List Byte → List Byte → List Byte → Bool
/-- The digest of the Warden's ROM (R781; assumption 13). -/
opaque Config.romDigest : List Byte

/-- The part's JTAG identification code, which no chapter gives (assumption 19). -/
opaque Config.idcode : Word

/-- The bytes of the Warden's ROM, whose contents no chapter gives (assumption 13). -/
opaque Config.rom : Nat → Byte

end Sys2Proof
end

