-- ==== Sys2Proof/Machine/Real.lean ====
section
/-! DEFINITION. The elementary functions that the rules name (sine, exponential, logarithm, decibels, the phase of a
complex number), in fixed point: a number x stands as x × 2^64. Each is within 2^-50 of the function (assumption 6). -/

namespace Sys2Proof.Machine
open Sys2Proof

def fxOne : Int := 2 ^ 64
/-- π / 2, ln 2, log10 2 and (ln 10) / 20. -/
def fxHalfPi : Int := 28976077832308491370
def fxLn2 : Int := 12786308645202655660
def fxLog10Two : Int := 5553023288523357132
def fxLnTenth : Int := 2123759895919993451

def fxMul (a b : Int) : Int := a * b / fxOne

/-- sin x / x from x²: 1 − x²/(2k(2k+1)) × (1 − …), from term k on. -/
def sinTail (x2 : Int) : Nat → Nat → Int
  | 0, _ => fxOne
  | n + 1, k => fxOne - fxMul x2 (sinTail x2 n (k + 1)) / ((2 * k * (2 * k + 1) : Nat) : Int)

/-- sin x for x from 0 to π / 2. -/
def fxSin (x : Int) : Int := fxMul x (sinTail (fxMul x x) 13 1)

/-- sin (2π n / d), by quadrants. -/
def sinTurn (n d : Nat) : Int :=
  let m := 4 * (n % d)
  let a := fxHalfPi * ((m % d : Nat) : Int) / d
  let b := fxHalfPi * ((d - m % d : Nat) : Int) / d
  match m / d with
  | 0 => fxSin a
  | 1 => fxSin b
  | 2 => -fxSin a
  | _ => -fxSin b

/-- cos (2π n / d). -/
def cosTurn (n d : Nat) : Int := sinTurn (4 * n + d) (4 * d)

/-- 1 + x/k × (1 + x/(k+1) × …). -/
def expTail (x : Int) : Nat → Nat → Int
  | 0, _ => fxOne
  | n + 1, k => fxOne + fxMul x (expTail x n (k + 1)) / (k : Int)

/-- e^x: the whole powers of 2 apart, the series. -/
def fxExp (x : Int) : Int :=
  let k := x / fxLn2
  let r := expTail (x % fxLn2) 22 1
  if k < 0 then r / 2 ^ (-k).toNat else r * 2 ^ k.toNat

/-- The first `k` binary places of log2 of a mantissa m / 2^96 from 1 up to 2, by squaring. -/
def logBits : Nat → Nat → Nat
  | 0, _ => 0
  | k + 1, m =>
    let q := m * m / 2 ^ 96
    if 2 ^ 97 ≤ q then 2 ^ k + logBits k (q / 2) else logBits k q

/-- log2 (n / d), neither 0. -/
def fxLog2 (n d : Nat) : Int :=
  let a := n * 2 ^ (96 + Nat.log2 d) / (d * 2 ^ Nat.log2 n)
  let e : Int := (Nat.log2 n : Int) - (Nat.log2 d : Int)
  if a < 2 ^ 96 then (e - 1) * fxOne + logBits 64 (2 * a) else e * fxOne + logBits 64 a

/-- 20 log10 (n / d), neither 0. -/
def fxDb (n d : Nat) : Int := fxMul (20 * fxLog2 n d) fxLog10Two

/-- 10^(g / 20). -/
def fxOfDb (g : Int) : Int := fxExp (fxMul g fxLnTenth)

/-- The greatest number below 2^k, added to v, that still is `ok`, for an `ok` that holds up to some number. -/
def searchUp (ok : Nat → Bool) : Nat → Nat → Nat
  | 0, v => v
  | k + 1, v => searchUp ok k (if ok (v + 2 ^ k) then v + 2 ^ k else v)

/-- p1 × (p2 / p1)^(n / len) to the nearest integer, for p1 not 0: the greatest v with v − 1/2 not above it. The value is
never half-way between two integers, for a rational number whose len-th power is an integer is an integer. -/
def geoNearest (p1 p2 n len : Nat) : Nat :=
  searchUp (fun v => decide ((2 * v - 1) ^ len ≤ 2 ^ len * (p1 ^ (len - n) * p2 ^ n))) 33 0

end Sys2Proof.Machine
end

