-- ==== Sys2Proof/Machine/Flags.lean ====
section
/-! DEFINITION. Every flag and result computation of the Atward instruction set (chapter 9): each works on the
operands' values at the instruction's width and answers the result with the PSW it leaves. -/

namespace Sys2Proof.Machine

/-- PSW bit numbers (chapter 7, PSW). -/
def pswV : Nat := 0
def pswC : Nat := 1
def pswZ : Nat := 2
def pswN : Nat := 3
def pswH : Nat := 4
def pswS : Nat := 8
def pswBA : Nat := 28
def pswI : Nat := 29
def pswPRIV : Nat := 30
def pswSEC : Nat := 31

/-- Bit `i` of a word. -/
def wbit (w : Word) (i : Nat) : Bool := w.getLsbD i

/-- `w` with bit `i` set to `b`. -/
def wsetBit (w : Word) (i : Nat) (b : Bool) : Word :=
  let m := BitVec.ofNat 32 (2 ^ i)
  if b then w ||| m else w &&& ~~~m

/-- PSW with its eight digit carries NC replaced. -/
def pswSetNC (psw : Word) (nc : Nat) : Word :=
  (psw &&& 0xFF00FFFF#32) ||| BitVec.ofNat 32 ((nc % 256) * 65536)

/-- The digit carries NC[7:0] of a PSW. -/
def pswNC (psw : Word) : Nat := (psw.toNat / 65536) % 256

/-- The low `w` bits of a value as a signed number. -/
def sval (w v : Nat) : Int :=
  let u := v % 2 ^ w
  if u < 2 ^ (w - 1) then (u : Int) else (u : Int) - (2 ^ w : Nat)

/-- The low `w` bits of a signed number. -/
def uval (w : Nat) (i : Int) : Nat := (i % ((2 ^ w : Nat) : Int)).toNat

/-- Does a signed number fit in `w` bits? -/
def fits (w : Nat) (i : Int) : Bool :=
  decide (-((2 ^ (w - 1) : Nat) : Int) ≤ i ∧ i < ((2 ^ (w - 1) : Nat) : Int))

/-- PSW with N and Z describing result `r` at width `w` (R216). -/
def setNZ (psw : Word) (w r : Nat) : Word :=
  let p := wsetBit psw pswN (decide (2 ^ (w - 1) ≤ r % 2 ^ w))
  wsetBit p pswZ (decide (r % 2 ^ w = 0))

/-- PSW with C and V set. -/
def setCV (psw : Word) (c v : Bool) : Word := wsetBit (wsetBit psw pswC c) pswV v

/-- The number whose bit `k`, for `k` below `d`, says whether `f k` holds. -/
def ncMask (d : Nat) (f : Nat → Bool) : Nat :=
  (List.range d).foldl (fun m k => if f k then m + 2 ^ k else m) 0

/-- PSW with NC set, and H equal to NC[0] (R294). -/
def setNCH (psw : Word) (nc : Nat) : Word := wsetBit (pswSetNC psw nc) pswH (decide (nc % 2 = 1))

/-- ADD at width `w` (R294). -/
def aluAdd (w a b : Nat) (psw : Word) : Nat × Word :=
  let a := a % 2 ^ w
  let b := b % 2 ^ w
  let r := (a + b) % 2 ^ w
  let nc := ncMask (w / 4) (fun k => decide (16 ^ (k + 1) ≤ a % 16 ^ (k + 1) + b % 16 ^ (k + 1)))
  (r, setNCH (setCV (setNZ psw w r) (decide (2 ^ w ≤ a + b)) (!fits w (sval w a + sval w b))) nc)

/-- SUB, CMP and NEG at width `w`: C and NC are borrows (R294). -/
def aluSub (w a b : Nat) (psw : Word) : Nat × Word :=
  let a := a % 2 ^ w
  let b := b % 2 ^ w
  let r := (a + 2 ^ w - b) % 2 ^ w
  let nc := ncMask (w / 4) (fun k => decide (a % 16 ^ (k + 1) < b % 16 ^ (k + 1)))
  (r, setNCH (setCV (setNZ psw w r) (decide (a < b)) (!fits w (sval w a - sval w b))) nc)

/-- TST: N and Z from a AND b, C and V cleared (chapter 9). -/
def aluTst (w a b : Nat) (psw : Word) : Nat × Word :=
  let r := (a &&& b) % 2 ^ w
  (r, setCV (setNZ psw w r) false false)

/-- AND, OR, XOR and NOT set N and Z only (chapter 9). -/
def aluAnd (w a b : Nat) (psw : Word) : Nat × Word :=
  let r := (a &&& b) % 2 ^ w
  (r, setNZ psw w r)
def aluOr (w a b : Nat) (psw : Word) : Nat × Word :=
  let r := (a ||| b) % 2 ^ w
  (r, setNZ psw w r)
def aluXor (w a b : Nat) (psw : Word) : Nat × Word :=
  let r := (a ^^^ b) % 2 ^ w
  (r, setNZ psw w r)
def aluNot (w s : Nat) (psw : Word) : Nat × Word :=
  let r := 2 ^ w - 1 - s % 2 ^ w
  (r, setNZ psw w r)

/-- SHL by the count in bits [5:0] of b (R295). -/
def aluShl (w a b : Nat) (psw : Word) : Nat × Word :=
  let a := a % 2 ^ w
  let k := b % 64
  let r := if w ≤ k then 0 else (a * 2 ^ k) % 2 ^ w
  let c := decide (0 < k ∧ k < w) && decide ((a / 2 ^ (w - k)) % 2 = 1)
  (r, setCV (setNZ psw w r) c false)

/-- SHR by the count in bits [5:0] of b, zeros in (R295). -/
def aluShr (w a b : Nat) (psw : Word) : Nat × Word :=
  let a := a % 2 ^ w
  let k := b % 64
  let r := if w ≤ k then 0 else a / 2 ^ k
  let c := decide (0 < k ∧ k < w) && decide ((a / 2 ^ (k - 1)) % 2 = 1)
  (r, setCV (setNZ psw w r) c false)

/-- ASR by the count in bits [5:0] of b, sign in; from the width up every bit and C are the sign (R295). -/
def aluAsr (w a b : Nat) (psw : Word) : Nat × Word :=
  let a := a % 2 ^ w
  let k := b % 64
  let neg := decide (2 ^ (w - 1) ≤ a)
  let r := uval w (sval w a / ((2 ^ (min k w) : Nat) : Int))
  let c := if w ≤ k then neg else decide (0 < k) && decide ((a / 2 ^ (k - 1)) % 2 = 1)
  (r, setCV (setNZ psw w r) c false)

/-- MUL: the low `w` bits of the signed product; V when it does not fit, C cleared (R296). -/
def aluMul (w a b : Nat) (psw : Word) : Nat × Word :=
  let p := sval w a * sval w b
  let r := uval w p
  (r, setCV (setNZ psw w r) false (!fits w p))

/-- SATRND_w of an exact accumulator value (chapter 9): round half up by 2^24, then saturate to `w` bits. -/
def satRnd (w : Nat) (acc : Int) : Int × Bool :=
  let q := (acc + 8388608) / 16777216
  let hi : Int := ((2 ^ (w - 1) : Nat) : Int) - 1
  let lo : Int := -((2 ^ (w - 1) : Nat) : Int)
  if hi < q then (hi, true) else if q < lo then (lo, true) else (q, false)

/-- PSW after a saturating operation: V as it saturated, S set with it and never cleared (R297). -/
def setVS (psw : Word) (v : Bool) : Word :=
  let p := wsetBit psw pswV v
  if v then wsetBit p pswS true else p

/-- ACC + a × b modulo 2^72, with V the 72-bit overflow of the sum (chapter 9, MAC). -/
def accMac (acc : Acc) (a b : Nat) : Acc × Bool :=
  let x := acc.toInt + sval 32 a * sval 32 b
  (BitVec.ofInt 72 x, !fits 72 x)

/-- SAT: the rounded and saturated accumulator at width `w`, flags N Z V S (R297, R298). -/
def aluSat (w : Nat) (acc : Acc) (psw : Word) : Nat × Word :=
  let (q, v) := satRnd w acc.toInt
  let r := uval w q
  (r, setVS (setNZ psw w r) v)

/-- Nibble `k` of a value. -/
def nib (v k : Nat) : Nat := (v / 16 ^ k) % 16

/-- Is any of the low `d` nibbles above 9 (R220)? -/
def badDigit (d v : Nat) : Bool := (List.range d).any (fun k => decide (9 < nib v k))

/-- The running state of a digit loop: result so far, carry, NC so far. -/
structure DigitAcc where
  r : Nat
  c : Nat
  nc : Nat
  deriving DecidableEq, Repr

/-- One digit of ADDD (R299). -/
def adddDigit (a b : Nat) (x : DigitAcc) (k : Nat) : DigitAcc :=
  let v := nib a k + nib b k + x.c
  let c := if 10 ≤ v then 1 else 0
  let v := if 10 ≤ v then v - 10 else v
  ⟨x.r + (v % 16) * 16 ^ k, c, x.nc + c * 2 ^ k⟩

/-- One digit of SUBD (R299). -/
def subdDigit (a b : Nat) (x : DigitAcc) (k : Nat) : DigitAcc :=
  let v : Int := (nib a k : Int) - nib b k - x.c
  let c := if v < 0 then 1 else 0
  let v := if v < 0 then v + 10 else v
  ⟨x.r + (v % 16).toNat * 16 ^ k, c, x.nc + c * 2 ^ k⟩

/-- One digit of DADJ (R300). -/
def dadjDigit (a nc0 : Nat) (x : DigitAcc) (k : Nat) : DigitAcc :=
  let v := nib a k + x.c
  let n := (nc0 / 2 ^ k) % 2
  let v := if n = 1 ∨ 9 < v then v + 6 else v
  let c := if 16 ≤ v then 1 else 0
  ⟨x.r + (v % 16) * 16 ^ k, c, x.nc + (if n = 1 ∨ c = 1 then 1 else 0) * 2 ^ k⟩

/-- PSW after a decimal operation: Z from the result, N cleared, C V NC and H as given. -/
def setDec (psw : Word) (w r : Nat) (c v : Bool) (nc : Nat) : Word :=
  setNCH (setCV (wsetBit (wsetBit psw pswN false) pswZ (decide (r % 2 ^ w = 0))) c v) nc

def aluAddd (w a b : Nat) (psw : Word) : Nat × Word :=
  let d := w / 4
  let x := (List.range d).foldl (adddDigit a b) ⟨0, 0, 0⟩
  (x.r, setDec psw w x.r (decide (x.c = 1)) (badDigit d a || badDigit d b) x.nc)

def aluSubd (w a b : Nat) (psw : Word) : Nat × Word :=
  let d := w / 4
  let x := (List.range d).foldl (subdDigit a b) ⟨0, 0, 0⟩
  (x.r, setDec psw w x.r (decide (x.c = 1)) (badDigit d a || badDigit d b) x.nc)

/-- DADJ: C is the resulting NC[D − 1], V is cleared (R300). -/
def aluDadj (w a : Nat) (psw : Word) : Nat × Word :=
  let d := w / 4
  let x := (List.range d).foldl (dadjDigit a (pswNC psw)) ⟨0, 0, 0⟩
  (x.r, setDec psw w x.r (decide ((x.nc / 2 ^ (d - 1)) % 2 = 1)) false x.nc)

/-- The low `d` decimal digits of a number, packed. -/
def packBcd : Nat → Nat → Nat
  | 0, _ => 0
  | d + 1, v => v % 10 + 16 * packBcd d (v / 10)

/-- The number its `d` nibbles weigh by powers of ten, each by its binary value (R301). -/
def unpackBcd : Nat → Nat → Nat
  | 0, _ => 0
  | d + 1, v => v % 16 + 10 * unpackBcd d (v / 16)

/-- Z and V as given, N and C cleared. -/
def setZV (psw : Word) (w r : Nat) (v : Bool) : Word :=
  wsetBit (setCV (wsetBit psw pswZ (decide (r % 2 ^ w = 0))) false v) pswN false

/-- B2BCD: V when the value is 10^D or more; NC cleared (R301). -/
def aluB2bcd (w s : Nat) (psw : Word) : Nat × Word :=
  let d := w / 4
  let s := s % 2 ^ w
  let r := packBcd d s
  (r, pswSetNC (setZV psw w r (decide (10 ^ d ≤ s))) 0)

/-- BCD2B: V when a nibble is above 9 (R301). -/
def aluBcd2b (w s : Nat) (psw : Word) : Nat × Word :=
  let d := w / 4
  let r := unpackBcd d s
  (r, setZV psw w r (badDigit d s))

/-- DIGIT: nibble `k` of s; V when it is above 9 (R302). -/
def aluDigit (w s k : Nat) (psw : Word) : Nat × Word :=
  let r := nib (s % 2 ^ w) k
  (r, setZV psw w r (decide (9 < r)))

/-- The three words one biquad section writes, and whether any of its three roundings saturated (R306). -/
structure BqdOut where
  y : Word
  s1 : Word
  s2 : Word
  sat : Bool
  deriving DecidableEq, Repr

/-- One biquad section in transposed direct form II (R306). -/
def biquad (b0 b1 b2 a1 a2 x s1 s2 : Word) : BqdOut :=
  let y := satRnd 32 (b0.toInt * x.toInt + s1.toInt * 16777216)
  let t1 := satRnd 32 (b1.toInt * x.toInt - a1.toInt * y.1 + s2.toInt * 16777216)
  let t2 := satRnd 32 (b2.toInt * x.toInt - a2.toInt * y.1)
  ⟨BitVec.ofInt 32 y.1, BitVec.ofInt 32 t1.1, BitVec.ofInt 32 t2.1, y.2 || t1.2 || t2.2⟩

/-- The sixteen condition codes, read from PSW (R282). -/
def condHolds (cc : Nat) (psw : Word) : Bool :=
  let n := wbit psw pswN
  let z := wbit psw pswZ
  let c := wbit psw pswC
  let v := wbit psw pswV
  match cc with
  | 0 => z
  | 1 => !z
  | 2 => c
  | 3 => !c
  | 4 => n
  | 5 => !n
  | 6 => v
  | 7 => !v
  | 8 => !c && !z
  | 9 => c || z
  | 10 => n == v
  | 11 => n != v
  | 12 => !z && (n == v)
  | 13 => z || (n != v)
  | 14 => wbit psw pswS
  | _ => true

/-- One step of the reflected CRC-32 of BCRC (R323). -/
def crcBit (c : Nat) : Nat := if c % 2 = 1 then (c / 2) ^^^ 0xEDB88320 else c / 2

/-- The running CRC after one byte (R323). -/
def crcByte (c : Nat) (b : Nat) : Nat :=
  crcBit (crcBit (crcBit (crcBit (crcBit (crcBit (crcBit (crcBit (c ^^^ (b % 256)))))))))

end Sys2Proof.Machine
end

