-- ==== Sys2Proof/Syntax.lean ====
section
/-! DEFINITION. The commands of the DZ-5216 modelled as a block: one constructor of `Instr` per row of
spec/opcode_table.json, with the operands each carries. -/

namespace Sys2Proof

/-- The three rate domains (R102). -/
inductive Dom where
  | f | m | v
  deriving DecidableEq, Repr

/-- The cores that run Atward programs (R214). -/
inductive CoreId where
  | sc (n : Fin 16)
  | cc (n : Fin 4)
  | warden
  deriving DecidableEq, Repr

/-- The bus masters of the master table (chapter 2, privilege and secure filtering). -/
inductive Master where
  | warden
  | cc (n : Fin 4)
  | dict
  | hostSpi
  | anvil
  | jtag
  | dma (ch : Fin 128)
  deriving DecidableEq, Repr

/-- The width of a bus access. -/
inductive Width where
  | byte | half | word | dword
  deriving DecidableEq, Repr

/-- The size suffix of an Atward instruction (chapter 8, SZ). -/
inductive Sz where
  | w | h | b
  deriving DecidableEq, Repr

/-- One operand specifier of an Atward instruction (chapter 8). A near cell is page-direct, and the short indirect
mode is displaced by 0: they name the same word (R225, R262). `none` is an unused specifier. -/
inductive Spec where
  | none
  | pageDirect (f : Nat)
  | disp (n : Fin 8) (d : Int)
  | postInc (n : Fin 8)
  | preDec (n : Fin 8)
  | stack (f : Nat)
  | imm (v : Int)
  | tap (line : Fin 32) (t : Fin 16)
  | coef (f : Nat)
  deriving DecidableEq, Repr

/-- How one Atward instruction is encoded, its opcode apart: short or long form, size, shape, the three specifiers
and IMM12 (chapter 8). `stray`: the words hold what no table of chapters 8 and 9 assigns, a reserved opcode, sub-op, SZ or OP,
or a 1 in a bit that must be 0 and that no specifier carries (R283). -/
structure Enc where
  long : Bool
  sz : Sz
  shape : Nat
  a : Spec
  b : Spec
  c : Spec
  imm : Nat
  stray : Bool
  deriving DecidableEq, Repr

/-- The operations of the Atward instruction set (chapter 9). -/
inductive AOp where
  | mov | push | pop | add | sub | cmp | tst | and | or | xor | not | neg | shl | shr | asr | mul | mac | macr | sat
  | addd | subd | dadj | b2bcd | bcd2b | digit | lin | lout | tap | tput | bqd | skp | rpt | rpti | jmp | jcc | call
  | ret | reti | endFrame | nop | wait | sys | mfs | mts | bmov | bfil | bcmp | bscn | bcrc
  deriving DecidableEq, Repr

/-- One Atward instruction: its operation, its encoding and its condition (0 where it has none). -/
structure AInstr where
  op : AOp
  e : Enc
  cc : Nat
  deriving DecidableEq, Repr

/-- What the converters and pins bring in during the frame that a strike begins: the slots a master TDM port samples,
by port; the two microphone samples; the eight sense samples. Lists that are too short read 0. `upsets` are bits of ECC
memory that have flipped since the strike before: an address in the word, and the mask of its bits (assumption 29). -/
structure StrikeIn where
  din : List (Nat × List Word)
  mic : List Word
  sense : List Word
  upsets : List (Nat × Nat)
  deriving DecidableEq, Repr

/-- The clocks that the monitors watch (R95). -/
inductive ClockId where
  | slow | net | xtal | media
  deriving DecidableEq, Repr

/-- What a network frame carries, as far as chapter 15 tells frames apart. -/
inductive NetBody where
  | rtp (srcIp dstIp : Word) (dport pt : Nat) (seq : BitVec 16) (ts ssrc : Word) (payload : List Byte)
  | udp (srcIp dstIp : Word) (sport dport : Nat) (payload : List Byte)
  | ptp (msgType seq : Nat) (port : BitVec 80) (correction : BitVec 64) (payload : List Byte)
  | arp (request : Bool) (sha : BitVec 48) (spa tpa : Word)
  | icmpEcho (request : Bool) (srcIp dstIp : Word) (payload : List Byte)
  | igmpQuery (general : Bool) (group : Word) (v2 : Bool)
  | igmpReport (group : Word) (source : Option Word) (join v2 : Bool)
  | supervision (node : BitVec 48)
  | pause
  | other (etherType : Nat) (payload : List Byte)
  deriving DecidableEq, Repr

/-- A network frame: addresses, the HSR tag if it has one (path and sequence number), the VLAN tag if it has one
(priority and identifier), its length in bytes, whether its frame check is good, the DSCP and, where the spec states it, the
TTL of its IP header, and what it carries (chapter 15). -/
structure NetFrame where
  dst : BitVec 48
  src : BitVec 48
  hsr : Option (Nat × BitVec 16)
  vlan : Option (Nat × Nat)
  len : Nat
  fcsOk : Bool
  dscp : Nat
  ttl : Option Nat
  body : NetBody
  deriving DecidableEq, Repr

/-- One member of a write: the entry's index and subindex, the value's TYPE code and its bytes (R556). -/
structure Member where
  index : Nat
  sub : Nat
  type : Nat
  value : List Byte
  deriving DecidableEq, Repr

/-- The operations a dictionary request asks for (R556 to R558). -/
inductive ReqOp where
  | read (index sub : Nat)
  | write (m : Member)
  | group (g : Nat) (ms : List Member)
  | subscribe (kind minSev : Nat) (sources : BitVec 64)
  | unsubscribe (kind : Nat)
  | nop
  | bad
  deriving DecidableEq, Repr

/-- Transports of the Riller front end (R536). -/
inductive Transport where
  | udp | can0 | can1
  deriving DecidableEq, Repr

/-- The images of the boot chain (R767) and their copies (R759, R781). -/
inductive ImageKind where
  | stage1 | tenant | preset | plan | engine | control
  deriving DecidableEq, Repr

inductive CopyId where
  | k | slotA | slotB | network | anvil | keepPlan
  deriving DecidableEq, Repr

/-- The main supplies (R842). -/
inductive Supply where
  | core | serdes | nv | vdda | ioA | ioB
  deriving DecidableEq, Repr

/-- The conditions that hold a device reset (R844), the supplies' detectors apart. -/
inductive HoldCause where
  | pin | pwrOk | testMode
  deriving DecidableEq, Repr

/-- A CAN frame: identifier, extended, FD, bit-rate switch, error state indicator, remote request, data (R678). -/
structure CanFrame where
  ident : Nat
  ext : Bool
  fd : Bool
  brs : Bool
  esi : Bool
  rtr : Bool
  data : List Byte
  deriving DecidableEq, Repr

/-- How sending a CAN frame ended: sent, arbitration lost to another node, or an error on the bus (R675). -/
inductive CanEnd where
  | sent | lost | error
  deriving DecidableEq, Repr

/-- How a byte on an I²C-bus ended: acknowledged, not acknowledged, or arbitration lost (R681, R682). -/
inductive I2cEnd where
  | ack | nack | arbLost
  deriving DecidableEq, Repr

/-- The targets of a recovery (R817). -/
inductive RecoverTarget where
  | slotA | slotB | k | plan
  deriving DecidableEq, Repr

/-- What a debugger asks through the JTAG TAP (R831). -/
inductive JtagOp where
  | idcode
  | bypass
  | read (addr : Word)
  | write (addr v : Word)
  | debugCore (n : Fin 4)
  | boundaryScan
  deriving DecidableEq, Repr

/-- The commands of the part: every operation and event of the table. A register access carries the master that makes
it, its address, its width and its value; an event carries what the world outside decides (a measured value, a received
frame, which of several waiting things comes first). -/
inductive Instr where
  /-- STRIKE (R142): At every strike of its domain, each running sample core begins its program again and every frame-rate block computes its frame. -/
  | strike (d : Dom) (inp : StrikeIn)
  /-- HOUSEKEEPING (R147): In the last 64 slots of a frame, the engine does its housekeeping in a fixed order for every core and fixed block whose frame ends there. -/
  | housekeeping (d : Dom)
  /-- HINGE (R104): At each hinge, every change due at that hinge is made in the housekeeping that ends at its strike. -/
  | hinge
  /-- FAMILIES_STOP (R743): Sleep entry completes when the media, reference and network families stop within 32 hinges of hs. -/
  | familiesStop
  /-- CORE_HALTED (R187): After its stop fade, a core halts at the first hinge at or after the end of frame 15. -/
  | coreHalted (n : Fin 16)
  /-- HINGE_TICK (R467): The PTP clock emits a hinge tick at each whole multiple of 62,500 ns. -/
  | hingeTick (lead : Int)
  /-- HOLDOVER_LAPSE (R113): HOLDOVER that has lasted SYS.MCLK_HOLD_LIMIT seconds returns the servo to FREE_RUN. -/
  | holdoverLapse
  /-- BRIDGE_RUN (R134): An asynchronous bridge enters RUN once its ratio estimate has held steady for 1024 external frames. -/
  | bridgeRun (n : Fin 32)
  /-- BRIDGE_STOPPED (R136): An asynchronous bridge that receives no external frame for 64 media-side frames sets STOPPED and fades both directions. -/
  | bridgeStopped (n : Fin 32)
  /-- PATTERN_STEP (R397): A tone generator's sequencer begins the next step after STEP_LEN hinges, making an envelope edge when the step's bit changes. -/
  | patternStep (g : Fin 64)
  /-- GENERATOR_STOPPED (R401): A generator whose run bit was cleared stops once its envelope has fallen. -/
  | generatorStopped (g : Fin 64)
  /-- MOV (R226): MOV copies its source operand to its destination. -/
  | mov (c : CoreId) (e : Enc)
  /-- PUSH (R228): PUSH decrements SP by 4 and writes the operand at SP. -/
  | push (c : CoreId) (e : Enc)
  /-- POP (R228): POP reads the word at SP into the operand and increments SP by 4. -/
  | pop (c : CoreId) (e : Enc)
  /-- ADD (R294): ADD adds b to a and sets the arithmetic flags. -/
  | add (c : CoreId) (e : Enc)
  /-- SUB (R294): SUB subtracts b from a and sets the arithmetic flags. -/
  | sub (c : CoreId) (e : Enc)
  /-- CMP (R294): CMP sets the flags from a − b without storing the result. -/
  | cmp (c : CoreId) (e : Enc)
  /-- TST (R216): TST sets N and Z from a AND b, clears C and V, and stores nothing. -/
  | tst (c : CoreId) (e : Enc)
  /-- AND (R216): AND stores a AND b in a. -/
  | and (c : CoreId) (e : Enc)
  /-- OR (R216): OR stores a OR b in a. -/
  | or (c : CoreId) (e : Enc)
  /-- XOR (R216): XOR stores a XOR b in a. -/
  | xor (c : CoreId) (e : Enc)
  /-- NOT (R216): NOT writes the complement of s to d. -/
  | not (c : CoreId) (e : Enc)
  /-- NEG (R294): NEG writes 0 − s to d. -/
  | neg (c : CoreId) (e : Enc)
  /-- SHL (R295): SHL shifts a left by the count taken from b. -/
  | shl (c : CoreId) (e : Enc)
  /-- SHR (R295): SHR shifts a right by the count taken from b, bringing in zeros. -/
  | shr (c : CoreId) (e : Enc)
  /-- ASR (R295): ASR shifts a right by the count taken from b, bringing in the sign. -/
  | asr (c : CoreId) (e : Enc)
  /-- MUL (R296): MUL stores the low w bits of the signed product of a and b in a. -/
  | mul (c : CoreId) (e : Enc)
  /-- MAC (R219): MAC adds the signed product of a and b to ACC. -/
  | mac (c : CoreId) (e : Enc)
  /-- MACR (R298): MACR accumulates, writes the rounded and saturated accumulator to d, and clears ACC. -/
  | macr (c : CoreId) (e : Enc)
  /-- SAT (R297): SAT writes the rounded and saturated ACC to d. -/
  | sat (c : CoreId) (e : Enc)
  /-- ADDD (R299): ADDD adds b to a digit by digit in packed decimal. -/
  | addd (c : CoreId) (e : Enc)
  /-- SUBD (R299): SUBD subtracts b from a digit by digit in packed decimal. -/
  | subd (c : CoreId) (e : Enc)
  /-- DADJ (R300): DADJ decimal-adjusts a binary sum, using the NC bits of the ADD that produced it. -/
  | dadj (c : CoreId) (e : Enc)
  /-- B2BCD (R301): B2BCD converts an unsigned binary value to packed decimal. -/
  | b2bcd (c : CoreId) (e : Enc)
  /-- BCD2B (R301): BCD2B converts a packed-decimal value to binary. -/
  | bcd2b (c : CoreId) (e : Enc)
  /-- DIGIT (R302): DIGIT extracts nibble k of s into d. -/
  | digit (c : CoreId) (e : Enc)
  /-- LIN (R155): LIN reads the published value of a lane. -/
  | lin (c : CoreId) (e : Enc)
  /-- LOUT (R155): LOUT writes the pending value of a lane. -/
  | lout (c : CoreId) (e : Enc)
  /-- TAP (R166): TAP reads a delay-line tap at (WP − TAP_t) mod L. -/
  | tap (c : CoreId) (e : Enc)
  /-- TPUT (R166): TPUT writes a delay line at position WP. -/
  | tput (c : CoreId) (e : Enc)
  /-- BQD (R306): BQD computes one biquad section and writes its output and states. -/
  | bqd (c : CoreId) (e : Enc)
  /-- SKP_CC (R308): SKP.cc decides by its condition whether the next instruction executes or is skipped. -/
  | skpCc (c : CoreId) (cc : Fin 16) (e : Enc)
  /-- RPT (R310): RPT runs the next instruction n times without interruption. -/
  | rpt (c : CoreId) (e : Enc)
  /-- RPTI (R248): RPTI repeats the next instruction, counting RPC down, and may be interrupted between iterations. -/
  | rpti (c : CoreId) (e : Enc)
  /-- JMP (R279): JMP continues at its target. -/
  | jmp (c : CoreId) (e : Enc)
  /-- JCC (R280): Jcc continues at its target when its condition is true. -/
  | jcc (c : CoreId) (cc : Fin 16) (e : Enc)
  /-- CALL (R229): CALL pushes the return address and continues at its target. -/
  | call (c : CoreId) (e : Enc)
  /-- RET (R229): RET pops the return address into PC. -/
  | ret (c : CoreId) (e : Enc)
  /-- RETI (R253): RETI restores the interrupt frame and updates ACTIVE and RUNLVL. -/
  | reti (c : CoreId) (e : Enc)
  /-- END (R145): END marks the last program slot and stops a sample core until its next strike. -/
  | endFrame (c : CoreId) (e : Enc)
  /-- NOP (R149): NOP does nothing for one slot. -/
  | nop (c : CoreId) (e : Enc)
  /-- WAIT (R250): WAIT stops fetching until an interrupt would be taken. -/
  | wait (c : CoreId) (e : Enc)
  /-- WAIT_WAKE (R250): A core in WAIT resumes when an eligible interrupt becomes pending. -/
  | waitWake (c : CoreId)
  /-- SYS (R239): SYS raises the SYSCALL exception with n in XCAUSE.INFO. -/
  | sysCall (c : CoreId) (e : Enc)
  /-- MFS (R316): MFS copies a system register, masked, to a memory operand. -/
  | mfs (c : CoreId) (e : Enc)
  /-- MTS (R317): MTS writes a memory operand, masked, into a system register. -/
  | mts (c : CoreId) (e : Enc)
  /-- BMOV (R320): BMOV copies a block of elements, in the direction that overlap requires. -/
  | bmov (c : CoreId) (e : Enc) (k : Nat)
  /-- BFIL (R319): BFIL fills a block of elements with a value. -/
  | bfil (c : CoreId) (e : Enc) (k : Nat)
  /-- BCMP (R321): BCMP compares two blocks and stops at the first pair that differs. -/
  | bcmp (c : CoreId) (e : Enc) (k : Nat)
  /-- BSCN (R322): BSCN scans a block for the first element equal to a value. -/
  | bscn (c : CoreId) (e : Enc) (k : Nat)
  /-- BCRC (R323): BCRC computes a CRC-32 over a block into ACC_LO. -/
  | bcrc (c : CoreId) (e : Enc) (k : Nat)
  /-- INTERRUPT_ENTRY (R251): At an interruption point, a control core takes the eligible pending interrupt and pushes its frame. -/
  | interruptEntry (c : CoreId)
  /-- INVALIDATE_DATA_LINE (R237): CACHE_OP 1 invalidates the data-cache line holding CACHE_ADDR. -/
  | invalidateDataLine (c : Fin 4)
  /-- INVALIDATE_DATA_CACHE (R237): CACHE_OP 2 invalidates the whole data cache. -/
  | invalidateDataCache (c : Fin 4)
  /-- INVALIDATE_INSTRUCTION_LINE (R237): CACHE_OP 3 invalidates the instruction-cache line holding CACHE_ADDR. -/
  | invalidateInstructionLine (c : Fin 4)
  /-- INVALIDATE_INSTRUCTION_CACHE (R237): CACHE_OP 4 invalidates the whole instruction cache. -/
  | invalidateInstructionCache (c : Fin 4)
  /-- DOORBELL (R244): A write to SYS.DOORBELL pulses SYS sources 8 to 15. -/
  | doorbell (m : Master) (w : Width) (v : BitVec 64)
  /-- INT_CLR (R243): A write to SYS.INT_CLR_k clears the latches of pulse sources. -/
  | intClr (m : Master) (k : Fin 8) (w : Width) (v : BitVec 64)
  /-- REGISTER_WRITE (R30): A write to a register that has no row of its own behaves as its access code states. -/
  | registerWrite (m : Master) (a : Word) (w : Width) (v : BitVec 64)
  /-- SET_ALIAS_WRITE (R31): A write through the set alias ORs its value into the register as one operation. -/
  | setAliasWrite (m : Master) (a : Word) (w : Width) (v : BitVec 64)
  /-- CLEAR_ALIAS_WRITE (R31): A write through the clear alias clears the named bits of the register as one operation. -/
  | clearAliasWrite (m : Master) (a : Word) (w : Width) (v : BitVec 64)
  /-- TOGGLE_ALIAS_WRITE (R31): A write through the toggle alias XORs its value into the register as one operation. -/
  | toggleAliasWrite (m : Master) (a : Word) (w : Width) (v : BitVec 64)
  /-- CLEAR_ON_READ (R35): A full-width bus read of an RC register returns its value and clears it. -/
  | clearOnRead (m : Master) (a : Word) (w : Width)
  /-- SQ_WRITE_BACK (R38): A write-back to an SQ register clears the named bits whose tags are not newer than the written sequence. -/
  | sqWriteBack (m : Master) (a : Word) (w : Width) (v : BitVec 64)
  /-- WB_WRITE (R43): A write to a WB register lands in its shadow and waits for the block's boundary. -/
  | wbWrite (m : Master) (a : Word) (w : Width) (v : BitVec 64)
  /-- WD_WRITE (R48): A write to a WD register is taken only while its governing enable is 0, and is refused otherwise. -/
  | wdWrite (m : Master) (a : Word) (w : Width) (v : BitVec 64)
  /-- SC_WRITE (R52): A write to an SC register sets WPEND and crosses into the always-on domain. -/
  | scWrite (m : Master) (a : Word) (w : Width) (v : BitVec 64)
  /-- SC_WRITE_LANDED (R52): An SC write lands in the always-on domain, and WPEND clears when the acknowledgement returns. -/
  | scWriteLanded
  /-- LO_WRITE (R56): A write to the _LO half of a 64-bit value is held until a write to _HI. -/
  | loWrite (m : Master) (a : Word) (w : Width) (v : BitVec 64)
  /-- HI_WRITE (R56): A write to the _HI half of a 64-bit value applies both halves together. -/
  | hiWrite (m : Master) (a : Word) (w : Width) (v : BitVec 64)
  /-- POSTED_WRITE_DELIVERY (R66): The bridge delivers a posted write in issue order, logging POSTED_ERR on a bus error. -/
  | postedWriteDelivery (toAudio : Bool)
  /-- SPLIT_READ_RETURN (R68): The data of a split read across the bridge returns and frees its tracking entry. -/
  | splitReadReturn (i : Nat)
  /-- SPLIT_TIMEOUT (R69): A split read not returned within 4096 fabric cycles ends with a bus error. -/
  | splitTimeout (i : Nat)
  /-- FLASH_BANK_WRITE (R24): A write to SYS.FLASH_BANK switches the flash window once every earlier read has completed. -/
  | flashBankWrite (m : Master) (w : Width) (v : BitVec 64)
  /-- REQUEST_ACKNOWLEDGE (R76): The acknowledgement of a request/acknowledge crossing returns and completes the access. -/
  | requestAcknowledge (x : Fin 22)
  /-- MERGED_NOTIFICATION (R84): A merged notification arrives, advancing SEQ once for the source events it merges. -/
  | mergedNotification (x : Fin 22)
  /-- FIFO_RESYNC (R91): After a side leaves reset, a FIFO crossing resynchronises its pointers and becomes ready. -/
  | fifoResync (x : Fin 14)
  /-- SLOW_CLOCK_LOST (R95): The monitor detects a stopped or wrong slow clock and sets SLOW_LOST. -/
  | slowClockLost
  /-- NETWORK_CLOCK_LOST (R95): The monitor detects a stopped or wrong network clock and sets NET_LOST. -/
  | networkClockLost
  /-- CRYSTAL_LOST (R126): On loss of the crystal, the part stops the media family and holds every block outside the always-on domain in reset. -/
  | crystalLost
  /-- MEDIA_PLL_UNLOCK (R123): On media PLL unlock, the part switches to the reference PLL and the servo enters FREE_RUN. -/
  | mediaPllUnlock
  /-- CLOCK_QUALIFIED (R95): A clock's state bit is set once its clearing condition holds. -/
  | clockQualified (k : ClockId)
  /-- NET_TIMEOUT (R97): A NET access not acknowledged within 256 fabric cycles ends with a bus error. -/
  | netTimeout
  /-- SHADOW_WRITE (R192): A shadow write stages a value, copying a clean paired set first and marking it DIRTY. -/
  | shadowWrite (m : Master) (a : Word) (w : Width) (v : BitVec 64)
  /-- COMMIT_REQUEST (R199): A commit request from the group's owner makes the group pending. -/
  | commitRequest (m : Master) (hi : Bool) (w : Width) (v : BitVec 64)
  /-- COEF_BANK_COPY_END (R204): The copy of the new live coefficient bank into the inactive bank ends and releases held writes. -/
  | coefBankCopyEnd (n : Fin 16)
  /-- ARM (R369): A write of ARM arms the graph swap for the next swap step. -/
  | armSwap (m : Master) (w : Width) (v : BitVec 64)
  /-- CANCEL (R378): A write of CANCEL makes the armed swap complete as CANCELLED at the next hinge. -/
  | cancelSwap (m : Master) (w : Width) (v : BitVec 64)
  /-- NODE_WRITE (R332): A direct write to a node's live word is buffered to the hinge, subject to the node limit. -/
  | nodeWrite (m : Master) (a : Word) (w : Width) (v : BitVec 64)
  /-- CLAIM (R341): A claim request queues a claim of a zone at a level. -/
  | claim (m : Master) (w : Width) (v : BitVec 64)
  /-- RELEASE (R346): A release request queues the removal of a claimant's claim on a zone. -/
  | release (m : Master) (w : Width) (v : BitVec 64)
  /-- RELEASE_ALL (R341): A request with OP 3 queues the removal of every claim of the claimant. -/
  | releaseAll (m : Master) (w : Width) (v : BitVec 64)
  /-- RECEIVED_FRAME (R438): A slave TDM port receives a frame and assigns it to an engine frame. -/
  | receivedFrame (p : Fin 6) (slots : List Word) (spacingOk : Bool) (phase : Nat)
  /-- NO_FRAME (R442): A slave port without an FSYNC edge for 2 frame periods enters LOF. -/
  | noFrame (p : Fin 6)
  /-- LINK_UP (R453): A port reports LINK up when sync and auto-negotiation hold. -/
  | linkUp (portB : Bool)
  /-- LINK_DOWN (R453): A port reports LINK down on loss of sync or an auto-negotiation restart. -/
  | linkDown (portB : Bool)
  /-- FRAME_RECEIVED (R459): A frame received on a ring port is forwarded, delivered or discarded. -/
  | frameReceived (portB : Bool) (f : NetFrame) (dt : Nat)
  /-- SUPERVISION_FRAME (R463): The part sends an HSR supervision frame on both ports every 2 s. -/
  | supervisionFrame
  /-- NODE_FORGET (R463): A ring node is forgotten 60 s after its last supervision frame. -/
  | nodeForget (mac : BitVec 48)
  /-- TRANSMIT_PACKET (R477): At each packet boundary, a transmit stream sends a packet of its last P frames. -/
  | transmitPacket (k : Fin 64)
  /-- MISSING_PACKET (R483): A packet without an accepted copy by its frame is counted LOST and its lanes fade. -/
  | missingPacket (k : Fin 64)
  /-- OFFSET_RETURN (R487): After 64 packets that fit at OFFSET 0, the engine resets OFFSET at the next packet boundary. -/
  | offsetReturn (k : Fin 64)
  /-- STREAM_ENABLE (R489): A stream's enable change applies at its packet boundary, with the checks at enable. -/
  | streamEnable (tx : Bool) (k : Fin 64)
  /-- IGMP_REPORT (R474): The part sends the second unsolicited IGMPv3 report 1 s after the first. -/
  | igmpReport (k : Fin 64)
  /-- STEP (R465): A write of PTP_CTRL.STEP steps the PTP clock and clears SYNCED. -/
  | stepPtp (m : Master) (w : Width) (v : BitVec 64)
  /-- SNAP (R466): A write of PTP_CTRL.SNAP copies the PTP time of one instant to the snapshot registers. -/
  | snapPtp (m : Master) (w : Width) (v : BitVec 64)
  /-- SYNC_TIMEOUT (R470): Hardware clears SYNCED when no Sync message has been accepted for PTP_TIMEOUT ms. -/
  | syncTimeout
  /-- PPS_OUT (R472): PTP_PPS_OUT rises as the PTP time passes each whole second. -/
  | ppsOut
  /-- PPS_OUT_END (R472): PTP_PPS_OUT falls after WIDTH ms. -/
  | ppsOutEnd
  /-- PPS_IN_EDGE (R89): A rising edge at PTP_PPS_IN is timestamped. -/
  | ppsInEdge (cycles : Nat)
  /-- REQUEST_PLACEMENT (R501): A request is placed on a tenant queue with the tenant's next arrival number. -/
  | requestPlacement (t : Fin 8) (rank : Fin 8) (tag : BitVec 16) (op : ReqOp)
  /-- REQUEST_TAKE (R505): The dictionary engine takes a queued request once no earlier request names the same entry. -/
  | requestTake
  /-- RESPONSE_HOLD_RELEASE (R509): A completion held for a full response queue is placed when space appears. -/
  | responseHoldRelease (t : Fin 8)
  /-- READ (R497): A READ request returns the live value of an entry. -/
  | readReq (t : Fin 8) (tag : BitVec 16)
  /-- WRITE (R496): A WRITE request sets an entry and completes when the value is in force. -/
  | writeReq (t : Fin 8) (tag : BitVec 16)
  /-- WRITE_GROUP (R510): A WRITE_GROUP request checks its members and writes them to take effect at one hinge. -/
  | writeGroupReq (t : Fin 8) (tag : BitVec 16)
  /-- SUBSCRIBE (R561): SUBSCRIBE replaces the tenant's subscription of that kind. -/
  | subscribeReq (t : Fin 8) (tag : BitVec 16)
  /-- UNSUBSCRIBE (R561): UNSUBSCRIBE ends the tenant's subscription of that kind. -/
  | unsubscribeReq (t : Fin 8) (tag : BitVec 16)
  /-- REQUEST_NOP (R558): A NOP request completes with OK and counts as a heartbeat. -/
  | requestNop (t : Fin 8) (tag : BitVec 16)
  /-- BURST (R514): The engine issues a write-group's members in one burst once enough time remains before the commit step. -/
  | burst (t : Fin 8) (tag : BitVec 16)
  /-- HDONE (R520): A write to DICT.HDONE completes a handler request. -/
  | hdone (m : Master) (w : Width) (v : BitVec 64)
  /-- HANDLER_TIMEOUT (R520): A handler request not completed within HTIMEOUT hinges completes with TIMEOUT. -/
  | handlerTimeout (slot : Fin 1024)
  /-- PERSIST_RECORD (R521): A persistent write's log record is written to the Keep, and the response follows. -/
  | persistRecord (ok : Bool)
  /-- COMPACTION (R522): Compaction of the persistent log completes and the other half becomes active. -/
  | compaction
  /-- DICT_ENABLE (R493): Enabling the dictionary engine checks the records and replays the persistent log. -/
  | dictEnable
  /-- HEARTBEAT_LOST (R528): A tenant without a heartbeat for HB_MISS periods is marked lost and its HB_ACTION is applied. -/
  | heartbeatLost (t : Fin 8)
  /-- TENANT_RESET (R531): A tenant reset request stops the engine placing or taking the tenant's requests. -/
  | tenantReset (m : Master) (w : Width) (v : BitVec 64)
  /-- TENANT_CREATION (R526): T_0's write of a key blob makes a tenant ACTIVE. -/
  | tenantCreation (t : Fin 8) (blob : List Byte) (sess : Fin 32)
  /-- TENANT_DELETION (R527): T_0's write of 0 to a tenant's state deletes the tenant after a tenant reset. -/
  | tenantDeletion (t : Fin 8)
  /-- LOCAL_REQUEST (R535): A privileged master posts a request directly by advancing DICT.Q_PROD. -/
  | localRequest (m : Master) (q : Fin 64) (w : Width) (v : BitVec 64)
  /-- OPEN (R540): A verified OPEN is answered with OPEN_ACK and opens a session. -/
  | openSession (tr : Transport) (ip : Word) (port : Nat) (msg : List Byte) (sid : Word)
  /-- CEILING_RAISE (R541): The raise of the OPEN counter ceiling in the Keep completes. -/
  | ceilingRaise
  /-- REQUEST (R555): A REQUEST message is authenticated and its records are placed in body order. -/
  | requestMsg (tr : Transport) (ip : Word) (port : Nat) (msg : List Byte)
  /-- CLOSE (R547): An authenticated CLOSE closes its session. -/
  | closeSession (tr : Transport) (ip : Word) (port : Nat) (msg : List Byte)
  /-- SESSION_IDLE (R547): A session idle for SESS_IDLE seconds is closed after a CLOSE is sent. -/
  | sessionIdle (n : Fin 32)
  /-- SESS_CLOSE (R547): A write to DICT.SESS_CLOSE closes the named sessions with reason 3. -/
  | sessClose (m : Master) (w : Width) (v : BitVec 64)
  /-- RESPONSE (R560): The front end sends a RESPONSE message carrying the session's placed responses. -/
  | responseMsg (n : Fin 32)
  /-- EVENT (R563): An EVENT message is sent when full or 16 hinges after its first record. -/
  | eventMsg (t : Fin 8) (tap : Bool)
  /-- CAN_FRAME_RECEIVED (R678): A received CAN frame enters the receive FIFO or the Riller front end. -/
  | canFrameReceived (k : Fin 2) (f : CanFrame) (bad : Bool)
  /-- REASSEMBLY_TIMEOUT (R567): A message whose next frame is more than 10 ms late is discarded. -/
  | reassemblyTimeout (k : Fin 2) (ident : Nat)
  /-- BUS_OFF_RECOVERY (R679): With AUTO_RECOVER, the controller rejoins after 128 occurrences of 11 recessive bits. -/
  | busOffRecovery (k : Fin 2)
  /-- CAN_TXREQ (R677): A write to CAN_TXREQ sends the named transmit buffers, lowest identifier first. -/
  | canTxreq (m : Master) (k : Fin 2) (w : Width) (v : BitVec 64)
  /-- RECEIVE_WINDOW_READ (R678): A read of word 17 of the receive window removes the oldest frame. -/
  | receiveWindowRead (m : Master) (k : Fin 2) (i : Fin 18) (w : Width)
  /-- START (R574): CH_CTRL.START applies the staged values and starts a register-mode transfer. -/
  | startDma (m : Master) (ch : Fin 128) (w : Width) (v : BitVec 64)
  /-- TRANSFER_COMPLETE (R575): A register-mode transfer ends once every write has completed, and sets EOC. -/
  | transferComplete (ch : Fin 128)
  /-- TAIL_WRITE (R578): A write to CH_TAIL hands descriptors over, or is refused at SIZE or above. -/
  | tailWrite (m : Master) (ch : Fin 128) (w : Width) (v : BitVec 64)
  /-- DESCRIPTOR_FETCH (R579): A channel fetches the next pending descriptor and checks it. -/
  | descriptorFetch (ch : Fin 128)
  /-- DESCRIPTOR_COMPLETION (R596): A descriptor completes, writes its status and advances HEAD. -/
  | descriptorCompletion (ch : Fin 128)
  /-- LATE_ERR (R594): A bus error returning after a BARRIER 0 status was written sets LATE_ERR. -/
  | lateErr (ch : Fin 128)
  /-- CHANNEL_ENABLE (R604): Writing ENABLE 1 checks the channel's configuration before it runs. -/
  | channelEnable (m : Master) (ch : Fin 128) (w : Width) (v : BitVec 64)
  /-- HELD_ENABLE (R605): An ENABLE held while the channel was not idle takes effect once IDLE is 1. -/
  | heldEnable (ch : Fin 128)
  /-- CHANNEL_DISABLE (R606): Clearing ENABLE stops the channel at once and discards its funnel data. -/
  | channelDisable (m : Master) (ch : Fin 128) (w : Width) (v : BitVec 64)
  /-- DMA_DISABLE (R609): Clearing DMA.CTRL.ENABLE stops every channel as a disable does. -/
  | dmaDisable (m : Master) (w : Width) (v : BitVec 64)
  /-- REQUEST_LINE (R599): An asserted request line lets its channel move one line. -/
  | requestLine (ch : Fin 128)
  /-- WINDOW_RESULT (R613): At the end of each demodulation window, a line monitor forms and classes an impedance result. -/
  | windowResult (n : Fin 8)
  /-- RELAY (R621): The monitor sets its relay bit and drives its GPIO at the hinge after the fault. -/
  | relayDrive (n : Fin 8)
  /-- LM_ACK (R623): An acknowledgement returns a monitor in FAULT with an in-window result to WATCH. -/
  | lmAck (m : Master) (w : Width) (v : BitVec 64)
  /-- LM_LEARN (R618): A learning request puts a monitor in LEARN from its next window. -/
  | lmLearn (m : Master) (w : Width) (v : BitVec 64)
  /-- PASS_START (R630): VT_CTRL.START starts a silent-test pass and queues its claims. -/
  | passStart (m : Master) (w : Width) (v : BitVec 64)
  /-- ABORT (R635): An abort ends a running pass at the next hinge and releases its claims. -/
  | abort (m : Master) (w : Width) (v : BitVec 64)
  /-- AMBIENT_END (R628): At the end of AMBIENT, each slot's stimulus level is fixed from the ambient level. -/
  | ambientEnd
  /-- PREROLL_END (R631): After one sequence period, ACCUM begins with zeroed buffers. -/
  | prerollEnd
  /-- ACCUM_END (R630): After N_PER periods, the stimulus fades and TRANSFORM begins. -/
  | accumEnd
  /-- TRANSFORM_END (R636): The correlation is complete, each slot's results and verdict are formed, and DONE is set. -/
  | transformEnd
  /-- DC_SENSE_SAMPLE (R642): The DC sense samples the bias current every 1 ms and moves the plug state. -/
  | dcSenseSample (x : Fin 2) (microAmps : Nat)
  /-- RELEARN (R644): RELEARN takes I0 and the type afresh and releases every held button. -/
  | relearn (m : Master) (x : Fin 2) (w : Width) (v : BitVec 64)
  /-- GAIN_CHANGE (R649): A microphone gain change applies at the next zero crossing, or after 480 frames. -/
  | gainChange (x : Fin 2)
  /-- CONTACT_SCAN (R653): At each scan, every enabled contact is biased and classed. -/
  | contactScan (n : Fin 8) (cls : Fin 4)
  /-- CONTACT_EVENT (R659): The fabric-side monitor raises a CONTACT event when a crossed counter advances. -/
  | contactEvent (n : Fin 8)
  /-- FORCE (R660): A write of FAULT_CTRL.FORCE sets the FAULT_N latch. -/
  | forceLatch (m : Master) (w : Width) (v : BitVec 64)
  /-- CLEAR (R662): A write of FAULT_CTRL.CLEAR clears the latch unless a fault still stands. -/
  | clearLatch (m : Master) (w : Width) (v : BitVec 64)
  /-- HOST_WRITE (R668): The host SPI WRITE command places words in the write FIFO for ascending addresses. -/
  | hostWrite (a : Word) (count : BitVec 16) (words : List Word)
  /-- WRITE_FIXED (R668): The host SPI WRITE_FIXED command writes every word to one address. -/
  | writeFixed (a : Word) (count : BitVec 16) (words : List Word)
  /-- HOST_READ (R667): The host SPI READ command performs word reads and returns a marker and the data. -/
  | hostRead (a : Word) (count : Nat) (cut : Option Nat)
  /-- READ_FIXED (R667): The host SPI READ_FIXED command reads every word from one address. -/
  | readFixed (a : Word) (count : Nat) (cut : Option Nat)
  /-- HOST_STATUS (R670): The host SPI STATUS command returns the status byte and clears its error bits. -/
  | hostStatus
  /-- HOST_WORD_WRITE (R668): The port writes the next word of the write FIFO once the previous write has responded. -/
  | hostWordWrite
  /-- UART_TXD_WRITE (R673): A write to UART_TXD appends a character to the transmit FIFO. -/
  | uartTxdWrite (m : Master) (k : Fin 2) (w : Width) (v : BitVec 64)
  /-- UART_RXD_READ (R674): A read of UART_RXD removes the oldest receive entry. -/
  | uartRxdRead (m : Master) (k : Fin 2) (w : Width)
  /-- CHARACTER_RECEIVED (R674): A received character enters the receive FIFO, or is dropped when the FIFO is full. -/
  | characterReceived (k : Fin 2) (ch : Byte) (parityErr framingErr brk : Bool)
  /-- I2C_START (R681): A START command issues a start condition and an address byte. -/
  | i2cStart (k : Fin 2) (r : I2cEnd)
  /-- I2C_WRITE (R681): A WRITE command sends a byte and records the acknowledge. -/
  | i2cWrite (k : Fin 2) (r : I2cEnd)
  /-- I2C_READ_ACK (R681): A READ with ACK command reads a byte and acknowledges it. -/
  | i2cReadAck (k : Fin 2) (data : Byte) (r : I2cEnd)
  /-- I2C_READ_NACK (R681): A READ with NACK command reads a byte without acknowledging it. -/
  | i2cReadNack (k : Fin 2) (data : Byte) (r : I2cEnd)
  /-- I2C_STOP (R681): A STOP command issues a stop condition. -/
  | i2cStop (k : Fin 2) (r : I2cEnd)
  /-- I2C_TIMEOUT (R682): SCL held low for more than 25 ms ends the command sequence. -/
  | i2cTimeout (k : Fin 2)
  /-- GPIO_EDGE (R685): A selected edge on a GPIO pin sets its bit in GPIO_EDGE. -/
  | gpioEdge (n : Fin 32) (level : Bool)
  /-- KEEP_CMD (R694): A write of MSG.KEEP_CMD with GO programs the software port's line. -/
  | keepCmd (m : Master) (w : Width) (v : BitVec 64)
  /-- LINE_PROGRAM_DONE (R691): A Keep line program ends, with verification and one retry. -/
  | lineProgramDone (readsBack : Bool)
  /-- PLAY (R697): PLAY plays a clip for the frames it occupies. -/
  | playOp (p : Fin 16)
  /-- GAP (R702): GAP plays n silent M frames. -/
  | gapOp (p : Fin 16)
  /-- SPELL (R704): SPELL plays a decimal number as clips. -/
  | spellOp (p : Fin 16)
  /-- LIST (R705): LIST plays a list of clip indices, optionally dropping leading zeros. -/
  | listOp (p : Fin 16)
  /-- TONE (R706): TONE runs a tone generator for a number of cycles and then continues. -/
  | toneOp (p : Fin 16)
  /-- JUMP (R702): JUMP continues the script at a target word. -/
  | jumpOp (p : Fin 16)
  /-- STOP (R707): STOP ends the script, clears the run bit and sets DONE. -/
  | stopOp (p : Fin 16)
  /-- PLAN_LOAD (R712): The plan loader applies INPUT and TONESET entries and sets LOADED. -/
  | planLoad
  /-- FW_GO (R723): A write of EVT.FW_GO makes a firmware event record. -/
  | fwGo (m : Master) (w : Width) (v : BitVec 64)
  /-- BUCKET_REFILL (R722): The record bucket refills by 16 every 250 hinges. -/
  | bucketRefill
  /-- JOURNAL_LINE_WRITE (R725): The journal writes a line when it holds two records, or after 1 s with one. -/
  | journalLineWrite
  /-- REQUEST_SERVICE (R731): A request SERVICE moves the part from VIGIL watch to SERVICE at the next hinge. -/
  | requestService (m : Master)
  /-- REQUEST_WATCH (R731): A request WATCH moves the part from SERVICE to VIGIL watch at the next hinge. -/
  | requestWatch (m : Master)
  /-- REQUEST_SLEEP (R731): A request SLEEP starts sleep entry from VIGIL watch. -/
  | requestSleep (m : Master)
  /-- REQUEST_EVACUATE (R731): A request EVACUATE from the dictionary engine enters EVACUATE at the next hinge. -/
  | requestEvacuate (m : Master)
  /-- REQUEST_EXIT (R731): A request EXIT from the dictionary engine ends EVACUATE at the next hinge. -/
  | requestExit (m : Master)
  /-- WAKE (R746): A rising level on WAKE held for 2 slow cycles issues a wake request. -/
  | wake (high : Bool)
  /-- WAKE_TIMER (R746): The slow-cycle count reaching WAKE_TIME issues a wake request. -/
  | wakeTimer
  /-- FAST_WAKE (R747): After XTAL_OK, the part checks the seal, zeroes memories, restores context and runs the engine. -/
  | fastWake (straps : Fin 8) (slept : Nat)
  /-- PAD_RELEASE (R745): A write of PAD_RELEASE releases the pads held through sleep. -/
  | padRelease (m : Master) (w : Width) (v : BitVec 64)
  /-- WDOG_KICK (R750): A write of the kick value reloads the watchdog's period. -/
  | wdogKick (m : Master) (c : Fin 4) (w : Width) (v : BitVec 64)
  /-- WATCHDOG_EXPIRY (R751): At watchdog expiry, the core enters LOCKUP. -/
  | watchdogExpiry (c : Fin 4)
  /-- WATCHDOG_RESET (R751): With AUTO_RESET, the core is reset 16 hinges after expiry. -/
  | watchdogReset (c : Fin 4)
  /-- COLD_BOOT (R767): The Warden boots the images in order, from the copies in the order the selection gives. -/
  | coldBoot (straps : Fin 8)
  /-- IMAGE_ATTEMPT (R766): One copy of an image is checked and installed, or fails with a cause. -/
  | imageAttempt (kind : ImageKind) (copy : CopyId)
  /-- BOOT_TIMEOUT (R766): An image attempt that reaches the 2 s boot timer fails with TIMEOUT. -/
  | bootTimeout (kind : ImageKind) (copy : CopyId)
  /-- NETWORK_COPY_TIMEOUT (R761): A network copy not delivered within 10 s fails with SOURCE. -/
  | networkCopyTimeout (kind : ImageKind)
  /-- RECOVERY_LOADER (R833): The ROM recovery loader starts and publishes boot stage RECOVERY. -/
  | recoveryLoader
  /-- VERIFY_GRAPH (R788): VERIFY_GRAPH verifies a graph image into staging and sets VERIFIED. -/
  | verifyGraph (m : Master) (arg : Word)
  /-- MEASURE (R788): MEASURE extends TALLY_7 with a firmware measurement. -/
  | measure (m : Master) (arg : Word)
  /-- BEGIN_SLOT (R811): BEGIN_SLOT makes a flash slot WRITING and opens its write window. -/
  | beginSlot (m : Master) (arg : Word)
  /-- MARK_PENDING (R812): MARK_PENDING checks a written slot and makes it PENDING with 3 trials. -/
  | markPending (m : Master) (arg : Word)
  /-- CONFIRM (R813): CONFIRM makes the pending slot CONFIRMED and ACTIVE and raises the floors. -/
  | confirm (m : Master) (arg : Word)
  /-- ABANDON (R811): ABANDON writes the PENDING slot FAILED. -/
  | abandon (m : Master) (arg : Word)
  /-- WRITE_K (R814): WRITE_K checks an image set and programs the K slot. -/
  | writeK (m : Master) (arg : Word)
  /-- WRITE_PLAN (R815): WRITE_PLAN programs, verifies and loads a new fallback plan. -/
  | writePlan (m : Master) (arg : Word)
  /-- BURN_FLOOR (R811): BURN_FLOOR programs the SVN_FLOOR fuse to a count. -/
  | burnFloor (m : Master) (arg : Word)
  /-- MAILBOX_COMPLETION (R789): A Warden command completes, writes its result and pulses doorbell 7. -/
  | mailboxCompletion
  /-- ROOT_REVOKE (R793): A revocation of a root programs its ROOT_REVOKE bit, unless refused. -/
  | rootRevoke (k : Fin 4)
  /-- TALLY_EXT (R781): A write of WARDEN.TALLY_EXT extends a tally with MEAS. -/
  | tallyExt (m : Master) (w : Width) (v : BitVec 64)
  /-- ANVIL_STATUS (R822): The Anvil STATUS command returns the published status with its buffer indices. -/
  | anvilStatus
  /-- PUT (R823): The Anvil PUT command places bytes in the host-to-Warden FIFO. -/
  | anvPut (lenField : Nat) (bytes : List Byte) (crc : Half) (complete : Bool)
  /-- GET (R824): The Anvil GET command returns bytes from the Warden-to-host FIFO. -/
  | anvGet (rep : Bool) (max : Nat)
  /-- DATA (R818): A DATA message delivers a chunk of an image in answer to an ASK. -/
  | dataChunk (kind : ImageKind) (off : Word) (seq : BitVec 16) (bytes : List Byte)
  /-- NONE (R818): A NONE message fails the attempt for that kind with SOURCE. -/
  | noneImage (kind : ImageKind)
  /-- ASK_TIMEOUT (R818): An ASK unanswered for 100 ms is repeated with a new SEQ. -/
  | askTimeout
  /-- CHAL_REQ (R826): CHAL_REQ makes the Warden answer with a CHALLENGE. -/
  | chalReq (grant : Word) (seq : BitVec 16)
  /-- AUTH (R827): AUTH checks a signed challenge and grants the requested access. -/
  | anvAuth (body : List Byte) (seq : BitVec 16)
  /-- RECOVER (R834): RECOVER rewrites a slot, the K slot or the plan from images drawn by ASK. -/
  | recover (target : RecoverTarget) (seq : BitVec 16)
  /-- REBOOT (R836): REBOOT requests a device reset. -/
  | reboot
  /-- TRANSFER_CLOSE (R829): CLOSE ends the Anvil session and its grants. -/
  | transferClose
  /-- MREAD (R830): MREAD reads words for the host under the MEMORY grant. -/
  | mread (a : Word) (count : Nat) (seq : BitVec 16)
  /-- MWRITE (R830): MWRITE writes words for the host under the MEMORY grant. -/
  | mwrite (a : Word) (words : List Word) (seq : BitVec 16)
  /-- ALWAYS_ON_POWER_UP (R843): VDD_AON33 below 2.50 V resets the whole part, and the always-on domain becomes ready after 1024 slow cycles. -/
  | alwaysOnPowerUp
  /-- DEVICE_RESET (R848): A holding condition, such as RESET_N or PWR_OK low, resets everything outside the always-on domain. -/
  | deviceReset (cause : HoldCause)
  /-- BROWN_OUT (R842): A supply below its threshold for more than 1 µs trips its detector and holds device reset. -/
  | brownOut (s : Supply)
  /-- RESET_RELEASE (R844): Device reset ends at the slow edge after two free slow cycles. -/
  | resetRelease (ioB33 : Bool)
  /-- DEV_RESET (R851): The key written to SYS.DEV_RESET causes a device reset. -/
  | devReset (m : Master) (w : Width) (v : BitVec 64)
  /-- WARDEN_DEV_RESET (R851): A write to WARDEN.DEV_RESET causes a device reset. -/
  | wardenDevReset (m : Master) (w : Width) (v : BitVec 64)
  /-- CORE_RESET (R852): A write to SYS.CC_RESET resets one control core. -/
  | coreReset (m : Master) (w : Width) (v : BitVec 64)
  /-- BLOCK_RESET (R853): A write to SYS.BLK_RESET resets one peripheral block. -/
  | blockReset (m : Master) (w : Width) (v : BitVec 64)
  /-- TAP_RESET (R847): TRST_N low, or five TCK cycles with TMS high, resets the JTAG TAP. -/
  | tapReset
  /-- TRIM_LOAD (R857): The trim load reads the 48 rows, taking copy 0, copy 1 or the default. -/
  | trimLoad
  /-- TEMPERATURE_UPDATE (R891): SYS.TEMP is updated every 16 hinges. -/
  | temperatureUpdate (t : BitVec 16)
  /-- CAN_FRAME_SENT (R677): A CAN controller finishes sending a transmit buffer, winning arbitration or meeting an error, and sets TX_DONE or advances its error counters. -/
  | canFrameSent (k : Fin 2) (b : Fin 8) (r : CanEnd)
  /-- CHARACTER_SENT (R673): A UART shifts the oldest character of its transmit FIFO out as a frame, freeing FIFO space and asserting the transmit request line. -/
  | characterSent (k : Fin 2)
  /-- STATUS_PUBLICATION (R90): The always-on domain publishes the Anvil status into the other buffer, flips the published-buffer index and advances the publication count. -/
  | statusPublication
  /-- JTAG_DEBUG_ACCESS (R831): A debugger performs a debug bus access or control-core debug instruction through the JTAG TAP, which the TAP honours only under a JTAG grant. -/
  | jtagDebugAccess (op : JtagOp)
  /-- FLASH_PROGRAM_COMMAND (R800): A program or erase command to the octal-SPI controller is performed, or is refused for a closed slot with FLASH_WP_EVT.REFUSED. -/
  | flashProgramCommand (off : Word) (erase : Bool) (bytes : List Byte)
  /-- RECOVER_TIMEOUT (R835): An ASK of the recovery loader left unanswered for 10 s ends the RECOVER with DONE SOURCE. -/
  | recoverTimeout
  /-- PHY_INTERRUPT (R244): A change of the PHY_INT_N input asserts or deasserts NET level interrupt source 146. -/
  | phyInterrupt (level : Bool)
  deriving DecidableEq, Repr

end Sys2Proof
end

