-- ==== Sys2Proof/Machine/RegMap.lean ====
section
/-! DEFINITION. The register map: every register of every block with its offset, access code, privilege mark, the bits
that it keeps and its reset value, as the register tables of the chapters give them; and the tables of the engine
table aperture with what their words reset to. -/

namespace Sys2Proof.Machine
open Sys2Proof

/-- The access codes (R30). -/
inductive Cls where
  | rw | ro | rc | sq | wb | wd | sc | w1
  deriving DecidableEq, Repr

/-- Which enable governs a WD register (R48): its block's CTRL.ENABLE, or the one its own table names. -/
inductive Gov where
  | block | core | group | bridge | swap | tdmPort | channel | pass | uart | i2c | eqLane | speedwell | pilot | player
  deriving DecidableEq, Repr

/-- One row of the register map: `count` registers from `off` on, `stride` bytes apart. `mask` has the bits that the
register keeps; the others are reserved and read 0. -/
structure RegRow where
  off : Nat
  stride : Nat
  count : Nat
  cls : Cls
  priv : Bool
  mask : Nat
  reset : Nat
  gov : Gov
  deriving DecidableEq, Repr

/-- A register of its own. -/
def row1 (off : Nat) (cls : Cls) (mask reset : Nat) : RegRow := ⟨off, 4, 1, cls, true, mask, reset, .block⟩
/-- `count` registers, `stride` bytes apart. -/
def rowN (off stride count : Nat) (cls : Cls) (mask reset : Nat) : RegRow :=
  ⟨off, stride, count, cls, true, mask, reset, .block⟩
/-- WD registers governed by an enable of their own. -/
def rowG (off stride count : Nat) (gov : Gov) (mask reset : Nat) : RegRow :=
  ⟨off, stride, count, .wd, true, mask, reset, gov⟩
/-- A register without privilege filtering. -/
def rowU (off : Nat) (cls : Cls) (mask reset : Nat) : RegRow := ⟨off, 4, 1, cls, false, mask, reset, .block⟩

def full : Nat := 0xFFFFFFFF

/-- The BOUNDARY code of each slot's header (R29, R26): 0 none, 1 strike, 2 hinge, 3 packet, 4 descriptor. -/
def boundaryOf (slot : Nat) : Nat :=
  match slot with
  | 2 | 3 | 4 | 5 | 6 | 7 | 8 | 13 => 2
  | 9 => 3
  | 11 => 4
  | 12 => 1
  | _ => 0

/-- CTRL.ENABLE at reset, as each block's chapter gives it: 1 in SYS and AON (R29), SAFE, DMA, MSG, EVT and PORTS, 0 elsewhere. -/
def enableReset (slot : Nat) : Nat :=
  match slot with
  | 0 | 1 | 3 | 11 | 13 | 14 | 15 => 1
  | _ => 0

/-- The common block header (R29). -/
def headerRows (slot : Nat) : List RegRow :=
  [rowU 0x0000 .ro full (0x52160100 + slot), row1 0x0004 .rw 1 (enableReset slot),
    rowU 0x0008 .ro 0xF3 (boundaryOf slot * 16), row1 0x000C .sq 1 0, row1 0x0010 .ro 0x3FFFF 0]

/-- SYS: chapters 2, 3, 4, 7, 20, 22 to 26. -/
def sysRows : List RegRow :=
  [row1 0x0040 .sq 0x1FF 0, row1 0x0044 .ro full 0, row1 0x0048 .ro 0xFFFF07FF 0,
   row1 0x0050 .sq 0xF 0, row1 0x0054 .ro full 0, row1 0x0058 .ro 0xFFFF07FF 0,
   row1 0x0060 .sq 0x3 0, row1 0x0064 .ro full 0, row1 0x0068 .ro 0xFFFF07FF 0,
   row1 0x0070 .rw 1 1, row1 0x0080 .rw 1 0,
   rowU 0x0100 .ro full 0, rowU 0x0104 .ro full 0, rowU 0x0108 .ro full 0, rowU 0x010C .ro 0x1FFF0007 0,
   row1 0x0140 .sq 0x3F 0, row1 0x0144 .ro 0x1F 0x10, row1 0x0148 .ro 0xFFFF 0, rowN 0x0180 4 16 .rc 0xFFFF 0]
  ++ [row1 0x0200 .rw 0xFF03 0x3203, row1 0x0204 .ro 0x1F 0, row1 0x0208 .sq 0x1F 0, row1 0x020C .ro full 0,
   row1 0x0210 .rw full 0, row1 0x0214 .ro full 0, row1 0x0218 .ro full 0, row1 0x021C .rw 0xFFFFFF 0xE10,
   row1 0x0220 .ro full 0, row1 0x0224 .ro full 0, row1 0x0300 .ro 0x1F 0, row1 0x0304 .rw 1 0]
  ++ [row1 0x0400 .ro 0x70333 0, row1 0x0404 .rw 0x7 0, row1 0x0408 .sq 0x1F 0, row1 0x040C .ro 0xF0007 0,
   row1 0x0410 .rw 0xFFFF 0xFFFF, rowN 0x0420 0x10 4 .rw 0x3FFFFFF 0, rowN 0x0424 0x10 4 .w1 full 0,
   rowN 0x0428 0x10 4 .ro 0xFFFFFF 0, row1 0x0460 .ro 0xF 0,
   row1 0x0600 .rw 0xFF 0, row1 0x0604 .rw full 0, row1 0x0608 .ro 0xFFFFFF03 0,
   row1 0x0610 .ro 0x3 0, row1 0x0614 .sq 1 0, row1 0x0618 .ro full 0]
  ++ [row1 0x0700 .rw full 0, row1 0x0704 .w1 0xF 0, row1 0x0708 .w1 0xFFFC 0, row1 0x070C .ro 0xFFFC 0,
   row1 0x0710 .ro 0x7F07 0, row1 0x0714 .ro full 0, row1 0x0718 .ro 0xFFFF 0, row1 0x071C .ro full 0,
   row1 0x0720 .ro 0xFFFF 0, rowN 0x0800 4 48 .ro full 0,
   row1 0x0900 .ro 0xFFFF 0, row1 0x0904 .rw 0xFFFF 0x1A40, row1 0x0908 .sq 0x3 0, row1 0x090C .ro 1 0]
  ++ [rowN 0x1000 4 256 .rw 0x773 0x770, rowN 0x1400 4 8 .ro full 0, rowN 0x1420 4 8 .w1 full 0,
   rowN 0x1500 0x10 4 .ro 0x1FFFF0F 8, rowN 0x1504 0x10 4 .rw 0xF 8, rowN 0x1508 0x10 4 .ro 0x3 0,
   row1 0x1540 .w1 0xFF 0]

/-- AON: chapters 20, 22 to 25. -/
def aonRows : List RegRow :=
  [rowN 0x0100 0x10 8 .sc 0xFFF 0xC00, row1 0x0180 .sc 0xFFFF 0, rowN 0x0200 4 8 .ro 0xFFFF 0, row1 0x0220 .sq 0xFF 0,
   row1 0x0240 .sc 0x3 0, row1 0x0244 .sc 0x3F 0x11, row1 0x0260 .sc 0x3 1, row1 0x0264 .sc full 0,
   row1 0x0268 .sc 0x70F 0, row1 0x026C .sc 0x1 0, row1 0x0280 .sc 0xFF7F0F 0, row1 0x0284 .sc full 0,
   row1 0x0288 .sc 1 0, row1 0x028C .sc 0xFF73 0, row1 0x02A0 .sc 0xFFFF7FFF 1]

/-- ENG: chapters 5 and 11. -/
def engRows : List RegRow :=
  [row1 0x0020 .wb 0xFFFF 0, row1 0x0024 .ro full 0, row1 0x0028 .sq 0xFFFF 0, row1 0x002C .sq 0x1F 0,
   row1 0x0030 .ro 0xF 0, row1 0x0034 .ro 0x3FFF 0,
   row1 0x0040 .w1 0x3 0, rowG 0x0044 4 1 .swap 0xF 0xF, row1 0x0048 .ro 0xFFFFFC0E 0, row1 0x004C .ro 0xFFFF 0,
   row1 0x0050 .ro full 0, row1 0x0054 .ro full 0, row1 0x0058 .ro full 0, row1 0x005C .ro full 0,
   row1 0x0060 .ro full 0, row1 0x0064 .sq 0x7 0,
   rowG 0x0100 0x20 16 .core 0x1FFFF13 1, rowN 0x0104 0x20 16 .ro 0x7FFF1FFF 0x7FFF0000,
   rowG 0x0108 0x20 16 .core full 0, rowG 0x010C 0x20 16 .core full 0, rowN 0x0110 0x20 16 .rc 0xFFFF 0,
   rowN 0x0114 0x20 16 .rc 0xFFFF 0, rowN 0x0118 0x20 16 .ro 0xFFFF 0]

/-- SAFE: chapter 6. -/
def safeRows : List RegRow :=
  [row1 0x0020 .w1 full 0, row1 0x0024 .w1 full 0, row1 0x0028 .ro full 0, row1 0x002C .ro full 0,
   row1 0x0030 .ro full 0, row1 0x0034 .sq 0x7F 0, row1 0x0038 .ro 0x3F 0, row1 0x003C .ro full 0,
   row1 0x0040 .ro 0xFF 0, rowG 0x0100 0x10 64 .group 0xF00FF 0xF00FF, rowN 0x0104 0x10 64 .ro full 0,
   rowN 0x0108 0x10 64 .ro full 0]

/-- WELD: chapter 10. -/
def weldRows : List RegRow :=
  [row1 0x0020 .wb 0xFFF 0x60, row1 0x0024 .ro 0x3FFF 0, row1 0x0028 .rw 0x3FBFF7F 0, row1 0x002C .sq 0x3FF 0,
   row1 0x0030 .ro 0x3FF 0, row1 0x0034 .ro full 0, row1 0x0038 .ro 0x7F0F0F 0, rowN 0x0040 4 8 .ro full 0,
   row1 0x0060 .rw full 0xBBBBBBBF, row1 0x0064 .ro 0xFF 0]

/-- TONE: chapter 12. -/
def toneRows : List RegRow :=
  [row1 0x0020 .wb full 0, row1 0x0024 .wb full 0, row1 0x0028 .wb 0xFFFF 0, rowN 0x0030 4 5 .ro full 0,
   row1 0x0044 .sq 0x7 0, row1 0x0048 .ro 0x7F 0, rowN 0x0050 4 10 .rw full 0x88888888,
   rowG 0x0080 4 16 .pilot 0x800003FF 0, rowN 0x00C0 4 16 .rc 0xFFFF 0]

/-- BRDG: chapter 4. -/
def brdgRows : List RegRow :=
  [row1 0x0020 .wb full 0, row1 0x0024 .sq 0x1F 0, row1 0x0028 .ro 0x1F 0, rowG 0x0100 0x10 32 .bridge 0x3FFEF 0,
   rowN 0x0104 0x10 32 .ro 0xFFFFFF1F 0, rowN 0x0108 0x10 32 .ro full 0, rowN 0x010C 0x10 32 .ro full 0]

/-- QNCH: chapter 12. -/
def qnchRows : List RegRow :=
  [rowN 0x0020 4 8 .wb full 0, row1 0x0040 .ro 0x7FF 0, row1 0x0044 .sq 0xF 0, row1 0x0048 .ro 0x1FF 0,
   row1 0x004C .ro 0xFF000F 0, row1 0x0050 .ro 0xF000F 0, row1 0x0054 .wb 0xFFFF 0,
   rowG 0x0400 4 256 .eqLane 0x13F03FF 0, rowN 0x0800 4 256 .rc 0xFFFF 0, rowG 0x0C00 0x10 16 .speedwell 0x3FF03FF 0,
   rowG 0x0C04 0x10 16 .speedwell 0xFF 0, rowN 0x0C08 0x10 16 .wb 0xFFFF 0x8000, rowN 0x0C0C 0x10 16 .ro 0x3 0]

/-- TDM: chapter 14. -/
def tdmRows : List RegRow :=
  [row1 0x0020 .wb 0x3F 0, row1 0x0024 .rw 0x103 0, row1 0x0028 .sq 0x1F 0, row1 0x002C .ro 0x7 0,
   rowG 0x0100 0x20 6 .tdmPort 0x3FFF3 0x11, rowG 0x0104 0x20 6 .tdmPort 0xFFF 0x100,
   rowG 0x0108 0x20 6 .tdmPort full full, rowN 0x010C 0x20 6 .ro 0xF3 0, rowN 0x0110 0x20 6 .ro 0x7FFF 0,
   rowN 0x0114 0x20 6 .ro full 0, rowN 0x0118 0x20 6 .rc 0xFFFF 0, rowN 0x011C 0x20 6 .rc 0xFFFF 0]

/-- NET: chapter 15. -/
def netRows : List RegRow :=
  [row1 0x0020 .wd 0x73 2, rowN 0x0024 4 2 .rw 0x3 3, rowN 0x002C 4 2 .ro 0xF 0, row1 0x0034 .sq 0x1FF 0,
   row1 0x0038 .rw full 0, row1 0x003C .rw 0xFFFF 0, rowN 0x0040 4 3 .rw full 0, row1 0x004C .rw 0xFF 0,
   rowN 0x0050 4 4 .ro full 0, row1 0x0060 .ro 0xFF 0,
   row1 0x0100 .rw 0x7F033F 0, row1 0x0104 .rw 0xFFFF 0xBB8, row1 0x0108 .rw full 0, rowN 0x010C 4 2 .rw full 0,
   row1 0x0114 .ro 0xFFFF 0, rowN 0x0118 4 2 .ro full 0, rowN 0x0120 4 4 .rw full 0, row1 0x0130 .rw 0xFF01 0x6400,
   rowN 0x0134 4 2 .ro full 0, rowN 0x0200 4 4 .wb full 0, row1 0x0210 .sq 0x3F 0, row1 0x0214 .ro 0xBF 0]

/-- DICT: chapters 16 and 17. -/
def dictRows : List RegRow :=
  [row1 0x0020 .wd 0xFFFFFFE0 0, row1 0x0024 .wd 0x1FFF 0, row1 0x0028 .wd 0x3F 0x30, row1 0x002C .rw 0xFF 0,
   row1 0x0030 .rw 0xFFFFFF 0x3E80, row1 0x0034 .sq 0x7F 0, row1 0x0038 .ro 0x7 0, row1 0x003C .w1 0xFF 0,
   row1 0x0040 .ro 0xFFF0003 0, rowN 0x0080 4 1 .wd full 0, row1 0x0084 .wd 0x7FF 0, row1 0x0088 .ro full 0,
   row1 0x008C .rw full 0, row1 0x0090 .w1 full 0]
  ++ [row1 0x0100 .ro 0x1FF0013 1, rowN 0x0140 0x40 7 .ro 0x1FF0013 0, row1 0x0104 .rw 0xFFFFF 0x303E8,
   rowN 0x0144 0x40 7 .rw 0x3FFFFF 0x1303E8, rowN 0x0108 0x40 8 .ro full 0, rowN 0x0110 0x40 8 .rc 0xFFFF 0,
   rowN 0x0114 0x40 8 .rc 0xFFFF 0, rowN 0x0118 0x40 8 .rc 0xFFFF 0, rowN 0x011C 0x40 8 .rc 0xFFFF 0,
   rowN 0x0120 0x40 8 .rc 0xFFFF 0, rowN 0x0400 0x10 64 .wd full 0, rowN 0x0404 0x10 64 .wd 0x7FF 0,
   rowN 0x0408 0x10 64 .rw full 0, rowN 0x040C 0x10 64 .rw full 0]
  ++ [row1 0x0800 .rw 0xFFFF3F07 0x3C0000, row1 0x0804 .rw 0xFFFF 0xB81A, row1 0x0808 .sq 0x7F 0,
   row1 0x080C .rc 0xFFFF 0, row1 0x0810 .rc 0xFFFF 0, row1 0x0814 .w1 full 0,
   rowN 0x0900 4 128 .ro full 0]

/-- DMA: chapter 18. -/
def dmaRows : List RegRow :=
  [rowN 0x0020 4 4 .ro full 0, rowG 0x0100 0x40 128 .channel 0x7F07 4, rowN 0x0104 0x40 128 .rw 0x3 0,
   rowN 0x0108 0x40 128 .ro 0xF7 1, rowN 0x010C 0x40 128 .sq 0x7F 0, rowN 0x0110 0x40 128 .wb 0x37F 0,
   rowN 0x0114 0x40 128 .wb full 0, rowN 0x0118 0x40 128 .wb full 0, rowN 0x011C 0x40 128 .wb 0xFFFFFF 0,
   rowN 0x0120 0x40 128 .wb 0x103 0, rowN 0x0124 0x40 128 .ro full 0, rowG 0x0128 0x40 128 .channel 0xFFFFFFE0 0,
   rowG 0x012C 0x40 128 .channel 0x1FFF 0, rowG 0x0130 0x40 128 .channel 0xFFF 0, rowN 0x0134 0x40 128 .rw 0xFFF 0,
   rowN 0x0138 0x40 128 .ro full 0, rowN 0x013C 0x40 128 .ro 0xFFF003F 0]

/-- SENSE: chapter 19. -/
def senseRows : List RegRow :=
  [row1 0x0020 .wb 0xFF 0, row1 0x0024 .wb 0xFF 0, row1 0x0028 .w1 0xFF 0, row1 0x002C .w1 0xFF 0,
   row1 0x0030 .sq 0x1F 0, row1 0x0034 .ro 0x7 0, row1 0x0038 .ro 0xFFFF 0, row1 0x003C .rw 0xFF 0,
   rowN 0x0080 4 8 .ro 0xFFFF 0,
   rowN 0x0100 0x20 8 .wd 0x77F0F77 0, rowN 0x0104 0x20 8 .rw full 0x1414, rowN 0x0108 0x20 8 .rw full 0x10000,
   rowN 0x010C 0x20 8 .rw full 0, rowN 0x0110 0x20 8 .rw 0xFFFF 0, rowN 0x0114 0x20 8 .ro full 0,
   rowN 0x0118 0x20 8 .ro 0xFF77FFFF 0, rowN 0x011C 0x20 8 .ro 0xFFFF 0,
   row1 0x0400 .w1 0x3 0, rowG 0x0404 4 1 .pass 0xF0F7F 0x1002C, row1 0x0408 .rw full 0xF880F9C0,
   row1 0x040C .rw full 0x1800500, rowG 0x0410 4 1 .pass full 0, row1 0x0414 .ro 0xFF07 0,
   rowN 0x0420 4 4 .wd 0x800003FF 0, rowN 0x0430 4 4 .ro 0xFFFF 0, row1 0x0440 .sq 0x1F 0]

/-- MSG: chapter 21. -/
def msgRows : List RegRow :=
  [row1 0x0020 .wb 0xFFFF 0, row1 0x0024 .sq 0x7F 0, row1 0x0028 .ro 0xF 0, row1 0x002C .rw 0xFFFFFFF0 0,
   row1 0x0030 .rw 0x1FFF 0, rowN 0x0034 4 2 .rw full 0x88888888, row1 0x0040 .ro 0x7FF0001 0,
   rowN 0x0044 4 1 .ro 0x3FFF 0, row1 0x0048 .ro full 0,
   rowG 0x0100 0x20 16 .player full 0, rowG 0x0104 0x20 16 .player 1 0, rowN 0x0108 0x20 16 .ro 0xFFFFFF7 0,
   rowN 0x010C 0x20 16 .ro full 0, rowN 0x0110 0x20 16 .rc 0xFFFF 0,
   rowN 0x0400 4 16 .rw full 0, row1 0x0440 .rw 0x8001FFFF 0, row1 0x0444 .ro 0x3 0, row1 0x0448 .sq 0x1F 0,
   row1 0x044C .rc 0xFFFF 0]

/-- EVT: chapter 21. -/
def evtRows : List RegRow :=
  [row1 0x0020 .wd 0xFFFFFFE0 0, row1 0x0024 .ro 0x3FFF 0, row1 0x0028 .rw 0x3FFF 0, row1 0x002C .rw 0x7FFF 0x2000,
   row1 0x0030 .sq 0x1F 0, row1 0x0034 .rc 0xFFFF 0, row1 0x0038 .rc 0x3FFFFF 0, row1 0x003C .rc 0xFFFF 0,
   row1 0x0040 .ro 0xFF3FFF 0, rowN 0x0100 4 64 .ro 0xFFFFFF 0, rowN 0x0200 4 7 .rw full 0, row1 0x0220 .w1 1 0]

/-- PORTS: chapter 20. -/
def portsRows : List RegRow :=
  [rowN 0x0100 4 2 .rw 0xFF 0, row1 0x0108 .ro full 0,
   rowN 0x0200 0x40 2 .rw 0x107 0, rowN 0x0204 0x40 2 .wb 0x77 0, rowN 0x0208 0x40 2 .ro 0x3F0F77 4,
   rowN 0x020C 0x40 2 .ro full 0, rowN 0x0210 0x40 2 .ro full 0, rowN 0x0214 0x40 2 .ro full 0,
   rowN 0x0218 0x40 2 .ro full 0, row1 0x02C0 .sq 0x1F 0, row1 0x02C4 .ro 1 0, row1 0x0300 .wb 0x3 0]
  ++ [rowG 0x0400 0x40 2 .uart 0xFFFFF 0x855, rowN 0x0404 0x40 2 .rw 1 0, rowN 0x0408 0x40 2 .rw 0xFF 0,
   rowN 0x040C 0x40 2 .rc 0xFFF 0, rowN 0x0410 0x40 2 .ro 0x7F007F 0, rowN 0x0414 0x40 2 .sq 0x1F 0,
   rowG 0x0700 0x40 2 .i2c 0xFFF0FFF 0, rowN 0x0704 0x40 2 .rw 1 0, rowN 0x0708 0x40 2 .rw 0xFFF 0,
   rowN 0x070C 0x40 2 .rc full 0, rowN 0x0710 0x40 2 .sq 0xF 0]
  ++ [row1 0x0800 .rw full 0, row1 0x0804 .rw full 0, row1 0x0808 .ro full 0, row1 0x080C .ro full 0,
   rowN 0x0810 4 2 .rw full 0x55555555, rowN 0x0818 4 2 .rw full 0, row1 0x0820 .rc full 0, row1 0x0824 .rw full 0]
  ++ [rowN 0x1000 0x400 2 .rw 0x7 0, rowN 0x1004 0x400 2 .wd full 0, rowN 0x1008 0x400 2 .wd 0xFFFF1F1F 0,
   rowN 0x100C 0x400 2 .ro 0x3FFFF 0, rowN 0x1010 0x400 2 .sq 0x3F 0, rowN 0x1014 0x400 2 .w1 0xFF 0,
   rowN 0x1020 4 144 .rw full 0, rowN 0x1420 4 144 .rw full 0, rowN 0x1260 4 18 .ro full 0, rowN 0x1660 4 18 .ro full 0]

/-- Every register of a slot: its header, then its own. -/
def slotRows (slot : Nat) : List RegRow :=
  headerRows slot ++ match slot with
    | 0 => sysRows
    | 1 => aonRows
    | 2 => engRows
    | 3 => safeRows
    | 4 => weldRows
    | 5 => toneRows
    | 6 => brdgRows
    | 7 => qnchRows
    | 8 => tdmRows
    | 9 => netRows
    | 10 => dictRows
    | 11 => dmaRows
    | 12 => senseRows
    | 13 => msgRows
    | 14 => evtRows
    | 15 => portsRows
    | _ => []

/-- Is a word-aligned offset one of the row's registers? -/
def RegRow.has (r : RegRow) (off : Nat) : Bool :=
  decide (r.off ≤ off) && decide ((off - r.off) % r.stride = 0) && decide ((off - r.off) / r.stride < r.count)

/-- The base of the peripheral slots. -/
def slotBase (slot : Nat) : Nat := 0x40000000 + 0x10000 * slot

/-- Does an address lie in the peripheral slots' own range (R20, R26)? -/
def inSlots (a : Nat) : Bool := decide (0x40000000 ≤ a ∧ a < 0x40100000)

/-- The row of the register that holds a word-aligned address in the slots' own range, if one does. -/
def regRowOf (a : Nat) : Option RegRow :=
  if inSlots a then (slotRows (a / 0x10000 % 16)).find? fun r => r.has (a % 0x10000) else none

/-- The Warden's registers (chapters 23 to 25): reset value by offset is 0 throughout, so only occupancy and the bits
kept matter here. -/
def wardenRows : List RegRow :=
  [row1 0x0000 .rw 0x1FFFFF 0, row1 0x0004 .rw 1 0, row1 0x0008 .ro 0xFF070F0F 0, row1 0x000C .rw 0xFFFFFF00 0,
   row1 0x0010 .rw 0xFFFF 0, row1 0x0014 .ro 0xFFFF 0, row1 0x0018 .ro 0xFFFF 0, rowN 0x0020 4 4 .rw full 0,
   rowN 0x0100 4 64 .ro full 0, row1 0x0200 .rw 0xFF 0, rowN 0x0220 4 8 .rw full 0, row1 0x0240 .w1 0x7 0,
   row1 0x0300 .rw 0x3 0, row1 0x0304 .rw 0x7 0, row1 0x0400 .w1 1 0, row1 0x0404 .w1 1 0]

/-- The row of a Warden register. -/
def wardenRowOf (a : Nat) : Option RegRow :=
  if 0xE0000000 ≤ a ∧ a < 0xE0100000 then wardenRows.find? fun r => r.has (a - 0xE0000000) else none

/-- The tables of the engine table aperture, shadows left out. -/
inductive ApTable where
  | window (core entry : Nat)
  | line (core entry off : Nat)
  | bind (grp entry off : Nat)
  | stagedLine (core off : Nat)
  | stagedCore (core off : Nat)
  | node (out inp : Nat)
  | nodeCur (out inp : Nat)
  | inSel (i : Nat)
  | zone (z off : Nat)
  | outZone (o : Nat)
  | destSel (d : Nat)
  | tone (g off : Nat)
  | eqSec (sec off : Nat)
  | limiter (o off : Nat)
  | plan (off : Nat)
  | rxStream (r off : Nat)
  | txStream (t off : Nat)
  | passSlot (k off : Nat)
  deriving DecidableEq, Repr

/-- Which table's word a word-aligned address of the aperture's live half is (chapters 5, 6, 10 to 12, 15, 19, 21);
none where no table lies (R896). A word that a table's own layout does not name is such a place (assumption 28); the
staged line maps and records of chapter 11 are named whole. -/
def apTable (a : Nat) : Option ApTable :=
  let o := a - 0x3C000000
  if o < 0x400 then some (.window (o / 0x40) (o % 0x40 / 4))
  else if 0x100000 ≤ o ∧ o < 0x180000 then
    let w := (o - 0x100000) % 0x80
    if w < 0x10 ∨ 0x40 ≤ w then some (.line ((o - 0x100000) / 0x8000) ((o - 0x100000) % 0x8000 / 0x80) w) else none
  else if 0x200000 ≤ o ∧ o < 0x240000 then
    some (.bind ((o - 0x200000) / 0x1000) ((o - 0x200000) % 0x1000 / 8) (o % 8))
  else if 0x300000 ≤ o ∧ o < 0x380000 then some (.stagedLine ((o - 0x300000) / 0x8000) ((o - 0x300000) % 0x8000))
  else if 0x380000 ≤ o ∧ o < 0x381000 then some (.stagedCore ((o - 0x380000) / 0x100) (o % 0x100))
  else if 0x400000 ≤ o ∧ o < 0x440000 then some (.node ((o - 0x400000) / 0x400) (o % 0x400 / 4))
  else if 0x500000 ≤ o ∧ o < 0x540000 then some (.nodeCur ((o - 0x500000) / 0x400) (o % 0x400 / 4))
  else if 0x440000 ≤ o ∧ o < 0x440400 then some (.inSel (o % 0x400 / 4))
  else if 0x450000 ≤ o ∧ o < 0x452000 then
    let w := o % 0x40
    if w < 0x0C ∨ (0x10 ≤ w ∧ w < 0x34) then some (.zone ((o - 0x450000) / 0x40) w) else none
  else if 0x460000 ≤ o ∧ o < 0x460400 then some (.outZone (o % 0x400 / 4))
  else if 0x470400 ≤ o ∧ o < 0x470C00 then some (.destSel ((o - 0x470000) / 4))
  else if 0x480000 ≤ o ∧ o < 0x481400 then
    let w := o % 0x40
    if w = 0x18 ∨ w = 0x1C then none else some (.tone ((o - 0x480000) / 0x40) w)
  else if 0x490000 ≤ o ∧ o < 0x498000 then
    if o % 0x20 < 0x1C then some (.eqSec ((o - 0x490000) / 0x20) (o % 0x20)) else none
  else if 0x4A0000 ≤ o ∧ o < 0x4A2000 then
    let w := o % 0x20
    if w ≤ 0x08 ∨ w = 0x10 ∨ w = 0x14 then some (.limiter ((o - 0x4A0000) / 0x20) w) else none
  else if 0x580000 ≤ o ∧ o < 0x582000 then some (.plan (o - 0x580000))
  else if 0x600000 ≤ o ∧ o < 0x602000 then
    let w := o % 0x80
    if w < 0x1C ∨ (0x20 ≤ w ∧ w < 0x4C) then some (.rxStream ((o - 0x600000) / 0x80) w) else none
  else if 0x610000 ≤ o ∧ o < 0x611000 then
    let w := o % 0x40
    if w < 0x1C ∨ (0x20 ≤ w ∧ w < 0x2C) then some (.txStream ((o - 0x610000) / 0x40) w) else none
  else if 0x700000 ≤ o ∧ o < 0x700200 then
    if o % 0x20 < 0x14 then some (.passSlot (o % 0x200 / 0x20) (o % 0x20)) else none
  else none

/-- What a stored word reads as while nothing has written it: a register's reset value (R29 and the register tables), a
table word's reset value (chapter 10), and 0 elsewhere. -/
def regDefault (a : Nat) : Word :=
  match regRowOf a with
  | some r => BitVec.ofNat 32 r.reset
  | none =>
    if 0x3C450000 ≤ a ∧ a < 0x3C452000 ∧ a % 0x40 = 0 then 0x1E0#32
    else if 0x3C460000 ≤ a ∧ a < 0x3C460400 then 0xFF#32
    else 0#32

end Sys2Proof.Machine
end

