-- ==== Sys2Proof/Machine/State.lean ====
section
/-! DEFINITION. The state of the DZ-5216 as plain data, the reasons a step can stop, and the state right after reset. -/

namespace Sys2Proof.Machine
open Sys2Proof

/-- The hidden state of a sequence-acknowledged status register (R37 to R39): SEQ, and the tag of each set bit,
by bit number, rising. A bit that is not listed is clear. -/
structure SqReg where
  seq : BitVec 16
  tags : List (Nat × BitVec 16)
  deriving DecidableEq, Repr

def SqReg.zero : SqReg := ⟨0#16, []⟩

/-- The four states of a request on its way through a bus that answers later. `res` is what came back: none is a
bus error. `bad` says that the data met an uncorrectable ECC error. A control core keeps these until the instruction
that waits for them completes. -/
structure BusRet where
  addr : Nat
  write : Bool
  res : Option Nat
  bad : Bool
  deriving DecidableEq, Repr

/-- The level that a bus access carries (chapter 2, privilege and secure filtering). -/
inductive Lvl where
  | secure | privileged | unprivileged
  deriving DecidableEq, Repr

/-- A posted write held by the bridge (R65 to R67). -/
structure Posted where
  master : Master
  lvl : Lvl
  addr : Nat
  width : Nat
  data : Nat
  deriving DecidableEq, Repr

/-- A split read that holds one of the bridge's 16 tracking entries (R68, R69). A lane read by a control core's LIN
is one too; its address lies above the 32-bit space. -/
structure Split where
  master : Master
  lvl : Lvl
  addr : Nat
  width : Nat
  deriving DecidableEq, Repr

/-- How far an access in crossing 12 has come: on its way; acted already, with what it is to answer (none a bus error);
lost, so that no acknowledgement will come; or on its way with nobody left to be answered (R97, R900). -/
inductive NetPhase where
  | asked | acted (res : Option Nat) | lost | orphan
  deriving DecidableEq, Repr

/-- An access on its way through crossing 12 into the network clock (R28, R97). -/
structure NetAcc where
  master : Master
  lvl : Lvl
  addr : Nat
  width : Nat
  write : Bool
  data : Nat
  phase : NetPhase
  deriving DecidableEq, Repr

/-- A slow-copy write on its way into the always-on domain (R52). -/
structure ScCross where
  addr : Nat
  data : Word
  deriving DecidableEq, Repr

/-- One merged-notification crossing (R84): the bits in flight and the bits waiting behind the pending flag. -/
structure Notice where
  inFlight : Bool
  flying : Word
  pend : Bool
  waiting : Word
  deriving DecidableEq, Repr

def Notice.idle : Notice := ⟨false, 0#32, false, 0#32⟩

/-- The fabric's buses, bridge and crossings (chapters 2 and 3). -/
structure BusState where
  /-- posted writes towards the audio fabric, oldest first, at most 32 (R65) -/
  toAudio : List Posted
  /-- posted writes towards the control fabric, oldest first, at most 32 (R65) -/
  toCtl : List Posted
  /-- split reads outstanding, at most 16 (R68) -/
  splits : List Split
  /-- a write of SYS.FLASH_BANK that waits for earlier flash reads (R24) -/
  bankWait : Option Word
  /-- the SC write that is crossing (R53); AON.PEND.WPEND is 1 while there is one -/
  sc : Option ScCross
  /-- the NET access that is crossing (R77) -/
  net : Option NetAcc
  /-- NET accesses that wait their turn (R77) -/
  netWait : List NetAcc
  /-- the model's own: the next NET access that a command makes whole will not be acknowledged in time (R97) -/
  netLate : Bool
  /-- values held in a _LO register until its _HI is written, by address of the _LO (R56) -/
  loHeld : Table (Option Word)
  /-- merged notifications by crossing number: 7, 11 and 14 (R84) -/
  notices : Table Notice
  /-- the far side and the fabric side of each FIFO crossing are ready: the round trip that each began as it left reset
  has completed (R91 to R93) -/
  readyFar : Table Bool
  readyNear : Table Bool
  /-- the model's own: the data that the latest read command of a master that is no core answered, none for a bus error -/
  answer : Option (BitVec 64)
  deriving DecidableEq, Repr

/-- The clock monitors' qualified bits (SYS.CLKMON_STATE, R95). -/
structure ClkMon where
  slowOk : Bool
  netOk : Bool
  xtalOk : Bool
  mediaLock : Bool
  /-- the slow clock has stopped: what it clocks stands still until it is found again (R98) -/
  slowGone : Bool
  deriving DecidableEq, Repr

/-- The four states of the media-clock servo (R113). -/
inductive ServoState where
  | freeRun | acquiring | locked | holdover
  deriving DecidableEq, Repr

/-- The media clock: the two counters, the servo and its pull (chapter 4). -/
structure Mclk where
  /-- SYS.FRAME_CNT, 64 bits (R106) -/
  frameCnt : BitVec 64
  /-- SYS.HINGE_CNT (R106) -/
  hingeCnt : Word
  /-- the media family has not reached its first hinge since device reset (R108) -/
  firstHinge : Bool
  st : ServoState
  /-- hinges that the servo has been in its state (R113) -/
  stAge : Nat
  /-- SYS.MCLK_STAT.BACKUP, GM_LOCAL and SLEWING -/
  backup : Bool
  gmLocal : Bool
  slewing : Bool
  /-- applied pull in 25ths of a unit of SYS.MCLK_PULL, signed (R100) -/
  pull : Int
  /-- SYS.MCLK_HOLD_PULL, SYS.MCLK_PHASE and the N of SYS.MCLK_STEP -/
  holdPull : Int
  phase : Int
  stepN : BitVec 64
  /-- consecutive hinges without a hinge tick, up to 16 (R114) -/
  noTick : Nat
  /-- hinges in a row with the filtered phase error within ±500 ns, up to 16000 (R113) -/
  inLock : Nat
  /-- the latest hinge tick that has been emitted and not crossed yet: its PTP hinge index and the phase error measured
  against it (R111, R112, crossing 11) -/
  tickSent : Option (BitVec 64 × Int)
  /-- the hinge tick that has arrived since the last hinge -/
  tick : Option (BitVec 64 × Int)
  /-- the step N due at the next hinge (R117) -/
  stepDue : Option (BitVec 64)
  /-- the media PLL is locked and qualified again, so the switch back is due at the next hinge (R125) -/
  backDue : Bool
  /-- pulls applied while LOCKED in 25ths of a unit, newest first, each with the hinges it lasted, the last 16 s (R116) -/
  lockHist : List (Int × Nat)
  /-- SYS.FRAME_CNT latched at VIGIL sleep entry (R141) -/
  sleepFrame : BitVec 64
  /-- the pull held since sleep entry, for the switch back after the wake (R141) -/
  sleepPull : Option Int
  /-- the DIV of TDM.MCLK in force since the latest hinge: 0 ÷1, 1 ÷2, 2 ÷4 (R450) -/
  outDiv : Nat
  deriving DecidableEq, Repr

/-- The states of a rate bridge (BRDG.BSTAT_n.STATE). -/
inductive BridgeSt where
  | off | run | acquire | hold
  deriving DecidableEq, Repr

/-- One rate bridge (chapter 4). -/
structure Bridge where
  st : BridgeSt
  cfgErr : Bool
  ratioRange : Bool
  stopped : Bool
  /-- output scale in sixteenths, and where it is going (R134 to R138) -/
  scale : Nat
  rising : Bool
  /-- synchronous: the latest inputs, newest first, at most 96 -/
  hist : List Word
  /-- asynchronous, inwards: each slot's input FIFO as external frames, oldest first, at most 64 (R133); the frames taken
  from it, newest first; and the media-side frames formed of them, newest first (R137) -/
  fifo : List (List Word)
  taken : List (List Word)
  pipe : List (List Word)
  /-- asynchronous, outwards: destination values by media-side frame, newest first; external frames formed of them that
  wait to be sent, oldest first; the scale of what is sent, in sixteenths (R131, R137) -/
  outTaken : List (List Word)
  outFifo : List (List Word)
  outScale : Nat
  /-- asynchronous: the part of an external frame that the media-side frames so far have not used up, in 2^-28 (R133) -/
  acc : Nat
  /-- asynchronous: media-side frames without an external frame (R136) -/
  silentFrames : Nat
  /-- asynchronous: estimated ratio, 4.28 fixed point (BRDG.RATIO_n) -/
  ratio : Word
  /-- asynchronous: consecutive external frames within ±1 ppm, up to 1024, and of what ratio (R134) -/
  steady : Nat
  steadyRef : Word
  /-- asynchronous: a slip's fade to silence is running (R135) -/
  slipping : Bool
  /-- BRDG.SLIPS_n -/
  slips : Word
  deriving DecidableEq, Repr

def Bridge.off : Bridge :=
  { st := .off, cfgErr := false, ratioRange := false, stopped := false, scale := 0, rising := false, hist := [], fifo := [],
    taken := [], pipe := [], outTaken := [], outFifo := [], outScale := 0, acc := 0, silentFrames := 0, ratio := 0#32,
    steady := 0, steadyRef := 0#32, slipping := false, slips := 0#32 }

/-- What an RPTI changed before its governed instruction was decoded: RPC as it stood, and its pointer cell, by address and
value as it stood. An illegal pairing performs nothing (R284, R312). -/
structure RptiUndo where
  rpc : Word
  cell : Option (Word × Word)
  deriving DecidableEq, Repr

/-- The architectural registers of an Atward core (R221), its system registers (chapter 7), and the hidden state of
skips and repeats. -/
structure CoreRegs where
  pc : Word
  psw : Word
  spU : Word
  spP : Word
  page : Word
  acc : Acc
  rpc : Word
  bsrc : Word
  bdst : Word
  bcnt : Word
  bstep : Word
  lpage : BitVec 3
  stklimU : Word
  stklimP : Word
  vbase : Word
  xcause : Word
  xaddr : Word
  cacheAddr : Word
  /-- SKP.cc governs the next instruction: its address, and whether it executes (R308) -/
  skp : Option (Word × Bool)
  /-- RPT repeats the next instruction: the RPT's address and the count (R310) -/
  rpt : Option (Word × Nat)
  /-- RPTI repeats the next instruction: the RPTI's address (R248) -/
  rpti : Option Word
  /-- what that RPTI changed, until its first iteration -/
  undo : Option RptiUndo
  deriving DecidableEq, Repr

def CoreRegs.zero : CoreRegs :=
  ⟨0#32, 0#32, 0#32, 0#32, 0#32, 0#72, 0#32, 0#32, 0#32, 0#32, 0#32, 0#3, 0#32, 0#32, 0#32, 0#32, 0#32, 0#32,
    none, none, none, none⟩

/-- SYS.CC_STAT_c.STATE. -/
inductive CcState where
  | reset | run | wait | lockup
  deriving DecidableEq, Repr

/-- One control-class core: CC_0 to CC_3, or the Warden (index 4). -/
structure CtlCore where
  r : CoreRegs
  st : CcState
  /-- data-cache lines by line number: the 32 bytes as they were read (R236, R237) -/
  dcache : Table (List Byte)
  /-- instruction-cache lines present, by line number, rising -/
  icache : List Nat
  /-- ACTIVE, RUNLVL and LAST_VEC of SYS.IC_STAT_c -/
  active : BitVec 8
  runlvl : Nat
  lastVec : Nat
  /-- what reads and writes that had to wait have returned to the instruction under way -/
  rets : List BusRet
  deriving DecidableEq, Repr

def CtlCore.init (psw : Word) : CtlCore :=
  ⟨{ CoreRegs.zero with psw := psw }, .reset, [], [], 0#8, 8, 0, []⟩

/-- The states of a sample core (chapter 5). -/
inductive ScState where
  | halted | running | ramping | faulted
  deriving DecidableEq, Repr

/-- One sample core (chapter 5). -/
structure SampleCore where
  r : CoreRegs
  st : ScState
  /-- its domain and its output lanes, first and count, as they were when it last started -/
  dom : Dom
  outFirst : Nat
  outCnt : Nat
  /-- next slot of the frame, and the slot of the END retired in it (R145) -/
  slot : Nat
  ended : Option Nat
  /-- nested calls (R153) -/
  depth : Nat
  /-- first ledger cause recorded in the frame, 0 none (R179) -/
  cause : Nat
  /-- fabric cycle of the latest Crucible access in the frame (R177) -/
  crucAt : Option Nat
  /-- ENG.CORE_STAT_n: output scale in sixteenths, latest cause, LAST_END -/
  scale : Nat
  stopping : Bool
  /-- frames published of the stop fade under way, up to 16 (R187) -/
  stopFrames : Nat
  /-- corrected ECC errors of its memories that housekeeping has yet to collect (R147, R164) -/
  eccNew : Nat
  causeReg : Nat
  lastEnd : Nat
  /-- live program and coefficient banks (R160) -/
  pbank : Bool
  cbank : Bool
  /-- the fade of R180 is running: frames of it published -/
  fade : Option Nat
  /-- started at the hinge under way: its inactive coefficient bank is refreshed after the commits (chapter 6) -/
  starting : Bool
  /-- the copy of the live coefficient bank into the inactive one is running (R204), and the bus writes it holds:
  address, bytes, value -/
  copying : Bool
  held : List (Nat × Nat × Nat)
  /-- edge entries armed by a graph swap: new lane, old lane, number of the frame since (R375) -/
  edges : List (Nat × Nat × Nat)
  /-- stopped for VIGIL watch, so that its end starts it again (R742) -/
  watchStopped : Bool
  deriving DecidableEq, Repr

def SampleCore.init : SampleCore :=
  { r := CoreRegs.zero, st := .halted, dom := .m, outFirst := 0, outCnt := 0, slot := 0, ended := none, depth := 0,
    cause := 0, crucAt := none, scale := 0, stopping := false, stopFrames := 0, eccNew := 0, causeReg := 0, lastEnd := 0x7FFF, pbank := false,
    cbank := false, fade := none, starting := false, copying := false, held := [], edges := [], watchStopped := false }

/-- One lane's program value, and the value it fades from (R155, R156, R180). -/
structure LaneVal where
  /-- the value every reader sees -/
  pub : Word
  /-- the value the writer last put, before its core's ramp -/
  raw : Word
  /-- the value written in the frame under way -/
  pend : Option Word
  /-- the value a fault fade starts from -/
  held : Word
  deriving DecidableEq, Repr

def LaneVal.zero : LaneVal := ⟨0#32, 0#32, none, 0#32⟩

/-- The sample engine (chapters 5 and 11). -/
structure Eng where
  sc : Table SampleCore
  lanes : Table LaneVal
  /-- ENG.GSWAP_STAT: completions, cause, result, INCR, ARMED, VERIFIED -/
  swapSeq : BitVec 16
  swapCause : Nat
  swapResult : Nat
  incr : Bool
  armed : Bool
  verified : Bool
  /-- a cancellation waits for the next hinge (R378) -/
  swapCancel : Bool
  /-- GRAPH_ID of the verified image, for the swap to set (R367, R371) -/
  graphId : Word
  deriving DecidableEq, Repr

/-- One commit group (chapter 6). -/
structure Group where
  pending : Bool
  cancelled : Bool
  seq : BitVec 16
  cause : Nat
  result : Nat
  hinge : Word
  deriving DecidableEq, Repr

def Group.init : Group := ⟨false, false, 0#16, 0, 0, 0#32⟩

/-- A paired set, or a location that stands alone, that a commit group binds (chapter 6). -/
inductive CSet where
  | coef (core : Nat)
  | node (out inp : Nat)
  | eq (sec : Nat)
  | qnch (lim : Nat)
  | tone (gen : Nat)
  | line (core entry : Nat)
  deriving DecidableEq, Repr

/-- SAFE: commit groups and DIRTY states (chapter 6). -/
structure Safe where
  groups : Table Group
  dirty : List CSet
  commitSeq : Word
  deriving DecidableEq, Repr

/-- A node's ramp: from gain, frames done, length (R333). -/
structure NodeRamp where
  g0 : Nat
  f : Nat
  len : Nat
  deriving DecidableEq, Repr

/-- The old side of a selection crossfade (R328): a select entry, or a blend frozen at the restart. -/
inductive OldSrc where
  | entry (w : Word)
  | frozen (v : Word)
  deriving DecidableEq, Repr

/-- A selection crossfade under way. -/
structure SelFade where
  old : OldSrc
  f : Nat
  /-- the value read in the latest frame -/
  last : Word
  deriving DecidableEq, Repr

/-- A claim of a zone (R345). -/
structure Claim where
  level : Nat
  rank : Nat
  suspended : Bool
  deriving DecidableEq, Repr

/-- A queued claim request (R341). -/
structure ClaimReq where
  zone : Nat
  claimant : Nat
  level : Nat
  op : Nat
  deriving DecidableEq, Repr

/-- A zone's arbitration outcome (R347 to R358). -/
structure ZoneSt where
  winner : Option Nat
  fallback : Bool
  noFallback : Bool
  deriving DecidableEq, Repr

def ZoneSt.none : ZoneSt := ⟨Option.none, false, false⟩

/-- The Weld matrix (chapter 10). Keys: node `256 o + i`; claim `16 z + k`; gate `16 z + k` with `k = 9` the fallback. -/
structure Weld where
  cur : Table (BitVec 16)
  ramps : Table (Option NodeRamp)
  inFade : Table (Option SelFade)
  inVal : Table Word
  destFade : Table (Option SelFade)
  dest : Table Word
  claims : Table (Option Claim)
  queue : List ClaimReq
  lastReq : Word
  gates : Table Nat
  zones : Table ZoneSt
  /-- mute gates of T_1 to T_7 in 480ths below full: 0 full, 480 muted; and which target silence (R352) -/
  muted : Table Nat
  muteOn : Bool
  /-- output scale of the whole block in sixteenths (WELD disabled), and where it goes -/
  scale : Nat
  rising : Bool
  /-- matrix outputs before EQ, and outputs after Quench -/
  yOut : Table Word
  qOut : Table Word
  /-- inputs (by number) and destinations (from 0x100) that read a lane of another domain (R327, R329) -/
  domBad : List Nat
  deriving DecidableEq, Repr

/-- One EQ lane's enable blend (R389): running, blend frame 0 to 64, towards wet. An F-rate lane holds its latest input and
the latest three samples of its sections at 96 kHz, newest first. -/
structure EqLane where
  run : Bool
  f : Nat
  toWet : Bool
  x1 : Word
  v1 : Word
  v2 : Word
  v3 : Word
  deriving DecidableEq, Repr

def EqLane.off : EqLane := ⟨false, 0, false, 0#32, 0#32, 0#32, 0#32⟩

/-- One Quench limiter (R408, R410). `g` is the gain in 2^-64 dB, 0 or below. -/
structure Limiter where
  g : Int
  hist : List Word
  /-- lookahead crossfade: old lookahead and frame -/
  lfade : Option (Nat × Nat)
  clips : Word
  deriving DecidableEq, Repr

def Limiter.init : Limiter := ⟨0, [], none, 0#32⟩

/-- One Speedwell channel (R412 to R416). -/
structure Speedwell where
  on : Bool
  scale : Nat
  rising : Bool
  g : Nat
  g0 : Nat
  f : Nat
  hist : Word
  deriving DecidableEq, Repr

def Speedwell.off : Speedwell := ⟨false, 0, false, 0x8000, 0x8000, 64, 0#32⟩

/-- QNCH: EQ lanes, limiters, Speedwell channels (chapter 12). -/
structure Qnch where
  eq : Table EqLane
  lim : Table Limiter
  spw : Table Speedwell
  eqUsed : Nat
  /-- the block's output scale in sixteenths (R417) -/
  scale : Nat
  rising : Bool
  deriving DecidableEq, Repr

/-- The states of a tone generator (TONE.STATE_k). -/
inductive ToneSt where
  | off | on | gap | ending
  deriving DecidableEq, Repr

/-- One tone or pilot generator (R393 to R407). The envelope is `num / den`. -/
structure ToneGen where
  st : ToneSt
  phi : Word
  lfsr : Word
  num : Nat
  den : Nat
  step : Nat
  cycle : Nat
  sweep : Nat
  /-- hinges within the step under way (R397) -/
  hinges : Nat
  /-- chime: M frames since the latest start edge, the four phases, and the running amplitudes × 65536^chime (R396) -/
  chime : Nat
  amps : List Nat
  ph0 : Word
  ph1 : Word
  ph2 : Word
  ph3 : Word
  /-- a player's TONE operation waits for this generator (R706): cycles it is to run, 0 none -/
  cycles : Nat
  deriving DecidableEq, Repr

def ToneGen.off : ToneGen :=
  ⟨.off, 0#32, 0#32, 0, 1, 0, 0, 0, 0, 0, [], 0#32, 0#32, 0#32, 0#32, 0⟩

/-- TONE (chapter 12): generators 0x00 to 0x3F and pilots 0x40 to 0x4F. -/
structure Tone where
  gens : Table ToneGen
  /-- the block's scale in sixteenths, of its lanes and of its pilots (R417) -/
  scale : Nat
  pscale : Nat
  rising : Bool
  deriving DecidableEq, Repr

/-- The states of a TDM port (TDM.STAT_p.STATE). -/
inductive TdmSt where
  | off | acquire | run | lof
  deriving DecidableEq, Repr

/-- One TDM port (chapter 14). -/
structure TdmPort where
  st : TdmSt
  cause : Nat
  /-- the slots last received, and the slots of the frame that belongs to the engine frame under way (R438) -/
  rx : List Word
  rxNew : Nat
  /-- consecutive good frames and consecutive framing errors (R442, R444) -/
  good : Nat
  errs : Nat
  /-- M-domain frames since the two latest slips, for the 1024-frame window (R442) -/
  slipAge : Option Nat
  /-- TDM.SLIPS_p and TDM.PHASE_p -/
  slips : Word
  phase : Nat
  /-- input lanes' scale in sixteenths, and where it goes (R443, R444) -/
  scale : Nat
  rising : Bool
  /-- output values sent in the frame under way, by slot: the word on the pins, or none while high-impedance -/
  tx : List (Option Word)
  /-- strikes of its domain since the latest external frame of a slave (R442) -/
  idle : Nat
  /-- a locked slave's frames that no output frame has been assigned to yet, oldest first (R439, R440) -/
  txWait : List (List (Option Word))
  deriving DecidableEq, Repr

def TdmPort.off : TdmPort :=
  ⟨.off, 0, [], 0, 0, 0, none, 0#32, 0, 0, false, [], 0, []⟩

/-- One packet a receive stream has accepted: its play frame, and the play count at which it starts (R479, R481). -/
structure RxPkt where
  q : Word
  start : Nat
  portB : Bool
  deriving DecidableEq, Repr

/-- The states of a stream (STATUS.STATE). -/
inductive StreamSt where
  | off | wait | run | loss
  deriving DecidableEq, Repr

/-- One receive stream's hidden state (R478 to R491). -/
structure RxStream where
  st : StreamSt
  cause : Nat
  realigned : Bool
  portB : Bool
  offset : Word
  /-- the 64-bit play count (R481) -/
  play : Nat
  accepted : List RxPkt
  /-- play count at which the next packet is due, once one has played -/
  due : Option Nat
  /-- frames left of the packet that is playing -/
  playing : Nat
  /-- consecutive missing, discarded LATE or EARLY, played in LOSS, and fitting at OFFSET 0 -/
  missing : Nat
  strays : Nat
  played : Nat
  fits : Nat
  returnDue : Bool
  /-- scale of the lanes in sixteenths, and where it goes (R483) -/
  scale : Nat
  rising : Bool
  /-- a disable waits for the packet boundary (R489) -/
  stopping : Bool
  deriving DecidableEq, Repr

def RxStream.off : RxStream :=
  ⟨.off, 0, false, false, 0#32, 0, [], none, 0, 0, 0, 0, 0, false, 0, false, false⟩

/-- One transmit stream's hidden state (R477). -/
structure TxStream where
  on : Bool
  cause : Nat
  seq : BitVec 16
  /-- the M frames gathered for the packet under way, oldest first -/
  frames : List (List Word)
  deriving DecidableEq, Repr

def TxStream.off : TxStream := ⟨false, 0, 0#16, []⟩

/-- One entry of the HSR duplicate-discard table (R459 to R461): which copies have been seen. -/
structure DdEntry where
  src : BitVec 48
  seq : BitVec 16
  toInternal : Bool
  toA : Bool
  toB : Bool
  /-- the M frame, counted as `Net.age` counts, in which it was noted -/
  age : Word
  deriving DecidableEq, Repr

/-- One HSR node (R463): its address, and the last sequence number seen from it on each port. -/
structure HsrNode where
  mac : BitVec 48
  seqA : Option (BitVec 16)
  seqB : Option (BitVec 16)
  /-- the M frame, as `Net.age` counts, of its last supervision frame -/
  seen : Word
  deriving DecidableEq, Repr

/-- The network ring, the PTP clock and the streams (chapter 15). -/
structure Net where
  linkA : Bool
  linkB : Bool
  /-- crossing-10 counters and their backlogs (R454, R464) -/
  gapBackA : Nat
  gapBackB : Nat
  /-- HSR sequence number of the next frame originated (R458) -/
  hsrSeq : BitVec 16
  dd : List DdEntry
  nodes : List HsrNode
  /-- LINE mode's learned addresses: address, whether it lies behind PORT_B, and the M frame it was last seen in (R455) -/
  learned : List (BitVec 48 × Bool × Word)
  /-- ARP cache, at most 64 entries (R473) -/
  arp : List (Word × BitVec 48)
  /-- receive streams whose second unsolicited report is to come, with the M frame of the first (R474) -/
  igmpDue : List (Nat × Word)
  /-- M frames elapsed, by which the tables age: no counter step changes it (R461) -/
  age : Word
  /-- M frames for which reports still go out as IGMPv2's, after a query of an IGMPv2 querier (R452) -/
  igmpV2 : Nat
  /-- PTP time: seconds, nanoseconds, and the rest in units of 1 / (2^16 × 10^6) ns (R465) -/
  sec : BitVec 48
  ns : Nat
  frac : Nat
  ppsOut : Bool
  /-- frames at each port's egress, in the order they leave, the first of them on the line (R456, R457); those that left
  in the latest M frame; and the frames delivered to the host ring -/
  egressA : List NetFrame
  egressB : List NetFrame
  leftA : List NetFrame
  leftB : List NetFrame
  hostRing : List NetFrame
  rx : Table RxStream
  tx : Table TxStream
  /-- residence times in ns that wait for their Follow_Up: source port identity, sequence identifier, whether by PORT_B
  (R469) -/
  tcDue : List (BitVec 80 × Nat × Bool × Int)
  phyInt : Bool
  deriving DecidableEq, Repr

/-- Where an outstanding request stands (R502 to R520). -/
inductive ReqSt where
  /-- on its queue -/
  | queued
  /-- taken, its checks passed, not yet executed -/
  | taken
  /-- a write-group that waits for a commit group or for another tenant's binding (R512, R513), or for time before the commit step (R514) -/
  | waiting
  /-- executed; in force at the next hinge, through commit group `g` if any (R496) -/
  | atHinge (g : Option Nat)
  /-- a single write whose value waits at the register at this address for a boundary or a crossing (R496) -/
  | inForce (a : Nat)
  /-- a write that asked for a reset of this tenant, which has not ended (R527, R533) -/
  | resetOf (u : Nat)
  /-- passed to the handler ring in this slot (R519, R520) -/
  | handler (slot : Nat)
  /-- in force, waits for `left` log records (R518, R521) -/
  | logging (left : Nat)
  /-- complete, held for a full response queue (R509) -/
  | held
  deriving DecidableEq, Repr

/-- One outstanding request of a tenant. -/
structure Req where
  tag : Nat
  arrival : Word
  queue : Nat
  op : ReqOp
  /-- the Riller session that carried it, its identifier, and whether it was a Warden session -/
  sess : Option Nat
  sid : Word
  warden : Bool
  st : ReqSt
  /-- status, hinge, detail and value of its response once known -/
  status : Nat
  hinge : Word
  detail : Nat
  value : List Byte
  deriving DecidableEq, Repr

/-- A response on a tenant's response queue, or given by the front end directly. -/
structure Resp where
  tag : Nat
  status : Nat
  op : Nat
  hinge : Word
  detail : Nat
  type : Nat
  value : List Byte
  sess : Option Nat
  sid : Word
  deriving DecidableEq, Repr

/-- A subscription of a tenant (R561, R562). -/
structure Subscr where
  sess : Nat
  minSev : Nat
  sources : BitVec 64
  deriving DecidableEq, Repr

/-- The states of a tenant (DICT.TEN_STATE_t.STATE). -/
inductive TenSt where
  | absent | active | resetting
  deriving DecidableEq, Repr

/-- One tenant (chapters 16 and 17). -/
structure Tenant where
  st : TenSt
  lost : Bool
  arrival : Word
  reqs : List Req
  /-- the response queue, oldest first, and the event and log-tap queues (R501, R562) -/
  resps : List Resp
  events : List (List Byte)
  taps : List (List Byte)
  lostEvents : Nat
  lostTaps : Nat
  subEvent : Option Subscr
  subTap : Option Subscr
  /-- a tenant reset under way: 1 accepted, 2 past h1 (R531 to R533); `del` if it ends in deletion -/
  resetting : Nat
  del : Bool
  /-- a release of every claim is due at the next hinge (HB_ACTION 1) -/
  releaseDue : Bool
  /-- the hinge, as `Dict.hinges` counts, of the latest heartbeat (R528), and of the oldest record on the event queue and on
  the log-tap queue (R563) -/
  hbSince : Nat
  evSince : Nat
  tapSince : Nat
  deriving DecidableEq, Repr

def Tenant.init (st : TenSt) : Tenant :=
  ⟨st, false, 0#32, [], [], [], [], 0, 0, none, none, 0, false, false, 0, 0, 0⟩

/-- A record of the persistent log waiting to be written: the tenant and tag that wait for it, entry, value and
FACTORY flag (R521). -/
structure LogRec where
  tenant : Nat
  tag : Nat
  index : Nat
  sub : Nat
  value : List Byte
  factory : Bool
  deriving DecidableEq, Repr

/-- The dictionary engine (chapter 16). -/
structure Dict where
  /-- hinges elapsed; no counter step changes it (R520, R528) -/
  hinges : Nat
  loaded : Bool
  compacting : Bool
  badRec : Nat
  tenants : Table Tenant
  /-- zone owners, 0x2100 + z : 6 -/
  zoneOwner : Table Nat
  /-- how many bytes the value in force of a TEXT or OCTETS entry has, by index × 256 + subindex: none as long as nothing has
  been written, when it has LEN (R6, assumption 30) -/
  lengths : Table (Option Nat)
  /-- round-robin place of each of the three shared ranks (taking order) -/
  rrUrgent : Nat
  rrStream : Nat
  rrNormal : Nat
  /-- handler ring: producer index, and the request of each slot in use: tenant, tag, and the hinge it was passed at -/
  hprod : Nat
  hslots : Table (Option (Nat × Nat × Nat))
  /-- log records not yet written, oldest first; the active half; its next line; next log sequence number -/
  log : List LogRec
  half : Nat
  line : Nat
  logSeq : Word
  deriving DecidableEq, Repr

/-- One Riller session (chapter 17). -/
structure Session where
  tenant : Nat
  warden : Bool
  transport : Transport
  sid : Word
  peerIp : Word
  peerPort : Nat
  /-- hinges since the last authenticated message -/
  idle : Nat
  /-- order of use, for the least recently used (R545) -/
  used : Nat
  /-- highest COUNTER accepted and the record of the 64 below it (R550); bit k is H − k -/
  high : Nat
  window : BitVec 64
  /-- COUNTER of the next message the device sends (R549) -/
  txCounter : Nat
  keyC : List Byte
  keyD : List Byte
  nonceC : List Byte
  nonceD : List Byte
  /-- responses the front end holds for the session (R560) -/
  resps : List Resp
  deriving DecidableEq, Repr

/-- A CAN reassembly under way (R567). -/
structure Reasm where
  bus : Nat
  ident : Nat
  next : Nat
  bytes : List Byte
  /-- hinges since its latest frame -/
  age : Nat
  deriving DecidableEq, Repr

/-- A Riller message sent: transport, peer and bytes. -/
structure SentMsg where
  transport : Transport
  peerIp : Word
  peerPort : Nat
  bytes : List Byte
  deriving DecidableEq, Repr

/-- The Riller front end (chapter 17). -/
structure Riller where
  sessions : Table (Option Session)
  useTick : Nat
  /-- OPEN counter, its ceiling in the Keep, and a raise under way (R541) -/
  openCnt : Nat
  ceiling : Nat
  raising : Bool
  /-- OPENs accepted in the second under way (R544): hinges left of each, newest first -/
  openAges : List Nat
  reasm : List Reasm
  /-- messages awaiting authentication, oldest first, at most 64 (R569) -/
  ingress : List (Transport × Word × Nat × List Byte)
  sent : List SentMsg
  deriving DecidableEq, Repr

/-- A DMA descriptor as fetched (chapter 18). -/
structure Desc where
  src : Word
  dst : Word
  lineLen : Nat
  lineCnt : Nat
  sstride : Word
  dstride : Word
  ctl : Word
  deriving DecidableEq, Repr

/-- One DMA channel's hidden state (chapter 18). -/
structure DmaCh where
  /-- the descriptor or register-mode transfer in progress, with its index in the ring -/
  cur : Option Desc
  regMode : Bool
  /-- the descriptor fetched one ahead (R579) -/
  ahead : Option Desc
  /-- lines done and bytes written so far (R597) -/
  lines : Nat
  xfer : Nat
  /-- error met: code and address (R576, R596) -/
  err : Option (Nat × Word)
  /-- an access already issued is outstanding: IDLE reads 0 (R607) -/
  outstanding : Bool
  /-- an ENABLE is held until IDLE is 1 (R605) -/
  heldEnable : Bool
  cause : Nat
  /-- writes of BARRIER 0 descriptors that met a bus error which has not returned yet: ring index and address (R594) -/
  late : List (Nat × Word)
  deriving DecidableEq, Repr

def DmaCh.idle : DmaCh := ⟨none, false, none, 0, 0, none, false, false, 0, []⟩

/-- The DMA engine: its channels by number. -/
structure Dma where
  ch : Table DmaCh
  deriving DecidableEq, Repr

/-- The states of a line monitor (SENSE.LM_STATE). -/
inductive MonSt where
  | off | learn | watch | fault
  deriving DecidableEq, Repr

/-- One line monitor (R611 to R624). -/
structure Monitor where
  st : MonSt
  /-- class of the latest result, and whether the one before it counts as out of window (R620) -/
  cls : Nat
  prevOut : Bool
  cause : Nat
  count : Nat
  z : Word
  ph : Nat
  amp : Nat
  /-- results taken while learning: |Z|, phase, and whether the class was NO_PILOT (R618) -/
  learned : List (Nat × Int × Bool)
  learnDue : Bool
  relayDue : Bool
  palarm : BitVec 16
  /-- hinges since the window under way began, once one has, and whether its result has been formed (R613) -/
  age : Option Nat
  formed : Bool
  /-- samples of the window taken, and the sums V_c, V_s, I_c and I_s over them, times 2^64 (R612) -/
  taken : Nat
  vc : Int
  vs : Int
  ic : Int
  is : Int
  deriving DecidableEq, Repr

def Monitor.off : Monitor := ⟨.off, 0, false, 0, 0, 0#32, 0, 0, [], false, false, 0#16, none, false, 0, 0, 0, 0, 0⟩

/-- One zone slot of a silent-test pass (R626 to R638). -/
structure VtSlot where
  live : Bool
  /-- amplitude a of R625, fixed for the pass (R629) -/
  amp : Nat
  /-- fade of the stimulus to 0: frames left, with its length -/
  fade : Option (Nat × Nat)
  deriving DecidableEq, Repr

def VtSlot.none : VtSlot := ⟨false, 0, Option.none⟩

/-- The silent test (R630 to R638): phase 0 IDLE to 6 DONE. -/
structure Vt where
  phase : Nat
  /-- hinges of AMBIENT that have passed -/
  hinges : Nat
  /-- the sequence frame, and the periods accumulated -/
  frame : Nat
  periods : Nat
  slots : Table VtSlot
  abortDue : Bool
  refBad : List Nat
  /-- sum of squares of each reference over AMBIENT (R628) -/
  sumSq : Table Nat
  releaseDue : Bool
  deriving DecidableEq, Repr

/-- Line supervision and the silent test (chapter 19). -/
structure Sense where
  mon : Table Monitor
  vt : Vt
  deriving DecidableEq, Repr

/-- The plug states of a microphone line (R642). -/
inductive Plug where
  | absent | inserting | present | short | disabled
  deriving DecidableEq, Repr

/-- One microphone line (chapter 20): its DC sense, its buttons, its gate and its gain. -/
structure MicLine where
  plug : Plug
  /-- consecutive DC-sense samples that agree on the next plug state (R642) -/
  runHi : Nat
  runLo : Nat
  runBig : Nat
  /-- samples taken towards I0 and their sum, µA (R643) -/
  i0n : Nat
  i0sum : Nat
  /-- I0 in µA, once learnt -/
  i0 : Nat
  learnt : Bool
  /-- button code under test, its run, and the code accepted (R645) -/
  cand : Nat
  candRun : Nat
  code : Nat
  /-- press counters: PTT, CHIME, ZONE_1 to ZONE_4 (R646) -/
  presses : List (BitVec 16)
  /-- latest bias current, µA -/
  latest : Nat
  /-- gate in sixteenths, and its target (R650) -/
  gate : Nat
  gateUp : Bool
  /-- the gain in force, and whether a change waits (R649) -/
  gain : Nat
  gainWait : Bool
  /-- the gain waited for, the M frames since its hinge, the sign of the latest sample, and whether its frame has come (R649) -/
  gainTo : Nat
  gainAge : Nat
  gainNeg : Bool
  gainDue : Bool
  /-- the high-pass's latest input and output (R648) -/
  hpIn : Word
  hpOut : Word
  deriving DecidableEq, Repr

def MicLine.init : MicLine :=
  ⟨.absent, 0, 0, 0, 0, 0, 0, false, 0, 0, 0, List.replicate 6 0#16, 0, 0, false, 0, false, 0, 0, false, false, 0#32, 0#32⟩

/-- One contact input (chapter 20): classes as CT_STAT codes them: 0 NORMAL, 1 ACTIVE, 2 OPEN, 3 SHORT. -/
structure Contact where
  /-- class accepted, class under test and its run (R654) -/
  cls : Nat
  cand : Nat
  run : Nat
  /-- transition counter, 16 bits (R654) -/
  cnt : BitVec 16
  /-- the count and class that the fabric-side monitor saw last (R659) -/
  seen : BitVec 16
  seenCls : Nat
  /-- an ALARM contact silenced (R734) -/
  silenced : Bool
  /-- an accepted transition into ACTIVE that the fabric has not acted on (R11, R732) -/
  alarmDue : Bool
  silenceDue : Bool
  deriving DecidableEq, Repr

def Contact.init : Contact := ⟨0, 0, 0, 0#16, 0#16, 0, false, false, false⟩

/-- One UART (R672 to R674): transmit FIFO, receive FIFO with each character's three error bits. -/
structure Uart where
  tx : List Byte
  rx : List (Byte × Bool × Bool × Bool)
  /-- characters that have left, newest last -/
  out : List Byte
  deriving DecidableEq, Repr

def Uart.init : Uart := ⟨[], [], []⟩

/-- One CAN controller (R675 to R679). -/
structure Can where
  rx : List CanFrame
  /-- transmit buffers waiting, and the one on the bus -/
  pending : List Nat
  tec : Nat
  recErr : Nat
  busOff : Bool
  sent : List CanFrame
  deriving DecidableEq, Repr

def Can.init : Can := ⟨[], [], 0, 0, false, []⟩

/-- One I²C controller (R680 to R683). -/
structure I2c where
  cmds : List Nat
  rsp : List Nat
  holding : Bool
  deriving DecidableEq, Repr

def I2c.init : I2c := ⟨[], [], false⟩

/-- The host SPI port (R665 to R671): words waiting with their addresses, the status byte's error bits. -/
structure HostSpi where
  fifo : List (Word × Word)
  wrErr : Bool
  rdErr : Bool
  overrun : Bool
  proto : Bool
  /-- what the latest READ or STATUS command answered: marker or status byte, then words -/
  answer : List Word
  deriving DecidableEq, Repr

/-- PORTS, the contacts and FAULT_N (chapter 20). -/
structure Ports where
  mic : Table MicLine
  contacts : Table Contact
  hs : HostSpi
  uart : Table Uart
  can : Table Can
  i2c : Table I2c
  /-- GPIO pins: level at each input; pads held through sleep -/
  gpioIn : Word
  padsHeld : Bool
  /-- monitor DAC: its scale in sixteenths and its two values -/
  monScale : Nat
  monL : Word
  monR : Word
  /-- samples on their way through the converters, newest first: microphones, sense channels, monitor (R419) -/
  micPipe : List (List Word)
  sensePipe : List (List Word)
  monPipe : List (Word × Word)
  deriving DecidableEq, Repr

/-- One Keep line waiting at a port of the Keep controller (R688): first byte's offset in the Keep, its 64 bytes, whether a retry was made. -/
structure KeepLine where
  off : Nat
  bytes : List Byte
  retried : Bool
  deriving DecidableEq, Repr

/-- The four states of a message player, and its ending fade (R700 to R707). -/
inductive PlaySt where
  | off | play | gap | tone | ending
  deriving DecidableEq, Repr

/-- One message player (chapter 21). -/
structure Player where
  st : PlaySt
  word : Nat
  clip : Nat
  frame : Nat
  left : Nat
  /-- clips still to play of a SPELL or LIST under way -/
  queue : List Nat
  /-- counters of JUMP words, by word index -/
  jumps : Table (Option Nat)
  /-- the generator of a TONE under way, and whether it has been seen running (R706) -/
  toneGen : Nat
  toneRan : Bool
  /-- the ending fade: sixteenths left, and the value it fades from (R707) -/
  fade : Nat
  val : Word
  /-- operations in a row that took no frames (R703) -/
  ops : Nat
  /-- the clip's source has failed: the rest of it is silent (R699) -/
  failed : Bool
  deriving DecidableEq, Repr

def Player.off : Player := ⟨.off, 0, 0, 0, 0, [], [], 0, false, 0, 0#32, 0, false⟩

/-- The Keep controller, the players and the plan (chapter 21). `prog` is the port whose line is programming: 0 Warden, 1 dictionary, 2 journal, 3 software. -/
structure Msg where
  keep : Table (Option KeepLine)
  prog : Option Nat
  rr : Nat
  players : Table Player
  /-- the plan that the loader is to apply next: the Warden has verified it (R712) -/
  loadDue : Bool
  /-- LOADED is cleared at the next hinge (R815) -/
  planClear : Bool
  /-- the plan's clip table: address and entries (R710) -/
  planClips : Nat
  planCount : Nat
  deriving DecidableEq, Repr

/-- The event log (chapter 21). -/
structure Evt where
  seq : Table (BitVec 24)
  /-- sources that have made a record since their sequences restarted (R721) -/
  begun : List Nat
  bucket : Nat
  /-- journal: records that wait, head line and lap (R725, EVT.JHEAD) -/
  jwait : List (List Byte)
  jline : Nat
  lap : Nat
  /-- hinges since the bucket's latest refill fell due, and since the oldest waiting record stood alone (R722, R725) -/
  hinges : Nat
  jage : Nat
  deriving DecidableEq, Repr

/-- The operating modes (R729). -/
inductive Mode where
  | service | watch | evacuate
  deriving DecidableEq, Repr

/-- The stages of VIGIL sleep (R743 to R748): awake, entry since hs, asleep, waking. -/
inductive SleepSt where
  | awake | entry | asleep | waking
  deriving DecidableEq, Repr

/-- Operating modes and watchdogs (chapter 22). -/
structure Modes where
  mode : Mode
  autonomy : Bool
  evacCause : Nat
  evacContact : Nat
  /-- the queued request: its value and whether the dictionary engine wrote it (R731) -/
  request : Option (Nat × Bool)
  sleep : SleepSt
  /-- hinges since hs -/
  sleepHinges : Nat
  /-- a wake request has been issued and not yet served (R743, R746) -/
  wake : Bool
  /-- the level of WAKE -/
  wakePin : Bool
  /-- an ALARM contact accepted a transition into ACTIVE during sleep or its entry (R748) -/
  alarmInSleep : Bool
  /-- the part boots: contacts that are ACTIVE act at the first hinge after the plan is loaded (R741) -/
  booting : Bool
  wdLeft : Table Nat
  /-- hinges since each watchdog's expiry (R751) -/
  wdSince : Table Nat
  /-- the context captured at hs: register words by address (R745) -/
  context : Table Word
  deriving DecidableEq, Repr

/-- A measurement block (R781): type, copy, key index, SVN, BUILD, length, digest. -/
structure Meas where
  type : Nat
  copy : Nat
  key : Nat
  svn : Nat
  build : Nat
  len : Nat
  digest : List Byte
  deriving DecidableEq, Repr

/-- What the Warden knows of one image of the running boot. -/
structure BootImg where
  copy : CopyId
  key : Nat
  svn : Nat
  build : Nat
  load : Word
  entry : Word
  resume : Word
  deriving DecidableEq, Repr

/-- The fuse block's security rows (R753) and its trim rows: copies of 40 bits (R855). -/
structure Fuses where
  rootHash : List (List Byte)
  rootRevoke : BitVec 4
  kImgf : List Byte
  kDev : List Byte
  bootLock : BitVec 4
  serial : List Byte
  svnFloor : Nat
  trim0 : List (BitVec 40)
  trim1 : List (BitVec 40)
  deriving DecidableEq, Repr

/-- Slot states (R801). -/
inductive SlotSt where
  | empty | writing | pending | confirmed | failed
  deriving DecidableEq, Repr

/-- The slot-state record in force (R801). -/
structure SlotRec where
  seq : Word
  activeB : Bool
  stA : SlotSt
  stB : SlotSt
  trials : Nat
  buildA : Word
  buildB : Word
  /-- SVN_MIN of STAGE1, TENANT, PRESET, CONTROL, ENGINE, PLAN -/
  svnMin : List Nat
  openCeil : Nat
  anvCeil : Nat
  deriving DecidableEq, Repr

/-- The session of the Anvil port (R826 to R829). -/
inductive AnvSt where
  | closed | challenged | opened
  deriving DecidableEq, Repr

/-- A transfer under way (R818, R834, R835): over the Anvil port or the network, the kind asked for, the bytes taken so
far, SEQ, offset and count of the outstanding ASK; in a recovery its target, the SEQ of its RECOVER and the images drawn
already. -/
structure Xfer where
  anvil : Bool
  kind : ImageKind
  got : List Byte
  seq : BitVec 16
  off : Nat
  count : Nat
  target : Option RecoverTarget
  reqSeq : BitVec 16
  drawn : List (ImageKind × List Byte)
  deriving DecidableEq, Repr

/-- The Anvil port (chapter 24). -/
structure Anvil where
  st : AnvSt
  chal : List Byte
  chalGrant : Word
  /-- hinges since the latest challenge was issued -/
  chalAge : Nat
  chalCnt : Nat
  rateOk : Bool
  grants : BitVec 3
  key : Nat
  fails : Nat
  toWarden : List Byte
  /-- bytes of the host-to-Warden FIFO that the Warden has drawn -/
  rx : List Byte
  toHost : List Byte
  held : List Byte
  /-- published status: buffer index, the two buffers' 16 published bytes, the count (R822, R90) -/
  pubIdx : Bool
  pub : List Byte
  pubCnt : BitVec 16
  /-- what the latest transaction answered -/
  answer : List Byte
  deriving DecidableEq, Repr

/-- A BOOT or TRIM_DEFAULT record that the Warden holds until handover: source, severity, code, DATA and the frame count of
its making (R794, R862). -/
structure BootRec where
  source : Nat
  sev : Nat
  code : Nat
  data : List Byte
  ts : BitVec 64
  deriving DecidableEq, Repr

/-- The Warden (chapters 23 and 24). -/
structure Warden where
  release : BitVec 21
  keylock : Bool
  /-- boot stage, latest cause and the stage it arose at, the copy of the latest failed attempt, attempts made and failed -/
  stage : Nat
  cause : Nat
  causeStage : Nat
  copy : Nat
  attempts : Nat
  failed : Nat
  /-- TALLY_0 to TALLY_7, 32 bytes each, and which are frozen (R781, R782) -/
  tallies : List (List Byte)
  freeze : BitVec 8
  /-- the last 64 measurements, oldest first (R783) -/
  log : List Meas
  /-- the keybox by slot (R753): a slot that is not listed is empty -/
  keys : Table (List Byte)
  /-- the images of the running boot, by kind -/
  imgs : Table (Option BootImg)
  selection : Nat
  held : List BootRec
  /-- the copies in the order in which they are sought, how many of them the image under way has been tried from, and
  whether a trial of a PENDING slot has been counted in this boot (R759, R768, R806) -/
  order : List CopyId
  tried : Nat
  trialTaken : Bool
  /-- the ENGINE image whose swap is armed: its block and image (R771) -/
  engTry : Option (Meas × BootImg)
  sleepCount : Nat
  untouched : Bool
  slot : SlotRec
  /-- the mailbox command under way: command, argument, result once known (R788) -/
  mbox : Option (Nat × Word × Option Nat)
  mboxOverrun : Bool
  mboxResult : Nat
  mboxSeq : BitVec 16
  xfer : Option Xfer
  askSeq : BitVec 16
  /-- the ROM recovery loader runs (R833) -/
  recovery : Bool
  fuses : Fuses
  anv : Anvil
  deriving DecidableEq, Repr

/-- Power and reset (chapter 25). -/
structure Power where
  /-- device reset is held, and the causes recorded while it is (AON.RST_CAUSE bits) -/
  held : Bool
  causes : Word
  /-- the crystal is lost: device reset is held until it returns (R126) -/
  xtalLost : Bool
  /-- the always-on domain is ready (R843) -/
  aonReady : Bool
  /-- the trim load is done (R859) -/
  trimDone : Bool
  /-- the junction temperature has reached SYS.TEMP_CFG.HIGH and not yet fallen 5 °C below it (R892) -/
  hot : Bool
  /-- hinges since the latest temperature update (R891) -/
  tempAge : Nat
  /-- the instruction the JTAG TAP holds, and what the latest access through it returned (R831, R847) -/
  tap : JtagOp
  tapOut : Word
  deriving DecidableEq, Repr

/-- Why a step stops with a fault. -/
inductive Fault where
  /-- raised by nothing in this model: every wrong access the spec describes has an effect of its own (safe) -/
  | none
  deriving DecidableEq, Repr

/-- Why a step refuses a command. -/
inductive Refusal where
  /-- raised by `exec` for a command that has no meaning yet (safe) -/
  | notModelled (mnemonic : String)
  deriving DecidableEq, Repr

/-- The whole state of the part. -/
structure State where
  /-- every register word and every word of the engine table aperture that is plain storage, by bus address; an address
  not listed holds its reset value -/
  regs : Table Word
  /-- values written to WB registers that wait for their boundary, by address (R43) -/
  wbPend : Table (Option Word)
  /-- the sequence-acknowledged registers, by address (R37) -/
  sqs : Table SqReg
  /-- byte-addressed memories, by bus address -/
  mem : List Host.Cell
  /-- the octal-SPI flash, by device offset -/
  flash : List Host.Cell
  /-- words of the ECC memories with flipped bits, by bus address, and the mask of those bits; `mem` holds a word as its
  reads return it (R147, R164, R692) -/
  ecc : Table Nat
  bus : BusState
  clk : ClkMon
  mclk : Mclk
  bridges : Table Bridge
  ctl : Table CtlCore
  eng : Eng
  safe : Safe
  weld : Weld
  qnch : Qnch
  tone : Tone
  tdm : Table TdmPort
  net : Net
  dict : Dict
  ril : Riller
  dma : Dma
  sense : Sense
  ports : Ports
  msg : Msg
  evt : Evt
  modes : Modes
  ward : Warden
  power : Power
  /-- the model's own: how many values the spec leaves open have been drawn -/
  free : Nat
  /-- commands that wait, first in, first out -/
  pending : List Instr
  deriving DecidableEq, Repr

/-- Fuses of a part before any is programmed (assumption 16). -/
def Fuses.blank : Fuses :=
  { rootHash := List.replicate 4 (List.replicate 32 0#8), rootRevoke := 0#4, kImgf := List.replicate 32 0#8,
    kDev := List.replicate 32 0#8, bootLock := 0#4, serial := List.replicate 16 0#8, svnFloor := 0,
    trim0 := List.replicate 48 0#40, trim1 := List.replicate 48 0#40 }

/-- The slot record that stands where the Keep has no good one (R803). -/
def SlotRec.default : SlotRec :=
  { seq := 0#32, activeB := false, stA := .confirmed, stB := .confirmed, trials := 0, buildA := 0#32, buildB := 0#32,
    svnMin := List.replicate 6 0, openCeil := 0, anvCeil := 0 }

def Anvil.init : Anvil :=
  { st := .closed, chal := [], chalGrant := 0#32, chalAge := 0, chalCnt := 0, rateOk := true, grants := 0#3, key := 0,
    fails := 0, toWarden := [], rx := [], toHost := [], held := [], pubIdx := false, pub := List.replicate 16 0#8, pubCnt := 0#16,
    answer := [] }

/-- The media clock at reset. BACKUP becomes 1 as device reset ends and the media family starts (R757). -/
def Mclk.init : Mclk :=
  { frameCnt := 0#64, hingeCnt := 0#32, firstHinge := true, st := .freeRun, stAge := 0, backup := false, gmLocal := false,
    slewing := false, pull := 0, holdPull := 0, phase := 0, stepN := 0#64, noTick := 16, inLock := 0, tickSent := none,
    tick := none, stepDue := none, backDue := false, lockHist := [], sleepFrame := 0#64, sleepPull := none, outDiv := 0 }

def Warden.init : Warden :=
  { release := 0#21, keylock := false, stage := 0, cause := 0, causeStage := 0, copy := 0, attempts := 0, failed := 0,
    tallies := List.replicate 8 (List.replicate 32 0#8), freeze := 0#8, log := [], keys := [], imgs := [], selection := 0,
    held := [], order := [], tried := 0, trialTaken := false, engTry := none, sleepCount := 0, untouched := false, slot := .default, mbox := none, mboxOverrun := false,
    mboxResult := 0, mboxSeq := 0#16, xfer := none, askSeq := 0#16, recovery := false, fuses := .blank, anv := .init }

/-- The part right after the always-on power-up reset: the always-on domain is ready, and device reset is still held
until RESET_RELEASE (R843, R844). Every register and store is at its reset value (`regDefault` names each register's). -/
def State.reset : State :=
  { regs := [], wbPend := [], sqs := [], mem := [], flash := [], ecc := [],
    bus := { toAudio := [], toCtl := [], splits := [], bankWait := none, sc := none, net := none, netWait := [], netLate := false,
             loHeld := [], notices := [], readyFar := [], readyNear := [], answer := none },
    clk := ⟨false, false, false, false, false⟩,
    mclk := .init, bridges := [], ctl := [],
    eng := { sc := [], lanes := [], swapSeq := 0#16, swapCause := 0, swapResult := 0, incr := false, armed := false,
             verified := false, swapCancel := false, graphId := 0#32 },
    safe := { groups := [], dirty := [], commitSeq := 0#32 },
    weld := { cur := [], ramps := [], inFade := [], inVal := [], destFade := [], dest := [], claims := [], queue := [],
              lastReq := 0#32, gates := [], zones := [], muted := [], muteOn := false, scale := 0, rising := false,
              yOut := [], qOut := [], domBad := [] },
    qnch := { eq := [], lim := [], spw := [], eqUsed := 0, scale := 0, rising := false },
    tone := { gens := [], scale := 0, pscale := 0, rising := false },
    tdm := [],
    net := { linkA := false, linkB := false, gapBackA := 0, gapBackB := 0, hsrSeq := 0#16, dd := [], nodes := [],
             learned := [], arp := [], igmpDue := [], age := 0#32, igmpV2 := 0, sec := 0#48, ns := 0, frac := 0, ppsOut := false, egressA := [], egressB := [],
             leftA := [], leftB := [], tcDue := [],
             hostRing := [], rx := [], tx := [], phyInt := false },
    dict := { hinges := 0, loaded := false, compacting := false, badRec := 0, tenants := [], zoneOwner := [], lengths := [], rrUrgent := 0,
              rrStream := 0, rrNormal := 0, hprod := 0, hslots := [], log := [], half := 0, line := 0, logSeq := 0#32 },
    ril := { sessions := [], useTick := 0, openCnt := 0, ceiling := 0, raising := false, openAges := [], reasm := [],
             ingress := [], sent := [] },
    dma := ⟨[]⟩,
    sense := ⟨[], ⟨0, 0, 0, 0, [], false, [], [], false⟩⟩,
    ports := { mic := [], contacts := [], hs := ⟨[], false, false, false, false, []⟩, uart := [], can := [], i2c := [],
               gpioIn := 0#32, padsHeld := false, monScale := 0, monL := 0#32, monR := 0#32, micPipe := [],
               sensePipe := [], monPipe := [] },
    msg := { keep := [], prog := none, rr := 0, players := [], loadDue := false, planClear := false, planClips := 0, planCount := 0 },
    evt := { seq := [], begun := [], bucket := 64, jwait := [], jline := 0, lap := 0, hinges := 0, jage := 0 },
    modes := { mode := .service, autonomy := false, evacCause := 0, evacContact := 0, request := none, sleep := .awake,
               sleepHinges := 0, wake := false, wakePin := false, alarmInSleep := false, booting := true, wdLeft := [], wdSince := [],
               context := [] },
    ward := .init,
    power := { held := true, causes := 1#32, xtalLost := false, aonReady := true, trimDone := false, hot := false, tempAge := 0,
               tap := .idcode, tapOut := 0#32 },
    free := 0,
    pending := [] }

end Sys2Proof.Machine
end

