-- ==== Sys2Proof/Machine/Ops.lean ====
section
/-! DEFINITION. The named operations over the stores of the state: sparse tables, byte memories, register words and their
fields, sequence-acknowledged status, interrupt latches, event records and free values. -/

namespace Sys2Proof.Machine
open Sys2Proof

/-! ### Sparse tables -/

/-- The entry of a key; `d` where none is listed. -/
def tget {α : Type} (d : α) : Table α → Nat → α
  | [], _ => d
  | (k', v) :: t, k => if k = k' then v else tget d t k

/-- The table with the entry of a key listed as `v`, keys still rising. -/
def tput {α : Type} : Table α → Nat → α → Table α
  | [], k, v => [(k, v)]
  | (k', v') :: t, k, v =>
    if k < k' then (k, v) :: (k', v') :: t else if k = k' then (k, v) :: t else (k', v') :: tput t k v

/-- The table without an entry of a key. -/
def tdel {α : Type} : Table α → Nat → Table α
  | [], _ => []
  | (k', v) :: t, k => if k = k' then tdel t k else (k', v) :: tdel t k

/-- The table in which a key reads as `v`, in canonical form: an entry equal to the default is not listed. -/
def tset {α : Type} [DecidableEq α] (d : α) (t : Table α) (k : Nat) (v : α) : Table α :=
  if v = d then tdel t k else tput t k v

/-- Change what a key reads as. -/
def tmod {α : Type} [DecidableEq α] (d : α) (t : Table α) (k : Nat) (f : α → α) : Table α :=
  tset d t k (f (tget d t k))

/-- The canonical form: keys strictly rising and no entry equal to what an unlisted key reads as. -/
def twf {α : Type} [DecidableEq α] (d : Nat → α) : Table α → Bool
  | [] => true
  | [(k, v)] => decide (v ≠ d k)
  | (k, v) :: (k', v') :: t => decide (v ≠ d k) && decide (k < k') && twf d ((k', v') :: t)

/-! ### Byte memories -/

/-- What a byte of memory reads as while nothing has written it: 0 (R849 for the memories the initialiser zeroes;
assumption 1 for the others). -/
def memDefault : Byte := 0#8

/-- The byte at an address. -/
def memGet (m : List Host.Cell) (a : Nat) : Byte := tget memDefault m a
/-- The memory with one byte written. -/
def memPut (m : List Host.Cell) (a : Nat) (b : Byte) : List Host.Cell := tset memDefault m a b
/-- `n` bytes from an address on. -/
def memBytes (m : List Host.Cell) (a : Nat) : Nat → List Byte
  | 0 => []
  | n + 1 => memGet m a :: memBytes m (a + 1) n
/-- The memory with bytes written from an address on. -/
def memPutBytes (m : List Host.Cell) : Nat → List Byte → List Host.Cell
  | _, [] => m
  | a, b :: bs => memPutBytes (memPut m a b) (a + 1) bs
/-- The canonical form of a memory. -/
def Memory.wf (m : List Host.Cell) : Bool := twf (fun _ => memDefault) m

/-- The `n`-byte little-endian number at an address. -/
def State.mrd (s : State) (a n : Nat) : Nat := leNat (memBytes s.mem a n)
/-- Zero a range of a memory: the cells that lie in it are dropped. -/
def memZero (m : List Host.Cell) (lo hi : Nat) : List Host.Cell := m.filter fun c => decide (c.1 < lo ∨ hi ≤ c.1)

/-! ### ECC (R20, R60, R164, R692) -/

/-- The bytes of the ECC word that an address lies in: four in the Hearth, the Crucible and the sample cores' memories,
eight in the Keep; 0 where a memory has no ECC. -/
def eccWidth (a : Nat) : Nat :=
  if 0x50000000 ≤ a ∧ a < 0x50800000 then 8
  else if (0x20000000 ≤ a ∧ a < 0x20200000) ∨ (0x30000000 ≤ a ∧ a < 0x30800000)
    ∨ (0x38000000 ≤ a ∧ a < 0x38200000 ∧ a % 0x20000 < 0x18000) then 4
  else 0

/-- The bits set in a mask of flipped bits. -/
def flips (m : Nat) : Nat := ((List.range 64).filter fun k => m.testBit k).length

/-- Does a word of the ECC table meet a range of bytes? -/
def eccMeets (a n : Nat) (x : Nat × Nat) : Bool := decide (x.1 < a + n ∧ a < x.1 + eccWidth x.1)

/-- What a read of a range meets: how many of its words are corrected, and whether one is beyond correction. -/
def eccHit (s : State) (a n : Nat) : Nat × Bool :=
  let xs := s.ecc.filter (eccMeets a n)
  ((xs.filter fun x => flips x.2 == 1).length, xs.any fun x => decide (2 ≤ flips x.2))

/-- The words of a range are written anew: each is good again, the bytes of it that were not written as they read (R60). -/
def eccOut (a n : Nat) (e : Table Nat) : Table Nat := e.filter fun x => !eccMeets a n x

/-- What the flipped bits change in what a read of their word returns: nothing while one bit can be corrected. -/
def shownFlips (m : Nat) : Nat := if flips m ≤ 1 then 0 else m

/-- Bits of a word of ECC memory flip. -/
def eccUpset (u : Nat × Nat) (s : State) : State :=
  let w := eccWidth u.1
  if w = 0 then s
  else
    let k := u.1 - u.1 % w
    let old := tget 0 s.ecc k
    let new := old ^^^ u.2 % 2 ^ (8 * w)
    let v := leNat (memBytes s.mem k w) ^^^ (shownFlips old ^^^ shownFlips new)
    { s with mem := memPutBytes s.mem k (leBytes w v), ecc := tset 0 s.ecc k new }

/-- Write an `n`-byte little-endian number. -/
def State.mwr (s : State) (a n v : Nat) : State :=
  { s with mem := memPutBytes s.mem a (leBytes n v), ecc := eccOut a n s.ecc }
/-- Write bytes. -/
def State.mwrBytes (s : State) (a : Nat) (bs : List Byte) : State :=
  { s with mem := memPutBytes s.mem a bs, ecc := eccOut a bs.length s.ecc }
/-- Zero a range of the memories. -/
def State.mclr (s : State) (lo hi : Nat) : State :=
  { s with mem := memZero s.mem lo hi, ecc := eccOut lo (hi - lo) s.ecc }

/-! ### Register words and fields -/

/-- The stored word of a register or table, by address. -/
def State.rd (s : State) (a : Nat) : Word := tget (regDefault a) s.regs a
/-- Store a register or table word. -/
def State.wr (s : State) (a : Nat) (v : Word) : State := { s with regs := tset (regDefault a) s.regs a v }
/-- Store a number. -/
def State.wrn (s : State) (a v : Nat) : State := s.wr a (BitVec.ofNat 32 v)

/-- Bits [lo + n − 1 : lo] of a word as a number. -/
def fld (w : Word) (lo n : Nat) : Nat := w.toNat / 2 ^ lo % 2 ^ n
/-- The word with bits [lo + n − 1 : lo] replaced. -/
def setFld (w : Word) (lo n v : Nat) : Word :=
  let m := BitVec.ofNat 32 ((2 ^ n - 1) * 2 ^ lo)
  (w &&& ~~~m) ||| BitVec.ofNat 32 (v % 2 ^ n * 2 ^ lo)
/-- Signed reading of bits [lo + n − 1 : lo]. -/
def sfld (w : Word) (lo n : Nat) : Int :=
  let v := fld w lo n
  if v < 2 ^ (n - 1) then (v : Int) else (v : Int) - (2 ^ n : Nat)

/-- A field of a stored register. -/
def State.rdf (s : State) (a lo n : Nat) : Nat := fld (s.rd a) lo n
/-- A bit of a stored register. -/
def State.bit (s : State) (a i : Nat) : Bool := (s.rd a).getLsbD i
/-- Replace a field of a stored register. -/
def State.wrf (s : State) (a lo n v : Nat) : State := s.wr a (setFld (s.rd a) lo n v)
/-- Set or clear a bit of a stored register. -/
def State.wrb (s : State) (a i : Nat) (b : Bool) : State := s.wr a (wsetBit (s.rd a) i b)
/-- Advance a count that wraps at 2^32. -/
def State.inc (s : State) (a : Nat) : State := s.wr a (s.rd a + 1#32)
/-- Advance the count in [15:0] of a register by `k`, saturating at 0xFFFF. -/
def State.addSat (s : State) (a k : Nat) : State := s.wrf a 0 16 (min 0xFFFF (s.rdf a 0 16 + k))
/-- Advance the count in [15:0] of a register, saturating at 0xFFFF. -/
def State.incSat (s : State) (a : Nat) : State :=
  let c := s.rdf a 0 16
  if c < 0xFFFF then s.wrf a 0 16 (c + 1) else s

/-- The audio blocks that sleep entry treats as disabled (chapter 22, sleep entry). -/
def sleepsAt (slot : Nat) : Bool := slot == 2 || decide (4 ≤ slot ∧ slot ≤ 8)

/-- CTRL.ENABLE of the block in a slot (R29); from a sleep hinge on the audio blocks act as if it were 0. -/
def State.enabled (s : State) (slot : Nat) : Bool :=
  s.bit (slotBase slot + 4) 0 && (s.modes.sleep == .awake || !sleepsAt slot)

def b2n (b : Bool) : Nat := if b then 1 else 0

/-- The word whose bit `k`, for `k` below `n`, says whether `f k` holds. -/
def maskOf (n : Nat) (f : Nat → Bool) : Nat := ncMask n f

/-- The numbers of the bits set among the low `n` of a value. -/
def bitsOf (n v : Nat) : List Nat := (List.range n).filter fun k => decide (v / 2 ^ k % 2 = 1)

/-! ### Free values -/

/-- Draw the next value that nothing fixes. -/
def State.draw (s : State) : Word × State := (Config.freeValue s.free, { s with free := s.free + 1 })

/-- `v × num / den` where no rule states how a result that is not whole rounds: exact when it is whole, one of the two
neighbours otherwise (assumption 3). -/
def scaleOpen (place : Nat) (v : Int) (num den : Nat) : Int :=
  let p := v * num
  if p % (den : Int) = 0 then p / (den : Int)
  else if Config.roundUp place p den then p / (den : Int) + 1 else p / (den : Int)

/-! ### Interrupt latches (R243, R244) -/

/-- SYS.INT_PEND_k holds the latches of pulse sources. -/
def intPendAddr (k : Nat) : Nat := 0x40001400 + 4 * k

/-- A pulse of a pulse source latches it pending (R243). -/
def pulse (src : Nat) (s : State) : State := s.wrb (intPendAddr (src / 32)) (src % 32) true
/-- The latch of a pulse source is cleared. -/
def unlatch (src : Nat) (s : State) : State := s.wrb (intPendAddr (src / 32)) (src % 32) false

/-- The level sources (R244). -/
def isLevelSource (src : Nat) : Bool :=
  src == 161 || decide (176 ≤ src ∧ src ≤ 191) || src == 225 || src == 247 || src == 146

/-- The sources that the manual names at all (R242, R244): a reserved source is never asserted. -/
def isPulseSource (src : Nat) : Bool :=
  decide (src ≤ 17) || [32, 33, 40, 48, 64, 80, 96, 112, 128, 144, 145, 160, 192, 193, 208, 209, 224].contains src
    || decide (240 ≤ src ∧ src ≤ 246) || src == 248

/-! ### Sequence-acknowledged status (R37 to R40) -/

/-- The hidden state of an SQ register. -/
def State.sq (s : State) (a : Nat) : SqReg := tget SqReg.zero s.sqs a
def State.setSq (s : State) (a : Nat) (q : SqReg) : State := { s with sqs := tset SqReg.zero s.sqs a q }

/-- The event bits of an SQ register. -/
def SqReg.bits (q : SqReg) : Nat := q.tags.foldl (fun m t => m + 2 ^ t.1) 0
/-- What a read of an SQ register returns: SEQ in [31:16], event bits in [15:0]. -/
def SqReg.view (q : SqReg) : Word := BitVec.ofNat 32 (q.seq.toNat * 65536 + q.bits % 65536)

/-- Give the named bits the tag `t`, leaving the others. -/
def tagBits (bits : List Nat) (t : BitVec 16) (tags : List (Nat × BitVec 16)) : List (Nat × BitVec 16) :=
  (List.range 16).flatMap fun i =>
    if bits.contains i then [(i, t)] else tags.filter fun x => x.1 == i

/-- No tag falls more than 0x4000 behind SEQ (R39). -/
def clampTags (seq : BitVec 16) (tags : List (Nat × BitVec 16)) : List (Nat × BitVec 16) :=
  tags.map fun x => if 0x4000#16 < seq - x.2 then (x.1, seq - 0x4000#16) else x

/-- One event sets bits: SEQ advances by one and every bit it sets takes the new SEQ as its tag (R37, R39). -/
def SqReg.event (bits : List Nat) (q : SqReg) : SqReg :=
  let seq := q.seq + 1#16
  ⟨seq, clampTags seq (tagBits bits seq q.tags)⟩

/-- Bits that join the event under way: events of one cycle count as one (R37). -/
def SqReg.join (bits : List Nat) (q : SqReg) : SqReg := ⟨q.seq, tagBits bits q.seq q.tags⟩

/-- A write-back {w, mask} clears exactly the named bits whose tags are not newer than w (R38). -/
def SqReg.ack (w : BitVec 16) (mask : Nat) (q : SqReg) : SqReg :=
  { q with tags := q.tags.filter fun x => !(mask / 2 ^ x.1 % 2 == 1 && decide ((w - x.2).toNat < 0x8000)) }

/-- Is a write-back stale (R40)? -/
def SqReg.stale (w : BitVec 16) (q : SqReg) : Bool := decide (0x4000 ≤ (q.seq - w).toNat)

/-- The pulse source that a setting event of an SQ register raises, by the register's address (R242, R244 and the
blocks' chapters). -/
def sqPulse (a : Nat) : Option Nat :=
  match a with
  | 0x40000040 => some 0
  | 0x40000050 => some 1
  | 0x40000060 => some 2
  | 0x40000140 => some 3
  | 0x40000208 => some 4
  | 0x40000614 => some 6
  | 0x40000908 => some 7
  | 0x40000408 => some 17
  | 0x40010220 => some 16
  | 0x4002002C => some 32
  | 0x40020028 => some 33
  | 0x40020064 => some 40
  | 0x40030034 => some 48
  | 0x4004002C => some 64
  | 0x40050044 => some 80
  | 0x40060024 => some 96
  | 0x40070044 => some 112
  | 0x40080028 => some 128
  | 0x40090034 => some 144
  | 0x40090210 => some 145
  | 0x400A0034 => some 160
  | 0x400A0808 => some 160
  | 0x400C0030 => some 192
  | 0x400C0440 => some 193
  | 0x400D0024 => some 208
  | 0x400D0448 => some 209
  | 0x400E0030 => some 224
  | 0x400F02C0 => some 248
  | 0x400F0414 => some 241
  | 0x400F0454 => some 242
  | 0x400F1010 => some 243
  | 0x400F1410 => some 244
  | 0x400F0710 => some 245
  | 0x400F0750 => some 246
  | _ => none

/-- The source that makes the record of an SQ register's setting event; none in PORTS but for MIC_EVT (R902). -/
def sqSource (a : Nat) : Option Nat :=
  match a with
  | 0x40000140 => some 18
  | 0x40000208 => some 18
  | 0x40000408 => some 17
  | 0x40010220 => some 1
  | 0x40090210 => some 10
  | 0x400F02C0 => some 16
  | _ =>
    match a / 0x10000 % 16 with
    | 0 | 1 => some 0
    | 15 => none
    | k => some (if 10 ≤ k then k + 1 else k)

/-- The register whose name is the SQ register's with _SRC appended, if there is one (R718). -/
def sqSrcReg (a : Nat) : Option Nat :=
  match a with
  | 0x4002002C => some 0x40020030
  | 0x40030034 => some 0x40030038
  | 0x4004002C => some 0x40040030
  | 0x40050044 => some 0x40050048
  | 0x40060024 => some 0x40060028
  | 0x40070044 => some 0x40070048
  | 0x40080028 => some 0x4008002C
  | 0x40090210 => some 0x40090214
  | 0x400A0034 => some 0x400A0038
  | 0x400C0030 => some 0x400C0034
  | 0x400D0024 => some 0x400D0028
  | 0x400F02C0 => some 0x400F02C4
  | _ => none

/-- The severity of one bit of an SQ register's event (R719). Severities that depend on more than the bit (an EVACUATE
entry, an OPEN or SHORT class) are given by whoever sets the bit. -/
def sqSeverity (a bit : Nat) : Nat :=
  if a % 0x10000 = 0x000C then (if 3 ≤ a / 0x10000 % 16 ∧ a / 0x10000 % 16 ≤ 8 then 3 else
    match a / 0x10000 % 16 with
    | 9 => 2
    | 12 | 13 => 1
    | _ => 3)
  else match a with
    | 0x40000140 => if bit ≤ 2 then 5 else 2
    | 0x40000208 => 2
    | 0x40000408 => 2
    | 0x40010220 => 2
    | 0x40020028 => 4
    | 0x40020064 => if bit ≤ 1 then 2 else 3
    | 0x40030034 => if bit = 1 ∨ bit = 3 ∨ bit = 4 ∨ bit = 5 then 3 else 1
    | 0x4004002C =>
      match bit with
      | 0 | 1 | 7 => 3
      | 4 | 5 => 2
      | 6 => 4
      | _ => 1
    | 0x40050044 => 1
    | 0x40060024 => if bit ≤ 1 then 3 else 1
    | 0x40070044 => if bit = 0 ∨ bit = 3 then 3 else 1
    | 0x40080028 =>
      match bit with
      | 0 | 3 => 3
      | 1 => 4
      | 2 => 2
      | _ => 1
    | 0x40090034 => 2
    | 0x40090210 => if bit = 0 then 4 else if bit = 1 then 2 else 3
    | 0x400C0030 => if bit = 0 then 4 else if bit = 1 then 2 else 1
    | 0x400C0440 => if bit = 0 then 2 else 1
    | 0x400D0024 =>
      match bit with
      | 2 | 3 => 3
      | 6 => 5
      | _ => 1
    | 0x400D0448 => if bit = 2 then 3 else 1
    | 0x400F02C0 => if bit = 3 then 4 else 2
    | _ => 3

/-! ### Event records (R718 to R724) -/

/-- CRC-32 of a list of bytes: BCRC from the initial value 0xFFFF_FFFF, result inverted. -/
def crc32 (bs : List Byte) : Nat := 0xFFFFFFFF - bs.foldl (fun c b => crcByte c b.toNat) 0xFFFFFFFF

/-- The 32 bytes of a record (chapter 21, records), `lap` in byte 7. -/
def recordBytes (source sev : Nat) (restart : Bool) (code seq lap ts : Nat) (data : List Byte) : List Byte :=
  let b := [BitVec.ofNat 8 source, BitVec.ofNat 8 (sev + 8 * b2n restart)] ++ leBytes 2 code ++ leBytes 3 seq
    ++ leBytes 1 lap ++ leBytes 8 ts ++ data
  b ++ leBytes 4 (crc32 b)

namespace Reg
/-- Registers that several chapters name, by address. -/
def accFault : Nat := 0x40000040
def privFault : Nat := 0x40000050
def bridgeStat : Nat := 0x40000060
def clkMon : Nat := 0x40000140
def modeEvt : Nat := 0x40000408
def evtEvt : Nat := 0x400E0030
def evtDrops : Nat := 0x400E0038
def evtOverruns : Nat := 0x400E0034
def evtRingBase : Nat := 0x400E0020
def evtRingWr : Nat := 0x400E0024
def evtRingRd : Nat := 0x400E0028
end Reg

/-- One event subscriber: does tenant `t`'s subscription of this kind want a record (R562)? -/
def Subscr.wants (sub : Option Subscr) (source sev : Nat) : Bool :=
  match sub with
  | none => false
  | some x => x.sources.getLsbD source && decide (x.minSev ≤ sev)

/-- The entries that queue `q` of the dictionary holds (DICT.Q_SIZE_q). -/
def State.queueSize (s : State) (q : Nat) : Nat := s.rdf (0x400A0404 + 0x10 * q) 0 11

def Tenant.byKey (t : Nat) : Tenant := Tenant.init (if t = 0 then .active else .absent)
def State.tenant (s : State) (t : Nat) : Tenant := tget (Tenant.byKey t) s.dict.tenants t
def State.setTenant (s : State) (t : Nat) (x : Tenant) : State :=
  { s with dict := { s.dict with tenants := tset (Tenant.byKey t) s.dict.tenants t x } }
def State.modTenant (s : State) (t : Nat) (f : Tenant → Tenant) : State := s.setTenant t (f (s.tenant t))

/-- Offer a record to one tenant's event queue; a full queue counts it as lost (R562, R564). Answers whether it was
lost. -/
def offerEvent (r : List Byte) (source sev t : Nat) (s : State) : State × Bool :=
  let x := s.tenant t
  if Subscr.wants x.subEvent source sev then
    if x.events.length < s.queueSize (8 * t + 3) then
      (s.setTenant t { x with events := x.events ++ [r], evSince := if x.events = [] then s.dict.hinges else x.evSince }, false)
    else (s.setTenant t { x with lostEvents := min 0xFFFF (x.lostEvents + 1) }, true)
  else (s, false)

/-- Offer a record to one tenant's log-tap queue, as it is written to the journal (R562, R564). -/
def offerTap (r : List Byte) (source sev t : Nat) (s : State) : State × Bool :=
  let x := s.tenant t
  if Subscr.wants x.subTap source sev then
    if x.taps.length < s.queueSize (8 * t + 5) then
      (s.setTenant t { x with taps := x.taps ++ [r], tapSince := if x.taps = [] then s.dict.hinges else x.tapSince }, false)
    else (s.setTenant t { x with lostTaps := min 0xFFFF (x.lostTaps + 1) }, true)
  else (s, false)

/-- Offer to every tenant in turn; did any queue overflow? -/
def offerAll (offer : Nat → State → State × Bool) (s : State) : State × Bool :=
  (List.range 8).foldl (fun acc t =>
    let r := offer t acc.1
    (r.1, acc.2 || r.2)) (s, false)

/-- Does EVT.RING_BASE name a region of 16384 rows within the Hearth (R724)? -/
def ringOk (base : Nat) : Bool := decide (0x20000000 ≤ base ∧ base + 0x80000 ≤ 0x20200000)

/-- The bits of EVT.EVT that writing a ring row sets, with the state after it (R724). -/
def ringPut (r : List Byte) (s : State) : State × List Nat :=
  let base := (s.rd Reg.evtRingBase).toNat
  if ringOk base then
    let wr := s.rdf Reg.evtRingWr 0 14
    let rd := s.rdf Reg.evtRingRd 0 14
    let nx := (wr + 1) % 16384
    let s1 := if nx = rd then (s.wrf Reg.evtRingRd 0 14 ((rd + 1) % 16384)).incSat Reg.evtOverruns else s
    (((s1.mwrBytes (base + 32 * wr) r).wrf Reg.evtRingWr 0 14 nx), if nx = rd then [0] else [])
  else (s.incSat Reg.evtOverruns, [0])

/-- What making a record leaves: the state, the EVT.EVT bits it sets, and whether a subscriber's queue overflowed. -/
structure RecOut where
  s : State
  bits : List Nat
  late : Bool

/-- Make one record: it takes its source's next sequence number, and enters the ring, the journal and the subscriber
queues, or is dropped for want of a place in the bucket or because the block is disabled (R720 to R725). -/
def recordCore (source sev code : Nat) (data : List Byte) (s : State) : RecOut :=
  let seq := tget 0#24 s.evt.seq source + 1#24
  let fresh := !(s.evt.begun.contains source)
  let e1 := { s.evt with seq := tset 0#24 s.evt.seq source seq,
                         begun := if fresh then source :: s.evt.begun else s.evt.begun }
  let s1 := { s with evt := e1 }
  let room := s.enabled 14 && (if 4 ≤ sev then decide (1 ≤ s.evt.bucket) else decide (16 < s.evt.bucket))
  if room then
    let r := recordBytes source sev fresh code seq.toNat 0 s.mclk.frameCnt.toNat data
    let s2 := { s1 with evt := { s1.evt with
      bucket := s1.evt.bucket - 1,
      jwait := if 2 ≤ sev then s1.evt.jwait ++ [r] else s1.evt.jwait } }
    let s3 := ringPut r s2
    let s4 := offerAll (offerEvent r source sev) s3.1
    ⟨s4.1, s3.2, s4.2⟩
  else ⟨(s1.incSat Reg.evtDrops).wrf Reg.evtDrops 16 6 source, [1], false⟩

/-- The bytes of DATA from up to three words. -/
def dataWords (a b c : Word) : List Byte := leBytes 4 a.toNat ++ leBytes 4 b.toNat ++ leBytes 4 c.toNat

/-- DICT.RIL_EVT.EVT_OVERRUN of a record that found a subscriber's queue full (R564): the bit and the pulse; the record
of that event is made by `overrunRecord`. -/
def setOverrun (s : State) : State := pulse 160 (s.setSq 0x400A0808 ((s.sq 0x400A0808).event [6]))

/-- The DICT record of an EVT_OVERRUN event; a further overrun it meets joins that event (R37). -/
def overrunRecord (s : State) : State :=
  let s1 := setOverrun s
  (recordCore 11 3 ((0x0808 / 4 % 4096) * 16 + 6) (dataWords (s1.sq 0x400A0808).view 0#32 0#32) s1).s

/-- Make a record and all that follows from it: bits of EVT.EVT it sets make one record of source EVT, whose own bits
join that event (R37, R718, R722, R724), and an overflow of a subscriber's queue is reported (R564). -/
def makeRecord (source sev code : Nat) (data : List Byte) (s : State) : State :=
  let o := recordCore source sev code data s
  let s1 :=
    if o.bits = [] then o.s
    else
      let s2 := pulse 224 (o.s.setSq Reg.evtEvt ((o.s.sq Reg.evtEvt).event o.bits))
      let o2 := recordCore 15 3 ((0x0030 / 4) * 16 + o.bits.headD 0) (dataWords (s2.sq Reg.evtEvt).view 0#32 0#32) s2
      if o2.bits = [] then o2.s else o2.s.setSq Reg.evtEvt ((o2.s.sq Reg.evtEvt).join o2.bits)
  if o.late then overrunRecord s1 else s1

/-- The lowest of a list of bits. -/
def lowest (bits : List Nat) : Nat := bits.foldl min (bits.headD 0)

/-- A setting event of an SQ register, with its severity and the last two words of its record's DATA given (the first of
them the _SRC register where none is given): SEQ and tags, the pulse source, and the record (R37, R244, R718, R901,
R902). -/
def sqSetData (a : Nat) (bits : List Nat) (sev : Option Nat) (mid : Option Word) (extra : Word) (s : State) : State :=
  if bits = [] then s else
    let s1 := s.setSq a ((s.sq a).event bits)
    let s2 := match sqPulse a with
      | some p => pulse p s1
      | none => s1
    match sqSource a with
    | none => s2
    | some src =>
      let sv := sev.getD (bits.foldl (fun m b => max m (sqSeverity a b)) 0)
      let srcv := match sqSrcReg a with
        | some r => s2.rd r
        | none => 0#32
      makeRecord src sv ((a % 0x10000 / 4 % 4096) * 16 + lowest bits)
        (dataWords (s2.sq a).view (mid.getD srcv) extra) s2

/-- A setting event of an SQ register, with its severity and the last word of its record's DATA given. -/
def sqSetX (a : Nat) (bits : List Nat) (sev : Option Nat) (extra : Word) (s : State) : State :=
  sqSetData a bits sev none extra s

/-- A setting event of an SQ register. -/
def sqSet (a : Nat) (bits : List Nat) (s : State) : State := sqSetX a bits none 0#32 s

/-! ### The logging registers (R71) -/

/-- The size code of an access of `n` bytes. -/
def sizeCode (n : Nat) : Nat := if n = 1 then 0 else if n = 2 then 1 else if n = 4 then 2 else 3

/-- Log one access in a logging register and its _ADDR and _INFO: the latest access replaces the one before it, COUNT
holds at 0xFFFF, and the status bit raises its event (R71). -/
def logAccess (a bit master size addr : Nat) (write : Bool) (s : State) : State :=
  let cnt := s.rdf (a + 8) 16 16
  let info := (min 0xFFFF (cnt + 1)) * 65536 + b2n write * 1024 + sizeCode size * 256 + master % 256
  sqSet a [bit] ((s.wrn (a + 4) addr).wrn (a + 8) info)

/-- Assert or note that a control core entered LOCKUP: source 5 (R256). -/
def lockupPulse (s : State) : State := pulse 5 s

end Sys2Proof.Machine
end

