-- ==== Sys2Proof/Machine/Clock.lean ====
section
/-! DEFINITION. Clocks: the monitors of chapter 3, the crossings' own events, and the media clock and its servo
(chapter 4). -/

namespace Sys2Proof.Machine
open Sys2Proof

namespace Reg
def mclkCtrl : Nat := 0x40000200
def mclkEvt : Nat := 0x40000208
def mclkFreePull : Nat := 0x40000210
def mclkHoldLimit : Nat := 0x4000021C
def ptpCtrl : Nat := 0x40090100
def xingDrop (k : Nat) : Nat := 0x40000180 + 4 * k
end Reg

/-- The media family runs: the crystal is qualified, device reset is not held, and the part is not in the part of VIGIL
sleep in which the families stand still (R74, R126, R743). -/
def mediaRuns (s : State) : Bool :=
  s.clk.xtalOk && !s.power.held && s.modes.sleep != .asleep && s.modes.sleep != .waking

/-- FAULT_TERM of SYS.CLKMON_STATE: 1 until SLOW_OK and XTAL_OK are both 1 (R88). During VIGIL sleep the crystal is not
looked at (R744). -/
def faultTerm (s : State) : Bool :=
  !(s.clk.slowOk && (s.clk.xtalOk || s.modes.sleep == .asleep || s.modes.sleep == .waking))

/-- What SYS.CLKMON_STATE reads as (chapter 3). -/
def clkmonState (s : State) : Word :=
  BitVec.ofNat 32 (b2n s.clk.slowOk + 2 * b2n s.clk.netOk + 4 * b2n s.clk.xtalOk + 8 * b2n s.clk.mediaLock
    + 16 * b2n (faultTerm s))

/-- Are both sides of FIFO crossing `k` ready (R91)? -/
def xingReady (s : State) (k : Nat) : Bool := tget false s.bus.readyFar k && tget false s.bus.readyNear k

/-- The FIFO crossings that exist (chapter 3): indices 7, 14 and 15 are reserved. -/
def isFifoXing (k : Nat) : Bool := decide (k ≤ 6 ∨ (8 ≤ k ∧ k ≤ 13))

/-- A write that a FIFO crossing drops because a side is not ready (R92). -/
def xingDropped (k : Nat) (s : State) : State := sqSet Reg.clkMon [5] (s.incSat (Reg.xingDrop k))

/-- Sides of a FIFO crossing leave reset: each that does is unready until the round trip it begins completes (R91). A
further reset begins it again (R93). -/
def fifoUnready (near far : Bool) (k : Nat) (s : State) : State :=
  { s with bus := { s.bus with
      readyFar := if far then tset false s.bus.readyFar k false else s.bus.readyFar,
      readyNear := if near then tset false s.bus.readyNear k false else s.bus.readyNear } }

/-- An entry written at FIFO crossing `k`: on a side that is not ready it is dropped and counted; while the reader's side is
not ready, or its clock is stopped, it is held, and the resynchronisation that ends this discards it (R91, R92, R98). -/
def viaFifo (toFabric runs : Bool) (k : Nat) (go : State → State) (s : State) : State :=
  if tget false (if toFabric then s.bus.readyFar else s.bus.readyNear) k then
    if runs && tget false (if toFabric then s.bus.readyNear else s.bus.readyFar) k then go s else s
  else xingDropped k s

/-- What the far side of a crossing holds, or the fabric side, is discarded as the other side resynchronises (R91): the
host's words, the Anvil port's bytes, a slave port's frames. The frames of the network's crossings are handed on in the
command that receives or sends them, and the flash strobe's data in its read. -/
def fifoDiscard (k : Nat) (s : State) : State :=
  if k = 4 then { s with ports := { s.ports with hs := { s.ports.hs with fifo := [] } } }
  else if k = 5 then { s with ward := { s.ward with anv := { s.ward.anv with toWarden := [], toHost := [] } } }
  else if 8 ≤ k then
    { s with tdm := tmod TdmPort.off s.tdm (k - 8) fun x => { x with rx := [], rxNew := 0 } }
  else s

/-- The round trip that a side of a FIFO crossing began as it left reset completes: the other side has discarded what it
held, and this side is ready. One command is one round trip, the fabric side's first (R91 to R93). -/
def fifoResync (k : Nat) (s : State) : State :=
  if isFifoXing k then
    if !tget false s.bus.readyNear k then
      let s1 := fifoDiscard k s
      { s1 with bus := { s1.bus with readyNear := tset false s1.bus.readyNear k true } }
    else if !tget false s.bus.readyFar k then
      let s1 := fifoDiscard k s
      { s1 with bus := { s1.bus with readyFar := tset false s1.bus.readyFar k true } }
    else s
  else s

/-! ### Merged notifications (R84, R85) -/

def State.notice (s : State) (x : Nat) : Notice := tget Notice.idle s.bus.notices x
def State.setNotice (s : State) (x : Nat) (n : Notice) : State :=
  { s with bus := { s.bus with notices := tset Notice.idle s.bus.notices x n } }

/-- A source event at a merged-notification crossing: it launches a notification, or joins the one that waits behind the
one in flight (R84). -/
def noticePost (x : Nat) (bits : Word) (s : State) : State :=
  let n := s.notice x
  if n.inFlight then s.setNotice x { n with pend := true, waiting := n.waiting ||| bits }
  else s.setNotice x { n with inFlight := true, flying := bits }

/-- The notification in flight arrives; a pending one is launched in its place (R84). Answers the bits that arrived. -/
def noticeArrive (x : Nat) (s : State) : State × Word :=
  let n := s.notice x
  if n.inFlight then
    if n.pend then (s.setNotice x ⟨true, n.waiting, false, 0#32⟩, n.flying)
    else (s.setNotice x Notice.idle, n.flying)
  else (s, 0#32)

/-! ### The servo (R99 to R121) -/

/-- The pull range in units of SYS.MCLK_PULL: ±250 ppm (R99). -/
def pullMax : Int := 256000

def clampInt (lo hi x : Int) : Int := if x < lo then lo else if hi < x then hi else x

/-- SYS.MCLK_CTRL.PULL_RATE as it acts, in 10 ppm/s (chapter 4). -/
def pullRate (s : State) : Nat :=
  let r := s.rdf Reg.mclkCtrl 8 8
  if r = 0 ∨ 0x64 < r then 0x64 else r

/-- SYS.MCLK_FREE_PULL as it acts. -/
def freePull (s : State) : Int := clampInt (-pullMax) pullMax (s.rd Reg.mclkFreePull).toInt

/-- The network side reports usable PTP time: a synchronised slave, or grandmaster in its own right (chapters 4, 15). The
report stands until the network side withdraws it (R114). -/
def ptpReported (s : State) : Bool := s.bit Reg.ptpCtrl 0 || s.bit Reg.ptpCtrl 1

/-- Enter a servo state: STATE_CHG and a CLOCK event, but only if it is another state (R113). -/
def servoEnter (st : ServoState) (s : State) : State :=
  if s.mclk.st = st then s
  else sqSet Reg.mclkEvt [0] { s with mclk := { s.mclk with
    st := st, stAge := 0, inLock := 0,
    phase := if st = .acquiring ∨ st = .locked then s.mclk.phase else 0,
    lockHist := if st = .locked then [] else s.mclk.lockHist } }

/-- The mean of the pulls in force while LOCKED, over 16 s at most, in units of SYS.MCLK_PULL (R116). -/
def meanPull (h : List (Int × Nat)) : Int :=
  let n : Nat := h.foldl (fun (a : Nat) x => a + x.2) 0
  let t : Int := h.foldl (fun (a : Int) x => a + x.1 * (x.2 : Int)) 0
  if n = 0 then 0 else scaleOpen 1 t 1 (25 * n)

/-- One more hinge at a pull, keeping 256,000 hinges (16 s). -/
def addPull (p : Int) (h : List (Int × Nat)) : List (Int × Nat) :=
  let h := match h with
    | (q, n) :: t => if q = p then (q, n + 1) :: t else (p, 1) :: (q, n) :: t
    | [] => [(p, 1)]
  (h.foldl (fun (acc : Nat × List (Int × Nat)) x =>
    let room := 256000 - acc.1
    if room = 0 then acc else (acc.1 + min room x.2, acc.2 ++ [(x.1, min room x.2)])) (0, [])).2

/-- The applied pull in units of SYS.MCLK_PULL; one that is no whole unit reads as either neighbour (assumption 3). -/
def pullUnits (s : State) : Int := scaleOpen 43 s.mclk.pull 1 25

/-- Move the applied pull towards what the state demands, at most the slew limit in one hinge: PULL_RATE × 10 ppm/s is
16 × PULL_RATE 25ths of a unit a hinge (R100). -/
def servoSlew (s : State) : State :=
  if s.mclk.backup then { s with mclk := { s.mclk with pull := 0, slewing := false } }
  else
    let demand := match s.mclk.st with
      | .freeRun => freePull s
      | .holdover => s.mclk.holdPull
      | _ => Config.servoDemand s.mclk.phase (pullUnits s)
    let target := 25 * clampInt (-pullMax) pullMax demand
    let lim : Int := 16 * pullRate s
    let d := clampInt (-lim) lim (target - s.mclk.pull)
    let s1 := { s with mclk := { s.mclk with pull := s.mclk.pull + d, slewing := decide (d ≠ target - s.mclk.pull) } }
    let s2 := if demand < -pullMax ∨ pullMax < demand then sqSet Reg.mclkEvt [4] s1 else s1
    if s2.mclk.st = .locked then
      { s2 with mclk := { s2.mclk with lockHist := addPull s2.mclk.pull s2.mclk.lockHist } }
    else s2

/-- The number the hinge under way carries: HINGE_CNT as it will read at its strike (R106, R108). -/
def hinge64 (s : State) : BitVec 64 :=
  if s.mclk.firstHinge then 0#64 else BitVec.ofNat 64 ((s.mclk.frameCnt.toNat + 1) / 6)
def hingeNo (s : State) : Word := (hinge64 s).setWidth 32

/-- The servo's measurement at a hinge and its transitions (R111 to R117). -/
def servoTransitions (s : State) : State :=
  let tick := s.mclk.tick
  let noTick := if tick.isSome then 0 else min 16 (s.mclk.noTick + 1)
  let usable := ptpReported s && decide (noTick < 16)
  let busy := s.mclk.st == .acquiring || s.mclk.st == .locked
  let phase := match tick with
    | some (_, e) => if busy then Config.servoFilter s.mclk.phase e else 0
    | none => if busy then s.mclk.phase else 0
  let small := decide (-500 ≤ phase ∧ phase ≤ 500)
  let inLock := if small then min 16000 (s.mclk.inLock + 1) else 0
  let s1 := { s with mclk := { s.mclk with noTick := noTick, phase := phase, inLock := inLock, gmLocal := s.bit Reg.ptpCtrl 1 } }
  let off := !s.bit Reg.mclkCtrl 0 || s.mclk.backup
  if off then servoEnter .freeRun s1
  else match s.mclk.st with
    | .freeRun => if usable then servoEnter .acquiring s1 else s1
    | .acquiring =>
      if !usable then servoEnter .freeRun s1
      else if 16000 ≤ inLock then servoEnter .locked s1
      else s1
    | .locked =>
      if !usable then
        servoEnter .holdover { s1 with mclk := { s1.mclk with holdPull := meanPull s1.mclk.lockHist } }
      else if phase < -10000 ∨ 10000 < phase then servoEnter .acquiring s1 else s1
    | .holdover => if usable then servoEnter .acquiring s1 else s1

/-- In ACQUIRING with STEP_EN, a tick that pairs with media hinge `h` fixes the step due at the hinge after it (R117). -/
def stepFix (i h : BitVec 64) (s : State) : State :=
  if s.mclk.st = .acquiring ∧ s.bit Reg.mclkCtrl 1 ∧ i - h ≠ 0#64 ∧ s.mclk.stepDue = none then
    { s with mclk := { s.mclk with stepDue := some (i - h) } }
  else s

/-- A tick that came at or after its media strike pairs with the hinge that has passed, and its step is due now (R117). -/
def pairPassed (s : State) : State :=
  match s.mclk.tick with
  | some (i, lead) => if lead ≤ 0 then stepFix i (hinge64 s - 1#64) s else s
  | none => s

/-- A tick that came before its media strike pairs with the hinge under way, and its step is due at the next; the tick
has been used (R117). -/
def pairComing (s : State) : State :=
  match s.mclk.tick with
  | some (i, lead) =>
    let s1 := if lead ≤ 0 then s else stepFix i (hinge64 s) s
    { s1 with mclk := { s1.mclk with tick := none } }
  | none => s

/-- The counter step that a hinge applies, if it does: one that was due, or that a tick just past makes due (R117, R120). -/
def stepApplied (s : State) : Option (BitVec 64) := if s.bit Reg.mclkCtrl 1 then (pairPassed s).mclk.stepDue else none

/-- The counter step due at this hinge: 6N to FRAME_CNT, which HINGE_CNT follows; STEP and a CLOCK event that carries N,
low word first, in the last eight bytes of DATA (R117 to R119, assumption 27). With STEP_EN at 0 there is none (R120). -/
def counterStep (s : State) : State :=
  match s.mclk.stepDue with
  | none => s
  | some n =>
    if s.bit Reg.mclkCtrl 1 then
      sqSetData Reg.mclkEvt [1] none (some (n.setWidth 32)) ((n >>> 32).setWidth 32)
        { s with mclk := { s.mclk with stepDue := none, stepN := n, frameCnt := s.mclk.frameCnt + 6#64 * n } }
    else { s with mclk := { s.mclk with stepDue := none } }

/-- The switch back from the reference PLL (R125): the pull starts from zero, after a sleep from the pull held since its
entry (R141, assumption 27). -/
def backupOff (s : State) : State :=
  if s.mclk.backup && s.mclk.backDue then
    sqSet Reg.mclkEvt [3] { s with mclk := { s.mclk with
      backup := false, backDue := false, pull := s.mclk.sleepPull.getD 0, sleepPull := none } }
  else s

/-- The clock controller's part of a hinge: the counter step, the servo as the conditions of the hinge before left it, and
the switch back (R113, R117, R125). -/
def clockHinge (s : State) : State :=
  let s1 := { s with mclk := { s.mclk with stAge := s.mclk.stAge + 1 } }
  backupOff (servoSlew (pairComing (servoTransitions (counterStep (pairPassed s1)))))

/-- FRAME_CNT and, at the hinge strike, HINGE_CNT advance (R106 to R108). -/
def frameAdvance (s : State) : State :=
  let f := if s.mclk.firstHinge then 0#64 else s.mclk.frameCnt + 1#64
  let h := if f.toNat % 6 = 0 then BitVec.ofNat 32 (f.toNat / 6) else s.mclk.hingeCnt
  { s with mclk := { s.mclk with frameCnt := f, hingeCnt := h, firstHinge := false } }

/-- HOLDOVER has lasted SYS.MCLK_HOLD_LIMIT seconds: the servo enters FREE_RUN; a limit of 0 never lapses (R113). -/
def holdoverLapse (s : State) : State :=
  let limit := s.rdf Reg.mclkHoldLimit 0 24
  if s.mclk.st = .holdover ∧ limit ≠ 0 ∧ 16000 * limit ≤ s.mclk.stAge then servoEnter .freeRun s else s

/-- The servo event arrives: the latest tick (R85, R111). -/
def tickArrive (s : State) : State :=
  { s with mclk := { s.mclk with tick := s.mclk.tickSent, tickSent := none } }

/-! ### The monitors (R95) -/

/-- The slow clock is lost: only a clock that has been qualified is reported, through crossing 14 (R86, R95). -/
def slowLost (s : State) : State :=
  if s.clk.slowOk then noticePost 14 0x10000#32 { s with clk := { s.clk with slowOk := false, slowGone := true } }
  else { s with clk := { s.clk with slowGone := true } }

/-- The network clock is lost (R95). -/
def netLost (s : State) : State :=
  if s.clk.netOk then noticePost 14 0x20000#32 { s with clk := { s.clk with netOk := false } } else s

/-- The media PLL unlocks: the clock controller switches the family to the reference PLL, and the servo enters FREE_RUN
(R95, R123, R124). SYS.CLKMON hears of it through crossing 14. -/
def mediaUnlock (s : State) : State :=
  if s.clk.mediaLock then
    let s1 := noticePost 14 0x80000#32 { s with clk := { s.clk with mediaLock := false } }
    let s2 := { s1 with mclk := { s1.mclk with backDue := false } }
    if s2.mclk.backup then s2
    else servoEnter .freeRun (sqSet Reg.mclkEvt [2] { s2 with mclk := { s2.mclk with backup := true, pull := 0, slewing := false } })
  else s

/-- The clock monitors' results among the bits of crossing 14: bit 16 + i sets bit i of SYS.CLKMON (R86, R95). -/
def monitorNotice (b : Word) (s : State) : State := sqSet Reg.clkMon ((bitsOf 4 (b.toNat / 65536)).filter (· ≠ 2)) s

/-- The crystal is lost while it was qualified: device reset is held until it returns, the media family stands still, and
the loss crosses by crossing 7 (R95, R126). The reset itself is `resetDevice`'s. -/
def xtalLostMark (s : State) : State :=
  noticePost 7 0x8#32 { s with clk := { s.clk with xtalOk := false, mediaLock := false } }

/-- A clock's qualifying condition holds: its state bit is set (R95); the media family starts on the reference PLL
(R123, R747, R757), and a qualified media PLL is switched to at the next hinge (R125). -/
def clockQualified (k : ClockId) (s : State) : State :=
  match k with
  | .slow => { s with clk := { s.clk with slowOk := true, slowGone := false } }
  | .net =>
    if s.clk.netOk then s
    else (List.range 4).foldl (fun s k => fifoUnready false true k s) { s with clk := { s.clk with netOk := true } }
  | .xtal =>
    if s.clk.xtalOk then s
    else { s with clk := { s.clk with xtalOk := true },
                  mclk := { s.mclk with backup := true, pull := 0, slewing := false },
                  power := { s.power with xtalLost := false } }
  | .media => { s with clk := { s.clk with mediaLock := true },
                       mclk := { s.mclk with backDue := s.mclk.backup } }

end Sys2Proof.Machine
end

