-- ==== Sys2Proof/Machine/Engine.lean ====
section
/-! DEFINITION. The sample engine (chapter 5): lanes and their domains, the frame of a core, the slot ledger, delay-line
pointers, and starting, stopping and disabling cores. -/

namespace Sys2Proof.Machine
open Sys2Proof

namespace Reg
def engCtrl : Nat := 0x40020004
def engRun : Nat := 0x40020020
def engLedger : Nat := 0x40020028
def engEvt : Nat := 0x4002002C
def engEvtSrc : Nat := 0x40020030
def coreCfg (n : Nat) : Nat := 0x40020100 + 0x20 * n
def coreSp (n : Nat) : Nat := 0x40020108 + 0x20 * n
def corePage (n : Nat) : Nat := 0x4002010C + 0x20 * n
def coreSat (n : Nat) : Nat := 0x40020110 + 0x20 * n
def coreEcc (n : Nat) : Nat := 0x40020114 + 0x20 * n
def coreFaults (n : Nat) : Nat := 0x40020118 + 0x20 * n
def winEntry (n w : Nat) : Nat := 0x3C000000 + 0x40 * n + 4 * w
def lineWord (n e off : Nat) : Nat := 0x3C100000 + 0x8000 * n + 0x80 * e + off
def bridgeCfg (n : Nat) : Nat := 0x40060100 + 0x10 * n
def bridgeEn : Nat := 0x40060020
def tdmEn : Nat := 0x40080020
def tdmCfg (p : Nat) : Nat := 0x40080100 + 0x20 * p
end Reg

/-! ### Domains (R102) -/

/-- The domain a two-bit DOM field names; 3 names none. -/
def domOf (v : Nat) : Option Dom :=
  match v with
  | 0 => some .f
  | 1 => some .m
  | 2 => some .v
  | _ => none

/-- Frames of a domain in a hinge (R102). -/
def framesPerHinge : Dom → Nat
  | .f => 6
  | .m => 3
  | .v => 1

/-- The last program slot of a domain's frame (R145). -/
def lastSlot : Dom → Nat
  | .f => 5055
  | .m => 10175
  | .v => 30655

/-- Fabric cycles of a domain's frame (R175). -/
def frameCycles (d : Dom) : Nat := 15360 / framesPerHinge d

/-! ### Cores and lanes -/

def State.sc (s : State) (n : Nat) : SampleCore := tget SampleCore.init s.eng.sc n
def State.setSc (s : State) (n : Nat) (c : SampleCore) : State :=
  { s with eng := { s.eng with sc := tset SampleCore.init s.eng.sc n c } }
def State.modSc (s : State) (n : Nat) (f : SampleCore → SampleCore) : State := s.setSc n (f (s.sc n))

def State.lane (s : State) (l : Nat) : LaneVal := tget LaneVal.zero s.eng.lanes l
def State.setLane (s : State) (l : Nat) (v : LaneVal) : State :=
  { s with eng := { s.eng with lanes := tset LaneVal.zero s.eng.lanes l v } }
/-- What every reader of a lane reads (R155). -/
def State.laneRead (s : State) (l : Nat) : Word := (s.lane l).pub
/-- A block's value for a lane in the frame under way: readers see it from the next strike (R155). -/
def State.lanePut (s : State) (l : Nat) (v : Word) : State := s.setLane l { s.lane l with pend := some v }

/-- A core runs its program at its domain's strikes. -/
def SampleCore.runs (c : SampleCore) : Bool := c.st == .running || c.st == .ramping

/-- The core's own enable (R189). -/
def coreEnable (s : State) (n : Nat) : Bool := s.bit Reg.engRun n || (s.sc n).runs

/-- Is a lane one of a core's output lanes, as it started? -/
def SampleCore.hasLane (c : SampleCore) (l : Nat) : Bool :=
  decide (0x300 + c.outFirst ≤ l ∧ l < 0x300 + c.outFirst + c.outCnt)

/-- The core that a lane is an output lane of: one that runs, else a FAULTED one, else one that was halted by ENG and
fades still (R182, R190). -/
def laneCore (s : State) (l : Nat) : Option Nat :=
  let find := fun (p : SampleCore → Bool) => (List.range 16).find? fun n => p (s.sc n) && (s.sc n).hasLane l
  (find SampleCore.runs).or ((find fun c => c.st == .faulted).or (find fun c => c.fade.isSome))

/-- Does another core run with a lane among its output lanes? -/
def otherOwner (s : State) (n l : Nat) : Bool :=
  (List.range 16).any fun m => m != n && (s.sc m).runs && (s.sc m).hasLane l

def State.bridge (s : State) (n : Nat) : Bridge := tget Bridge.off s.bridges n
def State.setBridge (s : State) (n : Nat) (b : Bridge) : State := { s with bridges := tset Bridge.off s.bridges n b }
def State.tport (s : State) (p : Nat) : TdmPort := tget TdmPort.off s.tdm p
def State.setTport (s : State) (p : Nat) (x : TdmPort) : State := { s with tdm := tset TdmPort.off s.tdm p x }

/-- The asynchronous bridge bound to a TDM port: one that is enabled, or still fades (R131, R138). -/
def asyncBridge (s : State) (p : Nat) : Option Nat :=
  (List.range 32).find? fun n =>
    (s.bit Reg.bridgeEn n || (s.bridge n).st != .off || decide (0 < (s.bridge n).scale)) && s.bit (Reg.bridgeCfg n) 7
      && s.rdf (Reg.bridgeCfg n) 8 3 == p

/-- The domain of a TDM port's lanes: its asynchronous bridge's media-side domain, or its own (R131, R428). -/
def portDom (s : State) (p : Nat) : Option Dom :=
  match asyncBridge s p with
  | some n => domOf (s.rdf (Reg.bridgeCfg n) 2 2)
  | none => domOf (s.rdf (Reg.tdmCfg p) 0 2)

def State.rxs (s : State) (r : Nat) : RxStream := tget RxStream.off s.net.rx r
def State.setRxs (s : State) (r : Nat) (x : RxStream) : State :=
  { s with net := { s.net with rx := tset RxStream.off s.net.rx r x } }
/-- Words of a receive stream's entry: its first lane and its channels (chapter 15). -/
def rxLaneFirst (s : State) (r : Nat) : Nat := s.rdf (0x3C60000C + 0x80 * r) 16 8
def rxChannels (s : State) (r : Nat) : Nat := s.rdf (0x3C60000C + 0x80 * r) 0 3 + 1

/-- The receive stream, not OFF, that writes a network receive lane. -/
def rxOfLane (s : State) (l : Nat) : Option Nat :=
  (s.net.rx.find? fun x => x.2.st != .off &&
    decide (rxLaneFirst s x.1 ≤ l ∧ l < rxLaneFirst s x.1 + rxChannels s x.1)).map (·.1)

/-- A TDM port writes the lanes of its active slots while it runs at all, a slave on its own clock only once it has acquired
(R105, R429, R448, R449). -/
def tdmLaneDom (s : State) (p k : Nat) : Option Dom :=
  if (s.tport p).st != .off && ((s.tport p).st != .acquire || (asyncBridge s p).isSome) && decide (k ≤ s.rdf (Reg.tdmCfg p) 9 5) then portDom s p else none

/-- The domain in which a lane is written, if a block writes it (R105 and the lane table of chapter 10). -/
def laneDom (s : State) (l : Nat) : Option Dom :=
  if l < 0x100 then (if (rxOfLane s l).isSome then some .m else none)
  else if l < 0x1C0 then tdmLaneDom s ((l - 0x100) / 32) ((l - 0x100) % 32)
  else if l < 0x1C2 then some .m
  else if l < 0x1C8 then none
  else if l < 0x1E0 then some .m
  else if l < 0x200 then none
  else if l < 0x250 then some .m
  else if l < 0x270 then domOf (s.rdf (Reg.bridgeCfg (l - 0x250)) 2 2)
  else if l < 0x300 then none
  else match laneCore s l with
    | some n => some (s.sc n).dom
    | none => none

/-- What a reader that names no domain reads from a lane: 0 where no block writes it (R156). -/
def laneNow (s : State) (l : Nat) : Word := if laneDom s l = none then 0#32 else s.laneRead l

/-! ### Windows and lines -/

/-- The windows of a core: start and length, unused entries left out (R174). -/
def coreWindows (s : State) (n : Nat) : List (Nat × Nat) :=
  (List.range 16).filterMap fun w =>
    let x := s.rd (Reg.winEntry n w)
    if fld x 16 12 = 0 then none else some (fld x 0 14, fld x 16 12)

/-- A window obeys the first sentence of R176: inside its frame, clear of the housekeeping cycles. -/
def windowOk (d : Dom) (w : Nat × Nat) : Bool :=
  decide (w.1 + w.2 ≤ frameCycles d) &&
    (List.range 6).all fun j => decide (w.1 + w.2 ≤ 2528 + 2560 * j ∨ 2560 + 2560 * j ≤ w.1)

/-- A domain's windows as they fall in a hinge (R175). -/
def replicate (d : Dom) (ws : List (Nat × Nat)) : List (Nat × Nat) :=
  (List.range (framesPerHinge d)).flatMap fun j => ws.map fun w => (w.1 + j * frameCycles d, w.2)

def meets (a b : Nat × Nat) : Bool := decide (a.1 < b.1 + b.2 ∧ b.1 < a.1 + a.2)

/-- Two of a list's windows meet. -/
def selfMeets : List (Nat × Nat) → Bool
  | [] => false
  | w :: ws => ws.any (meets w) || selfMeets ws

/-- What the checks of a start or a swap count of a core that is not HALTED: its domain and its output lanes, first and
count. A FAULTED core's registers are open to writes, and it counts as they stand (R184, R370). -/
def coreStands (s : State) (n : Nat) : Dom × Nat × Nat :=
  let c := s.sc n
  let cfg := s.rd (Reg.coreCfg n)
  if c.st = .faulted then ((domOf (fld cfg 0 2)).getD c.dom, fld cfg 8 8, fld cfg 16 9) else (c.dom, c.outFirst, c.outCnt)

/-- ENG.WIN_USED: hinge cycles occupied by the windows of all cores that are not HALTED. -/
def winUsed (s : State) : Nat :=
  (List.range 16).foldl (fun a n =>
    if (s.sc n).st = .halted then a
    else a + (coreWindows s n).foldl (fun b w => b + w.2 * framesPerHinge (coreStands s n).1) 0) 0

/-- The valid entries of a core's line map. -/
def validLines (s : State) (n : Nat) : List Nat :=
  (s.regs.filter fun x => decide (0x3C100000 + 0x8000 * n ≤ x.1 ∧ x.1 < 0x3C108000 + 0x8000 * n)
    && decide (x.1 % 0x80 = 0) && x.2.getLsbD 31).map fun x => x.1 % 0x8000 / 0x80

/-- The valid long entries of every core's line map (R169). -/
def longLines (s : State) : Nat :=
  (s.regs.filter fun x => decide (0x3C100000 ≤ x.1 ∧ x.1 < 0x3C180000)
    && decide (x.1 % 0x80 = 0) && x.2.getLsbD 31 && x.2.getLsbD 30).length

/-- A line of the given kind, base, length and taps obeys R168. -/
def lineOk (long : Bool) (base len : Nat) (taps : List Nat) : Bool :=
  (if long then decide (2 ≤ len ∧ len ≤ 2097152 ∧ base + 4 * len ≤ 0x800000)
    else decide (2 ≤ len ∧ len ≤ 8192 ∧ base + 4 * len ≤ 0x8000))
    && taps.all fun d => decide (d < len)

/-- The taps of a line-map entry, live or at another base. -/
def lineTaps (rd : Nat → Word) : List Nat := (List.range 16).map fun t => (rd (0x40 + 4 * t)).toNat

/-- A live line-map entry obeys R168. -/
def liveLineOk (s : State) (n e : Nat) : Bool :=
  let rd := fun off => s.rd (Reg.lineWord n e off)
  lineOk ((rd 0).getLsbD 30) (rd 4).toNat (rd 8).toNat (lineTaps rd)

/-! ### A core's events -/

/-- A setting event of ENG.EVT with the core behind it. -/
def engEvent (bit n : Nat) (s : State) : State := sqSet Reg.engEvt [bit] (s.wrn Reg.engEvtSrc n)

/-- Record a ledger cause of a core's frame: the first one stands (R179). -/
def recordCause (n k : Nat) (s : State) : State :=
  s.modSc n fun c => if c.cause = 0 then { c with cause := k } else c

/-- Clear a bit of a WB register in its live value and in its shadow. -/
def clearBoth (a n : Nat) (s : State) : State :=
  let s1 := s.wrb a n false
  match tget none s.wbPend a with
  | some w => { s1 with wbPend := tset none s1.wbPend a (some (wsetBit w n false)) }
  | none => s1

/-- Clear a bit of ENG.RUN in its live value and in its shadow. -/
def clearRun (n : Nat) (s : State) : State := clearBoth Reg.engRun n s

/-- Take the buffered writes whose address a test accepts: the state without them, and the writes in address order. -/
def takeBuffered (mine : Nat → Bool) (s : State) : State × List (Nat × Word) :=
  ({ s with wbPend := s.wbPend.filter fun x => !mine x.1 },
    s.wbPend.filterMap fun x => if mine x.1 then x.2.map fun v => (x.1, v) else none)

/-- Do something for each lane of a core. -/
def eachLane (c : SampleCore) (f : Nat → State → State) (s : State) : State :=
  (List.range c.outCnt).foldl (fun s k => f (0x300 + c.outFirst + k) s) s

/-- v × num / 16, rounding open. -/
def sixteenths (place : Nat) (v : Word) (num : Nat) : Word := BitVec.ofInt 32 (scaleOpen place v.toInt num 16)

/-! ### Housekeeping (R147) -/

/-- The frame's cause: the first recorded, else END_EARLY for an END retired before the last program slot, and END_LATE
when none was retired (R179). -/
def frameCause (c : SampleCore) : Nat :=
  if c.cause ≠ 0 then c.cause
  else match c.ended with
    | none => 2
    | some k => if k = lastSlot c.dom then 0 else 1

/-- Start the fade of R180 on a core's lanes from their last published values: `k` frames of it are published at once. -/
def startFade (n k : Nat) (s : State) : State :=
  let c := s.sc n
  let s1 := eachLane c (fun l s =>
    let v := s.lane l
    s.setLane l { pub := if k = 0 then v.pub else sixteenths 2 v.pub (16 - k), raw := 0#32, pend := none, held := v.pub }) s
  s1.modSc n fun c => { c with fade := some k }

/-- The ledger check of a core whose frame ends: a failed check discards the frame, halts the core as FAULTED and raises a
LEDGER event (R179 to R181). -/
def ledgerCheck (n : Nat) (s : State) : State :=
  let c := s.sc n
  let cause := frameCause c
  let s1 := s.modSc n fun c => { c with lastEnd := c.ended.getD 0x7FFF }
  if cause = 0 then s1
  else
    let s2 := startFade n 1 (s1.modSc n fun c => { c with st := .faulted, causeReg := cause, scale := 0, stopping := false, stopFrames := 0 })
    let s3 := clearRun n s2
    let s4 := s3.wrf (Reg.coreFaults n) 0 16 (s3.rdf (Reg.coreFaults n) 0 16 + 1)
    sqSet Reg.engLedger [n] s4

/-- One more frame of a core's fade of R180. -/
def fadeStep (n : Nat) (s : State) : State :=
  match (s.sc n).fade with
  | none => s
  | some k =>
    let c := s.sc n
    let s1 := eachLane c (fun l s =>
      let v := s.lane l
      if otherOwner s n l then s
      else if k + 1 < 16 then s.setLane l { v with pub := sixteenths 2 v.held (16 - (k + 1)), pend := none }
      else s.setLane l LaneVal.zero) s
    s1.modSc n fun c => { c with fade := if k + 1 < 16 then some (k + 1) else none }

/-- Publication of a running core's lanes at its output scale, which moves one step a frame (R155 to R157, R186 to
R188). -/
def publishCore (n : Nat) (s : State) : State :=
  let c := s.sc n
  let sc := if c.stopping then c.scale - 1 else min 16 (c.scale + 1)
  let s1 := eachLane c (fun l s =>
    let v := s.lane l
    let raw := v.pend.getD v.raw
    s.setLane l { v with raw := raw, pend := none, pub := if sc = 16 then raw else sixteenths 3 raw sc }) s
  s1.modSc n fun c => { c with
    scale := sc, st := if sc = 16 ∧ !c.stopping then .running else .ramping,
    stopFrames := if c.stopping then min 16 (c.stopFrames + 1) else 0 }

/-- WP of every valid line of a core whose frame ended advances by one, modulo its length (R165). -/
def advanceLines (n : Nat) (s : State) : State :=
  (validLines s n).foldl (fun s e =>
    let len := (s.rd (Reg.lineWord n e 8)).toNat
    let wp := (s.rd (Reg.lineWord n e 0xC)).toNat
    if len = 0 then s else s.wrn (Reg.lineWord n e 0xC) ((wp + 1) % len)) s

/-- PSW.S of the frame is collected (R147). -/
def collectSat (n : Nat) (s : State) : State :=
  if wbit (s.sc n).r.psw pswS then s.incSat (Reg.coreSat n) else s

/-- The corrected ECC errors of the frame are collected (R147, R164). -/
def collectEcc (n : Nat) (s : State) : State :=
  let k := (s.sc n).eccNew
  if k = 0 then s else engEvent 3 n ((s.addSat (Reg.coreEcc n) k).modSc n fun c => { c with eccNew := 0 })

/-- Housekeeping of one core at the end of a frame of domain `d`. -/
def coreHousekeep (d : Dom) (n : Nat) (s : State) : State :=
  let c := s.sc n
  if c.dom ≠ d then s
  else if c.runs then
    let s1 := ledgerCheck n s
    let s2 := if (s1.sc n).runs then publishCore n s1 else s1
    collectEcc n (collectSat n (advanceLines n s2))
  else collectEcc n (fadeStep n s)

/-- Publication of the lanes that the fixed blocks of a domain wrote in the frame: below 0x300, written by no core. The
value before it is kept, for readers ahead of a TDM port's delivery point (R435). -/
def publishFixed (d : Dom) (s : State) : State :=
  (s.eng.lanes.filter fun x => decide (x.1 < 0x300) && x.2.pend.isSome).foldl (fun s x =>
    if laneDom s x.1 = some d ∨ laneDom s x.1 = none then
      match x.2.pend with
      | some v => s.setLane x.1 { pub := v, raw := v, pend := none, held := x.2.pub }
      | none => s
    else s) s

/-- Every core's housekeeping, and the fixed blocks' publication (R147, k = 0 to 47). -/
def housekeep (d : Dom) (s : State) : State :=
  publishFixed d ((List.range 16).foldl (fun s n => coreHousekeep d n s) s)

/-! ### The strike (R142, R144) -/

/-- The base of a core's window. -/
def scBase (n : Nat) : Nat := 0x38000000 + 0x20000 * n

/-- The frame counts of the armed edge entries at the start of a frame: the first is 1, and at 64 the entry is disarmed
(R375). -/
def edgesNext (l : List (Nat × Nat × Nat)) : List (Nat × Nat × Nat) :=
  (l.map fun e => (e.1, e.2.1, e.2.2 + 1)).filter fun e => decide (e.2.2 < 64)

/-- A running core begins its program again (R144). -/
def coreStrike (d : Dom) (n : Nat) (s : State) : State :=
  let c := s.sc n
  if c.dom = d ∧ c.runs = true then
    s.setSc n { c with
      r := { CoreRegs.zero with
        pc := BitVec.ofNat 32 (scBase n + (if c.pbank then 0x6000 else 0)),
        spU := s.rd (Reg.coreSp n) &&& 0xFFFFFFFC#32, page := s.rd (Reg.corePage n) &&& 0xFFFFFFFC#32 },
      slot := 0, ended := none, depth := 0, cause := 0, crucAt := none, edges := edgesNext c.edges }
  else s

def strikeCores (d : Dom) (s : State) : State := (List.range 16).foldl (fun s n => coreStrike d n s) s

/-! ### Starting and stopping at a hinge (R184 to R190) -/

/-- A core halts after its stop fade: HALTED, its lanes silent, ENG.EVT.HALTED (R187). -/
def haltCore (n : Nat) (s : State) : State :=
  let c := s.sc n
  let s1 := eachLane c (fun l s => s.setLane l LaneVal.zero) s
  engEvent 4 n (s1.modSc n fun c => { c with st := .halted, stopping := false, stopFrames := 0, scale := 0 })

/-- Frame 15 of a core's stop fade has ended: it may halt at a hinge (R187). -/
def fadeDone (c : SampleCore) : Bool := c.runs && c.stopping && decide (c.scale = 0 ∧ 16 ≤ c.stopFrames)

/-- A core whose output lanes become those from `first` on, `cnt` of them: the lanes it leaves read 0 (R156), but for
those that another core writes; the lanes it keeps stay as they are. -/
def leaveLanes (n first cnt : Nat) (s : State) : State :=
  eachLane (s.sc n) (fun l s =>
    if (0x300 + first ≤ l ∧ l < 0x300 + first + cnt) ∨ otherOwner s n l = true then s else s.setLane l LaneVal.zero) s

/-- A core that was idle starts at this hinge with the configuration in its registers: its ramp begins (R186). -/
def beginCore (n : Nat) (s : State) : State :=
  let cfg := s.rd (Reg.coreCfg n)
  let s1 := leaveLanes n (fld cfg 8 8) (fld cfg 16 9) s
  let s2 := s1.modSc n fun c => { c with
    st := .ramping, dom := (domOf (fld cfg 0 2)).getD .m, outFirst := fld cfg 8 8, outCnt := fld cfg 16 9,
    scale := 0, stopping := false, stopFrames := 0, fade := none, starting := true, cause := 0, watchStopped := false }
  eachLane (s2.sc n) (fun l s => s.setLane l { s.lane l with raw := 0#32, pend := none }) s2

/-- The first check of R184 that a core fails, 0 for none; cores that are not HALTED count as accepted (R185). -/
def startCause (s : State) (n : Nat) : Nat :=
  let cfg := s.rd (Reg.coreCfg n)
  let first := fld cfg 8 8
  let cnt := fld cfg 16 9
  let others := (List.range 16).filter fun m => m != n && (s.sc m).st != .halted
  match domOf (fld cfg 0 2) with
  | none => 8
  | some d =>
    if 256 < first + cnt ∨ (others.any fun m =>
        let x := (coreStands s m).2
        decide (0 < cnt ∧ 0 < x.2 ∧ first < x.1 + x.2 ∧ x.1 < first + cnt)) then 9
    else
      let ws := coreWindows s n
      if !(ws.all (windowOk d)) then 10
      else
        let rep := replicate d ws
        if selfMeets rep || (others.any fun m =>
            (replicate (coreStands s m).1 (coreWindows s m)).any fun b => rep.any (meets b)) then 11
        else if !((validLines s n).all (liveLineOk s n)) || decide (1024 < longLines s) then 12
        else 0

/-- WP of each valid line of a starting core is 0 (R173). -/
def zeroPointers (n : Nat) (s : State) : State :=
  (validLines s n).foldl (fun s e => s.wr (Reg.lineWord n e 0xC) 0#32) s

/-- Bit n of ENG.RUN became 1 at this hinge: the core is checked and starts under its ramp, or is refused; a core that
still runs goes on without a restart (R184 to R186, R188). -/
def startCore (n : Nat) (s : State) : State :=
  let c := s.sc n
  if c.runs then s.setSc n { c with stopping := false, stopFrames := 0, watchStopped := false, st := if c.scale = 16 then .running else .ramping }
  else
    let k := startCause s n
    if k = 0 then
      zeroPointers n ((beginCore n s).modSc n fun c => { c with pbank := s.bit (Reg.coreCfg n) 4 })
    else engEvent 0 n (clearRun n (s.setSc n { c with causeReg := k }))

/-- Bit n of ENG.RUN became 0 at this hinge: the core runs on under its stop fade (R187). -/
def stopCore (n : Nat) (s : State) : State :=
  s.modSc n fun c => if c.runs then { c with stopping := true, stopFrames := 0, st := .ramping, watchStopped := false } else c

/-- The cores whose stop fade has ended halt, before anything else of the hinge counts them (R185, R187); one whose run bit
is set again at this hinge does not (R188). -/
def haltsDue (s : State) : State :=
  let run := (tget none s.wbPend Reg.engRun).getD (s.rd Reg.engRun)
  (List.range 16).foldl (fun s n => if fadeDone (s.sc n) && !run.getLsbD n then haltCore n s else s) s

/-- The change of ENG.RUN from one hinge to the next: stops, then starts in ascending order (R185). -/
def applyRun (old new : Word) (s : State) : State :=
  let s1 := (List.range 16).foldl (fun s n => if old.getLsbD n && !new.getLsbD n then stopCore n s else s) s
  (List.range 16).foldl (fun s n => if !old.getLsbD n && new.getLsbD n then startCore n s else s) s1

/-- ENG.CTRL.ENABLE is 0 at a hinge: every core halts without running further, its outputs fade from the last value
published, and ENG.RUN is cleared in both values (R190). -/
def engDisabled (s : State) : State :=
  let s1 := (List.range 16).foldl (fun s n =>
    if (s.sc n).runs then
      startFade n 0 (s.modSc n fun c => { c with st := .halted, stopping := false, stopFrames := 0, scale := 0 })
    else s) s
  { s1.wr Reg.engRun 0#32 with wbPend := tset none s1.wbPend Reg.engRun none }

/-- Does the next F strike begin a hinge, so that what a hinge changes is due now (R104, R108)? -/
def hingeNext (s : State) : Bool := s.mclk.firstHinge || decide ((s.mclk.frameCnt.toNat + 1) % 6 = 0)

/-- CORE_HALTED: the halt of R187 at a hinge, for a core whose stop fade has ended and whose RUN bit is 0. -/
def coreHalted (n : Nat) (s : State) : State :=
  if fadeDone (s.sc n) && !s.bit Reg.engRun n && hingeNext s then haltCore n s else s

/-- The code of a core's state (ENG.STATE). -/
def scCode : ScState → Nat
  | .halted => 0
  | .running => 1
  | .ramping => 2
  | .faulted => 3

/-- ENG.STATE and ENG.CORE_STAT_n as they read. -/
def engStateView (s : State) : Word :=
  BitVec.ofNat 32 ((List.range 16).foldl (fun a n => a + scCode (s.sc n).st * 4 ^ n) 0)
def coreStatView (s : State) (n : Nat) : Word :=
  let c := s.sc n
  BitVec.ofNat 32 (c.lastEnd * 65536 + c.scale * 256 + c.causeReg * 16 + b2n c.cbank * 8 + b2n c.pbank * 4 + scCode c.st)

/-! ### Coefficient banks (R160, R204) -/

/-- The base of a coefficient bank. -/
def coefBase (n : Nat) (bank : Bool) : Nat := scBase n + (if bank then 0x16000 else 0x14000)

/-- Copy `len` bytes of a memory from one place to another that does not meet it. -/
def memCopy (m : List Host.Cell) (src dst len : Nat) : List Host.Cell :=
  let cells := m.filter fun c => decide (src ≤ c.1 ∧ c.1 < src + len)
  cells.foldl (fun m c => memPut m (c.1 - src + dst) c.2) (memZero m dst (dst + len))

/-- The engine copies the live coefficient bank into the inactive one; bus writes are held until it ends (R204). -/
def startCoefCopy (n : Nat) (s : State) : State := s.modSc n fun c => { c with copying := true }

/-- The copy ends: the inactive bank holds the live bank, and the writes it held land in it, which makes the bank DIRTY
(R192, R193, R204). -/
def coefCopyEnd (n : Nat) (s : State) : State :=
  let c := s.sc n
  if c.copying then
    let t := s.setSc n { c with copying := false, held := [] }
    let t1 := { t with
      mem := memCopy t.mem (coefBase n c.cbank) (coefBase n !c.cbank) 0x2000
      ecc := eccOut (coefBase n !c.cbank) 0x2000 t.ecc }
    let t2 := c.held.foldl (fun t h => t.mwr h.1 h.2.1 h.2.2) t1
    let d := if c.held = [] then s.safe.dirty
      else if s.safe.dirty.contains (.coef n) then s.safe.dirty else .coef n :: s.safe.dirty
    { t2 with safe := { t2.safe with dirty := d } }
  else s

end Sys2Proof.Machine
end

