-- ==== Sys2Proof/Machine/Safe.lean ====
section
/-! DEFINITION. SAFE (chapter 6): paired sets, their live words and shadows, staging, the binding tables and commit
requests. What a commit does to each set stands in Commit.lean. -/

namespace Sys2Proof.Machine
open Sys2Proof

namespace Reg
def safeCtrl : Nat := 0x40030004
def safeEvt : Nat := 0x40030034
def safeEvtSrc : Nat := 0x40030038
def pairedAddr : Nat := 0x4003003C
def pairedInfo : Nat := 0x40030040
def commitSeq : Nat := 0x40030030
def grpCfg (g : Nat) : Nat := 0x40030100 + 0x10 * g
def nodeWord (o i : Nat) : Nat := 0x3C400000 + 0x400 * o + 4 * i
def eqWord (sec off : Nat) : Nat := 0x3C490000 + 0x20 * sec + off
def limWord (o off : Nat) : Nat := 0x3C4A0000 + 0x20 * o + off
def toneWord (g off : Nat) : Nat := 0x3C480000 + 0x40 * g + off
def bindWord (g b off : Nat) : Nat := 0x3C200000 + 0x1000 * g + 8 * b + off
end Reg

/-- A shadow lies this far above its live word (chapter 6). -/
def shadowOff : Nat := 0x800000

/-! ### Sets and their words -/

/-- The live words of a set that lies in the engine table aperture (chapter 6, kinds); a COEF bank lies in its core. -/
def setWords : CSet → List Nat
  | .coef _ => []
  | .node o i => [Reg.nodeWord o i]
  | .eq sec => [0, 4, 8, 0xC, 0x10].map (Reg.eqWord sec)
  | .qnch o => [0, 4, 8].map (Reg.limWord o)
  | .tone g => ((List.range 16).filter fun k => k != 6 && k != 7).map fun k => Reg.toneWord g (4 * k)
  | .line n e => (4 :: 8 :: (List.range 16).map (0x40 + 4 * ·)).map (Reg.lineWord n e)

/-- The set that a word of a table belongs to, if it is bindable (chapter 6, kinds). -/
def tableSet : ApTable → Option CSet
  | .node o i => some (.node o i)
  | .eqSec s off => if off < 0x14 then some (.eq s) else none
  | .limiter o off => if off < 0xC then some (.qnch o) else none
  | .tone g _ => some (.tone g)
  | .line n e off => if off = 4 ∨ off = 8 ∨ 0x40 ≤ off then some (.line n e) else none
  | _ => none

/-- Has a table bindable words, so that its layout has a shadow, the words outside every bindable location with it (R191)? -/
def tableShadowed : ApTable → Bool
  | .node .. | .eqSec .. | .limiter .. | .tone .. | .line .. => true
  | _ => false

/-- The bits that a table word keeps when a bus write reaches it; what is read only is not kept (chapters 5, 6, 10 to 12,
15, 19, 21). A shadow keeps the same bits of a bindable word, the gain alone of a node (chapter 6). -/
def apMask : ApTable → Nat
  | .window _ _ => 0x0FFF3FFF
  | .line _ _ off => if off = 0 then 0xC0000000 else if off = 0xC then 0 else full
  | .bind _ _ off => if off = 0 then 0x8F00FFFF else 0xFF000FFF
  | .stagedLine _ _ => full
  | .stagedCore _ _ => full
  | .node _ _ => 0xFFFFF
  | .nodeCur _ _ => 0
  | .inSel _ => 0x800003FF
  | .zone _ off => if off = 0 then 0x00FF9FFF else if off = 4 then 0xFFFF01FF else 0
  | .outZone _ => 0xFF
  | .destSel _ => 0x800013FF
  | .tone _ off => if off = 0 then 0x0FFFFFFF else if off = 0x10 then 0xFFFF else if off = 0x14 then 0xFFFFFF else full
  | .eqSec _ off => if off < 0x14 then full else 0
  | .limiter _ off => if off = 8 then 0x7F else if off < 8 then full else 0
  | .plan _ => full
  | .rxStream _ off =>
    if off = 4 then 0x37FFFFF else if off = 0xC then 0xFF0077 else if off = 0x10 then 0x1FF7F
    else if off < 0x1C then full else 0
  | .txStream _ off =>
    if off = 4 then 0x17FFFFF else if off = 0xC then 0xFF0077 else if off = 0x10 then 0x3FFF
    else if off < 0x1C then full else 0
  | .passSlot _ off => if off = 0 then 0x8000037F else full

def State.isDirty (s : State) (c : CSet) : Bool := s.safe.dirty.contains c
def State.setDirty (s : State) (c : CSet) : State :=
  if s.isDirty c then s else { s with safe := { s.safe with dirty := c :: s.safe.dirty } }
def State.setClean (s : State) (c : CSet) : State :=
  { s with safe := { s.safe with dirty := s.safe.dirty.filter (· != c) } }

/-- A set becomes clean other than by a commit: a COEF bank is refreshed from the live bank (R193). -/
def discardSet (c : CSet) (s : State) : State :=
  if s.isDirty c then
    match c with
    | .coef n => startCoefCopy n (s.setClean c)
    | _ => s.setClean c
  else s

/-- The staged value of a bindable live word (R191). -/
def stagedWord (s : State) (c : CSet) (a : Nat) : Word :=
  if s.isDirty c then s.rd (a + shadowOff)
  else match c with
    | .node _ _ => s.rd a &&& 0xFFFF#32
    | _ => s.rd a

/-- A shadow write to a bindable word: the first one to a clean set copies the set's live values (R192). -/
def stageWord (c : CSet) (a : Nat) (v : Word) (s : State) : State :=
  let s1 := if s.isDirty c then s
    else (setWords c).foldl (fun s a => s.wr (a + shadowOff) (stagedWord s c a)) s
  let v' := match c with
    | .node _ _ => v &&& 0xFFFF#32
    | _ => v
  (s1.setDirty c).wr (a + shadowOff) v'

/-- The own enable that guards direct writes to a set's live words (R194): the core's, or CTRL.ENABLE of the block. -/
def pairedLocked (s : State) : CSet → Bool
  | .coef n => coreEnable s n
  | .node _ _ => false
  | .eq _ => s.bit (slotBase 7 + 4) 0
  | .qnch _ => s.bit (slotBase 7 + 4) 0
  | .tone _ => s.bit (slotBase 5 + 4) 0
  | .line n _ => coreEnable s n

/-- A direct write to a live paired field that was ignored (R194). -/
def pairedIgnored (a master : Nat) (s : State) : State :=
  sqSet Reg.safeEvt [3] ((s.wrn Reg.pairedAddr a).wrn Reg.pairedInfo master)

/-! ### Groups -/

def State.grp (s : State) (g : Nat) : Group := tget Group.init s.safe.groups g
def State.setGrp (s : State) (g : Nat) (x : Group) : State :=
  { s with safe := { s.safe with groups := tset Group.init s.safe.groups g x } }

/-- A setting event of SAFE.EVT with a group behind it. -/
def safeEvent (bit g : Nat) (s : State) : State := sqSet Reg.safeEvt [bit] (s.wrn Reg.safeEvtSrc g)

/-- SAFE.GRP_CFG_g: owner and tenant. -/
def grpOwner (s : State) (g : Nat) : Nat := s.rdf (Reg.grpCfg g) 0 8
def grpTenant (s : State) (g : Nat) : Nat := s.rdf (Reg.grpCfg g) 16 4

/-- The valid entries of a group's binding table, in order: both words. -/
def grpEntries (s : State) (g : Nat) : List (Word × Word) :=
  (s.regs.filter fun x => decide (Reg.bindWord g 0 0 ≤ x.1 ∧ x.1 < Reg.bindWord (g + 1) 0 0)
    && decide (x.1 % 8 = 0) && x.2.getLsbD 31).map fun x => (x.2, s.rd (x.1 + 4))

/-- A binding entry that names no sets of the part: cause BIND (R203). -/
def entryBad (e : Word × Word) : Bool :=
  let kind := fld e.1 24 4
  let first := fld e.1 0 16
  let unit := fld e.2 24 8
  let count := fld e.2 0 12
  match kind with
  | 1 => decide (15 < unit)
  | 2 => decide (count = 0 ∨ 256 < first + count)
  | 3 => decide (count = 0 ∨ 1024 < first + count)
  | 4 => decide (count = 0 ∨ 256 < first + count)
  | 5 => decide (count = 0 ∨ 0x50 < first + count)
  | 6 => decide (15 < unit ∨ count = 0 ∨ 256 < first + count)
  | _ => true

/-- Does a binding entry bind a set (R196)? -/
def entryBinds (e : Word × Word) (c : CSet) : Bool :=
  let kind := fld e.1 24 4
  let first := fld e.1 0 16
  let unit := fld e.2 24 8
  let count := fld e.2 0 12
  let inRange := fun k => decide (first ≤ k ∧ k < first + count)
  match c with
  | .coef n => kind == 1 && unit == n
  | .node o i => kind == 2 && unit == o && inRange i
  | .eq s => kind == 3 && inRange s
  | .qnch o => kind == 4 && inRange o
  | .tone g => kind == 5 && inRange g
  | .line n e => kind == 6 && unit == n && inRange e

/-- The dirty sets that a group binds. -/
def grpDirty (s : State) (g : Nat) : List CSet :=
  let es := grpEntries s g
  s.safe.dirty.filter fun c => es.any fun e => entryBinds e c

/-- May this master commit the group (R199)? -/
def mayCommit (s : State) (g master : Nat) (privileged : Bool) : Bool :=
  s.enabled 3 && (decide (grpOwner s g = master) || (decide (grpOwner s g = 0xFF) && privileged))

/-- A commit request for one group (R199, R200). -/
def commitRequest (master : Nat) (privileged : Bool) (g : Nat) (s : State) : State :=
  if mayCommit s g master privileged then
    if (s.grp g).pending then s else s.setGrp g { s.grp g with pending := true, cancelled := false }
  else safeEvent 4 g s

/-- A write of SAFE.COMMIT_REQ0 (`base` 0) or COMMIT_REQ1 (`base` 32): its groups are accepted together. -/
def commitReqWrite (base master : Nat) (privileged : Bool) (v : Word) (s : State) : State :=
  (bitsOf 32 v.toNat).foldl (fun s k => commitRequest master privileged (base + k) s) s

/-- A pending group is cancelled: it completes as CANCELLED at the next hinge (R203). -/
def cancelGroup (g : Nat) (s : State) : State :=
  if (s.grp g).pending then s.setGrp g { s.grp g with cancelled := true } else s

/-- SAFE.CTRL.ENABLE is written: clearing it cancels every pending group (chapter 6, SAFE disabled). -/
def safeEnableWrite (on : Bool) (s : State) : State :=
  let s1 := s.wrb Reg.safeCtrl 0 on
  if on then s1 else (List.range 64).foldl (fun s g => cancelGroup g s) s1

/-- Completion of a group at the hinge under way: cause 0 is applied (R206). -/
def completeGroup (g cause : Nat) (s : State) : State :=
  let x := s.grp g
  safeEvent (if cause = 0 then 0 else 1) g
    (s.setGrp g { pending := false, cancelled := false, seq := x.seq + 1#16, cause := cause,
                  result := if cause = 0 then 1 else 2, hinge := hingeNo s })

/-- SAFE.PENDING0 and 1, GRP_STAT_g and GRP_HINGE_g as they read. -/
def pendingView (s : State) (base : Nat) : Word := BitVec.ofNat 32 (maskOf 32 fun k => (s.grp (base + k)).pending)
def grpStatView (s : State) (g : Nat) : Word :=
  let x := s.grp g
  BitVec.ofNat 32 (x.seq.toNat * 65536 + x.cause * 4096 + x.result * 1024 + (grpEntries s g).length)

end Sys2Proof.Machine
end

