-- ==== Sys2Proof/Machine/Weld.lean ====
section
/-! DEFINITION. The Weld matrix, its nodes and ramps, selections and their crossfades, claims, arbitration, gates and
fallbacks (chapter 10). -/

namespace Sys2Proof.Machine
open Sys2Proof

namespace Reg
def weldRamp : Nat := 0x40040020
def weldEvt : Nat := 0x4004002C
def weldEvtSrc : Nat := 0x40040030
def fullAddr : Nat := 0x40040034
def claimStat : Nat := 0x40040038
def infail (k : Nat) : Nat := 0x40040040 + 4 * k
def tenCeil : Nat := 0x40040060
def inSel (i : Nat) : Nat := 0x3C440000 + 4 * i
def zoneWord (z off : Nat) : Nat := 0x3C450000 + 0x40 * z + off
def outZone (o : Nat) : Nat := 0x3C460000 + 4 * o
def destSel (d : Nat) : Nat := 0x3C470000 + 4 * d
end Reg

def State.modWeld (s : State) (f : Weld → Weld) : State := { s with weld := f s.weld }

/-- A setting event of WELD.EVT with what stands behind it. -/
def weldEvent (bit src : Nat) (s : State) : State := sqSet Reg.weldEvt [bit] (s.wrn Reg.weldEvtSrc src)

/-! ### Nodes -/

def nodeTarget (s : State) (o i : Nat) : Nat := s.rdf (Reg.nodeWord o i) 0 16
def nodeOwner (s : State) (o i : Nat) : Nat := s.rdf (Reg.nodeWord o i) 16 4
/-- Key of a node in the tables of current gains and ramps. -/
def nodeKey (o i : Nat) : Nat := 256 * o + i
def nodeCur (s : State) (o i : Nat) : Nat := (tget 0#16 s.weld.cur (nodeKey o i)).toNat

/-- The key of the node whose live word lies at an address. -/
def keyOfNodeWord (a : Nat) : Nat := (a - 0x3C400000) / 4
def isNodeWord (a : Nat) : Bool := decide (0x3C400000 ≤ a ∧ a < 0x3C440000)

/-- A node's staged gain where its shadow is dirty, 0 otherwise. -/
def nodeStaged (s : State) (o i : Nat) : Nat :=
  if s.isDirty (.node o i) then s.rdf (Reg.nodeWord o i + shadowOff) 0 16 else 0

/-- The gain of a direct write accepted for a node and not yet applied. -/
def nodeWaiting (s : State) (o i : Nat) : Nat :=
  match tget none s.wbPend (Reg.nodeWord o i) with
  | some w => fld w 0 16
  | none => 0

/-- A node is occupied (R336, R338). -/
def nodeOccupied (s : State) (key : Nat) : Bool :=
  let o := key / 256
  let i := key % 256
  decide (nodeTarget s o i ≠ 0) || decide (nodeCur s o i ≠ 0) || decide (nodeStaged s o i ≠ 0)
    || decide (nodeWaiting s o i ≠ 0)

/-- Keys of every node that could be occupied. -/
def nodeKeys (s : State) : List Nat :=
  ((s.regs.filterMap fun x => if isNodeWord x.1 then some (keyOfNodeWord x.1) else none)
    ++ s.weld.cur.map (·.1)
    ++ (s.safe.dirty.filterMap fun c => match c with
      | .node o i => some (nodeKey o i)
      | _ => none)
    ++ (s.wbPend.filterMap fun x => if isNodeWord x.1 then some (keyOfNodeWord x.1) else none)).eraseDups

/-- WELD.NODE_USED. -/
def nodeUsed (s : State) : Nat := ((nodeKeys s).filter (nodeOccupied s)).length

/-- Would giving this node the gain `g` pass the limit of R336? -/
def nodeFull (s : State) (o i g : Nat) : Bool :=
  decide (g ≠ 0) && !nodeOccupied s (nodeKey o i) && decide (8192 ≤ nodeUsed s)

/-- A write refused at the limit (R336). -/
def nodeRefused (a o : Nat) (s : State) : State := weldEvent 0 o (s.wrn Reg.fullAddr a)

/-- A node's target becomes `t` at the hinge: it ramps from its current gain over the live NODE_RAMP (R333, R334). -/
def setTarget (o i t : Nat) (s : State) : State :=
  if nodeTarget s o i = t then s
  else
    let s1 := s.wrf (Reg.nodeWord o i) 0 16 t
    s1.modWeld fun w => { w with
      ramps := tset none w.ramps (nodeKey o i) (some ⟨nodeCur s o i, 0, max 1 (s.rdf Reg.weldRamp 0 12)⟩) }

/-- A buffered direct write of a node's live word applies (R332). -/
def applyNode (o i : Nat) (w : Word) (s : State) : State :=
  let s1 := (setTarget o i (fld w 0 16) s).wrf (Reg.nodeWord o i) 16 4 (fld w 16 4)
  if 9 ≤ fld w 16 4 then weldEvent 8 o s1 else s1

/-- Division towards zero. -/
def truncDiv (a b : Int) : Int := Int.tdiv a b

/-- One M frame of a node's ramp (R333). -/
def rampStep (key : Nat) (s : State) : State :=
  match tget none s.weld.ramps key with
  | none => s
  | some r =>
    let t := nodeTarget s (key / 256) (key % 256)
    let f := r.f + 1
    let g : Int := if r.len ≤ f then t else (r.g0 : Int) + truncDiv (((t : Int) - r.g0) * f) r.len
    s.modWeld fun w => { w with
      cur := tset 0#16 w.cur key (BitVec.ofInt 16 g),
      ramps := tset none w.ramps key (if r.len ≤ f then none else some { r with f := f }) }

def rampsStep (s : State) : State := s.weld.ramps.foldl (fun s x => rampStep x.1 s) s

/-! ### Zones, gates and mute gates -/

/-- The zone of an output, none for 0xFF and what acts as it (R339). -/
def zoneOf (s : State) (o : Nat) : Option Nat :=
  let z := s.rdf (Reg.outZone o) 0 8
  if z < 0x80 then some z else none

/-- A zone's XF as it acts (chapter 10, gates). -/
def xfOf (w : Word) : Nat := max 1 (min 4800 (fld w 0 13))
def zoneXf (s : State) (z : Nat) : Nat := xfOf (s.rd (Reg.zoneWord z 0))

def gateKey (z k : Nat) : Nat := 16 * z + k
def gate (s : State) (z k : Nat) : Nat := tget 0 s.weld.gates (gateKey z k)
def setGate (z k c : Nat) (s : State) : State :=
  s.modWeld fun w => { w with gates := tset 0 w.gates (gateKey z k) c }

def zoneSt (s : State) (z : Nat) : ZoneSt := tget ZoneSt.none s.weld.zones z
def setZoneSt (z : Nat) (x : ZoneSt) (s : State) : State :=
  s.modWeld fun w => { w with zones := tset ZoneSt.none w.zones z x }

def claimOf (s : State) (z k : Nat) : Option Claim := tget none s.weld.claims (gateKey z k)
def setClaim (z k : Nat) (c : Option Claim) (s : State) : State :=
  s.modWeld fun w => { w with claims := tset none w.claims (gateKey z k) c }

/-- The gate that a zone's state makes it pass: 9 is the fallback (R350). -/
def passes (x : ZoneSt) : Option Nat := if x.fallback then some 9 else x.winner

/-- The target of a gate (R348). -/
def gateTarget (s : State) (z k : Nat) : Nat := if passes (zoneSt s z) = some k then zoneXf s z else 0

/-- One step towards a target. -/
def towards (c t : Nat) : Nat := if c < t then c + 1 else if t < c then c - 1 else c

/-- Zones with a gate that is not at rest, or with something to pass. -/
def liveZones (s : State) : List Nat :=
  let gs : List Nat := List.map (fun x => x.1 / 16) s.weld.gates
  let zs : List Nat := List.map (fun x => x.1) s.weld.zones
  (gs ++ zs).eraseDups

/-- One M frame of every gate (R348), and of every mute gate (R352). -/
def gatesStep (s : State) : State :=
  let s1 := (liveZones s).foldl (fun s z =>
    (List.range 10).foldl (fun s k => setGate z k (towards (gate s z k) (gateTarget s z k)) s) s) s
  (List.range 8).foldl (fun s t =>
    if t = 0 then s else
      let u := tget 0 s.weld.muted t
      s.modWeld fun w => { w with muted := tset 0 w.muted t (towards u (if w.muteOn then 480 else 0)) }) s1

/-- The effective gain of a node (R326). -/
def effGain (s : State) (o i : Nat) : Nat :=
  let g := nodeCur s o i
  let k := nodeOwner s o i
  if 9 ≤ k then 0
  else match zoneOf s o with
    | some z => g * gate s z k / zoneXf s z
    | none => g * (480 - tget 0 s.weld.muted k) / 480

/-! ### Selections and their crossfades (R327 to R330) -/

/-- The value of a Weld output as its readers see it, silent while its limiter is borrowed (R413) and while QNCH fades or
is silent (R417). -/
def weldOut (s : State) (o : Nat) : Word :=
  if s.qnch.spw.any fun x => x.2.on && decide (s.rdf (0x40070C04 + 0x10 * x.1) 0 8 = o) then 0#32
  else tget 0#32 s.weld.qOut o

/-- What an input-select entry reads: the published value of an M lane, 0 otherwise (R327). -/
def inEntry (s : State) (w : Word) : Word :=
  if w.getLsbD 31 ∧ laneDom s (fld w 0 10) = some .m then s.laneRead (fld w 0 10) else 0#32

/-- What a destination-select entry reads for a consumer of a domain (R329). -/
def destEntry (s : State) (d : Dom) (w : Word) : Word :=
  if w.getLsbD 31 then
    if w.getLsbD 12 then (if fld w 0 10 ≤ 0xFF ∧ d = .m then weldOut s (fld w 0 10) else 0#32)
    else if laneDom s (fld w 0 10) = some d then s.laneRead (fld w 0 10) else 0#32
  else 0#32

/-- ⌊(old × (64 − f) + new × f) / 64⌋ (R328). -/
def blend64 (old new : Word) (f : Nat) : Word :=
  BitVec.ofInt 32 ((old.toInt * (64 - (f : Int)) + new.toInt * f) / 64)

/-- A selection's value in a frame, with the crossfade that runs on it (R328). -/
def selStep (read : Word → Word) (entry : Word) (fade : Option SelFade) : Word × Option SelFade :=
  let new := read entry
  match fade with
  | none => (new, none)
  | some x =>
    let f := x.f + 1
    let old := match x.old with
      | .entry w => read w
      | .frozen v => v
    let v := blend64 old new f
    (v, if 64 ≤ f then none else some { x with f := f, last := v })

/-- The crossfade that a change of an entry starts (R328). -/
def selChange (old : Word) (fade : Option SelFade) : SelFade :=
  match fade with
  | none => ⟨.entry old, 0, 0#32⟩
  | some x => ⟨if x.f = 0 then x.old else .frozen x.last, 0, x.last⟩

/-- The inputs with a valid entry or a crossfade, the only ones that can read other than 0. -/
def liveInputs (s : State) : List Nat :=
  (List.range 256).filter fun i => (s.rd (Reg.inSel i)).getLsbD 31 || (tget none s.weld.inFade i).isSome

/-- One M frame of every input. -/
def inputsStep (s : State) : State :=
  let s0 := s.modWeld fun w => { w with inVal := [] }
  (liveInputs s).foldl (fun s i =>
    let r := selStep (inEntry s) (s.rd (Reg.inSel i)) (tget none s.weld.inFade i)
    s.modWeld fun w => { w with inVal := tset 0#32 w.inVal i r.1, inFade := tset none w.inFade i r.2 }) s0

/-- The domain in which a destination is read (R329). -/
def destDom (s : State) (d : Nat) : Option Dom :=
  if d < 0x1C0 then portDom s ((d - 0x100) / 32) else some .m

/-- One frame of a destination. -/
def destStep (dm : Dom) (d : Nat) (s : State) : State :=
  let r := selStep (destEntry s dm) (s.rd (Reg.destSel d)) (tget none s.weld.destFade d)
  s.modWeld fun w => { w with dest := tset 0#32 w.dest d r.1, destFade := tset none w.destFade d r.2 }

/-- The destinations of a domain that can hold other than 0. -/
def liveDests (s : State) (dm : Dom) : List Nat :=
  ((List.range 0x200).map (0x100 + ·)).filter fun d =>
    ((s.rd (Reg.destSel d)).getLsbD 31 || (tget none s.weld.destFade d).isSome
      || decide (tget 0#32 s.weld.dest d ≠ 0#32)) && decide (destDom s d = some dm)

def destsStep (dm : Dom) (s : State) : State := (liveDests s dm).foldl (fun s d => destStep dm d s) s

/-! ### The matrix (R325) -/

def clampH24 (x : Int) : Word :=
  BitVec.ofInt 32 (clampInt (-2147483648) 2147483647 x)

/-- Output `o` of the matrix (R325, R357). -/
def matrixOut (s : State) (o : Nat) : Word :=
  let sum := s.weld.cur.foldl (fun (a : Int) x =>
    if x.1 / 256 = o then a + (tget 0#32 s.weld.inVal (x.1 % 256)).toInt * (effGain s o (x.1 % 256) : Int) else a) 0
  let fb := match zoneOf s o with
    | some z =>
      let w := s.rd (Reg.zoneWord z 4)
      let e := fld w 16 16 * gate s z 9 / zoneXf s z
      (tget 0#32 s.weld.inVal (fld w 0 8)).toInt * (e : Int)
    | none => 0
  clampH24 ((fb + sum + 16384) / 32768)

/-- The outputs that can be other than 0: those with a node, and those of a zone whose fallback gate is open. -/
def liveOutputs (s : State) : List Nat :=
  let ns : List Nat := List.map (fun x => x.1 / 256) s.weld.cur
  (ns ++
    (if s.weld.gates.any fun x => x.1 % 16 == 9 then
      (List.range 256).filter fun o => (zoneOf s o).any fun z => decide (gate s z 9 ≠ 0)
     else [])).eraseDups

/-- A scale that moves one sixteenth a frame. -/
def scaleMove (scale : Nat) (rising : Bool) : Nat := if rising then min 16 (scale + 1) else scale - 1

/-- A value at a scale in sixteenths. -/
def scaled (place : Nat) (v : Word) (scale : Nat) : Word := if scale = 16 then v else sixteenths place v scale

/-- One M frame of the matrix: ramps, gates, inputs, outputs. While WELD is disabled gates hold their counts, and its
outputs fade and stay silent. -/
def weldFrame (s : State) : State :=
  let s1 := rampsStep s
  let s2 := if s.enabled 4 then gatesStep s1 else s1
  let s3 := inputsStep s2
  let scale := scaleMove s3.weld.scale s3.weld.rising
  let outs := if scale = 0 then [] else (liveOutputs s3).map fun o => (o, scaled 4 (matrixOut s3 o) scale)
  s3.modWeld fun w => { w with
    scale := scale, yOut := outs.foldl (fun t x => tset 0#32 t x.1 x.2) [] }

/-! ### Claims (R341 to R346) -/

/-- A write of WELD.CLAIM_REQ (R341, R344). -/
def claimWrite (v : Word) (s : State) : State :=
  if 64 ≤ s.weld.queue.length then weldEvent 2 (fld v 0 7) s
  else s.modWeld fun w => { w with
    queue := w.queue ++ [⟨fld v 0 7, fld v 8 4, fld v 12 4, fld v 16 2⟩], lastReq := v &&& 0x3FF7F#32 }

/-- WELD.CLAIM_REQ as it reads. -/
def claimView (s : State) : Word := s.weld.lastReq ||| BitVec.ofNat 32 (s.weld.queue.length * 0x80000)

/-- WELD.TEN_CEIL as a write of `v` leaves it: nibble 0 reads 0xF, and no other nibble holds more than 0xB. -/
def tenCeilStored (v : Word) : Word :=
  BitVec.ofNat 32 (15 + (List.range 7).foldl (fun a k => a + min 11 (fld v (4 * (k + 1)) 4) * 16 ^ (k + 1)) 0)

/-- A claimant's ceiling (R343). -/
def ceilingOf (s : State) (k : Nat) : Nat :=
  if k = 0 ∨ k = 8 then 15 else min 11 (s.rdf Reg.tenCeil (4 * k) 4)

/-- The first cause of R342 for which a request is refused, 0 for none. -/
def claimCause (s : State) (r : ClaimReq) : Nat :=
  let ten := decide (1 ≤ r.claimant ∧ r.claimant ≤ 7)
  if 9 ≤ r.claimant then 4
  else if r.op = 0 then 5
  else if r.op = 1 ∧ ceilingOf s r.claimant < r.level then 1
  else if ten ∧ r.op ≠ 3 ∧ s.rdf (Reg.zoneWord r.zone 0) (16 + r.claimant) 1 = 0 then 2
  else if (ten ∧ s.modes.mode = .evacuate) ∨ (r.claimant = 8 ∧ s.modes.mode ≠ .evacuate) then 3
  else 0

/-- The rank of a claim that takes its rank at the hinge under way: behind every claim that has one, the plan first, then
T_0 to T_7 (R345); `rerank` makes it a place in its zone. -/
def newRank (k : Nat) : Nat := 100 + (if k = 8 then 0 else k + 1)

/-- Take a claim at a level (R345, R346). -/
def takeClaim (z k level : Nat) (s : State) : State :=
  match claimOf s z k with
  | some c => if c.level = level then s else setClaim z k (some { c with level := level, rank := newRank k }) s
  | none => setClaim z k (some ⟨level, newRank k, false⟩) s

/-- Release every claim of a claimant. -/
def releaseAll (k : Nat) (s : State) : State :=
  s.modWeld fun w => { w with claims := w.claims.filter fun x => decide (x.1 % 16 ≠ k) }

/-- A queued request applies at the hinge (R341, R342, R346). -/
def applyClaim (r : ClaimReq) (s : State) : State :=
  let cause := claimCause s r
  if cause ≠ 0 then
    weldEvent 1 r.zone (s.wrn Reg.claimStat (r.zone * 65536 + r.claimant * 256 + cause))
  else match r.op with
    | 1 => takeClaim r.zone r.claimant r.level s
    | 2 => setClaim r.zone r.claimant none s
    | _ => releaseAll r.claimant s

/-- The claims of a zone, with their claimants. -/
def zoneClaims (s : State) (z : Nat) : List (Nat × Claim) :=
  (List.range 9).filterMap fun k => (claimOf s z k).map fun c => (k, c)

/-- Each zone's claims in order of rank take the ranks from 0 on (R345, R346). -/
def rerank (s : State) : State :=
  (List.map (fun x => x.1 / 16) s.weld.claims).eraseDups.foldl (fun s z =>
    let cs := zoneClaims s z
    cs.foldl (fun s kc =>
      setClaim z kc.1 (some { kc.2 with rank := (cs.filter fun x => decide (x.2.rank < kc.2.rank)).length }) s) s) s

/-- The queue applies in order of acceptance (R341). -/
def applyClaims (s : State) : State :=
  let s1 := s.weld.queue.foldl (fun s r => applyClaim r s) (s.modWeld fun w => { w with queue := [] })
  rerank s1

/-! ### Failed inputs and arbitration (R347 to R358) -/

/-- Does a lane fail the inputs that select it: CORE, STREAM, TDM, BRIDGE or DOMAIN (R354)? A port bound to an asynchronous
bridge reports loss of framing while that acquires or holds (R445); a lane that no block writes fails none. -/
def laneFailed (s : State) (l : Nat) : Bool :=
  if l < 0x100 then
    match rxOfLane s l with
    | some r => (s.rxs r).st == .loss
    | none => false
  else if l < 0x1C0 then
    let p := (l - 0x100) / 32
    (laneDom s l).any fun d => d != .m || match asyncBridge s p with
      | some n => (s.bridge n).st == .acquire || (s.bridge n).st == .hold
      | none => (s.tport p).st == .lof
  else if 0x250 ≤ l ∧ l < 0x270 then
    let b := s.bridge (l - 0x250)
    b.st == .acquire || b.st == .hold || b.cfgErr || (laneDom s l).any (· != .m)
  else
    (match laneCore s l with
      | some n => (s.sc n).st == .faulted
      | none => false) || (laneDom s l).any (· != .m)

def inputFailed (s : State) (i : Nat) : Bool :=
  let w := s.rd (Reg.inSel i)
  w.getLsbD 31 && laneFailed s (fld w 0 10)

/-- An input reads a lane of another domain (R327). -/
def inputForeign (s : State) (i : Nat) : Bool :=
  let w := s.rd (Reg.inSel i)
  w.getLsbD 31 && (laneDom s (fld w 0 10)).any (· != .m)

/-- A destination reads a lane, or a Weld output, of another domain (R329). -/
def destForeign (s : State) (d : Nat) : Bool :=
  let w := s.rd (Reg.destSel d)
  w.getLsbD 31 && match destDom s d with
    | none => false
    | some dm => if w.getLsbD 12 then decide (fld w 0 10 ≤ 0xFF) && dm != .m
                 else (laneDom s (fld w 0 10)).any (· != dm)

/-- A selection with what it selects: lane or output, and KIND. -/
def selKey (x : Nat) (w : Word) : Nat := 0x10000 * x + fld w 0 13

/-- WELD.EVT.DOMAIN at the hinge at which an input or a destination first reads what is written in another domain, through
whichever lane or output it selects. -/
def domainCheck (s : State) : State :=
  let bad := (((List.range 256).filter (inputForeign s)).map fun i => selKey i (s.rd (Reg.inSel i))) ++
    ((((List.range 0x200).map (0x100 + ·)).filter (destForeign s)).map fun d => selKey d (s.rd (Reg.destSel d)))
  let new := bad.filter fun x => !(s.weld.domBad.contains x)
  let s1 := s.modWeld fun w => { w with domBad := bad }
  new.foldl (fun s x => weldEvent 7 (x / 0x10000) s) s1

/-- WELD.INFAIL_k at a hinge. -/
def infailUpdate (s : State) : State :=
  (List.range 8).foldl (fun s k => s.wrn (Reg.infail k) (maskOf 32 fun j => inputFailed s (32 * k + j))) s

/-- The winner of a zone (R347). -/
def winnerOf (s : State) (z : Nat) : Option Nat :=
  ((zoneClaims s z).foldl (fun (best : Option (Nat × Claim)) kc =>
    if kc.2.suspended then best
    else match best with
      | none => some kc
      | some b => if b.2.level < kc.2.level ∨ (b.2.level = kc.2.level ∧ kc.2.rank < b.2.rank) then some kc else best) none).map
    (·.1)

/-- Does claimant `k` own a node of non-zero target, on an output of the zone, from a failed input (R355)? -/
def ownsFailed (s : State) (z k : Nat) : Bool :=
  s.regs.any fun x =>
    isNodeWord x.1 && decide (fld x.2 0 16 ≠ 0) && decide (fld x.2 16 4 = k)
      && decide (zoneOf s (keyOfNodeWord x.1 / 256) = some z) && inputFailed s (keyOfNodeWord x.1 % 256)

/-- One zone's arbitration at a hinge (R347, R350, R351, R355 to R358). -/
def arbitrate (z : Nat) (s : State) : State :=
  let x := zoneSt s z
  let win := winnerOf s z
  let w0 := s.rd (Reg.zoneWord z 0)
  let w4 := s.rd (Reg.zoneWord z 4)
  let want := match win with
    | some k => ownsFailed s z k
    | none => w0.getLsbD 15
  let can := w4.getLsbD 8 && !inputFailed s (fld w4 0 8)
  let fb := want && can
  let nofb := want && !can
  let s1 := setZoneSt z ⟨win, fb, nofb⟩ s
  let s2 := if win ≠ x.winner then weldEvent 3 z s1 else s1
  let s3 := if fb && !x.fallback then weldEvent 4 z s2 else s2
  let s4 := if !fb && x.fallback then weldEvent 5 z s3 else s3
  if nofb && !x.noFallback then weldEvent 6 z s4 else s4

/-- Everything WELD decides at a hinge after the changes due at it. -/
def weldHingeEnd (s : State) : State :=
  let s1 := infailUpdate (domainCheck s)
  (List.range 128).foldl (fun s z => arbitrate z s) s1

/-! ### Buffered table writes -/

/-- A zone's gates follow a change of XF (R349). -/
def rescaleGates (z xo xn : Nat) (s : State) : State :=
  if xo = xn then s
  else (List.range 10).foldl (fun s k => setGate z k (gate s z k * xn / xo) s) s

/-- A buffered write of a WELD table word applies at the hinge (R328, R330, R332, R339, R340, R349). -/
def applyTableWord (t : Option ApTable) (a : Nat) (v : Word) (s : State) : State :=
  match t with
  | some (.node o i) => applyNode o i v s
  | some (.inSel i) =>
    if s.rd a = v then s
    else
      let x := selChange (s.rd a) (tget none s.weld.inFade i)
      (s.modWeld fun w => { w with inFade := tset none w.inFade i (some x) }).wr a v
  | some (.destSel d) =>
    let s1 := if s.rd a = v then s
      else
        let x := selChange (s.rd a) (tget none s.weld.destFade d)
        (s.modWeld fun w => { w with destFade := tset none w.destFade d (some x) }).wr a v
    if v.getLsbD 12 && decide (0xFF < fld v 0 10) then weldEvent 9 d s1 else s1
  | some (.outZone o) =>
    let s1 := s.wr a v
    if 0x80 ≤ fld v 0 8 ∧ fld v 0 8 ≠ 0xFF then weldEvent 9 o s1 else s1
  | some (.zone z off) =>
    if off = 0 then
      let s1 := rescaleGates z (zoneXf s z) (xfOf v) (s.wr a v)
      if 4800 < fld v 0 13 then weldEvent 9 z s1 else s1
    else s.wr a v
  | _ => s.wr a v

/-- The same, for whatever table the word's address lies in. -/
def applyWeldWord (a : Nat) (v : Word) (s : State) : State := applyTableWord (apTable a) a v s

/-- Does a buffered write at this address belong to WELD? -/
def isWeldWb (a : Nat) : Bool :=
  decide (a / 0x10000 = 0x4004) || decide (0x3C400000 ≤ a ∧ a < 0x3C480000)

/-- WELD's buffered writes apply at a hinge: NODE_RAMP, the tables, then the claim queue (R47, R341). -/
def weldBuffered (s : State) : State :=
  let mine := s.wbPend.filter fun x => isWeldWb x.1
  let s0 := { s with wbPend := s.wbPend.filter fun x => !isWeldWb x.1 }
  let s1 := mine.foldl (fun s x => match x.2 with
    | some v => if x.1 / 0x10000 = 0x4004 then s.wr x.1 v else s
    | none => s) s0
  let s2 := mine.foldl (fun s x => match x.2 with
    | some v => if x.1 / 0x10000 = 0x4004 then s else applyWeldWord x.1 v s
    | none => s) s1
  applyClaims { s2 with weld := { s2.weld with rising := s2.enabled 4 } }

/-! ### EVACUATE (R352, R353) and tenants -/

/-- A claim's entry with SUSPENDED as given. -/
def suspendAs (b : Bool) (x : Nat × Option Claim) : Nat × Option Claim :=
  (x.1, x.2.map fun c => { c with suspended := b })

def weldEvacEnter (s : State) : State :=
  s.modWeld fun w => { w with
    muteOn := true,
    claims := List.map (fun x => if 1 ≤ x.1 % 16 ∧ x.1 % 16 ≤ 7 then suspendAs true x else x) w.claims }

def weldEvacLeave (s : State) : State :=
  (releaseAll 8 s).modWeld fun w => { w with
    muteOn := false,
    claims := List.map (suspendAs false) w.claims }

/-- A tenant reset reaches the matrix: its claims go, and every node it owns takes target 0. -/
def weldTenantReset (t : Nat) (s : State) : State :=
  let owned := s.regs.filter fun x => isNodeWord x.1 && decide (fld x.2 16 4 = t) && decide (fld x.2 0 16 ≠ 0)
  owned.foldl (fun s x => setTarget (keyOfNodeWord x.1 / 256) (keyOfNodeWord x.1 % 256) 0 s) (rerank (releaseAll t s))

/-! ### Views -/

def zoneView (s : State) (z off : Nat) : Word :=
  if off = 8 then
    let x := zoneSt s z
    let w := match x.winner with
      | some k => k + 16 * ((claimOf s z k).map (·.level)).getD 0
      | none => 0xF
    let moving := (List.range 10).any fun k => gate s z k != gateTarget s z k
    BitVec.ofNat 32 (w + 256 * b2n x.fallback + 512 * b2n moving)
  else if 0x10 ≤ off then
    match claimOf s z ((off - 0x10) / 4) with
    | some c => BitVec.ofNat 32 (1 + 2 * b2n c.suspended + 16 * c.level + 256 * c.rank)
    | none => 0#32
  else s.rd (Reg.zoneWord z off)

def muteView (s : State) : Word := BitVec.ofNat 32 (if s.weld.muteOn then 0xFE else 0)

end Sys2Proof.Machine
end

