-- ==== Sys2Proof/Machine/Fixed.lean ====
section
/-! DEFINITION. The fixed processing blocks of chapter 12: Swage EQ lanes, Harebell tone and pilot generators, Quench
limiters and Speedwell channels. -/

namespace Sys2Proof.Machine
open Sys2Proof

namespace Reg
def toneRunLo : Nat := 0x40050020
def toneRunHi : Nat := 0x40050024
def pilotRun : Nat := 0x40050028
def toneEvt : Nat := 0x40050044
def toneEvtSrc : Nat := 0x40050048
def toneOwn (k : Nat) : Nat := 0x40050050 + 4 * k
def pilotDest (p : Nat) : Nat := 0x40050080 + 4 * p
def pilotClips (p : Nat) : Nat := 0x400500C0 + 4 * p
def eqEn (k : Nat) : Nat := 0x40070020 + 4 * k
def qnchEvt : Nat := 0x40070044
def qnchEvtSrc : Nat := 0x40070048
def eqStat : Nat := 0x4007004C
def spwStat : Nat := 0x40070050
def spwEn : Nat := 0x40070054
def eqCfg (n : Nat) : Nat := 0x40070400 + 4 * n
def eqSats (n : Nat) : Nat := 0x40070800 + 4 * n
def spwCfg (c : Nat) : Nat := 0x40070C00 + 0x10 * c
def spwLim (c : Nat) : Nat := 0x40070C04 + 0x10 * c
def spwGain (c : Nat) : Nat := 0x40070C08 + 0x10 * c
end Reg

def toneEvent (bit g : Nat) (s : State) : State := sqSet Reg.toneEvt [bit] (s.wrn Reg.toneEvtSrc g)
def qnchEvent (bit n : Nat) (s : State) : State := sqSet Reg.qnchEvt [bit] (s.wrn Reg.qnchEvtSrc n)

/-- p / den to the nearest whole number; of two equally near, either (R393, assumption 3). -/
def nearest (place : Nat) (p : Int) (den : Nat) : Int :=
  let q := p / (den : Int)
  let r := 2 * (p % (den : Int))
  if r < den then q else if (den : Int) < r then q + 1 else if Config.roundUp place p den then q + 1 else q

/-! ### Tone generators (R392 to R403) -/

def State.gen (s : State) (g : Nat) : ToneGen := tget ToneGen.off s.tone.gens g
def State.setGen (s : State) (g : Nat) (x : ToneGen) : State :=
  { s with tone := { s.tone with gens := tset ToneGen.off s.tone.gens g x } }

/-- The fields of a setting block. -/
def toneWord (s : State) (g off : Nat) : Word := s.rd (Reg.toneWord g off)
def toneWave (s : State) (g : Nat) : Nat := fld (toneWord s g 0) 0 3
def toneSteps (s : State) (g : Nat) : Nat := fld (toneWord s g 0) 4 4 + 1
def toneRepeat (s : State) (g : Nat) : Nat := fld (toneWord s g 0) 8 8
def toneRamp (s : State) (g : Nat) : Nat := max 1 (fld (toneWord s g 0) 16 12)
def toneLevel (s : State) (g : Nat) : Nat := fld (toneWord s g 0xC) 0 16
def toneStepOn (s : State) (g k : Nat) : Bool := (toneWord s g 0xC).getLsbD (16 + k)
def toneStepLen (s : State) (g : Nat) : Nat := max 1 (fld (toneWord s g 0x10) 0 16)
def toneSweepLen (s : State) (g : Nat) : Nat := max 1 (fld (toneWord s g 0x14) 0 24)

/-- The address and bit of a generator's run bit. -/
def runBit (g : Nat) : Nat × Nat :=
  if g < 32 then (Reg.toneRunLo, g) else if g < 64 then (Reg.toneRunHi, g - 32) else (Reg.pilotRun, g - 64)

/-- 2^24 sin(2πφ / 2^32), within two H24 units, which are one LSB of 24 bits (R393, assumption 6). -/
def toneSine (phi : Word) : Int :=
  0x1000000 * sinTurn phi.toNat 0x100000000 / fxOne + ((Config.sineError phi % 4 : Nat) : Int) - 1

/-- The next state of a noise register: x^32 + x^22 + x^2 + x + 1 in one of its four forms (assumption 6). -/
def noiseNext (x : Word) : Word :=
  let parity := fun (l : List Nat) => l.foldl (fun (b : Bool) i => b != x.getLsbD i) false
  match Config.noiseForm % 4 with
  | 0 => (x <<< 1) ||| (if parity [31, 21, 1, 0] then 1#32 else 0#32)
  | 1 => (x >>> 1) ||| (if parity [0, 10, 30, 31] then 0x80000000#32 else 0#32)
  | 2 => (x <<< 1) ^^^ (if x.getLsbD 31 then 0x00400007#32 else 0#32)
  | _ => (x >>> 1) ^^^ (if x.getLsbD 0 then 0x80200003#32 else 0#32)

/-- The phase increment of the frame: a sweep's moves (R393, R395). -/
def toneInc (s : State) (g : Nat) : Nat :=
  let p1 := (toneWord s g 4).toNat
  if toneWave s g = 3 then
    let p2 := (toneWord s g 8).toNat
    let n := (s.gen g).sweep
    let len := 3 * toneSweepLen s g
    if n = 0 then p1
    else if (toneWord s g 0).getLsbD 3 then (if p1 = 0 then Config.sweepZero p2 n len else geoNearest p1 p2 n len)
    else ((p1 : Int) + ((p2 : Int) - p1) * n / len).toNat
  else p1

def chimePhase (x : ToneGen) : Nat → Word
  | 0 => x.ph0
  | 1 => x.ph1
  | 2 => x.ph2
  | _ => x.ph3

/-- The sum of a chime's partials: numerator over 0x8000 × 65536^M in the M-th frame since the latest start (R396). -/
def chimeSum (s : State) (g : Nat) : Int :=
  let x := s.gen g
  (List.range 4).foldl (fun (a : Int) p =>
    let inc := (toneWord s g (0x20 + 8 * p)).toNat
    if 0x80000000 ≤ inc then a
    else a + toneSine (chimePhase x p) * (((x.amps[p]?).getD 0 : Nat) : Int)) 0

/-- A chime's partials as its start and every off-to-on edge set them: phase 0, amplitude AMP_p (R396). -/
def ToneGen.struck (s : State) (g : Nat) (x : ToneGen) : ToneGen :=
  { x with chime := 0,
           amps := (List.range 4).map fun p => fld (toneWord s g (0x24 + 8 * p)) 0 16,
           ph0 := 0#32, ph1 := 0#32, ph2 := 0#32, ph3 := 0#32 }

/-- The amplitudes after a frame: each × (65536 − DECAY_p), over a denominator that grows by 65536 (R396). -/
def chimeDecay (s : State) (g : Nat) (amps : List Nat) : List Nat :=
  (List.range 4).map fun p => (amps[p]?).getD 0 * (65536 - fld (toneWord s g (0x24 + 8 * p)) 16 16)

/-- The sample before LEVEL and envelope: numerator and denominator in H24 units (R393, R394). -/
def toneWaveVal (s : State) (g : Nat) : Int × Nat :=
  let x := s.gen g
  let silent := decide (0x80000000 ≤ toneInc s g)
  match toneWave s g with
  | 1 => if silent then (0, 1) else (toneSine x.phi, 1)
  | 2 => if silent then (0, 1) else (if x.phi.toNat < 0x80000000 then 0x1000000 else -0x1000000, 1)
  | 3 => if silent then (0, 1) else (toneSine x.phi, 1)
  | 4 => (2 * (x.lfsr.toInt / 256), 1)
  | 5 => (chimeSum s g, 0x8000 * 65536 ^ x.chime)
  | _ => (0, 1)

/-- A generator's sample (R393). -/
def toneSample (s : State) (g : Nat) : Int :=
  let x := s.gen g
  let w := toneWaveVal s g
  nearest 5 (w.1 * (toneLevel s g : Int) * (x.num : Int)) (w.2 * 0x8000 * x.den)

/-- Is the envelope rising? -/
def ToneGen.up (x : ToneGen) : Bool := x.st == .on

/-- One step of 1 / RAMP of the envelope (R398). -/
def envStep (ramp : Nat) (x : ToneGen) : ToneGen :=
  let num := if x.den = ramp then x.num else x.num * ramp
  let den := if x.den = ramp then ramp else x.den * ramp
  let d := if x.den = ramp then 1 else x.den
  if x.up then (if den ≤ num + d then { x with num := 1, den := 1 } else { x with num := num + d, den := den })
  else (if num ≤ d then { x with num := 0, den := 1 } else { x with num := num - d, den := den })

/-- What advances in a generator after its sample of a frame. -/
def toneAdvance (s : State) (g : Nat) (x : ToneGen) : ToneGen :=
  let inc := BitVec.ofNat 32 (toneInc s g)
  let len := 3 * toneSweepLen s g
  let pinc := fun p => toneWord s g (0x20 + 8 * p)
  envStep (toneRamp s g) { x with
    phi := x.phi + inc,
    lfsr := if toneWave s g = 4 then noiseNext x.lfsr else x.lfsr,
    sweep := if toneWave s g = 3 then (x.sweep + 1) % len else 0,
    chime := x.chime + 1,
    amps := chimeDecay s g x.amps,
    ph0 := x.ph0 + pinc 0, ph1 := x.ph1 + pinc 1, ph2 := x.ph2 + pinc 2, ph3 := x.ph3 + pinc 3 }

def clampWord (x : Int) : Word := clampH24 x

/-- One M frame of a running tone generator: its lane, then its advance. -/
def toneFrame (g : Nat) (s : State) : State :=
  let x := s.gen g
  if x.st = .off then s
  else (s.lanePut (0x200 + g) (scaled 6 (clampWord (toneSample s g)) s.tone.scale)).setGen g (toneAdvance s g x)

/-- One M frame of TONE. -/
def tonesFrame (s : State) : State :=
  let s1 := { s with tone := { s.tone with scale := scaleMove s.tone.scale s.tone.rising } }
  (List.range 64).foldl (fun s g => toneFrame g s) s1

/-- Does a setting block hold what R393, R394 or R404 call a bad setting? -/
def toneBad (s : State) (g : Nat) : Bool :=
  let p1 := (toneWord s g 4).toNat
  if 64 ≤ g then decide (toneWave s g ≠ 1 ∨ p1 < 0x35555555 ∨ 0x55555555 < p1)
  else match toneWave s g with
    | 0 => false
    | 4 => false
    | 5 => (List.range 4).any fun p => decide (0x80000000 ≤ (toneWord s g (0x20 + 8 * p)).toNat)
    | 6 => true
    | 7 => true
    | 3 => decide (0x80000000 ≤ p1 ∨ 0x80000000 ≤ (toneWord s g 8).toNat)
    | _ => decide (0x80000000 ≤ p1)

/-- A bad setting sets TONE.EVT.CFG when the generator starts on it or a commit makes it live. -/
def toneBadEvent (g : Nat) (s : State) : State := if toneBad s g then toneEvent 1 g s else s

/-- A generator starts at a hinge: step 0 with φ at 0; its envelope goes on from the value it has reached (R397). -/
def toneStart (g : Nat) (s : State) : State :=
  let x := s.gen g
  let on := decide (64 ≤ g) || toneStepOn s g 0
  toneBadEvent g (s.setGen g (ToneGen.struck s g { ToneGen.off with
    st := if on then .on else .gap, lfsr := BitVec.ofNat 32 (1 + g), num := x.num, den := x.den, cycles := x.cycles }))

/-- A generator's run bit became 0: it falls as at an off edge (R401). -/
def toneFall (g : Nat) (s : State) : State :=
  let x := s.gen g
  if x.st = .off then s else s.setGen g { x with st := .ending }

/-- PILOT_DEST_p names an output slot of a TDM port in the F domain (R405). -/
def pilotDestOk (s : State) (p : Nat) : Bool :=
  let w := s.rd (Reg.pilotDest p)
  let d := fld w 0 10
  w.getLsbD 31 && decide (0x100 ≤ d ∧ d < 0x1C0) && decide (portDom s ((d - 0x100) / 32) = some .f)

/-- A run bit as it changes at a hinge. -/
def toneRunChange (g : Nat) (old new : Bool) (s : State) : State :=
  if new then
    if old && (s.gen g).st != .ending then s
    else if 64 ≤ g && !pilotDestOk s (g - 64) then toneEvent 1 g (clearBoth (runBit g).1 (runBit g).2 s)
    else toneStart g s
  else toneFall g s

/-- A buffered write of a run register applies. -/
def toneRunWrite (a : Nat) (v : Word) (s : State) : State :=
  let base := if a = Reg.toneRunLo then 0 else if a = Reg.toneRunHi then 32 else 64
  let n := if base = 64 then 16 else 32
  let old := s.rd a
  (List.range n).foldl (fun s k => toneRunChange (base + k) (old.getLsbD k) (v.getLsbD k) s) (s.wr a v)

/-- A hinge passes within the step of every generator whose sequencer runs (R397). -/
def toneHinges (s : State) : State :=
  (List.range 64).foldl (fun s g =>
    let x := s.gen g
    if x.st = .on ∨ x.st = .gap then s.setGen g { x with hinges := x.hinges + 1 } else s) s

/-- TONE at a hinge: its steps count, then its buffered writes and the block's own enable. -/
def toneBuffered (s : State) : State :=
  let t := takeBuffered (fun a => decide (a / 0x10000 = 0x4005)) (toneHinges s)
  let s1 := t.2.foldl (fun s x => toneRunWrite x.1 x.2 s) t.1
  { s1 with tone := { s1.tone with rising := s1.enabled 5 } }

/-- A generator's step bit as its sequencer or a commit finds it: an off-to-on edge strikes a chime anew (R396, R398). -/
def toneEdge (s : State) (g : Nat) (on : Bool) (x : ToneGen) : ToneGen :=
  let y := { x with st := if on then .on else .gap }
  if on && x.st == .gap then ToneGen.struck s g y else y

/-- The sequencer of a generator begins its next step, STEP_LEN hinges after the one before; after REPEAT cycles the generator
falls (R397 to R399). Where a commit has left more hinges than STEP_LEN behind, the rest counts towards the next step. -/
def patternStep (g : Nat) (s : State) : State :=
  let x := s.gen g
  let len := toneStepLen s g
  if (x.st = .on ∨ x.st = .gap) ∧ len ≤ x.hinges then
    let last := decide (toneSteps s g ≤ x.step + 1)
    let step := if last then 0 else x.step + 1
    let cycle := if last then x.cycle + 1 else x.cycle
    let x1 := { x with step := step, cycle := cycle, hinges := x.hinges % len }
    if last ∧ ((toneRepeat s g ≠ 0 ∧ toneRepeat s g ≤ cycle) ∨ (x.cycles ≠ 0 ∧ x.cycles ≤ cycle)) then
      s.setGen g { x1 with st := .ending }
    else s.setGen g (toneEdge s g (toneStepOn s g step) x1)
  else s

/-- A falling generator, its envelope fallen, stops and reads as OFF; one that ran out of cycles clears its run
bit and sets DONE (R399, R401). -/
def generatorStopped (g : Nat) (s : State) : State :=
  let x := s.gen g
  if x.st = .ending ∧ x.num = 0 then
    let s1 := (if g < 64 then s.lanePut (0x200 + g) 0#32 else s).setGen g ToneGen.off
    if s.bit (runBit g).1 (runBit g).2 then toneEvent 0 g (clearBoth (runBit g).1 (runBit g).2 s1) else s1
  else s

/-- A commit changed the setting block of a generator (R402). -/
def toneCommitted (g : Nat) (s : State) : State :=
  let x := s.gen g
  if x.st = .off then s
  else
    let step := if toneSteps s g ≤ x.step then 0 else x.step
    let on := decide (64 ≤ g) || toneStepOn s g step
    let y := { x with step := step }
    toneBadEvent g (s.setGen g (if x.st = .ending then y else toneEdge s g on y))

/-- The code of a generator's state. -/
def toneCode : ToneSt → Nat
  | .off => 0
  | .on => 1
  | .gap => 2
  | .ending => 3

def toneStateView (s : State) (k : Nat) : Word :=
  BitVec.ofNat 32 ((List.range 16).foldl (fun a j => a + toneCode (s.gen (16 * k + j)).st * 4 ^ j) 0)

/-- The owner of a tone generator (R403). -/
def toneOwner (s : State) (g : Nat) : Nat := s.rdf (Reg.toneOwn (g / 8)) (4 * (g % 8)) 4
def setToneOwner (g k : Nat) (s : State) : State := s.wrf (Reg.toneOwn (g / 8)) (4 * (g % 8)) 4 k

/-- A tenant reset stops every generator that the tenant owns (R403). -/
def toneTenantReset (t : Nat) (s : State) : State :=
  (List.range 80).foldl (fun s g =>
    if toneOwner s g = t ∧ (s.gen g).st ≠ .off then toneFall g (clearBoth (runBit g).1 (runBit g).2 s) else s) s

/-! ### Pilots (R404 to R407) -/

/-- What a pilot adds to its slot in the F frame under way. -/
def pilotVal (s : State) (p : Nat) : Int :=
  let g := 64 + p
  if (s.gen g).st = .off ∨ toneBad s g then 0
  else (scaled 7 (clampWord (nearest 5 (toneSine (s.gen g).phi * (toneLevel s g : Int) * ((s.gen g).num : Int))
    (0x8000 * (s.gen g).den))) s.tone.pscale).toInt

/-- The pilots that feed a destination slot. -/
def pilotsOf (s : State) (d : Nat) : List Nat :=
  (List.range 16).filter fun p => (s.gen (64 + p)).st != .off && decide (s.rdf (Reg.pilotDest p) 0 10 = d)

/-- One F frame of every pilot, after its value has been added. -/
def pilotsAdvance (s : State) : State :=
  (List.range 16).foldl (fun s p =>
    let x := s.gen (64 + p)
    if x.st = .off then s
    else s.setGen (64 + p) (envStep (toneRamp s (64 + p)) { x with phi := x.phi + toneWord s (64 + p) 4 })) s

/-- The pilots' part of the block's scale moves at an F strike (R417). -/
def pilotsScale (s : State) : State :=
  { s with tone := { s.tone with pscale := scaleMove s.tone.pscale s.tone.rising } }

/-- A pilot's sum was clamped in a slot (R406). -/
def pilotClipped (p : Nat) (s : State) : State := toneEvent 2 (64 + p) (s.incSat (Reg.pilotClips p))

def clamp24 (x : Int) : Int := clampInt (-0x1000000) 0xFFFFFF x

/-- A slot's value with its pilots (R382, R406). -/
def addPilots (d : Nat) (v : Word) (s : State) : Word × State :=
  let ps := pilotsOf s d
  if ps = [] then (v, s)
  else
    let x := ps.foldl (fun (a : Int) p => a + pilotVal s p) v.toInt
    let y := clamp24 x
    (BitVec.ofInt 32 y, if y = x then s else ps.foldl (fun s p => pilotClipped p s) s)

/-! ### Quench limiters (R408 to R411) -/

def State.lim (s : State) (o : Nat) : Limiter := tget Limiter.init s.qnch.lim o
def State.setLim (s : State) (o : Nat) (x : Limiter) : State :=
  { s with qnch := { s.qnch with lim := tset Limiter.init s.qnch.lim o x } }

def limThresh (s : State) (o : Nat) : Int := sfld (s.rd (Reg.limWord o 0)) 0 16
def limKnee (s : State) (o : Nat) : Nat := s.rdf (Reg.limWord o 0) 16 16
def limLook (s : State) (o : Nat) : Nat := s.rdf (Reg.limWord o 8) 0 7

/-- Limiter parameters are clamped to the nearest limit as they become live (chapter 12). -/
def limClamp (off : Nat) (v : Word) : Word :=
  if off = 0 then
    setFld (setFld v 0 16 ((clampInt (-3072) 0 (sfld v 0 16)) % 65536).toNat) 16 16 (min 1536 (fld v 16 16))
  else if off = 8 then BitVec.ofNat 32 (min 64 (fld v 0 7))
  else v

/-- The sample `k` frames back. -/
def histAt (h : List Word) (k : Nat) : Word := (h[k]?).getD 0#32

/-- The largest magnitude over the lookahead window. -/
def peakOf (h : List Word) (n : Nat) : Nat := (h.take (n + 1)).foldl (fun m w => max m w.toInt.natAbs) 0

/-- The gain R408 calls for, in 2^-64 dB, of threshold and knee in 1/64 dB and the peak. -/
def limTarget (t : Int) (w p : Nat) : Int :=
  if p = 0 then 0
  else
    let above := fxDb p 0x1000000 - t * 2 ^ 58
    let half := (w : Int) * 2 ^ 57
    if above < -half then 0
    else if half < above ∨ w = 0 then min 0 (-above)
    else -((above + half) * (above + half) / (4 * half))

/-- A step of the gain towards its target with a time constant in µs; 0 is no time constant (R408). -/
def limStep (tau : Nat) (f : Bool) (gd g : Int) : Int :=
  let a := if tau = 0 then fxOne else fxOne - fxExp (-(1000000 * fxOne / ((tau * (if f then 96000 else 48000) : Nat) : Int)))
  g + fxMul a (gd - g)

/-- A sample times a gain, rounded. What is applied lies within 0.01 dB of the gain; a gain of 0 leaves a sample as it is
(R408, R409; assumption 7). -/
def limApply (x : Word) (g : Int) : Int :=
  if g = 0 then x.toInt
  else
    let d : Int := ((Config.limError x g % 368934881474191033 : Nat) : Int) - 184467440737095516
    nearest 46 (x.toInt * fxOfDb (g + d)) (2 ^ 64)

/-- A clamped sample: CLIPS and QNCH.EVT.CEILING (R409). -/
def limClip (o : Nat) (s : State) : State :=
  qnchEvent 2 o (s.setLim o { s.lim o with clips := (s.lim o).clips + 1#32 })

/-- A history without entries when every one of them is 0. -/
def trimHist (h : List Word) : List Word := if h.all (· == 0#32) then [] else h.take 65

/-- One frame of limiter `o` on a sample: the value that leaves it (R408 to R410). -/
def limFrame (o : Nat) (fDom : Bool) (x : Word) (s : State) : Word × State :=
  let l := s.lim o
  let look := if fDom then 0 else limLook s o
  let h := x :: l.hist
  let gd := limTarget (limThresh s o) (limKnee s o) (peakOf h look)
  let attack := s.rdf (Reg.limWord o 4) 0 16
  let release := max 1 (s.rdf (Reg.limWord o 4) 16 16) * 1000
  let g := if gd < l.g then limStep attack fDom gd l.g else limStep release fDom gd l.g
  let y1 := limApply (histAt h look) g
  let y := match l.lfade with
    | some (lo, f) =>
      let y0 := limApply (histAt h lo) g
      (y0 * (64 - ((f + 1 : Nat) : Int)) + y1 * ((f + 1 : Nat) : Int)) / 64
    | none => y1
  let fade := match l.lfade with
    | some (lo, f) => if f + 1 < 64 then some (lo, f + 1) else none
    | none => none
  let c := clamp24 y
  let s1 := s.setLim o { l with g := g, hist := trimHist h, lfade := fade }
  (BitVec.ofInt 32 c, if c = y then s1 else limClip o s1)

/-- A commit changed a limiter's parameters (R410, R411). -/
def limCommitted (o oldLook : Nat) (s : State) : State :=
  if limLook s o = oldLook then s else s.setLim o { s.lim o with lfade := some (oldLook, 0) }

/-- +0x10 and +0x14 of a limiter's table record. -/
def limGainView (s : State) (o : Nat) : Word := BitVec.ofNat 32 ((scaleOpen 8 (s.lim o).g 1 (2 ^ 58)) % 65536).toNat

/-! ### Swage EQ (R384 to R391) -/

def State.eqLane (s : State) (n : Nat) : EqLane := tget EqLane.off s.qnch.eq n
def State.setEqLane (s : State) (n : Nat) (x : EqLane) : State :=
  { s with qnch := { s.qnch with eq := tset EqLane.off s.qnch.eq n x } }

def eqEnabled (s : State) (n : Nat) : Bool := s.bit (Reg.eqEn (n / 32)) (n % 32)
def eqFirst (s : State) (n : Nat) : Nat := s.rdf (Reg.eqCfg n) 0 10
def eqCount (s : State) (n : Nat) : Nat := s.rdf (Reg.eqCfg n) 16 6
def eqRateF (s : State) (n : Nat) : Bool := s.bit (Reg.eqCfg n) 24
def eqCapacity (s : State) (n : Nat) : Nat := eqCount s n * (if eqRateF s n then 2 else 1)
/-- Capacity in use among lanes that are enabled (QNCH.EQ_USED). -/
def eqUsed (s : State) : Nat :=
  (List.range 256).foldl (fun a n => if eqEnabled s n then a + eqCapacity s n else a) 0

/-- One section on one sample (R384, R385). -/
def eqSection (lane sec : Nat) (x : Word) (s : State) : Word × State :=
  let w := fun off => s.rd (Reg.eqWord sec off)
  let b := biquad (w 0) (w 4) (w 8) (w 0xC) (w 0x10) x (w 0x14) (w 0x18)
  let s1 := (s.wr (Reg.eqWord sec 0x14) b.s1).wr (Reg.eqWord sec 0x18) b.s2
  (b.y, if b.sat then qnchEvent 1 lane (s1.incSat (Reg.eqSats lane)) else s1)

/-- A lane's sections in ascending order. -/
def eqSections (lane : Nat) (x : Word) (s : State) : Word × State :=
  (List.range (eqCount s lane)).foldl (fun acc k => eqSection lane (eqFirst s lane + k) acc.1 acc.2) (x, s)

/-- A sum of samples under the half-band filter's outer tap, twice over, and one under its centre tap of a half. -/
def halfBand (place : Nat) (outer : Int) (centre : Word) (twice : Bool) : Word :=
  let p := outer * Config.eqTap + centre.toInt * 0x800000
  clampH24 (if twice then scaleOpen place p 1 0x800000 else scaleOpen place p 1 0x1000000)

/-- An F-rate lane in M frame n. The half-band filter, of five taps of which the outermost are 0, gives x(n − 1) and between
it and x(n) the mean that its tap makes; the sections run on both; the same filter gives the 48 kHz result, whose centre is
the sample of x(n − 2): exactly 2 M frames (R383, chapter 12 F-rate lanes; assumption 6). -/
def eqFRate (lane : Nat) (x : Word) (s : State) : Word × State :=
  let e := s.eqLane lane
  let a := eqSections lane e.x1 s
  let b := eqSections lane (halfBand 49 (x.toInt + e.x1.toInt) 0#32 true) a.2
  (halfBand 50 (e.v1.toInt + e.v3.toInt) e.v2 false,
   b.2.setEqLane lane { e with x1 := x, v1 := b.1, v2 := a.1, v3 := e.v1 })

/-- One M frame of an EQ lane (R389). -/
def eqFrame (lane : Nat) (dry : Word) (s : State) : Word × State :=
  let e := s.eqLane lane
  if !e.run then (dry, s)
  else
    let r := if eqCount s lane = 0 then (dry, s)
      else if eqRateF s lane then eqFRate lane dry s else eqSections lane dry s
    let f := min 64 (e.f + 1)
    let y := if e.toWet then blend64 dry r.1 f else blend64 r.1 dry f
    (y, r.2.setEqLane lane { r.2.eqLane lane with f := f, run := e.toWet || decide (f < 64) })

/-- Two lanes' sections meet. -/
def eqMeet (s : State) (a b : Nat) : Bool :=
  decide (0 < eqCount s a ∧ 0 < eqCount s b ∧ eqFirst s a < eqFirst s b + eqCount s b
    ∧ eqFirst s b < eqFirst s a + eqCount s a)

/-- The first cause of R388 that a lane fails on, 0 for none; `acc` are the lanes accepted or enabled before it. -/
def eqCause (s : State) (acc : List Nat) (n : Nat) : Nat :=
  if 32 < eqCount s n then 1
  else if 1024 < eqFirst s n + eqCount s n then 2
  else if acc.any (eqMeet s n) then 3
  else if 1024 < acc.foldl (fun a m => a + eqCapacity s m) (eqCapacity s n) then 4
  else 0

/-- Clear the state words of a lane's sections (R389). -/
def eqClear (n : Nat) (s : State) : State :=
  (List.range (eqCount s n)).foldl (fun s k =>
    (s.wr (Reg.eqWord (eqFirst s n + k) 0x14) 0#32).wr (Reg.eqWord (eqFirst s n + k) 0x18) 0#32) s

/-- A change of the live EQ_EN bits, lane by lane (R388, R389). -/
def eqEnChange (old : Nat → Bool) (s : State) : State :=
  (List.range 256).foldl (fun s n =>
    if eqEnabled s n && !old n then
      let acc := (List.range 256).filter fun m => m != n && eqEnabled s m && (old m || decide (m < n))
      let k := eqCause s acc n
      if k = 0 then (eqClear n s).setEqLane n { EqLane.off with run := true, toWet := true }
      else qnchEvent 0 n ((clearBoth (Reg.eqEn (n / 32)) (n % 32) s).wrn Reg.eqStat (n * 65536 + k))
    else if old n && !eqEnabled s n then s.setEqLane n { s.eqLane n with f := 0, toWet := false }
    else s) s

/-! ### Speedwell (R412 to R416) -/

def State.spw (s : State) (c : Nat) : Speedwell := tget Speedwell.off s.qnch.spw c
def State.setSpw (s : State) (c : Nat) (x : Speedwell) : State :=
  { s with qnch := { s.qnch with spw := tset Speedwell.off s.qnch.spw c x } }

def spwIn (s : State) (c : Nat) : Nat := s.rdf (Reg.spwCfg c) 0 10
def spwOut (s : State) (c : Nat) : Nat := s.rdf (Reg.spwCfg c) 16 10
def spwLimiter (s : State) (c : Nat) : Nat := s.rdf (Reg.spwLim c) 0 8
def isTdmSlot (l : Nat) : Bool := decide (0x100 ≤ l ∧ l < 0x1C0)

/-- The first cause of R412 that a channel fails on, 0 for none. -/
def spwCause (s : State) (acc : List Nat) (c : Nat) : Nat :=
  let pi := (spwIn s c - 0x100) / 32
  let po := (spwOut s c - 0x100) / 32
  if !isTdmSlot (spwIn s c) || !isTdmSlot (spwOut s c) then 1
  else if (asyncBridge s pi).isSome || (asyncBridge s po).isSome then
    (if portDom s pi ≠ some .f ∨ portDom s po ≠ some .f then 1 else 2)
  else if portDom s pi ≠ some .f ∨ portDom s po ≠ some .f then 1
  else if acc.any (fun m => decide (spwLimiter s m = spwLimiter s c)) || (zoneOf s (spwLimiter s c)).isSome then 3
  else if acc.any fun m => decide (spwOut s m = spwOut s c) then 4
  else 0

/-- A change of the live SPW_EN bits (R412, R414). -/
def spwEnChange (old new : Word) (s : State) : State :=
  (List.range 16).foldl (fun s c =>
    if new.getLsbD c && !old.getLsbD c then
      let acc := (List.range 16).filter fun m => m != c && s.bit Reg.spwEn m && (old.getLsbD m || decide (m < c))
      let k := spwCause s acc c
      if k = 0 then
        let g := s.rdf (Reg.spwGain c) 0 16
        s.setSpw c { s.spw c with on := true, rising := true, g := g, g0 := g, f := 64 }
      else qnchEvent 3 c ((clearBoth Reg.spwEn c s).wrn Reg.spwStat (c * 65536 + k))
    else if old.getLsbD c && !new.getLsbD c then s.setSpw c { s.spw c with on := false, rising := false }
    else s) s

/-- A buffered write of SPW_GAIN_c applies: a ramp of 64 F frames from the gain in force (R416). -/
def spwGainWrite (c : Nat) (v : Word) (s : State) : State :=
  let x := s.spw c
  let s1 := s.wr (Reg.spwGain c) v
  if x.on then s1.setSpw c { x with g0 := x.g, f := 0 } else s1

/-- One F frame of a Speedwell channel (R413 to R416). -/
def spwFrame (c : Nat) (s : State) : State :=
  let x := s.spw c
  if !x.on && decide (x.scale = 0) then s
  else
    let t := s.rdf (Reg.spwGain c) 0 16
    let f := min 64 (x.f + 1)
    let g := ((x.g0 : Int) + scaleOpen 9 (((t : Int) - x.g0) * f) 1 64).toNat
    let v := s.laneRead (spwIn s c)
    let r := limFrame (spwLimiter s c) true (clampWord (scaleOpen 10 v.toInt g 0x8000)) s
    let scale := scaleMove x.scale x.rising
    let s1 := r.2.setSpw c { x with g := g, f := f, scale := scale, hist := scaled 11 r.1 scale }
    if !x.on && decide (scale = 0) then
      (s1.setSpw c Speedwell.off).modWeld fun w => { w with
        destFade := tset none w.destFade (spwOut s c) (some ⟨.frozen 0#32, 0, 0#32⟩) }
    else s1

def spwsFrame (s : State) : State := (List.range 16).foldl (fun s c => spwFrame c s) s

/-- The channel that drives an output slot, if one does (R414). -/
def spwOfSlot (s : State) (d : Nat) : Option Nat :=
  (List.range 16).find? fun c => ((s.spw c).on || decide ((s.spw c).scale ≠ 0)) && decide (spwOut s c = d)

def spwStateView (s : State) (c : Nat) : Word :=
  let x := s.spw c
  BitVec.ofNat 32 (if !x.on && decide (x.scale = 0) then 0 else if x.scale = 16 ∧ x.rising then 1 else 2)

/-! ### QNCH as a whole -/

/-- One M frame of the output chain: EQ lane and limiter of every Weld output that is not silent and at rest, from the
matrix's outputs of the frame before (R419). An output whose limiter a Speedwell channel has borrowed is silent (R413); its
EQ lane runs on. -/
def qnchFrame (s : State) : State :=
  let scale := scaleMove s.qnch.scale s.qnch.rising
  let s0 := { s with qnch := { s.qnch with scale := scale } }
  let ys : List Nat := List.map (fun x => x.1) s0.weld.yOut
  let ls : List Nat := List.map (fun x => x.1) s0.qnch.lim
  let es : List Nat := List.map (fun x => x.1) s0.qnch.eq
  let borrowed := fun o => (List.range 16).any fun c =>
    ((s0.spw c).on || decide ((s0.spw c).scale ≠ 0)) && decide (spwLimiter s0 c = o)
  let outs := (ys ++ ls ++ es).eraseDups
  let r := outs.foldl (fun (acc : Table Word × State) o =>
    let e := eqFrame o (tget 0#32 acc.2.weld.yOut o) acc.2
    if borrowed o then (acc.1, e.2)
    else
      let q := limFrame o false e.1 e.2
      (tset 0#32 acc.1 o (scaled 12 q.1 scale), q.2)) (([] : Table Word), s0)
  r.2.modWeld fun w => { w with qOut := r.1 }

/-- QNCH's buffered writes, and the block's own enable, at a hinge (R387, R412, R416, R417). -/
def qnchBuffered (s : State) : State :=
  let t := takeBuffered (fun a => decide (a / 0x10000 = 0x4007)) s
  let old := s
  let s1 := t.2.foldl (fun s x =>
    if 0x40070C00 ≤ x.1 then spwGainWrite ((x.1 - 0x40070C00) / 0x10) x.2 s else s.wr x.1 x.2) t.1
  let s2 := eqEnChange (eqEnabled old) s1
  let s3 := spwEnChange (old.rd Reg.spwEn) (s2.rd Reg.spwEn) s2
  let en := s3.enabled 7
  let s4 := { s3 with qnch := { s3.qnch with rising := en } }
  (List.range 16).foldl (fun s c => if (s.spw c).on then s.setSpw c { s.spw c with rising := en } else s) s4

end Sys2Proof.Machine
end

