-- ==== Sys2Proof/Machine/Commit.lean ====
section
/-! DEFINITION. What a hinge does to staged values: commits (chapter 6) and graph swaps (chapter 11). -/

namespace Sys2Proof.Machine
open Sys2Proof

namespace Reg
def gswapCfg : Nat := 0x40020044
def gswapCores : Nat := 0x4002004C
def graphId : Nat := 0x40020050
def graphBuild : Nat := 0x40020054
def gswapBase : Nat := 0x40020058
def gswapBuild : Nat := 0x4002005C
def gswapHinge : Nat := 0x40020060
def gEvt : Nat := 0x40020064
def stagedCore (n off : Nat) : Nat := 0x3C380000 + 0x100 * n + off
def stagedLine (n e off : Nat) : Nat := 0x3C300000 + 0x8000 * n + 0x80 * e + off
end Reg

/-! ### Commits (R200 to R210) -/

/-- The shadow of a dirty set becomes live, and the set clean (R201, R204, R205). -/
def applySet (c : CSet) (s : State) : State :=
  let copy := fun (s : State) => (setWords c).foldl (fun s a => s.wr a (s.rd (a + shadowOff))) s
  match c with
  | .coef n => startCoefCopy n ((s.setClean c).modSc n fun x => { x with cbank := !x.cbank })
  | .node o i => setTarget o i (s.rdf (Reg.nodeWord o i + shadowOff) 0 16) (s.setClean c)
  | .eq _ => copy (s.setClean c)
  | .qnch o =>
    let old := limLook s o
    let s1 := [0, 4, 8].foldl (fun s off =>
      s.wr (Reg.limWord o off) (limClamp off (s.rd (Reg.limWord o off + shadowOff)))) (s.setClean c)
    limCommitted o old s1
  | .tone g => toneCommitted g (copy (s.setClean c))
  | .line n e =>
    let moved := s.rd (Reg.lineWord n e 4) != s.rd (Reg.lineWord n e 4 + shadowOff)
      || s.rd (Reg.lineWord n e 8) != s.rd (Reg.lineWord n e 8 + shadowOff)
    let s1 := copy (s.setClean c)
    if moved then s1.wr (Reg.lineWord n e 0xC) 0#32 else s1

/-- A dirty line-map entry would break R168 once live. -/
def stagedLineBad (s : State) (c : CSet) : Bool :=
  match c with
  | .line n e =>
    let w := s.rd (Reg.lineWord n e 0)
    let rd := fun off => s.rd (Reg.lineWord n e off + shadowOff)
    w.getLsbD 31 && !lineOk (w.getLsbD 30) (rd 4).toNat (rd 8).toNat (lineTaps rd)
  | _ => false

/-- A dirty entry that is valid. -/
def stagedLineValid (s : State) (c : CSet) : Bool :=
  match c with
  | .line n e => (s.rd (Reg.lineWord n e 0)).getLsbD 31
  | _ => false

/-- The cause for which a group is refused at its hinge, 0 for none (R203). -/
def commitCause (s : State) (g : Nat) : Nat :=
  let es := grpEntries s g
  let ds := grpDirty s g
  let t := grpTenant s g
  if (s.grp g).cancelled then 4
  else if es.any entryBad then 1
  else if ds.any (stagedLineBad s) || (ds.any (stagedLineValid s) && decide (1024 < longLines s)) then 2
  else if s.modes.mode = .evacuate ∧ 1 ≤ t ∧ t ≤ 7 ∧ (es.any fun e => [2, 3, 4, 5].contains (fld e.1 24 4)) then 3
  else 0

/-- One pending group at its commit hinge (R201, R202, R206). -/
def commitGroup (g : Nat) (s : State) : State :=
  let k := commitCause s g
  let s1 := if k = 0 then (grpDirty s g).foldl (fun s c => applySet c s) s else s
  completeGroup g k s1

/-- The commit step: every pending group in ascending order; at a hinge at which a swap applied, those not cancelled are
deferred (R207 to R209). -/
def commitStep (swapped : Bool) (s : State) : State :=
  let gs := (s.safe.groups.filter fun x => x.2.pending).map (·.1)
  let s0 := if s.enabled 3 then s else gs.foldl (fun s g => cancelGroup g s) s
  let now := gs.filter fun g => !swapped || (s0.grp g).cancelled
  let later := gs.filter fun g => swapped && !(s0.grp g).cancelled
  let s1 := now.foldl (fun s g => commitGroup g s) s0
  let s2 := if now = [] then s1 else s1.inc Reg.commitSeq
  later.foldl (fun s g => safeEvent 2 g s) s2

/-- After the commits, a core that started at this hinge has its inactive coefficient bank refreshed and clean. -/
def refreshStarted (s : State) : State :=
  (List.range 16).foldl (fun s n =>
    if (s.sc n).starting then
      startCoefCopy n ((s.setClean (.coef n)).modSc n fun c => { c with starting := false })
    else s) s

/-- A tenant reset reaches SAFE: its groups are cancelled, and what they bind is made clean. -/
def safeTenantReset (t : Nat) (s : State) : State :=
  (List.range 64).foldl (fun s g =>
    if grpTenant s g = t then (grpDirty s g).foldl (fun s c => discardSet c s) (cancelGroup g s) else s) s

/-- VIGIL sleep entry cancels every pending group and makes every set clean. -/
def safeSleep (s : State) : State :=
  let gs := (s.safe.groups.filter fun x => x.2.pending).map (·.1)
  s.safe.dirty.foldl (fun s c => discardSet c s) (gs.foldl (fun s g => cancelGroup g s) s)

/-! ### The graph swap (R369 to R379) -/

/-- A core's staged record. -/
def stagedWordOf (s : State) (n off : Nat) : Word := s.rd (Reg.stagedCore n off)
def stagedCfg (s : State) (n : Nat) : Word := stagedWordOf s n 0x40
def stagedAction (s : State) (n : Nat) : Nat := fld (stagedWordOf s n 0x4C) 0 2
def stagedWindows (s : State) (n : Nat) : List (Nat × Nat) :=
  (List.range 16).filterMap fun w =>
    let x := stagedWordOf s n (4 * w)
    if fld x 16 12 = 0 then none else some (fld x 0 14, fld x 16 12)

/-- Cores of the verified image with this action. -/
def swapCores (s : State) (act : Nat) : List Nat :=
  (List.range 16).filter fun n => s.bit Reg.gswapCores n && stagedAction s n == act

def idle (c : SampleCore) : Bool := c.st == .halted || c.st == .faulted

/-- The resulting set: core, domain, output lanes, windows (R370). -/
def swapResult (s : State) : List (Nat × Dom × Nat × Nat × List (Nat × Nat)) :=
  (List.range 16).filterMap fun n =>
    let c := s.sc n
    let staged := s.bit Reg.gswapCores n && (stagedAction s n == 1 || stagedAction s n == 2)
    if c.st = .halted ∧ !(s.bit Reg.gswapCores n && stagedAction s n == 2) then none
    else if staged then
      let cfg := stagedCfg s n
      some (n, (domOf (fld cfg 0 2)).getD c.dom, fld cfg 8 8, fld cfg 16 9, stagedWindows s n)
    else
      let x := coreStands s n
      some (n, x.1, x.2.1, x.2.2, coreWindows s n)

/-- Two members of a list meet by a test. -/
def pairMeets {α : Type} (t : α → α → Bool) : List α → Bool
  | [] => false
  | x :: xs => xs.any (t x) || pairMeets t xs

/-- The valid entries of a staged line map. -/
def stagedValid (s : State) (n : Nat) : List Nat :=
  (s.regs.filter fun x => decide (Reg.stagedLine n 0 0 ≤ x.1 ∧ x.1 < Reg.stagedLine (n + 1) 0 0)
    && decide (x.1 % 0x80 = 0) && x.2.getLsbD 31).map fun x => x.1 % 0x8000 / 0x80

def stagedLineOk (s : State) (n e : Nat) : Bool :=
  let rd := fun off => s.rd (Reg.stagedLine n e off)
  lineOk ((rd 0).getLsbD 30) (rd 4).toNat (rd 8).toNat (lineTaps rd)

/-- The valid long entries there would be after the swap (R169). -/
def swapLongLines (s : State) : Nat :=
  (List.range 16).foldl (fun a n =>
    let staged := s.bit Reg.gswapCores n && (stagedAction s n == 1 || stagedAction s n == 2)
    if staged then a + ((stagedValid s n).filter fun e => (s.rd (Reg.stagedLine n e 0)).getLsbD 30).length
    else a + ((validLines s n).filter fun e => (s.rd (Reg.lineWord n e 0)).getLsbD 30).length) 0

/-- The first cause for which a due swap is refused, 0 for none (R370, R378, R379). -/
def swapCause (s : State) : Nat :=
  let repl := swapCores s 1
  let start := swapCores s 2
  let t := s.rdf Reg.gswapCfg 0 4
  let res := swapResult s
  if s.eng.swapCancel || !s.enabled 2 then 11
  else if !s.eng.verified then 1
  else if s.modes.mode = .evacuate ∧ 1 ≤ t ∧ t ≤ 7 then 2
  else if (s.eng.incr && s.rd Reg.gswapBase != s.rd Reg.graphBuild)
      || (!s.eng.incr && repl.any fun n => !idle (s.sc n)) then 3
  else if start.any fun n => !idle (s.sc n) then 4
  else if repl.any fun n => !idle (s.sc n) && (stagedCfg s n).getLsbD 4 == (s.sc n).pbank then 5
  else if (repl.any fun n => !idle (s.sc n) && domOf (fld (stagedCfg s n) 0 2) != some (s.sc n).dom)
      || (start.any fun n => (domOf (fld (stagedCfg s n) 0 2)).isNone) then 6
  else if (res.any fun x => decide (256 < x.2.2.1 + x.2.2.2.1)) || (pairMeets (fun x y =>
      decide (0 < x.2.2.2.1 ∧ 0 < y.2.2.2.1 ∧ x.2.2.1 < y.2.2.1 + y.2.2.2.1 ∧ y.2.2.1 < x.2.2.1 + x.2.2.2.1)) res) then 7
  else if (repl ++ start).any fun n =>
      (stagedWindows s n).any fun w => !windowOk ((domOf (fld (stagedCfg s n) 0 2)).getD .m) w then 8
  else if selfMeets (res.flatMap fun x => replicate x.2.1 x.2.2.2.2) then 9
  else if ((repl ++ start).any fun n => (stagedValid s n).any fun e => !stagedLineOk s n e)
      || decide (1024 < swapLongLines s) then 10
  else 0

/-- Replace a core's line map from the staged one; a CARRY entry takes the WP of the live entry it names (R373). -/
def installLines (n : Nat) (s : State) : State :=
  let live := Reg.lineWord n 0 0
  let stg := Reg.stagedLine n 0 0
  let old := s
  let s0 := { s with regs := s.regs.filter fun x => !decide (live ≤ x.1 ∧ x.1 < live + 0x8000) }
  (old.regs.filter fun x => decide (stg ≤ x.1 ∧ x.1 < stg + 0x8000)).foldl (fun s x =>
    let off := x.1 - stg
    if off % 0x80 = 0xC then
      (if x.2.getLsbD 31 then s.wr (live + off) (old.rd (Reg.lineWord n (fld x.2 0 8) 0xC)) else s)
    else s.wr (live + off) x.2) s0

/-- The edge entries that a replaced core arms (R375). -/
def stagedEdges (s : State) (n : Nat) : List (Nat × Nat × Nat) :=
  (List.range 16).filterMap fun e =>
    let w := stagedWordOf s n (0x80 + 4 * e)
    if w.getLsbD 31 then some (fld w 0 10, fld w 16 10, 0) else none

/-- A core receives its staged banks and tables; its DIRTY sets are discarded (R371, R372, R210). -/
def installCore (n : Nat) (s : State) : State :=
  let cfg := stagedCfg s n
  let c := s.sc n
  let s1 := (List.range 16).foldl (fun s w => s.wr (Reg.winEntry n w) (stagedWordOf s n (4 * w) &&& 0x0FFF3FFF#32)) s
  let s2 := (installLines n s1).wr (Reg.coreCfg n) (cfg &&& 0x1FFFF13#32)
  let s3 := (s2.wr (Reg.coreSp n) (stagedWordOf s n 0x44)).wr (Reg.corePage n) (stagedWordOf s n 0x48)
  let s3' := if idle c then s3 else leaveLanes n (fld cfg 8 8) (fld cfg 16 9) s3
  let s4 := s3'.setSc n { c with
    pbank := cfg.getLsbD 4, cbank := (stagedWordOf s n 0x4C).getLsbD 4, edges := stagedEdges s n,
    outFirst := if idle c then c.outFirst else fld cfg 8 8, outCnt := if idle c then c.outCnt else fld cfg 16 9 }
  let mine := s4.safe.dirty.filter fun x => match x with
    | .coef m => m == n
    | .line m _ => m == n
    | _ => false
  startCoefCopy n (mine.foldl (fun s x => s.setClean x) s4)

/-- Set a bit of ENG.RUN in its live value and in its shadow. -/
def setRun (n : Nat) (s : State) : State :=
  let s1 := s.wrb Reg.engRun n true
  match tget none s.wbPend Reg.engRun with
  | some w => { s1 with wbPend := tset none s1.wbPend Reg.engRun (some (wsetBit w n true)) }
  | none => s1

/-- A core starts under R186 with the tables that the swap installed. -/
def swapStart (n : Nat) (s : State) : State :=
  beginCore n (setRun n (installCore n s))

/-- A swap that passed its checks takes effect (R371, R372). -/
def applySwap (s : State) : State :=
  let discard := s.safe.dirty.any fun x => match x with
    | .coef m => (swapCores s 1 ++ swapCores s 2).contains m
    | .line m _ => (swapCores s 1 ++ swapCores s 2).contains m
    | _ => false
  let s1 := (List.range 16).foldl (fun st n =>
    if s.bit Reg.gswapCores n then
      match stagedAction s n with
      | 1 => installCore n st
      | 2 => swapStart n st
      | 3 => stopCore n (clearRun n st)
      | _ => st
    else st) s
  let s2 := (s1.wr Reg.graphId s.eng.graphId).wr Reg.graphBuild (s.rd Reg.gswapBuild)
  let s3 := { s2 with eng := { s2.eng with verified := false } }
  if discard then sqSet Reg.safeEvt [6] s3 else s3

/-- ENG.GSWAP_STAT as it reads. -/
def gswapStatView (s : State) : Word :=
  BitVec.ofNat 32 (s.eng.swapSeq.toNat * 65536 + s.eng.swapCause * 4096 + s.eng.swapResult * 1024 + b2n s.eng.incr * 8
    + b2n s.eng.armed * 4 + b2n s.eng.verified * 2)

/-- Completion of a swap (R374). -/
def completeSwap (cause : Nat) (s : State) : State :=
  let s1 := { s with eng := { s.eng with
    swapSeq := s.eng.swapSeq + 1#16, swapCause := cause, swapResult := if cause = 0 then 1 else 2,
    armed := false, swapCancel := false } }
  let s2 := s1.wr Reg.gswapHinge (hingeNo s1)
  sqSetX Reg.gEvt [if cause = 0 then 0 else 1] none (gswapStatView s2) s2

/-- The swap step of a hinge: the state after it, and whether a swap applied. -/
def swapStep (s : State) : State × Bool :=
  if s.eng.armed then
    let k := swapCause s
    (completeSwap k (if k = 0 then applySwap s else s), decide (k = 0))
  else (s, false)

/-- ENG.GSWAP_CTRL.ARM (R369). -/
def armSwap (s : State) : State := { s with eng := { s.eng with armed := true } }
/-- An armed swap is cancelled at the next hinge (R378). -/
def cancelSwap (s : State) : State :=
  if s.eng.armed then { s with eng := { s.eng with swapCancel := true } } else s

/-- A write of ENG.CTRL.ENABLE: clearing it cancels an armed swap (R378). -/
def engEnableWrite (on : Bool) (s : State) : State :=
  let s1 := s.wrb (slotBase 2 + 4) 0 on
  if on then s1 else cancelSwap s1

/-- A write of ENG.GSWAP_CTRL (R369, R378). -/
def gswapCtrlWrite (v : Word) (s : State) : State :=
  let s1 := if v.getLsbD 0 then armSwap s else s
  if v.getLsbD 1 then cancelSwap s1 else s1

/-- A bus write to staged content clears VERIFIED (R368). -/
def stageWritten (s : State) : State :=
  sqSet Reg.gEvt [2] { s with eng := { s.eng with verified := false } }

/-- Is a byte of a core's window in a program bank that a staged record of the verified image names (R368)? -/
def inStagedBank (s : State) (n off : Nat) : Bool :=
  s.eng.verified && s.bit Reg.gswapCores n &&
    (if (stagedCfg s n).getLsbD 4 then decide (0x6000 ≤ off ∧ off < 0xC000) else decide (off < 0x6000))

/-! ### ENG's buffered write -/

/-- ENG at a hinge: its own enable, and the change of ENG.RUN (R184 to R190). -/
def engBuffered (s : State) : State :=
  let t := takeBuffered (fun a => decide (a = Reg.engRun)) s
  if !s.enabled 2 then engDisabled t.1
  else
    let old := t.1.rd Reg.engRun
    let new := t.2.foldl (fun _ x => x.2) old
    applyRun old new (t.1.wr Reg.engRun new)

end Sys2Proof.Machine
end

