-- ==== Sys2Proof/Machine/FaultN.lean ====
section
/-! DEFINITION. The fault summary and the FAULT_N latch of the always-on domain (chapter 20). The latch and its record are
AON.FAULT_STAT's word; what crosses to them is taken to arrive at once (assumption 11). -/

namespace Sys2Proof.Machine
open Sys2Proof

namespace Reg
def faultStat : Nat := 0x40010244
def faultFw : Nat := 0x40000304
def micDc (x : Nat) : Nat := 0x400F0200 + 0x40 * x
def ctCfg (n : Nat) : Nat := 0x40010100 + 0x10 * n
end Reg

/-- A control core as it is in reset: PSW privileged, or secure in the Warden (chapter 7). -/
def ctlDefault (c : Nat) : CtlCore := CtlCore.init (if c = 4 then 0x80000000#32 else 0x40000000#32)
def State.ctlCore (s : State) (c : Nat) : CtlCore := tget (ctlDefault c) s.ctl c
def State.setCtl (s : State) (c : Nat) (x : CtlCore) : State := { s with ctl := tset (ctlDefault c) s.ctl c x }

def State.mic (s : State) (x : Nat) : MicLine := tget MicLine.init s.ports.mic x
def State.contact (s : State) (n : Nat) : Contact := tget Contact.init s.ports.contacts n

/-- Is the bias of a microphone line off (R641)? -/
def micPlug (s : State) (x : Nat) : Plug := if s.bit (Reg.micDc x) 0 then (s.mic x).plug else .disabled

/-- A microphone line's term (R651). -/
def micTerm (s : State) (x : Nat) : Bool :=
  micPlug s x == .short || (s.bit (Reg.micDc x) 2 && micPlug s x != .present)

/-- SYS.FAULT_SUM (R661). -/
def faultSum (s : State) : Nat :=
  b2n (decide ((s.sq Reg.engLedger).tags ≠ []))
    + 2 * b2n ((List.range 4).any fun c => (s.ctlCore c).st == .lockup)
    + 4 * b2n (s.tenant 0).lost
    + 8 * b2n (micTerm s 0 || micTerm s 1)
    + 16 * b2n (s.bit Reg.faultFw 0)

/-- The latch is set, and the reason recorded (R660). -/
def latchFault (why : Nat) (s : State) : State := s.wrn Reg.faultStat (wsetBit (wsetBit (s.rd Reg.faultStat) 0 true) why true).toNat

/-- The summary level sets the latch while it is 1 (R660). -/
def summaryCheck (s : State) : State := if faultSum s = 0 then s else latchFault 1 s

/-- FORCE: a set condition without a reason of its own in the record (R660). -/
def forceFault (s : State) : State := s.wrb Reg.faultStat 0 true

/-- Does a contact hold an accepted class whose FAULT bit is set? -/
def contactFault (s : State) (n : Nat) : Bool := (s.rd (Reg.ctCfg n)).getLsbD (8 + (s.contact n).cls)

/-- CLEAR, with FORCE written in the same word or not (R662). -/
def clearFault (force : Bool) (s : State) : State :=
  if faultSum s ≠ 0 ∨ (List.range 8).any (contactFault s) = true ∨ force = true then
    s.wrn Reg.faultStat (wsetBit (wsetBit (s.rd Reg.faultStat) 0 true) 5 true).toNat
  else s.wrn Reg.faultStat 0

/-- A write of AON.FAULT_CTRL as it lands: [0] CLEAR, [1] FORCE. -/
def faultCtrl (v : Word) (s : State) : State :=
  let s1 := if v.getLsbD 1 then forceFault s else s
  if v.getLsbD 0 then clearFault (v.getLsbD 1) s1 else s1

/-- FAULT_N is driven low (chapter 20). -/
def faultDriven (s : State) : Bool :=
  s.bit Reg.faultStat 0 || !(s.clk.slowOk && (s.clk.xtalOk || s.modes.sleep == .asleep || s.modes.sleep == .waking))

end Sys2Proof.Machine
end

