-- ==== Sys2Proof/Machine/Sense.lean ====
section
/-! DEFINITION. Line supervision and the silent test (chapter 19). -/

namespace Sys2Proof.Machine
open Sys2Proof

namespace Reg
def chEn : Nat := 0x400C0020
def lmEn : Nat := 0x400C0024
def senseEvt : Nat := 0x400C0030
def senseEvtSrc : Nat := 0x400C0034
def relay : Nat := 0x400C003C
def lmCfg (m : Nat) : Nat := 0x400C0100 + 0x20 * m
def lmWin (m : Nat) : Nat := 0x400C0104 + 0x20 * m
def lmZscale (m : Nat) : Nat := 0x400C0108 + 0x20 * m
def lmBaseZ (m : Nat) : Nat := 0x400C010C + 0x20 * m
def lmBasePh (m : Nat) : Nat := 0x400C0110 + 0x20 * m
def vtCfg : Nat := 0x400C0404
def vtParam : Nat := 0x400C0408
def vtThr : Nat := 0x400C040C
def vtBuf : Nat := 0x400C0410
def vtRef (r : Nat) : Nat := 0x400C0420 + 4 * r
def vtAmb (r : Nat) : Nat := 0x400C0430 + 4 * r
def vtEvt : Nat := 0x400C0440
def slotWord (k off : Nat) : Nat := 0x3C700000 + 0x20 * k + off
end Reg

def State.modSense (s : State) (f : Sense → Sense) : State := { s with sense := f s.sense }
def State.mon (s : State) (m : Nat) : Monitor := tget Monitor.off s.sense.mon m
def State.setMon (s : State) (m : Nat) (x : Monitor) : State :=
  s.modSense fun q => { q with mon := tset Monitor.off q.mon m x }

def senseEvent (bit m : Nat) (s : State) : State := sqSet Reg.senseEvt [bit] (s.wrn Reg.senseEvtSrc m)
def vtEvent (bit : Nat) (s : State) : State := sqSet Reg.vtEvt [bit] s

/-- The integer square root, bit by bit from bit 47 down. -/
def isqrt (n : Nat) : Nat :=
  (List.range 48).foldl (fun r i =>
    let t := r + 2 ^ (47 - i)
    if t * t ≤ n then t else r) 0

/-- 10 log10 (n / d) in 1/64 dB; its rounding is open, and so is the result for a 0 (assumption 9). -/
def db64 (place n d : Nat) : Int :=
  if n = 0 ∨ d = 0 then Config.dbOfZero else scaleOpen place (32 * fxDb n d) 1 (2 ^ 64)

/-- The phase of re + j im in 1/64°, from −180° to +180°; its rounding is open (R614, assumption 9). -/
def phase64 (re im : Int) : Int :=
  let up : Int := (im.natAbs : Int)
  let side := fun q => cosTurn q 23040 * up - sinTurn q 23040 * re
  if im = 0 then (if 0 ≤ re then 0 else if Config.roundUp 48 re 1 then 11520 else -11520)
  else
    let q := searchUp (fun q => decide (q ≤ 11519 ∧ 0 ≤ side q)) 14 0
    let a : Int := if side q = 0 then q else if Config.roundUp 47 re up.toNat then q + 1 else q
    if im < 0 then -a else a

/-- 2^24 × 10^(S / 20) to the nearest integer, S in 1/64 dB (R625). -/
def ofDb (x : Int) : Nat := (nearest 51 (0x1000000 * fxOfDb (x * 2 ^ 58)) (2 ^ 64)).toNat

/-! ### Line monitors -/

/-- The Hann window's weight of sample k, times 2^64 (R612). -/
def hann (k : Nat) : Int := (fxOne - cosTurn k (if Config.hannClosed then 89999 else 90000)) / 2

/-- A sum over a window of a full-scale sine against its own phase: half the weights' sum of 45000, times 2^64 (R614,
assumption 9). -/
def windowUnit : Nat := 22500 * 2 ^ 64

/-- A sample of a sense channel at an F strike; a channel that is not enabled is not sampled, and what it gives is a value
nothing fixes (R611). -/
def senseSample (sense : List Word) (n : Nat) (s : State) : Word × State :=
  if s.bit Reg.chEn n then ((sense[n]?).getD 0#32, s) else s.draw

/-- A percentage of LM_WIN as it acts. -/
def pct (v : Nat) : Nat := max 1 (min 99 v)

/-- |Z| in unsigned 16.16 ohms from the squared magnitudes of voltage and current and ZSCALE (R614); its rounding is open. -/
def zMag (zscale v2 i2 : Nat) : Nat :=
  let n := zscale * zscale * v2
  let r := isqrt (n / i2)
  if r * r * i2 = n then r else if Config.roundUp 30 n i2 then r + 1 else r

/-- The distance of two phases modulo 360°, in 1/64°. -/
def phaseDist (a b : Int) : Nat :=
  let d := ((a - b) % 23040).toNat
  min d (23040 - d)

/-- The class of a result (R616, R617). -/
def classify (s : State) (m z : Nat) (ph amp : Int) (silent : Bool) : Nat :=
  let base := (s.rd (Reg.lmBaseZ m)).toNat
  let w := s.rd (Reg.lmWin m)
  if silent ∨ amp < -4224 then 4
  else if base = 0 then 0
  else if base * (100 + pct (fld w 0 8)) < 100 * z then 1
  else if 100 * z < base * (100 - pct (fld w 8 8)) then 2
  else if fld w 16 16 ≠ 0 ∧ fld w 16 16 < phaseDist ph (sfld (s.rd (Reg.lmBasePh m)) 0 16) then 3
  else 0

/-- Do sixteen results make a baseline (R618)? -/
def learnOk (l : List (Nat × Int × Bool)) : Bool :=
  let sz : Nat := l.foldl (fun a x => a + x.1) 0
  let sp : Int := l.foldl (fun (a : Int) x => a + x.2.1) 0
  l.all fun x =>
    !x.2.2 && decide (100 * ((16 * x.1 : Nat) - (sz : Int)).natAbs ≤ 2 * sz) && decide ((16 * x.2.1 - sp).natAbs ≤ 2048)

/-- The end of learning: the means become the baseline, or it is left unchanged (R618). -/
def learnEnd (m : Nat) (l : List (Nat × Int × Bool)) (s : State) : State :=
  let s1 := s.setMon m { s.mon m with st := .watch, learned := [] }
  if learnOk l then
    let sz : Nat := l.foldl (fun a x => a + x.1) 0
    let sp : Int := l.foldl (fun (a : Int) x => a + x.2.1) 0
    let z := (scaleOpen 31 sz 1 16).toNat
    let p := scaleOpen 32 sp 1 16
    senseEvent 2 m ((s1.wrn (Reg.lmBaseZ m) z).wrn (Reg.lmBasePh m) (p % 65536).toNat)
  else senseEvent 3 m s1

/-- A monitor declares a fault with the class of its latest result (R620, R621). -/
def declareFault (m cls : Nat) (s : State) : State :=
  let cfg := s.rd (Reg.lmCfg m)
  let due := decide (1 ≤ cls ∧ cls ≤ 3) && cfg.getLsbD 22 && cfg.getLsbD (24 + (cls - 1))
  let x := s.mon m
  latchFault 2 (senseEvent 0 m
    (s.setMon m { x with st := .fault, cause := cls, relayDue := due, palarm := x.palarm + 1#16 }))

/-- A monitor's results are its own while SENSE and the monitor are enabled. -/
def monitorRuns (s : State) (m : Nat) : Bool := s.enabled 12 && (s.mon m).st != .off

/-- A monitor's next window starts, its sums at 0: a learning request takes effect with it (R613, R618). -/
def Monitor.window (x : Monitor) : Monitor :=
  let y := { x with formed := false, taken := 0, vc := 0, vs := 0, ic := 0, is := 0 }
  if y.learnDue ∧ y.st ≠ .fault then { y with learnDue := false, st := .learn, learned := [] } else y

/-- A sample of a monitor's window, at an F strike from hinge S_r up to hinge S_r + 15000 (R612, R613). -/
def monitorSample (sense : List Word) (m : Nat) (s : State) : State :=
  let c := s.rd (Reg.lmCfg m)
  match (s.mon m).age with
  | some a =>
    if monitorRuns s m && decide (a < 15000) then
      let v := senseSample sense (fld c 0 3) s
      let i := senseSample sense (fld c 4 3) v.2
      let x := s.mon m
      let phi := (s.gen (64 + fld c 8 4)).phi.toNat
      let wc := fxMul (hann x.taken) (cosTurn phi 0x100000000)
      let ws := fxMul (hann x.taken) (sinTurn phi 0x100000000)
      i.2.setMon m { x with taken := x.taken + 1, vc := x.vc + wc * v.1.toInt, vs := x.vs + ws * v.1.toInt,
                            ic := x.ic + wc * i.1.toInt, is := x.is + ws * i.1.toInt }
    else s
  | none => s

/-- The monitors at an F strike. -/
def senseStrike (sense : List Word) (s : State) : State :=
  (List.range 8).foldl (fun s m => monitorSample sense m s) s

/-- A monitor's window is over and its result not yet formed (R613). -/
def resultDue (s : State) (m : Nat) : Bool :=
  monitorRuns s m && !(s.mon m).formed && decide (15000 ≤ ((s.mon m).age).getD 0)

/-- At the end of a window a result is formed from its sums and classed (R614 to R620). A sample of full scale is 2^24, one
LSB of a 16-bit channel 512. -/
def windowResult (m : Nat) (s : State) : State :=
  if resultDue s m then
    let x := s.mon m
    let i2 := (x.ic * x.ic + x.is * x.is).toNat
    let v2 := (x.vc * x.vc + x.vs * x.vs).toNat
    let low := decide (i2 < (512 * windowUnit) ^ 2)
    let zn := if low then 0xFFFFFFFF else zMag (s.rd (Reg.lmZscale m)).toNat v2 i2
    let big := decide (0xFFFFFFFF < zn)
    let d := if big then s.draw else (BitVec.ofNat 32 zn, s)
    let z := d.1.toNat
    let ph := if low then 0 else phase64 (x.vc * x.ic + x.vs * x.is) (x.vs * x.ic - x.vc * x.is)
    let amp := db64 57 v2 ((2 ^ 24 * windowUnit) ^ 2)
    let cls := classify s m z ph amp (decide (v2 = 0))
    let out := decide (cls ≠ 0)
    let s1 := d.2.setMon m { x with cls := cls, prevOut := out, formed := true, count := (x.count + 1) % 256, z := d.1,
                                    ph := (ph % 65536).toNat, amp := (amp % 65536).toNat }
    match x.st with
    | .learn =>
      let l := x.learned ++ [(z, ph, decide (cls = 4))]
      if 16 ≤ l.length then learnEnd m l s1 else s1.setMon m { s1.mon m with learned := l }
    | .watch => if out && x.prevOut then declareFault m cls s1 else s1
    | _ => s1
  else s

/-- The relay bit is set and the GPIO driven at the hinge after the fault: not while the monitor still stands at hinge E_r (R621). -/
def relayDrive (m : Nat) (s : State) : State :=
  let x := s.mon m
  if x.relayDue && x.age != some 15000 then senseEvent 1 m ((s.setMon m { x with relayDue := false }).wrb Reg.relay m true) else s

/-- An acknowledgement (R623). -/
def lmAck (v : Word) (s : State) : State :=
  (bitsOf 8 v.toNat).foldl (fun s m =>
    let x := s.mon m
    if x.st = .fault ∧ x.cls = 0 then s.setMon m { x with st := .watch, prevOut := false } else s) s

/-- A learning request (R618, R619): it takes effect at the monitor's next window. -/
def lmLearn (v : Word) (s : State) : State :=
  (bitsOf 8 v.toNat).foldl (fun s m =>
    let x := s.mon m
    if x.st = .watch ∨ x.st = .learn then s.setMon m { x with learnDue := true } else s) s

/-- A hinge of a monitor's windows (R613, R618). -/
def monitorHinge (m : Nat) (s : State) : State :=
  let x := s.mon m
  if x.st = .off then s
  else
    let a := match x.age with
      | none => 0
      | some a => (a + 1) % 16000
    s.setMon m (if a = 0 then { x.window with age := some 0 } else { x with age := some a })

/-- A monitor as it is when its enable applies: its windows start at the next hinge, no out-of-window result counted
(R613). Results, palarm and the relay's bit are kept. -/
def Monitor.start (x : Monitor) : Monitor :=
  { x with st := .watch, prevOut := false, learned := [], learnDue := false, age := none, formed := false }

/-- A disabled monitor's state is OFF and its results stop. -/
def Monitor.stop (x : Monitor) : Monitor :=
  { x with st := .off, prevOut := false, learned := [], learnDue := false, relayDue := false, age := none, formed := false }

/-- May a monitor run with the channels that are enabled? -/
def monitorCfgOk (s : State) (m : Nat) : Bool :=
  let c := s.rd (Reg.lmCfg m)
  s.bit Reg.chEn (fld c 0 3) && s.bit Reg.chEn (fld c 4 3)

/-- A change of one monitor's enable at an F strike. -/
def lmEnChange (old new : Word) (m : Nat) (s : State) : State :=
  if new.getLsbD m then
    if old.getLsbD m then s
    else if monitorCfgOk s m then s.setMon m (s.mon m).start
    else senseEvent 4 m (clearBoth Reg.lmEn m s)
  else s.setMon m (s.mon m).stop

/-- SENSE's buffered writes apply at the F strike. -/
def senseBuffered (s : State) : State :=
  let t := takeBuffered (fun a => decide (a / 0x10000 = 0x400C)) s
  let old := s.rd Reg.lmEn
  let s1 := t.2.foldl (fun s x => s.wr x.1 x.2) t.1
  if t.2.any fun x => decide (x.1 = Reg.lmEn) then
    (List.range 8).foldl (fun s2 m => lmEnChange old (s1.rd Reg.lmEn) m s2) s1
  else s1

/-- SENSE.LM_STATE, LM_RES_m as they read. -/
def monCode : MonSt → Nat
  | .off => 0
  | .learn => 1
  | .watch => 2
  | .fault => 3
def lmStateView (s : State) : Word :=
  BitVec.ofNat 32 ((List.range 8).foldl (fun a m => a + monCode (s.mon m).st * 4 ^ m) 0)
def lmResView (s : State) (m : Nat) : Word :=
  let x := s.mon m
  BitVec.ofNat 32 (x.ph + x.cls * 2 ^ 16 + x.cause * 2 ^ 20 + x.count * 2 ^ 24)

/-- The GPIO pin that a monitor owns while its RELAY_EN is 1 (R622), and the level it drives there (R621). -/
def monPin (s : State) (m : Nat) : Option Nat :=
  if s.bit (Reg.lmCfg m) 22 then some (s.rdf (Reg.lmCfg m) 16 5) else none
def monLevel (s : State) (m : Nat) : Bool := s.bit Reg.relay m != s.bit (Reg.lmCfg m) 21

/-! ### The silent test -/

def State.vt (s : State) : Vt := s.sense.vt
def State.modVt (s : State) (f : Vt → Vt) : State := s.modSense fun q => { q with vt := f q.vt }
def State.vtSlot (s : State) (k : Nat) : VtSlot := tget VtSlot.none s.sense.vt.slots k
def State.setVtSlot (s : State) (k : Nat) (x : VtSlot) : State :=
  s.modVt fun v => { v with slots := tset VtSlot.none v.slots k x }

/-- A pass runs: the governing enable of VT_CFG, VT_BUF, VT_REF and the slot table. -/
def passRuns (s : State) : Bool := decide (1 ≤ s.vt.phase ∧ s.vt.phase ≤ 5)

def vtClaimant (s : State) : Nat := s.rdf Reg.vtCfg 8 4
def vtLevel (s : State) : Nat := s.rdf Reg.vtCfg 16 4
def vtPeriods (s : State) : Nat := max 1 (s.rdf Reg.vtCfg 0 7)
def slotValid (s : State) (k : Nat) : Bool := s.bit (Reg.slotWord k 0) 31
def slotZone (s : State) (k : Nat) : Nat := s.rdf (Reg.slotWord k 0) 0 7
def slotRef (s : State) (k : Nat) : Nat := s.rdf (Reg.slotWord k 0) 8 2
def slotGBase (s : State) (k : Nat) : Int := sfld (s.rd (Reg.slotWord k 4)) 0 16
def slotElat (s : State) (k : Nat) : Nat := s.rdf (Reg.slotWord k 4) 16 16
def slotVerdict (s : State) (k : Nat) : Nat := s.rdf (Reg.slotWord k 8) 16 3
def setVerdict (k v : Nat) (s : State) : State := s.wrf (Reg.slotWord k 8) 16 3 v
def refValid (s : State) (r : Nat) : Bool := s.bit (Reg.vtRef r) 31
def refLane (s : State) (r : Nat) : Nat := s.rdf (Reg.vtRef r) 0 10
/-- The valid slots and references of a pass. -/
def validSlots (s : State) : List Nat := (List.range 16).filter (slotValid s)
def validRefs (s : State) : List Nat := (List.range 4).filter (refValid s)
/-- The offset of a reference's accumulation buffer in the Crucible (R631). -/
def vtBuffer (s : State) (r : Nat) : Nat := (s.rd Reg.vtBuf).toNat + 0x80000 * r

/-- A pass begins: its slots' results are cleared and its claims queued (R630). -/
def passBegin (s : State) : State :=
  let s1 := s.modVt fun v => { v with phase := 1, hinges := 0, frame := 0, periods := 0, slots := [], abortDue := false, refBad := [],
                                      sumSq := [], releaseDue := false }
  (validSlots s).foldl (fun s k =>
    claimWrite (BitVec.ofNat 32 (slotZone s k + vtClaimant s * 256 + vtLevel s * 4096 + 65536))
      ((s.wrf (Reg.slotWord k 8) 16 4 0).setVtSlot k { VtSlot.none with live := true })) s1

/-- START (R630). -/
def passStart (s : State) : State :=
  if s.enabled 12 ∧ (s.vt.phase = 0 ∨ s.vt.phase = 6) ∧ (s.modes.mode = .service ∨ s.modes.mode = .watch)
      ∧ s.modes.sleep = .awake then
    if (validRefs s).any fun r => decide (0x800000 < vtBuffer s r + 0x80000) then vtEvent 1 s else passBegin s
  else s

/-- An abort is due at the next hinge while a pass runs (R635). -/
def abortPass (s : State) : State := if passRuns s then s.modVt fun v => { v with abortDue := true } else s

/-- A write of SENSE.VT_CTRL. -/
def vtCtrl (v : Word) (s : State) : State :=
  let s1 := if v.getLsbD 1 then abortPass s else s
  if v.getLsbD 0 then passStart s1 else s1

/-- A slot's stimulus fades to 0 over `n` M frames; it takes no further part (R633, R635). -/
def slotEnd (k n : Nat) (s : State) : State :=
  s.setVtSlot k { s.vtSlot k with
    live := false,
    fade := if 3 ≤ s.vt.phase ∧ (s.vtSlot k).fade = none then some (n, n) else (s.vtSlot k).fade }

/-- The claims of a pass are released, and younger ones move up (R346, R630, R635). -/
def passRelease (s : State) : State :=
  rerank ((validSlots s).foldl (fun s k => setClaim (slotZone s k) (vtClaimant s) none s) s)

/-- The end of an aborted pass (R635). -/
def abortNow (s : State) : State :=
  let s1 := (validSlots s).foldl (fun s k =>
    let s2 := if (s.vtSlot k).live then slotEnd k 16 s else s
    if slotVerdict s2 k = 0 then setVerdict k 4 s2 else s2) s
  vtEvent 1 ((passRelease s1).modVt fun v => { v with phase := 0, abortDue := false })

/-- The silent test at a hinge, ahead of arbitration: releases, aborts, and AMBIENT one hinge after START (R630). -/
def vtHingeBegin (s : State) : State :=
  let s1 := if s.vt.releaseDue then (passRelease s).modVt fun v => { v with releaseDue := false } else s
  if passRuns s1 && s1.vt.abortDue then abortNow s1
  else if s1.vt.phase = 1 then s1.modVt fun v => { v with phase := 2, hinges := 0 }
  else if s1.vt.phase = 2 then s1.modVt fun v => { v with hinges := v.hinges + 1 }
  else s1

/-- A slot's zone is won by another than CLAIMANT at LEVEL (R633). -/
def slotLost (s : State) (k : Nat) : Bool :=
  (zoneSt s (slotZone s k)).winner != some (vtClaimant s)
    || ((claimOf s (slotZone s k) (vtClaimant s)).map (·.level)) != some (vtLevel s)

/-- References that no block writes in the M domain (R634). -/
def refsCheck (s : State) : State :=
  let bad := (validRefs s).filter fun r => laneDom s (refLane s r) != some .m && !s.vt.refBad.contains r
  if bad = [] then s
  else
    let s1 := s.modVt fun v => { v with refBad := v.refBad ++ bad }
    vtEvent 4 ((validSlots s1).foldl (fun s k =>
      if bad.contains (slotRef s k) && slotVerdict s k == 0 then setVerdict k 5 s else s) s1)

/-- The silent test at a hinge, after arbitration (R633, R634). -/
def vtHingeEnd (s : State) : State :=
  if 2 ≤ s.vt.phase ∧ s.vt.phase ≤ 4 then
    let lost := (validSlots s).filter fun k => (s.vtSlot k).live && slotLost s k
    let s1 := lost.foldl (fun s k => setVerdict k 4 (slotEnd k 16 s)) s
    refsCheck (if lost = [] then s1 else vtEvent 3 s1)
  else if s.vt.phase = 5 ∨ s.vt.phase = 1 then refsCheck s
  else s

/-- One step of the sequence's recurrence: x^17 + x^14 + 1 or its mirror (R625, assumption 9). -/
def mlsStep (x : BitVec 17) : BitVec 17 :=
  (x >>> 1) ||| (if x.getLsbD 0 != x.getLsbD (if Config.mlsMirror then 3 else 14) then 0x10000#17 else 0#17)
/-- The first 17 bits, of which one is 1. -/
def mlsFirst : BitVec 17 := if Config.mlsStart = 0#17 then 1#17 else Config.mlsStart
/-- 17 bits of the sequence from bit n on. -/
def mlsFrom : Nat → BitVec 17
  | 0 => mlsFirst
  | n + 1 => mlsStep (mlsFrom n)
/-- The sequence's bit of frame n. -/
def mlsBit (n : Nat) : Bool := (mlsFrom n).getLsbD 0

/-- A slot's stimulus sample in sequence frame `f` (R625, R626). -/
def stimulus (s : State) (k f : Nat) : Int :=
  let a : Int := (s.vtSlot k).amp
  let v := if mlsBit ((f + 131071 * 16 - 8191 * k) % 131071) then a else -a
  if f + 1 < 480 then scaleOpen 33 v (f + 1) 480 else v

/-- One M frame of a slot's stimulus lane. -/
def stimulusFrame (k : Nat) (s : State) : State :=
  let x := s.vtSlot k
  match x.fade with
  | some (left, n) =>
    let v := scaleOpen 34 (stimulus s k s.vt.frame) (left - 1) n
    (s.lanePut (0x1D0 + k) (BitVec.ofInt 32 v)).setVtSlot k { x with fade := if left ≤ 1 then none else some (left - 1, n) }
  | none =>
    if x.live ∧ (s.vt.phase = 3 ∨ s.vt.phase = 4) then s.lanePut (0x1D0 + k) (BitVec.ofInt 32 (stimulus s k s.vt.frame))
    else s

/-- Clamp to −2^24 … 2^24 − 1 (R631). -/
def clampRef (w : Word) : Int := clampInt (-0x1000000) 0xFFFFFF w.toInt

/-- One reference's part of an M frame (R628, R631). -/
def refFrame (r : Nat) (s : State) : State :=
  let w := s.laneRead (refLane s r)
  if s.vt.phase = 2 then
    s.modVt fun v => { v with sumSq := tset 0 v.sumSq r (tget 0 v.sumSq r + w.toInt.natAbs * w.toInt.natAbs) }
  else if s.vt.phase = 4 then
    let a := 0x30000000 + vtBuffer s r + 4 * (s.vt.frame % 131071)
    s.mwr a 4 ((((s.mrd a 4 : Nat) : Int) + clampRef w) % (2 ^ 32 : Nat)).toNat
  else s

/-- The silent test's part of an M strike. -/
def vtFrame (s : State) : State :=
  let s1 := (validRefs s).foldl (fun s r => refFrame r s) s
  let s2 := (List.range 16).foldl (fun s k => stimulusFrame k s) s1
  if (3 ≤ s2.vt.phase ∧ s2.vt.phase ≤ 5) ∨ (s2.vt.slots.any fun x => x.2.fade.isSome) = true then
    s2.modVt fun v => { v with frame := v.frame + 1,
                               periods := if v.phase = 4 ∧ (v.frame + 1) % 131071 = 0 then v.periods + 1 else v.periods }
  else s2

/-- The end of AMBIENT, after 16000 hinges: each reference's level, then each slot's (R628, R629). A slot whose reference is not valid has no
measured ambient: it takes a value nothing fixes. -/
def ambientEnd (s : State) : State :=
  if s.vt.phase = 2 ∧ 16000 ≤ s.vt.hinges then
    let s1 := (validRefs s).foldl (fun s r =>
      s.wrn (Reg.vtAmb r) (db64 53 (tget 0 s.vt.sumSq r) (48000 * 2 ^ 48) % 65536).toNat) s
    let s2 := (validSlots s1).foldl (fun s k =>
      let d := if refValid s (slotRef s k) then (s.rd (Reg.vtAmb (slotRef s k)), s) else s.draw
      let want := sfld d.1 0 16 + sfld (s.rd Reg.vtParam) 0 16 - slotGBase s k
      let lvl := clampInt (-6144) (sfld (s.rd Reg.vtParam) 16 16) want
      let s3 := (d.2.wrf (Reg.slotWord k 8) 0 16 (lvl % 65536).toNat).wrb (Reg.slotWord k 8) 19 (decide (lvl ≠ want))
      s3.setVtSlot k { s3.vtSlot k with amp := ofDb lvl }) s1
    s2.modVt fun v => { v with phase := 3, frame := 0 }
  else s

/-- ACCUM begins with zeroed buffers, at sequence frame 131071 (R630, R631). -/
def prerollEnd (s : State) : State :=
  if s.vt.phase = 3 ∧ 131071 ≤ s.vt.frame then
    let s1 := (validRefs s).foldl (fun s r =>
      s.mclr (0x30000000 + vtBuffer s r) (0x30000000 + vtBuffer s r + 0x80000)) s
    s1.modVt fun v => { v with phase := 4, periods := 0 }
  else s

/-- ACCUM ends after N_PER periods: the stimulus fades out over 480 M frames (R630). -/
def accumEnd (s : State) : State :=
  if s.vt.phase = 4 ∧ vtPeriods s ≤ s.vt.periods then
    let s1 := (List.range 16).foldl (fun s k => if (s.vtSlot k).live then
      s.setVtSlot k { s.vtSlot k with fade := some (480, 480) } else s) s
    s1.modVt fun v => { v with phase := 5 }
  else s

/-- The words of a buffer. -/
def vtWords (s : State) (r : Nat) : List Word :=
  (List.range 131072).map fun n => BitVec.ofNat 32 (s.mrd (0x30000000 + vtBuffer s r + 4 * n) 4)

/-- The sum of words under the sequence's signs. -/
def mlsSum : BitVec 17 → List Word → Int
  | _, [] => 0
  | x, w :: ws => (if x.getLsbD 0 then w.toInt else -w.toInt) + mlsSum (mlsStep x) ws

/-- Word n of a reference's response: the circular correlation at lag n, scaled so that a unity-gain path has 2^24. Where the
slots that the reference judges do not all have one level, or the word does not hold the result, the rule does not say what
the word is (R636, assumption 9). -/
def responseWord (s : State) (r : Nat) (ws : List Word) (n : Nat) : Word :=
  let amps := ((validSlots s).filter fun k => (s.vtSlot k).live && decide (slotRef s k = r)).map fun k => (s.vtSlot k).amp
  let a := (amps[0]?).getD 0
  let h := scaleOpen 52 (mlsSum mlsFirst (ws.drop n ++ ws.take n)) 0x1000000 (131071 * vtPeriods s * a)
  if decide (a = 0) || amps.any (· != a) || decide (h < -0x80000000 ∨ 0x7FFFFFFF < h) then Config.response ws (vtPeriods s) n
  else BitVec.ofInt 32 h

/-- A reference's response replaces its buffer (R636). -/
def transformRef (r : Nat) (s : State) : State :=
  let ws := (vtWords s r).take 131071
  s.mwrBytes (0x30000000 + vtBuffer s r)
    (((List.range 131071).flatMap fun n => leBytes 4 (responseWord s r ws n).toNat) ++ leBytes 4 0)

/-- A slot's figures from its window of the response (R637): PEAK, its place, GAIN and SNR. Of several equal peaks the first
counts (assumption 9). -/
def slotFigures (h : List Word) : Int × Nat × Int × Int :=
  let mags := h.map fun w => w.toInt.natAbs
  let top := mags.foldl max 0
  let at_ := (mags.findIdx? (· == top)).getD 0
  let sum : Nat := mags.foldl (fun a m => a + m * m) 0
  let tail : Nat := (mags.drop 6144).foldl (fun a m => a + m * m) 0
  let peak := db64 54 (top * top) (2 ^ 48)
  (peak, at_, db64 55 sum (2 ^ 48), peak - db64 56 tail (2047 * 2 ^ 48))

/-- A slot's results and verdict (R637, R638). -/
def slotResult (k : Nat) (s : State) : State :=
  let r := slotRef s k
  if refValid s r then
    let h := (List.range 8191).map fun n => BitVec.ofNat 32 (s.mrd (0x30000000 + vtBuffer s r + 4 * (8191 * k + n)) 4)
    let g := slotFigures h
    let u := fun (x : Int) => (x % 65536).toNat
    let lag := u ((g.2.1 : Int) - slotElat s k)
    let s1 := (s.wrn (Reg.slotWord k 0xC) (u g.1 + u g.2.2.2 * 65536)).wrn (Reg.slotWord k 0x10) (u g.2.2.1 + lag * 65536)
    let verdict := if g.2.2.2 < sfld (s.rd Reg.vtThr) 0 16 then 3
      else if sfld (s.rd Reg.vtThr) 16 16 < ((g.2.2.1 - slotGBase s k).natAbs : Int) then 2 else 1
    if slotVerdict s k = 0 then setVerdict k verdict s1 else s1
  else s

/-- The correlation is complete: results, verdicts, DONE (R630, R636 to R638). -/
def transformEnd (s : State) : State :=
  if s.vt.phase = 5 then
    let s1 := (validRefs s).foldl (fun s r => transformRef r s) s
    let s2 := ((validSlots s1).filter fun k => (s1.vtSlot k).live).foldl (fun s k => slotResult k s) s1
    vtEvent 0 (s2.modVt fun v => { v with phase := 6, releaseDue := true })
  else s

/-- SENSE.VT_STAT as it reads. -/
def vtStatView (s : State) : Word := BitVec.ofNat 32 (s.vt.phase + s.vt.periods % 256 * 256)

/-- Everything SENSE does at a hinge but for the silent test. -/
def senseHinge (s : State) : State := (List.range 8).foldl (fun s m => monitorHinge m s) s

/-- VIGIL sleep: sampling, monitors and passes stop; on wake each enabled monitor starts new windows, keeping FAULT. -/
def senseWake (s : State) : State :=
  (List.range 8).foldl (fun s m =>
    let x := s.mon m
    if x.st = .off then s
    else s.setMon m { x with prevOut := false, age := none, formed := false, learned := [],
                             st := if x.st = .learn then .watch else x.st }) s

/-- SENSE's block reset, its registers apart: monitors OFF, counters at 0, a pass stopped with its lanes at 0. -/
def senseBlockReset (s : State) : State :=
  let s1 := (List.range 16).foldl (fun s k => s.lanePut (0x1D0 + k) 0#32) s
  s1.modSense fun _ => ⟨[], ⟨0, 0, 0, 0, [], false, [], [], false⟩⟩

end Sys2Proof.Machine
end

