-- ==== Sys2Proof/Machine/Ports.lean ====
section
/-! DEFINITION. Microphone lines, contacts, the monitor DAC and the serial ports (chapter 20), what needs the bus apart. -/

namespace Sys2Proof.Machine
open Sys2Proof

namespace Reg
def micAud (x : Nat) : Nat := 0x400F0204 + 0x40 * x
def micStat (x : Nat) : Nat := 0x400F0208 + 0x40 * x
def micEvt : Nat := 0x400F02C0
def micEvtSrc : Nat := 0x400F02C4
def monCfg : Nat := 0x400F0300
def ctEvt : Nat := 0x40010220
def hsErrAddr : Nat := 0x400F0108
def uartCtrl (k : Nat) : Nat := 0x400F0404 + 0x40 * k
def uartEvt (k : Nat) : Nat := 0x400F0414 + 0x40 * k
def canCtrl (k : Nat) : Nat := 0x400F1000 + 0x400 * k
def canEvt (k : Nat) : Nat := 0x400F1010 + 0x400 * k
def canTxb (k j i : Nat) : Nat := 0x400F1020 + 0x400 * k + 0x48 * j + 4 * i
def i2cCtrl (k : Nat) : Nat := 0x400F0704 + 0x40 * k
def i2cEvt (k : Nat) : Nat := 0x400F0710 + 0x40 * k
def gpioOut : Nat := 0x400F0800
def gpioOe : Nat := 0x400F0804
def gpioIrqCfg (k : Nat) : Nat := 0x400F0818 + 4 * k
def gpioEdge : Nat := 0x400F0820
def gpioIrqEn : Nat := 0x400F0824
def rilCfg : Nat := 0x400A0800
end Reg

def State.modPorts (s : State) (f : Ports → Ports) : State := { s with ports := f s.ports }
def State.setMic (s : State) (x : Nat) (m : MicLine) : State :=
  s.modPorts fun p => { p with mic := tset MicLine.init p.mic x m }

/-! ### Microphone lines -/

/-- The accessory type of an idle current in µA (R643). -/
def micType (i0 : Nat) : Nat :=
  ((List.range 6).find? fun k => decide (400 + 800 * k ≤ i0 ∧ i0 ≤ 800 + 800 * k)).elim 0 (· + 1)

/-- TYPE as the line knows it: 0 until it has been learnt, and outside PRESENT (R643). -/
def MicLine.type (m : MicLine) : Nat := if m.learnt then micType m.i0 else 0

/-- The buttons of an accepted code, as MIC_STAT's six held bits: PTT, CHIME, ZONE_1 to ZONE_4. -/
def heldOf (code : Nat) : Nat := b2n (decide (6 ≤ code)) + (if code % 6 = 0 then 0 else 2 ^ (code % 6))

/-- The valid code of a current above I0, if it yields one (R645): U is 250 µA, and ties lie outside the tolerance. -/
def buttonCode (d : Int) : Option Nat :=
  let c := (d + 125) / 250
  if 0 ≤ c ∧ c ≤ 11 ∧ (d - 250 * c).natAbs ≤ 75 then some c.toNat else none

def plugCode : Plug → Nat
  | .absent => 0
  | .inserting => 1
  | .present => 2
  | .short => 3
  | .disabled => 4

/-- The word MIC_STAT_x that a crossing-14 notification carries. -/
def micStatWord (s : State) (x : Nat) : Nat :=
  let m := s.mic x
  plugCode (micPlug s x) + m.type * 16 + m.code * 256 + heldOf m.code * 65536

/-- Post events of a line on crossing 14; bit 7 of a line's byte stands for a change of state without an event bit. -/
def micPost (x bits : Nat) (s : State) : State := noticePost 14 (BitVec.ofNat 32 ((bits + 128) * 256 ^ x)) s

/-- A crossing-14 notification has arrived: MIC_STAT_x of each line in it, and one MIC event for the bits of both lines
(R37, R42, R84, R646). MIC_EVT_SRC names the higher line that has a bit (assumption 10). -/
def micArrive (bits : Nat) (s : State) : State :=
  let part := fun (x : Nat) => bits / 256 ^ x % 256
  let s1 := (List.range 2).foldl (fun s x => if part x = 0 then s else s.wrn (Reg.micStat x) (micStatWord s x)) s
  let b := (List.range 5).filter fun i => part 0 / 2 ^ i % 2 = 1 ∨ part 1 / 2 ^ i % 2 = 1
  sqSet Reg.micEvt b (if part 1 % 32 ≠ 0 then s1.wrn Reg.micEvtSrc 1 else if part 0 % 32 ≠ 0 then s1.wrn Reg.micEvtSrc 0 else s1)

/-- The line leaves PRESENT, or is learnt afresh: every held button ends as a release and the code is 0. -/
def MicLine.release (m : MicLine) : MicLine := { m with code := 0, cand := 0, candRun := 0, learnt := false, i0n := 0, i0sum := 0 }

/-- A line enters another plug state, its runs at 0. -/
def MicLine.enter (p : Plug) (m : MicLine) : MicLine :=
  { (if m.plug = .present then m.release else m) with plug := p, runHi := 0, runLo := 0, runBig := 0 }

/-- The MIC_EVT bit of a move between plug states: INSERT on entry to PRESENT, SHORT on entry to SHORT, REMOVE on leaving
PRESENT or SHORT for ABSENT (DEDUCED, assumption 10). -/
def plugBits (a b : Plug) : Nat :=
  match a, b with
  | _, .present => 1
  | _, .short => 8
  | .present, .absent => 2
  | .short, .absent => 2
  | _, _ => 0

/-- Where one sample moves the plug state (R642). -/
def plugNext (i : Nat) (m : MicLine) : MicLine :=
  let big := if 10000 ≤ i then m.runBig + 1 else 0
  let low := if (if m.plug = .short then 10000 else 200) ≤ i then 0 else m.runLo + 1
  if m.plug ≠ .short ∧ 8 ≤ big then m.enter .short
  else match m.plug with
    | .absent => if 200 ≤ i then { m.enter .inserting with runHi := 1, runBig := big } else { m with runBig := big }
    | .inserting =>
      if i < 200 then m.enter .absent
      else if 50 ≤ m.runHi + 1 then { m.enter .present with runBig := big }
      else { m with runHi := m.runHi + 1, runBig := big }
    | .present => if 8 ≤ low then m.enter .absent else { m with runLo := low, runBig := big }
    | .short => if 8 ≤ low then m.enter .absent else { m with runLo := low }
    | .disabled => m

/-- A sample towards I0 (R643). -/
def learnStep (i : Nat) (m : MicLine) : MicLine :=
  let sum := m.i0sum + i
  if 16 ≤ m.i0n + 1 then { m with i0n := 0, i0sum := 0, i0 := (scaleOpen 40 sum 1 16).toNat, learnt := true }
  else { m with i0n := m.i0n + 1, i0sum := sum }

/-- Advance the press counter of every button in the new code and not in the old (R646). -/
def countPresses (old new : Nat) (ps : List (BitVec 16)) : List (BitVec 16) :=
  ps.mapIdx fun k p => if heldOf new / 2 ^ k % 2 = 1 ∧ heldOf old / 2 ^ k % 2 = 0 then p + 1#16 else p

/-- A sample in PRESENT with the type known: the button decoder (R645, R646), with the event bits it sets. -/
def decodeStep (i : Nat) (m : MicLine) : MicLine × Nat × Bool :=
  match buttonCode ((i : Int) - m.i0) with
  | none => ({ m with candRun := 0 }, 16, false)
  | some c =>
    let run := if m.candRun ≠ 0 ∧ m.cand = c then min 8 (m.candRun + 1) else 1
    if 8 ≤ run ∧ c ≠ m.code then
      ({ m with cand := c, candRun := run, code := c, presses := countPresses m.code c m.presses }, 0, true)
    else ({ m with cand := c, candRun := run }, 0, false)

/-- A DC-sense sample of a line whose bias is on (R642 to R646). -/
def dcSense (x i : Nat) (s : State) : State :=
  if s.bit (Reg.micDc x) 0 then
    let m := { s.mic x with latest := i }
    let m1 := plugNext i m
    if m.plug = .present ∧ m1.plug = .present then
      if m1.learnt then
        if m1.type = 0 then summaryCheck (s.setMic x m1)
        else
          let d := decodeStep i m1
          let s1 := summaryCheck (s.setMic x d.1)
          if d.2.1 ≠ 0 ∨ d.2.2 = true then micPost x d.2.1 s1 else s1
      else
        let m2 := learnStep i m1
        let s1 := summaryCheck (s.setMic x m2)
        if m2.type ≠ 0 then micPost x 4 s1 else s1
    else
      let s1 := summaryCheck (s.setMic x m1)
      if m1.plug = m.plug then s1 else micPost x (plugBits m.plug m1.plug) s1
  else s

/-- A change of BIAS_EN: the line starts in ABSENT, or reads DISABLED with every button released (R641). -/
def biasChange (x : Nat) (was : Bool) (s : State) : State :=
  let now := s.bit (Reg.micDc x) 0
  if was = now then summaryCheck s
  else
    let m := (s.mic x).enter .absent
    let bits := if !now && ((s.mic x).plug == .present || (s.mic x).plug == .short) then 2 else 0
    let s1 := s.setMic x { m with latest := 0 }
    micPost x bits (summaryCheck (s1.wrf (Reg.micStat x) 0 3 (if now then 0 else 4)))

/-- A write of 1 to RELEARN (R644). -/
def relearn (x : Nat) (s : State) : State :=
  let m := s.mic x
  if micPlug s x = .present then
    micPost x (if m.type ≠ 0 then 4 else 0) (s.setMic x m.release)
  else s

/-- A write of MIC_DC_x: BIAS_EN, BIAS_V and REQUIRED are kept; RELEARN acts. -/
def micDcWrite (x : Nat) (v : Word) (s : State) : State :=
  let s1 := biasChange x (s.bit (Reg.micDc x) 0) (s.wr (Reg.micDc x) (v &&& 0x7#32))
  if v.getLsbD 8 then relearn x s1 else s1

/-- A gain change that waits is applied (R649). -/
def gainChange (x : Nat) (s : State) : State :=
  let m := s.mic x
  if m.gainWait && m.gainDue then s.setMic x { m with gain := m.gainTo, gainWait := false, gainDue := false } else s

/-- The gate's target: by the state that the latest notification reported (R650). -/
def gateTargetOf (s : State) (x : Nat) : Bool :=
  s.rdf (Reg.micStat x) 0 3 == 2 && s.bit (Reg.micAud x) 0 && (!s.bit (Reg.micAud x) 1 || s.bit (Reg.micStat x) 16)

/-- The gain that MIC_AUD asks for at a hinge: a change starts its wait there (R649). -/
def gainAsked (g : Nat) (m : MicLine) : MicLine :=
  if g = m.gain then { m with gainWait := false, gainDue := false }
  else if m.gainWait ∧ m.gainTo = g then m
  else { m with gainWait := true, gainTo := g, gainAge := 0, gainDue := false }

/-- One M frame of a line whose sample has this sign: a gain waited for is due where the sign changes, or 480 frames after its hinge
(R649). -/
def gainFrame (neg : Bool) (m : MicLine) : MicLine :=
  { m with gainNeg := neg, gainAge := min 480 (m.gainAge + 1),
           gainDue := m.gainDue || (m.gainWait && (neg != m.gainNeg || decide (480 ≤ m.gainAge + 1))) }

/-- PORTS' buffered writes, and the gates' targets, at a hinge (R649, R650, R664). -/
def portsBuffered (s : State) : State :=
  let t := takeBuffered (fun a => decide (a / 0x10000 = 0x400F)) s
  let s1 := t.2.foldl (fun s x => s.wr x.1 x.2) t.1
  (List.range 2).foldl (fun s x =>
    let m := s.mic x
    s.setMic x (gainAsked (min 6 (s.rdf (Reg.micAud x) 4 3)) { m with gateUp := gateTargetOf s x })) s1

/-- A list's word, 0 where it is too short. -/
def wordAt (l : List Word) (k : Nat) : Word := (l[k]?).getD 0#32

/-- One M frame of a microphone line: the sample that reaches its lane, high-passed and gated (R648, R650). -/
def micFrame (x : Nat) (v : Word) (s : State) : State :=
  let m := s.mic x
  let on := s.bit (Reg.micAud x) 0
  let y := if s.bit (Reg.micAud x) 2 then Config.micHpf m.hpOut m.hpIn v else v
  let g := scaleMove m.gate m.gateUp
  let s1 := s.setMic x { gainFrame v.msb m with gate := g, hpIn := v, hpOut := y }
  s1.lanePut (0x1C0 + x) (if on ∨ m.gate ≠ 0 then scaled 41 y g else 0#32)

/-- One M frame of the converters: microphones 12 frames from ball to lane, sense channels 2 (R419, R648). -/
def convertersFrame (mic sense : List Word) (s : State) : State :=
  let s1 := s.modPorts fun p => { p with micPipe := (mic :: p.micPipe).take 12, sensePipe := (sense :: p.sensePipe).take 2 }
  let mics := (s1.ports.micPipe[11]?).getD []
  let sens := (s1.ports.sensePipe[1]?).getD []
  let s2 := (List.range 2).foldl (fun s x => micFrame x (wordAt mics x) s) s1
  (List.range 8).foldl (fun s n => s.lanePut (0x1C8 + n) (if s.bit Reg.chEn n then wordAt sens n else 0#32)) s2

/-- One M frame of the monitor DAC: two destinations out 16 frames later, clamped, and its fade (R663, R664). A fade to full
scale is not stated: it is at once (assumption 10). -/
def monitorFrame (s : State) : State :=
  let on := s.bit Reg.monCfg 0 && !s.bit Reg.monCfg 1
  let cl := fun (w : Word) => clampH24 (clampInt (-0x1000000) 0xFFFFFF w.toInt)
  let v := (cl (tget 0#32 s.weld.dest 0x1C0), cl (tget 0#32 s.weld.dest 0x1C1))
  s.modPorts fun p =>
    let scale := if on then 16 else p.monScale - 1
    let old := (p.monPipe[15]?).getD (0#32, 0#32)
    { p with monScale := scale, monL := scaled 42 old.1 scale, monR := scaled 42 old.2 scale,
             monPipe := (v :: p.monPipe).take 16 }

/-! ### Contacts -/

def State.setContact (s : State) (n : Nat) (c : Contact) : State :=
  s.modPorts fun p => { p with contacts := tset Contact.init p.contacts n c }

def ctFunc (s : State) (n : Nat) : Nat := s.rdf (Reg.ctCfg n) 0 3
def ctEnabled (s : State) (n : Nat) : Bool := s.bit (Reg.ctCfg n) 3

/-- One scan of a contact: the class accepted by it, if any, and the contact after it (R10, R654). -/
def contactStep (cls : Nat) (c : Contact) : Contact × Bool :=
  if cls = c.cls then ({ c with cand := cls, run := 0 }, false)
  else
    let run := if c.cand = cls then c.run + 1 else 1
    if 3 ≤ run then ({ c with cls := cls, cand := cls, run := 0, cnt := c.cnt + 1#16 }, true)
    else ({ c with cand := cls, run := run }, false)

/-- The fabric-side monitor sees a counter that has advanced: one CONTACT event with the number of transitions in bytes 8 and
9 of its record and the class in byte 10 (R659, R719, assumption 10). -/
def contactEvent (n : Nat) (s : State) : State :=
  let c := s.contact n
  if c.cnt = c.seen then s
  else
    let extra := BitVec.ofNat 32 ((c.cnt - c.seen).toNat + c.cls * 65536)
    sqSetX Reg.ctEvt [n] (some (if 2 ≤ c.cls then 4 else 2)) extra
      (s.setContact n { c with seen := c.cnt, seenCls := c.cls })

/-- A write of CT_CFG_n as it lands: a contact enabled, or disabled, has NORMAL as its accepted class (R655). -/
def ctCfgWrite (n : Nat) (v : Word) (s : State) : State :=
  let was := ctEnabled s n
  let s1 := s.wr (Reg.ctCfg n) (v &&& 0xFFF#32)
  if was = ctEnabled s1 n then s1
  else s1.setContact n { s1.contact n with cls := 0, cand := 0, run := 0, silenced := false }

/-- AON.CT_STAT: a disabled contact reads NORMAL (R655). -/
def ctStatView (s : State) : Word :=
  BitVec.ofNat 32 ((List.range 8).foldl (fun a n => a + (if ctEnabled s n then (s.contact n).cls else 0) * 4 ^ n) 0)

/-! ### UARTs (R673, R674) -/

def State.uart (s : State) (k : Nat) : Uart := tget Uart.init s.ports.uart k
def State.setUart (s : State) (k : Nat) (u : Uart) : State :=
  s.modPorts fun p => { p with uart := tset Uart.init p.uart k u }

/-- A write of UART_TXD_k (R673). -/
def uartTxd (k : Nat) (v : Word) (s : State) : State :=
  let u := s.uart k
  if 64 ≤ u.tx.length then sqSet (Reg.uartEvt k) [4] s
  else s.setUart k { u with tx := u.tx ++ [v.setWidth 8] }

/-- What a full-width read of UART_RXD_k returns (R674). -/
def uartRxdView (s : State) (k : Nat) : Word :=
  match (s.uart k).rx with
  | [] => 0x80000000#32
  | e :: _ => BitVec.ofNat 32 (e.1.toNat + 256 * b2n e.2.1 + 512 * b2n e.2.2.1 + 1024 * b2n e.2.2.2)

/-- The oldest receive entry is removed (R674). -/
def uartRxdPop (k : Nat) (s : State) : State := s.setUart k { s.uart k with rx := (s.uart k).rx.drop 1 }

/-- A character arrives (R674). -/
def characterReceived (k : Nat) (ch : Byte) (parity framing brk : Bool) (s : State) : State :=
  let u := s.uart k
  if s.bit (Reg.uartCtrl k) 0 then
    if 64 ≤ u.rx.length then sqSet (Reg.uartEvt k) [0] s
    else
      let bits := (if parity then [1] else []) ++ (if framing then [2] else []) ++ (if brk then [3] else [])
      sqSet (Reg.uartEvt k) bits (s.setUart k { u with rx := u.rx ++ [(ch, parity, framing, brk)] })
  else s

/-- The oldest character of the transmit FIFO leaves as a frame (R673). -/
def characterSent (k : Nat) (s : State) : State :=
  let u := s.uart k
  if s.bit (Reg.uartCtrl k) 0 then
    match u.tx with
    | [] => s
    | c :: t => s.setUart k { u with tx := t, out := u.out ++ [c] }
  else s

def uartStatView (s : State) (k : Nat) : Word :=
  BitVec.ofNat 32 ((s.uart k).tx.length + (s.uart k).rx.length * 65536)

/-! ### CAN FD controllers (R675 to R679) -/

def State.can (s : State) (k : Nat) : Can := tget Can.init s.ports.can k
def State.setCan (s : State) (k : Nat) (c : Can) : State :=
  s.modPorts fun p => { p with can := tset Can.init p.can k c }

/-- The data bytes that a DLC stands for (ISO 11898-1). -/
def dlcBytes (fd : Bool) (d : Nat) : Nat :=
  if d ≤ 8 ∨ !fd then min d 8
  else match d with
    | 9 => 12
    | 10 => 16
    | 11 => 20
    | 12 => 24
    | 13 => 32
    | 14 => 48
    | _ => 64

/-- The least DLC whose frame holds `n` data bytes. -/
def dlcOf (fd : Bool) (n : Nat) : Nat := ((List.range 16).find? fun d => decide (n ≤ dlcBytes fd d)).getD 15

/-- The 18 words of a frame as the windows lay it out (R678). -/
def canWord (f : CanFrame) (i : Nat) : Word :=
  match i with
  | 0 => BitVec.ofNat 32 (f.ident % 2 ^ 29 + b2n f.ext * 2 ^ 29 + b2n f.fd * 2 ^ 30 + b2n f.brs * 2 ^ 31)
  | 1 => BitVec.ofNat 32 (dlcOf f.fd f.data.length + b2n f.esi * 16 + b2n f.rtr * 32)
  | _ => BitVec.ofNat 32 (leNat ((f.data.drop (4 * (i - 2))).take 4))

/-- The frame that a transmit buffer holds. -/
def canBuffer (s : State) (k j : Nat) : CanFrame :=
  let w0 := s.rd (Reg.canTxb k j 0)
  let w1 := s.rd (Reg.canTxb k j 1)
  let fd := w0.getLsbD 30
  let n := dlcBytes fd (fld w1 0 4)
  ⟨fld w0 0 29, w0.getLsbD 29, fd, w0.getLsbD 31, w1.getLsbD 4, w1.getLsbD 5,
    ((List.range 16).flatMap fun i => leBytes 4 (s.rd (Reg.canTxb k j (i + 2))).toNat).take n⟩

/-- A controller can send: enabled, not listening only, not bus-off. -/
def canSends (s : State) (k : Nat) : Bool :=
  s.bit (Reg.canCtrl k) 0 && !s.bit (Reg.canCtrl k) 1 && !(s.can k).busOff

/-- A write of CAN_TXREQ_k. -/
def canTxreq (k : Nat) (v : Word) (s : State) : State :=
  let c := s.can k
  s.setCan k { c with pending := c.pending ++ (bitsOf 8 v.toNat).filter fun j => !c.pending.contains j }

/-- Is a buffer the pending one of lowest identifier (R677)? -/
def canNext (s : State) (k j : Nat) : Bool :=
  let c := s.can k
  c.pending.contains j && c.pending.all fun i => decide ((canBuffer s k j).ident ≤ (canBuffer s k i).ident)

/-- An error while sending: TEC advances by 8, error passive above 127, bus-off above 255 (R675 by ISO 11898-1, R679). -/
def canTxError (k : Nat) (s : State) : State :=
  let c := s.can k
  let t := c.tec + 8
  if 256 ≤ t then sqSet (Reg.canEvt k) [4, 5] (s.setCan k { c with tec := 255, busOff := true })
  else
    sqSet (Reg.canEvt k) (if c.tec < 128 ∧ 128 ≤ t then [3, 5] else [5]) (s.setCan k { c with tec := t })

/-- A controller finishes with a transmit buffer (R677). -/
def canFrameSent (k j : Nat) (r : CanEnd) (s : State) : State :=
  if canSends s k && canNext s k j then
    match r with
    | .sent =>
      let c := s.can k
      sqSet (Reg.canEvt k) [2] (s.setCan k { c with pending := c.pending.filter (· != j), tec := c.tec - 1,
                                                    sent := c.sent ++ [canBuffer s k j] })
    | .lost => s
    | .error => canTxError k s
  else s

/-- A frame received in error: the receive error counter advances, with ERR_PASSIVE as it reaches 128, and PROTO is set (ISO 11898-1 as R675 names
it; assumption 22). -/
def canRxError (k : Nat) (s : State) : State :=
  let c := s.can k
  sqSet (Reg.canEvt k) (if c.recErr = 127 then [3, 5] else [5]) (s.setCan k { c with recErr := min 255 (c.recErr + 1) })

/-- A frame received whole takes one from the receive error counter. -/
def canRxWell (k : Nat) (s : State) : State := s.setCan k { s.can k with recErr := (s.can k).recErr - 1 }

/-- A frame enters a controller's receive FIFO (R678). -/
def canFifo (k : Nat) (f : CanFrame) (s : State) : State :=
  let c := s.can k
  if 32 ≤ c.rx.length then sqSet (Reg.canEvt k) [1] s
  else sqSet (Reg.canEvt k) [0] (s.setCan k { c with rx := c.rx ++ [f] })

/-- What word `i` of the receive window reads as. -/
def canRxView (s : State) (k i : Nat) : Word :=
  match (s.can k).rx with
  | [] => 0#32
  | f :: _ => canWord f i

/-- A read of word 17 removes the frame (R678). -/
def canRxPop (k : Nat) (s : State) : State := s.setCan k { s.can k with rx := (s.can k).rx.drop 1 }

/-- Bus-off ends: by 128 times 11 recessive bits with AUTO_RECOVER, or by EN written 0 and then 1 (R679). -/
def canRejoin (k : Nat) (s : State) : State := s.setCan k { s.can k with busOff := false, tec := 0, recErr := 0 }
def busOffRecovery (k : Nat) (s : State) : State :=
  if (s.can k).busOff && s.bit (Reg.canCtrl k) 2 && s.bit (Reg.canCtrl k) 0 then canRejoin k s else s

/-- A write of CAN_CTRL_k. -/
def canCtrlWrite (k : Nat) (v : Word) (s : State) : State :=
  let was := s.bit (Reg.canCtrl k) 0
  let s1 := s.wr (Reg.canCtrl k) (v &&& 0x7#32)
  if !was && v.getLsbD 0 && (s1.can k).busOff then canRejoin k s1 else s1

/-- CAN_ERR_k as it reads: error passive above 127. -/
def canErrView (s : State) (k : Nat) : Word :=
  let c := s.can k
  BitVec.ofNat 32 (c.tec % 256 + c.recErr % 256 * 256
    + (if c.busOff then 2 else if 127 < c.tec ∨ 127 < c.recErr then 1 else 0) * 65536)

/-! ### I²C-bus controllers (R680 to R683) -/

def State.i2c (s : State) (k : Nat) : I2c := tget I2c.init s.ports.i2c k
def State.setI2c (s : State) (k : Nat) (c : I2c) : State :=
  s.modPorts fun p => { p with i2c := tset I2c.init p.i2c k c }

/-- A write of I2C_CMD_k appends a command. -/
def i2cCmd (k : Nat) (v : Word) (s : State) : State :=
  s.setI2c k { s.i2c k with cmds := (s.i2c k).cmds ++ [fld v 0 11] }

/-- The sequence ends early: the remaining commands are discarded, and the bus is let go (R682). -/
def i2cEnd (k bit : Nat) (s : State) : State :=
  sqSet (Reg.i2cEvt k) [bit] (s.setI2c k { s.i2c k with cmds := [], holding := false })

/-- The first command of a controller runs, if it is one of operation `op`: what it holds afterwards, the response entry it
places, and how it ended (R681, R682). -/
def i2cRun (k op : Nat) (entry : Nat → Option Nat) (r : I2cEnd) (s : State) : State :=
  let c := s.i2c k
  match c.cmds with
  | [] => s
  | w :: rest =>
    if s.bit (Reg.i2cCtrl k) 0 && w / 256 % 8 == op then
      let rsp := match entry (w % 256) with
        | none => c.rsp
        | some e => c.rsp ++ [e]
      let s1 := s.setI2c k ⟨rest, rsp, op != 5⟩
      match r with
      | .ack => if op = 5 then sqSet (Reg.i2cEvt k) [3] s1 else s1
      | .nack => if op = 1 ∨ op = 2 then i2cEnd k 0 s1 else s1
      | .arbLost => i2cEnd k 1 s1
    else s

/-- A response entry: data, NACK received, VALID (R681). -/
def i2cEntry (data : Nat) (nack : Bool) : Nat := data % 256 + 256 * b2n nack + 512

/-- SCL held low for more than 25 ms (R682). -/
def i2cTimeout (k : Nat) (s : State) : State := if s.bit (Reg.i2cCtrl k) 0 then i2cEnd k 2 s else s

/-- I2C_RSP_k: the oldest entry, or 0 with VALID clear; a full-width read removes it. -/
def i2cRspView (s : State) (k : Nat) : Word := BitVec.ofNat 32 ((s.i2c k).rsp.headD 0)
def i2cRspPop (k : Nat) (s : State) : State := s.setI2c k { s.i2c k with rsp := (s.i2c k).rsp.drop 1 }

/-! ### GPIO (R684 to R686) -/

/-- PORTS.GPIO_OWN: the pins that line monitors own (R622, R684). -/
def gpioOwn (s : State) : Nat := maskOf 32 fun n => (List.range 8).any fun m => monPin s m == some n

/-- The level a pin is driven to, if it is driven: by the monitor that owns it, or by GPIO_OUT where GPIO_OE is 1 (R621,
R622, R684). -/
def gpioDrive (s : State) (n : Nat) : Option Bool :=
  match (List.range 8).find? fun m => monPin s m == some n with
  | some m => some (monLevel s m)
  | none => if s.bit Reg.gpioOe n then some (s.bit Reg.gpioOut n) else none

/-- A pin's level changes (R685). -/
def gpioEdge (n : Nat) (level : Bool) (s : State) : State :=
  let was := s.ports.gpioIn.getLsbD n
  let s1 := s.modPorts fun p => { p with gpioIn := wsetBit p.gpioIn n level }
  let sel := s.rdf (Reg.gpioIrqCfg (n / 16)) (2 * (n % 16)) 2
  if was ≠ level ∧ (sel = 3 ∨ (sel = 1 ∧ level = true) ∨ (sel = 2 ∧ level = false)) then s1.wrb Reg.gpioEdge n true else s1

/-! ### Host SPI (R665 to R671), what needs no bus access -/

def State.modHs (s : State) (f : HostSpi → HostSpi) : State := s.modPorts fun p => { p with hs := f p.hs }

/-- One of the four error conditions is set: interrupt source 240. -/
def hsProto (s : State) : State := pulse 240 (s.modHs fun h => { h with proto := true })

/-- Is a transaction's ADDR and COUNT good (R669)? -/
def hsArgsOk (a : Word) (count : Nat) : Bool := decide (a.toNat % 4 = 0 ∧ 1 ≤ count ∧ count ≤ 64)

/-- Words enter the write FIFO, each with its address; one that finds it full is dropped and sets OVERRUN (R668). -/
def hsEnqueue (ws : List (Word × Word)) (s : State) : State :=
  ws.foldl (fun s w =>
    if 64 ≤ s.ports.hs.fifo.length then pulse 240 (s.modHs fun h => { h with overrun := true })
    else s.modHs fun h => { h with fifo := h.fifo ++ [w] }) s

/-- The port answers: not in VIGIL sleep (chapter 20). -/
def hsLives (s : State) : Bool := s.modes.sleep != .asleep && s.modes.sleep != .waking

/-- WRITE and WRITE_FIXED of COUNT words, of which `words` came whole before HSPI_CS_N rose; `step` is the distance of successive
addresses. A word written on a side of crossing 15 that is not ready is dropped and counted (R92). -/
def hsWrite (step : Nat) (a : Word) (count : Nat) (words : List Word) (s : State) : State :=
  if !hsLives s then s
  else if !tget false s.bus.readyFar 4 then (words.take count).foldl (fun s _ => xingDropped 4 s) s
  else if hsArgsOk a count then hsEnqueue ((words.take count).mapIdx fun i w => (a + BitVec.ofNat 32 (step * i), w)) s
  else hsProto s

/-- The status byte (R670). -/
def hsStatusByte (h : HostSpi) : Nat :=
  b2n (h.fifo != []) + 2 * b2n h.wrErr + 4 * b2n h.rdErr + 8 * b2n h.overrun + 16 * b2n h.proto

/-- STATUS (R670). -/
def hostStatus (s : State) : State :=
  if !hsLives s then s
  else s.modHs fun h => { h with answer := [BitVec.ofNat 32 (hsStatusByte h)], wrErr := false, rdErr := false,
                                 overrun := false, proto := false }

/-- HOST_IRQ_N is driven low (R672). -/
def hostIrq (s : State) : Bool := decide (s.rd 0x400F0100 &&& s.rd 0x400F0104 ≠ 0#32)

/-- PORTS' block reset, its registers apart: contacts, the latch and the summary are not affected. -/
def portsBlockReset (s : State) : State :=
  let s1 := (s.lanePut 0x1C0 0#32).lanePut 0x1C1 0#32
  summaryCheck (s1.modPorts fun p => { p with
    mic := [], uart := [], can := [], i2c := [], hs := ⟨[], false, false, false, false, []⟩,
    monScale := 0, monL := 0#32, monR := 0#32, micPipe := [], monPipe := [] })

end Sys2Proof.Machine
end

