-- ==== Sys2Proof/Machine/Keep.lean ====
section
/-! DEFINITION. The Keep controller, clips and message players, the record bucket, firmware records and the journal
(chapter 21). -/

namespace Sys2Proof.Machine
open Sys2Proof

namespace Reg
def msgRun : Nat := 0x400D0020
def msgEvt : Nat := 0x400D0024
def msgEvtSrc : Nat := 0x400D0028
def clipBase : Nat := 0x400D002C
def clipCount : Nat := 0x400D0030
def msgOwn (k : Nat) : Nat := 0x400D0034 + 4 * k
def planStat : Nat := 0x400D0040
def planNodes : Nat := 0x400D0044
def planBuild : Nat := 0x400D0048
def plScript (p : Nat) : Nat := 0x400D0100 + 0x20 * p
def plCfg (p : Nat) : Nat := 0x400D0104 + 0x20 * p
def plUnder (p : Nat) : Nat := 0x400D0110 + 0x20 * p
def keepBuf (i : Nat) : Nat := 0x400D0400 + 4 * i
def keepCmd : Nat := 0x400D0440
def keepStat : Nat := 0x400D0444
def keepEvt : Nat := 0x400D0448
def keepEcc : Nat := 0x400D044C
def evtJfails : Nat := 0x400E003C
def evtFwRec (i : Nat) : Nat := 0x400E0200 + 4 * i
end Reg

def State.modMsg (s : State) (f : Msg → Msg) : State := { s with msg := f s.msg }
def State.modEvt (s : State) (f : Evt → Evt) : State := { s with evt := f s.evt }
def keepEvent (bit : Nat) (s : State) : State := sqSet Reg.keepEvt [bit] s
def msgEvents (bits : List Nat) (p : Nat) (s : State) : State := sqSet Reg.msgEvt bits (s.wrn Reg.msgEvtSrc p)

/-! ### The Keep (R687 to R694) -/

/-- The base of the Keep and its size. -/
def keepBase : Nat := 0x50000000
def keepSize : Nat := 0x800000

/-- The partitions of the Keep by offset (chapter 2); the K slot lies in the last of them (R797). -/
inductive KeepPart where
  | fallback | journal | dictionary | boot | user | kSlot
  deriving DecidableEq, Repr

def keepPart (off : Nat) : KeepPart :=
  if off < 0x400000 then .fallback else if off < 0x500000 then .journal else if off < 0x600000 then .dictionary
  else if off < 0x680000 then .boot else if off < 0x700000 then .user else .kSlot

/-- The write ports of the Keep controller: 0 Warden, 1 dictionary engine, 2 event journal, 3 software. May a port write a
partition (R689)? -/
def mayProgram (evacuate : Bool) (port : Nat) : KeepPart → Bool
  | .fallback => port == 0 && !evacuate
  | .journal => port == 2
  | .dictionary => port == 1
  | .boot => port == 0
  | .user => port == 3 || port == 0
  | .kSlot => port == 0

def State.keepLine (s : State) (port : Nat) : Option KeepLine := tget none s.msg.keep port
def setKeepLine (port : Nat) (l : Option KeepLine) (s : State) : State :=
  s.modMsg fun m => { m with keep := tset none m.keep port l }

/-- The port served next after the one served last, round robin (R688). -/
def nextPort (s : State) : Option Nat :=
  ([1, 2, 3, 4].map fun k => (s.msg.rr + k) % 4).find? fun p => (s.keepLine p).isSome

/-- The controller, when it is free, starts on the next port's line. -/
def keepServe (s : State) : State :=
  match s.msg.prog with
  | some _ => s
  | none => match nextPort s with
    | some p => s.modMsg fun m => { m with prog := some p, rr := p }
    | none => s

/-- A port takes a line to program; a partition the port may not write is refused (R689). -/
def keepOffer (port off : Nat) (bytes : List Byte) (s : State) : State :=
  if mayProgram (s.modes.mode == .evacuate) port (keepPart off) then
    keepServe (setKeepLine port (some ⟨off, bytes, false⟩) s)
  else keepEvent 1 s

/-- The bytes of `n` words that nothing fixes. -/
def drawBytes : Nat → State → List Byte × State
  | 0, s => ([], s)
  | n + 1, s =>
    let d := s.draw
    let r := drawBytes n d.2
    (leBytes 4 d.1.toNat ++ r.1, r.2)

/-- What a port is told of its line (R691, R694, R727). -/
def keepReport (port : Nat) (ok : Bool) (s : State) : State :=
  match port with
  | 3 => keepEvent (if ok then 0 else 2) (s.wrn Reg.keepStat (if ok then 0 else 2))
  | 2 => if ok then s else sqSet Reg.evtEvt [2] (s.incSat Reg.evtJfails)
  | _ => s

/-- A line program ends: it reads back, is tried once more, or fails with its contents undefined (R691). -/
def lineProgramDone (readsBack : Bool) (s : State) : State :=
  match s.msg.prog with
  | none => s
  | some p => match s.keepLine p with
    | none => keepServe (s.modMsg fun m => { m with prog := none })
    | some l =>
      if readsBack then
        let s1 := setKeepLine p none ((s.mwrBytes (keepBase + l.off) l.bytes).modMsg fun m => { m with prog := none })
        keepReport p true (keepServe s1)
      else if l.retried then
        let d := drawBytes 16 s
        let s1 := setKeepLine p none ((d.2.mwrBytes (keepBase + l.off) d.1).modMsg fun m => { m with prog := none })
        keepReport p false (keepServe s1)
      else setKeepLine p (some { l with retried := true }) s

/-- The software port programs a line while KEEP_STAT.BUSY is 1. -/
def keepBusy (s : State) : Bool := (s.keepLine 3).isSome
def keepStatView (s : State) : Word := BitVec.ofNat 32 (b2n (keepBusy s) + s.rdf Reg.keepStat 1 1 * 2)

/-- A write of MSG.KEEP_BUF_i (R694). -/
def keepBufWrite (i : Nat) (v : Word) (s : State) : State :=
  if keepBusy s then keepEvent 4 s else s.wr (Reg.keepBuf i) v

/-- A write of MSG.KEEP_CMD (R694). -/
def keepCmdWrite (v : Word) (s : State) : State :=
  if keepBusy s then keepEvent 4 s
  else
    let s1 := s.wr Reg.keepCmd (v &&& 0x1FFFF#32)
    if v.getLsbD 31 then
      keepOffer 3 (64 * fld v 0 17) ((List.range 16).flatMap fun i => leBytes 4 (s.rd (Reg.keepBuf i)).toNat) s1
    else s1

/-- What a read of the Keep leaves: corrected words are counted, an uncorrectable one raises its event (R692), once MSG
is out of reset. -/
def keepNoted (a n : Nat) (s : State) : State :=
  let h := if s.ward.release.getLsbD 13 then eccHit s a n else (0, false)
  let s1 := if h.1 = 0 then s else s.addSat Reg.keepEcc h.1
  if h.2 then keepEvent 3 s1 else s1

/-! ### Clips (R695 to R699) -/

def isHearth (a n : Nat) : Bool := decide (0x20000000 ≤ a ∧ a + n ≤ 0x20200000)
def isKeep (a n : Nat) : Bool := decide (keepBase ≤ a ∧ a + n ≤ keepBase + keepSize)

/-- One clip's entry. -/
structure Clip where
  off : Nat
  flash : Bool
  valid : Bool
  samples : Nat
  format : Nat
  index : Nat
  pred : Int
  gain : Nat

/-- The clip table that a player reads: the device's, or the plan's (R701). -/
def clipTable (s : State) (p : Nat) : Nat × Nat :=
  if s.bit (Reg.plCfg p) 0 then (s.msg.planClips, s.msg.planCount)
  else ((s.rd Reg.clipBase).toNat / 16 * 16, min 4096 (s.rdf Reg.clipCount 0 13))

def clipAt (s : State) (p k : Nat) : Clip :=
  let a := (clipTable s p).1 + 16 * k
  let w := fun i => BitVec.ofNat 32 (s.mrd (a + 4 * i) 4)
  ⟨fld (w 0) 0 29, (w 0).getLsbD 30, (w 0).getLsbD 31, (w 1).toNat, fld (w 2) 0 2, fld (w 2) 8 7, sfld (w 2) 16 16,
    fld (w 3) 0 16⟩

/-- How many bytes a clip's samples take. -/
def Clip.bytes (c : Clip) : Nat :=
  match c.format with
  | 2 => (c.samples + 1) / 2
  | 3 => 4 * c.samples
  | _ => 2 * c.samples

/-- Is a clip of a table bad (R695)? -/
def clipBad (s : State) (p k : Nat) : Bool :=
  let c := clipAt s p k
  decide ((clipTable s p).2 ≤ k) || !c.valid || decide (c.format = 2 ∧ 88 < c.index)
    || decide ((if c.flash then 2 ^ 29 else keepSize) < c.off + c.bytes)

/-- Does a clip hold 16 kHz samples? -/
def Clip.slow (c : Clip) : Bool := c.format == 0 || c.format == 2

/-- The play frames of a clip (R697). -/
def Clip.frames (c : Clip) : Nat := if c.slow then 3 * c.samples else c.samples

/-- A byte of a clip's source: the players read the fallback and user partitions of the Keep, others read as 0 (R689,
R690), and the flash at its own offset (R698). -/
def clipByte (s : State) (c : Clip) (i : Nat) : Byte :=
  if c.flash then memGet s.flash (c.off + i)
  else match keepPart (c.off + i) with
    | .fallback => memGet s.mem (keepBase + c.off + i)
    | .user | .kSlot => memGet s.mem (keepBase + c.off + i)
    | _ => 0#8

/-- The step sizes of the IMA ADPCM algorithm (PRESUMED, assumption 12). -/
def imaSteps : List Nat :=
  [7, 8, 9, 10, 11, 12, 13, 14, 16, 17, 19, 21, 23, 25, 28, 31, 34, 37, 41, 45, 50, 55, 60, 66, 73, 80, 88, 97, 107, 118,
    130, 143, 157, 173, 190, 209, 230, 253, 279, 307, 337, 371, 408, 449, 494]
  ++ [544, 598, 658, 724, 796, 876, 963, 1060, 1166, 1282, 1411, 1552, 1707, 1878, 2066, 2272, 2499, 2749, 3024, 3327,
    3660, 4026, 4428, 4871, 5358, 5894, 6484, 7132, 7845, 8630, 9493, 10442, 11487, 12635, 13899, 15289, 16818, 18500,
    20350, 22385, 24623, 27086, 29794, 32767]

/-- One nibble of IMA ADPCM: predictor and step index after it. -/
def imaStep (st : Int × Nat) (nib : Nat) : Int × Nat :=
  let step := (imaSteps[st.2]?).getD 7
  let d := step / 8 + (if nib / 4 % 2 = 1 then step else 0) + (if nib / 2 % 2 = 1 then step / 2 else 0)
    + (if nib % 2 = 1 then step / 4 else 0)
  let p := clampInt (-32768) 32767 (if 8 ≤ nib then st.1 - d else st.1 + d)
  let i : Int := (st.2 : Int) + (if nib % 8 < 4 then (-1 : Int) else 2 * ((nib % 8 : Nat) : Int) - 6)
  (p, (clampInt 0 88 i).toNat)

/-- Sample `i` of a clip before GAIN, in H24 units (R696). -/
def clipRaw (s : State) (c : Clip) (i : Nat) : Int :=
  match c.format with
  | 2 =>
    let st := (List.range (i + 1)).foldl (fun st k =>
      let b := (clipByte s c (k / 2)).toNat
      imaStep st (if k % 2 = 0 then b % 16 else b / 16)) (c.pred, c.index)
    st.1 * 512
  | 3 => (BitVec.ofNat 32 (leNat ((List.range 4).map fun k => clipByte s c (4 * i + k)))).toInt
  | _ => (BitVec.ofNat 16 (leNat ((List.range 2).map fun k => clipByte s c (2 * i + k)))).toInt * 512

/-- Sample `i` of a clip: times GAIN / 0x8000, halves towards +∞, clamped (R696); 0 outside the clip. -/
def clipSample (s : State) (c : Clip) (i : Int) : Word :=
  if 0 ≤ i ∧ i < c.samples then clampH24 ((clipRaw s c i.toNat * c.gain + 0x4000) / 0x8000) else 0#32

/-- The value a clip gives in play frame `f` of its own; a 16 kHz clip's passes through the interpolator (R697). -/
def clipValue (c : Clip) (f : Nat) (s : State) : Word × State :=
  if c.slow then
    let d := s.draw
    (Config.interp16 d.1 (f % 3) ((List.range 33).map fun (k : Nat) => clipSample s c (((f / 3 + k : Nat) : Int) - 16)), d.2)
  else (clipSample s c f, s)

/-- Where a clip's sample lies in its source: offset and bytes. -/
def Clip.place (c : Clip) (i : Nat) : Nat × Nat :=
  match c.format with
  | 2 => (c.off + i / 2, 1)
  | 3 => (c.off + 4 * i, 4)
  | _ => (c.off + 2 * i, 2)

/-- The sample that play frame `f` of a clip reads, if it reads one. -/
def Clip.sampleAt (c : Clip) (f : Nat) : Option Nat :=
  if c.slow then (if f % 3 = 0 then some (f / 3) else none) else some f

/-- The state after the reads of play frame `f`, and whether the source has failed there (R692, R699). -/
def clipRead (c : Clip) (f : Nat) (s : State) : Bool × State :=
  match c.sampleAt f with
  | some i =>
    let p := c.place i
    if c.flash then (false, s) else ((eccHit s (keepBase + p.1) p.2).2, keepNoted (keepBase + p.1) p.2 s)
  | none => (false, s)

/-- May a clip's data be late: from the flash, or from a Keep bank that a line program occupies (R687, R699; assumption
12)? -/
def clipMayWait (s : State) (c : Clip) (f : Nat) : Bool :=
  c.flash || (match s.msg.prog with
    | some p => (match s.keepLine p, c.sampleAt f with
      | some l, some i => decide (l.off / 0x100000 = (c.place i).1 / 0x100000)
      | _, _ => false)
    | none => false)

/-! ### Players (R700 to R709) -/

def State.player (s : State) (p : Nat) : Player := tget Player.off s.msg.players p
def State.setPlayer (s : State) (p : Nat) (x : Player) : State :=
  s.modMsg fun m => { m with players := tset Player.off m.players p x }

def playerOwner (s : State) (p : Nat) : Nat := s.rdf (Reg.msgOwn (p / 8)) (4 * (p % 8)) 4

/-- The script word that is `k` words on from the one a player has reached, if it lies in the Hearth or the Keep (R702,
R703). -/
def scriptWord (s : State) (p k : Nat) : Option Word :=
  let a := (s.rd (Reg.plScript p)).toNat / 4 * 4 + 4 * ((s.player p).word + k)
  if isHearth a 4 || isKeep a 4 then some (BitVec.ofNat 32 (s.mrd a 4)) else none

/-- A player's sequencer has reached its next operation: it runs, and neither a clip, a gap nor a tone is under way. -/
def Player.ready (x : Player) : Bool :=
  (x.st == .play || x.st == .gap) && decide (x.left = 0) && decide (x.queue = [])

/-- The player stops as STOP does: 0 from its frame, its run bit cleared, the events set (R703, R707). -/
def playerStop (p : Nat) (bits : List Nat) (s : State) : State :=
  msgEvents bits p (clearBoth Reg.msgRun p ((s.lanePut (0x240 + p) 0#32).setPlayer p Player.off))

/-- The clips of a SPELL or LIST, or of a PLAY: those that are bad take no frames (R695); the first that is good starts. -/
def playList (p : Nat) : List Nat → State → State
  | [], s => s.setPlayer p { s.player p with queue := [] }
  | k :: ks, s =>
    if clipBad s p k then playList p ks (msgEvents [3] p s)
    else if (clipAt s p k).frames = 0 then playList p ks s
    else s.setPlayer p { s.player p with st := .play, clip := k, left := (clipAt s p k).frames, queue := ks, failed := false }

/-- Move on by `n` words. -/
def skipWords (p n : Nat) (s : State) : State := s.setPlayer p { s.player p with word := (s.player p).word + n }

/-- An operation that takes no frames is one more in a row; the sixteenth stops the player (R703). -/
def countOp (p : Nat) (k : State → State) (s : State) : State :=
  let x := s.player p
  if 16 ≤ x.ops + 1 then playerStop p [0, 2] s else k (s.setPlayer p { x with ops := x.ops + 1 })

/-- The sequencer reaches an operation `op` and performs `k` with its word; a word out of place or an OP that is not
assigned stops the player (R702, R703). -/
def opReached (p op : Nat) (k : Word → State → State) (s : State) : State :=
  if (s.player p).ready then
    match scriptWord s p 0 with
    | none => playerStop p [0, 2] s
    | some w =>
      if 7 ≤ fld w 28 4 then playerStop p [0, 2] s
      else if fld w 28 4 = op then k w s else s
  else s

def playOp (p : Nat) (s : State) : State :=
  opReached p 1 (fun w s => playList p [fld w 0 12] (skipWords p 1 s)) s

def gapOp (p : Nat) (s : State) : State :=
  opReached p 2 (fun w s =>
    let s1 := skipWords p 1 s
    s1.setPlayer p { s1.player p with st := .gap, left := fld w 0 24 }) s

def stopOp (p : Nat) (s : State) : State := opReached p 0 (fun _ s => playerStop p [0] s) s

/-- A count-0 JUMP always jumps; another jumps COUNT times, then goes on (R702, DEDUCED, assumption 12). -/
def jumpOp (p : Nat) (s : State) : State :=
  opReached p 6 (fun w s => countOp p (fun s =>
    let x := s.player p
    let cnt := fld w 16 8
    let left := (tget none x.jumps x.word).getD cnt
    if cnt = 0 then s.setPlayer p { x with word := fld w 0 12 }
    else if left = 0 then s.setPlayer p { x with word := x.word + 1, jumps := tset none x.jumps x.word none }
    else s.setPlayer p { x with word := fld w 0 12, jumps := tset none x.jumps x.word (some (left - 1)) }) s) s

/-- The digits of a number, most significant first, from the most significant that is not 0; `n` digits in all. -/
def spellDigits (n v : Nat) : List Nat :=
  let ds := ((List.range n).map fun i => v / 16 ^ (n - 1 - i) % 16).dropWhile (· == 0)
  if ds = [] then [0] else ds

/-- The value of a packed-decimal number. -/
def bcdValue (n v : Nat) : Nat := (List.range n).foldl (fun a i => a + v / 16 ^ i % 16 * 10 ^ i) 0

/-- SPELL (R704). -/
def spellOp (p : Nat) (s : State) : State :=
  opReached p 3 (fun w s => match scriptWord s p 1 with
    | none => playerStop p [0, 2] s
    | some a =>
      let n := if w.getLsbD 27 then 16 else 8
      if isHearth a.toNat (n / 2) || isKeep a.toNat (n / 2) then
        countOp p (fun s =>
          let v := s.mrd a.toNat (n / 2)
          let s1 := skipWords p 2 s
          if (List.range n).any fun i => decide (9 < v / 16 ^ i % 16) then msgEvents [5] p s1
          else if w.getLsbD 26 && decide (bcdValue n v ≤ 99) then playList p [fld w 0 12 + bcdValue n v] s1
          else playList p ((spellDigits n v).map fun d => fld w 0 12 + d) s1) s
      else playerStop p [0, 2] s) s

/-- Drop leading entries equal to ZERO, but not the last (R705). -/
def dropZeros (z : Nat) : List Nat → List Nat
  | [] => []
  | [a] => [a]
  | a :: b :: t => if a = z then dropZeros z (b :: t) else a :: b :: t

/-- LIST (R702, R705). -/
def listOp (p : Nat) (s : State) : State :=
  opReached p 4 (fun w s => match scriptWord s p 1 with
    | none => playerStop p [0, 2] s
    | some a =>
      let n := fld w 20 8
      if isHearth a.toNat (4 * n) || isKeep a.toNat (4 * n) then
        countOp p (fun s =>
          let l := (List.range n).map fun i => s.mrd (a.toNat + 4 * i) 4 % 4096
          playList p (if w.getLsbD 16 then dropZeros (fld w 0 12) l else l) (skipWords p 2 s)) s
      else playerStop p [0, 2] s) s

/-- A bit of a WB register as it will be: its shadow where one waits. -/
def shadowOf (s : State) (a : Nat) : Word := (tget none s.wbPend a).getD (s.rd a)

/-- TONE (R706): the run bit is set in its shadow, so that the generator starts at the next hinge. -/
def toneOp (p : Nat) (s : State) : State :=
  opReached p 5 (fun w s =>
    let g := fld w 0 6
    let rb := runBit g
    let s1 := { s with wbPend := tset none s.wbPend rb.1 (some (wsetBit (shadowOf s rb.1) rb.2 true)) }
    let s2 := setToneOwner g (playerOwner s p) (s1.setGen g { s1.gen g with cycles := fld w 8 8 })
    let s3 := skipWords p 1 s2
    s3.setPlayer p { s3.player p with st := .tone, toneGen := g, toneRan := false }) s

/-- A player begins at a hinge (R701). -/
def playerStart (p : Nat) (s : State) : State := s.setPlayer p { Player.off with st := .play }

/-- A run bit cleared at a hinge: the lane fades over 16 M frames, a generator that a waiting TONE started stops, STOPPED
(R707). -/
def playerFade (p : Nat) (s : State) : State :=
  let x := s.player p
  if x.st = .off ∨ x.st = .ending then s
  else
    let s1 := if x.st = .tone then
        toneFall x.toneGen (clearBoth (runBit x.toneGen).1 (runBit x.toneGen).2 s)
      else s
    msgEvents [1] p (s1.setPlayer p { x with st := .ending, queue := [], left := 0, fade := 16 })

/-- MSG's buffered writes at a hinge. -/
def msgBuffered (s : State) : State :=
  let t := takeBuffered (fun a => decide (a / 0x10000 = 0x400D)) s
  t.2.foldl (fun s x =>
    let old := s.rd x.1
    let s1 := s.wr x.1 x.2
    if x.1 = Reg.msgRun then
      (List.range 16).foldl (fun s p =>
        if x.2.getLsbD p then (if old.getLsbD p ∧ (s.player p).st ≠ .ending then s else playerStart p s)
        else playerFade p s) s1
    else s1) t.1

/-- The value of a clip's next play frame: silence once its source has failed, and while its data is late, which nothing
tells (R699). -/
def playerValue (p : Nat) (s : State) : Word × State :=
  let x := s.player p
  let c := clipAt s p x.clip
  let f := c.frames - x.left
  if x.failed then (0#32, s)
  else
    let r := clipRead c f s
    let d := r.2.draw
    if r.1 then (0#32, msgEvents [3] p (r.2.setPlayer p { x with failed := true }))
    else if clipMayWait s c f && d.1.getLsbD 0 then (0#32, msgEvents [4] p (d.2.incSat (Reg.plUnder p)))
    else clipValue c f (if clipMayWait s c f then d.2 else r.2)

/-- The sequencer at its next operation, whichever it is (R702). -/
def scriptOp (p : Nat) (s : State) : State :=
  match (scriptWord s p 0).map (fld · 28 4) with
  | some 1 => playOp p s
  | some 2 => gapOp p s
  | some 3 => spellOp p s
  | some 4 => listOp p s
  | some 5 => toneOp p s
  | some 6 => jumpOp p s
  | _ => stopOp p s

/-- The operations that a player reaches by a frame and that no command has performed yet: they take no frames, so the frame is that of the
first one that does (R702, R703). -/
def scriptOps (p : Nat) : Nat → State → State
  | 0, s => s
  | n + 1, s => if (s.player p).ready then scriptOps p n (scriptOp p s) else s

/-- One M frame of a player (R699 to R701, R706, R707). -/
def playerFrame (p : Nat) (s : State) : State :=
  let x := s.player p
  let out := fun (v : Word) (s : State) => s.lanePut (0x240 + p) v
  match x.st with
  | .off => out 0#32 s
  | .ending =>
    if x.fade = 0 then out 0#32 (s.setPlayer p Player.off)
    else out (sixteenths 50 x.val (x.fade - 1)) (s.setPlayer p { x with fade := x.fade - 1 })
  | .gap => out 0#32 (s.setPlayer p { x with left := x.left - 1, frame := x.frame + 1, val := 0#32,
                                             ops := if x.left = 0 then x.ops else 0 })
  | .tone =>
    let on := decide ((s.gen x.toneGen).st ≠ .off)
    let x1 := { x with frame := x.frame + 1, val := 0#32, ops := 0, toneRan := x.toneRan || on }
    out 0#32 (s.setPlayer p (if x.toneRan && !on then { x1 with st := .play } else x1))
  | .play =>
    if x.left = 0 then out 0#32 (s.setPlayer p { x with frame := x.frame + 1, val := 0#32 })
    else
      let v := playerValue p s
      let y := v.2.player p
      let s1 := out v.1 (v.2.setPlayer p { y with left := x.left - 1, frame := x.frame + 1, val := v.1, ops := 0 })
      if x.left = 1 ∧ x.queue ≠ [] then playList p x.queue s1 else s1

def playersFrame (s : State) : State :=
  (List.range 16).foldl (fun s p => playerFrame p (scriptOps p 4096 s)) s

/-- PL_STAT_p as it reads. -/
def playCode : PlaySt → Nat
  | .off => 0
  | .play => 1
  | .gap => 2
  | .tone => 3
  | .ending => 4
def plStatView (s : State) (p : Nat) : Word :=
  let x := s.player p
  BitVec.ofNat 32 (playCode x.st + x.word % 4096 * 16 + x.clip % 4096 * 65536)

/-- MSG's block reset, its registers apart: every player stops without a fade. -/
def msgBlockReset (s : State) : State :=
  let s1 := (List.range 16).foldl (fun s p => s.lanePut (0x240 + p) 0#32) s
  keepServe (s1.modMsg fun m => { m with
    players := [], planClips := 0, planCount := 0, keep := tset none m.keep 3 none,
    prog := if m.prog = some 3 then none else m.prog })

/-! ### The event log (R718 to R727); making a record is `makeRecord` -/

/-- The bucket refills by 16 up to 64 where 250 hinges have elapsed while EVT is enabled (R722). -/
def bucketRefill (s : State) : State :=
  if s.enabled 14 && decide (250 ≤ s.evt.hinges) then
    s.modEvt fun e => { e with bucket := min 64 (e.bucket + 16), hinges := e.hinges - 250 }
  else s

/-- EVT counts a hinge: for the bucket, and for a record that waits alone for its journal line (R722, R725). -/
def evtHinge (s : State) : State :=
  if s.enabled 14 then
    s.modEvt fun e => { e with hinges := e.hinges + 1, jage := if e.jwait = [] then 0 else min 16000 (e.jage + 1) }
  else s

/-- A write of 1 to EVT.FW_GO (R723). -/
def fwGo (s : State) : State :=
  let w := fun i => s.rd (Reg.evtFwRec i)
  let src := fld (w 0) 0 6
  if src < 32 then sqSet Reg.evtEvt [4] s
  else makeRecord src (fld (w 0) 8 3) (fld (w 0) 16 16) (dataWords (w 4) (w 5) (w 6)) s

/-- A record as the journal holds it: LAP in byte 7, its CRC over the bytes as stored (R725). -/
def journalForm (lap : Nat) (r : List Byte) : List Byte :=
  let b := r.take 7 ++ leBytes 1 lap ++ (r.drop 8).take 20
  b ++ leBytes 4 (crc32 b)

/-- An empty journal slot. -/
def emptySlot : List Byte := List.replicate 32 0xFF#8

/-- Offer a record that is journalled to the log-tap queues (R562). -/
def tapRecord (r : List Byte) (s : State) : State :=
  let src := ((r[0]?).getD 0#8).toNat % 64
  let sev := ((r[1]?).getD 0#8).toNat % 8
  let o := offerAll (offerTap r src sev) s
  if o.2 then overrunRecord o.1 else o.1

/-- The journal writes its next line: two records, or one with an empty second slot (R725). It waits while its port of the
Keep controller is busy or EVT is disabled. Each record reaches the log-tap queues (R562). -/
def journalLine (s : State) : State :=
  if s.evt.jwait = [] ∨ (s.keepLine 2).isSome ∨ s.enabled 14 = false then s
  else
    let rs := (s.evt.jwait.take 2).map (journalForm s.evt.lap)
    let line := (rs ++ [emptySlot]).take 2
    let s1 := s.modEvt fun e => { e with
      jwait := e.jwait.drop 2,
      jline := (e.jline + 1) % 16384,
      lap := if e.jline = 16383 then (e.lap + 1) % 256 else e.lap,
      jage := 0 }
    let s2 := keepOffer 2 (0x400000 + 64 * s.evt.jline) line.flatten s1
    rs.foldl (fun s r => tapRecord r s) s2

/-- JOURNAL_LINE_WRITE: a line is due when two records wait, or one has for 16000 hinges (R725). -/
def journalLineWrite (s : State) : State :=
  if 2 ≤ s.evt.jwait.length ∨ 16000 ≤ s.evt.jage then journalLine s else s

/-- EVT.JHEAD as it reads. -/
def jheadView (s : State) : Word := BitVec.ofNat 32 (s.evt.jline + s.evt.lap * 65536)

/-- A record of the journal is good: its CRC agrees. -/
def recordGood (r : List Byte) : Bool := decide (leNat (r.drop 28) = crc32 (r.take 28))

/-- The LAP of a journal line for the scan, given the line's before it (R726). -/
def lineLap (before : Nat) (bs : List Byte) : Nat :=
  let a := bs.take 32
  let b := bs.drop 32
  if recordGood a then ((a[7]?).getD 0#8).toNat else if recordGood b then ((b[7]?).getD 0#8).toNat else before

/-- The scan's walk: the LAP of the line before, the lines' bytes, and the number of the first of them. -/
def scanLines (before : Nat) (first : Bool) : List (List Byte) → Nat → Option (Nat × Nat)
  | [], _ => none
  | l :: ls, i =>
    let lap := lineLap before l
    if lap ≠ before ∧ first = false then some (i, before) else scanLines lap false ls (i + 1)

/-- The LAP of the last line. -/
def lastLap (ls : List (List Byte)) : Nat := ls.foldl lineLap 0

/-- EVT is enabled: the journal is scanned for its head (R726). Where every line has one LAP the head is line 0 and the lap
that follows it begins (assumption 12). -/
def journalScan (s : State) : State :=
  let ls := (List.range 16384).map fun i => memBytes s.mem (keepBase + 0x400000 + 64 * i) 64
  let h := (scanLines 0 true ls 0).getD (0, (lastLap ls + 1) % 256)
  sqSet Reg.evtEvt [3] (s.modEvt fun e => { e with jline := h.1, lap := h.2 })

/-- A write of EVT's CTRL.ENABLE. -/
def evtEnable (on : Bool) (s : State) : State :=
  let was := s.enabled 14
  let s1 := s.wrb 0x400E0004 0 on
  if on && !was then journalScan (s1.modEvt fun e => { e with hinges := 0 }) else s1

/-- On entry to VIGIL sleep the journal writes its unpaired record (chapter 21). -/
def journalFlush (s : State) : State := journalLine s

/-- EVT's reset: the sequences restart, the bucket is full (R721, R722). -/
def evtReset (s : State) : State := s.modEvt fun _ => ⟨[], [], 64, [], 0, 0, 0, 0⟩

/-- EVT.SEQ_s. -/
def evtSeqView (s : State) (src : Nat) : Word := BitVec.ofNat 32 (tget 0#24 s.evt.seq src).toNat

/-- The ring holds at least RING_LVL unread records: interrupt source 225 (R724). -/
def ringLevel (s : State) : Bool :=
  decide (s.rdf 0x400E002C 0 15 ≤ (s.rdf Reg.evtRingWr 0 14 + 16384 - s.rdf Reg.evtRingRd 0 14) % 16384)

end Sys2Proof.Machine
end

