-- ==== Sys2Proof/Machine/Image.lean ====
section
/-! DEFINITION. Boot images and Joeno images: their fields, the checks of an attempt, their staging, and the load of the
fallback plan (chapters 11, 21, 23 and 24). -/

namespace Sys2Proof.Machine
open Sys2Proof

/-- The little-endian number of `n` bytes at an offset of a byte string. -/
def le (b : List Byte) (o n : Nat) : Nat := leNat ((b.drop o).take n)
/-- `n` bytes at an offset. -/
def cut (b : List Byte) (o n : Nat) : List Byte := (b.drop o).take n
/-- Bytes from their values. -/
def bytesOf (l : List Nat) : List Byte := l.map (BitVec.ofNat 8)

def State.modWard (s : State) (f : Warden → Warden) : State := { s with ward := f s.ward }

def kindNo : ImageKind → Nat
  | .stage1 => 1
  | .tenant => 2
  | .preset => 3
  | .control => 4
  | .engine => 5
  | .plan => 6

/-- The place of a kind among SVN_MIN (R801). -/
def svnPlace (k : ImageKind) : Nat := kindNo k - 1

def copyNo : CopyId → Nat
  | .k => 0
  | .slotA => 1
  | .slotB => 2
  | .network => 3
  | .anvil => 4
  | .keepPlan => 5

/-- Is the kind in the Joeno format? -/
def isJoeno : ImageKind → Bool
  | .engine => true
  | .plan => true
  | _ => false

/-! ### Fields -/

/-- The offset of the signature block. -/
def sigOff (_k : ImageKind) (b : List Byte) : Nat := le b 0x2C 4
/-- The fields that both formats have, where each has them. -/
def imgSvn (_k : ImageKind) (b : List Byte) : Nat := le b 0x1C 4
def imgBuild (b : List Byte) : Nat := le b 0x18 4
def imgPart (k : ImageKind) (b : List Byte) : Nat := if isJoeno k then le b 0x22 2 else le b 0x20 2
def imgMinRev (k : ImageKind) (b : List Byte) : Nat := if isJoeno k then le b 0x24 1 else le b 0x22 1
def imgEncrypted (b : List Byte) : Bool := decide (le b 9 1 % 2 = 1)
/-- The public key index of the signature block (R366). -/
def imgKey (k : ImageKind) (b : List Byte) : Nat := le b (sigOff k b) 1
/-- What a measurement's DIGEST and the signature cover: bytes 0 to SIG_OFF − 1. -/
def imgCovered (k : ImageKind) (b : List Byte) : List Byte := b.take (sigOff k b)

/-- One section of a Joeno image (R365). -/
structure Section where
  type : Nat
  core : Nat
  off : Nat
  len : Nat
  dest : Nat

def sections (b : List Byte) : List Section :=
  (List.range (le b 0x0A 2)).map fun i =>
    let o := le b 0x28 4 + 16 * i
    ⟨le b o 2, le b (o + 2) 1, le b (o + 4) 4, le b (o + 8) 4, le b (o + 12) 4⟩

/-- The length limit of a section's target, for the types that have one (R365, R710). -/
def sectionLimit (t : Nat) : Option Nat :=
  match t with
  | 1 => some 0x6000
  | 2 => some 0x2000
  | 3 => some 256
  | 4 => some 0x8000
  | 0x10 => some 8192
  | 0x12 => some 65536
  | _ => none

/-- FORMAT of a Joeno image (R364, R365, R710). -/
def joenoFormat (plan : Bool) (b : List Byte) : Bool :=
  cut b 0 4 == bytesOf [0x4A, 0x47, 0x49, 0x31] && le b 4 2 == 2 && le b 6 2 == 64
    && decide (le b 0x0C 4 = b.length) && decide (1 ≤ le b 0x0A 2 ∧ le b 0x0A 2 ≤ 64)
    && decide (le b 0x28 4 + 16 * le b 0x0A 2 ≤ b.length) && decide (le b 0x2C 4 + 68 ≤ b.length)
    && ((sections b).all fun x => decide (x.off + x.len ≤ b.length)
        && (sectionLimit x.type).all fun m => decide (x.dest + x.len ≤ m))
    && (!plan || (decide (b.length ≤ 0x400000) && !imgEncrypted b))

/-- The limit of a boot image's body (R762). -/
def bodyLimit : ImageKind → Nat
  | .stage1 => 0x18000
  | .tenant => 0x1000
  | .preset => 0x10000
  | _ => 0x100000

/-- LOAD of a boot image lies where its kind wants it (R762). -/
def loadOk (k : ImageKind) (load len : Nat) : Bool :=
  match k with
  | .stage1 => decide (0x08000000 ≤ load ∧ load + len ≤ 0x08018000)
  | .control => decide (0x20000000 ≤ load ∧ load + len ≤ 0x20200000)
  | _ => true

/-- The kind that a boot image says it is. -/
def bootKind (b : List Byte) : Nat := le b 8 1

/-- FORMAT of a boot image (R762). -/
def bootFormat (k : ImageKind) (b : List Byte) : Bool :=
  cut b 0 4 == bytesOf [0x44, 0x5A, 0x42, 0x31] && le b 4 2 == 1 && le b 6 2 == 64
    && decide (le b 0x0C 4 = b.length)
    && decide (le b 0x24 4 + le b 0x28 4 + (if imgEncrypted b then 16 else 0) ≤ b.length)
    && decide (le b 0x28 4 ≤ bodyLimit k) && decide (le b 0x2C 4 + 68 ≤ b.length)
    && loadOk k (le b 0x10 4) (le b 0x28 4)

/-! ### Keys and floors -/

/-- Root public key k of the key store (R760). -/
def rootKey (s : State) (k : Nat) : List Byte := memBytes s.mem (0x50600000 + 64 * k) 64

/-- ROOT_HASH_k is programmed and root k is not revoked. -/
def rootStands (s : State) (k : Nat) : Bool :=
  let h := (s.ward.fuses.rootHash[k]?).getD []
  decide (k < 4) && (h.any fun x => x != 0#8) && !s.ward.fuses.rootRevoke.getLsbD k

/-- Is key k usable (R760)? -/
def keyUsable (s : State) (k : Nat) : Bool :=
  rootStands s k && Config.sha256 (rootKey s k) == (s.ward.fuses.rootHash[k]?).getD []

/-- The floor of a kind (R809). -/
def floorOf (s : State) (k : ImageKind) : Nat :=
  max ((s.ward.slot.svnMin[svnPlace k]?).getD 0) s.ward.fuses.svnFloor

def keySlot (s : State) (i : Nat) : List Byte := tget [] s.ward.keys i

/-! ### Decryption -/

/-- The body of a boot image in the clear; none where its tag fails (R763). -/
def bootBody (s : State) (b : List Byte) : Option (List Byte) :=
  let body := cut b (le b 0x24 4) (le b 0x28 4)
  if imgEncrypted b then
    Config.gcmOpen (keySlot s 1) (cut b 0x30 12) (b.take 64) body (cut b (le b 0x24 4 + le b 0x28 4) 16)
  else some body

/-- The PROG and COEF sections of a graph image in the clear, one after the other; none where the tag fails (R764). -/
def joenoPlain (s : State) (b : List Byte) : Option (List Byte) :=
  let all := ((sections b).filter fun x => x.type == 1 || x.type == 2).flatMap fun x => cut b x.off x.len
  if imgEncrypted b then
    match (sections b).find? fun x => x.type == 0x20 with
    | some c => Config.gcmOpen (keySlot s 3) (cut b c.off 12) (b.take 64) all (cut b (c.off + 16) 16)
    | none => none
  else some all

/-! ### The checks of an attempt (R766), SOURCE to DECRYPT -/

/-- The first cause from FORMAT to DECRYPT for which a byte string fails as an image of a kind, 0 for none. -/
def imageCause (s : State) (k : ImageKind) (b : List Byte) : Nat :=
  if !(if isJoeno k then joenoFormat (k == .plan) b else bootFormat k b) then 2
  else if imgPart k b ≠ 0x5216 ∨ 1 < imgMinRev k b then 3
  else if bootKind b ≠ (match k with
      | .engine => 1
      | .plan => 2
      | _ => kindNo k) then 4
  else if !keyUsable s (imgKey k b) then 5
  else if !Config.ecdsaOk (rootKey s (imgKey k b)) (imgCovered k b) (cut b (sigOff k b + 4) 64) then 6
  else if imgSvn k b < floorOf s k then 7
  else if k = .tenant ∧ imgEncrypted b = false then 8
  else if (if isJoeno k then (joenoPlain s b).isNone else (bootBody s b).isNone) then 8
  else 0

/-! ### Measurements (R781 to R783) -/

def measBytes (m : Meas) : List Byte :=
  leBytes 2 m.type ++ leBytes 1 m.copy ++ leBytes 1 m.key ++ leBytes 4 m.svn ++ leBytes 4 m.build ++ leBytes 4 m.len
    ++ m.digest

/-- TALLY_n. -/
def tallyOf (s : State) (n : Nat) : List Byte := (s.ward.tallies[n]?).getD (List.replicate 32 0#8)

/-- AON.TALLY_SUM follows every extension (R795). -/
def tallySum (s : State) : State :=
  s.wrn 0x40010284 (leNat ((Config.sha256 ((List.range 8).flatMap (tallyOf s))).take 4))

/-- Extend tally n by a digest M; a frozen tally takes none (R778, R781). -/
def tallyExtend (n : Nat) (m : List Byte) (s : State) : State :=
  if s.ward.freeze.getLsbD n then s
  else
    let v := Config.sha256 (tallyOf s n ++ m)
    tallySum (s.modWard fun w => { w with tallies := (List.range 8).map fun i => if i = n then v else tallyOf s i })

/-- A measurement: its block enters the log, and its digest its tally (R781, R783). -/
def measure (tally : Nat) (m : Meas) (s : State) : State :=
  let s1 := s.modWard fun w =>
    let l := w.log ++ [m]
    { w with log := l.drop (l.length - 64) }
  tallyExtend tally (Config.sha256 (measBytes m)) s1

/-- The type and tally of an image's measurement (R781, R782). -/
def measType : ImageKind → Nat × Nat
  | .stage1 => (3, 1)
  | .tenant => (4, 2)
  | .preset => (5, 3)
  | .plan => (6, 4)
  | .engine => (7, 5)
  | .control => (8, 6)

def imgMeas (type : Nat) (copy : Nat) (k : ImageKind) (b : List Byte) : Meas :=
  ⟨type, copy, imgKey k b, imgSvn k b, imgBuild b, b.length, Config.sha256 (imgCovered k b)⟩

/-! ### Records of source BOOT (R794) -/

/-- A BOOT record: its CODE and DATA are not stated, so nothing fixes them. Before handover it is held, at most 16. -/
def bootRecord (sev : Nat) (s : State) : State :=
  let c := s.draw
  let a := c.2.draw
  let b := a.2.draw
  let d := b.2.draw
  let code := 0x8000 + c.1.toNat % 0x8000
  let data := dataWords a.1 b.1 d.1
  if 9 ≤ s.ward.stage ∧ s.ward.stage ≤ 10 then makeRecord 19 sev code data d.2
  else d.2.modWard fun w => if w.held.length < 16 then
    { w with held := w.held ++ [⟨19, sev, code, data, s.mclk.frameCnt⟩] } else w

/-- The held records are submitted, each with the frame count of its making. -/
def submitHeld (s : State) : State :=
  let f := s.mclk.frameCnt
  let s1 := s.ward.held.foldl (fun s r =>
    makeRecord r.source r.sev r.code r.data { s with mclk := { s.mclk with frameCnt := r.ts } }) s
  { s1 with mclk := { s1.mclk with frameCnt := f }, ward := { s1.ward with held := [] } }

/-! ### Verified graph images (R367) -/

/-- VERIFIED is set, and INCR, BASE_BUILD, BUILD and CORE_MASK are latched (R367). -/
def setVerified (b : List Byte) (s : State) : State :=
  let s1 := ((s.wrn Reg.gswapCores (le b 0x20 2)).wrn Reg.gswapBase (le b 0x14 4)).wrn Reg.gswapBuild (le b 0x18 4)
  { s1 with eng := { s1.eng with verified := true, incr := decide (le b 9 1 / 2 % 2 = 1),
                                 graphId := BitVec.ofNat 32 (le b 0x10 4) } }

/-! ### The fallback plan (R710 to R716) -/

/-- The bytes of the plan in place, as long as its header says. -/
def planBytes (s : State) : List Byte := memBytes s.mem 0x50000000 (min 0x400000 (s.mrd 0x5000000C 4))

/-- Plan entries, two words each: as the image gives them. -/
def planEntriesOf (b : List Byte) : List (Word × Word) :=
  match (sections b).find? fun x => x.type == 0x10 with
  | some x => (List.range (min 1024 (x.len / 8))).map fun i =>
      (BitVec.ofNat 32 (le b (x.off + 8 * i) 4), BitVec.ofNat 32 (le b (x.off + 8 * i + 4) 4))
  | none => []

/-- The plan table as it stands in the aperture. -/
def planTable (s : State) : List (Word × Word) :=
  (List.range (s.rdf Reg.planStat 16 11)).map fun i => (s.rd (0x3C580000 + 8 * i), s.rd (0x3C580004 + 8 * i))

def planLoaded (s : State) : Bool := s.bit Reg.planStat 0

/-- Apply one entry at plan load: INPUT and TONESET (R711, R712). -/
def planLoadEntry (e : Word × Word) (s : State) : State :=
  match fld e.1 28 4 with
  | 1 =>
    let v : Word := BitVec.ofNat 32 (fld e.2 0 10 + 0x80000000)
    { s with wbPend := tset none s.wbPend (Reg.inSel (fld e.1 0 8)) (some v) }
  | 2 =>
    let g := fld e.1 0 6
    let s1 := ((setWords (.tone g)).foldl (fun s a =>
      s.wrn a (s.mrd (keepBase + e.2.toNat + (a - Reg.toneWord g 0)) 4)) s)
    toneCommitted g (setToneOwner g 8 s1)
  | _ => s

/-- The plan loader (R712): INPUT and TONESET entries, the plan table, LOADED, ENTRIES, PLAN_NODES and PLAN_BUILD, and the
plan's clip table. -/
def planApply (s : State) : State :=
  let b := planBytes s
  let es := planEntriesOf b
  let s1 := es.foldl (fun s e => planLoadEntry e s) s
  let s2 := (List.range es.length).foldl (fun s i =>
    let e := (es[i]?).getD (0#32, 0#32)
    (s.wr (0x3C580000 + 8 * i) e.1).wr (0x3C580004 + 8 * i) e.2) s1
  let nodes := (es.filter fun e => fld e.1 28 4 == 3).length
  let s3 := ((s2.wrn Reg.planStat (1 + es.length * 65536)).wrn Reg.planNodes nodes).wrn Reg.planBuild (imgBuild b)
  let ct := (sections b).find? fun x => x.type == 0x12
  s3.modMsg fun m => { m with
    loadDue := false, planClear := false,
    planClips := keepBase + (ct.map (·.off)).getD 0, planCount := min 4096 ((ct.map (·.len)).getD 0 / 16) }

end Sys2Proof.Machine
end

