-- ==== Sys2Proof/Machine/Modes.lean ====
section
/-! DEFINITION. Operating modes, wake requests and watchdogs (chapter 22), and the contact scanner's actions (chapter 20). -/

namespace Sys2Proof.Machine
open Sys2Proof

namespace Reg
def modeStat : Nat := 0x4000040C
def vigilCfg : Nat := 0x40000410
def wdogCfg (c : Nat) : Nat := 0x40000420 + 0x10 * c
def wdogStat : Nat := 0x40000460
def wakeCfg : Nat := 0x40010260
def wakeStat : Nat := 0x40010268
end Reg

def State.modModes (s : State) (f : Modes → Modes) : State := { s with modes := f s.modes }

/-- The codes of SYS.MODE.MODE (R729). -/
def modeCode : Mode → Nat
  | .service => 0
  | .watch => 1
  | .evacuate => 2

/-! ### Contacts as the modes see them (R656, R733, R734) -/

/-- An enabled ALARM contact whose accepted class is ACTIVE. -/
def alarmActive (s : State) (n : Nat) : Bool := ctEnabled s n && decide (ctFunc s n = 1 ∧ (s.contact n).cls = 1)
/-- One that is not silenced. -/
def alarmStands (s : State) (n : Nat) : Bool := alarmActive s n && !(s.contact n).silenced
def anyContact (f : Nat → Bool) : Bool := (List.range 8).any f
def firstContact (f : Nat → Bool) : Nat := ((List.range 8).find? f).getD 0

/-- SYS.MODE as it reads. -/
def modeView (s : State) : Word :=
  BitVec.ofNat 32 (modeCode s.modes.mode + 16 * b2n s.modes.autonomy
    + 32 * b2n (anyContact fun n => (s.contact n).silenced) + 256 * s.modes.evacCause + 65536 * s.modes.evacContact)

/-- SYS.MODE_REQ as it reads: the queued value, 0 when none. -/
def modeReqView (s : State) : Word := BitVec.ofNat 32 ((s.modes.request.map (·.1)).getD 0)

/-- A write of SYS.MODE_REQ queues a request in place of one that waits (R731); sleep entry closes it. -/
def modeReqWrite (fromDict : Bool) (v : Nat) (s : State) : State :=
  if s.modes.sleep = .awake then s.modModes fun m => { m with request := some (v % 8, fromDict) } else s

/-! ### EVACUATE (R738 to R740) -/

/-- The mode changes at this hinge: the mode before it is recorded, CHANGE is set, and a running pass is aborted (R635, R719). -/
def changeMode (m : Mode) (s : State) : State :=
  let s1 := (s.wrf Reg.modeStat 16 4 (modeCode s.modes.mode)).modModes fun x => { x with mode := m }
  sqSetX Reg.modeEvt [0] (some (if m = .evacuate then 6 else 2)) 0#32 (abortPass s1)

/-- The plan's NODE entry at the EVACUATE hinge: target and owner, or the refusal of R716. -/
def planNode (e : Word × Word) (s : State) : State :=
  let i := fld e.1 0 8
  let o := fld e.1 8 8
  let g := fld e.2 0 16
  if nodeFull s o i g then
    msgEvents [6] 0 (nodeRefused (Reg.nodeWord o i) o s)
  else applyNode o i (BitVec.ofNat 32 (g + 8 * 65536)) s

/-- The plan's PLAYER entry at the EVACUATE hinge; a script that begins with TONE starts its generator at once (R713, R739). -/
def planPlayer (e : Word × Word) (s : State) : State :=
  let p := fld e.1 0 4
  let s1 := (s.wrn (Reg.plScript p) (keepBase + e.2.toNat)).wrn (Reg.plCfg p) 1
  let s2 := s1.wrf (Reg.msgOwn (p / 8)) (4 * (p % 8)) 4 8
  let s3 := s2.wrb Reg.msgRun p true
  let s4 := match tget none s3.wbPend Reg.msgRun with
    | some w => { s3 with wbPend := tset none s3.wbPend Reg.msgRun (some (wsetBit w p true)) }
    | none => s3
  toneOp p (playerStart p s4)

/-- The entries of the plan table of one kind. -/
def planOf (s : State) (kind : Nat) : List (Word × Word) :=
  if planLoaded s then (planTable s).filter fun e => decide (fld e.1 28 4 = kind) else []

/-- R713: every NODE target, then every CLAIM, then every PLAYER. -/
def planActions (s : State) : State :=
  let s1 := (planOf s 3).foldl (fun s e => planNode e s) s
  let s2 := (planOf s 4).foldl (fun s e => applyClaim ⟨fld e.1 0 7, 8, fld e.2 0 4, 1⟩ s) s1
  (planOf s 5).foldl (fun s e => planPlayer e s) s2

/-- Every core that VIGIL watch stopped starts again (R738, R742). -/
def watchRestart (s : State) : State :=
  (List.range 16).foldl (fun s n => if (s.sc n).watchStopped then startCore n (setRun n s) else s) s

/-- EVACUATE takes effect (R738). -/
def evacEnter (cause contact : Nat) (s : State) : State :=
  let s1 := changeMode .evacuate (s.modModes fun m => { m with evacCause := cause, evacContact := contact })
  planActions (watchRestart (weldEvacEnter s1))

/-- EVACUATE ends into SERVICE (R735, R740). -/
def evacLeave (s : State) : State :=
  let s1 := weldEvacLeave s
  let s2 := (planOf s 5).foldl (fun s e => playerFade (fld e.1 0 4) (clearBoth Reg.msgRun (fld e.1 0 4) s)) s1
  let s3 := (planOf s 3).foldl (fun s e => setTarget (fld e.1 8 8) (fld e.1 0 8) 0 s) s2
  changeMode .service s3

/-! ### VIGIL watch and sleep (R742, R743) -/

/-- VIGIL watch takes effect: cores outside CORE_KEEP stop (R742). -/
def watchEnter (s : State) : State :=
  let s1 := (List.range 16).foldl (fun s n =>
    if (s.sc n).runs && !s.bit Reg.vigilCfg n then
      (stopCore n (clearRun n s)).modSc n fun c => { c with watchStopped := true }
    else s) s
  changeMode .watch s1

/-- The slots whose RW, WB and WD registers sleep saves (R745). -/
def contextSlot (slot : Nat) : Bool :=
  slot == 0 || decide (2 ≤ slot ∧ slot ≤ 10) || decide (12 ≤ slot ∧ slot ≤ 14)

/-- Does the context save the register at an address (R745)? -/
def inContext (a : Nat) : Bool :=
  match regRowOf a with
  | some r => contextSlot (a / 0x10000 % 16) &&
      (r.cls == .rw || r.cls == .wb || r.cls == .wd || decide (0x400D0040 ≤ a ∧ a ≤ 0x400D0048))
  | none => false

/-- The hinge hs of sleep entry (chapter 22, sleep entry): the context is captured as it stood, SAFE's groups and the armed swap
are cancelled, a pass is aborted, outstanding dictionary requests are discarded and every Riller session closes (chapters 16 and 17). -/
def sleepEnter (s : State) : State :=
  let ctx := s.regs.filter fun x => inContext x.1
  let s1 := abortPass (cancelSwap (safeSleep s))
  let ten := (List.range 8).foldl (fun d t => tset (Tenant.byKey t) d t
    { tget (Tenant.byKey t) d t with
      reqs := [], resps := [], events := [], taps := [], subEvent := none, subTap := none }) s1.dict.tenants
  { s1 with
    mclk := { s1.mclk with sleepFrame := 6#64 * hinge64 s },
    ril := { s1.ril with sessions := [], reasm := [], ingress := [] },
    eng := { s1.eng with verified := false },
    dict := { s1.dict with tenants := ten, hslots := [] },
    modes := { s1.modes with sleep := .entry, sleepHinges := 0, context := ctx } }

/-! ### Requests and the mode-change step (R731 to R737) -/

/-- Why a request is refused in the mode at hand, 0 for a request that applies (R731). -/
def requestCause (s : State) (v : Nat) (fromDict : Bool) : Nat :=
  if (v = 4 ∨ v = 5) ∧ fromDict = false then 1
  else if v = 0 ∨ 6 ≤ v then 5
  else if (v = 2 ∧ s.modes.mode ≠ .service) ∨ ((v = 1 ∨ v = 3) ∧ s.modes.mode ≠ .watch)
      ∨ (v = 4 ∧ s.modes.mode = .evacuate) ∨ (v = 5 ∧ s.modes.mode ≠ .evacuate) then 2
  else if v = 3 ∧ anyContact (alarmStands s) then 3
  else if v = 3 ∧ (s.modes.wakePin || s.modes.wake) = true then 4
  else 0

/-- A refusal changes no mode (R731). -/
def refuseMode (cause : Nat) (s : State) : State := sqSet Reg.modeEvt [1] (s.wrf Reg.modeStat 0 3 cause)

/-- What a request does at its hinge, EVACUATE and EXIT apart, which `modeStep` decides together with the other causes. -/
def requestStep (v : Nat) (fromDict : Bool) (s : State) : State :=
  let k := requestCause s v fromDict
  if k ≠ 0 then refuseMode k s
  else match v with
    | 1 => changeMode .service (watchRestart s)
    | 2 => watchEnter s
    | 3 => sleepEnter s
    | _ => s

/-- Does a contact enter EVACUATE at this hinge: an accepted transition that has crossed, while the part boots an ALARM contact
that is ACTIVE once the plan is loaded (R11, R732, R741), or after sleep an alarm accepted in it (R748)? Where no plan is ever
loaded the hold of R741 ends with the Warden's stage 9 (assumption 30). -/
def contactEnters (s : State) : Bool :=
  if s.modes.booting then (planLoaded s || decide (9 ≤ s.ward.stage)) && anyContact (alarmActive s)
  else s.modes.alarmInSleep || anyContact fun n => (s.contact n).alarmDue

/-- The contact that SYS.MODE names as the cause. -/
def causingContact (s : State) : Nat :=
  if s.modes.booting then firstContact (alarmActive s)
  else if anyContact fun n => (s.contact n).alarmDue then firstContact fun n => (s.contact n).alarmDue
  else firstContact (alarmActive s)

/-- The crossed contact transitions are consumed; while the part boots they stand until the plan is loaded (R741). -/
def consumeContacts (s : State) : State :=
  let hold := s.modes.booting && !(planLoaded s || decide (9 ≤ s.ward.stage))
  let s1 := (List.range 8).foldl (fun s n =>
    s.setContact n { s.contact n with alarmDue := hold && (s.contact n).alarmDue, silenceDue := false }) s
  s1.modModes fun m => { m with booting := hold, alarmInSleep := false, request := none }

/-- The mode-change step of a hinge (R729 to R737). -/
def modeStep (s : State) : State :=
  if s.modes.sleep = .awake then
    let auto := (s.tenant 0).lost && anyContact (alarmStands s)
    let byContact := contactEnters s
    let who := causingContact s
    let silence := anyContact fun n => (s.contact n).silenceDue
    let s1 := (consumeContacts s).modModes fun m => { m with autonomy := auto }
    let s2 := if silence then sqSet Reg.modeEvt [2] s1 else s1
    let reqEvac := decide (s.modes.request = some (4, true))
    let reqExit := decide (s.modes.request = some (5, true))
    if s.modes.mode = .evacuate then
      let s3 := if (silence || reqExit) && !(byContact || auto) then evacLeave s2 else s2
      match s.modes.request with
      | none => s3
      | some (v, d) =>
        let k := requestCause s v d
        if k = 0 then s3 else refuseMode k s3
    else if reqEvac || byContact || auto then
      let s3 := evacEnter (if reqEvac then 1 else if byContact then 2 else 3) (if !reqEvac && (byContact || auto) then who else 0) s2
      if reqEvac then s3
      else match s.modes.request with
        | none => s3
        | some (v, d) => refuseMode (if (v = 4 ∨ v = 5) ∧ d = false then 1 else if v = 0 ∨ 6 ≤ v then 5 else 2) s3
    else match s.modes.request with
      | none => s2
      | some (v, d) => requestStep v d s2
  else s

/-! ### Wake requests (R658, R743, R746) -/

/-- A wake request with its cause: AON.WAKE_STAT, crossing 7, and the wake itself once the families have stopped. Cause 4, a PUT on
the Anvil port (R825), has no bit in AON.WAKE_STAT. -/
def wakeRequest (bit contact : Nat) (s : State) : State :=
  if s.modes.sleep = .awake then s
  else
    let s1 := if bit < 4 then s.wrb Reg.wakeStat bit true else s
    let s2 := if bit = 1 then s1.wrf Reg.wakeStat 8 3 contact else s1
    (noticePost 7 (BitVec.ofNat 32 (2 ^ bit)) s2).modModes fun m => { m with
      wake := true, sleep := if m.sleep = .asleep then .waking else m.sleep }

/-- WAKE has a new level; a rising one held for 2 slow cycles asks for a wake (R746). -/
def wakeLevel (high : Bool) (s : State) : State :=
  let s1 := s.modModes fun m => { m with wakePin := high }
  if high && !s.modes.wakePin && s.bit Reg.wakeCfg 0 then wakeRequest 0 0 s1 else s1

/-- The slow-cycle count since entry reaches AON.WAKE_TIME (R746). -/
def wakeTimer (s : State) : State := if s.bit Reg.wakeCfg 1 then wakeRequest 2 0 s else s

/-! ### The contact scanner (R10, R653 to R658) -/

/-- An accepted class takes its effects in the always-on domain and towards the modes. -/
def contactAccepted (n cls : Nat) (s : State) : State :=
  let c := s.contact n
  let s1 := s.setContact n { c with silenced := c.silenced && decide (cls = 1) }
  let s2 := if 2 ≤ cls ∧ contactFault s1 n = true then latchFault 3 s1 else s1
  let f := ctFunc s n
  let asleep := s.modes.sleep != .awake
  let s3 :=
    if cls = 1 ∧ f = 1 then
      if asleep then s2.modModes fun m => { m with alarmInSleep := true }
      else s2.setContact n { s2.contact n with alarmDue := true }
    else if cls = 1 ∧ f = 2 then
      let s4 := (List.range 8).foldl (fun s k =>
        if alarmActive s k then s.setContact k { s.contact k with silenced := true } else s) s2
      s4.setContact n { s4.contact n with silenceDue := true }
    else s2
  if (s.rd (Reg.ctCfg n)).getLsbD (4 + cls) || decide (cls = 1 ∧ f = 1) then wakeRequest 1 n s3 else s3

/-- One scan of an enabled contact, with the class that it finds. With the slow clock stopped there is none (R98). -/
def contactScan (n cls : Nat) (s : State) : State :=
  if s.power.aonReady && !s.clk.slowGone && ctEnabled s n then
    let r := contactStep cls (s.contact n)
    let s1 := s.setContact n r.1
    if r.2 then contactAccepted n cls s1 else s1
  else s

/-! ### Watchdogs (R750 to R752) -/

def wdogPeriod (s : State) (c : Nat) : Nat := max 1 (s.rdf (Reg.wdogCfg c) 0 24)
def wdogRuns (s : State) (c : Nat) : Bool := s.bit (Reg.wdogCfg c) 24 && s.modes.sleep == .awake
def wdogLeft (s : State) (c : Nat) : Nat := tget 0 s.modes.wdLeft c
def setWdog (c n : Nat) (s : State) : State := s.modModes fun m => { m with wdLeft := tset 0 m.wdLeft c n }
def wdogReload (c : Nat) (s : State) : State := setWdog c (wdogPeriod s c) s

/-- A write of SYS.WDOG_CFG_c: EN stays once set, and a watchdog that starts counts from PERIOD. -/
def wdogCfgWrite (c : Nat) (v : Word) (s : State) : State :=
  let was := s.bit (Reg.wdogCfg c) 24
  let s1 := s.wr (Reg.wdogCfg c) (wsetBit (v &&& 0x3FFFFFF#32) 24 (was || v.getLsbD 24))
  if !was && v.getLsbD 24 then wdogReload c s1 else s1

/-- A write of SYS.WDOG_KICK_c. -/
def wdogKick (c : Nat) (v : Word) (s : State) : State :=
  if v = 0x0000A5C3#32 then wdogReload c s else sqSet Reg.modeEvt [4] s

/-- The watchdogs count a hinge. -/
def wdogsHinge (s : State) : State :=
  (List.range 4).foldl (fun s c =>
    let s1 := if wdogRuns s c then setWdog c (wdogLeft s c - 1) s else s
    if s.bit Reg.wdogStat c then s1.modModes fun m => { m with wdSince := tset 0 m.wdSince c (tget 0 m.wdSince c + 1) } else s1) s

/-- A control core enters LOCKUP (R256). -/
def enterLockup (c : Nat) (s : State) : State :=
  summaryCheck (lockupPulse (s.setCtl c { s.ctlCore c with st := .lockup }))

/-- A watchdog whose count has run out expires (R751). -/
def watchdogExpiry (c : Nat) (s : State) : State :=
  if wdogRuns s c && !s.bit Reg.wdogStat c && decide (wdogLeft s c = 0) then
    enterLockup c ((s.modModes fun m => { m with wdSince := tset 0 m.wdSince c 0 }).wrb Reg.wdogStat c true)
  else s

end Sys2Proof.Machine
end

