-- ==== Sys2Proof/Machine/Dma.lean ====
section
/-! DEFINITION. The DMA channels (chapter 18), moving data apart: what a descriptor asks for, its checks, enabling,
starting and stopping a channel, and the channels' registers. -/

namespace Sys2Proof.Machine
open Sys2Proof

namespace Reg
def dma (n off : Nat) : Nat := 0x400B0100 + 0x40 * n + off
end Reg

def State.dch (s : State) (n : Nat) : DmaCh := tget DmaCh.idle s.dma.ch n
def State.setDch (s : State) (n : Nat) (x : DmaCh) : State := { s with dma := { s.dma with ch := tset DmaCh.idle s.dma.ch n x } }
def State.modDch (s : State) (n : Nat) (f : DmaCh → DmaCh) : State := s.setDch n (f (s.dch n))
def dmaEvent (bits : List Nat) (n : Nat) (s : State) : State := sqSet (Reg.dma n 0x0C) bits s

def chEnabled (s : State) (n : Nat) : Bool := s.bit (Reg.dma n 0x04) 0
def chRing (s : State) (n : Nat) : Bool := s.bit (Reg.dma n 0) 0
def chAudio (s : State) (n : Nat) : Bool := s.bit (Reg.dma n 0) 1
def chReq (s : State) (n : Nat) : Nat := s.rdf (Reg.dma n 0) 8 7
def chBase (s : State) (n : Nat) : Nat := (s.rd (Reg.dma n 0x28)).toNat
def chSize (s : State) (n : Nat) : Nat := s.rdf (Reg.dma n 0x2C) 0 13
def chHead (s : State) (n : Nat) : Nat := s.rdf (Reg.dma n 0x30) 0 12
def chTail (s : State) (n : Nat) : Nat := s.rdf (Reg.dma n 0x34) 0 12
def chEmpty (s : State) (n : Nat) : Bool := chHead s n == chTail s n
/-- The address of the descriptor at a ring index (R577). -/
def chSlot (s : State) (n i : Nat) : Nat := chBase s n + 32 * i
/-- The channel runs: it and its block are enabled. -/
def chRuns (s : State) (n : Nat) : Bool := s.enabled 11 && chEnabled s n

/-! ### Segments -/

/-- The contiguous stretches of each segment (chapter 18, channels and segments), as start and end. -/
def segment (audio : Bool) : List (Nat × Nat) :=
  if audio then [(0x30000000, 0x30800000), (0x38000000, 0x38200000), (0x3C000000, 0x3D000000)]
  else [(0x20000000, 0x20200000), (0x21000000, 0x21010000), (0x40000000, 0x40400000), (0x50000000, 0x50800000),
    (0x60000000, 0x70000000), (0xE0000000, 0xE0100000)]

/-- Do `n` bytes from an address lie in a segment? -/
def inSegment (audio : Bool) (a n : Nat) : Bool := (segment audio).any fun r => decide (r.1 ≤ a ∧ a + n ≤ r.2)

/-- Do `n` bytes from an address touch the register regions: slots, aliases, Warden registers? -/
def touchesRegs (a n : Nat) : Bool :=
  decide (0 < n) && (decide (a < 0x40400000 ∧ 0x40000000 < a + n) || decide (a < 0xE0100000 ∧ 0xE0000000 < a + n))

/-- Is an address in a memory that keeps what is written: Hearth, retention RAM, Crucible? -/
def isRam (a : Nat) : Bool :=
  decide (0x20000000 ≤ a ∧ a < 0x20200000) || decide (0x21000000 ≤ a ∧ a < 0x21010000)
    || decide (0x30000000 ≤ a ∧ a < 0x30800000)

/-! ### Descriptors (chapter 18, descriptor layout) -/

def Desc.swap (d : Desc) : Nat := fld d.ctl 0 2
def Desc.il (d : Desc) : Nat := fld d.ctl 2 2
/-- The element size E; 0 for the reserved code. -/
def Desc.esize (d : Desc) : Nat := if fld d.ctl 4 2 = 3 then 0 else fld d.ctl 4 2 + 2
def Desc.fill (d : Desc) : Bool := d.ctl.getLsbD 8
def Desc.barrier (d : Desc) : Bool := d.ctl.getLsbD 9
/-- The unit U of a swap (R585). -/
def Desc.unit (d : Desc) : Nat := if d.swap = 1 then 2 else 4

/-- An address, modulo 2^32 (R581). -/
def addr32 (a : Int) : Nat := (a % 4294967296).toNat

/-- Start addresses, not yet reduced, and lengths of the ranges a descriptor reads (R581, R586). -/
def Desc.reads (d : Desc) : List (Int × Nat) :=
  if d.fill || d.lineLen == 0 then []
  else if d.il = 2 then (if d.lineCnt = 0 then [] else [((d.src.toNat : Int), d.lineLen * d.lineCnt)])
  else (List.range d.lineCnt).map fun (l : Nat) => ((d.src.toNat : Int) + (l : Int) * d.sstride.toInt, d.lineLen)

/-- Those of the ranges it writes. -/
def Desc.writes (d : Desc) : List (Int × Nat) :=
  if d.lineLen = 0 then []
  else if d.il = 1 then (if d.lineCnt = 0 then [] else [((d.dst.toNat : Int), d.lineLen * d.lineCnt)])
  else (List.range d.lineCnt).map fun (l : Nat) => ((d.dst.toNat : Int) + (l : Int) * d.dstride.toInt, d.lineLen)

/-- Does a descriptor break the alignment that register regions ask for on one side (R588, ALIGN)? The stride counts
where the side has lines, and E where elements are interleaved (DEDUCED, assumption 15). -/
def alignBad (d : Desc) (rs : List (Int × Nat)) (strided : Bool) (stride : Word) : Bool :=
  if rs.any fun r => touchesRegs (addr32 r.1) r.2 then
    (rs.any fun r => decide (addr32 r.1 % 4 ≠ 0)) || decide (d.lineLen % 4 ≠ 0)
      || (strided && decide (1 < d.lineCnt ∧ stride.toNat % 4 ≠ 0)) || (decide (d.il ≠ 0) && decide (d.esize ≠ 4))
  else false

/-- The code of the first check a descriptor fails, 0 if none (R588, R589). -/
def dmaCheck (audio : Bool) (d : Desc) : Nat :=
  if fld d.ctl 6 2 ≠ 0 ∨ fld d.ctl 12 20 ≠ 0 ∨ d.il = 3 ∨ fld d.ctl 4 2 = 3 ∨ (d.fill = true ∧ (d.swap ≠ 0 ∨ d.il ≠ 0)) then 8
  else if d.il ≠ 0 ∧ (32 < d.lineCnt ∨ d.lineLen % d.esize ≠ 0) then 6
  else if d.swap ≠ 0 ∧ (d.lineLen % d.unit ≠ 0 ∨ (d.il ≠ 0 ∧ d.esize ≠ d.unit)) then 5
  else if alignBad d d.reads (d.il ≠ 2) d.sstride || alignBad d d.writes (d.il ≠ 1) d.dstride then 4
  else if d.reads.any fun r =>
      decide (r.1 < 0 ∨ 4294967296 < r.1 + (r.2 : Int)) || !inSegment audio (addr32 r.1) r.2 then 3
  else 0

/-- What a channel with REQ 1 makes of its descriptor: one line of at most LINE_LEN bytes to DST, nothing else of it
(R600). -/
def Desc.forFrame (d : Desc) : Desc :=
  { d with src := 0#32, lineCnt := 1, sstride := 0#32, dstride := 0#32, ctl := (d.ctl &&& 0xE00#32) ||| 0x100#32 }

/-- The eight words of a descriptor, the first six of which the engine reads. -/
def descOf (w : Nat → Word) : Desc :=
  ⟨w 0, w 1, fld (w 2) 0 16, fld (w 2) 16 16, w 3, w 4, w 5⟩

/-- The descriptor that a register-mode transfer amounts to (R574, R588). -/
def regDesc (s : State) (n : Nat) : Desc :=
  let x := s.rd (Reg.dma n 0x20)
  ⟨s.rd (Reg.dma n 0x14), s.rd (Reg.dma n 0x18), s.rdf (Reg.dma n 0x1C) 0 24, 1, 0#32, 0#32, x ||| 0x200#32⟩

/-! ### Registers -/

/-- The WB registers of a channel. -/
def chWb (n : Nat) : List Nat := [0x10, 0x14, 0x18, 0x1C, 0x20].map (Reg.dma n)

/-- The values staged for a channel apply (R610). -/
def chApply (n : Nat) (s : State) : State :=
  (chWb n).foldl (fun s a =>
    match tget none s.wbPend a with
    | some v => { s.wr a v with wbPend := tset none s.wbPend a none }
    | none => s) s

def chPend (s : State) (n : Nat) : Bool := (chWb n).any fun a => (tget none s.wbPend a).isSome

/-- A WB write of a channel has been staged: in ring mode it applies at once while the channel is disabled or its ring
is empty (R610). -/
def chStaged (n : Nat) (s : State) : State :=
  if chRing s n && (!chEnabled s n || ((s.dch n).cur.isNone && chEmpty s n)) then chApply n s else s

/-- CH_STAT.IDLE (R607). -/
def chIdle (s : State) (n : Nat) : Bool := (s.dch n).cur.isNone && !(s.dch n).outstanding && (s.dch n).late.isEmpty

def chStatView (s : State) (n : Nat) : Word :=
  BitVec.ofNat 32 (b2n (chIdle s n) + 2 * b2n (s.dch n).cur.isSome + 4 * b2n (chPend s n) + 16 * (s.dch n).cause)

/-- Does the channel assert its interrupt source: an event bit that its INTEN enables? -/
def chAsserts (s : State) (n : Nat) : Bool :=
  decide ((s.sq (Reg.dma n 0x0C)).view &&& s.rd (Reg.dma n 0x10) &&& 0x7F#32 ≠ 0#32)

def irqSumView (s : State) (k : Nat) : Word := BitVec.ofNat 32 (maskOf 32 fun j => chAsserts s (32 * k + j))

/-- The level of interrupt source 176 + k. -/
def dmaLevel (s : State) (k : Nat) : Bool := (List.range 8).any fun j => chAsserts s (8 * k + j)

/-! ### Stopping -/

/-- Every byte of a range that lies in memory takes a value that nothing fixes: writes already issued may or may not
land (R606). -/
def scramble (a : Nat) : Nat → State → State
  | 0, s => s
  | n + 1, s =>
    let d := s.draw
    scramble (a + 1) n (if isRam a then d.2.mwrBytes a [d.1.setWidth 8] else d.2)

/-- Clearing ENABLE: the transfer in progress is given up, and with it REMAIN, HEAD, the descriptor's status and the
bytes it was to write read back as nothing fixes (R606; assumption 15). -/
def chStop (n : Nat) (s : State) : State :=
  let x := s.dch n
  let s1 := s.wrb (Reg.dma n 0x04) 0 false
  match x.cur with
  | none => s1.modDch n fun x => { x with
      ahead := none, heldEnable := false, err := none, lines := 0, xfer := 0, late := [], outstanding := x.outstanding || !x.late.isEmpty }
  | some d =>
    let s2 := d.writes.foldl (fun s r => scramble (addr32 r.1) r.2 s) s1
    let r := s2.draw
    let s3 := r.2.wr (Reg.dma n 0x24) r.1
    let s4 :=
      if x.regMode then s3
      else
        let h := s3.draw
        (scramble (chSlot s n (chHead s n) + 0x18) 8 h.2).wrn (Reg.dma n 0x30) (fld h.1 0 12)
    s4.setDch n { DmaCh.idle with outstanding := true, cause := x.cause }

/-- A channel stops of itself: STOP and its cause (R578, R604, R608). -/
def chCause (n cause : Nat) (s : State) : State := dmaEvent [6] n (s.modDch n fun x => { x with cause := cause })

/-- What a channel requires when ENABLE is written 1 (R604). -/
def chCfgOk (s : State) (n : Nat) : Bool :=
  decide (chReq s n ≤ 11)
    && (chReq s n == 0 || !((List.range 128).any fun k => decide (k ≠ n) && chEnabled s k && decide (chReq s k = chReq s n)))
    && (!chRing s n ||
      (decide (chBase s n % 32 = 0 ∧ 2 ≤ chSize s n ∧ chSize s n ≤ 4096 ∧ chHead s n < chSize s n)
        && inSegment (chAudio s n) (chBase s n) (32 * chSize s n)))

/-- ENABLE takes effect (R604). -/
def chEnable (n : Nat) (s : State) : State :=
  if chCfgOk s n then s.wrb (Reg.dma n 0x04) 0 true else chCause n 1 s

/-- START (R574): the staged values apply, and the transfer begins. -/
def chStart (n : Nat) (s : State) : State :=
  if !chRing s n && chIdle s n then
    let s1 := chApply n s
    let d := regDesc s1 n
    (s1.wrn (Reg.dma n 0x24) d.lineLen).modDch n fun x =>
      { x with cur := some d, regMode := true, lines := 0, xfer := 0, err := none }
  else s

/-- A write of CH_CTRL: ENABLE, or START of a channel that was and stays enabled (R574, R604 to R606). -/
def chCtrlWrite (n : Nat) (v : Word) (s : State) : State :=
  let was := chEnabled s n
  let on := v.getLsbD 0
  if !on then (if was then chStop n s else s.modDch n fun x => { x with heldEnable := false })
  else if was then (if v.getLsbD 1 then chStart n s else s)
  else if chIdle s n then chEnable n s
  else s.modDch n fun x => { x with heldEnable := true }

/-- The accesses that were outstanding when a channel stopped have completed, and an ENABLE held for them takes effect
(R605, R607). -/
def heldEnable (n : Nat) (s : State) : State :=
  let x := s.dch n
  if x.outstanding then
    let s1 := s.setDch n { x with outstanding := false, heldEnable := false }
    if x.heldEnable then chEnable n s1 else s1
  else s

/-- By a hinge, every access issued before a stop has completed (R607; DESIGN CHOICE, assumption 15). -/
def dmaHinge (s : State) : State := s.dma.ch.foldl (fun s x => heldEnable x.1 s) s

/-- A write of CH_TAIL (R578). -/
def chTailWrite (n : Nat) (v : Word) (s : State) : State :=
  if fld v 0 12 < chSize s n then s.wrn (Reg.dma n 0x34) (fld v 0 12) else chCause n 4 s

/-- The oldest bus error outstanding for a BARRIER 0 descriptor whose status has been written returns: LATE_ERR, with the address and code 2
and the descriptor's index (R594). -/
def lateErr (n : Nat) (s : State) : State :=
  match (s.dch n).late with
  | [] => s
  | (i, a) :: t =>
    if (s.dch n).cur.isSome && chHead s n == i then s
    else dmaEvent [5] n (((s.modDch n fun x => { x with late := t }).wr (Reg.dma n 0x38) a).wrn (Reg.dma n 0x3C) (2 + 65536 * i))

/-- Every channel stops (R609). -/
def chsStop (s : State) : State :=
  ((List.range 128).filter fun n => chEnabled s n || (s.dch n).cur.isSome || (s.dch n).heldEnable).foldl (fun s n => chStop n s) s

/-- A write of DMA.CTRL (R609). -/
def dmaEnableWrite (on : Bool) (s : State) : State :=
  let s1 := s.wrb 0x400B0004 0 on
  if on then s1 else chsStop s1

/-- DMA block reset, the registers apart: every channel stops as R606 states. -/
def dmaBlockReset (s : State) : State := { chsStop s with dma := ⟨[]⟩ }

/-! ### Request lines (R599, chapter 20) -/

/-- Is a request line asserted? Lines 2 and 3, of which no chapter says when, are taken as their command finds them. -/
def lineAsserted (s : State) (q : Nat) : Bool :=
  match q with
  | 1 => !s.net.hostRing.isEmpty
  | 4 => !(tget Uart.init s.ports.uart 0).rx.isEmpty
  | 5 => decide ((tget Uart.init s.ports.uart 0).tx.length < 64)
  | 6 => !(tget Uart.init s.ports.uart 1).rx.isEmpty
  | 7 => decide ((tget Uart.init s.ports.uart 1).tx.length < 64)
  | 8 => !(tget I2c.init s.ports.i2c 0).rsp.isEmpty
  | 9 => !(tget I2c.init s.ports.i2c 1).rsp.isEmpty
  | 10 => !(tget Can.init s.ports.can 0).rx.isEmpty
  | 11 => !(tget Can.init s.ports.can 1).rx.isEmpty
  | _ => true

/-- `n` bytes of a number, highest first: the order of the network. -/
def beBytes (n v : Nat) : List Byte := (leBytes n v).reverse

/-- The bytes of a received frame as the host ring gets them: addresses, VLAN tag, type and payload; what the model does
not carry of a frame takes values that nothing fixes (assumption 15). -/
def frameBytes (f : NetFrame) (s : State) : List Byte × State :=
  let tag := match f.vlan with
    | some (p, v) => beBytes 2 0x8100 ++ beBytes 2 (p * 8192 + v)
    | none => []
  let head := beBytes 6 f.dst.toNat ++ beBytes 6 f.src.toNat ++ tag
  let known := match f.body with
    | .other t pl => head ++ beBytes 2 t ++ pl
    | .arp .. => head ++ beBytes 2 0x0806
    | .ptp _ _ _ _ pl => head ++ beBytes 2 0x88F7 ++ pl
    | _ => head ++ beBytes 2 0x0800
  let r := drawBytes ((f.len - known.length + 3) / 4) s
  ((known ++ r.1).take f.len, r.2)

end Sys2Proof.Machine
end

