-- ==== Sys2Proof/Machine/Dict.lean ====
section
/-! DEFINITION. The object dictionary (chapter 16): descriptor records, values, the checks of a request, queues, completion,
the persistent log, heartbeats and tenant reset. What a request does to the rest of the part is in DictExec.lean. -/

namespace Sys2Proof.Machine
open Sys2Proof

namespace Reg
def descBase : Nat := 0x400A0020
def descCount : Nat := 0x400A0024
def dictGrp : Nat := 0x400A0028
def hostTen : Nat := 0x400A002C
def htimeout : Nat := 0x400A0030
def dictEvt : Nat := 0x400A0034
def dictEvtSrc : Nat := 0x400A0038
def dictStat : Nat := 0x400A0040
def hringBase : Nat := 0x400A0080
def hringSize : Nat := 0x400A0084
def hcons : Nat := 0x400A008C
def tenHb (t : Nat) : Nat := 0x400A0104 + 0x40 * t
def tenCnt (t j : Nat) : Nat := 0x400A0110 + 0x40 * t + 4 * j
def qBase (q : Nat) : Nat := 0x400A0400 + 0x10 * q
def qSize (q : Nat) : Nat := 0x400A0404 + 0x10 * q
def qProd (q : Nat) : Nat := 0x400A0408 + 0x10 * q
def qCons (q : Nat) : Nat := 0x400A040C + 0x10 * q
end Reg

def State.modDict (s : State) (f : Dict → Dict) : State := { s with dict := f s.dict }
def dictEvent (bit t : Nat) (s : State) : State := sqSet Reg.dictEvt [bit] (s.wrn Reg.dictEvtSrc t)

/-! ### Descriptor records (R492 to R494) -/

/-- One descriptor record. -/
structure DRec where
  first : Nat
  last : Nat
  subFirst : Nat
  subLast : Nat
  type : Nat
  backing : Nat
  persist : Nat
  za : Bool
  stream : Bool
  rights : Nat
  len : Nat
  shift : Nat
  base : Nat
  istride : Nat
  sstride : Nat
  min : Word
  max : Word
  dflt : Word
  deriving DecidableEq, Repr

/-- The record with number `k` of the table in the Hearth. -/
def recAt (s : State) (k : Nat) : DRec :=
  let w := fun i => BitVec.ofNat 32 (s.mrd ((s.rd Reg.descBase).toNat + 32 * k + 4 * i) 4)
  { first := fld (w 0) 0 16, last := fld (w 0) 16 16, subFirst := fld (w 1) 0 8, subLast := fld (w 1) 8 8,
    type := fld (w 1) 16 5, backing := fld (w 1) 24 3, persist := fld (w 1) 28 2, za := (w 1).getLsbD 30,
    stream := (w 1).getLsbD 31, rights := fld (w 2) 0 16, len := fld (w 2) 16 11, shift := fld (w 2) 27 5,
    base := (w 3).toNat, istride := fld (w 4) 0 16, sstride := fld (w 4) 16 16, min := w 5, max := w 6, dflt := w 7 }

def recs (s : State) : List DRec := (List.range (s.rdf Reg.descCount 0 13)).map (recAt s)

def DRec.hasIndex (r : DRec) (i : Nat) : Bool := decide (r.first ≤ i ∧ i ≤ r.last)
def DRec.has (r : DRec) (i sub : Nat) : Bool := r.hasIndex i && decide (r.subFirst ≤ sub ∧ sub ≤ r.subLast)
/-- The record of an entry. -/
def recOf (s : State) (i sub : Nat) : Option DRec := (recs s).find? fun r => r.has i sub
/-- The address of an entry's element. -/
def DRec.elem (r : DRec) (i sub : Nat) : Nat := r.base + (i - r.first) * r.istride + (sub - r.subFirst) * r.sstride

/-- Do two records name an entry in common? -/
def DRec.meets (a b : DRec) : Bool :=
  decide (a.first ≤ b.last ∧ b.first ≤ a.last ∧ a.subFirst ≤ b.subLast ∧ b.subFirst ≤ a.subLast)
/-- Are two records in order? -/
def DRec.before (a b : DRec) : Bool := decide (a.first < b.first ∨ (a.first = b.first ∧ a.subFirst ≤ b.subFirst))

/-- The number of the first record that is out of order or meets an earlier one (R493). -/
def badRec : List DRec → Nat → List DRec → Option Nat
  | _, _, [] => none
  | seen, k, r :: rs =>
    if (match seen with
      | [] => false
      | p :: _ => !p.before r) || seen.any fun x => x.meets r then some k
    else badRec (r :: seen) (k + 1) rs

/-! ### Types and values (R495, R557) -/

/-- The bytes of a fixed-width type; none for OCTETS and TEXT, and for a code that no type has. -/
def typeBytes : Nat → Option Nat
  | 0 | 1 | 5 => some 1
  | 2 | 6 | 10 | 11 | 15 => some 2
  | 3 | 7 | 9 | 12 => some 4
  | 4 | 8 | 13 | 14 => some 8
  | _ => none

/-- The bits that a value of the type takes in its word. -/
def typeBits (t : Nat) : Nat := if t = 0 then 1 else 8 * (typeBytes t).getD 4

/-- Bytes that continue a UTF-8 character. -/
def utf8Tail : Nat → List Byte → Option (List Byte)
  | 0, bs => some bs
  | n + 1, b :: bs => if b.toNat / 64 = 2 then utf8Tail n bs else none
  | _ + 1, [] => none

/-- Well-formed UTF-8, by at most `fuel` characters. -/
def utf8Ok : Nat → List Byte → Bool
  | _, [] => true
  | 0, _ :: _ => false
  | fuel + 1, b :: bs =>
    let v := b.toNat
    let second : Nat := ((bs.head?).map (·.toNat)).getD 0
    let step := fun (n : Nat) (ok : Bool) => if ok then (match utf8Tail n bs with
      | some r => utf8Ok fuel r
      | none => false) else false
    if v < 0x80 then utf8Ok fuel bs
    else if 0xC2 ≤ v ∧ v < 0xE0 then step 1 true
    else if 0xE0 ≤ v ∧ v < 0xF0 then
      step 2 ((v != 0xE0 || decide (0xA0 ≤ second)) && (v != 0xED || decide (second < 0xA0)))
    else if 0xF0 ≤ v ∧ v < 0xF5 then
      step 3 ((v != 0xF0 || decide (0x90 ≤ second)) && (v != 0xF4 || decide (second < 0x90)))
    else false

/-- A value of signed types as a number. -/
def signedOf (n v : Nat) : Int := if v < 2 ^ (8 * n - 1) then (v : Int) else (v : Int) - (2 ^ (8 * n) : Nat)

/-- The range check of a value (R495). -/
def rangeOk (r : DRec) (value : List Byte) : Bool :=
  let v := leNat value
  let n := value.length
  let uns := decide (r.min.toNat ≤ v ∧ v ≤ r.max.toNat)
  let sig := decide (r.min.toInt ≤ signedOf n v ∧ signedOf n v ≤ r.max.toInt)
  let digits := (List.range (2 * n)).all fun k => decide (v / 16 ^ k % 16 ≤ 9)
  match r.type with
  | 0 => decide (v ≤ 1)
  | 1 | 2 | 3 | 10 => uns
  | 5 | 6 | 7 | 9 | 11 => sig
  | 12 => digits && uns
  | 13 => digits
  | 15 => decide (v ≤ 0x3FF ∨ v = 0xFFFF)
  | 17 => utf8Ok (n + 1) value
  | _ => true

/-- TYPE agrees, and so does the length (R557). -/
def typeOk (r : DRec) (m : Member) : Bool :=
  m.type == r.type && (match typeBytes r.type with
    | some n => m.value.length == n
    | none => decide (r.type = 16 ∨ r.type = 17) && decide (m.value.length ≤ r.len))

/-! ### Checks of a request (R499 to R511) -/

/-- The zone owner table, 0x2100 + z : 6. -/
def zoneOwner (s : State) (z : Nat) : Nat := tget 0 s.dict.zoneOwner z

/-- The entries that the Warden serves (R792), by whether they may be written; their types. -/
def wardenEntry (i sub : Nat) : Option (Nat × Bool) :=
  match i with
  | 0x8000 => if sub = 1 then some (1, false) else if sub = 2 then some (2, false) else if sub = 3 then some (3, false) else none
  | 0x8001 => if sub ≤ 7 then some (16, false) else none
  | 0x8002 => if sub = 0 then some (1, false) else if sub ≤ 64 then some (16, false) else none
  | 0x8003 => if sub = 0 then some (1, false) else if sub = 1 then some (1, true) else none
  | 0x8004 => if sub = 0 then some (4, false) else none
  | 0x8100 => if 1 ≤ sub ∧ sub ≤ 4 then some (1, false) else if sub = 5 ∨ sub = 6 then some (3, false) else none
  | 0x8101 => if 1 ≤ sub ∧ sub ≤ 6 then some (3, false) else if sub = 7 then some (1, false) else none
  | 0x8102 => if sub = 1 then some (0, true) else if sub = 2 then some (1, true) else none
  | 0x8103 => if sub = 1 then some (1, false) else if sub = 2 then some (0, true) else none
  | _ => none
def wardenIndex (i : Nat) : Bool := [0x8000, 0x8001, 0x8002, 0x8003, 0x8004, 0x8100, 0x8101, 0x8102, 0x8103].contains i

/-- Status of the checks of one member, or of a read (`m.value` empty then): 0 for one that passes them all (R507). -/
def checkMember (s : State) (t queue : Nat) (warden write : Bool) (m : Member) : Nat :=
  let i := m.index
  if warden then
    if i / 0x1000 ≠ 8 then 5
    else if queue = 4 then 5
    else if !wardenIndex i then 3
    else match wardenEntry i m.sub with
      | none => 4
      | some (ty, wr) =>
        if write then
          if !wr then 5
          else if m.type ≠ ty ∨ m.value.length ≠ (typeBytes ty).getD 0 then 7
          else if ty = 0 ∧ 1 < leNat m.value then 8 else 0
        else if wr then 5 else 0
  else if i / 0x1000 = 8 then 5
  else if !(recs s).any fun r => r.hasIndex i then 3
  else match recOf s i m.sub with
    | none => 4
    | some r =>
      if queue = 4 ∧ r.stream = false then 5
      else if !decide (r.rights / 2 ^ (2 * t + b2n write) % 2 = 1) then 5
      else if !write then 0
      else if r.persist = 2 then 5
      else if 0x2100 ≤ i ∧ i < 0x2180 ∧ 1 ≤ m.sub ∧ m.sub ≤ 5 ∧ t ≠ 0 ∧ zoneOwner s (i - 0x2100) ≠ t then 5
      else if 0x3000 ≤ i ∧ i < 0x3100 ∧ nodeTarget s (i - 0x3000) m.sub ≠ 0 ∧ nodeOwner s (i - 0x3000) m.sub ≠ t then 5
      else if s.modes.mode = .evacuate ∧ t ≠ 0 ∧ r.za = true then 6
      else if !typeOk r m then 7
      else if !rangeOk r m.value then 8
      else if i = 0x2000 ∧ m.sub = 1 then 8
      else 0

/-- The first member to fail: its status and its position from 1 (R511). -/
def checkMembers (s : State) (t queue : Nat) (warden : Bool) : Nat → List Member → Nat × Nat
  | _, [] => (0, 0)
  | k, m :: ms =>
    let st := checkMember s t queue warden true m
    if st ≠ 0 then (st, k) else checkMembers s t queue warden (k + 1) ms

/-- The entries that a request names (R505). -/
def opEntries : ReqOp → List (Nat × Nat)
  | .read i sub => [(i, sub)]
  | .write m => [(m.index, m.sub)]
  | .group _ ms => ms.map fun m => (m.index, m.sub)
  | _ => []

/-- Does a write-group break R510? -/
def groupBad (s : State) (count : Nat) (ms : List Member) : Bool :=
  let es := opEntries (.group count ms)
  decide (count = 0 ∨ 128 < count) || decide (es.eraseDups.length ≠ es.length)
    || es.any fun e => match recOf s e.1 e.2 with
      | some r => r.backing == 4
      | none => true

/-- The line sets that members would stage, with each word as it would be (R516). -/
def linesBad (s : State) (ms : List Member) : Bool :=
  let ws := ms.filterMap fun m => (recOf s m.index m.sub).bind fun r =>
    if r.backing = 3 then some (r.elem m.index m.sub, BitVec.ofNat 32 (leNat m.value)) else none
  let lines := (ws.filterMap fun w => match apTable w.1 with
    | some (.line n e _) => some (n, e)
    | _ => none).eraseDups
  lines.any fun ne =>
    let rd := fun off =>
      let a := Reg.lineWord ne.1 ne.2 off
      match ws.find? fun w => w.1 == a with
      | some w => w.2
      | none => stagedWord s (.line ne.1 ne.2) a
    !lineOk ((s.rd (Reg.lineWord ne.1 ne.2 0)).getLsbD 30) (rd 4).toNat (rd 8).toNat (lineTaps rd)

/-- Status and detail of a request's checks as it is taken (R507). -/
def checkRequest (s : State) (t : Nat) (q : Req) : Nat × Nat :=
  match q.op with
  | .read i sub => (checkMember s t q.queue q.warden false ⟨i, sub, 0, []⟩, 0)
  | .write m =>
    let k := checkMember s t q.queue q.warden true m
    (if k = 0 ∧ q.warden = false ∧ linesBad s [m] then 8 else k, 0)
  | .group n ms =>
    let k := checkMembers s t q.queue q.warden 1 ms
    if k.1 ≠ 0 then k
    else if !q.warden && linesBad s ms then (8, 0)
    else if q.warden || groupBad s n ms then (9, 0) else (0, 0)
  | .bad => (17, 0)
  | _ => (0, 0)

/-! ### Requests on the queues (R501 to R509) -/

/-- A TENANT record: its CODE and DATA are not stated, so nothing fixes them (assumption 14). -/
def tenantRecord (t : Nat) (crit : Bool) (s : State) : State :=
  let c := s.draw
  let a := c.2.draw
  let b := a.2.draw
  let d := b.2.draw
  makeRecord (24 + t) (if crit then 5 else 2) (0x8000 + c.1.toNat % 0x8000) (dataWords a.1 b.1 d.1) d.2

/-- A count of a tenant advances: 0 RIGHTS, 1 BUSY, 2 AUTH, 3 HB_LOST, 4 RESETS. -/
def tenantCount (t j : Nat) (s : State) : State := s.incSat (Reg.tenCnt t j)

/-- A request placed on the tenant's queues is a heartbeat; the first one after a loss ends it (R528, R530). -/
def heartbeat (t : Nat) (s : State) : State :=
  let s1 := s.modTenant t fun x => { x with lost := false, hbSince := s.dict.hinges }
  if (s.tenant t).lost then tenantRecord t false s1 else s1

/-- A queue index moves on by `n` round its ring. -/
def ringStep (a size n : Nat) (s : State) : State :=
  s.wrn a (if size = 0 then (s.rd a).toNat else ((s.rd a).toNat + n) % size)

/-- Why a request is not placed: 1 BUSY, 2 TAG_DUP, 0 placed (R502, R503, R531). -/
def placeCause (s : State) (t tag : Nat) : Nat :=
  let x := s.tenant t
  if x.st ≠ .active ∨ x.resetting ≠ 0 ∨ 256 ≤ x.reqs.length then 1
  else if x.reqs.any fun q => decide (q.tag = tag) then 2 else 0

/-- Place a request on queue 0, 1 or 4 of a tenant: it takes the tenant's next arrival number (R501). `adv` says whether the
engine moves the queue's producer index itself. -/
def placeRequest (t queue tag : Nat) (op : ReqOp) (sess : Option Nat) (sid : Word) (warden adv : Bool) (s : State) : State :=
  let x := s.tenant t
  let arr := x.arrival + 1#32
  let q : Req := ⟨tag, arr, queue, op, sess, sid, warden, .queued, 0, 0#32, 0, []⟩
  let s1 := heartbeat t (s.setTenant t { x with arrival := arr, reqs := x.reqs ++ [q] })
  if adv then ringStep (Reg.qProd (8 * t + queue)) (s.queueSize (8 * t + queue)) 1 s1 else s1

/-- The OP code of a request (chapter 17). -/
def opCode : ReqOp → Nat
  | .read _ _ => 1
  | .write _ => 2
  | .group _ _ => 3
  | .subscribe _ _ _ => 4
  | .unsubscribe _ => 5
  | .nop => 6
  | .bad => 0

/-- The type code of a READ's value. -/
def respType (s : State) (q : Req) : Nat :=
  match q.op with
  | .read i sub => if q.warden then ((wardenEntry i sub).map (·.1)).getD 0 else ((recOf s i sub).map (·.type)).getD 0
  | _ => 0

/-- The session that carried a request, while it is still open (R548, R560). -/
def reqSession (s : State) (q : Req) : Option Session :=
  match q.sess with
  | none => none
  | some n => match tget none s.ril.sessions n with
    | some x => if x.sid = q.sid then some x else none
    | none => none

/-- Change one outstanding request. -/
def modReq (t tag : Nat) (f : Req → Req) (s : State) : State :=
  s.modTenant t fun x => { x with reqs := x.reqs.map fun q => if q.tag = tag then f q else q }

/-- The outstanding request of a tenant with a tag. -/
def reqOf (s : State) (t tag : Nat) : Option Req := (s.tenant t).reqs.find? fun q => decide (q.tag = tag)

/-- Place the response of a complete request, if the response queue has room: the request is no longer outstanding then (R502,
R509); a session that has closed gets none (R548). -/
def placeResponse (t : Nat) (q : Req) (s : State) : State :=
  let x := s.tenant t
  let rest := x.reqs.filter fun y => decide (y.tag ≠ q.tag)
  if q.sess.isSome && (reqSession s q).isNone then s.setTenant t { x with reqs := rest }
  else if x.resps.length < s.queueSize (8 * t + 2) then
    let r : Resp := ⟨q.tag, q.status, opCode q.op, q.hinge, q.detail, respType s q, q.value, q.sess, q.sid⟩
    ringStep (Reg.qProd (8 * t + 2)) (s.queueSize (8 * t + 2)) 1 (s.setTenant t { x with reqs := rest, resps := x.resps ++ [r] })
  else modReq t q.tag (fun y => { y with st := .held, status := q.status, hinge := q.hinge, detail := q.detail, value := q.value }) s

/-- A request completes with a status (R508); a RIGHTS answer is counted (R499). -/
def finish (t tag status : Nat) (hinge : Word) (detail : Nat) (value : List Byte) (s : State) : State :=
  match reqOf s t tag with
  | none => s
  | some q =>
    let s1 := placeResponse t { q with status := status, hinge := hinge, detail := detail, value := value } s
    if status = 5 then dictEvent 0 t (tenantCount t 0 s1) else s1

/-- A completion that was held is placed now that the response queue has room (R509). -/
def responseHoldRelease (t : Nat) (s : State) : State :=
  match (s.tenant t).reqs.find? fun q => q.st == .held with
  | some q => if (s.tenant t).resps.length < s.queueSize (8 * t + 2) ∨ q.sess.isSome && (reqSession s q).isNone then placeResponse t q s else s
  | none => s

/-! ### Taking requests (R505, R507) -/

/-- Does a request name an entry of one of the given earlier ones? -/
def blockedBy (earlier : List Req) (q : Req) : Bool :=
  earlier.any fun o => (opEntries o.op).any fun e => (opEntries q.op).contains e

/-- The first request of a queue that R505 allows, among requests in order of arrival. -/
def firstTakeable (queue : Nat) : List Req → List Req → Option Req
  | _, [] => none
  | earlier, q :: qs =>
    if q.st = .queued ∧ q.queue = queue ∧ blockedBy earlier q = false then some q
    else firstTakeable queue (earlier ++ [q]) qs

/-- What the engine may take of a tenant's queue: nothing during a tenant reset or while a completion is held (R509, R531). -/
def takeable (s : State) (t queue : Nat) : Option Req :=
  let x := s.tenant t
  if x.st = .active ∧ x.resetting = 0 ∧ (x.reqs.all fun q => q.st != .held) then firstTakeable queue [] x.reqs else none

/-- The first tenant, round robin from a place on, that has something to take of a queue. -/
def roundRobin (s : State) (queue start : Nat) (ts : List Nat) : Option (Nat × Req) :=
  (ts.map fun k => (start + k) % 8).findSome? fun t => (takeable s t queue).map fun q => (t, q)

/-- The engine's next decision (chapter 16, taking requests): the tenant, the request and the round-robin places after it. -/
def nextTake (s : State) : Option (Nat × Req × (Dict → Dict)) :=
  match takeable s 0 0 with
  | some q => some (0, q, id)
  | none => match roundRobin s 0 s.dict.rrUrgent (List.range 8) with
    | some (t, q) => some (t, q, fun d => { d with rrUrgent := t + 1 })
    | none => match roundRobin s 4 s.dict.rrStream (List.range 8) with
      | some (t, q) => some (t, q, fun d => { d with rrStream := t + 1 })
      | none => match roundRobin s 1 s.dict.rrNormal (List.range 8) with
        | some (t, q) => some (t, q, fun d => { d with rrNormal := t + 1 })
        | none => none

/-- The engine runs: enabled, its log loaded, and no sleep under way. -/
def dictRuns (s : State) : Bool := s.enabled 10 && s.dict.loaded && s.modes.sleep == .awake

/-- REQUEST_TAKE: the checks are made against the state now in force; a request that fails one is answered (R505, R507). -/
def requestTake (s : State) : State :=
  if dictRuns s then
    match nextTake s with
    | none => s
    | some (t, q, f) =>
      let s1 := ringStep (Reg.qCons (8 * t + q.queue)) (s.queueSize (8 * t + q.queue)) 1 (s.modDict f)
      let k := checkRequest s t q
      if k.1 ≠ 0 then finish t q.tag k.1 0#32 k.2 [] s1
      else modReq t q.tag (fun q => { q with st := .taken }) s1
  else s

/-- A taken request that a command names. -/
def takenReq (s : State) (t tag : Nat) : Option Req :=
  if dictRuns s then (reqOf s t tag).bind fun q => if q.st = .taken then some q else none else none

/-! ### The persistent log (R521 to R524) -/

/-- The base of a half of the log. -/
def logHalf (h : Nat) : Nat := keepBase + 0x500000 + 0x80000 * h

/-- The lines of one record. -/
def logLines (seq : Word) (r : LogRec) : List (List Byte) :=
  let parts := max 1 ((r.value.length + 47) / 48)
  (List.range parts).map fun k =>
    let v := (r.value.drop (48 * k)).take 48
    let b := leBytes 4 seq.toNat ++ leBytes 2 r.index ++ leBytes 1 r.sub ++ leBytes 1 k ++ leBytes 2 r.value.length
      ++ leBytes 1 (parts - 1) ++ leBytes 1 (8 * b2n r.factory) ++ v ++ List.replicate (48 - v.length) 0#8
    b ++ leBytes 4 (crc32 b)

/-- A write of a PERSIST or FACTORY entry in force asks for a record (R521). -/
def logMembers (s : State) (t tag : Nat) (warden : Bool) (ms : List Member) : List LogRec :=
  ms.filterMap fun m => if warden then none else (recOf s m.index m.sub).bind fun r =>
    if r.persist = 1 ∨ r.persist = 2 then some ⟨t, tag, m.index, m.sub, m.value, decide (r.persist = 2)⟩ else none

/-- The members that a request writes. -/
def opMembers : ReqOp → List Member
  | .write m => [m]
  | .group _ ms => ms
  | _ => []

/-- The lengths that the values of members in force have, where their type does not fix it. -/
def noteLengths (ms : List Member) (s : State) : State :=
  s.modDict fun d => { d with
    lengths := ms.foldl (fun t m =>
      if (typeBytes m.type).isSome then t else tset none t (256 * m.index + m.sub) (some m.value.length)) d.lengths }

/-- A write is in force: its response follows, after its log records if it persists (R496, R518, R521). -/
def writeInForce (t tag status : Nat) (hinge : Word) (detail : Nat) (s : State) : State :=
  match reqOf s t tag with
  | none => s
  | some q =>
    let rs := logMembers s t tag q.warden (opMembers q.op)
    let s := noteLengths (opMembers q.op) s
    if rs = [] then finish t tag status hinge detail [] s
    else (modReq t tag (fun q => { q with st := .logging rs.length, status := status, hinge := hinge, detail := detail }) s).modDict
      fun d => { d with log := d.log ++ rs }

/-- One record of the log has been dealt with; `ok` says whether it was written (R524). -/
def recordLogged (r : LogRec) (ok : Bool) (s : State) : State :=
  match reqOf s r.tenant r.tag with
  | none => s
  | some q => match q.st with
    | .logging n =>
      let st := if ok then q.status else 15
      if n ≤ 1 then finish r.tenant r.tag st q.hinge q.detail [] s
      else modReq r.tenant r.tag (fun q => { q with st := .logging (n - 1), status := st }) s
    | _ => s

/-- PERSIST_RECORD: the oldest record is appended to the active half, or cannot be: there is no room, or the Keep has not
taken a line, which `ok` says (R521, R522, R524, R691). -/
def persistRecord (ok : Bool) (s : State) : State :=
  match s.dict.log with
  | [] => s
  | r :: rest =>
    let ls := logLines (s.dict.logSeq + 1#32) r
    let s1 := s.modDict fun d => { d with log := rest }
    if ok ∧ s.dict.line + ls.length ≤ 8192 then
      let s2 := s1.mwrBytes (logHalf s.dict.half + 64 * s.dict.line) ls.flatten
      let s3 := s2.modDict fun d => { d with
        line := d.line + ls.length, logSeq := d.logSeq + 1#32, compacting := d.compacting || decide (7680 ≤ d.line + ls.length) }
      recordLogged r true s3
    else recordLogged r false s1

/-- A complete record read from the log: sequence number, entry, FACTORY and value. -/
structure LogEntry where
  seq : Nat
  index : Nat
  sub : Nat
  factory : Bool
  value : List Byte
  deriving DecidableEq, Repr

/-- Is a line a record's part with a good CRC? -/
def lineGood (b : List Byte) : Bool := decide (leNat (b.drop 60) = crc32 (b.take 60))

/-- The record that begins at the head of a list of lines, if all of its parts stand there (R523). -/
def entryHere (ls : List (List Byte)) : Option LogEntry :=
  match ls with
  | [] => none
  | b :: _ =>
    let parts := le b 10 1 + 1
    let mine := ls.take parts
    if lineGood b && decide (le b 7 1 = 0) && decide (mine.length = parts)
        && (List.range parts).all fun k => match mine[k]? with
          | some x => lineGood x && decide (le x 0 4 = le b 0 4 ∧ le x 7 1 = k)
          | none => false then
      some ⟨le b 0 4, le b 4 2, le b 6 1, decide (le b 11 1 / 8 % 2 = 1), ((mine.flatMap fun x => cut x 12 48).take (le b 8 2))⟩
    else none

/-- Every complete record of a list of lines, with whether some line was bad. -/
def logEntries : List (List Byte) → List LogEntry
  | [] => []
  | b :: bs => match entryHere (b :: bs) with
    | some e => e :: logEntries bs
    | none => logEntries bs

/-- The lines of a half that have been written: all but those that still read as an erased or zeroed line. -/
def halfLines (s : State) (h n : Nat) : List (List Byte) :=
  (List.range n).map fun k => memBytes s.mem (logHalf h + 64 * k) 64
def blankLine (b : List Byte) : Bool := b.all (· == 0#8) || b.all (· == 0xFF#8)

/-- The newest record of each entry. -/
def newest (es : List LogEntry) : List LogEntry :=
  es.filter fun e => !es.any fun f => f.index == e.index && f.sub == e.sub && decide (e.seq < f.seq)

/-- COMPACTION: the newest record of every entry is copied into the other half, which becomes active (R522). -/
def compaction (s : State) : State :=
  if s.dict.compacting then
    let es := newest (logEntries (halfLines s s.dict.half s.dict.line))
    let ls := es.flatMap fun e => logLines (BitVec.ofNat 32 e.seq) ⟨8, 0, e.index, e.sub, e.value, e.factory⟩
    let other := 1 - s.dict.half
    (s.mwrBytes (logHalf other) ls.flatten).modDict fun d => { d with half := other, line := ls.length, compacting := false }
  else s

/-! ### The handler ring (R519, R520) -/

def hringSize (s : State) : Nat := s.rdf Reg.hringSize 0 11
/-- Is the ring empty? It asserts level source 161 while it is not. -/
def hringLevel (s : State) : Bool := decide (s.dict.hprod ≠ (s.rd Reg.hcons).toNat)
def hringFull (s : State) : Bool :=
  decide ((s.dict.hprod + 1) % hringSize s = (s.rd Reg.hcons).toNat % hringSize s) || decide (hringSize s = 0)
    || (tget none s.dict.hslots s.dict.hprod).isSome

/-- A taken HANDLER request is passed to the ring; how its record lays out its fields is not stated, so its 32 bytes are free
values (assumption 14). A full ring leaves it taken. -/
def passHandler (t tag : Nat) (s : State) : State :=
  if hringFull s then s
  else
    let slot := s.dict.hprod
    let d := drawBytes 8 s
    let s1 := d.2.mwrBytes ((s.rd Reg.hringBase).toNat + 32 * slot) d.1
    modReq t tag (fun q => { q with st := .handler slot })
      (s1.modDict fun x => { x with hprod := (slot + 1) % hringSize s, hslots := tset none x.hslots slot (some (t, tag, s.dict.hinges)) })

/-- The value that a handler answered a READ with: nothing says where it stands (assumption 14). -/
def handlerValue (r : DRec) (s : State) : List Byte × State :=
  let d := drawBytes ((r.len + 3) / 4 + 2) s
  match typeBytes r.type with
  | some n => (d.1.take n, d.2)
  | none =>
    let l := d.2.draw
    (d.1.take (l.1.toNat % (r.len + 1)), l.2)

/-- A handler request ends: `result` as DICT.HDONE carries it (R520). -/
def handlerEnd (t tag result : Nat) (s : State) : State :=
  match reqOf s t tag with
  | none => s
  | some q =>
    if result ≠ 0 then finish t tag 14 0#32 result [] s
    else match q.op with
      | .read i sub =>
        let v := match recOf s i sub with
          | some r => handlerValue r s
          | none => ([], s)
        finish t tag 0 0#32 0 v.1 v.2
      | _ => writeInForce t tag 0 0#32 0 s

/-- A write of DICT.HDONE; one for a request that is no longer waiting is ignored. -/
def hdone (v : Word) (s : State) : State :=
  let slot := fld v 0 10
  match tget none s.dict.hslots slot with
  | none => s
  | some (t, tag, _) => handlerEnd t tag (fld v 16 16) (s.modDict fun d => { d with hslots := tset none d.hslots slot none })

/-- HANDLER_TIMEOUT: the request in a slot, not completed within HTIMEOUT hinges, completes with TIMEOUT (R520). -/
def handlerTimeout (slot : Nat) (s : State) : State :=
  match tget none s.dict.hslots slot with
  | none => s
  | some (t, tag, since) =>
    if s.dict.hinges < since + max 1 (s.rdf Reg.htimeout 0 24) then s
    else dictEvent 4 t (finish t tag 13 0#32 0 [] (s.modDict fun d => { d with hslots := tset none d.hslots slot none }))

/-! ### Tenants (R525 to R533) -/

/-- A tenant reset is accepted (R531); an armed graph swap of the tenant is cancelled at its hinge (R378, R532). A reset during a
reset merges with it. -/
def requestReset (t : Nat) (del : Bool) (s : State) : State :=
  let x := s.tenant t
  if x.st = .absent then s
  else
    let s1 := if s.rdf Reg.gswapCfg 0 4 = t then cancelSwap s else s
    s1.setTenant t { x with st := .resetting, resetting := max 1 x.resetting, del := x.del || del }

/-- Has no heartbeat of a tenant arrived for HB_MISS × HB_PERIOD, 16 hinges to a millisecond (R528)? -/
def heartbeatDue (s : State) (t : Nat) : Bool :=
  decide ((s.tenant t).hbSince + 16 * (s.rdf (Reg.tenHb t) 16 4 * s.rdf (Reg.tenHb t) 0 16) ≤ s.dict.hinges)

/-- HEARTBEAT_LOST (R528, R529). -/
def heartbeatLost (t : Nat) (s : State) : State :=
  let x := s.tenant t
  if x.st = .active ∧ x.lost = false ∧ s.enabled 10 = true ∧ heartbeatDue s t = true then
    let s1 := tenantCount t 3 (dictEvent 2 t (s.setTenant t { x with lost := true }))
    let s2 := tenantRecord t (t == 0) s1
    let s3 := if t = 0 then summaryCheck s2 else s2
    match if t = 0 then 0 else s.rdf (Reg.tenHb t) 20 2 with
    | 1 => s3.modTenant t fun x => { x with releaseDue := true }
    | 2 => requestReset t false s3
    | _ => s3
  else s

/-- The players that a tenant owns stop (R403, R532). -/
def playersReset (t : Nat) (s : State) : State :=
  (List.range 16).foldl (fun s p => if playerOwner s p = t then playerFade p (clearBoth Reg.msgRun p s) else s) s

/-- The hinge h1 of a tenant reset, after the buffered writes and claims, and HB_ACTION 1 (R528, R532). -/
def tenantsH1 (s : State) : State :=
  (List.range 8).foldl (fun s t =>
    let x := s.tenant t
    let s1 := if x.releaseDue then (rerank (releaseAll t s)).modTenant t fun x => { x with releaseDue := false } else s
    if x.resetting = 1 then
      (safeTenantReset t (playersReset t (toneTenantReset t (weldTenantReset t s1)))).modTenant t fun x => { x with resetting := 2 }
    else s1) s

/-- DICT.TEN_STATE_t and DICT.STAT as they read. -/
def tenStateView (s : State) (t : Nat) : Word :=
  let x := s.tenant t
  let c := match x.st with
    | .absent => 0
    | .active => 1
    | .resetting => 2
  BitVec.ofNat 32 (c + 16 * b2n x.lost + 65536 * x.reqs.length)
def dictStatView (s : State) : Word :=
  BitVec.ofNat 32 (b2n s.dict.loaded + 2 * b2n s.dict.compacting + 65536 * (s.dict.badRec % 4096))

/-- A write of DICT.CTRL.ENABLE: an engine that is disabled has nothing loaded. -/
def dictEnableWrite (on : Bool) (s : State) : State :=
  if on then s else s.modDict fun d => { d with loaded := false }

/-! ### Local requests (R535) -/

/-- A member of a write, from its bytes: the member, and what follows it. -/
def memberOf (b : List Byte) : Option (Member × List Byte) :=
  if b.length < 6 then none
  else
    let n := le b 4 2
    if b.length < 6 + n then none else some (⟨le b 0 2, le b 2 1, le b 3 1, cut b 6 n⟩, b.drop (6 + n))

def membersOf : Nat → List Byte → Option (List Member)
  | 0, _ => some []
  | n + 1, b => (memberOf b).bind fun r => (membersOf n r.2).map fun ms => r.1 :: ms

/-- A request from its OP code and the bytes after its head; none where they are too short (R556). -/
def opOf (op : Nat) (b : List Byte) : Option ReqOp :=
  match op with
  | 1 => if b.length < 4 then none else some (.read (le b 0 2) (le b 2 1))
  | 2 => (memberOf b).map fun r => .write r.1
  | 3 => if b.length < 2 then none else (membersOf (le b 0 1) (b.drop 2)).map fun ms => .group (le b 0 1) ms
  | 4 => if b.length < 12 then none else some (.subscribe (le b 0 1) (le b 1 1) (BitVec.ofNat 64 (le b 4 8)))
  | 5 => if b.length < 4 then none else some (.unsubscribe (le b 0 1))
  | 6 => some .nop
  | _ => some .bad

/-- May this master advance the producer index of a queue (R535)? -/
def qprodOk (s : State) (host : Bool) (q : Nat) : Bool :=
  [0, 1, 4].contains (q % 8) && (!host || s.bit Reg.hostTen (q / 8))

/-- The request that entry `k` of a queue's ring names: tag and operation, its buffer laid out as a Riller record. -/
def ringRequest (s : State) (q k : Nat) : Nat × ReqOp :=
  let a := (s.rd (Reg.qBase q)).toNat + 16 * k
  let buf := memBytes s.mem (s.mrd a 4) (s.mrd (a + 4) 4 % 0x10000)
  (s.mrd (a + 8) 2, (opOf (le buf 2 1) ((buf.drop 6).take (le buf 4 2))).getD .bad)

/-- A producer write that R535 allows: each new entry of the ring is placed. -/
def localRequests (q : Nat) (v : Word) (s : State) : State :=
  let size := s.queueSize q
  let old := (s.rd (Reg.qProd q)).toNat
  let n := if size = 0 then 0 else (v.toNat + size - old % size) % size
  (List.range n).foldl (fun s k =>
    let r := ringRequest s q ((old + k) % size)
    match placeCause s (q / 8) r.1 with
    | 0 => placeRequest (q / 8) (q % 8) r.1 r.2 none 0#32 false false s
    | 1 => dictEvent 1 (q / 8) (tenantCount (q / 8) 1 s)
    | _ => s) (s.wr (Reg.qProd q) v)

/-- A consumer write of a response, event or log-tap queue frees its entries. -/
def queueConsume (q : Nat) (v : Word) (s : State) : State :=
  let size := s.queueSize q
  let old := (s.rd (Reg.qCons q)).toNat
  let n := if size = 0 then 0 else (v.toNat + size - old % size) % size
  let s1 := s.wr (Reg.qCons q) v
  match q % 8 with
  | 2 => s1.modTenant (q / 8) fun x => { x with resps := x.resps.drop n }
  | 3 => s1.modTenant (q / 8) fun x => { x with events := x.events.drop n }
  | 5 => s1.modTenant (q / 8) fun x => { x with taps := x.taps.drop n }
  | _ => s1

/-- REQUEST_PLACEMENT by a local master or the front end's place of an authenticated record, without a session. -/
def requestPlacement (t queue tag : Nat) (op : ReqOp) (s : State) : State :=
  if [0, 1, 4].contains queue = false ∨ (s.tenant t).st = .absent then s
  else match placeCause s t tag with
    | 0 => placeRequest t queue tag op none 0#32 false true s
    | 1 => dictEvent 1 t (tenantCount t 1 s)
    | _ => s

/-- Heartbeat time counts afresh for every tenant: at the engine's enable and at wake. -/
def heartbeatsRestart (s : State) : State :=
  (List.range 8).foldl (fun s t => s.modTenant t fun x => { x with hbSince := s.dict.hinges }) s

end Sys2Proof.Machine
end

