-- ==== Sys2Proof/Machine/Tdm.lean ====
section
/-! DEFINITION. Rate bridges (chapter 4) and TDM ports (chapter 14). -/

namespace Sys2Proof.Machine
open Sys2Proof

namespace Reg
def brdgEvt : Nat := 0x40060024
def brdgEvtSrc : Nat := 0x40060028
def tdmMclk : Nat := 0x40080024
def tdmEvt : Nat := 0x40080028
def tdmEvtSrc : Nat := 0x4008002C
def tdmFrame (p : Nat) : Nat := 0x40080104 + 0x20 * p
def tdmMask (p : Nat) : Nat := 0x40080108 + 0x20 * p
def tdmErrs (p : Nat) : Nat := 0x40080118 + 0x20 * p
def tdmClips (p : Nat) : Nat := 0x4008011C + 0x20 * p
end Reg

def bridgeEvent (bit n : Nat) (s : State) : State := sqSet Reg.brdgEvt [bit] (s.wrn Reg.brdgEvtSrc n)
def tdmEvent (bit p : Nat) (s : State) : State := sqSet Reg.tdmEvt [bit] (s.wrn Reg.tdmEvtSrc p)

/-! ### Rate bridges (R127 to R139) -/

def brInput (w : Word) : Nat := fld w 8 10
def brAsync (w : Word) : Bool := w.getLsbD 7
def brInsel (w : Word) : Bool := w.getLsbD 6
def brIn (w : Word) : Option Dom := domOf (fld w 0 2)
def brOut (w : Word) : Option Dom := domOf (fld w 2 2)

/-- The configuration of a bridge is refused (R130). -/
def bridgeBad (s : State) (n : Nat) : Bool :=
  let w := s.rd (Reg.bridgeCfg n)
  if brAsync w then (brOut w).isNone || decide (5 < fld w 8 3)
  else match brIn w, brOut w with
    | some i, some o =>
      i == o || (if brInsel w then decide (0xFF < brInput w) || i != .m
        else laneDom s (brInput w) != some i)
    | _, _ => true

/-- The latency of a running synchronous bridge, in output frames (R128). -/
def bridgeLatency (w : Word) : Nat :=
  let long := w.getLsbD 5
  match brIn w, brOut w with
  | some .m, some .f => if long then 32 else 2
  | some .f, some .m => if long then 16 else 1
  | some .m, some .v => if long then 8 else 1
  | some .v, some .m => if long then 24 else 3
  | some .f, some .v => if long then 8 else 1
  | some .v, some .f => if long then 48 else 6
  | _, _ => 0

/-- F frames between strikes of a domain (R102). -/
def domStep : Dom → Nat
  | .f => 1
  | .m => 2
  | .v => 6

/-- A filter tap. The largest stands where the latency table puts the largest sample of an impulse's response (R128). -/
def bridgeTapAt (w : Word) (t : Nat) : Int :=
  match brIn w, brOut w with
  | some i, some o =>
    let kind := w.toNat % 64
    let unit := min (domStep i) (domStep o)
    let top := bridgeLatency w * domStep o / unit
    let peak : Int := 1 + (Config.bridgeTap kind top).natAbs
    if t = top then (if Config.bridgeTap kind top < 0 then -peak else peak) else clampInt (-peak) peak (Config.bridgeTap kind t)
  | _, _ => 0

/-- The output of a synchronous bridge: its filter over its latest inputs, the newest of them `age` F frames old (R127,
R128). A sum that is no whole number rounds either way (assumption 3). -/
def bridgeValue (w : Word) (age : Nat) (hist : List Word) : Word :=
  match brIn w, brOut w with
  | some i, some o =>
    let unit := min (domStep i) (domStep o)
    BitVec.ofInt 32 (scaleOpen 44 ((hist.mapIdx fun k v => bridgeTapAt w ((age + k * domStep i) / unit) * v.toInt).foldl (· + ·) 0)
      1 16777216)
  | _, _ => 0#32

/-- The check of R130, made at every hinge for an enabled bridge. -/
def bridgeCheck (n : Nat) (s : State) : State :=
  let b := s.bridge n
  if b.st = .off then s
  else if bridgeBad s n then
    if b.cfgErr then s
    else bridgeEvent 0 n (s.setBridge n { b with cfgErr := true, st := .hold, rising := false })
  else if b.cfgErr then
    s.setBridge n { b with cfgErr := false, st := if brAsync (s.rd (Reg.bridgeCfg n)) then .acquire else .run,
                           hist := [], scale := 0, rising := !brAsync (s.rd (Reg.bridgeCfg n)), steady := 0 }
  else s

/-- An asynchronous bridge as it starts: in ACQUIRE, its FIFOs at their target fill with silence (R133, R138). -/
def Bridge.acquiring : Bridge :=
  { Bridge.off with st := .acquire, fifo := List.replicate 32 [], outFifo := List.replicate 32 [] }

/-- A bridge starts or stops at a hinge (R138). One that stops fades what it gives out. -/
def bridgeSwitch (n : Nat) (s : State) : State :=
  let on := s.enabled 6 && s.bit Reg.bridgeEn n
  let b := s.bridge n
  if on && b.st == .off then
    let b1 := if brAsync (s.rd (Reg.bridgeCfg n)) then .acquiring else { Bridge.off with st := .run, rising := true }
    if bridgeBad s n then bridgeEvent 0 n (s.setBridge n { b1 with st := .hold, cfgErr := true, rising := false })
    else s.setBridge n b1
  else if !on && b.st != .off then
    s.setBridge n { b with st := .off, rising := false, cfgErr := false, ratioRange := false, stopped := false,
                           slipping := false }
  else s

/-- BRDG's buffered write and its checks at a hinge. -/
def bridgeBuffered (s : State) : State :=
  let t := takeBuffered (fun a => decide (a = Reg.bridgeEn)) s
  let s1 := t.2.foldl (fun s x => s.wr x.1 x.2) t.1
  (List.range 32).foldl (fun s n => bridgeCheck n (bridgeSwitch n s)) s1

/-- A synchronous bridge reads its input at a strike of its input domain (R127). -/
def bridgeIn (d : Dom) (n : Nat) (s : State) : State :=
  let w := s.rd (Reg.bridgeCfg n)
  let b := s.bridge n
  if b.st = .run ∧ !brAsync w ∧ brIn w = some d then
    let v := if brInsel w then weldOut s (brInput w) else s.laneRead (brInput w)
    s.setBridge n { b with hist := (v :: b.hist).take 96 }
  else s

/-- A bridge writes its lane at a strike of its output domain (R127, R138); an asynchronous one's own lane is silent
(R131). -/
def bridgeOut (d : Dom) (n : Nat) (s : State) : State :=
  let w := s.rd (Reg.bridgeCfg n)
  let b := s.bridge n
  if (b.st = .off ∧ b.scale = 0) ∨ brOut w ≠ some d then s
  else if brAsync w then s.lanePut (0x250 + n) 0#32
  else
    let scale := scaleMove b.scale b.rising
    let age := s.mclk.frameCnt.toNat % domStep ((brIn w).getD .f)
    (s.lanePut (0x250 + n) (scaled 13 (bridgeValue w age b.hist) scale)).setBridge n { b with scale := scale }

/-! ### Asynchronous bridges (R131 to R138) -/

/-- The values of one slot among frames. -/
def slotAmong (k : Nat) (l : List (List Word)) : List Word := l.map fun f => (f[k]?).getD 0#32

/-- The resampled frame that a bridge forms of `n` slots from what it has taken, newest first; silence of silence. -/
def resampled (w ratio : Word) (acc n : Nat) (l : List (List Word)) : List Word :=
  (List.range n).map fun k =>
    let v := slotAmong k l
    if v.all (· == 0#32) then 0#32 else Config.asyncFilter w ratio acc v

/-- The FIFO at its target fill of 32 external frames: the oldest go, or silence is put before them (R133, R135). -/
def centred (l : List (List Word)) : List (List Word) := List.replicate (32 - l.length) [] ++ l.drop (l.length - 32)

/-- External frames' worth of one media-side frame: whole frames, and the fraction kept (R133). -/
def asyncAdvance (b : Bridge) : Nat × Nat :=
  let t := ((b.acc : Int) + b.ratio.toNat + Config.asyncTrim b.ratio b.fifo.length).toNat
  (t / 2 ^ 28, t % 2 ^ 28)

/-- One media-side frame of the data of an asynchronous bridge on a port of `n` slots whose destinations hold `out`:
external frames are taken and a media-side frame is formed of them, and as many external frames are formed to be sent
(R131, R133, R137). While the bridge does not run, its FIFOs are held at their target. -/
def Bridge.advance (w : Word) (n : Nat) (out : List Word) (b : Bridge) : Bridge :=
  let a := asyncAdvance b
  let k := a.1
  let taken := ((b.fifo.take k).reverse ++ b.taken).take 64
  let outTaken := (out :: b.outTaken).take 64
  let made := (List.range k).map fun j =>
    resampled w b.ratio (b.acc + j) n (if b.st = .run ∨ b.st = .off then outTaken.drop 16 else [])
  let b1 := { b with
    acc := a.2, taken := taken, outTaken := outTaken,
    pipe := (resampled w b.ratio a.2 n taken :: b.pipe).take 17,
    fifo := b.fifo.drop k, outFifo := (b.outFifo ++ made).take 64 }
  if b.st = .run ∨ b.st = .off then b1 else { b1 with fifo := centred b1.fifo, outFifo := centred b1.outFifo }

/-- The media-side frame that the lanes of a port read, 16 media-side frames after it was formed, at the bridge's scale
(R134, R137). -/
def Bridge.lanes (b : Bridge) (n : Nat) : List Word :=
  (List.range n).map fun k => scaled 15 ((((b.pipe[16]?).getD [])[k]?).getD 0#32) b.scale

/-- What follows from a media-side frame: the scale moves, a slip ends once silence is reached, with every FIFO back at
its target, and a fill outside 4 to 60 begins one (R135). Says whether it does. -/
def Bridge.settle (b : Bridge) : Bridge × Bool :=
  let b1 := { b with scale := scaleMove b.scale b.rising, silentFrames := min 64 (b.silentFrames + 1) }
  let out := fun (k : Nat) => decide (k < 4 ∨ 60 < k)
  if b.st ≠ .run then (b1, false)
  else if b.slipping then
    if b1.scale = 0 then
      ({ b1 with slipping := false, rising := true, fifo := centred b.fifo, outFifo := centred b.outFifo }, false)
    else (b1, false)
  else if out b.fifo.length || out b.outFifo.length then
    ({ b1 with slipping := true, rising := false, slips := b.slips + 1#32 }, true)
  else (b1, false)

/-- BRIDGE_RUN: the ratio estimate of an asynchronous bridge has held steady for 1024 external frames (R134). -/
def bridgeRun (n : Nat) (s : State) : State :=
  let b := s.bridge n
  if b.st = .acquire ∧ b.steady = 1024 then
    bridgeEvent 4 n (s.setBridge n { b with st := .run, rising := true, scale := 0, outScale := 0 })
  else s

/-- BRIDGE_STOPPED: no external frame for 64 media-side frames (R136). -/
def bridgeStopped (n : Nat) (s : State) : State :=
  let b := s.bridge n
  if brAsync (s.rd (Reg.bridgeCfg n)) ∧ b.st ≠ .off ∧ b.cfgErr = false ∧ b.silentFrames = 64 ∧ !b.stopped then
    bridgeEvent 2 n (s.setBridge n { b with st := .acquire, stopped := true, rising := false, slipping := false, steady := 0 })
  else s

/-- Consecutive external frames whose ratio estimate stays within ±1 ppm, and of which ratio (R134). -/
def Bridge.steadied (ratio : Word) (b : Bridge) : Bridge :=
  if ((ratio.toNat : Int) - b.steadyRef.toNat).natAbs * 1000000 ≤ b.steadyRef.toNat then
    { b with steady := min 1024 (b.steady + 1) }
  else { b with steady := 0, steadyRef := ratio }

/-- An external frame of its port reaches an asynchronous bridge (R132, R133, R136), and one leaves (R131). -/
def asyncReceived (n phase : Nat) (slots : List Word) (s : State) : State :=
  let b := s.bridge n
  let ratio := Config.asyncRatio b.ratio phase
  let bad := decide (ratio.toNat < 0x02000000 ∨ 0x80000000 < ratio.toNat)
  let b0 := { b with fifo := (b.fifo ++ [slots]).take 64, outFifo := b.outFifo.drop 1, outScale := scaleMove b.outScale b.rising }
  let b1 := (if b.stopped then { b0 with steady := 0 } else b0).steadied ratio
  let b2 := { b1 with ratio := ratio, silentFrames := 0, stopped := false }
  if b.st = .off then s.setBridge n b0
  else if b.cfgErr then s.setBridge n { b0 with silentFrames := 0 }
  else if bad then
    let s1 := s.setBridge n { b2 with ratioRange := true, st := .hold, rising := false, slipping := false, steady := 0 }
    if b.ratioRange then s1 else bridgeEvent 3 n s1
  else if b.ratioRange then s.setBridge n { b2 with ratioRange := false, st := .acquire, steady := 0 }
  else s.setBridge n b2

def bridgeCode : BridgeSt → Nat
  | .off => 0
  | .run => 1
  | .acquire => 2
  | .hold => 3

def bstatView (s : State) (n : Nat) : Word :=
  let b := s.bridge n
  let w := s.rd (Reg.bridgeCfg n)
  let lat := if b.st = .off ∨ brAsync w then 0 else bridgeLatency w
  BitVec.ofNat 32 (lat * 65536 + (if brAsync w then b.fifo.length else 0) * 256 + 16 * b2n b.stopped + 8 * b2n b.ratioRange + 4 * b2n b.cfgErr
    + bridgeCode b.st)

def ratioView (s : State) (n : Nat) : Word :=
  if brAsync (s.rd (Reg.bridgeCfg n)) then (s.bridge n).ratio else 0#32

/-! ### TDM words (R431, R432) -/

/-- The width in BCLKs or the word length in bits that a two-bit field names. -/
def tdmBits (v : Nat) : Nat := if v = 0 then 16 else if v = 1 then 24 else 32

def portWord (s : State) (p : Nat) : Nat := tdmBits (s.rdf (Reg.tdmCfg p) 6 2)
def portWidth (s : State) (p : Nat) : Nat := tdmBits (s.rdf (Reg.tdmCfg p) 4 2)
def portSlots (s : State) (p : Nat) : Nat := s.rdf (Reg.tdmCfg p) 9 5 + 1
def portSlave (s : State) (p : Nat) : Bool := s.bit (Reg.tdmCfg p) 8

/-- An input word of `w` bits as H24 (R431). -/
def tdmIn (w : Nat) (x : Word) : Word :=
  let v := sval w (x.toNat % 2 ^ w)
  if w = 32 then BitVec.ofInt 32 (v / 128) else BitVec.ofInt 32 (v * (2 ^ (25 - w) : Nat))

/-- H24 as an output word of `w` bits, and whether the clamp changed it (R432). -/
def tdmOut (w : Nat) (v : Word) : Word × Bool :=
  let c := clamp24 v.toInt
  let r : Int := if w = 32 then c * 128 else (2 * c + (2 ^ (25 - w) : Nat)) / (2 ^ (26 - w) : Nat)
  let top : Int := (2 ^ (w - 1) : Nat)
  (BitVec.ofNat 32 ((if r = top then r - 1 else r) % (2 ^ w : Nat)).toNat, decide (c ≠ v.toInt))

def tdmLane (p k : Nat) : Nat := 0x100 + 32 * p + k

/-! ### The wires of a frame (R430, R433, R434) -/

/-- BCLK periods of a frame, and the core cycles of a frame of the port's domain (R434). -/
def frameLen (s : State) (p : Nat) : Nat := s.rdf (Reg.tdmFrame p) 0 12
def portPeriod (s : State) (p : Nat) : Nat := 30720 / framesPerHinge ((portDom s p).getD .m)

/-- The bit of a slot that BCLK period t after the FSYNC edge carries: the slot, and the place of the bit from the most
significant bit of the slot on. -/
def wireSlot (s : State) (p t : Nat) : Option (Nat × Nat) :=
  let d := s.rdf (Reg.tdmCfg p) 17 1
  if t < d ∨ portSlots s p * portWidth s p + d ≤ t then none else some ((t - d) / portWidth s p, (t - d) % portWidth s p)

/-- DOUT in BCLK period t of the frame under way: none while it is high-impedance (R430, R433). -/
def doutAt (s : State) (p t : Nat) : Option Bool :=
  match wireSlot s p t with
  | none => none
  | some (k, j) => (((s.tport p).tx[k]?).getD none).map fun w =>
      decide (j < portWord s p) && w.getLsbD (portWord s p - 1 - j)

/-- The words that a frame's bits on DIN, by BCLK period, give the slots; bits after the word's are ignored (R430). -/
def dinWords (s : State) (p : Nat) (bits : List Bool) : List Word :=
  (List.range (portSlots s p)).map fun k =>
    BitVec.ofNat 32 ((List.range (portWord s p)).foldl (fun a j =>
      2 * a + b2n ((bits[s.rdf (Reg.tdmCfg p) 17 1 + k * portWidth s p + j]?).getD false)) 0)

/-- FSYNC's level in BCLK period t of a frame (R430). -/
def fsyncAt (s : State) (p t : Nat) : Bool :=
  decide (t < if s.bit (Reg.tdmCfg p) 14 then frameLen s p / 2 else 1) != s.bit (Reg.tdmCfg p) 15

/-- A master's BCLK in core cycle c after a strike, the launch edge first: with BCLK_EDGE 0 data is launched as it falls
(R434). -/
def bclkAt (s : State) (p c : Nat) : Bool :=
  let div := portPeriod s p / frameLen s p
  let high := (div + 1) / 2
  if s.bit (Reg.tdmCfg p) 16 then decide (c % div < high) else decide (div - high ≤ c % div)

/-! ### Starting and stopping a port (R446 to R449) -/

/-- The first cause of R447 that a port fails on, 0 for none. -/
def portCause (s : State) (p : Nat) : Nat :=
  let cfg := s.rd (Reg.tdmCfg p)
  let len := s.rdf (Reg.tdmFrame p) 0 12
  let dom := domOf (fld cfg 0 2)
  let slots := portSlots s p
  let per := 30720 / framesPerHinge (dom.getD .m)
  if dom = none ∧ (asyncBridge s p).isNone then 1
  else if slots < 2 ∨ portWidth s p < portWord s p ∨ len < slots * portWidth s p + fld cfg 17 1 then 2
  else if !portSlave s p && decide (per % len ≠ 0 ∨ per / len < 10 ∨ 4095 < per / len) then 3
  else if cfg.getLsbD 14 && decide (len % 2 = 1) then 4
  else 0

/-- A disabled port's lanes are written by no block, and it sends no frame (R449). -/
def portStop (p : Nat) (s : State) : State :=
  (List.range 32).foldl (fun s k => s.setLane (tdmLane p k) LaneVal.zero)
    (s.setTport p { TdmPort.off with slips := (s.tport p).slips })

/-- A port starts or stops at a hinge (R447 to R449). -/
def portSwitch (p : Nat) (s : State) : State :=
  let on := s.enabled 8 && s.bit Reg.tdmEn p
  let x := s.tport p
  if on && x.st == .off then
    let k := portCause s p
    if k = 0 then
      s.setTport p { TdmPort.off with
        st := if portSlave s p then .acquire else .run, scale := if portSlave s p then 0 else 16,
        rising := !portSlave s p }
    else tdmEvent 0 p ((clearBoth Reg.tdmEn p s).setTport p { x with cause := k })
  else if !on && x.st != .off then portStop p s
  else s

/-- TDM's buffered write at a hinge, and the divider of MCLK_OUT, which changes there (R446, R450). -/
def tdmBuffered (s : State) : State :=
  let t := takeBuffered (fun a => decide (a = Reg.tdmEn)) s
  let s1 := t.2.foldl (fun s x => s.wr x.1 x.2) t.1
  let s2 := { s1 with mclk := { s1.mclk with outDiv := min 2 (s1.rdf Reg.tdmMclk 0 2) } }
  (List.range 6).foldl (fun s p => portSwitch p s) s2

/-- MCLK_OUT: the media clock divided by this, or nothing while it is not driven (R450). -/
def mclkOut (s : State) : Option Nat :=
  if s.bit Reg.tdmMclk 8 && mediaRuns s then some (2 ^ s.mclk.outDiv) else none

/-! ### Loss of framing (R440 to R445) -/

/-- A port enters LOF: its lanes fade from what they read (R442, R443). -/
def enterLof (p cause : Nat) (s : State) : State :=
  let x := s.tport p
  if x.st = .off ∨ x.st = .lof then s
  else
    let s1 := (List.range (portSlots s p)).foldl (fun s k =>
      let l := s.lane (tdmLane p k)
      s.setLane (tdmLane p k) { l with raw := l.pub }) s
    tdmEvent 1 p (s1.setTport p { x with st := .lof, cause := cause, scale := 16, rising := false, good := 0 })

/-- Do frames of a slave port count towards a slip: the port runs, or a run of good frames towards RUN is under way (R440,
R444, assumption 8)? -/
def TdmPort.counts (x : TdmPort) : Bool := x.st == .run || decide (0 < x.good)

/-- A slip (R440): two within 1024 frames are loss of framing with cause DRIFT (R442). -/
def slip (p : Nat) (s : State) : State :=
  let x := s.tport p
  let s1 := tdmEvent 3 p (s.setTport p { x with slips := x.slips + 1#32, slipAge := some 0, good := 0 })
  match x.slipAge with
  | some a => if a < 1024 then enterLof p 7 s1 else s1
  | none => s1

/-- An unbroken run of 16 good frames brings a slave port to RUN (R444). -/
def regain (p : Nat) (s : State) : State :=
  let x := s.tport p
  if (x.st = .acquire ∨ x.st = .lof) ∧ 16 ≤ x.good then
    tdmEvent 2 p (s.setTport p { x with st := .run, scale := 0, rising := true, slipAge := none })
  else s

/-- A clamped output sample (R432). -/
def tdmClip (p : Nat) (s : State) : State := tdmEvent 4 p (s.incSat (Reg.tdmClips p))

/-- The values that a port's output slots take from their destinations. -/
def outValues (p : Nat) (s : State) : List Word × State :=
  (List.range (portSlots s p)).foldl (fun (acc : List Word × State) k =>
    let d := tdmLane p k
    let base := match spwOfSlot acc.2 d with
      | some c => (acc.2.spw c).hist
      | none => tget 0#32 acc.2.weld.dest d
    let v := if portDom acc.2 p = some .f then addPilots d base acc.2 else (base, acc.2)
    (acc.1 ++ [v.1], v.2)) (([] : List Word), s)

/-- The words of an output frame, by slot; none for a masked slot (R432, R433). -/
def outWords (p : Nat) (vals : List Word) (s : State) : List (Option Word) × State :=
  (List.range (portSlots s p)).foldl (fun (acc : List (Option Word) × State) k =>
    let o := tdmOut (portWord acc.2 p) ((vals[k]?).getD 0#32)
    let s1 := if o.2 then tdmClip p acc.2 else acc.2
    (acc.1 ++ [if s1.bit (Reg.tdmMask p) k then some o.1 else none], s1)) (([] : List (Option Word)), s)

/-- The words of an output frame from the values its destinations hold. -/
def outFrame (p : Nat) (s : State) : List (Option Word) × State :=
  let v := outValues p s
  outWords p v.1 v.2

/-- One strike of the port's domain for a master port: its frame goes out, and the slots it samples are in their lanes
for the next frame (R434 to R437). -/
def masterFrame (p : Nat) (din : List Word) (s : State) : State :=
  let o := outFrame p s
  let s1 := o.2.setTport p { o.2.tport p with tx := o.1 }
  (List.range (portSlots s p)).foldl (fun s k =>
    s.lanePut (tdmLane p k) (tdmIn (portWord s p) ((din[k]?).getD 0#32))) s1

/-- The input lanes of a locked slave at a strike: what was received since the strike before belongs to the frame that
ended (R438, R440, R443, R444). -/
def slaveIn (p : Nat) (s : State) : State :=
  let x := s.tport p
  let scale := scaleMove x.scale x.rising
  let s1 := (List.range (portSlots s p)).foldl (fun s k =>
    let l := s.lane (tdmLane p k)
    let raw := if x.st = .run ∧ x.rxNew ≠ 0 then tdmIn (portWord s p) ((x.rx[k]?).getD 0#32) else l.raw
    if x.st = .run ∨ x.st = .lof then
      s.setLane (tdmLane p k) { l with pub := scaled 14 raw scale, raw := raw, held := l.pub, pend := none }
    else s) s
  let s2 := s1.setTport p { s1.tport p with
    scale := scale, rxNew := 0, idle := min 2 (x.idle + 1), slipAge := (s1.tport p).slipAge.map fun a => min 1024 (a + 1) }
  if x.counts && x.rxNew != 1 then slip p s2 else s2

/-- The output of a locked slave at a strike: the values of the frame that begins wait for an output frame; a third frame
that waits drops the oldest, which is not sent (R439, R440). -/
def slaveOut (p : Nat) (s : State) : State :=
  let o := outFrame p s
  let x := o.2.tport p
  let w := x.txWait ++ [o.1]
  let s1 := o.2.setTport p { x with txWait := w.drop (w.length - 2) }
  if x.counts && decide (2 < w.length) then slip p s1 else s1

/-- An output frame of a locked slave starts, its FSYNC edge `phase` core cycles after the strike of frame k: 4 BCLK periods
or more after it, frame k may be assigned to it, before that only an earlier one. The latest that may is sent; each that it
passes over is a slip, and with none to assign the frame repeats what it sent, a slip too (R439, R440). -/
def slaveSend (p phase : Nat) (s : State) : State :=
  let x := s.tport p
  let may := if 4 * portPeriod s p ≤ phase * frameLen s p then x.txWait else x.txWait.dropLast
  match may.getLast? with
  | none => if x.counts then slip p s else s
  | some f =>
    let s1 := s.setTport p { x with tx := f, txWait := x.txWait.drop may.length }
    if x.counts && decide (1 < may.length) then slip p s1 else s1

/-- A media-side strike of a port bound to an asynchronous bridge: its destinations are taken, its bridge advances, and
its lanes take the frame that is due (R131 to R137). -/
def asyncFrame (n p : Nat) (s : State) : State :=
  let o := outValues p s
  let w := o.2.rd (Reg.bridgeCfg n)
  let b := ((o.2.bridge n).advance w (portSlots s p) o.1).settle
  let s1 := o.2.setBridge n b.1
  let s2 := if b.2 then bridgeEvent 1 n s1 else s1
  (b.1.lanes (portSlots s p)).zipIdx.foldl (fun s x => s.lanePut (tdmLane p x.2) x.1) s2

/-- What a port on an asynchronous bridge sends in an external frame: the oldest frame that the bridge has formed, at its
outward scale (R131, R134 to R137). -/
def asyncSend (n p : Nat) (s : State) : State :=
  let b := s.bridge n
  let o := outWords p (((b.outFifo.head?).getD []).map fun v => scaled 16 v b.outScale) s
  o.2.setTport p { o.2.tport p with tx := o.1 }

/-- One strike of a domain for a port. -/
def portFrame (dm : Dom) (din : List (Nat × List Word)) (p : Nat) (s : State) : State :=
  if (s.tport p).st = .off ∨ portDom s p ≠ some dm then s
  else match asyncBridge s p with
    | some n => asyncFrame n p s
    | none =>
      if portSlave s p then slaveOut p (slaveIn p s)
      else masterFrame p (((din.find? fun x => x.1 == p).map (·.2)).getD []) s

/-- RECEIVED_FRAME: a slave port's external frame ends, at the FSYNC edge of the next. One that is in place by a frame's
delivery point is sent before that frame's strike or reads (assumption 8). `spacingOk` says that its FSYNC came FRAME_LEN periods after the
one before and had the set length (R438, R439, R441, R442, R444). -/
def receivedFrame (p : Nat) (slots : List Word) (spacingOk : Bool) (phase : Nat) (s : State) : State :=
  let x := s.tport p
  if x.st = .off ∨ !portSlave s p then s
  else if !xingReady s (8 + p) then xingDropped (8 + p) s
  else
    let s0 := if spacingOk then s else s.incSat (Reg.tdmErrs p)
    match asyncBridge s p with
    | some n =>
      let s1 := s0.setTport p { x with rx := slots, phase := phase % 32768, good := 0, errs := 0 }
      asyncReceived n phase (slots.map (tdmIn (portWord s p))) (asyncSend n p s1)
    | none =>
      let good := if spacingOk then min 16 (x.good + 1) else 0
      let errs := if spacingOk then 0 else min 3 (x.errs + 1)
      let s1 := s0.setTport p { x with
        rx := slots, rxNew := x.rxNew + 1, phase := phase % 32768, idle := 0, good := good, errs := errs }
      let s2 := slaveSend p phase s1
      if 3 ≤ errs then enterLof p 5 s2 else regain p s2

/-- NO_FRAME: two frame periods pass without an FSYNC edge (R442). -/
def noFrame (p : Nat) (s : State) : State :=
  if portSlave s p ∧ (asyncBridge s p).isNone ∧ (s.tport p).idle = 2 then enterLof p 6 s else s

def tdmCode : TdmSt → Nat
  | .off => 0
  | .acquire => 1
  | .run => 2
  | .lof => 3

/-- TDM.STAT_p as it reads; a port on an asynchronous bridge reports LOF while the bridge acquires or holds (R445). -/
def tdmStatView (s : State) (p : Nat) : Word :=
  let x := s.tport p
  let st := match asyncBridge s p with
    | some n =>
      if x.st = .off then 0
      else if (s.bridge n).st = .acquire ∨ (s.bridge n).st = .hold then 3 else 2
    | none => tdmCode x.st
  BitVec.ofNat 32 (st + 16 * x.cause)

end Sys2Proof.Machine
end

