-- ==== Sys2Proof/Machine/Net.lean ====
section
/-! DEFINITION. The network ring, the PTP clock and the audio streams (chapter 15). -/

namespace Sys2Proof.Machine
open Sys2Proof

namespace Reg
def netMode : Nat := 0x40090020
def netEvt : Nat := 0x40090034
def netMacLo : Nat := 0x40090038
def netMacHi : Nat := 0x4009003C
def netIp : Nat := 0x40090040
def netHostCfg : Nat := 0x4009004C
def netDrop (b : Bool) : Nat := if b then 0x40090054 else 0x40090050
def netGap (b : Bool) : Nat := if b then 0x4009005C else 0x40090058
def ptpRate : Nat := 0x40090108
def ptpStepSec : Nat := 0x4009010C
def ptpStepNs : Nat := 0x40090110
def ptpSnap : Nat := 0x40090114
def ppsCfg : Nat := 0x40090130
def ppsInSec : Nat := 0x40090134
def ppsInNs : Nat := 0x40090138
def netRxEn (k : Nat) : Nat := 0x40090200 + 4 * (k / 32)
def netTxEn (k : Nat) : Nat := 0x40090208 + 4 * (k / 32)
def netSevt : Nat := 0x40090210
def netSevtSrc : Nat := 0x40090214
def rxWord (r off : Nat) : Nat := 0x3C600000 + 0x80 * r + off
def txWord (t off : Nat) : Nat := 0x3C610000 + 0x40 * t + off
def portCfg (b : Bool) : Nat := if b then 0x40090028 else 0x40090024
def tsCorrTx (b : Bool) : Nat := if b then 0x40090128 else 0x40090120
def tsCorrRx (b : Bool) : Nat := if b then 0x4009012C else 0x40090124
end Reg

def State.modNet (s : State) (f : Net → Net) : State := { s with net := f s.net }
def netEvent (bit : Nat) (s : State) : State := sqSet Reg.netEvt [bit] s
/-- A setting event of NET.SEVT with the stream behind it. -/
def streamEvent (bit : Nat) (tx : Bool) (k : Nat) (s : State) : State :=
  sqSet Reg.netSevt [bit] (s.wrn Reg.netSevtSrc (k + 128 * b2n tx))

/-- The Crucible (R20). -/
def crucible : Nat := 0x30000000
def crucibleSize : Nat := 0x800000

/-- The part's own MAC address. -/
def ownMac (s : State) : BitVec 48 :=
  BitVec.ofNat 48 ((s.rdf Reg.netMacHi 0 16) * 4294967296 + (s.rd Reg.netMacLo).toNat)
def ownIp (s : State) : Word := s.rd Reg.netIp
/-- NET.MODE.MODE: 0 SINGLE, 1 LINE, 2 RING; 3 names none and acts as none of them. -/
def netModeOf (s : State) : Nat := s.rdf Reg.netMode 0 2

def isGroupMac (m : BitVec 48) : Bool := m.getLsbD 40
def isGroupIp (a : Word) : Bool := decide (fld a 28 4 = 14)
/-- The MAC address of an IPv4 group (RFC 1112, R474). -/
def groupMac (a : Word) : BitVec 48 := BitVec.ofNat 48 (0x01005E000000 + fld a 0 23)

/-! ### Sending (R454, R456, R458) -/

def linkOf (s : State) (b : Bool) : Bool := if b then s.net.linkB else s.net.linkA

/-- The priority class of a frame (R456). -/
def frameClass (s : State) (f : NetFrame) : Nat :=
  match f.body with
  | .ptp .. => 0
  | .supervision _ => 2
  | .rtp .. => if f.src == ownMac s then 1 else if f.dscp = 46 then 0 else if f.dscp = 34 then 1 else 3
  | .udp _ _ sport dport _ =>
    if sport = 319 ∨ sport = 320 ∨ dport = 319 ∨ dport = 320 ∨ f.dscp = 46 then 0
    else if f.dscp = 34 then 1
    else if sport = 47130 ∨ dport = 47130 then 2
    else 3
  | _ => if f.dscp = 46 then 0 else if f.dscp = 34 then 1 else 3

/-- A frame joins those that wait, behind the last of its own or a higher class (R456). -/
def byClass (s : State) (f : NetFrame) : List NetFrame → List NetFrame
  | [] => [f]
  | g :: t => if frameClass s f < frameClass s g then f :: g :: t else g :: byClass s f t

/-- A frame joins an egress: it begins to leave at once from an idle one, and otherwise waits behind the frame on the
line (R457). -/
def enqueue (s : State) (f : NetFrame) : List NetFrame → List NetFrame
  | [] => [f]
  | g :: t => g :: byClass s f t

/-- A frame is queued for a port: it will leave, or is discarded and counted while the link is down (R454). -/
def egress (b : Bool) (f : NetFrame) (s : State) : State :=
  if linkOf s b then
    s.modNet fun n =>
      if b then { n with egressB := enqueue s f n.egressB } else { n with egressA := enqueue s f n.egressA }
  else s.inc (Reg.netDrop b)

/-- How many frames leave in an M frame, which is 2604 byte times of the line: each takes its bytes and 20 of preamble and
gap, and the first always leaves (R457; assumption 11). -/
def leaving (room : Nat) : List NetFrame → Nat
  | [] => 0
  | f :: t => if f.len + 20 ≤ room then leaving (room - (f.len + 20)) t + 1 else 0

/-- An M frame's worth of each egress leaves. -/
def egressLeave (s : State) : State :=
  s.modNet fun n =>
    let a := if n.egressA = [] then 0 else max 1 (leaving 2604 n.egressA)
    let b := if n.egressB = [] then 0 else max 1 (leaving 2604 n.egressB)
    { n with leftA := n.egressA.take a, egressA := n.egressA.drop a, leftB := n.egressB.take b, egressB := n.egressB.drop b }

/-- A frame of the part's own crosses to the switch for a port (crossing 9). -/
def ownEgress (b : Bool) (f : NetFrame) (s : State) : State := viaFifo false s.clk.netOk (2 + b2n b) (egress b f) s

/-- Where LINE mode's table places an address (R455). -/
def learnedPort (s : State) (m : BitVec 48) : Option Bool :=
  (s.net.learned.find? fun x => x.1 == m && decide ((s.net.age - x.2.2).toNat < 14400000)).map (·.2.1)

/-- The part originates a frame (R455, R458). -/
def originate (f : NetFrame) (s : State) : State :=
  match netModeOf s with
  | 2 =>
    let sq := s.net.hsrSeq
    let id := s.rdf Reg.netMode 4 3
    let s1 := s.modNet fun n => { n with hsrSeq := sq + 1#16 }
    ownEgress true { f with hsr := some (2 * id + 1, sq), len := f.len + 6 }
      (ownEgress false { f with hsr := some (2 * id, sq), len := f.len + 6 } s1)
  | 1 =>
    match (if isGroupMac f.dst then none else learnedPort s f.dst) with
    | some b => ownEgress b f s
    | none => ownEgress true f (ownEgress false f s)
  | 0 => ownEgress false f s
  | _ => s

/-- A frame of the part's own with this destination and content. -/
def ownFrame (s : State) (dst : BitVec 48) (len : Nat) (body : NetBody) : NetFrame :=
  ⟨dst, ownMac s, none, none, len, true, 0, none, body⟩

/-- Send to an IPv4 address: a group's MAC, or the ARP cache's; an address that the cache does not hold is asked for,
and the packet is dropped (R473). -/
def sendIp (dst : Word) (dscp : Nat) (ttl : Option Nat) (len : Nat) (body : NetBody) (s : State) : State :=
  let frame := fun (mac : BitVec 48) => { ownFrame s mac len body with dscp := dscp, ttl := ttl }
  if isGroupIp dst then originate (frame (groupMac dst)) s
  else
    let mask := s.rd 0x40090044
    let hop := if dst &&& mask = ownIp s &&& mask then dst else s.rd 0x40090048
    match s.net.arp.find? fun x => x.1 == hop with
    | some x => originate (frame x.2) s
    | none => originate (ownFrame s 0xFFFFFFFFFFFF#48 64 (.arp true (ownMac s) (ownIp s) hop)) s

/-! ### Links -/

/-- May a port have a link: its EN is 1, and PORT_B is not disabled by SINGLE (R455)? -/
def portOn (s : State) (b : Bool) : Bool := s.bit (Reg.portCfg b) 0 && !(b && decide (netModeOf s = 0))

/-- A port's link comes up or goes down: NET.EVT.LINK_x is set when the notification arrives, and what a port that goes
down has queued is discarded and counted (R453, R454, R42, R84). -/
def linkSet (b up : Bool) (s : State) : State :=
  if linkOf s b = up then s
  else
    let left := (if b then s.net.egressB else s.net.egressA).length
    let s0 := if up then s else s.wr (Reg.netDrop b) (s.rd (Reg.netDrop b) + BitVec.ofNat 32 left)
    let s1 := s0.modNet fun n => if b then { n with linkB := up, egressB := [] } else { n with linkA := up, egressA := [] }
    noticePost 11 (if b then 2#32 else 1#32) s1

/-- LINK_UP and LINK_DOWN: with the network clock stopped nothing sees either (R98). -/
def linkChange (b up : Bool) (s : State) : State :=
  if s.clk.netOk && (!up || portOn s b) then linkSet b up s else s

/-- A port that may no longer have a link loses it (NET.PORT_CFG_x.EN cleared, or SINGLE chosen). -/
def portsCheck (s : State) : State :=
  let f := fun (b : Bool) (s : State) => if portOn s b then s else linkSet b false s
  f true (f false s)

/-- NET.PORT_STAT_x as it reads. -/
def portStatView (s : State) (b : Bool) : Word :=
  BitVec.ofNat 32 (if linkOf s b then 5 + 2 * b2n (s.bit (0x40090024 + 4 * b2n b) 1) else 0)

/-! ### Receive streams (R478 to R491) -/

/-- Frames per packet of a PTIME code; 0 for one that is refused. -/
def ptimeFrames (v : Nat) : Nat :=
  match v with
  | 0 => 6
  | 1 => 12
  | 2 => 16
  | 3 => 48
  | 4 => 192
  | _ => 0

def rxP (s : State) (r : Nat) : Nat := ptimeFrames (s.rdf (Reg.rxWord r 0xC) 4 3)
def rxSampleBytes (s : State) (r : Nat) : Nat := if s.bit (Reg.rxWord r 4) 24 then 2 else 3
def rxD (s : State) (r : Nat) : Nat := s.rdf (Reg.rxWord r 0x10) 0 7 * rxP s r
/-- Rows of the stream's buffer (R481). -/
def rxB (s : State) (r : Nat) : Nat := rxD s r + 2 * rxP s r
def rxBase (s : State) (r : Nat) : Nat := (s.rd (Reg.rxWord r 0x18)).toNat
def rxLossPkts (s : State) (r : Nat) : Nat :=
  let n := s.rdf (Reg.rxWord r 0x10) 8 8
  if n = 0 then 8 else n

/-- The local M frame index (chapter 15, common rules). -/
def mFrame (s : State) : Nat := s.mclk.frameCnt.toNat / 2

/-- Does a UDP packet with an RTP header match the stream (R478)? -/
def rxMatches (s : State) (r : Nat) (srcIp dstIp : Word) (dport pt : Nat) : Bool :=
  let w := s.rd (Reg.rxWord r 4)
  dstIp == s.rd (Reg.rxWord r 0) && decide (dport = fld w 0 16 ∧ pt = fld w 16 7)
    && (!w.getLsbD 25 || srcIp == s.rd (Reg.rxWord r 8))

/-- One sample of a payload as H24 (R476). -/
def payloadSample (bytes : Nat) (pl : List Byte) (k : Nat) : Word :=
  let b := fun j => ((pl[bytes * k + j]?).getD 0#8).toNat
  if bytes = 3 then tdmIn 24 (BitVec.ofNat 32 (b 0 * 65536 + b 1 * 256 + b 2))
  else tdmIn 16 (BitVec.ofNat 32 (b 0 * 256 + b 1))

/-- The address of a row's channel in the buffer (R481). -/
def rxCell (s : State) (r row ch : Nat) : Nat := crucible + rxBase s r + (row * rxChannels s r + ch) * 4

/-- The samples of an accepted packet go to their rows (R481). -/
def rxStore (r start : Nat) (pl : List Byte) (s : State) : State :=
  let n := rxChannels s r
  (List.range (rxP s r)).foldl (fun s i =>
    (List.range n).foldl (fun s ch =>
      s.mwr (rxCell s r ((start + i) % max 1 (rxB s r)) ch) 4
        (payloadSample (rxSampleBytes s r) pl (n * i + ch)).toNat) s) s

/-- A copy's lead in network cycles, from frame distance and the nanoseconds since the latest M strike (R482). -/
def leadCycles (dist dt : Nat) : Int := ((dist : Int) * 62500 - 3 * (dt : Int)) / 24

/-- R480: 0 accepted, 1 LATE, 2 EARLY. -/
def rxJudge (dist dt limit : Nat) : Nat :=
  if 0x80000000 ≤ dist then 1
  else if dist * 62500 < 3 * dt + 6000 then 1
  else if limit < dist then 2
  else 0

/-- The frame a timestamp plays in, with a given OFFSET (R479). -/
def playFrame (s : State) (r : Nat) (ts offset : Word) : Word :=
  ts - s.rd (Reg.rxWord r 0x14) + BitVec.ofNat 32 (rxD s r) + offset

/-- Take one copy under R480 for the stream's OFFSET: it is accepted, a duplicate, or discarded (R479 to R482, R486). -/
def rxTake (r : Nat) (ts : Word) (pl : List Byte) (portB : Bool) (dt : Nat) (s : State) : State :=
  let x := s.rxs r
  let n := BitVec.ofNat 32 (mFrame s)
  let q := playFrame s r ts x.offset
  let dist := (q - n).toNat
  match rxJudge dist dt (rxD s r + rxP s r) with
  | 0 =>
    if x.accepted.any fun p => p.q == q then s.inc (Reg.rxWord r 0x30)
    else
      let start := x.play + dist
      let d0 := (playFrame s r ts 0#32 - n).toNat
      let fits := if x.offset = 0#32 ∨ s.mclk.st ≠ .locked then 0
        else if rxJudge d0 dt (rxD s r + rxP s r) = 0 then min 64 (x.fits + 1) else 0
      (rxStore r start pl s).setRxs r { x with
        accepted := x.accepted ++ [⟨q, start, portB⟩], strays := 0, fits := fits,
        returnDue := x.returnDue || decide (64 ≤ fits) }
  | 1 => (s.inc (Reg.rxWord r 0x34)).setRxs r { x with strays := min 16 (x.strays + 1) }
  | _ => (s.inc (Reg.rxWord r 0x38)).setRxs r { x with strays := min 16 (x.strays + 1) }

/-- Sixteen stray copies in a row in LOSS with REALIGN: OFFSET is set so that this copy plays D − P + 1 frames ahead, and
it is taken again (R486). -/
def rxRealign (r : Nat) (ts : Word) (pl : List Byte) (portB : Bool) (dt : Nat) (s : State) : State :=
  let x := s.rxs r
  if x.st = .loss ∧ s.bit (Reg.rxWord r 0x10) 16 ∧ 16 ≤ x.strays then
    let n := BitVec.ofNat 32 (mFrame s)
    let q := playFrame s r ts x.offset
    let want := n + BitVec.ofNat 32 (rxD s r) - BitVec.ofNat 32 (rxP s r) + 1#32
    let s1 := s.setRxs r { x with offset := x.offset + (want - q), realigned := true, strays := 0 }
    rxTake r ts pl portB dt (streamEvent 3 false r s1)
  else s

/-- A matching packet reaches a stream (R478 to R482). -/
def rxPacket (r : Nat) (ts : Word) (pl : List Byte) (portB : Bool) (dt : Nat) (s : State) : State :=
  if pl.length ≠ rxChannels s r * rxP s r * rxSampleBytes s r then s.inc (Reg.rxWord r 0x3C)
  else
    let q := playFrame s r ts (s.rxs r).offset
    let dist := (q - BitVec.ofNat 32 (mFrame s)).toNat
    let lead : Int := if 0x80000000 ≤ dist then 0 else max 0 (leadCycles dist dt)
    let s1 := s.inc (Reg.rxWord r (if portB then 0x48 else 0x44))
    let s2 := if lead < ((s1.rd (Reg.rxWord r 0x40)).toNat : Int) then s1.wrn (Reg.rxWord r 0x40) lead.toNat else s1
    rxRealign r ts pl portB dt (rxTake r ts pl portB dt s2)

/-- The packet whose frames cover the play count. -/
def rxCurrent (s : State) (r : Nat) : Option RxPkt :=
  let x := s.rxs r
  x.accepted.find? fun p => decide (p.start ≤ x.play ∧ x.play < p.start + rxP s r)

/-- The first frame of a packet: it counts as played, and ends WAIT and, the fourth in a row, LOSS (R483, R485, R491). -/
def rxPlays (r : Nat) (p : RxPkt) (s : State) : State :=
  let x := s.rxs r
  let played := min 4 (x.played + 1)
  let back := x.st == .loss && decide (4 ≤ played)
  let s1 := (s.inc (Reg.rxWord r 0x28)).setRxs r { x with
    portB := p.portB, missing := 0, played := played, rising := true, due := some (p.start + rxP s r),
    st := if x.st = .wait ∨ back then .run else x.st }
  if back then streamEvent 1 false r s1 else s1

/-- One M frame of a receive stream: its play count, its lanes and their fade (R479, R481, R483, R489). -/
def rxFrame (r : Nat) (s : State) : State :=
  let x0 := s.rxs r
  if x0.st = .off then s
  else
    let play := x0.play + 1
    let s0 := s.setRxs r { x0 with
      play := play, accepted := x0.accepted.filter fun p => decide (play < p.start + rxP s r) }
    let cur := if x0.stopping then none else rxCurrent s0 r
    let s1 := match cur with
      | some p => if p.start = play then rxPlays r p s0 else s0
      | none => s0.setRxs r { s0.rxs r with rising := false }
    let x := s1.rxs r
    let scale := scaleMove x.scale (x.rising && cur.isSome)
    let s2 := (List.range (rxChannels s1 r)).foldl (fun s ch =>
      let l := rxLaneFirst s r + ch
      let v := s.lane l
      let raw := match cur with
        | some _ => BitVec.ofNat 32 (s.mrd (rxCell s r (play % max 1 (rxB s r)) ch) 4)
        | none => if x.scale = 16 then v.pub else v.raw
      s.setLane l { pub := scaled 16 raw scale, raw := raw, pend := none, held := v.pub }) s1
    if x.stopping && decide (scale = 0) then
      (List.range (rxChannels s2 r)).foldl (fun s ch => s.setLane (rxLaneFirst s r + ch) LaneVal.zero)
        (s2.setRxs r { RxStream.off with cause := x.cause, offset := x.offset })
    else s2.setRxs r { s2.rxs r with scale := scale }

/-- MISSING_PACKET: no copy of the packet that plays from here on has been accepted (R483, R484). -/
def missingPacket (r : Nat) (s : State) : State :=
  let x := s.rxs r
  if (x.st = .run ∨ x.st = .loss) ∧ !x.stopping ∧ (rxCurrent s r).isNone then
    let missing := x.missing + 1
    let s1 := (s.inc (Reg.rxWord r 0x2C)).setRxs r { x with
      missing := missing, played := 0, rising := false, due := some (x.play + rxP s r),
      st := if rxLossPkts s r ≤ missing then .loss else x.st }
    if x.st = .run ∧ rxLossPkts s r ≤ missing then streamEvent 0 false r s1 else s1
  else s

def txP (s : State) (t : Nat) : Nat := ptimeFrames (s.rdf (Reg.txWord t 0xC) 4 3)

/-- Is the frame under way at a packet boundary of a stream: m mod P = 0 (R489)? -/
def atPacket (tx : Bool) (k : Nat) (s : State) : Bool :=
  decide (mFrame s % max 1 (if tx then txP s k else rxP s k) = 0)

/-- OFFSET_RETURN: at the packet boundary after 64 packets that fit, OFFSET is 0 again (R487). -/
def offsetReturn (r : Nat) (s : State) : State :=
  let x := s.rxs r
  if x.st ≠ .off ∧ x.returnDue ∧ atPacket false r s then
    streamEvent 4 false r (s.setRxs r { x with
      offset := 0#32, realigned := false, returnDue := false, fits := 0, accepted := [], rising := false })
  else s

/-- A counter step of N hinges: every receive stream's OFFSET, and the frames it has accepted, move by 3N (R488). -/
def rxCounterStep (n : BitVec 64) (s : State) : State :=
  let k : Word := (3#64 * n).setWidth 32
  s.net.rx.foldl (fun s x =>
    if x.2.st = .off then s
    else s.setRxs x.1 { x.2 with
      offset := x.2.offset + k, accepted := x.2.accepted.map fun p => { p with q := p.q + k } }) s

/-! ### Transmit streams (R477) -/

def State.txs (s : State) (t : Nat) : TxStream := tget TxStream.off s.net.tx t
def State.setTxs (s : State) (t : Nat) (x : TxStream) : State :=
  s.modNet fun n => { n with tx := tset TxStream.off n.tx t x }

def txChannels (s : State) (t : Nat) : Nat := s.rdf (Reg.txWord t 0xC) 0 3 + 1
def txFirst (s : State) (t : Nat) : Nat := s.rdf (Reg.txWord t 0xC) 16 8
def txSampleBytes (s : State) (t : Nat) : Nat := if s.bit (Reg.txWord t 4) 24 then 2 else 3

/-- One M frame of a transmit stream: the values its channels' destinations hold. A packet begins at a frame m with
m mod P = 0 (R477). -/
def txFrame (t : Nat) (s : State) : State :=
  let x := s.txs t
  if !x.on then s
  else
    let vs := (List.range (txChannels s t)).map fun c => tget 0#32 s.weld.dest (0x200 + txFirst s t + c)
    if x.frames = [] ∧ mFrame s % max 1 (txP s t) ≠ 0 then s else s.setTxs t { x with frames := x.frames ++ [vs] }

/-- A sample's big-endian bytes, and whether the clamp changed it (R476). -/
def sampleBytes (bytes : Nat) (v : Word) : List Byte × Bool :=
  let o := tdmOut (8 * bytes) v
  ((leBytes bytes o.1.toNat).reverse, o.2)

/-- TRANSMIT_PACKET: the stream sends a packet of its oldest P gathered frames (R477). -/
def transmitPacket (t : Nat) (s : State) : State :=
  let x := s.txs t
  let p := txP s t
  if x.on ∧ 0 < p ∧ p ≤ x.frames.length then
    let smp := (x.frames.take p).flatten.map (sampleBytes (txSampleBytes s t))
    let pl := smp.flatMap (·.1)
    let clips := (smp.filter (·.2)).length
    let w1 := s.rd (Reg.txWord t 4)
    let m := BitVec.ofNat 32 (mFrame s + 1 - x.frames.length)
    let ts := m + s.rd (Reg.txWord t 0x14)
    let s1 := (s.setTxs t { x with seq := x.seq + 1#16, frames := x.frames.drop p }).inc (Reg.txWord t 0x24)
    let s2 := (List.range clips).foldl (fun s _ => streamEvent 5 true t (s.inc (Reg.txWord t 0x28))) s1
    sendIp (s.rd (Reg.txWord t 0)) (s.rdf (Reg.txWord t 0x10) 8 6) (some (s.rdf (Reg.txWord t 0x10) 0 8)) (pl.length + 58)
      (.rtp (ownIp s) (s.rd (Reg.txWord t 0)) (fld w1 0 16) (fld w1 16 7) x.seq ts (s.rd (Reg.txWord t 0x18)) pl) s2
  else s

/-! ### Enabling streams (R474, R489 to R491) -/

/-- The first cause of R490 for a receive stream, 0 for none. -/
def rxCause (s : State) (r : Nat) : Nat :=
  let p := rxP s r
  let delay := s.rdf (Reg.rxWord r 0x10) 0 7
  let first := rxLaneFirst s r
  let n := rxChannels s r
  if p = 0 then 1
  else if 1440 < n * p * rxSampleBytes s r then 2
  else if delay = 0 ∨ 64 < delay then 3
  else if 0x100 < first + n ∨ (s.net.rx.any fun x =>
      decide (x.1 ≠ r) && x.2.st != .off && decide (first < rxLaneFirst s x.1 + rxChannels s x.1
        ∧ rxLaneFirst s x.1 < first + n)) then 4
  else if rxBase s r % 4 ≠ 0 ∨ crucibleSize < rxBase s r + rxB s r * n * 4 then 5
  else 0

/-- The first cause of R490 for a transmit stream, 0 for none. -/
def txCause (s : State) (t : Nat) : Nat :=
  let p := txP s t
  if p = 0 then 1
  else if 1440 < txChannels s t * p * txSampleBytes s t then 2
  else if 256 < txFirst s t + txChannels s t then 4
  else 0

/-- The source that an INCLUDE filter of a receive stream's report names (R474). -/
def igmpSource (s : State) (r : Nat) : Option Word :=
  if s.bit (Reg.rxWord r 4) 25 then some (s.rd (Reg.rxWord r 8)) else none

/-- A report of a group: IGMPv3's, or IGMPv2's while a querier of that version is about, to the group, or to all routers on
leaving (R452, R474). -/
def igmpSend (group : Word) (source : Option Word) (join : Bool) (s : State) : State :=
  if 0 < s.net.igmpV2 then
    originate (ownFrame s (groupMac (if join then group else 0xE0000002#32)) 64 (.igmpReport group none join true)) s
  else originate (ownFrame s (groupMac 0xE0000016#32) 64 (.igmpReport group source join false)) s

/-- Does another stream, not OFF, name the same group? -/
def groupShared (s : State) (r : Nat) : Bool :=
  s.net.rx.any fun x => decide (x.1 ≠ r) && x.2.st != .off && s.rd (Reg.rxWord x.1 0) == s.rd (Reg.rxWord r 0)

/-- A receive stream starts in WAIT with its counters cleared and reports its group (R474, R491). -/
def rxStart (r : Nat) (s : State) : State :=
  let s1 := (List.range 8).foldl (fun s k => s.wr (Reg.rxWord r (0x28 + 4 * k)) 0#32) s
  let s2 := ((s1.wr (Reg.rxWord r 0x40) 0xFFFFFFFF#32).wr (Reg.rxWord r 0x44) 0#32).wr (Reg.rxWord r 0x48) 0#32
  let s3 := s2.setRxs r { RxStream.off with st := .wait }
  if isGroupIp (s.rd (Reg.rxWord r 0)) then
    igmpSend (s.rd (Reg.rxWord r 0)) (igmpSource s r) true (s3.modNet fun n => { n with igmpDue := (r, n.age) :: n.igmpDue.filter (·.1 != r) })
  else s3

/-- The live bit of a stream takes the value that its shadow holds; the write stays pending while another bit differs. -/
def streamBit (a k : Nat) (s : State) : State :=
  match tget none s.wbPend a with
  | none => s
  | some w =>
    let s1 := s.wrb a (k % 32) (w.getLsbD (k % 32))
    if s1.rd a = w then { s1 with wbPend := tset none s1.wbPend a none } else s1

/-- The change of a stream's enable bit applies (R489 to R491). -/
def streamTurn (tx : Bool) (k : Nat) (s : State) : State :=
  let a := if tx then Reg.netTxEn k else Reg.netRxEn k
  let old := s.bit a (k % 32)
  let s1 := streamBit a k s
  let new := s1.bit a (k % 32)
  if old = new then s1
  else if tx then
    if new then
      let c := txCause s1 k
      if c = 0 then s1.setTxs k { TxStream.off with on := true, seq := BitVec.ofNat 16 (s.rdf (Reg.txWord k 8) 16 16) }
      else streamEvent 2 true k ((clearBoth a (k % 32) s1).setTxs k { TxStream.off with cause := c })
    else s1.setTxs k TxStream.off
  else
    if new then
      let c := rxCause s1 k
      if c = 0 then rxStart k s1
      else streamEvent 2 false k ((clearBoth a (k % 32) s1).setRxs k { s1.rxs k with cause := c })
    else
      let s2 := s1.setRxs k { s1.rxs k with stopping := true, rising := false }
      let s3 := s2.modNet fun n => { n with igmpDue := n.igmpDue.filter (·.1 != k) }
      if isGroupIp (s.rd (Reg.rxWord k 0)) ∧ !groupShared s k then igmpSend (s.rd (Reg.rxWord k 0)) (igmpSource s k) false s3 else s3

/-- STREAM_ENABLE: at a packet boundary of the stream (R489). -/
def streamEnable (tx : Bool) (k : Nat) (s : State) : State := if atPacket tx k s then streamTurn tx k s else s

/-- Has 1 s passed since a stream's first report, and its second not been sent (R474)? -/
def igmpDue (s : State) (r : Nat) : Bool := s.net.igmpDue.any fun x => x.1 == r && decide (48000 ≤ (s.net.age - x.2).toNat)

/-- IGMP_REPORT: the second unsolicited report, 1 s after the first (R474). -/
def igmpReport (r : Nat) (s : State) : State :=
  if igmpDue s r then
    igmpSend (s.rd (Reg.rxWord r 0)) (igmpSource s r) true (s.modNet fun n => { n with igmpDue := n.igmpDue.filter (·.1 != r) })
  else s

/-- Every stream returns to OFF with its enable bit kept (VIGIL sleep), or at once (block reset). -/
def streamsOff (s : State) : State :=
  let s1 := s.modNet fun n => { n with rx := [], tx := [], igmpDue := [] }
  (List.range 256).foldl (fun s l => s.setLane l LaneVal.zero) s1

/-- On wake every enabled stream restarts in WAIT, and every enabled transmit stream sends again. -/
def streamsRestart (s : State) : State :=
  (List.range 64).foldl (fun s k =>
    let s1 := if s.bit (Reg.netRxEn k) (k % 32) then rxStart k s else s
    if s1.bit (Reg.netTxEn k) (k % 32) then
      s1.setTxs k { TxStream.off with on := true, seq := BitVec.ofNat 16 (s1.rdf (Reg.txWord k 8) 16 16) }
    else s1) s

/-! ### Receiving frames (R454 to R463) -/

/-- Is an entry of the duplicate-discard table for a frame still alive (R461)? -/
def ddAlive (s : State) (e : DdEntry) : Bool := decide ((s.net.age - e.age).toNat < 19200)

def ddFind (s : State) (src : BitVec 48) (sq : BitVec 16) : Option DdEntry :=
  s.net.dd.find? fun e => e.src == src && e.seq == sq && ddAlive s e

/-- Note a frame in the duplicate-discard table; the oldest entry gives way when it is full (R461). -/
def ddPut (e : DdEntry) (s : State) : State :=
  let rest := s.net.dd.filter fun x => !(x.src == e.src && x.seq == e.seq) && ddAlive s x
  if rest.length < 1024 then s.modNet fun n => { n with dd := rest ++ [e] }
  else netEvent 2 (s.modNet fun n => { n with dd := rest.drop 1 ++ [e] })

/-- The sequence numbers a frame shows to be missing from its node join the port's backlog (R463, R464). -/
def gapCount (b : Bool) (src : BitVec 48) (sq : BitVec 16) (s : State) : State :=
  match s.net.nodes.find? fun x => x.mac == src with
  | none => s
  | some nd =>
    let last := if b then nd.seqB else nd.seqA
    let miss := match last with
      | some l => let d := (sq - l).toNat
                  if 0 < d ∧ d < 0x8000 then d - 1 else 0
      | none => 0
    let newer := match last with
      | some l => decide ((sq - l).toNat < 0x8000)
      | none => true
    let back := (if b then s.net.gapBackB else s.net.gapBackA) + miss
    let s1 := s.modNet fun n => { n with
      gapBackA := if b then n.gapBackA else min 0xFFFFFFFF back,
      gapBackB := if b then min 0xFFFFFFFF back else n.gapBackB,
      nodes := if newer then n.nodes.map fun x =>
          if x.mac == src then (if b then { x with seqB := some sq } else { x with seqA := some sq }) else x
        else n.nodes }
    if 0xFFFFFFFF < back then netEvent 8 s1 else s1

/-- NET.GAP_x advances from its backlog, as far as one M frame lets it (R464). -/
def gapDrain (b : Bool) (s : State) : State :=
  let back := if b then s.net.gapBackB else s.net.gapBackA
  let k := min back 1302
  (s.wr (Reg.netGap b) (s.rd (Reg.netGap b) + BitVec.ofNat 32 k)).modNet fun n =>
    if b then { n with gapBackB := back - k } else { n with gapBackA := back - k }

/-- A supervision frame from a ring node (R463). -/
def nodeSeen (mac : BitVec 48) (s : State) : State :=
  if s.net.nodes.any fun x => x.mac == mac then
    s.modNet fun n => { n with nodes := n.nodes.map fun x => if x.mac == mac then { x with seen := n.age } else x }
  else if s.net.nodes.length < 128 then s.modNet fun n => { n with nodes := n.nodes ++ [⟨mac, none, none, n.age⟩] }
  else netEvent 3 s

/-- The Riller front end takes in a message that awaits authentication; its buffer holds 64 (R565, R569). -/
def rilIngress (tr : Transport) (ip : Word) (port : Nat) (pl : List Byte) (s : State) : State :=
  if s.ril.ingress.length < 64 then { s with ril := { s.ril with ingress := s.ril.ingress ++ [(tr, ip, port, pl)] } }
  else sqSet 0x400A0808 [3] (s.incSat 0x400A080C)

/-- A frame reaches the internal port: the stream engine, the address logic, PTP and Riller take what is theirs, and the
host ring what none of them takes (chapter 15, the internal switch). -/
def deliver (b first : Bool) (f : NetFrame) (dt : Nat) (s : State) : State :=
  let host := fun (s : State) =>
    if s.bit Reg.netHostCfg 7 then s.modNet fun n => { n with hostRing := n.hostRing ++ [f] } else s
  match f.body with
  | .rtp srcIp dstIp dport pt _ ts _ pl =>
    let rs := (List.range 64).filter fun r =>
      (s.rxs r).st != .off && !(s.rxs r).stopping && rxMatches s r srcIp dstIp dport pt
    if rs = [] then (if first then host s else s)
    else rs.foldl (fun s r => rxPacket r ts pl b dt s) s
  | .udp srcIp dstIp sport dport pl =>
    if !first then s
    else if dstIp == ownIp s && s.bit 0x400A0800 0 && decide (dport = s.rdf 0x400A0804 0 16) then
      rilIngress .udp srcIp sport pl s
    else host s
  | .ptp .. => s
  | .arp request sha spa tpa =>
    if !first then s
    else
      let s1 := s.modNet fun n =>
        { n with arp := if request && tpa != ownIp s then n.arp
                        else ((spa, sha) :: n.arp.filter fun x => x.1 != spa).take 64 }
      if request && tpa == ownIp s then
        originate (ownFrame s sha 64 (.arp false (ownMac s) (ownIp s) spa)) s1
      else s1
  | .icmpEcho request srcIp dstIp pl =>
    if first && request && dstIp == ownIp s && decide (pl.length ≤ 256) then
      originate (ownFrame s f.src f.len (.icmpEcho false (ownIp s) srcIp pl)) s
    else if first then host s else s
  | .igmpQuery general group v2 =>
    if !first then s
    else
      let s := if v2 then s.modNet fun n => { n with igmpV2 := 12480000 } else s
      let gs : List (Word × Option Word) :=
        ((s.net.rx.filter fun x => x.2.st != .off).map fun x => (s.rd (Reg.rxWord x.1 0), igmpSource s x.1)).eraseDups
      gs.foldl (fun s g => if isGroupIp g.1 && (general || g.1 == group) then igmpSend g.1 g.2 true s else s) s
  | .igmpReport _ _ _ _ => if first then host s else s
  | .supervision node => if first then nodeSeen node s else s
  | .pause => s
  | .other _ _ => if first then host s else s

/-- Is the frame addressed to the part? -/
def forUs (s : State) (f : NetFrame) : Bool := f.dst == ownMac s || isGroupMac f.dst

/-- A PTP event message (R468, R469). -/
def ptpEvent (f : NetFrame) : Bool :=
  match f.body with
  | .ptp ty _ _ _ _ => decide (ty < 4)
  | _ => false

/-- The time a forwarded message spent in the part, in ns: what nothing fixes of it, the corrections of both ports' PHYs,
and with P2P the ingress port's link delay (R468, R469, assumption 11). -/
def residence (b : Bool) (s : State) : Int × State :=
  let r := s.draw
  let d := r.2.draw
  let t : Int := r.1.toNat + (s.rd (Reg.tsCorrTx (!b))).toInt - (s.rd (Reg.tsCorrRx b)).toInt
  if s.bit Reg.ptpCtrl 4 then (t + d.1.toNat, d.2) else (t, r.2)

/-- The transparent clock's part in a frame that RING mode forwards from a port: with TC_EN, an event message's residence
time is added to its correction field, or, with TWO_STEP, to its Follow_Up's (R469). -/
def tcForward (b : Bool) (f : NetFrame) (s : State) : NetFrame × State :=
  match f.body with
  | .ptp ty seq port corr pl =>
    let add := fun (t : Int) => { f with body := .ptp ty seq port (corr + BitVec.ofInt 64 (t * 65536)) pl }
    if !s.bit Reg.ptpCtrl 2 then (f, s)
    else if ty < 4 then
      let r := residence b (noticePost 11 0x20#32 s)
      if s.bit Reg.ptpCtrl 3 then (f, r.2.modNet fun n => { n with tcDue := n.tcDue ++ [(port, seq, b, r.1)] })
      else (add r.1, r.2)
    else if ty = 8 then
      match s.net.tcDue.find? fun x => x.1 == port && x.2.1 == seq && x.2.2.1 == b with
      | some x => (add x.2.2.2, s.modNet fun n => { n with tcDue := n.tcDue.filter (· != x) })
      | none => (f, s)
    else (f, s)
  | _ => (f, s)

/-- A ring frame is forwarded to the other port (R459). -/
def ringForward (b : Bool) (f : NetFrame) (s : State) : State :=
  let r := tcForward b f s
  egress (!b) r.1 r.2

/-- A frame crosses to the internal port (crossing 8). -/
def toInternal (b first : Bool) (f : NetFrame) (dt : Nat) (s : State) : State :=
  viaFifo true true (b2n b) (deliver b first f dt) s

/-- A frame in RING mode (R459 to R463). -/
def ringFrame (b : Bool) (f : NetFrame) (dt : Nat) (s : State) : State :=
  match f.hsr with
  | none => if forUs s f then toInternal b true f dt s else s
  | some (_, sq) =>
    if f.src == ownMac s then s
    else
      let s1 := gapCount b f.src sq s
      let e := (ddFind s1 f.src sq).getD ⟨f.src, sq, false, false, false, s.net.age⟩
      let fwd := f.dst != ownMac s && !(if b then e.toA else e.toB)
      let first := !e.toInternal
      let s2 := ddPut { e with
        toInternal := e.toInternal || forUs s f, toA := e.toA || (b && fwd), toB := e.toB || (!b && fwd) } s1
      let s3 := if fwd then ringForward b f s2 else s2
      if forUs s f then toInternal b first f dt s3 else s3

/-- A frame in LINE mode: a learning bridge of 2048 addresses (R455). -/
def lineFrame (b : Bool) (f : NetFrame) (dt : Nat) (s : State) : State :=
  let rest := s.net.learned.filter fun x => x.1 != f.src
  let s1 := s.modNet fun n => { n with
    learned := (if rest.length < 2048 then rest else rest.drop 1) ++ [(f.src, b, s.net.age)] }
  let s2 := if forUs s f && !isGroupMac f.dst then s1
    else match (if isGroupMac f.dst then none else learnedPort s f.dst) with
      | some p => if p = b then s1 else egress p f s1
      | none => egress (!b) f s1
  if forUs s f then toInternal b true f dt s2 else s2

/-- FRAME_RECEIVED, `dt` nanoseconds after the latest M strike; a PTP event message is timestamped (R452, R454, R455, R459,
R468). Of a network clock that has stopped, nothing comes (R98). -/
def frameReceived (b : Bool) (f : NetFrame) (dt : Nat) (s : State) : State :=
  if !s.enabled 9 || !linkOf s b || !s.clk.netOk then s
  else if 1528 < f.len ∨ !f.fcsOk then s.inc (Reg.netDrop b)
  else match f.body with
    | .pause => s
    | _ =>
      if f.vlan.any fun v => decide (v.2 ≠ 0) then s.inc (Reg.netDrop b)
      else
        let s1 := if ptpEvent f then noticePost 11 0x20#32 s else s
        match netModeOf s with
        | 2 => ringFrame b f dt s1
        | 1 => lineFrame b f dt s1
        | 0 => if !b && forUs s1 f then toInternal b true f dt s1 else s1
        | _ => s1

/-- SUPERVISION_FRAME: the part's own, on both ports (R463). -/
def supervisionFrame (s : State) : State :=
  if s.enabled 9 ∧ s.clk.netOk ∧ netModeOf s = 2 then
    originate (ownFrame s 0x01154E000100#48 66 (.supervision (ownMac s))) s
  else s

/-- NODE_FORGET: 60 s after its last supervision frame (R463). -/
def nodeForget (mac : BitVec 48) (s : State) : State :=
  if s.clk.netOk then
    s.modNet fun n => { n with nodes := n.nodes.filter fun x => x.mac != mac || decide ((n.age - x.seen).toNat < 2880000) }
  else s

/-! ### The PTP clock (R465 to R472) -/

/-- PTP time plus signed seconds and nanoseconds. -/
def ptpAdd (sec ns : Int) (n : Net) : Net :=
  let t := ((n.sec.toNat : Int) + sec) * 1000000000 + n.ns + ns
  { n with sec := BitVec.ofInt 48 (t / 1000000000), ns := (t % 1000000000).toNat }

/-- PTP time in units of 1 / (2^16 × 10^6) ns, in which a rate correction is a whole number. -/
def ptpUnits (n : Net) : Nat := (n.sec.toNat * 1000000000 + n.ns) * 65536000000 + n.frac
def ptpSet (t : Nat) (n : Net) : Net :=
  { n with sec := BitVec.ofNat 48 (t / (65536000000 * 1000000000)), ns := t / 65536000000 % 1000000000, frac := t % 65536000000 }

/-- What a network cycle adds: 8 ns × (1 + NET.PTP_RATE × 2^-16 ppm), within ±500 ppm (R465). -/
def ptpCycle (s : State) : Nat := 8 * (65536000000 + clampInt (-32768000) 32768000 (s.rd Reg.ptpRate).toInt).toNat

/-- The PTP clock runs for some network cycles (R465). -/
def ptpRun (cycles : Nat) (s : State) : State := s.modNet fun n => ptpSet (ptpUnits n + cycles * ptpCycle s) n

/-- Network cycles until its time first equals or passes the next multiple of 62,500 ns (R467). -/
def ptpToTick (s : State) : Nat :=
  let step := 62500 * 65536000000
  (step - ptpUnits s.net % step + ptpCycle s - 1) / ptpCycle s

/-- The PTP clock emits a hinge tick at the network edge at which its time first equals or passes a whole multiple of
62,500 ns. It crosses as the servo event of crossing 11; `lead` is the time of the nearest media hinge strike less its own, the
crossing's delay taken off (R111, R112, R467). -/
def hingeTick (lead : Int) (s : State) : State :=
  if s.clk.netOk then
    let s1 := ptpRun (ptpToTick s) s
    let idx := BitVec.ofNat 64 (s1.net.sec.toNat * 16000 + s1.net.ns / 62500)
    noticePost 11 0x10000#32 { s1 with mclk := { s1.mclk with tickSent := some (idx, lead) } }
  else s

/-- SYNCED or GM changes: NET.EVT.SYNC_CHG (R470). -/
def ptpRoles (synced gm : Bool) (s : State) : State :=
  let s1 := (s.wrb Reg.ptpCtrl 0 synced).wrb Reg.ptpCtrl 1 gm
  if s1.rd Reg.ptpCtrl = s.rd Reg.ptpCtrl then s else netEvent 4 s1

/-- NET.PTP_CTRL.STEP (R465). -/
def ptpStep (s : State) : State :=
  let s1 := s.modNet (ptpAdd (s.rd Reg.ptpStepSec).toInt (s.rd Reg.ptpStepNs).toInt)
  netEvent 6 (ptpRoles false (s.bit Reg.ptpCtrl 1) s1)

/-- NET.PTP_CTRL.SNAP, some network cycles after the time that the state holds (R466). -/
def ptpSnap (cycles : Nat) (s : State) : State :=
  let s1 := ptpRun cycles s
  let sec := s1.net.sec.toNat
  ((s1.wrn Reg.ptpSnap (sec / 4294967296)).wrn (Reg.ptpSnap + 4) sec).wrn (Reg.ptpSnap + 8) s1.net.ns

/-- SYNC_TIMEOUT (R470). -/
def syncTimeout (s : State) : State :=
  if s.bit Reg.ptpCtrl 0 then ptpRoles false (s.bit Reg.ptpCtrl 1) s else s

/-- PPS_OUT (R472). -/
def ppsOut (s : State) : State := if s.clk.netOk then s.modNet fun n => { n with ppsOut := s.bit Reg.ppsCfg 0 } else s
def ppsOutEnd (s : State) : State := if s.clk.netOk then s.modNet fun n => { n with ppsOut := false } else s

/-- The level of PTP_PPS_OUT: low while OUT_EN is 0 (R472). -/
def ppsPin (s : State) : Bool := s.net.ppsOut && s.bit Reg.ppsCfg 0

/-- PPS_IN_EDGE, some network cycles after the time that the state holds (R89, chapter 15). -/
def ppsInEdge (cycles : Nat) (s : State) : State :=
  if !s.clk.netOk then s else
  let s1 := ptpRun cycles s
  netEvent 7 ((s1.wrn Reg.ppsInSec s1.net.sec.toNat).wrn Reg.ppsInNs s1.net.ns)

/-- A write of NET.PTP_CTRL (R465, R466, R470). -/
def ptpCtrlWrite (cycles : Nat) (v : Word) (s : State) : State :=
  let keep := v &&& 0x7F003C#32
  let roles := s.rd Reg.ptpCtrl &&& 3#32
  let s1 := ptpRoles (v.getLsbD 0) (v.getLsbD 1) (s.wr Reg.ptpCtrl (keep ||| roles))
  let s2 := if v.getLsbD 8 then ptpStep s1 else s1
  if v.getLsbD 9 then ptpSnap cycles s2 else s2

/-- PHY_INTERRUPT: the level of source 146 (R244, chapter 15). -/
def phyInterrupt (level : Bool) (s : State) : State := s.modNet fun n => { n with phyInt := level }

/-! ### NET in a frame, and its views -/

/-- An M frame of age for the tables (R461) and for IGMPv2's time (R452). -/
def netAge (s : State) : State := s.modNet fun n => { n with age := n.age + 1#32, igmpV2 := n.igmpV2 - 1 }

/-- One M strike of NET: receive lanes before any reader, transmit values after the destinations. The counters of crossing
10 hold while the network clock is stopped (R98). -/
def rxStreamsFrame (s : State) : State :=
  let s1 := netAge (s.net.rx.foldl (fun s x => rxFrame x.1 s) s)
  if s1.clk.netOk then egressLeave (gapDrain true (gapDrain false s1)) else s1
def txStreamsFrame (s : State) : State := s.net.tx.foldl (fun s x => txFrame x.1 s) s

def streamCode : StreamSt → Nat
  | .off => 0
  | .wait => 1
  | .run => 2
  | .loss => 3

def rxView (s : State) (r off : Nat) : Word :=
  let x := s.rxs r
  if off = 0x20 then
    BitVec.ofNat 32 (streamCode x.st + 4 * b2n x.realigned + 8 * b2n x.portB + 16 * x.cause)
  else if off = 0x24 then x.offset
  else s.rd (Reg.rxWord r off)

def txView (s : State) (t off : Nat) : Word :=
  if off = 0x20 then BitVec.ofNat 32 ((if (s.txs t).on then 2 else 0) + 16 * (s.txs t).cause)
  else s.rd (Reg.txWord t off)

def hsrNodesView (s : State) : Word := BitVec.ofNat 32 s.net.nodes.length

end Sys2Proof.Machine
end

