-- ==== Sys2Proof/Machine/Riller.lean ====
section
/-! DEFINITION. The Riller front end (chapter 17): sessions, protection, replay, requests, responses and events over UDP and CAN
FD; and what the dictionary does at a hinge. -/

namespace Sys2Proof.Machine
open Sys2Proof

namespace Reg
def rilEvt : Nat := 0x400A0808
def rilDrop : Nat := 0x400A080C
def rilReplay : Nat := 0x400A0810
end Reg

def State.modRil (s : State) (f : Riller → Riller) : State := { s with ril := f s.ril }
def State.sess (s : State) (n : Nat) : Option Session := tget none s.ril.sessions n
def setSess (n : Nat) (x : Option Session) (s : State) : State :=
  s.modRil fun r => { r with sessions := tset none r.sessions n x }
def rilEvent (bit : Nat) (s : State) : State := sqSet Reg.rilEvt [bit] s

/-- A discard that DICT.RIL_DROP counts. -/
def rilDropped (s : State) : State := s.incSat Reg.rilDrop

/-- A message that breaks R537. -/
def rilMalformed (s : State) : State := rilEvent 2 (rilDropped s)

/-- A message that does not authenticate (R540, R551). -/
def rilAuthFail (t : Nat) (s : State) : State := rilEvent 0 (tenantCount t 2 s)

/-! ### Sending (R536, R538, R553, R566) -/

/-- The header of a message. -/
def rilHeader (kind tenant : Nat) (warden : Bool) (len : Nat) (sid : Word) (counter : Nat) : List Byte :=
  [0x52#8, 0x4C#8, 1#8, BitVec.ofNat 8 kind, BitVec.ofNat 8 tenant, BitVec.ofNat 8 (b2n warden)] ++ leBytes 2 len
    ++ leBytes 4 sid.toNat ++ leBytes 8 counter

/-- The frames that carry a message on CAN. -/
def canSegments (ident : Nat) (msg : List Byte) : List CanFrame :=
  let n := (msg.length + 62) / 63
  (List.range n).map fun k =>
    let part := (msg.drop (63 * k)).take 63
    let head := 128 * b2n (k == 0) + 64 * b2n (k + 1 == n) + k
    let len := dlcBytes true (dlcOf true (part.length + 1))
    { ident := ident, ext := true, fd := true, brs := true, esi := false, rtr := false,
      data := BitVec.ofNat 8 head :: part ++ List.replicate (len - (part.length + 1)) 0#8 }

/-- A message leaves on its transport; `prio` is the CAN priority of its kind. -/
def rilEmit (tr : Transport) (ip : Word) (port prio tenant : Nat) (msg : List Byte) (s : State) : State :=
  let s1 := s.modRil fun r => { r with sent := r.sent ++ [⟨tr, ip, port, msg⟩] }
  let onCan := fun (k : Nat) =>
    let ident := prio * 2 ^ 26 + tenant * 2 ^ 23 + 2 ^ 22 + s.rdf Reg.rilCfg 8 6 * 2 ^ 16
    s1.setCan k { s1.can k with sent := (s1.can k).sent ++ canSegments ident msg }
  match tr with
  | .udp => sendIp ip 0 none (msg.length + 46) (.udp (ownIp s) ip (s.rdf 0x400A0804 0 16) port msg) s1
  | .can0 => onCan 0
  | .can1 => onCan 1

/-- A session ends: its slot is free, its subscriptions end and what is queued for them is discarded (R547, R561). -/
def sessDrop (n : Nat) (s : State) : State :=
  match s.sess n with
  | none => s
  | some x =>
    let s1 := (setSess n none s).modTenant x.tenant fun t =>
      let ev := match t.subEvent with
        | some b => b.sess == n
        | none => false
      let tp := match t.subTap with
        | some b => b.sess == n
        | none => false
      { t with subEvent := if ev then none else t.subEvent, events := if ev then [] else t.events,
               subTap := if tp then none else t.subTap, taps := if tp then [] else t.taps }
    rilEvent 5 s1

/-- A protected message of the device on a session; one whose counter would pass its end closes the session instead (R538,
R549). -/
def rilSend (n kind prio : Nat) (body : List Byte) (s : State) : State :=
  match s.sess n with
  | none => s
  | some x =>
    if 2 ^ 64 - 1 ≤ x.txCounter then sessDrop n s
    else
      let c := x.txCounter + 1
      let h := rilHeader kind x.tenant x.warden (body.length + 16) x.sid c
      let msg := h ++ Config.gcmSeal x.keyD (h.drop 8) h body
      rilEmit x.transport x.peerIp x.peerPort prio x.tenant msg (setSess n (some { x with txCounter := c }) s)

/-- The device closes a session for a reason, sending a CLOSE first (R547). -/
def sessClose (n reason : Nat) (s : State) : State :=
  if (s.sess n).isSome then sessDrop n (rilSend n 6 2 [BitVec.ofNat 8 reason] s) else s

/-- The sessions that a test accepts. -/
def sessionsOf (s : State) (f : Session → Bool) : List Nat :=
  (List.range 32).filter fun n => match s.sess n with
    | some x => f x
    | none => false

/-- The sessions of a transport whose block is reset close without a CLOSE (R547). -/
def transportReset (tr : Transport) (s : State) : State :=
  (sessionsOf s fun x => x.transport == tr).foldl (fun s n => sessDrop n s) s

/-! ### Receiving (R537, R550, R551) -/

/-- Is the transport taken (R565, R566)? -/
def transportOn (s : State) : Transport → Bool
  | .udp => s.bit Reg.rilCfg 0
  | .can0 => s.bit Reg.rilCfg 1
  | .can1 => s.bit Reg.rilCfg 2

/-- Is a message well formed (R537)? -/
def rilWellFormed (tr : Transport) (m : List Byte) : Bool :=
  decide (20 ≤ m.length) && decide (m.length ≤ (if tr = .udp then 1472 else 1008))
    && decide (le m 0 2 = 0x4C52 ∧ le m 2 1 = 1 ∧ 1 ≤ le m 3 1 ∧ le m 3 1 ≤ 6 ∧ le m 4 1 < 8 ∧ le m 5 1 < 2
      ∧ le m 6 2 + 20 = m.length) && (le m 3 1 ≤ 2 || decide (16 ≤ le m 6 2))

/-- The message leaves the ingress buffer, if it stands there (R569). -/
def takeIngress (tr : Transport) (ip : Word) (port : Nat) (m : List Byte) (s : State) : State :=
  s.modRil fun r => { r with ingress := r.ingress.erase (tr, ip, port, m) }

/-- Has a counter been accepted, or does it lie below the window (R550)? -/
def replayed (x : Session) (c : Nat) : Bool :=
  if x.high < c then false
  else if 64 ≤ x.high - c then true else x.window.getLsbD (x.high - c)

/-- H and the record once a counter is accepted. -/
def acceptCounter (x : Session) (c : Nat) : Session :=
  if x.high < c then { x with high := c, window := (if 64 ≤ c - x.high then 0#64 else x.window <<< (c - x.high)) ||| 1#64 }
  else { x with window := x.window ||| (1#64 <<< (x.high - c)) }

/-- Authenticate a protected message of kind `kind`: the session and the plaintext, with the state after it (R550 to R553). -/
def rilAuthenticate (tr : Transport) (ip : Word) (port kind : Nat) (m : List Byte) (s : State) : State × Option (Nat × List Byte) :=
  let s0 := takeIngress tr ip port m s
  if !transportOn s tr then (s0, none)
  else if !rilWellFormed tr m then (rilMalformed s0, none)
  else if le m 3 1 ≠ kind then (s0, none)
  else
    let sid := BitVec.ofNat 32 (le m 8 4)
    let c := le m 12 8
    match (sessionsOf s fun x => x.sid == sid && x.transport == tr).head? with
    | none => (s0, none)
    | some n => match s.sess n with
      | none => (s0, none)
      | some x =>
        if replayed x c then (rilEvent 1 (s0.incSat Reg.rilReplay), none)
        else
          let h := m.take 20
          let ct := (m.drop 20).take (m.length - 36)
          match Config.gcmOpen x.keyC (h.drop 8) h ct (m.drop (m.length - 16)) with
          | none => (rilAuthFail x.tenant s0, none)
          | some body =>
            if le m 4 1 ≠ x.tenant ∨ decide (le m 5 1 = 1) ≠ x.warden then (rilAuthFail x.tenant s0, none)
            else
              let y := { acceptCounter x c with idle := 0, used := s.ril.useTick + 1, peerIp := ip, peerPort := port }
              ((setSess n (some y) s0).modRil fun r => { r with useTick := r.useTick + 1 }, some (n, body))

/-! ### Sessions open (R540 to R546, R790) -/

/-- The key that an OPEN must be made under: K_t, or K_WS for a Warden session of T_0. -/
def openKey (s : State) (t : Nat) (warden : Bool) : Option (List Byte) :=
  let k := keySlot s (if warden then 5 else 8 + t)
  if (s.tenant t).st = .absent ∨ (s.tenant t).st = .resetting ∨ (warden = true ∧ t ≠ 0) ∨ k = [] then none else some k

/-- The least recently used of some sessions. -/
def leastUsed (s : State) (ns : List Nat) : Option Nat :=
  ns.find? fun n => ns.all fun m => decide (((s.sess n).map (·.used)).getD 0 ≤ ((s.sess m).map (·.used)).getD 0)

/-- Room for a new session of a tenant (R545). -/
def makeRoom (t : Nat) (s : State) : State :=
  let mine := sessionsOf s fun x => x.tenant == t
  let victim := if 4 ≤ mine.length then leastUsed s mine
    else if 32 ≤ (sessionsOf s fun _ => true).length then leastUsed s (sessionsOf s fun _ => true) else none
  match victim with
  | some n => sessClose n 2 s
  | none => s

/-- A SID that is nonzero and unused: the one proposed, or else the least (R540). -/
def sidFor (s : State) (sid : Word) : Word :=
  let used := fun (x : Word) => (sessionsOf s fun y => y.sid == x) ≠ []
  if sid ≠ 0#32 ∧ used sid = false then sid
  else BitVec.ofNat 32 ((((List.range 33).map (· + 1)).find? fun k => !used (BitVec.ofNat 32 k)).getD 1)

/-- OPEN: the message with which a controller asks for a session. `sid` is the identifier the device chooses, which nothing
fixes beyond R540. -/
def openMessage (tr : Transport) (ip : Word) (port : Nat) (m : List Byte) (sid : Word) (s : State) : State :=
  let s0 := takeIngress tr ip port m s
  if !transportOn s tr then s0
  else if !rilWellFormed tr m ∨ (le m 3 1 = 1 ∧ le m 6 2 ≠ 52) then rilMalformed s0
  else if le m 3 1 ≠ 1 then s0
  else if s.ril.raising || decide (16 ≤ s.ril.openAges.length) then rilDropped s0
  else if s.ril.ceiling ≤ s.ril.openCnt then
    (rilIngress tr ip port m s0).modRil fun r => { r with raising := true }
  else
    let t := le m 4 1
    let warden := decide (le m 5 1 = 1)
    let s1 := s0.modRil fun r => { r with openAges := r.openAges ++ [16000] }
    match openKey s t warden with
    | none => rilAuthFail t s1
    | some key =>
      if Config.hmac key (m.take 40) ≠ m.drop 40 then rilAuthFail t s1
      else
        let s2 := makeRoom t s1
        let nc := (m.drop 20).take 16
        let nd := leBytes 8 s.ril.openCnt ++ leBytes 8 s.mclk.frameCnt.toNat
        let id := sidFor s2 sid
        let derive := fun (b : Nat) =>
          Config.hmac key ([0x52#8, 0x4C#8, BitVec.ofNat 8 b] ++ leBytes 4 id.toNat ++ nc ++ nd)
        let x : Session := ⟨t, warden, tr, id, ip, port, 0, s2.ril.useTick + 1, 0, 1#64, 0, derive 0x43, derive 0x44, nc, nd, []⟩
        let n := ((List.range 32).find? fun n => (s2.sess n).isNone).getD 0
        let h := rilHeader 2 t warden 64 id 0
        let ack := h ++ nc ++ nd ++ Config.hmac key (h ++ nc ++ nd)
        let s3 := (setSess n (some x) s2).modRil fun r => { r with useTick := r.useTick + 1, openCnt := r.openCnt + 1 }
        rilEvent 4 (rilEmit tr ip port 2 t ack s3)

/-- CLOSE from the controller (R547). -/
def closeMessage (tr : Transport) (ip : Word) (port : Nat) (m : List Byte) (s : State) : State :=
  let r := rilAuthenticate tr ip port 6 m s
  match r.2 with
  | some (n, _) => sessDrop n r.1
  | none => r.1

/-- A session that has been idle for SESS_IDLE seconds closes (R547). -/
def sessionIdle (n : Nat) (s : State) : State :=
  match s.sess n with
  | some x => if 16000 * max 1 (s.rdf Reg.rilCfg 16 16) ≤ x.idle then sessClose n 1 s else s
  | none => s

/-- A write of DICT.SESS_CLOSE (R547). -/
def sessCloseWrite (v : Word) (s : State) : State := (bitsOf 32 v.toNat).foldl (fun s n => sessClose n 3 s) s

/-! ### Requests (R554 to R559) -/

/-- A response that the front end gives directly. -/
def directResp (n tag status op detail : Nat) (s : State) : State :=
  match s.sess n with
  | none => s
  | some x => setSess n (some { x with resps := x.resps ++ [⟨tag, status, op, 0#32, detail, 0, [], some n, x.sid⟩] }) s

/-- Place one well-formed record of a session (R502, R503, R554). -/
def placeRecord (n tag op qflags : Nat) (o : ReqOp) (s : State) : State :=
  match s.sess n with
  | none => s
  | some x =>
    if qflags = 3 ∨ 4 ≤ qflags then directResp n tag 17 op qflags s
    else if o = .bad then directResp n tag 17 op op s
    else
      let t := x.tenant
      match placeCause s t tag with
      | 0 => placeRequest t (if qflags = 1 then 0 else if qflags = 2 then 4 else 1) tag o (some n) x.sid x.warden true s
      | 1 => directResp n tag 1 op 0 (dictEvent 1 t (tenantCount t 1 s))
      | _ => directResp n tag 2 op 0 s

/-- The records of a verified message, in body order (R555, R556). -/
def placeRecords (n : Nat) : Nat → List Byte → State → State
  | 0, _, s => s
  | fuel + 1, b, s =>
    if b.length < 2 then s
    else
      let tag := le b 0 2
      let op := le b 2 1
      let rlen := le b 4 2
      if b.length < 6 ∨ b.length < 6 + rlen then directResp n tag 16 op 0 s
      else match opOf op (cut b 6 rlen) with
        | none => directResp n tag 16 op 0 s
        | some o => placeRecords n fuel (b.drop (6 + rlen)) (placeRecord n tag op (le b 3 1) o s)

/-- REQUEST: a message is authenticated and its records placed (R551, R555). -/
def requestMessage (tr : Transport) (ip : Word) (port : Nat) (m : List Byte) (s : State) : State :=
  let r := rilAuthenticate tr ip port 3 m s
  match r.2 with
  | some (n, body) => placeRecords n body.length body r.1
  | none => r.1

/-! ### Responses and events (R560, R563) -/

/-- A response record as it is sent. -/
def respBytes (r : Resp) : List Byte :=
  let tail := if r.op = 1 ∧ r.status = 0 then [BitVec.ofNat 8 r.type, 0#8] ++ leBytes 2 r.value.length ++ r.value else []
  leBytes 2 r.tag ++ leBytes 1 r.status ++ leBytes 1 r.op ++ leBytes 2 tail.length ++ leBytes 4 r.hinge.toNat
    ++ leBytes 2 r.detail ++ tail

/-- How many of some records fit into a body. -/
def fitting : Nat → List Resp → Nat
  | _, [] => 0
  | room, r :: rs =>
    let n := (respBytes r).length
    if n ≤ room then 1 + fitting (room - n) rs else 0

/-- The limit of a body (chapter 17, at a glance). -/
def bodyLimitOf (tr : Transport) : Nat := if tr = .udp then 1436 else 972

/-- Remove the first `k` responses of a session from a queue. -/
def dropFor (n : Nat) (sid : Word) : Nat → List Resp → List Resp
  | _, [] => []
  | 0, rs => rs
  | k + 1, r :: rs => if r.sess = some n ∧ r.sid = sid then dropFor n sid k rs else r :: dropFor n sid (k + 1) rs

/-- RESPONSE: one message with every response placed for the session, up to the body limit. -/
def responseMessage (n : Nat) (s : State) : State :=
  match s.sess n with
  | none => s
  | some x =>
    let queued := (s.tenant x.tenant).resps.filter fun r => decide (r.sess = some n ∧ r.sid = x.sid)
    let all := x.resps ++ queued
    let k := fitting (bodyLimitOf x.transport) all
    if k = 0 then s
    else
      let body := (all.take k).flatMap respBytes
      let direct := min k x.resps.length
      let s1 := setSess n (some { x with resps := x.resps.drop direct }) s
      let s2 := s1.modTenant x.tenant fun t => { t with resps := dropFor n x.sid (k - direct) t.resps }
      let q := 8 * x.tenant + 2
      rilSend n 4 2 body (ringStep (Reg.qCons q) (s.queueSize q) (k - direct) s2)

/-- EVENT: a message with the records queued for a subscription, when it is full or 16 hinges after the first was queued
(R563). -/
def eventMessage (t : Nat) (tap : Bool) (s : State) : State :=
  let x := s.tenant t
  match if tap then x.subTap else x.subEvent with
  | none => s
  | some sub => match s.sess sub.sess with
    | none => s
    | some y =>
      let recs := if tap then x.taps else x.events
      let most := if y.transport = .udp then 44 else 30
      let k := min recs.length most
      let since := if tap then x.tapSince else x.evSince
      if k = 0 ∨ (k < most ∧ s.dict.hinges < since + 16) then s
      else
        let lost := if tap then x.lostTaps else x.lostEvents
        let body := [BitVec.ofNat 8 (1 + b2n tap), BitVec.ofNat 8 k] ++ leBytes 2 lost ++ (recs.take k).flatten
        let s1 := s.modTenant t fun x =>
          if tap then { x with taps := x.taps.drop k, lostTaps := 0 } else { x with events := x.events.drop k, lostEvents := 0 }
        let q := 8 * t + (if tap then 5 else 3)
        rilSend sub.sess 5 4 body (ringStep (Reg.qCons q) (s.queueSize q) k s1)

/-! ### CAN FD (R566, R567) -/

def canTransport (k : Nat) : Transport := if k = 0 then .can0 else .can1

/-- Is a frame one of Riller's towards this device (R566)? -/
def rilFrame (s : State) (k : Nat) (f : CanFrame) : Bool :=
  transportOn s (canTransport k) && f.ext && f.fd && decide (f.ident / 2 ^ 22 % 2 = 0)
    && decide (f.ident / 2 ^ 16 % 64 = s.rdf Reg.rilCfg 8 6) && decide (f.ident % 2 ^ 16 = 0)

def reasmOf (s : State) (k ident : Nat) : Option Reasm := s.ril.reasm.find? fun r => decide (r.bus = k ∧ r.ident = ident)
def reasmDrop (k ident : Nat) (s : State) : State :=
  s.modRil fun r => { r with reasm := r.reasm.filter fun x => !decide (x.bus = k ∧ x.ident = ident) }

/-- A reassembled message, cut to the size its header states, enters the ingress buffer. -/
def reassembled (k : Nat) (b : List Byte) (s : State) : State :=
  rilIngress (canTransport k) 0#32 0 (b.take (20 + le b 6 2)) s

/-- One Riller frame (R567). -/
def rilSegment (k : Nat) (f : CanFrame) (s : State) : State :=
  match f.data with
  | [] => s
  | h :: part =>
    let idx := h.toNat % 16
    let lastSeg := h.toNat / 64 % 2 = 1
    if h.toNat / 128 = 1 then
      let s1 := if (reasmOf s k f.ident).isSome then rilMalformed (reasmDrop k f.ident s) else s
      if idx ≠ 0 then s1
      else if lastSeg then reassembled k part s1
      else s1.modRil fun r => { r with reasm := r.reasm ++ [⟨k, f.ident, 1, part, 0⟩] }
    else match reasmOf s k f.ident with
      | none => s
      | some x =>
        let s1 := reasmDrop k f.ident s
        if idx ≠ x.next ∨ 160 < x.age then s1
        else if lastSeg then reassembled k (x.bytes ++ part) s1
        else s1.modRil fun r => { r with reasm := r.reasm ++ [{ x with next := x.next + 1, bytes := x.bytes ++ part, age := 0 }] }

/-- A frame on the bus of a controller that is on it, in error or whole: a whole one goes to the front end or to the receive FIFO
(R677, R678). -/
def canReceived (k : Nat) (f : CanFrame) (bad : Bool) (s : State) : State :=
  if s.bit (Reg.canCtrl k) 0 && !(s.can k).busOff then
    if bad then canRxError k s
    else
      let s1 := canRxWell k s
      if rilFrame s1 k f then rilSegment k f s1 else canFifo k f s1
  else s

/-- A frame that is more than 10 ms late discards its message (R567). -/
def reassemblyTimeout (k ident : Nat) (s : State) : State :=
  match reasmOf s k ident with
  | some x => if 160 ≤ x.age then reasmDrop k ident s else s
  | none => s

/-! ### Key blobs (R526, R570) -/

/-- T_0's key blob for T_t over one of its sessions: the tenant becomes ACTIVE with the key in its keybox slot, or none where R570
answers RANGE. -/
def createTenant (t : Nat) (blob : List Byte) (sess : Nat) (s : State) : Option State :=
  match s.sess sess with
  | none => none
  | some x =>
    let kw := Config.hmac (keySlot s 8) ([0x52#8, 0x4C#8, 0x57#8] ++ leBytes 4 x.sid.toNat ++ x.nonceC ++ x.nonceD)
    if t = 0 ∨ x.tenant ≠ 0 ∨ x.warden = true ∨ blob.length ≠ 96 ∨ le blob 0 1 ≠ t ∨ (s.tenant t).st ≠ .absent then none
    else match Config.gcmOpen kw (cut blob 4 12) (blob.take 4) (cut blob 16 32) (cut blob 48 16) with
      | none => none
      | some key =>
        some ((s.modWard fun w => { w with keys := tset [] w.keys (8 + t) key }).modTenant t fun y => { y with st := .active, hbSince := s.dict.hinges })

/-- TENANT_CREATION as a command of its own. -/
def tenantCreation (t : Nat) (blob : List Byte) (sess : Nat) (s : State) : State := (createTenant t blob sess s).getD s

/-! ### The dictionary at a hinge -/

/-- The hinge h2 of a tenant reset (R527, R533). -/
def resetEnd (t : Nat) (s : State) : State :=
  let x := s.tenant t
  let slots := s.dict.hslots.filter fun y => match y.2 with
    | some (u, _) => u != t
    | none => true
  let s1 := (s.setTenant t { x with
      st := if x.del then .absent else .active, reqs := [], resps := [], events := [], taps := [], resetting := 0, del := false,
      hbSince := s.dict.hinges }).modDict
    fun d => { d with hslots := slots }
  let s2 := if x.del then
      (sessionsOf s1 fun y => y.tenant == t).foldl (fun s n => sessClose n 4 s)
        (s1.modWard fun w => { w with keys := tset [] w.keys (8 + t) [] })
    else s1
  tenantRecord t false (dictEvent 3 t (tenantCount t 4 s2))

def tenantsH2 (s : State) : State :=
  (List.range 8).foldl (fun s t => if (s.tenant t).resetting = 2 then resetEnd t s else s) s

/-- The claim that a write of an entry 0x2200 + z : 0 makes. Chapter 10 gives the values 0 to 15 and 0xFF; for 0x10 to 0xFE the
model claims at the value modulo 16 (assumption 30). -/
def claimOfMember (t : Nat) (m : Member) : Option ClaimReq :=
  if 0x2200 ≤ m.index ∧ m.index < 0x2280 ∧ m.sub = 0 then
    let v := leNat m.value
    some (if v = 0xFF then ⟨m.index - 0x2200, t, 0, 2⟩ else ⟨m.index - 0x2200, t, v % 16, 1⟩)
  else none

/-- The cause for which a block refuses a request at its hinge, 0 for none: its commit group's, else its first refused claim's. -/
def hingeCause (s : State) (t : Nat) (g : Option Nat) (ms : List Member) : Nat :=
  let c := match g with
    | some k => if (s.grp k).result = 2 then (s.grp k).cause else 0
    | none => 0
  if c ≠ 0 then c
  else ((ms.filterMap (claimOfMember t)).findSome? fun r => let k := claimCause s r; if k = 0 then none else some k).getD 0

/-- Which enable bit a member writes 1 to, with the cause that the block gives for its latest refusal of it (chapters 12, 15 and 19). -/
def enableOf (s : State) (m : Member) : Option ((Nat × Nat) × Nat) :=
  let i := m.index
  let lane := fun (a n lo w : Nat) => if s.rdf a lo w = n then s.rdf a 0 4 else 0
  if leNat m.value % 2 = 0 then none
  else if 0x3200 ≤ i ∧ i < 0x3240 ∧ m.sub = 2 then
    some ((Reg.netRxEn (i - 0x3200), (i - 0x3200) % 32), (s.rxs (i - 0x3200)).cause)
  else if 0x3240 ≤ i ∧ i < 0x3280 ∧ m.sub = 2 then
    some ((Reg.netTxEn (i - 0x3240), (i - 0x3240) % 32), (s.txs (i - 0x3240)).cause)
  else if 0x4400 ≤ i ∧ i < 0x4500 ∧ m.sub = 4 then
    some ((Reg.eqEn ((i - 0x4400) / 32), (i - 0x4400) % 32), lane Reg.eqStat (i - 0x4400) 16 8)
  else if 0x4600 ≤ i ∧ i < 0x4610 ∧ m.sub = 5 then some ((Reg.spwEn, i - 0x4600), lane Reg.spwStat (i - 0x4600) 16 4)
  else if 0x5840 ≤ i ∧ i < 0x5850 ∧ m.sub = 0x20 then some ((Reg.pilotRun, i - 0x5840), 0)
  else if 0x6000 ≤ i ∧ i < 0x6008 ∧ m.sub = 1 then some ((Reg.lmEn, i - 0x6000), 0)
  else none

/-- The cause of the first enable among some members that its block has refused at its hinge: the bit reads 0 again. -/
def refusedEnable (s : State) (ms : List Member) : Option Nat :=
  (ms.filterMap (enableOf s)).findSome? fun x => if s.bit x.1.1 x.1.2 then none else some x.2

/-- One request that waits for its hinge or its boundary (R496, R508, R517). -/
def hingeCompletion (t : Nat) (q : Req) (s : State) : State :=
  match q.st with
  | .atHinge g =>
    if (match g with
      | some k => (s.grp k).pending
      | none => false) then s
    else
      let e := refusedEnable s (opMembers q.op)
      let h := hingeCause s t g (opMembers q.op)
      let c := if h = 0 then e.getD 0 else h
      let st := if h = 0 ∧ e = none then q.status else match q.op with
        | .group _ _ => 12
        | _ => 11
      if st = 11 then finish t q.tag 11 (hingeNo s) c [] s else writeInForce t q.tag st (hingeNo s) c s
  | .inForce a =>
    let crossing := match s.bus.sc with
      | some x => x.addr == a
      | none => false
    if (tget none s.wbPend a).isSome || crossing then s
    else match refusedEnable s (opMembers q.op) with
      | some c => finish t q.tag 11 (hingeNo s) c [] s
      | none => writeInForce t q.tag 0 (hingeNo s) 0 s
  | .resetOf u => if (s.tenant u).resetting ≠ 0 then s else writeInForce t q.tag 0 (hingeNo s) 0 s
  | _ => s

/-- The end of the dictionary's hinge: its time moves on, completions, sessions and unfinished CAN messages grow older, and the
OPEN rate's second moves on. -/
def dictHinge (s0 : State) : State :=
  let s := s0.modDict fun d => { d with hinges := d.hinges + 1 }
  let s1 := (List.range 8).foldl (fun s t => (s.tenant t).reqs.foldl (fun s q => hingeCompletion t q s) s) s
  s1.modRil fun r => { r with
    sessions := r.sessions.map fun x => (x.1, x.2.map fun y => { y with idle := y.idle + 1 }),
    reasm := r.reasm.map fun x => { x with age := x.age + 1 },
    openAges := (r.openAges.map (· - 1)).filter (· != 0) }

/-- The registers of a session slot as they read. -/
def sessView (s : State) (n off : Nat) : Word :=
  match s.sess n with
  | none => 0#32
  | some x =>
    let tr := match x.transport with
      | .udp => 0
      | .can0 => 1
      | .can1 => 2
    if off = 0 then BitVec.ofNat 32 (2 + 16 * x.tenant + 128 * b2n x.warden + 256 * tr)
    else if off = 4 then x.sid
    else if off = 8 then (if x.transport = .udp then x.peerIp else 0#32)
    else BitVec.ofNat 32 (x.peerPort % 65536 + 65536 * min 0xFFFF (x.idle / 16000))

/-- DICT's block reset, its registers apart (chapter 16, where things meet): what is outstanding is discarded, arrival numbers
return to reset, the engine's commit groups are cancelled, and the log is kept. -/
def dictBlockReset (s : State) : State :=
  let first := min 48 (s.rdf Reg.dictGrp 0 6)
  let s1 := (List.range 16).foldl (fun s k => cancelGroup (first + k) s) s
  let ten := (List.range 8).foldl (fun d t =>
    let x := tget (Tenant.byKey t) d t
    tset (Tenant.byKey t) d t { Tenant.init (if x.st = .resetting then .active else x.st) with lost := x.lost }) s1.dict.tenants
  let s2 := s1.modDict fun d => { d with
    loaded := false, badRec := 0, tenants := ten, rrUrgent := 0, rrStream := 0, rrNormal := 0, hprod := 0, hslots := [], log := [] }
  s2.modRil fun r => { r with sessions := [], reasm := [], ingress := [] }

end Sys2Proof.Machine
end

