-- ==== Sys2Proof/Machine/Reset.lean ====
section
/-! DEFINITION. Power and reset (chapter 25): device reset and always-on power-up, the reset of a core or a block, the
release of blocks by the Warden, the trim load and the temperature sensor. -/

namespace Sys2Proof.Machine
open Sys2Proof

namespace Reg
def ctStat : Nat := 0x40010180
def rstCause : Nat := 0x400102A0
def bootStage : Nat := 0x40010280
def tallySum : Nat := 0x40010284
def recov : Nat := 0x40010288
def anvStat : Nat := 0x4001028C
def ioStat : Nat := 0x4000090C
def ccStart (c : Nat) : Nat := 0xE0000020 + 4 * c
def icThresh (c : Nat) : Nat := 0x40001504 + 0x10 * c
end Reg

def State.modPower (s : State) (f : Power → Power) : State := { s with power := f s.power }
def State.modBus (s : State) (f : BusState → BusState) : State := { s with bus := f s.bus }

/-! ### Slow-copy writes as they land (R52) -/

/-- An SC write lands in the always-on domain. Registers that only hardware writes keep their value; those that only the
Warden writes are filtered before they cross (R795). -/
def scLand (a : Nat) (v : Word) (s : State) : State :=
  if 0x40010100 ≤ a ∧ a < 0x40010180 then ctCfgWrite ((a - 0x40010100) / 16) v s
  else match a with
    | 0x40010240 => faultCtrl v s
    | 0x40010260 => s.wr a (v &&& 0x3#32)
    | 0x40010264 => s.wr a v
    | 0x4001026C => if v.getLsbD 0 then s.modPorts fun p => { p with padsHeld := false } else s
    | 0x40010288 => s.wr a (v &&& 1#32)
    | 0x4001028C => s.wr a (v &&& 0xFF73#32)
    | 0x40010280 => s.modWard fun w => { w with
        stage := fld v 0 4, cause := fld v 8 4, copy := fld v 12 3, failed := fld v 16 8 }
    | 0x40010284 => s.wr a v
    | _ => s

/-- The SC write under way lands, and its acknowledgement returns (R52); not while the slow clock has stopped. -/
def scLanded (s : State) : State :=
  if s.clk.slowGone then s
  else match s.bus.sc with
  | some x => scLand x.addr x.data (s.modBus fun b => { b with sc := none })
  | none => s

/-! ### Device reset (R844 to R851) -/

/-- The AON registers that a device reset keeps (R848). -/
def keptReg (a : Nat) : Bool :=
  decide (0x40010000 ≤ a ∧ a < 0x40020000) && a != Reg.bootStage && a != Reg.tallySum && a != Reg.anvStat

/-- The memories that a device reset keeps: the retention RAM and the Keep (R848). -/
def keptMem (a : Nat) : Bool :=
  decide (0x21000000 ≤ a ∧ a < 0x21010000) || decide (keepBase ≤ a ∧ a < keepBase + keepSize)

/-- A Keep line program that a reset finds under way: it completes if power fails in the orderly way (R840), and is left
undefined otherwise (R693). -/
def keepCut (completes : Bool) (s : State) : State :=
  match s.msg.prog with
  | none => s
  | some p => match s.keepLine p with
    | none => s
    | some l =>
      if completes then s.mwrBytes (keepBase + l.off) l.bytes
      else
        let d := drawBytes 16 s
        d.2.mwrBytes (keepBase + l.off) d.1

/-- What a reset starts from, with what lies outside the part or survives any reset. -/
def fresh (s : State) : State :=
  { State.reset with
    flash := s.flash,
    ports := { State.reset.ports with gpioIn := s.ports.gpioIn },
    net := { State.reset.net with phyInt := s.net.phyInt },
    modes := { State.reset.modes with wakePin := s.modes.wakePin },
    ward := { Warden.init with fuses := s.ward.fuses },
    free := s.free,
    pending := s.pending }

/-- A device reset for the cause with a bit in AON.RST_CAUSE (R848): an SC write that had crossed lands, one that had not
is lost, and nothing says which (R900, assumption 2); everything outside the always-on domain returns to reset, and the reset is held (R844). `keepXtal` says that the crystal runs on
(R846). -/
def resetDevice (cause : Nat) (keepXtal : Bool) (s : State) : State :=
  let s1 := match s.bus.sc with
    | some _ => if s.draw.1.getLsbD 0 then scLanded s.draw.2 else s.draw.2
    | none => s
  let s2 := keepCut (cause == 2) s1
  let f := fresh s2
  { f with
    regs := s2.regs.filter fun x => keptReg x.1,
    sqs := s2.sqs.filter fun x => keptReg x.1,
    mem := s2.mem.filter fun x => keptMem x.1,
    ecc := s2.ecc.filter fun x => keptMem x.1,
    clk := { f.clk with xtalOk := keepXtal && s2.clk.xtalOk, slowGone := s2.clk.slowGone },
    ports := { f.ports with
      contacts := s2.ports.contacts.map fun x =>
        (x.1, { x.2 with seen := x.2.cnt, seenCls := x.2.cls, silenced := false, alarmDue := false, silenceDue := false }) },
    ward := { f.ward with
      anv := { f.ward.anv with pubIdx := s2.ward.anv.pubIdx, pub := s2.ward.anv.pub, pubCnt := s2.ward.anv.pubCnt,
                               answer := s2.ward.anv.answer } },
    power := { s2.power with held := true, trimDone := false, hot := false, tempAge := 0, tap := .idcode, tapOut := 0#32,
                             causes := wsetBit s2.power.causes cause true } }

/-- A holding condition (R844): RESET_N, PWR_OK or TEST_MODE. -/
def holdReset (c : HoldCause) (s : State) : State :=
  match c with
  | .pin => resetDevice 1 false s
  | .pwrOk => resetDevice 2 false s
  | .testMode => resetDevice 8 true s

/-- A supply's place among the brown-out bits of AON.RST_CAUSE. -/
def supplyBit : Supply → Nat
  | .core => 9
  | .serdes => 10
  | .nv => 11
  | .vdda => 12
  | .ioA => 13
  | .ioB => 14

/-- A main supply's detector trips (R842). -/
def brownOut (x : Supply) (s : State) : State :=
  (resetDevice 3 false s).modPower fun p => { p with causes := wsetBit p.causes (supplyBit x) true }

/-- The loss of the crystal: device reset, held until it returns (R126). -/
def crystalLost (s : State) : State :=
  if s.clk.xtalOk && s.modes.sleep != .asleep then
    (xtalLostMark (resetDevice 4 false s)).modPower fun p => { p with xtalLost := true }
  else s

/-- VDD_AON33 falls and returns (R843): the whole part is reset; what does not need power keeps its contents. -/
def alwaysOnPowerUp (s : State) : State :=
  let s1 := keepCut false s
  { fresh s1 with
    mem := s1.mem.filter fun x => decide (keepBase ≤ x.1 ∧ x.1 < keepBase + keepSize),
    ecc := s1.ecc.filter fun x => decide (keepBase ≤ x.1 ∧ x.1 < keepBase + keepSize) }

/-- Device reset ends (R844): its causes are recorded and counted (R850), the VDDIO_B bank senses its supply (R873), and
the media family is to start on the reference PLL (R757). The crystal must not be lost (R126). -/
def resetRelease (ioB33 : Bool) (s : State) : State :=
  if s.power.held && s.power.aonReady && !s.power.xtalLost then
    let n := min 0xFFFF (s.rdf Reg.rstCause 16 16 + 1)
    let s1 := (s.wrn Reg.rstCause (65536 * n + s.power.causes.toNat % 32768)).wrb Reg.ioStat 0 ioB33
    { s1 with mclk := { s1.mclk with backup := true }, power := { s1.power with held := false, causes := 0#32 } }
  else s

/-! ### Core reset and release (R756, R757, R849, R852) -/

/-- Is a bit of WARDEN.RELEASE in force: 0 the control fabric, i a slot, 16 the audio fabric, 17 + c a control core? -/
def released (s : State) (i : Nat) : Bool := s.ward.release.getLsbD i

/-- A control core starts at WARDEN.CC_START_c (R852); before KEYLOCK and its release it stays in reset (R756). -/
def coreStart (c : Nat) (s : State) : State :=
  let x := ctlDefault c
  s.setCtl c (if s.ward.keylock && released s (17 + c) then { x with r := { x.r with pc := s.rd (Reg.ccStart c) &&& 0xFFFFFFFE#32 }, st := .run } else x)

/-- The next access into NET enters the crossing (R77). -/
def netNext (s : State) : State :=
  s.modBus fun b => match b.netWait with
    | x :: t => { b with net := some x, netWait := t }
    | [] => { b with net := none }

/-- A master is reset while its accesses wait for crossing 12: those that wait their turn go, and the one on its way acts
all the same if it had crossed, which nothing tells (R900, assumption 2). -/
def netOrphan (m : Master) (s : State) : State :=
  let s1 := s.modBus fun b => { b with netWait := b.netWait.filter fun x => x.master != m }
  match s1.bus.net with
  | some x =>
    if x.master = m then
      let d := s1.draw
      if d.1.getLsbD 0 then d.2.modBus fun b => { b with net := some { x with phase := .orphan } } else netNext d.2
    else s1
  | none => s1

/-- A core reset (R852). -/
def coreReset (c : Nat) (s : State) : State :=
  let m : Master := .cc (Fin.ofNat 4 c)
  let s1 := netOrphan m (s.modBus fun b => { b with splits := b.splits.filter fun x => x.master != m })
  let s2 := ((s1.wrn (Reg.icThresh c) 8).wrb (Reg.wdogCfg c) 24 false).wrb Reg.wdogStat c false
  coreStart c s2

/-- The memories that a bit of WARDEN.RELEASE releases are zeroed as it does (R849). -/
def releaseZero (i : Nat) (s : State) : State :=
  match i with
  | 0 => s.mclr 0x20000000 0x20200000
  | 16 => { (s.mclr 0x30000000 0x30800000).mclr 0x38000000 0x38200000 with
      regs := s.regs.filter fun x => decide (x.1 < 0x3C000000 ∨ 0x3D000000 ≤ x.1) }
  | _ => s

/-- One bit of WARDEN.RELEASE is written 1. -/
def releaseBit (s : State) (i : Nat) : State :=
  if released s i ∨ (17 ≤ i ∧ s.ward.keylock = false) then s
  else
    let s1 := (releaseZero i s).modWard fun w => { w with release := w.release ||| BitVec.ofNat 21 (2 ^ i) }
    if 17 ≤ i then coreStart (i - 17) s1
    else if i = 14 ∧ s1.enabled 14 then journalScan s1
    else s1

/-- A write of WARDEN.RELEASE (R756, R859): a bit once 1 stays 1 until a device reset (assumption 16). -/
def releaseWrite (v : Nat) (s : State) : State :=
  if s.power.trimDone then (bitsOf 21 v).foldl releaseBit s else s

/-! ### Block reset (R853) -/

/-- The slot of the block whose table a word of the aperture belongs to, where a block reset returns it to reset. -/
def apSlot : ApTable → Option Nat
  | .window .. | .line .. | .stagedLine .. | .stagedCore .. => some 2
  | .bind .. => some 3
  | .node .. | .nodeCur .. | .inSel .. | .zone .. | .outZone .. | .destSel .. => some 4
  | .tone .. => some 5
  | .eqSec .. | .limiter .. => some 7
  | .passSlot .. => some 12
  | .plan .. | .rxStream .. | .txStream .. => none

/-- Does a stored address belong to a block: in its slot, or in a table of its own, shadows included? A lane, whose address
lies above the 32-bit space, is the sample engine's. -/
def ownedBy (slot a : Nat) : Bool :=
  if inSlots a then a / 0x10000 % 16 == slot
  else if 0x100000000 ≤ a then slot == 2
  else if 0x3C000000 ≤ a ∧ a < 0x3D000000 then
    (apTable (if a < 0x3C800000 then a else a - 0x800000)).bind apSlot == some slot
  else false

/-- An answer reaches the master whose access waits for it: a core's instruction, or what another master reads next. -/
def giveRet (m : Master) (b : BusRet) (s : State) : State :=
  let put := fun (c : Nat) => s.setCtl c { s.ctlCore c with rets := (s.ctlCore c).rets ++ [b] }
  match m with
  | .warden => put 4
  | .cc n => put n.val
  | _ => s.modBus fun x => { x with answer := b.res.map (BitVec.ofNat 64) }

/-- Bridge traffic for a block that is reset: posted writes are discarded, split reads are answered with a bus error
(R72). -/
def bridgeReset (slot : Nat) (s : State) : State :=
  let hit := s.bus.splits.filter fun x => ownedBy slot x.addr
  let s1 := s.modBus fun b => { b with
    toAudio := b.toAudio.filter fun x => !ownedBy slot x.addr,
    toCtl := b.toCtl.filter fun x => !ownedBy slot x.addr,
    splits := b.splits.filter fun x => !ownedBy slot x.addr }
  hit.foldl (fun s x => giveRet x.master ⟨x.addr, false, none, false⟩ s) s1

/-- Lanes from `lo` on read 0. -/
def lanesZero (lo n : Nat) (s : State) : State := (List.range n).foldl (fun s k => s.setLane (lo + k) LaneVal.zero) s

/-- A DIRTY set whose table a block reset returns to reset. -/
def setSlot : CSet → Nat
  | .coef _ => 3
  | .node _ _ => 4
  | .eq _ | .qnch _ => 7
  | .tone _ => 5
  | .line _ _ => 2

/-- What a block reset does to a block's state, its registers and tables apart ("Where things meet" of each chapter). -/
def blockState (slot : Nat) (s : State) : State :=
  match slot with
  | 2 => lanesZero 0x300 256 { s with eng := { State.reset.eng with lanes := s.eng.lanes } }
  | 3 => { s.safe.dirty.foldl (fun s c => discardSet c s) s with safe := State.reset.safe }
  | 4 => { s with weld := State.reset.weld }
  | 5 => lanesZero 0x200 64 { s with tone := State.reset.tone }
  | 6 => lanesZero 0x250 32 { s with bridges := [] }
  | 7 => { s with qnch := State.reset.qnch }
  | 8 => (List.range 6).foldl (fun s p => fifoUnready true false (8 + p) s) (lanesZero 0x100 192 { s with tdm := [] })
  | 9 =>
    let s1 := (streamsOff (transportReset .udp s)).modNet fun n => { State.reset.net with phyInt := n.phyInt }
    (List.range 4).foldl (fun s k => fifoUnready false true k s) s1
  | 10 => dictBlockReset s
  | 11 => dmaBlockReset s
  | 12 => senseBlockReset s
  | 13 => msgBlockReset s
  | 14 => { s with evt := State.reset.evt }
  | 15 => fifoUnready true false 4 (portsBlockReset (transportReset .can1 (transportReset .can0 s)))
  | _ => s

/-- A block reset (R853, R72). -/
def blockReset (slot : Nat) (s : State) : State :=
  if released s slot then
    let s1 := bridgeReset slot (blockState slot s)
    let keep := fun (a : Nat) => !ownedBy slot a
    let s2 := { s1 with
      regs := s1.regs.filter fun x => keep x.1,
      wbPend := s1.wbPend.filter fun x => keep x.1,
      sqs := s1.sqs.filter fun x => keep x.1,
      bus := { s1.bus with loHeld := s1.bus.loHeld.filter fun x => keep x.1 },
      safe := { s1.safe with dirty := s1.safe.dirty.filter fun c => setSlot c != slot } }
    summaryCheck (if slot = 14 then journalScan s2 else s2)
  else s

/-! ### The trim load (R855 to R862) -/

/-- One bit of a CRC-8 with polynomial 0x07, most significant bit first. -/
def crc8Bit (c : Nat) : Nat := if c / 128 = 1 then (Nat.xor (c * 2 % 256) 7) else c * 2
/-- The CRC-8 of bytes, from an initial value. -/
def crc8 (c : Nat) : List Byte → Nat
  | [] => c
  | b :: bs => crc8 (Nat.repeat crc8Bit 8 (Nat.xor c b.toNat)) bs

/-- The data word of a copy whose CRC matches (R855). -/
def trimGood (c : BitVec 40) : Option Word :=
  let w := c.setWidth 32
  if crc8 0xFF (leBytes 4 w.toNat) = c.toNat / 2 ^ 32 then some w else none

/-- What the load makes of a row: the value, and whether copy 0 or copy 1 gave it; none is the default (R857). -/
def trimRow (f : Fuses) (r : Nat) : Option (Word × Bool) :=
  match trimGood ((f.trim0[r]?).getD 0#40) with
  | some w => some (w, false)
  | none => (trimGood ((f.trim1[r]?).getD 0#40)).map fun w => (w, true)

/-- Rows whose default is a number: converter and option rows. The others default to a setting of a circuit whose number
no table gives (assumption 16). -/
def trimZero (r : Nat) : Bool := decide (12 ≤ r ∧ r ≤ 23) || decide (32 ≤ r)

/-- The bits of a 48-row map in a register pair. -/
def mapPair (a : Nat) (f : Nat → Bool) (s : State) : State :=
  (s.wrn a (maskOf 32 f)).wrn (a + 4) (maskOf 16 fun k => f (32 + k))

/-- The trim load, and what the Warden does of its outcome (R857 to R859, R862). -/
def trimLoad (s : State) : State :=
  if s.power.held || !s.clk.xtalOk || s.power.trimDone then s
  else
    let f := s.ward.fuses
    let row := fun (r : Nat) => trimRow f r
    let layoutBad := match row 0 with
      | some (w, _) => decide (fld w 16 8 ≠ 1)
      | none => true
    let def? := fun (r : Nat) => layoutBad || (row r).isNone
    let c1? := fun (r : Nat) => !layoutBad && ((row r).map (·.2)) == some true
    let reads := 48 + ((List.range 48).filter fun r => (trimGood ((f.trim0[r]?).getD 0#40)).isNone).length
    let s1 := (List.range 48).foldl (fun s r =>
      if def? r then
        if trimZero r then s.wrn (0x40000800 + 4 * r) 0
        else
          let d := s.draw
          d.2.wr (0x40000800 + 4 * r) d.1
      else s.wr (0x40000800 + 4 * r) (((row r).map (·.1)).getD 0#32)) s
    let any := (List.range 48).any def?
    let s2 := mapPair 0x40000714 c1? (mapPair 0x4000071C def? s1)
    let s3 := s2.wrn 0x40000710 (1 + 2 * b2n any + 4 * b2n layoutBad + 256 * reads)
    let s4 := (s3.wr Reg.netMacLo (s3.rd 0x40000880)).wr Reg.netMacHi (s3.rd 0x40000884 &&& 0xFFFF#32)
    let s5 := s4.modPower fun p => { p with trimDone := true }
    let s6 := s5.modWard fun w => { w with
      stage := 1,
      held := if any then w.held ++ [⟨0, 4, 0x8001, leBytes 6 (maskOf 48 def?) ++ leBytes 6 (maskOf 48 c1?), s5.mclk.frameCnt⟩]
              else w.held }
    if (List.range 32).any def? then forceFault s6 else s6

/-! ### Temperature (R891, R892) -/

/-- SYS.TEMP takes a new value, 16 hinges after the one before it (R891, R892). -/
def temperatureUpdate (t : BitVec 16) (s : State) : State :=
  if s.power.held || decide (s.power.tempAge < 16) then s
  else
    let s := s.modPower fun p => { p with tempAge := 0 }
    let old : Int := sfld (s.rd 0x40000900) 0 16
    let high : Int := sfld (s.rd 0x40000904) 0 16
    let s1 := s.wrn 0x40000900 t.toNat
    if old < high ∧ high ≤ t.toInt then sqSet 0x40000908 [0] (s1.modPower fun p => { p with hot := true })
    else if s.power.hot ∧ t.toInt ≤ high - 320 then sqSet 0x40000908 [1] (s1.modPower fun p => { p with hot := false })
    else s1

end Sys2Proof.Machine
end

