-- ==== Sys2Proof/Machine/Bus.lean ====
section
/-! DEFINITION. The bus: what a read and a write of each region, and of each register by its access code, does
(chapter 2). -/

namespace Sys2Proof.Machine
open Sys2Proof

/-- Who makes an access: the master, and the level that the access carries. -/
structure Who where
  m : Master
  lvl : Lvl
  deriving DecidableEq, Repr

/-- The master identifiers (chapter 2). -/
def masterId : Master → Nat
  | .warden => 0
  | .cc n => 1 + n.val
  | .dict => 8
  | .hostSpi => 0x10
  | .anvil => 0x11
  | .jtag => 0x12
  | .dma n => 0x80 + n.val

/-- The level that a master's accesses carry now (chapter 2; R232). -/
def lvlOf (s : State) : Master → Lvl
  | .warden => .secure
  | .cc n => if (s.ctlCore n.val).r.psw.getLsbD 30 then .privileged else .unprivileged
  | .hostSpi => if s.bit 0x40000070 0 then .privileged else .unprivileged
  | .dma n => if s.bit (Reg.dma n.val 0) 2 then .privileged else .unprivileged
  | _ => .privileged

def whoOf (s : State) (m : Master) : Who := ⟨m, lvlOf s m⟩

/-- Debug reads change no state (R35). -/
def Who.debug (w : Who) : Bool := w.m == .anvil || w.m == .jtag

/-! ### Regions (R20) -/

inductive Region where
  | rom | secure | hearth | retention | crucible | scWindow | aperture | slots | keep | flash | wardenRegs | unmapped
  deriving DecidableEq, Repr

def regionOf (a : Nat) : Region :=
  if a < 0x10000 then .rom
  else if 0x08000000 ≤ a ∧ a < 0x08020000 then .secure
  else if 0x20000000 ≤ a ∧ a < 0x20200000 then .hearth
  else if 0x21000000 ≤ a ∧ a < 0x21010000 then .retention
  else if 0x30000000 ≤ a ∧ a < 0x30800000 then .crucible
  else if 0x38000000 ≤ a ∧ a < 0x38200000 then .scWindow
  else if 0x3C000000 ≤ a ∧ a < 0x3D000000 then .aperture
  else if 0x40000000 ≤ a ∧ a < 0x40400000 then .slots
  else if 0x50000000 ≤ a ∧ a < 0x50800000 then .keep
  else if 0x60000000 ≤ a ∧ a < 0x70000000 then .flash
  else if 0xE0000000 ≤ a ∧ a < 0xE0100000 then .wardenRegs
  else .unmapped

/-- Is a region carried by the audio fabric? -/
def Region.audio (r : Region) : Bool := r == .crucible || r == .scWindow || r == .aperture

/-- The register address that an address of the slots or their aliases names, and the path: 0 direct, 1 set, 2 clear, 3
toggle. -/
def aliasOf (a : Nat) : Nat := (a - 0x40000000) / 0x100000
def directOf (a : Nat) : Nat := 0x40000000 + (a - 0x40000000) % 0x100000
/-- The word that an address lies in. -/
def wordOf (a : Nat) : Nat := a - a % 4

/-- The row of a register by the address of its word, in the slots or among the Warden's registers; a word of the shadow
window answers for the WB register under it. -/
def rowAt (a : Nat) : Option RegRow :=
  if inSlots a then
    let off := a % 0x10000
    if off < 0x8000 then regRowOf a
    else (regRowOf (a - 0x8000)).filter fun r => r.cls == .wb
  else wardenRowOf a

/-! ### Filtering (R22, R61 to R63, R895) -/

/-- What the filter makes of an access: it passes, it is answered with zero or dropped, or it is answered with a bus
error; and whether the secure bit logs it. -/
inductive Filtered where
  | pass | dropped (sec : Bool) | refused
  deriving DecidableEq, Repr

/-- The AON registers that only the Warden writes (R795, chapter 24). -/
def wardenOnly (a : Nat) : Bool := [0x40010280, 0x40010284, 0x40010288, 0x4001028C].contains a

def filterOf (w : Who) (write : Bool) (a : Nat) : Filtered :=
  let priv := if w.lvl = .unprivileged then Filtered.dropped false else .pass
  let sec := if w.lvl = .secure then Filtered.pass else .dropped true
  match regionOf a with
  | .rom => if w.lvl = .secure then .pass else .refused
  | .secure => if w.lvl = .secure then .pass else .refused
  | .retention => if a < 0x21001000 then sec else priv
  | .scWindow => priv
  | .aperture => priv
  | .wardenRegs => sec
  | .keep =>
    if write then .pass
    else match keepPart (a - keepBase) with
      | .fallback => .pass
      | .boot => sec
      | _ => priv
  | .slots =>
    let d := wordOf (directOf a)
    if write && wardenOnly d && w.lvl == .privileged then .dropped true
    else match rowAt d with
      | some r => if r.priv then priv else .pass
      | none => .pass
  | _ => .pass

/-- Log a filtered access in SYS.PRIVFAULT. -/
def logPriv (w : Who) (write sec : Bool) (n a : Nat) (s : State) : State :=
  logAccess Reg.privFault (b2n write + 2 * b2n sec) (masterId w.m) n a write s
/-- Log an access in SYS.ACCFAULT: 0 NARROW_WRITE, 1 NARROW_READ, 2 SHADOW_WRITE, 3 SQ_STALE, 4 ALIAS_IGNORED, 5 UNALIGNED,
6 UNMAPPED, 7 RESERVED_OFFSET, 8 READ_ONLY. -/
def logAcc (w : Who) (bit : Nat) (write : Bool) (n a : Nat) (s : State) : State :=
  logAccess Reg.accFault bit (masterId w.m) n a write s

/-! ### Blocks that are held in reset (R756) -/

/-- Is what lies at an address held in reset, so that no access reaches it (assumption 17)? -/
def heldAt (s : State) (a : Nat) : Bool :=
  match regionOf a with
  | .hearth | .keep | .flash | .retention => !released s 0
  | .crucible | .scWindow | .aperture => !released s 16
  | .slots =>
    let slot := a / 0x10000 % 16
    if slot = 1 then !released s 0 else !released s slot
  | .rom | .secure | .wardenRegs => s.power.held
  | .unmapped => false

/-! ### Views: what each register reads as -/

/-- SYS.INT_PEND_k: the latches, and the level sources as they stand (R243, R244). -/
def levelOf (s : State) (src : Nat) : Bool :=
  if src = 161 then hringLevel s
  else if src = 225 then ringLevel s
  else if src = 146 then s.net.phyInt
  else if src = 247 then decide (s.rd Reg.gpioEdge &&& s.rd Reg.gpioIrqEn ≠ 0#32)
  else decide (176 ≤ src ∧ src ≤ 191) && dmaLevel s (src - 176)

def intPending (s : State) (src : Nat) : Bool :=
  if isLevelSource src then levelOf s src else s.bit (intPendAddr (src / 32)) (src % 32)

def ccCode : CcState → Nat
  | .reset => 0
  | .run => 1
  | .wait => 2
  | .lockup => 3

def icStatView (s : State) (c : Nat) : Word :=
  let x := s.ctlCore c
  BitVec.ofNat 32 (x.lastVec * 65536 + x.active.toNat * 256 + x.runlvl)

def servoCode : ServoState → Nat
  | .freeRun => 0
  | .acquiring => 1
  | .locked => 2
  | .holdover => 3

def mclkStatView (s : State) : Word :=
  BitVec.ofNat 32 (servoCode s.mclk.st + 4 * b2n s.mclk.backup + 8 * b2n s.mclk.gmLocal + 16 * b2n s.mclk.slewing)

def wmboxStatView (s : State) : Word :=
  BitVec.ofNat 32 (b2n s.ward.mbox.isSome + 2 * b2n s.ward.mboxOverrun + 256 * s.ward.mboxResult
    + 65536 * s.ward.mboxSeq.toNat)

/-- SYS registers that hardware computes. SYS.STRIKE_POS names the fabric cycle, whose slot no state holds: that part is
free (assumption 2). -/
def sysView (a : Nat) (s : State) : Word :=
  let off := a % 0x10000
  if 0x1000 ≤ off ∧ off < 0x1400 then
    (s.rd a &&& 0x771#32) ||| BitVec.ofNat 32 (2 * b2n (isPulseSource ((off - 0x1000) / 4)))
  else if 0x1400 ≤ off ∧ off < 0x1420 then
    let k := (off - 0x1400) / 4
    BitVec.ofNat 32 (maskOf 32 fun j => intPending s (32 * k + j))
  else if 0x1500 ≤ off ∧ off < 0x1540 then
    let c := (off - 0x1500) / 16
    if off % 16 = 0 then icStatView s c
    else if off % 16 = 8 then BitVec.ofNat 32 (ccCode (s.ctlCore c).st)
    else s.rd a
  else if 0x420 ≤ off ∧ off < 0x460 ∧ off % 16 = 8 then BitVec.ofNat 32 (wdogLeft s ((off - 0x420) / 16))
  else match off with
    | 0x0100 => s.mclk.frameCnt.setWidth 32
    | 0x0104 => (s.mclk.frameCnt >>> 32).setWidth 32
    | 0x0108 => s.mclk.hingeCnt
    | 0x010C => BitVec.ofNat 32 (s.draw.1.toNat % 5120 * 65536 + s.mclk.frameCnt.toNat % 6)
    | 0x0144 => clkmonState s
    | 0x0148 => BitVec.ofNat 32 (maskOf 16 (xingReady s))
    | 0x0204 => mclkStatView s
    | 0x020C => if s.mclk.backup then 0#32 else BitVec.ofInt 32 (pullUnits s)
    | 0x0210 => if s.mclk.backup then 0#32 else s.rd a
    | 0x0214 => if s.mclk.backup then 0#32 else BitVec.ofInt 32 s.mclk.holdPull
    | 0x0218 => BitVec.ofInt 32 s.mclk.phase
    | 0x0220 => s.mclk.stepN.setWidth 32
    | 0x0224 => (s.mclk.stepN >>> 32).setWidth 32
    | 0x0300 => BitVec.ofNat 32 (faultSum s)
    | 0x0400 => modeView s
    | 0x0404 => modeReqView s
    | 0x0608 => wmboxStatView s
    | 0x0610 => s.rd 0xE0000300
    | 0x0700 => 0#32
    | _ => s.rd a

/-- AON.BOOT_STAGE (R795). -/
def bootStageView (s : State) : Word :=
  let c := match tget none s.ward.imgs (kindNo .control) with
    | some i => copyNo i.copy
    | none => 0
  BitVec.ofNat 32 (s.ward.stage + 256 * s.ward.cause + 4096 * c + 65536 * min 255 s.ward.failed)

def aonView (a : Nat) (s : State) : Word :=
  let off := a % 0x10000
  if off = 0x180 then ctStatView s
  else if 0x200 ≤ off ∧ off < 0x220 then (s.contact ((off - 0x200) / 4)).cnt.setWidth 32
  else if off = 0x280 then bootStageView s
  else s.rd a

/-- BLOCK.PEND of a slot (R45, R52); WELD's tables in the aperture count with it. -/
def pendView (slot : Nat) (s : State) : Word :=
  let p := s.wbPend.any fun x => x.2.isSome && ownedBy slot x.1
  BitVec.ofNat 32 (boundaryOf slot * 16 + b2n p + (if slot = 1 then 2 * b2n s.bus.sc.isSome else 0))

def engView (a : Nat) (s : State) : Word :=
  let off := a % 0x10000
  if off = 0x24 then engStateView s
  else if off = 0x34 then BitVec.ofNat 32 (winUsed s)
  else if off = 0x48 then gswapStatView s
  else if 0x100 ≤ off ∧ off % 0x20 = 4 then coreStatView s ((off - 0x100) / 0x20)
  else s.rd a

def safeView (a : Nat) (s : State) : Word :=
  let off := a % 0x10000
  if off = 0x28 then pendingView s 0
  else if off = 0x2C then pendingView s 32
  else if 0x100 ≤ off ∧ off % 16 = 4 then grpStatView s ((off - 0x100) / 16)
  else if 0x100 ≤ off ∧ off % 16 = 8 then (s.grp ((off - 0x100) / 16)).hinge
  else s.rd a

def weldView (a : Nat) (s : State) : Word :=
  match a % 0x10000 with
  | 0x24 => BitVec.ofNat 32 (nodeUsed s)
  | 0x28 => claimView s
  | 0x64 => muteView s
  | _ => s.rd a

def brdgView (a : Nat) (s : State) : Word :=
  let off := a % 0x10000
  let n := (off - 0x100) / 16
  if off < 0x100 then s.rd a
  else if off % 16 = 4 then bstatView s n
  else if off % 16 = 8 then (s.bridge n).slips
  else if off % 16 = 12 then ratioView s n
  else s.rd a

def qnchView (a : Nat) (s : State) : Word :=
  let off := a % 0x10000
  if off = 0x40 then BitVec.ofNat 32 (eqUsed s)
  else if 0xC00 ≤ off ∧ off % 16 = 12 then spwStateView s ((off - 0xC00) / 16)
  else s.rd a

def tdmView (a : Nat) (s : State) : Word :=
  let off := a % 0x10000
  let p := (off - 0x100) / 0x20
  if off < 0x100 then s.rd a
  else match off % 0x20 with
    | 0x0C => tdmStatView s p
    | 0x10 => BitVec.ofNat 32 (s.tport p).phase
    | 0x14 => (s.tport p).slips
    | _ => s.rd a

def netView (a : Nat) (s : State) : Word :=
  match a % 0x10000 with
  | 0x2C => portStatView s false
  | 0x30 => portStatView s true
  | 0x60 => hsrNodesView s
  | _ => s.rd a

def dictView (a : Nat) (s : State) : Word :=
  let off := a % 0x10000
  if off = 0x40 then dictStatView s
  else if off = 0x88 then BitVec.ofNat 32 s.dict.hprod
  else if 0x100 ≤ off ∧ off < 0x300 ∧ off % 0x40 = 0 then tenStateView s ((off - 0x100) / 0x40)
  else if 0x100 ≤ off ∧ off < 0x300 ∧ off % 0x40 = 8 then (s.tenant ((off - 0x100) / 0x40)).arrival
  else if 0x900 ≤ off ∧ off < 0xB00 then sessView s ((off - 0x900) / 16) (off % 16)
  else s.rd a

def dmaView (a : Nat) (s : State) : Word :=
  let off := a % 0x10000
  if 0x20 ≤ off ∧ off < 0x30 then irqSumView s ((off - 0x20) / 4)
  else if 0x100 ≤ off ∧ off % 0x40 = 8 then chStatView s ((off - 0x100) / 0x40)
  else s.rd a

def senseView (a : Nat) (s : State) : Word :=
  let off := a % 0x10000
  let m := (off - 0x100) / 0x20
  if off = 0x38 then lmStateView s
  else if 0x80 ≤ off ∧ off < 0xA0 then (s.mon ((off - 0x80) / 4)).palarm.setWidth 32
  else if off = 0x414 then vtStatView s
  else if off < 0x100 ∨ 0x200 ≤ off then s.rd a
  else match off % 0x20 with
    | 0x14 => (s.mon m).z
    | 0x18 => lmResView s m
    | 0x1C => BitVec.ofNat 32 (s.mon m).amp
    | _ => s.rd a

def msgView (a : Nat) (s : State) : Word :=
  let off := a % 0x10000
  if off = 0x444 then keepStatView s
  else if 0x100 ≤ off ∧ off < 0x300 ∧ off % 0x20 = 8 then plStatView s ((off - 0x100) / 0x20)
  else if 0x100 ≤ off ∧ off < 0x300 ∧ off % 0x20 = 12 then BitVec.ofNat 32 (s.player ((off - 0x100) / 0x20)).frame
  else s.rd a

def evtView (a : Nat) (s : State) : Word :=
  let off := a % 0x10000
  if off = 0x40 then jheadView s
  else if 0x100 ≤ off ∧ off < 0x200 then evtSeqView s ((off - 0x100) / 4)
  else s.rd a

/-- A pair of press counters: PORTS.MIC_CNTk_x. -/
def pressView (s : State) (x k : Nat) : Word :=
  let ps := (s.mic x).presses
  BitVec.ofNat 32 (((ps[2 * k]?).getD 0#16).toNat + 65536 * ((ps[2 * k + 1]?).getD 0#16).toNat)

def portsView (a : Nat) (s : State) : Word :=
  let off := a % 0x10000
  let x := (off - 0x200) / 0x40
  if 0x200 ≤ off ∧ off < 0x280 then
    match off % 0x40 with
    | 0x0C => BitVec.ofNat 32 ((s.mic x).latest % 65536 + 65536 * (if (s.mic x).learnt then (s.mic x).i0 % 65536 else 0))
    | 0x10 => pressView s x 0
    | 0x14 => pressView s x 1
    | 0x18 => pressView s x 2
    | _ => s.rd a
  else if off = 0x40C ∨ off = 0x44C then uartRxdView s ((off - 0x400) / 0x40)
  else if off = 0x410 ∨ off = 0x450 then uartStatView s ((off - 0x400) / 0x40)
  else if off = 0x70C ∨ off = 0x74C then i2cRspView s ((off - 0x700) / 0x40)
  else if off = 0x808 then
    BitVec.ofNat 32 (maskOf 32 fun n => (gpioDrive s n).getD (s.ports.gpioIn.getLsbD n))
  else if off = 0x80C then BitVec.ofNat 32 (gpioOwn s)
  else if off = 0x100C ∨ off = 0x140C then canErrView s ((off - 0x1000) / 0x400)
  else if 0x1260 ≤ off ∧ off < 0x12A8 then canRxView s 0 ((off - 0x1260) / 4)
  else if 0x1660 ≤ off ∧ off < 0x16A8 then canRxView s 1 ((off - 0x1660) / 4)
  else s.rd a

/-- What a register's word reads as, by its own address in the slots. -/
def slotView (a : Nat) (r : RegRow) (s : State) : Word :=
  let slot := a / 0x10000 % 16
  let off := a % 0x10000
  if r.cls = .w1 then 0#32
  else if r.cls = .sq then (s.sq a).view
  else if off = 8 then pendView slot s
  else match slot with
    | 0 => sysView a s
    | 1 => aonView a s
    | 2 => engView a s
    | 3 => safeView a s
    | 4 => weldView a s
    | 6 => brdgView a s
    | 5 => if 0x30 ≤ off ∧ off < 0x44 then toneStateView s ((off - 0x30) / 4) else s.rd a
    | 7 => qnchView a s
    | 8 => tdmView a s
    | 9 => netView a s
    | 10 => dictView a s
    | 11 => dmaView a s
    | 12 => senseView a s
    | 13 => msgView a s
    | 14 => evtView a s
    | 15 => portsView a s
    | _ => s.rd a

/-- What a Warden register reads as (chapters 23 to 25). -/
def wardenView (a : Nat) (s : State) : Word :=
  let off := a - 0xE0000000
  if 0x100 ≤ off ∧ off < 0x200 then
    BitVec.ofNat 32 (leNat (((tallyOf s ((off - 0x100) / 32)).drop (off % 32)).take 4))
  else match off with
    | 0 => s.ward.release.setWidth 32
    | 4 => BitVec.ofNat 32 (b2n s.ward.keylock)
    | 8 => BitVec.ofNat 32 (s.ward.stage + 256 * s.ward.cause + 65536 * s.ward.copy + 16777216 * min 255 s.ward.attempts)
    | 0x200 => s.ward.freeze.setWidth 32
    | 0x240 | 0x400 | 0x404 => 0#32
    | _ => s.rd a

/-- What a word of a table of the aperture reads as. -/
def apView (a : Nat) (t : ApTable) (s : State) : Word :=
  match t with
  | .nodeCur o i => BitVec.ofNat 32 (nodeCur s o i)
  | .zone z off => zoneView s z off
  | .limiter o off => if off = 0x10 then limGainView s o else if off = 0x14 then (s.lim o).clips else s.rd a
  | .rxStream r off => rxView s r off
  | .txStream k off => txView s k off
  | _ => s.rd a

/-! ### Enables that govern WD registers (R48) -/

def govOn (slot : Nat) (r : RegRow) (i : Nat) (s : State) : Bool :=
  match r.gov with
  | .block => s.bit (slotBase slot + 4) 0
  | .core => coreEnable s i
  | .group => (s.grp i).pending
  | .bridge => s.bit Reg.bridgeEn i
  | .swap => s.eng.armed
  | .tdmPort => s.bit Reg.tdmEn i
  | .channel => chEnabled s i
  | .pass => passRuns s
  | .uart => s.bit (Reg.uartCtrl i) 0
  | .i2c => s.bit (Reg.i2cCtrl i) 0
  | .eqLane => eqEnabled s i
  | .speedwell => s.bit Reg.spwEn i
  | .pilot => s.bit Reg.pilotRun i
  | .player => s.bit Reg.msgRun i

/-- A refused write: WREJ, and where it was refused (R49, R53). -/
def writeRejected (slot path off : Nat) (s : State) : State :=
  sqSet (slotBase slot + 0xC) [0] (s.wrn (slotBase slot + 0x10) (off + 65536 * path))

/-! ### 64-bit pairs (R55, R56) -/

/-- The _LO register of the one 64-bit value that software writes: NET.MAC. The halves of TONE.RUN, NET.RX_EN and
NET.TX_EN are WB registers of their own (R401, R489). -/
def isLo (a : Nat) : Bool := a == 0x40090038

/-- The word that a write through an alias starts from: the shadow of a WB register, the held half of a _LO (R33, R56),
and what is stored where a read shows something else (R124). -/
def pendingOr (a : Nat) (live : Word) (s : State) : Word :=
  match tget none s.bus.loHeld a with
  | some v => v
  | none => if a = Reg.mclkFreePull then s.rd a else (tget none s.wbPend a).getD live

def setPending (a : Nat) (v : Word) (s : State) : State := { s with wbPend := tset none s.wbPend a (some v) }

/-- A held _LO goes with its _HI, by the way its class takes it. -/
def releaseLo (a : Nat) (put : Nat → Word → State → State) (s : State) : State :=
  match tget none s.bus.loHeld a with
  | some v => put a v (s.modBus fun b => { b with loHeld := tset none b.loHeld a none })
  | none => s

/-- Write a register that takes values at once, or stages them, honouring the 64-bit pairs. -/
def pairWrite (a : Nat) (v : Word) (put : Nat → Word → State → State) (s : State) : State :=
  if isLo a then s.modBus fun b => { b with loHeld := tset none b.loHeld a (some v) }
  else if isLo (a - 4) then put a v (releaseLo (a - 4) put s)
  else put a v s

/-! ### Writes that act -/

/-- A pending bit of the Warden's interrupt sources. -/
def wardenInt (n : Nat) (s : State) : State := s.wrb 0xE0000014 n true

/-- A write of SYS.WMBOX_CMD (R788). -/
def wmboxCommand (v : Word) (s : State) : State :=
  if s.ward.mbox.isSome then s.modWard fun w => { w with mboxOverrun := true }
  else wardenInt 0 ((s.wr 0x40000600 (v &&& 0xFF#32)).modWard fun w =>
    { w with mbox := some (fld v 0 8, s.rd 0x40000604, none), mboxOverrun := false })

/-- Does the bridge hold a split read into the flash window (R24)? -/
def flashReads (s : State) : Bool := s.bus.splits.any fun x => regionOf x.addr == .flash

/-- A write of SYS.FLASH_BANK (R24). -/
def flashBankWrite (v : Word) (s : State) : State :=
  if flashReads s then s.modBus fun b => { b with bankWait := some (v &&& 1#32) } else s.wr 0x40000080 (v &&& 1#32)

/-- A write of a block's CTRL (R29): SYS and AON ignore it. -/
def ctrlWrite (slot : Nat) (on : Bool) (s : State) : State :=
  match slot with
  | 0 | 1 => s
  | 2 => engEnableWrite on s
  | 3 => safeEnableWrite on s
  | 10 => dictEnableWrite on (s.wrb 0x400A0004 0 on)
  | 11 => dmaEnableWrite on s
  | 14 => evtEnable on s
  | k => s.wrb (slotBase k + 4) 0 on

/-- An RW register of SYS. -/
def sysWrite' (w : Who) (a : Nat) (v : Word) (s : State) : State :=
  let off := a % 0x10000
  if 0x420 ≤ off ∧ off < 0x460 ∧ off % 16 = 0 then wdogCfgWrite ((off - 0x420) / 16) v s
  else match off with
    | 0x0070 => s.wr a (s.rd a &&& v &&& 1#32)
    | 0x0080 => flashBankWrite v s
    | 0x0304 => summaryCheck (s.wr a (v &&& 1#32))
    | 0x0404 => modeReqWrite (w.m == .dict) (v.toNat % 8) s
    | 0x0600 => wmboxCommand v s
    | _ => s.wr a v

/-- The value of an RW register takes effect; `v` has reserved bits cleared. -/
def rwWrite (w : Who) (a : Nat) (v : Word) (s : State) : State :=
  let slot := a / 0x10000 % 16
  let off := a % 0x10000
  if off = 4 then ctrlWrite slot (v.getLsbD 0) s
  else match slot with
    | 0 => sysWrite' w a v s
    | 4 => if off = 0x28 then claimWrite v s else if off = 0x60 then s.wr a (tenCeilStored v) else s.wr a v
    | 9 =>
      if off = 0x100 then
        if v.getLsbD 9 then ptpCtrlWrite (s.draw.1.toNat % 7813) v s.draw.2 else ptpCtrlWrite 0 v s
      else if off = 0x24 ∨ off = 0x28 then portsCheck (s.wr a v)
      else pairWrite a v (fun a v s => s.wr a v) s
    | 10 =>
      if 0x400 ≤ off ∧ off < 0x800 ∧ off % 16 = 8 then
        let q := (off - 0x400) / 16
        if qprodOk s (w.m == .hostSpi) q then localRequests q v s else logPriv w true false 4 a s
      else if 0x400 ≤ off ∧ off < 0x800 ∧ off % 16 = 12 then queueConsume ((off - 0x400) / 16) v s
      else s.wr a v
    | 11 =>
      if 0x100 ≤ off ∧ off % 0x40 = 4 then chCtrlWrite ((off - 0x100) / 0x40) v s
      else if 0x100 ≤ off ∧ off % 0x40 = 0x34 then chTailWrite ((off - 0x100) / 0x40) v s
      else s.wr a v
    | 13 =>
      if 0x400 ≤ off ∧ off < 0x440 then keepBufWrite ((off - 0x400) / 4) v s
      else if off = 0x440 then keepCmdWrite v s
      else s.wr a v
    | 15 =>
      if off = 0x200 ∨ off = 0x240 then micDcWrite ((off - 0x200) / 0x40) v s
      else if off = 0x408 ∨ off = 0x448 then uartTxd ((off - 0x400) / 0x40) v s
      else if off = 0x708 ∨ off = 0x748 then i2cCmd ((off - 0x700) / 0x40) v s
      else if off = 0x1000 ∨ off = 0x1400 then canCtrlWrite ((off - 0x1000) / 0x400) v s
      else s.wr a v
    | _ => s.wr a v

/-- A write of a WB register lands in its shadow (R43); DMA's channels take theirs by the descriptor (R610). -/
def wbWrite (a : Nat) (v : Word) (s : State) : State :=
  let s1 := setPending a v s
  if a / 0x10000 % 16 = 11 then chStaged ((a % 0x10000 - 0x100) / 0x40) s1 else s1

/-- NET is reset with an access on its way in crossing 12: the access has acted already, or it is lost, and nothing tells
which; one that has acted is answered with what the register held (R900, assumption 2). -/
def netCut (s : State) : State :=
  match s.bus.net with
  | none => s
  | some x =>
    let d := s.draw
    let seen := match rowAt (wordOf (directOf x.addr)) with
      | some r => if aliasOf x.addr = 0 then (slotView (wordOf x.addr) r s).toNat / 2 ^ (8 * (x.addr % 4)) % 2 ^ (8 * x.width) else 0
      | none => 0
    if x.phase = .orphan then netNext s
    else if x.phase = .asked then d.2.modBus fun b => { b with
      net := some { x with phase := if d.1.getLsbD 0 then .acted (some (if x.write then 0 else seen)) else .lost } }
    else s

/-- A write-one pulse. -/
def w1Write (w : Who) (a : Nat) (v : Word) (s : State) : State :=
  let slot := a / 0x10000 % 16
  let off := a % 0x10000
  match slot with
  | 0 =>
    if 0x1420 ≤ off ∧ off < 0x1440 then
      let k := (off - 0x1420) / 4
      ((bitsOf 32 v.toNat).filter fun j => !isLevelSource (32 * k + j)).foldl (fun s j => unlatch (32 * k + j) s) s
    else if off = 0x1540 then (bitsOf 8 v.toNat).foldl (fun s d => pulse (8 + d) s) s
    else if off = 0x704 then (bitsOf 4 v.toNat).foldl (fun s c => coreReset c s) s
    else if off = 0x708 then ((bitsOf 16 v.toNat).filter (2 ≤ ·)).foldl (fun s k => blockReset k (if k = 9 ∧ released s 9 then netCut s else s)) s
    else if 0x420 ≤ off ∧ off < 0x460 then wdogKick ((off - 0x420) / 16) v s
    else s
  | 2 => if off = 0x40 then gswapCtrlWrite v s else s
  | 3 =>
    if off = 0x20 then commitReqWrite 0 (masterId w.m) (w.lvl != .unprivileged) v s
    else if off = 0x24 then commitReqWrite 32 (masterId w.m) (w.lvl != .unprivileged) v s
    else s
  | 10 =>
    if off = 0x3C then (bitsOf 8 v.toNat).foldl (fun s t => requestReset t false s) s
    else if off = 0x90 then hdone v s
    else if off = 0x814 then sessCloseWrite v s
    else s
  | 12 =>
    if off = 0x28 then lmAck v s
    else if off = 0x2C then lmLearn v s
    else if off = 0x400 then vtCtrl v s
    else s
  | 14 => if off = 0x220 ∧ v.getLsbD 0 then fwGo s else s
  | 15 => if off = 0x1014 ∨ off = 0x1414 then canTxreq ((off - 0x1000) / 0x400) v s else s
  | _ => s

/-- A write-back to an SQ register (R38 to R40). -/
def sqWrite (w : Who) (a : Nat) (v : Word) (s : State) : State :=
  let t : BitVec 16 := (v >>> 16).setWidth 16
  if (s.sq a).stale t then logAcc w 3 true 4 a s
  else s.setSq a ((s.sq a).ack t (fld v 0 16))

/-- x OR v, x AND NOT v, x XOR v: what a write makes of a register's value, by its path (R31). -/
def aliased (path : Nat) (x v : Word) : Word :=
  match path with
  | 0 => v
  | 1 => x ||| v
  | 2 => x &&& ~~~v
  | _ => x ^^^ v

/-- A full-width aligned write to a register of the slots, by its access code (R30 to R34, R48 to R53). -/
def classWrite (w : Who) (path a : Nat) (r : RegRow) (v : Word) (s : State) : State :=
  let slot := a / 0x10000 % 16
  let off := a % 0x10000
  let m := BitVec.ofNat 32 r.mask
  match r.cls with
  | .rw => rwWrite w a (aliased path (pendingOr a (slotView a r s) s) v &&& m) s
  | .wb => wbWrite a (aliased path (pendingOr a (s.rd a) s) v &&& m) s
  | .wd =>
    if govOn slot r ((off - r.off) / r.stride) s then writeRejected slot path off s
    else
      let s1 := s.wr a (aliased path (s.rd a) v &&& m)
      if a = Reg.netMode then portsCheck s1 else s1
  | .sc =>
    if s.bus.sc.isSome then writeRejected 1 0 off s
    else s.modBus fun b => { b with sc := some ⟨a, v &&& m⟩ }
  | .sq => sqWrite w a v s
  | .w1 => w1Write w a v s
  | .ro | .rc => s

/-! ### Register accesses (R27, R32, R43, R46, R58, R898, R899) -/

/-- `n` bytes of a word from a byte offset on (R898). -/
def subWord (v : Word) (a n : Nat) : Nat := v.toNat / 2 ^ (8 * (a % 4)) % 2 ^ (8 * n)

/-- What a full-width read leaves behind: RC registers clear, receive FIFOs advance (R35, R674, R678, R683). -/
def readEffect (a : Nat) (r : RegRow) (s : State) : State :=
  match a with
  | 0x400F040C => uartRxdPop 0 s
  | 0x400F044C => uartRxdPop 1 s
  | 0x400F070C => i2cRspPop 0 s
  | 0x400F074C => i2cRspPop 1 s
  | 0x400F12A4 => canRxPop 0 s
  | 0x400F16A4 => canRxPop 1 s
  | _ =>
    if r.cls = .rc then s.wr a (BitVec.ofNat 32 r.reset)
    else if a = 0x4000010C then s.draw.2
    else s

/-- Is an address NET's while the network clock is not qualified, so that every access meets a bus error (R96)? -/
def netDown (s : State) (a : Nat) : Bool := regionOf a == .slots && a / 0x10000 % 16 == 9 && !s.clk.netOk

/-- A read of one register, of at most a word: what it returns, or none for a bus error. An offset that no register
occupies is logged on the alias paths as in the slots (assumption 28). -/
def regRead (w : Who) (a n : Nat) (s : State) : Option Nat × State :=
  match filterOf w false a with
  | .refused => (none, logPriv w false true n a s)
  | .dropped sec => (some 0, logPriv w false sec n a s)
  | .pass =>
    if a % n ≠ 0 then (none, logAcc w 5 false n a s)
    else if heldAt s a || netDown s a then (none, s)
    else
      let path := if regionOf a = .slots then aliasOf a else 0
      let d := wordOf (if regionOf a = .slots then directOf a else a)
      match rowAt d with
      | none => (some 0, logAcc w 7 false n a s)
      | some r =>
        if n < 4 ∧ (r.cls = .rc ∨ r.cls = .sq) ∧ d % 0x10000 < 0x8000 then (some 0, logAcc w 1 false n a s)
        else if path ≠ 0 then (some 0, s)
        else if regionOf a = .wardenRegs then (some (subWord (wardenView d s) a n), s)
        else if 0x8000 ≤ d % 0x10000 then
          (some (subWord ((tget none s.wbPend (d - 0x8000)).getD (s.rd (d - 0x8000))) a n), s)
        else if n < 4 then (some (subWord (slotView d r s) a n), s)
        else (some (slotView d r s).toNat, readEffect d r s)

/-- A write of a Warden register (chapters 23 to 25). -/
def wardenWrite (a : Nat) (r : RegRow) (v : Word) (s : State) : State :=
  match a - 0xE0000000 with
  | 0 => releaseWrite v.toNat s
  | 4 => if v.getLsbD 0 then s.modWard fun w => { w with keylock := true } else s
  | 0x200 => s.modWard fun w => { w with freeze := w.freeze ||| v.setWidth 8 }
  | 0x240 => tallyExtend (fld v 0 3) ((List.range 8).flatMap fun i => leBytes 4 (s.rd (0xE0000220 + 4 * i)).toNat) s
  | 0x400 => s
  | 0x404 => if v.getLsbD 0 then resetDevice 6 true s else s
  | _ => if r.cls = .rw then s.wr a (v &&& BitVec.ofNat 32 r.mask) else s

/-- SYS.DEV_RESET (R851): a direct write of the key resets the part; another value is logged, and so is an alias. -/
def devResetWrite (w : Who) (path a : Nat) (v : Word) (s : State) : State :=
  if path ≠ 0 then logAcc w 4 true 4 a s
  else if v = 0xB007#32 then resetDevice 5 true s
  else logAcc w 7 true 4 a s

/-- A write of one register, of at most a word; false is a bus error. A write into the shadow window is logged as that
alone, whatever its width and path (R46, assumption 28). -/
def regWrite (w : Who) (a n v : Nat) (s : State) : Bool × State :=
  match filterOf w true a with
  | .refused => (false, logPriv w true true n a s)
  | .dropped sec => (true, logPriv w true sec n a s)
  | .pass =>
    if a % n ≠ 0 then (false, logAcc w 5 true n a s)
    else if heldAt s a || netDown s a then (false, s)
    else
      let path := if regionOf a = .slots then aliasOf a else 0
      let d := wordOf (if regionOf a = .slots then directOf a else a)
      if inSlots d && decide (0x8000 ≤ d % 0x10000) then (true, logAcc w 2 true n a s)
      else match rowAt d with
        | none => (true, logAcc w 7 true n a s)
        | some r =>
          let x := BitVec.ofNat 32 v
          if n < 4 then (true, logAcc w 0 true n a s)
          else if d = 0x40000700 then (true, devResetWrite w path a x s)
          else if path ≠ 0 ∧ r.cls ≠ .rw ∧ r.cls ≠ .wb ∧ r.cls ≠ .wd then (true, logAcc w 4 true n a s)
          else if regionOf a = .wardenRegs then (true, wardenWrite d r x s)
          else (true, classWrite w path d r x s)

/-! ### The engine table aperture (R896; chapters 5, 6, 10 to 12, 15, 19, 21) -/

/-- The live word under a word of the shadow half. -/
def liveOf (a : Nat) : Nat := if a < 0x3C800000 then a else a - shadowOff

/-- The table that a word of the aperture belongs to: in the shadow half only tables with bindable words stand (R191). -/
def apTableAt (a : Nat) : Option ApTable :=
  if a < 0x3C800000 then apTable a else (apTable (a - shadowOff)).filter tableShadowed

/-- What a word of the aperture reads as. -/
def apRead (a : Nat) (t : ApTable) (s : State) : Word :=
  if a < 0x3C800000 then apView a t s
  else match tableSet t with
    | some c => stagedWord s c (a - shadowOff)
    | none => 0#32

/-- A word of the matrix's own tables waits for the hinge (R332, chapter 10). -/
def apBuffered : ApTable → Bool
  | .inSel _ | .outZone _ | .destSel _ => true
  | .zone _ off => decide (off < 8)
  | _ => false

/-- The value that a narrow write merges into. -/
def apBase (a : Nat) (t : ApTable) (s : State) : Word :=
  if a < 0x3C800000 then (tget none s.wbPend a).getD (s.rd a) else apRead a t s

/-- A shadow write (R192); a node's passes the node limit first (R337). -/
def shadowWrite (t : ApTable) (c : CSet) (a : Nat) (v : Word) (s : State) : State :=
  let x := v &&& BitVec.ofNat 32 (apMask t)
  match c with
  | .node o i => if nodeFull s o i (fld x 0 16) then nodeRefused (a + shadowOff) o s else stageWord c a x s
  | _ => stageWord c a x s

/-- A write to a word of a stream's entry, which is WD under the stream's live enable (R489); the refusal is NET's, with
the word's place in the aperture as its offset (assumption 28). -/
def streamEntryWrite (live a : Nat) (k : Nat) (v : Word) (s : State) : State :=
  if s.bit (live + 4 * (k / 32)) (k % 32) then writeRejected 9 0 (a % 0x10000) s else s.wr a v

/-- A direct write to a word of a table; `src` is the address of the write itself (R194). -/
def tableWrite (w : Who) (t : ApTable) (a : Nat) (v : Word) (src : Nat) (s : State) : State :=
  let x := v &&& BitVec.ofNat 32 (apMask t)
  let paired := fun (c : CSet) => if pairedLocked s c then pairedIgnored src (masterId w.m) s else s.wr a x
  match t with
  | .window n _ => if coreEnable s n then engEvent 1 n s else s.wr a x
  | .line n e off =>
    if off = 0 then (if coreEnable s n then engEvent 1 n s else s.wr a x)
    else if off = 0xC then (if coreEnable s n then engEvent 1 n s else s)
    else paired (.line n e)
  | .bind g _ _ => if (s.grp g).pending then safeEvent 5 g s else s.wr a x
  | .stagedLine _ _ | .stagedCore _ _ => (stageWritten s).wr a x
  | .node o i => if nodeFull s o i (fld x 0 16) then nodeRefused a o s else setPending a x s
  | .nodeCur _ _ => s
  | .inSel _ | .outZone _ | .destSel _ => setPending a x s
  | .zone _ off => if off < 8 then setPending a x s else s
  | .tone g _ => paired (.tone g)
  | .eqSec sec off => if off < 0x14 then paired (.eq sec) else s
  | .limiter o off => if off < 0xC then paired (.qnch o) else s
  | .plan _ => if w.lvl = .secure then s.wr a x else s
  | .rxStream r off => if off < 0x1C then streamEntryWrite 0x40090200 a r x s else s
  | .txStream k off => if off < 0x1C then streamEntryWrite 0x40090208 a k x s else s
  | .passSlot _ off =>
    if 8 ≤ off then s
    else if passRuns s then writeRejected 12 0 (a % 0x10000) s
    else s.wr a x

/-- A read within one word of the aperture. -/
def apertureRead (w : Who) (a n : Nat) (s : State) : Nat × State :=
  match apTableAt (wordOf a) with
  | some t => (subWord (apRead (wordOf a) t s) a n, s)
  | none => (0, logAcc w 7 false n a s)

/-- The word with `n` of its bytes replaced. -/
def mergeWord (base : Word) (a n v : Nat) : Word :=
  if 4 ≤ n then BitVec.ofNat 32 v else setFld base (8 * (a % 4)) (8 * n) v

/-- A write within one word of the aperture; `src` is the address of the access it is a part of. -/
def apertureWrite (w : Who) (a n v src : Nat) (s : State) : State :=
  let d := wordOf a
  match apTableAt d with
  | none => logAcc w 7 true n a s
  | some t =>
    let x := mergeWord (apBase d t s) a n v
    if d < 0x3C800000 then tableWrite w t d x src s
    else match tableSet t with
      | some c => shadowWrite t c (d - shadowOff) x s
      | none => s

/-! ### The sample-core windows (chapters 2, 5, 6, 11) -/

/-- A write of a sample-core window below its reserved range: the live program bank of an enabled core is kept, a live
coefficient bank is a live paired field, an inactive one is a shadow (R160, R194, R204, R368). -/
def windowWrite (w : Who) (a n v : Nat) (s : State) : State :=
  let k := (a - 0x38000000) / 0x20000
  let off := (a - 0x38000000) % 0x20000
  let c := s.sc k
  if off < 0xC000 then
    if decide (0x6000 ≤ off) = c.pbank ∧ coreEnable s k = true then engEvent 1 k s
    else (if inStagedBank s k off then stageWritten s else s).mwr a n v
  else if off < 0x14000 then s.mwr a n v
  else if decide (0x16000 ≤ off) = c.cbank then
    if coreEnable s k then pairedIgnored a (masterId w.m) s
    else if s.isDirty (.coef k) then s.mwr a n v
    else (s.mwr a n v).mwr (if 0x16000 ≤ off then a - 0x2000 else a + 0x2000) n v
  else if c.copying then s.setSc k { c with held := c.held ++ [(a, n, v)] }
  else (s.setDirty (.coef k)).mwr a n v

/-! ### Reads and writes of any region -/

/-- Where a read of a sample-core window lands: an inactive coefficient bank whose set is clean reads as the live bank,
while it is refreshed too (R191, R193). -/
def windowAt (a : Nat) (s : State) : Nat :=
  let k := (a - 0x38000000) / 0x20000
  let off := (a - 0x38000000) % 0x20000
  let c := s.sc k
  if 0x14000 ≤ off ∧ c.copying = true ∧ decide (0x16000 ≤ off) ≠ c.cbank ∧ s.isDirty (.coef k) = false then
    if 0x16000 ≤ off then a - 0x2000 else a + 0x2000
  else a

/-- A bus read of a sample core's memory; a corrected error is the core's to count (R164). -/
def windowRead (a n : Nat) (s : State) : Nat × State :=
  let b := windowAt a s
  let h := (eccHit s b n).1
  (s.mrd b n,
    if h = 0 then s else s.modSc ((a - 0x38000000) / 0x20000) fun c => { c with eccNew := c.eccNew + h })

/-- The bank of the flash that its window shows. -/
def flashOff (s : State) (a : Nat) : Nat := s.rdf 0x40000080 0 1 * 0x10000000 + (a - 0x60000000)

/-- A read of a region other than the registers, aligned and past the filter. -/
def memoryRead (w : Who) (a n : Nat) (s : State) : Option Nat × State :=
  match regionOf a with
  | .rom => (some (leNat ((List.range n).map fun k => Config.rom (a + k))), s)
  | .scWindow =>
    if 0x18000 ≤ (a - 0x38000000) % 0x20000 then (some 0, logAcc w 7 false n a s)
    else
      let x := windowRead a n s
      (some x.1, x.2)
  | .aperture =>
    if n = 8 then
      let lo := apertureRead w a 4 s
      let hi := apertureRead w (a + 4) 4 lo.2
      (some (lo.1 + 4294967296 * hi.1), hi.2)
    else
      let x := apertureRead w a n s
      (some x.1, x.2)
  | .flash => (some (leNat (memBytes s.flash (flashOff s a) n)), s)
  | .unmapped => (none, logAcc w 6 false n a s)
  | .keep => (some (s.mrd a n), keepNoted a n s)
  | _ => (some (s.mrd a n), s)

/-- A write of a region other than the registers, aligned and past the filter. The Warden's own write to its ROM changes
nothing and is logged nowhere (assumption 28). -/
def memoryWrite (w : Who) (a n v : Nat) (s : State) : Bool × State :=
  match regionOf a with
  | .rom => (true, s)
  | .scWindow =>
    if 0x18000 ≤ (a - 0x38000000) % 0x20000 then (true, logAcc w 7 true n a s) else (true, windowWrite w a n v s)
  | .aperture =>
    if n = 8 then
      (true, apertureWrite w (a + 4) 4 (v / 4294967296) a (apertureWrite w a 4 (v % 4294967296) a s))
    else (true, apertureWrite w a n v a s)
  | .unmapped => (false, logAcc w 6 true n a s)
  | _ => (true, s.mwr a n v)

/-- Does a region hold registers? -/
def Region.regs (r : Region) : Bool := r == .slots || r == .wardenRegs

/-- A bus read of `n` bytes (1, 2, 4 or 8): what it returns, none for a bus error, and what it leaves (R20 to R25, R58 to
R63). The two word accesses of a 64-bit beat to registers are filtered and logged each for itself, and an unaligned access to the Warden's ROM or SRAM ends as R60 says
of the other memories (assumption 28). -/
def busReadAct (w : Who) (a n : Nat) (s : State) : Option Nat × State :=
  if (regionOf a).regs then
    if n = 8 ∧ a % 8 = 0 then
      let lo := regRead w a 4 s
      match lo.1 with
      | none => lo
      | some x =>
        let hi := regRead w (a + 4) 4 lo.2
        (hi.1.map fun y => x + 4294967296 * y, hi.2)
    else regRead w a n s
  else match filterOf w false a with
    | .refused => (none, logPriv w false true n a s)
    | .dropped sec => (some 0, logPriv w false sec n a s)
    | .pass =>
      if regionOf a ≠ .unmapped ∧ a % n ≠ 0 then (none, logAcc w 5 false n a s)
      else if heldAt s a then (none, s)
      else memoryRead w a n s

/-- Does a read of a memory that the filter lets pass meet an uncorrectable ECC error (R164, R692)? -/
def eccBad (w : Who) (a n : Nat) (s : State) : Bool :=
  !(regionOf a).regs && (eccHit s (if regionOf a = .scWindow then windowAt a s else a) n).2
    && filterOf w false a == .pass && decide (a % n = 0) && !heldAt s a

/-- A bus read; one made through the Anvil port or JTAG changes nothing (R35). -/
def busRead (w : Who) (a n : Nat) (s : State) : Option Nat × State :=
  let r := busReadAct w a n s
  if w.debug then (r.1, s) else r

/-- A bus write of the low `n` bytes of a value; false is a bus error. -/
def busWrite (w : Who) (a n v : Nat) (s : State) : Bool × State :=
  if (regionOf a).regs then
    if n = 8 ∧ a % 8 = 0 then
      let lo := regWrite w a 4 (v % 4294967296) s
      if lo.1 then regWrite w (a + 4) 4 (v / 4294967296 % 4294967296) lo.2 else lo
    else regWrite w a n v s
  else match filterOf w true a with
    | .refused => (false, logPriv w true true n a s)
    | .dropped sec => (true, logPriv w true sec n a s)
    | .pass =>
      if regionOf a = .keep ∨ regionOf a = .flash then (false, logAcc w 8 true n a s)
      else if regionOf a ≠ .unmapped ∧ a % n ≠ 0 then (false, logAcc w 5 true n a s)
      else if heldAt s a then (false, s)
      else memoryWrite w a n v s

/-! ### The bridge (R64 to R70) -/

/-- Does an access by a master cross the bridge? A DMA channel's home segment is by its configuration. -/
def crosses (s : State) (m : Master) (a : Nat) : Bool :=
  match m with
  | .dma n => (regionOf a).audio != chAudio s n.val
  | _ => (regionOf a).audio

/-- A posted write reaches its target; a bus error is logged and goes no further (R67). -/
def deliverPosted (p : Posted) (s : State) : State :=
  let r := busWrite ⟨p.master, p.lvl⟩ p.addr p.width p.data s
  if r.1 then r.2 else logAccess Reg.bridgeStat 0 (masterId p.master) p.width p.addr true r.2

/-- The posted writes of one direction. -/
def postedOf (s : State) (toAudio : Bool) : List Posted := if toAudio then s.bus.toAudio else s.bus.toCtl
def setPosted (toAudio : Bool) (l : List Posted) (s : State) : State :=
  s.modBus fun b => if toAudio then { b with toAudio := l } else { b with toCtl := l }

/-- Every posted write of a master in one direction is delivered, in order (R66). -/
def deliverOf (m : Master) (toAudio : Bool) (s : State) : State :=
  let mine := (postedOf s toAudio).filter fun p => p.master == m
  mine.foldl (fun s p => deliverPosted p s) (setPosted toAudio ((postedOf s toAudio).filter fun p => p.master != m) s)

/-- The oldest posted write of one direction is delivered (R66). -/
def deliverNext (toAudio : Bool) (s : State) : State :=
  match postedOf s toAudio with
  | [] => s
  | p :: t => deliverPosted p (setPosted toAudio t s)

/-- A write enters the bridge's buffer of its direction; while that is full the writer waits, and the oldest entry is
delivered first (R65). -/
def postWrite (p : Posted) (s : State) : State :=
  let dir := (regionOf p.addr).audio
  let s1 := if 32 ≤ (postedOf s dir).length then deliverNext dir s else s
  setPosted dir (postedOf s1 dir ++ [p]) s1

/-! ### Crossing 12 (R28, R76, R77, R86, R96, R97, R900) -/

/-- Does an access go by the crossing into the network clock? One that is filtered, unaligned or refused at once does
not. -/
def viaNet (w : Who) (write : Bool) (a n : Nat) (s : State) : Bool :=
  regionOf a == .slots && a / 0x10000 % 16 == 9 && s.clk.netOk && filterOf w write a == .pass && !heldAt s a
    && decide (a % n = 0)

/-- An access in the crossing acts: its answer, none a bus error. -/
def netAct (x : NetAcc) (s : State) : Option Nat × State :=
  if x.write then
    let r := busWrite ⟨x.master, x.lvl⟩ x.addr x.width x.data s
    (if r.1 then some 0 else none, r.2)
  else busRead ⟨x.master, x.lvl⟩ x.addr x.width s

/-- The access in crossing 12 is acknowledged: it is performed and its answer returns (R76, R77). One that has acted is
answered with what it found then; a lost one is never acknowledged (R900). -/
def netAcknowledge (s : State) : State :=
  match s.bus.net with
  | none => s
  | some x =>
    match x.phase with
    | .asked =>
      let r := netAct x (netNext s)
      giveRet x.master ⟨x.addr, x.write, r.1, false⟩ r.2
    | .acted v => giveRet x.master ⟨x.addr, x.write, v, false⟩ (netNext s)
    | .orphan => (netAct x (netNext s)).2
    | .lost => s

/-- An access into NET that is not acknowledged ends with a bus error; whether its action took place is open (R97). -/
def netLateEnd (x : NetAcc) (s : State) : State :=
  let d := (sqSet Reg.clkMon [4] s).draw
  if x.phase = .asked ∧ d.1.getLsbD 0 = true then (netAct x d.2).2 else d.2

/-- NET_TIMEOUT: the access in the crossing; with none there, the next access that a command makes whole (assumption
27). -/
def netTimeout (s : State) : State :=
  match s.bus.net with
  | none => s.modBus fun b => { b with netLate := true }
  | some x => giveRet x.master ⟨x.addr, x.write, none, false⟩ (netLateEnd x (netNext s))

/-- The accesses that a new one has to wait for complete: each is acknowledged, or ends late if it was lost (R77). -/
def netDrain : Nat → State → State
  | 0, s => s
  | k + 1, s =>
    match s.bus.net with
    | none => s
    | some x => netDrain k (if x.phase = .lost then netTimeout s else netAcknowledge s)

/-- The whole round trip of an access within a command: it waits its turn, crosses, acts and is answered, or is not
acknowledged in time (R28, R77, R97; assumption 27). -/
def netWhole (x : NetAcc) (s : State) : Option Nat × State :=
  let s1 := netDrain (s.bus.netWait.length + 1) s
  if s1.bus.netLate then (none, netLateEnd x (s1.modBus fun b => { b with netLate := false }))
  else netAct x s1

/-- A write by a master, performed now: its earlier posted writes in that direction go first (R66). -/
def writeNow (m : Master) (a n v : Nat) (s : State) : Bool × State :=
  let s1 := deliverOf m (regionOf a).audio s
  let w := whoOf s1 m
  if viaNet w true a n s1 then
    let r := netWhole ⟨m, w.lvl, a, n, true, v, .asked⟩ s1
    (r.1.isSome, r.2)
  else busWrite w a n v s1

/-- A read by a master, performed now: the data as read. -/
def readData (m : Master) (a n : Nat) (s : State) : Option Nat × State :=
  let s1 := deliverOf m (regionOf a).audio s
  let w := whoOf s1 m
  if viaNet w false a n s1 then netWhole ⟨m, w.lvl, a, n, false, 0, .asked⟩ s1 else busRead w a n s1

/-- A read by a master that is no core, performed now: an uncorrectable ECC error ends it with a bus error (R588, R692;
for other masters than a DMA channel assumption 29). -/
def readNow (m : Master) (a n : Nat) (s : State) : Option Nat × State :=
  let r := readData m a n s
  (if eccBad (whoOf s m) a n s then none else r.1, r.2)

/-- A write by a master, with its bus error if it has one: one that crosses the bridge is posted, and a bus error that it
meets there is logged by the bridge alone (R65 to R67). -/
def masterWrite (m : Master) (a n v : Nat) (s : State) : Bool × State :=
  if crosses s m a then (true, postWrite ⟨m, lvlOf s m, a, n, v⟩ s) else writeNow m a n v s

/-- A write whose command is its arrival: what it has to cross, it has crossed as the command ends. -/
def arriveWrite (m : Master) (a n v : Nat) (s : State) : Bool × State :=
  let r := masterWrite m a n v s
  if crosses s m a then (r.1, deliverOf m (regionOf a).audio r.2) else r

/-- A waiting write of SYS.FLASH_BANK takes effect once no earlier read of the window is left (R24). -/
def bankSettle (s : State) : State :=
  match s.bus.bankWait with
  | some v => if flashReads s then s else (s.modBus fun b => { b with bankWait := none }).wr 0x40000080 v
  | none => s

end Sys2Proof.Machine
end

