-- ==== Sys2Proof/Machine/Operands.lean ====
section
/-! DEFINITION. How an Atward core reaches memory and lanes, and every operand form of chapter 8: reads and writes of a
sample core (chapter 5) and of a control-class core, whose reads across the bridge and into NET wait for an answer. -/

namespace Sys2Proof.Machine
open Sys2Proof

/-- An exception of a control-class core as it is met: vector, XCAUSE.OPERAND, XADDR where there is a faulting access,
and XCAUSE.INFO (R239, R240). -/
structure Flt where
  vec : Nat
  opn : Nat
  xaddr : Option Word
  info : Nat
  deriving DecidableEq, Repr

/-- An instruction under way: the part's state, the answers that its earlier waits brought, the accesses made so far that
a wait must not make again, and the ECC exception that waits behind every other (R240). -/
structure RunSt where
  s : State
  todo : List BusRet
  made : List BusRet
  ecc : Option Flt

/-- How a piece of an instruction ends: with a value, in an exception, or waiting for a bus. -/
inductive Res (α : Type) where
  | ok (a : α) (x : RunSt)
  | flt (f : Flt) (x : RunSt)
  | stall (x : RunSt)

/-- A piece of an instruction. -/
abbrev Run (α : Type) := RunSt → Res α

def ret {α : Type} (a : α) : Run α := fun x => .ok a x
def fail {α : Type} (f : Flt) : Run α := fun x => .flt f x
def andThen {α β : Type} (p : Run α) (f : α → Run β) : Run β := fun x =>
  match p x with
  | .ok a x1 => f a x1
  | .flt g x1 => .flt g x1
  | .stall x1 => .stall x1

/-- Change the state. -/
def upd (f : State → State) : Run Unit := fun x => .ok () { x with s := f x.s }
/-- An instruction's data met an uncorrectable ECC error: the first one is the exception to raise (R239, R240). -/
def RunSt.note (bad : Bool) (ix a : Nat) (x : RunSt) : RunSt :=
  if bad && x.ecc.isNone then { x with ecc := some ⟨7, ix, some (BitVec.ofNat 32 a), 0⟩ } else x
/-- Every other condition is past: an ECC error that was met is raised (R240). -/
def eccCheck : Run Unit := fun x =>
  match x.ecc with
  | some f => .flt f x
  | none => .ok () x
/-- Look at the state. -/
def look {α : Type} (f : State → α) : Run α := fun x => .ok (f x.s) x

/-! ### Cores -/

/-- The class number of a core (system register CORE_ID, chapter 7). -/
def coreClass : CoreId → Nat
  | .sc _ => 0
  | .cc _ => 1
  | .warden => 2

def isSample (c : CoreId) : Bool := coreClass c == 0

/-- The place of a control-class core among the control cores. -/
def ctlIndex : CoreId → Nat
  | .sc _ => 0
  | .cc n => n.val
  | .warden => 4

/-- The bus master that a control-class core is. -/
def coreMaster : CoreId → Master
  | .cc n => .cc n
  | _ => .warden

/-- A core's registers. -/
def regsOf (c : CoreId) (s : State) : CoreRegs :=
  match c with
  | .sc n => (s.sc n.val).r
  | _ => (s.ctlCore (ctlIndex c)).r

def setRegs (c : CoreId) (r : CoreRegs) (s : State) : State :=
  match c with
  | .sc n => s.modSc n.val fun x => { x with r := r }
  | _ => s.setCtl (ctlIndex c) { s.ctlCore (ctlIndex c) with r := r }

def updRegs (c : CoreId) (f : CoreRegs → CoreRegs) : Run Unit := upd fun s => setRegs c (f (regsOf c s)) s
def getRegs (c : CoreId) : Run CoreRegs := look (regsOf c)

/-- Does the core run in the privileged or the secure state (R232)? -/
def isPrivileged (c : CoreId) (r : CoreRegs) : Bool := coreClass c == 2 || r.psw.getLsbD 30

/-- The active stack pointer (R235); a sample core and the Warden have one, held as `spU`. -/
def onSpP (c : CoreId) (r : CoreRegs) : Bool := coreClass c == 1 && r.psw.getLsbD 30
def curSP (c : CoreId) (r : CoreRegs) : Word := if onSpP c r then r.spP else r.spU
def setCurSP (c : CoreId) (r : CoreRegs) (v : Word) : CoreRegs :=
  if onSpP c r then { r with spP := v } else { r with spU := v }

/-! ### Memory as a sample core reaches it (R160 to R164, R177, R178, R271, R278) -/

/-- Where an access of a sample core lands: at a bus address, or nowhere, recording a ledger cause. -/
inductive ScAt where
  | at (a : Nat)
  | nowhere (cause : Nat)
  deriving DecidableEq, Repr

/-- An access in the slot that the core has reached. -/
def scAt (n : Nat) (write : Bool) (a size : Nat) (s : State) : ScAt :=
  let c := s.sc n
  let off := a - scBase n
  if a % size ≠ 0 then .nowhere 6
  else if scBase n ≤ a ∧ off < 0x20000 then
    if 0xC000 ≤ off ∧ off < 0x14000 then .at a
    else if 0x14000 ≤ off ∧ off < 0x18000 ∧ write = false then .at (coefBase n c.cbank + (off - 0x14000) % 0x2000)
    else .nowhere 6
  else if regionOf a = .crucible then
    let cyc := c.slot / 2
    if (coreWindows s n).any (fun w => decide (w.1 ≤ cyc ∧ cyc < w.1 + w.2)) && c.crucAt != some cyc then .at a
    else .nowhere 5
  else .nowhere 6

/-- A Crucible access takes the fabric cycle it is made in (R177). -/
def scTouched (n a : Nat) (s : State) : State :=
  if regionOf a = .crucible then s.modSc n fun c => { c with crucAt := some (c.slot / 2) } else s

/-- What an access of a sample core met of ECC errors: corrected ones are counted at housekeeping, an uncorrectable one
records ECC (R164). -/
def scMet (n : Nat) (h : Nat × Bool) (s : State) : State :=
  let s1 := if h.1 = 0 then s else s.modSc n fun c => { c with eccNew := c.eccNew + h.1 }
  if h.2 then recordCause n 4 s1 else s1

def scRead (n a size : Nat) (s : State) : Nat × State :=
  match scAt n false a size s with
  | .at b => (s.mrd b size, scMet n (eccHit s b size) (scTouched n b s))
  | .nowhere k => (0, recordCause n k s)

def scWrite (n a size v : Nat) (s : State) : State :=
  match scAt n true a size s with
  | .at b => scTouched n b (s.mwr b size v)
  | .nowhere k => recordCause n k s

/-! ### Memory as a control-class core reaches it -/

/-- The regions that a control core's caches hold (R236). -/
def cacheable (c : CoreId) (a : Nat) : Bool :=
  coreClass c == 1 && (regionOf a == .hearth || regionOf a == .keep || regionOf a == .flash)

/-- The bytes of a memory region, by bus address. -/
def regionBytes (s : State) (a n : Nat) : List Byte :=
  if regionOf a = .flash then memBytes s.flash (flashOff s a) n else memBytes s.mem a n

/-- A read through the data cache, and whether it met an uncorrectable ECC error: a miss fills the line. Whether a line
that was filled is still held when its memory has changed since is open, for no rule says which lines are evicted
(assumption 18). -/
def cacheRead (k a n : Nat) (s : State) : (Nat × Bool) × State :=
  let x := s.ctlCore k
  let line := a / 32
  let old := tget [] x.dcache line
  let now := regionBytes s (32 * line) 32
  let bad := (eccHit s a n).2
  let fill := fun (s : State) =>
    ((leNat ((now.drop (a % 32)).take n), bad),
      (if regionOf a = .keep then keepNoted (32 * line) 32 s else s).setCtl k
        { s.ctlCore k with dcache := tset [] (s.ctlCore k).dcache line now })
  if old = [] then fill s
  else if old = now ∧ bad = false then ((leNat ((old.drop (a % 32)).take n), false), s)
  else
    let d := s.draw
    if d.1.getLsbD 0 then ((leNat ((old.drop (a % 32)).take n), false), d.2) else fill d.2

/-- A write passes through the data cache: a line it holds takes the bytes (R236). -/
def cacheWrite (k a n v : Nat) (s : State) : State :=
  let x := s.ctlCore k
  let line := a / 32
  let old := tget [] x.dcache line
  if old = [] then s
  else
    let new := old.take (a % 32) ++ leBytes n v ++ old.drop (a % 32 + n)
    s.setCtl k { x with dcache := tset [] x.dcache line new }

/-- Does an address lie where the core's class has no path? The Warden does not reach the audio fabric (R214); what an access
of it there meets is open: a bus error (assumption 18). -/
def unreached (c : CoreId) (a : Nat) : Bool := coreClass c == 2 && (regionOf a).audio

/-- Does an access of a core wait for a crossing: into the audio fabric, or into NET (R28, R68)? An access that is
filtered or refused at once does not. -/
def waits (c : CoreId) (write : Bool) (a n : Nat) (s : State) : Bool × Bool :=
  let w := whoOf s (coreMaster c)
  let pass := filterOf w write a == .pass && !heldAt s a && decide (a % n = 0)
  (pass && (regionOf a).audio, viaNet w write a n s)

/-- Has a core an access outstanding? -/
def outstanding (c : CoreId) (s : State) : Bool :=
  let mine := fun (m : Master) => m == coreMaster c
  (s.bus.splits.any fun x => mine x.master) || ((s.bus.net.map fun x => mine x.master) == some true)
    || s.bus.netWait.any fun x => mine x.master

/-- A core's access enters the request/acknowledge crossing into NET, or waits its turn (R28, R77). -/
def netIssue (x : NetAcc) (s : State) : State :=
  match s.bus.net with
  | none => s.modBus fun b => { b with net := some x }
  | some _ => s.modBus fun b => { b with netWait := b.netWait ++ [x] }

/-- A split read takes one of the 16 tracking entries; a seventeenth waits at the bridge (R68). -/
def splitIssue (x : Split) (s : State) : State :=
  if s.bus.splits.length < 16 then s.modBus fun b => { b with splits := b.splits ++ [x] } else s

/-- The answer to an access that was made before this instruction had to wait, if there is one for it. -/
def replayed? (a : Nat) (write : Bool) (x : RunSt) : Option (BusRet × RunSt) :=
  match x.todo with
  | r :: t => if r.addr = a ∧ r.write = write then some (r, { x with todo := t, made := x.made ++ [r] }) else none
  | [] => none

/-- The instruction waits. -/
def stallWith {α : Type} (c : CoreId) (f : State → State) : Run α := fun x =>
  .stall (if outstanding c x.s then { x with todo := [] } else { x with s := f x.s, todo := [] })

/-- A data read of a control-class core; operand `ix` is named in a fault (R240, R286). -/
def ctlRead (c : CoreId) (a n ix : Nat) : Run Nat := fun x =>
  match replayed? a false x with
  | some (r, x1) =>
    match r.res with
    | some v => .ok v (x1.note r.bad ix a)
    | none => .flt ⟨3, ix, some (BitVec.ofNat 32 a), 0⟩ x1
  | none =>
    let w := whoOf x.s (coreMaster c)
    let wt := waits c false a n x.s
    if unreached c a then .flt ⟨3, ix, some (BitVec.ofNat 32 a), 0⟩ { x with todo := [] }
    else if wt.1 then stallWith c (splitIssue ⟨w.m, w.lvl, a, n⟩) x
    else if wt.2 then stallWith c (netIssue ⟨w.m, w.lvl, a, n, false, 0, .asked⟩) x
    else
      let r := if cacheable c a && filterOf w false a == .pass && !heldAt x.s a && decide (a % n = 0) then
          let q := cacheRead (ctlIndex c) a n x.s
          ((some q.1.1, q.1.2), q.2)
        else
          let q := readData w.m a n x.s
          ((q.1, eccBad w a n x.s), q.2)
      match r.1.1 with
      | some v =>
        .ok v (RunSt.note r.1.2 ix a { x with s := r.2, todo := [], made := x.made ++ [⟨a, false, some v, r.1.2⟩] })
      | none => .flt ⟨3, ix, some (BitVec.ofNat 32 a), 0⟩ { x with s := r.2, todo := [] }

/-- A write that would meet a bus error raises it before anything is written (R241); one across the bridge meets none
(R67), unless it is misaligned (R286). -/
def ctlProbe (c : CoreId) (a n ix : Nat) : Run Unit := fun x =>
  let w := whoOf x.s (coreMaster c)
  if unreached c a then .flt ⟨3, ix, some (BitVec.ofNat 32 a), 0⟩ x
  else if ((regionOf a).audio && decide (a % n = 0)) || (waits c true a n x.s).2 then .ok () x
  else
    let r := busWrite w a n 0 x.s
    if r.1 then .ok () x else .flt ⟨3, ix, some (BitVec.ofNat 32 a), 0⟩ { x with s := r.2 }

/-! ### What a core reads and writes, whatever its class -/

/-- One write that an instruction makes when it completes. -/
structure CoreWrite where
  addr : Word
  size : Nat
  val : Nat
  ix : Nat
  deriving DecidableEq, Repr

/-- A data read. -/
def coreRead (c : CoreId) (a : Word) (n ix : Nat) : Run Nat :=
  match c with
  | .sc k => fun x =>
    let r := scRead k.val a.toNat n x.s
    .ok r.1 { x with s := r.2 }
  | _ => ctlRead c a.toNat n ix

/-- The check of a write before any is made. -/
def coreProbe (c : CoreId) (a : Word) (n ix : Nat) : Run Unit :=
  match c with
  | .sc _ => ret ()
  | _ => ctlProbe c a.toNat n ix

/-- The writes into NET wait for their acknowledgement first; a bus error of one ends the instruction with nothing
written (R97, R241). -/
def netWrites (c : CoreId) : List CoreWrite → Run Unit
  | [] => ret ()
  | w :: ws => fun x =>
    if (waits c true w.addr.toNat w.size x.s).2 then
      match replayed? w.addr.toNat true x with
      | some (r, x1) =>
        match r.res with
        | some _ => netWrites c ws x1
        | none => .flt ⟨3, w.ix, some w.addr, 0⟩ x1
      | none =>
        let who := whoOf x.s (coreMaster c)
        stallWith c (netIssue ⟨who.m, who.lvl, w.addr.toNat, w.size, true, w.val, .asked⟩) x
    else netWrites c ws x

/-- The writes across the bridge need room in its buffer (R65). -/
def roomFor (c : CoreId) (ws : List CoreWrite) : Run Unit := fun x =>
  let n := (ws.filter fun w => (regionOf w.addr.toNat).audio).length
  if x.s.bus.toAudio.length + n ≤ 32 then .ok () x else stallWith c (fun s => s) x

/-- One write of a control-class core that needs no more waiting. -/
def ctlWrite (c : CoreId) (w : CoreWrite) (s : State) : State :=
  let a := w.addr.toNat
  let who := whoOf s (coreMaster c)
  if (regionOf a).audio then
    setPosted true (s.bus.toAudio ++ [⟨who.m, who.lvl, a, w.size, w.val⟩]) s
  else if (waits c true a w.size s).2 then s
  else
    let s1 := (busWrite who a w.size w.val s).2
    if cacheable c a && filterOf who true a == .pass then cacheWrite (ctlIndex c) a w.size w.val s1 else s1

/-- The writes of an instruction that completes, in order. -/
def writeAll (c : CoreId) (ws : List CoreWrite) : Run Unit :=
  match c with
  | .sc k => upd fun s => ws.foldl (fun s w => scWrite k.val w.addr.toNat w.size w.val s) s
  | _ => andThen eccCheck fun _ => andThen (netWrites c ws) fun _ => andThen (roomFor c ws) fun _ =>
      upd fun s => ws.foldl (fun s w => ctlWrite c w s) s

/-! ### Operands (R225, R226, R269 to R278) -/

def szBytes : Sz → Nat
  | .w => 4
  | .h => 2
  | .b => 1

/-- An operand as evaluated: its address if it has one, the value read, and the pointer updates it asks for. -/
structure Opd where
  addr : Option Word
  val : Nat
  ups : List CoreWrite
  ix : Nat
  deriving DecidableEq, Repr

def Opd.empty : Opd := ⟨none, 0, [], 0⟩
def Opd.lit (ix v : Nat) : Opd := ⟨none, v, [], ix⟩

/-- A pointer cell (R225). -/
def cellAddr (r : CoreRegs) (n : Nat) : Word := r.page + BitVec.ofNat 32 (4 * n)

/-- The word of a delay line that a mode-6 operand names, or none where its entry is not valid (R274 to R276): `tap` is none
for a write. -/
def tapAddr (n line : Nat) (tap : Option Nat) (r : CoreRegs) (s : State) : Option Word :=
  let e := r.lpage.toNat * 32 + line
  let rd := fun off => s.rd (Reg.lineWord n e off)
  let len := (rd 8).toNat
  if (rd 0).getLsbD 31 then
    let wp := (rd 0xC).toNat
    let pos := match tap with
      | none => wp
      | some t => if len = 0 then 0 else (((wp : Int) - ((rd (0x40 + 4 * t)).toNat : Int)) % (len : Int)).toNat
    let base := if (rd 0).getLsbD 30 then 0x30000000 else scBase n + 0xC000
    some (BitVec.ofNat 32 (base + (rd 4).toNat + 4 * pos))
  else none

/-- The effective address of an operand and the pointer updates it asks for; no address for an immediate, or where a
sample core's access is not performed. -/
def evalAddr (c : CoreId) (ix sz : Nat) (write : Bool) (p : Spec) : Run (Option Word × List CoreWrite) :=
  andThen (getRegs c) fun r =>
  match p with
  | .pageDirect f => ret (some (r.page + BitVec.ofNat 32 (f * sz)), [])
  | .disp n d =>
    andThen (coreRead c (cellAddr r n.val) 4 ix) fun v =>
      ret (some (BitVec.ofNat 32 v + BitVec.ofInt 32 (d * (sz : Int))), [])
  | .postInc n =>
    andThen (coreRead c (cellAddr r n.val) 4 ix) fun v =>
    andThen (coreProbe c (cellAddr r n.val) 4 ix) fun _ =>
      ret (some (BitVec.ofNat 32 v), [⟨cellAddr r n.val, 4, (BitVec.ofNat 32 v + BitVec.ofNat 32 sz).toNat, ix⟩])
  | .preDec n =>
    andThen (coreRead c (cellAddr r n.val) 4 ix) fun v =>
    andThen (coreProbe c (cellAddr r n.val) 4 ix) fun _ =>
      let a := BitVec.ofNat 32 v - BitVec.ofNat 32 sz
      ret (some a, [⟨cellAddr r n.val, 4, a.toNat, ix⟩])
  | .stack f => ret (some (curSP c r + BitVec.ofNat 32 (4 * f)), [])
  | .imm _ | .none => ret (none, [])
  | .tap line t =>
    match c with
    | .sc k =>
      andThen (look (tapAddr k.val line.val (if write then none else some t.val) r)) fun a =>
        match a with
        | some ad => ret (some ad, [])
        | none => andThen (upd (recordCause k.val 6)) fun _ => ret (none, [])
    | _ => ret (none, [])
  | .coef f =>
    match c with
    | .sc k =>
      if f * sz < 8192 then ret (some (BitVec.ofNat 32 (scBase k.val + 0x14000 + f * sz)), [])
      else andThen (upd (recordCause k.val 6)) fun _ => ret (none, [])
    | _ => ret (none, [])

/-- An operand that is read (R267, R270). -/
def readOperand (c : CoreId) (ix sz : Nat) (p : Spec) : Run Opd :=
  match p with
  | .imm v => ret (Opd.lit ix (v % ((2 ^ (8 * sz) : Nat) : Int)).toNat)
  | _ =>
    andThen (evalAddr c ix sz false p) fun a =>
      match a.1 with
      | some ad => andThen (coreRead c ad sz ix) fun v => ret ⟨some ad, v, a.2, ix⟩
      | none => ret ⟨none, 0, a.2, ix⟩

/-- An operand that is only written. -/
def destOperand (c : CoreId) (ix sz : Nat) (p : Spec) : Run Opd :=
  andThen (evalAddr c ix sz true p) fun a =>
    match a.1 with
    | some ad => andThen (coreProbe c ad sz ix) fun _ => ret ⟨some ad, 0, a.2, ix⟩
    | none => ret ⟨none, 0, a.2, ix⟩

/-- An operand that is read and written; a mode-6 one is read and written at WP, for its tap field is 0. -/
def rwOperand (c : CoreId) (ix sz : Nat) (p : Spec) : Run Opd :=
  andThen (readOperand c ix sz p) fun a =>
    match p, c with
    | .tap line _, .sc k =>
      andThen (getRegs c) fun r =>
      andThen (look (tapAddr k.val line.val none r)) fun w => ret { a with addr := w }
    | _, _ =>
      match a.addr with
      | some ad => andThen (coreProbe c ad sz ix) fun _ => ret a
      | none => ret a

/-- An operand that gives an address alone (block operations, BQD). -/
def addrOperand (c : CoreId) (ix sz : Nat) (p : Spec) : Run Opd :=
  andThen (evalAddr c ix sz false p) fun a => ret ⟨a.1, 0, a.2, ix⟩

/-! ### Lanes (R155 to R159, R303, R305, R435) -/

/-- What a sample core finds in a lane that is written in its own domain: a TDM input's lanes change at slot 16 (R435). -/
def scLaneVal (n l : Nat) (s : State) : Word :=
  if 0x100 ≤ l ∧ l < 0x1C0 ∧ (s.sc n).slot < 16 then (s.lane l).held else (s.lane l).pub

/-- The blend of an armed edge entry in its frame `f` (R375, R376): a lane that is not written in the reader's domain counts as 0
and is reported. -/
def edgeBlend (n new old f : Nat) (s : State) : Word × State :=
  let mine := fun (l : Nat) => laneDom s l == some (s.sc n).dom
  let x := fun (l : Nat) => if mine l then (scLaneVal n l s).toInt else 0
  let v := (x old * (64 - (f : Int)) + x new * (f : Int)) / 64
  (BitVec.ofInt 32 v, if mine new && mine old then s else engEvent 2 n s)

/-- What a sample core reads from a lane: through an armed edge entry, else the lane alone; 0 where no block writes it, and
0 with an event where another domain does (R156, R159, R375). -/
def scLaneIn (n l : Nat) (s : State) : Nat × State :=
  let c := s.sc n
  match c.edges.find? fun e => e.1 == l with
  | some e =>
    let v := edgeBlend n e.1 e.2.1 e.2.2 s
    (v.1.toNat, v.2)
  | none =>
    if laneDom s l = some c.dom then ((scLaneVal n l s).toNat, s)
    else if laneDom s l = none then (0, s)
    else (0, engEvent 2 n s)

/-- A sample core's LOUT: only to a lane of its own. -/
def scLaneOut (n l v : Nat) (s : State) : State :=
  if (s.sc n).hasLane l then s.lanePut l (BitVec.ofNat 32 v) else recordCause n 7 s

/-- Where a split read of a lane stands among split reads: above the 32-bit space. -/
def laneSplit (l : Nat) : Nat := 0x100000000 + l

/-- A control core's LIN is a split read across the bridge (R305). -/
def laneIn (c : CoreId) (l : Nat) : Run Nat :=
  match c with
  | .sc k => fun x =>
    let r := scLaneIn k.val l x.s
    .ok r.1 { x with s := r.2 }
  | _ => fun x =>
    match replayed? (laneSplit l) false x with
    | some (r, x1) =>
      match r.res with
      | some v => .ok v x1
      | none => .flt ⟨3, 2, some (BitVec.ofNat 32 l), 0⟩ x1
    | none =>
      let w := whoOf x.s (coreMaster c)
      stallWith c (splitIssue ⟨w.m, w.lvl, laneSplit l, 4⟩) x

/-- Only a sample core's LOUT goes on to its value: a control core's faults at the lane (R240, R305). -/
def laneReach (c : CoreId) (l : Nat) : Run Unit :=
  if isSample c then ret () else fail ⟨3, 1, some (BitVec.ofNat 32 l), 0⟩

/-- LOUT's write of a lane. -/
def laneOut (c : CoreId) (l v : Nat) : Run Unit :=
  match c with
  | .sc k => upd (scLaneOut k.val l v)
  | _ => laneReach c l

end Sys2Proof.Machine
end

