-- ==== Sys2Proof/Machine/Atward.lean ====
section
/-! DEFINITION. The Atward instructions (chapter 9): which encodings are legal on which class, what each operation does
to its operands, the flags and the registers, and the block operations element by element. -/

namespace Sys2Proof.Machine
open Sys2Proof

/-! ### Legal encodings (R263 to R268, R283, R290 to R293) -/

/-- What an operand position does with its operand (R263). -/
inductive Role where
  | d | rw | s | zero | cond | count | target | addr | dest | unused
  deriving DecidableEq, Repr

/-- What one operation admits: its short form, its long shapes, the roles of A and B in shapes 1 to 4, and whether it
takes a size suffix (R217, R263, R290, R293). -/
structure OpInfo where
  short : Bool
  shapes : List Nat
  a : Role
  b : Role
  sizes : Bool
  deriving DecidableEq, Repr

/-- The rows of the instruction tables of chapter 9. -/
def opInfo : AOp → OpInfo
  | .mov => ⟨true, [2, 3], .d, .s, true⟩
  | .push => ⟨true, [2, 3], .zero, .s, false⟩
  | .pop => ⟨true, [2, 3], .d, .zero, false⟩
  | .add | .sub | .and | .or | .xor | .shl | .shr | .asr | .mul | .addd | .subd => ⟨true, [2, 3, 5], .rw, .s, true⟩
  | .cmp | .tst => ⟨true, [2, 3], .s, .s, true⟩
  | .not | .neg | .b2bcd | .bcd2b => ⟨true, [2, 3], .d, .s, true⟩
  | .mac => ⟨true, [2, 3], .s, .s, false⟩
  | .macr => ⟨true, [2, 3, 5], .d, .s, false⟩
  | .sat => ⟨true, [2, 3], .d, .zero, true⟩
  | .dadj => ⟨true, [2, 3], .rw, .zero, true⟩
  | .digit => ⟨false, [4], .d, .s, true⟩
  | .lin => ⟨true, [2, 3], .d, .s, false⟩
  | .lout => ⟨true, [2, 3], .s, .s, false⟩
  | .tap | .tput => ⟨false, [2, 3], .d, .s, false⟩
  | .bqd => ⟨true, [2, 3], .rw, .s, false⟩
  | .skp => ⟨true, [2], .zero, .cond, false⟩
  | .rpt => ⟨true, [2, 3, 6], .zero, .count, false⟩
  | .rpti => ⟨false, [1, 6], .s, .unused, false⟩
  | .jmp | .call => ⟨false, [1, 3], .target, .zero, false⟩
  | .jcc => ⟨false, [2, 3], .target, .cond, false⟩
  | .ret | .reti | .endFrame | .nop | .wait => ⟨true, [0], .unused, .unused, false⟩
  | .sys => ⟨false, [6], .unused, .unused, false⟩
  | .mfs => ⟨false, [4], .d, .s, false⟩
  | .mts => ⟨false, [4], .s, .s, false⟩
  | .bmov => ⟨false, [4, 5], .dest, .addr, true⟩
  | .bcmp => ⟨false, [4, 5], .addr, .addr, true⟩
  | .bfil => ⟨false, [4, 5], .dest, .s, true⟩
  | .bscn => ⟨false, [4, 5], .addr, .s, true⟩
  | .bcrc => ⟨false, [4, 5], .s, .addr, true⟩

def isBlockOp : AOp → Bool
  | .bmov | .bfil | .bcmp | .bscn | .bcrc => true
  | _ => false

/-- May a specifier stand in a position of this role, on this class (R263, R265, R277, R283, R291)? Where the short form has
0, the long form carries the immediate 0 (R291). `dest` is the address of a range that is written. -/
def specLegal (long sample : Bool) (sz : Nat) (role : Role) (p : Spec) : Bool :=
  match role with
  | .unused => p == .none
  | .zero => p == (if long then .imm 0 else .none)
  | .cond => match p with
    | .imm v => decide (0 ≤ v ∧ v < 16)
    | _ => false
  | .count => match p with
    | .imm _ => true
    | _ => false
  | .target => match p with
    | .none | .tap _ _ | .coef _ => false
    | .imm _ => true
    | _ => !sample
  | .s => match p with
    | .none => false
    | .tap _ _ => sample && sz == 4
    | .coef _ => sample
    | _ => true
  | .d | .rw => match p with
    | .none | .imm _ | .coef _ => false
    | .tap _ t => sample && sz == 4 && t == 0
    | _ => true
  | .addr => match p with
    | .none | .imm _ | .tap _ _ | .postInc _ | .preDec _ => false
    | .coef _ => sample
    | _ => true
  | .dest => match p with
    | .none | .imm _ | .tap _ _ | .postInc _ | .preDec _ | .coef _ => false
    | _ => true

/-- Is a system-register number assigned to this class (R224)? -/
def sysRegAssigned (cls n : Nat) : Bool :=
  match n with
  | 11 => cls == 0
  | 12 | 13 | 14 | 15 | 16 | 20 | 21 => cls == 1
  | 17 | 18 => cls != 0
  | n => decide (n ≤ 10) || n == 19

/-- Is a PC-relative target within what R292 admits for the shape? -/
def targetInRange (shape : Nat) (p : Spec) : Bool :=
  match p with
  | .imm v => if shape = 3 then decide (-16384 ≤ v ∧ v ≤ 16383) else decide (-32 ≤ v ∧ v ≤ 31)
  | _ => true

/-- The count an RPT carries, and the most its form admits (chapter 9, repeats; R311). -/
def rptCount (e : Enc) : Nat :=
  if e.long && e.shape == 6 then e.imm else match e.b with
    | .imm v => v.toNat
    | _ => 0
def rptMost (e : Enc) : Nat := if !e.long then 7 else if e.shape == 2 then 255 else 4095

/-- A specifier that a block operation may not have in any position (R318). -/
def blockSpecBad : Spec → Bool
  | .postInc _ | .preDec _ | .tap _ _ => true
  | _ => false

/-- The condition that an encoding carries: in A of the short SKP.cc, else in B (R263, R280). -/
def condOf (op : AOp) (e : Enc) : Nat :=
  match op, if op == .skp && !e.long then e.a else e.b with
  | .skp, .imm v => (v % 16).toNat
  | .jcc, .imm v => (v % 16).toNat
  | _, _ => 0

/-- What R283 and chapter 9 add for one operation to its form and roles. -/
def opLegal (sample : Bool) (cls : Nat) (i : AInstr) : Bool :=
  let e := i.e
  match i.op with
  | .endFrame => sample
  | .skp => i.cc == condOf i.op e
  | .jcc => !sample && targetInRange e.shape e.a && i.cc == condOf i.op e
  | .jmp => !sample && targetInRange e.shape e.a
  | .call => targetInRange e.shape e.a
  | .rpti | .reti | .wait | .sys => !sample
  | .rpt => decide (1 ≤ rptCount e ∧ rptCount e ≤ rptMost e)
  | .tap => sample && (match e.b with
    | .tap _ _ => true
    | _ => false)
  | .tput => sample && (match e.a with
    | .tap _ t => t == 0
    | _ => false)
  | .bqd => (match e.a with
    | .tap _ _ => false
    | _ => true) && (match e.b with
    | .tap _ _ | .imm _ => false
    | _ => true)
  | .digit => decide (e.imm < 2 * szBytes e.sz)
  | .mfs | .mts => sysRegAssigned cls e.imm
  | .bmov | .bfil | .bcmp | .bscn | .bcrc =>
    !([e.a, e.b, e.c].any blockSpecBad) && !(e.shape == 5 && sample)
  | _ => true

/-- Is the instruction a legal encoding on this core's class, taken alone (R283)? -/
def legalAlone (c : CoreId) (i : AInstr) : Bool :=
  let info := opInfo i.op
  let e := i.e
  let sample := isSample c
  let sz := szBytes e.sz
  let ok := fun (r : Role) (p : Spec) => specLegal e.long sample sz r p
  let formOk := if e.long then info.shapes.contains e.shape && (info.sizes || sz == 4) else info.short && sz == 4
  let rolesOk :=
    if !e.long then
      (if i.op = .skp then ok .cond e.a && ok .zero e.b else ok info.a e.a && ok info.b e.b) && e.c == .none
    else match e.shape with
      | 0 | 6 => e.a == .none && e.b == .none && e.c == .none
      | 1 => ok info.a e.a && e.b == .none && e.c == .none
      | 5 =>
        if isBlockOp i.op then ok info.a e.a && ok info.b e.b && specLegal e.long sample 4 .s e.c
        else ok .d e.a && ok .s e.b && ok .s e.c
      | _ => ok info.a e.a && ok info.b e.b && e.c == .none
  !e.stray && formOk && rolesOk && opLegal sample (coreClass c) i

/-- May not follow RPT or RPTI (R283, R312). -/
def badAfterRpt (op : AOp) : Bool :=
  match op with
  | .rpt | .rpti | .skp | .endFrame | .call | .ret | .reti | .jmp | .jcc | .wait | .sys => true
  | _ => isBlockOp op

/-- May not follow SKP.cc (R283). -/
def badAfterSkp (op : AOp) : Bool :=
  match op with
  | .rpt | .rpti | .skp | .endFrame => true
  | _ => false

/-- The length of an instruction in bytes (R257). -/
def instrLen (i : AInstr) : Nat := if i.e.long then 6 else 2

/-- The slots an instruction costs on a sample core, the elements of a block operation apart (chapter 9). -/
def baseCost : AOp → Nat
  | .bqd | .bcd2b | .call | .ret | .bmov | .bfil | .bcmp | .bscn | .bcrc => 2
  | .b2bcd => 4
  | _ => 1

/-- The slots of one element of a block operation (chapter 9). -/
def elemCost (op : AOp) (size : Nat) : Nat :=
  match op with
  | .bmov | .bcmp => 2
  | .bcrc => size
  | .bfil | .bscn => 1
  | _ => 0

/-- The slots an instruction costs on a sample core (R148, R287). -/
def slotCost (i : AInstr) : Nat := baseCost i.op + i.e.imm * elemCost i.op (szBytes i.e.sz)

/-! ### System registers (chapter 7) -/

def sysRead (c : CoreId) (r : CoreRegs) (n : Nat) : Word :=
  match n with
  | 0 => r.psw
  | 1 => curSP c r
  | 2 => r.page
  | 3 => r.rpc
  | 4 => r.bsrc
  | 5 => r.bdst
  | 6 => r.bcnt
  | 7 => r.bstep
  | 8 => BitVec.ofNat 32 r.acc.toNat
  | 9 => BitVec.ofNat 32 (r.acc.toNat / 2 ^ 32)
  | 10 => BitVec.ofNat 32 (r.acc.toNat / 2 ^ 64)
  | 11 => BitVec.ofNat 32 (r.lpage.toNat)
  | 12 => r.spU
  | 13 => r.spP
  | 14 => r.stklimU
  | 15 => r.stklimP
  | 16 => r.vbase
  | 17 => r.xcause
  | 18 => r.xaddr
  | 19 => BitVec.ofNat 32 (coreClass c * 16 + (match c with
      | .sc k => k.val
      | .cc k => k.val
      | .warden => 0))
  | 20 => Config.cacheOpRead r.cacheAddr
  | 21 => r.cacheAddr
  | _ => 0#32

/-- The PSW bits an MTS may change (R223); on a sample core PRIV, I and BA are never written. -/
def pswWritable (c : CoreId) (r : CoreRegs) : Word :=
  if !isSample c && isPrivileged c r then 0x60FF011F#32 else 0x00FF011F#32

/-- Replace `width` bits of ACC from bit `lo` on. -/
def accSet (acc : Acc) (lo width : Nat) (v : Word) : Acc :=
  let old := acc.toNat
  BitVec.ofNat 72 (old % 2 ^ lo + v.toNat % 2 ^ width * 2 ^ lo + old / 2 ^ (lo + width) * 2 ^ (lo + width))

/-- Write a system register (R223, R317): one that is read only stays as it is. -/
def sysWrite (c : CoreId) (n : Nat) (v : Word) (r : CoreRegs) : CoreRegs :=
  match n with
  | 0 => { r with psw := (r.psw &&& ~~~pswWritable c r) ||| (v &&& pswWritable c r) }
  | 1 => setCurSP c r (v &&& 0xFFFFFFFC#32)
  | 2 => { r with page := v &&& 0xFFFFFFFC#32 }
  | 3 => { r with rpc := v }
  | 4 => { r with bsrc := v }
  | 5 => { r with bdst := v }
  | 6 => { r with bcnt := v }
  | 8 => { r with acc := accSet r.acc 0 32 v }
  | 9 => { r with acc := accSet r.acc 32 32 v }
  | 10 => { r with acc := accSet r.acc 64 8 v }
  | 11 => { r with lpage := BitVec.ofNat 3 v.toNat }
  | 12 => { r with spU := v &&& 0xFFFFFFFC#32 }
  | 13 => { r with spP := v &&& 0xFFFFFFFC#32 }
  | 14 => { r with stklimU := v }
  | 15 => { r with stklimP := v }
  | 16 => { r with vbase := v &&& 0xFFFFF800#32 }
  | 21 => { r with cacheAddr := v }
  | _ => r

/-- The privileged system registers (chapter 7). -/
def sysPrivileged (n : Nat) : Bool := decide (12 ≤ n ∧ n ≤ 18) || n == 20 || n == 21

/-- A write of CACHE_OP (chapter 7): 1 and 2 invalidate a data line or all of them, 3 and 4 an instruction line or all. -/
def cacheOp (k op : Nat) (s : State) : State :=
  let x := s.ctlCore k
  let line := x.r.cacheAddr.toNat / 32
  match op with
  | 1 => s.setCtl k { x with dcache := tset [] x.dcache line [] }
  | 2 => s.setCtl k { x with dcache := [] }
  | 3 => s.setCtl k { x with icache := x.icache.filter (· != line) }
  | 4 => s.setCtl k { x with icache := [] }
  | _ => s

/-! ### Completion -/

/-- The write of an instruction's result to its operand. -/
def resultTo (a : Opd) (sz v : Nat) : List CoreWrite :=
  match a.addr with
  | some ad => [⟨ad, sz, v, a.ix⟩]
  | none => []

/-- An instruction completes: pointer updates in the order A, B, C, then the results, then the registers (R226, R227,
R272). -/
def complete (c : CoreId) (ops : List Opd) (res : List CoreWrite) (f : CoreRegs → CoreRegs) : Run Unit :=
  andThen (writeAll c ((ops.flatMap fun o => o.ups) ++ res)) fun _ => updRegs c f

/-- The registers of an instruction that goes on to the next one, with its flags. -/
def goOn (nx psw : Word) (r : CoreRegs) : CoreRegs := { r with pc := nx, psw := psw }
def goTo (nx : Word) (r : CoreRegs) : CoreRegs := { r with pc := nx }

/-! ### Operations -/

/-- A result and the PSW it leaves, from width, two values and PSW. -/
abbrev Alu2 := Nat → Nat → Nat → Word → Nat × Word
abbrev Alu1 := Nat → Nat → Word → Nat × Word

/-- a ← a op b, and in shape 5 a ← b op c (chapter 9). -/
def opRmw (f : Alu2) (c : CoreId) (e : Enc) (nx : Word) : Run Unit :=
  let sz := szBytes e.sz
  if e.long && e.shape == 5 then
    andThen (destOperand c 1 sz e.a) fun a =>
    andThen (readOperand c 2 sz e.b) fun x =>
    andThen (readOperand c 3 sz e.c) fun y =>
    andThen (getRegs c) fun r =>
    let o := f (8 * sz) x.val y.val r.psw
    complete c [a, x, y] (resultTo a sz o.1) (goOn nx o.2)
  else
    andThen (rwOperand c 1 sz e.a) fun a =>
    andThen (readOperand c 2 sz e.b) fun b =>
    andThen (getRegs c) fun r =>
    let o := f (8 * sz) a.val b.val r.psw
    complete c [a, b] (resultTo a sz o.1) (goOn nx o.2)

/-- a op b for its flags alone. -/
def opCompare (f : Alu2) (c : CoreId) (e : Enc) (nx : Word) : Run Unit :=
  let sz := szBytes e.sz
  andThen (readOperand c 1 sz e.a) fun a =>
  andThen (readOperand c 2 sz e.b) fun b =>
  andThen (getRegs c) fun r =>
  complete c [a, b] [] (goOn nx (f (8 * sz) a.val b.val r.psw).2)

/-- d ← op s. -/
def opUnary (f : Alu1) (c : CoreId) (e : Enc) (nx : Word) : Run Unit :=
  let sz := szBytes e.sz
  andThen (destOperand c 1 sz e.a) fun a =>
  andThen (readOperand c 2 sz e.b) fun b =>
  andThen (getRegs c) fun r =>
  let o := f (8 * sz) b.val r.psw
  complete c [a, b] (resultTo a sz o.1) (goOn nx o.2)

def aluMov : Alu1 := fun w s psw => (s % 2 ^ w, psw)
def aluNeg : Alu1 := fun w s psw => aluSub w 0 s psw

/-- DADJ a (R300). -/
def opDadj (c : CoreId) (e : Enc) (nx : Word) : Run Unit :=
  let sz := szBytes e.sz
  andThen (rwOperand c 1 sz e.a) fun a =>
  andThen (getRegs c) fun r =>
  let o := aluDadj (8 * sz) a.val r.psw
  complete c [a] (resultTo a sz o.1) (goOn nx o.2)

/-- The STACK check of a push (R230): on a control core alone. -/
def stackLimited (c : CoreId) (r : CoreRegs) (sp : Word) : Bool :=
  let lim := if onSpP c r then r.stklimP else r.stklimU
  coreClass c == 1 && lim != 0#32 && decide (sp.toNat < lim.toNat)

/-- Push a word (R228, R230). -/
def pushWord (c : CoreId) (v : Nat) (ops : List Opd) (f : CoreRegs → CoreRegs) : Run Unit :=
  andThen (getRegs c) fun r =>
  let sp := curSP c r - 4#32
  if stackLimited c r sp then fail ⟨5, 5, some sp, 0⟩
  else
    andThen (coreProbe c sp 4 5) fun _ =>
    andThen (writeAll c ((ops.flatMap fun o => o.ups) ++ [⟨sp, 4, v, 5⟩])) fun _ =>
    updRegs c fun r => f (setCurSP c r sp)

def opPush (c : CoreId) (e : Enc) (nx : Word) : Run Unit :=
  andThen (readOperand c 2 4 e.b) fun b => pushWord c b.val [b] (goTo nx)

def opPop (c : CoreId) (e : Enc) (nx : Word) : Run Unit :=
  andThen (destOperand c 1 4 e.a) fun a =>
  andThen (getRegs c) fun r =>
  andThen (coreRead c (curSP c r) 4 5) fun v =>
  complete c [a] (resultTo a 4 v) fun r => setCurSP c (goTo nx r) (curSP c r + 4#32)

/-- MAC (R219). -/
def opMac (c : CoreId) (e : Enc) (nx : Word) : Run Unit :=
  andThen (readOperand c 1 4 e.a) fun a =>
  andThen (readOperand c 2 4 e.b) fun b =>
  complete c [a, b] [] fun r =>
    { r with pc := nx, acc := (accMac r.acc a.val b.val).1, psw := wsetBit r.psw pswV (accMac r.acc a.val b.val).2 }

/-- MACR: with a factor of 2^24 in place of c where the shape has none (R298). -/
def opMacr (c : CoreId) (e : Enc) (nx : Word) : Run Unit :=
  andThen (destOperand c 1 4 e.a) fun a =>
  andThen (readOperand c 2 4 e.b) fun b =>
  andThen (if e.long && e.shape == 5 then readOperand c 3 4 e.c else ret (Opd.lit 3 16777216)) fun y =>
  andThen (getRegs c) fun r =>
  let o := aluSat 32 (accMac r.acc b.val y.val).1 r.psw
  complete c [a, b, y] (resultTo a 4 o.1) fun r => { r with pc := nx, acc := 0#72, psw := o.2 }

def opSat (c : CoreId) (e : Enc) (nx : Word) : Run Unit :=
  let sz := szBytes e.sz
  andThen (destOperand c 1 sz e.a) fun a =>
  andThen (getRegs c) fun r =>
  let o := aluSat (8 * sz) r.acc r.psw
  complete c [a] (resultTo a sz o.1) (goOn nx o.2)

def opDigit (c : CoreId) (e : Enc) (nx : Word) : Run Unit :=
  opUnary (fun w s psw => aluDigit w s e.imm psw) c e nx

/-- LIN (R155, R303). -/
def opLin (c : CoreId) (e : Enc) (nx : Word) : Run Unit :=
  andThen (destOperand c 1 4 e.a) fun a =>
  andThen (readOperand c 2 4 e.b) fun b =>
  andThen (laneIn c (b.val % 1024)) fun v =>
  complete c [a, b] (resultTo a 4 v) (goTo nx)

/-- LOUT (R155, R303, R305). -/
def opLout (c : CoreId) (e : Enc) (nx : Word) : Run Unit :=
  andThen (readOperand c 1 4 e.a) fun a =>
  andThen (laneReach c (a.val % 1024)) fun _ =>
  andThen (readOperand c 2 4 e.b) fun b =>
  andThen (laneOut c (a.val % 1024) b.val) fun _ =>
  complete c [a, b] [] (goTo nx)

/-- A word of a biquad section: on a sample core it may not lie in the Crucible (R307). -/
def bqdRead (c : CoreId) (a : Word) (ix : Nat) : Run Word :=
  match c with
  | .sc k => fun x =>
    if regionOf a.toNat = .crucible then .ok 0#32 { x with s := recordCause k.val 6 x.s }
    else
      let r := scRead k.val a.toNat 4 x.s
      .ok (BitVec.ofNat 32 r.1) { x with s := r.2 }
  | _ => andThen (coreRead c a 4 ix) fun v => ret (BitVec.ofNat 32 v)

/-- A word that a section writes. -/
def bqdWrite (c : CoreId) (a : Word) (v : Word) : List CoreWrite × Bool :=
  match c with
  | .sc _ => if regionOf a.toNat = .crucible then ([], true) else ([⟨a, 4, v.toNat, 1⟩], false)
  | _ => ([⟨a, 4, v.toNat, 1⟩], false)

/-- A coefficient of a section; 0 where the operand's access is not performed (R277). -/
def bqdCoef (c : CoreId) (b : Opd) (off : Word) : Run Word :=
  match b.addr with
  | some eb => bqdRead c (eb + off) 2
  | none => ret 0#32

/-- BQD (R306, R307): the accesses of A are met before those of B (R240). -/
def opBqd (c : CoreId) (e : Enc) (nx : Word) : Run Unit :=
  andThen (addrOperand c 1 4 e.a) fun a =>
  let ea := a.addr.getD 0#32
  andThen (bqdRead c ea 1) fun s1 =>
  andThen (bqdRead c (ea + 0x80#32) 1) fun s2 =>
  andThen (bqdRead c (ea + 0x100#32) 1) fun x =>
  andThen (coreProbe c ea 4 1) fun _ =>
  andThen (coreProbe c (ea + 0x80#32) 4 1) fun _ =>
  andThen (coreProbe c (ea + 0x104#32) 4 1) fun _ =>
  andThen (addrOperand c 2 4 e.b) fun b =>
  andThen (bqdCoef c b 0#32) fun b0 =>
  andThen (bqdCoef c b 0x80#32) fun b1 =>
  andThen (bqdCoef c b 0x100#32) fun b2 =>
  andThen (bqdCoef c b 0x180#32) fun a1 =>
  andThen (bqdCoef c b 0x200#32) fun a2 =>
  let o := biquad b0 b1 b2 a1 a2 x s1 s2
  let ws := [bqdWrite c (ea + 0x104#32) o.y, bqdWrite c ea o.s1, bqdWrite c (ea + 0x80#32) o.s2]
  andThen (match c with
    | .sc k => if ws.any (·.2) then upd (recordCause k.val 6) else ret ()
    | _ => ret ()) fun _ =>
  complete c [a, b] (ws.flatMap (·.1)) fun r => { r with pc := nx, psw := setVS r.psw o.sat }

/-- MFS (R316). -/
def opMfs (c : CoreId) (e : Enc) (nx : Word) : Run Unit :=
  andThen (destOperand c 1 4 e.a) fun a =>
  andThen (readOperand c 2 4 e.b) fun m =>
  andThen (getRegs c) fun r =>
  complete c [a, m] (resultTo a 4 (sysRead c r e.imm &&& BitVec.ofNat 32 m.val).toNat) (goTo nx)

/-- MTS (R223, R224, R316, R317). -/
def opMts (c : CoreId) (e : Enc) (nx : Word) : Run Unit :=
  andThen (getRegs c) fun r =>
  if sysPrivileged e.imm && coreClass c != 0 && !isPrivileged c r then fail ⟨2, 0, none, 0⟩
  else
    andThen (readOperand c 1 4 e.a) fun v =>
    andThen (readOperand c 2 4 e.b) fun m =>
    let mk := BitVec.ofNat 32 m.val
    let new := (sysRead c r e.imm &&& ~~~mk) ||| (BitVec.ofNat 32 v.val &&& mk)
    andThen (complete c [v, m] [] fun r => goTo nx (sysWrite c e.imm new r)) fun _ =>
    if e.imm = 20 then upd (cacheOp (ctlIndex c) new.toNat) else ret ()

/-- The target of JMP, Jcc or CALL (R279). -/
def flowTarget (c : CoreId) (e : Enc) (pc : Word) : Run (Opd × Word) :=
  match e.a with
  | .imm v => ret (Opd.lit 1 0, pc + BitVec.ofInt 32 (2 * v))
  | p => andThen (readOperand c 1 4 p) fun o => ret (o, BitVec.ofNat 32 o.val)

/-- A target of a control core with bit 0 set raises FETCH (R239). -/
def checkTarget (c : CoreId) (t : Word) (k : Run Unit) : Run Unit :=
  if !isSample c && t.getLsbD 0 then fail ⟨4, 4, some t, 0⟩ else k

def opJmp (c : CoreId) (e : Enc) (pc : Word) : Run Unit :=
  andThen (flowTarget c e pc) fun t => checkTarget c t.2 (complete c [t.1] [] (goTo t.2))

def opJcc (c : CoreId) (cc : Nat) (e : Enc) (pc nx : Word) : Run Unit :=
  andThen (flowTarget c e pc) fun t =>
  andThen (getRegs c) fun r =>
  if condHolds cc r.psw then checkTarget c t.2 (complete c [t.1] [] (goTo t.2)) else complete c [t.1] [] (goTo nx)

/-- The call depth of a sample core (R153). -/
def depthOf (c : CoreId) (s : State) : Nat :=
  match c with
  | .sc k => (s.sc k.val).depth
  | _ => 0
def setDepth (c : CoreId) (d : Nat) (s : State) : State :=
  match c with
  | .sc k => s.modSc k.val fun x => { x with depth := d }
  | _ => s

/-- A sample core's instruction that performs nothing and records ILLEGAL (R153, R315). -/
def opIllegal (c : CoreId) (nx : Word) : Run Unit :=
  andThen (match c with
    | .sc k => upd (recordCause k.val 3)
    | _ => ret ()) fun _ => updRegs c (goTo nx)

/-- CALL (R153, R229, R279, R281). -/
def opCall (c : CoreId) (e : Enc) (pc nx : Word) : Run Unit :=
  andThen (flowTarget c e pc) fun t =>
  checkTarget c t.2 (
    andThen (look (depthOf c)) fun d =>
    if isSample c && decide (4 ≤ d) then opIllegal c nx
    else andThen (pushWord c nx.toNat [t.1] (goTo t.2)) fun _ => upd (setDepth c (d + 1)))

/-- RET (R229, R315). -/
def opRet (c : CoreId) (nx : Word) : Run Unit :=
  andThen (look (depthOf c)) fun d =>
  if isSample c && d == 0 then opIllegal c nx
  else
    andThen (getRegs c) fun r =>
    andThen (coreRead c (curSP c r) 4 5) fun v =>
    andThen (updRegs c fun r => setCurSP c (goTo (BitVec.ofNat 32 v &&& 0xFFFFFFFE#32) r) (curSP c r + 4#32)) fun _ =>
    upd (setDepth c (d - 1))

/-- END: the slot in which a sample core retired it (R145). -/
def opEnd (c : CoreId) (nx : Word) : Run Unit :=
  andThen (match c with
    | .sc k => upd fun s => s.modSc k.val fun x => { x with ended := some x.slot }
    | _ => ret ()) fun _ => updRegs c (goTo nx)

/-- SKP.cc: the condition governs the next instruction (R308). -/
def opSkp (c : CoreId) (cc : Nat) (pc nx : Word) : Run Unit :=
  updRegs c fun r => { r with pc := nx, skp := some (pc, condHolds cc r.psw) }

/-- RPT: the next instruction is repeated (R310). -/
def opRpt (c : CoreId) (e : Enc) (pc nx : Word) : Run Unit :=
  updRegs c fun r => { r with pc := nx, rpt := some (pc, rptCount e) }

/-- The registers after an RPTI at `pc` with this count: RPC is loaded if it is 0 (R248). `cell` is its pointer cell as it
stood. -/
def rptiRegs (pc nx count : Word) (cell : Option (Word × Word)) (r : CoreRegs) : CoreRegs :=
  { r with pc := nx, rpti := some pc, rpc := if r.rpc = 0#32 then count else r.rpc, undo := some ⟨r.rpc, cell⟩ }

/-- The pointer cell that a word operand of RPTI steps, with the value it had. -/
def steppedCell (p : Spec) (ups : List CoreWrite) : Option (Word × Word) :=
  ups.head?.map fun u => (u.addr, match p with
    | .preDec _ => BitVec.ofNat 32 u.val + 4#32
    | _ => BitVec.ofNat 32 u.val - 4#32)

/-- RPTI (R248). -/
def opRpti (c : CoreId) (e : Enc) (pc nx : Word) : Run Unit :=
  if e.shape == 6 then updRegs c (rptiRegs pc nx (BitVec.ofNat 32 e.imm) none)
  else
    andThen (readOperand c 1 4 e.a) fun a =>
    complete c [a] [] (rptiRegs pc nx (BitVec.ofNat 32 a.val) (steppedCell e.a a.ups))

/-- One instruction at `pc` with the next one at `nx`, block operations and RETI apart. -/
def opBody (c : CoreId) (i : AInstr) (pc nx : Word) : Run Unit :=
  let e := i.e
  match i.op with
  | .mov | .tap | .tput => opUnary aluMov c e nx
  | .push => opPush c e nx
  | .pop => opPop c e nx
  | .add => opRmw aluAdd c e nx
  | .sub => opRmw aluSub c e nx
  | .cmp => opCompare aluSub c e nx
  | .tst => opCompare aluTst c e nx
  | .and => opRmw aluAnd c e nx
  | .or => opRmw aluOr c e nx
  | .xor => opRmw aluXor c e nx
  | .not => opUnary aluNot c e nx
  | .neg => opUnary aluNeg c e nx
  | .shl => opRmw aluShl c e nx
  | .shr => opRmw aluShr c e nx
  | .asr => opRmw aluAsr c e nx
  | .mul => opRmw aluMul c e nx
  | .mac => opMac c e nx
  | .macr => opMacr c e nx
  | .sat => opSat c e nx
  | .addd => opRmw aluAddd c e nx
  | .subd => opRmw aluSubd c e nx
  | .dadj => opDadj c e nx
  | .b2bcd => opUnary aluB2bcd c e nx
  | .bcd2b => opUnary aluBcd2b c e nx
  | .digit => opDigit c e nx
  | .lin => opLin c e nx
  | .lout => opLout c e nx
  | .bqd => opBqd c e nx
  | .skp => opSkp c i.cc pc nx
  | .rpt => opRpt c e pc nx
  | .rpti => opRpti c e pc nx
  | .jmp => opJmp c e pc
  | .jcc => opJcc c i.cc e pc nx
  | .call => opCall c e pc nx
  | .ret => opRet c nx
  | .endFrame => opEnd c nx
  | .sys => fail ⟨6, 0, none, e.imm⟩
  | .mfs => opMfs c e nx
  | .mts => opMts c e nx
  | .nop | .wait | .reti | .bmov | .bfil | .bcmp | .bscn | .bcrc => updRegs c (goTo nx)

/-! ### Block operations (R318 to R324) -/

/-- BSTEP's operation code. -/
def blockCode : AOp → Nat
  | .bmov => 1
  | .bfil => 2
  | .bcmp => 3
  | .bscn => 4
  | _ => 5

/-- BSTEP from the opcode, the suffix and the direction (R222, R320). -/
def bstepOf (op : AOp) (sz : Nat) (down : Bool) : Word :=
  BitVec.ofNat 32 (sz + 256 * b2n down + 4096 * blockCode op)

/-- Does a block copy run downwards (R320)? -/
def copiesDown (src dst n sz : Nat) : Bool := decide (src < dst ∧ dst < src + n * sz)

/-- Does a resumed operation run downwards? BSTEP is derived again and is not saved (R222), and no opcode but BMOV's has a
direction. A copy whose pointers lie too far apart for what is left to overlap goes on as BSTEP says (assumption 18). -/
def resumesDown (op : AOp) (sz : Nat) (r : CoreRegs) : Bool :=
  op == .bmov && decide (r.bsrc.toNat < r.bdst.toNat) &&
    (decide (r.bdst.toNat < r.bsrc.toNat + r.bcnt.toNat * sz) || r.bstep.getLsbD 8)

/-- The operands of a block operation load its registers (R318, R319, R323). -/
def blockLoad (c : CoreId) (i : AInstr) : Run Unit :=
  let e := i.e
  let sz := szBytes e.sz
  let count := fun (k : Nat → Run Unit) =>
    if e.shape == 5 then andThen (readOperand c 3 4 e.c) fun n => k n.val else k e.imm
  let start := fun (src dst n : Nat) (down : Bool) (acc : Option Nat) =>
    let off := if down then (n - 1) * sz else 0
    updRegs c fun r => { r with
      bsrc := BitVec.ofNat 32 (src + off), bdst := BitVec.ofNat 32 (dst + off), bcnt := BitVec.ofNat 32 n,
      bstep := bstepOf i.op sz down, acc := (acc.map (BitVec.ofNat 72)).getD r.acc,
      psw := if isSample c then r.psw else wsetBit r.psw pswBA true }
  let ea := fun (o : Opd) => ((o.addr.getD 0#32).toNat)
  match i.op with
  | .bmov =>
    andThen (addrOperand c 1 sz e.a) fun a => andThen (addrOperand c 2 sz e.b) fun b =>
    count fun n => start (ea b) (ea a) n (copiesDown (ea b) (ea a) n sz) none
  | .bfil =>
    andThen (addrOperand c 1 sz e.a) fun a => andThen (readOperand c 2 sz e.b) fun b =>
    count fun n => start b.val (ea a) n false none
  | .bcmp =>
    andThen (addrOperand c 1 sz e.a) fun a => andThen (addrOperand c 2 sz e.b) fun b =>
    count fun n => start (ea b) (ea a) n false none
  | .bscn =>
    andThen (addrOperand c 1 sz e.a) fun a => andThen (readOperand c 2 sz e.b) fun b =>
    count fun n => start (ea a) b.val n false none
  | _ =>
    andThen (readOperand c 1 sz e.a) fun a => andThen (addrOperand c 2 sz e.b) fun b =>
    count fun n => start (ea b) 0 n false (some a.val)

/-- A step of a block pointer. -/
def blockStep (down : Bool) (sz : Nat) (p : Word) : Word :=
  if down then p - BitVec.ofNat 32 sz else p + BitVec.ofNat 32 sz

/-- PSW with N, Z, C and V of another. -/
def takeNzcv (psw from' : Word) : Word := (psw &&& ~~~0xF#32) ||| (from' &&& 0xF#32)

/-- The slots go on within an instruction of a sample core. -/
def passSlots (c : CoreId) (n : Nat) : Run Unit :=
  match c with
  | .sc k => upd fun s => s.modSc k.val fun x => { x with slot := x.slot + n }
  | _ => ret ()

/-- One element: true if the operation ends with it (R320 to R323). A fault of operand A is met before one of B (R240). -/
def blockElem (c : CoreId) (op : AOp) (sz : Nat) : Run Bool :=
  andThen (getRegs c) fun r =>
  let down := r.bstep.getLsbD 8
  let next := fun (r : CoreRegs) => blockStep down sz r.bsrc
  match op with
  | .bmov =>
    andThen (coreProbe c r.bdst sz 1) fun _ =>
    andThen (coreRead c r.bsrc sz 2) fun v =>
    andThen (passSlots c 1) fun _ =>
    andThen (writeAll c [⟨r.bdst, sz, v, 1⟩]) fun _ =>
    andThen (passSlots c 1) fun _ =>
    andThen (updRegs c fun r => { r with bsrc := next r, bdst := blockStep down sz r.bdst, bcnt := r.bcnt - 1#32 }) fun _ =>
    ret false
  | .bfil =>
    andThen (coreProbe c r.bdst sz 1) fun _ =>
    andThen (writeAll c [⟨r.bdst, sz, r.bsrc.toNat % 2 ^ (8 * sz), 1⟩]) fun _ =>
    andThen (passSlots c 1) fun _ =>
    andThen (updRegs c fun r => { r with bdst := blockStep down sz r.bdst, bcnt := r.bcnt - 1#32 }) fun _ => ret false
  | .bcmp =>
    andThen (coreRead c r.bdst sz 1) fun x =>
    andThen (passSlots c 1) fun _ =>
    andThen (coreRead c r.bsrc sz 2) fun y =>
    andThen (passSlots c 1) fun _ =>
    if x = y then
      andThen (updRegs c fun r => { r with bsrc := next r, bdst := blockStep down sz r.bdst, bcnt := r.bcnt - 1#32 }) fun _ =>
      ret false
    else andThen (updRegs c fun r => { r with psw := takeNzcv r.psw (aluSub (8 * sz) x y r.psw).2 }) fun _ => ret true
  | .bscn =>
    andThen (coreRead c r.bsrc sz 1) fun v =>
    andThen (passSlots c 1) fun _ =>
    if v = r.bdst.toNat % 2 ^ (8 * sz) then
      andThen (updRegs c fun r => { r with psw := wsetBit r.psw pswZ true }) fun _ => ret true
    else andThen (updRegs c fun r => { r with bsrc := next r, bcnt := r.bcnt - 1#32 }) fun _ => ret false
  | _ =>
    andThen (coreRead c r.bsrc sz 2) fun v =>
    andThen (passSlots c sz) fun _ =>
    andThen (updRegs c fun r => { r with
      acc := accSet r.acc 0 32 (BitVec.ofNat 32 ((leBytes sz v).foldl (fun k b => crcByte k b.toNat) (r.acc.toNat % 2 ^ 32))),
      bsrc := next r, bcnt := r.bcnt - 1#32 }) fun _ => ret false

/-- The flags of an operation whose elements have run out (R321, R322). -/
def blockOut (op : AOp) (psw : Word) : Word :=
  match op with
  | .bcmp => (psw &&& ~~~0xF#32) ||| 0x4#32
  | .bscn => wsetBit psw pswZ false
  | _ => psw

/-- The operation ends: BA is cleared and the next instruction follows (R319). -/
def blockEnd (c : CoreId) (op : AOp) (early : Bool) (nx : Word) : Run Unit :=
  updRegs c fun r => { r with pc := nx, psw := wsetBit (if early then r.psw else blockOut op r.psw) pswBA false }

end Sys2Proof.Machine
end

