-- ==== Sys2Proof/Decode.lean ====
section
/-! DEFINITION. The decoder of table words, and the decoder of Atward instructions. The part is a block that takes
commands: spec/opcode_table.json gives its rows no bits, so no word spells a command. The half-words that its cores
fetch have bits of their own, by the tables of chapters 8 and 9. -/

namespace Sys2Proof
open Sys2Proof.Machine

/-- The command that a word of the table spells: none, since the table gives no row any bits. -/
def decodeTableWord (_nbits _w : Nat) : Option Instr := none

/-- Bits of a word: `n` of them from bit `lo` on. -/
def bitsAt (v lo n : Nat) : Nat := v / 2 ^ lo % 2 ^ n

/-- A field of `n` bits read as a signed number. -/
def signedField (n v : Nat) : Int := if v < 2 ^ (n - 1) then (v : Int) else (v : Int) - (2 ^ n : Nat)

/-- The operations 0x01 to 0x1D, by number: short opcodes and long OP values alike (R263, R266). -/
def sharedOps : List AOp :=
  [.mov, .add, .sub, .cmp, .tst, .and, .or, .xor, .not, .neg, .shl, .shr, .asr, .mul, .mac, .macr, .sat, .addd, .subd,
    .dadj, .b2bcd, .bcd2b, .push, .pop, .lin, .lout, .bqd, .rpt, .skp]

/-- The operations 0x1E to 0x30 of the long form, by number (R290). -/
def longOps : List AOp :=
  [.digit, .tap, .tput, .jmp, .jcc, .call, .ret, .reti, .endFrame, .wait, .sys, .rpti, .mfs, .mts, .bmov, .bfil, .bcmp,
    .bscn, .bcrc]

/-- The miscellaneous group of the short form, by sub-op (R264). -/
def miscOps : List AOp := [.nop, .ret, .reti, .endFrame, .wait]

/-- A short specifier: two bits of mode, three of field (chapter 8). -/
def shortSpec (v : Nat) : Spec :=
  let n := Fin.ofNat 8 v
  match bitsAt v 3 2 with
  | 0 => .pageDirect n.val
  | 1 => .disp n 0
  | 2 => .imm n.val
  | _ => .postInc n

/-- A short specifier that must be 0 stands for no operand where it is. -/
def shortZero (v : Nat) : Spec := if v = 0 then .none else shortSpec v

/-- The instruction of a short half-word (R262 to R264). -/
def shortInstr (h : Nat) : AInstr :=
  let op := bitsAt h 10 5
  let a := bitsAt h 5 5
  let b := bitsAt h 0 5
  let mk := fun (o : AOp) (x y : Spec) (stray : Bool) =>
    let e : Enc := ⟨false, .w, 0, x, y, .none, 0, stray⟩
    (⟨o, e, condOf o e⟩ : AInstr)
  if op = 31 then mk ((miscOps[a]?).getD .nop) .none (shortZero b) (decide (5 ≤ a))
  else if op = 29 then mk .skp (if a < 16 then .imm a else shortSpec a) (shortZero b) (decide (16 ≤ a))
  else match if op = 0 then none else sharedOps[op - 1]? with
    | some o =>
      mk o (if (opInfo o).a = .zero then shortZero a else shortSpec a)
        (if (opInfo o).b = .zero then shortZero b else shortSpec b) false
    | none => mk .nop .none .none true

/-- A long specifier, with six more bits above its field in shape 3, and whether a bit is 1 that must be 0 (chapter 8,
R273). -/
def longSpec (ext : Option Nat) (v : Nat) : Spec × Bool :=
  let f := bitsAt v 0 9
  let up := ext.getD 0
  let wide := if ext.isSome then 6 else 0
  match bitsAt v 9 3 with
  | 0 => (.pageDirect (f + 512 * up), false)
  | 1 => (.disp (Fin.ofNat 8 (bitsAt v 6 3)) (signedField (6 + wide) (bitsAt v 0 6 + 64 * up)), false)
  | 2 => (.postInc (Fin.ofNat 8 v), bitsAt v 3 6 != 0 || up != 0)
  | 3 => (.preDec (Fin.ofNat 8 v), bitsAt v 3 6 != 0 || up != 0)
  | 4 => (.stack (f + 512 * up), false)
  | 5 => (.imm (signedField (9 + wide) (f + 512 * up)), false)
  | 6 => (.tap (Fin.ofNat 32 (bitsAt v 4 5)) (Fin.ofNat 16 v), up != 0)
  | _ => (.coef (f + 512 * up), false)

/-- A long specifier that its shape leaves unused must be 0x000 (R265). -/
def unusedSpec (v : Nat) : Spec × Bool := if v = 0 then (.none, false) else longSpec none v

/-- The instruction of the 48 bits of a long form (R265 to R268, R290). -/
def longInstr (w : Nat) : AInstr :=
  let szf := bitsAt w 45 2
  let shape := bitsAt w 42 3
  let opf := bitsAt w 36 6
  let c12 := bitsAt w 0 12
  let ext := fun (k : Nat) => if shape = 3 then some k else none
  let a := if shape = 0 ∨ shape = 6 then unusedSpec (bitsAt w 24 12) else longSpec (ext (bitsAt c12 6 6)) (bitsAt w 24 12)
  let b := if shape = 0 ∨ shape = 1 ∨ shape = 6 then unusedSpec (bitsAt w 12 12)
    else longSpec (ext (bitsAt c12 0 6)) (bitsAt w 12 12)
  let c := if shape = 3 ∨ shape = 4 ∨ shape = 6 then (.none, false) else if shape = 5 then longSpec none c12 else unusedSpec c12
  let imm := if shape = 4 ∨ shape = 6 then c12 else 0
  let sz := match szf with
    | 1 => Sz.h
    | 2 => .b
    | _ => .w
  let op := if opf = 0 then some .nop else if opf < 0x1E then sharedOps[opf - 1]? else longOps[opf - 0x1E]?
  let e : Enc := ⟨true, sz, shape, a.1, b.1, c.1, imm, szf == 3 || op.isNone || a.2 || b.2 || c.2⟩
  ⟨op.getD .nop, e, condOf (op.getD .nop) e⟩

/-- The instruction that three half-words from PC on spell: bit 15 of the first tells its form (R257, R258). -/
def atwardOf (h0 h1 h2 : Nat) : AInstr :=
  if bitsAt h0 15 1 = 0 then shortInstr h0 else longInstr (h0 % 65536 * 2 ^ 32 + h1 % 65536 * 2 ^ 16 + h2 % 65536)

end Sys2Proof
end

