-- ==== Sys2Proof/Machine/Cores.lean ====
section
/-! DEFINITION. How the cores run one instruction after another: the slots, skips and repeats of a sample core
(chapter 5), and the fetch, the exceptions, the interrupts and the waits of a control-class core (chapter 7). -/

namespace Sys2Proof.Machine
open Sys2Proof

/-- A piece of an instruction that neither waits nor raises an exception, as every piece on a sample core. -/
def runPlain {α : Type} (p : Run α) (d : α) (s : State) : α × State :=
  match p ⟨s, [], [], none⟩ with
  | .ok a x => (a, x.s)
  | .flt _ x => (d, x.s)
  | .stall x => (d, x.s)

/-- No prefix governs the next instruction. -/
def noPrefix (r : CoreRegs) : CoreRegs := { r with skp := none, rpt := none, rpti := none, undo := none }

/-- The address of an instruction's successor. -/
def nextPc (i : AInstr) (pc : Word) : Word := pc + BitVec.ofNat 32 (instrLen i)

/-! ### Sample cores (R144 to R154, R285, R308 to R315, R324) -/

/-- The slots of a frame that a program may use. -/
def slotLimit (c : SampleCore) : Nat := lastSlot c.dom + 1

/-- Can the core execute an instruction now (R145, R146)? -/
def scActive (c : SampleCore) : Bool := c.runs && c.ended.isNone && decide (c.slot < slotLimit c)

/-- Does a byte range lie in a core's live program bank (R160)? -/
def scFetchable (s : State) (n : Nat) (pc len : Nat) : Bool :=
  let base := scBase n + (if (s.sc n).pbank then 0x6000 else 0)
  decide (base ≤ pc ∧ pc + len ≤ base + 0x6000)

def scSpend (n k : Nat) (s : State) : State := s.modSc n fun c => { c with slot := min (slotLimit c) (c.slot + k) }
/-- The frame's slots run out within an instruction: what is left of it is discarded (R146). -/
def scCut (n : Nat) (s : State) : State := s.modSc n fun c => { c with slot := slotLimit c }
def scFits (s : State) (n k : Nat) : Bool := decide ((s.sc n).slot + k ≤ slotLimit (s.sc n))

/-- The core's registers change. -/
def scRegs (n : Fin 16) (f : CoreRegs → CoreRegs) (s : State) : State := setRegs (.sc n) (f (regsOf (.sc n) s)) s

/-- The elements of a block operation, while their slots fit (R146, R324): 0 all done, 1 ended early, 2 cut. -/
def scElems (n : Fin 16) (op : AOp) (sz : Nat) : Nat → State → Nat × State
  | 0, s => (0, s)
  | k + 1, s =>
    if scFits s n.val (elemCost op sz) then
      let x := runPlain (blockElem (.sc n) op sz) true s
      if x.1 then (1, x.2) else scElems n op sz k x.2
    else (2, scCut n.val s)

/-- A block operation on a sample core (R151, R318 to R324): its whole cost is spent, ended early or not. -/
def scBlock (n : Fin 16) (i : AInstr) (nx : Word) (s : State) : State :=
  let s0 := (s.sc n.val).slot
  if scFits s n.val 2 then
    let s1 := (runPlain (blockLoad (.sc n) i) () s).2
    let s2 := scSpend n.val 2 s1
    let x := scElems n i.op (szBytes i.e.sz) i.e.imm s2
    if x.1 = 2 then x.2
    else
      let s3 := (runPlain (blockEnd (.sc n) i.op (x.1 == 1) nx) () x.2).2
      s3.modSc n.val fun c => { c with slot := min (slotLimit c) (s0 + slotCost i) }
  else scCut n.val s

/-- One execution of an instruction that is no block operation, whole or not at all (R146). -/
def scOnce (n : Fin 16) (i : AInstr) (pc nx : Word) (s : State) : State :=
  if scFits s n.val (baseCost i.op) then scSpend n.val (baseCost i.op) (runPlain (opBody (.sc n) i pc nx) () s).2
  else scCut n.val s

/-- The repeats of an RPT, each afresh (R150, R310). -/
def scRepeat (n : Fin 16) (i : AInstr) (pc nx : Word) : Nat → State → State
  | 0, s => s
  | k + 1, s => scRepeat n i pc nx k (scOnce n i pc nx s)

/-- An instruction on a sample core: it takes its slots, and does what its encoding and the SKP.cc or RPT before it let it
do. -/
def scRun (n : Fin 16) (i : AInstr) (s : State) : State :=
  let c := s.sc n.val
  let pc := c.r.pc
  let nx := nextPc i pc
  if !scActive c then s
  else if !scFetchable s n.val pc.toNat (instrLen i) then
    let len := if scFetchable s n.val pc.toNat 2 then instrLen i else 2
    scSpend n.val 1 (scRegs n (fun r => goTo (pc + BitVec.ofNat 32 len) (noPrefix r)) (recordCause n.val 3 s))
  else
    let bad := (c.r.rpt.isSome && badAfterRpt i.op) || (c.r.skp.isSome && badAfterSkp i.op)
    let s0 := scMet n.val (eccHit s pc.toNat (instrLen i)) s
    let s1 := if bad then recordCause n.val 3 s0 else s0
    let times := if bad then 1 else match c.r.rpt with
      | some (_, m) => m
      | none => 1
    let go := bad || match c.r.skp with
      | some (_, b) => b
      | none => true
    let s2 := scRegs n noPrefix s1
    if !legalAlone (.sc n) i then scSpend n.val times (scRegs n (goTo nx) (recordCause n.val 3 s2))
    else if !go then scSpend n.val (slotCost i) (scRegs n (goTo nx) s2)
    else if isBlockOp i.op then scBlock n i nx s2
    else scRepeat n i pc nx times s2

/-! ### Interrupt sources as a control-class core sees them (R243 to R245, R755) -/

/-- The number of the lowest bit set in an 8-bit mask, 8 for none: RUNLVL from ACTIVE (R253). -/
def lowestBit (m : BitVec 8) : Nat := ((List.range 8).find? fun i => m.getLsbD i).getD 8

/-- The level of a source for a core, if it is pending, enabled and routed to it. -/
def sourceLevel (s : State) (k src : Nat) : Option Nat :=
  if k = 4 then
    if src < 16 ∧ s.bit 0xE0000014 src = true ∧ s.bit 0xE0000010 src = true then some (src / 2) else none
  else
    let cfg := s.rd (0x40001000 + 4 * src)
    if cfg.getLsbD 0 && fld cfg 8 3 == k && intPending s src then some (fld cfg 4 3) else none

/-- Only levels below this are taken (R245). -/
def levelBound (s : State) (k : Nat) : Nat :=
  let run := (s.ctlCore k).runlvl
  if k = 4 then run else min run (min 8 (s.rdf (0x40001504 + 16 * k) 0 4))

/-- The source that the core takes now: the lowest level, then the lowest number (R245). -/
def takenSource (s : State) (k : Nat) : Option (Nat × Nat) :=
  let n := if k = 4 then 16 else 256
  (List.range 8).findSome? fun l =>
    if l < levelBound s k then
      ((List.range n).find? fun src => sourceLevel s k src == some l).map fun src => (l, src)
    else none

/-! ### Entry (R239, R251, R256) -/

/-- A word pushed by entry: through the data cache where it holds the line. -/
def entryPush (c : CoreId) (v : Word) (x : Bool × State) : Bool × State :=
  if x.1 then
    let r := regsOf c x.2
    let sp := curSP c r - 4#32
    let w := writeNow (coreMaster c) sp.toNat 4 v.toNat (setRegs c (setCurSP c r sp) x.2)
    (w.1, if w.1 && cacheable c sp.toNat then cacheWrite (ctlIndex c) sp.toNat 4 v.toNat w.2 else w.2)
  else x

/-- A word read by entry or popped by RETI; none for a bus error or an ECC error (R256). -/
def entryRead (c : CoreId) (a : Nat) (s : State) : Option Nat × State :=
  if unreached c a then (none, s)
  else if cacheable c a && filterOf (whoOf s (coreMaster c)) false a == .pass && !heldAt s a && decide (a % 4 = 0) then
    let q := cacheRead (ctlIndex c) a 4 s
    (if q.1.2 then none else some q.1.1, q.2)
  else readNow (coreMaster c) a 4 s

/-- Where the core's vector table begins. -/
def vectorBase (c : CoreId) (s : State) : Nat :=
  match c with
  | .warden => (s.rd 0xE000000C).toNat
  | _ => (regsOf c s).vbase.toNat

/-- Entry to a vector, `pc` being the PC to push: an exception's, or an interrupt's at level and from source. A vector word with
bit 0 set is a FETCH condition, as a bus error of entry is: LOCKUP (R239, R256). -/
def enter (c : CoreId) (vec : Nat) (cause : Word) (xaddr : Option Word) (pc : Word) (irq : Option (Nat × Nat))
    (s : State) : State :=
  let k := ctlIndex c
  let r := noPrefix (regsOf c s)
  let old := r.psw
  let s1 := setRegs c { r with psw := if k = 4 then old else wsetBit old 30 true } s
  let frame := (if wbit old pswBA then [r.bcnt, r.bdst, r.bsrc] else [])
    ++ [(pc &&& 0xFFFFFFFE#32) ||| (if irq.isSome then 1#32 else 0#32), old]
  let p := if unreached c (curSP c r).toNat then (false, s1) else frame.foldl (fun x v => entryPush c v x) (true, s1)
  if !p.1 then enterLockup k p.2
  else
    let r2 := regsOf c p.2
    let s2 := setRegs c { r2 with psw := wsetBit r2.psw pswBA false, xcause := cause, xaddr := xaddr.getD r2.xaddr } p.2
    let s3 := match irq with
      | some (l, src) =>
        let x := s2.ctlCore k
        let s4 := s2.setCtl k { x with active := x.active ||| BitVec.ofNat 8 (2 ^ l), runlvl := l, lastVec := vec }
        if k = 4 then s4.wrb 0xE0000014 src false
        else if isPulseSource src then unlatch src s4 else s4
      | none => s2
    let v := entryRead c (vectorBase c s3 + 4 * vec) s3
    match v.1 with
    | some h =>
      if h % 2 = 1 then enterLockup k v.2 else setRegs c (goTo (BitVec.ofNat 32 h) (regsOf c v.2)) v.2
    | none => enterLockup k v.2

/-- An exception (R239 to R241, R246). -/
def raise (c : CoreId) (f : Flt) (pc : Word) (s : State) : State :=
  enter c f.vec (BitVec.ofNat 32 (f.vec + f.opn * 4096 + f.info * 65536)) f.xaddr pc none s

/-- An interrupt (R245, R251). -/
def takeInterrupt (c : CoreId) (l src : Nat) (pc : Word) (s : State) : State :=
  enter c (16 + src) (BitVec.ofNat 32 (16 + src)) none pc (some (l, src)) s

/-! ### RETI (R253) -/

/-- Pop a word from the active stack. -/
def popNow (c : CoreId) (s : State) : Option Word × State :=
  let r := regsOf c s
  let v := entryRead c (curSP c r).toNat s
  match v.1 with
  | some x => (some (BitVec.ofNat 32 x), setRegs c (setCurSP c (regsOf c v.2) (curSP c r + 4#32)) v.2)
  | none => (none, v.2)

/-- Pop a list of words, the first popped first; fewer than asked for where a pop failed. -/
def popMany (c : CoreId) : Nat → State → List Word × State
  | 0, s => ([], s)
  | n + 1, s =>
    match popNow c s with
    | (some v, s1) =>
      let t := popMany c n s1
      (v :: t.1, t.2)
    | (none, s1) => ([], s1)

/-- The pops all come from the stack that RETI starts on; then PSW, PC and the block state are restored. -/
def returnFrom (c : CoreId) (s : State) : State :=
  let k := ctlIndex c
  let two := popMany c 2 s
  match two.1 with
  | [psw, pc] =>
    let ba := wbit psw pswBA
    let blk := popMany c (if ba then 3 else 0) two.2
    if blk.1.length = (if ba then 3 else 0) then
      let s1 := if wbit pc 0 then
          let x := blk.2.ctlCore k
          let act := x.active &&& (x.active - 1#8)
          blk.2.setCtl k { x with active := act, runlvl := lowestBit act }
        else blk.2
      let r := regsOf c s1
      let keep := (psw &&& 0x70FF011F#32) ||| (r.psw &&& 0x80000000#32)
      let at' := fun (j : Nat) (d : Word) => (blk.1[j]?).getD d
      setRegs c { r with psw := keep, pc := pc &&& 0xFFFFFFFE#32, bsrc := at' 0 r.bsrc, bdst := at' 1 r.bdst,
                         bcnt := at' 2 r.bcnt } s1
    else enterLockup k blk.2
  | _ => enterLockup k two.2

/-! ### Fetch (R236, R238) -/

/-- Does the instruction cache hold the line of an address? -/
def icacheHas (c : CoreId) (s : State) (a : Nat) : Bool :=
  coreClass c == 1 && (s.ctlCore (ctlIndex c)).icache.contains (a / 32)

/-- Can the core fetch the half-word at an address without a bus error? One that the filter answers with zero is fetched as
zero (R690); an uncorrectable ECC error is met as a bus error (assumption 29). -/
def fetchOk (c : CoreId) (s : State) (a : Nat) : Bool :=
  let region := match regionOf a with
    | .hearth | .keep | .flash => true
    | .rom | .secure => coreClass c == 2
    | _ => false
  region && filterOf (whoOf s (coreMaster c)) false a != .refused && !heldAt s a
    && (icacheHas c s a || !(eccHit s a 2).2)

/-- The half-words of an instruction. -/
def halfWords (i : AInstr) (pc : Word) : List Word :=
  (List.range (instrLen i / 2)).map fun j => pc + BitVec.ofNat 32 (2 * j)

/-- The first half-word of an instruction that cannot be fetched. -/
def fetchFails (c : CoreId) (s : State) (i : AInstr) (pc : Word) : Option Word :=
  (halfWords i pc).find? fun a => !fetchOk c s a.toNat

/-- The first half-word of an instruction that the filter answers with zero: what is fetched there is no instruction, for a
first word of 0 is illegal (R261, R690; for a later word assumption 18). -/
def fetchZero (c : CoreId) (s : State) (i : AInstr) (pc : Word) : Option Word :=
  (halfWords i pc).find? fun a => filterOf (whoOf s (coreMaster c)) false a.toNat != .pass

/-- The instruction cache takes a line: a miss reads it. -/
def icacheFill (k line : Nat) (s : State) : State :=
  let x := s.ctlCore k
  if x.icache.contains line then s
  else
    (if regionOf (32 * line) = .keep then keepNoted (32 * line) 32 s else s).setCtl k
      { x with icache := (line :: x.icache).mergeSort }

/-- The instruction cache takes the lines fetched. -/
def fetchLines (c : CoreId) (i : AInstr) (pc : Word) (s : State) : State :=
  if coreClass c ≠ 1 then s
  else icacheFill (ctlIndex c) ((pc.toNat + instrLen i - 1) / 32) (icacheFill (ctlIndex c) (pc.toNat / 32) s)

/-! ### One instruction of a control-class core -/

def setRets (c : CoreId) (l : List BusRet) (s : State) : State :=
  s.setCtl (ctlIndex c) { s.ctlCore (ctlIndex c) with rets := l }
def retsOf (c : CoreId) (s : State) : List BusRet := (s.ctlCore (ctlIndex c)).rets

/-- How an attempt at a piece of an instruction ended. -/
inductive Tried where
  | done (s : State)
  | raised (s : State)
  | waiting (s : State)

/-- Attempt a piece of an instruction: where it waits or raises, the registers stand as they were (R241). `pc` is pushed
where it raises. -/
def attempt (c : CoreId) (pc : Word) (p : Run Unit) (s : State) : Tried :=
  let r := regsOf c s
  match andThen p (fun _ => eccCheck) ⟨s, retsOf c s, [], none⟩ with
  | .ok _ x => .done (setRets c [] x.s)
  | .flt f x => .raised (raise c f pc (setRets c [] (setRegs c r x.s)))
  | .stall x => .waiting (setRets c x.made (setRegs c r x.s))

/-! ### Interruption points (R245, R247, R250, R254) -/

/-- Does the core stand at an interruption point? -/
def atPoint (c : CoreId) (s : State) : Bool :=
  let x := s.ctlCore (ctlIndex c)
  x.st == .run && x.r.skp.isNone && x.r.rpt.isNone && x.rets == [] && !outstanding c s

/-- The interrupt that the core takes before anything else it does, by level and source (R245, R254). -/
def interruptDue (c : CoreId) (s : State) : Option (Nat × Nat) :=
  if !isSample c && atPoint c s && (regsOf c s).psw.getLsbD 29 then takenSource s (ctlIndex c) else none

/-- The core takes the interrupt that R245 picks, if one may be taken. -/
def interruptEntry (c : CoreId) (s : State) : State :=
  match interruptDue c s with
  | some (l, src) => takeInterrupt c l src ((regsOf c s).rpti.getD (regsOf c s).pc) s
  | none => s

/-- Where the elements under way have run out: a block operation with none left ends (R319). -/
def elemsOver (c : CoreId) (op : AOp) (nx : Word) (s : State) : State :=
  if (regsOf c s).bcnt = 0#32 then (runPlain (blockEnd c op false nx) () s).2 else s

/-- The elements of a block operation, up to `k` of them and up to an interrupt that is due (R241, R247, R319 to R323). -/
def ctlElems (c : CoreId) (op : AOp) (sz : Nat) (pc nx : Word) : Nat → State → State
  | 0, s => elemsOver c op nx s
  | k + 1, s =>
    let r := regsOf c s
    if r.bcnt = 0#32 then elemsOver c op nx s
    else
      match andThen (blockElem c op sz) (fun b => andThen eccCheck fun _ => ret b) ⟨s, retsOf c s, [], none⟩ with
      | .ok early x =>
        let s1 := setRets c [] x.s
        if early then (runPlain (blockEnd c op true nx) () s1).2
        else if (interruptDue c s1).isSome then elemsOver c op nx s1
        else ctlElems c op sz pc nx k s1
      | .flt f x => raise c f pc (setRets c [] (setRegs c r x.s))
      | .stall x => setRets c x.made (setRegs c r x.s)

/-- A block operation: its operands unless it resumes (R255), then elements. BSTEP is derived again each time (R222). -/
def ctlBlock (c : CoreId) (i : AInstr) (k : Nat) (pc nx : Word) (s : State) : State :=
  let sz := szBytes i.e.sz
  let elems := fun (s : State) => ctlElems c i.op sz pc nx k s
  if wbit (regsOf c s).psw pswBA then
    elems (setRegs c { regsOf c s with bstep := bstepOf i.op sz (resumesDown i.op sz (regsOf c s)) } s)
  else match attempt c pc (blockLoad c i) s with
    | .done s1 => elems s1
    | .raised s1 => s1
    | .waiting s1 => s1

/-- WAIT (R250). -/
def ctlWait (c : CoreId) (nx : Word) (s : State) : State :=
  let s1 := setRegs c (goTo nx (regsOf c s)) s
  s1.setCtl (ctlIndex c) { s1.ctlCore (ctlIndex c) with st := .wait }

/-- The repeats that RPT at `at` has left (R310, R313). -/
def ctlRepeat (c : CoreId) (i : AInstr) (pc nx addr : Word) : Nat → State → State
  | 0, s => setRegs c { regsOf c s with rpt := none, pc := nx } s
  | m + 1, s =>
    let s0 := setRegs c { regsOf c s with rpt := some (addr, m + 1), pc := pc } s
    match attempt c addr (opBody c i pc nx) s0 with
    | .done s1 => ctlRepeat c i pc nx addr m s1
    | .raised s1 => s1
    | .waiting s1 => s1

/-- One iteration under RPTI at `addr` (R248, R314). -/
def ctlIterate (c : CoreId) (i : AInstr) (pc nx addr : Word) (s : State) : State :=
  if (regsOf c s).rpc = 0#32 then setRegs c { regsOf c s with rpti := none, pc := nx, undo := none } s
  else match attempt c addr (opBody c i pc nx) s with
    | .done s1 =>
      let r := regsOf c s1
      let left := r.rpc - 1#32
      if left = 0#32 then setRegs c { r with rpc := left, rpti := none, undo := none } s1
      else setRegs c { r with rpc := left, pc := pc, undo := none } s1
    | .raised s1 => s1
    | .waiting s1 => s1

/-- An instruction with no repeat before it. -/
def ctlOnce (c : CoreId) (i : AInstr) (k : Nat) (pc nx : Word) (s : State) : State :=
  let s1 := setRegs c (noPrefix (regsOf c s)) s
  if isBlockOp i.op then ctlBlock c i k pc nx s1
  else match i.op with
    | .reti => returnFrom c s1
    | .wait => ctlWait c nx s1
    | .sys => raise c ⟨6, 0, none, i.e.imm⟩ nx s1
    | _ =>
      match attempt c pc (opBody c i pc nx) s with
      | .done s2 =>
        let r := regsOf c s2
        setRegs c { r with skp := if i.op = .skp then r.skp else none } s2
      | .raised s2 => s2
      | .waiting s2 => s2

/-- The address of the RPT, RPTI or SKP.cc that governs the next instruction. -/
def prefixAddr (r : CoreRegs) : Option Word :=
  match r.rpt, r.rpti, r.skp with
  | some x, _, _ => some x.1
  | none, some a, _ => some a
  | none, none, some x => some x.1
  | none, none, none => none

/-- Is the prefix before this instruction an illegal pairing (R283, R312)? -/
def badPair (r : CoreRegs) (op : AOp) : Bool :=
  ((r.rpt.isSome || r.rpti.isSome) && badAfterRpt op) || (r.skp.isSome && badAfterSkp op)

/-- What an RPTI that turns out to be paired with an illegal successor has done is taken back (R284, R312). -/
def rptiUndone (c : CoreId) (s : State) : State :=
  match (regsOf c s).undo with
  | some u =>
    let s1 := setRegs c { regsOf c s with rpc := u.rpc } s
    match u.cell with
    | some x => ctlWrite c ⟨x.1, 4, x.2.toNat, 1⟩ s1
    | none => s1
  | none => s

/-- An instruction on a control-class core; for a block operation, up to `k` elements of it. A core that does not run
does nothing; one at an interruption point with an interrupt due takes the interrupt, and the instruction waits until the
program comes to it again (R245, R254). -/
def ctlRun (c : CoreId) (i : AInstr) (k : Nat) (s : State) : State :=
  let r := regsOf c s
  let pc := r.pc
  let nx := nextPc i pc
  let own := match r.rpt, r.rpti with
    | some x, _ => x.1
    | none, some a => a
    | none, none => pc
  if (s.ctlCore (ctlIndex c)).st ≠ .run then s
  else if (interruptDue c s).isSome then interruptEntry c s
  else match fetchFails c s i pc with
    | some a => raise c ⟨4, 4, some a, 0⟩ own s
    | none => match fetchZero c s i pc with
    | some a => raise c ⟨1, 0, none, 0⟩ own (logPriv (whoOf s (coreMaster c)) false
        (filterOf (whoOf s (coreMaster c)) false a.toNat == .dropped true) 2 a.toNat s)
    | none =>
      let s1 := fetchLines c i pc s
      if badPair r i.op then raise c ⟨1, 0, none, 0⟩ ((prefixAddr r).getD pc) (rptiUndone c s1)
      else if !legalAlone c i then raise c ⟨1, 0, none, 0⟩ own s1
      else if (r.skp.map (·.2)) = some false then setRegs c (goTo nx (noPrefix r)) s1
      else if (i.op = .reti ∨ i.op = .wait) ∧ isPrivileged c r = false then raise c ⟨2, 0, none, 0⟩ pc s1
      else match r.rpt, r.rpti with
        | some x, _ => ctlRepeat c i pc nx x.1 x.2 s1
        | none, some a => ctlIterate c i pc nx a s1
        | none, none => ctlOnce c i k pc nx s1

/-- An instruction on a core of any class. -/
def coreRun (c : CoreId) (op : AOp) (e : Enc) (cc k : Nat) (s : State) : State :=
  match c with
  | .sc n => scRun n ⟨op, e, cc⟩ s
  | _ => ctlRun c ⟨op, e, cc⟩ k s

/-! ### After WAIT (R250) -/

/-- A core in WAIT goes on once an interrupt would be taken with PSW.I taken as 1 (R250). -/
def waitWake (c : CoreId) (s : State) : State :=
  let k := ctlIndex c
  if !isSample c && (s.ctlCore k).st == .wait then
    match takenSource s k with
    | some (l, src) =>
      let s1 := s.setCtl k { s.ctlCore k with st := .run }
      if (regsOf c s).psw.getLsbD 29 then takeInterrupt c l src (regsOf c s).pc s1 else s1
    | none => s
  else s

/-! ### Answers to split reads (R66 to R69) -/

/-- A split read's data returns: the master's earlier posted writes have reached their targets, and the entry is freed
(R66, R68). -/
def splitReturn (i : Nat) (s : State) : State :=
  match s.bus.splits[i]? with
  | none => s
  | some x =>
    let s1 := deliverOf x.master true (s.modBus fun b => { b with splits := b.splits.eraseIdx i })
    let r := if 0x100000000 ≤ x.addr then (some (laneNow s1 (x.addr - 0x100000000)).toNat, s1)
      else busRead ⟨x.master, x.lvl⟩ x.addr x.width s1
    let bad := decide (x.addr < 0x100000000) && eccBad ⟨x.master, x.lvl⟩ x.addr x.width s1
    bankSettle (giveRet x.master ⟨x.addr, false, r.1, bad⟩ r.2)

/-- A split read that has not returned ends with a bus error and frees its entry (R69). -/
def splitTimeout (i : Nat) (s : State) : State :=
  match s.bus.splits[i]? with
  | none => s
  | some x =>
    let s1 := s.modBus fun b => { b with splits := b.splits.eraseIdx i }
    let s2 := logAccess Reg.bridgeStat 1 (masterId x.master) x.width x.addr false s1
    bankSettle (giveRet x.master ⟨x.addr, false, none, false⟩ s2)

end Sys2Proof.Machine
end

