-- ==== Sys2Proof/Machine/DmaRun.lean ====
section
/-! DEFINITION. How the DMA channels move data (chapter 18): beats, lines, fills, swaps and interleaving, and the
fetch and completion of descriptors and of register-mode transfers. -/

namespace Sys2Proof.Machine
open Sys2Proof

/-! ### Beats (R590, R591) -/

/-- The largest beat at an address with `n` bytes left. -/
def beatSize (a n : Nat) : Nat :=
  if touchesRegs a n then 4
  else if a % 8 = 0 ∧ 8 ≤ n then 8
  else if a % 4 = 0 ∧ 4 ≤ n then 4
  else if a % 2 = 0 ∧ 2 ≤ n then 2
  else 1

/-- The beats of `n` bytes from an address: address, size, and offset from the start. -/
def beatsFrom : Nat → Nat → Nat → Nat → List (Nat × Nat × Nat)
  | 0, _, _, _ => []
  | fuel + 1, a, n, off =>
    if n = 0 then []
    else
      let z := beatSize a n
      (a, z, off) :: beatsFrom fuel (a + z) (n - z) (off + z)
def beats (a n : Nat) : List (Nat × Nat × Nat) := beatsFrom n a n 0

/-- Read beats in order, up to the first bus error: the bytes, where the error arose, the state. -/
def readBeats (m : Master) : List (Nat × Nat × Nat) → State → List Byte × Option Nat × State
  | [], s => ([], none, s)
  | b :: bs, s =>
    let r := readNow m b.1 b.2.1 s
    match r.1 with
    | none => ([], some b.1, r.2)
    | some v =>
      let t := readBeats m bs r.2
      (leBytes b.2.1 v ++ t.1, t.2)

/-- One write of a channel: a crossing write is posted, waits for room in the bridge's buffer, and never answers an error
(R573, R592, R602). True if the channel meets a bus error. One of a BARRIER 0 descriptor returns only after the descriptor's status
(R594; assumption 15). -/
def dmaWrite (n : Nat) (m : Master) (a z v : Nat) (s : State) : Bool × State :=
  if crosses s m a then (false, postWrite ⟨m, lvlOf s m, a, z, v⟩ s)
  else
    let r := writeNow m a z v s
    if r.1 then (false, r.2)
    else if (s.dch n).cur.map Desc.barrier == some false then
      (false, r.2.modDch n fun x => { x with late := x.late ++ [(chHead s n, BitVec.ofNat 32 a)] })
    else (true, r.2)

/-- Write the beats whose bytes are at hand, up to the first bus error: bytes written, where the error arose, the
state. -/
def writeBeats (n : Nat) (m : Master) (bytes : List Byte) : List (Nat × Nat × Nat) → State → Nat × Option Nat × State
  | [], s => (0, none, s)
  | b :: bs, s =>
    if bytes.length < b.2.2 + b.2.1 then (0, none, s)
    else
      let r := dmaWrite n m b.1 b.2.1 (leNat ((bytes.drop b.2.2).take b.2.1)) s
      if r.1 then (0, some b.1, r.2)
      else
        let t := writeBeats n m bytes bs r.2
        (b.2.1 + t.1, t.2)

/-! ### Lines (R581 to R587) -/

/-- The source offset that the byte at a destination offset comes from (R585). -/
def swapAt (mode i : Nat) : Nat :=
  match mode with
  | 1 => i ^^^ 1
  | 2 => i ^^^ 3
  | 3 => i ^^^ 2
  | _ => i

/-- The bytes a line writes, from those that stood at its source: in the order of R581 a byte written earlier in the line may
be read later in it (R583); `d` is how far the destination lies above the source, none where it does not matter. -/
def lineBytes (mode : Nat) (d : Option Nat) (src : List Byte) : List Byte :=
  (List.range src.length).foldl (fun out i =>
    let k := swapAt mode i
    let old := (src[k]?).getD 0#8
    let v := match d with
      | some j => if 0 < j ∧ j ≤ k ∧ k - j < i then (out[k - j]?).getD old else old
      | none => old
    out ++ [v]) []

/-- The fill pattern over `n` bytes (R584). -/
def fillBytes (pat : Word) (n : Nat) : List Byte :=
  (List.range n).map fun i => (pat >>> (8 * (i % 4))).setWidth 8

/-- Move `n` bytes between two addresses: bytes written, the error met, the state. A read error leaves written what had
been read whole before it. -/
def moveBytes (ch : Nat) (m : Master) (d : Desc) (src dst len : Nat) (s : State) : Nat × Option (Nat × Nat) × State :=
  let r := if d.fill then (fillBytes d.src len, none, s) else readBeats m (beats src len) s
  let bytes := if d.fill then r.1
    else lineBytes d.swap (if src < dst ∧ !touchesRegs dst len then some (dst - src) else none) r.1
  let w := writeBeats ch m bytes (beats dst len) r.2.2
  (w.1, match w.2.1 with
    | some a => some (2, a)
    | none => r.2.1.map fun a => (1, a), w.2.2)

/-- Elements of an interleaved descriptor, in ascending order of their interleaved address (R586, R587): elements moved,
bytes written, the error met. -/
def moveElems (ch : Nat) (m : Master) (d : Desc) : Nat → Nat → State → (Nat × Nat) × Option (Nat × Nat) × State
  | 0, _, s => ((0, 0), none, s)
  | k + 1, e, s =>
    let E := d.esize
    let p : Int := (e % d.lineCnt : Nat)
    let j : Int := (e / d.lineCnt : Nat)
    let flat : Int := ((e * E : Nat) : Int)
    let src := if d.il = 1 then addr32 ((d.src.toNat : Int) + p * d.sstride.toInt + j * (E : Int))
      else addr32 ((d.src.toNat : Int) + flat)
    let dst := if d.il = 1 then addr32 ((d.dst.toNat : Int) + flat)
      else addr32 ((d.dst.toNat : Int) + p * d.dstride.toInt + j * (E : Int))
    let r := moveBytes ch m d src dst E s
    match r.2.1 with
    | some x => ((0, r.1), some x, r.2.2)
    | none =>
      let t := moveElems ch m d k (e + 1) r.2.2
      ((t.1.1 + 1, r.1 + t.1.2), t.2)

/-- The lines that an interleaved descriptor has whole after so many elements. -/
def planesDone (d : Desc) (moved : Nat) : Nat :=
  let per := d.lineLen / d.esize
  if per * d.lineCnt ≤ moved then d.lineCnt else moved - (per - 1) * d.lineCnt

/-- The lines a descriptor takes, in what the channel counts: an interleaved one is one unit (R599; DEDUCED,
assumption 15), an empty one none. -/
def unitsOf (d : Desc) : Nat := if d.lineLen = 0 then 0 else if d.il ≠ 0 then min 1 d.lineCnt else d.lineCnt

def chMaster (ch : Fin 128) : Master := .dma ch

/-- Move the next line, or the whole of an interleaved descriptor. -/
def moveLine (ch : Fin 128) (d : Desc) (s : State) : State :=
  let n := ch.val
  let x := s.dch n
  if d.il ≠ 0 then
    let r := moveElems n (chMaster ch) d (d.lineCnt * (d.lineLen / d.esize)) 0 s
    r.2.2.modDch n fun y => { y with
      lines := planesDone d r.1.1, xfer := y.xfer + r.1.2, err := r.2.1.map fun e => (e.1, BitVec.ofNat 32 e.2) }
  else
    let l : Int := (x.lines : Nat)
    let r := moveBytes n (chMaster ch) d (addr32 ((d.src.toNat : Int) + l * d.sstride.toInt))
      (addr32 ((d.dst.toNat : Int) + l * d.dstride.toInt)) d.lineLen s
    r.2.2.modDch n fun y => { y with
      lines := if r.1 = d.lineLen then y.lines + 1 else y.lines, xfer := y.xfer + r.1,
      err := r.2.1.map fun e => (e.1, BitVec.ofNat 32 e.2) }

/-- Move every line that is left, until an error or a stop. -/
def moveLines (ch : Fin 128) (d : Desc) : Nat → State → State
  | 0, s => s
  | k + 1, s =>
    let x := s.dch ch.val
    if x.cur.isNone || x.err.isSome then s else moveLines ch d k (moveLine ch d s)

/-- Have all data accesses of what the channel does been issued? -/
def chMoved (x : DmaCh) : Bool :=
  match x.cur with
  | some d => x.err.isSome || decide (unitsOf d = 0) || (if d.il ≠ 0 then decide (0 < x.lines) else decide (d.lineCnt ≤ x.lines))
  | none => false

/-- CH_REMAIN in ring mode: lines left. -/
def chRemain (n : Nat) (s : State) : State :=
  match (s.dch n).cur with
  | some d => s.wrn (Reg.dma n 0x24) (d.lineCnt - (s.dch n).lines)
  | none => s

/-! ### Descriptors (R577 to R580, R588 to R597) -/

/-- A descriptor or transfer becomes the one in progress: its checks come before any access; the address latched where one
fails is open (assumption 15). -/
def chBegin (n : Nat) (d : Desc) (regMode : Bool) (s : State) : State :=
  let code := dmaCheck (chAudio s n) d
  let r := s.draw
  let s1 := if code = 0 then s else r.2
  s1.modDch n fun x => { x with
    cur := some d, regMode := regMode, lines := 0, xfer := 0, err := if code = 0 then none else some (code, r.1) }

/-- Six words of a descriptor, or where the bus error arose. -/
def fetchWords (ch : Fin 128) (a : Nat) : Nat → State → List Word × Option Nat × State
  | 0, s => ([], none, s)
  | k + 1, s =>
    let r := readNow (chMaster ch) a 4 s
    match r.1 with
    | none => ([], some a, r.2)
    | some v =>
      let t := fetchWords ch (a + 4) k r.2
      (BitVec.ofNat 32 v :: t.1, t.2)

/-- A channel stops on a bus error of a fetch (2) or a status write (3) (R608). -/
def chBusStop (n cause a : Nat) (s : State) : State :=
  chCause n cause ((chStop n s).wrn (Reg.dma n 0x38) a)

/-- What the channel makes of a fetched descriptor (R600). -/
def asRequested (s : State) (n : Nat) (d : Desc) : Desc := if chReq s n = 1 then d.forFrame else d

/-- A channel that runs freely issues every data access that is left of its descriptor. -/
def chRunFree (ch : Fin 128) (s : State) : State :=
  let x := s.dch ch.val
  match x.cur with
  | some d => if chReq s ch.val = 0 then moveLines ch d (unitsOf d - (if d.il ≠ 0 then 0 else x.lines)) s else s
  | none => s

/-- DESCRIPTOR_FETCH: the descriptor at HEAD, or the one after it once the current one's last access is issued, which one that runs
freely issues first (R579). -/
def descriptorFetch (ch : Fin 128) (s : State) : State :=
  let n := ch.val
  let s := if chRuns s n && chRing s n then chRunFree ch s else s
  let x := s.dch n
  let next := (chHead s n + 1) % chSize s n
  let go := fun (i : Nat) (put : Desc → State → State) =>
    let r := fetchWords ch (chSlot s n i) 6 s
    match r.2.1 with
    | some a => chBusStop n 2 a r.2.2
    | none => put (asRequested s n (descOf fun k => (r.1[k]?).getD 0#32)) r.2.2
  if chRuns s n && chRing s n then
    if x.cur.isNone then
      if chEmpty s n then s else go (chHead s n) fun d s => chRemain n (chBegin n d false s)
    else if chMoved x && x.ahead.isNone && next != chTail s n then
      go next fun d s => s.modDch n fun x => { x with ahead := some d }
    else s
  else s

/-- The error of a descriptor or transfer is latched. -/
def chLatch (n i : Nat) (s : State) : State :=
  match (s.dch n).err with
  | some (code, a) => (s.wr (Reg.dma n 0x38) a).wrn (Reg.dma n 0x3C) (code + 65536 * i)
  | none => s

/-- With BARRIER every write of the channel is complete before it goes on (R592, R593, R575). -/
def chDelivered (ch : Fin 128) (barrier : Bool) (s : State) : State :=
  if barrier then deliverOf (chMaster ch) true (deliverOf (chMaster ch) false s) else s

/-- A descriptor's status is written, HEAD advances, and its events are set (R580, R596, R597, R610). -/
def chFinish (ch : Fin 128) (d : Desc) (s : State) : State :=
  let n := ch.val
  let x := s.dch n
  let i := chHead s n
  let slot := chSlot s n i
  let code := match x.err with
    | some (c, _) => c
    | none => 0
  let lines := if d.lineLen = 0 ∧ code = 0 then d.lineCnt else x.lines
  let status := (if code = 0 then 64 else 128 + code) + 65536 * lines
  let s := chDelivered ch d.barrier s
  let w := writeNow (chMaster ch) (slot + 0x18) 8 (status + 4294967296 * x.xfer) s
  if !w.1 then chBusStop n 3 (slot + 0x18) w.2
  else
    let s1 := w.2.wrn (Reg.dma n 0x30) ((i + 1) % chSize s n)
    let s2 := chLatch n i s1
    let bits := (if d.ctl.getLsbD 10 then [1] else []) ++ (if d.ctl.getLsbD 11 then [2] else [])
      ++ (if code = 0 then [] else [3]) ++ (if chEmpty s1 n then [4] else [])
    let s3 := chApply n (if bits = [] then s2 else dmaEvent bits n s2)
    match x.ahead with
    | some d1 => chRemain n (chBegin n d1 false (s3.modDch n fun x => { x with ahead := none }))
    | none => (s3.modDch n fun x => { x with cur := none, lines := 0, xfer := 0, err := none }).wrn (Reg.dma n 0x24) 0

/-- DESCRIPTOR_COMPLETION: a channel that runs freely moves what is left first; one paced by a request line completes once
its lines are moved. -/
def descriptorCompletion (ch : Fin 128) (s : State) : State :=
  let n := ch.val
  let x := s.dch n
  match x.cur with
  | none => s
  | some d =>
    if chRuns s n && !x.regMode then
      let s1 := chRunFree ch s
      if chMoved (s1.dch n) then chFinish ch d s1 else s1
    else s

/-- TRANSFER_COMPLETE (R575, R576). -/
def transferComplete (ch : Fin 128) (s : State) : State :=
  let n := ch.val
  let x := s.dch n
  match x.cur with
  | none => s
  | some d =>
    if chRuns s n && x.regMode then
      let s0 := if x.lines = 0 ∧ x.err = none then chBegin n d true s else s
      let s1 := if chReq s n = 0 then moveLines ch d (unitsOf d) s0 else s0
      let y := s1.dch n
      if chMoved y then
        let s2 := ((chDelivered ch true s1).wrn (Reg.dma n 0x24) (d.lineLen - y.xfer)).modDch n fun x => { x with cur := none, regMode := false }
        let r := s2.draw
        let s3 := if y.err.isSome then dmaEvent [3] n (chLatch n (fld r.1 0 12) r.2) else dmaEvent [0] n s2
        s3.modDch n fun x => { x with lines := 0, xfer := 0, err := none }
      else s1
    else s

/-- REQUEST_LINE with line 1: one received frame (R600). -/
def frameLine (ch : Fin 128) (d : Desc) (s : State) : State :=
  let n := ch.val
  match s.net.hostRing with
  | [] => s
  | f :: t =>
    let b := frameBytes f { s with net := { s.net with hostRing := t } }
    let len := min f.len d.lineLen
    let w := writeBeats n (chMaster ch) (b.1.take len) (beats d.dst.toNat len) b.2
    let r := w.2.2.draw
    let tooLong := decide (d.lineLen < f.len)
    (if tooLong then r.2 else w.2.2).modDch n fun y => { y with
      lines := 1, xfer := f.len,
      err := match w.2.1 with
        | some a => some (2, BitVec.ofNat 32 a)
        | none => if tooLong then some (7, r.1) else none }

/-- REQUEST_LINE (R598, R599): while its line is asserted, a channel at a line boundary moves one line. -/
def requestLine (ch : Fin 128) (s : State) : State :=
  let n := ch.val
  let x := s.dch n
  match x.cur with
  | none => s
  | some d =>
    let q := chReq s n
    if chRuns s n && q != 0 && lineAsserted s q then
      let s0 := if x.regMode ∧ x.lines = 0 ∧ x.err = none then chBegin n d true s else s
      if chMoved (s0.dch n) then s0
      else
        let s1 := if q = 1 then frameLine ch d s0 else moveLine ch d s0
        if x.regMode then s1.wrn (Reg.dma n 0x24) (d.lineLen - (s1.dch n).xfer) else chRemain n s1
    else s

end Sys2Proof.Machine
end

