-- ==== Sys2Proof/Machine/HostPort.lean ====
section
/-! DEFINITION. Accesses by the masters that are no cores: a register access as a command of its own, and the host SPI
port's reads and writes (chapters 2 and 20). -/

namespace Sys2Proof.Machine
open Sys2Proof

def widthBytes : Width → Nat
  | .byte => 1
  | .half => 2
  | .word => 4
  | .dword => 8

/-- A write command: a master writes the low bytes of a value at an address. -/
def regAccess (m : Master) (a : Nat) (w : Width) (v : BitVec 64) (s : State) : State :=
  (masterWrite m a (widthBytes w) (v.toNat % 2 ^ (8 * widthBytes w)) s).2

/-- A write command that is the arrival of its write at the table it names (R192, R332; assumption 27). -/
def regArrive (m : Master) (a : Nat) (w : Width) (v : BitVec 64) (s : State) : State :=
  (arriveWrite m a (widthBytes w) (v.toNat % 2 ^ (8 * widthBytes w)) s).2

/-- A read command: what the master is answered, and what the read leaves behind. -/
def regFetch (m : Master) (a : Nat) (w : Width) (s : State) : State :=
  let r := readNow m a (widthBytes w) s
  r.2.modBus fun b => { b with answer := r.1.map (BitVec.ofNat 64) }

/-! ### The host SPI port (R666 to R671) -/

/-- A bus error of the port: its address is latched and a status bit set. -/
def hsError (write : Bool) (a : Word) (s : State) : State :=
  pulse 240 ((s.wr Reg.hsErrAddr a).modHs fun h => if write then { h with wrErr := true } else { h with rdErr := true })

/-- The word reads of a READ: the words, whether all answered, the state. -/
def hsReads (step : Nat) (a : Word) : Nat → State → List Word × Bool × State
  | 0, s => ([], true, s)
  | k + 1, s =>
    let r := readNow .hostSpi a.toNat 4 s
    let s1 := if r.1.isNone then hsError false a r.2 else r.2
    let t := hsReads step (a + BitVec.ofNat 32 step) k s1
    (BitVec.ofNat 32 (r.1.getD 0) :: t.1, r.1.isSome && t.2.1, t.2.2)

/-- READ and READ_FIXED: the marker and the words, or the error marker alone (R667, R669). `cut` is the number of reads that
had been made when HSPI_CS_N rose, of a transaction ended before its marker: their data are discarded, and the others are
not made (R671). Without both sides of crossing 15 ready, the command finds no way in, or its data none back (R92). -/
def hostRead (step : Nat) (a : Word) (count : Nat) (cut : Option Nat) (s : State) : State :=
  if !hsLives s then s
  else if !tget false s.bus.readyFar 4 then xingDropped 4 s
  else if !hsArgsOk a count then hsProto s
  else if !tget false s.bus.readyNear 4 then s
  else
    let r := hsReads step a ((cut.map (min count)).getD count) s
    r.2.2.modHs fun h => { h with
      answer := if cut.isSome then [] else if r.2.1 then 0xA5#32 :: r.1 else [0x5A#32] }

/-- The oldest word of the write FIFO is written (R668); a fabric side that is not ready finds the FIFO empty (R92). -/
def hostWordWrite (s : State) : State :=
  if !tget false s.bus.readyNear 4 then s
  else match s.ports.hs.fifo with
  | [] => s
  | (a, v) :: t =>
    let r := masterWrite .hostSpi a.toNat 4 v.toNat (s.modHs fun h => { h with fifo := t })
    if r.1 then r.2 else hsError true a r.2

end Sys2Proof.Machine
end

