-- ==== Sys2Proof/Machine/Boot.lean ====
section
/-! DEFINITION. The Warden's boot (chapters 23 and 24): slots and their state, the order of copies, the attempts on the
images, handover, recovery, and the plan's load at a cold boot. -/

namespace Sys2Proof.Machine
open Sys2Proof

/-! ### Slot-state records (R801 to R805) -/

def slotCode : SlotSt → Nat
  | .empty => 0
  | .writing => 1
  | .pending => 2
  | .confirmed => 3
  | .failed => 4
def slotOf (v : Nat) : SlotSt :=
  match v with
  | 1 => .writing
  | 2 => .pending
  | 3 => .confirmed
  | 4 => .failed
  | _ => .empty

/-- The 64 bytes of a slot-state record. -/
def slotBytes (r : SlotRec) : List Byte :=
  let b := leBytes 4 r.seq.toNat ++ leBytes 1 (if r.activeB then 2 else 1) ++ leBytes 1 (slotCode r.stA)
    ++ leBytes 1 (slotCode r.stB) ++ leBytes 1 r.trials ++ leBytes 4 r.buildA.toNat ++ leBytes 4 r.buildB.toNat
    ++ (List.range 6).flatMap (fun k => leBytes 4 ((r.svnMin[k]?).getD 0)) ++ leBytes 8 r.openCeil ++ leBytes 8 r.anvCeil
    ++ leBytes 4 0
  b ++ leBytes 4 (crc32 b)

/-- The record that 64 bytes hold, if its CRC is good. -/
def slotRecord (b : List Byte) : Option SlotRec :=
  if le b 0x3C 4 = crc32 (b.take 0x3C) then
    some { seq := BitVec.ofNat 32 (le b 0 4), activeB := decide (le b 4 1 = 2), stA := slotOf (le b 5 1),
           stB := slotOf (le b 6 1), trials := le b 7 1, buildA := BitVec.ofNat 32 (le b 8 4),
           buildB := BitVec.ofNat 32 (le b 0xC 4), svnMin := (List.range 6).map fun k => le b (0x10 + 4 * k) 4,
           openCeil := le b 0x28 8, anvCeil := le b 0x30 8 }
  else none

def slotLine (seq : Nat) : Nat := 0x50610000 + 64 * (seq % 256)

/-- The current record: good, with the largest SEQ. -/
def currentSlot (s : State) : Option SlotRec :=
  ((List.range 256).filterMap fun k => slotRecord (memBytes s.mem (slotLine k) 64)).foldl (fun best r =>
    match best with
    | some x => if x.seq.toNat < r.seq.toNat then some r else some x
    | none => some r) none

/-- One new record with SEQ one above the current (R802). -/
def slotWrite (f : SlotRec → SlotRec) (s : State) : State :=
  let r := { f s.ward.slot with seq := s.ward.slot.seq + 1#32 }
  (s.mwrBytes (slotLine r.seq.toNat) (slotBytes r)).modWard fun w => { w with slot := r }

def stateOf (r : SlotRec) (b : Bool) : SlotSt := if b then r.stB else r.stA
def setStateOf (b : Bool) (x : SlotSt) (r : SlotRec) : SlotRec := if b then { r with stB := x } else { r with stA := x }

/-- The PENDING slot, if there is one: true for B. -/
def pendingSlot (r : SlotRec) : Option Bool :=
  if r.stA = .pending then some false else if r.stB = .pending then some true else none

def copyOf (b : Bool) : CopyId := if b then .slotB else .slotA

/-- Flash first and flash second (R805). -/
def flashOrder (r : SlotRec) : List CopyId :=
  match pendingSlot r with
  | some b =>
    if 0 < r.trials then [copyOf b, copyOf r.activeB]
    else copyOf r.activeB :: (if stateOf r (!r.activeB) = .confirmed then [copyOf !r.activeB] else [])
  | none => copyOf r.activeB :: (if stateOf r (!r.activeB) = .confirmed then [copyOf !r.activeB] else [])

/-- The copy order of a boot selection (R758, R759). -/
def copyOrder (sel : Nat) (r : SlotRec) : List CopyId :=
  match sel with
  | 1 => flashOrder r ++ [.k]
  | 2 => flashOrder r
  | 3 => [.k, .network]
  | 4 => [.network]
  | 7 => []
  | _ => .k :: flashOrder r

/-- The selection that R758 takes. -/
def selectionOf (s : State) (straps : Nat) : Nat :=
  let l := s.ward.fuses.bootLock.toNat
  if 8 ≤ l then l % 8 else straps

/-! ### Directories and copies (R796 to R799) -/

/-- `n` bytes of a slot-format set, from an offset in it. -/
def copyBytes (s : State) (c : CopyId) (off n : Nat) : List Byte :=
  match c with
  | .slotA => memBytes s.flash off n
  | .slotB => memBytes s.flash (0x400000 + off) n
  | _ => memBytes s.mem (0x50700000 + off) n

def copySize : CopyId → Nat
  | .slotA | .slotB => 0x400000
  | _ => 0x100000

/-- A directory with a good MAGIC, FORMAT, COUNT and CRC. -/
def dirGood (d : List Byte) : Bool :=
  cut d 0 4 == bytesOf [0x44, 0x5A, 0x53, 0x44] && le d 4 2 == 1 && decide (1 ≤ le d 6 1 ∧ le d 6 1 ≤ 5)
    && decide (le d 0xFC 4 = crc32 (d.take 0xFC))

/-- The entries of a kind: offset and length. -/
def dirEntries (d : List Byte) (k : ImageKind) : List (Nat × Nat) :=
  (List.range (le d 6 1)).filterMap fun e =>
    if le d (0x10 + 16 * e) 1 = kindNo k then some (le d (0x14 + 16 * e) 4, le d (0x18 + 16 * e) 4) else none

/-- The image of a kind in a slot-format set read by `rd`: the bytes, or the cause for which the copy does not exist (R799). -/
def imageIn (rd : Nat → Nat → List Byte) (size : Nat) (k : ImageKind) : List Byte × Nat :=
  let d := rd 0 256
  if !dirGood d then ([], 2)
  else match dirEntries d k with
    | [] => ([], 1)
    | [(off, len)] =>
      if off % 64 = 0 ∧ 64 ≤ len ∧ off + len ≤ size ∧ le (rd off 64) 0xC 4 = len then (rd off len, 0) else ([], 2)
    | _ => ([], 2)

/-- The causes SOURCE to DECRYPT for a kind in a slot-format set (R812). -/
def setCause (s : State) (rd : Nat → Nat → List Byte) (size : Nat) (k : ImageKind) : Nat :=
  let b := imageIn rd size k
  if b.2 ≠ 0 then b.2 else imageCause s k b.1

def fiveKinds : List ImageKind := [.stage1, .tenant, .preset, .control, .engine]

/-- The first failing cause of a set, 0 for none. -/
def setCheck (s : State) (rd : Nat → Nat → List Byte) (size : Nat) : Nat :=
  (fiveKinds.findSome? fun k => let c := setCause s rd size k; if c = 0 then none else some c).getD 0

/-! ### The start of a cold boot (R753, R758, R760, R782, R803, R806) -/

def keyPut (i : Nat) (k : List Byte) (s : State) : State :=
  s.modWard fun w => { w with keys := tset [] w.keys i k }

/-- The keybox slots that the fuses give (R753). -/
def fuseKeys (s : State) : State :=
  let f := s.ward.fuses
  keyPut 4 (Config.hmac f.kDev (bytesOf [0x44, 0x5A, 0x53, 0x45]))
    (keyPut 3 (Config.hmac f.kImgf (bytesOf [0x44, 0x5A, 0x52, 0x49]))
      (keyPut 2 f.kDev (keyPut 1 (Config.hmac f.kImgf (bytesOf [0x44, 0x5A, 0x42, 0x49])) (keyPut 0 f.kImgf s))))

/-- The current slot record, or the one that stands where none is good (R803). -/
def loadSlot (s : State) : State :=
  match currentSlot s with
  | some r => s.modWard fun w => { w with slot := r }
  | none =>
    bootRecord 5 ((s.mwrBytes (slotLine 0) (slotBytes .default)).modWard fun w => { w with slot := .default })

/-- A PENDING slot found with TRIALS at 0 is written FAILED (R806). -/
def spentTrial (s : State) : State :=
  match pendingSlot s.ward.slot with
  | some b => if s.ward.slot.trials = 0 then bootRecord 4 (slotWrite (setStateOf b .failed) s) else s
  | none => s

/-- The ROM and CONFIG measurements: how CONFIG's digest takes the option rows, the selection and the copy order together is
not stated, nor the fields of a block that no image gives (assumption 13). -/
def romMeasures (s : State) : State :=
  let d := drawBytes 8 s
  let l := d.2.draw
  measure 0 ⟨2, 0xFF, 0xFF, 0, 0, l.1.toNat, d.1⟩ (measure 0 ⟨1, 0xFF, 0xFF, 0, 0, 0x10000, Config.romDigest⟩ l.2)

/-- COLD_BOOT: what comes between the trim load and the first attempt. -/
def coldBoot (straps : Nat) (s : State) : State :=
  if s.power.trimDone && !s.power.held && decide (s.ward.stage = 1) then
    let s1 := fuseKeys (releaseWrite 1 s)
    if s1.bit Reg.recov 0 then
      let s2 := loadSlot (s1.wrb Reg.recov 0 false)
      s2.modWard fun w => { w with
        stage := 3, order := [], tried := 0, anv := { w.anv with chalCnt := w.slot.anvCeil } }
    else
      let s2 := spentTrial (loadSlot s1)
      let sel := selectionOf s2 straps
      let s3 := romMeasures s2
      (s3.modWard fun w => { w with
          selection := sel, order := copyOrder sel w.slot, tried := 0, trialTaken := false, stage := 3,
          anv := { w.anv with chalCnt := w.slot.anvCeil } }).modRil fun r => { r with
        openCnt := s3.ward.slot.openCeil, ceiling := s3.ward.slot.openCeil }
  else s

/-! ### Outcomes of an attempt (R766, R768, R775, R807) -/

/-- The boot stage at which a kind is sought. -/
def stageFor : ImageKind → Nat
  | .stage1 => 3
  | .tenant => 4
  | .preset => 5
  | .plan => 6
  | .engine => 7
  | .control => 8

/-- The copy that is tried next for a kind, in the stage at hand. -/
def nextCopy (s : State) (k : ImageKind) : Option CopyId :=
  if s.ward.stage = stageFor k ∧ s.ward.recovery = false ∧ s.ward.engTry = none ∧ s.msg.loadDue = false then
    (if k = .plan then some .keepPlan else s.ward.order[s.ward.tried]?)
  else none

def isPendingCopy (s : State) (c : CopyId) : Bool := (pendingSlot s.ward.slot).map copyOf == some c

/-- The blocks that a cold boot enables, in order (R774): ENG, SAFE, WELD, TONE, BRDG, QNCH, TDM, SENSE, MSG, EVT. -/
def bootEnables (s : State) : State :=
  [2, 3, 4, 5, 6, 7, 8, 12, 13, 14].foldl (fun s k => (busWrite ⟨.warden, .secure⟩ (slotBase k + 4 + 0x100000) 4 1 s).2) s

/-- An attempt fails with a cause (R766, R773, R807, R808). -/
def attemptFails (k : ImageKind) (c : CopyId) (cause : Nat) (s : State) : State :=
  let s1 := s.modWard fun w => { w with
    cause := cause, causeStage := w.stage, copy := copyNo c, attempts := w.attempts + 1, failed := w.failed + 1,
    tried := w.tried + 1, xfer := none, engTry := none }
  if k = .plan then
    let s2 := bootRecord 5 (forceFault (s1.wrb Reg.planStat 0 false))
    (bootEnables s2).modWard fun w => { w with stage := 7, tried := 0 }
  else
    let s2 := bootRecord 4 s1
    if isPendingCopy s2 c then slotWrite (setStateOf (c == .slotB) .failed) s2 else s2

/-- An image passes: it is the one of the running boot, and it is measured (R768, R781). -/
def attemptPasses (k : ImageKind) (m : Meas) (img : BootImg) (s : State) : State :=
  (measure (measType k).2 m s).modWard fun w => { w with
    imgs := tset none w.imgs (kindNo k) (some img), attempts := w.attempts + 1, tried := 0, stage := stageFor k + 1,
    xfer := none, engTry := none }

def bootImg (k : ImageKind) (c : CopyId) (b : List Byte) : BootImg :=
  ⟨c, imgKey k b, imgSvn k b, imgBuild b, BitVec.ofNat 32 (le b 0x10 4), BitVec.ofNat 32 (le b 0x14 4),
    BitVec.ofNat 32 (le b 0x3C 4)⟩

/-! ### Staging a graph image (R365, R367, R368, R371, R771) -/

/-- Write a byte string into a table of words. -/
def putTable (a : Nat) (b : List Byte) (s : State) : State :=
  (b.foldl (fun (x : State × Nat) v =>
    let w := x.2 - x.2 % 4
    (x.1.wr w (setFld (x.1.rd w) (8 * (x.2 % 4)) 8 v.toNat), x.2 + 1)) (s, a)).1

/-- Where a section of a program or of coefficients lands: in the bank that the core's staged record names (R365). -/
def sectionAt (s : State) (x : Section) : Nat :=
  if x.type = 1 then scBase x.core + (if (stagedCfg s x.core).getLsbD 4 then 0x6000 else 0) + x.dest
  else coefBase x.core ((stagedWordOf s x.core 0x4C).getLsbD 4) + x.dest

/-- The Warden writes one section to its staging target, with the bytes it has in the clear: bus writes of the Warden, as
one write each (R161, R193, R194, R368; assumption 28). -/
def stageSection (x : Section) (body : List Byte) (s : State) : State :=
  match x.type with
  | 1 | 2 => if body = [] then s else windowWrite ⟨.warden, .secure⟩ (sectionAt s x) body.length (leNat body) s
  | 3 => putTable (0x3C380000 + 0x100 * x.core + x.dest) body (stageWritten s)
  | 4 => putTable (0x3C300000 + 0x8000 * x.core + x.dest) body (stageWritten s)
  | _ => s

/-- Write the sections of the types that `only` names, `plain` being the PROG and COEF sections in the clear. -/
def stageImage (b plain : List Byte) (only : Nat → Bool) (s : State) : State :=
  ((sections b).foldl (fun (acc : State × Nat) x =>
    let code := x.type == 1 || x.type == 2
    let body := if code then cut plain acc.2 x.len else cut b x.off x.len
    (if only x.type && decide (x.core < 16) then stageSection x body acc.1 else acc.1,
      if code then acc.2 + x.len else acc.2)) (s, 0)).1

/-- The tables first, for they name the banks of the rest. -/
def stageWhole (b plain : List Byte) (s : State) : State :=
  stageImage b plain (fun t => t == 1 || t == 2) (stageImage b plain (fun t => t == 3 || t == 4) s)

/-- A state in which nothing is staged: no record, no line map, every program bank zero, every core halted. -/
def unstaged (s : State) : State :=
  let s1 : State := { s with
    regs := s.regs.filter fun x => decide (x.1 < 0x3C300000 ∨ 0x3C381000 ≤ x.1)
    eng := { s.eng with sc := [] } }
  (List.range 16).foldl (fun s n => s.mclr (scBase n) (scBase n + 0xC000)) (s1.wr Reg.engRun 0#32)

/-- The staged record and the staged line map of a core, as stored words. -/
def stagedTables (s : State) (n : Nat) : List (Nat × Word) :=
  s.regs.filter fun x => decide ((Reg.stagedCore n 0 ≤ x.1 ∧ x.1 < Reg.stagedCore (n + 1) 0)
    ∨ (Reg.stagedLine n 0 0 ≤ x.1 ∧ x.1 < Reg.stagedLine (n + 1) 0 0))

/-- The program bank that a core's staged record names. -/
def stagedProgram (s : State) (n : Nat) : List Host.Cell :=
  let a := scBase n + (if (stagedCfg s n).getLsbD 4 then 0x6000 else 0)
  s.mem.filter fun x => decide (a ≤ x.1 ∧ x.1 < a + 0x6000)

/-- Does every byte that the image gives a named program bank stand in it? -/
def givenAgrees (s : State) (b plain : List Byte) : Bool :=
  ((sections b).foldl (fun (acc : Bool × Nat) x =>
    (acc.1 && (x.type != 1 || decide (16 ≤ x.core) || memBytes s.mem (sectionAt s x) x.len == cut plain acc.2 x.len),
      if x.type = 1 ∨ x.type = 2 then acc.2 + x.len else acc.2)) (true, 0)).1

/-- The staged content of the cores of CORE_MASK against what the image gives for it (R367): the records and the line maps
whole, a word that the image does not give as 0; of a named program bank what the image gives, and whether the digest
counts a remainder that is not zero is open (assumption 13). -/
def stagedAgrees (b plain : List Byte) (s : State) : Bool × State :=
  let want := stageWhole b plain (unstaged s)
  let ns := bitsOf 16 (le b 0x20 2)
  if (ns.all fun n => stagedTables s n == stagedTables want n) && givenAgrees s b plain then
    if ns.all fun n => stagedProgram s n == stagedProgram want n then (true, s)
    else (s.draw.1.getLsbD 0, s.draw.2)
  else (false, s)

/-! ### Installing (R767 to R772, R777) -/

/-- A tenant table body that passes R769. -/
def tenantOk (s : State) (b : List Byte) : Bool :=
  let zero := fun (l : List Byte) => l.all (· == 0#8)
  decide (b.length = 128) && decide (le b 0 2 = 1) && zero (cut b 2 6) && zero (cut b 88 40)
    && (zero (cut b 8 16) || cut b 8 16 == s.ward.fuses.serial)

/-- A PRESET body's entries: address and value. -/
def presetEntries (b : List Byte) : List (Nat × Nat) :=
  (List.range (b.length / 8)).map fun i => (le b (8 * i) 4, le b (8 * i + 4) 4)

/-- May a PRESET entry name this address (R770)? -/
def presetAddr (a : Nat) : Bool :=
  a % 4 == 0 && (decide (0x3C000000 ≤ a ∧ a < 0x3D000000)
    || (decide (0x40000000 ≤ a ∧ a < 0x40400000) && a / 0x10000 % 16 != 0))

/-- Sequence numbers that a refused write moves: logged accesses, refused writes of the slot, SAFE's and ENG's events. -/
def refusalMarks (s : State) (a : Nat) : List (BitVec 16) :=
  [Reg.accFault, Reg.privFault, slotBase (a / 0x10000 % 16) + 0xC, Reg.safeEvt, Reg.engEvt, Reg.weldEvt].map fun x =>
    (s.sq x).seq

/-- The Warden writes one PRESET entry; an entry in the AON slot waits for the one before it to land (R52, R53). -/
def presetWrite (s : State) (e : Nat × Nat) : State :=
  let s0 := if regionOf e.1 = .slots ∧ e.1 / 0x10000 % 16 = 1 then scLanded s else s
  let r := busWrite ⟨.warden, .secure⟩ e.1 4 e.2 s0
  if r.1 && refusalMarks s0 e.1 == refusalMarks r.2 e.1 then r.2
  else bootRecord 3 (r.2.wrn 0xE0000018 (min 0xFFFF ((r.2.rd 0xE0000018).toNat + 1)))

/-- Handover (R777). -/
def handover (s : State) : State :=
  let s1 := (submitHeld s).modWard fun w => { w with stage := 9, freeze := w.freeze ||| 0x5F#8, keylock := true }
  releaseWrite 0x1E8E00 s1

/-- What an image that has passed SOURCE to DECRYPT does, its body in the clear: none fails CONTENT. -/
def install (k : ImageKind) (c : CopyId) (b : List Byte) (s : State) : Option State :=
  let img := bootImg k c b
  let m := imgMeas (measType k).1 (copyNo c) k b
  let body := (if isJoeno k then joenoPlain s b else bootBody s b).getD []
  match k with
  | .stage1 =>
    let s1 := attemptPasses k m img (s.mwrBytes img.load.toNat body)
    some (s1.setCtl 4 { s1.ctlCore 4 with r := { (s1.ctlCore 4).r with pc := (img.load + img.entry) &&& 0xFFFFFFFE#32 } })
  | .tenant =>
    if tenantOk s body then
      let s1 := keyPut 5 (cut body 56 32) (keyPut 8 (cut body 24 32) s)
      let s2 := attemptPasses k m img (s1.modTenant 0 fun t => { t with st := .active })
      some (releaseWrite 0x171FC s2)
    else none
  | .preset =>
    let es := presetEntries body
    if body.length % 8 = 0 ∧ (es.all fun e => presetAddr e.1) = true then
      some (attemptPasses k m img (es.foldl presetWrite s))
    else none
  | .plan => some ((attemptPasses k m img s).modMsg fun x => { x with loadDue := true })
  | .engine =>
    if le b 9 1 / 2 % 2 = 1 then none
    else
      let v := stagedAgrees b body (stageWhole b body s)
      if v.1 then some ((armSwap (setVerified b v.2)).modWard fun w => { w with engTry := some (m, img) })
      else none
  | .control =>
    let s1 := attemptPasses k m img (s.mwrBytes img.load.toNat body)
    some (handover ((List.range 4).foldl (fun s n => s.wr (Reg.ccStart n) (img.load + img.entry)) s1))

/-- What an attempt that fails CONTENT leaves: an ENGINE image that was staged whole stays staged. -/
def contentLeft (k : ImageKind) (b : List Byte) (s : State) : State :=
  if k = .engine ∧ le b 9 1 / 2 % 2 = 0 then
    let body := (joenoPlain s b).getD []
    (stagedAgrees b body (stageWhole b body s)).2
  else s

/-- What an attempt reads of the Keep, as addresses and lengths. -/
def attemptReads (s : State) (k : ImageKind) (c : CopyId) : List (Nat × Nat) :=
  match c with
  | .keepPlan => [(keepBase, (planBytes s).length)]
  | .k => (0x50700000, 256) :: (dirEntries (copyBytes s c 0 256) k).map fun e => (0x50700000 + e.1, e.2)
  | _ => []

/-- Bytes that an attempt reads, or the cause for which it fails at once: SOURCE for an uncorrectable ECC error (R766). -/
def attemptBytes (s : State) (k : ImageKind) (c : CopyId) : List Byte × Nat :=
  if (attemptReads s k c).any fun r => (eccHit s r.1 r.2).2 then ([], 1)
  else match c with
  | .keepPlan => (planBytes s, 0)
  | .network | .anvil => ((s.ward.xfer.map (·.got)).getD [], 0)
  | c => imageIn (copyBytes s c) (copySize c) k

/-- An attempt on bytes at hand. -/
def attempt' (k : ImageKind) (c : CopyId) (s0 : State) : State :=
  let s := (attemptReads s0 k c).foldl (fun s r => keepNoted r.1 r.2 s) s0
  let b := attemptBytes s k c
  let cause := if b.2 ≠ 0 then b.2 else imageCause s k b.1
  if cause ≠ 0 then attemptFails k c cause s
  else match install k c b.1 s with
    | some s1 => s1
    | none => attemptFails k c 9 (contentLeft k b.1 s)

/-! ### Transfers (R817, R818) -/

/-- A transfer message (R817). -/
def xmsg (op arg off count : Nat) (seq : BitVec 16) (body : List Byte) : List Byte :=
  bytesOf [0x44, 0x54, op, arg] ++ leBytes 4 off ++ leBytes 2 count ++ leBytes 2 body.length ++ leBytes 2 seq.toNat
    ++ leBytes 2 0 ++ body

/-- A message to the Anvil host. -/
def anvSend (m : List Byte) (s : State) : State :=
  s.modWard fun w => { w with anv := { w.anv with toHost := w.anv.toHost ++ m } }

/-- The kinds as transfer messages number them (R817). -/
def xferKind : ImageKind → Nat
  | .stage1 => 1
  | .tenant => 2
  | .preset => 3
  | .control => 4
  | .engine => 5
  | .plan => 6

/-- The option rows for network boot: 34 the part's IPv4 address, 35 its netmask, 36 the boot server (R856). -/
def optionRow (s : State) (r : Nat) : Word := s.rd (0x40000800 + 4 * r)

/-- The outstanding ASK leaves: on the Anvil port, or to the boot server (R761, R818). -/
def askSend (s : State) : State :=
  match s.ward.xfer with
  | none => s
  | some x =>
    let m := xmsg 1 (xferKind x.kind) x.off x.count x.seq s.ward.fuses.serial
    if x.anvil then anvSend m s
    else
      sendIp (optionRow s 36) 0 none (m.length + 46) (.udp (ownIp s) (optionRow s 36) 47131 47131 m) s

/-- The transfer's next ASK: the first 64 bytes, then chunks of at most 1024. -/
def askNext (x : Xfer) (s : State) : State :=
  let total := if x.got.length < 64 then 64 else le x.got 0xC 4
  let n := if x.got.length < 64 then 64 else min 1024 (total - x.got.length)
  askSend (s.modWard fun w => { w with
    askSeq := w.askSeq + 1#16, xfer := some { x with seq := w.askSeq + 1#16, off := x.got.length, count := n } })

/-- Has a transfer its whole image? -/
def xferWhole (x : Xfer) : Bool := decide (64 ≤ x.got.length) && decide (le x.got 0xC 4 ≤ x.got.length)

/-- A transfer begins. -/
def xferStart (anvil : Bool) (k : ImageKind) (target : Option RecoverTarget) (reqSeq : BitVec 16)
    (drawn : List (ImageKind × List Byte)) (s : State) : State :=
  askNext ⟨anvil, k, [], 0#16, 0, 0, target, reqSeq, drawn⟩ s

/-- The Warden releases the network block and runs its ports as a ring under the address of the option rows (R761). -/
def netBoot (s : State) : State :=
  let s1 := releaseWrite 0x200 s
  let s2 := (s1.wrf Reg.netMode 0 2 2).wrb 0x40090004 0 true
  (s2.wr Reg.netIp (optionRow s 34)).wr 0x40090044 (optionRow s 35)

/-- IMAGE_ATTEMPT: the copy whose turn it is. A network copy begins with its transfer, and is checked once that has brought
it whole. -/
def imageAttempt (k : ImageKind) (c : CopyId) (s : State) : State :=
  if nextCopy s k = some c then
    let s1 := if isPendingCopy s c && !s.ward.trialTaken && decide (s.ward.slot.trials ≠ 0) then
        (slotWrite (fun r => { r with trials := r.trials - 1 }) s).modWard fun w => { w with trialTaken := true }
      else s
    if c = .network then
      match s1.ward.xfer with
      | none =>
        if optionRow s1 34 = 0#32 ∨ optionRow s1 36 = 0#32 then attemptFails k c 1 s1
        else xferStart false k none 0#16 [] (netBoot s1)
      | some x => if xferWhole x then attempt' k c s1 else s1
    else attempt' k c s1
  else s

/-- BOOT_TIMEOUT: the attempt under way fails with TIMEOUT (R766). -/
def bootTimeout (k : ImageKind) (c : CopyId) (s : State) : State :=
  let waiting := k == .engine && s.ward.engTry.isSome && s.ward.order[s.ward.tried]? == some c
  if nextCopy s k = some c ∨ waiting then attemptFails k c 10 (if waiting then cancelSwap s else s) else s

/-- NETWORK_COPY_TIMEOUT (R761). -/
def networkTimeout (k : ImageKind) (s : State) : State :=
  if nextCopy s k = some .network ∧ s.ward.xfer.isSome then attemptFails k .network 1 s else s

/-- The armed swap of an ENGINE attempt has been decided at its hinge (R771). -/
def engineDecided (s : State) : State :=
  match s.ward.engTry with
  | some (m, img) =>
    if s.eng.armed then s
    else if s.eng.swapResult = 1 then attemptPasses .engine m img s
    else attemptFails .engine img.copy 9 s
  | none => s

/-- PLAN_LOAD: the plan loader; at a cold boot the audio blocks are enabled immediately before (R712, R774). -/
def planLoad (s : State) : State :=
  if s.msg.loadDue then planApply (if s.modes.booting && decide (s.ward.stage = 7) then bootEnables s else s) else s

/-! ### Recovery (R775, R832, R833) -/

/-- The boot has nothing left to try. -/
def exhausted (s : State) : Bool :=
  decide (3 ≤ s.ward.stage ∧ s.ward.stage ≤ 8 ∧ s.ward.stage ≠ 6) && !s.ward.recovery && s.ward.engTry.isNone
    && decide (s.ward.order.length ≤ s.ward.tried)

/-- RECOVERY_LOADER: the ROM recovery loader starts. -/
def recoveryLoader (s : State) : State :=
  if exhausted s then
    let s1 := s.modWard fun w => { w with keylock := true, recovery := true, stage := 14, xfer := none }
    forceFault (measure 7 ⟨13, 0xFF, 0xFF, 0, 0, 0, List.replicate 32 0#8⟩ s1)
  else s

end Sys2Proof.Machine
end

