-- ==== Sys2Proof/Machine/Slots.lean ====
section
/-! DEFINITION. What the Warden serves at run time and in recovery (chapters 23 and 24): the mailbox, slot updates, floors and
revocations; the Anvil port, its sessions, debug access and recoveries; JTAG and flash programming. -/

namespace Sys2Proof.Machine
open Sys2Proof

namespace Reg
def flashWp : Nat := 0xE0000300
def anvGrant : Nat := 0xE0000304
def flashWpEvt : Nat := 0x40000614
def flashWpAddr : Nat := 0x40000618
end Reg

/-- The Warden serves the mailbox and the dictionary: after handover, awake. -/
def wardenServes (s : State) : Bool :=
  decide (9 ≤ s.ward.stage ∧ s.ward.stage ≤ 10) && !s.ward.recovery && s.modes.sleep == .awake && !s.power.held

/-- A result of a Warden command (R789) and the state after it. -/
abbrev Done := Nat × State
def refusedCmd (s : State) : Done := (33, s)

/-! ### Arguments (R789, R811) -/

/-- Does an address lie in the Hearth, the Keep or the flash window? -/
def argOk (a : Nat) : Bool := regionOf a == .hearth || regionOf a == .keep || regionOf a == .flash

/-- Where the region of an address ends. -/
def regionEnd (a : Nat) : Nat :=
  match regionOf a with
  | .hearth => 0x20200000
  | .keep => 0x50800000
  | _ => 0x70000000

/-- `n` bytes at an argument address. -/
def argBytes (s : State) (a n : Nat) : List Byte :=
  if regionOf a = .flash then memBytes s.flash (flashOff s a) n else memBytes s.mem a n

def argWord (s : State) (a : Nat) : Nat := leNat (argBytes s a 4)

/-- The image at an argument address, as long as it says; none where it would run past its region. -/
def argImage (s : State) (a : Nat) : Option (List Byte) :=
  let n := le (argBytes s a 64) 0xC 4
  if a + 64 ≤ regionEnd a ∧ a + n ≤ regionEnd a then some (argBytes s a n) else none

/-! ### The running boot -/

def runningImg (s : State) (k : ImageKind) : Option BootImg := tget none s.ward.imgs (kindNo k)

/-- Did a copy supply an image of the running boot? -/
def suppliedAny (s : State) (c : CopyId) : Bool := fiveKinds.any fun k => (runningImg s k).map (·.copy) == some c
def suppliedAll (s : State) (c : CopyId) : Bool := fiveKinds.all fun k => (runningImg s k).map (·.copy) == some c

/-- SVN_MIN of a kind is raised, never lowered (R810). -/
def raiseSvn (k : ImageKind) (v : Nat) (r : SlotRec) : SlotRec :=
  { r with svnMin := (List.range 6).map fun i =>
      if i = svnPlace k then max ((r.svnMin[i]?).getD 0) v else (r.svnMin[i]?).getD 0 }

def inEvacuate (s : State) : Bool := s.modes.mode == .evacuate

/-- Open or close the write window of a slot (R800). -/
def slotWindow (b on : Bool) (s : State) : State := s.wrb Reg.flashWp (b2n b) on

/-! ### Slot commands (R811 to R815) -/

/-- The slot that a word names: 1 A, 2 B. -/
def slotNamed (n : Nat) : Option Bool := if n = 1 then some false else if n = 2 then some true else none

/-- BEGIN_SLOT. -/
def beginSlotAct (n : Nat) (s : State) : Done :=
  match slotNamed n with
  | none => refusedCmd s
  | some b =>
    if s.ward.slot.activeB = b ∨ suppliedAny s (copyOf b) = true then refusedCmd s
    else (0, slotWindow b true (slotWrite (setStateOf b .writing) s))

/-- MARK_PENDING (R812). -/
def markPendingAct (n : Nat) (s : State) : Done :=
  match slotNamed n with
  | none => refusedCmd s
  | some b =>
    if stateOf s.ward.slot b ≠ .writing then refusedCmd s
    else
      let s1 := slotWindow b false s
      let rd := copyBytes s1 (copyOf b)
      let c := setCheck s1 rd 0x400000
      if c ≠ 0 then (c, s1)
      else
        let build := BitVec.ofNat 32 (le (rd 0 16) 8 4)
        (0, slotWrite (fun r =>
          let r1 := { setStateOf b .pending r with trials := 3 }
          if b then { r1 with buildB := build } else { r1 with buildA := build }) s1)

/-- CONFIRM (R813). -/
def confirmAct (s : State) : Done :=
  match pendingSlot s.ward.slot with
  | none => refusedCmd s
  | some b =>
    if suppliedAll s (copyOf b) then
      (0, slotWrite (fun r =>
        fiveKinds.foldl (fun r k => raiseSvn k ((runningImg s k).map (·.svn) |>.getD 0) r)
          { setStateOf b .confirmed r with activeB := b, trials := 0 }) s)
    else refusedCmd s

/-- ABANDON. -/
def abandonAct (s : State) : Done :=
  match pendingSlot s.ward.slot with
  | none => refusedCmd s
  | some b => (0, slotWrite (setStateOf b .failed) s)

/-- Program a checked set into the K slot (R814): every image, and the directory. -/
def programK (rd : Nat → Nat → List Byte) (s : State) : State :=
  let d := rd 0 256
  let s1 := (List.range (le d 6 1)).foldl (fun s e =>
    let off := le d (0x14 + 16 * e) 4
    s.mwrBytes (0x50700000 + off) (rd off (le d (0x18 + 16 * e) 4))) s
  s1.mwrBytes 0x50700000 d

/-- WRITE_K (R814). -/
def writeKAct (a : Nat) (s : State) : Done :=
  if inEvacuate s = true ∨ regionOf a ≠ .hearth then refusedCmd s
  else
    let rd := fun (off n : Nat) => memBytes s.mem (a + off) n
    let c := setCheck s rd (min 0x100000 (0x20200000 - a))
    if c ≠ 0 then (c, s) else (0, programK rd s)

/-- A plan that has passed is programmed, and SVN_MIN of PLAN raised (R815). -/
def programPlan (b : List Byte) (s : State) : State :=
  slotWrite (raiseSvn .plan (imgSvn .plan b)) (s.mwrBytes 0x50000000 b)

/-- WRITE_PLAN (R815). -/
def writePlanAct (a : Nat) (s : State) : Done :=
  if inEvacuate s = true ∨ regionOf a = .keep then refusedCmd s
  else match argImage s a with
    | none => (1, s)
    | some b =>
      let c := imageCause s .plan b
      if c ≠ 0 then (c, s)
      else (0, (programPlan b s).modMsg fun m => { m with loadDue := true, planClear := true })

/-- The hinge after WRITE_PLAN clears LOADED (R815). -/
def planHinge (s : State) : State :=
  if s.msg.planClear then (s.wrb Reg.planStat 0 false).modMsg fun m => { m with planClear := false } else s

/-- BURN_FLOOR. -/
def burnFloorAct (n : Nat) (s : State) : Done :=
  let svns := s.ward.imgs.filterMap fun x => x.2.map (·.svn)
  if s.ward.fuses.svnFloor ≤ n ∧ n ≤ 64 ∧ (svns.all fun v => decide (n ≤ v)) = true then
    (0, bootRecord 2 (s.modWard fun w => { w with fuses := { w.fuses with svnFloor := n } }))
  else refusedCmd s

/-! ### The verification service (R367, R788) -/

/-- VERIFY_GRAPH. -/
def verifyGraphAct (a : Nat) (s : State) : Done :=
  match argImage s a with
  | none => (1, s)
  | some b =>
    let c := imageCause s .engine b
    if c ≠ 0 then (c, s)
    else
      let plain := (joenoPlain s b).getD []
      let s1 := stageImage b plain (fun t => t == 1 || t == 2) s
      let s2 := measure 5 (imgMeas 9 0xFF .engine b) s1
      let v := stagedAgrees b plain s2
      if v.1 then (0, setVerified b v.2) else (9, v.2)

/-- A measurement block as it lies in memory. -/
def measOf (b : List Byte) : Meas := ⟨le b 0 2, le b 2 1, le b 3 1, le b 4 4, le b 8 4, le b 12 4, cut b 16 32⟩

/-- MEASURE. -/
def measureAct (a : Nat) (s : State) : Done :=
  let m := measOf (argBytes s a 48)
  if m.type = 11 then (0, measure 7 m s) else refusedCmd s

/-! ### The mailbox (R788, R789) -/

/-- What a mailbox command does, by its value. -/
def mailboxAct (cmd a : Nat) (s : State) : Done :=
  let at' := fun (f : State → Done) => if argOk a then f s else (32, s)
  match cmd with
  | 1 => at' (verifyGraphAct a)
  | 2 => at' (measureAct a)
  | 16 => at' (beginSlotAct (argWord s a))
  | 17 => at' (markPendingAct (argWord s a))
  | 18 => confirmAct s
  | 19 => abandonAct s
  | 20 => at' (writeKAct a)
  | 21 => at' (writePlanAct a)
  | 22 => at' (burnFloorAct (argWord s a))
  | _ => refusedCmd s

/-- The Warden performs the command under way. -/
def mailboxServe (s : State) : State :=
  match s.ward.mbox with
  | some (c, a, none) =>
    if wardenServes s then
      let r := mailboxAct c a.toNat s
      r.2.modWard fun w => { w with mbox := some (c, a, some r.1) }
    else s
  | _ => s

/-- A master issues a mailbox command, and the Warden, unless it is busy, performs it; the completion is a command of its
own. -/
def mailboxIssue (cmd : Nat) (m : Master) (arg : Word) (s : State) : State :=
  let s1 := (masterWrite m 0x40000604 4 arg.toNat s).2
  let s2 := (masterWrite m 0x40000600 4 cmd s1).2
  if s1.ward.mbox.isNone then mailboxServe s2 else s2

/-- MAILBOX_COMPLETION (R789). -/
def mailboxCompletion (s : State) : State :=
  let s1 := mailboxServe s
  match s1.ward.mbox with
  | some (_, _, some r) =>
    pulse 15 (s1.modWard fun w => { w with mbox := none, mboxResult := r, mboxSeq := w.mboxSeq + 1#16 })
  | _ => s1

/-! ### Sessions of the Anvil port (R826 to R829) -/

def anvCode : AnvSt → Nat
  | .closed => 0
  | .challenged => 1
  | .opened => 2

/-- AON.ANV_STAT and WARDEN.ANV_GRANT follow the session. -/
def anvPublish (s : State) : State :=
  let a := s.ward.anv
  (s.wrn Reg.anvStat (anvCode a.st + 16 * a.grants.toNat + 256 * min 255 a.fails)).wrn Reg.anvGrant a.grants.toNat

def State.modAnv (s : State) (f : Anvil → Anvil) : State := s.modWard fun w => { w with anv := f w.anv }

/-- Grants end and the session is CLOSED (R829). -/
def anvClose (s : State) : State :=
  anvPublish (s.modAnv fun a => { a with st := .closed, grants := 0#3, chal := [] })

def granted (s : State) (i : Nat) : Bool := s.ward.anv.grants.getLsbD i

/-- ROOT_REVOKE (R793). -/
def rootRevokeAct (k : Nat) (s : State) : Done :=
  let signs := (runningImg s .stage1).map (·.key) == some k
  let left := (List.range 4).any fun j => j != k && keyUsable s j
  if 4 ≤ k ∨ signs = true ∨ left = false then refusedCmd s
  else
    let s1 := s.modWard fun w => { w with
      fuses := { w.fuses with rootRevoke := w.fuses.rootRevoke ||| BitVec.ofNat 4 (2 ^ k) } }
    let d := drawBytes 8 s1
    let l := d.2.draw
    let s2 := measure 7 ⟨14, 0xFF, k, 0, 0, l.1.toNat, d.1⟩ l.2
    (0, if s2.ward.anv.grants ≠ 0#3 ∧ s2.ward.anv.key = k then anvClose s2 else s2)

/-- The rate and the life of a challenge are counted in hinges (R826, R827). -/
def anvHinge (s : State) : State :=
  let n := s.ward.anv.chalAge + 1
  s.modAnv fun a => { a with
    chalAge := min 960001 n, rateOk := a.rateOk || decide (16000 ≤ n), chal := if 960000 < n then [] else a.chal }

/-! ### Messages on the Anvil port (R817, R825) -/

/-- Does the Warden serve Anvil messages: after handover, and in the recovery loader? -/
def anvServes (s : State) : Bool := wardenServes s || (s.ward.recovery && !s.power.held)

/-- The Warden draws what stands in the host-to-Warden FIFO. -/
def anvDraw (s : State) : State :=
  if anvServes s then s.modAnv fun a => { a with rx := a.rx ++ a.toWarden, toWarden := [] } else s

/-- The operations of transfer messages (R817). -/
def xferOps : List Nat := [1, 2, 3, 0x10, 0x11, 0x12, 0x13, 0x14, 0x15, 0x16, 0x17, 0x20, 0x21, 0x22]

/-- Bytes that begin no message are discarded, a header with its body where its LEN is good (R817). -/
def discardBad : Nat → List Byte → List Byte
  | 0, b => b
  | fuel + 1, b =>
    let len := le b 10 2
    if 16 ≤ b.length ∧ (le b 0 2 ≠ 0x5444 ∨ xferOps.contains (le b 2 1) = false ∨ 1024 < len) then
      discardBad fuel (b.drop (16 + (if len ≤ 1024 then len else 0)))
    else b

/-- A message is served: where its bytes have come by PUT they leave the Warden's buffer. -/
def takeMsg (m : List Byte) (s : State) : State :=
  let s1 := anvDraw s
  let rx := discardBad 64 s1.ward.anv.rx
  s1.modAnv fun a => { a with rx := if rx.take m.length = m then rx.drop m.length else rx }

/-- CHAL_REQ (R826). -/
def challengeRequest (grant : Word) (seq : BitVec 16) (s : State) : State :=
  if anvServes s then
    let s1 := takeMsg (xmsg 0x10 0 0 0 seq (leBytes 4 grant.toNat)) s
    if s1.ward.anv.rateOk then
      let s2 := if s1.ward.slot.anvCeil ≤ s1.ward.anv.chalCnt then
          slotWrite (fun r => { r with anvCeil := s1.ward.anv.chalCnt + 1024 }) s1
        else s1
      let chal := leBytes 8 s2.ward.anv.chalCnt ++ leBytes 8 s2.mclk.frameCnt.toNat ++ s2.ward.fuses.serial
      let s3 := s2.modAnv fun a => { a with
        st := .challenged, chal := chal, chalGrant := grant, chalAge := 0, rateOk := false, chalCnt := a.chalCnt + 1 }
      anvSend (xmsg 0x11 0 0 0 seq chal) (anvPublish s3)
    else anvSend (xmsg 0x13 33 0 0 seq []) s1
  else s

/-- The first failing check of an AUTH body, 0 for none (R827, R828). -/
def authResult (s : State) (b : List Byte) : Nat :=
  let a := s.ward.anv
  let k := le b 0 1
  let grant := le b 4 4
  let key := cut b 8 64
  if a.chal = [] ∨ BitVec.ofNat 32 grant ≠ a.chalGrant then 33
  else if rootStands s k = false ∨ Config.sha256 key ≠ (s.ward.fuses.rootHash[k]?).getD [] then 5
  else if Config.ecdsaOk key (bytesOf [0x44, 0x5A, 0x41, 0x56] ++ a.chal ++ leBytes 4 grant) (cut b 72 64) = false then 6
  else if grant % 2 = 1 ∧ (inEvacuate s || anyContact (alarmActive s)) = true then 33
  else if 2 ≤ grant % 8 ∧ s.ward.keylock = false then 33
  else 0

/-- AUTH (R827, R828, R832). -/
def authenticate (b : List Byte) (seq : BitVec 16) (s : State) : State :=
  if anvServes s then
    let s1 := takeMsg (xmsg 0x12 0 0 0 seq b) s
    let r := authResult s1 b
    let old := s1.ward.anv
    let s2 := anvSend (xmsg 0x13 r 0 0 seq []) (s1.modAnv fun a => { a with chal := [] })
    if r ≠ 0 then
      anvPublish (s2.modAnv fun a => { a with
        st := if a.grants = 0#3 then .closed else .opened, fails := min 255 (a.fails + 1) })
    else
      let grant := le b 4 4
      let s3 := anvPublish (s2.modAnv fun a => { a with st := .opened, grants := BitVec.ofNat 3 grant, key := le b 0 1 })
      let s4 := if 2 ≤ grant % 8 then
          bootRecord 3 (measure 7 ⟨12, 4, le b 0 1, 0, grant, 0, Config.sha256 old.chal⟩ s3)
        else s3
      if grant % 2 = 1 ∧ s4.ward.recovery = false then resetDevice 6 true (s4.wrb Reg.recov 0 true) else s4
  else s

/-- CLOSE (R829). -/
def transferClose (s : State) : State := if anvServes s then anvClose (takeMsg (xmsg 0x17 0 0 0 0#16 []) s) else s

/-- REBOOT (R836). -/
def reboot (s : State) : State := if anvServes s then resetDevice 6 true (takeMsg (xmsg 0x16 0 0 0 0#16 []) s) else s

/-! ### Debug access (R830, R831) -/

/-- The words of an MREAD, up to a bus error. -/
def mreads (a : Nat) : Nat → State → List Byte × Bool
  | 0, _ => ([], true)
  | n + 1, s =>
    match (readNow .anvil a 4 s).1 with
    | none => ([], false)
    | some v =>
      let t := mreads (a + 4) n s
      (leBytes 4 v ++ t.1, t.2)

/-- MREAD. -/
def mread (a : Word) (count : Nat) (seq : BitVec 16) (s : State) : State :=
  if anvServes s then
    let s1 := takeMsg (xmsg 0x20 0 a.toNat count seq []) s
    if granted s1 1 = false then anvSend (xmsg 0x22 2 0 0 seq []) s1
    else if count < 1 ∨ 256 < count ∨ a.toNat % 4 ≠ 0 then anvSend (xmsg 0x22 3 0 0 seq []) s1
    else
      let r := mreads a.toNat count s1
      anvSend (xmsg 0x22 (if r.2 then 0 else 1) 0 0 seq r.1) s1
  else s

/-- The writes of an MWRITE, up to a bus error. -/
def mwrites (a : Nat) : List Word → State → Bool × State
  | [], s => (true, s)
  | v :: vs, s =>
    let r := masterWrite .anvil a 4 v.toNat s
    if r.1 then mwrites (a + 4) vs r.2 else (false, r.2)

/-- MWRITE. -/
def mwrite (a : Word) (words : List Word) (seq : BitVec 16) (s : State) : State :=
  if anvServes s then
    let s1 := takeMsg (xmsg 0x21 0 a.toNat 0 seq (words.flatMap fun v => leBytes 4 v.toNat)) s
    if granted s1 1 = false then anvSend (xmsg 0x22 2 0 0 seq []) s1
    else if words.length < 1 ∨ 256 < words.length ∨ a.toNat % 4 ≠ 0 then anvSend (xmsg 0x22 3 0 0 seq []) s1
    else
      let r := mwrites a.toNat words s1
      anvSend (xmsg 0x22 (if r.1 then 0 else 1) 0 0 seq []) r.2
  else s

def tapSet (op : JtagOp) (out : Word) (s : State) : State := s.modPower fun p => { p with tap := op, tapOut := out }

/-- What a debugger asks of the TAP: without a JTAG grant every instruction but BYPASS and IDCODE acts as BYPASS (R831). -/
def jtagAccess (op : JtagOp) (s : State) : State :=
  match op with
  | .idcode => tapSet op Config.idcode s
  | .bypass => tapSet op 0#32 s
  | op =>
    if granted s 2 = false then tapSet .bypass 0#32 s
    else match op with
      | .read a =>
        match (readNow .jtag a.toNat 4 s).1 with
        | some v => tapSet op (BitVec.ofNat 32 v) s
        | none => tapSet op s.draw.1 s.draw.2
      | .write a v => tapSet op 0#32 (masterWrite .jtag a.toNat 4 v.toNat s).2
      | .debugCore n =>
        let s1 := tapSet op 0#32 s
        let x := s1.ctlCore n.val
        if x.st = .run ∨ x.st = .wait then
          raise (.cc n) ⟨8, 0, none, 0⟩ x.r.pc (s1.setCtl n.val { x with st := .run })
        else s1
      | op => tapSet op 0#32 s

/-- TAP_RESET (R847). -/
def tapReset (s : State) : State := tapSet .idcode 0#32 s

/-! ### Recoveries (R834, R835) -/

/-- The order in which a recovery draws its images. -/
def drawOrder : List ImageKind := [.stage1, .tenant, .preset, .engine, .control]

def targetCode : RecoverTarget → Nat
  | .slotA => 1
  | .slotB => 2
  | .k => 3
  | .plan => 4

/-- The slot of a target; none for K and PLAN. -/
def targetSlot : RecoverTarget → Option Bool
  | .slotA => some false
  | .slotB => some true
  | _ => none

/-- Where drawn images lie in a slot: kind, offset, bytes, from 0x100 at multiples of 64. -/
def layout : Nat → List (ImageKind × List Byte) → List (ImageKind × Nat × List Byte)
  | _, [] => []
  | o, (k, b) :: t => (k, o, b) :: layout ((o + b.length + 63) / 64 * 64) t

/-- A directory over images laid out (R798). -/
def directory (build : Nat) (l : List (ImageKind × Nat × List Byte)) : List Byte :=
  let b := bytesOf [0x44, 0x5A, 0x53, 0x44] ++ leBytes 2 1 ++ leBytes 1 l.length ++ leBytes 1 0 ++ leBytes 4 build ++ leBytes 4 0
    ++ (l.flatMap fun x => leBytes 4 (kindNo x.1) ++ leBytes 4 x.2.1 ++ leBytes 4 x.2.2.length ++ leBytes 4 0)
  let d := b ++ List.replicate (252 - b.length) 0#8
  d ++ leBytes 4 (crc32 d)

/-- The bytes of a whole set. -/
def setBytes (dir : List Byte) (l : List (ImageKind × Nat × List Byte)) : List Byte :=
  l.foldl (fun acc x => acc ++ List.replicate (x.2.1 - acc.length) 0#8 ++ x.2.2) dir

def flashPut (off : Nat) (b : List Byte) (s : State) : State := { s with flash := memPutBytes s.flash off b }

/-- The first failing kind of a set with its cause. -/
def setFail (s : State) (rd : Nat → Nat → List Byte) (size : Nat) : Option (ImageKind × Nat) :=
  drawOrder.findSome? fun k => let c := setCause s rd size k; if c = 0 then none else some (k, c)

/-- A RECOVER ends: DONE with a result and the kind that failed, 0 for none; a slot that fails is FAILED, its window closed. -/
def recoverEnd (x : Xfer) (result kind : Nat) (s : State) : State :=
  let s1 := match x.target.bind targetSlot with
    | some b =>
      let s2 := slotWindow b false s
      if result = 0 then s2 else slotWrite (setStateOf b .failed) s2
    | none => s
  anvSend (xmsg 0x15 result kind 0 x.reqSeq []) (s1.modWard fun w => { w with xfer := none })

/-- Every image of a recovery has been drawn. SET_BUILD of the directory that the loader writes is not stated: it is free but
for being nonzero. -/
def recoverFinish (x : Xfer) (drawn : List (ImageKind × List Byte)) (s : State) : State :=
  let d := s.draw
  let build := if d.1 = 0#32 then 1 else d.1.toNat
  let l := layout 0x100 drawn
  let dir := directory build l
  match x.target with
  | some .plan =>
    let b := ((drawn.head?).map (·.2)).getD []
    let c := imageCause s .plan b
    if c ≠ 0 then recoverEnd x c 6 s else recoverEnd x 0 0 (programPlan b s)
  | some .k =>
    let all := setBytes dir l
    match setFail s (fun off n => cut all off n) 0x100000 with
    | some (k, c) => recoverEnd x c (xferKind k) d.2
    | none => recoverEnd x 0 0 (programK (fun off n => cut all off n) d.2)
  | some t =>
    let b := (targetSlot t).getD false
    let s1 := slotWindow b false (flashPut (if b then 0x400000 else 0) dir d.2)
    match setFail s1 (copyBytes s1 (copyOf b)) 0x400000 with
    | some (k, c) => recoverEnd x c (xferKind k) s1
    | none =>
      recoverEnd x 0 0 (slotWrite (fun r =>
        let r1 := { setStateOf b .confirmed r with activeB := b }
        let r2 := if b then { r1 with buildB := BitVec.ofNat 32 build } else { r1 with buildA := BitVec.ofNat 32 build }
        if stateOf r2 (!b) = .pending then setStateOf (!b) .failed r2 else r2) s1)
  | none => s

/-- An image of a recovery has come whole: it is written into its slot, and the next is asked for. -/
def recoverImage (x : Xfer) (s : State) : State :=
  let b := x.got.take (le x.got 0xC 4)
  let drawn := x.drawn ++ [(x.kind, b)]
  let off := (((layout 0x100 drawn).getLast?).map (·.2.1)).getD 0x100
  match x.target.bind targetSlot with
  | some sl =>
    if 0x400000 < off + b.length then recoverEnd x 2 (xferKind x.kind) s
    else
      let s1 := flashPut ((if sl then 0x400000 else 0) + off) b s
      match drawOrder[drawn.length]? with
      | some k => xferStart true k x.target x.reqSeq drawn s1
      | none => recoverFinish x drawn s1
  | none =>
    match (if x.target = some .plan then none else drawOrder[drawn.length]?) with
    | some k => xferStart true k x.target x.reqSeq drawn s
    | none => recoverFinish x drawn s

/-- RECOVER (R833 to R835). -/
def recoverMsg (t : RecoverTarget) (seq : BitVec 16) (s : State) : State :=
  if anvServes s then
    let s1 := takeMsg (xmsg 0x14 (targetCode t) 0 0 seq []) s
    let ok := s1.ward.recovery && granted s1 0 && s1.ward.xfer.isNone && !(inEvacuate s1 && (targetSlot t).isNone)
    if ok then
      let s2 := match targetSlot t with
        | some b => slotWindow b true (slotWrite (setStateOf b .writing) s1)
        | none => s1
      xferStart true (if t = .plan then .plan else .stage1) (some t) seq [] s2
    else anvSend (xmsg 0x15 33 0 0 seq []) s1
  else s

/-- DATA (R818): taken only in answer to the outstanding ASK. -/
def dataMsg (k : ImageKind) (off : Word) (seq : BitVec 16) (bytes : List Byte) (s : State) : State :=
  let s0 := if (s.ward.xfer.map (·.anvil)) = some false then s
    else takeMsg (xmsg 2 (xferKind k) off.toNat 0 seq bytes) s
  match s0.ward.xfer with
  | none => s0
  | some x =>
    if x.kind = k ∧ x.off = off.toNat ∧ x.seq = seq ∧ x.count = bytes.length then
      let y := { x with got := x.got ++ bytes }
      if xferWhole y then
        if y.anvil then recoverImage y s0
        else s0.modWard fun w => { w with xfer := some { y with off := y.got.length, count := 0 } }
      else if y.anvil = true ∧ 0x400000 < le y.got 0xC 4 then recoverEnd y 2 (xferKind k) s0
      else askNext y s0
    else s0

/-- NONE (R818, R835). -/
def noneMsg (k : ImageKind) (s : State) : State :=
  match s.ward.xfer with
  | none => s
  | some x =>
    if x.kind ≠ k then s
    else if x.anvil then recoverEnd x 1 (xferKind k) (takeMsg (xmsg 3 (xferKind k) 0 0 x.seq []) s)
    else attemptFails k .network 1 s

/-- ASK_TIMEOUT (R818). -/
def askTimeout (s : State) : State :=
  match s.ward.xfer with
  | none => s
  | some x =>
    if xferWhole x then s
    else askSend (s.modWard fun w => { w with askSeq := w.askSeq + 1#16, xfer := some { x with seq := w.askSeq + 1#16 } })

/-- RECOVER_TIMEOUT (R835). -/
def recoverTimeout (s : State) : State :=
  match s.ward.xfer with
  | some x => if x.anvil then recoverEnd x 1 0 s else s
  | none => s

/-! ### The port's own commands (R820 to R825) -/

/-- One bit of CRC-16 with polynomial 0x1021. -/
def crc16Bit (c : Nat) : Nat := if 0x8000 ≤ c then Nat.xor (c * 2 % 65536) 0x1021 else c * 2
/-- CRC-16 of bytes (R821). -/
def crc16 (b : List Byte) : Nat := b.foldl (fun c x => Nat.repeat crc16Bit 8 (Nat.xor c (x.toNat * 256))) 0xFFFF

/-- Bytes of the Warden-to-host FIFO that GET may return, and space for PUT; each FIFO holds 1024. -/
def anvGettable (s : State) : Nat := if xingReady s 5 then min (1024 - s.ward.anv.held.length) s.ward.anv.toHost.length else 0
def anvSpace (s : State) : Nat := if xingReady s 5 then 1024 - s.ward.anv.toWarden.length else 0

/-- SYS.MODE of the last hinge as STATUS gives it (R822). -/
def statusMode (s : State) : Nat :=
  if s.modes.sleep = .asleep ∨ s.modes.sleep = .waking then 3
  else if s.mclk.firstHinge then 0xFF
  else modeCode s.modes.mode

/-- STATUS_PUBLICATION (R90, R822): bytes 0 to 15 go into the other buffer, which is then the published one. -/
def statusPublication (s : State) : State :=
  let n := s.ward.anv.pubCnt + 1#16
  let b := beBytes 4 (bootStageView s).toNat ++ beBytes 4 (s.rd Reg.tallySum).toNat
    ++ beBytes 2 (s.rdf 0x40010244 0 16) ++ beBytes 2 (s.rdf Reg.wakeStat 0 16)
    ++ beBytes 1 (statusMode s) ++ beBytes 1 (s.rdf Reg.anvStat 0 8) ++ beBytes 2 n.toNat
  s.modAnv fun a => { a with pubIdx := !a.pubIdx, pub := b, pubCnt := n }

/-- STATUS (R822). -/
def anvilStatus (s : State) : State :=
  let mark := [BitVec.ofNat 8 (0xA0 + b2n s.ward.anv.pubIdx)]
  let b := mark ++ s.ward.anv.pub ++ beBytes 2 (anvGettable s) ++ beBytes 2 (anvSpace s) ++ mark
  s.modAnv fun a => { a with answer := b ++ beBytes 2 (crc16 b) }

/-- RESULT of a PUT (R823, R825). -/
def putResult (len : Nat) (bytes : List Byte) (crc : Nat) (s : State) : Nat :=
  if !xingReady s 5 || s.modes.sleep == .asleep then 4
  else if len < 1 ∨ 256 < len ∨ bytes.length ≠ len then 3
  else if crc16 (beBytes 2 len ++ bytes) ≠ crc then 1
  else if anvSpace s < len then 2
  else 0

/-- PUT (R823, R825): one ended before its RESULT byte takes nothing; the bytes that a side which is not ready drops are
counted (R92). -/
def anvilPut (len : Nat) (bytes : List Byte) (crc : Half) (complete : Bool) (s : State) : State :=
  if complete then
    let r := putResult len bytes crc.toNat s
    let s0 := if xingReady s 5 then s else bytes.foldl (fun s _ => xingDropped 5 s) s
    let s1 := s0.modAnv fun a => { a with answer := [BitVec.ofNat 8 r] }
    if s.modes.sleep = .asleep then wakeRequest 4 0 (s1.modWard fun w => { w with untouched := false })
    else if r = 0 then anvDraw (wardenInt 5 (s1.modAnv fun a => { a with toWarden := a.toWarden ++ bytes }))
    else s1
  else s

/-- GET (R824). -/
def anvilGet (rep : Bool) (max' : Nat) (s : State) : State :=
  if xingReady s 5 then
    let a := s.ward.anv
    let held := if rep then a.held else a.toHost.take (min (min max' 256) 1024)
    let b := beBytes 2 held.length ++ held
    s.modAnv fun a => { a with
      held := held, toHost := if rep then a.toHost else a.toHost.drop held.length, answer := b ++ beBytes 2 (crc16 b) }
  else
    let b := beBytes 2 0
    s.modAnv fun a => { a with answer := b ++ beBytes 2 (crc16 b) }

/-! ### Flash commands (R800) and the OPEN ceiling (R541) -/

/-- Does a flash offset lie in a slot whose window is closed? -/
def flashClosed (s : State) (off : Nat) : Bool :=
  (decide (off < 0x400000) && !s.bit Reg.flashWp 0) || (decide (0x400000 ≤ off ∧ off < 0x800000) && !s.bit Reg.flashWp 1)

/-- A program or erase command to the octal-SPI controller; an erase is named by the bytes that it returns to 0xFF. -/
def flashProgram (off : Word) (erase : Bool) (bytes : List Byte) (s : State) : State :=
  if released s 0 then
    if (List.range (max 1 bytes.length)).any fun i => flashClosed s (off.toNat + i) then
      sqSet Reg.flashWpEvt [0] (s.wr Reg.flashWpAddr off)
    else flashPut off.toNat (if erase then List.replicate bytes.length 0xFF#8 else bytes) s
  else s

/-- CEILING_RAISE (R541): the raise of the OPEN counter's ceiling in the Keep completes. -/
def ceilingRaise (s : State) : State :=
  if s.ril.raising then
    let c := s.ril.ceiling + 1024
    (slotWrite (fun r => { r with openCeil := c }) s).modRil fun r => { r with ceiling := c, raising := false }
  else s

end Sys2Proof.Machine
end

