-- ==== Sys2Proof/Machine/Sleep.lean ====
section
/-! DEFINITION. VIGIL sleep: what completes its entry, the seal, and the fast wake (chapters 22 and 23). -/

namespace Sys2Proof.Machine
open Sys2Proof

/-! ### Sleep entry completes (R743, R784) -/

/-- Keep programs that wait complete (sleep entry, chapter 22). -/
def keepComplete : Nat → State → State
  | 0, s => s
  | n + 1, s => if s.msg.prog.isSome then keepComplete n (lineProgramDone true s) else s

def sealAt : Nat := 0x21000000

/-- The 352 bytes of the seal. -/
def sealBytes (s : State) : List Byte :=
  let load := ((runningImg s .control).map (·.load.toNat)).getD 0
  let b := bytesOf [0x44, 0x5A, 0x53, 0x4C] ++ leBytes 4 1 ++ leBytes 8 (s.ward.sleepCount + 1) ++ leBytes 8 s.mclk.sleepFrame.toNat
    ++ leBytes 4 s.ward.selection ++ leBytes 4 load ++ Config.sha256 (s.ward.log.flatMap (·.digest))
    ++ (List.range 8).flatMap (tallyOf s)
  b ++ Config.hmac (keySlot s 4) b

/-- FAMILIES_STOP: from hs + 16 the journal is flushed, pending programs complete, the seal is written, the untouched latch set, the pads are
held, grants end, and the media, reference and network families and the crystal stop. A wake held since hs then begins (R743). -/
def familiesStop (s : State) : State :=
  if s.modes.sleep = .entry ∧ 16 ≤ s.modes.sleepHinges then
    let s1 := keepComplete 16 (journalFlush s)
    let s2 := s1.mwrBytes sealAt (sealBytes s1)
    let s3 := anvClose (s2.modWard fun w => { w with sleepCount := w.sleepCount + 1, untouched := true })
    let s4 := streamsOff (s3.modPorts fun p => { p with padsHeld := true })
    { s4 with
      clk := { s4.clk with netOk := false, xtalOk := false, mediaLock := false },
      mclk := { s4.mclk with sleepFrame := 6#64 * ((s4.mclk.frameCnt + 5#64) / 6#64), sleepPull := some s4.mclk.pull },
      modes := { s4.modes with sleep := if s4.modes.wake then .waking else .asleep } }
  else s

/-! ### The fast wake (R747, R748, R785, R786) -/

/-- Does the seal allow a fast wake (R785)? -/
def sealGood (s : State) (straps : Nat) : Bool :=
  let b := memBytes s.mem sealAt 0x160
  s.ward.untouched && cut b 0 4 == bytesOf [0x44, 0x5A, 0x53, 0x4C] && decide (le b 4 4 = 1)
    && cut b 0x140 32 == Config.hmac (keySlot s 4) (b.take 0x140) && decide (le b 0x18 4 % 8 = selectionOf s straps)

/-- Stored words that sleep does not lose: the aperture, the AON and Warden registers, the trim latches (R745, R863). -/
def keptAsleep (a : Nat) : Bool :=
  decide (0x3C000000 ≤ a ∧ a < 0x3D000000) || decide (0x40010000 ≤ a ∧ a < 0x40020000) || decide (0xE0000000 ≤ a)
    || decide (0x40000710 ≤ a ∧ a < 0x40000724) || decide (0x40000800 ≤ a ∧ a < 0x400008C0)

/-- Is a word of the context restored through its shadow, so that its block takes it at the first hinge as a change (R748)? The line
monitors' enables stand at once: each keeps the state it was in. -/
def viaShadow (a : Nat) : Bool :=
  a != Reg.lmEn && (match regRowOf a with
    | some r => r.cls == .wb
    | none => false)

/-- One word of the context returns. -/
def restoreWord (s : State) (x : Nat × Word) : State := if viaShadow x.1 then setPending x.1 x.2 s else s.wr x.1 x.2

/-- The media frame count after `n` slow cycles of sleep (R141). -/
def frameAfter (f : BitVec 64) (n : Nat) : BitVec 64 := f + BitVec.ofNat 64 (6 * ((n * 16000 + 32767) / 32768))

/-- What stands after a wake, before the context returns: everything but what sleep keeps is at reset (R745). -/
def wakeBase (s : State) : State :=
  let f := fresh s
  let m := (List.range 16).foldl (fun s k => s.mclr (0x3800C000 + 0x20000 * k) (0x38014000 + 0x20000 * k))
    (s.mclr 0x30000000 0x30800000)
  { f with
    regs := s.regs.filter fun x => keptAsleep x.1,
    sqs := s.sqs.filter fun x => decide (0x40010000 ≤ x.1 ∧ x.1 < 0x40020000),
    mem := m.mem,
    ecc := m.ecc,
    clk := { s.clk with mediaLock := false },
    mclk := { f.mclk with sleepFrame := s.mclk.sleepFrame, sleepPull := s.mclk.sleepPull },
    eng := { f.eng with sc := s.eng.sc.map fun x =>
      (x.1, { SampleCore.init with pbank := x.2.pbank, cbank := x.2.cbank, watchStopped := x.2.watchStopped }) },
    weld := { f.weld with cur := s.weld.cur, claims := s.weld.claims },
    dict := { s.dict with hprod := 0, rrUrgent := 0, rrStream := 0, rrNormal := 0 },
    ril := { s.ril with sessions := [], reasm := [], ingress := [], raising := false, openAges := [] },
    sense := { f.sense with mon := s.sense.mon },
    ports := { f.ports with contacts := s.ports.contacts, gpioIn := s.ports.gpioIn, padsHeld := s.ports.padsHeld },
    msg := { f.msg with planClips := s.msg.planClips, planCount := s.msg.planCount },
    modes := { s.modes with request := none },
    ward := { s.ward with mbox := none, mboxOverrun := false, mboxResult := 0, mboxSeq := 0#16, xfer := none },
    power := s.power }

/-- The first free-running media frame: FRAME_CNT resumes by R141, after `n` slow cycles, at a hinge. -/
def wakeClock (n : Nat) (s : State) : State :=
  let f := frameAfter s.mclk.sleepFrame n
  { s with mclk := { s.mclk with
      frameCnt := f, hingeCnt := BitVec.ofNat 32 (f.toNat / 6), firstHinge := false, st := .freeRun, backup := true } }

/-- The Warden's part of a fast wake (R786). -/
def wakeWarden (s : State) : State :=
  let b := memBytes s.mem sealAt 0x160
  let s1 := s.modWard fun w => { w with
    tallies := (List.range 8).map fun i => cut b (0x40 + 32 * i) 32, keylock := true, freeze := 0#8, stage := 10, recovery := false }
  let s2 := measure 7 ⟨10, 0xFF, 0xFF, 0, 0, 0, Config.sha256 (b.take 0x140)⟩ (tallySum s1)
  let s3 := s2.modWard fun w => { w with freeze := 0x5F#8 }
  match runningImg s .control with
  | some i => (List.range 4).foldl (fun s n => s.wr (Reg.ccStart n) (i.load + i.resume)) s3
  | none => s3

/-- A wake that may not be fast is a cold boot (R749): AON.WAKE_STAT.COLD, and a BOOT record with cause SEAL where the latch was set. -/
def coldWake (s : State) : State :=
  let latched := s.ward.untouched
  let s1 := resetDevice 7 true (s.wrb Reg.wakeStat 3 true)
  if latched then bootRecord 4 (s1.modWard fun w => { w with cause := 11, causeStage := 0 }) else s1

/-- FAST_WAKE (R747, R748): the part runs again from the first hinge that follows, `slept` slow cycles after the families
stopped. -/
def fastWake (straps slept : Nat) (s : State) : State :=
  if s.modes.sleep = .waking ∧ s.clk.xtalOk = true then
    if sealGood s straps then
      let ctx := s.modes.context
      let s1 := wakeWarden (wakeClock slept (wakeBase s))
      let s2 := ctx.foldl restoreWord s1
      let s3 := (s2.wrb Reg.ptpCtrl 0 false).wrb Reg.ptpCtrl 1 false
      let s4 := heartbeatsRestart (senseWake (streamsRestart s3))
      let s5 := s4.modModes fun m => { m with
        mode := .watch, sleep := .awake, sleepHinges := 0, wake := false, booting := false, autonomy := false, context := [] }
      let s6 := (List.range 4).foldl (fun s c => wdogReload c s) (if s5.enabled 14 then journalScan s5 else s5)
      let s7 := if s6.modes.alarmInSleep then s6 else sqSetX Reg.modeEvt [0] (some 2) 0#32 s6
      (List.range 4).foldl (fun s c => coreStart c s) s7
    else coldWake s
  else s

end Sys2Proof.Machine
end

