-- ==== Sys2Proof/Machine/DictExec.lean ====
section
/-! DEFINITION. What a request of the dictionary does to the rest of the part (chapter 16): reads, writes, write-groups, the
entries that the Warden serves, defaults and the replay of the log. -/

namespace Sys2Proof.Machine
open Sys2Proof

/-! ### Where an entry stands that no descriptor field expresses whole (chapters 10, 12, 15, 16, 19, 21) -/

/-- Places of values that are more than a field at SHIFT: a field of its own width; an enable bit, written through the set and clear
aliases; a pulse; an input select; a destination select; a monitor's relay. -/
inductive Place where
  | field (a lo n : Nat)
  | flag (a bit : Nat)
  | strobe (a bit : Nat)
  | select (a : Nat)
  | dest (a : Nat)
  | relay (a : Nat)

/-- The place of such an entry. -/
def placeOf (i sub : Nat) : Option Place :=
  if 0x2000 ≤ i ∧ i < 0x2008 then
    match sub with
    | 3 => some (.field Reg.tenCeil (4 * (i - 0x2000)) 4)
    | 4 => some (.field (Reg.tenHb (i - 0x2000)) 0 16)
    | 5 => some (.field (Reg.tenHb (i - 0x2000)) 16 4)
    | 6 => some (.field (Reg.tenHb (i - 0x2000)) 20 2)
    | _ => none
  else if 0x2100 ≤ i ∧ i < 0x2180 ∧ sub = 1 then some (.field (Reg.zoneWord (i - 0x2100) 0) 0 13)
  else if i = 0x3100 then some (.select (Reg.inSel sub))
  else if i = 0x3101 then some (.dest (Reg.destSel (0x100 + sub)))
  else if i = 0x3102 then some (.dest (Reg.destSel (0x200 + sub)))
  else if 0x3200 ≤ i ∧ i < 0x3240 ∧ sub = 2 then some (.flag (Reg.netRxEn (i - 0x3200)) ((i - 0x3200) % 32))
  else if 0x3240 ≤ i ∧ i < 0x3280 ∧ sub = 2 then some (.flag (Reg.netTxEn (i - 0x3240)) ((i - 0x3240) % 32))
  else if 0x4400 ≤ i ∧ i < 0x4500 ∧ sub = 4 then some (.flag (Reg.eqEn ((i - 0x4400) / 32)) ((i - 0x4400) % 32))
  else if 0x4600 ≤ i ∧ i < 0x4610 ∧ sub = 5 then some (.flag Reg.spwEn (i - 0x4600))
  else if 0x5000 ≤ i ∧ i < 0x5010 ∧ sub = 2 then some (.flag Reg.msgRun (i - 0x5000))
  else if 0x5800 ≤ i ∧ i < 0x5850 ∧ sub = 0x20 then some (.flag (runBit (i - 0x5800)).1 (runBit (i - 0x5800)).2)
  else if 0x5840 ≤ i ∧ i < 0x5850 ∧ sub = 0x21 then some (.dest (Reg.pilotDest (i - 0x5840)))
  else if 0x6000 ≤ i ∧ i < 0x6008 ∧ sub = 1 then some (.flag Reg.lmEn (i - 0x6000))
  else if 0x6000 ≤ i ∧ i < 0x6008 ∧ sub = 2 then some (.field (Reg.lmCfg (i - 0x6000)) 0 3)
  else if 0x6000 ≤ i ∧ i < 0x6008 ∧ sub = 3 then some (.field (Reg.lmCfg (i - 0x6000)) 4 3)
  else if 0x6000 ≤ i ∧ i < 0x6008 ∧ sub = 4 then some (.field (Reg.lmCfg (i - 0x6000)) 8 4)
  else if 0x6000 ≤ i ∧ i < 0x6008 ∧ sub = 5 then some (.relay (Reg.lmCfg (i - 0x6000)))
  else if 0x6000 ≤ i ∧ i < 0x6008 ∧ sub = 14 then some (.field (Reg.lmCfg (i - 0x6000)) 24 3)
  else if 0x6900 ≤ i ∧ i < 0x6908 ∧ 1 ≤ sub ∧ sub ≤ 3 then some (.field (Reg.ctCfg (i - 0x6900)) (4 * (sub - 1)) 4)
  else if 0x6000 ≤ i ∧ i < 0x6008 ∧ sub = 12 then some (.strobe 0x400C002C (i - 0x6000))
  else if 0x6000 ≤ i ∧ i < 0x6008 ∧ sub = 13 then some (.strobe 0x400C0028 (i - 0x6000))
  else none

/-- The value at a place, from its live word. -/
def placeRead (p : Place) (w : Nat → Word) : Nat :=
  match p with
  | .field a lo n => fld (w a) lo n
  | .flag a b => fld (w a) b 1
  | .strobe _ _ => 0
  | .select a => if (w a).getLsbD 31 then fld (w a) 0 10 else 0xFFFF
  | .dest a => fld (w a) 0 10 + 4096 * fld (w a) 12 1 + 32768 * fld (w a) 31 1
  | .relay a => if (w a).getLsbD 22 then fld (w a) 16 5 + 128 * fld (w a) 21 1 else 0xFF

/-- The word that a write of a register starts from: its shadow, else its live value. -/
def baseWord (s : State) (a : Nat) : Word := (tget none s.wbPend a).getD (s.rd a)

/-- A write at a place. -/
def placeWrite (p : Place) (v : Nat) (s : State) : Bool × State :=
  let put := fun (a : Nat) (x : Word) (s : State) => arriveWrite .dict a 4 x.toNat s
  match p with
  | .field a lo n => put a (setFld (baseWord s a) lo n v) s
  | .flag a b => put (a + (if v % 2 = 1 then 0x100000 else 0x200000)) (BitVec.ofNat 32 (2 ^ b)) s
  | .strobe a b => if v % 2 = 1 then put a (BitVec.ofNat 32 (2 ^ b)) s else (true, s)
  | .select a =>
    put a (if v = 0xFFFF then wsetBit (baseWord s a) 31 false else BitVec.ofNat 32 (v % 1024 + 0x80000000)) s
  | .dest a => put a (BitVec.ofNat 32 (v % 1024 + 4096 * (v / 4096 % 2) + 2147483648 * (v / 32768 % 2))) s
  | .relay a =>
    if v = 0xFF then put a (wsetBit (baseWord s a) 22 false) s
    else put a (setFld (baseWord s a) 16 7 (v % 32 + 32 * (v / 128 % 2) + 64)) s

/-- The word where a place's write waits. -/
def placeAddr : Place → Nat
  | .field a _ _ => a
  | .flag a _ => a
  | .strobe a _ => a
  | .select a => a
  | .dest a => a
  | .relay a => a

/-! ### Reads (R497) -/

/-- Values that the engine itself holds, or reads without an effect on what it reads: their bytes. -/
def ownRead (s : State) (t i sub : Nat) : Option Nat :=
  if 0x2000 ≤ i ∧ i < 0x2008 then
    let u := i - 0x2000
    match sub with
    | 1 => some (fld (tenStateView s u) 0 2)
    | 2 => some 0
    | 3 => if u = 0 then some 15 else none
    | 7 => some (b2n (s.tenant u).lost)
    | 8 => some (s.tenant u).reqs.length
    | 9 | 10 | 11 | 12 | 13 => some (s.rdf (Reg.tenCnt u (sub - 9)) 0 16)
    | _ => none
  else if 0x2100 ≤ i ∧ i < 0x2180 ∧ sub = 6 then some (zoneOwner s (i - 0x2100))
  else if 0x2200 ≤ i ∧ i < 0x2280 then
    match sub with
    | 0 => some (((claimOf s (i - 0x2200) t).map (·.level)).getD 0xFF)
    | 1 => some (fld (zoneView s (i - 0x2200) 8) 0 8)
    | _ => none
  else if 0x6000 ≤ i ∧ i < 0x6008 ∧ (sub = 12 ∨ sub = 13) then some 0
  else if 0x6100 ≤ i ∧ i < 0x6108 ∧ sub = 2 then some (fld (lmStateView s) (2 * (i - 0x6100)) 2)
  else if 0x6900 ≤ i ∧ i < 0x6908 ∧ sub = 4 then some (fld (ctStatView s) (2 * (i - 0x6900)) 2)
  else if 0x3200 ≤ i ∧ i < 0x3240 ∧ sub = 3 then some (fld (rxView s (i - 0x3200) 0x20) 0 2)
  else if 0x5000 ≤ i ∧ i < 0x5010 ∧ sub = 3 then some (fld (plStatView s (i - 0x5000)) 0 3)
  else if i = 0x1000 then some 0x5216
  else if i = 0x1001 then some 0xB1
  else if i = 0x1010 then some (modeCode s.modes.mode)
  else if i = 0x1004 ∧ sub = 0 then some (s.rd Reg.graphId).toNat
  else if i = 0x1004 ∧ sub = 1 then some (s.rd Reg.graphBuild).toNat
  else if i = 0x7001 ∧ sub < 64 then some (evtSeqView s sub).toNat
  else none

/-- The address of a COMMIT or REG element's live word: a coefficient bank's stands in the live bank (R497). -/
def liveAddr (s : State) (a : Nat) : Nat :=
  if regionOf a = .scWindow ∧ 0x14000 ≤ (a - 0x38000000) % 0x20000 then
    coefBase ((a - 0x38000000) / 0x20000) (s.sc ((a - 0x38000000) / 0x20000)).cbank + a % 0x2000
  else a

/-- One word read by the engine; none for a bus error. -/
def dictWord (a : Nat) (s : State) : Option Word × State :=
  let r := readNow .dict a 4 s
  (r.1.map (BitVec.ofNat 32), r.2)

/-- Words from an address on, up to a bus error. -/
def dictWords (a : Nat) : Nat → State → Option (List Byte) × State
  | 0, s => (some [], s)
  | n + 1, s =>
    match dictWord a s with
    | (none, s1) => (none, s1)
    | (some w, s1) =>
      let r := dictWords (a + 4) n s1
      (r.1.map fun t => leBytes 4 w.toNat ++ t, r.2)

/-- Bytes from an address on, each read on its own. -/
def dictBytes (a : Nat) : Nat → State → Option (List Byte) × State
  | 0, s => (some [], s)
  | n + 1, s =>
    let r := readNow .dict a 1 s
    match r.1 with
    | none => (none, r.2)
    | some v =>
      let t := dictBytes (a + 1) n r.2
      (t.1.map fun t => BitVec.ofNat 8 v :: t, t.2)

/-- The value of an entry backed by REG, MEM or COMMIT, with the length that was written where the type leaves it open (R6). -/
def valueRead (t i sub : Nat) (r : DRec) (s : State) : Option (List Byte) × State :=
  let n := (typeBytes r.type).getD ((tget none s.dict.lengths (256 * i + sub)).getD r.len)
  match ownRead s t i sub with
  | some v => (some (leBytes n v), s)
  | none =>
    if i = 0x1002 then (some (s.ward.fuses.serial.take n), s)
    else match placeOf i sub with
      | some p =>
        let w := dictWord (placeAddr p) s
        (w.1.map fun x => leBytes n (placeRead p fun _ => x), w.2)
      | none =>
        let a := liveAddr s (r.elem i sub)
        if r.backing = 2 then dictBytes a n s
        else if (typeBytes r.type).isSome ∧ typeBits r.type ≤ 32 then
          let w := dictWord (wordOf a) s
          (w.1.map fun x => leBytes n (fld x r.shift (typeBits r.type)), w.2)
        else
          let w := dictWords (wordOf a) ((n + 3) / 4) s
          (w.1.map fun b => b.take n, w.2)

/-! ### Entries that the Warden serves (R792, chapter 24) -/

/-- The value of a Warden entry. -/
def wardenRead (s : State) (i sub : Nat) : List Byte :=
  let r := s.ward.slot
  let copy := fun (k : ImageKind) => ((runningImg s k).map fun x => copyNo x.copy).getD 0xFF
  match i with
  | 0x8000 =>
    if sub = 1 then leBytes 1 s.ward.stage
    else if sub = 2 then leBytes 2 (s.ward.cause + 256 * s.ward.causeStage)
    else bytesOf [copy .stage1, copy .tenant, copy .preset, copy .control]
  | 0x8001 => tallyOf s sub
  | 0x8002 =>
    if sub = 0 then leBytes 1 s.ward.log.length
    else match s.ward.log[sub - 1]? with
      | some m => measBytes m
      | none => []
  | 0x8003 => leBytes 1 (maskOf 4 (keyUsable s) + 16 * s.ward.fuses.rootRevoke.toNat)
  | 0x8004 => leBytes 8 s.ward.sleepCount
  | 0x8100 =>
    match sub with
    | 1 => leBytes 1 (if r.activeB then 2 else 1)
    | 2 => leBytes 1 (slotCode r.stA)
    | 3 => leBytes 1 (slotCode r.stB)
    | 4 => leBytes 1 r.trials
    | 5 => leBytes 4 r.buildA.toNat
    | _ => leBytes 4 r.buildB.toNat
  | 0x8101 => if sub = 7 then leBytes 1 s.ward.fuses.svnFloor else leBytes 4 ((r.svnMin[sub - 1]?).getD 0)
  | _ => leBytes 1 (s.rdf Reg.anvStat 0 8)

/-- A write of a Warden entry: its result as a mailbox command would give it. -/
def wardenWriteEntry (i sub v : Nat) (s : State) : Done :=
  match i with
  | 0x8003 => rootRevokeAct v s
  | 0x8102 => if sub = 2 then burnFloorAct v s else if v = 1 then abandonAct s else (0, s)
  | 0x8103 => if v = 1 then (0, anvClose s) else (0, s)
  | _ => (0, s)

/-! ### Writes -/

/-- How a member's write stands once it has been issued: accepted or refused, and the word whose boundary it waits for. -/
structure Issued where
  ok : Bool
  wait : Option Nat
  s : State

/-- Does a write wait at a word: in a shadow, or on its way into the always-on domain? -/
def waitsAt (s : State) (a : Nat) : Bool :=
  (tget none s.wbPend a).isSome || (s.bus.sc.map (·.addr)) == some a

/-- A register write as it stands: refused where the bus or the block refused it. -/
def issued (s0 : State) (a : Nat) (r : Bool × State) : Issued :=
  ⟨r.1 && refusalMarks s0 a == refusalMarks r.2 a, if waitsAt r.2 a then some a else none, r.2⟩

/-- The owner that a tenant's write of a run bit sets (chapters 12 and 21). -/
def runOwner (t i sub : Nat) (s : State) : State :=
  if 0x5800 ≤ i ∧ i < 0x5850 ∧ sub = 0x20 then setToneOwner (i - 0x5800) t s
  else if 0x5000 ≤ i ∧ i < 0x5010 ∧ sub = 2 then s.wrf (Reg.msgOwn ((i - 0x5000) / 8)) (4 * ((i - 0x5000) % 8)) 4 t
  else s

/-- Bytes written one after the other. -/
def putBytes (a : Nat) : List Byte → State → Bool × State
  | [], s => (true, s)
  | b :: bs, s =>
    let r := arriveWrite .dict a 1 b.toNat s
    let t := putBytes (a + 1) bs r.2
    (r.1 && t.1, t.2)

/-- Words written one after the other. -/
def putWords (a : Nat) : Nat → List Byte → State → Bool × State
  | 0, _, s => (true, s)
  | n + 1, b, s =>
    let r := arriveWrite .dict a 4 (leNat (b.take 4)) s
    let t := putWords (a + 4) n (b.drop 4) r.2
    (r.1 && t.1, t.2)

/-- The member's write of an entry that is neither COMMIT nor a claim. -/
def writeNowMember (t : Nat) (r : DRec) (m : Member) (s : State) : Issued :=
  let v := leNat m.value
  match placeOf m.index m.sub with
  | some p =>
    let s1 := runOwner t m.index m.sub s
    issued s1 (placeAddr p) (placeWrite p v s1)
  | none =>
    let a := r.elem m.index m.sub
    if 0x2100 ≤ m.index ∧ m.index < 0x2180 ∧ m.sub = 6 then
      ⟨true, none, s.modDict fun d => { d with zoneOwner := tset 0 d.zoneOwner (m.index - 0x2100) v }⟩
    else if r.backing = 2 then
      let w := putBytes a m.value s
      ⟨w.1, none, w.2⟩
    else if 0x3000 ≤ m.index ∧ m.index < 0x3100 then
      issued s (wordOf a) (arriveWrite .dict (wordOf a) 4 (v % 65536 + 65536 * t) s)
    else if (typeBytes r.type).isSome ∧ typeBits r.type ≤ 32 then
      issued s (wordOf a) (arriveWrite .dict (wordOf a) 4 (setFld (baseWord s (wordOf a)) r.shift (typeBits r.type) v).toNat s)
    else
      issued s (wordOf a + 4 * ((m.value.length + 3) / 4) - 4) (putWords (wordOf a) ((m.value.length + 3) / 4) m.value s)

/-! ### Commit members (R498, R512 to R515) -/

/-- The set that a COMMIT element stages into. -/
def commitSet (a : Nat) : Option CSet :=
  if regionOf a = .scWindow then some (.coef ((a - 0x38000000) / 0x20000)) else (apTable (wordOf a)).bind tableSet

/-- The binding entry of a set. -/
def bindingOf (c : CSet) : Word × Word :=
  let e := fun (kind first unit : Nat) =>
    (BitVec.ofNat 32 (0x80000000 + kind * 0x1000000 + first), BitVec.ofNat 32 (unit * 0x1000000 + 1))
  match c with
  | .coef n => e 1 0 n
  | .node o i => e 2 i o
  | .eq k => e 3 k 0
  | .qnch o => e 4 o 0
  | .tone g => e 5 g 0
  | .line n k => e 6 k n

/-- Where the staged copy of a live word lies, and what it holds: a clean set's copy equals the live word (R191). -/
def stageAt (s : State) (c : CSet) (a : Nat) : Nat :=
  match c with
  | .coef n => coefBase n (!(s.sc n).cbank) + a % 0x2000
  | _ => a + shadowOff
def stagedNow (s : State) (c : CSet) (a : Nat) : Word :=
  match c with
  | .coef n => BitVec.ofNat 32 (s.mrd (if s.isDirty c then stageAt s c a else coefBase n (s.sc n).cbank + a % 0x2000) 4)
  | _ => stagedWord s c a

/-- Stage one COMMIT member: a field of its word, or every word of a wider value; a node's write also writes its live word with the target in force and the tenant as owner. -/
def stageMember (t : Nat) (r : DRec) (m : Member) (s : State) : State :=
  let a := wordOf (r.elem m.index m.sub)
  match commitSet a with
  | some c =>
    let s1 := if (typeBytes r.type).isSome ∧ typeBits r.type ≤ 32 then
        (arriveWrite .dict (stageAt s c a) 4 (setFld (stagedNow s c a) r.shift (typeBits r.type) (leNat m.value)).toNat s).2
      else (putWords (stageAt s c a) ((m.value.length + 3) / 4) m.value s).2
    match c with
    | .node o i => (arriveWrite .dict a 4 (nodeTarget s1 o i + 65536 * t) s1).2
    | _ => s1
  | none => s

/-- The engine's first commit group (R512), and a group of a tenant that is free. -/
def firstGroup (s : State) : Nat := min 48 (s.rdf Reg.dictGrp 0 6)
def groupBusy (s : State) (g : Nat) : Bool :=
  (s.grp g).pending || (List.range 8).any fun t => (s.tenant t).reqs.any fun q => q.st == .atHinge (some g)
def freeGroup (s : State) (t : Nat) : Option Nat :=
  let g := firstGroup s + 2 * t
  if !groupBusy s g then some g else if !groupBusy s (g + 1) then some (g + 1) else none

/-- Is a unit that the members bind bound by another tenant's pending engine group (R513)? -/
def boundElsewhere (s : State) (t : Nat) (cs : List CSet) : Bool :=
  (List.range 16).any fun k =>
    let g := firstGroup s + k
    decide (k / 2 ≠ t) && (s.grp g).pending && cs.any fun c => (grpEntries s g).any fun e => entryBinds e c

/-- The records of some members, with them. -/
def withRecs (s : State) (ms : List Member) : List (DRec × Member) :=
  ms.filterMap fun m => (recOf s m.index m.sub).map fun r => (r, m)

/-- The nodes that members give a gain other than 0: output, input. -/
def nodeMembers (rs : List (DRec × Member)) : List (Nat × Nat) :=
  (rs.filterMap fun x =>
    if 0x3000 ≤ x.2.index ∧ x.2.index < 0x3100 ∧ leNat x.2.value ≠ 0 then some (x.2.index - 0x3000, x.2.sub) else none).eraseDups

/-- R337 and R716: would the nodes pass the limit, or leave too few free for the plan? -/
def nodesFull (s : State) (ns : List (Nat × Nat)) : Bool :=
  let fresh := ns.filter fun x => !nodeOccupied s (nodeKey x.1 x.2)
  let used := nodeUsed s + fresh.length
  let plan := ((planOf s 3).map fun e => (fld e.1 8 8, fld e.1 0 8)).eraseDups
  let have' := (plan.filter fun x => nodeOccupied s (nodeKey x.1 x.2) || fresh.contains x).length
  fresh != [] && (decide (8192 < used) || decide (8192 - used < (s.rd Reg.planNodes).toNat - have'))

/-- The claim request that a member makes: WELD.CLAIM_REQ, as the engine writes it. -/
def claimWord (r : ClaimReq) : Nat := r.zone + 256 * r.claimant + 4096 * r.level + 65536 * r.op

/-- What issuing some members leaves: the commit group, whether anything waits for the hinge, whether any was refused. -/
structure Burst where
  s : State
  grp : Option Nat
  wait : Option Nat
  hinge : Bool
  ok : Bool

/-- A member whose register lies in the always-on domain lets the write before it land (R52, R53). -/
def landFirst (r : DRec) (m : Member) (s : State) : State :=
  let a := match placeOf m.index m.sub with
    | some p => placeAddr p
    | none => r.elem m.index m.sub
  if regionOf a = .slots ∧ a / 0x10000 % 16 = 1 then scLanded s else s

/-- R515: the shadows, the bindings, the other members, the claims, and the commit request. With `land` set the engine has
the time to let each write into the always-on domain land before the next. -/
def issueMembers (land : Bool) (t : Nat) (g : Nat) (ms : List Member) (s : State) : Burst :=
  let rs := withRecs s ms
  let coms := rs.filter fun x => x.1.backing = 3
  let cs := (coms.filterMap fun x => commitSet (x.1.elem x.2.index x.2.sub)).eraseDups
  let s1 := coms.foldl (fun s x => stageMember t x.1 x.2 s) s
  let s2 := if cs = [] then s1
    else
      let s2 := { s1 with regs := s1.regs.filter fun x => decide (x.1 < Reg.bindWord g 0 0 ∨ Reg.bindWord (g + 1) 0 0 ≤ x.1) }
      let s3 := s2.wrn (Reg.grpCfg g) (8 + 65536 * t)
      (cs.foldl (fun (acc : State × Nat) c =>
        let e := bindingOf c
        (((acc.1.wr (Reg.bindWord g acc.2 0) e.1).wr (Reg.bindWord g acc.2 4) e.2), acc.2 + 1)) (s3, 0)).1
  let others := (rs.filter fun x => x.1.backing ≠ 3 ∧ (claimOfMember t x.2).isNone)
  let o := others.foldl (fun (acc : Burst) x =>
    let i := writeNowMember t x.1 x.2 (if land then landFirst x.1 x.2 acc.s else acc.s)
    { acc with s := i.s, wait := i.wait.or acc.wait, hinge := acc.hinge || i.wait.isSome, ok := acc.ok && i.ok }) ⟨s2, none, none, false, true⟩
  let c := (ms.filterMap (claimOfMember t)).foldl (fun (acc : Burst) r =>
    if 64 ≤ acc.s.weld.queue.length then { acc with s := (arriveWrite .dict 0x40040028 4 (claimWord r) acc.s).2, ok := false }
    else { acc with s := (arriveWrite .dict 0x40040028 4 (claimWord r) acc.s).2, hinge := true }) o
  if cs = [] then c
  else
    let s3 := commitRequest 8 true g c.s
    if (s3.grp g).pending then { c with s := s3, grp := some g, hinge := true } else { c with s := s3, ok := false }

/-- A write that has been checked is issued, or waits for a commit group (R512, R513). A refusal by a block at once answers REFUSED,
or PARTIAL for a group. -/
def issueWrite (t : Nat) (q : Req) (s : State) : State :=
  let ms := opMembers q.op
  let rs := withRecs s ms
  let cs := (rs.filterMap fun x => if x.1.backing = 3 then commitSet (x.1.elem x.2.index x.2.sub) else none).eraseDups
  let single := match q.op with
    | .group _ _ => false
    | _ => true
  if nodesFull s (nodeMembers rs) then finish t q.tag 10 0#32 0 [] s
  else match (if cs = [] then some 0 else if boundElsewhere s t cs then none else freeGroup s t) with
    | none => modReq t q.tag (fun q => { q with st := .waiting }) s
    | some g =>
      let b := issueMembers false t g ms s
      if single && !b.ok then finish t q.tag 11 0#32 0 [] b.s
      else match (if single ∧ b.grp = none ∧ cs = [] then b.wait else none) with
        | some a => modReq t q.tag (fun q => { q with st := .inForce a }) b.s
        | none =>
          if b.hinge then modReq t q.tag (fun q => { q with st := .atHinge b.grp, status := if b.ok then 0 else 12 }) b.s
          else writeInForce t q.tag (if b.ok then 0 else 12) 0#32 0 b.s

/-! ### Defaults (R521, R523, persistence classes) -/

/-- DEFAULT of an entry, as bytes: wider types give its address, and a string takes LEN bytes (assumption 14). -/
def defaultOf (s : State) (r : DRec) : List Byte :=
  match typeBytes r.type with
  | some n => if n ≤ 4 then leBytes n r.dflt.toNat else memBytes s.mem r.dflt.toNat n
  | none => memBytes s.mem r.dflt.toNat r.len

/-- The entries of a record. -/
def entriesOf (r : DRec) : List (Nat × Nat) :=
  (List.range (r.last + 1 - r.first)).flatMap fun i => (List.range (r.subLast + 1 - r.subFirst)).map fun k => (r.first + i, r.subFirst + k)

/-- Every entry of the PERSIST class at its default. -/
def defaultMembers (s : State) : List (DRec × Member) :=
  ((recs s).filter fun r => r.persist = 1).flatMap fun r => (entriesOf r).map fun e => (r, ⟨e.1, e.2, r.type, defaultOf s r⟩)

/-- A write to 0x1011 : 1: every PERSIST entry takes its default, and is logged; a handler's value is logged alone. -/
def restoreDefaults (t : Nat) (q : Req) (s : State) : State :=
  match freeGroup s t with
  | none => modReq t q.tag (fun q => { q with st := .waiting }) s
  | some g =>
    let ds := defaultMembers s
    let b := issueMembers true t g ((ds.filter fun x => x.1.backing ≠ 4).map (·.2)) s
    let s1 := (noteLengths (ds.map (·.2)) b.s).modDict fun d => { d with log := d.log ++ ds.map fun x => ⟨8, 0, x.2.index, x.2.sub, x.2.value, false⟩ }
    if b.hinge then modReq t q.tag (fun q => { q with st := .atHinge b.grp }) s1 else writeInForce t q.tag 0 0#32 0 s1

/-! ### The requests -/

/-- READ of a taken request (R497). -/
def readRequest (t tag : Nat) (s : State) : State :=
  match takenReq s t tag with
  | none => s
  | some q =>
    match q.op with
    | .read i sub =>
      if q.warden then (if wardenServes s then finish t tag 0 0#32 0 (wardenRead s i sub) s else s)
      else match recOf s i sub with
        | none => s
        | some r =>
          if r.backing = 4 then passHandler t tag s
          else
            let v := valueRead t i sub r s
            match v.1 with
            | some b => finish t tag 0 0#32 0 b v.2
            | none => finish t tag 11 0#32 0 [] v.2
    | _ => s

/-- The writes that act on tenants (R526, R527, R531). -/
def tenantWrite (t : Nat) (q : Req) (m : Member) (s : State) : Option State :=
  let u := m.index - 0x2000
  if 0x2000 ≤ m.index ∧ m.index < 0x2008 then
    match m.sub with
    | 1 => some (modReq t q.tag (fun q => { q with st := .resetOf u }) (requestReset u true s))
    | 2 =>
      if m.value = [1#8] then some (modReq t q.tag (fun q => { q with st := .resetOf u }) (requestReset u false s))
      else some (writeInForce t q.tag 0 0#32 0 s)
    | 0x10 =>
      match q.sess.bind fun n => createTenant u m.value n s with
      | some s1 => some (writeInForce t q.tag 0 0#32 0 s1)
      | none => some (finish t q.tag 8 0#32 0 [] s)
    | _ => none
  else none

/-- A single write that has been taken, or that has waited for a commit group. -/
def executeWrite (t : Nat) (q : Req) (m : Member) (s : State) : State :=
  if q.warden then
    if wardenServes s then
      let r := wardenWriteEntry m.index m.sub (leNat m.value) s
      if r.1 = 0 then writeInForce t q.tag 0 0#32 0 r.2 else finish t q.tag 11 0#32 r.1 [] r.2
    else s
  else match recOf s m.index m.sub with
    | none => s
    | some r =>
      if r.backing = 4 then passHandler t q.tag s
      else match tenantWrite t q m s with
        | some s1 => s1
        | none =>
          if m.index = 0x1011 ∧ m.sub = 1 then
            (if m.value = [1#8] then restoreDefaults t q s else writeInForce t q.tag 0 0#32 0 s)
          else issueWrite t q s

/-- WRITE of a taken request (R496). -/
def writeRequest (t tag : Nat) (s : State) : State :=
  match takenReq s t tag with
  | none => s
  | some q =>
    match q.op with
    | .write m => executeWrite t q m s
    | _ => s

/-- WRITE_GROUP of a taken request: its members have passed their checks, and it waits for its burst (R510 to R514). -/
def groupRequest (t tag : Nat) (s : State) : State :=
  match takenReq s t tag with
  | none => s
  | some q =>
    match q.op with
    | .group _ _ => modReq t tag (fun q => { q with st := .waiting }) s
    | _ => s

/-- BURST: a request that waits is issued (R512 to R515). -/
def burst (t tag : Nat) (s : State) : State :=
  if dictRuns s then
    match reqOf s t tag with
    | none => s
    | some q =>
      if q.st ≠ .waiting then s
      else match q.op with
        | .write m => executeWrite t q m s
        | .group _ _ => issueWrite t q s
        | _ => s
  else s

/-- SUBSCRIBE and UNSUBSCRIBE (R558, R561): SKIND 1 EVENT, 2 LOG_TAP; a request without a session subscribes the tenant's queue alone. -/
def subscribeSet (t kind : Nat) (x : Option Subscr) (s : State) : State :=
  s.modTenant t fun y =>
    if kind = 1 then { y with subEvent := x } else if kind = 2 then { y with subTap := x } else y

def subscribeRequest (t tag : Nat) (s : State) : State :=
  match takenReq s t tag with
  | none => s
  | some q =>
    match q.op with
    | .subscribe k sev src => finish t tag 0 0#32 0 [] (subscribeSet t k (some ⟨q.sess.getD 32, sev, src⟩) s)
    | _ => s

def unsubscribeRequest (t tag : Nat) (s : State) : State :=
  match takenReq s t tag with
  | none => s
  | some q =>
    match q.op with
    | .unsubscribe k => finish t tag 0 0#32 0 [] (subscribeSet t k none s)
    | _ => s

def nopRequest (t tag : Nat) (s : State) : State :=
  match takenReq s t tag with
  | none => s
  | some q =>
    match q.op with
    | .nop => finish t tag 0 0#32 0 [] s
    | _ => s

/-- T_0's deletion of a tenant, as a command of its own (R527). -/
def tenantDeletion (t : Nat) (s : State) : State := if t = 0 then s else requestReset t true s

/-! ### Enable (R493, R523) -/

/-- The halves of the log as they stand: every line but blank ones, the complete records, and whether a line or a part is bad. -/
def logState (s : State) (h : Nat) : List (List Byte) × List LogEntry × Bool :=
  let all := halfLines s h 8192
  let n := (all.findIdx? blankLine).getD 8192
  let ls := all.take n
  let es := logEntries ls
  (ls, es, decide ((es.foldl (fun k e => k + max 1 ((e.value.length + 47) / 48)) 0) ≠ n))

/-- The largest sequence number of some records. -/
def topSeq (l : List LogEntry) : Nat := l.foldl (fun m e => max m e.seq) 0

/-- DICT_ENABLE: the records are checked, the log is replayed and every PERSIST and FACTORY entry takes its logged value, or DEFAULT. -/
def dictEnable (s : State) : State :=
  if s.enabled 10 ∧ s.dict.loaded = false then
    match badRec [] 0 (recs s) with
    | some k => dictEvent 6 0 ((s.modDict fun d => { d with badRec := k }).wrb 0x400A0004 0 false)
    | none =>
      let a := logState s 0
      let b := logState s 1
      let es := newest (a.2.1 ++ b.2.1)
      let half := bif (topSeq a.2.1).blt (topSeq b.2.1) then 1 else 0
      let vals := ((recs s).filter fun r => (r.persist = 1 ∨ r.persist = 2) ∧ r.backing ≠ 4).flatMap fun r =>
        (entriesOf r).map fun e =>
          let v := match es.find? fun x => x.index == e.1 && x.sub == e.2 with
            | some x => x.value
            | none => defaultOf s r
          (⟨e.1, e.2, r.type, v⟩ : Member)
      let s1 := noteLengths vals (issueMembers true 0 (firstGroup s) vals s).s
      let s2 := heartbeatsRestart (if a.2.2 || b.2.2 then dictEvent 5 0 s1 else s1)
      s2.modDict fun d => { d with
        loaded := true, half := half, line := if half = 1 then b.1.length else a.1.length,
        logSeq := BitVec.ofNat 32 (max (topSeq a.2.1) (topSeq b.2.1)) }
  else s

end Sys2Proof.Machine
end

