-- ==== Sys2Proof/Machine/Frames.lean ====
section
/-! DEFINITION. What a strike, a housekeeping and a hinge do, composed from the blocks' own frame and hinge functions
(chapters 4, 5 and the file of steps). -/

namespace Sys2Proof.Machine
open Sys2Proof

/-- The bridges at a strike of a domain: what each takes in, then what each gives out (R127 to R131). -/
def bridgesStrike (d : Dom) (s : State) : State :=
  let s1 := (List.range 32).foldl (fun s n => bridgeIn d n s) s
  (List.range 32).foldl (fun s n => bridgeOut d n s) s1

/-- The TDM ports at a strike of a domain (R434 to R440). -/
def portsStrike (d : Dom) (din : List (Nat × List Word)) (s : State) : State :=
  (List.range 6).foldl (fun s p => portFrame d din p s) s

/-- What the M domain's fixed blocks do at an M strike, after the destinations have been formed. -/
def mediaStrike (mic sense : List Word) (s : State) : State :=
  monitorFrame (vtFrame (convertersFrame mic sense (playersFrame (tonesFrame (weldFrame (qnchFrame (txStreamsFrame s)))))))

/-- What every strike does alike: the running sample cores begin again (R144), the bridges, then in the F domain the
Speedwell channels (R415), then the domain's destinations and the TDM ports. -/
def commonStrike (d : Dom) (inp : StrikeIn) (s : State) : State :=
  let s1 := bridgesStrike d (strikeCores d s)
  let s2 := if d = .f then spwsFrame s1 else s1
  portsStrike d inp.din (destsStep d s2)

/-- STRIKE (R142): a strike of one rate domain, after the upsets of ECC memory that the time before it has brought. With
the media family standing still there is none (R126, R743). -/
def strike (d : Dom) (inp : StrikeIn) (s0 : State) : State :=
  let s := inp.upsets.foldl (fun s u => eccUpset u s) s0
  if mediaRuns s then
    match d with
    | .f => pilotsAdvance (senseStrike inp.sense (commonStrike .f inp (pilotsScale (frameAdvance s))))
    | .m => mediaStrike inp.mic inp.sense (commonStrike .m inp (rxStreamsFrame s))
    | .v => commonStrike .v inp s
  else s

/-- HOUSEKEEPING (R147) of the cores and fixed blocks of a domain, and the fault summary that it may raise (R660). At its
slot 48 of the F domain the writes apply whose boundary is the next F strike (R897). -/
def housekeeping (d : Dom) (s : State) : State :=
  if mediaRuns s then
    let s1 := summaryCheck (housekeep d s)
    if d = .f then senseBuffered s1 else s1
  else s

/-- The counter step of the hinge, which the receive streams follow (R117 to R119, R488). -/
def hingeClock (s : State) : State :=
  match stepApplied s with
  | some n => rxCounterStep n (clockHinge s)
  | none => clockHinge s

/-- The blocks' buffered writes (R44). -/
def hingeBuffered (s : State) : State :=
  portsBuffered (msgBuffered (tdmBuffered (qnchBuffered (bridgeBuffered (toneBuffered (weldBuffered (engBuffered s)))))))

/-- The graph swap due at the hinge and what waits for it; says whether one was applied (R370, R771). -/
def hingeSwap (s : State) : State × Bool :=
  let o := swapStep s
  (engineDecided o.1, o.2)

/-- A hinge of the temperature sensor's interval (R891). -/
def tempHinge (s : State) : State := { s with power := { s.power with tempAge := min 16 (s.power.tempAge + 1) } }

/-- Arbitration, and what the other blocks do after it. -/
def hingeEnd (s : State) : State :=
  let s1 := vtHingeEnd (weldHingeEnd (vtHingeBegin s))
  tempHinge (evtHinge (anvHinge (dmaHinge (dictHinge (wdogsHinge (senseHinge s1))))))

/-- The hinges since hs of a sleep entry (R743). -/
def sleepCount (s : State) : State :=
  if s.modes.sleep = .entry then s.modModes fun m => { m with sleepHinges := min 0xFFFF (m.sleepHinges + 1) } else s

/-- HINGE (R104): every change due at a hinge, in the order that the chapters give: the clock controller, the halts that
nothing else counts (R185), the mode change first of the rest (R729), the swap, the buffered writes, the tenant resets' first hinge, the commits, then arbitration. -/
def hinge (s : State) : State :=
  if mediaRuns s then
    let s1 := modeStep (planHinge (tenantsH2 (haltsDue (hingeClock s))))
    let o := hingeSwap s1
    let s2 := refreshStarted (commitStep o.2 (tenantsH1 (hingeBuffered o.1)))
    summaryCheck (sleepCount (hingeEnd s2))
  else s

end Sys2Proof.Machine
end

