-- ==== Sys2Proof/Machine/Glue.lean ====
section
/-! DEFINITION. What the meanings of the commands share: the answer of a command, the field of a written word that names
the command, and the events of the crossings that have no block of their own (chapter 3). -/

namespace Sys2Proof.Machine
open Sys2Proof

/-- What a command answers. -/
abbrev Answer := Host.Outcome State Fault Refusal

/-- A written value with a field replaced: the command's own code in the word that the master writes. -/
def withField (v : BitVec 64) (lo n code : Nat) : BitVec 64 :=
  BitVec.ofNat 64 (v.toNat - v.toNat / 2 ^ lo % 2 ^ n * 2 ^ lo + code * 2 ^ lo)

/-- The acknowledgement of a request returns (R76): crossing 4 carries SC writes, 6 the fault summary level, and 12 the
accesses to NET's registers. A debug access over 18 is whole in its own command, and the others use no request. -/
def requestAcknowledge (x : Nat) (s : State) : State :=
  match x with
  | 4 => scLanded s
  | 6 => summaryCheck s
  | 12 => netAcknowledge s
  | _ => s

/-- The wake causes and the loss of the crystal, as crossing 7 brings them (R95, R746). -/
def slowNotice (b : Word) (s : State) : State :=
  let s1 := if b &&& 7#32 ≠ 0#32 then sqSet Reg.modeEvt [3] s else s
  if b.getLsbD 3 then sqSet Reg.clkMon [2] s1 else s1

/-- A merged notification arrives with the bits that it carries (R84, R85). Only crossings 7, 11 and 14 are of this kind. -/
def mergedNotification (x : Nat) (s : State) : State :=
  let r := noticeArrive x s
  if (s.notice x).inFlight then
    match x with
    | 7 => slowNotice r.2 r.1
    | 11 =>
      let s1 := sqSet Reg.netEvt (bitsOf 16 r.2.toNat) r.1
      if r.2.getLsbD 16 then tickArrive s1 else s1
    | 14 => monitorNotice r.2 (micArrive r.2.toNat r.1)
    | _ => r.1
  else s

/-- An expired watchdog with AUTO_RESET resets its core 16 hinges after the expiry (R751). -/
def watchdogReset (c : Nat) (s : State) : State :=
  if s.bit Reg.wdogStat c && s.bit (Reg.wdogCfg c) 25 && decide (16 ≤ tget 0 s.modes.wdSince c) then coreReset c s else s

end Sys2Proof.Machine
end

