-- ==== Sys2Proof/Machine/ExecAtward.lean ====
section
/-! DEFINITION. The meanings of the commands of the Atward instructions and what a control-class core does between them (chapters 7 to 9). The command is the instruction at the core's pc. -/

namespace Sys2Proof.Machine
open Sys2Proof

/-- MOV (R226): MOV copies its source operand to its destination. -/
def execMov (c : CoreId) (e : Enc) (s : State) : Answer := .next (coreRun c .mov e 0 0 s)

/-- PUSH (R228): PUSH decrements SP by 4 and writes the operand at SP. -/
def execPush (c : CoreId) (e : Enc) (s : State) : Answer := .next (coreRun c .push e 0 0 s)

/-- POP (R228): POP reads the word at SP into the operand and increments SP by 4. -/
def execPop (c : CoreId) (e : Enc) (s : State) : Answer := .next (coreRun c .pop e 0 0 s)

/-- ADD (R294): ADD adds b to a and sets the arithmetic flags. -/
def execAdd (c : CoreId) (e : Enc) (s : State) : Answer := .next (coreRun c .add e 0 0 s)

/-- SUB (R294): SUB subtracts b from a and sets the arithmetic flags. -/
def execSub (c : CoreId) (e : Enc) (s : State) : Answer := .next (coreRun c .sub e 0 0 s)

/-- CMP (R294): CMP sets the flags from a − b without storing the result. -/
def execCmp (c : CoreId) (e : Enc) (s : State) : Answer := .next (coreRun c .cmp e 0 0 s)

/-- TST (R216): TST sets N and Z from a AND b, clears C and V, and stores nothing. -/
def execTst (c : CoreId) (e : Enc) (s : State) : Answer := .next (coreRun c .tst e 0 0 s)

/-- AND (R216): AND stores a AND b in a. -/
def execAnd (c : CoreId) (e : Enc) (s : State) : Answer := .next (coreRun c .and e 0 0 s)

/-- OR (R216): OR stores a OR b in a. -/
def execOr (c : CoreId) (e : Enc) (s : State) : Answer := .next (coreRun c .or e 0 0 s)

/-- XOR (R216): XOR stores a XOR b in a. -/
def execXor (c : CoreId) (e : Enc) (s : State) : Answer := .next (coreRun c .xor e 0 0 s)

/-- NOT (R216): NOT writes the complement of s to d. -/
def execNot (c : CoreId) (e : Enc) (s : State) : Answer := .next (coreRun c .not e 0 0 s)

/-- NEG (R294): NEG writes 0 − s to d. -/
def execNeg (c : CoreId) (e : Enc) (s : State) : Answer := .next (coreRun c .neg e 0 0 s)

/-- SHL (R295): SHL shifts a left by the count taken from b. -/
def execShl (c : CoreId) (e : Enc) (s : State) : Answer := .next (coreRun c .shl e 0 0 s)

/-- SHR (R295): SHR shifts a right by the count taken from b, bringing in zeros. -/
def execShr (c : CoreId) (e : Enc) (s : State) : Answer := .next (coreRun c .shr e 0 0 s)

/-- ASR (R295): ASR shifts a right by the count taken from b, bringing in the sign. -/
def execAsr (c : CoreId) (e : Enc) (s : State) : Answer := .next (coreRun c .asr e 0 0 s)

/-- MUL (R296): MUL stores the low w bits of the signed product of a and b in a. -/
def execMul (c : CoreId) (e : Enc) (s : State) : Answer := .next (coreRun c .mul e 0 0 s)

/-- MAC (R219): MAC adds the signed product of a and b to ACC. -/
def execMac (c : CoreId) (e : Enc) (s : State) : Answer := .next (coreRun c .mac e 0 0 s)

/-- MACR (R298): MACR accumulates, writes the rounded and saturated accumulator to d, and clears ACC. -/
def execMacr (c : CoreId) (e : Enc) (s : State) : Answer := .next (coreRun c .macr e 0 0 s)

/-- SAT (R297): SAT writes the rounded and saturated ACC to d. -/
def execSat (c : CoreId) (e : Enc) (s : State) : Answer := .next (coreRun c .sat e 0 0 s)

/-- ADDD (R299): ADDD adds b to a digit by digit in packed decimal. -/
def execAddd (c : CoreId) (e : Enc) (s : State) : Answer := .next (coreRun c .addd e 0 0 s)

/-- SUBD (R299): SUBD subtracts b from a digit by digit in packed decimal. -/
def execSubd (c : CoreId) (e : Enc) (s : State) : Answer := .next (coreRun c .subd e 0 0 s)

/-- DADJ (R300): DADJ decimal-adjusts a binary sum, using the NC bits of the ADD that produced it. -/
def execDadj (c : CoreId) (e : Enc) (s : State) : Answer := .next (coreRun c .dadj e 0 0 s)

/-- B2BCD (R301): B2BCD converts an unsigned binary value to packed decimal. -/
def execB2bcd (c : CoreId) (e : Enc) (s : State) : Answer := .next (coreRun c .b2bcd e 0 0 s)

/-- BCD2B (R301): BCD2B converts a packed-decimal value to binary. -/
def execBcd2b (c : CoreId) (e : Enc) (s : State) : Answer := .next (coreRun c .bcd2b e 0 0 s)

/-- DIGIT (R302): DIGIT extracts nibble k of s into d. -/
def execDigit (c : CoreId) (e : Enc) (s : State) : Answer := .next (coreRun c .digit e 0 0 s)

/-- LIN (R155): LIN reads the published value of a lane. -/
def execLin (c : CoreId) (e : Enc) (s : State) : Answer := .next (coreRun c .lin e 0 0 s)

/-- LOUT (R155): LOUT writes the pending value of a lane. -/
def execLout (c : CoreId) (e : Enc) (s : State) : Answer := .next (coreRun c .lout e 0 0 s)

/-- TAP (R166): TAP reads a delay-line tap at (WP − TAP_t) mod L. -/
def execTap (c : CoreId) (e : Enc) (s : State) : Answer := .next (coreRun c .tap e 0 0 s)

/-- TPUT (R166): TPUT writes a delay line at position WP. -/
def execTput (c : CoreId) (e : Enc) (s : State) : Answer := .next (coreRun c .tput e 0 0 s)

/-- BQD (R306): BQD computes one biquad section and writes its output and states. -/
def execBqd (c : CoreId) (e : Enc) (s : State) : Answer := .next (coreRun c .bqd e 0 0 s)

/-- SKP_CC (R308): SKP.cc decides by its condition whether the next instruction executes or is skipped. -/
def execSkpCc (c : CoreId) (cc : Fin 16) (e : Enc) (s : State) : Answer := .next (coreRun c .skp e cc.val 0 s)

/-- RPT (R310): RPT runs the next instruction n times without interruption. -/
def execRpt (c : CoreId) (e : Enc) (s : State) : Answer := .next (coreRun c .rpt e 0 0 s)

/-- RPTI (R248): RPTI repeats the next instruction, counting RPC down, and may be interrupted between iterations. -/
def execRpti (c : CoreId) (e : Enc) (s : State) : Answer := .next (coreRun c .rpti e 0 0 s)

/-- JMP (R279): JMP continues at its target. -/
def execJmp (c : CoreId) (e : Enc) (s : State) : Answer := .next (coreRun c .jmp e 0 0 s)

/-- JCC (R280): Jcc continues at its target when its condition is true. -/
def execJcc (c : CoreId) (cc : Fin 16) (e : Enc) (s : State) : Answer := .next (coreRun c .jcc e cc.val 0 s)

/-- CALL (R229): CALL pushes the return address and continues at its target. -/
def execCall (c : CoreId) (e : Enc) (s : State) : Answer := .next (coreRun c .call e 0 0 s)

/-- RET (R229): RET pops the return address into PC. -/
def execRet (c : CoreId) (e : Enc) (s : State) : Answer := .next (coreRun c .ret e 0 0 s)

/-- RETI (R253): RETI restores the interrupt frame and updates ACTIVE and RUNLVL. -/
def execReti (c : CoreId) (e : Enc) (s : State) : Answer := .next (coreRun c .reti e 0 0 s)

/-- END (R145): END marks the last program slot and stops a sample core until its next strike. -/
def execEndFrame (c : CoreId) (e : Enc) (s : State) : Answer := .next (coreRun c .endFrame e 0 0 s)

/-- NOP (R149): NOP does nothing for one slot. -/
def execNop (c : CoreId) (e : Enc) (s : State) : Answer := .next (coreRun c .nop e 0 0 s)

/-- WAIT (R250): WAIT stops fetching until an interrupt would be taken. -/
def execWait (c : CoreId) (e : Enc) (s : State) : Answer := .next (coreRun c .wait e 0 0 s)

/-- WAIT_WAKE (R250): A core in WAIT resumes when an eligible interrupt becomes pending. -/
def execWaitWake (c : CoreId) (s : State) : Answer := .next (waitWake c s)

/-- SYS (R239): SYS raises the SYSCALL exception with n in XCAUSE.INFO. -/
def execSysCall (c : CoreId) (e : Enc) (s : State) : Answer := .next (coreRun c .sys e 0 0 s)

/-- MFS (R316): MFS copies a system register, masked, to a memory operand. -/
def execMfs (c : CoreId) (e : Enc) (s : State) : Answer := .next (coreRun c .mfs e 0 0 s)

/-- MTS (R317): MTS writes a memory operand, masked, into a system register. -/
def execMts (c : CoreId) (e : Enc) (s : State) : Answer := .next (coreRun c .mts e 0 0 s)

/-- BMOV (R320): BMOV copies a block of elements, in the direction that overlap requires. -/
def execBmov (c : CoreId) (e : Enc) (k : Nat) (s : State) : Answer := .next (coreRun c .bmov e 0 k s)

/-- BFIL (R319): BFIL fills a block of elements with a value. -/
def execBfil (c : CoreId) (e : Enc) (k : Nat) (s : State) : Answer := .next (coreRun c .bfil e 0 k s)

/-- BCMP (R321): BCMP compares two blocks and stops at the first pair that differs. -/
def execBcmp (c : CoreId) (e : Enc) (k : Nat) (s : State) : Answer := .next (coreRun c .bcmp e 0 k s)

/-- BSCN (R322): BSCN scans a block for the first element equal to a value. -/
def execBscn (c : CoreId) (e : Enc) (k : Nat) (s : State) : Answer := .next (coreRun c .bscn e 0 k s)

/-- BCRC (R323): BCRC computes a CRC-32 over a block into ACC_LO. -/
def execBcrc (c : CoreId) (e : Enc) (k : Nat) (s : State) : Answer := .next (coreRun c .bcrc e 0 k s)

/-- INTERRUPT_ENTRY (R251): At an interruption point, a control core takes the eligible pending interrupt and pushes
its frame. -/
def execInterruptEntry (c : CoreId) (s : State) : Answer := .next (interruptEntry c s)

/-- INVALIDATE_DATA_LINE (R237): CACHE_OP 1 invalidates the data-cache line holding CACHE_ADDR. -/
def execInvalidateDataLine (c : Fin 4) (s : State) : Answer := .next (cacheOp c.val 1 s)

/-- INVALIDATE_DATA_CACHE (R237): CACHE_OP 2 invalidates the whole data cache. -/
def execInvalidateDataCache (c : Fin 4) (s : State) : Answer := .next (cacheOp c.val 2 s)

/-- INVALIDATE_INSTRUCTION_LINE (R237): CACHE_OP 3 invalidates the instruction-cache line holding CACHE_ADDR. -/
def execInvalidateInstructionLine (c : Fin 4) (s : State) : Answer := .next (cacheOp c.val 3 s)

/-- INVALIDATE_INSTRUCTION_CACHE (R237): CACHE_OP 4 invalidates the whole instruction cache. -/
def execInvalidateInstructionCache (c : Fin 4) (s : State) : Answer := .next (cacheOp c.val 4 s)

end Sys2Proof.Machine
end

