-- ==== Sys2Proof/Machine/ExecBus.lean ====
section
/-! DEFINITION. The meanings of the commands of register accesses by their access code, and the crossings between the clock families (chapters 2, 3 and 7). -/

namespace Sys2Proof.Machine
open Sys2Proof

/-- DOORBELL (R244): A write to SYS.DOORBELL pulses SYS sources 8 to 15. -/
def execDoorbell (m : Master) (w : Width) (v : BitVec 64) (s : State) : Answer :=
  .next (regAccess m 0x40001540 w v s)

/-- INT_CLR (R243): A write to SYS.INT_CLR_k clears the latches of pulse sources. -/
def execIntClr (m : Master) (k : Fin 8) (w : Width) (v : BitVec 64) (s : State) : Answer :=
  .next (regAccess m (0x40001420 + 4 * k.val) w v s)

/-- REGISTER_WRITE (R30): A write to a register that has no row of its own behaves as its access code states. -/
def execRegisterWrite (m : Master) (a : Word) (w : Width) (v : BitVec 64) (s : State) : Answer :=
  .next (regAccess m a.toNat w v s)

/-- SET_ALIAS_WRITE (R31): A write through the set alias ORs its value into the register as one operation. -/
def execSetAliasWrite (m : Master) (a : Word) (w : Width) (v : BitVec 64) (s : State) : Answer :=
  .next (regAccess m a.toNat w v s)

/-- CLEAR_ALIAS_WRITE (R31): A write through the clear alias clears the named bits of the register as one operation.
-/
def execClearAliasWrite (m : Master) (a : Word) (w : Width) (v : BitVec 64) (s : State) : Answer :=
  .next (regAccess m a.toNat w v s)

/-- TOGGLE_ALIAS_WRITE (R31): A write through the toggle alias XORs its value into the register as one operation. -/
def execToggleAliasWrite (m : Master) (a : Word) (w : Width) (v : BitVec 64) (s : State) : Answer :=
  .next (regAccess m a.toNat w v s)

/-- CLEAR_ON_READ (R35): A full-width bus read of an RC register returns its value and clears it. -/
def execClearOnRead (m : Master) (a : Word) (w : Width) (s : State) : Answer := .next (regFetch m a.toNat w s)

/-- SQ_WRITE_BACK (R38): A write-back to an SQ register clears the named bits whose tags are not newer than the
written sequence. -/
def execSqWriteBack (m : Master) (a : Word) (w : Width) (v : BitVec 64) (s : State) : Answer :=
  .next (regAccess m a.toNat w v s)

/-- WB_WRITE (R43): A write to a WB register lands in its shadow and waits for the block's boundary. -/
def execWbWrite (m : Master) (a : Word) (w : Width) (v : BitVec 64) (s : State) : Answer :=
  .next (regAccess m a.toNat w v s)

/-- WD_WRITE (R48): A write to a WD register is taken only while its governing enable is 0, and is refused otherwise.
-/
def execWdWrite (m : Master) (a : Word) (w : Width) (v : BitVec 64) (s : State) : Answer :=
  .next (regAccess m a.toNat w v s)

/-- SC_WRITE (R52): A write to an SC register sets WPEND and crosses into the always-on domain. -/
def execScWrite (m : Master) (a : Word) (w : Width) (v : BitVec 64) (s : State) : Answer :=
  .next (regAccess m a.toNat w v s)

/-- SC_WRITE_LANDED (R52): An SC write lands in the always-on domain, and WPEND clears when the acknowledgement
returns. -/
def execScWriteLanded (s : State) : Answer := .next (scLanded s)

/-- LO_WRITE (R56): A write to the _LO half of a 64-bit value is held until a write to _HI. -/
def execLoWrite (m : Master) (a : Word) (w : Width) (v : BitVec 64) (s : State) : Answer :=
  .next (regAccess m a.toNat w v s)

/-- HI_WRITE (R56): A write to the _HI half of a 64-bit value applies both halves together. -/
def execHiWrite (m : Master) (a : Word) (w : Width) (v : BitVec 64) (s : State) : Answer :=
  .next (regAccess m a.toNat w v s)

/-- POSTED_WRITE_DELIVERY (R66): The bridge delivers a posted write in issue order, logging POSTED_ERR on a bus error.
-/
def execPostedWriteDelivery (toAudio : Bool) (s : State) : Answer := .next (deliverNext toAudio s)

/-- SPLIT_READ_RETURN (R68): The data of a split read across the bridge returns and frees its tracking entry. -/
def execSplitReadReturn (i : Nat) (s : State) : Answer := .next (splitReturn i s)

/-- SPLIT_TIMEOUT (R69): A split read not returned within 4096 fabric cycles ends with a bus error. -/
def execSplitTimeout (i : Nat) (s : State) : Answer := .next (splitTimeout i s)

/-- FLASH_BANK_WRITE (R24): A write to SYS.FLASH_BANK switches the flash window once every earlier read has completed.
-/
def execFlashBankWrite (m : Master) (w : Width) (v : BitVec 64) (s : State) : Answer :=
  .next (regAccess m 0x40000080 w v s)

/-- REQUEST_ACKNOWLEDGE (R76): The acknowledgement of a request/acknowledge crossing returns and completes the access.
-/
def execRequestAcknowledge (x : Fin 22) (s : State) : Answer := .next (requestAcknowledge x.val s)

/-- MERGED_NOTIFICATION (R84): A merged notification arrives, advancing SEQ once for the source events it merges. -/
def execMergedNotification (x : Fin 22) (s : State) : Answer := .next (mergedNotification x.val s)

/-- FIFO_RESYNC (R91): After a side leaves reset, a FIFO crossing resynchronises its pointers and becomes ready. -/
def execFifoResync (x : Fin 14) (s : State) : Answer := .next (fifoResync x.val s)

/-- SLOW_CLOCK_LOST (R95): The monitor detects a stopped or wrong slow clock and sets SLOW_LOST. -/
def execSlowClockLost (s : State) : Answer := .next (slowLost s)

/-- NETWORK_CLOCK_LOST (R95): The monitor detects a stopped or wrong network clock and sets NET_LOST. -/
def execNetworkClockLost (s : State) : Answer := .next (netLost s)

/-- CRYSTAL_LOST (R126): On loss of the crystal, the part stops the media family and holds every block outside the
always-on domain in reset. -/
def execCrystalLost (s : State) : Answer := .next (crystalLost s)

/-- MEDIA_PLL_UNLOCK (R123): On media PLL unlock, the part switches to the reference PLL and the servo enters
FREE_RUN. -/
def execMediaPllUnlock (s : State) : Answer := .next (mediaUnlock s)

/-- CLOCK_QUALIFIED (R95): A clock's state bit is set once its clearing condition holds. -/
def execClockQualified (k : ClockId) (s : State) : Answer := .next (clockQualified k s)

/-- NET_TIMEOUT (R97): A NET access not acknowledged within 256 fabric cycles ends with a bus error. -/
def execNetTimeout (s : State) : Answer := .next (netTimeout s)

end Sys2Proof.Machine
end

