-- ==== Sys2Proof/Machine/ExecClock.lean ====
section
/-! DEFINITION. The meanings of the commands of the clocked engine: strikes, housekeeping and hinges, the media clock, the bridges and the tone sequencer (chapters 4, 5 and 12). -/

namespace Sys2Proof.Machine
open Sys2Proof

/-- STRIKE (R142): At every strike of its domain, each running sample core begins its program again and every
frame-rate block computes its frame. -/
def execStrike (d : Dom) (inp : StrikeIn) (s : State) : Answer := .next (strike d inp s)

/-- HOUSEKEEPING (R147): In the last 64 slots of a frame, the engine does its housekeeping in a fixed order for every
core and fixed block whose frame ends there. -/
def execHousekeeping (d : Dom) (s : State) : Answer := .next (housekeeping d s)

/-- HINGE (R104): At each hinge, every change due at that hinge is made in the housekeeping that ends at its strike.
-/
def execHinge (s : State) : Answer := .next (hinge s)

/-- FAMILIES_STOP (R743): Sleep entry completes when the media, reference and network families stop within 32 hinges
of hs. -/
def execFamiliesStop (s : State) : Answer := .next (familiesStop s)

/-- CORE_HALTED (R187): After its stop fade, a core halts at the first hinge at or after the end of frame 15. -/
def execCoreHalted (n : Fin 16) (s : State) : Answer := .next (coreHalted n.val s)

/-- HINGE_TICK (R467): The PTP clock emits a hinge tick at each whole multiple of 62,500 ns. -/
def execHingeTick (lead : Int) (s : State) : Answer := .next (hingeTick lead s)

/-- HOLDOVER_LAPSE (R113): HOLDOVER that has lasted SYS.MCLK_HOLD_LIMIT seconds returns the servo to FREE_RUN. -/
def execHoldoverLapse (s : State) : Answer := .next (holdoverLapse s)

/-- BRIDGE_RUN (R134): An asynchronous bridge enters RUN once its ratio estimate has held steady for 1024 external
frames. -/
def execBridgeRun (n : Fin 32) (s : State) : Answer := .next (bridgeRun n.val s)

/-- BRIDGE_STOPPED (R136): An asynchronous bridge that receives no external frame for 64 media-side frames sets
STOPPED and fades both directions. -/
def execBridgeStopped (n : Fin 32) (s : State) : Answer := .next (bridgeStopped n.val s)

/-- PATTERN_STEP (R397): A tone generator's sequencer begins the next step after STEP_LEN hinges, making an envelope
edge when the step's bit changes. -/
def execPatternStep (g : Fin 64) (s : State) : Answer := .next (patternStep g.val s)

/-- GENERATOR_STOPPED (R401): A generator whose run bit was cleared stops once its envelope has fallen. -/
def execGeneratorStopped (g : Fin 64) (s : State) : Answer := .next (generatorStopped g.val s)

end Sys2Proof.Machine
end

