-- ==== Sys2Proof/Machine/ExecDict.lean ====
section
/-! DEFINITION. The meanings of the commands of the object dictionary, the Riller front end and the CAN controllers (chapters 16, 17 and 20). -/

namespace Sys2Proof.Machine
open Sys2Proof

/-- REQUEST_PLACEMENT (R501): A request is placed on a tenant queue with the tenant's next arrival number. -/
def execRequestPlacement (t : Fin 8) (rank : Fin 8) (tag : BitVec 16) (op : ReqOp) (s : State) : Answer :=
  .next (requestPlacement t.val rank.val tag.toNat op s)

/-- REQUEST_TAKE (R505): The dictionary engine takes a queued request once no earlier request names the same entry. -/
def execRequestTake (s : State) : Answer := .next (requestTake s)

/-- RESPONSE_HOLD_RELEASE (R509): A completion held for a full response queue is placed when space appears. -/
def execResponseHoldRelease (t : Fin 8) (s : State) : Answer := .next (responseHoldRelease t.val s)

/-- READ (R497): A READ request returns the live value of an entry. -/
def execReadReq (t : Fin 8) (tag : BitVec 16) (s : State) : Answer := .next (readRequest t.val tag.toNat s)

/-- WRITE (R496): A WRITE request sets an entry and completes when the value is in force. -/
def execWriteReq (t : Fin 8) (tag : BitVec 16) (s : State) : Answer := .next (writeRequest t.val tag.toNat s)

/-- WRITE_GROUP (R510): A WRITE_GROUP request checks its members and writes them to take effect at one hinge. -/
def execWriteGroupReq (t : Fin 8) (tag : BitVec 16) (s : State) : Answer := .next (groupRequest t.val tag.toNat s)

/-- SUBSCRIBE (R561): SUBSCRIBE replaces the tenant's subscription of that kind. -/
def execSubscribeReq (t : Fin 8) (tag : BitVec 16) (s : State) : Answer := .next (subscribeRequest t.val tag.toNat s)

/-- UNSUBSCRIBE (R561): UNSUBSCRIBE ends the tenant's subscription of that kind. -/
def execUnsubscribeReq (t : Fin 8) (tag : BitVec 16) (s : State) : Answer :=
  .next (unsubscribeRequest t.val tag.toNat s)

/-- REQUEST_NOP (R558): A NOP request completes with OK and counts as a heartbeat. -/
def execRequestNop (t : Fin 8) (tag : BitVec 16) (s : State) : Answer := .next (nopRequest t.val tag.toNat s)

/-- BURST (R514): The engine issues a write-group's members in one burst once enough time remains before the commit
step. -/
def execBurst (t : Fin 8) (tag : BitVec 16) (s : State) : Answer := .next (burst t.val tag.toNat s)

/-- HDONE (R520): A write to DICT.HDONE completes a handler request. -/
def execHdone (m : Master) (w : Width) (v : BitVec 64) (s : State) : Answer := .next (regAccess m 0x400A0090 w v s)

/-- HANDLER_TIMEOUT (R520): A handler request not completed within HTIMEOUT hinges completes with TIMEOUT. -/
def execHandlerTimeout (slot : Fin 1024) (s : State) : Answer := .next (handlerTimeout slot.val s)

/-- PERSIST_RECORD (R521): A persistent write's log record is written to the Keep, and the response follows. -/
def execPersistRecord (ok : Bool) (s : State) : Answer := .next (persistRecord ok s)

/-- COMPACTION (R522): Compaction of the persistent log completes and the other half becomes active. -/
def execCompaction (s : State) : Answer := .next (compaction s)

/-- DICT_ENABLE (R493): Enabling the dictionary engine checks the records and replays the persistent log. -/
def execDictEnable (s : State) : Answer := .next (dictEnable s)

/-- HEARTBEAT_LOST (R528): A tenant without a heartbeat for HB_MISS periods is marked lost and its HB_ACTION is
applied. -/
def execHeartbeatLost (t : Fin 8) (s : State) : Answer := .next (heartbeatLost t.val s)

/-- TENANT_RESET (R531): A tenant reset request stops the engine placing or taking the tenant's requests. -/
def execTenantReset (m : Master) (w : Width) (v : BitVec 64) (s : State) : Answer :=
  .next (regAccess m 0x400A003C w v s)

/-- TENANT_CREATION (R526): T_0's write of a key blob makes a tenant ACTIVE. -/
def execTenantCreation (t : Fin 8) (blob : List Byte) (sess : Fin 32) (s : State) : Answer :=
  .next (tenantCreation t.val blob sess.val s)

/-- TENANT_DELETION (R527): T_0's write of 0 to a tenant's state deletes the tenant after a tenant reset. -/
def execTenantDeletion (t : Fin 8) (s : State) : Answer := .next (tenantDeletion t.val s)

/-- LOCAL_REQUEST (R535): A privileged master posts a request directly by advancing DICT.Q_PROD. -/
def execLocalRequest (m : Master) (q : Fin 64) (w : Width) (v : BitVec 64) (s : State) : Answer :=
  .next (regAccess m (Reg.qProd q.val) w v s)

/-- OPEN (R540): A verified OPEN is answered with OPEN_ACK and opens a session. -/
def execOpenSession (tr : Transport) (ip : Word) (port : Nat) (msg : List Byte) (sid : Word) (s : State) : Answer :=
  .next (openMessage tr ip port msg sid s)

/-- CEILING_RAISE (R541): The raise of the OPEN counter ceiling in the Keep completes. -/
def execCeilingRaise (s : State) : Answer := .next (ceilingRaise s)

/-- REQUEST (R555): A REQUEST message is authenticated and its records are placed in body order. -/
def execRequestMsg (tr : Transport) (ip : Word) (port : Nat) (msg : List Byte) (s : State) : Answer :=
  .next (requestMessage tr ip port msg s)

/-- CLOSE (R547): An authenticated CLOSE closes its session. -/
def execCloseSession (tr : Transport) (ip : Word) (port : Nat) (msg : List Byte) (s : State) : Answer :=
  .next (closeMessage tr ip port msg s)

/-- SESSION_IDLE (R547): A session idle for SESS_IDLE seconds is closed after a CLOSE is sent. -/
def execSessionIdle (n : Fin 32) (s : State) : Answer := .next (sessionIdle n.val s)

/-- SESS_CLOSE (R547): A write to DICT.SESS_CLOSE closes the named sessions with reason 3. -/
def execSessClose (m : Master) (w : Width) (v : BitVec 64) (s : State) : Answer :=
  .next (regAccess m 0x400A0814 w v s)

/-- RESPONSE (R560): The front end sends a RESPONSE message carrying the session's placed responses. -/
def execResponseMsg (n : Fin 32) (s : State) : Answer := .next (responseMessage n.val s)

/-- EVENT (R563): An EVENT message is sent when full or 16 hinges after its first record. -/
def execEventMsg (t : Fin 8) (tap : Bool) (s : State) : Answer := .next (eventMessage t.val tap s)

/-- CAN_FRAME_RECEIVED (R678): A received CAN frame enters the receive FIFO or the Riller front end. -/
def execCanFrameReceived (k : Fin 2) (f : CanFrame) (bad : Bool) (s : State) : Answer :=
  .next (canReceived k.val f bad s)

/-- REASSEMBLY_TIMEOUT (R567): A message whose next frame is more than 10 ms late is discarded. -/
def execReassemblyTimeout (k : Fin 2) (ident : Nat) (s : State) : Answer := .next (reassemblyTimeout k.val ident s)

/-- BUS_OFF_RECOVERY (R679): With AUTO_RECOVER, the controller rejoins after 128 occurrences of 11 recessive bits. -/
def execBusOffRecovery (k : Fin 2) (s : State) : Answer := .next (busOffRecovery k.val s)

/-- CAN_TXREQ (R677): A write to CAN_TXREQ sends the named transmit buffers, lowest identifier first. -/
def execCanTxreq (m : Master) (k : Fin 2) (w : Width) (v : BitVec 64) (s : State) : Answer :=
  .next (regAccess m (0x400F1014 + 0x400 * k.val) w v s)

/-- RECEIVE_WINDOW_READ (R678): A read of word 17 of the receive window removes the oldest frame. -/
def execReceiveWindowRead (m : Master) (k : Fin 2) (i : Fin 18) (w : Width) (s : State) : Answer :=
  .next (regFetch m (0x400F1260 + 0x400 * k.val + 4 * i.val) w s)

/-- CAN_FRAME_SENT (R677): A CAN controller finishes sending a transmit buffer, winning arbitration or meeting an
error, and sets TX_DONE or advances its error counters. -/
def execCanFrameSent (k : Fin 2) (b : Fin 8) (r : CanEnd) (s : State) : Answer :=
  .next (canFrameSent k.val b.val r s)

end Sys2Proof.Machine
end

