-- ==== Sys2Proof/Machine/ExecDma.lean ====
section
/-! DEFINITION. The meanings of the commands of the DMA engine (chapter 18). -/

namespace Sys2Proof.Machine
open Sys2Proof

/-- START (R574): CH_CTRL.START applies the staged values and starts a register-mode transfer. -/
def execStartDma (m : Master) (ch : Fin 128) (w : Width) (v : BitVec 64) (s : State) : Answer :=
  .next (regAccess m (Reg.dma ch.val 4) w (v ||| 2#64) s)

/-- TRANSFER_COMPLETE (R575): A register-mode transfer ends once every write has completed, and sets EOC. -/
def execTransferComplete (ch : Fin 128) (s : State) : Answer := .next (transferComplete ch s)

/-- TAIL_WRITE (R578): A write to CH_TAIL hands descriptors over, or is refused at SIZE or above. -/
def execTailWrite (m : Master) (ch : Fin 128) (w : Width) (v : BitVec 64) (s : State) : Answer :=
  .next (regAccess m (Reg.dma ch.val 0x34) w v s)

/-- DESCRIPTOR_FETCH (R579): A channel fetches the next pending descriptor and checks it. -/
def execDescriptorFetch (ch : Fin 128) (s : State) : Answer := .next (descriptorFetch ch s)

/-- DESCRIPTOR_COMPLETION (R596): A descriptor completes, writes its status and advances HEAD. -/
def execDescriptorCompletion (ch : Fin 128) (s : State) : Answer := .next (descriptorCompletion ch s)

/-- LATE_ERR (R594): A bus error returning after a BARRIER 0 status was written sets LATE_ERR. -/
def execLateErr (ch : Fin 128) (s : State) : Answer := .next (lateErr ch.val s)

/-- CHANNEL_ENABLE (R604): Writing ENABLE 1 checks the channel's configuration before it runs. -/
def execChannelEnable (m : Master) (ch : Fin 128) (w : Width) (v : BitVec 64) (s : State) : Answer :=
  .next (regAccess m (Reg.dma ch.val 4) w (v ||| 1#64) s)

/-- HELD_ENABLE (R605): An ENABLE held while the channel was not idle takes effect once IDLE is 1. -/
def execHeldEnable (ch : Fin 128) (s : State) : Answer := .next (heldEnable ch.val s)

/-- CHANNEL_DISABLE (R606): Clearing ENABLE stops the channel at once and discards its funnel data. -/
def execChannelDisable (m : Master) (ch : Fin 128) (w : Width) (v : BitVec 64) (s : State) : Answer :=
  .next (regAccess m (Reg.dma ch.val 4) w (withField v 0 1 0) s)

/-- DMA_DISABLE (R609): Clearing DMA.CTRL.ENABLE stops every channel as a disable does. -/
def execDmaDisable (m : Master) (w : Width) (v : BitVec 64) (s : State) : Answer :=
  .next (regAccess m 0x400B0004 w (withField v 0 1 0) s)

/-- REQUEST_LINE (R599): An asserted request line lets its channel move one line. -/
def execRequestLine (ch : Fin 128) (s : State) : Answer := .next (requestLine ch s)

end Sys2Proof.Machine
end

