-- ==== Sys2Proof/Machine/ExecModes.lean ====
section
/-! DEFINITION. The meanings of the commands of the operating modes and the watchdogs (chapter 22). -/

namespace Sys2Proof.Machine
open Sys2Proof

/-- REQUEST_SERVICE (R731): A request SERVICE moves the part from VIGIL watch to SERVICE at the next hinge. -/
def execRequestService (m : Master) (s : State) : Answer := .next (regAccess m 0x40000404 .word 1#64 s)

/-- REQUEST_WATCH (R731): A request WATCH moves the part from SERVICE to VIGIL watch at the next hinge. -/
def execRequestWatch (m : Master) (s : State) : Answer := .next (regAccess m 0x40000404 .word 2#64 s)

/-- REQUEST_SLEEP (R731): A request SLEEP starts sleep entry from VIGIL watch. -/
def execRequestSleep (m : Master) (s : State) : Answer := .next (regAccess m 0x40000404 .word 3#64 s)

/-- REQUEST_EVACUATE (R731): A request EVACUATE from the dictionary engine enters EVACUATE at the next hinge. -/
def execRequestEvacuate (m : Master) (s : State) : Answer := .next (regAccess m 0x40000404 .word 4#64 s)

/-- REQUEST_EXIT (R731): A request EXIT from the dictionary engine ends EVACUATE at the next hinge. -/
def execRequestExit (m : Master) (s : State) : Answer := .next (regAccess m 0x40000404 .word 5#64 s)

/-- WAKE (R746): A rising level on WAKE held for 2 slow cycles issues a wake request. -/
def execWake (high : Bool) (s : State) : Answer := .next (wakeLevel high s)

/-- WAKE_TIMER (R746): The slow-cycle count reaching WAKE_TIME issues a wake request. -/
def execWakeTimer (s : State) : Answer := .next (wakeTimer s)

/-- FAST_WAKE (R747): After XTAL_OK, the part checks the seal, zeroes memories, restores context and runs the engine.
-/
def execFastWake (straps : Fin 8) (slept : Nat) (s : State) : Answer := .next (fastWake straps.val slept s)

/-- PAD_RELEASE (R745): A write of PAD_RELEASE releases the pads held through sleep. -/
def execPadRelease (m : Master) (w : Width) (v : BitVec 64) (s : State) : Answer :=
  .next (regAccess m 0x4001026C w (v ||| 1#64) s)

/-- WDOG_KICK (R750): A write of the kick value reloads the watchdog's period. -/
def execWdogKick (m : Master) (c : Fin 4) (w : Width) (v : BitVec 64) (s : State) : Answer :=
  .next (regAccess m (0x40000424 + 0x10 * c.val) w v s)

/-- WATCHDOG_EXPIRY (R751): At watchdog expiry, the core enters LOCKUP. -/
def execWatchdogExpiry (c : Fin 4) (s : State) : Answer := .next (watchdogExpiry c.val s)

/-- WATCHDOG_RESET (R751): With AUTO_RESET, the core is reset 16 hinges after expiry. -/
def execWatchdogReset (c : Fin 4) (s : State) : Answer := .next (watchdogReset c.val s)

end Sys2Proof.Machine
end

