-- ==== Sys2Proof/Machine/ExecMsg.lean ====
section
/-! DEFINITION. The meanings of the commands of the Keep, the message players and the event log (chapter 21). -/

namespace Sys2Proof.Machine
open Sys2Proof

/-- KEEP_CMD (R694): A write of MSG.KEEP_CMD with GO programs the software port's line. -/
def execKeepCmd (m : Master) (w : Width) (v : BitVec 64) (s : State) : Answer :=
  .next (regAccess m Reg.keepCmd w v s)

/-- LINE_PROGRAM_DONE (R691): A Keep line program ends, with verification and one retry. -/
def execLineProgramDone (readsBack : Bool) (s : State) : Answer := .next (lineProgramDone readsBack s)

/-- PLAY (R697): PLAY plays a clip for the frames it occupies. -/
def execPlayOp (p : Fin 16) (s : State) : Answer := .next (playOp p.val s)

/-- GAP (R702): GAP plays n silent M frames. -/
def execGapOp (p : Fin 16) (s : State) : Answer := .next (gapOp p.val s)

/-- SPELL (R704): SPELL plays a decimal number as clips. -/
def execSpellOp (p : Fin 16) (s : State) : Answer := .next (spellOp p.val s)

/-- LIST (R705): LIST plays a list of clip indices, optionally dropping leading zeros. -/
def execListOp (p : Fin 16) (s : State) : Answer := .next (listOp p.val s)

/-- TONE (R706): TONE runs a tone generator for a number of cycles and then continues. -/
def execToneOp (p : Fin 16) (s : State) : Answer := .next (toneOp p.val s)

/-- JUMP (R702): JUMP continues the script at a target word. -/
def execJumpOp (p : Fin 16) (s : State) : Answer := .next (jumpOp p.val s)

/-- STOP (R707): STOP ends the script, clears the run bit and sets DONE. -/
def execStopOp (p : Fin 16) (s : State) : Answer := .next (stopOp p.val s)

/-- PLAN_LOAD (R712): The plan loader applies INPUT and TONESET entries and sets LOADED. -/
def execPlanLoad (s : State) : Answer := .next (planLoad s)

/-- FW_GO (R723): A write of EVT.FW_GO makes a firmware event record. -/
def execFwGo (m : Master) (w : Width) (v : BitVec 64) (s : State) : Answer :=
  .next (regAccess m 0x400E0220 w (v ||| 1#64) s)

/-- BUCKET_REFILL (R722): The record bucket refills by 16 every 250 hinges. -/
def execBucketRefill (s : State) : Answer := .next (bucketRefill s)

/-- JOURNAL_LINE_WRITE (R725): The journal writes a line when it holds two records, or after 1 s with one. -/
def execJournalLineWrite (s : State) : Answer := .next (journalLineWrite s)

end Sys2Proof.Machine
end

