-- ==== Sys2Proof/Machine/ExecNet.lean ====
section
/-! DEFINITION. The meanings of the commands of the TDM ports and the network (chapters 14 and 15). -/

namespace Sys2Proof.Machine
open Sys2Proof

/-- RECEIVED_FRAME (R438): A slave TDM port receives a frame and assigns it to an engine frame. -/
def execReceivedFrame (p : Fin 6) (slots : List Word) (spacingOk : Bool) (phase : Nat) (s : State) : Answer :=
  .next (receivedFrame p.val slots spacingOk phase s)

/-- NO_FRAME (R442): A slave port without an FSYNC edge for 2 frame periods enters LOF. -/
def execNoFrame (p : Fin 6) (s : State) : Answer := .next (noFrame p.val s)

/-- LINK_UP (R453): A port reports LINK up when sync and auto-negotiation hold. -/
def execLinkUp (portB : Bool) (s : State) : Answer := .next (linkChange portB true s)

/-- LINK_DOWN (R453): A port reports LINK down on loss of sync or an auto-negotiation restart. -/
def execLinkDown (portB : Bool) (s : State) : Answer := .next (linkChange portB false s)

/-- FRAME_RECEIVED (R459): A frame received on a ring port is forwarded, delivered or discarded. -/
def execFrameReceived (portB : Bool) (f : NetFrame) (dt : Nat) (s : State) : Answer :=
  .next (frameReceived portB f dt s)

/-- SUPERVISION_FRAME (R463): The part sends an HSR supervision frame on both ports every 2 s. -/
def execSupervisionFrame (s : State) : Answer := .next (supervisionFrame s)

/-- NODE_FORGET (R463): A ring node is forgotten 60 s after its last supervision frame. -/
def execNodeForget (mac : BitVec 48) (s : State) : Answer := .next (nodeForget mac s)

/-- TRANSMIT_PACKET (R477): At each packet boundary, a transmit stream sends a packet of its last P frames. -/
def execTransmitPacket (k : Fin 64) (s : State) : Answer := .next (transmitPacket k.val s)

/-- MISSING_PACKET (R483): A packet without an accepted copy by its frame is counted LOST and its lanes fade. -/
def execMissingPacket (k : Fin 64) (s : State) : Answer := .next (missingPacket k.val s)

/-- OFFSET_RETURN (R487): After 64 packets that fit at OFFSET 0, the engine resets OFFSET at the next packet boundary.
-/
def execOffsetReturn (k : Fin 64) (s : State) : Answer := .next (offsetReturn k.val s)

/-- STREAM_ENABLE (R489): A stream's enable change applies at its packet boundary, with the checks at enable. -/
def execStreamEnable (tx : Bool) (k : Fin 64) (s : State) : Answer := .next (streamEnable tx k.val s)

/-- IGMP_REPORT (R474): The part sends the second unsolicited IGMPv3 report 1 s after the first. -/
def execIgmpReport (k : Fin 64) (s : State) : Answer := .next (igmpReport k.val s)

/-- STEP (R465): A write of PTP_CTRL.STEP steps the PTP clock and clears SYNCED. -/
def execStepPtp (m : Master) (w : Width) (v : BitVec 64) (s : State) : Answer :=
  .next (regAccess m Reg.ptpCtrl w (v ||| 0x100#64) s)

/-- SNAP (R466): A write of PTP_CTRL.SNAP copies the PTP time of one instant to the snapshot registers. -/
def execSnapPtp (m : Master) (w : Width) (v : BitVec 64) (s : State) : Answer :=
  .next (regAccess m Reg.ptpCtrl w (v ||| 0x200#64) s)

/-- SYNC_TIMEOUT (R470): Hardware clears SYNCED when no Sync message has been accepted for PTP_TIMEOUT ms. -/
def execSyncTimeout (s : State) : Answer := .next (syncTimeout s)

/-- PPS_OUT (R472): PTP_PPS_OUT rises as the PTP time passes each whole second. -/
def execPpsOut (s : State) : Answer := .next (ppsOut s)

/-- PPS_OUT_END (R472): PTP_PPS_OUT falls after WIDTH ms. -/
def execPpsOutEnd (s : State) : Answer := .next (ppsOutEnd s)

/-- PPS_IN_EDGE (R89): A rising edge at PTP_PPS_IN is timestamped. -/
def execPpsInEdge (cycles : Nat) (s : State) : Answer := .next (ppsInEdge cycles s)

end Sys2Proof.Machine
end

