-- ==== Sys2Proof/Machine/ExecPorts.lean ====
section
/-! DEFINITION. The meanings of the commands of the host SPI port, the UARTs, the I²C controllers and the pins (chapters 15 and 20). -/

namespace Sys2Proof.Machine
open Sys2Proof

/-- HOST_WRITE (R668): The host SPI WRITE command places words in the write FIFO for ascending addresses. -/
def execHostWrite (a : Word) (count : BitVec 16) (words : List Word) (s : State) : Answer :=
  .next (hsWrite 4 a count.toNat words s)

/-- WRITE_FIXED (R668): The host SPI WRITE_FIXED command writes every word to one address. -/
def execWriteFixed (a : Word) (count : BitVec 16) (words : List Word) (s : State) : Answer :=
  .next (hsWrite 0 a count.toNat words s)

/-- HOST_READ (R667): The host SPI READ command performs word reads and returns a marker and the data. A transaction with an unknown command is
given as one with COUNT 0: it too performs nothing and sets PROTO (R669). -/
def execHostRead (a : Word) (count : Nat) (cut : Option Nat) (s : State) : Answer := .next (hostRead 4 a count cut s)

/-- READ_FIXED (R667): The host SPI READ_FIXED command reads every word from one address. -/
def execReadFixed (a : Word) (count : Nat) (cut : Option Nat) (s : State) : Answer := .next (hostRead 0 a count cut s)

/-- HOST_STATUS (R670): The host SPI STATUS command returns the status byte and clears its error bits. -/
def execHostStatus (s : State) : Answer := .next (hostStatus s)

/-- HOST_WORD_WRITE (R668): The port writes the next word of the write FIFO once the previous write has responded. -/
def execHostWordWrite (s : State) : Answer := .next (hostWordWrite s)

/-- UART_TXD_WRITE (R673): A write to UART_TXD appends a character to the transmit FIFO. -/
def execUartTxdWrite (m : Master) (k : Fin 2) (w : Width) (v : BitVec 64) (s : State) : Answer :=
  .next (regAccess m (0x400F0408 + 0x40 * k.val) w v s)

/-- UART_RXD_READ (R674): A read of UART_RXD removes the oldest receive entry. -/
def execUartRxdRead (m : Master) (k : Fin 2) (w : Width) (s : State) : Answer :=
  .next (regFetch m (0x400F040C + 0x40 * k.val) w s)

/-- CHARACTER_RECEIVED (R674): A received character enters the receive FIFO, or is dropped when the FIFO is full. -/
def execCharacterReceived (k : Fin 2) (ch : Byte) (parityErr framingErr brk : Bool) (s : State) : Answer :=
  .next (characterReceived k.val ch parityErr framingErr brk s)

/-- CHARACTER_SENT (R673): A UART shifts the oldest character of its transmit FIFO out as a frame, freeing FIFO space
and asserting the transmit request line. -/
def execCharacterSent (k : Fin 2) (s : State) : Answer := .next (characterSent k.val s)

/-- I2C_START (R681): A START command issues a start condition and an address byte. -/
def execI2cStart (k : Fin 2) (r : I2cEnd) (s : State) : Answer := .next (i2cRun k.val 1 (fun _ => none) r s)

/-- I2C_WRITE (R681): A WRITE command sends a byte and records the acknowledge. -/
def execI2cWrite (k : Fin 2) (r : I2cEnd) (s : State) : Answer :=
  .next (i2cRun k.val 2 (fun b => some (i2cEntry b (r == .nack))) r s)

/-- I2C_READ_ACK (R681): A READ with ACK command reads a byte and acknowledges it. -/
def execI2cReadAck (k : Fin 2) (data : Byte) (r : I2cEnd) (s : State) : Answer :=
  .next (i2cRun k.val 3 (fun _ => some (i2cEntry data.toNat false)) r s)

/-- I2C_READ_NACK (R681): A READ with NACK command reads a byte without acknowledging it. -/
def execI2cReadNack (k : Fin 2) (data : Byte) (r : I2cEnd) (s : State) : Answer :=
  .next (i2cRun k.val 4 (fun _ => some (i2cEntry data.toNat false)) r s)

/-- I2C_STOP (R681): A STOP command issues a stop condition. -/
def execI2cStop (k : Fin 2) (r : I2cEnd) (s : State) : Answer := .next (i2cRun k.val 5 (fun _ => none) r s)

/-- I2C_TIMEOUT (R682): SCL held low for more than 25 ms ends the command sequence. -/
def execI2cTimeout (k : Fin 2) (s : State) : Answer := .next (i2cTimeout k.val s)

/-- GPIO_EDGE (R685): A selected edge on a GPIO pin sets its bit in GPIO_EDGE. -/
def execGpioEdge (n : Fin 32) (level : Bool) (s : State) : Answer := .next (gpioEdge n.val level s)

/-- PHY_INTERRUPT (R244): A change of the PHY_INT_N input asserts or deasserts NET level interrupt source 146. -/
def execPhyInterrupt (level : Bool) (s : State) : Answer := .next (phyInterrupt level s)

end Sys2Proof.Machine
end

