-- ==== Sys2Proof/Machine/ExecPower.lean ====
section
/-! DEFINITION. The meanings of the commands of resets, the trim load and the test port (chapters 24 and 25). -/

namespace Sys2Proof.Machine
open Sys2Proof

/-- ALWAYS_ON_POWER_UP (R843): VDD_AON33 below 2.50 V resets the whole part, and the always-on domain becomes ready
after 1024 slow cycles. -/
def execAlwaysOnPowerUp (s : State) : Answer := .next (alwaysOnPowerUp s)

/-- DEVICE_RESET (R848): A holding condition, such as RESET_N or PWR_OK low, resets everything outside the always-on
domain. -/
def execDeviceReset (cause : HoldCause) (s : State) : Answer := .next (holdReset cause s)

/-- BROWN_OUT (R842): A supply below its threshold for more than 1 µs trips its detector and holds device reset. -/
def execBrownOut (x : Supply) (s : State) : Answer := .next (brownOut x s)

/-- RESET_RELEASE (R844): Device reset ends at the slow edge after two free slow cycles. -/
def execResetRelease (ioB33 : Bool) (s : State) : Answer := .next (resetRelease ioB33 s)

/-- DEV_RESET (R851): The key written to SYS.DEV_RESET causes a device reset. -/
def execDevReset (m : Master) (w : Width) (v : BitVec 64) (s : State) : Answer :=
  .next (regAccess m 0x40000700 w v s)

/-- WARDEN_DEV_RESET (R851): A write to WARDEN.DEV_RESET causes a device reset. -/
def execWardenDevReset (m : Master) (w : Width) (v : BitVec 64) (s : State) : Answer :=
  .next (regAccess m 0xE0000404 w (v ||| 1#64) s)

/-- CORE_RESET (R852): A write to SYS.CC_RESET resets one control core. -/
def execCoreReset (m : Master) (w : Width) (v : BitVec 64) (s : State) : Answer :=
  .next (regAccess m 0x40000704 w v s)

/-- BLOCK_RESET (R853): A write to SYS.BLK_RESET resets one peripheral block. -/
def execBlockReset (m : Master) (w : Width) (v : BitVec 64) (s : State) : Answer :=
  .next (regAccess m 0x40000708 w v s)

/-- TAP_RESET (R847): TRST_N low, or five TCK cycles with TMS high, resets the JTAG TAP. -/
def execTapReset (s : State) : Answer := .next (tapReset s)

/-- TRIM_LOAD (R857): The trim load reads the 48 rows, taking copy 0, copy 1 or the default. -/
def execTrimLoad (s : State) : Answer := .next (trimLoad s)

/-- TEMPERATURE_UPDATE (R891): SYS.TEMP is updated every 16 hinges. -/
def execTemperatureUpdate (t : BitVec 16) (s : State) : Answer := .next (temperatureUpdate t s)

/-- JTAG_DEBUG_ACCESS (R831): A debugger performs a debug bus access or control-core debug instruction through the
JTAG TAP, which the TAP honours only under a JTAG grant. -/
def execJtagDebugAccess (op : JtagOp) (s : State) : Answer := .next (jtagAccess op s)

end Sys2Proof.Machine
end

