-- ==== Sys2Proof/Machine/ExecSafe.lean ====
section
/-! DEFINITION. The meanings of the commands of safe load, graph swaps and the Weld matrix (chapters 6, 10 and 11). -/

namespace Sys2Proof.Machine
open Sys2Proof

/-- SHADOW_WRITE (R192): A shadow write stages a value, copying a clean paired set first and marking it DIRTY. -/
def execShadowWrite (m : Master) (a : Word) (w : Width) (v : BitVec 64) (s : State) : Answer :=
  .next (regArrive m a.toNat w v s)

/-- COMMIT_REQUEST (R199): A commit request from the group's owner makes the group pending. -/
def execCommitRequest (m : Master) (hi : Bool) (w : Width) (v : BitVec 64) (s : State) : Answer :=
  .next (regAccess m (0x40030020 + 4 * b2n hi) w v s)

/-- COEF_BANK_COPY_END (R204): The copy of the new live coefficient bank into the inactive bank ends and releases held
writes. -/
def execCoefBankCopyEnd (n : Fin 16) (s : State) : Answer := .next (coefCopyEnd n.val s)

/-- ARM (R369): A write of ARM arms the graph swap for the next swap step. -/
def execArmSwap (m : Master) (w : Width) (v : BitVec 64) (s : State) : Answer :=
  .next (regAccess m 0x40020040 w (v ||| 1#64) s)

/-- CANCEL (R378): A write of CANCEL makes the armed swap complete as CANCELLED at the next hinge. -/
def execCancelSwap (m : Master) (w : Width) (v : BitVec 64) (s : State) : Answer :=
  .next (regAccess m 0x40020040 w (v ||| 2#64) s)

/-- NODE_WRITE (R332): A direct write to a node's live word is buffered to the hinge, subject to the node limit. -/
def execNodeWrite (m : Master) (a : Word) (w : Width) (v : BitVec 64) (s : State) : Answer :=
  .next (regArrive m a.toNat w v s)

/-- CLAIM (R341): A claim request queues a claim of a zone at a level. -/
def execClaim (m : Master) (w : Width) (v : BitVec 64) (s : State) : Answer :=
  .next (regAccess m 0x40040028 w (withField v 16 2 1) s)

/-- RELEASE (R346): A release request queues the removal of a claimant's claim on a zone. -/
def execRelease (m : Master) (w : Width) (v : BitVec 64) (s : State) : Answer :=
  .next (regAccess m 0x40040028 w (withField v 16 2 2) s)

/-- RELEASE_ALL (R341): A request with OP 3 queues the removal of every claim of the claimant. -/
def execReleaseAll (m : Master) (w : Width) (v : BitVec 64) (s : State) : Answer :=
  .next (regAccess m 0x40040028 w (withField v 16 2 3) s)

end Sys2Proof.Machine
end

