-- ==== Sys2Proof/Machine/ExecSense.lean ====
section
/-! DEFINITION. The meanings of the commands of line supervision, the silent test, the mic lines, the contacts and the FAULT_N latch (chapters 19 and 20). -/

namespace Sys2Proof.Machine
open Sys2Proof

/-- WINDOW_RESULT (R613): At the end of each demodulation window, a line monitor forms and classes an impedance
result. -/
def execWindowResult (n : Fin 8) (s : State) : Answer := .next (windowResult n.val s)

/-- RELAY (R621): The monitor sets its relay bit and drives its GPIO at the hinge after the fault. -/
def execRelayDrive (n : Fin 8) (s : State) : Answer := .next (relayDrive n.val s)

/-- LM_ACK (R623): An acknowledgement returns a monitor in FAULT with an in-window result to WATCH. -/
def execLmAck (m : Master) (w : Width) (v : BitVec 64) (s : State) : Answer := .next (regAccess m 0x400C0028 w v s)

/-- LM_LEARN (R618): A learning request puts a monitor in LEARN from its next window. -/
def execLmLearn (m : Master) (w : Width) (v : BitVec 64) (s : State) : Answer := .next (regAccess m 0x400C002C w v s)

/-- PASS_START (R630): VT_CTRL.START starts a silent-test pass and queues its claims. -/
def execPassStart (m : Master) (w : Width) (v : BitVec 64) (s : State) : Answer :=
  .next (regAccess m 0x400C0400 w (v ||| 1#64) s)

/-- ABORT (R635): An abort ends a running pass at the next hinge and releases its claims. -/
def execAbort (m : Master) (w : Width) (v : BitVec 64) (s : State) : Answer :=
  .next (regAccess m 0x400C0400 w (v ||| 2#64) s)

/-- AMBIENT_END (R628): At the end of AMBIENT, each slot's stimulus level is fixed from the ambient level. -/
def execAmbientEnd (s : State) : Answer := .next (ambientEnd s)

/-- PREROLL_END (R631): After one sequence period, ACCUM begins with zeroed buffers. -/
def execPrerollEnd (s : State) : Answer := .next (prerollEnd s)

/-- ACCUM_END (R630): After N_PER periods, the stimulus fades and TRANSFORM begins. -/
def execAccumEnd (s : State) : Answer := .next (accumEnd s)

/-- TRANSFORM_END (R636): The correlation is complete, each slot's results and verdict are formed, and DONE is set. -/
def execTransformEnd (s : State) : Answer := .next (transformEnd s)

/-- DC_SENSE_SAMPLE (R642): The DC sense samples the bias current every 1 ms and moves the plug state. -/
def execDcSenseSample (x : Fin 2) (microAmps : Nat) (s : State) : Answer := .next (dcSense x.val microAmps s)

/-- RELEARN (R644): RELEARN takes I0 and the type afresh and releases every held button. -/
def execRelearn (m : Master) (x : Fin 2) (w : Width) (v : BitVec 64) (s : State) : Answer :=
  .next (regAccess m (Reg.micDc x.val) w (v ||| 0x100#64) s)

/-- GAIN_CHANGE (R649): A microphone gain change applies at the next zero crossing, or after 480 frames. -/
def execGainChange (x : Fin 2) (s : State) : Answer := .next (gainChange x.val s)

/-- CONTACT_SCAN (R653): At each scan, every enabled contact is biased and classed. -/
def execContactScan (n : Fin 8) (cls : Fin 4) (s : State) : Answer := .next (contactScan n.val cls.val s)

/-- CONTACT_EVENT (R659): The fabric-side monitor raises a CONTACT event when a crossed counter advances. -/
def execContactEvent (n : Fin 8) (s : State) : Answer := .next (contactEvent n.val s)

/-- FORCE (R660): A write of FAULT_CTRL.FORCE sets the FAULT_N latch. -/
def execForceLatch (m : Master) (w : Width) (v : BitVec 64) (s : State) : Answer :=
  .next (regAccess m 0x40010240 w (v ||| 2#64) s)

/-- CLEAR (R662): A write of FAULT_CTRL.CLEAR clears the latch unless a fault still stands. -/
def execClearLatch (m : Master) (w : Width) (v : BitVec 64) (s : State) : Answer :=
  .next (regAccess m 0x40010240 w (v ||| 1#64) s)

end Sys2Proof.Machine
end

