-- ==== Sys2Proof/Machine/ExecWarden.lean ====
section
/-! DEFINITION. The meanings of the commands of the Warden: the boot chain, its mailbox, the image slots and the Anvil port (chapters 23 and 24). -/

namespace Sys2Proof.Machine
open Sys2Proof

/-- COLD_BOOT (R767): The Warden boots the images in order, from the copies in the order the selection gives. -/
def execColdBoot (straps : Fin 8) (s : State) : Answer := .next (coldBoot straps.val s)

/-- IMAGE_ATTEMPT (R766): One copy of an image is checked and installed, or fails with a cause. -/
def execImageAttempt (kind : ImageKind) (copy : CopyId) (s : State) : Answer := .next (imageAttempt kind copy s)

/-- BOOT_TIMEOUT (R766): An image attempt that reaches the 2 s boot timer fails with TIMEOUT. -/
def execBootTimeout (kind : ImageKind) (copy : CopyId) (s : State) : Answer := .next (bootTimeout kind copy s)

/-- NETWORK_COPY_TIMEOUT (R761): A network copy not delivered within 10 s fails with SOURCE. -/
def execNetworkCopyTimeout (kind : ImageKind) (s : State) : Answer := .next (networkTimeout kind s)

/-- RECOVERY_LOADER (R833): The ROM recovery loader starts and publishes boot stage RECOVERY. -/
def execRecoveryLoader (s : State) : Answer := .next (recoveryLoader s)

/-- VERIFY_GRAPH (R788): VERIFY_GRAPH verifies a graph image into staging and sets VERIFIED. -/
def execVerifyGraph (m : Master) (arg : Word) (s : State) : Answer := .next (mailboxIssue 1 m arg s)

/-- MEASURE (R788): MEASURE extends TALLY_7 with a firmware measurement. -/
def execMeasure (m : Master) (arg : Word) (s : State) : Answer := .next (mailboxIssue 2 m arg s)

/-- BEGIN_SLOT (R811): BEGIN_SLOT makes a flash slot WRITING and opens its write window. -/
def execBeginSlot (m : Master) (arg : Word) (s : State) : Answer := .next (mailboxIssue 16 m arg s)

/-- MARK_PENDING (R812): MARK_PENDING checks a written slot and makes it PENDING with 3 trials. -/
def execMarkPending (m : Master) (arg : Word) (s : State) : Answer := .next (mailboxIssue 17 m arg s)

/-- CONFIRM (R813): CONFIRM makes the pending slot CONFIRMED and ACTIVE and raises the floors. -/
def execConfirm (m : Master) (arg : Word) (s : State) : Answer := .next (mailboxIssue 18 m arg s)

/-- ABANDON (R811): ABANDON writes the PENDING slot FAILED. -/
def execAbandon (m : Master) (arg : Word) (s : State) : Answer := .next (mailboxIssue 19 m arg s)

/-- WRITE_K (R814): WRITE_K checks an image set and programs the K slot. -/
def execWriteK (m : Master) (arg : Word) (s : State) : Answer := .next (mailboxIssue 20 m arg s)

/-- WRITE_PLAN (R815): WRITE_PLAN programs, verifies and loads a new fallback plan. -/
def execWritePlan (m : Master) (arg : Word) (s : State) : Answer := .next (mailboxIssue 21 m arg s)

/-- BURN_FLOOR (R811): BURN_FLOOR programs the SVN_FLOOR fuse to a count. -/
def execBurnFloor (m : Master) (arg : Word) (s : State) : Answer := .next (mailboxIssue 22 m arg s)

/-- MAILBOX_COMPLETION (R789): A Warden command completes, writes its result and pulses doorbell 7. -/
def execMailboxCompletion (s : State) : Answer := .next (mailboxCompletion s)

/-- ROOT_REVOKE (R793): A revocation of a root programs its ROOT_REVOKE bit, unless refused. -/
def execRootRevoke (k : Fin 4) (s : State) : Answer := .next ((rootRevokeAct k.val s).2)

/-- TALLY_EXT (R781): A write of WARDEN.TALLY_EXT extends a tally with MEAS. -/
def execTallyExt (m : Master) (w : Width) (v : BitVec 64) (s : State) : Answer :=
  .next (regAccess m 0xE0000240 w v s)

/-- ANVIL_STATUS (R822): The Anvil STATUS command returns the published status with its buffer indices. -/
def execAnvilStatus (s : State) : Answer := .next (anvilStatus s)

/-- PUT (R823): The Anvil PUT command places bytes in the host-to-Warden FIFO. -/
def execAnvPut (lenField : Nat) (bytes : List Byte) (crc : Half) (complete : Bool) (s : State) : Answer :=
  .next (anvilPut lenField bytes crc complete s)

/-- GET (R824): The Anvil GET command returns bytes from the Warden-to-host FIFO. -/
def execAnvGet (rep : Bool) (max : Nat) (s : State) : Answer := .next (anvilGet rep max s)

/-- DATA (R818): A DATA message delivers a chunk of an image in answer to an ASK. -/
def execDataChunk (kind : ImageKind) (off : Word) (seq : BitVec 16) (bytes : List Byte) (s : State) : Answer :=
  .next (dataMsg kind off seq bytes s)

/-- NONE (R818): A NONE message fails the attempt for that kind with SOURCE. -/
def execNoneImage (kind : ImageKind) (s : State) : Answer := .next (noneMsg kind s)

/-- ASK_TIMEOUT (R818): An ASK unanswered for 100 ms is repeated with a new SEQ. -/
def execAskTimeout (s : State) : Answer := .next (askTimeout s)

/-- CHAL_REQ (R826): CHAL_REQ makes the Warden answer with a CHALLENGE. -/
def execChalReq (grant : Word) (seq : BitVec 16) (s : State) : Answer := .next (challengeRequest grant seq s)

/-- AUTH (R827): AUTH checks a signed challenge and grants the requested access. -/
def execAnvAuth (body : List Byte) (seq : BitVec 16) (s : State) : Answer := .next (authenticate body seq s)

/-- RECOVER (R834): RECOVER rewrites a slot, the K slot or the plan from images drawn by ASK. -/
def execRecover (target : RecoverTarget) (seq : BitVec 16) (s : State) : Answer := .next (recoverMsg target seq s)

/-- RECOVER_TIMEOUT (R835): An ASK of the recovery loader left unanswered for 10 s ends the RECOVER with DONE SOURCE.
-/
def execRecoverTimeout (s : State) : Answer := .next (recoverTimeout s)

/-- REBOOT (R836): REBOOT requests a device reset. -/
def execReboot (s : State) : Answer := .next (reboot s)

/-- TRANSFER_CLOSE (R829): CLOSE ends the Anvil session and its grants. -/
def execTransferClose (s : State) : Answer := .next (transferClose s)

/-- MREAD (R830): MREAD reads words for the host under the MEMORY grant. -/
def execMread (a : Word) (count : Nat) (seq : BitVec 16) (s : State) : Answer := .next (mread a count seq s)

/-- MWRITE (R830): MWRITE writes words for the host under the MEMORY grant. -/
def execMwrite (a : Word) (words : List Word) (seq : BitVec 16) (s : State) : Answer := .next (mwrite a words seq s)

/-- STATUS_PUBLICATION (R90): The always-on domain publishes the Anvil status into the other buffer, flips the
published-buffer index and advances the publication count. -/
def execStatusPublication (s : State) : Answer := .next (statusPublication s)

/-- FLASH_PROGRAM_COMMAND (R800): A program or erase command to the octal-SPI controller is performed, or is refused
for a closed slot with FLASH_WP_EVT.REFUSED. -/
def execFlashProgramCommand (off : Word) (erase : Bool) (bytes : List Byte) (s : State) : Answer :=
  .next (flashProgram off erase bytes s)

end Sys2Proof.Machine
end

