-- ==== Sys2Proof/Machine/Dispatch.lean ====
section
/-! DEFINITION. What each command does: one arm a constructor, one meaning an arm. -/

namespace Sys2Proof.Machine
open Sys2Proof

def exec (i : Instr) (s : State) : Host.Outcome State Fault Refusal :=
  match i with
  | .strike d inp => Sys2Proof.Machine.execStrike d inp s
  | .housekeeping d => Sys2Proof.Machine.execHousekeeping d s
  | .hinge => Sys2Proof.Machine.execHinge s
  | .familiesStop => Sys2Proof.Machine.execFamiliesStop s
  | .coreHalted n => Sys2Proof.Machine.execCoreHalted n s
  | .hingeTick lead => Sys2Proof.Machine.execHingeTick lead s
  | .holdoverLapse => Sys2Proof.Machine.execHoldoverLapse s
  | .bridgeRun n => Sys2Proof.Machine.execBridgeRun n s
  | .bridgeStopped n => Sys2Proof.Machine.execBridgeStopped n s
  | .patternStep g => Sys2Proof.Machine.execPatternStep g s
  | .generatorStopped g => Sys2Proof.Machine.execGeneratorStopped g s
  | .mov c e => Sys2Proof.Machine.execMov c e s
  | .push c e => Sys2Proof.Machine.execPush c e s
  | .pop c e => Sys2Proof.Machine.execPop c e s
  | .add c e => Sys2Proof.Machine.execAdd c e s
  | .sub c e => Sys2Proof.Machine.execSub c e s
  | .cmp c e => Sys2Proof.Machine.execCmp c e s
  | .tst c e => Sys2Proof.Machine.execTst c e s
  | .and c e => Sys2Proof.Machine.execAnd c e s
  | .or c e => Sys2Proof.Machine.execOr c e s
  | .xor c e => Sys2Proof.Machine.execXor c e s
  | .not c e => Sys2Proof.Machine.execNot c e s
  | .neg c e => Sys2Proof.Machine.execNeg c e s
  | .shl c e => Sys2Proof.Machine.execShl c e s
  | .shr c e => Sys2Proof.Machine.execShr c e s
  | .asr c e => Sys2Proof.Machine.execAsr c e s
  | .mul c e => Sys2Proof.Machine.execMul c e s
  | .mac c e => Sys2Proof.Machine.execMac c e s
  | .macr c e => Sys2Proof.Machine.execMacr c e s
  | .sat c e => Sys2Proof.Machine.execSat c e s
  | .addd c e => Sys2Proof.Machine.execAddd c e s
  | .subd c e => Sys2Proof.Machine.execSubd c e s
  | .dadj c e => Sys2Proof.Machine.execDadj c e s
  | .b2bcd c e => Sys2Proof.Machine.execB2bcd c e s
  | .bcd2b c e => Sys2Proof.Machine.execBcd2b c e s
  | .digit c e => Sys2Proof.Machine.execDigit c e s
  | .lin c e => Sys2Proof.Machine.execLin c e s
  | .lout c e => Sys2Proof.Machine.execLout c e s
  | .tap c e => Sys2Proof.Machine.execTap c e s
  | .tput c e => Sys2Proof.Machine.execTput c e s
  | .bqd c e => Sys2Proof.Machine.execBqd c e s
  | .skpCc c cc e => Sys2Proof.Machine.execSkpCc c cc e s
  | .rpt c e => Sys2Proof.Machine.execRpt c e s
  | .rpti c e => Sys2Proof.Machine.execRpti c e s
  | .jmp c e => Sys2Proof.Machine.execJmp c e s
  | .jcc c cc e => Sys2Proof.Machine.execJcc c cc e s
  | .call c e => Sys2Proof.Machine.execCall c e s
  | .ret c e => Sys2Proof.Machine.execRet c e s
  | .reti c e => Sys2Proof.Machine.execReti c e s
  | .endFrame c e => Sys2Proof.Machine.execEndFrame c e s
  | .nop c e => Sys2Proof.Machine.execNop c e s
  | .wait c e => Sys2Proof.Machine.execWait c e s
  | .waitWake c => Sys2Proof.Machine.execWaitWake c s
  | .sysCall c e => Sys2Proof.Machine.execSysCall c e s
  | .mfs c e => Sys2Proof.Machine.execMfs c e s
  | .mts c e => Sys2Proof.Machine.execMts c e s
  | .bmov c e k => Sys2Proof.Machine.execBmov c e k s
  | .bfil c e k => Sys2Proof.Machine.execBfil c e k s
  | .bcmp c e k => Sys2Proof.Machine.execBcmp c e k s
  | .bscn c e k => Sys2Proof.Machine.execBscn c e k s
  | .bcrc c e k => Sys2Proof.Machine.execBcrc c e k s
  | .interruptEntry c => Sys2Proof.Machine.execInterruptEntry c s
  | .invalidateDataLine c => Sys2Proof.Machine.execInvalidateDataLine c s
  | .invalidateDataCache c => Sys2Proof.Machine.execInvalidateDataCache c s
  | .invalidateInstructionLine c => Sys2Proof.Machine.execInvalidateInstructionLine c s
  | .invalidateInstructionCache c => Sys2Proof.Machine.execInvalidateInstructionCache c s
  | .doorbell m w v => Sys2Proof.Machine.execDoorbell m w v s
  | .intClr m k w v => Sys2Proof.Machine.execIntClr m k w v s
  | .registerWrite m a w v => Sys2Proof.Machine.execRegisterWrite m a w v s
  | .setAliasWrite m a w v => Sys2Proof.Machine.execSetAliasWrite m a w v s
  | .clearAliasWrite m a w v => Sys2Proof.Machine.execClearAliasWrite m a w v s
  | .toggleAliasWrite m a w v => Sys2Proof.Machine.execToggleAliasWrite m a w v s
  | .clearOnRead m a w => Sys2Proof.Machine.execClearOnRead m a w s
  | .sqWriteBack m a w v => Sys2Proof.Machine.execSqWriteBack m a w v s
  | .wbWrite m a w v => Sys2Proof.Machine.execWbWrite m a w v s
  | .wdWrite m a w v => Sys2Proof.Machine.execWdWrite m a w v s
  | .scWrite m a w v => Sys2Proof.Machine.execScWrite m a w v s
  | .scWriteLanded => Sys2Proof.Machine.execScWriteLanded s
  | .loWrite m a w v => Sys2Proof.Machine.execLoWrite m a w v s
  | .hiWrite m a w v => Sys2Proof.Machine.execHiWrite m a w v s
  | .postedWriteDelivery toAudio => Sys2Proof.Machine.execPostedWriteDelivery toAudio s
  | .splitReadReturn x => Sys2Proof.Machine.execSplitReadReturn x s
  | .splitTimeout x => Sys2Proof.Machine.execSplitTimeout x s
  | .flashBankWrite m w v => Sys2Proof.Machine.execFlashBankWrite m w v s
  | .requestAcknowledge x => Sys2Proof.Machine.execRequestAcknowledge x s
  | .mergedNotification x => Sys2Proof.Machine.execMergedNotification x s
  | .fifoResync x => Sys2Proof.Machine.execFifoResync x s
  | .slowClockLost => Sys2Proof.Machine.execSlowClockLost s
  | .networkClockLost => Sys2Proof.Machine.execNetworkClockLost s
  | .crystalLost => Sys2Proof.Machine.execCrystalLost s
  | .mediaPllUnlock => Sys2Proof.Machine.execMediaPllUnlock s
  | .clockQualified k => Sys2Proof.Machine.execClockQualified k s
  | .netTimeout => Sys2Proof.Machine.execNetTimeout s
  | .shadowWrite m a w v => Sys2Proof.Machine.execShadowWrite m a w v s
  | .commitRequest m hi w v => Sys2Proof.Machine.execCommitRequest m hi w v s
  | .coefBankCopyEnd n => Sys2Proof.Machine.execCoefBankCopyEnd n s
  | .armSwap m w v => Sys2Proof.Machine.execArmSwap m w v s
  | .cancelSwap m w v => Sys2Proof.Machine.execCancelSwap m w v s
  | .nodeWrite m a w v => Sys2Proof.Machine.execNodeWrite m a w v s
  | .claim m w v => Sys2Proof.Machine.execClaim m w v s
  | .release m w v => Sys2Proof.Machine.execRelease m w v s
  | .releaseAll m w v => Sys2Proof.Machine.execReleaseAll m w v s
  | .receivedFrame p slots spacingOk phase => Sys2Proof.Machine.execReceivedFrame p slots spacingOk phase s
  | .noFrame p => Sys2Proof.Machine.execNoFrame p s
  | .linkUp portB => Sys2Proof.Machine.execLinkUp portB s
  | .linkDown portB => Sys2Proof.Machine.execLinkDown portB s
  | .frameReceived portB f dt => Sys2Proof.Machine.execFrameReceived portB f dt s
  | .supervisionFrame => Sys2Proof.Machine.execSupervisionFrame s
  | .nodeForget mac => Sys2Proof.Machine.execNodeForget mac s
  | .transmitPacket k => Sys2Proof.Machine.execTransmitPacket k s
  | .missingPacket k => Sys2Proof.Machine.execMissingPacket k s
  | .offsetReturn k => Sys2Proof.Machine.execOffsetReturn k s
  | .streamEnable tx k => Sys2Proof.Machine.execStreamEnable tx k s
  | .igmpReport k => Sys2Proof.Machine.execIgmpReport k s
  | .stepPtp m w v => Sys2Proof.Machine.execStepPtp m w v s
  | .snapPtp m w v => Sys2Proof.Machine.execSnapPtp m w v s
  | .syncTimeout => Sys2Proof.Machine.execSyncTimeout s
  | .ppsOut => Sys2Proof.Machine.execPpsOut s
  | .ppsOutEnd => Sys2Proof.Machine.execPpsOutEnd s
  | .ppsInEdge dt => Sys2Proof.Machine.execPpsInEdge dt s
  | .requestPlacement t rank tag op => Sys2Proof.Machine.execRequestPlacement t rank tag op s
  | .requestTake => Sys2Proof.Machine.execRequestTake s
  | .responseHoldRelease t => Sys2Proof.Machine.execResponseHoldRelease t s
  | .readReq t tag => Sys2Proof.Machine.execReadReq t tag s
  | .writeReq t tag => Sys2Proof.Machine.execWriteReq t tag s
  | .writeGroupReq t tag => Sys2Proof.Machine.execWriteGroupReq t tag s
  | .subscribeReq t tag => Sys2Proof.Machine.execSubscribeReq t tag s
  | .unsubscribeReq t tag => Sys2Proof.Machine.execUnsubscribeReq t tag s
  | .requestNop t tag => Sys2Proof.Machine.execRequestNop t tag s
  | .burst t tag => Sys2Proof.Machine.execBurst t tag s
  | .hdone m w v => Sys2Proof.Machine.execHdone m w v s
  | .handlerTimeout slot => Sys2Proof.Machine.execHandlerTimeout slot s
  | .persistRecord ok => Sys2Proof.Machine.execPersistRecord ok s
  | .compaction => Sys2Proof.Machine.execCompaction s
  | .dictEnable => Sys2Proof.Machine.execDictEnable s
  | .heartbeatLost t => Sys2Proof.Machine.execHeartbeatLost t s
  | .tenantReset m w v => Sys2Proof.Machine.execTenantReset m w v s
  | .tenantCreation t blob sess => Sys2Proof.Machine.execTenantCreation t blob sess s
  | .tenantDeletion t => Sys2Proof.Machine.execTenantDeletion t s
  | .localRequest m q w v => Sys2Proof.Machine.execLocalRequest m q w v s
  | .openSession tr ip port msg sid => Sys2Proof.Machine.execOpenSession tr ip port msg sid s
  | .ceilingRaise => Sys2Proof.Machine.execCeilingRaise s
  | .requestMsg tr ip port msg => Sys2Proof.Machine.execRequestMsg tr ip port msg s
  | .closeSession tr ip port msg => Sys2Proof.Machine.execCloseSession tr ip port msg s
  | .sessionIdle n => Sys2Proof.Machine.execSessionIdle n s
  | .sessClose m w v => Sys2Proof.Machine.execSessClose m w v s
  | .responseMsg n => Sys2Proof.Machine.execResponseMsg n s
  | .eventMsg t tap => Sys2Proof.Machine.execEventMsg t tap s
  | .canFrameReceived k f bad => Sys2Proof.Machine.execCanFrameReceived k f bad s
  | .reassemblyTimeout k ident => Sys2Proof.Machine.execReassemblyTimeout k ident s
  | .busOffRecovery k => Sys2Proof.Machine.execBusOffRecovery k s
  | .canTxreq m k w v => Sys2Proof.Machine.execCanTxreq m k w v s
  | .receiveWindowRead m k x w => Sys2Proof.Machine.execReceiveWindowRead m k x w s
  | .startDma m ch w v => Sys2Proof.Machine.execStartDma m ch w v s
  | .transferComplete ch => Sys2Proof.Machine.execTransferComplete ch s
  | .tailWrite m ch w v => Sys2Proof.Machine.execTailWrite m ch w v s
  | .descriptorFetch ch => Sys2Proof.Machine.execDescriptorFetch ch s
  | .descriptorCompletion ch => Sys2Proof.Machine.execDescriptorCompletion ch s
  | .lateErr ch => Sys2Proof.Machine.execLateErr ch s
  | .channelEnable m ch w v => Sys2Proof.Machine.execChannelEnable m ch w v s
  | .heldEnable ch => Sys2Proof.Machine.execHeldEnable ch s
  | .channelDisable m ch w v => Sys2Proof.Machine.execChannelDisable m ch w v s
  | .dmaDisable m w v => Sys2Proof.Machine.execDmaDisable m w v s
  | .requestLine ch => Sys2Proof.Machine.execRequestLine ch s
  | .windowResult n => Sys2Proof.Machine.execWindowResult n s
  | .relayDrive n => Sys2Proof.Machine.execRelayDrive n s
  | .lmAck m w v => Sys2Proof.Machine.execLmAck m w v s
  | .lmLearn m w v => Sys2Proof.Machine.execLmLearn m w v s
  | .passStart m w v => Sys2Proof.Machine.execPassStart m w v s
  | .abort m w v => Sys2Proof.Machine.execAbort m w v s
  | .ambientEnd => Sys2Proof.Machine.execAmbientEnd s
  | .prerollEnd => Sys2Proof.Machine.execPrerollEnd s
  | .accumEnd => Sys2Proof.Machine.execAccumEnd s
  | .transformEnd => Sys2Proof.Machine.execTransformEnd s
  | .dcSenseSample x microAmps => Sys2Proof.Machine.execDcSenseSample x microAmps s
  | .relearn m x w v => Sys2Proof.Machine.execRelearn m x w v s
  | .gainChange x => Sys2Proof.Machine.execGainChange x s
  | .contactScan n cls => Sys2Proof.Machine.execContactScan n cls s
  | .contactEvent n => Sys2Proof.Machine.execContactEvent n s
  | .forceLatch m w v => Sys2Proof.Machine.execForceLatch m w v s
  | .clearLatch m w v => Sys2Proof.Machine.execClearLatch m w v s
  | .hostWrite a count words => Sys2Proof.Machine.execHostWrite a count words s
  | .writeFixed a count words => Sys2Proof.Machine.execWriteFixed a count words s
  | .hostRead a count cut => Sys2Proof.Machine.execHostRead a count cut s
  | .readFixed a count cut => Sys2Proof.Machine.execReadFixed a count cut s
  | .hostStatus => Sys2Proof.Machine.execHostStatus s
  | .hostWordWrite => Sys2Proof.Machine.execHostWordWrite s
  | .uartTxdWrite m k w v => Sys2Proof.Machine.execUartTxdWrite m k w v s
  | .uartRxdRead m k w => Sys2Proof.Machine.execUartRxdRead m k w s
  | .characterReceived k ch parityErr framingErr brk => Sys2Proof.Machine.execCharacterReceived k ch parityErr framingErr brk s
  | .i2cStart k r => Sys2Proof.Machine.execI2cStart k r s
  | .i2cWrite k r => Sys2Proof.Machine.execI2cWrite k r s
  | .i2cReadAck k data r => Sys2Proof.Machine.execI2cReadAck k data r s
  | .i2cReadNack k data r => Sys2Proof.Machine.execI2cReadNack k data r s
  | .i2cStop k r => Sys2Proof.Machine.execI2cStop k r s
  | .i2cTimeout k => Sys2Proof.Machine.execI2cTimeout k s
  | .gpioEdge n level => Sys2Proof.Machine.execGpioEdge n level s
  | .keepCmd m w v => Sys2Proof.Machine.execKeepCmd m w v s
  | .lineProgramDone readsBack => Sys2Proof.Machine.execLineProgramDone readsBack s
  | .playOp p => Sys2Proof.Machine.execPlayOp p s
  | .gapOp p => Sys2Proof.Machine.execGapOp p s
  | .spellOp p => Sys2Proof.Machine.execSpellOp p s
  | .listOp p => Sys2Proof.Machine.execListOp p s
  | .toneOp p => Sys2Proof.Machine.execToneOp p s
  | .jumpOp p => Sys2Proof.Machine.execJumpOp p s
  | .stopOp p => Sys2Proof.Machine.execStopOp p s
  | .planLoad => Sys2Proof.Machine.execPlanLoad s
  | .fwGo m w v => Sys2Proof.Machine.execFwGo m w v s
  | .bucketRefill => Sys2Proof.Machine.execBucketRefill s
  | .journalLineWrite => Sys2Proof.Machine.execJournalLineWrite s
  | .requestService m => Sys2Proof.Machine.execRequestService m s
  | .requestWatch m => Sys2Proof.Machine.execRequestWatch m s
  | .requestSleep m => Sys2Proof.Machine.execRequestSleep m s
  | .requestEvacuate m => Sys2Proof.Machine.execRequestEvacuate m s
  | .requestExit m => Sys2Proof.Machine.execRequestExit m s
  | .wake high => Sys2Proof.Machine.execWake high s
  | .wakeTimer => Sys2Proof.Machine.execWakeTimer s
  | .fastWake straps slept => Sys2Proof.Machine.execFastWake straps slept s
  | .padRelease m w v => Sys2Proof.Machine.execPadRelease m w v s
  | .wdogKick m c w v => Sys2Proof.Machine.execWdogKick m c w v s
  | .watchdogExpiry c => Sys2Proof.Machine.execWatchdogExpiry c s
  | .watchdogReset c => Sys2Proof.Machine.execWatchdogReset c s
  | .coldBoot straps => Sys2Proof.Machine.execColdBoot straps s
  | .imageAttempt kind copy => Sys2Proof.Machine.execImageAttempt kind copy s
  | .bootTimeout kind copy => Sys2Proof.Machine.execBootTimeout kind copy s
  | .networkCopyTimeout kind => Sys2Proof.Machine.execNetworkCopyTimeout kind s
  | .recoveryLoader => Sys2Proof.Machine.execRecoveryLoader s
  | .verifyGraph m arg => Sys2Proof.Machine.execVerifyGraph m arg s
  | .measure m arg => Sys2Proof.Machine.execMeasure m arg s
  | .beginSlot m arg => Sys2Proof.Machine.execBeginSlot m arg s
  | .markPending m arg => Sys2Proof.Machine.execMarkPending m arg s
  | .confirm m arg => Sys2Proof.Machine.execConfirm m arg s
  | .abandon m arg => Sys2Proof.Machine.execAbandon m arg s
  | .writeK m arg => Sys2Proof.Machine.execWriteK m arg s
  | .writePlan m arg => Sys2Proof.Machine.execWritePlan m arg s
  | .burnFloor m arg => Sys2Proof.Machine.execBurnFloor m arg s
  | .mailboxCompletion => Sys2Proof.Machine.execMailboxCompletion s
  | .rootRevoke k => Sys2Proof.Machine.execRootRevoke k s
  | .tallyExt m w v => Sys2Proof.Machine.execTallyExt m w v s
  | .anvilStatus => Sys2Proof.Machine.execAnvilStatus s
  | .anvPut lenField bytes crc complete => Sys2Proof.Machine.execAnvPut lenField bytes crc complete s
  | .anvGet rep max => Sys2Proof.Machine.execAnvGet rep max s
  | .dataChunk kind off seq bytes => Sys2Proof.Machine.execDataChunk kind off seq bytes s
  | .noneImage kind => Sys2Proof.Machine.execNoneImage kind s
  | .askTimeout => Sys2Proof.Machine.execAskTimeout s
  | .chalReq grant seq => Sys2Proof.Machine.execChalReq grant seq s
  | .anvAuth body seq => Sys2Proof.Machine.execAnvAuth body seq s
  | .recover target seq => Sys2Proof.Machine.execRecover target seq s
  | .reboot => Sys2Proof.Machine.execReboot s
  | .transferClose => Sys2Proof.Machine.execTransferClose s
  | .mread a count seq => Sys2Proof.Machine.execMread a count seq s
  | .mwrite a words seq => Sys2Proof.Machine.execMwrite a words seq s
  | .alwaysOnPowerUp => Sys2Proof.Machine.execAlwaysOnPowerUp s
  | .deviceReset cause => Sys2Proof.Machine.execDeviceReset cause s
  | .brownOut x => Sys2Proof.Machine.execBrownOut x s
  | .resetRelease ioB33 => Sys2Proof.Machine.execResetRelease ioB33 s
  | .devReset m w v => Sys2Proof.Machine.execDevReset m w v s
  | .wardenDevReset m w v => Sys2Proof.Machine.execWardenDevReset m w v s
  | .coreReset m w v => Sys2Proof.Machine.execCoreReset m w v s
  | .blockReset m w v => Sys2Proof.Machine.execBlockReset m w v s
  | .tapReset => Sys2Proof.Machine.execTapReset s
  | .trimLoad => Sys2Proof.Machine.execTrimLoad s
  | .temperatureUpdate t => Sys2Proof.Machine.execTemperatureUpdate t s
  | .canFrameSent k b r => Sys2Proof.Machine.execCanFrameSent k b r s
  | .characterSent k => Sys2Proof.Machine.execCharacterSent k s
  | .statusPublication => Sys2Proof.Machine.execStatusPublication s
  | .jtagDebugAccess op => Sys2Proof.Machine.execJtagDebugAccess op s
  | .flashProgramCommand off erase bytes => Sys2Proof.Machine.execFlashProgramCommand off erase bytes s
  | .recoverTimeout => Sys2Proof.Machine.execRecoverTimeout s
  | .phyInterrupt level => Sys2Proof.Machine.execPhyInterrupt level s

end Sys2Proof.Machine
end

