-- ==== Sys2Proof/Safety.lean ====
section
/-! DEFINITION. What a good state and a safe run are, in the terms that statements use. -/

namespace Sys2Proof.Machine
open Sys2Proof

/-- The stores of a state are in their canonical forms: the byte memories and their flipped bits, the register words, the waiting buffered
writes and the sequence-acknowledged registers. Equal stores are then equal data. -/
structure State.Canonical (s : State) : Prop where
  mem : Memory.wf s.mem = true
  flash : Memory.wf s.flash = true
  ecc : twf (fun _ => 0) s.ecc = true
  regs : twf regDefault s.regs = true
  wbPend : twf (fun _ => none) s.wbPend = true
  sqs : twf (fun _ => SqReg.zero) s.sqs = true

/-- Fuses that may stand where `f` stood: revocations gained, the floor not lower, every other row the same (R778: the fuse
block programs only ROOT_REVOKE and SVN_FLOOR). -/
structure FusesGrow (f g : Fuses) : Prop where
  revoke : f.rootRevoke &&& g.rootRevoke = f.rootRevoke
  floor : f.svnFloor ≤ g.svnFloor
  rest : g = { f with rootRevoke := g.rootRevoke, svnFloor := g.svnFloor }

/-- The device runs: no condition holds its reset (R844). -/
def State.released (s : State) : Prop := s.power.held = false

/-- A master's access to a register of the slots meets nothing on its way: the address is a word of the slots or their
aliases, none of the master's posted writes is still to be delivered, the filter passes it, its block is out of reset and, for
NET, the network clock runs, no other access is in crossing 12, and this one is acknowledged in time (R27, R61 to R66, R77,
R96, R97, R756). -/
def reaches (s : State) (m : Master) (write : Bool) (a : Nat) : Bool :=
  regionOf a == .slots && decide (a % 4 = 0) && !crosses s m a && (postedOf s false).all (fun p => p.master != m)
    && filterOf (whoOf s m) write a == .pass && !heldAt s a && (a / 0x10000 % 16 != 9 || (s.clk.netOk && s.bus.net.isNone && !s.bus.netLate))

/-- A master's write of a word of the engine table aperture or of a sample-core window meets nothing on its way: no earlier
posted write of the master waits, the bridge has room, the filter passes the write and the block is out of reset (R62, R64 to
R66, R756). -/
def reachesAudio (s : State) (m : Master) (a : Nat) : Bool :=
  (regionOf a == .aperture || regionOf a == .scWindow) && decide (a % 4 = 0) && (postedOf s true).all (fun p => p.master != m)
    && decide ((postedOf s true).length < 32) && filterOf (whoOf s m) true a == .pass && !heldAt s a

/-- The registers that an event's pulse and record can change: the interrupt latches, and the log ring's pointers and counts
(R42, R243, R718 to R722). -/
def recordReg (a : Nat) : Bool :=
  decide (0x40001400 ≤ a ∧ a < 0x40001420) || [Reg.evtRingRd, Reg.evtRingWr, Reg.evtOverruns, Reg.evtDrops].contains a

/-- The command that an Atward instruction on a core is. -/
def atward (c : CoreId) (op : AOp) (e : Enc) (cc : Fin 16) (k : Nat) : Instr :=
  match op with
  | .mov => .mov c e
  | .push => .push c e
  | .pop => .pop c e
  | .add => .add c e
  | .sub => .sub c e
  | .cmp => .cmp c e
  | .tst => .tst c e
  | .and => .and c e
  | .or => .or c e
  | .xor => .xor c e
  | .not => .not c e
  | .neg => .neg c e
  | .shl => .shl c e
  | .shr => .shr c e
  | .asr => .asr c e
  | .mul => .mul c e
  | .mac => .mac c e
  | .macr => .macr c e
  | .sat => .sat c e
  | .addd => .addd c e
  | .subd => .subd c e
  | .dadj => .dadj c e
  | .b2bcd => .b2bcd c e
  | .bcd2b => .bcd2b c e
  | .digit => .digit c e
  | .lin => .lin c e
  | .lout => .lout c e
  | .tap => .tap c e
  | .tput => .tput c e
  | .bqd => .bqd c e
  | .skp => .skpCc c cc e
  | .rpt => .rpt c e
  | .rpti => .rpti c e
  | .jmp => .jmp c e
  | .jcc => .jcc c cc e
  | .call => .call c e
  | .ret => .ret c e
  | .reti => .reti c e
  | .endFrame => .endFrame c e
  | .nop => .nop c e
  | .wait => .wait c e
  | .sys => .sysCall c e
  | .mfs => .mfs c e
  | .mts => .mts c e
  | .bmov => .bmov c e k
  | .bfil => .bfil c e k
  | .bcmp => .bcmp c e k
  | .bscn => .bscn c e k
  | .bcrc => .bcrc c e k

/-- The instruction that memory holds at a core's pc: the one that its sender commands (assumption 25). -/
def fetched (c : CoreId) (s : State) : AInstr :=
  let half := fun (k : Nat) => leNat (regionBytes s (((regsOf c s).pc + BitVec.ofNat 32 (2 * k)).toNat) 2)
  atwardOf (half 0) (half 1) (half 2)

/-- A core stands ready to run an instruction once, by itself: its encoding is legal; no RPT or RPTI governs it, and no SKP.cc
that forbids it or skips it; a sample core has the slots for it and fetches from its live bank, and a control-class core runs,
has no interrupt due, may fetch every half-word, and is privileged for RETI and WAIT (R145, R146, R160, R234, R236, R238,
R245, R283, R308). -/
def coreReady (c : CoreId) (i : AInstr) (s : State) : Bool :=
  let r := regsOf c s
  legalAlone c i && r.rpt.isNone && r.rpti.isNone
    && (r.skp.isNone || ((r.skp.map (·.2)) == some true && !badAfterSkp i.op))
    && match c with
      | .sc n => scActive (s.sc n.val) && scFetchable s n.val r.pc.toNat (instrLen i) && scFits s n.val (slotCost i)
      | _ => (s.ctlCore (ctlIndex c)).st == .run && (interruptDue c s).isNone && (fetchFails c s i r.pc).isNone
          && (fetchZero c s i r.pc).isNone && ((i.op != .reti && i.op != .wait) || isPrivileged c r)

/-- Where an instruction's work begins: on a sample core what its fetch met is counted (R164) and the skip before it is used
up; on a control-class core its lines are in the instruction cache, and the answers that an earlier wait of it brought are at
hand. -/
def coreBegin (c : CoreId) (i : AInstr) (s : State) : RunSt :=
  match c with
  | .sc n => ⟨scRegs n noPrefix (scMet n.val (eccHit s (regsOf c s).pc.toNat (instrLen i)) s), [], [], none⟩
  | _ => ⟨fetchLines c i (regsOf c s).pc s, retsOf c s, [], none⟩

/-- How an instruction that completed leaves the core: a sample core has spent its slots; a control-class core has used up
the answers and the skip before it. -/
def coreEnd (c : CoreId) (i : AInstr) (s : State) : State :=
  match c with
  | .sc n => scSpend n.val (baseCost i.op) s
  | _ => setRegs c { regsOf c (setRets c [] s) with skp := if i.op = .skp then (regsOf c (setRets c [] s)).skp else none }
      (setRets c [] s)

/-- A command that answers a next state from a state. -/
def Completes (i : Instr) (s : State) : Prop := ∃ t, exec i s = .next t

/-- A run of a list of commands, first to last, none of which stops. -/
inductive Runs : List Instr → State → State → Prop where
  | done (s : State) : Runs [] s s
  | cons (i : Instr) (l : List Instr) (s t u : State) : exec i s = .next t → Runs l t u → Runs (i :: l) s u

end Sys2Proof.Machine
end

