-- ==== Sys2Proof/Certificates/Slice0/Obligations.lean ====
section
/-! DEFINITION. The statements for the provers: what each family of commands does, and what every command keeps. -/

open Sys2Proof Sys2Proof.Machine

/-- A step runs the command at the front of the queue. A state with command c at the front of its queue of waiting
commands steps to whatever the command does on the state with the rest of the queue. The queue is the model's own
(assumption 20) (spec/INDEX.md, spec/00_scope.md). -/
def Obligations.StepRunsTheFrontCommand : Prop :=
  ∀ (s : State) (c : Instr) (rest : List Instr), s.pending = c :: rest →
    step s = exec c { s with pending := rest }

/-- With no command waiting the block idles. A step on an empty queue answers the state as it is: the model's own
choice (assumption 20), since every timed event of the block is a command (spec/00_scope.md). -/
def Obligations.AnEmptyQueueIdles : Prop :=
  ∀ s : State, s.pending = [] → step s = .next s

/-- Every command answers a next state in every state. No command of the table stops the block: each answers a next
state from every state, whatever its operands (spec/00_scope.md, spec/95_what_each_step_holds.md). -/
def Obligations.EveryCommandCompletes : Prop :=
  ∀ (c : Instr) (s : State), ∃ t, exec c s = .next t

/-- A command changes nothing of the queue of waiting commands. Whatever a command does, the commands that wait behind
it are the same, in the same order. The queue is the model's own (assumption 20) (spec/00_scope.md). -/
def Obligations.CommandsLeaveTheQueue : Prop :=
  ∀ (c : Instr) (s t : State), exec c s = .next t → t.pending = s.pending

/-- Every step keeps the memories and register stores in canonical form. From every state whose byte memories (working
memories, Keep and flash), register words, waiting buffered writes and sequence-acknowledged registers are in
canonical form, a step that answers a next state gives one in which they are again: equal contents stay equal data
(spec/02_register_file_rules.md, spec/05_sample_engine.md, spec/21_keep_messages_and_event_log.md). -/
def Obligations.StoresKeepTheirForm : Prop :=
  ∀ s t : State, s.Canonical → step s = .next t → t.Canonical

/-- The state after reset has canonical stores and no command waiting. At reset the byte memories, register words,
waiting writes and sequence-acknowledged registers are in canonical form, listing nothing, and the queue is empty
(spec/25_power_reset_and_trim.md). -/
def Obligations.ResetStoresAreCanonical : Prop :=
  State.reset.Canonical ∧ State.reset.pending = [] ∧ State.reset.mem = [] ∧ State.reset.regs = []

/-- Along any run, fuse rows change only by revoking roots and raising the SVN floor. However many commands run, no
ROOT_REVOKE bit that is programmed is ever lost, SVN_FLOOR never falls, and every other fuse row stays as it was. That
no other row is programmed holds of this model in every state, as R778 asks while KEYLOCK is 1 (the part's other rows
are programmed before it ships, assumption 16) (spec/23_warden_and_boot_chain.md, spec/25_power_reset_and_trim.md). -/
def Obligations.FusesOnlyGain : Prop :=
  ∀ (l : List Instr) (s t : State), Runs l s t → FusesGrow s.ward.fuses t.ward.fuses

/-- STRIKE, HOUSEKEEPING and HINGE: what a strike, a frame's end and a hinge do. Every strike first brings the upsets of
ECC memory since the one before (assumption 29). While the media family runs: an F strike advances FRAME_CNT, restarts
the F cores, moves the bridges, Speedwell channels, destinations and ports, judges the lines' samples and advances the
pilots; an M strike takes the receive streams first and the M domain's fixed blocks last; a V strike is the common part
alone; housekeeping runs the cores' and blocks' ends of frame, then the fault summary, and in the F domain SENSE's
buffered writes; a hinge does the clock controller, the halts that are due, tenants, plan, mode change, graph swap,
buffered writes, commits, arbitration and sleep count in that order. FRAME_CNT goes up by one, and HINGE_CNT is
FRAME_CNT/6 at each sixth frame. With the media family stopped, none of them changes anything but for the upsets
(spec/04_media_clock_and_rate_domains.md, spec/05_sample_engine.md, spec/12_fixed_processing_blocks.md). -/
def Obligations.StrikesFrameTheEngine : Prop :=
  let upset := fun (inp : StrikeIn) (s : State) => inp.upsets.foldl (fun s u => eccUpset u s) s
  (∀ (s : State) (d : Dom) (inp : StrikeIn),
    upset inp s = { s with mem := (upset inp s).mem, ecc := (upset inp s).ecc } ∧
    exec (.strike d inp) s = exec (.strike d { inp with upsets := [] }) (upset inp s)) ∧
  (∀ (s : State) (inp : StrikeIn), mediaRuns s = true → inp.upsets = [] →
    exec (.strike .f inp) s =
      .next (pilotsAdvance (senseStrike inp.sense (commonStrike .f inp (pilotsScale (frameAdvance s))))) ∧
    exec (.strike .m inp) s = .next (mediaStrike inp.mic inp.sense (commonStrike .m inp (rxStreamsFrame s))) ∧
    exec (.strike .v inp) s = .next (commonStrike .v inp s)) ∧
  (∀ s : State, s.mclk.firstHinge = false →
    (frameAdvance s).mclk.frameCnt = s.mclk.frameCnt + 1#64 ∧
    (frameAdvance s).mclk.hingeCnt = if (s.mclk.frameCnt + 1#64).toNat % 6 = 0
      then BitVec.ofNat 32 ((s.mclk.frameCnt + 1#64).toNat / 6) else s.mclk.hingeCnt) ∧
  (∀ s : State, s.mclk.firstHinge = true →
    (frameAdvance s).mclk.frameCnt = 0#64 ∧ (frameAdvance s).mclk.hingeCnt = 0#32) ∧
  (∀ (s : State) (d : Dom), mediaRuns s = true → exec (.housekeeping d) s =
    .next (if d = .f then senseBuffered (summaryCheck (housekeep d s)) else summaryCheck (housekeep d s))) ∧
  (∀ s : State, mediaRuns s = true →
    let s1 := modeStep (planHinge (tenantsH2 (haltsDue (hingeClock s))))
    let o := hingeSwap s1
    exec .hinge s = .next (summaryCheck (sleepCount (hingeEnd
      (refreshStarted (commitStep o.2 (tenantsH1 (hingeBuffered o.1)))))))) ∧
  (∀ (s : State) (d : Dom) (inp : StrikeIn), mediaRuns s = false → inp.upsets = [] →
    exec (.strike d inp) s = .next s ∧ exec (.housekeeping d) s = .next s ∧ exec .hinge s = .next s)

/-- A strike begins the program of every running core of its domain, and of no other. At a strike of a domain every
running core of that domain begins again: PC at the start of its live program bank, slot 0, every working register
zero but SP and PAGE, every armed edge entry one frame on and disarmed at its 64th; a core of another domain, or one
that does not run, is left as it is. The memories stay as they are (R144). -/
def Obligations.StrikeRestartsRunningCores : Prop :=
  (∀ (s : State) (d : Dom) (n : Nat), n < 16 → (s.sc n).dom = d → (s.sc n).runs = true →
    (strikeCores d s).sc n = { s.sc n with
      r := { CoreRegs.zero with
        pc := BitVec.ofNat 32 (scBase n + (if (s.sc n).pbank then 0x6000 else 0)),
        spU := s.rd (Reg.coreSp n) &&& 0xFFFFFFFC#32, page := s.rd (Reg.corePage n) &&& 0xFFFFFFFC#32 },
      slot := 0, ended := none, depth := 0, cause := 0, crucAt := none,
      edges := ((s.sc n).edges.map fun e => (e.1, e.2.1, e.2.2 + 1)).filter fun e => decide (e.2.2 < 64) }) ∧
  (∀ (s : State) (d : Dom) (n : Nat), (s.sc n).dom ≠ d ∨ (s.sc n).runs = false → (strikeCores d s).sc n = s.sc n) ∧
  (∀ (s : State) (d : Dom), (strikeCores d s).mem = s.mem)

/-- SLOW_CLOCK_LOST, NETWORK_CLOCK_LOST, CRYSTAL_LOST, MEDIA_PLL_UNLOCK and CLOCK_QUALIFIED. A qualified clock that is
lost clears its state bit and sends its CLKMON event over crossing 14, whose arrival sets it; one that is not qualified
is not reported again. Loss of the crystal resets the device and holds it. Media PLL unlock runs the family on the
reference PLL with PULL 0 and BACKUP set, and the servo enters FREE_RUN. A clock whose condition holds sets its state
bit, the network's leaving its FIFOs to resynchronise; the crystal's return starts the media family on the reference
PLL, the media PLL's asks for the switch back at the next hinge (spec/03_clock_crossings.md,
spec/04_media_clock_and_rate_domains.md). -/
def Obligations.ClockLossAndReturn : Prop :=
  (∀ s : State, s.clk.slowOk = true → exec .slowClockLost s =
    .next (noticePost 14 0x10000#32 { s with clk := { s.clk with slowOk := false, slowGone := true } })) ∧
  (∀ s : State, s.clk.netOk = true → exec .networkClockLost s =
    .next (noticePost 14 0x20000#32 { s with clk := { s.clk with netOk := false } })) ∧
  (∀ s : State, s.clk.slowOk = false →
    exec .slowClockLost s = .next { s with clk := { s.clk with slowGone := true } }) ∧
  (∀ s : State, s.clk.netOk = false → exec .networkClockLost s = .next s) ∧
  (∀ (b : Word) (s : State), b &&& 0xFFFF0000#32 = 0x10000#32 → monitorNotice b s = sqSet Reg.clkMon [0] s) ∧
  (∀ (b : Word) (s : State), b &&& 0xFFFF0000#32 = 0x20000#32 → monitorNotice b s = sqSet Reg.clkMon [1] s) ∧
  (∀ (b : Word) (s : State), b &&& 0xFFFF0000#32 = 0x80000#32 → monitorNotice b s = sqSet Reg.clkMon [3] s) ∧
  (∀ s : State, s.clk.xtalOk = true → s.modes.sleep ≠ .asleep → ∃ t, exec .crystalLost s = .next t ∧
    t = (xtalLostMark (resetDevice 4 false s)).modPower (fun p => { p with xtalLost := true }) ∧ t.power.xtalLost = true) ∧
  (∀ s : State, s.clk.mediaLock = true →
    let s1 := noticePost 14 0x80000#32 { s with clk := { s.clk with mediaLock := false } }
    (s.mclk.backup = true → exec .mediaPllUnlock s = .next { s1 with mclk := { s1.mclk with backDue := false } }) ∧
    (s.mclk.backup = false → exec .mediaPllUnlock s = .next (servoEnter .freeRun (sqSet Reg.mclkEvt [2]
      { s1 with mclk := { s1.mclk with backDue := false, backup := true, pull := 0, slewing := false } })))) ∧
  (∀ s : State, s.clk.mediaLock = false → exec .mediaPllUnlock s = .next s) ∧
  (∀ s : State,
    exec (.clockQualified .slow) s = .next { s with clk := { s.clk with slowOk := true, slowGone := false } } ∧
    (s.clk.netOk = true → exec (.clockQualified .net) s = .next s) ∧
    (s.clk.netOk = false → ∃ t, exec (.clockQualified .net) s = .next t ∧ t.clk.netOk = true ∧
      (∀ k, k < 4 → xingReady t k = false) ∧
      t = { s with clk := { s.clk with netOk := true }, bus := { s.bus with readyFar := t.bus.readyFar } }) ∧
    exec (.clockQualified .media) s = .next { s with
      clk := { s.clk with mediaLock := true }, mclk := { s.mclk with backDue := s.mclk.backup } } ∧
    (s.clk.xtalOk = true → exec (.clockQualified .xtal) s = .next s) ∧
    (s.clk.xtalOk = false → exec (.clockQualified .xtal) s = .next { s with
      clk := { s.clk with xtalOk := true }, mclk := { s.mclk with backup := true, pull := 0, slewing := false },
      power := { s.power with xtalLost := false } }))

/-- HINGE_TICK, HOLDOVER_LAPSE, BRIDGE_RUN, BRIDGE_STOPPED and FIFO_RESYNC. With the network clock running, a hinge tick
comes after the fewest network cycles that bring the PTP time to or past the next whole multiple of 62,500 ns; its
index and lead cross by crossing 11, and are the servo's as they arrive. HOLDOVER that has lasted its limit lapses into
FREE_RUN unless the limit is 0. An acquiring bridge whose ratio has held for 1024 external frames enters RUN, both its
outputs rising from silence, with LOCKED; an asynchronous bridge 64 frames without an external one returns to ACQUIRE,
marked STOPPED. A FIFO crossing's round trips make its fabric side ready, then its far side
(spec/03_clock_crossings.md, spec/04_media_clock_and_rate_domains.md, spec/15_network_ring_and_streams.md). -/
def Obligations.HingeTicksAndBridges : Prop :=
  (∀ (s : State) (lead : Int), s.clk.netOk = true →
    let s1 := ptpRun (ptpToTick s) s
    exec (.hingeTick lead) s = .next (noticePost 11 0x10000#32 { s1 with
      mclk := { s1.mclk with tickSent := some (BitVec.ofNat 64 (s1.net.sec.toNat * 16000 + s1.net.ns / 62500), lead) } })) ∧
  (∀ s : State, let step := 62500 * 65536000000
    step * (ptpUnits s.net / step + 1) ≤ ptpUnits s.net + ptpToTick s * ptpCycle s ∧
    ∀ k, k < ptpToTick s → ptpUnits s.net + k * ptpCycle s < step * (ptpUnits s.net / step + 1)) ∧
  (∀ (s : State) (lead : Int), s.clk.netOk = false → exec (.hingeTick lead) s = .next s) ∧
  (∀ s : State, (s.notice 11).inFlight = true → (s.notice 11).pend = false → (s.notice 11).flying = 0x10000#32 →
    exec (.mergedNotification 11) s = .next (tickArrive (sqSet Reg.netEvt [] (s.setNotice 11 Notice.idle)))) ∧
  (∀ s : State, s.mclk.st = .holdover → s.rdf Reg.mclkHoldLimit 0 24 ≠ 0 →
    16000 * s.rdf Reg.mclkHoldLimit 0 24 ≤ s.mclk.stAge →
    exec .holdoverLapse s = .next (sqSet Reg.mclkEvt [0] { s with mclk := { s.mclk with
      st := .freeRun, stAge := 0, inLock := 0, phase := 0 } })) ∧
  (∀ (s : State) (n : Fin 32), (s.bridge n.val).st = .acquire → (s.bridge n.val).steady = 1024 →
    exec (.bridgeRun n) s = .next (sqSet Reg.brdgEvt [4] ((s.setBridge n.val { s.bridge n.val with
      st := .run, rising := true, scale := 0, outScale := 0 }).wrn Reg.brdgEvtSrc n.val))) ∧
  (∀ (s : State) (n : Fin 32), brAsync (s.rd (Reg.bridgeCfg n.val)) = true → (s.bridge n.val).st ≠ .off →
    (s.bridge n.val).cfgErr = false → (s.bridge n.val).silentFrames = 64 → (s.bridge n.val).stopped = false →
    exec (.bridgeStopped n) s = .next (sqSet Reg.brdgEvt [2] ((s.setBridge n.val { s.bridge n.val with
      st := .acquire, stopped := true, rising := false, slipping := false, steady := 0 }).wrn Reg.brdgEvtSrc n.val))) ∧
  (∀ (s : State) (x : Fin 14), isFifoXing x.val = true → ∃ t, exec (.fifoResync x) s = .next t ∧
    (tget false s.bus.readyNear x.val = true → xingReady t x.val = true) ∧
    (tget false s.bus.readyNear x.val = false → tget false t.bus.readyNear x.val = true ∧
      t.bus.readyFar = s.bus.readyFar))

/-- REGISTER_WRITE, WB_WRITE, WD_WRITE, SC_WRITE and SQ_WRITE_BACK: a full-width write acts by its register's access
code. A word write that reaches a register at its own address: an RW register takes the value without its reserved
bits, by the action the register has; a WB register's shadow takes it; a WD register takes it while its governing
enable is 0, and a refusal is otherwise logged in WREJ with its offset; an SC write crosses into the always-on domain,
and is refused while another is under way; an SQ register is written back; a read-only register takes nothing.
Everything else stays as it was (spec/02_register_file_rules.md). -/
def Obligations.WritesActByAccessCode : Prop :=
  ∀ (s : State) (m : Master) (a : Word) (v : BitVec 64) (r : RegRow),
    reaches s m true a.toNat = true → inSlots a.toNat = true → a.toNat % 0x10000 < 0x8000 → a.toNat ≠ 0x40000700 →
    rowAt a.toNat = some r →
    let w := whoOf s m
    let x := v.setWidth 32 &&& BitVec.ofNat 32 r.mask
    (r.cls = .rw → exec (.registerWrite m a .word v) s = .next (rwWrite w a.toNat x s)) ∧
    (r.cls = .ro ∨ r.cls = .rc → exec (.registerWrite m a .word v) s = .next s) ∧
    (r.cls = .wb → exec (.wbWrite m a .word v) s = .next (wbWrite a.toNat x s)) ∧
    (r.cls = .wd → govOn (a.toNat / 0x10000 % 16) r ((a.toNat % 0x10000 - r.off) / r.stride) s = false →
      exec (.wdWrite m a .word v) s =
        .next (if a.toNat = Reg.netMode then portsCheck (s.wr a.toNat x) else s.wr a.toNat x)) ∧
    (r.cls = .wd → govOn (a.toNat / 0x10000 % 16) r ((a.toNat % 0x10000 - r.off) / r.stride) s = true →
      exec (.wdWrite m a .word v) s =
        .next (writeRejected (a.toNat / 0x10000 % 16) 0 (a.toNat % 0x10000) s)) ∧
    (r.cls = .sc → s.bus.sc = none →
      exec (.scWrite m a .word v) s = .next (s.modBus fun b => { b with sc := some ⟨a.toNat, x⟩ })) ∧
    (r.cls = .sc → s.bus.sc ≠ none →
      exec (.scWrite m a .word v) s = .next (writeRejected 1 0 (a.toNat % 0x10000) s)) ∧
    (r.cls = .sq → exec (.sqWriteBack m a .word v) s = .next (sqWrite w a.toNat (v.setWidth 32) s))

/-- Writes through the set, clear and toggle aliases, and reads through them. A write of v through a register's set,
clear or toggle alias puts x OR v, x AND NOT v or x XOR v, without the reserved bits, in place of the register's value
x (for a WB register the shadow's, as R33 adds; a held half of a 64-bit pair counts as its value); a WD register
refuses it while its enable is 1, as it does a direct write. Through an alias of a register of another class nothing
is written and the write is logged as ALIAS_IGNORED. Every read through an alias returns zero (R31, R32). -/
def Obligations.AliasesActOnlyOnWritableRegisters : Prop :=
  (∀ (s : State) (m : Master) (d p : Nat) (a : Word) (v : BitVec 64) (r : RegRow),
    1 ≤ p → p ≤ 3 → inSlots d = true → d % 0x10000 < 0x8000 → a.toNat = d + 0x100000 * p → d ≠ 0x40000700 →
    rowAt d = some r → reaches s m true a.toNat = true →
    let x := if r.cls = .wb then pendingOr d (s.rd d) s else if r.cls = .rw then pendingOr d (slotView d r s) s else s.rd d
    let y := (if p = 1 then x ||| v.setWidth 32 else if p = 2 then x &&& ~~~(v.setWidth 32) else x ^^^ v.setWidth 32)
      &&& BitVec.ofNat 32 r.mask
    let c : Instr := if p = 1 then .setAliasWrite m a .word v else if p = 2 then .clearAliasWrite m a .word v
      else .toggleAliasWrite m a .word v
    (r.cls = .rw → exec c s = .next (rwWrite (whoOf s m) d y s)) ∧
    (r.cls = .wb → exec c s = .next (wbWrite d y s)) ∧
    (r.cls = .wd → govOn (d / 0x10000 % 16) r ((d % 0x10000 - r.off) / r.stride) s = false →
      exec c s = .next (if d = Reg.netMode then portsCheck (s.wr d y) else s.wr d y)) ∧
    (r.cls = .wd → govOn (d / 0x10000 % 16) r ((d % 0x10000 - r.off) / r.stride) s = true →
      exec c s = .next (writeRejected (d / 0x10000 % 16) p (d % 0x10000) s)) ∧
    (r.cls ≠ .rw → r.cls ≠ .wb → r.cls ≠ .wd →
      exec c s = .next (logAcc (whoOf s m) 4 true 4 a.toNat s))) ∧
  (∀ (s : State) (m : Master) (d p : Nat) (a : Word) (r : RegRow),
    1 ≤ p → p ≤ 3 → inSlots d = true → a.toNat = d + 0x100000 * p → rowAt d = some r →
    reaches s m false a.toNat = true → (whoOf s m).debug = false →
    exec (.clearOnRead m a .word) s = .next (s.modBus fun b => { b with answer := some 0#64 }))

/-- SQ_WRITE_BACK clears exactly the named bits not newer than the written sequence. Writing {w, mask} to an SQ
register, with w fewer than 0x4000 behind SEQ, clears bit i exactly when mask bit i is 1, the bit is set and its tag
is not newer than w; no other bit, tag, SEQ or other register changes. A write-back whose w is 0x4000 or more behind
clears nothing and is logged as SQ_STALE (R38, R40). -/
def Obligations.WriteBacksClearByTag : Prop :=
  ∀ (s : State) (m : Master) (a : Word) (v : BitVec 64) (r : RegRow),
    reaches s m true a.toNat = true → inSlots a.toNat = true → a.toNat % 0x10000 < 0x8000 →
    rowAt a.toNat = some r → r.cls = .sq →
    let q := s.sq a.toNat
    let w : BitVec 16 := (v >>> 16).setWidth 16
    ((q.seq - w).toNat < 0x4000 → ∃ t, exec (.sqWriteBack m a .word v) s = .next t ∧
      (t.sq a.toNat).seq = q.seq ∧
      (∀ (i : Nat) (g : BitVec 16), i < 16 → ((i, g) ∈ (t.sq a.toNat).tags ↔
        (i, g) ∈ q.tags ∧ ¬ (v.getLsbD i = true ∧ (w - g).toNat < 0x8000))) ∧
      (∀ b, b ≠ a.toNat → t.sq b = s.sq b) ∧ t = { s with sqs := t.sqs }) ∧
    (0x4000 ≤ (q.seq - w).toNat →
      exec (.sqWriteBack m a .word v) s = .next (logAcc (whoOf s m) 3 true 4 a.toNat s))

/-- A P register reads zero to an unprivileged master and drops its writes, both logged. A word write to a P register
of the slots by a master whose accesses are unprivileged changes nothing but the log of the filtered access in
SYS.PRIVFAULT with the master's identifier, and a read by it answers zero and is logged likewise; so nothing buffered,
crossing or held changes (R61). -/
def Obligations.PrivilegedRegistersTurnAwayOthers : Prop :=
  ∀ (s : State) (m : Master) (a : Word) (r : RegRow),
    regionOf a.toNat = .slots → crosses s m a.toNat = false → (postedOf s false).all (fun p => p.master != m) = true →
    rowAt (wordOf (directOf a.toNat)) = some r → r.priv = true → lvlOf s m = .unprivileged →
    (∀ v : BitVec 64, exec (.registerWrite m a .word v) s =
      .next (logAccess Reg.privFault 1 (masterId m) 4 a.toNat true s)) ∧
    exec (.clearOnRead m a .word) s = .next ((logAccess Reg.privFault 0 (masterId m) 4 a.toNat false s).modBus
      fun b => { b with answer := some 0#64 })

/-- WB_WRITE: the shadow takes a write while the live register keeps its value. A word write that reaches a WB
register of a block other than DMA is in its shadow: a read at +0x8000 by the same master then returns it without the
reserved bits, and the live register keeps its value; one of DMA is staged for its channel likewise. In every state the
shadow of any of them reads at +0x8000 as the write that waits, and as the live register where none does (R43). -/
def Obligations.BufferedWritesWaitInTheShadow : Prop :=
  ∀ (s : State) (m : Master) (a : Word) (v : BitVec 64) (r : RegRow),
    reaches s m true a.toNat = true → inSlots a.toNat = true → a.toNat % 0x10000 < 0x8000 → rowAt a.toNat = some r →
    r.cls = .wb →
    (a.toNat / 0x10000 % 16 = 11 → exec (.wbWrite m a .word v) s = .next (chStaged ((a.toNat % 0x10000 - 0x100) / 0x40)
      { s with wbPend := tset none s.wbPend a.toNat (some (v.setWidth 32 &&& BitVec.ofNat 32 r.mask)) })) ∧
    (a.toNat / 0x10000 % 16 ≠ 11 → ∃ t, exec (.wbWrite m a .word v) s = .next t ∧ t.rd a.toNat = s.rd a.toNat ∧
      t = { s with wbPend := tset none s.wbPend a.toNat (some (v.setWidth 32 &&& BitVec.ofNat 32 r.mask)) } ∧
      (filterOf (whoOf s m) false (a.toNat + 0x8000) = .pass →
        (regRead (whoOf s m) (a.toNat + 0x8000) 4 t).1 = some (v.setWidth 32 &&& BitVec.ofNat 32 r.mask).toNat)) ∧
    (filterOf (whoOf s m) false (a.toNat + 0x8000) = .pass →
      (regRead (whoOf s m) (a.toNat + 0x8000) 4 s).1 = some ((tget none s.wbPend a.toNat).getD (s.rd a.toNat)).toNat)

/-- LO_WRITE and HI_WRITE: the half written first is held until the other applies both. Of the 64-bit values that software
writes, NET.MAC is no WB register (DEDUCED, assumption 21): a word write to its _LO is only held; a word write to its
_HI then applies both halves together, and with nothing held it applies alone, the low half staying as it was. The
halves of TONE.RUN, NET.RX_EN and NET.TX_EN are WB registers, and each is staged in its own shadow for the boundary
(spec/02_register_file_rules.md, spec/12_fixed_processing_blocks.md, spec/15_network_ring_and_streams.md). -/
def Obligations.PairedHalvesApplyTogether : Prop :=
  (∀ (s : State) (m : Master) (v : BitVec 64), reaches s m true 0x40090038 = true →
    exec (.loWrite m 0x40090038#32 .word v) s =
      .next (s.modBus fun b => { b with loHeld := tset none b.loHeld 0x40090038 (some (v.setWidth 32)) })) ∧
  (∀ (s : State) (m : Master) (v : BitVec 64) (y : Word), reaches s m true 0x4009003C = true →
    tget none s.bus.loHeld 0x40090038 = some y →
    exec (.hiWrite m 0x4009003C#32 .word v) s = .next (((s.modBus fun b =>
      { b with loHeld := tset none b.loHeld 0x40090038 none }).wr 0x40090038 y).wr 0x4009003C
        (v.setWidth 32 &&& 0xFFFF#32))) ∧
  (∀ (s : State) (m : Master) (v : BitVec 64), reaches s m true 0x4009003C = true →
    tget none s.bus.loHeld 0x40090038 = none →
    exec (.hiWrite m 0x4009003C#32 .word v) s = .next (s.wr 0x4009003C (v.setWidth 32 &&& 0xFFFF#32))) ∧
  (∀ (s : State) (m : Master) (a : Word) (v : BitVec 64),
    a = 0x40050020#32 ∨ a = 0x40090200#32 ∨ a = 0x40090208#32 → reaches s m true a.toNat = true →
    exec (.loWrite m a .word v) s =
      .next { s with wbPend := tset none s.wbPend a.toNat (some (v.setWidth 32)) }) ∧
  (∀ (s : State) (m : Master) (a : Word) (v : BitVec 64),
    a = 0x40050024#32 ∨ a = 0x40090204#32 ∨ a = 0x4009020C#32 → reaches s m true a.toNat = true →
    exec (.hiWrite m a .word v) s =
      .next { s with wbPend := tset none s.wbPend a.toNat (some (v.setWidth 32)) })

/-- SC_WRITE_LANDED, and REQUEST_ACKNOWLEDGE of crossings 4 and 6: the write under way lands. While the slow clock runs,
the SC write under way leaves the crossing and lands: the contact, FAULT_N, pad, wake and Warden's registers take it by
their own rules, and other offsets keep their value; then another SC write may be taken. With none under way, or with
the slow clock stopped, nothing changes. The acknowledgement of crossing 4 is that landing, that of crossing 6 brings
the fault summary, and the crossings that carry no request change nothing (spec/02_register_file_rules.md,
spec/03_clock_crossings.md, spec/20_mic_lines_contacts_and_local_ports.md, spec/22_operating_modes.md,
spec/24_image_slots_and_anvil_recovery.md). -/
def Obligations.AlwaysOnWritesLand : Prop :=
  (∀ (s : State) (x : ScCross), s.clk.slowGone = false → s.bus.sc = some x →
    exec .scWriteLanded s = .next (scLand x.addr x.data (s.modBus fun b => { b with sc := none })) ∧
    exec (.requestAcknowledge 4) s = .next (scLand x.addr x.data (s.modBus fun b => { b with sc := none }))) ∧
  (∀ s : State, s.bus.sc = none ∨ s.clk.slowGone = true →
    exec .scWriteLanded s = .next s ∧ exec (.requestAcknowledge 4) s = .next s) ∧
  (∀ (s : State) (v : Word),
    scLand 0x40010260 v s = s.wr 0x40010260 (v &&& 0x3#32) ∧ scLand 0x40010264 v s = s.wr 0x40010264 v ∧
    scLand 0x40010240 v s = faultCtrl v s ∧
    (v.getLsbD 0 = true → scLand 0x4001026C v s = s.modPorts fun p => { p with padsHeld := false }) ∧
    scLand 0x40010288 v s = s.wr 0x40010288 (v &&& 1#32) ∧ scLand 0x4001028C v s = s.wr 0x4001028C (v &&& 0xFF73#32) ∧
    scLand 0x40010284 v s = s.wr 0x40010284 v ∧ scLand 0x40010280 v s = s.modWard (fun w => { w with
      stage := fld v 0 4, cause := fld v 8 4, copy := fld v 12 3, failed := fld v 16 8 }) ∧
    (∀ n : Fin 8, scLand (0x40010100 + 16 * n.val) v s = ctCfgWrite n.val v s)) ∧
  (∀ s : State, exec (.requestAcknowledge 6) s = .next (summaryCheck s)) ∧
  (∀ (s : State) (x : Fin 22), x.val ≠ 4 → x.val ≠ 6 → x.val ≠ 12 → exec (.requestAcknowledge x) s = .next s)

/-- CLEAR_ON_READ: an RC register answers its value and clears, except to a debug read. A word read that reaches an RC
register of the slots (other than a receive FIFO's, whose read removes its oldest entry) answers its value and puts
the register back to its reset value; the same read through the Anvil port or JTAG answers the value and changes
nothing but the answer (R35). -/
def Obligations.ReadsClearWhatTheyReturn : Prop :=
  ∀ (s : State) (m : Master) (a : Word) (r : RegRow),
    reaches s m false a.toNat = true → inSlots a.toNat = true → a.toNat % 0x10000 < 0x8000 → rowAt a.toNat = some r →
    r.cls = .rc → [0x400F040C, 0x400F044C, 0x400F070C, 0x400F074C].contains a.toNat = false →
    ∃ x : Word, x = slotView a.toNat r s ∧
    (m ≠ .anvil → m ≠ .jtag → exec (.clearOnRead m a .word) s =
      .next ((s.wr a.toNat (BitVec.ofNat 32 r.reset)).modBus fun b => { b with answer := some (x.setWidth 64) })) ∧
    (m = .anvil ∨ m = .jtag → exec (.clearOnRead m a .word) s =
      .next (s.modBus fun b => { b with answer := some (x.setWidth 64) }))

/-- DOORBELL, INT_CLR and FLASH_BANK_WRITE. A word write that reaches SYS.DOORBELL latches sources 8 to 15 pending by
its low 8 bits; one to SYS.INT_CLR_k clears the latches of the pulse sources among 32k to 32k + 31 that its bits name,
level sources excepted; one to SYS.FLASH_BANK switches the bank at once if no earlier read of the flash window is
under way, and otherwise waits for it (spec/07_atward_programming_model.md, spec/02_register_file_rules.md). -/
def Obligations.DoorbellsAndInterruptLatches : Prop :=
  (∀ (s : State) (m : Master) (v : BitVec 64), reaches s m true 0x40001540 = true →
    exec (.doorbell m .word v) s = .next ((bitsOf 8 (v.setWidth 32).toNat).foldl (fun s d => pulse (8 + d) s) s)) ∧
  (∀ (s : State) (m : Master) (k : Fin 8) (v : BitVec 64), reaches s m true (0x40001420 + 4 * k.val) = true →
    exec (.intClr m k .word v) s = .next (((bitsOf 32 (v.setWidth 32).toNat).filter
      fun j => !isLevelSource (32 * k.val + j)).foldl (fun s j => unlatch (32 * k.val + j) s) s)) ∧
  (∀ (s : State) (m : Master) (v : BitVec 64), reaches s m true 0x40000080 = true →
    exec (.flashBankWrite m .word v) s = .next (if flashReads s
      then s.modBus fun b => { b with bankWait := some (v.setWidth 32 &&& 1#32) }
      else s.wr 0x40000080 (v.setWidth 32 &&& 1#32)))

/-- POSTED_WRITE_DELIVERY, SPLIT_READ_RETURN, SPLIT_TIMEOUT, MERGED_NOTIFICATION, NET_TIMEOUT and the NET
acknowledgement. The oldest posted write of a direction reaches its target, an error of it logged as POSTED_ERR with
its master and address and answered to nobody. A split read's entry is freed as its data, or its lane's value, returns
to the core that waits, or at its timeout with a bus error, logged; either may let a waiting flash-bank write take
effect. A merged notification that arrives brings the bits in flight and launches the pending one, if any. The access
in the network crossing is performed and answered at its acknowledgement; one whose master was reset is performed and
answered to nobody, one that acted before NET's reset is answered with what it found, and a lost one is never
acknowledged. At its timeout an access is answered with a bus error and NET_TIMEOUT is set, and whether it was performed
is free (spec/02_register_file_rules.md, spec/03_clock_crossings.md). -/
def Obligations.BridgeAndNetworkAnswers : Prop :=
  (∀ (s : State) (d : Bool) (p : Posted) (l : List Posted), postedOf s d = p :: l →
    let r := busWrite ⟨p.master, p.lvl⟩ p.addr p.width p.data (setPosted d l s)
    exec (.postedWriteDelivery d) s = .next (if r.1 then r.2
      else logAccess Reg.bridgeStat 0 (masterId p.master) p.width p.addr true r.2)) ∧
  (∀ (s : State) (i : Nat) (x : Split), s.bus.splits[i]? = some x →
    let s1 := deliverOf x.master true (s.modBus fun b => { b with splits := b.splits.eraseIdx i })
    let r := busRead ⟨x.master, x.lvl⟩ x.addr x.width s1
    (x.addr < 0x100000000 → exec (.splitReadReturn i) s =
      .next (bankSettle (giveRet x.master ⟨x.addr, false, r.1, eccBad ⟨x.master, x.lvl⟩ x.addr x.width s1⟩ r.2))) ∧
    (0x100000000 ≤ x.addr → exec (.splitReadReturn i) s = .next (bankSettle
      (giveRet x.master ⟨x.addr, false, some (laneNow s1 (x.addr - 0x100000000)).toNat, false⟩ s1)))) ∧
  (∀ (s : State) (i : Nat) (x : Split), s.bus.splits[i]? = some x →
    exec (.splitTimeout i) s = .next (bankSettle (giveRet x.master ⟨x.addr, false, none, false⟩
      (logAccess Reg.bridgeStat 1 (masterId x.master) x.width x.addr false
        (s.modBus fun b => { b with splits := b.splits.eraseIdx i }))))) ∧
  (∀ s : State, (s.notice 11).inFlight = true → (s.notice 11).pend = true → (s.notice 11).flying.getLsbD 16 = false →
    exec (.mergedNotification 11) s = .next (sqSet Reg.netEvt (bitsOf 16 (s.notice 11).flying.toNat)
      (s.setNotice 11 ⟨true, (s.notice 11).waiting, false, 0#32⟩))) ∧
  (∀ s : State, (s.notice 7).inFlight = true → (s.notice 7).pend = false →
    exec (.mergedNotification 7) s = .next (slowNotice (s.notice 7).flying (s.setNotice 7 Notice.idle))) ∧
  (∀ s : State, (s.notice 14).inFlight = true → (s.notice 14).pend = false →
    exec (.mergedNotification 14) s = .next (monitorNotice (s.notice 14).flying
      (micArrive (s.notice 14).flying.toNat (s.setNotice 14 Notice.idle)))) ∧
  (∀ (s : State) (x : NetAcc), s.bus.net = some x →
    (let r := busWrite ⟨x.master, x.lvl⟩ x.addr x.width x.data (netNext s)
    x.phase = .asked → x.write = true → exec (.requestAcknowledge 12) s =
      .next (giveRet x.master ⟨x.addr, true, if r.1 then some 0 else none, false⟩ r.2)) ∧
    (let r := busRead ⟨x.master, x.lvl⟩ x.addr x.width (netNext s)
    x.phase = .asked → x.write = false →
      exec (.requestAcknowledge 12) s = .next (giveRet x.master ⟨x.addr, false, r.1, false⟩ r.2)) ∧
    (x.phase = .orphan → exec (.requestAcknowledge 12) s = .next (netAct x (netNext s)).2) ∧
    (∀ v, x.phase = .acted v →
      exec (.requestAcknowledge 12) s = .next (giveRet x.master ⟨x.addr, x.write, v, false⟩ (netNext s))) ∧
    (x.phase = .lost → exec (.requestAcknowledge 12) s = .next s) ∧
    (let d := (sqSet Reg.clkMon [4] (netNext s)).draw
    exec .netTimeout s = .next (giveRet x.master ⟨x.addr, x.write, none, false⟩
      (if x.phase = .asked ∧ d.1.getLsbD 0 = true then
        (if x.write then (busWrite ⟨x.master, x.lvl⟩ x.addr x.width x.data d.2).2
          else (busRead ⟨x.master, x.lvl⟩ x.addr x.width d.2).2)
      else d.2))))

/-- ADD, SUB, AND, OR, XOR, SHL, SHR, ASR, MUL, ADDD, SUBD: the result goes to a, the flags to PSW. On a core of any
class that stands ready, once the operands are read and the writes find no bus error: the two-operand forms combine a
with b and store in a; shape 5 combines b with c and stores in a. Pointer updates are written first, in operand order,
then the result; then PC moves to the next instruction and PSW takes the flags. Nothing else of the core's registers
changes. What each operation computes, as a result and as flags, is stated in three statements of its own
(spec/09_atward_instruction_reference.md, spec/07_atward_programming_model.md,
spec/08_atward_encoding_and_operands.md). -/
def Obligations.ArithmeticCombinesItsOperands : Prop :=
  ∀ p ∈ ([(.add, .add, aluAdd), (.sub, .sub, aluSub), (.and, .and, aluAnd), (.or, .or, aluOr), (.xor, .xor, aluXor),
      (.shl, .shl, aluShl), (.shr, .shr, aluShr), (.asr, .asr, aluAsr), (.mul, .mul, aluMul), (.addd, .addd, aluAddd),
      (.subd, .subd, aluSubd)] : List (AOp × (CoreId → Enc → Instr) × Alu2)),
    ∀ (c : CoreId) (e : Enc) (s : State) (a b d : Opd) (x y z w : RunSt),
    let i : AInstr := ⟨p.1, e, 0⟩
    let n := szBytes e.sz
    let o := fun (u v : Opd) (x : RunSt) => p.2.2 (8 * n) u.val v.val (regsOf c x.s).psw
    let done := fun (o : Nat × Word) (w : RunSt) => Host.Outcome.next (coreEnd c i (setRegs c { regsOf c w.s with
      pc := nextPc i (regsOf c s).pc, psw := o.2 } w.s))
    coreReady c i s = true →
    ((e.long && e.shape == 5) = false → rwOperand c 1 n e.a (coreBegin c i s) = .ok a x → readOperand c 2 n e.b x = .ok b y →
      writeAll c (a.ups ++ b.ups ++ resultTo a n (o a b y).1) y = .ok () w →
      exec (p.2.1 c e) s = done (o a b y) w) ∧
    ((e.long && e.shape == 5) = true → destOperand c 1 n e.a (coreBegin c i s) = .ok a x → readOperand c 2 n e.b x = .ok b y →
      readOperand c 3 n e.c y = .ok d z →
      writeAll c (a.ups ++ b.ups ++ d.ups ++ resultTo a n (o b d z).1) z = .ok () w →
      exec (p.2.1 c e) s = done (o b d z) w)

/-- MOV, TAP, TPUT, NOT, NEG, B2BCD, BCD2B, DIGIT, DADJ, CMP, TST: results, flags and pointer cells. On a core that
stands ready, once the operands are read and the writes find no bus error. MOV, TAP and TPUT copy s to d and change no
flag; NOT, NEG, B2BCD, BCD2B and DIGIT write what they compute from s to d; DADJ adjusts a in place; CMP and TST store
nothing but the pointer updates and take the flags of a − b and of a AND b. PC moves to the next instruction; nothing
else of the core's registers changes (spec/09_atward_instruction_reference.md, spec/07_atward_programming_model.md,
spec/05_sample_engine.md). -/
def Obligations.CopiesConversionsAndCompares : Prop :=
  (∀ p ∈ ([(.mov, .mov, fun _ => aluMov), (.tap, .tap, fun _ => aluMov), (.tput, .tput, fun _ => aluMov),
      (.not, .not, fun _ => aluNot), (.neg, .neg, fun _ w v psw => aluSub w 0 v psw), (.b2bcd, .b2bcd, fun _ => aluB2bcd),
      (.bcd2b, .bcd2b, fun _ => aluBcd2b), (.digit, .digit, fun e w v psw => aluDigit w v e.imm psw)] :
      List (AOp × (CoreId → Enc → Instr) × (Enc → Alu1))),
    ∀ (c : CoreId) (e : Enc) (s : State) (a b : Opd) (x y w : RunSt),
    let i : AInstr := ⟨p.1, e, 0⟩
    let n := szBytes e.sz
    let o := p.2.2 e (8 * n) b.val (regsOf c y.s).psw
    coreReady c i s = true → destOperand c 1 n e.a (coreBegin c i s) = .ok a x → readOperand c 2 n e.b x = .ok b y →
    writeAll c (a.ups ++ b.ups ++ resultTo a n o.1) y = .ok () w →
    exec (p.2.1 c e) s = .next (coreEnd c i (setRegs c { regsOf c w.s with
      pc := nextPc i (regsOf c s).pc, psw := o.2 } w.s))) ∧
  (∀ p ∈ ([(.cmp, .cmp, aluSub), (.tst, .tst, aluTst)] : List (AOp × (CoreId → Enc → Instr) × Alu2)),
    ∀ (c : CoreId) (e : Enc) (s : State) (a b : Opd) (x y w : RunSt),
    let i : AInstr := ⟨p.1, e, 0⟩
    let n := szBytes e.sz
    coreReady c i s = true → readOperand c 1 n e.a (coreBegin c i s) = .ok a x → readOperand c 2 n e.b x = .ok b y →
    writeAll c (a.ups ++ b.ups) y = .ok () w →
    exec (p.2.1 c e) s = .next (coreEnd c i (setRegs c { regsOf c w.s with
      pc := nextPc i (regsOf c s).pc, psw := (p.2.2 (8 * n) a.val b.val (regsOf c y.s).psw).2 } w.s))) ∧
  (∀ (c : CoreId) (e : Enc) (s : State) (a : Opd) (x w : RunSt),
    let i : AInstr := ⟨.dadj, e, 0⟩
    let n := szBytes e.sz
    let o := aluDadj (8 * n) a.val (regsOf c x.s).psw
    coreReady c i s = true → rwOperand c 1 n e.a (coreBegin c i s) = .ok a x →
    writeAll c (a.ups ++ resultTo a n o.1) x = .ok () w →
    exec (.dadj c e) s = .next (coreEnd c i (setRegs c { regsOf c w.s with
      pc := nextPc i (regsOf c s).pc, psw := o.2 } w.s)))

/-- MAC, MACR and SAT: the 72-bit accumulator, its rounding to a result, and the sticky flag S. On a core that stands
ready, once the operands are read and the writes find no bus error. MAC adds the signed product of a and b to ACC
modulo 2^72 and sets V to the overflow. MACR adds b × c, or s × 2^24 where the form has two operands, modulo 2^72,
writes the sum rounded half up at bit 24 and saturated to 32 bits to d, and clears ACC; SAT writes ACC so rounded and
saturated to its width and keeps ACC. MACR and SAT set N and Z from the value written and V where it saturated; S is
set with V and never cleared. No other flag and no other register but PC changes
(spec/09_atward_instruction_reference.md, spec/07_atward_programming_model.md). -/
def Obligations.TheAccumulatorRoundsAndSaturates : Prop :=
  let satOf := fun (n : Nat) (acc : Acc) =>
    let q := (acc.toInt + 8388608) / 16777216
    max (-((2 ^ (n - 1) : Nat) : Int)) (min (((2 ^ (n - 1) : Nat) : Int) - 1) q)
  let high := fun (n : Nat) (acc : Acc) => decide (satOf n acc ≠ (acc.toInt + 8388608) / 16777216)
  let flags := fun (n : Nat) (acc : Acc) (psw : Word) =>
    let p := wsetBit (wsetBit (wsetBit psw 3 (decide (satOf n acc < 0))) 2 (decide (satOf n acc = 0))) 0 (high n acc)
    if high n acc then wsetBit p 8 true else p
  let sum := fun (acc : Acc) (u v : Nat) => acc.toInt + (BitVec.ofNat 32 u).toInt * (BitVec.ofNat 32 v).toInt
  (∀ (c : CoreId) (e : Enc) (s : State) (a b : Opd) (x y w : RunSt),
    let i : AInstr := ⟨.mac, e, 0⟩
    coreReady c i s = true → readOperand c 1 4 e.a (coreBegin c i s) = .ok a x → readOperand c 2 4 e.b x = .ok b y →
    writeAll c (a.ups ++ b.ups) y = .ok () w →
    exec (.mac c e) s = .next (coreEnd c i (setRegs c { regsOf c w.s with
      pc := nextPc i (regsOf c s).pc, acc := BitVec.ofInt 72 (sum (regsOf c w.s).acc a.val b.val),
      psw := wsetBit (regsOf c w.s).psw 0
        (decide ((BitVec.ofInt 72 (sum (regsOf c w.s).acc a.val b.val)).toInt ≠ sum (regsOf c w.s).acc a.val b.val)) }
      w.s))) ∧
  (∀ (c : CoreId) (e : Enc) (s : State) (a b d : Opd) (x y z w : RunSt),
    let i : AInstr := ⟨.macr, e, 0⟩
    let acc := BitVec.ofInt 72 (sum (regsOf c z.s).acc b.val d.val)
    coreReady c i s = true → destOperand c 1 4 e.a (coreBegin c i s) = .ok a x → readOperand c 2 4 e.b x = .ok b y →
    (if (e.long && e.shape == 5) = true then readOperand c 3 4 e.c y = .ok d z else d = Opd.lit 3 16777216 ∧ z = y) →
    writeAll c (a.ups ++ b.ups ++ d.ups ++ resultTo a 4 (BitVec.ofInt 32 (satOf 32 acc)).toNat) z = .ok () w →
    exec (.macr c e) s = .next (coreEnd c i (setRegs c { regsOf c w.s with
      pc := nextPc i (regsOf c s).pc, acc := 0#72, psw := flags 32 acc (regsOf c z.s).psw } w.s))) ∧
  (∀ (c : CoreId) (e : Enc) (s : State) (a : Opd) (x w : RunSt),
    let i : AInstr := ⟨.sat, e, 0⟩
    let n := szBytes e.sz
    coreReady c i s = true → destOperand c 1 n e.a (coreBegin c i s) = .ok a x →
    writeAll c (a.ups ++ resultTo a n (BitVec.ofInt (8 * n) (satOf (8 * n) (regsOf c x.s).acc)).toNat) x = .ok () w →
    exec (.sat c e) s = .next (coreEnd c i (setRegs c { regsOf c w.s with
      pc := nextPc i (regsOf c s).pc, psw := flags (8 * n) (regsOf c x.s).acc (regsOf c x.s).psw } w.s)))

/-- ADD, SUB, CMP and NEG: the result and every PSW bit, at each width. At width w of 8, 16 or 32, ADD's function
gives the sum and SUB's, which CMP and NEG use too, the difference, modulo 2^w. C is the carry out of bit w − 1, or
the borrow; V is signed overflow; N and Z describe the result; NC[k] is the carry or borrow out of nibble k within w
and 0 above; H equals NC[0]; every other PSW bit is kept. On a ready core these are the flags that ADD, SUB, CMP and
NEG leave, here for their forms over two near cells (R294). -/
def Obligations.FlagsOfAdditionAndSubtraction : Prop :=
  let bits := fun (w : Nat) (r : Nat) (c : Bool) (v : Bool) (nc : Nat → Bool) (old new : Word) =>
    new.getLsbD 1 = c ∧ new.getLsbD 0 = v ∧ new.getLsbD 3 = decide (2 ^ (w - 1) ≤ r) ∧ new.getLsbD 2 = decide (r = 0) ∧
    (∀ k, k < 8 → new.getLsbD (16 + k) = (decide (k < w / 4) && nc k)) ∧ new.getLsbD 4 = new.getLsbD 16 ∧
    (∀ j, 5 ≤ j → ¬ (16 ≤ j ∧ j < 24) → new.getLsbD j = old.getLsbD j)
  let addOk := fun (w a b : Nat) (psw : Word) (o : Nat × Word) =>
    o.1 = (a % 2 ^ w + b % 2 ^ w) % 2 ^ w ∧
    bits w o.1 (decide (2 ^ w ≤ a % 2 ^ w + b % 2 ^ w))
      (decide ((BitVec.ofNat w o.1).toInt ≠ (BitVec.ofNat w a).toInt + (BitVec.ofNat w b).toInt))
      (fun k => decide (16 ^ (k + 1) ≤ a % 2 ^ w % 16 ^ (k + 1) + b % 2 ^ w % 16 ^ (k + 1))) psw o.2
  let subOk := fun (w a b : Nat) (psw : Word) (o : Nat × Word) =>
    (o.1 : Int) = ((a % 2 ^ w : Nat) - (b % 2 ^ w : Nat) : Int) % ((2 ^ w : Nat) : Int) ∧
    bits w o.1 (decide (a % 2 ^ w < b % 2 ^ w))
      (decide ((BitVec.ofNat w o.1).toInt ≠ (BitVec.ofNat w a).toInt - (BitVec.ofNat w b).toInt))
      (fun k => decide (a % 2 ^ w % 16 ^ (k + 1) < b % 2 ^ w % 16 ^ (k + 1))) psw o.2
  ∀ (c : CoreId) (e : Enc) (s : State) (a b : Opd) (x y w : RunSt),
    let n := szBytes e.sz
    let psw := (regsOf c y.s).psw
    let done := fun (op : AOp) (p : Word) => Host.Outcome.next (coreEnd c ⟨op, e, 0⟩ (setRegs c { regsOf c w.s with
      pc := nextPc ⟨op, e, 0⟩ (regsOf c s).pc, psw := p } w.s))
    (e.long && e.shape == 5) = false → readOperand c 2 n e.b x = .ok b y →
    (coreReady c ⟨.add, e, 0⟩ s = true → rwOperand c 1 n e.a (coreBegin c ⟨.add, e, 0⟩ s) = .ok a x →
      ∃ o, addOk (8 * n) a.val b.val psw o ∧
        (writeAll c (a.ups ++ b.ups ++ resultTo a n o.1) y = .ok () w → exec (.add c e) s = done .add o.2)) ∧
    (coreReady c ⟨.sub, e, 0⟩ s = true → rwOperand c 1 n e.a (coreBegin c ⟨.sub, e, 0⟩ s) = .ok a x →
      ∃ o, subOk (8 * n) a.val b.val psw o ∧
        (writeAll c (a.ups ++ b.ups ++ resultTo a n o.1) y = .ok () w → exec (.sub c e) s = done .sub o.2)) ∧
    (coreReady c ⟨.cmp, e, 0⟩ s = true → readOperand c 1 n e.a (coreBegin c ⟨.cmp, e, 0⟩ s) = .ok a x →
      ∃ o, subOk (8 * n) a.val b.val psw o ∧
        (writeAll c (a.ups ++ b.ups) y = .ok () w → exec (.cmp c e) s = done .cmp o.2)) ∧
    (coreReady c ⟨.neg, e, 0⟩ s = true → destOperand c 1 n e.a (coreBegin c ⟨.neg, e, 0⟩ s) = .ok a x →
      ∃ o, subOk (8 * n) 0 b.val psw o ∧
        (writeAll c (a.ups ++ b.ups ++ resultTo a n o.1) y = .ok () w → exec (.neg c e) s = done .neg o.2))

/-- SHL, SHR, ASR, MUL, AND, OR, XOR, NOT, TST: the result and every PSW bit, at each width. What the functions of
these operations answer at width w of 8, 16 or 32, in terms of bit vectors of that width. A shift takes its count k
from bits [5:0] of b: at w or more, SHL and SHR give 0 with C at 0 and ASR gives every bit and C equal to the sign;
below w, C is the last bit shifted out, 0 when k is 0; V is 0. MUL gives the low w bits of the product, V where the
signed product does not fit, and C at 0. AND, OR, XOR and NOT set N and Z only; TST clears C and V too. N and Z
describe the result; every other PSW bit is kept (spec/09_atward_instruction_reference.md). -/
def Obligations.ShiftsProductsAndLogic : Prop :=
  let nz := fun (w : Nat) (p : Word) (r : BitVec w) => wsetBit (wsetBit p 3 r.msb) 2 (decide (r = 0#w))
  let cv := fun (p : Word) (c v : Bool) => wsetBit (wsetBit p 1 c) 0 v
  ∀ (sz : Sz) (a b : Nat) (p : Word),
    let w := 8 * szBytes sz
    let x := BitVec.ofNat w a
    let y := BitVec.ofNat w b
    let k := b % 64
    aluShl w a b p = ((x <<< k).toNat, cv (nz w p (x <<< k)) (decide (0 < k ∧ k < w) && x.getLsbD (w - k)) false) ∧
    aluShr w a b p = ((x >>> k).toNat, cv (nz w p (x >>> k)) (decide (0 < k ∧ k < w) && x.getLsbD (k - 1)) false) ∧
    aluAsr w a b p = ((x.sshiftRight k).toNat, cv (nz w p (x.sshiftRight k))
      (if w ≤ k then x.msb else decide (0 < k) && x.getLsbD (k - 1)) false) ∧
    aluMul w a b p = ((x * y).toNat, cv (nz w p (x * y)) false (decide ((x * y).toInt ≠ x.toInt * y.toInt))) ∧
    aluAnd w a b p = ((x &&& y).toNat, nz w p (x &&& y)) ∧
    aluOr w a b p = ((x ||| y).toNat, nz w p (x ||| y)) ∧
    aluXor w a b p = ((x ^^^ y).toNat, nz w p (x ^^^ y)) ∧
    aluNot w a p = ((~~~x).toNat, nz w p (~~~x)) ∧
    aluTst w a b p = ((x &&& y).toNat, cv (nz w p (x &&& y)) false false)

/-- PUSH, POP, CALL, RET, JMP and Jcc: the active stack and the next PC. On a core that stands ready, once the
operands are read and the accesses find no bus error. PUSH decrements the active SP by 4 and writes the word there;
POP reads the word at SP into d and increments SP by 4. CALL pushes the address of the instruction after it and goes
to its target; RET pops PC and clears its bit 0. JMP goes to its target, and Jcc where its condition holds, else to
the next instruction. Push and CALL apply where the STACK limit lets the write be; on a sample core at most four calls
nest. Nothing else of the registers changes (spec/07_atward_programming_model.md,
spec/08_atward_encoding_and_operands.md, spec/05_sample_engine.md). -/
def Obligations.StackAndFlow : Prop :=
  (∀ (c : CoreId) (e : Enc) (s : State) (b : Opd) (x y w : RunSt),
    let i : AInstr := ⟨.push, e, 0⟩
    let sp := curSP c (regsOf c x.s) - 4#32
    coreReady c i s = true → readOperand c 2 4 e.b (coreBegin c i s) = .ok b x → stackLimited c (regsOf c x.s) sp = false →
    coreProbe c sp 4 5 x = .ok () y → writeAll c (b.ups ++ [⟨sp, 4, b.val, 5⟩]) y = .ok () w →
    exec (.push c e) s = .next (coreEnd c i (setRegs c { setCurSP c (regsOf c w.s) sp with
      pc := nextPc i (regsOf c s).pc } w.s))) ∧
  (∀ (c : CoreId) (e : Enc) (s : State) (a : Opd) (v : Nat) (x y w : RunSt),
    let i : AInstr := ⟨.pop, e, 0⟩
    coreReady c i s = true → destOperand c 1 4 e.a (coreBegin c i s) = .ok a x →
    coreRead c (curSP c (regsOf c x.s)) 4 5 x = .ok v y → writeAll c (a.ups ++ resultTo a 4 v) y = .ok () w →
    exec (.pop c e) s = .next (coreEnd c i (setRegs c (setCurSP c { regsOf c w.s with
      pc := nextPc i (regsOf c s).pc } (curSP c (regsOf c w.s) + 4#32)) w.s))) ∧
  (∀ (c : CoreId) (e : Enc) (s : State) (t : Opd × Word) (x y w : RunSt),
    let i : AInstr := ⟨.call, e, 0⟩
    let nx := nextPc i (regsOf c s).pc
    let sp := curSP c (regsOf c x.s) - 4#32
    coreReady c i s = true → flowTarget c e (regsOf c s).pc (coreBegin c i s) = .ok t x →
    (isSample c = true ∧ depthOf c x.s < 4 ∨ isSample c = false ∧ t.2.getLsbD 0 = false) →
    stackLimited c (regsOf c x.s) sp = false →
    coreProbe c sp 4 5 x = .ok () y → writeAll c (t.1.ups ++ [⟨sp, 4, nx.toNat, 5⟩]) y = .ok () w →
    exec (.call c e) s = .next (coreEnd c i (setDepth c (depthOf c x.s + 1)
      (setRegs c { setCurSP c (regsOf c w.s) sp with pc := t.2 } w.s)))) ∧
  (∀ (c : CoreId) (e : Enc) (s : State) (v : Nat) (y : RunSt),
    let i : AInstr := ⟨.ret, e, 0⟩
    let x := coreBegin c i s
    coreReady c i s = true → (isSample c = true → 0 < depthOf c x.s) →
    coreRead c (curSP c (regsOf c x.s)) 4 5 x = .ok v y → y.ecc = none →
    exec (.ret c e) s = .next (coreEnd c i (setDepth c (depthOf c x.s - 1)
      (setRegs c (setCurSP c { regsOf c y.s with
        pc := BitVec.ofNat 32 v &&& 0xFFFFFFFE#32 } (curSP c (regsOf c y.s) + 4#32)) y.s)))) ∧
  (∀ (c : CoreId) (e : Enc) (s : State) (t : Opd × Word) (x w : RunSt),
    let i : AInstr := ⟨.jmp, e, 0⟩
    coreReady c i s = true → flowTarget c e (regsOf c s).pc (coreBegin c i s) = .ok t x → t.2.getLsbD 0 = false →
    writeAll c t.1.ups x = .ok () w →
    exec (.jmp c e) s = .next (coreEnd c i (setRegs c { regsOf c w.s with pc := t.2 } w.s))) ∧
  (∀ (c : CoreId) (e : Enc) (cc : Fin 16) (s : State) (t : Opd × Word) (x w : RunSt),
    let i : AInstr := ⟨.jcc, e, cc.val⟩
    coreReady c i s = true → flowTarget c e (regsOf c s).pc (coreBegin c i s) = .ok t x →
    writeAll c t.1.ups x = .ok () w →
    (condHolds cc.val (regsOf c x.s).psw = true → t.2.getLsbD 0 = false →
      exec (.jcc c cc e) s = .next (coreEnd c i (setRegs c { regsOf c w.s with pc := t.2 } w.s))) ∧
    (condHolds cc.val (regsOf c x.s).psw = false →
      exec (.jcc c cc e) s = .next (coreEnd c i (setRegs c { regsOf c w.s with pc := nextPc i (regsOf c s).pc } w.s))))

/-- SKP.cc, RPT, RPTI, END and NOP, an instruction that is skipped, and one repeated. On a ready core SKP.cc records
whether its condition holds and changes no flag; RPT records its count; RPTI loads RPC if it is 0 and marks the next
instruction; END, on a sample core, ends the frame at its slot; NOP only moves PC. A legal instruction whose SKP.cc
failed moves PC and, on a sample core, spends its slots: no memory, lane, pointer cell, flag or other register
changes. On a sample core an instruction under RPT n runs n times, each run afresh. On a control-class core an
iteration under RPTI counts RPC down and stays at the instruction until RPC is 0; what an RPTI changed is kept until
then, so that an illegal successor can undo it
(spec/09_atward_instruction_reference.md, spec/07_atward_programming_model.md, spec/05_sample_engine.md). -/
def Obligations.SkipsRepeatsAndEnd : Prop :=
  (∀ (c : CoreId) (e : Enc) (cc : Fin 16) (s : State),
    let r := fun (op : AOp) => regsOf c (coreBegin c ⟨op, e, 0⟩ s).s
    let pc := (regsOf c s).pc
    let done := fun (op : AOp) (cc : Nat) (r : CoreRegs) =>
      Host.Outcome.next (coreEnd c ⟨op, e, cc⟩ (setRegs c { r with pc := nextPc ⟨op, e, cc⟩ pc } (coreBegin c ⟨op, e, cc⟩ s).s))
    (coreReady c ⟨.skp, e, cc.val⟩ s = true → exec (.skpCc c cc e) s =
      done .skp cc.val { r .skp with skp := some (pc, condHolds cc.val (r .skp).psw) }) ∧
    (coreReady c ⟨.rpt, e, 0⟩ s = true → exec (.rpt c e) s = done .rpt 0 { r .rpt with rpt := some (pc, rptCount e) }) ∧
    (coreReady c ⟨.rpti, e, 0⟩ s = true → e.shape = 6 → exec (.rpti c e) s =
      done .rpti 0 { r .rpti with
        rpti := some pc, rpc := if (r .rpti).rpc = 0#32 then BitVec.ofNat 32 e.imm else (r .rpti).rpc,
        undo := some ⟨(r .rpti).rpc, none⟩ }) ∧
    (coreReady c ⟨.nop, e, 0⟩ s = true → exec (.nop c e) s = done .nop 0 (r .nop))) ∧
  (∀ (c : CoreId) (e : Enc) (s : State) (a : Opd) (x w : RunSt),
    let i : AInstr := ⟨.rpti, e, 0⟩
    coreReady c i s = true → e.shape ≠ 6 → readOperand c 1 4 e.a (coreBegin c i s) = .ok a x → writeAll c a.ups x = .ok () w →
    exec (.rpti c e) s = .next (coreEnd c i (setRegs c { regsOf c w.s with
      pc := nextPc i (regsOf c s).pc, rpti := some (regsOf c s).pc,
      rpc := if (regsOf c w.s).rpc = 0#32 then BitVec.ofNat 32 a.val else (regsOf c w.s).rpc,
      undo := some ⟨(regsOf c w.s).rpc, steppedCell e.a a.ups⟩ } w.s))) ∧
  (∀ (n : Fin 16) (e : Enc) (s : State),
    let i : AInstr := ⟨.endFrame, e, 0⟩
    let t := (coreBegin (.sc n) i s).s.modSc n.val fun x => { x with ended := some x.slot }
    coreReady (.sc n) i s = true → exec (.endFrame (.sc n) e) s =
      .next (coreEnd (.sc n) i (setRegs (.sc n) { regsOf (.sc n) t with pc := nextPc i (regsOf (.sc n) s).pc } t))) ∧
  (∀ (c : CoreId) (op : AOp) (e : Enc) (cc : Fin 16) (k : Nat) (s : State) (a : Word),
    let i : AInstr := ⟨op, e, cc.val⟩
    let r := regsOf c s
    r.skp = some (a, false) → r.rpt = none → r.rpti = none → badAfterSkp op = false → legalAlone c i = true →
    (∀ n, c = .sc n → scActive (s.sc n.val) = true → scFetchable s n.val r.pc.toNat (instrLen i) = true →
      exec (atward c op e cc k) s =
        .next (scSpend n.val (slotCost i) (scRegs n (goTo (nextPc i r.pc)) (coreBegin c i s).s))) ∧
    (isSample c = false → (s.ctlCore (ctlIndex c)).st = .run → fetchFails c s i r.pc = none → fetchZero c s i r.pc = none →
      exec (atward c op e cc k) s = .next (setRegs c (goTo (nextPc i r.pc) (noPrefix r)) (fetchLines c i r.pc s)))) ∧
  (∀ (n : Fin 16) (op : AOp) (e : Enc) (s : State) (a : Word) (m : Nat),
    let i : AInstr := ⟨op, e, 0⟩
    let r := (s.sc n.val).r
    r.rpt = some (a, m) → r.skp = none → badAfterRpt op = false → legalAlone (.sc n) i = true →
    scActive (s.sc n.val) = true → scFetchable s n.val r.pc.toNat (instrLen i) = true →
    exec (atward (.sc n) op e 0 0) s =
      .next ((scOnce n i r.pc (nextPc i r.pc))^[m] (coreBegin (.sc n) i s).s)) ∧
  (∀ (c : CoreId) (op : AOp) (e : Enc) (s : State) (a : Word) (x : RunSt),
    let i : AInstr := ⟨op, e, 0⟩
    let r := regsOf c s
    isSample c = false → (s.ctlCore (ctlIndex c)).st = .run → r.rpti = some a → r.rpt = none → r.skp = none → r.rpc ≠ 0#32 →
    badAfterRpt op = false → legalAlone c i = true → interruptDue c s = none → fetchFails c s i r.pc = none →
    fetchZero c s i r.pc = none → opBody c i r.pc (nextPc i r.pc) (coreBegin c i s) = .ok () x → x.ecc = none →
    let t := setRets c [] x.s
    let left := (regsOf c t).rpc - 1#32
    exec (atward c op e 0 0) s = .next (if left = 0#32
      then setRegs c { regsOf c t with rpc := left, rpti := none, undo := none } t
      else setRegs c { regsOf c t with rpc := left, pc := r.pc, undo := none } t))

/-- LIN, LOUT, BQD, MFS, MTS and the cache invalidations. On a core that stands ready, once the operands are read and
the accesses succeed. LIN copies what the lane of b holds to d, which on a sample core is the lane's published value,
for a TDM input's lane the value before until slot 16, through an armed edge entry the blend of old and new lane, and 0
for a lane that its domain does not write; LOUT puts b in lane a as its pending value. BQD computes y, s1' and s2' from the section at a and the coefficients at
b, each 0 where b names a place past the bank, each result rounded and saturated from its exact sum, writes them, sets V
where one saturated, and S with it. MFS copies a
system register under a mask to d; MTS replaces the masked bits of one, as its register lets them be written, and a
write of CACHE_OP acts. CACHE_OP 1 to 4 take out a data line, all of them, an instruction line, all of them. PC moves
on (spec/09_atward_instruction_reference.md, spec/05_sample_engine.md, spec/07_atward_programming_model.md). -/
def Obligations.LanesFiltersAndSystemRegisters : Prop :=
  (∀ (c : CoreId) (e : Enc) (s : State) (a b : Opd) (v : Nat) (x y z w : RunSt),
    let i : AInstr := ⟨.lin, e, 0⟩
    coreReady c i s = true → destOperand c 1 4 e.a (coreBegin c i s) = .ok a x → readOperand c 2 4 e.b x = .ok b y →
    laneIn c (b.val % 1024) y = .ok v z → writeAll c (a.ups ++ b.ups ++ resultTo a 4 v) z = .ok () w →
    exec (.lin c e) s = .next (coreEnd c i (setRegs c { regsOf c w.s with pc := nextPc i (regsOf c s).pc } w.s))) ∧
  (∀ (n : Fin 16) (l : Nat) (x : RunSt), ((x.s.sc n.val).edges.find? fun e => e.1 == l) = none →
    let now := if 0x100 ≤ l ∧ l < 0x1C0 ∧ (x.s.sc n.val).slot < 16 then (x.s.lane l).held else (x.s.lane l).pub
    (laneDom x.s l = some (x.s.sc n.val).dom → laneIn (.sc n) l x = .ok now.toNat x) ∧
    (laneDom x.s l = none → laneIn (.sc n) l x = .ok 0 x) ∧
    (∀ d, laneDom x.s l = some d → d ≠ (x.s.sc n.val).dom →
      laneIn (.sc n) l x = .ok 0 { x with s := engEvent 2 n x.s })) ∧
  (∀ (n : Fin 16) (l old f : Nat) (x : RunSt), ((x.s.sc n.val).edges.find? fun e => e.1 == l) = some (l, old, f) →
    laneDom x.s l = some (x.s.sc n.val).dom → laneDom x.s old = some (x.s.sc n.val).dom →
    laneIn (.sc n) l x = .ok (BitVec.ofInt 32
      (((scLaneVal n old x.s).toInt * (64 - (f : Int)) + (scLaneVal n l x.s).toInt * (f : Int)) / 64)).toNat x) ∧
  (∀ (c : CoreId) (e : Enc) (s : State) (a b : Opd) (x y z w : RunSt),
    let i : AInstr := ⟨.lout, e, 0⟩
    coreReady c i s = true → readOperand c 1 4 e.a (coreBegin c i s) = .ok a x → readOperand c 2 4 e.b x = .ok b y →
    laneOut c (a.val % 1024) b.val y = .ok () z → writeAll c (a.ups ++ b.ups) z = .ok () w →
    exec (.lout c e) s = .next (coreEnd c i (setRegs c { regsOf c w.s with pc := nextPc i (regsOf c s).pc } w.s))) ∧
  (∀ (n : Fin 16) (l v : Nat) (x : RunSt), (x.s.sc n.val).hasLane l = true →
    laneOut (.sc n) l v x = .ok () { x with s := x.s.lanePut l (BitVec.ofNat 32 v) }) ∧
  (∀ (c : CoreId) (e : Enc) (s : State) (a b : Opd) (ea : Word) (s1 s2 xv b0 b1 b2 a1 a2 : Word)
      (x y z1 z2 z3 z4 z5 z6 z7 z8 z9 z10 z11 w : RunSt),
    let i : AInstr := ⟨.bqd, e, 0⟩
    let r := fun (v : Int) => max (-2147483648) (min 2147483647 ((v + 8388608) / 16777216))
    let y' := r (b0.toInt * xv.toInt + s1.toInt * 16777216)
    let t1 := r (b1.toInt * xv.toInt - a1.toInt * y' + s2.toInt * 16777216)
    let t2 := r (b2.toInt * xv.toInt - a2.toInt * y')
    let high := decide (y' ≠ (b0.toInt * xv.toInt + s1.toInt * 16777216 + 8388608) / 16777216) ||
      decide (t1 ≠ (b1.toInt * xv.toInt - a1.toInt * y' + s2.toInt * 16777216 + 8388608) / 16777216) ||
      decide (t2 ≠ (b2.toInt * xv.toInt - a2.toInt * y' + 8388608) / 16777216)
    coreReady c i s = true → addrOperand c 1 4 e.a (coreBegin c i s) = .ok a x → a.addr = some ea →
    bqdRead c ea 1 x = .ok s1 z1 → bqdRead c (ea + 0x80#32) 1 z1 = .ok s2 z2 → bqdRead c (ea + 0x100#32) 1 z2 = .ok xv z3 →
    coreProbe c ea 4 1 z3 = .ok () z4 → coreProbe c (ea + 0x80#32) 4 1 z4 = .ok () z5 →
    coreProbe c (ea + 0x104#32) 4 1 z5 = .ok () z6 → addrOperand c 2 4 e.b z6 = .ok b y →
    bqdCoef c b 0#32 y = .ok b0 z7 → bqdCoef c b 0x80#32 z7 = .ok b1 z8 → bqdCoef c b 0x100#32 z8 = .ok b2 z9 →
    bqdCoef c b 0x180#32 z9 = .ok a1 z10 → bqdCoef c b 0x200#32 z10 = .ok a2 z11 →
    (isSample c = true → [ea, ea + 0x80#32, ea + 0x104#32].all (fun a => regionOf a.toNat != .crucible) = true) →
    writeAll c (a.ups ++ b.ups ++ [⟨ea + 0x104#32, 4, (BitVec.ofInt 32 y').toNat, 1⟩, ⟨ea, 4, (BitVec.ofInt 32 t1).toNat, 1⟩,
      ⟨ea + 0x80#32, 4, (BitVec.ofInt 32 t2).toNat, 1⟩]) z11 = .ok () w →
    exec (.bqd c e) s = .next (coreEnd c i (setRegs c { regsOf c w.s with
      pc := nextPc i (regsOf c s).pc
      psw := if high then wsetBit (wsetBit (regsOf c w.s).psw 0 true) 8 true else wsetBit (regsOf c w.s).psw 0 false } w.s))) ∧
  (∀ (c : CoreId) (b : Opd) (off : Word) (x : RunSt),
    (∀ eb, b.addr = some eb → bqdCoef c b off x = bqdRead c (eb + off) 2 x) ∧
    (b.addr = none → bqdCoef c b off x = .ok 0#32 x)) ∧
  (∀ (c : CoreId) (e : Enc) (s : State) (a m : Opd) (x y w : RunSt),
    let i : AInstr := ⟨.mfs, e, 0⟩
    coreReady c i s = true → destOperand c 1 4 e.a (coreBegin c i s) = .ok a x → readOperand c 2 4 e.b x = .ok m y →
    writeAll c (a.ups ++ m.ups ++ resultTo a 4 (sysRead c (regsOf c y.s) e.imm &&& BitVec.ofNat 32 m.val).toNat) y = .ok () w →
    exec (.mfs c e) s = .next (coreEnd c i (setRegs c { regsOf c w.s with pc := nextPc i (regsOf c s).pc } w.s))) ∧
  (∀ (c : CoreId) (e : Enc) (s : State) (v m : Opd) (x y w : RunSt),
    let i : AInstr := ⟨.mts, e, 0⟩
    let r := regsOf c (coreBegin c i s).s
    let mk := BitVec.ofNat 32 m.val
    let new := (sysRead c r e.imm &&& ~~~mk) ||| (BitVec.ofNat 32 v.val &&& mk)
    let t := setRegs c { sysWrite c e.imm new (regsOf c w.s) with pc := nextPc i (regsOf c s).pc } w.s
    coreReady c i s = true → (sysPrivileged e.imm = true → isSample c = false → isPrivileged c r = true) →
    readOperand c 1 4 e.a (coreBegin c i s) = .ok v x → readOperand c 2 4 e.b x = .ok m y →
    writeAll c (v.ups ++ m.ups) y = .ok () w →
    exec (.mts c e) s = .next (coreEnd c i (if e.imm = 20 then cacheOp (ctlIndex c) new.toNat t else t))) ∧
  (∀ (c : Fin 4) (s : State),
    let x := s.ctlCore c.val
    let line := x.r.cacheAddr.toNat / 32
    exec (.invalidateDataLine c) s = .next (s.setCtl c.val { x with dcache := tset [] x.dcache line [] }) ∧
    exec (.invalidateDataCache c) s = .next (s.setCtl c.val { x with dcache := [] }) ∧
    exec (.invalidateInstructionLine c) s = .next (s.setCtl c.val { x with icache := x.icache.filter (· != line) }) ∧
    exec (.invalidateInstructionCache c) s = .next (s.setCtl c.val { x with icache := [] }))

/-- Entry on a control core: stack, frame in memory, PSW, ACTIVE, RUNLVL, XCAUSE and PC. For a control core whose
privileged stack has room in the hearth and whose vector word lies there, even, free of ECC errors, outside the frame
and not held by its data cache: entry to a vector, for an exception or for an interrupt at level L from a source, leaves SP_P below the frame;
the frame holds, from SP up, PSW, PC with bit 0 marking an interrupt, and with PSW.BA set BSRC, BDST and BCNT; no
other byte changes; PSW has PRIV 1, BA 0 and every other bit as it was; an interrupt sets bit L of ACTIVE, RUNLVL to L
and LAST_VEC; XCAUSE records the vector; PC is the word of the table. Every other register of the core is kept (R251).
-/
def Obligations.EntryPushesTheFrame : Prop :=
  ∀ (n : Fin 4) (vec : Nat) (cause pc : Word) (xaddr : Option Word) (irq : Option (Nat × Nat)) (s : State),
    let r := (s.ctlCore n.val).r
    let ba := r.psw.getLsbD 28
    let len := if ba then 20 else 8
    let sp := r.spP.toNat - len
    let va := r.vbase.toNat + 4 * vec
    let t := enter (.cc n) vec cause xaddr pc irq s
    0x20000000 + len ≤ r.spP.toNat → r.spP.toNat ≤ 0x20200000 → r.spP.toNat % 4 = 0 → released s 0 = true →
    (postedOf s false).all (fun p => p.master != .cc n) = true →
    0x20000000 ≤ va → va + 4 ≤ 0x20200000 → va % 4 = 0 → (va + 4 ≤ sp ∨ r.spP.toNat ≤ va) →
    tget [] (s.ctlCore n.val).dcache (va / 32) = [] → s.mrd va 4 % 2 = 0 → (eccHit s va 4).2 = false →
    (t.ctlCore n.val).r = { noPrefix r with
      psw := wsetBit (wsetBit r.psw 30 true) 28 false
      spP := BitVec.ofNat 32 sp
      xcause := cause
      xaddr := xaddr.getD r.xaddr
      pc := BitVec.ofNat 32 (s.mrd va 4) } ∧
    t.mrd sp 4 = r.psw.toNat ∧
    t.mrd (sp + 4) 4 = ((pc &&& 0xFFFFFFFE#32) ||| (if irq.isSome then 1#32 else 0#32)).toNat ∧
    (ba = true → t.mrd (sp + 8) 4 = r.bsrc.toNat ∧ t.mrd (sp + 12) 4 = r.bdst.toNat ∧ t.mrd (sp + 16) 4 = r.bcnt.toNat) ∧
    (∀ a, a < sp ∨ r.spP.toNat ≤ a → memGet t.mem a = memGet s.mem a) ∧
    (∀ l src, irq = some (l, src) → (t.ctlCore n.val).active = (s.ctlCore n.val).active ||| BitVec.ofNat 8 (2 ^ l) ∧
      (t.ctlCore n.val).runlvl = l ∧ (t.ctlCore n.val).lastVec = vec ∧
      (isPulseSource src = true → t.bit (0x40001400 + 4 * (src / 32)) (src % 32) = false)) ∧
    (irq = none → (t.ctlCore n.val).active = (s.ctlCore n.val).active ∧ (t.ctlCore n.val).runlvl = (s.ctlCore n.val).runlvl ∧
      (t.ctlCore n.val).lastVec = (s.ctlCore n.val).lastVec)

/-- INTERRUPT_ENTRY takes the eligible source of the lowest level, then of the lowest number. For a control core at an
interruption point: with PSW.I at 1 and eligible a source that is pending, enabled, routed to the core and of a level
lower than both RUNLVL and THRESH, INTERRUPT_ENTRY enters that source's vector for the eligible source of the lowest
level and, at equal level, the lowest number; with PSW.I at 0 or no eligible source it changes nothing. An instruction
sent while such a source is eligible gives way to that entry. Entry itself is stated apart (R245). -/
def Obligations.InterruptsTakeTheLowestLevel : Prop :=
  ∀ (n : Fin 4) (s : State),
    let x := s.ctlCore n.val
    let cfg := fun (src : Nat) => s.rd (0x40001000 + 4 * src)
    let level := fun (src : Nat) => (cfg src).toNat / 16 % 8
    let eligible := fun (src : Nat) => src < 256 ∧ intPending s src = true ∧ (cfg src).getLsbD 0 = true ∧
      (cfg src).toNat / 256 % 8 = n.val ∧ level src < x.runlvl ∧ level src < (s.rd (0x40001504 + 16 * n.val)).toNat % 16
    atPoint (.cc n) s = true →
    (∀ src, x.r.psw.getLsbD 29 = true → eligible src →
      (∀ other, eligible other → level src < level other ∨ level src = level other ∧ src ≤ other) →
      exec (.interruptEntry (.cc n)) s = .next (enter (.cc n) (16 + src) (BitVec.ofNat 32 (16 + src)) none
        (x.r.rpti.getD x.r.pc) (some (level src, src)) s)) ∧
    (x.r.psw.getLsbD 29 = false ∨ (∀ src, ¬ eligible src) → exec (.interruptEntry (.cc n)) s = .next s) ∧
    (∀ (src : Nat) (op : AOp) (e : Enc) (cc : Fin 16) (k : Nat), x.r.psw.getLsbD 29 = true → eligible src →
      exec (atward (.cc n) op e cc k) s = exec (.interruptEntry (.cc n)) s)

/-- SYS, WAIT, WAIT_WAKE, RETI, and an instruction that raises an exception. On a ready control-class core: SYS enters
vector 6 with the next instruction's address and n in XCAUSE.INFO. WAIT moves PC on and stops fetching; WAIT_WAKE,
once an interrupt would be taken with PSW.I read as 1, lets the core run, and takes the interrupt if PSW.I is 1. RETI
pops PSW, PC and, with BA set in the popped PSW, the block registers, and for an interrupt's frame clears the lowest
bit of ACTIVE and sets RUNLVL to the next. An instruction whose piece raises an exception, or met an ECC error and no
other, enters it with its own address and with the registers as they stood. An illegal encoding enters ILLEGAL; on a sample core it records the
cause and takes one slot (spec/07_atward_programming_model.md, spec/09_atward_instruction_reference.md). -/
def Obligations.TrapsWaitsAndReturns : Prop :=
  (∀ (c : CoreId) (e : Enc) (s : State),
    let i : AInstr := ⟨.sys, e, 0⟩
    coreReady c i s = true → exec (.sysCall c e) s = .next (enter c 6 (BitVec.ofNat 32 (6 + e.imm * 65536)) none
      (nextPc i (regsOf c s).pc) none (setRegs c (noPrefix (regsOf c s)) (coreBegin c i s).s))) ∧
  (∀ (c : CoreId) (e : Enc) (s : State),
    let i : AInstr := ⟨.wait, e, 0⟩
    let t := setRegs c (noPrefix (regsOf c s)) (coreBegin c i s).s
    let u := setRegs c { regsOf c t with pc := nextPc i (regsOf c s).pc } t
    coreReady c i s = true → exec (.wait c e) s = .next (u.setCtl (ctlIndex c) { u.ctlCore (ctlIndex c) with st := .wait })) ∧
  (∀ (c : CoreId) (s : State) (l src : Nat), isSample c = false → (s.ctlCore (ctlIndex c)).st = .wait →
    takenSource s (ctlIndex c) = some (l, src) →
    let t := s.setCtl (ctlIndex c) { s.ctlCore (ctlIndex c) with st := .run }
    exec (.waitWake c) s = .next (if (regsOf c s).psw.getLsbD 29 then
      enter c (16 + src) (BitVec.ofNat 32 (16 + src)) none (regsOf c s).pc (some (l, src)) t else t)) ∧
  (∀ (c : CoreId) (e : Enc) (s t u : State) (psw pc : Word) (blk : List Word),
    let i : AInstr := ⟨.reti, e, 0⟩
    let k := ctlIndex c
    coreReady c i s = true →
    popMany c 2 (setRegs c (noPrefix (regsOf c s)) (coreBegin c i s).s) = ([psw, pc], t) →
    popMany c (if psw.getLsbD 28 then 3 else 0) t = (blk, u) → blk.length = (if psw.getLsbD 28 then 3 else 0) →
    let act := (u.ctlCore k).active &&& ((u.ctlCore k).active - 1#8)
    let v := if pc.getLsbD 0 then u.setCtl k { u.ctlCore k with active := act, runlvl := lowestBit act } else u
    let r := regsOf c v
    exec (.reti c e) s = .next (setRegs c { r with
      psw := (psw &&& 0x70FF011F#32) ||| (r.psw &&& 0x80000000#32)
      pc := pc &&& 0xFFFFFFFE#32
      bsrc := (blk[0]?).getD r.bsrc
      bdst := (blk[1]?).getD r.bdst
      bcnt := (blk[2]?).getD r.bcnt } v)) ∧
  (∀ (c : CoreId) (op : AOp) (e : Enc) (cc : Fin 16) (k : Nat) (s : State) (f : Flt) (x : RunSt),
    let i : AInstr := ⟨op, e, if op = .skp ∨ op = .jcc then cc.val else 0⟩
    let r := regsOf c s
    isSample c = false → coreReady c i s = true → isBlockOp op = false → op ≠ .reti → op ≠ .wait → op ≠ .sys →
    opBody c i r.pc (nextPc i r.pc) (coreBegin c i s) = .flt f x →
    exec (atward c op e cc k) s = .next (enter c f.vec (BitVec.ofNat 32 (f.vec + f.opn * 4096 + f.info * 65536)) f.xaddr r.pc none
      (setRets c [] (setRegs c r x.s)))) ∧
  (∀ (c : CoreId) (op : AOp) (e : Enc) (cc : Fin 16) (k : Nat) (s : State) (f : Flt) (x : RunSt),
    let i : AInstr := ⟨op, e, if op = .skp ∨ op = .jcc then cc.val else 0⟩
    let r := regsOf c s
    isSample c = false → coreReady c i s = true → isBlockOp op = false → op ≠ .reti → op ≠ .wait → op ≠ .sys →
    opBody c i r.pc (nextPc i r.pc) (coreBegin c i s) = .ok () x → x.ecc = some f →
    exec (atward c op e cc k) s = .next (enter c f.vec (BitVec.ofNat 32 (f.vec + f.opn * 4096 + f.info * 65536)) f.xaddr r.pc none
      (setRets c [] (setRegs c r x.s)))) ∧
  (∀ (c : CoreId) (op : AOp) (e : Enc) (cc : Fin 16) (k : Nat) (s : State),
    let i : AInstr := ⟨op, e, if op = .skp ∨ op = .jcc then cc.val else 0⟩
    let r := regsOf c s
    legalAlone c i = false → r.skp = none → r.rpt = none → r.rpti = none →
    (isSample c = false → (s.ctlCore (ctlIndex c)).st = .run → interruptDue c s = none → fetchFails c s i r.pc = none →
      fetchZero c s i r.pc = none → exec (atward c op e cc k) s = .next (enter c 1 1#32 none r.pc none (fetchLines c i r.pc s))) ∧
    (∀ n, c = .sc n → scActive (s.sc n.val) = true → scFetchable s n.val r.pc.toNat (instrLen i) = true →
      exec (atward c op e cc k) s = .next (scSpend n.val 1 (scRegs n (goTo (nextPc i r.pc))
        (recordCause n.val 3 (coreBegin c i s).s)))))

/-- BMOV, BFIL, BCMP, BSCN and BCRC: operands, one element, the end, and the cost on a sample core. On a ready
control-class core the operands load BSRC, BDST, BCNT, BSTEP and, for BCRC, ACC, and set BA; BMOV runs downwards when
its destination lies above its source and the ranges overlap. With BA set the operation resumes: an element moves,
fills, compares, scans or adds to the CRC, steps the pointers by the element size and counts BCNT down, upwards but for
a BMOV whose pointers overlap in what is left, or whose BSTEP says so (assumption 18); a pair that differs (BCMP) or an element equal to the value (BSCN) ends it there, with its flags. When BCNT
is 0 it ends: BA is 0, PC moves on, and BCMP leaves Z 1 and N, C, V 0, BSCN Z 0. On a sample core the whole operation
always completes, and costs the same slots however it ends (spec/09_atward_instruction_reference.md,
spec/07_atward_programming_model.md, spec/05_sample_engine.md). -/
def Obligations.BlockOperations : Prop :=
  let ofOp := fun (op : AOp) (c : CoreId) (e : Enc) (k : Nat) => atward c op e 0 k
  let code := fun (op : AOp) => if op = .bmov then 1 else if op = .bfil then 2 else if op = .bcmp then 3
    else if op = .bscn then 4 else 5
  let step := fun (down : Bool) (sz : Nat) (p : Word) => if down then p - BitVec.ofNat 32 sz else p + BitVec.ofNat 32 sz
  let flagsOut := fun (op : AOp) (psw : Word) => if op = .bcmp then (psw &&& 0xFFFFFFF0#32) ||| 4#32
    else if op = .bscn then wsetBit psw 2 false else psw
  let ended := fun (op : AOp) (nx : Word) (r : CoreRegs) =>
    if r.bcnt = 0#32 then { r with pc := nx, psw := wsetBit (flagsOut op r.psw) 28 false } else r
  let blocks : List AOp := [.bmov, .bfil, .bcmp, .bscn, .bcrc]
  (∀ op ∈ blocks, ∀ (c : CoreId) (e : Enc) (s : State) (a b d : Opd) (x y z : RunSt),
    let i : AInstr := ⟨op, e, 0⟩
    let sz := szBytes e.sz
    let x0 : RunSt := ⟨setRegs c (noPrefix (regsOf c s)) (coreBegin c i s).s, (coreBegin c i s).todo, [], none⟩
    let ea := fun (o : Opd) => (o.addr.getD 0#32).toNat
    let n := d.val
    let down := decide (op = .bmov) && decide (ea b < ea a ∧ ea a < ea b + n * sz)
    let off := if down then (n - 1) * sz else 0
    let r := regsOf c (setRets c [] z.s)
    isSample c = false → coreReady c i s = true → (regsOf c s).psw.getLsbD 28 = false →
    (if op = .bcrc then readOperand c 1 sz e.a x0 else addrOperand c 1 sz e.a x0) = .ok a x →
    (if op = .bfil ∨ op = .bscn then readOperand c 2 sz e.b x else addrOperand c 2 sz e.b x) = .ok b y →
    (if e.shape = 5 then readOperand c 3 4 e.c y = .ok d z else d = Opd.lit 3 e.imm ∧ z = y) → z.ecc = none →
    exec (ofOp op c e 0) s = .next (
      let t := setRets c [] (setRegs c { regsOf c z.s with
        bsrc := BitVec.ofNat 32 (if op = .bfil then b.val else if op = .bscn then ea a else ea b + off)
        bdst := BitVec.ofNat 32 (if op = .bscn then b.val else if op = .bcrc then 0 else ea a + off)
        bcnt := BitVec.ofNat 32 n
        bstep := BitVec.ofNat 32 (sz + 256 * b2n down + 4096 * code op)
        acc := if op = .bcrc then BitVec.ofNat 72 a.val else (regsOf c z.s).acc
        psw := wsetBit (regsOf c z.s).psw 28 true } z.s)
      if (regsOf c t).bcnt = 0#32 then setRegs c (ended op (nextPc i (regsOf c s).pc) (regsOf c t)) t else t)) ∧
  (∀ op ∈ blocks, ∀ (c : CoreId) (e : Enc) (s : State) (u v : Nat) (x y z w : RunSt),
    let i : AInstr := ⟨op, e, 0⟩
    let sz := szBytes e.sz
    let nx := nextPc i (regsOf c s).pc
    let t0 := setRegs c (noPrefix (regsOf c s)) (coreBegin c i s).s
    let r0 := regsOf c t0
    let down := decide (op = .bmov) && decide (r0.bsrc.toNat < r0.bdst.toNat) &&
      (decide (r0.bdst.toNat < r0.bsrc.toNat + r0.bcnt.toNat * sz) || r0.bstep.getLsbD 8)
    let x0 : RunSt := ⟨setRegs c { r0 with bstep := BitVec.ofNat 32 (sz + 256 * b2n down + 4096 * code op) } t0,
      (coreBegin c i s).todo, [], none⟩
    let r := regsOf c x0.s
    let go := fun (f : CoreRegs → CoreRegs) (w : RunSt) => Host.Outcome.next (
      let t := setRets c [] (setRegs c (f (regsOf c w.s)) w.s)
      if (regsOf c t).bcnt = 0#32 then setRegs c (ended op nx (regsOf c t)) t else t)
    let stop := fun (f : Word → Word) (w : RunSt) => Host.Outcome.next (
      let t := setRets c [] (setRegs c { regsOf c w.s with psw := f (regsOf c w.s).psw } w.s)
      setRegs c { regsOf c t with pc := nx, psw := wsetBit (regsOf c t).psw 28 false } t)
    let both := fun (r : CoreRegs) => { r with bsrc := step down sz r.bsrc, bdst := step down sz r.bdst, bcnt := r.bcnt - 1#32 }
    isSample c = false → coreReady c i s = true → (regsOf c s).psw.getLsbD 28 = true →
    r.bcnt ≠ 0#32 →
    (op = .bmov → coreProbe c r.bdst sz 1 x0 = .ok () x → coreRead c r.bsrc sz 2 x = .ok v y →
      writeAll c [⟨r.bdst, sz, v, 1⟩] y = .ok () w → exec (ofOp op c e 1) s = go both w) ∧
    (op = .bfil → coreProbe c r.bdst sz 1 x0 = .ok () y →
      writeAll c [⟨r.bdst, sz, r.bsrc.toNat % 2 ^ (8 * sz), 1⟩] y = .ok () w →
      exec (ofOp op c e 1) s = go (fun r => { r with bdst := step down sz r.bdst, bcnt := r.bcnt - 1#32 }) w) ∧
    (op = .bcmp → coreRead c r.bdst sz 1 x0 = .ok u x → coreRead c r.bsrc sz 2 x = .ok v z → z.ecc = none →
      (u = v → exec (ofOp op c e 1) s = go both z) ∧
      (u ≠ v → exec (ofOp op c e 1) s =
        stop (fun p => (p &&& 0xFFFFFFF0#32) ||| ((aluSub (8 * sz) u v p).2 &&& 0xF#32)) z)) ∧
    (op = .bscn → coreRead c r.bsrc sz 1 x0 = .ok v x → x.ecc = none →
      (v = r.bdst.toNat % 2 ^ (8 * sz) → exec (ofOp op c e 1) s = stop (fun p => wsetBit p 2 true) x) ∧
      (v ≠ r.bdst.toNat % 2 ^ (8 * sz) → exec (ofOp op c e 1) s =
        go (fun r => { r with bsrc := step down sz r.bsrc, bcnt := r.bcnt - 1#32 }) x)) ∧
    (op = .bcrc → coreRead c r.bsrc sz 2 x0 = .ok v x → x.ecc = none → exec (ofOp op c e 1) s = go (fun r => { r with
        acc := accSet r.acc 0 32 (BitVec.ofNat 32 ((leBytes sz v).foldl (fun k b => crcByte k b.toNat) (r.acc.toNat % 2 ^ 32)))
        bsrc := step down sz r.bsrc
        bcnt := r.bcnt - 1#32 }) x)) ∧
  (∀ op ∈ blocks, ∀ (n : Fin 16) (e : Enc) (k : Nat) (s : State),
    let i : AInstr := ⟨op, e, 0⟩
    coreReady (.sc n) i s = true → ∃ t, exec (ofOp op (.sc n) e k) s = .next t ∧
      (t.sc n.val).slot = (s.sc n.val).slot + (2 + e.imm * elemCost op (szBytes e.sz)) ∧
      (t.sc n.val).r.pc = nextPc i (s.sc n.val).r.pc ∧ (t.sc n.val).r.psw.getLsbD 28 = false ∧
      (op ≠ .bcmp → op ≠ .bscn → (t.sc n.val).r.bcnt = 0#32))

/-- PATTERN_STEP, GENERATOR_STOPPED, CORE_HALTED and FAMILIES_STOP: a sequencer's next step and its end, a core's
halt, the stop of sleep entry. Once STEP_LEN hinges have passed, a running generator's next step is the next of its
NSTEP, wrapping into the next cycle; after REPEAT cycles it falls; else it is on by the step's bit, and an off-to-on edge
strikes a chime anew: phases 0, amplitudes AMP. A falling generator whose envelope is 0 stops, is OFF and its lane 0; if
its run bit still stands it is cleared in the live value and the shadow, with DONE and the generator in TONE.EVT_SRC. A
core whose stop fade has ended and whose bit is 0 halts at a hinge, with HALTED and its number in ENG.EVT_SRC. Sixteen
hinges or more after hs of a sleep entry the families and the crystal stop with the pads held, the frame noted, brought
up to a hinge, the pull kept and the sleeps counted; a wake that came since then begins. Before their time these do
nothing (spec/12_fixed_processing_blocks.md, spec/05_sample_engine.md, spec/22_operating_modes.md,
spec/04_media_clock_and_rate_domains.md). -/
def Obligations.SequencersFallAndCoresHalt : Prop :=
  (∀ (s : State) (g : Fin 64),
    let x := s.gen g
    let last := toneSteps s g ≤ x.step + 1
    let cycle := if last then x.cycle + 1 else x.cycle
    let step := if last then 0 else x.step + 1
    let done := last ∧ ((toneRepeat s g ≠ 0 ∧ toneRepeat s g ≤ cycle) ∨ (x.cycles ≠ 0 ∧ x.cycles ≤ cycle))
    let y := { x with step := step, cycle := cycle, hinges := x.hinges % toneStepLen s g }
    x.st = .on ∨ x.st = .gap →
    (x.hinges < toneStepLen s g → exec (.patternStep g) s = .next s) ∧
    (toneStepLen s g ≤ x.hinges → done → exec (.patternStep g) s = .next (s.setGen g { y with st := .ending })) ∧
    (toneStepLen s g ≤ x.hinges → ¬ done → toneStepOn s g step = false →
      exec (.patternStep g) s = .next (s.setGen g { y with st := .gap })) ∧
    (toneStepLen s g ≤ x.hinges → ¬ done → toneStepOn s g step = true → x.st = .on →
      exec (.patternStep g) s = .next (s.setGen g { y with st := .on })) ∧
    (toneStepLen s g ≤ x.hinges → ¬ done → toneStepOn s g step = true → x.st = .gap →
      exec (.patternStep g) s = .next (s.setGen g { y with
        st := .on, chime := 0, ph0 := 0#32, ph1 := 0#32, ph2 := 0#32, ph3 := 0#32,
        amps := (List.range 4).map fun p => fld (toneWord s g (0x24 + 8 * p)) 0 16 }))) ∧
  (∀ (s : State) (g : Fin 64), (s.gen g).st = .ending →
    let off := (s.lanePut (0x200 + g) 0#32).setGen g ToneGen.off
    let a := if g.val < 32 then Reg.toneRunLo else Reg.toneRunHi
    let down := off.wrb a (g % 32) false
    ((s.gen g).num ≠ 0 → exec (.generatorStopped g) s = .next s) ∧
    ((s.gen g).num = 0 → s.bit a (g % 32) = false → exec (.generatorStopped g) s = .next off) ∧
    ((s.gen g).num = 0 → s.bit a (g % 32) = true → tget none s.wbPend a = none →
      exec (.generatorStopped g) s = .next (sqSet Reg.toneEvt [0] (down.wrn Reg.toneEvtSrc g))) ∧
    (∀ w : Word, (s.gen g).num = 0 → s.bit a (g % 32) = true → tget none s.wbPend a = some w →
      exec (.generatorStopped g) s = .next (sqSet Reg.toneEvt [0] (
        { down with wbPend := tset none s.wbPend a (some (wsetBit w (g % 32) false)) }.wrn Reg.toneEvtSrc g)))) ∧
  (∀ (s : State) (n : Fin 16), (s.sc n).runs = true → (s.sc n).stopping = true → (s.sc n).scale = 0 →
    16 ≤ (s.sc n).stopFrames → s.bit Reg.engRun n = false →
    s.mclk.firstHinge = true ∨ (s.mclk.frameCnt.toNat + 1) % 6 = 0 →
    exec (.coreHalted n) s = .next (
      let t := (List.range (s.sc n).outCnt).foldl (fun t k => t.setLane (0x300 + (s.sc n).outFirst + k) LaneVal.zero) s
      sqSet Reg.engEvt [4] ((t.setSc n { s.sc n with
        st := .halted, stopping := false, stopFrames := 0, scale := 0 }).wrn Reg.engEvtSrc n))) ∧
  (∀ s : State, s.modes.sleep = .entry → 16 ≤ s.modes.sleepHinges → ∃ t, exec .familiesStop s = .next t ∧
    t.clk.netOk = false ∧ t.clk.xtalOk = false ∧ t.clk.mediaLock = false ∧ t.ports.padsHeld = true ∧
    t.ward.untouched = true ∧ t.ward.anv.st = .closed ∧ t.ward.anv.grants = 0#3 ∧ t.net.rx = [] ∧ t.net.tx = [] ∧
    t.mclk.sleepFrame = 6#64 * ((t.mclk.frameCnt + 5#64) / 6#64) ∧ t.mclk.sleepPull = some t.mclk.pull ∧
    t.modes.sleep = (if t.modes.wake then .waking else .asleep)) ∧
  (∀ s : State, s.modes.sleep ≠ .entry ∨ s.modes.sleepHinges < 16 → exec .familiesStop s = .next s)

/-- SHADOW_WRITE, NODE_WRITE and COEF_BANK_COPY_END: staging keeps the rest of a set and every live word. A word write
to the shadow of a bindable word, unless it would pass the node limit: its set is DIRTY and the word's staged value is
the value's own bits; every other word of the set keeps its staged value, which for a clean set is its live one; every
word outside the shadows of the set reads as before, and so does DIRTY of every other set. A write to the inactive
coefficient bank of a core lands there and marks the bank DIRTY, or is held while a copy runs; a finished copy leaves
the inactive bank equal to the live one where no held write lands, and held writes make it DIRTY. A node's live word
is buffered; a write past the limit is refused (spec/06_safe_load_and_commit.md, spec/10_weld_matrix_and_zones.md). -/
def Obligations.ShadowWritesStageWholeSets : Prop :=
  (∀ (s : State) (m : Master) (a : Word) (v : BitVec 64) (t : ApTable) (c : CSet),
    let b := a.toNat - 0x800000
    let x := v.setWidth 32 &&& BitVec.ofNat 32 (apMask t)
    reachesAudio s m a.toNat = true → 0x3C800000 ≤ a.toNat → a.toNat < 0x3D000000 → apTable b = some t → tableSet t = some c →
    (∀ o i, c = .node o i → nodeFull s o i (fld x 0 16) = false) →
    ∃ u, exec (.shadowWrite m a .word v) s = .next u ∧ u.isDirty c = true ∧
      stagedWord u c b = (match c with | .node _ _ => x &&& 0xFFFF#32 | _ => x) ∧
      (∀ w ∈ setWords c, w ≠ b → stagedWord u c w = stagedWord s c w) ∧
      (∀ w, w ∉ (setWords c).map (· + 0x800000) → w ≠ a.toNat → u.rd w = s.rd w) ∧
      (∀ d, d ≠ c → u.isDirty d = s.isDirty d) ∧
      u = { s with regs := u.regs, safe := { s.safe with dirty := u.safe.dirty } }) ∧
  (∀ (s : State) (m : Master) (a : Word) (v : BitVec 64) (o i : Nat),
    let x := v.setWidth 32 &&& 0xFFFFF#32
    reachesAudio s m a.toNat = true → o < 256 → i < 256 → a.toNat = Reg.nodeWord o i →
    (nodeFull s o i (fld x 0 16) = false → exec (.nodeWrite m a .word v) s =
      .next { s with wbPend := tset none s.wbPend a.toNat (some x) }) ∧
    (nodeFull s o i (fld x 0 16) = true → exec (.nodeWrite m a .word v) s =
      .next (sqSet Reg.weldEvt [0] ((s.wrn Reg.fullAddr a.toNat).wrn Reg.weldEvtSrc o)))) ∧
  (∀ (s : State) (m : Master) (a : Word) (v : BitVec 64) (n off : Nat),
    reachesAudio s m a.toNat = true → n < 16 → off < 0x2000 → a.toNat = coefBase n (!(s.sc n).cbank) + off →
    ((s.sc n).copying = false → exec (.shadowWrite m a .word v) s =
      .next ((s.setDirty (.coef n)).mwr a.toNat 4 (v.toNat % 2 ^ 32))) ∧
    ((s.sc n).copying = true → exec (.shadowWrite m a .word v) s =
      .next (s.setSc n { s.sc n with held := (s.sc n).held ++ [(a.toNat, 4, v.toNat % 2 ^ 32)] }))) ∧
  (∀ (s : State) (n : Fin 16), (s.sc n).copying = true → Memory.wf s.mem = true →
    ∃ t, exec (.coefBankCopyEnd n) s = .next t ∧ (t.sc n).copying = false ∧ (t.sc n).held = [] ∧
      ((s.sc n).held = [] → t.isDirty (.coef n) = s.isDirty (.coef n) ∧
        (∀ k < 0x2000, memGet t.mem (coefBase n (!(s.sc n).cbank) + k) = memGet s.mem (coefBase n (s.sc n).cbank + k)) ∧
        (∀ j, j < coefBase n (!(s.sc n).cbank) ∨ coefBase n (!(s.sc n).cbank) + 0x2000 ≤ j → memGet t.mem j = memGet s.mem j)) ∧
      ((s.sc n).held ≠ [] → t.isDirty (.coef n) = true))

/-- COMMIT_REQUEST, ARM, CANCEL, CLAIM, RELEASE and RELEASE_ALL: what a request leaves for the hinge. Of the groups
that a commit request names, those become pending that its master may commit: its owner, or a privileged master of an
unowned group, with SAFE enabled; every other group stays as it was, and so does everything else but the refusal's
event. ARM arms the swap; CANCEL marks an armed one and otherwise does nothing. A claim, a release and a release of
all are queued behind the requests that wait, with their zone, claimant, level and operation; on a queue of 64 they
are ignored, with CLAIM_FULL (spec/06_safe_load_and_commit.md, spec/10_weld_matrix_and_zones.md,
spec/11_joeno_graphs.md). -/
def Obligations.RequestsWaitForTheHinge : Prop :=
  (∀ (s : State) (m : Master) (hi : Bool) (v : BitVec 64),
    let base := 32 * b2n hi
    let ok := fun (g : Nat) => decide (base ≤ g ∧ g < base + 32) && v.getLsbD (g - base)
      && mayCommit s g (masterId m) ((whoOf s m).lvl != .unprivileged)
    reaches s m true (0x40030020 + 4 * b2n hi) = true →
    ∃ t, exec (.commitRequest m hi .word v) s = .next t ∧
      (∀ g, t.grp g = if ok g && !(s.grp g).pending then { s.grp g with pending := true, cancelled := false } else s.grp g) ∧
      t.safe.dirty = s.safe.dirty ∧ t.eng = s.eng ∧ t.weld = s.weld ∧ t.wbPend = s.wbPend ∧ t.bus = s.bus ∧
      (∀ a, recordReg a = false → a ≠ Reg.safeEvtSrc → t.rd a = s.rd a)) ∧
  (∀ (s : State) (m : Master) (v : BitVec 64), reaches s m true 0x40020040 = true → v.getLsbD 1 = false →
    exec (.armSwap m .word v) s = .next { s with eng := { s.eng with armed := true } }) ∧
  (∀ (s : State) (m : Master) (v : BitVec 64), reaches s m true 0x40020040 = true → v.getLsbD 0 = false →
    (s.eng.armed = true →
      exec (.cancelSwap m .word v) s = .next { s with eng := { s.eng with swapCancel := true } }) ∧
    (s.eng.armed = false → exec (.cancelSwap m .word v) s = .next s)) ∧
  (∀ (s : State) (m : Master) (v : BitVec 64),
    let n := v.toNat
    let put := fun (op : Nat) => State.modWeld s fun w => { w with
      queue := w.queue ++ [⟨n % 128, n / 256 % 16, n / 4096 % 16, op⟩]
      lastReq := BitVec.ofNat 32 (n % 128 + n / 256 % 256 * 256 + op * 65536) }
    reaches s m true 0x40040028 = true →
    (s.weld.queue.length < 64 → exec (.claim m .word v) s = .next (put 1) ∧ exec (.release m .word v) s = .next (put 2) ∧
      exec (.releaseAll m .word v) s = .next (put 3)) ∧
    (64 ≤ s.weld.queue.length →
      let full := sqSet Reg.weldEvt [2] (s.wrn Reg.weldEvtSrc (n % 128))
      exec (.claim m .word v) s = .next full ∧ exec (.release m .word v) s = .next full ∧
        exec (.releaseAll m .word v) s = .next full))

/-- A setting event advances SEQ by one, tags every bit it sets, and touches nothing else but what reports it. A
setting event of any bits of an SQ register, other than the event block's own EVT and the dictionary's RIL_EVT, which
may report themselves: SEQ advances by one; every bit set carries the new SEQ; every other bit stays set or clear and
keeps its tag, brought up to SEQ minus 0x4000 where it would fall further behind; no other SQ register but those two
changes; and of the rest of the state only the interrupt latches, the event block with its registers and ring, and
what the subscribers hold (R37, R39). -/
def Obligations.EventsAdvanceTheSequence : Prop :=
  ∀ (a : Nat) (bits : List Nat) (s : State), bits ≠ [] → a ≠ Reg.evtEvt → a ≠ 0x400A0808 →
    let t := sqSet a bits s
    let seq := (s.sq a).seq + 1#16
    (t.sq a).seq = seq ∧
    (∀ i g, i < 16 → i ∈ bits → ((i, g) ∈ (t.sq a).tags ↔ g = seq)) ∧
    (∀ i g, i < 16 → i ∉ bits → ((i, g) ∈ (t.sq a).tags ↔
      ∃ g0, (i, g0) ∈ (s.sq a).tags ∧ g = if 0x4000#16 < seq - g0 then seq - 0x4000#16 else g0)) ∧
    (∀ k, k ≠ a → k ≠ Reg.evtEvt → k ≠ 0x400A0808 → t.sq k = s.sq k) ∧
    (∀ k, k < 0x40001400 ∨ 0x40001420 ≤ k → k ≠ Reg.evtRingRd → k ≠ Reg.evtRingWr → k ≠ Reg.evtOverruns →
      k ≠ Reg.evtDrops → t.rd k = s.rd k) ∧
    (∀ k, t.tenant k = { s.tenant k with
      events := (t.tenant k).events
      lostEvents := (t.tenant k).lostEvents
      taps := (t.tenant k).taps
      lostTaps := (t.tenant k).lostTaps
      evSince := (t.tenant k).evSince }) ∧
    t = { s with
      regs := t.regs, mem := t.mem, ecc := t.ecc, sqs := t.sqs, evt := t.evt
      dict := { s.dict with tenants := t.dict.tenants } }

/-- FRAME_RECEIVED, LINK_UP, LINK_DOWN, SUPERVISION_FRAME, NODE_FORGET, IGMP_REPORT and PHY_INTERRUPT. While the
network clock runs: a link change empties the port's egress, what was queued there on its going down counted, and is
notified through crossing 11, at once or behind the notice in flight. On a running block and a link that is up: a frame
too long or with a bad check is counted in NET.DROP of its port; in RING mode a sound HSR frame of a node outside the
table, unicast to another and no PTP message, goes on unaltered to the other port, behind those of its priority class,
unless a copy with its source and sequence number went that way within the entry life, and is noted in the
duplicate-discard table; the part's own comes no further; the first copy of a unicast to the part is delivered, a later
one is not. An untagged frame to the part is delivered, or dropped and counted while its crossing resynchronises. A
forwarded PTP event message has its residence time added to its correction field, or with TWO_STEP to its Follow_Up's
(which time is free, assumption 11). A supervision frame leaves on both ports with one sequence number. A node is
forgotten 60 s after its last supervision frame, a due report is sent in the version of the querier about, and the PHY's
level is taken (spec/15_network_ring_and_streams.md, spec/03_clock_crossings.md, spec/02_register_file_rules.md). -/
def Obligations.TheRingForwardsAndDelivers : Prop :=
  let link := fun (b v : Bool) (s : State) =>
    let left := (if b then s.net.egressB else s.net.egressA).length
    let s0 := if v then s else s.wr (Reg.netDrop b) (s.rd (Reg.netDrop b) + BitVec.ofNat 32 left)
    s0.modNet fun n => if b then { n with linkB := v, egressB := [] } else { n with linkA := v, egressA := [] }
  let heard := fun (b : Bool) (f : NetFrame) (s : State) => s.enabled 9 = true ∧ linkOf s b = true ∧ s.clk.netOk = true ∧
    f.len ≤ 1528 ∧ f.fcsOk = true ∧ f.vlan = none ∧ f.body ≠ .pause ∧ ptpEvent f = false ∧ netModeOf s = 2
  let other := fun (f : NetFrame) => ∃ e pl, f.body = .other e pl
  let ring := fun (f : NetFrame) (s : State) => s.modNet fun n => { n with hostRing := n.hostRing ++ [f] }
  let note := fun (s : State) (f : NetFrame) (sq : BitVec 16) (inner a b : Bool) (h : Word) => s.modNet fun n => { n with
    dd := (n.dd.filter fun x => !(x.src == f.src && x.seq == sq) && ddAlive s x) ++ [⟨f.src, sq, inner, a, b, h⟩] }
  let room := fun (s : State) (f : NetFrame) (sq : BitVec 16) =>
    (s.net.dd.filter fun x => !(x.src == f.src && x.seq == sq) && ddAlive s x).length < 1024
  (∀ (s : State) (b v : Bool), linkOf s b ≠ v → s.clk.netOk = true → (v = true → portOn s b = true) →
    ((s.notice 11).inFlight = false → exec (if v then .linkUp b else .linkDown b) s =
      .next ((link b v s).setNotice 11 { s.notice 11 with inFlight := true, flying := if b then 2#32 else 1#32 })) ∧
    ((s.notice 11).inFlight = true → exec (if v then .linkUp b else .linkDown b) s =
      .next ((link b v s).setNotice 11 { s.notice 11 with
        pend := true, waiting := (s.notice 11).waiting ||| (if b then 2#32 else 1#32) }))) ∧
  (∀ (s : State) (b : Bool) (f : NetFrame) (dt : Nat), s.enabled 9 = true → linkOf s b = true → s.clk.netOk = true →
    1528 < f.len ∨ f.fcsOk = false → exec (.frameReceived b f dt) s = .next (s.inc (Reg.netDrop b))) ∧
  (∀ (s : State) (b : Bool) (f : NetFrame) (dt i : Nat) (sq : BitVec 16), heard b f s → f.hsr = some (i, sq) →
    (∀ ty n p c pl, f.body ≠ .ptp ty n p c pl) →
    f.src ≠ ownMac s → (∀ x ∈ s.net.nodes, x.mac ≠ f.src) → room s f sq → f.dst ≠ ownMac s → isGroupMac f.dst = false →
    linkOf s (!b) = true →
    (ddFind s f.src sq = none → ∃ t, exec (.frameReceived b f dt) s = .next t ∧
      t.net.egressA = (if b then enqueue s f s.net.egressA else s.net.egressA) ∧
      t.net.egressB = (if b then s.net.egressB else enqueue s f s.net.egressB) ∧
      t.net.hostRing = s.net.hostRing ∧ t.net.dd = (note s f sq false b (!b) s.net.age).net.dd) ∧
    (∀ e, ddFind s f.src sq = some e → (if b then e.toA else e.toB) = true →
      exec (.frameReceived b f dt) s = .next (note s f sq e.toInternal e.toA e.toB e.age))) ∧
  (∀ (s : State) (f : NetFrame) (l : List NetFrame), (enqueue s f l).Perm (l ++ [f]) ∧
    (l ≠ [] → (enqueue s f l).head? = l.head?) ∧
    (l.tail.Pairwise (fun x y => frameClass s x ≤ frameClass s y) →
      (enqueue s f l).tail.Pairwise fun x y => frameClass s x ≤ frameClass s y)) ∧
  (∀ (s : State) (b : Bool) (f : NetFrame) (dt i : Nat) (sq : BitVec 16), heard b f s → f.hsr = some (i, sq) →
    f.src = ownMac s → exec (.frameReceived b f dt) s = .next s) ∧
  (∀ (s : State) (b : Bool) (f : NetFrame) (dt i : Nat) (sq : BitVec 16), heard b f s → f.hsr = some (i, sq) →
    f.src ≠ ownMac s → (∀ x ∈ s.net.nodes, x.mac ≠ f.src) → room s f sq → f.dst = ownMac s → other f →
    s.bit Reg.netHostCfg 7 = true → xingReady s (b2n b) = true →
    (ddFind s f.src sq = none →
      exec (.frameReceived b f dt) s = .next (ring f (note s f sq true false false s.net.age))) ∧
    (∀ e, ddFind s f.src sq = some e → e.toInternal = true →
      exec (.frameReceived b f dt) s = .next (note s f sq true e.toA e.toB e.age))) ∧
  (∀ (s : State) (b : Bool) (f : NetFrame) (dt : Nat), heard b f s → f.hsr = none → f.dst = ownMac s → other f →
    s.bit Reg.netHostCfg 7 = true →
    (xingReady s (b2n b) = true → exec (.frameReceived b f dt) s = .next (ring f s)) ∧
    (tget false s.bus.readyFar (b2n b) = false → exec (.frameReceived b f dt) s = .next (xingDropped (b2n b) s))) ∧
  (∀ (s : State) (b : Bool) (f : NetFrame) (ty n : Nat) (p : BitVec 80) (c : BitVec 64) (pl : List Byte),
    f.body = .ptp ty n p c pl →
    let put := fun (d : Int) => { f with body := NetBody.ptp ty n p (c + BitVec.ofInt 64 (d * 65536)) pl }
    (s.bit Reg.ptpCtrl 2 = false → tcForward b f s = (f, s)) ∧
    (s.bit Reg.ptpCtrl 2 = true → ty < 4 → s.bit Reg.ptpCtrl 3 = false → ∃ d, (tcForward b f s).1 = put d) ∧
    (s.bit Reg.ptpCtrl 2 = true → ty < 4 → s.bit Reg.ptpCtrl 3 = true → (tcForward b f s).1 = f ∧
      ∃ d, (tcForward b f s).2.net.tcDue = s.net.tcDue ++ [(p, n, b, d)]) ∧
    (s.bit Reg.ptpCtrl 2 = true → ty = 8 → ∀ d, (s.net.tcDue.find? fun x =>
      x.1 == p && x.2.1 == n && x.2.2.1 == b) = some (p, n, b, d) → (tcForward b f s).1 = put d)) ∧
  (∀ s : State, s.enabled 9 = true → s.clk.netOk = true → netModeOf s = 2 → s.net.linkA = true → s.net.linkB = true →
    xingReady s 2 = true → xingReady s 3 = true →
    let f := fun (path : Nat) => NetFrame.mk 0x01154E000100#48 (ownMac s)
      (some (2 * s.rdf Reg.netMode 4 3 + path, s.net.hsrSeq)) none 72 true 0 none (.supervision (ownMac s))
    exec .supervisionFrame s = .next (s.modNet fun n => { n with
      hsrSeq := n.hsrSeq + 1#16, egressA := enqueue s (f 0) n.egressA, egressB := enqueue s (f 1) n.egressB })) ∧
  (∀ (s : State) (mac : BitVec 48), s.clk.netOk = true → exec (.nodeForget mac) s = .next (s.modNet fun n => { n with
    nodes := n.nodes.filter fun x => x.mac != mac || decide ((n.age - x.seen).toNat < 2880000) })) ∧
  (∀ (s : State) (k : Fin 64) (h : Word), (k.val, h) ∈ s.net.igmpDue → 48000 ≤ (s.net.age - h).toNat → netModeOf s = 0 →
    s.net.linkA = true → s.clk.netOk = true → xingReady s 2 = true →
    let g := s.rd (Reg.rxWord k 0)
    let f : NetFrame := if 0 < s.net.igmpV2
      then ⟨groupMac g, ownMac s, none, none, 64, true, 0, none, .igmpReport g none true true⟩
      else ⟨groupMac 0xE0000016#32, ownMac s, none, none, 64, true, 0, none, .igmpReport g (igmpSource s k) true false⟩
    exec (.igmpReport k) s = .next (s.modNet fun n => { n with
      igmpDue := n.igmpDue.filter (·.1 != k.val), egressA := enqueue s f n.egressA })) ∧
  (∀ (s : State) (l : Bool), exec (.phyInterrupt l) s = .next (s.modNet fun n => { n with phyInt := l }))

/-- STREAM_ENABLE, TRANSMIT_PACKET, MISSING_PACKET and OFFSET_RETURN: a stream's enable, its packets and its losses. At a
packet boundary of the stream its live enable bit takes what its shadow holds. A receive stream that is then enabled and passes the checks
starts in WAIT, its counters 0 and MARGIN_MIN all ones; one refused is disabled again in the live value and the
shadow, with its cause and REFUSED; one disabled fades and stops. A transmit stream starts with its first sequence
number, and sends its oldest P frames as one packet: sequence number on by one, the packet counted. A packet without a
copy counts LOST; the last of the loss limit puts the stream in LOSS with its event. After 64 fitting packets OFFSET
is 0 again, with RETURN (spec/15_network_ring_and_streams.md). -/
def Obligations.StreamsStartSendAndMiss : Prop :=
  let rxA := fun (k : Fin 64) => Reg.netRxEn k.val
  let txA := fun (k : Fin 64) => Reg.netTxEn k.val
  let taken := fun (a k : Nat) (w : Word) (s : State) => { s.wrb a (k % 32) (w.getLsbD (k % 32)) with
    wbPend := tset none s.wbPend a none }
  (∀ (s : State) (k : Fin 64) (w : Word), tget none s.wbPend (rxA k) = some w →
    s.bit (rxA k) (k.val % 32) = false → w.getLsbD (k.val % 32) = true →
    atPacket false k.val s = true → (s.wrb (rxA k) (k.val % 32) true).rd (rxA k) = w →
    let u := taken (rxA k) k.val w s
    (rxCause u k.val = 0 → isGroupIp (s.rd (Reg.rxWord k.val 0)) = false → ∃ t, exec (.streamEnable false k) s = .next t ∧
      t.rxs k.val = { RxStream.off with st := .wait } ∧ (∀ j, j ≠ k.val → t.rxs j = s.rxs j) ∧
      t.bit (rxA k) (k.val % 32) = true ∧ t.rd (Reg.rxWord k.val 0x40) = 0xFFFFFFFF#32 ∧ t.rd (Reg.rxWord k.val 0x44) = 0#32 ∧
      t.net.egressA = s.net.egressA ∧ tget none t.wbPend (rxA k) = none) ∧
    (rxCause u k.val ≠ 0 → exec (.streamEnable false k) s = .next (sqSet Reg.netSevt [2]
      (((u.wrb (rxA k) (k.val % 32) false).setRxs k.val { u.rxs k.val with cause := rxCause u k.val }).wrn
        Reg.netSevtSrc k.val)))) ∧
  (∀ (s : State) (k : Fin 64) (w : Word), tget none s.wbPend (rxA k) = some w →
    s.bit (rxA k) (k.val % 32) = true → w.getLsbD (k.val % 32) = false → isGroupIp (s.rd (Reg.rxWord k.val 0)) = false →
    atPacket false k.val s = true → (s.wrb (rxA k) (k.val % 32) false).rd (rxA k) = w →
    let u := taken (rxA k) k.val w s
    exec (.streamEnable false k) s = .next ((u.setRxs k.val { s.rxs k.val with stopping := true, rising := false }).modNet
      fun n => { n with igmpDue := n.igmpDue.filter (·.1 != k.val) })) ∧
  (∀ (s : State) (k : Fin 64) (w : Word), tget none s.wbPend (txA k) = some w →
    atPacket true k.val s = true → (s.wrb (txA k) (k.val % 32) (w.getLsbD (k.val % 32))).rd (txA k) = w →
    let u := taken (txA k) k.val w s
    (s.bit (txA k) (k.val % 32) = false → w.getLsbD (k.val % 32) = true → txCause u k.val = 0 →
      exec (.streamEnable true k) s = .next (u.setTxs k.val { TxStream.off with
        on := true, seq := BitVec.ofNat 16 (s.rdf (Reg.txWord k.val 8) 16 16) })) ∧
    (s.bit (txA k) (k.val % 32) = true → w.getLsbD (k.val % 32) = false →
      exec (.streamEnable true k) s = .next (u.setTxs k.val TxStream.off))) ∧
  (∀ (s : State) (k : Fin 64) (m : BitVec 48),
    let x := s.txs k.val
    let p := txP s k.val
    let smp := (x.frames.take p).flatten.map (sampleBytes (txSampleBytes s k.val))
    let pl := smp.flatMap (·.1)
    let dst := s.rd (Reg.txWord k.val 0)
    let w1 := s.rd (Reg.txWord k.val 4)
    let ts := BitVec.ofNat 32 (mFrame s + 1 - x.frames.length) + s.rd (Reg.txWord k.val 0x14)
    x.on = true → 0 < p → p ≤ x.frames.length → (smp.all fun y => !y.2) = true → netModeOf s = 0 → s.net.linkA = true →
    isGroupIp dst = true → m = groupMac dst → s.clk.netOk = true → xingReady s 2 = true →
    let f : NetFrame := ⟨m, ownMac s, none, none, pl.length + 58, true, s.rdf (Reg.txWord k.val 0x10) 8 6,
      some (s.rdf (Reg.txWord k.val 0x10) 0 8),
      .rtp (ownIp s) dst (fld w1 0 16) (fld w1 16 7) x.seq ts (s.rd (Reg.txWord k.val 0x18)) pl⟩
    exec (.transmitPacket k) s = .next (((s.setTxs k.val { x with seq := x.seq + 1#16, frames := x.frames.drop p }).inc
      (Reg.txWord k.val 0x24)).modNet fun n => { n with egressA := enqueue s f n.egressA })) ∧
  (∀ (s : State) (k : Fin 64),
    let x := s.rxs k.val
    x.st = .run ∨ x.st = .loss → x.stopping = false → rxCurrent s k.val = none →
    let y := { x with missing := x.missing + 1, played := 0, rising := false, due := some (x.play + rxP s k.val) }
    (x.missing + 1 < rxLossPkts s k.val →
      exec (.missingPacket k) s = .next ((s.inc (Reg.rxWord k.val 0x2C)).setRxs k.val y)) ∧
    (x.st = .loss → rxLossPkts s k.val ≤ x.missing + 1 →
      exec (.missingPacket k) s = .next ((s.inc (Reg.rxWord k.val 0x2C)).setRxs k.val y)) ∧
    (x.st = .run → rxLossPkts s k.val ≤ x.missing + 1 → exec (.missingPacket k) s = .next (sqSet Reg.netSevt [0]
      (((s.inc (Reg.rxWord k.val 0x2C)).setRxs k.val { y with st := .loss }).wrn Reg.netSevtSrc k.val)))) ∧
  (∀ (s : State) (k : Fin 64), atPacket false k.val s = false →
    exec (.streamEnable false k) s = .next s ∧ exec (.offsetReturn k) s = .next s) ∧
  (∀ (s : State) (k : Fin 64), (s.rxs k.val).st ≠ .off → (s.rxs k.val).returnDue = true →
    atPacket false k.val s = true → exec (.offsetReturn k) s = .next (sqSet Reg.netSevt [4] ((s.setRxs k.val { s.rxs k.val with
      offset := 0#32, realigned := false, returnDue := false, fits := 0, accepted := [], rising := false }).wrn
        Reg.netSevtSrc k.val)))

/-- STEP, SNAP, SYNC_TIMEOUT, PPS_OUT, PPS_OUT_END, PPS_IN_EDGE, RECEIVED_FRAME and NO_FRAME. A STEP adds the signed
step to the PTP time, takes the written GM and clears SYNCED, with PTP_STEP; SNAP copies the time of one instant, no
more than a hinge tick's cycles after the last, into all three registers (which instant the spec leaves open); a Sync
timeout clears SYNCED, with SYNC_CHG; with the network clock running the PPS output follows OUT_EN and falls at the end
of its width, and a PPS edge latches the time that it comes at, with PPS_IN. A sound frame of a locked slave port becomes
its slots and its sixteenth in a row brings the port to RUN; it starts the one output frame that may be assigned to it,
and with none to assign it is a slip; a framing error is counted, and the third in a row, like two periods without an
edge, is loss of framing with its cause, the lanes then fading from what they read; while its crossing resynchronises a
frame is dropped and counted (spec/15_network_ring_and_streams.md, spec/14_tdm_ports.md, spec/03_clock_crossings.md). -/
def Obligations.PtpTimeAndTdmFrames : Prop :=
  let time := fun (s : State) => (s.net.sec.toNat : Int) * 1000000000 + s.net.ns
  let shows := fun (t : State) (k : Int) => t.net.sec = BitVec.ofInt 48 (k / 1000000000) ∧ t.net.ns = (k % 1000000000).toNat
  let after := fun (s : State) (k : Nat) (t : State) => t.net.sec = (ptpRun k s).net.sec ∧ t.net.ns = (ptpRun k s).net.ns
  let lofLanes := fun (s : State) (p : Nat) => (List.range (portSlots s p)).foldl (fun s k =>
    s.setLane (tdmLane p k) { s.lane (tdmLane p k) with raw := (s.lane (tdmLane p k)).pub }) s
  let may := fun (s : State) (p ph : Nat) =>
    if 4 * portPeriod s p ≤ ph * frameLen s p then (s.tport p).txWait else (s.tport p).txWait.dropLast
  (∀ (s : State) (m : Master) (v : BitVec 64), reaches s m true Reg.ptpCtrl = true → v.getLsbD 9 = false →
    ∃ t, exec (.stepPtp m .word v) s = .next t ∧
      shows t (time s + (s.rd Reg.ptpStepSec).toInt * 1000000000 + (s.rd Reg.ptpStepNs).toInt) ∧
      t.bit Reg.ptpCtrl 0 = false ∧ t.bit Reg.ptpCtrl 1 = v.getLsbD 1 ∧ (6, (t.sq Reg.netEvt).seq) ∈ (t.sq Reg.netEvt).tags ∧
      t.net.egressA = s.net.egressA ∧ t.mclk = s.mclk) ∧
  (∀ (s : State) (m : Master) (v : BitVec 64), reaches s m true Reg.ptpCtrl = true → v.getLsbD 8 = false →
    ∃ t, exec (.snapPtp m .word v) s = .next t ∧ (∃ k, k < 7813 ∧ after s k t) ∧
      t.rd Reg.ptpSnap = BitVec.ofNat 32 (t.net.sec.toNat / 2 ^ 32) ∧
      t.rd (Reg.ptpSnap + 4) = BitVec.ofNat 32 t.net.sec.toNat ∧ t.rd (Reg.ptpSnap + 8) = BitVec.ofNat 32 t.net.ns) ∧
  (∀ s : State, s.bit Reg.ptpCtrl 0 = true → ∃ t, exec .syncTimeout s = .next t ∧
    t.rd Reg.ptpCtrl = wsetBit (s.rd Reg.ptpCtrl) 0 false ∧ (4, (t.sq Reg.netEvt).seq) ∈ (t.sq Reg.netEvt).tags ∧ t.net = s.net) ∧
  (∀ s : State, s.clk.netOk = true →
    exec .ppsOut s = .next (s.modNet fun n => { n with ppsOut := s.bit Reg.ppsCfg 0 }) ∧
    exec .ppsOutEnd s = .next (s.modNet fun n => { n with ppsOut := false })) ∧
  (∀ (s : State) (k : Nat), s.clk.netOk = true → ∃ t, exec (.ppsInEdge k) s = .next t ∧ after s k t ∧
    t.rd Reg.ppsInSec = BitVec.ofNat 32 t.net.sec.toNat ∧ t.rd Reg.ppsInNs = BitVec.ofNat 32 t.net.ns ∧
    (7, (t.sq Reg.netEvt).seq) ∈ (t.sq Reg.netEvt).tags) ∧
  (∀ (s : State) (k : Nat), s.clk.netOk = false → exec .ppsOut s = .next s ∧ exec .ppsOutEnd s = .next s ∧
    exec (.ppsInEdge k) s = .next s) ∧
  (∀ (s : State) (p : Fin 6) (slots : List Word) (ph : Nat),
    let x := s.tport p.val
    let y := { x with
      rx := slots, rxNew := x.rxNew + 1, phase := ph % 32768, idle := 0, good := min 16 (x.good + 1), errs := 0 }
    x.st = .acquire → portSlave s p.val = true → asyncBridge s p.val = none → xingReady s (8 + p.val) = true →
    (∀ f, may s p.val ph = [f] →
      let z := { y with tx := f, txWait := x.txWait.drop 1 }
      (x.good < 15 → exec (.receivedFrame p slots true ph) s = .next (s.setTport p.val z)) ∧
      (15 ≤ x.good → exec (.receivedFrame p slots true ph) s = .next (sqSet Reg.tdmEvt [2]
        (((s.setTport p.val z).setTport p.val { z with
          st := .run, scale := 0, rising := true, slipAge := none }).wrn Reg.tdmEvtSrc p.val)))) ∧
    (may s p.val ph = [] → x.slipAge = none → exec (.receivedFrame p slots true ph) s = .next (sqSet Reg.tdmEvt [3]
      (((s.setTport p.val y).setTport p.val { y with
        slips := x.slips + 1#32, slipAge := some 0, good := 0 }).wrn Reg.tdmEvtSrc p.val)))) ∧
  (∀ (s : State) (p : Fin 6) (slots : List Word) (ph : Nat) (f : List (Option Word)),
    let x := s.tport p.val
    let c := s.incSat (Reg.tdmErrs p.val)
    let y := { x with
      rx := slots, rxNew := x.rxNew + 1, phase := ph % 32768, idle := 0, good := 0, errs := min 3 (x.errs + 1)
      tx := f, txWait := x.txWait.drop 1 }
    x.st = .acquire → portSlave s p.val = true → asyncBridge s p.val = none → xingReady s (8 + p.val) = true →
    may s p.val ph = [f] →
    (x.errs < 2 → exec (.receivedFrame p slots false ph) s = .next (c.setTport p.val y)) ∧
    (2 ≤ x.errs → exec (.receivedFrame p slots false ph) s = .next (sqSet Reg.tdmEvt [1]
      (((lofLanes (c.setTport p.val y) p.val).setTport p.val { y with
        st := .lof, cause := 5, scale := 16, rising := false, good := 0 }).wrn Reg.tdmEvtSrc p.val)))) ∧
  (∀ (s : State) (p : Fin 6) (slots : List Word) (ok : Bool) (ph : Nat), (s.tport p.val).st ≠ .off →
    portSlave s p.val = true → xingReady s (8 + p.val) = false →
    exec (.receivedFrame p slots ok ph) s = .next (xingDropped (8 + p.val) s)) ∧
  (∀ (s : State) (p : Fin 6), portSlave s p.val = true → asyncBridge s p.val = none → (s.tport p.val).idle = 2 →
    (s.tport p.val).st = .run ∨ (s.tport p.val).st = .acquire → exec (.noFrame p) s = .next (sqSet Reg.tdmEvt [1]
      (((lofLanes s p.val).setTport p.val { s.tport p.val with
        st := .lof, cause := 6, scale := 16, rising := false, good := 0 }).wrn Reg.tdmEvtSrc p.val)))

/-- REQUEST_PLACEMENT, REQUEST_TAKE, RESPONSE_HOLD_RELEASE, NOP, SUBSCRIBE and UNSUBSCRIBE of the dictionary. A
request on queue 0, 1 or 4 of an ACTIVE tenant in good standing takes the next arrival number, joins the outstanding
requests, counts as a heartbeat and moves Q_PROD on; one with a TAG already outstanding is not placed; a tenant that is RESETTING or holds
256 requests refuses it as BUSY, counted and an event. The engine takes the request the taking rules name: it moves
Q_CONS on, makes the checks, and leaves the request taken, or answers it with the checks' status. A completion held
for room is placed when there is room. A taken NOP, SUBSCRIBE or UNSUBSCRIBE is answered with OK: the request is
outstanding no longer and its response stands last on the tenant's response queue; the last two set and end the
tenant's subscription of their kind (spec/16_object_dictionary_and_tenants.md, spec/17_riller_protocol.md). -/
def Obligations.RequestsArePlacedTakenAndAnswered : Prop :=
  let place := fun (t : Nat) (q : Req) (s : State) =>
    ringStep (Reg.qProd (8 * t + 2)) (s.queueSize (8 * t + 2)) 1 (s.setTenant t { s.tenant t with
      reqs := (s.tenant t).reqs.filter fun y => decide (y.tag ≠ q.tag)
      resps := (s.tenant t).resps ++ [⟨q.tag, q.status, opCode q.op, q.hinge, q.detail, respType s q, q.value, q.sess, q.sid⟩] })
  let room := fun (t : Nat) (q : Req) (s : State) =>
    (s.tenant t).resps.length < s.queueSize (8 * t + 2) ∧ (q.sess = none ∨ (reqSession s q).isSome = true)
  let taken := fun (t tag : Nat) (q : Req) (s : State) => dictRuns s = true ∧ reqOf s t tag = some q ∧ q.st = .taken
  let ok := fun (q : Req) => { q with status := 0, hinge := 0#32, detail := 0, value := [] }
  let beat := fun (t : Fin 8) (h : Nat) (s : State) => s.modTenant t fun x => { x with lost := false, hbSince := h }
  (∀ (s : State) (t queue : Fin 8) (tag : BitVec 16) (op : ReqOp), queue.val ∈ [0, 1, 4] → (s.tenant t).st = .active →
    (s.tenant t).resetting = 0 → (s.tenant t).reqs.length < 256 → (s.tenant t).lost = false →
    ((∀ q ∈ (s.tenant t).reqs, q.tag ≠ tag.toNat) → exec (.requestPlacement t queue tag op) s = .next
      (ringStep (Reg.qProd (8 * t + queue)) (s.queueSize (8 * t + queue)) 1 (beat t s.dict.hinges (s.setTenant t { s.tenant t with
        arrival := (s.tenant t).arrival + 1#32
        reqs := (s.tenant t).reqs ++ [⟨tag.toNat, (s.tenant t).arrival + 1#32, queue, op, none, 0#32, false, .queued, 0,
          0#32, 0, []⟩] })))) ∧
    ((∃ q ∈ (s.tenant t).reqs, q.tag = tag.toNat) → exec (.requestPlacement t queue tag op) s = .next s)) ∧
  (∀ (s : State) (t queue : Fin 8) (tag : BitVec 16) (op : ReqOp), queue.val ∈ [0, 1, 4] → (s.tenant t).st ≠ .absent →
    ((s.tenant t).st = .resetting ∨ (s.tenant t).resetting ≠ 0 ∨ 256 ≤ (s.tenant t).reqs.length) →
    exec (.requestPlacement t queue tag op) s = .next
      (sqSet Reg.dictEvt [1] ((s.incSat (Reg.tenCnt t 1)).wrn Reg.dictEvtSrc t))) ∧
  (∀ (s : State) (t : Nat) (q : Req) (f : Dict → Dict), dictRuns s = true → nextTake s = some (t, q, f) →
    let s1 := ringStep (Reg.qCons (8 * t + q.queue)) (s.queueSize (8 * t + q.queue)) 1 (s.modDict f)
    ((checkRequest s t q).1 = 0 → exec .requestTake s = .next (s1.modTenant t fun x => { x with
      reqs := x.reqs.map fun y => if y.tag = q.tag then { y with st := .taken } else y })) ∧
    ((checkRequest s t q).1 ≠ 0 → (checkRequest s t q).1 ≠ 5 → reqOf s1 t q.tag = some q → room t q s1 →
      exec .requestTake s = .next (place t { q with
        status := (checkRequest s t q).1, hinge := 0#32, detail := (checkRequest s t q).2, value := [] } s1))) ∧
  (∀ (s : State) (t : Fin 8) (q : Req), ((s.tenant t).reqs.find? fun q => q.st == .held) = some q → room t q s →
    exec (.responseHoldRelease t) s = .next (place t q s)) ∧
  (∀ (s : State) (t : Fin 8) (tag : BitVec 16) (q : Req), taken t tag.toNat q s → room t q s →
    (q.op = .nop → exec (.requestNop t tag) s = .next (place t (ok q) s)) ∧
    (∀ sev src, q.op = .subscribe 1 sev src → exec (.subscribeReq t tag) s = .next
      (place t (ok q) (s.modTenant t fun x => { x with subEvent := some ⟨q.sess.getD 32, sev, src⟩ }))) ∧
    (∀ sev src, q.op = .subscribe 2 sev src → exec (.subscribeReq t tag) s = .next
      (place t (ok q) (s.modTenant t fun x => { x with subTap := some ⟨q.sess.getD 32, sev, src⟩ }))) ∧
    (q.op = .unsubscribe 1 → exec (.unsubscribeReq t tag) s = .next
      (place t (ok q) (s.modTenant t fun x => { x with subEvent := none }))) ∧
    (q.op = .unsubscribe 2 → exec (.unsubscribeReq t tag) s = .next
      (place t (ok q) (s.modTenant t fun x => { x with subTap := none }))))

/-- READ, WRITE, WRITE_GROUP and BURST of the dictionary. A taken READ is answered with OK and the value read, or with
REFUSED where the bus refuses; the Warden's entries by the Warden. A HANDLER entry's request stands in the handler
ring's next free slot, and stays taken while the ring is full. A taken WRITE of an entry backed by memory stores the
value's bytes at the entry's element, lowest first, keeps the value's length where the type leaves it open, and is
answered with OK, or with REFUSED where the bus refuses; with a persistent entry the answer waits for its log record. A taken group waits. The burst of a waiting group whose
nodes fit, and whose units no other tenant's pending group binds, issues the members and leaves the request at the
hinge, with OK or PARTIAL as its status; with more nodes than fit it is answered with FULL
(spec/16_object_dictionary_and_tenants.md). -/
def Obligations.EntriesAreReadAndWritten : Prop :=
  let place := fun (t : Nat) (q : Req) (s : State) =>
    ringStep (Reg.qProd (8 * t + 2)) (s.queueSize (8 * t + 2)) 1 (s.setTenant t { s.tenant t with
      reqs := (s.tenant t).reqs.filter fun y => decide (y.tag ≠ q.tag)
      resps := (s.tenant t).resps ++ [⟨q.tag, q.status, opCode q.op, q.hinge, q.detail, respType s q, q.value, q.sess, q.sid⟩] })
  let room := fun (t : Nat) (q : Req) (s : State) => reqOf s t q.tag = some q ∧
    (s.tenant t).resps.length < s.queueSize (8 * t + 2) ∧ (q.sess = none ∨ (reqSession s q).isSome = true)
  let taken := fun (t tag : Nat) (q : Req) (s : State) => dictRuns s = true ∧ reqOf s t tag = some q ∧ q.st = .taken
  let answer := fun (q : Req) (st : Nat) (v : List Byte) => { q with status := st, hinge := 0#32, detail := 0, value := v }
  let state := fun (t tag : Nat) (f : Req → Req) (s : State) => s.modTenant t fun x => { x with
    reqs := x.reqs.map fun y => if y.tag = tag then f y else y }
  let plain := fun (m : Member) => placeOf m.index m.sub = none ∧ (m.index < 0x2000 ∨ 0x2280 ≤ m.index) ∧
    (m.index < 0x3000 ∨ 0x3100 ≤ m.index) ∧ m.index ≠ 0x1011
  (∀ (s : State) (t : Fin 8) (tag : BitVec 16) (q : Req) (i sub : Nat), taken t tag.toNat q s → q.op = .read i sub →
    (q.warden = true → wardenServes s = true → room t q s →
      exec (.readReq t tag) s = .next (place t (answer q 0 (wardenRead s i sub)) s)) ∧
    (∀ r, q.warden = false → recOf s i sub = some r → r.backing ≠ 4 → room t q (valueRead t i sub r s).2 →
      (∀ b, (valueRead t i sub r s).1 = some b →
        exec (.readReq t tag) s = .next (place t (answer q 0 b) (valueRead t i sub r s).2)) ∧
      ((valueRead t i sub r s).1 = none →
        exec (.readReq t tag) s = .next (place t (answer q 11 []) (valueRead t i sub r s).2))) ∧
    (∀ r, q.warden = false → recOf s i sub = some r → r.backing = 4 →
      (hringFull s = true → exec (.readReq t tag) s = .next s) ∧
      (hringFull s = false → ∃ u, exec (.readReq t tag) s = .next u ∧
        u.dict.hprod = (s.dict.hprod + 1) % hringSize s ∧
        tget none u.dict.hslots s.dict.hprod = some (t.val, tag.toNat, s.dict.hinges) ∧
        (u.tenant t).reqs = (s.tenant t).reqs.map fun y =>
          if y.tag = tag.toNat then { y with st := .handler s.dict.hprod } else y))) ∧
  (∀ (s : State) (t : Fin 8) (tag : BitVec 16) (q : Req) (m : Member) (r : DRec), taken t tag.toNat q s → q.op = .write m →
    q.warden = false → recOf s m.index m.sub = some r → r.backing = 2 → plain m →
    let w := putBytes (r.elem m.index m.sub) m.value s
    (w.1 = false → room t q w.2 → exec (.writeReq t tag) s = .next (place t (answer q 11 []) w.2)) ∧
    (w.1 = true → room t q w.2 → logMembers w.2 t tag.toNat false [m] = [] →
      exec (.writeReq t tag) s = .next (place t (answer q 0 []) (noteLengths [m] w.2))) ∧
    (∀ l, w.1 = true → room t q w.2 → logMembers w.2 t tag.toNat false [m] = [l] →
      exec (.writeReq t tag) s = .next ((state t tag.toNat (fun y => { y with
        st := .logging 1, status := 0, hinge := 0#32, detail := 0 }) (noteLengths [m] w.2)).modDict fun d => { d with
          log := d.log ++ [l] }))) ∧
  (∀ (m : Member) (s : State), noteLengths [m] s = if (typeBytes m.type).isSome then s else s.modDict fun d => { d with
    lengths := tset none d.lengths (256 * m.index + m.sub) (some m.value.length) }) ∧
  (∀ (s : State) (t : Fin 8) (tag : BitVec 16) (q : Req) (n : Nat) (ms : List Member), taken t tag.toNat q s →
    q.op = .group n ms →
    exec (.writeGroupReq t tag) s = .next (state t tag.toNat (fun y => { y with st := .waiting }) s)) ∧
  (∀ (s : State) (t : Fin 8) (tag : BitVec 16) (q : Req) (n : Nat) (ms : List Member), dictRuns s = true →
    reqOf s t tag.toNat = some q → q.st = .waiting → q.op = .group n ms →
    (nodesFull s (nodeMembers (withRecs s ms)) = true → room t q s →
      exec (.burst t tag) s = .next (place t (answer q 10 []) s)) ∧
    (∀ g, nodesFull s (nodeMembers (withRecs s ms)) = false →
      (let cs := ((withRecs s ms).filterMap fun x =>
          if x.1.backing = 3 then commitSet (x.1.elem x.2.index x.2.sub) else none).eraseDups
        if cs = [] then g = 0 else boundElsewhere s t cs = false ∧ freeGroup s t = some g) →
      (issueMembers false t g ms s).hinge = true →
      exec (.burst t tag) s = .next (state t tag.toNat (fun y => { y with
        st := .atHinge (issueMembers false t g ms s).grp, status := if (issueMembers false t g ms s).ok then 0 else 12 })
        (issueMembers false t g ms s).s)))

/-- HDONE, HANDLER_TIMEOUT, PERSIST_RECORD, COMPACTION, DICT_ENABLE, HEARTBEAT_LOST, tenant creation, deletion and
reset, and a local request. A handler's answer and its timeout, once HTIMEOUT hinges have passed and not before, free the
slot and answer the request: OK, HANDLER with the result as detail, or TIMEOUT and an event. The oldest waiting record
is written behind the last line of the active half, with the next sequence number, and the answer that waits for it
follows; where it does not fit, or the Keep does not take it, nothing is written and the answer is KEEP. Compaction copies the newest record of each entry into the other half. Enabling finds
a bad record, disables and raises an event, or loads. A tenant that misses its heartbeats for HB_MISS
periods, and none before, is marked lost and counted, and its action applies. A reset bit starts a reset of each tenant that exists, merged with one under way; deletion
also marks it for removal; a key blob that verifies makes an absent tenant ACTIVE with its key in the keybox. A master
that may advance Q_PROD places the ring's new entry; the host without its tenant's permission places none and is
logged (spec/16_object_dictionary_and_tenants.md, spec/17_riller_protocol.md). -/
def Obligations.HandlersLogAndTenants : Prop :=
  let place := fun (t : Nat) (q : Req) (s : State) =>
    ringStep (Reg.qProd (8 * t + 2)) (s.queueSize (8 * t + 2)) 1 (s.setTenant t { s.tenant t with
      reqs := (s.tenant t).reqs.filter fun y => decide (y.tag ≠ q.tag)
      resps := (s.tenant t).resps ++ [⟨q.tag, q.status, opCode q.op, q.hinge, q.detail, respType s q, q.value, q.sess, q.sid⟩] })
  let room := fun (t : Nat) (q : Req) (s : State) => reqOf s t q.tag = some q ∧
    (s.tenant t).resps.length < s.queueSize (8 * t + 2) ∧ (q.sess = none ∨ (reqSession s q).isSome = true)
  let answer := fun (q : Req) (st detail : Nat) (v : List Byte) =>
    { q with status := st, hinge := 0#32, detail := detail, value := v }
  let freed := fun (slot : Nat) (s : State) => s.modDict fun d => { d with hslots := tset none d.hslots slot none }
  let ev := fun (b t : Nat) (s : State) => sqSet Reg.dictEvt [b] (s.wrn Reg.dictEvtSrc t)
  let resetting := fun (d : Bool) (x : Tenant) => { x with st := .resetting, resetting := max 1 x.resetting, del := x.del || d }
  (∀ (s : State) (m : Master) (v : BitVec 64), reaches s m true 0x400A0090 = true →
    let slot := fld (v.setWidth 32) 0 10
    let result := fld (v.setWidth 32) 16 16
    (tget none s.dict.hslots slot = none → exec (.hdone m .word v) s = .next s) ∧
    (∀ t q since, tget none s.dict.hslots slot = some (t, q.tag, since) → room t q (freed slot s) →
      (result ≠ 0 → exec (.hdone m .word v) s = .next (place t (answer q 14 result []) (freed slot s))) ∧
      (∀ i sub, result = 0 → q.op = .read i sub → ∃ b f, exec (.hdone m .word v) s = .next
        (place t (answer q 0 0 b) { freed slot s with free := f })) ∧
      (∀ mm, result = 0 → q.op = .write mm → logMembers (freed slot s) t q.tag q.warden [mm] = [] →
        exec (.hdone m .word v) s = .next (place t (answer q 0 0 []) (noteLengths [mm] (freed slot s)))))) ∧
  (∀ (s : State) (slot : Fin 1024) (t since : Nat) (q : Req),
    tget none s.dict.hslots slot.val = some (t, q.tag, since) →
    (s.dict.hinges < since + max 1 (s.rdf Reg.htimeout 0 24) → exec (.handlerTimeout slot) s = .next s) ∧
    (since + max 1 (s.rdf Reg.htimeout 0 24) ≤ s.dict.hinges → room t q (freed slot s) →
      exec (.handlerTimeout slot) s = .next (ev 4 t (place t (answer q 13 0 []) (freed slot s))))) ∧
  (∀ (s : State) (r : LogRec) (rest : List LogRec) (q : Req), s.dict.log = r :: rest → q.tag = r.tag → q.status ≠ 5 →
    room r.tenant q s →
    let ls := logLines (s.dict.logSeq + 1#32) r
    let n := s.dict.line + ls.length
    let got := fun (s : State) (st : Nat) => place r.tenant { q with status := st, value := [] } s
    (q.st = .logging 1 → n ≤ 8192 → exec (.persistRecord true) s = .next (got
      (((s.modDict fun d => { d with log := rest }).mwrBytes (logHalf s.dict.half + 64 * s.dict.line) ls.flatten).modDict
        fun d => { d with line := n, logSeq := s.dict.logSeq + 1#32, compacting := s.dict.compacting || decide (7680 ≤ n) })
      q.status)) ∧
    (∀ ok : Bool, q.st = .logging 1 → ok = false ∨ 8192 < n →
      exec (.persistRecord ok) s = .next (got (s.modDict fun d => { d with log := rest }) 15))) ∧
  (∀ s : State, s.dict.compacting = true →
    let ls := (newest (logEntries (halfLines s s.dict.half s.dict.line))).flatMap fun e =>
      logLines (BitVec.ofNat 32 e.seq) ⟨8, 0, e.index, e.sub, e.value, e.factory⟩
    exec .compaction s = .next ((s.mwrBytes (logHalf (1 - s.dict.half)) ls.flatten).modDict fun d => { d with
      half := 1 - s.dict.half, line := ls.length, compacting := false })) ∧
  (∀ s : State, s.enabled 10 = true → s.dict.loaded = false →
    (∀ k, badRec [] 0 (recs s) = some k → exec .dictEnable s = .next
      (ev 6 0 ((s.modDict fun d => { d with badRec := k }).wrb 0x400A0004 0 false))) ∧
    (badRec [] 0 (recs s) = none → ∃ u, exec .dictEnable s = .next u ∧ u.dict.loaded = true ∧
      u.dict.logSeq = BitVec.ofNat 32 (max (topSeq (logState s 0).2.1) (topSeq (logState s 1).2.1)))) ∧
  (∀ (s : State) (t : Fin 8), s.enabled 10 = true → (s.tenant t).st = .active → (s.tenant t).lost = false →
    s.dict.hinges < (s.tenant t).hbSince + 16 * (s.rdf (Reg.tenHb t) 16 4 * s.rdf (Reg.tenHb t) 0 16) →
    exec (.heartbeatLost t) s = .next s) ∧
  (∀ (s : State) (t : Fin 8), s.enabled 10 = true → (s.tenant t).st = .active → (s.tenant t).lost = false →
    (s.tenant t).hbSince + 16 * (s.rdf (Reg.tenHb t) 16 4 * s.rdf (Reg.tenHb t) 0 16) ≤ s.dict.hinges →
    ∃ u, exec (.heartbeatLost t) s = .next u ∧ (u.tenant t).lost = true ∧
      (u.tenant t).releaseDue = ((s.tenant t).releaseDue || (t.val != 0 && s.rdf (Reg.tenHb t) 20 2 == 1)) ∧
      (u.tenant t).st = (if t.val ≠ 0 ∧ s.rdf (Reg.tenHb t) 20 2 = 2 then .resetting else .active) ∧
      u.rd (Reg.tenCnt t 3) = (s.incSat (Reg.tenCnt t 3)).rd (Reg.tenCnt t 3)) ∧
  (∀ (s : State) (m : Master) (v : BitVec 64), reaches s m true 0x400A003C = true → ∃ u,
    exec (.tenantReset m .word v) s = .next u ∧ u.regs = s.regs ∧ u.sqs = s.sqs ∧ u.mem = s.mem ∧
    ∀ t < 8, u.tenant t = if v.getLsbD t = true ∧ (s.tenant t).st ≠ .absent then resetting false (s.tenant t) else s.tenant t) ∧
  (∀ (s : State) (t : Fin 8), t.val ≠ 0 → (s.tenant t).st ≠ .absent → ∃ u, exec (.tenantDeletion t) s = .next u ∧
    u.regs = s.regs ∧ ∀ k, u.tenant k = if k = t.val then resetting true (s.tenant t) else s.tenant k) ∧
  (∀ (s : State) (t : Fin 8) (blob : List Byte) (n : Fin 32),
    (s.sess n = none → exec (.tenantCreation t blob n) s = .next s) ∧
    (∀ x, s.sess n = some x → t.val ≠ 0 → x.tenant = 0 → x.warden = false → blob.length = 96 → le blob 0 1 = t.val →
      (s.tenant t).st = .absent → exec (.tenantCreation t blob n) s = .next
        (match Config.gcmOpen (Config.hmac (keySlot s 8) ([0x52#8, 0x4C#8, 0x57#8] ++ leBytes 4 x.sid.toNat ++ x.nonceC ++ x.nonceD))
            (cut blob 4 12) (blob.take 4) (cut blob 16 32) (cut blob 48 16) with
        | none => s
        | some key => (s.modWard fun w => { w with keys := tset [] w.keys (8 + t.val) key }).modTenant t
            fun y => { y with st := .active, hbSince := s.dict.hinges }))) ∧
  (∀ (s : State) (m : Master) (q : Fin 64), reaches s m true (Reg.qProd q) = true →
    let old := (s.rd (Reg.qProd q)).toNat
    let v := (old + 1) % s.queueSize q
    let r := ringRequest s q (old % s.queueSize q)
    let x := s.tenant (q.val / 8)
    (q.val % 8 ∈ [0, 1, 4] → m ≠ .hostSpi ∨ s.bit Reg.hostTen (q.val / 8) = true → 2 ≤ s.queueSize q →
      old < s.queueSize q → x.st = .active → x.resetting = 0 → x.reqs.length < 256 → x.lost = false →
      (∀ y ∈ x.reqs, y.tag ≠ r.1) → exec (.localRequest m q .word (BitVec.ofNat 64 v)) s = .next
        (((s.wrn (Reg.qProd q) v).setTenant (q.val / 8) { x with
          arrival := x.arrival + 1#32
          reqs := x.reqs ++ [⟨r.1, x.arrival + 1#32, q.val % 8, r.2, none, 0#32, false, .queued, 0, 0#32, 0, []⟩] }).modTenant
            (q.val / 8) fun y => { y with lost := false, hbSince := s.dict.hinges })) ∧
    (∀ w, q.val % 8 ∉ [0, 1, 4] ∨ m = .hostSpi ∧ s.bit Reg.hostTen (q.val / 8) = false →
      exec (.localRequest m q .word w) s = .next (logPriv (whoOf s m) true false 4 (Reg.qProd q) s)))

/-- OPEN, CEILING_RAISE, REQUEST, CLOSE, SESSION_IDLE, SESS_CLOSE, RESPONSE and EVENT of the Riller front end. On a
transport in use a malformed message is counted and an event. An OPEN whose key does not verify it is an AUTH failure
of its tenant; one that verifies opens a session in the least free slot with the offered SID, its keys derived, and is
answered; one at the counter's ceiling waits in the ingress buffer while the ceiling is raised, by 1024. A REQUEST or
CLOSE on an open session whose COUNTER was accepted before counts a replay; one whose tag fails is an AUTH failure; a
good REQUEST marks the session used, moves its window and places its records, a good CLOSE ends the session. A session
idle for SESS_IDLE seconds, or named in SESS_CLOSE, gets a CLOSE with its reason and ends; no other session does. A RESPONSE or an EVENT
carries what fits of the session's responses or of the subscription's records, first to last, and takes it off the
queue; an EVENT leaves when it is full or 16 hinges after its first record, and not before. That the session offered first is the least slot is the model's choice (assumption 14)
(spec/17_riller_protocol.md, spec/16_object_dictionary_and_tenants.md, spec/23_warden_and_boot_chain.md). -/
def Obligations.RillerSessionsOpenCarryAndClose : Prop :=
  let gone := fun (tr : Transport) (ip : Word) (port : Nat) (m : List Byte) (s : State) =>
    s.modRil fun r => { r with ingress := r.ingress.erase (tr, ip, port, m) }
  let rev := fun (b : Nat) (s : State) => sqSet Reg.rilEvt [b] s
  let authFail := fun (t : Nat) (s : State) => rev 0 (s.incSat (Reg.tenCnt t 2))
  let sound := fun (kind : Nat) (tr : Transport) (m : List Byte) (s : State) =>
    transportOn s tr = true ∧ rilWellFormed tr m = true ∧ le m 3 1 = kind
  let onSess := fun (n : Nat) (x : Session) (tr : Transport) (m : List Byte) (s : State) => s.sess n = some x ∧
    (sessionsOf s fun y => y.sid == BitVec.ofNat 32 (le m 8 4) && y.transport == tr).head? = some n ∧
    le m 4 1 = x.tenant ∧ decide (le m 5 1 = 1) = x.warden
  let opened := fun (x : Session) (m : List Byte) =>
    Config.gcmOpen x.keyC ((m.take 20).drop 8) (m.take 20) ((m.drop 20).take (m.length - 36)) (m.drop (m.length - 16))
  let used := fun (n : Nat) (x : Session) (ip : Word) (port : Nat) (m : List Byte) (s : State) =>
    (setSess n (some { acceptCounter x (le m 12 8) with
      idle := 0, used := s.ril.useTick + 1, peerIp := ip, peerPort := port }) s).modRil fun r => { r with useTick := r.useTick + 1 }
  (∀ (s : State) (tr : Transport) (ip : Word) (port : Nat) (m : List Byte) (sid : Word), transportOn s tr = true →
    rilWellFormed tr m = false →
    let t := rev 2 ((gone tr ip port m s).incSat Reg.rilDrop)
    exec (.openSession tr ip port m sid) s = .next t ∧ exec (.requestMsg tr ip port m) s = .next t ∧
    exec (.closeSession tr ip port m) s = .next t) ∧
  (∀ (s : State) (tr : Transport) (ip : Word) (port : Nat) (m : List Byte) (sid : Word), sound 1 tr m s → le m 6 2 = 52 →
    s.ril.raising = false → s.ril.openAges.length < 16 →
    (s.ril.ceiling ≤ s.ril.openCnt → ∃ u, exec (.openSession tr ip port m sid) s = .next u ∧ u.ril.raising = true ∧
      u.ril.openCnt = s.ril.openCnt ∧ u.ril.sessions = s.ril.sessions) ∧
    (s.ril.openCnt < s.ril.ceiling →
      let t := le m 4 1
      let aged := (gone tr ip port m s).modRil fun r => { r with openAges := r.openAges ++ [16000] }
      (openKey s t (decide (le m 5 1 = 1)) = none → exec (.openSession tr ip port m sid) s = .next (authFail t aged)) ∧
      (∀ key n, openKey s t (decide (le m 5 1 = 1)) = some key → (sessionsOf s fun x => x.tenant == t).length < 4 →
        (sessionsOf s fun _ => true).length < 32 → sid ≠ 0#32 → sessionsOf s (fun y => y.sid == sid) = [] →
        ((List.range 32).find? fun n => (s.sess n).isNone) = some n →
        if Config.hmac key (m.take 40) ≠ m.drop 40 then exec (.openSession tr ip port m sid) s = .next (authFail t aged)
        else ∃ u, exec (.openSession tr ip port m sid) s = .next (rev 4 u) ∧ u.ril.openCnt = s.ril.openCnt + 1 ∧
          u.ril.sent.length = s.ril.sent.length + 1 ∧ (∀ k, k ≠ n → u.sess k = s.sess k) ∧
          ∃ x, u.sess n = some x ∧ x.tenant = t ∧ x.transport = tr ∧ x.sid = sid ∧ x.peerIp = ip ∧ x.peerPort = port ∧
            x.high = 0 ∧ x.txCounter = 0 ∧ x.nonceC = (m.drop 20).take 16 ∧
            x.keyC = Config.hmac key ([0x52#8, 0x4C#8, 0x43#8] ++ leBytes 4 sid.toNat ++ x.nonceC ++ x.nonceD) ∧
            x.keyD = Config.hmac key ([0x52#8, 0x4C#8, 0x44#8] ++ leBytes 4 sid.toNat ++ x.nonceC ++ x.nonceD)))) ∧
  (∀ s : State, s.ril.raising = true → ∃ u, exec .ceilingRaise s = .next u ∧ u.ril.ceiling = s.ril.ceiling + 1024 ∧
    u.ril.raising = false ∧ u.ward.slot.openCeil = s.ril.ceiling + 1024 ∧ u.ril.sessions = s.ril.sessions) ∧
  (∀ (s : State) (tr : Transport) (ip : Word) (port : Nat) (m : List Byte) (n : Nat) (x : Session), onSess n x tr m s →
    (replayed x (le m 12 8) = true →
      let t := rev 1 ((gone tr ip port m s).incSat Reg.rilReplay)
      (sound 3 tr m s → exec (.requestMsg tr ip port m) s = .next t) ∧
      (sound 6 tr m s → exec (.closeSession tr ip port m) s = .next t)) ∧
    (replayed x (le m 12 8) = false →
      (sound 3 tr m s → exec (.requestMsg tr ip port m) s = .next (match opened x m with
        | none => authFail x.tenant (gone tr ip port m s)
        | some body => placeRecords n body.length body (used n x ip port m (gone tr ip port m s)))) ∧
      (sound 6 tr m s → match opened x m with
        | none => exec (.closeSession tr ip port m) s = .next (authFail x.tenant (gone tr ip port m s))
        | some _ => ∃ u, exec (.closeSession tr ip port m) s = .next u ∧
          ∀ k, u.sess k = if k = n then none else s.sess k))) ∧
  (∀ (s : State) (n : Fin 32) (x : Session), s.sess n = some x →
    x.idle < 16000 * max 1 (s.rdf Reg.rilCfg 16 16) → exec (.sessionIdle n) s = .next s) ∧
  (∀ (s : State) (n : Fin 32) (x : Session), s.sess n = some x → x.txCounter < 2 ^ 64 - 1 →
    16000 * max 1 (s.rdf Reg.rilCfg 16 16) ≤ x.idle →
    let h := rilHeader 6 x.tenant x.warden 17 x.sid (x.txCounter + 1)
    ∃ u, exec (.sessionIdle n) s = .next u ∧ (∀ k, u.sess k = if k = n.val then none else s.sess k) ∧
      u.ril.sent = s.ril.sent ++ [⟨x.transport, x.peerIp, x.peerPort, h ++ Config.gcmSeal x.keyD (h.drop 8) h [1#8]⟩]) ∧
  (∀ (s : State) (m : Master) (v : BitVec 64), reaches s m true 0x400A0814 = true → ∃ u,
    exec (.sessClose m .word v) s = .next u ∧ ∀ k < 32, u.sess k = if v.getLsbD k then none else s.sess k) ∧
  (∀ (s : State) (n : Fin 32) (x : Session), s.sess n = some x → x.txCounter < 2 ^ 64 - 1 →
    let all := x.resps ++ (s.tenant x.tenant).resps.filter fun r => decide (r.sess = some n.val ∧ r.sid = x.sid)
    let k := fitting (bodyLimitOf x.transport) all
    (k = 0 → exec (.responseMsg n) s = .next s) ∧
    (k ≠ 0 →
      let body := (all.take k).flatMap respBytes
      let h := rilHeader 4 x.tenant x.warden (body.length + 16) x.sid (x.txCounter + 1)
      ∃ u, exec (.responseMsg n) s = .next u ∧
        u.ril.sent = s.ril.sent ++ [⟨x.transport, x.peerIp, x.peerPort, h ++ Config.gcmSeal x.keyD (h.drop 8) h body⟩] ∧
        u.sess n = some { x with resps := x.resps.drop (min k x.resps.length), txCounter := x.txCounter + 1 } ∧
        (u.tenant x.tenant).resps = dropFor n x.sid (k - min k x.resps.length) (s.tenant x.tenant).resps)) ∧
  (∀ (s : State) (t : Fin 8) (tap : Bool) (sub : Subscr) (y : Session),
    (if tap then (s.tenant t).subTap else (s.tenant t).subEvent) = some sub → s.sess sub.sess = some y →
    y.txCounter < 2 ^ 64 - 1 →
    let recs := if tap then (s.tenant t).taps else (s.tenant t).events
    let most := if y.transport = .udp then 44 else 30
    let k := min recs.length most
    let since := if tap then (s.tenant t).tapSince else (s.tenant t).evSince
    let lost := if tap then (s.tenant t).lostTaps else (s.tenant t).lostEvents
    let body := [BitVec.ofNat 8 (1 + b2n tap), BitVec.ofNat 8 k] ++ leBytes 2 lost ++ (recs.take k).flatten
    let h := rilHeader 5 y.tenant y.warden (body.length + 16) y.sid (y.txCounter + 1)
    (recs.length < most → s.dict.hinges < since + 16 → exec (.eventMsg t tap) s = .next s) ∧
    (recs ≠ [] → most ≤ recs.length ∨ since + 16 ≤ s.dict.hinges → ∃ u, exec (.eventMsg t tap) s = .next u ∧
      u.ril.sent = s.ril.sent ++ [⟨y.transport, y.peerIp, y.peerPort, h ++ Config.gcmSeal y.keyD (h.drop 8) h body⟩] ∧
      u.tenant t = (if tap then { s.tenant t with taps := recs.drop k, lostTaps := 0 }
        else { s.tenant t with events := recs.drop k, lostEvents := 0 }))) ∧
  (∀ (s : State) (t : Fin 8) (tap : Bool), (if tap then (s.tenant t).subTap else (s.tenant t).subEvent) = none →
    exec (.eventMsg t tap) s = .next s)

/-- CAN_TXREQ, CAN_FRAME_SENT, CAN_FRAME_RECEIVED, RECEIVE_WINDOW_READ, BUS_OFF_RECOVERY and REASSEMBLY_TIMEOUT. A
write of TXREQ adds the named buffers to those that wait. A controller that may send finishes with the waiting buffer
of lowest identifier: sent, its frame leaves, TEC falls by one and TX_DONE is set; arbitration lost, it waits on; an
error adds 8 to TEC and sets PROTO, with an event as it becomes error passive, or bus-off. A frame received in error
adds one to REC and sets PROTO; a whole one takes one from it. A frame for the host joins the FIFO of 32, or is an
event when that is full; a Riller frame that is first and last is one message for the front end, one that is
first begins a reassembly, the next in sequence extends it and the last ends it, one out of sequence or more than
10 ms late discards it; a controller off or bus-off hears nothing. A read of word i of the window gives that word of the oldest frame, and of
word 17 removes the frame. Recovery ends bus-off with both counters 0. A late reassembly is discarded. The steps of
TEC and REC are the model's, from ISO 11898-1 (assumption 22) (spec/20_mic_lines_contacts_and_local_ports.md,
spec/17_riller_protocol.md). -/
def Obligations.CanControllersSendAndReceive : Prop :=
  let sends := fun (k : Nat) (s : State) => s.bit (Reg.canCtrl k) 0 = true ∧ s.bit (Reg.canCtrl k) 1 = false ∧ (s.can k).busOff = false
  let least := fun (k b : Nat) (s : State) => b ∈ (s.can k).pending ∧
    ∀ i ∈ (s.can k).pending, (canBuffer s k b).ident ≤ (canBuffer s k i).ident
  let hears := fun (k : Nat) (s : State) => s.bit (Reg.canCtrl k) 0 = true ∧ (s.can k).busOff = false
  let ev := fun (k : Nat) (bs : List Nat) (s : State) => sqSet (Reg.canEvt k) bs s
  let well := fun (k : Nat) (s : State) => s.setCan k { s.can k with recErr := (s.can k).recErr - 1 }
  let drop := fun (k i : Nat) (s : State) => s.modRil fun r => { r with
    reasm := r.reasm.filter fun x => !decide (x.bus = k ∧ x.ident = i) }
  (∀ (s : State) (m : Master) (k : Fin 2) (v : BitVec 64), reaches s m true (0x400F1014 + 0x400 * k.val) = true →
    exec (.canTxreq m k .word v) s = .next (s.setCan k { s.can k with
      pending := (s.can k).pending ++ (bitsOf 8 (v.toNat % 2 ^ 32)).filter fun j => !(s.can k).pending.contains j })) ∧
  (∀ (s : State) (k : Fin 2) (b : Fin 8) (r : CanEnd), ¬ (sends k s ∧ least k b s) → exec (.canFrameSent k b r) s = .next s) ∧
  (∀ (s : State) (k : Fin 2) (b : Fin 8), sends k s → least k b s →
    exec (.canFrameSent k b .sent) s = .next (ev k [2] (s.setCan k { s.can k with
      pending := (s.can k).pending.filter (· != b.val)
      tec := (s.can k).tec - 1
      sent := (s.can k).sent ++ [canBuffer s k b] })) ∧
    exec (.canFrameSent k b .lost) s = .next s ∧
    (248 ≤ (s.can k).tec → exec (.canFrameSent k b .error) s = .next
      (ev k [4, 5] (s.setCan k { s.can k with tec := 255, busOff := true }))) ∧
    (120 ≤ (s.can k).tec → (s.can k).tec < 128 → exec (.canFrameSent k b .error) s = .next
      (ev k [3, 5] (s.setCan k { s.can k with tec := (s.can k).tec + 8 }))) ∧
    ((s.can k).tec < 120 ∨ 128 ≤ (s.can k).tec ∧ (s.can k).tec < 248 → exec (.canFrameSent k b .error) s = .next
      (ev k [5] (s.setCan k { s.can k with tec := (s.can k).tec + 8 })))) ∧
  (∀ (s : State) (k : Fin 2) (f : CanFrame) (bad : Bool), ¬ hears k s → exec (.canFrameReceived k f bad) s = .next s) ∧
  (∀ (s : State) (k : Fin 2) (f : CanFrame), hears k s → exec (.canFrameReceived k f true) s = .next
    (ev k (if (s.can k).recErr = 127 then [3, 5] else [5]) (s.setCan k { s.can k with
      recErr := min 255 ((s.can k).recErr + 1) }))) ∧
  (∀ (s : State) (k : Fin 2) (f : CanFrame), hears k s → rilFrame s k f = false →
    ((s.can k).rx.length < 32 → exec (.canFrameReceived k f false) s = .next
      (ev k [0] ((well k s).setCan k { (well k s).can k with rx := ((well k s).can k).rx ++ [f] }))) ∧
    (32 ≤ (s.can k).rx.length → exec (.canFrameReceived k f false) s = .next (ev k [1] (well k s)))) ∧
  (∀ (s : State) (k : Fin 2) (f : CanFrame) (h : Byte) (part : List Byte), hears k s → rilFrame s k f = true →
    f.data = h :: part →
    let w := well k s
    let arrived := fun (b : List Byte) (s : State) => rilIngress (canTransport k) 0#32 0 (b.take (20 + le b 6 2)) s
    (128 ≤ h.toNat → h.toNat % 16 = 0 → reasmOf s k f.ident = none →
      (192 ≤ h.toNat → exec (.canFrameReceived k f false) s = .next (arrived part w)) ∧
      (h.toNat < 192 → exec (.canFrameReceived k f false) s = .next (w.modRil fun r => { r with
        reasm := r.reasm ++ [⟨k, f.ident, 1, part, 0⟩] }))) ∧
    (h.toNat < 128 → reasmOf s k f.ident = none → exec (.canFrameReceived k f false) s = .next w) ∧
    (∀ x, h.toNat < 128 → reasmOf s k f.ident = some x →
      (h.toNat % 16 ≠ x.next ∨ 160 < x.age → exec (.canFrameReceived k f false) s = .next (drop k f.ident w)) ∧
      (h.toNat % 16 = x.next → x.age ≤ 160 → 64 ≤ h.toNat →
        exec (.canFrameReceived k f false) s = .next (arrived (x.bytes ++ part) (drop k f.ident w))) ∧
      (h.toNat % 16 = x.next → x.age ≤ 160 → h.toNat < 64 →
        exec (.canFrameReceived k f false) s = .next ((drop k f.ident w).modRil fun r => { r with
          reasm := r.reasm ++ [{ x with next := x.next + 1, bytes := x.bytes ++ part, age := 0 }] })))) ∧
  (∀ (s : State) (m : Master) (k : Fin 2) (i : Fin 18), reaches s m false (0x400F1260 + 0x400 * k.val + 4 * i.val) = true →
    (whoOf s m).debug = false →
    let w := match (s.can k).rx with
      | [] => 0#32
      | f :: _ => canWord f i
    exec (.receiveWindowRead m k i .word) s = .next
      ((if i.val = 17 then s.setCan k { s.can k with rx := (s.can k).rx.drop 1 } else s).modBus fun b => { b with
        answer := some (BitVec.ofNat 64 w.toNat) })) ∧
  (∀ (s : State) (k : Fin 2), (s.can k).busOff = true → s.bit (Reg.canCtrl k) 0 = true → s.bit (Reg.canCtrl k) 2 = true →
    exec (.busOffRecovery k) s = .next (s.setCan k { s.can k with busOff := false, tec := 0, recErr := 0 })) ∧
  (∀ (s : State) (k : Fin 2) (i : Nat) (x : Reasm), reasmOf s k i = some x →
    (160 ≤ x.age → exec (.reassemblyTimeout k i) s = .next (drop k i s)) ∧
    (x.age < 160 → exec (.reassemblyTimeout k i) s = .next s)) ∧
  (∀ (s : State) (k : Fin 2) (i : Nat), reasmOf s k i = none → exec (.reassemblyTimeout k i) s = .next s)

/-- HOST_WRITE, WRITE_FIXED, HOST_READ, READ_FIXED, HOST_STATUS, HOST_WORD_WRITE, the UARTs, the I2C controllers and
GPIO_EDGE. A host write with good arguments and room places its words with ascending addresses, or all with one
address; a word that finds the FIFO full is dropped and sets OVERRUN; bad arguments set PROTO. A read answers A5 and
one word for each it asked, in order, or 5A alone where one of them met a bus error; one ended before its marker
answers nothing. With the host side of crossing 15 not ready a command is dropped and counted; in sleep the port does
not answer. STATUS answers its byte and
clears its error bits. The oldest word of the FIFO is written; a bus error latches its address. A character written
joins the transmit FIFO of 64 or is an event; one sent leaves it; one received joins the receive FIFO with its errors
and sets their events, or is an event when that is full; a read of RXD takes the oldest. An I2C command runs when it
is first and the controller is on, and only then: START and WRITE end the sequence without an acknowledge, any command
on lost arbitration, STOP sets DONE, WRITE and READ leave their entry; a timeout ends the sequence. A selected edge of
a pin sets its bit. That a WRITE's entry carries the byte written, and that DONE is set at STOP, are the model's
choices (assumption 22) (spec/20_mic_lines_contacts_and_local_ports.md, spec/02_register_file_rules.md). -/
def Obligations.HostAndSerialPortsCarryData : Prop :=
  let irq := fun (f : HostSpi → HostSpi) (s : State) => pulse 240 (s.modHs f)
  let put := fun (l : List (Word × Word)) (s : State) => s.modHs fun h => { h with fifo := h.fifo ++ l }
  let bad := fun (t : State) => irq (fun h => { h with proto := true }) t
  let up := fun (s : State) => s.modes.sleep ≠ .asleep ∧ s.modes.sleep ≠ .waking
  let far := fun (s : State) => tget false s.bus.readyFar 4 = true
  let near := fun (s : State) => tget false s.bus.readyNear 4 = true
  let txd := fun (k : Fin 2) => 0x400F0408 + 0x40 * k.val
  let rxd := fun (k : Fin 2) => 0x400F040C + 0x40 * k.val
  let first := fun (k op w : Nat) (rest : List Nat) (s : State) =>
    s.bit (Reg.i2cCtrl k) 0 = true ∧ (s.i2c k).cmds = w :: rest ∧ w / 256 % 8 = op
  let ran := fun (k : Nat) (rest more : List Nat) (hold : Bool) (s : State) => s.setI2c k ⟨rest, (s.i2c k).rsp ++ more, hold⟩
  let ended := fun (k bit : Nat) (s : State) => sqSet (Reg.i2cEvt k) [bit] (s.setI2c k { s.i2c k with cmds := [], holding := false })
  (∀ (s : State) (a : Word) (c : BitVec 16) (ws : List Word), up s → far s → a.toNat % 4 = 0 → 1 ≤ c.toNat → c.toNat ≤ 64 →
    let xs := ws.take c.toNat
    (s.ports.hs.fifo.length + xs.length ≤ 64 →
      exec (.hostWrite a c ws) s = .next (put (xs.mapIdx fun i w => (a + BitVec.ofNat 32 (4 * i), w)) s) ∧
      exec (.writeFixed a c ws) s = .next (put (xs.mapIdx fun _ w => (a, w)) s)) ∧
    (∀ w, xs = [w] → 64 ≤ s.ports.hs.fifo.length →
      exec (.hostWrite a c ws) s = .next (irq (fun h => { h with overrun := true }) s) ∧
      exec (.writeFixed a c ws) s = .next (irq (fun h => { h with overrun := true }) s))) ∧
  (∀ (s : State) (a : Word) (c : BitVec 16) (ws : List Word), up s → far s → a.toNat % 4 ≠ 0 ∨ c.toNat = 0 ∨ 64 < c.toNat →
    exec (.hostWrite a c ws) s = .next (bad s) ∧ exec (.writeFixed a c ws) s = .next (bad s)) ∧
  (∀ (s : State) (a : Word) (n : Nat) (cut : Option Nat), up s → far s → near s → a.toNat % 4 = 0 → 1 ≤ n → n ≤ 64 →
    ∀ fixed : Bool, ∃ u, exec (if fixed then .readFixed a n cut else .hostRead a n cut) s = .next u ∧
    (cut = none → u.ports.hs.answer = [0x5A#32] ∨ ∃ ws, ws.length = n ∧ u.ports.hs.answer = 0xA5#32 :: ws) ∧
    (cut.isSome = true → u.ports.hs.answer = [])) ∧
  (∀ (s : State) (a : Word), up s → far s → near s → a.toNat % 4 = 0 → ∀ fixed : Bool,
    exec (if fixed then .readFixed a 1 none else .hostRead a 1 none) s = .next (match readNow .hostSpi a.toNat 4 s with
      | (some v, t) => t.modHs fun h => { h with answer := [0xA5#32, BitVec.ofNat 32 v] }
      | (none, t) => (irq (fun h => { h with rdErr := true }) (t.wr Reg.hsErrAddr a)).modHs fun h => { h with answer := [0x5A#32] })) ∧
  (∀ (s : State) (a : Word) (n : Nat), up s → far s → near s → a.toNat % 4 = 0 → 1 ≤ n → n ≤ 64 → ∀ fixed : Bool,
    exec (if fixed then .readFixed a n (some 0) else .hostRead a n (some 0)) s = .next
      (s.modHs fun h => { h with answer := [] })) ∧
  (∀ (s : State) (a : Word) (n : Nat) (cut : Option Nat), up s → far s → a.toNat % 4 ≠ 0 ∨ n = 0 ∨ 64 < n →
    exec (.hostRead a n cut) s = .next (bad s) ∧ exec (.readFixed a n cut) s = .next (bad s)) ∧
  (∀ (s : State) (a : Word) (n : Nat) (c : BitVec 16) (ws : List Word) (cut : Option Nat), up s → ¬ far s →
    exec (.hostRead a n cut) s = .next (xingDropped 4 s) ∧ exec (.readFixed a n cut) s = .next (xingDropped 4 s) ∧
    exec (.hostWrite a c ws) s = .next ((ws.take c.toNat).foldl (fun s _ => xingDropped 4 s) s) ∧
    exec (.writeFixed a c ws) s = .next ((ws.take c.toNat).foldl (fun s _ => xingDropped 4 s) s)) ∧
  (∀ (s : State) (a : Word) (n : Nat) (c : BitVec 16) (ws : List Word) (cut : Option Nat), ¬ up s →
    ∀ i ∈ [Instr.hostRead a n cut, .readFixed a n cut, .hostWrite a c ws, .writeFixed a c ws, .hostStatus],
      exec i s = .next s) ∧
  (∀ s : State, up s → exec .hostStatus s = .next (s.modHs fun h => { h with
    answer := [BitVec.ofNat 32 (b2n (h.fifo != []) + 2 * b2n h.wrErr + 4 * b2n h.rdErr + 8 * b2n h.overrun + 16 * b2n h.proto)]
    wrErr := false, rdErr := false, overrun := false, proto := false })) ∧
  (∀ (s : State) (a v : Word) (t : List (Word × Word)), near s → s.ports.hs.fifo = (a, v) :: t →
    exec .hostWordWrite s = .next (match masterWrite .hostSpi a.toNat 4 v.toNat (s.modHs fun h => { h with fifo := t }) with
      | (true, u) => u
      | (false, u) => irq (fun h => { h with wrErr := true }) (u.wr Reg.hsErrAddr a))) ∧
  (∀ s : State, s.ports.hs.fifo = [] ∨ ¬ near s → exec .hostWordWrite s = .next s) ∧
  (∀ (s : State) (m : Master) (k : Fin 2) (v : BitVec 64), reaches s m true (txd k) = true →
    ((s.uart k).tx.length < 64 → exec (.uartTxdWrite m k .word v) s = .next (s.setUart k { s.uart k with
      tx := (s.uart k).tx ++ [v.setWidth 8] })) ∧
    (64 ≤ (s.uart k).tx.length → exec (.uartTxdWrite m k .word v) s = .next (sqSet (Reg.uartEvt k) [4] s))) ∧
  (∀ (s : State) (m : Master) (k : Fin 2), reaches s m false (rxd k) = true → (whoOf s m).debug = false →
    exec (.uartRxdRead m k .word) s = .next ((s.setUart k { s.uart k with rx := (s.uart k).rx.drop 1 }).modBus fun b => { b with
      answer := some (match (s.uart k).rx with
        | [] => 0x80000000#64
        | e :: _ => BitVec.ofNat 64 (e.1.toNat + 256 * b2n e.2.1 + 512 * b2n e.2.2.1 + 1024 * b2n e.2.2.2)) })) ∧
  (∀ (s : State) (k : Fin 2) (ch : Byte) (p f b : Bool),
    (s.bit (Reg.uartCtrl k) 0 = false → exec (.characterReceived k ch p f b) s = .next s) ∧
    (s.bit (Reg.uartCtrl k) 0 = true → (s.uart k).rx.length < 64 → exec (.characterReceived k ch p f b) s = .next
      (sqSet (Reg.uartEvt k) ((if p then [1] else []) ++ (if f then [2] else []) ++ (if b then [3] else []))
        (s.setUart k { s.uart k with rx := (s.uart k).rx ++ [(ch, p, f, b)] }))) ∧
    (s.bit (Reg.uartCtrl k) 0 = true → 64 ≤ (s.uart k).rx.length →
      exec (.characterReceived k ch p f b) s = .next (sqSet (Reg.uartEvt k) [0] s))) ∧
  (∀ (s : State) (k : Fin 2) (c : Byte) (t : List Byte), s.bit (Reg.uartCtrl k) 0 = true → (s.uart k).tx = c :: t →
    exec (.characterSent k) s = .next (s.setUart k { s.uart k with tx := t, out := (s.uart k).out ++ [c] })) ∧
  (∀ (s : State) (k : Fin 2) (w : Nat) (rest : List Nat) (d : Byte) (r : I2cEnd), (s.i2c k).cmds = w :: rest →
    s.bit (Reg.i2cCtrl k) 0 = false ∨ w / 256 % 8 ∉ [1, 2, 3, 4, 5] →
    ∀ i ∈ [Instr.i2cStart k r, .i2cWrite k r, .i2cReadAck k d r, .i2cReadNack k d r, .i2cStop k r], exec i s = .next s) ∧
  (∀ (s : State) (k : Fin 2) (w : Nat) (rest : List Nat) (d : Byte),
    (first k 1 w rest s →
      exec (.i2cStart k .ack) s = .next (ran k rest [] true s) ∧
      exec (.i2cStart k .nack) s = .next (ended k 0 (ran k rest [] true s)) ∧
      exec (.i2cStart k .arbLost) s = .next (ended k 1 (ran k rest [] true s))) ∧
    (first k 2 w rest s →
      exec (.i2cWrite k .ack) s = .next (ran k rest [w % 256 + 512] true s) ∧
      exec (.i2cWrite k .nack) s = .next (ended k 0 (ran k rest [w % 256 + 768] true s))) ∧
    (first k 3 w rest s → exec (.i2cReadAck k d .ack) s = .next (ran k rest [d.toNat + 512] true s)) ∧
    (first k 4 w rest s → exec (.i2cReadNack k d .nack) s = .next (ran k rest [d.toNat + 512] true s)) ∧
    (first k 5 w rest s → exec (.i2cStop k .ack) s = .next (sqSet (Reg.i2cEvt k) [3] (ran k rest [] false s)))) ∧
  (∀ (s : State) (k : Fin 2), s.bit (Reg.i2cCtrl k) 0 = true → exec (.i2cTimeout k) s = .next (ended k 2 s)) ∧
  (∀ (s : State) (n : Fin 32) (l : Bool),
    let t := s.modPorts fun p => { p with gpioIn := wsetBit p.gpioIn n l }
    let sel := s.rdf (Reg.gpioIrqCfg (n.val / 16)) (2 * (n.val % 16)) 2
    exec (.gpioEdge n l) s = .next (if s.ports.gpioIn.getLsbD n ≠ l ∧ (sel = 3 ∨ sel = if l then 1 else 2) then
      t.wrb Reg.gpioEdge n true else t))

/-- CHANNEL_ENABLE, START, CHANNEL_DISABLE, DMA_DISABLE, HELD_ENABLE, TAIL_WRITE and LATE_ERR. Writing ENABLE 1 on an
idle channel sets it when the channel's configuration is good, else the channel stops with cause 1 and its event; on a
channel that is not idle the enable is held, and takes effect once what was outstanding has completed. START on an
enabled idle channel in register mode applies the staged values and begins the transfer with REMAIN at its length; in
ring mode, or busy, it does nothing. Clearing ENABLE stops the channel at once: nothing is in progress, what was under
way is outstanding, and no other channel changes. Clearing DMA.CTRL.ENABLE stops every channel so. A TAIL below SIZE
is taken; one at or above it stops the channel with cause 4. The oldest late bus error, once its descriptor's status
has been written and not before, latches its address and its descriptor's index, with its event. That a stop leaves no
more than one outstanding mark is the model's choice (assumption 15) (spec/18_dma_engine.md). -/
def Obligations.DmaChannelsAreEnabledStartedAndStopped : Prop :=
  let stop := fun (n cause : Nat) (s : State) => sqSet (Reg.dma n 0x0C) [6] (s.setDch n { s.dch n with cause := cause })
  let on := fun (n : Nat) (s : State) => if chCfgOk s n = true then s.wrb (Reg.dma n 4) 0 true else stop n 1 s
  (∀ (s : State) (m : Master) (n : Fin 128) (v : BitVec 64), reaches s m true (Reg.dma n 4) = true → chEnabled s n = false →
    (chIdle s n = true → exec (.channelEnable m n .word v) s = .next (on n s)) ∧
    (chIdle s n = false → exec (.channelEnable m n .word v) s = .next (s.setDch n { s.dch n with heldEnable := true }))) ∧
  (∀ (s : State) (m : Master) (n : Fin 128) (v : BitVec 64), reaches s m true (Reg.dma n 4) = true → chEnabled s n = true →
    v.getLsbD 0 = true →
    (chRing s n = false → chIdle s n = true →
      let t := chApply n s
      exec (.startDma m n .word v) s = .next ((t.wrn (Reg.dma n 0x24) (t.rdf (Reg.dma n 0x1C) 0 24)).modDch n fun x => { x with
        cur := some ⟨t.rd (Reg.dma n 0x14), t.rd (Reg.dma n 0x18), t.rdf (Reg.dma n 0x1C) 0 24, 1, 0#32, 0#32,
          t.rd (Reg.dma n 0x20) ||| 0x200#32⟩
        regMode := true, lines := 0, xfer := 0, err := none })) ∧
    (chRing s n = true ∨ chIdle s n = false → exec (.startDma m n .word v) s = .next s)) ∧
  (∀ (s : State) (m : Master) (n : Fin 128) (v : BitVec 64), reaches s m true (Reg.dma n 4) = true →
    (chEnabled s n = false → exec (.channelDisable m n .word v) s = .next (s.setDch n { s.dch n with heldEnable := false })) ∧
    (chEnabled s n = true → ∃ u, exec (.channelDisable m n .word v) s = .next u ∧ chEnabled u n = false ∧
      (u.dch n).cur = none ∧ (u.dch n).heldEnable = false ∧
      (u.dch n).outstanding = ((s.dch n).cur.isSome || (s.dch n).outstanding || !(s.dch n).late.isEmpty) ∧
      (∀ k, k < 128 → k ≠ n.val → u.dch k = s.dch k ∧ chEnabled u k = chEnabled s k) ∧ u.sqs = s.sqs ∧
      ((s.dch n).cur = none → u.mem = s.mem))) ∧
  (∀ (s : State) (m : Master) (v : BitVec 64), reaches s m true 0x400B0004 = true → ∃ u,
    exec (.dmaDisable m .word v) s = .next u ∧ u.bit 0x400B0004 0 = false ∧
    ∀ k < 128, chEnabled u k = false ∧ (u.dch k).cur = none ∧ (u.dch k).heldEnable = false) ∧
  (∀ (s : State) (n : Fin 128), ((s.dch n).outstanding = false → exec (.heldEnable n) s = .next s) ∧
    ((s.dch n).outstanding = true →
      let t := s.setDch n { s.dch n with outstanding := false, heldEnable := false }
      exec (.heldEnable n) s = .next (if (s.dch n).heldEnable then on n t else t))) ∧
  (∀ (s : State) (m : Master) (n : Fin 128) (v : BitVec 64), reaches s m true (Reg.dma n 0x34) = true →
    exec (.tailWrite m n .word v) s = .next (if v.toNat % 4096 < chSize s n then s.wrn (Reg.dma n 0x34) (v.toNat % 4096)
      else stop n 4 s)) ∧
  (∀ (s : State) (n : Fin 128) (i : Nat) (a : Word) (rest : List (Nat × Word)), (s.dch n).late = (i, a) :: rest →
    ((s.dch n).cur = none ∨ chHead s n ≠ i → exec (.lateErr n) s = .next
      (sqSet (Reg.dma n 0x0C) [5] (((s.modDch n fun x => { x with late := rest }).wr (Reg.dma n 0x38) a).wrn
        (Reg.dma n 0x3C) (2 + 65536 * i)))) ∧
    ((s.dch n).cur.isSome = true → chHead s n = i → exec (.lateErr n) s = .next s)) ∧
  (∀ (s : State) (n : Fin 128), (s.dch n).late = [] → exec (.lateErr n) s = .next s)

/-- DESCRIPTOR_FETCH, TRANSFER_COMPLETE, DESCRIPTOR_COMPLETION and REQUEST_LINE, and what a line moves. A running ring
channel with nothing in progress and a descriptor at HEAD takes it, with no line done, REMAIN at its lines and the
code of the first check it fails; a bus error of the fetch latches its address and stops the channel with cause 2. A
register-mode transfer that moves every byte ends with REMAIN 0 and EOC once its posted writes are delivered; one that
fails a check ends with ERR and its code. A descriptor whose lines are moved gets its status word, with BARRIER after
its posted writes, HEAD steps round the ring, and the next begins or the
channel is free; a bus error of the status stops the channel with cause 3. A channel on an asserted request line moves
its next line; on line 1 it takes one received frame. Every byte of a range lies in one beat, aligned to its size; a
line's byte i comes from source byte i with the swap's bits turned, a fill repeats its word. Which index ERR_INFO
holds for a register-mode transfer is free (assumption 15) (spec/18_dma_engine.md). -/
def Obligations.DmaFetchesMovesAndCompletes : Prop :=
  let take := fun (n : Fin 128) (s : State) => fetchWords n (chSlot s n (chHead s n)) 6 s
  let desc := fun (n : Fin 128) (s : State) => asRequested s n (descOf fun k => ((take n s).1[k]?).getD 0#32)
  let begun := fun (n : Fin 128) (d : Desc) (s : State) => s.modDch n fun x => { x with
    cur := some d, regMode := true, lines := 0, xfer := 0, err := none }
  let delivered := fun (n : Fin 128) (b : Bool) (s : State) =>
    if b then deliverOf (chMaster n) true (deliverOf (chMaster n) false s) else s
  let line := fun (n : Fin 128) (d : Desc) (k : Nat) (s : State) => moveBytes n (chMaster n) d
    (addr32 ((d.src.toNat : Int) + (k : Int) * d.sstride.toInt)) (addr32 ((d.dst.toNat : Int) + (k : Int) * d.dstride.toInt)) d.lineLen s
  (∀ (s : State) (n : Fin 128), chRuns s n = true → chRing s n = true → (s.dch n).cur = none →
    (chEmpty s n = true → exec (.descriptorFetch n) s = .next s) ∧
    (chEmpty s n = false → (take n s).2.1 = none → ∃ u, exec (.descriptorFetch n) s = .next u ∧
      (u.dch n).cur = some (desc n s) ∧ (u.dch n).regMode = false ∧ (u.dch n).lines = 0 ∧ (u.dch n).xfer = 0 ∧
      (u.dch n).err.map (·.1) = (if dmaCheck (chAudio (take n s).2.2 n) (desc n s) = 0 then none
        else some (dmaCheck (chAudio (take n s).2.2 n) (desc n s))) ∧
      u.rd (Reg.dma n 0x24) = BitVec.ofNat 32 (desc n s).lineCnt) ∧
    (∀ a, chEmpty s n = false → (take n s).2.1 = some a → exec (.descriptorFetch n) s = .next
      (chCause n 2 ((chStop n (take n s).2.2).wrn (Reg.dma n 0x38) a)))) ∧
  (∀ (s : State) (n : Fin 128) (d : Desc), chRuns s n = true → (s.dch n).cur = some d → (s.dch n).regMode = true →
    (s.dch n).lines = 0 → (s.dch n).err = none → chReq s n = 0 → d.il = 0 → d.lineCnt = 1 → 0 < d.lineLen →
    (dmaCheck (chAudio s n) d = 0 → (line n d 0 (begun n d s)).2.1 = none → (line n d 0 (begun n d s)).1 = d.lineLen →
      (line n d 0 (begun n d s)).2.2.dch n = (begun n d s).dch n → ∃ u, exec (.transferComplete n) s = .next u ∧
        (u.dch n).cur = none ∧ (u.dch n).regMode = false ∧ u.rd (Reg.dma n 0x24) = 0#32 ∧
        u.sq (Reg.dma n 0x0C) = ((delivered n true (line n d 0 (begun n d s)).2.2).sq (Reg.dma n 0x0C)).event [0]) ∧
    (dmaCheck (chAudio s n) d ≠ 0 → (∀ p ∈ s.bus.toAudio ++ s.bus.toCtl, p.master ≠ chMaster n) → ∃ u, exec (.transferComplete n) s = .next u ∧ (u.dch n).cur = none ∧
      u.rd (Reg.dma n 0x24) = BitVec.ofNat 32 d.lineLen ∧ u.rdf (Reg.dma n 0x3C) 0 16 = dmaCheck (chAudio s n) d ∧
      u.sq (Reg.dma n 0x0C) = (s.sq (Reg.dma n 0x0C)).event [3])) ∧
  (∀ (s : State) (n : Fin 128) (d : Desc), chRuns s n = true → (s.dch n).cur = some d → (s.dch n).regMode = false →
    chReq s n ≠ 0 → chMoved (s.dch n) = true → (s.dch n).err = none → (s.dch n).ahead = none → 0 < d.lineLen →
    let v := delivered n d.barrier s
    let w := writeNow (chMaster n) (chSlot s n (chHead s n) + 0x18) 8 (64 + 65536 * (s.dch n).lines + 4294967296 * (s.dch n).xfer) v
    (w.1 = true → ∃ u, exec (.descriptorCompletion n) s = .next u ∧ (u.dch n).cur = none ∧
      u.rd (Reg.dma n 0x24) = 0#32 ∧ u.rd (Reg.dma n 0x30) = BitVec.ofNat 32 ((chHead s n + 1) % chSize v n)) ∧
    (w.1 = false → exec (.descriptorCompletion n) s = .next
      (chCause n 3 ((chStop n w.2).wrn (Reg.dma n 0x38) (chSlot s n (chHead s n) + 0x18))))) ∧
  (∀ (s : State) (n : Fin 128) (d : Desc), (s.dch n).cur = some d → (s.dch n).regMode = false →
    (chReq s n = 0 ∨ lineAsserted s (chReq s n) = false → exec (.requestLine n) s = .next s) ∧
    (chRuns s n = true → 2 ≤ chReq s n → lineAsserted s (chReq s n) = true → chMoved (s.dch n) = false → d.il = 0 →
      let r := line n d (s.dch n).lines s
      exec (.requestLine n) s = .next (chRemain n (r.2.2.modDch n fun y => { y with
        lines := if r.1 = d.lineLen then y.lines + 1 else y.lines
        xfer := y.xfer + r.1
        err := r.2.1.map fun e => (e.1, BitVec.ofNat 32 e.2) }))) ∧
    (∀ f rest, chRuns s n = true → chReq s n = 1 → s.net.hostRing = f :: rest → chMoved (s.dch n) = false →
      ∃ u, exec (.requestLine n) s = .next u ∧ (u.dch n).lines = 1 ∧ (u.dch n).xfer = f.len)) ∧
  (∀ (mode : Nat) (src : List Byte) (i : Nat) (h : i < src.length),
    (lineBytes mode none src)[i]? = some ((src[swapAt mode i]?).getD 0#8) ∧ (lineBytes mode none src).length = src.length) ∧
  (∀ (pat : Word) (n i : Nat), i < n → (fillBytes pat n)[i]? = some ((pat >>> (8 * (i % 4))).setWidth 8)) ∧
  (∀ (a n i : Nat), i < n → ∃ b ∈ beats a n, b.1 = a + b.2.2 ∧ b.2.2 ≤ i ∧ i < b.2.2 + b.2.1 ∧
    (touchesRegs a n = false → b.1 % b.2.1 = 0 ∧ b.2.2 + b.2.1 ≤ n))

/-- WINDOW_RESULT, RELAY, LM_ACK, LM_LEARN and the silent test's START, ABORT and phase ends. At the end of a
running monitor's window, and not before nor twice, its result keeps |Z|, the phase, the amplitude and the class of the
window's four sums; a current below one LSB gives |Z| 0xFFFFFFFF and phase 0, a |Z| above 32 bits is open. In WATCH a second result running out of window declares a fault; in LEARN the sixteenth
result makes the means the baseline, or sets LEARN_FAIL. A due relay is driven with its event at the hinge after. LM_ACK returns to WATCH
each named monitor in FAULT whose latest result is IN; LM_LEARN marks each named one in WATCH or LEARN. START with
PHASE IDLE or DONE, in SERVICE or watch, claims each valid slot's zone, sets ABORTED alone where the buffers do not
fit, and is ignored otherwise; ABORT marks a running pass. No phase ends before its time. The end of AMBIENT gives each reference its level and each
slot of a valid reference its own, clamped; the end of PREROLL zeroes the buffers; the end of ACCUM fades every live
slot over 480 frames; the end of TRANSFORM forms the results and sets DONE. What |Z|, the decibels and the response
round to is open; that START sets ABORTED where the buffers do not fit stands beside the register table, in no
numbered rule (spec/19_line_supervision_and_silent_test.md). -/
def Obligations.LinesAreJudgedAndTheSilentTestRuns : Prop :=
  let res := fun (n z : Nat) (ph amp : Int) (cls : Nat) (s : State) => s.setMon n { s.mon n with
    cls := cls, prevOut := decide (cls ≠ 0), formed := true, count := ((s.mon n).count + 1) % 256, z := BitVec.ofNat 32 z
    ph := (ph % 65536).toNat, amp := (amp % 65536).toNat }
  let sumsq := fun (re im : Int) => (re * re + im * im).toNat
  (∀ (s : State) (n : Fin 8), s.enabled 12 = false ∨ (s.mon n).st = .off ∨ (s.mon n).formed = true ∨
    (∀ a, (s.mon n).age = some a → a < 15000) → exec (.windowResult n) s = .next s) ∧
  (∀ (s : State) (n : Fin 8) (a : Nat), s.enabled 12 = true → (s.mon n).st ≠ .off → (s.mon n).formed = false →
    (s.mon n).age = some a → 15000 ≤ a →
    let x := s.mon n
    let i2 := sumsq x.ic x.is
    let v2 := sumsq x.vc x.vs
    let low := i2 < (512 * windowUnit) ^ 2
    let z := if low then 0xFFFFFFFF else zMag (s.rd (Reg.lmZscale n)).toNat v2 i2
    let ph := if low then 0 else phase64 (x.vc * x.ic + x.vs * x.is) (x.vs * x.ic - x.vc * x.is)
    let amp := db64 57 v2 ((2 ^ 24 * windowUnit) ^ 2)
    let cls := classify s n z ph amp (decide (v2 = 0))
    let t := res n z ph amp cls s
    let l := x.learned ++ [(z, ph, decide (cls = 4))]
    (z ≤ 0xFFFFFFFF → x.st = .fault ∨ x.st = .watch ∧ ¬ (cls ≠ 0 ∧ x.prevOut = true) →
      exec (.windowResult n) s = .next t) ∧
    (z ≤ 0xFFFFFFFF → x.st = .watch → cls ≠ 0 → x.prevOut = true → ∃ u, exec (.windowResult n) s = .next u ∧
      (u.mon n).st = .fault ∧ (u.mon n).cause = cls ∧ (u.mon n).palarm = x.palarm + 1#16 ∧
      u.sq Reg.senseEvt = (s.sq Reg.senseEvt).event [0] ∧ u.bit Reg.faultStat 0 = true ∧ u.bit Reg.faultStat 2 = true ∧
      (u.mon n).relayDue = (decide (1 ≤ cls ∧ cls ≤ 3) && s.bit (Reg.lmCfg n) 22 && s.bit (Reg.lmCfg n) (24 + (cls - 1)))) ∧
    (z ≤ 0xFFFFFFFF → x.st = .learn → x.learned.length < 15 →
      exec (.windowResult n) s = .next (t.setMon n { t.mon n with learned := l })) ∧
    (z ≤ 0xFFFFFFFF → x.st = .learn → 15 ≤ x.learned.length → ∃ u, exec (.windowResult n) s = .next u ∧
      (u.mon n).st = .watch ∧ u.sq Reg.senseEvt = (s.sq Reg.senseEvt).event [if learnOk l = true then 2 else 3] ∧
      u.rd (Reg.lmBaseZ n) = (if learnOk l = true then
        BitVec.ofNat 32 (scaleOpen 31 ((l.foldl (fun a x => a + x.1) 0 : Nat) : Int) 1 16).toNat else s.rd (Reg.lmBaseZ n))) ∧
    (0xFFFFFFFF < z → ∃ u, exec (.windowResult n) s = .next u ∧ (u.mon n).z = s.draw.1 ∧
      (u.mon n).count = (x.count + 1) % 256 ∧ (u.mon n).formed = true)) ∧
  (∀ (s : State) (n : Fin 8), ((s.mon n).relayDue = false ∨ (s.mon n).age = some 15000 → exec (.relayDrive n) s = .next s) ∧
    ((s.mon n).relayDue = true → (s.mon n).age ≠ some 15000 → ∃ u, exec (.relayDrive n) s = .next u ∧ u.bit Reg.relay n = true ∧
      (u.mon n).relayDue = false ∧ u.sq Reg.senseEvt = (s.sq Reg.senseEvt).event [1])) ∧
  (∀ (s : State) (m : Master) (v : BitVec 64), reaches s m true 0x400C0028 = true → ∃ u, exec (.lmAck m .word v) s = .next u ∧
    u.regs = s.regs ∧ u.sqs = s.sqs ∧ ∀ k, u.mon k = if k < 8 ∧ v.getLsbD k = true ∧ (s.mon k).st = .fault ∧ (s.mon k).cls = 0 then
      { s.mon k with st := .watch, prevOut := false } else s.mon k) ∧
  (∀ (s : State) (m : Master) (v : BitVec 64), reaches s m true 0x400C002C = true → ∃ u, exec (.lmLearn m .word v) s = .next u ∧
    u.regs = s.regs ∧ u.sqs = s.sqs ∧ ∀ k, u.mon k = if k < 8 ∧ v.getLsbD k = true ∧ ((s.mon k).st = .watch ∨ (s.mon k).st = .learn) then
      { s.mon k with learnDue := true } else s.mon k) ∧
  (∀ (s : State) (m : Master) (v : BitVec 64), reaches s m true 0x400C0400 = true →
    let may := s.enabled 12 = true ∧ (s.vt.phase = 0 ∨ s.vt.phase = 6) ∧ (s.modes.mode = .service ∨ s.modes.mode = .watch) ∧
      s.modes.sleep = .awake
    let tooBig := (validRefs s).any fun r => decide (0x800000 < vtBuffer s r + 0x80000)
    (may → tooBig = false → exec (.passStart m .word v) s = .next ((validSlots s).foldl (fun s k =>
      claimWrite (BitVec.ofNat 32 (slotZone s k + vtClaimant s * 256 + vtLevel s * 4096 + 65536))
        ((s.wrf (Reg.slotWord k 8) 16 4 0).setVtSlot k { VtSlot.none with live := true }))
      (s.modVt fun x => { x with
        phase := 1, hinges := 0, frame := 0, periods := 0, slots := [], abortDue := false, refBad := [], sumSq := []
        releaseDue := false }))) ∧
    (may → tooBig = true → exec (.passStart m .word v) s = .next (sqSet Reg.vtEvt [1] s)) ∧
    (¬ may → v.getLsbD 1 = false → exec (.passStart m .word v) s = .next s) ∧
    (passRuns s = true → exec (.abort m .word v) s = .next (s.modVt fun x => { x with abortDue := true })) ∧
    (passRuns s = false → v.getLsbD 0 = false → exec (.abort m .word v) s = .next s)) ∧
  (∀ s : State, s.vt.phase = 2 → 16000 ≤ s.vt.hinges → ∃ u, exec .ambientEnd s = .next u ∧ u.vt.phase = 3 ∧ u.vt.frame = 0 ∧
    (∀ r ∈ validRefs s, u.rd (Reg.vtAmb r) = BitVec.ofNat 32 (db64 53 (tget 0 s.vt.sumSq r) (48000 * 2 ^ 48) % 65536).toNat) ∧
    ∀ k ∈ validSlots s, refValid s (slotRef s k) = true →
      let want := sfld (u.rd (Reg.vtAmb (slotRef s k))) 0 16 + sfld (s.rd Reg.vtParam) 0 16 - slotGBase s k
      let lvl := clampInt (-6144) (sfld (s.rd Reg.vtParam) 16 16) want
      u.rd (Reg.slotWord k 8) = wsetBit (setFld (s.rd (Reg.slotWord k 8)) 0 16 (lvl % 65536).toNat) 19 (decide (lvl ≠ want)) ∧
      (u.vtSlot k).amp = ofDb lvl) ∧
  (∀ s : State, s.vt.phase = 3 → 131071 ≤ s.vt.frame → ∃ u, exec .prerollEnd s = .next u ∧ u.vt = { s.vt with phase := 4, periods := 0 } ∧
    ∀ a, memGet u.mem a = if (validRefs s).any (fun r => decide (0x30000000 + vtBuffer s r ≤ a ∧ a < 0x30000000 + vtBuffer s r + 0x80000))
      then 0#8 else memGet s.mem a) ∧
  (∀ s : State, s.vt.phase = 4 → vtPeriods s ≤ s.vt.periods → ∃ u, exec .accumEnd s = .next u ∧ u.vt.phase = 5 ∧
    ∀ k < 16, u.vtSlot k = if (s.vtSlot k).live = true then { s.vtSlot k with fade := some (480, 480) } else s.vtSlot k) ∧
  (∀ s : State, s.vt.phase = 5 → exec .transformEnd s = .next
    (let t := (validRefs s).foldl (fun s r => transformRef r s) s
     sqSet Reg.vtEvt [0] ((((validSlots t).filter fun k => (t.vtSlot k).live).foldl (fun s k => slotResult k s) t).modVt fun x =>
       { x with phase := 6, releaseDue := true }))) ∧
  (∀ s : State, (s.vt.phase ≠ 2 ∨ s.vt.hinges < 16000 → exec .ambientEnd s = .next s) ∧
    (s.vt.phase ≠ 3 ∨ s.vt.frame < 131071 → exec .prerollEnd s = .next s) ∧
    (s.vt.phase ≠ 4 ∨ s.vt.periods < vtPeriods s → exec .accumEnd s = .next s) ∧ (s.vt.phase ≠ 5 → exec .transformEnd s = .next s))

/-- DC_SENSE_SAMPLE, RELEARN, GAIN_CHANGE, CONTACT_SCAN, CONTACT_EVENT, FORCE and CLEAR. A sample of a line whose bias
is on moves its plug state: 200 uA begins INSERTING, 50 such samples make PRESENT, 8 of 10 mA make SHORT, 8 below 200
uA make ABSENT; a change posts its event. In PRESENT the 16th sample fixes I0 as the mean; then a current that spells
no button posts a code error, and one held for 8 samples becomes the code, the presses counted. RELEARN starts afresh
and releases the buttons. A waiting gain is applied where the sample's sign changes, or 480 frames after its hinge. A
scan of an enabled contact accepts a class on its
third run: the count advances, a class of 2 or 3 with its FAULT bit sets the latch, an ALARM contact's ACTIVE is due,
and its WAKE bit asks for a wake in sleep. A counter that advanced makes one CONTACT event. FORCE and CLEAR are SC
writes that land later: FORCE sets FAULT_N's latch; CLEAR clears it unless the summary is 1, a contact holds a faulted
class, or FORCE comes with it, when CLR_REFUSED is set. The events of a plug change, what the CONTACT record holds and
a latch record that FORCE leaves without a reason are the model's choices (assumptions 10 and 11)
(spec/20_mic_lines_contacts_and_local_ports.md). -/
def Obligations.MicrophonesContactsAndTheFaultLatch : Prop :=
  (∀ (s : State) (x : Fin 2) (i : Nat), s.bit (Reg.micDc x) 0 = false → exec (.dcSenseSample x i) s = .next s) ∧
  (∀ (s : State) (x : Fin 2) (i : Nat), s.bit (Reg.micDc x) 0 = true →
    let p := plugNext i { s.mic x with latest := i }
    let t := summaryCheck (s.setMic x p)
    ((s.mic x).plug ≠ .present ∨ p.plug ≠ .present → exec (.dcSenseSample x i) s =
      .next (if p.plug = (s.mic x).plug then t else micPost x (plugBits (s.mic x).plug p.plug) t)) ∧
    ((s.mic x).plug = .present → p.plug = .present →
      (p.learnt = false → p.i0n < 15 → p.type = 0 → exec (.dcSenseSample x i) s =
        .next (summaryCheck (s.setMic x { p with i0n := p.i0n + 1, i0sum := p.i0sum + i }))) ∧
      (p.learnt = false → 15 ≤ p.i0n → ∃ u, exec (.dcSenseSample x i) s = .next u ∧
        u.mic x = { p with i0n := 0, i0sum := 0, i0 := (scaleOpen 40 ((p.i0sum + i : Nat) : Int) 1 16).toNat, learnt := true }) ∧
      (p.learnt = true → p.type = 0 → exec (.dcSenseSample x i) s = .next t) ∧
      (p.learnt = true → p.type ≠ 0 → buttonCode ((i : Int) - p.i0) = none →
        exec (.dcSenseSample x i) s = .next (micPost x 16 (summaryCheck (s.setMic x { p with candRun := 0 })))) ∧
      (∀ c, p.learnt = true → p.type ≠ 0 → buttonCode ((i : Int) - p.i0) = some c → p.cand = c → 7 ≤ p.candRun → c ≠ p.code →
        ∃ u, exec (.dcSenseSample x i) s = .next u ∧
          u.mic x = { p with candRun := 8, code := c, presses := countPresses p.code c p.presses }) ∧
      (∀ c, p.learnt = true → p.type ≠ 0 → buttonCode ((i : Int) - p.i0) = some c → p.cand = c → 0 < p.candRun → p.candRun < 7 →
        exec (.dcSenseSample x i) s = .next (summaryCheck (s.setMic x { p with candRun := p.candRun + 1 }))))) ∧
  (∀ (m : MicLine) (i : Nat), (m.plug = .absent → 200 ≤ i → i < 10000 → (plugNext i m).plug = .inserting ∧ (plugNext i m).runHi = 1) ∧
    (m.plug = .inserting → 200 ≤ i → i < 10000 → 49 ≤ m.runHi → (plugNext i m).plug = .present) ∧
    (m.plug ≠ .short → 10000 ≤ i → 7 ≤ m.runBig → (plugNext i m).plug = .short) ∧
    (m.plug = .inserting → i < 200 → (plugNext i m).plug = .absent) ∧
    (m.plug = .present → i < 200 → 7 ≤ m.runLo → (plugNext i m).plug = .absent ∧ (plugNext i m).code = 0) ∧
    (m.plug = .short → i < 10000 → 7 ≤ m.runLo → (plugNext i m).plug = .absent)) ∧
  (∀ (s : State) (m : Master) (x : Fin 2) (v : BitVec 64), reaches s m true (Reg.micDc x) = true → v.getLsbD 0 = s.bit (Reg.micDc x) 0 →
    let t := summaryCheck (s.wr (Reg.micDc x) (v.setWidth 32 &&& 7#32))
    exec (.relearn m x .word v) s = .next (if micPlug t x = .present then
      micPost x (if (s.mic x).type ≠ 0 then 4 else 0) (t.setMic x (s.mic x).release) else t)) ∧
  (∀ (s : State) (x : Fin 2), ((s.mic x).gainWait = false ∨ (s.mic x).gainDue = false → exec (.gainChange x) s = .next s) ∧
    ((s.mic x).gainWait = true → (s.mic x).gainDue = true → exec (.gainChange x) s = .next (s.setMic x { s.mic x with
      gain := (s.mic x).gainTo, gainWait := false, gainDue := false }))) ∧
  (∀ (m : MicLine) (g : Nat), g ≠ m.gain → (m.gainWait = true → m.gainTo ≠ g) →
    gainAsked g m = { m with gainWait := true, gainTo := g, gainAge := 0, gainDue := false }) ∧
  (∀ (m : MicLine) (neg : Bool), m.gainWait = true → (gainFrame neg m).gain = m.gain ∧
    (gainFrame neg m).gainDue = (m.gainDue || decide (neg ≠ m.gainNeg ∨ 480 ≤ m.gainAge + 1))) ∧
  (∀ (s : State) (n : Fin 8) (c : Fin 4), (s.power.aonReady = false ∨ s.clk.slowGone = true ∨ ctEnabled s n = false →
      exec (.contactScan n c) s = .next s) ∧
    (s.power.aonReady = true → s.clk.slowGone = false → ctEnabled s n = true →
      (c.val = (s.contact n).cls → exec (.contactScan n c) s = .next (s.setContact n { s.contact n with cand := c, run := 0 })) ∧
      (c.val ≠ (s.contact n).cls → (s.contact n).cand ≠ c.val → exec (.contactScan n c) s = .next (s.setContact n { s.contact n with
        cand := c, run := 1 })) ∧
      (c.val ≠ (s.contact n).cls → (s.contact n).cand = c.val → (s.contact n).run = 1 → exec (.contactScan n c) s = .next (s.setContact n { s.contact n with
        run := 2 })) ∧
      (c.val ≠ (s.contact n).cls → (s.contact n).cand = c.val → 2 ≤ (s.contact n).run → ∃ u, exec (.contactScan n c) s = .next u ∧
        (u.contact n).cls = c ∧ (u.contact n).run = 0 ∧ (u.contact n).cnt = (s.contact n).cnt + 1#16 ∧
        (2 ≤ c.val → (s.rd (Reg.ctCfg n)).getLsbD (8 + c) = true → u.bit Reg.faultStat 0 = true ∧ u.bit Reg.faultStat 3 = true) ∧
        (c.val = 1 → ctFunc s n = 1 → s.modes.sleep = .awake → (u.contact n).alarmDue = true) ∧
        (s.modes.sleep = .asleep → (s.rd (Reg.ctCfg n)).getLsbD (4 + c) = true → u.modes.wake = true ∧ u.modes.sleep = .waking)))) ∧
  (∀ (s : State) (n : Fin 8), ((s.contact n).cnt = (s.contact n).seen → exec (.contactEvent n) s = .next s) ∧
    ((s.contact n).cnt ≠ (s.contact n).seen → ∃ u, exec (.contactEvent n) s = .next u ∧
      u.contact n = { s.contact n with seen := (s.contact n).cnt, seenCls := (s.contact n).cls } ∧
      u.sq Reg.ctEvt = (s.sq Reg.ctEvt).event [n])) ∧
  (∀ (s : State) (m : Master) (v : BitVec 64), reaches s m true 0x40010240 = true → s.bus.sc = none →
    let t := fun (k : BitVec 64) => s.modBus fun b => { b with sc := some ⟨0x40010240, (v ||| k).setWidth 32 &&& 3#32⟩ }
    exec (.forceLatch m .word v) s = .next (t 2#64) ∧ exec (.clearLatch m .word v) s = .next (t 1#64) ∧
    (s.clk.slowGone = false → ∃ u, exec .scWriteLanded (t 2#64) = .next u ∧ u.bit Reg.faultStat 0 = true) ∧
    (s.clk.slowGone = false → ∃ u, exec .scWriteLanded (t 1#64) = .next u ∧
      ((faultSum s ≠ 0 ∨ (List.range 8).any (contactFault s) = true ∨ v.getLsbD 1 = true →
        u.bit Reg.faultStat 0 = true ∧ u.bit Reg.faultStat 5 = true) ∧
       (faultSum s = 0 → (List.range 8).any (contactFault s) = false → v.getLsbD 1 = false → u.rd Reg.faultStat = 0#32))))

/-- KEEP_CMD, LINE_PROGRAM_DONE, the seven script operations, PLAN_LOAD, FW_GO, BUCKET_REFILL and JOURNAL_LINE_WRITE.
KEEP_CMD with GO offers the buffer's line to a writable partition; while BUSY it is ignored with its event. A line
that reads back stands in the Keep and its port is free; one that does not is tried once more, then fails. A ready
player's operation: PLAY, SPELL and LIST start the first clip of theirs, SPELL with a digit above 9 plays nothing and
sets SPELL_BAD, GAP counts its frames, JUMP goes to its target, COUNT times or always, TONE sets the generator's run
bit in its shadow and its cycles, STOP ends the script; a bad clip sets its event and takes no frames; a word outside
memory or an unassigned OP, and the sixteenth operation in a row without frames, stop the player. A player that is not
ready is left alone. The plan loader sets LOADED with the entries, the nodes and the build. FW_GO makes a record, but
refuses a SOURCE below 32. The bucket gains 16, up to 64, where 250 hinges have passed. The journal writes a line of
two records, or of one that has waited 16000 hinges and an empty slot. That a script error sets DONE with its event, how a counted JUMP ends and that a row starts at once are
the model's choices (assumption 12) (spec/21_keep_messages_and_event_log.md). -/
def Obligations.KeepLinesScriptsAndRecordsAdvance : Prop :=
  let stop := fun (bits : List Nat) (p : Nat) (s : State) => sqSet Reg.msgEvt bits
    ((clearBoth Reg.msgRun p ((s.lanePut (0x240 + p) 0#32).setPlayer p Player.off)).wrn Reg.msgEvtSrc p)
  let meets := fun (s : State) (p op : Nat) (w : Word) => (s.player p).ready = true ∧ scriptWord s p 0 = some w ∧ fld w 28 4 = op
  let good := fun (s : State) (p k : Nat) => clipBad s p k = false ∧ (clipAt s p k).frames ≠ 0
  let plays := fun (s : State) (p words ops k : Nat) (ks : List Nat) (u : State) => u = { s with msg := u.msg } ∧
    u.player p = { s.player p with
      word := (s.player p).word + words, ops := (s.player p).ops + ops, st := .play, clip := k, left := (clipAt s p k).frames, queue := ks
      failed := false }
  let inMem := fun (a n : Nat) => (isHearth a n || isKeep a n) = true
  (∀ (s : State) (m : Master) (v : BitVec 64), reaches s m true Reg.keepCmd = true →
    ((s.keepLine 3).isSome = true → exec (.keepCmd m .word v) s = .next (sqSet Reg.keepEvt [4] s)) ∧
    ((s.keepLine 3).isSome = false → v.getLsbD 31 = false →
      exec (.keepCmd m .word v) s = .next (s.wr Reg.keepCmd (v.setWidth 32 &&& 0x1FFFF#32))) ∧
    ((s.keepLine 3).isSome = false → v.getLsbD 31 = true → ∃ u, exec (.keepCmd m .word v) s = .next u ∧
      let off := 64 * (v.toNat % 131072)
      (keepPart off = .user → u.keepLine 3 = some ⟨off, (List.range 16).flatMap fun i => leBytes 4 (s.rd (Reg.keepBuf i)).toNat, false⟩) ∧
      (keepPart off ≠ .user → u.keepLine 3 = none ∧ u.sq Reg.keepEvt = (s.sq Reg.keepEvt).event [1]))) ∧
  (∀ s : State, s.msg.prog = none → ∀ ok, exec (.lineProgramDone ok) s = .next s) ∧
  (∀ (s : State) (p : Nat) (l : KeepLine), s.msg.prog = some p → s.keepLine p = some l →
    (∃ u, exec (.lineProgramDone true) s = .next u ∧ u.keepLine p = none ∧
      let t := keepServe (setKeepLine p none { s.mwrBytes (keepBase + l.off) l.bytes with msg := { s.msg with prog := none } })
      (p ≠ 3 → u = t) ∧ (p = 3 → u = sqSet Reg.keepEvt [0] (t.wrn Reg.keepStat 0))) ∧
    (l.retried = false → exec (.lineProgramDone false) s = .next (setKeepLine p (some { l with retried := true }) s)) ∧
    (l.retried = true → ∃ u, exec (.lineProgramDone false) s = .next u ∧ u.keepLine p = none ∧
      (p = 3 → u.sq Reg.keepEvt = (s.sq Reg.keepEvt).event [2] ∧ u.bit Reg.keepStat 1 = true))) ∧
  (∀ (s : State) (p : Fin 16), ((s.player p).ready = false → ∀ c ∈ [Instr.playOp p, .gapOp p, .spellOp p, .listOp p, .toneOp p, .jumpOp p, .stopOp p],
      exec c s = .next s) ∧
    ((s.player p).ready = true → (scriptWord s p 0 = none ∨ ∃ w, scriptWord s p 0 = some w ∧ 7 ≤ fld w 28 4) →
      ∀ c ∈ [Instr.playOp p, .gapOp p, .spellOp p, .listOp p, .toneOp p, .jumpOp p, .stopOp p], exec c s = .next (stop [0, 2] p s))) ∧
  (∀ (s : State) (p : Fin 16) (w : Word),
    (meets s p 0 w → exec (.stopOp p) s = .next (stop [0] p s)) ∧
    (meets s p 1 w → good s p (fld w 0 12) → ∃ u, exec (.playOp p) s = .next u ∧ plays s p 1 0 (fld w 0 12) [] u) ∧
    (meets s p 1 w → clipBad s p (fld w 0 12) = true → ∃ u, exec (.playOp p) s = .next u ∧
      u.sq Reg.msgEvt = (s.sq Reg.msgEvt).event [3] ∧ u.player p = { s.player p with word := (s.player p).word + 1, queue := [] }) ∧
    (meets s p 2 w → ∃ u, exec (.gapOp p) s = .next u ∧ u = { s with msg := u.msg } ∧
      u.player p = { s.player p with word := (s.player p).word + 1, st := .gap, left := fld w 0 24 }) ∧
    (∀ a, meets s p 3 w → scriptWord s p 1 = some a → (s.player p).ops < 15 →
      let n := if w.getLsbD 27 then 16 else 8
      let v := s.mrd a.toNat (n / 2)
      inMem a.toNat (n / 2) →
      (((List.range n).any fun i => decide (9 < v / 16 ^ i % 16)) = true → ∃ u, exec (.spellOp p) s = .next u ∧
        u.sq Reg.msgEvt = (s.sq Reg.msgEvt).event [5] ∧
        u.player p = { s.player p with word := (s.player p).word + 2, ops := (s.player p).ops + 1 }) ∧
      (((List.range n).any fun i => decide (9 < v / 16 ^ i % 16)) = false → ∀ k ks,
        (if w.getLsbD 26 = true ∧ bcdValue n v ≤ 99 then [fld w 0 12 + bcdValue n v] else (spellDigits n v).map fun d => fld w 0 12 + d) = k :: ks →
        good s p k → ∃ u, exec (.spellOp p) s = .next u ∧ plays s p 2 1 k ks u)) ∧
    (∀ a k ks, meets s p 4 w → scriptWord s p 1 = some a → (s.player p).ops < 15 → inMem a.toNat (4 * fld w 20 8) →
      (if w.getLsbD 16 = true then dropZeros (fld w 0 12) ((List.range (fld w 20 8)).map fun i => s.mrd (a.toNat + 4 * i) 4 % 4096)
        else (List.range (fld w 20 8)).map fun i => s.mrd (a.toNat + 4 * i) 4 % 4096) = k :: ks →
      good s p k → ∃ u, exec (.listOp p) s = .next u ∧ plays s p 2 1 k ks u) ∧
    (meets s p 5 w → ∃ u, exec (.toneOp p) s = .next u ∧ (u.gen (fld w 0 6)).cycles = fld w 8 8 ∧
      tget none u.wbPend (runBit (fld w 0 6)).1 = some (wsetBit (shadowOf s (runBit (fld w 0 6)).1) (runBit (fld w 0 6)).2 true) ∧
      u.player p = { s.player p with word := (s.player p).word + 1, st := .tone, toneGen := fld w 0 6, toneRan := false }) ∧
    (meets s p 6 w → (s.player p).ops < 15 → ∃ u, exec (.jumpOp p) s = .next u ∧ u = { s with msg := u.msg } ∧
      let x := { s.player p with ops := (s.player p).ops + 1 }
      u.player p = if fld w 16 8 = 0 then { x with word := fld w 0 12 }
        else if (tget none x.jumps x.word).getD (fld w 16 8) = 0 then { x with word := x.word + 1, jumps := tset none x.jumps x.word none }
        else { x with word := fld w 0 12, jumps := tset none x.jumps x.word (some ((tget none x.jumps x.word).getD (fld w 16 8) - 1)) }) ∧
    (meets s p 6 w → 15 ≤ (s.player p).ops → exec (.jumpOp p) s = .next (stop [0, 2] p s))) ∧
  (∀ s : State, (s.msg.loadDue = false → exec .planLoad s = .next s) ∧
    (s.msg.loadDue = true → ∃ u, exec .planLoad s = .next u ∧ u.msg.loadDue = false ∧
      let b := planBytes (if s.modes.booting && decide (s.ward.stage = 7) then bootEnables s else s)
      u.rd Reg.planStat = BitVec.ofNat 32 (1 + (planEntriesOf b).length * 65536) ∧ u.rd Reg.planBuild = BitVec.ofNat 32 (imgBuild b) ∧
      u.rd Reg.planNodes = BitVec.ofNat 32 ((planEntriesOf b).filter fun e => fld e.1 28 4 == 3).length)) ∧
  (∀ (s : State) (m : Master) (v : BitVec 64), reaches s m true 0x400E0220 = true →
    let w := fun i => s.rd (Reg.evtFwRec i)
    exec (.fwGo m .word v) s = .next (if fld (w 0) 0 6 < 32 then sqSet Reg.evtEvt [4] s
      else makeRecord (fld (w 0) 0 6) (fld (w 0) 8 3) (fld (w 0) 16 16) (dataWords (w 4) (w 5) (w 6)) s)) ∧
  (∀ s : State, exec .bucketRefill s = .next (if s.enabled 14 = true ∧ 250 ≤ s.evt.hinges then
    s.modEvt fun e => { e with bucket := min 64 (e.bucket + 16), hinges := e.hinges - 250 } else s)) ∧
  (∀ s : State, (s.evt.jwait = [] ∨ (s.keepLine 2).isSome = true ∨ s.enabled 14 = false ∨
      s.evt.jwait.length < 2 ∧ s.evt.jage < 16000 → exec .journalLineWrite s = .next s) ∧
    (∀ r rest, s.evt.jwait = r :: rest → rest ≠ [] ∨ 16000 ≤ s.evt.jage → s.keepLine 2 = none → s.enabled 14 = true →
      s.evt.jline < 16384 →
      let rs := journalForm s.evt.lap r :: (rest.take 1).map (journalForm s.evt.lap)
      let line := journalForm s.evt.lap r ++ (if rest = [] then emptySlot else journalForm s.evt.lap (rest.headD []))
      exec .journalLineWrite s = .next (rs.foldl (fun s r => tapRecord r s) (keepServe
        (setKeepLine 2 (some ⟨0x400000 + 64 * s.evt.jline, line, false⟩) (s.modEvt fun e => { e with
          jwait := rest.drop 1, jline := (e.jline + 1) % 16384, lap := if e.jline = 16383 then (e.lap + 1) % 256 else e.lap
          jage := 0 }))))))

/-- REQUEST_SERVICE, REQUEST_WATCH, REQUEST_SLEEP, REQUEST_EVACUATE and REQUEST_EXIT, and what a hinge makes of the
queued request. A write of SYS.MODE_REQ that reaches it queues its value, with whether the dictionary engine wrote it,
in place of a request that waits; after sleep entry has begun it changes nothing. At the mode-change step of a hinge of
a part that is awake, with no contact or autonomy cause due, the request is used up: EVACUATE and EXIT of another master
are refused with SOURCE, a value other than 1 to 5 with CODE, a request that the mode at hand does not take with FROM,
SLEEP with ALARM while an alarm contact stands and with WAKE while WAKE is high or a wake is pending; a refusal keeps the
mode, puts its cause in SYS.MODE_STAT and sets REFUSED. A request that is taken leads to VIGIL watch, SERVICE, the
sleep entry or EVACUATE, and sets CHANGE where it changes the mode (spec/22_operating_modes.md). -/
def Obligations.ModeRequestsAreQueuedAndJudged : Prop :=
  let quiet := fun (s : State) => s.modes.sleep = .awake ∧ s.modes.booting = false ∧ s.modes.alarmInSleep = false ∧
    (s.tenant 0).lost = false ∧ ∀ n < 8, (s.contact n).alarmDue = false ∧ (s.contact n).silenceDue = false
  let stands := fun (s : State) => ∃ n < 8, ctEnabled s n = true ∧ ctFunc s n = 1 ∧ (s.contact n).cls = 1 ∧ (s.contact n).silenced = false
  let refused := fun (s : State) (k : Nat) => (modeStep s).modes = { s.modes with
      request := none, autonomy := false, booting := false, alarmInSleep := false } ∧
    (modeStep s).rd Reg.modeStat = setFld (s.rd Reg.modeStat) 0 3 k ∧ (modeStep s).sq Reg.modeEvt = (s.sq Reg.modeEvt).event [1]
  let entered := fun (s : State) (m : Mode) => (modeStep s).modes.mode = m ∧ (modeStep s).modes.request = none ∧
    (modeStep s).modes.sleep = .awake
  (∀ p ∈ ([(.requestService, 1), (.requestWatch, 2), (.requestSleep, 3), (.requestEvacuate, 4), (.requestExit, 5)] :
      List ((Master → Instr) × Nat)), ∀ (s : State) (m : Master), reaches s m true 0x40000404 = true →
    exec (p.1 m) s = .next (if s.modes.sleep = .awake then
      { s with modes := { s.modes with request := some (p.2, m == .dict) } } else s)) ∧
  (∀ (s : State) (v : Nat) (d : Bool), quiet s → s.modes.request = some (v, d) →
    (d = false → v = 4 ∨ v = 5 → refused s 1) ∧
    (v = 0 ∨ 6 ≤ v → refused s 5) ∧
    (v = 2 ∧ s.modes.mode ≠ .service ∨ (v = 1 ∨ v = 3) ∧ s.modes.mode ≠ .watch → refused s 2) ∧
    (d = true → v = 4 ∧ s.modes.mode = .evacuate ∨ v = 5 ∧ s.modes.mode ≠ .evacuate → refused s 2) ∧
    (v = 3 → s.modes.mode = .watch → stands s → refused s 3) ∧
    (v = 3 → s.modes.mode = .watch → ¬ stands s → s.modes.wakePin = true ∨ s.modes.wake = true → refused s 4) ∧
    (v = 3 → s.modes.mode = .watch → ¬ stands s → s.modes.wakePin = false → s.modes.wake = false →
      (modeStep s).modes.sleep = .entry ∧ (modeStep s).modes.mode = .watch ∧ (modeStep s).modes.sleepHinges = 0 ∧
      (modeStep s).modes.context = s.regs.filter (fun x => inContext x.1) ∧ (modeStep s).ril.sessions = [] ∧
      (modeStep s).eng.verified = false) ∧
    (v = 1 → s.modes.mode = .watch → entered s .service) ∧
    (v = 2 → s.modes.mode = .service → entered s .watch) ∧
    (v = 4 → d = true → s.modes.mode ≠ .evacuate → entered s .evacuate ∧ (modeStep s).modes.evacCause = 1) ∧
    (v = 5 → d = true → s.modes.mode = .evacuate → entered s .service)) ∧
  (∀ s : State, quiet s → s.modes.request = none → (modeStep s).modes.mode = s.modes.mode) ∧
  (∀ s : State, s.modes.sleep ≠ .awake → modeStep s = s)

/-- When an entry cause and an exit cause fall due at one hinge, the part is in EVACUATE after it. At the mode-change
step of a hinge of a part that is awake, where a contact enters EVACUATE or the autonomy rule holds, or, outside
EVACUATE, the dictionary's request EVACUATE is due, and where a SILENCE contact's transition or the dictionary's
request EXIT is due with it: the mode after the step is EVACUATE, no request and no contact's silencing transition is
left due, and every contact stays silenced as it was. (A request EVACUATE in EVACUATE is refused, so it is no entry
cause there.) (R736). -/
def Obligations.EvacuateWinsOverItsEnd : Prop :=
  ∀ s : State, s.modes.sleep = .awake →
    contactEnters s = true ∨ ((s.tenant 0).lost = true ∧ (∃ n < 8, ctEnabled s n = true ∧ ctFunc s n = 1 ∧
      (s.contact n).cls = 1 ∧ (s.contact n).silenced = false)) ∨
      (s.modes.mode ≠ .evacuate ∧ s.modes.request = some (4, true)) →
    (∃ n < 8, (s.contact n).silenceDue = true) ∨ s.modes.request = some (5, true) →
    (modeStep s).modes.mode = .evacuate ∧ (modeStep s).modes.request = none ∧
    ∀ n < 8, ((modeStep s).contact n).silenceDue = false ∧ ((modeStep s).contact n).silenced = (s.contact n).silenced

/-- WDOG_KICK, WATCHDOG_EXPIRY, WATCHDOG_RESET and the count of a hinge. A write of 0x0000A5C3 that reaches
SYS.WDOG_KICK_c reloads the core's count with PERIOD, 0 acting as 1; any other value sets BAD_KICK and reloads nothing.
While EN is 1 and the part is awake, a hinge takes 1 from the count, and touches no other. The expiry of a running
watchdog whose count is 0 and that has not expired puts its core in LOCKUP, with EXPIRED_c set and the count 0, and changes no other core
and no mode; of another it changes nothing. With AUTO_RESET an expired watchdog resets its core 16 hinges on: EN and EXPIRED_c are
0, THRESH is 8, and the core runs from WARDEN.CC_START_c where it is released after KEYLOCK, and stays in reset
otherwise; without AUTO_RESET nothing happens (spec/22_operating_modes.md, spec/25_power_reset_and_trim.md). -/
def Obligations.WatchdogsCountExpireAndReset : Prop :=
  (∀ (s : State) (m : Master) (c : Fin 4) (v : BitVec 64), reaches s m true (0x40000424 + 0x10 * c.val) = true →
    exec (.wdogKick m c .word v) s = .next (if v.setWidth 32 = 0x0000A5C3#32 then
        { s with modes := { s.modes with wdLeft := tset 0 s.modes.wdLeft c.val (max 1 (s.rdf (Reg.wdogCfg c) 0 24)) } }
      else sqSet Reg.modeEvt [4] s)) ∧
  (∀ (s : State) (c : Nat), c < 4 → wdogLeft (wdogsHinge s) c =
    if s.bit (Reg.wdogCfg c) 24 = true ∧ s.modes.sleep = .awake then wdogLeft s c - 1 else wdogLeft s c) ∧
  (∀ (s : State) (c : Fin 4),
    (s.bit (Reg.wdogCfg c) 24 = true ∧ s.modes.sleep = .awake ∧ s.bit Reg.wdogStat c = false ∧ wdogLeft s c = 0 →
      ∃ u, exec (.watchdogExpiry c) s = .next u ∧ u.bit Reg.wdogStat c = true ∧ wdogLeft u c = 0 ∧
        u.ctlCore c = { s.ctlCore c with st := .lockup } ∧ (∀ k, k ≠ c.val → u.ctlCore k = s.ctlCore k) ∧
        u.modes.mode = s.modes.mode) ∧
    (s.bit (Reg.wdogCfg c) 24 = false ∨ s.modes.sleep ≠ .awake ∨ s.bit Reg.wdogStat c = true ∨ wdogLeft s c ≠ 0 →
      exec (.watchdogExpiry c) s = .next s)) ∧
  (∀ (s : State) (c : Fin 4),
    (s.bit Reg.wdogStat c = true → s.bit (Reg.wdogCfg c) 25 = true → 16 ≤ tget 0 s.modes.wdSince c.val →
      ∃ u, exec (.watchdogReset c) s = .next u ∧
      u.bit (Reg.wdogCfg c) 24 = false ∧ u.bit Reg.wdogStat c = false ∧ u.rd (Reg.icThresh c) = 8#32 ∧
      u.ctlCore c = (if s.ward.keylock = true ∧ s.ward.release.getLsbD (17 + c) = true then
        { ctlDefault c with r := { (ctlDefault c).r with pc := s.rd (Reg.ccStart c) &&& 0xFFFFFFFE#32 }, st := .run } else ctlDefault c) ∧
      (∀ k, k ≠ c.val → u.ctlCore k = s.ctlCore k) ∧ u.mem = s.mem) ∧
    (s.bit Reg.wdogStat c = false ∨ s.bit (Reg.wdogCfg c) 25 = false ∨ tget 0 s.modes.wdSince c.val < 16 →
      exec (.watchdogReset c) s = .next s))

/-- WAKE, WAKE_TIMER, FAST_WAKE and PAD_RELEASE. A rising level of WAKE asks for a wake with PIN_EN set and outside the
awake state, and records PIN; any other level is only seen. The timer's end asks for a wake only with TIMER_EN set and outside the awake
state: it records TIMER, and a sleeping part begins to wake, one still entering holds the wake. A fast wake begins only
once a part that wakes has its crystal: with the untouched latch set and the seal good, the part is in VIGIL watch and
awake with the wake used up, its Crucible is zeroed, the media family runs from the reference PLL, FRAME_CNT has gone on
by the slow cycles of the sleep, and the Warden publishes RESUMED with KEYLOCK and the freeze set; otherwise the part boots cold, with COLD and the cause COLD_WAKE
recorded and device reset held. A write of AON.WAKE_CTRL that reaches it crosses as an SC write of PAD_RELEASE, and is
refused while another is under way (spec/22_operating_modes.md, spec/23_warden_and_boot_chain.md). -/
def Obligations.SleepEndsInAFastWakeOrACold : Prop :=
  (∀ (s : State) (high : Bool),
    let seen := s.modModes fun m => { m with wakePin := high }
    (high = false ∨ s.modes.wakePin = true ∨ s.bit Reg.wakeCfg 0 = false ∨ s.modes.sleep = .awake →
      exec (.wake high) s = .next seen) ∧
    (high = true → s.modes.wakePin = false → s.bit Reg.wakeCfg 0 = true → s.modes.sleep ≠ .awake →
      ∃ u, exec (.wake high) s = .next u ∧
      u.modes = { seen.modes with wake := true, sleep := if s.modes.sleep = .asleep then .waking else s.modes.sleep } ∧
      u.rd Reg.wakeStat = wsetBit (s.rd Reg.wakeStat) 0 true)) ∧
  (∀ s : State, (s.bit Reg.wakeCfg 1 = false ∨ s.modes.sleep = .awake → exec .wakeTimer s = .next s) ∧
    (s.bit Reg.wakeCfg 1 = true → s.modes.sleep ≠ .awake → ∃ u, exec .wakeTimer s = .next u ∧
      u.modes = { s.modes with wake := true, sleep := if s.modes.sleep = .asleep then .waking else s.modes.sleep } ∧
      u.rd Reg.wakeStat = wsetBit (s.rd Reg.wakeStat) 2 true)) ∧
  (∀ (s : State) (straps : Fin 8) (n : Nat), s.modes.sleep ≠ .waking ∨ s.clk.xtalOk = false →
    exec (.fastWake straps n) s = .next s) ∧
  (∀ (s : State) (straps : Fin 8) (n : Nat), s.modes.sleep = .waking → s.clk.xtalOk = true → sealGood s straps = true →
    ∃ u, exec (.fastWake straps n) s = .next u ∧ u.modes.mode = .watch ∧ u.modes.sleep = .awake ∧ u.modes.wake = false ∧
      u.ward.stage = 10 ∧ u.ward.keylock = true ∧ u.ward.freeze = 0x5F#8 ∧ u.mclk.backup = true ∧
      u.mclk.frameCnt = s.mclk.sleepFrame + BitVec.ofNat 64 (6 * ((n * 16000 + 32767) / 32768)) ∧
      ∀ a, 0x30000000 ≤ a → a < 0x30800000 → memGet u.mem a = 0#8) ∧
  (∀ (s : State) (straps : Fin 8) (n : Nat), s.modes.sleep = .waking → s.clk.xtalOk = true → sealGood s straps = false →
    ∃ u, exec (.fastWake straps n) s = .next u ∧ u.power.held = true ∧ u.power.causes.getLsbD 7 = true ∧
      u.bit Reg.wakeStat 3 = true ∧ u.modes.sleep = .awake ∧ u.clk.xtalOk = true ∧ u.ward.untouched = false) ∧
  (∀ (s : State) (m : Master) (v : BitVec 64), reaches s m true 0x4001026C = true →
    (s.bus.sc = none → exec (.padRelease m .word v) s = .next (s.modBus fun b => { b with sc := some ⟨0x4001026C, 1#32⟩ })) ∧
    (s.bus.sc ≠ none → exec (.padRelease m .word v) s = .next (writeRejected 1 0 0x26C s)))

/-- COLD_BOOT, IMAGE_ATTEMPT, BOOT_TIMEOUT, NETWORK_COPY_TIMEOUT and RECOVERY_LOADER. A cold boot happens once, after
the trim load and outside device reset: it puts the image key in the keybox, releases the control fabric and seeks the
images from the copies that the selection orders, or from none where the recovery bit asks for the loader; without
these conditions it changes nothing. A copy is tried only in its turn. One that fails a check leaves its cause, the
stage and the copy in the status, counts an attempt and a failure and hands on to the next copy, with the images and
the tallies as they were; a PENDING slot that fails is FAILED, and a plan that fails goes on to the engine stage with
the FAULT latch set. A first attempt from a PENDING slot takes one trial. STAGE1 that passes stands in memory with the
Warden's core at its entry; TENANT brings the tenant up and releases the blocks, PRESET writes its entries; TENANT and PRESET bodies out of form, an incremental ENGINE, and one whose staged content does
not agree with it, fail CONTENT; a plan that passes is to be loaded; an ENGINE that agrees arms its swap; CONTROL hands over: KEYLOCK and the freeze are set and the released
cores run from its entry. A timeout fails the attempt with TIMEOUT, a network copy that does not come with SOURCE, and
a boot with nothing left runs the recovery loader (spec/23_warden_and_boot_chain.md,
spec/24_image_slots_and_anvil_recovery.md). -/
def Obligations.BootAttemptsInstallOrFail : Prop :=
  let may := fun (s : State) => s.power.trimDone = true ∧ s.power.held = false ∧ s.ward.stage = 1
  let causeOf := fun (s : State) (k : ImageKind) (c : CopyId) =>
    if (attemptBytes s k c).2 ≠ 0 then (attemptBytes s k c).2 else imageCause s k (attemptBytes s k c).1
  let bytes := fun (s : State) (k : ImageKind) (c : CopyId) => (attemptBytes s k c).1
  let body := fun (s : State) (k : ImageKind) (c : CopyId) =>
    (if isJoeno k then joenoPlain s (bytes s k c) else bootBody s (bytes s k c)).getD []
  let turn := fun (s : State) (k : ImageKind) (c : CopyId) =>
    nextCopy s k = some c ∧ c ≠ .network ∧ isPendingCopy s c = false
  let failed := fun (s u : State) (c : CopyId) (cause : Nat) =>
    u.ward.cause = cause ∧ u.ward.causeStage = s.ward.stage ∧ u.ward.copy = copyNo c ∧
    u.ward.attempts = s.ward.attempts + 1 ∧ u.ward.failed = s.ward.failed + 1 ∧ u.ward.tried = s.ward.tried + 1 ∧
    u.ward.stage = s.ward.stage ∧ u.ward.imgs = s.ward.imgs ∧ u.ward.tallies = s.ward.tallies ∧ u.ward.log = s.ward.log ∧
    u.ward.xfer = none ∧ u.ward.engTry = none ∧ u.ward.release = s.ward.release ∧ u.ward.keylock = s.ward.keylock ∧
    (isPendingCopy s c = false → u.ward.slot = s.ward.slot) ∧
    (isPendingCopy s c = true → u.ward.slot = { setStateOf (c == .slotB) .failed s.ward.slot with seq := s.ward.slot.seq + 1#32 })
  let noted := fun (s : State) (k : ImageKind) (c : CopyId) => (attemptReads s k c).foldl (fun s r => keepNoted r.1 r.2 s) s
  let staged := fun (s : State) (c : CopyId) => stagedAgrees (bytes s .engine c) (body s .engine c)
    (stageWhole (bytes s .engine c) (body s .engine c) (noted s .engine c))
  let passed := fun (s u : State) (k : ImageKind) (c : CopyId) => u.ward.stage = stageFor k + 1 ∧ u.ward.tried = 0 ∧
    u.ward.attempts = s.ward.attempts + 1 ∧ u.ward.failed = s.ward.failed ∧
    u.ward.imgs = tset none s.ward.imgs (kindNo k) (some (bootImg k c (bytes s k c)))
  (∀ (s : State) (straps : Fin 8), ¬ may s → exec (.coldBoot straps) s = .next s) ∧
  (∀ (s : State) (straps : Fin 8), may s → s.bit Reg.recov 0 = true → ∃ u, exec (.coldBoot straps) s = .next u ∧
    u.ward.stage = 3 ∧ u.ward.order = [] ∧ u.ward.tried = 0 ∧ u.bit Reg.recov 0 = false ∧ u.ward.release.getLsbD 0 = true ∧
    keySlot u 0 = s.ward.fuses.kImgf) ∧
  (∀ (s : State) (straps : Fin 8), may s → s.bit Reg.recov 0 = false → ∃ u, exec (.coldBoot straps) s = .next u ∧
    u.ward.stage = 3 ∧ u.ward.tried = 0 ∧ u.ward.release.getLsbD 0 = true ∧ keySlot u 0 = s.ward.fuses.kImgf ∧
    u.ward.selection = (if 8 ≤ s.ward.fuses.bootLock.toNat then s.ward.fuses.bootLock.toNat % 8 else straps.val) ∧
    u.ward.order = copyOrder u.ward.selection u.ward.slot ∧
    u.ril.openCnt = u.ward.slot.openCeil ∧ u.ril.ceiling = u.ward.slot.openCeil) ∧
  (∀ (s : State) (k : ImageKind) (c : CopyId), nextCopy s k ≠ some c → exec (.imageAttempt k c) s = .next s) ∧
  (∀ (s : State) (k : ImageKind) (c : CopyId), turn s k c → k ≠ .plan → causeOf s k c ≠ 0 →
    ∃ u, exec (.imageAttempt k c) s = .next u ∧ failed s u c (causeOf s k c)) ∧
  (∀ s : State, nextCopy s .plan = some .keepPlan → causeOf s .plan .keepPlan ≠ 0 →
    ∃ u, exec (.imageAttempt .plan .keepPlan) s = .next u ∧ u.ward.stage = 7 ∧ u.ward.tried = 0 ∧
      u = (bootEnables (bootRecord 5 (forceFault (((noted s .plan .keepPlan).modWard fun w => { w with
        cause := causeOf s .plan .keepPlan, causeStage := w.stage, copy := 5, attempts := w.attempts + 1,
        failed := w.failed + 1, tried := w.tried + 1, xfer := none, engTry := none }).wrb Reg.planStat 0 false)))).modWard
          fun w => { w with stage := 7, tried := 0 }) ∧
  (∀ (s : State) (k : ImageKind) (c : CopyId), nextCopy s k = some c → isPendingCopy s c = true → s.ward.trialTaken = false →
    s.ward.slot.trials ≠ 0 → exec (.imageAttempt k c) s = exec (.imageAttempt k c)
      ((slotWrite (fun r => { r with trials := r.trials - 1 }) s).modWard fun w => { w with trialTaken := true })) ∧
  (∀ (s : State) (c : CopyId), turn s .stage1 c → causeOf s .stage1 c = 0 → ∃ u, exec (.imageAttempt .stage1 c) s = .next u ∧
    passed s u .stage1 c ∧
    (u.ctlCore 4).r.pc = (BitVec.ofNat 32 (le (bytes s .stage1 c) 0x10 4) + BitVec.ofNat 32 (le (bytes s .stage1 c) 0x14 4)) &&&
      0xFFFFFFFE#32 ∧
    u.mem = memPutBytes s.mem (BitVec.ofNat 32 (le (bytes s .stage1 c) 0x10 4)).toNat (body s .stage1 c)) ∧
  (∀ (s : State) (k : ImageKind) (c : CopyId), turn s k c → causeOf s k c = 0 →
    k = .tenant ∧ tenantOk s (body s k c) = false ∨
    k = .preset ∧ ((body s k c).length % 8 ≠ 0 ∨ ∃ e ∈ presetEntries (body s k c), presetAddr e.1 = false) ∨
    k = .engine ∧ (le (bytes s k c) 9 1 / 2 % 2 = 1 ∨ (staged s c).1 = false) →
    ∃ u, exec (.imageAttempt k c) s = .next u ∧ failed s u c 9) ∧
  (∀ (s : State) (c : CopyId), turn s .tenant c → causeOf s .tenant c = 0 → tenantOk s (body s .tenant c) = true →
    ∃ u, exec (.imageAttempt .tenant c) s = .next u ∧ passed s u .tenant c ∧ (u.tenant 0).st = .active ∧
      keySlot u 8 = cut (body s .tenant c) 24 32 ∧ keySlot u 5 = cut (body s .tenant c) 56 32 ∧
      (s.power.trimDone = true → u.ward.release &&& 0x171FC#21 = 0x171FC#21)) ∧
  (∀ (s : State) (c : CopyId), turn s .preset c → causeOf s .preset c = 0 → (body s .preset c).length % 8 = 0 →
    (∀ e ∈ presetEntries (body s .preset c), presetAddr e.1 = true) → ∃ u, exec (.imageAttempt .preset c) s = .next u ∧
      u.ward.stage = 6 ∧ u.ward.tried = 0 ∧ u.ward.xfer = none) ∧
  (∀ s : State, nextCopy s .plan = some .keepPlan → causeOf s .plan .keepPlan = 0 →
    ∃ u, exec (.imageAttempt .plan .keepPlan) s = .next u ∧ passed s u .plan .keepPlan ∧ u.msg.loadDue = true) ∧
  (∀ (s : State) (c : CopyId), turn s .engine c → causeOf s .engine c = 0 → le (bytes s .engine c) 9 1 / 2 % 2 = 0 →
    (staged s c).1 = true → ∃ u, exec (.imageAttempt .engine c) s = .next u ∧ u.eng.armed = true ∧ u.eng.verified = true ∧
      u.ward.engTry = some (imgMeas (measType .engine).1 (copyNo c) .engine (bytes s .engine c), bootImg .engine c (bytes s .engine c)) ∧
      u.ward.stage = s.ward.stage ∧ u.ward.imgs = s.ward.imgs) ∧
  (∀ (s : State) (c : CopyId), turn s .control c → causeOf s .control c = 0 → ∃ u, exec (.imageAttempt .control c) s = .next u ∧
    u.ward.stage = 9 ∧ u.ward.keylock = true ∧ u.ward.freeze = s.ward.freeze ||| 0x5F#8 ∧ u.ward.held = [] ∧
    (s.power.trimDone = true → u.ward.release &&& 0x1E8E00#21 = 0x1E8E00#21 ∧
      ∀ n < 4, s.ward.release.getLsbD (17 + n) = false → (u.ctlCore n).st = .run ∧
        (u.ctlCore n).r.pc = (BitVec.ofNat 32 (le (bytes s .control c) 0x10 4) + BitVec.ofNat 32 (le (bytes s .control c) 0x14 4)) &&&
          0xFFFFFFFE#32)) ∧
  (∀ (s : State) (k : ImageKind) (c : CopyId),
    (nextCopy s k = some c → k ≠ .plan → ∃ u, exec (.bootTimeout k c) s = .next u ∧ failed s u c 10) ∧
    (nextCopy s k ≠ some c → k ≠ .engine ∨ s.ward.engTry = none ∨ s.ward.order[s.ward.tried]? ≠ some c →
      exec (.bootTimeout k c) s = .next s) ∧
    (s.ward.engTry ≠ none → s.ward.order[s.ward.tried]? = some c → ∃ u, exec (.bootTimeout .engine c) s = .next u ∧
      failed s u c 10 ∧ u.eng.swapCancel = (s.eng.swapCancel || s.eng.armed))) ∧
  (∀ (s : State) (k : ImageKind), (nextCopy s k = some .network → k ≠ .plan → s.ward.xfer ≠ none →
      ∃ u, exec (.networkCopyTimeout k) s = .next u ∧ failed s u .network 1) ∧
    (nextCopy s k ≠ some .network ∨ s.ward.xfer = none → exec (.networkCopyTimeout k) s = .next s)) ∧
  (∀ (s : State) (k : ImageKind), nextCopy s k = some .network → k ≠ .plan → s.ward.xfer = none →
    s.rd 0x40000888 = 0#32 ∨ s.rd 0x40000890 = 0#32 → ∃ u, exec (.imageAttempt k .network) s = .next u ∧ failed s u .network 1) ∧
  (∀ s : State, (exhausted s = false → exec .recoveryLoader s = .next s) ∧
    (exhausted s = true → ∃ u, exec .recoveryLoader s = .next u ∧ u.ward.keylock = true ∧ u.ward.recovery = true ∧
      u.ward.stage = 14 ∧ u.bit Reg.faultStat 0 = true ∧ u.ward.xfer = none ∧
      (s.ward.freeze.getLsbD 7 = false → tallyOf u 7 = Config.sha256 (tallyOf s 7 ++
        Config.sha256 (measBytes ⟨13, 0xFF, 0xFF, 0, 0, 0, List.replicate 32 0#8⟩)))))

/-- The nine mailbox commands, MAILBOX_COMPLETION, ROOT_REVOKE, TALLY_EXT and FLASH_PROGRAM_COMMAND. A master writes the
argument and then the command: while one is under way the second only sets OVERRUN; a Warden that serves performs it at
once and holds its result until it completes; one that does not serve leaves it waiting. An argument outside the Hearth,
the Keep and the flash window gives ADDRESS; a command whose conditions do not hold gives REFUSED or the cause of the
check that fails, and changes nothing more than the text says; BEGIN_SLOT makes an idle slot WRITING and opens its
window, MARK_PENDING closes it and makes a checked slot PENDING with 3 trials, CONFIRM makes it CONFIRMED and ACTIVE
with the floors raised, ABANDON makes it FAILED, each by one record with the next SEQ; WRITE_K programs a checked set,
WRITE_PLAN a checked plan that is then loaded, BURN_FLOOR the fuse; VERIFY_GRAPH sets VERIFIED; MEASURE extends TALLY_7.
Completion writes the result, moves SEQ and pulses the doorbell. A root is revoked unless it signed the running STAGE1
or no usable root would be left. The Warden's write extends a tally that is not frozen; another master's is turned away
and logged. A program or erase command to a slot whose window is closed is refused with its event; another is done
(spec/23_warden_and_boot_chain.md, spec/24_image_slots_and_anvil_recovery.md). -/
def Obligations.TheWardenServesItsMailbox : Prop :=
  let rows : List ((Master → Word → Instr) × Nat) := [(.verifyGraph, 1), (.measure, 2), (.beginSlot, 16), (.markPending, 17),
    (.confirm, 18), (.abandon, 19), (.writeK, 20), (.writePlan, 21), (.burnFloor, 22)]
  let issued := fun (s : State) (cmd : Nat) (arg : Word) => wardenInt 0
    (((s.wr 0x40000604 arg).wr 0x40000600 (BitVec.ofNat 32 cmd)).modWard fun w => { w with mbox := some (cmd, arg, none), mboxOverrun := false })
  let next := fun (s u : State) => u.ward.slot.seq = s.ward.slot.seq + 1#32 ∧
    u.mem = memPutBytes s.mem (slotLine u.ward.slot.seq.toNat) (slotBytes u.ward.slot)
  (∀ p ∈ rows, ∀ (s : State) (m : Master) (arg : Word), reaches s m true 0x40000604 = true →
    reaches (s.wr 0x40000604 arg) m true 0x40000600 = true →
    (s.ward.mbox ≠ none → exec (p.1 m arg) s = .next ((s.wr 0x40000604 arg).modWard fun w => { w with mboxOverrun := true })) ∧
    (s.ward.mbox = none → wardenServes s = false → exec (p.1 m arg) s = .next (issued s p.2 arg)) ∧
    (s.ward.mbox = none → wardenServes s = true → exec (p.1 m arg) s = .next
      ((mailboxAct p.2 arg.toNat (issued s p.2 arg)).2.modWard fun w => { w with
        mbox := some (p.2, arg, some (mailboxAct p.2 arg.toNat (issued s p.2 arg)).1) }))) ∧
  (∀ (s : State) (a : Nat), argOk a = false → ∀ cmd ∈ [1, 2, 16, 17, 20, 21, 22], mailboxAct cmd a s = (32, s)) ∧
  (∀ (s : State) (a : Nat), argOk a = true →
    (slotNamed (argWord s a) = none → mailboxAct 16 a s = (33, s) ∧ mailboxAct 17 a s = (33, s)) ∧
    (∀ b, slotNamed (argWord s a) = some b →
      (s.ward.slot.activeB = b ∨ suppliedAny s (copyOf b) = true → mailboxAct 16 a s = (33, s)) ∧
      (s.ward.slot.activeB ≠ b → suppliedAny s (copyOf b) = false → ∃ u, mailboxAct 16 a s = (0, u) ∧ next s u ∧
        stateOf u.ward.slot b = .writing ∧ stateOf u.ward.slot (!b) = stateOf s.ward.slot (!b) ∧ u.bit Reg.flashWp (b2n b) = true) ∧
      (stateOf s.ward.slot b ≠ .writing → mailboxAct 17 a s = (33, s)) ∧
      (stateOf s.ward.slot b = .writing →
        let s1 := s.wrb Reg.flashWp (b2n b) false
        let c := setCheck s1 (copyBytes s1 (copyOf b)) 0x400000
        (c ≠ 0 → mailboxAct 17 a s = (c, s1)) ∧
        (c = 0 → ∃ u, mailboxAct 17 a s = (0, u) ∧ next s u ∧ stateOf u.ward.slot b = .pending ∧ u.ward.slot.trials = 3 ∧
          stateOf u.ward.slot (!b) = stateOf s.ward.slot (!b) ∧ u.bit Reg.flashWp (b2n b) = false)))) ∧
  (∀ (s : State) (a : Nat), (pendingSlot s.ward.slot = none → mailboxAct 18 a s = (33, s) ∧ mailboxAct 19 a s = (33, s)) ∧
    (∀ b, pendingSlot s.ward.slot = some b →
      (suppliedAll s (copyOf b) = false → mailboxAct 18 a s = (33, s)) ∧
      (suppliedAll s (copyOf b) = true → ∃ u, mailboxAct 18 a s = (0, u) ∧ next s u ∧ stateOf u.ward.slot b = .confirmed ∧
        u.ward.slot.activeB = b ∧ u.ward.slot.trials = 0 ∧ ∀ k ∈ fiveKinds, (u.ward.slot.svnMin[svnPlace k]?).getD 0 =
          max ((s.ward.slot.svnMin[svnPlace k]?).getD 0) (((runningImg s k).map (·.svn)).getD 0)) ∧
      (∃ u, mailboxAct 19 a s = (0, u) ∧ next s u ∧ stateOf u.ward.slot b = .failed ∧ u.ward.slot.activeB = s.ward.slot.activeB))) ∧
  (∀ (s : State) (a : Nat), argOk a = true →
    let rd := fun (off n : Nat) => memBytes s.mem (a + off) n
    let c := setCheck s rd (min 0x100000 (0x20200000 - a))
    (inEvacuate s = true ∨ regionOf a ≠ .hearth → mailboxAct 20 a s = (33, s)) ∧
    (inEvacuate s = false → regionOf a = .hearth → mailboxAct 20 a s = if c ≠ 0 then (c, s) else (0, programK rd s)) ∧
    (inEvacuate s = true ∨ regionOf a = .keep → mailboxAct 21 a s = (33, s)) ∧
    (inEvacuate s = false → regionOf a ≠ .keep →
      (argImage s a = none → mailboxAct 21 a s = (1, s)) ∧
      (∀ b, argImage s a = some b → (imageCause s .plan b ≠ 0 → mailboxAct 21 a s = (imageCause s .plan b, s)) ∧
        (imageCause s .plan b = 0 → ∃ u, mailboxAct 21 a s = (0, u) ∧ u.msg.loadDue = true ∧ u.msg.planClear = true ∧
          next (s.mwrBytes 0x50000000 b) u ∧
          (u.ward.slot.svnMin[5]?).getD 0 = max ((s.ward.slot.svnMin[5]?).getD 0) (imgSvn .plan b)))) ∧
    (argImage s a = none → mailboxAct 1 a s = (1, s)) ∧
    (∀ b, argImage s a = some b → (imageCause s .engine b ≠ 0 → mailboxAct 1 a s = (imageCause s .engine b, s)) ∧
      (imageCause s .engine b = 0 → (mailboxAct 1 a s).1 = 0 ∧ (mailboxAct 1 a s).2.eng.verified = true ∨ (mailboxAct 1 a s).1 = 9)) ∧
    (le (argBytes s a 48) 0 2 ≠ 11 → mailboxAct 2 a s = (33, s)) ∧
    (le (argBytes s a 48) 0 2 = 11 → s.ward.freeze.getLsbD 7 = false → ∃ u, mailboxAct 2 a s = (0, u) ∧ tallyOf u 7 =
      Config.sha256 (tallyOf s 7 ++ Config.sha256 (measBytes (measOf (argBytes s a 48)))))) ∧
  (∀ (s : State) (a : Nat), argOk a = true →
    let n := argWord s a
    let ok := s.ward.fuses.svnFloor ≤ n ∧ n ≤ 64 ∧ ∀ x ∈ s.ward.imgs, ∀ i, x.2 = some i → n ≤ i.svn
    (¬ ok → mailboxAct 22 a s = (33, s)) ∧
    (ok → ∃ u, mailboxAct 22 a s = (0, u) ∧ u.ward.fuses = { s.ward.fuses with svnFloor := n })) ∧
  (∀ (s : State), (s.ward.mbox = none → exec .mailboxCompletion s = .next s) ∧
    (∀ c a r, s.ward.mbox = some (c, a, some r) → ∃ u, exec .mailboxCompletion s = .next u ∧
      u = pulse 15 (s.modWard fun w => { w with mbox := none, mboxResult := r, mboxSeq := w.mboxSeq + 1#16 }) ∧
      u.ward.mbox = none ∧ u.ward.mboxResult = r)) ∧
  (∀ (s : State) (k : Fin 4),
    let signs := (runningImg s .stage1).map (·.key) = some k.val
    let left := ∃ j < 4, j ≠ k.val ∧ keyUsable s j = true
    (signs ∨ ¬ left → exec (.rootRevoke k) s = .next s) ∧
    (¬ signs → left → ∃ u, exec (.rootRevoke k) s = .next u ∧
      u.ward.fuses = { s.ward.fuses with rootRevoke := s.ward.fuses.rootRevoke ||| BitVec.ofNat 4 (2 ^ k.val) } ∧
      ∃ m, u.ward.log = (s.ward.log ++ [m]).drop (s.ward.log.length + 1 - 64) ∧ m.type = 14 ∧
        (s.ward.freeze.getLsbD 7 = false → tallyOf u 7 = Config.sha256 (tallyOf s 7 ++ Config.sha256 (measBytes m))))) ∧
  (∀ (s : State) (v : BitVec 64), s.power.held = false → (postedOf s false).all (fun p => p.master != .warden) = true →
    exec (.tallyExt .warden .word v) s = .next (if s.ward.freeze.getLsbD (v.toNat % 8) = true then s
      else tallyExtend (v.toNat % 8) ((List.range 8).flatMap fun i => leBytes 4 (s.rd (0xE0000220 + 4 * i)).toNat) s)) ∧
  (∀ (s : State) (m : Master) (v : BitVec 64), lvlOf s m ≠ .secure → crosses s m 0xE0000240 = false →
    (postedOf s false).all (fun p => p.master != m) = true →
    exec (.tallyExt m .word v) s = .next (logAccess Reg.privFault 3 (masterId m) 4 0xE0000240 true s)) ∧
  (∀ (s : State) (off : Word) (erase : Bool) (bytes : List Byte),
    let shut := ∃ i < max 1 bytes.length, flashClosed s (off.toNat + i) = true
    (s.ward.release.getLsbD 0 = false → exec (.flashProgramCommand off erase bytes) s = .next s) ∧
    (s.ward.release.getLsbD 0 = true → shut → ∃ u, exec (.flashProgramCommand off erase bytes) s = .next u ∧
      u.flash = s.flash ∧ u.rd Reg.flashWpAddr = off ∧ u.sq Reg.flashWpEvt = (s.sq Reg.flashWpEvt).event [0]) ∧
    (s.ward.release.getLsbD 0 = true → ¬ shut → exec (.flashProgramCommand off erase bytes) s = .next { s with
      flash := memPutBytes s.flash off.toNat (if erase then List.replicate bytes.length 0xFF#8 else bytes) }))

/-- Anvil STATUS, PUT and GET, STATUS_PUBLICATION, DATA, NONE, ASK_TIMEOUT, RECOVER and RECOVER_TIMEOUT. Publication puts
the status into the other buffer, which is then the published one, and counts; STATUS answers the published bytes between
two copies of the buffer's mark, with the FIFO's counts and a CRC. A PUT that is whole, of 1 to 256 bytes with a good CRC
and room for them is taken with result 0; any other takes nothing and answers a result from 1 to 4, its bytes dropped
and counted where the crossing is not ready; one ended early changes nothing; in sleep it answers 4 and asks for a wake. GET takes at most 256 bytes out of the FIFO, or answers the
bytes of the last again, and answers none where the crossing is not ready. A chunk is taken only in answer to the
outstanding ASK; the next ASK follows until the image is whole. NONE ends the attempt, or the recovery with DONE SOURCE.
An ASK that is not answered leaves again with the next SEQ. RECOVER in the loader, under its grant and with no other
under way, opens its slot as WRITING and asks for the first image; otherwise it is refused; its timeout ends it with
DONE SOURCE, the slot FAILED and its window closed (spec/24_image_slots_and_anvil_recovery.md,
spec/23_warden_and_boot_chain.md, spec/03_clock_crossings.md). -/
def Obligations.AnvilCarriesBytesAndTransfers : Prop :=
  let only := fun (s u : State) => u = { s with ward := { s.ward with anv := u.ward.anv } }
  let takes := fun (s : State) (len : Nat) (bytes : List Byte) (crc : Half) => xingReady s 5 = true ∧ s.modes.sleep ≠ .asleep ∧
    1 ≤ len ∧ len ≤ 256 ∧ bytes.length = len ∧ crc16 (beBytes 2 len ++ bytes) = crc.toNat ∧
    s.ward.anv.toWarden.length + len ≤ 1024
  let sent := fun (m : List Byte) (s u : State) => u.ward.anv.toHost = s.ward.anv.toHost ++ m
  let answers := fun (x : Xfer) (k : ImageKind) (off : Word) (seq : BitVec 16) (bytes : List Byte) =>
    x.kind = k ∧ x.off = off.toNat ∧ x.seq = seq ∧ x.count = bytes.length
  let ended := fun (s u : State) (x : Xfer) (r k : Nat) => u.ward.xfer = none ∧ sent (xmsg 0x15 r k 0 x.reqSeq []) s u ∧
    ∀ t b, x.target = some t → targetSlot t = some b → stateOf u.ward.slot b = .failed ∧ u.bit Reg.flashWp (b2n b) = false
  (∀ s : State, ∃ u, exec .statusPublication s = .next u ∧ only s u ∧ u.ward.anv.pubIdx = !s.ward.anv.pubIdx ∧
    u.ward.anv.pubCnt = s.ward.anv.pubCnt + 1#16 ∧ u.ward.anv.pub.length = 16 ∧
    u.ward.anv.pub.take 4 = beBytes 4 (bootStageView s).toNat ∧ u.ward.anv.pub.drop 14 = beBytes 2 u.ward.anv.pubCnt.toNat ∧
    u.ward.anv.toHost = s.ward.anv.toHost ∧ u.ward.anv.toWarden = s.ward.anv.toWarden ∧ u.ward.anv.st = s.ward.anv.st) ∧
  (∀ s : State, s.ward.anv.pub.length = 16 → ∃ u, exec .anvilStatus s = .next u ∧
    u = s.modAnv (fun a => { a with answer := u.ward.anv.answer }) ∧ u.ward.anv.answer.length = 24 ∧
    u.ward.anv.answer.take 1 = [BitVec.ofNat 8 (0xA0 + b2n s.ward.anv.pubIdx)] ∧ cut u.ward.anv.answer 1 16 = s.ward.anv.pub ∧
    cut u.ward.anv.answer 17 2 = beBytes 2 (anvGettable s) ∧ cut u.ward.anv.answer 19 2 = beBytes 2 (anvSpace s) ∧
    u.ward.anv.answer.drop 22 = beBytes 2 (crc16 (u.ward.anv.answer.take 22))) ∧
  (∀ (s : State) (len : Nat) (bytes : List Byte) (crc : Half),
    exec (.anvPut len bytes crc false) s = .next s ∧
    (s.modes.sleep = .asleep → ∃ u, exec (.anvPut len bytes crc true) s = .next u ∧ u.ward.anv.answer = [4#8] ∧
      u.modes.sleep = .waking ∧ u.modes.wake = true ∧ u.ward.untouched = false ∧ u.ward.anv.toWarden = s.ward.anv.toWarden) ∧
    (takes s len bytes crc → ∃ u, exec (.anvPut len bytes crc true) s = .next u ∧ u.ward.anv.answer = [0#8] ∧
      (anvServes s = true → u.ward.anv.toWarden = [] ∧ u.ward.anv.rx = s.ward.anv.rx ++ s.ward.anv.toWarden ++ bytes) ∧
      (anvServes s = false → u.ward.anv.toWarden = s.ward.anv.toWarden ++ bytes ∧ u.ward.anv.rx = s.ward.anv.rx)) ∧
    (s.modes.sleep ≠ .asleep → xingReady s 5 = true → ¬ takes s len bytes crc → ∃ r : Nat, 1 ≤ r ∧ r ≤ 3 ∧
      exec (.anvPut len bytes crc true) s = .next (s.modAnv fun a => { a with answer := [BitVec.ofNat 8 r] })) ∧
    (s.modes.sleep ≠ .asleep → xingReady s 5 = false → exec (.anvPut len bytes crc true) s = .next
      ((bytes.foldl (fun s _ => xingDropped 5 s) s).modAnv fun a => { a with answer := [4#8] }))) ∧
  (∀ (s : State) (max' : Nat),
    (xingReady s 5 = false → ∀ rep, exec (.anvGet rep max') s = .next (s.modAnv fun a => { a with
      answer := beBytes 2 0 ++ beBytes 2 (crc16 (beBytes 2 0)) })) ∧
    (xingReady s 5 = true → max' ≤ 256 → exec (.anvGet false max') s = .next (s.modAnv fun a => { a with
      held := a.toHost.take max', toHost := a.toHost.drop max',
      answer := beBytes 2 (a.toHost.take max').length ++ a.toHost.take max' ++
        beBytes 2 (crc16 (beBytes 2 (a.toHost.take max').length ++ a.toHost.take max')) })) ∧
    (xingReady s 5 = true → exec (.anvGet true max') s = .next (s.modAnv fun a => { a with
      answer := beBytes 2 a.held.length ++ a.held ++ beBytes 2 (crc16 (beBytes 2 a.held.length ++ a.held)) }))) ∧
  (∀ (s : State) (k : ImageKind) (off : Word) (seq : BitVec 16) (bytes : List Byte),
    let m := takeMsg (xmsg 2 (xferKind k) off.toNat 0 seq bytes) s
    (s.ward.xfer = none → exec (.dataChunk k off seq bytes) s = .next m) ∧
    (∀ x, s.ward.xfer = some x → ¬ answers x k off seq bytes →
      exec (.dataChunk k off seq bytes) s = .next (if x.anvil = true then m else s)) ∧
    (∀ x, s.ward.xfer = some x → answers x k off seq bytes → x.anvil = false →
      let y := { x with got := x.got ++ bytes }
      (xferWhole y = true → exec (.dataChunk k off seq bytes) s = .next (s.modWard fun w => { w with
        xfer := some { y with off := y.got.length, count := 0 } })) ∧
      (xferWhole y = false → ∃ u, exec (.dataChunk k off seq bytes) s = .next u ∧ ∃ z, u.ward.xfer = some z ∧
        z.got = x.got ++ bytes ∧ z.off = z.got.length ∧ z.seq = s.ward.askSeq + 1#16 ∧ z.kind = k)) ∧
    (∀ x, s.ward.xfer = some x → answers x k off seq bytes → x.anvil = true → xferWhole { x with got := x.got ++ bytes } = false →
      le (x.got ++ bytes) 0xC 4 ≤ 0x400000 → ∃ u, exec (.dataChunk k off seq bytes) s = .next u ∧ ∃ z, u.ward.xfer = some z ∧
        z.got = x.got ++ bytes ∧ z.off = z.got.length ∧ z.seq = s.ward.askSeq + 1#16 ∧ z.target = x.target ∧
        sent (xmsg 1 (xferKind k) z.off z.count z.seq s.ward.fuses.serial) s u)) ∧
  (∀ (s : State) (k : ImageKind), (s.ward.xfer = none ∨ (∃ x, s.ward.xfer = some x ∧ x.kind ≠ k) → exec (.noneImage k) s = .next s) ∧
    (∀ x, s.ward.xfer = some x → x.kind = k → x.anvil = true → ∃ u, exec (.noneImage k) s = .next u ∧ ended s u x 1 (xferKind k)) ∧
    (∀ x, s.ward.xfer = some x → x.kind = k → x.anvil = false → k ≠ .plan → ∃ u, exec (.noneImage k) s = .next u ∧
      u.ward.xfer = none ∧ u.ward.cause = 1 ∧ u.ward.copy = 3 ∧ u.ward.tried = s.ward.tried + 1 ∧ u.ward.failed = s.ward.failed + 1)) ∧
  (∀ s : State, (s.ward.xfer = none ∨ (∃ x, s.ward.xfer = some x ∧ xferWhole x = true) → exec .askTimeout s = .next s) ∧
    (∀ x, s.ward.xfer = some x → xferWhole x = false → ∃ u, exec .askTimeout s = .next u ∧
      u.ward.askSeq = s.ward.askSeq + 1#16 ∧ u.ward.xfer = some { x with seq := s.ward.askSeq + 1#16 } ∧
      (x.anvil = true → sent (xmsg 1 (xferKind x.kind) x.off x.count (s.ward.askSeq + 1#16) s.ward.fuses.serial) s u))) ∧
  (∀ (s : State) (t : RecoverTarget) (seq : BitVec 16),
    let may := s.ward.recovery = true ∧ s.ward.anv.grants.getLsbD 0 = true ∧ s.ward.xfer = none ∧
      ¬ (s.modes.mode = .evacuate ∧ targetSlot t = none)
    (anvServes s = false → exec (.recover t seq) s = .next s) ∧
    (anvServes s = true → ¬ may → exec (.recover t seq) s =
      .next (anvSend (xmsg 0x15 33 0 0 seq []) (takeMsg (xmsg 0x14 (targetCode t) 0 0 seq []) s))) ∧
    (anvServes s = true → may → ∃ u, exec (.recover t seq) s = .next u ∧ (∃ x, u.ward.xfer = some x ∧ x.anvil = true ∧
        x.target = some t ∧ x.reqSeq = seq ∧ x.got = [] ∧ x.kind = (if t = .plan then .plan else .stage1) ∧
        sent (xmsg 1 (xferKind x.kind) 0 64 x.seq s.ward.fuses.serial) s u) ∧
      ∀ b, targetSlot t = some b → stateOf u.ward.slot b = .writing ∧ u.bit Reg.flashWp (b2n b) = true)) ∧
  (∀ s : State, (s.ward.xfer = none ∨ (∃ x, s.ward.xfer = some x ∧ x.anvil = false) → exec .recoverTimeout s = .next s) ∧
    (∀ x, s.ward.xfer = some x → x.anvil = true → ∃ u, exec .recoverTimeout s = .next u ∧ ended s u x 1 0))

/-- CHAL_REQ, AUTH, CLOSE, REBOOT, MREAD, MWRITE, the debugger's accesses through JTAG and TAP_RESET, and the end of
grants. A challenge is the counter, the frame count and the serial; it counts, and a second within the second after it
is refused. AUTH answers the first check that fails and counts it, with the challenge used up; one that passes opens
the session with its grants under its key; a SLOT grant outside the recovery loader resets the part with the recovery
bit set. CLOSE, a device reset, sleep entry's completion and the revocation of the granting root end the grants and
leave the session CLOSED. REBOOT resets the part. MREAD and MWRITE need their grant, 1 to 256 words and an aligned
address, and answer the words read, or how the writes went. Without the JTAG grant every debug instruction acts as
BYPASS. TAP_RESET holds IDCODE (spec/24_image_slots_and_anvil_recovery.md, spec/25_power_reset_and_trim.md,
spec/22_operating_modes.md). -/
def Obligations.GrantsOpenAndEnd : Prop :=
  let sent := fun (m : List Byte) (s u : State) => u.ward.anv.toHost = s.ward.anv.toHost ++ m
  let shut := fun (u : State) => u.ward.anv.st = .closed ∧ u.ward.anv.grants = 0#3
  (∀ s : State, anvServes s = false → ∀ c ∈ ([.transferClose, .reboot] : List Instr), exec c s = .next s) ∧
  (∀ (s : State) (grant a : Word) (seq : BitVec 16) (body : List Byte) (n : Nat) (ws : List Word), anvServes s = false →
    exec (.chalReq grant seq) s = .next s ∧ exec (.anvAuth body seq) s = .next s ∧ exec (.mread a n seq) s = .next s ∧
    exec (.mwrite a ws seq) s = .next s) ∧
  (∀ (s : State) (grant : Word) (seq : BitVec 16), anvServes s = true →
    (s.ward.anv.rateOk = false → ∃ u, exec (.chalReq grant seq) s = .next u ∧ sent (xmsg 0x13 33 0 0 seq []) s u ∧
      u.ward.anv.chal = s.ward.anv.chal ∧ u.ward.anv.chalCnt = s.ward.anv.chalCnt) ∧
    (s.ward.anv.rateOk = true → ∃ u, exec (.chalReq grant seq) s = .next u ∧ u.ward.anv.st = .challenged ∧
      u.ward.anv.chal = leBytes 8 s.ward.anv.chalCnt ++ leBytes 8 s.mclk.frameCnt.toNat ++ s.ward.fuses.serial ∧
      u.ward.anv.chalGrant = grant ∧ u.ward.anv.chalAge = 0 ∧ u.ward.anv.rateOk = false ∧
      u.ward.anv.chalCnt = s.ward.anv.chalCnt + 1 ∧ sent (xmsg 0x11 0 0 0 seq u.ward.anv.chal) s u ∧
      u.ward.slot.anvCeil = (if s.ward.slot.anvCeil ≤ s.ward.anv.chalCnt then s.ward.anv.chalCnt + 1024 else s.ward.slot.anvCeil))) ∧
  (∀ (s : State) (body : List Byte), (s.ward.anv.chal = [] → authResult s body = 33) ∧
    (authResult s body = 0 → s.ward.anv.chal ≠ [] ∧ rootStands s (le body 0 1) = true ∧
      (le body 4 4 % 2 = 1 → s.modes.mode ≠ .evacuate) ∧ (2 ≤ le body 4 4 % 8 → s.ward.keylock = true) ∧
      Config.ecdsaOk (cut body 8 64) (bytesOf [0x44, 0x5A, 0x41, 0x56] ++ s.ward.anv.chal ++ leBytes 4 (le body 4 4)) (cut body 72 64) = true)) ∧
  (∀ (s : State) (body : List Byte) (seq : BitVec 16), anvServes s = true →
    let r := authResult s body
    (r ≠ 0 → ∃ u, exec (.anvAuth body seq) s = .next u ∧ u.ward.anv.chal = [] ∧ u.ward.anv.grants = s.ward.anv.grants ∧
      u.ward.anv.fails = min 255 (s.ward.anv.fails + 1) ∧ sent (xmsg 0x13 r 0 0 seq []) s u ∧
      u.ward.anv.st = (if s.ward.anv.grants = 0#3 then .closed else .opened)) ∧
    (r = 0 → le body 4 4 % 2 = 0 ∨ s.ward.recovery = true → ∃ u, exec (.anvAuth body seq) s = .next u ∧ u.ward.anv.chal = [] ∧
      u.ward.anv.st = .opened ∧ u.ward.anv.grants = BitVec.ofNat 3 (le body 4 4) ∧ u.ward.anv.key = le body 0 1 ∧
      sent (xmsg 0x13 0 0 0 seq []) s u) ∧
    (r = 0 → le body 4 4 % 2 = 1 → s.ward.recovery = false → s.bus.sc = none → ∃ u, exec (.anvAuth body seq) s = .next u ∧
      u.power.held = true ∧ u.power.causes.getLsbD 6 = true ∧ u.bit Reg.recov 0 = true ∧ shut u)) ∧
  (∀ s : State, anvServes s = true → (∃ u, exec .transferClose s = .next u ∧ shut u ∧ u.ward.anv.chal = []) ∧
    (∃ u, exec .reboot s = .next u ∧ shut u ∧ u.power.held = true ∧ u.power.causes.getLsbD 6 = true)) ∧
  (∀ (s : State) (c : HoldCause), ∃ u, exec (.deviceReset c) s = .next u ∧ shut u) ∧
  (∀ s : State, s.modes.sleep = .entry → 16 ≤ s.modes.sleepHinges → ∃ u, exec .familiesStop s = .next u ∧ shut u) ∧
  (∀ (s : State) (k : Fin 4), (runningImg s .stage1).map (·.key) ≠ some k.val → (∃ j < 4, j ≠ k.val ∧ keyUsable s j = true) →
    s.ward.anv.grants ≠ 0#3 → s.ward.anv.key = k.val → ∃ u, exec (.rootRevoke k) s = .next u ∧ shut u) ∧
  (∀ (s : State) (a : Word) (n : Nat) (seq : BitVec 16), anvServes s = true →
    let t := takeMsg (xmsg 0x20 0 a.toNat n seq []) s
    exec (.mread a n seq) s = .next (
      if s.ward.anv.grants.getLsbD 1 = false then anvSend (xmsg 0x22 2 0 0 seq []) t
      else if n < 1 ∨ 256 < n ∨ a.toNat % 4 ≠ 0 then anvSend (xmsg 0x22 3 0 0 seq []) t
      else anvSend (xmsg 0x22 (if (mreads a.toNat n t).2 then 0 else 1) 0 0 seq (mreads a.toNat n t).1) t)) ∧
  (∀ (s : State) (a : Nat) (v : Nat), (readNow .anvil a 4 s).1 = some v → mreads a 1 s = (leBytes 4 v, true)) ∧
  (∀ (s : State) (a : Word) (ws : List Word) (seq : BitVec 16), anvServes s = true →
    let t := takeMsg (xmsg 0x21 0 a.toNat 0 seq (ws.flatMap fun v => leBytes 4 v.toNat)) s
    (s.ward.anv.grants.getLsbD 1 = false → exec (.mwrite a ws seq) s = .next (anvSend (xmsg 0x22 2 0 0 seq []) t)) ∧
    (s.ward.anv.grants.getLsbD 1 = true → ws.length < 1 ∨ 256 < ws.length ∨ a.toNat % 4 ≠ 0 →
      exec (.mwrite a ws seq) s = .next (anvSend (xmsg 0x22 3 0 0 seq []) t)) ∧
    (s.ward.anv.grants.getLsbD 1 = true → a.toNat % 4 = 0 → ∀ v, ws = [v] →
      exec (.mwrite a ws seq) s = .next (anvSend (xmsg 0x22 (if (masterWrite .anvil a.toNat 4 v.toNat t).1 then 0 else 1) 0 0 seq [])
        (masterWrite .anvil a.toNat 4 v.toNat t).2))) ∧
  (∀ (s : State) (op : JtagOp),
    let set := fun (o : JtagOp) (w : Word) (t : State) => t.modPower fun p => { p with tap := o, tapOut := w }
    exec (.jtagDebugAccess .idcode) s = .next (set .idcode Config.idcode s) ∧
    exec (.jtagDebugAccess .bypass) s = .next (set .bypass 0#32 s) ∧
    (op ≠ .idcode → s.ward.anv.grants.getLsbD 2 = false → exec (.jtagDebugAccess op) s = .next (set .bypass 0#32 s)) ∧
    (s.ward.anv.grants.getLsbD 2 = true → ∀ a v, (readNow .jtag a.toNat 4 s).1 = some v →
      exec (.jtagDebugAccess (.read a)) s = .next (set (.read a) (BitVec.ofNat 32 v) s)) ∧
    (s.ward.anv.grants.getLsbD 2 = true → ∀ a v,
      exec (.jtagDebugAccess (.write a v)) s = .next (set (.write a v) 0#32 (masterWrite .jtag a.toNat 4 v.toNat s).2)) ∧
    exec .tapReset s = .next (set .idcode 0#32 s))

/-- ALWAYS_ON_POWER_UP, DEVICE_RESET, BROWN_OUT, RESET_RELEASE, DEV_RESET, WARDEN_DEV_RESET, CORE_RESET, BLOCK_RESET,
TRIM_LOAD and TEMPERATURE_UPDATE. Always-on power-up leaves every register at reset and every memory 0 but the Keep. A
device reset is held with its cause recorded; the always-on registers but three, the retention RAM and the Keep stay,
the flash and the fuses with them, and every other register is at reset; the crystal runs on in test mode alone. A
brown-out records its supply. Release records the causes and counts them and sets BACKUP, where nothing else holds the reset. The key
written to SYS.DEV_RESET resets the part, another value is logged; the Warden's own register resets it too. A core
reset stops or starts the cores named and no other; a block reset returns the registers of the blocks named (but for the
log's own pointers and counts, which the scan's record moves), and a block that is not released is left alone;
an access to NET on its way has then acted or is lost. The trim load gives each row its first good copy, or 0 where the default is
a number, and marks the stage; a default below row 32 sets FAULT. The temperature's new value, one each 16 hinges, stands, and its
crossings of HIGH, up and 5 degrees below, are events. How a reset takes an SC write on its way is open (assumption 2)
(spec/25_power_reset_and_trim.md, spec/02_register_file_rules.md). -/
def Obligations.ResetsReturnTheirPart : Prop :=
  let reset := fun (s u : State) (cause : Nat) => u.power.held = true ∧ u.power.trimDone = false ∧ u.power.tap = .idcode ∧
    u.power.causes = wsetBit s.power.causes cause true ∧ u.ward.keylock = false ∧ u.ward.release = 0#21 ∧
    u.ward.fuses = s.ward.fuses ∧ u.flash = s.flash ∧ u.modes.sleep = .awake ∧
    (s.bus.sc = none → s.msg.prog = none → (∀ a, u.rd a = if keptReg a = true then s.rd a else regDefault a) ∧
      ∀ a, memGet u.mem a = if keptMem a = true then memGet s.mem a else 0#8)
  (∀ s : State, ∃ u, exec .alwaysOnPowerUp s = .next u ∧ u.power = State.reset.power ∧ (∀ a, u.rd a = regDefault a) ∧
    u.flash = s.flash ∧ u.ward.fuses = s.ward.fuses ∧ u.clk = State.reset.clk ∧
    (s.msg.prog = none → ∀ a, memGet u.mem a = if keepBase ≤ a ∧ a < keepBase + keepSize then memGet s.mem a else 0#8)) ∧
  (∀ p ∈ ([(.pin, 1, false), (.pwrOk, 2, false), (.testMode, 8, true)] : List (HoldCause × Nat × Bool)), ∀ s : State,
    ∃ u, exec (.deviceReset p.1) s = .next u ∧ reset s u p.2.1 ∧ u.clk.xtalOk = (p.2.2 && s.clk.xtalOk)) ∧
  (∀ p ∈ ([(.core, 9), (.serdes, 10), (.nv, 11), (.vdda, 12), (.ioA, 13), (.ioB, 14)] : List (Supply × Nat)), ∀ s : State,
    ∃ u, exec (.brownOut p.1) s = .next u ∧ u.power.held = true ∧ u.clk.xtalOk = false ∧
      u.power.causes = wsetBit (wsetBit s.power.causes 3 true) p.2 true) ∧
  (∀ (s : State) (io : Bool),
    (s.power.held = false ∨ s.power.aonReady = false ∨ s.power.xtalLost = true → exec (.resetRelease io) s = .next s) ∧
    (s.power.held = true → s.power.aonReady = true → s.power.xtalLost = false → ∃ u, exec (.resetRelease io) s = .next u ∧
      u = { s with regs := u.regs, mclk := { s.mclk with backup := true }, power := { s.power with held := false, causes := 0#32 } } ∧ u.bit Reg.ioStat 0 = io ∧
      u.rdf Reg.rstCause 0 15 = s.power.causes.toNat % 32768 ∧
      u.rdf Reg.rstCause 16 16 = min 0xFFFF (s.rdf Reg.rstCause 16 16 + 1))) ∧
  (∀ (s : State) (m : Master) (v : BitVec 64), reaches s m true 0x40000700 = true →
    (v.setWidth 32 = 0xB007#32 → ∃ u, exec (.devReset m .word v) s = .next u ∧ reset s u 5 ∧ u.clk.xtalOk = s.clk.xtalOk) ∧
    (v.setWidth 32 ≠ 0xB007#32 → exec (.devReset m .word v) s = .next (logAccess Reg.accFault 7 (masterId m) 4 0x40000700 true s))) ∧
  (∀ (s : State) (v : BitVec 64), s.power.held = false → (postedOf s false).all (fun p => p.master != .warden) = true →
    ∃ u, exec (.wardenDevReset .warden .word v) s = .next u ∧ reset s u 6 ∧ u.clk.xtalOk = s.clk.xtalOk) ∧
  (∀ (s : State) (m : Master) (v : BitVec 64), reaches s m true 0x40000704 = true → ∃ u, exec (.coreReset m .word v) s = .next u ∧
    u.mem = s.mem ∧ ∀ c < 4, (v.getLsbD c = false → u.ctlCore c = s.ctlCore c ∧ u.rd (Reg.icThresh c) = s.rd (Reg.icThresh c)) ∧
      (v.getLsbD c = true → u.rd (Reg.icThresh c) = 8#32 ∧ u.bit (Reg.wdogCfg c) 24 = false ∧ u.bit Reg.wdogStat c = false ∧
        u.ctlCore c = (if s.ward.keylock = true ∧ s.ward.release.getLsbD (17 + c) = true then
          { ctlDefault c with r := { (ctlDefault c).r with pc := s.rd (Reg.ccStart c) &&& 0xFFFFFFFE#32 }, st := .run } else ctlDefault c))) ∧
  (∀ (s : State) (m : Master) (v : BitVec 64), reaches s m true 0x40000708 = true →
    exec (.blockReset m .word v) s = .next (((bitsOf 16 (v.setWidth 32).toNat).filter (2 ≤ ·)).foldl
      (fun s k => blockReset k (if k = 9 ∧ released s 9 = true then netCut s else s)) s)) ∧
  (∀ s : State, (s.bus.net = none → netCut s = s) ∧ (∀ x, s.bus.net = some x → x.phase = .asked →
    ∃ y, (netCut s).bus.net = some y ∧ (y.phase = .lost ∨ ∃ v, y.phase = .acted v))) ∧
  (∀ (s : State) (k : Nat), (s.ward.release.getLsbD k = false → blockReset k s = s) ∧
    (s.ward.release.getLsbD k = true → 2 ≤ k → k < 16 → ∀ a, ownedBy k a = true → recordReg a = false →
      (blockReset k s).rd a = regDefault a ∧ tget none (blockReset k s).wbPend a = none)) ∧
  (∀ s : State, (s.power.held = true ∨ s.clk.xtalOk = false ∨ s.power.trimDone = true → exec .trimLoad s = .next s) ∧
    (s.power.held = false → s.clk.xtalOk = true → s.power.trimDone = false →
      let f := s.ward.fuses
      let layout := ∃ w, (trimRow f 0).map (·.1) = some w ∧ fld w 16 8 = 1
      ∃ u, exec .trimLoad s = .next u ∧ u.power.trimDone = true ∧ u.ward.stage = 1 ∧ u.ward.fuses = f ∧
        (layout → ∀ r < 48, ∀ w c, trimRow f r = some (w, c) → u.rd (0x40000800 + 4 * r) = w) ∧
        (∀ r < 48, ¬ layout ∨ trimRow f r = none → (trimZero r = true → u.rd (0x40000800 + 4 * r) = 0#32) ∧
          (r < 32 → u.bit Reg.faultStat 0 = true)) ∧
        (layout → (∀ r < 48, trimRow f r ≠ none) → u.ward.held = s.ward.held ∧ u.bit Reg.faultStat 0 = s.bit Reg.faultStat 0))) ∧
  (∀ (s : State) (t : BitVec 16),
    (s.power.held = true ∨ s.power.tempAge < 16 → exec (.temperatureUpdate t) s = .next s) ∧
    (s.power.held = false → 16 ≤ s.power.tempAge →
      let old : Int := sfld (s.rd 0x40000900) 0 16
      let high : Int := sfld (s.rd 0x40000904) 0 16
      ∃ u, exec (.temperatureUpdate t) s = .next u ∧ u.rd 0x40000900 = t.setWidth 32 ∧ u.power.tempAge = 0 ∧
        (old < high → high ≤ t.toInt → u.power.hot = true ∧ u.sq 0x40000908 = (s.sq 0x40000908).event [0]) ∧
        (¬ (old < high ∧ high ≤ t.toInt) → s.power.hot = true → t.toInt ≤ high - 320 →
          u.power.hot = false ∧ u.sq 0x40000908 = (s.sq 0x40000908).event [1]) ∧
        (¬ (old < high ∧ high ≤ t.toInt) → s.power.hot = false ∨ high - 320 < t.toInt →
          u = (s.modPower fun p => { p with tempAge := 0 }).wr 0x40000900 (t.setWidth 32))))
end

