-- ==== Sys2Proof/Laws/Access.lean ====
section
/-! SUPPORT. What a register access does that meets nothing on its way: the one lemma per direction that statements about
register commands rest on. -/

namespace Sys2Proof.Machine
open Sys2Proof

theorem setPosted_self (b : Bool) (s : State) : setPosted b (postedOf s b) s = s := by
  unfold setPosted postedOf
  cases b <;> rfl

/-- A master without posted writes has none delivered. -/
theorem deliverOf_none (m : Master) (b : Bool) (s : State) (h : (postedOf s b).all (fun p => p.master != m) = true) :
    deliverOf m b s = s := by
  have h1 : (postedOf s b).filter (fun p => p.master == m) = [] := by
    rw [List.filter_eq_nil_iff]
    intro x hx
    have := List.all_eq_true.mp h x hx
    simpa using this
  have h2 : (postedOf s b).filter (fun p => p.master != m) = postedOf s b := List.filter_eq_self.mpr (List.all_eq_true.mp h)
  unfold deliverOf
  rw [h1, h2]
  exact setPosted_self b s

theorem aligned_of_slots (a : Nat) (h : a % 4 = 0) : wordOf (directOf a) = directOf a := by
  unfold wordOf directOf
  omega

/-- An access into NET that finds crossing 12 idle, and is acknowledged in time, acts at once. -/
theorem netWhole_idle (x : NetAcc) (s : State) (hn : s.bus.net = none) (hl : s.bus.netLate = false) :
    netWhole x s = netAct x s := by
  have h1 : netDrain (s.bus.netWait.length + 1) s = s := by simp only [netDrain, hn]
  unfold netWhole
  simp only [h1, hl, Bool.false_eq_true, if_false]

/-- Crossing 12 lets an access through: the address is not NET's, or no other access is in it. -/
def netIdle (s : State) (a : Nat) : Prop :=
  regionOf a = .slots → a / 0x10000 % 16 = 9 → s.bus.net = none ∧ s.bus.netLate = false

/-- A write of a master that has nothing posted, performed now. -/
theorem writeNow_idle (s : State) (m : Master) (a n v : Nat) (h : netIdle s a)
    (hpost : (postedOf s (regionOf a).audio).all (fun p => p.master != m) = true) :
    writeNow m a n v s = busWrite (whoOf s m) a n v s := by
  unfold writeNow
  rw [deliverOf_none m _ s hpost]
  dsimp only
  split
  · rename_i hv
    simp only [viaNet, Bool.and_eq_true, beq_iff_eq] at hv
    obtain ⟨hn, hl⟩ := h hv.1.1.1.1.1 hv.1.1.1.1.2
    rw [netWhole_idle _ _ hn hl]
    unfold netAct
    simp only [if_true]
    cases hb : (busWrite (whoOf s m) a n v s).1 <;> simp [whoOf, hb] at * <;> rw [← hb]
  · rfl

/-- A read of a master that has nothing posted, performed now. -/
theorem readData_idle (s : State) (m : Master) (a n : Nat) (h : netIdle s a)
    (hpost : (postedOf s (regionOf a).audio).all (fun p => p.master != m) = true) :
    readData m a n s = busRead (whoOf s m) a n s := by
  unfold readData
  rw [deliverOf_none m _ s hpost]
  dsimp only
  split
  · rename_i hv
    simp only [viaNet, Bool.and_eq_true, beq_iff_eq] at hv
    obtain ⟨hn, hl⟩ := h hv.1.1.1.1.1 hv.1.1.1.1.2
    rw [netWhole_idle _ _ hn hl]
    rfl
  · rfl

/-- A register write of a master that does not cross the bridge and has nothing posted is the register's own. -/
theorem regAccess_slots (s : State) (m : Master) (a : Nat) (w : Width) (v : BitVec 64) (hreg : regionOf a = .slots)
    (hc : crosses s m a = false) (hpost : (postedOf s false).all (fun p => p.master != m) = true) (hn : netIdle s a)
    (hw : w ≠ .dword) :
    regAccess m a w v s
      = (regWrite (whoOf s m) a (widthBytes w) (v.toNat % 2 ^ (8 * widthBytes w)) s).2 := by
  have haud : (regionOf a).audio = false := by rw [hreg]; rfl
  have hregs : (regionOf a).regs = true := by rw [hreg]; rfl
  unfold regAccess masterWrite
  rw [if_neg (by simp [hc]), writeNow_idle s m a _ _ hn (by rw [haud]; exact hpost)]
  unfold busWrite
  rw [if_pos hregs, if_neg]
  rintro ⟨h8, -⟩
  cases w <;> simp [widthBytes] at h8 hw

/-- No register has an ECC error (R164). -/
theorem eccBad_slots (s : State) (w : Who) (a n : Nat) (hreg : regionOf a = .slots) : eccBad w a n s = false := by
  have hr : (regionOf a).regs = true := by rw [hreg]; rfl
  simp [eccBad, hr]

/-- A register read of a master that has nothing posted is the register's own; a debug read changes nothing else. -/
theorem regFetch_slots' (s : State) (m : Master) (a : Nat) (w : Width) (hreg : regionOf a = .slots)
    (hpost : (postedOf s false).all (fun p => p.master != m) = true) (hn : netIdle s a) (hw : w ≠ .dword) :
    regFetch m a w s = (if (whoOf s m).debug then s else (regRead (whoOf s m) a (widthBytes w) s).2).modBus fun b =>
      { b with answer := (regRead (whoOf s m) a (widthBytes w) s).1.map (BitVec.ofNat 64) } := by
  have haud : (regionOf a).audio = false := by rw [hreg]; rfl
  have hregs : (regionOf a).regs = true := by rw [hreg]; rfl
  have h8 : ¬ (widthBytes w = 8 ∧ a % 8 = 0) := by
    rintro ⟨h8, -⟩
    cases w <;> simp [widthBytes] at h8 hw
  have e : readNow m a (widthBytes w) s = ((regRead (whoOf s m) a (widthBytes w) s).1,
      if (whoOf s m).debug then s else (regRead (whoOf s m) a (widthBytes w) s).2) := by
    have e1 : busReadAct (whoOf s m) a (widthBytes w) s = regRead (whoOf s m) a (widthBytes w) s := by
      unfold busReadAct
      rw [if_pos hregs, if_neg h8]
    unfold readNow
    rw [readData_idle s m a _ hn (by rw [haud]; exact hpost), eccBad_slots s _ a _ hreg]
    unfold busRead
    dsimp only
    rw [e1, if_neg (by decide)]
    split <;> rfl
  unfold regFetch
  rw [e]

theorem regFetch_slots (s : State) (m : Master) (a : Nat) (w : Width) (hreg : regionOf a = .slots)
    (hpost : (postedOf s false).all (fun p => p.master != m) = true) (hn : netIdle s a) (hw : w ≠ .dword)
    (hd : (whoOf s m).debug = false) :
    regFetch m a w s = (regRead (whoOf s m) a (widthBytes w) s).2.modBus fun b =>
      { b with answer := (regRead (whoOf s m) a (widthBytes w) s).1.map (BitVec.ofNat 64) } := by
  rw [regFetch_slots' s m a w hreg hpost hn hw, hd]
  rfl

/-- What `reaches` says of NET: its clock runs and crossing 12 is idle. -/
theorem reaches_net {s : State} {m : Master} {w : Bool} {a : Nat} (h : reaches s m w a = true) :
    netIdle s a ∧ netDown s a = false := by
  simp only [reaches, Bool.and_eq_true, Bool.or_eq_true, bne_iff_ne, ne_eq, Option.isNone_iff_eq_none, Bool.not_eq_true'] at h
  rcases h.2 with hn | ⟨⟨hk, hn⟩, hl⟩
  · exact ⟨fun _ h9 => absurd h9 hn, by simp [netDown, hn]⟩
  · exact ⟨fun _ _ => ⟨hn, hl⟩, by simp [netDown, hk]⟩

/-- A word write that reaches a register of the slots is the write of its access code (R30 to R34). -/
theorem regAccess_reaches (s : State) (m : Master) (a : Nat) (v : BitVec 64) (r : RegRow) (h : reaches s m true a = true)
    (hr : rowAt (directOf a) = some r) (hk : directOf a ≠ 0x40000700)
    (hs : directOf a % 0x10000 < 0x8000)
    (hp : aliasOf a = 0 ∨ r.cls = .rw ∨ r.cls = .wb ∨ r.cls = .wd) :
    regAccess m a .word v s = classWrite (whoOf s m) (aliasOf a) (directOf a) r (v.setWidth 32) s := by
  obtain ⟨hni, hnd⟩ := reaches_net h
  simp only [reaches, Bool.and_eq_true, beq_iff_eq, decide_eq_true_eq, Bool.not_eq_true', Bool.or_eq_true, bne_iff_ne,
    ne_eq] at h
  obtain ⟨⟨⟨⟨⟨⟨hreg, hal⟩, hc⟩, hpost⟩, hf⟩, hh⟩, -⟩ := h
  have hsh : ¬ (inSlots (directOf a) && decide (0x8000 ≤ directOf a % 0x10000)) = true := by
    simp; intro _; omega
  have hcls : ¬ (aliasOf a ≠ 0 ∧ r.cls ≠ .rw ∧ r.cls ≠ .wb ∧ r.cls ≠ .wd) := by
    rintro ⟨h1, h2, h3, h4⟩
    exact hp.elim h1 fun hp => hp.elim h2 fun hp => hp.elim h3 h4
  have hv : BitVec.ofNat 32 (v.toNat % 2 ^ 32) = v.setWidth 32 := by
    apply BitVec.eq_of_toNat_eq
    simp
  have hw : regWrite (whoOf s m) a 4 (v.toNat % 2 ^ 32) s
      = (true, classWrite (whoOf s m) (aliasOf a) (directOf a) r (v.setWidth 32) s) := by
    unfold regWrite
    rw [hf]
    simp only [hh, hnd, hreg, if_true, hal, Bool.or_self, Bool.false_eq_true, ne_eq, not_true_eq_false, if_false]
    rw [aligned_of_slots a hal, if_neg hsh, hr]
    simp only [hv]
    rw [if_neg (by decide), if_neg hk, if_neg hcls, if_neg (by decide)]
  rw [regAccess_slots s m a .word v hreg hc hpost hni (by decide)]
  exact congrArg Prod.snd hw

/-- The same for a register at its own address. -/
theorem regAccess_own (s : State) (m : Master) (a : Nat) (v : BitVec 64) (r : RegRow) (h : reaches s m true a = true)
    (hr : rowAt a = some r) (hi : inSlots a = true) (ho : a % 0x10000 < 0x8000) (hk : a ≠ 0x40000700) :
    regAccess m a .word v s = classWrite (whoOf s m) 0 a r (v.setWidth 32) s := by
  simp only [inSlots, decide_eq_true_eq] at hi
  have hd : directOf a = a := by unfold directOf; omega
  have hp : aliasOf a = 0 := by unfold aliasOf; omega
  have e := regAccess_reaches s m a v r h (by rw [hd]; exact hr) (by rw [hd]; exact hk) (by rw [hd]; exact ho) (.inl hp)
  rw [hd, hp] at e
  exact e

/-- A word read that reaches a register of the slots returns its view and leaves what its access code says (R30, R35). -/
theorem regRead_reaches (s : State) (m : Master) (a : Nat) (r : RegRow) (h : reaches s m false a = true)
    (hr : rowAt (directOf a) = some r) (hs : directOf a % 0x10000 < 0x8000) (hp : aliasOf a = 0) :
    regRead (whoOf s m) a 4 s = (some (slotView (directOf a) r s).toNat, readEffect (directOf a) r s) := by
  obtain ⟨-, hnd⟩ := reaches_net h
  simp only [reaches, Bool.and_eq_true, beq_iff_eq, decide_eq_true_eq, Bool.not_eq_true', Bool.or_eq_true, bne_iff_ne,
    ne_eq] at h
  obtain ⟨⟨⟨⟨⟨⟨hreg, hal⟩, _⟩, _⟩, hf⟩, hh⟩, -⟩ := h
  unfold regRead
  rw [hf]
  simp only [hh, hnd, hreg, if_true, hal, Bool.or_self, Bool.false_eq_true, ne_eq, not_true_eq_false, if_false]
  rw [aligned_of_slots a hal, hr]
  simp only [hp]
  rw [if_neg (by omega), if_neg (by decide), if_neg (by decide), if_neg (by omega), if_neg (by decide)]

theorem regFetch_reaches (s : State) (m : Master) (a : Nat) (r : RegRow) (h : reaches s m false a = true)
    (hr : rowAt (directOf a) = some r) (hs : directOf a % 0x10000 < 0x8000) (hp : aliasOf a = 0)
    (hd : (whoOf s m).debug = false) :
    regFetch m a .word s = (readEffect (directOf a) r s).modBus fun b =>
      { b with answer := some (BitVec.ofNat 64 (slotView (directOf a) r s).toNat) } := by
  have h' := h
  have hni := (reaches_net h).1
  simp only [reaches, Bool.and_eq_true, beq_iff_eq, decide_eq_true_eq, Bool.not_eq_true', Bool.or_eq_true, bne_iff_ne,
    ne_eq] at h
  obtain ⟨⟨⟨⟨⟨⟨hreg, _⟩, _⟩, hpost⟩, _⟩, _⟩, _⟩ := h
  have e := regRead_reaches s m a r h' hr hs hp
  rw [regFetch_slots s m a .word hreg hpost hni (by decide) hd, show widthBytes .word = 4 from rfl, e]
  simp only [Option.map_some]

/-- The same for a register at its own address, by the class that the row's table names. -/
theorem regFetch_own (s : State) (m : Master) (a : Nat) (c : Cls) (h : reaches s m false a = true)
    (hr : ∃ r, rowAt a = some r ∧ r.cls = c) (hi : inSlots a = true) (ho : a % 0x10000 < 0x8000)
    (hd : (whoOf s m).debug = false) :
    ∃ r, rowAt a = some r ∧ r.cls = c ∧ regFetch m a .word s = (readEffect a r s).modBus fun b =>
      { b with answer := some (BitVec.ofNat 64 (slotView a r s).toNat) } := by
  simp only [inSlots, decide_eq_true_eq] at hi
  have hd' : directOf a = a := by unfold directOf; omega
  have hp : aliasOf a = 0 := by unfold aliasOf; omega
  obtain ⟨r, hr, hc⟩ := hr
  have e := regFetch_reaches s m a r h (by rw [hd']; exact hr) (by rw [hd']; exact ho) hp hd
  rw [hd'] at e
  exact ⟨r, hr, hc, e⟩

/-- What a register of PORTS reads as, unless its class says so alone. -/
theorem slotView_ports (a : Nat) (r : RegRow) (s : State) (h : a / 0x10000 % 16 = 15) (h8 : a % 0x10000 ≠ 8)
    (h1 : r.cls ≠ .w1) (h2 : r.cls ≠ .sq) : slotView a r s = portsView a s := by
  unfold slotView
  simp only [h, h1, h2, h8, if_false]

/-- A word write of a register at its own address, by the class that the row's table names. -/
theorem regAccess_class (s : State) (m : Master) (a : Nat) (v : BitVec 64) (c : Cls) (h : reaches s m true a = true)
    (hr : ∃ r, rowAt a = some r ∧ r.cls = c) (hi : inSlots a = true) (ho : a % 0x10000 < 0x8000) (hk : a ≠ 0x40000700) :
    ∃ r, rowAt a = some r ∧ r.cls = c ∧ regAccess m a .word v s = classWrite (whoOf s m) 0 a r (v.setWidth 32) s := by
  obtain ⟨r, hr, hc⟩ := hr
  exact ⟨r, hr, hc, regAccess_own s m a v r h hr hi ho hk⟩

/-- A word write of a write-one register. -/
theorem regAccess_w1 (s : State) (m : Master) (a : Nat) (v : BitVec 64) (h : reaches s m true a = true)
    (hr : ∃ r, rowAt a = some r ∧ r.cls = .w1) (hi : inSlots a = true) (ho : a % 0x10000 < 0x8000) (hk : a ≠ 0x40000700) :
    regAccess m a .word v s = w1Write (whoOf s m) a (v.setWidth 32) s := by
  obtain ⟨r, _, hc, e⟩ := regAccess_class s m a v .w1 h hr hi ho hk
  rw [e]
  simp only [classWrite, hc]

/-- A word write of an RW register whose bits are `k`. -/
theorem regAccess_rw (s : State) (m : Master) (a k : Nat) (v : BitVec 64) (h : reaches s m true a = true)
    (hr : ∃ r, rowAt a = some r ∧ r.cls = .rw ∧ r.mask = k) (hi : inSlots a = true) (ho : a % 0x10000 < 0x8000)
    (hk : a ≠ 0x40000700) :
    regAccess m a .word v s = rwWrite (whoOf s m) a (v.setWidth 32 &&& BitVec.ofNat 32 k) s := by
  obtain ⟨r, hr, hc, rfl⟩ := hr
  rw [regAccess_own s m a v r h hr hi ho hk]
  simp only [classWrite, hc, aliased]

/-- A word write of a WB register whose bits are `k`. -/
theorem regAccess_wb (s : State) (m : Master) (a k : Nat) (v : BitVec 64) (h : reaches s m true a = true)
    (hr : ∃ r, rowAt a = some r ∧ r.cls = .wb ∧ r.mask = k) (hi : inSlots a = true) (ho : a % 0x10000 < 0x8000)
    (hk : a ≠ 0x40000700) :
    regAccess m a .word v s = wbWrite a (v.setWidth 32 &&& BitVec.ofNat 32 k) s := by
  obtain ⟨r, hr, hc, rfl⟩ := hr
  rw [regAccess_own s m a v r h hr hi ho hk]
  simp only [classWrite, hc, aliased]

/-- Words enter and leave a bridge buffer. -/
theorem setPosted_setPosted (b : Bool) (k l : List Posted) (s : State) :
    setPosted b k (setPosted b l s) = setPosted b k s := by
  cases b <;> rfl

theorem postedOf_setPosted (b : Bool) (l : List Posted) (s : State) : postedOf (setPosted b l s) b = l := by
  cases b <;> rfl

/-- A write posted into a buffer with room, by a master with nothing in it, is delivered next. -/
theorem post_deliver (m : Master) (p : Posted) (s : State) (hp : p.master = m)
    (hpost : (postedOf s (regionOf p.addr).audio).all (fun q => q.master != m) = true)
    (hroom : (postedOf s (regionOf p.addr).audio).length < 32) :
    deliverOf m (regionOf p.addr).audio (postWrite p s) = deliverPosted p s := by
  have h1 : (postedOf s (regionOf p.addr).audio).filter (fun q => q.master == m) = [] := by
    rw [List.filter_eq_nil_iff]
    intro x hx
    have := List.all_eq_true.mp hpost x hx
    simpa using this
  have h2 : (postedOf s (regionOf p.addr).audio).filter (fun q => q.master != m) = postedOf s (regionOf p.addr).audio :=
    List.filter_eq_self.mpr (List.all_eq_true.mp hpost)
  unfold deliverOf postWrite
  dsimp only
  rw [if_neg (by omega), postedOf_setPosted, List.filter_append, List.filter_append, h1, h2, setPosted_setPosted]
  simp [hp, setPosted_self]

/-- A word write on the audio side whose command is its arrival is the region's own, whether or not it crosses the bridge. -/
theorem regArrive_audio (s : State) (m : Master) (a : Nat) (v : BitVec 64) (h : reachesAudio s m a = true) :
    regArrive m a .word v s = (memoryWrite (whoOf s m) a 4 (v.toNat % 2 ^ 32) s).2 := by
  simp only [reachesAudio, Bool.and_eq_true, Bool.or_eq_true, beq_iff_eq, decide_eq_true_eq, Bool.not_eq_true'] at h
  obtain ⟨⟨⟨⟨⟨hreg, hal⟩, hpost⟩, hroom⟩, hf⟩, hh⟩ := h
  have hregs : (regionOf a).regs = false := by rcases hreg with e | e <;> rw [e] <;> rfl
  have haud : (regionOf a).audio = true := by rcases hreg with e | e <;> rw [e] <;> rfl
  have hk : ¬ (regionOf a = .keep ∨ regionOf a = .flash) := by rcases hreg with e | e <;> simp [e]
  have hni : netIdle s a := by intro e; rcases hreg with e' | e' <;> rw [e'] at e <;> contradiction
  have hok : ∀ x, (memoryWrite (whoOf s m) a 4 x s).1 = true := by
    intro x
    rcases hreg with e | e <;> simp only [memoryWrite, e]
    · rfl
    · split <;> rfl
  have hb : ∀ x, busWrite (whoOf s m) a 4 x s = memoryWrite (whoOf s m) a 4 x s := by
    intro x
    unfold busWrite
    rw [hregs, hf]
    simp only [Bool.false_eq_true, if_false, hk, hh, hal, ne_eq, not_true_eq_false, and_false]
  unfold regArrive arriveWrite masterWrite
  by_cases hc : crosses s m a = true
  · simp only [hc, if_true]
    rw [post_deliver m ⟨m, lvlOf s m, a, widthBytes .word, v.toNat % 2 ^ (8 * widthBytes .word)⟩ s rfl
      (by simpa only [haud] using hpost) (by simpa only [haud] using hroom)]
    unfold deliverPosted
    simp only [widthBytes, Nat.reduceMul, show (⟨m, lvlOf s m⟩ : Who) = whoOf s m from rfl, hb, hok, if_true]
  · simp only [hc, Bool.false_eq_true, if_false]
    rw [writeNow_idle s m a _ _ hni (by rw [haud]; exact hpost)]
    simp only [widthBytes, Nat.reduceMul, hb]

/-- A word write of a word of the engine table aperture whose command is its arrival. -/
theorem regArrive_table (s : State) (m : Master) (a : Nat) (v : BitVec 64) (h : reachesAudio s m a = true)
    (hr : regionOf a = .aperture) :
    regArrive m a .word v s = apertureWrite (whoOf s m) a 4 (v.toNat % 2 ^ 32) a s := by
  rw [regArrive_audio s m a v h]
  simp only [memoryWrite, hr]
  rw [if_neg (by decide)]

end Sys2Proof.Machine
end

