-- ==== Sys2Proof/Laws/Tables.lean ====
section
/-! SUPPORT. The laws of the sparse tables and the byte memories: what is read after a write, and that every operation
keeps the canonical form. -/

namespace Sys2Proof.Machine
open Sys2Proof

/-! ### Reads after writes -/

theorem tget_tput {α : Type} (d v : α) (t : Table α) (k j : Nat) :
    tget d (tput t k v) j = if j = k then v else tget d t j := by
  induction t with
  | nil => simp [tput, tget]
  | cons x t ih =>
    obtain ⟨k', w⟩ := x
    simp only [tput]
    split
    · simp [tget]
    · split
      · rename_i _ h; subst h; simp only [tget]; split <;> simp_all
      · simp only [tget, ih]; split <;> simp_all; intros; omega

theorem tget_tdel {α : Type} (d : α) (t : Table α) (k j : Nat) :
    tget d (tdel t k) j = if j = k then d else tget d t j := by
  induction t with
  | nil => simp [tdel, tget]
  | cons x t ih =>
    obtain ⟨k', w⟩ := x
    simp only [tdel]
    split
    · rename_i h; subst h; rw [ih]; simp only [tget]; split <;> simp_all
    · simp only [tget, ih]; split <;> simp_all; intros; omega

/-- Reading a table after a write: the key written reads as the value, every other key as before. -/
theorem tget_tset {α : Type} [DecidableEq α] (d v : α) (t : Table α) (k j : Nat) :
    tget d (tset d t k v) j = if j = k then v else tget d t j := by
  unfold tset
  split
  · rename_i h; rw [tget_tdel, h]
  · exact tget_tput d v t k j

@[simp] theorem tget_tset_self {α : Type} [DecidableEq α] (d v : α) (t : Table α) (k : Nat) :
    tget d (tset d t k v) k = v := by simp [tget_tset]

theorem tget_tset_ne {α : Type} [DecidableEq α] (d v : α) (t : Table α) (k j : Nat) (h : j ≠ k) :
    tget d (tset d t k v) j = tget d t j := by simp [tget_tset, h]

/-! ### The canonical form -/

theorem twf_cons {α : Type} [DecidableEq α] (d : Nat → α) (x : Nat × α) (t : Table α) :
    twf d (x :: t) = true ↔ x.2 ≠ d x.1 ∧ (∀ y ∈ t, x.1 < y.1) ∧ twf d t = true := by
  induction t generalizing x with
  | nil => obtain ⟨k, v⟩ := x; simp [twf]
  | cons y t ih =>
    obtain ⟨k, v⟩ := x; obtain ⟨k', v'⟩ := y
    have h := ih (k', v')
    simp only [twf, Bool.and_eq_true, decide_eq_true_eq, List.mem_cons, forall_eq_or_imp] at h ⊢
    constructor
    · rintro ⟨⟨h1, h2⟩, h3⟩
      exact ⟨h1, ⟨h2, fun z hz => Nat.lt_trans h2 ((h.mp h3).2.1 z hz)⟩, h3⟩
    · rintro ⟨h1, ⟨h2, _⟩, h3⟩
      exact ⟨⟨h1, h2⟩, h3⟩

theorem mem_tdel {α : Type} (t : Table α) (k : Nat) (y : Nat × α) (h : y ∈ tdel t k) : y ∈ t := by
  induction t with
  | nil => simp [tdel] at h
  | cons x t ih =>
    obtain ⟨k', w⟩ := x
    simp only [tdel] at h
    split at h
    · exact List.mem_cons_of_mem _ (ih h)
    · rcases List.mem_cons.mp h with h | h
      · exact h ▸ List.mem_cons_self
      · exact List.mem_cons_of_mem _ (ih h)

theorem mem_tput {α : Type} (t : Table α) (k : Nat) (v : α) (y : Nat × α) (h : y ∈ tput t k v) :
    y = (k, v) ∨ y ∈ t := by
  induction t with
  | nil => simpa [tput] using h
  | cons x t ih =>
    obtain ⟨k', w⟩ := x
    simp only [tput] at h
    split at h
    · simpa using h
    · split at h
      · rcases List.mem_cons.mp h with h | h
        · exact .inl h
        · exact .inr (List.mem_cons_of_mem _ h)
      · rcases List.mem_cons.mp h with h | h
        · exact .inr (h ▸ List.mem_cons_self)
        · rcases ih h with h | h
          · exact .inl h
          · exact .inr (List.mem_cons_of_mem _ h)

theorem twf_tdel {α : Type} [DecidableEq α] (d : Nat → α) (t : Table α) (k : Nat) (h : twf d t = true) :
    twf d (tdel t k) = true := by
  induction t with
  | nil => rfl
  | cons x t ih =>
    obtain ⟨k', w⟩ := x
    have h' := (twf_cons d (k', w) t).mp h
    simp only [tdel]
    split
    · exact ih h'.2.2
    · exact (twf_cons d _ _).mpr ⟨h'.1, fun y hy => h'.2.1 y (mem_tdel t k y hy), ih h'.2.2⟩

theorem twf_tput {α : Type} [DecidableEq α] (d : Nat → α) (t : Table α) (k : Nat) (v : α) (hv : v ≠ d k)
    (h : twf d t = true) : twf d (tput t k v) = true := by
  induction t with
  | nil => simpa [tput, twf] using hv
  | cons x t ih =>
    obtain ⟨k', w⟩ := x
    have h' := (twf_cons d (k', w) t).mp h
    simp only [tput]
    split
    · rename_i hk
      refine (twf_cons d _ _).mpr ⟨hv, fun y hy => ?_, h⟩
      rcases List.mem_cons.mp hy with hy | hy
      · subst hy; exact hk
      · exact Nat.lt_trans hk (h'.2.1 y hy)
    · split
      · rename_i _ hk; subst hk
        exact (twf_cons d _ _).mpr ⟨hv, h'.2.1, h'.2.2⟩
      · rename_i h1 h2
        refine (twf_cons d _ _).mpr ⟨h'.1, fun y hy => ?_, ih h'.2.2⟩
        rcases mem_tput t k v y hy with hy | hy
        · subst hy; show k' < k; omega
        · exact h'.2.1 y hy

/-- A write keeps the canonical form. -/
theorem twf_tset {α : Type} [DecidableEq α] (d : Nat → α) (t : Table α) (k : Nat) (v : α) (h : twf d t = true) :
    twf d (tset (d k) t k v) = true := by
  unfold tset
  split
  · exact twf_tdel d t k h
  · rename_i hv; exact twf_tput d t k v hv h

/-- Dropping entries keeps the canonical form. -/
theorem twf_filter {α : Type} [DecidableEq α] (d : Nat → α) (p : Nat × α → Bool) (t : Table α)
    (h : twf d t = true) : twf d (t.filter p) = true := by
  induction t with
  | nil => rfl
  | cons x t ih =>
    have h' := (twf_cons d x t).mp h
    simp only [List.filter_cons]
    split
    · exact (twf_cons d _ _).mpr ⟨h'.1, fun y hy => h'.2.1 y (List.mem_filter.mp hy |>.1), ih h'.2.2⟩
    · exact ih h'.2.2

/-! ### Byte memories -/

theorem memGet_memPut (m : List Host.Cell) (a b : Nat) (v : Byte) :
    memGet (memPut m a v) b = if b = a then v else memGet m b := tget_tset _ _ _ _ _

theorem memGet_memPutBytes (m : List Host.Cell) (a b : Nat) (l : List Byte) (h : b < a ∨ a + l.length ≤ b) :
    memGet (memPutBytes m a l) b = memGet m b := by
  induction l generalizing m a with
  | nil => rfl
  | cons x l ih =>
    simp only [List.length_cons] at h
    simp only [memPutBytes]
    rw [ih _ _ (by omega), memGet_memPut, if_neg (by omega)]

theorem Memory.wf_memPut (m : List Host.Cell) (a : Nat) (v : Byte) (h : Memory.wf m = true) :
    Memory.wf (memPut m a v) = true := twf_tset (fun _ => memDefault) m a v h

theorem Memory.wf_memPutBytes (m : List Host.Cell) (a : Nat) (l : List Byte) (h : Memory.wf m = true) :
    Memory.wf (memPutBytes m a l) = true := by
  induction l generalizing m a with
  | nil => exact h
  | cons x l ih => exact ih _ _ (Memory.wf_memPut m a x h)

theorem Memory.wf_filter (m : List Host.Cell) (p : Host.Cell → Bool) (h : Memory.wf m = true) :
    Memory.wf (m.filter p) = true := twf_filter _ p m h

theorem Memory.wf_memZero (m : List Host.Cell) (lo hi : Nat) (h : Memory.wf m = true) :
    Memory.wf (memZero m lo hi) = true := Memory.wf_filter m _ h

end Sys2Proof.Machine
end

