-- ==== Sys2Proof/Laws/State.lean ====
section
/-! SUPPORT. What the updates of the state leave as it is, and what reading back an updated part gives: one lemma per update and
field, so that no proof unfolds an update. -/

namespace Sys2Proof.Machine
open Sys2Proof

/-! ### inc -/

@[simp] theorem State.inc_wbPend (s : State) (a : Nat) : (s.inc a).wbPend = s.wbPend := rfl
@[simp] theorem State.inc_sqs (s : State) (a : Nat) : (s.inc a).sqs = s.sqs := rfl
@[simp] theorem State.inc_mem (s : State) (a : Nat) : (s.inc a).mem = s.mem := rfl
@[simp] theorem State.inc_flash (s : State) (a : Nat) : (s.inc a).flash = s.flash := rfl
@[simp] theorem State.inc_ecc (s : State) (a : Nat) : (s.inc a).ecc = s.ecc := rfl
@[simp] theorem State.inc_bus (s : State) (a : Nat) : (s.inc a).bus = s.bus := rfl
@[simp] theorem State.inc_clk (s : State) (a : Nat) : (s.inc a).clk = s.clk := rfl
@[simp] theorem State.inc_mclk (s : State) (a : Nat) : (s.inc a).mclk = s.mclk := rfl
@[simp] theorem State.inc_bridges (s : State) (a : Nat) : (s.inc a).bridges = s.bridges := rfl
@[simp] theorem State.inc_ctl (s : State) (a : Nat) : (s.inc a).ctl = s.ctl := rfl
@[simp] theorem State.inc_eng (s : State) (a : Nat) : (s.inc a).eng = s.eng := rfl
@[simp] theorem State.inc_safe (s : State) (a : Nat) : (s.inc a).safe = s.safe := rfl
@[simp] theorem State.inc_weld (s : State) (a : Nat) : (s.inc a).weld = s.weld := rfl
@[simp] theorem State.inc_qnch (s : State) (a : Nat) : (s.inc a).qnch = s.qnch := rfl
@[simp] theorem State.inc_tone (s : State) (a : Nat) : (s.inc a).tone = s.tone := rfl
@[simp] theorem State.inc_tdm (s : State) (a : Nat) : (s.inc a).tdm = s.tdm := rfl
@[simp] theorem State.inc_net (s : State) (a : Nat) : (s.inc a).net = s.net := rfl
@[simp] theorem State.inc_dict (s : State) (a : Nat) : (s.inc a).dict = s.dict := rfl
@[simp] theorem State.inc_ril (s : State) (a : Nat) : (s.inc a).ril = s.ril := rfl
@[simp] theorem State.inc_dma (s : State) (a : Nat) : (s.inc a).dma = s.dma := rfl
@[simp] theorem State.inc_sense (s : State) (a : Nat) : (s.inc a).sense = s.sense := rfl
@[simp] theorem State.inc_ports (s : State) (a : Nat) : (s.inc a).ports = s.ports := rfl
@[simp] theorem State.inc_msg (s : State) (a : Nat) : (s.inc a).msg = s.msg := rfl
@[simp] theorem State.inc_evt (s : State) (a : Nat) : (s.inc a).evt = s.evt := rfl
@[simp] theorem State.inc_modes (s : State) (a : Nat) : (s.inc a).modes = s.modes := rfl
@[simp] theorem State.inc_ward (s : State) (a : Nat) : (s.inc a).ward = s.ward := rfl
@[simp] theorem State.inc_power (s : State) (a : Nat) : (s.inc a).power = s.power := rfl
@[simp] theorem State.inc_free (s : State) (a : Nat) : (s.inc a).free = s.free := rfl
@[simp] theorem State.inc_pending (s : State) (a : Nat) : (s.inc a).pending = s.pending := rfl

/-! ### lanePut -/

@[simp] theorem State.lanePut_regs (s : State) (l : Nat) (v : Word) : (s.lanePut l v).regs = s.regs := rfl
@[simp] theorem State.lanePut_wbPend (s : State) (l : Nat) (v : Word) : (s.lanePut l v).wbPend = s.wbPend := rfl
@[simp] theorem State.lanePut_sqs (s : State) (l : Nat) (v : Word) : (s.lanePut l v).sqs = s.sqs := rfl
@[simp] theorem State.lanePut_mem (s : State) (l : Nat) (v : Word) : (s.lanePut l v).mem = s.mem := rfl
@[simp] theorem State.lanePut_flash (s : State) (l : Nat) (v : Word) : (s.lanePut l v).flash = s.flash := rfl
@[simp] theorem State.lanePut_ecc (s : State) (l : Nat) (v : Word) : (s.lanePut l v).ecc = s.ecc := rfl
@[simp] theorem State.lanePut_bus (s : State) (l : Nat) (v : Word) : (s.lanePut l v).bus = s.bus := rfl
@[simp] theorem State.lanePut_clk (s : State) (l : Nat) (v : Word) : (s.lanePut l v).clk = s.clk := rfl
@[simp] theorem State.lanePut_mclk (s : State) (l : Nat) (v : Word) : (s.lanePut l v).mclk = s.mclk := rfl
@[simp] theorem State.lanePut_bridges (s : State) (l : Nat) (v : Word) : (s.lanePut l v).bridges = s.bridges := rfl
@[simp] theorem State.lanePut_ctl (s : State) (l : Nat) (v : Word) : (s.lanePut l v).ctl = s.ctl := rfl
@[simp] theorem State.lanePut_safe (s : State) (l : Nat) (v : Word) : (s.lanePut l v).safe = s.safe := rfl
@[simp] theorem State.lanePut_weld (s : State) (l : Nat) (v : Word) : (s.lanePut l v).weld = s.weld := rfl
@[simp] theorem State.lanePut_qnch (s : State) (l : Nat) (v : Word) : (s.lanePut l v).qnch = s.qnch := rfl
@[simp] theorem State.lanePut_tone (s : State) (l : Nat) (v : Word) : (s.lanePut l v).tone = s.tone := rfl
@[simp] theorem State.lanePut_tdm (s : State) (l : Nat) (v : Word) : (s.lanePut l v).tdm = s.tdm := rfl
@[simp] theorem State.lanePut_net (s : State) (l : Nat) (v : Word) : (s.lanePut l v).net = s.net := rfl
@[simp] theorem State.lanePut_dict (s : State) (l : Nat) (v : Word) : (s.lanePut l v).dict = s.dict := rfl
@[simp] theorem State.lanePut_ril (s : State) (l : Nat) (v : Word) : (s.lanePut l v).ril = s.ril := rfl
@[simp] theorem State.lanePut_dma (s : State) (l : Nat) (v : Word) : (s.lanePut l v).dma = s.dma := rfl
@[simp] theorem State.lanePut_sense (s : State) (l : Nat) (v : Word) : (s.lanePut l v).sense = s.sense := rfl
@[simp] theorem State.lanePut_ports (s : State) (l : Nat) (v : Word) : (s.lanePut l v).ports = s.ports := rfl
@[simp] theorem State.lanePut_msg (s : State) (l : Nat) (v : Word) : (s.lanePut l v).msg = s.msg := rfl
@[simp] theorem State.lanePut_evt (s : State) (l : Nat) (v : Word) : (s.lanePut l v).evt = s.evt := rfl
@[simp] theorem State.lanePut_modes (s : State) (l : Nat) (v : Word) : (s.lanePut l v).modes = s.modes := rfl
@[simp] theorem State.lanePut_ward (s : State) (l : Nat) (v : Word) : (s.lanePut l v).ward = s.ward := rfl
@[simp] theorem State.lanePut_power (s : State) (l : Nat) (v : Word) : (s.lanePut l v).power = s.power := rfl
@[simp] theorem State.lanePut_free (s : State) (l : Nat) (v : Word) : (s.lanePut l v).free = s.free := rfl
@[simp] theorem State.lanePut_pending (s : State) (l : Nat) (v : Word) : (s.lanePut l v).pending = s.pending := rfl

/-! ### modAnv -/

@[simp] theorem State.modAnv_regs (s : State) (f : Anvil → Anvil) : (s.modAnv f).regs = s.regs := rfl
@[simp] theorem State.modAnv_wbPend (s : State) (f : Anvil → Anvil) : (s.modAnv f).wbPend = s.wbPend := rfl
@[simp] theorem State.modAnv_sqs (s : State) (f : Anvil → Anvil) : (s.modAnv f).sqs = s.sqs := rfl
@[simp] theorem State.modAnv_mem (s : State) (f : Anvil → Anvil) : (s.modAnv f).mem = s.mem := rfl
@[simp] theorem State.modAnv_flash (s : State) (f : Anvil → Anvil) : (s.modAnv f).flash = s.flash := rfl
@[simp] theorem State.modAnv_ecc (s : State) (f : Anvil → Anvil) : (s.modAnv f).ecc = s.ecc := rfl
@[simp] theorem State.modAnv_bus (s : State) (f : Anvil → Anvil) : (s.modAnv f).bus = s.bus := rfl
@[simp] theorem State.modAnv_clk (s : State) (f : Anvil → Anvil) : (s.modAnv f).clk = s.clk := rfl
@[simp] theorem State.modAnv_mclk (s : State) (f : Anvil → Anvil) : (s.modAnv f).mclk = s.mclk := rfl
@[simp] theorem State.modAnv_bridges (s : State) (f : Anvil → Anvil) : (s.modAnv f).bridges = s.bridges := rfl
@[simp] theorem State.modAnv_ctl (s : State) (f : Anvil → Anvil) : (s.modAnv f).ctl = s.ctl := rfl
@[simp] theorem State.modAnv_eng (s : State) (f : Anvil → Anvil) : (s.modAnv f).eng = s.eng := rfl
@[simp] theorem State.modAnv_safe (s : State) (f : Anvil → Anvil) : (s.modAnv f).safe = s.safe := rfl
@[simp] theorem State.modAnv_weld (s : State) (f : Anvil → Anvil) : (s.modAnv f).weld = s.weld := rfl
@[simp] theorem State.modAnv_qnch (s : State) (f : Anvil → Anvil) : (s.modAnv f).qnch = s.qnch := rfl
@[simp] theorem State.modAnv_tone (s : State) (f : Anvil → Anvil) : (s.modAnv f).tone = s.tone := rfl
@[simp] theorem State.modAnv_tdm (s : State) (f : Anvil → Anvil) : (s.modAnv f).tdm = s.tdm := rfl
@[simp] theorem State.modAnv_net (s : State) (f : Anvil → Anvil) : (s.modAnv f).net = s.net := rfl
@[simp] theorem State.modAnv_dict (s : State) (f : Anvil → Anvil) : (s.modAnv f).dict = s.dict := rfl
@[simp] theorem State.modAnv_ril (s : State) (f : Anvil → Anvil) : (s.modAnv f).ril = s.ril := rfl
@[simp] theorem State.modAnv_dma (s : State) (f : Anvil → Anvil) : (s.modAnv f).dma = s.dma := rfl
@[simp] theorem State.modAnv_sense (s : State) (f : Anvil → Anvil) : (s.modAnv f).sense = s.sense := rfl
@[simp] theorem State.modAnv_ports (s : State) (f : Anvil → Anvil) : (s.modAnv f).ports = s.ports := rfl
@[simp] theorem State.modAnv_msg (s : State) (f : Anvil → Anvil) : (s.modAnv f).msg = s.msg := rfl
@[simp] theorem State.modAnv_evt (s : State) (f : Anvil → Anvil) : (s.modAnv f).evt = s.evt := rfl
@[simp] theorem State.modAnv_modes (s : State) (f : Anvil → Anvil) : (s.modAnv f).modes = s.modes := rfl
@[simp] theorem State.modAnv_power (s : State) (f : Anvil → Anvil) : (s.modAnv f).power = s.power := rfl
@[simp] theorem State.modAnv_free (s : State) (f : Anvil → Anvil) : (s.modAnv f).free = s.free := rfl
@[simp] theorem State.modAnv_pending (s : State) (f : Anvil → Anvil) : (s.modAnv f).pending = s.pending := rfl

/-! ### modBus -/

@[simp] theorem State.modBus_regs (s : State) (f : BusState → BusState) : (s.modBus f).regs = s.regs := rfl
@[simp] theorem State.modBus_wbPend (s : State) (f : BusState → BusState) : (s.modBus f).wbPend = s.wbPend := rfl
@[simp] theorem State.modBus_sqs (s : State) (f : BusState → BusState) : (s.modBus f).sqs = s.sqs := rfl
@[simp] theorem State.modBus_mem (s : State) (f : BusState → BusState) : (s.modBus f).mem = s.mem := rfl
@[simp] theorem State.modBus_flash (s : State) (f : BusState → BusState) : (s.modBus f).flash = s.flash := rfl
@[simp] theorem State.modBus_ecc (s : State) (f : BusState → BusState) : (s.modBus f).ecc = s.ecc := rfl
@[simp] theorem State.modBus_clk (s : State) (f : BusState → BusState) : (s.modBus f).clk = s.clk := rfl
@[simp] theorem State.modBus_mclk (s : State) (f : BusState → BusState) : (s.modBus f).mclk = s.mclk := rfl
@[simp] theorem State.modBus_bridges (s : State) (f : BusState → BusState) : (s.modBus f).bridges = s.bridges := rfl
@[simp] theorem State.modBus_ctl (s : State) (f : BusState → BusState) : (s.modBus f).ctl = s.ctl := rfl
@[simp] theorem State.modBus_eng (s : State) (f : BusState → BusState) : (s.modBus f).eng = s.eng := rfl
@[simp] theorem State.modBus_safe (s : State) (f : BusState → BusState) : (s.modBus f).safe = s.safe := rfl
@[simp] theorem State.modBus_weld (s : State) (f : BusState → BusState) : (s.modBus f).weld = s.weld := rfl
@[simp] theorem State.modBus_qnch (s : State) (f : BusState → BusState) : (s.modBus f).qnch = s.qnch := rfl
@[simp] theorem State.modBus_tone (s : State) (f : BusState → BusState) : (s.modBus f).tone = s.tone := rfl
@[simp] theorem State.modBus_tdm (s : State) (f : BusState → BusState) : (s.modBus f).tdm = s.tdm := rfl
@[simp] theorem State.modBus_net (s : State) (f : BusState → BusState) : (s.modBus f).net = s.net := rfl
@[simp] theorem State.modBus_dict (s : State) (f : BusState → BusState) : (s.modBus f).dict = s.dict := rfl
@[simp] theorem State.modBus_ril (s : State) (f : BusState → BusState) : (s.modBus f).ril = s.ril := rfl
@[simp] theorem State.modBus_dma (s : State) (f : BusState → BusState) : (s.modBus f).dma = s.dma := rfl
@[simp] theorem State.modBus_sense (s : State) (f : BusState → BusState) : (s.modBus f).sense = s.sense := rfl
@[simp] theorem State.modBus_ports (s : State) (f : BusState → BusState) : (s.modBus f).ports = s.ports := rfl
@[simp] theorem State.modBus_msg (s : State) (f : BusState → BusState) : (s.modBus f).msg = s.msg := rfl
@[simp] theorem State.modBus_evt (s : State) (f : BusState → BusState) : (s.modBus f).evt = s.evt := rfl
@[simp] theorem State.modBus_modes (s : State) (f : BusState → BusState) : (s.modBus f).modes = s.modes := rfl
@[simp] theorem State.modBus_ward (s : State) (f : BusState → BusState) : (s.modBus f).ward = s.ward := rfl
@[simp] theorem State.modBus_power (s : State) (f : BusState → BusState) : (s.modBus f).power = s.power := rfl
@[simp] theorem State.modBus_free (s : State) (f : BusState → BusState) : (s.modBus f).free = s.free := rfl
@[simp] theorem State.modBus_pending (s : State) (f : BusState → BusState) : (s.modBus f).pending = s.pending := rfl

/-! ### modDch -/

@[simp] theorem State.modDch_regs (s : State) (n : Nat) (f : DmaCh → DmaCh) : (s.modDch n f).regs = s.regs := rfl
@[simp] theorem State.modDch_wbPend (s : State) (n : Nat) (f : DmaCh → DmaCh) : (s.modDch n f).wbPend = s.wbPend := rfl
@[simp] theorem State.modDch_sqs (s : State) (n : Nat) (f : DmaCh → DmaCh) : (s.modDch n f).sqs = s.sqs := rfl
@[simp] theorem State.modDch_mem (s : State) (n : Nat) (f : DmaCh → DmaCh) : (s.modDch n f).mem = s.mem := rfl
@[simp] theorem State.modDch_flash (s : State) (n : Nat) (f : DmaCh → DmaCh) : (s.modDch n f).flash = s.flash := rfl
@[simp] theorem State.modDch_ecc (s : State) (n : Nat) (f : DmaCh → DmaCh) : (s.modDch n f).ecc = s.ecc := rfl
@[simp] theorem State.modDch_bus (s : State) (n : Nat) (f : DmaCh → DmaCh) : (s.modDch n f).bus = s.bus := rfl
@[simp] theorem State.modDch_clk (s : State) (n : Nat) (f : DmaCh → DmaCh) : (s.modDch n f).clk = s.clk := rfl
@[simp] theorem State.modDch_mclk (s : State) (n : Nat) (f : DmaCh → DmaCh) : (s.modDch n f).mclk = s.mclk := rfl
@[simp] theorem State.modDch_bridges (s : State) (n : Nat) (f : DmaCh → DmaCh) : (s.modDch n f).bridges = s.bridges := rfl
@[simp] theorem State.modDch_ctl (s : State) (n : Nat) (f : DmaCh → DmaCh) : (s.modDch n f).ctl = s.ctl := rfl
@[simp] theorem State.modDch_eng (s : State) (n : Nat) (f : DmaCh → DmaCh) : (s.modDch n f).eng = s.eng := rfl
@[simp] theorem State.modDch_safe (s : State) (n : Nat) (f : DmaCh → DmaCh) : (s.modDch n f).safe = s.safe := rfl
@[simp] theorem State.modDch_weld (s : State) (n : Nat) (f : DmaCh → DmaCh) : (s.modDch n f).weld = s.weld := rfl
@[simp] theorem State.modDch_qnch (s : State) (n : Nat) (f : DmaCh → DmaCh) : (s.modDch n f).qnch = s.qnch := rfl
@[simp] theorem State.modDch_tone (s : State) (n : Nat) (f : DmaCh → DmaCh) : (s.modDch n f).tone = s.tone := rfl
@[simp] theorem State.modDch_tdm (s : State) (n : Nat) (f : DmaCh → DmaCh) : (s.modDch n f).tdm = s.tdm := rfl
@[simp] theorem State.modDch_net (s : State) (n : Nat) (f : DmaCh → DmaCh) : (s.modDch n f).net = s.net := rfl
@[simp] theorem State.modDch_dict (s : State) (n : Nat) (f : DmaCh → DmaCh) : (s.modDch n f).dict = s.dict := rfl
@[simp] theorem State.modDch_ril (s : State) (n : Nat) (f : DmaCh → DmaCh) : (s.modDch n f).ril = s.ril := rfl
@[simp] theorem State.modDch_sense (s : State) (n : Nat) (f : DmaCh → DmaCh) : (s.modDch n f).sense = s.sense := rfl
@[simp] theorem State.modDch_ports (s : State) (n : Nat) (f : DmaCh → DmaCh) : (s.modDch n f).ports = s.ports := rfl
@[simp] theorem State.modDch_msg (s : State) (n : Nat) (f : DmaCh → DmaCh) : (s.modDch n f).msg = s.msg := rfl
@[simp] theorem State.modDch_evt (s : State) (n : Nat) (f : DmaCh → DmaCh) : (s.modDch n f).evt = s.evt := rfl
@[simp] theorem State.modDch_modes (s : State) (n : Nat) (f : DmaCh → DmaCh) : (s.modDch n f).modes = s.modes := rfl
@[simp] theorem State.modDch_ward (s : State) (n : Nat) (f : DmaCh → DmaCh) : (s.modDch n f).ward = s.ward := rfl
@[simp] theorem State.modDch_power (s : State) (n : Nat) (f : DmaCh → DmaCh) : (s.modDch n f).power = s.power := rfl
@[simp] theorem State.modDch_free (s : State) (n : Nat) (f : DmaCh → DmaCh) : (s.modDch n f).free = s.free := rfl
@[simp] theorem State.modDch_pending (s : State) (n : Nat) (f : DmaCh → DmaCh) : (s.modDch n f).pending = s.pending := rfl

/-! ### modDict -/

@[simp] theorem State.modDict_regs (s : State) (f : Dict → Dict) : (s.modDict f).regs = s.regs := rfl
@[simp] theorem State.modDict_wbPend (s : State) (f : Dict → Dict) : (s.modDict f).wbPend = s.wbPend := rfl
@[simp] theorem State.modDict_sqs (s : State) (f : Dict → Dict) : (s.modDict f).sqs = s.sqs := rfl
@[simp] theorem State.modDict_mem (s : State) (f : Dict → Dict) : (s.modDict f).mem = s.mem := rfl
@[simp] theorem State.modDict_flash (s : State) (f : Dict → Dict) : (s.modDict f).flash = s.flash := rfl
@[simp] theorem State.modDict_ecc (s : State) (f : Dict → Dict) : (s.modDict f).ecc = s.ecc := rfl
@[simp] theorem State.modDict_bus (s : State) (f : Dict → Dict) : (s.modDict f).bus = s.bus := rfl
@[simp] theorem State.modDict_clk (s : State) (f : Dict → Dict) : (s.modDict f).clk = s.clk := rfl
@[simp] theorem State.modDict_mclk (s : State) (f : Dict → Dict) : (s.modDict f).mclk = s.mclk := rfl
@[simp] theorem State.modDict_bridges (s : State) (f : Dict → Dict) : (s.modDict f).bridges = s.bridges := rfl
@[simp] theorem State.modDict_ctl (s : State) (f : Dict → Dict) : (s.modDict f).ctl = s.ctl := rfl
@[simp] theorem State.modDict_eng (s : State) (f : Dict → Dict) : (s.modDict f).eng = s.eng := rfl
@[simp] theorem State.modDict_safe (s : State) (f : Dict → Dict) : (s.modDict f).safe = s.safe := rfl
@[simp] theorem State.modDict_weld (s : State) (f : Dict → Dict) : (s.modDict f).weld = s.weld := rfl
@[simp] theorem State.modDict_qnch (s : State) (f : Dict → Dict) : (s.modDict f).qnch = s.qnch := rfl
@[simp] theorem State.modDict_tone (s : State) (f : Dict → Dict) : (s.modDict f).tone = s.tone := rfl
@[simp] theorem State.modDict_tdm (s : State) (f : Dict → Dict) : (s.modDict f).tdm = s.tdm := rfl
@[simp] theorem State.modDict_net (s : State) (f : Dict → Dict) : (s.modDict f).net = s.net := rfl
@[simp] theorem State.modDict_ril (s : State) (f : Dict → Dict) : (s.modDict f).ril = s.ril := rfl
@[simp] theorem State.modDict_dma (s : State) (f : Dict → Dict) : (s.modDict f).dma = s.dma := rfl
@[simp] theorem State.modDict_sense (s : State) (f : Dict → Dict) : (s.modDict f).sense = s.sense := rfl
@[simp] theorem State.modDict_ports (s : State) (f : Dict → Dict) : (s.modDict f).ports = s.ports := rfl
@[simp] theorem State.modDict_msg (s : State) (f : Dict → Dict) : (s.modDict f).msg = s.msg := rfl
@[simp] theorem State.modDict_evt (s : State) (f : Dict → Dict) : (s.modDict f).evt = s.evt := rfl
@[simp] theorem State.modDict_modes (s : State) (f : Dict → Dict) : (s.modDict f).modes = s.modes := rfl
@[simp] theorem State.modDict_ward (s : State) (f : Dict → Dict) : (s.modDict f).ward = s.ward := rfl
@[simp] theorem State.modDict_power (s : State) (f : Dict → Dict) : (s.modDict f).power = s.power := rfl
@[simp] theorem State.modDict_free (s : State) (f : Dict → Dict) : (s.modDict f).free = s.free := rfl
@[simp] theorem State.modDict_pending (s : State) (f : Dict → Dict) : (s.modDict f).pending = s.pending := rfl

/-! ### modEvt -/

@[simp] theorem State.modEvt_regs (s : State) (f : Evt → Evt) : (s.modEvt f).regs = s.regs := rfl
@[simp] theorem State.modEvt_wbPend (s : State) (f : Evt → Evt) : (s.modEvt f).wbPend = s.wbPend := rfl
@[simp] theorem State.modEvt_sqs (s : State) (f : Evt → Evt) : (s.modEvt f).sqs = s.sqs := rfl
@[simp] theorem State.modEvt_mem (s : State) (f : Evt → Evt) : (s.modEvt f).mem = s.mem := rfl
@[simp] theorem State.modEvt_flash (s : State) (f : Evt → Evt) : (s.modEvt f).flash = s.flash := rfl
@[simp] theorem State.modEvt_ecc (s : State) (f : Evt → Evt) : (s.modEvt f).ecc = s.ecc := rfl
@[simp] theorem State.modEvt_bus (s : State) (f : Evt → Evt) : (s.modEvt f).bus = s.bus := rfl
@[simp] theorem State.modEvt_clk (s : State) (f : Evt → Evt) : (s.modEvt f).clk = s.clk := rfl
@[simp] theorem State.modEvt_mclk (s : State) (f : Evt → Evt) : (s.modEvt f).mclk = s.mclk := rfl
@[simp] theorem State.modEvt_bridges (s : State) (f : Evt → Evt) : (s.modEvt f).bridges = s.bridges := rfl
@[simp] theorem State.modEvt_ctl (s : State) (f : Evt → Evt) : (s.modEvt f).ctl = s.ctl := rfl
@[simp] theorem State.modEvt_eng (s : State) (f : Evt → Evt) : (s.modEvt f).eng = s.eng := rfl
@[simp] theorem State.modEvt_safe (s : State) (f : Evt → Evt) : (s.modEvt f).safe = s.safe := rfl
@[simp] theorem State.modEvt_weld (s : State) (f : Evt → Evt) : (s.modEvt f).weld = s.weld := rfl
@[simp] theorem State.modEvt_qnch (s : State) (f : Evt → Evt) : (s.modEvt f).qnch = s.qnch := rfl
@[simp] theorem State.modEvt_tone (s : State) (f : Evt → Evt) : (s.modEvt f).tone = s.tone := rfl
@[simp] theorem State.modEvt_tdm (s : State) (f : Evt → Evt) : (s.modEvt f).tdm = s.tdm := rfl
@[simp] theorem State.modEvt_net (s : State) (f : Evt → Evt) : (s.modEvt f).net = s.net := rfl
@[simp] theorem State.modEvt_dict (s : State) (f : Evt → Evt) : (s.modEvt f).dict = s.dict := rfl
@[simp] theorem State.modEvt_ril (s : State) (f : Evt → Evt) : (s.modEvt f).ril = s.ril := rfl
@[simp] theorem State.modEvt_dma (s : State) (f : Evt → Evt) : (s.modEvt f).dma = s.dma := rfl
@[simp] theorem State.modEvt_sense (s : State) (f : Evt → Evt) : (s.modEvt f).sense = s.sense := rfl
@[simp] theorem State.modEvt_ports (s : State) (f : Evt → Evt) : (s.modEvt f).ports = s.ports := rfl
@[simp] theorem State.modEvt_msg (s : State) (f : Evt → Evt) : (s.modEvt f).msg = s.msg := rfl
@[simp] theorem State.modEvt_modes (s : State) (f : Evt → Evt) : (s.modEvt f).modes = s.modes := rfl
@[simp] theorem State.modEvt_ward (s : State) (f : Evt → Evt) : (s.modEvt f).ward = s.ward := rfl
@[simp] theorem State.modEvt_power (s : State) (f : Evt → Evt) : (s.modEvt f).power = s.power := rfl
@[simp] theorem State.modEvt_free (s : State) (f : Evt → Evt) : (s.modEvt f).free = s.free := rfl
@[simp] theorem State.modEvt_pending (s : State) (f : Evt → Evt) : (s.modEvt f).pending = s.pending := rfl

/-! ### modHs -/

@[simp] theorem State.modHs_regs (s : State) (f : HostSpi → HostSpi) : (s.modHs f).regs = s.regs := rfl
@[simp] theorem State.modHs_wbPend (s : State) (f : HostSpi → HostSpi) : (s.modHs f).wbPend = s.wbPend := rfl
@[simp] theorem State.modHs_sqs (s : State) (f : HostSpi → HostSpi) : (s.modHs f).sqs = s.sqs := rfl
@[simp] theorem State.modHs_mem (s : State) (f : HostSpi → HostSpi) : (s.modHs f).mem = s.mem := rfl
@[simp] theorem State.modHs_flash (s : State) (f : HostSpi → HostSpi) : (s.modHs f).flash = s.flash := rfl
@[simp] theorem State.modHs_ecc (s : State) (f : HostSpi → HostSpi) : (s.modHs f).ecc = s.ecc := rfl
@[simp] theorem State.modHs_bus (s : State) (f : HostSpi → HostSpi) : (s.modHs f).bus = s.bus := rfl
@[simp] theorem State.modHs_clk (s : State) (f : HostSpi → HostSpi) : (s.modHs f).clk = s.clk := rfl
@[simp] theorem State.modHs_mclk (s : State) (f : HostSpi → HostSpi) : (s.modHs f).mclk = s.mclk := rfl
@[simp] theorem State.modHs_bridges (s : State) (f : HostSpi → HostSpi) : (s.modHs f).bridges = s.bridges := rfl
@[simp] theorem State.modHs_ctl (s : State) (f : HostSpi → HostSpi) : (s.modHs f).ctl = s.ctl := rfl
@[simp] theorem State.modHs_eng (s : State) (f : HostSpi → HostSpi) : (s.modHs f).eng = s.eng := rfl
@[simp] theorem State.modHs_safe (s : State) (f : HostSpi → HostSpi) : (s.modHs f).safe = s.safe := rfl
@[simp] theorem State.modHs_weld (s : State) (f : HostSpi → HostSpi) : (s.modHs f).weld = s.weld := rfl
@[simp] theorem State.modHs_qnch (s : State) (f : HostSpi → HostSpi) : (s.modHs f).qnch = s.qnch := rfl
@[simp] theorem State.modHs_tone (s : State) (f : HostSpi → HostSpi) : (s.modHs f).tone = s.tone := rfl
@[simp] theorem State.modHs_tdm (s : State) (f : HostSpi → HostSpi) : (s.modHs f).tdm = s.tdm := rfl
@[simp] theorem State.modHs_net (s : State) (f : HostSpi → HostSpi) : (s.modHs f).net = s.net := rfl
@[simp] theorem State.modHs_dict (s : State) (f : HostSpi → HostSpi) : (s.modHs f).dict = s.dict := rfl
@[simp] theorem State.modHs_ril (s : State) (f : HostSpi → HostSpi) : (s.modHs f).ril = s.ril := rfl
@[simp] theorem State.modHs_dma (s : State) (f : HostSpi → HostSpi) : (s.modHs f).dma = s.dma := rfl
@[simp] theorem State.modHs_sense (s : State) (f : HostSpi → HostSpi) : (s.modHs f).sense = s.sense := rfl
@[simp] theorem State.modHs_msg (s : State) (f : HostSpi → HostSpi) : (s.modHs f).msg = s.msg := rfl
@[simp] theorem State.modHs_evt (s : State) (f : HostSpi → HostSpi) : (s.modHs f).evt = s.evt := rfl
@[simp] theorem State.modHs_modes (s : State) (f : HostSpi → HostSpi) : (s.modHs f).modes = s.modes := rfl
@[simp] theorem State.modHs_ward (s : State) (f : HostSpi → HostSpi) : (s.modHs f).ward = s.ward := rfl
@[simp] theorem State.modHs_power (s : State) (f : HostSpi → HostSpi) : (s.modHs f).power = s.power := rfl
@[simp] theorem State.modHs_free (s : State) (f : HostSpi → HostSpi) : (s.modHs f).free = s.free := rfl
@[simp] theorem State.modHs_pending (s : State) (f : HostSpi → HostSpi) : (s.modHs f).pending = s.pending := rfl

/-! ### modModes -/

@[simp] theorem State.modModes_regs (s : State) (f : Modes → Modes) : (s.modModes f).regs = s.regs := rfl
@[simp] theorem State.modModes_wbPend (s : State) (f : Modes → Modes) : (s.modModes f).wbPend = s.wbPend := rfl
@[simp] theorem State.modModes_sqs (s : State) (f : Modes → Modes) : (s.modModes f).sqs = s.sqs := rfl
@[simp] theorem State.modModes_mem (s : State) (f : Modes → Modes) : (s.modModes f).mem = s.mem := rfl
@[simp] theorem State.modModes_flash (s : State) (f : Modes → Modes) : (s.modModes f).flash = s.flash := rfl
@[simp] theorem State.modModes_ecc (s : State) (f : Modes → Modes) : (s.modModes f).ecc = s.ecc := rfl
@[simp] theorem State.modModes_bus (s : State) (f : Modes → Modes) : (s.modModes f).bus = s.bus := rfl
@[simp] theorem State.modModes_clk (s : State) (f : Modes → Modes) : (s.modModes f).clk = s.clk := rfl
@[simp] theorem State.modModes_mclk (s : State) (f : Modes → Modes) : (s.modModes f).mclk = s.mclk := rfl
@[simp] theorem State.modModes_bridges (s : State) (f : Modes → Modes) : (s.modModes f).bridges = s.bridges := rfl
@[simp] theorem State.modModes_ctl (s : State) (f : Modes → Modes) : (s.modModes f).ctl = s.ctl := rfl
@[simp] theorem State.modModes_eng (s : State) (f : Modes → Modes) : (s.modModes f).eng = s.eng := rfl
@[simp] theorem State.modModes_safe (s : State) (f : Modes → Modes) : (s.modModes f).safe = s.safe := rfl
@[simp] theorem State.modModes_weld (s : State) (f : Modes → Modes) : (s.modModes f).weld = s.weld := rfl
@[simp] theorem State.modModes_qnch (s : State) (f : Modes → Modes) : (s.modModes f).qnch = s.qnch := rfl
@[simp] theorem State.modModes_tone (s : State) (f : Modes → Modes) : (s.modModes f).tone = s.tone := rfl
@[simp] theorem State.modModes_tdm (s : State) (f : Modes → Modes) : (s.modModes f).tdm = s.tdm := rfl
@[simp] theorem State.modModes_net (s : State) (f : Modes → Modes) : (s.modModes f).net = s.net := rfl
@[simp] theorem State.modModes_dict (s : State) (f : Modes → Modes) : (s.modModes f).dict = s.dict := rfl
@[simp] theorem State.modModes_ril (s : State) (f : Modes → Modes) : (s.modModes f).ril = s.ril := rfl
@[simp] theorem State.modModes_dma (s : State) (f : Modes → Modes) : (s.modModes f).dma = s.dma := rfl
@[simp] theorem State.modModes_sense (s : State) (f : Modes → Modes) : (s.modModes f).sense = s.sense := rfl
@[simp] theorem State.modModes_ports (s : State) (f : Modes → Modes) : (s.modModes f).ports = s.ports := rfl
@[simp] theorem State.modModes_msg (s : State) (f : Modes → Modes) : (s.modModes f).msg = s.msg := rfl
@[simp] theorem State.modModes_evt (s : State) (f : Modes → Modes) : (s.modModes f).evt = s.evt := rfl
@[simp] theorem State.modModes_ward (s : State) (f : Modes → Modes) : (s.modModes f).ward = s.ward := rfl
@[simp] theorem State.modModes_power (s : State) (f : Modes → Modes) : (s.modModes f).power = s.power := rfl
@[simp] theorem State.modModes_free (s : State) (f : Modes → Modes) : (s.modModes f).free = s.free := rfl
@[simp] theorem State.modModes_pending (s : State) (f : Modes → Modes) : (s.modModes f).pending = s.pending := rfl

/-! ### modMsg -/

@[simp] theorem State.modMsg_regs (s : State) (f : Msg → Msg) : (s.modMsg f).regs = s.regs := rfl
@[simp] theorem State.modMsg_wbPend (s : State) (f : Msg → Msg) : (s.modMsg f).wbPend = s.wbPend := rfl
@[simp] theorem State.modMsg_sqs (s : State) (f : Msg → Msg) : (s.modMsg f).sqs = s.sqs := rfl
@[simp] theorem State.modMsg_mem (s : State) (f : Msg → Msg) : (s.modMsg f).mem = s.mem := rfl
@[simp] theorem State.modMsg_flash (s : State) (f : Msg → Msg) : (s.modMsg f).flash = s.flash := rfl
@[simp] theorem State.modMsg_ecc (s : State) (f : Msg → Msg) : (s.modMsg f).ecc = s.ecc := rfl
@[simp] theorem State.modMsg_bus (s : State) (f : Msg → Msg) : (s.modMsg f).bus = s.bus := rfl
@[simp] theorem State.modMsg_clk (s : State) (f : Msg → Msg) : (s.modMsg f).clk = s.clk := rfl
@[simp] theorem State.modMsg_mclk (s : State) (f : Msg → Msg) : (s.modMsg f).mclk = s.mclk := rfl
@[simp] theorem State.modMsg_bridges (s : State) (f : Msg → Msg) : (s.modMsg f).bridges = s.bridges := rfl
@[simp] theorem State.modMsg_ctl (s : State) (f : Msg → Msg) : (s.modMsg f).ctl = s.ctl := rfl
@[simp] theorem State.modMsg_eng (s : State) (f : Msg → Msg) : (s.modMsg f).eng = s.eng := rfl
@[simp] theorem State.modMsg_safe (s : State) (f : Msg → Msg) : (s.modMsg f).safe = s.safe := rfl
@[simp] theorem State.modMsg_weld (s : State) (f : Msg → Msg) : (s.modMsg f).weld = s.weld := rfl
@[simp] theorem State.modMsg_qnch (s : State) (f : Msg → Msg) : (s.modMsg f).qnch = s.qnch := rfl
@[simp] theorem State.modMsg_tone (s : State) (f : Msg → Msg) : (s.modMsg f).tone = s.tone := rfl
@[simp] theorem State.modMsg_tdm (s : State) (f : Msg → Msg) : (s.modMsg f).tdm = s.tdm := rfl
@[simp] theorem State.modMsg_net (s : State) (f : Msg → Msg) : (s.modMsg f).net = s.net := rfl
@[simp] theorem State.modMsg_dict (s : State) (f : Msg → Msg) : (s.modMsg f).dict = s.dict := rfl
@[simp] theorem State.modMsg_ril (s : State) (f : Msg → Msg) : (s.modMsg f).ril = s.ril := rfl
@[simp] theorem State.modMsg_dma (s : State) (f : Msg → Msg) : (s.modMsg f).dma = s.dma := rfl
@[simp] theorem State.modMsg_sense (s : State) (f : Msg → Msg) : (s.modMsg f).sense = s.sense := rfl
@[simp] theorem State.modMsg_ports (s : State) (f : Msg → Msg) : (s.modMsg f).ports = s.ports := rfl
@[simp] theorem State.modMsg_evt (s : State) (f : Msg → Msg) : (s.modMsg f).evt = s.evt := rfl
@[simp] theorem State.modMsg_modes (s : State) (f : Msg → Msg) : (s.modMsg f).modes = s.modes := rfl
@[simp] theorem State.modMsg_ward (s : State) (f : Msg → Msg) : (s.modMsg f).ward = s.ward := rfl
@[simp] theorem State.modMsg_power (s : State) (f : Msg → Msg) : (s.modMsg f).power = s.power := rfl
@[simp] theorem State.modMsg_free (s : State) (f : Msg → Msg) : (s.modMsg f).free = s.free := rfl
@[simp] theorem State.modMsg_pending (s : State) (f : Msg → Msg) : (s.modMsg f).pending = s.pending := rfl

/-! ### modNet -/

@[simp] theorem State.modNet_regs (s : State) (f : Net → Net) : (s.modNet f).regs = s.regs := rfl
@[simp] theorem State.modNet_wbPend (s : State) (f : Net → Net) : (s.modNet f).wbPend = s.wbPend := rfl
@[simp] theorem State.modNet_sqs (s : State) (f : Net → Net) : (s.modNet f).sqs = s.sqs := rfl
@[simp] theorem State.modNet_mem (s : State) (f : Net → Net) : (s.modNet f).mem = s.mem := rfl
@[simp] theorem State.modNet_flash (s : State) (f : Net → Net) : (s.modNet f).flash = s.flash := rfl
@[simp] theorem State.modNet_ecc (s : State) (f : Net → Net) : (s.modNet f).ecc = s.ecc := rfl
@[simp] theorem State.modNet_bus (s : State) (f : Net → Net) : (s.modNet f).bus = s.bus := rfl
@[simp] theorem State.modNet_clk (s : State) (f : Net → Net) : (s.modNet f).clk = s.clk := rfl
@[simp] theorem State.modNet_mclk (s : State) (f : Net → Net) : (s.modNet f).mclk = s.mclk := rfl
@[simp] theorem State.modNet_bridges (s : State) (f : Net → Net) : (s.modNet f).bridges = s.bridges := rfl
@[simp] theorem State.modNet_ctl (s : State) (f : Net → Net) : (s.modNet f).ctl = s.ctl := rfl
@[simp] theorem State.modNet_eng (s : State) (f : Net → Net) : (s.modNet f).eng = s.eng := rfl
@[simp] theorem State.modNet_safe (s : State) (f : Net → Net) : (s.modNet f).safe = s.safe := rfl
@[simp] theorem State.modNet_weld (s : State) (f : Net → Net) : (s.modNet f).weld = s.weld := rfl
@[simp] theorem State.modNet_qnch (s : State) (f : Net → Net) : (s.modNet f).qnch = s.qnch := rfl
@[simp] theorem State.modNet_tone (s : State) (f : Net → Net) : (s.modNet f).tone = s.tone := rfl
@[simp] theorem State.modNet_tdm (s : State) (f : Net → Net) : (s.modNet f).tdm = s.tdm := rfl
@[simp] theorem State.modNet_dict (s : State) (f : Net → Net) : (s.modNet f).dict = s.dict := rfl
@[simp] theorem State.modNet_ril (s : State) (f : Net → Net) : (s.modNet f).ril = s.ril := rfl
@[simp] theorem State.modNet_dma (s : State) (f : Net → Net) : (s.modNet f).dma = s.dma := rfl
@[simp] theorem State.modNet_sense (s : State) (f : Net → Net) : (s.modNet f).sense = s.sense := rfl
@[simp] theorem State.modNet_ports (s : State) (f : Net → Net) : (s.modNet f).ports = s.ports := rfl
@[simp] theorem State.modNet_msg (s : State) (f : Net → Net) : (s.modNet f).msg = s.msg := rfl
@[simp] theorem State.modNet_evt (s : State) (f : Net → Net) : (s.modNet f).evt = s.evt := rfl
@[simp] theorem State.modNet_modes (s : State) (f : Net → Net) : (s.modNet f).modes = s.modes := rfl
@[simp] theorem State.modNet_ward (s : State) (f : Net → Net) : (s.modNet f).ward = s.ward := rfl
@[simp] theorem State.modNet_power (s : State) (f : Net → Net) : (s.modNet f).power = s.power := rfl
@[simp] theorem State.modNet_free (s : State) (f : Net → Net) : (s.modNet f).free = s.free := rfl
@[simp] theorem State.modNet_pending (s : State) (f : Net → Net) : (s.modNet f).pending = s.pending := rfl

/-! ### modPorts -/

@[simp] theorem State.modPorts_regs (s : State) (f : Ports → Ports) : (s.modPorts f).regs = s.regs := rfl
@[simp] theorem State.modPorts_wbPend (s : State) (f : Ports → Ports) : (s.modPorts f).wbPend = s.wbPend := rfl
@[simp] theorem State.modPorts_sqs (s : State) (f : Ports → Ports) : (s.modPorts f).sqs = s.sqs := rfl
@[simp] theorem State.modPorts_mem (s : State) (f : Ports → Ports) : (s.modPorts f).mem = s.mem := rfl
@[simp] theorem State.modPorts_flash (s : State) (f : Ports → Ports) : (s.modPorts f).flash = s.flash := rfl
@[simp] theorem State.modPorts_ecc (s : State) (f : Ports → Ports) : (s.modPorts f).ecc = s.ecc := rfl
@[simp] theorem State.modPorts_bus (s : State) (f : Ports → Ports) : (s.modPorts f).bus = s.bus := rfl
@[simp] theorem State.modPorts_clk (s : State) (f : Ports → Ports) : (s.modPorts f).clk = s.clk := rfl
@[simp] theorem State.modPorts_mclk (s : State) (f : Ports → Ports) : (s.modPorts f).mclk = s.mclk := rfl
@[simp] theorem State.modPorts_bridges (s : State) (f : Ports → Ports) : (s.modPorts f).bridges = s.bridges := rfl
@[simp] theorem State.modPorts_ctl (s : State) (f : Ports → Ports) : (s.modPorts f).ctl = s.ctl := rfl
@[simp] theorem State.modPorts_eng (s : State) (f : Ports → Ports) : (s.modPorts f).eng = s.eng := rfl
@[simp] theorem State.modPorts_safe (s : State) (f : Ports → Ports) : (s.modPorts f).safe = s.safe := rfl
@[simp] theorem State.modPorts_weld (s : State) (f : Ports → Ports) : (s.modPorts f).weld = s.weld := rfl
@[simp] theorem State.modPorts_qnch (s : State) (f : Ports → Ports) : (s.modPorts f).qnch = s.qnch := rfl
@[simp] theorem State.modPorts_tone (s : State) (f : Ports → Ports) : (s.modPorts f).tone = s.tone := rfl
@[simp] theorem State.modPorts_tdm (s : State) (f : Ports → Ports) : (s.modPorts f).tdm = s.tdm := rfl
@[simp] theorem State.modPorts_net (s : State) (f : Ports → Ports) : (s.modPorts f).net = s.net := rfl
@[simp] theorem State.modPorts_dict (s : State) (f : Ports → Ports) : (s.modPorts f).dict = s.dict := rfl
@[simp] theorem State.modPorts_ril (s : State) (f : Ports → Ports) : (s.modPorts f).ril = s.ril := rfl
@[simp] theorem State.modPorts_dma (s : State) (f : Ports → Ports) : (s.modPorts f).dma = s.dma := rfl
@[simp] theorem State.modPorts_sense (s : State) (f : Ports → Ports) : (s.modPorts f).sense = s.sense := rfl
@[simp] theorem State.modPorts_msg (s : State) (f : Ports → Ports) : (s.modPorts f).msg = s.msg := rfl
@[simp] theorem State.modPorts_evt (s : State) (f : Ports → Ports) : (s.modPorts f).evt = s.evt := rfl
@[simp] theorem State.modPorts_modes (s : State) (f : Ports → Ports) : (s.modPorts f).modes = s.modes := rfl
@[simp] theorem State.modPorts_ward (s : State) (f : Ports → Ports) : (s.modPorts f).ward = s.ward := rfl
@[simp] theorem State.modPorts_power (s : State) (f : Ports → Ports) : (s.modPorts f).power = s.power := rfl
@[simp] theorem State.modPorts_free (s : State) (f : Ports → Ports) : (s.modPorts f).free = s.free := rfl
@[simp] theorem State.modPorts_pending (s : State) (f : Ports → Ports) : (s.modPorts f).pending = s.pending := rfl

/-! ### modPower -/

@[simp] theorem State.modPower_regs (s : State) (f : Power → Power) : (s.modPower f).regs = s.regs := rfl
@[simp] theorem State.modPower_wbPend (s : State) (f : Power → Power) : (s.modPower f).wbPend = s.wbPend := rfl
@[simp] theorem State.modPower_sqs (s : State) (f : Power → Power) : (s.modPower f).sqs = s.sqs := rfl
@[simp] theorem State.modPower_mem (s : State) (f : Power → Power) : (s.modPower f).mem = s.mem := rfl
@[simp] theorem State.modPower_flash (s : State) (f : Power → Power) : (s.modPower f).flash = s.flash := rfl
@[simp] theorem State.modPower_ecc (s : State) (f : Power → Power) : (s.modPower f).ecc = s.ecc := rfl
@[simp] theorem State.modPower_bus (s : State) (f : Power → Power) : (s.modPower f).bus = s.bus := rfl
@[simp] theorem State.modPower_clk (s : State) (f : Power → Power) : (s.modPower f).clk = s.clk := rfl
@[simp] theorem State.modPower_mclk (s : State) (f : Power → Power) : (s.modPower f).mclk = s.mclk := rfl
@[simp] theorem State.modPower_bridges (s : State) (f : Power → Power) : (s.modPower f).bridges = s.bridges := rfl
@[simp] theorem State.modPower_ctl (s : State) (f : Power → Power) : (s.modPower f).ctl = s.ctl := rfl
@[simp] theorem State.modPower_eng (s : State) (f : Power → Power) : (s.modPower f).eng = s.eng := rfl
@[simp] theorem State.modPower_safe (s : State) (f : Power → Power) : (s.modPower f).safe = s.safe := rfl
@[simp] theorem State.modPower_weld (s : State) (f : Power → Power) : (s.modPower f).weld = s.weld := rfl
@[simp] theorem State.modPower_qnch (s : State) (f : Power → Power) : (s.modPower f).qnch = s.qnch := rfl
@[simp] theorem State.modPower_tone (s : State) (f : Power → Power) : (s.modPower f).tone = s.tone := rfl
@[simp] theorem State.modPower_tdm (s : State) (f : Power → Power) : (s.modPower f).tdm = s.tdm := rfl
@[simp] theorem State.modPower_net (s : State) (f : Power → Power) : (s.modPower f).net = s.net := rfl
@[simp] theorem State.modPower_dict (s : State) (f : Power → Power) : (s.modPower f).dict = s.dict := rfl
@[simp] theorem State.modPower_ril (s : State) (f : Power → Power) : (s.modPower f).ril = s.ril := rfl
@[simp] theorem State.modPower_dma (s : State) (f : Power → Power) : (s.modPower f).dma = s.dma := rfl
@[simp] theorem State.modPower_sense (s : State) (f : Power → Power) : (s.modPower f).sense = s.sense := rfl
@[simp] theorem State.modPower_ports (s : State) (f : Power → Power) : (s.modPower f).ports = s.ports := rfl
@[simp] theorem State.modPower_msg (s : State) (f : Power → Power) : (s.modPower f).msg = s.msg := rfl
@[simp] theorem State.modPower_evt (s : State) (f : Power → Power) : (s.modPower f).evt = s.evt := rfl
@[simp] theorem State.modPower_modes (s : State) (f : Power → Power) : (s.modPower f).modes = s.modes := rfl
@[simp] theorem State.modPower_ward (s : State) (f : Power → Power) : (s.modPower f).ward = s.ward := rfl
@[simp] theorem State.modPower_free (s : State) (f : Power → Power) : (s.modPower f).free = s.free := rfl
@[simp] theorem State.modPower_pending (s : State) (f : Power → Power) : (s.modPower f).pending = s.pending := rfl

/-! ### modRil -/

@[simp] theorem State.modRil_regs (s : State) (f : Riller → Riller) : (s.modRil f).regs = s.regs := rfl
@[simp] theorem State.modRil_wbPend (s : State) (f : Riller → Riller) : (s.modRil f).wbPend = s.wbPend := rfl
@[simp] theorem State.modRil_sqs (s : State) (f : Riller → Riller) : (s.modRil f).sqs = s.sqs := rfl
@[simp] theorem State.modRil_mem (s : State) (f : Riller → Riller) : (s.modRil f).mem = s.mem := rfl
@[simp] theorem State.modRil_flash (s : State) (f : Riller → Riller) : (s.modRil f).flash = s.flash := rfl
@[simp] theorem State.modRil_ecc (s : State) (f : Riller → Riller) : (s.modRil f).ecc = s.ecc := rfl
@[simp] theorem State.modRil_bus (s : State) (f : Riller → Riller) : (s.modRil f).bus = s.bus := rfl
@[simp] theorem State.modRil_clk (s : State) (f : Riller → Riller) : (s.modRil f).clk = s.clk := rfl
@[simp] theorem State.modRil_mclk (s : State) (f : Riller → Riller) : (s.modRil f).mclk = s.mclk := rfl
@[simp] theorem State.modRil_bridges (s : State) (f : Riller → Riller) : (s.modRil f).bridges = s.bridges := rfl
@[simp] theorem State.modRil_ctl (s : State) (f : Riller → Riller) : (s.modRil f).ctl = s.ctl := rfl
@[simp] theorem State.modRil_eng (s : State) (f : Riller → Riller) : (s.modRil f).eng = s.eng := rfl
@[simp] theorem State.modRil_safe (s : State) (f : Riller → Riller) : (s.modRil f).safe = s.safe := rfl
@[simp] theorem State.modRil_weld (s : State) (f : Riller → Riller) : (s.modRil f).weld = s.weld := rfl
@[simp] theorem State.modRil_qnch (s : State) (f : Riller → Riller) : (s.modRil f).qnch = s.qnch := rfl
@[simp] theorem State.modRil_tone (s : State) (f : Riller → Riller) : (s.modRil f).tone = s.tone := rfl
@[simp] theorem State.modRil_tdm (s : State) (f : Riller → Riller) : (s.modRil f).tdm = s.tdm := rfl
@[simp] theorem State.modRil_net (s : State) (f : Riller → Riller) : (s.modRil f).net = s.net := rfl
@[simp] theorem State.modRil_dict (s : State) (f : Riller → Riller) : (s.modRil f).dict = s.dict := rfl
@[simp] theorem State.modRil_dma (s : State) (f : Riller → Riller) : (s.modRil f).dma = s.dma := rfl
@[simp] theorem State.modRil_sense (s : State) (f : Riller → Riller) : (s.modRil f).sense = s.sense := rfl
@[simp] theorem State.modRil_ports (s : State) (f : Riller → Riller) : (s.modRil f).ports = s.ports := rfl
@[simp] theorem State.modRil_msg (s : State) (f : Riller → Riller) : (s.modRil f).msg = s.msg := rfl
@[simp] theorem State.modRil_evt (s : State) (f : Riller → Riller) : (s.modRil f).evt = s.evt := rfl
@[simp] theorem State.modRil_modes (s : State) (f : Riller → Riller) : (s.modRil f).modes = s.modes := rfl
@[simp] theorem State.modRil_ward (s : State) (f : Riller → Riller) : (s.modRil f).ward = s.ward := rfl
@[simp] theorem State.modRil_power (s : State) (f : Riller → Riller) : (s.modRil f).power = s.power := rfl
@[simp] theorem State.modRil_free (s : State) (f : Riller → Riller) : (s.modRil f).free = s.free := rfl
@[simp] theorem State.modRil_pending (s : State) (f : Riller → Riller) : (s.modRil f).pending = s.pending := rfl

/-! ### modSc -/

@[simp] theorem State.modSc_regs (s : State) (n : Nat) (f : SampleCore → SampleCore) : (s.modSc n f).regs = s.regs := rfl
@[simp] theorem State.modSc_wbPend (s : State) (n : Nat) (f : SampleCore → SampleCore) : (s.modSc n f).wbPend = s.wbPend := rfl
@[simp] theorem State.modSc_sqs (s : State) (n : Nat) (f : SampleCore → SampleCore) : (s.modSc n f).sqs = s.sqs := rfl
@[simp] theorem State.modSc_mem (s : State) (n : Nat) (f : SampleCore → SampleCore) : (s.modSc n f).mem = s.mem := rfl
@[simp] theorem State.modSc_flash (s : State) (n : Nat) (f : SampleCore → SampleCore) : (s.modSc n f).flash = s.flash := rfl
@[simp] theorem State.modSc_ecc (s : State) (n : Nat) (f : SampleCore → SampleCore) : (s.modSc n f).ecc = s.ecc := rfl
@[simp] theorem State.modSc_bus (s : State) (n : Nat) (f : SampleCore → SampleCore) : (s.modSc n f).bus = s.bus := rfl
@[simp] theorem State.modSc_clk (s : State) (n : Nat) (f : SampleCore → SampleCore) : (s.modSc n f).clk = s.clk := rfl
@[simp] theorem State.modSc_mclk (s : State) (n : Nat) (f : SampleCore → SampleCore) : (s.modSc n f).mclk = s.mclk := rfl
@[simp] theorem State.modSc_bridges (s : State) (n : Nat) (f : SampleCore → SampleCore) : (s.modSc n f).bridges = s.bridges := rfl
@[simp] theorem State.modSc_ctl (s : State) (n : Nat) (f : SampleCore → SampleCore) : (s.modSc n f).ctl = s.ctl := rfl
@[simp] theorem State.modSc_safe (s : State) (n : Nat) (f : SampleCore → SampleCore) : (s.modSc n f).safe = s.safe := rfl
@[simp] theorem State.modSc_weld (s : State) (n : Nat) (f : SampleCore → SampleCore) : (s.modSc n f).weld = s.weld := rfl
@[simp] theorem State.modSc_qnch (s : State) (n : Nat) (f : SampleCore → SampleCore) : (s.modSc n f).qnch = s.qnch := rfl
@[simp] theorem State.modSc_tone (s : State) (n : Nat) (f : SampleCore → SampleCore) : (s.modSc n f).tone = s.tone := rfl
@[simp] theorem State.modSc_tdm (s : State) (n : Nat) (f : SampleCore → SampleCore) : (s.modSc n f).tdm = s.tdm := rfl
@[simp] theorem State.modSc_net (s : State) (n : Nat) (f : SampleCore → SampleCore) : (s.modSc n f).net = s.net := rfl
@[simp] theorem State.modSc_dict (s : State) (n : Nat) (f : SampleCore → SampleCore) : (s.modSc n f).dict = s.dict := rfl
@[simp] theorem State.modSc_ril (s : State) (n : Nat) (f : SampleCore → SampleCore) : (s.modSc n f).ril = s.ril := rfl
@[simp] theorem State.modSc_dma (s : State) (n : Nat) (f : SampleCore → SampleCore) : (s.modSc n f).dma = s.dma := rfl
@[simp] theorem State.modSc_sense (s : State) (n : Nat) (f : SampleCore → SampleCore) : (s.modSc n f).sense = s.sense := rfl
@[simp] theorem State.modSc_ports (s : State) (n : Nat) (f : SampleCore → SampleCore) : (s.modSc n f).ports = s.ports := rfl
@[simp] theorem State.modSc_msg (s : State) (n : Nat) (f : SampleCore → SampleCore) : (s.modSc n f).msg = s.msg := rfl
@[simp] theorem State.modSc_evt (s : State) (n : Nat) (f : SampleCore → SampleCore) : (s.modSc n f).evt = s.evt := rfl
@[simp] theorem State.modSc_modes (s : State) (n : Nat) (f : SampleCore → SampleCore) : (s.modSc n f).modes = s.modes := rfl
@[simp] theorem State.modSc_ward (s : State) (n : Nat) (f : SampleCore → SampleCore) : (s.modSc n f).ward = s.ward := rfl
@[simp] theorem State.modSc_power (s : State) (n : Nat) (f : SampleCore → SampleCore) : (s.modSc n f).power = s.power := rfl
@[simp] theorem State.modSc_free (s : State) (n : Nat) (f : SampleCore → SampleCore) : (s.modSc n f).free = s.free := rfl
@[simp] theorem State.modSc_pending (s : State) (n : Nat) (f : SampleCore → SampleCore) : (s.modSc n f).pending = s.pending := rfl

/-! ### modSense -/

@[simp] theorem State.modSense_regs (s : State) (f : Sense → Sense) : (s.modSense f).regs = s.regs := rfl
@[simp] theorem State.modSense_wbPend (s : State) (f : Sense → Sense) : (s.modSense f).wbPend = s.wbPend := rfl
@[simp] theorem State.modSense_sqs (s : State) (f : Sense → Sense) : (s.modSense f).sqs = s.sqs := rfl
@[simp] theorem State.modSense_mem (s : State) (f : Sense → Sense) : (s.modSense f).mem = s.mem := rfl
@[simp] theorem State.modSense_flash (s : State) (f : Sense → Sense) : (s.modSense f).flash = s.flash := rfl
@[simp] theorem State.modSense_ecc (s : State) (f : Sense → Sense) : (s.modSense f).ecc = s.ecc := rfl
@[simp] theorem State.modSense_bus (s : State) (f : Sense → Sense) : (s.modSense f).bus = s.bus := rfl
@[simp] theorem State.modSense_clk (s : State) (f : Sense → Sense) : (s.modSense f).clk = s.clk := rfl
@[simp] theorem State.modSense_mclk (s : State) (f : Sense → Sense) : (s.modSense f).mclk = s.mclk := rfl
@[simp] theorem State.modSense_bridges (s : State) (f : Sense → Sense) : (s.modSense f).bridges = s.bridges := rfl
@[simp] theorem State.modSense_ctl (s : State) (f : Sense → Sense) : (s.modSense f).ctl = s.ctl := rfl
@[simp] theorem State.modSense_eng (s : State) (f : Sense → Sense) : (s.modSense f).eng = s.eng := rfl
@[simp] theorem State.modSense_safe (s : State) (f : Sense → Sense) : (s.modSense f).safe = s.safe := rfl
@[simp] theorem State.modSense_weld (s : State) (f : Sense → Sense) : (s.modSense f).weld = s.weld := rfl
@[simp] theorem State.modSense_qnch (s : State) (f : Sense → Sense) : (s.modSense f).qnch = s.qnch := rfl
@[simp] theorem State.modSense_tone (s : State) (f : Sense → Sense) : (s.modSense f).tone = s.tone := rfl
@[simp] theorem State.modSense_tdm (s : State) (f : Sense → Sense) : (s.modSense f).tdm = s.tdm := rfl
@[simp] theorem State.modSense_net (s : State) (f : Sense → Sense) : (s.modSense f).net = s.net := rfl
@[simp] theorem State.modSense_dict (s : State) (f : Sense → Sense) : (s.modSense f).dict = s.dict := rfl
@[simp] theorem State.modSense_ril (s : State) (f : Sense → Sense) : (s.modSense f).ril = s.ril := rfl
@[simp] theorem State.modSense_dma (s : State) (f : Sense → Sense) : (s.modSense f).dma = s.dma := rfl
@[simp] theorem State.modSense_ports (s : State) (f : Sense → Sense) : (s.modSense f).ports = s.ports := rfl
@[simp] theorem State.modSense_msg (s : State) (f : Sense → Sense) : (s.modSense f).msg = s.msg := rfl
@[simp] theorem State.modSense_evt (s : State) (f : Sense → Sense) : (s.modSense f).evt = s.evt := rfl
@[simp] theorem State.modSense_modes (s : State) (f : Sense → Sense) : (s.modSense f).modes = s.modes := rfl
@[simp] theorem State.modSense_ward (s : State) (f : Sense → Sense) : (s.modSense f).ward = s.ward := rfl
@[simp] theorem State.modSense_power (s : State) (f : Sense → Sense) : (s.modSense f).power = s.power := rfl
@[simp] theorem State.modSense_free (s : State) (f : Sense → Sense) : (s.modSense f).free = s.free := rfl
@[simp] theorem State.modSense_pending (s : State) (f : Sense → Sense) : (s.modSense f).pending = s.pending := rfl

/-! ### modTenant -/

@[simp] theorem State.modTenant_regs (s : State) (t : Nat) (f : Tenant → Tenant) : (s.modTenant t f).regs = s.regs := rfl
@[simp] theorem State.modTenant_wbPend (s : State) (t : Nat) (f : Tenant → Tenant) : (s.modTenant t f).wbPend = s.wbPend := rfl
@[simp] theorem State.modTenant_sqs (s : State) (t : Nat) (f : Tenant → Tenant) : (s.modTenant t f).sqs = s.sqs := rfl
@[simp] theorem State.modTenant_mem (s : State) (t : Nat) (f : Tenant → Tenant) : (s.modTenant t f).mem = s.mem := rfl
@[simp] theorem State.modTenant_flash (s : State) (t : Nat) (f : Tenant → Tenant) : (s.modTenant t f).flash = s.flash := rfl
@[simp] theorem State.modTenant_ecc (s : State) (t : Nat) (f : Tenant → Tenant) : (s.modTenant t f).ecc = s.ecc := rfl
@[simp] theorem State.modTenant_bus (s : State) (t : Nat) (f : Tenant → Tenant) : (s.modTenant t f).bus = s.bus := rfl
@[simp] theorem State.modTenant_clk (s : State) (t : Nat) (f : Tenant → Tenant) : (s.modTenant t f).clk = s.clk := rfl
@[simp] theorem State.modTenant_mclk (s : State) (t : Nat) (f : Tenant → Tenant) : (s.modTenant t f).mclk = s.mclk := rfl
@[simp] theorem State.modTenant_bridges (s : State) (t : Nat) (f : Tenant → Tenant) : (s.modTenant t f).bridges = s.bridges := rfl
@[simp] theorem State.modTenant_ctl (s : State) (t : Nat) (f : Tenant → Tenant) : (s.modTenant t f).ctl = s.ctl := rfl
@[simp] theorem State.modTenant_eng (s : State) (t : Nat) (f : Tenant → Tenant) : (s.modTenant t f).eng = s.eng := rfl
@[simp] theorem State.modTenant_safe (s : State) (t : Nat) (f : Tenant → Tenant) : (s.modTenant t f).safe = s.safe := rfl
@[simp] theorem State.modTenant_weld (s : State) (t : Nat) (f : Tenant → Tenant) : (s.modTenant t f).weld = s.weld := rfl
@[simp] theorem State.modTenant_qnch (s : State) (t : Nat) (f : Tenant → Tenant) : (s.modTenant t f).qnch = s.qnch := rfl
@[simp] theorem State.modTenant_tone (s : State) (t : Nat) (f : Tenant → Tenant) : (s.modTenant t f).tone = s.tone := rfl
@[simp] theorem State.modTenant_tdm (s : State) (t : Nat) (f : Tenant → Tenant) : (s.modTenant t f).tdm = s.tdm := rfl
@[simp] theorem State.modTenant_net (s : State) (t : Nat) (f : Tenant → Tenant) : (s.modTenant t f).net = s.net := rfl
@[simp] theorem State.modTenant_ril (s : State) (t : Nat) (f : Tenant → Tenant) : (s.modTenant t f).ril = s.ril := rfl
@[simp] theorem State.modTenant_dma (s : State) (t : Nat) (f : Tenant → Tenant) : (s.modTenant t f).dma = s.dma := rfl
@[simp] theorem State.modTenant_sense (s : State) (t : Nat) (f : Tenant → Tenant) : (s.modTenant t f).sense = s.sense := rfl
@[simp] theorem State.modTenant_ports (s : State) (t : Nat) (f : Tenant → Tenant) : (s.modTenant t f).ports = s.ports := rfl
@[simp] theorem State.modTenant_msg (s : State) (t : Nat) (f : Tenant → Tenant) : (s.modTenant t f).msg = s.msg := rfl
@[simp] theorem State.modTenant_evt (s : State) (t : Nat) (f : Tenant → Tenant) : (s.modTenant t f).evt = s.evt := rfl
@[simp] theorem State.modTenant_modes (s : State) (t : Nat) (f : Tenant → Tenant) : (s.modTenant t f).modes = s.modes := rfl
@[simp] theorem State.modTenant_ward (s : State) (t : Nat) (f : Tenant → Tenant) : (s.modTenant t f).ward = s.ward := rfl
@[simp] theorem State.modTenant_power (s : State) (t : Nat) (f : Tenant → Tenant) : (s.modTenant t f).power = s.power := rfl
@[simp] theorem State.modTenant_free (s : State) (t : Nat) (f : Tenant → Tenant) : (s.modTenant t f).free = s.free := rfl
@[simp] theorem State.modTenant_pending (s : State) (t : Nat) (f : Tenant → Tenant) : (s.modTenant t f).pending = s.pending := rfl

/-! ### modVt -/

@[simp] theorem State.modVt_regs (s : State) (f : Vt → Vt) : (s.modVt f).regs = s.regs := rfl
@[simp] theorem State.modVt_wbPend (s : State) (f : Vt → Vt) : (s.modVt f).wbPend = s.wbPend := rfl
@[simp] theorem State.modVt_sqs (s : State) (f : Vt → Vt) : (s.modVt f).sqs = s.sqs := rfl
@[simp] theorem State.modVt_mem (s : State) (f : Vt → Vt) : (s.modVt f).mem = s.mem := rfl
@[simp] theorem State.modVt_flash (s : State) (f : Vt → Vt) : (s.modVt f).flash = s.flash := rfl
@[simp] theorem State.modVt_ecc (s : State) (f : Vt → Vt) : (s.modVt f).ecc = s.ecc := rfl
@[simp] theorem State.modVt_bus (s : State) (f : Vt → Vt) : (s.modVt f).bus = s.bus := rfl
@[simp] theorem State.modVt_clk (s : State) (f : Vt → Vt) : (s.modVt f).clk = s.clk := rfl
@[simp] theorem State.modVt_mclk (s : State) (f : Vt → Vt) : (s.modVt f).mclk = s.mclk := rfl
@[simp] theorem State.modVt_bridges (s : State) (f : Vt → Vt) : (s.modVt f).bridges = s.bridges := rfl
@[simp] theorem State.modVt_ctl (s : State) (f : Vt → Vt) : (s.modVt f).ctl = s.ctl := rfl
@[simp] theorem State.modVt_eng (s : State) (f : Vt → Vt) : (s.modVt f).eng = s.eng := rfl
@[simp] theorem State.modVt_safe (s : State) (f : Vt → Vt) : (s.modVt f).safe = s.safe := rfl
@[simp] theorem State.modVt_weld (s : State) (f : Vt → Vt) : (s.modVt f).weld = s.weld := rfl
@[simp] theorem State.modVt_qnch (s : State) (f : Vt → Vt) : (s.modVt f).qnch = s.qnch := rfl
@[simp] theorem State.modVt_tone (s : State) (f : Vt → Vt) : (s.modVt f).tone = s.tone := rfl
@[simp] theorem State.modVt_tdm (s : State) (f : Vt → Vt) : (s.modVt f).tdm = s.tdm := rfl
@[simp] theorem State.modVt_net (s : State) (f : Vt → Vt) : (s.modVt f).net = s.net := rfl
@[simp] theorem State.modVt_dict (s : State) (f : Vt → Vt) : (s.modVt f).dict = s.dict := rfl
@[simp] theorem State.modVt_ril (s : State) (f : Vt → Vt) : (s.modVt f).ril = s.ril := rfl
@[simp] theorem State.modVt_dma (s : State) (f : Vt → Vt) : (s.modVt f).dma = s.dma := rfl
@[simp] theorem State.modVt_ports (s : State) (f : Vt → Vt) : (s.modVt f).ports = s.ports := rfl
@[simp] theorem State.modVt_msg (s : State) (f : Vt → Vt) : (s.modVt f).msg = s.msg := rfl
@[simp] theorem State.modVt_evt (s : State) (f : Vt → Vt) : (s.modVt f).evt = s.evt := rfl
@[simp] theorem State.modVt_modes (s : State) (f : Vt → Vt) : (s.modVt f).modes = s.modes := rfl
@[simp] theorem State.modVt_ward (s : State) (f : Vt → Vt) : (s.modVt f).ward = s.ward := rfl
@[simp] theorem State.modVt_power (s : State) (f : Vt → Vt) : (s.modVt f).power = s.power := rfl
@[simp] theorem State.modVt_free (s : State) (f : Vt → Vt) : (s.modVt f).free = s.free := rfl
@[simp] theorem State.modVt_pending (s : State) (f : Vt → Vt) : (s.modVt f).pending = s.pending := rfl

/-! ### modWard -/

@[simp] theorem State.modWard_regs (s : State) (f : Warden → Warden) : (s.modWard f).regs = s.regs := rfl
@[simp] theorem State.modWard_wbPend (s : State) (f : Warden → Warden) : (s.modWard f).wbPend = s.wbPend := rfl
@[simp] theorem State.modWard_sqs (s : State) (f : Warden → Warden) : (s.modWard f).sqs = s.sqs := rfl
@[simp] theorem State.modWard_mem (s : State) (f : Warden → Warden) : (s.modWard f).mem = s.mem := rfl
@[simp] theorem State.modWard_flash (s : State) (f : Warden → Warden) : (s.modWard f).flash = s.flash := rfl
@[simp] theorem State.modWard_ecc (s : State) (f : Warden → Warden) : (s.modWard f).ecc = s.ecc := rfl
@[simp] theorem State.modWard_bus (s : State) (f : Warden → Warden) : (s.modWard f).bus = s.bus := rfl
@[simp] theorem State.modWard_clk (s : State) (f : Warden → Warden) : (s.modWard f).clk = s.clk := rfl
@[simp] theorem State.modWard_mclk (s : State) (f : Warden → Warden) : (s.modWard f).mclk = s.mclk := rfl
@[simp] theorem State.modWard_bridges (s : State) (f : Warden → Warden) : (s.modWard f).bridges = s.bridges := rfl
@[simp] theorem State.modWard_ctl (s : State) (f : Warden → Warden) : (s.modWard f).ctl = s.ctl := rfl
@[simp] theorem State.modWard_eng (s : State) (f : Warden → Warden) : (s.modWard f).eng = s.eng := rfl
@[simp] theorem State.modWard_safe (s : State) (f : Warden → Warden) : (s.modWard f).safe = s.safe := rfl
@[simp] theorem State.modWard_weld (s : State) (f : Warden → Warden) : (s.modWard f).weld = s.weld := rfl
@[simp] theorem State.modWard_qnch (s : State) (f : Warden → Warden) : (s.modWard f).qnch = s.qnch := rfl
@[simp] theorem State.modWard_tone (s : State) (f : Warden → Warden) : (s.modWard f).tone = s.tone := rfl
@[simp] theorem State.modWard_tdm (s : State) (f : Warden → Warden) : (s.modWard f).tdm = s.tdm := rfl
@[simp] theorem State.modWard_net (s : State) (f : Warden → Warden) : (s.modWard f).net = s.net := rfl
@[simp] theorem State.modWard_dict (s : State) (f : Warden → Warden) : (s.modWard f).dict = s.dict := rfl
@[simp] theorem State.modWard_ril (s : State) (f : Warden → Warden) : (s.modWard f).ril = s.ril := rfl
@[simp] theorem State.modWard_dma (s : State) (f : Warden → Warden) : (s.modWard f).dma = s.dma := rfl
@[simp] theorem State.modWard_sense (s : State) (f : Warden → Warden) : (s.modWard f).sense = s.sense := rfl
@[simp] theorem State.modWard_ports (s : State) (f : Warden → Warden) : (s.modWard f).ports = s.ports := rfl
@[simp] theorem State.modWard_msg (s : State) (f : Warden → Warden) : (s.modWard f).msg = s.msg := rfl
@[simp] theorem State.modWard_evt (s : State) (f : Warden → Warden) : (s.modWard f).evt = s.evt := rfl
@[simp] theorem State.modWard_modes (s : State) (f : Warden → Warden) : (s.modWard f).modes = s.modes := rfl
@[simp] theorem State.modWard_power (s : State) (f : Warden → Warden) : (s.modWard f).power = s.power := rfl
@[simp] theorem State.modWard_free (s : State) (f : Warden → Warden) : (s.modWard f).free = s.free := rfl
@[simp] theorem State.modWard_pending (s : State) (f : Warden → Warden) : (s.modWard f).pending = s.pending := rfl

/-! ### modWeld -/

@[simp] theorem State.modWeld_regs (s : State) (f : Weld → Weld) : (s.modWeld f).regs = s.regs := rfl
@[simp] theorem State.modWeld_wbPend (s : State) (f : Weld → Weld) : (s.modWeld f).wbPend = s.wbPend := rfl
@[simp] theorem State.modWeld_sqs (s : State) (f : Weld → Weld) : (s.modWeld f).sqs = s.sqs := rfl
@[simp] theorem State.modWeld_mem (s : State) (f : Weld → Weld) : (s.modWeld f).mem = s.mem := rfl
@[simp] theorem State.modWeld_flash (s : State) (f : Weld → Weld) : (s.modWeld f).flash = s.flash := rfl
@[simp] theorem State.modWeld_ecc (s : State) (f : Weld → Weld) : (s.modWeld f).ecc = s.ecc := rfl
@[simp] theorem State.modWeld_bus (s : State) (f : Weld → Weld) : (s.modWeld f).bus = s.bus := rfl
@[simp] theorem State.modWeld_clk (s : State) (f : Weld → Weld) : (s.modWeld f).clk = s.clk := rfl
@[simp] theorem State.modWeld_mclk (s : State) (f : Weld → Weld) : (s.modWeld f).mclk = s.mclk := rfl
@[simp] theorem State.modWeld_bridges (s : State) (f : Weld → Weld) : (s.modWeld f).bridges = s.bridges := rfl
@[simp] theorem State.modWeld_ctl (s : State) (f : Weld → Weld) : (s.modWeld f).ctl = s.ctl := rfl
@[simp] theorem State.modWeld_eng (s : State) (f : Weld → Weld) : (s.modWeld f).eng = s.eng := rfl
@[simp] theorem State.modWeld_safe (s : State) (f : Weld → Weld) : (s.modWeld f).safe = s.safe := rfl
@[simp] theorem State.modWeld_qnch (s : State) (f : Weld → Weld) : (s.modWeld f).qnch = s.qnch := rfl
@[simp] theorem State.modWeld_tone (s : State) (f : Weld → Weld) : (s.modWeld f).tone = s.tone := rfl
@[simp] theorem State.modWeld_tdm (s : State) (f : Weld → Weld) : (s.modWeld f).tdm = s.tdm := rfl
@[simp] theorem State.modWeld_net (s : State) (f : Weld → Weld) : (s.modWeld f).net = s.net := rfl
@[simp] theorem State.modWeld_dict (s : State) (f : Weld → Weld) : (s.modWeld f).dict = s.dict := rfl
@[simp] theorem State.modWeld_ril (s : State) (f : Weld → Weld) : (s.modWeld f).ril = s.ril := rfl
@[simp] theorem State.modWeld_dma (s : State) (f : Weld → Weld) : (s.modWeld f).dma = s.dma := rfl
@[simp] theorem State.modWeld_sense (s : State) (f : Weld → Weld) : (s.modWeld f).sense = s.sense := rfl
@[simp] theorem State.modWeld_ports (s : State) (f : Weld → Weld) : (s.modWeld f).ports = s.ports := rfl
@[simp] theorem State.modWeld_msg (s : State) (f : Weld → Weld) : (s.modWeld f).msg = s.msg := rfl
@[simp] theorem State.modWeld_evt (s : State) (f : Weld → Weld) : (s.modWeld f).evt = s.evt := rfl
@[simp] theorem State.modWeld_modes (s : State) (f : Weld → Weld) : (s.modWeld f).modes = s.modes := rfl
@[simp] theorem State.modWeld_ward (s : State) (f : Weld → Weld) : (s.modWeld f).ward = s.ward := rfl
@[simp] theorem State.modWeld_power (s : State) (f : Weld → Weld) : (s.modWeld f).power = s.power := rfl
@[simp] theorem State.modWeld_free (s : State) (f : Weld → Weld) : (s.modWeld f).free = s.free := rfl
@[simp] theorem State.modWeld_pending (s : State) (f : Weld → Weld) : (s.modWeld f).pending = s.pending := rfl

/-! ### mwr -/

@[simp] theorem State.mwr_regs (s : State) (a : Nat) (n : Nat) (v : Nat) : (s.mwr a n v).regs = s.regs := rfl
@[simp] theorem State.mwr_wbPend (s : State) (a : Nat) (n : Nat) (v : Nat) : (s.mwr a n v).wbPend = s.wbPend := rfl
@[simp] theorem State.mwr_sqs (s : State) (a : Nat) (n : Nat) (v : Nat) : (s.mwr a n v).sqs = s.sqs := rfl
@[simp] theorem State.mwr_flash (s : State) (a : Nat) (n : Nat) (v : Nat) : (s.mwr a n v).flash = s.flash := rfl
@[simp] theorem State.mwr_bus (s : State) (a : Nat) (n : Nat) (v : Nat) : (s.mwr a n v).bus = s.bus := rfl
@[simp] theorem State.mwr_clk (s : State) (a : Nat) (n : Nat) (v : Nat) : (s.mwr a n v).clk = s.clk := rfl
@[simp] theorem State.mwr_mclk (s : State) (a : Nat) (n : Nat) (v : Nat) : (s.mwr a n v).mclk = s.mclk := rfl
@[simp] theorem State.mwr_bridges (s : State) (a : Nat) (n : Nat) (v : Nat) : (s.mwr a n v).bridges = s.bridges := rfl
@[simp] theorem State.mwr_ctl (s : State) (a : Nat) (n : Nat) (v : Nat) : (s.mwr a n v).ctl = s.ctl := rfl
@[simp] theorem State.mwr_eng (s : State) (a : Nat) (n : Nat) (v : Nat) : (s.mwr a n v).eng = s.eng := rfl
@[simp] theorem State.mwr_safe (s : State) (a : Nat) (n : Nat) (v : Nat) : (s.mwr a n v).safe = s.safe := rfl
@[simp] theorem State.mwr_weld (s : State) (a : Nat) (n : Nat) (v : Nat) : (s.mwr a n v).weld = s.weld := rfl
@[simp] theorem State.mwr_qnch (s : State) (a : Nat) (n : Nat) (v : Nat) : (s.mwr a n v).qnch = s.qnch := rfl
@[simp] theorem State.mwr_tone (s : State) (a : Nat) (n : Nat) (v : Nat) : (s.mwr a n v).tone = s.tone := rfl
@[simp] theorem State.mwr_tdm (s : State) (a : Nat) (n : Nat) (v : Nat) : (s.mwr a n v).tdm = s.tdm := rfl
@[simp] theorem State.mwr_net (s : State) (a : Nat) (n : Nat) (v : Nat) : (s.mwr a n v).net = s.net := rfl
@[simp] theorem State.mwr_dict (s : State) (a : Nat) (n : Nat) (v : Nat) : (s.mwr a n v).dict = s.dict := rfl
@[simp] theorem State.mwr_ril (s : State) (a : Nat) (n : Nat) (v : Nat) : (s.mwr a n v).ril = s.ril := rfl
@[simp] theorem State.mwr_dma (s : State) (a : Nat) (n : Nat) (v : Nat) : (s.mwr a n v).dma = s.dma := rfl
@[simp] theorem State.mwr_sense (s : State) (a : Nat) (n : Nat) (v : Nat) : (s.mwr a n v).sense = s.sense := rfl
@[simp] theorem State.mwr_ports (s : State) (a : Nat) (n : Nat) (v : Nat) : (s.mwr a n v).ports = s.ports := rfl
@[simp] theorem State.mwr_msg (s : State) (a : Nat) (n : Nat) (v : Nat) : (s.mwr a n v).msg = s.msg := rfl
@[simp] theorem State.mwr_evt (s : State) (a : Nat) (n : Nat) (v : Nat) : (s.mwr a n v).evt = s.evt := rfl
@[simp] theorem State.mwr_modes (s : State) (a : Nat) (n : Nat) (v : Nat) : (s.mwr a n v).modes = s.modes := rfl
@[simp] theorem State.mwr_ward (s : State) (a : Nat) (n : Nat) (v : Nat) : (s.mwr a n v).ward = s.ward := rfl
@[simp] theorem State.mwr_power (s : State) (a : Nat) (n : Nat) (v : Nat) : (s.mwr a n v).power = s.power := rfl
@[simp] theorem State.mwr_free (s : State) (a : Nat) (n : Nat) (v : Nat) : (s.mwr a n v).free = s.free := rfl
@[simp] theorem State.mwr_pending (s : State) (a : Nat) (n : Nat) (v : Nat) : (s.mwr a n v).pending = s.pending := rfl

/-! ### mwrBytes -/

@[simp] theorem State.mwrBytes_regs (s : State) (a : Nat) (bs : List Byte) : (s.mwrBytes a bs).regs = s.regs := rfl
@[simp] theorem State.mwrBytes_wbPend (s : State) (a : Nat) (bs : List Byte) : (s.mwrBytes a bs).wbPend = s.wbPend := rfl
@[simp] theorem State.mwrBytes_sqs (s : State) (a : Nat) (bs : List Byte) : (s.mwrBytes a bs).sqs = s.sqs := rfl
@[simp] theorem State.mwrBytes_flash (s : State) (a : Nat) (bs : List Byte) : (s.mwrBytes a bs).flash = s.flash := rfl
@[simp] theorem State.mwrBytes_bus (s : State) (a : Nat) (bs : List Byte) : (s.mwrBytes a bs).bus = s.bus := rfl
@[simp] theorem State.mwrBytes_clk (s : State) (a : Nat) (bs : List Byte) : (s.mwrBytes a bs).clk = s.clk := rfl
@[simp] theorem State.mwrBytes_mclk (s : State) (a : Nat) (bs : List Byte) : (s.mwrBytes a bs).mclk = s.mclk := rfl
@[simp] theorem State.mwrBytes_bridges (s : State) (a : Nat) (bs : List Byte) : (s.mwrBytes a bs).bridges = s.bridges := rfl
@[simp] theorem State.mwrBytes_ctl (s : State) (a : Nat) (bs : List Byte) : (s.mwrBytes a bs).ctl = s.ctl := rfl
@[simp] theorem State.mwrBytes_eng (s : State) (a : Nat) (bs : List Byte) : (s.mwrBytes a bs).eng = s.eng := rfl
@[simp] theorem State.mwrBytes_safe (s : State) (a : Nat) (bs : List Byte) : (s.mwrBytes a bs).safe = s.safe := rfl
@[simp] theorem State.mwrBytes_weld (s : State) (a : Nat) (bs : List Byte) : (s.mwrBytes a bs).weld = s.weld := rfl
@[simp] theorem State.mwrBytes_qnch (s : State) (a : Nat) (bs : List Byte) : (s.mwrBytes a bs).qnch = s.qnch := rfl
@[simp] theorem State.mwrBytes_tone (s : State) (a : Nat) (bs : List Byte) : (s.mwrBytes a bs).tone = s.tone := rfl
@[simp] theorem State.mwrBytes_tdm (s : State) (a : Nat) (bs : List Byte) : (s.mwrBytes a bs).tdm = s.tdm := rfl
@[simp] theorem State.mwrBytes_net (s : State) (a : Nat) (bs : List Byte) : (s.mwrBytes a bs).net = s.net := rfl
@[simp] theorem State.mwrBytes_dict (s : State) (a : Nat) (bs : List Byte) : (s.mwrBytes a bs).dict = s.dict := rfl
@[simp] theorem State.mwrBytes_ril (s : State) (a : Nat) (bs : List Byte) : (s.mwrBytes a bs).ril = s.ril := rfl
@[simp] theorem State.mwrBytes_dma (s : State) (a : Nat) (bs : List Byte) : (s.mwrBytes a bs).dma = s.dma := rfl
@[simp] theorem State.mwrBytes_sense (s : State) (a : Nat) (bs : List Byte) : (s.mwrBytes a bs).sense = s.sense := rfl
@[simp] theorem State.mwrBytes_ports (s : State) (a : Nat) (bs : List Byte) : (s.mwrBytes a bs).ports = s.ports := rfl
@[simp] theorem State.mwrBytes_msg (s : State) (a : Nat) (bs : List Byte) : (s.mwrBytes a bs).msg = s.msg := rfl
@[simp] theorem State.mwrBytes_evt (s : State) (a : Nat) (bs : List Byte) : (s.mwrBytes a bs).evt = s.evt := rfl
@[simp] theorem State.mwrBytes_modes (s : State) (a : Nat) (bs : List Byte) : (s.mwrBytes a bs).modes = s.modes := rfl
@[simp] theorem State.mwrBytes_ward (s : State) (a : Nat) (bs : List Byte) : (s.mwrBytes a bs).ward = s.ward := rfl
@[simp] theorem State.mwrBytes_power (s : State) (a : Nat) (bs : List Byte) : (s.mwrBytes a bs).power = s.power := rfl
@[simp] theorem State.mwrBytes_free (s : State) (a : Nat) (bs : List Byte) : (s.mwrBytes a bs).free = s.free := rfl
@[simp] theorem State.mwrBytes_pending (s : State) (a : Nat) (bs : List Byte) : (s.mwrBytes a bs).pending = s.pending := rfl

/-! ### setBridge -/

@[simp] theorem State.setBridge_regs (s : State) (n : Nat) (b : Bridge) : (s.setBridge n b).regs = s.regs := rfl
@[simp] theorem State.setBridge_wbPend (s : State) (n : Nat) (b : Bridge) : (s.setBridge n b).wbPend = s.wbPend := rfl
@[simp] theorem State.setBridge_sqs (s : State) (n : Nat) (b : Bridge) : (s.setBridge n b).sqs = s.sqs := rfl
@[simp] theorem State.setBridge_mem (s : State) (n : Nat) (b : Bridge) : (s.setBridge n b).mem = s.mem := rfl
@[simp] theorem State.setBridge_flash (s : State) (n : Nat) (b : Bridge) : (s.setBridge n b).flash = s.flash := rfl
@[simp] theorem State.setBridge_ecc (s : State) (n : Nat) (b : Bridge) : (s.setBridge n b).ecc = s.ecc := rfl
@[simp] theorem State.setBridge_bus (s : State) (n : Nat) (b : Bridge) : (s.setBridge n b).bus = s.bus := rfl
@[simp] theorem State.setBridge_clk (s : State) (n : Nat) (b : Bridge) : (s.setBridge n b).clk = s.clk := rfl
@[simp] theorem State.setBridge_mclk (s : State) (n : Nat) (b : Bridge) : (s.setBridge n b).mclk = s.mclk := rfl
@[simp] theorem State.setBridge_ctl (s : State) (n : Nat) (b : Bridge) : (s.setBridge n b).ctl = s.ctl := rfl
@[simp] theorem State.setBridge_eng (s : State) (n : Nat) (b : Bridge) : (s.setBridge n b).eng = s.eng := rfl
@[simp] theorem State.setBridge_safe (s : State) (n : Nat) (b : Bridge) : (s.setBridge n b).safe = s.safe := rfl
@[simp] theorem State.setBridge_weld (s : State) (n : Nat) (b : Bridge) : (s.setBridge n b).weld = s.weld := rfl
@[simp] theorem State.setBridge_qnch (s : State) (n : Nat) (b : Bridge) : (s.setBridge n b).qnch = s.qnch := rfl
@[simp] theorem State.setBridge_tone (s : State) (n : Nat) (b : Bridge) : (s.setBridge n b).tone = s.tone := rfl
@[simp] theorem State.setBridge_tdm (s : State) (n : Nat) (b : Bridge) : (s.setBridge n b).tdm = s.tdm := rfl
@[simp] theorem State.setBridge_net (s : State) (n : Nat) (b : Bridge) : (s.setBridge n b).net = s.net := rfl
@[simp] theorem State.setBridge_dict (s : State) (n : Nat) (b : Bridge) : (s.setBridge n b).dict = s.dict := rfl
@[simp] theorem State.setBridge_ril (s : State) (n : Nat) (b : Bridge) : (s.setBridge n b).ril = s.ril := rfl
@[simp] theorem State.setBridge_dma (s : State) (n : Nat) (b : Bridge) : (s.setBridge n b).dma = s.dma := rfl
@[simp] theorem State.setBridge_sense (s : State) (n : Nat) (b : Bridge) : (s.setBridge n b).sense = s.sense := rfl
@[simp] theorem State.setBridge_ports (s : State) (n : Nat) (b : Bridge) : (s.setBridge n b).ports = s.ports := rfl
@[simp] theorem State.setBridge_msg (s : State) (n : Nat) (b : Bridge) : (s.setBridge n b).msg = s.msg := rfl
@[simp] theorem State.setBridge_evt (s : State) (n : Nat) (b : Bridge) : (s.setBridge n b).evt = s.evt := rfl
@[simp] theorem State.setBridge_modes (s : State) (n : Nat) (b : Bridge) : (s.setBridge n b).modes = s.modes := rfl
@[simp] theorem State.setBridge_ward (s : State) (n : Nat) (b : Bridge) : (s.setBridge n b).ward = s.ward := rfl
@[simp] theorem State.setBridge_power (s : State) (n : Nat) (b : Bridge) : (s.setBridge n b).power = s.power := rfl
@[simp] theorem State.setBridge_free (s : State) (n : Nat) (b : Bridge) : (s.setBridge n b).free = s.free := rfl
@[simp] theorem State.setBridge_pending (s : State) (n : Nat) (b : Bridge) : (s.setBridge n b).pending = s.pending := rfl

/-! ### setCan -/

@[simp] theorem State.setCan_regs (s : State) (k : Nat) (c : Can) : (s.setCan k c).regs = s.regs := rfl
@[simp] theorem State.setCan_wbPend (s : State) (k : Nat) (c : Can) : (s.setCan k c).wbPend = s.wbPend := rfl
@[simp] theorem State.setCan_sqs (s : State) (k : Nat) (c : Can) : (s.setCan k c).sqs = s.sqs := rfl
@[simp] theorem State.setCan_mem (s : State) (k : Nat) (c : Can) : (s.setCan k c).mem = s.mem := rfl
@[simp] theorem State.setCan_flash (s : State) (k : Nat) (c : Can) : (s.setCan k c).flash = s.flash := rfl
@[simp] theorem State.setCan_ecc (s : State) (k : Nat) (c : Can) : (s.setCan k c).ecc = s.ecc := rfl
@[simp] theorem State.setCan_bus (s : State) (k : Nat) (c : Can) : (s.setCan k c).bus = s.bus := rfl
@[simp] theorem State.setCan_clk (s : State) (k : Nat) (c : Can) : (s.setCan k c).clk = s.clk := rfl
@[simp] theorem State.setCan_mclk (s : State) (k : Nat) (c : Can) : (s.setCan k c).mclk = s.mclk := rfl
@[simp] theorem State.setCan_bridges (s : State) (k : Nat) (c : Can) : (s.setCan k c).bridges = s.bridges := rfl
@[simp] theorem State.setCan_ctl (s : State) (k : Nat) (c : Can) : (s.setCan k c).ctl = s.ctl := rfl
@[simp] theorem State.setCan_eng (s : State) (k : Nat) (c : Can) : (s.setCan k c).eng = s.eng := rfl
@[simp] theorem State.setCan_safe (s : State) (k : Nat) (c : Can) : (s.setCan k c).safe = s.safe := rfl
@[simp] theorem State.setCan_weld (s : State) (k : Nat) (c : Can) : (s.setCan k c).weld = s.weld := rfl
@[simp] theorem State.setCan_qnch (s : State) (k : Nat) (c : Can) : (s.setCan k c).qnch = s.qnch := rfl
@[simp] theorem State.setCan_tone (s : State) (k : Nat) (c : Can) : (s.setCan k c).tone = s.tone := rfl
@[simp] theorem State.setCan_tdm (s : State) (k : Nat) (c : Can) : (s.setCan k c).tdm = s.tdm := rfl
@[simp] theorem State.setCan_net (s : State) (k : Nat) (c : Can) : (s.setCan k c).net = s.net := rfl
@[simp] theorem State.setCan_dict (s : State) (k : Nat) (c : Can) : (s.setCan k c).dict = s.dict := rfl
@[simp] theorem State.setCan_ril (s : State) (k : Nat) (c : Can) : (s.setCan k c).ril = s.ril := rfl
@[simp] theorem State.setCan_dma (s : State) (k : Nat) (c : Can) : (s.setCan k c).dma = s.dma := rfl
@[simp] theorem State.setCan_sense (s : State) (k : Nat) (c : Can) : (s.setCan k c).sense = s.sense := rfl
@[simp] theorem State.setCan_msg (s : State) (k : Nat) (c : Can) : (s.setCan k c).msg = s.msg := rfl
@[simp] theorem State.setCan_evt (s : State) (k : Nat) (c : Can) : (s.setCan k c).evt = s.evt := rfl
@[simp] theorem State.setCan_modes (s : State) (k : Nat) (c : Can) : (s.setCan k c).modes = s.modes := rfl
@[simp] theorem State.setCan_ward (s : State) (k : Nat) (c : Can) : (s.setCan k c).ward = s.ward := rfl
@[simp] theorem State.setCan_power (s : State) (k : Nat) (c : Can) : (s.setCan k c).power = s.power := rfl
@[simp] theorem State.setCan_free (s : State) (k : Nat) (c : Can) : (s.setCan k c).free = s.free := rfl
@[simp] theorem State.setCan_pending (s : State) (k : Nat) (c : Can) : (s.setCan k c).pending = s.pending := rfl

/-! ### setClean -/

@[simp] theorem State.setClean_regs (s : State) (c : CSet) : (s.setClean c).regs = s.regs := rfl
@[simp] theorem State.setClean_wbPend (s : State) (c : CSet) : (s.setClean c).wbPend = s.wbPend := rfl
@[simp] theorem State.setClean_sqs (s : State) (c : CSet) : (s.setClean c).sqs = s.sqs := rfl
@[simp] theorem State.setClean_mem (s : State) (c : CSet) : (s.setClean c).mem = s.mem := rfl
@[simp] theorem State.setClean_flash (s : State) (c : CSet) : (s.setClean c).flash = s.flash := rfl
@[simp] theorem State.setClean_ecc (s : State) (c : CSet) : (s.setClean c).ecc = s.ecc := rfl
@[simp] theorem State.setClean_bus (s : State) (c : CSet) : (s.setClean c).bus = s.bus := rfl
@[simp] theorem State.setClean_clk (s : State) (c : CSet) : (s.setClean c).clk = s.clk := rfl
@[simp] theorem State.setClean_mclk (s : State) (c : CSet) : (s.setClean c).mclk = s.mclk := rfl
@[simp] theorem State.setClean_bridges (s : State) (c : CSet) : (s.setClean c).bridges = s.bridges := rfl
@[simp] theorem State.setClean_ctl (s : State) (c : CSet) : (s.setClean c).ctl = s.ctl := rfl
@[simp] theorem State.setClean_eng (s : State) (c : CSet) : (s.setClean c).eng = s.eng := rfl
@[simp] theorem State.setClean_weld (s : State) (c : CSet) : (s.setClean c).weld = s.weld := rfl
@[simp] theorem State.setClean_qnch (s : State) (c : CSet) : (s.setClean c).qnch = s.qnch := rfl
@[simp] theorem State.setClean_tone (s : State) (c : CSet) : (s.setClean c).tone = s.tone := rfl
@[simp] theorem State.setClean_tdm (s : State) (c : CSet) : (s.setClean c).tdm = s.tdm := rfl
@[simp] theorem State.setClean_net (s : State) (c : CSet) : (s.setClean c).net = s.net := rfl
@[simp] theorem State.setClean_dict (s : State) (c : CSet) : (s.setClean c).dict = s.dict := rfl
@[simp] theorem State.setClean_ril (s : State) (c : CSet) : (s.setClean c).ril = s.ril := rfl
@[simp] theorem State.setClean_dma (s : State) (c : CSet) : (s.setClean c).dma = s.dma := rfl
@[simp] theorem State.setClean_sense (s : State) (c : CSet) : (s.setClean c).sense = s.sense := rfl
@[simp] theorem State.setClean_ports (s : State) (c : CSet) : (s.setClean c).ports = s.ports := rfl
@[simp] theorem State.setClean_msg (s : State) (c : CSet) : (s.setClean c).msg = s.msg := rfl
@[simp] theorem State.setClean_evt (s : State) (c : CSet) : (s.setClean c).evt = s.evt := rfl
@[simp] theorem State.setClean_modes (s : State) (c : CSet) : (s.setClean c).modes = s.modes := rfl
@[simp] theorem State.setClean_ward (s : State) (c : CSet) : (s.setClean c).ward = s.ward := rfl
@[simp] theorem State.setClean_power (s : State) (c : CSet) : (s.setClean c).power = s.power := rfl
@[simp] theorem State.setClean_free (s : State) (c : CSet) : (s.setClean c).free = s.free := rfl
@[simp] theorem State.setClean_pending (s : State) (c : CSet) : (s.setClean c).pending = s.pending := rfl

/-! ### setContact -/

@[simp] theorem State.setContact_regs (s : State) (n : Nat) (c : Contact) : (s.setContact n c).regs = s.regs := rfl
@[simp] theorem State.setContact_wbPend (s : State) (n : Nat) (c : Contact) : (s.setContact n c).wbPend = s.wbPend := rfl
@[simp] theorem State.setContact_sqs (s : State) (n : Nat) (c : Contact) : (s.setContact n c).sqs = s.sqs := rfl
@[simp] theorem State.setContact_mem (s : State) (n : Nat) (c : Contact) : (s.setContact n c).mem = s.mem := rfl
@[simp] theorem State.setContact_flash (s : State) (n : Nat) (c : Contact) : (s.setContact n c).flash = s.flash := rfl
@[simp] theorem State.setContact_ecc (s : State) (n : Nat) (c : Contact) : (s.setContact n c).ecc = s.ecc := rfl
@[simp] theorem State.setContact_bus (s : State) (n : Nat) (c : Contact) : (s.setContact n c).bus = s.bus := rfl
@[simp] theorem State.setContact_clk (s : State) (n : Nat) (c : Contact) : (s.setContact n c).clk = s.clk := rfl
@[simp] theorem State.setContact_mclk (s : State) (n : Nat) (c : Contact) : (s.setContact n c).mclk = s.mclk := rfl
@[simp] theorem State.setContact_bridges (s : State) (n : Nat) (c : Contact) : (s.setContact n c).bridges = s.bridges := rfl
@[simp] theorem State.setContact_ctl (s : State) (n : Nat) (c : Contact) : (s.setContact n c).ctl = s.ctl := rfl
@[simp] theorem State.setContact_eng (s : State) (n : Nat) (c : Contact) : (s.setContact n c).eng = s.eng := rfl
@[simp] theorem State.setContact_safe (s : State) (n : Nat) (c : Contact) : (s.setContact n c).safe = s.safe := rfl
@[simp] theorem State.setContact_weld (s : State) (n : Nat) (c : Contact) : (s.setContact n c).weld = s.weld := rfl
@[simp] theorem State.setContact_qnch (s : State) (n : Nat) (c : Contact) : (s.setContact n c).qnch = s.qnch := rfl
@[simp] theorem State.setContact_tone (s : State) (n : Nat) (c : Contact) : (s.setContact n c).tone = s.tone := rfl
@[simp] theorem State.setContact_tdm (s : State) (n : Nat) (c : Contact) : (s.setContact n c).tdm = s.tdm := rfl
@[simp] theorem State.setContact_net (s : State) (n : Nat) (c : Contact) : (s.setContact n c).net = s.net := rfl
@[simp] theorem State.setContact_dict (s : State) (n : Nat) (c : Contact) : (s.setContact n c).dict = s.dict := rfl
@[simp] theorem State.setContact_ril (s : State) (n : Nat) (c : Contact) : (s.setContact n c).ril = s.ril := rfl
@[simp] theorem State.setContact_dma (s : State) (n : Nat) (c : Contact) : (s.setContact n c).dma = s.dma := rfl
@[simp] theorem State.setContact_sense (s : State) (n : Nat) (c : Contact) : (s.setContact n c).sense = s.sense := rfl
@[simp] theorem State.setContact_msg (s : State) (n : Nat) (c : Contact) : (s.setContact n c).msg = s.msg := rfl
@[simp] theorem State.setContact_evt (s : State) (n : Nat) (c : Contact) : (s.setContact n c).evt = s.evt := rfl
@[simp] theorem State.setContact_modes (s : State) (n : Nat) (c : Contact) : (s.setContact n c).modes = s.modes := rfl
@[simp] theorem State.setContact_ward (s : State) (n : Nat) (c : Contact) : (s.setContact n c).ward = s.ward := rfl
@[simp] theorem State.setContact_power (s : State) (n : Nat) (c : Contact) : (s.setContact n c).power = s.power := rfl
@[simp] theorem State.setContact_free (s : State) (n : Nat) (c : Contact) : (s.setContact n c).free = s.free := rfl
@[simp] theorem State.setContact_pending (s : State) (n : Nat) (c : Contact) : (s.setContact n c).pending = s.pending := rfl

/-! ### setCtl -/

@[simp] theorem State.setCtl_regs (s : State) (c : Nat) (x : CtlCore) : (s.setCtl c x).regs = s.regs := rfl
@[simp] theorem State.setCtl_wbPend (s : State) (c : Nat) (x : CtlCore) : (s.setCtl c x).wbPend = s.wbPend := rfl
@[simp] theorem State.setCtl_sqs (s : State) (c : Nat) (x : CtlCore) : (s.setCtl c x).sqs = s.sqs := rfl
@[simp] theorem State.setCtl_mem (s : State) (c : Nat) (x : CtlCore) : (s.setCtl c x).mem = s.mem := rfl
@[simp] theorem State.setCtl_flash (s : State) (c : Nat) (x : CtlCore) : (s.setCtl c x).flash = s.flash := rfl
@[simp] theorem State.setCtl_ecc (s : State) (c : Nat) (x : CtlCore) : (s.setCtl c x).ecc = s.ecc := rfl
@[simp] theorem State.setCtl_bus (s : State) (c : Nat) (x : CtlCore) : (s.setCtl c x).bus = s.bus := rfl
@[simp] theorem State.setCtl_clk (s : State) (c : Nat) (x : CtlCore) : (s.setCtl c x).clk = s.clk := rfl
@[simp] theorem State.setCtl_mclk (s : State) (c : Nat) (x : CtlCore) : (s.setCtl c x).mclk = s.mclk := rfl
@[simp] theorem State.setCtl_bridges (s : State) (c : Nat) (x : CtlCore) : (s.setCtl c x).bridges = s.bridges := rfl
@[simp] theorem State.setCtl_eng (s : State) (c : Nat) (x : CtlCore) : (s.setCtl c x).eng = s.eng := rfl
@[simp] theorem State.setCtl_safe (s : State) (c : Nat) (x : CtlCore) : (s.setCtl c x).safe = s.safe := rfl
@[simp] theorem State.setCtl_weld (s : State) (c : Nat) (x : CtlCore) : (s.setCtl c x).weld = s.weld := rfl
@[simp] theorem State.setCtl_qnch (s : State) (c : Nat) (x : CtlCore) : (s.setCtl c x).qnch = s.qnch := rfl
@[simp] theorem State.setCtl_tone (s : State) (c : Nat) (x : CtlCore) : (s.setCtl c x).tone = s.tone := rfl
@[simp] theorem State.setCtl_tdm (s : State) (c : Nat) (x : CtlCore) : (s.setCtl c x).tdm = s.tdm := rfl
@[simp] theorem State.setCtl_net (s : State) (c : Nat) (x : CtlCore) : (s.setCtl c x).net = s.net := rfl
@[simp] theorem State.setCtl_dict (s : State) (c : Nat) (x : CtlCore) : (s.setCtl c x).dict = s.dict := rfl
@[simp] theorem State.setCtl_ril (s : State) (c : Nat) (x : CtlCore) : (s.setCtl c x).ril = s.ril := rfl
@[simp] theorem State.setCtl_dma (s : State) (c : Nat) (x : CtlCore) : (s.setCtl c x).dma = s.dma := rfl
@[simp] theorem State.setCtl_sense (s : State) (c : Nat) (x : CtlCore) : (s.setCtl c x).sense = s.sense := rfl
@[simp] theorem State.setCtl_ports (s : State) (c : Nat) (x : CtlCore) : (s.setCtl c x).ports = s.ports := rfl
@[simp] theorem State.setCtl_msg (s : State) (c : Nat) (x : CtlCore) : (s.setCtl c x).msg = s.msg := rfl
@[simp] theorem State.setCtl_evt (s : State) (c : Nat) (x : CtlCore) : (s.setCtl c x).evt = s.evt := rfl
@[simp] theorem State.setCtl_modes (s : State) (c : Nat) (x : CtlCore) : (s.setCtl c x).modes = s.modes := rfl
@[simp] theorem State.setCtl_ward (s : State) (c : Nat) (x : CtlCore) : (s.setCtl c x).ward = s.ward := rfl
@[simp] theorem State.setCtl_power (s : State) (c : Nat) (x : CtlCore) : (s.setCtl c x).power = s.power := rfl
@[simp] theorem State.setCtl_free (s : State) (c : Nat) (x : CtlCore) : (s.setCtl c x).free = s.free := rfl
@[simp] theorem State.setCtl_pending (s : State) (c : Nat) (x : CtlCore) : (s.setCtl c x).pending = s.pending := rfl

/-! ### setDch -/

@[simp] theorem State.setDch_regs (s : State) (n : Nat) (x : DmaCh) : (s.setDch n x).regs = s.regs := rfl
@[simp] theorem State.setDch_wbPend (s : State) (n : Nat) (x : DmaCh) : (s.setDch n x).wbPend = s.wbPend := rfl
@[simp] theorem State.setDch_sqs (s : State) (n : Nat) (x : DmaCh) : (s.setDch n x).sqs = s.sqs := rfl
@[simp] theorem State.setDch_mem (s : State) (n : Nat) (x : DmaCh) : (s.setDch n x).mem = s.mem := rfl
@[simp] theorem State.setDch_flash (s : State) (n : Nat) (x : DmaCh) : (s.setDch n x).flash = s.flash := rfl
@[simp] theorem State.setDch_ecc (s : State) (n : Nat) (x : DmaCh) : (s.setDch n x).ecc = s.ecc := rfl
@[simp] theorem State.setDch_bus (s : State) (n : Nat) (x : DmaCh) : (s.setDch n x).bus = s.bus := rfl
@[simp] theorem State.setDch_clk (s : State) (n : Nat) (x : DmaCh) : (s.setDch n x).clk = s.clk := rfl
@[simp] theorem State.setDch_mclk (s : State) (n : Nat) (x : DmaCh) : (s.setDch n x).mclk = s.mclk := rfl
@[simp] theorem State.setDch_bridges (s : State) (n : Nat) (x : DmaCh) : (s.setDch n x).bridges = s.bridges := rfl
@[simp] theorem State.setDch_ctl (s : State) (n : Nat) (x : DmaCh) : (s.setDch n x).ctl = s.ctl := rfl
@[simp] theorem State.setDch_eng (s : State) (n : Nat) (x : DmaCh) : (s.setDch n x).eng = s.eng := rfl
@[simp] theorem State.setDch_safe (s : State) (n : Nat) (x : DmaCh) : (s.setDch n x).safe = s.safe := rfl
@[simp] theorem State.setDch_weld (s : State) (n : Nat) (x : DmaCh) : (s.setDch n x).weld = s.weld := rfl
@[simp] theorem State.setDch_qnch (s : State) (n : Nat) (x : DmaCh) : (s.setDch n x).qnch = s.qnch := rfl
@[simp] theorem State.setDch_tone (s : State) (n : Nat) (x : DmaCh) : (s.setDch n x).tone = s.tone := rfl
@[simp] theorem State.setDch_tdm (s : State) (n : Nat) (x : DmaCh) : (s.setDch n x).tdm = s.tdm := rfl
@[simp] theorem State.setDch_net (s : State) (n : Nat) (x : DmaCh) : (s.setDch n x).net = s.net := rfl
@[simp] theorem State.setDch_dict (s : State) (n : Nat) (x : DmaCh) : (s.setDch n x).dict = s.dict := rfl
@[simp] theorem State.setDch_ril (s : State) (n : Nat) (x : DmaCh) : (s.setDch n x).ril = s.ril := rfl
@[simp] theorem State.setDch_sense (s : State) (n : Nat) (x : DmaCh) : (s.setDch n x).sense = s.sense := rfl
@[simp] theorem State.setDch_ports (s : State) (n : Nat) (x : DmaCh) : (s.setDch n x).ports = s.ports := rfl
@[simp] theorem State.setDch_msg (s : State) (n : Nat) (x : DmaCh) : (s.setDch n x).msg = s.msg := rfl
@[simp] theorem State.setDch_evt (s : State) (n : Nat) (x : DmaCh) : (s.setDch n x).evt = s.evt := rfl
@[simp] theorem State.setDch_modes (s : State) (n : Nat) (x : DmaCh) : (s.setDch n x).modes = s.modes := rfl
@[simp] theorem State.setDch_ward (s : State) (n : Nat) (x : DmaCh) : (s.setDch n x).ward = s.ward := rfl
@[simp] theorem State.setDch_power (s : State) (n : Nat) (x : DmaCh) : (s.setDch n x).power = s.power := rfl
@[simp] theorem State.setDch_free (s : State) (n : Nat) (x : DmaCh) : (s.setDch n x).free = s.free := rfl
@[simp] theorem State.setDch_pending (s : State) (n : Nat) (x : DmaCh) : (s.setDch n x).pending = s.pending := rfl

/-! ### setEqLane -/

@[simp] theorem State.setEqLane_regs (s : State) (n : Nat) (x : EqLane) : (s.setEqLane n x).regs = s.regs := rfl
@[simp] theorem State.setEqLane_wbPend (s : State) (n : Nat) (x : EqLane) : (s.setEqLane n x).wbPend = s.wbPend := rfl
@[simp] theorem State.setEqLane_sqs (s : State) (n : Nat) (x : EqLane) : (s.setEqLane n x).sqs = s.sqs := rfl
@[simp] theorem State.setEqLane_mem (s : State) (n : Nat) (x : EqLane) : (s.setEqLane n x).mem = s.mem := rfl
@[simp] theorem State.setEqLane_flash (s : State) (n : Nat) (x : EqLane) : (s.setEqLane n x).flash = s.flash := rfl
@[simp] theorem State.setEqLane_ecc (s : State) (n : Nat) (x : EqLane) : (s.setEqLane n x).ecc = s.ecc := rfl
@[simp] theorem State.setEqLane_bus (s : State) (n : Nat) (x : EqLane) : (s.setEqLane n x).bus = s.bus := rfl
@[simp] theorem State.setEqLane_clk (s : State) (n : Nat) (x : EqLane) : (s.setEqLane n x).clk = s.clk := rfl
@[simp] theorem State.setEqLane_mclk (s : State) (n : Nat) (x : EqLane) : (s.setEqLane n x).mclk = s.mclk := rfl
@[simp] theorem State.setEqLane_bridges (s : State) (n : Nat) (x : EqLane) : (s.setEqLane n x).bridges = s.bridges := rfl
@[simp] theorem State.setEqLane_ctl (s : State) (n : Nat) (x : EqLane) : (s.setEqLane n x).ctl = s.ctl := rfl
@[simp] theorem State.setEqLane_eng (s : State) (n : Nat) (x : EqLane) : (s.setEqLane n x).eng = s.eng := rfl
@[simp] theorem State.setEqLane_safe (s : State) (n : Nat) (x : EqLane) : (s.setEqLane n x).safe = s.safe := rfl
@[simp] theorem State.setEqLane_weld (s : State) (n : Nat) (x : EqLane) : (s.setEqLane n x).weld = s.weld := rfl
@[simp] theorem State.setEqLane_tone (s : State) (n : Nat) (x : EqLane) : (s.setEqLane n x).tone = s.tone := rfl
@[simp] theorem State.setEqLane_tdm (s : State) (n : Nat) (x : EqLane) : (s.setEqLane n x).tdm = s.tdm := rfl
@[simp] theorem State.setEqLane_net (s : State) (n : Nat) (x : EqLane) : (s.setEqLane n x).net = s.net := rfl
@[simp] theorem State.setEqLane_dict (s : State) (n : Nat) (x : EqLane) : (s.setEqLane n x).dict = s.dict := rfl
@[simp] theorem State.setEqLane_ril (s : State) (n : Nat) (x : EqLane) : (s.setEqLane n x).ril = s.ril := rfl
@[simp] theorem State.setEqLane_dma (s : State) (n : Nat) (x : EqLane) : (s.setEqLane n x).dma = s.dma := rfl
@[simp] theorem State.setEqLane_sense (s : State) (n : Nat) (x : EqLane) : (s.setEqLane n x).sense = s.sense := rfl
@[simp] theorem State.setEqLane_ports (s : State) (n : Nat) (x : EqLane) : (s.setEqLane n x).ports = s.ports := rfl
@[simp] theorem State.setEqLane_msg (s : State) (n : Nat) (x : EqLane) : (s.setEqLane n x).msg = s.msg := rfl
@[simp] theorem State.setEqLane_evt (s : State) (n : Nat) (x : EqLane) : (s.setEqLane n x).evt = s.evt := rfl
@[simp] theorem State.setEqLane_modes (s : State) (n : Nat) (x : EqLane) : (s.setEqLane n x).modes = s.modes := rfl
@[simp] theorem State.setEqLane_ward (s : State) (n : Nat) (x : EqLane) : (s.setEqLane n x).ward = s.ward := rfl
@[simp] theorem State.setEqLane_power (s : State) (n : Nat) (x : EqLane) : (s.setEqLane n x).power = s.power := rfl
@[simp] theorem State.setEqLane_free (s : State) (n : Nat) (x : EqLane) : (s.setEqLane n x).free = s.free := rfl
@[simp] theorem State.setEqLane_pending (s : State) (n : Nat) (x : EqLane) : (s.setEqLane n x).pending = s.pending := rfl

/-! ### setGen -/

@[simp] theorem State.setGen_regs (s : State) (g : Nat) (x : ToneGen) : (s.setGen g x).regs = s.regs := rfl
@[simp] theorem State.setGen_wbPend (s : State) (g : Nat) (x : ToneGen) : (s.setGen g x).wbPend = s.wbPend := rfl
@[simp] theorem State.setGen_sqs (s : State) (g : Nat) (x : ToneGen) : (s.setGen g x).sqs = s.sqs := rfl
@[simp] theorem State.setGen_mem (s : State) (g : Nat) (x : ToneGen) : (s.setGen g x).mem = s.mem := rfl
@[simp] theorem State.setGen_flash (s : State) (g : Nat) (x : ToneGen) : (s.setGen g x).flash = s.flash := rfl
@[simp] theorem State.setGen_ecc (s : State) (g : Nat) (x : ToneGen) : (s.setGen g x).ecc = s.ecc := rfl
@[simp] theorem State.setGen_bus (s : State) (g : Nat) (x : ToneGen) : (s.setGen g x).bus = s.bus := rfl
@[simp] theorem State.setGen_clk (s : State) (g : Nat) (x : ToneGen) : (s.setGen g x).clk = s.clk := rfl
@[simp] theorem State.setGen_mclk (s : State) (g : Nat) (x : ToneGen) : (s.setGen g x).mclk = s.mclk := rfl
@[simp] theorem State.setGen_bridges (s : State) (g : Nat) (x : ToneGen) : (s.setGen g x).bridges = s.bridges := rfl
@[simp] theorem State.setGen_ctl (s : State) (g : Nat) (x : ToneGen) : (s.setGen g x).ctl = s.ctl := rfl
@[simp] theorem State.setGen_eng (s : State) (g : Nat) (x : ToneGen) : (s.setGen g x).eng = s.eng := rfl
@[simp] theorem State.setGen_safe (s : State) (g : Nat) (x : ToneGen) : (s.setGen g x).safe = s.safe := rfl
@[simp] theorem State.setGen_weld (s : State) (g : Nat) (x : ToneGen) : (s.setGen g x).weld = s.weld := rfl
@[simp] theorem State.setGen_qnch (s : State) (g : Nat) (x : ToneGen) : (s.setGen g x).qnch = s.qnch := rfl
@[simp] theorem State.setGen_tdm (s : State) (g : Nat) (x : ToneGen) : (s.setGen g x).tdm = s.tdm := rfl
@[simp] theorem State.setGen_net (s : State) (g : Nat) (x : ToneGen) : (s.setGen g x).net = s.net := rfl
@[simp] theorem State.setGen_dict (s : State) (g : Nat) (x : ToneGen) : (s.setGen g x).dict = s.dict := rfl
@[simp] theorem State.setGen_ril (s : State) (g : Nat) (x : ToneGen) : (s.setGen g x).ril = s.ril := rfl
@[simp] theorem State.setGen_dma (s : State) (g : Nat) (x : ToneGen) : (s.setGen g x).dma = s.dma := rfl
@[simp] theorem State.setGen_sense (s : State) (g : Nat) (x : ToneGen) : (s.setGen g x).sense = s.sense := rfl
@[simp] theorem State.setGen_ports (s : State) (g : Nat) (x : ToneGen) : (s.setGen g x).ports = s.ports := rfl
@[simp] theorem State.setGen_msg (s : State) (g : Nat) (x : ToneGen) : (s.setGen g x).msg = s.msg := rfl
@[simp] theorem State.setGen_evt (s : State) (g : Nat) (x : ToneGen) : (s.setGen g x).evt = s.evt := rfl
@[simp] theorem State.setGen_modes (s : State) (g : Nat) (x : ToneGen) : (s.setGen g x).modes = s.modes := rfl
@[simp] theorem State.setGen_ward (s : State) (g : Nat) (x : ToneGen) : (s.setGen g x).ward = s.ward := rfl
@[simp] theorem State.setGen_power (s : State) (g : Nat) (x : ToneGen) : (s.setGen g x).power = s.power := rfl
@[simp] theorem State.setGen_free (s : State) (g : Nat) (x : ToneGen) : (s.setGen g x).free = s.free := rfl
@[simp] theorem State.setGen_pending (s : State) (g : Nat) (x : ToneGen) : (s.setGen g x).pending = s.pending := rfl

/-! ### setGrp -/

@[simp] theorem State.setGrp_regs (s : State) (g : Nat) (x : Group) : (s.setGrp g x).regs = s.regs := rfl
@[simp] theorem State.setGrp_wbPend (s : State) (g : Nat) (x : Group) : (s.setGrp g x).wbPend = s.wbPend := rfl
@[simp] theorem State.setGrp_sqs (s : State) (g : Nat) (x : Group) : (s.setGrp g x).sqs = s.sqs := rfl
@[simp] theorem State.setGrp_mem (s : State) (g : Nat) (x : Group) : (s.setGrp g x).mem = s.mem := rfl
@[simp] theorem State.setGrp_flash (s : State) (g : Nat) (x : Group) : (s.setGrp g x).flash = s.flash := rfl
@[simp] theorem State.setGrp_ecc (s : State) (g : Nat) (x : Group) : (s.setGrp g x).ecc = s.ecc := rfl
@[simp] theorem State.setGrp_bus (s : State) (g : Nat) (x : Group) : (s.setGrp g x).bus = s.bus := rfl
@[simp] theorem State.setGrp_clk (s : State) (g : Nat) (x : Group) : (s.setGrp g x).clk = s.clk := rfl
@[simp] theorem State.setGrp_mclk (s : State) (g : Nat) (x : Group) : (s.setGrp g x).mclk = s.mclk := rfl
@[simp] theorem State.setGrp_bridges (s : State) (g : Nat) (x : Group) : (s.setGrp g x).bridges = s.bridges := rfl
@[simp] theorem State.setGrp_ctl (s : State) (g : Nat) (x : Group) : (s.setGrp g x).ctl = s.ctl := rfl
@[simp] theorem State.setGrp_eng (s : State) (g : Nat) (x : Group) : (s.setGrp g x).eng = s.eng := rfl
@[simp] theorem State.setGrp_weld (s : State) (g : Nat) (x : Group) : (s.setGrp g x).weld = s.weld := rfl
@[simp] theorem State.setGrp_qnch (s : State) (g : Nat) (x : Group) : (s.setGrp g x).qnch = s.qnch := rfl
@[simp] theorem State.setGrp_tone (s : State) (g : Nat) (x : Group) : (s.setGrp g x).tone = s.tone := rfl
@[simp] theorem State.setGrp_tdm (s : State) (g : Nat) (x : Group) : (s.setGrp g x).tdm = s.tdm := rfl
@[simp] theorem State.setGrp_net (s : State) (g : Nat) (x : Group) : (s.setGrp g x).net = s.net := rfl
@[simp] theorem State.setGrp_dict (s : State) (g : Nat) (x : Group) : (s.setGrp g x).dict = s.dict := rfl
@[simp] theorem State.setGrp_ril (s : State) (g : Nat) (x : Group) : (s.setGrp g x).ril = s.ril := rfl
@[simp] theorem State.setGrp_dma (s : State) (g : Nat) (x : Group) : (s.setGrp g x).dma = s.dma := rfl
@[simp] theorem State.setGrp_sense (s : State) (g : Nat) (x : Group) : (s.setGrp g x).sense = s.sense := rfl
@[simp] theorem State.setGrp_ports (s : State) (g : Nat) (x : Group) : (s.setGrp g x).ports = s.ports := rfl
@[simp] theorem State.setGrp_msg (s : State) (g : Nat) (x : Group) : (s.setGrp g x).msg = s.msg := rfl
@[simp] theorem State.setGrp_evt (s : State) (g : Nat) (x : Group) : (s.setGrp g x).evt = s.evt := rfl
@[simp] theorem State.setGrp_modes (s : State) (g : Nat) (x : Group) : (s.setGrp g x).modes = s.modes := rfl
@[simp] theorem State.setGrp_ward (s : State) (g : Nat) (x : Group) : (s.setGrp g x).ward = s.ward := rfl
@[simp] theorem State.setGrp_power (s : State) (g : Nat) (x : Group) : (s.setGrp g x).power = s.power := rfl
@[simp] theorem State.setGrp_free (s : State) (g : Nat) (x : Group) : (s.setGrp g x).free = s.free := rfl
@[simp] theorem State.setGrp_pending (s : State) (g : Nat) (x : Group) : (s.setGrp g x).pending = s.pending := rfl

/-! ### setI2c -/

@[simp] theorem State.setI2c_regs (s : State) (k : Nat) (c : I2c) : (s.setI2c k c).regs = s.regs := rfl
@[simp] theorem State.setI2c_wbPend (s : State) (k : Nat) (c : I2c) : (s.setI2c k c).wbPend = s.wbPend := rfl
@[simp] theorem State.setI2c_sqs (s : State) (k : Nat) (c : I2c) : (s.setI2c k c).sqs = s.sqs := rfl
@[simp] theorem State.setI2c_mem (s : State) (k : Nat) (c : I2c) : (s.setI2c k c).mem = s.mem := rfl
@[simp] theorem State.setI2c_flash (s : State) (k : Nat) (c : I2c) : (s.setI2c k c).flash = s.flash := rfl
@[simp] theorem State.setI2c_ecc (s : State) (k : Nat) (c : I2c) : (s.setI2c k c).ecc = s.ecc := rfl
@[simp] theorem State.setI2c_bus (s : State) (k : Nat) (c : I2c) : (s.setI2c k c).bus = s.bus := rfl
@[simp] theorem State.setI2c_clk (s : State) (k : Nat) (c : I2c) : (s.setI2c k c).clk = s.clk := rfl
@[simp] theorem State.setI2c_mclk (s : State) (k : Nat) (c : I2c) : (s.setI2c k c).mclk = s.mclk := rfl
@[simp] theorem State.setI2c_bridges (s : State) (k : Nat) (c : I2c) : (s.setI2c k c).bridges = s.bridges := rfl
@[simp] theorem State.setI2c_ctl (s : State) (k : Nat) (c : I2c) : (s.setI2c k c).ctl = s.ctl := rfl
@[simp] theorem State.setI2c_eng (s : State) (k : Nat) (c : I2c) : (s.setI2c k c).eng = s.eng := rfl
@[simp] theorem State.setI2c_safe (s : State) (k : Nat) (c : I2c) : (s.setI2c k c).safe = s.safe := rfl
@[simp] theorem State.setI2c_weld (s : State) (k : Nat) (c : I2c) : (s.setI2c k c).weld = s.weld := rfl
@[simp] theorem State.setI2c_qnch (s : State) (k : Nat) (c : I2c) : (s.setI2c k c).qnch = s.qnch := rfl
@[simp] theorem State.setI2c_tone (s : State) (k : Nat) (c : I2c) : (s.setI2c k c).tone = s.tone := rfl
@[simp] theorem State.setI2c_tdm (s : State) (k : Nat) (c : I2c) : (s.setI2c k c).tdm = s.tdm := rfl
@[simp] theorem State.setI2c_net (s : State) (k : Nat) (c : I2c) : (s.setI2c k c).net = s.net := rfl
@[simp] theorem State.setI2c_dict (s : State) (k : Nat) (c : I2c) : (s.setI2c k c).dict = s.dict := rfl
@[simp] theorem State.setI2c_ril (s : State) (k : Nat) (c : I2c) : (s.setI2c k c).ril = s.ril := rfl
@[simp] theorem State.setI2c_dma (s : State) (k : Nat) (c : I2c) : (s.setI2c k c).dma = s.dma := rfl
@[simp] theorem State.setI2c_sense (s : State) (k : Nat) (c : I2c) : (s.setI2c k c).sense = s.sense := rfl
@[simp] theorem State.setI2c_msg (s : State) (k : Nat) (c : I2c) : (s.setI2c k c).msg = s.msg := rfl
@[simp] theorem State.setI2c_evt (s : State) (k : Nat) (c : I2c) : (s.setI2c k c).evt = s.evt := rfl
@[simp] theorem State.setI2c_modes (s : State) (k : Nat) (c : I2c) : (s.setI2c k c).modes = s.modes := rfl
@[simp] theorem State.setI2c_ward (s : State) (k : Nat) (c : I2c) : (s.setI2c k c).ward = s.ward := rfl
@[simp] theorem State.setI2c_power (s : State) (k : Nat) (c : I2c) : (s.setI2c k c).power = s.power := rfl
@[simp] theorem State.setI2c_free (s : State) (k : Nat) (c : I2c) : (s.setI2c k c).free = s.free := rfl
@[simp] theorem State.setI2c_pending (s : State) (k : Nat) (c : I2c) : (s.setI2c k c).pending = s.pending := rfl

/-! ### setLane -/

@[simp] theorem State.setLane_regs (s : State) (l : Nat) (v : LaneVal) : (s.setLane l v).regs = s.regs := rfl
@[simp] theorem State.setLane_wbPend (s : State) (l : Nat) (v : LaneVal) : (s.setLane l v).wbPend = s.wbPend := rfl
@[simp] theorem State.setLane_sqs (s : State) (l : Nat) (v : LaneVal) : (s.setLane l v).sqs = s.sqs := rfl
@[simp] theorem State.setLane_mem (s : State) (l : Nat) (v : LaneVal) : (s.setLane l v).mem = s.mem := rfl
@[simp] theorem State.setLane_flash (s : State) (l : Nat) (v : LaneVal) : (s.setLane l v).flash = s.flash := rfl
@[simp] theorem State.setLane_ecc (s : State) (l : Nat) (v : LaneVal) : (s.setLane l v).ecc = s.ecc := rfl
@[simp] theorem State.setLane_bus (s : State) (l : Nat) (v : LaneVal) : (s.setLane l v).bus = s.bus := rfl
@[simp] theorem State.setLane_clk (s : State) (l : Nat) (v : LaneVal) : (s.setLane l v).clk = s.clk := rfl
@[simp] theorem State.setLane_mclk (s : State) (l : Nat) (v : LaneVal) : (s.setLane l v).mclk = s.mclk := rfl
@[simp] theorem State.setLane_bridges (s : State) (l : Nat) (v : LaneVal) : (s.setLane l v).bridges = s.bridges := rfl
@[simp] theorem State.setLane_ctl (s : State) (l : Nat) (v : LaneVal) : (s.setLane l v).ctl = s.ctl := rfl
@[simp] theorem State.setLane_safe (s : State) (l : Nat) (v : LaneVal) : (s.setLane l v).safe = s.safe := rfl
@[simp] theorem State.setLane_weld (s : State) (l : Nat) (v : LaneVal) : (s.setLane l v).weld = s.weld := rfl
@[simp] theorem State.setLane_qnch (s : State) (l : Nat) (v : LaneVal) : (s.setLane l v).qnch = s.qnch := rfl
@[simp] theorem State.setLane_tone (s : State) (l : Nat) (v : LaneVal) : (s.setLane l v).tone = s.tone := rfl
@[simp] theorem State.setLane_tdm (s : State) (l : Nat) (v : LaneVal) : (s.setLane l v).tdm = s.tdm := rfl
@[simp] theorem State.setLane_net (s : State) (l : Nat) (v : LaneVal) : (s.setLane l v).net = s.net := rfl
@[simp] theorem State.setLane_dict (s : State) (l : Nat) (v : LaneVal) : (s.setLane l v).dict = s.dict := rfl
@[simp] theorem State.setLane_ril (s : State) (l : Nat) (v : LaneVal) : (s.setLane l v).ril = s.ril := rfl
@[simp] theorem State.setLane_dma (s : State) (l : Nat) (v : LaneVal) : (s.setLane l v).dma = s.dma := rfl
@[simp] theorem State.setLane_sense (s : State) (l : Nat) (v : LaneVal) : (s.setLane l v).sense = s.sense := rfl
@[simp] theorem State.setLane_ports (s : State) (l : Nat) (v : LaneVal) : (s.setLane l v).ports = s.ports := rfl
@[simp] theorem State.setLane_msg (s : State) (l : Nat) (v : LaneVal) : (s.setLane l v).msg = s.msg := rfl
@[simp] theorem State.setLane_evt (s : State) (l : Nat) (v : LaneVal) : (s.setLane l v).evt = s.evt := rfl
@[simp] theorem State.setLane_modes (s : State) (l : Nat) (v : LaneVal) : (s.setLane l v).modes = s.modes := rfl
@[simp] theorem State.setLane_ward (s : State) (l : Nat) (v : LaneVal) : (s.setLane l v).ward = s.ward := rfl
@[simp] theorem State.setLane_power (s : State) (l : Nat) (v : LaneVal) : (s.setLane l v).power = s.power := rfl
@[simp] theorem State.setLane_free (s : State) (l : Nat) (v : LaneVal) : (s.setLane l v).free = s.free := rfl
@[simp] theorem State.setLane_pending (s : State) (l : Nat) (v : LaneVal) : (s.setLane l v).pending = s.pending := rfl

/-! ### setLim -/

@[simp] theorem State.setLim_regs (s : State) (o : Nat) (x : Limiter) : (s.setLim o x).regs = s.regs := rfl
@[simp] theorem State.setLim_wbPend (s : State) (o : Nat) (x : Limiter) : (s.setLim o x).wbPend = s.wbPend := rfl
@[simp] theorem State.setLim_sqs (s : State) (o : Nat) (x : Limiter) : (s.setLim o x).sqs = s.sqs := rfl
@[simp] theorem State.setLim_mem (s : State) (o : Nat) (x : Limiter) : (s.setLim o x).mem = s.mem := rfl
@[simp] theorem State.setLim_flash (s : State) (o : Nat) (x : Limiter) : (s.setLim o x).flash = s.flash := rfl
@[simp] theorem State.setLim_ecc (s : State) (o : Nat) (x : Limiter) : (s.setLim o x).ecc = s.ecc := rfl
@[simp] theorem State.setLim_bus (s : State) (o : Nat) (x : Limiter) : (s.setLim o x).bus = s.bus := rfl
@[simp] theorem State.setLim_clk (s : State) (o : Nat) (x : Limiter) : (s.setLim o x).clk = s.clk := rfl
@[simp] theorem State.setLim_mclk (s : State) (o : Nat) (x : Limiter) : (s.setLim o x).mclk = s.mclk := rfl
@[simp] theorem State.setLim_bridges (s : State) (o : Nat) (x : Limiter) : (s.setLim o x).bridges = s.bridges := rfl
@[simp] theorem State.setLim_ctl (s : State) (o : Nat) (x : Limiter) : (s.setLim o x).ctl = s.ctl := rfl
@[simp] theorem State.setLim_eng (s : State) (o : Nat) (x : Limiter) : (s.setLim o x).eng = s.eng := rfl
@[simp] theorem State.setLim_safe (s : State) (o : Nat) (x : Limiter) : (s.setLim o x).safe = s.safe := rfl
@[simp] theorem State.setLim_weld (s : State) (o : Nat) (x : Limiter) : (s.setLim o x).weld = s.weld := rfl
@[simp] theorem State.setLim_tone (s : State) (o : Nat) (x : Limiter) : (s.setLim o x).tone = s.tone := rfl
@[simp] theorem State.setLim_tdm (s : State) (o : Nat) (x : Limiter) : (s.setLim o x).tdm = s.tdm := rfl
@[simp] theorem State.setLim_net (s : State) (o : Nat) (x : Limiter) : (s.setLim o x).net = s.net := rfl
@[simp] theorem State.setLim_dict (s : State) (o : Nat) (x : Limiter) : (s.setLim o x).dict = s.dict := rfl
@[simp] theorem State.setLim_ril (s : State) (o : Nat) (x : Limiter) : (s.setLim o x).ril = s.ril := rfl
@[simp] theorem State.setLim_dma (s : State) (o : Nat) (x : Limiter) : (s.setLim o x).dma = s.dma := rfl
@[simp] theorem State.setLim_sense (s : State) (o : Nat) (x : Limiter) : (s.setLim o x).sense = s.sense := rfl
@[simp] theorem State.setLim_ports (s : State) (o : Nat) (x : Limiter) : (s.setLim o x).ports = s.ports := rfl
@[simp] theorem State.setLim_msg (s : State) (o : Nat) (x : Limiter) : (s.setLim o x).msg = s.msg := rfl
@[simp] theorem State.setLim_evt (s : State) (o : Nat) (x : Limiter) : (s.setLim o x).evt = s.evt := rfl
@[simp] theorem State.setLim_modes (s : State) (o : Nat) (x : Limiter) : (s.setLim o x).modes = s.modes := rfl
@[simp] theorem State.setLim_ward (s : State) (o : Nat) (x : Limiter) : (s.setLim o x).ward = s.ward := rfl
@[simp] theorem State.setLim_power (s : State) (o : Nat) (x : Limiter) : (s.setLim o x).power = s.power := rfl
@[simp] theorem State.setLim_free (s : State) (o : Nat) (x : Limiter) : (s.setLim o x).free = s.free := rfl
@[simp] theorem State.setLim_pending (s : State) (o : Nat) (x : Limiter) : (s.setLim o x).pending = s.pending := rfl

/-! ### setMic -/

@[simp] theorem State.setMic_regs (s : State) (x : Nat) (m : MicLine) : (s.setMic x m).regs = s.regs := rfl
@[simp] theorem State.setMic_wbPend (s : State) (x : Nat) (m : MicLine) : (s.setMic x m).wbPend = s.wbPend := rfl
@[simp] theorem State.setMic_sqs (s : State) (x : Nat) (m : MicLine) : (s.setMic x m).sqs = s.sqs := rfl
@[simp] theorem State.setMic_mem (s : State) (x : Nat) (m : MicLine) : (s.setMic x m).mem = s.mem := rfl
@[simp] theorem State.setMic_flash (s : State) (x : Nat) (m : MicLine) : (s.setMic x m).flash = s.flash := rfl
@[simp] theorem State.setMic_ecc (s : State) (x : Nat) (m : MicLine) : (s.setMic x m).ecc = s.ecc := rfl
@[simp] theorem State.setMic_bus (s : State) (x : Nat) (m : MicLine) : (s.setMic x m).bus = s.bus := rfl
@[simp] theorem State.setMic_clk (s : State) (x : Nat) (m : MicLine) : (s.setMic x m).clk = s.clk := rfl
@[simp] theorem State.setMic_mclk (s : State) (x : Nat) (m : MicLine) : (s.setMic x m).mclk = s.mclk := rfl
@[simp] theorem State.setMic_bridges (s : State) (x : Nat) (m : MicLine) : (s.setMic x m).bridges = s.bridges := rfl
@[simp] theorem State.setMic_ctl (s : State) (x : Nat) (m : MicLine) : (s.setMic x m).ctl = s.ctl := rfl
@[simp] theorem State.setMic_eng (s : State) (x : Nat) (m : MicLine) : (s.setMic x m).eng = s.eng := rfl
@[simp] theorem State.setMic_safe (s : State) (x : Nat) (m : MicLine) : (s.setMic x m).safe = s.safe := rfl
@[simp] theorem State.setMic_weld (s : State) (x : Nat) (m : MicLine) : (s.setMic x m).weld = s.weld := rfl
@[simp] theorem State.setMic_qnch (s : State) (x : Nat) (m : MicLine) : (s.setMic x m).qnch = s.qnch := rfl
@[simp] theorem State.setMic_tone (s : State) (x : Nat) (m : MicLine) : (s.setMic x m).tone = s.tone := rfl
@[simp] theorem State.setMic_tdm (s : State) (x : Nat) (m : MicLine) : (s.setMic x m).tdm = s.tdm := rfl
@[simp] theorem State.setMic_net (s : State) (x : Nat) (m : MicLine) : (s.setMic x m).net = s.net := rfl
@[simp] theorem State.setMic_dict (s : State) (x : Nat) (m : MicLine) : (s.setMic x m).dict = s.dict := rfl
@[simp] theorem State.setMic_ril (s : State) (x : Nat) (m : MicLine) : (s.setMic x m).ril = s.ril := rfl
@[simp] theorem State.setMic_dma (s : State) (x : Nat) (m : MicLine) : (s.setMic x m).dma = s.dma := rfl
@[simp] theorem State.setMic_sense (s : State) (x : Nat) (m : MicLine) : (s.setMic x m).sense = s.sense := rfl
@[simp] theorem State.setMic_msg (s : State) (x : Nat) (m : MicLine) : (s.setMic x m).msg = s.msg := rfl
@[simp] theorem State.setMic_evt (s : State) (x : Nat) (m : MicLine) : (s.setMic x m).evt = s.evt := rfl
@[simp] theorem State.setMic_modes (s : State) (x : Nat) (m : MicLine) : (s.setMic x m).modes = s.modes := rfl
@[simp] theorem State.setMic_ward (s : State) (x : Nat) (m : MicLine) : (s.setMic x m).ward = s.ward := rfl
@[simp] theorem State.setMic_power (s : State) (x : Nat) (m : MicLine) : (s.setMic x m).power = s.power := rfl
@[simp] theorem State.setMic_free (s : State) (x : Nat) (m : MicLine) : (s.setMic x m).free = s.free := rfl
@[simp] theorem State.setMic_pending (s : State) (x : Nat) (m : MicLine) : (s.setMic x m).pending = s.pending := rfl

/-! ### setMon -/

@[simp] theorem State.setMon_regs (s : State) (m : Nat) (x : Monitor) : (s.setMon m x).regs = s.regs := rfl
@[simp] theorem State.setMon_wbPend (s : State) (m : Nat) (x : Monitor) : (s.setMon m x).wbPend = s.wbPend := rfl
@[simp] theorem State.setMon_sqs (s : State) (m : Nat) (x : Monitor) : (s.setMon m x).sqs = s.sqs := rfl
@[simp] theorem State.setMon_mem (s : State) (m : Nat) (x : Monitor) : (s.setMon m x).mem = s.mem := rfl
@[simp] theorem State.setMon_flash (s : State) (m : Nat) (x : Monitor) : (s.setMon m x).flash = s.flash := rfl
@[simp] theorem State.setMon_ecc (s : State) (m : Nat) (x : Monitor) : (s.setMon m x).ecc = s.ecc := rfl
@[simp] theorem State.setMon_bus (s : State) (m : Nat) (x : Monitor) : (s.setMon m x).bus = s.bus := rfl
@[simp] theorem State.setMon_clk (s : State) (m : Nat) (x : Monitor) : (s.setMon m x).clk = s.clk := rfl
@[simp] theorem State.setMon_mclk (s : State) (m : Nat) (x : Monitor) : (s.setMon m x).mclk = s.mclk := rfl
@[simp] theorem State.setMon_bridges (s : State) (m : Nat) (x : Monitor) : (s.setMon m x).bridges = s.bridges := rfl
@[simp] theorem State.setMon_ctl (s : State) (m : Nat) (x : Monitor) : (s.setMon m x).ctl = s.ctl := rfl
@[simp] theorem State.setMon_eng (s : State) (m : Nat) (x : Monitor) : (s.setMon m x).eng = s.eng := rfl
@[simp] theorem State.setMon_safe (s : State) (m : Nat) (x : Monitor) : (s.setMon m x).safe = s.safe := rfl
@[simp] theorem State.setMon_weld (s : State) (m : Nat) (x : Monitor) : (s.setMon m x).weld = s.weld := rfl
@[simp] theorem State.setMon_qnch (s : State) (m : Nat) (x : Monitor) : (s.setMon m x).qnch = s.qnch := rfl
@[simp] theorem State.setMon_tone (s : State) (m : Nat) (x : Monitor) : (s.setMon m x).tone = s.tone := rfl
@[simp] theorem State.setMon_tdm (s : State) (m : Nat) (x : Monitor) : (s.setMon m x).tdm = s.tdm := rfl
@[simp] theorem State.setMon_net (s : State) (m : Nat) (x : Monitor) : (s.setMon m x).net = s.net := rfl
@[simp] theorem State.setMon_dict (s : State) (m : Nat) (x : Monitor) : (s.setMon m x).dict = s.dict := rfl
@[simp] theorem State.setMon_ril (s : State) (m : Nat) (x : Monitor) : (s.setMon m x).ril = s.ril := rfl
@[simp] theorem State.setMon_dma (s : State) (m : Nat) (x : Monitor) : (s.setMon m x).dma = s.dma := rfl
@[simp] theorem State.setMon_ports (s : State) (m : Nat) (x : Monitor) : (s.setMon m x).ports = s.ports := rfl
@[simp] theorem State.setMon_msg (s : State) (m : Nat) (x : Monitor) : (s.setMon m x).msg = s.msg := rfl
@[simp] theorem State.setMon_evt (s : State) (m : Nat) (x : Monitor) : (s.setMon m x).evt = s.evt := rfl
@[simp] theorem State.setMon_modes (s : State) (m : Nat) (x : Monitor) : (s.setMon m x).modes = s.modes := rfl
@[simp] theorem State.setMon_ward (s : State) (m : Nat) (x : Monitor) : (s.setMon m x).ward = s.ward := rfl
@[simp] theorem State.setMon_power (s : State) (m : Nat) (x : Monitor) : (s.setMon m x).power = s.power := rfl
@[simp] theorem State.setMon_free (s : State) (m : Nat) (x : Monitor) : (s.setMon m x).free = s.free := rfl
@[simp] theorem State.setMon_pending (s : State) (m : Nat) (x : Monitor) : (s.setMon m x).pending = s.pending := rfl

/-! ### setNotice -/

@[simp] theorem State.setNotice_regs (s : State) (x : Nat) (n : Notice) : (s.setNotice x n).regs = s.regs := rfl
@[simp] theorem State.setNotice_wbPend (s : State) (x : Nat) (n : Notice) : (s.setNotice x n).wbPend = s.wbPend := rfl
@[simp] theorem State.setNotice_sqs (s : State) (x : Nat) (n : Notice) : (s.setNotice x n).sqs = s.sqs := rfl
@[simp] theorem State.setNotice_mem (s : State) (x : Nat) (n : Notice) : (s.setNotice x n).mem = s.mem := rfl
@[simp] theorem State.setNotice_flash (s : State) (x : Nat) (n : Notice) : (s.setNotice x n).flash = s.flash := rfl
@[simp] theorem State.setNotice_ecc (s : State) (x : Nat) (n : Notice) : (s.setNotice x n).ecc = s.ecc := rfl
@[simp] theorem State.setNotice_clk (s : State) (x : Nat) (n : Notice) : (s.setNotice x n).clk = s.clk := rfl
@[simp] theorem State.setNotice_mclk (s : State) (x : Nat) (n : Notice) : (s.setNotice x n).mclk = s.mclk := rfl
@[simp] theorem State.setNotice_bridges (s : State) (x : Nat) (n : Notice) : (s.setNotice x n).bridges = s.bridges := rfl
@[simp] theorem State.setNotice_ctl (s : State) (x : Nat) (n : Notice) : (s.setNotice x n).ctl = s.ctl := rfl
@[simp] theorem State.setNotice_eng (s : State) (x : Nat) (n : Notice) : (s.setNotice x n).eng = s.eng := rfl
@[simp] theorem State.setNotice_safe (s : State) (x : Nat) (n : Notice) : (s.setNotice x n).safe = s.safe := rfl
@[simp] theorem State.setNotice_weld (s : State) (x : Nat) (n : Notice) : (s.setNotice x n).weld = s.weld := rfl
@[simp] theorem State.setNotice_qnch (s : State) (x : Nat) (n : Notice) : (s.setNotice x n).qnch = s.qnch := rfl
@[simp] theorem State.setNotice_tone (s : State) (x : Nat) (n : Notice) : (s.setNotice x n).tone = s.tone := rfl
@[simp] theorem State.setNotice_tdm (s : State) (x : Nat) (n : Notice) : (s.setNotice x n).tdm = s.tdm := rfl
@[simp] theorem State.setNotice_net (s : State) (x : Nat) (n : Notice) : (s.setNotice x n).net = s.net := rfl
@[simp] theorem State.setNotice_dict (s : State) (x : Nat) (n : Notice) : (s.setNotice x n).dict = s.dict := rfl
@[simp] theorem State.setNotice_ril (s : State) (x : Nat) (n : Notice) : (s.setNotice x n).ril = s.ril := rfl
@[simp] theorem State.setNotice_dma (s : State) (x : Nat) (n : Notice) : (s.setNotice x n).dma = s.dma := rfl
@[simp] theorem State.setNotice_sense (s : State) (x : Nat) (n : Notice) : (s.setNotice x n).sense = s.sense := rfl
@[simp] theorem State.setNotice_ports (s : State) (x : Nat) (n : Notice) : (s.setNotice x n).ports = s.ports := rfl
@[simp] theorem State.setNotice_msg (s : State) (x : Nat) (n : Notice) : (s.setNotice x n).msg = s.msg := rfl
@[simp] theorem State.setNotice_evt (s : State) (x : Nat) (n : Notice) : (s.setNotice x n).evt = s.evt := rfl
@[simp] theorem State.setNotice_modes (s : State) (x : Nat) (n : Notice) : (s.setNotice x n).modes = s.modes := rfl
@[simp] theorem State.setNotice_ward (s : State) (x : Nat) (n : Notice) : (s.setNotice x n).ward = s.ward := rfl
@[simp] theorem State.setNotice_power (s : State) (x : Nat) (n : Notice) : (s.setNotice x n).power = s.power := rfl
@[simp] theorem State.setNotice_free (s : State) (x : Nat) (n : Notice) : (s.setNotice x n).free = s.free := rfl
@[simp] theorem State.setNotice_pending (s : State) (x : Nat) (n : Notice) : (s.setNotice x n).pending = s.pending := rfl

/-! ### setPlayer -/

@[simp] theorem State.setPlayer_regs (s : State) (p : Nat) (x : Player) : (s.setPlayer p x).regs = s.regs := rfl
@[simp] theorem State.setPlayer_wbPend (s : State) (p : Nat) (x : Player) : (s.setPlayer p x).wbPend = s.wbPend := rfl
@[simp] theorem State.setPlayer_sqs (s : State) (p : Nat) (x : Player) : (s.setPlayer p x).sqs = s.sqs := rfl
@[simp] theorem State.setPlayer_mem (s : State) (p : Nat) (x : Player) : (s.setPlayer p x).mem = s.mem := rfl
@[simp] theorem State.setPlayer_flash (s : State) (p : Nat) (x : Player) : (s.setPlayer p x).flash = s.flash := rfl
@[simp] theorem State.setPlayer_ecc (s : State) (p : Nat) (x : Player) : (s.setPlayer p x).ecc = s.ecc := rfl
@[simp] theorem State.setPlayer_bus (s : State) (p : Nat) (x : Player) : (s.setPlayer p x).bus = s.bus := rfl
@[simp] theorem State.setPlayer_clk (s : State) (p : Nat) (x : Player) : (s.setPlayer p x).clk = s.clk := rfl
@[simp] theorem State.setPlayer_mclk (s : State) (p : Nat) (x : Player) : (s.setPlayer p x).mclk = s.mclk := rfl
@[simp] theorem State.setPlayer_bridges (s : State) (p : Nat) (x : Player) : (s.setPlayer p x).bridges = s.bridges := rfl
@[simp] theorem State.setPlayer_ctl (s : State) (p : Nat) (x : Player) : (s.setPlayer p x).ctl = s.ctl := rfl
@[simp] theorem State.setPlayer_eng (s : State) (p : Nat) (x : Player) : (s.setPlayer p x).eng = s.eng := rfl
@[simp] theorem State.setPlayer_safe (s : State) (p : Nat) (x : Player) : (s.setPlayer p x).safe = s.safe := rfl
@[simp] theorem State.setPlayer_weld (s : State) (p : Nat) (x : Player) : (s.setPlayer p x).weld = s.weld := rfl
@[simp] theorem State.setPlayer_qnch (s : State) (p : Nat) (x : Player) : (s.setPlayer p x).qnch = s.qnch := rfl
@[simp] theorem State.setPlayer_tone (s : State) (p : Nat) (x : Player) : (s.setPlayer p x).tone = s.tone := rfl
@[simp] theorem State.setPlayer_tdm (s : State) (p : Nat) (x : Player) : (s.setPlayer p x).tdm = s.tdm := rfl
@[simp] theorem State.setPlayer_net (s : State) (p : Nat) (x : Player) : (s.setPlayer p x).net = s.net := rfl
@[simp] theorem State.setPlayer_dict (s : State) (p : Nat) (x : Player) : (s.setPlayer p x).dict = s.dict := rfl
@[simp] theorem State.setPlayer_ril (s : State) (p : Nat) (x : Player) : (s.setPlayer p x).ril = s.ril := rfl
@[simp] theorem State.setPlayer_dma (s : State) (p : Nat) (x : Player) : (s.setPlayer p x).dma = s.dma := rfl
@[simp] theorem State.setPlayer_sense (s : State) (p : Nat) (x : Player) : (s.setPlayer p x).sense = s.sense := rfl
@[simp] theorem State.setPlayer_ports (s : State) (p : Nat) (x : Player) : (s.setPlayer p x).ports = s.ports := rfl
@[simp] theorem State.setPlayer_evt (s : State) (p : Nat) (x : Player) : (s.setPlayer p x).evt = s.evt := rfl
@[simp] theorem State.setPlayer_modes (s : State) (p : Nat) (x : Player) : (s.setPlayer p x).modes = s.modes := rfl
@[simp] theorem State.setPlayer_ward (s : State) (p : Nat) (x : Player) : (s.setPlayer p x).ward = s.ward := rfl
@[simp] theorem State.setPlayer_power (s : State) (p : Nat) (x : Player) : (s.setPlayer p x).power = s.power := rfl
@[simp] theorem State.setPlayer_free (s : State) (p : Nat) (x : Player) : (s.setPlayer p x).free = s.free := rfl
@[simp] theorem State.setPlayer_pending (s : State) (p : Nat) (x : Player) : (s.setPlayer p x).pending = s.pending := rfl

/-! ### setRxs -/

@[simp] theorem State.setRxs_regs (s : State) (r : Nat) (x : RxStream) : (s.setRxs r x).regs = s.regs := rfl
@[simp] theorem State.setRxs_wbPend (s : State) (r : Nat) (x : RxStream) : (s.setRxs r x).wbPend = s.wbPend := rfl
@[simp] theorem State.setRxs_sqs (s : State) (r : Nat) (x : RxStream) : (s.setRxs r x).sqs = s.sqs := rfl
@[simp] theorem State.setRxs_mem (s : State) (r : Nat) (x : RxStream) : (s.setRxs r x).mem = s.mem := rfl
@[simp] theorem State.setRxs_flash (s : State) (r : Nat) (x : RxStream) : (s.setRxs r x).flash = s.flash := rfl
@[simp] theorem State.setRxs_ecc (s : State) (r : Nat) (x : RxStream) : (s.setRxs r x).ecc = s.ecc := rfl
@[simp] theorem State.setRxs_bus (s : State) (r : Nat) (x : RxStream) : (s.setRxs r x).bus = s.bus := rfl
@[simp] theorem State.setRxs_clk (s : State) (r : Nat) (x : RxStream) : (s.setRxs r x).clk = s.clk := rfl
@[simp] theorem State.setRxs_mclk (s : State) (r : Nat) (x : RxStream) : (s.setRxs r x).mclk = s.mclk := rfl
@[simp] theorem State.setRxs_bridges (s : State) (r : Nat) (x : RxStream) : (s.setRxs r x).bridges = s.bridges := rfl
@[simp] theorem State.setRxs_ctl (s : State) (r : Nat) (x : RxStream) : (s.setRxs r x).ctl = s.ctl := rfl
@[simp] theorem State.setRxs_eng (s : State) (r : Nat) (x : RxStream) : (s.setRxs r x).eng = s.eng := rfl
@[simp] theorem State.setRxs_safe (s : State) (r : Nat) (x : RxStream) : (s.setRxs r x).safe = s.safe := rfl
@[simp] theorem State.setRxs_weld (s : State) (r : Nat) (x : RxStream) : (s.setRxs r x).weld = s.weld := rfl
@[simp] theorem State.setRxs_qnch (s : State) (r : Nat) (x : RxStream) : (s.setRxs r x).qnch = s.qnch := rfl
@[simp] theorem State.setRxs_tone (s : State) (r : Nat) (x : RxStream) : (s.setRxs r x).tone = s.tone := rfl
@[simp] theorem State.setRxs_tdm (s : State) (r : Nat) (x : RxStream) : (s.setRxs r x).tdm = s.tdm := rfl
@[simp] theorem State.setRxs_dict (s : State) (r : Nat) (x : RxStream) : (s.setRxs r x).dict = s.dict := rfl
@[simp] theorem State.setRxs_ril (s : State) (r : Nat) (x : RxStream) : (s.setRxs r x).ril = s.ril := rfl
@[simp] theorem State.setRxs_dma (s : State) (r : Nat) (x : RxStream) : (s.setRxs r x).dma = s.dma := rfl
@[simp] theorem State.setRxs_sense (s : State) (r : Nat) (x : RxStream) : (s.setRxs r x).sense = s.sense := rfl
@[simp] theorem State.setRxs_ports (s : State) (r : Nat) (x : RxStream) : (s.setRxs r x).ports = s.ports := rfl
@[simp] theorem State.setRxs_msg (s : State) (r : Nat) (x : RxStream) : (s.setRxs r x).msg = s.msg := rfl
@[simp] theorem State.setRxs_evt (s : State) (r : Nat) (x : RxStream) : (s.setRxs r x).evt = s.evt := rfl
@[simp] theorem State.setRxs_modes (s : State) (r : Nat) (x : RxStream) : (s.setRxs r x).modes = s.modes := rfl
@[simp] theorem State.setRxs_ward (s : State) (r : Nat) (x : RxStream) : (s.setRxs r x).ward = s.ward := rfl
@[simp] theorem State.setRxs_power (s : State) (r : Nat) (x : RxStream) : (s.setRxs r x).power = s.power := rfl
@[simp] theorem State.setRxs_free (s : State) (r : Nat) (x : RxStream) : (s.setRxs r x).free = s.free := rfl
@[simp] theorem State.setRxs_pending (s : State) (r : Nat) (x : RxStream) : (s.setRxs r x).pending = s.pending := rfl

/-! ### setSc -/

@[simp] theorem State.setSc_regs (s : State) (n : Nat) (c : SampleCore) : (s.setSc n c).regs = s.regs := rfl
@[simp] theorem State.setSc_wbPend (s : State) (n : Nat) (c : SampleCore) : (s.setSc n c).wbPend = s.wbPend := rfl
@[simp] theorem State.setSc_sqs (s : State) (n : Nat) (c : SampleCore) : (s.setSc n c).sqs = s.sqs := rfl
@[simp] theorem State.setSc_mem (s : State) (n : Nat) (c : SampleCore) : (s.setSc n c).mem = s.mem := rfl
@[simp] theorem State.setSc_flash (s : State) (n : Nat) (c : SampleCore) : (s.setSc n c).flash = s.flash := rfl
@[simp] theorem State.setSc_ecc (s : State) (n : Nat) (c : SampleCore) : (s.setSc n c).ecc = s.ecc := rfl
@[simp] theorem State.setSc_bus (s : State) (n : Nat) (c : SampleCore) : (s.setSc n c).bus = s.bus := rfl
@[simp] theorem State.setSc_clk (s : State) (n : Nat) (c : SampleCore) : (s.setSc n c).clk = s.clk := rfl
@[simp] theorem State.setSc_mclk (s : State) (n : Nat) (c : SampleCore) : (s.setSc n c).mclk = s.mclk := rfl
@[simp] theorem State.setSc_bridges (s : State) (n : Nat) (c : SampleCore) : (s.setSc n c).bridges = s.bridges := rfl
@[simp] theorem State.setSc_ctl (s : State) (n : Nat) (c : SampleCore) : (s.setSc n c).ctl = s.ctl := rfl
@[simp] theorem State.setSc_safe (s : State) (n : Nat) (c : SampleCore) : (s.setSc n c).safe = s.safe := rfl
@[simp] theorem State.setSc_weld (s : State) (n : Nat) (c : SampleCore) : (s.setSc n c).weld = s.weld := rfl
@[simp] theorem State.setSc_qnch (s : State) (n : Nat) (c : SampleCore) : (s.setSc n c).qnch = s.qnch := rfl
@[simp] theorem State.setSc_tone (s : State) (n : Nat) (c : SampleCore) : (s.setSc n c).tone = s.tone := rfl
@[simp] theorem State.setSc_tdm (s : State) (n : Nat) (c : SampleCore) : (s.setSc n c).tdm = s.tdm := rfl
@[simp] theorem State.setSc_net (s : State) (n : Nat) (c : SampleCore) : (s.setSc n c).net = s.net := rfl
@[simp] theorem State.setSc_dict (s : State) (n : Nat) (c : SampleCore) : (s.setSc n c).dict = s.dict := rfl
@[simp] theorem State.setSc_ril (s : State) (n : Nat) (c : SampleCore) : (s.setSc n c).ril = s.ril := rfl
@[simp] theorem State.setSc_dma (s : State) (n : Nat) (c : SampleCore) : (s.setSc n c).dma = s.dma := rfl
@[simp] theorem State.setSc_sense (s : State) (n : Nat) (c : SampleCore) : (s.setSc n c).sense = s.sense := rfl
@[simp] theorem State.setSc_ports (s : State) (n : Nat) (c : SampleCore) : (s.setSc n c).ports = s.ports := rfl
@[simp] theorem State.setSc_msg (s : State) (n : Nat) (c : SampleCore) : (s.setSc n c).msg = s.msg := rfl
@[simp] theorem State.setSc_evt (s : State) (n : Nat) (c : SampleCore) : (s.setSc n c).evt = s.evt := rfl
@[simp] theorem State.setSc_modes (s : State) (n : Nat) (c : SampleCore) : (s.setSc n c).modes = s.modes := rfl
@[simp] theorem State.setSc_ward (s : State) (n : Nat) (c : SampleCore) : (s.setSc n c).ward = s.ward := rfl
@[simp] theorem State.setSc_power (s : State) (n : Nat) (c : SampleCore) : (s.setSc n c).power = s.power := rfl
@[simp] theorem State.setSc_free (s : State) (n : Nat) (c : SampleCore) : (s.setSc n c).free = s.free := rfl
@[simp] theorem State.setSc_pending (s : State) (n : Nat) (c : SampleCore) : (s.setSc n c).pending = s.pending := rfl

/-! ### setSpw -/

@[simp] theorem State.setSpw_regs (s : State) (c : Nat) (x : Speedwell) : (s.setSpw c x).regs = s.regs := rfl
@[simp] theorem State.setSpw_wbPend (s : State) (c : Nat) (x : Speedwell) : (s.setSpw c x).wbPend = s.wbPend := rfl
@[simp] theorem State.setSpw_sqs (s : State) (c : Nat) (x : Speedwell) : (s.setSpw c x).sqs = s.sqs := rfl
@[simp] theorem State.setSpw_mem (s : State) (c : Nat) (x : Speedwell) : (s.setSpw c x).mem = s.mem := rfl
@[simp] theorem State.setSpw_flash (s : State) (c : Nat) (x : Speedwell) : (s.setSpw c x).flash = s.flash := rfl
@[simp] theorem State.setSpw_ecc (s : State) (c : Nat) (x : Speedwell) : (s.setSpw c x).ecc = s.ecc := rfl
@[simp] theorem State.setSpw_bus (s : State) (c : Nat) (x : Speedwell) : (s.setSpw c x).bus = s.bus := rfl
@[simp] theorem State.setSpw_clk (s : State) (c : Nat) (x : Speedwell) : (s.setSpw c x).clk = s.clk := rfl
@[simp] theorem State.setSpw_mclk (s : State) (c : Nat) (x : Speedwell) : (s.setSpw c x).mclk = s.mclk := rfl
@[simp] theorem State.setSpw_bridges (s : State) (c : Nat) (x : Speedwell) : (s.setSpw c x).bridges = s.bridges := rfl
@[simp] theorem State.setSpw_ctl (s : State) (c : Nat) (x : Speedwell) : (s.setSpw c x).ctl = s.ctl := rfl
@[simp] theorem State.setSpw_eng (s : State) (c : Nat) (x : Speedwell) : (s.setSpw c x).eng = s.eng := rfl
@[simp] theorem State.setSpw_safe (s : State) (c : Nat) (x : Speedwell) : (s.setSpw c x).safe = s.safe := rfl
@[simp] theorem State.setSpw_weld (s : State) (c : Nat) (x : Speedwell) : (s.setSpw c x).weld = s.weld := rfl
@[simp] theorem State.setSpw_tone (s : State) (c : Nat) (x : Speedwell) : (s.setSpw c x).tone = s.tone := rfl
@[simp] theorem State.setSpw_tdm (s : State) (c : Nat) (x : Speedwell) : (s.setSpw c x).tdm = s.tdm := rfl
@[simp] theorem State.setSpw_net (s : State) (c : Nat) (x : Speedwell) : (s.setSpw c x).net = s.net := rfl
@[simp] theorem State.setSpw_dict (s : State) (c : Nat) (x : Speedwell) : (s.setSpw c x).dict = s.dict := rfl
@[simp] theorem State.setSpw_ril (s : State) (c : Nat) (x : Speedwell) : (s.setSpw c x).ril = s.ril := rfl
@[simp] theorem State.setSpw_dma (s : State) (c : Nat) (x : Speedwell) : (s.setSpw c x).dma = s.dma := rfl
@[simp] theorem State.setSpw_sense (s : State) (c : Nat) (x : Speedwell) : (s.setSpw c x).sense = s.sense := rfl
@[simp] theorem State.setSpw_ports (s : State) (c : Nat) (x : Speedwell) : (s.setSpw c x).ports = s.ports := rfl
@[simp] theorem State.setSpw_msg (s : State) (c : Nat) (x : Speedwell) : (s.setSpw c x).msg = s.msg := rfl
@[simp] theorem State.setSpw_evt (s : State) (c : Nat) (x : Speedwell) : (s.setSpw c x).evt = s.evt := rfl
@[simp] theorem State.setSpw_modes (s : State) (c : Nat) (x : Speedwell) : (s.setSpw c x).modes = s.modes := rfl
@[simp] theorem State.setSpw_ward (s : State) (c : Nat) (x : Speedwell) : (s.setSpw c x).ward = s.ward := rfl
@[simp] theorem State.setSpw_power (s : State) (c : Nat) (x : Speedwell) : (s.setSpw c x).power = s.power := rfl
@[simp] theorem State.setSpw_free (s : State) (c : Nat) (x : Speedwell) : (s.setSpw c x).free = s.free := rfl
@[simp] theorem State.setSpw_pending (s : State) (c : Nat) (x : Speedwell) : (s.setSpw c x).pending = s.pending := rfl

/-! ### setSq -/

@[simp] theorem State.setSq_regs (s : State) (a : Nat) (q : SqReg) : (s.setSq a q).regs = s.regs := rfl
@[simp] theorem State.setSq_wbPend (s : State) (a : Nat) (q : SqReg) : (s.setSq a q).wbPend = s.wbPend := rfl
@[simp] theorem State.setSq_mem (s : State) (a : Nat) (q : SqReg) : (s.setSq a q).mem = s.mem := rfl
@[simp] theorem State.setSq_flash (s : State) (a : Nat) (q : SqReg) : (s.setSq a q).flash = s.flash := rfl
@[simp] theorem State.setSq_ecc (s : State) (a : Nat) (q : SqReg) : (s.setSq a q).ecc = s.ecc := rfl
@[simp] theorem State.setSq_bus (s : State) (a : Nat) (q : SqReg) : (s.setSq a q).bus = s.bus := rfl
@[simp] theorem State.setSq_clk (s : State) (a : Nat) (q : SqReg) : (s.setSq a q).clk = s.clk := rfl
@[simp] theorem State.setSq_mclk (s : State) (a : Nat) (q : SqReg) : (s.setSq a q).mclk = s.mclk := rfl
@[simp] theorem State.setSq_bridges (s : State) (a : Nat) (q : SqReg) : (s.setSq a q).bridges = s.bridges := rfl
@[simp] theorem State.setSq_ctl (s : State) (a : Nat) (q : SqReg) : (s.setSq a q).ctl = s.ctl := rfl
@[simp] theorem State.setSq_eng (s : State) (a : Nat) (q : SqReg) : (s.setSq a q).eng = s.eng := rfl
@[simp] theorem State.setSq_safe (s : State) (a : Nat) (q : SqReg) : (s.setSq a q).safe = s.safe := rfl
@[simp] theorem State.setSq_weld (s : State) (a : Nat) (q : SqReg) : (s.setSq a q).weld = s.weld := rfl
@[simp] theorem State.setSq_qnch (s : State) (a : Nat) (q : SqReg) : (s.setSq a q).qnch = s.qnch := rfl
@[simp] theorem State.setSq_tone (s : State) (a : Nat) (q : SqReg) : (s.setSq a q).tone = s.tone := rfl
@[simp] theorem State.setSq_tdm (s : State) (a : Nat) (q : SqReg) : (s.setSq a q).tdm = s.tdm := rfl
@[simp] theorem State.setSq_net (s : State) (a : Nat) (q : SqReg) : (s.setSq a q).net = s.net := rfl
@[simp] theorem State.setSq_dict (s : State) (a : Nat) (q : SqReg) : (s.setSq a q).dict = s.dict := rfl
@[simp] theorem State.setSq_ril (s : State) (a : Nat) (q : SqReg) : (s.setSq a q).ril = s.ril := rfl
@[simp] theorem State.setSq_dma (s : State) (a : Nat) (q : SqReg) : (s.setSq a q).dma = s.dma := rfl
@[simp] theorem State.setSq_sense (s : State) (a : Nat) (q : SqReg) : (s.setSq a q).sense = s.sense := rfl
@[simp] theorem State.setSq_ports (s : State) (a : Nat) (q : SqReg) : (s.setSq a q).ports = s.ports := rfl
@[simp] theorem State.setSq_msg (s : State) (a : Nat) (q : SqReg) : (s.setSq a q).msg = s.msg := rfl
@[simp] theorem State.setSq_evt (s : State) (a : Nat) (q : SqReg) : (s.setSq a q).evt = s.evt := rfl
@[simp] theorem State.setSq_modes (s : State) (a : Nat) (q : SqReg) : (s.setSq a q).modes = s.modes := rfl
@[simp] theorem State.setSq_ward (s : State) (a : Nat) (q : SqReg) : (s.setSq a q).ward = s.ward := rfl
@[simp] theorem State.setSq_power (s : State) (a : Nat) (q : SqReg) : (s.setSq a q).power = s.power := rfl
@[simp] theorem State.setSq_free (s : State) (a : Nat) (q : SqReg) : (s.setSq a q).free = s.free := rfl
@[simp] theorem State.setSq_pending (s : State) (a : Nat) (q : SqReg) : (s.setSq a q).pending = s.pending := rfl

/-! ### setTenant -/

@[simp] theorem State.setTenant_regs (s : State) (t : Nat) (x : Tenant) : (s.setTenant t x).regs = s.regs := rfl
@[simp] theorem State.setTenant_wbPend (s : State) (t : Nat) (x : Tenant) : (s.setTenant t x).wbPend = s.wbPend := rfl
@[simp] theorem State.setTenant_sqs (s : State) (t : Nat) (x : Tenant) : (s.setTenant t x).sqs = s.sqs := rfl
@[simp] theorem State.setTenant_mem (s : State) (t : Nat) (x : Tenant) : (s.setTenant t x).mem = s.mem := rfl
@[simp] theorem State.setTenant_flash (s : State) (t : Nat) (x : Tenant) : (s.setTenant t x).flash = s.flash := rfl
@[simp] theorem State.setTenant_ecc (s : State) (t : Nat) (x : Tenant) : (s.setTenant t x).ecc = s.ecc := rfl
@[simp] theorem State.setTenant_bus (s : State) (t : Nat) (x : Tenant) : (s.setTenant t x).bus = s.bus := rfl
@[simp] theorem State.setTenant_clk (s : State) (t : Nat) (x : Tenant) : (s.setTenant t x).clk = s.clk := rfl
@[simp] theorem State.setTenant_mclk (s : State) (t : Nat) (x : Tenant) : (s.setTenant t x).mclk = s.mclk := rfl
@[simp] theorem State.setTenant_bridges (s : State) (t : Nat) (x : Tenant) : (s.setTenant t x).bridges = s.bridges := rfl
@[simp] theorem State.setTenant_ctl (s : State) (t : Nat) (x : Tenant) : (s.setTenant t x).ctl = s.ctl := rfl
@[simp] theorem State.setTenant_eng (s : State) (t : Nat) (x : Tenant) : (s.setTenant t x).eng = s.eng := rfl
@[simp] theorem State.setTenant_safe (s : State) (t : Nat) (x : Tenant) : (s.setTenant t x).safe = s.safe := rfl
@[simp] theorem State.setTenant_weld (s : State) (t : Nat) (x : Tenant) : (s.setTenant t x).weld = s.weld := rfl
@[simp] theorem State.setTenant_qnch (s : State) (t : Nat) (x : Tenant) : (s.setTenant t x).qnch = s.qnch := rfl
@[simp] theorem State.setTenant_tone (s : State) (t : Nat) (x : Tenant) : (s.setTenant t x).tone = s.tone := rfl
@[simp] theorem State.setTenant_tdm (s : State) (t : Nat) (x : Tenant) : (s.setTenant t x).tdm = s.tdm := rfl
@[simp] theorem State.setTenant_net (s : State) (t : Nat) (x : Tenant) : (s.setTenant t x).net = s.net := rfl
@[simp] theorem State.setTenant_ril (s : State) (t : Nat) (x : Tenant) : (s.setTenant t x).ril = s.ril := rfl
@[simp] theorem State.setTenant_dma (s : State) (t : Nat) (x : Tenant) : (s.setTenant t x).dma = s.dma := rfl
@[simp] theorem State.setTenant_sense (s : State) (t : Nat) (x : Tenant) : (s.setTenant t x).sense = s.sense := rfl
@[simp] theorem State.setTenant_ports (s : State) (t : Nat) (x : Tenant) : (s.setTenant t x).ports = s.ports := rfl
@[simp] theorem State.setTenant_msg (s : State) (t : Nat) (x : Tenant) : (s.setTenant t x).msg = s.msg := rfl
@[simp] theorem State.setTenant_evt (s : State) (t : Nat) (x : Tenant) : (s.setTenant t x).evt = s.evt := rfl
@[simp] theorem State.setTenant_modes (s : State) (t : Nat) (x : Tenant) : (s.setTenant t x).modes = s.modes := rfl
@[simp] theorem State.setTenant_ward (s : State) (t : Nat) (x : Tenant) : (s.setTenant t x).ward = s.ward := rfl
@[simp] theorem State.setTenant_power (s : State) (t : Nat) (x : Tenant) : (s.setTenant t x).power = s.power := rfl
@[simp] theorem State.setTenant_free (s : State) (t : Nat) (x : Tenant) : (s.setTenant t x).free = s.free := rfl
@[simp] theorem State.setTenant_pending (s : State) (t : Nat) (x : Tenant) : (s.setTenant t x).pending = s.pending := rfl

/-! ### setTport -/

@[simp] theorem State.setTport_regs (s : State) (p : Nat) (x : TdmPort) : (s.setTport p x).regs = s.regs := rfl
@[simp] theorem State.setTport_wbPend (s : State) (p : Nat) (x : TdmPort) : (s.setTport p x).wbPend = s.wbPend := rfl
@[simp] theorem State.setTport_sqs (s : State) (p : Nat) (x : TdmPort) : (s.setTport p x).sqs = s.sqs := rfl
@[simp] theorem State.setTport_mem (s : State) (p : Nat) (x : TdmPort) : (s.setTport p x).mem = s.mem := rfl
@[simp] theorem State.setTport_flash (s : State) (p : Nat) (x : TdmPort) : (s.setTport p x).flash = s.flash := rfl
@[simp] theorem State.setTport_ecc (s : State) (p : Nat) (x : TdmPort) : (s.setTport p x).ecc = s.ecc := rfl
@[simp] theorem State.setTport_bus (s : State) (p : Nat) (x : TdmPort) : (s.setTport p x).bus = s.bus := rfl
@[simp] theorem State.setTport_clk (s : State) (p : Nat) (x : TdmPort) : (s.setTport p x).clk = s.clk := rfl
@[simp] theorem State.setTport_mclk (s : State) (p : Nat) (x : TdmPort) : (s.setTport p x).mclk = s.mclk := rfl
@[simp] theorem State.setTport_bridges (s : State) (p : Nat) (x : TdmPort) : (s.setTport p x).bridges = s.bridges := rfl
@[simp] theorem State.setTport_ctl (s : State) (p : Nat) (x : TdmPort) : (s.setTport p x).ctl = s.ctl := rfl
@[simp] theorem State.setTport_eng (s : State) (p : Nat) (x : TdmPort) : (s.setTport p x).eng = s.eng := rfl
@[simp] theorem State.setTport_safe (s : State) (p : Nat) (x : TdmPort) : (s.setTport p x).safe = s.safe := rfl
@[simp] theorem State.setTport_weld (s : State) (p : Nat) (x : TdmPort) : (s.setTport p x).weld = s.weld := rfl
@[simp] theorem State.setTport_qnch (s : State) (p : Nat) (x : TdmPort) : (s.setTport p x).qnch = s.qnch := rfl
@[simp] theorem State.setTport_tone (s : State) (p : Nat) (x : TdmPort) : (s.setTport p x).tone = s.tone := rfl
@[simp] theorem State.setTport_net (s : State) (p : Nat) (x : TdmPort) : (s.setTport p x).net = s.net := rfl
@[simp] theorem State.setTport_dict (s : State) (p : Nat) (x : TdmPort) : (s.setTport p x).dict = s.dict := rfl
@[simp] theorem State.setTport_ril (s : State) (p : Nat) (x : TdmPort) : (s.setTport p x).ril = s.ril := rfl
@[simp] theorem State.setTport_dma (s : State) (p : Nat) (x : TdmPort) : (s.setTport p x).dma = s.dma := rfl
@[simp] theorem State.setTport_sense (s : State) (p : Nat) (x : TdmPort) : (s.setTport p x).sense = s.sense := rfl
@[simp] theorem State.setTport_ports (s : State) (p : Nat) (x : TdmPort) : (s.setTport p x).ports = s.ports := rfl
@[simp] theorem State.setTport_msg (s : State) (p : Nat) (x : TdmPort) : (s.setTport p x).msg = s.msg := rfl
@[simp] theorem State.setTport_evt (s : State) (p : Nat) (x : TdmPort) : (s.setTport p x).evt = s.evt := rfl
@[simp] theorem State.setTport_modes (s : State) (p : Nat) (x : TdmPort) : (s.setTport p x).modes = s.modes := rfl
@[simp] theorem State.setTport_ward (s : State) (p : Nat) (x : TdmPort) : (s.setTport p x).ward = s.ward := rfl
@[simp] theorem State.setTport_power (s : State) (p : Nat) (x : TdmPort) : (s.setTport p x).power = s.power := rfl
@[simp] theorem State.setTport_free (s : State) (p : Nat) (x : TdmPort) : (s.setTport p x).free = s.free := rfl
@[simp] theorem State.setTport_pending (s : State) (p : Nat) (x : TdmPort) : (s.setTport p x).pending = s.pending := rfl

/-! ### setTxs -/

@[simp] theorem State.setTxs_regs (s : State) (t : Nat) (x : TxStream) : (s.setTxs t x).regs = s.regs := rfl
@[simp] theorem State.setTxs_wbPend (s : State) (t : Nat) (x : TxStream) : (s.setTxs t x).wbPend = s.wbPend := rfl
@[simp] theorem State.setTxs_sqs (s : State) (t : Nat) (x : TxStream) : (s.setTxs t x).sqs = s.sqs := rfl
@[simp] theorem State.setTxs_mem (s : State) (t : Nat) (x : TxStream) : (s.setTxs t x).mem = s.mem := rfl
@[simp] theorem State.setTxs_flash (s : State) (t : Nat) (x : TxStream) : (s.setTxs t x).flash = s.flash := rfl
@[simp] theorem State.setTxs_ecc (s : State) (t : Nat) (x : TxStream) : (s.setTxs t x).ecc = s.ecc := rfl
@[simp] theorem State.setTxs_bus (s : State) (t : Nat) (x : TxStream) : (s.setTxs t x).bus = s.bus := rfl
@[simp] theorem State.setTxs_clk (s : State) (t : Nat) (x : TxStream) : (s.setTxs t x).clk = s.clk := rfl
@[simp] theorem State.setTxs_mclk (s : State) (t : Nat) (x : TxStream) : (s.setTxs t x).mclk = s.mclk := rfl
@[simp] theorem State.setTxs_bridges (s : State) (t : Nat) (x : TxStream) : (s.setTxs t x).bridges = s.bridges := rfl
@[simp] theorem State.setTxs_ctl (s : State) (t : Nat) (x : TxStream) : (s.setTxs t x).ctl = s.ctl := rfl
@[simp] theorem State.setTxs_eng (s : State) (t : Nat) (x : TxStream) : (s.setTxs t x).eng = s.eng := rfl
@[simp] theorem State.setTxs_safe (s : State) (t : Nat) (x : TxStream) : (s.setTxs t x).safe = s.safe := rfl
@[simp] theorem State.setTxs_weld (s : State) (t : Nat) (x : TxStream) : (s.setTxs t x).weld = s.weld := rfl
@[simp] theorem State.setTxs_qnch (s : State) (t : Nat) (x : TxStream) : (s.setTxs t x).qnch = s.qnch := rfl
@[simp] theorem State.setTxs_tone (s : State) (t : Nat) (x : TxStream) : (s.setTxs t x).tone = s.tone := rfl
@[simp] theorem State.setTxs_tdm (s : State) (t : Nat) (x : TxStream) : (s.setTxs t x).tdm = s.tdm := rfl
@[simp] theorem State.setTxs_dict (s : State) (t : Nat) (x : TxStream) : (s.setTxs t x).dict = s.dict := rfl
@[simp] theorem State.setTxs_ril (s : State) (t : Nat) (x : TxStream) : (s.setTxs t x).ril = s.ril := rfl
@[simp] theorem State.setTxs_dma (s : State) (t : Nat) (x : TxStream) : (s.setTxs t x).dma = s.dma := rfl
@[simp] theorem State.setTxs_sense (s : State) (t : Nat) (x : TxStream) : (s.setTxs t x).sense = s.sense := rfl
@[simp] theorem State.setTxs_ports (s : State) (t : Nat) (x : TxStream) : (s.setTxs t x).ports = s.ports := rfl
@[simp] theorem State.setTxs_msg (s : State) (t : Nat) (x : TxStream) : (s.setTxs t x).msg = s.msg := rfl
@[simp] theorem State.setTxs_evt (s : State) (t : Nat) (x : TxStream) : (s.setTxs t x).evt = s.evt := rfl
@[simp] theorem State.setTxs_modes (s : State) (t : Nat) (x : TxStream) : (s.setTxs t x).modes = s.modes := rfl
@[simp] theorem State.setTxs_ward (s : State) (t : Nat) (x : TxStream) : (s.setTxs t x).ward = s.ward := rfl
@[simp] theorem State.setTxs_power (s : State) (t : Nat) (x : TxStream) : (s.setTxs t x).power = s.power := rfl
@[simp] theorem State.setTxs_free (s : State) (t : Nat) (x : TxStream) : (s.setTxs t x).free = s.free := rfl
@[simp] theorem State.setTxs_pending (s : State) (t : Nat) (x : TxStream) : (s.setTxs t x).pending = s.pending := rfl

/-! ### setUart -/

@[simp] theorem State.setUart_regs (s : State) (k : Nat) (u : Uart) : (s.setUart k u).regs = s.regs := rfl
@[simp] theorem State.setUart_wbPend (s : State) (k : Nat) (u : Uart) : (s.setUart k u).wbPend = s.wbPend := rfl
@[simp] theorem State.setUart_sqs (s : State) (k : Nat) (u : Uart) : (s.setUart k u).sqs = s.sqs := rfl
@[simp] theorem State.setUart_mem (s : State) (k : Nat) (u : Uart) : (s.setUart k u).mem = s.mem := rfl
@[simp] theorem State.setUart_flash (s : State) (k : Nat) (u : Uart) : (s.setUart k u).flash = s.flash := rfl
@[simp] theorem State.setUart_ecc (s : State) (k : Nat) (u : Uart) : (s.setUart k u).ecc = s.ecc := rfl
@[simp] theorem State.setUart_bus (s : State) (k : Nat) (u : Uart) : (s.setUart k u).bus = s.bus := rfl
@[simp] theorem State.setUart_clk (s : State) (k : Nat) (u : Uart) : (s.setUart k u).clk = s.clk := rfl
@[simp] theorem State.setUart_mclk (s : State) (k : Nat) (u : Uart) : (s.setUart k u).mclk = s.mclk := rfl
@[simp] theorem State.setUart_bridges (s : State) (k : Nat) (u : Uart) : (s.setUart k u).bridges = s.bridges := rfl
@[simp] theorem State.setUart_ctl (s : State) (k : Nat) (u : Uart) : (s.setUart k u).ctl = s.ctl := rfl
@[simp] theorem State.setUart_eng (s : State) (k : Nat) (u : Uart) : (s.setUart k u).eng = s.eng := rfl
@[simp] theorem State.setUart_safe (s : State) (k : Nat) (u : Uart) : (s.setUart k u).safe = s.safe := rfl
@[simp] theorem State.setUart_weld (s : State) (k : Nat) (u : Uart) : (s.setUart k u).weld = s.weld := rfl
@[simp] theorem State.setUart_qnch (s : State) (k : Nat) (u : Uart) : (s.setUart k u).qnch = s.qnch := rfl
@[simp] theorem State.setUart_tone (s : State) (k : Nat) (u : Uart) : (s.setUart k u).tone = s.tone := rfl
@[simp] theorem State.setUart_tdm (s : State) (k : Nat) (u : Uart) : (s.setUart k u).tdm = s.tdm := rfl
@[simp] theorem State.setUart_net (s : State) (k : Nat) (u : Uart) : (s.setUart k u).net = s.net := rfl
@[simp] theorem State.setUart_dict (s : State) (k : Nat) (u : Uart) : (s.setUart k u).dict = s.dict := rfl
@[simp] theorem State.setUart_ril (s : State) (k : Nat) (u : Uart) : (s.setUart k u).ril = s.ril := rfl
@[simp] theorem State.setUart_dma (s : State) (k : Nat) (u : Uart) : (s.setUart k u).dma = s.dma := rfl
@[simp] theorem State.setUart_sense (s : State) (k : Nat) (u : Uart) : (s.setUart k u).sense = s.sense := rfl
@[simp] theorem State.setUart_msg (s : State) (k : Nat) (u : Uart) : (s.setUart k u).msg = s.msg := rfl
@[simp] theorem State.setUart_evt (s : State) (k : Nat) (u : Uart) : (s.setUart k u).evt = s.evt := rfl
@[simp] theorem State.setUart_modes (s : State) (k : Nat) (u : Uart) : (s.setUart k u).modes = s.modes := rfl
@[simp] theorem State.setUart_ward (s : State) (k : Nat) (u : Uart) : (s.setUart k u).ward = s.ward := rfl
@[simp] theorem State.setUart_power (s : State) (k : Nat) (u : Uart) : (s.setUart k u).power = s.power := rfl
@[simp] theorem State.setUart_free (s : State) (k : Nat) (u : Uart) : (s.setUart k u).free = s.free := rfl
@[simp] theorem State.setUart_pending (s : State) (k : Nat) (u : Uart) : (s.setUart k u).pending = s.pending := rfl

/-! ### setVtSlot -/

@[simp] theorem State.setVtSlot_regs (s : State) (k : Nat) (x : VtSlot) : (s.setVtSlot k x).regs = s.regs := rfl
@[simp] theorem State.setVtSlot_wbPend (s : State) (k : Nat) (x : VtSlot) : (s.setVtSlot k x).wbPend = s.wbPend := rfl
@[simp] theorem State.setVtSlot_sqs (s : State) (k : Nat) (x : VtSlot) : (s.setVtSlot k x).sqs = s.sqs := rfl
@[simp] theorem State.setVtSlot_mem (s : State) (k : Nat) (x : VtSlot) : (s.setVtSlot k x).mem = s.mem := rfl
@[simp] theorem State.setVtSlot_flash (s : State) (k : Nat) (x : VtSlot) : (s.setVtSlot k x).flash = s.flash := rfl
@[simp] theorem State.setVtSlot_ecc (s : State) (k : Nat) (x : VtSlot) : (s.setVtSlot k x).ecc = s.ecc := rfl
@[simp] theorem State.setVtSlot_bus (s : State) (k : Nat) (x : VtSlot) : (s.setVtSlot k x).bus = s.bus := rfl
@[simp] theorem State.setVtSlot_clk (s : State) (k : Nat) (x : VtSlot) : (s.setVtSlot k x).clk = s.clk := rfl
@[simp] theorem State.setVtSlot_mclk (s : State) (k : Nat) (x : VtSlot) : (s.setVtSlot k x).mclk = s.mclk := rfl
@[simp] theorem State.setVtSlot_bridges (s : State) (k : Nat) (x : VtSlot) : (s.setVtSlot k x).bridges = s.bridges := rfl
@[simp] theorem State.setVtSlot_ctl (s : State) (k : Nat) (x : VtSlot) : (s.setVtSlot k x).ctl = s.ctl := rfl
@[simp] theorem State.setVtSlot_eng (s : State) (k : Nat) (x : VtSlot) : (s.setVtSlot k x).eng = s.eng := rfl
@[simp] theorem State.setVtSlot_safe (s : State) (k : Nat) (x : VtSlot) : (s.setVtSlot k x).safe = s.safe := rfl
@[simp] theorem State.setVtSlot_weld (s : State) (k : Nat) (x : VtSlot) : (s.setVtSlot k x).weld = s.weld := rfl
@[simp] theorem State.setVtSlot_qnch (s : State) (k : Nat) (x : VtSlot) : (s.setVtSlot k x).qnch = s.qnch := rfl
@[simp] theorem State.setVtSlot_tone (s : State) (k : Nat) (x : VtSlot) : (s.setVtSlot k x).tone = s.tone := rfl
@[simp] theorem State.setVtSlot_tdm (s : State) (k : Nat) (x : VtSlot) : (s.setVtSlot k x).tdm = s.tdm := rfl
@[simp] theorem State.setVtSlot_net (s : State) (k : Nat) (x : VtSlot) : (s.setVtSlot k x).net = s.net := rfl
@[simp] theorem State.setVtSlot_dict (s : State) (k : Nat) (x : VtSlot) : (s.setVtSlot k x).dict = s.dict := rfl
@[simp] theorem State.setVtSlot_ril (s : State) (k : Nat) (x : VtSlot) : (s.setVtSlot k x).ril = s.ril := rfl
@[simp] theorem State.setVtSlot_dma (s : State) (k : Nat) (x : VtSlot) : (s.setVtSlot k x).dma = s.dma := rfl
@[simp] theorem State.setVtSlot_ports (s : State) (k : Nat) (x : VtSlot) : (s.setVtSlot k x).ports = s.ports := rfl
@[simp] theorem State.setVtSlot_msg (s : State) (k : Nat) (x : VtSlot) : (s.setVtSlot k x).msg = s.msg := rfl
@[simp] theorem State.setVtSlot_evt (s : State) (k : Nat) (x : VtSlot) : (s.setVtSlot k x).evt = s.evt := rfl
@[simp] theorem State.setVtSlot_modes (s : State) (k : Nat) (x : VtSlot) : (s.setVtSlot k x).modes = s.modes := rfl
@[simp] theorem State.setVtSlot_ward (s : State) (k : Nat) (x : VtSlot) : (s.setVtSlot k x).ward = s.ward := rfl
@[simp] theorem State.setVtSlot_power (s : State) (k : Nat) (x : VtSlot) : (s.setVtSlot k x).power = s.power := rfl
@[simp] theorem State.setVtSlot_free (s : State) (k : Nat) (x : VtSlot) : (s.setVtSlot k x).free = s.free := rfl
@[simp] theorem State.setVtSlot_pending (s : State) (k : Nat) (x : VtSlot) : (s.setVtSlot k x).pending = s.pending := rfl

/-! ### wr -/

@[simp] theorem State.wr_wbPend (s : State) (a : Nat) (v : Word) : (s.wr a v).wbPend = s.wbPend := rfl
@[simp] theorem State.wr_sqs (s : State) (a : Nat) (v : Word) : (s.wr a v).sqs = s.sqs := rfl
@[simp] theorem State.wr_mem (s : State) (a : Nat) (v : Word) : (s.wr a v).mem = s.mem := rfl
@[simp] theorem State.wr_flash (s : State) (a : Nat) (v : Word) : (s.wr a v).flash = s.flash := rfl
@[simp] theorem State.wr_ecc (s : State) (a : Nat) (v : Word) : (s.wr a v).ecc = s.ecc := rfl
@[simp] theorem State.wr_bus (s : State) (a : Nat) (v : Word) : (s.wr a v).bus = s.bus := rfl
@[simp] theorem State.wr_clk (s : State) (a : Nat) (v : Word) : (s.wr a v).clk = s.clk := rfl
@[simp] theorem State.wr_mclk (s : State) (a : Nat) (v : Word) : (s.wr a v).mclk = s.mclk := rfl
@[simp] theorem State.wr_bridges (s : State) (a : Nat) (v : Word) : (s.wr a v).bridges = s.bridges := rfl
@[simp] theorem State.wr_ctl (s : State) (a : Nat) (v : Word) : (s.wr a v).ctl = s.ctl := rfl
@[simp] theorem State.wr_eng (s : State) (a : Nat) (v : Word) : (s.wr a v).eng = s.eng := rfl
@[simp] theorem State.wr_safe (s : State) (a : Nat) (v : Word) : (s.wr a v).safe = s.safe := rfl
@[simp] theorem State.wr_weld (s : State) (a : Nat) (v : Word) : (s.wr a v).weld = s.weld := rfl
@[simp] theorem State.wr_qnch (s : State) (a : Nat) (v : Word) : (s.wr a v).qnch = s.qnch := rfl
@[simp] theorem State.wr_tone (s : State) (a : Nat) (v : Word) : (s.wr a v).tone = s.tone := rfl
@[simp] theorem State.wr_tdm (s : State) (a : Nat) (v : Word) : (s.wr a v).tdm = s.tdm := rfl
@[simp] theorem State.wr_net (s : State) (a : Nat) (v : Word) : (s.wr a v).net = s.net := rfl
@[simp] theorem State.wr_dict (s : State) (a : Nat) (v : Word) : (s.wr a v).dict = s.dict := rfl
@[simp] theorem State.wr_ril (s : State) (a : Nat) (v : Word) : (s.wr a v).ril = s.ril := rfl
@[simp] theorem State.wr_dma (s : State) (a : Nat) (v : Word) : (s.wr a v).dma = s.dma := rfl
@[simp] theorem State.wr_sense (s : State) (a : Nat) (v : Word) : (s.wr a v).sense = s.sense := rfl
@[simp] theorem State.wr_ports (s : State) (a : Nat) (v : Word) : (s.wr a v).ports = s.ports := rfl
@[simp] theorem State.wr_msg (s : State) (a : Nat) (v : Word) : (s.wr a v).msg = s.msg := rfl
@[simp] theorem State.wr_evt (s : State) (a : Nat) (v : Word) : (s.wr a v).evt = s.evt := rfl
@[simp] theorem State.wr_modes (s : State) (a : Nat) (v : Word) : (s.wr a v).modes = s.modes := rfl
@[simp] theorem State.wr_ward (s : State) (a : Nat) (v : Word) : (s.wr a v).ward = s.ward := rfl
@[simp] theorem State.wr_power (s : State) (a : Nat) (v : Word) : (s.wr a v).power = s.power := rfl
@[simp] theorem State.wr_free (s : State) (a : Nat) (v : Word) : (s.wr a v).free = s.free := rfl
@[simp] theorem State.wr_pending (s : State) (a : Nat) (v : Word) : (s.wr a v).pending = s.pending := rfl

/-! ### wrb -/

@[simp] theorem State.wrb_wbPend (s : State) (a : Nat) (i : Nat) (b : Bool) : (s.wrb a i b).wbPend = s.wbPend := rfl
@[simp] theorem State.wrb_sqs (s : State) (a : Nat) (i : Nat) (b : Bool) : (s.wrb a i b).sqs = s.sqs := rfl
@[simp] theorem State.wrb_mem (s : State) (a : Nat) (i : Nat) (b : Bool) : (s.wrb a i b).mem = s.mem := rfl
@[simp] theorem State.wrb_flash (s : State) (a : Nat) (i : Nat) (b : Bool) : (s.wrb a i b).flash = s.flash := rfl
@[simp] theorem State.wrb_ecc (s : State) (a : Nat) (i : Nat) (b : Bool) : (s.wrb a i b).ecc = s.ecc := rfl
@[simp] theorem State.wrb_bus (s : State) (a : Nat) (i : Nat) (b : Bool) : (s.wrb a i b).bus = s.bus := rfl
@[simp] theorem State.wrb_clk (s : State) (a : Nat) (i : Nat) (b : Bool) : (s.wrb a i b).clk = s.clk := rfl
@[simp] theorem State.wrb_mclk (s : State) (a : Nat) (i : Nat) (b : Bool) : (s.wrb a i b).mclk = s.mclk := rfl
@[simp] theorem State.wrb_bridges (s : State) (a : Nat) (i : Nat) (b : Bool) : (s.wrb a i b).bridges = s.bridges := rfl
@[simp] theorem State.wrb_ctl (s : State) (a : Nat) (i : Nat) (b : Bool) : (s.wrb a i b).ctl = s.ctl := rfl
@[simp] theorem State.wrb_eng (s : State) (a : Nat) (i : Nat) (b : Bool) : (s.wrb a i b).eng = s.eng := rfl
@[simp] theorem State.wrb_safe (s : State) (a : Nat) (i : Nat) (b : Bool) : (s.wrb a i b).safe = s.safe := rfl
@[simp] theorem State.wrb_weld (s : State) (a : Nat) (i : Nat) (b : Bool) : (s.wrb a i b).weld = s.weld := rfl
@[simp] theorem State.wrb_qnch (s : State) (a : Nat) (i : Nat) (b : Bool) : (s.wrb a i b).qnch = s.qnch := rfl
@[simp] theorem State.wrb_tone (s : State) (a : Nat) (i : Nat) (b : Bool) : (s.wrb a i b).tone = s.tone := rfl
@[simp] theorem State.wrb_tdm (s : State) (a : Nat) (i : Nat) (b : Bool) : (s.wrb a i b).tdm = s.tdm := rfl
@[simp] theorem State.wrb_net (s : State) (a : Nat) (i : Nat) (b : Bool) : (s.wrb a i b).net = s.net := rfl
@[simp] theorem State.wrb_dict (s : State) (a : Nat) (i : Nat) (b : Bool) : (s.wrb a i b).dict = s.dict := rfl
@[simp] theorem State.wrb_ril (s : State) (a : Nat) (i : Nat) (b : Bool) : (s.wrb a i b).ril = s.ril := rfl
@[simp] theorem State.wrb_dma (s : State) (a : Nat) (i : Nat) (b : Bool) : (s.wrb a i b).dma = s.dma := rfl
@[simp] theorem State.wrb_sense (s : State) (a : Nat) (i : Nat) (b : Bool) : (s.wrb a i b).sense = s.sense := rfl
@[simp] theorem State.wrb_ports (s : State) (a : Nat) (i : Nat) (b : Bool) : (s.wrb a i b).ports = s.ports := rfl
@[simp] theorem State.wrb_msg (s : State) (a : Nat) (i : Nat) (b : Bool) : (s.wrb a i b).msg = s.msg := rfl
@[simp] theorem State.wrb_evt (s : State) (a : Nat) (i : Nat) (b : Bool) : (s.wrb a i b).evt = s.evt := rfl
@[simp] theorem State.wrb_modes (s : State) (a : Nat) (i : Nat) (b : Bool) : (s.wrb a i b).modes = s.modes := rfl
@[simp] theorem State.wrb_ward (s : State) (a : Nat) (i : Nat) (b : Bool) : (s.wrb a i b).ward = s.ward := rfl
@[simp] theorem State.wrb_power (s : State) (a : Nat) (i : Nat) (b : Bool) : (s.wrb a i b).power = s.power := rfl
@[simp] theorem State.wrb_free (s : State) (a : Nat) (i : Nat) (b : Bool) : (s.wrb a i b).free = s.free := rfl
@[simp] theorem State.wrb_pending (s : State) (a : Nat) (i : Nat) (b : Bool) : (s.wrb a i b).pending = s.pending := rfl

/-! ### wrf -/

@[simp] theorem State.wrf_wbPend (s : State) (a : Nat) (lo : Nat) (n : Nat) (v : Nat) : (s.wrf a lo n v).wbPend = s.wbPend := rfl
@[simp] theorem State.wrf_sqs (s : State) (a : Nat) (lo : Nat) (n : Nat) (v : Nat) : (s.wrf a lo n v).sqs = s.sqs := rfl
@[simp] theorem State.wrf_mem (s : State) (a : Nat) (lo : Nat) (n : Nat) (v : Nat) : (s.wrf a lo n v).mem = s.mem := rfl
@[simp] theorem State.wrf_flash (s : State) (a : Nat) (lo : Nat) (n : Nat) (v : Nat) : (s.wrf a lo n v).flash = s.flash := rfl
@[simp] theorem State.wrf_ecc (s : State) (a : Nat) (lo : Nat) (n : Nat) (v : Nat) : (s.wrf a lo n v).ecc = s.ecc := rfl
@[simp] theorem State.wrf_bus (s : State) (a : Nat) (lo : Nat) (n : Nat) (v : Nat) : (s.wrf a lo n v).bus = s.bus := rfl
@[simp] theorem State.wrf_clk (s : State) (a : Nat) (lo : Nat) (n : Nat) (v : Nat) : (s.wrf a lo n v).clk = s.clk := rfl
@[simp] theorem State.wrf_mclk (s : State) (a : Nat) (lo : Nat) (n : Nat) (v : Nat) : (s.wrf a lo n v).mclk = s.mclk := rfl
@[simp] theorem State.wrf_bridges (s : State) (a : Nat) (lo : Nat) (n : Nat) (v : Nat) : (s.wrf a lo n v).bridges = s.bridges := rfl
@[simp] theorem State.wrf_ctl (s : State) (a : Nat) (lo : Nat) (n : Nat) (v : Nat) : (s.wrf a lo n v).ctl = s.ctl := rfl
@[simp] theorem State.wrf_eng (s : State) (a : Nat) (lo : Nat) (n : Nat) (v : Nat) : (s.wrf a lo n v).eng = s.eng := rfl
@[simp] theorem State.wrf_safe (s : State) (a : Nat) (lo : Nat) (n : Nat) (v : Nat) : (s.wrf a lo n v).safe = s.safe := rfl
@[simp] theorem State.wrf_weld (s : State) (a : Nat) (lo : Nat) (n : Nat) (v : Nat) : (s.wrf a lo n v).weld = s.weld := rfl
@[simp] theorem State.wrf_qnch (s : State) (a : Nat) (lo : Nat) (n : Nat) (v : Nat) : (s.wrf a lo n v).qnch = s.qnch := rfl
@[simp] theorem State.wrf_tone (s : State) (a : Nat) (lo : Nat) (n : Nat) (v : Nat) : (s.wrf a lo n v).tone = s.tone := rfl
@[simp] theorem State.wrf_tdm (s : State) (a : Nat) (lo : Nat) (n : Nat) (v : Nat) : (s.wrf a lo n v).tdm = s.tdm := rfl
@[simp] theorem State.wrf_net (s : State) (a : Nat) (lo : Nat) (n : Nat) (v : Nat) : (s.wrf a lo n v).net = s.net := rfl
@[simp] theorem State.wrf_dict (s : State) (a : Nat) (lo : Nat) (n : Nat) (v : Nat) : (s.wrf a lo n v).dict = s.dict := rfl
@[simp] theorem State.wrf_ril (s : State) (a : Nat) (lo : Nat) (n : Nat) (v : Nat) : (s.wrf a lo n v).ril = s.ril := rfl
@[simp] theorem State.wrf_dma (s : State) (a : Nat) (lo : Nat) (n : Nat) (v : Nat) : (s.wrf a lo n v).dma = s.dma := rfl
@[simp] theorem State.wrf_sense (s : State) (a : Nat) (lo : Nat) (n : Nat) (v : Nat) : (s.wrf a lo n v).sense = s.sense := rfl
@[simp] theorem State.wrf_ports (s : State) (a : Nat) (lo : Nat) (n : Nat) (v : Nat) : (s.wrf a lo n v).ports = s.ports := rfl
@[simp] theorem State.wrf_msg (s : State) (a : Nat) (lo : Nat) (n : Nat) (v : Nat) : (s.wrf a lo n v).msg = s.msg := rfl
@[simp] theorem State.wrf_evt (s : State) (a : Nat) (lo : Nat) (n : Nat) (v : Nat) : (s.wrf a lo n v).evt = s.evt := rfl
@[simp] theorem State.wrf_modes (s : State) (a : Nat) (lo : Nat) (n : Nat) (v : Nat) : (s.wrf a lo n v).modes = s.modes := rfl
@[simp] theorem State.wrf_ward (s : State) (a : Nat) (lo : Nat) (n : Nat) (v : Nat) : (s.wrf a lo n v).ward = s.ward := rfl
@[simp] theorem State.wrf_power (s : State) (a : Nat) (lo : Nat) (n : Nat) (v : Nat) : (s.wrf a lo n v).power = s.power := rfl
@[simp] theorem State.wrf_free (s : State) (a : Nat) (lo : Nat) (n : Nat) (v : Nat) : (s.wrf a lo n v).free = s.free := rfl
@[simp] theorem State.wrf_pending (s : State) (a : Nat) (lo : Nat) (n : Nat) (v : Nat) : (s.wrf a lo n v).pending = s.pending := rfl

/-! ### wrn -/

@[simp] theorem State.wrn_wbPend (s : State) (a : Nat) (v : Nat) : (s.wrn a v).wbPend = s.wbPend := rfl
@[simp] theorem State.wrn_sqs (s : State) (a : Nat) (v : Nat) : (s.wrn a v).sqs = s.sqs := rfl
@[simp] theorem State.wrn_mem (s : State) (a : Nat) (v : Nat) : (s.wrn a v).mem = s.mem := rfl
@[simp] theorem State.wrn_flash (s : State) (a : Nat) (v : Nat) : (s.wrn a v).flash = s.flash := rfl
@[simp] theorem State.wrn_ecc (s : State) (a : Nat) (v : Nat) : (s.wrn a v).ecc = s.ecc := rfl
@[simp] theorem State.wrn_bus (s : State) (a : Nat) (v : Nat) : (s.wrn a v).bus = s.bus := rfl
@[simp] theorem State.wrn_clk (s : State) (a : Nat) (v : Nat) : (s.wrn a v).clk = s.clk := rfl
@[simp] theorem State.wrn_mclk (s : State) (a : Nat) (v : Nat) : (s.wrn a v).mclk = s.mclk := rfl
@[simp] theorem State.wrn_bridges (s : State) (a : Nat) (v : Nat) : (s.wrn a v).bridges = s.bridges := rfl
@[simp] theorem State.wrn_ctl (s : State) (a : Nat) (v : Nat) : (s.wrn a v).ctl = s.ctl := rfl
@[simp] theorem State.wrn_eng (s : State) (a : Nat) (v : Nat) : (s.wrn a v).eng = s.eng := rfl
@[simp] theorem State.wrn_safe (s : State) (a : Nat) (v : Nat) : (s.wrn a v).safe = s.safe := rfl
@[simp] theorem State.wrn_weld (s : State) (a : Nat) (v : Nat) : (s.wrn a v).weld = s.weld := rfl
@[simp] theorem State.wrn_qnch (s : State) (a : Nat) (v : Nat) : (s.wrn a v).qnch = s.qnch := rfl
@[simp] theorem State.wrn_tone (s : State) (a : Nat) (v : Nat) : (s.wrn a v).tone = s.tone := rfl
@[simp] theorem State.wrn_tdm (s : State) (a : Nat) (v : Nat) : (s.wrn a v).tdm = s.tdm := rfl
@[simp] theorem State.wrn_net (s : State) (a : Nat) (v : Nat) : (s.wrn a v).net = s.net := rfl
@[simp] theorem State.wrn_dict (s : State) (a : Nat) (v : Nat) : (s.wrn a v).dict = s.dict := rfl
@[simp] theorem State.wrn_ril (s : State) (a : Nat) (v : Nat) : (s.wrn a v).ril = s.ril := rfl
@[simp] theorem State.wrn_dma (s : State) (a : Nat) (v : Nat) : (s.wrn a v).dma = s.dma := rfl
@[simp] theorem State.wrn_sense (s : State) (a : Nat) (v : Nat) : (s.wrn a v).sense = s.sense := rfl
@[simp] theorem State.wrn_ports (s : State) (a : Nat) (v : Nat) : (s.wrn a v).ports = s.ports := rfl
@[simp] theorem State.wrn_msg (s : State) (a : Nat) (v : Nat) : (s.wrn a v).msg = s.msg := rfl
@[simp] theorem State.wrn_evt (s : State) (a : Nat) (v : Nat) : (s.wrn a v).evt = s.evt := rfl
@[simp] theorem State.wrn_modes (s : State) (a : Nat) (v : Nat) : (s.wrn a v).modes = s.modes := rfl
@[simp] theorem State.wrn_ward (s : State) (a : Nat) (v : Nat) : (s.wrn a v).ward = s.ward := rfl
@[simp] theorem State.wrn_power (s : State) (a : Nat) (v : Nat) : (s.wrn a v).power = s.power := rfl
@[simp] theorem State.wrn_free (s : State) (a : Nat) (v : Nat) : (s.wrn a v).free = s.free := rfl
@[simp] theorem State.wrn_pending (s : State) (a : Nat) (v : Nat) : (s.wrn a v).pending = s.pending := rfl

/-! ### Reading back -/

/-- Another key's entry, whatever the default that the written table drops. -/
theorem tget_tset_other {α : Type} [DecidableEq α] (d e v : α) (t : Table α) (k j : Nat) (h : j ≠ k) :
    tget d (tset e t k v) j = tget d t j := by
  unfold tset
  split
  · rw [tget_tdel, if_neg h]
  · rw [tget_tput, if_neg h]

@[simp] theorem State.sq_setSq (s : State) (k j : Nat) (x : SqReg) :
    (s.setSq k x).sq j = if j = k then x else s.sq j := by
  simp [State.sq, State.setSq, State.modPorts, State.modSense, State.modVt, State.modMsg, State.modNet, tget_tset]

@[simp] theorem State.tenant_setTenant (s : State) (k j : Nat) (x : Tenant) :
    (s.setTenant k x).tenant j = if j = k then x else s.tenant j := by
  unfold State.tenant State.setTenant
  by_cases h : j = k
  · subst h
    simp
  · rw [if_neg h]
    exact tget_tset_other _ _ _ _ _ _ h

@[simp] theorem State.notice_setNotice (s : State) (k j : Nat) (x : Notice) :
    (s.setNotice k x).notice j = if j = k then x else s.notice j := by
  simp [State.notice, State.setNotice, State.modPorts, State.modSense, State.modVt, State.modMsg, State.modNet, tget_tset]

@[simp] theorem State.sc_setSc (s : State) (k j : Nat) (x : SampleCore) :
    (s.setSc k x).sc j = if j = k then x else s.sc j := by
  simp [State.sc, State.setSc, State.modPorts, State.modSense, State.modVt, State.modMsg, State.modNet, tget_tset]

@[simp] theorem State.lane_setLane (s : State) (k j : Nat) (x : LaneVal) :
    (s.setLane k x).lane j = if j = k then x else s.lane j := by
  simp [State.lane, State.setLane, State.modPorts, State.modSense, State.modVt, State.modMsg, State.modNet, tget_tset]

@[simp] theorem State.rxs_setRxs (s : State) (k j : Nat) (x : RxStream) :
    (s.setRxs k x).rxs j = if j = k then x else s.rxs j := by
  simp [State.rxs, State.setRxs, State.modPorts, State.modSense, State.modVt, State.modMsg, State.modNet, tget_tset]

@[simp] theorem State.bridge_setBridge (s : State) (k j : Nat) (x : Bridge) :
    (s.setBridge k x).bridge j = if j = k then x else s.bridge j := by
  simp [State.bridge, State.setBridge, State.modPorts, State.modSense, State.modVt, State.modMsg, State.modNet, tget_tset]

@[simp] theorem State.tport_setTport (s : State) (k j : Nat) (x : TdmPort) :
    (s.setTport k x).tport j = if j = k then x else s.tport j := by
  simp [State.tport, State.setTport, State.modPorts, State.modSense, State.modVt, State.modMsg, State.modNet, tget_tset]

@[simp] theorem State.ctlCore_setCtl (s : State) (k j : Nat) (x : CtlCore) :
    (s.setCtl k x).ctlCore j = if j = k then x else s.ctlCore j := by
  unfold State.ctlCore State.setCtl
  by_cases h : j = k
  · subst h
    simp
  · rw [if_neg h]
    exact tget_tset_other _ _ _ _ _ _ h

@[simp] theorem State.grp_setGrp (s : State) (k j : Nat) (x : Group) :
    (s.setGrp k x).grp j = if j = k then x else s.grp j := by
  simp [State.grp, State.setGrp, State.modPorts, State.modSense, State.modVt, State.modMsg, State.modNet, tget_tset]

@[simp] theorem State.gen_setGen (s : State) (k j : Nat) (x : ToneGen) :
    (s.setGen k x).gen j = if j = k then x else s.gen j := by
  simp [State.gen, State.setGen, State.modPorts, State.modSense, State.modVt, State.modMsg, State.modNet, tget_tset]

@[simp] theorem State.lim_setLim (s : State) (k j : Nat) (x : Limiter) :
    (s.setLim k x).lim j = if j = k then x else s.lim j := by
  simp [State.lim, State.setLim, State.modPorts, State.modSense, State.modVt, State.modMsg, State.modNet, tget_tset]

@[simp] theorem State.eqLane_setEqLane (s : State) (k j : Nat) (x : EqLane) :
    (s.setEqLane k x).eqLane j = if j = k then x else s.eqLane j := by
  simp [State.eqLane, State.setEqLane, State.modPorts, State.modSense, State.modVt, State.modMsg, State.modNet, tget_tset]

@[simp] theorem State.spw_setSpw (s : State) (k j : Nat) (x : Speedwell) :
    (s.setSpw k x).spw j = if j = k then x else s.spw j := by
  simp [State.spw, State.setSpw, State.modPorts, State.modSense, State.modVt, State.modMsg, State.modNet, tget_tset]

@[simp] theorem State.mon_setMon (s : State) (k j : Nat) (x : Monitor) :
    (s.setMon k x).mon j = if j = k then x else s.mon j := by
  simp [State.mon, State.setMon, State.modPorts, State.modSense, State.modVt, State.modMsg, State.modNet, tget_tset]

@[simp] theorem State.vtSlot_setVtSlot (s : State) (k j : Nat) (x : VtSlot) :
    (s.setVtSlot k x).vtSlot j = if j = k then x else s.vtSlot j := by
  simp [State.vtSlot, State.setVtSlot, State.modPorts, State.modSense, State.modVt, State.modMsg, State.modNet, tget_tset]

@[simp] theorem State.mic_setMic (s : State) (k j : Nat) (x : MicLine) :
    (s.setMic k x).mic j = if j = k then x else s.mic j := by
  simp [State.mic, State.setMic, State.modPorts, State.modSense, State.modVt, State.modMsg, State.modNet, tget_tset]

@[simp] theorem State.contact_setContact (s : State) (k j : Nat) (x : Contact) :
    (s.setContact k x).contact j = if j = k then x else s.contact j := by
  simp [State.contact, State.setContact, State.modPorts, State.modSense, State.modVt, State.modMsg, State.modNet, tget_tset]

@[simp] theorem State.uart_setUart (s : State) (k j : Nat) (x : Uart) :
    (s.setUart k x).uart j = if j = k then x else s.uart j := by
  simp [State.uart, State.setUart, State.modPorts, State.modSense, State.modVt, State.modMsg, State.modNet, tget_tset]

@[simp] theorem State.can_setCan (s : State) (k j : Nat) (x : Can) :
    (s.setCan k x).can j = if j = k then x else s.can j := by
  simp [State.can, State.setCan, State.modPorts, State.modSense, State.modVt, State.modMsg, State.modNet, tget_tset]

@[simp] theorem State.i2c_setI2c (s : State) (k j : Nat) (x : I2c) :
    (s.setI2c k x).i2c j = if j = k then x else s.i2c j := by
  simp [State.i2c, State.setI2c, State.modPorts, State.modSense, State.modVt, State.modMsg, State.modNet, tget_tset]

@[simp] theorem State.player_setPlayer (s : State) (k j : Nat) (x : Player) :
    (s.setPlayer k x).player j = if j = k then x else s.player j := by
  simp [State.player, State.setPlayer, State.modPorts, State.modSense, State.modVt, State.modMsg, State.modNet, tget_tset]

@[simp] theorem State.dch_setDch (s : State) (k j : Nat) (x : DmaCh) :
    (s.setDch k x).dch j = if j = k then x else s.dch j := by
  simp [State.dch, State.setDch, State.modPorts, State.modSense, State.modVt, State.modMsg, State.modNet, tget_tset]

@[simp] theorem State.txs_setTxs (s : State) (k j : Nat) (x : TxStream) :
    (s.setTxs k x).txs j = if j = k then x else s.txs j := by
  simp [State.txs, State.setTxs, State.modPorts, State.modSense, State.modVt, State.modMsg, State.modNet, tget_tset]

@[simp] theorem State.rd_wr (s : State) (a b : Nat) (v : Word) : (s.wr a v).rd b = if b = a then v else s.rd b := by
  unfold State.rd State.wr
  by_cases h : b = a
  · subst h
    simp
  · rw [if_neg h]
    exact tget_tset_other _ _ _ _ _ _ h

theorem State.rd_wrn (s : State) (a b v : Nat) : (s.wrn a v).rd b = if b = a then BitVec.ofNat 32 v else s.rd b := by
  simp [State.wrn]

@[simp] theorem State.rd_setSq (s : State) (a b : Nat) (q : SqReg) : (s.setSq a q).rd b = s.rd b := rfl

@[simp] theorem State.sq_wr (s : State) (a b : Nat) (v : Word) : (s.wr a v).sq b = s.sq b := rfl

end Sys2Proof.Machine
end

