-- ==== Sys2Proof/Laws/Events.lean ====
section
/-! SUPPORT. What a setting event of a sequence-acknowledged register can do: its own register, an interrupt latch, the
records that follow and the subscribers that take them, and nothing else. -/

namespace Sys2Proof.Machine
open Sys2Proof

/-- What an event leaves as it was. -/
structure EventFrame (s t : State) : Prop where
  rest : t = { s with regs := t.regs, mem := t.mem, ecc := t.ecc, sqs := t.sqs, evt := t.evt,
                      dict := { s.dict with tenants := t.dict.tenants } }
  regs : ∀ a, recordReg a = false → t.rd a = s.rd a
  ten : ∀ k, t.tenant k = { s.tenant k with events := (t.tenant k).events, lostEvents := (t.tenant k).lostEvents,
                                            taps := (t.tenant k).taps, lostTaps := (t.tenant k).lostTaps,
                                            evSince := (t.tenant k).evSince }
  sqs : ∀ a, a ≠ Reg.evtEvt → a ≠ 0x400A0808 → t.sq a = s.sq a

theorem EventFrame.refl (s : State) : EventFrame s s := ⟨rfl, fun _ _ => rfl, fun _ => rfl, fun _ _ _ => rfl⟩

theorem EventFrame.trans {s t u : State} (h : EventFrame s t) (k : EventFrame t u) : EventFrame s u := by
  refine ⟨?_, fun a ha => (k.regs a ha).trans (h.regs a ha), fun n => ?_, fun a h1 h2 => (k.sqs a h1 h2).trans (h.sqs a h1 h2)⟩
  · rw [k.rest, h.rest]
  · rw [k.ten n, h.ten n]

theorem EventFrame.wr (s : State) (a : Nat) (v : Word) (h : recordReg a = true) : EventFrame s (s.wr a v) := by
  refine ⟨rfl, fun b hb => ?_, fun _ => rfl, fun _ _ _ => rfl⟩
  rw [State.rd_wr, if_neg]
  rintro rfl
  simp [h] at hb

theorem EventFrame.setSq (s : State) (a : Nat) (q : SqReg) (h : a = Reg.evtEvt ∨ a = 0x400A0808) :
    EventFrame s (s.setSq a q) := by
  refine ⟨rfl, fun _ _ => rfl, fun _ => rfl, fun b h1 h2 => ?_⟩
  simp only [State.sq, State.setSq, tget_tset]
  rw [if_neg]
  rintro rfl
  exact h.elim h1 h2

theorem EventFrame.setTenant (s : State) (k : Nat) (e tp : List (List Byte)) (le lt es : Nat) :
    EventFrame s (s.setTenant k { s.tenant k with events := e, lostEvents := le, taps := tp, lostTaps := lt, evSince := es }) := by
  refine ⟨rfl, fun _ _ => rfl, fun n => ?_, fun _ _ _ => rfl⟩
  by_cases h : n = k
  · subst h; simp [State.tenant, State.setTenant]
  · have : (s.setTenant k { s.tenant k with events := e, lostEvents := le, taps := tp, lostTaps := lt, evSince := es }).tenant n
        = s.tenant n := by
      exact tget_tset_other _ _ _ _ _ _ h
    rw [this]

theorem EventFrame.incSat (s : State) (a : Nat) (h : recordReg a = true) : EventFrame s (s.incSat a) := by
  simp only [State.incSat]
  split
  · exact .wr _ _ _ h
  · exact .refl s

theorem offerEvent_frame (r : List Byte) (source sev t : Nat) (s : State) : EventFrame s (offerEvent r source sev t s).1 := by
  simp only [offerEvent]
  split
  · split
    · exact .setTenant s t _ (s.tenant t).taps (s.tenant t).lostEvents (s.tenant t).lostTaps _
    · exact .setTenant s t (s.tenant t).events (s.tenant t).taps _ (s.tenant t).lostTaps (s.tenant t).evSince
  · exact .refl s

theorem offerAll_frame (offer : Nat → State → State × Bool) (h : ∀ t s, EventFrame s (offer t s).1) (s : State) :
    EventFrame s (offerAll offer s).1 := by
  have : ∀ (l : List Nat) (acc : State × Bool), EventFrame acc.1 (l.foldl (fun acc t =>
      let r := offer t acc.1
      (r.1, acc.2 || r.2)) acc).1 := by
    intro l
    induction l with
    | nil => exact fun acc => .refl _
    | cons t l ih => exact fun acc => (h t acc.1).trans (ih (offer t acc.1 |>.1, acc.2 || (offer t acc.1).2))
  exact this _ (s, false)

theorem ringPut_frame (r : List Byte) (s : State) : EventFrame s (ringPut r s).1 := by
  simp only [ringPut]
  split
  · have ring : ∀ u : State, EventFrame u (u.mwrBytes ((s.rd Reg.evtRingBase).toNat + 32 * s.rdf Reg.evtRingWr 0 14) r) :=
      fun u => ⟨rfl, fun _ _ => rfl, fun _ => rfl, fun _ _ _ => rfl⟩
    split
    · exact (((EventFrame.wr _ _ _ (by decide)).trans (.incSat _ _ (by decide))).trans (ring _)).trans (.wr _ _ _ (by decide))
    · exact (ring _).trans (.wr _ _ _ (by decide))
  · exact .incSat _ _ (by decide)

theorem EventFrame.evt (s : State) (e : Evt) : EventFrame s { s with evt := e } :=
  ⟨rfl, fun _ _ => rfl, fun _ => rfl, fun _ _ _ => rfl⟩

theorem offered_frame (r : List Byte) (source sev : Nat) (s : State) :
    EventFrame s (offerAll (offerEvent r source sev) (ringPut r s).1).1 :=
  (ringPut_frame r s).trans (offerAll_frame _ (fun t s => offerEvent_frame r source sev t s) _)

theorem dropped_frame (source : Nat) (s : State) :
    EventFrame s ((s.incSat Reg.evtDrops).wrf Reg.evtDrops 16 6 source) :=
  (EventFrame.incSat s Reg.evtDrops (by decide)).trans (.wr _ Reg.evtDrops _ (by decide))

theorem recordCore_frame (source sev code : Nat) (data : List Byte) (s : State) :
    EventFrame s (recordCore source sev code data s).s := by
  unfold recordCore
  dsimp only
  cases (s.enabled 14 && (if 4 ≤ sev then decide (1 ≤ s.evt.bucket) else decide (16 < s.evt.bucket)))
  · rw [if_neg (by decide)]
    exact (EventFrame.evt s _).trans (dropped_frame source _)
  · rw [if_pos rfl]
    dsimp only
    generalize hr : recordBytes source sev _ code _ 0 s.mclk.frameCnt.toNat data = r
    generalize he : ({ s.evt with seq := _, begun := _, bucket := _, jwait := _ } : Evt) = e
    exact (EventFrame.evt s e).trans (offered_frame r source sev { s with evt := e })

theorem pulse_frame (p : Nat) (h : p < 256) (s : State) : EventFrame s (pulse p s) := by
  refine .wr _ _ _ ?_
  have : 0x40001400 ≤ intPendAddr (p / 32) ∧ intPendAddr (p / 32) < 0x40001420 := by unfold intPendAddr; omega
  simp [recordReg, this]

theorem overrunRecord_frame (s : State) : EventFrame s (overrunRecord s) :=
  ((EventFrame.setSq _ _ _ (.inr rfl)).trans (pulse_frame 160 (by decide) _)).trans (recordCore_frame _ _ _ _ _)

/-- Making a record changes the event block, its registers and its ring, and what subscribers hold, and nothing else. -/
theorem makeRecord_frame (source sev code : Nat) (data : List Byte) (s : State) :
    EventFrame s (makeRecord source sev code data s) := by
  have h := recordCore_frame source sev code data s
  unfold makeRecord
  dsimp only
  have step : EventFrame s (if (recordCore source sev code data s).bits = [] then (recordCore source sev code data s).s
      else
        let s2 := pulse 224 ((recordCore source sev code data s).s.setSq Reg.evtEvt
          (((recordCore source sev code data s).s.sq Reg.evtEvt).event (recordCore source sev code data s).bits))
        let o2 := recordCore 15 3 ((0x0030 / 4) * 16 + (recordCore source sev code data s).bits.headD 0)
          (dataWords (s2.sq Reg.evtEvt).view 0#32 0#32) s2
        if o2.bits = [] then o2.s else o2.s.setSq Reg.evtEvt ((o2.s.sq Reg.evtEvt).join o2.bits)) := by
    split
    · exact h
    · dsimp only
      have h2 := ((h.trans (.setSq _ Reg.evtEvt (((recordCore source sev code data s).s.sq Reg.evtEvt).event
        (recordCore source sev code data s).bits) (.inl rfl))).trans (pulse_frame 224 (by decide) _)).trans
        (recordCore_frame 15 3 ((0x0030 / 4) * 16 + (recordCore source sev code data s).bits.headD 0)
          (dataWords ((pulse 224 ((recordCore source sev code data s).s.setSq Reg.evtEvt
            (((recordCore source sev code data s).s.sq Reg.evtEvt).event (recordCore source sev code data s).bits))).sq
              Reg.evtEvt).view 0#32 0#32) _)
      split
      · exact h2
      · exact h2.trans (.setSq _ _ _ (.inl rfl))
  split
  · exact step.trans (overrunRecord_frame _)
  · exact step

theorem sqPulse_lt (a p : Nat) (h : sqPulse a = some p) : p < 256 := by
  unfold sqPulse at h
  split at h <;> first | (injection h with h; omega) | contradiction

/-- A setting event with bits to set: everything but the register itself, as `EventFrame` says, from the state in which it
has been set. -/
theorem sqSetX_frame (a : Nat) (bits : List Nat) (sev : Option Nat) (extra : Word) (s : State) (h : bits ≠ []) :
    EventFrame (s.setSq a ((s.sq a).event bits)) (sqSetX a bits sev extra s) := by
  have hp : EventFrame (s.setSq a ((s.sq a).event bits)) (match sqPulse a with
      | some p => pulse p (s.setSq a ((s.sq a).event bits))
      | none => s.setSq a ((s.sq a).event bits)) := by
    split
    · exact pulse_frame _ (sqPulse_lt a _ (by assumption)) _
    · exact .refl _
  unfold sqSetX sqSetData
  rw [if_neg h]
  dsimp only
  split
  · exact hp
  · exact hp.trans (makeRecord_frame _ _ _ _ _)

theorem sqSet_frame (a b : Nat) (s : State) : EventFrame (s.setSq a ((s.sq a).event [b])) (sqSet a [b] s) :=
  sqSetX_frame a [b] none 0#32 s (by simp)

/-- A register that no record touches reads as before after a setting event. -/
theorem sqSet_rd (a b k : Nat) (s : State) (h : recordReg k = false) : (sqSet a [b] s).rd k = s.rd k :=
  (sqSet_frame a b s).regs k h

/-- What a setting event leaves as it was, outside the stores and the event block. -/
theorem sqSet_rest (a b : Nat) (s : State) :
    sqSet a [b] s = { s with regs := (sqSet a [b] s).regs, mem := (sqSet a [b] s).mem,
                             ecc := (sqSet a [b] s).ecc, sqs := (sqSet a [b] s).sqs,
                             evt := (sqSet a [b] s).evt,
                             dict := { s.dict with tenants := (sqSet a [b] s).dict.tenants } } := by
  have h := (sqSet_frame a b s).rest
  rw [h]
  rfl

/-- The register's own value after the event, unless the record reports itself there. -/
theorem sqSet_sq (a b : Nat) (s : State) (h1 : a ≠ Reg.evtEvt) (h2 : a ≠ 0x400A0808) :
    (sqSet a [b] s).sq a = (s.sq a).event [b] := by
  rw [(sqSet_frame a b s).sqs a h1 h2]
  simp [State.sq, State.setSq]

end Sys2Proof.Machine
end

