-- ==== Sys2Proof/Laws/Cores.lean ====
section
/-! SUPPORT. What a core that stands ready does with one instruction, whatever its class. -/

namespace Sys2Proof.Machine
open Sys2Proof

/-- The instructions that run as one piece: no block operation, no RETI, WAIT or SYS. -/
def plainOp (op : AOp) : Bool := !isBlockOp op && op != .reti && op != .wait && op != .sys

/-- What a read of the Keep leaves touches no core. -/
theorem keepNoted_ctl (a n : Nat) (s : State) : (keepNoted a n s).ctl = s.ctl := by
  have h1 : ∀ t : State, t.ctl = s.ctl → (keepEvent 3 t).ctl = s.ctl := by
    intro t ht
    unfold keepEvent
    rw [sqSet_rest]
    exact ht
  unfold keepNoted
  extract_lets h s1
  have h2 : s1.ctl = s.ctl := by unfold s1; split <;> rfl
  split
  · exact h1 _ h2
  · exact h2

/-- The instruction cache takes a line: no core's registers and answers change. -/
theorem icacheFill_core (k line j : Nat) (s : State) :
    ((icacheFill k line s).ctlCore j).r = (s.ctlCore j).r ∧ ((icacheFill k line s).ctlCore j).rets = (s.ctlCore j).rets := by
  unfold icacheFill
  dsimp only
  split
  · exact ⟨rfl, rfl⟩
  · have hc : (if regionOf (32 * line) = .keep then keepNoted (32 * line) 32 s else s).ctl = s.ctl := by
      split
      · exact keepNoted_ctl _ _ _
      · rfl
    simp only [State.ctlCore, State.setCtl, hc]
    by_cases hj : j = k
    · subst hj; simp
    · rw [tget_tset_other _ _ _ _ _ _ hj]; simp

/-- A fetch leaves the core's registers and answers. -/
theorem fetchLines_core (c : CoreId) (i : AInstr) (pc : Word) (j : Nat) (s : State) :
    ((fetchLines c i pc s).ctlCore j).r = (s.ctlCore j).r ∧ ((fetchLines c i pc s).ctlCore j).rets = (s.ctlCore j).rets := by
  unfold fetchLines
  split
  · exact ⟨rfl, rfl⟩
  · have h1 := icacheFill_core (ctlIndex c) (pc.toNat / 32) j s
    have h2 := icacheFill_core (ctlIndex c) ((pc.toNat + instrLen i - 1) / 32) j (icacheFill (ctlIndex c) (pc.toNat / 32) s)
    exact ⟨h2.1.trans h1.1, h2.2.trans h1.2⟩

theorem fetchLines_rets (c : CoreId) (i : AInstr) (pc : Word) (s : State) : retsOf c (fetchLines c i pc s) = retsOf c s :=
  (fetchLines_core _ _ _ _ _).2

/-- A ledger cause leaves the core's slots and domain. -/
theorem recordCause_slots (n k : Nat) (s : State) :
    ((recordCause n k s).sc n).slot = (s.sc n).slot ∧ ((recordCause n k s).sc n).dom = (s.sc n).dom := by
  have h : ∀ c : SampleCore, (if c.cause = 0 then { c with cause := k } else c).slot = c.slot
      ∧ (if c.cause = 0 then { c with cause := k } else c).dom = c.dom := by
    intro c
    by_cases hc : c.cause = 0 <;> simp [hc]
  simp only [recordCause, State.modSc, State.sc, State.setSc, tget_tset_self]
  exact h _

/-- What a fetch meets on a sample core leaves its slots and its domain. -/
theorem scMet_slots (n : Nat) (h : Nat × Bool) (s : State) :
    ((scMet n h s).sc n).slot = (s.sc n).slot ∧ ((scMet n h s).sc n).dom = (s.sc n).dom := by
  unfold scMet
  extract_lets s1
  have h1 : (s1.sc n).slot = (s.sc n).slot ∧ (s1.sc n).dom = (s.sc n).dom := by
    unfold s1
    split
    · exact ⟨rfl, rfl⟩
    · simp [State.modSc, State.sc, State.setSc]
  clear_value s1
  split
  · exact ⟨(recordCause_slots _ _ _).1.trans h1.1, (recordCause_slots _ _ _).2.trans h1.2⟩
  · exact h1

/-- A ready control-class core runs an instruction whose piece ends well. -/
theorem ctlRun_plain (c : CoreId) (op : AOp) (e : Enc) (cc k : Nat) (s : State) (x : RunSt) (hs : isSample c = false)
    (h : coreReady c ⟨op, e, cc⟩ s = true) (hst : (s.ctlCore (ctlIndex c)).st = .run) (hint : interruptDue c s = none)
    (hff : fetchFails c s ⟨op, e, cc⟩ (regsOf c s).pc = none) (hfz : fetchZero c s ⟨op, e, cc⟩ (regsOf c s).pc = none)
    (hp : plainOp op = true) (hx : x.ecc = none)
    (hb : opBody c ⟨op, e, cc⟩ (regsOf c s).pc (nextPc ⟨op, e, cc⟩ (regsOf c s).pc)
      ⟨fetchLines c ⟨op, e, cc⟩ (regsOf c s).pc s, retsOf c s, [], none⟩ = .ok () x) :
    ctlRun c ⟨op, e, cc⟩ k s = setRegs c { regsOf c (setRets c [] x.s) with
      skp := if op = .skp then (regsOf c (setRets c [] x.s)).skp else none } (setRets c [] x.s) := by
  simp only [plainOp, Bool.and_eq_true, Bool.not_eq_true', bne_iff_ne] at hp
  obtain ⟨⟨⟨hbk, h1⟩, h2⟩, h3⟩ := hp
  simp only [coreReady, Bool.and_eq_true, Bool.or_eq_true, beq_iff_eq, Option.isNone_iff_eq_none, Bool.not_eq_true'] at h
  obtain ⟨⟨⟨⟨hl, hrpt⟩, hrpti⟩, hskp⟩, -⟩ := h
  have hbad : badPair (regsOf c s) op = false := by
    unfold badPair
    rcases hskp with hskp | ⟨_, hskp⟩ <;> simp [hrpt, hrpti, hskp]
  have hns : ¬ ((regsOf c s).skp.map (·.2)) = some false := by
    rcases hskp with hskp | ⟨hskp, _⟩ <;> simp [hskp]
  have ha : attempt c (regsOf c s).pc (opBody c ⟨op, e, cc⟩ (regsOf c s).pc (nextPc ⟨op, e, cc⟩ (regsOf c s).pc))
      (fetchLines c ⟨op, e, cc⟩ (regsOf c s).pc s) = .done (setRets c [] x.s) := by
    unfold attempt andThen eccCheck
    rw [fetchLines_rets, hb]
    simp only [hx]
  unfold ctlRun
  simp only [hst, hint, ne_eq, not_true_eq_false, if_false, hff, hfz, hbad, hl, hrpt, hrpti, hns, Option.isSome_none,
    Bool.false_eq_true, Bool.not_true, h1, h2, or_self, false_and]
  unfold ctlOnce
  simp only [hbk, Bool.false_eq_true, if_false]
  cases op <;> simp_all

/-- A ready core runs an instruction whose piece ends well and met no ECC error, from where it begins to where it ends. -/
theorem coreRun_plain (c : CoreId) (op : AOp) (e : Enc) (cc k : Nat) (s : State) (x : RunSt)
    (h : coreReady c ⟨op, e, cc⟩ s = true) (hp : plainOp op = true) (hx : isSample c = false → x.ecc = none)
    (hb : opBody c ⟨op, e, cc⟩ (regsOf c s).pc (nextPc ⟨op, e, cc⟩ (regsOf c s).pc) (coreBegin c ⟨op, e, cc⟩ s) = .ok () x) :
    coreRun c op e cc k s = coreEnd c ⟨op, e, cc⟩ x.s := by
  cases c with
  | sc n =>
    simp only [plainOp, Bool.and_eq_true, Bool.not_eq_true', bne_iff_ne] at hp
    obtain ⟨⟨⟨hbk, h1⟩, h2⟩, h3⟩ := hp
    simp only [coreReady, Bool.and_eq_true, Bool.or_eq_true, beq_iff_eq, Option.isNone_iff_eq_none, Bool.not_eq_true'] at h
    obtain ⟨⟨⟨⟨hl, hrpt⟩, hrpti⟩, hskp⟩, ⟨hact, hfet⟩, hfit⟩ := h
    have hrpt' : (s.sc n.val).r.rpt = none := hrpt
    have hbad : (((s.sc n.val).r.rpt.isSome && badAfterRpt op) || ((s.sc n.val).r.skp.isSome && badAfterSkp op)) = false := by
      rcases hskp with hskp | ⟨_, hskp⟩
      · have : (s.sc n.val).r.skp = none := hskp
        simp [hrpt', this]
      · simp [hrpt', hskp]
    have hgo : (s.sc n.val).r.skp = none ∨ ∃ p, (s.sc n.val).r.skp = some (p, true) := by
      rcases hskp with hskp | ⟨hskp, _⟩
      · exact .inl hskp
      · obtain ⟨⟨p, b⟩, h1, h2⟩ := Option.map_eq_some_iff.mp hskp
        exact .inr ⟨p, by rw [← h2]; exact h1⟩
    rw [hrpt'] at hbad
    have hsc : slotCost ⟨op, e, cc⟩ = baseCost op := by
      cases op <;> simp_all [slotCost, elemCost, isBlockOp]
    rw [hsc] at hfit
    generalize hm : scMet n.val (eccHit s (s.sc n.val).r.pc.toNat (instrLen ⟨op, e, cc⟩)) s = s0 at *
    have hcore : (s0.sc n.val).slot = (s.sc n.val).slot ∧ (s0.sc n.val).dom = (s.sc n.val).dom := by
      rw [← hm]; exact scMet_slots _ _ _
    have hfit' : scFits (scRegs n noPrefix s0) n.val (baseCost op) = true := by
      have h6 := of_decide_eq_true hfit
      simp only [scFits, scRegs, setRegs, State.modSc, State.setSc, slotLimit]
      refine decide_eq_true ?_
      simp only [slotLimit, ← hcore.1, ← hcore.2] at h6
      simpa [State.sc] using h6
    have hfet' : scFetchable s n.val (s.sc n.val).r.pc.toNat (instrLen ⟨op, e, cc⟩) = true := hfet
    have hb' : opBody (.sc n) ⟨op, e, cc⟩ (s.sc n.val).r.pc (nextPc ⟨op, e, cc⟩ (s.sc n.val).r.pc)
        ⟨scRegs n noPrefix s0, [], [], none⟩ = .ok () x := by rw [← hm]; exact hb
    show scRun n ⟨op, e, cc⟩ s = _
    unfold scRun
    dsimp only
    rw [hm]
    rcases hgo with hgo | ⟨p, hgo⟩ <;> rw [hgo] at hbad <;> simp only [hact, hfet', hgo, hrpt', hbad, hl, hbk] <;>
      rw [if_neg (by decide), if_neg (by decide), if_neg (by decide), if_neg (by decide), if_neg (by decide)] <;>
    simp only [scRepeat, scOnce, hfit', if_true, Bool.false_eq_true, if_false, Bool.or_true, Bool.false_or, Bool.or_false, hb', runPlain, coreEnd]
  | cc n =>
    have h' := h
    simp only [coreReady, Bool.and_eq_true, beq_iff_eq, Option.isNone_iff_eq_none] at h'
    obtain ⟨-, ⟨⟨⟨hst, hint⟩, hff⟩, hfz⟩, -⟩ := h'
    exact ctlRun_plain _ _ _ _ _ _ _ rfl h hst hint hff hfz hp (hx rfl) hb
  | warden =>
    have h' := h
    simp only [coreReady, Bool.and_eq_true, beq_iff_eq, Option.isNone_iff_eq_none] at h'
    obtain ⟨-, ⟨⟨⟨hst, hint⟩, hff⟩, hfz⟩, -⟩ := h'
    exact ctlRun_plain _ _ _ _ _ _ _ rfl h hst hint hff hfz hp (hx rfl) hb

/-- The same of the command. -/
theorem exec_plain {I : Instr} (c : CoreId) (op : AOp) (e : Enc) (cc k : Nat) (s : State) (x : RunSt)
    (hI : exec I s = .next (coreRun c op e cc k s)) (h : coreReady c ⟨op, e, cc⟩ s = true) (hp : plainOp op = true)
    (hx : isSample c = false → x.ecc = none)
    (hb : opBody c ⟨op, e, cc⟩ (regsOf c s).pc (nextPc ⟨op, e, cc⟩ (regsOf c s).pc) (coreBegin c ⟨op, e, cc⟩ s)
      = .ok () x) :
    exec I s = .next (coreEnd c ⟨op, e, cc⟩ x.s) := by
  rw [hI, coreRun_plain c op e cc k s _ h hp hx hb]

/-- Writes into NET that are answered leave the ECC exception that waits. -/
theorem netWrites_ecc (c : CoreId) (ws : List CoreWrite) (x w : RunSt) (h : netWrites c ws x = .ok () w) : w.ecc = x.ecc := by
  induction ws generalizing x with
  | nil => cases h; rfl
  | cons a ws ih =>
    unfold netWrites at h
    split at h
    · cases hr : replayed? a.addr.toNat true x with
      | some r =>
        rw [hr] at h
        dsimp only at h
        have hx : r.2.ecc = x.ecc := by
          unfold replayed? at hr
          split at hr
          · split at hr
            · cases hr; rfl
            · cases hr
          · cases hr
        cases hres : r.1.res with
        | some v => rw [hres] at h; exact (ih _ h).trans hx
        | none => rw [hres] at h; cases h
      | none => rw [hr] at h; unfold stallWith at h; cases h
    · exact ih _ h

/-- A control-class core whose writes were made met no ECC error. -/
theorem writeAll_ecc (c : CoreId) (ws : List CoreWrite) (x w : RunSt) (hc : isSample c = false)
    (h : writeAll c ws x = .ok () w) : w.ecc = none := by
  have key : ∀ f : State → State, andThen eccCheck (fun _ => andThen (netWrites c ws) fun _ =>
      andThen (roomFor c ws) fun _ => upd f) x = .ok () w → w.ecc = none := by
    intro f h
    unfold andThen eccCheck at h
    cases hx : x.ecc with
    | some g => rw [hx] at h; cases h
    | none =>
      rw [hx] at h
      dsimp only at h
      cases hn : netWrites c ws x with
      | ok a y =>
        rw [hn] at h
        dsimp only at h
        have hy := (netWrites_ecc c ws x y hn).trans hx
        unfold roomFor at h
        dsimp only at h
        split at h
        · next hr =>
          split at hr
          · cases hr; cases h; exact hy
          · unfold stallWith at hr; cases hr
        · cases h
        · cases h
      | flt g y => rw [hn] at h; cases h
      | stall y => rw [hn] at h; cases h
  cases c with
  | sc n => cases hc
  | cc n => exact key _ h
  | warden => exact key _ h

end Sys2Proof.Machine
end

