-- ==== Sys2Proof/Laws/Flags.lean ====
section
/-! SUPPORT. The bits of PSW after each of its setters, and the digit carries. -/

namespace Sys2Proof.Machine

@[simp] theorem getLsbD_wsetBit (w : Word) (i j : Nat) (b : Bool) (h : i < 32) :
    (wsetBit w i b).getLsbD j = if j = i then b else w.getLsbD j := by
  have hm : (BitVec.ofNat 32 (2 ^ i)).getLsbD j = decide (j = i) := by
    simp only [BitVec.getLsbD_ofNat, Nat.testBit_two_pow]
    by_cases e : j = i
    · subst e; simp [h]
    · simp [e, Ne.symm e]
  unfold wsetBit
  cases b
  · simp only [Bool.false_eq_true, if_false, BitVec.getLsbD_and, BitVec.getLsbD_not, hm]
    by_cases e : j = i
    · simp [e]
    · by_cases hj : j < 32
      · simp [e, hj]
      · simp [e, hj, BitVec.getLsbD_of_ge w j (by omega)]
  · simp only [if_true, BitVec.getLsbD_or, hm]
    by_cases e : j = i <;> simp [e]

@[simp] theorem getLsbD_pswSetNC (w : Word) (nc j : Nat) :
    (pswSetNC w nc).getLsbD j = if 16 ≤ j ∧ j < 24 then nc.testBit (j - 16) else w.getLsbD j := by
  by_cases hj : j < 32
  · unfold pswSetNC
    simp only [BitVec.getLsbD_or, BitVec.getLsbD_and, BitVec.getLsbD_ofNat]
    have e1 : nc % 256 * 65536 = (nc % 2 ^ 8) * 2 ^ 16 := rfl
    rw [e1, Nat.testBit_mul_two_pow, Nat.testBit_mod_two_pow]
    have hm : ∀ j : Fin 32, (0xFF00FFFF : Nat).testBit j.val = !(decide (16 ≤ j.val) && decide (j.val < 24)) := by decide
    have hm' := hm ⟨j, hj⟩
    simp only at hm'
    rw [hm']
    by_cases h1 : 16 ≤ j
    · by_cases h2 : j < 24
      · simp [h1, h2, hj, show j - 16 < 8 by omega]
      · simp [h1, h2, hj, show ¬ j - 16 < 8 by omega]
    · simp [h1, hj]
  · rw [BitVec.getLsbD_of_ge _ _ (by omega), if_neg (by omega), BitVec.getLsbD_of_ge _ _ (by omega)]

theorem ncMask_succ (d : Nat) (f : Nat → Bool) : ncMask (d + 1) f = if f d then ncMask d f + 2 ^ d else ncMask d f := by
  simp [ncMask, List.range_succ, List.foldl_append]

theorem ncMask_lt (d : Nat) (f : Nat → Bool) : ncMask d f < 2 ^ d := by
  induction d with
  | zero => simp [ncMask]
  | succ d ih =>
    rw [ncMask_succ, Nat.pow_succ]
    split <;> omega

@[simp] theorem testBit_ncMask (d : Nat) (f : Nat → Bool) (k : Nat) :
    (ncMask d f).testBit k = (decide (k < d) && f k) := by
  induction d with
  | zero => simp [ncMask]
  | succ d ih =>
    have hlt := ncMask_lt d f
    rw [ncMask_succ]
    by_cases hk : k = d
    · subst hk
      cases hf : f k
      · simp [Nat.testBit_lt_two_pow hlt]
      · rw [if_pos rfl, Nat.add_comm, Nat.testBit_two_pow_add_eq, Nat.testBit_lt_two_pow hlt]
        simp
    · cases hf : f d
      · simp only [Bool.false_eq_true, if_false, ih]
        by_cases h1 : k < d
        · simp [h1, Nat.lt_succ_of_lt h1]
        · simp [h1, show ¬ k < d + 1 by omega]
      · rw [if_pos rfl]
        by_cases h1 : k < d
        · rw [Nat.add_comm, Nat.testBit_two_pow_add_gt h1, ih]
          simp [h1, Nat.lt_succ_of_lt h1]
        · have h2 : ncMask d f + 2 ^ d < 2 ^ k := by
            have h3 : 2 ^ (d + 1) ≤ 2 ^ k := Nat.pow_le_pow_right (by decide) (by omega)
            rw [Nat.pow_succ] at h3
            omega
          rw [Nat.testBit_lt_two_pow h2]
          simp [show ¬ k < d + 1 by omega]

end Sys2Proof.Machine
end

