-- ==== Sys2Proof/Laws/Keeps.lean ====
section
/-! SUPPORT. What every operation of the model keeps: the canonical forms of the stores, the queue of waiting commands, and the
fuse rows, which only gain. One lemma per operation, each used by the lemmas of the operations that call it. -/

namespace Sys2Proof.Machine
open Sys2Proof

theorem FusesGrow.refl (f : Fuses) : FusesGrow f f := ⟨BitVec.and_self, Nat.le_refl _, rfl⟩

theorem FusesGrow.trans {f g k : Fuses} (a : FusesGrow f g) (b : FusesGrow g k) : FusesGrow f k := by
  obtain ⟨a1, a2, a3⟩ := a
  obtain ⟨b1, b2, b3⟩ := b
  refine ⟨?_, Nat.le_trans a2 b2, ?_⟩
  · rw [← a1, BitVec.and_assoc, b1]
  · rw [b3, a3]

/-- `t` may follow from `s`: what the stores' forms, the queue and the fuses ask of every operation. -/
structure Keeps (s t : State) : Prop where
  canon : s.Canonical → t.Canonical
  pend : t.pending = s.pending
  fuses : FusesGrow s.ward.fuses t.ward.fuses

theorem Keeps.refl (s : State) : Keeps s s := ⟨id, rfl, FusesGrow.refl _⟩

theorem Keeps.trans {s t u : State} (a : Keeps s t) (b : Keeps t u) : Keeps s u :=
  ⟨fun c => b.canon (a.canon c), b.pend.trans a.pend, a.fuses.trans b.fuses⟩

/-- A record update that leaves the stores, the queue and the fuses as they are. -/
theorem Keeps.mk_same {s0 s : State} (h : Keeps s0 s) {bus clk mclk bridges ctl eng safe weld qnch tone tdm net dict ril
    dma sense ports msg evt modes ward power free} (hw : ward.fuses = s.ward.fuses) :
    Keeps s0 ⟨s.regs, s.wbPend, s.sqs, s.mem, s.flash, s.ecc, bus, clk, mclk, bridges, ctl, eng, safe, weld, qnch, tone, tdm, net,
      dict, ril, dma, sense, ports, msg, evt, modes, ward, power, free, s.pending⟩ :=
  ⟨fun c => let k := h.canon c; ⟨k.mem, k.flash, k.ecc, k.regs, k.wbPend, k.sqs⟩, h.pend, hw ▸ h.fuses⟩

/-- A record update that changes the byte memories as well. -/
theorem Keeps.mk_mem {s0 s : State} (h : Keeps s0 s) {mem flash ecc bus clk mclk bridges ctl eng safe weld qnch tone tdm net dict
    ril dma sense ports msg evt modes ward power free} (hm : Memory.wf s.mem = true → Memory.wf mem = true)
    (hf : Memory.wf s.flash = true → Memory.wf flash = true)
    (he : twf (fun _ => 0) s.ecc = true → twf (fun _ => 0) ecc = true) (hw : ward.fuses = s.ward.fuses) :
    Keeps s0 ⟨s.regs, s.wbPend, s.sqs, mem, flash, ecc, bus, clk, mclk, bridges, ctl, eng, safe, weld, qnch, tone, tdm, net,
      dict, ril, dma, sense, ports, msg, evt, modes, ward, power, free, s.pending⟩ :=
  ⟨fun c => let k := h.canon c; ⟨hm k.mem, hf k.flash, he k.ecc, k.regs, k.wbPend, k.sqs⟩, h.pend, hw ▸ h.fuses⟩

/-- A record update that changes any of the stores: each keeps its form. -/
theorem Keeps.mk_all {s0 : State} (s : State) (h : Keeps s0 s) {regs wbPend sqs mem flash ecc bus clk mclk bridges ctl eng safe weld
    qnch tone tdm net dict ril dma sense ports msg evt modes ward power free}
    (hr : twf regDefault s.regs = true → twf regDefault regs = true)
    (hw : twf (fun _ => none) s.wbPend = true → twf (fun _ => none) wbPend = true)
    (hq : twf (fun _ => SqReg.zero) s.sqs = true → twf (fun _ => SqReg.zero) sqs = true)
    (hm : Memory.wf s.mem = true → Memory.wf mem = true) (hf : Memory.wf s.flash = true → Memory.wf flash = true)
    (he : twf (fun _ => 0) s.ecc = true → twf (fun _ => 0) ecc = true) (hu : FusesGrow s.ward.fuses ward.fuses) {pending : List Instr} (hp : pending = s.pending) :
    Keeps s0 ⟨regs, wbPend, sqs, mem, flash, ecc, bus, clk, mclk, bridges, ctl, eng, safe, weld, qnch, tone, tdm, net,
      dict, ril, dma, sense, ports, msg, evt, modes, ward, power, free, pending⟩ :=
  ⟨fun c => let k := h.canon c; ⟨hm k.mem, hf k.flash, he k.ecc, hr k.regs, hw k.wbPend, hq k.sqs⟩, hp.trans h.pend,
    h.fuses.trans hu⟩

theorem Keeps.wbSet {s0 s : State} (a : Nat) (v : Option Word) (h : Keeps s0 s) :
    Keeps s0 { s with wbPend := tset none s.wbPend a v } :=
  ⟨fun c => let k := h.canon c; ⟨k.mem, k.flash, k.ecc, k.regs, twf_tset (fun _ => none) _ _ _ k.wbPend, k.sqs⟩, h.pend, h.fuses⟩

theorem Keeps.wbFilter {s0 s : State} (p : Nat × Option Word → Bool) (h : Keeps s0 s) :
    Keeps s0 { s with wbPend := s.wbPend.filter p } :=
  ⟨fun c => let k := h.canon c; ⟨k.mem, k.flash, k.ecc, k.regs, twf_filter _ _ _ k.wbPend, k.sqs⟩, h.pend, h.fuses⟩

theorem Keeps.regsFilter {s0 s : State} (p : Nat × Word → Bool) (h : Keeps s0 s) :
    Keeps s0 { s with regs := s.regs.filter p } :=
  ⟨fun c => let k := h.canon c; ⟨k.mem, k.flash, k.ecc, twf_filter _ _ _ k.regs, k.wbPend, k.sqs⟩, h.pend, h.fuses⟩

theorem Keeps.ite {s0 a b : State} {c : Prop} [Decidable c] (ha : Keeps s0 a) (hb : Keeps s0 b) :
    Keeps s0 (if c then a else b) := by
  split
  · exact ha
  · exact hb

theorem Keeps.foldl {α : Type} {s0 s : State} {f : State → α → State} {l : List α}
    (hf : ∀ t x, Keeps s0 t → Keeps s0 (f t x)) (h : Keeps s0 s) : Keeps s0 (l.foldl f s) := by
  induction l generalizing s with
  | nil => exact h
  | cons x l ih => exact ih (hf _ _ h)

/-- A fold that carries a state beside other values. -/
theorem Keeps.foldl_of {α β : Type} {s0 : State} {f : β → α → β} {l : List α} {p : β → State}
    (hf : ∀ t x, Keeps s0 (p t) → Keeps s0 (p (f t x))) {b : β} (h : Keeps s0 (p b)) : Keeps s0 (p (l.foldl f b)) := by
  induction l generalizing b with
  | nil => exact h
  | cons x l ih => exact ih (hf _ _ h)

/-! ### The stores -/

theorem wr_keeps {s0 s : State} (a : Nat) (v : Word) (h : Keeps s0 s) : Keeps s0 (s.wr a v) :=
  ⟨fun c => let k := h.canon c; ⟨k.mem, k.flash, k.ecc, twf_tset regDefault _ _ _ k.regs, k.wbPend, k.sqs⟩, h.pend, h.fuses⟩

theorem setSq_keeps {s0 s : State} (a : Nat) (q : SqReg) (h : Keeps s0 s) : Keeps s0 (s.setSq a q) :=
  ⟨fun c => let k := h.canon c; ⟨k.mem, k.flash, k.ecc, k.regs, k.wbPend, twf_tset (fun _ => SqReg.zero) _ _ _ k.sqs⟩, h.pend,
    h.fuses⟩

theorem eccOut_wf (a n : Nat) {e : Table Nat} (h : twf (fun _ => 0) e = true) : twf (fun _ => 0) (eccOut a n e) = true :=
  twf_filter _ _ _ h

theorem mwrBytes_keeps {s0 s : State} (a : Nat) (l : List Byte) (h : Keeps s0 s) : Keeps s0 (s.mwrBytes a l) :=
  h.mk_mem (Memory.wf_memPutBytes _ _ _) id (eccOut_wf _ _) rfl

theorem mwr_keeps {s0 s : State} (a n v : Nat) (h : Keeps s0 s) : Keeps s0 (s.mwr a n v) :=
  h.mk_mem (Memory.wf_memPutBytes _ _ _) id (eccOut_wf _ _) rfl

theorem modWard_keeps {s0 s : State} (f : Warden → Warden) (h : Keeps s0 s) (hf : ∀ w, (f w).fuses = w.fuses) :
    Keeps s0 (s.modWard f) := h.mk_same (hf _)

end Sys2Proof.Machine
end

