-- ==== Sys2Proof/Laws/KeepsOps.lean ====
section
/-! SUPPORT. What the operations of Machine/Ops.lean keep (Laws/Keeps.lean says what that is). -/

namespace Sys2Proof.Machine
open Sys2Proof

theorem eccUpset_keeps {s0 : State} (u : Nat × Nat) {s : State} (h : Keeps s0 s) :
    Keeps s0 (eccUpset u s) := by
  unfold eccUpset
  exact Keeps.ite h (h.mk_mem (Memory.wf_memPutBytes _ _ _) id (twf_tset (fun _ => 0) _ _ _) rfl)

theorem mclr_keeps {s0 : State} (lo : Nat) (hi : Nat) {s : State} (h : Keeps s0 s) :
    Keeps s0 (State.mclr s lo hi) :=
  h.mk_mem (Memory.wf_memZero _ _ _) id (eccOut_wf _ _) rfl

theorem wrn_keeps {s0 : State} (a : Nat) (v : Nat) {s : State} (h : Keeps s0 s) :
    Keeps s0 (State.wrn s a v) := by
  unfold State.wrn
  simp (maxDischargeDepth := 99) (etaStruct := .none) only [h, wr_keeps]

theorem wrf_keeps {s0 : State} (a : Nat) (lo : Nat) (n : Nat) (v : Nat) {s : State} (h : Keeps s0 s) :
    Keeps s0 (State.wrf s a lo n v) := by
  unfold State.wrf
  simp (maxDischargeDepth := 99) (etaStruct := .none) only [h, wr_keeps]

theorem wrb_keeps {s0 : State} (a : Nat) (i : Nat) (b : Bool) {s : State} (h : Keeps s0 s) :
    Keeps s0 (State.wrb s a i b) := by
  unfold State.wrb
  simp (maxDischargeDepth := 99) (etaStruct := .none) only [h, wr_keeps]

theorem inc_keeps {s0 : State} (a : Nat) {s : State} (h : Keeps s0 s) :
    Keeps s0 (State.inc s a) := by
  unfold State.inc
  simp (maxDischargeDepth := 99) (etaStruct := .none) only [h, wr_keeps]

theorem addSat_keeps {s0 : State} (a : Nat) (k : Nat) {s : State} (h : Keeps s0 s) :
    Keeps s0 (State.addSat s a k) := by
  unfold State.addSat
  repeat' (first | intro _ | (simp (maxDischargeDepth := 99) (etaStruct := .none) only [*, rdf_keeps, wrf_keeps, Keeps.ite, Keeps.mk_same]; done) | with_reducible assumption | with_reducible rfl | with_reducible apply Keeps.ite | with_reducible apply rdf_keeps | with_reducible apply wrf_keeps | with_reducible apply Keeps.foldl | split | dsimp only)

theorem incSat_keeps {s0 : State} (a : Nat) {s : State} (h : Keeps s0 s) :
    Keeps s0 (State.incSat s a) := by
  unfold State.incSat
  simp (maxDischargeDepth := 99) (etaStruct := .none) only [h, wrf_keeps, Keeps.ite]

theorem draw_keeps {s0 : State}  {s : State} (h : Keeps s0 s) :
    Keeps s0 (State.draw s).2 := by
  unfold State.draw
  simp (maxDischargeDepth := 99) (etaStruct := .none) only [h, Keeps.mk_same]

theorem pulse_keeps {s0 : State} (src : Nat) {s : State} (h : Keeps s0 s) :
    Keeps s0 (pulse src s) := by
  unfold pulse
  simp (maxDischargeDepth := 99) (etaStruct := .none) only [h, wrb_keeps]

theorem unlatch_keeps {s0 : State} (src : Nat) {s : State} (h : Keeps s0 s) :
    Keeps s0 (unlatch src s) := by
  unfold unlatch
  simp (maxDischargeDepth := 99) (etaStruct := .none) only [h, wrb_keeps]

theorem setTenant_keeps {s0 : State} (t : Nat) (x : Tenant) {s : State} (h : Keeps s0 s) :
    Keeps s0 (State.setTenant s t x) := by
  unfold State.setTenant
  simp (maxDischargeDepth := 99) (etaStruct := .none) only [h, Keeps.mk_same]

theorem modTenant_keeps {s0 : State} (t : Nat) (f : Tenant → Tenant) {s : State} (h : Keeps s0 s) :
    Keeps s0 (State.modTenant s t f) := by
  unfold State.modTenant
  simp (maxDischargeDepth := 99) (etaStruct := .none) only [h, setTenant_keeps]

theorem offerEvent_keeps {s0 : State} (r : List Byte) (source : Nat) (sev : Nat) (t : Nat) {s : State} (h : Keeps s0 s) :
    Keeps s0 (offerEvent r source sev t s).1 := by
  unfold offerEvent
  repeat' (first | (simp (maxDischargeDepth := 99) (etaStruct := .none) +contextual only [h, setTenant_keeps, Keeps.ite, apply_ite Prod.fst]; done) | split)

theorem offerTap_keeps {s0 : State} (r : List Byte) (source : Nat) (sev : Nat) (t : Nat) {s : State} (h : Keeps s0 s) :
    Keeps s0 (offerTap r source sev t s).1 := by
  unfold offerTap
  repeat' (first | (simp (maxDischargeDepth := 99) (etaStruct := .none) +contextual only [h, setTenant_keeps, Keeps.ite, apply_ite Prod.fst]; done) | split)

theorem offerAll_keeps {s0 : State} {offer : Nat → State → State × Bool} {s : State} (h : Keeps s0 s)
    (ho : ∀ t x, Keeps s0 x → Keeps s0 (offer t x).1) : Keeps s0 (offerAll offer s).1 := by
  unfold offerAll
  refine Keeps.foldl_of (p := fun x : State × Bool => x.1) ?_ ?_
  · exact fun t x ht => ho x t.1 ht
  · exact h

theorem ringPut_keeps {s0 : State} (r : List Byte) {s : State} (h : Keeps s0 s) :
    Keeps s0 (ringPut r s).1 := by
  unfold ringPut
  repeat' (first | (simp (maxDischargeDepth := 99) (etaStruct := .none) +contextual only [h, incSat_keeps, mwrBytes_keeps, wrf_keeps, Keeps.ite, apply_ite Prod.fst]; done) | split)

theorem recordCore_keeps {s0 : State} (source sev code : Nat) (data : List Byte) {s : State} (h : Keeps s0 s) :
    Keeps s0 (recordCore source sev code data s).s := by
  unfold recordCore
  simp (maxDischargeDepth := 99) only [apply_ite RecOut.s]
  refine Keeps.ite (offerAll_keeps (ringPut_keeps _ ?_) fun _ _ => offerEvent_keeps _ _ _ _) ?_ <;>
    simp (maxDischargeDepth := 99) only [h, wrf_keeps, incSat_keeps, Keeps.mk_same]

theorem setOverrun_keeps {s0 : State}  {s : State} (h : Keeps s0 s) :
    Keeps s0 (setOverrun s) := by
  unfold setOverrun
  simp (maxDischargeDepth := 99) (etaStruct := .none) only [h, pulse_keeps, setSq_keeps]

theorem overrunRecord_keeps {s0 : State}  {s : State} (h : Keeps s0 s) :
    Keeps s0 (overrunRecord s) := by
  unfold overrunRecord
  simp (maxDischargeDepth := 99) (etaStruct := .none) only [h, recordCore_keeps, setOverrun_keeps]

theorem makeRecord_keeps {s0 : State} (source : Nat) (sev : Nat) (code : Nat) (data : List Byte) {s : State} (h : Keeps s0 s) :
    Keeps s0 (makeRecord source sev code data s) := by
  unfold makeRecord
  simp (maxDischargeDepth := 99) (etaStruct := .none) only [h, overrunRecord_keeps, pulse_keeps, recordCore_keeps, setSq_keeps, Keeps.ite]

theorem sqSetData_keeps {s0 : State} (a : Nat) (bits : List Nat) (sev : Option Nat) (mid : Option Word) (extra : Word) {s : State} (h : Keeps s0 s) :
    Keeps s0 (sqSetData a bits sev mid extra s) := by
  unfold sqSetData
  repeat' (first | intro _ | (simp (maxDischargeDepth := 99) (etaStruct := .none) only [*, dataWords_keeps, lowest_keeps, makeRecord_keeps, pulse_keeps, rd_keeps, setSq_keeps, sqPulse_keeps, sqSeverity_keeps, sqSource_keeps, sqSrcReg_keeps, sq_keeps, Keeps.ite, Keeps.mk_same]; done) | with_reducible assumption | with_reducible rfl | with_reducible apply Keeps.ite | with_reducible apply dataWords_keeps | with_reducible apply lowest_keeps | with_reducible apply makeRecord_keeps | with_reducible apply pulse_keeps | with_reducible apply rd_keeps | with_reducible apply setSq_keeps | with_reducible apply sqPulse_keeps | with_reducible apply sqSeverity_keeps | with_reducible apply sqSource_keeps | with_reducible apply sqSrcReg_keeps | with_reducible apply sq_keeps | with_reducible apply Keeps.foldl | split | dsimp only)

theorem sqSetX_keeps {s0 : State} (a : Nat) (bits : List Nat) (sev : Option Nat) (extra : Word) {s : State} (h : Keeps s0 s) :
    Keeps s0 (sqSetX a bits sev extra s) := by
  unfold sqSetX
  repeat' (first | intro _ | (simp (maxDischargeDepth := 99) (etaStruct := .none) only [*, sqSetData_keeps, Keeps.ite, Keeps.mk_same]; done) | with_reducible assumption | with_reducible rfl | with_reducible apply Keeps.ite | with_reducible apply sqSetData_keeps | with_reducible apply Keeps.foldl | split | dsimp only)

theorem sqSet_keeps {s0 : State} (a : Nat) (bits : List Nat) {s : State} (h : Keeps s0 s) :
    Keeps s0 (sqSet a bits s) := by
  unfold sqSet
  simp (maxDischargeDepth := 99) (etaStruct := .none) only [h, sqSetX_keeps]

theorem logAccess_keeps {s0 : State} (a : Nat) (bit : Nat) (master : Nat) (size : Nat) (addr : Nat) (write : Bool) {s : State} (h : Keeps s0 s) :
    Keeps s0 (logAccess a bit master size addr write s) := by
  unfold logAccess
  simp (maxDischargeDepth := 99) (etaStruct := .none) only [h, sqSet_keeps, wrn_keeps]

theorem lockupPulse_keeps {s0 : State}  {s : State} (h : Keeps s0 s) :
    Keeps s0 (lockupPulse s) := by
  unfold lockupPulse
  simp (maxDischargeDepth := 99) (etaStruct := .none) only [h, pulse_keeps]

end Sys2Proof.Machine
end

