-- ==== Sys2Proof/Laws/KeepsClock.lean ====
section
/-! SUPPORT. What the operations of Machine/Clock.lean keep (Laws/Keeps.lean says what that is). -/

namespace Sys2Proof.Machine
open Sys2Proof

theorem xingDropped_keeps {s0 : State} (k : Nat) {s : State} (h : Keeps s0 s) :
    Keeps s0 (xingDropped k s) := by
  unfold xingDropped
  simp (maxDischargeDepth := 99) (etaStruct := .none) only [h, incSat_keeps, sqSet_keeps]

theorem fifoUnready_keeps {s0 : State} (near : Bool) (far : Bool) (k : Nat) {s : State} (h : Keeps s0 s) :
    Keeps s0 (fifoUnready near far k s) := by
  unfold fifoUnready
  repeat' (first | intro _ | (simp (maxDischargeDepth := 99) (etaStruct := .none) only [*, Keeps.ite, Keeps.mk_same]; done) | with_reducible assumption | with_reducible rfl | with_reducible apply Keeps.ite | with_reducible apply Keeps.foldl | split | dsimp only)

theorem viaFifo_keeps {s0 : State} (toFabric : Bool) (runs : Bool) (k : Nat) (go : State → State) {s : State} (h : Keeps s0 s) (hgo : ∀ a0, Keeps s0 a0 → Keeps s0 (go a0)) :
    Keeps s0 (viaFifo toFabric runs k go s) := by
  unfold viaFifo
  repeat' (first | intro _ | (simp (maxDischargeDepth := 99) (etaStruct := .none) only [*, xingDropped_keeps, Keeps.ite, Keeps.mk_same]; done) | with_reducible assumption | with_reducible rfl | with_reducible apply Keeps.ite | with_reducible apply xingDropped_keeps | with_reducible apply hgo | with_reducible apply Keeps.foldl | split | dsimp only)

theorem fifoDiscard_keeps {s0 : State} (k : Nat) {s : State} (h : Keeps s0 s) :
    Keeps s0 (fifoDiscard k s) := by
  unfold fifoDiscard
  repeat' (first | intro _ | (simp (maxDischargeDepth := 99) (etaStruct := .none) only [*, Keeps.ite, Keeps.mk_same]; done) | with_reducible assumption | with_reducible rfl | with_reducible apply Keeps.ite | with_reducible apply Keeps.foldl | split | dsimp only)

theorem fifoResync_keeps {s0 : State} (k : Nat) {s : State} (h : Keeps s0 s) :
    Keeps s0 (fifoResync k s) := by
  unfold fifoResync
  repeat' (first | intro _ | (simp (maxDischargeDepth := 99) (etaStruct := .none) only [*, fifoDiscard_keeps, Keeps.ite, Keeps.mk_same]; done) | with_reducible assumption | with_reducible rfl | with_reducible apply Keeps.ite | with_reducible apply fifoDiscard_keeps | with_reducible apply Keeps.foldl | split | dsimp only)

theorem setNotice_keeps {s0 : State} (x : Nat) (n : Notice) {s : State} (h : Keeps s0 s) :
    Keeps s0 (State.setNotice s x n) := by
  unfold State.setNotice
  simp (maxDischargeDepth := 99) (etaStruct := .none) only [h, Keeps.mk_same]

theorem noticePost_keeps {s0 : State} (x : Nat) (bits : Word) {s : State} (h : Keeps s0 s) :
    Keeps s0 (noticePost x bits s) := by
  unfold noticePost
  repeat' (first | intro _ | (simp (maxDischargeDepth := 99) (etaStruct := .none) only [*, setNotice_keeps, Keeps.ite, Keeps.mk_same]; done) | with_reducible assumption | with_reducible rfl | with_reducible apply Keeps.ite | with_reducible apply setNotice_keeps | with_reducible apply Keeps.foldl | split | dsimp only)

theorem noticeArrive_keeps {s0 : State} (x : Nat) {s : State} (h : Keeps s0 s) :
    Keeps s0 (noticeArrive x s).1 := by
  unfold noticeArrive
  repeat' (first | (simp (maxDischargeDepth := 99) (etaStruct := .none) +contextual only [h, setNotice_keeps, Keeps.ite, apply_ite Prod.fst]; done) | split)

theorem servoEnter_keeps {s0 : State} (st : ServoState) {s : State} (h : Keeps s0 s) :
    Keeps s0 (servoEnter st s) := by
  unfold servoEnter
  simp (maxDischargeDepth := 99) (etaStruct := .none) only [h, sqSet_keeps, Keeps.mk_same, Keeps.ite]

theorem servoSlew_keeps {s0 : State}  {s : State} (h : Keeps s0 s) :
    Keeps s0 (servoSlew s) := by
  unfold servoSlew
  simp (maxDischargeDepth := 99) (etaStruct := .none) only [h, sqSet_keeps, Keeps.mk_same, Keeps.ite]

theorem servoTransitions_keeps {s0 : State}  {s : State} (h : Keeps s0 s) :
    Keeps s0 (servoTransitions s) := by
  unfold servoTransitions
  repeat' (first | (simp (maxDischargeDepth := 99) (etaStruct := .none) only [h, servoEnter_keeps, Keeps.mk_same, Keeps.ite]; done) | split)

theorem stepFix_keeps {s0 : State} (i : BitVec 64) (h : BitVec 64) {s : State} (hk : Keeps s0 s) :
    Keeps s0 (stepFix i h s) := by
  unfold stepFix
  repeat' (first | intro _ | (simp (maxDischargeDepth := 99) (etaStruct := .none) only [*, Keeps.ite, Keeps.mk_same]; done) | with_reducible assumption | with_reducible rfl | with_reducible apply Keeps.ite | with_reducible apply Keeps.foldl | split | dsimp only)

theorem pairPassed_keeps {s0 : State}  {s : State} (h : Keeps s0 s) :
    Keeps s0 (pairPassed s) := by
  unfold pairPassed
  repeat' (first | intro _ | (simp (maxDischargeDepth := 99) (etaStruct := .none) only [*, stepFix_keeps, Keeps.ite, Keeps.mk_same]; done) | with_reducible assumption | with_reducible rfl | with_reducible apply Keeps.ite | with_reducible apply stepFix_keeps | with_reducible apply Keeps.foldl | split | dsimp only)

theorem pairComing_keeps {s0 : State}  {s : State} (h : Keeps s0 s) :
    Keeps s0 (pairComing s) := by
  unfold pairComing
  repeat' (first | intro _ | (simp (maxDischargeDepth := 99) (etaStruct := .none) only [*, stepFix_keeps, Keeps.ite, Keeps.mk_same]; done) | with_reducible assumption | with_reducible rfl | with_reducible apply Keeps.ite | with_reducible apply stepFix_keeps | with_reducible apply Keeps.foldl | split | dsimp only)

theorem counterStep_keeps {s0 : State}  {s : State} (h : Keeps s0 s) :
    Keeps s0 (counterStep s) := by
  unfold counterStep
  repeat' (first | intro _ | (simp (maxDischargeDepth := 99) (etaStruct := .none) only [*, sqSetData_keeps, Keeps.ite, Keeps.mk_same]; done) | with_reducible assumption | with_reducible rfl | with_reducible apply Keeps.ite | with_reducible apply sqSetData_keeps | with_reducible apply Keeps.foldl | split | dsimp only)

theorem backupOff_keeps {s0 : State}  {s : State} (h : Keeps s0 s) :
    Keeps s0 (backupOff s) := by
  unfold backupOff
  simp (maxDischargeDepth := 99) (etaStruct := .none) only [h, sqSet_keeps, Keeps.mk_same, Keeps.ite]

theorem clockHinge_keeps {s0 : State}  {s : State} (h : Keeps s0 s) :
    Keeps s0 (clockHinge s) := by
  unfold clockHinge
  repeat' (first | intro _ | (simp (maxDischargeDepth := 99) (etaStruct := .none) only [*, backupOff_keeps, counterStep_keeps, pairComing_keeps, pairPassed_keeps, servoSlew_keeps, servoTransitions_keeps, Keeps.ite, Keeps.mk_same]; done) | with_reducible assumption | with_reducible rfl | with_reducible apply Keeps.ite | with_reducible apply backupOff_keeps | with_reducible apply counterStep_keeps | with_reducible apply pairComing_keeps | with_reducible apply pairPassed_keeps | with_reducible apply servoSlew_keeps | with_reducible apply servoTransitions_keeps | with_reducible apply Keeps.foldl | split | dsimp only)

theorem frameAdvance_keeps {s0 : State}  {s : State} (h : Keeps s0 s) :
    Keeps s0 (frameAdvance s) := by
  unfold frameAdvance
  simp (maxDischargeDepth := 99) (etaStruct := .none) only [h, Keeps.mk_same]

theorem holdoverLapse_keeps {s0 : State}  {s : State} (h : Keeps s0 s) :
    Keeps s0 (holdoverLapse s) := by
  unfold holdoverLapse
  simp (maxDischargeDepth := 99) (etaStruct := .none) only [h, servoEnter_keeps, Keeps.ite]

theorem tickArrive_keeps {s0 : State}  {s : State} (h : Keeps s0 s) :
    Keeps s0 (tickArrive s) := by
  unfold tickArrive
  repeat' (first | intro _ | (simp (maxDischargeDepth := 99) (etaStruct := .none) only [*, Keeps.ite, Keeps.mk_same]; done) | with_reducible assumption | with_reducible rfl | with_reducible apply Keeps.ite | with_reducible apply Keeps.foldl | split | dsimp only)

theorem slowLost_keeps {s0 : State}  {s : State} (h : Keeps s0 s) :
    Keeps s0 (slowLost s) := by
  unfold slowLost
  repeat' (first | intro _ | (simp (maxDischargeDepth := 99) (etaStruct := .none) only [*, noticePost_keeps, Keeps.ite, Keeps.mk_same]; done) | with_reducible assumption | with_reducible rfl | with_reducible apply Keeps.ite | with_reducible apply noticePost_keeps | with_reducible apply Keeps.foldl | split | dsimp only)

theorem netLost_keeps {s0 : State}  {s : State} (h : Keeps s0 s) :
    Keeps s0 (netLost s) := by
  unfold netLost
  repeat' (first | intro _ | (simp (maxDischargeDepth := 99) (etaStruct := .none) only [*, noticePost_keeps, Keeps.ite, Keeps.mk_same]; done) | with_reducible assumption | with_reducible rfl | with_reducible apply Keeps.ite | with_reducible apply noticePost_keeps | with_reducible apply Keeps.foldl | split | dsimp only)

theorem mediaUnlock_keeps {s0 : State}  {s : State} (h : Keeps s0 s) :
    Keeps s0 (mediaUnlock s) := by
  unfold mediaUnlock
  repeat' (first | intro _ | (simp (maxDischargeDepth := 99) (etaStruct := .none) only [*, noticePost_keeps, servoEnter_keeps, sqSet_keeps, Keeps.ite, Keeps.mk_same]; done) | with_reducible assumption | with_reducible rfl | with_reducible apply Keeps.ite | with_reducible apply noticePost_keeps | with_reducible apply servoEnter_keeps | with_reducible apply sqSet_keeps | with_reducible apply Keeps.foldl | split | dsimp only)

theorem monitorNotice_keeps {s0 : State} (b : Word) {s : State} (h : Keeps s0 s) :
    Keeps s0 (monitorNotice b s) := by
  unfold monitorNotice
  repeat' (first | intro _ | (simp (maxDischargeDepth := 99) (etaStruct := .none) only [*, sqSet_keeps, Keeps.ite, Keeps.mk_same]; done) | with_reducible assumption | with_reducible rfl | with_reducible apply Keeps.ite | with_reducible apply sqSet_keeps | with_reducible apply Keeps.foldl | split | dsimp only)

theorem xtalLostMark_keeps {s0 : State}  {s : State} (h : Keeps s0 s) :
    Keeps s0 (xtalLostMark s) := by
  unfold xtalLostMark
  repeat' (first | intro _ | (simp (maxDischargeDepth := 99) (etaStruct := .none) only [*, noticePost_keeps, Keeps.ite, Keeps.mk_same]; done) | with_reducible assumption | with_reducible rfl | with_reducible apply Keeps.ite | with_reducible apply noticePost_keeps | with_reducible apply Keeps.foldl | split | dsimp only)

theorem clockQualified_keeps {s0 : State} (k : ClockId) {s : State} (h : Keeps s0 s) :
    Keeps s0 (clockQualified k s) := by
  unfold clockQualified
  repeat' (first | intro _ | (simp (maxDischargeDepth := 99) (etaStruct := .none) only [*, fifoUnready_keeps, Keeps.ite, Keeps.mk_same]; done) | with_reducible assumption | with_reducible rfl | with_reducible apply Keeps.ite | with_reducible apply fifoUnready_keeps | with_reducible apply Keeps.foldl | split | dsimp only)

end Sys2Proof.Machine
end

