-- ==== Sys2Proof/Laws/KeepsEngine.lean ====
section
/-! SUPPORT. What the operations of Machine/Engine.lean keep (Laws/Keeps.lean says what that is). -/

namespace Sys2Proof.Machine
open Sys2Proof

theorem Memory.wf_foldl {α : Type} (f : List Host.Cell → α → List Host.Cell) (l : List α) (m : List Host.Cell)
    (hf : ∀ m x, Memory.wf m = true → Memory.wf (f m x) = true) (h : Memory.wf m = true) :
    Memory.wf (l.foldl f m) = true := by
  induction l generalizing m with
  | nil => exact h
  | cons x l ih => exact ih _ (hf _ _ h)

theorem Memory.wf_memCopy (m : List Host.Cell) (src dst len : Nat) (h : Memory.wf m = true) :
    Memory.wf (memCopy m src dst len) = true := by
  unfold memCopy
  exact Memory.wf_foldl _ _ _ (fun m x hm => Memory.wf_memPut _ _ _ hm) (Memory.wf_memZero _ _ _ h)

theorem setSc_keeps {s0 : State} (n : Nat) (c : SampleCore) {s : State} (h : Keeps s0 s) :
    Keeps s0 (State.setSc s n c) := by
  unfold State.setSc
  simp (maxDischargeDepth := 99) (etaStruct := .none) only [h, Keeps.mk_same]

theorem modSc_keeps {s0 : State} (n : Nat) (f : SampleCore → SampleCore) {s : State} (h : Keeps s0 s) :
    Keeps s0 (State.modSc s n f) := by
  unfold State.modSc
  simp (maxDischargeDepth := 99) (etaStruct := .none) only [h, setSc_keeps]

theorem setLane_keeps {s0 : State} (l : Nat) (v : LaneVal) {s : State} (h : Keeps s0 s) :
    Keeps s0 (State.setLane s l v) := by
  unfold State.setLane
  simp (maxDischargeDepth := 99) (etaStruct := .none) only [h, Keeps.mk_same]

theorem lanePut_keeps {s0 : State} (l : Nat) (v : Word) {s : State} (h : Keeps s0 s) :
    Keeps s0 (State.lanePut s l v) := by
  unfold State.lanePut
  simp (maxDischargeDepth := 99) (etaStruct := .none) only [h, setLane_keeps]

theorem setBridge_keeps {s0 : State} (n : Nat) (b : Bridge) {s : State} (h : Keeps s0 s) :
    Keeps s0 (State.setBridge s n b) := by
  unfold State.setBridge
  simp (maxDischargeDepth := 99) (etaStruct := .none) only [h, Keeps.mk_same]

theorem setTport_keeps {s0 : State} (p : Nat) (x : TdmPort) {s : State} (h : Keeps s0 s) :
    Keeps s0 (State.setTport s p x) := by
  unfold State.setTport
  simp (maxDischargeDepth := 99) (etaStruct := .none) only [h, Keeps.mk_same]

theorem setRxs_keeps {s0 : State} (r : Nat) (x : RxStream) {s : State} (h : Keeps s0 s) :
    Keeps s0 (State.setRxs s r x) := by
  unfold State.setRxs
  simp (maxDischargeDepth := 99) (etaStruct := .none) only [h, Keeps.mk_same]

theorem engEvent_keeps {s0 : State} (bit : Nat) (n : Nat) {s : State} (h : Keeps s0 s) :
    Keeps s0 (engEvent bit n s) := by
  unfold engEvent
  simp (maxDischargeDepth := 99) (etaStruct := .none) only [h, sqSet_keeps, wrn_keeps]

theorem recordCause_keeps {s0 : State} (n : Nat) (k : Nat) {s : State} (h : Keeps s0 s) :
    Keeps s0 (recordCause n k s) := by
  unfold recordCause
  simp (maxDischargeDepth := 99) (etaStruct := .none) only [h, modSc_keeps]

theorem clearBoth_keeps {s0 : State} (a : Nat) (n : Nat) {s : State} (h : Keeps s0 s) :
    Keeps s0 (clearBoth a n s) := by
  unfold clearBoth
  repeat' (first | (simp (maxDischargeDepth := 99) (etaStruct := .none) only [h, wrb_keeps, Keeps.wbSet]; done) | split)

theorem clearRun_keeps {s0 : State} (n : Nat) {s : State} (h : Keeps s0 s) :
    Keeps s0 (clearRun n s) := by
  unfold clearRun
  simp (maxDischargeDepth := 99) (etaStruct := .none) only [h, clearBoth_keeps]

theorem takeBuffered_keeps {s0 : State} (mine : Nat → Bool) {s : State} (h : Keeps s0 s) :
    Keeps s0 (takeBuffered mine s).1 := by
  unfold takeBuffered
  simp (maxDischargeDepth := 99) (etaStruct := .none) only [h, Keeps.wbFilter]

theorem eachLane_keeps {s0 : State} (c : SampleCore) {f : Nat → State → State} {s : State} (h : Keeps s0 s)
    (hf : ∀ l t, Keeps s0 t → Keeps s0 (f l t)) : Keeps s0 (eachLane c f s) :=
  Keeps.foldl (fun _ _ ht => hf _ _ ht) h

theorem startFade_keeps {s0 : State} (n : Nat) (k : Nat) {s : State} (h : Keeps s0 s) :
    Keeps s0 (startFade n k s) := by
  unfold startFade
  repeat' (first | intro _ | (simp (maxDischargeDepth := 99) (etaStruct := .none) only [*, setLane_keeps]; done) | with_reducible assumption | with_reducible rfl | with_reducible apply Keeps.ite | with_reducible apply eachLane_keeps | with_reducible apply modSc_keeps | with_reducible apply setLane_keeps | with_reducible apply Keeps.foldl | split | dsimp only)

theorem ledgerCheck_keeps {s0 : State} (n : Nat) {s : State} (h : Keeps s0 s) :
    Keeps s0 (ledgerCheck n s) := by
  unfold ledgerCheck
  simp (maxDischargeDepth := 99) (etaStruct := .none) only [h, clearRun_keeps, modSc_keeps, sqSet_keeps, startFade_keeps, wrf_keeps, Keeps.ite]

theorem fadeStep_keeps {s0 : State} (n : Nat) {s : State} (h : Keeps s0 s) :
    Keeps s0 (fadeStep n s) := by
  unfold fadeStep
  repeat' (first | intro _ | (simp (maxDischargeDepth := 99) (etaStruct := .none) only [*, setLane_keeps, Keeps.ite]; done) | with_reducible assumption | with_reducible rfl | with_reducible apply Keeps.ite | with_reducible apply eachLane_keeps | with_reducible apply modSc_keeps | with_reducible apply setLane_keeps | with_reducible apply Keeps.foldl | split | dsimp only)

theorem publishCore_keeps {s0 : State} (n : Nat) {s : State} (h : Keeps s0 s) :
    Keeps s0 (publishCore n s) := by
  unfold publishCore
  repeat' (first | intro _ | (simp (maxDischargeDepth := 99) (etaStruct := .none) only [*, setLane_keeps]; done) | with_reducible assumption | with_reducible rfl | with_reducible apply Keeps.ite | with_reducible apply eachLane_keeps | with_reducible apply modSc_keeps | with_reducible apply setLane_keeps | with_reducible apply Keeps.foldl | split | dsimp only)

theorem advanceLines_keeps {s0 : State} (n : Nat) {s : State} (h : Keeps s0 s) :
    Keeps s0 (advanceLines n s) := by
  unfold advanceLines
  repeat' (first | intro _ | (simp (maxDischargeDepth := 99) (etaStruct := .none) only [*, wrn_keeps, Keeps.ite]; done) | with_reducible assumption | with_reducible rfl | with_reducible apply Keeps.ite | with_reducible apply wrn_keeps | with_reducible apply Keeps.foldl | split | dsimp only)

theorem collectSat_keeps {s0 : State} (n : Nat) {s : State} (h : Keeps s0 s) :
    Keeps s0 (collectSat n s) := by
  unfold collectSat
  simp (maxDischargeDepth := 99) (etaStruct := .none) only [h, incSat_keeps, Keeps.ite]

theorem collectEcc_keeps {s0 : State} (n : Nat) {s : State} (h : Keeps s0 s) :
    Keeps s0 (collectEcc n s) := by
  unfold collectEcc
  repeat' (first | intro _ | (simp (maxDischargeDepth := 99) (etaStruct := .none) only [*, addSat_keeps, coreEcc_keeps, engEvent_keeps, modSc_keeps, sc_keeps, Keeps.ite, Keeps.mk_same]; done) | with_reducible assumption | with_reducible rfl | with_reducible apply Keeps.ite | with_reducible apply addSat_keeps | with_reducible apply coreEcc_keeps | with_reducible apply engEvent_keeps | with_reducible apply modSc_keeps | with_reducible apply sc_keeps | with_reducible apply Keeps.foldl | split | dsimp only)

theorem coreHousekeep_keeps {s0 : State} (d : Dom) (n : Nat) {s : State} (h : Keeps s0 s) :
    Keeps s0 (coreHousekeep d n s) := by
  unfold coreHousekeep
  repeat' (first | intro _ | (simp (maxDischargeDepth := 99) (etaStruct := .none) only [*, advanceLines_keeps, collectEcc_keeps, collectSat_keeps, fadeStep_keeps, ledgerCheck_keeps, publishCore_keeps, Keeps.ite, Keeps.mk_same]; done) | with_reducible assumption | with_reducible rfl | with_reducible apply Keeps.ite | with_reducible apply advanceLines_keeps | with_reducible apply collectEcc_keeps | with_reducible apply collectSat_keeps | with_reducible apply fadeStep_keeps | with_reducible apply ledgerCheck_keeps | with_reducible apply publishCore_keeps | with_reducible apply Keeps.foldl | split | dsimp only)

theorem publishFixed_keeps {s0 : State} (d : Dom) {s : State} (h : Keeps s0 s) :
    Keeps s0 (publishFixed d s) := by
  unfold publishFixed
  repeat' (first | intro _ | (simp (maxDischargeDepth := 99) (etaStruct := .none) only [*, setLane_keeps]; done) | with_reducible assumption | with_reducible rfl | with_reducible apply Keeps.ite | with_reducible apply setLane_keeps | with_reducible apply Keeps.foldl | split | dsimp only)

theorem housekeep_keeps {s0 : State} (d : Dom) {s : State} (h : Keeps s0 s) :
    Keeps s0 (housekeep d s) := by
  unfold housekeep
  repeat' (first | intro _ | (simp (maxDischargeDepth := 99) (etaStruct := .none) only [*, coreHousekeep_keeps]; done) | with_reducible assumption | with_reducible rfl | with_reducible apply Keeps.ite | with_reducible apply coreHousekeep_keeps | with_reducible apply publishFixed_keeps | with_reducible apply Keeps.foldl | split | dsimp only)

theorem coreStrike_keeps {s0 : State} (d : Dom) (n : Nat) {s : State} (h : Keeps s0 s) :
    Keeps s0 (coreStrike d n s) := by
  unfold coreStrike
  simp (maxDischargeDepth := 99) (etaStruct := .none) only [h, setSc_keeps, Keeps.ite]

theorem strikeCores_keeps {s0 : State} (d : Dom) {s : State} (h : Keeps s0 s) :
    Keeps s0 (strikeCores d s) := by
  unfold strikeCores
  repeat' (first | intro _ | (simp (maxDischargeDepth := 99) (etaStruct := .none) only [*, coreStrike_keeps]; done) | with_reducible assumption | with_reducible rfl | with_reducible apply Keeps.ite | with_reducible apply coreStrike_keeps | with_reducible apply Keeps.foldl | split | dsimp only)

theorem haltCore_keeps {s0 : State} (n : Nat) {s : State} (h : Keeps s0 s) :
    Keeps s0 (haltCore n s) := by
  unfold haltCore
  repeat' (first | intro _ | (simp (maxDischargeDepth := 99) (etaStruct := .none) only [*, setLane_keeps]; done) | with_reducible assumption | with_reducible rfl | with_reducible apply Keeps.ite | with_reducible apply eachLane_keeps | with_reducible apply engEvent_keeps | with_reducible apply modSc_keeps | with_reducible apply setLane_keeps | with_reducible apply Keeps.foldl | split | dsimp only)

theorem leaveLanes_keeps {s0 : State} (n : Nat) (first : Nat) (cnt : Nat) {s : State} (h : Keeps s0 s) :
    Keeps s0 (leaveLanes n first cnt s) := by
  unfold leaveLanes
  repeat' (first | intro _ | (simp (maxDischargeDepth := 99) (etaStruct := .none) only [*, eachLane_keeps, otherOwner_keeps, sc_keeps, setLane_keeps, Keeps.ite, Keeps.mk_same]; done) | with_reducible assumption | with_reducible rfl | with_reducible apply Keeps.ite | with_reducible apply eachLane_keeps | with_reducible apply otherOwner_keeps | with_reducible apply sc_keeps | with_reducible apply setLane_keeps | with_reducible apply Keeps.foldl | split | dsimp only)

theorem beginCore_keeps {s0 : State} (n : Nat) {s : State} (h : Keeps s0 s) :
    Keeps s0 (beginCore n s) := by
  unfold beginCore
  repeat' (first | intro _ | (simp (maxDischargeDepth := 99) (etaStruct := .none) only [*, coreCfg_keeps, domOf_keeps, eachLane_keeps, lane_keeps, leaveLanes_keeps, modSc_keeps, sc_keeps, setLane_keeps, Keeps.ite, Keeps.mk_same]; done) | with_reducible assumption | with_reducible rfl | with_reducible apply Keeps.ite | with_reducible apply coreCfg_keeps | with_reducible apply domOf_keeps | with_reducible apply eachLane_keeps | with_reducible apply lane_keeps | with_reducible apply leaveLanes_keeps | with_reducible apply modSc_keeps | with_reducible apply sc_keeps | with_reducible apply setLane_keeps | with_reducible apply Keeps.foldl | split | dsimp only)

theorem zeroPointers_keeps {s0 : State} (n : Nat) {s : State} (h : Keeps s0 s) :
    Keeps s0 (zeroPointers n s) := by
  unfold zeroPointers
  repeat' (first | intro _ | (simp (maxDischargeDepth := 99) (etaStruct := .none) only [*, wr_keeps]; done) | with_reducible assumption | with_reducible rfl | with_reducible apply Keeps.ite | with_reducible apply wr_keeps | with_reducible apply Keeps.foldl | split | dsimp only)

theorem startCore_keeps {s0 : State} (n : Nat) {s : State} (h : Keeps s0 s) :
    Keeps s0 (startCore n s) := by
  unfold startCore
  repeat' (first | intro _ | (simp (maxDischargeDepth := 99) (etaStruct := .none) only [*, beginCore_keeps, clearRun_keeps, engEvent_keeps, modSc_keeps, setSc_keeps, zeroPointers_keeps, Keeps.ite, Keeps.mk_same]; done) | with_reducible assumption | with_reducible rfl | with_reducible apply Keeps.ite | with_reducible apply beginCore_keeps | with_reducible apply clearRun_keeps | with_reducible apply engEvent_keeps | with_reducible apply modSc_keeps | with_reducible apply setSc_keeps | with_reducible apply zeroPointers_keeps | with_reducible apply Keeps.foldl | split | dsimp only)

theorem stopCore_keeps {s0 : State} (n : Nat) {s : State} (h : Keeps s0 s) :
    Keeps s0 (stopCore n s) := by
  unfold stopCore
  simp (maxDischargeDepth := 99) (etaStruct := .none) only [h, modSc_keeps]

theorem haltsDue_keeps {s0 : State}  {s : State} (h : Keeps s0 s) :
    Keeps s0 (haltsDue s) := by
  unfold haltsDue
  repeat' (first | intro _ | (simp (maxDischargeDepth := 99) (etaStruct := .none) only [*, engRun_keeps, fadeDone_keeps, haltCore_keeps, sc_keeps, Keeps.ite, Keeps.mk_same]; done) | with_reducible assumption | with_reducible rfl | with_reducible apply Keeps.ite | with_reducible apply engRun_keeps | with_reducible apply fadeDone_keeps | with_reducible apply haltCore_keeps | with_reducible apply sc_keeps | with_reducible apply Keeps.foldl | split | dsimp only)

theorem applyRun_keeps {s0 : State} (old : Word) (new : Word) {s : State} (h : Keeps s0 s) :
    Keeps s0 (applyRun old new s) := by
  unfold applyRun
  repeat' (first | intro _ | (simp (maxDischargeDepth := 99) (etaStruct := .none) only [*, haltCore_keeps, startCore_keeps, stopCore_keeps, Keeps.ite]; done) | with_reducible assumption | with_reducible rfl | with_reducible apply Keeps.ite | with_reducible apply haltCore_keeps | with_reducible apply startCore_keeps | with_reducible apply stopCore_keeps | with_reducible apply Keeps.foldl | split | dsimp only)

theorem engDisabled_keeps {s0 : State} {s : State} (h : Keeps s0 s) : Keeps s0 (engDisabled s) := by
  unfold engDisabled
  extract_lets s1
  have h1 : Keeps s0 s1 :=
    Keeps.foldl (fun t x ht => Keeps.ite (startFade_keeps _ _ (modSc_keeps _ _ ht)) ht) h
  clear_value s1
  exact Keeps.wbSet _ _ (wr_keeps _ _ h1)

theorem coreHalted_keeps {s0 : State} (n : Nat) {s : State} (h : Keeps s0 s) :
    Keeps s0 (coreHalted n s) := by
  unfold coreHalted
  simp (maxDischargeDepth := 99) (etaStruct := .none) only [h, haltCore_keeps, Keeps.ite]

theorem startCoefCopy_keeps {s0 : State} (n : Nat) {s : State} (h : Keeps s0 s) :
    Keeps s0 (startCoefCopy n s) := by
  unfold startCoefCopy
  simp (maxDischargeDepth := 99) (etaStruct := .none) only [h, modSc_keeps]

theorem coefCopyEnd_keeps {s0 : State} (n : Nat) {s : State} (h : Keeps s0 s) : Keeps s0 (coefCopyEnd n s) := by
  unfold coefCopyEnd
  refine Keeps.ite ?_ h
  refine Keeps.mk_same (Keeps.foldl (fun t x ht => mwr_keeps _ _ _ ht) ?_) rfl
  exact Keeps.mk_mem (setSc_keeps _ _ h) (Memory.wf_memCopy _ _ _ _) id (eccOut_wf _ _) rfl

end Sys2Proof.Machine
end

