-- ==== Sys2Proof/Laws/KeepsSafe.lean ====
section
/-! SUPPORT. What the operations of Machine/Safe.lean keep (Laws/Keeps.lean says what that is). -/

namespace Sys2Proof.Machine
open Sys2Proof

theorem setDirty_keeps {s0 : State} (c : CSet) {s : State} (h : Keeps s0 s) :
    Keeps s0 (State.setDirty s c) := by
  unfold State.setDirty
  simp (maxDischargeDepth := 99) (etaStruct := .none) only [h, Keeps.mk_same, Keeps.ite]

theorem setClean_keeps {s0 : State} (c : CSet) {s : State} (h : Keeps s0 s) :
    Keeps s0 (State.setClean s c) := by
  unfold State.setClean
  simp (maxDischargeDepth := 99) (etaStruct := .none) only [h, Keeps.mk_same]

theorem discardSet_keeps {s0 : State} (c : CSet) {s : State} (h : Keeps s0 s) :
    Keeps s0 (discardSet c s) := by
  unfold discardSet
  repeat' (first | (simp (maxDischargeDepth := 99) (etaStruct := .none) only [h, setClean_keeps, startCoefCopy_keeps]; done) | split)

theorem stageWord_keeps {s0 : State} (c : CSet) (a : Nat) (v : Word) {s : State} (h : Keeps s0 s) :
    Keeps s0 (stageWord c a v s) := by
  unfold stageWord
  repeat' (first | intro _ | (simp (maxDischargeDepth := 99) (etaStruct := .none) only [*, wr_keeps]; done) | with_reducible assumption | with_reducible rfl | with_reducible apply Keeps.ite | with_reducible apply setDirty_keeps | with_reducible apply wr_keeps | with_reducible apply Keeps.foldl | split | dsimp only)

theorem pairedIgnored_keeps {s0 : State} (a : Nat) (master : Nat) {s : State} (h : Keeps s0 s) :
    Keeps s0 (pairedIgnored a master s) := by
  unfold pairedIgnored
  simp (maxDischargeDepth := 99) (etaStruct := .none) only [h, sqSet_keeps, wrn_keeps]

theorem setGrp_keeps {s0 : State} (g : Nat) (x : Group) {s : State} (h : Keeps s0 s) :
    Keeps s0 (State.setGrp s g x) := by
  unfold State.setGrp
  simp (maxDischargeDepth := 99) (etaStruct := .none) only [h, Keeps.mk_same]

theorem safeEvent_keeps {s0 : State} (bit : Nat) (g : Nat) {s : State} (h : Keeps s0 s) :
    Keeps s0 (safeEvent bit g s) := by
  unfold safeEvent
  simp (maxDischargeDepth := 99) (etaStruct := .none) only [h, sqSet_keeps, wrn_keeps]

theorem commitRequest_keeps {s0 : State} (master : Nat) (privileged : Bool) (g : Nat) {s : State} (h : Keeps s0 s) :
    Keeps s0 (commitRequest master privileged g s) := by
  unfold commitRequest
  simp (maxDischargeDepth := 99) (etaStruct := .none) only [h, safeEvent_keeps, setGrp_keeps, Keeps.ite]

theorem commitReqWrite_keeps {s0 : State} (base : Nat) (master : Nat) (privileged : Bool) (v : Word) {s : State} (h : Keeps s0 s) :
    Keeps s0 (commitReqWrite base master privileged v s) := by
  unfold commitReqWrite
  repeat' (first | intro _ | (simp (maxDischargeDepth := 99) (etaStruct := .none) only [*, commitRequest_keeps]; done) | with_reducible assumption | with_reducible rfl | with_reducible apply Keeps.ite | with_reducible apply commitRequest_keeps | with_reducible apply Keeps.foldl | split | dsimp only)

theorem cancelGroup_keeps {s0 : State} (g : Nat) {s : State} (h : Keeps s0 s) :
    Keeps s0 (cancelGroup g s) := by
  unfold cancelGroup
  simp (maxDischargeDepth := 99) (etaStruct := .none) only [h, setGrp_keeps, Keeps.ite]

theorem safeEnableWrite_keeps {s0 : State} (on : Bool) {s : State} (h : Keeps s0 s) :
    Keeps s0 (safeEnableWrite on s) := by
  unfold safeEnableWrite
  repeat' (first | intro _ | (simp (maxDischargeDepth := 99) (etaStruct := .none) only [*, cancelGroup_keeps, safeCtrl_keeps, wrb_keeps, Keeps.ite, Keeps.mk_same]; done) | with_reducible assumption | with_reducible rfl | with_reducible apply Keeps.ite | with_reducible apply cancelGroup_keeps | with_reducible apply safeCtrl_keeps | with_reducible apply wrb_keeps | with_reducible apply Keeps.foldl | split | dsimp only)

theorem completeGroup_keeps {s0 : State} (g : Nat) (cause : Nat) {s : State} (h : Keeps s0 s) :
    Keeps s0 (completeGroup g cause s) := by
  unfold completeGroup
  simp (maxDischargeDepth := 99) (etaStruct := .none) only [h, safeEvent_keeps, setGrp_keeps]

end Sys2Proof.Machine
end

