-- ==== Sys2Proof/Laws/KeepsWeld.lean ====
section
/-! SUPPORT. What the operations of Machine/Weld.lean keep (Laws/Keeps.lean says what that is). -/

namespace Sys2Proof.Machine
open Sys2Proof

theorem modWeld_keeps {s0 : State} (f : Weld → Weld) {s : State} (h : Keeps s0 s) :
    Keeps s0 (State.modWeld s f) := by
  unfold State.modWeld
  simp (maxDischargeDepth := 99) (etaStruct := .none) only [h, Keeps.mk_same]

theorem weldEvent_keeps {s0 : State} (bit : Nat) (src : Nat) {s : State} (h : Keeps s0 s) :
    Keeps s0 (weldEvent bit src s) := by
  unfold weldEvent
  simp (maxDischargeDepth := 99) (etaStruct := .none) only [h, sqSet_keeps, wrn_keeps]

theorem nodeRefused_keeps {s0 : State} (a : Nat) (o : Nat) {s : State} (h : Keeps s0 s) :
    Keeps s0 (nodeRefused a o s) := by
  unfold nodeRefused
  simp (maxDischargeDepth := 99) (etaStruct := .none) only [h, weldEvent_keeps, wrn_keeps]

theorem setTarget_keeps {s0 : State} (o : Nat) (i : Nat) (t : Nat) {s : State} (h : Keeps s0 s) :
    Keeps s0 (setTarget o i t s) := by
  unfold setTarget
  simp (maxDischargeDepth := 99) (etaStruct := .none) only [h, modWeld_keeps, wrf_keeps, Keeps.ite]

theorem applyNode_keeps {s0 : State} (o : Nat) (i : Nat) (w : Word) {s : State} (h : Keeps s0 s) :
    Keeps s0 (applyNode o i w s) := by
  unfold applyNode
  simp (maxDischargeDepth := 99) (etaStruct := .none) only [h, setTarget_keeps, weldEvent_keeps, wrf_keeps, Keeps.ite]

theorem rampStep_keeps {s0 : State} (key : Nat) {s : State} (h : Keeps s0 s) :
    Keeps s0 (rampStep key s) := by
  unfold rampStep
  repeat' (first | (simp (maxDischargeDepth := 99) (etaStruct := .none) only [h, modWeld_keeps]; done) | split)

theorem rampsStep_keeps {s0 : State}  {s : State} (h : Keeps s0 s) :
    Keeps s0 (rampsStep s) := by
  unfold rampsStep
  repeat' (first | intro _ | (simp (maxDischargeDepth := 99) (etaStruct := .none) only [*, rampStep_keeps]; done) | with_reducible assumption | with_reducible rfl | with_reducible apply Keeps.ite | with_reducible apply rampStep_keeps | with_reducible apply Keeps.foldl | split | dsimp only)

theorem setGate_keeps {s0 : State} (z : Nat) (k : Nat) (c : Nat) {s : State} (h : Keeps s0 s) :
    Keeps s0 (setGate z k c s) := by
  unfold setGate
  simp (maxDischargeDepth := 99) (etaStruct := .none) only [h, modWeld_keeps]

theorem setZoneSt_keeps {s0 : State} (z : Nat) (x : ZoneSt) {s : State} (h : Keeps s0 s) :
    Keeps s0 (setZoneSt z x s) := by
  unfold setZoneSt
  simp (maxDischargeDepth := 99) (etaStruct := .none) only [h, modWeld_keeps]

theorem setClaim_keeps {s0 : State} (z : Nat) (k : Nat) (c : Option Claim) {s : State} (h : Keeps s0 s) :
    Keeps s0 (setClaim z k c s) := by
  unfold setClaim
  simp (maxDischargeDepth := 99) (etaStruct := .none) only [h, modWeld_keeps]

theorem gatesStep_keeps {s0 : State}  {s : State} (h : Keeps s0 s) :
    Keeps s0 (gatesStep s) := by
  unfold gatesStep
  repeat' (first | intro _ | (simp (maxDischargeDepth := 99) (etaStruct := .none) only [*, modWeld_keeps, setGate_keeps, Keeps.ite]; done) | with_reducible assumption | with_reducible rfl | with_reducible apply Keeps.ite | with_reducible apply modWeld_keeps | with_reducible apply setGate_keeps | with_reducible apply Keeps.foldl | split | dsimp only)

theorem inputsStep_keeps {s0 : State}  {s : State} (h : Keeps s0 s) :
    Keeps s0 (inputsStep s) := by
  unfold inputsStep
  repeat' (first | intro _ | (simp (maxDischargeDepth := 99) (etaStruct := .none) only [*, modWeld_keeps]; done) | with_reducible assumption | with_reducible rfl | with_reducible apply Keeps.ite | with_reducible apply modWeld_keeps | with_reducible apply Keeps.foldl | split | dsimp only)

theorem destStep_keeps {s0 : State} (dm : Dom) (d : Nat) {s : State} (h : Keeps s0 s) :
    Keeps s0 (destStep dm d s) := by
  unfold destStep
  simp (maxDischargeDepth := 99) (etaStruct := .none) only [h, modWeld_keeps]

theorem destsStep_keeps {s0 : State} (dm : Dom) {s : State} (h : Keeps s0 s) :
    Keeps s0 (destsStep dm s) := by
  unfold destsStep
  repeat' (first | intro _ | (simp (maxDischargeDepth := 99) (etaStruct := .none) only [*, destStep_keeps]; done) | with_reducible assumption | with_reducible rfl | with_reducible apply Keeps.ite | with_reducible apply destStep_keeps | with_reducible apply Keeps.foldl | split | dsimp only)

theorem weldFrame_keeps {s0 : State}  {s : State} (h : Keeps s0 s) :
    Keeps s0 (weldFrame s) := by
  unfold weldFrame
  simp (maxDischargeDepth := 99) (etaStruct := .none) only [h, gatesStep_keeps, inputsStep_keeps, modWeld_keeps, rampsStep_keeps, Keeps.ite]

theorem claimWrite_keeps {s0 : State} (v : Word) {s : State} (h : Keeps s0 s) :
    Keeps s0 (claimWrite v s) := by
  unfold claimWrite
  simp (maxDischargeDepth := 99) (etaStruct := .none) only [h, modWeld_keeps, weldEvent_keeps, Keeps.ite]

theorem takeClaim_keeps {s0 : State} (z : Nat) (k : Nat) (level : Nat) {s : State} (h : Keeps s0 s) :
    Keeps s0 (takeClaim z k level s) := by
  unfold takeClaim
  repeat' (first | (simp (maxDischargeDepth := 99) (etaStruct := .none) only [h, setClaim_keeps, Keeps.ite]; done) | split)

theorem releaseAll_keeps {s0 : State} (k : Nat) {s : State} (h : Keeps s0 s) :
    Keeps s0 (releaseAll k s) := by
  unfold releaseAll
  simp (maxDischargeDepth := 99) (etaStruct := .none) only [h, modWeld_keeps]

theorem applyClaim_keeps {s0 : State} (r : ClaimReq) {s : State} (h : Keeps s0 s) :
    Keeps s0 (applyClaim r s) := by
  unfold applyClaim
  repeat' (first | (simp (maxDischargeDepth := 99) (etaStruct := .none) only [h, releaseAll_keeps, setClaim_keeps, takeClaim_keeps, weldEvent_keeps, wrn_keeps, Keeps.ite]; done) | split)

theorem rerank_keeps {s0 : State}  {s : State} (h : Keeps s0 s) :
    Keeps s0 (rerank s) := by
  unfold rerank
  repeat' (first | intro _ | (simp (maxDischargeDepth := 99) (etaStruct := .none) only [*, setClaim_keeps]; done) | with_reducible assumption | with_reducible rfl | with_reducible apply Keeps.ite | with_reducible apply setClaim_keeps | with_reducible apply Keeps.foldl | split | dsimp only)

theorem applyClaims_keeps {s0 : State}  {s : State} (h : Keeps s0 s) :
    Keeps s0 (applyClaims s) := by
  unfold applyClaims
  repeat' (first | intro _ | (simp (maxDischargeDepth := 99) (etaStruct := .none) only [*, applyClaim_keeps, modWeld_keeps]; done) | with_reducible assumption | with_reducible rfl | with_reducible apply Keeps.ite | with_reducible apply applyClaim_keeps | with_reducible apply modWeld_keeps | with_reducible apply rerank_keeps | with_reducible apply Keeps.foldl | split | dsimp only)

theorem domainCheck_keeps {s0 : State}  {s : State} (h : Keeps s0 s) :
    Keeps s0 (domainCheck s) := by
  unfold domainCheck
  repeat' (first | intro _ | (simp (maxDischargeDepth := 99) (etaStruct := .none) only [*, modWeld_keeps, weldEvent_keeps]; done) | with_reducible assumption | with_reducible rfl | with_reducible apply Keeps.ite | with_reducible apply modWeld_keeps | with_reducible apply weldEvent_keeps | with_reducible apply Keeps.foldl | split | dsimp only)

theorem infailUpdate_keeps {s0 : State}  {s : State} (h : Keeps s0 s) :
    Keeps s0 (infailUpdate s) := by
  unfold infailUpdate
  repeat' (first | intro _ | (simp (maxDischargeDepth := 99) (etaStruct := .none) only [*, wrn_keeps]; done) | with_reducible assumption | with_reducible rfl | with_reducible apply Keeps.ite | with_reducible apply wrn_keeps | with_reducible apply Keeps.foldl | split | dsimp only)

theorem arbitrate_keeps {s0 : State} (z : Nat) {s : State} (h : Keeps s0 s) :
    Keeps s0 (arbitrate z s) := by
  unfold arbitrate
  simp (maxDischargeDepth := 99) (etaStruct := .none) only [h, setZoneSt_keeps, weldEvent_keeps, Keeps.ite]

theorem weldHingeEnd_keeps {s0 : State}  {s : State} (h : Keeps s0 s) :
    Keeps s0 (weldHingeEnd s) := by
  unfold weldHingeEnd
  repeat' (first | intro _ | (simp (maxDischargeDepth := 99) (etaStruct := .none) only [*, arbitrate_keeps, domainCheck_keeps, infailUpdate_keeps]; done) | with_reducible assumption | with_reducible rfl | with_reducible apply Keeps.ite | with_reducible apply arbitrate_keeps | with_reducible apply domainCheck_keeps | with_reducible apply infailUpdate_keeps | with_reducible apply Keeps.foldl | split | dsimp only)

theorem rescaleGates_keeps {s0 : State} (z : Nat) (xo : Nat) (xn : Nat) {s : State} (h : Keeps s0 s) :
    Keeps s0 (rescaleGates z xo xn s) := by
  unfold rescaleGates
  repeat' (first | intro _ | (simp (maxDischargeDepth := 99) (etaStruct := .none) only [*, setGate_keeps]; done) | with_reducible assumption | with_reducible rfl | with_reducible apply Keeps.ite | with_reducible apply setGate_keeps | with_reducible apply Keeps.foldl | split | dsimp only)

theorem applyTableWord_keeps {s0 : State} (t : Option ApTable) (a : Nat) (v : Word) {s : State} (h : Keeps s0 s) :
    Keeps s0 (applyTableWord t a v s) := by
  have hw := wr_keeps a v h
  unfold applyTableWord
  split
  · exact applyNode_keeps _ _ _ h
  · exact Keeps.ite h (wr_keeps _ _ (modWeld_keeps _ h))
  · extract_lets x y
    have h1 : Keeps s0 y := Keeps.ite h (wr_keeps _ _ (modWeld_keeps _ h))
    exact Keeps.ite (weldEvent_keeps _ _ h1) h1
  · exact Keeps.ite (weldEvent_keeps _ _ hw) hw
  · exact Keeps.ite (Keeps.ite (weldEvent_keeps _ _ (rescaleGates_keeps _ _ _ hw)) (rescaleGates_keeps _ _ _ hw)) hw
  · exact hw

theorem applyWeldWord_keeps {s0 : State} (a : Nat) (v : Word) {s : State} (h : Keeps s0 s) :
    Keeps s0 (applyWeldWord a v s) := by
  unfold applyWeldWord
  simp (maxDischargeDepth := 99) (etaStruct := .none) only [h, applyTableWord_keeps]

theorem weldBuffered_keeps {s0 : State} {s : State} (h : Keeps s0 s) : Keeps s0 (weldBuffered s) := by
  unfold weldBuffered
  extract_lets mine s1 s2 s3
  have h1 : Keeps s0 s1 := Keeps.wbFilter _ h
  have h2 : Keeps s0 s2 := Keeps.foldl (fun t x ht => by
    split
    · exact Keeps.ite (wr_keeps _ _ ht) ht
    · exact ht) h1
  have h3 : Keeps s0 s3 := Keeps.foldl (fun t x ht => by
    split
    · exact Keeps.ite ht (applyWeldWord_keeps _ _ ht)
    · exact ht) h2
  clear_value s3
  exact applyClaims_keeps (Keeps.mk_same h3 rfl)

theorem weldEvacEnter_keeps {s0 : State}  {s : State} (h : Keeps s0 s) :
    Keeps s0 (weldEvacEnter s) := by
  unfold weldEvacEnter
  simp (maxDischargeDepth := 99) (etaStruct := .none) only [h, modWeld_keeps]

theorem weldEvacLeave_keeps {s0 : State}  {s : State} (h : Keeps s0 s) :
    Keeps s0 (weldEvacLeave s) := by
  unfold weldEvacLeave
  simp (maxDischargeDepth := 99) (etaStruct := .none) only [h, modWeld_keeps, releaseAll_keeps]

theorem weldTenantReset_keeps {s0 : State} (t : Nat) {s : State} (h : Keeps s0 s) :
    Keeps s0 (weldTenantReset t s) := by
  unfold weldTenantReset
  repeat' (first | intro _ | (simp (maxDischargeDepth := 99) (etaStruct := .none) only [*, releaseAll_keeps, rerank_keeps, setTarget_keeps]; done) | with_reducible assumption | with_reducible rfl | with_reducible apply Keeps.ite | with_reducible apply releaseAll_keeps | with_reducible apply rerank_keeps | with_reducible apply setTarget_keeps | with_reducible apply Keeps.foldl | split | dsimp only)

end Sys2Proof.Machine
end

