-- ==== Sys2Proof/Laws/KeepsFixed.lean ====
section
/-! SUPPORT. What the operations of Machine/Fixed.lean keep (Laws/Keeps.lean says what that is). -/

namespace Sys2Proof.Machine
open Sys2Proof

theorem toneEvent_keeps {s0 : State} (bit : Nat) (g : Nat) {s : State} (h : Keeps s0 s) :
    Keeps s0 (toneEvent bit g s) := by
  unfold toneEvent
  simp (maxDischargeDepth := 99) (etaStruct := .none) only [h, sqSet_keeps, wrn_keeps]

theorem qnchEvent_keeps {s0 : State} (bit : Nat) (n : Nat) {s : State} (h : Keeps s0 s) :
    Keeps s0 (qnchEvent bit n s) := by
  unfold qnchEvent
  simp (maxDischargeDepth := 99) (etaStruct := .none) only [h, sqSet_keeps, wrn_keeps]

theorem setGen_keeps {s0 : State} (g : Nat) (x : ToneGen) {s : State} (h : Keeps s0 s) :
    Keeps s0 (State.setGen s g x) := by
  unfold State.setGen
  simp (maxDischargeDepth := 99) (etaStruct := .none) only [h, Keeps.mk_same]

theorem toneFrame_keeps {s0 : State} (g : Nat) {s : State} (h : Keeps s0 s) :
    Keeps s0 (toneFrame g s) := by
  unfold toneFrame
  simp (maxDischargeDepth := 99) (etaStruct := .none) only [h, lanePut_keeps, setGen_keeps, Keeps.ite]

theorem tonesFrame_keeps {s0 : State}  {s : State} (h : Keeps s0 s) :
    Keeps s0 (tonesFrame s) := by
  unfold tonesFrame
  repeat' (first | intro _ | (simp (maxDischargeDepth := 99) (etaStruct := .none) only [*, toneFrame_keeps, Keeps.mk_same]; done) | with_reducible assumption | with_reducible rfl | with_reducible apply Keeps.ite | with_reducible apply toneFrame_keeps | with_reducible apply Keeps.foldl | with_reducible apply Keeps.mk_same | split | dsimp only)

theorem toneBadEvent_keeps {s0 : State} (g : Nat) {s : State} (h : Keeps s0 s) :
    Keeps s0 (toneBadEvent g s) := by
  unfold toneBadEvent
  simp (maxDischargeDepth := 99) (etaStruct := .none) only [h, toneEvent_keeps, Keeps.ite]

theorem toneStart_keeps {s0 : State} (g : Nat) {s : State} (h : Keeps s0 s) :
    Keeps s0 (toneStart g s) := by
  unfold toneStart
  simp (maxDischargeDepth := 99) (etaStruct := .none) only [h, setGen_keeps, toneBadEvent_keeps]

theorem toneFall_keeps {s0 : State} (g : Nat) {s : State} (h : Keeps s0 s) :
    Keeps s0 (toneFall g s) := by
  unfold toneFall
  simp (maxDischargeDepth := 99) (etaStruct := .none) only [h, setGen_keeps, Keeps.ite]

theorem toneRunChange_keeps {s0 : State} (g : Nat) (old : Bool) (new : Bool) {s : State} (h : Keeps s0 s) :
    Keeps s0 (toneRunChange g old new s) := by
  unfold toneRunChange
  simp (maxDischargeDepth := 99) (etaStruct := .none) only [h, clearBoth_keeps, toneEvent_keeps, toneFall_keeps, toneStart_keeps, Keeps.ite]

theorem toneRunWrite_keeps {s0 : State} (a : Nat) (v : Word) {s : State} (h : Keeps s0 s) :
    Keeps s0 (toneRunWrite a v s) := by
  unfold toneRunWrite
  repeat' (first | intro _ | (simp (maxDischargeDepth := 99) (etaStruct := .none) only [*, toneRunChange_keeps, wr_keeps]; done) | with_reducible assumption | with_reducible rfl | with_reducible apply Keeps.ite | with_reducible apply toneRunChange_keeps | with_reducible apply wr_keeps | with_reducible apply Keeps.foldl | split | dsimp only)

theorem toneHinges_keeps {s0 : State}  {s : State} (h : Keeps s0 s) :
    Keeps s0 (toneHinges s) := by
  unfold toneHinges
  repeat' (first | intro _ | (simp (maxDischargeDepth := 99) (etaStruct := .none) only [*, gen_keeps, setGen_keeps, Keeps.ite, Keeps.mk_same]; done) | with_reducible assumption | with_reducible rfl | with_reducible apply Keeps.ite | with_reducible apply gen_keeps | with_reducible apply setGen_keeps | with_reducible apply Keeps.foldl | split | dsimp only)

theorem toneBuffered_keeps {s0 : State}  {s : State} (h : Keeps s0 s) :
    Keeps s0 (toneBuffered s) := by
  unfold toneBuffered
  repeat' (first | intro _ | (simp (maxDischargeDepth := 99) (etaStruct := .none) only [*, takeBuffered_keeps, toneHinges_keeps, toneRunWrite_keeps, Keeps.ite, Keeps.mk_same]; done) | with_reducible assumption | with_reducible rfl | with_reducible apply Keeps.ite | with_reducible apply takeBuffered_keeps | with_reducible apply toneHinges_keeps | with_reducible apply toneRunWrite_keeps | with_reducible apply Keeps.foldl | split | dsimp only)
  all_goals (refine Keeps.mk_same ?_ rfl)
  all_goals repeat' (first | intro _ | (simp (maxDischargeDepth := 99) (etaStruct := .none) only [*, takeBuffered_keeps, toneHinges_keeps, toneRunWrite_keeps, Keeps.ite, Keeps.mk_same]; done) | with_reducible assumption | with_reducible rfl | with_reducible apply Keeps.ite | with_reducible apply takeBuffered_keeps | with_reducible apply toneHinges_keeps | with_reducible apply toneRunWrite_keeps | with_reducible apply Keeps.foldl | split | dsimp only)

theorem patternStep_keeps {s0 : State} (g : Nat) {s : State} (h : Keeps s0 s) :
    Keeps s0 (patternStep g s) := by
  unfold patternStep
  simp (maxDischargeDepth := 99) (etaStruct := .none) only [h, setGen_keeps, Keeps.ite]

theorem generatorStopped_keeps {s0 : State} (g : Nat) {s : State} (h : Keeps s0 s) :
    Keeps s0 (generatorStopped g s) := by
  unfold generatorStopped
  simp (maxDischargeDepth := 99) (etaStruct := .none) only [h, clearBoth_keeps, lanePut_keeps, setGen_keeps, toneEvent_keeps, Keeps.ite]

theorem toneCommitted_keeps {s0 : State} (g : Nat) {s : State} (h : Keeps s0 s) :
    Keeps s0 (toneCommitted g s) := by
  unfold toneCommitted
  simp (maxDischargeDepth := 99) (etaStruct := .none) only [h, setGen_keeps, toneBadEvent_keeps, Keeps.ite]

theorem setToneOwner_keeps {s0 : State} (g : Nat) (k : Nat) {s : State} (h : Keeps s0 s) :
    Keeps s0 (setToneOwner g k s) := by
  unfold setToneOwner
  simp (maxDischargeDepth := 99) (etaStruct := .none) only [h, wrf_keeps]

theorem toneTenantReset_keeps {s0 : State} (t : Nat) {s : State} (h : Keeps s0 s) :
    Keeps s0 (toneTenantReset t s) := by
  unfold toneTenantReset
  repeat' (first | intro _ | (simp (maxDischargeDepth := 99) (etaStruct := .none) only [*, clearBoth_keeps, toneFall_keeps, Keeps.ite]; done) | with_reducible assumption | with_reducible rfl | with_reducible apply Keeps.ite | with_reducible apply clearBoth_keeps | with_reducible apply toneFall_keeps | with_reducible apply Keeps.foldl | split | dsimp only)

theorem pilotsAdvance_keeps {s0 : State}  {s : State} (h : Keeps s0 s) :
    Keeps s0 (pilotsAdvance s) := by
  unfold pilotsAdvance
  repeat' (first | intro _ | (simp (maxDischargeDepth := 99) (etaStruct := .none) only [*, setGen_keeps, Keeps.ite]; done) | with_reducible assumption | with_reducible rfl | with_reducible apply Keeps.ite | with_reducible apply setGen_keeps | with_reducible apply Keeps.foldl | split | dsimp only)

theorem pilotsScale_keeps {s0 : State}  {s : State} (h : Keeps s0 s) :
    Keeps s0 (pilotsScale s) := by
  unfold pilotsScale
  repeat' (first | intro _ | (simp (maxDischargeDepth := 99) (etaStruct := .none) only [*, Keeps.ite, Keeps.mk_same]; done) | with_reducible assumption | with_reducible rfl | with_reducible apply Keeps.ite | with_reducible apply Keeps.foldl | split | dsimp only)

theorem pilotClipped_keeps {s0 : State} (p : Nat) {s : State} (h : Keeps s0 s) :
    Keeps s0 (pilotClipped p s) := by
  unfold pilotClipped
  simp (maxDischargeDepth := 99) (etaStruct := .none) only [h, incSat_keeps, toneEvent_keeps]

theorem addPilots_keeps {s0 : State} (d : Nat) (v : Word) {s : State} (h : Keeps s0 s) :
    Keeps s0 (addPilots d v s).2 := by
  unfold addPilots
  simp only [apply_ite Prod.snd]
  repeat' (first | intro _ | (simp (maxDischargeDepth := 99) (etaStruct := .none) only [*, pilotClipped_keeps]; done) | with_reducible assumption | with_reducible rfl | with_reducible apply Keeps.ite | with_reducible apply pilotClipped_keeps | with_reducible apply Keeps.foldl | split | dsimp only)

theorem setLim_keeps {s0 : State} (o : Nat) (x : Limiter) {s : State} (h : Keeps s0 s) :
    Keeps s0 (State.setLim s o x) := by
  unfold State.setLim
  simp (maxDischargeDepth := 99) (etaStruct := .none) only [h, Keeps.mk_same]

theorem limClip_keeps {s0 : State} (o : Nat) {s : State} (h : Keeps s0 s) :
    Keeps s0 (limClip o s) := by
  unfold limClip
  simp (maxDischargeDepth := 99) (etaStruct := .none) only [h, qnchEvent_keeps, setLim_keeps]

theorem limFrame_keeps {s0 : State} (o : Nat) (fDom : Bool) (x : Word) {s : State} (h : Keeps s0 s) :
    Keeps s0 (limFrame o fDom x s).2 := by
  unfold limFrame
  simp (maxDischargeDepth := 99) (etaStruct := .none) only [h, limClip_keeps, setLim_keeps, Keeps.ite]

theorem limCommitted_keeps {s0 : State} (o : Nat) (oldLook : Nat) {s : State} (h : Keeps s0 s) :
    Keeps s0 (limCommitted o oldLook s) := by
  unfold limCommitted
  simp (maxDischargeDepth := 99) (etaStruct := .none) only [h, setLim_keeps, Keeps.ite]

theorem setEqLane_keeps {s0 : State} (n : Nat) (x : EqLane) {s : State} (h : Keeps s0 s) :
    Keeps s0 (State.setEqLane s n x) := by
  unfold State.setEqLane
  simp (maxDischargeDepth := 99) (etaStruct := .none) only [h, Keeps.mk_same]

theorem eqSection_keeps {s0 : State} (lane : Nat) (sec : Nat) (x : Word) {s : State} (h : Keeps s0 s) :
    Keeps s0 (eqSection lane sec x s).2 := by
  unfold eqSection
  simp (maxDischargeDepth := 99) (etaStruct := .none) only [h, incSat_keeps, qnchEvent_keeps, wr_keeps, Keeps.ite]

theorem eqSections_keeps {s0 : State} (lane : Nat) (x : Word) {s : State} (h : Keeps s0 s) :
    Keeps s0 (eqSections lane x s).2 := by
  unfold eqSections
  exact Keeps.foldl_of (p := fun y : Word × State => y.2) (fun y k hy => eqSection_keeps _ _ _ hy) (b := (x, s)) h

theorem eqFRate_keeps {s0 : State} (lane : Nat) (x : Word) {s : State} (h : Keeps s0 s) :
    Keeps s0 (eqFRate lane x s).2 := by
  unfold eqFRate
  repeat' (first | intro _ | (simp (maxDischargeDepth := 99) (etaStruct := .none) only [*, eqSections_keeps, setEqLane_keeps, Keeps.ite, Keeps.mk_same, apply_ite Prod.snd]; done) | with_reducible assumption | with_reducible rfl | with_reducible apply Keeps.ite | with_reducible apply eqSections_keeps | with_reducible apply setEqLane_keeps | with_reducible apply Keeps.foldl | split | dsimp only)

theorem eqFrame_keeps {s0 : State} (lane : Nat) (dry : Word) {s : State} (h : Keeps s0 s) :
    Keeps s0 (eqFrame lane dry s).2 := by
  unfold eqFrame
  repeat' (first | intro _ | (simp (maxDischargeDepth := 99) (etaStruct := .none) only [*, eqFRate_keeps, eqSections_keeps, setEqLane_keeps, Keeps.ite, Keeps.mk_same, apply_ite Prod.snd]; done) | with_reducible assumption | with_reducible rfl | with_reducible apply Keeps.ite | with_reducible apply eqFRate_keeps | with_reducible apply eqSections_keeps | with_reducible apply setEqLane_keeps | with_reducible apply Keeps.foldl | split | dsimp only)

theorem eqClear_keeps {s0 : State} (n : Nat) {s : State} (h : Keeps s0 s) :
    Keeps s0 (eqClear n s) := by
  unfold eqClear
  repeat' (first | intro _ | (simp (maxDischargeDepth := 99) (etaStruct := .none) only [*, wr_keeps]; done) | with_reducible assumption | with_reducible rfl | with_reducible apply Keeps.ite | with_reducible apply wr_keeps | with_reducible apply Keeps.foldl | split | dsimp only)

theorem eqEnChange_keeps {s0 : State} (old : Nat → Bool) {s : State} (h : Keeps s0 s) :
    Keeps s0 (eqEnChange old s) := by
  unfold eqEnChange
  repeat' (first | intro _ | (simp (maxDischargeDepth := 99) (etaStruct := .none) only [*, clearBoth_keeps, eqClear_keeps, qnchEvent_keeps, setEqLane_keeps, wrn_keeps, Keeps.ite]; done) | with_reducible assumption | with_reducible rfl | with_reducible apply Keeps.ite | with_reducible apply clearBoth_keeps | with_reducible apply eqClear_keeps | with_reducible apply qnchEvent_keeps | with_reducible apply setEqLane_keeps | with_reducible apply wrn_keeps | with_reducible apply Keeps.foldl | split | dsimp only)

theorem setSpw_keeps {s0 : State} (c : Nat) (x : Speedwell) {s : State} (h : Keeps s0 s) :
    Keeps s0 (State.setSpw s c x) := by
  unfold State.setSpw
  simp (maxDischargeDepth := 99) (etaStruct := .none) only [h, Keeps.mk_same]

theorem spwEnChange_keeps {s0 : State} (old : Word) (new : Word) {s : State} (h : Keeps s0 s) :
    Keeps s0 (spwEnChange old new s) := by
  unfold spwEnChange
  repeat' (first | intro _ | (simp (maxDischargeDepth := 99) (etaStruct := .none) only [*, clearBoth_keeps, qnchEvent_keeps, setSpw_keeps, wrn_keeps, Keeps.ite]; done) | with_reducible assumption | with_reducible rfl | with_reducible apply Keeps.ite | with_reducible apply clearBoth_keeps | with_reducible apply qnchEvent_keeps | with_reducible apply setSpw_keeps | with_reducible apply wrn_keeps | with_reducible apply Keeps.foldl | split | dsimp only)

theorem spwGainWrite_keeps {s0 : State} (c : Nat) (v : Word) {s : State} (h : Keeps s0 s) :
    Keeps s0 (spwGainWrite c v s) := by
  unfold spwGainWrite
  simp (maxDischargeDepth := 99) (etaStruct := .none) only [h, setSpw_keeps, wr_keeps, Keeps.ite]

theorem spwFrame_keeps {s0 : State} (c : Nat) {s : State} (h : Keeps s0 s) :
    Keeps s0 (spwFrame c s) := by
  unfold spwFrame
  simp (maxDischargeDepth := 99) (etaStruct := .none) only [h, limFrame_keeps, modWeld_keeps, setSpw_keeps, Keeps.ite]

theorem spwsFrame_keeps {s0 : State}  {s : State} (h : Keeps s0 s) :
    Keeps s0 (spwsFrame s) := by
  unfold spwsFrame
  repeat' (first | intro _ | (simp (maxDischargeDepth := 99) (etaStruct := .none) only [*, spwFrame_keeps]; done) | with_reducible assumption | with_reducible rfl | with_reducible apply Keeps.ite | with_reducible apply spwFrame_keeps | with_reducible apply Keeps.foldl | split | dsimp only)

theorem qnchFrame_keeps {s0 : State} {s : State} (h : Keeps s0 s) : Keeps s0 (qnchFrame s) := by
  unfold qnchFrame
  dsimp only
  refine modWeld_keeps _ (Keeps.foldl_of (p := fun x : Table Word × State => x.2) (fun x o hx => ?_) (Keeps.mk_same h rfl))
  split
  · exact eqFrame_keeps _ _ hx
  · exact limFrame_keeps _ _ _ (eqFrame_keeps _ _ hx)

theorem qnchBuffered_keeps {s0 : State}  {s : State} (h : Keeps s0 s) :
    Keeps s0 (qnchBuffered s) := by
  unfold qnchBuffered
  repeat' (first | intro _ | (simp (maxDischargeDepth := 99) (etaStruct := .none) only [*, setSpw_keeps, spwGainWrite_keeps, takeBuffered_keeps, wr_keeps, Keeps.ite]; done) | with_reducible assumption | with_reducible rfl | with_reducible apply Keeps.ite | with_reducible apply eqEnChange_keeps | with_reducible apply setSpw_keeps | with_reducible apply spwEnChange_keeps | with_reducible apply spwGainWrite_keeps | with_reducible apply takeBuffered_keeps | with_reducible apply wr_keeps | with_reducible apply Keeps.foldl | with_reducible apply Keeps.mk_same | split | dsimp only)

end Sys2Proof.Machine
end

