-- ==== Sys2Proof/Laws/KeepsCommit.lean ====
section
/-! SUPPORT. What the operations of Machine/Commit.lean keep (Laws/Keeps.lean says what that is). -/

namespace Sys2Proof.Machine
open Sys2Proof

theorem applySet_keeps {s0 : State} (c : CSet) {s : State} (h : Keeps s0 s) :
    Keeps s0 (applySet c s) := by
  unfold applySet
  repeat' (first | intro _ | (simp (maxDischargeDepth := 99) (etaStruct := .none) only [*, modSc_keeps, setClean_keeps, setTarget_keeps, startCoefCopy_keeps, wr_keeps]; done) | with_reducible assumption | with_reducible rfl | with_reducible apply Keeps.ite | with_reducible apply limCommitted_keeps | with_reducible apply modSc_keeps | with_reducible apply setClean_keeps | with_reducible apply setTarget_keeps | with_reducible apply startCoefCopy_keeps | with_reducible apply toneCommitted_keeps | with_reducible apply wr_keeps | with_reducible apply Keeps.foldl | split | dsimp only)

theorem commitGroup_keeps {s0 : State} (g : Nat) {s : State} (h : Keeps s0 s) :
    Keeps s0 (commitGroup g s) := by
  unfold commitGroup
  repeat' (first | intro _ | (simp (maxDischargeDepth := 99) (etaStruct := .none) only [*, applySet_keeps]; done) | with_reducible assumption | with_reducible rfl | with_reducible apply Keeps.ite | with_reducible apply applySet_keeps | with_reducible apply completeGroup_keeps | with_reducible apply Keeps.foldl | split | dsimp only)

theorem commitStep_keeps {s0 : State} (swapped : Bool) {s : State} (h : Keeps s0 s) :
    Keeps s0 (commitStep swapped s) := by
  unfold commitStep
  repeat' (first | intro _ | (simp (maxDischargeDepth := 99) (etaStruct := .none) only [*, cancelGroup_keeps, commitGroup_keeps, safeEvent_keeps]; done) | with_reducible assumption | with_reducible rfl | with_reducible apply Keeps.ite | with_reducible apply cancelGroup_keeps | with_reducible apply commitGroup_keeps | with_reducible apply inc_keeps | with_reducible apply safeEvent_keeps | with_reducible apply Keeps.foldl | split | dsimp only)

theorem refreshStarted_keeps {s0 : State}  {s : State} (h : Keeps s0 s) :
    Keeps s0 (refreshStarted s) := by
  unfold refreshStarted
  repeat' (first | intro _ | (simp (maxDischargeDepth := 99) (etaStruct := .none) only [*, modSc_keeps, setClean_keeps, startCoefCopy_keeps, Keeps.ite]; done) | with_reducible assumption | with_reducible rfl | with_reducible apply Keeps.ite | with_reducible apply modSc_keeps | with_reducible apply setClean_keeps | with_reducible apply startCoefCopy_keeps | with_reducible apply Keeps.foldl | split | dsimp only)

theorem safeTenantReset_keeps {s0 : State} (t : Nat) {s : State} (h : Keeps s0 s) :
    Keeps s0 (safeTenantReset t s) := by
  unfold safeTenantReset
  repeat' (first | intro _ | (simp (maxDischargeDepth := 99) (etaStruct := .none) only [*, cancelGroup_keeps, discardSet_keeps]; done) | with_reducible assumption | with_reducible rfl | with_reducible apply Keeps.ite | with_reducible apply cancelGroup_keeps | with_reducible apply discardSet_keeps | with_reducible apply Keeps.foldl | split | dsimp only)

theorem safeSleep_keeps {s0 : State}  {s : State} (h : Keeps s0 s) :
    Keeps s0 (safeSleep s) := by
  unfold safeSleep
  repeat' (first | intro _ | (simp (maxDischargeDepth := 99) (etaStruct := .none) only [*, cancelGroup_keeps, discardSet_keeps]; done) | with_reducible assumption | with_reducible rfl | with_reducible apply Keeps.ite | with_reducible apply cancelGroup_keeps | with_reducible apply discardSet_keeps | with_reducible apply Keeps.foldl | split | dsimp only)

theorem installLines_keeps {s0 : State} (n : Nat) {s : State} (h : Keeps s0 s) :
    Keeps s0 (installLines n s) := by
  unfold installLines
  repeat' (first | intro _ | (simp (maxDischargeDepth := 99) (etaStruct := .none) only [*, wr_keeps, Keeps.regsFilter, Keeps.ite]; done) | with_reducible assumption | with_reducible rfl | with_reducible apply Keeps.ite | with_reducible apply wr_keeps | with_reducible apply Keeps.foldl | with_reducible apply Keeps.mk_same | split | dsimp only)

theorem installCore_keeps {s0 : State} (n : Nat) {s : State} (h : Keeps s0 s) :
    Keeps s0 (installCore n s) := by
  unfold installCore
  repeat' (first | intro _ | (simp (maxDischargeDepth := 99) (etaStruct := .none) only [*, installLines_keeps, leaveLanes_keeps, setClean_keeps, setSc_keeps, startCoefCopy_keeps, wr_keeps, Keeps.ite, Keeps.mk_same]; done) | with_reducible assumption | with_reducible rfl | with_reducible apply Keeps.ite | with_reducible apply installLines_keeps | with_reducible apply leaveLanes_keeps | with_reducible apply setClean_keeps | with_reducible apply setSc_keeps | with_reducible apply startCoefCopy_keeps | with_reducible apply wr_keeps | with_reducible apply Keeps.foldl | split | dsimp only)

theorem setRun_keeps {s0 : State} (n : Nat) {s : State} (h : Keeps s0 s) :
    Keeps s0 (setRun n s) := by
  unfold setRun
  repeat' (first | (simp (maxDischargeDepth := 99) (etaStruct := .none) only [h, wrb_keeps, Keeps.wbSet]; done) | split)

theorem swapStart_keeps {s0 : State} (n : Nat) {s : State} (h : Keeps s0 s) :
    Keeps s0 (swapStart n s) := by
  unfold swapStart
  repeat' (first | intro _ | (simp (maxDischargeDepth := 99) (etaStruct := .none) only [*, beginCore_keeps, installCore_keeps, setRun_keeps, Keeps.ite, Keeps.mk_same]; done) | with_reducible assumption | with_reducible rfl | with_reducible apply Keeps.ite | with_reducible apply beginCore_keeps | with_reducible apply installCore_keeps | with_reducible apply setRun_keeps | with_reducible apply Keeps.foldl | split | dsimp only)

theorem applySwap_keeps {s0 : State} {s : State} (h : Keeps s0 s) : Keeps s0 (applySwap s) := by
  unfold applySwap
  extract_lets discard s1 s2 e s3
  have h1 : Keeps s0 s1 := Keeps.foldl (fun t n ht => by
    refine Keeps.ite ?_ ht
    split
    · exact installCore_keeps _ ht
    · exact swapStart_keeps _ ht
    · exact stopCore_keeps _ (clearRun_keeps _ ht)
    · exact ht) h
  clear_value s1
  have h3 : Keeps s0 s3 := Keeps.mk_same (s := s2) (wr_keeps _ _ (wr_keeps _ _ h1)) rfl
  exact Keeps.ite (sqSet_keeps _ _ h3) h3

theorem completeSwap_keeps {s0 : State} (cause : Nat) {s : State} (h : Keeps s0 s) :
    Keeps s0 (completeSwap cause s) := by
  unfold completeSwap
  simp (maxDischargeDepth := 99) (etaStruct := .none) only [h, sqSetX_keeps, wr_keeps, Keeps.mk_same]

theorem swapStep_keeps {s0 : State}  {s : State} (h : Keeps s0 s) :
    Keeps s0 (swapStep s).1 := by
  unfold swapStep
  repeat' (first | (simp (maxDischargeDepth := 99) (etaStruct := .none) only [h, applySwap_keeps, completeSwap_keeps, Keeps.ite]; done) | split)

theorem armSwap_keeps {s0 : State}  {s : State} (h : Keeps s0 s) :
    Keeps s0 (armSwap s) := by
  unfold armSwap
  simp (maxDischargeDepth := 99) (etaStruct := .none) only [h, Keeps.mk_same]

theorem cancelSwap_keeps {s0 : State}  {s : State} (h : Keeps s0 s) :
    Keeps s0 (cancelSwap s) := by
  unfold cancelSwap
  simp (maxDischargeDepth := 99) (etaStruct := .none) only [h, Keeps.mk_same, Keeps.ite]

theorem engEnableWrite_keeps {s0 : State} (on : Bool) {s : State} (h : Keeps s0 s) :
    Keeps s0 (engEnableWrite on s) := by
  unfold engEnableWrite
  repeat' (first | intro _ | (simp (maxDischargeDepth := 99) (etaStruct := .none) only [*, cancelSwap_keeps, wrb_keeps, Keeps.ite, Keeps.mk_same]; done) | with_reducible assumption | with_reducible rfl | with_reducible apply Keeps.ite | with_reducible apply cancelSwap_keeps | with_reducible apply wrb_keeps | with_reducible apply Keeps.foldl | split | dsimp only)

theorem gswapCtrlWrite_keeps {s0 : State} (v : Word) {s : State} (h : Keeps s0 s) :
    Keeps s0 (gswapCtrlWrite v s) := by
  unfold gswapCtrlWrite
  simp (maxDischargeDepth := 99) (etaStruct := .none) only [h, armSwap_keeps, cancelSwap_keeps, Keeps.ite]

theorem stageWritten_keeps {s0 : State}  {s : State} (h : Keeps s0 s) :
    Keeps s0 (stageWritten s) := by
  unfold stageWritten
  simp (maxDischargeDepth := 99) (etaStruct := .none) only [h, sqSet_keeps, Keeps.mk_same]

theorem engBuffered_keeps {s0 : State}  {s : State} (h : Keeps s0 s) :
    Keeps s0 (engBuffered s) := by
  unfold engBuffered
  simp (maxDischargeDepth := 99) (etaStruct := .none) only [h, applyRun_keeps, engDisabled_keeps, takeBuffered_keeps, wr_keeps, Keeps.ite]

end Sys2Proof.Machine
end

