-- ==== Sys2Proof/Laws/KeepsFaultN.lean ====
section
/-! SUPPORT. What the operations of Machine/FaultN.lean keep (Laws/Keeps.lean says what that is). -/

namespace Sys2Proof.Machine
open Sys2Proof

theorem setCtl_keeps {s0 : State} (c : Nat) (x : CtlCore) {s : State} (h : Keeps s0 s) :
    Keeps s0 (State.setCtl s c x) := by
  unfold State.setCtl
  simp (maxDischargeDepth := 99) (etaStruct := .none) only [h, Keeps.mk_same]

theorem latchFault_keeps {s0 : State} (why : Nat) {s : State} (h : Keeps s0 s) :
    Keeps s0 (latchFault why s) := by
  unfold latchFault
  simp (maxDischargeDepth := 99) (etaStruct := .none) only [h, wrn_keeps]

theorem summaryCheck_keeps {s0 : State}  {s : State} (h : Keeps s0 s) :
    Keeps s0 (summaryCheck s) := by
  unfold summaryCheck
  simp (maxDischargeDepth := 99) (etaStruct := .none) only [h, latchFault_keeps, Keeps.ite]

theorem forceFault_keeps {s0 : State}  {s : State} (h : Keeps s0 s) :
    Keeps s0 (forceFault s) := by
  unfold forceFault
  simp (maxDischargeDepth := 99) (etaStruct := .none) only [h, wrb_keeps]

theorem clearFault_keeps {s0 : State} (force : Bool) {s : State} (h : Keeps s0 s) :
    Keeps s0 (clearFault force s) := by
  unfold clearFault
  simp (maxDischargeDepth := 99) (etaStruct := .none) only [h, wrn_keeps, Keeps.ite]

theorem faultCtrl_keeps {s0 : State} (v : Word) {s : State} (h : Keeps s0 s) :
    Keeps s0 (faultCtrl v s) := by
  unfold faultCtrl
  simp (maxDischargeDepth := 99) (etaStruct := .none) only [h, clearFault_keeps, forceFault_keeps, Keeps.ite]

end Sys2Proof.Machine
end

