-- ==== Sys2Proof/Laws/KeepsSense.lean ====
section
/-! SUPPORT. What the operations of Machine/Sense.lean keep (Laws/Keeps.lean says what that is). -/

namespace Sys2Proof.Machine
open Sys2Proof

theorem modSense_keeps {s0 : State} (f : Sense → Sense) {s : State} (h : Keeps s0 s) :
    Keeps s0 (State.modSense s f) := by
  unfold State.modSense
  simp (maxDischargeDepth := 99) (etaStruct := .none) only [h, Keeps.mk_same]

theorem setMon_keeps {s0 : State} (m : Nat) (x : Monitor) {s : State} (h : Keeps s0 s) :
    Keeps s0 (State.setMon s m x) := by
  unfold State.setMon
  simp (maxDischargeDepth := 99) (etaStruct := .none) only [h, modSense_keeps]

theorem senseEvent_keeps {s0 : State} (bit : Nat) (m : Nat) {s : State} (h : Keeps s0 s) :
    Keeps s0 (senseEvent bit m s) := by
  unfold senseEvent
  simp (maxDischargeDepth := 99) (etaStruct := .none) only [h, sqSet_keeps, wrn_keeps]

theorem vtEvent_keeps {s0 : State} (bit : Nat) {s : State} (h : Keeps s0 s) :
    Keeps s0 (vtEvent bit s) := by
  unfold vtEvent
  simp (maxDischargeDepth := 99) (etaStruct := .none) only [h, sqSet_keeps]

theorem senseSample_keeps {s0 : State} (sense : List Word) (n : Nat) {s : State} (h : Keeps s0 s) :
    Keeps s0 (senseSample sense n s).2 := by
  unfold senseSample
  repeat' (first | intro _ | (simp (maxDischargeDepth := 99) (etaStruct := .none) only [*, chEn_keeps, draw_keeps, Keeps.ite, Keeps.mk_same, apply_ite Prod.snd]; done) | with_reducible assumption | with_reducible rfl | with_reducible apply Keeps.ite | with_reducible apply chEn_keeps | with_reducible apply draw_keeps | with_reducible apply Keeps.foldl | split | dsimp only)

theorem learnEnd_keeps {s0 : State} (m : Nat) (l : List (Nat × Int × Bool)) {s : State} (h : Keeps s0 s) :
    Keeps s0 (learnEnd m l s) := by
  unfold learnEnd
  simp (maxDischargeDepth := 99) (etaStruct := .none) only [h, senseEvent_keeps, setMon_keeps, wrn_keeps, Keeps.ite]

theorem declareFault_keeps {s0 : State} (m : Nat) (cls : Nat) {s : State} (h : Keeps s0 s) :
    Keeps s0 (declareFault m cls s) := by
  unfold declareFault
  simp (maxDischargeDepth := 99) (etaStruct := .none) only [h, latchFault_keeps, senseEvent_keeps, setMon_keeps]

theorem monitorSample_keeps {s0 : State} (sense : List Word) (m : Nat) {s : State} (h : Keeps s0 s) :
    Keeps s0 (monitorSample sense m s) := by
  unfold monitorSample
  repeat' (first | intro _ | (simp (maxDischargeDepth := 99) (etaStruct := .none) only [*, hann_keeps, lmCfg_keeps, mon_keeps, monitorRuns_keeps, senseSample_keeps, setMon_keeps, Keeps.ite, Keeps.mk_same]; done) | with_reducible assumption | with_reducible rfl | with_reducible apply Keeps.ite | with_reducible apply hann_keeps | with_reducible apply lmCfg_keeps | with_reducible apply mon_keeps | with_reducible apply monitorRuns_keeps | with_reducible apply senseSample_keeps | with_reducible apply setMon_keeps | with_reducible apply Keeps.foldl | split | dsimp only)

theorem senseStrike_keeps {s0 : State} (sense : List Word) {s : State} (h : Keeps s0 s) :
    Keeps s0 (senseStrike sense s) := by
  unfold senseStrike
  repeat' (first | intro _ | (simp (maxDischargeDepth := 99) (etaStruct := .none) only [*, monitorSample_keeps, Keeps.ite, Keeps.mk_same]; done) | with_reducible assumption | with_reducible rfl | with_reducible apply Keeps.ite | with_reducible apply monitorSample_keeps | with_reducible apply Keeps.foldl | split | dsimp only)

theorem windowResult_keeps {s0 : State} (m : Nat) {s : State} (h : Keeps s0 s) :
    Keeps s0 (windowResult m s) := by
  unfold windowResult
  repeat' (first | intro _ | (simp (maxDischargeDepth := 99) (etaStruct := .none) only [*, declareFault_keeps, draw_keeps, learnEnd_keeps, setMon_keeps, Keeps.ite, Keeps.mk_same]; done) | with_reducible assumption | with_reducible rfl | with_reducible apply Keeps.ite | with_reducible apply declareFault_keeps | with_reducible apply draw_keeps | with_reducible apply learnEnd_keeps | with_reducible apply setMon_keeps | with_reducible apply Keeps.foldl | split | dsimp only)

theorem relayDrive_keeps {s0 : State} (m : Nat) {s : State} (h : Keeps s0 s) :
    Keeps s0 (relayDrive m s) := by
  unfold relayDrive
  simp (maxDischargeDepth := 99) (etaStruct := .none) only [h, senseEvent_keeps, setMon_keeps, wrb_keeps, Keeps.ite]

theorem lmAck_keeps {s0 : State} (v : Word) {s : State} (h : Keeps s0 s) :
    Keeps s0 (lmAck v s) := by
  unfold lmAck
  repeat' (first | intro _ | (simp (maxDischargeDepth := 99) (etaStruct := .none) only [*, setMon_keeps, Keeps.ite]; done) | with_reducible assumption | with_reducible rfl | with_reducible apply Keeps.ite | with_reducible apply setMon_keeps | with_reducible apply Keeps.foldl | split | dsimp only)

theorem lmLearn_keeps {s0 : State} (v : Word) {s : State} (h : Keeps s0 s) :
    Keeps s0 (lmLearn v s) := by
  unfold lmLearn
  repeat' (first | intro _ | (simp (maxDischargeDepth := 99) (etaStruct := .none) only [*, setMon_keeps, Keeps.ite]; done) | with_reducible assumption | with_reducible rfl | with_reducible apply Keeps.ite | with_reducible apply setMon_keeps | with_reducible apply Keeps.foldl | split | dsimp only)

theorem monitorHinge_keeps {s0 : State} (m : Nat) {s : State} (h : Keeps s0 s) :
    Keeps s0 (monitorHinge m s) := by
  unfold monitorHinge
  simp (maxDischargeDepth := 99) (etaStruct := .none) only [h, setMon_keeps, Keeps.ite]

theorem lmEnChange_keeps {s0 : State} (old : Word) (new : Word) (m : Nat) {s : State} (h : Keeps s0 s) :
    Keeps s0 (lmEnChange old new m s) := by
  unfold lmEnChange
  simp (maxDischargeDepth := 99) (etaStruct := .none) only [h, clearBoth_keeps, senseEvent_keeps, setMon_keeps, Keeps.ite]

theorem senseBuffered_keeps {s0 : State}  {s : State} (h : Keeps s0 s) :
    Keeps s0 (senseBuffered s) := by
  unfold senseBuffered
  repeat' (first | intro _ | (simp (maxDischargeDepth := 99) (etaStruct := .none) only [*, lmEnChange_keeps, takeBuffered_keeps, wr_keeps]; done) | with_reducible assumption | with_reducible rfl | with_reducible apply Keeps.ite | with_reducible apply lmEnChange_keeps | with_reducible apply takeBuffered_keeps | with_reducible apply wr_keeps | with_reducible apply Keeps.foldl | split | dsimp only)

theorem modVt_keeps {s0 : State} (f : Vt → Vt) {s : State} (h : Keeps s0 s) :
    Keeps s0 (State.modVt s f) := by
  unfold State.modVt
  simp (maxDischargeDepth := 99) (etaStruct := .none) only [h, modSense_keeps]

theorem setVtSlot_keeps {s0 : State} (k : Nat) (x : VtSlot) {s : State} (h : Keeps s0 s) :
    Keeps s0 (State.setVtSlot s k x) := by
  unfold State.setVtSlot
  simp (maxDischargeDepth := 99) (etaStruct := .none) only [h, modVt_keeps]

theorem setVerdict_keeps {s0 : State} (k : Nat) (v : Nat) {s : State} (h : Keeps s0 s) :
    Keeps s0 (setVerdict k v s) := by
  unfold setVerdict
  simp (maxDischargeDepth := 99) (etaStruct := .none) only [h, wrf_keeps]

theorem passBegin_keeps {s0 : State}  {s : State} (h : Keeps s0 s) :
    Keeps s0 (passBegin s) := by
  unfold passBegin
  repeat' (first | intro _ | (simp (maxDischargeDepth := 99) (etaStruct := .none) only [*, claimWrite_keeps, modVt_keeps, setVtSlot_keeps, wrf_keeps]; done) | with_reducible assumption | with_reducible rfl | with_reducible apply Keeps.ite | with_reducible apply claimWrite_keeps | with_reducible apply modVt_keeps | with_reducible apply setVtSlot_keeps | with_reducible apply wrf_keeps | with_reducible apply Keeps.foldl | split | dsimp only)

theorem passStart_keeps {s0 : State}  {s : State} (h : Keeps s0 s) :
    Keeps s0 (passStart s) := by
  unfold passStart
  simp (maxDischargeDepth := 99) (etaStruct := .none) only [h, passBegin_keeps, vtEvent_keeps, Keeps.ite]

theorem abortPass_keeps {s0 : State}  {s : State} (h : Keeps s0 s) :
    Keeps s0 (abortPass s) := by
  unfold abortPass
  simp (maxDischargeDepth := 99) (etaStruct := .none) only [h, modVt_keeps, Keeps.ite]

theorem vtCtrl_keeps {s0 : State} (v : Word) {s : State} (h : Keeps s0 s) :
    Keeps s0 (vtCtrl v s) := by
  unfold vtCtrl
  simp (maxDischargeDepth := 99) (etaStruct := .none) only [h, abortPass_keeps, passStart_keeps, Keeps.ite]

theorem slotEnd_keeps {s0 : State} (k : Nat) (n : Nat) {s : State} (h : Keeps s0 s) :
    Keeps s0 (slotEnd k n s) := by
  unfold slotEnd
  simp (maxDischargeDepth := 99) (etaStruct := .none) only [h, setVtSlot_keeps]

theorem passRelease_keeps {s0 : State}  {s : State} (h : Keeps s0 s) :
    Keeps s0 (passRelease s) := by
  unfold passRelease
  repeat' (first | intro _ | (simp (maxDischargeDepth := 99) (etaStruct := .none) only [*, rerank_keeps, setClaim_keeps, Keeps.ite, Keeps.mk_same]; done) | with_reducible assumption | with_reducible rfl | with_reducible apply Keeps.ite | with_reducible apply rerank_keeps | with_reducible apply setClaim_keeps | with_reducible apply Keeps.foldl | split | dsimp only)

theorem abortNow_keeps {s0 : State}  {s : State} (h : Keeps s0 s) :
    Keeps s0 (abortNow s) := by
  unfold abortNow
  repeat' (first | intro _ | (simp (maxDischargeDepth := 99) (etaStruct := .none) only [*, setVerdict_keeps, slotEnd_keeps, Keeps.ite]; done) | with_reducible assumption | with_reducible rfl | with_reducible apply Keeps.ite | with_reducible apply modVt_keeps | with_reducible apply passRelease_keeps | with_reducible apply setVerdict_keeps | with_reducible apply slotEnd_keeps | with_reducible apply vtEvent_keeps | with_reducible apply Keeps.foldl | split | dsimp only)

theorem vtHingeBegin_keeps {s0 : State}  {s : State} (h : Keeps s0 s) :
    Keeps s0 (vtHingeBegin s) := by
  unfold vtHingeBegin
  simp (maxDischargeDepth := 99) (etaStruct := .none) only [h, abortNow_keeps, modVt_keeps, passRelease_keeps, Keeps.ite]

theorem refsCheck_keeps {s0 : State}  {s : State} (h : Keeps s0 s) :
    Keeps s0 (refsCheck s) := by
  unfold refsCheck
  repeat' (first | intro _ | (simp (maxDischargeDepth := 99) (etaStruct := .none) only [*, modVt_keeps, setVerdict_keeps, Keeps.ite]; done) | with_reducible assumption | with_reducible rfl | with_reducible apply Keeps.ite | with_reducible apply modVt_keeps | with_reducible apply setVerdict_keeps | with_reducible apply vtEvent_keeps | with_reducible apply Keeps.foldl | split | dsimp only)

theorem vtHingeEnd_keeps {s0 : State}  {s : State} (h : Keeps s0 s) :
    Keeps s0 (vtHingeEnd s) := by
  unfold vtHingeEnd
  repeat' (first | intro _ | (simp (maxDischargeDepth := 99) (etaStruct := .none) only [*, refsCheck_keeps, setVerdict_keeps, slotEnd_keeps, Keeps.ite]; done) | with_reducible assumption | with_reducible rfl | with_reducible apply Keeps.ite | with_reducible apply refsCheck_keeps | with_reducible apply setVerdict_keeps | with_reducible apply slotEnd_keeps | with_reducible apply vtEvent_keeps | with_reducible apply Keeps.foldl | split | dsimp only)

theorem stimulusFrame_keeps {s0 : State} (k : Nat) {s : State} (h : Keeps s0 s) :
    Keeps s0 (stimulusFrame k s) := by
  unfold stimulusFrame
  simp only [apply_ite Prod.fst]
  repeat' (first | intro _ | (simp (maxDischargeDepth := 99) (etaStruct := .none) only [*, lanePut_keeps, setVtSlot_keeps, Keeps.ite]; done) | with_reducible assumption | with_reducible rfl | with_reducible apply Keeps.ite | with_reducible apply lanePut_keeps | with_reducible apply setVtSlot_keeps | with_reducible apply Keeps.foldl | split | dsimp only)

theorem refFrame_keeps {s0 : State} (r : Nat) {s : State} (h : Keeps s0 s) :
    Keeps s0 (refFrame r s) := by
  unfold refFrame
  simp (maxDischargeDepth := 99) (etaStruct := .none) only [h, modVt_keeps, mwr_keeps, Keeps.ite]

theorem vtFrame_keeps {s0 : State}  {s : State} (h : Keeps s0 s) :
    Keeps s0 (vtFrame s) := by
  unfold vtFrame
  repeat' (first | intro _ | (simp (maxDischargeDepth := 99) (etaStruct := .none) only [*, refFrame_keeps, stimulusFrame_keeps]; done) | with_reducible assumption | with_reducible rfl | with_reducible apply Keeps.ite | with_reducible apply modVt_keeps | with_reducible apply refFrame_keeps | with_reducible apply stimulusFrame_keeps | with_reducible apply Keeps.foldl | split | dsimp only)

theorem ambientEnd_keeps {s0 : State}  {s : State} (h : Keeps s0 s) :
    Keeps s0 (ambientEnd s) := by
  unfold ambientEnd
  repeat' (first | intro _ | (simp (maxDischargeDepth := 99) (etaStruct := .none) only [*, draw_keeps, wrn_keeps]; done) | with_reducible assumption | with_reducible rfl | with_reducible apply Keeps.ite | with_reducible apply draw_keeps | with_reducible apply modVt_keeps | with_reducible apply setVtSlot_keeps | with_reducible apply wrb_keeps | with_reducible apply wrf_keeps | with_reducible apply wrn_keeps | with_reducible apply Keeps.foldl | split | dsimp only)

theorem prerollEnd_keeps {s0 : State}  {s : State} (h : Keeps s0 s) :
    Keeps s0 (prerollEnd s) := by
  unfold prerollEnd
  repeat' (first | intro _ | (simp (maxDischargeDepth := 99) (etaStruct := .none) only [*, mclr_keeps, modVt_keeps, Keeps.ite, Keeps.mk_same]; done) | with_reducible assumption | with_reducible rfl | with_reducible apply Keeps.ite | with_reducible apply mclr_keeps | with_reducible apply modVt_keeps | with_reducible apply Keeps.foldl | split | dsimp only)

theorem accumEnd_keeps {s0 : State}  {s : State} (h : Keeps s0 s) :
    Keeps s0 (accumEnd s) := by
  unfold accumEnd
  repeat' (first | intro _ | (simp (maxDischargeDepth := 99) (etaStruct := .none) only [*, setVtSlot_keeps, Keeps.ite]; done) | with_reducible assumption | with_reducible rfl | with_reducible apply Keeps.ite | with_reducible apply modVt_keeps | with_reducible apply setVtSlot_keeps | with_reducible apply Keeps.foldl | split | dsimp only)

theorem transformRef_keeps {s0 : State} (r : Nat) {s : State} (h : Keeps s0 s) :
    Keeps s0 (transformRef r s) := by
  unfold transformRef
  simp (maxDischargeDepth := 99) (etaStruct := .none) only [h, mwrBytes_keeps]

theorem slotResult_keeps {s0 : State} (k : Nat) {s : State} (h : Keeps s0 s) :
    Keeps s0 (slotResult k s) := by
  unfold slotResult
  simp (maxDischargeDepth := 99) (etaStruct := .none) only [h, setVerdict_keeps, wrn_keeps, Keeps.ite]

theorem transformEnd_keeps {s0 : State}  {s : State} (h : Keeps s0 s) :
    Keeps s0 (transformEnd s) := by
  unfold transformEnd
  repeat' (first | intro _ | (simp (maxDischargeDepth := 99) (etaStruct := .none) only [*, slotResult_keeps, transformRef_keeps]; done) | with_reducible assumption | with_reducible rfl | with_reducible apply Keeps.ite | with_reducible apply modVt_keeps | with_reducible apply slotResult_keeps | with_reducible apply transformRef_keeps | with_reducible apply vtEvent_keeps | with_reducible apply Keeps.foldl | split | dsimp only)

theorem senseHinge_keeps {s0 : State}  {s : State} (h : Keeps s0 s) :
    Keeps s0 (senseHinge s) := by
  unfold senseHinge
  repeat' (first | intro _ | (simp (maxDischargeDepth := 99) (etaStruct := .none) only [*, monitorHinge_keeps]; done) | with_reducible assumption | with_reducible rfl | with_reducible apply Keeps.ite | with_reducible apply monitorHinge_keeps | with_reducible apply Keeps.foldl | split | dsimp only)

theorem senseWake_keeps {s0 : State}  {s : State} (h : Keeps s0 s) :
    Keeps s0 (senseWake s) := by
  unfold senseWake
  repeat' (first | intro _ | (simp (maxDischargeDepth := 99) (etaStruct := .none) only [*, setMon_keeps, Keeps.ite]; done) | with_reducible assumption | with_reducible rfl | with_reducible apply Keeps.ite | with_reducible apply setMon_keeps | with_reducible apply Keeps.foldl | split | dsimp only)

theorem senseBlockReset_keeps {s0 : State}  {s : State} (h : Keeps s0 s) :
    Keeps s0 (senseBlockReset s) := by
  unfold senseBlockReset
  repeat' (first | intro _ | (simp (maxDischargeDepth := 99) (etaStruct := .none) only [*, lanePut_keeps]; done) | with_reducible assumption | with_reducible rfl | with_reducible apply Keeps.ite | with_reducible apply lanePut_keeps | with_reducible apply modSense_keeps | with_reducible apply Keeps.foldl | split | dsimp only)

end Sys2Proof.Machine
end

