-- ==== Sys2Proof/Laws/KeepsPorts.lean ====
section
/-! SUPPORT. What the operations of Machine/Ports.lean keep (Laws/Keeps.lean says what that is). -/

namespace Sys2Proof.Machine
open Sys2Proof

theorem modPorts_keeps {s0 : State} (f : Ports → Ports) {s : State} (h : Keeps s0 s) :
    Keeps s0 (State.modPorts s f) := by
  unfold State.modPorts
  simp (maxDischargeDepth := 99) (etaStruct := .none) only [h, Keeps.mk_same]

theorem setMic_keeps {s0 : State} (x : Nat) (m : MicLine) {s : State} (h : Keeps s0 s) :
    Keeps s0 (State.setMic s x m) := by
  unfold State.setMic
  simp (maxDischargeDepth := 99) (etaStruct := .none) only [h, modPorts_keeps]

theorem micPost_keeps {s0 : State} (x : Nat) (bits : Nat) {s : State} (h : Keeps s0 s) :
    Keeps s0 (micPost x bits s) := by
  unfold micPost
  simp (maxDischargeDepth := 99) (etaStruct := .none) only [h, noticePost_keeps]

theorem micArrive_keeps {s0 : State} (bits : Nat) {s : State} (h : Keeps s0 s) :
    Keeps s0 (micArrive bits s) := by
  unfold micArrive
  repeat' (first | intro _ | (simp (maxDischargeDepth := 99) (etaStruct := .none) only [*, sqSet_keeps, wrn_keeps, Keeps.ite]; done) | with_reducible assumption | with_reducible rfl | with_reducible apply Keeps.ite | with_reducible apply sqSet_keeps | with_reducible apply wrn_keeps | with_reducible apply Keeps.foldl | split | dsimp only)

theorem dcSense_keeps {s0 : State} (x : Nat) (i : Nat) {s : State} (h : Keeps s0 s) :
    Keeps s0 (dcSense x i s) := by
  unfold dcSense
  simp (maxDischargeDepth := 99) (etaStruct := .none) only [h, micPost_keeps, setMic_keeps, summaryCheck_keeps, Keeps.ite]

theorem biasChange_keeps {s0 : State} (x : Nat) (was : Bool) {s : State} (h : Keeps s0 s) :
    Keeps s0 (biasChange x was s) := by
  unfold biasChange
  simp (maxDischargeDepth := 99) (etaStruct := .none) only [h, micPost_keeps, setMic_keeps, summaryCheck_keeps, wrf_keeps, Keeps.ite]

theorem relearn_keeps {s0 : State} (x : Nat) {s : State} (h : Keeps s0 s) :
    Keeps s0 (relearn x s) := by
  unfold relearn
  simp (maxDischargeDepth := 99) (etaStruct := .none) only [h, micPost_keeps, setMic_keeps, Keeps.ite]

theorem micDcWrite_keeps {s0 : State} (x : Nat) (v : Word) {s : State} (h : Keeps s0 s) :
    Keeps s0 (micDcWrite x v s) := by
  unfold micDcWrite
  simp (maxDischargeDepth := 99) (etaStruct := .none) only [h, biasChange_keeps, relearn_keeps, wr_keeps, Keeps.ite]

theorem gainChange_keeps {s0 : State} (x : Nat) {s : State} (h : Keeps s0 s) :
    Keeps s0 (gainChange x s) := by
  unfold gainChange
  simp (maxDischargeDepth := 99) (etaStruct := .none) only [h, setMic_keeps, Keeps.ite]

theorem portsBuffered_keeps {s0 : State}  {s : State} (h : Keeps s0 s) :
    Keeps s0 (portsBuffered s) := by
  unfold portsBuffered
  repeat' (first | intro _ | (simp (maxDischargeDepth := 99) (etaStruct := .none) only [*, setMic_keeps, takeBuffered_keeps, wr_keeps]; done) | with_reducible assumption | with_reducible rfl | with_reducible apply Keeps.ite | with_reducible apply setMic_keeps | with_reducible apply takeBuffered_keeps | with_reducible apply wr_keeps | with_reducible apply Keeps.foldl | split | dsimp only)

theorem micFrame_keeps {s0 : State} (x : Nat) (v : Word) {s : State} (h : Keeps s0 s) :
    Keeps s0 (micFrame x v s) := by
  unfold micFrame
  simp (maxDischargeDepth := 99) (etaStruct := .none) only [h, lanePut_keeps, setMic_keeps]

theorem convertersFrame_keeps {s0 : State} (mic : List Word) (sense : List Word) {s : State} (h : Keeps s0 s) :
    Keeps s0 (convertersFrame mic sense s) := by
  unfold convertersFrame
  repeat' (first | intro _ | (simp (maxDischargeDepth := 99) (etaStruct := .none) only [*, lanePut_keeps, micFrame_keeps, modPorts_keeps]; done) | with_reducible assumption | with_reducible rfl | with_reducible apply Keeps.ite | with_reducible apply lanePut_keeps | with_reducible apply micFrame_keeps | with_reducible apply modPorts_keeps | with_reducible apply Keeps.foldl | split | dsimp only)

theorem monitorFrame_keeps {s0 : State}  {s : State} (h : Keeps s0 s) :
    Keeps s0 (monitorFrame s) := by
  unfold monitorFrame
  simp (maxDischargeDepth := 99) (etaStruct := .none) only [h, modPorts_keeps]

theorem setContact_keeps {s0 : State} (n : Nat) (c : Contact) {s : State} (h : Keeps s0 s) :
    Keeps s0 (State.setContact s n c) := by
  unfold State.setContact
  simp (maxDischargeDepth := 99) (etaStruct := .none) only [h, modPorts_keeps]

theorem contactEvent_keeps {s0 : State} (n : Nat) {s : State} (h : Keeps s0 s) :
    Keeps s0 (contactEvent n s) := by
  unfold contactEvent
  simp (maxDischargeDepth := 99) (etaStruct := .none) only [h, setContact_keeps, sqSetX_keeps, Keeps.ite]

theorem ctCfgWrite_keeps {s0 : State} (n : Nat) (v : Word) {s : State} (h : Keeps s0 s) :
    Keeps s0 (ctCfgWrite n v s) := by
  unfold ctCfgWrite
  simp (maxDischargeDepth := 99) (etaStruct := .none) only [h, setContact_keeps, wr_keeps, Keeps.ite]

theorem setUart_keeps {s0 : State} (k : Nat) (u : Uart) {s : State} (h : Keeps s0 s) :
    Keeps s0 (State.setUart s k u) := by
  unfold State.setUart
  simp (maxDischargeDepth := 99) (etaStruct := .none) only [h, modPorts_keeps]

theorem uartTxd_keeps {s0 : State} (k : Nat) (v : Word) {s : State} (h : Keeps s0 s) :
    Keeps s0 (uartTxd k v s) := by
  unfold uartTxd
  simp (maxDischargeDepth := 99) (etaStruct := .none) only [h, setUart_keeps, sqSet_keeps, Keeps.ite]

theorem uartRxdPop_keeps {s0 : State} (k : Nat) {s : State} (h : Keeps s0 s) :
    Keeps s0 (uartRxdPop k s) := by
  unfold uartRxdPop
  simp (maxDischargeDepth := 99) (etaStruct := .none) only [h, setUart_keeps]

theorem characterReceived_keeps {s0 : State} (k : Nat) (ch : Byte) (parity : Bool) (framing : Bool) (brk : Bool) {s : State} (h : Keeps s0 s) :
    Keeps s0 (characterReceived k ch parity framing brk s) := by
  unfold characterReceived
  simp (maxDischargeDepth := 99) (etaStruct := .none) only [h, setUart_keeps, sqSet_keeps, Keeps.ite]

theorem characterSent_keeps {s0 : State} (k : Nat) {s : State} (h : Keeps s0 s) :
    Keeps s0 (characterSent k s) := by
  unfold characterSent
  repeat' (first | intro _ | (simp (maxDischargeDepth := 99) (etaStruct := .none) only [*, setUart_keeps]; done) | with_reducible assumption | with_reducible rfl | with_reducible apply Keeps.ite | with_reducible apply setUart_keeps | with_reducible apply Keeps.foldl | split | dsimp only)

theorem setCan_keeps {s0 : State} (k : Nat) (c : Can) {s : State} (h : Keeps s0 s) :
    Keeps s0 (State.setCan s k c) := by
  unfold State.setCan
  simp (maxDischargeDepth := 99) (etaStruct := .none) only [h, modPorts_keeps]

theorem canTxreq_keeps {s0 : State} (k : Nat) (v : Word) {s : State} (h : Keeps s0 s) :
    Keeps s0 (canTxreq k v s) := by
  unfold canTxreq
  simp (maxDischargeDepth := 99) (etaStruct := .none) only [h, setCan_keeps]

theorem canTxError_keeps {s0 : State} (k : Nat) {s : State} (h : Keeps s0 s) :
    Keeps s0 (canTxError k s) := by
  unfold canTxError
  simp (maxDischargeDepth := 99) (etaStruct := .none) only [h, setCan_keeps, sqSet_keeps, Keeps.ite]

theorem canFrameSent_keeps {s0 : State} (k : Nat) (j : Nat) (r : CanEnd) {s : State} (h : Keeps s0 s) :
    Keeps s0 (canFrameSent k j r s) := by
  unfold canFrameSent
  repeat' (first | (simp (maxDischargeDepth := 99) (etaStruct := .none) only [h, canTxError_keeps, setCan_keeps, sqSet_keeps]; done) | split)

theorem canRxError_keeps {s0 : State} (k : Nat) {s : State} (h : Keeps s0 s) :
    Keeps s0 (canRxError k s) := by
  unfold canRxError
  repeat' (first | intro _ | (simp (maxDischargeDepth := 99) (etaStruct := .none) only [*, canEvt_keeps, can_keeps, setCan_keeps, sqSet_keeps, Keeps.ite, Keeps.mk_same]; done) | with_reducible assumption | with_reducible rfl | with_reducible apply Keeps.ite | with_reducible apply canEvt_keeps | with_reducible apply can_keeps | with_reducible apply setCan_keeps | with_reducible apply sqSet_keeps | with_reducible apply Keeps.foldl | split | dsimp only)

theorem canRxWell_keeps {s0 : State} (k : Nat) {s : State} (h : Keeps s0 s) :
    Keeps s0 (canRxWell k s) := by
  unfold canRxWell
  repeat' (first | intro _ | (simp (maxDischargeDepth := 99) (etaStruct := .none) only [*, can_keeps, setCan_keeps, Keeps.ite, Keeps.mk_same]; done) | with_reducible assumption | with_reducible rfl | with_reducible apply Keeps.ite | with_reducible apply can_keeps | with_reducible apply setCan_keeps | with_reducible apply Keeps.foldl | split | dsimp only)

theorem canFifo_keeps {s0 : State} (k : Nat) (f : CanFrame) {s : State} (h : Keeps s0 s) :
    Keeps s0 (canFifo k f s) := by
  unfold canFifo
  simp (maxDischargeDepth := 99) (etaStruct := .none) only [h, setCan_keeps, sqSet_keeps, Keeps.ite]

theorem canRxPop_keeps {s0 : State} (k : Nat) {s : State} (h : Keeps s0 s) :
    Keeps s0 (canRxPop k s) := by
  unfold canRxPop
  simp (maxDischargeDepth := 99) (etaStruct := .none) only [h, setCan_keeps]

theorem canRejoin_keeps {s0 : State} (k : Nat) {s : State} (h : Keeps s0 s) :
    Keeps s0 (canRejoin k s) := by
  unfold canRejoin
  simp (maxDischargeDepth := 99) (etaStruct := .none) only [h, setCan_keeps]

theorem busOffRecovery_keeps {s0 : State} (k : Nat) {s : State} (h : Keeps s0 s) :
    Keeps s0 (busOffRecovery k s) := by
  unfold busOffRecovery
  simp (maxDischargeDepth := 99) (etaStruct := .none) only [h, canRejoin_keeps, Keeps.ite]

theorem canCtrlWrite_keeps {s0 : State} (k : Nat) (v : Word) {s : State} (h : Keeps s0 s) :
    Keeps s0 (canCtrlWrite k v s) := by
  unfold canCtrlWrite
  simp (maxDischargeDepth := 99) (etaStruct := .none) only [h, canRejoin_keeps, wr_keeps, Keeps.ite]

theorem setI2c_keeps {s0 : State} (k : Nat) (c : I2c) {s : State} (h : Keeps s0 s) :
    Keeps s0 (State.setI2c s k c) := by
  unfold State.setI2c
  simp (maxDischargeDepth := 99) (etaStruct := .none) only [h, modPorts_keeps]

theorem i2cCmd_keeps {s0 : State} (k : Nat) (v : Word) {s : State} (h : Keeps s0 s) :
    Keeps s0 (i2cCmd k v s) := by
  unfold i2cCmd
  simp (maxDischargeDepth := 99) (etaStruct := .none) only [h, setI2c_keeps]

theorem i2cEnd_keeps {s0 : State} (k : Nat) (bit : Nat) {s : State} (h : Keeps s0 s) :
    Keeps s0 (i2cEnd k bit s) := by
  unfold i2cEnd
  simp (maxDischargeDepth := 99) (etaStruct := .none) only [h, setI2c_keeps, sqSet_keeps]

theorem i2cRun_keeps {s0 : State} (k : Nat) (op : Nat) (entry : Nat → Option Nat) (r : I2cEnd) {s : State} (h : Keeps s0 s) :
    Keeps s0 (i2cRun k op entry r s) := by
  unfold i2cRun
  simp only [apply_ite Prod.fst]
  repeat' (first | intro _ | (simp (maxDischargeDepth := 99) (etaStruct := .none) only [*, i2cEnd_keeps, setI2c_keeps, sqSet_keeps, Keeps.ite]; done) | with_reducible assumption | with_reducible rfl | with_reducible apply Keeps.ite | with_reducible apply i2cEnd_keeps | with_reducible apply setI2c_keeps | with_reducible apply sqSet_keeps | with_reducible apply Keeps.foldl | split | dsimp only)

theorem i2cTimeout_keeps {s0 : State} (k : Nat) {s : State} (h : Keeps s0 s) :
    Keeps s0 (i2cTimeout k s) := by
  unfold i2cTimeout
  simp (maxDischargeDepth := 99) (etaStruct := .none) only [h, i2cEnd_keeps, Keeps.ite]

theorem i2cRspPop_keeps {s0 : State} (k : Nat) {s : State} (h : Keeps s0 s) :
    Keeps s0 (i2cRspPop k s) := by
  unfold i2cRspPop
  simp (maxDischargeDepth := 99) (etaStruct := .none) only [h, setI2c_keeps]

theorem gpioEdge_keeps {s0 : State} (n : Nat) (level : Bool) {s : State} (h : Keeps s0 s) :
    Keeps s0 (gpioEdge n level s) := by
  unfold gpioEdge
  simp (maxDischargeDepth := 99) (etaStruct := .none) only [h, modPorts_keeps, wrb_keeps, Keeps.ite]

theorem modHs_keeps {s0 : State} (f : HostSpi → HostSpi) {s : State} (h : Keeps s0 s) :
    Keeps s0 (State.modHs s f) := by
  unfold State.modHs
  simp (maxDischargeDepth := 99) (etaStruct := .none) only [h, modPorts_keeps]

theorem hsProto_keeps {s0 : State}  {s : State} (h : Keeps s0 s) :
    Keeps s0 (hsProto s) := by
  unfold hsProto
  simp (maxDischargeDepth := 99) (etaStruct := .none) only [h, modHs_keeps, pulse_keeps]

theorem hsEnqueue_keeps {s0 : State} (ws : List (Word × Word)) {s : State} (h : Keeps s0 s) :
    Keeps s0 (hsEnqueue ws s) := by
  unfold hsEnqueue
  repeat' (first | intro _ | (simp (maxDischargeDepth := 99) (etaStruct := .none) only [*, modHs_keeps, pulse_keeps, Keeps.ite]; done) | with_reducible assumption | with_reducible rfl | with_reducible apply Keeps.ite | with_reducible apply modHs_keeps | with_reducible apply pulse_keeps | with_reducible apply Keeps.foldl | split | dsimp only)

theorem hsWrite_keeps {s0 : State} (step : Nat) (a : Word) (count : Nat) (words : List Word) {s : State} (h : Keeps s0 s) :
    Keeps s0 (hsWrite step a count words s) := by
  unfold hsWrite
  repeat' (first | intro _ | (simp (maxDischargeDepth := 99) (etaStruct := .none) only [*, hsEnqueue_keeps, hsProto_keeps, xingDropped_keeps, Keeps.ite, Keeps.mk_same]; done) | with_reducible assumption | with_reducible rfl | with_reducible apply Keeps.ite | with_reducible apply hsEnqueue_keeps | with_reducible apply hsProto_keeps | with_reducible apply xingDropped_keeps | with_reducible apply Keeps.foldl | split | dsimp only)

theorem hostStatus_keeps {s0 : State}  {s : State} (h : Keeps s0 s) :
    Keeps s0 (hostStatus s) := by
  unfold hostStatus
  repeat' (first | intro _ | (simp (maxDischargeDepth := 99) (etaStruct := .none) only [*, modHs_keeps, Keeps.ite, Keeps.mk_same]; done) | with_reducible assumption | with_reducible rfl | with_reducible apply Keeps.ite | with_reducible apply modHs_keeps | with_reducible apply Keeps.foldl | split | dsimp only)

theorem portsBlockReset_keeps {s0 : State}  {s : State} (h : Keeps s0 s) :
    Keeps s0 (portsBlockReset s) := by
  unfold portsBlockReset
  simp (maxDischargeDepth := 99) (etaStruct := .none) only [h, lanePut_keeps, modPorts_keeps, summaryCheck_keeps]

end Sys2Proof.Machine
end

