-- ==== Sys2Proof/Laws/KeepsKeep.lean ====
section
/-! SUPPORT. What the operations of Machine/Keep.lean keep (Laws/Keeps.lean says what that is). -/

namespace Sys2Proof.Machine
open Sys2Proof

theorem modMsg_keeps {s0 : State} (f : Msg → Msg) {s : State} (h : Keeps s0 s) :
    Keeps s0 (State.modMsg s f) := by
  unfold State.modMsg
  simp (maxDischargeDepth := 99) (etaStruct := .none) only [h, Keeps.mk_same]

theorem modEvt_keeps {s0 : State} (f : Evt → Evt) {s : State} (h : Keeps s0 s) :
    Keeps s0 (State.modEvt s f) := by
  unfold State.modEvt
  simp (maxDischargeDepth := 99) (etaStruct := .none) only [h, Keeps.mk_same]

theorem keepEvent_keeps {s0 : State} (bit : Nat) {s : State} (h : Keeps s0 s) :
    Keeps s0 (keepEvent bit s) := by
  unfold keepEvent
  simp (maxDischargeDepth := 99) (etaStruct := .none) only [h, sqSet_keeps]

theorem msgEvents_keeps {s0 : State} (bits : List Nat) (p : Nat) {s : State} (h : Keeps s0 s) :
    Keeps s0 (msgEvents bits p s) := by
  unfold msgEvents
  simp (maxDischargeDepth := 99) (etaStruct := .none) only [h, sqSet_keeps, wrn_keeps]

theorem setKeepLine_keeps {s0 : State} (port : Nat) (l : Option KeepLine) {s : State} (h : Keeps s0 s) :
    Keeps s0 (setKeepLine port l s) := by
  unfold setKeepLine
  simp (maxDischargeDepth := 99) (etaStruct := .none) only [h, modMsg_keeps]

theorem keepServe_keeps {s0 : State}  {s : State} (h : Keeps s0 s) :
    Keeps s0 (keepServe s) := by
  unfold keepServe
  repeat' (first | (simp (maxDischargeDepth := 99) (etaStruct := .none) only [h, modMsg_keeps]; done) | split)

theorem keepOffer_keeps {s0 : State} (port : Nat) (off : Nat) (bytes : List Byte) {s : State} (h : Keeps s0 s) :
    Keeps s0 (keepOffer port off bytes s) := by
  unfold keepOffer
  simp (maxDischargeDepth := 99) (etaStruct := .none) only [h, keepEvent_keeps, keepServe_keeps, setKeepLine_keeps, Keeps.ite]

theorem drawBytes_keeps {s0 : State} (n : Nat) {s : State} (h : Keeps s0 s) : Keeps s0 (drawBytes n s).2 := by
  induction n generalizing s with
  | zero => exact h
  | succ n ih => exact ih (draw_keeps h)

theorem keepReport_keeps {s0 : State} (port : Nat) (ok : Bool) {s : State} (h : Keeps s0 s) :
    Keeps s0 (keepReport port ok s) := by
  unfold keepReport
  repeat' (first | (simp (maxDischargeDepth := 99) (etaStruct := .none) only [h, incSat_keeps, keepEvent_keeps, sqSet_keeps, wrn_keeps, Keeps.ite]; done) | split)

theorem lineProgramDone_keeps {s0 : State} (readsBack : Bool) {s : State} (h : Keeps s0 s) :
    Keeps s0 (lineProgramDone readsBack s) := by
  unfold lineProgramDone
  repeat' (first | (simp (maxDischargeDepth := 99) (etaStruct := .none) only [h, drawBytes_keeps, keepReport_keeps, keepServe_keeps, modMsg_keeps, mwrBytes_keeps, setKeepLine_keeps, Keeps.ite]; done) | split)

theorem keepBufWrite_keeps {s0 : State} (i : Nat) (v : Word) {s : State} (h : Keeps s0 s) :
    Keeps s0 (keepBufWrite i v s) := by
  unfold keepBufWrite
  simp (maxDischargeDepth := 99) (etaStruct := .none) only [h, keepEvent_keeps, wr_keeps, Keeps.ite]

theorem keepCmdWrite_keeps {s0 : State} (v : Word) {s : State} (h : Keeps s0 s) :
    Keeps s0 (keepCmdWrite v s) := by
  unfold keepCmdWrite
  simp (maxDischargeDepth := 99) (etaStruct := .none) only [h, keepEvent_keeps, keepOffer_keeps, wr_keeps, Keeps.ite]

theorem keepNoted_keeps {s0 : State} (a : Nat) (n : Nat) {s : State} (h : Keeps s0 s) :
    Keeps s0 (keepNoted a n s) := by
  unfold keepNoted
  repeat' (first | intro _ | (simp (maxDischargeDepth := 99) (etaStruct := .none) only [*, addSat_keeps, keepEcc_keeps, keepEvent_keeps, Keeps.ite, Keeps.mk_same]; done) | with_reducible assumption | with_reducible rfl | with_reducible apply Keeps.ite | with_reducible apply addSat_keeps | with_reducible apply keepEcc_keeps | with_reducible apply keepEvent_keeps | with_reducible apply Keeps.foldl | split | dsimp only)

theorem clipValue_keeps {s0 : State} (c : Clip) (f : Nat) {s : State} (h : Keeps s0 s) :
    Keeps s0 (clipValue c f s).2 := by
  unfold clipValue
  repeat' (first | (simp (maxDischargeDepth := 99) (etaStruct := .none) only [h, draw_keeps]; done) | split)

theorem clipRead_keeps {s0 : State} (c : Clip) (f : Nat) {s : State} (h : Keeps s0 s) :
    Keeps s0 (clipRead c f s).2 := by
  unfold clipRead
  repeat' (first | intro _ | (simp (maxDischargeDepth := 99) (etaStruct := .none) only [*, keepBase_keeps, keepNoted_keeps, Keeps.ite, Keeps.mk_same, apply_ite Prod.snd]; done) | with_reducible assumption | with_reducible rfl | with_reducible apply Keeps.ite | with_reducible apply keepBase_keeps | with_reducible apply keepNoted_keeps | with_reducible apply Keeps.foldl | split | dsimp only)

theorem setPlayer_keeps {s0 : State} (p : Nat) (x : Player) {s : State} (h : Keeps s0 s) :
    Keeps s0 (State.setPlayer s p x) := by
  unfold State.setPlayer
  simp (maxDischargeDepth := 99) (etaStruct := .none) only [h, modMsg_keeps]

theorem playerStop_keeps {s0 : State} (p : Nat) (bits : List Nat) {s : State} (h : Keeps s0 s) :
    Keeps s0 (playerStop p bits s) := by
  unfold playerStop
  simp (maxDischargeDepth := 99) (etaStruct := .none) only [h, clearBoth_keeps, lanePut_keeps, msgEvents_keeps, setPlayer_keeps]

theorem playList_keeps {s0 : State} (p : Nat) (ks : List Nat) {s : State} (h : Keeps s0 s) :
    Keeps s0 (playList p ks s) := by
  induction ks generalizing s with
  | nil => exact setPlayer_keeps _ _ h
  | cons k ks ih =>
    unfold playList
    exact Keeps.ite (ih (msgEvents_keeps _ _ h)) (Keeps.ite (ih h) (setPlayer_keeps _ _ h))

theorem skipWords_keeps {s0 : State} (p : Nat) (n : Nat) {s : State} (h : Keeps s0 s) :
    Keeps s0 (skipWords p n s) := by
  unfold skipWords
  simp (maxDischargeDepth := 99) (etaStruct := .none) only [h, setPlayer_keeps]

theorem countOp_keeps {s0 : State} (p : Nat) (k : State → State) {s : State} (h : Keeps s0 s) (hk : ∀ x0, Keeps s0 x0 → Keeps s0 (k x0)) :
    Keeps s0 (countOp p k s) := by
  unfold countOp
  simp (maxDischargeDepth := 99) (etaStruct := .none) only [h, hk, playerStop_keeps, setPlayer_keeps, Keeps.ite]

theorem opReached_keeps {s0 : State} (p : Nat) (op : Nat) (k : Word → State → State) {s : State} (h : Keeps s0 s) (hk : ∀ x0 x1, Keeps s0 x1 → Keeps s0 (k x0 x1)) :
    Keeps s0 (opReached p op k s) := by
  unfold opReached
  repeat' (first | (simp (maxDischargeDepth := 99) (etaStruct := .none) only [h, hk, playerStop_keeps, Keeps.ite]; done) | split)

theorem playOp_keeps {s0 : State} (p : Nat) {s : State} (h : Keeps s0 s) :
    Keeps s0 (playOp p s) := by
  unfold playOp
  repeat' (first | intro _ | (simp (maxDischargeDepth := 99) (etaStruct := .none) only [*, playList_keeps, skipWords_keeps]; done) | with_reducible assumption | with_reducible rfl | with_reducible apply Keeps.ite | with_reducible apply opReached_keeps | with_reducible apply playList_keeps | with_reducible apply skipWords_keeps | with_reducible apply Keeps.foldl | split | dsimp only)

theorem gapOp_keeps {s0 : State} (p : Nat) {s : State} (h : Keeps s0 s) :
    Keeps s0 (gapOp p s) := by
  unfold gapOp
  repeat' (first | intro _ | (simp (maxDischargeDepth := 99) (etaStruct := .none) only [*, setPlayer_keeps, skipWords_keeps]; done) | with_reducible assumption | with_reducible rfl | with_reducible apply Keeps.ite | with_reducible apply opReached_keeps | with_reducible apply setPlayer_keeps | with_reducible apply skipWords_keeps | with_reducible apply Keeps.foldl | split | dsimp only)

theorem stopOp_keeps {s0 : State} (p : Nat) {s : State} (h : Keeps s0 s) :
    Keeps s0 (stopOp p s) := by
  unfold stopOp
  repeat' (first | intro _ | (simp (maxDischargeDepth := 99) (etaStruct := .none) only [*, playerStop_keeps]; done) | with_reducible assumption | with_reducible rfl | with_reducible apply Keeps.ite | with_reducible apply opReached_keeps | with_reducible apply playerStop_keeps | with_reducible apply Keeps.foldl | split | dsimp only)

theorem jumpOp_keeps {s0 : State} (p : Nat) {s : State} (h : Keeps s0 s) :
    Keeps s0 (jumpOp p s) := by
  unfold jumpOp
  repeat' (first | intro _ | (simp (maxDischargeDepth := 99) (etaStruct := .none) only [*, setPlayer_keeps, Keeps.ite]; done) | with_reducible assumption | with_reducible rfl | with_reducible apply Keeps.ite | with_reducible apply countOp_keeps | with_reducible apply opReached_keeps | with_reducible apply setPlayer_keeps | with_reducible apply Keeps.foldl | split | dsimp only)

theorem spellOp_keeps {s0 : State} (p : Nat) {s : State} (h : Keeps s0 s) :
    Keeps s0 (spellOp p s) := by
  unfold spellOp
  repeat' (first | intro _ | (simp (maxDischargeDepth := 99) (etaStruct := .none) only [*, msgEvents_keeps, playList_keeps, playerStop_keeps, skipWords_keeps, Keeps.ite]; done) | with_reducible assumption | with_reducible rfl | with_reducible apply Keeps.ite | with_reducible apply countOp_keeps | with_reducible apply msgEvents_keeps | with_reducible apply opReached_keeps | with_reducible apply playList_keeps | with_reducible apply playerStop_keeps | with_reducible apply skipWords_keeps | with_reducible apply Keeps.foldl | split | dsimp only)

theorem listOp_keeps {s0 : State} (p : Nat) {s : State} (h : Keeps s0 s) :
    Keeps s0 (listOp p s) := by
  unfold listOp
  repeat' (first | intro _ | (simp (maxDischargeDepth := 99) (etaStruct := .none) only [*, playList_keeps, playerStop_keeps, skipWords_keeps]; done) | with_reducible assumption | with_reducible rfl | with_reducible apply Keeps.ite | with_reducible apply countOp_keeps | with_reducible apply opReached_keeps | with_reducible apply playList_keeps | with_reducible apply playerStop_keeps | with_reducible apply skipWords_keeps | with_reducible apply Keeps.foldl | split | dsimp only)

theorem toneOp_keeps {s0 : State} (p : Nat) {s : State} (h : Keeps s0 s) :
    Keeps s0 (toneOp p s) := by
  unfold toneOp
  repeat' (first | intro _ | (simp (maxDischargeDepth := 99) (etaStruct := .none) only [*, setGen_keeps, setPlayer_keeps, setToneOwner_keeps, skipWords_keeps, Keeps.wbSet]; done) | with_reducible assumption | with_reducible rfl | with_reducible apply Keeps.ite | with_reducible apply opReached_keeps | with_reducible apply setGen_keeps | with_reducible apply setPlayer_keeps | with_reducible apply setToneOwner_keeps | with_reducible apply skipWords_keeps | with_reducible apply Keeps.foldl | with_reducible apply Keeps.mk_same | split | dsimp only)

theorem playerStart_keeps {s0 : State} (p : Nat) {s : State} (h : Keeps s0 s) :
    Keeps s0 (playerStart p s) := by
  unfold playerStart
  simp (maxDischargeDepth := 99) (etaStruct := .none) only [h, setPlayer_keeps]

theorem playerFade_keeps {s0 : State} (p : Nat) {s : State} (h : Keeps s0 s) :
    Keeps s0 (playerFade p s) := by
  unfold playerFade
  simp (maxDischargeDepth := 99) (etaStruct := .none) only [h, clearBoth_keeps, msgEvents_keeps, setPlayer_keeps, toneFall_keeps, Keeps.ite]

theorem msgBuffered_keeps {s0 : State}  {s : State} (h : Keeps s0 s) :
    Keeps s0 (msgBuffered s) := by
  unfold msgBuffered
  repeat' (first | intro _ | (simp (maxDischargeDepth := 99) (etaStruct := .none) only [*, playerFade_keeps, playerStart_keeps, takeBuffered_keeps, wr_keeps, Keeps.ite]; done) | with_reducible assumption | with_reducible rfl | with_reducible apply Keeps.ite | with_reducible apply playerFade_keeps | with_reducible apply playerStart_keeps | with_reducible apply takeBuffered_keeps | with_reducible apply wr_keeps | with_reducible apply Keeps.foldl | split | dsimp only)

theorem playerValue_keeps {s0 : State} (p : Nat) {s : State} (h : Keeps s0 s) :
    Keeps s0 (playerValue p s).2 := by
  unfold playerValue
  repeat' (first | intro _ | (simp (maxDischargeDepth := 99) (etaStruct := .none) only [*, clipAt_keeps, clipMayWait_keeps, clipRead_keeps, clipValue_keeps, draw_keeps, incSat_keeps, msgEvents_keeps, plUnder_keeps, player_keeps, setPlayer_keeps, Keeps.ite, Keeps.mk_same, apply_ite Prod.snd]; done) | with_reducible assumption | with_reducible rfl | with_reducible apply Keeps.ite | with_reducible apply clipAt_keeps | with_reducible apply clipMayWait_keeps | with_reducible apply clipRead_keeps | with_reducible apply clipValue_keeps | with_reducible apply draw_keeps | with_reducible apply incSat_keeps | with_reducible apply msgEvents_keeps | with_reducible apply plUnder_keeps | with_reducible apply player_keeps | with_reducible apply setPlayer_keeps | with_reducible apply Keeps.foldl | split | dsimp only)

theorem scriptOp_keeps {s0 : State} (p : Nat) {s : State} (h : Keeps s0 s) :
    Keeps s0 (scriptOp p s) := by
  unfold scriptOp
  repeat' (first | intro _ | (simp (maxDischargeDepth := 99) (etaStruct := .none) only [*, gapOp_keeps, jumpOp_keeps, listOp_keeps, playOp_keeps, scriptWord_keeps, spellOp_keeps, stopOp_keeps, toneOp_keeps, Keeps.ite, Keeps.mk_same]; done) | with_reducible assumption | with_reducible rfl | with_reducible apply Keeps.ite | with_reducible apply gapOp_keeps | with_reducible apply jumpOp_keeps | with_reducible apply listOp_keeps | with_reducible apply playOp_keeps | with_reducible apply scriptWord_keeps | with_reducible apply spellOp_keeps | with_reducible apply stopOp_keeps | with_reducible apply toneOp_keeps | with_reducible apply Keeps.foldl | split | dsimp only)

theorem scriptOps_keeps {s0 : State} (p n : Nat) {s : State} (h : Keeps s0 s) : Keeps s0 (scriptOps p n s) := by
  induction n generalizing s with
  | zero => exact h
  | succ n ih => exact Keeps.ite (ih (scriptOp_keeps p h)) h

theorem playerFrame_keeps {s0 : State} (p : Nat) {s : State} (h : Keeps s0 s) :
    Keeps s0 (playerFrame p s) := by
  unfold playerFrame
  repeat' (first | intro _ | (simp (maxDischargeDepth := 99) (etaStruct := .none) only [*, lanePut_keeps, playList_keeps, playerValue_keeps, setPlayer_keeps, Keeps.ite, Keeps.mk_same]; done) | with_reducible assumption | with_reducible rfl | with_reducible apply Keeps.ite | with_reducible apply lanePut_keeps | with_reducible apply playList_keeps | with_reducible apply playerValue_keeps | with_reducible apply setPlayer_keeps | with_reducible apply Keeps.foldl | split | dsimp only)

theorem playersFrame_keeps {s0 : State}  {s : State} (h : Keeps s0 s) :
    Keeps s0 (playersFrame s) := by
  unfold playersFrame
  repeat' (first | intro _ | (simp (maxDischargeDepth := 99) (etaStruct := .none) only [*, playerFrame_keeps, scriptOps_keeps, Keeps.ite, Keeps.mk_same]; done) | with_reducible assumption | with_reducible rfl | with_reducible apply Keeps.ite | with_reducible apply playerFrame_keeps | with_reducible apply scriptOps_keeps | with_reducible apply Keeps.foldl | split | dsimp only)

theorem msgBlockReset_keeps {s0 : State}  {s : State} (h : Keeps s0 s) :
    Keeps s0 (msgBlockReset s) := by
  unfold msgBlockReset
  repeat' (first | intro _ | (simp (maxDischargeDepth := 99) (etaStruct := .none) only [*, keepServe_keeps, lanePut_keeps, modMsg_keeps, Keeps.ite, Keeps.mk_same]; done) | with_reducible assumption | with_reducible rfl | with_reducible apply Keeps.ite | with_reducible apply keepServe_keeps | with_reducible apply lanePut_keeps | with_reducible apply modMsg_keeps | with_reducible apply Keeps.foldl | split | dsimp only)

theorem bucketRefill_keeps {s0 : State}  {s : State} (h : Keeps s0 s) :
    Keeps s0 (bucketRefill s) := by
  unfold bucketRefill
  simp (maxDischargeDepth := 99) (etaStruct := .none) only [h, modEvt_keeps, Keeps.ite]

theorem evtHinge_keeps {s0 : State}  {s : State} (h : Keeps s0 s) :
    Keeps s0 (evtHinge s) := by
  unfold evtHinge
  repeat' (first | intro _ | (simp (maxDischargeDepth := 99) (etaStruct := .none) only [*, modEvt_keeps, Keeps.ite, Keeps.mk_same]; done) | with_reducible assumption | with_reducible rfl | with_reducible apply Keeps.ite | with_reducible apply modEvt_keeps | with_reducible apply Keeps.foldl | split | dsimp only)

theorem fwGo_keeps {s0 : State}  {s : State} (h : Keeps s0 s) :
    Keeps s0 (fwGo s) := by
  unfold fwGo
  simp (maxDischargeDepth := 99) (etaStruct := .none) only [h, makeRecord_keeps, sqSet_keeps, Keeps.ite]

theorem tapRecord_keeps {s0 : State} (r : List Byte) {s : State} (h : Keeps s0 s) :
    Keeps s0 (tapRecord r s) := by
  unfold tapRecord
  repeat' (first | intro _ | (simp (maxDischargeDepth := 99) (etaStruct := .none) only [*, offerTap_keeps]; done) | with_reducible assumption | with_reducible rfl | with_reducible apply Keeps.ite | with_reducible apply offerAll_keeps | with_reducible apply offerTap_keeps | with_reducible apply overrunRecord_keeps | with_reducible apply Keeps.foldl | split | dsimp only)

theorem journalLine_keeps {s0 : State}  {s : State} (h : Keeps s0 s) :
    Keeps s0 (journalLine s) := by
  unfold journalLine
  repeat' (first | intro _ | (simp (maxDischargeDepth := 99) (etaStruct := .none) only [*, emptySlot_keeps, journalForm_keeps, keepLine_keeps, keepOffer_keeps, modEvt_keeps, tapRecord_keeps, Keeps.ite, Keeps.mk_same]; done) | with_reducible assumption | with_reducible rfl | with_reducible apply Keeps.ite | with_reducible apply emptySlot_keeps | with_reducible apply journalForm_keeps | with_reducible apply keepLine_keeps | with_reducible apply keepOffer_keeps | with_reducible apply modEvt_keeps | with_reducible apply tapRecord_keeps | with_reducible apply Keeps.foldl | split | dsimp only)

theorem journalLineWrite_keeps {s0 : State}  {s : State} (h : Keeps s0 s) :
    Keeps s0 (journalLineWrite s) := by
  unfold journalLineWrite
  repeat' (first | intro _ | (simp (maxDischargeDepth := 99) (etaStruct := .none) only [*, journalLine_keeps, Keeps.ite, Keeps.mk_same]; done) | with_reducible assumption | with_reducible rfl | with_reducible apply Keeps.ite | with_reducible apply journalLine_keeps | with_reducible apply Keeps.foldl | split | dsimp only)

theorem journalScan_keeps {s0 : State}  {s : State} (h : Keeps s0 s) :
    Keeps s0 (journalScan s) := by
  unfold journalScan
  simp (maxDischargeDepth := 99) (etaStruct := .none) only [h, modEvt_keeps, sqSet_keeps]

theorem evtEnable_keeps {s0 : State} (on : Bool) {s : State} (h : Keeps s0 s) :
    Keeps s0 (evtEnable on s) := by
  unfold evtEnable
  repeat' (first | intro _ | (simp (maxDischargeDepth := 99) (etaStruct := .none) only [*, journalScan_keeps, modEvt_keeps, wrb_keeps, Keeps.ite, Keeps.mk_same]; done) | with_reducible assumption | with_reducible rfl | with_reducible apply Keeps.ite | with_reducible apply journalScan_keeps | with_reducible apply modEvt_keeps | with_reducible apply wrb_keeps | with_reducible apply Keeps.foldl | split | dsimp only)

theorem journalFlush_keeps {s0 : State}  {s : State} (h : Keeps s0 s) :
    Keeps s0 (journalFlush s) := by
  unfold journalFlush
  repeat' (first | intro _ | (simp (maxDischargeDepth := 99) (etaStruct := .none) only [*, journalLine_keeps, Keeps.ite, Keeps.mk_same]; done) | with_reducible assumption | with_reducible rfl | with_reducible apply Keeps.ite | with_reducible apply journalLine_keeps | with_reducible apply Keeps.foldl | split | dsimp only)

theorem evtReset_keeps {s0 : State}  {s : State} (h : Keeps s0 s) :
    Keeps s0 (evtReset s) := by
  unfold evtReset
  simp (maxDischargeDepth := 99) (etaStruct := .none) only [h, modEvt_keeps]

end Sys2Proof.Machine
end

