-- ==== Sys2Proof/Laws/KeepsImage.lean ====
section
/-! SUPPORT. What the operations of Machine/Image.lean keep (Laws/Keeps.lean says what that is). -/

namespace Sys2Proof.Machine
open Sys2Proof

theorem tallySum_keeps {s0 : State}  {s : State} (h : Keeps s0 s) :
    Keeps s0 (tallySum s) := by
  unfold tallySum
  simp (maxDischargeDepth := 99) (etaStruct := .none) only [h, wrn_keeps]

theorem tallyExtend_keeps {s0 : State} (n : Nat) (m : List Byte) {s : State} (h : Keeps s0 s) :
    Keeps s0 (tallyExtend n m s) := by
  unfold tallyExtend
  repeat' (first | intro _ | (simp (maxDischargeDepth := 99) (etaStruct := .none) only [*]; done) | with_reducible assumption | with_reducible rfl | with_reducible apply Keeps.ite | with_reducible apply modWard_keeps | with_reducible apply tallySum_keeps | with_reducible apply Keeps.foldl | split | dsimp only)

theorem measure_keeps {s0 : State} (tally : Nat) (m : Meas) {s : State} (h : Keeps s0 s) :
    Keeps s0 (measure tally m s) := by
  unfold measure
  repeat' (first | intro _ | (simp (maxDischargeDepth := 99) (etaStruct := .none) only [*]; done) | with_reducible assumption | with_reducible rfl | with_reducible apply Keeps.ite | with_reducible apply modWard_keeps | with_reducible apply tallyExtend_keeps | with_reducible apply Keeps.foldl | split | dsimp only)

theorem bootRecord_keeps {s0 : State} (sev : Nat) {s : State} (h : Keeps s0 s) :
    Keeps s0 (bootRecord sev s) := by
  unfold bootRecord
  repeat' (first | intro _ | (simp (maxDischargeDepth := 99) (etaStruct := .none) only [*, draw_keeps, makeRecord_keeps]; done) | with_reducible assumption | with_reducible rfl | with_reducible apply Keeps.ite | with_reducible apply draw_keeps | with_reducible apply makeRecord_keeps | with_reducible apply modWard_keeps | with_reducible apply Keeps.foldl | split | dsimp only)

theorem submitHeld_keeps {s0 : State}  {s : State} (h : Keeps s0 s) :
    Keeps s0 (submitHeld s) := by
  unfold submitHeld
  repeat' (first | intro _ | (simp (maxDischargeDepth := 99) (etaStruct := .none) only [*, makeRecord_keeps, Keeps.mk_same]; done) | with_reducible assumption | with_reducible rfl | with_reducible apply Keeps.ite | with_reducible apply makeRecord_keeps | with_reducible apply Keeps.foldl | with_reducible apply Keeps.mk_same | split | dsimp only)

theorem setVerified_keeps {s0 : State} (b : List Byte) {s : State} (h : Keeps s0 s) :
    Keeps s0 (setVerified b s) := by
  unfold setVerified
  simp (maxDischargeDepth := 99) (etaStruct := .none) only [h, wrn_keeps, Keeps.mk_same]

theorem planLoadEntry_keeps {s0 : State} (e : Word × Word) {s : State} (h : Keeps s0 s) :
    Keeps s0 (planLoadEntry e s) := by
  unfold planLoadEntry
  split
  · exact Keeps.wbSet _ _ h
  · exact toneCommitted_keeps _ (setToneOwner_keeps _ _ (Keeps.foldl (fun t a ht => wrn_keeps _ _ ht) h))
  · exact h

theorem planApply_keeps {s0 : State}  {s : State} (h : Keeps s0 s) :
    Keeps s0 (planApply s) := by
  unfold planApply
  repeat' (first | intro _ | (simp (maxDischargeDepth := 99) (etaStruct := .none) only [*, planLoadEntry_keeps, wr_keeps]; done) | with_reducible assumption | with_reducible rfl | with_reducible apply Keeps.ite | with_reducible apply modMsg_keeps | with_reducible apply planLoadEntry_keeps | with_reducible apply wr_keeps | with_reducible apply wrn_keeps | with_reducible apply Keeps.foldl | split | dsimp only)

end Sys2Proof.Machine
end

