-- ==== Sys2Proof/Laws/KeepsModes.lean ====
section
/-! SUPPORT. What the operations of Machine/Modes.lean keep (Laws/Keeps.lean says what that is). -/

namespace Sys2Proof.Machine
open Sys2Proof

theorem modModes_keeps {s0 : State} (f : Modes → Modes) {s : State} (h : Keeps s0 s) :
    Keeps s0 (State.modModes s f) := by
  unfold State.modModes
  simp (maxDischargeDepth := 99) (etaStruct := .none) only [h, Keeps.mk_same]

theorem modeReqWrite_keeps {s0 : State} (fromDict : Bool) (v : Nat) {s : State} (h : Keeps s0 s) :
    Keeps s0 (modeReqWrite fromDict v s) := by
  unfold modeReqWrite
  simp (maxDischargeDepth := 99) (etaStruct := .none) only [h, modModes_keeps, Keeps.ite]

theorem changeMode_keeps {s0 : State} (m : Mode) {s : State} (h : Keeps s0 s) :
    Keeps s0 (changeMode m s) := by
  unfold changeMode
  simp (maxDischargeDepth := 99) (etaStruct := .none) only [h, abortPass_keeps, modModes_keeps, sqSetX_keeps, wrf_keeps]

theorem planNode_keeps {s0 : State} (e : Word × Word) {s : State} (h : Keeps s0 s) :
    Keeps s0 (planNode e s) := by
  unfold planNode
  simp (maxDischargeDepth := 99) (etaStruct := .none) only [h, applyNode_keeps, msgEvents_keeps, nodeRefused_keeps, Keeps.ite]

theorem planPlayer_keeps {s0 : State} (e : Word × Word) {s : State} (h : Keeps s0 s) : Keeps s0 (planPlayer e s) := by
  unfold planPlayer
  extract_lets p s1 s2 s3 s4
  have h3 : Keeps s0 s3 := wrb_keeps _ _ _ (wrf_keeps _ _ _ _ (wrn_keeps _ _ (wrn_keeps _ _ h)))
  have h4 : Keeps s0 s4 := by
    unfold s4
    clear_value s3
    split
    · exact Keeps.wbSet _ _ h3
    · exact h3
  exact toneOp_keeps _ (playerStart_keeps _ h4)

theorem planActions_keeps {s0 : State}  {s : State} (h : Keeps s0 s) :
    Keeps s0 (planActions s) := by
  unfold planActions
  repeat' (first | intro _ | (simp (maxDischargeDepth := 99) (etaStruct := .none) only [*, applyClaim_keeps, planNode_keeps, planPlayer_keeps]; done) | with_reducible assumption | with_reducible rfl | with_reducible apply Keeps.ite | with_reducible apply applyClaim_keeps | with_reducible apply planNode_keeps | with_reducible apply planPlayer_keeps | with_reducible apply Keeps.foldl | split | dsimp only)

theorem watchRestart_keeps {s0 : State}  {s : State} (h : Keeps s0 s) :
    Keeps s0 (watchRestart s) := by
  unfold watchRestart
  repeat' (first | intro _ | (simp (maxDischargeDepth := 99) (etaStruct := .none) only [*, setRun_keeps, startCore_keeps, Keeps.ite]; done) | with_reducible assumption | with_reducible rfl | with_reducible apply Keeps.ite | with_reducible apply setRun_keeps | with_reducible apply startCore_keeps | with_reducible apply Keeps.foldl | split | dsimp only)

theorem evacEnter_keeps {s0 : State} (cause : Nat) (contact : Nat) {s : State} (h : Keeps s0 s) :
    Keeps s0 (evacEnter cause contact s) := by
  unfold evacEnter
  simp (maxDischargeDepth := 99) (etaStruct := .none) only [h, changeMode_keeps, modModes_keeps, planActions_keeps, watchRestart_keeps, weldEvacEnter_keeps]

theorem evacLeave_keeps {s0 : State}  {s : State} (h : Keeps s0 s) :
    Keeps s0 (evacLeave s) := by
  unfold evacLeave
  repeat' (first | intro _ | (simp (maxDischargeDepth := 99) (etaStruct := .none) only [*, clearBoth_keeps, playerFade_keeps, setTarget_keeps, weldEvacLeave_keeps]; done) | with_reducible assumption | with_reducible rfl | with_reducible apply Keeps.ite | with_reducible apply changeMode_keeps | with_reducible apply clearBoth_keeps | with_reducible apply playerFade_keeps | with_reducible apply setTarget_keeps | with_reducible apply weldEvacLeave_keeps | with_reducible apply Keeps.foldl | split | dsimp only)

theorem watchEnter_keeps {s0 : State}  {s : State} (h : Keeps s0 s) :
    Keeps s0 (watchEnter s) := by
  unfold watchEnter
  repeat' (first | intro _ | (simp (maxDischargeDepth := 99) (etaStruct := .none) only [*, clearRun_keeps, modSc_keeps, stopCore_keeps, Keeps.ite]; done) | with_reducible assumption | with_reducible rfl | with_reducible apply Keeps.ite | with_reducible apply changeMode_keeps | with_reducible apply clearRun_keeps | with_reducible apply modSc_keeps | with_reducible apply stopCore_keeps | with_reducible apply Keeps.foldl | split | dsimp only)

theorem sleepEnter_keeps {s0 : State}  {s : State} (h : Keeps s0 s) :
    Keeps s0 (sleepEnter s) := by
  unfold sleepEnter
  simp (maxDischargeDepth := 99) (etaStruct := .none) only [h, abortPass_keeps, cancelSwap_keeps, safeSleep_keeps, Keeps.mk_same]

theorem refuseMode_keeps {s0 : State} (cause : Nat) {s : State} (h : Keeps s0 s) :
    Keeps s0 (refuseMode cause s) := by
  unfold refuseMode
  simp (maxDischargeDepth := 99) (etaStruct := .none) only [h, sqSet_keeps, wrf_keeps]

theorem requestStep_keeps {s0 : State} (v : Nat) (fromDict : Bool) {s : State} (h : Keeps s0 s) :
    Keeps s0 (requestStep v fromDict s) := by
  unfold requestStep
  repeat' (first | (simp (maxDischargeDepth := 99) (etaStruct := .none) only [h, changeMode_keeps, refuseMode_keeps, sleepEnter_keeps, watchEnter_keeps, watchRestart_keeps, Keeps.ite]; done) | split)

theorem consumeContacts_keeps {s0 : State}  {s : State} (h : Keeps s0 s) :
    Keeps s0 (consumeContacts s) := by
  unfold consumeContacts
  repeat' (first | intro _ | (simp (maxDischargeDepth := 99) (etaStruct := .none) only [*, setContact_keeps]; done) | with_reducible assumption | with_reducible rfl | with_reducible apply Keeps.ite | with_reducible apply modModes_keeps | with_reducible apply setContact_keeps | with_reducible apply Keeps.foldl | split | dsimp only)

theorem modeStep_keeps {s0 : State}  {s : State} (h : Keeps s0 s) :
    Keeps s0 (modeStep s) := by
  unfold modeStep
  repeat' (first | (simp (maxDischargeDepth := 99) (etaStruct := .none) only [h, consumeContacts_keeps, evacEnter_keeps, evacLeave_keeps, modModes_keeps, refuseMode_keeps, requestStep_keeps, sqSet_keeps, Keeps.ite]; done) | split)

theorem wakeRequest_keeps {s0 : State} (bit : Nat) (contact : Nat) {s : State} (h : Keeps s0 s) :
    Keeps s0 (wakeRequest bit contact s) := by
  unfold wakeRequest
  simp (maxDischargeDepth := 99) (etaStruct := .none) only [h, modModes_keeps, noticePost_keeps, wrb_keeps, wrf_keeps, Keeps.ite]

theorem wakeLevel_keeps {s0 : State} (high : Bool) {s : State} (h : Keeps s0 s) :
    Keeps s0 (wakeLevel high s) := by
  unfold wakeLevel
  simp (maxDischargeDepth := 99) (etaStruct := .none) only [h, modModes_keeps, wakeRequest_keeps, Keeps.ite]

theorem wakeTimer_keeps {s0 : State}  {s : State} (h : Keeps s0 s) :
    Keeps s0 (wakeTimer s) := by
  unfold wakeTimer
  simp (maxDischargeDepth := 99) (etaStruct := .none) only [h, wakeRequest_keeps, Keeps.ite]

theorem contactAccepted_keeps {s0 : State} (n : Nat) (cls : Nat) {s : State} (h : Keeps s0 s) :
    Keeps s0 (contactAccepted n cls s) := by
  unfold contactAccepted
  repeat' (first | intro _ | (simp (maxDischargeDepth := 99) (etaStruct := .none) only [*, latchFault_keeps, modModes_keeps, setContact_keeps, Keeps.ite]; done) | with_reducible assumption | with_reducible rfl | with_reducible apply Keeps.ite | with_reducible apply latchFault_keeps | with_reducible apply modModes_keeps | with_reducible apply setContact_keeps | with_reducible apply wakeRequest_keeps | with_reducible apply Keeps.foldl | split | dsimp only)

theorem contactScan_keeps {s0 : State} (n : Nat) (cls : Nat) {s : State} (h : Keeps s0 s) :
    Keeps s0 (contactScan n cls s) := by
  unfold contactScan
  simp (maxDischargeDepth := 99) (etaStruct := .none) only [h, contactAccepted_keeps, setContact_keeps, Keeps.ite]

theorem setWdog_keeps {s0 : State} (c : Nat) (n : Nat) {s : State} (h : Keeps s0 s) :
    Keeps s0 (setWdog c n s) := by
  unfold setWdog
  simp (maxDischargeDepth := 99) (etaStruct := .none) only [h, modModes_keeps]

theorem wdogReload_keeps {s0 : State} (c : Nat) {s : State} (h : Keeps s0 s) :
    Keeps s0 (wdogReload c s) := by
  unfold wdogReload
  simp (maxDischargeDepth := 99) (etaStruct := .none) only [h, setWdog_keeps]

theorem wdogCfgWrite_keeps {s0 : State} (c : Nat) (v : Word) {s : State} (h : Keeps s0 s) :
    Keeps s0 (wdogCfgWrite c v s) := by
  unfold wdogCfgWrite
  simp (maxDischargeDepth := 99) (etaStruct := .none) only [h, wdogReload_keeps, wr_keeps, Keeps.ite]

theorem wdogKick_keeps {s0 : State} (c : Nat) (v : Word) {s : State} (h : Keeps s0 s) :
    Keeps s0 (wdogKick c v s) := by
  unfold wdogKick
  simp (maxDischargeDepth := 99) (etaStruct := .none) only [h, sqSet_keeps, wdogReload_keeps, Keeps.ite]

theorem wdogsHinge_keeps {s0 : State}  {s : State} (h : Keeps s0 s) :
    Keeps s0 (wdogsHinge s) := by
  unfold wdogsHinge
  repeat' (first | intro _ | (simp (maxDischargeDepth := 99) (etaStruct := .none) only [*, modModes_keeps, setWdog_keeps, Keeps.ite, Keeps.mk_same]; done) | with_reducible assumption | with_reducible rfl | with_reducible apply Keeps.ite | with_reducible apply modModes_keeps | with_reducible apply setWdog_keeps | with_reducible apply Keeps.foldl | split | dsimp only)

theorem enterLockup_keeps {s0 : State} (c : Nat) {s : State} (h : Keeps s0 s) :
    Keeps s0 (enterLockup c s) := by
  unfold enterLockup
  simp (maxDischargeDepth := 99) (etaStruct := .none) only [h, lockupPulse_keeps, setCtl_keeps, summaryCheck_keeps]

theorem watchdogExpiry_keeps {s0 : State} (c : Nat) {s : State} (h : Keeps s0 s) :
    Keeps s0 (watchdogExpiry c s) := by
  unfold watchdogExpiry
  repeat' (first | intro _ | (simp (maxDischargeDepth := 99) (etaStruct := .none) only [*, enterLockup_keeps, modModes_keeps, wrb_keeps, Keeps.ite, Keeps.mk_same]; done) | with_reducible assumption | with_reducible rfl | with_reducible apply Keeps.ite | with_reducible apply enterLockup_keeps | with_reducible apply modModes_keeps | with_reducible apply wrb_keeps | with_reducible apply Keeps.foldl | split | dsimp only)

end Sys2Proof.Machine
end

