-- ==== Sys2Proof/Laws/KeepsDict.lean ====
section
/-! SUPPORT. What the operations of Machine/Dict.lean keep (Laws/Keeps.lean says what that is). -/

namespace Sys2Proof.Machine
open Sys2Proof

theorem modDict_keeps {s0 : State} (f : Dict → Dict) {s : State} (h : Keeps s0 s) :
    Keeps s0 (State.modDict s f) := by
  unfold State.modDict
  simp (maxDischargeDepth := 99) (etaStruct := .none) only [h, Keeps.mk_same]

theorem dictEvent_keeps {s0 : State} (bit : Nat) (t : Nat) {s : State} (h : Keeps s0 s) :
    Keeps s0 (dictEvent bit t s) := by
  unfold dictEvent
  simp (maxDischargeDepth := 99) (etaStruct := .none) only [h, sqSet_keeps, wrn_keeps]

theorem tenantRecord_keeps {s0 : State} (t : Nat) (crit : Bool) {s : State} (h : Keeps s0 s) :
    Keeps s0 (tenantRecord t crit s) := by
  unfold tenantRecord
  simp (maxDischargeDepth := 99) (etaStruct := .none) only [h, draw_keeps, makeRecord_keeps]

theorem tenantCount_keeps {s0 : State} (t : Nat) (j : Nat) {s : State} (h : Keeps s0 s) :
    Keeps s0 (tenantCount t j s) := by
  unfold tenantCount
  simp (maxDischargeDepth := 99) (etaStruct := .none) only [h, incSat_keeps]

theorem heartbeat_keeps {s0 : State} (t : Nat) {s : State} (h : Keeps s0 s) :
    Keeps s0 (heartbeat t s) := by
  unfold heartbeat
  simp (maxDischargeDepth := 99) (etaStruct := .none) only [h, modTenant_keeps, tenantRecord_keeps, Keeps.ite]

theorem ringStep_keeps {s0 : State} (a : Nat) (size : Nat) (n : Nat) {s : State} (h : Keeps s0 s) :
    Keeps s0 (ringStep a size n s) := by
  unfold ringStep
  simp (maxDischargeDepth := 99) (etaStruct := .none) only [h, wrn_keeps]

theorem placeRequest_keeps {s0 : State} (t : Nat) (queue : Nat) (tag : Nat) (op : ReqOp) (sess : Option Nat) (sid : Word) (warden : Bool) (adv : Bool) {s : State} (h : Keeps s0 s) :
    Keeps s0 (placeRequest t queue tag op sess sid warden adv s) := by
  unfold placeRequest
  simp (maxDischargeDepth := 99) (etaStruct := .none) only [h, heartbeat_keeps, ringStep_keeps, setTenant_keeps, Keeps.ite]

theorem modReq_keeps {s0 : State} (t : Nat) (tag : Nat) (f : Req → Req) {s : State} (h : Keeps s0 s) :
    Keeps s0 (modReq t tag f s) := by
  unfold modReq
  simp (maxDischargeDepth := 99) (etaStruct := .none) only [h, modTenant_keeps]

theorem placeResponse_keeps {s0 : State} (t : Nat) (q : Req) {s : State} (h : Keeps s0 s) :
    Keeps s0 (placeResponse t q s) := by
  unfold placeResponse
  simp (maxDischargeDepth := 99) (etaStruct := .none) only [h, modReq_keeps, ringStep_keeps, setTenant_keeps, Keeps.ite]

theorem finish_keeps {s0 : State} (t : Nat) (tag : Nat) (status : Nat) (hinge : Word) (detail : Nat) (value : List Byte) {s : State} (h : Keeps s0 s) :
    Keeps s0 (finish t tag status hinge detail value s) := by
  unfold finish
  repeat' (first | (simp (maxDischargeDepth := 99) (etaStruct := .none) only [h, dictEvent_keeps, placeResponse_keeps, tenantCount_keeps, Keeps.ite]; done) | split)

theorem responseHoldRelease_keeps {s0 : State} (t : Nat) {s : State} (h : Keeps s0 s) :
    Keeps s0 (responseHoldRelease t s) := by
  unfold responseHoldRelease
  repeat' (first | (simp (maxDischargeDepth := 99) (etaStruct := .none) only [h, placeResponse_keeps, Keeps.ite]; done) | split)

theorem requestTake_keeps {s0 : State}  {s : State} (h : Keeps s0 s) :
    Keeps s0 (requestTake s) := by
  unfold requestTake
  repeat' (first | (simp (maxDischargeDepth := 99) (etaStruct := .none) only [h, finish_keeps, modDict_keeps, modReq_keeps, ringStep_keeps, Keeps.ite]; done) | split)

theorem noteLengths_keeps {s0 : State} (ms : List Member) {s : State} (h : Keeps s0 s) :
    Keeps s0 (noteLengths ms s) := by
  unfold noteLengths
  repeat' (first | intro _ | (simp (maxDischargeDepth := 99) (etaStruct := .none) only [*, modDict_keeps, typeBytes_keeps, Keeps.ite, Keeps.mk_same]; done) | with_reducible assumption | with_reducible rfl | with_reducible apply Keeps.ite | with_reducible apply modDict_keeps | with_reducible apply typeBytes_keeps | with_reducible apply Keeps.foldl | split | dsimp only)

theorem writeInForce_keeps {s0 : State} (t : Nat) (tag : Nat) (status : Nat) (hinge : Word) (detail : Nat) {s : State} (h : Keeps s0 s) :
    Keeps s0 (writeInForce t tag status hinge detail s) := by
  unfold writeInForce
  repeat' (first | intro _ | (simp (maxDischargeDepth := 99) (etaStruct := .none) only [*, finish_keeps, hinge_keeps, modDict_keeps, modReq_keeps, noteLengths_keeps, Keeps.ite, Keeps.mk_same]; done) | with_reducible assumption | with_reducible rfl | with_reducible apply Keeps.ite | with_reducible apply finish_keeps | with_reducible apply hinge_keeps | with_reducible apply modDict_keeps | with_reducible apply modReq_keeps | with_reducible apply noteLengths_keeps | with_reducible apply Keeps.foldl | split | dsimp only)

theorem recordLogged_keeps {s0 : State} (r : LogRec) (ok : Bool) {s : State} (h : Keeps s0 s) :
    Keeps s0 (recordLogged r ok s) := by
  unfold recordLogged
  repeat' (first | (simp (maxDischargeDepth := 99) (etaStruct := .none) only [h, finish_keeps, modReq_keeps, Keeps.ite]; done) | split)

theorem persistRecord_keeps {s0 : State} (ok : Bool) {s : State} (h : Keeps s0 s) :
    Keeps s0 (persistRecord ok s) := by
  unfold persistRecord
  repeat' (first | intro _ | (simp (maxDischargeDepth := 99) (etaStruct := .none) only [*, modDict_keeps, mwrBytes_keeps, recordLogged_keeps, Keeps.ite, Keeps.mk_same]; done) | with_reducible assumption | with_reducible rfl | with_reducible apply Keeps.ite | with_reducible apply modDict_keeps | with_reducible apply mwrBytes_keeps | with_reducible apply recordLogged_keeps | with_reducible apply Keeps.foldl | split | dsimp only)

theorem compaction_keeps {s0 : State}  {s : State} (h : Keeps s0 s) :
    Keeps s0 (compaction s) := by
  unfold compaction
  simp (maxDischargeDepth := 99) (etaStruct := .none) only [h, modDict_keeps, mwrBytes_keeps, Keeps.ite]

theorem passHandler_keeps {s0 : State} (t : Nat) (tag : Nat) {s : State} (h : Keeps s0 s) :
    Keeps s0 (passHandler t tag s) := by
  unfold passHandler
  simp (maxDischargeDepth := 99) (etaStruct := .none) only [h, drawBytes_keeps, modDict_keeps, modReq_keeps, mwrBytes_keeps, Keeps.ite]

theorem handlerValue_keeps {s0 : State} (r : DRec) {s : State} (h : Keeps s0 s) :
    Keeps s0 (handlerValue r s).2 := by
  unfold handlerValue
  repeat' (first | (simp (maxDischargeDepth := 99) (etaStruct := .none) only [h, drawBytes_keeps, draw_keeps]; done) | split)

theorem handlerEnd_keeps {s0 : State} (t : Nat) (tag : Nat) (result : Nat) {s : State} (h : Keeps s0 s) :
    Keeps s0 (handlerEnd t tag result s) := by
  unfold handlerEnd
  repeat' (first | (simp (maxDischargeDepth := 99) (etaStruct := .none) only [h, finish_keeps, handlerValue_keeps, writeInForce_keeps]; done) | split)

theorem hdone_keeps {s0 : State} (v : Word) {s : State} (h : Keeps s0 s) :
    Keeps s0 (hdone v s) := by
  unfold hdone
  repeat' (first | intro _ | (simp (maxDischargeDepth := 99) (etaStruct := .none) only [*, handlerEnd_keeps, modDict_keeps]; done) | with_reducible assumption | with_reducible rfl | with_reducible apply Keeps.ite | with_reducible apply handlerEnd_keeps | with_reducible apply modDict_keeps | with_reducible apply Keeps.foldl | split | dsimp only)

theorem handlerTimeout_keeps {s0 : State} (slot : Nat) {s : State} (h : Keeps s0 s) :
    Keeps s0 (handlerTimeout slot s) := by
  unfold handlerTimeout
  repeat' (first | (simp (maxDischargeDepth := 99) (etaStruct := .none) only [h, dictEvent_keeps, finish_keeps, modDict_keeps]; done) | split)

theorem requestReset_keeps {s0 : State} (t : Nat) (del : Bool) {s : State} (h : Keeps s0 s) :
    Keeps s0 (requestReset t del s) := by
  unfold requestReset
  simp (maxDischargeDepth := 99) (etaStruct := .none) only [h, cancelSwap_keeps, setTenant_keeps, Keeps.ite]

theorem heartbeatLost_keeps {s0 : State} (t : Nat) {s : State} (h : Keeps s0 s) :
    Keeps s0 (heartbeatLost t s) := by
  unfold heartbeatLost
  repeat' (first | (simp (maxDischargeDepth := 99) (etaStruct := .none) only [h, dictEvent_keeps, modTenant_keeps, requestReset_keeps, setTenant_keeps, summaryCheck_keeps, tenantCount_keeps, tenantRecord_keeps, Keeps.ite]; done) | split)

theorem playersReset_keeps {s0 : State} (t : Nat) {s : State} (h : Keeps s0 s) :
    Keeps s0 (playersReset t s) := by
  unfold playersReset
  repeat' (first | intro _ | (simp (maxDischargeDepth := 99) (etaStruct := .none) only [*, clearBoth_keeps, playerFade_keeps, Keeps.ite]; done) | with_reducible assumption | with_reducible rfl | with_reducible apply Keeps.ite | with_reducible apply clearBoth_keeps | with_reducible apply playerFade_keeps | with_reducible apply Keeps.foldl | split | dsimp only)

theorem tenantsH1_keeps {s0 : State}  {s : State} (h : Keeps s0 s) :
    Keeps s0 (tenantsH1 s) := by
  unfold tenantsH1
  repeat' (first | intro _ | (simp (maxDischargeDepth := 99) (etaStruct := .none) only [*, modTenant_keeps, playersReset_keeps, releaseAll_keeps, rerank_keeps, safeTenantReset_keeps, toneTenantReset_keeps, weldTenantReset_keeps, Keeps.ite]; done) | with_reducible assumption | with_reducible rfl | with_reducible apply Keeps.ite | with_reducible apply modTenant_keeps | with_reducible apply playersReset_keeps | with_reducible apply releaseAll_keeps | with_reducible apply rerank_keeps | with_reducible apply safeTenantReset_keeps | with_reducible apply toneTenantReset_keeps | with_reducible apply weldTenantReset_keeps | with_reducible apply Keeps.foldl | split | dsimp only)

theorem dictEnableWrite_keeps {s0 : State} (on : Bool) {s : State} (h : Keeps s0 s) :
    Keeps s0 (dictEnableWrite on s) := by
  unfold dictEnableWrite
  simp (maxDischargeDepth := 99) (etaStruct := .none) only [h, modDict_keeps, Keeps.ite]

theorem localRequests_keeps {s0 : State} (q : Nat) (v : Word) {s : State} (h : Keeps s0 s) :
    Keeps s0 (localRequests q v s) := by
  unfold localRequests
  simp only [apply_ite Prod.fst]
  repeat' (first | intro _ | (simp (maxDischargeDepth := 99) (etaStruct := .none) only [*, dictEvent_keeps, placeRequest_keeps, tenantCount_keeps, wr_keeps]; done) | with_reducible assumption | with_reducible rfl | with_reducible apply Keeps.ite | with_reducible apply dictEvent_keeps | with_reducible apply placeRequest_keeps | with_reducible apply tenantCount_keeps | with_reducible apply wr_keeps | with_reducible apply Keeps.foldl | split | dsimp only)

theorem queueConsume_keeps {s0 : State} (q : Nat) (v : Word) {s : State} (h : Keeps s0 s) :
    Keeps s0 (queueConsume q v s) := by
  unfold queueConsume
  repeat' (first | (simp (maxDischargeDepth := 99) (etaStruct := .none) only [h, modTenant_keeps, wr_keeps]; done) | split)

theorem requestPlacement_keeps {s0 : State} (t : Nat) (queue : Nat) (tag : Nat) (op : ReqOp) {s : State} (h : Keeps s0 s) :
    Keeps s0 (requestPlacement t queue tag op s) := by
  unfold requestPlacement
  repeat' (first | (simp (maxDischargeDepth := 99) (etaStruct := .none) only [h, dictEvent_keeps, placeRequest_keeps, tenantCount_keeps]; done) | split)

theorem heartbeatsRestart_keeps {s0 : State}  {s : State} (h : Keeps s0 s) :
    Keeps s0 (heartbeatsRestart s) := by
  unfold heartbeatsRestart
  repeat' (first | intro _ | (simp (maxDischargeDepth := 99) (etaStruct := .none) only [*, modTenant_keeps, Keeps.ite, Keeps.mk_same]; done) | with_reducible assumption | with_reducible rfl | with_reducible apply Keeps.ite | with_reducible apply modTenant_keeps | with_reducible apply Keeps.foldl | split | dsimp only)

end Sys2Proof.Machine
end

