-- ==== Sys2Proof/Laws/KeepsDma.lean ====
section
/-! SUPPORT. What the operations of Machine/Dma.lean keep (Laws/Keeps.lean says what that is). -/

namespace Sys2Proof.Machine
open Sys2Proof

theorem setDch_keeps {s0 : State} (n : Nat) (x : DmaCh) {s : State} (h : Keeps s0 s) :
    Keeps s0 (State.setDch s n x) := by
  unfold State.setDch
  simp (maxDischargeDepth := 99) (etaStruct := .none) only [h, Keeps.mk_same]

theorem modDch_keeps {s0 : State} (n : Nat) (f : DmaCh → DmaCh) {s : State} (h : Keeps s0 s) :
    Keeps s0 (State.modDch s n f) := by
  unfold State.modDch
  simp (maxDischargeDepth := 99) (etaStruct := .none) only [h, setDch_keeps]

theorem dmaEvent_keeps {s0 : State} (bits : List Nat) (n : Nat) {s : State} (h : Keeps s0 s) :
    Keeps s0 (dmaEvent bits n s) := by
  unfold dmaEvent
  simp (maxDischargeDepth := 99) (etaStruct := .none) only [h, sqSet_keeps]

theorem chApply_keeps {s0 : State} (n : Nat) {s : State} (h : Keeps s0 s) : Keeps s0 (chApply n s) := by
  unfold chApply
  refine Keeps.foldl (fun t a ht => ?_) h
  split
  · exact Keeps.wbSet _ _ (wr_keeps _ _ ht)
  · exact ht

theorem chStaged_keeps {s0 : State} (n : Nat) {s : State} (h : Keeps s0 s) :
    Keeps s0 (chStaged n s) := by
  unfold chStaged
  simp (maxDischargeDepth := 99) (etaStruct := .none) only [h, chApply_keeps, Keeps.ite]

theorem scramble_keeps {s0 : State} (a n : Nat) {s : State} (h : Keeps s0 s) : Keeps s0 (scramble a n s) := by
  induction n generalizing a s with
  | zero => exact h
  | succ n ih => exact ih _ (Keeps.ite (mwrBytes_keeps _ _ (draw_keeps h)) (draw_keeps h))

theorem chStop_keeps {s0 : State} (n : Nat) {s : State} (h : Keeps s0 s) :
    Keeps s0 (chStop n s) := by
  unfold chStop
  repeat' (first | intro _ | (simp (maxDischargeDepth := 99) (etaStruct := .none) only [*, modDch_keeps, scramble_keeps, wrb_keeps]; done) | with_reducible assumption | with_reducible rfl | with_reducible apply Keeps.ite | with_reducible apply draw_keeps | with_reducible apply modDch_keeps | with_reducible apply scramble_keeps | with_reducible apply setDch_keeps | with_reducible apply wr_keeps | with_reducible apply wrb_keeps | with_reducible apply wrn_keeps | with_reducible apply Keeps.foldl | split | dsimp only)

theorem chCause_keeps {s0 : State} (n : Nat) (cause : Nat) {s : State} (h : Keeps s0 s) :
    Keeps s0 (chCause n cause s) := by
  unfold chCause
  simp (maxDischargeDepth := 99) (etaStruct := .none) only [h, dmaEvent_keeps, modDch_keeps]

theorem chEnable_keeps {s0 : State} (n : Nat) {s : State} (h : Keeps s0 s) :
    Keeps s0 (chEnable n s) := by
  unfold chEnable
  simp (maxDischargeDepth := 99) (etaStruct := .none) only [h, chCause_keeps, wrb_keeps, Keeps.ite]

theorem chStart_keeps {s0 : State} (n : Nat) {s : State} (h : Keeps s0 s) :
    Keeps s0 (chStart n s) := by
  unfold chStart
  simp (maxDischargeDepth := 99) (etaStruct := .none) only [h, chApply_keeps, modDch_keeps, wrn_keeps, Keeps.ite]

theorem chCtrlWrite_keeps {s0 : State} (n : Nat) (v : Word) {s : State} (h : Keeps s0 s) :
    Keeps s0 (chCtrlWrite n v s) := by
  unfold chCtrlWrite
  simp (maxDischargeDepth := 99) (etaStruct := .none) only [h, chEnable_keeps, chStart_keeps, chStop_keeps, modDch_keeps, Keeps.ite]

theorem heldEnable_keeps {s0 : State} (n : Nat) {s : State} (h : Keeps s0 s) :
    Keeps s0 (heldEnable n s) := by
  unfold heldEnable
  simp (maxDischargeDepth := 99) (etaStruct := .none) only [h, chEnable_keeps, setDch_keeps, Keeps.ite]

theorem dmaHinge_keeps {s0 : State}  {s : State} (h : Keeps s0 s) :
    Keeps s0 (dmaHinge s) := by
  unfold dmaHinge
  repeat' (first | intro _ | (simp (maxDischargeDepth := 99) (etaStruct := .none) only [*, heldEnable_keeps]; done) | with_reducible assumption | with_reducible rfl | with_reducible apply Keeps.ite | with_reducible apply heldEnable_keeps | with_reducible apply Keeps.foldl | split | dsimp only)

theorem chTailWrite_keeps {s0 : State} (n : Nat) (v : Word) {s : State} (h : Keeps s0 s) :
    Keeps s0 (chTailWrite n v s) := by
  unfold chTailWrite
  simp (maxDischargeDepth := 99) (etaStruct := .none) only [h, chCause_keeps, wrn_keeps, Keeps.ite]

theorem lateErr_keeps {s0 : State} (n : Nat) {s : State} (h : Keeps s0 s) :
    Keeps s0 (lateErr n s) := by
  unfold lateErr
  repeat' (first | intro _ | (simp (maxDischargeDepth := 99) (etaStruct := .none) only [*, dmaEvent_keeps, modDch_keeps, wr_keeps, wrn_keeps, Keeps.ite, Keeps.mk_same]; done) | with_reducible assumption | with_reducible rfl | with_reducible apply Keeps.ite | with_reducible apply dmaEvent_keeps | with_reducible apply modDch_keeps | with_reducible apply wr_keeps | with_reducible apply wrn_keeps | with_reducible apply Keeps.foldl | split | dsimp only)

theorem chsStop_keeps {s0 : State}  {s : State} (h : Keeps s0 s) :
    Keeps s0 (chsStop s) := by
  unfold chsStop
  repeat' (first | intro _ | (simp (maxDischargeDepth := 99) (etaStruct := .none) only [*, chStop_keeps]; done) | with_reducible assumption | with_reducible rfl | with_reducible apply Keeps.ite | with_reducible apply chStop_keeps | with_reducible apply Keeps.foldl | split | dsimp only)

theorem dmaEnableWrite_keeps {s0 : State} (on : Bool) {s : State} (h : Keeps s0 s) :
    Keeps s0 (dmaEnableWrite on s) := by
  unfold dmaEnableWrite
  simp (maxDischargeDepth := 99) (etaStruct := .none) only [h, chsStop_keeps, wrb_keeps, Keeps.ite]

theorem dmaBlockReset_keeps {s0 : State}  {s : State} (h : Keeps s0 s) :
    Keeps s0 (dmaBlockReset s) := by
  unfold dmaBlockReset
  simp (maxDischargeDepth := 99) (etaStruct := .none) only [h, chsStop_keeps, Keeps.mk_same]

theorem frameBytes_keeps {s0 : State} (f : NetFrame) {s : State} (h : Keeps s0 s) :
    Keeps s0 (frameBytes f s).2 := by
  unfold frameBytes
  simp (maxDischargeDepth := 99) (etaStruct := .none) only [h, drawBytes_keeps]

end Sys2Proof.Machine
end

