-- ==== Sys2Proof/Laws/KeepsTdm.lean ====
section
/-! SUPPORT. What the operations of Machine/Tdm.lean keep (Laws/Keeps.lean says what that is). -/

namespace Sys2Proof.Machine
open Sys2Proof

theorem bridgeEvent_keeps {s0 : State} (bit : Nat) (n : Nat) {s : State} (h : Keeps s0 s) :
    Keeps s0 (bridgeEvent bit n s) := by
  unfold bridgeEvent
  simp (maxDischargeDepth := 99) (etaStruct := .none) only [h, sqSet_keeps, wrn_keeps]

theorem tdmEvent_keeps {s0 : State} (bit : Nat) (p : Nat) {s : State} (h : Keeps s0 s) :
    Keeps s0 (tdmEvent bit p s) := by
  unfold tdmEvent
  simp (maxDischargeDepth := 99) (etaStruct := .none) only [h, sqSet_keeps, wrn_keeps]

theorem bridgeCheck_keeps {s0 : State} (n : Nat) {s : State} (h : Keeps s0 s) :
    Keeps s0 (bridgeCheck n s) := by
  unfold bridgeCheck
  simp (maxDischargeDepth := 99) (etaStruct := .none) only [h, bridgeEvent_keeps, setBridge_keeps, Keeps.ite]

theorem bridgeSwitch_keeps {s0 : State} (n : Nat) {s : State} (h : Keeps s0 s) :
    Keeps s0 (bridgeSwitch n s) := by
  unfold bridgeSwitch
  simp (maxDischargeDepth := 99) (etaStruct := .none) only [h, bridgeEvent_keeps, setBridge_keeps, Keeps.ite]

theorem bridgeBuffered_keeps {s0 : State}  {s : State} (h : Keeps s0 s) :
    Keeps s0 (bridgeBuffered s) := by
  unfold bridgeBuffered
  repeat' (first | intro _ | (simp (maxDischargeDepth := 99) (etaStruct := .none) only [*, bridgeCheck_keeps, bridgeSwitch_keeps, takeBuffered_keeps, wr_keeps]; done) | with_reducible assumption | with_reducible rfl | with_reducible apply Keeps.ite | with_reducible apply bridgeCheck_keeps | with_reducible apply bridgeSwitch_keeps | with_reducible apply takeBuffered_keeps | with_reducible apply wr_keeps | with_reducible apply Keeps.foldl | split | dsimp only)

theorem bridgeIn_keeps {s0 : State} (d : Dom) (n : Nat) {s : State} (h : Keeps s0 s) :
    Keeps s0 (bridgeIn d n s) := by
  unfold bridgeIn
  simp (maxDischargeDepth := 99) (etaStruct := .none) only [h, setBridge_keeps, Keeps.ite]

theorem bridgeOut_keeps {s0 : State} (d : Dom) (n : Nat) {s : State} (h : Keeps s0 s) :
    Keeps s0 (bridgeOut d n s) := by
  unfold bridgeOut
  simp (maxDischargeDepth := 99) (etaStruct := .none) only [h, lanePut_keeps, setBridge_keeps, Keeps.ite]

theorem bridgeRun_keeps {s0 : State} (n : Nat) {s : State} (h : Keeps s0 s) :
    Keeps s0 (bridgeRun n s) := by
  unfold bridgeRun
  simp (maxDischargeDepth := 99) (etaStruct := .none) only [h, bridgeEvent_keeps, setBridge_keeps, Keeps.ite]

theorem bridgeStopped_keeps {s0 : State} (n : Nat) {s : State} (h : Keeps s0 s) :
    Keeps s0 (bridgeStopped n s) := by
  unfold bridgeStopped
  simp (maxDischargeDepth := 99) (etaStruct := .none) only [h, bridgeEvent_keeps, setBridge_keeps, Keeps.ite]

theorem asyncReceived_keeps {s0 : State} (n phase : Nat) (slots : List Word) {s : State} (h : Keeps s0 s) :
    Keeps s0 (asyncReceived n phase slots s) := by
  unfold asyncReceived
  extract_lets b ratio bad b0 b1 b2
  clear_value bad b0 b1 b2
  refine Keeps.ite (setBridge_keeps _ _ h) (Keeps.ite (setBridge_keeps _ _ h) (Keeps.ite ?_ (Keeps.ite ?_ ?_)))
  · exact Keeps.ite (setBridge_keeps _ _ h) (bridgeEvent_keeps _ _ (setBridge_keeps _ _ h))
  · exact setBridge_keeps _ _ h
  · exact setBridge_keeps _ _ h

theorem portStop_keeps {s0 : State} (p : Nat) {s : State} (h : Keeps s0 s) :
    Keeps s0 (portStop p s) := by
  unfold portStop
  repeat' (first | intro _ | (simp (maxDischargeDepth := 99) (etaStruct := .none) only [*, setLane_keeps, setTport_keeps]; done) | with_reducible assumption | with_reducible rfl | with_reducible apply Keeps.ite | with_reducible apply setLane_keeps | with_reducible apply setTport_keeps | with_reducible apply Keeps.foldl | split | dsimp only)

theorem portSwitch_keeps {s0 : State} (p : Nat) {s : State} (h : Keeps s0 s) :
    Keeps s0 (portSwitch p s) := by
  unfold portSwitch
  simp (maxDischargeDepth := 99) (etaStruct := .none) only [h, clearBoth_keeps, portStop_keeps, setTport_keeps, tdmEvent_keeps, Keeps.ite]

theorem tdmBuffered_keeps {s0 : State}  {s : State} (h : Keeps s0 s) :
    Keeps s0 (tdmBuffered s) := by
  unfold tdmBuffered
  repeat' (first | intro _ | (simp (maxDischargeDepth := 99) (etaStruct := .none) only [*, portSwitch_keeps, takeBuffered_keeps, wr_keeps, Keeps.ite, Keeps.mk_same]; done) | with_reducible assumption | with_reducible rfl | with_reducible apply Keeps.ite | with_reducible apply portSwitch_keeps | with_reducible apply takeBuffered_keeps | with_reducible apply wr_keeps | with_reducible apply Keeps.foldl | split | dsimp only)
  all_goals (refine Keeps.mk_same ?_ rfl)
  all_goals repeat' (first | intro _ | (simp (maxDischargeDepth := 99) (etaStruct := .none) only [*, portSwitch_keeps, takeBuffered_keeps, wr_keeps, Keeps.ite, Keeps.mk_same]; done) | with_reducible assumption | with_reducible rfl | with_reducible apply Keeps.ite | with_reducible apply portSwitch_keeps | with_reducible apply takeBuffered_keeps | with_reducible apply wr_keeps | with_reducible apply Keeps.foldl | split | dsimp only)

theorem enterLof_keeps {s0 : State} (p : Nat) (cause : Nat) {s : State} (h : Keeps s0 s) :
    Keeps s0 (enterLof p cause s) := by
  unfold enterLof
  repeat' (first | intro _ | (simp (maxDischargeDepth := 99) (etaStruct := .none) only [*, setLane_keeps]; done) | with_reducible assumption | with_reducible rfl | with_reducible apply Keeps.ite | with_reducible apply setLane_keeps | with_reducible apply setTport_keeps | with_reducible apply tdmEvent_keeps | with_reducible apply Keeps.foldl | split | dsimp only)

theorem slip_keeps {s0 : State} (p : Nat) {s : State} (h : Keeps s0 s) :
    Keeps s0 (slip p s) := by
  unfold slip
  simp only [apply_ite Prod.fst]
  repeat' (first | intro _ | (simp (maxDischargeDepth := 99) (etaStruct := .none) only [*, enterLof_keeps, setTport_keeps, tdmEvent_keeps, Keeps.ite]; done) | with_reducible assumption | with_reducible rfl | with_reducible apply Keeps.ite | with_reducible apply enterLof_keeps | with_reducible apply setTport_keeps | with_reducible apply tdmEvent_keeps | with_reducible apply Keeps.foldl | split | dsimp only)

theorem regain_keeps {s0 : State} (p : Nat) {s : State} (h : Keeps s0 s) :
    Keeps s0 (regain p s) := by
  unfold regain
  simp (maxDischargeDepth := 99) (etaStruct := .none) only [h, setTport_keeps, tdmEvent_keeps, Keeps.ite]

theorem tdmClip_keeps {s0 : State} (p : Nat) {s : State} (h : Keeps s0 s) :
    Keeps s0 (tdmClip p s) := by
  unfold tdmClip
  simp (maxDischargeDepth := 99) (etaStruct := .none) only [h, incSat_keeps, tdmEvent_keeps]

theorem outValues_keeps {s0 : State} (p : Nat) {s : State} (h : Keeps s0 s) :
    Keeps s0 (outValues p s).2 := by
  unfold outValues
  repeat' (first | intro _ | (simp (maxDischargeDepth := 99) (etaStruct := .none) only [*, addPilots_keeps, Keeps.ite, Keeps.mk_same, apply_ite Prod.snd]; done) | with_reducible assumption | with_reducible rfl | with_reducible apply Keeps.ite | with_reducible apply addPilots_keeps | with_reducible apply Keeps.foldl | with_reducible refine Keeps.foldl_of (p := Prod.snd) ?_ ?_ | with_reducible refine Keeps.foldl_of (p := Prod.fst) ?_ ?_ | split | dsimp only)

theorem outWords_keeps {s0 : State} (p : Nat) (vals : List Word) {s : State} (h : Keeps s0 s) :
    Keeps s0 (outWords p vals s).2 := by
  unfold outWords
  repeat' (first | intro _ | (simp (maxDischargeDepth := 99) (etaStruct := .none) only [*, tdmClip_keeps, Keeps.ite, Keeps.mk_same, apply_ite Prod.snd]; done) | with_reducible assumption | with_reducible rfl | with_reducible apply Keeps.ite | with_reducible apply tdmClip_keeps | with_reducible apply Keeps.foldl | with_reducible refine Keeps.foldl_of (p := Prod.snd) ?_ ?_ | with_reducible refine Keeps.foldl_of (p := Prod.fst) ?_ ?_ | split | dsimp only)

theorem outFrame_keeps {s0 : State} (p : Nat) {s : State} (h : Keeps s0 s) :
    Keeps s0 (outFrame p s).2 := by
  unfold outFrame
  repeat' (first | intro _ | (simp (maxDischargeDepth := 99) (etaStruct := .none) only [*, outValues_keeps, outWords_keeps, Keeps.ite, Keeps.mk_same, apply_ite Prod.snd]; done) | with_reducible assumption | with_reducible rfl | with_reducible apply Keeps.ite | with_reducible apply outValues_keeps | with_reducible apply outWords_keeps | with_reducible apply Keeps.foldl | split | dsimp only)

theorem masterFrame_keeps {s0 : State} (p : Nat) (din : List Word) {s : State} (h : Keeps s0 s) :
    Keeps s0 (masterFrame p din s) := by
  unfold masterFrame
  repeat' (first | intro _ | (simp (maxDischargeDepth := 99) (etaStruct := .none) only [*, lanePut_keeps, outFrame_keeps, setTport_keeps]; done) | with_reducible assumption | with_reducible rfl | with_reducible apply Keeps.ite | with_reducible apply lanePut_keeps | with_reducible apply outFrame_keeps | with_reducible apply setTport_keeps | with_reducible apply Keeps.foldl | split | dsimp only)

theorem slaveIn_keeps {s0 : State} (p : Nat) {s : State} (h : Keeps s0 s) :
    Keeps s0 (slaveIn p s) := by
  unfold slaveIn
  repeat' (first | intro _ | (simp (maxDischargeDepth := 99) (etaStruct := .none) only [*, setLane_keeps, Keeps.ite]; done) | with_reducible assumption | with_reducible rfl | with_reducible apply Keeps.ite | with_reducible apply setLane_keeps | with_reducible apply setTport_keeps | with_reducible apply slip_keeps | with_reducible apply Keeps.foldl | split | dsimp only)

theorem slaveOut_keeps {s0 : State} (p : Nat) {s : State} (h : Keeps s0 s) :
    Keeps s0 (slaveOut p s) := by
  unfold slaveOut
  simp (maxDischargeDepth := 99) (etaStruct := .none) only [h, outFrame_keeps, setTport_keeps, slip_keeps, Keeps.ite]

theorem slaveSend_keeps {s0 : State} (p : Nat) (phase : Nat) {s : State} (h : Keeps s0 s) :
    Keeps s0 (slaveSend p phase s) := by
  unfold slaveSend
  refine Keeps.mk_same ?_ rfl
  repeat' (first | intro _ | (simp (maxDischargeDepth := 99) (etaStruct := .none) only [*, setTport_keeps, slip_keeps, Keeps.ite, Keeps.mk_same]; done) | with_reducible assumption | with_reducible rfl | with_reducible apply Keeps.ite | with_reducible apply setTport_keeps | with_reducible apply slip_keeps | with_reducible apply Keeps.foldl | split | dsimp only)

theorem asyncFrame_keeps {s0 : State} (n : Nat) (p : Nat) {s : State} (h : Keeps s0 s) :
    Keeps s0 (asyncFrame n p s) := by
  unfold asyncFrame
  refine Keeps.mk_same ?_ rfl
  repeat' (first | intro _ | (simp (maxDischargeDepth := 99) (etaStruct := .none) only [*, bridgeEvent_keeps, lanePut_keeps, outValues_keeps, setBridge_keeps, Keeps.ite, Keeps.mk_same]; done) | with_reducible assumption | with_reducible rfl | with_reducible apply Keeps.ite | with_reducible apply bridgeEvent_keeps | with_reducible apply lanePut_keeps | with_reducible apply outValues_keeps | with_reducible apply setBridge_keeps | with_reducible apply Keeps.foldl | split | dsimp only)

theorem asyncSend_keeps {s0 : State} (n : Nat) (p : Nat) {s : State} (h : Keeps s0 s) :
    Keeps s0 (asyncSend n p s) := by
  unfold asyncSend
  repeat' (first | intro _ | (simp (maxDischargeDepth := 99) (etaStruct := .none) only [*, outWords_keeps, setTport_keeps, Keeps.ite, Keeps.mk_same]; done) | with_reducible assumption | with_reducible rfl | with_reducible apply Keeps.ite | with_reducible apply outWords_keeps | with_reducible apply setTport_keeps | with_reducible apply Keeps.foldl | split | dsimp only)

theorem portFrame_keeps {s0 : State} (dm : Dom) (din : List (Nat × List Word)) (p : Nat) {s : State} (h : Keeps s0 s) :
    Keeps s0 (portFrame dm din p s) := by
  unfold portFrame
  repeat' (first | intro _ | (simp (maxDischargeDepth := 99) (etaStruct := .none) only [*, asyncFrame_keeps, masterFrame_keeps, slaveIn_keeps, slaveOut_keeps, Keeps.ite, Keeps.mk_same]; done) | with_reducible assumption | with_reducible rfl | with_reducible apply Keeps.ite | with_reducible apply asyncFrame_keeps | with_reducible apply masterFrame_keeps | with_reducible apply slaveIn_keeps | with_reducible apply slaveOut_keeps | with_reducible apply Keeps.foldl | split | dsimp only)

theorem receivedFrame_keeps {s0 : State} (p : Nat) (slots : List Word) (spacingOk : Bool) (phase : Nat) {s : State} (h : Keeps s0 s) :
    Keeps s0 (receivedFrame p slots spacingOk phase s) := by
  unfold receivedFrame
  repeat' (first | intro _ | (simp (maxDischargeDepth := 99) (etaStruct := .none) only [*, asyncReceived_keeps, asyncSend_keeps, enterLof_keeps, incSat_keeps, regain_keeps, setTport_keeps, slaveSend_keeps, xingDropped_keeps, Keeps.ite, Keeps.mk_same]; done) | with_reducible assumption | with_reducible rfl | with_reducible apply Keeps.ite | with_reducible apply asyncReceived_keeps | with_reducible apply asyncSend_keeps | with_reducible apply enterLof_keeps | with_reducible apply incSat_keeps | with_reducible apply regain_keeps | with_reducible apply setTport_keeps | with_reducible apply slaveSend_keeps | with_reducible apply xingDropped_keeps | with_reducible apply Keeps.foldl | split | dsimp only)

theorem noFrame_keeps {s0 : State} (p : Nat) {s : State} (h : Keeps s0 s) :
    Keeps s0 (noFrame p s) := by
  unfold noFrame
  simp (maxDischargeDepth := 99) (etaStruct := .none) only [h, enterLof_keeps, Keeps.ite]

end Sys2Proof.Machine
end

