-- ==== Sys2Proof/Laws/KeepsNet.lean ====
section
/-! SUPPORT. What the operations of Machine/Net.lean keep (Laws/Keeps.lean says what that is). -/

namespace Sys2Proof.Machine
open Sys2Proof

theorem modNet_keeps {s0 : State} (f : Net → Net) {s : State} (h : Keeps s0 s) :
    Keeps s0 (State.modNet s f) := by
  unfold State.modNet
  simp (maxDischargeDepth := 99) (etaStruct := .none) only [h, Keeps.mk_same]

theorem netEvent_keeps {s0 : State} (bit : Nat) {s : State} (h : Keeps s0 s) :
    Keeps s0 (netEvent bit s) := by
  unfold netEvent
  simp (maxDischargeDepth := 99) (etaStruct := .none) only [h, sqSet_keeps]

theorem streamEvent_keeps {s0 : State} (bit : Nat) (tx : Bool) (k : Nat) {s : State} (h : Keeps s0 s) :
    Keeps s0 (streamEvent bit tx k s) := by
  unfold streamEvent
  simp (maxDischargeDepth := 99) (etaStruct := .none) only [h, sqSet_keeps, wrn_keeps]

theorem egress_keeps {s0 : State} (b : Bool) (f : NetFrame) {s : State} (h : Keeps s0 s) :
    Keeps s0 (egress b f s) := by
  unfold egress
  simp (maxDischargeDepth := 99) (etaStruct := .none) only [h, inc_keeps, modNet_keeps, Keeps.ite]

theorem egressLeave_keeps {s0 : State}  {s : State} (h : Keeps s0 s) :
    Keeps s0 (egressLeave s) := by
  unfold egressLeave
  repeat' (first | intro _ | (simp (maxDischargeDepth := 99) (etaStruct := .none) only [*, leaving_keeps, modNet_keeps, Keeps.ite, Keeps.mk_same]; done) | with_reducible assumption | with_reducible rfl | with_reducible apply Keeps.ite | with_reducible apply leaving_keeps | with_reducible apply modNet_keeps | with_reducible apply Keeps.foldl | split | dsimp only)

theorem ownEgress_keeps {s0 : State} (b : Bool) (f : NetFrame) {s : State} (h : Keeps s0 s) :
    Keeps s0 (ownEgress b f s) := by
  unfold ownEgress
  repeat' (first | intro _ | (simp (maxDischargeDepth := 99) (etaStruct := .none) only [*, egress_keeps, viaFifo_keeps, Keeps.ite, Keeps.mk_same]; done) | with_reducible assumption | with_reducible rfl | with_reducible apply Keeps.ite | with_reducible apply egress_keeps | with_reducible apply viaFifo_keeps | with_reducible apply Keeps.foldl | split | dsimp only)

theorem originate_keeps {s0 : State} (f : NetFrame) {s : State} (h : Keeps s0 s) :
    Keeps s0 (originate f s) := by
  unfold originate
  repeat' (first | intro _ | (simp (maxDischargeDepth := 99) (etaStruct := .none) only [*, modNet_keeps, ownEgress_keeps, Keeps.ite, Keeps.mk_same]; done) | with_reducible assumption | with_reducible rfl | with_reducible apply Keeps.ite | with_reducible apply modNet_keeps | with_reducible apply ownEgress_keeps | with_reducible apply Keeps.foldl | split | dsimp only)

theorem sendIp_keeps {s0 : State} (dst : Word) (dscp : Nat) (ttl : Option Nat) (len : Nat) (body : NetBody) {s : State} (h : Keeps s0 s) :
    Keeps s0 (sendIp dst dscp ttl len body s) := by
  unfold sendIp
  repeat' (first | intro _ | (simp (maxDischargeDepth := 99) (etaStruct := .none) only [*, originate_keeps, Keeps.ite, Keeps.mk_same]; done) | with_reducible assumption | with_reducible rfl | with_reducible apply Keeps.ite | with_reducible apply originate_keeps | with_reducible apply Keeps.foldl | split | dsimp only)

theorem linkSet_keeps {s0 : State} (b : Bool) (up : Bool) {s : State} (h : Keeps s0 s) :
    Keeps s0 (linkSet b up s) := by
  unfold linkSet
  repeat' (first | intro _ | (simp (maxDischargeDepth := 99) (etaStruct := .none) only [*, linkOf_keeps, modNet_keeps, netDrop_keeps, noticePost_keeps, wr_keeps, Keeps.ite, Keeps.mk_same]; done) | with_reducible assumption | with_reducible rfl | with_reducible apply Keeps.ite | with_reducible apply linkOf_keeps | with_reducible apply modNet_keeps | with_reducible apply netDrop_keeps | with_reducible apply noticePost_keeps | with_reducible apply wr_keeps | with_reducible apply Keeps.foldl | split | dsimp only)

theorem linkChange_keeps {s0 : State} (b : Bool) (up : Bool) {s : State} (h : Keeps s0 s) :
    Keeps s0 (linkChange b up s) := by
  unfold linkChange
  repeat' (first | intro _ | (simp (maxDischargeDepth := 99) (etaStruct := .none) only [*, linkSet_keeps, Keeps.ite, Keeps.mk_same]; done) | with_reducible assumption | with_reducible rfl | with_reducible apply Keeps.ite | with_reducible apply linkSet_keeps | with_reducible apply Keeps.foldl | split | dsimp only)

theorem portsCheck_keeps {s0 : State}  {s : State} (h : Keeps s0 s) :
    Keeps s0 (portsCheck s) := by
  unfold portsCheck
  repeat' (first | intro _ | (simp (maxDischargeDepth := 99) (etaStruct := .none) only [*, linkSet_keeps, portOn_keeps, Keeps.ite, Keeps.mk_same]; done) | with_reducible assumption | with_reducible rfl | with_reducible apply Keeps.ite | with_reducible apply linkSet_keeps | with_reducible apply portOn_keeps | with_reducible apply Keeps.foldl | split | dsimp only)

theorem rxStore_keeps {s0 : State} (r : Nat) (start : Nat) (pl : List Byte) {s : State} (h : Keeps s0 s) :
    Keeps s0 (rxStore r start pl s) := by
  unfold rxStore
  repeat' (first | intro _ | (simp (maxDischargeDepth := 99) (etaStruct := .none) only [*, mwr_keeps]; done) | with_reducible assumption | with_reducible rfl | with_reducible apply Keeps.ite | with_reducible apply mwr_keeps | with_reducible apply Keeps.foldl | split | dsimp only)

theorem rxTake_keeps {s0 : State} (r : Nat) (ts : Word) (pl : List Byte) (portB : Bool) (dt : Nat) {s : State} (h : Keeps s0 s) :
    Keeps s0 (rxTake r ts pl portB dt s) := by
  unfold rxTake
  simp only [apply_ite Prod.fst]
  repeat' (first | intro _ | (simp (maxDischargeDepth := 99) (etaStruct := .none) only [*, inc_keeps, rxStore_keeps, setRxs_keeps, Keeps.ite]; done) | with_reducible assumption | with_reducible rfl | with_reducible apply Keeps.ite | with_reducible apply inc_keeps | with_reducible apply rxStore_keeps | with_reducible apply setRxs_keeps | with_reducible apply Keeps.foldl | split | dsimp only)

theorem rxRealign_keeps {s0 : State} (r : Nat) (ts : Word) (pl : List Byte) (portB : Bool) (dt : Nat) {s : State} (h : Keeps s0 s) :
    Keeps s0 (rxRealign r ts pl portB dt s) := by
  unfold rxRealign
  simp (maxDischargeDepth := 99) (etaStruct := .none) only [h, rxTake_keeps, setRxs_keeps, streamEvent_keeps, Keeps.ite]

theorem rxPacket_keeps {s0 : State} (r : Nat) (ts : Word) (pl : List Byte) (portB : Bool) (dt : Nat) {s : State} (h : Keeps s0 s) :
    Keeps s0 (rxPacket r ts pl portB dt s) := by
  unfold rxPacket
  simp (maxDischargeDepth := 99) (etaStruct := .none) only [h, inc_keeps, rxRealign_keeps, rxTake_keeps, wrn_keeps, Keeps.ite]

theorem rxPlays_keeps {s0 : State} (r : Nat) (p : RxPkt) {s : State} (h : Keeps s0 s) :
    Keeps s0 (rxPlays r p s) := by
  unfold rxPlays
  simp (maxDischargeDepth := 99) (etaStruct := .none) only [h, inc_keeps, setRxs_keeps, streamEvent_keeps, Keeps.ite]

theorem rxFrame_keeps {s0 : State} (r : Nat) {s : State} (h : Keeps s0 s) :
    Keeps s0 (rxFrame r s) := by
  unfold rxFrame
  repeat' (first | intro _ | (simp (maxDischargeDepth := 99) (etaStruct := .none) only [*, rxPlays_keeps, setLane_keeps, setRxs_keeps, Keeps.ite]; done) | with_reducible assumption | with_reducible rfl | with_reducible apply Keeps.ite | with_reducible apply rxPlays_keeps | with_reducible apply setLane_keeps | with_reducible apply setRxs_keeps | with_reducible apply Keeps.foldl | split | dsimp only)

theorem missingPacket_keeps {s0 : State} (r : Nat) {s : State} (h : Keeps s0 s) :
    Keeps s0 (missingPacket r s) := by
  unfold missingPacket
  simp (maxDischargeDepth := 99) (etaStruct := .none) only [h, inc_keeps, setRxs_keeps, streamEvent_keeps, Keeps.ite]

theorem offsetReturn_keeps {s0 : State} (r : Nat) {s : State} (h : Keeps s0 s) :
    Keeps s0 (offsetReturn r s) := by
  unfold offsetReturn
  simp (maxDischargeDepth := 99) (etaStruct := .none) only [h, setRxs_keeps, streamEvent_keeps, Keeps.ite]

theorem rxCounterStep_keeps {s0 : State} (n : BitVec 64) {s : State} (h : Keeps s0 s) :
    Keeps s0 (rxCounterStep n s) := by
  unfold rxCounterStep
  repeat' (first | intro _ | (simp (maxDischargeDepth := 99) (etaStruct := .none) only [*, setRxs_keeps, Keeps.ite]; done) | with_reducible assumption | with_reducible rfl | with_reducible apply Keeps.ite | with_reducible apply setRxs_keeps | with_reducible apply Keeps.foldl | split | dsimp only)

theorem setTxs_keeps {s0 : State} (t : Nat) (x : TxStream) {s : State} (h : Keeps s0 s) :
    Keeps s0 (State.setTxs s t x) := by
  unfold State.setTxs
  simp (maxDischargeDepth := 99) (etaStruct := .none) only [h, modNet_keeps]

theorem txFrame_keeps {s0 : State} (t : Nat) {s : State} (h : Keeps s0 s) :
    Keeps s0 (txFrame t s) := by
  unfold txFrame
  simp (maxDischargeDepth := 99) (etaStruct := .none) only [h, setTxs_keeps, Keeps.ite]

theorem transmitPacket_keeps {s0 : State} (t : Nat) {s : State} (h : Keeps s0 s) :
    Keeps s0 (transmitPacket t s) := by
  unfold transmitPacket
  repeat' (first | intro _ | (simp (maxDischargeDepth := 99) (etaStruct := .none) only [*, inc_keeps, sendIp_keeps, setTxs_keeps, streamEvent_keeps, Keeps.ite, Keeps.mk_same]; done) | with_reducible assumption | with_reducible rfl | with_reducible apply Keeps.ite | with_reducible apply inc_keeps | with_reducible apply sendIp_keeps | with_reducible apply setTxs_keeps | with_reducible apply streamEvent_keeps | with_reducible apply Keeps.foldl | with_reducible refine Keeps.foldl_of (p := Prod.snd) ?_ ?_ | with_reducible refine Keeps.foldl_of (p := Prod.fst) ?_ ?_ | split | dsimp only)

theorem igmpSend_keeps {s0 : State} (group : Word) (source : Option Word) (join : Bool) {s : State} (h : Keeps s0 s) :
    Keeps s0 (igmpSend group source join s) := by
  unfold igmpSend
  repeat' (first | intro _ | (simp (maxDischargeDepth := 99) (etaStruct := .none) only [*, igmpReport_keeps, originate_keeps, Keeps.ite, Keeps.mk_same]; done) | with_reducible assumption | with_reducible rfl | with_reducible apply Keeps.ite | with_reducible apply igmpReport_keeps | with_reducible apply originate_keeps | with_reducible apply Keeps.foldl | split | dsimp only)

theorem rxStart_keeps {s0 : State} (r : Nat) {s : State} (h : Keeps s0 s) :
    Keeps s0 (rxStart r s) := by
  unfold rxStart
  repeat' (first | intro _ | (simp (maxDischargeDepth := 99) (etaStruct := .none) only [*, igmpSend_keeps, modNet_keeps, setRxs_keeps, wr_keeps, Keeps.ite, Keeps.mk_same]; done) | with_reducible assumption | with_reducible rfl | with_reducible apply Keeps.ite | with_reducible apply igmpSend_keeps | with_reducible apply modNet_keeps | with_reducible apply setRxs_keeps | with_reducible apply wr_keeps | with_reducible apply Keeps.foldl | with_reducible refine Keeps.foldl_of (p := Prod.snd) ?_ ?_ | with_reducible refine Keeps.foldl_of (p := Prod.fst) ?_ ?_ | split | dsimp only)

theorem streamBit_keeps {s0 : State} (a : Nat) (k : Nat) {s : State} (h : Keeps s0 s) :
    Keeps s0 (streamBit a k s) := by
  unfold streamBit
  repeat' (first | (simp (maxDischargeDepth := 99) (etaStruct := .none) only [h, wrb_keeps, Keeps.wbSet, Keeps.ite]; done) | split)

theorem streamTurn_keeps {s0 : State} (tx : Bool) (k : Nat) {s : State} (h : Keeps s0 s) :
    Keeps s0 (streamTurn tx k s) := by
  unfold streamTurn
  repeat' (first | intro _ | (simp (maxDischargeDepth := 99) (etaStruct := .none) only [*, clearBoth_keeps, igmpSend_keeps, modNet_keeps, rxStart_keeps, setRxs_keeps, setTxs_keeps, streamBit_keeps, streamEvent_keeps, Keeps.ite, Keeps.mk_same]; done) | with_reducible assumption | with_reducible rfl | with_reducible apply Keeps.ite | with_reducible apply clearBoth_keeps | with_reducible apply igmpSend_keeps | with_reducible apply modNet_keeps | with_reducible apply rxStart_keeps | with_reducible apply setRxs_keeps | with_reducible apply setTxs_keeps | with_reducible apply streamBit_keeps | with_reducible apply streamEvent_keeps | with_reducible apply Keeps.foldl | split | dsimp only)

theorem streamEnable_keeps {s0 : State} (tx : Bool) (k : Nat) {s : State} (h : Keeps s0 s) :
    Keeps s0 (streamEnable tx k s) := by
  unfold streamEnable
  repeat' (first | intro _ | (simp (maxDischargeDepth := 99) (etaStruct := .none) only [*, streamTurn_keeps, Keeps.ite, Keeps.mk_same]; done) | with_reducible assumption | with_reducible rfl | with_reducible apply Keeps.ite | with_reducible apply streamTurn_keeps | with_reducible apply Keeps.foldl | split | dsimp only)

theorem igmpReport_keeps {s0 : State} (r : Nat) {s : State} (h : Keeps s0 s) :
    Keeps s0 (igmpReport r s) := by
  unfold igmpReport
  repeat' (first | intro _ | (simp (maxDischargeDepth := 99) (etaStruct := .none) only [*, igmpSend_keeps, modNet_keeps, Keeps.ite, Keeps.mk_same]; done) | with_reducible assumption | with_reducible rfl | with_reducible apply Keeps.ite | with_reducible apply igmpSend_keeps | with_reducible apply modNet_keeps | with_reducible apply Keeps.foldl | split | dsimp only)

theorem streamsOff_keeps {s0 : State}  {s : State} (h : Keeps s0 s) :
    Keeps s0 (streamsOff s) := by
  unfold streamsOff
  repeat' (first | intro _ | (simp (maxDischargeDepth := 99) (etaStruct := .none) only [*, modNet_keeps, setLane_keeps]; done) | with_reducible assumption | with_reducible rfl | with_reducible apply Keeps.ite | with_reducible apply modNet_keeps | with_reducible apply setLane_keeps | with_reducible apply Keeps.foldl | split | dsimp only)

theorem streamsRestart_keeps {s0 : State}  {s : State} (h : Keeps s0 s) :
    Keeps s0 (streamsRestart s) := by
  unfold streamsRestart
  repeat' (first | intro _ | (simp (maxDischargeDepth := 99) (etaStruct := .none) only [*, rxStart_keeps, setTxs_keeps, Keeps.ite]; done) | with_reducible assumption | with_reducible rfl | with_reducible apply Keeps.ite | with_reducible apply rxStart_keeps | with_reducible apply setTxs_keeps | with_reducible apply Keeps.foldl | split | dsimp only)

theorem ddPut_keeps {s0 : State} (e : DdEntry) {s : State} (h : Keeps s0 s) :
    Keeps s0 (ddPut e s) := by
  unfold ddPut
  simp (maxDischargeDepth := 99) (etaStruct := .none) only [h, modNet_keeps, netEvent_keeps, Keeps.ite]

theorem gapCount_keeps {s0 : State} (b : Bool) (src : BitVec 48) (sq : BitVec 16) {s : State} (h : Keeps s0 s) :
    Keeps s0 (gapCount b src sq s) := by
  unfold gapCount
  repeat' (first | (simp (maxDischargeDepth := 99) (etaStruct := .none) only [h, modNet_keeps, netEvent_keeps, Keeps.ite]; done) | split)

theorem gapDrain_keeps {s0 : State} (b : Bool) {s : State} (h : Keeps s0 s) :
    Keeps s0 (gapDrain b s) := by
  unfold gapDrain
  simp (maxDischargeDepth := 99) (etaStruct := .none) only [h, modNet_keeps, wr_keeps]

theorem nodeSeen_keeps {s0 : State} (mac : BitVec 48) {s : State} (h : Keeps s0 s) :
    Keeps s0 (nodeSeen mac s) := by
  unfold nodeSeen
  simp (maxDischargeDepth := 99) (etaStruct := .none) only [h, modNet_keeps, netEvent_keeps, Keeps.ite]

theorem rilIngress_keeps {s0 : State} (tr : Transport) (ip : Word) (port : Nat) (pl : List Byte) {s : State} (h : Keeps s0 s) :
    Keeps s0 (rilIngress tr ip port pl s) := by
  unfold rilIngress
  simp (maxDischargeDepth := 99) (etaStruct := .none) only [h, incSat_keeps, sqSet_keeps, Keeps.mk_same, Keeps.ite]

theorem deliver_keeps {s0 : State} (b : Bool) (first : Bool) (f : NetFrame) (dt : Nat) {s : State} (h : Keeps s0 s) :
    Keeps s0 (deliver b first f dt s) := by
  unfold deliver
  repeat' (first | intro _ | (simp (maxDischargeDepth := 99) (etaStruct := .none) only [*, igmpReport_keeps, igmpSend_keeps, modNet_keeps, nodeSeen_keeps, originate_keeps, rilIngress_keeps, rxPacket_keeps, Keeps.ite, Keeps.mk_same]; done) | with_reducible assumption | with_reducible rfl | with_reducible apply Keeps.ite | with_reducible apply igmpReport_keeps | with_reducible apply igmpSend_keeps | with_reducible apply modNet_keeps | with_reducible apply nodeSeen_keeps | with_reducible apply originate_keeps | with_reducible apply rilIngress_keeps | with_reducible apply rxPacket_keeps | with_reducible apply Keeps.foldl | with_reducible refine Keeps.foldl_of (p := Prod.snd) ?_ ?_ | with_reducible refine Keeps.foldl_of (p := Prod.fst) ?_ ?_ | split | dsimp only)

theorem residence_keeps {s0 : State} (b : Bool) {s : State} (h : Keeps s0 s) :
    Keeps s0 (residence b s).2 := by
  unfold residence
  repeat' (first | intro _ | (simp (maxDischargeDepth := 99) (etaStruct := .none) only [*, draw_keeps, tsCorrRx_keeps, tsCorrTx_keeps, Keeps.ite, Keeps.mk_same, apply_ite Prod.snd]; done) | with_reducible assumption | with_reducible rfl | with_reducible apply Keeps.ite | with_reducible apply draw_keeps | with_reducible apply tsCorrRx_keeps | with_reducible apply tsCorrTx_keeps | with_reducible apply Keeps.foldl | split | dsimp only)

theorem tcForward_keeps {s0 : State} (b : Bool) (f : NetFrame) {s : State} (h : Keeps s0 s) :
    Keeps s0 (tcForward b f s).2 := by
  unfold tcForward
  repeat' (first | intro _ | (simp (maxDischargeDepth := 99) (etaStruct := .none) only [*, modNet_keeps, noticePost_keeps, residence_keeps, Keeps.ite, Keeps.mk_same, apply_ite Prod.snd]; done) | with_reducible assumption | with_reducible rfl | with_reducible apply Keeps.ite | with_reducible apply modNet_keeps | with_reducible apply noticePost_keeps | with_reducible apply residence_keeps | with_reducible apply Keeps.foldl | split | dsimp only)

theorem ringForward_keeps {s0 : State} (b : Bool) (f : NetFrame) {s : State} (h : Keeps s0 s) :
    Keeps s0 (ringForward b f s) := by
  unfold ringForward
  repeat' (first | intro _ | (simp (maxDischargeDepth := 99) (etaStruct := .none) only [*, egress_keeps, tcForward_keeps, Keeps.ite, Keeps.mk_same]; done) | with_reducible assumption | with_reducible rfl | with_reducible apply Keeps.ite | with_reducible apply egress_keeps | with_reducible apply tcForward_keeps | with_reducible apply Keeps.foldl | split | dsimp only)

theorem toInternal_keeps {s0 : State} (b : Bool) (first : Bool) (f : NetFrame) (dt : Nat) {s : State} (h : Keeps s0 s) :
    Keeps s0 (toInternal b first f dt s) := by
  unfold toInternal
  repeat' (first | intro _ | (simp (maxDischargeDepth := 99) (etaStruct := .none) only [*, deliver_keeps, viaFifo_keeps, Keeps.ite, Keeps.mk_same]; done) | with_reducible assumption | with_reducible rfl | with_reducible apply Keeps.ite | with_reducible apply deliver_keeps | with_reducible apply viaFifo_keeps | with_reducible apply Keeps.foldl | split | dsimp only)

theorem ringFrame_keeps {s0 : State} (b : Bool) (f : NetFrame) (dt : Nat) {s : State} (h : Keeps s0 s) :
    Keeps s0 (ringFrame b f dt s) := by
  unfold ringFrame
  repeat' (first | intro _ | (simp (maxDischargeDepth := 99) (etaStruct := .none) only [*, ddPut_keeps, gapCount_keeps, ringForward_keeps, toInternal_keeps, Keeps.ite, Keeps.mk_same]; done) | with_reducible assumption | with_reducible rfl | with_reducible apply Keeps.ite | with_reducible apply ddPut_keeps | with_reducible apply gapCount_keeps | with_reducible apply ringForward_keeps | with_reducible apply toInternal_keeps | with_reducible apply Keeps.foldl | split | dsimp only)

theorem lineFrame_keeps {s0 : State} (b : Bool) (f : NetFrame) (dt : Nat) {s : State} (h : Keeps s0 s) :
    Keeps s0 (lineFrame b f dt s) := by
  unfold lineFrame
  repeat' (first | intro _ | (simp (maxDischargeDepth := 99) (etaStruct := .none) only [*, egress_keeps, modNet_keeps, toInternal_keeps, Keeps.ite, Keeps.mk_same]; done) | with_reducible assumption | with_reducible rfl | with_reducible apply Keeps.ite | with_reducible apply egress_keeps | with_reducible apply modNet_keeps | with_reducible apply toInternal_keeps | with_reducible apply Keeps.foldl | split | dsimp only)

theorem frameReceived_keeps {s0 : State} (b : Bool) (f : NetFrame) (dt : Nat) {s : State} (h : Keeps s0 s) :
    Keeps s0 (frameReceived b f dt s) := by
  unfold frameReceived
  repeat' (first | intro _ | (simp (maxDischargeDepth := 99) (etaStruct := .none) only [*, inc_keeps, lineFrame_keeps, noticePost_keeps, ringFrame_keeps, toInternal_keeps, Keeps.ite, Keeps.mk_same]; done) | with_reducible assumption | with_reducible rfl | with_reducible apply Keeps.ite | with_reducible apply inc_keeps | with_reducible apply lineFrame_keeps | with_reducible apply noticePost_keeps | with_reducible apply ringFrame_keeps | with_reducible apply toInternal_keeps | with_reducible apply Keeps.foldl | split | dsimp only)

theorem supervisionFrame_keeps {s0 : State}  {s : State} (h : Keeps s0 s) :
    Keeps s0 (supervisionFrame s) := by
  unfold supervisionFrame
  simp (maxDischargeDepth := 99) (etaStruct := .none) only [h, originate_keeps, Keeps.ite]

theorem nodeForget_keeps {s0 : State} (mac : BitVec 48) {s : State} (h : Keeps s0 s) :
    Keeps s0 (nodeForget mac s) := by
  unfold nodeForget
  repeat' (first | intro _ | (simp (maxDischargeDepth := 99) (etaStruct := .none) only [*, modNet_keeps, Keeps.ite, Keeps.mk_same]; done) | with_reducible assumption | with_reducible rfl | with_reducible apply Keeps.ite | with_reducible apply modNet_keeps | with_reducible apply Keeps.foldl | split | dsimp only)

theorem ptpRun_keeps {s0 : State} (cycles : Nat) {s : State} (h : Keeps s0 s) :
    Keeps s0 (ptpRun cycles s) := by
  unfold ptpRun
  repeat' (first | intro _ | (simp (maxDischargeDepth := 99) (etaStruct := .none) only [*, modNet_keeps, ptpCycle_keeps, ptpSet_keeps, ptpUnits_keeps, Keeps.ite, Keeps.mk_same]; done) | with_reducible assumption | with_reducible rfl | with_reducible apply Keeps.ite | with_reducible apply modNet_keeps | with_reducible apply ptpCycle_keeps | with_reducible apply ptpSet_keeps | with_reducible apply ptpUnits_keeps | with_reducible apply Keeps.foldl | split | dsimp only)

theorem hingeTick_keeps {s0 : State} (lead : Int) {s : State} (h : Keeps s0 s) :
    Keeps s0 (hingeTick lead s) := by
  unfold hingeTick
  repeat' (first | intro _ | (simp (maxDischargeDepth := 99) (etaStruct := .none) only [*, noticePost_keeps, ptpRun_keeps, Keeps.ite, Keeps.mk_same]; done) | with_reducible assumption | with_reducible rfl | with_reducible apply Keeps.ite | with_reducible apply noticePost_keeps | with_reducible apply ptpRun_keeps | with_reducible apply Keeps.foldl | split | dsimp only)

theorem ptpRoles_keeps {s0 : State} (synced : Bool) (gm : Bool) {s : State} (h : Keeps s0 s) :
    Keeps s0 (ptpRoles synced gm s) := by
  unfold ptpRoles
  simp (maxDischargeDepth := 99) (etaStruct := .none) only [h, netEvent_keeps, wrb_keeps, Keeps.ite]

theorem ptpStep_keeps {s0 : State}  {s : State} (h : Keeps s0 s) :
    Keeps s0 (ptpStep s) := by
  unfold ptpStep
  simp (maxDischargeDepth := 99) (etaStruct := .none) only [h, modNet_keeps, netEvent_keeps, ptpRoles_keeps]

theorem ptpSnap_keeps {s0 : State} (dt : Nat) {s : State} (h : Keeps s0 s) :
    Keeps s0 (ptpSnap dt s) := by
  unfold ptpSnap
  simp (maxDischargeDepth := 99) (etaStruct := .none) only [h, ptpRun_keeps, wrn_keeps]

theorem syncTimeout_keeps {s0 : State}  {s : State} (h : Keeps s0 s) :
    Keeps s0 (syncTimeout s) := by
  unfold syncTimeout
  simp (maxDischargeDepth := 99) (etaStruct := .none) only [h, ptpRoles_keeps, Keeps.ite]

theorem ppsOut_keeps {s0 : State}  {s : State} (h : Keeps s0 s) :
    Keeps s0 (ppsOut s) := by
  unfold ppsOut
  repeat' (first | intro _ | (simp (maxDischargeDepth := 99) (etaStruct := .none) only [*, modNet_keeps, Keeps.ite, Keeps.mk_same]; done) | with_reducible assumption | with_reducible rfl | with_reducible apply Keeps.ite | with_reducible apply modNet_keeps | with_reducible apply Keeps.foldl | split | dsimp only)

theorem ppsOutEnd_keeps {s0 : State}  {s : State} (h : Keeps s0 s) :
    Keeps s0 (ppsOutEnd s) := by
  unfold ppsOutEnd
  repeat' (first | intro _ | (simp (maxDischargeDepth := 99) (etaStruct := .none) only [*, modNet_keeps, ppsOut_keeps, Keeps.ite, Keeps.mk_same]; done) | with_reducible assumption | with_reducible rfl | with_reducible apply Keeps.ite | with_reducible apply modNet_keeps | with_reducible apply ppsOut_keeps | with_reducible apply Keeps.foldl | split | dsimp only)

theorem ppsInEdge_keeps {s0 : State} (cycles : Nat) {s : State} (h : Keeps s0 s) :
    Keeps s0 (ppsInEdge cycles s) := by
  unfold ppsInEdge
  repeat' (first | intro _ | (simp (maxDischargeDepth := 99) (etaStruct := .none) only [*, netEvent_keeps, ptpRun_keeps, wrn_keeps, Keeps.ite, Keeps.mk_same]; done) | with_reducible assumption | with_reducible rfl | with_reducible apply Keeps.ite | with_reducible apply netEvent_keeps | with_reducible apply ptpRun_keeps | with_reducible apply wrn_keeps | with_reducible apply Keeps.foldl | split | dsimp only)

theorem ptpCtrlWrite_keeps {s0 : State} (dt : Nat) (v : Word) {s : State} (h : Keeps s0 s) :
    Keeps s0 (ptpCtrlWrite dt v s) := by
  unfold ptpCtrlWrite
  simp (maxDischargeDepth := 99) (etaStruct := .none) only [h, ptpRoles_keeps, ptpSnap_keeps, ptpStep_keeps, wr_keeps, Keeps.ite]

theorem phyInterrupt_keeps {s0 : State} (level : Bool) {s : State} (h : Keeps s0 s) :
    Keeps s0 (phyInterrupt level s) := by
  unfold phyInterrupt
  simp (maxDischargeDepth := 99) (etaStruct := .none) only [h, modNet_keeps]

theorem netAge_keeps {s0 : State}  {s : State} (h : Keeps s0 s) :
    Keeps s0 (netAge s) := by
  unfold netAge
  repeat' (first | intro _ | (simp (maxDischargeDepth := 99) (etaStruct := .none) only [*, modNet_keeps, Keeps.ite, Keeps.mk_same]; done) | with_reducible assumption | with_reducible rfl | with_reducible apply Keeps.ite | with_reducible apply modNet_keeps | with_reducible apply Keeps.foldl | split | dsimp only)

theorem rxStreamsFrame_keeps {s0 : State}  {s : State} (h : Keeps s0 s) :
    Keeps s0 (rxStreamsFrame s) := by
  unfold rxStreamsFrame
  repeat' (first | intro _ | (simp (maxDischargeDepth := 99) (etaStruct := .none) only [*, egressLeave_keeps, gapDrain_keeps, netAge_keeps, rxFrame_keeps, Keeps.ite, Keeps.mk_same]; done) | with_reducible assumption | with_reducible rfl | with_reducible apply Keeps.ite | with_reducible apply egressLeave_keeps | with_reducible apply gapDrain_keeps | with_reducible apply netAge_keeps | with_reducible apply rxFrame_keeps | with_reducible apply Keeps.foldl | with_reducible refine Keeps.foldl_of (p := Prod.snd) ?_ ?_ | with_reducible refine Keeps.foldl_of (p := Prod.fst) ?_ ?_ | split | dsimp only)

theorem txStreamsFrame_keeps {s0 : State}  {s : State} (h : Keeps s0 s) :
    Keeps s0 (txStreamsFrame s) := by
  unfold txStreamsFrame
  repeat' (first | intro _ | (simp (maxDischargeDepth := 99) (etaStruct := .none) only [*, txFrame_keeps]; done) | with_reducible assumption | with_reducible rfl | with_reducible apply Keeps.ite | with_reducible apply txFrame_keeps | with_reducible apply Keeps.foldl | split | dsimp only)

end Sys2Proof.Machine
end

