-- ==== Sys2Proof/Laws/KeepsRiller.lean ====
section
/-! SUPPORT. What the operations of Machine/Riller.lean keep (Laws/Keeps.lean says what that is). -/

namespace Sys2Proof.Machine
open Sys2Proof

theorem modRil_keeps {s0 : State} (f : Riller → Riller) {s : State} (h : Keeps s0 s) :
    Keeps s0 (State.modRil s f) := by
  unfold State.modRil
  simp (maxDischargeDepth := 99) (etaStruct := .none) only [h, Keeps.mk_same]

theorem setSess_keeps {s0 : State} (n : Nat) (x : Option Session) {s : State} (h : Keeps s0 s) :
    Keeps s0 (setSess n x s) := by
  unfold setSess
  simp (maxDischargeDepth := 99) (etaStruct := .none) only [h, modRil_keeps]

theorem rilEvent_keeps {s0 : State} (bit : Nat) {s : State} (h : Keeps s0 s) :
    Keeps s0 (rilEvent bit s) := by
  unfold rilEvent
  simp (maxDischargeDepth := 99) (etaStruct := .none) only [h, sqSet_keeps]

theorem rilDropped_keeps {s0 : State}  {s : State} (h : Keeps s0 s) :
    Keeps s0 (rilDropped s) := by
  unfold rilDropped
  simp (maxDischargeDepth := 99) (etaStruct := .none) only [h, incSat_keeps]

theorem rilMalformed_keeps {s0 : State}  {s : State} (h : Keeps s0 s) :
    Keeps s0 (rilMalformed s) := by
  unfold rilMalformed
  simp (maxDischargeDepth := 99) (etaStruct := .none) only [h, rilDropped_keeps, rilEvent_keeps]

theorem rilAuthFail_keeps {s0 : State} (t : Nat) {s : State} (h : Keeps s0 s) :
    Keeps s0 (rilAuthFail t s) := by
  unfold rilAuthFail
  simp (maxDischargeDepth := 99) (etaStruct := .none) only [h, rilEvent_keeps, tenantCount_keeps]

theorem rilEmit_keeps {s0 : State} (tr : Transport) (ip : Word) (port : Nat) (prio : Nat) (tenant : Nat) (msg : List Byte) {s : State} (h : Keeps s0 s) :
    Keeps s0 (rilEmit tr ip port prio tenant msg s) := by
  unfold rilEmit
  repeat' (first | (simp (maxDischargeDepth := 99) (etaStruct := .none) only [h, modRil_keeps, sendIp_keeps, setCan_keeps]; done) | split)

theorem sessDrop_keeps {s0 : State} (n : Nat) {s : State} (h : Keeps s0 s) :
    Keeps s0 (sessDrop n s) := by
  unfold sessDrop
  repeat' (first | (simp (maxDischargeDepth := 99) (etaStruct := .none) only [h, modTenant_keeps, rilEvent_keeps, setSess_keeps]; done) | split)

theorem rilSend_keeps {s0 : State} (n : Nat) (kind : Nat) (prio : Nat) (body : List Byte) {s : State} (h : Keeps s0 s) :
    Keeps s0 (rilSend n kind prio body s) := by
  unfold rilSend
  repeat' (first | (simp (maxDischargeDepth := 99) (etaStruct := .none) only [h, rilEmit_keeps, sessDrop_keeps, setSess_keeps, Keeps.ite]; done) | split)

theorem sessClose_keeps {s0 : State} (n : Nat) (reason : Nat) {s : State} (h : Keeps s0 s) :
    Keeps s0 (sessClose n reason s) := by
  unfold sessClose
  simp (maxDischargeDepth := 99) (etaStruct := .none) only [h, rilSend_keeps, sessDrop_keeps, Keeps.ite]

theorem transportReset_keeps {s0 : State} (tr : Transport) {s : State} (h : Keeps s0 s) :
    Keeps s0 (transportReset tr s) := by
  unfold transportReset
  repeat' (first | intro _ | (simp (maxDischargeDepth := 99) (etaStruct := .none) only [*, sessDrop_keeps]; done) | with_reducible assumption | with_reducible rfl | with_reducible apply Keeps.ite | with_reducible apply sessDrop_keeps | with_reducible apply Keeps.foldl | split | dsimp only)

theorem takeIngress_keeps {s0 : State} (tr : Transport) (ip : Word) (port : Nat) (m : List Byte) {s : State} (h : Keeps s0 s) :
    Keeps s0 (takeIngress tr ip port m s) := by
  unfold takeIngress
  simp (maxDischargeDepth := 99) (etaStruct := .none) only [h, modRil_keeps]

theorem rilAuthenticate_keeps {s0 : State} (tr : Transport) (ip : Word) (port : Nat) (kind : Nat) (m : List Byte) {s : State} (h : Keeps s0 s) :
    Keeps s0 (rilAuthenticate tr ip port kind m s).1 := by
  unfold rilAuthenticate
  simp only [apply_ite Prod.fst]
  repeat' (first | intro _ | (simp (maxDischargeDepth := 99) (etaStruct := .none) only [*, incSat_keeps, modRil_keeps, rilAuthFail_keeps, rilEvent_keeps, rilMalformed_keeps, setSess_keeps, takeIngress_keeps]; done) | with_reducible assumption | with_reducible rfl | with_reducible apply Keeps.ite | with_reducible apply incSat_keeps | with_reducible apply modRil_keeps | with_reducible apply rilAuthFail_keeps | with_reducible apply rilEvent_keeps | with_reducible apply rilMalformed_keeps | with_reducible apply setSess_keeps | with_reducible apply takeIngress_keeps | with_reducible apply Keeps.foldl | split | dsimp only)

theorem makeRoom_keeps {s0 : State} (t : Nat) {s : State} (h : Keeps s0 s) :
    Keeps s0 (makeRoom t s) := by
  unfold makeRoom
  simp only [apply_ite Prod.fst]
  repeat' (first | intro _ | (simp (maxDischargeDepth := 99) (etaStruct := .none) only [*, sessClose_keeps]; done) | with_reducible assumption | with_reducible rfl | with_reducible apply Keeps.ite | with_reducible apply sessClose_keeps | with_reducible apply Keeps.foldl | split | dsimp only)

theorem openMessage_keeps {s0 : State} (tr : Transport) (ip : Word) (port : Nat) (m : List Byte) (sid : Word) {s : State} (h : Keeps s0 s) :
    Keeps s0 (openMessage tr ip port m sid s) := by
  unfold openMessage
  simp only [apply_ite Prod.fst]
  repeat' (first | intro _ | (simp (maxDischargeDepth := 99) (etaStruct := .none) only [*, makeRoom_keeps, modRil_keeps, rilAuthFail_keeps, rilDropped_keeps, rilEmit_keeps, rilEvent_keeps, rilIngress_keeps, rilMalformed_keeps, setSess_keeps, takeIngress_keeps, Keeps.ite]; done) | with_reducible assumption | with_reducible rfl | with_reducible apply Keeps.ite | with_reducible apply makeRoom_keeps | with_reducible apply modRil_keeps | with_reducible apply rilAuthFail_keeps | with_reducible apply rilDropped_keeps | with_reducible apply rilEmit_keeps | with_reducible apply rilEvent_keeps | with_reducible apply rilIngress_keeps | with_reducible apply rilMalformed_keeps | with_reducible apply setSess_keeps | with_reducible apply takeIngress_keeps | with_reducible apply Keeps.foldl | split | dsimp only)

theorem closeMessage_keeps {s0 : State} (tr : Transport) (ip : Word) (port : Nat) (m : List Byte) {s : State} (h : Keeps s0 s) :
    Keeps s0 (closeMessage tr ip port m s) := by
  unfold closeMessage
  simp only [apply_ite Prod.fst]
  repeat' (first | intro _ | (simp (maxDischargeDepth := 99) (etaStruct := .none) only [*, rilAuthenticate_keeps, sessDrop_keeps]; done) | with_reducible assumption | with_reducible rfl | with_reducible apply Keeps.ite | with_reducible apply rilAuthenticate_keeps | with_reducible apply sessDrop_keeps | with_reducible apply Keeps.foldl | split | dsimp only)

theorem sessionIdle_keeps {s0 : State} (n : Nat) {s : State} (h : Keeps s0 s) :
    Keeps s0 (sessionIdle n s) := by
  unfold sessionIdle
  repeat' (first | intro _ | (simp (maxDischargeDepth := 99) (etaStruct := .none) only [*, sessClose_keeps, Keeps.ite, Keeps.mk_same]; done) | with_reducible assumption | with_reducible rfl | with_reducible apply Keeps.ite | with_reducible apply sessClose_keeps | with_reducible apply Keeps.foldl | split | dsimp only)

theorem sessCloseWrite_keeps {s0 : State} (v : Word) {s : State} (h : Keeps s0 s) :
    Keeps s0 (sessCloseWrite v s) := by
  unfold sessCloseWrite
  repeat' (first | intro _ | (simp (maxDischargeDepth := 99) (etaStruct := .none) only [*, sessClose_keeps]; done) | with_reducible assumption | with_reducible rfl | with_reducible apply Keeps.ite | with_reducible apply sessClose_keeps | with_reducible apply Keeps.foldl | split | dsimp only)

theorem directResp_keeps {s0 : State} (n : Nat) (tag : Nat) (status : Nat) (op : Nat) (detail : Nat) {s : State} (h : Keeps s0 s) :
    Keeps s0 (directResp n tag status op detail s) := by
  unfold directResp
  repeat' (first | (simp (maxDischargeDepth := 99) (etaStruct := .none) only [h, setSess_keeps]; done) | split)

theorem placeRecord_keeps {s0 : State} (n : Nat) (tag : Nat) (op : Nat) (qflags : Nat) (o : ReqOp) {s : State} (h : Keeps s0 s) :
    Keeps s0 (placeRecord n tag op qflags o s) := by
  unfold placeRecord
  simp only [apply_ite Prod.fst]
  repeat' (first | intro _ | (simp (maxDischargeDepth := 99) (etaStruct := .none) only [*, dictEvent_keeps, directResp_keeps, placeRequest_keeps, tenantCount_keeps]; done) | with_reducible assumption | with_reducible rfl | with_reducible apply Keeps.ite | with_reducible apply dictEvent_keeps | with_reducible apply directResp_keeps | with_reducible apply placeRequest_keeps | with_reducible apply tenantCount_keeps | with_reducible apply Keeps.foldl | split | dsimp only)

theorem placeRecords_keeps {s0 : State} (n fuel : Nat) (b : List Byte) {s : State} (h : Keeps s0 s) :
    Keeps s0 (placeRecords n fuel b s) := by
  induction fuel generalizing b s with
  | zero => exact h
  | succ fuel ih =>
    unfold placeRecords
    refine Keeps.ite h (Keeps.ite (directResp_keeps _ _ _ _ _ h) ?_)
    split
    · exact directResp_keeps _ _ _ _ _ h
    · exact ih _ (placeRecord_keeps _ _ _ _ _ h)

theorem requestMessage_keeps {s0 : State} (tr : Transport) (ip : Word) (port : Nat) (m : List Byte) {s : State} (h : Keeps s0 s) :
    Keeps s0 (requestMessage tr ip port m s) := by
  unfold requestMessage
  repeat' (first | intro _ | (simp (maxDischargeDepth := 99) (etaStruct := .none) only [*, placeRecords_keeps, rilAuthenticate_keeps]; done) | with_reducible assumption | with_reducible rfl | with_reducible apply Keeps.ite | with_reducible apply placeRecords_keeps | with_reducible apply rilAuthenticate_keeps | with_reducible apply Keeps.foldl | split | dsimp only)

theorem responseMessage_keeps {s0 : State} (n : Nat) {s : State} (h : Keeps s0 s) :
    Keeps s0 (responseMessage n s) := by
  unfold responseMessage
  repeat' (first | (simp (maxDischargeDepth := 99) (etaStruct := .none) only [h, modTenant_keeps, rilSend_keeps, ringStep_keeps, setSess_keeps, Keeps.ite]; done) | split)

theorem eventMessage_keeps {s0 : State} (t : Nat) (tap : Bool) {s : State} (h : Keeps s0 s) :
    Keeps s0 (eventMessage t tap s) := by
  unfold eventMessage
  simp only [apply_ite Prod.fst]
  repeat' (first | intro _ | (simp (maxDischargeDepth := 99) (etaStruct := .none) only [*, modTenant_keeps, rilSend_keeps, ringStep_keeps, Keeps.ite]; done) | with_reducible assumption | with_reducible rfl | with_reducible apply Keeps.ite | with_reducible apply modTenant_keeps | with_reducible apply rilSend_keeps | with_reducible apply ringStep_keeps | with_reducible apply Keeps.foldl | split | dsimp only)

theorem reasmDrop_keeps {s0 : State} (k : Nat) (ident : Nat) {s : State} (h : Keeps s0 s) :
    Keeps s0 (reasmDrop k ident s) := by
  unfold reasmDrop
  simp (maxDischargeDepth := 99) (etaStruct := .none) only [h, modRil_keeps]

theorem reassembled_keeps {s0 : State} (k : Nat) (b : List Byte) {s : State} (h : Keeps s0 s) :
    Keeps s0 (reassembled k b s) := by
  unfold reassembled
  simp (maxDischargeDepth := 99) (etaStruct := .none) only [h, rilIngress_keeps]

theorem rilSegment_keeps {s0 : State} (k : Nat) (f : CanFrame) {s : State} (h : Keeps s0 s) :
    Keeps s0 (rilSegment k f s) := by
  unfold rilSegment
  repeat' (first | intro _ | (simp (maxDischargeDepth := 99) (etaStruct := .none) only [*, modRil_keeps, reasmDrop_keeps, reassembled_keeps, rilMalformed_keeps, Keeps.ite]; done) | with_reducible assumption | with_reducible rfl | with_reducible apply Keeps.ite | with_reducible apply modRil_keeps | with_reducible apply reasmDrop_keeps | with_reducible apply reassembled_keeps | with_reducible apply rilMalformed_keeps | with_reducible apply Keeps.foldl | split | dsimp only)

theorem canReceived_keeps {s0 : State} (k : Nat) (f : CanFrame) (bad : Bool) {s : State} (h : Keeps s0 s) :
    Keeps s0 (canReceived k f bad s) := by
  unfold canReceived
  repeat' (first | intro _ | (simp (maxDischargeDepth := 99) (etaStruct := .none) only [*, canFifo_keeps, canRxError_keeps, canRxWell_keeps, rilSegment_keeps, Keeps.ite, Keeps.mk_same]; done) | with_reducible assumption | with_reducible rfl | with_reducible apply Keeps.ite | with_reducible apply canFifo_keeps | with_reducible apply canRxError_keeps | with_reducible apply canRxWell_keeps | with_reducible apply rilSegment_keeps | with_reducible apply Keeps.foldl | split | dsimp only)

theorem reassemblyTimeout_keeps {s0 : State} (k : Nat) (ident : Nat) {s : State} (h : Keeps s0 s) :
    Keeps s0 (reassemblyTimeout k ident s) := by
  unfold reassemblyTimeout
  repeat' (first | intro _ | (simp (maxDischargeDepth := 99) (etaStruct := .none) only [*, reasmDrop_keeps, Keeps.ite, Keeps.mk_same]; done) | with_reducible assumption | with_reducible rfl | with_reducible apply Keeps.ite | with_reducible apply reasmDrop_keeps | with_reducible apply Keeps.foldl | split | dsimp only)

theorem createTenant_keeps {s0 : State} (t : Nat) (blob : List Byte) (sess : Nat) {s : State} (h : Keeps s0 s) (u : State)
    (hu : createTenant t blob sess s = some u) : Keeps s0 u := by
  unfold createTenant at hu
  split at hu
  · cases hu
  · dsimp only at hu
    split at hu
    · cases hu
    · split at hu
      · cases hu
      · cases hu
        exact modTenant_keeps _ _ (modWard_keeps _ h fun _ => rfl)

theorem tenantCreation_keeps {s0 : State} (t : Nat) (blob : List Byte) (sess : Nat) {s : State} (h : Keeps s0 s) :
    Keeps s0 (tenantCreation t blob sess s) := by
  unfold tenantCreation
  cases hc : createTenant t blob sess s with
  | none => exact h
  | some u => exact createTenant_keeps t blob sess h u hc

theorem resetEnd_keeps {s0 : State} (t : Nat) {s : State} (h : Keeps s0 s) :
    Keeps s0 (resetEnd t s) := by
  unfold resetEnd
  repeat' (first | intro _ | (simp (maxDischargeDepth := 99) (etaStruct := .none) only [*, modDict_keeps, sessClose_keeps, setTenant_keeps]; done) | with_reducible assumption | with_reducible rfl | with_reducible apply Keeps.ite | with_reducible apply dictEvent_keeps | with_reducible apply modDict_keeps | with_reducible apply modWard_keeps | with_reducible apply sessClose_keeps | with_reducible apply setTenant_keeps | with_reducible apply tenantCount_keeps | with_reducible apply tenantRecord_keeps | with_reducible apply Keeps.foldl | split | dsimp only)

theorem tenantsH2_keeps {s0 : State}  {s : State} (h : Keeps s0 s) :
    Keeps s0 (tenantsH2 s) := by
  unfold tenantsH2
  repeat' (first | intro _ | (simp (maxDischargeDepth := 99) (etaStruct := .none) only [*, resetEnd_keeps, Keeps.ite]; done) | with_reducible assumption | with_reducible rfl | with_reducible apply Keeps.ite | with_reducible apply resetEnd_keeps | with_reducible apply Keeps.foldl | split | dsimp only)

theorem hingeCompletion_keeps {s0 : State} (t : Nat) (q : Req) {s : State} (h : Keeps s0 s) :
    Keeps s0 (hingeCompletion t q s) := by
  unfold hingeCompletion
  repeat' (first | (simp (maxDischargeDepth := 99) (etaStruct := .none) only [h, finish_keeps, writeInForce_keeps, Keeps.ite]; done) | split)

theorem dictHinge_keeps {s0 : State}  {s : State} (h : Keeps s0 s) :
    Keeps s0 (dictHinge s) := by
  unfold dictHinge
  repeat' (first | intro _ | (simp (maxDischargeDepth := 99) (etaStruct := .none) only [*, hingeCompletion_keeps, modDict_keeps, modRil_keeps, Keeps.ite, Keeps.mk_same]; done) | with_reducible assumption | with_reducible rfl | with_reducible apply Keeps.ite | with_reducible apply hingeCompletion_keeps | with_reducible apply modDict_keeps | with_reducible apply modRil_keeps | with_reducible apply Keeps.foldl | with_reducible refine Keeps.foldl_of (p := Prod.snd) ?_ ?_ | with_reducible refine Keeps.foldl_of (p := Prod.fst) ?_ ?_ | split | dsimp only)

theorem dictBlockReset_keeps {s0 : State}  {s : State} (h : Keeps s0 s) :
    Keeps s0 (dictBlockReset s) := by
  unfold dictBlockReset
  repeat' (first | intro _ | (simp (maxDischargeDepth := 99) (etaStruct := .none) only [*, cancelGroup_keeps]; done) | with_reducible assumption | with_reducible rfl | with_reducible apply Keeps.ite | with_reducible apply cancelGroup_keeps | with_reducible apply modDict_keeps | with_reducible apply modRil_keeps | with_reducible apply Keeps.foldl | split | dsimp only)

end Sys2Proof.Machine
end

