-- ==== Sys2Proof/Laws/KeepsReset.lean ====
section
/-! SUPPORT. What the operations of Machine/Reset.lean keep (Laws/Keeps.lean says what that is). -/

namespace Sys2Proof.Machine
open Sys2Proof

theorem modPower_keeps {s0 : State} (f : Power → Power) {s : State} (h : Keeps s0 s) :
    Keeps s0 (State.modPower s f) := by
  unfold State.modPower
  simp (maxDischargeDepth := 99) (etaStruct := .none) only [h, Keeps.mk_same]

theorem modBus_keeps {s0 : State} (f : BusState → BusState) {s : State} (h : Keeps s0 s) :
    Keeps s0 (State.modBus s f) := by
  unfold State.modBus
  simp (maxDischargeDepth := 99) (etaStruct := .none) only [h, Keeps.mk_same]

theorem scLand_keeps {s0 : State} (a : Nat) (v : Word) {s : State} (h : Keeps s0 s) :
    Keeps s0 (scLand a v s) := by
  unfold scLand
  repeat' (first | intro _ | (simp (maxDischargeDepth := 99) (etaStruct := .none) only [*, ctCfgWrite_keeps, faultCtrl_keeps, modPorts_keeps, wr_keeps, Keeps.ite]; done) | with_reducible assumption | with_reducible rfl | with_reducible apply Keeps.ite | with_reducible apply ctCfgWrite_keeps | with_reducible apply faultCtrl_keeps | with_reducible apply modPorts_keeps | with_reducible apply modWard_keeps | with_reducible apply wr_keeps | with_reducible apply Keeps.foldl | split | dsimp only)

theorem scLanded_keeps {s0 : State}  {s : State} (h : Keeps s0 s) :
    Keeps s0 (scLanded s) := by
  unfold scLanded
  repeat' (first | (simp (maxDischargeDepth := 99) (etaStruct := .none) only [h, modBus_keeps, scLand_keeps]; done) | split)

theorem keepCut_keeps {s0 : State} (completes : Bool) {s : State} (h : Keeps s0 s) :
    Keeps s0 (keepCut completes s) := by
  unfold keepCut
  repeat' (first | (simp (maxDischargeDepth := 99) (etaStruct := .none) only [h, drawBytes_keeps, mwrBytes_keeps, Keeps.ite]; done) | split)

theorem fresh_keeps {s0 : State} {s : State} (h : Keeps s0 s) : Keeps s0 (fresh s) :=
  ⟨fun c => ⟨rfl, (h.canon c).flash, rfl, rfl, rfl, rfl⟩, h.pend, h.fuses⟩

theorem resetDevice_keeps {s0 : State} (cause : Nat) (keepXtal : Bool) {s : State} (h : Keeps s0 s) :
    Keeps s0 (resetDevice cause keepXtal s) := by
  unfold resetDevice
  extract_lets s1 s2 f
  have h1 : Keeps s0 s1 := by
    unfold s1
    split
    · exact Keeps.ite (scLanded_keeps (draw_keeps h)) (draw_keeps h)
    · exact h
  have h2 : Keeps s0 s2 := keepCut_keeps _ h1
  have h3 : Keeps s0 f := fresh_keeps h2
  clear_value s2
  exact ⟨fun c => ⟨Memory.wf_filter _ _ (h2.canon c).mem, (h3.canon c).flash, twf_filter _ _ _ (h2.canon c).ecc,
    twf_filter _ _ _ (h2.canon c).regs, rfl, twf_filter _ _ _ (h2.canon c).sqs⟩, h3.pend, h3.fuses⟩

theorem holdReset_keeps {s0 : State} (c : HoldCause) {s : State} (h : Keeps s0 s) :
    Keeps s0 (holdReset c s) := by
  unfold holdReset
  repeat' (first | (simp (maxDischargeDepth := 99) (etaStruct := .none) only [h, resetDevice_keeps]; done) | split)

theorem brownOut_keeps {s0 : State} (x : Supply) {s : State} (h : Keeps s0 s) :
    Keeps s0 (brownOut x s) := by
  unfold brownOut
  simp (maxDischargeDepth := 99) (etaStruct := .none) only [h, modPower_keeps, resetDevice_keeps]

theorem crystalLost_keeps {s0 : State}  {s : State} (h : Keeps s0 s) :
    Keeps s0 (crystalLost s) := by
  unfold crystalLost
  simp (maxDischargeDepth := 99) (etaStruct := .none) only [h, modPower_keeps, resetDevice_keeps, xtalLostMark_keeps, Keeps.ite]

theorem alwaysOnPowerUp_keeps {s0 : State} {s : State} (h : Keeps s0 s) : Keeps s0 (alwaysOnPowerUp s) := by
  unfold alwaysOnPowerUp
  extract_lets s1
  have h1 : Keeps s0 s1 := keepCut_keeps _ h
  clear_value s1
  have h2 := fresh_keeps h1
  exact ⟨fun c => ⟨Memory.wf_filter _ _ (h1.canon c).mem, (h2.canon c).flash, twf_filter _ _ _ (h1.canon c).ecc, rfl, rfl, rfl⟩,
    h2.pend, h2.fuses⟩

theorem resetRelease_keeps {s0 : State} (ioB33 : Bool) {s : State} (h : Keeps s0 s) :
    Keeps s0 (resetRelease ioB33 s) := by
  unfold resetRelease
  simp (maxDischargeDepth := 99) (etaStruct := .none) only [h, Keeps.mk_same, wrb_keeps, wrn_keeps, Keeps.ite]

theorem coreStart_keeps {s0 : State} (c : Nat) {s : State} (h : Keeps s0 s) :
    Keeps s0 (coreStart c s) := by
  unfold coreStart
  simp (maxDischargeDepth := 99) (etaStruct := .none) only [h, setCtl_keeps]

theorem netNext_keeps {s0 : State}  {s : State} (h : Keeps s0 s) :
    Keeps s0 (netNext s) := by
  unfold netNext
  simp (maxDischargeDepth := 99) (etaStruct := .none) only [h, modBus_keeps]

theorem netOrphan_keeps {s0 : State} (m : Master) {s : State} (h : Keeps s0 s) :
    Keeps s0 (netOrphan m s) := by
  unfold netOrphan
  repeat' (first | intro _ | (simp (maxDischargeDepth := 99) (etaStruct := .none) only [*, draw_keeps, modBus_keeps, netNext_keeps, Keeps.ite, Keeps.mk_same]; done) | with_reducible assumption | with_reducible rfl | with_reducible apply Keeps.ite | with_reducible apply draw_keeps | with_reducible apply modBus_keeps | with_reducible apply netNext_keeps | with_reducible apply Keeps.foldl | split | dsimp only)
  all_goals (refine Keeps.mk_same ?_ rfl)
  all_goals repeat' (first | intro _ | (simp (maxDischargeDepth := 99) (etaStruct := .none) only [*, draw_keeps, modBus_keeps, netNext_keeps, Keeps.ite, Keeps.mk_same]; done) | with_reducible assumption | with_reducible rfl | with_reducible apply Keeps.ite | with_reducible apply draw_keeps | with_reducible apply modBus_keeps | with_reducible apply netNext_keeps | with_reducible apply Keeps.foldl | split | dsimp only)

theorem coreReset_keeps {s0 : State} (c : Nat) {s : State} (h : Keeps s0 s) :
    Keeps s0 (coreReset c s) := by
  unfold coreReset
  repeat' (first | intro _ | (simp (maxDischargeDepth := 99) (etaStruct := .none) only [*, coreStart_keeps, modBus_keeps, netOrphan_keeps, wrb_keeps, wrn_keeps, Keeps.ite, Keeps.mk_same]; done) | with_reducible assumption | with_reducible rfl | with_reducible apply Keeps.ite | with_reducible apply coreStart_keeps | with_reducible apply modBus_keeps | with_reducible apply netOrphan_keeps | with_reducible apply wrb_keeps | with_reducible apply wrn_keeps | with_reducible apply Keeps.foldl | split | dsimp only)

theorem releaseZero_keeps {s0 : State} (i : Nat) {s : State} (h : Keeps s0 s) : Keeps s0 (releaseZero i s) := by
  unfold releaseZero
  split
  · exact mclr_keeps _ _ h
  · exact Keeps.regsFilter (s := (s.mclr 0x30000000 0x30800000).mclr 0x38000000 0x38200000) _
      (mclr_keeps _ _ (mclr_keeps _ _ h))
  · exact h

theorem releaseBit_keeps {s0 : State} (s : State) (i : Nat) (h : Keeps s0 s) : Keeps s0 (releaseBit s i) := by
  unfold releaseBit
  refine Keeps.ite h ?_
  dsimp only
  have h1 := modWard_keeps (fun w => { w with release := w.release ||| BitVec.ofNat 21 (2 ^ i) })
    (releaseZero_keeps i h) fun _ => rfl
  exact Keeps.ite (coreStart_keeps _ h1) (Keeps.ite (journalScan_keeps h1) h1)

theorem releaseWrite_keeps {s0 : State} (v : Nat) {s : State} (h : Keeps s0 s) : Keeps s0 (releaseWrite v s) := by
  unfold releaseWrite
  exact Keeps.ite (Keeps.foldl (fun t i ht => releaseBit_keeps t i ht) h) h

theorem giveRet_keeps {s0 : State} (m : Master) (b : BusRet) {s : State} (h : Keeps s0 s) :
    Keeps s0 (giveRet m b s) := by
  unfold giveRet
  repeat' (first | intro _ | (simp (maxDischargeDepth := 99) (etaStruct := .none) only [*, modBus_keeps, setCtl_keeps, Keeps.ite, Keeps.mk_same]; done) | with_reducible assumption | with_reducible rfl | with_reducible apply Keeps.ite | with_reducible apply modBus_keeps | with_reducible apply setCtl_keeps | with_reducible apply Keeps.foldl | split | dsimp only)

theorem bridgeReset_keeps {s0 : State} (slot : Nat) {s : State} (h : Keeps s0 s) :
    Keeps s0 (bridgeReset slot s) := by
  unfold bridgeReset
  exact Keeps.foldl (fun _ _ k => giveRet_keeps _ _ k) (modBus_keeps _ h)

theorem lanesZero_keeps {s0 : State} (lo : Nat) (n : Nat) {s : State} (h : Keeps s0 s) :
    Keeps s0 (lanesZero lo n s) := by
  unfold lanesZero
  repeat' (first | intro _ | (simp (maxDischargeDepth := 99) (etaStruct := .none) only [*, setLane_keeps]; done) | with_reducible assumption | with_reducible rfl | with_reducible apply Keeps.ite | with_reducible apply setLane_keeps | with_reducible apply Keeps.foldl | split | dsimp only)

theorem blockState_keeps {s0 : State} (slot : Nat) {s : State} (h : Keeps s0 s) :
    Keeps s0 (blockState slot s) := by
  unfold blockState
  repeat' (first | intro _ | (simp (maxDischargeDepth := 99) (etaStruct := .none) only [*, dictBlockReset_keeps, discardSet_keeps, dmaBlockReset_keeps, fifoUnready_keeps, lanesZero_keeps, modNet_keeps, msgBlockReset_keeps, portsBlockReset_keeps, senseBlockReset_keeps, streamsOff_keeps, transportReset_keeps, Keeps.ite, Keeps.mk_same]; done) | with_reducible assumption | with_reducible rfl | with_reducible apply Keeps.ite | with_reducible apply dictBlockReset_keeps | with_reducible apply discardSet_keeps | with_reducible apply dmaBlockReset_keeps | with_reducible apply fifoUnready_keeps | with_reducible apply lanesZero_keeps | with_reducible apply modNet_keeps | with_reducible apply msgBlockReset_keeps | with_reducible apply portsBlockReset_keeps | with_reducible apply senseBlockReset_keeps | with_reducible apply streamsOff_keeps | with_reducible apply transportReset_keeps | with_reducible apply Keeps.foldl | with_reducible refine Keeps.foldl_of (p := Prod.snd) ?_ ?_ | with_reducible refine Keeps.foldl_of (p := Prod.fst) ?_ ?_ | split | dsimp only)
  all_goals (refine Keeps.mk_same ?_ rfl)
  all_goals repeat' (first | intro _ | (simp (maxDischargeDepth := 99) (etaStruct := .none) only [*, dictBlockReset_keeps, discardSet_keeps, dmaBlockReset_keeps, fifoUnready_keeps, lanesZero_keeps, modNet_keeps, msgBlockReset_keeps, portsBlockReset_keeps, senseBlockReset_keeps, streamsOff_keeps, transportReset_keeps, Keeps.ite, Keeps.mk_same]; done) | with_reducible assumption | with_reducible rfl | with_reducible apply Keeps.ite | with_reducible apply dictBlockReset_keeps | with_reducible apply discardSet_keeps | with_reducible apply dmaBlockReset_keeps | with_reducible apply fifoUnready_keeps | with_reducible apply lanesZero_keeps | with_reducible apply modNet_keeps | with_reducible apply msgBlockReset_keeps | with_reducible apply portsBlockReset_keeps | with_reducible apply senseBlockReset_keeps | with_reducible apply streamsOff_keeps | with_reducible apply transportReset_keeps | with_reducible apply Keeps.foldl | with_reducible refine Keeps.foldl_of (p := Prod.snd) ?_ ?_ | with_reducible refine Keeps.foldl_of (p := Prod.fst) ?_ ?_ | split | dsimp only)

theorem blockReset_keeps {s0 : State} (slot : Nat) {s : State} (h : Keeps s0 s) : Keeps s0 (blockReset slot s) := by
  unfold blockReset
  refine Keeps.ite ?_ h
  extract_lets s1 keep bs sf s2
  have h1 : Keeps s0 s1 := bridgeReset_keeps _ (blockState_keeps _ h)
  clear_value s1
  have h2 : Keeps s0 s2 := Keeps.mk_all s1 h1 (twf_filter _ _ _) (twf_filter _ _ _) (twf_filter _ _ _) id id id
    (FusesGrow.refl _) rfl
  exact summaryCheck_keeps (Keeps.ite (journalScan_keeps h2) h2)

theorem mapPair_keeps {s0 : State} (a : Nat) (f : Nat → Bool) {s : State} (h : Keeps s0 s) :
    Keeps s0 (mapPair a f s) := by
  unfold mapPair
  simp (maxDischargeDepth := 99) (etaStruct := .none) only [h, wrn_keeps]

theorem trimLoad_keeps {s0 : State} {s : State} (h : Keeps s0 s) : Keeps s0 (trimLoad s) := by
  unfold trimLoad
  refine Keeps.ite h ?_
  dsimp only
  refine Keeps.ite (forceFault_keeps ?_) ?_ <;>
  · refine modWard_keeps _ (modPower_keeps _ (wr_keeps _ _ (wr_keeps _ _ (wrn_keeps _ _ (mapPair_keeps _ _
      (mapPair_keeps _ _ (Keeps.foldl (fun t r ht => ?_) h))))))) fun _ => rfl
    exact Keeps.ite (Keeps.ite (wrn_keeps _ _ ht) (wr_keeps _ _ (draw_keeps ht))) (wr_keeps _ _ ht)

theorem temperatureUpdate_keeps {s0 : State} (t : BitVec 16) {s : State} (h : Keeps s0 s) :
    Keeps s0 (temperatureUpdate t s) := by
  unfold temperatureUpdate
  simp (maxDischargeDepth := 99) (etaStruct := .none) only [h, modPower_keeps, sqSet_keeps, wrn_keeps, Keeps.ite]

end Sys2Proof.Machine
end

