-- ==== Sys2Proof/Laws/KeepsBus.lean ====
section
/-! SUPPORT. What the operations of Machine/Bus.lean keep (Laws/Keeps.lean says what that is). -/

namespace Sys2Proof.Machine
open Sys2Proof

theorem logPriv_keeps {s0 : State} (w : Who) (write : Bool) (sec : Bool) (n : Nat) (a : Nat) {s : State} (h : Keeps s0 s) :
    Keeps s0 (logPriv w write sec n a s) := by
  unfold logPriv
  simp (maxDischargeDepth := 99) (etaStruct := .none) only [h, logAccess_keeps]

theorem logAcc_keeps {s0 : State} (w : Who) (bit : Nat) (write : Bool) (n : Nat) (a : Nat) {s : State} (h : Keeps s0 s) :
    Keeps s0 (logAcc w bit write n a s) := by
  unfold logAcc
  simp (maxDischargeDepth := 99) (etaStruct := .none) only [h, logAccess_keeps]

theorem writeRejected_keeps {s0 : State} (slot : Nat) (path : Nat) (off : Nat) {s : State} (h : Keeps s0 s) :
    Keeps s0 (writeRejected slot path off s) := by
  unfold writeRejected
  simp (maxDischargeDepth := 99) (etaStruct := .none) only [h, sqSet_keeps, wrn_keeps]

theorem setPending_keeps {s0 : State} (a : Nat) (v : Word) {s : State} (h : Keeps s0 s) :
    Keeps s0 (setPending a v s) := by
  unfold setPending
  simp (maxDischargeDepth := 99) (etaStruct := .none) only [h, Keeps.wbSet]

theorem releaseLo_keeps {s0 : State} (a : Nat) (put : Nat → Word → State → State) {s : State} (h : Keeps s0 s) (hput : ∀ x0 x1 x2, Keeps s0 x2 → Keeps s0 (put x0 x1 x2)) :
    Keeps s0 (releaseLo a put s) := by
  unfold releaseLo
  repeat' (first | (simp (maxDischargeDepth := 99) (etaStruct := .none) only [h, hput, modBus_keeps]; done) | split)

theorem pairWrite_keeps {s0 : State} (a : Nat) (v : Word) (put : Nat → Word → State → State) {s : State} (h : Keeps s0 s) (hput : ∀ x0 x1 x2, Keeps s0 x2 → Keeps s0 (put x0 x1 x2)) :
    Keeps s0 (pairWrite a v put s) := by
  unfold pairWrite
  repeat' (first | intro _ | (simp (maxDischargeDepth := 99) (etaStruct := .none) only [*, modBus_keeps]; done) | with_reducible assumption | with_reducible rfl | with_reducible apply Keeps.ite | with_reducible apply hput | with_reducible apply modBus_keeps | with_reducible apply releaseLo_keeps | with_reducible apply Keeps.foldl | split | dsimp only)

theorem wardenInt_keeps {s0 : State} (n : Nat) {s : State} (h : Keeps s0 s) :
    Keeps s0 (wardenInt n s) := by
  unfold wardenInt
  simp (maxDischargeDepth := 99) (etaStruct := .none) only [h, wrb_keeps]

theorem wmboxCommand_keeps {s0 : State} (v : Word) {s : State} (h : Keeps s0 s) :
    Keeps s0 (wmboxCommand v s) := by
  unfold wmboxCommand
  repeat' (first | intro _ | (simp (maxDischargeDepth := 99) (etaStruct := .none) only [*, wr_keeps]; done) | with_reducible assumption | with_reducible rfl | with_reducible apply Keeps.ite | with_reducible apply modWard_keeps | with_reducible apply wardenInt_keeps | with_reducible apply wr_keeps | with_reducible apply Keeps.foldl | split | dsimp only)

theorem flashBankWrite_keeps {s0 : State} (v : Word) {s : State} (h : Keeps s0 s) :
    Keeps s0 (flashBankWrite v s) := by
  unfold flashBankWrite
  simp (maxDischargeDepth := 99) (etaStruct := .none) only [h, modBus_keeps, wr_keeps, Keeps.ite]

theorem ctrlWrite_keeps {s0 : State} (slot : Nat) (on : Bool) {s : State} (h : Keeps s0 s) :
    Keeps s0 (ctrlWrite slot on s) := by
  unfold ctrlWrite
  repeat' (first | intro _ | (simp (maxDischargeDepth := 99) (etaStruct := .none) only [*, dictEnableWrite_keeps, dmaEnableWrite_keeps, engEnableWrite_keeps, evtEnable_keeps, safeEnableWrite_keeps, wrb_keeps, Keeps.ite, Keeps.mk_same]; done) | with_reducible assumption | with_reducible rfl | with_reducible apply Keeps.ite | with_reducible apply dictEnableWrite_keeps | with_reducible apply dmaEnableWrite_keeps | with_reducible apply engEnableWrite_keeps | with_reducible apply evtEnable_keeps | with_reducible apply safeEnableWrite_keeps | with_reducible apply wrb_keeps | with_reducible apply Keeps.foldl | split | dsimp only)

theorem sysWrite'_keeps {s0 : State} (w : Who) (a : Nat) (v : Word) {s : State} (h : Keeps s0 s) :
    Keeps s0 (sysWrite' w a v s) := by
  unfold sysWrite'
  repeat' (first | intro _ | (simp (maxDischargeDepth := 99) (etaStruct := .none) only [*, flashBankWrite_keeps, modeReqWrite_keeps, summaryCheck_keeps, wdogCfgWrite_keeps, wmboxCommand_keeps, wr_keeps]; done) | with_reducible assumption | with_reducible rfl | with_reducible apply Keeps.ite | with_reducible apply flashBankWrite_keeps | with_reducible apply modeReqWrite_keeps | with_reducible apply summaryCheck_keeps | with_reducible apply wdogCfgWrite_keeps | with_reducible apply wmboxCommand_keeps | with_reducible apply wr_keeps | with_reducible apply Keeps.foldl | split | dsimp only)

theorem rwWrite_keeps {s0 : State} (w : Who) (a : Nat) (v : Word) {s : State} (h : Keeps s0 s) :
    Keeps s0 (rwWrite w a v s) := by
  unfold rwWrite
  repeat' (first | intro _ | (simp (maxDischargeDepth := 99) (etaStruct := .none) only [*, canCtrlWrite_keeps, chCtrlWrite_keeps, chTailWrite_keeps, claimWrite_keeps, ctrlWrite_keeps, draw_keeps, i2cCmd_keeps, keepBufWrite_keeps, keepCmdWrite_keeps, localRequests_keeps, logPriv_keeps, micDcWrite_keeps, pairWrite_keeps, portsCheck_keeps, ptpCtrlWrite_keeps, queueConsume_keeps, sysWrite'_keeps, uartTxd_keeps, wr_keeps, Keeps.ite, Keeps.mk_same]; done) | with_reducible assumption | with_reducible rfl | with_reducible apply Keeps.ite | with_reducible apply canCtrlWrite_keeps | with_reducible apply chCtrlWrite_keeps | with_reducible apply chTailWrite_keeps | with_reducible apply claimWrite_keeps | with_reducible apply ctrlWrite_keeps | with_reducible apply draw_keeps | with_reducible apply i2cCmd_keeps | with_reducible apply keepBufWrite_keeps | with_reducible apply keepCmdWrite_keeps | with_reducible apply localRequests_keeps | with_reducible apply logPriv_keeps | with_reducible apply micDcWrite_keeps | with_reducible apply pairWrite_keeps | with_reducible apply portsCheck_keeps | with_reducible apply ptpCtrlWrite_keeps | with_reducible apply queueConsume_keeps | with_reducible apply sysWrite'_keeps | with_reducible apply uartTxd_keeps | with_reducible apply wr_keeps | with_reducible apply Keeps.foldl | split | dsimp only)

theorem wbWrite_keeps {s0 : State} (a : Nat) (v : Word) {s : State} (h : Keeps s0 s) :
    Keeps s0 (wbWrite a v s) := by
  unfold wbWrite
  repeat' (first | intro _ | (simp (maxDischargeDepth := 99) (etaStruct := .none) only [*, setPending_keeps]; done) | with_reducible assumption | with_reducible rfl | with_reducible apply Keeps.ite | with_reducible apply chStaged_keeps | with_reducible apply pairWrite_keeps | with_reducible apply setPending_keeps | with_reducible apply Keeps.foldl | split | dsimp only)

theorem netCut_keeps {s0 : State}  {s : State} (h : Keeps s0 s) :
    Keeps s0 (netCut s) := by
  unfold netCut
  repeat' (first | intro _ | (simp (maxDischargeDepth := 99) (etaStruct := .none) only [*, aliasOf_keeps, directOf_keeps, draw_keeps, modBus_keeps, netNext_keeps, rowAt_keeps, slotView_keeps, wordOf_keeps, Keeps.ite, Keeps.mk_same]; done) | with_reducible assumption | with_reducible rfl | with_reducible apply Keeps.ite | with_reducible apply aliasOf_keeps | with_reducible apply directOf_keeps | with_reducible apply draw_keeps | with_reducible apply modBus_keeps | with_reducible apply netNext_keeps | with_reducible apply rowAt_keeps | with_reducible apply slotView_keeps | with_reducible apply wordOf_keeps | with_reducible apply Keeps.foldl | split | dsimp only)

theorem w1Write_keeps {s0 : State} (w : Who) (a : Nat) (v : Word) {s : State} (h : Keeps s0 s) :
    Keeps s0 (w1Write w a v s) := by
  unfold w1Write
  repeat' (first | intro _ | (simp (maxDischargeDepth := 99) (etaStruct := .none) only [*, blockReset_keeps, canTxreq_keeps, commitReqWrite_keeps, coreReset_keeps, fwGo_keeps, gswapCtrlWrite_keeps, hdone_keeps, lmAck_keeps, lmLearn_keeps, netCut_keeps, pulse_keeps, requestReset_keeps, sessCloseWrite_keeps, unlatch_keeps, vtCtrl_keeps, wdogKick_keeps, Keeps.ite, Keeps.mk_same]; done) | with_reducible assumption | with_reducible rfl | with_reducible apply Keeps.ite | with_reducible apply blockReset_keeps | with_reducible apply canTxreq_keeps | with_reducible apply commitReqWrite_keeps | with_reducible apply coreReset_keeps | with_reducible apply fwGo_keeps | with_reducible apply gswapCtrlWrite_keeps | with_reducible apply hdone_keeps | with_reducible apply lmAck_keeps | with_reducible apply lmLearn_keeps | with_reducible apply netCut_keeps | with_reducible apply pulse_keeps | with_reducible apply requestReset_keeps | with_reducible apply sessCloseWrite_keeps | with_reducible apply unlatch_keeps | with_reducible apply vtCtrl_keeps | with_reducible apply wdogKick_keeps | with_reducible apply Keeps.foldl | with_reducible refine Keeps.foldl_of (p := Prod.snd) ?_ ?_ | with_reducible refine Keeps.foldl_of (p := Prod.fst) ?_ ?_ | split | dsimp only)

theorem sqWrite_keeps {s0 : State} (w : Who) (a : Nat) (v : Word) {s : State} (h : Keeps s0 s) :
    Keeps s0 (sqWrite w a v s) := by
  unfold sqWrite
  simp (maxDischargeDepth := 99) (etaStruct := .none) only [h, logAcc_keeps, setSq_keeps, Keeps.ite]

theorem classWrite_keeps {s0 : State} (w : Who) (path : Nat) (a : Nat) (r : RegRow) (v : Word) {s : State} (h : Keeps s0 s) :
    Keeps s0 (classWrite w path a r v s) := by
  unfold classWrite
  repeat' (first | intro _ | (simp (maxDischargeDepth := 99) (etaStruct := .none) only [*, modBus_keeps, portsCheck_keeps, rwWrite_keeps, sqWrite_keeps, w1Write_keeps, wbWrite_keeps, wr_keeps, writeRejected_keeps, Keeps.ite, Keeps.mk_same]; done) | with_reducible assumption | with_reducible rfl | with_reducible apply Keeps.ite | with_reducible apply modBus_keeps | with_reducible apply portsCheck_keeps | with_reducible apply rwWrite_keeps | with_reducible apply sqWrite_keeps | with_reducible apply w1Write_keeps | with_reducible apply wbWrite_keeps | with_reducible apply wr_keeps | with_reducible apply writeRejected_keeps | with_reducible apply Keeps.foldl | split | dsimp only)

theorem readEffect_keeps {s0 : State} (a : Nat) (r : RegRow) {s : State} (h : Keeps s0 s) :
    Keeps s0 (readEffect a r s) := by
  unfold readEffect
  repeat' (first | (simp (maxDischargeDepth := 99) (etaStruct := .none) only [h, canRxPop_keeps, draw_keeps, i2cRspPop_keeps, uartRxdPop_keeps, wr_keeps, Keeps.ite]; done) | split)

theorem regRead_keeps {s0 : State} (w : Who) (a : Nat) (n : Nat) {s : State} (h : Keeps s0 s) :
    Keeps s0 (regRead w a n s).2 := by
  unfold regRead
  simp only [apply_ite Prod.fst]
  repeat' (first | intro _ | (simp (maxDischargeDepth := 99) (etaStruct := .none) only [*, logAcc_keeps, logPriv_keeps, readEffect_keeps]; done) | with_reducible assumption | with_reducible rfl | with_reducible apply Keeps.ite | with_reducible apply logAcc_keeps | with_reducible apply logPriv_keeps | with_reducible apply readEffect_keeps | with_reducible apply Keeps.foldl | split | dsimp only)

theorem wardenWrite_keeps {s0 : State} (a : Nat) (r : RegRow) (v : Word) {s : State} (h : Keeps s0 s) :
    Keeps s0 (wardenWrite a r v s) := by
  unfold wardenWrite
  repeat' (first | intro _ | (simp (maxDischargeDepth := 99) (etaStruct := .none) only [*, releaseWrite_keeps, resetDevice_keeps, tallyExtend_keeps, wr_keeps, Keeps.ite]; done) | with_reducible assumption | with_reducible rfl | with_reducible apply Keeps.ite | with_reducible apply modWard_keeps | with_reducible apply releaseWrite_keeps | with_reducible apply resetDevice_keeps | with_reducible apply tallyExtend_keeps | with_reducible apply wr_keeps | with_reducible apply Keeps.foldl | split | dsimp only)

theorem devResetWrite_keeps {s0 : State} (w : Who) (path : Nat) (a : Nat) (v : Word) {s : State} (h : Keeps s0 s) :
    Keeps s0 (devResetWrite w path a v s) := by
  unfold devResetWrite
  simp (maxDischargeDepth := 99) (etaStruct := .none) only [h, logAcc_keeps, resetDevice_keeps, Keeps.ite]

theorem regWrite_keeps {s0 : State} (w : Who) (a : Nat) (n : Nat) (v : Nat) {s : State} (h : Keeps s0 s) :
    Keeps s0 (regWrite w a n v s).2 := by
  unfold regWrite
  simp only [apply_ite Prod.fst]
  repeat' (first | intro _ | (simp (maxDischargeDepth := 99) (etaStruct := .none) only [*, classWrite_keeps, devResetWrite_keeps, logAcc_keeps, logPriv_keeps, wardenWrite_keeps]; done) | with_reducible assumption | with_reducible rfl | with_reducible apply Keeps.ite | with_reducible apply classWrite_keeps | with_reducible apply devResetWrite_keeps | with_reducible apply logAcc_keeps | with_reducible apply logPriv_keeps | with_reducible apply wardenWrite_keeps | with_reducible apply Keeps.foldl | split | dsimp only)

theorem shadowWrite_keeps {s0 : State} (t : ApTable) (c : CSet) (a : Nat) (v : Word) {s : State} (h : Keeps s0 s) :
    Keeps s0 (shadowWrite t c a v s) := by
  unfold shadowWrite
  repeat' (first | (simp (maxDischargeDepth := 99) (etaStruct := .none) only [h, nodeRefused_keeps, stageWord_keeps, Keeps.ite]; done) | split)

theorem streamEntryWrite_keeps {s0 : State} (live : Nat) (a : Nat) (k : Nat) (v : Word) {s : State} (h : Keeps s0 s) :
    Keeps s0 (streamEntryWrite live a k v s) := by
  unfold streamEntryWrite
  repeat' (first | intro _ | (simp (maxDischargeDepth := 99) (etaStruct := .none) only [*, wr_keeps, writeRejected_keeps, Keeps.ite, Keeps.mk_same]; done) | with_reducible assumption | with_reducible rfl | with_reducible apply Keeps.ite | with_reducible apply wr_keeps | with_reducible apply writeRejected_keeps | with_reducible apply Keeps.foldl | split | dsimp only)

theorem tableWrite_keeps {s0 : State} (w : Who) (t : ApTable) (a : Nat) (v : Word) (src : Nat) {s : State} (h : Keeps s0 s) :
    Keeps s0 (tableWrite w t a v src s) := by
  unfold tableWrite
  repeat' (first | intro _ | (simp (maxDischargeDepth := 99) (etaStruct := .none) only [*, engEvent_keeps, nodeRefused_keeps, pairedIgnored_keeps, safeEvent_keeps, setPending_keeps, stageWritten_keeps, streamEntryWrite_keeps, wr_keeps, writeRejected_keeps, Keeps.ite, Keeps.mk_same]; done) | with_reducible assumption | with_reducible rfl | with_reducible apply Keeps.ite | with_reducible apply engEvent_keeps | with_reducible apply nodeRefused_keeps | with_reducible apply pairedIgnored_keeps | with_reducible apply safeEvent_keeps | with_reducible apply setPending_keeps | with_reducible apply stageWritten_keeps | with_reducible apply streamEntryWrite_keeps | with_reducible apply wr_keeps | with_reducible apply writeRejected_keeps | with_reducible apply Keeps.foldl | split | dsimp only)

theorem apertureRead_keeps {s0 : State} (w : Who) (a : Nat) (n : Nat) {s : State} (h : Keeps s0 s) :
    Keeps s0 (apertureRead w a n s).2 := by
  unfold apertureRead
  repeat' (first | (simp (maxDischargeDepth := 99) (etaStruct := .none) only [h, logAcc_keeps]; done) | split)

theorem apertureWrite_keeps {s0 : State} (w : Who) (a : Nat) (n : Nat) (v : Nat) (src : Nat) {s : State} (h : Keeps s0 s) :
    Keeps s0 (apertureWrite w a n v src s) := by
  unfold apertureWrite
  repeat' (first | intro _ | (simp (maxDischargeDepth := 99) (etaStruct := .none) only [*, logAcc_keeps, shadowWrite_keeps, tableWrite_keeps, Keeps.ite, Keeps.mk_same]; done) | with_reducible assumption | with_reducible rfl | with_reducible apply Keeps.ite | with_reducible apply logAcc_keeps | with_reducible apply shadowWrite_keeps | with_reducible apply tableWrite_keeps | with_reducible apply Keeps.foldl | split | dsimp only)

theorem windowWrite_keeps {s0 : State} (w : Who) (a : Nat) (n : Nat) (v : Nat) {s : State} (h : Keeps s0 s) :
    Keeps s0 (windowWrite w a n v s) := by
  unfold windowWrite
  simp (maxDischargeDepth := 99) (etaStruct := .none) only [h, engEvent_keeps, mwr_keeps, pairedIgnored_keeps, setDirty_keeps, setSc_keeps, stageWritten_keeps, Keeps.ite]

theorem windowRead_keeps {s0 : State} (a : Nat) (n : Nat) {s : State} (h : Keeps s0 s) :
    Keeps s0 (windowRead a n s).2 := by
  unfold windowRead
  repeat' (first | intro _ | (simp (maxDischargeDepth := 99) (etaStruct := .none) only [*, modSc_keeps, windowAt_keeps, Keeps.ite, Keeps.mk_same, apply_ite Prod.snd]; done) | with_reducible assumption | with_reducible rfl | with_reducible apply Keeps.ite | with_reducible apply modSc_keeps | with_reducible apply windowAt_keeps | with_reducible apply Keeps.foldl | split | dsimp only)

theorem memoryRead_keeps {s0 : State} (w : Who) (a : Nat) (n : Nat) {s : State} (h : Keeps s0 s) :
    Keeps s0 (memoryRead w a n s).2 := by
  unfold memoryRead
  repeat' (first | intro _ | (simp (maxDischargeDepth := 99) (etaStruct := .none) only [*, apertureRead_keeps, keepNoted_keeps, logAcc_keeps, windowRead_keeps, Keeps.ite, Keeps.mk_same, apply_ite Prod.snd]; done) | with_reducible assumption | with_reducible rfl | with_reducible apply Keeps.ite | with_reducible apply apertureRead_keeps | with_reducible apply keepNoted_keeps | with_reducible apply logAcc_keeps | with_reducible apply windowRead_keeps | with_reducible apply Keeps.foldl | split | dsimp only)

theorem memoryWrite_keeps {s0 : State} (w : Who) (a : Nat) (n : Nat) (v : Nat) {s : State} (h : Keeps s0 s) :
    Keeps s0 (memoryWrite w a n v s).2 := by
  unfold memoryWrite
  repeat' (first | intro _ | (simp (maxDischargeDepth := 99) (etaStruct := .none) only [*, apertureWrite_keeps, logAcc_keeps, mwr_keeps, windowWrite_keeps, Keeps.ite, Keeps.mk_same, apply_ite Prod.snd]; done) | with_reducible assumption | with_reducible rfl | with_reducible apply Keeps.ite | with_reducible apply apertureWrite_keeps | with_reducible apply logAcc_keeps | with_reducible apply mwr_keeps | with_reducible apply windowWrite_keeps | with_reducible apply Keeps.foldl | split | dsimp only)

theorem busReadAct_keeps {s0 : State} (w : Who) (a : Nat) (n : Nat) {s : State} (h : Keeps s0 s) :
    Keeps s0 (busReadAct w a n s).2 := by
  unfold busReadAct
  simp only [apply_ite Prod.snd]
  repeat' (first | intro _ | (simp (maxDischargeDepth := 99) (etaStruct := .none) only [*, logAcc_keeps, logPriv_keeps, memoryRead_keeps, regRead_keeps]; done) | with_reducible assumption | with_reducible rfl | with_reducible apply Keeps.ite | with_reducible apply logAcc_keeps | with_reducible apply logPriv_keeps | with_reducible apply memoryRead_keeps | with_reducible apply regRead_keeps | with_reducible apply Keeps.foldl | split | dsimp only)

theorem busRead_keeps {s0 : State} (w : Who) (a : Nat) (n : Nat) {s : State} (h : Keeps s0 s) :
    Keeps s0 (busRead w a n s).2 := by
  unfold busRead
  repeat' (first | (simp (maxDischargeDepth := 99) (etaStruct := .none) only [h, busReadAct_keeps]; done) | split)

theorem busWrite_keeps {s0 : State} (w : Who) (a : Nat) (n : Nat) (v : Nat) {s : State} (h : Keeps s0 s) :
    Keeps s0 (busWrite w a n v s).2 := by
  unfold busWrite
  repeat' (first | (simp (maxDischargeDepth := 99) (etaStruct := .none) +contextual only [h, logAcc_keeps, logPriv_keeps, memoryWrite_keeps, regWrite_keeps, Keeps.ite, apply_ite Prod.snd]; done) | split)

theorem deliverPosted_keeps {s0 : State} (p : Posted) {s : State} (h : Keeps s0 s) :
    Keeps s0 (deliverPosted p s) := by
  unfold deliverPosted
  simp (maxDischargeDepth := 99) (etaStruct := .none) only [h, busWrite_keeps, logAccess_keeps, Keeps.ite]

theorem setPosted_keeps {s0 : State} (toAudio : Bool) (l : List Posted) {s : State} (h : Keeps s0 s) :
    Keeps s0 (setPosted toAudio l s) := by
  unfold setPosted
  simp (maxDischargeDepth := 99) (etaStruct := .none) only [h, modBus_keeps]

theorem deliverOf_keeps {s0 : State} (m : Master) (toAudio : Bool) {s : State} (h : Keeps s0 s) :
    Keeps s0 (deliverOf m toAudio s) := by
  unfold deliverOf
  repeat' (first | intro _ | (simp (maxDischargeDepth := 99) (etaStruct := .none) only [*, deliverPosted_keeps, setPosted_keeps]; done) | with_reducible assumption | with_reducible rfl | with_reducible apply Keeps.ite | with_reducible apply deliverPosted_keeps | with_reducible apply setPosted_keeps | with_reducible apply Keeps.foldl | split | dsimp only)

theorem deliverNext_keeps {s0 : State} (toAudio : Bool) {s : State} (h : Keeps s0 s) :
    Keeps s0 (deliverNext toAudio s) := by
  unfold deliverNext
  repeat' (first | (simp (maxDischargeDepth := 99) (etaStruct := .none) only [h, deliverPosted_keeps, setPosted_keeps]; done) | split)

theorem postWrite_keeps {s0 : State} (p : Posted) {s : State} (h : Keeps s0 s) :
    Keeps s0 (postWrite p s) := by
  unfold postWrite
  repeat' (first | intro _ | (simp (maxDischargeDepth := 99) (etaStruct := .none) only [*, deliverNext_keeps, postedOf_keeps, regionOf_keeps, setPosted_keeps, Keeps.ite, Keeps.mk_same]; done) | with_reducible assumption | with_reducible rfl | with_reducible apply Keeps.ite | with_reducible apply deliverNext_keeps | with_reducible apply postedOf_keeps | with_reducible apply regionOf_keeps | with_reducible apply setPosted_keeps | with_reducible apply Keeps.foldl | split | dsimp only)

theorem netAct_keeps {s0 : State} (x : NetAcc) {s : State} (h : Keeps s0 s) :
    Keeps s0 (netAct x s).2 := by
  unfold netAct
  repeat' (first | intro _ | (simp (maxDischargeDepth := 99) (etaStruct := .none) only [*, busRead_keeps, busWrite_keeps, Keeps.ite, Keeps.mk_same, apply_ite Prod.snd]; done) | with_reducible assumption | with_reducible rfl | with_reducible apply Keeps.ite | with_reducible apply busRead_keeps | with_reducible apply busWrite_keeps | with_reducible apply Keeps.foldl | split | dsimp only)

theorem netAcknowledge_keeps {s0 : State}  {s : State} (h : Keeps s0 s) :
    Keeps s0 (netAcknowledge s) := by
  unfold netAcknowledge
  repeat' (first | intro _ | (simp (maxDischargeDepth := 99) (etaStruct := .none) only [*, giveRet_keeps, netAct_keeps, netNext_keeps, Keeps.ite, Keeps.mk_same]; done) | with_reducible assumption | with_reducible rfl | with_reducible apply Keeps.ite | with_reducible apply giveRet_keeps | with_reducible apply netAct_keeps | with_reducible apply netNext_keeps | with_reducible apply Keeps.foldl | split | dsimp only)

theorem netLateEnd_keeps {s0 : State} (x : NetAcc) {s : State} (h : Keeps s0 s) :
    Keeps s0 (netLateEnd x s) := by
  unfold netLateEnd
  repeat' (first | intro _ | (simp (maxDischargeDepth := 99) (etaStruct := .none) only [*, draw_keeps, netAct_keeps, sqSet_keeps, Keeps.ite, Keeps.mk_same]; done) | with_reducible assumption | with_reducible rfl | with_reducible apply Keeps.ite | with_reducible apply draw_keeps | with_reducible apply netAct_keeps | with_reducible apply sqSet_keeps | with_reducible apply Keeps.foldl | split | dsimp only)

theorem netTimeout_keeps {s0 : State}  {s : State} (h : Keeps s0 s) :
    Keeps s0 (netTimeout s) := by
  unfold netTimeout
  repeat' (first | intro _ | (simp (maxDischargeDepth := 99) (etaStruct := .none) only [*, giveRet_keeps, modBus_keeps, netLateEnd_keeps, netNext_keeps, Keeps.ite, Keeps.mk_same]; done) | with_reducible assumption | with_reducible rfl | with_reducible apply Keeps.ite | with_reducible apply giveRet_keeps | with_reducible apply modBus_keeps | with_reducible apply netLateEnd_keeps | with_reducible apply netNext_keeps | with_reducible apply Keeps.foldl | split | dsimp only)

theorem netDrain_keeps {s0 : State} (k : Nat) {s : State} (h : Keeps s0 s) : Keeps s0 (netDrain k s) := by
  induction k generalizing s with
  | zero => exact h
  | succ k ih =>
    simp only [netDrain]
    split
    · exact h
    · exact ih (Keeps.ite (netTimeout_keeps h) (netAcknowledge_keeps h))

theorem netWhole_keeps {s0 : State} (x : NetAcc) {s : State} (h : Keeps s0 s) :
    Keeps s0 (netWhole x s).2 := by
  unfold netWhole
  repeat' (first | intro _ | (simp (maxDischargeDepth := 99) (etaStruct := .none) only [*, modBus_keeps, netAct_keeps, netDrain_keeps, netLateEnd_keeps, Keeps.ite, Keeps.mk_same, apply_ite Prod.snd]; done) | with_reducible assumption | with_reducible rfl | with_reducible apply Keeps.ite | with_reducible apply modBus_keeps | with_reducible apply netAct_keeps | with_reducible apply netDrain_keeps | with_reducible apply netLateEnd_keeps | with_reducible apply Keeps.foldl | split | dsimp only)

theorem writeNow_keeps {s0 : State} (m : Master) (a : Nat) (n : Nat) (v : Nat) {s : State} (h : Keeps s0 s) :
    Keeps s0 (writeNow m a n v s).2 := by
  unfold writeNow
  repeat' (first | intro _ | (simp (maxDischargeDepth := 99) (etaStruct := .none) only [*, busWrite_keeps, deliverOf_keeps, netWhole_keeps, Keeps.ite, Keeps.mk_same, apply_ite Prod.snd]; done) | with_reducible assumption | with_reducible rfl | with_reducible apply Keeps.ite | with_reducible apply busWrite_keeps | with_reducible apply deliverOf_keeps | with_reducible apply netWhole_keeps | with_reducible apply Keeps.foldl | split | dsimp only)

theorem readData_keeps {s0 : State} (m : Master) (a : Nat) (n : Nat) {s : State} (h : Keeps s0 s) :
    Keeps s0 (readData m a n s).2 := by
  unfold readData
  repeat' (first | intro _ | (simp (maxDischargeDepth := 99) (etaStruct := .none) only [*, busRead_keeps, deliverOf_keeps, netWhole_keeps, regionOf_keeps, viaNet_keeps, whoOf_keeps, Keeps.ite, Keeps.mk_same, apply_ite Prod.snd]; done) | with_reducible assumption | with_reducible rfl | with_reducible apply Keeps.ite | with_reducible apply busRead_keeps | with_reducible apply deliverOf_keeps | with_reducible apply netWhole_keeps | with_reducible apply regionOf_keeps | with_reducible apply viaNet_keeps | with_reducible apply whoOf_keeps | with_reducible apply Keeps.foldl | split | dsimp only)

theorem readNow_keeps {s0 : State} (m : Master) (a : Nat) (n : Nat) {s : State} (h : Keeps s0 s) :
    Keeps s0 (readNow m a n s).2 := by
  unfold readNow
  repeat' (first | intro _ | (simp (maxDischargeDepth := 99) (etaStruct := .none) only [*, readData_keeps, Keeps.ite, Keeps.mk_same, apply_ite Prod.snd]; done) | with_reducible assumption | with_reducible rfl | with_reducible apply Keeps.ite | with_reducible apply readData_keeps | with_reducible apply Keeps.foldl | split | dsimp only)

theorem masterWrite_keeps {s0 : State} (m : Master) (a : Nat) (n : Nat) (v : Nat) {s : State} (h : Keeps s0 s) :
    Keeps s0 (masterWrite m a n v s).2 := by
  unfold masterWrite
  repeat' (first | intro _ | (simp (maxDischargeDepth := 99) (etaStruct := .none) only [*, postWrite_keeps, writeNow_keeps, Keeps.ite, Keeps.mk_same, apply_ite Prod.snd]; done) | with_reducible assumption | with_reducible rfl | with_reducible apply Keeps.ite | with_reducible apply postWrite_keeps | with_reducible apply writeNow_keeps | with_reducible apply Keeps.foldl | split | dsimp only)

theorem arriveWrite_keeps {s0 : State} (m : Master) (a : Nat) (n : Nat) (v : Nat) {s : State} (h : Keeps s0 s) :
    Keeps s0 (arriveWrite m a n v s).2 := by
  unfold arriveWrite
  repeat' (first | intro _ | (simp (maxDischargeDepth := 99) (etaStruct := .none) only [*, crosses_keeps, deliverOf_keeps, masterWrite_keeps, regionOf_keeps, Keeps.ite, Keeps.mk_same, apply_ite Prod.snd]; done) | with_reducible assumption | with_reducible rfl | with_reducible apply Keeps.ite | with_reducible apply crosses_keeps | with_reducible apply deliverOf_keeps | with_reducible apply masterWrite_keeps | with_reducible apply regionOf_keeps | with_reducible apply Keeps.foldl | split | dsimp only)

theorem bankSettle_keeps {s0 : State}  {s : State} (h : Keeps s0 s) :
    Keeps s0 (bankSettle s) := by
  unfold bankSettle
  repeat' (first | (simp (maxDischargeDepth := 99) (etaStruct := .none) only [h, modBus_keeps, wr_keeps, Keeps.ite]; done) | split)

end Sys2Proof.Machine
end

