-- ==== Sys2Proof/Laws/KeepsOperands.lean ====
section
/-! SUPPORT. What the operations of Machine/Operands.lean keep (Laws/Keeps.lean says what that is). -/

namespace Sys2Proof.Machine
open Sys2Proof

/-- The instruction under way after a piece of it. -/
def Res.under {α : Type} : Res α → RunSt
  | .ok _ x => x
  | .flt _ x => x
  | .stall x => x

/-- Noting an ECC error changes nothing but the note. -/
@[simp] theorem RunSt.note_s (bad : Bool) (ix a : Nat) (x : RunSt) : (x.note bad ix a).s = x.s := by
  unfold RunSt.note
  split <;> rfl

/-- A piece of an instruction keeps what every operation keeps, however it ends. -/
def RunKeeps (s0 : State) {α : Type} (p : Run α) : Prop := ∀ x, Keeps s0 x.s → Keeps s0 (p x).under.s

theorem RunKeeps.ite {s0 : State} {α : Type} {c : Prop} [Decidable c] {p q : Run α} (hp : RunKeeps s0 p)
    (hq : RunKeeps s0 q) : RunKeeps s0 (if c then p else q) := by
  split
  · exact hp
  · exact hq

theorem ret_keeps {s0 : State} {α : Type} (a : α) : RunKeeps s0 (ret a) := fun _ h => h

theorem fail_keeps {s0 : State} {α : Type} (f : Flt) : RunKeeps s0 (fail f : Run α) := fun _ h => h

theorem andThen_keeps {s0 : State} {α β : Type} {p : Run α} {f : α → Run β} (hp : RunKeeps s0 p)
    (hf : ∀ a, RunKeeps s0 (f a)) : RunKeeps s0 (andThen p f) := by
  intro x h
  have h1 := hp x h
  unfold andThen
  split
  · rename_i a y e; rw [e] at h1; exact hf a y h1
  · rename_i g y e; rw [e] at h1; exact h1
  · rename_i y e; rw [e] at h1; exact h1

theorem upd_keeps {s0 : State} {f : State → State} (hf : ∀ t, Keeps s0 t → Keeps s0 (f t)) : RunKeeps s0 (upd f) :=
  fun _ h => hf _ h

theorem replayed_same {a : Nat} {write : Bool} {x : RunSt} {r : BusRet} {y : RunSt}
    (h : replayed? a write x = some (r, y)) : y.s = x.s := by
  unfold replayed? at h
  split at h
  · split at h
    · cases h; rfl
    · cases h
  · cases h

theorem eccCheck_keeps {s0 : State} : RunKeeps s0 eccCheck := by
  intro x h
  unfold eccCheck
  split <;> exact h

theorem look_keeps {s0 : State} {α : Type} (f : State → α) : RunKeeps s0 (look f) := fun _ h => h

theorem setRegs_keeps {s0 : State} (c : CoreId) (r : CoreRegs) {s : State} (h : Keeps s0 s) :
    Keeps s0 (setRegs c r s) := by
  unfold setRegs
  repeat' (first | (simp (maxDischargeDepth := 99) (etaStruct := .none) only [h, modSc_keeps, setCtl_keeps]; done) | split)

theorem updRegs_keeps {s0 : State} (c : CoreId) (f : CoreRegs → CoreRegs) : RunKeeps s0 (updRegs c f) := by
  unfold updRegs
  repeat' (first | with_reducible assumption | with_reducible apply RunKeeps.ite | with_reducible apply andThen_keeps | with_reducible apply ret_keeps | with_reducible apply fail_keeps | with_reducible apply look_keeps | with_reducible apply upd_keeps | with_reducible apply stallWith_keeps | split | intro _ | with_reducible apply Keeps.ite | with_reducible apply setRegs_keeps | with_reducible apply Keeps.foldl | dsimp only)

theorem getRegs_keeps {s0 : State} (c : CoreId) : RunKeeps s0 (getRegs c) := by
  unfold getRegs
  repeat' (first | with_reducible assumption | with_reducible apply RunKeeps.ite | with_reducible apply andThen_keeps | with_reducible apply ret_keeps | with_reducible apply fail_keeps | with_reducible apply look_keeps | with_reducible apply upd_keeps | with_reducible apply stallWith_keeps | split | intro _ | with_reducible apply Keeps.ite | with_reducible apply Keeps.foldl | dsimp only)

theorem scTouched_keeps {s0 : State} (n : Nat) (a : Nat) {s : State} (h : Keeps s0 s) :
    Keeps s0 (scTouched n a s) := by
  unfold scTouched
  simp (maxDischargeDepth := 99) (etaStruct := .none) only [h, modSc_keeps, Keeps.ite]

theorem scMet_keeps {s0 : State} (n : Nat) (h : Nat × Bool) {s : State} (hk : Keeps s0 s) :
    Keeps s0 (scMet n h s) := by
  unfold scMet
  repeat' (first | intro _ | (simp (maxDischargeDepth := 99) (etaStruct := .none) only [*, modSc_keeps, recordCause_keeps, Keeps.ite, Keeps.mk_same]; done) | with_reducible assumption | with_reducible rfl | with_reducible apply Keeps.ite | with_reducible apply modSc_keeps | with_reducible apply recordCause_keeps | with_reducible apply Keeps.foldl | split | dsimp only)

theorem scRead_keeps {s0 : State} (n : Nat) (a : Nat) (size : Nat) {s : State} (h : Keeps s0 s) :
    Keeps s0 (scRead n a size s).2 := by
  unfold scRead
  repeat' (first | intro _ | (simp (maxDischargeDepth := 99) (etaStruct := .none) only [*, recordCause_keeps, scMet_keeps, scTouched_keeps, Keeps.ite, Keeps.mk_same, apply_ite Prod.snd]; done) | with_reducible assumption | with_reducible rfl | with_reducible apply Keeps.ite | with_reducible apply recordCause_keeps | with_reducible apply scMet_keeps | with_reducible apply scTouched_keeps | with_reducible apply Keeps.foldl | split | dsimp only)

theorem scWrite_keeps {s0 : State} (n : Nat) (a : Nat) (size : Nat) (v : Nat) {s : State} (h : Keeps s0 s) :
    Keeps s0 (scWrite n a size v s) := by
  unfold scWrite
  repeat' (first | (simp (maxDischargeDepth := 99) (etaStruct := .none) only [h, mwr_keeps, recordCause_keeps, scTouched_keeps]; done) | split)

theorem cacheRead_keeps {s0 : State} (k : Nat) (a : Nat) (n : Nat) {s : State} (h : Keeps s0 s) :
    Keeps s0 (cacheRead k a n s).2 := by
  unfold cacheRead
  extract_lets x line old now bad fill d
  have hf : ∀ t, Keeps s0 t → Keeps s0 (fill t).2 := fun t ht =>
    setCtl_keeps _ _ (Keeps.ite (keepNoted_keeps _ _ ht) ht)
  have hd : Keeps s0 d.2 := draw_keeps h
  rw [apply_ite Prod.snd, apply_ite Prod.snd, apply_ite Prod.snd]
  exact Keeps.ite (hf _ h) (Keeps.ite h (Keeps.ite hd (hf _ hd)))

theorem cacheWrite_keeps {s0 : State} (k : Nat) (a : Nat) (n : Nat) (v : Nat) {s : State} (h : Keeps s0 s) :
    Keeps s0 (cacheWrite k a n v s) := by
  unfold cacheWrite
  simp (maxDischargeDepth := 99) (etaStruct := .none) only [h, setCtl_keeps, Keeps.ite]

theorem netIssue_keeps {s0 : State} (x : NetAcc) {s : State} (h : Keeps s0 s) :
    Keeps s0 (netIssue x s) := by
  unfold netIssue
  repeat' (first | (simp (maxDischargeDepth := 99) (etaStruct := .none) only [h, modBus_keeps]; done) | split)

theorem splitIssue_keeps {s0 : State} (x : Split) {s : State} (h : Keeps s0 s) :
    Keeps s0 (splitIssue x s) := by
  unfold splitIssue
  simp (maxDischargeDepth := 99) (etaStruct := .none) only [h, modBus_keeps, Keeps.ite]

theorem stallWith_keeps {s0 : State} {α : Type} (c : CoreId) {f : State → State} (hf : ∀ t, Keeps s0 t → Keeps s0 (f t)) :
    RunKeeps s0 (stallWith c f : Run α) := by
  intro x h
  show Keeps s0 (RunSt.s (if _ then _ else _))
  rw [apply_ite RunSt.s]
  exact Keeps.ite h (hf _ h)

theorem ctlRead_keeps {s0 : State} (c : CoreId) (a n ix : Nat) : RunKeeps s0 (ctlRead c a n ix) := by
  intro x h
  unfold ctlRead
  split
  · rename_i r y e
    have hy : Keeps s0 y.s := (replayed_same e).symm ▸ h
    split
    · simpa only [Res.under, RunSt.note_s] using hy
    · exact hy
  · dsimp only
    split
    · exact h
    · split
      · exact stallWith_keeps c (fun t ht => splitIssue_keeps _ ht) x h
      · split
        · exact stallWith_keeps c (fun t ht => netIssue_keeps _ ht) x h
        · split <;>
          · simp only [Res.under, RunSt.note_s, apply_ite Prod.snd]
            exact Keeps.ite (cacheRead_keeps _ _ _ h) (readData_keeps _ _ _ h)

theorem ctlProbe_keeps {s0 : State} (c : CoreId) (a n ix : Nat) : RunKeeps s0 (ctlProbe c a n ix) := by
  intro x h
  unfold ctlProbe
  dsimp only
  split
  · exact h
  · split
    · exact h
    · split
      · exact h
      · exact busWrite_keeps _ _ _ _ h

theorem coreRead_keeps {s0 : State} (c : CoreId) (a : Word) (n ix : Nat) : RunKeeps s0 (coreRead c a n ix) := by
  unfold coreRead
  split
  · exact fun x h => scRead_keeps _ _ _ h
  · exact ctlRead_keeps _ _ _ _

theorem coreProbe_keeps {s0 : State} (c : CoreId) (a : Word) (n : Nat) (ix : Nat) : RunKeeps s0 (coreProbe c a n ix) := by
  unfold coreProbe
  repeat' (first | with_reducible assumption | with_reducible apply RunKeeps.ite | with_reducible apply andThen_keeps | with_reducible apply ctlProbe_keeps | with_reducible apply ret_keeps | with_reducible apply fail_keeps | with_reducible apply look_keeps | with_reducible apply upd_keeps | with_reducible apply stallWith_keeps | split | intro _ | with_reducible apply Keeps.ite | with_reducible apply Keeps.foldl | dsimp only)

theorem netWrites_keeps {s0 : State} (c : CoreId) (ws : List CoreWrite) : RunKeeps s0 (netWrites c ws) := by
  induction ws with
  | nil => exact ret_keeps _
  | cons w ws ih =>
    intro x h
    unfold netWrites
    split
    · split
      · rename_i r y e
        have hy : Keeps s0 y.s := (replayed_same e).symm ▸ h
        split
        · exact ih y hy
        · exact hy
      · exact stallWith_keeps c (fun t ht => netIssue_keeps _ ht) x h
    · exact ih x h

theorem roomFor_keeps {s0 : State} (c : CoreId) (ws : List CoreWrite) : RunKeeps s0 (roomFor c ws) := by
  intro x h
  unfold roomFor
  dsimp only
  split
  · exact h
  · exact stallWith_keeps c (fun t ht => ht) x h

theorem ctlWrite_keeps {s0 : State} (c : CoreId) (w : CoreWrite) {s : State} (h : Keeps s0 s) :
    Keeps s0 (ctlWrite c w s) := by
  unfold ctlWrite
  simp (maxDischargeDepth := 99) (etaStruct := .none) only [h, busWrite_keeps, cacheWrite_keeps, setPosted_keeps, Keeps.ite]

theorem writeAll_keeps {s0 : State} (c : CoreId) (ws : List CoreWrite) : RunKeeps s0 (writeAll c ws) := by
  unfold writeAll
  repeat' (first | with_reducible assumption | with_reducible apply RunKeeps.ite | with_reducible apply andThen_keeps | with_reducible apply eccCheck_keeps | with_reducible apply netWrites_keeps | with_reducible apply roomFor_keeps | with_reducible apply ret_keeps | with_reducible apply fail_keeps | with_reducible apply look_keeps | with_reducible apply upd_keeps | with_reducible apply stallWith_keeps | split | intro _ | with_reducible apply Keeps.ite | with_reducible apply ctlWrite_keeps | with_reducible apply scWrite_keeps | with_reducible apply Keeps.foldl | dsimp only)

theorem evalAddr_keeps {s0 : State} (c : CoreId) (ix : Nat) (sz : Nat) (write : Bool) (p : Spec) : RunKeeps s0 (evalAddr c ix sz write p) := by
  unfold evalAddr
  repeat' (first | with_reducible assumption | with_reducible apply RunKeeps.ite | with_reducible apply andThen_keeps | with_reducible apply coreProbe_keeps | with_reducible apply coreRead_keeps | with_reducible apply getRegs_keeps | with_reducible apply ret_keeps | with_reducible apply fail_keeps | with_reducible apply look_keeps | with_reducible apply upd_keeps | with_reducible apply stallWith_keeps | split | intro _ | with_reducible apply Keeps.ite | with_reducible apply recordCause_keeps | with_reducible apply Keeps.foldl | dsimp only)

theorem readOperand_keeps {s0 : State} (c : CoreId) (ix : Nat) (sz : Nat) (p : Spec) : RunKeeps s0 (readOperand c ix sz p) := by
  unfold readOperand
  repeat' (first | with_reducible assumption | with_reducible apply RunKeeps.ite | with_reducible apply andThen_keeps | with_reducible apply coreRead_keeps | with_reducible apply evalAddr_keeps | with_reducible apply ret_keeps | with_reducible apply fail_keeps | with_reducible apply look_keeps | with_reducible apply upd_keeps | with_reducible apply stallWith_keeps | split | intro _ | with_reducible apply Keeps.ite | with_reducible apply Keeps.foldl | dsimp only)

theorem destOperand_keeps {s0 : State} (c : CoreId) (ix : Nat) (sz : Nat) (p : Spec) : RunKeeps s0 (destOperand c ix sz p) := by
  unfold destOperand
  repeat' (first | with_reducible assumption | with_reducible apply RunKeeps.ite | with_reducible apply andThen_keeps | with_reducible apply coreProbe_keeps | with_reducible apply evalAddr_keeps | with_reducible apply ret_keeps | with_reducible apply fail_keeps | with_reducible apply look_keeps | with_reducible apply upd_keeps | with_reducible apply stallWith_keeps | split | intro _ | with_reducible apply Keeps.ite | with_reducible apply Keeps.foldl | dsimp only)

theorem rwOperand_keeps {s0 : State} (c : CoreId) (ix : Nat) (sz : Nat) (p : Spec) : RunKeeps s0 (rwOperand c ix sz p) := by
  unfold rwOperand
  repeat' (first | with_reducible assumption | with_reducible apply RunKeeps.ite | with_reducible apply andThen_keeps | with_reducible apply coreProbe_keeps | with_reducible apply getRegs_keeps | with_reducible apply readOperand_keeps | with_reducible apply ret_keeps | with_reducible apply fail_keeps | with_reducible apply look_keeps | with_reducible apply upd_keeps | with_reducible apply stallWith_keeps | split | intro _ | with_reducible apply Keeps.ite | with_reducible apply Keeps.foldl | dsimp only)

theorem addrOperand_keeps {s0 : State} (c : CoreId) (ix : Nat) (sz : Nat) (p : Spec) : RunKeeps s0 (addrOperand c ix sz p) := by
  unfold addrOperand
  repeat' (first | with_reducible assumption | with_reducible apply RunKeeps.ite | with_reducible apply andThen_keeps | with_reducible apply evalAddr_keeps | with_reducible apply ret_keeps | with_reducible apply fail_keeps | with_reducible apply look_keeps | with_reducible apply upd_keeps | with_reducible apply stallWith_keeps | split | intro _ | with_reducible apply Keeps.ite | with_reducible apply Keeps.foldl | dsimp only)

theorem edgeBlend_keeps {s0 : State} (n : Nat) (new : Nat) (old : Nat) (f : Nat) {s : State} (h : Keeps s0 s) :
    Keeps s0 (edgeBlend n new old f s).2 := by
  unfold edgeBlend
  repeat' (first | intro _ | (simp (maxDischargeDepth := 99) (etaStruct := .none) only [*, engEvent_keeps, scLaneVal_keeps, Keeps.ite, Keeps.mk_same, apply_ite Prod.snd]; done) | with_reducible assumption | with_reducible rfl | with_reducible apply Keeps.ite | with_reducible apply engEvent_keeps | with_reducible apply scLaneVal_keeps | with_reducible apply Keeps.foldl | split | dsimp only)

theorem scLaneIn_keeps {s0 : State} (n : Nat) (l : Nat) {s : State} (h : Keeps s0 s) :
    Keeps s0 (scLaneIn n l s).2 := by
  unfold scLaneIn
  repeat' (first | intro _ | (simp (maxDischargeDepth := 99) (etaStruct := .none) only [*, edgeBlend_keeps, engEvent_keeps, Keeps.ite, Keeps.mk_same, apply_ite Prod.snd]; done) | with_reducible assumption | with_reducible rfl | with_reducible apply Keeps.ite | with_reducible apply edgeBlend_keeps | with_reducible apply engEvent_keeps | with_reducible apply Keeps.foldl | split | dsimp only)

theorem scLaneOut_keeps {s0 : State} (n : Nat) (l : Nat) (v : Nat) {s : State} (h : Keeps s0 s) :
    Keeps s0 (scLaneOut n l v s) := by
  unfold scLaneOut
  simp (maxDischargeDepth := 99) (etaStruct := .none) only [h, lanePut_keeps, recordCause_keeps, Keeps.ite]

theorem laneIn_keeps {s0 : State} (c : CoreId) (l : Nat) : RunKeeps s0 (laneIn c l) := by
  unfold laneIn
  split
  · exact fun x h => scLaneIn_keeps _ _ h
  · intro x h
    dsimp only
    split
    · rename_i r y e
      have hy : Keeps s0 y.s := (replayed_same e).symm ▸ h
      split <;> exact hy
    · exact stallWith_keeps c (fun t ht => splitIssue_keeps _ ht) x h

theorem laneReach_keeps {s0 : State} (c : CoreId) (l : Nat) : RunKeeps s0 (laneReach c l) :=
  RunKeeps.ite (ret_keeps _) (fail_keeps _)

theorem laneOut_keeps {s0 : State} (c : CoreId) (l : Nat) (v : Nat) : RunKeeps s0 (laneOut c l v) := by
  unfold laneOut
  split
  · exact upd_keeps fun _ h => scLaneOut_keeps _ _ _ h
  · exact laneReach_keeps _ _

end Sys2Proof.Machine
end

