-- ==== Sys2Proof/Laws/KeepsAtward.lean ====
section
/-! SUPPORT. What the operations of Machine/Atward.lean keep (Laws/Keeps.lean says what that is). -/

namespace Sys2Proof.Machine
open Sys2Proof

theorem cacheOp_keeps {s0 : State} (k : Nat) (op : Nat) {s : State} (h : Keeps s0 s) :
    Keeps s0 (cacheOp k op s) := by
  unfold cacheOp
  repeat' (first | (simp (maxDischargeDepth := 99) (etaStruct := .none) only [h, setCtl_keeps]; done) | split)

theorem complete_keeps {s0 : State} (c : CoreId) (ops : List Opd) (res : List CoreWrite) (f : CoreRegs → CoreRegs) : RunKeeps s0 (complete c ops res f) := by
  unfold complete
  repeat' (first | with_reducible assumption | with_reducible apply RunKeeps.ite | with_reducible apply andThen_keeps | with_reducible apply updRegs_keeps | with_reducible apply writeAll_keeps | with_reducible apply ret_keeps | with_reducible apply fail_keeps | with_reducible apply look_keeps | with_reducible apply upd_keeps | with_reducible apply stallWith_keeps | split | intro _ | with_reducible apply Keeps.ite | with_reducible apply Keeps.foldl | dsimp only)

theorem opRmw_keeps {s0 : State} (f : Alu2) (c : CoreId) (e : Enc) (nx : Word) : RunKeeps s0 (opRmw f c e nx) := by
  unfold opRmw
  repeat' (first | with_reducible assumption | with_reducible apply RunKeeps.ite | with_reducible apply andThen_keeps | with_reducible apply complete_keeps | with_reducible apply destOperand_keeps | with_reducible apply getRegs_keeps | with_reducible apply readOperand_keeps | with_reducible apply rwOperand_keeps | with_reducible apply ret_keeps | with_reducible apply fail_keeps | with_reducible apply look_keeps | with_reducible apply upd_keeps | with_reducible apply stallWith_keeps | split | intro _ | with_reducible apply Keeps.ite | with_reducible apply Keeps.foldl | dsimp only)

theorem opCompare_keeps {s0 : State} (f : Alu2) (c : CoreId) (e : Enc) (nx : Word) : RunKeeps s0 (opCompare f c e nx) := by
  unfold opCompare
  repeat' (first | with_reducible assumption | with_reducible apply RunKeeps.ite | with_reducible apply andThen_keeps | with_reducible apply complete_keeps | with_reducible apply getRegs_keeps | with_reducible apply readOperand_keeps | with_reducible apply ret_keeps | with_reducible apply fail_keeps | with_reducible apply look_keeps | with_reducible apply upd_keeps | with_reducible apply stallWith_keeps | split | intro _ | with_reducible apply Keeps.ite | with_reducible apply Keeps.foldl | dsimp only)

theorem opUnary_keeps {s0 : State} (f : Alu1) (c : CoreId) (e : Enc) (nx : Word) : RunKeeps s0 (opUnary f c e nx) := by
  unfold opUnary
  repeat' (first | with_reducible assumption | with_reducible apply RunKeeps.ite | with_reducible apply andThen_keeps | with_reducible apply complete_keeps | with_reducible apply destOperand_keeps | with_reducible apply getRegs_keeps | with_reducible apply readOperand_keeps | with_reducible apply ret_keeps | with_reducible apply fail_keeps | with_reducible apply look_keeps | with_reducible apply upd_keeps | with_reducible apply stallWith_keeps | split | intro _ | with_reducible apply Keeps.ite | with_reducible apply Keeps.foldl | dsimp only)

theorem opDadj_keeps {s0 : State} (c : CoreId) (e : Enc) (nx : Word) : RunKeeps s0 (opDadj c e nx) := by
  unfold opDadj
  repeat' (first | with_reducible assumption | with_reducible apply RunKeeps.ite | with_reducible apply andThen_keeps | with_reducible apply complete_keeps | with_reducible apply getRegs_keeps | with_reducible apply rwOperand_keeps | with_reducible apply ret_keeps | with_reducible apply fail_keeps | with_reducible apply look_keeps | with_reducible apply upd_keeps | with_reducible apply stallWith_keeps | split | intro _ | with_reducible apply Keeps.ite | with_reducible apply Keeps.foldl | dsimp only)

theorem pushWord_keeps {s0 : State} (c : CoreId) (v : Nat) (ops : List Opd) (f : CoreRegs → CoreRegs) : RunKeeps s0 (pushWord c v ops f) := by
  unfold pushWord
  repeat' (first | with_reducible assumption | with_reducible apply RunKeeps.ite | with_reducible apply andThen_keeps | with_reducible apply coreProbe_keeps | with_reducible apply getRegs_keeps | with_reducible apply updRegs_keeps | with_reducible apply writeAll_keeps | with_reducible apply ret_keeps | with_reducible apply fail_keeps | with_reducible apply look_keeps | with_reducible apply upd_keeps | with_reducible apply stallWith_keeps | split | intro _ | with_reducible apply Keeps.ite | with_reducible apply Keeps.foldl | dsimp only)

theorem opPush_keeps {s0 : State} (c : CoreId) (e : Enc) (nx : Word) : RunKeeps s0 (opPush c e nx) := by
  unfold opPush
  repeat' (first | with_reducible assumption | with_reducible apply RunKeeps.ite | with_reducible apply andThen_keeps | with_reducible apply pushWord_keeps | with_reducible apply readOperand_keeps | with_reducible apply ret_keeps | with_reducible apply fail_keeps | with_reducible apply look_keeps | with_reducible apply upd_keeps | with_reducible apply stallWith_keeps | split | intro _ | with_reducible apply Keeps.ite | with_reducible apply Keeps.foldl | dsimp only)

theorem opPop_keeps {s0 : State} (c : CoreId) (e : Enc) (nx : Word) : RunKeeps s0 (opPop c e nx) := by
  unfold opPop
  repeat' (first | with_reducible assumption | with_reducible apply RunKeeps.ite | with_reducible apply andThen_keeps | with_reducible apply complete_keeps | with_reducible apply coreRead_keeps | with_reducible apply destOperand_keeps | with_reducible apply getRegs_keeps | with_reducible apply ret_keeps | with_reducible apply fail_keeps | with_reducible apply look_keeps | with_reducible apply upd_keeps | with_reducible apply stallWith_keeps | split | intro _ | with_reducible apply Keeps.ite | with_reducible apply Keeps.foldl | dsimp only)

theorem opMac_keeps {s0 : State} (c : CoreId) (e : Enc) (nx : Word) : RunKeeps s0 (opMac c e nx) := by
  unfold opMac
  repeat' (first | with_reducible assumption | with_reducible apply RunKeeps.ite | with_reducible apply andThen_keeps | with_reducible apply complete_keeps | with_reducible apply readOperand_keeps | with_reducible apply ret_keeps | with_reducible apply fail_keeps | with_reducible apply look_keeps | with_reducible apply upd_keeps | with_reducible apply stallWith_keeps | split | intro _ | with_reducible apply Keeps.ite | with_reducible apply Keeps.foldl | dsimp only)

theorem opMacr_keeps {s0 : State} (c : CoreId) (e : Enc) (nx : Word) : RunKeeps s0 (opMacr c e nx) := by
  unfold opMacr
  repeat' (first | with_reducible assumption | with_reducible apply RunKeeps.ite | with_reducible apply andThen_keeps | with_reducible apply complete_keeps | with_reducible apply destOperand_keeps | with_reducible apply getRegs_keeps | with_reducible apply readOperand_keeps | with_reducible apply ret_keeps | with_reducible apply fail_keeps | with_reducible apply look_keeps | with_reducible apply upd_keeps | with_reducible apply stallWith_keeps | split | intro _ | with_reducible apply Keeps.ite | with_reducible apply Keeps.foldl | dsimp only)

theorem opSat_keeps {s0 : State} (c : CoreId) (e : Enc) (nx : Word) : RunKeeps s0 (opSat c e nx) := by
  unfold opSat
  repeat' (first | with_reducible assumption | with_reducible apply RunKeeps.ite | with_reducible apply andThen_keeps | with_reducible apply complete_keeps | with_reducible apply destOperand_keeps | with_reducible apply getRegs_keeps | with_reducible apply ret_keeps | with_reducible apply fail_keeps | with_reducible apply look_keeps | with_reducible apply upd_keeps | with_reducible apply stallWith_keeps | split | intro _ | with_reducible apply Keeps.ite | with_reducible apply Keeps.foldl | dsimp only)

theorem opDigit_keeps {s0 : State} (c : CoreId) (e : Enc) (nx : Word) : RunKeeps s0 (opDigit c e nx) := by
  unfold opDigit
  repeat' (first | with_reducible assumption | with_reducible apply RunKeeps.ite | with_reducible apply andThen_keeps | with_reducible apply opUnary_keeps | with_reducible apply ret_keeps | with_reducible apply fail_keeps | with_reducible apply look_keeps | with_reducible apply upd_keeps | with_reducible apply stallWith_keeps | split | intro _ | with_reducible apply Keeps.ite | with_reducible apply Keeps.foldl | dsimp only)

theorem opLin_keeps {s0 : State} (c : CoreId) (e : Enc) (nx : Word) : RunKeeps s0 (opLin c e nx) := by
  unfold opLin
  repeat' (first | with_reducible assumption | with_reducible apply RunKeeps.ite | with_reducible apply andThen_keeps | with_reducible apply complete_keeps | with_reducible apply destOperand_keeps | with_reducible apply laneIn_keeps | with_reducible apply readOperand_keeps | with_reducible apply ret_keeps | with_reducible apply fail_keeps | with_reducible apply look_keeps | with_reducible apply upd_keeps | with_reducible apply stallWith_keeps | split | intro _ | with_reducible apply Keeps.ite | with_reducible apply Keeps.foldl | dsimp only)

theorem opLout_keeps {s0 : State} (c : CoreId) (e : Enc) (nx : Word) : RunKeeps s0 (opLout c e nx) := by
  unfold opLout
  repeat' (first | with_reducible assumption | with_reducible apply RunKeeps.ite | with_reducible apply andThen_keeps | with_reducible apply complete_keeps | with_reducible apply laneReach_keeps | with_reducible apply laneOut_keeps | with_reducible apply readOperand_keeps | with_reducible apply ret_keeps | with_reducible apply fail_keeps | with_reducible apply look_keeps | with_reducible apply upd_keeps | with_reducible apply stallWith_keeps | split | intro _ | with_reducible apply Keeps.ite | with_reducible apply Keeps.foldl | dsimp only)

theorem bqdRead_keeps {s0 : State} (c : CoreId) (a : Word) (ix : Nat) : RunKeeps s0 (bqdRead c a ix) := by
  unfold bqdRead
  split
  · intro x h
    dsimp only
    split
    · exact recordCause_keeps _ _ h
    · exact scRead_keeps _ _ _ h
  · exact andThen_keeps (coreRead_keeps _ _ _ _) fun _ => ret_keeps _

theorem bqdCoef_keeps {s0 : State} (c : CoreId) (b : Opd) (off : Word) : RunKeeps s0 (bqdCoef c b off) := by
  unfold bqdCoef
  split
  · exact bqdRead_keeps _ _ _
  · exact ret_keeps _

theorem opBqd_keeps {s0 : State} (c : CoreId) (e : Enc) (nx : Word) : RunKeeps s0 (opBqd c e nx) := by
  unfold opBqd
  repeat' (first | with_reducible assumption | with_reducible apply RunKeeps.ite | with_reducible apply andThen_keeps | with_reducible apply addrOperand_keeps | with_reducible apply bqdCoef_keeps | with_reducible apply bqdRead_keeps | with_reducible apply complete_keeps | with_reducible apply coreProbe_keeps | with_reducible apply ret_keeps | with_reducible apply fail_keeps | with_reducible apply look_keeps | with_reducible apply upd_keeps | with_reducible apply stallWith_keeps | split | intro _ | with_reducible apply Keeps.ite | with_reducible apply recordCause_keeps | with_reducible apply Keeps.foldl | dsimp only)

theorem opMfs_keeps {s0 : State} (c : CoreId) (e : Enc) (nx : Word) : RunKeeps s0 (opMfs c e nx) := by
  unfold opMfs
  repeat' (first | with_reducible assumption | with_reducible apply RunKeeps.ite | with_reducible apply andThen_keeps | with_reducible apply complete_keeps | with_reducible apply destOperand_keeps | with_reducible apply getRegs_keeps | with_reducible apply readOperand_keeps | with_reducible apply ret_keeps | with_reducible apply fail_keeps | with_reducible apply look_keeps | with_reducible apply upd_keeps | with_reducible apply stallWith_keeps | split | intro _ | with_reducible apply Keeps.ite | with_reducible apply Keeps.foldl | dsimp only)

theorem opMts_keeps {s0 : State} (c : CoreId) (e : Enc) (nx : Word) : RunKeeps s0 (opMts c e nx) := by
  unfold opMts
  repeat' (first | with_reducible assumption | with_reducible apply RunKeeps.ite | with_reducible apply andThen_keeps | with_reducible apply complete_keeps | with_reducible apply getRegs_keeps | with_reducible apply readOperand_keeps | with_reducible apply ret_keeps | with_reducible apply fail_keeps | with_reducible apply look_keeps | with_reducible apply upd_keeps | with_reducible apply stallWith_keeps | split | intro _ | with_reducible apply Keeps.ite | with_reducible apply cacheOp_keeps | with_reducible apply Keeps.foldl | dsimp only)

theorem flowTarget_keeps {s0 : State} (c : CoreId) (e : Enc) (pc : Word) : RunKeeps s0 (flowTarget c e pc) := by
  unfold flowTarget
  repeat' (first | with_reducible assumption | with_reducible apply RunKeeps.ite | with_reducible apply andThen_keeps | with_reducible apply readOperand_keeps | with_reducible apply ret_keeps | with_reducible apply fail_keeps | with_reducible apply look_keeps | with_reducible apply upd_keeps | with_reducible apply stallWith_keeps | split | intro _ | with_reducible apply Keeps.ite | with_reducible apply Keeps.foldl | dsimp only)

theorem checkTarget_keeps {s0 : State} (c : CoreId) (t : Word) (k : Run Unit) (hk : RunKeeps s0 k) : RunKeeps s0 (checkTarget c t k) := by
  unfold checkTarget
  repeat' (first | with_reducible assumption | with_reducible apply RunKeeps.ite | with_reducible apply andThen_keeps | with_reducible apply hk | with_reducible apply ret_keeps | with_reducible apply fail_keeps | with_reducible apply look_keeps | with_reducible apply upd_keeps | with_reducible apply stallWith_keeps | split | intro _ | with_reducible apply Keeps.ite | with_reducible apply Keeps.foldl | dsimp only)

theorem opJmp_keeps {s0 : State} (c : CoreId) (e : Enc) (pc : Word) : RunKeeps s0 (opJmp c e pc) := by
  unfold opJmp
  repeat' (first | with_reducible assumption | with_reducible apply RunKeeps.ite | with_reducible apply andThen_keeps | with_reducible apply checkTarget_keeps | with_reducible apply complete_keeps | with_reducible apply flowTarget_keeps | with_reducible apply ret_keeps | with_reducible apply fail_keeps | with_reducible apply look_keeps | with_reducible apply upd_keeps | with_reducible apply stallWith_keeps | split | intro _ | with_reducible apply Keeps.ite | with_reducible apply Keeps.foldl | dsimp only)

theorem opJcc_keeps {s0 : State} (c : CoreId) (cc : Nat) (e : Enc) (pc : Word) (nx : Word) : RunKeeps s0 (opJcc c cc e pc nx) := by
  unfold opJcc
  repeat' (first | with_reducible assumption | with_reducible apply RunKeeps.ite | with_reducible apply andThen_keeps | with_reducible apply checkTarget_keeps | with_reducible apply complete_keeps | with_reducible apply flowTarget_keeps | with_reducible apply getRegs_keeps | with_reducible apply ret_keeps | with_reducible apply fail_keeps | with_reducible apply look_keeps | with_reducible apply upd_keeps | with_reducible apply stallWith_keeps | split | intro _ | with_reducible apply Keeps.ite | with_reducible apply Keeps.foldl | dsimp only)

theorem setDepth_keeps {s0 : State} (c : CoreId) (d : Nat) {s : State} (h : Keeps s0 s) :
    Keeps s0 (setDepth c d s) := by
  unfold setDepth
  repeat' (first | (simp (maxDischargeDepth := 99) (etaStruct := .none) only [h, modSc_keeps]; done) | split)

theorem opIllegal_keeps {s0 : State} (c : CoreId) (nx : Word) : RunKeeps s0 (opIllegal c nx) := by
  unfold opIllegal
  repeat' (first | with_reducible assumption | with_reducible apply RunKeeps.ite | with_reducible apply andThen_keeps | with_reducible apply updRegs_keeps | with_reducible apply ret_keeps | with_reducible apply fail_keeps | with_reducible apply look_keeps | with_reducible apply upd_keeps | with_reducible apply stallWith_keeps | split | intro _ | with_reducible apply Keeps.ite | with_reducible apply recordCause_keeps | with_reducible apply Keeps.foldl | dsimp only)

theorem opCall_keeps {s0 : State} (c : CoreId) (e : Enc) (pc : Word) (nx : Word) : RunKeeps s0 (opCall c e pc nx) := by
  unfold opCall
  repeat' (first | with_reducible assumption | with_reducible apply RunKeeps.ite | with_reducible apply andThen_keeps | with_reducible apply checkTarget_keeps | with_reducible apply flowTarget_keeps | with_reducible apply opIllegal_keeps | with_reducible apply pushWord_keeps | with_reducible apply ret_keeps | with_reducible apply fail_keeps | with_reducible apply look_keeps | with_reducible apply upd_keeps | with_reducible apply stallWith_keeps | split | intro _ | with_reducible apply Keeps.ite | with_reducible apply setDepth_keeps | with_reducible apply Keeps.foldl | dsimp only)

theorem opRet_keeps {s0 : State} (c : CoreId) (nx : Word) : RunKeeps s0 (opRet c nx) := by
  unfold opRet
  repeat' (first | with_reducible assumption | with_reducible apply RunKeeps.ite | with_reducible apply andThen_keeps | with_reducible apply coreRead_keeps | with_reducible apply getRegs_keeps | with_reducible apply opIllegal_keeps | with_reducible apply updRegs_keeps | with_reducible apply ret_keeps | with_reducible apply fail_keeps | with_reducible apply look_keeps | with_reducible apply upd_keeps | with_reducible apply stallWith_keeps | split | intro _ | with_reducible apply Keeps.ite | with_reducible apply setDepth_keeps | with_reducible apply Keeps.foldl | dsimp only)

theorem opEnd_keeps {s0 : State} (c : CoreId) (nx : Word) : RunKeeps s0 (opEnd c nx) := by
  unfold opEnd
  repeat' (first | with_reducible assumption | with_reducible apply RunKeeps.ite | with_reducible apply andThen_keeps | with_reducible apply updRegs_keeps | with_reducible apply ret_keeps | with_reducible apply fail_keeps | with_reducible apply look_keeps | with_reducible apply upd_keeps | with_reducible apply stallWith_keeps | split | intro _ | with_reducible apply Keeps.ite | with_reducible apply modSc_keeps | with_reducible apply Keeps.foldl | dsimp only)

theorem opSkp_keeps {s0 : State} (c : CoreId) (cc : Nat) (pc : Word) (nx : Word) : RunKeeps s0 (opSkp c cc pc nx) := by
  unfold opSkp
  repeat' (first | with_reducible assumption | with_reducible apply RunKeeps.ite | with_reducible apply andThen_keeps | with_reducible apply updRegs_keeps | with_reducible apply ret_keeps | with_reducible apply fail_keeps | with_reducible apply look_keeps | with_reducible apply upd_keeps | with_reducible apply stallWith_keeps | split | intro _ | with_reducible apply Keeps.ite | with_reducible apply Keeps.foldl | dsimp only)

theorem opRpt_keeps {s0 : State} (c : CoreId) (e : Enc) (pc : Word) (nx : Word) : RunKeeps s0 (opRpt c e pc nx) := by
  unfold opRpt
  repeat' (first | with_reducible assumption | with_reducible apply RunKeeps.ite | with_reducible apply andThen_keeps | with_reducible apply updRegs_keeps | with_reducible apply ret_keeps | with_reducible apply fail_keeps | with_reducible apply look_keeps | with_reducible apply upd_keeps | with_reducible apply stallWith_keeps | split | intro _ | with_reducible apply Keeps.ite | with_reducible apply Keeps.foldl | dsimp only)

theorem opRpti_keeps {s0 : State} (c : CoreId) (e : Enc) (pc : Word) (nx : Word) : RunKeeps s0 (opRpti c e pc nx) := by
  unfold opRpti
  repeat' (first | with_reducible assumption | with_reducible apply RunKeeps.ite | with_reducible apply andThen_keeps | with_reducible apply complete_keeps | with_reducible apply readOperand_keeps | with_reducible apply updRegs_keeps | with_reducible apply ret_keeps | with_reducible apply fail_keeps | with_reducible apply look_keeps | with_reducible apply upd_keeps | with_reducible apply stallWith_keeps | split | intro _ | with_reducible apply Keeps.ite | with_reducible apply Keeps.foldl | dsimp only)

theorem opBody_keeps {s0 : State} (c : CoreId) (i : AInstr) (pc : Word) (nx : Word) : RunKeeps s0 (opBody c i pc nx) := by
  unfold opBody
  repeat' (first | with_reducible assumption | with_reducible apply RunKeeps.ite | with_reducible apply andThen_keeps | with_reducible apply opBqd_keeps | with_reducible apply opCall_keeps | with_reducible apply opCompare_keeps | with_reducible apply opDadj_keeps | with_reducible apply opDigit_keeps | with_reducible apply opEnd_keeps | with_reducible apply opJcc_keeps | with_reducible apply opJmp_keeps | with_reducible apply opLin_keeps | with_reducible apply opLout_keeps | with_reducible apply opMac_keeps | with_reducible apply opMacr_keeps | with_reducible apply opMfs_keeps | with_reducible apply opMts_keeps | with_reducible apply opPop_keeps | with_reducible apply opPush_keeps | with_reducible apply opRet_keeps | with_reducible apply opRmw_keeps | with_reducible apply opRpt_keeps | with_reducible apply opRpti_keeps | with_reducible apply opSat_keeps | with_reducible apply opSkp_keeps | with_reducible apply opUnary_keeps | with_reducible apply updRegs_keeps | with_reducible apply ret_keeps | with_reducible apply fail_keeps | with_reducible apply look_keeps | with_reducible apply upd_keeps | with_reducible apply stallWith_keeps | split | intro _ | with_reducible apply Keeps.ite | with_reducible apply Keeps.foldl | dsimp only)

theorem blockLoad_keeps {s0 : State} (c : CoreId) (i : AInstr) : RunKeeps s0 (blockLoad c i) := by
  unfold blockLoad
  repeat' (first | with_reducible assumption | with_reducible apply RunKeeps.ite | with_reducible apply andThen_keeps | with_reducible apply addrOperand_keeps | with_reducible apply readOperand_keeps | with_reducible apply updRegs_keeps | with_reducible apply ret_keeps | with_reducible apply fail_keeps | with_reducible apply look_keeps | with_reducible apply upd_keeps | with_reducible apply stallWith_keeps | split | intro _ | with_reducible apply Keeps.ite | with_reducible apply Keeps.foldl | dsimp only)

theorem passSlots_keeps {s0 : State} (c : CoreId) (n : Nat) : RunKeeps s0 (passSlots c n) := by
  unfold passSlots
  repeat' (first | with_reducible assumption | with_reducible apply RunKeeps.ite | with_reducible apply andThen_keeps | with_reducible apply ret_keeps | with_reducible apply fail_keeps | with_reducible apply look_keeps | with_reducible apply upd_keeps | with_reducible apply stallWith_keeps | split | intro _ | with_reducible apply Keeps.ite | with_reducible apply modSc_keeps | with_reducible apply Keeps.foldl | dsimp only)

theorem blockElem_keeps {s0 : State} (c : CoreId) (op : AOp) (sz : Nat) : RunKeeps s0 (blockElem c op sz) := by
  unfold blockElem
  repeat' (first | with_reducible assumption | with_reducible apply RunKeeps.ite | with_reducible apply andThen_keeps | with_reducible apply coreProbe_keeps | with_reducible apply coreRead_keeps | with_reducible apply getRegs_keeps | with_reducible apply passSlots_keeps | with_reducible apply updRegs_keeps | with_reducible apply writeAll_keeps | with_reducible apply ret_keeps | with_reducible apply fail_keeps | with_reducible apply look_keeps | with_reducible apply upd_keeps | with_reducible apply stallWith_keeps | split | intro _ | with_reducible apply Keeps.ite | with_reducible apply Keeps.foldl | dsimp only)

theorem blockEnd_keeps {s0 : State} (c : CoreId) (op : AOp) (early : Bool) (nx : Word) : RunKeeps s0 (blockEnd c op early nx) := by
  unfold blockEnd
  repeat' (first | with_reducible assumption | with_reducible apply RunKeeps.ite | with_reducible apply andThen_keeps | with_reducible apply updRegs_keeps | with_reducible apply ret_keeps | with_reducible apply fail_keeps | with_reducible apply look_keeps | with_reducible apply upd_keeps | with_reducible apply stallWith_keeps | split | intro _ | with_reducible apply Keeps.ite | with_reducible apply Keeps.foldl | dsimp only)

end Sys2Proof.Machine
end

