-- ==== Sys2Proof/Laws/KeepsCores.lean ====
section
/-! SUPPORT. What the operations of Machine/Cores.lean keep (Laws/Keeps.lean says what that is). -/

namespace Sys2Proof.Machine
open Sys2Proof

/-- What an attempt at a piece of an instruction leaves. -/
def Tried.state : Tried → State
  | .done s => s
  | .raised s => s
  | .waiting s => s

theorem runPlain_keeps {s0 : State} {α : Type} {p : Run α} (d : α) {s : State} (h : Keeps s0 s) (hp : RunKeeps s0 p) :
    Keeps s0 (runPlain p d s).2 := by
  have h1 := hp ⟨s, [], [], none⟩ h
  unfold runPlain
  split <;> (rename_i e; rw [e] at h1; exact h1)

theorem scSpend_keeps {s0 : State} (n : Nat) (k : Nat) {s : State} (h : Keeps s0 s) :
    Keeps s0 (scSpend n k s) := by
  unfold scSpend
  simp (maxDischargeDepth := 99) (etaStruct := .none) only [h, modSc_keeps]

theorem scCut_keeps {s0 : State} (n : Nat) {s : State} (h : Keeps s0 s) :
    Keeps s0 (scCut n s) := by
  unfold scCut
  simp (maxDischargeDepth := 99) (etaStruct := .none) only [h, modSc_keeps]

theorem scRegs_keeps {s0 : State} (n : Fin 16) (f : CoreRegs → CoreRegs) {s : State} (h : Keeps s0 s) :
    Keeps s0 (scRegs n f s) := by
  unfold scRegs
  simp (maxDischargeDepth := 99) (etaStruct := .none) only [h, setRegs_keeps]

theorem scElems_keeps {s0 : State} (n : Fin 16) (op : AOp) (sz k : Nat) {s : State} (h : Keeps s0 s) :
    Keeps s0 (scElems n op sz k s).2 := by
  induction k generalizing s with
  | zero => exact h
  | succ k ih =>
    have h1 := runPlain_keeps true h (blockElem_keeps (s0 := s0) (.sc n) op sz)
    unfold scElems
    split
    · dsimp only
      split
      · exact h1
      · exact ih h1
    · exact scCut_keeps _ h

theorem scBlock_keeps {s0 : State} (n : Fin 16) (i : AInstr) (nx : Word) {s : State} (h : Keeps s0 s) :
    Keeps s0 (scBlock n i nx s) := by
  unfold scBlock
  repeat' (first | intro _ | (simp (maxDischargeDepth := 99) (etaStruct := .none) only [*, blockEnd_keeps, blockLoad_keeps, modSc_keeps, runPlain_keeps, scCut_keeps, scElems_keeps, scSpend_keeps, Keeps.ite, Keeps.mk_same]; done) | with_reducible assumption | with_reducible rfl | with_reducible apply Keeps.ite | with_reducible apply blockEnd_keeps | with_reducible apply blockLoad_keeps | with_reducible apply modSc_keeps | with_reducible apply runPlain_keeps | with_reducible apply scCut_keeps | with_reducible apply scElems_keeps | with_reducible apply scSpend_keeps | with_reducible apply Keeps.foldl | split | dsimp only)

theorem scOnce_keeps {s0 : State} (n : Fin 16) (i : AInstr) (pc : Word) (nx : Word) {s : State} (h : Keeps s0 s) :
    Keeps s0 (scOnce n i pc nx s) := by
  unfold scOnce
  repeat' (first | intro _ | (simp (maxDischargeDepth := 99) (etaStruct := .none) only [*, opBody_keeps, runPlain_keeps, scCut_keeps, scSpend_keeps, Keeps.ite, Keeps.mk_same]; done) | with_reducible assumption | with_reducible rfl | with_reducible apply Keeps.ite | with_reducible apply opBody_keeps | with_reducible apply runPlain_keeps | with_reducible apply scCut_keeps | with_reducible apply scSpend_keeps | with_reducible apply Keeps.foldl | split | dsimp only)

theorem scRepeat_keeps {s0 : State} (n : Fin 16) (i : AInstr) (pc nx : Word) (k : Nat) {s : State} (h : Keeps s0 s) :
    Keeps s0 (scRepeat n i pc nx k s) := by
  induction k generalizing s with
  | zero => exact h
  | succ k ih => exact ih (scOnce_keeps _ _ _ _ h)

theorem scRun_keeps {s0 : State} (n : Fin 16) (i : AInstr) {s : State} (h : Keeps s0 s) :
    Keeps s0 (scRun n i s) := by
  unfold scRun
  repeat' (first | intro _ | (simp (maxDischargeDepth := 99) (etaStruct := .none) only [*, recordCause_keeps, scBlock_keeps, scMet_keeps, scRegs_keeps, scRepeat_keeps, scSpend_keeps, Keeps.ite, Keeps.mk_same]; done) | with_reducible assumption | with_reducible rfl | with_reducible apply Keeps.ite | with_reducible apply recordCause_keeps | with_reducible apply scBlock_keeps | with_reducible apply scMet_keeps | with_reducible apply scRegs_keeps | with_reducible apply scRepeat_keeps | with_reducible apply scSpend_keeps | with_reducible apply Keeps.foldl | split | dsimp only)

theorem entryPush_keeps {s0 : State} (c : CoreId) (v : Word) {x : Bool × State} (h : Keeps s0 x.2) :
    Keeps s0 (entryPush c v x).2 := by
  unfold entryPush
  repeat' (first | split | dsimp only | with_reducible apply cacheWrite_keeps | with_reducible apply writeNow_keeps | with_reducible apply setRegs_keeps | with_reducible exact h)

theorem entryRead_keeps {s0 : State} (c : CoreId) (a : Nat) {s : State} (h : Keeps s0 s) :
    Keeps s0 (entryRead c a s).2 := by
  unfold entryRead
  repeat' (first | (simp (maxDischargeDepth := 99) (etaStruct := .none) only [h, cacheRead_keeps, readNow_keeps]; done) | split)

theorem enter_keeps {s0 : State} (c : CoreId) (vec : Nat) (cause : Word) (xaddr : Option Word) (pc : Word) (irq : Option (Nat × Nat)) {s : State} (h : Keeps s0 s) :
    Keeps s0 (enter c vec cause xaddr pc irq s) := by
  unfold enter
  repeat' (first | intro _ | (simp (maxDischargeDepth := 99) (etaStruct := .none) only [*, enterLockup_keeps, entryPush_keeps, entryRead_keeps, setCtl_keeps, setRegs_keeps, unlatch_keeps, wrb_keeps, Keeps.ite, Keeps.mk_same]; done) | with_reducible assumption | with_reducible rfl | with_reducible apply Keeps.ite | with_reducible apply enterLockup_keeps | with_reducible apply entryPush_keeps | with_reducible apply entryRead_keeps | with_reducible apply setCtl_keeps | with_reducible apply setRegs_keeps | with_reducible apply unlatch_keeps | with_reducible apply wrb_keeps | with_reducible apply Keeps.foldl | with_reducible refine Keeps.foldl_of (p := Prod.snd) ?_ ?_ | with_reducible refine Keeps.foldl_of (p := Prod.fst) ?_ ?_ | split | dsimp only)

theorem raise_keeps {s0 : State} (c : CoreId) (f : Flt) (pc : Word) {s : State} (h : Keeps s0 s) :
    Keeps s0 (raise c f pc s) := enter_keeps _ _ _ _ _ _ h

theorem takeInterrupt_keeps {s0 : State} (c : CoreId) (l : Nat) (src : Nat) (pc : Word) {s : State} (h : Keeps s0 s) :
    Keeps s0 (takeInterrupt c l src pc s) := by
  unfold takeInterrupt
  simp (maxDischargeDepth := 99) (etaStruct := .none) only [h, enter_keeps]

theorem popNow_keeps {s0 : State} (c : CoreId) {s : State} (h : Keeps s0 s) :
    Keeps s0 (popNow c s).2 := by
  unfold popNow
  repeat' (first | intro _ | (simp (maxDischargeDepth := 99) (etaStruct := .none) only [*, entryRead_keeps, setRegs_keeps]; done) | with_reducible assumption | with_reducible rfl | with_reducible apply Keeps.ite | with_reducible apply entryRead_keeps | with_reducible apply setRegs_keeps | with_reducible apply Keeps.foldl | split | dsimp only)

theorem popMany_keeps {s0 : State} (c : CoreId) (n : Nat) {s : State} (h : Keeps s0 s) : Keeps s0 (popMany c n s).2 := by
  induction n generalizing s with
  | zero => exact h
  | succ n ih =>
    have h1 := popNow_keeps c h
    unfold popMany
    split
    · rename_i e; rw [e] at h1; exact ih h1
    · rename_i e; rw [e] at h1; exact h1

theorem returnFrom_keeps {s0 : State} (c : CoreId) {s : State} (h : Keeps s0 s) : Keeps s0 (returnFrom c s) := by
  unfold returnFrom
  have h2 := popMany_keeps c 2 h
  dsimp only
  split
  · have hb : ∀ n, Keeps s0 (popMany c n (popMany c 2 s).2).2 := fun n => popMany_keeps c n h2
    exact Keeps.ite (setRegs_keeps _ _ (Keeps.ite (setCtl_keeps _ _ (hb _)) (hb _))) (enterLockup_keeps _ (hb _))
  · exact enterLockup_keeps _ h2

theorem icacheFill_keeps {s0 : State} (k : Nat) (line : Nat) {s : State} (h : Keeps s0 s) :
    Keeps s0 (icacheFill k line s) := by
  unfold icacheFill
  repeat' (first | intro _ | (simp (maxDischargeDepth := 99) (etaStruct := .none) only [*, keepNoted_keeps, setCtl_keeps, Keeps.ite, Keeps.mk_same]; done) | with_reducible assumption | with_reducible rfl | with_reducible apply Keeps.ite | with_reducible apply keepNoted_keeps | with_reducible apply setCtl_keeps | with_reducible apply Keeps.foldl | split | dsimp only)

theorem fetchLines_keeps {s0 : State} (c : CoreId) (i : AInstr) (pc : Word) {s : State} (h : Keeps s0 s) :
    Keeps s0 (fetchLines c i pc s) := by
  unfold fetchLines
  repeat' (first | intro _ | (simp (maxDischargeDepth := 99) (etaStruct := .none) only [*, icacheFill_keeps, Keeps.ite, Keeps.mk_same]; done) | with_reducible assumption | with_reducible rfl | with_reducible apply Keeps.ite | with_reducible apply icacheFill_keeps | with_reducible apply Keeps.foldl | split | dsimp only)

theorem setRets_keeps {s0 : State} (c : CoreId) (l : List BusRet) {s : State} (h : Keeps s0 s) :
    Keeps s0 (setRets c l s) := by
  unfold setRets
  exact setCtl_keeps _ _ h

theorem attempt_keeps {s0 : State} (c : CoreId) (pc : Word) {p : Run Unit} {s : State} (h : Keeps s0 s)
    (hp : RunKeeps s0 p) : Keeps s0 (attempt c pc p s).state := by
  have h1 := andThen_keeps hp (fun _ => eccCheck_keeps) ⟨s, retsOf c s, [], none⟩ h
  unfold attempt
  dsimp only
  split
  · rename_i e; rw [e] at h1; exact setRets_keeps _ _ h1
  · rename_i e; rw [e] at h1; exact raise_keeps _ _ _ (setRets_keeps _ _ (setRegs_keeps _ _ h1))
  · rename_i e; rw [e] at h1; exact setRets_keeps _ _ (setRegs_keeps _ _ h1)

theorem interruptEntry_keeps {s0 : State} (c : CoreId) {s : State} (h : Keeps s0 s) :
    Keeps s0 (interruptEntry c s) := by
  unfold interruptEntry
  repeat' (first | intro _ | (simp (maxDischargeDepth := 99) (etaStruct := .none) only [*, takeInterrupt_keeps]; done) | with_reducible assumption | with_reducible rfl | with_reducible apply Keeps.ite | with_reducible apply takeInterrupt_keeps | with_reducible apply Keeps.foldl | split | dsimp only)

theorem elemsOver_keeps {s0 : State} (c : CoreId) (op : AOp) (nx : Word) {s : State} (h : Keeps s0 s) :
    Keeps s0 (elemsOver c op nx s) := Keeps.ite (runPlain_keeps () h (blockEnd_keeps _ _ _ _)) h

theorem ctlElems_keeps {s0 : State} (c : CoreId) (op : AOp) (sz : Nat) (pc nx : Word) (k : Nat) {s : State}
    (h : Keeps s0 s) : Keeps s0 (ctlElems c op sz pc nx k s) := by
  induction k generalizing s with
  | zero => exact elemsOver_keeps _ _ _ h
  | succ k ih =>
    have h1 := andThen_keeps (blockElem_keeps (s0 := s0) c op sz)
      (fun b => andThen_keeps eccCheck_keeps fun _ => ret_keeps b) ⟨s, retsOf c s, [], none⟩ h
    unfold ctlElems
    dsimp only
    refine Keeps.ite (elemsOver_keeps _ _ _ h) ?_
    split
    · rename_i e; rw [e] at h1
      have h2 := setRets_keeps c [] h1
      exact Keeps.ite (runPlain_keeps () h2 (blockEnd_keeps _ _ _ _)) (Keeps.ite (elemsOver_keeps _ _ _ h2) (ih h2))
    · rename_i e; rw [e] at h1; exact raise_keeps _ _ _ (setRets_keeps _ _ (setRegs_keeps _ _ h1))
    · rename_i e; rw [e] at h1; exact setRets_keeps _ _ (setRegs_keeps _ _ h1)

theorem ctlBlock_keeps {s0 : State} (c : CoreId) (i : AInstr) (k : Nat) (pc nx : Word) {s : State} (h : Keeps s0 s) :
    Keeps s0 (ctlBlock c i k pc nx s) := by
  unfold ctlBlock
  dsimp only
  refine Keeps.ite (ctlElems_keeps _ _ _ _ _ _ (setRegs_keeps _ _ h)) ?_
  have h1 := attempt_keeps c pc h (blockLoad_keeps (s0 := s0) c i)
  split
  · rename_i e; rw [e] at h1; exact ctlElems_keeps _ _ _ _ _ _ h1
  · rename_i e; rw [e] at h1; exact h1
  · rename_i e; rw [e] at h1; exact h1

theorem ctlWait_keeps {s0 : State} (c : CoreId) (nx : Word) {s : State} (h : Keeps s0 s) :
    Keeps s0 (ctlWait c nx s) := by
  unfold ctlWait
  simp (maxDischargeDepth := 99) (etaStruct := .none) only [h, setCtl_keeps, setRegs_keeps]

theorem ctlRepeat_keeps {s0 : State} (c : CoreId) (i : AInstr) (pc nx addr : Word) (m : Nat) {s : State}
    (h : Keeps s0 s) : Keeps s0 (ctlRepeat c i pc nx addr m s) := by
  induction m generalizing s with
  | zero => exact setRegs_keeps _ _ h
  | succ m ih =>
    unfold ctlRepeat
    dsimp only
    have h1 := attempt_keeps c addr (setRegs_keeps c { regsOf c s with rpt := some (addr, m + 1), pc := pc } h)
      (opBody_keeps (s0 := s0) c i pc nx)
    split
    · rename_i e; rw [e] at h1; exact ih h1
    · rename_i e; rw [e] at h1; exact h1
    · rename_i e; rw [e] at h1; exact h1

theorem ctlIterate_keeps {s0 : State} (c : CoreId) (i : AInstr) (pc nx addr : Word) {s : State} (h : Keeps s0 s) :
    Keeps s0 (ctlIterate c i pc nx addr s) := by
  unfold ctlIterate
  refine Keeps.ite (setRegs_keeps _ _ h) ?_
  have h1 := attempt_keeps c addr h (opBody_keeps (s0 := s0) c i pc nx)
  split
  · rename_i e; rw [e] at h1; exact Keeps.ite (setRegs_keeps _ _ h1) (setRegs_keeps _ _ h1)
  · rename_i e; rw [e] at h1; exact h1
  · rename_i e; rw [e] at h1; exact h1

theorem ctlOnce_keeps {s0 : State} (c : CoreId) (i : AInstr) (k : Nat) (pc nx : Word) {s : State} (h : Keeps s0 s) :
    Keeps s0 (ctlOnce c i k pc nx s) := by
  unfold ctlOnce
  dsimp only
  have h0 := setRegs_keeps c (noPrefix (regsOf c s)) h
  refine Keeps.ite (ctlBlock_keeps _ _ _ _ _ h0) ?_
  split
  · exact returnFrom_keeps _ h0
  · exact ctlWait_keeps _ _ h0
  · exact raise_keeps _ _ _ h0
  · have h1 := attempt_keeps c pc h (opBody_keeps (s0 := s0) c i pc nx)
    split
    · rename_i e; rw [e] at h1; exact setRegs_keeps _ _ h1
    · rename_i e; rw [e] at h1; exact h1
    · rename_i e; rw [e] at h1; exact h1

theorem rptiUndone_keeps {s0 : State} (c : CoreId) {s : State} (h : Keeps s0 s) :
    Keeps s0 (rptiUndone c s) := by
  unfold rptiUndone
  repeat' (first | intro _ | (simp (maxDischargeDepth := 99) (etaStruct := .none) only [*, ctlWrite_keeps, setRegs_keeps, Keeps.ite, Keeps.mk_same]; done) | with_reducible assumption | with_reducible rfl | with_reducible apply Keeps.ite | with_reducible apply ctlWrite_keeps | with_reducible apply setRegs_keeps | with_reducible apply Keeps.foldl | split | dsimp only)

theorem ctlRun_keeps {s0 : State} (c : CoreId) (i : AInstr) (k : Nat) {s : State} (h : Keeps s0 s) :
    Keeps s0 (ctlRun c i k s) := by
  unfold ctlRun
  repeat' (first | intro _ | (simp (maxDischargeDepth := 99) (etaStruct := .none) only [*, ctlIterate_keeps, ctlOnce_keeps, ctlRepeat_keeps, fetchLines_keeps, interruptEntry_keeps, logPriv_keeps, raise_keeps, rptiUndone_keeps, setRegs_keeps, Keeps.ite, Keeps.mk_same]; done) | with_reducible assumption | with_reducible rfl | with_reducible apply Keeps.ite | with_reducible apply ctlIterate_keeps | with_reducible apply ctlOnce_keeps | with_reducible apply ctlRepeat_keeps | with_reducible apply fetchLines_keeps | with_reducible apply interruptEntry_keeps | with_reducible apply logPriv_keeps | with_reducible apply raise_keeps | with_reducible apply rptiUndone_keeps | with_reducible apply setRegs_keeps | with_reducible apply Keeps.foldl | split | dsimp only)

theorem coreRun_keeps {s0 : State} (c : CoreId) (op : AOp) (e : Enc) (cc : Nat) (k : Nat) {s : State} (h : Keeps s0 s) :
    Keeps s0 (coreRun c op e cc k s) := by
  unfold coreRun
  repeat' (first | (simp (maxDischargeDepth := 99) (etaStruct := .none) only [h, ctlRun_keeps, scRun_keeps]; done) | split)

theorem waitWake_keeps {s0 : State} (c : CoreId) {s : State} (h : Keeps s0 s) :
    Keeps s0 (waitWake c s) := by
  unfold waitWake
  repeat' (first | intro _ | (simp (maxDischargeDepth := 99) (etaStruct := .none) only [*, setCtl_keeps, takeInterrupt_keeps, Keeps.ite]; done) | with_reducible assumption | with_reducible rfl | with_reducible apply Keeps.ite | with_reducible apply setCtl_keeps | with_reducible apply takeInterrupt_keeps | with_reducible apply Keeps.foldl | split | dsimp only)

theorem splitReturn_keeps {s0 : State} (i : Nat) {s : State} (h : Keeps s0 s) :
    Keeps s0 (splitReturn i s) := by
  unfold splitReturn
  repeat' (first | (simp (maxDischargeDepth := 99) (etaStruct := .none) only [h, bankSettle_keeps, busRead_keeps, deliverOf_keeps, giveRet_keeps, modBus_keeps]; done) | split)

theorem splitTimeout_keeps {s0 : State} (i : Nat) {s : State} (h : Keeps s0 s) :
    Keeps s0 (splitTimeout i s) := by
  unfold splitTimeout
  repeat' (first | (simp (maxDischargeDepth := 99) (etaStruct := .none) only [h, bankSettle_keeps, giveRet_keeps, logAccess_keeps, modBus_keeps]; done) | split)

end Sys2Proof.Machine
end

