-- ==== Sys2Proof/Laws/KeepsDmaRun.lean ====
section
/-! SUPPORT. What the operations of Machine/DmaRun.lean keep (Laws/Keeps.lean says what that is). -/

namespace Sys2Proof.Machine
open Sys2Proof

theorem readBeats_keeps {s0 : State} (m : Master) (l : List (Nat × Nat × Nat)) {s : State} (h : Keeps s0 s) :
    Keeps s0 (readBeats m l s).2.2 := by
  induction l generalizing s with
  | nil => exact h
  | cons b l ih =>
    have h1 := readNow_keeps m b.1 b.2.1 h
    unfold readBeats
    dsimp only
    split
    · exact h1
    · exact ih h1

theorem dmaWrite_keeps {s0 : State} (n : Nat) (m : Master) (a : Nat) (z : Nat) (v : Nat) {s : State} (h : Keeps s0 s) :
    Keeps s0 (dmaWrite n m a z v s).2 := by
  unfold dmaWrite
  repeat' (first | intro _ | (simp (maxDischargeDepth := 99) (etaStruct := .none) only [*, modDch_keeps, postWrite_keeps, writeNow_keeps, Keeps.ite, Keeps.mk_same, apply_ite Prod.snd]; done) | with_reducible assumption | with_reducible rfl | with_reducible apply Keeps.ite | with_reducible apply modDch_keeps | with_reducible apply postWrite_keeps | with_reducible apply writeNow_keeps | with_reducible apply Keeps.foldl | split | dsimp only)

theorem writeBeats_keeps {s0 : State} (n : Nat) (m : Master) (bytes : List Byte) (l : List (Nat × Nat × Nat)) {s : State}
    (h : Keeps s0 s) : Keeps s0 (writeBeats n m bytes l s).2.2 := by
  induction l generalizing s with
  | nil => exact h
  | cons b l ih =>
    unfold writeBeats
    dsimp only
    split
    · exact h
    · split
      · exact dmaWrite_keeps _ _ _ _ _ h
      · exact ih (dmaWrite_keeps _ _ _ _ _ h)

theorem moveBytes_keeps {s0 : State} (ch : Nat) (m : Master) (d : Desc) (src dst len : Nat) {s : State} (h : Keeps s0 s) :
    Keeps s0 (moveBytes ch m d src dst len s).2.2 := by
  unfold moveBytes
  refine writeBeats_keeps _ _ _ _ ?_
  split
  · exact h
  · exact readBeats_keeps _ _ h

theorem moveElems_keeps {s0 : State} (ch : Nat) (m : Master) (d : Desc) (k e : Nat) {s : State} (h : Keeps s0 s) :
    Keeps s0 (moveElems ch m d k e s).2.2 := by
  induction k generalizing s e with
  | zero => exact h
  | succ k ih =>
    unfold moveElems
    dsimp only
    split
    · exact moveBytes_keeps _ _ _ _ _ _ h
    · exact ih _ (moveBytes_keeps _ _ _ _ _ _ h)

theorem moveLine_keeps {s0 : State} (ch : Fin 128) (d : Desc) {s : State} (h : Keeps s0 s) :
    Keeps s0 (moveLine ch d s) := by
  unfold moveLine
  dsimp only
  split
  · exact modDch_keeps _ _ (moveElems_keeps _ _ _ _ _ h)
  · exact modDch_keeps _ _ (moveBytes_keeps _ _ _ _ _ _ h)

theorem moveLines_keeps {s0 : State} (ch : Fin 128) (d : Desc) (k : Nat) {s : State} (h : Keeps s0 s) :
    Keeps s0 (moveLines ch d k s) := by
  induction k generalizing s with
  | zero => exact h
  | succ k ih => exact Keeps.ite h (ih (moveLine_keeps _ _ h))

theorem chRemain_keeps {s0 : State} (n : Nat) {s : State} (h : Keeps s0 s) :
    Keeps s0 (chRemain n s) := by
  unfold chRemain
  repeat' (first | (simp (maxDischargeDepth := 99) (etaStruct := .none) only [h, wrn_keeps]; done) | split)

theorem chBegin_keeps {s0 : State} (n : Nat) (d : Desc) (regMode : Bool) {s : State} (h : Keeps s0 s) :
    Keeps s0 (chBegin n d regMode s) := by
  unfold chBegin
  simp (maxDischargeDepth := 99) (etaStruct := .none) only [h, draw_keeps, modDch_keeps, Keeps.ite]

theorem fetchWords_keeps {s0 : State} (ch : Fin 128) (a k : Nat) {s : State} (h : Keeps s0 s) :
    Keeps s0 (fetchWords ch a k s).2.2 := by
  induction k generalizing s a with
  | zero => exact h
  | succ k ih =>
    have h1 := readNow_keeps (chMaster ch) a 4 h
    unfold fetchWords
    dsimp only
    split
    · exact h1
    · exact ih _ h1

theorem chBusStop_keeps {s0 : State} (n : Nat) (cause : Nat) (a : Nat) {s : State} (h : Keeps s0 s) :
    Keeps s0 (chBusStop n cause a s) := by
  unfold chBusStop
  simp (maxDischargeDepth := 99) (etaStruct := .none) only [h, chCause_keeps, chStop_keeps, wrn_keeps]

theorem chRunFree_keeps {s0 : State} (ch : Fin 128) {s : State} (h : Keeps s0 s) :
    Keeps s0 (chRunFree ch s) := by
  unfold chRunFree
  repeat' (first | intro _ | (simp (maxDischargeDepth := 99) (etaStruct := .none) only [*, moveLines_keeps, unitsOf_keeps, Keeps.ite, Keeps.mk_same]; done) | with_reducible assumption | with_reducible rfl | with_reducible apply Keeps.ite | with_reducible apply moveLines_keeps | with_reducible apply unitsOf_keeps | with_reducible apply Keeps.foldl | split | dsimp only)

theorem descriptorFetch_keeps {s0 : State} (ch : Fin 128) {s : State} (h : Keeps s0 s) :
    Keeps s0 (descriptorFetch ch s) := by
  unfold descriptorFetch
  repeat' (first | intro _ | (simp (maxDischargeDepth := 99) (etaStruct := .none) only [*, chBegin_keeps, chBusStop_keeps, chRemain_keeps, chRunFree_keeps, fetchWords_keeps, modDch_keeps, Keeps.ite, Keeps.mk_same]; done) | with_reducible assumption | with_reducible rfl | with_reducible apply Keeps.ite | with_reducible apply chBegin_keeps | with_reducible apply chBusStop_keeps | with_reducible apply chRemain_keeps | with_reducible apply chRunFree_keeps | with_reducible apply fetchWords_keeps | with_reducible apply modDch_keeps | with_reducible apply Keeps.foldl | split | dsimp only)

theorem chLatch_keeps {s0 : State} (n : Nat) (i : Nat) {s : State} (h : Keeps s0 s) :
    Keeps s0 (chLatch n i s) := by
  unfold chLatch
  repeat' (first | (simp (maxDischargeDepth := 99) (etaStruct := .none) only [h, wr_keeps, wrn_keeps]; done) | split)

theorem chDelivered_keeps {s0 : State} (ch : Fin 128) (barrier : Bool) {s : State} (h : Keeps s0 s) :
    Keeps s0 (chDelivered ch barrier s) := by
  unfold chDelivered
  repeat' (first | intro _ | (simp (maxDischargeDepth := 99) (etaStruct := .none) only [*, chMaster_keeps, deliverOf_keeps, Keeps.ite, Keeps.mk_same]; done) | with_reducible assumption | with_reducible rfl | with_reducible apply Keeps.ite | with_reducible apply chMaster_keeps | with_reducible apply deliverOf_keeps | with_reducible apply Keeps.foldl | split | dsimp only)

theorem chFinish_keeps {s0 : State} (ch : Fin 128) (d : Desc) {s : State} (h : Keeps s0 s) :
    Keeps s0 (chFinish ch d s) := by
  unfold chFinish
  repeat' (first | intro _ | (simp (maxDischargeDepth := 99) (etaStruct := .none) only [*, chApply_keeps, chBegin_keeps, chBusStop_keeps, chDelivered_keeps, chLatch_keeps, chRemain_keeps, dmaEvent_keeps, modDch_keeps, writeNow_keeps, wrn_keeps, Keeps.ite, Keeps.mk_same]; done) | with_reducible assumption | with_reducible rfl | with_reducible apply Keeps.ite | with_reducible apply chApply_keeps | with_reducible apply chBegin_keeps | with_reducible apply chBusStop_keeps | with_reducible apply chDelivered_keeps | with_reducible apply chLatch_keeps | with_reducible apply chRemain_keeps | with_reducible apply dmaEvent_keeps | with_reducible apply modDch_keeps | with_reducible apply writeNow_keeps | with_reducible apply wrn_keeps | with_reducible apply Keeps.foldl | split | dsimp only)

theorem descriptorCompletion_keeps {s0 : State} (ch : Fin 128) {s : State} (h : Keeps s0 s) :
    Keeps s0 (descriptorCompletion ch s) := by
  unfold descriptorCompletion
  repeat' (first | intro _ | (simp (maxDischargeDepth := 99) (etaStruct := .none) only [*, chFinish_keeps, chRunFree_keeps, Keeps.ite, Keeps.mk_same]; done) | with_reducible assumption | with_reducible rfl | with_reducible apply Keeps.ite | with_reducible apply chFinish_keeps | with_reducible apply chRunFree_keeps | with_reducible apply Keeps.foldl | split | dsimp only)

theorem transferComplete_keeps {s0 : State} (ch : Fin 128) {s : State} (h : Keeps s0 s) :
    Keeps s0 (transferComplete ch s) := by
  unfold transferComplete
  repeat' (first | intro _ | (simp (maxDischargeDepth := 99) (etaStruct := .none) only [*, chBegin_keeps, chDelivered_keeps, chLatch_keeps, dmaEvent_keeps, draw_keeps, modDch_keeps, moveLines_keeps, wrn_keeps, Keeps.ite, Keeps.mk_same]; done) | with_reducible assumption | with_reducible rfl | with_reducible apply Keeps.ite | with_reducible apply chBegin_keeps | with_reducible apply chDelivered_keeps | with_reducible apply chLatch_keeps | with_reducible apply dmaEvent_keeps | with_reducible apply draw_keeps | with_reducible apply modDch_keeps | with_reducible apply moveLines_keeps | with_reducible apply wrn_keeps | with_reducible apply Keeps.foldl | split | dsimp only)

theorem frameLine_keeps {s0 : State} (ch : Fin 128) (d : Desc) {s : State} (h : Keeps s0 s) :
    Keeps s0 (frameLine ch d s) := by
  unfold frameLine
  repeat' (first | (simp (maxDischargeDepth := 99) (etaStruct := .none) only [h, draw_keeps, frameBytes_keeps, modDch_keeps, writeBeats_keeps, Keeps.mk_same, Keeps.ite]; done) | split)

theorem requestLine_keeps {s0 : State} (ch : Fin 128) {s : State} (h : Keeps s0 s) :
    Keeps s0 (requestLine ch s) := by
  unfold requestLine
  repeat' (first | intro _ | (simp (maxDischargeDepth := 99) (etaStruct := .none) only [*, chBegin_keeps, chRemain_keeps, frameLine_keeps, moveLine_keeps, wrn_keeps, Keeps.ite]; done) | with_reducible assumption | with_reducible rfl | with_reducible apply Keeps.ite | with_reducible apply chBegin_keeps | with_reducible apply chRemain_keeps | with_reducible apply frameLine_keeps | with_reducible apply moveLine_keeps | with_reducible apply wrn_keeps | with_reducible apply Keeps.foldl | split | dsimp only)

end Sys2Proof.Machine
end

