-- ==== Sys2Proof/Laws/KeepsHostPort.lean ====
section
/-! SUPPORT. What the operations of Machine/HostPort.lean keep (Laws/Keeps.lean says what that is). -/

namespace Sys2Proof.Machine
open Sys2Proof

theorem regAccess_keeps {s0 : State} (m : Master) (a : Nat) (w : Width) (v : BitVec 64) {s : State} (h : Keeps s0 s) :
    Keeps s0 (regAccess m a w v s) := by
  unfold regAccess
  simp (maxDischargeDepth := 99) (etaStruct := .none) only [h, masterWrite_keeps]

theorem regArrive_keeps {s0 : State} (m : Master) (a : Nat) (w : Width) (v : BitVec 64) {s : State} (h : Keeps s0 s) :
    Keeps s0 (regArrive m a w v s) := by
  unfold regArrive
  repeat' (first | intro _ | (simp (maxDischargeDepth := 99) (etaStruct := .none) only [*, arriveWrite_keeps, Keeps.ite, Keeps.mk_same]; done) | with_reducible assumption | with_reducible rfl | with_reducible apply Keeps.ite | with_reducible apply arriveWrite_keeps | with_reducible apply Keeps.foldl | split | dsimp only)

theorem regFetch_keeps {s0 : State} (m : Master) (a : Nat) (w : Width) {s : State} (h : Keeps s0 s) :
    Keeps s0 (regFetch m a w s) := by
  unfold regFetch
  simp (maxDischargeDepth := 99) (etaStruct := .none) only [h, modBus_keeps, readNow_keeps]

theorem hsError_keeps {s0 : State} (write : Bool) (a : Word) {s : State} (h : Keeps s0 s) :
    Keeps s0 (hsError write a s) := by
  unfold hsError
  simp (maxDischargeDepth := 99) (etaStruct := .none) only [h, modHs_keeps, pulse_keeps, wr_keeps]

theorem hsReads_keeps {s0 : State} (step : Nat) (a : Word) (k : Nat) {s : State} (h : Keeps s0 s) :
    Keeps s0 (hsReads step a k s).2.2 := by
  induction k generalizing s a with
  | zero => exact h
  | succ k ih =>
    exact ih _ (Keeps.ite (hsError_keeps _ _ (readNow_keeps _ _ _ h)) (readNow_keeps _ _ _ h))

theorem hostRead_keeps {s0 : State} (step : Nat) (a : Word) (count : Nat) (cut : Option Nat) {s : State} (h : Keeps s0 s) :
    Keeps s0 (hostRead step a count cut s) := by
  unfold hostRead
  repeat' (first | intro _ | (simp (maxDischargeDepth := 99) (etaStruct := .none) only [*, hsProto_keeps, hsReads_keeps, modHs_keeps, xingDropped_keeps, Keeps.ite, Keeps.mk_same]; done) | with_reducible assumption | with_reducible rfl | with_reducible apply Keeps.ite | with_reducible apply hsProto_keeps | with_reducible apply hsReads_keeps | with_reducible apply modHs_keeps | with_reducible apply xingDropped_keeps | with_reducible apply Keeps.foldl | split | dsimp only)

theorem hostWordWrite_keeps {s0 : State}  {s : State} (h : Keeps s0 s) :
    Keeps s0 (hostWordWrite s) := by
  unfold hostWordWrite
  repeat' (first | (simp (maxDischargeDepth := 99) (etaStruct := .none) only [h, hsError_keeps, masterWrite_keeps, modHs_keeps, Keeps.ite]; done) | split)

end Sys2Proof.Machine
end

