-- ==== Sys2Proof/Laws/KeepsBoot.lean ====
section
/-! SUPPORT. What the operations of Machine/Boot.lean keep (Laws/Keeps.lean says what that is). -/

namespace Sys2Proof.Machine
open Sys2Proof

theorem slotWrite_keeps {s0 : State} (f : SlotRec → SlotRec) {s : State} (h : Keeps s0 s) :
    Keeps s0 (slotWrite f s) := by
  unfold slotWrite
  repeat' (first | intro _ | (simp (maxDischargeDepth := 99) (etaStruct := .none) only [*, mwrBytes_keeps]; done) | with_reducible assumption | with_reducible rfl | with_reducible apply Keeps.ite | with_reducible apply modWard_keeps | with_reducible apply mwrBytes_keeps | with_reducible apply Keeps.foldl | split | dsimp only)

theorem keyPut_keeps {s0 : State} (i : Nat) (k : List Byte) {s : State} (h : Keeps s0 s) :
    Keeps s0 (keyPut i k s) := by
  unfold keyPut
  repeat' (first | intro _ | (simp (maxDischargeDepth := 99) (etaStruct := .none) only [*]; done) | with_reducible assumption | with_reducible rfl | with_reducible apply Keeps.ite | with_reducible apply modWard_keeps | with_reducible apply Keeps.foldl | split | dsimp only)

theorem fuseKeys_keeps {s0 : State}  {s : State} (h : Keeps s0 s) :
    Keeps s0 (fuseKeys s) := by
  unfold fuseKeys
  simp (maxDischargeDepth := 99) (etaStruct := .none) only [h, keyPut_keeps]

theorem loadSlot_keeps {s0 : State}  {s : State} (h : Keeps s0 s) :
    Keeps s0 (loadSlot s) := by
  unfold loadSlot
  repeat' (first | intro _ | (simp (maxDischargeDepth := 99) (etaStruct := .none) only [*, mwrBytes_keeps]; done) | with_reducible assumption | with_reducible rfl | with_reducible apply Keeps.ite | with_reducible apply bootRecord_keeps | with_reducible apply modWard_keeps | with_reducible apply mwrBytes_keeps | with_reducible apply Keeps.foldl | split | dsimp only)

theorem spentTrial_keeps {s0 : State}  {s : State} (h : Keeps s0 s) :
    Keeps s0 (spentTrial s) := by
  unfold spentTrial
  repeat' (first | (simp (maxDischargeDepth := 99) (etaStruct := .none) only [h, bootRecord_keeps, slotWrite_keeps, Keeps.ite]; done) | split)

theorem romMeasures_keeps {s0 : State}  {s : State} (h : Keeps s0 s) :
    Keeps s0 (romMeasures s) := by
  unfold romMeasures
  simp (maxDischargeDepth := 99) (etaStruct := .none) only [h, drawBytes_keeps, draw_keeps, measure_keeps]

theorem coldBoot_keeps {s0 : State} (straps : Nat) {s : State} (h : Keeps s0 s) :
    Keeps s0 (coldBoot straps s) := by
  unfold coldBoot
  repeat' (first | intro _ | (simp (maxDischargeDepth := 99) (etaStruct := .none) only [*, fuseKeys_keeps, loadSlot_keeps, releaseWrite_keeps, romMeasures_keeps, spentTrial_keeps, wrb_keeps]; done) | with_reducible assumption | with_reducible rfl | with_reducible apply Keeps.ite | with_reducible apply fuseKeys_keeps | with_reducible apply loadSlot_keeps | with_reducible apply modRil_keeps | with_reducible apply modWard_keeps | with_reducible apply releaseWrite_keeps | with_reducible apply romMeasures_keeps | with_reducible apply spentTrial_keeps | with_reducible apply wrb_keeps | with_reducible apply Keeps.foldl | split | dsimp only)

theorem bootEnables_keeps {s0 : State}  {s : State} (h : Keeps s0 s) :
    Keeps s0 (bootEnables s) := by
  unfold bootEnables
  repeat' (first | intro _ | (simp (maxDischargeDepth := 99) (etaStruct := .none) only [*, busWrite_keeps]; done) | with_reducible assumption | with_reducible rfl | with_reducible apply Keeps.ite | with_reducible apply busWrite_keeps | with_reducible apply Keeps.foldl | split | dsimp only)

theorem attemptFails_keeps {s0 : State} (k : ImageKind) (c : CopyId) (cause : Nat) {s : State} (h : Keeps s0 s) :
    Keeps s0 (attemptFails k c cause s) := by
  unfold attemptFails
  repeat' (first | intro _ | (simp (maxDischargeDepth := 99) (etaStruct := .none) only [*]; done) | with_reducible assumption | with_reducible rfl | with_reducible apply Keeps.ite | with_reducible apply bootEnables_keeps | with_reducible apply bootRecord_keeps | with_reducible apply forceFault_keeps | with_reducible apply modWard_keeps | with_reducible apply slotWrite_keeps | with_reducible apply wrb_keeps | with_reducible apply Keeps.foldl | split | dsimp only)

theorem attemptPasses_keeps {s0 : State} (k : ImageKind) (m : Meas) (img : BootImg) {s : State} (h : Keeps s0 s) :
    Keeps s0 (attemptPasses k m img s) := by
  unfold attemptPasses
  repeat' (first | intro _ | (simp (maxDischargeDepth := 99) (etaStruct := .none) only [*, measure_keeps]; done) | with_reducible assumption | with_reducible rfl | with_reducible apply Keeps.ite | with_reducible apply measure_keeps | with_reducible apply modWard_keeps | with_reducible apply Keeps.foldl | split | dsimp only)

theorem putTable_keeps {s0 : State} (a : Nat) (b : List Byte) {s : State} (h : Keeps s0 s) :
    Keeps s0 (putTable a b s) := by
  unfold putTable
  repeat' (first | intro _ | (simp (maxDischargeDepth := 99) (etaStruct := .none) only [*, wr_keeps, Keeps.ite, Keeps.mk_same]; done) | with_reducible assumption | with_reducible rfl | with_reducible apply Keeps.ite | with_reducible apply wr_keeps | with_reducible apply Keeps.foldl | with_reducible refine Keeps.foldl_of (p := Prod.snd) ?_ ?_ | with_reducible refine Keeps.foldl_of (p := Prod.fst) ?_ ?_ | split | dsimp only)

theorem stageSection_keeps {s0 : State} (x : Section) (body : List Byte) {s : State} (h : Keeps s0 s) :
    Keeps s0 (stageSection x body s) := by
  unfold stageSection
  repeat' (first | intro _ | (simp (maxDischargeDepth := 99) (etaStruct := .none) only [*, putTable_keeps, stageWritten_keeps, windowWrite_keeps, Keeps.ite, Keeps.mk_same]; done) | with_reducible assumption | with_reducible rfl | with_reducible apply Keeps.ite | with_reducible apply putTable_keeps | with_reducible apply stageWritten_keeps | with_reducible apply windowWrite_keeps | with_reducible apply Keeps.foldl | split | dsimp only)

theorem stageImage_keeps {s0 : State} (b : List Byte) (plain : List Byte) (only : Nat → Bool) {s : State} (h : Keeps s0 s) :
    Keeps s0 (stageImage b plain only s) := by
  unfold stageImage
  repeat' (first | intro _ | (simp (maxDischargeDepth := 99) (etaStruct := .none) only [*, stageSection_keeps, Keeps.ite, Keeps.mk_same]; done) | with_reducible assumption | with_reducible rfl | with_reducible apply Keeps.ite | with_reducible apply stageSection_keeps | with_reducible apply Keeps.foldl | with_reducible refine Keeps.foldl_of (p := Prod.snd) ?_ ?_ | with_reducible refine Keeps.foldl_of (p := Prod.fst) ?_ ?_ | split | dsimp only)

theorem stageWhole_keeps {s0 : State} (b : List Byte) (plain : List Byte) {s : State} (h : Keeps s0 s) :
    Keeps s0 (stageWhole b plain s) := by
  unfold stageWhole
  repeat' (first | intro _ | (simp (maxDischargeDepth := 99) (etaStruct := .none) only [*, stageImage_keeps, Keeps.ite, Keeps.mk_same]; done) | with_reducible assumption | with_reducible rfl | with_reducible apply Keeps.ite | with_reducible apply stageImage_keeps | with_reducible apply Keeps.foldl | split | dsimp only)

theorem unstaged_keeps {s0 : State} {s : State} (h : Keeps s0 s) : Keeps s0 (unstaged s) := by
  have h1 : Keeps s0 { s with eng := { s.eng with sc := [] } } := h.mk_same rfl
  exact Keeps.foldl (fun _ _ ht => mclr_keeps _ _ ht) (wr_keeps _ _ (Keeps.regsFilter _ h1))

theorem stagedAgrees_keeps {s0 : State} (b : List Byte) (plain : List Byte) {s : State} (h : Keeps s0 s) :
    Keeps s0 (stagedAgrees b plain s).2 := by
  unfold stagedAgrees
  repeat' (first | intro _ | (simp (maxDischargeDepth := 99) (etaStruct := .none) only [*, draw_keeps, givenAgrees_keeps, stageWhole_keeps, stagedProgram_keeps, stagedTables_keeps, unstaged_keeps, Keeps.ite, Keeps.mk_same, apply_ite Prod.snd]; done) | with_reducible assumption | with_reducible rfl | with_reducible apply Keeps.ite | with_reducible apply draw_keeps | with_reducible apply givenAgrees_keeps | with_reducible apply stageWhole_keeps | with_reducible apply stagedProgram_keeps | with_reducible apply stagedTables_keeps | with_reducible apply unstaged_keeps | with_reducible apply Keeps.foldl | split | dsimp only)

theorem presetWrite_keeps {s0 : State} (e : Nat × Nat) {s : State} (h : Keeps s0 s) :
    Keeps s0 (presetWrite s e) := by
  unfold presetWrite
  simp (maxDischargeDepth := 99) (etaStruct := .none) only [h, bootRecord_keeps, busWrite_keeps, scLanded_keeps, wrn_keeps, Keeps.ite]

theorem handover_keeps {s0 : State}  {s : State} (h : Keeps s0 s) :
    Keeps s0 (handover s) := by
  unfold handover
  repeat' (first | intro _ | (simp (maxDischargeDepth := 99) (etaStruct := .none) only [*, submitHeld_keeps]; done) | with_reducible assumption | with_reducible rfl | with_reducible apply Keeps.ite | with_reducible apply modWard_keeps | with_reducible apply releaseWrite_keeps | with_reducible apply submitHeld_keeps | with_reducible apply Keeps.foldl | split | dsimp only)

theorem install_keeps {s0 : State} (k : ImageKind) (c : CopyId) (b : List Byte) {s : State} (h : Keeps s0 s) :
    ∀ t, install k c b s = some t → Keeps s0 t := by
  intro t e
  unfold install at e
  generalize (if isJoeno k then joenoPlain s b else bootBody s b).getD [] = body at e
  cases k <;> dsimp only at e
  case stage1 =>
    injection e with e; subst e
    exact setCtl_keeps _ _ (attemptPasses_keeps _ _ _ (mwrBytes_keeps _ _ h))
  case tenant =>
    split at e
    · injection e with e; subst e
      exact releaseWrite_keeps _ (attemptPasses_keeps _ _ _ (modTenant_keeps _ _ (keyPut_keeps _ _ (keyPut_keeps _ _ h))))
    · contradiction
  case preset =>
    split at e
    · injection e with e; subst e
      exact attemptPasses_keeps _ _ _ (Keeps.foldl (fun t x ht => presetWrite_keeps x ht) h)
    · contradiction
  case plan =>
    injection e with e; subst e
    exact modMsg_keeps _ (attemptPasses_keeps _ _ _ h)
  case engine =>
    split at e
    · contradiction
    · split at e
      · injection e with e; subst e
        exact modWard_keeps _ (armSwap_keeps (setVerified_keeps _ (stagedAgrees_keeps _ _ (stageWhole_keeps _ _ h)))) fun _ => rfl
      · contradiction
  case control =>
    injection e with e; subst e
    exact handover_keeps (Keeps.foldl (fun t x ht => wr_keeps _ _ ht) (attemptPasses_keeps _ _ _ (mwrBytes_keeps _ _ h)))

theorem contentLeft_keeps {s0 : State} (k : ImageKind) (b : List Byte) {s : State} (h : Keeps s0 s) :
    Keeps s0 (contentLeft k b s) := by
  unfold contentLeft
  exact Keeps.ite (stagedAgrees_keeps _ _ (stageWhole_keeps _ _ h)) h

theorem attempt'_keeps {s0 : State} (k : ImageKind) (c : CopyId) {s : State} (h : Keeps s0 s) :
    Keeps s0 (attempt' k c s) := by
  unfold attempt'
  extract_lets s1 b cause
  have h1 : Keeps s0 s1 := Keeps.foldl (fun _ _ ht => keepNoted_keeps _ _ ht) h
  clear_value s1
  refine Keeps.ite (attemptFails_keeps _ _ _ h1) ?_
  split
  · rename_i e
    exact install_keeps _ _ _ h1 _ e
  · exact attemptFails_keeps _ _ _ (contentLeft_keeps _ _ h1)

theorem anvSend_keeps {s0 : State} (m : List Byte) {s : State} (h : Keeps s0 s) :
    Keeps s0 (anvSend m s) := by
  unfold anvSend
  repeat' (first | intro _ | (simp (maxDischargeDepth := 99) (etaStruct := .none) only [*]; done) | with_reducible assumption | with_reducible rfl | with_reducible apply Keeps.ite | with_reducible apply modWard_keeps | with_reducible apply Keeps.foldl | split | dsimp only)

theorem askSend_keeps {s0 : State}  {s : State} (h : Keeps s0 s) :
    Keeps s0 (askSend s) := by
  unfold askSend
  repeat' (first | (simp (maxDischargeDepth := 99) (etaStruct := .none) only [h, anvSend_keeps, sendIp_keeps, Keeps.ite]; done) | split)

theorem askNext_keeps {s0 : State} (x : Xfer) {s : State} (h : Keeps s0 s) :
    Keeps s0 (askNext x s) := by
  unfold askNext
  repeat' (first | intro _ | (simp (maxDischargeDepth := 99) (etaStruct := .none) only [*]; done) | with_reducible assumption | with_reducible rfl | with_reducible apply Keeps.ite | with_reducible apply askSend_keeps | with_reducible apply modWard_keeps | with_reducible apply Keeps.foldl | split | dsimp only)

theorem xferStart_keeps {s0 : State} (anvil : Bool) (k : ImageKind) (target : Option RecoverTarget) (reqSeq : BitVec 16) (drawn : List (ImageKind × List Byte)) {s : State} (h : Keeps s0 s) :
    Keeps s0 (xferStart anvil k target reqSeq drawn s) := by
  unfold xferStart
  simp (maxDischargeDepth := 99) (etaStruct := .none) only [h, askNext_keeps]

theorem netBoot_keeps {s0 : State}  {s : State} (h : Keeps s0 s) :
    Keeps s0 (netBoot s) := by
  unfold netBoot
  simp (maxDischargeDepth := 99) (etaStruct := .none) only [h, releaseWrite_keeps, wr_keeps, wrb_keeps, wrf_keeps]

theorem imageAttempt_keeps {s0 : State} (k : ImageKind) (c : CopyId) {s : State} (h : Keeps s0 s) :
    Keeps s0 (imageAttempt k c s) := by
  unfold imageAttempt
  repeat' (first | intro _ | (simp (maxDischargeDepth := 99) (etaStruct := .none) only [*, slotWrite_keeps]; done) | with_reducible assumption | with_reducible rfl | with_reducible apply Keeps.ite | with_reducible apply attempt'_keeps | with_reducible apply attemptFails_keeps | with_reducible apply modWard_keeps | with_reducible apply netBoot_keeps | with_reducible apply slotWrite_keeps | with_reducible apply xferStart_keeps | with_reducible apply Keeps.foldl | split | dsimp only)

theorem bootTimeout_keeps {s0 : State} (k : ImageKind) (c : CopyId) {s : State} (h : Keeps s0 s) :
    Keeps s0 (bootTimeout k c s) := by
  unfold bootTimeout
  simp (maxDischargeDepth := 99) (etaStruct := .none) only [h, attemptFails_keeps, cancelSwap_keeps, Keeps.ite]

theorem networkTimeout_keeps {s0 : State} (k : ImageKind) {s : State} (h : Keeps s0 s) :
    Keeps s0 (networkTimeout k s) := by
  unfold networkTimeout
  simp (maxDischargeDepth := 99) (etaStruct := .none) only [h, attemptFails_keeps, Keeps.ite]

theorem engineDecided_keeps {s0 : State}  {s : State} (h : Keeps s0 s) :
    Keeps s0 (engineDecided s) := by
  unfold engineDecided
  repeat' (first | (simp (maxDischargeDepth := 99) (etaStruct := .none) only [h, attemptFails_keeps, attemptPasses_keeps, Keeps.ite]; done) | split)

theorem planLoad_keeps {s0 : State}  {s : State} (h : Keeps s0 s) :
    Keeps s0 (planLoad s) := by
  unfold planLoad
  simp (maxDischargeDepth := 99) (etaStruct := .none) only [h, bootEnables_keeps, planApply_keeps, Keeps.ite]

theorem recoveryLoader_keeps {s0 : State}  {s : State} (h : Keeps s0 s) :
    Keeps s0 (recoveryLoader s) := by
  unfold recoveryLoader
  repeat' (first | intro _ | (simp (maxDischargeDepth := 99) (etaStruct := .none) only [*]; done) | with_reducible assumption | with_reducible rfl | with_reducible apply Keeps.ite | with_reducible apply forceFault_keeps | with_reducible apply measure_keeps | with_reducible apply modWard_keeps | with_reducible apply Keeps.foldl | split | dsimp only)

end Sys2Proof.Machine
end

