-- ==== Sys2Proof/Laws/KeepsSlots.lean ====
section
/-! SUPPORT. What the operations of Machine/Slots.lean keep (Laws/Keeps.lean says what that is). -/

namespace Sys2Proof.Machine
open Sys2Proof

theorem Keeps.mk_fuses {s0 s : State} (h : Keeps s0 s) {f : Fuses} (hf : FusesGrow s.ward.fuses f) :
    Keeps s0 (s.modWard fun w => { w with fuses := f }) :=
  ⟨fun c => let k := h.canon c; ⟨k.mem, k.flash, k.ecc, k.regs, k.wbPend, k.sqs⟩, h.pend, h.fuses.trans hf⟩

theorem refusedCmd_keeps {s0 : State}  {s : State} (h : Keeps s0 s) :
    Keeps s0 (refusedCmd s).2 := by
  unfold refusedCmd
  simp (maxDischargeDepth := 99) (etaStruct := .none) only [h]

theorem slotWindow_keeps {s0 : State} (b : Bool) (on : Bool) {s : State} (h : Keeps s0 s) :
    Keeps s0 (slotWindow b on s) := by
  unfold slotWindow
  simp (maxDischargeDepth := 99) (etaStruct := .none) only [h, wrb_keeps]

theorem beginSlotAct_keeps {s0 : State} (n : Nat) {s : State} (h : Keeps s0 s) :
    Keeps s0 (beginSlotAct n s).2 := by
  unfold beginSlotAct
  repeat' (first | (simp (maxDischargeDepth := 99) (etaStruct := .none) only [h, refusedCmd_keeps, slotWindow_keeps, slotWrite_keeps]; done) | split)

theorem markPendingAct_keeps {s0 : State} (n : Nat) {s : State} (h : Keeps s0 s) :
    Keeps s0 (markPendingAct n s).2 := by
  unfold markPendingAct
  repeat' (first | (simp (maxDischargeDepth := 99) (etaStruct := .none) +contextual only [h, refusedCmd_keeps, slotWindow_keeps, slotWrite_keeps, Keeps.ite, apply_ite Prod.snd]; done) | split)

theorem confirmAct_keeps {s0 : State}  {s : State} (h : Keeps s0 s) :
    Keeps s0 (confirmAct s).2 := by
  unfold confirmAct
  repeat' (first | (simp (maxDischargeDepth := 99) (etaStruct := .none) only [h, refusedCmd_keeps, slotWrite_keeps]; done) | split)

theorem abandonAct_keeps {s0 : State}  {s : State} (h : Keeps s0 s) :
    Keeps s0 (abandonAct s).2 := by
  unfold abandonAct
  repeat' (first | (simp (maxDischargeDepth := 99) (etaStruct := .none) only [h, refusedCmd_keeps, slotWrite_keeps]; done) | split)

theorem programK_keeps {s0 : State} (rd : Nat → Nat → List Byte) {s : State} (h : Keeps s0 s) :
    Keeps s0 (programK rd s) := by
  unfold programK
  repeat' (first | intro _ | (simp (maxDischargeDepth := 99) (etaStruct := .none) only [*, mwrBytes_keeps]; done) | with_reducible assumption | with_reducible rfl | with_reducible apply Keeps.ite | with_reducible apply mwrBytes_keeps | with_reducible apply Keeps.foldl | split | dsimp only)

theorem writeKAct_keeps {s0 : State} (a : Nat) {s : State} (h : Keeps s0 s) :
    Keeps s0 (writeKAct a s).2 := by
  unfold writeKAct
  repeat' (first | (simp (maxDischargeDepth := 99) (etaStruct := .none) +contextual only [h, programK_keeps, refusedCmd_keeps, Keeps.ite, apply_ite Prod.snd]; done) | split)

theorem programPlan_keeps {s0 : State} (b : List Byte) {s : State} (h : Keeps s0 s) :
    Keeps s0 (programPlan b s) := by
  unfold programPlan
  simp (maxDischargeDepth := 99) (etaStruct := .none) only [h, mwrBytes_keeps, slotWrite_keeps]

theorem writePlanAct_keeps {s0 : State} (a : Nat) {s : State} (h : Keeps s0 s) :
    Keeps s0 (writePlanAct a s).2 := by
  unfold writePlanAct
  repeat' (first | (simp (maxDischargeDepth := 99) (etaStruct := .none) +contextual only [h, modMsg_keeps, programPlan_keeps, refusedCmd_keeps, Keeps.ite, apply_ite Prod.snd]; done) | split)

theorem planHinge_keeps {s0 : State}  {s : State} (h : Keeps s0 s) :
    Keeps s0 (planHinge s) := by
  unfold planHinge
  simp (maxDischargeDepth := 99) (etaStruct := .none) only [h, modMsg_keeps, wrb_keeps, Keeps.ite]

theorem burnFloorAct_keeps {s0 : State} (n : Nat) {s : State} (h : Keeps s0 s) : Keeps s0 (burnFloorAct n s).2 := by
  unfold burnFloorAct
  dsimp only
  split
  · rename_i hn
    exact bootRecord_keeps _ (h.mk_fuses ⟨BitVec.and_self, hn.1, rfl⟩)
  · exact refusedCmd_keeps h

theorem verifyGraphAct_keeps {s0 : State} (a : Nat) {s : State} (h : Keeps s0 s) :
    Keeps s0 (verifyGraphAct a s).2 := by
  unfold verifyGraphAct
  repeat' (first | intro _ | (simp (maxDischargeDepth := 99) (etaStruct := .none) only [*, measure_keeps, setVerified_keeps, stageImage_keeps, stagedAgrees_keeps, Keeps.ite, Keeps.mk_same, apply_ite Prod.snd]; done) | with_reducible assumption | with_reducible rfl | with_reducible apply Keeps.ite | with_reducible apply measure_keeps | with_reducible apply setVerified_keeps | with_reducible apply stageImage_keeps | with_reducible apply stagedAgrees_keeps | with_reducible apply Keeps.foldl | split | dsimp only)

theorem measureAct_keeps {s0 : State} (a : Nat) {s : State} (h : Keeps s0 s) :
    Keeps s0 (measureAct a s).2 := by
  unfold measureAct
  repeat' (first | (simp (maxDischargeDepth := 99) (etaStruct := .none) +contextual only [h, measure_keeps, refusedCmd_keeps, Keeps.ite, apply_ite Prod.snd]; done) | split)

theorem mailboxAct_keeps {s0 : State} (cmd a : Nat) {s : State} (h : Keeps s0 s) : Keeps s0 (mailboxAct cmd a s).2 := by
  have g : ∀ (x : Done) (b : Bool), Keeps s0 x.2 → Keeps s0 (if b then x else ((32, s) : Done)).2 := by
    intro x b hx
    split
    · exact hx
    · exact h
  unfold mailboxAct
  dsimp only
  split
  · exact g _ _ (verifyGraphAct_keeps _ h)
  · exact g _ _ (measureAct_keeps _ h)
  · exact g _ _ (beginSlotAct_keeps _ h)
  · exact g _ _ (markPendingAct_keeps _ h)
  · exact confirmAct_keeps h
  · exact abandonAct_keeps h
  · exact g _ _ (writeKAct_keeps _ h)
  · exact g _ _ (writePlanAct_keeps _ h)
  · exact g _ _ (burnFloorAct_keeps _ h)
  · exact refusedCmd_keeps h

theorem mailboxServe_keeps {s0 : State} {s : State} (h : Keeps s0 s) : Keeps s0 (mailboxServe s) := by
  unfold mailboxServe
  split
  · exact Keeps.ite (modWard_keeps _ (mailboxAct_keeps _ _ h) fun _ => rfl) h
  · exact h

theorem mailboxIssue_keeps {s0 : State} (cmd : Nat) (m : Master) (arg : Word) {s : State} (h : Keeps s0 s) :
    Keeps s0 (mailboxIssue cmd m arg s) :=
  have h2 := masterWrite_keeps m 0x40000600 4 cmd (masterWrite_keeps m 0x40000604 4 arg.toNat h)
  Keeps.ite (mailboxServe_keeps h2) h2

theorem mailboxCompletion_keeps {s0 : State} {s : State} (h : Keeps s0 s) : Keeps s0 (mailboxCompletion s) := by
  have h1 := mailboxServe_keeps h
  unfold mailboxCompletion
  dsimp only
  split
  · exact pulse_keeps _ (modWard_keeps _ h1 fun _ => rfl)
  · exact h1

theorem anvPublish_keeps {s0 : State}  {s : State} (h : Keeps s0 s) :
    Keeps s0 (anvPublish s) := by
  unfold anvPublish
  simp (maxDischargeDepth := 99) (etaStruct := .none) only [h, wrn_keeps]

theorem modAnv_keeps {s0 : State} (f : Anvil → Anvil) {s : State} (h : Keeps s0 s) :
    Keeps s0 (State.modAnv s f) := by
  unfold State.modAnv
  repeat' (first | intro _ | (simp (maxDischargeDepth := 99) (etaStruct := .none) only [*]; done) | with_reducible assumption | with_reducible rfl | with_reducible apply Keeps.ite | with_reducible apply modWard_keeps | with_reducible apply Keeps.foldl | split | dsimp only)

theorem anvClose_keeps {s0 : State}  {s : State} (h : Keeps s0 s) :
    Keeps s0 (anvClose s) := by
  unfold anvClose
  simp (maxDischargeDepth := 99) (etaStruct := .none) only [h, anvPublish_keeps, modAnv_keeps]

theorem rootRevokeAct_keeps {s0 : State} (k : Nat) {s : State} (h : Keeps s0 s) : Keeps s0 (rootRevokeAct k s).2 := by
  unfold rootRevokeAct
  dsimp only
  split
  · exact refusedCmd_keeps h
  · have h1 := fun m => measure_keeps 7 m (draw_keeps (drawBytes_keeps 8
      (h.mk_fuses (f := { s.ward.fuses with rootRevoke := s.ward.fuses.rootRevoke ||| BitVec.ofNat 4 (2 ^ k) })
        ⟨BitVec.eq_of_getLsbD_eq fun i _ => by
          rw [BitVec.getLsbD_and, BitVec.getLsbD_or]; cases s.ward.fuses.rootRevoke.getLsbD i <;> rfl, Nat.le_refl _, rfl⟩)))
    exact Keeps.ite (anvClose_keeps (h1 _)) (h1 _)

theorem anvHinge_keeps {s0 : State}  {s : State} (h : Keeps s0 s) :
    Keeps s0 (anvHinge s) := by
  unfold anvHinge
  simp (maxDischargeDepth := 99) (etaStruct := .none) only [h, modAnv_keeps]

theorem anvDraw_keeps {s0 : State}  {s : State} (h : Keeps s0 s) :
    Keeps s0 (anvDraw s) := by
  unfold anvDraw
  simp (maxDischargeDepth := 99) (etaStruct := .none) only [h, modAnv_keeps, Keeps.ite]

theorem takeMsg_keeps {s0 : State} (m : List Byte) {s : State} (h : Keeps s0 s) :
    Keeps s0 (takeMsg m s) := by
  unfold takeMsg
  simp (maxDischargeDepth := 99) (etaStruct := .none) only [h, anvDraw_keeps, modAnv_keeps]

theorem challengeRequest_keeps {s0 : State} (grant : Word) (seq : BitVec 16) {s : State} (h : Keeps s0 s) :
    Keeps s0 (challengeRequest grant seq s) := by
  unfold challengeRequest
  simp (maxDischargeDepth := 99) (etaStruct := .none) only [h, anvPublish_keeps, anvSend_keeps, modAnv_keeps, slotWrite_keeps, takeMsg_keeps, Keeps.ite]

theorem authenticate_keeps {s0 : State} (b : List Byte) (seq : BitVec 16) {s : State} (h : Keeps s0 s) :
    Keeps s0 (authenticate b seq s) := by
  unfold authenticate
  simp (maxDischargeDepth := 99) (etaStruct := .none) only [h, anvPublish_keeps, anvSend_keeps, bootRecord_keeps, measure_keeps, modAnv_keeps, resetDevice_keeps, takeMsg_keeps, wrb_keeps, Keeps.ite]

theorem transferClose_keeps {s0 : State}  {s : State} (h : Keeps s0 s) :
    Keeps s0 (transferClose s) := by
  unfold transferClose
  simp (maxDischargeDepth := 99) (etaStruct := .none) only [h, anvClose_keeps, takeMsg_keeps, Keeps.ite]

theorem reboot_keeps {s0 : State}  {s : State} (h : Keeps s0 s) :
    Keeps s0 (reboot s) := by
  unfold reboot
  simp (maxDischargeDepth := 99) (etaStruct := .none) only [h, resetDevice_keeps, takeMsg_keeps, Keeps.ite]

theorem mread_keeps {s0 : State} (a : Word) (count : Nat) (seq : BitVec 16) {s : State} (h : Keeps s0 s) :
    Keeps s0 (mread a count seq s) := by
  unfold mread
  simp (maxDischargeDepth := 99) (etaStruct := .none) only [h, anvSend_keeps, takeMsg_keeps, Keeps.ite]

theorem mwrites_keeps {s0 : State} (a : Nat) (l : List Word) {s : State} (h : Keeps s0 s) :
    Keeps s0 (mwrites a l s).2 := by
  induction l generalizing s a with
  | nil => exact h
  | cons v l ih =>
    have h1 := masterWrite_keeps .anvil a 4 v.toNat h
    unfold mwrites
    dsimp only
    split
    · exact ih _ h1
    · exact h1

theorem mwrite_keeps {s0 : State} (a : Word) (words : List Word) (seq : BitVec 16) {s : State} (h : Keeps s0 s) :
    Keeps s0 (mwrite a words seq s) := by
  unfold mwrite
  simp (maxDischargeDepth := 99) (etaStruct := .none) only [h, anvSend_keeps, mwrites_keeps, takeMsg_keeps, Keeps.ite]

theorem tapSet_keeps {s0 : State} (op : JtagOp) (out : Word) {s : State} (h : Keeps s0 s) :
    Keeps s0 (tapSet op out s) := by
  unfold tapSet
  simp (maxDischargeDepth := 99) (etaStruct := .none) only [h, modPower_keeps]

theorem jtagAccess_keeps {s0 : State} (op : JtagOp) {s : State} (h : Keeps s0 s) :
    Keeps s0 (jtagAccess op s) := by
  unfold jtagAccess
  repeat' (first | (simp (maxDischargeDepth := 99) (etaStruct := .none) only [h, draw_keeps, masterWrite_keeps, raise_keeps, setCtl_keeps, tapSet_keeps, Keeps.ite]; done) | split)

theorem tapReset_keeps {s0 : State}  {s : State} (h : Keeps s0 s) :
    Keeps s0 (tapReset s) := by
  unfold tapReset
  simp (maxDischargeDepth := 99) (etaStruct := .none) only [h, tapSet_keeps]

theorem flashPut_keeps {s0 : State} (off : Nat) (b : List Byte) {s : State} (h : Keeps s0 s) :
    Keeps s0 (flashPut off b s) := h.mk_mem id (Memory.wf_memPutBytes _ _ _) id rfl

theorem recoverEnd_keeps {s0 : State} (x : Xfer) (result : Nat) (kind : Nat) {s : State} (h : Keeps s0 s) :
    Keeps s0 (recoverEnd x result kind s) := by
  unfold recoverEnd
  repeat' (first | intro _ | (simp (maxDischargeDepth := 99) (etaStruct := .none) only [*, slotWindow_keeps, slotWrite_keeps, Keeps.ite]; done) | with_reducible assumption | with_reducible rfl | with_reducible apply Keeps.ite | with_reducible apply anvSend_keeps | with_reducible apply modWard_keeps | with_reducible apply slotWindow_keeps | with_reducible apply slotWrite_keeps | with_reducible apply Keeps.foldl | split | dsimp only)

theorem recoverFinish_keeps {s0 : State} (x : Xfer) (drawn : List (ImageKind × List Byte)) {s : State} (h : Keeps s0 s) :
    Keeps s0 (recoverFinish x drawn s) := by
  unfold recoverFinish
  repeat' (first | intro _ | (simp (maxDischargeDepth := 99) (etaStruct := .none) only [*, draw_keeps, flashPut_keeps, programK_keeps, programPlan_keeps, recoverEnd_keeps, slotWindow_keeps, slotWrite_keeps, Keeps.ite]; done) | with_reducible assumption | with_reducible rfl | with_reducible apply Keeps.ite | with_reducible apply draw_keeps | with_reducible apply flashPut_keeps | with_reducible apply programK_keeps | with_reducible apply programPlan_keeps | with_reducible apply recoverEnd_keeps | with_reducible apply slotWindow_keeps | with_reducible apply slotWrite_keeps | with_reducible apply Keeps.foldl | split | dsimp only)

theorem recoverImage_keeps {s0 : State} (x : Xfer) {s : State} (h : Keeps s0 s) :
    Keeps s0 (recoverImage x s) := by
  unfold recoverImage
  repeat' (first | intro _ | (simp (maxDischargeDepth := 99) (etaStruct := .none) only [*, flashPut_keeps, recoverEnd_keeps, recoverFinish_keeps, xferStart_keeps]; done) | with_reducible assumption | with_reducible rfl | with_reducible apply Keeps.ite | with_reducible apply flashPut_keeps | with_reducible apply recoverEnd_keeps | with_reducible apply recoverFinish_keeps | with_reducible apply xferStart_keeps | with_reducible apply Keeps.foldl | split | dsimp only)

theorem recoverMsg_keeps {s0 : State} (t : RecoverTarget) (seq : BitVec 16) {s : State} (h : Keeps s0 s) :
    Keeps s0 (recoverMsg t seq s) := by
  unfold recoverMsg
  repeat' (first | (simp (maxDischargeDepth := 99) (etaStruct := .none) only [h, anvSend_keeps, slotWindow_keeps, slotWrite_keeps, takeMsg_keeps, xferStart_keeps, Keeps.ite]; done) | split)

theorem dataMsg_keeps {s0 : State} (k : ImageKind) (off : Word) (seq : BitVec 16) (bytes : List Byte) {s : State} (h : Keeps s0 s) :
    Keeps s0 (dataMsg k off seq bytes s) := by
  unfold dataMsg
  repeat' (first | intro _ | (simp (maxDischargeDepth := 99) (etaStruct := .none) only [*, askNext_keeps, recoverEnd_keeps, recoverImage_keeps, takeMsg_keeps, Keeps.ite]; done) | with_reducible assumption | with_reducible rfl | with_reducible apply Keeps.ite | with_reducible apply askNext_keeps | with_reducible apply modWard_keeps | with_reducible apply recoverEnd_keeps | with_reducible apply recoverImage_keeps | with_reducible apply takeMsg_keeps | with_reducible apply Keeps.foldl | split | dsimp only)

theorem noneMsg_keeps {s0 : State} (k : ImageKind) {s : State} (h : Keeps s0 s) :
    Keeps s0 (noneMsg k s) := by
  unfold noneMsg
  repeat' (first | (simp (maxDischargeDepth := 99) (etaStruct := .none) only [h, attemptFails_keeps, recoverEnd_keeps, takeMsg_keeps, Keeps.ite]; done) | split)

theorem askTimeout_keeps {s0 : State}  {s : State} (h : Keeps s0 s) :
    Keeps s0 (askTimeout s) := by
  unfold askTimeout
  repeat' (first | intro _ | (simp (maxDischargeDepth := 99) (etaStruct := .none) only [*]; done) | with_reducible assumption | with_reducible rfl | with_reducible apply Keeps.ite | with_reducible apply askSend_keeps | with_reducible apply modWard_keeps | with_reducible apply Keeps.foldl | split | dsimp only)

theorem recoverTimeout_keeps {s0 : State}  {s : State} (h : Keeps s0 s) :
    Keeps s0 (recoverTimeout s) := by
  unfold recoverTimeout
  repeat' (first | (simp (maxDischargeDepth := 99) (etaStruct := .none) only [h, recoverEnd_keeps, Keeps.ite]; done) | split)

theorem statusPublication_keeps {s0 : State}  {s : State} (h : Keeps s0 s) :
    Keeps s0 (statusPublication s) := by
  unfold statusPublication
  simp (maxDischargeDepth := 99) (etaStruct := .none) only [h, modAnv_keeps]

theorem anvilStatus_keeps {s0 : State}  {s : State} (h : Keeps s0 s) :
    Keeps s0 (anvilStatus s) := by
  unfold anvilStatus
  simp (maxDischargeDepth := 99) (etaStruct := .none) only [h, modAnv_keeps]

theorem anvilPut_keeps {s0 : State} (len : Nat) (bytes : List Byte) (crc : Half) (complete : Bool) {s : State} (h : Keeps s0 s) :
    Keeps s0 (anvilPut len bytes crc complete s) := by
  unfold anvilPut
  repeat' (first | intro _ | (simp (maxDischargeDepth := 99) (etaStruct := .none) only [*, anvDraw_keeps, complete_keeps, modAnv_keeps, modWard_keeps, wakeRequest_keeps, wardenInt_keeps, xingDropped_keeps, Keeps.ite, Keeps.mk_same]; done) | with_reducible assumption | with_reducible rfl | with_reducible apply Keeps.ite | with_reducible apply anvDraw_keeps | with_reducible apply complete_keeps | with_reducible apply modAnv_keeps | with_reducible apply modWard_keeps | with_reducible apply wakeRequest_keeps | with_reducible apply wardenInt_keeps | with_reducible apply xingDropped_keeps | with_reducible apply Keeps.foldl | with_reducible refine Keeps.foldl_of (p := Prod.snd) ?_ ?_ | with_reducible refine Keeps.foldl_of (p := Prod.fst) ?_ ?_ | split | dsimp only)

theorem anvilGet_keeps {s0 : State} (rep : Bool) (max' : Nat) {s : State} (h : Keeps s0 s) :
    Keeps s0 (anvilGet rep max' s) := by
  unfold anvilGet
  simp (maxDischargeDepth := 99) (etaStruct := .none) only [h, modAnv_keeps, Keeps.ite]

theorem flashProgram_keeps {s0 : State} (off : Word) (erase : Bool) (bytes : List Byte) {s : State} (h : Keeps s0 s) :
    Keeps s0 (flashProgram off erase bytes s) := by
  unfold flashProgram
  simp (maxDischargeDepth := 99) (etaStruct := .none) only [h, flashPut_keeps, sqSet_keeps, wr_keeps, Keeps.ite]

theorem ceilingRaise_keeps {s0 : State}  {s : State} (h : Keeps s0 s) :
    Keeps s0 (ceilingRaise s) := by
  unfold ceilingRaise
  simp (maxDischargeDepth := 99) (etaStruct := .none) only [h, modRil_keeps, slotWrite_keeps, Keeps.ite]

end Sys2Proof.Machine
end

