-- ==== Sys2Proof/Laws/KeepsSleep.lean ====
section
/-! SUPPORT. What the operations of Machine/Sleep.lean keep (Laws/Keeps.lean says what that is). -/

namespace Sys2Proof.Machine
open Sys2Proof

theorem keepComplete_keeps {s0 : State} (n : Nat) {s : State} (h : Keeps s0 s) : Keeps s0 (keepComplete n s) := by
  induction n generalizing s with
  | zero => exact h
  | succ n ih => exact Keeps.ite (ih (lineProgramDone_keeps _ h)) h

theorem familiesStop_keeps {s0 : State}  {s : State} (h : Keeps s0 s) :
    Keeps s0 (familiesStop s) := by
  unfold familiesStop
  repeat' (first | intro _ | (simp (maxDischargeDepth := 99) (etaStruct := .none) only [*, journalFlush_keeps, keepComplete_keeps, mwrBytes_keeps]; done) | with_reducible assumption | with_reducible rfl | with_reducible apply Keeps.ite | with_reducible apply anvClose_keeps | with_reducible apply journalFlush_keeps | with_reducible apply keepComplete_keeps | with_reducible apply modPorts_keeps | with_reducible apply modWard_keeps | with_reducible apply mwrBytes_keeps | with_reducible apply streamsOff_keeps | with_reducible apply Keeps.foldl | with_reducible apply Keeps.mk_same | split | dsimp only)

theorem restoreWord_keeps {s0 : State} (x : Nat × Word) {s : State} (h : Keeps s0 s) :
    Keeps s0 (restoreWord s x) := by
  unfold restoreWord
  simp (maxDischargeDepth := 99) (etaStruct := .none) only [h, setPending_keeps, wr_keeps, Keeps.ite]

theorem wakeBase_keeps {s0 : State} {s : State} (h : Keeps s0 s) : Keeps s0 (wakeBase s) := by
  have hm := Keeps.foldl (s0 := s0) (l := List.range 16)
    (f := fun s k => s.mclr (0x3800C000 + 0x20000 * k) (0x38014000 + 0x20000 * k)) (fun _ _ ht => mclr_keeps _ _ ht)
    (mclr_keeps 0x30000000 0x30800000 h)
  unfold wakeBase
  generalize List.foldl _ _ _ = m at hm ⊢
  exact ⟨fun c => ⟨(hm.canon c).mem, (h.canon c).flash, (hm.canon c).ecc, twf_filter _ _ _ (h.canon c).regs, rfl,
    twf_filter _ _ _ (h.canon c).sqs⟩, h.pend, h.fuses⟩

theorem wakeClock_keeps {s0 : State} (n : Nat) {s : State} (h : Keeps s0 s) :
    Keeps s0 (wakeClock n s) := by
  unfold wakeClock
  repeat' (first | intro _ | (simp (maxDischargeDepth := 99) (etaStruct := .none) only [*, Keeps.ite, Keeps.mk_same]; done) | with_reducible assumption | with_reducible rfl | with_reducible apply Keeps.ite | with_reducible apply Keeps.foldl | split | dsimp only)

theorem wakeWarden_keeps {s0 : State}  {s : State} (h : Keeps s0 s) :
    Keeps s0 (wakeWarden s) := by
  unfold wakeWarden
  repeat' (first | intro _ | (simp (maxDischargeDepth := 99) (etaStruct := .none) only [*, wr_keeps]; done) | with_reducible assumption | with_reducible rfl | with_reducible apply Keeps.ite | with_reducible apply measure_keeps | with_reducible apply modWard_keeps | with_reducible apply tallySum_keeps | with_reducible apply wr_keeps | with_reducible apply Keeps.foldl | split | dsimp only)

theorem coldWake_keeps {s0 : State}  {s : State} (h : Keeps s0 s) :
    Keeps s0 (coldWake s) := by
  unfold coldWake
  repeat' (first | intro _ | (simp (maxDischargeDepth := 99) (etaStruct := .none) only [*, resetDevice_keeps, wrb_keeps]; done) | with_reducible assumption | with_reducible rfl | with_reducible apply Keeps.ite | with_reducible apply bootRecord_keeps | with_reducible apply modWard_keeps | with_reducible apply resetDevice_keeps | with_reducible apply wrb_keeps | with_reducible apply Keeps.foldl | split | dsimp only)

theorem fastWake_keeps {s0 : State} (straps : Nat) (slept : Nat) {s : State} (h : Keeps s0 s) :
    Keeps s0 (fastWake straps slept s) := by
  unfold fastWake
  repeat' (first | intro _ | (simp (maxDischargeDepth := 99) (etaStruct := .none) only [*, coldWake_keeps, coreStart_keeps, heartbeatsRestart_keeps, journalScan_keeps, modModes_keeps, restoreWord_keeps, senseWake_keeps, sqSetX_keeps, streamsRestart_keeps, wakeBase_keeps, wakeClock_keeps, wakeWarden_keeps, wdogReload_keeps, wrb_keeps, Keeps.ite, Keeps.mk_same]; done) | with_reducible assumption | with_reducible rfl | with_reducible apply Keeps.ite | with_reducible apply coldWake_keeps | with_reducible apply coreStart_keeps | with_reducible apply heartbeatsRestart_keeps | with_reducible apply journalScan_keeps | with_reducible apply modModes_keeps | with_reducible apply restoreWord_keeps | with_reducible apply senseWake_keeps | with_reducible apply sqSetX_keeps | with_reducible apply streamsRestart_keeps | with_reducible apply wakeBase_keeps | with_reducible apply wakeClock_keeps | with_reducible apply wakeWarden_keeps | with_reducible apply wdogReload_keeps | with_reducible apply wrb_keeps | with_reducible apply Keeps.foldl | with_reducible refine Keeps.foldl_of (p := Prod.snd) ?_ ?_ | with_reducible refine Keeps.foldl_of (p := Prod.fst) ?_ ?_ | split | dsimp only)

end Sys2Proof.Machine
end

