-- ==== Sys2Proof/Laws/KeepsDictExec.lean ====
section
/-! SUPPORT. What the operations of Machine/DictExec.lean keep (Laws/Keeps.lean says what that is). -/

namespace Sys2Proof.Machine
open Sys2Proof

theorem placeWrite_keeps {s0 : State} (p : Place) (v : Nat) {s : State} (h : Keeps s0 s) :
    Keeps s0 (placeWrite p v s).2 := by
  unfold placeWrite
  repeat' (first | (simp (maxDischargeDepth := 99) (etaStruct := .none) +contextual only [h, arriveWrite_keeps, Keeps.ite, apply_ite Prod.snd]; done) | split)

theorem dictWord_keeps {s0 : State} (a : Nat) {s : State} (h : Keeps s0 s) :
    Keeps s0 (dictWord a s).2 := by
  unfold dictWord
  simp (maxDischargeDepth := 99) (etaStruct := .none) only [h, readNow_keeps]

theorem dictWords_keeps {s0 : State} (a n : Nat) {s : State} (h : Keeps s0 s) : Keeps s0 (dictWords a n s).2 := by
  induction n generalizing s a with
  | zero => exact h
  | succ n ih =>
    have h1 := dictWord_keeps a h
    unfold dictWords
    split
    · rename_i e; rw [e] at h1; exact h1
    · rename_i e; rw [e] at h1; exact ih _ h1

theorem dictBytes_keeps {s0 : State} (a n : Nat) {s : State} (h : Keeps s0 s) : Keeps s0 (dictBytes a n s).2 := by
  induction n generalizing s a with
  | zero => exact h
  | succ n ih =>
    have h1 := readNow_keeps .dict a 1 h
    unfold dictBytes
    dsimp only
    split
    · exact h1
    · exact ih _ h1

theorem valueRead_keeps {s0 : State} (t i sub : Nat) (r : DRec) {s : State} (h : Keeps s0 s) :
    Keeps s0 (valueRead t i sub r s).2 := by
  unfold valueRead
  dsimp only
  repeat' split
  all_goals first
    | exact h
    | exact dictWord_keeps _ h
    | exact dictBytes_keeps _ _ h
    | exact dictWords_keeps _ _ h

theorem wardenWriteEntry_keeps {s0 : State} (i sub v : Nat) {s : State} (h : Keeps s0 s) :
    Keeps s0 (wardenWriteEntry i sub v s).2 := by
  unfold wardenWriteEntry
  split
  · exact rootRevokeAct_keeps _ h
  · split
    · exact burnFloorAct_keeps _ h
    · split
      · exact abandonAct_keeps h
      · exact h
  · split
    · exact anvClose_keeps h
    · exact h
  · exact h

theorem issued_keeps {s0 : State} (t : State) (a : Nat) {r : Bool × State} (h : Keeps s0 r.2) :
    Keeps s0 (issued t a r).s := h

theorem runOwner_keeps {s0 : State} (t : Nat) (i : Nat) (sub : Nat) {s : State} (h : Keeps s0 s) :
    Keeps s0 (runOwner t i sub s) := by
  unfold runOwner
  simp (maxDischargeDepth := 99) (etaStruct := .none) only [h, setToneOwner_keeps, wrf_keeps, Keeps.ite]

theorem putBytes_keeps {s0 : State} (a : Nat) (l : List Byte) {s : State} (h : Keeps s0 s) : Keeps s0 (putBytes a l s).2 := by
  induction l generalizing s a with
  | nil => exact h
  | cons b l ih => exact ih _ (arriveWrite_keeps _ _ _ _ h)

theorem putWords_keeps {s0 : State} (a n : Nat) (b : List Byte) {s : State} (h : Keeps s0 s) :
    Keeps s0 (putWords a n b s).2 := by
  induction n generalizing s a b with
  | zero => exact h
  | succ n ih => exact ih _ _ (arriveWrite_keeps _ _ _ _ h)

theorem writeNowMember_keeps {s0 : State} (t : Nat) (r : DRec) (m : Member) {s : State} (h : Keeps s0 s) :
    Keeps s0 (writeNowMember t r m s).s := by
  unfold writeNowMember
  dsimp only
  split
  · exact placeWrite_keeps _ _ (runOwner_keeps _ _ _ h)
  · split
    · exact modDict_keeps (fun d => { d with zoneOwner := tset 0 d.zoneOwner (m.index - 0x2100) (leNat m.value) }) h
    · split
      · exact putBytes_keeps _ _ h
      · split
        · exact arriveWrite_keeps _ _ _ _ h
        · split
          · exact arriveWrite_keeps _ _ _ _ h
          · exact putWords_keeps _ _ _ h

theorem stageMember_keeps {s0 : State} (t : Nat) (r : DRec) (m : Member) {s : State} (h : Keeps s0 s) :
    Keeps s0 (stageMember t r m s) := by
  unfold stageMember
  repeat' (first | intro _ | (simp (maxDischargeDepth := 99) (etaStruct := .none) only [*, arriveWrite_keeps]; done) | with_reducible assumption | with_reducible rfl | with_reducible apply Keeps.ite | with_reducible apply arriveWrite_keeps | with_reducible apply putWords_keeps | with_reducible apply Keeps.foldl | split | dsimp only)

theorem landFirst_keeps {s0 : State} (r : DRec) (m : Member) {s : State} (h : Keeps s0 s) :
    Keeps s0 (landFirst r m s) := by
  unfold landFirst
  simp (maxDischargeDepth := 99) (etaStruct := .none) only [h, scLanded_keeps, Keeps.ite]

theorem issueMembers_keeps {s0 : State} (land : Bool) (t g : Nat) (ms : List Member) {s : State} (h : Keeps s0 s) :
    Keeps s0 (issueMembers land t g ms s).s := by
  unfold issueMembers
  dsimp only
  generalize hs1 : List.foldl (fun (s : State) (x : DRec × Member) => stageMember t x.1 x.2 s) s _ = s1
  have h1 : Keeps s0 s1 := by
    rw [← hs1]
    exact Keeps.foldl (fun u x hu => stageMember_keeps _ _ _ hu) h
  clear hs1
  split
  · refine Keeps.foldl_of (p := fun x : Burst => x.s) (fun x r hx => ?_) ?_
    · split
      · exact arriveWrite_keeps _ _ _ _ hx
      · exact arriveWrite_keeps _ _ _ _ hx
    · refine Keeps.foldl_of (p := fun x : Burst => x.s) (fun x r hx => ?_) h1
      exact writeNowMember_keeps _ _ _ (Keeps.ite (landFirst_keeps _ _ hx) hx)
  · generalize hc : List.foldl _ _ _ = c
    have h2 : Keeps s0 c.s := by
      rw [← hc]
      refine Keeps.foldl_of (p := fun x : Burst => x.s) (fun x r hx => ?_) ?_
      · split
        · exact arriveWrite_keeps _ _ _ _ hx
        · exact arriveWrite_keeps _ _ _ _ hx
      · refine Keeps.foldl_of (p := fun x : Burst => x.s) (fun x r hx => ?_) ?_
        · exact writeNowMember_keeps _ _ _ (Keeps.ite (landFirst_keeps _ _ hx) hx)
        · refine Keeps.foldl_of (p := fun x : State × Nat => x.1) (fun x r hx => wr_keeps _ _ (wr_keeps _ _ hx)) ?_
          exact wrn_keeps _ _ (Keeps.regsFilter _ h1)
    split
    · exact commitRequest_keeps _ _ _ h2
    · exact commitRequest_keeps _ _ _ h2

theorem issueWrite_keeps {s0 : State} (t : Nat) (q : Req) {s : State} (h : Keeps s0 s) : Keeps s0 (issueWrite t q s) := by
  unfold issueWrite
  dsimp only
  have hb := fun g => issueMembers_keeps false t g (opMembers q.op) h
  repeat' split
  all_goals first
    | with_reducible exact finish_keeps _ _ _ _ _ _ h
    | with_reducible exact modReq_keeps _ _ _ h
    | with_reducible exact finish_keeps _ _ _ _ _ _ (hb _)
    | with_reducible exact modReq_keeps _ _ _ (hb _)
    | with_reducible exact writeInForce_keeps _ _ _ _ _ (hb _)

theorem restoreDefaults_keeps {s0 : State} (t : Nat) (q : Req) {s : State} (h : Keeps s0 s) :
    Keeps s0 (restoreDefaults t q s) := by
  unfold restoreDefaults
  split
  · exact modReq_keeps _ _ _ h
  · extract_lets ds b s1
    have h1 : Keeps s0 s1 := modDict_keeps _ (noteLengths_keeps _ (issueMembers_keeps _ _ _ _ h))
    clear_value s1
    exact Keeps.ite (modReq_keeps _ _ _ h1) (writeInForce_keeps _ _ _ _ _ h1)

theorem readRequest_keeps {s0 : State} (t tag : Nat) {s : State} (h : Keeps s0 s) : Keeps s0 (readRequest t tag s) := by
  unfold readRequest
  dsimp only
  repeat' split
  all_goals first
    | exact h
    | exact finish_keeps _ _ _ _ _ _ h
    | exact passHandler_keeps _ _ h
    | exact finish_keeps _ _ _ _ _ _ (valueRead_keeps _ _ _ _ h)

theorem tenantWrite_keeps {s0 : State} (t : Nat) (q : Req) (m : Member) {s : State} (h : Keeps s0 s) :
    ∀ u, tenantWrite t q m s = some u → Keeps s0 u := by
  intro u e
  unfold tenantWrite at e
  dsimp only at e
  split at e
  · split at e
    · injection e with e; subst e
      exact modReq_keeps _ _ _ (requestReset_keeps _ _ h)
    · split at e
      · injection e with e; subst e
        exact modReq_keeps _ _ _ (requestReset_keeps _ _ h)
      · injection e with e; subst e
        exact writeInForce_keeps _ _ _ _ _ h
    · split at e
      · rename_i u' hu
        injection e with e; subst e
        cases hq : q.sess with
        | none => rw [hq] at hu; cases hu
        | some n =>
          rw [hq] at hu
          exact writeInForce_keeps _ _ _ _ _ (createTenant_keeps _ _ _ h _ hu)
      · injection e with e; subst e
        exact finish_keeps _ _ _ _ _ _ h
    · contradiction
  · contradiction

theorem executeWrite_keeps {s0 : State} (t : Nat) (q : Req) (m : Member) {s : State} (h : Keeps s0 s) :
    Keeps s0 (executeWrite t q m s) := by
  unfold executeWrite
  dsimp only
  have hw := wardenWriteEntry_keeps m.index m.sub (leNat m.value) h
  split
  · split
    · exact Keeps.ite (writeInForce_keeps _ _ _ _ _ hw) (finish_keeps _ _ _ _ _ _ hw)
    · exact h
  · split
    · exact h
    · split
      · exact passHandler_keeps _ _ h
      · split
        · rename_i e; exact tenantWrite_keeps _ _ _ h _ e
        · exact Keeps.ite (Keeps.ite (restoreDefaults_keeps _ _ h) (writeInForce_keeps _ _ _ _ _ h)) (issueWrite_keeps _ _ h)

theorem writeRequest_keeps {s0 : State} (t tag : Nat) {s : State} (h : Keeps s0 s) : Keeps s0 (writeRequest t tag s) := by
  unfold writeRequest
  repeat' split
  all_goals first | exact h | exact executeWrite_keeps _ _ _ h

theorem groupRequest_keeps {s0 : State} (t : Nat) (tag : Nat) {s : State} (h : Keeps s0 s) :
    Keeps s0 (groupRequest t tag s) := by
  unfold groupRequest
  repeat' (first | (simp (maxDischargeDepth := 99) (etaStruct := .none) only [h, modReq_keeps]; done) | split)

theorem burst_keeps {s0 : State} (t tag : Nat) {s : State} (h : Keeps s0 s) : Keeps s0 (burst t tag s) := by
  unfold burst
  repeat' split
  all_goals first | exact h | exact executeWrite_keeps _ _ _ h | exact issueWrite_keeps _ _ h

theorem subscribeSet_keeps {s0 : State} (t : Nat) (kind : Nat) (x : Option Subscr) {s : State} (h : Keeps s0 s) :
    Keeps s0 (subscribeSet t kind x s) := by
  unfold subscribeSet
  simp (maxDischargeDepth := 99) (etaStruct := .none) only [h, modTenant_keeps]

theorem subscribeRequest_keeps {s0 : State} (t : Nat) (tag : Nat) {s : State} (h : Keeps s0 s) :
    Keeps s0 (subscribeRequest t tag s) := by
  unfold subscribeRequest
  repeat' (first | (simp (maxDischargeDepth := 99) (etaStruct := .none) only [h, finish_keeps, subscribeSet_keeps]; done) | split)

theorem unsubscribeRequest_keeps {s0 : State} (t : Nat) (tag : Nat) {s : State} (h : Keeps s0 s) :
    Keeps s0 (unsubscribeRequest t tag s) := by
  unfold unsubscribeRequest
  repeat' (first | (simp (maxDischargeDepth := 99) (etaStruct := .none) only [h, finish_keeps, subscribeSet_keeps]; done) | split)

theorem nopRequest_keeps {s0 : State} (t : Nat) (tag : Nat) {s : State} (h : Keeps s0 s) :
    Keeps s0 (nopRequest t tag s) := by
  unfold nopRequest
  repeat' (first | (simp (maxDischargeDepth := 99) (etaStruct := .none) only [h, finish_keeps]; done) | split)

theorem tenantDeletion_keeps {s0 : State} (t : Nat) {s : State} (h : Keeps s0 s) :
    Keeps s0 (tenantDeletion t s) := by
  unfold tenantDeletion
  simp (maxDischargeDepth := 99) (etaStruct := .none) only [h, requestReset_keeps, Keeps.ite]

theorem dictEnable_keeps {s0 : State} {s : State} (h : Keeps s0 s) : Keeps s0 (dictEnable s) := by
  unfold dictEnable
  split
  · split
    · exact dictEvent_keeps _ _ (wrb_keeps _ _ _ (modDict_keeps _ h))
    · extract_lets a b es half vals s1 s2
      have h1 : Keeps s0 s1 := noteLengths_keeps _ (issueMembers_keeps _ _ _ _ h)
      clear_value s1
      exact modDict_keeps _ (heartbeatsRestart_keeps (Keeps.ite (dictEvent_keeps _ _ h1) h1))
  · exact h

end Sys2Proof.Machine
end

