-- ==== Sys2Proof/Laws/KeepsFrames.lean ====
section
/-! SUPPORT. What the operations of Machine/Frames.lean keep (Laws/Keeps.lean says what that is). -/

namespace Sys2Proof.Machine
open Sys2Proof

theorem bridgesStrike_keeps {s0 : State} (d : Dom) {s : State} (h : Keeps s0 s) :
    Keeps s0 (bridgesStrike d s) := by
  unfold bridgesStrike
  repeat' (first | intro _ | (simp (maxDischargeDepth := 99) (etaStruct := .none) only [*, asyncFrame_keeps, bridgeIn_keeps, bridgeOut_keeps]; done) | with_reducible assumption | with_reducible rfl | with_reducible apply Keeps.ite | with_reducible apply asyncFrame_keeps | with_reducible apply bridgeIn_keeps | with_reducible apply bridgeOut_keeps | with_reducible apply Keeps.foldl | split | dsimp only)

theorem portsStrike_keeps {s0 : State} (d : Dom) (din : List (Nat × List Word)) {s : State} (h : Keeps s0 s) :
    Keeps s0 (portsStrike d din s) := by
  unfold portsStrike
  repeat' (first | intro _ | (simp (maxDischargeDepth := 99) (etaStruct := .none) only [*, portFrame_keeps]; done) | with_reducible assumption | with_reducible rfl | with_reducible apply Keeps.ite | with_reducible apply portFrame_keeps | with_reducible apply Keeps.foldl | split | dsimp only)

theorem mediaStrike_keeps {s0 : State} (mic : List Word) (sense : List Word) {s : State} (h : Keeps s0 s) :
    Keeps s0 (mediaStrike mic sense s) := by
  unfold mediaStrike
  simp (maxDischargeDepth := 99) (etaStruct := .none) only [h, convertersFrame_keeps, monitorFrame_keeps, playersFrame_keeps, qnchFrame_keeps, tonesFrame_keeps, txStreamsFrame_keeps, vtFrame_keeps, weldFrame_keeps]

theorem commonStrike_keeps {s0 : State} (d : Dom) (inp : StrikeIn) {s : State} (h : Keeps s0 s) :
    Keeps s0 (commonStrike d inp s) := by
  unfold commonStrike
  simp (maxDischargeDepth := 99) (etaStruct := .none) only [h, bridgesStrike_keeps, destsStep_keeps, portsStrike_keeps, spwsFrame_keeps, strikeCores_keeps, Keeps.ite]

theorem strike_keeps {s0 : State} (d : Dom) (inp : StrikeIn) {s : State} (h : Keeps s0 s) :
    Keeps s0 (strike d inp s) := by
  unfold strike
  repeat' (first | intro _ | (simp (maxDischargeDepth := 99) (etaStruct := .none) only [*, commonStrike_keeps, eccUpset_keeps, frameAdvance_keeps, mediaStrike_keeps, pilotsAdvance_keeps, pilotsScale_keeps, rxStreamsFrame_keeps, senseStrike_keeps, Keeps.ite, Keeps.mk_same]; done) | with_reducible assumption | with_reducible rfl | with_reducible apply Keeps.ite | with_reducible apply commonStrike_keeps | with_reducible apply eccUpset_keeps | with_reducible apply frameAdvance_keeps | with_reducible apply mediaStrike_keeps | with_reducible apply pilotsAdvance_keeps | with_reducible apply pilotsScale_keeps | with_reducible apply rxStreamsFrame_keeps | with_reducible apply senseStrike_keeps | with_reducible apply Keeps.foldl | with_reducible refine Keeps.foldl_of (p := Prod.snd) ?_ ?_ | with_reducible refine Keeps.foldl_of (p := Prod.fst) ?_ ?_ | split | dsimp only)

theorem housekeeping_keeps {s0 : State} (d : Dom) {s : State} (h : Keeps s0 s) :
    Keeps s0 (housekeeping d s) := by
  unfold housekeeping
  repeat' (first | intro _ | (simp (maxDischargeDepth := 99) (etaStruct := .none) only [*, housekeep_keeps, senseBuffered_keeps, summaryCheck_keeps, Keeps.ite, Keeps.mk_same]; done) | with_reducible assumption | with_reducible rfl | with_reducible apply Keeps.ite | with_reducible apply housekeep_keeps | with_reducible apply senseBuffered_keeps | with_reducible apply summaryCheck_keeps | with_reducible apply Keeps.foldl | split | dsimp only)

theorem hingeClock_keeps {s0 : State}  {s : State} (h : Keeps s0 s) :
    Keeps s0 (hingeClock s) := by
  unfold hingeClock
  repeat' (first | (simp (maxDischargeDepth := 99) (etaStruct := .none) only [h, clockHinge_keeps, rxCounterStep_keeps]; done) | split)

theorem hingeBuffered_keeps {s0 : State}  {s : State} (h : Keeps s0 s) :
    Keeps s0 (hingeBuffered s) := by
  unfold hingeBuffered
  simp (maxDischargeDepth := 99) (etaStruct := .none) only [h, bridgeBuffered_keeps, engBuffered_keeps, msgBuffered_keeps, portsBuffered_keeps, qnchBuffered_keeps, tdmBuffered_keeps, toneBuffered_keeps, weldBuffered_keeps]

theorem hingeSwap_keeps {s0 : State}  {s : State} (h : Keeps s0 s) :
    Keeps s0 (hingeSwap s).1 := by
  unfold hingeSwap
  simp (maxDischargeDepth := 99) (etaStruct := .none) only [h, engineDecided_keeps, swapStep_keeps]

theorem tempHinge_keeps {s0 : State}  {s : State} (h : Keeps s0 s) :
    Keeps s0 (tempHinge s) := by
  unfold tempHinge
  repeat' (first | intro _ | (simp (maxDischargeDepth := 99) (etaStruct := .none) only [*, Keeps.ite, Keeps.mk_same]; done) | with_reducible assumption | with_reducible rfl | with_reducible apply Keeps.ite | with_reducible apply Keeps.foldl | split | dsimp only)

theorem hingeEnd_keeps {s0 : State}  {s : State} (h : Keeps s0 s) :
    Keeps s0 (hingeEnd s) := by
  unfold hingeEnd
  repeat' (first | intro _ | (simp (maxDischargeDepth := 99) (etaStruct := .none) only [*, anvHinge_keeps, dictHinge_keeps, dmaHinge_keeps, evtHinge_keeps, senseHinge_keeps, tempHinge_keeps, vtHingeBegin_keeps, vtHingeEnd_keeps, wdogsHinge_keeps, weldHingeEnd_keeps, Keeps.ite, Keeps.mk_same]; done) | with_reducible assumption | with_reducible rfl | with_reducible apply Keeps.ite | with_reducible apply anvHinge_keeps | with_reducible apply dictHinge_keeps | with_reducible apply dmaHinge_keeps | with_reducible apply evtHinge_keeps | with_reducible apply senseHinge_keeps | with_reducible apply tempHinge_keeps | with_reducible apply vtHingeBegin_keeps | with_reducible apply vtHingeEnd_keeps | with_reducible apply wdogsHinge_keeps | with_reducible apply weldHingeEnd_keeps | with_reducible apply Keeps.foldl | split | dsimp only)

theorem sleepCount_keeps {s0 : State}  {s : State} (h : Keeps s0 s) :
    Keeps s0 (sleepCount s) := by
  unfold sleepCount
  simp (maxDischargeDepth := 99) (etaStruct := .none) only [h, modModes_keeps, Keeps.ite]

theorem hinge_keeps {s0 : State}  {s : State} (h : Keeps s0 s) :
    Keeps s0 (hinge s) := by
  unfold hinge
  repeat' (first | intro _ | (simp (maxDischargeDepth := 99) (etaStruct := .none) only [*, commitStep_keeps, haltsDue_keeps, hingeBuffered_keeps, hingeClock_keeps, hingeEnd_keeps, hingeSwap_keeps, modeStep_keeps, planHinge_keeps, refreshStarted_keeps, sleepCount_keeps, summaryCheck_keeps, tenantsH1_keeps, tenantsH2_keeps, Keeps.ite, Keeps.mk_same]; done) | with_reducible assumption | with_reducible rfl | with_reducible apply Keeps.ite | with_reducible apply commitStep_keeps | with_reducible apply haltsDue_keeps | with_reducible apply hingeBuffered_keeps | with_reducible apply hingeClock_keeps | with_reducible apply hingeEnd_keeps | with_reducible apply hingeSwap_keeps | with_reducible apply modeStep_keeps | with_reducible apply planHinge_keeps | with_reducible apply refreshStarted_keeps | with_reducible apply sleepCount_keeps | with_reducible apply summaryCheck_keeps | with_reducible apply tenantsH1_keeps | with_reducible apply tenantsH2_keeps | with_reducible apply Keeps.foldl | split | dsimp only)

end Sys2Proof.Machine
end

