-- ==== Sys2Proof/Laws/KeepsGlue.lean ====
section
/-! SUPPORT. What the operations of Machine/Glue.lean keep (Laws/Keeps.lean says what that is). -/

namespace Sys2Proof.Machine
open Sys2Proof

theorem requestAcknowledge_keeps {s0 : State} (x : Nat) {s : State} (h : Keeps s0 s) :
    Keeps s0 (requestAcknowledge x s) := by
  unfold requestAcknowledge
  repeat' (first | (simp (maxDischargeDepth := 99) (etaStruct := .none) only [h, netAcknowledge_keeps, scLanded_keeps, summaryCheck_keeps]; done) | split)

theorem slowNotice_keeps {s0 : State} (b : Word) {s : State} (h : Keeps s0 s) :
    Keeps s0 (slowNotice b s) := by
  unfold slowNotice
  repeat' (first | intro _ | (simp (maxDischargeDepth := 99) (etaStruct := .none) only [*, sqSet_keeps, Keeps.ite, Keeps.mk_same]; done) | with_reducible assumption | with_reducible rfl | with_reducible apply Keeps.ite | with_reducible apply sqSet_keeps | with_reducible apply Keeps.foldl | split | dsimp only)

theorem mergedNotification_keeps {s0 : State} (x : Nat) {s : State} (h : Keeps s0 s) :
    Keeps s0 (mergedNotification x s) := by
  unfold mergedNotification
  repeat' (first | intro _ | (simp (maxDischargeDepth := 99) (etaStruct := .none) only [*, micArrive_keeps, monitorNotice_keeps, noticeArrive_keeps, slowNotice_keeps, sqSet_keeps, tickArrive_keeps, Keeps.ite, Keeps.mk_same]; done) | with_reducible assumption | with_reducible rfl | with_reducible apply Keeps.ite | with_reducible apply micArrive_keeps | with_reducible apply monitorNotice_keeps | with_reducible apply noticeArrive_keeps | with_reducible apply slowNotice_keeps | with_reducible apply sqSet_keeps | with_reducible apply tickArrive_keeps | with_reducible apply Keeps.foldl | split | dsimp only)

theorem watchdogReset_keeps {s0 : State} (c : Nat) {s : State} (h : Keeps s0 s) :
    Keeps s0 (watchdogReset c s) := by
  unfold watchdogReset
  simp (maxDischargeDepth := 99) (etaStruct := .none) only [h, coreReset_keeps, Keeps.ite]

end Sys2Proof.Machine
end

