-- ==== Sys2Proof/Laws/Meanings.lean ====
section
/-! SUPPORT. What every meaning keeps, one lemma per meaning: it answers a next state, and that state keeps what Laws/Keeps.lean
says. -/

namespace Sys2Proof.Machine
open Sys2Proof

/-- The meaning answers a state that keeps what every operation keeps. -/
def Follows (s : State) (o : Host.Outcome State Fault Refusal) : Prop := ∃ t, o = .next t ∧ Keeps s t

theorem execStrike_keeps (d : Dom) (inp : StrikeIn)  (s : State) : Follows s (execStrike d inp s) :=
  ⟨_, rfl, by apply strike_keeps; exact Keeps.refl s⟩

theorem execHousekeeping_keeps (d : Dom)  (s : State) : Follows s (execHousekeeping d s) :=
  ⟨_, rfl, by apply housekeeping_keeps; exact Keeps.refl s⟩

theorem execHinge_keeps  (s : State) : Follows s (execHinge s) :=
  ⟨_, rfl, by apply hinge_keeps; exact Keeps.refl s⟩

theorem execFamiliesStop_keeps  (s : State) : Follows s (execFamiliesStop s) :=
  ⟨_, rfl, by apply familiesStop_keeps; exact Keeps.refl s⟩

theorem execCoreHalted_keeps (n : Fin 16)  (s : State) : Follows s (execCoreHalted n s) :=
  ⟨_, rfl, by apply coreHalted_keeps; exact Keeps.refl s⟩

theorem execHingeTick_keeps (lead : Int)  (s : State) : Follows s (execHingeTick lead s) :=
  ⟨_, rfl, by apply hingeTick_keeps; exact Keeps.refl s⟩

theorem execHoldoverLapse_keeps  (s : State) : Follows s (execHoldoverLapse s) :=
  ⟨_, rfl, by apply holdoverLapse_keeps; exact Keeps.refl s⟩

theorem execBridgeRun_keeps (n : Fin 32)  (s : State) : Follows s (execBridgeRun n s) :=
  ⟨_, rfl, by apply bridgeRun_keeps; exact Keeps.refl s⟩

theorem execBridgeStopped_keeps (n : Fin 32)  (s : State) : Follows s (execBridgeStopped n s) :=
  ⟨_, rfl, by apply bridgeStopped_keeps; exact Keeps.refl s⟩

theorem execPatternStep_keeps (g : Fin 64)  (s : State) : Follows s (execPatternStep g s) :=
  ⟨_, rfl, by apply patternStep_keeps; exact Keeps.refl s⟩

theorem execGeneratorStopped_keeps (g : Fin 64)  (s : State) : Follows s (execGeneratorStopped g s) :=
  ⟨_, rfl, by apply generatorStopped_keeps; exact Keeps.refl s⟩

theorem execMov_keeps (c : CoreId) (e : Enc)  (s : State) : Follows s (execMov c e s) :=
  ⟨_, rfl, by apply coreRun_keeps; exact Keeps.refl s⟩

theorem execPush_keeps (c : CoreId) (e : Enc)  (s : State) : Follows s (execPush c e s) :=
  ⟨_, rfl, by apply coreRun_keeps; exact Keeps.refl s⟩

theorem execPop_keeps (c : CoreId) (e : Enc)  (s : State) : Follows s (execPop c e s) :=
  ⟨_, rfl, by apply coreRun_keeps; exact Keeps.refl s⟩

theorem execAdd_keeps (c : CoreId) (e : Enc)  (s : State) : Follows s (execAdd c e s) :=
  ⟨_, rfl, by apply coreRun_keeps; exact Keeps.refl s⟩

theorem execSub_keeps (c : CoreId) (e : Enc)  (s : State) : Follows s (execSub c e s) :=
  ⟨_, rfl, by apply coreRun_keeps; exact Keeps.refl s⟩

theorem execCmp_keeps (c : CoreId) (e : Enc)  (s : State) : Follows s (execCmp c e s) :=
  ⟨_, rfl, by apply coreRun_keeps; exact Keeps.refl s⟩

theorem execTst_keeps (c : CoreId) (e : Enc)  (s : State) : Follows s (execTst c e s) :=
  ⟨_, rfl, by apply coreRun_keeps; exact Keeps.refl s⟩

theorem execAnd_keeps (c : CoreId) (e : Enc)  (s : State) : Follows s (execAnd c e s) :=
  ⟨_, rfl, by apply coreRun_keeps; exact Keeps.refl s⟩

theorem execOr_keeps (c : CoreId) (e : Enc)  (s : State) : Follows s (execOr c e s) :=
  ⟨_, rfl, by apply coreRun_keeps; exact Keeps.refl s⟩

theorem execXor_keeps (c : CoreId) (e : Enc)  (s : State) : Follows s (execXor c e s) :=
  ⟨_, rfl, by apply coreRun_keeps; exact Keeps.refl s⟩

theorem execNot_keeps (c : CoreId) (e : Enc)  (s : State) : Follows s (execNot c e s) :=
  ⟨_, rfl, by apply coreRun_keeps; exact Keeps.refl s⟩

theorem execNeg_keeps (c : CoreId) (e : Enc)  (s : State) : Follows s (execNeg c e s) :=
  ⟨_, rfl, by apply coreRun_keeps; exact Keeps.refl s⟩

theorem execShl_keeps (c : CoreId) (e : Enc)  (s : State) : Follows s (execShl c e s) :=
  ⟨_, rfl, by apply coreRun_keeps; exact Keeps.refl s⟩

theorem execShr_keeps (c : CoreId) (e : Enc)  (s : State) : Follows s (execShr c e s) :=
  ⟨_, rfl, by apply coreRun_keeps; exact Keeps.refl s⟩

theorem execAsr_keeps (c : CoreId) (e : Enc)  (s : State) : Follows s (execAsr c e s) :=
  ⟨_, rfl, by apply coreRun_keeps; exact Keeps.refl s⟩

theorem execMul_keeps (c : CoreId) (e : Enc)  (s : State) : Follows s (execMul c e s) :=
  ⟨_, rfl, by apply coreRun_keeps; exact Keeps.refl s⟩

theorem execMac_keeps (c : CoreId) (e : Enc)  (s : State) : Follows s (execMac c e s) :=
  ⟨_, rfl, by apply coreRun_keeps; exact Keeps.refl s⟩

theorem execMacr_keeps (c : CoreId) (e : Enc)  (s : State) : Follows s (execMacr c e s) :=
  ⟨_, rfl, by apply coreRun_keeps; exact Keeps.refl s⟩

theorem execSat_keeps (c : CoreId) (e : Enc)  (s : State) : Follows s (execSat c e s) :=
  ⟨_, rfl, by apply coreRun_keeps; exact Keeps.refl s⟩

theorem execAddd_keeps (c : CoreId) (e : Enc)  (s : State) : Follows s (execAddd c e s) :=
  ⟨_, rfl, by apply coreRun_keeps; exact Keeps.refl s⟩

theorem execSubd_keeps (c : CoreId) (e : Enc)  (s : State) : Follows s (execSubd c e s) :=
  ⟨_, rfl, by apply coreRun_keeps; exact Keeps.refl s⟩

theorem execDadj_keeps (c : CoreId) (e : Enc)  (s : State) : Follows s (execDadj c e s) :=
  ⟨_, rfl, by apply coreRun_keeps; exact Keeps.refl s⟩

theorem execB2bcd_keeps (c : CoreId) (e : Enc)  (s : State) : Follows s (execB2bcd c e s) :=
  ⟨_, rfl, by apply coreRun_keeps; exact Keeps.refl s⟩

theorem execBcd2b_keeps (c : CoreId) (e : Enc)  (s : State) : Follows s (execBcd2b c e s) :=
  ⟨_, rfl, by apply coreRun_keeps; exact Keeps.refl s⟩

theorem execDigit_keeps (c : CoreId) (e : Enc)  (s : State) : Follows s (execDigit c e s) :=
  ⟨_, rfl, by apply coreRun_keeps; exact Keeps.refl s⟩

theorem execLin_keeps (c : CoreId) (e : Enc)  (s : State) : Follows s (execLin c e s) :=
  ⟨_, rfl, by apply coreRun_keeps; exact Keeps.refl s⟩

theorem execLout_keeps (c : CoreId) (e : Enc)  (s : State) : Follows s (execLout c e s) :=
  ⟨_, rfl, by apply coreRun_keeps; exact Keeps.refl s⟩

theorem execTap_keeps (c : CoreId) (e : Enc)  (s : State) : Follows s (execTap c e s) :=
  ⟨_, rfl, by apply coreRun_keeps; exact Keeps.refl s⟩

theorem execTput_keeps (c : CoreId) (e : Enc)  (s : State) : Follows s (execTput c e s) :=
  ⟨_, rfl, by apply coreRun_keeps; exact Keeps.refl s⟩

theorem execBqd_keeps (c : CoreId) (e : Enc)  (s : State) : Follows s (execBqd c e s) :=
  ⟨_, rfl, by apply coreRun_keeps; exact Keeps.refl s⟩

theorem execSkpCc_keeps (c : CoreId) (cc : Fin 16) (e : Enc)  (s : State) : Follows s (execSkpCc c cc e s) :=
  ⟨_, rfl, by apply coreRun_keeps; exact Keeps.refl s⟩

theorem execRpt_keeps (c : CoreId) (e : Enc)  (s : State) : Follows s (execRpt c e s) :=
  ⟨_, rfl, by apply coreRun_keeps; exact Keeps.refl s⟩

theorem execRpti_keeps (c : CoreId) (e : Enc)  (s : State) : Follows s (execRpti c e s) :=
  ⟨_, rfl, by apply coreRun_keeps; exact Keeps.refl s⟩

theorem execJmp_keeps (c : CoreId) (e : Enc)  (s : State) : Follows s (execJmp c e s) :=
  ⟨_, rfl, by apply coreRun_keeps; exact Keeps.refl s⟩

theorem execJcc_keeps (c : CoreId) (cc : Fin 16) (e : Enc)  (s : State) : Follows s (execJcc c cc e s) :=
  ⟨_, rfl, by apply coreRun_keeps; exact Keeps.refl s⟩

theorem execCall_keeps (c : CoreId) (e : Enc)  (s : State) : Follows s (execCall c e s) :=
  ⟨_, rfl, by apply coreRun_keeps; exact Keeps.refl s⟩

theorem execRet_keeps (c : CoreId) (e : Enc)  (s : State) : Follows s (execRet c e s) := by
  refine ⟨_, rfl, ?_⟩
  repeat' (first | with_reducible exact Keeps.refl _ | with_reducible apply coreRun_keeps | with_reducible apply ret_keeps | split | dsimp only)

theorem execReti_keeps (c : CoreId) (e : Enc)  (s : State) : Follows s (execReti c e s) :=
  ⟨_, rfl, by apply coreRun_keeps; exact Keeps.refl s⟩

theorem execEndFrame_keeps (c : CoreId) (e : Enc)  (s : State) : Follows s (execEndFrame c e s) :=
  ⟨_, rfl, by apply coreRun_keeps; exact Keeps.refl s⟩

theorem execNop_keeps (c : CoreId) (e : Enc)  (s : State) : Follows s (execNop c e s) :=
  ⟨_, rfl, by apply coreRun_keeps; exact Keeps.refl s⟩

theorem execWait_keeps (c : CoreId) (e : Enc)  (s : State) : Follows s (execWait c e s) :=
  ⟨_, rfl, by apply coreRun_keeps; exact Keeps.refl s⟩

theorem execWaitWake_keeps (c : CoreId)  (s : State) : Follows s (execWaitWake c s) :=
  ⟨_, rfl, by apply waitWake_keeps; exact Keeps.refl s⟩

theorem execSysCall_keeps (c : CoreId) (e : Enc)  (s : State) : Follows s (execSysCall c e s) :=
  ⟨_, rfl, by apply coreRun_keeps; exact Keeps.refl s⟩

theorem execMfs_keeps (c : CoreId) (e : Enc)  (s : State) : Follows s (execMfs c e s) :=
  ⟨_, rfl, by apply coreRun_keeps; exact Keeps.refl s⟩

theorem execMts_keeps (c : CoreId) (e : Enc)  (s : State) : Follows s (execMts c e s) :=
  ⟨_, rfl, by apply coreRun_keeps; exact Keeps.refl s⟩

theorem execBmov_keeps (c : CoreId) (e : Enc) (k : Nat)  (s : State) : Follows s (execBmov c e k s) :=
  ⟨_, rfl, by apply coreRun_keeps; exact Keeps.refl s⟩

theorem execBfil_keeps (c : CoreId) (e : Enc) (k : Nat)  (s : State) : Follows s (execBfil c e k s) :=
  ⟨_, rfl, by apply coreRun_keeps; exact Keeps.refl s⟩

theorem execBcmp_keeps (c : CoreId) (e : Enc) (k : Nat)  (s : State) : Follows s (execBcmp c e k s) :=
  ⟨_, rfl, by apply coreRun_keeps; exact Keeps.refl s⟩

theorem execBscn_keeps (c : CoreId) (e : Enc) (k : Nat)  (s : State) : Follows s (execBscn c e k s) :=
  ⟨_, rfl, by apply coreRun_keeps; exact Keeps.refl s⟩

theorem execBcrc_keeps (c : CoreId) (e : Enc) (k : Nat)  (s : State) : Follows s (execBcrc c e k s) :=
  ⟨_, rfl, by apply coreRun_keeps; exact Keeps.refl s⟩

theorem execInterruptEntry_keeps (c : CoreId)  (s : State) : Follows s (execInterruptEntry c s) :=
  ⟨_, rfl, by apply interruptEntry_keeps; exact Keeps.refl s⟩

theorem execInvalidateDataLine_keeps (c : Fin 4)  (s : State) : Follows s (execInvalidateDataLine c s) :=
  ⟨_, rfl, by apply cacheOp_keeps; exact Keeps.refl s⟩

theorem execInvalidateDataCache_keeps (c : Fin 4)  (s : State) : Follows s (execInvalidateDataCache c s) :=
  ⟨_, rfl, by apply cacheOp_keeps; exact Keeps.refl s⟩

theorem execInvalidateInstructionLine_keeps (c : Fin 4)  (s : State) : Follows s (execInvalidateInstructionLine c s) :=
  ⟨_, rfl, by apply cacheOp_keeps; exact Keeps.refl s⟩

theorem execInvalidateInstructionCache_keeps (c : Fin 4)  (s : State) : Follows s (execInvalidateInstructionCache c s) :=
  ⟨_, rfl, by apply cacheOp_keeps; exact Keeps.refl s⟩

theorem execDoorbell_keeps (m : Master) (w : Width) (v : BitVec 64)  (s : State) : Follows s (execDoorbell m w v s) :=
  ⟨_, rfl, by apply regAccess_keeps; exact Keeps.refl s⟩

theorem execIntClr_keeps (m : Master) (k : Fin 8) (w : Width) (v : BitVec 64)  (s : State) : Follows s (execIntClr m k w v s) :=
  ⟨_, rfl, by apply regAccess_keeps; exact Keeps.refl s⟩

theorem execRegisterWrite_keeps (m : Master) (a : Word) (w : Width) (v : BitVec 64)  (s : State) : Follows s (execRegisterWrite m a w v s) :=
  ⟨_, rfl, by apply regAccess_keeps; exact Keeps.refl s⟩

theorem execSetAliasWrite_keeps (m : Master) (a : Word) (w : Width) (v : BitVec 64)  (s : State) : Follows s (execSetAliasWrite m a w v s) :=
  ⟨_, rfl, by apply regAccess_keeps; exact Keeps.refl s⟩

theorem execClearAliasWrite_keeps (m : Master) (a : Word) (w : Width) (v : BitVec 64)  (s : State) : Follows s (execClearAliasWrite m a w v s) :=
  ⟨_, rfl, by apply regAccess_keeps; exact Keeps.refl s⟩

theorem execToggleAliasWrite_keeps (m : Master) (a : Word) (w : Width) (v : BitVec 64)  (s : State) : Follows s (execToggleAliasWrite m a w v s) :=
  ⟨_, rfl, by apply regAccess_keeps; exact Keeps.refl s⟩

theorem execClearOnRead_keeps (m : Master) (a : Word) (w : Width)  (s : State) : Follows s (execClearOnRead m a w s) :=
  ⟨_, rfl, by apply regFetch_keeps; exact Keeps.refl s⟩

theorem execSqWriteBack_keeps (m : Master) (a : Word) (w : Width) (v : BitVec 64)  (s : State) : Follows s (execSqWriteBack m a w v s) :=
  ⟨_, rfl, by apply regAccess_keeps; exact Keeps.refl s⟩

theorem execWbWrite_keeps (m : Master) (a : Word) (w : Width) (v : BitVec 64)  (s : State) : Follows s (execWbWrite m a w v s) :=
  ⟨_, rfl, by apply regAccess_keeps; exact Keeps.refl s⟩

theorem execWdWrite_keeps (m : Master) (a : Word) (w : Width) (v : BitVec 64)  (s : State) : Follows s (execWdWrite m a w v s) :=
  ⟨_, rfl, by apply regAccess_keeps; exact Keeps.refl s⟩

theorem execScWrite_keeps (m : Master) (a : Word) (w : Width) (v : BitVec 64)  (s : State) : Follows s (execScWrite m a w v s) :=
  ⟨_, rfl, by apply regAccess_keeps; exact Keeps.refl s⟩

theorem execScWriteLanded_keeps  (s : State) : Follows s (execScWriteLanded s) :=
  ⟨_, rfl, by apply scLanded_keeps; exact Keeps.refl s⟩

theorem execLoWrite_keeps (m : Master) (a : Word) (w : Width) (v : BitVec 64)  (s : State) : Follows s (execLoWrite m a w v s) :=
  ⟨_, rfl, by apply regAccess_keeps; exact Keeps.refl s⟩

theorem execHiWrite_keeps (m : Master) (a : Word) (w : Width) (v : BitVec 64)  (s : State) : Follows s (execHiWrite m a w v s) :=
  ⟨_, rfl, by apply regAccess_keeps; exact Keeps.refl s⟩

theorem execPostedWriteDelivery_keeps (toAudio : Bool)  (s : State) : Follows s (execPostedWriteDelivery toAudio s) :=
  ⟨_, rfl, by apply deliverNext_keeps; exact Keeps.refl s⟩

theorem execSplitReadReturn_keeps (i : Nat)  (s : State) : Follows s (execSplitReadReturn i s) :=
  ⟨_, rfl, by apply splitReturn_keeps; exact Keeps.refl s⟩

theorem execSplitTimeout_keeps (i : Nat)  (s : State) : Follows s (execSplitTimeout i s) :=
  ⟨_, rfl, by apply splitTimeout_keeps; exact Keeps.refl s⟩

theorem execFlashBankWrite_keeps (m : Master) (w : Width) (v : BitVec 64)  (s : State) : Follows s (execFlashBankWrite m w v s) :=
  ⟨_, rfl, by apply regAccess_keeps; exact Keeps.refl s⟩

theorem execRequestAcknowledge_keeps (x : Fin 22)  (s : State) : Follows s (execRequestAcknowledge x s) :=
  ⟨_, rfl, by apply requestAcknowledge_keeps; exact Keeps.refl s⟩

theorem execMergedNotification_keeps (x : Fin 22)  (s : State) : Follows s (execMergedNotification x s) :=
  ⟨_, rfl, by apply mergedNotification_keeps; exact Keeps.refl s⟩

theorem execFifoResync_keeps (x : Fin 14)  (s : State) : Follows s (execFifoResync x s) :=
  ⟨_, rfl, by apply fifoResync_keeps; exact Keeps.refl s⟩

theorem execSlowClockLost_keeps  (s : State) : Follows s (execSlowClockLost s) :=
  ⟨_, rfl, by apply slowLost_keeps; exact Keeps.refl s⟩

theorem execNetworkClockLost_keeps  (s : State) : Follows s (execNetworkClockLost s) :=
  ⟨_, rfl, by apply netLost_keeps; exact Keeps.refl s⟩

theorem execCrystalLost_keeps  (s : State) : Follows s (execCrystalLost s) :=
  ⟨_, rfl, by apply crystalLost_keeps; exact Keeps.refl s⟩

theorem execMediaPllUnlock_keeps  (s : State) : Follows s (execMediaPllUnlock s) :=
  ⟨_, rfl, by apply mediaUnlock_keeps; exact Keeps.refl s⟩

theorem execClockQualified_keeps (k : ClockId)  (s : State) : Follows s (execClockQualified k s) :=
  ⟨_, rfl, by apply clockQualified_keeps; exact Keeps.refl s⟩

theorem execNetTimeout_keeps  (s : State) : Follows s (execNetTimeout s) :=
  ⟨_, rfl, by apply netTimeout_keeps; exact Keeps.refl s⟩

theorem execShadowWrite_keeps (m : Master) (a : Word) (w : Width) (v : BitVec 64)  (s : State) : Follows s (execShadowWrite m a w v s) :=
  ⟨_, rfl, by apply regArrive_keeps; exact Keeps.refl s⟩

theorem execCommitRequest_keeps (m : Master) (hi : Bool) (w : Width) (v : BitVec 64)  (s : State) : Follows s (execCommitRequest m hi w v s) :=
  ⟨_, rfl, by apply regAccess_keeps; exact Keeps.refl s⟩

theorem execCoefBankCopyEnd_keeps (n : Fin 16)  (s : State) : Follows s (execCoefBankCopyEnd n s) :=
  ⟨_, rfl, by apply coefCopyEnd_keeps; exact Keeps.refl s⟩

theorem execArmSwap_keeps (m : Master) (w : Width) (v : BitVec 64)  (s : State) : Follows s (execArmSwap m w v s) :=
  ⟨_, rfl, by apply regAccess_keeps; exact Keeps.refl s⟩

theorem execCancelSwap_keeps (m : Master) (w : Width) (v : BitVec 64)  (s : State) : Follows s (execCancelSwap m w v s) :=
  ⟨_, rfl, by apply regAccess_keeps; exact Keeps.refl s⟩

theorem execNodeWrite_keeps (m : Master) (a : Word) (w : Width) (v : BitVec 64)  (s : State) : Follows s (execNodeWrite m a w v s) :=
  ⟨_, rfl, by apply regArrive_keeps; exact Keeps.refl s⟩

theorem execClaim_keeps (m : Master) (w : Width) (v : BitVec 64)  (s : State) : Follows s (execClaim m w v s) :=
  ⟨_, rfl, by apply regAccess_keeps; exact Keeps.refl s⟩

theorem execRelease_keeps (m : Master) (w : Width) (v : BitVec 64)  (s : State) : Follows s (execRelease m w v s) :=
  ⟨_, rfl, by apply regAccess_keeps; exact Keeps.refl s⟩

theorem execReleaseAll_keeps (m : Master) (w : Width) (v : BitVec 64)  (s : State) : Follows s (execReleaseAll m w v s) :=
  ⟨_, rfl, by apply regAccess_keeps; exact Keeps.refl s⟩

theorem execReceivedFrame_keeps (p : Fin 6) (slots : List Word) (spacingOk : Bool) (phase : Nat)  (s : State) : Follows s (execReceivedFrame p slots spacingOk phase s) :=
  ⟨_, rfl, by apply receivedFrame_keeps; exact Keeps.refl s⟩

theorem execNoFrame_keeps (p : Fin 6)  (s : State) : Follows s (execNoFrame p s) :=
  ⟨_, rfl, by apply noFrame_keeps; exact Keeps.refl s⟩

theorem execLinkUp_keeps (portB : Bool)  (s : State) : Follows s (execLinkUp portB s) :=
  ⟨_, rfl, by apply linkChange_keeps; exact Keeps.refl s⟩

theorem execLinkDown_keeps (portB : Bool)  (s : State) : Follows s (execLinkDown portB s) :=
  ⟨_, rfl, by apply linkChange_keeps; exact Keeps.refl s⟩

theorem execFrameReceived_keeps (portB : Bool) (f : NetFrame) (dt : Nat)  (s : State) : Follows s (execFrameReceived portB f dt s) :=
  ⟨_, rfl, by apply frameReceived_keeps; exact Keeps.refl s⟩

theorem execSupervisionFrame_keeps  (s : State) : Follows s (execSupervisionFrame s) :=
  ⟨_, rfl, by apply supervisionFrame_keeps; exact Keeps.refl s⟩

theorem execNodeForget_keeps (mac : BitVec 48)  (s : State) : Follows s (execNodeForget mac s) :=
  ⟨_, rfl, by apply nodeForget_keeps; exact Keeps.refl s⟩

theorem execTransmitPacket_keeps (k : Fin 64)  (s : State) : Follows s (execTransmitPacket k s) :=
  ⟨_, rfl, by apply transmitPacket_keeps; exact Keeps.refl s⟩

theorem execMissingPacket_keeps (k : Fin 64)  (s : State) : Follows s (execMissingPacket k s) :=
  ⟨_, rfl, by apply missingPacket_keeps; exact Keeps.refl s⟩

theorem execOffsetReturn_keeps (k : Fin 64)  (s : State) : Follows s (execOffsetReturn k s) :=
  ⟨_, rfl, by apply offsetReturn_keeps; exact Keeps.refl s⟩

theorem execStreamEnable_keeps (tx : Bool) (k : Fin 64)  (s : State) : Follows s (execStreamEnable tx k s) :=
  ⟨_, rfl, by apply streamEnable_keeps; exact Keeps.refl s⟩

theorem execIgmpReport_keeps (k : Fin 64)  (s : State) : Follows s (execIgmpReport k s) :=
  ⟨_, rfl, by apply igmpReport_keeps; exact Keeps.refl s⟩

theorem execStepPtp_keeps (m : Master) (w : Width) (v : BitVec 64)  (s : State) : Follows s (execStepPtp m w v s) :=
  ⟨_, rfl, by apply regAccess_keeps; exact Keeps.refl s⟩

theorem execSnapPtp_keeps (m : Master) (w : Width) (v : BitVec 64)  (s : State) : Follows s (execSnapPtp m w v s) :=
  ⟨_, rfl, by apply regAccess_keeps; exact Keeps.refl s⟩

theorem execSyncTimeout_keeps  (s : State) : Follows s (execSyncTimeout s) :=
  ⟨_, rfl, by apply syncTimeout_keeps; exact Keeps.refl s⟩

theorem execPpsOut_keeps  (s : State) : Follows s (execPpsOut s) :=
  ⟨_, rfl, by apply ppsOut_keeps; exact Keeps.refl s⟩

theorem execPpsOutEnd_keeps  (s : State) : Follows s (execPpsOutEnd s) :=
  ⟨_, rfl, by apply ppsOutEnd_keeps; exact Keeps.refl s⟩

theorem execPpsInEdge_keeps (cycles : Nat)  (s : State) : Follows s (execPpsInEdge cycles s) :=
  ⟨_, rfl, by apply ppsInEdge_keeps; exact Keeps.refl s⟩

theorem execRequestPlacement_keeps (t : Fin 8) (rank : Fin 8) (tag : BitVec 16) (op : ReqOp)  (s : State) : Follows s (execRequestPlacement t rank tag op s) :=
  ⟨_, rfl, by apply requestPlacement_keeps; exact Keeps.refl s⟩

theorem execRequestTake_keeps  (s : State) : Follows s (execRequestTake s) :=
  ⟨_, rfl, by apply requestTake_keeps; exact Keeps.refl s⟩

theorem execResponseHoldRelease_keeps (t : Fin 8)  (s : State) : Follows s (execResponseHoldRelease t s) :=
  ⟨_, rfl, by apply responseHoldRelease_keeps; exact Keeps.refl s⟩

theorem execReadReq_keeps (t : Fin 8) (tag : BitVec 16)  (s : State) : Follows s (execReadReq t tag s) :=
  ⟨_, rfl, by apply readRequest_keeps; exact Keeps.refl s⟩

theorem execWriteReq_keeps (t : Fin 8) (tag : BitVec 16)  (s : State) : Follows s (execWriteReq t tag s) :=
  ⟨_, rfl, by apply writeRequest_keeps; exact Keeps.refl s⟩

theorem execWriteGroupReq_keeps (t : Fin 8) (tag : BitVec 16)  (s : State) : Follows s (execWriteGroupReq t tag s) :=
  ⟨_, rfl, by apply groupRequest_keeps; exact Keeps.refl s⟩

theorem execSubscribeReq_keeps (t : Fin 8) (tag : BitVec 16)  (s : State) : Follows s (execSubscribeReq t tag s) :=
  ⟨_, rfl, by apply subscribeRequest_keeps; exact Keeps.refl s⟩

theorem execUnsubscribeReq_keeps (t : Fin 8) (tag : BitVec 16)  (s : State) : Follows s (execUnsubscribeReq t tag s) :=
  ⟨_, rfl, by apply unsubscribeRequest_keeps; exact Keeps.refl s⟩

theorem execRequestNop_keeps (t : Fin 8) (tag : BitVec 16)  (s : State) : Follows s (execRequestNop t tag s) :=
  ⟨_, rfl, by apply nopRequest_keeps; exact Keeps.refl s⟩

theorem execBurst_keeps (t : Fin 8) (tag : BitVec 16)  (s : State) : Follows s (execBurst t tag s) :=
  ⟨_, rfl, by apply burst_keeps; exact Keeps.refl s⟩

theorem execHdone_keeps (m : Master) (w : Width) (v : BitVec 64)  (s : State) : Follows s (execHdone m w v s) :=
  ⟨_, rfl, by apply regAccess_keeps; exact Keeps.refl s⟩

theorem execHandlerTimeout_keeps (slot : Fin 1024)  (s : State) : Follows s (execHandlerTimeout slot s) :=
  ⟨_, rfl, by apply handlerTimeout_keeps; exact Keeps.refl s⟩

theorem execPersistRecord_keeps (ok : Bool)  (s : State) : Follows s (execPersistRecord ok s) :=
  ⟨_, rfl, by apply persistRecord_keeps; exact Keeps.refl s⟩

theorem execCompaction_keeps  (s : State) : Follows s (execCompaction s) :=
  ⟨_, rfl, by apply compaction_keeps; exact Keeps.refl s⟩

theorem execDictEnable_keeps  (s : State) : Follows s (execDictEnable s) :=
  ⟨_, rfl, by apply dictEnable_keeps; exact Keeps.refl s⟩

theorem execHeartbeatLost_keeps (t : Fin 8)  (s : State) : Follows s (execHeartbeatLost t s) :=
  ⟨_, rfl, by apply heartbeatLost_keeps; exact Keeps.refl s⟩

theorem execTenantReset_keeps (m : Master) (w : Width) (v : BitVec 64)  (s : State) : Follows s (execTenantReset m w v s) :=
  ⟨_, rfl, by apply regAccess_keeps; exact Keeps.refl s⟩

theorem execTenantCreation_keeps (t : Fin 8) (blob : List Byte) (sess : Fin 32)  (s : State) : Follows s (execTenantCreation t blob sess s) :=
  ⟨_, rfl, by apply tenantCreation_keeps; exact Keeps.refl s⟩

theorem execTenantDeletion_keeps (t : Fin 8)  (s : State) : Follows s (execTenantDeletion t s) :=
  ⟨_, rfl, by apply tenantDeletion_keeps; exact Keeps.refl s⟩

theorem execLocalRequest_keeps (m : Master) (q : Fin 64) (w : Width) (v : BitVec 64)  (s : State) : Follows s (execLocalRequest m q w v s) :=
  ⟨_, rfl, by apply regAccess_keeps; exact Keeps.refl s⟩

theorem execOpenSession_keeps (tr : Transport) (ip : Word) (port : Nat) (msg : List Byte) (sid : Word)  (s : State) : Follows s (execOpenSession tr ip port msg sid s) :=
  ⟨_, rfl, by apply openMessage_keeps; exact Keeps.refl s⟩

theorem execCeilingRaise_keeps  (s : State) : Follows s (execCeilingRaise s) :=
  ⟨_, rfl, by apply ceilingRaise_keeps; exact Keeps.refl s⟩

theorem execRequestMsg_keeps (tr : Transport) (ip : Word) (port : Nat) (msg : List Byte)  (s : State) : Follows s (execRequestMsg tr ip port msg s) :=
  ⟨_, rfl, by apply requestMessage_keeps; exact Keeps.refl s⟩

theorem execCloseSession_keeps (tr : Transport) (ip : Word) (port : Nat) (msg : List Byte)  (s : State) : Follows s (execCloseSession tr ip port msg s) :=
  ⟨_, rfl, by apply closeMessage_keeps; exact Keeps.refl s⟩

theorem execSessionIdle_keeps (n : Fin 32)  (s : State) : Follows s (execSessionIdle n s) :=
  ⟨_, rfl, by apply sessionIdle_keeps; exact Keeps.refl s⟩

theorem execSessClose_keeps (m : Master) (w : Width) (v : BitVec 64)  (s : State) : Follows s (execSessClose m w v s) :=
  ⟨_, rfl, by apply regAccess_keeps; exact Keeps.refl s⟩

theorem execResponseMsg_keeps (n : Fin 32)  (s : State) : Follows s (execResponseMsg n s) :=
  ⟨_, rfl, by apply responseMessage_keeps; exact Keeps.refl s⟩

theorem execEventMsg_keeps (t : Fin 8) (tap : Bool)  (s : State) : Follows s (execEventMsg t tap s) :=
  ⟨_, rfl, by apply eventMessage_keeps; exact Keeps.refl s⟩

theorem execCanFrameReceived_keeps (k : Fin 2) (f : CanFrame) (bad : Bool)  (s : State) : Follows s (execCanFrameReceived k f bad s) :=
  ⟨_, rfl, by apply canReceived_keeps; exact Keeps.refl s⟩

theorem execReassemblyTimeout_keeps (k : Fin 2) (ident : Nat)  (s : State) : Follows s (execReassemblyTimeout k ident s) :=
  ⟨_, rfl, by apply reassemblyTimeout_keeps; exact Keeps.refl s⟩

theorem execBusOffRecovery_keeps (k : Fin 2)  (s : State) : Follows s (execBusOffRecovery k s) :=
  ⟨_, rfl, by apply busOffRecovery_keeps; exact Keeps.refl s⟩

theorem execCanTxreq_keeps (m : Master) (k : Fin 2) (w : Width) (v : BitVec 64)  (s : State) : Follows s (execCanTxreq m k w v s) :=
  ⟨_, rfl, by apply regAccess_keeps; exact Keeps.refl s⟩

theorem execReceiveWindowRead_keeps (m : Master) (k : Fin 2) (i : Fin 18) (w : Width)  (s : State) : Follows s (execReceiveWindowRead m k i w s) :=
  ⟨_, rfl, by apply regFetch_keeps; exact Keeps.refl s⟩

theorem execCanFrameSent_keeps (k : Fin 2) (b : Fin 8) (r : CanEnd)  (s : State) : Follows s (execCanFrameSent k b r s) :=
  ⟨_, rfl, by apply canFrameSent_keeps; exact Keeps.refl s⟩

theorem execStartDma_keeps (m : Master) (ch : Fin 128) (w : Width) (v : BitVec 64)  (s : State) : Follows s (execStartDma m ch w v s) :=
  ⟨_, rfl, by apply regAccess_keeps; exact Keeps.refl s⟩

theorem execTransferComplete_keeps (ch : Fin 128)  (s : State) : Follows s (execTransferComplete ch s) :=
  ⟨_, rfl, by apply transferComplete_keeps; exact Keeps.refl s⟩

theorem execTailWrite_keeps (m : Master) (ch : Fin 128) (w : Width) (v : BitVec 64)  (s : State) : Follows s (execTailWrite m ch w v s) :=
  ⟨_, rfl, by apply regAccess_keeps; exact Keeps.refl s⟩

theorem execDescriptorFetch_keeps (ch : Fin 128)  (s : State) : Follows s (execDescriptorFetch ch s) :=
  ⟨_, rfl, by apply descriptorFetch_keeps; exact Keeps.refl s⟩

theorem execDescriptorCompletion_keeps (ch : Fin 128)  (s : State) : Follows s (execDescriptorCompletion ch s) :=
  ⟨_, rfl, by apply descriptorCompletion_keeps; exact Keeps.refl s⟩

theorem execLateErr_keeps (ch : Fin 128)  (s : State) : Follows s (execLateErr ch s) :=
  ⟨_, rfl, by apply lateErr_keeps; exact Keeps.refl s⟩

theorem execChannelEnable_keeps (m : Master) (ch : Fin 128) (w : Width) (v : BitVec 64)  (s : State) : Follows s (execChannelEnable m ch w v s) :=
  ⟨_, rfl, by apply regAccess_keeps; exact Keeps.refl s⟩

theorem execHeldEnable_keeps (ch : Fin 128)  (s : State) : Follows s (execHeldEnable ch s) :=
  ⟨_, rfl, by apply heldEnable_keeps; exact Keeps.refl s⟩

theorem execChannelDisable_keeps (m : Master) (ch : Fin 128) (w : Width) (v : BitVec 64)  (s : State) : Follows s (execChannelDisable m ch w v s) :=
  ⟨_, rfl, by apply regAccess_keeps; exact Keeps.refl s⟩

theorem execDmaDisable_keeps (m : Master) (w : Width) (v : BitVec 64)  (s : State) : Follows s (execDmaDisable m w v s) :=
  ⟨_, rfl, by apply regAccess_keeps; exact Keeps.refl s⟩

theorem execRequestLine_keeps (ch : Fin 128)  (s : State) : Follows s (execRequestLine ch s) :=
  ⟨_, rfl, by apply requestLine_keeps; exact Keeps.refl s⟩

theorem execWindowResult_keeps (n : Fin 8)  (s : State) : Follows s (execWindowResult n s) :=
  ⟨_, rfl, by apply windowResult_keeps; exact Keeps.refl s⟩

theorem execRelayDrive_keeps (n : Fin 8)  (s : State) : Follows s (execRelayDrive n s) :=
  ⟨_, rfl, by apply relayDrive_keeps; exact Keeps.refl s⟩

theorem execLmAck_keeps (m : Master) (w : Width) (v : BitVec 64)  (s : State) : Follows s (execLmAck m w v s) :=
  ⟨_, rfl, by apply regAccess_keeps; exact Keeps.refl s⟩

theorem execLmLearn_keeps (m : Master) (w : Width) (v : BitVec 64)  (s : State) : Follows s (execLmLearn m w v s) :=
  ⟨_, rfl, by apply regAccess_keeps; exact Keeps.refl s⟩

theorem execPassStart_keeps (m : Master) (w : Width) (v : BitVec 64)  (s : State) : Follows s (execPassStart m w v s) :=
  ⟨_, rfl, by apply regAccess_keeps; exact Keeps.refl s⟩

theorem execAbort_keeps (m : Master) (w : Width) (v : BitVec 64)  (s : State) : Follows s (execAbort m w v s) :=
  ⟨_, rfl, by apply regAccess_keeps; exact Keeps.refl s⟩

theorem execAmbientEnd_keeps  (s : State) : Follows s (execAmbientEnd s) :=
  ⟨_, rfl, by apply ambientEnd_keeps; exact Keeps.refl s⟩

theorem execPrerollEnd_keeps  (s : State) : Follows s (execPrerollEnd s) :=
  ⟨_, rfl, by apply prerollEnd_keeps; exact Keeps.refl s⟩

theorem execAccumEnd_keeps  (s : State) : Follows s (execAccumEnd s) :=
  ⟨_, rfl, by apply accumEnd_keeps; exact Keeps.refl s⟩

theorem execTransformEnd_keeps  (s : State) : Follows s (execTransformEnd s) :=
  ⟨_, rfl, by apply transformEnd_keeps; exact Keeps.refl s⟩

theorem execDcSenseSample_keeps (x : Fin 2) (microAmps : Nat)  (s : State) : Follows s (execDcSenseSample x microAmps s) :=
  ⟨_, rfl, by apply dcSense_keeps; exact Keeps.refl s⟩

theorem execRelearn_keeps (m : Master) (x : Fin 2) (w : Width) (v : BitVec 64)  (s : State) : Follows s (execRelearn m x w v s) :=
  ⟨_, rfl, by apply regAccess_keeps; exact Keeps.refl s⟩

theorem execGainChange_keeps (x : Fin 2)  (s : State) : Follows s (execGainChange x s) :=
  ⟨_, rfl, by apply gainChange_keeps; exact Keeps.refl s⟩

theorem execContactScan_keeps (n : Fin 8) (cls : Fin 4)  (s : State) : Follows s (execContactScan n cls s) :=
  ⟨_, rfl, by apply contactScan_keeps; exact Keeps.refl s⟩

theorem execContactEvent_keeps (n : Fin 8)  (s : State) : Follows s (execContactEvent n s) :=
  ⟨_, rfl, by apply contactEvent_keeps; exact Keeps.refl s⟩

theorem execForceLatch_keeps (m : Master) (w : Width) (v : BitVec 64)  (s : State) : Follows s (execForceLatch m w v s) :=
  ⟨_, rfl, by apply regAccess_keeps; exact Keeps.refl s⟩

theorem execClearLatch_keeps (m : Master) (w : Width) (v : BitVec 64)  (s : State) : Follows s (execClearLatch m w v s) :=
  ⟨_, rfl, by apply regAccess_keeps; exact Keeps.refl s⟩

theorem execHostWrite_keeps (a : Word) (count : BitVec 16) (words : List Word)  (s : State) : Follows s (execHostWrite a count words s) :=
  ⟨_, rfl, by apply hsWrite_keeps; exact Keeps.refl s⟩

theorem execWriteFixed_keeps (a : Word) (count : BitVec 16) (words : List Word)  (s : State) : Follows s (execWriteFixed a count words s) :=
  ⟨_, rfl, by apply hsWrite_keeps; exact Keeps.refl s⟩

theorem execHostRead_keeps (a : Word) (count : Nat) (cut : Option Nat)  (s : State) : Follows s (execHostRead a count cut s) :=
  ⟨_, rfl, by apply hostRead_keeps; exact Keeps.refl s⟩

theorem execReadFixed_keeps (a : Word) (count : Nat) (cut : Option Nat)  (s : State) : Follows s (execReadFixed a count cut s) :=
  ⟨_, rfl, by apply hostRead_keeps; exact Keeps.refl s⟩

theorem execHostStatus_keeps  (s : State) : Follows s (execHostStatus s) :=
  ⟨_, rfl, by apply hostStatus_keeps; exact Keeps.refl s⟩

theorem execHostWordWrite_keeps  (s : State) : Follows s (execHostWordWrite s) :=
  ⟨_, rfl, by apply hostWordWrite_keeps; exact Keeps.refl s⟩

theorem execUartTxdWrite_keeps (m : Master) (k : Fin 2) (w : Width) (v : BitVec 64)  (s : State) : Follows s (execUartTxdWrite m k w v s) :=
  ⟨_, rfl, by apply regAccess_keeps; exact Keeps.refl s⟩

theorem execUartRxdRead_keeps (m : Master) (k : Fin 2) (w : Width)  (s : State) : Follows s (execUartRxdRead m k w s) :=
  ⟨_, rfl, by apply regFetch_keeps; exact Keeps.refl s⟩

theorem execCharacterReceived_keeps (k : Fin 2) (ch : Byte) (parityErr : Bool) (framingErr : Bool) (brk : Bool)  (s : State) : Follows s (execCharacterReceived k ch parityErr framingErr brk s) :=
  ⟨_, rfl, by apply characterReceived_keeps; exact Keeps.refl s⟩

theorem execCharacterSent_keeps (k : Fin 2)  (s : State) : Follows s (execCharacterSent k s) :=
  ⟨_, rfl, by apply characterSent_keeps; exact Keeps.refl s⟩

theorem execI2cStart_keeps (k : Fin 2) (r : I2cEnd)  (s : State) : Follows s (execI2cStart k r s) :=
  ⟨_, rfl, by apply i2cRun_keeps; exact Keeps.refl s⟩

theorem execI2cWrite_keeps (k : Fin 2) (r : I2cEnd)  (s : State) : Follows s (execI2cWrite k r s) :=
  ⟨_, rfl, by apply i2cRun_keeps; exact Keeps.refl s⟩

theorem execI2cReadAck_keeps (k : Fin 2) (data : Byte) (r : I2cEnd)  (s : State) : Follows s (execI2cReadAck k data r s) :=
  ⟨_, rfl, by apply i2cRun_keeps; exact Keeps.refl s⟩

theorem execI2cReadNack_keeps (k : Fin 2) (data : Byte) (r : I2cEnd)  (s : State) : Follows s (execI2cReadNack k data r s) :=
  ⟨_, rfl, by apply i2cRun_keeps; exact Keeps.refl s⟩

theorem execI2cStop_keeps (k : Fin 2) (r : I2cEnd)  (s : State) : Follows s (execI2cStop k r s) :=
  ⟨_, rfl, by apply i2cRun_keeps; exact Keeps.refl s⟩

theorem execI2cTimeout_keeps (k : Fin 2)  (s : State) : Follows s (execI2cTimeout k s) :=
  ⟨_, rfl, by apply i2cTimeout_keeps; exact Keeps.refl s⟩

theorem execGpioEdge_keeps (n : Fin 32) (level : Bool)  (s : State) : Follows s (execGpioEdge n level s) :=
  ⟨_, rfl, by apply gpioEdge_keeps; exact Keeps.refl s⟩

theorem execPhyInterrupt_keeps (level : Bool)  (s : State) : Follows s (execPhyInterrupt level s) :=
  ⟨_, rfl, by apply phyInterrupt_keeps; exact Keeps.refl s⟩

theorem execKeepCmd_keeps (m : Master) (w : Width) (v : BitVec 64)  (s : State) : Follows s (execKeepCmd m w v s) :=
  ⟨_, rfl, by apply regAccess_keeps; exact Keeps.refl s⟩

theorem execLineProgramDone_keeps (readsBack : Bool)  (s : State) : Follows s (execLineProgramDone readsBack s) :=
  ⟨_, rfl, by apply lineProgramDone_keeps; exact Keeps.refl s⟩

theorem execPlayOp_keeps (p : Fin 16)  (s : State) : Follows s (execPlayOp p s) :=
  ⟨_, rfl, by apply playOp_keeps; exact Keeps.refl s⟩

theorem execGapOp_keeps (p : Fin 16)  (s : State) : Follows s (execGapOp p s) :=
  ⟨_, rfl, by apply gapOp_keeps; exact Keeps.refl s⟩

theorem execSpellOp_keeps (p : Fin 16)  (s : State) : Follows s (execSpellOp p s) :=
  ⟨_, rfl, by apply spellOp_keeps; exact Keeps.refl s⟩

theorem execListOp_keeps (p : Fin 16)  (s : State) : Follows s (execListOp p s) :=
  ⟨_, rfl, by apply listOp_keeps; exact Keeps.refl s⟩

theorem execToneOp_keeps (p : Fin 16)  (s : State) : Follows s (execToneOp p s) :=
  ⟨_, rfl, by apply toneOp_keeps; exact Keeps.refl s⟩

theorem execJumpOp_keeps (p : Fin 16)  (s : State) : Follows s (execJumpOp p s) :=
  ⟨_, rfl, by apply jumpOp_keeps; exact Keeps.refl s⟩

theorem execStopOp_keeps (p : Fin 16)  (s : State) : Follows s (execStopOp p s) :=
  ⟨_, rfl, by apply stopOp_keeps; exact Keeps.refl s⟩

theorem execPlanLoad_keeps  (s : State) : Follows s (execPlanLoad s) :=
  ⟨_, rfl, by apply planLoad_keeps; exact Keeps.refl s⟩

theorem execFwGo_keeps (m : Master) (w : Width) (v : BitVec 64)  (s : State) : Follows s (execFwGo m w v s) :=
  ⟨_, rfl, by apply regAccess_keeps; exact Keeps.refl s⟩

theorem execBucketRefill_keeps  (s : State) : Follows s (execBucketRefill s) :=
  ⟨_, rfl, by apply bucketRefill_keeps; exact Keeps.refl s⟩

theorem execJournalLineWrite_keeps  (s : State) : Follows s (execJournalLineWrite s) :=
  ⟨_, rfl, by apply journalLineWrite_keeps; exact Keeps.refl s⟩

theorem execRequestService_keeps (m : Master)  (s : State) : Follows s (execRequestService m s) :=
  ⟨_, rfl, by apply regAccess_keeps; exact Keeps.refl s⟩

theorem execRequestWatch_keeps (m : Master)  (s : State) : Follows s (execRequestWatch m s) :=
  ⟨_, rfl, by apply regAccess_keeps; exact Keeps.refl s⟩

theorem execRequestSleep_keeps (m : Master)  (s : State) : Follows s (execRequestSleep m s) :=
  ⟨_, rfl, by apply regAccess_keeps; exact Keeps.refl s⟩

theorem execRequestEvacuate_keeps (m : Master)  (s : State) : Follows s (execRequestEvacuate m s) :=
  ⟨_, rfl, by apply regAccess_keeps; exact Keeps.refl s⟩

theorem execRequestExit_keeps (m : Master)  (s : State) : Follows s (execRequestExit m s) :=
  ⟨_, rfl, by apply regAccess_keeps; exact Keeps.refl s⟩

theorem execWake_keeps (high : Bool)  (s : State) : Follows s (execWake high s) :=
  ⟨_, rfl, by apply wakeLevel_keeps; exact Keeps.refl s⟩

theorem execWakeTimer_keeps  (s : State) : Follows s (execWakeTimer s) :=
  ⟨_, rfl, by apply wakeTimer_keeps; exact Keeps.refl s⟩

theorem execFastWake_keeps (straps : Fin 8) (slept : Nat)  (s : State) : Follows s (execFastWake straps slept s) :=
  ⟨_, rfl, by apply fastWake_keeps; exact Keeps.refl s⟩

theorem execPadRelease_keeps (m : Master) (w : Width) (v : BitVec 64)  (s : State) : Follows s (execPadRelease m w v s) :=
  ⟨_, rfl, by apply regAccess_keeps; exact Keeps.refl s⟩

theorem execWdogKick_keeps (m : Master) (c : Fin 4) (w : Width) (v : BitVec 64)  (s : State) : Follows s (execWdogKick m c w v s) :=
  ⟨_, rfl, by apply regAccess_keeps; exact Keeps.refl s⟩

theorem execWatchdogExpiry_keeps (c : Fin 4)  (s : State) : Follows s (execWatchdogExpiry c s) :=
  ⟨_, rfl, by apply watchdogExpiry_keeps; exact Keeps.refl s⟩

theorem execWatchdogReset_keeps (c : Fin 4)  (s : State) : Follows s (execWatchdogReset c s) :=
  ⟨_, rfl, by apply watchdogReset_keeps; exact Keeps.refl s⟩

theorem execColdBoot_keeps (straps : Fin 8)  (s : State) : Follows s (execColdBoot straps s) :=
  ⟨_, rfl, by apply coldBoot_keeps; exact Keeps.refl s⟩

theorem execImageAttempt_keeps (kind : ImageKind) (copy : CopyId)  (s : State) : Follows s (execImageAttempt kind copy s) :=
  ⟨_, rfl, by apply imageAttempt_keeps; exact Keeps.refl s⟩

theorem execBootTimeout_keeps (kind : ImageKind) (copy : CopyId)  (s : State) : Follows s (execBootTimeout kind copy s) :=
  ⟨_, rfl, by apply bootTimeout_keeps; exact Keeps.refl s⟩

theorem execNetworkCopyTimeout_keeps (kind : ImageKind)  (s : State) : Follows s (execNetworkCopyTimeout kind s) :=
  ⟨_, rfl, by apply networkTimeout_keeps; exact Keeps.refl s⟩

theorem execRecoveryLoader_keeps  (s : State) : Follows s (execRecoveryLoader s) :=
  ⟨_, rfl, by apply recoveryLoader_keeps; exact Keeps.refl s⟩

theorem execVerifyGraph_keeps (m : Master) (arg : Word)  (s : State) : Follows s (execVerifyGraph m arg s) :=
  ⟨_, rfl, by apply mailboxIssue_keeps; exact Keeps.refl s⟩

theorem execMeasure_keeps (m : Master) (arg : Word)  (s : State) : Follows s (execMeasure m arg s) :=
  ⟨_, rfl, by apply mailboxIssue_keeps; exact Keeps.refl s⟩

theorem execBeginSlot_keeps (m : Master) (arg : Word)  (s : State) : Follows s (execBeginSlot m arg s) :=
  ⟨_, rfl, by apply mailboxIssue_keeps; exact Keeps.refl s⟩

theorem execMarkPending_keeps (m : Master) (arg : Word)  (s : State) : Follows s (execMarkPending m arg s) :=
  ⟨_, rfl, by apply mailboxIssue_keeps; exact Keeps.refl s⟩

theorem execConfirm_keeps (m : Master) (arg : Word)  (s : State) : Follows s (execConfirm m arg s) :=
  ⟨_, rfl, by apply mailboxIssue_keeps; exact Keeps.refl s⟩

theorem execAbandon_keeps (m : Master) (arg : Word)  (s : State) : Follows s (execAbandon m arg s) :=
  ⟨_, rfl, by apply mailboxIssue_keeps; exact Keeps.refl s⟩

theorem execWriteK_keeps (m : Master) (arg : Word)  (s : State) : Follows s (execWriteK m arg s) :=
  ⟨_, rfl, by apply mailboxIssue_keeps; exact Keeps.refl s⟩

theorem execWritePlan_keeps (m : Master) (arg : Word)  (s : State) : Follows s (execWritePlan m arg s) :=
  ⟨_, rfl, by apply mailboxIssue_keeps; exact Keeps.refl s⟩

theorem execBurnFloor_keeps (m : Master) (arg : Word)  (s : State) : Follows s (execBurnFloor m arg s) :=
  ⟨_, rfl, by apply mailboxIssue_keeps; exact Keeps.refl s⟩

theorem execMailboxCompletion_keeps  (s : State) : Follows s (execMailboxCompletion s) :=
  ⟨_, rfl, by apply mailboxCompletion_keeps; exact Keeps.refl s⟩

theorem execRootRevoke_keeps (k : Fin 4)  (s : State) : Follows s (execRootRevoke k s) :=
  ⟨_, rfl, by apply rootRevokeAct_keeps; exact Keeps.refl s⟩

theorem execTallyExt_keeps (m : Master) (w : Width) (v : BitVec 64)  (s : State) : Follows s (execTallyExt m w v s) :=
  ⟨_, rfl, by apply regAccess_keeps; exact Keeps.refl s⟩

theorem execAnvilStatus_keeps  (s : State) : Follows s (execAnvilStatus s) :=
  ⟨_, rfl, by apply anvilStatus_keeps; exact Keeps.refl s⟩

theorem execAnvPut_keeps (lenField : Nat) (bytes : List Byte) (crc : Half) (complete : Bool)  (s : State) : Follows s (execAnvPut lenField bytes crc complete s) := by
  refine ⟨_, rfl, ?_⟩
  repeat' (first | with_reducible exact Keeps.refl _ | with_reducible apply anvilPut_keeps | with_reducible apply complete_keeps | split | dsimp only)

theorem execAnvGet_keeps (rep : Bool) (max : Nat)  (s : State) : Follows s (execAnvGet rep max s) :=
  ⟨_, rfl, by apply anvilGet_keeps; exact Keeps.refl s⟩

theorem execDataChunk_keeps (kind : ImageKind) (off : Word) (seq : BitVec 16) (bytes : List Byte)  (s : State) : Follows s (execDataChunk kind off seq bytes s) :=
  ⟨_, rfl, by apply dataMsg_keeps; exact Keeps.refl s⟩

theorem execNoneImage_keeps (kind : ImageKind)  (s : State) : Follows s (execNoneImage kind s) :=
  ⟨_, rfl, by apply noneMsg_keeps; exact Keeps.refl s⟩

theorem execAskTimeout_keeps  (s : State) : Follows s (execAskTimeout s) :=
  ⟨_, rfl, by apply askTimeout_keeps; exact Keeps.refl s⟩

theorem execChalReq_keeps (grant : Word) (seq : BitVec 16)  (s : State) : Follows s (execChalReq grant seq s) :=
  ⟨_, rfl, by apply challengeRequest_keeps; exact Keeps.refl s⟩

theorem execAnvAuth_keeps (body : List Byte) (seq : BitVec 16)  (s : State) : Follows s (execAnvAuth body seq s) :=
  ⟨_, rfl, by apply authenticate_keeps; exact Keeps.refl s⟩

theorem execRecover_keeps (target : RecoverTarget) (seq : BitVec 16)  (s : State) : Follows s (execRecover target seq s) :=
  ⟨_, rfl, by apply recoverMsg_keeps; exact Keeps.refl s⟩

theorem execRecoverTimeout_keeps  (s : State) : Follows s (execRecoverTimeout s) :=
  ⟨_, rfl, by apply recoverTimeout_keeps; exact Keeps.refl s⟩

theorem execReboot_keeps  (s : State) : Follows s (execReboot s) :=
  ⟨_, rfl, by apply reboot_keeps; exact Keeps.refl s⟩

theorem execTransferClose_keeps  (s : State) : Follows s (execTransferClose s) :=
  ⟨_, rfl, by apply transferClose_keeps; exact Keeps.refl s⟩

theorem execMread_keeps (a : Word) (count : Nat) (seq : BitVec 16)  (s : State) : Follows s (execMread a count seq s) :=
  ⟨_, rfl, by apply mread_keeps; exact Keeps.refl s⟩

theorem execMwrite_keeps (a : Word) (words : List Word) (seq : BitVec 16)  (s : State) : Follows s (execMwrite a words seq s) :=
  ⟨_, rfl, by apply mwrite_keeps; exact Keeps.refl s⟩

theorem execStatusPublication_keeps  (s : State) : Follows s (execStatusPublication s) :=
  ⟨_, rfl, by apply statusPublication_keeps; exact Keeps.refl s⟩

theorem execFlashProgramCommand_keeps (off : Word) (erase : Bool) (bytes : List Byte)  (s : State) : Follows s (execFlashProgramCommand off erase bytes s) :=
  ⟨_, rfl, by apply flashProgram_keeps; exact Keeps.refl s⟩

theorem execAlwaysOnPowerUp_keeps  (s : State) : Follows s (execAlwaysOnPowerUp s) :=
  ⟨_, rfl, by apply alwaysOnPowerUp_keeps; exact Keeps.refl s⟩

theorem execDeviceReset_keeps (cause : HoldCause)  (s : State) : Follows s (execDeviceReset cause s) :=
  ⟨_, rfl, by apply holdReset_keeps; exact Keeps.refl s⟩

theorem execBrownOut_keeps (x : Supply)  (s : State) : Follows s (execBrownOut x s) :=
  ⟨_, rfl, by apply brownOut_keeps; exact Keeps.refl s⟩

theorem execResetRelease_keeps (ioB33 : Bool)  (s : State) : Follows s (execResetRelease ioB33 s) :=
  ⟨_, rfl, by apply resetRelease_keeps; exact Keeps.refl s⟩

theorem execDevReset_keeps (m : Master) (w : Width) (v : BitVec 64)  (s : State) : Follows s (execDevReset m w v s) :=
  ⟨_, rfl, by apply regAccess_keeps; exact Keeps.refl s⟩

theorem execWardenDevReset_keeps (m : Master) (w : Width) (v : BitVec 64)  (s : State) : Follows s (execWardenDevReset m w v s) :=
  ⟨_, rfl, by apply regAccess_keeps; exact Keeps.refl s⟩

theorem execCoreReset_keeps (m : Master) (w : Width) (v : BitVec 64)  (s : State) : Follows s (execCoreReset m w v s) :=
  ⟨_, rfl, by apply regAccess_keeps; exact Keeps.refl s⟩

theorem execBlockReset_keeps (m : Master) (w : Width) (v : BitVec 64)  (s : State) : Follows s (execBlockReset m w v s) :=
  ⟨_, rfl, by apply regAccess_keeps; exact Keeps.refl s⟩

theorem execTapReset_keeps  (s : State) : Follows s (execTapReset s) :=
  ⟨_, rfl, by apply tapReset_keeps; exact Keeps.refl s⟩

theorem execTrimLoad_keeps  (s : State) : Follows s (execTrimLoad s) :=
  ⟨_, rfl, by apply trimLoad_keeps; exact Keeps.refl s⟩

theorem execTemperatureUpdate_keeps (t : BitVec 16)  (s : State) : Follows s (execTemperatureUpdate t s) :=
  ⟨_, rfl, by apply temperatureUpdate_keeps; exact Keeps.refl s⟩

theorem execJtagDebugAccess_keeps (op : JtagOp)  (s : State) : Follows s (execJtagDebugAccess op s) :=
  ⟨_, rfl, by apply jtagAccess_keeps; exact Keeps.refl s⟩

end Sys2Proof.Machine
end

