-- ==== Sys2Proof/Laws/Memory.lean ====
section
/-! SUPPORT. Reading memory back after a write: the bytes written, and every other byte as it was. -/

namespace Sys2Proof.Machine
open Sys2Proof

theorem memGet_memPutBytes_lt (bs : List Byte) : ∀ (m : List Host.Cell) (a j : Nat), j < a →
    memGet (memPutBytes m a bs) j = memGet m j := by
  induction bs with
  | nil => intros; rfl
  | cons b bs ih =>
    intro m a j h
    show memGet (memPutBytes (memPut m a b) (a + 1) bs) j = _
    rw [ih _ _ _ (by omega), memGet_memPut, if_neg (by omega)]

theorem memGet_memPutBytes_ge (bs : List Byte) : ∀ (m : List Host.Cell) (a j : Nat), a + bs.length ≤ j →
    memGet (memPutBytes m a bs) j = memGet m j := by
  induction bs with
  | nil => intros; rfl
  | cons b bs ih =>
    intro m a j h
    simp only [List.length_cons] at h
    show memGet (memPutBytes (memPut m a b) (a + 1) bs) j = _
    rw [ih _ _ _ (by omega), memGet_memPut, if_neg (by omega)]

theorem memBytes_congr (m m' : List Host.Cell) (n : Nat) : ∀ (a : Nat),
    (∀ j, a ≤ j → j < a + n → memGet m j = memGet m' j) → memBytes m a n = memBytes m' a n := by
  induction n with
  | zero => intros; rfl
  | succ n ih =>
    intro a h
    show memGet m a :: memBytes m (a + 1) n = memGet m' a :: memBytes m' (a + 1) n
    rw [h a (Nat.le_refl _) (by omega), ih (a + 1) (fun j h1 h2 => h j (by omega) (by omega))]

theorem memBytes_memPutBytes (bs : List Byte) : ∀ (m : List Host.Cell) (a : Nat),
    memBytes (memPutBytes m a bs) a bs.length = bs := by
  induction bs with
  | nil => intros; rfl
  | cons b bs ih =>
    intro m a
    show memGet (memPutBytes (memPut m a b) (a + 1) bs) a :: memBytes (memPutBytes (memPut m a b) (a + 1) bs) (a + 1) bs.length
      = b :: bs
    rw [memGet_memPutBytes_lt _ _ _ _ (by omega), memGet_memPut, if_pos rfl, ih]

@[simp] theorem leBytes_length (n : Nat) : ∀ v, (leBytes n v).length = n := by
  induction n with
  | zero => intros; rfl
  | succ n ih => intro v; simp [leBytes, ih]

theorem leNat_leBytes (n : Nat) : ∀ v, leNat (leBytes n v) = v % 256 ^ n := by
  induction n with
  | zero => intro v; simp [leNat, leBytes, Nat.mod_one]
  | succ n ih =>
    intro v
    simp only [leBytes, leNat, ih, BitVec.toNat_ofNat]
    rw [show 256 ^ (n + 1) = 256 * 256 ^ n by rw [Nat.mul_comm, Nat.pow_succ], Nat.mod_mul]

@[simp] theorem State.memGet_mwr_lt (s : State) (a n v j : Nat) (h : j < a) :
    memGet (s.mwr a n v).mem j = memGet s.mem j := memGet_memPutBytes_lt _ _ _ _ h

theorem State.memGet_mwr_ge (s : State) (a n v j : Nat) (h : a + n ≤ j) :
    memGet (s.mwr a n v).mem j = memGet s.mem j := memGet_memPutBytes_ge _ _ _ _ (by rw [leBytes_length]; exact h)

@[simp] theorem State.mrd_mwr (s : State) (a n v : Nat) : (s.mwr a n v).mrd a n = v % 256 ^ n := by
  have h := memBytes_memPutBytes (leBytes n v) s.mem a
  rw [leBytes_length] at h
  unfold State.mrd State.mwr
  rw [h, leNat_leBytes]

theorem State.mrd_congr (s t : State) (a n : Nat) (h : ∀ j, a ≤ j → j < a + n → memGet s.mem j = memGet t.mem j) :
    s.mrd a n = t.mrd a n := by
  unfold State.mrd
  rw [memBytes_congr _ _ _ _ h]

theorem memBytes_drop (m : List Host.Cell) (k : Nat) : ∀ (a n : Nat), k ≤ n →
    (memBytes m a n).drop k = memBytes m (a + k) (n - k) := by
  induction k with
  | zero => intros; rfl
  | succ k ih =>
    intro a n h
    cases n with
    | zero => omega
    | succ n =>
      show (memBytes m (a + 1) n).drop k = _
      rw [ih (a + 1) n (by omega), show a + 1 + k = a + (k + 1) by omega, show n + 1 - (k + 1) = n - k by omega]

theorem memBytes_take (m : List Host.Cell) (k : Nat) : ∀ (a n : Nat), k ≤ n → (memBytes m a n).take k = memBytes m a k := by
  induction k with
  | zero => intros; rfl
  | succ k ih =>
    intro a n h
    cases n with
    | zero => omega
    | succ n =>
      show memGet m a :: (memBytes m (a + 1) n).take k = _
      rw [ih (a + 1) n (by omega)]
      rfl

end Sys2Proof.Machine
end

