-- ==== Sys2Proof/Laws/Stage.lean ====
section
/-! SUPPORT. Staging and copying: what a bank copy leaves in memory, what a shadow write leaves of the other words of its set,
and the fields of a masked word. -/

namespace Sys2Proof.Machine
open Sys2Proof

/-! ### Fields -/

theorem fld_and (w k : Word) (lo n : Nat) (h : ∀ i < n, k.toNat.testBit (lo + i) = true) : fld (w &&& k) lo n = fld w lo n := by
  unfold fld
  apply Nat.eq_of_testBit_eq
  intro i
  rw [Nat.testBit_mod_two_pow, Nat.testBit_mod_two_pow, Nat.testBit_div_two_pow, Nat.testBit_div_two_pow, BitVec.toNat_and,
    Nat.testBit_and]
  by_cases hi : i < n
  · simp [hi, Nat.add_comm i lo, h i hi]
  · simp [hi]

/-! ### Copies within memory -/

theorem tget_filter (m : List Host.Cell) (p : Nat → Bool) (j : Nat) :
    tget memDefault (m.filter fun c => p c.1) j = if p j then tget memDefault m j else memDefault := by
  induction m with
  | nil => simp [tget]
  | cons c m ih =>
    obtain ⟨k, v⟩ := c
    simp only [List.filter_cons, tget]
    by_cases hp : p k
    · simp only [hp, if_true, tget, ih]
      by_cases hj : j = k
      · subst hj; simp [hp]
      · simp [hj]
    · simp only [hp, if_false, ih, Bool.false_eq_true]
      by_cases hj : j = k
      · subst hj; simp [hp]
      · simp [hj]

theorem memGet_memZero (m : List Host.Cell) (lo hi j : Nat) :
    memGet (memZero m lo hi) j = if j < lo ∨ hi ≤ j then memGet m j else memDefault := by
  unfold memGet memZero
  rw [tget_filter m (fun k => decide (k < lo ∨ hi ≤ k))]
  simp

theorem tget_absent (m : List Host.Cell) (j : Nat) (h : ∀ c ∈ m, c.1 ≠ j) : tget memDefault m j = memDefault := by
  induction m with
  | nil => rfl
  | cons c m ih =>
    obtain ⟨k, v⟩ := c
    simp only [tget]
    rw [if_neg (fun e => h _ (List.mem_cons_self) e.symm), ih fun c hc => h c (List.mem_cons_of_mem _ hc)]

theorem memGet_moved (src dst k : Nat) (l : List Host.Cell) : ∀ (m : List Host.Cell), (∀ c ∈ l, src ≤ c.1) →
    l.Pairwise (fun a b => a.1 < b.1) →
    memGet (l.foldl (fun m c => memPut m (c.1 - src + dst) c.2) m) (dst + k)
      = if l.any (fun c => c.1 == src + k) then tget memDefault l (src + k) else memGet m (dst + k) := by
  induction l with
  | nil => intros; rfl
  | cons c l ih =>
    intro m hs hp
    obtain ⟨key, v⟩ := c
    rw [List.pairwise_cons] at hp
    have hk : src ≤ key := hs _ List.mem_cons_self
    rw [List.foldl_cons, ih _ (fun c hc => hs c (List.mem_cons_of_mem _ hc)) hp.2]
    by_cases he : key = src + k
    · have hno : l.any (fun c => c.1 == src + k) = false := by
        rw [List.any_eq_false]
        intro c hc
        have := hp.1 c hc
        simp only [beq_iff_eq]
        omega
      simp only [hno, List.any_cons, tget, he, beq_self_eq_true, Bool.true_or, if_true, Bool.false_eq_true, if_false]
      rw [memGet_memPut, if_pos (by omega)]
    · have he' : ¬ src + k = key := fun e => he e.symm
      simp only [List.any_cons, tget, he', if_false, beq_iff_eq, he, beq_eq_false_iff_ne.mpr he, Bool.false_or]
      split
      · rfl
      · rw [memGet_memPut, if_neg (by omega)]

theorem pairwise_of_twf (m : List Host.Cell) (h : Memory.wf m = true) : m.Pairwise (fun a b => a.1 < b.1) := by
  induction m with
  | nil => exact List.Pairwise.nil
  | cons c m ih =>
    have := (twf_cons (fun _ => memDefault) c m).mp h
    exact List.pairwise_cons.mpr ⟨this.2.1, ih this.2.2⟩

/-- A byte of the place copied to reads as the byte copied, which lay elsewhere. -/
theorem memGet_memCopy (m : List Host.Cell) (src dst len k : Nat) (h : Memory.wf m = true) (hk : k < len) :
    memGet (memCopy m src dst len) (dst + k) = memGet m (src + k) := by
  unfold memCopy
  dsimp only
  have hp := (pairwise_of_twf m h).filter (fun c => decide (src ≤ c.1 ∧ c.1 < src + len))
  rw [memGet_moved src dst k _ _ (fun c hc => by simpa using ((List.mem_filter.mp hc).2 |> of_decide_eq_true).1) hp]
  split
  · rw [tget_filter m (fun j => decide (src ≤ j ∧ j < src + len)), if_pos (by simp; omega)]
    rfl
  · rename_i hn
    rw [memGet_memZero, if_neg (by omega)]
    symm
    apply tget_absent
    intro c hc e
    apply hn
    rw [List.any_eq_true]
    exact ⟨c, List.mem_filter.mpr ⟨hc, by simp; omega⟩, by simp [e]⟩

/-- A byte outside it reads as before. -/
theorem memGet_memCopy_other (m : List Host.Cell) (src dst len j : Nat) (h : j < dst ∨ dst + len ≤ j) :
    memGet (memCopy m src dst len) j = memGet m j := by
  unfold memCopy
  dsimp only
  have : ∀ (l m : List Host.Cell), (∀ c ∈ l, src ≤ c.1 ∧ c.1 < src + len) →
      memGet (l.foldl (fun m c => memPut m (c.1 - src + dst) c.2) m) j = memGet m j := by
    intro l
    induction l with
    | nil => intros; rfl
    | cons c l ih =>
      intro m hl
      have hc := hl c List.mem_cons_self
      rw [List.foldl_cons, ih _ (fun c hc => hl c (List.mem_cons_of_mem _ hc)), memGet_memPut, if_neg (by omega)]
  rw [this _ _ (fun c hc => by simpa using (List.mem_filter.mp hc).2), memGet_memZero, if_pos h]

/-! ### Staging -/

theorem live_line (o : Nat) (h1 : 0x100000 ≤ o) (h2 : o < 0x180000) (h4 : o % 4 = 0)
    (hq : (o - 0x100000) % 0x80 = 4 ∨ (o - 0x100000) % 0x80 = 8 ∨ 0x40 ≤ (o - 0x100000) % 0x80) :
    (∀ w ∈ setWords (.line ((o - 0x100000) / 0x8000) ((o - 0x100000) % 0x8000 / 0x80)), 0x3C000000 ≤ w ∧ w < 0x3C800000)
      ∧ 0x3C000000 + o ∈ setWords (.line ((o - 0x100000) / 0x8000) ((o - 0x100000) % 0x8000 / 0x80)) := by
  obtain ⟨x, rfl⟩ := Nat.exists_eq_add_of_le h1
  rw [Nat.add_sub_cancel_left] at hq ⊢
  simp only [setWords, Reg.lineWord, List.mem_map, List.mem_cons, List.mem_range]
  refine ⟨?_, x % 0x80, ?_, by omega⟩
  · rintro w ⟨k, hk, rfl⟩
    rcases hk with rfl | rfl | ⟨j, hj, rfl⟩ <;> omega
  · rcases hq with h | h | h
    · exact .inl h
    · exact .inr (.inl h)
    · exact .inr (.inr ⟨(x % 0x80 - 0x40) / 4, by omega, by omega⟩)

theorem live_node (o : Nat) (h1 : 0x400000 ≤ o) (h2 : o < 0x440000) (h4 : o % 4 = 0) :
    (∀ w ∈ setWords (.node ((o - 0x400000) / 0x400) (o % 0x400 / 4)), 0x3C000000 ≤ w ∧ w < 0x3C800000)
      ∧ 0x3C000000 + o ∈ setWords (.node ((o - 0x400000) / 0x400) (o % 0x400 / 4)) := by
  obtain ⟨x, rfl⟩ := Nat.exists_eq_add_of_le h1
  rw [Nat.add_sub_cancel_left]
  simp only [setWords, Reg.nodeWord, List.mem_singleton]
  refine ⟨?_, by omega⟩
  rintro w rfl
  omega

theorem live_tone (o : Nat) (h1 : 0x480000 ≤ o) (h2 : o < 0x481400) (h4 : o % 4 = 0) (h6 : o % 0x40 ≠ 0x18)
    (h7 : o % 0x40 ≠ 0x1C) :
    (∀ w ∈ setWords (.tone ((o - 0x480000) / 0x40)), 0x3C000000 ≤ w ∧ w < 0x3C800000)
      ∧ 0x3C000000 + o ∈ setWords (.tone ((o - 0x480000) / 0x40)) := by
  obtain ⟨x, rfl⟩ := Nat.exists_eq_add_of_le h1
  rw [Nat.add_sub_cancel_left]
  simp only [setWords, Reg.toneWord, List.mem_map, List.mem_filter, List.mem_range, Bool.and_eq_true, bne_iff_ne, ne_eq]
  refine ⟨?_, x % 0x40 / 4, ⟨by omega, by omega, by omega⟩, by omega⟩
  rintro w ⟨k, ⟨hk, _⟩, rfl⟩
  omega

theorem live_eq (o : Nat) (h1 : 0x490000 ≤ o) (h2 : o < 0x498000) (h4 : o % 4 = 0) (hq : o % 0x20 < 0x14) :
    (∀ w ∈ setWords (.eq ((o - 0x490000) / 0x20)), 0x3C000000 ≤ w ∧ w < 0x3C800000)
      ∧ 0x3C000000 + o ∈ setWords (.eq ((o - 0x490000) / 0x20)) := by
  obtain ⟨x, rfl⟩ := Nat.exists_eq_add_of_le h1
  rw [Nat.add_sub_cancel_left]
  simp only [setWords, Reg.eqWord, List.mem_map, List.mem_cons, List.not_mem_nil, or_false]
  refine ⟨?_, x % 0x20, by omega, by omega⟩
  rintro w ⟨k, hk, rfl⟩
  omega

theorem live_lim (o : Nat) (h1 : 0x4A0000 ≤ o) (h2 : o < 0x4A2000) (h4 : o % 4 = 0) (hq : o % 0x20 < 0xC) :
    (∀ w ∈ setWords (.qnch ((o - 0x4A0000) / 0x20)), 0x3C000000 ≤ w ∧ w < 0x3C800000)
      ∧ 0x3C000000 + o ∈ setWords (.qnch ((o - 0x4A0000) / 0x20)) := by
  obtain ⟨x, rfl⟩ := Nat.exists_eq_add_of_le h1
  rw [Nat.add_sub_cancel_left]
  simp only [setWords, Reg.limWord, List.mem_map, List.mem_cons, List.not_mem_nil, or_false]
  refine ⟨?_, x % 0x20, by omega, by omega⟩
  rintro w ⟨k, hk, rfl⟩
  omega

/-- The words of a set that a table's word belongs to lie in the live half of the aperture, and that word among them. -/
theorem setWords_live (o : Nat) (t : ApTable) (c : CSet) (h4 : o % 4 = 0)
    (ht : apTable (0x3C000000 + o) = some t) (hc : tableSet t = some c) :
    (∀ w ∈ setWords c, 0x3C000000 ≤ w ∧ w < 0x3C800000) ∧ 0x3C000000 + o ∈ setWords c := by
  unfold apTable at ht
  dsimp only at ht
  rw [Nat.add_sub_cancel_left] at ht
  by_cases k0 : o < 0x400
  · rw [if_pos k0] at ht
    replace ht := Option.some.inj ht
    subst ht
    simp only [tableSet, reduceCtorEq] at hc
  rw [if_neg k0] at ht
  clear k0
  by_cases k1 : 0x100000 ≤ o ∧ o < 0x180000
  · rw [if_pos k1] at ht
    by_cases k : (o - 0x100000) % 0x80 < 0x10 ∨ 0x40 ≤ (o - 0x100000) % 0x80
    · rw [if_pos k] at ht
      replace ht := Option.some.inj ht
      subst ht
      simp only [tableSet] at hc
      by_cases hq : (o - 0x100000) % 0x80 = 4 ∨ (o - 0x100000) % 0x80 = 8 ∨ 0x40 ≤ (o - 0x100000) % 0x80
      · rw [if_pos hq] at hc
        cases hc
        exact live_line o (by omega) (by omega) h4 hq
      · rw [if_neg hq] at hc; cases hc
    · rw [if_neg k] at ht; cases ht
  rw [if_neg k1] at ht
  clear k1
  by_cases k2 : 0x200000 ≤ o ∧ o < 0x240000
  · rw [if_pos k2] at ht
    replace ht := Option.some.inj ht
    subst ht
    simp only [tableSet, reduceCtorEq] at hc
  rw [if_neg k2] at ht
  clear k2
  by_cases k3 : 0x300000 ≤ o ∧ o < 0x380000
  · rw [if_pos k3] at ht
    replace ht := Option.some.inj ht
    subst ht
    simp only [tableSet, reduceCtorEq] at hc
  rw [if_neg k3] at ht
  clear k3
  by_cases k4 : 0x380000 ≤ o ∧ o < 0x381000
  · rw [if_pos k4] at ht
    replace ht := Option.some.inj ht
    subst ht
    simp only [tableSet, reduceCtorEq] at hc
  rw [if_neg k4] at ht
  clear k4
  by_cases k5 : 0x400000 ≤ o ∧ o < 0x440000
  · rw [if_pos k5] at ht
    replace ht := Option.some.inj ht
    subst ht
    cases hc
    exact live_node o (by omega) (by omega) h4
  rw [if_neg k5] at ht
  clear k5
  by_cases k6 : 0x500000 ≤ o ∧ o < 0x540000
  · rw [if_pos k6] at ht
    replace ht := Option.some.inj ht
    subst ht
    simp only [tableSet, reduceCtorEq] at hc
  rw [if_neg k6] at ht
  clear k6
  by_cases k7 : 0x440000 ≤ o ∧ o < 0x440400
  · rw [if_pos k7] at ht
    replace ht := Option.some.inj ht
    subst ht
    simp only [tableSet, reduceCtorEq] at hc
  rw [if_neg k7] at ht
  clear k7
  by_cases k8 : 0x450000 ≤ o ∧ o < 0x452000
  · rw [if_pos k8] at ht
    by_cases k : o % 0x40 < 0x0C ∨ (0x10 ≤ o % 0x40 ∧ o % 0x40 < 0x34)
    · rw [if_pos k] at ht
      replace ht := Option.some.inj ht
      subst ht
      simp only [tableSet, reduceCtorEq] at hc
    · rw [if_neg k] at ht; cases ht
  rw [if_neg k8] at ht
  clear k8
  by_cases k9 : 0x460000 ≤ o ∧ o < 0x460400
  · rw [if_pos k9] at ht
    replace ht := Option.some.inj ht
    subst ht
    simp only [tableSet, reduceCtorEq] at hc
  rw [if_neg k9] at ht
  clear k9
  by_cases k10 : 0x470400 ≤ o ∧ o < 0x470C00
  · rw [if_pos k10] at ht
    replace ht := Option.some.inj ht
    subst ht
    simp only [tableSet, reduceCtorEq] at hc
  rw [if_neg k10] at ht
  clear k10
  by_cases k11 : 0x480000 ≤ o ∧ o < 0x481400
  · rw [if_pos k11] at ht
    by_cases k : o % 0x40 = 0x18 ∨ o % 0x40 = 0x1C
    · rw [if_pos k] at ht; cases ht
    · rw [if_neg k] at ht
      replace ht := Option.some.inj ht
      subst ht
      cases hc
      exact live_tone o (by omega) (by omega) h4 (by omega) (by omega)
  rw [if_neg k11] at ht
  clear k11
  by_cases k12 : 0x490000 ≤ o ∧ o < 0x498000
  · rw [if_pos k12] at ht
    by_cases k : o % 0x20 < 0x1C
    · rw [if_pos k] at ht
      replace ht := Option.some.inj ht
      subst ht
      simp only [tableSet] at hc
      by_cases hq : o % 0x20 < 0x14
      · rw [if_pos hq] at hc
        cases hc
        exact live_eq o (by omega) (by omega) h4 hq
      · rw [if_neg hq] at hc; cases hc
    · rw [if_neg k] at ht; cases ht
  rw [if_neg k12] at ht
  clear k12
  by_cases k13 : 0x4A0000 ≤ o ∧ o < 0x4A2000
  · rw [if_pos k13] at ht
    by_cases k : o % 0x20 ≤ 0x08 ∨ o % 0x20 = 0x10 ∨ o % 0x20 = 0x14
    · rw [if_pos k] at ht
      replace ht := Option.some.inj ht
      subst ht
      simp only [tableSet] at hc
      by_cases hq : o % 0x20 < 0xC
      · rw [if_pos hq] at hc
        cases hc
        exact live_lim o (by omega) (by omega) h4 hq
      · rw [if_neg hq] at hc; cases hc
    · rw [if_neg k] at ht; cases ht
  rw [if_neg k13] at ht
  clear k13
  by_cases k14 : 0x580000 ≤ o ∧ o < 0x582000
  · rw [if_pos k14] at ht
    replace ht := Option.some.inj ht
    subst ht
    simp only [tableSet, reduceCtorEq] at hc
  rw [if_neg k14] at ht
  clear k14
  by_cases k15 : 0x600000 ≤ o ∧ o < 0x602000
  · rw [if_pos k15] at ht
    by_cases k : o % 0x80 < 0x1C ∨ (0x20 ≤ o % 0x80 ∧ o % 0x80 < 0x4C)
    · rw [if_pos k] at ht
      replace ht := Option.some.inj ht
      subst ht
      simp only [tableSet, reduceCtorEq] at hc
    · rw [if_neg k] at ht; cases ht
  rw [if_neg k15] at ht
  clear k15
  by_cases k16 : 0x610000 ≤ o ∧ o < 0x611000
  · rw [if_pos k16] at ht
    by_cases k : o % 0x40 < 0x1C ∨ (0x20 ≤ o % 0x40 ∧ o % 0x40 < 0x2C)
    · rw [if_pos k] at ht
      replace ht := Option.some.inj ht
      subst ht
      simp only [tableSet, reduceCtorEq] at hc
    · rw [if_neg k] at ht; cases ht
  rw [if_neg k16] at ht
  clear k16
  by_cases k17 : 0x700000 ≤ o ∧ o < 0x700200
  · rw [if_pos k17] at ht
    by_cases k : o % 0x20 < 0x14
    · rw [if_pos k] at ht
      replace ht := Option.some.inj ht
      subst ht
      simp only [tableSet, reduceCtorEq] at hc
    · rw [if_neg k] at ht; cases ht
  rw [if_neg k17] at ht
  clear k17
  cases ht

/-- Copying a clean set into its shadow: the words copied read as their staged values, every other word as before. -/
theorem copied_rd (c : CSet) (l : List Nat) : ∀ (s : State), s.isDirty c = false →
    (∀ w ∈ l, 0x3C000000 ≤ w ∧ w < 0x3C800000) → ∀ b,
    ((l.foldl (fun s a => s.wr (a + shadowOff) (stagedWord s c a)) s).rd b
      = if b ∈ l.map (· + shadowOff) then stagedWord s c (b - shadowOff) else s.rd b) := by
  induction l with
  | nil => intros; rfl
  | cons a l ih =>
    intro s hd hl b
    have ha := hl a List.mem_cons_self
    have hd' : (s.wr (a + shadowOff) (stagedWord s c a)).isDirty c = false := by
      unfold State.isDirty at hd ⊢
      rw [State.wr_safe]
      exact hd
    have live : ∀ w, w < 0x3C800000 → stagedWord (s.wr (a + shadowOff) (stagedWord s c a)) c w = stagedWord s c w := by
      intro w hw
      generalize stagedWord s c a = v at hd' ⊢
      unfold stagedWord
      rw [hd', hd]
      simp only [Bool.false_eq_true, if_false]
      have h0 : shadowOff = 0x800000 := rfl
      have hne : w ≠ a + shadowOff := by omega
      rw [State.rd_wr, if_neg hne]
    rw [List.foldl_cons, ih _ hd' (fun w hw => hl w (List.mem_cons_of_mem _ hw)) b]
    simp only [List.map_cons, List.mem_cons]
    by_cases hb : b ∈ l.map (· + shadowOff)
    · rw [if_pos hb, if_pos (.inr hb)]
      obtain ⟨w, hw, rfl⟩ := List.mem_map.mp hb
      have := hl w (List.mem_cons_of_mem _ hw)
      exact live _ (by omega)
    · rw [if_neg hb]
      by_cases he : b = a + shadowOff
      · rw [if_pos (.inl he), he, State.rd_wr, if_pos rfl, Nat.add_sub_cancel]
      · rw [if_neg (by rintro (h | h); exact he h; exact hb h), State.rd_wr, if_neg he]

theorem wr_regs (s : State) (a : Nat) (v : Word) (r : Table Word) : { s.wr a v with regs := r } = { s with regs := r } := rfl

theorem copied_rest (c : CSet) (l : List Nat) : ∀ (s : State),
    ∃ r, l.foldl (fun s a => s.wr (a + shadowOff) (stagedWord s c a)) s = { s with regs := r } := by
  induction l with
  | nil => exact fun s => ⟨s.regs, rfl⟩
  | cons a l ih =>
    intro s
    obtain ⟨r, h⟩ := ih (s.wr (a + shadowOff) (stagedWord s c a))
    exact ⟨r, by rw [List.foldl_cons, h, wr_regs]⟩

/-- The bits of a staged value that a set keeps: of a node its gain alone. -/
def stagedBits (c : CSet) (v : Word) : Word :=
  match c with
  | .node _ _ => v &&& 0xFFFF#32
  | _ => v

theorem isDirty_setDirty (s : State) (c d : CSet) : (s.setDirty c).isDirty d = (decide (d = c) || s.isDirty d) := by
  unfold State.setDirty
  by_cases h : s.isDirty c
  · rw [if_pos h]
    by_cases e : d = c
    · subst e; simp [h]
    · simp [e]
  · rw [if_neg h]
    simp only [State.isDirty, List.contains_cons]
    by_cases e : d = c <;> simp [e]

theorem setDirty_rest (s : State) (c : CSet) : ∃ l, s.setDirty c = { s with safe := { s.safe with dirty := l } } := by
  unfold State.setDirty
  split
  · exact ⟨s.safe.dirty, rfl⟩
  · exact ⟨_, rfl⟩

/-- Everything that staging one word does: the set is DIRTY, the word has its value, the set's other words keep their staged
values, and nothing but the set's shadows and its DIRTY changes. -/
theorem stageWord_spec (c : CSet) (b : Nat) (v : Word) (s : State) (hl : ∀ w ∈ setWords c, 0x3C000000 ≤ w ∧ w < 0x3C800000)
    (hb : b ∈ setWords c) :
    (stageWord c b v s).isDirty c = true ∧ stagedWord (stageWord c b v s) c b = stagedBits c v ∧
    (∀ w ∈ setWords c, w ≠ b → stagedWord (stageWord c b v s) c w = stagedWord s c w) ∧
    (∀ w, w ∉ (setWords c).map (· + shadowOff) → (stageWord c b v s).rd w = s.rd w) ∧
    (∀ d, d ≠ c → (stageWord c b v s).isDirty d = s.isDirty d) ∧
    ∃ r l, stageWord c b v s = { s with regs := r, safe := { s.safe with dirty := l } } := by
  obtain ⟨s1, hs1, hrd, hdir, hrest⟩ : ∃ s1 : State, s1 = (if s.isDirty c then s
      else (setWords c).foldl (fun s a => s.wr (a + shadowOff) (stagedWord s c a)) s) ∧
      (∀ w, s1.rd w = if w ∈ (setWords c).map (· + shadowOff) then
        stagedWord s c (w - shadowOff) else s.rd w) ∧ (∀ d, s1.isDirty d = s.isDirty d) ∧ ∃ r, s1 = { s with regs := r } := by
    refine ⟨_, rfl, ?_⟩
    by_cases hd : s.isDirty c = true
    · rw [if_pos hd]
      refine ⟨fun w => ?_, fun _ => rfl, s.regs, rfl⟩
      split
      · rename_i h
        obtain ⟨w', _, rfl⟩ := List.mem_map.mp h
        unfold stagedWord
        rw [if_pos hd, Nat.add_sub_cancel]
      · rfl
    · have hd' : s.isDirty c = false := by simpa using hd
      rw [if_neg hd]
      refine ⟨copied_rd c _ s hd' hl, ?_, copied_rest c _ s⟩
      obtain ⟨r, hr⟩ := copied_rest c (setWords c) s
      rw [hr]
      exact fun _ => rfl
  have he : stageWord c b v s = (s1.setDirty c).wr (b + shadowOff) (stagedBits c v) := by
    unfold stageWord
    rw [← hs1]
    rfl
  have hdc : (stageWord c b v s).isDirty c = true := by
    rw [he]
    generalize stagedBits c v = x
    have : ((s1.setDirty c).wr (b + shadowOff) x).isDirty c = (s1.setDirty c).isDirty c := by
      unfold State.isDirty; rw [State.wr_safe]
    rw [this, isDirty_setDirty]
    simp
  have hr : ∀ w, (stageWord c b v s).rd w = if w = b + shadowOff then stagedBits c v else s1.rd w := by
    intro w
    rw [he, State.rd_wr]
    obtain ⟨l, hl⟩ := setDirty_rest s1 c
    rw [hl]
    rfl
  refine ⟨hdc, ?_, ?_, ?_, ?_, ?_⟩
  · unfold stagedWord
    rw [if_pos hdc, hr, if_pos rfl]
  · intro w hw hne
    unfold stagedWord
    rw [if_pos hdc, hr, if_neg (by omega), hrd, if_pos (List.mem_map.mpr ⟨w, hw, rfl⟩), Nat.add_sub_cancel]
    rfl
  · intro w hw
    rw [hr, if_neg, hrd, if_neg hw]
    rintro rfl
    exact hw (List.mem_map.mpr ⟨b, hb, rfl⟩)
  · intro d hd
    rw [he]
    generalize stagedBits c v = x
    have : ((s1.setDirty c).wr (b + shadowOff) x).isDirty d = (s1.setDirty c).isDirty d := by
      unfold State.isDirty; rw [State.wr_safe]
    rw [this, isDirty_setDirty, hdir]
    simp [hd]
  · obtain ⟨l, hl⟩ := setDirty_rest s1 c
    obtain ⟨r, hr⟩ := hrest
    refine ⟨((s1.setDirty c).wr (b + shadowOff) (stagedBits c v)).regs, l, he.trans ?_⟩
    generalize b + shadowOff = k
    rw [hl, hr]
    rfl

theorem mergeWord_full (y : Word) (a v : Nat) : mergeWord y a 4 v = BitVec.ofNat 32 v := if_pos (by decide)

/-- A word write of a word of the shadow half is a shadow write of its set. -/
theorem apertureWrite_shadow (w : Who) (a v src : Nat) (t : ApTable) (c : CSet) (s : State) (h4 : wordOf a = a)
    (hlo : ¬ a < 0x3C800000) (hat : apTableAt a = some t) (hc : tableSet t = some c) :
    apertureWrite w a 4 v src s = shadowWrite t c (a - shadowOff) (BitVec.ofNat 32 v) s := by
  unfold apertureWrite
  rw [h4]
  simp only [hat, mergeWord_full]
  rw [if_neg hlo, hc]

/-- A word write of a word of the live half is a write of its table. -/
theorem apertureWrite_live (w : Who) (a v src : Nat) (t : ApTable) (s : State) (h4 : wordOf a = a) (hlo : a < 0x3C800000)
    (hat : apTableAt a = some t) : apertureWrite w a 4 v src s = tableWrite w t a (BitVec.ofNat 32 v) src s := by
  unfold apertureWrite
  rw [h4]
  simp only [hat, mergeWord_full]
  rw [if_pos hlo]

/-- A shadow write that the node limit does not refuse stages its word. -/
theorem shadowWrite_stages (t : ApTable) (c : CSet) (b : Nat) (v : Word) (s : State)
    (h : ∀ o i, c = .node o i → nodeFull s o i (fld (v &&& BitVec.ofNat 32 (apMask t)) 0 16) = false) :
    shadowWrite t c b v s = stageWord c b (v &&& BitVec.ofNat 32 (apMask t)) s := by
  unfold shadowWrite
  dsimp only
  split
  · rename_i o i
    rw [if_neg (by simpa using h o i rfl)]
  · rfl

theorem apTable_node (o i : Nat) (ho : o < 256) (hi : i < 256) : apTable (Reg.nodeWord o i) = some (.node o i) := by
  have e : Reg.nodeWord o i - 0x3C000000 = 0x400000 + (0x400 * o + 4 * i) := by unfold Reg.nodeWord; omega
  unfold apTable
  dsimp only
  rw [e, if_neg (by omega), if_neg (by omega), if_neg (by omega), if_neg (by omega), if_neg (by omega), if_pos (by omega)]
  have h1 : (0x400000 + (0x400 * o + 4 * i) - 0x400000) / 0x400 = o := by omega
  have h2 : (0x400000 + (0x400 * o + 4 * i)) % 0x400 / 4 = i := by omega
  rw [h1, h2]

/-- A word write of a word of a core's inactive coefficient bank: it is held while a copy runs, and is a shadow write
otherwise. -/
theorem windowWrite_coef (w : Who) (n off v : Nat) (s : State) (hn : n < 16) (ho : off < 0x2000) :
    windowWrite w (coefBase n (!(s.sc n).cbank) + off) 4 v s
      = if (s.sc n).copying then
          s.setSc n { s.sc n with held := (s.sc n).held ++ [(coefBase n (!(s.sc n).cbank) + off, 4, v)] }
        else (s.setDirty (.coef n)).mwr (coefBase n (!(s.sc n).cbank) + off) 4 v := by
  have e : ∃ z, (z = 0x14000 ∨ z = 0x16000) ∧ coefBase n (!(s.sc n).cbank) = 0x38000000 + 0x20000 * n + z ∧
      decide (0x16000 ≤ z + off) = !(s.sc n).cbank := by
    cases h : (s.sc n).cbank
    · exact ⟨0x16000, .inr rfl, rfl, by simp⟩
    · exact ⟨0x14000, .inl rfl, rfl, by simp; omega⟩
  obtain ⟨z, hz, hb, hd⟩ := e
  generalize coefBase n (!(s.sc n).cbank) = base at hb ⊢
  have k1 : (base + off - 0x38000000) / 0x20000 = n := by omega
  have k2 : (base + off - 0x38000000) % 0x20000 = z + off := by omega
  unfold windowWrite
  simp only [k1, k2, hd]
  have hne : ¬ ((!(s.sc n).cbank) = (s.sc n).cbank) := by cases (s.sc n).cbank <;> decide
  rw [if_neg (by omega), if_neg (by omega), if_neg hne]

/-- Writes into memory, one after another: nothing but the memory and its flipped bits changes. -/
theorem mwrs_rest (l : List (Nat × Nat × Nat)) (t : State) :
    ∃ e, l.foldl (fun t h => t.mwr h.1 h.2.1 h.2.2) t
      = { t with mem := l.foldl (fun m h => memPutBytes m h.1 (leBytes h.2.1 h.2.2)) t.mem, ecc := e } := by
  induction l generalizing t with
  | nil => exact ⟨t.ecc, rfl⟩
  | cons h l ih => exact ih (t.mwr h.1 h.2.1 h.2.2)

/-- The end of a bank copy, field by field. -/
theorem coefCopyEnd_spec (n : Nat) (s : State) (h : (s.sc n).copying = true) :
    ((coefCopyEnd n s).sc n).copying = false ∧ ((coefCopyEnd n s).sc n).held = [] ∧
    (coefCopyEnd n s).mem = (s.sc n).held.foldl (fun m h => memPutBytes m h.1 (leBytes h.2.1 h.2.2))
      (memCopy s.mem (coefBase n (s.sc n).cbank) (coefBase n !(s.sc n).cbank) 0x2000) ∧
    (coefCopyEnd n s).isDirty (.coef n) = (decide ((s.sc n).held ≠ []) || s.isDirty (.coef n)) := by
  have k : ∀ (c : SampleCore) (m : List Host.Cell) (e : Table Nat) (d : List CSet),
      ({ s.setSc n c with mem := m, ecc := e, safe := { s.safe with dirty := d } } : State).sc n = c := by
    intro c m e d
    exact (State.sc_setSc s n n c).trans (if_pos rfl)
  unfold coefCopyEnd
  rw [if_pos h]
  dsimp only
  generalize hc : s.sc n = c at *
  obtain ⟨e, he⟩ := mwrs_rest c.held { s.setSc n { c with copying := false, held := [] } with
    mem := memCopy (s.setSc n { c with copying := false, held := [] }).mem (coefBase n c.cbank) (coefBase n !c.cbank) 0x2000
    ecc := eccOut (coefBase n !c.cbank) 0x2000 (s.setSc n { c with copying := false, held := [] }).ecc }
  rw [he]
  refine ⟨congrArg SampleCore.copying (k _ _ _ _), congrArg SampleCore.held (k _ _ _ _), rfl, ?_⟩
  by_cases hh : c.held = []
  · simp [State.isDirty, hh]
  · by_cases hd : CSet.coef n ∈ s.safe.dirty
    · simp [State.isDirty, hh, hd]
    · simp [State.isDirty, hh, hd]

end Sys2Proof.Machine
end

