-- ==== Sys2Proof/Laws/Requests.lean ====
section
/-! SUPPORT. What a commit request and a claim request leave. -/

namespace Sys2Proof.Machine
open Sys2Proof

/-- What a commit request leaves as it was. -/
structure RequestFrame (s t : State) : Prop where
  dirty : t.safe.dirty = s.safe.dirty
  eng : t.eng = s.eng
  weld : t.weld = s.weld
  wbPend : t.wbPend = s.wbPend
  bus : t.bus = s.bus
  modes : t.modes = s.modes
  regs : ∀ a, recordReg a = false → a ≠ Reg.safeEvtSrc → t.rd a = s.rd a

theorem RequestFrame.refl (s : State) : RequestFrame s s := ⟨rfl, rfl, rfl, rfl, rfl, rfl, fun _ _ _ => rfl⟩

theorem RequestFrame.trans {s t u : State} (h : RequestFrame s t) (k : RequestFrame t u) : RequestFrame s u :=
  ⟨k.dirty.trans h.dirty, k.eng.trans h.eng, k.weld.trans h.weld, k.wbPend.trans h.wbPend, k.bus.trans h.bus,
    k.modes.trans h.modes, fun a h1 h2 => (k.regs a h1 h2).trans (h.regs a h1 h2)⟩

theorem RequestFrame.mayCommit {s t : State} (h : RequestFrame s t) (g id : Nat) (p : Bool) (hg : g < 64) :
    mayCommit t g id p = Machine.mayCommit s g id p := by
  have h1 : t.rd (Reg.grpCfg g) = s.rd (Reg.grpCfg g) := by
    apply h.regs
    · unfold recordReg Reg.grpCfg Reg.evtRingRd Reg.evtRingWr Reg.evtOverruns Reg.evtDrops
      simp
      omega
    · unfold Reg.grpCfg Reg.safeEvtSrc
      omega
  have h2 : t.rd (slotBase 3 + 4) = s.rd (slotBase 3 + 4) := h.regs _ (by decide) (by decide)
  unfold Machine.mayCommit State.enabled grpOwner State.rdf State.bit
  rw [h1, h2, h.modes]

theorem safeEvent_frame (b g : Nat) (s : State) : RequestFrame s (safeEvent b g s) ∧ ∀ j, (safeEvent b g s).grp j = s.grp j := by
  unfold safeEvent
  have hr := sqSet_rest Reg.safeEvt b (s.wrn Reg.safeEvtSrc g)
  have hd := sqSet_rd Reg.safeEvt b
  have hd' := fun a h => hd a (s.wrn Reg.safeEvtSrc g) h
  generalize sqSet Reg.safeEvt [b] (s.wrn Reg.safeEvtSrc g) = t at hr hd' ⊢
  refine ⟨⟨?_, ?_, ?_, ?_, ?_, ?_, fun a h1 h2 => ?_⟩, fun j => ?_⟩
  · rw [hr, State.wrn_safe]
  · rw [hr, State.wrn_eng]
  · rw [hr, State.wrn_weld]
  · rw [hr, State.wrn_wbPend]
  · rw [hr, State.wrn_bus]
  · rw [hr, State.wrn_modes]
  · rw [hd' a h1, State.rd_wrn, if_neg h2]
  · unfold State.grp
    rw [hr, State.wrn_safe]

/-- One group's commit request (R199, R200). -/
theorem commitRequest_spec (id : Nat) (p : Bool) (g : Nat) (s : State) :
    RequestFrame s (commitRequest id p g s) ∧ ∀ j, (commitRequest id p g s).grp j
      = if (decide (j = g) && mayCommit s g id p) && !(s.grp j).pending then
          { s.grp j with pending := true, cancelled := false } else s.grp j := by
  unfold commitRequest
  by_cases hm : mayCommit s g id p = true
  · rw [if_pos hm]
    by_cases hp : (s.grp g).pending = true
    · rw [if_pos hp]
      refine ⟨.refl s, fun j => ?_⟩
      rw [if_neg]
      simp only [Bool.and_eq_true, decide_eq_true_eq, Bool.not_eq_true', not_and, Bool.not_eq_false]
      rintro ⟨rfl, _⟩
      exact hp
    · rw [if_neg hp]
      refine ⟨⟨rfl, rfl, rfl, rfl, rfl, rfl, fun _ _ _ => rfl⟩, fun j => ?_⟩
      rw [State.grp_setGrp]
      by_cases e : j = g
      · subst e; simp [hm, hp]
      · simp [e]
  · rw [if_neg hm]
    refine ⟨(safeEvent_frame 4 g s).1, fun j => ?_⟩
    rw [(safeEvent_frame 4 g s).2 j, if_neg]
    simp [hm]

theorem commitReq_fold (id : Nat) (p : Bool) (base : Nat) (l : List Nat) : ∀ s : State, (∀ k ∈ l, base + k < 64) →
    RequestFrame s (l.foldl (fun s k => commitRequest id p (base + k) s) s) ∧
    ∀ j, (l.foldl (fun s k => commitRequest id p (base + k) s) s).grp j
      = if (l.any (fun k => base + k == j) && mayCommit s j id p) && !(s.grp j).pending then
          { s.grp j with pending := true, cancelled := false } else s.grp j := by
  induction l with
  | nil => exact fun s _ => ⟨.refl s, fun j => by simp⟩
  | cons k l ih =>
    intro s hl
    obtain ⟨f, hg⟩ := commitRequest_spec id p (base + k) s
    obtain ⟨f', hg'⟩ := ih (commitRequest id p (base + k) s) fun k hk => hl k (List.mem_cons_of_mem _ hk)
    rw [List.foldl_cons]
    refine ⟨f.trans f', fun j => ?_⟩
    rw [hg' j, hg j]
    by_cases hj : j < 64
    · rw [f.mayCommit j id p hj]
      by_cases e : j = base + k
      · subst e
        have hb : (base + k == base + k) = true := by simp
        cases hm : mayCommit s (base + k) id p <;> cases hp : (s.grp (base + k)).pending <;> simp [hm, hp]
      · have hb : (base + k == j) = false := by simp; omega
        have hd : decide (j = base + k) = false := by simp [e]
        simp only [hd, Bool.false_and, Bool.false_eq_true, if_false, List.any_cons, hb, Bool.false_or]
    · have h1 : (l.any fun k => base + k == j) = false := by
        rw [List.any_eq_false]
        intro k' hk'
        have := hl k' (List.mem_cons_of_mem _ hk')
        simp only [beq_iff_eq]
        omega
      have h2 := hl k List.mem_cons_self
      have hd : decide (j = base + k) = false := by simp; omega
      have hb : (base + k == j) = false := by simp; omega
      simp only [hd, Bool.false_and, Bool.false_eq_true, if_false, List.any_cons, hb, Bool.false_or, h1]

theorem mem_bitsOf (n v k : Nat) : k ∈ bitsOf n v ↔ k < n ∧ v.testBit k = true := by
  unfold bitsOf
  rw [List.mem_filter, List.mem_range, Nat.testBit_eq_decide_div_mod_eq]

/-- A write of a commit-request register: the groups that become pending, and what it leaves as it was. -/
theorem commitReqWrite_spec (base id : Nat) (p : Bool) (v : Word) (s : State) (hb : base + 32 ≤ 64) :
    RequestFrame s (commitReqWrite base id p v s) ∧ ∀ g, (commitReqWrite base id p v s).grp g
      = if (decide (base ≤ g ∧ g < base + 32) && v.getLsbD (g - base) && mayCommit s g id p) && !(s.grp g).pending then
          { s.grp g with pending := true, cancelled := false } else s.grp g := by
  have h := commitReq_fold id p base (bitsOf 32 v.toNat) s fun k hk => by
    have := ((mem_bitsOf _ _ _).mp hk).1
    omega
  refine ⟨h.1, fun g => ?_⟩
  have he : ((bitsOf 32 v.toNat).any fun k => base + k == g)
      = (decide (base ≤ g ∧ g < base + 32) && v.getLsbD (g - base)) := by
    rw [Bool.eq_iff_iff, List.any_eq_true]
    simp only [mem_bitsOf, beq_iff_eq, Bool.and_eq_true, decide_eq_true_eq, BitVec.getLsbD]
    constructor
    · rintro ⟨k, ⟨h1, h2⟩, rfl⟩
      exact ⟨⟨by omega, by omega⟩, by rwa [Nat.add_sub_cancel_left]⟩
    · rintro ⟨⟨h1, h2⟩, h3⟩
      exact ⟨g - base, ⟨by omega, h3⟩, by omega⟩
  exact (h.2 g).trans (by rw [he])

/-- The fields of a claim request whose operation the command gives. -/
theorem claim_fields (v : BitVec 64) (op : Nat) (ho : op < 4) :
    let q : Word := (withField v 16 2 op).setWidth 32 &&& 0x3FF7F#32
    fld q 0 7 = v.toNat % 128 ∧ fld q 8 4 = v.toNat / 256 % 16 ∧ fld q 12 4 = v.toNat / 4096 % 16 ∧ fld q 16 2 = op ∧
      q &&& 0x3FF7F#32 = BitVec.ofNat 32 (v.toNat % 128 + v.toNat / 256 % 256 * 256 + op * 65536) := by
  intro q
  have hv := v.isLt
  have hx : ((withField v 16 2 op).setWidth 32).toNat = (v.toNat - v.toNat / 65536 % 4 * 65536 + op * 65536) % 4294967296 := by
    unfold withField
    rw [BitVec.toNat_setWidth, BitVec.toNat_ofNat]
    omega
  obtain ⟨x, hxe⟩ : ∃ x : Word, x = (withField v 16 2 op).setWidth 32 := ⟨_, rfl⟩
  rw [← hxe] at hx
  have hq : q = x &&& 0x3FF7F#32 := by rw [hxe]
  clear_value q
  have g : ∀ lo n, (∀ i < n, (0x3FF7F#32).toNat.testBit (lo + i) = true) → fld q lo n = fld x lo n := by
    intro lo n h
    rw [hq]
    exact fld_and _ _ _ _ h
  have f1 : fld q 0 7 = fld x 0 7 := g _ _ (by decide)
  have f2 : fld q 8 4 = fld x 8 4 := g _ _ (by decide)
  have f3 : fld q 12 4 = fld x 12 4 := g _ _ (by decide)
  have f4 : fld q 16 2 = fld x 16 2 := g _ _ (by decide)
  have hqq : q &&& 0x3FF7F#32 = q := by rw [hq, BitVec.and_assoc, BitVec.and_self]
  refine ⟨?_, ?_, ?_, ?_, ?_⟩
  · rw [f1]; unfold fld; rw [hx]; omega
  · rw [f2]; unfold fld; rw [hx]; omega
  · rw [f3]; unfold fld; rw [hx]; omega
  · rw [f4]; unfold fld; rw [hx]; omega
  · rw [hqq]
    apply BitVec.eq_of_toNat_eq
    have key : q.toNat = fld q 0 7 + fld q 8 8 * 256 + fld q 16 2 * 65536 := by
      have e1 : q.toNat / 128 % 2 = 0 := by
        have : q.toNat.testBit 7 = false := by
          rw [hq, BitVec.toNat_and, Nat.testBit_and, show (0x3FF7F#32).toNat.testBit 7 = false from by decide, Bool.and_false]
        rw [Nat.testBit_eq_decide_div_mod_eq] at this
        simp at this
        omega
      have e2 : q.toNat ≤ 262015 := by
        rw [hq, BitVec.toNat_and]
        exact Nat.and_le_right
      unfold fld
      omega
    rw [key, f1, f4, g 8 8 (by decide)]
    unfold fld
    rw [hx, BitVec.toNat_ofNat]
    omega

/-- The same of the word with the register's own bits (FILL among them). -/
theorem claim_fields' (v : BitVec 64) (op : Nat) (ho : op < 4) :
    let q : Word := (withField v 16 2 op).setWidth 32 &&& 0x3FBFF7F#32
    fld q 0 7 = v.toNat % 128 ∧ fld q 8 4 = v.toNat / 256 % 16 ∧ fld q 12 4 = v.toNat / 4096 % 16 ∧ fld q 16 2 = op ∧
      q &&& 0x3FF7F#32 = BitVec.ofNat 32 (v.toNat % 128 + v.toNat / 256 % 256 * 256 + op * 65536) := by
  have h := claim_fields v op ho
  dsimp only at h ⊢
  generalize (withField v 16 2 op).setWidth 32 = x at h ⊢
  obtain ⟨h1, h2, h3, h4, h5⟩ := h
  have g : ∀ lo n, (∀ i < n, (0x3FF7F#32).toNat.testBit (lo + i) = true) →
      (∀ i < n, (0x3FBFF7F#32).toNat.testBit (lo + i) = true) → fld (x &&& 0x3FBFF7F#32) lo n = fld (x &&& 0x3FF7F#32) lo n :=
    fun lo n a b => (fld_and x _ lo n b).trans (fld_and x _ lo n a).symm
  refine ⟨?_, ?_, ?_, ?_, ?_⟩
  · rw [g 0 7 (by decide) (by decide), h1]
  · rw [g 8 4 (by decide) (by decide), h2]
  · rw [g 12 4 (by decide) (by decide), h3]
  · rw [g 16 2 (by decide) (by decide), h4]
  · rw [← h5, BitVec.and_assoc, BitVec.and_assoc]
    rfl

end Sys2Proof.Machine
end

