-- ==== Sys2Proof/Laws/Riller.lean ====
section
/-! SUPPORT. What sending a Riller message and ending a session can do. -/

namespace Sys2Proof.Machine
open Sys2Proof

/-- What sending a message leaves as it was: a frame that the crossing to the switch drops is counted, with its event (R92). -/
structure SendFrame (s t : State) : Prop where
  rest : t = { s with regs := t.regs, mem := t.mem, ecc := t.ecc, sqs := t.sqs, evt := t.evt, net := t.net,
                      ports := t.ports, dict := { s.dict with tenants := t.dict.tenants },
                      ril := { s.ril with sent := t.ril.sent } }
  regs : ∀ a, recordReg a = false → a ≠ Reg.netDrop true → a ≠ Reg.netDrop false → (∀ k, a ≠ Reg.xingDrop k) → t.rd a = s.rd a
  ten : ∀ k, t.tenant k = { s.tenant k with events := (t.tenant k).events, lostEvents := (t.tenant k).lostEvents,
                                            taps := (t.tenant k).taps, lostTaps := (t.tenant k).lostTaps,
                                            evSince := (t.tenant k).evSince }

theorem SendFrame.refl (s : State) : SendFrame s s := ⟨rfl, fun _ _ _ _ _ => rfl, fun _ => rfl⟩

theorem SendFrame.trans {s t u : State} (h : SendFrame s t) (k : SendFrame t u) : SendFrame s u :=
  ⟨by rw [k.rest, h.rest], fun a h0 h1 h2 h3 => (k.regs a h0 h1 h2 h3).trans (h.regs a h0 h1 h2 h3),
    fun n => by rw [k.ten n, h.ten n]⟩

theorem SendFrame.net (s : State) (n : Net) : SendFrame s { s with net := n } :=
  ⟨rfl, fun _ _ _ _ _ => rfl, fun _ => rfl⟩

theorem SendFrame.wr (s : State) (a : Nat) (v : Word)
    (h : a = Reg.netDrop true ∨ a = Reg.netDrop false ∨ ∃ k, a = Reg.xingDrop k) : SendFrame s (s.wr a v) := by
  refine ⟨rfl, fun b _ h1 h2 h3 => ?_, fun _ => rfl⟩
  rw [State.rd_wr, if_neg]
  rintro rfl
  rcases h with h | h | ⟨k, h⟩
  · exact h1 h
  · exact h2 h
  · exact h3 k h

/-- A setting event is one of the things that sending can do. -/
theorem SendFrame.event (a b : Nat) (s : State) : SendFrame s (sqSet a [b] s) ∧ (sqSet a [b] s).ril = s.ril := by
  have h := sqSet_frame a b s
  have hr := sqSet_rest a b s
  refine ⟨⟨?_, fun k h0 _ _ _ => h.regs k h0, fun n => h.ten n⟩, ?_⟩
  · rw [hr]
  · rw [hr]

theorem egress_frame (b : Bool) (f : NetFrame) (s : State) :
    SendFrame s (egress b f s) ∧ (egress b f s).ril = s.ril := by
  unfold egress
  split
  · exact ⟨.net s _, rfl⟩
  · exact ⟨.wr s _ _ (by cases b <;> simp), rfl⟩

/-- A frame that the crossing drops is counted. -/
theorem xingDropped_frame (k : Nat) (s : State) : SendFrame s (xingDropped k s) ∧ (xingDropped k s).ril = s.ril := by
  have h1 : SendFrame s (s.incSat (Reg.xingDrop k)) ∧ (s.incSat (Reg.xingDrop k)).ril = s.ril := by
    unfold State.incSat
    dsimp only
    split
    · exact ⟨.wr s _ _ (.inr (.inr ⟨k, rfl⟩)), rfl⟩
    · exact ⟨.refl s, rfl⟩
  have h2 := SendFrame.event Reg.clkMon 5 (s.incSat (Reg.xingDrop k))
  exact ⟨h1.1.trans h2.1, h2.2.trans h1.2⟩

theorem ownEgress_frame (b : Bool) (f : NetFrame) (s : State) :
    SendFrame s (ownEgress b f s) ∧ (ownEgress b f s).ril = s.ril := by
  unfold ownEgress viaFifo
  simp only [Bool.false_eq_true, if_false]
  split
  · split
    · exact egress_frame b f s
    · exact ⟨.refl s, rfl⟩
  · exact xingDropped_frame _ s

theorem originate_frame (f : NetFrame) (s : State) : SendFrame s (originate f s) ∧ (originate f s).ril = s.ril := by
  have two : ∀ (f g : NetFrame) (x : State), SendFrame x (ownEgress true f (ownEgress false g x)) ∧
      (ownEgress true f (ownEgress false g x)).ril = x.ril := fun f g x =>
    ⟨(ownEgress_frame false g x).1.trans (ownEgress_frame true f _).1,
      (ownEgress_frame true f _).2.trans (ownEgress_frame false g x).2⟩
  unfold originate
  split
  · have := two { f with hsr := some (2 * s.rdf Reg.netMode 4 3 + 1, s.net.hsrSeq), len := f.len + 6 }
      { f with hsr := some (2 * s.rdf Reg.netMode 4 3, s.net.hsrSeq), len := f.len + 6 }
      (s.modNet fun n => { n with hsrSeq := s.net.hsrSeq + 1#16 })
    exact ⟨(SendFrame.net s { s.net with hsrSeq := s.net.hsrSeq + 1#16 }).trans this.1, this.2⟩
  · split
    · exact ownEgress_frame _ f s
    · exact two f f s
  · exact ownEgress_frame _ f s
  · exact ⟨.refl s, rfl⟩

theorem sendIp_frame (dst : Word) (dscp : Nat) (ttl : Option Nat) (len : Nat) (body : NetBody) (s : State) :
    SendFrame s (sendIp dst dscp ttl len body s) ∧ (sendIp dst dscp ttl len body s).ril = s.ril := by
  unfold sendIp
  dsimp only
  split
  · exact originate_frame _ s
  · split <;> exact originate_frame _ s

/-- Emitting a message: what it is, to whom, and what it leaves as it was. -/
theorem rilEmit_spec (tr : Transport) (ip : Word) (port prio t : Nat) (msg : List Byte) (s : State) :
    SendFrame s (rilEmit tr ip port prio t msg s) ∧
    (rilEmit tr ip port prio t msg s).ril = { s.ril with sent := s.ril.sent ++ [⟨tr, ip, port, msg⟩] } := by
  have h0 : SendFrame s (s.modRil fun r => { r with sent := r.sent ++ [⟨tr, ip, port, msg⟩] }) := ⟨rfl, fun _ _ _ _ _ => rfl, fun _ => rfl⟩
  have hc : ∀ (k : Nat) (c : Can), SendFrame s ((s.modRil fun r => { r with sent := r.sent ++ [⟨tr, ip, port, msg⟩] }).setCan k c) :=
    fun k c => ⟨rfl, fun _ _ _ _ _ => rfl, fun _ => rfl⟩
  unfold rilEmit
  dsimp only
  cases tr with
  | udp => exact ⟨h0.trans (sendIp_frame _ _ _ _ _ _).1, (sendIp_frame _ _ _ _ _ _).2⟩
  | can0 => exact ⟨hc _ _, rfl⟩
  | can1 => exact ⟨hc _ _, rfl⟩

theorem State.sess_setSess (s : State) (k j : Nat) (x : Option Session) :
    (setSess k x s).sess j = if j = k then x else s.sess j := by
  simp [State.sess, setSess, State.modRil, tget_tset]

/-- A protected message on a session whose counter has not run out. -/
theorem rilSend_spec (n kind prio : Nat) (body : List Byte) (s : State) (x : Session) (h : s.sess n = some x)
    (hc : x.txCounter < 2 ^ 64 - 1) :
    let c := x.txCounter + 1
    let head := rilHeader kind x.tenant x.warden (body.length + 16) x.sid c
    SendFrame (setSess n (some { x with txCounter := c }) s) (rilSend n kind prio body s) ∧
    (rilSend n kind prio body s).ril.sent = s.ril.sent ++ [⟨x.transport, x.peerIp, x.peerPort,
      head ++ Config.gcmSeal x.keyD (head.drop 8) head body⟩] := by
  unfold rilSend
  rw [h]
  dsimp only
  rw [if_neg (by omega)]
  exact ⟨(rilEmit_spec _ _ _ _ _ _ _).1, by rw [(rilEmit_spec _ _ _ _ _ _ _).2]; rfl⟩

/-- A message sent leaves the tenants' requests. -/
theorem SendFrame.reqs {s t : State} (h : SendFrame s t) (k : Nat) : (t.tenant k).reqs = (s.tenant k).reqs := by rw [h.ten k]

theorem SendFrame.sess {s t : State} (h : SendFrame s t) (k : Nat) : t.sess k = s.sess k := by rw [h.rest]; rfl

/-- A session that ends: its slot, the others, and its subscriptions. -/
theorem sessDrop_spec (n : Nat) (s : State) (x : Session) (h : s.sess n = some x) :
    (∀ j, (sessDrop n s).sess j = if j = n then none else s.sess j) ∧
    (sessDrop n s).ril.sent = s.ril.sent ∧
    ((sessDrop n s).tenant x.tenant).subEvent = (if (s.tenant x.tenant).subEvent.any (·.sess == n) then none
      else (s.tenant x.tenant).subEvent) ∧
    ((sessDrop n s).tenant x.tenant).subTap = (if (s.tenant x.tenant).subTap.any (·.sess == n) then none
      else (s.tenant x.tenant).subTap) ∧
    (∀ k, ((sessDrop n s).tenant k).reqs = (s.tenant k).reqs) := by
  obtain ⟨f, hf⟩ : ∃ f : Tenant → Tenant, sessDrop n s = rilEvent 5 ((setSess n none s).modTenant x.tenant f) ∧
      ∀ t : Tenant, (f t).subEvent = (if t.subEvent.any (·.sess == n) then none else t.subEvent) ∧
        (f t).subTap = (if t.subTap.any (·.sess == n) then none else t.subTap) ∧ (f t).reqs = t.reqs := by
    refine ⟨fun t =>
      let ev := match t.subEvent with
        | some b => b.sess == n
        | none => false
      let tp := match t.subTap with
        | some b => b.sess == n
        | none => false
      { t with subEvent := if ev then none else t.subEvent, events := if ev then [] else t.events,
               subTap := if tp then none else t.subTap, taps := if tp then [] else t.taps }, ?_, fun t => ⟨?_, ?_, rfl⟩⟩
    · unfold sessDrop
      simp only [h] <;> rfl
    · dsimp only
      cases h1 : t.subEvent <;> simp
    · dsimp only
      cases h1 : t.subTap <;> simp
  obtain ⟨e, hf⟩ := hf
  have fr := sqSet_frame Reg.rilEvt 5 ((setSess n none s).modTenant x.tenant f)
  have hr : (sessDrop n s).ril = (setSess n none s).ril := by rw [e, show rilEvent 5 ((setSess n none s).modTenant x.tenant f) = sqSet Reg.rilEvt [5] _ from rfl, fr.rest]; rfl
  refine ⟨fun j => ?_, by rw [hr]; rfl, ?_, ?_, fun k => ?_⟩
  · unfold State.sess
    rw [hr]
    exact State.sess_setSess s n j none
  · rw [e, show rilEvent 5 ((setSess n none s).modTenant x.tenant f) = sqSet Reg.rilEvt [5] _ from rfl, fr.ten]
    show (((setSess n none s).modTenant x.tenant f).tenant x.tenant).subEvent = _
    unfold State.modTenant
    rw [State.tenant_setTenant, if_pos rfl]
    exact (hf _).1
  · rw [e, show rilEvent 5 ((setSess n none s).modTenant x.tenant f) = sqSet Reg.rilEvt [5] _ from rfl, fr.ten]
    show (((setSess n none s).modTenant x.tenant f).tenant x.tenant).subTap = _
    unfold State.modTenant
    rw [State.tenant_setTenant, if_pos rfl]
    exact (hf _).2.1
  · rw [e, show rilEvent 5 ((setSess n none s).modTenant x.tenant f) = sqSet Reg.rilEvt [5] _ from rfl, fr.ten]
    show (((setSess n none s).modTenant x.tenant f).tenant k).reqs = _
    unfold State.modTenant
    rw [State.tenant_setTenant]
    split
    · rename_i hk
      subst hk
      exact (hf _).2.2
    · rfl

/-- The device closes a session: it sends a CLOSE with the reason, unless its counter has run out, and the session ends. -/
theorem sessClose_spec (n reason : Nat) (s : State) :
    (∀ j, (sessClose n reason s).sess j = if j = n then none else s.sess j) ∧
    (∀ k, ((sessClose n reason s).tenant k).reqs = (s.tenant k).reqs) ∧
    (∀ x, s.sess n = some x → x.txCounter < 2 ^ 64 - 1 →
      let head := rilHeader 6 x.tenant x.warden 17 x.sid (x.txCounter + 1)
      (sessClose n reason s).ril.sent = s.ril.sent ++ [⟨x.transport, x.peerIp, x.peerPort,
        head ++ Config.gcmSeal x.keyD (head.drop 8) head [BitVec.ofNat 8 reason]⟩]) := by
  have drop : ∀ (n : Nat) (u : State), (∀ j, (sessDrop n u).sess j = if j = n then none else u.sess j) ∧
      (∀ k, ((sessDrop n u).tenant k).reqs = (u.tenant k).reqs) ∧ (sessDrop n u).ril.sent = u.ril.sent := by
    intro n u
    cases h : u.sess n with
    | none =>
      have : sessDrop n u = u := by unfold sessDrop; rw [h]
      rw [this]
      refine ⟨fun j => ?_, fun _ => rfl, rfl⟩
      split
      · rename_i hj; rw [hj, h]
      · rfl
    | some x =>
      have := sessDrop_spec n u x h
      exact ⟨this.1, this.2.2.2.2, this.2.1⟩
  unfold sessClose
  cases h : s.sess n with
  | none =>
    rw [if_neg (by simp)]
    refine ⟨fun j => ?_, fun _ => rfl, fun x hx => by cases hx⟩
    split
    · rename_i hj; rw [hj, h]
    · rfl
  | some x =>
    rw [if_pos (show (some x).isSome = true from rfl)]
    obtain ⟨d1, d2, d3⟩ := drop n (rilSend n 6 2 [BitVec.ofNat 8 reason] s)
    by_cases hc : x.txCounter < 2 ^ 64 - 1
    · obtain ⟨f, hs⟩ := rilSend_spec n 6 2 [BitVec.ofNat 8 reason] s x h hc
      refine ⟨fun j => ?_, fun k => ?_, fun y hy _ => ?_⟩
      · rw [d1 j]
        split
        · rfl
        · rename_i hj
          rw [f.sess, State.sess_setSess, if_neg hj]
      · rw [d2 k, f.reqs]
        rfl
      · obtain rfl : x = y := Option.some.inj hy
        rw [d3, hs]
        rfl
    · have e : rilSend n 6 2 [BitVec.ofNat 8 reason] s = sessDrop n s := by
        unfold rilSend
        rw [h]
        dsimp only
        rw [if_pos (by omega)]
      obtain ⟨c1, c2, -⟩ := drop n s
      rw [e] at d1 d2 ⊢
      refine ⟨fun j => ?_, fun k => ?_, fun y hy hyc => ?_⟩
      · rw [d1 j, c1 j]
        split <;> rfl
      · rw [d2 k, c2 k]
      · obtain rfl : x = y := Option.some.inj hy
        exact absurd hyc hc

end Sys2Proof.Machine
end

