-- ==== Sys2Proof/Laws/Streams.lean ====
section
/-! SUPPORT. What starting a receive stream leaves. -/

namespace Sys2Proof.Machine
open Sys2Proof

theorem wr_rest (s : State) (a : Nat) (v : Word) : ∃ r, s.wr a v = { s with regs := r } := ⟨_, rfl⟩

theorem cleared_spec (r : Nat) (hk : r < 64) (l : List Nat) : ∀ (v : State), (∀ x ∈ l, x < 8) →
    ∃ t, l.foldl (fun s j => s.wr (Reg.rxWord r (0x28 + 4 * j)) 0#32) v = { v with regs := t } ∧
      ∀ a, 0x40000000 ≤ a → (l.foldl (fun s j => s.wr (Reg.rxWord r (0x28 + 4 * j)) 0#32) v).rd a = v.rd a := by
  induction l with
  | nil => exact fun v _ => ⟨v.regs, rfl, fun _ _ => rfl⟩
  | cons j l ih =>
    intro v hl
    obtain ⟨t, h, hr⟩ := ih (v.wr (Reg.rxWord r (0x28 + 4 * j)) 0#32) fun x hx => hl x (List.mem_cons_of_mem _ hx)
    have hj := hl j List.mem_cons_self
    refine ⟨t, h, fun a ha => ?_⟩
    rw [List.foldl_cons, hr a ha, State.rd_wr, if_neg]
    simp only [Reg.rxWord]
    omega

/-- A receive stream of a single source starts in WAIT, its counters 0, and sends nothing. -/
theorem rxStart_unicast (r : Nat) (u : State) (hr : r < 64) (hg : isGroupIp (u.rd (Reg.rxWord r 0)) = false) :
    ∃ v, rxStart r u = v.setRxs r { RxStream.off with st := .wait } ∧ (∃ t, v = { u with regs := t }) ∧
      (∀ a, 0x40000000 ≤ a → v.rd a = u.rd a) ∧ v.rd (Reg.rxWord r 0x40) = 0xFFFFFFFF#32 ∧
      v.rd (Reg.rxWord r 0x44) = 0#32 ∧ v.rd (Reg.rxWord r 0x48) = 0#32 := by
  obtain ⟨t, h, hrd⟩ := cleared_spec r hr (List.range 8) u fun x hx => List.mem_range.mp hx
  obtain ⟨w, hw⟩ : ∃ w, w = (List.range 8).foldl (fun s j => s.wr (Reg.rxWord r (0x28 + 4 * j)) 0#32) u := ⟨_, rfl⟩
  rw [← hw] at h hrd
  refine ⟨((w.wr (Reg.rxWord r 0x40) 0xFFFFFFFF#32).wr (Reg.rxWord r 0x44) 0#32).wr (Reg.rxWord r 0x48) 0#32, ?_, ?_, ?_, ?_, ?_, ?_⟩
  · unfold rxStart
    rw [hg, hw]
    rfl
  · obtain ⟨a, ha⟩ := wr_rest w (Reg.rxWord r 0x40) 0xFFFFFFFF#32
    obtain ⟨b, hb⟩ := wr_rest (w.wr (Reg.rxWord r 0x40) 0xFFFFFFFF#32) (Reg.rxWord r 0x44) 0#32
    obtain ⟨c, hc⟩ := wr_rest ((w.wr (Reg.rxWord r 0x40) 0xFFFFFFFF#32).wr (Reg.rxWord r 0x44) 0#32) (Reg.rxWord r 0x48) 0#32
    exact ⟨c, by rw [hc, hb, ha, h]⟩
  · intro a ha
    have far : ∀ o, o < 0x80 → a ≠ Reg.rxWord r o := by
      intro o ho
      simp only [Reg.rxWord]
      omega
    rw [State.rd_wr, if_neg (far _ (by decide)), State.rd_wr, if_neg (far _ (by decide)), State.rd_wr,
      if_neg (far _ (by decide)), hrd a ha]
  · rw [State.rd_wr, if_neg (by simp only [Reg.rxWord]; omega), State.rd_wr, if_neg (by simp only [Reg.rxWord]; omega),
      State.rd_wr, if_pos rfl]
  · rw [State.rd_wr, if_neg (by simp only [Reg.rxWord]; omega), State.rd_wr, if_pos rfl]
  · rw [State.rd_wr, if_pos rfl]

end Sys2Proof.Machine
end

