-- ==== Sys2Proof/Machine/Ledger.lean ====
section
/-! DEFINITION. The latency ledger (chapter 13): stages, the composition of a path's latency, and the entries of an image's
LATENCY section. -/

namespace Sys2Proof.Machine
open Sys2Proof

/-- A stage of a path as the composition counts it: frames of a domain, or a synchronous bridge with its configuration
(R419). -/
inductive PathStage where
  | frames (d : Dom) (n : Nat)
  | bridge (cfg : Word)
  deriving DecidableEq, Repr

/-- The stages of the table of R419. -/
def stageTdmIn (d : Dom) : PathStage := .frames d 1
def stageMic : PathStage := .frames .m 12
def stageSenseLane : PathStage := .frames .m 2
def stageSource : PathStage := .frames .m 1
def stageHop (d : Dom) (taps : Nat) : PathStage := .frames d (1 + taps)
def stageWeld (s : State) (o : Nat) : PathStage :=
  .frames .m (2 + (if eqEnabled s o && eqRateF s o then 2 else 0) + limLook s o)
def stageBridge (s : State) (n : Nat) : PathStage := .bridge (s.rd (Reg.bridgeCfg n))
def stageReceive (delay : Nat) : PathStage := .frames .m delay
def stageSpeedwell : PathStage := .frames .f 1
def stageMonitor : PathStage := .frames .m 16

/-- T after a stage, in F frames: ahead of a bridge to a slower domain it is rounded down to that domain's frame (R423). -/
def PathStage.add (t : Nat) : PathStage → Nat
  | .frames d n => t + n * domStep d
  | .bridge w =>
    let i := domStep ((brIn w).getD .m)
    let o := domStep ((brOut w).getD .m)
    (if i < o then t - t % o else t) + bridgeLatency w * o

/-- The latency of a path, in frames of its output domain (R423). -/
def pathLatency (l : List PathStage) (out : Dom) : Nat := l.foldl PathStage.add 0 / domStep out

/-- An entry of an image's LATENCY section: source lane, output lane, output domain, frames of that domain (R426). -/
structure LatencyEntry where
  source : Nat
  output : Nat
  dom : Option Dom
  frames : Nat
  deriving DecidableEq, Repr

/-- The entry that eight bytes hold. -/
def latencyEntry (b : List Byte) : LatencyEntry :=
  let w := fun (i n : Nat) => leNat ((b.drop i).take n)
  ⟨w 0 2 % 1024, w 2 2 % 1024, domOf (w 2 2 / 2 ^ 14), w 4 4⟩

/-- The entries of a section. -/
def latencySection : List Byte → List LatencyEntry
  | a :: b :: c :: d :: e :: f :: g :: h :: t => latencyEntry [a, b, c, d, e, f, g, h] :: latencySection t
  | _ => []

/-- Is a fallback plan's route within the limit of R13, 14 M frames (R425)? -/
def planRouteOk (l : List PathStage) : Bool := decide (l.foldl PathStage.add 0 ≤ 14 * domStep .m)

end Sys2Proof.Machine
end

