-- ==== Sys2Proof/WellFormed.lean ====
section
/-! DEFINITION. Which commands are well formed: an encoding that fits its instruction's words (chapter 8), an address of
the kind that the row names, and operands within the ranges that the part's formats have. -/

namespace Sys2Proof
open Sys2Proof.Machine

/-- A signed value fits a field of `n` bits. -/
def fitsSigned (n : Nat) (v : Int) : Bool := decide (-(2 ^ (n - 1) : Int) ≤ v ∧ v < (2 ^ (n - 1) : Int))

/-- A specifier that the short form can hold (R262): near cell, indirect, immediate below `lim` or post-increment. -/
def specFitsShort (lim : Int) : Spec → Bool
  | .none | .postInc _ => true
  | .pageDirect f => decide (f < 8)
  | .disp _ d => decide (d = 0)
  | .imm v => decide (0 ≤ v ∧ v < lim)
  | _ => false

/-- A specifier that the long form can hold, with or without the extension of shape 3 (R273). -/
def specFitsLong (ext : Bool) : Spec → Bool
  | .none | .postInc _ | .preDec _ | .tap _ _ => true
  | .pageDirect f | .stack f | .coef f => decide (f < if ext then 32768 else 512)
  | .disp _ d => fitsSigned (if ext then 12 else 6) d
  | .imm v => fitsSigned (if ext then 15 else 9) v

/-- Does an encoding fit its words (R257 to R273)? A short instruction has word size, no third specifier, no shape and no
IMM12. `lim` bounds an immediate in a short A: 8, and 16 where A is a condition (R263). -/
def encFitsTo (lim : Int) (e : Enc) : Bool :=
  if e.long then
    specFitsLong (e.shape == 3) e.a && specFitsLong (e.shape == 3) e.b && specFitsLong false e.c
      && decide (e.shape < 8 ∧ e.imm < 4096)
  else
    specFitsShort lim e.a && specFitsShort 8 e.b && e.c == .none && e.sz == .w && e.shape == 0 && e.imm == 0

def encFits (e : Enc) : Bool := encFitsTo 8 e

/-- The address lies in the alias with this number: 1 set, 2 clear, 3 toggle (R31). -/
def aliasIs (k : Nat) (a : Word) : Bool := regionOf a.toNat == .slots && aliasOf a.toNat == k

/-- The address is that of a register of this class, in any of its windows. -/
def classIs (k : Cls) (a : Word) : Bool :=
  match rowAt (if regionOf a.toNat = .slots then directOf a.toNat else a.toNat) with
  | some r => r.cls == k
  | none => false

/-- The address lies in the shadow half of the engine table aperture (R191). -/
def shadowAt (a : Word) : Bool := decide (0x3C800000 ≤ a.toNat ∧ a.toNat < 0x3D000000)

/-- The address is that of a node of the Weld matrix (R332). -/
def nodeAt (a : Word) : Bool :=
  match apTable a.toNat with
  | some (.node _ _) => true
  | _ => false

/-- What a strike brings in: six ports of at most 32 slots, two microphones, eight sense inputs (chapters 14, 19 and 20). -/
def strikeInOk (x : StrikeIn) : Bool :=
  (x.din.all fun p => decide (p.1 < 6 ∧ p.2.length ≤ 32)) && decide (x.mic.length ≤ 2 ∧ x.sense.length ≤ 8)
    && x.upsets.all fun u => decide (u.1 < 0x100000000 ∧ u.2 < 0x10000000000000000)

/-- An HSR path is 4 bits, a VLAN tag has 3 bits of priority and 12 of identifier (chapter 15). -/
def netFrameOk (f : NetFrame) : Bool :=
  (match f.hsr with
    | some h => decide (h.1 < 16)
    | none => true) &&
  (match f.vlan with
    | some v => decide (v.1 < 8 ∧ v.2 < 4096)
    | none => true) && decide (f.dscp < 64 ∧ f.ttl.getD 0 < 256)

/-- An identifier of 11 or 29 bits, and at most 8 bytes of data, 64 in a CAN FD frame (R676). -/
def canFrameOk (f : CanFrame) : Bool :=
  decide (f.ident < if f.ext then 2 ^ 29 else 2 ^ 11) && decide (f.data.length ≤ if f.fd then 64 else 8)

/-- An entry's index is 16 bits, its subindex 8 (chapter 16). -/
def memberOk (m : Member) : Bool := decide (m.index < 65536 ∧ m.sub < 256 ∧ m.type < 256)

def reqOpOk : ReqOp → Bool
  | .read i j => decide (i < 65536 ∧ j < 256)
  | .write m => memberOk m
  | .group _ ms => ms.all memberOk
  | .subscribe _ _ _ | .unsubscribe _ | .nop | .bad => true

/-- The commands that are well formed. -/
def Instr.wf : Instr → Bool
  | .strike _ inp => strikeInOk inp
  | .housekeeping _ => true
  | .hinge => true
  | .familiesStop => true
  | .coreHalted _ => true
  | .hingeTick _ => true
  | .holdoverLapse => true
  | .bridgeRun _ => true
  | .bridgeStopped _ => true
  | .patternStep _ => true
  | .generatorStopped _ => true
  | .mov _ e => encFits e
  | .push _ e => encFits e
  | .pop _ e => encFits e
  | .add _ e => encFits e
  | .sub _ e => encFits e
  | .cmp _ e => encFits e
  | .tst _ e => encFits e
  | .and _ e => encFits e
  | .or _ e => encFits e
  | .xor _ e => encFits e
  | .not _ e => encFits e
  | .neg _ e => encFits e
  | .shl _ e => encFits e
  | .shr _ e => encFits e
  | .asr _ e => encFits e
  | .mul _ e => encFits e
  | .mac _ e => encFits e
  | .macr _ e => encFits e
  | .sat _ e => encFits e
  | .addd _ e => encFits e
  | .subd _ e => encFits e
  | .dadj _ e => encFits e
  | .b2bcd _ e => encFits e
  | .bcd2b _ e => encFits e
  | .digit _ e => encFits e
  | .lin _ e => encFits e
  | .lout _ e => encFits e
  | .tap _ e => encFits e
  | .tput _ e => encFits e
  | .bqd _ e => encFits e
  | .skpCc _ cc e => encFitsTo 16 e && cc.val == condOf .skp e
  | .rpt _ e => encFits e
  | .rpti _ e => encFits e
  | .jmp _ e => encFits e
  | .jcc _ cc e => encFits e && cc.val == condOf .jcc e
  | .call _ e => encFits e
  | .ret _ e => encFits e
  | .reti _ e => encFits e
  | .endFrame _ e => encFits e
  | .nop _ e => encFits e
  | .wait _ e => encFits e
  | .waitWake _ => true
  | .sysCall _ e => encFits e
  | .mfs _ e => encFits e
  | .mts _ e => encFits e
  | .bmov _ e _ => encFits e
  | .bfil _ e _ => encFits e
  | .bcmp _ e _ => encFits e
  | .bscn _ e _ => encFits e
  | .bcrc _ e _ => encFits e
  | .interruptEntry _ => true
  | .invalidateDataLine _ => true
  | .invalidateDataCache _ => true
  | .invalidateInstructionLine _ => true
  | .invalidateInstructionCache _ => true
  | .doorbell _ _ _ => true
  | .intClr _ _ _ _ => true
  | .registerWrite _ _ _ _ => true
  | .setAliasWrite _ a _ _ => aliasIs 1 a
  | .clearAliasWrite _ a _ _ => aliasIs 2 a
  | .toggleAliasWrite _ a _ _ => aliasIs 3 a
  | .clearOnRead _ a _ => classIs .rc a
  | .sqWriteBack _ a _ _ => classIs .sq a
  | .wbWrite _ a _ _ => classIs .wb a
  | .wdWrite _ a _ _ => classIs .wd a
  | .scWrite _ a _ _ => classIs .sc a
  | .scWriteLanded => true
  | .loWrite _ a _ _ => isLo a.toNat
  | .hiWrite _ a _ _ => isLo (a.toNat - 4)
  | .postedWriteDelivery _ => true
  | .splitReadReturn _ => true
  | .splitTimeout _ => true
  | .flashBankWrite _ _ _ => true
  | .requestAcknowledge _ => true
  | .mergedNotification _ => true
  | .fifoResync _ => true
  | .slowClockLost => true
  | .networkClockLost => true
  | .crystalLost => true
  | .mediaPllUnlock => true
  | .clockQualified _ => true
  | .netTimeout => true
  | .shadowWrite _ a _ _ => shadowAt a
  | .commitRequest _ _ _ _ => true
  | .coefBankCopyEnd _ => true
  | .armSwap _ _ _ => true
  | .cancelSwap _ _ _ => true
  | .nodeWrite _ a _ _ => nodeAt a
  | .claim _ _ _ => true
  | .release _ _ _ => true
  | .releaseAll _ _ _ => true
  | .receivedFrame _ slots _ phase => decide (slots.length ≤ 32 ∧ phase < 32768)
  | .noFrame _ => true
  | .linkUp _ => true
  | .linkDown _ => true
  | .frameReceived _ f _ => netFrameOk f
  | .supervisionFrame => true
  | .nodeForget _ => true
  | .transmitPacket _ => true
  | .missingPacket _ => true
  | .offsetReturn _ => true
  | .streamEnable _ _ => true
  | .igmpReport _ => true
  | .stepPtp _ _ _ => true
  | .snapPtp _ _ _ => true
  | .syncTimeout => true
  | .ppsOut => true
  | .ppsOutEnd => true
  | .ppsInEdge _ => true
  | .requestPlacement _ _ _ op => reqOpOk op
  | .requestTake => true
  | .responseHoldRelease _ => true
  | .readReq _ _ => true
  | .writeReq _ _ => true
  | .writeGroupReq _ _ => true
  | .subscribeReq _ _ => true
  | .unsubscribeReq _ _ => true
  | .requestNop _ _ => true
  | .burst _ _ => true
  | .hdone _ _ _ => true
  | .handlerTimeout _ => true
  | .persistRecord _ => true
  | .compaction => true
  | .dictEnable => true
  | .heartbeatLost _ => true
  | .tenantReset _ _ _ => true
  | .tenantCreation _ blob _ => decide (blob.length ≤ 65536)
  | .tenantDeletion _ => true
  | .localRequest _ _ _ _ => true
  | .openSession _ _ port _ _ => decide (port < 65536)
  | .ceilingRaise => true
  | .requestMsg _ _ port _ => decide (port < 65536)
  | .closeSession _ _ port _ => decide (port < 65536)
  | .sessionIdle _ => true
  | .sessClose _ _ _ => true
  | .responseMsg _ => true
  | .eventMsg _ _ => true
  | .canFrameReceived _ f _ => canFrameOk f
  | .reassemblyTimeout _ _ => true
  | .busOffRecovery _ => true
  | .canTxreq _ _ _ _ => true
  | .receiveWindowRead _ _ _ _ => true
  | .startDma _ _ _ _ => true
  | .transferComplete _ => true
  | .tailWrite _ _ _ _ => true
  | .descriptorFetch _ => true
  | .descriptorCompletion _ => true
  | .lateErr _ => true
  | .channelEnable _ _ _ _ => true
  | .heldEnable _ => true
  | .channelDisable _ _ _ _ => true
  | .dmaDisable _ _ _ => true
  | .requestLine _ => true
  | .windowResult _ => true
  | .relayDrive _ => true
  | .lmAck _ _ _ => true
  | .lmLearn _ _ _ => true
  | .passStart _ _ _ => true
  | .abort _ _ _ => true
  | .ambientEnd => true
  | .prerollEnd => true
  | .accumEnd => true
  | .transformEnd => true
  | .dcSenseSample _ _ => true
  | .relearn _ _ _ _ => true
  | .gainChange _ => true
  | .contactScan _ _ => true
  | .contactEvent _ => true
  | .forceLatch _ _ _ => true
  | .clearLatch _ _ _ => true
  | .hostWrite _ _ _ => true
  | .writeFixed _ _ _ => true
  | .hostRead _ _ _ => true
  | .readFixed _ _ _ => true
  | .hostStatus => true
  | .hostWordWrite => true
  | .uartTxdWrite _ _ _ _ => true
  | .uartRxdRead _ _ _ => true
  | .characterReceived _ _ _ _ _ => true
  | .i2cStart _ _ => true
  | .i2cWrite _ _ => true
  | .i2cReadAck _ _ _ => true
  | .i2cReadNack _ _ _ => true
  | .i2cStop _ _ => true
  | .i2cTimeout _ => true
  | .gpioEdge _ _ => true
  | .keepCmd _ _ _ => true
  | .lineProgramDone _ => true
  | .playOp _ => true
  | .gapOp _ => true
  | .spellOp _ => true
  | .listOp _ => true
  | .toneOp _ => true
  | .jumpOp _ => true
  | .stopOp _ => true
  | .planLoad => true
  | .fwGo _ _ _ => true
  | .bucketRefill => true
  | .journalLineWrite => true
  | .requestService _ => true
  | .requestWatch _ => true
  | .requestSleep _ => true
  | .requestEvacuate _ => true
  | .requestExit _ => true
  | .wake _ => true
  | .wakeTimer => true
  | .fastWake _ _ => true
  | .padRelease _ _ _ => true
  | .wdogKick _ _ _ _ => true
  | .watchdogExpiry _ => true
  | .watchdogReset _ => true
  | .coldBoot _ => true
  | .imageAttempt _ _ => true
  | .bootTimeout _ _ => true
  | .networkCopyTimeout _ => true
  | .recoveryLoader => true
  | .verifyGraph _ _ => true
  | .measure _ _ => true
  | .beginSlot _ _ => true
  | .markPending _ _ => true
  | .confirm _ _ => true
  | .abandon _ _ => true
  | .writeK _ _ => true
  | .writePlan _ _ => true
  | .burnFloor _ _ => true
  | .mailboxCompletion => true
  | .rootRevoke _ => true
  | .tallyExt _ _ _ => true
  | .anvilStatus => true
  | .anvPut lenField _ _ _ => decide (lenField < 65536)
  | .anvGet _ _ => true
  | .dataChunk _ _ _ _ => true
  | .noneImage _ => true
  | .askTimeout => true
  | .chalReq _ _ => true
  | .anvAuth _ _ => true
  | .recover _ _ => true
  | .reboot => true
  | .transferClose => true
  | .mread _ _ _ => true
  | .mwrite _ _ _ => true
  | .alwaysOnPowerUp => true
  | .deviceReset _ => true
  | .brownOut _ => true
  | .resetRelease _ => true
  | .devReset _ _ _ => true
  | .wardenDevReset _ _ _ => true
  | .coreReset _ _ _ => true
  | .blockReset _ _ _ => true
  | .tapReset => true
  | .trimLoad => true
  | .temperatureUpdate _ => true
  | .canFrameSent _ _ _ => true
  | .characterSent _ => true
  | .statusPublication => true
  | .jtagDebugAccess _ => true
  | .flashProgramCommand _ _ _ => true
  | .recoverTimeout => true
  | .phyInterrupt _ => true

end Sys2Proof
end

