-- ==== Sys2Proof/Tests/Slice0.lean ====
section
/-! SUPPORT. The model's own tests: what WellFormed refuses, a concrete state that meets the hypotheses of each statement
(wit_<its name>), and small single steps (test_<what>). -/

namespace Sys2Proof.Tests
open Sys2Proof Sys2Proof.Machine
set_option Elab.async false

/-! ### Helpers -/

/-- A part that runs: released, trimmed, booted to handover, its clocks good. -/
def up : State :=
  { State.reset with
    power := { State.reset.power with held := false, causes := 0#32, trimDone := true },
    clk := ⟨true, true, true, true, false⟩,
    ward := { Warden.init with release := 0x1FFFFF#21, keylock := true, stage := 9, freeze := 0x5F#8 } }

/-- The part with one field of its Warden, modes, engine … replaced. -/
def ward (f : Warden → Warden) (s : State) : State := { s with ward := f s.ward }
def modes (f : Modes → Modes) (s : State) : State := { s with modes := f s.modes }
def power (f : Power → Power) (s : State) : State := { s with power := f s.power }
def bus (f : BusState → BusState) (s : State) : State := { s with bus := f s.bus }
def mclk (f : Mclk → Mclk) (s : State) : State := { s with mclk := f s.mclk }
def anv (f : Anvil → Anvil) (s : State) : State := ward (fun w => { w with anv := f w.anv }) s
/-- The part with words at registers. -/
def regs (l : List (Nat × Word)) (s : State) : State := l.foldl (fun s x => s.wr x.1 x.2) s
/-- Sample core 0 running in domain M. -/
def core0 (f : SampleCore → SampleCore) (s : State) : State := s.setSc 0 (f (s.sc 0))
/-- Tenant 0. -/
def ten0 (f : Tenant → Tenant) (s : State) : State := s.setTenant 0 (f (s.tenant 0))

/-- The state that an answer holds. -/
def after (x : Host.Outcome State Fault Refusal) : State :=
  match x with
  | .next s => s
  | _ => State.reset

/-- A short encoding without operands, and a short one of two. -/
def enc0 : Enc := ⟨false, .w, 0, .none, .none, .none, 0, false⟩
def enc2 (a b : Spec) : Enc := ⟨false, .w, 0, a, b, .none, 0, false⟩

/-! ### Well-formedness: each check takes a good term and refuses an ill-formed one -/

theorem test_wf_short : (Instr.mov (.sc 0) (enc2 (.pageDirect 7) (.imm 7))).wf = true
    ∧ (Instr.mov (.sc 0) (enc2 (.pageDirect 8) (.imm 7))).wf = false
    ∧ (Instr.mov (.sc 0) (enc2 (.pageDirect 7) (.imm 8))).wf = false
    ∧ (Instr.add (.sc 0) { enc2 .none .none with sz := .b }).wf = false
    ∧ (Instr.add (.sc 0) { enc2 .none .none with imm := 1 }).wf = false
    ∧ (Instr.sub (.sc 0) { enc2 .none .none with shape := 1 }).wf = false
    ∧ (Instr.sub (.sc 0) { enc2 .none .none with c := .postInc 0 }).wf = false := by decide
theorem test_wf_long : (Instr.mov (.sc 0) ⟨true, .w, 0, .pageDirect 511, .imm (-256), .none, 0, false⟩).wf = true
    ∧ (Instr.mov (.sc 0) ⟨true, .w, 0, .pageDirect 512, .imm (-256), .none, 0, false⟩).wf = false
    ∧ (Instr.mov (.sc 0) ⟨true, .w, 3, .pageDirect 32767, .imm 16383, .none, 0, false⟩).wf = true
    ∧ (Instr.mov (.sc 0) ⟨true, .w, 3, .pageDirect 32768, .imm 0, .none, 0, false⟩).wf = false
    ∧ (Instr.mov (.sc 0) ⟨true, .w, 3, .none, .imm 16384, .none, 0, false⟩).wf = false
    ∧ (Instr.mov (.sc 0) ⟨true, .w, 0, .disp 0 (-32), .none, .none, 0, false⟩).wf = true
    ∧ (Instr.mov (.sc 0) ⟨true, .w, 0, .disp 0 32, .none, .none, 0, false⟩).wf = false
    ∧ (Instr.mov (.sc 0) ⟨true, .w, 8, .none, .none, .none, 0, false⟩).wf = false
    ∧ (Instr.bmov (.cc 0) ⟨true, .w, 4, .none, .none, .none, 4096, false⟩ 0).wf = false := by decide
theorem test_wf_alias : (Instr.setAliasWrite .warden 0x40100000#32 .word 0#64).wf = true
    ∧ (Instr.setAliasWrite .warden 0x40200000#32 .word 0#64).wf = false
    ∧ (Instr.clearAliasWrite .warden 0x40200000#32 .word 0#64).wf = true
    ∧ (Instr.clearAliasWrite .warden 0x40000000#32 .word 0#64).wf = false
    ∧ (Instr.toggleAliasWrite .warden 0x40300000#32 .word 0#64).wf = true
    ∧ (Instr.toggleAliasWrite .warden 0x20300000#32 .word 0#64).wf = false := by decide
theorem test_wf_class : (Instr.sqWriteBack .warden 0x40000040#32 .word 0#64).wf = true
    ∧ (Instr.sqWriteBack .warden 0x40000604#32 .word 0#64).wf = false
    ∧ (Instr.scWrite .warden 0x40010240#32 .word 0#64).wf = true
    ∧ (Instr.scWrite .warden 0x40000604#32 .word 0#64).wf = false
    ∧ (Instr.clearOnRead .warden 0x40000604#32 .word).wf = false
    ∧ (Instr.wbWrite .warden 0x40000604#32 .word 0#64).wf = false
    ∧ (Instr.wdWrite .warden 0x40000604#32 .word 0#64).wf = false := by decide +kernel
theorem test_wf_pair : (Instr.loWrite .warden 0x40090038#32 .word 0#64).wf = true
    ∧ (Instr.loWrite .warden 0x4009003C#32 .word 0#64).wf = false
    ∧ (Instr.hiWrite .warden 0x4009003C#32 .word 0#64).wf = true
    ∧ (Instr.hiWrite .warden 0x40090038#32 .word 0#64).wf = false := by decide
theorem test_wf_aperture : (Instr.shadowWrite .warden 0x3C800000#32 .word 0#64).wf = true
    ∧ (Instr.shadowWrite .warden 0x3C7FFFFF#32 .word 0#64).wf = false
    ∧ (Instr.shadowWrite .warden 0x3D000000#32 .word 0#64).wf = false
    ∧ (Instr.nodeWrite .warden 0x3D000000#32 .word 0#64).wf = false := by decide +kernel
theorem test_wf_strike : (Instr.strike .m ⟨[(5, List.replicate 32 0#32)], [0#32, 0#32], List.replicate 8 0#32, []⟩).wf = true
    ∧ (Instr.strike .m ⟨[(6, [])], [], [], []⟩).wf = false
    ∧ (Instr.strike .m ⟨[(5, List.replicate 33 0#32)], [], [], []⟩).wf = false
    ∧ (Instr.strike .m ⟨[], List.replicate 3 0#32, [], []⟩).wf = false
    ∧ (Instr.strike .m ⟨[], [], List.replicate 9 0#32, []⟩).wf = false
    ∧ (Instr.receivedFrame 0 (List.replicate 33 0#32) true 0).wf = false
    ∧ (Instr.receivedFrame 0 [] true 32768).wf = false := by decide
theorem test_wf_net : (Instr.frameReceived false ⟨0, 0, some (15, 0#16), some (7, 4095), 64, true, 0, none, .pause⟩ 0).wf = true
    ∧ (Instr.frameReceived false ⟨0, 0, some (16, 0#16), none, 64, true, 0, none, .pause⟩ 0).wf = false
    ∧ (Instr.frameReceived false ⟨0, 0, none, some (8, 0), 64, true, 0, none, .pause⟩ 0).wf = false
    ∧ (Instr.frameReceived false ⟨0, 0, none, some (0, 4096), 64, true, 0, none, .pause⟩ 0).wf = false := by decide
theorem test_wf_can : (Instr.canFrameReceived 0 ⟨0x7FF, false, false, false, false, false, List.replicate 8 0#8⟩ false).wf = true
    ∧ (Instr.canFrameReceived 0 ⟨0x800, false, false, false, false, false, []⟩ false).wf = false
    ∧ (Instr.canFrameReceived 0 ⟨0x800, true, false, false, false, false, []⟩ false).wf = true
    ∧ (Instr.canFrameReceived 0 ⟨0, false, false, false, false, false, List.replicate 9 0#8⟩ false).wf = false
    ∧ (Instr.canFrameReceived 0 ⟨0, false, true, false, false, false, List.replicate 65 0#8⟩ false).wf = false := by decide
theorem test_wf_request : (Instr.requestPlacement 0 0 0#16 (.write ⟨0x2100, 0, 5, []⟩)).wf = true
    ∧ (Instr.requestPlacement 0 0 0#16 (.write ⟨65536, 0, 5, []⟩)).wf = false
    ∧ (Instr.requestPlacement 0 0 0#16 (.read 0 256)).wf = false
    ∧ (Instr.requestPlacement 0 0 0#16 (.group 0 [⟨0, 0, 256, []⟩])).wf = false := by decide
theorem test_wf_ranges : (Instr.requestMsg .udp 0#32 65535 []).wf = true ∧ (Instr.requestMsg .udp 0#32 65536 []).wf = false
    ∧ (Instr.openSession .udp 0#32 65536 [] 0#32).wf = false ∧ (Instr.closeSession .udp 0#32 65536 []).wf = false
    ∧ (Instr.anvPut 65536 [] 0#16 true).wf = false ∧ (Instr.anvPut 65535 [] 0#16 true).wf = true := by decide

/-! ### The queue -/

theorem test_queue_front : step { up with pending := [.planLoad, .hinge] } = .next { up with pending := [.hinge] } := rfl
theorem test_queue_empty : step State.reset = .next State.reset := rfl
theorem test_table_has_no_bits : decodeTableWord 32 0 = none ∧ State.reset.withFetchWord 32 0 = State.reset := ⟨rfl, rfl⟩

/-- The value of a piece of an instruction that completes satisfies a test. -/
def got {α : Type} (r : Res α) (k : α → RunSt → Bool) : Bool :=
  match r with
  | .ok a x => k a x
  | _ => false
/-- A piece of an instruction completes. -/
def oks {α : Type} (r : Res α) : Bool := got r fun _ _ => true
/-- A piece of an instruction raises an exception. -/
def flts {α : Type} (r : Res α) : Bool :=
  match r with
  | .flt _ _ => true
  | _ => false

/-- Sample core 0 runs, at the start of its program, its page in its data memory. -/
def sam : State :=
  core0 (fun c => { c with
    st := .running, slot := 20, outCnt := 1,
    r := { c.r with pc := 0x38000000#32, page := 0x3800C000#32, spU := 0x3800D000#32 } }) up
/-- The control core with its stack and page in the hearth. -/
def cc0 (f : CtlCore → CtlCore) (s : State) : State := s.setCtl 0 (f (s.ctlCore 0))
def con : State :=
  cc0 (fun x => { x with st := .run, r := { x.r with
    pc := 0x20000000#32, page := 0x20002000#32, spP := 0x20001000#32, vbase := 0x20004000#32 } }) up

/-- An instruction of one source and one of two near cells. -/
def i2 (op : AOp) : AInstr := ⟨op, enc2 (.pageDirect 0) (.pageDirect 1), 0⟩

/-! ### Words and paths that the spec works out (chapters 8, 9 and 13) -/

theorem test_decode_short : atwardOf 0x0B55 0 0 = ⟨.add, ⟨false, .w, 0, .postInc 2, .imm 5, .none, 0, false⟩, 0⟩ := by decide
theorem test_decode_extended : atwardOf 0xAC12 0xE8AD 0x403F = ⟨.mov, ⟨true, .h, 3, .disp 3 40, .imm (-300), .none, 0, false⟩, 0⟩ := by
  decide
theorem test_decode_long : atwardOf 0x8C20 0x06B4 0x0000 = ⟨.add, ⟨true, .w, 3, .pageDirect 6, .imm 320, .none, 0, false⟩, 0⟩ := by
  decide
theorem test_path_of_an_announcement : pathLatency [stageMic, stageWeld up 0, stageReceive 48, stageWeld up 0x1B,
    .bridge 1#32] .f = 130 := by decide +kernel
theorem test_path_of_a_delayed_stand : pathLatency [stageReceive 96, stageHop .m 57600, stageWeld up 0] .m = 57699 := by decide +kernel

/-! ### Witnesses: cores (the statements of chapters 7 to 9) -/

theorem wit_ArithmeticCombinesItsOperands : ∀ s ∈ [(CoreId.sc 0, sam), (CoreId.cc 0, con)],
    coreReady s.1 (i2 .add) s.2 = true ∧
    got (rwOperand s.1 1 4 (i2 .add).e.a (coreBegin s.1 (i2 .add) s.2)) (fun a x =>
      got (readOperand s.1 2 4 (i2 .add).e.b x) fun b y => oks (writeAll s.1 (a.ups ++ b.ups ++ resultTo a 4 7) y)) = true := by
  decide +kernel
theorem wit_ArithmeticCombinesThree :
    let e : Enc := ⟨true, .w, 5, .pageDirect 0, .pageDirect 1, .imm (-256), 0, false⟩
    coreReady (.sc 0) ⟨.sub, e, 0⟩ sam = true ∧
    got (destOperand (.sc 0) 1 4 e.a (coreBegin (.sc 0) ⟨.sub, e, 0⟩ sam)) (fun a x => got (readOperand (.sc 0) 2 4 e.b x)
      fun b y => got (readOperand (.sc 0) 3 4 e.c y) fun d z => oks (writeAll (.sc 0) (a.ups ++ b.ups ++ d.ups ++ resultTo a 4 0) z)) = true := by
  decide +kernel
theorem wit_CopiesConversionsAndCompares : ∀ op ∈ [AOp.mov, .not, .neg, .b2bcd, .bcd2b, .cmp, .tst],
    coreReady (.sc 0) (i2 op) sam = true ∧
    got (readOperand (.sc 0) 1 4 (.pageDirect 0) (coreBegin (.sc 0) (i2 op) sam)) (fun a x =>
      got (readOperand (.sc 0) 2 4 (.pageDirect 1) x) fun b y => oks (writeAll (.sc 0) (a.ups ++ b.ups) y)) = true := by
  decide +kernel
theorem wit_CopiesAtTaps :
    let t : AInstr := ⟨.tap, ⟨true, .w, 2, .pageDirect 0, .tap 0 1, .none, 0, false⟩, 0⟩
    let p : AInstr := ⟨.tput, ⟨true, .w, 2, .tap 0 0, .pageDirect 0, .none, 0, false⟩, 0⟩
    let d : AInstr := ⟨.digit, ⟨true, .w, 4, .pageDirect 0, .pageDirect 1, .none, 7, false⟩, 0⟩
    let j : AInstr := ⟨.dadj, enc2 (.pageDirect 0) .none, 0⟩
    coreReady (.sc 0) t sam = true ∧ coreReady (.sc 0) p sam = true ∧ coreReady (.sc 0) d sam = true ∧ coreReady (.sc 0) j sam = true := by
  decide +kernel
theorem wit_TheAccumulatorRoundsAndSaturates : ∀ op ∈ [AOp.mac, .macr], coreReady (.cc 0) (i2 op) con = true ∧
    coreReady (.cc 0) ⟨.sat, enc2 (.pageDirect 0) .none, 0⟩ con = true ∧
    got (readOperand (.cc 0) 1 4 (.pageDirect 0) (coreBegin (.cc 0) (i2 op) con)) (fun a x =>
      got (readOperand (.cc 0) 2 4 (.pageDirect 1) x) fun b y => oks (writeAll (.cc 0) (a.ups ++ b.ups) y)) = true := by
  decide +kernel
theorem wit_FlagsOfAdditionAndSubtraction : ∀ op ∈ [AOp.add, .sub, .cmp, .neg],
    ((i2 op).e.long && (i2 op).e.shape == 5) = false ∧ coreReady (.cc 0) (i2 op) con = true ∧
    got (rwOperand (.cc 0) 1 4 (.pageDirect 0) (coreBegin (.cc 0) (i2 op) con)) (fun a x =>
      got (readOperand (.cc 0) 2 4 (.pageDirect 1) x) fun b y => oks (writeAll (.cc 0) (a.ups ++ b.ups ++ resultTo a 4 0) y)) = true := by
  decide +kernel
theorem wit_StackAndFlow :
    let j : Enc := ⟨true, .w, 1, .imm 16, .none, .none, 0, false⟩
    let jc : Enc := ⟨true, .w, 2, .imm 16, .imm 0, .none, 0, false⟩
    ∀ s ∈ [(CoreId.sc 0, sam), (CoreId.cc 0, con)],
      coreReady s.1 ⟨.push, enc2 .none (.pageDirect 1), 0⟩ s.2 = true ∧ coreReady s.1 ⟨.pop, enc2 (.pageDirect 1) .none, 0⟩ s.2 = true ∧
      coreReady s.1 ⟨.call, j, 0⟩ s.2 = true ∧ coreReady s.1 ⟨.ret, enc0, 0⟩ s.2 = true ∧
      coreReady (.cc 0) ⟨.jmp, j, 0⟩ con = true ∧ coreReady (.cc 0) ⟨.jcc, jc, 0⟩ con = true ∧
      (let sp := curSP s.1 (regsOf s.1 s.2) - 4#32
       stackLimited s.1 (regsOf s.1 s.2) sp = false ∧
       got (coreProbe s.1 sp 4 5 (coreBegin s.1 ⟨.push, enc2 .none (.pageDirect 1), 0⟩ s.2)) (fun _ y =>
         oks (writeAll s.1 [⟨sp, 4, 7, 5⟩] y)) = true ∧
       oks (coreRead s.1 (sp + 4#32) 4 5 (coreBegin s.1 ⟨.ret, enc0, 0⟩ s.2)) = true) := by
  decide +kernel
theorem wit_SkipsRepeatsAndEnd :
    coreReady (.sc 0) ⟨.skp, enc2 (.imm 3) .none, 3⟩ sam = true ∧ coreReady (.sc 0) ⟨.rpt, enc2 .none (.imm 7), 0⟩ sam = true ∧
    coreReady (.cc 0) ⟨.rpti, ⟨true, .w, 6, .none, .none, .none, 5, false⟩, 0⟩ con = true ∧
    coreReady (.cc 0) ⟨.rpti, ⟨true, .w, 1, .imm 5, .none, .none, 0, false⟩, 0⟩ con = true ∧
    coreReady (.sc 0) ⟨.nop, enc0, 0⟩ sam = true ∧ coreReady (.sc 0) ⟨.endFrame, enc0, 0⟩ sam = true ∧
    (let s := core0 (fun c => { c with r := { c.r with skp := some (0x38000000#32, false) } }) sam
     (regsOf (.sc 0) s).skp = some (0x38000000#32, false) ∧ badAfterSkp .add = false ∧ legalAlone (.sc 0) (i2 .add) = true ∧
     scActive (s.sc 0) = true ∧ scFetchable s 0 (regsOf (.sc 0) s).pc.toNat 2 = true) ∧
    (let s := core0 (fun c => { c with r := { c.r with rpt := some (0x38000000#32, 7) } }) sam
     (s.sc 0).r.rpt = some (0x38000000#32, 7) ∧ badAfterRpt .add = false ∧ scActive (s.sc 0) = true) ∧
    (let s := cc0 (fun x => { x with r := { x.r with rpti := some 0x20000000#32, rpc := 2#32 } }) con
     (regsOf (.cc 0) s).rpti = some 0x20000000#32 ∧ (regsOf (.cc 0) s).rpc ≠ 0#32 ∧ interruptDue (.cc 0) s = none ∧
     fetchFails (.cc 0) s (i2 .add) (regsOf (.cc 0) s).pc = none ∧ fetchZero (.cc 0) s (i2 .add) (regsOf (.cc 0) s).pc = none ∧
     got (opBody (.cc 0) (i2 .add) (regsOf (.cc 0) s).pc (nextPc (i2 .add) (regsOf (.cc 0) s).pc) (coreBegin (.cc 0) (i2 .add) s))
       (fun _ x => x.ecc.isNone) = true) := by
  decide +kernel
theorem wit_LanesFiltersAndSystemRegisters :
    coreReady (.sc 0) ⟨.lin, enc2 (.pageDirect 0) (.pageDirect 1), 0⟩ sam = true ∧
    coreReady (.sc 0) ⟨.lout, enc2 (.pageDirect 0) (.pageDirect 1), 0⟩ sam = true ∧
    (sam.sc 0).edges.find? (fun e => e.1 == 0x300) = none ∧ laneDom sam 0x300 = some .m ∧ laneDom sam 0x3FF = none ∧
    (let s := core0 (fun c => { c with edges := [(0x300, 0x1C0, 7)] }) sam
     (s.sc 0).edges.find? (fun e => e.1 == 0x300) = some (0x300, 0x1C0, 7) ∧ laneDom s 0x300 = some (s.sc 0).dom ∧ laneDom s 0x1C0 = some (s.sc 0).dom) := by
  decide +kernel
theorem wit_BqdAndSystemRegisters :
    let m : Enc := ⟨true, .w, 4, .pageDirect 0, .imm (-1), .none, 3, false⟩
    coreReady (.sc 0) ⟨.bqd, enc2 (.pageDirect 0) (.pageDirect 1), 0⟩ sam = true ∧ coreReady (.sc 0) ⟨.mfs, m, 0⟩ sam = true ∧
    coreReady (.cc 0) ⟨.mts, { m with imm := 16 }, 0⟩ con = true ∧ (sam.sc 0).hasLane 0x300 = true ∧
    sysPrivileged 16 = true ∧ isPrivileged (.cc 0) (regsOf (.cc 0) con) = true := by
  decide +kernel
theorem wit_EntryPushesTheFrame : let r := (con.ctlCore 0).r
    0x20000000 + 8 ≤ r.spP.toNat ∧ r.spP.toNat ≤ 0x20200000 ∧ r.spP.toNat % 4 = 0 ∧ released con 0 = true ∧
    (postedOf con false).all (fun p => p.master != .cc 0) = true ∧ 0x20000000 ≤ r.vbase.toNat + 4 * 6 ∧
    r.vbase.toNat + 4 * 6 + 4 ≤ 0x20200000 ∧ (r.vbase.toNat + 4 * 6) % 4 = 0 ∧ r.spP.toNat ≤ r.vbase.toNat + 4 * 6 ∧
    tget [] (con.ctlCore 0).dcache ((r.vbase.toNat + 4 * 6) / 32) = [] ∧ con.mrd (r.vbase.toNat + 4 * 6) 4 % 2 = 0 ∧
    (eccHit con (r.vbase.toNat + 4 * 6) 4).2 = false := by decide +kernel

/-- Doorbell source 8 pending, enabled and routed to core 0 at level 2. -/
def irq : State :=
  regs [(0x40001400, 0x100#32), (0x40001020, 0x21#32), (0x40001504, 8#32)]
    (cc0 (fun x => { x with r := { x.r with psw := 0x60000000#32 } }) con)
theorem wit_InterruptsTakeTheLowestLevel : atPoint (.cc 0) irq = true ∧ (irq.ctlCore 0).r.psw.getLsbD 29 = true ∧
    intPending irq 8 = true ∧ (irq.rd 0x40001020).getLsbD 0 = true ∧ (irq.rd 0x40001020).toNat / 256 % 8 = 0 ∧
    (irq.rd 0x40001020).toNat / 16 % 8 < (irq.ctlCore 0).runlvl ∧ (irq.rd 0x40001020).toNat / 16 % 8 < (irq.rd 0x40001504).toNat % 16 ∧
    atPoint (.cc 0) con = true ∧ (con.ctlCore 0).r.psw.getLsbD 29 = false := by decide +kernel
theorem wit_TrapsWaitsAndReturns : coreReady (.cc 0) ⟨.sys, ⟨true, .w, 6, .none, .none, .none, 9, false⟩, 0⟩ con = true ∧
    coreReady (.cc 0) ⟨.wait, enc0, 0⟩ con = true ∧ coreReady (.cc 0) ⟨.reti, enc0, 0⟩ con = true ∧
    (let s := cc0 (fun x => { x with st := .wait }) irq
     (s.ctlCore 0).st = .wait ∧ takenSource s 0 = some (2, 8)) ∧
    (let s := setRegs (.cc 0) (noPrefix (regsOf (.cc 0) con)) (coreBegin (.cc 0) ⟨.reti, enc0, 0⟩ con).s
     (popMany (.cc 0) 2 s).1.length = 2) ∧
    (let e := enc2 (.pageDirect 0) (.pageDirect 1)
     let s := cc0 (fun x => { x with r := { x.r with page := 0x0#32 } }) con
     let i : AInstr := ⟨.add, e, 0⟩
     coreReady (.cc 0) i s = true ∧ flts (opBody (.cc 0) i (regsOf (.cc 0) s).pc (nextPc i (regsOf (.cc 0) s).pc) (coreBegin (.cc 0) i s)) = true) ∧
    legalAlone (.cc 0) ⟨.endFrame, enc0, 0⟩ = false ∧ legalAlone (.sc 0) ⟨.sys, enc0, 0⟩ = false ∧
    (regsOf (.cc 0) con).skp = none ∧ scActive (sam.sc 0) = true ∧ interruptDue (.cc 0) con = none := by decide +kernel
theorem wit_TrapsOfEcc :
    let i : AInstr := ⟨.ret, enc0, 0⟩
    let s := { con with ecc := [(0x20001000, 3)] }
    coreReady (.cc 0) i s = true ∧
    got (opBody (.cc 0) i (regsOf (.cc 0) s).pc (nextPc i (regsOf (.cc 0) s).pc) (coreBegin (.cc 0) i s))
      (fun _ x => x.ecc.isSome) = true := by decide +kernel
theorem wit_BlockOperations : ∀ op ∈ [AOp.bmov, .bfil, .bcmp, .bscn, .bcrc],
    let e : Enc := ⟨true, .w, 4, .pageDirect 0, .pageDirect 8, .none, 2, false⟩
    coreReady (.sc 0) ⟨op, e, 0⟩ sam = true ∧ coreReady (.cc 0) ⟨op, e, 0⟩ con = true ∧
    (regsOf (.cc 0) con).psw.getLsbD 28 = false ∧
    (let s := cc0 (fun x => { x with r := { x.r with
       psw := 0x50000000#32, bcnt := 2#32, bsrc := 0x20002000#32, bdst := 0x20002040#32, bstep := 4#32 } }) con
     coreReady (.cc 0) ⟨op, e, 0⟩ s = true ∧ (regsOf (.cc 0) s).psw.getLsbD 28 = true ∧
     oks (coreRead (.cc 0) 0x20002000#32 4 2 ⟨s, [], [], none⟩) = true ∧
     got (coreProbe (.cc 0) 0x20002040#32 4 1 ⟨s, [], [], none⟩) (fun _ y => oks (writeAll (.cc 0) [⟨0x20002040#32, 4, 7, 1⟩] y)) = true) := by
  decide +kernel

/-! ### Small steps of instructions -/

theorem test_add_near : (after (exec (.add (.sc 0) (enc2 (.pageDirect 0) (.imm 3))) { sam with mem := memPutBytes [] 0x3800C000 (leBytes 4 0xFFFFFFFF) })).mrd 0x3800C000 4 = 2 := by
  decide +kernel
theorem test_sub_borrows : ((after (exec (.sub (.sc 0) (enc2 (.pageDirect 0) (.imm 1))) sam)).sc 0).r.psw.toNat % 16 = 0xA := by
  decide +kernel
theorem test_jmp_target : ((after (exec (.jmp (.cc 0) ⟨true, .w, 1, .imm 16, .none, .none, 0, false⟩) con)).ctlCore 0).r.pc.getLsbD 0 = false := by
  decide +kernel
theorem test_end_ends : ((after (exec (.endFrame (.sc 0) enc0) sam)).sc 0).ended = some 20 := by decide +kernel
theorem test_wait_waits : ((after (exec (.wait (.cc 0) enc0) con)).ctlCore 0).st = .wait := by decide +kernel
theorem test_sys_enters : ((after (exec (.sysCall (.cc 0) ⟨true, .w, 6, .none, .none, .none, 9, false⟩) con)).ctlCore 0).r.xcause = 0x90006#32 := by
  decide +kernel
theorem test_interrupt_enters : ((after (exec (.interruptEntry (.cc 0)) irq)).ctlCore 0).runlvl = 2 := by decide +kernel

/-! ### Witnesses: the block as a whole, clocks, registers and crossings -/

theorem wit_StepRunsTheFrontCommand : ({ up with pending := [.planLoad] } : State).pending = .planLoad :: [] := rfl
theorem wit_AnEmptyQueueIdles : up.pending = [] := rfl
theorem wit_CommandsLeaveTheQueue : ∃ t, exec .planLoad up = .next t := ⟨_, rfl⟩
theorem wit_StoresKeepTheirForm : Memory.wf up.mem = true ∧ Memory.wf up.flash = true ∧ twf regDefault up.regs = true
    ∧ twf (fun _ => none) up.wbPend = true ∧ twf (fun _ => SqReg.zero) up.sqs = true
    ∧ ∃ t, step { up with pending := [.planLoad] } = .next t := by
  refine ⟨by decide, by decide, by decide, by decide, by decide, _, rfl⟩
theorem wit_FusesOnlyGain : Runs [] up up := Runs.done up
theorem wit_StrikesFrameTheEngine : mediaRuns up = true ∧ up.mclk.firstHinge = true ∧ mediaRuns State.reset = false
    ∧ (mclk (fun m => { m with firstHinge := false }) up).mclk.firstHinge = false ∧ (⟨[], [], [], []⟩ : StrikeIn).upsets = [] := by decide
theorem wit_StrikeRestartsRunningCores : (sam.sc 0).dom = .m ∧ (sam.sc 0).runs = true ∧ (sam.sc 0).dom ≠ .v
    ∧ (sam.sc 15).runs = false := by decide
theorem wit_ClockLossAndReturn : up.clk.slowOk = true ∧ up.clk.netOk = true ∧ up.clk.xtalOk = true ∧ up.modes.sleep ≠ .asleep
    ∧ State.reset.clk.slowOk = false ∧ State.reset.clk.netOk = false ∧ State.reset.clk.xtalOk = false
    ∧ (let s := mclk (fun m => { m with backup := false }) up
       s.clk.mediaLock = true ∧ s.mclk.backup = false) ∧ (mclk (fun m => { m with backup := true }) up).mclk.backup = true ∧ State.reset.clk.mediaLock = false
    ∧ 0x10000#32 &&& 0xFFFF0000#32 = 0x10000#32 ∧ 0x2FFFF#32 &&& 0xFFFF0000#32 = 0x20000#32 := by decide +kernel
theorem wit_HingeTicksAndBridges : up.clk.netOk = true ∧ State.reset.clk.netOk = false ∧ 0 < ptpToTick up
    ∧ (let s := up.setNotice 11 ⟨true, 0x10000#32, false, 0#32⟩
       (s.notice 11).inFlight = true ∧ (s.notice 11).pend = false ∧ (s.notice 11).flying = 0x10000#32)
    ∧ (let s := mclk (fun m => { m with st := .holdover, stAge := 80000 }) (regs [(Reg.mclkHoldLimit, 5#32)] up)
       s.mclk.st = .holdover ∧ s.rdf Reg.mclkHoldLimit 0 24 ≠ 0 ∧ 16000 * s.rdf Reg.mclkHoldLimit 0 24 ≤ s.mclk.stAge)
    ∧ (let s := up.setBridge 31 { Bridge.off with st := .acquire, steady := 1024 }
       (s.bridge 31).st = .acquire ∧ (s.bridge 31).steady = 1024)
    ∧ (let s := (regs [(Reg.bridgeCfg 0, 0x80#32)] up).setBridge 0 { Bridge.off with st := .run, silentFrames := 64 }
       brAsync (s.rd (Reg.bridgeCfg 0)) = true ∧ (s.bridge 0).st ≠ .off ∧ (s.bridge 0).cfgErr = false
       ∧ (s.bridge 0).silentFrames = 64 ∧ (s.bridge 0).stopped = false)
    ∧ ((List.range 14).any isFifoXing) = true ∧ tget false up.bus.readyNear 4 = false
    ∧ tget false (bus (fun b => { b with readyNear := [(4, true)] }) up).bus.readyNear 4 = true := by decide +kernel

/-- The class of the register at an address, where the Warden's word access to it meets nothing. -/
def regClass (s : State) (write : Bool) (a : Nat) : Option Cls :=
  if reaches s .warden write a && inSlots a && decide (a % 0x10000 < 0x8000) then (rowAt a).map (·.cls) else none

theorem wit_WritesActByAccessCode : regClass up true 0x40000604 = some .rw ∧ regClass up true 0x40000044 = some .ro
    ∧ regClass up true 0x40000180 = some .rc ∧ regClass up true 0x40020020 = some .wb ∧ regClass up true 0x40020108 = some .wd
    ∧ regClass up true 0x40010240 = some .sc ∧ regClass up true 0x40000040 = some .sq := by decide +kernel
theorem wit_AliasesActOnlyOnWritableRegisters : ∀ d ∈ [0x40000604, 0x40000044, 0x40020020, 0x40020108, 0x40000040],
    ∀ p ∈ [1, 2, 3], (rowAt d).isSome = true ∧ inSlots d = true ∧ d % 0x10000 < 0x8000
      ∧ (BitVec.ofNat 32 (d + 0x100000 * p)).toNat = d + 0x100000 * p
      ∧ reaches up .warden true (d + 0x100000 * p) = true ∧ reaches up .warden false (d + 0x100000 * p) = true
      ∧ (whoOf up .warden).debug = false := by decide +kernel
theorem wit_WriteBacksClearByTag : regClass up true 0x40000040 = some .sq ∧ ((up.sq 0x40000040).seq - 0#16).toNat < 0x4000
    ∧ 0x4000 ≤ ((up.sq 0x40000040).seq - 1#16).toNat := by decide +kernel
theorem wit_PrivilegedRegistersTurnAwayOthers :
    let s := cc0 (fun x => { x with r := { x.r with psw := 0#32 } }) up
    regionOf 0x40000044 = .slots ∧ crosses s (.cc 0) 0x40000700 = false
    ∧ (postedOf s false).all (fun p => p.master != Master.cc 0) = true ∧ lvlOf s (.cc 0) = .unprivileged
    ∧ ([0x40000040, 0x40000604, 0x40000600, 0x40010240, 0x400A0020].any fun a =>
        regionOf a == .slots && ((rowAt (wordOf (directOf a))).map (·.priv)) == some true) = true := by decide +kernel
theorem wit_BufferedWritesWaitInTheShadow : regClass up true 0x40020020 = some .wb ∧ 0x40020020 / 0x10000 % 16 ≠ 11
    ∧ isLo 0x40020020 = false ∧ isLo (0x40020020 - 4) = false ∧ filterOf (whoOf up .warden) false (0x40020020 + 0x8000) = .pass
    ∧ tget none up.wbPend 0x40020020 = none := by decide +kernel
theorem wit_PairedHalvesApplyTogether :
    let held := fun a => bus (fun b => { b with loHeld := tset none b.loHeld a (some 5#32) }) up
    isLo 0x40090038 = true ∧ reaches up .warden true 0x40090038 = true
      ∧ reaches (held 0x40090038) .warden true 0x4009003C = true ∧ tget none (held 0x40090038).bus.loHeld 0x40090038 = some 5#32
      ∧ reaches up .warden true 0x4009003C = true ∧ tget none up.bus.loHeld 0x40090038 = none
      ∧ ∀ a ∈ [0x40050020, 0x40090200, 0x40090208], reaches up .warden true a = true ∧ reaches up .warden true (a + 4) = true := by
  decide +kernel
theorem wit_AlwaysOnWritesLand : up.clk.slowGone = false ∧ ({ up with clk := { up.clk with slowGone := true } } : State).clk.slowGone = true
    ∧ (bus (fun b => { b with sc := some ⟨0x40010240, 1#32⟩ }) up).bus.sc = some ⟨0x40010240, 1#32⟩
    ∧ up.bus.sc = none ∧ (1#32).getLsbD 0 = true := by decide
theorem wit_ReadsClearWhatTheyReturn : regClass up false 0x40000180 = some .rc
    ∧ [0x400F040C, 0x400F044C, 0x400F070C, 0x400F074C].contains 0x40000180 = false
    ∧ reaches (anv (fun a => { a with grants := 7#3 }) up) .anvil false 0x40000180 = true := by decide +kernel
theorem wit_DoorbellsAndInterruptLatches : reaches up .warden true 0x40001540 = true
    ∧ reaches up .warden true (0x40001420 + 4 * 7) = true ∧ reaches up .warden true 0x40000080 = true := by decide +kernel
theorem wit_BridgeAndNetworkAnswers :
    let s := bus (fun b => { b with
      toAudio := [⟨.cc 0, .privileged, 0x3C800000, 4, 1⟩]
      splits := [⟨.cc 0, .privileged, 0x3C800000, 4⟩]
      net := some ⟨.cc 0, .privileged, 0x40090000, 4, true, 1, .asked⟩
      notices := [(7, ⟨true, 1#32, false, 0#32⟩), (11, ⟨true, 1#32, true, 2#32⟩), (14, ⟨true, 1#32, false, 0#32⟩)] }) up
    postedOf s true = [⟨.cc 0, .privileged, 0x3C800000, 4, 1⟩] ∧ s.bus.splits[0]? = some ⟨.cc 0, .privileged, 0x3C800000, 4⟩
    ∧ s.bus.net = some ⟨.cc 0, .privileged, 0x40090000, 4, true, 1, .asked⟩ ∧ (s.notice 11).inFlight = true ∧ (s.notice 11).pend = true
    ∧ (s.notice 11).flying.getLsbD 16 = false
    ∧ (s.notice 7).inFlight = true ∧ (s.notice 7).pend = false ∧ (s.notice 14).inFlight = true ∧ (s.notice 14).pend = false
    ∧ ∀ p ∈ [NetPhase.asked, .orphan, .acted none, .acted (some 1), .lost], ∀ w ∈ [true, false],
        (bus (fun b => { b with net := some ⟨.warden, .secure, 0x40090000, 4, w, 1, p⟩ }) up).bus.net
          = some ⟨.warden, .secure, 0x40090000, 4, w, 1, p⟩ := by
  decide +kernel

/-! ### Witnesses: engine, staging, network, TDM -/

theorem wit_SequencersFallAndCoresHalt :
    (let s := up.setGen 0 { ToneGen.off with st := .on, hinges := toneStepLen up 0 }
     (s.gen 0).st = .on ∧ toneSteps s 0 ≤ (s.gen 0).step + 1 ∧ toneRepeat s 0 = 0 ∧ (s.gen 0).cycles = 0
     ∧ toneStepOn s 0 0 = false ∧ toneStepLen s 0 ≤ (s.gen 0).hinges) ∧
    (let s := up.setGen 0 { ToneGen.off with st := .on }
     (s.gen 0).st = .on ∧ (s.gen 0).hinges < toneStepLen s 0) ∧
    (∀ st ∈ [ToneSt.on, .gap], let s := regs [(Reg.toneWord 0 0xC, 0x10000#32)] (up.setGen 0 { ToneGen.off with st := st, hinges := 65536 })
     (s.gen 0).st = st ∧ toneStepOn s 0 0 = true ∧ toneStepLen s 0 ≤ (s.gen 0).hinges ∧ toneRepeat s 0 = 0 ∧ (s.gen 0).cycles = 0) ∧
    (let s := up.setGen 63 { ToneGen.off with st := .gap, cycles := 1, hinges := 65536 }
     toneSteps s 63 ≤ (s.gen 63).step + 1 ∧ (s.gen 63).cycles ≠ 0 ∧ (s.gen 63).cycles ≤ (s.gen 63).cycle + 1
     ∧ toneStepLen s 63 ≤ (s.gen 63).hinges) ∧
    (let s := up.setGen 63 { ToneGen.off with st := .ending, num := 1 }
     (s.gen 63).st = .ending ∧ (s.gen 63).num ≠ 0) ∧
    (let s := up.setGen 63 { ToneGen.off with st := .ending }
     (s.gen 63).st = .ending ∧ (s.gen 63).num = 0 ∧ s.bit Reg.toneRunHi 31 = false ∧ (s.wrb Reg.toneRunHi 31 true).bit Reg.toneRunHi 31 = true
     ∧ tget none (s.wrb Reg.toneRunHi 31 true).wbPend Reg.toneRunHi = none) ∧
    (let s := core0 (fun c => { c with stopping := true, scale := 0, stopFrames := 16 }) sam
     (s.sc 0).runs = true ∧ (s.sc 0).stopping = true ∧ (s.sc 0).scale = 0 ∧ 16 ≤ (s.sc 0).stopFrames
     ∧ s.bit Reg.engRun 0 = false ∧ s.mclk.firstHinge = true) ∧
    (let s := modes (fun m => { m with sleep := .entry, sleepHinges := 16 }) up
     s.modes.sleep = .entry ∧ 16 ≤ s.modes.sleepHinges) ∧ up.modes.sleep ≠ .entry := by decide +kernel
theorem wit_ShadowWritesStageWholeSets :
    (∀ a ∈ [0x3CC00000, 0x3CC00004], reachesAudio up .warden a = true ∧ 0x3C800000 ≤ a ∧ a < 0x3D000000) ∧
    ((apTable (0x3CC00000 - 0x800000)).bind tableSet = some (.node 0 0)) ∧ nodeFull up 0 0 0 = false ∧ nodeFull up 0 0 1 = false ∧
    reachesAudio up .warden (Reg.nodeWord 255 255) = true ∧
    reachesAudio up .warden (coefBase 15 (!(up.sc 15).cbank) + 0x1FFC) = true ∧ (up.sc 15).copying = false ∧
    (let s := core0 (fun c => { c with copying := true }) up
     (s.sc 0).copying = true ∧ (s.sc 0).held = [] ∧ Memory.wf s.mem = true) := by decide +kernel
theorem wit_RequestsWaitForTheHinge : (∀ a ∈ [0x40030020, 0x40030024, 0x40020040, 0x40040028], reaches up .warden true a = true)
    ∧ (0#64).getLsbD 1 = false ∧ (0#64).getLsbD 0 = false ∧ up.eng.armed = false
    ∧ ({ up with eng := { up.eng with armed := true } } : State).eng.armed = true ∧ up.weld.queue.length < 64
    ∧ 64 ≤ ({ up with weld := { up.weld with queue := List.replicate 64 ⟨0, 0, 0, 1⟩ } } : State).weld.queue.length := by decide +kernel
theorem wit_EventsAdvanceTheSequence : ([3] : List Nat) ≠ [] ∧ Reg.weldEvt ≠ Reg.evtEvt ∧ Reg.weldEvt ≠ 0x400A0808 := by decide

/-- NET enabled in RING mode, both links up, all frames to the host ring. -/
def ring : State :=
  regs [(0x40090004, 1#32), (Reg.netMode, 2#32), (Reg.netHostCfg, 0x80#32), (Reg.netMacLo, 5#32)]
    { up with
      net := { up.net with linkA := true, linkB := true }
      bus := { up.bus with readyFar := [(0, true), (1, true), (2, true), (3, true)], readyNear := [(0, true), (1, true), (2, true), (3, true)] } }
theorem wit_TheRingForwardsAndDelivers :
    let f : NetFrame := ⟨9#48, 8#48, some (0, 1#16), none, 64, true, 0, none, .other 0x800 []⟩
    linkOf ring true ≠ false ∧ (ring.notice 11).inFlight = false ∧ (ring.setNotice 11 ⟨true, 1#32, false, 0#32⟩ |>.notice 11).inFlight = true
    ∧ ring.enabled 9 = true ∧ linkOf ring false = true ∧ 1528 < ({ f with len := 1529 } : NetFrame).len ∧ f.len ≤ 1528
    ∧ f.fcsOk = true ∧ f.vlan = none ∧ f.body ≠ .pause ∧ ptpEvent f = false ∧ netModeOf ring = 2 ∧ ring.clk.netOk = true ∧ f.hsr = some (0, 1#16) ∧ f.src ≠ ownMac ring
    ∧ ring.net.nodes = [] ∧ ring.net.dd.length < 1024 ∧ f.dst ≠ ownMac ring ∧ isGroupMac f.dst = false ∧ linkOf ring true = true
    ∧ ddFind ring f.src 1#16 = none
    ∧ (let s := { ring with net := { ring.net with dd := [⟨8#48, 1#16, true, true, true, 0#32⟩] } }
       ddFind s f.src 1#16 = some ⟨8#48, 1#16, true, true, true, 0#32⟩)
    ∧ ownMac ring = 5#48 ∧ ring.bit Reg.netHostCfg 7 = true
    ∧ (∀ k ∈ [0, 1, 2, 3], xingReady ring k = true) ∧ tget false State.reset.bus.readyFar 0 = false
    ∧ (let p := fun ty => NetBody.ptp ty 7 1#80 0#64 []
       (∀ ty ∈ [0, 3], ptpEvent { f with body := p ty } = true) ∧ ring.bit Reg.ptpCtrl 2 = false
       ∧ (regs [(Reg.ptpCtrl, 4#32)] ring).bit Reg.ptpCtrl 2 = true ∧ (regs [(Reg.ptpCtrl, 4#32)] ring).bit Reg.ptpCtrl 3 = false
       ∧ (regs [(Reg.ptpCtrl, 12#32)] ring).bit Reg.ptpCtrl 3 = true
       ∧ ({ ring with net := { ring.net with tcDue := [(1#80, 7, true, 5)] } } : State).net.tcDue.find? (fun x =>
           x.1 == 1#80 && x.2.1 == 7 && x.2.2.1 == true) = some (1#80, 7, true, 5))
    ∧ (let s := regs [(Reg.netMode, 0#32)] { ring with net := { ring.net with igmpDue := [(63, 0#32)], age := 48000#32 } }
       (63, 0#32) ∈ s.net.igmpDue ∧ 48000 ≤ (s.net.age - 0#32).toNat ∧ netModeOf s = 0 ∧ s.net.linkA = true ∧ s.clk.netOk = true
       ∧ xingReady s 2 = true) := by decide +kernel

/-- Receive or transmit streams whose enable word waits in its shadow. -/
def waits (a : Nat) (w : Word) (s : State) : State := { s with wbPend := tset none s.wbPend a (some w) }
/-- The part stands at a packet boundary of every stream. -/
theorem wit_AtPacket : ∀ k ∈ [0, 63], atPacket false k up = true ∧ atPacket true k up = true
    ∧ atPacket false k (mclk (fun m => { m with frameCnt := 3#64 }) (regs [(Reg.rxWord k 0xC, 0x10#32)] up)) = false := by decide +kernel
theorem wit_StreamsStartSendAndMiss :
    (let s := waits (Reg.netRxEn 0) 1#32 up
     tget none s.wbPend (Reg.netRxEn 0) = some 1#32 ∧ s.bit (Reg.netRxEn 0) 0 = false ∧ (1#32).getLsbD 0 = true
     ∧ (s.wrb (Reg.netRxEn 0) 0 true).rd (Reg.netRxEn 0) = 1#32
     ∧ rxCause { s.wrb (Reg.netRxEn 0) 0 true with wbPend := tset none s.wbPend (Reg.netRxEn 0) none } 0 ≠ 0) ∧
    (let s := regs [(Reg.rxWord 63 0x10, 4#32), (Reg.rxWord 63 0xC, 0x10#32)] (waits (Reg.netRxEn 63) 0x80000000#32 up)
     (s.wrb (Reg.netRxEn 63) 31 true).rd (Reg.netRxEn 63) = 0x80000000#32
     ∧ rxCause { s.wrb (Reg.netRxEn 63) 31 true with wbPend := tset none s.wbPend (Reg.netRxEn 63) none } 63 = 0
     ∧ isGroupIp (s.rd (Reg.rxWord 63 0)) = false) ∧
    (let s := waits (Reg.netRxEn 0) 0#32 (regs [(Reg.netRxEn 0, 1#32)] up)
     tget none s.wbPend (Reg.netRxEn 0) = some 0#32 ∧ s.bit (Reg.netRxEn 0) 0 = true ∧ (0#32).getLsbD 0 = false
     ∧ (s.wrb (Reg.netRxEn 0) 0 false).rd (Reg.netRxEn 0) = 0#32) ∧
    (let s := regs [(Reg.txWord 0 0xC, 0x10#32)] (waits (Reg.netTxEn 0) 1#32 up)
     (s.wrb (Reg.netTxEn 0) 0 true).rd (Reg.netTxEn 0) = 1#32
     ∧ txCause { s.wrb (Reg.netTxEn 0) 0 true with wbPend := tset none s.wbPend (Reg.netTxEn 0) none } 0 = 0) ∧
    (let s := (regs [(Reg.netMode, 0#32), (Reg.txWord 0 0xC, 0x10#32), (Reg.txWord 0 0, 0xEF000001#32)]
        { ring with net := { up.net with linkA := true } }).setTxs 0 { TxStream.off with
          on := true, frames := List.replicate 64 [0#32] }
     (s.txs 0).on = true ∧ 0 < txP s 0 ∧ txP s 0 ≤ (s.txs 0).frames.length
     ∧ ((((s.txs 0).frames.take (txP s 0)).flatten.map (sampleBytes (txSampleBytes s 0))).all fun y => !y.2) = true
     ∧ netModeOf s = 0 ∧ isGroupIp (s.rd (Reg.txWord 0 0)) = true ∧ s.clk.netOk = true ∧ xingReady s 2 = true) ∧
    (let s := up.setRxs 0 { RxStream.off with st := .run }
     let l := up.setRxs 0 { RxStream.off with st := .loss, missing := 7 }
     let z := up.setRxs 0 { RxStream.off with st := .run, missing := 7, returnDue := true }
     (s.rxs 0).st = .run ∧ (s.rxs 0).stopping = false ∧ rxCurrent s 0 = none ∧ (s.rxs 0).missing + 1 < rxLossPkts s 0
     ∧ rxCurrent l 0 = none ∧ rxLossPkts l 0 ≤ (l.rxs 0).missing + 1 ∧ rxLossPkts z 0 ≤ (z.rxs 0).missing + 1
     ∧ (z.rxs 0).st ≠ .off ∧ (z.rxs 0).returnDue = true ∧ atPacket false 0 z = true) := by decide +kernel
theorem wit_PtpTimeAndTdmFrames : reaches up .warden true Reg.ptpCtrl = true ∧ (0#64).getLsbD 9 = false
    ∧ (regs [(Reg.ptpCtrl, 1#32)] up).bit Reg.ptpCtrl 0 = true
    ∧ (let s := regs [(Reg.tdmCfg 5, 0x100#32)] up
       let at' := fun (g e : Nat) => (bus (fun b => { b with readyFar := [(13, true)], readyNear := [(13, true)] }) s).setTport 5
         { TdmPort.off with st := .acquire, good := g, errs := e, idle := 2, txWait := [[none]] }
       portSlave s 5 = true ∧ asyncBridge s 5 = none ∧ ((at' 14 1).tport 5).good < 15 ∧ 15 ≤ ((at' 15 2).tport 5).good
       ∧ ((at' 14 1).tport 5).errs < 2 ∧ 2 ≤ ((at' 15 2).tport 5).errs ∧ ((at' 0 0).tport 5).st = .acquire
       ∧ xingReady (at' 0 0) 13 = true ∧ xingReady s 13 = false ∧ ((at' 0 0).tport 5).idle = 2 ∧ ((at' 0 0).tport 5).slipAge = none
       ∧ 4 * portPeriod (at' 0 0) 5 ≤ 32767 * frameLen (at' 0 0) 5 ∧ ((at' 0 0).tport 5).txWait = [[none]]
       ∧ (s.tport 5).txWait = []) ∧ up.clk.netOk = true ∧ State.reset.clk.netOk = false := by decide +kernel

/-! ### Witnesses: dictionary and Riller -/

/-- A request of a tenant, where it stands. -/
def rq (tag : Nat) (op : ReqOp) (st : ReqSt) : Req := ⟨tag, 1#32, 0, op, none, 0#32, false, st, 0, 0#32, 0, []⟩
/-- The words of the Hearth from an address on. -/
def words (a : Nat) (l : List Nat) : List Host.Cell := memPutBytes [] a (l.flatMap (leBytes 4))
/-- The dictionary runs with one entry, 0x6000:0, a 32-bit word of a backing; tenant 0 is ACTIVE and holds some requests. -/
def dic (backing : Nat) (rs : List Req) : State :=
  ten0 (fun x => { x with st := .active, reqs := rs }) (regs [(0x400A0004, 1#32), (0x400A0404, 8#32), (0x400A0424, 8#32),
      (Reg.descBase, 0x20003000#32), (Reg.descCount, 1#32), (Reg.hringSize, 4#32)]
    { up with
      dict := { up.dict with loaded := true }
      mem := words 0x20003000 [0x60006000, 0x00030000 + backing * 16777216, 0xFFFF, 0x20003100, 0, 0, 0xFFFFFFFF, 0] })

theorem wit_RequestsArePlacedTakenAndAnswered :
    (let s := dic 2 []
     (s.tenant 0).st = .active ∧ (s.tenant 0).resetting = 0 ∧ (s.tenant 0).reqs.length < 256 ∧ (s.tenant 0).lost = false
     ∧ (ten0 (fun x => { x with resetting := 1 }) s |>.tenant 0).resetting ≠ 0 ∧ (s.tenant 0).st ≠ .absent) ∧
    (let q := rq 7 .nop .queued
     let s := dic 2 [q]
     dictRuns s = true ∧ ((nextTake s).map fun x => (x.1, x.2.1)) = some (0, q) ∧ (checkRequest s 0 q).1 = 0) ∧
    (let q := rq 7 .bad .queued
     let s := dic 2 [q]
     ((nextTake s).map fun x => (x.1, x.2.1)) = some (0, q) ∧ (checkRequest s 0 q).1 ≠ 0 ∧ (checkRequest s 0 q).1 ≠ 5
     ∧ reqOf s 0 7 = some q ∧ (s.tenant 0).resps.length < s.queueSize 2 ∧ q.sess = none) ∧
    (let q := rq 7 .nop .held
     ((dic 2 [q]).tenant 0).reqs.find? (fun q => q.st == .held) = some q) ∧
    (∀ op ∈ [ReqOp.nop, .subscribe 1 0 0#64, .subscribe 2 0 0#64, .unsubscribe 1, .unsubscribe 2],
      let q := rq 7 op .taken
      dictRuns (dic 2 [q]) = true ∧ reqOf (dic 2 [q]) 0 7 = some q ∧ q.st = .taken) := by decide +kernel
theorem wit_EntriesAreReadAndWritten :
    (let q := { rq 7 (.read 0x8000 0) .taken with warden := true }
     reqOf (dic 2 [q]) 0 7 = some q ∧ wardenServes (dic 2 [q]) = true) ∧
    (let q := rq 7 (.read 0x6000 0) .taken
     let s := dic 2 [q]
     let h := dic 4 [q]
     let r := recAt s 0
     recOf s 0x6000 0 = some r ∧ r.backing ≠ 4 ∧ (valueRead 0 0x6000 0 r s).1 = some (leBytes 4 0)
       ∧ reqOf (valueRead 0 0x6000 0 r s).2 0 7 = some q ∧ (recOf h 0x6000 0).map (·.backing) = some 4 ∧ hringFull h = false
       ∧ hringFull { h with dict := { h.dict with hprod := 3 } } = true) ∧
    (let m : Member := ⟨0x6000, 0, 3, leBytes 4 5⟩
     let q := rq 7 (.write m) .taken
     let s := dic 2 [q]
     let r := recAt s 0
     recOf s 0x6000 0 = some r ∧ r.backing = 2 ∧ placeOf 0x6000 0 = none ∧ (putBytes (r.elem 0x6000 0) m.value s).1 = true
       ∧ reqOf (putBytes (r.elem 0x6000 0) m.value s).2 0 7 = some q
       ∧ logMembers (putBytes (r.elem 0x6000 0) m.value s).2 0 7 false [m] = []) ∧
    (let ms : List Member := [⟨0x6000, 0, 3, leBytes 4 5⟩]
     let q := rq 7 (.group 0 ms) .taken
     let w := rq 7 (.group 0 ms) .waiting
     let s := dic 2 [w]
     reqOf (dic 2 [q]) 0 7 = some q ∧ reqOf s 0 7 = some w ∧ nodesFull s (nodeMembers (withRecs s ms)) = false
       ∧ ((withRecs s ms).filterMap fun x => if x.1.backing = 3 then commitSet (x.1.elem x.2.index x.2.sub) else none) = []) := by
  decide +kernel
theorem wit_HandlersLogAndTenants :
    (let q := rq 7 (.read 0x6000 0) (.handler 0)
     let s := { dic 4 [q] with dict := { (dic 4 [q]).dict with hslots := [(0, some (0, 7, 0))] } }
     let l := { s with dict := { s.dict with hinges := 16000 } }
     reaches s .warden true 0x400A0090 = true ∧ tget none s.dict.hslots 0 = some (0, 7, 0)
     ∧ s.dict.hinges < 0 + max 1 (s.rdf Reg.htimeout 0 24) ∧ 0 + max 1 (l.rdf Reg.htimeout 0 24) ≤ l.dict.hinges ∧ tget none s.dict.hslots 63 = none
     ∧ reqOf s 0 7 = some q ∧ (s.tenant 0).resps.length < s.queueSize 2 ∧ reaches s .warden true 0x400A003C = true) ∧
    (let q := rq 7 (.write ⟨0x6000, 0, 3, leBytes 4 5⟩) (.logging 1)
     let r : LogRec := ⟨0, 7, 0x6000, 0, leBytes 4 5, false⟩
     let s := { dic 2 [q] with dict := { (dic 2 [q]).dict with log := [r], line := 8191, compacting := true } }
     s.dict.log = [r] ∧ q.status ≠ 5 ∧ reqOf s 0 7 = some q ∧ s.dict.line + (logLines (s.dict.logSeq + 1#32) r).length ≤ 8192
     ∧ s.dict.compacting = true ∧ q.st = .logging 1
     ∧ 8192 < 8192 + (logLines (s.dict.logSeq + 1#32) r).length) ∧
    (let s := { dic 2 [] with dict := { (dic 2 []).dict with loaded := false } }
     s.enabled 10 = true ∧ s.dict.loaded = false ∧ badRec [] 0 (recs s) = none
     ∧ badRec [] 0 (recs (regs [(Reg.descCount, 2#32)] s)) = some 1) ∧
    (let s := regs [(Reg.tenHb 0, 0x10001#32)] (dic 2 [])
     let l := { s with dict := { s.dict with hinges := 16 } }
     s.enabled 10 = true ∧ (s.tenant 0).st = .active ∧ (s.tenant 0).lost = false
     ∧ s.dict.hinges < (s.tenant 0).hbSince + 16 * (s.rdf (Reg.tenHb 0) 16 4 * s.rdf (Reg.tenHb 0) 0 16)
     ∧ (l.tenant 0).hbSince + 16 * (l.rdf (Reg.tenHb 0) 16 4 * l.rdf (Reg.tenHb 0) 0 16) ≤ l.dict.hinges) ∧ up.sess 0 = none
    ∧ ((up.setTenant 7 (Tenant.init .active)).tenant 7).st ≠ .absent ∧ (up.tenant 7).st = .absent ∧
    (let s := dic 2 []
     reaches s .warden true (Reg.qProd 0) = true ∧ 2 ≤ s.queueSize 0 ∧ (s.rd (Reg.qProd 0)).toNat < s.queueSize 0
     ∧ reaches s .warden true (Reg.qProd 2) = true) := by decide +kernel

/-- An open session of tenant 0 over UDP. -/
def ses : Session := ⟨0, false, .udp, 1#32, 0#32, 5000, 0, 0, 9, 1#64, 0, [], [], [], [], []⟩
/-- The front end takes UDP; session 31 is open. -/
def ril : State :=
  regs [(Reg.rilCfg, 1#32)] { up with
    ril := { up.ril with sessions := [(31, some ses)], raising := true }
    ward := { up.ward with keys := [(8, [1#8])] } } |> ten0 fun x => { x with
      st := .active
      subEvent := some ⟨31, 0, 0#64⟩
      events := [List.replicate 32 0#8] }
/-- A message of a kind with a body of some bytes. -/
def msg (kind n : Nat) (counter : Nat) : List Byte :=
  leBytes 2 0x4C52 ++ [1#8, BitVec.ofNat 8 kind, 0#8, 0#8] ++ leBytes 2 n ++ leBytes 4 1 ++ leBytes 8 counter ++ List.replicate n 0#8
theorem wit_RillerSessionsOpenCarryAndClose :
    transportOn ril .udp = true ∧ rilWellFormed .udp [] = false ∧ rilWellFormed .udp (msg 1 52 0) = true
    ∧ le (msg 1 52 0) 3 1 = 1 ∧ le (msg 1 52 0) 6 2 = 52 ∧ ril.ril.raising = true ∧ up.ril.raising = false
    ∧ ril.ril.openAges.length < 16 ∧ ril.ril.ceiling ≤ ril.ril.openCnt
    ∧ openKey ril 0 false = some [1#8] ∧ openKey ril 1 false = none ∧ (sessionsOf ril fun x => x.tenant == 0).length < 4
    ∧ sessionsOf ril (fun y => y.sid == 2#32) = [] ∧ ((List.range 32).find? fun n => (ril.sess n).isNone) = some 0
    ∧ ril.sess 31 = some ses
    ∧ (sessionsOf ril fun y => y.sid == BitVec.ofNat 32 (le (msg 3 16 9) 8 4) && y.transport == .udp).head? = some 31
    ∧ (∀ k ∈ [3, 6], rilWellFormed .udp (msg k 16 9) = true ∧ le (msg k 16 9) 3 1 = k)
    ∧ Machine.replayed ses (le (msg 3 16 9) 12 8) = true ∧ Machine.replayed ses (le (msg 3 16 10) 12 8) = false
    ∧ ses.idle < 16000 * max 1 (ril.rdf Reg.rilCfg 16 16)
    ∧ 16000 * max 1 (ril.rdf Reg.rilCfg 16 16) ≤ ({ ses with idle := 16000 } : Session).idle
    ∧ (setSess 31 (some { ses with idle := 16000 }) ril).sess 31 = some { ses with idle := 16000 }
    ∧ ril.dict.hinges < (ril.tenant 0).evSince + 16 ∧ (ril.tenant 0).events.length < 44
    ∧ (let s := { ril with dict := { ril.dict with hinges := 16 } }
       (s.tenant 0).evSince + 16 ≤ s.dict.hinges)
    ∧ ses.txCounter < 2 ^ 64 - 1 ∧ reaches ril .warden true 0x400A0814 = true
    ∧ (ril.tenant 0).subEvent = some ⟨31, 0, 0#64⟩ ∧ (ril.tenant 0).events ≠ [] ∧ (ril.tenant 0).subTap = none := by decide +kernel

/-! ### Witnesses: ports, DMA, supervision, messages -/

/-- CAN controller 1 with something of its changed, enabled. -/
def can1 (f : Can → Can) : State := (regs [(Reg.canCtrl 1, 1#32)] up).setCan 1 (f Can.init)
theorem wit_CanControllersSendAndReceive :
    reaches up .warden true (0x400F1014 + 0x400 * 1) = true ∧ reaches up .warden false (0x400F1260 + 0x400 * 1 + 4 * 17) = true
    ∧ (whoOf up .warden).debug = false
    ∧ (let s := can1 fun c => { c with pending := [7], tec := 247 }
       s.bit (Reg.canCtrl 1) 0 = true ∧ s.bit (Reg.canCtrl 1) 1 = false ∧ (s.can 1).busOff = false ∧ 7 ∈ (s.can 1).pending
       ∧ (∀ i ∈ (s.can 1).pending, (canBuffer s 1 7).ident ≤ (canBuffer s 1 i).ident)
       ∧ 128 ≤ (s.can 1).tec ∧ (s.can 1).tec < 248)
    ∧ 248 ≤ ((can1 fun c => { c with tec := 248 }).can 1).tec ∧ 120 ≤ ((can1 fun c => { c with tec := 127 }).can 1).tec
    ∧ (up.bit (Reg.canCtrl 1) 0) = false
    ∧ (let f : CanFrame := ⟨5, false, false, false, false, false, [1#8]⟩
       rilFrame (can1 id) 1 f = false ∧ ((can1 id).can 1).rx.length < 32
       ∧ 32 ≤ ((can1 fun c => { c with rx := List.replicate 32 f }).can 1).rx.length
       ∧ (can1 id).bit (Reg.canCtrl 1) 0 = true ∧ ((can1 id).can 1).busOff = false ∧ ((can1 fun c => { c with recErr := 127 }).can 1).recErr = 127)
    ∧ (let s := regs [(Reg.rilCfg, 4#32)] (can1 id)
       let r := { s with ril := { s.ril with reasm := [⟨1, 0, 1, [], 160⟩] } }
       let l := { s with ril := { s.ril with reasm := [⟨1, 0, 1, [], 161⟩] } }
       (reasmOf r 1 0).map (·.age) = some 160 ∧ (reasmOf l 1 0).map (·.age) = some 161 ∧
       ∀ h ∈ [(0xC0 : Byte), 0x80, 0x41, 0x01, 0x02], rilFrame s 1 ⟨0, true, true, false, false, false, [h]⟩ = true
         ∧ reasmOf s 1 0 = none ∧ (reasmOf r 1 0).map (·.next) = some 1)
    ∧ (let s := regs [(Reg.canCtrl 1, 5#32)] (can1 fun c => { c with busOff := true })
       (s.can 1).busOff = true ∧ s.bit (Reg.canCtrl 1) 0 = true ∧ s.bit (Reg.canCtrl 1) 2 = true) := by decide +kernel
theorem wit_HostAndSerialPortsCarryData :
    (let s := bus (fun b => { b with readyFar := [(4, true)], readyNear := [(4, true)] }) up
     s.modes.sleep ≠ .asleep ∧ s.modes.sleep ≠ .waking ∧ tget false s.bus.readyFar 4 = true ∧ tget false s.bus.readyNear 4 = true)
    ∧ tget false up.bus.readyFar 4 = false ∧ tget false up.bus.readyNear 4 = false
    ∧ (modes (fun x => { x with sleep := .asleep }) up).modes.sleep = .asleep ∧
    up.ports.hs.fifo.length + [0#32].length ≤ 64
    ∧ 64 ≤ ({ up with ports := { up.ports with hs := { up.ports.hs with fifo := List.replicate 64 (0#32, 0#32) } } } : State).ports.hs.fifo.length
    ∧ (0x40000004#32).toNat % 4 = 0 ∧ (0x40000005#32).toNat % 4 ≠ 0
    ∧ reaches up .warden true (0x400F0408 + 0x40 * 1) = true ∧ reaches up .warden false (0x400F040C + 0x40 * 1) = true
    ∧ (up.uart 1).tx.length < 64 ∧ (let u := up.setUart 1 ⟨List.replicate 64 0#8, List.replicate 64 (0#8, false, false, false), []⟩
       64 ≤ (u.uart 1).tx.length ∧ 64 ≤ (u.uart 1).rx.length)
    ∧ up.bit (Reg.uartCtrl 1) 0 = false ∧ (regs [(Reg.uartCtrl 1, 1#32)] up).bit (Reg.uartCtrl 1) 0 = true
    ∧ (∀ op ∈ [1, 2, 3, 4, 5], let s := (regs [(Reg.i2cCtrl 1, 1#32)] up).setI2c 1 ⟨[256 * op], [], false⟩
       s.bit (Reg.i2cCtrl 1) 0 = true ∧ (s.i2c 1).cmds = [256 * op] ∧ 256 * op / 256 % 8 = op) := by decide +kernel

/-- Channel 127 with words at its registers, the block enabled. -/
def ch (l : List (Nat × Word)) (f : DmaCh → DmaCh) : State :=
  (regs ((0x400B0004, 1#32) :: l.map fun x => (Reg.dma 127 x.1, x.2)) up).setDch 127 (f DmaCh.idle)
theorem wit_DmaChannelsAreEnabledStartedAndStopped :
    reaches up .warden true (Reg.dma 127 4) = true ∧ reaches up .warden true 0x400B0004 = true
    ∧ reaches up .warden true (Reg.dma 127 0x34) = true ∧ chEnabled up 127 = false ∧ chIdle up 127 = true
    ∧ (let s := ch [(4, 1#32)] id
       reaches s .warden true (Reg.dma 127 4) = true ∧ chEnabled s 127 = true ∧ chRing s 127 = false ∧ chIdle s 127 = true)
    ∧ chRing (ch [(4, 1#32), (0, 1#32)] id) 127 = true
    ∧ (let s := ch [] fun x => { x with outstanding := true }
       chIdle s 127 = false ∧ (s.dch 127).outstanding = true)
    ∧ (let s := ch [] fun x => { x with late := [(0, 5#32)] }
       (s.dch 127).late = [(0, 5#32)] ∧ (s.dch 127).cur = none)
    ∧ (let s := ch [] fun x => { x with late := [(0, 5#32)], cur := some ⟨0x20003000#32, 0x20003100#32, 4, 1, 0#32, 0#32, 0#32⟩ }
       (s.dch 127).cur.isSome = true ∧ chHead s 127 = 0)
    ∧ 0 < chSize (ch [(0x2C, 4096#32)] id) 127 := by decide +kernel
theorem wit_DmaFetchesMovesAndCompletes :
    (let s := ch [(4, 1#32), (0, 1#32), (0x28, 0x20003000#32), (0x2C, 4#32), (0x34, 1#32)] id
     chRuns s 127 = true ∧ chRing s 127 = true ∧ (s.dch 127).cur = none ∧ chEmpty s 127 = false
     ∧ (fetchWords 127 (chSlot s 127 (chHead s 127)) 6 s).2.1 = none
     ∧ chEmpty (ch [(4, 1#32), (0, 1#32)] id) 127 = true) ∧
    (let d : Desc := ⟨0x20003000#32, 0x20003100#32, 4, 1, 0#32, 0#32, 0#32⟩
     let s := ch [(4, 1#32)] fun x => { x with cur := some d, regMode := true }
     let b := s.modDch 127 fun x => { x with cur := some d, regMode := true, lines := 0, xfer := 0, err := none }
     let m := moveBytes 127 (chMaster 127) d (addr32 d.src.toNat) (addr32 d.dst.toNat) 4 b
     chRuns s 127 = true ∧ (s.dch 127).cur = some d ∧ chReq s 127 = 0 ∧ d.il = 0 ∧ dmaCheck (chAudio s 127) d = 0
     ∧ m.2.1 = none ∧ m.1 = d.lineLen ∧ m.2.2.dch 127 = b.dch 127
     ∧ dmaCheck (chAudio s 127) { d with ctl := 0x40#32 } ≠ 0) ∧
    (let d : Desc := ⟨0x20003000#32, 0x20003100#32, 4, 1, 0#32, 0#32, 0#32⟩
     let s := ch [(4, 1#32), (0, 0x501#32), (0x28, 0x20003000#32), (0x2C, 4#32)] fun x => { x with cur := some d, lines := 1 }
     let t := ch [(4, 1#32), (0, 0x501#32)] fun x => { x with cur := some d }
     chRuns s 127 = true ∧ chReq s 127 ≠ 0 ∧ chMoved (s.dch 127) = true ∧ (s.dch 127).ahead = none
     ∧ (writeNow (chMaster 127) (chSlot s 127 (chHead s 127) + 0x18) 8 0 s).1 = true
     ∧ (writeNow (chMaster 127) (chSlot s 127 (chHead s 127) + 0x18) 8 0 s).2.dch 127 = s.dch 127
     ∧ 2 ≤ chReq t 127 ∧ lineAsserted t (chReq t 127) = true ∧ chMoved (t.dch 127) = false
     ∧ chReq (ch [(0, 0x101#32)] id) 127 = 1) := by decide +kernel

/-- Line monitor 7 in some state, SENSE enabled. -/
def mon7 (f : Monitor → Monitor) : State := (regs [(0x400C0004, 1#32)] up).setMon 7 (f Monitor.off)
theorem wit_LinesAreJudgedAndTheSilentTestRuns :
    (mon7 fun m => { m with st := .watch }).enabled 12 = true
    ∧ (let s := mon7 fun m => { m with st := .watch, prevOut := true, relayDue := true, age := some 15000 }
       (s.mon 7).st ≠ .off ∧ (s.mon 7).formed = false ∧ (s.mon 7).prevOut = true ∧ (s.mon 7).relayDue = true
       ∧ (s.mon 7).age = some 15000 ∧ ((s.mon 7).ic * (s.mon 7).ic + (s.mon 7).is * (s.mon 7).is).toNat < (512 * windowUnit) ^ 2
       ∧ ((s.mon 7).vc * (s.mon 7).vc + (s.mon 7).vs * (s.mon 7).vs).toNat = 0 ∧ (∀ z ph amp, classify s 7 z ph amp true ≠ 0))
    ∧ (mon7 id |>.mon 7).age = none
    ∧ (let s := mon7 fun m => { m with ic := 2 ^ 90, vc := 2 ^ 100, age := some 15000, st := .fault }
       0xFFFFFFFF < zMag 0xFFFFFFFF ((s.mon 7).vc * (s.mon 7).vc).toNat ((s.mon 7).ic * (s.mon 7).ic).toNat
       ∧ ¬ ((s.mon 7).ic * (s.mon 7).ic + (s.mon 7).is * (s.mon 7).is).toNat < (512 * windowUnit) ^ 2)
    ∧ ((mon7 fun m => { m with st := .learn, learned := List.replicate 15 (1, 0, false) }).mon 7).learned.length = 15
    ∧ ((mon7 fun m => { m with st := .learn }).mon 7).learned.length < 15
    ∧ (∀ a ∈ [0x400C0028, 0x400C002C, 0x400C0400], reaches up .warden true a = true)
    ∧ (let s := mon7 id
       s.enabled 12 = true ∧ s.vt.phase = 0 ∧ s.modes.mode = .service ∧ s.modes.sleep = .awake ∧ passRuns s = false
       ∧ (validRefs s).any (fun r => decide (0x800000 < vtBuffer s r + 0x80000)) = false)
    ∧ (let s := regs [(Reg.vtBuf, 0x780004#32), (Reg.vtRef 0, 0x80000000#32)] (mon7 id)
       (validRefs s).any (fun r => decide (0x800000 < vtBuffer s r + 0x80000)) = true)
    ∧ (∀ p ∈ [2, 3, 4, 5], (up.modVt fun x => { x with phase := p }).vt.phase = p
       ∧ passRuns (up.modVt fun x => { x with phase := p }) = true)
    ∧ (let s := up.modVt fun x => { x with hinges := 16000, frame := 131071, periods := 1024 }
       16000 ≤ s.vt.hinges ∧ 131071 ≤ s.vt.frame ∧ vtPeriods s ≤ s.vt.periods)
    ∧ up.vt.hinges < 16000 ∧ up.vt.frame < 131071 ∧ up.vt.periods < vtPeriods up := by
  refine ⟨by decide +kernel, ⟨by decide +kernel, by decide +kernel, by decide +kernel, by decide +kernel, by decide +kernel,
    by decide +kernel, by decide +kernel, ?_⟩, by decide +kernel⟩
  intro z ph amp
  simp [classify]

/-- Microphone line 1 with its bias on. -/
def mic1 (f : MicLine → MicLine) : State := (regs [(Reg.micDc 1, 1#32)] up).setMic 1 (f MicLine.init)
/-- Contact 7 enabled with a function. -/
def ct7 (cfg : Word) (f : Contact → Contact) : State := (regs [(Reg.ctCfg 7, cfg)] up).setContact 7 (f Contact.init)
theorem wit_MicrophonesContactsAndTheFaultLatch :
    up.bit (Reg.micDc 1) 0 = false
    ∧ (let s := mic1 id
       s.bit (Reg.micDc 1) 0 = true ∧ (s.mic 1).plug ≠ .present ∧ reaches s .warden true (Reg.micDc 1) = true
       ∧ (1#64).getLsbD 0 = s.bit (Reg.micDc 1) 0)
    ∧ (let p := fun (f : MicLine → MicLine) => plugNext 1000 { f { MicLine.init with plug := .present } with latest := 1000 }
       (p id).plug = .present ∧ (p id).learnt = false ∧ (p id).i0n < 15 ∧ (p id).type = 0
       ∧ 15 ≤ (p fun m => { m with i0n := 15 }).i0n
       ∧ (let q := p fun m => { m with learnt := true, i0 := 1000, cand := 0, candRun := 7, code := 3 }
          q.learnt = true ∧ buttonCode (1000 - q.i0) = some 0 ∧ q.cand = 0 ∧ 7 ≤ q.candRun ∧ 0 ≠ q.code)
       ∧ buttonCode (1100 - 1000) = none)
    ∧ ((mic1 fun m => { m with gainWait := true, gainDue := true }).mic 1).gainWait = true
    ∧ ((mic1 fun m => { m with gainWait := true, gainDue := true }).mic 1).gainDue = true
    ∧ (3 ≠ MicLine.init.gain ∧ MicLine.init.gainWait = false) ∧ up.clk.slowGone = false
    ∧ (let s := ct7 0x908#32 fun c => { c with cand := 2, run := 2 }
       s.power.aonReady = true ∧ ctEnabled s 7 = true ∧ (2 : Nat) ≠ (s.contact 7).cls ∧ (s.contact 7).cand = 2 ∧ 2 ≤ (s.contact 7).run)
    ∧ ctEnabled up 7 = false ∧ ((ct7 8#32 fun c => { c with cand := 2, run := 1 }).contact 7).run = 1
    ∧ (let s := ct7 9#32 fun c => { c with cand := 1, run := 2, cnt := 0xFFFF#16 }
       ctFunc s 7 = 1 ∧ (s.contact 7).cnt ≠ (s.contact 7).seen)
    ∧ reaches up .warden true 0x40010240 = true ∧ up.bus.sc = none ∧ faultSum up = 0
    ∧ (List.range 8).any (contactFault up) = false := by decide +kernel

/-- Player 15 plays, its script in the Hearth. -/
def scr (l : List Nat) (f : Player → Player) : State :=
  let s := (regs [(Reg.plScript 15, 0x20005000#32)] { up with mem := words 0x20005000 l }).setPlayer 15 (f { Player.off with st := .play })
  s
theorem wit_KeepLinesScriptsAndRecordsAdvance :
    reaches up .warden true Reg.keepCmd = true ∧ (up.keepLine 3).isSome = false ∧ up.msg.prog = none
    ∧ ((setKeepLine 3 (some ⟨0x680000, [], false⟩) up).keepLine 3).isSome = true ∧ keepPart 0x680000 = .user ∧ keepPart 0x67FFC0 ≠ .user
    ∧ (let s := setKeepLine 3 (some ⟨0x680000, List.replicate 64 1#8, true⟩) { up with msg := { up.msg with prog := some 3 } }
       s.msg.prog = some 3 ∧ s.keepLine 3 = some ⟨0x680000, List.replicate 64 1#8, true⟩)
    ∧ (up.player 15).ready = false
    ∧ (∀ op ∈ [0, 1, 2, 3, 4, 5, 6, 7], let s := scr [op * 2 ^ 28, 0x20005100] id
       (s.player 15).ready = true ∧ (scriptWord s 15 0).map (fun w => fld w 28 4) = some op ∧ scriptWord s 15 1 = some 0x20005100#32
       ∧ (s.player 15).ops < 15 ∧ (isHearth 0x20005100 4 || isKeep 0x20005100 4) = true)
    ∧ scriptWord (regs [(Reg.plScript 15, 0x40000000#32)] (scr [] id)) 15 0 = none
    ∧ 15 ≤ ((scr [6 * 2 ^ 28] fun x => { x with ops := 15 }).player 15).ops
    ∧ ({ up with msg := { up.msg with loadDue := true } } : State).msg.loadDue = true ∧ up.msg.loadDue = false
    ∧ reaches up .warden true 0x400E0220 = true
    ∧ (let s := regs [(0x400E0004, 1#32)] { up with evt := { up.evt with jwait := [List.replicate 32 0#8] } }
       s.evt.jwait = [List.replicate 32 0#8] ∧ s.keepLine 2 = none ∧ s.enabled 14 = true ∧ s.evt.jline < 16384
       ∧ s.evt.jwait.length < 2 ∧ s.evt.jage < 16000
       ∧ (let l := { s with evt := { s.evt with jage := 16000, hinges := 250 } }
          16000 ≤ l.evt.jage ∧ l.enabled 14 = true ∧ 250 ≤ l.evt.hinges)) := by decide +kernel
/-- A clip that plays. -/
theorem wit_ClipsThatPlay :
    let s := regs [(Reg.clipBase, 0x20006000#32), (Reg.clipCount, 1#32)] { up with mem := words 0x20006000 [0x80000000, 1000, 0, 0] }
    clipBad s 15 0 = false ∧ (clipAt s 15 0).frames ≠ 0 := by decide +kernel

/-! ### Witnesses: modes, sleep, boot, Warden, Anvil, reset -/

/-- The part past its boot in a mode, with a request. -/
def inMode (m : Mode) (r : Option (Nat × Bool)) : State := modes (fun x => { x with mode := m, booting := false, request := r }) up
/-- Contact 7 is an alarm contact, ACTIVE. -/
def alarm (s : State) : State := (regs [(Reg.ctCfg 7, 9#32)] s).setContact 7 { Contact.init with cls := 1 }
theorem wit_ModeRequestsAreQueuedAndJudged : reaches up .warden true 0x40000404 = true
    ∧ (∀ m ∈ [Mode.service, .watch, .evacuate], ∀ v ∈ [0, 1, 2, 3, 4, 5, 6], ∀ d ∈ [false, true],
        let s := inMode m (some (v, d))
        s.modes.sleep = .awake ∧ s.modes.booting = false ∧ s.modes.alarmInSleep = false ∧ (s.tenant 0).lost = false
        ∧ (∀ n < 8, (s.contact n).alarmDue = false ∧ (s.contact n).silenceDue = false) ∧ s.modes.request = some (v, d)
        ∧ s.modes.mode = m ∧ s.modes.wakePin = false ∧ s.modes.wake = false)
    ∧ (let s := alarm (inMode .watch (some (3, false)))
       ctEnabled s 7 = true ∧ ctFunc s 7 = 1 ∧ (s.contact 7).cls = 1 ∧ (s.contact 7).silenced = false
       ∧ (s.contact 7).alarmDue = false ∧ ∀ n < 8, ctEnabled (inMode .watch none) n = false)
    ∧ (modes (fun x => { x with sleep := .entry }) up).modes.sleep ≠ .awake := by decide +kernel
theorem wit_EvacuateWinsOverItsEnd : let s := (inMode .service (some (4, true))).setContact 0 { Contact.init with silenceDue := true }
    s.modes.sleep = .awake ∧ s.modes.mode ≠ .evacuate ∧ s.modes.request = some (4, true) ∧ (s.contact 0).silenceDue = true
    ∧ (let a := (inMode .service (some (5, true))).setContact 7 { Contact.init with alarmDue := true }
       contactEnters a = true ∧ a.modes.request = some (5, true))
    ∧ (let t := alarm (ten0 (fun x => { x with lost := true }) s)
       (t.tenant 0).lost = true ∧ ctEnabled t 7 = true ∧ ctFunc t 7 = 1 ∧ (t.contact 7).cls = 1) := by decide +kernel
theorem wit_WatchdogsCountExpireAndReset : reaches up .warden true (0x40000424 + 0x10 * 3) = true
    ∧ (let s := regs [(Reg.wdogCfg 3, 0x3000005#32)] up
       s.bit (Reg.wdogCfg 3) 24 = true ∧ s.modes.sleep = .awake ∧ s.bit Reg.wdogStat 3 = false ∧ s.bit (Reg.wdogCfg 3) 25 = true
       ∧ wdogLeft s 3 = 0 ∧ (s.wrb Reg.wdogStat 3 true).bit Reg.wdogStat 3 = true ∧ s.ward.keylock = true
       ∧ s.ward.release.getLsbD 20 = true
       ∧ 16 ≤ tget 0 (modes (fun x => { x with wdSince := [(3, 16)] }) s).modes.wdSince 3 ∧ tget 0 s.modes.wdSince 3 < 16)
    ∧ up.bit (Reg.wdogCfg 3) 24 = false := by decide +kernel
theorem wit_SleepEndsInAFastWakeOrACold : up.bit Reg.wakeCfg 1 = false
    ∧ (let s := modes (fun x => { x with sleep := .asleep }) up
       s.modes.wakePin = false ∧ s.bit Reg.wakeCfg 0 = true ∧ s.modes.sleep ≠ .awake)
    ∧ (let s := modes (fun x => { x with sleep := .asleep }) (regs [(Reg.wakeCfg, 2#32)] up)
       s.bit Reg.wakeCfg 1 = true ∧ s.modes.sleep ≠ .awake)
    ∧ (let s := modes (fun x => { x with sleep := .waking }) up
       s.modes.sleep = .waking ∧ s.clk.xtalOk = true ∧ sealGood s 0 = false)
    ∧ reaches up .warden true 0x4001026C = true ∧ up.bus.sc = none := by decide +kernel
/-- The bytes of a seal before its code. -/
def sealHead : List Byte := bytesOf [0x44, 0x5A, 0x53, 0x4C, 1, 0, 0, 0] ++ List.replicate 0x138 0#8
/-- A seal stands where the code over its first bytes is the one that it holds. -/
theorem wit_SealGood (h : Config.hmac [] sealHead = List.replicate 32 7#8) :
    sealGood { modes (fun x => { x with sleep := .waking }) (ward (fun w => { w with untouched := true }) up) with
      mem := memPutBytes [] sealAt (sealHead ++ List.replicate 32 7#8) } 0 = true := by
  have b : memBytes (memPutBytes [] sealAt (sealHead ++ List.replicate 32 7#8)) sealAt 0x160 = sealHead ++ List.replicate 32 7#8 := by
    decide +kernel
  have e1 : (sealHead ++ List.replicate 32 7#8).take 0x140 = sealHead := by decide +kernel
  have e2 : cut (sealHead ++ List.replicate 32 7#8) 0x140 32 = List.replicate 32 7#8 := by decide +kernel
  have e3 : cut (sealHead ++ List.replicate 32 7#8) 0 4 = bytesOf [0x44, 0x5A, 0x53, 0x4C] := by decide +kernel
  have e4 : le (sealHead ++ List.replicate 32 7#8) 4 4 = 1 := by decide +kernel
  have e5 : le (sealHead ++ List.replicate 32 7#8) 0x18 4 % 8 = 0 := by decide +kernel
  have k' : keySlot { modes (fun x => { x with sleep := .waking }) (ward (fun w => { w with untouched := true }) up) with
      mem := memPutBytes [] sealAt (sealHead ++ List.replicate 32 7#8) } 4 = [] := by
    show tget [] up.ward.keys 4 = []
    decide +kernel
  simp only [sealGood, b, e1, e2, e3, e4, e5, k', h]
  simp [ward, modes, selectionOf]
  decide

/-- The boot at a stage, the copies to seek in order. -/
def boot (st : Nat) (l : List CopyId) : State :=
  ward (fun w => { w with stage := st, order := l }) (power (fun p => { p with trimDone := true }) up)
theorem wit_BootAttemptsInstallOrFail :
    (let s := boot 1 []
     s.power.trimDone = true ∧ s.power.held = false ∧ s.ward.stage = 1 ∧ s.bit Reg.recov 0 = false
     ∧ (s.wrb Reg.recov 0 true).bit Reg.recov 0 = true ∧ up.ward.stage ≠ 1)
    ∧ (∀ p ∈ [(ImageKind.stage1, 3), (.tenant, 4), (.preset, 5), (.engine, 7), (.control, 8)],
        nextCopy (boot p.2 [.k]) p.1 = some .k ∧ isPendingCopy (boot p.2 [.k]) .k = false
        ∧ nextCopy (boot p.2 [.network]) p.1 = some .network
        ∧ (attemptBytes (boot p.2 [.k]) p.1 .k).2 ≠ 0
        ∧ nextCopy (boot 1 []) p.1 = none)
    ∧ nextCopy (boot 6 []) .plan = some .keepPlan ∧ (attemptBytes (boot 6 []) .plan .keepPlan).2 = 0
    ∧ imageCause (boot 6 []) .plan (attemptBytes (boot 6 []) .plan .keepPlan).1 ≠ 0
    ∧ (let s := ward (fun w => { w with slot := { w.slot with stB := .pending, trials := 3 } }) (boot 3 [.slotB])
       nextCopy s .stage1 = some .slotB ∧ isPendingCopy s .slotB = true ∧ s.ward.trialTaken = false ∧ s.ward.slot.trials ≠ 0)
    ∧ (boot 3 [.network]).ward.xfer = none ∧ (boot 3 [.network]).rd 0x40000888 = 0#32
    ∧ (ward (fun w => { w with xfer := some ⟨false, .stage1, [], 0#16, 0, 64, none, 0#16, []⟩ }) (boot 3 [.network])).ward.xfer ≠ none
    ∧ exhausted (boot 3 []) = true ∧ exhausted (boot 3 [.k]) = false := by decide +kernel

/-- A recovery's transfer over the Anvil port. -/
def xf (anvil : Bool) : Xfer := ⟨anvil, .stage1, List.replicate 64 1#8, 5#16, 64, 2, some .slotB, 9#16, []⟩
theorem wit_TheWardenServesItsMailbox :
    reaches up (.cc 0) true 0x40000604 = true ∧ reaches (up.wr 0x40000604 1#32) (.cc 0) true 0x40000600 = true
    ∧ up.ward.mbox = none ∧ wardenServes up = true ∧ wardenServes (boot 3 []) = false
    ∧ (ward (fun w => { w with mbox := some (16, 0#32, some 0) }) up).ward.mbox = some (16, 0#32, some 0)
    ∧ argOk 0x40000000 = false ∧ argOk 0x20000100 = true ∧ slotNamed (argWord up 0x20000100) = none
    ∧ (let s := { up with mem := words 0x20000100 [2] }
       slotNamed (argWord s 0x20000100) = some true ∧ s.ward.slot.activeB ≠ true ∧ suppliedAny s (copyOf true) = false
       ∧ stateOf s.ward.slot true ≠ .writing
       ∧ stateOf (ward (fun w => { w with slot := { w.slot with stB := .writing } }) s).ward.slot true = .writing)
    ∧ pendingSlot up.ward.slot = none ∧ pendingSlot ({ up.ward.slot with stB := .pending } : SlotRec) = some true
    ∧ suppliedAll up (copyOf true) = false
    ∧ (let img := fun (k : ImageKind) => (kindNo k, some (BootImg.mk .slotB 0 1 1 0#32 0#32 0#32))
       suppliedAll (ward (fun w => { w with imgs := [img .stage1, img .tenant, img .preset, img .engine, img .control] }) up) (copyOf true) = true)
    ∧ inEvacuate up = false ∧ inEvacuate (inMode .evacuate none) = true ∧ regionOf 0x20000100 = .hearth ∧ regionOf 0x50000100 = .keep
    ∧ (argImage up 0x20000100).isSome = true ∧ argImage up 0x201FFFF0 = none
    ∧ le (argBytes up 0x20000100 48) 0 2 ≠ 11 ∧ le (argBytes { up with mem := words 0x20000100 [11] } 0x20000100 48) 0 2 = 11
    ∧ up.ward.freeze.getLsbD 7 = false ∧ up.ward.fuses.svnFloor ≤ argWord up 0x20000100 ∧ up.ward.imgs = []
    ∧ (runningImg up .stage1).map (·.key) ≠ some 0
    ∧ up.power.held = false ∧ (postedOf up false).all (fun p => p.master != .warden) = true
    ∧ lvlOf up (.cc 0) ≠ .secure ∧ crosses up (.cc 0) 0xE0000240 = false ∧ up.ward.release.getLsbD 0 = true
    ∧ State.reset.ward.release.getLsbD 0 = false ∧ flashClosed up 0x3FFFFF = true ∧ flashClosed up 0x800000 = false := by decide +kernel
/-- Two roots whose keys have the hashes of the fuses: neither stands alone. -/
theorem wit_RootRevoke (h : (Config.sha256 (List.replicate 64 0#8)).any (fun x => x != 0#8) = true) :
    let s := ward (fun w => { w with fuses := { w.fuses with rootHash := List.replicate 4 (Config.sha256 (List.replicate 64 0#8)) } }) up
    ∃ j < 4, j ≠ 0 ∧ keyUsable s j = true := by
  refine ⟨1, by decide, by decide, ?_⟩
  have e : rootKey up 1 = List.replicate 64 0#8 := by decide +kernel
  have r : up.ward.fuses.rootRevoke.getLsbD 1 = false := by decide
  show (decide (1 < 4) && (Config.sha256 (List.replicate 64 0#8)).any (fun x => x != 0#8) && !up.ward.fuses.rootRevoke.getLsbD 1
    && (Config.sha256 (rootKey up 1) == Config.sha256 (List.replicate 64 0#8))) = true
  rw [h, r, e]
  simp
theorem wit_AnvilCarriesBytesAndTransfers : up.ward.anv.pub.length = 16
    ∧ (modes (fun x => { x with sleep := .asleep }) up).modes.sleep = .asleep
    ∧ (let s := { up with bus := { up.bus with readyFar := [(5, true)], readyNear := [(5, true)] } }
       xingReady s 5 = true ∧ s.modes.sleep ≠ .asleep ∧ crc16 (beBytes 2 1 ++ [7#8]) = (BitVec.ofNat 16 (crc16 (beBytes 2 1 ++ [7#8]))).toNat
       ∧ s.ward.anv.toWarden.length + 1 ≤ 1024 ∧ anvServes s = true)
    ∧ xingReady up 5 = false ∧ anvServes State.reset = false
    ∧ (∀ a ∈ [true, false], let s := ward (fun w => { w with xfer := some (xf a) }) up
       s.ward.xfer = some (xf a) ∧ (xf a).kind = .stage1 ∧ (xf a).off = 64 ∧ (xf a).count = [1#8, 2#8].length
       ∧ (xf a).anvil = a ∧ xferWhole (xf a) = false
       ∧ xferWhole { xf a with got := (xf a).got ++ [1#8, 2#8] } = false)
    ∧ xferWhole { xf false with got := List.replicate 64 0#8 } = true ∧ up.ward.xfer = none
    ∧ le (List.replicate 64 0#8 ++ [1#8, 2#8]) 0xC 4 ≤ 0x400000
    ∧ (let s := ward (fun w => { w with recovery := true, stage := 14 }) (anv (fun a => { a with grants := 1#3 }) up)
       anvServes s = true ∧ s.ward.recovery = true ∧ s.ward.anv.grants.getLsbD 0 = true ∧ s.ward.xfer = none ∧ s.modes.mode ≠ .evacuate
       ∧ targetSlot .slotB = some true)
    ∧ up.ward.recovery = false := by decide +kernel
theorem wit_GrantsOpenAndEnd : anvServes State.reset = false ∧ anvServes up = true ∧ up.ward.anv.rateOk = true
    ∧ (anv (fun a => { a with rateOk := false }) up).ward.anv.rateOk = false ∧ up.ward.anv.chal = [] ∧ authResult up [] ≠ 0
    ∧ (modes (fun x => { x with sleep := .entry }) up).modes.sleep = .entry
    ∧ (let s := anv (fun a => { a with grants := 7#3 }) up
       s.ward.anv.grants ≠ 0#3 ∧ s.ward.anv.key = 0 ∧ (runningImg s .stage1).map (·.key) ≠ some 0
       ∧ s.ward.anv.grants.getLsbD 1 = true ∧ s.ward.anv.grants.getLsbD 2 = true
       ∧ (readNow .anvil 0x20000100 4 s).1 = some 0 ∧ (readNow .jtag 0x20000100 4 s).1 = some 0)
    ∧ up.ward.anv.grants.getLsbD 1 = false ∧ up.ward.anv.grants.getLsbD 2 = false := by decide +kernel
/-- A body that passes every check of AUTH, where its signature verifies. -/
theorem wit_Auth (h : Config.ecdsaOk (List.replicate 64 0#8) (bytesOf [0x44, 0x5A, 0x41, 0x56] ++ [1#8] ++ leBytes 4 2) (List.replicate 64 0#8) = true)
    (k : (Config.sha256 (List.replicate 64 0#8)).any (fun x => x != 0#8) = true) :
    authResult (anv (fun a => { a with chal := [1#8], chalGrant := 2#32 }) (ward (fun w => { w with fuses := { w.fuses with
      rootHash := List.replicate 4 (Config.sha256 (List.replicate 64 0#8)) } }) up))
      ([0#8, 0#8, 0#8, 0#8] ++ leBytes 4 2 ++ List.replicate 128 0#8) = 0 := by
  have e1 : le ([0#8, 0#8, 0#8, 0#8] ++ leBytes 4 2 ++ List.replicate 128 0#8) 0 1 = 0 := by decide +kernel
  have e2 : le ([0#8, 0#8, 0#8, 0#8] ++ leBytes 4 2 ++ List.replicate 128 0#8) 4 4 = 2 := by decide +kernel
  have e3 : cut ([0#8, 0#8, 0#8, 0#8] ++ leBytes 4 2 ++ List.replicate 128 0#8) 8 64 = List.replicate 64 0#8 := by decide +kernel
  have e4 : cut ([0#8, 0#8, 0#8, 0#8] ++ leBytes 4 2 ++ List.replicate 128 0#8) 72 64 = List.replicate 64 0#8 := by decide +kernel
  have r : up.ward.fuses.rootRevoke.getLsbD 0 = false := by decide
  have l : up.ward.keylock = true := by decide
  have a : rootStands (anv (fun a => { a with chal := [1#8], chalGrant := 2#32 }) (ward (fun w => { w with fuses := { w.fuses with
      rootHash := List.replicate 4 (Config.sha256 (List.replicate 64 0#8)) } }) up)) 0 = true := by
    show (decide (0 < 4) && (Config.sha256 (List.replicate 64 0#8)).any (fun x => x != 0#8) && !up.ward.fuses.rootRevoke.getLsbD 0) = true
    rw [k, r]
    rfl
  have h' : Config.ecdsaOk (List.replicate 64 0#8) (bytesOf [0x44, 0x5A, 0x41, 0x56] ++ (anv (fun a => { a with chal := [1#8], chalGrant := 2#32 }) (ward (fun w => { w with fuses := { w.fuses with
      rootHash := List.replicate 4 (Config.sha256 (List.replicate 64 0#8)) } }) up)).ward.anv.chal ++ leBytes 4 2) (List.replicate 64 0#8) = true := h
  simp only [authResult, e1, e2, e3, e4, h', a]
  simp [anv, ward, l]

theorem wit_ResetsReturnTheirPart : up.bus.sc = none ∧ up.msg.prog = none
    ∧ 16 ≤ ({ up.power with tempAge := 16 } : Power).tempAge
    ∧ (let x : NetAcc := ⟨.warden, .secure, 0x40090000, 4, true, 1, .asked⟩
       (bus (fun b => { b with net := some x }) up).bus.net = some x ∧ x.phase = .asked)
    ∧ State.reset.power.held = true ∧ State.reset.power.aonReady = true ∧ State.reset.power.xtalLost = false ∧ up.power.held = false
    ∧ (∀ a ∈ [0x40000700, 0x40000704, 0x40000708], reaches up .warden true a = true)
    ∧ (0xB007#64).setWidth 32 = 0xB007#32 ∧ (postedOf up false).all (fun p => p.master != .warden) = true
    ∧ up.ward.keylock = true ∧ up.ward.release.getLsbD 17 = true ∧ up.ward.release.getLsbD 15 = true ∧ ownedBy 15 0x400F0004 = true
    ∧ recordReg 0x400F0004 = false ∧ State.reset.ward.release.getLsbD 2 = false
    ∧ (let s := power (fun p => { p with trimDone := false }) up
       s.power.held = false ∧ s.clk.xtalOk = true ∧ s.power.trimDone = false ∧ trimRow s.ward.fuses 0 = none)
    ∧ (let c := fun (w : Nat) => BitVec.ofNat 40 (w + crc8 0xFF (leBytes 4 w) * 2 ^ 32)
       let f : Fuses := { up.ward.fuses with trim0 := c 0x10000 :: List.replicate 47 (c 5) }
       ((trimRow f 0).map fun w => fld w.1 16 8) = some 1 ∧ (List.range 48).all (fun r => (trimRow f r).isSome) = true)
    ∧ (let s := regs [(0x40000904, 0x1000#32)] up
       sfld (s.rd 0x40000900) 0 16 < (sfld (s.rd 0x40000904) 0 16 : Int) ∧ (sfld (s.rd 0x40000904) 0 16 : Int) ≤ (0x1000#16).toInt
       ∧ (power (fun p => { p with hot := true }) s).power.hot = true ∧ (0xEC0#16).toInt ≤ sfld (s.rd 0x40000904) 0 16 - 320) := by
  decide +kernel

end Sys2Proof.Tests
end

section
/-! The register file's rules (chapter 2): writes and reads through the aliases, write-backs by tag, accesses that the
filter drops, and reads of the shadow. -/

namespace Sys2Proof.Machine
open Sys2Proof

/-! ### The registers that the aliases name -/

theorem directOf_alias {d : Nat} (p : Nat) (h : inSlots d = true) : directOf (d + 0x100000 * p) = d := by
  simp only [inSlots, decide_eq_true_eq] at h
  unfold directOf
  omega

theorem aliasOf_alias {d : Nat} (p : Nat) (h : inSlots d = true) : aliasOf (d + 0x100000 * p) = p := by
  simp only [inSlots, decide_eq_true_eq] at h
  unfold aliasOf
  omega

theorem directOf_own {a : Nat} (h : inSlots a = true) : directOf a = a := directOf_alias 0 h

theorem aliasOf_own {a : Nat} (h : inSlots a = true) : aliasOf a = 0 := aliasOf_alias 0 h

theorem regionOf_inSlots {a : Nat} (h : inSlots a = true) : regionOf a = .slots := by
  simp only [inSlots, decide_eq_true_eq] at h
  unfold regionOf
  repeat rw [if_neg (by omega)]
  rw [if_pos (by omega)]

/-- SYS.DEV_RESET is an RW register, so a register of another class is not it. -/
theorem ne_devReset_of_cls {a : Nat} {r : RegRow} (hr : rowAt a = some r) (hc : r.cls ≠ .rw) : a ≠ 0x40000700 := by
  rintro rfl
  have e : (rowAt 0x40000700).map (·.cls) = some .rw := by decide
  rw [hr] at e
  exact hc (Option.some.inj e)

/-! ### What `reaches` says -/

/-- An access that reaches a register of the slots is aligned, stays on its side of the bridge, has no posted write of its
master before it, and is neither filtered nor held. -/
theorem reaches_clear {s : State} {m : Master} {w : Bool} {a : Nat} (h : reaches s m w a = true) :
    regionOf a = .slots ∧ a % 4 = 0 ∧ crosses s m a = false ∧ (postedOf s false).all (fun p => p.master != m) = true ∧
    filterOf (whoOf s m) w a = .pass ∧ heldAt s a = false := by
  simp only [reaches, Bool.and_eq_true, beq_iff_eq, decide_eq_true_eq, Bool.not_eq_true'] at h
  obtain ⟨⟨⟨⟨⟨⟨hreg, hal⟩, hc⟩, hpost⟩, hf⟩, hh⟩, -⟩ := h
  exact ⟨hreg, hal, hc, hpost, hf, hh⟩

/-! ### Word reads past the filter -/

theorem subWord_aligned (v : Word) {a : Nat} (h : a % 4 = 0) : subWord v a 4 = v.toNat := by
  unfold subWord
  rw [h]
  have := v.isLt
  omega

/-- A word read of the slots that passes the filter and meets no reset: zero through the aliases, what waits in the shadow
through the shadow window, and the register's view and effect at its own address (R32, R35, R43). -/
theorem regRead_pass {w : Who} {a : Nat} {s : State} {r : RegRow} (hreg : regionOf a = .slots) (hal : a % 4 = 0)
    (hf : filterOf w false a = .pass) (hh : heldAt s a = false) (hn : netDown s a = false)
    (hr : rowAt (directOf a) = some r) :
    regRead w a 4 s =
      if aliasOf a ≠ 0 then (some 0, s)
      else if 0x8000 ≤ directOf a % 0x10000 then
        (some ((tget none s.wbPend (directOf a - 0x8000)).getD (s.rd (directOf a - 0x8000))).toNat, s)
      else (some (slotView (directOf a) r s).toNat, readEffect (directOf a) r s) := by
  unfold regRead
  rw [hf]
  simp only [hal, hh, hn, hreg, aligned_of_slots a hal, hr, subWord_aligned _ hal, ne_eq, not_true_eq_false, if_false, if_true,
    Bool.or_self, Bool.false_eq_true, reduceCtorEq, show ¬ (4 < 4) by decide, false_and]

/-- What waits in a WB register's shadow, or else the live register, is what the shadow window reads as (R43). -/
theorem regRead_shadow {w : Who} {a : Nat} {s : State} {r : RegRow} (hi : inSlots a = true) (ho : a % 0x10000 < 0x8000)
    (hal : a % 4 = 0) (hh : heldAt s a = false) (hn : netDown s a = false) (hr : rowAt a = some r) (hc : r.cls = .wb)
    (hf : filterOf w false (a + 0x8000) = .pass) :
    (regRead w (a + 0x8000) 4 s).1 = some ((tget none s.wbPend a).getD (s.rd a)).toNat := by
  have hi' : inSlots (a + 0x8000) = true := by
    simp only [inSlots, decide_eq_true_eq] at hi ⊢
    omega
  have hslot : (a + 0x8000) / 0x10000 % 16 = a / 0x10000 % 16 := by omega
  have hreg := regionOf_inSlots hi
  have hreg' := regionOf_inSlots hi'
  have hh' : heldAt s (a + 0x8000) = false := by
    simpa only [heldAt, hreg, hreg', hslot] using hh
  have hn' : netDown s (a + 0x8000) = false := by
    simpa only [netDown, hreg, hreg', hslot] using hn
  have hr' : rowAt (directOf (a + 0x8000)) = some r := by
    rw [directOf_own hi']
    unfold rowAt at hr ⊢
    rw [if_pos hi, if_pos ho] at hr
    rw [if_pos hi', if_neg (by omega), Nat.add_sub_cancel, hr, Option.filter_some, if_pos (by simp [hc])]
  rw [regRead_pass hreg' (by omega) hf hh' hn' hr', directOf_own hi', aliasOf_own hi', if_neg (by decide),
    if_pos (by omega), Nat.add_sub_cancel]

/-! ### Word writes by access code -/

theorem classWrite_rw {w : Who} {p a : Nat} {r : RegRow} {v : Word} {s : State} (hc : r.cls = .rw) :
    classWrite w p a r v s
      = rwWrite w a (aliased p (pendingOr a (slotView a r s) s) v &&& BitVec.ofNat 32 r.mask) s := by
  simp only [classWrite, hc]

theorem classWrite_wb {w : Who} {p a : Nat} {r : RegRow} {v : Word} {s : State} (hc : r.cls = .wb) :
    classWrite w p a r v s = wbWrite a (aliased p (pendingOr a (s.rd a) s) v &&& BitVec.ofNat 32 r.mask) s := by
  simp only [classWrite, hc]

theorem classWrite_wd_refused {w : Who} {p a : Nat} {r : RegRow} {v : Word} {s : State} (hc : r.cls = .wd)
    (hg : govOn (a / 0x10000 % 16) r ((a % 0x10000 - r.off) / r.stride) s = true) :
    classWrite w p a r v s = writeRejected (a / 0x10000 % 16) p (a % 0x10000) s := by
  simp only [classWrite, hc, hg, if_true]

theorem classWrite_wd_taken {w : Who} {p a : Nat} {r : RegRow} {v : Word} {s : State} (hc : r.cls = .wd)
    (hg : govOn (a / 0x10000 % 16) r ((a % 0x10000 - r.off) / r.stride) s = false) :
    classWrite w p a r v s =
      let x := aliased p (s.rd a) v &&& BitVec.ofNat 32 r.mask
      if a = Reg.netMode then portsCheck (s.wr a x) else s.wr a x := by
  simp only [classWrite, hc, hg, Bool.false_eq_true, if_false]

theorem classWrite_sq {w : Who} {p a : Nat} {r : RegRow} {v : Word} {s : State} (hc : r.cls = .sq) :
    classWrite w p a r v s = sqWrite w a v s := by
  simp only [classWrite, hc]

/-- A write through one of the aliases of a register that is neither RW, WB nor WD is logged as ALIAS_IGNORED alone (R32). -/
theorem regAccess_alias_ignored {s : State} {m : Master} {a : Nat} {v : BitVec 64} {r : RegRow}
    (h : reaches s m true a = true) (hr : rowAt (directOf a) = some r) (hs : directOf a % 0x10000 < 0x8000)
    (hp : aliasOf a ≠ 0) (hrw : r.cls ≠ .rw) (hwb : r.cls ≠ .wb) (hwd : r.cls ≠ .wd) :
    regAccess m a .word v s = logAcc (whoOf s m) 4 true 4 a s := by
  obtain ⟨hni, hnd⟩ := reaches_net h
  obtain ⟨hreg, hal, hc, hpost, hf, hh⟩ := reaches_clear h
  have hshadow : (inSlots (directOf a) && decide (0x8000 ≤ directOf a % 0x10000)) = false := by
    simp only [Bool.and_eq_false_iff, decide_eq_false_iff_not]
    exact .inr (by omega)
  rw [regAccess_slots s m a .word v hreg hc hpost hni (by decide)]
  unfold regWrite
  rw [hf]
  simp only [widthBytes, hal, hh, hnd, hreg, aligned_of_slots a hal, hshadow, hr, ne_devReset_of_cls hr hrw, ne_eq,
    not_true_eq_false, if_false, if_true, Bool.or_self, Bool.false_eq_true, show ¬ (4 < 4) by decide]
  rw [if_pos ⟨hp, hrw, hwb, hwd⟩]

/-! ### The set, clear and toggle aliases -/

theorem aliased_eq {p : Nat} (h1 : 1 ≤ p) (h3 : p ≤ 3) (x v : Word) :
    aliased p x v = if p = 1 then x ||| v else if p = 2 then x &&& ~~~v else x ^^^ v := by
  obtain rfl | rfl | rfl : p = 1 ∨ p = 2 ∨ p = 3 := by omega
  all_goals rfl

/-- The write commands of the three aliases are the master's write of the address they name. -/
theorem exec_alias_write (p : Nat) (m : Master) (a : Word) (v : BitVec 64) (s : State) :
    exec (if p = 1 then .setAliasWrite m a .word v else if p = 2 then .clearAliasWrite m a .word v
      else .toggleAliasWrite m a .word v) s = .next (regAccess m a.toNat .word v s) := by
  by_cases h1 : p = 1
  · rw [if_pos h1]; rfl
  · by_cases h2 : p = 2
    · rw [if_neg h1, if_pos h2]; rfl
    · rw [if_neg h1, if_neg h2]; rfl

/-- Settles O13: a write through the aliases of a writable register is its class's write on that path, one of another class is
ignored, and a read on such a path is zero. -/
theorem aliasesActOnlyOnWritableRegisters : Obligations.AliasesActOnlyOnWritableRegisters := by
  unfold Obligations.AliasesActOnlyOnWritableRegisters
  refine ⟨?_, ?_⟩
  · intro s m d p a v r h1 h3 hi ho ha hk hr h x y c
    have hd : directOf a.toNat = d := by rw [ha]; exact directOf_alias p hi
    have hp : aliasOf a.toNat = p := by rw [ha]; exact aliasOf_alias p hi
    have hc : exec c s = .next (regAccess m a.toNat .word v s) := exec_alias_write p m a v s
    have hy : y = aliased p x (v.setWidth 32) &&& BitVec.ofNat 32 r.mask := by rw [aliased_eq h1 h3]
    have hact : r.cls = .rw ∨ r.cls = .wb ∨ r.cls = .wd →
        exec c s = .next (classWrite (whoOf s m) p d r (v.setWidth 32) s) := by
      intro hcls
      have e := regAccess_reaches s m a.toNat v r h (hd.symm ▸ hr) (hd.symm ▸ hk) (hd.symm ▸ ho) (.inr hcls)
      rw [hc, e, hd, hp]
    refine ⟨fun hcls => ?_, fun hcls => ?_, fun hcls hg => ?_, fun hcls hg => ?_, fun hrw hwb hwd => ?_⟩
    · rw [hact (.inl hcls), classWrite_rw hcls, hy]
      simp only [x, hcls, reduceCtorEq, if_false, if_true]
    · rw [hact (.inr (.inl hcls)), classWrite_wb hcls, hy]
      simp only [x, hcls, if_true]
    · rw [hact (.inr (.inr hcls)), classWrite_wd_taken hcls hg, hy]
      simp only [x, hcls, reduceCtorEq, if_false]
    · rw [hact (.inr (.inr hcls)), classWrite_wd_refused hcls hg]
    · rw [hc, regAccess_alias_ignored h (hd.symm ▸ hr) (hd.symm ▸ ho) (by omega) hrw hwb hwd]
  · intro s m d p a r h1 h3 hi ha hr h hdebug
    have hd : directOf a.toNat = d := by rw [ha]; exact directOf_alias p hi
    have hp : aliasOf a.toNat = p := by rw [ha]; exact aliasOf_alias p hi
    obtain ⟨hni, hnd⟩ := reaches_net h
    obtain ⟨hreg, hal, -, hpost, hf, hh⟩ := reaches_clear h
    have e : regRead (whoOf s m) a.toNat 4 s = (some 0, s) := by
      rw [regRead_pass hreg hal hf hh hnd (hd.symm ▸ hr), if_pos (by omega)]
    show Host.Outcome.next (regFetch m a.toNat .word s) = _
    rw [regFetch_slots s m a.toNat .word hreg hpost hni (by decide) hdebug, show widthBytes .word = 4 from rfl, e]
    rfl

/-! ### Sequence-acknowledged status -/

/-- Bit i of a field is bit lo + i of the word. -/
theorem fld_bit (x : Word) (lo n : Nat) {i : Nat} (h : i < n) :
    (fld x lo n / 2 ^ i % 2 == 1) = x.getLsbD (lo + i) := by
  have e : (fld x lo n).testBit i = x.getLsbD (lo + i) := by
    unfold fld
    rw [Nat.testBit_mod_two_pow, Nat.testBit_div_two_pow]
    simp [h, BitVec.getLsbD, Nat.add_comm]
  rw [← e, Nat.testBit_eq_decide_div_mod_eq]
  rfl

@[simp] theorem SqReg.ack_seq (w : BitVec 16) (k : Nat) (q : SqReg) : (q.ack w k).seq = q.seq := rfl

/-- A write-back clears the bits that the mask names and whose tag is not newer than w, and no other (R38). -/
theorem SqReg.mem_ack_tags (w : BitVec 16) (x : Word) (q : SqReg) (i : Nat) (g : BitVec 16) (hi : i < 16) :
    (i, g) ∈ (q.ack w (fld x 0 16)).tags ↔ (i, g) ∈ q.tags ∧ ¬ (x.getLsbD i = true ∧ (w - g).toNat < 0x8000) := by
  unfold SqReg.ack
  rw [List.mem_filter, fld_bit x 0 16 hi, Nat.zero_add]
  simp only [← Bool.not_eq_true, Bool.not_eq_true', Bool.and_eq_true, decide_eq_true_eq]

/-- A write of an SQ register, by how far its sequence lies behind SEQ (R38, R40). -/
theorem sqWrite_stale {w : Who} {a : Nat} {v : Word} {s : State}
    (h : 0x4000 ≤ ((s.sq a).seq - (v >>> 16).setWidth 16).toNat) : sqWrite w a v s = logAcc w 3 true 4 a s := by
  unfold sqWrite SqReg.stale
  rw [if_pos (decide_eq_true h)]

theorem sqWrite_fresh {w : Who} {a : Nat} {v : Word} {s : State}
    (h : ((s.sq a).seq - (v >>> 16).setWidth 16).toNat < 0x4000) :
    sqWrite w a v s = s.setSq a ((s.sq a).ack ((v >>> 16).setWidth 16) (fld v 0 16)) := by
  unfold sqWrite SqReg.stale
  rw [if_neg (by rw [decide_eq_true_eq]; omega)]

/-- The written sequence is the same in the value and in its low word. -/
theorem setWidth_high_half (v : BitVec 64) :
    ((v.setWidth 32 >>> 16).setWidth 16 : BitVec 16) = (v >>> 16).setWidth 16 := by
  ext i hi
  simp [BitVec.getElem_setWidth, BitVec.getLsbD_setWidth]
  omega

/-- Settles O14: the write-back is `SqReg.ack` on the register, or the log of a stale one. -/
theorem writeBacksClearByTag : Obligations.WriteBacksClearByTag := by
  unfold Obligations.WriteBacksClearByTag
  intro s m a v r h hi ho hr hc q w
  have hact : exec (.sqWriteBack m a .word v) s = .next (sqWrite (whoOf s m) a.toNat (v.setWidth 32) s) := by
    show Host.Outcome.next (regAccess m a.toNat .word v s) = _
    rw [regAccess_own s m a.toNat v r h hr hi ho (ne_devReset_of_cls hr (by rw [hc]; decide)), classWrite_sq hc]
  have hw : ((v.setWidth 32 >>> 16).setWidth 16 : BitVec 16) = w := setWidth_high_half v
  refine ⟨fun hlt => ?_, fun hge => ?_⟩
  · rw [sqWrite_fresh (by rw [hw]; exact hlt), hw] at hact
    refine ⟨_, hact, ?_, fun i g hi16 => ?_, fun b hb => ?_, rfl⟩
    · rw [State.sq_setSq, if_pos rfl, SqReg.ack_seq]
    · have hbit : (v.setWidth 32).getLsbD i = v.getLsbD i := by
        rw [BitVec.getLsbD_setWidth, decide_eq_true (by omega), Bool.true_and]
      rw [State.sq_setSq, if_pos rfl, SqReg.mem_ack_tags w _ q i g hi16, hbit]
    · rw [State.sq_setSq, if_neg hb]
  · rw [hact, sqWrite_stale (by rw [hw]; exact hge)]

/-! ### Accesses that the filter drops -/

/-- An unprivileged access to a P register is dropped by the filter (R61). -/
theorem filterOf_unprivileged {w : Who} {a : Nat} {r : RegRow} (wr : Bool) (hreg : regionOf a = .slots)
    (hr : rowAt (wordOf (directOf a)) = some r) (hp : r.priv = true) (hl : w.lvl = .unprivileged) :
    filterOf w wr a = .dropped false := by
  have hwarden : (wr && wardenOnly (wordOf (directOf a)) && Lvl.unprivileged == Lvl.privileged) = false :=
    Bool.and_false _
  simp only [filterOf, hreg, hwarden, hr, hp, hl, if_true, Bool.false_eq_true, if_false]

/-- No master whose accesses are unprivileged is a debug port. -/
theorem debug_unprivileged {s : State} {m : Master} (h : lvlOf s m = .unprivileged) : (whoOf s m).debug = false := by
  cases m with
  | anvil => cases h
  | jtag => cases h
  | warden | cc | dict | hostSpi | dma => rfl

/-- A word write that the filter drops is logged and goes no further, not into crossing 12 either (R61). -/
theorem regAccess_dropped {s : State} {m : Master} {a : Nat} {v : BitVec 64} {sec : Bool} (hreg : regionOf a = .slots)
    (hc : crosses s m a = false) (hpost : (postedOf s false).all (fun p => p.master != m) = true)
    (hf : filterOf (whoOf s m) true a = .dropped sec) :
    regAccess m a .word v s = logPriv (whoOf s m) true sec 4 a s := by
  have haud : (regionOf a).audio = false := by rw [hreg]; rfl
  have hregs : (regionOf a).regs = true := by rw [hreg]; rfl
  have hvia : viaNet (whoOf s m) true a 4 s = false := by
    simp [viaNet, hf]
  unfold regAccess masterWrite writeNow
  simp only [hc, haud, deliverOf_none m false s hpost, widthBytes, hvia, busWrite, hregs, regWrite, hf, Bool.false_eq_true,
    if_false, if_true, show ¬ (4 = 8) by decide, false_and]

/-- A word read that the filter drops answers zero, and only its log is left of it (R61). -/
theorem regFetch_dropped {s : State} {m : Master} {a : Nat} {sec : Bool} (hreg : regionOf a = .slots)
    (hpost : (postedOf s false).all (fun p => p.master != m) = true) (hd : (whoOf s m).debug = false)
    (hf : filterOf (whoOf s m) false a = .dropped sec) :
    regFetch m a .word s = (logPriv (whoOf s m) false sec 4 a s).modBus fun b => { b with answer := some 0#64 } := by
  have haud : (regionOf a).audio = false := by rw [hreg]; rfl
  have hregs : (regionOf a).regs = true := by rw [hreg]; rfl
  have hvia : viaNet (whoOf s m) false a 4 s = false := by
    simp [viaNet, hf]
  have e : readNow m a 4 s = (some 0, logPriv (whoOf s m) false sec 4 a s) := by
    unfold readNow readData
    simp only [haud, deliverOf_none m false s hpost, hvia, eccBad_slots s _ a _ hreg, busRead, busReadAct, hregs, regRead, hf,
      hd, Bool.false_eq_true, if_false, if_true, show ¬ (4 = 8) by decide, false_and]
  unfold regFetch
  rw [show widthBytes .word = 4 from rfl, e]
  rfl

/-- Settles O15: the filter drops both accesses, so each is its log in SYS.PRIVFAULT, and the read's zero. -/
theorem privilegedRegistersTurnAwayOthers : Obligations.PrivilegedRegistersTurnAwayOthers := by
  unfold Obligations.PrivilegedRegistersTurnAwayOthers
  intro s m a r hreg hc hpost hr hp hl
  refine ⟨fun v => ?_, ?_⟩
  · show Host.Outcome.next (regAccess m a.toNat .word v s) = _
    rw [regAccess_dropped hreg hc hpost (filterOf_unprivileged true hreg hr hp hl)]
    rfl
  · show Host.Outcome.next (regFetch m a.toNat .word s) = _
    rw [regFetch_dropped hreg hpost (debug_unprivileged hl) (filterOf_unprivileged false hreg hr hp hl)]
    rfl

/-! ### Buffered writes -/

theorem wbWrite_dma {a : Nat} {v : Word} {s : State} (h : a / 0x10000 % 16 = 11) :
    wbWrite a v s = chStaged ((a % 0x10000 - 0x100) / 0x40) (setPending a v s) := by
  unfold wbWrite
  exact if_pos h

theorem wbWrite_other {a : Nat} {v : Word} {s : State} (h : a / 0x10000 % 16 ≠ 11) : wbWrite a v s = setPending a v s := by
  unfold wbWrite
  exact if_neg h

/-- A buffered write holds nothing in reset and stops no clock. -/
@[simp] theorem heldAt_setPending (a b : Nat) (v : Word) (s : State) : heldAt (setPending a v s) b = heldAt s b := rfl

@[simp] theorem netDown_setPending (a b : Nat) (v : Word) (s : State) : netDown (setPending a v s) b = netDown s b := rfl

@[simp] theorem tget_setPending (a : Nat) (v : Word) (s : State) : tget none (setPending a v s).wbPend a = some v :=
  tget_tset_self none (some v) s.wbPend a

/-- Settles O16: the write is put in the shadow, and the shadow window shows what waits there. -/
theorem bufferedWritesWaitInTheShadow : Obligations.BufferedWritesWaitInTheShadow := by
  unfold Obligations.BufferedWritesWaitInTheShadow
  intro s m a v r h hi ho hr hc
  have hnd := (reaches_net h).2
  obtain ⟨-, hal, -, -, -, hh⟩ := reaches_clear h
  have hact : exec (.wbWrite m a .word v) s
      = .next (wbWrite a.toNat (v.setWidth 32 &&& BitVec.ofNat 32 r.mask) s) := by
    show Host.Outcome.next (regAccess m a.toNat .word v s) = _
    rw [regAccess_own s m a.toNat v r h hr hi ho (ne_devReset_of_cls hr (by rw [hc]; decide)), classWrite_wb hc]
    rfl
  refine ⟨fun hdma => ?_, fun hdma => ?_, fun hf => regRead_shadow hi ho hal hh hnd hr hc hf⟩
  · rw [hact, wbWrite_dma hdma]
    rfl
  · rw [wbWrite_other hdma] at hact
    refine ⟨_, hact, rfl, rfl, fun hf => ?_⟩
    rw [regRead_shadow hi ho hal (by simpa using hh) (by simpa using hnd) hr hc hf, tget_setPending, Option.getD_some]

/-! ### Reads that clear -/

/-- A read of an RC register that is no receive FIFO puts the register back to its reset value (R35): the FIFOs of the CAN
controllers are read-only registers, so their rows are of another class. -/
theorem readEffect_rc {a : Nat} {r : RegRow} {s : State} (hr : rowAt a = some r) (hc : r.cls = .rc)
    (hx : [0x400F040C, 0x400F044C, 0x400F070C, 0x400F074C].contains a = false) :
    readEffect a r s = s.wr a (BitVec.ofNat 32 r.reset) := by
  have hcan : ∀ b, (rowAt b).map (·.cls) = some .ro → a ≠ b := by
    rintro b e rfl
    rw [hr, Option.map_some, hc] at e
    cases e
  have h0 := hcan 0x400F12A4 (by decide)
  have h1 := hcan 0x400F16A4 (by decide)
  unfold readEffect
  split
  case h_5 => exact absurd rfl h0
  case h_6 => exact absurd rfl h1
  case h_7 => rw [if_pos hc]
  all_goals cases hx

theorem debug_iff (s : State) (m : Master) : (whoOf s m).debug = true ↔ m = .anvil ∨ m = .jtag := by
  simp [Who.debug, whoOf]

/-- Settles O19: the answer is the register's view in both cases; a debug read leaves out the effect. -/
theorem readsClearWhatTheyReturn : Obligations.ReadsClearWhatTheyReturn := by
  unfold Obligations.ReadsClearWhatTheyReturn
  intro s m a r h hi ho hr hc hx
  have hni := (reaches_net h).1
  obtain ⟨hreg, -, -, hpost, -, -⟩ := reaches_clear h
  have e := regRead_reaches s m a.toNat r h (by rw [directOf_own hi]; exact hr) (by rw [directOf_own hi]; exact ho)
    (aliasOf_own hi)
  rw [directOf_own hi, readEffect_rc hr hc hx] at e
  have hact : exec (.clearOnRead m a .word) s = .next ((if (whoOf s m).debug then s
      else s.wr a.toNat (BitVec.ofNat 32 r.reset)).modBus fun b =>
        { b with answer := some ((slotView a.toNat r s).setWidth 64) }) := by
    show Host.Outcome.next (regFetch m a.toNat .word s) = _
    rw [regFetch_slots' s m a.toNat .word hreg hpost hni (by decide), show widthBytes .word = 4 from rfl, e]
    simp only [Option.map_some, BitVec.ofNat_toNat]
  refine ⟨_, rfl, fun hanvil hjtag => ?_, fun hdbg => ?_⟩
  · rw [hact, if_neg (by rw [debug_iff]; exact not_or.mpr ⟨hanvil, hjtag⟩)]
  · rw [hact, if_pos ((debug_iff s m).mpr hdbg)]

end Sys2Proof.Machine
end

section
/-! The strike of the sample engine (chapter 5): which cores it begins again, and what it leaves of them. -/

namespace Sys2Proof.Machine
open Sys2Proof

/-! ### One core's strike -/

/-- Core `n` as its program begins again: R144's registers, and R375's frame counts of its armed edge entries. -/
def restarted (s : State) (n : Nat) : SampleCore :=
  { s.sc n with
    r := { CoreRegs.zero with
      pc := BitVec.ofNat 32 (scBase n + (if (s.sc n).pbank then 0x6000 else 0)),
      spU := s.rd (Reg.coreSp n) &&& 0xFFFFFFFC#32, page := s.rd (Reg.corePage n) &&& 0xFFFFFFFC#32 },
    slot := 0, ended := none, depth := 0, cause := 0, crucAt := none, edges := edgesNext (s.sc n).edges }

/-- How a core begins again depends on its own state and on the registers only. -/
theorem restarted_congr {s t : State} {n : Nat} (hsc : t.sc n = s.sc n) (hregs : t.regs = s.regs) :
    restarted t n = restarted s n := by
  simp only [restarted, State.rd, hsc, hregs]

theorem coreStrike_of_runs {d : Dom} {n : Nat} {s : State} (h : (s.sc n).dom = d ∧ (s.sc n).runs = true) :
    coreStrike d n s = s.setSc n (restarted s n) := if_pos h

theorem coreStrike_of_not_runs {d : Dom} {n : Nat} {s : State} (h : ¬ ((s.sc n).dom = d ∧ (s.sc n).runs = true)) :
    coreStrike d n s = s := if_neg h

@[simp] theorem coreStrike_regs (d : Dom) (n : Nat) (s : State) : (coreStrike d n s).regs = s.regs := by
  by_cases h : (s.sc n).dom = d ∧ (s.sc n).runs = true
  · rw [coreStrike_of_runs h, State.setSc_regs]
  · rw [coreStrike_of_not_runs h]

@[simp] theorem coreStrike_mem (d : Dom) (n : Nat) (s : State) : (coreStrike d n s).mem = s.mem := by
  by_cases h : (s.sc n).dom = d ∧ (s.sc n).runs = true
  · rw [coreStrike_of_runs h, State.setSc_mem]
  · rw [coreStrike_of_not_runs h]

theorem coreStrike_sc_self (d : Dom) (n : Nat) (s : State) :
    (coreStrike d n s).sc n = if (s.sc n).dom = d ∧ (s.sc n).runs = true then restarted s n else s.sc n := by
  by_cases h : (s.sc n).dom = d ∧ (s.sc n).runs = true
  · rw [coreStrike_of_runs h, State.sc_setSc, if_pos rfl, if_pos h]
  · rw [coreStrike_of_not_runs h, if_neg h]

theorem coreStrike_sc_ne (d : Dom) {j n : Nat} (s : State) (hj : j ≠ n) : (coreStrike d n s).sc j = s.sc j := by
  by_cases h : (s.sc n).dom = d ∧ (s.sc n).runs = true
  · rw [coreStrike_of_runs h, State.sc_setSc, if_neg hj]
  · rw [coreStrike_of_not_runs h]

/-! ### The strike of the first `k` cores, and of all -/

theorem strikeFirst_regs (d : Dom) (k : Nat) (s : State) :
    ((List.range k).foldl (fun s n => coreStrike d n s) s).regs = s.regs :=
  List.foldlRecOn (motive := fun t => t.regs = s.regs) (List.range k) _ rfl
    fun t ht n _ => (coreStrike_regs d n t).trans ht

theorem strikeFirst_mem (d : Dom) (k : Nat) (s : State) :
    ((List.range k).foldl (fun s n => coreStrike d n s) s).mem = s.mem :=
  List.foldlRecOn (motive := fun t => t.mem = s.mem) (List.range k) _ rfl
    fun t ht n _ => (coreStrike_mem d n t).trans ht

/-- Each core is struck once, from the state the strike found it in: the strikes of the cores before it change neither its
own state nor the registers. -/
theorem strikeFirst_sc (d : Dom) (k j : Nat) (s : State) :
    ((List.range k).foldl (fun s n => coreStrike d n s) s).sc j
      = if j < k ∧ (s.sc j).dom = d ∧ (s.sc j).runs = true then restarted s j else s.sc j := by
  induction k with
  | zero => rw [if_neg fun h => Nat.not_lt_zero j h.1]; rfl
  | succ k ih =>
    rw [List.range_succ, List.foldl_append, List.foldl_cons, List.foldl_nil]
    by_cases hj : j = k
    · subst hj
      have hbefore := ih.trans (if_neg fun h => Nat.lt_irrefl j h.1)
      rw [coreStrike_sc_self, restarted_congr hbefore (strikeFirst_regs d j s), hbefore]
      simp only [Nat.lt_succ_self, true_and]
    · have hlt : j < k + 1 ↔ j < k := by omega
      rw [coreStrike_sc_ne d _ hj, ih]
      simp only [hlt]

/-- What a strike of a domain leaves of a core: a running core of the domain begins again, any other is as it was. -/
theorem strikeCores_sc (d : Dom) (j : Nat) (s : State) :
    (strikeCores d s).sc j
      = if j < 16 ∧ (s.sc j).dom = d ∧ (s.sc j).runs = true then restarted s j else s.sc j :=
  strikeFirst_sc d 16 j s

@[simp] theorem strikeCores_mem (d : Dom) (s : State) : (strikeCores d s).mem = s.mem := strikeFirst_mem d 16 s

/-- Settles O9, by the strike's one equation for a core: its first branch is the core begun again, its second the core
left as it was. -/
theorem strikeRestartsRunningCores : Obligations.StrikeRestartsRunningCores := by
  unfold Obligations.StrikeRestartsRunningCores
  refine ⟨fun s d n hn hd hr => ?_, fun s d n hout => ?_, fun s d => strikeCores_mem d s⟩
  · rw [strikeCores_sc, if_pos ⟨hn, hd, hr⟩]
    rfl
  · rw [strikeCores_sc, if_neg]
    rintro ⟨-, hd, hr⟩
    rcases hout with hd' | hr'
    · exact hd' hd
    · rw [hr] at hr'
      cases hr'

end Sys2Proof.Machine
end

section
/-! Interrupt entry (chapter 7): which source a control core takes at an interruption point, and what stands still or
gives way to the entry. -/

namespace Sys2Proof.Machine
open Sys2Proof

/-! ### The source that a core takes -/

/-- The first number of a range that `f` answers, where none below it is answered. -/
theorem findSome?_range_first {α : Type} {f : Nat → Option α} {n j : Nat} {b : α} (hj : j < n) (hf : f j = some b)
    (hbelow : ∀ i < j, f i = none) : (List.range n).findSome? f = some b := by
  induction n with
  | zero => omega
  | succ n ih =>
    rw [List.range_succ, List.findSome?_append]
    by_cases h : j = n
    · subst h
      have hnone : (List.range j).findSome? f = none :=
        List.findSome?_eq_none_iff.mpr fun i hi => hbelow i (List.mem_range.mp hi)
      simp [hnone, hf]
    · rw [ih (by omega)]
      rfl

/-- How many interrupt sources a control-class core has: the Warden 16, a control core 256. -/
def sourceCount (k : Nat) : Nat := if k = 4 then 16 else 256

/-- A source that core `k` may take at level `l`: pending, enabled and routed to it at a level below its bound (R245). -/
def Takeable (s : State) (k l src : Nat) : Prop :=
  l < 8 ∧ l < levelBound s k ∧ src < sourceCount k ∧ sourceLevel s k src = some l

/-- What the search finds at one level. -/
def takenAt (s : State) (k l : Nat) : Option (Nat × Nat) :=
  if l < levelBound s k then
    ((List.range (sourceCount k)).find? fun src => sourceLevel s k src == some l).map fun src => (l, src)
  else none

theorem takenSource_eq_findSome (s : State) (k : Nat) : takenSource s k = (List.range 8).findSome? (takenAt s k) := rfl

theorem takenAt_eq_none_iff {s : State} {k l : Nat} (hl : l < 8) : takenAt s k l = none ↔ ∀ src, ¬ Takeable s k l src := by
  unfold takenAt Takeable
  by_cases hb : l < levelBound s k
  · simp [hb, hl]
  · simp [hb]

/-- At its level, a core takes the source of the lowest number. -/
theorem takenAt_eq_some {s : State} {k l src : Nat} (h : Takeable s k l src) (hmin : ∀ o, Takeable s k l o → src ≤ o) :
    takenAt s k l = some (l, src) := by
  have htake : ∀ o, o < sourceCount k → sourceLevel s k o = some l → src ≤ o :=
    fun o hn ho => hmin o ⟨h.1, h.2.1, hn, ho⟩
  obtain ⟨-, hb, hn, hlvl⟩ := h
  have hfind : (List.range (sourceCount k)).find? (fun o => sourceLevel s k o == some l) = some src := by
    rw [List.find?_range_eq_some]
    refine ⟨by simp [hlvl], List.mem_range.mpr hn, fun o ho => ?_⟩
    have hne : sourceLevel s k o ≠ some l := fun e => absurd (htake o (ho.trans hn) e) (by omega)
    simp [hne]
  rw [takenAt, if_pos hb, hfind]
  rfl

/-- A core takes the lowest level, and at equal level the lowest number (R245). -/
theorem takenSource_eq_some {s : State} {k l src : Nat} (h : Takeable s k l src)
    (hmin : ∀ l' o, Takeable s k l' o → l < l' ∨ l = l' ∧ src ≤ o) : takenSource s k = some (l, src) := by
  have hl := h.1
  rw [takenSource_eq_findSome]
  refine findSome?_range_first hl (takenAt_eq_some h fun o ho => ?_) fun i hi => ?_
  · rcases hmin l o ho with hlt | ⟨-, hle⟩
    · exact absurd hlt (Nat.lt_irrefl l)
    · exact hle
  · rw [takenAt_eq_none_iff (hi.trans hl)]
    intro o ho
    rcases hmin i o ho with hlt | ⟨rfl, -⟩ <;> omega

theorem takenSource_eq_none_iff {s : State} {k : Nat} : takenSource s k = none ↔ ∀ l src, ¬ Takeable s k l src := by
  rw [takenSource_eq_findSome, List.findSome?_eq_none_iff]
  refine ⟨fun h l src ht => ?_, fun h l hl => ?_⟩
  · exact (takenAt_eq_none_iff ht.1).mp (h l (List.mem_range.mpr ht.1)) src ht
  · exact (takenAt_eq_none_iff (List.mem_range.mp hl)).mpr (h l)

/-! ### A control core's sources -/

theorem sourceLevel_cc {s : State} {k src l : Nat} (hk : k < 4) :
    sourceLevel s k src = some l ↔ (s.rd (0x40001000 + 4 * src)).getLsbD 0 = true ∧
      fld (s.rd (0x40001000 + 4 * src)) 8 3 = k ∧ intPending s src = true ∧ fld (s.rd (0x40001000 + 4 * src)) 4 3 = l := by
  unfold sourceLevel
  rw [if_neg (by omega)]
  simp only [Option.ite_none_right_eq_some, Bool.and_eq_true, beq_iff_eq, Option.some.injEq, and_assoc]

theorem lt_levelBound_cc {s : State} {k l : Nat} (hk : k < 4) :
    l < levelBound s k ↔ l < (s.ctlCore k).runlvl ∧ l < 8 ∧ l < s.rdf (0x40001504 + 16 * k) 0 4 := by
  unfold levelBound
  simp only [if_neg (show k ≠ 4 by omega), lt_min_iff]

/-- R245's conditions on a source of a control core, at the level that its configuration gives. -/
theorem takeable_cc {s : State} {k l src : Nat} (hk : k < 4) :
    Takeable s k l src ↔ (src < 256 ∧ intPending s src = true ∧ (s.rd (0x40001000 + 4 * src)).getLsbD 0 = true ∧
      (s.rd (0x40001000 + 4 * src)).toNat / 256 % 8 = k ∧
      (s.rd (0x40001000 + 4 * src)).toNat / 16 % 8 < (s.ctlCore k).runlvl ∧
      (s.rd (0x40001000 + 4 * src)).toNat / 16 % 8 < (s.rd (0x40001504 + 16 * k)).toNat % 16) ∧
      (s.rd (0x40001000 + 4 * src)).toNat / 16 % 8 = l := by
  have hlevel : (s.rd (0x40001000 + 4 * src)).toNat / 16 % 8 < 8 := Nat.mod_lt _ (by decide)
  have hthresh : s.rdf (0x40001504 + 16 * k) 0 4 = (s.rd (0x40001504 + 16 * k)).toNat % 16 := by
    simp [State.rdf, fld]
  have hcount : sourceCount k = 256 := if_neg (by omega)
  unfold Takeable
  rw [sourceLevel_cc hk, lt_levelBound_cc hk, hthresh, hcount]
  simp only [fld, Nat.reducePow]
  constructor
  · rintro ⟨-, ⟨hrun, -, hth⟩, hn, hen, hroute, hpend, rfl⟩
    exact ⟨⟨hn, hpend, hen, hroute, hrun, hth⟩, rfl⟩
  · rintro ⟨⟨hn, hpend, hen, hroute, hrun, hth⟩, rfl⟩
    exact ⟨hlevel, ⟨hrun, hlevel, hth⟩, hn, hen, hroute, hpend, rfl⟩

/-! ### Interrupt entry as a command, and instructions before it -/

theorem interruptDue_atPoint {n : Fin 4} {s : State} (hp : atPoint (.cc n) s = true) :
    interruptDue (.cc n) s = if (s.ctlCore n.val).r.psw.getLsbD 29 then takenSource s n.val else none := by
  unfold interruptDue
  rw [hp]
  rfl

theorem exec_interruptEntry_of_due {c : CoreId} {s : State} {l src : Nat} (h : interruptDue c s = some (l, src)) :
    exec (.interruptEntry c) s = .next (takeInterrupt c l src ((regsOf c s).rpti.getD (regsOf c s).pc) s) := by
  show Host.Outcome.next (interruptEntry c s) = _
  rw [interruptEntry, h]

theorem exec_interruptEntry_of_none {c : CoreId} {s : State} (h : interruptDue c s = none) :
    exec (.interruptEntry c) s = .next s := by
  show Host.Outcome.next (interruptEntry c s) = _
  rw [interruptEntry, h]

/-- An Atward command runs its instruction on its core. -/
theorem exec_atward (c : CoreId) (op : AOp) (e : Enc) (cc : Fin 16) (k : Nat) (s : State) :
    ∃ cc' k', exec (atward c op e cc k) s = .next (coreRun c op e cc' k' s) := by
  cases op <;> exact ⟨_, _, rfl⟩

theorem atPoint_of_due {c : CoreId} {s : State} (h : (interruptDue c s).isSome = true) : atPoint c s = true := by
  unfold interruptDue at h
  split at h
  · next hc =>
    simp only [Bool.and_eq_true] at hc
    exact hc.1.2
  · cases h

theorem run_of_atPoint {c : CoreId} {s : State} (h : atPoint c s = true) : (s.ctlCore (ctlIndex c)).st = .run := by
  simp only [atPoint, Bool.and_eq_true, beq_iff_eq] at h
  obtain ⟨⟨⟨⟨hst, -⟩, -⟩, -⟩, -⟩ := h
  exact hst

/-- An instruction that meets an interrupt that is due gives way to its entry (R245, R254). -/
theorem ctlRun_of_due {c : CoreId} {i : AInstr} {k : Nat} {s : State} (h : (interruptDue c s).isSome = true) :
    ctlRun c i k s = interruptEntry c s := by
  unfold ctlRun
  dsimp only
  rw [if_neg fun hne => hne (run_of_atPoint (atPoint_of_due h)), if_pos h]

/-- Settles O31: the model's search over levels and then numbers picks the eligible source that nothing precedes, and finds
none only where none is eligible. -/
theorem interruptsTakeTheLowestLevel : Obligations.InterruptsTakeTheLowestLevel := by
  unfold Obligations.InterruptsTakeTheLowestLevel
  intro n s x cfg level eligible hpoint
  have hdue := interruptDue_atPoint hpoint
  have htake : ∀ l src, Takeable s n.val l src ↔ eligible src ∧ level src = l := fun l src => takeable_cc n.isLt
  refine ⟨fun src hI hsrc hmin => ?_, fun hnone => ?_, fun src op e cc k hI hsrc => ?_⟩
  · rw [if_pos hI, takenSource_eq_some ((htake _ _).mpr ⟨hsrc, rfl⟩) fun l o ho => ?_] at hdue
    · exact exec_interruptEntry_of_due hdue
    · obtain ⟨helig, rfl⟩ := (htake _ _).mp ho
      exact hmin o helig
  · refine exec_interruptEntry_of_none (hdue.trans ?_)
    rcases hnone with hI | hnot
    · rw [if_neg (by rw [hI]; decide)]
    · rw [takenSource_eq_none_iff.mpr fun l src h => hnot src ((htake l src).mp h).1, ite_self]
  · have hsome : (interruptDue (.cc n) s).isSome = true := by
      rw [hdue, if_pos hI, Option.isSome_iff_ne_none, Ne, takenSource_eq_none_iff]
      exact fun h => h _ src ((htake _ src).mpr ⟨hsrc, rfl⟩)
    obtain ⟨cc', k', hrun⟩ := exec_atward (.cc n) op e cc k s
    exact hrun.trans (congrArg _ (ctlRun_of_due hsome))

end Sys2Proof.Machine
end

section
/-! Entry to a vector on a control core (chapter 7): the frame that it pushes into the Hearth, and the word of the table that
it continues at. -/

namespace Sys2Proof.Machine
open Sys2Proof

/-! ### Accesses to the Hearth -/

theorem regionOf_hearth {a : Nat} (hlo : 0x20000000 ≤ a) (hhi : a < 0x20200000) : regionOf a = .hearth := by
  unfold regionOf
  rw [if_neg (by omega), if_neg (by omega), if_pos ⟨hlo, hhi⟩]

theorem filterOf_hearth {a : Nat} (w : Who) (wr : Bool) (h : regionOf a = .hearth) : filterOf w wr a = .pass := by
  simp only [filterOf, h]

theorem heldAt_hearth {a : Nat} {s : State} (h : regionOf a = .hearth) (hrel : released s 0 = true) :
    heldAt s a = false := by
  simp only [heldAt, h, hrel, Bool.not_true]

theorem busWrite_hearth {w : Who} {a n v : Nat} {s : State} (h : regionOf a = .hearth) (hal : a % n = 0)
    (hrel : released s 0 = true) : busWrite w a n v s = (true, s.mwr a n v) := by
  unfold busWrite
  rw [filterOf_hearth w true h, heldAt_hearth h hrel]
  simp [memoryWrite, h, hal, Region.regs]

/-- A master with nothing posted towards the control fabric writes the Hearth at once. -/
theorem writeNow_hearth {m : Master} {a n v : Nat} {s : State} (h : regionOf a = .hearth) (hal : a % n = 0)
    (hrel : released s 0 = true) (hpost : (postedOf s false).all (fun p => p.master != m) = true) :
    writeNow m a n v s = (true, s.mwr a n v) := by
  have hidle : netIdle s a := fun hslots => by rw [h] at hslots; cases hslots
  have haudio : (regionOf a).audio = false := by rw [h]; rfl
  rw [writeNow_idle s m a n v hidle (by rw [haudio]; exact hpost), busWrite_hearth h hal hrel]

theorem cacheable_cc_hearth (n : Fin 4) {a : Nat} (h : regionOf a = .hearth) : cacheable (.cc n) a = true := by
  rw [cacheable, h]
  rfl

/-- A write mends the words it touches and spoils none. -/
theorem eccHit_mwr {s : State} (b m v : Nat) {a n : Nat} (h : (eccHit s a n).2 = false) :
    (eccHit (s.mwr b m v) a n).2 = false := by
  simp only [eccHit, List.any_eq_false, List.mem_filter] at h ⊢
  exact fun x hx => h x ⟨List.mem_of_mem_filter hx.1, hx.2⟩

/-! ### The data cache -/

/-- Core `k` does not hold a line in its data cache. -/
def lineCold (k line : Nat) (s : State) : Prop := tget [] (s.ctlCore k).dcache line = []

@[simp] theorem cacheWrite_mem (k a n v : Nat) (s : State) : (cacheWrite k a n v s).mem = s.mem := by
  unfold cacheWrite; dsimp only; split <;> rfl

@[simp] theorem cacheWrite_ecc (k a n v : Nat) (s : State) : (cacheWrite k a n v s).ecc = s.ecc := by
  unfold cacheWrite; dsimp only; split <;> rfl

@[simp] theorem cacheWrite_ward (k a n v : Nat) (s : State) : (cacheWrite k a n v s).ward = s.ward := by
  unfold cacheWrite; dsimp only; split <;> rfl

@[simp] theorem cacheWrite_bus (k a n v : Nat) (s : State) : (cacheWrite k a n v s).bus = s.bus := by
  unfold cacheWrite; dsimp only; split <;> rfl

/-- A write through the data cache changes nothing of its core but lines that the cache holds. -/
theorem cacheWrite_core (k a n v : Nat) (s : State) :
    ∃ d, (cacheWrite k a n v s).ctlCore k = { s.ctlCore k with dcache := d } ∧
      ∀ line, lineCold k line s → tget [] d line = [] := by
  unfold cacheWrite
  dsimp only
  split
  · exact ⟨_, rfl, fun _ h => h⟩
  · next hheld =>
    refine ⟨_, by rw [State.ctlCore_setCtl, if_pos rfl], fun line h => ?_⟩
    rw [tget_tset_ne]
    · exact h
    · rintro rfl
      exact hheld h

/-- A word of the Hearth that the data cache does not hold, and that has no ECC error, is read from memory, and its line
enters the cache. -/
theorem entryRead_hearth_cold {n : Fin 4} {a : Nat} {s : State} (hlo : 0x20000000 ≤ a) (hhi : a + 4 ≤ 0x20200000)
    (hal : a % 4 = 0) (hrel : released s 0 = true) (hcold : lineCold n.val (a / 32) s) (hecc : (eccHit s a 4).2 = false) :
    ∃ d, entryRead (.cc n) a s = (some (s.mrd a 4), s.setCtl n.val { s.ctlCore n.val with dcache := d }) := by
  have hreg : regionOf a = .hearth := regionOf_hearth hlo (by omega)
  have hline : regionOf (32 * (a / 32)) = .hearth := regionOf_hearth (by omega) (by omega)
  have hword : ((regionBytes s (32 * (a / 32)) 32).drop (a % 32)).take 4 = memBytes s.mem a 4 := by
    rw [regionBytes, hline, if_neg (by decide), memBytes_drop _ _ _ _ (by omega), memBytes_take _ _ _ _ (by omega),
      Nat.div_add_mod]
  have hread : cacheRead n.val a 4 s = ((s.mrd a 4, false), s.setCtl n.val { s.ctlCore n.val with
      dcache := tset [] (s.ctlCore n.val).dcache (a / 32) (regionBytes s (32 * (a / 32)) 32) }) := by
    unfold cacheRead
    simp only [show tget [] (s.ctlCore n.val).dcache (a / 32) = [] from hcold, if_true, hreg, reduceCtorEq, if_false, hecc,
      hword, State.mrd]
  have hentry : entryRead (.cc n) a s = (if (cacheRead n.val a 4 s).1.2 then none else some (cacheRead n.val a 4 s).1.1,
      (cacheRead n.val a 4 s).2) := by
    unfold entryRead
    rw [cacheable_cc_hearth n hreg, filterOf_hearth _ _ hreg, heldAt_hearth hreg hrel, decide_eq_true hal]
    rfl
  rw [hread] at hentry
  exact ⟨_, hentry⟩

/-! ### The frame on the privileged stack -/

@[simp] theorem ctlCore_setRegs_cc (n : Fin 4) (r : CoreRegs) (s : State) :
    (setRegs (.cc n) r s).ctlCore n.val = { s.ctlCore n.val with r := r } :=
  (State.ctlCore_setCtl _ _ _ _).trans (if_pos rfl)

theorem toNat_sub_ofNat {x : Word} {m : Nat} (h : m ≤ x.toNat) : (x - BitVec.ofNat 32 m).toNat = x.toNat - m := by
  have hx := x.isLt
  rw [BitVec.toNat_sub, BitVec.toNat_ofNat]
  omega

theorem sub_ofNat_eq_ofNat {x : Word} {m : Nat} (h : m ≤ x.toNat) :
    x - BitVec.ofNat 32 m = BitVec.ofNat 32 (x.toNat - m) := by
  rw [← toNat_sub_ofNat h, BitVec.ofNat_toNat, BitVec.setWidth_eq]

/-- Core `n` stands on its privileged stack, with room for `k` words in the Hearth and no write of its own on its way. -/
structure StackRoom (n : Fin 4) (k : Nat) (s : State) : Prop where
  priv : (s.ctlCore n.val).r.psw.getLsbD 30 = true
  room : 0x20000000 + 4 * k ≤ (s.ctlCore n.val).r.spP.toNat
  top : (s.ctlCore n.val).r.spP.toNat ≤ 0x20200000
  aligned : (s.ctlCore n.val).r.spP.toNat % 4 = 0
  rel : released s 0 = true
  quiet : (postedOf s false).all (fun p => p.master != .cc n) = true

/-- State `t` is state `s` after core `k` pushed the words `ws`, the first of them first: of the core, its stack pointer and
lines that its data cache held have changed, and of memory the frame alone. -/
structure Pushed (k : Nat) (ws : List Word) (s t : State) : Prop where
  core : t.ctlCore k = { s.ctlCore k with
    r := { (s.ctlCore k).r with spP := (s.ctlCore k).r.spP - BitVec.ofNat 32 (4 * ws.length) }
    dcache := (t.ctlCore k).dcache }
  cold : ∀ line, lineCold k line s → lineCold k line t
  words : ∀ i v, ws[i]? = some v → t.mrd ((s.ctlCore k).r.spP.toNat - 4 * (i + 1)) 4 = v.toNat
  frame : ∀ a, a < (s.ctlCore k).r.spP.toNat - 4 * ws.length ∨ (s.ctlCore k).r.spP.toNat ≤ a →
    memGet t.mem a = memGet s.mem a
  ecc : ∀ a m, (eccHit s a m).2 = false → (eccHit t a m).2 = false
  ward : t.ward = s.ward
  bus : t.bus = s.bus

theorem Pushed.nil (k : Nat) (s : State) : Pushed k [] s s where
  core := by simp
  cold _ h := h
  words i v h := by simp at h
  frame _ _ := rfl
  ecc _ _ h := h
  ward := rfl
  bus := rfl

theorem Pushed.spP {k : Nat} {ws : List Word} {s t : State} (h : Pushed k ws s t)
    (hroom : 4 * ws.length ≤ (s.ctlCore k).r.spP.toNat) :
    (t.ctlCore k).r.spP.toNat = (s.ctlCore k).r.spP.toNat - 4 * ws.length := by
  rw [h.core]
  exact toNat_sub_ofNat hroom

theorem Pushed.cons {k : Nat} {v : Word} {ws : List Word} {s t u : State} (h1 : Pushed k [v] s t) (h2 : Pushed k ws t u)
    (hroom : 4 * (ws.length + 1) ≤ (s.ctlCore k).r.spP.toNat) : Pushed k (v :: ws) s u := by
  have hsp : (t.ctlCore k).r.spP.toNat = (s.ctlCore k).r.spP.toNat - 4 := h1.spP (by simp only [List.length_singleton]; omega)
  refine ⟨?_, fun line h => h2.cold line (h1.cold line h), fun i w hi => ?_, fun a ha => ?_, fun a m h => h2.ecc a m (h1.ecc a m h),
    h2.ward.trans h1.ward, h2.bus.trans h1.bus⟩
  · have hlen : 4 * [v].length + 4 * ws.length = 4 * (v :: ws).length := by
      simp only [List.length_cons, List.length_nil]
      omega
    rw [← hlen, BitVec.ofNat_add, ← BitVec.sub_sub]
    refine h2.core.trans ?_
    rw [h1.core]
  · cases i with
    | zero =>
      have hv : v = w := by simpa using hi
      subst hv
      rw [← h1.words 0 v rfl]
      exact State.mrd_congr _ _ _ _ fun j hj _ => h2.frame j (by omega)
    | succ i =>
      rw [← h2.words i w (by simpa using hi), hsp]
      congr 1
      omega
  · simp only [List.length_cons] at ha
    rw [h2.frame a (by omega), h1.frame a (by simp only [List.length_singleton]; omega)]

theorem StackRoom.pushed {n : Fin 4} {k : Nat} {v : Word} {s t : State} (h : StackRoom n (k + 1) s)
    (hp : Pushed n.val [v] s t) : StackRoom n k t := by
  obtain ⟨hpriv, hroom, htop, hal, hrel, hquiet⟩ := h
  have hsp : (t.ctlCore n.val).r.spP.toNat = (s.ctlCore n.val).r.spP.toNat - 4 :=
    hp.spP (by simp only [List.length_singleton]; omega)
  refine ⟨by rw [hp.core]; exact hpriv, by omega, by omega, by omega, ?_, ?_⟩
  · rw [released, hp.ward]
    exact hrel
  · rw [postedOf, hp.bus]
    exact hquiet

/-- Core `n` after entry pushed one word onto its privileged stack. -/
def entryPushed (n : Fin 4) (v : Word) (s : State) : State :=
  let r := (s.ctlCore n.val).r
  cacheWrite n.val (r.spP.toNat - 4) 4 v.toNat
    ((setRegs (.cc n) { r with spP := r.spP - 4#32 } s).mwr (r.spP.toNat - 4) 4 v.toNat)

theorem entryPush_hearth {n : Fin 4} (v : Word) {s : State} (h : StackRoom n 1 s) :
    entryPush (.cc n) v (true, s) = (true, entryPushed n v s) := by
  obtain ⟨hpriv, hroom, htop, hal, hrel, hquiet⟩ := h
  set r := (s.ctlCore n.val).r with hr
  have hsp : (r.spP - 4#32).toNat = r.spP.toNat - 4 := toNat_sub_ofNat (by omega)
  have hreg : regionOf (r.spP.toNat - 4) = .hearth := regionOf_hearth (by omega) (by omega)
  have hwrite : writeNow (.cc n) (r.spP.toNat - 4) 4 v.toNat (setRegs (.cc n) { r with spP := r.spP - 4#32 } s)
      = (true, (setRegs (.cc n) { r with spP := r.spP - 4#32 } s).mwr (r.spP.toNat - 4) 4 v.toNat) :=
    writeNow_hearth hreg (by omega) hrel hquiet
  have hon : onSpP (.cc n) r = true := hpriv
  unfold entryPush
  simp only [if_true, show regsOf (.cc n) s = r from rfl, curSP, setCurSP, hon, hsp, coreMaster, hwrite,
    cacheable_cc_hearth n hreg, Bool.and_self, ctlIndex, entryPushed, ← hr]

theorem pushed_entryPushed {n : Fin 4} (v : Word) {s : State} (hroom : 4 ≤ (s.ctlCore n.val).r.spP.toNat) :
    Pushed n.val [v] s (entryPushed n v s) := by
  set r := (s.ctlCore n.val).r with hr
  set w := (setRegs (.cc n) { r with spP := r.spP - 4#32 } s).mwr (r.spP.toNat - 4) 4 v.toNat
  have hcore : w.ctlCore n.val = { s.ctlCore n.val with r := { r with spP := r.spP - 4#32 } } := ctlCore_setRegs_cc n _ s
  obtain ⟨d, hd, hcold⟩ := cacheWrite_core n.val (r.spP.toNat - 4) 4 v.toNat w
  change Pushed n.val [v] s (cacheWrite n.val (r.spP.toNat - 4) 4 v.toNat w)
  refine ⟨?_, fun line hl => ?_, fun i x hi => ?_, fun a ha => ?_, fun a m he => ?_, ?_, ?_⟩
  · rw [hd, hcore]
    rfl
  · rw [lineCold, hd]
    exact hcold line (by rw [lineCold, hcore]; exact hl)
  · obtain ⟨rfl, rfl⟩ : i = 0 ∧ v = x := by
      cases i with
      | zero => exact ⟨rfl, by simpa using hi⟩
      | succ i => simp at hi
    rw [State.mrd, cacheWrite_mem]
    exact (State.mrd_mwr _ _ _ _).trans (Nat.mod_eq_of_lt v.isLt)
  · rw [cacheWrite_mem]
    rw [← hr, List.length_singleton] at ha
    rcases ha with hlt | hge
    · exact State.memGet_mwr_lt _ _ _ _ _ hlt
    · exact State.memGet_mwr_ge _ _ _ _ _ (by omega)
  · rw [eccHit, cacheWrite_ecc]
    exact eccHit_mwr _ _ _ he
  · rw [cacheWrite_ward]
    rfl
  · rw [cacheWrite_bus]
    rfl

/-- A frame is pushed where the stack has room for it. -/
theorem foldl_entryPush_hearth {n : Fin 4} (ws : List Word) {s : State} (h : StackRoom n ws.length s) :
    ∃ t, ws.foldl (fun x v => entryPush (.cc n) v x) (true, s) = (true, t) ∧ Pushed n.val ws s t := by
  induction ws generalizing s with
  | nil => exact ⟨s, rfl, Pushed.nil _ _⟩
  | cons v ws ih =>
    have hroom := h.room
    simp only [List.length_cons] at hroom
    have hp : Pushed n.val [v] s (entryPushed n v s) := pushed_entryPushed v (by omega)
    obtain ⟨u, hu, hpu⟩ := ih (h.pushed hp)
    exact ⟨u, by rw [List.foldl_cons, entryPush_hearth v { h with room := by omega }, hu], hp.cons hpu (by omega)⟩

/-! ### What entry does around its frame -/

/-- The words that entry pushes, the first of them first (R251). -/
def entryFrame (r : CoreRegs) (pc : Word) (interrupt : Bool) : List Word :=
  (if r.psw.getLsbD 28 then [r.bcnt, r.bdst, r.bsrc] else [])
    ++ [(pc &&& 0xFFFFFFFE#32) ||| (if interrupt then 1#32 else 0#32), r.psw]

/-- Entry begins: no SKP.cc, RPT or RPTI governs what follows, and PSW.PRIV is 1. -/
def entryBegun (n : Fin 4) (s : State) : State :=
  setRegs (.cc n) { noPrefix (s.ctlCore n.val).r with psw := wsetBit (s.ctlCore n.val).r.psw 30 true } s

/-- The frame is pushed: PSW.BA is 0, and XCAUSE and XADDR hold what entry records. -/
def entryCause (n : Fin 4) (cause : Word) (xaddr : Option Word) (s : State) : State :=
  setRegs (.cc n) { (s.ctlCore n.val).r with
    psw := wsetBit (s.ctlCore n.val).r.psw 28 false, xcause := cause, xaddr := xaddr.getD (s.ctlCore n.val).r.xaddr } s

/-- What an interrupt leaves in ACTIVE, RUNLVL and LAST_VEC; an exception leaves them. -/
def levelNoted (vec : Nat) (irq : Option (Nat × Nat)) (x : CtlCore) : CtlCore :=
  match irq with
  | some (l, _) => { x with active := x.active ||| BitVec.ofNat 8 (2 ^ l), runlvl := l, lastVec := vec }
  | none => x

/-- An interrupt is noted: its level in the core, and the latch of a pulse source is cleared. -/
def irqNoted (n : Fin 4) (vec : Nat) (irq : Option (Nat × Nat)) (s : State) : State :=
  match irq with
  | some (l, src) =>
    let t := s.setCtl n.val (levelNoted vec (some (l, src)) (s.ctlCore n.val))
    if isPulseSource src then unlatch src t else t
  | none => s

theorem irqNoted_some (n : Fin 4) (vec l src : Nat) (s : State) :
    irqNoted n vec (some (l, src)) s =
      if isPulseSource src then unlatch src (s.setCtl n.val (levelNoted vec (some (l, src)) (s.ctlCore n.val)))
      else s.setCtl n.val (levelNoted vec (some (l, src)) (s.ctlCore n.val)) := rfl

@[simp] theorem levelNoted_r (vec : Nat) (irq : Option (Nat × Nat)) (x : CtlCore) : (levelNoted vec irq x).r = x.r := by
  cases irq <;> rfl

@[simp] theorem levelNoted_dcache (vec : Nat) (irq : Option (Nat × Nat)) (x : CtlCore) :
    (levelNoted vec irq x).dcache = x.dcache := by
  cases irq <;> rfl

/-- Noting an interrupt touches a core and the latches, no store that entry reads. -/
theorem irqNoted_stores (n : Fin 4) (vec : Nat) (irq : Option (Nat × Nat)) (s : State) :
    (irqNoted n vec irq s).mem = s.mem ∧ (irqNoted n vec irq s).ecc = s.ecc ∧ (irqNoted n vec irq s).ward = s.ward := by
  cases irq with
  | none => exact ⟨rfl, rfl, rfl⟩
  | some x =>
    rw [irqNoted_some]
    split <;> exact ⟨rfl, rfl, rfl⟩

@[simp] theorem ctlCore_unlatch (src k : Nat) (s : State) : (unlatch src s).ctlCore k = s.ctlCore k := rfl

theorem irqNoted_core (n : Fin 4) (vec : Nat) (irq : Option (Nat × Nat)) (s : State) :
    (irqNoted n vec irq s).ctlCore n.val = levelNoted vec irq (s.ctlCore n.val) := by
  cases irq with
  | none => rfl
  | some x =>
    rw [irqNoted_some]
    split
    · rw [ctlCore_unlatch, State.ctlCore_setCtl, if_pos rfl]
    · rw [State.ctlCore_setCtl, if_pos rfl]

theorem bit_unlatch (src : Nat) (s : State) : (unlatch src s).bit (intPendAddr (src / 32)) (src % 32) = false := by
  rw [unlatch, State.wrb, State.bit, State.rd_wr, if_pos rfl, getLsbD_wsetBit _ _ _ _ (Nat.mod_lt _ (by decide)), if_pos rfl]

theorem irqNoted_latch {n : Fin 4} {vec l src : Nat} {s : State} (h : isPulseSource src = true) :
    (irqNoted n vec (some (l, src)) s).bit (intPendAddr (src / 32)) (src % 32) = false := by
  rw [irqNoted_some, if_pos h, bit_unlatch]

/-- Entry whose frame is pushed and whose vector word is read, even, continues at that word (R251). -/
theorem enter_of_pushed {n : Fin 4} {vec : Nat} {cause pc : Word} {xaddr : Option Word} {irq : Option (Nat × Nat)}
    {s t u : State} {h va : Nat}
    (hpush : (entryFrame (s.ctlCore n.val).r pc irq.isSome).foldl (fun x v => entryPush (.cc n) v x) (true, entryBegun n s)
      = (true, t))
    (hva : va = ((irqNoted n vec irq (entryCause n cause xaddr t)).ctlCore n.val).r.vbase.toNat + 4 * vec)
    (hread : entryRead (.cc n) va (irqNoted n vec irq (entryCause n cause xaddr t)) = (some h, u))
    (heven : h % 2 = 0) :
    enter (.cc n) vec cause xaddr pc irq s = setRegs (.cc n) (goTo (BitVec.ofNat 32 h) (u.ctlCore n.val).r) u := by
  unfold enter
  extract_lets k r old s1 frame p r2 s2 x s3 v
  have hk : k ≠ 4 := by
    show n.val ≠ 4
    omega
  have hs1 : s1 = entryBegun n s := by
    show setRegs (.cc n) { r with psw := if k = 4 then old else wsetBit old 30 true } s = _
    rw [if_neg hk]
    rfl
  have hp : p = (true, t) := by
    rw [← hpush, ← hs1]
    rfl
  have hs2 : s2 = entryCause n cause xaddr t := by
    show entryCause n cause xaddr p.2 = _
    rw [hp]
  have hs3 : s3 = irqNoted n vec irq (entryCause n cause xaddr t) := by
    rw [← hs2]
    unfold s3
    cases irq with
    | none => rfl
    | some x => exact if_neg hk
  have hv : v = (some h, u) := by
    rw [← hread, hva, ← hs3]
    rfl
  rw [if_neg (by rw [hp]; exact Bool.false_ne_true), hv]
  dsimp only
  rw [if_neg (by omega)]
  rfl

/-- The words of the frame, the first pushed first. -/
theorem entryFrame_block {r : CoreRegs} (pc : Word) (b : Bool) (h : r.psw.getLsbD 28 = true) :
    entryFrame r pc b
      = [r.bcnt, r.bdst, r.bsrc, (pc &&& 0xFFFFFFFE#32) ||| (if b then 1#32 else 0#32), r.psw] := by
  rw [entryFrame, if_pos h]
  rfl

theorem entryFrame_plain {r : CoreRegs} (pc : Word) (b : Bool) (h : r.psw.getLsbD 28 = false) :
    entryFrame r pc b = [(pc &&& 0xFFFFFFFE#32) ||| (if b then 1#32 else 0#32), r.psw] := by
  rw [entryFrame, h, if_neg Bool.false_ne_true]
  rfl

theorem length_entryFrame (r : CoreRegs) (pc : Word) (b : Bool) :
    4 * (entryFrame r pc b).length = if r.psw.getLsbD 28 then 20 else 8 := by
  unfold entryFrame
  split <;> rfl

theorem core_entryBegun (n : Fin 4) (s : State) : (entryBegun n s).ctlCore n.val = { s.ctlCore n.val with
    r := { noPrefix (s.ctlCore n.val).r with psw := wsetBit (s.ctlCore n.val).r.psw 30 true } } :=
  ctlCore_setRegs_cc n _ s

/-- What entry has done to its core before it reads the vector word. -/
theorem core_irqNoted_entryCause {n : Fin 4} (vec : Nat) {cause : Word} {xaddr : Option Word} (irq : Option (Nat × Nat))
    {ws : List Word} {s t : State} (h : Pushed n.val ws (entryBegun n s) t) :
    (irqNoted n vec irq (entryCause n cause xaddr t)).ctlCore n.val = levelNoted vec irq { s.ctlCore n.val with
      r := { noPrefix (s.ctlCore n.val).r with
        psw := wsetBit (wsetBit (s.ctlCore n.val).r.psw 30 true) 28 false
        spP := (s.ctlCore n.val).r.spP - BitVec.ofNat 32 (4 * ws.length)
        xcause := cause
        xaddr := xaddr.getD (s.ctlCore n.val).r.xaddr }
      dcache := (t.ctlCore n.val).dcache } := by
  rw [irqNoted_core, entryCause, ctlCore_setRegs_cc, h.core, core_entryBegun]
  rfl

/-- Entry finds the room that the privileged stack has. -/
theorem stackRoom_entryBegun {n : Fin 4} {k : Nat} {s : State}
    (hroom : 0x20000000 + 4 * k ≤ (s.ctlCore n.val).r.spP.toNat) (htop : (s.ctlCore n.val).r.spP.toNat ≤ 0x20200000)
    (hal : (s.ctlCore n.val).r.spP.toNat % 4 = 0) (hrel : released s 0 = true)
    (hquiet : (postedOf s false).all (fun p => p.master != .cc n) = true) : StackRoom n k (entryBegun n s) := by
  have hsp : ((entryBegun n s).ctlCore n.val).r.spP = (s.ctlCore n.val).r.spP := by
    rw [core_entryBegun]
    rfl
  refine ⟨?_, by rw [hsp]; exact hroom, by rw [hsp]; exact htop, by rw [hsp]; exact hal, hrel, hquiet⟩
  rw [core_entryBegun]
  exact (getLsbD_wsetBit _ _ _ _ (by decide)).trans (if_pos rfl)

/-- Entry continues at the word of the table, whose line the data cache has taken. -/
def entryEnd (n : Fin 4) (h : Nat) (d : Table (List Byte)) (s : State) : State :=
  setRegs (.cc n) (goTo (BitVec.ofNat 32 h) (s.ctlCore n.val).r) (s.setCtl n.val { s.ctlCore n.val with dcache := d })

@[simp] theorem entryEnd_mem (n : Fin 4) (h : Nat) (d : Table (List Byte)) (s : State) : (entryEnd n h d s).mem = s.mem := rfl

@[simp] theorem entryEnd_bit (n : Fin 4) (h : Nat) (d : Table (List Byte)) (s : State) (a i : Nat) :
    (entryEnd n h d s).bit a i = s.bit a i := rfl

theorem core_entryEnd (n : Fin 4) (h : Nat) (d : Table (List Byte)) (s : State) :
    (entryEnd n h d s).ctlCore n.val = { s.ctlCore n.val with
      r := goTo (BitVec.ofNat 32 h) (s.ctlCore n.val).r, dcache := d } := by
  rw [entryEnd, ctlCore_setRegs_cc, State.ctlCore_setCtl, if_pos rfl]

/-- Entry as a whole, where the frame has room in the Hearth and the vector word lies there outside of it, even and free of
ECC errors (R251): the frame is pushed, what entry records is noted, and the core continues at the word as it stood. -/
theorem enter_hearth {n : Fin 4} {vec : Nat} (cause pc : Word) (xaddr : Option Word) (irq : Option (Nat × Nat)) {s : State}
    {va : Nat} (hva : va = (s.ctlCore n.val).r.vbase.toNat + 4 * vec)
    (hstack : StackRoom n (entryFrame (s.ctlCore n.val).r pc irq.isSome).length (entryBegun n s))
    (hlo : 0x20000000 ≤ va) (hhi : va + 4 ≤ 0x20200000) (hal : va % 4 = 0)
    (hout : va + 4 ≤ (s.ctlCore n.val).r.spP.toNat - 4 * (entryFrame (s.ctlCore n.val).r pc irq.isSome).length
      ∨ (s.ctlCore n.val).r.spP.toNat ≤ va)
    (hcold : lineCold n.val (va / 32) s) (heven : s.mrd va 4 % 2 = 0) (hecc : (eccHit s va 4).2 = false) :
    ∃ p d, Pushed n.val (entryFrame (s.ctlCore n.val).r pc irq.isSome) (entryBegun n s) p ∧
      enter (.cc n) vec cause xaddr pc irq s
        = entryEnd n (s.mrd va 4) d (irqNoted n vec irq (entryCause n cause xaddr p)) := by
  obtain ⟨p, hpush, hp⟩ := foldl_entryPush_hearth _ hstack
  obtain ⟨hmem, heccs, hward⟩ := irqNoted_stores n vec irq (entryCause n cause xaddr p)
  have hcore := core_irqNoted_entryCause (cause := cause) (xaddr := xaddr) vec irq hp
  set e := irqNoted n vec irq (entryCause n cause xaddr p)
  have hsp : ((entryBegun n s).ctlCore n.val).r.spP = (s.ctlCore n.val).r.spP := by
    rw [core_entryBegun]
    rfl
  have hword : e.mrd va 4 = s.mrd va 4 := by
    refine State.mrd_congr _ _ _ _ fun j hj hj' => ?_
    rw [hmem]
    exact hp.frame j (by rw [hsp]; omega)
  have hvbase : (e.ctlCore n.val).r.vbase = (s.ctlCore n.val).r.vbase := by
    rw [hcore, levelNoted_r]
    rfl
  have hrel : released e 0 = true := by
    rw [released, hward]
    exact (congrArg (fun w => w.release.getLsbD 0) hp.ward).trans hstack.rel
  have hcold' : lineCold n.val (va / 32) e := by
    rw [lineCold, hcore, levelNoted_dcache]
    exact hp.cold _ (by rw [lineCold, core_entryBegun]; exact hcold)
  have hecc' : (eccHit e va 4).2 = false := by
    rw [eccHit, heccs]
    exact hp.ecc va 4 hecc
  obtain ⟨d, hread⟩ := entryRead_hearth_cold hlo hhi hal hrel hcold' hecc'
  rw [hword] at hread
  refine ⟨p, d, hp, (enter_of_pushed hpush (by rw [hvbase]; exact hva) hread heven).trans ?_⟩
  rw [State.ctlCore_setCtl, if_pos rfl]
  rfl

/-- Settles O30: the frame is pushed word by word onto a stack with room for it, the vector word lies outside the frame and is
read as it stood, and nothing between the two touches the memory. -/
theorem entryPushesTheFrame : Obligations.EntryPushesTheFrame := by
  unfold Obligations.EntryPushesTheFrame
  intro n vec cause pc xaddr irq s r ba len sp va t hroom htop hal hrel hquiet hvlo hvhi hval hout hcold heven hecc
  have hlen : 4 * (entryFrame r pc irq.isSome).length = len := length_entryFrame r pc irq.isSome
  obtain ⟨p, d, hp, ht⟩ := enter_hearth (va := va) cause pc xaddr irq rfl
    (stackRoom_entryBegun (by rw [hlen]; exact hroom) htop hal hrel hquiet) hvlo hvhi hval (by rw [hlen]; exact hout) hcold
    heven hecc
  have hsp0 : ((entryBegun n s).ctlCore n.val).r.spP = r.spP := by
    rw [core_entryBegun]
    rfl
  have htmem : t.mem = p.mem := by
    rw [show t = _ from ht, entryEnd_mem]
    exact (irqNoted_stores n vec irq _).1
  have htcore : t.ctlCore n.val = _ := (congrArg (fun x => x.ctlCore n.val) ht).trans (core_entryEnd _ _ _ _)
  rw [core_irqNoted_entryCause vec irq hp, levelNoted_r, hlen] at htcore
  have hword : ∀ a i v, a = r.spP.toNat - 4 * (i + 1) → (entryFrame r pc irq.isSome)[i]? = some v → t.mrd a 4 = v.toNat := by
    rintro _ i v rfl hv
    rw [State.mrd, htmem, ← hsp0]
    exact hp.words i v hv
  refine ⟨?_, ?_, ?_, fun hba => ?_, fun a ha => ?_, fun l src hirq => ?_, fun hirq => ?_⟩
  · rw [htcore, sub_ofNat_eq_ofNat (Nat.le_trans (Nat.le_add_left _ _) hroom)]
    rfl
  · cases hba : ba with
    | true => exact hword _ 4 _ (by simp [sp, len, hba]) (by rw [entryFrame_block _ _ hba]; rfl)
    | false => exact hword _ 1 _ (by simp [sp, len, hba]) (by rw [entryFrame_plain _ _ hba]; rfl)
  · cases hba : ba with
    | true => exact hword _ 3 _ (by simp [sp, len, hba]; omega) (by rw [entryFrame_block _ _ hba]; rfl)
    | false => exact hword _ 0 _ (by simp [sp, len, hba]; omega) (by rw [entryFrame_plain _ _ hba]; rfl)
  · have hsp : sp = r.spP.toNat - 20 := by simp [sp, len, hba]
    rw [entryFrame_block _ _ hba] at hword
    exact ⟨hword _ 2 _ (by omega) rfl, hword _ 1 _ (by omega) rfl, hword _ 0 _ (by omega) rfl⟩
  · rw [htmem]
    exact hp.frame a (by rw [hsp0, hlen]; exact ha)
  · subst hirq
    rw [htcore]
    refine ⟨rfl, rfl, rfl, fun hpulse => ?_⟩
    rw [show t = _ from ht, entryEnd_bit]
    exact irqNoted_latch hpulse
  · subst hirq
    rw [htcore]
    exact ⟨rfl, rfl, rfl⟩

end Sys2Proof.Machine
end

section
/-! Addition and subtraction (chapter 9): their results and flags in terms of signed and unsigned numbers, and the
instructions that leave them. -/

namespace Sys2Proof.Machine
open Sys2Proof

/-! ### Signed numbers of a width as bit vectors -/

theorem sval_eq_toInt (w a : Nat) : sval w a = (BitVec.ofNat w a).toInt := by
  have hhalf : a % 2 ^ w < 2 ^ (w - 1) ↔ 2 * (a % 2 ^ w) < 2 ^ w := by
    cases w with
    | zero => simp [Nat.mod_one]
    | succ w => simp only [Nat.add_sub_cancel, Nat.pow_succ]; omega
  simp only [sval, BitVec.toInt_eq_toNat_cond, BitVec.toNat_ofNat, hhalf]

theorem sval_mod (w a : Nat) : sval w (a % 2 ^ w) = sval w a := by
  simp only [sval, Nat.mod_mod]

/-- A signed number fits where wrapping it into the width leaves it as it is. -/
theorem fits_eq {w : Nat} (hw : 0 < w) (i : Int) : fits w i = decide (i.bmod (2 ^ w) = i) := by
  rw [← BitVec.toInt_ofInt]
  refine decide_eq_decide.mpr ⟨fun ⟨hlo, hhi⟩ => ?_, fun h => ?_⟩
  · exact BitVec.toInt_ofInt_eq_self hw (by exact_mod_cast hlo) (by exact_mod_cast hhi)
  · have hlo := BitVec.le_toInt (BitVec.ofInt w i)
    have hhi := BitVec.toInt_lt (x := BitVec.ofInt w i)
    rw [h] at hlo hhi
    exact_mod_cast And.intro hlo hhi

theorem not_fits_add {w : Nat} (hw : 0 < w) (a b : Nat) :
    (!fits w (sval w a + sval w b))
      = decide ((BitVec.ofNat w a + BitVec.ofNat w b).toInt ≠ (BitVec.ofNat w a).toInt + (BitVec.ofNat w b).toInt) := by
  rw [fits_eq hw, BitVec.toInt_add, sval_eq_toInt, sval_eq_toInt, decide_not]

theorem not_fits_sub {w : Nat} (hw : 0 < w) (a b : Nat) :
    (!fits w (sval w a - sval w b))
      = decide ((BitVec.ofNat w a - BitVec.ofNat w b).toInt ≠ (BitVec.ofNat w a).toInt - (BitVec.ofNat w b).toInt) := by
  rw [fits_eq hw, BitVec.toInt_sub, sval_eq_toInt, sval_eq_toInt, decide_not]

/-! ### The flags of R294 -/

/-- PSW `new` holds R294's flags for a result `r` at width `w`, with carry or borrow `c`, overflow `v` and nibble carries
`nc`; its other bits are those of `old`. -/
def ArithBits (w r : Nat) (c v : Bool) (nc : Nat → Bool) (old new : Word) : Prop :=
  new.getLsbD 1 = c ∧ new.getLsbD 0 = v ∧ new.getLsbD 3 = decide (2 ^ (w - 1) ≤ r) ∧ new.getLsbD 2 = decide (r = 0) ∧
  (∀ k, k < 8 → new.getLsbD (16 + k) = (decide (k < w / 4) && nc k)) ∧ new.getLsbD 4 = new.getLsbD 16 ∧
  (∀ j, 5 ≤ j → ¬ (16 ≤ j ∧ j < 24) → new.getLsbD j = old.getLsbD j)

/-- PSW as ADD and SUB leave it, bit by bit. -/
theorem getLsbD_arithPsw (p : Word) (w r nc j : Nat) (c v : Bool) :
    (setNCH (setCV (setNZ p w r) c v) nc).getLsbD j =
      if j = 4 then nc.testBit 0 else if 16 ≤ j ∧ j < 24 then nc.testBit (j - 16) else if j = 0 then v else if j = 1 then c
      else if j = 2 then decide (r % 2 ^ w = 0) else if j = 3 then decide (2 ^ (w - 1) ≤ r % 2 ^ w) else p.getLsbD j := by
  simp [setNCH, setCV, setNZ, pswH, pswV, pswC, pswZ, pswN, Nat.testBit_zero]

theorem arithBits_arithPsw {w r : Nat} (hr : r < 2 ^ w) (c v : Bool) (nc : Nat → Bool) (p : Word) :
    ArithBits w r c v nc p (setNCH (setCV (setNZ p w r) c v) (ncMask (w / 4) nc)) := by
  simp only [ArithBits, getLsbD_arithPsw, Nat.mod_eq_of_lt hr]
  refine ⟨rfl, rfl, rfl, rfl, fun k hk => ?_, rfl, fun j hj hout => ?_⟩
  · rw [if_neg (by omega), if_pos (by omega), Nat.add_sub_cancel_left, testBit_ncMask]
  · rw [if_neg hout]
    simp only [show j ≠ 4 ∧ j ≠ 0 ∧ j ≠ 1 ∧ j ≠ 2 ∧ j ≠ 3 by omega, if_false]

/-! ### Sum and difference -/

/-- `o` is the sum of `a` and `b` at width `w` and the PSW that it leaves of `p` (R294). -/
def IsSum (w a b : Nat) (p : Word) (o : Nat × Word) : Prop :=
  o.1 = (a % 2 ^ w + b % 2 ^ w) % 2 ^ w ∧
  ArithBits w o.1 (decide (2 ^ w ≤ a % 2 ^ w + b % 2 ^ w))
    (decide ((BitVec.ofNat w o.1).toInt ≠ (BitVec.ofNat w a).toInt + (BitVec.ofNat w b).toInt))
    (fun k => decide (16 ^ (k + 1) ≤ a % 2 ^ w % 16 ^ (k + 1) + b % 2 ^ w % 16 ^ (k + 1))) p o.2

/-- `o` is the difference of `a` and `b` at width `w` and the PSW that it leaves of `p` (R294). -/
def IsDifference (w a b : Nat) (p : Word) (o : Nat × Word) : Prop :=
  (o.1 : Int) = ((a % 2 ^ w : Nat) - (b % 2 ^ w : Nat) : Int) % ((2 ^ w : Nat) : Int) ∧
  ArithBits w o.1 (decide (a % 2 ^ w < b % 2 ^ w))
    (decide ((BitVec.ofNat w o.1).toInt ≠ (BitVec.ofNat w a).toInt - (BitVec.ofNat w b).toInt))
    (fun k => decide (a % 2 ^ w % 16 ^ (k + 1) < b % 2 ^ w % 16 ^ (k + 1))) p o.2

theorem ofNat_aluAdd (w a b : Nat) (p : Word) :
    BitVec.ofNat w (aluAdd w a b p).1 = BitVec.ofNat w a + BitVec.ofNat w b := by
  apply BitVec.eq_of_toNat_eq
  simp [aluAdd]

theorem isSum_aluAdd {w : Nat} (hw : 0 < w) (a b : Nat) (p : Word) : IsSum w a b p (aluAdd w a b p) := by
  refine ⟨rfl, ?_⟩
  rw [ofNat_aluAdd, ← not_fits_add hw, ← sval_mod w a, ← sval_mod w b]
  exact arithBits_arithPsw (Nat.mod_lt _ (Nat.two_pow_pos w)) ..

theorem ofNat_aluSub (w a b : Nat) (p : Word) :
    BitVec.ofNat w (aluSub w a b p).1 = BitVec.ofNat w a - BitVec.ofNat w b := by
  have hb := Nat.mod_lt b (Nat.two_pow_pos w)
  apply BitVec.eq_of_toNat_eq
  simp only [aluSub, BitVec.toNat_sub, BitVec.toNat_ofNat, Nat.mod_mod]
  congr 1
  omega

theorem aluSub_result (w a b : Nat) (p : Word) :
    ((aluSub w a b p).1 : Int) = ((a % 2 ^ w : Nat) - (b % 2 ^ w : Nat) : Int) % ((2 ^ w : Nat) : Int) := by
  have hb := Nat.mod_lt b (Nat.two_pow_pos w)
  calc ((aluSub w a b p).1 : Int)
      = ((a % 2 ^ w + 2 ^ w - b % 2 ^ w : Nat) : Int) % ((2 ^ w : Nat) : Int) := rfl
    _ = (((a % 2 ^ w : Nat) - (b % 2 ^ w : Nat) : Int) + ((2 ^ w : Nat) : Int)) % ((2 ^ w : Nat) : Int) := by
        congr 1
        omega
    _ = _ := Int.add_emod_right ..

theorem isDifference_aluSub {w : Nat} (hw : 0 < w) (a b : Nat) (p : Word) : IsDifference w a b p (aluSub w a b p) := by
  refine ⟨aluSub_result w a b p, ?_⟩
  rw [ofNat_aluSub, ← not_fits_sub hw, ← sval_mod w a, ← sval_mod w b]
  exact arithBits_arithPsw (Nat.mod_lt _ (Nat.two_pow_pos w)) ..

/-! ### An instruction that writes, takes its flags and goes on -/

/-- Where an instruction stands once its writes are made and its registers go on to `nx` with PSW `p`. -/
def wentOn (c : CoreId) (nx p : Word) (w : RunSt) : RunSt := { w with s := setRegs c (goOn nx p (regsOf c w.s)) w.s }

theorem andThen_ok {α β : Type} {m : Run α} {x y : RunSt} {a : α} (f : α → Run β) (h : m x = .ok a y) :
    andThen m f x = f a y := by
  rw [andThen, h]

theorem complete_goOn {c : CoreId} {ops : List Opd} {res : List CoreWrite} {y w : RunSt} (nx p : Word)
    (h : writeAll c ((ops.flatMap fun o => o.ups) ++ res) y = .ok () w) :
    complete c ops res (goOn nx p) y = .ok () (wentOn c nx p w) :=
  andThen_ok _ h

theorem flatMap_ups_pair (a b : Opd) : ([a, b].flatMap fun o => o.ups) = a.ups ++ b.ups := by
  simp

section
variable {c : CoreId} {e : Enc} {a b : Opd} {x0 x y w : RunSt} (nx : Word)

/-- The two-operand form: a ← a op b. -/
theorem opRmw_near {f : Alu2} (hform : (e.long && e.shape == 5) = false)
    (ha : rwOperand c 1 (szBytes e.sz) e.a x0 = .ok a x) (hb : readOperand c 2 (szBytes e.sz) e.b x = .ok b y)
    (hw : writeAll c (a.ups ++ b.ups ++ resultTo a (szBytes e.sz)
      (f (8 * szBytes e.sz) a.val b.val (regsOf c y.s).psw).1) y = .ok () w) :
    opRmw f c e nx x0 = .ok () (wentOn c nx (f (8 * szBytes e.sz) a.val b.val (regsOf c y.s).psw).2 w) := by
  rw [← flatMap_ups_pair] at hw
  rw [opRmw, if_neg (by rw [hform]; decide), andThen_ok _ ha, andThen_ok _ hb]
  exact complete_goOn _ _ hw

theorem opCompare_ok {f : Alu2} (ha : readOperand c 1 (szBytes e.sz) e.a x0 = .ok a x)
    (hb : readOperand c 2 (szBytes e.sz) e.b x = .ok b y) (hw : writeAll c (a.ups ++ b.ups) y = .ok () w) :
    opCompare f c e nx x0 = .ok () (wentOn c nx (f (8 * szBytes e.sz) a.val b.val (regsOf c y.s).psw).2 w) := by
  rw [← flatMap_ups_pair, ← List.append_nil (List.flatMap _ _)] at hw
  rw [opCompare, andThen_ok _ ha, andThen_ok _ hb]
  exact complete_goOn _ _ hw

theorem opUnary_ok {f : Alu1} (ha : destOperand c 1 (szBytes e.sz) e.a x0 = .ok a x)
    (hb : readOperand c 2 (szBytes e.sz) e.b x = .ok b y)
    (hw : writeAll c (a.ups ++ b.ups ++ resultTo a (szBytes e.sz)
      (f (8 * szBytes e.sz) b.val (regsOf c y.s).psw).1) y = .ok () w) :
    opUnary f c e nx x0 = .ok () (wentOn c nx (f (8 * szBytes e.sz) b.val (regsOf c y.s).psw).2 w) := by
  rw [← flatMap_ups_pair] at hw
  rw [opUnary, andThen_ok _ ha, andThen_ok _ hb]
  exact complete_goOn _ _ hw

end

/-- A ready core whose instruction makes its writes and goes on has run it. -/
theorem exec_wentOn {I : Instr} {c : CoreId} {op : AOp} {e : Enc} {ws : List CoreWrite} {p : Word} {s : State} {y w : RunSt}
    (hI : exec I s = .next (coreRun c op e 0 0 s)) (hplain : plainOp op = true) (hready : coreReady c ⟨op, e, 0⟩ s = true)
    (hw : writeAll c ws y = .ok () w)
    (hbody : opBody c ⟨op, e, 0⟩ (regsOf c s).pc (nextPc ⟨op, e, 0⟩ (regsOf c s).pc) (coreBegin c ⟨op, e, 0⟩ s)
      = .ok () (wentOn c (nextPc ⟨op, e, 0⟩ (regsOf c s).pc) p w)) :
    exec I s = .next (coreEnd c ⟨op, e, 0⟩ (setRegs c { regsOf c w.s with
      pc := nextPc ⟨op, e, 0⟩ (regsOf c s).pc, psw := p } w.s)) :=
  exec_plain c op e 0 0 s (wentOn c _ p w) hI hready hplain (fun hc => writeAll_ecc c ws y w hc hw) hbody

theorem szBits_pos (sz : Sz) : 0 < 8 * szBytes sz := by
  cases sz <;> decide

/-- Settles O25: the functions of ADD and SUB give sum and difference with R294's flags at every width, and each of the four
instructions writes and leaves what its function gives. -/
theorem flagsOfAdditionAndSubtraction : Obligations.FlagsOfAdditionAndSubtraction := by
  unfold Obligations.FlagsOfAdditionAndSubtraction
  intro bits addOk subOk c e s a b x y w n psw done hform hb
  have hpos : 0 < 8 * n := szBits_pos e.sz
  refine ⟨fun hready ha => ?add, fun hready ha => ?sub, fun hready ha => ?cmp, fun hready ha => ?neg⟩
  case add =>
    exact ⟨_, isSum_aluAdd hpos a.val b.val psw, fun hw => exec_wentOn rfl rfl hready hw (opRmw_near _ hform ha hb hw)⟩
  case sub =>
    exact ⟨_, isDifference_aluSub hpos a.val b.val psw,
      fun hw => exec_wentOn rfl rfl hready hw (opRmw_near _ hform ha hb hw)⟩
  case cmp =>
    exact ⟨_, isDifference_aluSub hpos a.val b.val psw,
      fun hw => exec_wentOn rfl rfl hready hw (opCompare_ok _ ha hb hw)⟩
  case neg =>
    exact ⟨_, isDifference_aluSub hpos 0 b.val psw,
      fun hw => exec_wentOn rfl rfl hready hw (opUnary_ok (f := aluNeg) _ ha hb hw)⟩

end Sys2Proof.Machine
end

section
/-! EVACUATE at the mode-change step (chapter 22): what its entry leaves of the modes and of the contacts, and that an
entry cause decides the hinge at which it falls due. -/

namespace Sys2Proof.Machine
open Sys2Proof

/-! ### What the actions of an EVACUATE entry leave as it was: the modes and the local ports, contacts included -/

theorem foldl_modes_ports {α : Type} {f : State → α → State} {l : List α}
    (hf : ∀ t x, (f t x).modes = t.modes ∧ (f t x).ports = t.ports) (s : State) :
    (l.foldl f s).modes = s.modes ∧ (l.foldl f s).ports = s.ports := by
  induction l generalizing s with
  | nil => exact ⟨rfl, rfl⟩
  | cons x l ih => exact ⟨(ih _).1.trans (hf s x).1, (ih _).2.trans (hf s x).2⟩

@[simp] theorem sqSetX_modes_ports (a : Nat) (bits : List Nat) (sev : Option Nat) (extra : Word) (s : State) :
    (sqSetX a bits sev extra s).modes = s.modes ∧ (sqSetX a bits sev extra s).ports = s.ports := by
  by_cases h : bits = []
  · rw [sqSetX, sqSetData, if_pos h]
    exact ⟨rfl, rfl⟩
  · rw [(sqSetX_frame a bits sev extra s h).rest]
    exact ⟨rfl, rfl⟩

@[simp] theorem sqSet_modes_ports (a : Nat) (bits : List Nat) (s : State) :
    (sqSet a bits s).modes = s.modes ∧ (sqSet a bits s).ports = s.ports := by
  simp [sqSet]

@[simp] theorem clearBoth_modes_ports (a n : Nat) (s : State) :
    (clearBoth a n s).modes = s.modes ∧ (clearBoth a n s).ports = s.ports := by
  unfold clearBoth
  split <;> exact ⟨rfl, rfl⟩

@[simp] theorem setRun_modes_ports (n : Nat) (s : State) :
    (setRun n s).modes = s.modes ∧ (setRun n s).ports = s.ports := by
  unfold setRun
  split <;> exact ⟨rfl, rfl⟩

/-! ### The cores that start again -/

theorem eachLane_modes_ports {c : SampleCore} {f : Nat → State → State}
    (hf : ∀ l t, (f l t).modes = t.modes ∧ (f l t).ports = t.ports) (s : State) :
    (eachLane c f s).modes = s.modes ∧ (eachLane c f s).ports = s.ports :=
  foldl_modes_ports (fun t k => hf (0x300 + c.outFirst + k) t) s

@[simp] theorem leaveLanes_modes_ports (n first cnt : Nat) (s : State) :
    (leaveLanes n first cnt s).modes = s.modes ∧ (leaveLanes n first cnt s).ports = s.ports :=
  eachLane_modes_ports (fun l t => by split <;> exact ⟨rfl, rfl⟩) s

@[simp] theorem beginCore_modes_ports (n : Nat) (s : State) :
    (beginCore n s).modes = s.modes ∧ (beginCore n s).ports = s.ports := by
  simp only [beginCore, eachLane_modes_ports, State.setLane_modes, State.setLane_ports, State.modSc_modes,
    State.modSc_ports, leaveLanes_modes_ports, implies_true, and_self]

@[simp] theorem zeroPointers_modes_ports (n : Nat) (s : State) :
    (zeroPointers n s).modes = s.modes ∧ (zeroPointers n s).ports = s.ports :=
  foldl_modes_ports (f := fun t e => t.wr (Reg.lineWord n e 0xC) 0#32) (fun _ _ => ⟨rfl, rfl⟩) s

@[simp] theorem startCore_modes_ports (n : Nat) (s : State) :
    (startCore n s).modes = s.modes ∧ (startCore n s).ports = s.ports := by
  unfold startCore
  dsimp only
  split
  · exact ⟨rfl, rfl⟩
  · split <;> simp [engEvent, clearRun]

@[simp] theorem watchRestart_modes_ports (s : State) :
    (watchRestart s).modes = s.modes ∧ (watchRestart s).ports = s.ports :=
  foldl_modes_ports (fun t n => by split <;> simp) s

/-! ### The plan's actions -/

@[simp] theorem setTarget_modes_ports (o i t : Nat) (s : State) :
    (setTarget o i t s).modes = s.modes ∧ (setTarget o i t s).ports = s.ports := by
  unfold setTarget
  split <;> exact ⟨rfl, rfl⟩

@[simp] theorem applyNode_modes_ports (o i : Nat) (w : Word) (s : State) :
    (applyNode o i w s).modes = s.modes ∧ (applyNode o i w s).ports = s.ports := by
  unfold applyNode
  split <;> simp [weldEvent]

@[simp] theorem planNode_modes_ports (e : Word × Word) (s : State) :
    (planNode e s).modes = s.modes ∧ (planNode e s).ports = s.ports := by
  unfold planNode
  dsimp only
  split <;> simp [msgEvents, nodeRefused, weldEvent]

@[simp] theorem takeClaim_modes_ports (z k level : Nat) (s : State) :
    (takeClaim z k level s).modes = s.modes ∧ (takeClaim z k level s).ports = s.ports := by
  unfold takeClaim
  split
  · split <;> exact ⟨rfl, rfl⟩
  · exact ⟨rfl, rfl⟩

@[simp] theorem applyClaim_modes_ports (r : ClaimReq) (s : State) :
    (applyClaim r s).modes = s.modes ∧ (applyClaim r s).ports = s.ports := by
  unfold applyClaim
  dsimp only
  split
  · simp [weldEvent]
  · split
    · exact takeClaim_modes_ports _ _ _ s
    · exact ⟨rfl, rfl⟩
    · exact ⟨rfl, rfl⟩

@[simp] theorem playerStop_modes_ports (p : Nat) (bits : List Nat) (s : State) :
    (playerStop p bits s).modes = s.modes ∧ (playerStop p bits s).ports = s.ports := by
  simp [playerStop, msgEvents]

theorem opReached_modes_ports {p op : Nat} {k : Word → State → State} {s : State}
    (hk : ∀ w, (k w s).modes = s.modes ∧ (k w s).ports = s.ports) :
    (opReached p op k s).modes = s.modes ∧ (opReached p op k s).ports = s.ports := by
  unfold opReached
  split
  · split
    · exact playerStop_modes_ports p _ s
    · split
      · exact playerStop_modes_ports p _ s
      · split
        · exact hk _
        · exact ⟨rfl, rfl⟩
  · exact ⟨rfl, rfl⟩

@[simp] theorem toneOp_modes_ports (p : Nat) (s : State) :
    (toneOp p s).modes = s.modes ∧ (toneOp p s).ports = s.ports :=
  opReached_modes_ports fun _ => ⟨rfl, rfl⟩

@[simp] theorem planPlayer_modes_ports (e : Word × Word) (s : State) :
    (planPlayer e s).modes = s.modes ∧ (planPlayer e s).ports = s.ports := by
  simp only [planPlayer, toneOp_modes_ports, playerStart, State.setPlayer_modes, State.setPlayer_ports]
  split <;> exact ⟨rfl, rfl⟩

@[simp] theorem planActions_modes_ports (s : State) :
    (planActions s).modes = s.modes ∧ (planActions s).ports = s.ports := by
  simp only [planActions, foldl_modes_ports, planNode_modes_ports, applyClaim_modes_ports, planPlayer_modes_ports,
    implies_true, and_self]

/-! ### The entry itself -/

@[simp] theorem abortPass_modes_ports (s : State) :
    (abortPass s).modes = s.modes ∧ (abortPass s).ports = s.ports := by
  unfold abortPass
  split <;> exact ⟨rfl, rfl⟩

theorem changeMode_modes_ports (m : Mode) (s : State) :
    (changeMode m s).modes = { s.modes with mode := m } ∧ (changeMode m s).ports = s.ports := by
  simp [changeMode, State.modModes]

/-- EVACUATE's entry changes the modes in the mode and its cause alone, and no contact. -/
theorem evacEnter_modes_ports (cause contact : Nat) (s : State) :
    (evacEnter cause contact s).modes
        = { s.modes with mode := .evacuate, evacCause := cause, evacContact := contact } ∧
      (evacEnter cause contact s).ports = s.ports := by
  simp [evacEnter, changeMode_modes_ports, weldEvacEnter, State.modModes]

@[simp] theorem refuseMode_modes_ports (k : Nat) (s : State) :
    (refuseMode k s).modes = s.modes ∧ (refuseMode k s).ports = s.ports := by
  simp [refuseMode]

/-! ### The contacts' transitions, consumed -/

theorem foldl_setContact_contact (g : Contact → Contact) (s : State) (m k : Nat) :
    ((List.range m).foldl (fun s n => s.setContact n (g (s.contact n))) s).contact k
      = if k < m then g (s.contact k) else s.contact k := by
  induction m with
  | zero => rfl
  | succ m ih =>
    rw [List.range_succ, List.foldl_append, List.foldl_cons, List.foldl_nil, State.contact_setContact]
    by_cases hk : k = m
    · subst hk
      simp [ih]
    · have hlt : k < m + 1 ↔ k < m := by omega
      simp [hk, hlt, ih]

theorem foldl_setContact_modes (g : Contact → Contact) (l : List Nat) (s : State) :
    (l.foldl (fun s n => s.setContact n (g (s.contact n))) s).modes = s.modes := by
  induction l generalizing s with
  | nil => rfl
  | cons n l ih => exact (ih _).trans rfl

/-- A contact with its crossed transitions consumed; an ALARM's stands while the part boots (R741). -/
def consumeContact (hold : Bool) (c : Contact) : Contact :=
  { c with alarmDue := hold && c.alarmDue, silenceDue := false }

/-- Do an ALARM's crossed transitions stand until the plan is loaded (R741)? -/
def alarmsHeld (s : State) : Bool := s.modes.booting && !(planLoaded s || decide (9 ≤ s.ward.stage))

theorem consumeContacts_eq (s : State) : consumeContacts s =
    ((List.range 8).foldl (fun t n => t.setContact n (consumeContact (alarmsHeld s) (t.contact n))) s).modModes
      fun m => { m with booting := alarmsHeld s, alarmInSleep := false, request := none } := rfl

@[simp] theorem State.contact_modModes (s : State) (f : Modes → Modes) (n : Nat) :
    (s.modModes f).contact n = s.contact n := rfl

theorem contact_eq_of_ports {s t : State} (h : t.ports = s.ports) (n : Nat) : t.contact n = s.contact n := by
  rw [State.contact, State.contact, h]

theorem consumeContacts_contact (s : State) {n : Nat} (hn : n < 8) :
    (consumeContacts s).contact n = consumeContact (alarmsHeld s) (s.contact n) := by
  rw [consumeContacts_eq, State.contact_modModes, foldl_setContact_contact, if_pos hn]

theorem consumeContacts_mode (s : State) : (consumeContacts s).modes.mode = s.modes.mode := by
  simp only [consumeContacts_eq, State.modModes, foldl_setContact_modes]

theorem consumeContacts_request (s : State) : (consumeContacts s).modes.request = none := by
  simp only [consumeContacts_eq, State.modModes]

/-! ### The step where an entry cause is due -/

theorem anyContact_iff (f : Nat → Bool) : anyContact f = true ↔ ∃ n < 8, f n = true := by
  simp [anyContact, List.any_eq_true]

/-- The autonomy rule (R733). -/
def autonomyHolds (s : State) : Bool := (s.tenant 0).lost && anyContact (alarmStands s)

theorem autonomyHolds_iff (s : State) : autonomyHolds s = true ↔ (s.tenant 0).lost = true ∧
    ∃ n < 8, ctEnabled s n = true ∧ ctFunc s n = 1 ∧ (s.contact n).cls = 1 ∧ (s.contact n).silenced = false := by
  simp [autonomyHolds, anyContact_iff, alarmStands, alarmActive, and_assoc]

/-- The state from which the step changes the mode: the contacts' transitions are consumed, and a SILENCE among them has
its event. -/
def contactsTaken (s : State) : State :=
  let s1 := (consumeContacts s).modModes fun m => { m with autonomy := autonomyHolds s }
  if anyContact fun n => (s.contact n).silenceDue then sqSet Reg.modeEvt [2] s1 else s1

theorem contactsTaken_modes_ports (s : State) :
    (contactsTaken s).modes = { (consumeContacts s).modes with autonomy := autonomyHolds s } ∧
      (contactsTaken s).ports = (consumeContacts s).ports := by
  unfold contactsTaken
  split <;> simp [State.modModes]

/-- `u` is `t`, but for the refusal of a request that fell due at the same hinge. -/
def UpToRefusal (t u : State) : Prop := u = t ∨ ∃ k, u = refuseMode k t

theorem UpToRefusal.modes_ports {t u : State} (h : UpToRefusal t u) : u.modes = t.modes ∧ u.ports = t.ports := by
  obtain rfl | ⟨k, rfl⟩ := h
  · exact ⟨rfl, rfl⟩
  · exact refuseMode_modes_ports k t

/-- In EVACUATE an entry cause keeps the mode, whatever would end it. -/
theorem modeStep_stays {s : State} (hawake : s.modes.sleep = .awake) (hmode : s.modes.mode = .evacuate)
    (hentry : contactEnters s = true ∨ autonomyHolds s = true) : UpToRefusal (contactsTaken s) (modeStep s) := by
  have hcause : (contactEnters s || autonomyHolds s) = true := by simpa using hentry
  unfold autonomyHolds at hcause
  rw [modeStep, if_pos hawake]
  simp only [if_pos hmode, hcause, Bool.not_true, Bool.and_false, Bool.false_eq_true, if_false]
  cases s.modes.request with
  | none => exact .inl rfl
  | some q =>
    dsimp only
    split
    · exact .inl rfl
    · exact .inr ⟨_, rfl⟩

/-- Outside EVACUATE an entry cause enters it, whatever else is due. -/
theorem modeStep_enters {s : State} (hawake : s.modes.sleep = .awake) (hmode : s.modes.mode ≠ .evacuate)
    (hentry : s.modes.request = some (4, true) ∨ contactEnters s = true ∨ autonomyHolds s = true) :
    ∃ cause contact, UpToRefusal (evacEnter cause contact (contactsTaken s)) (modeStep s) := by
  have hcause : (decide (s.modes.request = some (4, true)) || contactEnters s || autonomyHolds s) = true := by
    simpa [or_assoc] using hentry
  unfold autonomyHolds at hcause
  rw [modeStep, if_pos hawake]
  simp only [if_neg hmode, if_pos hcause]
  split
  · exact ⟨_, _, .inl rfl⟩
  · cases s.modes.request with
    | none => exact ⟨_, _, .inl rfl⟩
    | some q => exact ⟨_, _, .inr ⟨_, rfl⟩⟩

/-- An entry cause decides the hinge: EVACUATE holds after it, no request is left, and the contacts are as they stand once
their transitions are consumed. -/
theorem modeStep_of_entry {s : State} (hawake : s.modes.sleep = .awake)
    (hentry : contactEnters s = true ∨ autonomyHolds s = true ∨
      (s.modes.mode ≠ .evacuate ∧ s.modes.request = some (4, true))) :
    (modeStep s).modes.mode = .evacuate ∧ (modeStep s).modes.request = none ∧
      (modeStep s).ports = (consumeContacts s).ports := by
  obtain ⟨htaken, hports⟩ := contactsTaken_modes_ports s
  by_cases hmode : s.modes.mode = .evacuate
  · obtain ⟨hm, hp⟩ := (modeStep_stays hawake hmode (by tauto)).modes_ports
    rw [hm, hp, htaken, hports]
    exact ⟨(consumeContacts_mode s).trans hmode, consumeContacts_request s, rfl⟩
  · obtain ⟨cause, contact, hstep⟩ := modeStep_enters hawake hmode (by tauto)
    obtain ⟨hm, hp⟩ := hstep.modes_ports
    obtain ⟨hem, hep⟩ := evacEnter_modes_ports cause contact (contactsTaken s)
    rw [hm, hp, hem, hep, htaken, hports]
    exact ⟨rfl, consumeContacts_request s, rfl⟩

/-- Settles O53: an entry cause alone decides the mode, and whether an exit cause is due or not, the contacts' silencing
transitions and the request are consumed and the silenced contacts are those of before. -/
theorem evacuateWinsOverItsEnd : Obligations.EvacuateWinsOverItsEnd := by
  unfold Obligations.EvacuateWinsOverItsEnd
  intro s hawake hentry _
  rw [← autonomyHolds_iff] at hentry
  obtain ⟨hmode, hreq, hports⟩ := modeStep_of_entry hawake hentry
  refine ⟨hmode, hreq, fun n hn => ?_⟩
  rw [contact_eq_of_ports hports, consumeContacts_contact s hn]
  exact ⟨rfl, rfl⟩

end Sys2Proof.Machine
end

section
/-! What holds of every command: it answers a next state, which keeps the stores' forms, the queue and the fuse rows
(Laws/Keeps.lean), and what follows for a step and for a run. -/

namespace Sys2Proof.Machine
open Sys2Proof

/-- Every command answers, and keeps what Laws/Keeps.lean says: one meaning's lemma a constructor. -/
theorem exec_follows (c : Instr) (s : State) : Follows s (exec c s) := by
  cases c with
  | strike d inp => exact execStrike_keeps d inp s
  | housekeeping d => exact execHousekeeping_keeps d s
  | hinge => exact execHinge_keeps s
  | familiesStop => exact execFamiliesStop_keeps s
  | coreHalted n => exact execCoreHalted_keeps n s
  | hingeTick lead => exact execHingeTick_keeps lead s
  | holdoverLapse => exact execHoldoverLapse_keeps s
  | bridgeRun n => exact execBridgeRun_keeps n s
  | bridgeStopped n => exact execBridgeStopped_keeps n s
  | patternStep g => exact execPatternStep_keeps g s
  | generatorStopped g => exact execGeneratorStopped_keeps g s
  | mov c e => exact execMov_keeps c e s
  | push c e => exact execPush_keeps c e s
  | pop c e => exact execPop_keeps c e s
  | add c e => exact execAdd_keeps c e s
  | sub c e => exact execSub_keeps c e s
  | cmp c e => exact execCmp_keeps c e s
  | tst c e => exact execTst_keeps c e s
  | and c e => exact execAnd_keeps c e s
  | or c e => exact execOr_keeps c e s
  | xor c e => exact execXor_keeps c e s
  | not c e => exact execNot_keeps c e s
  | neg c e => exact execNeg_keeps c e s
  | shl c e => exact execShl_keeps c e s
  | shr c e => exact execShr_keeps c e s
  | asr c e => exact execAsr_keeps c e s
  | mul c e => exact execMul_keeps c e s
  | mac c e => exact execMac_keeps c e s
  | macr c e => exact execMacr_keeps c e s
  | sat c e => exact execSat_keeps c e s
  | addd c e => exact execAddd_keeps c e s
  | subd c e => exact execSubd_keeps c e s
  | dadj c e => exact execDadj_keeps c e s
  | b2bcd c e => exact execB2bcd_keeps c e s
  | bcd2b c e => exact execBcd2b_keeps c e s
  | digit c e => exact execDigit_keeps c e s
  | lin c e => exact execLin_keeps c e s
  | lout c e => exact execLout_keeps c e s
  | tap c e => exact execTap_keeps c e s
  | tput c e => exact execTput_keeps c e s
  | bqd c e => exact execBqd_keeps c e s
  | skpCc c cc e => exact execSkpCc_keeps c cc e s
  | rpt c e => exact execRpt_keeps c e s
  | rpti c e => exact execRpti_keeps c e s
  | jmp c e => exact execJmp_keeps c e s
  | jcc c cc e => exact execJcc_keeps c cc e s
  | call c e => exact execCall_keeps c e s
  | ret c e => exact execRet_keeps c e s
  | reti c e => exact execReti_keeps c e s
  | endFrame c e => exact execEndFrame_keeps c e s
  | nop c e => exact execNop_keeps c e s
  | wait c e => exact execWait_keeps c e s
  | waitWake c => exact execWaitWake_keeps c s
  | sysCall c e => exact execSysCall_keeps c e s
  | mfs c e => exact execMfs_keeps c e s
  | mts c e => exact execMts_keeps c e s
  | bmov c e k => exact execBmov_keeps c e k s
  | bfil c e k => exact execBfil_keeps c e k s
  | bcmp c e k => exact execBcmp_keeps c e k s
  | bscn c e k => exact execBscn_keeps c e k s
  | bcrc c e k => exact execBcrc_keeps c e k s
  | interruptEntry c => exact execInterruptEntry_keeps c s
  | invalidateDataLine c => exact execInvalidateDataLine_keeps c s
  | invalidateDataCache c => exact execInvalidateDataCache_keeps c s
  | invalidateInstructionLine c => exact execInvalidateInstructionLine_keeps c s
  | invalidateInstructionCache c => exact execInvalidateInstructionCache_keeps c s
  | doorbell m w v => exact execDoorbell_keeps m w v s
  | intClr m k w v => exact execIntClr_keeps m k w v s
  | registerWrite m a w v => exact execRegisterWrite_keeps m a w v s
  | setAliasWrite m a w v => exact execSetAliasWrite_keeps m a w v s
  | clearAliasWrite m a w v => exact execClearAliasWrite_keeps m a w v s
  | toggleAliasWrite m a w v => exact execToggleAliasWrite_keeps m a w v s
  | clearOnRead m a w => exact execClearOnRead_keeps m a w s
  | sqWriteBack m a w v => exact execSqWriteBack_keeps m a w v s
  | wbWrite m a w v => exact execWbWrite_keeps m a w v s
  | wdWrite m a w v => exact execWdWrite_keeps m a w v s
  | scWrite m a w v => exact execScWrite_keeps m a w v s
  | scWriteLanded => exact execScWriteLanded_keeps s
  | loWrite m a w v => exact execLoWrite_keeps m a w v s
  | hiWrite m a w v => exact execHiWrite_keeps m a w v s
  | postedWriteDelivery toAudio => exact execPostedWriteDelivery_keeps toAudio s
  | splitReadReturn x => exact execSplitReadReturn_keeps x s
  | splitTimeout x => exact execSplitTimeout_keeps x s
  | flashBankWrite m w v => exact execFlashBankWrite_keeps m w v s
  | requestAcknowledge x => exact execRequestAcknowledge_keeps x s
  | mergedNotification x => exact execMergedNotification_keeps x s
  | fifoResync x => exact execFifoResync_keeps x s
  | slowClockLost => exact execSlowClockLost_keeps s
  | networkClockLost => exact execNetworkClockLost_keeps s
  | crystalLost => exact execCrystalLost_keeps s
  | mediaPllUnlock => exact execMediaPllUnlock_keeps s
  | clockQualified k => exact execClockQualified_keeps k s
  | netTimeout => exact execNetTimeout_keeps s
  | shadowWrite m a w v => exact execShadowWrite_keeps m a w v s
  | commitRequest m hi w v => exact execCommitRequest_keeps m hi w v s
  | coefBankCopyEnd n => exact execCoefBankCopyEnd_keeps n s
  | armSwap m w v => exact execArmSwap_keeps m w v s
  | cancelSwap m w v => exact execCancelSwap_keeps m w v s
  | nodeWrite m a w v => exact execNodeWrite_keeps m a w v s
  | claim m w v => exact execClaim_keeps m w v s
  | release m w v => exact execRelease_keeps m w v s
  | releaseAll m w v => exact execReleaseAll_keeps m w v s
  | receivedFrame p slots spacingOk phase => exact execReceivedFrame_keeps p slots spacingOk phase s
  | noFrame p => exact execNoFrame_keeps p s
  | linkUp portB => exact execLinkUp_keeps portB s
  | linkDown portB => exact execLinkDown_keeps portB s
  | frameReceived portB f dt => exact execFrameReceived_keeps portB f dt s
  | supervisionFrame => exact execSupervisionFrame_keeps s
  | nodeForget mac => exact execNodeForget_keeps mac s
  | transmitPacket k => exact execTransmitPacket_keeps k s
  | missingPacket k => exact execMissingPacket_keeps k s
  | offsetReturn k => exact execOffsetReturn_keeps k s
  | streamEnable tx k => exact execStreamEnable_keeps tx k s
  | igmpReport k => exact execIgmpReport_keeps k s
  | stepPtp m w v => exact execStepPtp_keeps m w v s
  | snapPtp m w v => exact execSnapPtp_keeps m w v s
  | syncTimeout => exact execSyncTimeout_keeps s
  | ppsOut => exact execPpsOut_keeps s
  | ppsOutEnd => exact execPpsOutEnd_keeps s
  | ppsInEdge dt => exact execPpsInEdge_keeps dt s
  | requestPlacement t rank tag op => exact execRequestPlacement_keeps t rank tag op s
  | requestTake => exact execRequestTake_keeps s
  | responseHoldRelease t => exact execResponseHoldRelease_keeps t s
  | readReq t tag => exact execReadReq_keeps t tag s
  | writeReq t tag => exact execWriteReq_keeps t tag s
  | writeGroupReq t tag => exact execWriteGroupReq_keeps t tag s
  | subscribeReq t tag => exact execSubscribeReq_keeps t tag s
  | unsubscribeReq t tag => exact execUnsubscribeReq_keeps t tag s
  | requestNop t tag => exact execRequestNop_keeps t tag s
  | burst t tag => exact execBurst_keeps t tag s
  | hdone m w v => exact execHdone_keeps m w v s
  | handlerTimeout slot => exact execHandlerTimeout_keeps slot s
  | persistRecord ok => exact execPersistRecord_keeps ok s
  | compaction => exact execCompaction_keeps s
  | dictEnable => exact execDictEnable_keeps s
  | heartbeatLost t => exact execHeartbeatLost_keeps t s
  | tenantReset m w v => exact execTenantReset_keeps m w v s
  | tenantCreation t blob sess => exact execTenantCreation_keeps t blob sess s
  | tenantDeletion t => exact execTenantDeletion_keeps t s
  | localRequest m q w v => exact execLocalRequest_keeps m q w v s
  | openSession tr ip port msg sid => exact execOpenSession_keeps tr ip port msg sid s
  | ceilingRaise => exact execCeilingRaise_keeps s
  | requestMsg tr ip port msg => exact execRequestMsg_keeps tr ip port msg s
  | closeSession tr ip port msg => exact execCloseSession_keeps tr ip port msg s
  | sessionIdle n => exact execSessionIdle_keeps n s
  | sessClose m w v => exact execSessClose_keeps m w v s
  | responseMsg n => exact execResponseMsg_keeps n s
  | eventMsg t tap => exact execEventMsg_keeps t tap s
  | canFrameReceived k f bad => exact execCanFrameReceived_keeps k f bad s
  | reassemblyTimeout k ident => exact execReassemblyTimeout_keeps k ident s
  | busOffRecovery k => exact execBusOffRecovery_keeps k s
  | canTxreq m k w v => exact execCanTxreq_keeps m k w v s
  | receiveWindowRead m k x w => exact execReceiveWindowRead_keeps m k x w s
  | startDma m ch w v => exact execStartDma_keeps m ch w v s
  | transferComplete ch => exact execTransferComplete_keeps ch s
  | tailWrite m ch w v => exact execTailWrite_keeps m ch w v s
  | descriptorFetch ch => exact execDescriptorFetch_keeps ch s
  | descriptorCompletion ch => exact execDescriptorCompletion_keeps ch s
  | lateErr ch => exact execLateErr_keeps ch s
  | channelEnable m ch w v => exact execChannelEnable_keeps m ch w v s
  | heldEnable ch => exact execHeldEnable_keeps ch s
  | channelDisable m ch w v => exact execChannelDisable_keeps m ch w v s
  | dmaDisable m w v => exact execDmaDisable_keeps m w v s
  | requestLine ch => exact execRequestLine_keeps ch s
  | windowResult n => exact execWindowResult_keeps n s
  | relayDrive n => exact execRelayDrive_keeps n s
  | lmAck m w v => exact execLmAck_keeps m w v s
  | lmLearn m w v => exact execLmLearn_keeps m w v s
  | passStart m w v => exact execPassStart_keeps m w v s
  | abort m w v => exact execAbort_keeps m w v s
  | ambientEnd => exact execAmbientEnd_keeps s
  | prerollEnd => exact execPrerollEnd_keeps s
  | accumEnd => exact execAccumEnd_keeps s
  | transformEnd => exact execTransformEnd_keeps s
  | dcSenseSample x microAmps => exact execDcSenseSample_keeps x microAmps s
  | relearn m x w v => exact execRelearn_keeps m x w v s
  | gainChange x => exact execGainChange_keeps x s
  | contactScan n cls => exact execContactScan_keeps n cls s
  | contactEvent n => exact execContactEvent_keeps n s
  | forceLatch m w v => exact execForceLatch_keeps m w v s
  | clearLatch m w v => exact execClearLatch_keeps m w v s
  | hostWrite a count words => exact execHostWrite_keeps a count words s
  | writeFixed a count words => exact execWriteFixed_keeps a count words s
  | hostRead a count cut => exact execHostRead_keeps a count cut s
  | readFixed a count cut => exact execReadFixed_keeps a count cut s
  | hostStatus => exact execHostStatus_keeps s
  | hostWordWrite => exact execHostWordWrite_keeps s
  | uartTxdWrite m k w v => exact execUartTxdWrite_keeps m k w v s
  | uartRxdRead m k w => exact execUartRxdRead_keeps m k w s
  | characterReceived k ch parityErr framingErr brk => exact execCharacterReceived_keeps k ch parityErr framingErr brk s
  | i2cStart k r => exact execI2cStart_keeps k r s
  | i2cWrite k r => exact execI2cWrite_keeps k r s
  | i2cReadAck k data r => exact execI2cReadAck_keeps k data r s
  | i2cReadNack k data r => exact execI2cReadNack_keeps k data r s
  | i2cStop k r => exact execI2cStop_keeps k r s
  | i2cTimeout k => exact execI2cTimeout_keeps k s
  | gpioEdge n level => exact execGpioEdge_keeps n level s
  | keepCmd m w v => exact execKeepCmd_keeps m w v s
  | lineProgramDone readsBack => exact execLineProgramDone_keeps readsBack s
  | playOp p => exact execPlayOp_keeps p s
  | gapOp p => exact execGapOp_keeps p s
  | spellOp p => exact execSpellOp_keeps p s
  | listOp p => exact execListOp_keeps p s
  | toneOp p => exact execToneOp_keeps p s
  | jumpOp p => exact execJumpOp_keeps p s
  | stopOp p => exact execStopOp_keeps p s
  | planLoad => exact execPlanLoad_keeps s
  | fwGo m w v => exact execFwGo_keeps m w v s
  | bucketRefill => exact execBucketRefill_keeps s
  | journalLineWrite => exact execJournalLineWrite_keeps s
  | requestService m => exact execRequestService_keeps m s
  | requestWatch m => exact execRequestWatch_keeps m s
  | requestSleep m => exact execRequestSleep_keeps m s
  | requestEvacuate m => exact execRequestEvacuate_keeps m s
  | requestExit m => exact execRequestExit_keeps m s
  | wake high => exact execWake_keeps high s
  | wakeTimer => exact execWakeTimer_keeps s
  | fastWake straps slept => exact execFastWake_keeps straps slept s
  | padRelease m w v => exact execPadRelease_keeps m w v s
  | wdogKick m c w v => exact execWdogKick_keeps m c w v s
  | watchdogExpiry c => exact execWatchdogExpiry_keeps c s
  | watchdogReset c => exact execWatchdogReset_keeps c s
  | coldBoot straps => exact execColdBoot_keeps straps s
  | imageAttempt kind copy => exact execImageAttempt_keeps kind copy s
  | bootTimeout kind copy => exact execBootTimeout_keeps kind copy s
  | networkCopyTimeout kind => exact execNetworkCopyTimeout_keeps kind s
  | recoveryLoader => exact execRecoveryLoader_keeps s
  | verifyGraph m arg => exact execVerifyGraph_keeps m arg s
  | measure m arg => exact execMeasure_keeps m arg s
  | beginSlot m arg => exact execBeginSlot_keeps m arg s
  | markPending m arg => exact execMarkPending_keeps m arg s
  | confirm m arg => exact execConfirm_keeps m arg s
  | abandon m arg => exact execAbandon_keeps m arg s
  | writeK m arg => exact execWriteK_keeps m arg s
  | writePlan m arg => exact execWritePlan_keeps m arg s
  | burnFloor m arg => exact execBurnFloor_keeps m arg s
  | mailboxCompletion => exact execMailboxCompletion_keeps s
  | rootRevoke k => exact execRootRevoke_keeps k s
  | tallyExt m w v => exact execTallyExt_keeps m w v s
  | anvilStatus => exact execAnvilStatus_keeps s
  | anvPut lenField bytes crc complete => exact execAnvPut_keeps lenField bytes crc complete s
  | anvGet rep max => exact execAnvGet_keeps rep max s
  | dataChunk kind off seq bytes => exact execDataChunk_keeps kind off seq bytes s
  | noneImage kind => exact execNoneImage_keeps kind s
  | askTimeout => exact execAskTimeout_keeps s
  | chalReq grant seq => exact execChalReq_keeps grant seq s
  | anvAuth body seq => exact execAnvAuth_keeps body seq s
  | recover target seq => exact execRecover_keeps target seq s
  | reboot => exact execReboot_keeps s
  | transferClose => exact execTransferClose_keeps s
  | mread a count seq => exact execMread_keeps a count seq s
  | mwrite a words seq => exact execMwrite_keeps a words seq s
  | alwaysOnPowerUp => exact execAlwaysOnPowerUp_keeps s
  | deviceReset cause => exact execDeviceReset_keeps cause s
  | brownOut x => exact execBrownOut_keeps x s
  | resetRelease ioB33 => exact execResetRelease_keeps ioB33 s
  | devReset m w v => exact execDevReset_keeps m w v s
  | wardenDevReset m w v => exact execWardenDevReset_keeps m w v s
  | coreReset m w v => exact execCoreReset_keeps m w v s
  | blockReset m w v => exact execBlockReset_keeps m w v s
  | tapReset => exact execTapReset_keeps s
  | trimLoad => exact execTrimLoad_keeps s
  | temperatureUpdate t => exact execTemperatureUpdate_keeps t s
  | canFrameSent k b r => exact execCanFrameSent_keeps k b r s
  | characterSent k => exact execCharacterSent_keeps k s
  | statusPublication => exact execStatusPublication_keeps s
  | jtagDebugAccess op => exact execJtagDebugAccess_keeps op s
  | flashProgramCommand off erase bytes => exact execFlashProgramCommand_keeps off erase bytes s
  | recoverTimeout => exact execRecoverTimeout_keeps s
  | phyInterrupt level => exact execPhyInterrupt_keeps level s

/-- What a command that answers keeps. -/
theorem exec_keeps {c : Instr} {s t : State} (h : exec c s = .next t) : Keeps s t := by
  obtain ⟨u, hu, hk⟩ := exec_follows c s
  rw [h] at hu
  cases hu
  exact hk

/-- A state whose queue lost its front command keeps the forms of its stores. -/
theorem State.Canonical.setPending {s : State} (l : List Instr) (h : s.Canonical) :
    State.Canonical { s with pending := l } :=
  ⟨h.mem, h.flash, h.ecc, h.regs, h.wbPend, h.sqs⟩

/-- A run's fuses grow as those of its commands do. -/
theorem Runs.fusesGrow {l : List Instr} {s t : State} (h : Runs l s t) : FusesGrow s.ward.fuses t.ward.fuses := by
  induction h with
  | done s => exact FusesGrow.refl _
  | cons i l s t u hi _ ih => exact (exec_keeps hi).fuses.trans ih

/-- Settles O1. -/
theorem stepRunsTheFrontCommand : Obligations.StepRunsTheFrontCommand := by
  unfold Obligations.StepRunsTheFrontCommand
  intro s c rest h
  simp only [step, h]

/-- Settles O2. -/
theorem anEmptyQueueIdles : Obligations.AnEmptyQueueIdles := by
  unfold Obligations.AnEmptyQueueIdles
  intro s h
  simp only [step, h]

/-- Settles O3, from the meaning of each command. -/
theorem everyCommandCompletes : Obligations.EveryCommandCompletes := by
  unfold Obligations.EveryCommandCompletes
  intro c s
  obtain ⟨t, h, -⟩ := exec_follows c s
  exact ⟨t, h⟩

/-- Settles O4: no command keeps another queue than the one it met. -/
theorem commandsLeaveTheQueue : Obligations.CommandsLeaveTheQueue := by
  unfold Obligations.CommandsLeaveTheQueue
  intro c s t h
  exact (exec_keeps h).pend

/-- Settles O5, by the two cases of a step: an idle one, and one that runs the front command. -/
theorem storesKeepTheirForm : Obligations.StoresKeepTheirForm := by
  unfold Obligations.StoresKeepTheirForm
  intro s t hs h
  cases hp : s.pending with
  | nil =>
    rw [anEmptyQueueIdles s hp] at h
    cases h
    exact hs
  | cons c rest =>
    rw [stepRunsTheFrontCommand s c rest hp] at h
    exact (exec_keeps h).canon (hs.setPending rest)

/-- Settles O6: at reset every store is the empty table. -/
theorem resetStoresAreCanonical : Obligations.ResetStoresAreCanonical := by
  unfold Obligations.ResetStoresAreCanonical
  exact ⟨⟨rfl, rfl, rfl, rfl, rfl, rfl⟩, rfl, rfl, rfl⟩

/-- Settles O7, by induction on the run. -/
theorem fusesOnlyGain : Obligations.FusesOnlyGain := by
  unfold Obligations.FusesOnlyGain
  intro l s t h
  exact h.fusesGrow

end Sys2Proof.Machine
end

section
/-! The arithmetic instructions of chapter 9: operands, result, flags and the next instruction, each form once; and what the
functions of shifts, products and logic answer in terms of bit vectors. -/

namespace Sys2Proof.Machine
open Sys2Proof

/-! ### Forms of the arithmetic instructions -/

theorem flatMap_ups_triple (a b d : Opd) : ([a, b, d].flatMap fun o => o.ups) = a.ups ++ b.ups ++ d.ups := by
  simp

theorem flatMap_ups_single (a : Opd) : ([a].flatMap fun o => o.ups) = a.ups := by
  simp

section
variable {c : CoreId} {e : Enc} {a b d : Opd} {x0 x y z w : RunSt} (nx : Word)

/-- The three-operand form: a ← b op c. -/
theorem opRmw_far {f : Alu2} (hform : (e.long && e.shape == 5) = true)
    (ha : destOperand c 1 (szBytes e.sz) e.a x0 = .ok a x) (hb : readOperand c 2 (szBytes e.sz) e.b x = .ok b y)
    (hd : readOperand c 3 (szBytes e.sz) e.c y = .ok d z)
    (hw : writeAll c (a.ups ++ b.ups ++ d.ups ++ resultTo a (szBytes e.sz)
      (f (8 * szBytes e.sz) b.val d.val (regsOf c z.s).psw).1) z = .ok () w) :
    opRmw f c e nx x0 = .ok () (wentOn c nx (f (8 * szBytes e.sz) b.val d.val (regsOf c z.s).psw).2 w) := by
  rw [← flatMap_ups_triple] at hw
  rw [opRmw, if_pos hform, andThen_ok _ ha, andThen_ok _ hb, andThen_ok _ hd]
  exact complete_goOn _ _ hw

theorem opDadj_ok (ha : rwOperand c 1 (szBytes e.sz) e.a x0 = .ok a x)
    (hw : writeAll c (a.ups ++ resultTo a (szBytes e.sz)
      (aluDadj (8 * szBytes e.sz) a.val (regsOf c x.s).psw).1) x = .ok () w) :
    opDadj c e nx x0 = .ok () (wentOn c nx (aluDadj (8 * szBytes e.sz) a.val (regsOf c x.s).psw).2 w) := by
  rw [← flatMap_ups_single] at hw
  rw [opDadj, andThen_ok _ ha]
  exact complete_goOn _ _ hw

end

/-- The command `I` runs the plain operation `op`, whose piece is `body`. -/
structure RunsAs (I : CoreId → Enc → Instr) (op : AOp) (body : CoreId → Enc → Word → Run Unit) : Prop where
  plain : plainOp op = true
  run : ∀ c e s, exec (I c e) s = .next (coreRun c op e 0 0 s)
  body : ∀ c e pc nx, opBody c ⟨op, e, 0⟩ pc nx = body c e nx

/-- A ready core whose instruction's piece ends well, its writes made, has run it and gone on. -/
theorem RunsAs.exec_eq {I : CoreId → Enc → Instr} {op : AOp} {body : CoreId → Enc → Word → Run Unit} (h : RunsAs I op body)
    {c : CoreId} {e : Enc} {s : State} {ws : List CoreWrite} {p : Word} {y w : RunSt}
    (hready : coreReady c ⟨op, e, 0⟩ s = true) (hw : writeAll c ws y = .ok () w)
    (hbody : body c e (nextPc ⟨op, e, 0⟩ (regsOf c s).pc) (coreBegin c ⟨op, e, 0⟩ s)
      = .ok () (wentOn c (nextPc ⟨op, e, 0⟩ (regsOf c s).pc) p w)) :
    exec (I c e) s = .next (coreEnd c ⟨op, e, 0⟩ (setRegs c { regsOf c w.s with
      pc := nextPc ⟨op, e, 0⟩ (regsOf c s).pc, psw := p } w.s)) :=
  exec_wentOn (h.run c e s) h.plain hready hw (by rw [h.body]; exact hbody)

/-- Settles O22: each of the eleven operations runs as the same piece with its own function. -/
theorem arithmeticCombinesItsOperands : Obligations.ArithmeticCombinesItsOperands := by
  unfold Obligations.ArithmeticCombinesItsOperands
  intro p hp
  have hruns : RunsAs p.2.1 p.1 (opRmw p.2.2) := by
    simp only [List.mem_cons, List.not_mem_nil, or_false] at hp
    rcases hp with rfl | rfl | rfl | rfl | rfl | rfl | rfl | rfl | rfl | rfl | rfl <;>
      exact ⟨rfl, fun _ _ _ => rfl, fun _ _ _ _ => rfl⟩
  intro c e s a b d x y z w i n o done hready
  refine ⟨fun hform ha hb hw => ?two, fun hform ha hb hd hw => ?three⟩
  case two => exact hruns.exec_eq hready hw (opRmw_near _ hform ha hb hw)
  case three => exact hruns.exec_eq hready hw (opRmw_far _ hform ha hb hd hw)

/-- Settles O23: eight operations of one source, two comparisons and DADJ. -/
theorem copiesConversionsAndCompares : Obligations.CopiesConversionsAndCompares := by
  unfold Obligations.CopiesConversionsAndCompares
  refine ⟨?unary, ?compare, ?dadj⟩
  case unary =>
    intro p hp c e s a b x y w i n o hready ha hb hw
    have hruns : RunsAs p.2.1 p.1 (fun c e nx => opUnary (p.2.2 e) c e nx) := by
      simp only [List.mem_cons, List.not_mem_nil, or_false] at hp
      rcases hp with rfl | rfl | rfl | rfl | rfl | rfl | rfl | rfl <;>
        exact ⟨rfl, fun _ _ _ => rfl, fun _ _ _ _ => rfl⟩
    exact hruns.exec_eq hready hw (opUnary_ok _ ha hb hw)
  case compare =>
    intro p hp c e s a b x y w i n hready ha hb hw
    have hruns : RunsAs p.2.1 p.1 (opCompare p.2.2) := by
      simp only [List.mem_cons, List.not_mem_nil, or_false] at hp
      rcases hp with rfl | rfl <;> exact ⟨rfl, fun _ _ _ => rfl, fun _ _ _ _ => rfl⟩
    exact hruns.exec_eq hready hw (opCompare_ok _ ha hb hw)
  case dadj =>
    intro c e s a x w i n o hready ha hw
    have hruns : RunsAs .dadj .dadj opDadj := ⟨rfl, fun _ _ _ => rfl, fun _ _ _ _ => rfl⟩
    exact hruns.exec_eq hready hw (opDadj_ok _ ha hw)

/-! ### Shifts, products and logic in terms of bit vectors -/

/-- PSW with N and Z describing a bit vector. -/
theorem setNZ_toNat {w : Nat} (hw : 0 < w) (p : Word) (r : BitVec w) :
    setNZ p w r.toNat = wsetBit (wsetBit p 3 r.msb) 2 (decide (r = 0#w)) := by
  have hmod : r.toNat % 2 ^ w = r.toNat := Nat.mod_eq_of_lt r.isLt
  have hzero : (r.toNat = 0) ↔ r = 0#w := by
    rw [← BitVec.toNat_inj]
    simp
  simp only [setNZ, hmod, BitVec.msb_eq_decide, hzero, pswN, pswZ]

theorem uval_eq_toNat (w : Nat) (i : Int) : uval w i = (BitVec.ofInt w i).toNat := by
  simp [uval, BitVec.toNat_ofInt]

theorem div_two_pow_odd (a k : Nat) : decide (a / 2 ^ k % 2 = 1) = a.testBit k := by
  rw [Nat.testBit_eq_decide_div_mod_eq]

theorem getLsbD_ofNat_mod {w k : Nat} (a : Nat) : (BitVec.ofNat w a).getLsbD k = (a % 2 ^ w).testBit k := by
  rw [BitVec.getLsbD, BitVec.toNat_ofNat]

/-- A signed number of `w` bits divided by 2^k: from the width up the quotient is the sign's. -/
theorem toInt_div_min {w : Nat} (x : BitVec w) (k : Nat) :
    x.toInt / ((2 ^ min k w : Nat) : Int) = x.toInt / ((2 ^ k : Nat) : Int) := by
  have hbig : ∀ m, w ≤ m → x.toInt / ((2 ^ m : Nat) : Int) = if x.toInt < 0 then -1 else 0 := by
    intro m hm
    have hpow : (2 ^ w : Nat) ≤ 2 ^ m := Nat.pow_le_pow_right (by decide) hm
    have hlo := BitVec.le_two_mul_toInt (x := x)
    have hhi := BitVec.two_mul_toInt_lt (x := x)
    have hpow' : ((2 : Int) ^ w) ≤ ((2 ^ m : Nat) : Int) := by exact_mod_cast hpow
    have hpos : (0 : Int) < 2 ^ w := by positivity
    split
    · exact Int.ediv_eq_neg_one_of_neg_of_le (by omega) (by omega)
    · exact Int.ediv_eq_zero_of_lt (by omega) (by omega)
  rcases Nat.le_total k w with h | h
  · rw [Nat.min_eq_left h]
  · rw [Nat.min_eq_right h, hbig w (Nat.le_refl w), hbig k h]

section
variable (w a b : Nat) (p : Word)

theorem aluShl_eq : aluShl w a b p = ((BitVec.ofNat w a <<< (b % 64)).toNat,
    setCV (setNZ p w (BitVec.ofNat w a <<< (b % 64)).toNat)
      (decide (0 < b % 64 ∧ b % 64 < w) && (BitVec.ofNat w a).getLsbD (w - b % 64)) false) := by
  have hr : (if w ≤ b % 64 then 0 else a % 2 ^ w * 2 ^ (b % 64) % 2 ^ w) = (BitVec.ofNat w a <<< (b % 64)).toNat := by
    rw [BitVec.toNat_shiftLeft, BitVec.toNat_ofNat, Nat.shiftLeft_eq]
    split
    · next h => exact (Nat.mod_eq_zero_of_dvd ((Nat.pow_dvd_pow 2 h).trans (Nat.dvd_mul_left _ _))).symm
    · rfl
  simp only [aluShl, hr, div_two_pow_odd, getLsbD_ofNat_mod]

theorem aluShr_eq : aluShr w a b p = ((BitVec.ofNat w a >>> (b % 64)).toNat,
    setCV (setNZ p w (BitVec.ofNat w a >>> (b % 64)).toNat)
      (decide (0 < b % 64 ∧ b % 64 < w) && (BitVec.ofNat w a).getLsbD (b % 64 - 1)) false) := by
  have hr : (if w ≤ b % 64 then 0 else a % 2 ^ w / 2 ^ (b % 64)) = (BitVec.ofNat w a >>> (b % 64)).toNat := by
    rw [BitVec.toNat_ushiftRight, BitVec.toNat_ofNat, Nat.shiftRight_eq_div_pow]
    split
    · next h =>
      exact (Nat.div_eq_of_lt (Nat.lt_of_lt_of_le (Nat.mod_lt _ (Nat.two_pow_pos w)) (Nat.pow_le_pow_right (by decide) h))).symm
    · rfl
  simp only [aluShr, hr, div_two_pow_odd, getLsbD_ofNat_mod]

theorem aluAsr_eq : aluAsr w a b p = (((BitVec.ofNat w a).sshiftRight (b % 64)).toNat,
    setCV (setNZ p w ((BitVec.ofNat w a).sshiftRight (b % 64)).toNat)
      (if w ≤ b % 64 then (BitVec.ofNat w a).msb else decide (0 < b % 64) && (BitVec.ofNat w a).getLsbD (b % 64 - 1)) false) := by
  have hr : uval w (sval w (a % 2 ^ w) / ((2 ^ min (b % 64) w : Nat) : Int)) = ((BitVec.ofNat w a).sshiftRight (b % 64)).toNat := by
    rw [uval_eq_toNat, sval_mod, sval_eq_toInt, BitVec.sshiftRight, Int.shiftRight_eq_div_pow, toInt_div_min]
  simp only [aluAsr, hr, div_two_pow_odd, getLsbD_ofNat_mod, BitVec.msb_eq_decide, BitVec.toNat_ofNat]

theorem aluMul_eq (hw : 0 < w) : aluMul w a b p = ((BitVec.ofNat w a * BitVec.ofNat w b).toNat,
    setCV (setNZ p w (BitVec.ofNat w a * BitVec.ofNat w b).toNat) false
      (decide ((BitVec.ofNat w a * BitVec.ofNat w b).toInt ≠ (BitVec.ofNat w a).toInt * (BitVec.ofNat w b).toInt))) := by
  have hr : uval w (sval w a * sval w b) = (BitVec.ofNat w a * BitVec.ofNat w b).toNat := by
    rw [uval_eq_toNat, sval_eq_toInt, sval_eq_toInt, BitVec.ofInt_mul, BitVec.ofInt_toInt, BitVec.ofInt_toInt]
  simp only [aluMul, hr]
  rw [fits_eq hw, BitVec.toInt_mul, sval_eq_toInt, sval_eq_toInt, decide_not]

end

/-- Settles O26: each function's result as a bit vector, and N and Z as that bit vector's. -/
theorem shiftsProductsAndLogic : Obligations.ShiftsProductsAndLogic := by
  unfold Obligations.ShiftsProductsAndLogic
  intro nz cv sz a b p w x y k
  have hw : 0 < w := szBits_pos sz
  have hnz : ∀ r : BitVec w, setNZ p w r.toNat = nz w p r := setNZ_toNat hw p
  have hand : (a &&& b) % 2 ^ w = (x &&& y).toNat := by simp [x, y, Nat.and_mod_two_pow]
  have hor : (a ||| b) % 2 ^ w = (x ||| y).toNat := by simp [x, y, Nat.or_mod_two_pow]
  have hxor : (a ^^^ b) % 2 ^ w = (x ^^^ y).toNat := by simp [x, y, Nat.xor_mod_two_pow]
  have hnot : 2 ^ w - 1 - a % 2 ^ w = (~~~x).toNat := by simp [x]
  refine ⟨?shl, ?shr, ?asr, ?mul, ?and, ?or, ?xor, ?not, ?tst⟩
  case shl => rw [aluShl_eq, hnz]; rfl
  case shr => rw [aluShr_eq, hnz]; rfl
  case asr => rw [aluAsr_eq, hnz]; rfl
  case mul => rw [aluMul_eq w a b p hw, hnz]; rfl
  case and => rw [aluAnd, hand, hnz]
  case or => rw [aluOr, hor, hnz]
  case xor => rw [aluXor, hxor, hnz]
  case not => rw [aluNot, hnot, hnz]
  case tst => rw [aluTst, hand, hnz]; rfl

/-! ### The accumulator -/

/-- The accumulator rounded half up at bit 24 and saturated to `n` bits (SATRND, chapter 9). -/
def saturated (n : Nat) (acc : Acc) : Int :=
  max (-((2 ^ (n - 1) : Nat) : Int)) (min (((2 ^ (n - 1) : Nat) : Int) - 1) ((acc.toInt + 8388608) / 16777216))

/-- Whether it saturated. -/
def saturates (n : Nat) (acc : Acc) : Bool := decide (saturated n acc ≠ (acc.toInt + 8388608) / 16777216)

theorem satRnd_eq_max_min (w : Nat) (v : Int) :
    (satRnd w v).1 = max (-((2 ^ (w - 1) : Nat) : Int)) (min (((2 ^ (w - 1) : Nat) : Int) - 1) ((v + 8388608) / 16777216)) ∧
    (satRnd w v).2 = decide ((satRnd w v).1 ≠ (v + 8388608) / 16777216) := by
  have hpos : (0 : Int) < ((2 ^ (w - 1) : Nat) : Int) := by exact_mod_cast Nat.two_pow_pos (w - 1)
  simp only [satRnd]
  split
  · exact ⟨by omega, (decide_eq_true (by omega)).symm⟩
  · split
    · exact ⟨by omega, (decide_eq_true (by omega)).symm⟩
    · exact ⟨by omega, (decide_eq_false (by omega)).symm⟩

/-- PSW after MACR or SAT: N and Z from the value, V where it saturated, S with it (R297). -/
def satFlags (n : Nat) (acc : Acc) (psw : Word) : Word :=
  let p := wsetBit (wsetBit (wsetBit psw 3 (decide (saturated n acc < 0))) 2 (decide (saturated n acc = 0))) 0 (saturates n acc)
  if saturates n acc then wsetBit p 8 true else p

theorem saturated_bounds (n : Nat) (acc : Acc) :
    -((2 ^ (n - 1) : Nat) : Int) ≤ saturated n acc ∧ saturated n acc < ((2 ^ (n - 1) : Nat) : Int) := by
  have hpos : (0 : Int) < ((2 ^ (n - 1) : Nat) : Int) := by exact_mod_cast Nat.two_pow_pos (n - 1)
  unfold saturated
  omega

theorem aluSat_eq {n : Nat} (hn : 0 < n) (acc : Acc) (psw : Word) :
    aluSat n acc psw = ((BitVec.ofInt n (saturated n acc)).toNat, satFlags n acc psw) := by
  have hq : (satRnd n acc.toInt).1 = saturated n acc := (satRnd_eq_max_min n acc.toInt).1
  have hv : (satRnd n acc.toInt).2 = saturates n acc := by
    rw [(satRnd_eq_max_min n acc.toInt).2, hq, saturates]
  obtain ⟨hlo, hhi⟩ := saturated_bounds n acc
  have hint : (BitVec.ofInt n (saturated n acc)).toInt = saturated n acc :=
    BitVec.toInt_ofInt_eq_self hn (by exact_mod_cast hlo) (by exact_mod_cast hhi)
  have hneg : (BitVec.ofInt n (saturated n acc)).msb = decide (saturated n acc < 0) := by
    rw [BitVec.msb_eq_toInt, hint]
  have hzero : (BitVec.ofInt n (saturated n acc) = 0#n) ↔ saturated n acc = 0 := by
    rw [← BitVec.toInt_inj, hint, BitVec.toInt_zero]
  rw [aluSat]
  simp only [hq, hv, uval_eq_toNat, setNZ_toNat hn, hneg, hzero]
  rfl

theorem accMac_eq (acc : Acc) (u v : Nat) :
    accMac acc u v = (BitVec.ofInt 72 (acc.toInt + (BitVec.ofNat 32 u).toInt * (BitVec.ofNat 32 v).toInt),
      decide ((BitVec.ofInt 72 (acc.toInt + (BitVec.ofNat 32 u).toInt * (BitVec.ofNat 32 v).toInt)).toInt
        ≠ acc.toInt + (BitVec.ofNat 32 u).toInt * (BitVec.ofNat 32 v).toInt)) := by
  simp only [accMac, sval_eq_toInt, fits_eq (show 0 < 72 by decide), BitVec.toInt_ofInt, decide_not]

/-- Where an instruction stands once its writes are made and its registers are changed by `f`. -/
def ranOn (c : CoreId) (f : CoreRegs → CoreRegs) (w : RunSt) : RunSt := { w with s := setRegs c (f (regsOf c w.s)) w.s }

theorem complete_ok {c : CoreId} {ops : List Opd} {res : List CoreWrite} {y w : RunSt} (f : CoreRegs → CoreRegs)
    (h : writeAll c ((ops.flatMap fun o => o.ups) ++ res) y = .ok () w) :
    complete c ops res f y = .ok () (ranOn c f w) :=
  andThen_ok _ h

/-- A ready core whose plain instruction makes its writes and changes its registers has run it. -/
theorem exec_ranOn {I : Instr} {c : CoreId} {op : AOp} {e : Enc} {cc : Nat} {ws : List CoreWrite} {f : CoreRegs → CoreRegs} {s : State}
    {y w : RunSt} (hI : exec I s = .next (coreRun c op e cc 0 s)) (hplain : plainOp op = true)
    (hready : coreReady c ⟨op, e, cc⟩ s = true) (hw : writeAll c ws y = .ok () w)
    (hbody : opBody c ⟨op, e, cc⟩ (regsOf c s).pc (nextPc ⟨op, e, cc⟩ (regsOf c s).pc) (coreBegin c ⟨op, e, cc⟩ s)
      = .ok () (ranOn c f w)) :
    exec I s = .next (coreEnd c ⟨op, e, cc⟩ (setRegs c (f (regsOf c w.s)) w.s)) :=
  exec_plain c op e cc 0 s (ranOn c f w) hI hready hplain (fun hc => writeAll_ecc c ws y w hc hw) hbody

section
variable {c : CoreId} {e : Enc} {a b d : Opd} {x0 x y z w : RunSt} (nx : Word)

theorem opMac_ok (ha : readOperand c 1 4 e.a x0 = .ok a x) (hb : readOperand c 2 4 e.b x = .ok b y)
    (hw : writeAll c (a.ups ++ b.ups) y = .ok () w) :
    opMac c e nx x0 = .ok () (ranOn c (fun r => { r with
      pc := nx, acc := (accMac r.acc a.val b.val).1, psw := wsetBit r.psw pswV (accMac r.acc a.val b.val).2 }) w) := by
  rw [← flatMap_ups_pair, ← List.append_nil (List.flatMap _ _)] at hw
  rw [opMac, andThen_ok _ ha, andThen_ok _ hb]
  exact complete_ok _ hw

theorem opMacr_ok (ha : destOperand c 1 4 e.a x0 = .ok a x) (hb : readOperand c 2 4 e.b x = .ok b y)
    (hd : if (e.long && e.shape == 5) = true then readOperand c 3 4 e.c y = .ok d z else d = Opd.lit 3 16777216 ∧ z = y)
    (hw : writeAll c (a.ups ++ b.ups ++ d.ups ++ resultTo a 4
      (aluSat 32 (accMac (regsOf c z.s).acc b.val d.val).1 (regsOf c z.s).psw).1) z = .ok () w) :
    opMacr c e nx x0 = .ok () (ranOn c (fun r => { r with
      pc := nx, acc := 0#72, psw := (aluSat 32 (accMac (regsOf c z.s).acc b.val d.val).1 (regsOf c z.s).psw).2 }) w) := by
  have hd' : (if e.long && e.shape == 5 then readOperand c 3 4 e.c else ret (Opd.lit 3 16777216)) y = .ok d z := by
    split at hd
    · next hform => rw [if_pos hform]; exact hd
    · next hform =>
      obtain ⟨rfl, rfl⟩ := hd
      rw [if_neg hform]
      rfl
  rw [← flatMap_ups_triple] at hw
  rw [opMacr, andThen_ok _ ha, andThen_ok _ hb, andThen_ok _ hd']
  exact complete_ok _ hw

theorem opSat_ok (ha : destOperand c 1 (szBytes e.sz) e.a x0 = .ok a x)
    (hw : writeAll c (a.ups ++ resultTo a (szBytes e.sz)
      (aluSat (8 * szBytes e.sz) (regsOf c x.s).acc (regsOf c x.s).psw).1) x = .ok () w) :
    opSat c e nx x0 = .ok () (wentOn c nx (aluSat (8 * szBytes e.sz) (regsOf c x.s).acc (regsOf c x.s).psw).2 w) := by
  rw [← flatMap_ups_single] at hw
  rw [opSat, andThen_ok _ ha]
  exact complete_goOn _ _ hw

end

/-- Settles O24: the accumulator's functions in terms of exact sums, and the three instructions that use them. -/
theorem theAccumulatorRoundsAndSaturates : Obligations.TheAccumulatorRoundsAndSaturates := by
  unfold Obligations.TheAccumulatorRoundsAndSaturates
  intro satOf high flags sum
  refine ⟨?mac, ?macr, ?sat⟩
  case mac =>
    intro c e s a b x y w i hready ha hb hw
    have h := exec_ranOn (I := .mac c e) rfl rfl hready hw (opMac_ok (nextPc i (regsOf c s).pc) ha hb hw)
    rw [accMac_eq] at h
    exact h
  case macr =>
    intro c e s a b d x y z w i acc hready ha hb hd hw
    have hsat : aluSat 32 (accMac (regsOf c z.s).acc b.val d.val).1 (regsOf c z.s).psw
        = ((BitVec.ofInt 32 (satOf 32 acc)).toNat, flags 32 acc (regsOf c z.s).psw) := by
      rw [accMac_eq]
      exact aluSat_eq (by decide) _ _
    have hres : (aluSat 32 (accMac (regsOf c z.s).acc b.val d.val).1 (regsOf c z.s).psw).1
        = (BitVec.ofInt 32 (satOf 32 acc)).toNat := by rw [hsat]
    rw [← hres] at hw
    have h := exec_ranOn (I := .macr c e) rfl rfl hready hw (opMacr_ok (nextPc i (regsOf c s).pc) ha hb hd hw)
    rw [hsat] at h
    exact h
  case sat =>
    intro c e s a x w i n hready ha hw
    have hsat := aluSat_eq (szBits_pos e.sz) (regsOf c x.s).acc (regsOf c x.s).psw
    have hres : (aluSat (8 * n) (regsOf c x.s).acc (regsOf c x.s).psw).1
        = (BitVec.ofInt (8 * n) (satOf (8 * n) (regsOf c x.s).acc)).toNat := by rw [hsat]; rfl
    rw [← hres] at hw
    have h := exec_wentOn (I := .sat c e) rfl rfl hready hw (opSat_ok (nextPc i (regsOf c s).pc) ha hw)
    rw [hsat] at h
    exact h

end Sys2Proof.Machine
end

section
/-! The stack and the flow of a program (chapters 7 to 9): what PUSH, POP, CALL, RET, JMP and Jcc make of the registers. -/

namespace Sys2Proof.Machine
open Sys2Proof

section
variable {c : CoreId} {e : Enc} {a b : Opd} {t : Opd × Word} {pc nx sp : Word} {v : Nat} {x0 x y w : RunSt}

theorem getRegs_ok : getRegs c x = .ok (regsOf c x.s) x := rfl

theorem look_ok {α : Type} (f : State → α) : look f x = .ok (f x.s) x := rfl

/-- A push that the STACK limit lets be. -/
theorem pushWord_ok {ops : List Opd} (f : CoreRegs → CoreRegs) (hsp : curSP c (regsOf c x.s) - 4#32 = sp)
    (hlim : stackLimited c (regsOf c x.s) sp = false) (hp : coreProbe c sp 4 5 x = .ok () y)
    (hw : writeAll c ((ops.flatMap fun o => o.ups) ++ [⟨sp, 4, v, 5⟩]) y = .ok () w) :
    pushWord c v ops f x = .ok () (ranOn c (fun r => f (setCurSP c r sp)) w) := by
  subst hsp
  rw [pushWord, andThen_ok _ getRegs_ok, if_neg (by rw [hlim]; decide), andThen_ok _ hp, andThen_ok _ hw]
  rfl

theorem opPush_ok (hb : readOperand c 2 4 e.b x0 = .ok b x) (hsp : curSP c (regsOf c x.s) - 4#32 = sp)
    (hlim : stackLimited c (regsOf c x.s) sp = false) (hp : coreProbe c sp 4 5 x = .ok () y)
    (hw : writeAll c (b.ups ++ [⟨sp, 4, b.val, 5⟩]) y = .ok () w) :
    opPush c e nx x0 = .ok () (ranOn c (fun r => goTo nx (setCurSP c r sp)) w) := by
  rw [← flatMap_ups_single] at hw
  rw [opPush, andThen_ok _ hb]
  exact pushWord_ok _ hsp hlim hp hw

theorem opPop_ok (ha : destOperand c 1 4 e.a x0 = .ok a x) (hr : coreRead c (curSP c (regsOf c x.s)) 4 5 x = .ok v y)
    (hw : writeAll c (a.ups ++ resultTo a 4 v) y = .ok () w) :
    opPop c e nx x0 = .ok () (ranOn c (fun r => setCurSP c (goTo nx r) (curSP c r + 4#32)) w) := by
  rw [← flatMap_ups_single] at hw
  rw [opPop, andThen_ok _ ha, andThen_ok _ getRegs_ok, andThen_ok _ hr]
  exact complete_ok _ hw

theorem checkTarget_even {k : Run Unit} {p : Word} (h : isSample c = true ∨ p.getLsbD 0 = false) : checkTarget c p k = k := by
  refine if_neg ?_
  rcases h with h | h <;> simp only [h, Bool.not_true, Bool.false_and, Bool.and_false, Bool.false_eq_true, not_false_eq_true]

theorem opCall_ok (ht : flowTarget c e pc x0 = .ok t x)
    (hc : isSample c = true ∧ depthOf c x.s < 4 ∨ isSample c = false ∧ t.2.getLsbD 0 = false)
    (hsp : curSP c (regsOf c x.s) - 4#32 = sp) (hlim : stackLimited c (regsOf c x.s) sp = false)
    (hp : coreProbe c sp 4 5 x = .ok () y) (hw : writeAll c (t.1.ups ++ [⟨sp, 4, nx.toNat, 5⟩]) y = .ok () w) :
    opCall c e pc nx x0 = .ok () { w with
      s := setDepth c (depthOf c x.s + 1) (setRegs c { setCurSP c (regsOf c w.s) sp with pc := t.2 } w.s) } := by
  have hodd : isSample c = true ∨ t.2.getLsbD 0 = false := by
    rcases hc with ⟨h, _⟩ | ⟨_, h⟩
    · exact .inl h
    · exact .inr h
  have hdepth : (isSample c && decide (4 ≤ depthOf c x.s)) = false := by
    rcases hc with ⟨_, h⟩ | ⟨h, _⟩
    · simp [h]
    · simp [h]
  rw [← flatMap_ups_single] at hw
  rw [opCall, andThen_ok _ ht, checkTarget_even hodd, andThen_ok _ (look_ok _), if_neg (by rw [hdepth]; decide),
    andThen_ok _ (pushWord_ok (goTo t.2) hsp hlim hp hw)]
  rfl

theorem opRet_ok (hd : isSample c = true → 0 < depthOf c x.s)
    (hr : coreRead c (curSP c (regsOf c x.s)) 4 5 x = .ok v y) :
    opRet c nx x = .ok () { y with s := setDepth c (depthOf c x.s - 1) (setRegs c (setCurSP c { regsOf c y.s with
      pc := BitVec.ofNat 32 v &&& 0xFFFFFFFE#32 } (curSP c (regsOf c y.s) + 4#32)) y.s) } := by
  have hdepth : (isSample c && depthOf c x.s == 0) = false := by
    cases hs : isSample c with
    | false => rfl
    | true => simpa using Nat.pos_iff_ne_zero.mp (hd hs)
  rw [opRet, andThen_ok _ (look_ok _), if_neg (by rw [hdepth]; decide), andThen_ok _ getRegs_ok, andThen_ok _ hr]
  rfl

/-- A jump to where it goes: its operand's pointer updates, then PC. -/
theorem goTo_ok (hw : writeAll c t.1.ups x = .ok () w) : complete c [t.1] [] (goTo nx) x = .ok () (ranOn c (goTo nx) w) := by
  rw [← flatMap_ups_single, ← List.append_nil (List.flatMap _ _)] at hw
  exact complete_ok _ hw

theorem opJmp_ok (ht : flowTarget c e pc x0 = .ok t x) (heven : t.2.getLsbD 0 = false)
    (hw : writeAll c t.1.ups x = .ok () w) : opJmp c e pc x0 = .ok () (ranOn c (goTo t.2) w) := by
  rw [opJmp, andThen_ok _ ht, checkTarget_even (.inr heven)]
  exact goTo_ok hw

theorem opJcc_taken {cc : Nat} (ht : flowTarget c e pc x0 = .ok t x) (hcc : condHolds cc (regsOf c x.s).psw = true)
    (heven : t.2.getLsbD 0 = false) (hw : writeAll c t.1.ups x = .ok () w) :
    opJcc c cc e pc nx x0 = .ok () (ranOn c (goTo t.2) w) := by
  rw [opJcc, andThen_ok _ ht, andThen_ok _ getRegs_ok, if_pos hcc, checkTarget_even (.inr heven)]
  exact goTo_ok hw

theorem opJcc_passed {cc : Nat} (ht : flowTarget c e pc x0 = .ok t x) (hcc : condHolds cc (regsOf c x.s).psw = false)
    (hw : writeAll c t.1.ups x = .ok () w) : opJcc c cc e pc nx x0 = .ok () (ranOn c (goTo nx) w) := by
  rw [opJcc, andThen_ok _ ht, andThen_ok _ getRegs_ok, if_neg (by rw [hcc]; decide)]
  exact goTo_ok hw

end

/-- Settles O27: each instruction's piece, then what a ready core makes of it. -/
theorem stackAndFlow : Obligations.StackAndFlow := by
  unfold Obligations.StackAndFlow
  refine ⟨?push, ?pop, ?call, ?ret, ?jmp, ?jcc⟩
  case push =>
    intro c e s b x y w i sp hready hb hlim hp hw
    have h := exec_ranOn (I := .push c e) rfl rfl hready hw (opPush_ok hb rfl hlim hp hw)
    exact h
  case pop =>
    intro c e s a v x y w i hready ha hr hw
    have h := exec_ranOn (I := .pop c e) rfl rfl hready hw (opPop_ok ha hr hw)
    exact h
  case call =>
    intro c e s t x y w i nx sp hready ht hc hlim hp hw
    have hbody := opCall_ok (nx := nx) ht hc rfl hlim hp hw
    refine exec_plain (I := .call c e) c .call e 0 0 s _ rfl hready rfl ?_ hbody
    exact fun hs => writeAll_ecc c _ y w hs hw
  case ret =>
    intro c e s v y i x hready hd hr hecc
    have hbody := opRet_ok (nx := nextPc i (regsOf c s).pc) hd hr
    refine exec_plain (I := .ret c e) c .ret e 0 0 s _ rfl hready rfl ?_ hbody
    exact fun _ => hecc
  case jmp =>
    intro c e s t x w i hready ht heven hw
    have h := exec_ranOn (I := .jmp c e) rfl rfl hready hw (opJmp_ok ht heven hw)
    exact h
  case jcc =>
    intro c e cc s t x w i hready ht hw
    refine ⟨fun hcc heven => ?taken, fun hcc => ?passed⟩
    case taken =>
      have h := exec_ranOn (I := .jcc c cc e) rfl rfl hready hw (opJcc_taken ht hcc heven hw)
      exact h
    case passed =>
      have h := exec_ranOn (I := .jcc c cc e) rfl rfl hready hw (opJcc_passed ht hcc hw)
      exact h

end Sys2Proof.Machine
end

section
/-! Prefixes, repeats and the paths of one instruction through a core (chapters 5, 7 and 9): what a core does with an
instruction that it has fetched, by the SKP, RPT or RPTI before it. -/

namespace Sys2Proof.Machine
open Sys2Proof

/-! ### The command of an instruction -/

/-- The condition field that the command of an operation carries. -/
def atwardCc (op : AOp) (cc : Fin 16) : Nat := if op = .skp ∨ op = .jcc then cc.val else 0

/-- The elements that the command of an operation carries. -/
def atwardElems (op : AOp) (k : Nat) : Nat := if isBlockOp op then k else 0

theorem exec_atward_eq (c : CoreId) (op : AOp) (e : Enc) (cc : Fin 16) (k : Nat) (s : State) :
    exec (atward c op e cc k) s = .next (coreRun c op e (atwardCc op cc) (atwardElems op k) s) := by
  cases op <;> rfl

/-- Only SKP.cc and Jcc have a condition. -/
theorem legalAlone_atwardCc (c : CoreId) (op : AOp) (e : Enc) (cc : Fin 16) :
    legalAlone c ⟨op, e, atwardCc op cc⟩ = legalAlone c ⟨op, e, cc.val⟩ := by
  cases op <;> rfl

theorem atwardCc_zero (op : AOp) : atwardCc op 0 = 0 := by
  unfold atwardCc
  split <;> rfl

/-! ### Where an instruction begins -/

theorem coreBegin_ecc (c : CoreId) (i : AInstr) (s : State) : (coreBegin c i s).ecc = none := by
  cases c <;> rfl

theorem coreBegin_ctl {c : CoreId} (hs : isSample c = false) (i : AInstr) (s : State) :
    coreBegin c i s = ⟨fetchLines c i (regsOf c s).pc s, retsOf c s, [], none⟩ := by
  cases c with
  | sc n => cases hs
  | cc n => rfl
  | warden => rfl

theorem regsOf_fetchLines {c : CoreId} (hs : isSample c = false) (i : AInstr) (pc : Word) (s : State) :
    regsOf c (fetchLines c i pc s) = regsOf c s := by
  cases c with
  | sc n => cases hs
  | cc n => exact (fetchLines_core ..).1
  | warden => exact (fetchLines_core ..).1

theorem coreRun_ctl {c : CoreId} (hs : isSample c = false) (op : AOp) (e : Enc) (cc k : Nat) (s : State) :
    coreRun c op e cc k s = ctlRun c ⟨op, e, cc⟩ k s := by
  cases c with
  | sc n => cases hs
  | cc n => rfl
  | warden => rfl

/-- A ready core whose instruction changes its registers alone. -/
theorem exec_updRegs {I : Instr} {c : CoreId} {op : AOp} {e : Enc} {cc : Nat} {f : CoreRegs → CoreRegs} {s : State}
    (hI : exec I s = .next (coreRun c op e cc 0 s)) (hplain : plainOp op = true) (hready : coreReady c ⟨op, e, cc⟩ s = true)
    (hbody : opBody c ⟨op, e, cc⟩ (regsOf c s).pc (nextPc ⟨op, e, cc⟩ (regsOf c s).pc) = updRegs c f) :
    exec I s = .next (coreEnd c ⟨op, e, cc⟩
      (setRegs c (f (regsOf c (coreBegin c ⟨op, e, cc⟩ s).s)) (coreBegin c ⟨op, e, cc⟩ s).s)) :=
  exec_plain c op e cc 0 s (ranOn c f (coreBegin c ⟨op, e, cc⟩ s)) hI hready hplain (fun _ => coreBegin_ecc ..)
    (by rw [hbody]; rfl)

/-! ### A control-class core that has fetched an instruction -/

/-- A control-class core runs, no interrupt is due, and every half-word of the instruction is fetched. -/
structure CtlFetches (c : CoreId) (i : AInstr) (s : State) : Prop where
  sample : isSample c = false
  runs : (s.ctlCore (ctlIndex c)).st = .run
  quiet : interruptDue c s = none
  fails : fetchFails c s i (regsOf c s).pc = none
  zero : fetchZero c s i (regsOf c s).pc = none

/-- A skip before the instruction leaves no interruption point. -/
theorem interruptDue_of_skp {c : CoreId} {s : State} (hs : isSample c = false) {x : Word × Bool} (h : (regsOf c s).skp = some x) :
    interruptDue c s = none := by
  have hr : (s.ctlCore (ctlIndex c)).r.skp = some x := by
    cases c with
    | sc n => cases hs
    | cc n => exact h
    | warden => exact h
  simp [interruptDue, atPoint, hr]

section
variable {c : CoreId} {i : AInstr} {k : Nat} {s : State} (h : CtlFetches c i s)
include h

theorem ctlRun_illegal (hbad : badPair (regsOf c s) i.op = false) (hl : legalAlone c i = false)
    (hrpt : (regsOf c s).rpt = none) (hrpti : (regsOf c s).rpti = none) :
    ctlRun c i k s = raise c ⟨1, 0, none, 0⟩ (regsOf c s).pc (fetchLines c i (regsOf c s).pc s) := by
  simp only [ctlRun, h.runs, h.quiet, h.fails, h.zero, hbad, hl, hrpt, hrpti, ne_eq, not_true_eq_false, if_false,
    Option.isSome_none, Bool.false_eq_true, Bool.not_false, if_true]

theorem ctlRun_skipped (hbad : badPair (regsOf c s) i.op = false) (hl : legalAlone c i = true)
    {a : Word} (hskp : (regsOf c s).skp = some (a, false)) :
    ctlRun c i k s = setRegs c (goTo (nextPc i (regsOf c s).pc) (noPrefix (regsOf c s))) (fetchLines c i (regsOf c s).pc s) := by
  simp only [ctlRun, h.runs, h.quiet, h.fails, h.zero, hbad, hl, hskp, ne_eq, not_true_eq_false, if_false,
    Option.isSome_none, Bool.false_eq_true, Bool.not_true, Option.map_some, if_true]

theorem ctlRun_iterates (hbad : badPair (regsOf c s) i.op = false) (hl : legalAlone c i = true)
    (hskp : (regsOf c s).skp = none) (hop : i.op ≠ .reti ∧ i.op ≠ .wait) (hrpt : (regsOf c s).rpt = none)
    {a : Word} (hrpti : (regsOf c s).rpti = some a) :
    ctlRun c i k s = ctlIterate c i (regsOf c s).pc (nextPc i (regsOf c s).pc) a (fetchLines c i (regsOf c s).pc s) := by
  simp only [ctlRun, h.runs, h.quiet, h.fails, h.zero, hbad, hl, hskp, hrpt, hrpti, hop.1, hop.2, ne_eq, not_true_eq_false,
    if_false, Option.isSome_none, Bool.false_eq_true, Bool.not_true, Option.map_none, reduceCtorEq, or_self, false_and]

theorem ctlRun_once (hbad : badPair (regsOf c s) i.op = false) (hl : legalAlone c i = true)
    (hskp : ((regsOf c s).skp.map (·.2)) ≠ some false) (hop : (i.op ≠ .reti ∧ i.op ≠ .wait) ∨ isPrivileged c (regsOf c s) = true)
    (hrpt : (regsOf c s).rpt = none) (hrpti : (regsOf c s).rpti = none) :
    ctlRun c i k s = ctlOnce c i k (regsOf c s).pc (nextPc i (regsOf c s).pc) (fetchLines c i (regsOf c s).pc s) := by
  have hpriv : ¬ ((i.op = .reti ∨ i.op = .wait) ∧ isPrivileged c (regsOf c s) = false) := by
    rcases hop with ⟨h1, h2⟩ | h1
    · simp [h1, h2]
    · simp [h1]
  simp only [ctlRun, h.runs, h.quiet, h.fails, h.zero, hbad, hl, hskp, hrpt, hrpti, hpriv, ne_eq, not_true_eq_false,
    if_false, Option.isSome_none, Bool.false_eq_true, Bool.not_true]

end

/-- What readiness says of any core: its encoding and the prefixes before it. -/
structure ReadyAlone (c : CoreId) (i : AInstr) (s : State) : Prop where
  legal : legalAlone c i = true
  rpt : (regsOf c s).rpt = none
  rpti : (regsOf c s).rpti = none
  skp : ((regsOf c s).skp.map (·.2)) ≠ some false
  bad : badPair (regsOf c s) i.op = false

theorem readyAlone_of_coreReady {c : CoreId} {i : AInstr} {s : State} (h : coreReady c i s = true) : ReadyAlone c i s := by
  simp only [coreReady, Bool.and_eq_true, Bool.or_eq_true, beq_iff_eq, Option.isNone_iff_eq_none, Bool.not_eq_true'] at h
  obtain ⟨⟨⟨⟨hl, hrpt⟩, hrpti⟩, hskp⟩, -⟩ := h
  refine ⟨hl, hrpt, hrpti, ?_, ?_⟩
  · rcases hskp with hskp | ⟨hskp, _⟩ <;> simp [hskp]
  · rcases hskp with hskp | ⟨_, hskp⟩ <;> simp [badPair, hrpt, hrpti, hskp]

theorem ctlFetches_of_coreReady {c : CoreId} {i : AInstr} {s : State} (hs : isSample c = false) (h : coreReady c i s = true) :
    CtlFetches c i s ∧ ((i.op ≠ .reti ∧ i.op ≠ .wait) ∨ isPrivileged c (regsOf c s) = true) := by
  cases c with
  | sc n => cases hs
  | cc n =>
    simp only [coreReady, Bool.and_eq_true, Bool.or_eq_true, beq_iff_eq, bne_iff_ne, Option.isNone_iff_eq_none] at h
    obtain ⟨-, ⟨⟨⟨hst, hint⟩, hff⟩, hfz⟩, hp⟩ := h
    exact ⟨⟨rfl, hst, hint, hff, hfz⟩, hp⟩
  | warden =>
    simp only [coreReady, Bool.and_eq_true, Bool.or_eq_true, beq_iff_eq, bne_iff_ne, Option.isNone_iff_eq_none] at h
    obtain ⟨-, ⟨⟨⟨hst, hint⟩, hff⟩, hfz⟩, hp⟩ := h
    exact ⟨⟨rfl, hst, hint, hff, hfz⟩, hp⟩

/-- A ready control-class core does the instruction once. -/
theorem ctlRun_ready {c : CoreId} {i : AInstr} {s : State} (k : Nat) (hs : isSample c = false) (h : coreReady c i s = true) :
    ctlRun c i k s = ctlOnce c i k (regsOf c s).pc (nextPc i (regsOf c s).pc) (fetchLines c i (regsOf c s).pc s) := by
  obtain ⟨hf, hp⟩ := ctlFetches_of_coreReady hs h
  have hr := readyAlone_of_coreReady h
  exact ctlRun_once hf hr.bad hr.legal hr.skp hp hr.rpt hr.rpti

/-- A piece that ends well, tried from where its instruction begins. -/
theorem attempt_ok {c : CoreId} {i : AInstr} {s : State} (pc : Word) {p : Run Unit} {x : RunSt} (hs : isSample c = false)
    (hp : p (coreBegin c i s) = .ok () x) (hecc : x.ecc = none) :
    attempt c pc p (fetchLines c i (regsOf c s).pc s) = .done (setRets c [] x.s) := by
  rw [coreBegin_ctl hs] at hp
  unfold attempt
  rw [fetchLines_rets, andThen_ok _ hp]
  simp only [eccCheck, hecc]

/-! ### A sample core that has fetched an instruction -/

/-- A sample core that fetches an instruction with no bad repeat or skip before it. -/
theorem scRun_legal {n : Fin 16} {i : AInstr} {s : State} (hact : scActive (s.sc n.val) = true)
    (hfet : scFetchable s n.val (s.sc n.val).r.pc.toNat (instrLen i) = true) (hl : legalAlone (.sc n) i = true)
    (hrpt : ((s.sc n.val).r.rpt.isSome && badAfterRpt i.op) = false)
    (hskp : ((s.sc n.val).r.skp.isSome && badAfterSkp i.op) = false) :
    scRun n i s = if ((s.sc n.val).r.skp.map (·.2)) = some false
      then scSpend n.val (slotCost i) (scRegs n (goTo (nextPc i (s.sc n.val).r.pc)) (coreBegin (.sc n) i s).s)
      else if isBlockOp i.op then scBlock n i (nextPc i (s.sc n.val).r.pc) (coreBegin (.sc n) i s).s
      else scRepeat n i (s.sc n.val).r.pc (nextPc i (s.sc n.val).r.pc) (((s.sc n.val).r.rpt.map (·.2)).getD 1)
        (coreBegin (.sc n) i s).s := by
  unfold scRun
  simp only [hact, hfet, hl, hrpt, hskp, Bool.or_self, Bool.not_true, Bool.false_eq_true, if_false, Bool.false_or]
  rcases h1 : (s.sc n.val).r.skp with _ | ⟨a, _ | _⟩ <;> rcases h2 : (s.sc n.val).r.rpt with _ | ⟨b, m⟩ <;> rfl

theorem scRepeat_eq_iterate (n : Fin 16) (i : AInstr) (pc nx : Word) (m : Nat) (s : State) :
    scRepeat n i pc nx m s = (scOnce n i pc nx)^[m] s := by
  induction m generalizing s with
  | zero => rfl
  | succ m ih => exact ih _

/-! ### The prefixes -/

theorem opRpti_ok {c : CoreId} {e : Enc} {pc nx : Word} {a : Opd} {x0 x w : RunSt} (hsh : e.shape ≠ 6)
    (ha : readOperand c 1 4 e.a x0 = .ok a x) (hw : writeAll c a.ups x = .ok () w) :
    opRpti c e pc nx x0 = .ok () (ranOn c (rptiRegs pc nx (BitVec.ofNat 32 a.val) (steppedCell e.a a.ups)) w) := by
  rw [← flatMap_ups_single, ← List.append_nil (List.flatMap _ _)] at hw
  rw [opRpti, if_neg (by simpa using hsh), andThen_ok _ ha]
  exact complete_ok _ hw

/-- Settles O28: SKP, RPT, RPTI, END and NOP as plain ones, then an instruction skipped, one repeated and one iterated. -/
theorem skipsRepeatsAndEnd : Obligations.SkipsRepeatsAndEnd := by
  unfold Obligations.SkipsRepeatsAndEnd
  refine ⟨?prefixes, ?rptiOperand, ?endFrame, ?skipped, ?repeated, ?iterated⟩
  case prefixes =>
    intro c e cc s r pc done
    refine ⟨fun hready => ?skp, fun hready => ?rpt, fun hready hsh => ?rpti, fun hready => ?nop⟩
    case skp =>
      have h := exec_updRegs (I := .skpCc c cc e) (f := fun r => { r with
        pc := nextPc ⟨.skp, e, cc.val⟩ pc, skp := some (pc, condHolds cc.val r.psw) }) rfl rfl hready rfl
      exact h
    case rpt =>
      have h := exec_updRegs (I := .rpt c e) (f := fun r => { r with
        pc := nextPc ⟨.rpt, e, 0⟩ pc, rpt := some (pc, rptCount e) }) rfl rfl hready rfl
      exact h
    case rpti =>
      have hbody : ∀ pc nx, opRpti c e pc nx = updRegs c (rptiRegs pc nx (BitVec.ofNat 32 e.imm) none) := fun _ _ =>
        if_pos (by simpa using hsh)
      have h := exec_updRegs (I := .rpti c e) rfl rfl hready (hbody _ _)
      exact h
    case nop =>
      have h := exec_updRegs (I := .nop c e) rfl rfl hready rfl
      exact h
  case rptiOperand =>
    intro c e s a x w i hready hsh ha hw
    have h := exec_ranOn (I := .rpti c e) rfl rfl hready hw (opRpti_ok hsh ha hw)
    exact h
  case endFrame =>
    intro n e s i t hready
    exact exec_plain (I := .endFrame (.sc n) e) (.sc n) .endFrame e 0 0 s (ranOn (.sc n) (goTo _) ⟨t, [], [], none⟩) rfl hready
      rfl (fun _ => rfl) rfl
  case skipped =>
    intro c op e cc k s a i r hskp hrpt hrpti hbad hl
    have hl' : legalAlone c ⟨op, e, atwardCc op cc⟩ = true := (legalAlone_atwardCc c op e cc).trans hl
    refine ⟨?sample, ?control⟩
    case sample =>
      rintro n rfl hact hfet
      have hrun := scRun_legal (i := ⟨op, e, atwardCc op cc⟩) hact hfet hl' (by rw [show (s.sc n.val).r.rpt = none from hrpt]; rfl)
        (by rw [show badAfterSkp op = false from hbad, Bool.and_false])
      rw [exec_atward_eq]
      show Host.Outcome.next (scRun n ⟨op, e, atwardCc op cc⟩ s) = _
      rw [hrun, if_pos (by rw [show (s.sc n.val).r.skp = some (a, false) from hskp]; rfl)]
      rfl
    case control =>
      intro hs hst hff hfz
      have hf : CtlFetches c ⟨op, e, atwardCc op cc⟩ s := ⟨hs, hst, interruptDue_of_skp hs hskp, hff, hfz⟩
      have hpair : badPair (regsOf c s) op = false := by
        simp [badPair, show (regsOf c s).rpt = none from hrpt, show (regsOf c s).rpti = none from hrpti, hbad]
      rw [exec_atward_eq, coreRun_ctl hs, ctlRun_skipped hf hpair hl' hskp]
      rfl
  case repeated =>
    intro n op e s a m i r hrpt hskp hbad hl hact hfet
    have hblock : isBlockOp op = false := by
      cases op <;> simp_all [badAfterRpt, isBlockOp]
    have hrun := scRun_legal hact hfet hl (by rw [show badAfterRpt i.op = false from hbad, Bool.and_false])
      (by rw [show (s.sc n.val).r.skp = none from hskp]; rfl)
    rw [exec_atward_eq, atwardCc_zero]
    show Host.Outcome.next (scRun n i s) = _
    rw [hrun, if_neg (by rw [show (s.sc n.val).r.skp = none from hskp]; simp), if_neg (by rw [show i.op = op from rfl, hblock]; decide),
      show (s.sc n.val).r.rpt = some (a, m) from hrpt, scRepeat_eq_iterate]
    rfl
  case iterated =>
    intro c op e s a x i r hs hst hrpti hrpt hskp hrpc hbad hl hint hff hfz hbody hecc t left
    have hf : CtlFetches c i s := ⟨hs, hst, hint, hff, hfz⟩
    have hpair : badPair (regsOf c s) i.op = false := by
      simp [badPair, show (regsOf c s).skp = none from hskp, show badAfterRpt i.op = false from hbad]
    have hop : i.op ≠ .reti ∧ i.op ≠ .wait := by
      constructor <;> rintro rfl <;> cases hbad
    have hrpc' : ¬ (regsOf c (fetchLines c i (regsOf c s).pc s)).rpc = 0#32 := by
      rw [regsOf_fetchLines hs]
      exact hrpc
    rw [exec_atward_eq, atwardCc_zero, coreRun_ctl hs, ctlRun_iterates hf hpair hl hskp hop hrpt hrpti, ctlIterate, if_neg hrpc',
      attempt_ok a hs hbody hecc]

end Sys2Proof.Machine
end

section
/-! Lanes, biquad sections, system registers and cache invalidations (chapters 5, 7 and 9). -/

namespace Sys2Proof.Machine
open Sys2Proof

/-! ### Lanes -/

theorem scLaneIn_plain {n l : Nat} {s : State} (h : ((s.sc n).edges.find? fun e => e.1 == l) = none) :
    scLaneIn n l s = if laneDom s l = some (s.sc n).dom then ((scLaneVal n l s).toNat, s)
      else if laneDom s l = none then (0, s) else (0, engEvent 2 n s) := by
  simp only [scLaneIn, h]

/-- Through an armed edge entry, both lanes written in the reader's domain. -/
theorem scLaneIn_edge {n l old f : Nat} {s : State} (h : ((s.sc n).edges.find? fun e => e.1 == l) = some (l, old, f))
    (hl : laneDom s l = some (s.sc n).dom) (ho : laneDom s old = some (s.sc n).dom) :
    scLaneIn n l s = ((BitVec.ofInt 32
      (((scLaneVal n old s).toInt * (64 - (f : Int)) + (scLaneVal n l s).toInt * (f : Int)) / 64)).toNat, s) := by
  simp only [scLaneIn, h, edgeBlend, hl, ho, BEq.rfl, if_true, Bool.and_self]

section
variable {c : CoreId} {e : Enc} {a b m : Opd} {v : Nat} {x0 x y z w : RunSt} {nx : Word}

theorem opLin_ok (ha : destOperand c 1 4 e.a x0 = .ok a x) (hb : readOperand c 2 4 e.b x = .ok b y)
    (hl : laneIn c (b.val % 1024) y = .ok v z) (hw : writeAll c (a.ups ++ b.ups ++ resultTo a 4 v) z = .ok () w) :
    opLin c e nx x0 = .ok () (ranOn c (goTo nx) w) := by
  rw [← flatMap_ups_pair] at hw
  rw [opLin, andThen_ok _ ha, andThen_ok _ hb, andThen_ok _ hl]
  exact complete_ok _ hw

/-- Only a sample core puts a value into a lane. -/
theorem isSample_of_laneOut {l : Nat} (h : laneOut c l v y = .ok () z) : isSample c = true := by
  cases c with
  | sc n => rfl
  | cc n => cases h
  | warden => cases h

theorem opLout_ok (ha : readOperand c 1 4 e.a x0 = .ok a x) (hb : readOperand c 2 4 e.b x = .ok b y)
    (hl : laneOut c (a.val % 1024) b.val y = .ok () z) (hw : writeAll c (a.ups ++ b.ups) z = .ok () w) :
    opLout c e nx x0 = .ok () (ranOn c (goTo nx) w) := by
  have hr : laneReach c (a.val % 1024) x = .ok () x := by
    rw [laneReach, if_pos (isSample_of_laneOut hl)]
    rfl
  rw [← flatMap_ups_pair, ← List.append_nil (List.flatMap _ _)] at hw
  rw [opLout, andThen_ok _ ha, andThen_ok _ hr, andThen_ok _ hb, andThen_ok _ hl]
  exact complete_ok _ hw

/-! ### System registers -/

theorem opMfs_ok (ha : destOperand c 1 4 e.a x0 = .ok a x) (hb : readOperand c 2 4 e.b x = .ok m y)
    (hw : writeAll c (a.ups ++ m.ups ++ resultTo a 4
      (sysRead c (regsOf c y.s) e.imm &&& BitVec.ofNat 32 m.val).toNat) y = .ok () w) :
    opMfs c e nx x0 = .ok () (ranOn c (goTo nx) w) := by
  rw [← flatMap_ups_pair] at hw
  rw [opMfs, andThen_ok _ ha, andThen_ok _ hb, andThen_ok _ getRegs_ok]
  exact complete_ok _ hw

theorem opMts_ok {new : Word}
    (hp : sysPrivileged e.imm = true → isSample c = false → isPrivileged c (regsOf c x0.s) = true)
    (ha : readOperand c 1 4 e.a x0 = .ok a x) (hb : readOperand c 2 4 e.b x = .ok m y)
    (hnew : (sysRead c (regsOf c x0.s) e.imm &&& ~~~BitVec.ofNat 32 m.val) ||| (BitVec.ofNat 32 a.val &&& BitVec.ofNat 32 m.val)
      = new)
    (hw : writeAll c (a.ups ++ m.ups) y = .ok () w) :
    opMts c e nx x0 = .ok () { w with
      s := if e.imm = 20 then cacheOp (ctlIndex c) new.toNat (ranOn c (fun r => goTo nx (sysWrite c e.imm new r)) w).s
        else (ranOn c (fun r => goTo nx (sysWrite c e.imm new r)) w).s } := by
  have hpriv : (sysPrivileged e.imm && coreClass c != 0 && !isPrivileged c (regsOf c x0.s)) = false := by
    cases h1 : sysPrivileged e.imm with
    | false => rfl
    | true =>
      cases c with
      | sc n => rfl
      | cc n => simp [hp h1 rfl]
      | warden => simp [hp h1 rfl]
  subst hnew
  rw [← flatMap_ups_pair, ← List.append_nil (List.flatMap _ _)] at hw
  rw [opMts, andThen_ok _ getRegs_ok, if_neg (by rw [hpriv]; decide), andThen_ok _ ha, andThen_ok _ hb,
    andThen_ok _ (complete_ok _ hw)]
  split <;> rfl

/-! ### Biquad sections -/

theorem satRnd_32 (v : Int) : satRnd 32 v = (max (-2147483648) (min 2147483647 ((v + 8388608) / 16777216)),
    decide (max (-2147483648) (min 2147483647 ((v + 8388608) / 16777216)) ≠ (v + 8388608) / 16777216)) := by
  obtain ⟨h1, h2⟩ := satRnd_eq_max_min 32 v
  rw [h1] at h2
  exact Prod.ext h1 h2

theorem setVS_eq (psw : Word) (v : Bool) :
    setVS psw v = if v then wsetBit (wsetBit psw 0 true) 8 true else wsetBit psw 0 false := by
  cases v <;> rfl

/-- A section's word outside the Crucible is written. -/
theorem bqdWrite_of_ne {ea : Word} (h : isSample c = true → regionOf ea.toNat ≠ .crucible) (v : Word) :
    bqdWrite c ea v = ([⟨ea, 4, v.toNat, 1⟩], false) := by
  cases c with
  | sc n => exact if_neg (h rfl)
  | cc n => rfl
  | warden => rfl

theorem opBqd_ok {ea s1 s2 xv b0 b1 b2 a1 a2 : Word} {z1 z2 z3 z4 z5 z6 z7 z8 z9 z10 z11 : RunSt} {o : BqdOut}
    (ho : biquad b0 b1 b2 a1 a2 xv s1 s2 = o)
    (ha : addrOperand c 1 4 e.a x0 = .ok a x) (hea : a.addr = some ea)
    (h1 : bqdRead c ea 1 x = .ok s1 z1) (h2 : bqdRead c (ea + 0x80#32) 1 z1 = .ok s2 z2)
    (h3 : bqdRead c (ea + 0x100#32) 1 z2 = .ok xv z3) (h4 : coreProbe c ea 4 1 z3 = .ok () z4)
    (h5 : coreProbe c (ea + 0x80#32) 4 1 z4 = .ok () z5) (h6 : coreProbe c (ea + 0x104#32) 4 1 z5 = .ok () z6)
    (hb : addrOperand c 2 4 e.b z6 = .ok b y) (h7 : bqdCoef c b 0#32 y = .ok b0 z7)
    (h8 : bqdCoef c b 0x80#32 z7 = .ok b1 z8) (h9 : bqdCoef c b 0x100#32 z8 = .ok b2 z9)
    (h10 : bqdCoef c b 0x180#32 z9 = .ok a1 z10) (h11 : bqdCoef c b 0x200#32 z10 = .ok a2 z11)
    (hreg : isSample c = true → [ea, ea + 0x80#32, ea + 0x104#32].all (fun a => regionOf a.toNat != .crucible) = true)
    (hw : writeAll c (a.ups ++ b.ups ++ [⟨ea + 0x104#32, 4, o.y.toNat, 1⟩, ⟨ea, 4, o.s1.toNat, 1⟩,
      ⟨ea + 0x80#32, 4, o.s2.toNat, 1⟩]) z11 = .ok () w) :
    opBqd c e nx x0 = .ok () (ranOn c (fun r => { r with pc := nx, psw := setVS r.psw o.sat }) w) := by
  have hout : ∀ d ∈ [ea, ea + 0x80#32, ea + 0x104#32], isSample c = true → regionOf d.toNat ≠ .crucible := by
    intro d hd hs
    have hall := List.all_eq_true.mp (hreg hs) d hd
    exact bne_iff_ne.mp hall
  have hwy := bqdWrite_of_ne (hout (ea + 0x104#32) (by simp)) o.y
  have hw1 := bqdWrite_of_ne (hout ea (by simp)) o.s1
  have hw2 := bqdWrite_of_ne (hout (ea + 0x80#32) (by simp)) o.s2
  rw [← flatMap_ups_pair] at hw
  rw [opBqd, andThen_ok _ ha]
  simp only [hea, Option.getD_some]
  rw [andThen_ok _ h1, andThen_ok _ h2, andThen_ok _ h3, andThen_ok _ h4, andThen_ok _ h5, andThen_ok _ h6, andThen_ok _ hb,
    andThen_ok _ h7, andThen_ok _ h8, andThen_ok _ h9, andThen_ok _ h10, andThen_ok _ h11]
  simp only [ho, hwy, hw1, hw2]
  have hdone := complete_ok (fun r : CoreRegs => { r with pc := nx, psw := setVS r.psw o.sat }) hw
  cases c <;> exact hdone

end

/-- Settles O29: each instruction's piece, the lanes as a sample core meets them, and the cache operations. -/
theorem lanesFiltersAndSystemRegisters : Obligations.LanesFiltersAndSystemRegisters := by
  unfold Obligations.LanesFiltersAndSystemRegisters
  refine ⟨?lin, ?laneIn, ?edge, ?lout, ?laneOut, ?bqd, ?coef, ?mfs, ?mts, ?caches⟩
  case lin =>
    intro c e s a b v x y z w i hready ha hb hl hw
    have h := exec_ranOn (I := .lin c e) rfl rfl hready hw (opLin_ok ha hb hl hw)
    exact h
  case laneIn =>
    intro n l x hedge now
    have hin : laneIn (.sc n) l x = .ok (scLaneIn n l x.s).1 { x with s := (scLaneIn n l x.s).2 } := rfl
    rw [scLaneIn_plain hedge] at hin
    refine ⟨fun hmine => ?mine, fun hnone => ?unwritten, fun d hd hne => ?foreign⟩
    case mine => rw [hin, if_pos hmine]; rfl
    case unwritten => rw [hin, if_neg (by rw [hnone]; simp), if_pos hnone]
    case foreign => rw [hin, if_neg (by rw [hd]; simpa using hne), if_neg (by rw [hd]; simp)]
  case edge =>
    intro n l old f x hedge hl ho
    have hin : laneIn (.sc n) l x = .ok (scLaneIn n l x.s).1 { x with s := (scLaneIn n l x.s).2 } := rfl
    rw [hin, scLaneIn_edge hedge hl ho]
  case lout =>
    intro c e s a b x y z w i hready ha hb hl hw
    have h := exec_ranOn (I := .lout c e) rfl rfl hready hw (opLout_ok ha hb hl hw)
    exact h
  case laneOut =>
    intro n l v x hmine
    show Res.ok () { x with s := scLaneOut n l v x.s } = _
    rw [scLaneOut, if_pos hmine]
  case bqd =>
    intro c e s a b ea s1 s2 xv b0 b1 b2 a1 a2 x y z1 z2 z3 z4 z5 z6 z7 z8 z9 z10 z11 w i r y' t1 t2 high
      hready ha hea h1 h2 h3 h4 h5 h6 hb h7 h8 h9 h10 h11 hreg hw
    have ho : biquad b0 b1 b2 a1 a2 xv s1 s2
        = ⟨BitVec.ofInt 32 y', BitVec.ofInt 32 t1, BitVec.ofInt 32 t2, high⟩ := by
      simp only [biquad, satRnd_32]
      rfl
    have h := exec_ranOn (I := .bqd c e) rfl rfl hready hw
      (opBqd_ok ho ha hea h1 h2 h3 h4 h5 h6 hb h7 h8 h9 h10 h11 hreg hw)
    simp only [setVS_eq] at h
    exact h
  case coef =>
    intro c b off x
    refine ⟨fun eb hb => ?_, fun hb => ?_⟩ <;> simp only [bqdCoef, hb]
    rfl
  case mfs =>
    intro c e s a m x y w i hready ha hb hw
    have h := exec_ranOn (I := .mfs c e) rfl rfl hready hw (opMfs_ok ha hb hw)
    exact h
  case mts =>
    intro c e s v m x y w i r mk new t hready hp ha hb hw
    have hbody := opMts_ok (nx := nextPc i (regsOf c s).pc) (new := new) hp ha hb rfl hw
    refine exec_plain (I := .mts c e) c .mts e 0 0 s _ rfl hready rfl ?_ hbody
    exact fun hs => writeAll_ecc c _ y w hs hw
  case caches =>
    intro c s x line
    exact ⟨rfl, rfl, rfl, rfl⟩

end Sys2Proof.Machine
end

section
/-! Traps, waits and returns of a control-class core (chapters 7 and 9). -/

namespace Sys2Proof.Machine
open Sys2Proof

theorem opLegal_of_legalAlone {c : CoreId} {i : AInstr} (h : legalAlone c i = true) :
    opLegal (isSample c) (coreClass c) i = true := by
  simp only [legalAlone, Bool.and_eq_true] at h
  exact h.2

/-- RPTI, RETI, WAIT and SYS are legal on control-class cores alone (R283). -/
theorem control_of_ready {c : CoreId} {op : AOp} {e : Enc} {cc : Nat} {s : State} (h : coreReady c ⟨op, e, cc⟩ s = true)
    (hop : op = .rpti ∨ op = .reti ∨ op = .wait ∨ op = .sys) : isSample c = false := by
  have hl := opLegal_of_legalAlone (readyAlone_of_coreReady h).legal
  rcases hop with rfl | rfl | rfl | rfl <;> simpa [opLegal] using hl

section
variable {c : CoreId} {i : AInstr} {s : State}

/-- The registers and the fetch of a ready control-class core whose prefixes are used up. -/
theorem noPrefix_fetched (hs : isSample c = false) :
    setRegs c (noPrefix (regsOf c (fetchLines c i (regsOf c s).pc s))) (fetchLines c i (regsOf c s).pc s)
      = setRegs c (noPrefix (regsOf c s)) (coreBegin c i s).s := by
  rw [regsOf_fetchLines hs, coreBegin_ctl hs]

/-- A piece that raises an exception, tried from where its instruction begins: the registers stand as they were (R241). -/
theorem attempt_flt {pc : Word} {p : Run Unit} {f : Flt} {x : RunSt} (hs : isSample c = false)
    (hp : p (coreBegin c i s) = .flt f x) :
    attempt c pc p (fetchLines c i (regsOf c s).pc s) = .raised (raise c f pc (setRets c [] (setRegs c (regsOf c s) x.s))) := by
  rw [coreBegin_ctl hs] at hp
  unfold attempt andThen
  rw [fetchLines_rets, hp, regsOf_fetchLines hs]

/-- A piece that ends well but met an ECC error, tried likewise. -/
theorem attempt_ecc {pc : Word} {p : Run Unit} {f : Flt} {x : RunSt} (hs : isSample c = false)
    (hp : p (coreBegin c i s) = .ok () x) (hecc : x.ecc = some f) :
    attempt c pc p (fetchLines c i (regsOf c s).pc s) = .raised (raise c f pc (setRets c [] (setRegs c (regsOf c s) x.s))) := by
  rw [coreBegin_ctl hs] at hp
  unfold attempt
  rw [fetchLines_rets, andThen_ok _ hp, regsOf_fetchLines hs]
  simp only [eccCheck, hecc]

/-- A plain instruction whose piece raises is over with the entry. -/
theorem ctlOnce_raised {k : Nat} {pc nx : Word} {t u : State} (hplain : plainOp i.op = true)
    (h : attempt c pc (opBody c i pc nx) t = .raised u) : ctlOnce c i k pc nx t = u := by
  obtain ⟨op, e, cc⟩ := i
  simp only [plainOp, Bool.and_eq_true, Bool.not_eq_true', bne_iff_ne] at hplain
  obtain ⟨⟨⟨hblock, hreti⟩, hwait⟩, hsys⟩ := hplain
  simp only [ctlOnce, hblock, Bool.false_eq_true, if_false]
  cases op <;> simp_all only [ne_eq, not_true_eq_false]

/-- A ready control-class core whose plain instruction raises enters the exception with the instruction's own address. -/
theorem exec_raised {op : AOp} {e : Enc} {cc : Fin 16} {k : Nat} {f : Flt} {x : RunSt} (hs : isSample c = false)
    (hready : coreReady c ⟨op, e, atwardCc op cc⟩ s = true) (hplain : plainOp op = true)
    (h : attempt c (regsOf c s).pc (opBody c ⟨op, e, atwardCc op cc⟩ (regsOf c s).pc (nextPc ⟨op, e, atwardCc op cc⟩ (regsOf c s).pc))
      (fetchLines c ⟨op, e, atwardCc op cc⟩ (regsOf c s).pc s)
      = .raised (raise c f (regsOf c s).pc (setRets c [] (setRegs c (regsOf c s) x.s)))) :
    exec (atward c op e cc k) s = .next (raise c f (regsOf c s).pc (setRets c [] (setRegs c (regsOf c s) x.s))) := by
  rw [exec_atward_eq, coreRun_ctl hs, ctlRun_ready _ hs hready, ctlOnce_raised hplain h]

end

theorem plainOp_of_ne {op : AOp} (h1 : isBlockOp op = false) (h2 : op ≠ .reti) (h3 : op ≠ .wait) (h4 : op ≠ .sys) :
    plainOp op = true := by
  simp only [plainOp, h1, Bool.not_false, Bool.true_and, Bool.and_eq_true, bne_iff_ne]
  exact ⟨⟨h2, h3⟩, h4⟩

/-- What RETI does once its pops have all come (R253). -/
theorem returnFrom_popped {c : CoreId} {s t u : State} {psw pc : Word} {blk : List Word}
    (h2 : popMany c 2 s = ([psw, pc], t)) (h3 : popMany c (if psw.getLsbD 28 then 3 else 0) t = (blk, u))
    (hlen : blk.length = (if psw.getLsbD 28 then 3 else 0)) :
    returnFrom c s =
      let act := (u.ctlCore (ctlIndex c)).active &&& ((u.ctlCore (ctlIndex c)).active - 1#8)
      let v := if pc.getLsbD 0 then u.setCtl (ctlIndex c) { u.ctlCore (ctlIndex c) with active := act, runlvl := lowestBit act }
        else u
      setRegs c { regsOf c v with
        psw := (psw &&& 0x70FF011F#32) ||| ((regsOf c v).psw &&& 0x80000000#32)
        pc := pc &&& 0xFFFFFFFE#32
        bsrc := (blk[0]?).getD (regsOf c v).bsrc
        bdst := (blk[1]?).getD (regsOf c v).bdst
        bcnt := (blk[2]?).getD (regsOf c v).bcnt } v := by
  have h3' : popMany c (if wbit psw pswBA then 3 else 0) t = (blk, u) := h3
  have hlen' : blk.length = (if wbit psw pswBA then 3 else 0) := hlen
  simp only [returnFrom, h2, h3', hlen', if_true]
  rfl

/-- Settles O32: each trap and return by the path that a ready core takes. -/
theorem trapsWaitsAndReturns : Obligations.TrapsWaitsAndReturns := by
  unfold Obligations.TrapsWaitsAndReturns
  refine ⟨?sys, ?wait, ?wake, ?reti, ?raised, ?ecc, ?illegal⟩
  case sys =>
    intro c e s i hready
    have hs := control_of_ready hready (.inr (.inr (.inr rfl)))
    have hrun : exec (.sysCall c e) s = .next (coreRun c .sys e 0 0 s) := rfl
    rw [hrun, coreRun_ctl hs, ctlRun_ready 0 hs hready, ← noPrefix_fetched hs]
    simp only [ctlOnce, isBlockOp, Bool.false_eq_true, if_false, raise, Nat.zero_mul, Nat.add_zero]
    rfl
  case wait =>
    intro c e s i t u hready
    have hs := control_of_ready hready (.inr (.inr (.inl rfl)))
    have hrun : exec (.wait c e) s = .next (coreRun c .wait e 0 0 s) := rfl
    have hgo : ctlOnce c i 0 (regsOf c s).pc (nextPc i (regsOf c s).pc) (fetchLines c i (regsOf c s).pc s)
        = ctlWait c (nextPc i (regsOf c s).pc) t := by
      simp only [ctlOnce, noPrefix_fetched hs]
      rfl
    rw [hrun, coreRun_ctl hs, ctlRun_ready 0 hs hready, hgo]
    rfl
  case wake =>
    intro c s l src hs hst htaken t
    have hrun : exec (.waitWake c) s = .next (waitWake c s) := rfl
    simp only [hrun, waitWake, hs, hst, htaken, Bool.not_false, BEq.rfl, Bool.and_self, if_true]
    rfl
  case reti =>
    intro c e s t u psw pc blk i k hready h2 h3 hlen act v r
    have hs := control_of_ready hready (.inr (.inl rfl))
    have hrun : exec (.reti c e) s = .next (coreRun c .reti e 0 0 s) := rfl
    have hgo : ctlOnce c i 0 (regsOf c s).pc (nextPc i (regsOf c s).pc) (fetchLines c i (regsOf c s).pc s)
        = returnFrom c (setRegs c (noPrefix (regsOf c s)) (coreBegin c i s).s) := by
      simp only [ctlOnce, noPrefix_fetched hs]
      rfl
    rw [hrun, coreRun_ctl hs, ctlRun_ready 0 hs hready, hgo, returnFrom_popped h2 h3 hlen]
  case raised =>
    intro c op e cc k s f x i r hs hready hblock hreti hwait hsys hbody
    exact exec_raised hs hready (plainOp_of_ne hblock hreti hwait hsys) (attempt_flt hs hbody)
  case ecc =>
    intro c op e cc k s f x i r hs hready hblock hreti hwait hsys hbody hecc
    exact exec_raised hs hready (plainOp_of_ne hblock hreti hwait hsys) (attempt_ecc hs hbody hecc)
  case illegal =>
    intro c op e cc k s i r hl hskp hrpt hrpti
    refine ⟨?control, ?sample⟩
    case control =>
      intro hs hst hint hff hfz
      have hf : CtlFetches c i s := ⟨hs, hst, hint, hff, hfz⟩
      have hpair : badPair (regsOf c s) i.op = false := by
        simp [badPair, show (regsOf c s).rpt = none from hrpt, show (regsOf c s).rpti = none from hrpti,
          show (regsOf c s).skp = none from hskp]
      rw [exec_atward_eq, coreRun_ctl hs]
      exact congrArg _ (ctlRun_illegal hf hpair hl hrpt hrpti)
    case sample =>
      rintro n rfl hact hfet
      have h1 : (s.sc n.val).r.skp = none := hskp
      have h2 : (s.sc n.val).r.rpt = none := hrpt
      have h3 : scFetchable s n.val (s.sc n.val).r.pc.toNat (instrLen i) = true := hfet
      have hrun : scRun n i s = scSpend n.val 1 (scRegs n (goTo (nextPc i r.pc)) (recordCause n.val 3 (coreBegin (.sc n) i s).s)) := by
        simp only [scRun, hact, h3, hl, h1, h2, Bool.not_true, Bool.false_eq_true, if_false, Option.isSome_none, Bool.false_and,
          Bool.or_self, Bool.not_false, if_true]
        rfl
      rw [exec_atward_eq]
      exact congrArg _ hrun

end Sys2Proof.Machine
end

section
/-! Strikes and hinges, the clocks' losses and returns, hinge ticks and bridges (chapters 3, 4 and 15). -/

namespace Sys2Proof.Machine
open Sys2Proof

/-! ### The upsets of a strike -/

/-- An upset changes the memory it strikes and that memory's check bits alone. -/
theorem eccUpset_rest (u : Nat × Nat) (s : State) :
    eccUpset u s = { s with mem := (eccUpset u s).mem, ecc := (eccUpset u s).ecc } := by
  by_cases h : eccWidth u.1 = 0
  · simp only [eccUpset, h, if_true]
  · simp only [eccUpset, h, if_false]

theorem foldl_eccUpset_rest (us : List (Nat × Nat)) (s : State) :
    us.foldl (fun s u => eccUpset u s) s = { s with
      mem := (us.foldl (fun s u => eccUpset u s) s).mem, ecc := (us.foldl (fun s u => eccUpset u s) s).ecc } := by
  induction us generalizing s with
  | nil => rfl
  | cons u us ih =>
    rw [List.foldl_cons]
    have h := ih (eccUpset u s)
    conv at h => rhs; rw [eccUpset_rest u s]
    rw [h]

theorem exec_strike (d : Dom) (inp : StrikeIn) (s : State) : exec (.strike d inp) s = .next (strike d inp s) := rfl
theorem exec_housekeeping (d : Dom) (s : State) : exec (.housekeeping d) s = .next (housekeeping d s) := rfl
theorem exec_hinge (s : State) : exec .hinge s = .next (hinge s) := rfl

/-- Settles O8: a strike, a frame's end and a hinge in the order of their parts. -/
theorem strikesFrameTheEngine : Obligations.StrikesFrameTheEngine := by
  unfold Obligations.StrikesFrameTheEngine
  intro upset
  refine ⟨?upsets, ?strikes, ?counts, ?first, ?frameEnd, ?hinge, ?stopped⟩
  case upsets =>
    intro s d inp
    exact ⟨foldl_eccUpset_rest _ _, by rw [exec_strike, exec_strike]; rfl⟩
  case strikes =>
    intro s inp hrun hup
    have hf : strike .f inp s = pilotsAdvance (senseStrike inp.sense (commonStrike .f inp (pilotsScale (frameAdvance s)))) := by
      simp only [strike, hup, List.foldl_nil, hrun, if_true]
    have hm : strike .m inp s = mediaStrike inp.mic inp.sense (commonStrike .m inp (rxStreamsFrame s)) := by
      simp only [strike, hup, List.foldl_nil, hrun, if_true]
    have hv : strike .v inp s = commonStrike .v inp s := by
      simp only [strike, hup, List.foldl_nil, hrun, if_true]
    rw [exec_strike, exec_strike, exec_strike, hf, hm, hv]
    exact ⟨rfl, rfl, rfl⟩
  case counts =>
    intro s h
    simp only [frameAdvance, h, Bool.false_eq_true, if_false, and_self]
  case first =>
    intro s h
    simp [frameAdvance, h]
  case frameEnd =>
    intro s d hrun
    have h : housekeeping d s = if d = .f then senseBuffered (summaryCheck (housekeep d s)) else summaryCheck (housekeep d s) := by
      simp only [housekeeping, hrun, if_true]
    rw [exec_housekeeping, h]
  case hinge =>
    intro s hrun s1 o
    have h : hinge s = summaryCheck (sleepCount (hingeEnd
      (refreshStarted (commitStep o.2 (tenantsH1 (hingeBuffered o.1)))))) := by
      simp only [hinge, hrun, if_true]
      rfl
    rw [exec_hinge, h]
  case stopped =>
    intro s d inp hrun hup
    have h1 : strike d inp s = s := by
      simp only [strike, hup, List.foldl_nil, hrun, Bool.false_eq_true, if_false]
    have h2 : housekeeping d s = s := by
      simp only [housekeeping, hrun, Bool.false_eq_true, if_false]
    have h3 : hinge s = s := by
      simp only [hinge, hrun, Bool.false_eq_true, if_false]
    rw [exec_strike, exec_housekeeping, exec_hinge, h1, h2, h3]
    exact ⟨rfl, rfl, rfl⟩

/-! ### Notices -/

@[simp] theorem noticePost_mclk (x : Nat) (b : Word) (s : State) : (noticePost x b s).mclk = s.mclk := by
  unfold noticePost
  dsimp only
  split <;> rfl

/-- The notice of the clock monitor: bit k is the loss of clock k, but for the crystal's, which crosses with the media
clocks' notices. -/
theorem monitorNotice_of_high {b h : Word} {l : List Nat} (hb : b &&& 0xFFFF0000#32 = h)
    (hl : (bitsOf 4 (h.toNat / 65536)).filter (· ≠ 2) = l) (s : State) : monitorNotice b s = sqSet Reg.clkMon l s := by
  have hq : b.toNat / 65536 = h.toNat / 65536 := by
    have hw : b >>> 16 = h >>> 16 := by
      rw [← hb]
      ext i hi
      simp only [BitVec.getElem_ushiftRight, BitVec.getLsbD_and]
      interval_cases i <;> simp
    have := congrArg BitVec.toNat hw
    simpa [BitVec.toNat_ushiftRight, Nat.shiftRight_eq_div_pow] using this
  rw [monitorNotice, hq, hl]

/-- Taking the one notice of a crossing leaves the crossing idle. -/
theorem noticeArrive_last {x : Nat} {b : Word} {s : State} (hf : (s.notice x).inFlight = true) (hp : (s.notice x).pend = false)
    (hb : (s.notice x).flying = b) : noticeArrive x s = (s.setNotice x Notice.idle, b) := by
  simp only [noticeArrive, hf, hp, hb, if_true, Bool.false_eq_true, if_false]

/-! ### The clocks -/

/-- With the network clock's return the far sides of its four FIFO crossings are to resynchronise, and nothing else. -/
theorem netUnready_spec (s : State) :
    let t := (List.range 4).foldl (fun s k => fifoUnready false true k s) s
    (∀ k, k < 4 → xingReady t k = false) ∧ t = { s with bus := { s.bus with readyFar := t.bus.readyFar } } := by
  refine ⟨?_, rfl⟩
  intro k hk
  have hlist : (List.range 4).foldl (fun s k => fifoUnready false true k s) s = fifoUnready false true 3
      (fifoUnready false true 2 (fifoUnready false true 1 (fifoUnready false true 0 s))) := rfl
  rw [hlist]
  interval_cases k <;> simp [xingReady, fifoUnready, tget_tset]

/-- Settles O10: each clock's loss and return by its own case. -/
theorem clockLossAndReturn : Obligations.ClockLossAndReturn := by
  unfold Obligations.ClockLossAndReturn
  refine ⟨?slow, ?net, ?slowAgain, ?netAgain, ?slowNotice, ?netNotice, ?mediaNotice, ?xtal, ?media, ?mediaAgain, ?back⟩
  case slow =>
    intro s h
    have hx : exec .slowClockLost s = .next (slowLost s) := rfl
    rw [hx, slowLost, if_pos h]
  case net =>
    intro s h
    have hx : exec .networkClockLost s = .next (netLost s) := rfl
    rw [hx, netLost, if_pos h]
  case slowAgain =>
    intro s h
    have hx : exec .slowClockLost s = .next (slowLost s) := rfl
    rw [hx, slowLost, if_neg (by simp [h])]
  case netAgain =>
    intro s h
    have hx : exec .networkClockLost s = .next (netLost s) := rfl
    rw [hx, netLost, if_neg (by simp [h])]
  case slowNotice => exact fun b s h => monitorNotice_of_high h (by decide) s
  case netNotice => exact fun b s h => monitorNotice_of_high h (by decide) s
  case mediaNotice => exact fun b s h => monitorNotice_of_high h (by decide) s
  case xtal =>
    intro s h ha
    have hx : exec .crystalLost s = .next (crystalLost s) := rfl
    have hc : crystalLost s = (xtalLostMark (resetDevice 4 false s)).modPower (fun p => { p with xtalLost := true }) := by
      simp only [crystalLost, h, Bool.true_and, bne_iff_ne, ne_eq, ha, not_false_eq_true, if_true]
    exact ⟨_, hx, hc, by rw [hc]; rfl⟩
  case media =>
    intro s h s1
    have hx : exec .mediaPllUnlock s = .next (mediaUnlock s) := rfl
    have hb : s1.mclk.backup = s.mclk.backup := by simp [s1]
    refine ⟨fun hback => ?backup, fun hback => ?main⟩
    case backup =>
      rw [hx, mediaUnlock, if_pos h]
      exact congrArg _ (if_pos (hb.trans hback))
    case main =>
      rw [hx, mediaUnlock, if_pos h]
      exact congrArg _ (if_neg (by rw [show s1.mclk.backup = false from hb.trans hback]; decide))
  case mediaAgain =>
    intro s h
    have hx : exec .mediaPllUnlock s = .next (mediaUnlock s) := rfl
    rw [hx, mediaUnlock, if_neg (by simp [h])]
  case back =>
    intro s
    have hx : ∀ k, exec (.clockQualified k) s = .next (clockQualified k s) := fun _ => rfl
    refine ⟨rfl, fun h => ?netIs, fun h => ?netBack, rfl, fun h => ?xtalIs, fun h => ?xtalBack⟩
    case netIs => rw [hx, clockQualified, if_pos h]
    case netBack =>
      obtain ⟨hready, hrest⟩ := netUnready_spec { s with clk := { s.clk with netOk := true } }
      refine ⟨_, by rw [hx, clockQualified, if_neg (by simp [h])], ?_, hready, hrest⟩
      rw [hrest]
    case xtalIs => rw [hx, clockQualified, if_pos h]
    case xtalBack => rw [hx, clockQualified, if_neg (by simp [h])]

/-! ### Hinge ticks and bridges -/

theorem ptpCycle_pos (s : State) : 0 < ptpCycle s := by
  have h : -32768000 ≤ clampInt (-32768000) 32768000 (s.rd Reg.ptpRate).toInt := by
    unfold clampInt
    split
    · exact le_refl _
    · omega
  unfold ptpCycle
  omega

/-- The fewest steps of `c` that cover `d`. -/
theorem ceil_covers {c d : Nat} (hc : 0 < c) :
    d ≤ (d + c - 1) / c * c ∧ ∀ k, k < (d + c - 1) / c → k * c < d := by
  have hdiv := Nat.div_add_mod (d + c - 1) c
  have hmod := Nat.mod_lt (d + c - 1) hc
  rw [Nat.mul_comm] at hdiv
  refine ⟨by omega, fun k hk => ?_⟩
  have hle := Nat.mul_le_mul_right c (Nat.succ_le_of_lt hk)
  rw [Nat.succ_mul] at hle
  omega

/-- The next multiple of `m` above `u`. -/
theorem next_multiple {m u : Nat} (hm : 0 < m) : m * (u / m + 1) = u + (m - u % m) := by
  have h := Nat.div_add_mod u m
  have hlt := Nat.mod_lt u hm
  rw [Nat.mul_add, Nat.mul_one]
  omega

/-- Discarding a crossing's contents leaves which sides are ready. -/
@[simp] theorem fifoDiscard_bus (k : Nat) (s : State) : (fifoDiscard k s).bus = s.bus := by
  unfold fifoDiscard
  split
  · rfl
  · split
    · rfl
    · split <;> rfl

/-- Settles O11: the tick's arithmetic, and each command by its condition. -/
theorem hingeTicksAndBridges : Obligations.HingeTicksAndBridges := by
  unfold Obligations.HingeTicksAndBridges
  refine ⟨?tick, ?least, ?dead, ?arrives, ?lapse, ?runs, ?stops, ?resync⟩
  case tick =>
    intro s lead h s1
    have hx : exec (.hingeTick lead) s = .next (hingeTick lead s) := rfl
    rw [hx, hingeTick, if_pos h]
  case least =>
    intro s step
    have hstep : 0 < step := by decide
    obtain ⟨hle, hlt⟩ := ceil_covers (d := step - ptpUnits s.net % step) (ptpCycle_pos s)
    have hnext := next_multiple (u := ptpUnits s.net) hstep
    refine ⟨?_, fun k hk => ?_⟩
    · rw [hnext]
      exact Nat.add_le_add_left hle _
    · rw [hnext]
      exact Nat.add_lt_add_left (hlt k hk) _
  case dead =>
    intro s lead h
    have hx : exec (.hingeTick lead) s = .next (hingeTick lead s) := rfl
    rw [hx, hingeTick, if_neg (by simp [h])]
  case arrives =>
    intro s hf hp hb
    have hx : exec (.mergedNotification 11) s = .next (mergedNotification 11 s) := rfl
    have hbits : bitsOf 16 (0x10000#32).toNat = [] := by decide
    have htick : (0x10000#32).getLsbD 16 = true := by decide
    rw [hx]
    simp only [mergedNotification, noticeArrive_last hf hp hb, hf, if_true, hbits, htick]
  case lapse =>
    intro s hst hlim hage
    have hx : exec .holdoverLapse s = .next (holdoverLapse s) := rfl
    rw [hx, holdoverLapse]
    simp only [hst, hlim, hage, ne_eq, not_false_eq_true, and_self, if_true, servoEnter, reduceCtorEq, if_false, or_self]
  case runs =>
    intro s n hst hsteady
    have hx : exec (.bridgeRun n) s = .next (bridgeRun n.val s) := rfl
    rw [hx, bridgeRun]
    simp only [hst, hsteady, and_self, if_true]
    rfl
  case stops =>
    intro s n hasync hst hcfg hsilent hstop
    have hx : exec (.bridgeStopped n) s = .next (bridgeStopped n.val s) := rfl
    rw [hx, bridgeStopped]
    simp only [hasync, hst, hcfg, hsilent, hstop, ne_eq, not_false_eq_true, Bool.not_false, and_self, if_true]
    rfl
  case resync =>
    intro s x hfifo
    refine ⟨fifoResync x.val s, rfl, fun hnear => ?far, fun hnear => ?near⟩
    case far =>
      simp only [fifoResync, hfifo, hnear, if_true, Bool.not_true, Bool.false_eq_true, if_false]
      by_cases hfar : tget false s.bus.readyFar x.val = true
      · simp only [hfar, Bool.not_true, Bool.false_eq_true, if_false, xingReady, hnear, Bool.and_self]
      · simp [hfar, xingReady, hnear]
    case near =>
      simp [fifoResync, hfifo, hnear]

end Sys2Proof.Machine
end

section
/-! Writes by access code, paired halves, writes into the always-on domain, doorbells, and the answers of the bridge and of
crossing 12 (chapters 2 and 3). -/

namespace Sys2Proof.Machine
open Sys2Proof

/-! ### Writes by access code -/

/-- The row of a register, from the class and the bits that its table names. -/
theorem row_of_map {a k : Nat} {c : Cls} (h : (rowAt a).map (fun r => (r.cls, r.mask)) = some (c, k)) :
    ∃ r, rowAt a = some r ∧ r.cls = c ∧ r.mask = k := by
  obtain ⟨r, hr, he⟩ := Option.map_eq_some_iff.mp h
  exact ⟨r, hr, congrArg Prod.fst he, congrArg Prod.snd he⟩

theorem row_of_map_cls {a k : Nat} {c : Cls} (h : (rowAt a).map (fun r => (r.cls, r.mask)) = some (c, k)) :
    ∃ r, rowAt a = some r ∧ r.cls = c := by
  obtain ⟨r, hr, hc, -⟩ := row_of_map h
  exact ⟨r, hr, hc⟩

theorem classWrite_sc {w : Who} {p a : Nat} {r : RegRow} {v : Word} {s : State} (hc : r.cls = .sc) :
    classWrite w p a r v s = if s.bus.sc.isSome then writeRejected 1 0 (a % 0x10000) s
      else s.modBus fun b => { b with sc := some ⟨a, v &&& BitVec.ofNat 32 r.mask⟩ } := by
  simp only [classWrite, hc]

theorem classWrite_readOnly {w : Who} {p a : Nat} {r : RegRow} {v : Word} {s : State} (hc : r.cls = .ro ∨ r.cls = .rc) :
    classWrite w p a r v s = s := by
  rcases hc with hc | hc <;> simp only [classWrite, hc]

/-- Settles O12: a write that reaches a register is the write of its class. -/
theorem writesActByAccessCode : Obligations.WritesActByAccessCode := by
  unfold Obligations.WritesActByAccessCode
  intro s m a v r h hi ho hk hr w x
  have hact : regAccess m a.toNat .word v s = classWrite w 0 a.toNat r (v.setWidth 32) s :=
    regAccess_own s m a.toNat v r h hr hi ho hk
  refine ⟨fun hc => ?rw, fun hc => ?ro, fun hc => ?wb, fun hc hg => ?wd, fun hc hg => ?refused, fun hc hn => ?sc, fun hc hn => ?busy,
    fun hc => ?sq⟩
  case rw =>
    have hx : exec (.registerWrite m a .word v) s = .next (regAccess m a.toNat .word v s) := rfl
    rw [hx, hact, classWrite_rw hc]
    rfl
  case ro =>
    have hx : exec (.registerWrite m a .word v) s = .next (regAccess m a.toNat .word v s) := rfl
    rw [hx, hact, classWrite_readOnly hc]
  case wb =>
    have hx : exec (.wbWrite m a .word v) s = .next (regAccess m a.toNat .word v s) := rfl
    rw [hx, hact, classWrite_wb hc]
    rfl
  case wd =>
    have hx : exec (.wdWrite m a .word v) s = .next (regAccess m a.toNat .word v s) := rfl
    rw [hx, hact, classWrite_wd_taken hc hg]
    rfl
  case refused =>
    have hx : exec (.wdWrite m a .word v) s = .next (regAccess m a.toNat .word v s) := rfl
    rw [hx, hact, classWrite_wd_refused hc hg]
  case sc =>
    have hx : exec (.scWrite m a .word v) s = .next (regAccess m a.toNat .word v s) := rfl
    rw [hx, hact, classWrite_sc hc, if_neg (by simp [hn])]
  case busy =>
    have hx : exec (.scWrite m a .word v) s = .next (regAccess m a.toNat .word v s) := rfl
    rw [hx, hact, classWrite_sc hc, if_pos (Option.isSome_iff_ne_none.mpr hn)]
  case sq =>
    have hx : exec (.sqWriteBack m a .word v) s = .next (regAccess m a.toNat .word v s) := rfl
    rw [hx, hact, classWrite_sq hc]

/-! ### Paired halves -/

theorem and_full (x : Word) : x &&& BitVec.ofNat 32 0xFFFFFFFF = x := BitVec.and_allOnes

/-- A half of a buffered pair waits in its own shadow. -/
theorem regAccess_wb_half {s : State} {m : Master} {a : Nat} {v : BitVec 64}
    (hrow : (rowAt a).map (fun r => (r.cls, r.mask)) = some (.wb, 0xFFFFFFFF)) (hi : inSlots a = true) (ho : a % 0x10000 < 0x8000)
    (hdma : a / 0x10000 % 16 ≠ 11) (h : reaches s m true a = true) :
    regAccess m a .word v s = { s with wbPend := tset none s.wbPend a (some (v.setWidth 32)) } := by
  have hk : a ≠ 0x40000700 := by
    rintro rfl
    have e : (rowAt 0x40000700).map (·.cls) = some .rw := by decide
    obtain ⟨r, hr, hc, -⟩ := row_of_map hrow
    rw [hr, Option.map_some, hc] at e
    cases e
  rw [regAccess_wb s m a _ v h (row_of_map hrow) hi ho hk, and_full, wbWrite, if_neg hdma]
  rfl

/-- Settles O17: NET.MAC by its held half, the buffered pairs half by half. -/
theorem pairedHalvesApplyTogether : Obligations.PairedHalvesApplyTogether := by
  unfold Obligations.PairedHalvesApplyTogether
  have hlo : ∀ (s : State) (m : Master) (a : Word) (v : BitVec 64),
      exec (.loWrite m a .word v) s = .next (regAccess m a.toNat .word v s) := fun _ _ _ _ => rfl
  have hhi : ∀ (s : State) (m : Master) (a : Word) (v : BitVec 64),
      exec (.hiWrite m a .word v) s = .next (regAccess m a.toNat .word v s) := fun _ _ _ _ => rfl
  have hmacHi : ∀ (s : State) (m : Master) (v : BitVec 64), reaches s m true 0x4009003C = true →
      regAccess m 0x4009003C .word v s = rwWrite (whoOf s m) 0x4009003C (v.setWidth 32 &&& 0xFFFF#32) s := fun s m v h =>
    regAccess_rw s m 0x4009003C 0xFFFF v h (row_of_map (by decide)) (by decide) (by decide) (by decide)
  refine ⟨?macLo, ?macBoth, ?macHi, ?lo, ?hi⟩
  case macLo =>
    intro s m v h
    have hw : regAccess m 0x40090038 .word v s = rwWrite (whoOf s m) 0x40090038 (v.setWidth 32 &&& BitVec.ofNat 32 0xFFFFFFFF) s :=
      regAccess_rw s m 0x40090038 _ v h (row_of_map (by decide)) (by decide) (by decide) (by decide)
    rw [hlo, show (0x40090038#32).toNat = 0x40090038 from rfl, hw, and_full]
    rfl
  case macBoth =>
    intro s m v y h hy
    rw [hhi, show (0x4009003C#32).toNat = 0x4009003C from rfl, hmacHi s m v h]
    have hrw : ∀ x, rwWrite (whoOf s m) 0x4009003C x s
        = (releaseLo 0x40090038 (fun a v s => s.wr a v) s).wr 0x4009003C x := fun _ => rfl
    rw [hrw, releaseLo, hy]
  case macHi =>
    intro s m v h hy
    rw [hhi, show (0x4009003C#32).toNat = 0x4009003C from rfl, hmacHi s m v h]
    have hrw : ∀ x, rwWrite (whoOf s m) 0x4009003C x s
        = (releaseLo 0x40090038 (fun a v s => s.wr a v) s).wr 0x4009003C x := fun _ => rfl
    rw [hrw, releaseLo, hy]
  case lo =>
    rintro s m a v (rfl | rfl | rfl) h
    all_goals
      rw [hlo]
      exact congrArg _ (regAccess_wb_half (by decide) (by decide) (by decide) (by decide) h)
  case hi =>
    rintro s m a v (rfl | rfl | rfl) h
    all_goals
      rw [hhi]
      exact congrArg _ (regAccess_wb_half (by decide) (by decide) (by decide) (by decide) h)

/-! ### The always-on domain -/

theorem scLanded_of_none {s : State} (h : s.bus.sc = none ∨ s.clk.slowGone = true) : scLanded s = s := by
  unfold scLanded
  rcases h with h | h
  · rw [h]
    split <;> rfl
  · rw [if_pos h]

/-- A contact's configuration is its own. -/
theorem scLand_contact (n : Fin 8) (v : Word) (s : State) : scLand (0x40010100 + 16 * n.val) v s = ctCfgWrite n.val v s := by
  have hn := n.isLt
  unfold scLand
  rw [if_pos (by omega), Nat.add_sub_cancel_left, Nat.mul_div_cancel_left _ (by decide)]

/-- Settles O18: a write under way lands, each register by its own rule; the other acknowledgements do nothing. -/
theorem alwaysOnWritesLand : Obligations.AlwaysOnWritesLand := by
  unfold Obligations.AlwaysOnWritesLand
  have hland : ∀ s, exec .scWriteLanded s = .next (scLanded s) := fun _ => rfl
  have hack : ∀ s (x : Fin 22), exec (.requestAcknowledge x) s = .next (requestAcknowledge x.val s) := fun _ _ => rfl
  refine ⟨?lands, ?nothing, ?rules, ?summary, ?others⟩
  case lands =>
    intro s x hslow hsc
    have h : scLanded s = scLand x.addr x.data (s.modBus fun b => { b with sc := none }) := by
      simp only [scLanded, hslow, hsc, Bool.false_eq_true, if_false]
    exact ⟨by rw [hland, h], by rw [hack]; exact congrArg _ h⟩
  case nothing =>
    intro s h
    exact ⟨by rw [hland, scLanded_of_none h], by rw [hack]; exact congrArg _ (scLanded_of_none h)⟩
  case rules =>
    intro s v
    exact ⟨rfl, rfl, rfl, fun h => if_pos h, rfl, rfl, rfl, rfl, fun n => scLand_contact n v s⟩
  case summary => exact fun s => rfl
  case others =>
    intro s x h4 h6 h12
    rw [hack]
    unfold requestAcknowledge
    split
    · contradiction
    · contradiction
    · contradiction
    · rfl

/-! ### Doorbells, latches and the flash bank -/

/-- Settles O20: two write-one registers and the bank switch. -/
theorem doorbellsAndInterruptLatches : Obligations.DoorbellsAndInterruptLatches := by
  unfold Obligations.DoorbellsAndInterruptLatches
  refine ⟨?doorbell, ?clear, ?bank⟩
  case doorbell =>
    intro s m v h
    have hx : exec (.doorbell m .word v) s = .next (regAccess m 0x40001540 .word v s) := rfl
    rw [hx, regAccess_w1 s m _ v h (row_of_map_cls (k := 0xFF) (by decide)) (by decide) (by decide) (by decide)]
    rfl
  case clear =>
    intro s m k v h
    have hx : exec (.intClr m k .word v) s = .next (regAccess m (0x40001420 + 4 * k.val) .word v s) := rfl
    have hrow : ∀ k : Fin 8, (rowAt (0x40001420 + 4 * k.val)).map (fun r => (r.cls, r.mask)) = some (.w1, 0xFFFFFFFF) := by decide
    have hk := k.isLt
    rw [hx, regAccess_w1 s m _ v h (row_of_map_cls (hrow k)) (by simp [inSlots]; omega) (by omega) (by omega)]
    have hslot : (0x40001420 + 4 * k.val) / 0x10000 % 16 = 0 := by omega
    have hoff : (0x40001420 + 4 * k.val) % 0x10000 = 0x1420 + 4 * k.val := by omega
    have hkey : (0x1420 + 4 * k.val - 0x1420) / 4 = k.val := by omega
    simp only [w1Write, hslot, hoff, hkey]
    rw [if_pos (by omega)]
  case bank =>
    intro s m v h
    have hx : exec (.flashBankWrite m .word v) s = .next (regAccess m 0x40000080 .word v s) := rfl
    have hrw : ∀ x, rwWrite (whoOf s m) 0x40000080 x s = flashBankWrite x s := fun _ => rfl
    rw [hx, regAccess_rw s m _ 1 v h (row_of_map (by decide)) (by decide) (by decide) (by decide), hrw, flashBankWrite,
      BitVec.and_assoc]
    rfl

/-! ### The bridge and crossing 12 -/

theorem noticeArrive_next {x : Nat} {s : State} (hf : (s.notice x).inFlight = true) (hp : (s.notice x).pend = true) :
    noticeArrive x s = (s.setNotice x ⟨true, (s.notice x).waiting, false, 0#32⟩, (s.notice x).flying) := by
  simp only [noticeArrive, hf, hp, if_true]

theorem netAct_write {x : NetAcc} (h : x.write = true) (s : State) :
    netAct x s = (if (busWrite ⟨x.master, x.lvl⟩ x.addr x.width x.data s).1 then some 0 else none,
      (busWrite ⟨x.master, x.lvl⟩ x.addr x.width x.data s).2) := by
  simp only [netAct, h, if_true]

theorem netAct_read {x : NetAcc} (h : x.write = false) (s : State) :
    netAct x s = busRead ⟨x.master, x.lvl⟩ x.addr x.width s := by
  simp only [netAct, h, Bool.false_eq_true, if_false]

/-- Settles O21: each answer by the state of its crossing. -/
theorem bridgeAndNetworkAnswers : Obligations.BridgeAndNetworkAnswers := by
  unfold Obligations.BridgeAndNetworkAnswers
  have hnote : ∀ (s : State) (x : Fin 22), exec (.mergedNotification x) s = .next (mergedNotification x.val s) := fun _ _ => rfl
  have hack : ∀ s, exec (.requestAcknowledge 12) s = .next (netAcknowledge s) := fun _ => rfl
  refine ⟨?posted, ?split, ?late, ?merged, ?slow, ?monitor, ?net⟩
  case posted =>
    intro s d p l h r
    have hx : exec (.postedWriteDelivery d) s = .next (deliverNext d s) := rfl
    rw [hx, deliverNext, h]
    rfl
  case split =>
    intro s i x h s1 r
    have hx : exec (.splitReadReturn i) s = .next (splitReturn i s) := rfl
    refine ⟨fun hmem => ?_, fun hlane => ?_⟩
    · rw [hx]
      simp only [splitReturn, h, if_neg (Nat.not_le.mpr hmem), hmem, decide_true, Bool.true_and]
      rfl
    · rw [hx]
      simp only [splitReturn, h, hlane, Nat.not_lt.mpr hlane, decide_false, Bool.false_and, if_true]
      rfl
  case late =>
    intro s i x h
    have hx : exec (.splitTimeout i) s = .next (splitTimeout i s) := rfl
    rw [hx, splitTimeout, h]
  case merged =>
    intro s hf hp hbit
    have h := noticeArrive_next (x := 11) hf hp
    have hm : mergedNotification 11 s = sqSet Reg.netEvt (bitsOf 16 (s.notice 11).flying.toNat)
        (s.setNotice 11 ⟨true, (s.notice 11).waiting, false, 0#32⟩) := by
      simp only [mergedNotification, h, hf, if_true, hbit, Bool.false_eq_true, if_false]
    exact (hnote s 11).trans (congrArg _ hm)
  case slow =>
    intro s hf hp
    have h := noticeArrive_last (x := 7) hf hp rfl
    have hm : mergedNotification 7 s = slowNotice (s.notice 7).flying (s.setNotice 7 Notice.idle) := by
      simp only [mergedNotification, h, hf, if_true]
    exact (hnote s 7).trans (congrArg _ hm)
  case monitor =>
    intro s hf hp
    have h := noticeArrive_last (x := 14) hf hp rfl
    have hm : mergedNotification 14 s = monitorNotice (s.notice 14).flying
        (micArrive (s.notice 14).flying.toNat (s.setNotice 14 Notice.idle)) := by
      simp only [mergedNotification, h, hf, if_true]
    exact (hnote s 14).trans (congrArg _ hm)
  case net =>
    intro s x h
    refine ⟨?write, ?read, ?orphan, ?acted, ?lost, ?timeout⟩
    case write =>
      intro r hph hw
      rw [hack]
      simp only [netAcknowledge, h, hph, netAct_write hw, hw]
      rfl
    case read =>
      intro r hph hw
      rw [hack]
      simp only [netAcknowledge, h, hph, netAct_read hw, hw]
      rfl
    case orphan =>
      intro hph
      rw [hack]
      simp only [netAcknowledge, h, hph]
    case acted =>
      intro v hph
      rw [hack]
      simp only [netAcknowledge, h, hph]
    case lost =>
      intro hph
      rw [hack]
      simp only [netAcknowledge, h, hph]
    case timeout =>
      intro d
      have hx : exec .netTimeout s = .next (netTimeout s) := rfl
      rw [hx]
      cases hw : x.write
      · simp only [netTimeout, h, netLateEnd, netAct_read hw, hw, Bool.false_eq_true, if_false]
        rfl
      · simp only [netTimeout, h, netLateEnd, netAct_write hw, hw, if_true]
        rfl

end Sys2Proof.Machine
end

section
/-! A sequencer's next step and its end, a core's halt, and the stop of sleep entry (chapters 4, 5, 12 and 22). -/

namespace Sys2Proof.Machine
open Sys2Proof

/-! ### Lanes written in a row -/

/-- Writes of lanes change the engine alone. -/
theorem foldl_setLane_rest (f : Nat → Nat) (v : LaneVal) (l : List Nat) (s : State) :
    l.foldl (fun s k => s.setLane (f k) v) s = { s with eng := (l.foldl (fun s k => s.setLane (f k) v) s).eng } :=
  List.foldlRecOn (motive := fun t : State => t = { s with eng := t.eng }) l _ rfl fun t ht k _ => by
    show t.setLane (f k) v = _
    conv_lhs => rw [ht]
    rfl

theorem foldl_setLane_sc (f : Nat → Nat) (v : LaneVal) (l : List Nat) (s : State) (n : Nat) :
    (l.foldl (fun s k => s.setLane (f k) v) s).sc n = s.sc n :=
  List.foldlRecOn (motive := fun t : State => t.sc n = s.sc n) l _ rfl fun _ ht _ _ => ht

/-! ### Generators -/

theorem toneEdge_off (s : State) (g : Nat) (x : ToneGen) : toneEdge s g false x = { x with st := .gap } := rfl

theorem toneEdge_on {x : ToneGen} (h : x.st = .on) (s : State) (g : Nat) : toneEdge s g true x = { x with st := .on } := by
  rw [toneEdge, h]
  rfl

theorem toneEdge_struck {x : ToneGen} (h : x.st = .gap) (s : State) (g : Nat) :
    toneEdge s g true x = ToneGen.struck s g { x with st := .on } := by
  rw [toneEdge, h]
  rfl

/-- A falling generator whose envelope is 0 has stopped. -/
theorem generatorStopped_ended {s : State} {g : Nat} (hg : g < 64) (hst : (s.gen g).st = .ending) (hnum : (s.gen g).num = 0) :
    generatorStopped g s =
      let off := (s.lanePut (0x200 + g) 0#32).setGen g ToneGen.off
      if s.bit (runBit g).1 (runBit g).2 then toneEvent 0 g (clearBoth (runBit g).1 (runBit g).2 off) else off := by
  simp only [generatorStopped, hst, hnum, hg, and_self, if_true]

theorem runBit_of_lt {g : Nat} (hg : g < 64) : runBit g = (if g < 32 then Reg.toneRunLo else Reg.toneRunHi, g % 32) := by
  unfold runBit
  by_cases h : g < 32
  · rw [if_pos h, if_pos h, Nat.mod_eq_of_lt h]
  · rw [if_neg h, if_pos hg, if_neg h, show g % 32 = g - 32 by omega]

theorem clearBoth_live {a : Nat} {s : State} (h : tget none s.wbPend a = none) (n : Nat) : clearBoth a n s = s.wrb a n false := by
  unfold clearBoth
  rw [h]

theorem clearBoth_both {a : Nat} {w : Word} {s : State} (h : tget none s.wbPend a = some w) (n : Nat) :
    clearBoth a n s = { s.wrb a n false with wbPend := tset none s.wbPend a (some (wsetBit w n false)) } := by
  unfold clearBoth
  rw [h]
  rfl

/-! ### The stop of sleep entry -/

theorem streamsOff_rest (s : State) :
    streamsOff s = { s with net := { s.net with rx := [], tx := [], igmpDue := [] }, eng := (streamsOff s).eng } := by
  unfold streamsOff
  dsimp only
  exact (foldl_setLane_rest id LaneVal.zero _ _).trans rfl

theorem streamsOff_ports (s : State) : (streamsOff s).ports = s.ports := by rw [streamsOff_rest]
theorem streamsOff_ward (s : State) : (streamsOff s).ward = s.ward := by rw [streamsOff_rest]
theorem streamsOff_net (s : State) : (streamsOff s).net = { s.net with rx := [], tx := [], igmpDue := [] } := by
  rw [streamsOff_rest]

/-- Settles O34: the sequencer by the case of its step, the others by their conditions. -/
theorem sequencersFallAndCoresHalt : Obligations.SequencersFallAndCoresHalt := by
  unfold Obligations.SequencersFallAndCoresHalt
  refine ⟨?pattern, ?stopped, ?halted, ?families, ?early⟩
  case pattern =>
    intro s g x last cycle step done y hst
    have hx : exec (.patternStep g) s = .next (patternStep g.val s) := rfl
    have hdue : toneStepLen s g ≤ x.hinges → patternStep g.val s = if done then s.setGen g { y with st := .ending }
        else s.setGen g (toneEdge s g (toneStepOn s g step) y) := by
      intro hlen
      have hstep : (if decide last = true then 0 else x.step + 1) = step := by simp only [decide_eq_true_eq, step]
      have hcycle : (if decide last = true then x.cycle + 1 else x.cycle) = cycle := by simp only [decide_eq_true_eq, cycle]
      unfold patternStep
      dsimp only
      rw [if_pos ⟨hst, hlen⟩]
      rw [show (if decide (toneSteps s g ≤ (s.gen g).step + 1) = true then 0 else (s.gen g).step + 1) = step from hstep,
        show (if decide (toneSteps s g ≤ (s.gen g).step + 1) = true then (s.gen g).cycle + 1 else (s.gen g).cycle) = cycle
          from hcycle]
      simp only [decide_eq_true_eq]
      rfl
    refine ⟨fun hlt => ?wait, fun hlen hd => ?falls, fun hlen hd hoff => ?off, fun hlen hd hon hst' => ?on,
      fun hlen hd hon hst' => ?edge⟩
    case wait =>
      rw [hx, patternStep, if_neg fun h => absurd h.2 (Nat.not_le.mpr hlt)]
    case falls => rw [hx, hdue hlen, if_pos hd]
    case off => rw [hx, hdue hlen, if_neg hd, hoff, toneEdge_off]
    case on => rw [hx, hdue hlen, if_neg hd, hon, toneEdge_on (x := y) hst']
    case edge =>
      rw [hx, hdue hlen, if_neg hd, hon, toneEdge_struck (x := y) hst']
      rfl
  case stopped =>
    intro s g hst off a down
    have hx : exec (.generatorStopped g) s = .next (generatorStopped g.val s) := rfl
    have hrun := runBit_of_lt g.isLt
    have hb : s.bit (runBit g.val).1 (runBit g.val).2 = s.bit a (g % 32) := by rw [hrun]
    have hpend : off.wbPend = s.wbPend := rfl
    refine ⟨fun hnum => ?sounds, fun hnum hbit => ?plain, fun hnum hbit hp => ?live, fun w hnum hbit hp => ?both⟩
    case sounds => rw [hx, generatorStopped, if_neg fun h => hnum h.2]
    case plain =>
      rw [hx, generatorStopped_ended g.isLt hst hnum, hb, hbit]
      rfl
    case live =>
      have hc : clearBoth a (g % 32) off = down := clearBoth_live (s := off) hp _
      rw [hx, generatorStopped_ended g.isLt hst hnum, hb, hbit, hrun]
      exact congrArg (fun t => Host.Outcome.next (toneEvent 0 g t)) hc
    case both =>
      have hc : clearBoth a (g % 32) off = { down with wbPend := tset none s.wbPend a (some (wsetBit w (g % 32) false)) } :=
        clearBoth_both (s := off) hp _
      rw [hx, generatorStopped_ended g.isLt hst hnum, hb, hbit, hrun]
      exact congrArg (fun t => Host.Outcome.next (toneEvent 0 g t)) hc
  case halted =>
    intro s n hruns hstop hscale hframes hbit hnext
    have hx : exec (.coreHalted n) s = .next (coreHalted n.val s) := rfl
    have hdone : fadeDone (s.sc n) = true := by simp [fadeDone, hruns, hstop, hscale, hframes]
    have hhinge : hingeNext s = true := by simpa [hingeNext] using hnext
    rw [hx, coreHalted, if_pos (by simp [hdone, hbit, hhinge]), haltCore, State.modSc, eachLane, foldl_setLane_sc]
    rfl
  case families =>
    intro s hst hh
    have hx : exec .familiesStop s = .next (familiesStop s) := rfl
    refine ⟨_, hx, ?_⟩
    rw [familiesStop, if_pos ⟨hst, hh⟩]
    refine ⟨rfl, rfl, rfl, ?pads, ?latch, ?closed, ?grants, ?rx, ?tx, rfl, rfl, rfl⟩
    case pads =>
      rw [streamsOff_ports]
      rfl
    case latch =>
      rw [streamsOff_ward]
      rfl
    case closed =>
      rw [streamsOff_ward]
      rfl
    case grants =>
      rw [streamsOff_ward]
      rfl
    case rx => rw [streamsOff_net]
    case tx => rw [streamsOff_net]
  case early =>
    intro s h
    have hx : exec .familiesStop s = .next (familiesStop s) := rfl
    rw [hx, familiesStop, if_neg]
    rintro ⟨h1, h2⟩
    rcases h with h | h
    · exact h h1
    · omega

end Sys2Proof.Machine
end

section
/-! The network ring: links, forwarding, delivery and reports (chapter 15). -/

namespace Sys2Proof.Machine
open Sys2Proof

/-! ### Egress -/

theorem byClass_perm (s : State) (f : NetFrame) (l : List NetFrame) : (byClass s f l).Perm (f :: l) := by
  induction l with
  | nil => exact List.Perm.refl _
  | cons g t ih =>
    unfold byClass
    split
    · exact List.Perm.refl _
    · exact (ih.cons g).trans (List.Perm.swap f g t)

/-- A frame joins those that wait in the order of their classes. -/
theorem byClass_sorted (s : State) (f : NetFrame) {l : List NetFrame}
    (h : l.Pairwise fun x y => frameClass s x ≤ frameClass s y) : (byClass s f l).Pairwise fun x y => frameClass s x ≤ frameClass s y := by
  induction l with
  | nil => exact List.pairwise_singleton _ _
  | cons g t ih =>
    obtain ⟨hg, ht⟩ := List.pairwise_cons.mp h
    unfold byClass
    split
    · next hlt =>
      refine List.pairwise_cons.mpr ⟨fun y hy => ?_, h⟩
      rcases List.mem_cons.mp hy with rfl | hy
      · omega
      · have := hg y hy
        omega
    · next hge =>
      refine List.pairwise_cons.mpr ⟨fun y hy => ?_, ih ht⟩
      rcases List.mem_cons.mp ((byClass_perm s f t).mem_iff.mp hy) with rfl | hy
      · omega
      · exact hg y hy

theorem enqueue_perm (s : State) (f : NetFrame) (l : List NetFrame) : (enqueue s f l).Perm (l ++ [f]) := by
  cases l with
  | nil => exact List.Perm.refl _
  | cons g t => exact ((byClass_perm s f t).trans (List.perm_append_singleton f t).symm).cons g

/-- A frame's class depends on the part's own address alone. -/
theorem frameClass_congr {s t : State} (h : ownMac t = ownMac s) (f : NetFrame) : frameClass t f = frameClass s f := by
  unfold frameClass
  rw [h]

theorem byClass_congr {s t : State} (h : ownMac t = ownMac s) (f : NetFrame) (l : List NetFrame) : byClass t f l = byClass s f l := by
  induction l with
  | nil => rfl
  | cons g l ih => simp only [byClass, frameClass_congr h, ih]

theorem enqueue_congr {s t : State} (h : ownMac t = ownMac s) (f : NetFrame) (l : List NetFrame) : enqueue t f l = enqueue s f l := by
  cases l with
  | nil => rfl
  | cons g l => exact congrArg (g :: ·) (byClass_congr h f l)

@[simp] theorem enqueue_modNet (s : State) (g : Net → Net) : enqueue (s.modNet g) = enqueue s :=
  funext fun f => funext fun l => enqueue_congr (by rfl) f l

/-- A frame of the part's own whose crossing is ready and whose link is up waits in its egress. -/
theorem ownEgress_a {s : State} (hx : xingReady s 2 = true) (hc : s.clk.netOk = true) (hl : s.net.linkA = true) (f : NetFrame) :
    ownEgress false f s = s.modNet fun n => { n with egressA := enqueue s f n.egressA } := by
  simp only [xingReady, Bool.and_eq_true] at hx
  have hlink : linkOf s false = true := hl
  have h1 : tget false s.bus.readyNear (2 + b2n false) = true := hx.2
  have h2 : tget false s.bus.readyFar (2 + b2n false) = true := hx.1
  simp only [ownEgress, viaFifo, Bool.false_eq_true, if_false, h1, h2, hc, Bool.and_self, if_true, egress, hlink]

theorem ownEgress_b {s : State} (hx : xingReady s 3 = true) (hc : s.clk.netOk = true) (hl : s.net.linkB = true) (f : NetFrame) :
    ownEgress true f s = s.modNet fun n => { n with egressB := enqueue s f n.egressB } := by
  simp only [xingReady, Bool.and_eq_true] at hx
  have hlink : linkOf s true = true := hl
  have h1 : tget false s.bus.readyNear (2 + b2n true) = true := hx.2
  have h2 : tget false s.bus.readyFar (2 + b2n true) = true := hx.1
  simp only [ownEgress, viaFifo, Bool.false_eq_true, if_false, h1, h2, hc, Bool.and_self, if_true, egress, hlink]

/-- In SINGLE mode the part sends on port A. -/
theorem originate_single {s : State} (hm : netModeOf s = 0) (hx : xingReady s 2 = true) (hc : s.clk.netOk = true)
    (hl : s.net.linkA = true) (f : NetFrame) :
    originate f s = s.modNet fun n => { n with egressA := enqueue s f n.egressA } := by
  rw [originate, hm]
  exact ownEgress_a hx hc hl f

/-! ### Frames received -/

/-- A sound untagged frame that is no PTP event message, on a link of a running block in RING mode. -/
theorem frameReceived_ring {s : State} {b : Bool} {f : NetFrame} (hen : s.enabled 9 = true) (hl : linkOf s b = true)
    (hc : s.clk.netOk = true) (hlen : f.len ≤ 1528) (hfcs : f.fcsOk = true) (hv : f.vlan = none) (hp : f.body ≠ .pause)
    (he : ptpEvent f = false) (hm : netModeOf s = 2) (dt : Nat) : frameReceived b f dt s = ringFrame b f dt s := by
  unfold frameReceived
  rw [if_neg (by simp [hen, hl, hc]), if_neg (by simp [hfcs]; omega)]
  split
  · next h => exact absurd h hp
  · simp only [hv, he, hm, Option.any_none, Bool.false_eq_true, if_false]

theorem ddFind_key {s : State} {src : BitVec 48} {sq : BitVec 16} {e : DdEntry} (h : ddFind s src sq = some e) :
    e.src = src ∧ e.seq = sq := by
  have := List.find?_some h
  simp only [Bool.and_eq_true, beq_iff_eq] at this
  exact this.1

/-- A frame of a node outside the table leaves the gap counts. -/
theorem gapCount_unknown {s : State} {src : BitVec 48} (h : ∀ x ∈ s.net.nodes, x.mac ≠ src) (b : Bool) (sq : BitVec 16) :
    gapCount b src sq s = s := by
  have hf : (s.net.nodes.find? fun x => x.mac == src) = none := by
    simpa using h
  rw [gapCount, hf]

theorem ddPut_room {e : DdEntry} {s : State}
    (h : (s.net.dd.filter fun x => !(x.src == e.src && x.seq == e.seq) && ddAlive s x).length < 1024) :
    ddPut e s = s.modNet fun n => { n with
      dd := (n.dd.filter fun x => !(x.src == e.src && x.seq == e.seq) && ddAlive s x) ++ [e] } := by
  simp only [ddPut, h, if_true]
  rfl

theorem tcForward_other {f : NetFrame} (h : ∀ ty n p c pl, f.body ≠ .ptp ty n p c pl) (b : Bool) (s : State) :
    tcForward b f s = (f, s) := by
  unfold tcForward
  split
  · next ty n p c pl hb => exact absurd hb (h ty n p c pl)
  · rfl

/-- What no consumer of the internal port takes goes to the host's ring. -/
theorem deliver_host {s : State} {f : NetFrame} {e : Nat} {pl : List Byte} (hf : f.body = .other e pl)
    (hcfg : s.bit Reg.netHostCfg 7 = true) (b : Bool) (dt : Nat) :
    deliver b true f dt s = s.modNet fun n => { n with hostRing := n.hostRing ++ [f] } := by
  simp only [deliver, hf, if_true, hcfg]

theorem deliver_again {s : State} {f : NetFrame} {e : Nat} {pl : List Byte} (hf : f.body = .other e pl) (b : Bool) (dt : Nat) :
    deliver b false f dt s = s := by
  simp only [deliver, hf, Bool.false_eq_true, if_false]

theorem toInternal_ready {s : State} {b : Bool} (h : xingReady s (b2n b) = true) (first : Bool) (f : NetFrame) (dt : Nat) :
    toInternal b first f dt s = deliver b first f dt s := by
  simp only [xingReady, Bool.and_eq_true] at h
  simp only [toInternal, viaFifo, if_true, h.1, h.2, Bool.and_self]

/-! ### The transparent clock -/

theorem residence_net (b : Bool) (s : State) : (residence b s).2.net = s.net := by
  unfold residence
  dsimp only
  split <;> rfl

@[simp] theorem noticePost_net (x : Nat) (b : Word) (s : State) : (noticePost x b s).net = s.net := by
  unfold noticePost
  dsimp only
  split <;> rfl

/-! ### Ring frames of a node outside the table -/

/-- The duplicate-discard table with an entry noted in it. -/
def ddNoted (e : DdEntry) (s : State) : State := s.modNet fun n => { n with
  dd := (n.dd.filter fun x => !(x.src == e.src && x.seq == e.seq) && ddAlive s x) ++ [e] }

@[simp] theorem enqueue_ddNoted (e : DdEntry) (s : State) : enqueue (ddNoted e s) = enqueue s :=
  funext fun f => funext fun l => enqueue_congr (by rfl) f l

/-- The copy as it is noted: its entry, or a new one, with where it goes. -/
theorem ringFrame_noted {s : State} {b : Bool} {f : NetFrame} {i : Nat} {sq : BitVec 16} {e : DdEntry} (hhsr : f.hsr = some (i, sq))
    (hsrc : f.src ≠ ownMac s) (hn : ∀ x ∈ s.net.nodes, x.mac ≠ f.src)
    (hroom : (s.net.dd.filter fun x => !(x.src == f.src && x.seq == sq) && ddAlive s x).length < 1024)
    (he : (ddFind s f.src sq).getD ⟨f.src, sq, false, false, false, s.net.age⟩ = e) (dt : Nat) :
    ringFrame b f dt s =
      let fwd := f.dst != ownMac s && !(if b then e.toA else e.toB)
      let s2 := ddNoted { e with
        toInternal := e.toInternal || forUs s f, toA := e.toA || (b && fwd), toB := e.toB || (!b && fwd) } s
      let s3 := if fwd then ringForward b f s2 else s2
      if forUs s f then toInternal b (!e.toInternal) f dt s3 else s3 := by
  obtain ⟨hk1, hk2⟩ : e.src = f.src ∧ e.seq = sq := by
    cases hd : ddFind s f.src sq with
    | none =>
      rw [hd, Option.getD_none] at he
      exact ⟨by rw [← he], by rw [← he]⟩
    | some e' =>
      rw [hd, Option.getD_some] at he
      exact he ▸ ddFind_key hd
  have hown : (f.src == ownMac s) = false := by simpa using hsrc
  unfold ringFrame
  simp only [hhsr, hown, Bool.false_eq_true, if_false, gapCount_unknown hn, he]
  rw [ddPut_room (by simpa only [hk1, hk2] using hroom)]
  rfl

/-- A frame to another station alone is not for the part. -/
theorem forUs_other {s : State} {f : NetFrame} (hd : f.dst ≠ ownMac s) (hg : isGroupMac f.dst = false) : forUs s f = false := by
  simp [forUs, hd, hg]

theorem forUs_own {s : State} {f : NetFrame} (hd : f.dst = ownMac s) : forUs s f = true := by
  simp [forUs, hd]

/-- Settles O38: links, then the ring's frames by their duplicate-discard entry, then the part's own frames. -/
theorem theRingForwardsAndDelivers : Obligations.TheRingForwardsAndDelivers := by
  unfold Obligations.TheRingForwardsAndDelivers
  intro link heard other ring note room
  have hframe : ∀ s b f dt, exec (.frameReceived b f dt) s = .next (frameReceived b f dt s) := fun _ _ _ _ => rfl
  have hring : ∀ s b f dt, heard b f s → exec (.frameReceived b f dt) s = .next (ringFrame b f dt s) := by
    intro s b f dt ⟨hen, hl, hc, hlen, hfcs, hv, hp, he, hm⟩
    rw [hframe, frameReceived_ring hen hl hc hlen hfcs hv hp he hm]
  refine ⟨?links, ?bad, ?forwards, ?order, ?own, ?unicast, ?untagged, ?clock, ?supervision, ?forgets, ?report, ?phy⟩
  case links =>
    intro s b v hne hc hon
    have hx : exec (if v then .linkUp b else .linkDown b) s = .next (linkChange b v s) := by cases v <;> rfl
    have hgo : (s.clk.netOk && (!v || portOn s b)) = true := by
      cases v with
      | false => simp [hc]
      | true => simp [hc, hon rfl]
    have hset : linkChange b v s = noticePost 11 (if b then 2#32 else 1#32) (link b v s) := by
      simp only [linkChange, hgo, if_true, linkSet, hne, if_false, link]
    have hnote : (link b v s).notice 11 = s.notice 11 := by
      cases v <;> rfl
    refine ⟨fun hf => ?_, fun hf => ?_⟩
    · rw [hx, hset, noticePost, hnote]
      simp only [hf, Bool.false_eq_true, if_false]
    · rw [hx, hset, noticePost, hnote]
      simp only [hf, if_true]
  case bad =>
    intro s b f dt hen hl hc hbad
    rw [hframe, frameReceived, if_neg (by simp [hen, hl, hc]), if_pos (by simpa using hbad)]
  case forwards =>
    intro s b f dt i sq hh hhsr hnp hsrc hn hroom hd hg hl
    have hus := forUs_other hd hg
    have hdst : (f.dst != ownMac s) = true := by simpa using hd
    refine ⟨fun hnone => ?new, fun e he hgone => ?again⟩
    case new =>
      refine ⟨_, hring s b f dt hh, ?_⟩
      rw [ringFrame_noted (e := ⟨f.src, sq, false, false, false, s.net.age⟩) hhsr hsrc hn hroom (by rw [hnone]; rfl)]
      cases b with
      | false =>
        have hl' : ∀ e, linkOf (ddNoted e s) true = true := fun _ => hl
        simp only [hdst, hus, Bool.false_eq_true, if_false, Bool.not_false, Bool.and_self, if_true, ringForward, tcForward_other hnp,
          egress, hl' _, enqueue_ddNoted]
        exact ⟨rfl, rfl, rfl, rfl⟩
      | true =>
        have hl' : ∀ e, linkOf (ddNoted e s) false = true := fun _ => hl
        simp only [hdst, hus, Bool.false_eq_true, if_false, Bool.not_false, Bool.and_self, if_true, ringForward, tcForward_other hnp,
          egress, hl' _, Bool.not_true, enqueue_ddNoted]
        exact ⟨rfl, rfl, rfl, rfl⟩
    case again =>
      obtain ⟨hk1, hk2⟩ := ddFind_key he
      have hfwd : (f.dst != ownMac s && !(if b then e.toA else e.toB)) = false := by rw [hgone]; simp
      rw [hring s b f dt hh, ringFrame_noted (e := e) hhsr hsrc hn hroom (by rw [he]; rfl)]
      simp only [hfwd, hus, Bool.false_eq_true, if_false, Bool.or_false, Bool.and_false]
      rw [ddNoted, hk1, hk2]
  case order =>
    intro s f l
    refine ⟨enqueue_perm s f l, fun hne => ?_, fun hp => ?_⟩
    · cases l with
      | nil => exact absurd rfl hne
      | cons g t => rfl
    · cases l with
      | nil => exact List.Pairwise.nil
      | cons g t => exact byClass_sorted s f hp
  case own =>
    intro s b f dt i sq hh hhsr hsrc
    rw [hring s b f dt hh, ringFrame, hhsr]
    simp only [hsrc, BEq.rfl, if_true]
  case unicast =>
    intro s b f dt i sq hh hhsr hsrc hn hroom hd hother hcfg hx
    obtain ⟨ty, pl, hf⟩ := hother
    have hus := forUs_own hd
    have hdst : (f.dst != ownMac s) = false := by simpa using hd
    have hx' : ∀ e, xingReady (ddNoted e s) (b2n b) = true := fun _ => hx
    have hcfg' : ∀ e, (ddNoted e s).bit Reg.netHostCfg 7 = true := fun _ => hcfg
    refine ⟨fun hnone => ?first, fun e he hgone => ?later⟩
    case first =>
      rw [hring s b f dt hh,
        ringFrame_noted (e := ⟨f.src, sq, false, false, false, s.net.age⟩) hhsr hsrc hn hroom (by rw [hnone]; rfl)]
      simp only [hdst, hus, Bool.false_and, Bool.false_eq_true, if_false, if_true, Bool.and_false, Bool.or_false, Bool.or_true,
        Bool.not_false]
      rw [toInternal_ready (hx' _), deliver_host hf (hcfg' _)]
      rfl
    case later =>
      obtain ⟨hk1, hk2⟩ := ddFind_key he
      rw [hring s b f dt hh, ringFrame_noted (e := e) hhsr hsrc hn hroom (by rw [he]; rfl)]
      simp only [hdst, hus, hgone, Bool.false_and, Bool.false_eq_true, if_false, if_true, Bool.and_false, Bool.or_false, Bool.or_true,
        Bool.not_true]
      rw [toInternal_ready (hx' _), deliver_again hf, ddNoted, hk1, hk2]
  case untagged =>
    intro s b f dt hh hhsr hd hother hcfg
    obtain ⟨ty, pl, hf⟩ := hother
    have hr : ringFrame b f dt s = toInternal b true f dt s := by
      simp only [ringFrame, hhsr, forUs_own hd, if_true]
    refine ⟨fun hx => ?_, fun hx => ?_⟩
    · rw [hring s b f dt hh, hr, toInternal_ready hx, deliver_host hf hcfg]
    · rw [hring s b f dt hh, hr]
      simp only [toInternal, viaFifo, if_true, hx, Bool.false_eq_true, if_false]
  case clock =>
    intro s b f ty n p c pl hb put
    refine ⟨fun htc => ?off, fun htc hty hone => ?one, fun htc hty htwo => ?two, fun htc hty d hfind => ?follow⟩
    case off => simp only [tcForward, hb, htc, Bool.not_false, if_true]
    case one =>
      simp only [tcForward, hb, htc, hty, hone, Bool.not_true, Bool.false_eq_true, if_false, if_true]
      exact ⟨_, rfl⟩
    case two =>
      simp only [tcForward, hb, htc, hty, htwo, Bool.not_true, Bool.false_eq_true, if_false, if_true]
      refine ⟨trivial, (residence b (noticePost 11 0x20#32 s)).1, ?_⟩
      have hnet := (residence_net b (noticePost 11 0x20#32 s)).trans (noticePost_net _ _ _)
      exact congrArg (fun m : Net => m.tcDue ++ [(p, n, b, (residence b (noticePost 11 0x20#32 s)).1)]) hnet
    case follow =>
      subst hty
      simp only [tcForward, hb, htc, hfind, Bool.not_true, Bool.false_eq_true, if_false, if_true, show ¬ (8 < 4) by decide]
      rfl
  case supervision =>
    intro s hen hc hm hla hlb hx2 hx3 f
    have hx : exec .supervisionFrame s = .next (supervisionFrame s) := rfl
    have hgo : supervisionFrame s = ownEgress true (f 1) (ownEgress false (f 0) (s.modNet fun n => { n with
        hsrSeq := s.net.hsrSeq + 1#16 })) := by
      rw [supervisionFrame, if_pos ⟨hen, hc, hm⟩, originate, hm]
      rfl
    rw [hx, hgo, ownEgress_a (by exact hx2) (by exact hc) (by exact hla), ownEgress_b (by exact hx3) (by exact hc) (by exact hlb)]
    simp only [enqueue_modNet]
    rfl
  case forgets =>
    intro s mac hc
    have hx : exec (.nodeForget mac) s = .next (nodeForget mac s) := rfl
    rw [hx, nodeForget, if_pos hc]
  case report =>
    intro s k h hmem hage hm hla hc hx2 g f
    have hx : exec (.igmpReport k) s = .next (igmpReport k.val s) := rfl
    have hdue : igmpDue s k.val = true := List.any_eq_true.mpr ⟨_, hmem, by simpa using hage⟩
    rw [hx, igmpReport, if_pos hdue, igmpSend]
    by_cases hv2 : 0 < s.net.igmpV2
    · rw [show f = ⟨groupMac g, ownMac s, none, none, 64, true, 0, none, .igmpReport g none true true⟩ from if_pos hv2,
        if_pos (by exact hv2), originate_single (by exact hm) (by exact hx2) (by exact hc) (by exact hla),
        enqueue_modNet]
      rfl
    · rw [show f = ⟨groupMac 0xE0000016#32, ownMac s, none, none, 64, true, 0, none, .igmpReport g (igmpSource s k) true false⟩
          from if_neg hv2,
        if_neg (by exact hv2), originate_single (by exact hm) (by exact hx2) (by exact hc) (by exact hla),
        enqueue_modNet]
      rfl
  case phy => exact fun s l => rfl

end Sys2Proof.Machine
end

section
/-! Streams: their enable, their packets and their losses (chapter 15). -/

namespace Sys2Proof.Machine
open Sys2Proof

/-- The enable bit of stream `k` in its live register as the shadow's word `w` has it, the shadow's write done. -/
def bitTaken (a k : Nat) (w : Word) (s : State) : State :=
  { s.wrb a (k % 32) (w.getLsbD (k % 32)) with wbPend := tset none s.wbPend a none }

/-- A shadow whose every other bit is the live one is done with. -/
theorem streamBit_done {a k : Nat} {w : Word} {s : State} (h : tget none s.wbPend a = some w)
    (hrd : (s.wrb a (k % 32) (w.getLsbD (k % 32))).rd a = w) : streamBit a k s = bitTaken a k w s := by
  unfold streamBit
  rw [h]
  dsimp only
  rw [if_pos hrd]
  rfl

theorem bitTaken_rd {a k : Nat} {w : Word} {s : State} (hrd : (s.wrb a (k % 32) (w.getLsbD (k % 32))).rd a = w) :
    (bitTaken a k w s).rd a = w := hrd

/-- The registers of the stream tables are not the enable registers. -/
theorem bitTaken_rd_ne {a b : Nat} (h : b ≠ a) (k : Nat) (w : Word) (s : State) : (bitTaken a k w s).rd b = s.rd b := by
  show (s.wrb a (k % 32) (w.getLsbD (k % 32))).rd b = s.rd b
  rw [State.wrb, State.rd_wr, if_neg h]

theorem bitTaken_wbPend (a k : Nat) (w : Word) (s : State) : tget none (bitTaken a k w s).wbPend a = none :=
  tget_tset_self none none s.wbPend a

theorem rxWord_ne_rxEn (r k : Nat) (hr : r < 64) {o : Nat} (ho : o < 0x80) : Reg.rxWord r o ≠ Reg.netRxEn k := by
  simp only [Reg.rxWord, Reg.netRxEn]
  omega

section
variable {k : Nat} {w : Word} {s : State}

theorem streamTurn_rx (hp : tget none s.wbPend (Reg.netRxEn k) = some w)
    (hrd : (s.wrb (Reg.netRxEn k) (k % 32) (w.getLsbD (k % 32))).rd (Reg.netRxEn k) = w)
    (hne : s.bit (Reg.netRxEn k) (k % 32) ≠ w.getLsbD (k % 32)) :
    streamTurn false k s =
      let u := bitTaken (Reg.netRxEn k) k w s
      if w.getLsbD (k % 32) then
        if rxCause u k = 0 then rxStart k u
        else streamEvent 2 false k ((u.wrb (Reg.netRxEn k) (k % 32) false).setRxs k { u.rxs k with cause := rxCause u k })
      else
        let v := (u.setRxs k { u.rxs k with stopping := true, rising := false }).modNet fun n =>
          { n with igmpDue := n.igmpDue.filter (·.1 != k) }
        if isGroupIp (s.rd (Reg.rxWord k 0)) ∧ !groupShared s k then
          igmpSend (s.rd (Reg.rxWord k 0)) (igmpSource s k) false v else v := by
  have hbit : (bitTaken (Reg.netRxEn k) k w s).bit (Reg.netRxEn k) (k % 32) = w.getLsbD (k % 32) := by
    rw [State.bit, bitTaken_rd hrd]
  unfold streamTurn
  simp only [Bool.false_eq_true, if_false, streamBit_done hp hrd, hbit, hne, clearBoth_live (bitTaken_wbPend _ _ _ _)]

theorem streamTurn_tx (hp : tget none s.wbPend (Reg.netTxEn k) = some w)
    (hrd : (s.wrb (Reg.netTxEn k) (k % 32) (w.getLsbD (k % 32))).rd (Reg.netTxEn k) = w)
    (hne : s.bit (Reg.netTxEn k) (k % 32) ≠ w.getLsbD (k % 32)) (hc : txCause (bitTaken (Reg.netTxEn k) k w s) k = 0 ∨
      w.getLsbD (k % 32) = false) :
    streamTurn true k s =
      let u := bitTaken (Reg.netTxEn k) k w s
      if w.getLsbD (k % 32) then
        u.setTxs k { TxStream.off with on := true, seq := BitVec.ofNat 16 (s.rdf (Reg.txWord k 8) 16 16) }
      else u.setTxs k TxStream.off := by
  have hbit : (bitTaken (Reg.netTxEn k) k w s).bit (Reg.netTxEn k) (k % 32) = w.getLsbD (k % 32) := by
    rw [State.bit, bitTaken_rd hrd]
  unfold streamTurn
  simp only [if_true, streamBit_done hp hrd, hbit, hne, if_false]
  rcases hc with hc | hc
  · simp only [hc, if_true]
  · simp only [hc, Bool.false_eq_true, if_false]

end

/-! ### Packets -/

/-- A register of the stream tables is none of the block's own, so the part keeps its address and its mode. -/
theorem inc_txWord_rd {t o a : Nat} (ha : 0x40000000 ≤ a) (ht : t < 64) (ho : o < 0x40) (s : State) :
    (s.inc (Reg.txWord t o)).rd a = s.rd a := by
  rw [State.inc, State.rd_wr, if_neg (by simp only [Reg.txWord]; omega)]

/-- Settles O39: each command by the bit, the frame or the packet it finds. -/
theorem streamsStartSendAndMiss : Obligations.StreamsStartSendAndMiss := by
  unfold Obligations.StreamsStartSendAndMiss
  intro rxA txA taken
  have hen : ∀ s tx (k : Fin 64), exec (.streamEnable tx k) s = .next (streamEnable tx k.val s) := fun _ _ _ => rfl
  refine ⟨?starts, ?stops, ?transmit, ?sends, ?misses, ?between, ?back⟩
  case starts =>
    intro s k w hp hbit hw hat hrd u
    rw [hw.symm] at hrd
    have hturn := streamTurn_rx hp hrd (by rw [show s.bit (Reg.netRxEn k) (k.val % 32) = false from hbit, hw]; decide)
    have hsen : exec (.streamEnable false k) s = .next (streamTurn false k.val s) := by rw [hen, streamEnable, if_pos hat]
    refine ⟨fun hc hg => ?start, fun hc => ?refuse⟩
    case start =>
      have hgu : isGroupIp (u.rd (Reg.rxWord k 0)) = false := by
        rw [show u.rd (Reg.rxWord k 0) = s.rd (Reg.rxWord k 0) from
          bitTaken_rd_ne (rxWord_ne_rxEn k k k.isLt (by decide)) k w s]
        exact hg
      obtain ⟨v, hv, ⟨t, hvt⟩, hhigh, h40, h44, -⟩ := rxStart_unicast k u k.isLt hgu
      have hgo : streamTurn false k.val s = v.setRxs k { RxStream.off with st := .wait } := by
        rw [hturn]
        simp only [hw, if_true]
        exact (if_pos hc).trans hv
      refine ⟨_, hsen.trans (congrArg _ hgo), ?_, ?_, ?_, h40, h44, ?_, ?_⟩
      · rw [State.rxs_setRxs, if_pos rfl]
      · intro j hj
        rw [State.rxs_setRxs, if_neg hj, hvt]
        rfl
      · have hrdu : v.rd (rxA k) = w := (hhigh _ (by simp only [rxA, Reg.netRxEn]; omega)).trans (bitTaken_rd hrd)
        show (v.rd (rxA k)).getLsbD (k.val % 32) = true
        rw [hrdu, hw]
      · rw [hvt]
        rfl
      · rw [hvt]
        exact bitTaken_wbPend (rxA k) k.val w s
    case refuse =>
      rw [hsen, hturn]
      simp only [hw, if_true]
      exact congrArg _ (if_neg hc)
  case stops =>
    intro s k w hp hbit hw hg hat hrd u
    rw [hw.symm] at hrd
    rw [hen, streamEnable, if_pos hat,
      streamTurn_rx hp hrd (by rw [show s.bit (Reg.netRxEn k) (k.val % 32) = true from hbit, hw]; decide)]
    simp only [hw, Bool.false_eq_true, if_false, hg, false_and]
    rfl
  case transmit =>
    intro s k w hp hat hrd u
    refine ⟨fun hbit hw hc => ?_, fun hbit hw => ?_⟩
    · rw [hen, streamEnable, if_pos hat,
        streamTurn_tx hp hrd (by rw [show s.bit (Reg.netTxEn k) (k.val % 32) = false from hbit, hw]; decide) (.inl hc)]
      simp only [hw, if_true]
      rfl
    · rw [hen, streamEnable, if_pos hat,
        streamTurn_tx hp hrd (by rw [show s.bit (Reg.netTxEn k) (k.val % 32) = true from hbit, hw]; decide) (.inr hw)]
      simp only [hw, Bool.false_eq_true, if_false]
      rfl
  case sends =>
    intro s k m x p smp pl dst w1 ts hon hp0 hp hclip hm hl hg hmac hc hx f
    have hx' : exec (.transmitPacket k) s = .next (transmitPacket k.val s) := rfl
    obtain ⟨s1, hs1⟩ : ∃ s1, s1 = (s.setTxs k { x with seq := x.seq + 1#16, frames := x.frames.drop p }).inc (Reg.txWord k.val 0x24) :=
      ⟨_, rfl⟩
    have hrd : ∀ a, 0x40000000 ≤ a → s1.rd a = s.rd a := fun a ha => by
      rw [hs1]
      exact inc_txWord_rd ha k.isLt (by decide) _
    have hmac1 : ownMac s1 = ownMac s := by
      simp only [ownMac, State.rdf, hrd Reg.netMacHi (by decide), hrd Reg.netMacLo (by decide)]
    have hm1 : netModeOf s1 = 0 := by
      rw [← hm]
      simp only [netModeOf, State.rdf, hrd Reg.netMode (by decide)]
    have hnone : (smp.filter (·.2)).length = 0 := by
      rw [List.length_eq_zero_iff, List.filter_eq_nil_iff]
      intro y hy
      simpa using List.all_eq_true.mp hclip y hy
    have hgo : transmitPacket k.val s = originate f s1 := by
      unfold transmitPacket
      dsimp only
      rw [if_pos ⟨hon, hp0, hp⟩]
      show sendIp dst _ _ _ _ (List.foldl _ ((s.setTxs k.val { x with seq := x.seq + 1#16, frames := x.frames.drop p }).inc
        (Reg.txWord k.val 0x24)) (List.range (smp.filter (·.2)).length)) = _
      rw [hnone, List.range_zero, List.foldl_nil, ← hs1, sendIp, if_pos hg]
      simp only [ownFrame, hmac1, f, hmac]
      rfl
    rw [hx', hgo, originate_single hm1 (by rw [hs1]; exact hx) (by rw [hs1]; exact hc) (by rw [hs1]; exact hl),
      show enqueue s1 = enqueue s from funext fun f => funext fun l => enqueue_congr hmac1 f l, hs1]
  case misses =>
    intro s k x hst hstop hcur y
    have hx : exec (.missingPacket k) s = .next (missingPacket k.val s) := rfl
    have hgo : ∀ z, z = { y with st := if rxLossPkts s k.val ≤ x.missing + 1 then .loss else x.st } →
        missingPacket k.val s = if x.st = .run ∧ rxLossPkts s k.val ≤ x.missing + 1 then
          streamEvent 0 false k.val ((s.inc (Reg.rxWord k.val 0x2C)).setRxs k.val z)
        else (s.inc (Reg.rxWord k.val 0x2C)).setRxs k.val z := by
      rintro z rfl
      unfold missingPacket
      dsimp only
      rw [if_pos ⟨hst, by simpa using hstop, by rw [hcur]; rfl⟩]
    refine ⟨fun hlt => ?few, fun hloss hge => ?already, fun hrun hge => ?loss⟩
    case few =>
      rw [hx, hgo y (by rw [if_neg (Nat.not_le.mpr hlt)]), if_neg fun h => Nat.not_le.mpr hlt h.2]
    case already =>
      rw [hx, hgo y (by rw [if_pos hge, ← hloss]), if_neg fun h => by rw [hloss] at h; exact absurd h.1 (by decide)]
    case loss =>
      rw [hx, hgo { y with st := .loss } (by rw [if_pos hge]), if_pos ⟨hrun, hge⟩]
      rfl
  case between =>
    intro s k hat
    have hx : exec (.offsetReturn k) s = .next (offsetReturn k.val s) := rfl
    refine ⟨?_, ?_⟩
    · rw [hen, streamEnable, if_neg (by rw [hat]; decide)]
    · rw [hx, offsetReturn]
      simp only [hat, Bool.false_eq_true, and_false, if_false]
  case back =>
    intro s k hst hdue hat
    have hx : exec (.offsetReturn k) s = .next (offsetReturn k.val s) := rfl
    rw [hx, offsetReturn]
    simp only [hst, hdue, hat, ne_eq, not_false_eq_true, and_self, if_true]
    rfl

end Sys2Proof.Machine
end

section
/-! Requests of the dictionary: placed, taken, answered (chapters 16 and 17). -/

namespace Sys2Proof.Machine
open Sys2Proof

/-- A complete request has its response on the tenant's queue, and is outstanding no longer. -/
def responsePlaced (t : Nat) (q : Req) (s : State) : State :=
  ringStep (Reg.qProd (8 * t + 2)) (s.queueSize (8 * t + 2)) 1 (s.setTenant t { s.tenant t with
    reqs := (s.tenant t).reqs.filter fun y => decide (y.tag ≠ q.tag)
    resps := (s.tenant t).resps ++ [⟨q.tag, q.status, opCode q.op, q.hinge, q.detail, respType s q, q.value, q.sess, q.sid⟩] })

/-- The response queue has room, and the session that asked is open. -/
def HasRoom (t : Nat) (q : Req) (s : State) : Prop :=
  (s.tenant t).resps.length < s.queueSize (8 * t + 2) ∧ (q.sess = none ∨ (reqSession s q).isSome = true)

theorem placeResponse_room {t : Nat} {q : Req} {s : State} (h : HasRoom t q s) : placeResponse t q s = responsePlaced t q s := by
  obtain ⟨hlen, hsess⟩ := h
  have hopen : (q.sess.isSome && (reqSession s q).isNone) = false := by
    rcases hsess with h | h
    · rw [h]; rfl
    · rw [Option.isNone_eq_false_iff.mpr h, Bool.and_false]
  unfold placeResponse
  dsimp only
  rw [if_neg (by rw [hopen]; decide), if_pos hlen]
  rfl

/-- A request that completes with a status other than RIGHTS. -/
theorem finish_room {t tag : Nat} {q q' : Req} {status detail : Nat} {h : Word} {v : List Byte} {s : State}
    (hq : reqOf s t tag = some q) (hroom : HasRoom t q s) (h5 : status ≠ 5)
    (hq' : { q with status := status, hinge := h, detail := detail, value := v } = q') :
    finish t tag status h detail v s = responsePlaced t q' s := by
  subst hq'
  simp only [finish, hq, h5, if_false]
  exact placeResponse_room hroom

/-- A request in order is placed: it takes the next arrival number and counts as a heartbeat. -/
theorem placeRequest_ok {s : State} {t queue tag : Nat} (op : ReqOp) (hlost : (s.tenant t).lost = false) :
    placeRequest t queue tag op none 0#32 false true s =
      ringStep (Reg.qProd (8 * t + queue)) (s.queueSize (8 * t + queue)) 1 ((s.setTenant t { s.tenant t with
        arrival := (s.tenant t).arrival + 1#32
        reqs := (s.tenant t).reqs ++ [⟨tag, (s.tenant t).arrival + 1#32, queue, op, none, 0#32, false, .queued, 0,
          0#32, 0, []⟩] }).modTenant t fun x => { x with lost := false, hbSince := s.dict.hinges }) := by
  have hl : ∀ x : Tenant, ((s.setTenant t x).tenant t) = x := fun x => by rw [State.tenant_setTenant, if_pos rfl]
  unfold placeRequest
  simp only [if_true, heartbeat, hl, hlost, Bool.false_eq_true, if_false]
  rfl

theorem takenReq_taken {s : State} {t tag : Nat} {q : Req} (hruns : dictRuns s = true) (hq : reqOf s t tag = some q)
    (hst : q.st = .taken) : takenReq s t tag = some q := by
  simp only [takenReq, hruns, if_true, hq, Option.bind_some, hst]

/-- A change of a tenant that leaves its requests and responses leaves what is outstanding and the room for a response. -/
theorem reqOf_modTenant {s : State} {t : Nat} {f : Tenant → Tenant} (hf : ∀ x, (f x).reqs = x.reqs) (tag : Nat) :
    reqOf (s.modTenant t f) t tag = reqOf s t tag := by
  rw [reqOf, State.modTenant, State.tenant_setTenant, if_pos rfl, hf]
  rfl

theorem hasRoom_modTenant {s : State} {t : Nat} {q : Req} {f : Tenant → Tenant} (hf : ∀ x, (f x).resps = x.resps)
    (h : HasRoom t q s) : HasRoom t q (s.modTenant t f) := by
  obtain ⟨hlen, hsess⟩ := h
  refine ⟨?_, hsess⟩
  rw [State.modTenant, State.tenant_setTenant, if_pos rfl, hf]
  exact hlen

theorem subscribeSet_event (t : Nat) (x : Option Subscr) (s : State) :
    subscribeSet t 1 x s = s.modTenant t fun y => { y with subEvent := x } := rfl

theorem subscribeSet_tap (t : Nat) (x : Option Subscr) (s : State) :
    subscribeSet t 2 x s = s.modTenant t fun y => { y with subTap := x } := rfl

/-- Settles O41: placement by its cause, taking by the checks' status, the answers through the response queue. -/
theorem requestsArePlacedTakenAndAnswered : Obligations.RequestsArePlacedTakenAndAnswered := by
  unfold Obligations.RequestsArePlacedTakenAndAnswered
  intro place room taken ok beat
  have hx : ∀ (s : State) (t queue : Fin 8) (tag : BitVec 16) (op : ReqOp),
      exec (.requestPlacement t queue tag op) s = .next (requestPlacement t.val queue.val tag.toNat op s) := fun _ _ _ _ _ => rfl
  have hgo : ∀ (s : State) (t queue : Fin 8), queue.val ∈ [0, 1, 4] → (s.tenant t).st ≠ .absent →
      ¬ ([0, 1, 4].contains queue.val = false ∨ (s.tenant t).st = .absent) := by
    rintro s t queue hq hst (h | h)
    · rw [List.contains_iff_mem.mpr hq] at h
      cases h
    · exact hst h
  refine ⟨?placed, ?busy, ?takes, ?held, ?answered⟩
  case placed =>
    intro s t queue tag op hq hst hreset hlen hlost
    have hact : (s.tenant t).st ≠ .absent := by rw [hst]; decide
    have hfree : ¬ ((s.tenant t).st ≠ .active ∨ (s.tenant t).resetting ≠ 0 ∨ 256 ≤ (s.tenant t).reqs.length) := by
      rintro (h | h | h)
      · exact h hst
      · exact h hreset
      · omega
    refine ⟨fun hnew => ?_, fun hdup => ?_⟩
    · have hany : ((s.tenant t).reqs.any fun q => decide (q.tag = tag.toNat)) = false := by simpa using hnew
      have hc : placeCause s t tag.toNat = 0 := by
        rw [placeCause, if_neg hfree, if_neg (by rw [hany]; decide)]
      rw [hx, requestPlacement, if_neg (hgo s t queue hq hact), hc]
      exact congrArg _ (placeRequest_ok op hlost)
    · have hany : ((s.tenant t).reqs.any fun q => decide (q.tag = tag.toNat)) = true := by simpa using hdup
      have hc : placeCause s t tag.toNat = 2 := by
        rw [placeCause, if_neg hfree, if_pos hany]
      rw [hx, requestPlacement, if_neg (hgo s t queue hq hact), hc]
      rfl
  case busy =>
    intro s t queue tag op hq hst hbusy
    have hc : placeCause s t tag.toNat = 1 := by
      rw [placeCause, if_pos]
      rcases hbusy with h | h | h
      · exact .inl (by rw [h]; decide)
      · exact .inr (.inl h)
      · exact .inr (.inr h)
    rw [hx, requestPlacement, if_neg (hgo s t queue hq hst), hc]
    rfl
  case takes =>
    intro s t q f hruns hnext s1
    have hx : exec .requestTake s = .next (requestTake s) := rfl
    refine ⟨fun hk => ?_, fun hk h5 hq hroom => ?_⟩
    · rw [hx, requestTake]
      simp only [hruns, hnext, hk, if_true, ne_eq, not_true_eq_false, if_false]
      rfl
    · rw [hx, requestTake]
      simp only [hruns, hnext, hk, if_true, ne_eq, not_false_eq_true]
      exact congrArg _ (finish_room hq hroom h5 rfl)
  case held =>
    intro s t q hfind hroom
    have hx : exec (.responseHoldRelease t) s = .next (responseHoldRelease t.val s) := rfl
    rw [hx, responseHoldRelease, hfind]
    dsimp only
    rw [if_pos (.inl hroom.1)]
    exact congrArg _ (placeResponse_room hroom)
  case answered =>
    intro s t tag q htaken hroom
    obtain ⟨hruns, hq, hst⟩ := htaken
    have htk := takenReq_taken hruns hq hst
    have hsub : ∀ f : Tenant → Tenant, (∀ x, (f x).reqs = x.reqs) → (∀ x, (f x).resps = x.resps) →
        finish t tag.toNat 0 0#32 0 [] (s.modTenant t f) = place t (ok q) (s.modTenant t f) := fun f h1 h2 =>
      finish_room ((reqOf_modTenant h1 _).trans hq) (hasRoom_modTenant h2 hroom) (by decide) rfl
    refine ⟨fun hop => ?nop, fun sev src hop => ?event, fun sev src hop => ?tap, fun hop => ?noEvent, fun hop => ?noTap⟩
    case nop =>
      have hx : exec (.requestNop t tag) s = .next (nopRequest t.val tag.toNat s) := rfl
      rw [hx, nopRequest, htk]
      simp only [hop]
      exact congrArg _ (finish_room hq hroom (by decide) rfl)
    case event =>
      have hx : exec (.subscribeReq t tag) s = .next (subscribeRequest t.val tag.toNat s) := rfl
      rw [hx, subscribeRequest, htk]
      simp only [hop, subscribeSet_event]
      exact congrArg _ (hsub _ (fun _ => rfl) fun _ => rfl)
    case tap =>
      have hx : exec (.subscribeReq t tag) s = .next (subscribeRequest t.val tag.toNat s) := rfl
      rw [hx, subscribeRequest, htk]
      simp only [hop, subscribeSet_tap]
      exact congrArg _ (hsub _ (fun _ => rfl) fun _ => rfl)
    case noEvent =>
      have hx : exec (.unsubscribeReq t tag) s = .next (unsubscribeRequest t.val tag.toNat s) := rfl
      rw [hx, unsubscribeRequest, htk]
      simp only [hop, subscribeSet_event]
      exact congrArg _ (hsub _ (fun _ => rfl) fun _ => rfl)
    case noTap =>
      have hx : exec (.unsubscribeReq t tag) s = .next (unsubscribeRequest t.val tag.toNat s) := rfl
      rw [hx, unsubscribeRequest, htk]
      simp only [hop, subscribeSet_tap]
      exact congrArg _ (hsub _ (fun _ => rfl) fun _ => rfl)

end Sys2Proof.Machine
end

section
/-! Staging and the requests that wait for the hinge (chapters 6, 10 and 11). -/

namespace Sys2Proof.Machine
open Sys2Proof

/-! ### Shadow writes -/

theorem regionOf_aperture {a : Nat} (h1 : 0x3C000000 ≤ a) (h2 : a < 0x3D000000) : regionOf a = .aperture := by
  unfold regionOf
  repeat rw [if_neg (by omega)]
  rw [if_pos ⟨h1, h2⟩]

theorem regionOf_scWindow {a : Nat} (h1 : 0x38000000 ≤ a) (h2 : a < 0x38200000) : regionOf a = .scWindow := by
  unfold regionOf
  repeat rw [if_neg (by omega)]
  rw [if_pos ⟨h1, h2⟩]

/-- An access that reaches the audio side is aligned. -/
theorem reachesAudio_aligned {s : State} {m : Master} {a : Nat} (h : reachesAudio s m a = true) : a % 4 = 0 := by
  simp only [reachesAudio, Bool.and_eq_true, decide_eq_true_eq] at h
  exact h.1.1.1.1.2

theorem wordOf_aligned {a : Nat} (h : a % 4 = 0) : wordOf a = a := by
  unfold wordOf
  omega

theorem ofNat_low_word (v : BitVec 64) : BitVec.ofNat 32 (v.toNat % 2 ^ 32) = v.setWidth 32 := by
  apply BitVec.eq_of_toNat_eq
  simp

/-- A table that has a set has a shadow half. -/
theorem tableShadowed_of_set {t : ApTable} {c : CSet} (h : tableSet t = some c) : tableShadowed t = true := by
  cases t <;> simp_all [tableSet, tableShadowed]

/-- Settles O35: a staged word by its set, a node's live word, the inactive bank and the end of its copy. -/
theorem shadowWritesStageWholeSets : Obligations.ShadowWritesStageWholeSets := by
  unfold Obligations.ShadowWritesStageWholeSets
  have hshadow : ∀ s m (a : Word) v, exec (.shadowWrite m a .word v) s = .next (regArrive m a.toNat .word v s) := fun _ _ _ _ => rfl
  refine ⟨?stage, ?node, ?bank, ?copied⟩
  case stage =>
    intro s m a v t c b x hreach hlo hhi ht hc hnode
    have hal := reachesAudio_aligned hreach
    have hb : a.toNat - shadowOff = b := rfl
    have hat : apTableAt a.toNat = some t := by
      rw [apTableAt, if_neg (by omega), hb, ht, Option.filter_some, if_pos (tableShadowed_of_set hc)]
    obtain ⟨hlive, hmem⟩ := setWords_live (b - 0x3C000000) t c (by omega) (by rw [Nat.add_sub_cancel' (by omega)]; exact ht) hc
    rw [Nat.add_sub_cancel' (by omega)] at hmem
    have hgo : regArrive m a.toNat .word v s = stageWord c b x s := by
      rw [regArrive_table s m a.toNat v hreach (regionOf_aperture (by omega) hhi),
        apertureWrite_shadow _ _ _ _ t c s (wordOf_aligned hal) (by omega) hat hc, hb, ofNat_low_word,
        shadowWrite_stages t c b _ s hnode]
    obtain ⟨hdirty, hval, hrest, hregs, hothers, r, l, hframe⟩ := stageWord_spec c b x s hlive hmem
    refine ⟨_, (hshadow s m a v).trans (congrArg _ hgo), hdirty, ?_, hrest, fun w hw _ => hregs w hw, hothers, ?_⟩
    · rw [hval]
      cases c <;> rfl
    · rw [hframe]
  case node =>
    intro s m a v o i x hreach ho hi ha
    have hx : exec (.nodeWrite m a .word v) s = .next (regArrive m a.toNat .word v s) := rfl
    have hal := reachesAudio_aligned hreach
    have hrange : 0x3C000000 ≤ a.toNat ∧ a.toNat < 0x3C800000 := by
      rw [ha]
      simp only [Reg.nodeWord]
      omega
    have hat : apTableAt a.toNat = some (.node o i) := by
      rw [apTableAt, if_pos hrange.2, ha]
      exact apTable_node o i ho hi
    have hgo : regArrive m a.toNat .word v s = if nodeFull s o i (fld x 0 16) then nodeRefused a.toNat o s
        else setPending a.toNat x s := by
      rw [regArrive_table s m a.toNat v hreach (regionOf_aperture hrange.1 (by omega)),
        apertureWrite_live _ _ _ _ (.node o i) s (wordOf_aligned hal) hrange.2 hat, ofNat_low_word]
      rfl
    refine ⟨fun hfull => ?_, fun hfull => ?_⟩
    · rw [hx, hgo, if_neg (by rw [hfull]; decide)]
      rfl
    · rw [hx, hgo, if_pos hfull]
      rfl
  case bank =>
    intro s m a v n off hreach hn hoff ha
    have hbase : 0x38000000 ≤ a.toNat ∧ a.toNat < 0x38200000 ∧ (a.toNat - 0x38000000) % 0x20000 < 0x18000 := by
      rw [ha]
      simp only [coefBase, scBase]
      split <;> omega
    have hgo : regArrive m a.toNat .word v s = windowWrite (whoOf s m) a.toNat 4 (v.toNat % 2 ^ 32) s := by
      rw [regArrive_audio s m a.toNat v hreach]
      simp only [memoryWrite, regionOf_scWindow hbase.1 hbase.2.1]
      rw [if_neg (by omega)]
    have hw := windowWrite_coef (whoOf s m) n off (v.toNat % 2 ^ 32) s hn hoff
    rw [← ha] at hw
    refine ⟨fun hcopy => ?_, fun hcopy => ?_⟩
    · rw [hshadow, hgo, hw, if_neg (by rw [hcopy]; decide)]
    · rw [hshadow, hgo, hw, if_pos hcopy]
  case copied =>
    intro s n hcopy hwf
    have hx : exec (.coefBankCopyEnd n) s = .next (coefCopyEnd n.val s) := rfl
    obtain ⟨hdone, hheld, hmem, hdirty⟩ := coefCopyEnd_spec n.val s hcopy
    refine ⟨_, hx, hdone, hheld, fun hnone => ⟨?_, fun k hk => ?_, fun j hj => ?_⟩, fun hsome => ?_⟩
    · rw [hdirty, hnone]
      rfl
    · rw [hmem, hnone]
      exact memGet_memCopy _ _ _ _ k hwf hk
    · rw [hmem, hnone]
      exact memGet_memCopy_other _ _ _ _ j hj
    · rw [hdirty, decide_eq_true hsome, Bool.true_or]

/-! ### Requests for the hinge -/

/-- A claim, release or release of all, by its operation: queued, or ignored on a full queue. -/
theorem regAccess_claim {s : State} {m : Master} (h : reaches s m true 0x40040028 = true) (v : BitVec 64) {op : Nat} (ho : op < 4) :
    regAccess m 0x40040028 .word (withField v 16 2 op) s =
      if 64 ≤ s.weld.queue.length then sqSet Reg.weldEvt [2] (s.wrn Reg.weldEvtSrc (v.toNat % 128))
      else s.modWeld fun w => { w with
        queue := w.queue ++ [⟨v.toNat % 128, v.toNat / 256 % 16, v.toNat / 4096 % 16, op⟩]
        lastReq := BitVec.ofNat 32 (v.toNat % 128 + v.toNat / 256 % 256 * 256 + op * 65536) } := by
  obtain ⟨hzone, hclaimant, hlevel, hop, hlast⟩ := claim_fields' v op ho
  have hrw : ∀ x, rwWrite (whoOf s m) 0x40040028 x s = claimWrite x s := fun _ => rfl
  rw [regAccess_rw s m _ 0x3FBFF7F _ h (row_of_map (by decide)) (by decide) (by decide) (by decide), hrw, claimWrite, hzone,
    hclaimant, hlevel, hop, hlast]
  rfl

/-- Settles O36: the commit request by its groups, the swap's command bits, and the three claim operations. -/
theorem requestsWaitForTheHinge : Obligations.RequestsWaitForTheHinge := by
  unfold Obligations.RequestsWaitForTheHinge
  have hswap : ∀ (s : State) (m : Master) (v : BitVec 64), reaches s m true 0x40020040 = true →
      regAccess m 0x40020040 .word v s = gswapCtrlWrite (v.setWidth 32) s := fun s m v h =>
    (regAccess_w1 s m _ v h (row_of_map_cls (k := 0x3) (by decide)) (by decide) (by decide) (by decide)).trans rfl
  refine ⟨?commit, ?arm, ?cancel, ?claims⟩
  case commit =>
    intro s m hi v base ok h
    have hx : exec (.commitRequest m hi .word v) s = .next (regAccess m (0x40030020 + 4 * b2n hi) .word v s) := rfl
    have hbase : base + 32 ≤ 64 := by
      cases hi <;> decide
    have hgo : regAccess m (0x40030020 + 4 * b2n hi) .word v s
        = commitReqWrite base (masterId m) ((whoOf s m).lvl != .unprivileged) (v.setWidth 32) s := by
      cases hi
      · exact (regAccess_w1 s m _ v h (row_of_map_cls (k := 0xFFFFFFFF) (by decide)) (by decide) (by decide) (by decide)).trans rfl
      · exact (regAccess_w1 s m _ v h (row_of_map_cls (k := 0xFFFFFFFF) (by decide)) (by decide) (by decide) (by decide)).trans rfl
    obtain ⟨hframe, hgrp⟩ := commitReqWrite_spec base (masterId m) ((whoOf s m).lvl != .unprivileged) (v.setWidth 32) s hbase
    refine ⟨_, hx.trans (congrArg _ hgo), fun g => ?_, hframe.dirty, hframe.eng, hframe.weld, hframe.wbPend, hframe.bus, hframe.regs⟩
    have hbit : (decide (base ≤ g ∧ g < base + 32) && (v.setWidth 32).getLsbD (g - base))
        = (decide (base ≤ g ∧ g < base + 32) && v.getLsbD (g - base)) := by
      by_cases hg : base ≤ g ∧ g < base + 32
      · rw [BitVec.getLsbD_setWidth, decide_eq_true (show g - base < 32 by omega), Bool.true_and]
      · simp [hg]
    rw [hgrp g, hbit]
  case arm =>
    intro s m v h hv
    have hx : exec (.armSwap m .word v) s = .next (regAccess m 0x40020040 .word (v ||| 1#64) s) := rfl
    have h0 : ((v ||| 1#64).setWidth 32).getLsbD 0 = true := by simp
    have h1 : ((v ||| 1#64).setWidth 32).getLsbD 1 = false := by simpa using hv
    rw [hx, hswap s m _ h, gswapCtrlWrite]
    simp only [h0, h1, if_true, Bool.false_eq_true, if_false]
    rfl
  case cancel =>
    intro s m v h hv
    have hx : exec (.cancelSwap m .word v) s = .next (regAccess m 0x40020040 .word (v ||| 2#64) s) := rfl
    have h0 : ((v ||| 2#64).setWidth 32).getLsbD 0 = false := by simpa using hv
    have h1 : ((v ||| 2#64).setWidth 32).getLsbD 1 = true := by simp
    have hgo : regAccess m 0x40020040 .word (v ||| 2#64) s = cancelSwap s := by
      rw [hswap s m _ h, gswapCtrlWrite]
      simp only [h0, h1, if_true, Bool.false_eq_true, if_false]
    refine ⟨fun harm => ?_, fun harm => ?_⟩
    · rw [hx, hgo, cancelSwap, if_pos harm]
    · rw [hx, hgo, cancelSwap, if_neg (by rw [harm]; decide)]
  case claims =>
    intro s m v n put h
    have hc : exec (.claim m .word v) s = .next (regAccess m 0x40040028 .word (withField v 16 2 1) s) := rfl
    have hr : exec (.release m .word v) s = .next (regAccess m 0x40040028 .word (withField v 16 2 2) s) := rfl
    have ha : exec (.releaseAll m .word v) s = .next (regAccess m 0x40040028 .word (withField v 16 2 3) s) := rfl
    rw [hc, hr, ha, regAccess_claim h v (by decide), regAccess_claim h v (by decide), regAccess_claim h v (by decide)]
    refine ⟨fun hroom => ?_, fun hfull => ?_⟩
    · have hroom' : ¬ 64 ≤ s.weld.queue.length := by omega
      simp only [if_neg hroom']
      exact ⟨rfl, rfl, rfl⟩
    · simp only [if_pos hfull]
      exact ⟨rfl, rfl, rfl⟩

end Sys2Proof.Machine
end

section
/-! The PTP clock and the frames of the TDM ports (chapters 14 and 15). -/

namespace Sys2Proof.Machine
open Sys2Proof

/-! ### Setting events -/

/-- An event's bit carries the new sequence number. -/
theorem SqReg.tag_event {b : Nat} (h : b < 16) (q : SqReg) : (b, (q.event [b]).seq) ∈ (q.event [b]).tags := by
  unfold SqReg.event clampTags
  refine List.mem_map.mpr ⟨(b, q.seq + 1#16), ?_, ?_⟩
  · unfold tagBits
    refine List.mem_flatMap.mpr ⟨b, List.mem_range.mpr h, ?_⟩
    simp
  · simp

theorem sqSet_tag {a b : Nat} (h : b < 16) (h1 : a ≠ Reg.evtEvt) (h2 : a ≠ 0x400A0808) (s : State) :
    (b, ((sqSet a [b] s).sq a).seq) ∈ ((sqSet a [b] s).sq a).tags := by
  rw [sqSet_sq a b s h1 h2]
  exact SqReg.tag_event h _

section
variable (a b : Nat) (s : State)
theorem sqSet_net : (sqSet a [b] s).net = s.net := by rw [sqSet_rest]
theorem sqSet_mclk : (sqSet a [b] s).mclk = s.mclk := by rw [sqSet_rest]
theorem sqSet_tdm : (sqSet a [b] s).tdm = s.tdm := by rw [sqSet_rest]
theorem sqSet_eng : (sqSet a [b] s).eng = s.eng := by rw [sqSet_rest]
end

/-! ### The PTP clock -/

/-- A value written back into its own bit changes nothing. -/
theorem wsetBit_own (w : Word) {i : Nat} (h : i < 32) : wsetBit w i (w.getLsbD i) = w := by
  apply BitVec.eq_of_getLsbD_eq
  intro j hj
  rw [getLsbD_wsetBit w i j _ h]
  by_cases e : j = i
  · rw [if_pos e, e]
  · rw [if_neg e]

theorem State.bit_wrb (s : State) (a i j : Nat) (v : Bool) (h : i < 32) :
    (s.wrb a i v).bit a j = if j = i then v else s.bit a j := by
  rw [State.bit, State.wrb, State.rd_wr, if_pos rfl, getLsbD_wsetBit _ _ _ _ h]
  rfl

section
variable (y g : Bool) (s : State)

theorem ptpRoles_net : (ptpRoles y g s).net = s.net := by
  unfold ptpRoles
  dsimp only
  split
  · rfl
  · exact sqSet_net _ _ _

theorem ptpRoles_mclk : (ptpRoles y g s).mclk = s.mclk := by
  unfold ptpRoles
  dsimp only
  split
  · rfl
  · exact sqSet_mclk _ _ _

theorem ptpRoles_rd {a : Nat} (ha : a ≠ Reg.ptpCtrl) (hr : recordReg a = false) : (ptpRoles y g s).rd a = s.rd a := by
  have h : ((s.wrb Reg.ptpCtrl 0 y).wrb Reg.ptpCtrl 1 g).rd a = s.rd a := by
    rw [State.wrb, State.rd_wr, if_neg ha, State.wrb, State.rd_wr, if_neg ha]
  unfold ptpRoles
  dsimp only
  split
  · rfl
  · exact (sqSet_rd _ _ _ _ hr).trans h

/-- SYNCED and GM as they are set. -/
theorem ptpRoles_bits : (ptpRoles y g s).bit Reg.ptpCtrl 0 = y ∧ (ptpRoles y g s).bit Reg.ptpCtrl 1 = g := by
  have h0 : ((s.wrb Reg.ptpCtrl 0 y).wrb Reg.ptpCtrl 1 g).bit Reg.ptpCtrl 0 = y := by
    rw [State.bit_wrb _ _ _ _ _ (by decide), if_neg (by decide), State.bit_wrb _ _ _ _ _ (by decide), if_pos rfl]
  have h1 : ((s.wrb Reg.ptpCtrl 0 y).wrb Reg.ptpCtrl 1 g).bit Reg.ptpCtrl 1 = g := by
    rw [State.bit_wrb _ _ _ _ _ (by decide), if_pos rfl]
  unfold ptpRoles
  dsimp only
  split
  · next h =>
    rw [State.bit, h] at h0 h1
    exact ⟨h0, h1⟩
  · have hrd : ∀ t : State, (netEvent 4 t).rd Reg.ptpCtrl = t.rd Reg.ptpCtrl := fun t => sqSet_rd _ _ _ _ (by decide)
    rw [State.bit, State.bit, hrd]
    exact ⟨h0, h1⟩

end

/-- The PTP time after the cycles depends on the time and on the rate alone. -/
theorem ptpRun_net_congr {s t : State} (hn : t.net = s.net) (hr : t.rd Reg.ptpRate = s.rd Reg.ptpRate) (k : Nat) :
    (ptpRun k t).net = (ptpRun k s).net := by
  show ptpSet (ptpUnits t.net + k * ptpCycle t) t.net = ptpSet (ptpUnits s.net + k * ptpCycle s) s.net
  rw [ptpCycle, ptpCycle, hn, hr]

/-- What a write of NET.PTP_CTRL leaves of the state before the step or the snapshot. -/
def ptpRolesWritten (v : Word) (s : State) : State :=
  ptpRoles (v.getLsbD 0) (v.getLsbD 1) (s.wr Reg.ptpCtrl ((v &&& 0x7F003C#32) ||| (s.rd Reg.ptpCtrl &&& 3#32)))

theorem ptpRolesWritten_net (v : Word) (s : State) : (ptpRolesWritten v s).net = s.net := ptpRoles_net _ _ _

theorem ptpRolesWritten_rd (v : Word) (s : State) {a : Nat} (ha : a ≠ Reg.ptpCtrl) (hr : recordReg a = false) :
    (ptpRolesWritten v s).rd a = s.rd a := by
  rw [ptpRolesWritten, ptpRoles_rd _ _ _ ha hr, State.rd_wr, if_neg ha]

theorem ptpCtrlWrite_step {v : Word} (h8 : v.getLsbD 8 = true) (h9 : v.getLsbD 9 = false) (k : Nat) (s : State) :
    ptpCtrlWrite k v s = ptpStep (ptpRolesWritten v s) := by
  simp only [ptpCtrlWrite, h8, h9, if_true, Bool.false_eq_true, if_false]
  rfl

theorem ptpCtrlWrite_snap {v : Word} (h8 : v.getLsbD 8 = false) (h9 : v.getLsbD 9 = true) (k : Nat) (s : State) :
    ptpCtrlWrite k v s = ptpSnap k (ptpRolesWritten v s) := by
  simp only [ptpCtrlWrite, h8, h9, if_true, Bool.false_eq_true, if_false]
  rfl

/-- The word that a write of NET.PTP_CTRL brings. -/
theorem regAccess_ptpCtrl {s : State} {m : Master} (h : reaches s m true Reg.ptpCtrl = true) (v : BitVec 64) :
    regAccess m Reg.ptpCtrl .word v s = (let x := v.setWidth 32 &&& 0x7F033F#32
      if x.getLsbD 9 then ptpCtrlWrite (s.draw.1.toNat % 7813) x s.draw.2 else ptpCtrlWrite 0 x s) :=
  (regAccess_rw s m _ 0x7F033F v h (row_of_map (by decide)) (by decide) (by decide) (by decide)).trans rfl

/-! ### The TDM ports -/

theorem tput_tput {α : Type} (t : Table α) (k : Nat) (x y : α) : tput (tput t k x) k y = tput t k y := by
  induction t with
  | nil => simp [tput]
  | cons c t ih =>
    obtain ⟨j, z⟩ := c
    by_cases h1 : k < j
    · simp [tput, h1]
    · by_cases h2 : k = j
      · simp [tput, h2]
      · simp [tput, h1, h2, ih]

/-- A port written twice, its last value standing. -/
theorem setTport_setTport {x y : TdmPort} (hx : x.st ≠ .off) (hy : y.st ≠ .off) (s : State) (p : Nat) :
    (s.setTport p x).setTport p y = s.setTport p y := by
  have hx' : x ≠ TdmPort.off := fun e => hx (by rw [e]; rfl)
  have hy' : y ≠ TdmPort.off := fun e => hy (by rw [e]; rfl)
  have h : tset TdmPort.off (tset TdmPort.off s.tdm p x) p y = tset TdmPort.off s.tdm p y := by
    rw [tset, tset, tset, if_neg hx', if_neg hy', if_neg hy', tput_tput]
  show { s with tdm := tset TdmPort.off (tset TdmPort.off s.tdm p x) p y } = { s with tdm := tset TdmPort.off s.tdm p y }
  rw [h]

/-- The output frames that may be assigned to an external frame whose edge comes `ph` core cycles after the strike (R439). -/
def mayStart (s : State) (p ph : Nat) : List (List (Option Word)) :=
  if 4 * portPeriod s p ≤ ph * frameLen s p then (s.tport p).txWait else (s.tport p).txWait.dropLast

theorem slaveSend_one {p ph : Nat} {s : State} {f : List (Option Word)} (h : mayStart s p ph = [f]) :
    slaveSend p ph s = s.setTport p { s.tport p with tx := f, txWait := (s.tport p).txWait.drop 1 } := by
  have h' : (if 4 * portPeriod s p ≤ ph * frameLen s p then (s.tport p).txWait else (s.tport p).txWait.dropLast) = [f] := h
  unfold slaveSend
  dsimp only
  rw [h']
  simp only [List.getLast?_singleton, List.length_singleton, Nat.lt_irrefl, decide_false, Bool.and_false, Bool.false_eq_true, if_false]

theorem slaveSend_none {p ph : Nat} {s : State} (h : mayStart s p ph = []) :
    slaveSend p ph s = if (s.tport p).counts then slip p s else s := by
  have h' : (if 4 * portPeriod s p ≤ ph * frameLen s p then (s.tport p).txWait else (s.tport p).txWait.dropLast) = [] := h
  unfold slaveSend
  dsimp only
  rw [h']
  rfl

theorem rd_incSat_ne (s : State) {a b : Nat} (h : b ≠ a) : (s.incSat a).rd b = s.rd b := by
  unfold State.incSat
  dsimp only
  split
  · rw [State.wrf, State.rd_wr, if_neg h]
  · rfl

theorem incSat_rest (s : State) (a : Nat) : s.incSat a = { s with regs := (s.incSat a).regs } := by
  unfold State.incSat
  dsimp only
  split <;> rfl

/-- A count of framing errors leaves the port without a bridge, with its domain and its frame. -/
theorem asyncBridge_incSat {s : State} {p : Nat} (hp : p < 6) (h : asyncBridge s p = none) :
    asyncBridge (s.incSat (Reg.tdmErrs p)) p = none := by
  unfold asyncBridge at h ⊢
  rw [List.find?_eq_none] at h ⊢
  intro n hn
  have hn' := List.mem_range.mp hn
  have hcfg : (s.incSat (Reg.tdmErrs p)).rd (Reg.bridgeCfg n) = s.rd (Reg.bridgeCfg n) :=
    rd_incSat_ne s (by simp only [Reg.bridgeCfg, Reg.tdmErrs]; omega)
  have hen : (s.incSat (Reg.tdmErrs p)).rd Reg.bridgeEn = s.rd Reg.bridgeEn :=
    rd_incSat_ne s (by simp only [Reg.bridgeEn, Reg.tdmErrs]; omega)
  have hbr : (s.incSat (Reg.tdmErrs p)).bridge n = s.bridge n := by
    rw [incSat_rest]
    rfl
  simpa only [State.bit, State.rdf, hcfg, hen, hbr] using h n hn

theorem mayStart_incSat {s : State} {p : Nat} (hp : p < 6) (h : asyncBridge s p = none) (ph : Nat) :
    mayStart (s.incSat (Reg.tdmErrs p)) p ph = mayStart s p ph := by
  have hcfg : (s.incSat (Reg.tdmErrs p)).rd (Reg.tdmCfg p) = s.rd (Reg.tdmCfg p) :=
    rd_incSat_ne s (by simp only [Reg.tdmCfg, Reg.tdmErrs]; omega)
  have hlen : (s.incSat (Reg.tdmErrs p)).rd (Reg.tdmFrame p) = s.rd (Reg.tdmFrame p) :=
    rd_incSat_ne s (by simp only [Reg.tdmFrame, Reg.tdmErrs]; omega)
  have hport : (s.incSat (Reg.tdmErrs p)).tport p = s.tport p := by
    rw [incSat_rest]
    rfl
  simp only [mayStart, portPeriod, portDom, frameLen, State.rdf, asyncBridge_incSat hp h, h, hcfg, hlen, hport]

/-- A port's own record does not say which frames may start but by those that wait. -/
theorem mayStart_setTport {s : State} {p : Nat} {y : TdmPort} (hw : y.txWait = (s.tport p).txWait) (ph : Nat) :
    mayStart (s.setTport p y) p ph = mayStart s p ph := by
  have h : (s.setTport p y).tport p = y := by rw [State.tport_setTport, if_pos rfl]
  unfold mayStart
  rw [h, hw]
  rfl

/-- A slave port's frame, with the port on no bridge and its crossing ready. -/
theorem receivedFrame_direct {p : Nat} {s : State} (hst : (s.tport p).st ≠ .off) (hsl : portSlave s p = true)
    (hb : asyncBridge s p = none) (hx : xingReady s (8 + p) = true) (slots : List Word) (ok : Bool) (ph : Nat) :
    receivedFrame p slots ok ph s =
      let x := s.tport p
      let errs := if ok then 0 else min 3 (x.errs + 1)
      let s2 := slaveSend p ph ((if ok then s else s.incSat (Reg.tdmErrs p)).setTport p { x with
        rx := slots, rxNew := x.rxNew + 1, phase := ph % 32768, idle := 0,
        good := if ok then min 16 (x.good + 1) else 0, errs := errs })
      if 3 ≤ errs then enterLof p 5 s2 else regain p s2 := by
  unfold receivedFrame
  dsimp only
  rw [if_neg (by simp [hst, hsl]), if_neg (by rw [hx]; decide), hb]

theorem enterLof_entered {p : Nat} {s : State} (h : (s.tport p).st ≠ .off ∧ (s.tport p).st ≠ .lof) (cause : Nat) :
    enterLof p cause s = tdmEvent 1 p (((List.range (portSlots s p)).foldl (fun s k =>
      s.setLane (tdmLane p k) { s.lane (tdmLane p k) with raw := (s.lane (tdmLane p k)).pub }) s).setTport p { s.tport p with
        st := .lof, cause := cause, scale := 16, rising := false, good := 0 }) := by
  unfold enterLof
  dsimp only
  rw [if_neg (by rintro (e | e); exacts [h.1 e, h.2 e])]

/-- Settles O40: the PTP clock's commands, then a slave port's frame by its soundness and by what may start. -/
theorem ptpTimeAndTdmFrames : Obligations.PtpTimeAndTdmFrames := by
  unfold Obligations.PtpTimeAndTdmFrames
  intro time shows after lofLanes may
  have hrecv : ∀ (p : Fin 6) slots ok ph s, exec (.receivedFrame p slots ok ph) s = .next (receivedFrame p.val slots ok ph s) :=
    fun _ _ _ _ _ => rfl
  refine ⟨?step, ?snap, ?sync, ?pps, ?edge, ?dead, ?sound, ?framing, ?resync, ?missing⟩
  case step =>
    intro s m v h hv
    have hx : exec (.stepPtp m .word v) s = .next (regAccess m Reg.ptpCtrl .word (v ||| 0x100#64) s) := rfl
    obtain ⟨x, hxe⟩ : ∃ x, x = (v ||| 0x100#64).setWidth 32 &&& 0x7F033F#32 := ⟨_, rfl⟩
    have h8 : x.getLsbD 8 = true := by rw [hxe]; simp
    have h9 : x.getLsbD 9 = false := by rw [hxe]; simpa using hv
    have h1 : x.getLsbD 1 = v.getLsbD 1 := by rw [hxe]; simp
    have hgo : regAccess m Reg.ptpCtrl .word (v ||| 0x100#64) s = ptpStep (ptpRolesWritten x s) := by
      rw [regAccess_ptpCtrl h]
      dsimp only
      rw [← hxe, if_neg (by rw [h9]; decide), ptpCtrlWrite_step h8 h9]
    have hsec := ptpRolesWritten_rd x s (a := Reg.ptpStepSec) (by decide) (by decide)
    have hns := ptpRolesWritten_rd x s (a := Reg.ptpStepNs) (by decide) (by decide)
    have hnet := ptpRolesWritten_net x s
    have hgm : (ptpRolesWritten x s).bit Reg.ptpCtrl 1 = v.getLsbD 1 := (ptpRoles_bits _ _ _).2.trans h1
    obtain ⟨u, hu⟩ : ∃ u, u = (ptpRolesWritten x s).modNet (ptpAdd (s.rd Reg.ptpStepSec).toInt (s.rd Reg.ptpStepNs).toInt) := ⟨_, rfl⟩
    have hstep : ptpStep (ptpRolesWritten x s) = netEvent 6 (ptpRoles false (v.getLsbD 1) u) := by
      rw [ptpStep, hsec, hns, hgm, hu]
    have hunet : (ptpStep (ptpRolesWritten x s)).net = ptpAdd (s.rd Reg.ptpStepSec).toInt (s.rd Reg.ptpStepNs).toInt s.net := by
      rw [hstep, netEvent, sqSet_net, ptpRoles_net, hu]
      show ptpAdd _ _ (ptpRolesWritten x s).net = _
      rw [hnet]
    have hbits := ptpRoles_bits false (v.getLsbD 1) u
    have hctrl : ∀ i, (ptpStep (ptpRolesWritten x s)).bit Reg.ptpCtrl i = (ptpRoles false (v.getLsbD 1) u).bit Reg.ptpCtrl i := by
      intro i
      rw [hstep, State.bit, netEvent, sqSet_rd _ _ _ _ (by decide)]
      rfl
    have htime : ((s.net.sec.toNat : Int) + (s.rd Reg.ptpStepSec).toInt) * 1000000000 + s.net.ns + (s.rd Reg.ptpStepNs).toInt
        = time s + (s.rd Reg.ptpStepSec).toInt * 1000000000 + (s.rd Reg.ptpStepNs).toInt := by
      simp only [time]
      ring
    refine ⟨_, hx.trans (congrArg _ hgo), ⟨?_, ?_⟩, (hctrl 0).trans hbits.1, (hctrl 1).trans hbits.2, ?_, ?_, ?_⟩
    · rw [hunet, ← htime]
      rfl
    · rw [hunet, ← htime]
      rfl
    · rw [hstep]
      exact sqSet_tag (by decide) (by decide) (by decide) _
    · rw [hunet]
      rfl
    · rw [hstep, netEvent, sqSet_mclk, ptpRoles_mclk, hu]
      exact ptpRoles_mclk _ _ _
  case snap =>
    intro s m v h hv
    have hx : exec (.snapPtp m .word v) s = .next (regAccess m Reg.ptpCtrl .word (v ||| 0x200#64) s) := rfl
    obtain ⟨x, hxe⟩ : ∃ x, x = (v ||| 0x200#64).setWidth 32 &&& 0x7F033F#32 := ⟨_, rfl⟩
    have h8 : x.getLsbD 8 = false := by rw [hxe]; simpa using hv
    have h9 : x.getLsbD 9 = true := by rw [hxe]; simp
    obtain ⟨k, hk⟩ : ∃ k, k = s.draw.1.toNat % 7813 := ⟨_, rfl⟩
    have hgo : regAccess m Reg.ptpCtrl .word (v ||| 0x200#64) s = ptpSnap k (ptpRolesWritten x s.draw.2) := by
      rw [regAccess_ptpCtrl h]
      dsimp only
      rw [← hxe, if_pos h9, ptpCtrlWrite_snap h8 h9, hk]
    have hrun : (ptpRun k (ptpRolesWritten x s.draw.2)).net = (ptpRun k s).net :=
      ptpRun_net_congr (ptpRolesWritten_net x s.draw.2) (ptpRolesWritten_rd x s.draw.2 (by decide) (by decide)) k
    have hnet : (ptpSnap k (ptpRolesWritten x s.draw.2)).net = (ptpRun k s).net := hrun
    refine ⟨_, hx.trans (congrArg _ hgo), ⟨k, by rw [hk]; exact Nat.mod_lt _ (by decide), ?_, ?_⟩, ?_, ?_, ?_⟩
    · rw [hnet]
    · rw [hnet]
    · rw [ptpSnap, State.rd_wrn, if_neg (by decide), State.rd_wrn, if_neg (by decide), State.rd_wrn, if_pos rfl]
      rfl
    · rw [ptpSnap, State.rd_wrn, if_neg (by decide), State.rd_wrn, if_pos rfl]
      rfl
    · rw [ptpSnap, State.rd_wrn, if_pos rfl]
      rfl
  case sync =>
    intro s h
    have hx : exec .syncTimeout s = .next (syncTimeout s) := rfl
    have hw : ((s.wrb Reg.ptpCtrl 0 false).wrb Reg.ptpCtrl 1 (s.bit Reg.ptpCtrl 1)).rd Reg.ptpCtrl = wsetBit (s.rd Reg.ptpCtrl) 0 false := by
      have hg : (wsetBit (s.rd Reg.ptpCtrl) 0 false).getLsbD 1 = s.bit Reg.ptpCtrl 1 := by
        rw [getLsbD_wsetBit _ _ _ _ (by decide), if_neg (by decide)]
        rfl
      rw [State.wrb, State.rd_wr, if_pos rfl, State.wrb, State.rd_wr, if_pos rfl, ← hg, wsetBit_own _ (by decide)]
    have hne : ¬ ((s.wrb Reg.ptpCtrl 0 false).wrb Reg.ptpCtrl 1 (s.bit Reg.ptpCtrl 1)).rd Reg.ptpCtrl = s.rd Reg.ptpCtrl := by
      rw [hw]
      intro e
      have h0 := congrArg (fun w : Word => w.getLsbD 0) e
      rw [getLsbD_wsetBit _ _ _ _ (by decide), if_pos rfl] at h0
      have h1 : (s.rd Reg.ptpCtrl).getLsbD 0 = true := h
      rw [h1] at h0
      cases h0
    have hgo : syncTimeout s = netEvent 4 ((s.wrb Reg.ptpCtrl 0 false).wrb Reg.ptpCtrl 1 (s.bit Reg.ptpCtrl 1)) := by
      rw [syncTimeout, if_pos h, ptpRoles]
      exact if_neg hne
    refine ⟨_, hx.trans (congrArg _ hgo), ?_, sqSet_tag (by decide) (by decide) (by decide) _, sqSet_net _ _ _⟩
    rw [netEvent, sqSet_rd _ _ _ _ (by decide), hw]
  case pps =>
    intro s h
    have h1 : exec .ppsOut s = .next (ppsOut s) := rfl
    have h2 : exec .ppsOutEnd s = .next (ppsOutEnd s) := rfl
    rw [h1, h2, ppsOut, if_pos h, ppsOutEnd, if_pos h]
    exact ⟨rfl, rfl⟩
  case edge =>
    intro s k h
    have hx : exec (.ppsInEdge k) s = .next (ppsInEdge k s) := rfl
    have hgo : ppsInEdge k s = netEvent 7 (((ptpRun k s).wrn Reg.ppsInSec (ptpRun k s).net.sec.toNat).wrn Reg.ppsInNs (ptpRun k s).net.ns) := by
      rw [ppsInEdge, if_neg (by rw [h]; decide)]
    have hnet : (ppsInEdge k s).net = (ptpRun k s).net := by
      rw [hgo]
      exact sqSet_net _ _ _
    refine ⟨_, hx, ⟨by rw [hnet], by rw [hnet]⟩, ?_, ?_, ?_⟩
    · rw [hnet, hgo, netEvent, sqSet_rd _ _ _ _ (by decide), State.rd_wrn, if_neg (by decide), State.rd_wrn, if_pos rfl]
    · rw [hnet, hgo, netEvent, sqSet_rd _ _ _ _ (by decide), State.rd_wrn, if_pos rfl]
    · rw [hgo]
      exact sqSet_tag (by decide) (by decide) (by decide) _
  case dead =>
    intro s k h
    have h1 : exec .ppsOut s = .next (ppsOut s) := rfl
    have h2 : exec .ppsOutEnd s = .next (ppsOutEnd s) := rfl
    have h3 : exec (.ppsInEdge k) s = .next (ppsInEdge k s) := rfl
    have hn : ¬ s.clk.netOk = true := by rw [h]; decide
    rw [h1, h2, h3, ppsOut, if_neg hn, ppsOutEnd, if_neg hn, ppsInEdge, if_pos (by rw [h]; rfl)]
    exact ⟨rfl, rfl, rfl⟩
  case sound =>
    intro s p slots ph x y hst hsl hb hx
    have hoff : x.st ≠ .off := by rw [hst]; decide
    have hyst : y.st ≠ .off := hoff
    have hport : (s.setTport p.val y).tport p.val = y := by rw [State.tport_setTport, if_pos rfl]
    have hgo : receivedFrame p.val slots true ph s = regain p.val (slaveSend p.val ph (s.setTport p.val y)) :=
      receivedFrame_direct hoff hsl hb hx slots true ph
    refine ⟨fun f hmay => ?one, fun hmay hage => ?none⟩
    case one =>
      intro z
      have hsend : slaveSend p.val ph (s.setTport p.val y) = s.setTport p.val z := by
        rw [slaveSend_one ((mayStart_setTport (y := y) rfl ph).trans hmay), hport]
        exact setTport_setTport (y := z) hyst hyst s p.val
      have hz : (s.setTport p.val z).tport p.val = z := by rw [State.tport_setTport, if_pos rfl]
      refine ⟨fun hfew => ?_, fun hmany => ?_⟩
      · rw [hrecv, hgo, hsend, regain]
        rw [hz, if_neg]
        rintro ⟨-, h16⟩
        have : 16 ≤ min 16 (x.good + 1) := h16
        omega
      · rw [hrecv, hgo, hsend, regain]
        rw [hz, if_pos ⟨.inl hst, show 16 ≤ min 16 (x.good + 1) by omega⟩]
        rfl
    case none =>
      have hcounts : y.counts = true := by
        have : 0 < min 16 (x.good + 1) := by omega
        simp only [TdmPort.counts, y, decide_eq_true this, Bool.or_true]
      have hage' : y.slipAge = none := hage
      have hsend : slaveSend p.val ph (s.setTport p.val y) = tdmEvent 3 p.val ((s.setTport p.val y).setTport p.val { y with
          slips := x.slips + 1#32, slipAge := some 0, good := 0 }) := by
        rw [slaveSend_none ((mayStart_setTport (y := y) rfl ph).trans hmay), hport, if_pos hcounts, slip]
        rw [hport, hage']
      have hport2 : (slaveSend p.val ph (s.setTport p.val y)).tport p.val = { y with
          slips := x.slips + 1#32, slipAge := some 0, good := 0 } := by
        rw [hsend, tdmEvent, State.tport, sqSet_tdm]
        exact (State.tport_setTport _ _ _ _).trans (if_pos rfl)
      rw [hrecv, hgo, regain]
      rw [hport2, if_neg (fun h => absurd h.2 (show ¬ 16 ≤ 0 by decide)), hsend]
      rfl
  case framing =>
    intro s p slots ph f x c y hst hsl hb hx hmay
    have hoff : x.st ≠ .off := by rw [hst]; decide
    have hyst : y.st ≠ .off := hoff
    obtain ⟨y0, hy0⟩ : ∃ y0 : TdmPort, y0 = { y with tx := x.tx, txWait := x.txWait } := ⟨_, rfl⟩
    have hy0st : y0.st ≠ .off := by rw [hy0]; exact hoff
    have hcport : c.tport p.val = x := by
      show (s.incSat _).tport _ = _
      rw [incSat_rest]
      rfl
    have hport : ∀ z, (c.setTport p.val z).tport p.val = z := fun z => by rw [State.tport_setTport, if_pos rfl]
    have hsend : slaveSend p.val ph (c.setTport p.val y0) = c.setTport p.val y := by
      rw [slaveSend_one ((mayStart_setTport (y := y0) (by rw [hcport, hy0]) ph).trans ((mayStart_incSat p.isLt hb ph).trans hmay)), hport, hy0]
      exact setTport_setTport (by exact hoff) hyst c p.val
    have hgo : receivedFrame p.val slots false ph s = if 3 ≤ min 3 (x.errs + 1) then enterLof p.val 5 (c.setTport p.val y)
        else regain p.val (c.setTport p.val y) := by
      rw [← hsend, hy0]
      exact receivedFrame_direct hoff hsl hb hx slots false ph
    refine ⟨fun hfew => ?_, fun hmany => ?_⟩
    · rw [hrecv, hgo, if_neg (by omega), regain]
      rw [hport, if_neg fun h => absurd h.2 (show ¬ 16 ≤ 0 by decide)]
    · rw [hrecv, hgo, if_pos (by omega), enterLof_entered (by rw [hport]; exact ⟨hyst, by rw [show y.st = .acquire from hst]; decide⟩), hport]
      rfl
  case resync =>
    intro s p slots ok ph hst hsl hx
    rw [hrecv, receivedFrame]
    dsimp only
    rw [if_neg (by simp [hst, hsl]), if_pos (by rw [hx]; rfl)]
  case missing =>
    intro s p hsl hb hidle hst
    have hx : exec (.noFrame p) s = .next (noFrame p.val s) := rfl
    rw [hx, noFrame, if_pos ⟨hsl, by rw [hb]; rfl, hidle⟩, enterLof_entered]
    · rfl
    · rcases hst with e | e <;> rw [e] <;> decide

end Sys2Proof.Machine
end

section
/-! The watchdogs (chapters 22 and 25). -/

namespace Sys2Proof.Machine
open Sys2Proof

/-! ### The fault summary -/

/-- Looking at the fault summary changes the registers only. -/
theorem summaryCheck_rest (s : State) : summaryCheck s = { s with regs := (summaryCheck s).regs } := by
  unfold summaryCheck latchFault
  split <;> rfl

theorem summaryCheck_rd {k : Nat} (h : k ≠ Reg.faultStat) (s : State) : (summaryCheck s).rd k = s.rd k := by
  unfold summaryCheck latchFault
  split
  · rfl
  · rw [State.rd_wrn, if_neg h]

/-! ### One watchdog at a hinge -/

/-- What a hinge makes of one watchdog. -/
def wdogHinge (s : State) (c : Nat) : State :=
  let s1 := if wdogRuns s c then setWdog c (wdogLeft s c - 1) s else s
  if s.bit Reg.wdogStat c then s1.modModes fun m => { m with wdSince := tset 0 m.wdSince c (tget 0 m.wdSince c + 1) } else s1

theorem wdogsHinge_eq (s : State) : wdogsHinge s = (List.range 4).foldl wdogHinge s := rfl

theorem wdogHinge_runs (s : State) (c j : Nat) : wdogRuns (wdogHinge s c) j = wdogRuns s j := by
  unfold wdogHinge
  dsimp only
  split <;> split <;> rfl

theorem wdogHinge_left (s : State) (c j : Nat) :
    wdogLeft (wdogHinge s c) j = if j = c ∧ wdogRuns s c = true then wdogLeft s c - 1 else wdogLeft s j := by
  have hset : wdogLeft (wdogHinge s c) j = wdogLeft (if wdogRuns s c then setWdog c (wdogLeft s c - 1) s else s) j := by
    unfold wdogHinge
    dsimp only
    split <;> rfl
  rw [hset]
  cases h : wdogRuns s c
  · simp
  · simp only [if_true, and_true]
    exact tget_tset 0 _ _ c j

theorem foldl_wdogHinge_left {l : List Nat} (hl : l.Nodup) (s : State) (c : Nat) :
    wdogLeft (l.foldl wdogHinge s) c = if c ∈ l ∧ wdogRuns s c = true then wdogLeft s c - 1 else wdogLeft s c := by
  induction l generalizing s with
  | nil => simp
  | cons k l ih =>
    obtain ⟨hk, hl⟩ := List.nodup_cons.mp hl
    rw [List.foldl_cons, ih hl, wdogHinge_runs, wdogHinge_left]
    by_cases e : c = k
    · subst e
      simp [hk]
    · simp [e]

theorem wdogRuns_iff {s : State} {c : Nat} :
    wdogRuns s c = true ↔ s.bit (Reg.wdogCfg c) 24 = true ∧ s.modes.sleep = .awake := by
  simp [wdogRuns]

/-! ### The reset of a core -/

/-- The accesses of a master that is reset are the bus's, and how they end is drawn. -/
theorem netOrphan_rest (m : Master) (s : State) :
    netOrphan m s = { s with bus := (netOrphan m s).bus, free := (netOrphan m s).free } := by
  unfold netOrphan netNext
  dsimp only
  repeat' split
  all_goals rfl

theorem coreReset_eq (c : Nat) (s : State) : ∃ t : State, t = { s with bus := t.bus, free := t.free } ∧
    coreReset c s = coreStart c (((t.wrn (Reg.icThresh c) 8).wrb (Reg.wdogCfg c) 24 false).wrb Reg.wdogStat c false) :=
  ⟨_, (by rw [netOrphan_rest]; rfl), rfl⟩

theorem State.rd_wrb_ne {a b : Nat} (h : b ≠ a) (s : State) (i : Nat) (v : Bool) : (s.wrb a i v).rd b = s.rd b := by
  rw [State.wrb, State.rd_wr, if_neg h]

theorem reg_wdog_ne (c : Fin 4) : Reg.wdogStat ≠ Reg.icThresh c ∧ Reg.wdogStat ≠ Reg.wdogCfg c ∧
    Reg.icThresh c ≠ Reg.wdogCfg c ∧ Reg.ccStart c ≠ Reg.icThresh c ∧ Reg.ccStart c ≠ Reg.wdogCfg c ∧ Reg.ccStart c ≠ Reg.wdogStat := by
  revert c
  decide

theorem kick_row (c : Fin 4) : (rowAt (0x40000424 + 0x10 * c.val)).map (fun r => (r.cls, r.mask)) = some (.w1, 0xFFFFFFFF) ∧
    inSlots (0x40000424 + 0x10 * c.val) = true ∧ (0x40000424 + 0x10 * c.val) % 0x10000 < 0x8000 ∧
    0x40000424 + 0x10 * c.val ≠ 0x40000700 := by
  revert c
  decide

/-- Settles O54: the kick, the count of a hinge, the expiry and the reset. -/
theorem watchdogsCountExpireAndReset : Obligations.WatchdogsCountExpireAndReset := by
  unfold Obligations.WatchdogsCountExpireAndReset
  refine ⟨?kick, ?count, ?expiry, ?reset⟩
  case kick =>
    intro s m c v hr
    have hx : exec (.wdogKick m c .word v) s = .next (regAccess m (0x40000424 + 0x10 * c.val) .word v s) := rfl
    have hw : ∀ (w : Who) (v : Word), w1Write w (0x40000424 + 0x10 * c.val) v s = wdogKick c.val v s := by
      intro w v
      fin_cases c <;> rfl
    obtain ⟨hrow, hin, hoff, hne⟩ := kick_row c
    rw [hx, regAccess_w1 s m _ v hr (row_of_map_cls hrow) hin hoff hne, hw]
    rfl
  case count =>
    intro s c hc
    rw [wdogsHinge_eq, foldl_wdogHinge_left List.nodup_range]
    simp only [List.mem_range, hc, wdogRuns_iff, true_and]
  case expiry =>
    intro s c
    have hx : exec (.watchdogExpiry c) s = .next (watchdogExpiry c.val s) := rfl
    refine ⟨?_, ?_⟩
    · rintro ⟨hen, haw, hst, hleft⟩
      refine ⟨watchdogExpiry c.val s, hx, ?_⟩
      have hrun : wdogRuns s c = true := wdogRuns_iff.mpr ⟨hen, haw⟩
      have hex : watchdogExpiry c.val s = enterLockup c
          ((s.modModes fun m => { m with wdSince := tset 0 m.wdSince c 0 }).wrb Reg.wdogStat c true) := by
        rw [watchdogExpiry, if_pos (by simp [hrun, hst, hleft])]
      have hpulse := fun s : State => pulse_frame 5 (by decide) s
      rw [hex, enterLockup, summaryCheck_rest, lockupPulse, (hpulse _).rest]
      refine ⟨?_, hleft, ?_, fun k hk => ?_, rfl⟩
      · rw [State.bit, ← (hpulse _).rest, ← summaryCheck_rest]
        rw [summaryCheck_rd (by decide), (hpulse _).regs _ (by decide)]
        exact (State.bit_wrb _ _ _ _ _ (by omega)).trans (if_pos rfl)
      · exact (State.ctlCore_setCtl _ _ _ _).trans (if_pos rfl)
      · exact (State.ctlCore_setCtl _ _ _ _).trans (if_neg hk)
    · intro hno
      rw [hx, watchdogExpiry, if_neg]
      simp only [Bool.and_eq_true, wdogRuns_iff, decide_eq_true_eq, Bool.not_eq_true', not_and]
      rintro ⟨⟨hen, haw⟩, hst⟩ hleft
      rcases hno with h | h | h | h
      · exact absurd hen (by simp [h])
      · exact h haw
      · exact absurd hst (by simp [h])
      · exact h hleft
  case reset =>
    intro s c
    have hx : exec (.watchdogReset c) s = .next (watchdogReset c.val s) := rfl
    refine ⟨?_, ?_⟩
    · intro hst hauto hsince
      refine ⟨watchdogReset c.val s, hx, ?_⟩
      obtain ⟨t, ht, hreset⟩ := coreReset_eq c.val s
      have hgo : watchdogReset c.val s = coreReset c.val s := by
        rw [watchdogReset, if_pos (by simp [hst, hauto, hsince])]
      obtain ⟨h1, h2, h3, h4, h5, h6⟩ := reg_wdog_ne c
      have hward : t.ward = s.ward := by rw [ht]
      have hrd : ∀ a, t.rd a = s.rd a := fun a => by rw [ht]; rfl
      rw [hgo, hreset]
      refine ⟨?_, ?_, ?_, ?_, fun k hk => ?_, ?_⟩
      · show ((((t.wrn _ 8).wrb _ 24 false).wrb Reg.wdogStat c false).rd (Reg.wdogCfg c)).getLsbD 24 = false
        rw [State.rd_wrb_ne h2.symm]
        exact (State.bit_wrb _ _ _ _ _ (by decide)).trans (if_pos rfl)
      · exact (State.bit_wrb _ _ _ _ _ (by omega)).trans (if_pos rfl)
      · show ((((t.wrn _ 8).wrb _ 24 false).wrb Reg.wdogStat c false).rd (Reg.icThresh c)) = _
        rw [State.rd_wrb_ne h1.symm, State.rd_wrb_ne h3, State.rd_wrn, if_pos rfl]
      · rw [coreStart]
        refine (State.ctlCore_setCtl _ _ _ _).trans ((if_pos rfl).trans ?_)
        rw [State.rd_wrb_ne h6, State.rd_wrb_ne h5, State.rd_wrn, if_neg h4, hrd, ← hward]
        simp only [Bool.and_eq_true]
        rfl
      · refine (State.ctlCore_setCtl _ _ _ _).trans ((if_neg hk).trans ?_)
        show t.ctlCore k = _
        rw [ht]
        rfl
      · show t.mem = _
        rw [ht]
    · intro hno
      rw [hx, watchdogReset, if_neg]
      simp only [Bool.and_eq_true, decide_eq_true_eq, not_and]
      rintro ⟨hst, hauto⟩ hsince
      rcases hno with h | h | h
      · exact absurd hst (by simp [h])
      · exact absurd hauto (by simp [h])
      · omega

end Sys2Proof.Machine
end

section
/-! Mode requests at a hinge (chapter 22). -/

namespace Sys2Proof.Machine
open Sys2Proof

/-! ### What the mode changes leave as it was: the modes and the local ports -/

@[simp] theorem toneFall_modes_ports (g : Nat) (s : State) :
    (toneFall g s).modes = s.modes ∧ (toneFall g s).ports = s.ports := by
  unfold toneFall
  dsimp only
  split <;> exact ⟨rfl, rfl⟩

@[simp] theorem playerFade_modes_ports (p : Nat) (s : State) :
    (playerFade p s).modes = s.modes ∧ (playerFade p s).ports = s.ports := by
  unfold playerFade
  dsimp only
  split
  · exact ⟨rfl, rfl⟩
  · split <;> simp [msgEvents]

theorem evacLeave_modes (s : State) : (evacLeave s).modes = { s.modes with mode := .service } := by
  have hp := fun t => (foldl_modes_ports (f := fun s e => playerFade (fld e.1 0 4) (clearBoth Reg.msgRun (fld e.1 0 4) s))
    (l := planOf s 5) (fun _ _ => by simp) t).1
  have hn := fun l t => (foldl_modes_ports (f := fun (s : State) (e : Word × Word) => setTarget (fld e.1 8 8) (fld e.1 0 8) 0 s)
    (l := l) (fun _ _ => by simp) t).1
  unfold evacLeave
  dsimp only
  rw [(changeMode_modes_ports _ _).1, hn, hp]
  rfl

theorem watchEnter_modes (s : State) : (watchEnter s).modes = { s.modes with mode := .watch } := by
  have h := foldl_modes_ports (l := List.range 16) (f := fun s n => if (s.sc n).runs && !s.bit Reg.vigilCfg n then
      (stopCore n (clearRun n s)).modSc n fun c => { c with watchStopped := true } else s) (fun t x => by
    split
    · simp [stopCore, clearRun]
    · exact ⟨rfl, rfl⟩) s
  rw [watchEnter, (changeMode_modes_ports _ _).1, h.1]

@[simp] theorem cancelGroup_modes_ports (g : Nat) (s : State) :
    (cancelGroup g s).modes = s.modes ∧ (cancelGroup g s).ports = s.ports := by
  unfold cancelGroup
  split <;> exact ⟨rfl, rfl⟩

@[simp] theorem discardSet_modes_ports (c : CSet) (s : State) :
    (discardSet c s).modes = s.modes ∧ (discardSet c s).ports = s.ports := by
  unfold discardSet
  split
  · split <;> exact ⟨rfl, rfl⟩
  · exact ⟨rfl, rfl⟩

theorem safeSleep_modes (s : State) : (safeSleep s).modes = s.modes := by
  have hg := fun l t => (foldl_modes_ports (f := fun s g => cancelGroup g s) (l := l) (fun _ _ => by simp) t).1
  have hd := fun l t => (foldl_modes_ports (f := fun s c => discardSet c s) (l := l) (fun _ _ => by simp) t).1
  unfold safeSleep
  dsimp only
  rw [hd, hg]

@[simp] theorem cancelSwap_modes_ports (s : State) :
    (cancelSwap s).modes = s.modes ∧ (cancelSwap s).ports = s.ports := by
  unfold cancelSwap
  split <;> exact ⟨rfl, rfl⟩

theorem sleepEnter_modes (s : State) : (sleepEnter s).modes =
    { s.modes with sleep := .entry, sleepHinges := 0, context := s.regs.filter fun x => inContext x.1 } := by
  have h : (abortPass (cancelSwap (safeSleep s))).modes = s.modes := by
    rw [(abortPass_modes_ports _).1, (cancelSwap_modes_ports _).1, safeSleep_modes]
  unfold sleepEnter
  dsimp only
  rw [h]

/-! ### A hinge with no contact or autonomy cause due -/

/-- No contact, and not the autonomy rule, asks anything of the mode-change step of an awake part. -/
def ModeQuiet (s : State) : Prop :=
  s.modes.sleep = .awake ∧ s.modes.booting = false ∧ s.modes.alarmInSleep = false ∧
    (s.tenant 0).lost = false ∧ ∀ n < 8, (s.contact n).alarmDue = false ∧ (s.contact n).silenceDue = false

section
variable {s : State} (h : ModeQuiet s)
include h

theorem ModeQuiet.contactEnters : contactEnters s = false := by
  obtain ⟨-, hboot, halarm, -, hn⟩ := h
  rw [Machine.contactEnters, hboot, halarm]
  simp only [Bool.false_eq_true, if_false, Bool.false_or]
  rw [Bool.eq_false_iff, Ne, anyContact_iff]
  rintro ⟨n, hlt, hd⟩
  exact absurd hd (by simp [hn n hlt])

theorem ModeQuiet.silence : (anyContact fun n => (s.contact n).silenceDue) = false := by
  obtain ⟨-, -, -, -, hn⟩ := h
  rw [Bool.eq_false_iff, Ne, anyContact_iff]
  rintro ⟨n, hlt, hd⟩
  exact absurd hd (by simp [hn n hlt])

theorem ModeQuiet.autonomy : autonomyHolds s = false := by
  obtain ⟨-, -, -, hlost, -⟩ := h
  rw [autonomyHolds, hlost, Bool.false_and]

theorem ModeQuiet.contactsTaken_eq : ∃ p, contactsTaken s = { s with ports := p, modes := { s.modes with
    request := none, autonomy := false, booting := false, alarmInSleep := false } } := by
  have hheld : alarmsHeld s = false := by rw [alarmsHeld, h.2.1, Bool.false_and]
  have hfold : ∀ (l : List Nat) (t : State), ∃ p, l.foldl (fun t n => t.setContact n (consumeContact (alarmsHeld s) (t.contact n))) t
      = { t with ports := p } := by
    intro l
    induction l with
    | nil => exact fun t => ⟨_, rfl⟩
    | cons n l ih =>
      intro t
      obtain ⟨p, hp⟩ := ih (t.setContact n (consumeContact (alarmsHeld s) (t.contact n)))
      exact ⟨p, hp⟩
  obtain ⟨p, hp⟩ := hfold (List.range 8) s
  refine ⟨p, ?_⟩
  rw [contactsTaken, h.silence, if_neg (by decide), consumeContacts_eq, hp, hheld, h.autonomy]
  rfl

/-- The step with nothing but a request due. -/
theorem ModeQuiet.modeStep_eq : modeStep s =
    if s.modes.mode = .evacuate then
      match s.modes.request with
      | none => contactsTaken s
      | some (v, d) =>
        let t := if s.modes.request = some (5, true) then evacLeave (contactsTaken s) else contactsTaken s
        if requestCause s v d = 0 then t else refuseMode (requestCause s v d) t
    else if s.modes.request = some (4, true) then evacEnter 1 0 (contactsTaken s)
    else match s.modes.request with
      | none => contactsTaken s
      | some (v, d) => requestStep v d (contactsTaken s) := by
  have ht : contactsTaken s = (consumeContacts s).modModes fun m => { m with autonomy := false } := by
    rw [contactsTaken, h.silence, h.autonomy]
    rfl
  have ha := h.autonomy
  unfold autonomyHolds at ha
  rw [modeStep, if_pos h.1, ht]
  simp only [ha, h.contactEnters, h.silence, Bool.or_false, Bool.false_or, Bool.not_false, Bool.and_true, Bool.and_false,
    Bool.false_eq_true, if_false, decide_eq_true_eq]
  by_cases he : s.modes.mode = .evacuate
  · rw [if_pos he, if_pos he]
    cases hr : s.modes.request with
    | none => simp
    | some q => rfl
  · rw [if_neg he, if_neg he]
    by_cases h4 : s.modes.request = some (4, true)
    · simp [h4]
    · rw [if_neg h4, if_neg h4] <;> rfl

theorem ModeQuiet.modeStep_none (hr : s.modes.request = none) : modeStep s = contactsTaken s := by
  rw [h.modeStep_eq]
  simp [hr]

theorem ModeQuiet.cause_taken (v : Nat) (d : Bool) : requestCause (contactsTaken s) v d = requestCause s v d := by
  obtain ⟨p, hp⟩ := h.contactsTaken_eq
  have hstands : anyContact (alarmStands (contactsTaken s)) = anyContact (alarmStands s) := by
    rw [Bool.eq_iff_iff, anyContact_iff, anyContact_iff]
    refine exists_congr fun n => and_congr_right fun hn => ?_
    have hc : (contactsTaken s).contact n = consumeContact (alarmsHeld s) (s.contact n) := by
      rw [contact_eq_of_ports (contactsTaken_modes_ports s).2, consumeContacts_contact s hn]
    have hr : ctEnabled (contactsTaken s) n = ctEnabled s n ∧ ctFunc (contactsTaken s) n = ctFunc s n := by
      rw [hp]
      exact ⟨rfl, rfl⟩
    rw [alarmStands, alarmActive, hc, hr.1, hr.2]
    rfl
  unfold requestCause
  rw [hstands, hp]

/-- A request with a cause against it is refused, and nothing else happens. -/
theorem ModeQuiet.modeStep_refused {v : Nat} {d : Bool} {k : Nat} (hr : s.modes.request = some (v, d))
    (hk : requestCause s v d = k) (h0 : k ≠ 0) : modeStep s = refuseMode k (contactsTaken s) := by
  subst hk
  rw [h.modeStep_eq]
  by_cases he : s.modes.mode = .evacuate
  · have h5 : s.modes.request ≠ some (5, true) := by
      rw [hr]
      rintro ⟨⟩
      simp [requestCause, he] at h0
    rw [if_pos he, hr]
    dsimp only
    rw [if_neg h0, ← hr, if_neg h5]
  · have h4 : s.modes.request ≠ some (4, true) := by
      rw [hr]
      rintro ⟨⟩
      simp [requestCause, he] at h0
    rw [if_neg he, if_neg h4, hr]
    unfold requestStep
    dsimp only
    rw [h.cause_taken, if_pos h0]

theorem ModeQuiet.modeStep_step {v : Nat} {d : Bool} (hr : s.modes.request = some (v, d)) (hk : requestCause s v d = 0)
    (he : s.modes.mode ≠ .evacuate) (h4 : v ≠ 4) : modeStep s = requestStep v d (contactsTaken s) := by
  rw [h.modeStep_eq, if_neg he, if_neg (by simp [hr, h4]), hr]

theorem ModeQuiet.refused_frame (k : Nat) :
    (refuseMode k (contactsTaken s)).modes = { s.modes with
      request := none, autonomy := false, booting := false, alarmInSleep := false } ∧
    (refuseMode k (contactsTaken s)).rd Reg.modeStat = setFld (s.rd Reg.modeStat) 0 3 k ∧
    (refuseMode k (contactsTaken s)).sq Reg.modeEvt = (s.sq Reg.modeEvt).event [1] := by
  obtain ⟨p, hp⟩ := h.contactsTaken_eq
  refine ⟨?_, ?_, ?_⟩
  · rw [(refuseMode_modes_ports _ _).1, hp]
  · rw [refuseMode, sqSet_rd _ _ _ _ (by decide), State.wrf, State.rd_wr, if_pos rfl, hp]
    rfl
  · rw [refuseMode, sqSet_sq _ _ _ (by decide) (by decide), hp]
    rfl

end

/-- Settles O52: a refusal by the cause that is found first, and the mode each request that is taken leads to. -/
theorem modeRequestsAreQueuedAndJudged : Obligations.ModeRequestsAreQueuedAndJudged := by
  unfold Obligations.ModeRequestsAreQueuedAndJudged
  intro quiet stands refused entered
  refine ⟨?write, ?judged, ?idle, ?closed⟩
  case write =>
    have hw : ∀ (s : State) (m : Master) (v : BitVec 64) (n : Nat), reaches s m true 0x40000404 = true →
        (v.setWidth 32 &&& BitVec.ofNat 32 7).toNat % 8 = n →
        regAccess m 0x40000404 .word v s = if s.modes.sleep = .awake then
          { s with modes := { s.modes with request := some (n, m == .dict) } } else s := by
      intro s m v n hr hv
      rw [regAccess_rw s m _ 7 v hr (row_of_map (by decide)) (by decide) (by decide) (by decide), ← hv]
      have hn : ∀ n, n % 8 % 8 = n % 8 := fun n => Nat.mod_mod n 8
      show modeReqWrite (m == .dict) ((v.setWidth 32 &&& BitVec.ofNat 32 7).toNat % 8) s = _
      rw [modeReqWrite, hn]
      rfl
    intro p hp s m hr
    simp only [List.mem_cons, List.not_mem_nil, or_false] at hp
    rcases hp with rfl | rfl | rfl | rfl | rfl <;> exact congrArg _ (hw s m _ _ hr (by decide))
  case judged =>
    intro s v d hq hreq
    have h : ModeQuiet s := hq
    have href : ∀ k, requestCause s v d = k → k ≠ 0 → refused s k := by
      intro k hk h0
      have hf := h.refused_frame k
      rwa [← h.modeStep_refused hreq hk h0] at hf
    have hst : anyContact (alarmStands s) = true ↔ stands s := by
      rw [anyContact_iff]
      simp only [alarmStands, alarmActive, stands, Bool.and_eq_true, decide_eq_true_eq, Bool.not_eq_true', and_assoc]
    obtain ⟨p, htaken⟩ := h.contactsTaken_eq
    have hgo : requestCause s v d = 0 → s.modes.mode ≠ .evacuate → v ≠ 4 → modeStep s = requestStep v d (contactsTaken s) :=
      h.modeStep_step hreq
    have hent : ∀ m, (modeStep s).modes = { (contactsTaken s).modes with mode := m } → entered s m := by
      intro m hm
      refine ⟨by rw [hm], by rw [hm, htaken], ?_⟩
      rw [hm, htaken]
      exact hq.1
    refine ⟨?_, ?_, ?_, ?_, ?_, ?_, ?_, ?_, ?_, ?_, ?_⟩
    · intro hd hv
      exact href 1 (by rw [requestCause, if_pos ⟨hv, hd⟩]) (by decide)
    · intro hv
      exact href 5 (by rw [requestCause, if_neg (by omega), if_pos hv]) (by decide)
    · intro hv
      have hmode : (v = 2 ∧ s.modes.mode ≠ .service) ∨ ((v = 1 ∨ v = 3) ∧ s.modes.mode ≠ .watch)
          ∨ (v = 4 ∧ s.modes.mode = .evacuate) ∨ (v = 5 ∧ s.modes.mode ≠ .evacuate) := hv.imp_right .inl
      exact href 2 (by rw [requestCause, if_neg (by omega), if_neg (by omega), if_pos hmode]) (by decide)
    · intro hd hv
      exact href 2 (by rw [requestCause, if_neg (by simp [hd]), if_neg (by omega), if_pos (.inr (.inr hv))]) (by decide)
    · rintro rfl hm hs
      exact href 3 (by simp [requestCause, hm, hst.mpr hs]) (by decide)
    · rintro rfl hm hs hw
      exact href 4 (by simp [requestCause, hm, mt hst.mp hs, hw]) (by decide)
    · rintro rfl hm hs hw hk
      have h0 : requestCause s 3 d = 0 := by simp [requestCause, hm, mt hst.mp hs, hw, hk]
      have hstep : modeStep s = sleepEnter (contactsTaken s) := by
        rw [hgo h0 (by simp [hm]) (by decide), requestStep, h.cause_taken, h0]
        rfl
      rw [hstep, sleepEnter_modes, htaken]
      exact ⟨rfl, hm, rfl, rfl, rfl, rfl⟩
    · rintro rfl hm
      have h0 : requestCause s 1 d = 0 := by simp [requestCause, hm]
      refine hent .service ?_
      rw [hgo h0 (by simp [hm]) (by decide), requestStep, h.cause_taken, h0]
      exact (changeMode_modes_ports _ _).1.trans (by rw [(watchRestart_modes_ports _).1])
    · rintro rfl hm
      have h0 : requestCause s 2 d = 0 := by simp [requestCause, hm]
      refine hent .watch ?_
      rw [hgo h0 (by simp [hm]) (by decide), requestStep, h.cause_taken, h0]
      exact watchEnter_modes _
    · rintro rfl rfl hm
      have hstep : modeStep s = evacEnter 1 0 (contactsTaken s) := by rw [h.modeStep_eq, if_neg hm, if_pos hreq]
      have hmodes := (evacEnter_modes_ports 1 0 (contactsTaken s)).1
      rw [← hstep, htaken] at hmodes
      refine ⟨⟨?_, ?_, ?_⟩, ?_⟩ <;> rw [hmodes]
      exact hq.1
    · rintro rfl rfl hm
      refine hent .service ?_
      have h0 : requestCause s 5 true = 0 := by simp [requestCause, hm]
      rw [h.modeStep_eq, if_pos hm, hreq]
      dsimp only
      rw [if_pos h0, if_pos rfl]
      exact evacLeave_modes _
  case idle =>
    intro s hq hreq
    rw [ModeQuiet.modeStep_none hq hreq]
    obtain ⟨p, hp⟩ := ModeQuiet.contactsTaken_eq hq
    rw [hp]
  case closed =>
    intro s hs
    rw [modeStep, if_neg hs]

end Sys2Proof.Machine
end

section
/-! Waking from sleep (chapters 22 and 23). -/

namespace Sys2Proof.Machine
open Sys2Proof

/-! ### Memory beyond the Hearth: event records are rows of the ring, which lies below -/

/-- Memory from the Crucible up reads as before. -/
def KeepsHigh (s t : State) : Prop := ∀ a, 0x30000000 ≤ a → memGet t.mem a = memGet s.mem a

theorem KeepsHigh.of_mem {s t : State} (h : t.mem = s.mem) : KeepsHigh s t := fun a _ => by rw [h]

theorem KeepsHigh.trans {s t u : State} (h : KeepsHigh s t) (k : KeepsHigh t u) : KeepsHigh s u :=
  fun a ha => (k a ha).trans (h a ha)

theorem KeepsHigh.foldl {α : Type} {f : State → α → State} (hf : ∀ t x, KeepsHigh t (f t x)) (l : List α) (s : State) :
    KeepsHigh s (l.foldl f s) := by
  induction l generalizing s with
  | nil => exact .of_mem rfl
  | cons x l ih => exact (hf s x).trans (ih _)

@[simp] theorem recordBytes_length (source sev : Nat) (restart : Bool) (code seq lap ts : Nat) (data : List Byte) :
    (recordBytes source sev restart code seq lap ts data).length = data.length + 20 := by
  simp only [recordBytes, List.length_append, leBytes_length, List.length_cons, List.length_nil]
  omega

@[simp] theorem dataWords_length (a b c : Word) : (dataWords a b c).length = 12 := by
  simp [dataWords]

theorem fld_lt (w : Word) (lo n : Nat) : fld w lo n < 2 ^ n := Nat.mod_lt _ (Nat.two_pow_pos n)

@[simp] theorem incSat_mem (a : Nat) (s : State) : (s.incSat a).mem = s.mem := by
  unfold State.incSat
  dsimp only
  split <;> rfl

theorem ringPut_high {r : List Byte} (hr : r.length = 32) (s : State) : KeepsHigh s (ringPut r s).1 := by
  unfold ringPut
  dsimp only
  split
  next hok =>
    intro a ha
    have hwr : s.rdf Reg.evtRingWr 0 14 < 2 ^ 14 := fld_lt _ _ _
    simp only [ringOk, decide_eq_true_eq] at hok
    refine (memGet_memPutBytes_ge r _ _ a (by omega)).trans ?_
    split
    · rw [incSat_mem]
      rfl
    · rfl
  next => exact .of_mem (incSat_mem _ s)

theorem offerEvent_mem (r : List Byte) (source sev t : Nat) (s : State) : (offerEvent r source sev t s).1.mem = s.mem := by
  unfold offerEvent
  dsimp only
  repeat' split
  all_goals rfl

theorem offerAll_mem {offer : Nat → State → State × Bool} (h : ∀ t s, (offer t s).1.mem = s.mem) (s : State) :
    (offerAll offer s).1.mem = s.mem := by
  have hl : ∀ (l : List Nat) (acc : State × Bool), (l.foldl (fun acc t =>
      let r := offer t acc.1
      (r.1, acc.2 || r.2)) acc).1.mem = acc.1.mem := by
    intro l
    induction l with
    | nil => exact fun acc => rfl
    | cons t l ih => exact fun acc => (ih _).trans (h t acc.1)
  exact hl _ (s, false)

/-- A record's row and its offers, from a state that only counts it. -/
theorem rowOffered_high {r : List Byte} (hr : r.length = 32) (source sev : Nat) (s : State) :
    KeepsHigh s (offerAll (offerEvent r source sev) (ringPut r s).1).1 :=
  (ringPut_high hr s).trans (.of_mem (offerAll_mem (fun t s => offerEvent_mem r source sev t s) _))

theorem KeepsHigh.evt {s t : State} (e : Evt) (h : KeepsHigh { s with evt := e } t) : KeepsHigh s t := h

theorem recordCore_high (source sev code : Nat) {data : List Byte} (hd : data.length = 12) (s : State) :
    KeepsHigh s (recordCore source sev code data s).s := by
  unfold recordCore
  dsimp only
  cases s.enabled 14 && (if 4 ≤ sev then decide (1 ≤ s.evt.bucket) else decide (16 < s.evt.bucket))
  · rw [if_neg (by decide)]
    exact .of_mem (incSat_mem _ _)
  · rw [if_pos rfl]
    dsimp only
    have hlen : ∀ f c q l t, (recordBytes source sev f c q l t data).length = 32 := fun f c q l t => by
      rw [recordBytes_length, hd]
    generalize hr : recordBytes source sev _ code _ 0 s.mclk.frameCnt.toNat data = r
    generalize ({ s.evt with seq := _, begun := _, bucket := _, jwait := _ } : Evt) = e
    have h32 : r.length = 32 := hr ▸ hlen _ _ _ _ _
    exact (rowOffered_high h32 source sev { s with evt := e }).evt e

theorem overrunRecord_high (s : State) : KeepsHigh s (overrunRecord s) := by
  have h : (setOverrun s).mem = s.mem := rfl
  exact (KeepsHigh.of_mem h).trans (recordCore_high _ _ _ (dataWords_length _ _ _) _)

theorem makeRecord_high (source sev code : Nat) {data : List Byte} (hd : data.length = 12) (s : State) :
    KeepsHigh s (makeRecord source sev code data s) := by
  have h1 := recordCore_high source sev code hd s
  unfold makeRecord
  dsimp only
  generalize recordCore source sev code data s = o at h1 ⊢
  have hjoin : KeepsHigh s (if o.bits = [] then o.s else
      let s2 := pulse 224 (o.s.setSq Reg.evtEvt ((o.s.sq Reg.evtEvt).event o.bits))
      let o2 := recordCore 15 3 ((0x0030 / 4) * 16 + o.bits.headD 0) (dataWords (s2.sq Reg.evtEvt).view 0#32 0#32) s2
      if o2.bits = [] then o2.s else o2.s.setSq Reg.evtEvt ((o2.s.sq Reg.evtEvt).join o2.bits)) := by
    split
    · exact h1
    · dsimp only
      have hm : (pulse 224 (o.s.setSq Reg.evtEvt ((o.s.sq Reg.evtEvt).event o.bits))).mem = o.s.mem := rfl
      generalize pulse 224 (o.s.setSq Reg.evtEvt ((o.s.sq Reg.evtEvt).event o.bits)) = s2 at hm ⊢
      have h2 := (h1.trans (.of_mem hm)).trans (recordCore_high 15 3 ((0x0030 / 4) * 16 + o.bits.headD 0)
        (dataWords_length (s2.sq Reg.evtEvt).view 0#32 0#32) s2)
      generalize recordCore 15 3 ((0x0030 / 4) * 16 + o.bits.headD 0) (dataWords (s2.sq Reg.evtEvt).view 0#32 0#32) s2 = o2 at h2 ⊢
      split
      · exact h2
      · exact h2
  split
  · exact hjoin.trans (overrunRecord_high _)
  · exact hjoin

theorem sqSetX_high (a : Nat) (bits : List Nat) (sev : Option Nat) (extra : Word) (s : State) :
    KeepsHigh s (sqSetX a bits sev extra s) := by
  unfold sqSetX sqSetData
  split
  · exact .of_mem rfl
  · have hp : ∀ t : State, ∀ o : Option Nat, (match o with
        | some p => pulse p t
        | none => t).mem = t.mem := by
      intro t o
      cases o <;> rfl
    dsimp only
    split
    · exact .of_mem (hp _ _)
    · exact KeepsHigh.trans (.of_mem (hp (s.setSq a ((s.sq a).event bits)) _)) (makeRecord_high _ _ _ (dataWords_length _ _ _) _)

/-! ### A wake request -/

theorem noticePost_modes (x : Nat) (b : Word) (s : State) : (noticePost x b s).modes = s.modes := by
  unfold noticePost
  dsimp only
  split <;> rfl

theorem noticePost_rd (x : Nat) (b : Word) (s : State) (a : Nat) : (noticePost x b s).rd a = s.rd a := by
  unfold noticePost
  dsimp only
  split <;> rfl

theorem wakeRequest_modes {s : State} (h : s.modes.sleep ≠ .awake) (bit contact : Nat) : (wakeRequest bit contact s).modes =
    { s.modes with wake := true, sleep := if s.modes.sleep = .asleep then .waking else s.modes.sleep } := by
  unfold wakeRequest
  rw [if_neg h]
  dsimp only [State.modModes]
  rw [noticePost_modes]
  split <;> split <;> rfl

theorem wakeRequest_stat {s : State} {bit : Nat} (h : s.modes.sleep ≠ .awake) (hb : bit < 4) (h1 : bit ≠ 1) (contact : Nat) :
    (wakeRequest bit contact s).rd Reg.wakeStat = wsetBit (s.rd Reg.wakeStat) bit true := by
  unfold wakeRequest
  rw [if_neg h, if_pos hb]
  dsimp only
  rw [if_neg h1]
  refine (noticePost_rd _ _ _ _).trans ?_
  rw [State.wrb, State.rd_wr, if_pos rfl]

/-! ### The cold boot in place of a fast wake -/

theorem tget_filter_key {α : Type} (d : α) (t : Table α) (p : Nat → Bool) (j : Nat) (h : p j = true) :
    tget d (t.filter fun x => p x.1) j = tget d t j := by
  induction t with
  | nil => rfl
  | cons c t ih =>
    obtain ⟨k, v⟩ := c
    by_cases hj : j = k
    · subst hj
      simp [h, tget]
    · by_cases hk : p k
      · simp [hk, tget, hj, ih]
      · simp [hk, tget, hj, ih]

/-- Neither the clocks nor AON.WAKE_STAT change. -/
structure WakeStatStays (s t : State) : Prop where
  clk : t.clk = s.clk
  stat : t.rd Reg.wakeStat = s.rd Reg.wakeStat

theorem WakeStatStays.refl (s : State) : WakeStatStays s s := ⟨rfl, rfl⟩

theorem WakeStatStays.wr {a : Nat} (h : Reg.wakeStat ≠ a) (v : Word) (s : State) : WakeStatStays s (s.wr a v) :=
  ⟨rfl, by rw [State.rd_wr, if_neg h]⟩

theorem WakeStatStays.trans {s t u : State} (h : WakeStatStays s t) (k : WakeStatStays t u) : WakeStatStays s u :=
  ⟨k.clk.trans h.clk, k.stat.trans h.stat⟩

theorem faultCtrl_wakeStat (v : Word) (s : State) : WakeStatStays s (faultCtrl v s) := by
  have hforce : WakeStatStays s (forceFault s) := .wr (by decide) _ _
  have hclear : ∀ b t, WakeStatStays t (clearFault b t) := by
    intro b t
    unfold clearFault
    split <;> exact .wr (by decide) _ _
  unfold faultCtrl
  dsimp only
  cases v.getLsbD 1 <;> cases v.getLsbD 0
  · exact .refl s
  · exact hclear _ s
  · exact hforce
  · exact hforce.trans (hclear _ _)

theorem ctCfgWrite_wakeStat {n : Nat} (h : Reg.wakeStat ≠ Reg.ctCfg n) (v : Word) (s : State) :
    WakeStatStays s (ctCfgWrite n v s) := by
  unfold ctCfgWrite
  dsimp only
  split
  · exact .wr h _ _
  · obtain ⟨hclk, hstat⟩ := WakeStatStays.wr h (v &&& 0xFFF#32) s
    exact ⟨hclk, hstat⟩

theorem scLand_wakeStat (a : Nat) (v : Word) (s : State) : WakeStatStays s (scLand a v s) := by
  unfold scLand
  split
  next hct =>
    have hne : Reg.wakeStat ≠ Reg.ctCfg ((a - 0x40010100) / 16) := by
      unfold Reg.wakeStat Reg.ctCfg
      omega
    exact ctCfgWrite_wakeStat hne v s
  next =>
    split
    case h_1 => exact faultCtrl_wakeStat v s
    case h_2 => exact .wr (by decide) _ _
    case h_3 => exact .wr (by decide) _ _
    case h_4 =>
      split
      · exact ⟨rfl, rfl⟩
      · exact .refl s
    case h_5 => exact .wr (by decide) _ _
    case h_6 => exact .wr (by decide) _ _
    case h_7 => exact ⟨rfl, rfl⟩
    case h_8 => exact .wr (by decide) _ _
    case h_9 => exact .refl s

theorem scLanded_wakeStat (s : State) : WakeStatStays s (scLanded s) := by
  unfold scLanded
  split
  · exact .refl s
  · split
    · obtain ⟨hclk, hstat⟩ := scLand_wakeStat _ _ (s.modBus fun b => { b with sc := none })
      exact ⟨hclk, hstat⟩
    · exact .refl s

theorem drawBytes_state (n : Nat) (s : State) : ∃ k, (drawBytes n s).2 = { s with free := k } := by
  induction n generalizing s with
  | zero => exact ⟨_, rfl⟩
  | succ n ih => exact ih s.draw.2

theorem keepCut_wakeStat (b : Bool) (s : State) : WakeStatStays s (keepCut b s) := by
  unfold keepCut
  split
  · exact .refl s
  · split
    · exact .refl s
    · split
      · exact ⟨rfl, rfl⟩
      · obtain ⟨k, hk⟩ := drawBytes_state 16 s
        dsimp only
        rw [hk]
        exact ⟨rfl, rfl⟩

/-- What stands in a part that a device reset holds. -/
theorem resetDevice_frame {cause : Nat} (hc : cause < 32) (keep : Bool) (s : State) :
    (resetDevice cause keep s).power.held = true ∧ (resetDevice cause keep s).power.causes.getLsbD cause = true ∧
    (resetDevice cause keep s).rd Reg.wakeStat = s.rd Reg.wakeStat ∧ (resetDevice cause keep s).modes.sleep = .awake ∧
    (resetDevice cause keep s).clk.xtalOk = (keep && s.clk.xtalOk) ∧ (resetDevice cause keep s).ward.untouched = false := by
  have hland : ∀ t, WakeStatStays s t → WakeStatStays s (if s.draw.1.getLsbD 0 then scLanded t else t) := by
    intro t ht
    split
    · exact ht.trans (scLanded_wakeStat t)
    · exact ht
  have h1 : WakeStatStays s (match s.bus.sc with
    | some _ => if s.draw.1.getLsbD 0 then scLanded s.draw.2 else s.draw.2
    | none => s) := by
    split
    · exact hland s.draw.2 ⟨rfl, rfl⟩
    · exact .refl s
  have h2 := h1.trans (keepCut_wakeStat (cause == 2) _)
  unfold resetDevice
  dsimp only
  generalize keepCut (cause == 2) _ = s2 at h2 ⊢
  refine ⟨rfl, ?_, ?_, rfl, ?_, rfl⟩
  · rw [getLsbD_wsetBit _ _ _ _ hc, if_pos rfl]
  · exact (tget_filter_key _ _ keptReg _ (by decide)).trans h2.stat
  · rw [h2.clk]

theorem draw_state (s : State) : s.draw.2 = { s with free := s.free + 1 } := rfl

/-- A boot record changes no mode, no clock, no register but its own. -/
theorem bootRecord_frame (sev : Nat) (s : State) : (bootRecord sev s).power = s.power ∧ (bootRecord sev s).modes = s.modes ∧
    (bootRecord sev s).clk = s.clk ∧ (bootRecord sev s).ward.untouched = s.ward.untouched ∧
    (bootRecord sev s).rd Reg.wakeStat = s.rd Reg.wakeStat := by
  unfold bootRecord
  simp only [draw_state]
  split
  · obtain ⟨hrest, hregs, -, -⟩ := makeRecord_frame 19 sev
      (0x8000 + s.draw.1.toNat % 0x8000) _ { s with free := s.free + 1 + 1 + 1 + 1 }
    refine ⟨?_, ?_, ?_, ?_, hregs _ (by decide)⟩ <;> rw [hrest]
  · refine ⟨rfl, rfl, rfl, ?_, rfl⟩
    dsimp only [State.modWard]
    split <;> rfl

theorem coldWake_frame (s : State) : (coldWake s).power.held = true ∧ (coldWake s).power.causes.getLsbD 7 = true ∧
    (coldWake s).bit Reg.wakeStat 3 = true ∧ (coldWake s).modes.sleep = .awake ∧ (coldWake s).clk.xtalOk = s.clk.xtalOk ∧
    (coldWake s).ward.untouched = false := by
  obtain ⟨hheld, hcause, hstat, hsleep, hxtal, hunt⟩ :=
    resetDevice_frame (cause := 7) (by decide) true (s.wrb Reg.wakeStat 3 true)
  have hbit : (resetDevice 7 true (s.wrb Reg.wakeStat 3 true)).bit Reg.wakeStat 3 = true := by
    rw [State.bit, hstat]
    exact (State.bit_wrb _ _ _ _ _ (by decide)).trans (if_pos rfl)
  unfold coldWake
  dsimp only
  split
  · obtain ⟨hp, hm, hc, hw, hr⟩ := bootRecord_frame 4 ((resetDevice 7 true (s.wrb Reg.wakeStat 3 true)).modWard fun w =>
      { w with cause := 11, causeStage := 0 })
    rw [State.bit, hp, hm, hc, hw, hr]
    exact ⟨hheld, hcause, hbit, hsleep, hxtal, hunt⟩
  · exact ⟨hheld, hcause, hbit, hsleep, hxtal, hunt⟩

/-! ### The fast wake -/

/-- The Warden, the media clock, and memory from the Crucible up stay as they are. -/
structure WakeKeeps (s t : State) : Prop where
  ward : t.ward = s.ward
  mclk : t.mclk = s.mclk
  high : KeepsHigh s t

theorem WakeKeeps.of {s t : State} (hw : t.ward = s.ward) (hk : t.mclk = s.mclk) (hm : t.mem = s.mem) : WakeKeeps s t :=
  ⟨hw, hk, .of_mem hm⟩

theorem WakeKeeps.refl (s : State) : WakeKeeps s s := .of rfl rfl rfl

theorem WakeKeeps.trans {s t u : State} (h : WakeKeeps s t) (k : WakeKeeps t u) : WakeKeeps s u :=
  ⟨k.ward.trans h.ward, k.mclk.trans h.mclk, h.high.trans k.high⟩

theorem WakeKeeps.foldl {α : Type} {f : State → α → State} (hf : ∀ t x, WakeKeeps t (f t x)) (l : List α) (s : State) :
    WakeKeeps s (l.foldl f s) := by
  induction l generalizing s with
  | nil => exact .refl s
  | cons x l ih => exact (hf s x).trans (ih _)

theorem sqSetX_wakeKeeps (a : Nat) {bits : List Nat} (h : bits ≠ []) (sev : Option Nat) (extra : Word) (s : State) :
    WakeKeeps s (sqSetX a bits sev extra s) := by
  refine ⟨?_, ?_, sqSetX_high a bits sev extra s⟩ <;> rw [(sqSetX_frame a bits sev extra s h).rest] <;> rfl

theorem sqSet_wakeKeeps (a b : Nat) (s : State) : WakeKeeps s (sqSet a [b] s) :=
  sqSetX_wakeKeeps a (by simp) none 0#32 s

theorem egress_wakeKeeps (b : Bool) (f : NetFrame) (s : State) : WakeKeeps s (egress b f s) := by
  unfold egress
  split <;> exact .of rfl rfl rfl

theorem ownEgress_wakeKeeps (b : Bool) (f : NetFrame) (s : State) : WakeKeeps s (ownEgress b f s) := by
  have hdrop : ∀ k, WakeKeeps s (xingDropped k s) := by
    intro k
    refine WakeKeeps.trans (WakeKeeps.of ?_ ?_ (incSat_mem (Reg.xingDrop k) s)) (sqSet_wakeKeeps Reg.clkMon 5 _)
    · rw [incSat_rest]
    · rw [incSat_rest]
  unfold ownEgress viaFifo
  simp only [Bool.false_eq_true, if_false]
  split
  · split
    · exact egress_wakeKeeps b f s
    · exact .refl s
  · exact hdrop _

theorem originate_wakeKeeps (f : NetFrame) (s : State) : WakeKeeps s (originate f s) := by
  have two : ∀ (f g : NetFrame) (x : State), WakeKeeps x (ownEgress true f (ownEgress false g x)) :=
    fun f g x => (ownEgress_wakeKeeps false g x).trans (ownEgress_wakeKeeps true f _)
  unfold originate
  split
  · obtain ⟨hw, hk, hm⟩ := two { f with hsr := some (2 * s.rdf Reg.netMode 4 3 + 1, s.net.hsrSeq), len := f.len + 6 }
      { f with hsr := some (2 * s.rdf Reg.netMode 4 3, s.net.hsrSeq), len := f.len + 6 }
      (s.modNet fun n => { n with hsrSeq := s.net.hsrSeq + 1#16 })
    exact ⟨hw, hk, hm⟩
  · split
    · exact ownEgress_wakeKeeps _ f s
    · exact two f f s
  · exact ownEgress_wakeKeeps _ f s
  · exact .refl s

theorem igmpSend_wakeKeeps (group : Word) (source : Option Word) (join : Bool) (s : State) :
    WakeKeeps s (igmpSend group source join s) := by
  unfold igmpSend
  split <;> exact originate_wakeKeeps _ s

theorem modNet_wakeKeeps (f : Net → Net) (s : State) : WakeKeeps s (s.modNet f) := .of rfl rfl rfl

theorem rxStart_wakeKeeps (r : Nat) (s : State) : WakeKeeps s (rxStart r s) := by
  have hclear := WakeKeeps.foldl (f := fun s k => s.wr (Reg.rxWord r (0x28 + 4 * k)) 0#32) (fun _ _ => .of rfl rfl rfl)
    (List.range 8) s
  unfold rxStart
  dsimp only
  generalize (List.range 8).foldl _ s = s1 at hclear ⊢
  have hset : ∀ x : RxStream, WakeKeeps s ((((s1.wr (Reg.rxWord r 0x40) 0xFFFFFFFF#32).wr (Reg.rxWord r 0x44) 0#32).wr
      (Reg.rxWord r 0x48) 0#32).setRxs r x) := by
    refine fun x => hclear.trans (.of ?_ ?_ ?_) <;> simp
  split
  · refine WakeKeeps.trans ?_ (igmpSend_wakeKeeps _ _ _ _)
    exact (hset _).trans (modNet_wakeKeeps _ _)
  · exact hset _

theorem streamsRestart_wakeKeeps (s : State) : WakeKeeps s (streamsRestart s) := by
  refine WakeKeeps.foldl (fun t k => ?_) _ s
  have hrx : WakeKeeps t (if t.bit (Reg.netRxEn k) (k % 32) then rxStart k t else t) := by
    split
    · exact rxStart_wakeKeeps k t
    · exact .refl t
  dsimp only
  generalize (if t.bit (Reg.netRxEn k) (k % 32) then rxStart k t else t) = t1 at hrx ⊢
  split
  · exact ⟨hrx.ward, hrx.mclk, hrx.high⟩
  · exact hrx

theorem senseWake_wakeKeeps (s : State) : WakeKeeps s (senseWake s) := by
  refine WakeKeeps.foldl (fun t k => ?_) _ s
  dsimp only
  split <;> exact .of rfl rfl rfl

theorem heartbeatsRestart_wakeKeeps (s : State) : WakeKeeps s (heartbeatsRestart s) :=
  WakeKeeps.foldl (f := fun u t => u.modTenant t fun x => { x with hbSince := u.dict.hinges }) (fun _ _ => .of rfl rfl rfl)
    (List.range 8) s

theorem restoreWord_wakeKeeps (s : State) (x : Nat × Word) : WakeKeeps s (restoreWord s x) := by
  unfold restoreWord
  split <;> exact .of rfl rfl rfl

theorem sqSet_modEvt_wakeKeeps (a b : Nat) (f : Evt → Evt) (s : State) : WakeKeeps s (sqSet a [b] (s.modEvt f)) := by
  obtain ⟨hw, hk, hm⟩ := sqSet_wakeKeeps a b (s.modEvt f)
  exact ⟨hw, hk, hm⟩

theorem journalScan_wakeKeeps (s : State) : WakeKeeps s (journalScan s) := by
  unfold journalScan
  exact sqSet_modEvt_wakeKeeps Reg.evtEvt 3 _ s

theorem measure_frame (n : Nat) (m : Meas) (s : State) : (measure n m s).ward.stage = s.ward.stage ∧
    (measure n m s).ward.keylock = s.ward.keylock ∧ (measure n m s).mclk = s.mclk ∧ (measure n m s).mem = s.mem := by
  unfold measure tallyExtend
  dsimp only
  split <;> exact ⟨rfl, rfl, rfl, rfl⟩

theorem wrFoldl_wakeKeeps {α : Type} (a : α → Nat) (v : Word) (l : List α) (s : State) :
    WakeKeeps s (l.foldl (fun s n => s.wr (a n) v) s) :=
  WakeKeeps.foldl (f := fun s n => s.wr (a n) v) (fun _ _ => .of rfl rfl rfl) l s

/-- The Warden's part of a fast wake. -/
theorem wakeWarden_frame (s : State) : (wakeWarden s).ward.stage = 10 ∧ (wakeWarden s).ward.keylock = true ∧
    (wakeWarden s).ward.freeze = 0x5F#8 ∧ (wakeWarden s).mclk = s.mclk ∧ KeepsHigh s (wakeWarden s) := by
  unfold wakeWarden
  dsimp only
  generalize hb : tallySum (s.modWard fun w => { w with
    tallies := (List.range 8).map fun i => cut (memBytes s.mem sealAt 0x160) (0x40 + 32 * i) 32,
    keylock := true, freeze := 0#8, stage := 10, recovery := false }) = b
  have hbs : b.ward.stage = 10 ∧ b.ward.keylock = true ∧ b.mclk = s.mclk ∧ b.mem = s.mem := by
    rw [← hb]
    exact ⟨rfl, rfl, rfl, rfl⟩
  obtain ⟨hstage, hkey, hclk, hmem⟩ := measure_frame 7 ⟨10, 0xFF, 0xFF, 0, 0, 0, Config.sha256 ((memBytes s.mem sealAt 0x160).take 0x140)⟩ b
  generalize measure 7 _ b = t at hstage hkey hclk hmem ⊢
  have ht : (t.modWard fun w => { w with freeze := 0x5F#8 }).ward.stage = 10 ∧
      (t.modWard fun w => { w with freeze := 0x5F#8 }).ward.keylock = true ∧ t.mclk = s.mclk ∧ t.mem = s.mem :=
    ⟨hstage.trans hbs.1, hkey.trans hbs.2.1, hclk.trans hbs.2.2.1, hmem.trans hbs.2.2.2⟩
  obtain ⟨hst, hk, hc, hm⟩ := ht
  split
  next i _ =>
    obtain ⟨hw, hmc, hh⟩ := wrFoldl_wakeKeeps Reg.ccStart (i.load + i.resume) (List.range 4)
      (t.modWard fun w => { w with freeze := 0x5F#8 })
    rw [hw, hmc]
    exact ⟨hst, hk, rfl, hc, KeepsHigh.trans (.of_mem hm) hh⟩
  · exact ⟨hst, hk, rfl, hc, .of_mem hm⟩

theorem mclr_foldl_zero {a : Nat} (lo hi : Nat → Nat) (l : List Nat) {s : State} (h : memGet s.mem a = 0#8) :
    memGet (l.foldl (fun s k => s.mclr (lo k) (hi k)) s).mem a = 0#8 := by
  induction l generalizing s with
  | nil => exact h
  | cons k l ih =>
    refine ih ?_
    show memGet (memZero s.mem (lo k) (hi k)) a = _
    rw [memGet_memZero, h]
    split <;> rfl

/-- The Crucible is zeroed on a wake. -/
theorem wakeBase_crucible {a : Nat} (h1 : 0x30000000 ≤ a) (h2 : a < 0x30800000) (s : State) :
    memGet (wakeBase s).mem a = 0#8 := by
  have hzero : memGet (s.mclr 0x30000000 0x30800000).mem a = 0#8 := by
    rw [State.mclr]
    dsimp only
    rw [memGet_memZero, if_neg (by omega)]
    rfl
  unfold wakeBase
  dsimp only
  exact mclr_foldl_zero _ _ _ hzero

/-- The part is awake in VIGIL watch, with no wake request left. -/
structure Woken (s : State) : Prop where
  mode : s.modes.mode = .watch
  sleep : s.modes.sleep = .awake
  wake : s.modes.wake = false

theorem Woken.of_modes {s t : State} (h : Woken s) (ht : t.modes = s.modes) : Woken t :=
  ⟨by rw [ht, h.mode], by rw [ht, h.sleep], by rw [ht, h.wake]⟩

theorem Woken.foldl {f : State → Nat → State} (hf : ∀ t x, Woken t → Woken (f t x)) (l : List Nat) {s : State} (h : Woken s) :
    Woken (l.foldl f s) := by
  induction l generalizing s with
  | nil => exact h
  | cons x l ih => exact ih (hf s x h)

theorem sqSet_modEvt_modes (a : Nat) (bits : List Nat) (f : Evt → Evt) (s : State) :
    (sqSet a bits (s.modEvt f)).modes = s.modes :=
  (sqSet_modes_ports a bits (s.modEvt f)).1

theorem journalScan_modes (s : State) : (journalScan s).modes = s.modes := by
  unfold journalScan
  exact sqSet_modEvt_modes Reg.evtEvt [3] _ s

/-- The context returns, and the network's blocks, the monitors and the tenants start from it. -/
def wakeBlocks (ctx : Table Word) (s : State) : State :=
  heartbeatsRestart (senseWake (streamsRestart (((ctx.foldl restoreWord s).wrb Reg.ptpCtrl 0 false).wrb Reg.ptpCtrl 1 false)))

/-- VIGIL watch after a wake. -/
def wakeModes (s : State) : State :=
  s.modModes fun m => { m with
    mode := .watch, sleep := .awake, sleepHinges := 0, wake := false, booting := false, autonomy := false, context := [] }

/-- The journal's place is found again where the log runs. -/
def wakeJournal (s : State) : State := if s.enabled 14 then journalScan s else s

/-- The mode's change is an event, unless an alarm in sleep leads on to EVACUATE. -/
def wakeChange (s : State) : State :=
  if s.modes.alarmInSleep then s else sqSetX Reg.modeEvt [0] (some 2) 0#32 s

theorem fastWake_good {s : State} {straps : Nat} (hs : s.modes.sleep = .waking) (hx : s.clk.xtalOk = true)
    (hseal : sealGood s straps = true) (n : Nat) : fastWake straps n s =
      (List.range 4).foldl (fun s c => coreStart c s) (wakeChange ((List.range 4).foldl (fun s c => wdogReload c s)
        (wakeJournal (wakeModes (wakeBlocks s.modes.context (wakeWarden (wakeClock n (wakeBase s)))))))) := by
  unfold fastWake
  rw [if_pos ⟨hs, hx⟩, if_pos hseal]
  rfl

theorem wakeBlocks_wakeKeeps (ctx : Table Word) (s : State) : WakeKeeps s (wakeBlocks ctx s) := by
  have h := WakeKeeps.foldl restoreWord_wakeKeeps ctx s
  unfold wakeBlocks
  generalize ctx.foldl restoreWord s = s2 at h ⊢
  have h3 : WakeKeeps s ((s2.wrb Reg.ptpCtrl 0 false).wrb Reg.ptpCtrl 1 false) := ⟨h.ward, h.mclk, h.high⟩
  exact ((h3.trans (streamsRestart_wakeKeeps _)).trans (senseWake_wakeKeeps _)).trans (heartbeatsRestart_wakeKeeps _)

theorem wakeJournal_keeps {s : State} (h : Woken s) : WakeKeeps s (wakeJournal s) ∧ Woken (wakeJournal s) := by
  unfold wakeJournal
  split
  · exact ⟨journalScan_wakeKeeps s, h.of_modes (journalScan_modes s)⟩
  · exact ⟨.refl s, h⟩

theorem wakeChange_keeps {s : State} (h : Woken s) : WakeKeeps s (wakeChange s) ∧ Woken (wakeChange s) := by
  unfold wakeChange
  split
  · exact ⟨.refl s, h⟩
  · exact ⟨sqSetX_wakeKeeps _ (by simp) _ _ s, h.of_modes (sqSetX_modes_ports _ _ _ _ _).1⟩

theorem wakeModes_keeps (s : State) : WakeKeeps s (wakeModes s) ∧ Woken (wakeModes s) :=
  ⟨.of rfl rfl rfl, ⟨rfl, rfl, rfl⟩⟩

theorem wdogReloads_keeps {s : State} (l : List Nat) (h : Woken s) :
    WakeKeeps s (l.foldl (fun s c => wdogReload c s) s) ∧ Woken (l.foldl (fun s c => wdogReload c s) s) :=
  ⟨WakeKeeps.foldl (f := fun s c => wdogReload c s) (fun _ _ => .of rfl rfl rfl) l s,
    Woken.foldl (f := fun s c => wdogReload c s) (fun _ _ h => ⟨h.mode, h.sleep, h.wake⟩) l h⟩

theorem coreStarts_keeps {s : State} (l : List Nat) (h : Woken s) :
    WakeKeeps s (l.foldl (fun s c => coreStart c s) s) ∧ Woken (l.foldl (fun s c => coreStart c s) s) :=
  ⟨WakeKeeps.foldl (f := fun s c => coreStart c s) (fun _ _ => .of rfl rfl rfl) l s,
    Woken.foldl (f := fun s c => coreStart c s) (fun _ _ h => ⟨h.mode, h.sleep, h.wake⟩) l h⟩

/-- From the restored context on, a wake keeps the Warden, the media clock and the Crucible, and ends in VIGIL watch. -/
theorem fastWake_frame {s : State} {straps : Nat} (hs : s.modes.sleep = .waking) (hx : s.clk.xtalOk = true)
    (hseal : sealGood s straps = true) (n : Nat) :
    WakeKeeps (wakeWarden (wakeClock n (wakeBase s))) (fastWake straps n s) ∧ Woken (fastWake straps n s) := by
  rw [fastWake_good hs hx hseal]
  generalize wakeWarden (wakeClock n (wakeBase s)) = s1
  have hblocks := wakeBlocks_wakeKeeps s.modes.context s1
  obtain ⟨hmodes, hwoken⟩ := wakeModes_keeps (wakeBlocks s.modes.context s1)
  obtain ⟨hjournal, hwoken⟩ := wakeJournal_keeps hwoken
  obtain ⟨hwdogs, hwoken⟩ := wdogReloads_keeps (List.range 4) hwoken
  obtain ⟨hchange, hwoken⟩ := wakeChange_keeps hwoken
  obtain ⟨hcores, hwoken⟩ := coreStarts_keeps (List.range 4) hwoken
  exact ⟨((((hblocks.trans hmodes).trans hjournal).trans hwdogs).trans hchange).trans hcores, hwoken⟩

/-- Settles O55: the wake requests, the two ends of a sleep, and the pads' release. -/
theorem sleepEndsInAFastWakeOrACold : Obligations.SleepEndsInAFastWakeOrACold := by
  unfold Obligations.SleepEndsInAFastWakeOrACold
  refine ⟨?level, ?timer, ?idle, ?fast, ?cold, ?pads⟩
  case level =>
    intro s high seen
    have hx : exec (.wake high) s = .next (wakeLevel high s) := rfl
    refine ⟨fun h => ?_, fun h1 h2 h3 h4 => ⟨wakeRequest 0 0 seen, ?_, ?_, ?_⟩⟩
    · rw [hx, wakeLevel]
      split
      next hc =>
        simp only [Bool.and_eq_true, Bool.not_eq_true'] at hc
        obtain ⟨⟨hh, hp⟩, hb⟩ := hc
        rcases h with h | h | h | h
        · simp [h] at hh
        · simp [h] at hp
        · simp [h] at hb
        · rw [wakeRequest, if_pos (by exact h)]
      next => rfl
    · rw [hx, wakeLevel, if_pos (by simp [h1, h2, h3])]
    · exact wakeRequest_modes (s := seen) h4 0 0
    · exact wakeRequest_stat (s := seen) h4 (by decide) (by decide) 0
  case timer =>
    intro s
    have hx : exec .wakeTimer s = .next (wakeTimer s) := rfl
    refine ⟨fun h => ?_, fun h1 h2 => ⟨wakeRequest 2 0 s, ?_, wakeRequest_modes h2 2 0, wakeRequest_stat h2 (by decide) (by decide) 0⟩⟩
    · rw [hx, wakeTimer]
      rcases h with h | h
      · rw [if_neg (by simp [h])]
      · rw [wakeRequest, if_pos h, ite_self]
    · rw [hx, wakeTimer, if_pos h1]
  case idle =>
    intro s straps n h
    have hx : exec (.fastWake straps n) s = .next (fastWake straps.val n s) := rfl
    rw [hx, fastWake, if_neg]
    rintro ⟨hw, hk⟩
    rcases h with h | h
    · exact h hw
    · simp [h] at hk
  case fast =>
    intro s straps n hs hxt hseal
    obtain ⟨⟨hward, hmclk, hhigh⟩, hmode, hsleep, hwake⟩ := fastWake_frame hs hxt hseal n
    obtain ⟨hstage, hkey, hfreeze, hclk, hkeep⟩ := wakeWarden_frame (wakeClock n (wakeBase s))
    refine ⟨fastWake straps.val n s, rfl, hmode, hsleep, hwake, by rw [hward, hstage], by rw [hward, hkey], by rw [hward, hfreeze],
      ?_, ?_, fun a h1 h2 => ?_⟩
    · rw [hmclk, hclk]
      rfl
    · rw [hmclk, hclk]
      rfl
    · rw [hhigh a h1, hkeep a h1]
      exact wakeBase_crucible h1 h2 s
  case cold =>
    intro s straps n hs hxt hseal
    have hgo : fastWake straps.val n s = coldWake s := by
      rw [fastWake, if_pos ⟨hs, hxt⟩, if_neg (by simp [hseal])]
    obtain ⟨hheld, hcause, hstat, hsleep, hclk, hunt⟩ := coldWake_frame s
    exact ⟨coldWake s, congrArg _ hgo, hheld, hcause, hstat, hsleep, hclk.trans hxt, hunt⟩
  case pads =>
    intro s m v hr
    have hx : exec (.padRelease m .word v) s = .next (regAccess m 0x4001026C .word (v ||| 1#64) s) := rfl
    have hrow : ∃ r, rowAt 0x4001026C = some r ∧ r.cls = .sc ∧ r.mask = 1 := row_of_map (by decide)
    obtain ⟨r, hr1, hcls, hmask⟩ := hrow
    have hone : (v ||| 1#64).setWidth 32 &&& BitVec.ofNat 32 1 = 1#32 := by
      apply BitVec.eq_of_getLsbD_eq
      intro i hi
      by_cases e : i = 0
      · subst e
        simp
      · simp [BitVec.getLsbD_one, e]
    have hact := regAccess_own s m 0x4001026C (v ||| 1#64) r hr hr1 (by decide) (by decide) (by decide)
    refine ⟨fun hn => ?_, fun hn => ?_⟩
    · rw [hx, hact, classWrite_sc hcls, if_neg (by simp [hn]), hmask, hone]
    · rw [hx, hact, classWrite_sc hcls, if_pos (Option.isSome_iff_ne_none.mpr hn)]

end Sys2Proof.Machine
end

section
/-! Microphone lines, contacts and the fault latch (chapter 20). -/

namespace Sys2Proof.Machine
open Sys2Proof

/-! ### The DC sense -/

theorem noticePost_ports (x : Nat) (b : Word) (s : State) : (noticePost x b s).ports = s.ports := by
  unfold noticePost
  dsimp only
  split <;> rfl

theorem summaryCheck_ports (s : State) : (summaryCheck s).ports = s.ports := by rw [summaryCheck_rest]

theorem mic_of_ports {s t : State} (h : t.ports = s.ports) (x : Nat) : t.mic x = s.mic x := by
  rw [State.mic, State.mic, h]

@[simp] theorem mic_summaryCheck (s : State) (x : Nat) : (summaryCheck s).mic x = s.mic x :=
  mic_of_ports (summaryCheck_ports s) x

@[simp] theorem mic_micPost (y b : Nat) (s : State) (x : Nat) : (micPost y b s).mic x = s.mic x :=
  mic_of_ports (noticePost_ports _ _ s) x

section
variable {s : State} {x : Nat} (hon : s.bit (Reg.micDc x) 0 = true)
include hon

/-- Outside PRESENT, or on entering or leaving it, a sample is a step of the plug state alone. -/
theorem dcSense_plug (i : Nat) (h : (s.mic x).plug ≠ .present ∨ (plugNext i { s.mic x with latest := i }).plug ≠ .present) :
    dcSense x i s = if (plugNext i { s.mic x with latest := i }).plug = (s.mic x).plug
      then summaryCheck (s.setMic x (plugNext i { s.mic x with latest := i }))
      else micPost x (plugBits (s.mic x).plug (plugNext i { s.mic x with latest := i }).plug)
        (summaryCheck (s.setMic x (plugNext i { s.mic x with latest := i }))) := by
  unfold dcSense
  rw [if_pos hon]
  dsimp only
  rw [if_neg]
  rintro ⟨h1, h2⟩
  exact h.elim (· h1) (· h2)

variable {i : Nat} {p : MicLine} (hp : plugNext i { s.mic x with latest := i } = p) (h1 : (s.mic x).plug = .present)
  (h2 : p.plug = .present)
include hp h1 h2

/-- In PRESENT and before I0 stands, a sample is one towards it. -/
theorem dcSense_learn (hl : p.learnt = false) : dcSense x i s = if (learnStep i p).type ≠ 0
    then micPost x 4 (summaryCheck (s.setMic x (learnStep i p))) else summaryCheck (s.setMic x (learnStep i p)) := by
  unfold dcSense
  rw [if_pos hon]
  dsimp only
  rw [hp, if_pos ⟨h1, h2⟩, if_neg (by simp [hl])]

theorem dcSense_untyped (hl : p.learnt = true) (ht : p.type = 0) : dcSense x i s = summaryCheck (s.setMic x p) := by
  unfold dcSense
  rw [if_pos hon]
  dsimp only
  rw [hp, if_pos ⟨h1, h2⟩, if_pos hl, if_pos ht]

theorem dcSense_decode (hl : p.learnt = true) (ht : p.type ≠ 0) {m : MicLine} {b : Nat} {e : Bool}
    (hd : decodeStep i p = (m, b, e)) : dcSense x i s = if b ≠ 0 ∨ e = true
      then micPost x b (summaryCheck (s.setMic x m)) else summaryCheck (s.setMic x m) := by
  unfold dcSense
  rw [if_pos hon]
  dsimp only
  rw [hp, if_pos ⟨h1, h2⟩, if_pos hl, if_neg ht, hd]

end

/-! ### The latch -/

theorem bit_wrn_latch (s : State) (k : Nat) (hk : k < 32) :
    (s.wrn Reg.faultStat (wsetBit (wsetBit (s.rd Reg.faultStat) 0 true) k true).toNat).bit Reg.faultStat 0 = true ∧
    (s.wrn Reg.faultStat (wsetBit (wsetBit (s.rd Reg.faultStat) 0 true) k true).toNat).bit Reg.faultStat k = true := by
  have h : ∀ i, (s.wrn Reg.faultStat (wsetBit (wsetBit (s.rd Reg.faultStat) 0 true) k true).toNat).bit Reg.faultStat i =
      (wsetBit (wsetBit (s.rd Reg.faultStat) 0 true) k true).getLsbD i := by
    intro i
    rw [State.bit, State.rd_wrn, if_pos rfl, BitVec.ofNat_toNat, BitVec.setWidth_eq]
  rw [h, h, getLsbD_wsetBit _ _ _ _ hk, getLsbD_wsetBit _ _ _ _ hk, getLsbD_wsetBit _ _ _ _ (by decide)]
  simp

/-! ### A contact's accepted class -/

theorem contact_wakeRequest (bit k : Nat) (s : State) (n : Nat) : (wakeRequest bit k s).contact n = s.contact n := by
  apply contact_eq_of_ports
  unfold wakeRequest
  split
  · rfl
  · refine (noticePost_ports _ _ _).trans ?_
    split <;> split <;> rfl

theorem wakeRequest_rd {a : Nat} (h : a ≠ Reg.wakeStat) (bit k : Nat) (s : State) : (wakeRequest bit k s).rd a = s.rd a := by
  have hb : (if bit < 4 then s.wrb Reg.wakeStat bit true else s).rd a = s.rd a := by
    split
    · exact State.rd_wrb_ne h s bit true
    · rfl
  unfold wakeRequest
  split
  · rfl
  · refine (noticePost_rd _ _ _ a).trans ?_
    split
    · exact (State.rd_wr _ _ _ _).trans ((if_neg h).trans hb)
    · exact hb

/-- The part of an accepted class that does not wake: the silencing it ends, the latch, and what falls due at the hinge. -/
def classEffects (n cls : Nat) (s : State) : State :=
  let s1 := s.setContact n { s.contact n with silenced := (s.contact n).silenced && decide (cls = 1) }
  let s2 := if 2 ≤ cls ∧ contactFault s1 n = true then latchFault 3 s1 else s1
  if cls = 1 ∧ ctFunc s n = 1 then
    if s.modes.sleep != .awake then s2.modModes fun m => { m with alarmInSleep := true }
    else s2.setContact n { s2.contact n with alarmDue := true }
  else if cls = 1 ∧ ctFunc s n = 2 then
    let s4 := (List.range 8).foldl (fun s k =>
      if alarmActive s k then s.setContact k { s.contact k with silenced := true } else s) s2
    s4.setContact n { s4.contact n with silenceDue := true }
  else s2

theorem contactAccepted_eq (n cls : Nat) (s : State) : contactAccepted n cls s =
    if (s.rd (Reg.ctCfg n)).getLsbD (4 + cls) || decide (cls = 1 ∧ ctFunc s n = 1)
    then wakeRequest 1 n (classEffects n cls s) else classEffects n cls s := rfl

/-- The class, the run and the counter of every contact stay. -/
def CountsStay (s t : State) : Prop :=
  ∀ k, (t.contact k).cls = (s.contact k).cls ∧ (t.contact k).run = (s.contact k).run ∧ (t.contact k).cnt = (s.contact k).cnt

theorem CountsStay.trans {s t u : State} (h : CountsStay s t) (k : CountsStay t u) : CountsStay s u := fun n =>
  ⟨(k n).1.trans (h n).1, (k n).2.1.trans (h n).2.1, (k n).2.2.trans (h n).2.2⟩

theorem CountsStay.of_ports {s t : State} (h : t.ports = s.ports) : CountsStay s t := fun k => by
  rw [contact_eq_of_ports h]
  exact ⟨rfl, rfl, rfl⟩

theorem CountsStay.set {s : State} {n : Nat} {c : Contact} (h : c.cls = (s.contact n).cls) (hr : c.run = (s.contact n).run)
    (hc : c.cnt = (s.contact n).cnt) : CountsStay s (s.setContact n c) := fun k => by
  rw [State.contact_setContact]
  split
  next e =>
    subst e
    exact ⟨h, hr, hc⟩
  next => exact ⟨rfl, rfl, rfl⟩

/-- Silencing the active alarms touches no register and no mode. -/
theorem silenceAll_frame (l : List Nat) (s : State) :
    CountsStay s (l.foldl (fun s k => if alarmActive s k then s.setContact k { s.contact k with silenced := true } else s) s) ∧
    (l.foldl (fun s k => if alarmActive s k then s.setContact k { s.contact k with silenced := true } else s) s).regs = s.regs ∧
    (l.foldl (fun s k => if alarmActive s k then s.setContact k { s.contact k with silenced := true } else s) s).modes.sleep =
      s.modes.sleep := by
  induction l generalizing s with
  | nil => exact ⟨.of_ports rfl, rfl, rfl⟩
  | cons k l ih =>
    rw [List.foldl_cons]
    split
    · obtain ⟨h1, h2, h3⟩ := ih (s.setContact k { s.contact k with silenced := true })
      have h0 : CountsStay s (s.setContact k { s.contact k with silenced := true }) := .set rfl rfl rfl
      exact ⟨h0.trans h1, h2, h3⟩
    · exact ih s

theorem latchFault_ports (why : Nat) (s : State) : (latchFault why s).ports = s.ports := rfl

/-- Nothing counted and no sleep changes; the latch takes a faulted class. -/
theorem classEffects_frame (n cls : Nat) (s : State) : CountsStay s (classEffects n cls s) ∧
    (classEffects n cls s).modes.sleep = s.modes.sleep ∧
    (2 ≤ cls → contactFault s n = true → (classEffects n cls s).bit Reg.faultStat 0 = true ∧
      (classEffects n cls s).bit Reg.faultStat 3 = true) ∧
    (cls = 1 → ctFunc s n = 1 → s.modes.sleep = .awake → ((classEffects n cls s).contact n).alarmDue = true) := by
  have h1 : CountsStay s (s.setContact n { s.contact n with silenced := (s.contact n).silenced && decide (cls = 1) }) :=
    .set rfl rfl rfl
  have hfault : contactFault (s.setContact n { s.contact n with silenced := (s.contact n).silenced && decide (cls = 1) }) n
      = contactFault s n := by
    rw [contactFault, (h1 n).1]
    rfl
  unfold classEffects
  dsimp only
  rw [hfault]
  have hm : (s.setContact n { s.contact n with silenced := (s.contact n).silenced && decide (cls = 1) }).modes = s.modes := rfl
  generalize s.setContact n { s.contact n with silenced := (s.contact n).silenced && decide (cls = 1) } = s1 at h1 hm ⊢
  have h2 : CountsStay s (if 2 ≤ cls ∧ contactFault s n = true then latchFault 3 s1 else s1) ∧
      (if 2 ≤ cls ∧ contactFault s n = true then latchFault 3 s1 else s1).modes.sleep = s.modes.sleep ∧
      (2 ≤ cls → contactFault s n = true →
        (if 2 ≤ cls ∧ contactFault s n = true then latchFault 3 s1 else s1).bit Reg.faultStat 0 = true ∧
        (if 2 ≤ cls ∧ contactFault s n = true then latchFault 3 s1 else s1).bit Reg.faultStat 3 = true) := by
    split
    next => exact ⟨h1.trans (.of_ports (latchFault_ports 3 s1)), congrArg Modes.sleep hm, fun _ _ => bit_wrn_latch s1 3 (by decide)⟩
    next hno => exact ⟨h1, congrArg Modes.sleep hm, fun hc hf => absurd ⟨hc, hf⟩ hno⟩
  generalize (if 2 ≤ cls ∧ contactFault s n = true then latchFault 3 s1 else s1) = s2 at h2 ⊢
  obtain ⟨hcount, hsleep, hlatch⟩ := h2
  by_cases halarm : cls = 1 ∧ ctFunc s n = 1
  · rw [if_pos halarm]
    split
    next hno =>
      exact ⟨hcount, hsleep, hlatch, fun _ _ ha => absurd ha (by simpa using hno)⟩
    next =>
      refine ⟨hcount.trans (.set rfl rfl rfl), hsleep, hlatch, fun _ _ _ => ?_⟩
      rw [State.contact_setContact, if_pos rfl]
  · rw [if_neg halarm]
    refine ⟨?_, ?_, ?_, fun hc hf => absurd ⟨hc, hf⟩ halarm⟩
    all_goals obtain ⟨hstay, hregs, hawake⟩ := silenceAll_frame (List.range 8) s2
    · split
      · exact (hcount.trans hstay).trans (.set rfl rfl rfl)
      · exact hcount
    · split
      · exact hawake.trans hsleep
      · exact hsleep
    · split
      next hf => exact fun hc => absurd hf.1 (by omega)
      next => exact hlatch

theorem micDc_row (x : Fin 2) : (rowAt (Reg.micDc x)).map (fun r => (r.cls, r.mask)) = some (.rw, 0x107) ∧
    inSlots (Reg.micDc x) = true ∧ Reg.micDc x % 0x10000 < 0x8000 ∧ Reg.micDc x ≠ 0x40000700 := by
  revert x
  decide

/-- A write with RELEARN set keeps its other bits. -/
theorem relearn_bits (v : BitVec 64) :
    ((v ||| 0x100#64).setWidth 32 &&& BitVec.ofNat 32 0x107) &&& 0x7#32 = v.setWidth 32 &&& 7#32 ∧
    ((v ||| 0x100#64).setWidth 32 &&& BitVec.ofNat 32 0x107).getLsbD 8 = true := by
  refine ⟨?_, by simp⟩
  have h7 : BitVec.ofNat 32 0x107 &&& 7#32 = 7#32 := by decide
  have h0 : (0x100#64).setWidth 32 &&& 7#32 = 0#32 := by decide
  rw [BitVec.setWidth_or, BitVec.and_assoc, h7]
  apply BitVec.eq_of_getLsbD_eq
  intro i hi
  have hi0 := congrArg (fun w => w.getLsbD i) h0
  simp only [BitVec.getLsbD_and, BitVec.getLsbD_or, BitVec.getLsbD_zero] at hi0 ⊢
  rw [Bool.and_or_distrib_right, hi0, Bool.or_false]

/-! ### The latch's two writes -/

/-- FORCE sets the latch, whether CLEAR comes with it or not. -/
theorem faultCtrl_force {v : Word} (h : v.getLsbD 1 = true) (s : State) : (faultCtrl v s).bit Reg.faultStat 0 = true := by
  unfold faultCtrl
  dsimp only
  rw [if_pos h]
  split
  · rw [clearFault, if_pos (.inr (.inr h))]
    exact (bit_wrn_latch _ 5 (by decide)).1
  · exact (State.bit_wrb _ _ _ _ _ (by decide)).trans (if_pos rfl)

/-- CLEAR against a standing cause, or with FORCE, is refused. -/
theorem faultCtrl_refused {v : Word} (h0 : v.getLsbD 0 = true) {s : State}
    (h : faultSum s ≠ 0 ∨ (List.range 8).any (contactFault s) = true ∨ v.getLsbD 1 = true) :
    (faultCtrl v s).bit Reg.faultStat 0 = true ∧ (faultCtrl v s).bit Reg.faultStat 5 = true := by
  unfold faultCtrl
  dsimp only
  rw [if_pos h0]
  split
  next h1 =>
    rw [clearFault, if_pos (.inr (.inr h1))]
    exact bit_wrn_latch _ 5 (by decide)
  next h1 =>
    rw [clearFault, if_pos h]
    exact bit_wrn_latch _ 5 (by decide)

theorem faultCtrl_cleared {v : Word} (h0 : v.getLsbD 0 = true) (h1 : v.getLsbD 1 = false) {s : State}
    (hs : faultSum s = 0) (hc : (List.range 8).any (contactFault s) = false) : (faultCtrl v s).rd Reg.faultStat = 0#32 := by
  unfold faultCtrl
  dsimp only
  rw [if_pos h0, h1, if_neg (by decide), clearFault, if_neg (by simp [hs, hc]), State.rd_wrn, if_pos rfl]

/-- Settles O50: the plug state and the button decoder, the gain, the contacts, and the latch's two writes. -/
theorem microphonesContactsAndTheFaultLatch : Obligations.MicrophonesContactsAndTheFaultLatch := by
  unfold Obligations.MicrophonesContactsAndTheFaultLatch
  refine ⟨?off, ?sample, ?plug, ?relearn, ?gain, ?asked, ?frame, ?scan, ?event, ?latch⟩
  case off =>
    intro s x i h
    have hx : exec (.dcSenseSample x i) s = .next (dcSense x.val i s) := rfl
    rw [hx, dcSense, if_neg (by simp [h])]
  case sample =>
    intro s x i hon p t
    have hx : exec (.dcSenseSample x i) s = .next (dcSense x.val i s) := rfl
    rw [hx]
    refine ⟨fun h => congrArg _ (dcSense_plug hon i h), fun h1 h2 => ⟨?_, ?_, ?_, ?_, ?_, ?_⟩⟩
    · intro hl hn ht
      have hstep : learnStep i p = { p with i0n := p.i0n + 1, i0sum := p.i0sum + i } := by
        rw [learnStep, if_neg (by omega)]
      rw [dcSense_learn hon rfl h1 h2 hl, hstep, if_neg (fun h => h ht)]
    · intro hl hn
      have hstep : learnStep i p =
          { p with i0n := 0, i0sum := 0, i0 := (scaleOpen 40 ((p.i0sum + i : Nat) : Int) 1 16).toNat, learnt := true } := by
        rw [learnStep, if_pos (by omega)]
      refine ⟨_, congrArg _ (dcSense_learn hon rfl h1 h2 hl), ?_⟩
      rw [hstep]
      split <;> simp
    · intro hl ht
      exact congrArg _ (dcSense_untyped hon rfl h1 h2 hl ht)
    · intro hl ht hb
      have hd : decodeStep i p = ({ p with candRun := 0 }, 16, false) := by rw [decodeStep, hb]
      rw [dcSense_decode hon rfl h1 h2 hl ht hd, if_pos (by decide)]
    · intro c hl ht hb hc hr hne
      have hd : decodeStep i p = ({ p with candRun := 8, code := c, presses := countPresses p.code c p.presses }, 0, true) := by
        have hrun : (if p.candRun ≠ 0 ∧ p.cand = c then min 8 (p.candRun + 1) else 1) = 8 := by
          rw [if_pos ⟨by omega, hc⟩, Nat.min_eq_left (by omega)]
        rw [decodeStep, hb]
        dsimp only
        rw [hrun, if_pos ⟨Nat.le_refl 8, hne⟩, ← hc]
      refine ⟨_, congrArg _ (dcSense_decode hon rfl h1 h2 hl ht hd), ?_⟩
      simp
    · intro c hl ht hb hc hr hlt
      have hd : decodeStep i p = ({ p with candRun := p.candRun + 1 }, 0, false) := by
        have hrun : (if p.candRun ≠ 0 ∧ p.cand = c then min 8 (p.candRun + 1) else 1) = p.candRun + 1 := by
          rw [if_pos ⟨by omega, hc⟩, Nat.min_eq_right (by omega)]
        rw [decodeStep, hb]
        dsimp only
        rw [hrun, if_neg (by omega), ← hc]
      rw [dcSense_decode hon rfl h1 h2 hl ht hd, if_neg (by decide)]
  case plug =>
    intro m i
    refine ⟨fun hm hi hb => ?_, fun hm hi hb hr => ?_, fun hm hi hr => ?_, fun hm hi => ?_, fun hm hi hr => ?_, fun hm hi hr => ?_⟩
    all_goals unfold plugNext
    · simp [hm, hi, show ¬ 10000 ≤ i by omega, MicLine.enter]
    · simp [hm, show ¬ 10000 ≤ i by omega, show ¬ i < 200 by omega, hr, MicLine.enter]
    · simp [hm, hi, hr, MicLine.enter]
    · simp [hm, hi, show ¬ 10000 ≤ i by omega, MicLine.enter]
    · simp [hm, show ¬ 10000 ≤ i by omega, show ¬ 200 ≤ i by omega, hr, MicLine.enter, MicLine.release]
    · simp [hm, show ¬ 10000 ≤ i by omega, hr, MicLine.enter]
  case relearn =>
    intro s m x v hr hv t
    have hx : exec (.relearn m x .word v) s = .next (regAccess m (Reg.micDc x) .word (v ||| 0x100#64) s) := rfl
    have hw : ∀ (w : Who) (u : Word), rwWrite w (Reg.micDc x) u s = micDcWrite x u s := by
      intro w u
      fin_cases x <;> rfl
    obtain ⟨hrow, hin, hoff, hne⟩ := micDc_row x
    rw [hx, regAccess_rw s m _ 0x107 _ hr (row_of_map hrow) hin hoff hne, hw]
    obtain ⟨hkept, hset⟩ := relearn_bits v
    have hbit : (s.wr (Reg.micDc x) (v.setWidth 32 &&& 7#32)).bit (Reg.micDc x) 0 = v.getLsbD 0 := by
      rw [State.bit, State.rd_wr, if_pos rfl]
      simp
    have ht : biasChange x (s.bit (Reg.micDc x) 0) (s.wr (Reg.micDc x) (v.setWidth 32 &&& 7#32)) = t := by
      unfold biasChange
      dsimp only
      rw [if_pos (hv.symm.trans hbit.symm)]
    have hmic : t.mic x = s.mic x := mic_summaryCheck _ _
    rw [micDcWrite, hkept, ht, if_pos hset, relearn, hmic]
  case gain =>
    intro s x
    have hx : exec (.gainChange x) s = .next (gainChange x.val s) := rfl
    refine ⟨fun h => ?_, fun h1 h2 => ?_⟩
    · rw [hx, gainChange, if_neg]
      rcases h with h | h <;> simp [h]
    · rw [hx, gainChange, if_pos (by simp [h1, h2])]
  case asked =>
    intro m g hne hw
    rw [gainAsked, if_neg hne, if_neg (fun h => hw h.1 h.2)]
  case frame =>
    intro m neg hw
    refine ⟨rfl, ?_⟩
    cases neg <;> cases hg : m.gainNeg <;> simp [gainFrame, hw, hg]
  case scan =>
    intro s n c
    have hx : exec (.contactScan n c) s = .next (contactScan n.val c.val s) := rfl
    rw [hx]
    refine ⟨fun h => ?_, fun ha hs he => ?_⟩
    · rw [contactScan, if_neg]
      rcases h with h | h | h <;> simp [h]
    · have hgo : contactScan n c s = if (contactStep c (s.contact n)).2
          then contactAccepted n c (s.setContact n (contactStep c (s.contact n)).1)
          else s.setContact n (contactStep c (s.contact n)).1 := by
        rw [contactScan, if_pos (by simp [ha, hs, he])]
      rw [hgo]
      refine ⟨fun hc => ?_, fun hc hcand => ?_, fun hc hcand hrun => ?_, fun hc hcand hrun => ?_⟩
      · rw [contactStep, if_pos hc]
        rfl
      · rw [contactStep, if_neg hc, if_neg hcand]
        rfl
      · rw [contactStep, if_neg hc, if_pos hcand, hrun, ← hcand]
        rfl
      · have hstep : contactStep c (s.contact n) =
            ({ s.contact n with cls := c, cand := c, run := 0, cnt := (s.contact n).cnt + 1#16 }, true) := by
          rw [contactStep, if_neg hc, if_pos hcand]
          dsimp only
          rw [if_pos (by omega)]
        rw [hstep, if_pos rfl]
        dsimp only
        generalize hs1 : s.setContact n { s.contact n with cls := c, cand := c, run := 0, cnt := (s.contact n).cnt + 1#16 } = s1
        have hcon : s1.contact n = { s.contact n with cls := c, cand := c, run := 0, cnt := (s.contact n).cnt + 1#16 } := by
          rw [← hs1, State.contact_setContact, if_pos rfl]
        have hsame : s1.modes = s.modes ∧ ∀ a, s1.rd a = s.rd a := by
          rw [← hs1]
          exact ⟨rfl, fun _ => rfl⟩
        obtain ⟨hmodes, hrd⟩ := hsame
        obtain ⟨hcount, hsleep, hlatch, hdue⟩ := classEffects_frame n c s1
        obtain ⟨hcls, hrun, hcnt⟩ := hcount n
        have hcontact : (contactAccepted n c s1).contact n = (classEffects n c s1).contact n := by
          rw [contactAccepted_eq]
          split
          · exact contact_wakeRequest 1 n _ n
          · rfl
        have hbit : ∀ i, (contactAccepted n c s1).bit Reg.faultStat i = (classEffects n c s1).bit Reg.faultStat i := by
          intro i
          rw [contactAccepted_eq]
          split
          · rw [State.bit, wakeRequest_rd (by decide)]
            rfl
          · rfl
        refine ⟨_, rfl, ?_, ?_, ?_, fun h2 hf => ?_, fun h1 hf hw => ?_, fun hasleep hwake => ?_⟩
        · rw [hcontact, hcls, hcon]
        · rw [hcontact, hrun, hcon]
        · rw [hcontact, hcnt, hcon]
        · rw [hbit, hbit]
          refine hlatch h2 ?_
          rw [contactFault, hcon, hrd]
          exact hf
        · rw [hcontact]
          refine hdue h1 ?_ (by rw [hmodes, hw])
          rw [← hf, ctFunc, State.rdf, hrd]
          rfl
        · have hs2 : (classEffects n c s1).modes.sleep = .asleep := by rw [hsleep, hmodes, hasleep]
          have hgo : contactAccepted n c s1 = wakeRequest 1 n (classEffects n c s1) := by
            rw [contactAccepted_eq, hrd, if_pos (by simp [hwake])]
          rw [hgo, wakeRequest_modes (by simp [hs2])]
          exact ⟨rfl, if_pos hs2⟩
  case event =>
    intro s n
    have hx : exec (.contactEvent n) s = .next (contactEvent n.val s) := rfl
    refine ⟨fun h => ?_, fun h => ⟨contactEvent n.val s, hx, ?_⟩⟩
    · rw [hx, contactEvent, if_pos h]
    · have hn := n.isLt
      generalize hextra : BitVec.ofNat 32 (((s.contact n).cnt - (s.contact n).seen).toNat + (s.contact n).cls * 65536) = extra
      have he : contactEvent n.val s = sqSetX Reg.ctEvt [n.val] (some (if 2 ≤ (s.contact n).cls then 4 else 2)) extra
          (s.setContact n { s.contact n with seen := (s.contact n).cnt, seenCls := (s.contact n).cls }) := by
        rw [← hextra]
        unfold contactEvent
        dsimp only
        rw [if_neg h]
      rw [he]
      refine ⟨?_, ?_⟩
      · rw [contact_eq_of_ports (sqSetX_modes_ports _ _ _ _ _).2, State.contact_setContact, if_pos rfl]
      · rw [(sqSetX_frame _ _ _ _ _ (by simp)).sqs _ (by decide) (by decide), State.sq_setSq, if_pos rfl]
        rfl
  case latch =>
    intro s m v hr hsc t
    have hrow : ∃ r, rowAt 0x40010240 = some r ∧ r.cls = .sc ∧ r.mask = 3 := row_of_map (by decide)
    obtain ⟨r, hr1, hcls, hmask⟩ := hrow
    have hwrite : ∀ k : BitVec 64, regAccess m 0x40010240 .word (v ||| k) s = t k := by
      intro k
      rw [regAccess_own s m 0x40010240 (v ||| k) r hr hr1 (by decide) (by decide) (by decide), classWrite_sc hcls,
        if_neg (by simp [hsc]), hmask]
    have hland : ∀ k : BitVec 64, s.clk.slowGone = false → exec .scWriteLanded (t k) =
        .next (faultCtrl ((v ||| k).setWidth 32 &&& 3#32) s) := by
      intro k hs
      have hx : exec .scWriteLanded (t k) = .next (scLanded (t k)) := rfl
      have hbus : { s.bus with sc := none } = s.bus := by rw [← hsc]
      have hback : (t k).modBus (fun b => { b with sc := none }) = s := congrArg (fun b => { s with bus := b }) hbus
      rw [hx]
      unfold scLanded
      rw [if_neg (by simp [t, State.modBus, hs])]
      show Host.Outcome.next (scLand 0x40010240 _ ((t k).modBus fun b => { b with sc := none })) = _
      rw [hback]
      rfl
    have hbits : ∀ (k : BitVec 64) (i : Nat), i < 2 → ((v ||| k).setWidth 32 &&& 3#32).getLsbD i = (v.getLsbD i || k.getLsbD i) := by
      intro k i hi
      have h3 : (3#32).getLsbD i = true := by
        rcases (by omega : i = 0 ∨ i = 1) with rfl | rfl <;> rfl
      simp [h3, show i < 32 by omega]
    refine ⟨congrArg _ (hwrite 2#64), congrArg _ (hwrite 1#64), fun hs => ⟨_, hland 2#64 hs, ?_⟩, fun hs => ⟨_, hland 1#64 hs, ?_⟩⟩
    · exact faultCtrl_force (by rw [hbits _ _ (by decide)]; simp) s
    · have h0 : ((v ||| 1#64).setWidth 32 &&& 3#32).getLsbD 0 = true := by
        rw [hbits _ _ (by decide)]
        simp
      have h1 : ((v ||| 1#64).setWidth 32 &&& 3#32).getLsbD 1 = v.getLsbD 1 := by
        rw [hbits _ _ (by decide)]
        simp
      exact ⟨fun h => faultCtrl_refused h0 (by rwa [h1]), fun hs hc hv => faultCtrl_cleared h0 (h1.trans hv) hs hc⟩

end Sys2Proof.Machine
end

section
/-! Resets, the trim load and the temperature (chapter 25). -/

namespace Sys2Proof.Machine
open Sys2Proof

/-! ### What a device reset keeps -/

/-- The supplies' state, the fuses and the flash, which no SC write and no Keep program under way touches. -/
structure KeepsSupply (s t : State) : Prop where
  power : t.power = s.power
  fuses : t.ward.fuses = s.ward.fuses
  flash : t.flash = s.flash

theorem KeepsSupply.refl (s : State) : KeepsSupply s s := ⟨rfl, rfl, rfl⟩

theorem KeepsSupply.trans {s t u : State} (h : KeepsSupply s t) (k : KeepsSupply t u) : KeepsSupply s u :=
  ⟨k.power.trans h.power, k.fuses.trans h.fuses, k.flash.trans h.flash⟩

theorem KeepsSupply.wr (a : Nat) (v : Word) (s : State) : KeepsSupply s (s.wr a v) := ⟨rfl, rfl, rfl⟩

theorem ctCfgWrite_supply (n : Nat) (v : Word) (s : State) : KeepsSupply s (ctCfgWrite n v s) := by
  unfold ctCfgWrite
  dsimp only
  split <;> exact ⟨rfl, rfl, rfl⟩

theorem faultCtrl_supply (v : Word) (s : State) : KeepsSupply s (faultCtrl v s) := by
  have hclear : ∀ b t, KeepsSupply t (clearFault b t) := by
    intro b t
    unfold clearFault
    split <;> exact .wr _ _ _
  have hforce : KeepsSupply s (forceFault s) := .wr _ _ _
  unfold faultCtrl
  dsimp only
  cases v.getLsbD 1 <;> cases v.getLsbD 0
  · exact .refl s
  · exact hclear _ s
  · exact hforce
  · exact hforce.trans (hclear _ _)

theorem scLand_supply (a : Nat) (v : Word) (s : State) : KeepsSupply s (scLand a v s) := by
  unfold scLand
  split
  next => exact ctCfgWrite_supply _ v s
  next =>
    split
    case h_1 => exact faultCtrl_supply v s
    case h_4 => split <;> exact ⟨rfl, rfl, rfl⟩
    case h_7 => exact ⟨rfl, rfl, rfl⟩
    case h_9 => exact .refl s
    all_goals exact .wr _ _ _

theorem scLanded_supply (s : State) : KeepsSupply s (scLanded s) := by
  unfold scLanded
  split
  · exact .refl s
  · split
    · obtain ⟨h1, h2, h3⟩ := scLand_supply _ _ (s.modBus fun b => { b with sc := none })
      exact ⟨h1, h2, h3⟩
    · exact .refl s

theorem keepCut_supply (b : Bool) (s : State) : KeepsSupply s (keepCut b s) := by
  unfold keepCut
  split
  · exact .refl s
  · split
    · exact .refl s
    · split
      · exact ⟨rfl, rfl, rfl⟩
      · obtain ⟨k, hk⟩ := drawBytes_state 16 s
        dsimp only
        rw [hk]
        exact ⟨rfl, rfl, rfl⟩

theorem tget_filter_out {α : Type} (d : α) (t : Table α) (p : Nat → Bool) (j : Nat) (h : p j = false) :
    tget d (t.filter fun x => p x.1) j = d := by
  induction t with
  | nil => rfl
  | cons c t ih =>
    obtain ⟨k, v⟩ := c
    by_cases hk : p k
    · have hj : j ≠ k := by
        rintro rfl
        simp [h] at hk
      simp [hk, tget, hj, ih]
    · simp [hk, ih]

theorem keepCut_idle {s : State} (h : s.msg.prog = none) (b : Bool) : keepCut b s = s := by
  unfold keepCut
  rw [h]

/-- Where no SC write and no Keep program is under way, a device reset keeps the registers and memories it must, and
returns every other. -/
theorem resetDevice_stores {s : State} (hsc : s.bus.sc = none) (hprog : s.msg.prog = none) (cause : Nat) (keep : Bool) :
    (∀ a, (resetDevice cause keep s).rd a = if keptReg a = true then s.rd a else regDefault a) ∧
    ∀ a, memGet (resetDevice cause keep s).mem a = if keptMem a = true then memGet s.mem a else 0#8 := by
  unfold resetDevice
  rw [hsc]
  dsimp only
  rw [keepCut_idle hprog]
  refine ⟨fun a => ?_, fun a => ?_⟩
  · cases h : keptReg a
    · exact tget_filter_out _ _ keptReg a h
    · exact tget_filter_key _ _ keptReg a h
  · exact tget_filter s.mem keptMem a

/-- What stands in a part that a device reset holds. -/
theorem resetDevice_holds (cause : Nat) (keep : Bool) (s : State) :
    (resetDevice cause keep s).power.held = true ∧ (resetDevice cause keep s).power.trimDone = false ∧
    (resetDevice cause keep s).power.tap = .idcode ∧ (resetDevice cause keep s).power.causes = wsetBit s.power.causes cause true ∧
    (resetDevice cause keep s).ward.keylock = false ∧ (resetDevice cause keep s).ward.release = 0#21 ∧
    (resetDevice cause keep s).ward.fuses = s.ward.fuses ∧ (resetDevice cause keep s).flash = s.flash ∧
    (resetDevice cause keep s).modes.sleep = .awake := by
  have hland : ∀ t, KeepsSupply s t → KeepsSupply s (if s.draw.1.getLsbD 0 then scLanded t else t) := by
    intro t ht
    split
    · exact ht.trans (scLanded_supply t)
    · exact ht
  have h1 : KeepsSupply s (match s.bus.sc with
    | some _ => if s.draw.1.getLsbD 0 then scLanded s.draw.2 else s.draw.2
    | none => s) := by
    split
    · exact hland s.draw.2 ⟨rfl, rfl, rfl⟩
    · exact .refl s
  have h2 := h1.trans (keepCut_supply (cause == 2) _)
  unfold resetDevice
  dsimp only
  generalize keepCut (cause == 2) _ = s2 at h2 ⊢
  obtain ⟨hpower, hfuses, hflash⟩ := h2
  rw [hpower]
  exact ⟨rfl, rfl, rfl, rfl, rfl, rfl, hfuses, hflash, rfl⟩

/-! ### Core resets -/

/-- What belongs to control core `j`, the Warden and memory stay. -/
structure CoreStays (j : Nat) (s t : State) : Prop where
  core : t.ctlCore j = s.ctlCore j
  thresh : t.rd (Reg.icThresh j) = s.rd (Reg.icThresh j)
  enable : t.rd (Reg.wdogCfg j) = s.rd (Reg.wdogCfg j)
  expired : t.bit Reg.wdogStat j = s.bit Reg.wdogStat j
  start : t.rd (Reg.ccStart j) = s.rd (Reg.ccStart j)
  ward : t.ward = s.ward
  mem : t.mem = s.mem

theorem CoreStays.refl (j : Nat) (s : State) : CoreStays j s s := ⟨rfl, rfl, rfl, rfl, rfl, rfl, rfl⟩

theorem CoreStays.trans {j : Nat} {s t u : State} (h : CoreStays j s t) (k : CoreStays j t u) : CoreStays j s u :=
  ⟨k.core.trans h.core, k.thresh.trans h.thresh, k.enable.trans h.enable, k.expired.trans h.expired, k.start.trans h.start,
    k.ward.trans h.ward, k.mem.trans h.mem⟩

/-- A control core as it stands after its reset. -/
def CoreAtReset (s u : State) (c : Nat) : Prop :=
  u.rd (Reg.icThresh c) = 8#32 ∧ u.bit (Reg.wdogCfg c) 24 = false ∧ u.bit Reg.wdogStat c = false ∧
    u.ctlCore c = (if s.ward.keylock = true ∧ s.ward.release.getLsbD (17 + c) = true then
      { ctlDefault c with r := { (ctlDefault c).r with pc := s.rd (Reg.ccStart c) &&& 0xFFFFFFFE#32 }, st := .run } else ctlDefault c)

theorem reg_core_ne {c j : Nat} (hc : c < 4) (hj : j < 4) :
    (j ≠ c → Reg.icThresh j ≠ Reg.icThresh c ∧ Reg.wdogCfg j ≠ Reg.wdogCfg c) ∧
    Reg.icThresh j ≠ Reg.wdogCfg c ∧ Reg.icThresh j ≠ Reg.wdogStat ∧ Reg.wdogCfg j ≠ Reg.icThresh c ∧ Reg.wdogCfg j ≠ Reg.wdogStat ∧
    Reg.wdogStat ≠ Reg.icThresh c ∧ Reg.wdogStat ≠ Reg.wdogCfg c ∧
    Reg.ccStart j ≠ Reg.icThresh c ∧ Reg.ccStart j ≠ Reg.wdogCfg c ∧ Reg.ccStart j ≠ Reg.wdogStat := by
  unfold Reg.icThresh Reg.wdogCfg Reg.wdogStat Reg.ccStart
  omega

theorem coreReset_stays {c j : Nat} (hc : c < 4) (hj : j < 4) (h : j ≠ c) (s : State) : CoreStays j s (coreReset c s) := by
  obtain ⟨t, ht, hreset⟩ := coreReset_eq c s
  obtain ⟨hne, h1, h2, h3, h4, h5, h6, h7, h8, h9⟩ := reg_core_ne hc hj
  obtain ⟨hth, hcfg⟩ := hne h
  have hrd : ∀ a, t.rd a = s.rd a := fun a => by rw [ht]; rfl
  have hregs : ∀ a, (coreReset c s).rd a = (((t.wrn (Reg.icThresh c) 8).wrb (Reg.wdogCfg c) 24 false).wrb Reg.wdogStat c false).rd a := by
    intro a
    rw [hreset]
    rfl
  refine ⟨?_, ?_, ?_, ?_, ?_, ?_, ?_⟩
  · rw [hreset, coreStart, State.ctlCore_setCtl, if_neg h]
    show t.ctlCore j = _
    rw [ht]
    rfl
  · rw [hregs, State.rd_wrb_ne h2, State.rd_wrb_ne h1, State.rd_wrn, if_neg hth, hrd]
  · rw [hregs, State.rd_wrb_ne h4, State.rd_wrb_ne hcfg, State.rd_wrn, if_neg h3, hrd]
  · rw [State.bit, hregs]
    refine (State.bit_wrb _ _ _ _ _ (by omega)).trans ((if_neg h).trans ?_)
    rw [State.bit, State.rd_wrb_ne h6, State.rd_wrn, if_neg h5, hrd]
    rfl
  · rw [hregs, State.rd_wrb_ne h9, State.rd_wrb_ne h8, State.rd_wrn, if_neg h7, hrd]
  · rw [hreset]
    show t.ward = _
    rw [ht]
  · rw [hreset]
    show t.mem = _
    rw [ht]

theorem coreReset_done {c : Nat} (hc : c < 4) (s : State) : CoreAtReset s (coreReset c s) c ∧
    (coreReset c s).mem = s.mem ∧ (coreReset c s).ward = s.ward := by
  obtain ⟨t, ht, hreset⟩ := coreReset_eq c s
  obtain ⟨-, h1, h2, h3, h4, h5, h6, h7, h8, h9⟩ := reg_core_ne hc hc
  have hrd : ∀ a, t.rd a = s.rd a := fun a => by rw [ht]; rfl
  have hward : t.ward = s.ward := by rw [ht]
  have hmem : t.mem = s.mem := by rw [ht]
  have hregs : ∀ a, (coreReset c s).rd a = (((t.wrn (Reg.icThresh c) 8).wrb (Reg.wdogCfg c) 24 false).wrb Reg.wdogStat c false).rd a := by
    intro a
    rw [hreset]
    rfl
  refine ⟨⟨?_, ?_, ?_, ?_⟩, ?_, ?_⟩
  · rw [hregs, State.rd_wrb_ne h2, State.rd_wrb_ne h1, State.rd_wrn, if_pos rfl]
  · rw [State.bit, hregs, State.rd_wrb_ne h4]
    exact (State.bit_wrb _ _ _ _ _ (by decide)).trans (if_pos rfl)
  · rw [State.bit, hregs]
    exact (State.bit_wrb _ _ _ _ _ (by omega)).trans (if_pos rfl)
  · rw [hreset, coreStart]
    refine (State.ctlCore_setCtl _ _ _ _).trans ((if_pos rfl).trans ?_)
    rw [State.rd_wrb_ne h9, State.rd_wrb_ne h8, State.rd_wrn, if_neg h7, hrd, ← hward]
    simp only [Bool.and_eq_true]
    rfl
  · rw [hreset]
    exact hmem
  · rw [hreset]
    exact hward

theorem CoreAtReset.stays {s u v : State} {c : Nat} (h : CoreAtReset s u c) (k : CoreStays c u v) : CoreAtReset s v c := by
  obtain ⟨h1, h2, h3, h4⟩ := h
  exact ⟨k.thresh.trans h1, (congrArg (·.getLsbD 24) k.enable).trans h2, k.expired.trans h3, k.core.trans h4⟩

theorem CoreAtReset.of_stays {s t u : State} {c : Nat} (h : CoreAtReset t u c) (k : CoreStays c s t) : CoreAtReset s u c := by
  obtain ⟨h1, h2, h3, h4⟩ := h
  refine ⟨h1, h2, h3, h4.trans ?_⟩
  rw [k.ward, k.start]

/-- Several core resets: those named are at reset, the others stay. -/
theorem foldl_coreReset {l : List Nat} (hl : l.Nodup) (h4 : ∀ c ∈ l, c < 4) (s : State) {j : Nat} (hj : j < 4) :
    (j ∉ l → CoreStays j s (l.foldl (fun s c => coreReset c s) s)) ∧
    (j ∈ l → CoreAtReset s (l.foldl (fun s c => coreReset c s) s) j) ∧ (l.foldl (fun s c => coreReset c s) s).mem = s.mem := by
  induction l generalizing s with
  | nil => exact ⟨fun _ => .refl j s, fun h => absurd h List.not_mem_nil, rfl⟩
  | cons c l ih =>
    obtain ⟨hnot, hl⟩ := List.nodup_cons.mp hl
    have hc := h4 c List.mem_cons_self
    obtain ⟨hout, hin, hmem⟩ := ih hl (fun k hk => h4 k (List.mem_cons_of_mem c hk)) (coreReset c s)
    obtain ⟨hdone, hmem1, -⟩ := coreReset_done hc s
    rw [List.foldl_cons]
    refine ⟨fun h => ?_, fun h => ?_, hmem.trans hmem1⟩
    · obtain ⟨h1, h2⟩ := not_or.mp (mt List.mem_cons.mpr h)
      exact (coreReset_stays hc hj h1 s).trans (hout h2)
    · by_cases e : j = c
      · subst e
        exact hdone.stays (hout hnot)
      · exact (hin ((List.mem_cons.mp h).resolve_left e)).of_stays (coreReset_stays hc hj e s)

/-! ### The two registers that reset the part -/

theorem regAccess_devReset {s : State} {m : Master} {v : BitVec 64} (h : reaches s m true 0x40000700 = true) :
    regAccess m 0x40000700 .word v s = devResetWrite (whoOf s m) 0 0x40000700 (v.setWidth 32) s := by
  obtain ⟨hni, hnd⟩ := reaches_net h
  simp only [reaches, Bool.and_eq_true, beq_iff_eq, decide_eq_true_eq, Bool.not_eq_true', Bool.or_eq_true, bne_iff_ne,
    ne_eq] at h
  obtain ⟨⟨⟨⟨⟨⟨hreg, hal⟩, hc⟩, hpost⟩, hf⟩, hh⟩, -⟩ := h
  have hv : BitVec.ofNat 32 (v.toNat % 2 ^ 32) = v.setWidth 32 := by
    apply BitVec.eq_of_toNat_eq
    simp
  obtain ⟨r, hrow, -⟩ := row_of_map_cls (a := 0x40000700) (k := 0xFFFFFFFF) (c := .rw) (by decide)
  rw [regAccess_slots s m _ .word v hreg hc hpost hni (by decide)]
  have hw : regWrite (whoOf s m) 0x40000700 4 (v.toNat % 2 ^ 32) s =
      (true, devResetWrite (whoOf s m) 0 0x40000700 (v.setWidth 32) s) := by
    unfold regWrite
    rw [hf]
    dsimp only
    rw [if_neg (by decide), hh, hnd, if_neg (by decide), hreg, if_pos rfl, if_pos rfl, show wordOf (directOf 0x40000700) = 0x40000700 from rfl,
      if_neg (by decide), hrow, hv]
    rfl
  exact congrArg Prod.snd hw

theorem regAccess_wardenReset {s : State} {v : BitVec 64} (hh : s.power.held = false)
    (hpost : (postedOf s false).all (fun p => p.master != .warden) = true) (h0 : v.getLsbD 0 = true) :
    regAccess .warden 0xE0000404 .word v s = resetDevice 6 true s := by
  obtain ⟨r, hrow, -⟩ := row_of_map_cls (a := 0xE0000404) (k := 1) (c := .w1) (by decide)
  have hb : (BitVec.ofNat 32 (v.toNat % 2 ^ 32)).getLsbD 0 = true := by
    have hv : BitVec.ofNat 32 (v.toNat % 2 ^ 32) = v.setWidth 32 := by
      apply BitVec.eq_of_toNat_eq
      simp
    rw [hv, BitVec.getLsbD_setWidth, h0]
    rfl
  have hheld : heldAt s 0xE0000404 = false := hh
  have hw : regWrite (whoOf s .warden) 0xE0000404 4 (v.toNat % 2 ^ 32) s = (true, resetDevice 6 true s) := by
    unfold regWrite
    rw [show filterOf (whoOf s .warden) true 0xE0000404 = .pass from rfl]
    dsimp only
    rw [if_neg (by decide), hheld, show netDown s 0xE0000404 = false from rfl, if_neg (by decide),
      show wordOf (if regionOf 0xE0000404 = .slots then directOf 0xE0000404 else 0xE0000404) = 0xE0000404 from rfl,
      if_neg (by decide), hrow]
    dsimp only
    rw [if_neg (by decide), if_neg (by decide), if_neg (fun h => h.1 rfl), if_pos (by decide)]
    unfold wardenWrite
    show (true, if (BitVec.ofNat 32 (v.toNat % 2 ^ 32)).getLsbD 0 = true then resetDevice 6 true s else s) = _
    rw [if_pos hb]
  unfold regAccess masterWrite
  rw [show crosses s .warden 0xE0000404 = false from rfl, if_neg (by decide), writeNow_idle s .warden _ _ _ (fun h => absurd h (by decide)) (by exact hpost)]
  unfold busWrite
  rw [if_pos (by decide), if_neg (by decide)]
  exact congrArg Prod.snd hw

/-! ### Block resets -/

theorem journalScan_rd {a : Nat} (h : recordReg a = false) (s : State) : (journalScan s).rd a = s.rd a := by
  have hs : ∀ f : Evt → Evt, (sqSet Reg.evtEvt [3] (s.modEvt f)).rd a = s.rd a := fun f => sqSet_rd _ _ _ _ h
  exact hs _

theorem journalScan_wbPend (s : State) : (journalScan s).wbPend = s.wbPend := by
  have hs : ∀ f : Evt → Evt, (sqSet Reg.evtEvt [3] (s.modEvt f)).wbPend = s.wbPend := fun f => by
    rw [sqSet_rest]
    rfl
  exact hs _

/-- A released block's registers, and what waits for them, return to reset, but for the log's records. -/
theorem blockReset_owned {s : State} {k : Nat} (h : s.ward.release.getLsbD k = true) (h2 : 2 ≤ k) {a : Nat}
    (ho : ownedBy k a = true) (hr : recordReg a = false) :
    (blockReset k s).rd a = regDefault a ∧ tget none (blockReset k s).wbPend a = none := by
  have hfault : a ≠ Reg.faultStat := by
    rintro rfl
    have : (0x40010244 / 0x10000 % 16 == k) = true := ho
    rw [beq_iff_eq] at this
    omega
  have hout : (!ownedBy k a) = false := by rw [ho]; rfl
  unfold blockReset
  rw [if_pos (by exact h)]
  dsimp only
  rw [summaryCheck_rd hfault, summaryCheck_rest]
  dsimp only
  generalize bridgeReset k (blockState k s) = s1
  split
  · rw [journalScan_rd hr, journalScan_wbPend]
    exact ⟨tget_filter_out _ _ (fun a => !ownedBy k a) a hout, tget_filter_out _ _ (fun a => !ownedBy k a) a hout⟩
  · exact ⟨tget_filter_out _ _ (fun a => !ownedBy k a) a hout, tget_filter_out _ _ (fun a => !ownedBy k a) a hout⟩

/-! ### The trim load -/

/-- Does row 0 show a layout that the load does not know? -/
def layoutBad (f : Fuses) : Bool :=
  match trimRow f 0 with
  | some (w, _) => decide (fld w 16 8 ≠ 1)
  | none => true

theorem layoutBad_iff (f : Fuses) : layoutBad f = false ↔ ∃ w, (trimRow f 0).map (·.1) = some w ∧ fld w 16 8 = 1 := by
  unfold layoutBad
  cases trimRow f 0 with
  | none => simp
  | some p => simp

/-- A row that the load cannot fill from the fuses. -/
def trimDefault (f : Fuses) (r : Nat) : Bool := layoutBad f || (trimRow f r).isNone

/-- What the load puts into a row's latch. -/
def trimPut (f : Fuses) (s : State) (r : Nat) : State :=
  if trimDefault f r then
    if trimZero r then s.wrn (0x40000800 + 4 * r) 0
    else s.draw.2.wr (0x40000800 + 4 * r) s.draw.1
  else s.wr (0x40000800 + 4 * r) (((trimRow f r).map (·.1)).getD 0#32)

theorem trimPut_rd_ne {f : Fuses} {r a : Nat} (h : a ≠ 0x40000800 + 4 * r) (s : State) : (trimPut f s r).rd a = s.rd a := by
  unfold trimPut
  split
  · split
    · rw [State.rd_wrn, if_neg h]
    · rw [State.rd_wr, if_neg h]
      rfl
  · rw [State.rd_wr, if_neg h]

theorem trimPut_zero {f : Fuses} {r : Nat} (h : trimDefault f r = true) (hz : trimZero r = true) (s : State) :
    (trimPut f s r).rd (0x40000800 + 4 * r) = 0#32 := by
  rw [trimPut, if_pos h, if_pos hz, State.rd_wrn, if_pos rfl]

theorem trimPut_good {f : Fuses} {r : Nat} {w : Word} {c : Bool} (hl : layoutBad f = false) (h : trimRow f r = some (w, c)) (s : State) :
    (trimPut f s r).rd (0x40000800 + 4 * r) = w := by
  rw [trimPut, if_neg (by simp [trimDefault, hl, h]), State.rd_wr, if_pos rfl, h]
  rfl

/-- The rows' latches after the load: each as its own row leaves it. -/
theorem trimRows_rd (f : Fuses) {r : Nat} (l : List Nat) (hl : l.Nodup) (hr : r ∈ l) (s : State) :
    ∃ t, (l.foldl (trimPut f) s).rd (0x40000800 + 4 * r) = (trimPut f t r).rd (0x40000800 + 4 * r) := by
  have hstay : ∀ (l : List Nat) (s : State), r ∉ l → (l.foldl (trimPut f) s).rd (0x40000800 + 4 * r) = s.rd (0x40000800 + 4 * r) := by
    intro l
    induction l with
    | nil => exact fun s _ => rfl
    | cons k l ih =>
      intro s h
      obtain ⟨h1, h2⟩ := not_or.mp (mt List.mem_cons.mpr h)
      rw [List.foldl_cons, ih _ h2, trimPut_rd_ne (by omega)]
  induction l generalizing s with
  | nil => exact absurd hr List.not_mem_nil
  | cons k l ih =>
    obtain ⟨hnot, hl⟩ := List.nodup_cons.mp hl
    by_cases e : r = k
    · subst e
      exact ⟨s, hstay l _ hnot⟩
    · exact ih hl ((List.mem_cons.mp hr).resolve_left e) _

/-- The load's rows touch nothing of the Warden and no other register. -/
theorem trimRows_frame (f : Fuses) {a : Nat} (l : List Nat) (ha : ∀ r ∈ l, a ≠ 0x40000800 + 4 * r) (s : State) :
    (l.foldl (trimPut f) s).ward = s.ward ∧ (l.foldl (trimPut f) s).rd a = s.rd a := by
  induction l generalizing s with
  | nil => exact ⟨rfl, rfl⟩
  | cons r l ih =>
    obtain ⟨h1, h2⟩ := ih (fun k hk => ha k (List.mem_cons_of_mem r hk)) (trimPut f s r)
    refine ⟨h1.trans ?_, h2.trans (trimPut_rd_ne (ha r List.mem_cons_self) s)⟩
    unfold trimPut
    split
    · split <;> rfl
    · rfl

/-- The registers that the load's outcome is marked in. -/
def trimMarkRegs : List Nat :=
  [0x40000710, 0x40000714, 0x40000718, 0x4000071C, 0x40000720, Reg.netMacLo, Reg.netMacHi]

/-- A row that its second copy filled. -/
def trimSecond (f : Fuses) (r : Nat) : Bool := !layoutBad f && ((trimRow f r).map (·.2)) == some true

/-- The load's outcome in the registers. -/
def trimWords (f : Fuses) (s : State) : State :=
  let reads := 48 + ((List.range 48).filter fun r => (trimGood ((f.trim0[r]?).getD 0#40)).isNone).length
  let any := (List.range 48).any (trimDefault f)
  let s3 := (mapPair 0x40000714 (trimSecond f) (mapPair 0x4000071C (trimDefault f) s)).wrn 0x40000710
    (1 + 2 * b2n any + 4 * b2n (layoutBad f) + 256 * reads)
  (s3.wr Reg.netMacLo (s3.rd 0x40000880)).wr Reg.netMacHi (s3.rd 0x40000884 &&& 0xFFFF#32)

/-- The load's outcome, marked in the registers and for the Warden. -/
def trimMarked (f : Fuses) (s : State) : State :=
  let s5 := (trimWords f s).modPower fun p => { p with trimDone := true }
  s5.modWard fun w => { w with
    stage := 1,
    held := if (List.range 48).any (trimDefault f)
      then w.held ++ [⟨0, 4, 0x8001, leBytes 6 (maskOf 48 (trimDefault f)) ++ leBytes 6 (maskOf 48 (trimSecond f)), s5.mclk.frameCnt⟩]
      else w.held }

theorem trimLoad_eq {s : State} (h1 : s.power.held = false) (h2 : s.clk.xtalOk = true) (h3 : s.power.trimDone = false) :
    trimLoad s = if (List.range 32).any (trimDefault s.ward.fuses)
      then forceFault (trimMarked s.ward.fuses ((List.range 48).foldl (trimPut s.ward.fuses) s))
      else trimMarked s.ward.fuses ((List.range 48).foldl (trimPut s.ward.fuses) s) := by
  unfold trimLoad
  rw [if_neg (by simp [h1, h2, h3])]
  rfl

theorem rd_modWard (f : Warden → Warden) (s : State) (a : Nat) : (s.modWard f).rd a = s.rd a := rfl

theorem rd_modPower (f : Power → Power) (s : State) (a : Nat) : (s.modPower f).rd a = s.rd a := rfl

theorem trimMarked_rd {f : Fuses} {a : Nat} (h : a ∉ trimMarkRegs) (s : State) : (trimMarked f s).rd a = s.rd a := by
  simp only [trimMarkRegs, List.mem_cons, List.not_mem_nil, or_false, not_or] at h
  obtain ⟨h0, h1, h2, h3, h4, h5, h6⟩ := h
  rw [trimMarked, rd_modWard, rd_modPower, trimWords, State.rd_wr, if_neg h6, State.rd_wr, if_neg h5, State.rd_wrn, if_neg h0]
  unfold mapPair
  rw [State.rd_wrn, if_neg h2, State.rd_wrn, if_neg h1, State.rd_wrn, if_neg h4, State.rd_wrn, if_neg h3]

theorem trimMarked_ward (f : Fuses) (s : State) : (trimMarked f s).ward.fuses = s.ward.fuses ∧
    ((∀ r < 48, trimDefault f r = false) → (trimMarked f s).ward.held = s.ward.held) := by
  refine ⟨rfl, fun h => if_neg ?_⟩
  rw [List.any_eq_true]
  rintro ⟨r, hr, hd⟩
  simp [h r (List.mem_range.mp hr)] at hd

/-- Settles O60: what each reset returns and what it keeps, the trim load, and the temperature. -/
theorem resetsReturnTheirPart : Obligations.ResetsReturnTheirPart := by
  unfold Obligations.ResetsReturnTheirPart
  intro reset
  have hreset : ∀ (s : State) (cause : Nat) (keep : Bool), reset s (resetDevice cause keep s) cause := by
    intro s cause keep
    obtain ⟨h1, h2, h3, h4, h5, h6, h7, h8, h9⟩ := resetDevice_holds cause keep s
    exact ⟨h1, h2, h3, h4, h5, h6, h7, h8, h9, fun hsc hp => resetDevice_stores hsc hp cause keep⟩
  have hxtal : ∀ (s : State) (cause : Nat) (keep : Bool), cause < 32 → (resetDevice cause keep s).clk.xtalOk = (keep && s.clk.xtalOk) := by
    intro s cause keep hc
    obtain ⟨-, -, -, -, h, -⟩ := resetDevice_frame hc keep s
    exact h
  refine ⟨?power, ?hold, ?brown, ?release, ?key, ?warden, ?cores, ?blocks, ?net, ?block, ?trim, ?temp⟩
  case power =>
    intro s
    obtain ⟨hp, hf, hfl⟩ := keepCut_supply false s
    refine ⟨alwaysOnPowerUp s, rfl, rfl, fun _ => rfl, hfl, hf, rfl, fun hprog a => ?_⟩
    unfold alwaysOnPowerUp
    rw [keepCut_idle hprog]
    refine (tget_filter s.mem (fun x => decide (keepBase ≤ x ∧ x < keepBase + keepSize)) a).trans ?_
    simp only [decide_eq_true_eq]
    rfl
  case hold =>
    intro p hp s
    simp only [List.mem_cons, List.not_mem_nil, or_false] at hp
    rcases hp with rfl | rfl | rfl
    · exact ⟨_, rfl, hreset s 1 false, hxtal s 1 false (by decide)⟩
    · exact ⟨_, rfl, hreset s 2 false, hxtal s 2 false (by decide)⟩
    · exact ⟨_, rfl, hreset s 8 true, hxtal s 8 true (by decide)⟩
  case brown =>
    intro p hp s
    have hone : ∀ x : Supply, ∃ u, exec (.brownOut x) s = .next u ∧ u.power.held = true ∧ u.clk.xtalOk = false ∧
        u.power.causes = wsetBit (wsetBit s.power.causes 3 true) (supplyBit x) true := by
      intro x
      obtain ⟨h1, -, -, h4, -⟩ := hreset s 3 false
      exact ⟨_, rfl, h1, hxtal s 3 false (by decide), congrArg (fun w => wsetBit w (supplyBit x) true) h4⟩
    simp only [List.mem_cons, List.not_mem_nil, or_false] at hp
    rcases hp with rfl | rfl | rfl | rfl | rfl | rfl <;> exact hone _
  case release =>
    intro s io
    have hx : exec (.resetRelease io) s = .next (resetRelease io s) := rfl
    refine ⟨fun h => ?_, fun h1 h2 h3 => ⟨resetRelease io s, hx, ?_⟩⟩
    · rw [hx, resetRelease, if_neg]
      rcases h with h | h | h <;> simp [h]
    · rw [resetRelease, if_pos (by simp [h1, h2, h3])]
      dsimp only
      generalize hn : min 0xFFFF (s.rdf Reg.rstCause 16 16 + 1) = n
      have hlt : n ≤ 0xFFFF := hn ▸ Nat.min_le_left _ _
      have hword : (((s.wrn Reg.rstCause (65536 * n + s.power.causes.toNat % 32768)).wrb Reg.ioStat 0 io).rd Reg.rstCause).toNat
          = 65536 * n + s.power.causes.toNat % 32768 := by
        rw [State.rd_wrb_ne (by decide), State.rd_wrn, if_pos rfl, BitVec.toNat_ofNat]
        omega
      refine ⟨rfl, (State.bit_wrb _ _ _ _ _ (by decide)).trans (if_pos rfl), ?_, ?_⟩
      · show fld (((s.wrn Reg.rstCause _).wrb Reg.ioStat 0 io).rd Reg.rstCause) 0 15 = _
        rw [fld, hword]
        omega
      · show fld (((s.wrn Reg.rstCause _).wrb Reg.ioStat 0 io).rd Reg.rstCause) 16 16 = _
        rw [fld, hword]
        omega
  case key =>
    intro s m v hr
    have hx : exec (.devReset m .word v) s = .next (regAccess m 0x40000700 .word v s) := rfl
    rw [hx, regAccess_devReset hr, devResetWrite, if_neg (by decide)]
    refine ⟨fun hv => ⟨_, congrArg _ (if_pos hv), hreset s 5 true, ?_⟩, fun hv => congrArg _ (if_neg hv)⟩
    rw [hxtal s 5 true (by decide), Bool.true_and]
  case warden =>
    intro s v hh hpost
    have hx : exec (.wardenDevReset .warden .word v) s = .next (regAccess .warden 0xE0000404 .word (v ||| 1#64) s) := rfl
    rw [hx, regAccess_wardenReset hh hpost (by simp)]
    refine ⟨_, rfl, hreset s 6 true, ?_⟩
    rw [hxtal s 6 true (by decide), Bool.true_and]
  case cores =>
    intro s m v hr
    have hx : exec (.coreReset m .word v) s = .next (regAccess m 0x40000704 .word v s) := rfl
    have hw : regAccess m 0x40000704 .word v s = (bitsOf 4 (v.setWidth 32).toNat).foldl (fun s c => coreReset c s) s := by
      rw [regAccess_w1 s m _ v hr (row_of_map_cls (k := 0xF) (by decide)) (by decide) (by decide) (by decide)]
      rfl
    have hnd : (bitsOf 4 (v.setWidth 32).toNat).Nodup := List.nodup_range.filter _
    have h4 : ∀ c ∈ bitsOf 4 (v.setWidth 32).toNat, c < 4 := fun c hc => ((mem_bitsOf _ _ _).mp hc).1
    have hmem : ∀ c < 4, c ∈ bitsOf 4 (v.setWidth 32).toNat ↔ v.getLsbD c = true := by
      intro c hc
      rw [mem_bitsOf, BitVec.testBit_toNat, BitVec.getLsbD_setWidth]
      simp [hc, show c < 32 by omega]
    refine ⟨_, hx, ?_⟩
    rw [hw]
    refine ⟨(foldl_coreReset hnd h4 s (j := 0) (by decide)).2.2, fun c hc => ?_⟩
    obtain ⟨hout, hin, -⟩ := foldl_coreReset hnd h4 s hc
    refine ⟨fun hv => ?_, fun hv => hin ((hmem c hc).mpr hv)⟩
    have hstay := hout (mt (hmem c hc).mp (by simp [hv]))
    exact ⟨hstay.core, hstay.thresh⟩
  case blocks =>
    intro s m v hr
    have hx : exec (.blockReset m .word v) s = .next (regAccess m 0x40000708 .word v s) := rfl
    rw [hx, regAccess_w1 s m _ v hr (row_of_map_cls (k := 0xFFFC) (by decide)) (by decide) (by decide) (by decide)]
    unfold w1Write
    simp
  case net =>
    intro s
    refine ⟨fun h => ?_, fun x hx hp => ?_⟩
    · unfold netCut
      rw [h]
    · unfold netCut
      rw [hx]
      dsimp only
      rw [if_neg (by simp [hp]), if_pos hp]
      refine ⟨_, rfl, ?_⟩
      dsimp only
      split
      · exact .inr ⟨_, rfl⟩
      · exact .inl rfl
  case block =>
    intro s k
    refine ⟨fun h => ?_, fun h h2 _ a ho hr => blockReset_owned h h2 ho hr⟩
    rw [blockReset, if_neg (by simp [released, h])]
  case trim =>
    intro s
    have hx : exec .trimLoad s = .next (trimLoad s) := rfl
    refine ⟨fun h => ?_, fun h1 h2 h3 => ?_⟩
    · rw [hx, trimLoad, if_pos]
      rcases h with h | h | h <;> simp [h]
    · intro f layout
      refine ⟨trimLoad s, hx, ?_⟩
      rw [trimLoad_eq h1 h2 h3]
      obtain ⟨hward, hfault⟩ := trimRows_frame f (a := Reg.faultStat) (List.range 48)
        (fun r hr => by have := List.mem_range.mp hr; unfold Reg.faultStat; omega) s
      have hrow : ∀ r < 48, ∃ t, ((List.range 48).foldl (trimPut f) s).rd (0x40000800 + 4 * r) = (trimPut f t r).rd (0x40000800 + 4 * r) :=
        fun r hr => trimRows_rd f _ List.nodup_range (List.mem_range.mpr hr) s
      generalize (List.range 48).foldl (trimPut f) s = s1 at hward hfault hrow ⊢
      have hmark : ∀ r < 48, (trimMarked f s1).rd (0x40000800 + 4 * r) = s1.rd (0x40000800 + 4 * r) := by
        intro r hr
        refine trimMarked_rd ?_ s1
        simp only [trimMarkRegs, Reg.netMacLo, Reg.netMacHi, List.mem_cons, List.not_mem_nil, or_false, not_or]
        omega
      have hmfault : (trimMarked f s1).rd Reg.faultStat = s.rd Reg.faultStat := (trimMarked_rd (by decide) s1).trans hfault
      obtain ⟨hmfuses, hmheld⟩ := trimMarked_ward f s1
      have hend : ∀ u, u = (if (List.range 32).any (trimDefault f) then forceFault (trimMarked f s1) else trimMarked f s1) →
          u.power.trimDone = true ∧ u.ward = (trimMarked f s1).ward ∧ (∀ a, a ≠ Reg.faultStat → u.rd a = (trimMarked f s1).rd a) := by
        intro u hu
        subst hu
        split
        · exact ⟨rfl, rfl, fun a ha => State.rd_wrb_ne ha _ _ _⟩
        · exact ⟨rfl, rfl, fun _ _ => rfl⟩
      have hlatch : ((∃ r < 32, trimDefault f r = true) → (if (List.range 32).any (trimDefault f) then forceFault (trimMarked f s1)
          else trimMarked f s1).bit Reg.faultStat 0 = true) ∧ ((∀ r < 32, trimDefault f r = false) →
          (if (List.range 32).any (trimDefault f) then forceFault (trimMarked f s1) else trimMarked f s1) = trimMarked f s1) := by
        refine ⟨fun ⟨r, hr, hd⟩ => ?_, fun hno => if_neg ?_⟩
        · rw [if_pos (List.any_eq_true.mpr ⟨r, List.mem_range.mpr hr, hd⟩)]
          exact (State.bit_wrb _ _ _ _ _ (by decide)).trans (if_pos rfl)
        · rw [List.any_eq_true]
          rintro ⟨r, hr, hd⟩
          simp [hno r (List.mem_range.mp hr)] at hd
      obtain ⟨hset, hnone⟩ := hlatch
      obtain ⟨hdone, huward, hurd⟩ := hend _ rfl
      have hrowne : ∀ r < 48, 0x40000800 + 4 * r ≠ Reg.faultStat := by
        intro r hr
        unfold Reg.faultStat
        omega
      refine ⟨hdone, by rw [huward]; rfl, by rw [huward, hmfuses, hward], fun hl r hr w c hw => ?_, fun r hr hd => ?_, fun hl hall => ?_⟩
      · obtain ⟨t, ht⟩ := hrow r hr
        rw [hurd _ (hrowne r hr), hmark r hr, ht]
        exact trimPut_good ((layoutBad_iff f).mpr hl) hw t
      · have hdef : trimDefault f r = true := by
          rw [trimDefault, Bool.or_eq_true]
          refine hd.imp (fun h => ?_) (fun h => by rw [h]; rfl)
          rw [← Bool.not_eq_false]
          exact mt (layoutBad_iff f).mp h
        refine ⟨fun hz => ?_, fun h32 => hset ⟨r, h32, hdef⟩⟩
        obtain ⟨t, ht⟩ := hrow r hr
        rw [hurd _ (hrowne r hr), hmark r hr, ht]
        exact trimPut_zero hdef hz t
      · have hdef : ∀ r < 48, trimDefault f r = false := by
          intro r hr
          rw [trimDefault, (layoutBad_iff f).mpr hl, Bool.false_or]
          exact Option.isNone_eq_false_iff.mpr (Option.isSome_iff_ne_none.mpr (hall r hr))
        refine ⟨?_, ?_⟩
        · rw [huward, hmheld hdef, hward]
        · rw [hnone fun r hr => hdef r (by omega), State.bit, hmfault]
          rfl
  case temp =>
    intro s t
    have hx : exec (.temperatureUpdate t) s = .next (temperatureUpdate t s) := rfl
    refine ⟨fun h => ?_, fun h1 h2 => ?_⟩
    · rw [hx, temperatureUpdate, if_pos]
      simpa using h
    · intro old high
      refine ⟨temperatureUpdate t s, hx, ?_⟩
      generalize hy : (s.modPower fun p => { p with tempAge := 0 }).wr 0x40000900 (t.setWidth 32) = y
      have hrd : y.rd 0x40000900 = t.setWidth 32 := by
        rw [← hy, State.rd_wr, if_pos rfl]
      have hpow : y.power = { s.power with tempAge := 0 } ∧ y.sq 0x40000908 = s.sq 0x40000908 := by
        rw [← hy]
        exact ⟨rfl, rfl⟩
      obtain ⟨hpow, hsq⟩ := hpow
      have hgo : temperatureUpdate t s = if old < high ∧ high ≤ t.toInt then sqSet 0x40000908 [0] (y.modPower fun p => { p with hot := true })
          else if s.power.hot ∧ t.toInt ≤ high - 320 then sqSet 0x40000908 [1] (y.modPower fun p => { p with hot := false }) else y := by
        have hword : BitVec.ofNat 32 t.toNat = t.setWidth 32 := by
          apply BitVec.eq_of_toNat_eq
          simp
        rw [temperatureUpdate, if_neg (by simp [h1]; omega), ← hy, ← hword]
        rfl
      have hevent : ∀ (b : Nat) (h : Bool), (sqSet 0x40000908 [b] (y.modPower fun p => { p with hot := h })).rd 0x40000900 = t.setWidth 32 ∧
          (sqSet 0x40000908 [b] (y.modPower fun p => { p with hot := h })).power = { s.power with tempAge := 0, hot := h } ∧
          (sqSet 0x40000908 [b] (y.modPower fun p => { p with hot := h })).sq 0x40000908 = (s.sq 0x40000908).event [b] := by
        intro b h
        refine ⟨(sqSet_rd _ _ _ _ (by decide)).trans hrd, ?_, ?_⟩
        · rw [sqSet_rest]
          exact congrArg (fun p : Power => { p with hot := h }) hpow
        · rw [sqSet_sq _ _ _ (by decide) (by decide)]
          exact congrArg (SqReg.event [b]) hsq
      rw [hgo]
      by_cases hup : old < high ∧ high ≤ t.toInt
      · obtain ⟨he1, he2, he3⟩ := hevent 0 true
        rw [if_pos hup, he2]
        exact ⟨he1, rfl, fun _ _ => ⟨rfl, he3⟩, fun h => absurd hup h, fun h => absurd hup h⟩
      · rw [if_neg hup]
        by_cases hdown : s.power.hot = true ∧ t.toInt ≤ high - 320
        · obtain ⟨he1, he2, he3⟩ := hevent 1 false
          rw [if_pos hdown, he2]
          refine ⟨he1, rfl, fun h3 h4 => absurd ⟨h3, h4⟩ hup, fun _ _ _ => ⟨rfl, he3⟩, fun _ h => ?_⟩
          rcases h with h | h
          · exact absurd hdown.1 (by simp [h])
          · omega
        · rw [if_neg hdown, hpow]
          exact ⟨hrd, rfl, fun h3 h4 => absurd ⟨h3, h4⟩ hup, fun _ h3 h4 => absurd ⟨h3, h4⟩ hdown, fun _ _ => rfl⟩

end Sys2Proof.Machine
end

section
/-! Grants of the Anvil port and the debugger's access (chapters 24 and 25). -/

namespace Sys2Proof.Machine
open Sys2Proof

/-! ### A message is served -/

/-- Serving a message moves only what the Warden has drawn of the FIFO. -/
theorem takeMsg_eq (m : List Byte) (s : State) : ∃ rx tw, takeMsg m s =
    { s with ward := { s.ward with anv := { s.ward.anv with rx := rx, toWarden := tw } } } := by
  unfold takeMsg anvDraw
  dsimp only
  split <;> exact ⟨_, _, rfl⟩

theorem authResult_takeMsg (m b : List Byte) (s : State) : authResult (takeMsg m s) b = authResult s b := by
  obtain ⟨rx, tw, h⟩ := takeMsg_eq m s
  rw [h]
  rfl

theorem anvPublish_ward (s : State) : (anvPublish s).ward = s.ward := rfl

theorem anvClose_shut (s : State) : (anvClose s).ward.anv.st = .closed ∧ (anvClose s).ward.anv.grants = 0#3 ∧
    (anvClose s).ward.anv.chal = [] := ⟨rfl, rfl, rfl⟩

theorem resetDevice_shut (cause : Nat) (keep : Bool) (s : State) :
    (resetDevice cause keep s).ward.anv.st = .closed ∧ (resetDevice cause keep s).ward.anv.grants = 0#3 := by
  unfold resetDevice
  exact ⟨rfl, rfl⟩

/-! ### A debug grant is measured and recorded -/

/-- The session's state, and what decides a reset, are not the record's or the measurement's. -/
structure KeepsAnv (s t : State) : Prop where
  anv : t.ward.anv = s.ward.anv
  recovery : t.ward.recovery = s.ward.recovery
  bus : t.bus = s.bus

theorem measure_keepsAnv (n : Nat) (m : Meas) (s : State) : KeepsAnv s (measure n m s) := by
  unfold measure tallyExtend
  dsimp only
  split <;> exact ⟨rfl, rfl, rfl⟩

theorem bootRecord_keepsAnv (sev : Nat) (s : State) : KeepsAnv s (bootRecord sev s) := by
  unfold bootRecord
  simp only [draw_state]
  split
  · obtain ⟨hrest, -, -, -⟩ := makeRecord_frame 19 sev
      (0x8000 + s.draw.1.toNat % 0x8000) _ { s with free := s.free + 1 + 1 + 1 + 1 }
    refine ⟨?_, ?_, ?_⟩ <;> rw [hrest]
  · refine ⟨?_, ?_, rfl⟩ <;> dsimp only [State.modWard] <;> split <;> rfl

theorem KeepsAnv.trans {s t u : State} (h : KeepsAnv s t) (k : KeepsAnv t u) : KeepsAnv s u :=
  ⟨k.anv.trans h.anv, k.recovery.trans h.recovery, k.bus.trans h.bus⟩

/-- A register that a device reset keeps, where no SC write is under way. -/
theorem resetDevice_rd {s : State} (hsc : s.bus.sc = none) (cause : Nat) (keep : Bool) {a : Nat} (h : keptReg a = true) :
    (resetDevice cause keep s).rd a = s.rd a := by
  have hcut : (keepCut (cause == 2) s).regs = s.regs := by
    unfold keepCut
    split
    · rfl
    · split
      · rfl
      · split
        · rfl
        · obtain ⟨k, hk⟩ := drawBytes_state 16 s
          dsimp only
          rw [hk]
          rfl
  unfold resetDevice
  rw [hsc]
  dsimp only
  refine (tget_filter_key _ _ keptReg a h).trans ?_
  rw [hcut]
  rfl

theorem drawBytes_ward (n : Nat) (s : State) : (drawBytes n s).2.ward = s.ward := by
  obtain ⟨k, hk⟩ := drawBytes_state n s
  rw [hk]

/-- The revocation of the root under which grants stand ends them. -/
theorem rootRevokeAct_shut {s : State} {k : Nat} (hk : k < 4) (hsign : (runningImg s .stage1).map (·.key) ≠ some k)
    (hleft : ∃ j < 4, j ≠ k ∧ keyUsable s j = true) (hg : s.ward.anv.grants ≠ 0#3) (hkey : s.ward.anv.key = k) :
    (rootRevokeAct k s).2.ward.anv.st = .closed ∧ (rootRevokeAct k s).2.ward.anv.grants = 0#3 := by
  obtain ⟨j, hj, hne, huse⟩ := hleft
  have hl : ((List.range 4).any fun j => j != k && keyUsable s j) = true :=
    List.any_eq_true.mpr ⟨j, List.mem_range.mpr hj, by simp [hne, huse]⟩
  have hs : ((runningImg s .stage1).map (·.key) == some k) = false := beq_eq_false_iff_ne.mpr hsign
  unfold rootRevokeAct
  rw [hl, hs]
  dsimp only
  rw [if_neg (by simp; omega)]
  dsimp only
  have hanv : ∀ (m : Meas) (t : State), t.ward.anv = s.ward.anv → (measure 7 m t).ward.anv = s.ward.anv := fun m t ht =>
    (measure_keepsAnv 7 m t).anv.trans ht
  have hward := drawBytes_ward 8 (s.modWard fun w => { w with
      fuses := { w.fuses with rootRevoke := w.fuses.rootRevoke ||| BitVec.ofNat 4 (2 ^ k) } })
  generalize drawBytes 8 (s.modWard fun w => { w with
      fuses := { w.fuses with rootRevoke := w.fuses.rootRevoke ||| BitVec.ofNat 4 (2 ^ k) } }) = d at hward ⊢
  have hd : d.2.draw.2.ward.anv = s.ward.anv := by
    have := congrArg Warden.anv hward
    exact this
  rw [hanv _ d.2.draw.2 hd, if_pos ⟨hg, hkey⟩]
  exact ⟨rfl, rfl⟩

theorem mwrites_single (a : Nat) (v : Word) (s : State) : mwrites a [v] s = masterWrite .anvil a 4 v.toNat s := by
  rw [mwrites]
  generalize masterWrite .anvil a 4 v.toNat s = r
  obtain ⟨ok, t⟩ := r
  cases ok <;> rfl

/-- The session that an AUTH opens. -/
def authOpened (b : List Byte) (seq : BitVec 16) (s : State) : State :=
  anvPublish ((anvSend (xmsg 0x13 0 0 0 seq []) (s.modAnv fun a => { a with chal := [] })).modAnv fun a =>
    { a with st := .opened, grants := BitVec.ofNat 3 (le b 4 4), key := le b 0 1 })

/-- A grant of debug access is measured and recorded. -/
def authMeasured (b chal : List Byte) (s : State) : State :=
  if 2 ≤ le b 4 4 % 8 then bootRecord 3 (measure 7 ⟨12, 4, le b 0 1, 0, le b 4 4, 0, Config.sha256 chal⟩ s) else s

theorem authMeasured_keepsAnv (b chal : List Byte) (s : State) : KeepsAnv s (authMeasured b chal s) := by
  unfold authMeasured
  split
  · exact (measure_keepsAnv _ _ _).trans (bootRecord_keepsAnv _ _)
  · exact ⟨rfl, rfl, rfl⟩

theorem authOpened_frame (b : List Byte) (seq : BitVec 16) (s : State) :
    (authOpened b seq s).bus = s.bus ∧ (authOpened b seq s).ward.recovery = s.ward.recovery ∧
    (authOpened b seq s).ward.anv = { s.ward.anv with
      st := .opened, chal := [], grants := BitVec.ofNat 3 (le b 4 4), key := le b 0 1,
      toHost := s.ward.anv.toHost ++ xmsg 0x13 0 0 0 seq [] } := by
  have hbus : ∀ t, (anvPublish t).bus = t.bus := fun _ => rfl
  rw [authOpened, anvPublish_ward, hbus]
  simp only [State.modAnv, State.modWard, anvSend, and_self]

/-- An AUTH that passes opens the session, and resets the part where a SLOT grant asks for the recovery loader. -/
theorem authenticate_passed {s : State} (h : anvServes s = true) {b : List Byte} (hr : authResult s b = 0) (seq : BitVec 16) :
    ∃ s4 : State, s4.bus = s.bus ∧ s4.ward.recovery = s.ward.recovery ∧
      s4.ward.anv.chal = [] ∧ s4.ward.anv.st = .opened ∧ s4.ward.anv.grants = BitVec.ofNat 3 (le b 4 4) ∧ s4.ward.anv.key = le b 0 1 ∧
      s4.ward.anv.toHost = s.ward.anv.toHost ++ xmsg 0x13 0 0 0 seq [] ∧
      authenticate b seq s =
        if le b 4 4 % 2 = 1 ∧ s4.ward.recovery = false then resetDevice 6 true (s4.wrb Reg.recov 0 true) else s4 := by
  obtain ⟨rx, tw, htake⟩ := takeMsg_eq (xmsg 0x12 0 0 0 seq b) s
  have hr1 := (authResult_takeMsg (xmsg 0x12 0 0 0 seq b) b s).trans hr
  rw [htake] at hr1
  obtain ⟨hbus, hrec, hanv⟩ := authOpened_frame b seq { s with ward := { s.ward with anv := { s.ward.anv with rx := rx, toWarden := tw } } }
  obtain ⟨hmanv, hmrec, hmbus⟩ := authMeasured_keepsAnv b s.ward.anv.chal (authOpened b seq
    { s with ward := { s.ward with anv := { s.ward.anv with rx := rx, toWarden := tw } } })
  refine ⟨authMeasured b s.ward.anv.chal (authOpened b seq
    { s with ward := { s.ward with anv := { s.ward.anv with rx := rx, toWarden := tw } } }), hmbus.trans hbus, hmrec.trans hrec,
    ?_, ?_, ?_, ?_, ?_, ?_⟩
  · rw [hmanv, hanv]
  · rw [hmanv, hanv]
  · rw [hmanv, hanv]
  · rw [hmanv, hanv]
  · rw [hmanv, hanv]
  · rw [authenticate, if_pos h, htake]
    dsimp only
    rw [hr1, if_neg (fun hn => hn rfl)]
    rfl

/-- Settles O59: challenges, sessions and what ends them, and the accesses that a grant allows. -/
theorem grantsOpenAndEnd : Obligations.GrantsOpenAndEnd := by
  unfold Obligations.GrantsOpenAndEnd
  intro sent shut
  refine ⟨?idle, ?idleMsg, ?challenge, ?checks, ?auth, ?close, ?reset, ?sleep, ?revoke, ?mread, ?reads, ?mwrite, ?tap⟩
  case idle =>
    intro s h c hc
    simp only [List.mem_cons, List.not_mem_nil, or_false] at hc
    rcases hc with rfl | rfl
    · have hx : exec .transferClose s = .next (transferClose s) := rfl
      rw [hx, transferClose, if_neg (by simp [h])]
    · have hx : exec .reboot s = .next (reboot s) := rfl
      rw [hx, reboot, if_neg (by simp [h])]
  case idleMsg =>
    intro s grant a seq body n ws h
    refine ⟨?_, ?_, ?_, ?_⟩
    · have hx : exec (.chalReq grant seq) s = .next (challengeRequest grant seq s) := rfl
      rw [hx, challengeRequest, if_neg (by simp [h])]
    · have hx : exec (.anvAuth body seq) s = .next (authenticate body seq s) := rfl
      rw [hx, authenticate, if_neg (by simp [h])]
    · have hx : exec (.mread a n seq) s = .next (mread a n seq s) := rfl
      rw [hx, mread, if_neg (by simp [h])]
    · have hx : exec (.mwrite a ws seq) s = .next (mwrite a ws seq s) := rfl
      rw [hx, mwrite, if_neg (by simp [h])]
  case challenge =>
    intro s grant seq h
    have hx : exec (.chalReq grant seq) s = .next (challengeRequest grant seq s) := rfl
    obtain ⟨rx, tw, htake⟩ := takeMsg_eq (xmsg 0x10 0 0 0 seq (leBytes 4 grant.toNat)) s
    refine ⟨fun hr => ⟨_, hx, ?_⟩, fun hr => ⟨_, hx, ?_⟩⟩
    · rw [challengeRequest, if_pos h, htake]
      dsimp only
      rw [if_neg (by simp [hr])]
      exact ⟨rfl, rfl, rfl⟩
    · rw [challengeRequest, if_pos h, htake]
      dsimp only
      rw [if_pos hr]
      by_cases hc : s.ward.slot.anvCeil ≤ s.ward.anv.chalCnt
      · rw [if_pos hc, if_pos hc]
        exact ⟨rfl, rfl, rfl, rfl, rfl, rfl, rfl, rfl⟩
      · rw [if_neg hc, if_neg hc]
        exact ⟨rfl, rfl, rfl, rfl, rfl, rfl, rfl, rfl⟩
  case checks =>
    intro s body
    refine ⟨fun h => ?_, fun h => ?_⟩
    · unfold authResult
      exact if_pos (.inl h)
    · unfold authResult at h
      dsimp only at h
      split at h
      next => exact absurd h (by decide)
      next h1 =>
      split at h
      next => exact absurd h (by decide)
      next h2 =>
      split at h
      next => exact absurd h (by decide)
      next h3 =>
      split at h
      next => exact absurd h (by decide)
      next h4 =>
      split at h
      next => exact absurd h (by decide)
      next h5 =>
        rw [not_or] at h1 h2
        refine ⟨h1.1, by simpa using h2.1, fun hg hm => h4 ⟨hg, ?_⟩, fun hg => ?_, by simpa using h3⟩
        · simp [inEvacuate, hm]
        · rw [← Bool.not_eq_false]
          exact fun hk => h5 ⟨hg, hk⟩
  case auth =>
    intro s body seq h r
    have hx : exec (.anvAuth body seq) s = .next (authenticate body seq s) := rfl
    obtain ⟨rx, tw, htake⟩ := takeMsg_eq (xmsg 0x12 0 0 0 seq body) s
    have hr : authResult { s with ward := { s.ward with anv := { s.ward.anv with rx := rx, toWarden := tw } } } body = r := by
      rw [← htake]
      exact authResult_takeMsg _ _ _
    refine ⟨fun h0 => ⟨_, hx, ?_⟩, fun h0 hslot => ⟨_, hx, ?_⟩, fun h0 hslot hrec hsc => ⟨_, hx, ?_⟩⟩
    · rw [authenticate, if_pos h, htake]
      dsimp only
      rw [hr, if_pos h0]
      exact ⟨rfl, rfl, rfl, rfl, rfl⟩
    · obtain ⟨s4, -, hrec, hchal, hst, hgrants, hkey, hsent, hgo⟩ := authenticate_passed h h0 seq
      have hno : ¬ (le body 4 4 % 2 = 1 ∧ s.ward.recovery = false) := by
        rcases hslot with e | e <;> simp [e]
      rw [hgo, if_neg (by rw [hrec]; exact hno)]
      exact ⟨hchal, hst, hgrants, hkey, hsent⟩
    · obtain ⟨s4, hbus, hrec4, -, -, -, -, -, hgo⟩ := authenticate_passed h h0 seq
      have hsc4 : (s4.wrb Reg.recov 0 true).bus.sc = none := by
        rw [State.wrb, State.wr_bus, hbus, hsc]
      obtain ⟨hheld, hcause, -⟩ := resetDevice_frame (cause := 6) (by decide) true (s4.wrb Reg.recov 0 true)
      rw [hgo, if_pos ⟨hslot, hrec4.trans hrec⟩]
      refine ⟨hheld, hcause, ?_, resetDevice_shut 6 true _⟩
      rw [State.bit, resetDevice_rd hsc4 6 true (by decide)]
      exact (State.bit_wrb _ _ _ _ _ (by decide)).trans (if_pos rfl)
  case close =>
    intro s h
    have hx : exec .transferClose s = .next (transferClose s) := rfl
    have hy : exec .reboot s = .next (reboot s) := rfl
    refine ⟨⟨_, hx, ?_⟩, ⟨_, hy, ?_⟩⟩
    · rw [transferClose, if_pos h]
      obtain ⟨h1, h2, h3⟩ := anvClose_shut (takeMsg (xmsg 0x17 0 0 0 0#16 []) s)
      exact ⟨⟨h1, h2⟩, h3⟩
    · rw [reboot, if_pos h]
      obtain ⟨hheld, hcause, -⟩ := resetDevice_frame (cause := 6) (by decide) true (takeMsg (xmsg 0x16 0 0 0 0#16 []) s)
      exact ⟨resetDevice_shut 6 true _, hheld, hcause⟩
  case reset =>
    intro s c
    refine ⟨_, rfl, ?_⟩
    cases c <;> exact resetDevice_shut _ _ s
  case sleep =>
    intro s hs hh
    have hx : exec .familiesStop s = .next (familiesStop s) := rfl
    refine ⟨_, hx, ?_⟩
    rw [familiesStop, if_pos ⟨hs, hh⟩]
    dsimp only
    rw [show shut = fun u => u.ward.anv.st = .closed ∧ u.ward.anv.grants = 0#3 from rfl]
    dsimp only
    rw [streamsOff_ward]
    exact ⟨rfl, rfl⟩
  case revoke =>
    intro s k hsign hleft hg hkey
    exact ⟨_, rfl, rootRevokeAct_shut k.isLt hsign hleft hg hkey⟩
  case mread =>
    intro s a n seq h t
    have hx : exec (.mread a n seq) s = .next (mread a n seq s) := rfl
    obtain ⟨rx, tw, htake⟩ := takeMsg_eq (xmsg 0x20 0 a.toNat n seq []) s
    have hgrant : granted t 1 = s.ward.anv.grants.getLsbD 1 := by
      show granted (takeMsg _ s) 1 = _
      rw [htake]
      rfl
    rw [hx, mread, if_pos h, ← hgrant]
  case reads =>
    intro s a v h
    rw [mreads, h]
    rfl
  case mwrite =>
    intro s a ws seq h t
    have hx : exec (.mwrite a ws seq) s = .next (mwrite a ws seq s) := rfl
    obtain ⟨rx, tw, htake⟩ := takeMsg_eq (xmsg 0x21 0 a.toNat 0 seq (ws.flatMap fun v => leBytes 4 v.toNat)) s
    have hgrant : granted t 1 = s.ward.anv.grants.getLsbD 1 := by
      show granted (takeMsg _ s) 1 = _
      rw [htake]
      rfl
    rw [hx, mwrite, if_pos h, ← hgrant]
    refine ⟨fun h1 => ?_, fun h1 h2 => ?_, fun h1 ha v hv => ?_⟩
    · exact congrArg _ (if_pos h1)
    · dsimp only
      rw [if_neg (by simp [t, h1]), if_pos h2]
    · subst hv
      dsimp only
      have hne : ¬ granted t 1 = false := by
        rw [h1]
        decide
      rw [if_neg (by exact hne), if_neg (by simp [ha]), mwrites_single]
  case tap =>
    intro s op set
    refine ⟨rfl, rfl, fun hne h => ?_, fun h a v hv => ?_, fun h a v => ?_, rfl⟩
    · have hx : exec (.jtagDebugAccess op) s = .next (jtagAccess op s) := rfl
      rw [hx]
      cases op with
      | idcode => exact absurd rfl hne
      | bypass => rfl
      | _ => exact congrArg _ (if_pos h)
    · have hx : exec (.jtagDebugAccess (.read a)) s = .next (jtagAccess (.read a) s) := rfl
      rw [hx]
      unfold jtagAccess
      dsimp only
      rw [if_neg (by simp [granted, h]), hv]
      rfl
    · have hx : exec (.jtagDebugAccess (.write a v)) s = .next (jtagAccess (.write a v) s) := rfl
      rw [hx]
      unfold jtagAccess
      dsimp only
      rw [if_neg (by simp [granted, h])]
      rfl

end Sys2Proof.Machine
end

section
/-! The Keep's line programs, scripts, and the records of the log (chapter 21). -/

namespace Sys2Proof.Machine
open Sys2Proof

/-! ### The Keep -/

/-- Serving the next port changes which port is served, and no line. -/
theorem keepServe_eq (s : State) : ∃ o r, keepServe s = s.modMsg fun m => { m with prog := o, rr := r } := by
  unfold keepServe
  split
  · exact ⟨s.msg.prog, s.msg.rr, rfl⟩
  · split
    · exact ⟨_, _, rfl⟩
    · exact ⟨s.msg.prog, s.msg.rr, rfl⟩

theorem keepServe_keepLine (s : State) (p : Nat) : (keepServe s).keepLine p = s.keepLine p := by
  obtain ⟨o, r, h⟩ := keepServe_eq s
  rw [h]
  rfl

theorem keepServe_sq (s : State) (a : Nat) : (keepServe s).sq a = s.sq a := by
  obtain ⟨o, r, h⟩ := keepServe_eq s
  rw [h]
  rfl

theorem keepLine_setKeepLine (p k : Nat) (l : Option KeepLine) (s : State) :
    (setKeepLine p l s).keepLine k = if k = p then l else s.keepLine k := tget_tset none _ _ p k

theorem keepLine_of_msg {s t : State} (h : t.msg = s.msg) (p : Nat) : t.keepLine p = s.keepLine p := by
  rw [State.keepLine, State.keepLine, h]

theorem sqSet_msg (a b : Nat) (s : State) : (sqSet a [b] s).msg = s.msg := by rw [sqSet_rest]

theorem keepEvent_keepLine (b : Nat) (s : State) (p : Nat) : (keepEvent b s).keepLine p = s.keepLine p :=
  keepLine_of_msg (sqSet_msg _ _ s) p

theorem keepEvent_sq (b : Nat) (s : State) : (keepEvent b s).sq Reg.keepEvt = (s.sq Reg.keepEvt).event [b] :=
  sqSet_sq _ _ s (by decide) (by decide)

/-- A report to a port touches no line. -/
theorem keepReport_keepLine (p : Nat) (ok : Bool) (s : State) (k : Nat) : (keepReport p ok s).keepLine k = s.keepLine k := by
  unfold keepReport
  split
  · exact keepEvent_keepLine _ _ k
  · split
    · rfl
    · exact (keepLine_of_msg (sqSet_msg _ _ _) k).trans (keepLine_of_msg (by rw [incSat_rest]) k)
  · rfl

/-! ### Operations of a script -/

section
variable {s : State} {p op : Nat} {k : Word → State → State}

theorem opReached_idle (h : (s.player p).ready = false) : opReached p op k s = s := by
  rw [opReached, if_neg (by simp [h])]

theorem opReached_bad (h : (s.player p).ready = true)
    (hw : scriptWord s p 0 = none ∨ ∃ w, scriptWord s p 0 = some w ∧ 7 ≤ fld w 28 4) :
    opReached p op k s = playerStop p [0, 2] s := by
  rw [opReached, if_pos h]
  obtain hn | ⟨w, hw, h7⟩ := hw
  · rw [hn]
  · rw [hw]
    dsimp only
    rw [if_pos h7]

theorem opReached_meets {w : Word} (h : (s.player p).ready = true) (hw : scriptWord s p 0 = some w) (hop : fld w 28 4 = op)
    (h7 : op < 7) : opReached p op k s = k w s := by
  rw [opReached, if_pos h, hw]
  dsimp only
  rw [if_neg (by omega), if_pos hop]
end

theorem countOp_early {s : State} {p : Nat} (h : (s.player p).ops < 15) (k : State → State) :
    countOp p k s = k (s.setPlayer p { s.player p with ops := (s.player p).ops + 1 }) := by
  unfold countOp
  dsimp only
  rw [if_neg (by omega)]

theorem playList_good {s : State} {p k : Nat} (hb : clipBad s p k = false) (hf : (clipAt s p k).frames ≠ 0) (ks : List Nat) :
    playList p (k :: ks) s = s.setPlayer p { s.player p with
      st := .play, clip := k, left := (clipAt s p k).frames, queue := ks, failed := false } := by
  rw [playList, hb, if_neg (by decide), if_neg hf]

theorem player_setPlayer_self (s : State) (p : Nat) (x : Player) : (s.setPlayer p x).player p = x :=
  by rw [State.player_setPlayer, if_pos rfl]

/-- What SPELL makes of its digits, once its words and the operation are counted. -/
def spellGo (p : Nat) (w : Word) (n v : Nat) (s : State) : State :=
  if (List.range n).any fun i => decide (9 < v / 16 ^ i % 16) then msgEvents [5] p s
  else if w.getLsbD 26 && decide (bcdValue n v ≤ 99) then playList p [fld w 0 12 + bcdValue n v] s
  else playList p ((spellDigits n v).map fun d => fld w 0 12 + d) s

/-- The first clip of a list starts, `n` words on and with `j` more operations in a row. -/
theorem playList_plays {s : State} {p k : Nat} (hb : clipBad s p k = false) (hf : (clipAt s p k).frames ≠ 0) (ks : List Nat)
    (x : Player) : (playList p (k :: ks) (s.setPlayer p x)) = { s with msg := (playList p (k :: ks) (s.setPlayer p x)).msg } ∧
    (playList p (k :: ks) (s.setPlayer p x)).player p = { x with
      st := .play, clip := k, left := (clipAt s p k).frames, queue := ks, failed := false } := by
  have hgo := playList_good (s := s.setPlayer p x) (p := p) (k := k) hb hf ks
  rw [hgo, player_setPlayer_self, player_setPlayer_self]
  exact ⟨rfl, rfl⟩

/-- So does a list whose operation has just been counted. -/
theorem playList_counted {s : State} {p k : Nat} (hb : clipBad s p k = false) (hf : (clipAt s p k).frames ≠ 0) (ks : List Nat)
    (x y : Player) : (playList p (k :: ks) ((s.setPlayer p x).setPlayer p y)) =
      { s with msg := (playList p (k :: ks) ((s.setPlayer p x).setPlayer p y)).msg } ∧
    (playList p (k :: ks) ((s.setPlayer p x).setPlayer p y)).player p = { y with
      st := .play, clip := k, left := (clipAt s p k).frames, queue := ks, failed := false } :=
  playList_plays (s := s.setPlayer p x) hb hf ks y

theorem msgEvents_player (b p : Nat) (s : State) (q : Nat) : (msgEvents [b] p s).player q = s.player q := by
  rw [State.player, msgEvents, sqSet_msg]
  rfl

theorem msgEvents_sq (b p : Nat) (s : State) : (msgEvents [b] p s).sq Reg.msgEvt = (s.sq Reg.msgEvt).event [b] :=
  sqSet_sq _ _ _ (by decide) (by decide)

/-! ### The Keep's commands -/

theorem keepCmd_mask (v : BitVec 64) : v.setWidth 32 &&& BitVec.ofNat 32 2147614719 &&& 0x1FFFF#32 = v.setWidth 32 &&& 0x1FFFF#32 := by
  rw [BitVec.and_assoc]
  rfl

theorem keepCmd_go (v : BitVec 64) : (v.setWidth 32 &&& BitVec.ofNat 32 2147614719).getLsbD 31 = v.getLsbD 31 := by
  rw [BitVec.getLsbD_and, BitVec.getLsbD_setWidth, show (BitVec.ofNat 32 2147614719).getLsbD 31 = true by decide]
  simp

theorem keepCmd_line (v : BitVec 64) : fld (v.setWidth 32 &&& BitVec.ofNat 32 2147614719) 0 17 = v.toNat % 131072 := by
  rw [fld_and _ _ _ _ (by decide), fld, BitVec.toNat_setWidth]
  omega

theorem mayProgram_buffer (e : Bool) (p : KeepPart) : mayProgram e 3 p = decide (p = .user) := by cases p <;> rfl

theorem keepOffer_taken {port off : Nat} {s : State} (h : mayProgram (s.modes.mode == .evacuate) port (keepPart off) = true)
    (b : List Byte) : keepOffer port off b s = keepServe (setKeepLine port (some ⟨off, b, false⟩) s) := if_pos h

theorem keepOffer_refused {port off : Nat} {s : State} (h : mayProgram (s.modes.mode == .evacuate) port (keepPart off) = false)
    (b : List Byte) : keepOffer port off b s = keepEvent 1 s := if_neg (by simp [h])

theorem keepCmd_write {s : State} {m : Master} (v : BitVec 64) (h : reaches s m true Reg.keepCmd = true) :
    exec (.keepCmd m .word v) s = .next (keepCmdWrite (v.setWidth 32 &&& BitVec.ofNat 32 2147614719) s) :=
  congrArg Host.Outcome.next
    ((regAccess_rw s m Reg.keepCmd 2147614719 v h (row_of_map (by decide)) (by decide) (by decide) (by decide)).trans rfl)

/-- The lines that the drawn bytes of a failed program leave are those before. -/
theorem drawBytes_keepLine (n : Nat) (s : State) (p : Nat) : (drawBytes n s).2.keepLine p = s.keepLine p := by
  obtain ⟨k, h⟩ := drawBytes_state n s
  rw [h]
  rfl

theorem drawBytes_sq (n : Nat) (s : State) (a : Nat) : (drawBytes n s).2.sq a = s.sq a := by
  obtain ⟨k, h⟩ := drawBytes_state n s
  rw [h]
  rfl

theorem keepReport_done (p : Nat) (s : State) :
    keepReport p true s = if p = 3 then sqSet Reg.keepEvt [0] (s.wrn Reg.keepStat 0) else s := by
  unfold keepReport
  split
  · rfl
  · rfl
  · rename_i h _
    rw [if_neg h]

/-! ### The plan -/

theorem planApply_words (s : State) : (planApply s).msg.loadDue = false ∧
    (planApply s).rd Reg.planStat = BitVec.ofNat 32 (1 + (planEntriesOf (planBytes s)).length * 65536) ∧
    (planApply s).rd Reg.planBuild = BitVec.ofNat 32 (imgBuild (planBytes s)) ∧
    (planApply s).rd Reg.planNodes =
      BitVec.ofNat 32 ((planEntriesOf (planBytes s)).filter fun e => fld e.1 28 4 == 3).length := by
  unfold planApply
  dsimp only
  generalize List.foldl _ (List.foldl _ s _) _ = s2
  generalize 1 + (planEntriesOf (planBytes s)).length * 65536 = w
  generalize (List.filter _ (planEntriesOf (planBytes s))).length = n
  generalize imgBuild (planBytes s) = b
  have hrd (k : Nat) f (t : State) : (t.modMsg f).rd k = t.rd k := rfl
  refine ⟨rfl, ?_, ?_, ?_⟩ <;> rw [hrd, State.rd_wrn, State.rd_wrn, State.rd_wrn]
  · rw [if_neg (by decide), if_neg (by decide), if_pos rfl]
  · rw [if_pos rfl]
  · rw [if_neg (by decide), if_pos rfl]

/-! ### The statement -/

/-- Settles O51: each command is the operation of its name, and every clause is one branch of that operation. -/
theorem keepLinesScriptsAndRecordsAdvance : Obligations.KeepLinesScriptsAndRecordsAdvance := by
  unfold Obligations.KeepLinesScriptsAndRecordsAdvance
  intro stop meets good plays inMem
  refine ⟨?cmd, ?noProgram, ?program, ?notReady, ?operations, ?plan, ?fwGo, ?bucket, ?journal⟩
  case cmd =>
    intro s m v h
    rw [keepCmd_write v h]
    generalize hw : v.setWidth 32 &&& BitVec.ofNat 32 2147614719 = w
    have hgo : w.getLsbD 31 = v.getLsbD 31 := hw ▸ keepCmd_go v
    have hline : fld w 0 17 = v.toNat % 131072 := hw ▸ keepCmd_line v
    have hmask : w &&& 0x1FFFF#32 = v.setWidth 32 &&& 0x1FFFF#32 := hw ▸ keepCmd_mask v
    refine ⟨fun hb => ?_, fun hb hv => ?_, fun hb hv => ⟨_, rfl, ?_⟩⟩
    · exact congrArg _ (if_pos hb)
    · rw [keepCmdWrite, if_neg (by simp [keepBusy, hb])]
      dsimp only
      rw [if_neg (by rw [hgo, hv]; decide), hmask]
    · have hcmd : keepCmdWrite w s = keepOffer 3 (64 * (v.toNat % 131072))
          ((List.range 16).flatMap fun i => leBytes 4 (s.rd (Reg.keepBuf i)).toNat) (s.wr Reg.keepCmd (v.setWidth 32 &&& 0x1FFFF#32)) := by
        rw [keepCmdWrite, if_neg (by simp [keepBusy, hb])]
        dsimp only
        rw [if_pos (by rw [hgo, hv]), hmask, hline]
      rw [hcmd]
      refine ⟨fun hu => ?_, fun hu => ?_⟩
      · rw [keepOffer_taken (by rw [mayProgram_buffer]; exact decide_eq_true hu), keepServe_keepLine, keepLine_setKeepLine, if_pos rfl]
      · rw [keepOffer_refused (by rw [mayProgram_buffer]; exact decide_eq_false hu), keepEvent_keepLine, keepEvent_sq]
        exact ⟨Option.isSome_eq_false_iff.mp hb |> Option.isNone_iff_eq_none.mp, rfl⟩
  case noProgram =>
    intro s h ok
    show (.next (lineProgramDone ok s) : Answer) = _
    rw [lineProgramDone, h]
  case program =>
    intro s p l hp hl
    have hx (ok : Bool) : exec (.lineProgramDone ok) s = .next (lineProgramDone ok s) := rfl
    simp only [hx, lineProgramDone, hp, hl, if_true, Bool.false_eq_true, if_false]
    refine ⟨⟨_, rfl, ?_, ?_, ?_⟩, fun hr => ?_, fun hr => ⟨_, rfl, ?_, ?_⟩⟩
    · rw [keepReport_keepLine, keepServe_keepLine, keepLine_setKeepLine, if_pos rfl]
    · intro h3
      rw [keepReport_done, if_neg h3]
      rfl
    · intro h3
      rw [keepReport_done, if_pos h3]
      rfl
    · rw [if_neg (by simp [hr])]
    · rw [if_pos hr, keepReport_keepLine, keepServe_keepLine, keepLine_setKeepLine, if_pos rfl]
    · intro h3
      rw [if_pos hr, h3]
      generalize ht : keepServe _ = t
      have hsq : t.sq Reg.keepEvt = s.sq Reg.keepEvt := by
        rw [← ht, keepServe_sq]
        exact drawBytes_sq 16 s Reg.keepEvt
      have hrep : keepReport 3 false t = sqSet Reg.keepEvt [2] (t.wrn Reg.keepStat 2) := rfl
      refine ⟨?_, ?_⟩
      · rw [hrep, sqSet_sq _ _ _ (by decide) (by decide), ← hsq]
        rfl
      · rw [hrep, State.bit, sqSet_rd _ _ _ _ (by decide), State.rd_wrn, if_pos rfl]
        rfl
  case notReady =>
    intro s p
    have hx : exec (.playOp p) s = .next (playOp p s) ∧ exec (.gapOp p) s = .next (gapOp p s) ∧
        exec (.spellOp p) s = .next (spellOp p s) ∧ exec (.listOp p) s = .next (listOp p s) ∧
        exec (.toneOp p) s = .next (toneOp p s) ∧ exec (.jumpOp p) s = .next (jumpOp p s) ∧
        exec (.stopOp p) s = .next (stopOp p s) := ⟨rfl, rfl, rfl, rfl, rfl, rfl, rfl⟩
    obtain ⟨h1, h2, h3, h4, h5, h6, h7⟩ := hx
    simp only [List.forall_mem_cons, h1, h2, h3, h4, h5, h6, h7]
    refine ⟨fun h => ?_, fun h hw => ?_⟩
    · exact ⟨congrArg _ (opReached_idle h), congrArg _ (opReached_idle h), congrArg _ (opReached_idle h),
        congrArg _ (opReached_idle h), congrArg _ (opReached_idle h), congrArg _ (opReached_idle h),
        congrArg _ (opReached_idle h), fun _ hc => nomatch hc⟩
    · exact ⟨congrArg _ (opReached_bad h hw), congrArg _ (opReached_bad h hw), congrArg _ (opReached_bad h hw),
        congrArg _ (opReached_bad h hw), congrArg _ (opReached_bad h hw), congrArg _ (opReached_bad h hw),
        congrArg _ (opReached_bad h hw), fun _ hc => nomatch hc⟩
  case operations =>
    intro s p w
    refine ⟨?stops, ?play, ?badClip, ?gap, ?spell, ?list, ?tone, ?jump, ?sixteenth⟩
    case stops =>
      rintro ⟨hr, hw, hop⟩
      exact congrArg Host.Outcome.next (opReached_meets hr hw hop (by decide))
    case play =>
      rintro ⟨hr, hw, hop⟩ ⟨hb, hf⟩
      have hx : exec (.playOp p) s = .next (playOp p s) := rfl
      rw [hx, playOp, opReached_meets hr hw hop (by decide)]
      exact ⟨_, rfl, playList_plays hb hf [] _⟩
    case badClip =>
      rintro ⟨hr, hw, hop⟩ hb
      have hx : exec (.playOp p) s = .next (playOp p s) := rfl
      rw [hx, playOp, opReached_meets hr hw hop (by decide)]
      have hb' : clipBad (skipWords p 1 s) p (fld w 0 12) = true := hb
      refine ⟨_, rfl, ?_, ?_⟩ <;> rw [playList, if_pos hb', playList]
      · exact msgEvents_sq 3 p (skipWords p 1 s)
      · rw [player_setPlayer_self, msgEvents_player, skipWords, player_setPlayer_self]
    case gap =>
      rintro ⟨hr, hw, hop⟩
      have hx : exec (.gapOp p) s = .next (gapOp p s) := rfl
      rw [hx, gapOp, opReached_meets hr hw hop (by decide)]
      refine ⟨_, rfl, rfl, ?_⟩
      rw [player_setPlayer_self, skipWords, player_setPlayer_self]
    case spell =>
      rintro a ⟨hr, hw, hop⟩ ha hops
      intro n v hin
      have hgo : exec (.spellOp p) s = .next (spellGo p w n v (skipWords p 2 (s.setPlayer p { s.player p with ops := (s.player p).ops + 1 }))) := by
        have hx : exec (.spellOp p) s = .next (spellOp p s) := rfl
        rw [hx, spellOp, opReached_meets hr hw hop (by decide), ha]
        dsimp only
        rw [if_pos hin, countOp_early hops]
        rfl
      rw [hgo, skipWords, player_setPlayer_self]
      refine ⟨fun hbad => ⟨_, rfl, ?_⟩, fun hdig k ks hks ⟨hb, hf⟩ => ⟨_, rfl, ?_⟩⟩
      · rw [spellGo, if_pos hbad, msgEvents_sq, msgEvents_player, player_setPlayer_self]
        exact ⟨rfl, rfl⟩
      · rw [spellGo, if_neg (by rw [hdig]; decide), ← apply_ite (fun l => playList p l _)]
        simp only [Bool.and_eq_true, decide_eq_true_eq]
        rw [hks]
        exact playList_counted hb hf ks _ _
    case list =>
      rintro a k ks ⟨hr, hw, hop⟩ ha hops hin hks ⟨hb, hf⟩
      have hx : exec (.listOp p) s = .next (listOp p s) := rfl
      rw [hx, listOp, opReached_meets hr hw hop (by decide), ha]
      dsimp only
      rw [if_pos hin, countOp_early hops, skipWords, player_setPlayer_self]
      refine ⟨_, rfl, ?_⟩
      have hks' : (if w.getLsbD 16 = true then dropZeros (fld w 0 12) ((List.range (fld w 20 8)).map fun i => (s.setPlayer p { s.player p with ops := (s.player p).ops + 1 }).mrd (a.toNat + 4 * i) 4 % 4096)
          else (List.range (fld w 20 8)).map fun i => (s.setPlayer p { s.player p with ops := (s.player p).ops + 1 }).mrd (a.toNat + 4 * i) 4 % 4096) = k :: ks := hks
      rw [hks']
      exact playList_counted hb hf ks _ _
    case tone =>
      rintro ⟨hr, hw, hop⟩
      have hx : exec (.toneOp p) s = .next (toneOp p s) := rfl
      rw [hx, toneOp, opReached_meets hr hw hop (by decide)]
      refine ⟨_, rfl, ?_, ?_, ?_⟩
      · show ((s.setGen (fld w 0 6) { s.gen (fld w 0 6) with cycles := fld w 8 8 }).gen (fld w 0 6)).cycles = _
        rw [State.gen_setGen, if_pos rfl]
      · exact tget_tset_self none (some (wsetBit (shadowOf s (runBit (fld w 0 6)).1) (runBit (fld w 0 6)).2 true)) s.wbPend _
      · rw [player_setPlayer_self, skipWords, player_setPlayer_self]
        rfl
    case jump =>
      rintro ⟨hr, hw, hop⟩ hops
      have hx : exec (.jumpOp p) s = .next (jumpOp p s) := rfl
      rw [hx, jumpOp, opReached_meets hr hw hop (by decide), countOp_early hops]
      refine ⟨_, rfl, ?_, ?_⟩
      · dsimp only
        split
        · rfl
        · split <;> rfl
      · dsimp only
        rw [player_setPlayer_self]
        split
        · rw [player_setPlayer_self]
        · split <;> rw [player_setPlayer_self]
    case sixteenth =>
      rintro ⟨hr, hw, hop⟩ hops
      have hx : exec (.jumpOp p) s = .next (jumpOp p s) := rfl
      rw [hx, jumpOp, opReached_meets hr hw hop (by decide), countOp]
      exact congrArg _ (if_pos (by omega))
  case plan =>
    intro s
    have hx : exec .planLoad s = .next (planLoad s) := rfl
    rw [hx]
    refine ⟨fun h => ?_, fun h => ⟨_, rfl, ?_⟩⟩
    · rw [planLoad, if_neg (by simp [h])]
    · rw [planLoad, if_pos h]
      exact planApply_words _
  case fwGo =>
    intro s m v h
    have hx : exec (.fwGo m .word v) s = .next (regAccess m 0x400E0220 .word (v ||| 1#64) s) := rfl
    have hgo : w1Write (whoOf s m) 0x400E0220 ((v ||| 1#64).setWidth 32) s = fwGo s :=
      if_pos (show _ ∧ _ from ⟨rfl, by simp⟩)
    rw [hx, regAccess_w1 s m _ _ h (row_of_map_cls (k := 1) (by decide)) (by decide) (by decide) (by decide), hgo]
    rfl
  case bucket =>
    intro s
    show (.next (bucketRefill s) : Answer) = _
    simp only [bucketRefill, Bool.and_eq_true, decide_eq_true_eq]
  case journal =>
    intro s
    have hx : exec .journalLineWrite s = .next (journalLineWrite s) := rfl
    rw [hx]
    refine ⟨fun h => ?_, ?_⟩
    · unfold journalLineWrite
      split
      case isTrue hdue =>
        refine congrArg _ (if_pos ?_)
        obtain h | h | h | ⟨hlen, hage⟩ := h
        · exact .inl h
        · exact .inr (.inl h)
        · exact .inr (.inr h)
        · omega
      case isFalse => rfl
    · intro r rest hj hage hfree hen hline
      intro rs line
      have hlen : s.evt.jwait.length = rest.length + 1 := by rw [hj, List.length_cons]
      have hdue : 2 ≤ s.evt.jwait.length ∨ 16000 ≤ s.evt.jage := by
        obtain h | h := hage
        · have := List.length_pos_iff.mpr h
          omega
        · exact .inr h
      have hpart : keepPart (0x400000 + 64 * s.evt.jline) = .journal := by
        rw [keepPart, if_neg (by omega), if_pos (by omega)]
      rw [journalLineWrite, if_pos hdue, journalLine, if_neg (by simp [hj, hfree, hen])]
      dsimp only
      rw [keepOffer_taken (by rw [hpart]; rfl), hj]
      have hbytes : ((((r :: rest).take 2).map (journalForm s.evt.lap) ++ [emptySlot]).take 2).flatten = line := by
        cases rest <;> simp [line]
      have hrecords : ((r :: rest).take 2).map (journalForm s.evt.lap) = rs := by
        cases rest <;> rfl
      rw [hbytes, hrecords]
      simp only [State.modEvt, hj, List.drop_succ_cons]

end Sys2Proof.Machine
end

section
/-! Enabling, starting and stopping the DMA channels (chapter 18). -/

namespace Sys2Proof.Machine
open Sys2Proof

/-! ### The registers of a channel -/

theorem dma_ne {n k i j : Nat} (h : n ≠ k ∨ i ≠ j) (hi : i < 0x40) (hj : j < 0x40) : Reg.dma n i ≠ Reg.dma k j := by
  unfold Reg.dma
  omega

theorem dma_slot {n off : Nat} (hn : n < 128) (ho : off < 0x40) : inSlots (Reg.dma n off) = true ∧ Reg.dma n off % 0x10000 < 0x8000 ∧
    Reg.dma n off ≠ 0x40000700 ∧ Reg.dma n off / 0x10000 % 16 = 11 ∧ Reg.dma n off % 0x10000 = 0x100 + 0x40 * n + off := by
  have ha : Reg.dma n off = 0x400B0100 + 0x40 * n + off := rfl
  rw [ha]
  exact ⟨by simp [inSlots]; omega, by omega, by omega, by omega, by omega⟩

theorem dmaCtrl_row : ∀ n : Fin 128, (rowAt (Reg.dma n 4)).map (fun r => (r.cls, r.mask)) = some (.rw, 3) := by decide

theorem dmaTail_row : ∀ n : Fin 128, (rowAt (Reg.dma n 0x34)).map (fun r => (r.cls, r.mask)) = some (.rw, 0xFFF) := by decide

theorem regAccess_chCtrl {s : State} {m : Master} (n : Fin 128) (v : BitVec 64) (h : reaches s m true (Reg.dma n 4) = true) :
    regAccess m (Reg.dma n 4) .word v s = chCtrlWrite n (v.setWidth 32 &&& 3#32) s := by
  obtain ⟨hi, ho, hk, hs, hoff⟩ := dma_slot (off := 4) n.isLt (by decide)
  rw [regAccess_rw s m _ 3 v h (row_of_map (dmaCtrl_row n)) hi ho hk, rwWrite, hs, hoff]
  show (if 0x100 + 0x40 * n.val + 4 = 4 then _ else
    if 0x100 ≤ 0x100 + 0x40 * n.val + 4 ∧ (0x100 + 0x40 * n.val + 4) % 0x40 = 4
    then chCtrlWrite ((0x100 + 0x40 * n.val + 4 - 0x100) / 0x40) _ s else _) = _
  rw [if_neg (by omega), if_pos (by omega), show (0x100 + 0x40 * n.val + 4 - 0x100) / 0x40 = n.val by omega]

theorem regAccess_chTail {s : State} {m : Master} (n : Fin 128) (v : BitVec 64) (h : reaches s m true (Reg.dma n 0x34) = true) :
    regAccess m (Reg.dma n 0x34) .word v s = chTailWrite n (v.setWidth 32 &&& 0xFFF#32) s := by
  obtain ⟨hi, ho, hk, hs, hoff⟩ := dma_slot (off := 0x34) n.isLt (by decide)
  rw [regAccess_rw s m _ 0xFFF v h (row_of_map (dmaTail_row n)) hi ho hk, rwWrite, hs, hoff]
  show (if 0x100 + 0x40 * n.val + 0x34 = 4 then _ else
    if 0x100 ≤ 0x100 + 0x40 * n.val + 0x34 ∧ (0x100 + 0x40 * n.val + 0x34) % 0x40 = 4 then _ else
    if 0x100 ≤ 0x100 + 0x40 * n.val + 0x34 ∧ (0x100 + 0x40 * n.val + 0x34) % 0x40 = 0x34
    then chTailWrite ((0x100 + 0x40 * n.val + 0x34 - 0x100) / 0x40) _ s else _) = _
  rw [if_neg (by omega), if_neg (by omega), if_pos (by omega), show (0x100 + 0x40 * n.val + 0x34 - 0x100) / 0x40 = n.val by omega]

theorem withField_bit0 (v : BitVec 64) : (withField v 0 1 0).getLsbD 0 = false := by
  rw [withField, BitVec.getLsbD_ofNat, Nat.testBit_zero]
  simp
  omega

/-- Bits 0 and 1 of what CH_CTRL takes are those of the value written. -/
theorem chCtrl_bit (v : BitVec 64) {i : Nat} (h : i < 2) : (v.setWidth 32 &&& 3#32).getLsbD i = v.getLsbD i := by
  obtain rfl | rfl : i = 0 ∨ i = 1 := by omega
  · simp
  · simp

/-! ### Stopping -/

/-- Bytes that nothing fixes lie in memory only. -/
theorem scramble_rest (a n : Nat) (s : State) : ∃ m e f, scramble a n s = { s with mem := m, ecc := e, free := f } := by
  induction n generalizing a s with
  | zero => exact ⟨s.mem, s.ecc, s.free, rfl⟩
  | succ n ih =>
    rw [scramble]
    split
    · obtain ⟨m, e, f, h⟩ := ih (a + 1) (s.draw.2.mwrBytes a [s.draw.1.setWidth 8])
      exact ⟨m, e, f, h⟩
    · obtain ⟨m, e, f, h⟩ := ih (a + 1) s.draw.2
      exact ⟨m, e, f, h⟩

theorem foldl_scramble_rest (l : List (Int × Nat)) (s : State) :
    ∃ m e f, l.foldl (fun s r => scramble (addr32 r.1) r.2 s) s = { s with mem := m, ecc := e, free := f } := by
  induction l generalizing s with
  | nil => exact ⟨s.mem, s.ecc, s.free, rfl⟩
  | cons r l ih =>
    obtain ⟨m, e, f, h⟩ := scramble_rest (addr32 r.1) r.2 s
    obtain ⟨m', e', f', h'⟩ := ih (scramble (addr32 r.1) r.2 s)
    rw [h] at h'
    refine ⟨m', e', f', ?_⟩
    rw [List.foldl_cons, h, h']

/-- What stopping channel `n` leaves: the channel's own registers and its own state apart, everything but memory. -/
structure ChanStopped (n : Nat) (s u : State) : Prop where
  sqs : u.sqs = s.sqs
  rd : ∀ a, a ≠ Reg.dma n 4 → a ≠ Reg.dma n 0x24 → a ≠ Reg.dma n 0x30 → u.rd a = s.rd a
  off : chEnabled u n = false
  others : ∀ k, k ≠ n → u.dch k = s.dch k
  cur : (u.dch n).cur = none
  held : (u.dch n).heldEnable = false
  outstanding : (u.dch n).outstanding = ((s.dch n).cur.isSome || (s.dch n).outstanding || !(s.dch n).late.isEmpty)

theorem chStop_idle {n : Nat} {s : State} (h : (s.dch n).cur = none) : chStop n s =
    (s.wrb (Reg.dma n 4) 0 false).setDch n { s.dch n with
      ahead := none, heldEnable := false, err := none, lines := 0, xfer := 0, late := []
      outstanding := (s.dch n).outstanding || !(s.dch n).late.isEmpty } := by
  unfold chStop
  dsimp only
  rw [h]
  dsimp only
  rw [State.modDch]
  show _ = (s.wrb (Reg.dma n 4) 0 false).setDch n _
  rw [show (s.wrb (Reg.dma n 4) 0 false).dch n = s.dch n from rfl, h]

theorem chEnabled_wrb (n : Nat) (s : State) : chEnabled (s.wrb (Reg.dma n 4) 0 false) n = false := by
  rw [chEnabled, State.bit_wrb _ _ _ _ _ (by decide)]
  simp

/-- The stores after a stop in the middle of a transfer, as the registers written last leave them. -/
theorem chStop_busy {n : Nat} {s : State} {d : Desc} (h : (s.dch n).cur = some d) : ∃ m e f x r, chStop n s =
    (if (s.dch n).regMode then ({ s.wrb (Reg.dma n 4) 0 false with mem := m, ecc := e, free := f } : State).wr (Reg.dma n 0x24) x
      else (({ s.wrb (Reg.dma n 4) 0 false with mem := m, ecc := e, free := f } : State).wr (Reg.dma n 0x24) x).wrn (Reg.dma n 0x30) r).setDch n
        { DmaCh.idle with outstanding := true, cause := (s.dch n).cause } := by
  obtain ⟨m, e, f, h1⟩ := foldl_scramble_rest d.writes (s.wrb (Reg.dma n 0x04) 0 false)
  rw [chStop]
  dsimp only
  rw [h]
  dsimp only
  rw [h1]
  split
  · exact ⟨m, e, f + 1, _, 0, rfl⟩
  · rename_i hr
    generalize hs2 : ({ s.wrb (Reg.dma n 4) 0 false with mem := m, ecc := e, free := f } : State) = s2
    obtain ⟨m', e', f', h2⟩ := scramble_rest
      (chSlot s n (chHead s n) + 0x18) 8 ((s2.draw.2.wr (Reg.dma n 0x24) s2.draw.1).draw.2)
    rw [h2, ← hs2]
    exact ⟨m', e', f', _, _, rfl⟩

theorem chStop_stopped (n : Nat) (s : State) : ChanStopped n s (chStop n s) := by
  have hne : Reg.dma n 4 ≠ Reg.dma n 0x24 ∧ Reg.dma n 4 ≠ Reg.dma n 0x30 := ⟨dma_ne (.inr (by decide)) (by decide) (by decide),
    dma_ne (.inr (by decide)) (by decide) (by decide)⟩
  have hw (a : Nat) (h : a ≠ Reg.dma n 4) : (s.wrb (Reg.dma n 4) 0 false).rd a = s.rd a := State.rd_wrb_ne h _ _ _
  cases h : (s.dch n).cur with
  | none =>
    rw [chStop_idle h]
    have hd (k : Nat) x : ((s.wrb (Reg.dma n 4) 0 false).setDch n x).dch k = if k = n then x else s.dch k := State.dch_setDch _ _ _ _
    exact ⟨rfl, fun a h4 _ _ => hw a h4, chEnabled_wrb n s, fun k hk => by rw [hd, if_neg hk], by rw [hd, if_pos rfl]; exact h,
      by rw [hd, if_pos rfl], by rw [hd, if_pos rfl, h]; rfl⟩
  | some d =>
    obtain ⟨m, e, f, x, r, hu⟩ := chStop_busy h
    generalize ht : (if (s.dch n).regMode then ({ s.wrb (Reg.dma n 4) 0 false with mem := m, ecc := e, free := f } : State).wr (Reg.dma n 0x24) x
      else (({ s.wrb (Reg.dma n 4) 0 false with mem := m, ecc := e, free := f } : State).wr (Reg.dma n 0x24) x).wrn (Reg.dma n 0x30) r) = t at hu
    have hrd (a : Nat) (h24 : a ≠ Reg.dma n 0x24) (h30 : a ≠ Reg.dma n 0x30) : t.rd a = (s.wrb (Reg.dma n 4) 0 false).rd a := by
      rw [← ht]
      split
      · rw [State.rd_wr, if_neg h24]
        rfl
      · rw [State.rd_wrn, if_neg h30, State.rd_wr, if_neg h24]
        rfl
    have hd (k : Nat) y : (t.setDch n y).dch k = if k = n then y else s.dch k := by
      have ht' : t.dch k = s.dch k := by
        rw [← ht]
        split <;> rfl
      rw [State.dch_setDch, ht']
    rw [hu]
    refine ⟨?_, fun a h4 h24 h30 => (hrd a h24 h30).trans (hw a h4), ?_, fun k hk => by rw [hd, if_neg hk], by rw [hd, if_pos rfl]; rfl,
      by rw [hd, if_pos rfl]; rfl, by rw [hd, if_pos rfl, h]; rfl⟩
    · rw [← ht]
      split <;> rfl
    · have : chEnabled (t.setDch n { DmaCh.idle with outstanding := true, cause := (s.dch n).cause }) n = (t.rd (Reg.dma n 4)).getLsbD 0 := rfl
      rw [this, hrd _ hne.1 hne.2]
      exact chEnabled_wrb n s

theorem ChanStopped.enabled {n k : Nat} {s u : State} (h : ChanStopped n s u) (hk : k ≠ n) : chEnabled u k = chEnabled s k := by
  rw [chEnabled, State.bit, h.rd _ (dma_ne (.inl hk) (by decide) (by decide)) (dma_ne (.inl hk) (by decide) (by decide))
    (dma_ne (.inl hk) (by decide) (by decide))]
  rfl

/-- A channel that is off, holds no enable and moves nothing. -/
def chOff (s : State) (k : Nat) : Prop := chEnabled s k = false ∧ (s.dch k).cur = none ∧ (s.dch k).heldEnable = false

theorem chStop_chOff (n : Nat) (s : State) (k : Nat) (h : k = n ∨ chOff s k) : chOff (chStop n s) k := by
  have hs := chStop_stopped n s
  by_cases e : k = n
  · subst e
    exact ⟨hs.off, hs.cur, hs.held⟩
  · obtain ⟨h1, h2, h3⟩ := h.resolve_left e
    exact ⟨(hs.enabled e).trans h1, by rw [hs.others k e]; exact h2, by rw [hs.others k e]; exact h3⟩

theorem foldl_chStop (l : List Nat) (s : State) : (∀ k, k ∈ l ∨ chOff s k → chOff (l.foldl (fun s n => chStop n s) s) k) ∧
    (l.foldl (fun s n => chStop n s) s).rd 0x400B0004 = s.rd 0x400B0004 := by
  induction l generalizing s with
  | nil => exact ⟨fun k h => h.resolve_left (by simp), rfl⟩
  | cons n l ih =>
    obtain ⟨h1, h2⟩ := ih (chStop n s)
    refine ⟨fun k hk => h1 k ?_, h2.trans ?_⟩
    · obtain hk | hk := hk
      · obtain rfl | hk := List.mem_cons.mp hk
        · exact .inr (chStop_chOff k s k (.inl rfl))
        · exact .inl hk
      · exact .inr (chStop_chOff n s k (.inr hk))
    · exact (chStop_stopped n s).rd _ (by unfold Reg.dma; omega) (by unfold Reg.dma; omega) (by unfold Reg.dma; omega)

theorem chsStop_off (s : State) {k : Nat} (hk : k < 128) : chOff (chsStop s) k := by
  refine (foldl_chStop _ s).1 k ?_
  by_cases h : chOff s k
  · exact .inr h
  · refine .inl (List.mem_filter.mpr ⟨List.mem_range.mpr hk, ?_⟩)
    by_contra hc
    simp only [Bool.or_eq_true, not_or, Bool.not_eq_true, Option.isSome_eq_false_iff, Option.isNone_iff_eq_none] at hc
    exact h ⟨hc.1.1, hc.1.2, hc.2⟩

/-- Settles O47: CH_CTRL, CH_TAIL and DMA.CTRL act by their bits, and a stop leaves the other channels alone. -/
theorem dmaChannelsAreEnabledStartedAndStopped : Obligations.DmaChannelsAreEnabledStartedAndStopped := by
  unfold Obligations.DmaChannelsAreEnabledStartedAndStopped
  intro stop on
  refine ⟨?enable, ?start, ?disable, ?block, ?held, ?tail, ?late, ?noLate⟩
  case enable =>
    intro s m n v h he
    have hx : exec (.channelEnable m n .word v) s = .next (regAccess m (Reg.dma n 4) .word (v ||| 1#64) s) := rfl
    have hb : ((v ||| 1#64).setWidth 32 &&& 3#32).getLsbD 0 = true := by rw [chCtrl_bit _ (by decide)]; simp
    rw [hx, regAccess_chCtrl n _ h, chCtrlWrite, he, hb]
    refine ⟨fun hi => ?_, fun hi => ?_⟩
    · simp only [Bool.not_true, Bool.false_eq_true, if_false]
      rw [if_pos hi]
      rfl
    · simp only [Bool.not_true, Bool.false_eq_true, if_false]
      rw [if_neg (by simp [hi])]
      rfl
  case start =>
    intro s m n v h he hv
    have hx : exec (.startDma m n .word v) s = .next (regAccess m (Reg.dma n 4) .word (v ||| 2#64) s) := rfl
    have hb : ((v ||| 2#64).setWidth 32 &&& 3#32).getLsbD 0 = true ∧ ((v ||| 2#64).setWidth 32 &&& 3#32).getLsbD 1 = true := by
      rw [chCtrl_bit _ (by decide), chCtrl_bit _ (by decide)]
      simp [hv]
    rw [hx, regAccess_chCtrl n _ h, chCtrlWrite, he, hb.1, hb.2]
    simp only [Bool.not_true, Bool.false_eq_true, if_false, if_true]
    refine ⟨fun hr hi => ?_, fun hc => ?_⟩
    · rw [chStart, if_pos (by rw [hr, hi]; rfl)]
      rfl
    · rw [chStart, if_neg]
      obtain hc | hc := hc <;> simp [hc]
  case disable =>
    intro s m n v h
    have hx : exec (.channelDisable m n .word v) s = .next (regAccess m (Reg.dma n 4) .word (withField v 0 1 0) s) := rfl
    have hb : ((withField v 0 1 0).setWidth 32 &&& 3#32).getLsbD 0 = false := by rw [chCtrl_bit _ (by decide), withField_bit0]
    rw [hx, regAccess_chCtrl n _ h, chCtrlWrite, hb]
    refine ⟨fun he => ?_, fun he => ?_⟩
    · rw [he]
      rfl
    · rw [he]
      have hs := chStop_stopped n s
      refine ⟨_, rfl, hs.off, hs.cur, hs.held, hs.outstanding, fun k _ hk => ⟨hs.others k hk, hs.enabled hk⟩, hs.sqs, fun hc => ?_⟩
      show (chStop n s).mem = s.mem
      rw [chStop_idle hc]
      rfl
  case block =>
    intro s m v h
    have hx : exec (.dmaDisable m .word v) s = .next (regAccess m 0x400B0004 .word (withField v 0 1 0) s) := rfl
    have hrw (x : Word) : rwWrite (whoOf s m) 0x400B0004 x s = dmaEnableWrite (x.getLsbD 0) s := rfl
    have hb : ((withField v 0 1 0).setWidth 32 &&& BitVec.ofNat 32 1).getLsbD 0 = false := by
      rw [BitVec.getLsbD_and, BitVec.getLsbD_setWidth, withField_bit0]
      rfl
    rw [hx, regAccess_rw s m _ 1 _ h (row_of_map (by decide)) (by decide) (by decide) (by decide), hrw, hb, dmaEnableWrite]
    refine ⟨_, rfl, ?_, fun k hk => chsStop_off _ hk⟩
    show ((chsStop (s.wrb 0x400B0004 0 false)).rd 0x400B0004).getLsbD 0 = false
    rw [chsStop, (foldl_chStop _ _).2]
    show (s.wrb 0x400B0004 0 false).bit 0x400B0004 0 = false
    rw [State.bit_wrb _ _ _ _ _ (by decide)]
    simp
  case held =>
    intro s n
    have hx : exec (.heldEnable n) s = .next (heldEnable n s) := rfl
    rw [hx, heldEnable]
    refine ⟨fun h => congrArg _ (if_neg (by simp [h])), fun h => ?_⟩
    intro t
    exact congrArg _ (if_pos h)
  case tail =>
    intro s m n v h
    have hx : exec (.tailWrite m n .word v) s = .next (regAccess m (Reg.dma n 0x34) .word v s) := rfl
    have hv : fld (v.setWidth 32 &&& 0xFFF#32) 0 12 = v.toNat % 4096 := by
      rw [fld_and _ _ _ _ (by decide), fld, BitVec.toNat_setWidth]
      omega
    rw [hx, regAccess_chTail n v h, chTailWrite, hv]
    rfl
  case late =>
    intro s n i a rest hl
    have hx : exec (.lateErr n) s = .next (lateErr n s) := rfl
    rw [hx, lateErr, hl]
    refine ⟨fun h => ?_, fun hc hi => ?_⟩
    · dsimp only
      rw [if_neg (by simp only [Bool.and_eq_true, beq_iff_eq]; rintro ⟨h1, h2⟩; obtain h | h := h <;> simp_all)]
      rfl
    · exact congrArg _ (if_pos (by simp [hc, hi]))
  case noLate =>
    intro s n hl
    have hx : exec (.lateErr n) s = .next (lateErr n s) := rfl
    rw [hx, lateErr, hl]

end Sys2Proof.Machine
end

section
/-! The host SPI port, the UARTs, the I2C controllers and the GPIO edges (chapter 20). -/

namespace Sys2Proof.Machine
open Sys2Proof

/-! ### The host SPI port -/

theorem hsLives_iff {s : State} : hsLives s = true ↔ s.modes.sleep ≠ .asleep ∧ s.modes.sleep ≠ .waking := by
  simp [hsLives]

/-- Words that all find room stand behind those of the FIFO, in order. -/
theorem hsEnqueue_room (l : List (Word × Word)) (s : State) (h : s.ports.hs.fifo.length + l.length ≤ 64) :
    hsEnqueue l s = s.modHs fun x => { x with fifo := x.fifo ++ l } := by
  induction l generalizing s with
  | nil =>
    show s = s.modHs fun x => { x with fifo := x.fifo ++ [] }
    simp only [List.append_nil]
    rfl
  | cons w l ih =>
    rw [List.length_cons] at h
    have hstep : hsEnqueue (w :: l) s = hsEnqueue l (s.modHs fun x => { x with fifo := x.fifo ++ [w] }) :=
      congrArg (hsEnqueue l) (if_neg (by omega))
    rw [hstep, ih _ (by simp only [State.modHs, State.modPorts, List.length_append, List.length_singleton]; omega)]
    simp only [State.modHs, State.modPorts, List.append_assoc, List.singleton_append]

theorem hsEnqueue_full (w : Word × Word) {s : State} (h : 64 ≤ s.ports.hs.fifo.length) :
    hsEnqueue [w] s = pulse 240 (s.modHs fun x => { x with overrun := true }) := if_pos h

theorem hsReads_length (step : Nat) (a : Word) (n : Nat) (s : State) : (hsReads step a n s).1.length = n := by
  induction n generalizing a s with
  | zero => rfl
  | succ n ih =>
    rw [hsReads]
    exact congrArg (· + 1) (ih _ _)

section
variable {s : State} {a : Word} {n : Nat} (step : Nat)

theorem hsWrite_asleep (h : ¬ (s.modes.sleep ≠ .asleep ∧ s.modes.sleep ≠ .waking)) (ws : List Word) : hsWrite step a n ws s = s :=
  if_pos (by rw [Bool.not_eq_true', ← Bool.not_eq_true, hsLives_iff]; exact h)

theorem hostRead_asleep (h : ¬ (s.modes.sleep ≠ .asleep ∧ s.modes.sleep ≠ .waking)) (cut : Option Nat) :
    hostRead step a n cut s = s :=
  if_pos (by rw [Bool.not_eq_true', ← Bool.not_eq_true, hsLives_iff]; exact h)

theorem hsWrite_awake (h : s.modes.sleep ≠ .asleep ∧ s.modes.sleep ≠ .waking) (ws : List Word) : hsWrite step a n ws s =
    if !tget false s.bus.readyFar 4 then (ws.take n).foldl (fun s _ => xingDropped 4 s) s
    else if hsArgsOk a n then hsEnqueue ((ws.take n).mapIdx fun i w => (a + BitVec.ofNat 32 (step * i), w)) s
    else hsProto s := if_neg (by rw [hsLives_iff.mpr h]; decide)

theorem hostRead_closed (h : s.modes.sleep ≠ .asleep ∧ s.modes.sleep ≠ .waking) (hf : ¬ tget false s.bus.readyFar 4 = true)
    (cut : Option Nat) : hostRead step a n cut s = xingDropped 4 s := by
  rw [hostRead, if_neg (by rw [hsLives_iff.mpr h]; decide), if_pos (by simpa using hf)]

theorem hostRead_bad (h : s.modes.sleep ≠ .asleep ∧ s.modes.sleep ≠ .waking) (hf : tget false s.bus.readyFar 4 = true)
    (ha : hsArgsOk a n = false) (cut : Option Nat) : hostRead step a n cut s = hsProto s := by
  rw [hostRead, if_neg (by rw [hsLives_iff.mpr h]; decide), if_neg (by rw [hf]; decide), if_pos (by rw [ha]; rfl)]

theorem hostRead_runs (h : s.modes.sleep ≠ .asleep ∧ s.modes.sleep ≠ .waking) (hf : tget false s.bus.readyFar 4 = true)
    (hn : tget false s.bus.readyNear 4 = true) (ha : hsArgsOk a n = true) (cut : Option Nat) : hostRead step a n cut s =
      (hsReads step a ((cut.map (min n)).getD n) s).2.2.modHs fun x => { x with
        answer := if cut.isSome then [] else if (hsReads step a ((cut.map (min n)).getD n) s).2.1
          then 0xA5#32 :: (hsReads step a ((cut.map (min n)).getD n) s).1 else [0x5A#32] } := by
  rw [hostRead, if_neg (by rw [hsLives_iff.mpr h]; decide), if_neg (by rw [hf]; decide), if_neg (by rw [ha]; decide),
    if_neg (by rw [hn]; decide)]
end

/-- READ and READ_FIXED are one operation, with the distance of successive addresses. -/
theorem exec_read (fixed : Bool) (a : Word) (n : Nat) (cut : Option Nat) (s : State) :
    exec (if fixed then .readFixed a n cut else .hostRead a n cut) s = .next (hostRead (if fixed then 0 else 4) a n cut s) := by
  cases fixed <;> rfl

theorem hsArgsOk_iff {a : Word} {n : Nat} : hsArgsOk a n = true ↔ a.toNat % 4 = 0 ∧ 1 ≤ n ∧ n ≤ 64 := by simp [hsArgsOk]

theorem hsArgsOk_not {a : Word} {n : Nat} (h : a.toNat % 4 ≠ 0 ∨ n = 0 ∨ 64 < n) : hsArgsOk a n = false := by
  rw [← Bool.not_eq_true, hsArgsOk_iff]
  omega

theorem hsReads_one (step : Nat) (a : Word) (s : State) : hsReads step a 1 s =
    ([BitVec.ofNat 32 ((readNow .hostSpi a.toNat 4 s).1.getD 0)], (readNow .hostSpi a.toNat 4 s).1.isSome,
      if (readNow .hostSpi a.toNat 4 s).1.isNone then hsError false a (readNow .hostSpi a.toNat 4 s).2
      else (readNow .hostSpi a.toNat 4 s).2) := by
  simp only [hsReads, Bool.and_true]

/-! ### The I2C controllers -/

section
variable {s : State} {k op w : Nat} {rest : List Nat} {entry : Nat → Option Nat}

theorem i2cRun_waits (hc : (s.i2c k).cmds = w :: rest) (h : s.bit (Reg.i2cCtrl k) 0 = false ∨ w / 256 % 8 ≠ op) (r : I2cEnd) :
    i2cRun k op entry r s = s := by
  rw [i2cRun]
  dsimp only
  rw [hc]
  dsimp only
  rw [if_neg (by simp only [Bool.and_eq_true, beq_iff_eq]; rintro ⟨h1, h2⟩; simp_all)]

/-- What a command that runs leaves of its controller. -/
def i2cRan (k op w : Nat) (rest : List Nat) (entry : Nat → Option Nat) (s : State) : State :=
  s.setI2c k ⟨rest, (s.i2c k).rsp ++ (entry (w % 256)).toList, op != 5⟩

/-- How a command that ran ends. -/
def i2cOutcome (k op : Nat) (r : I2cEnd) (t : State) : State :=
  match r with
  | .ack => if op = 5 then sqSet (Reg.i2cEvt k) [3] t else t
  | .nack => if op = 1 ∨ op = 2 then i2cEnd k 0 t else t
  | .arbLost => i2cEnd k 1 t

theorem i2cRun_runs (hb : s.bit (Reg.i2cCtrl k) 0 = true) (hc : (s.i2c k).cmds = w :: rest) (h : w / 256 % 8 = op) (r : I2cEnd) :
    i2cRun k op entry r s = i2cOutcome k op r (i2cRan k op w rest entry s) := by
  rw [i2cRun]
  dsimp only
  rw [hc]
  dsimp only
  rw [if_pos (by rw [hb, h, beq_self_eq_true]; rfl), i2cRan]
  cases entry (w % 256)
  · rw [Option.toList_none, List.append_nil]
    cases r <;> rfl
  · cases r <;> rfl
end

/-! ### The UARTs -/

theorem uartTxd_access {s : State} {m : Master} (k : Fin 2) (v : BitVec 64) (h : reaches s m true (0x400F0408 + 0x40 * k.val) = true) :
    regAccess m (0x400F0408 + 0x40 * k.val) .word v s = uartTxd k (v.setWidth 32 &&& 0xFF#32) s := by
  have hrow : ∀ k : Fin 2, (rowAt (0x400F0408 + 0x40 * k.val)).map (fun r => (r.cls, r.mask)) = some (.rw, 0xFF) := by decide
  have hk := k.isLt
  rw [regAccess_rw s m _ 0xFF v h (row_of_map (hrow k)) (by simp [inSlots]; omega) (by omega) (by omega)]
  match k with
  | 0 => rfl
  | 1 => rfl

theorem low_byte (v : BitVec 64) : (v.setWidth 32 &&& 0xFF#32).setWidth 8 = v.setWidth 8 := by
  apply BitVec.eq_of_getLsbD_eq
  intro i hi
  rw [BitVec.getLsbD_setWidth, BitVec.getLsbD_setWidth, BitVec.getLsbD_and, BitVec.getLsbD_setWidth]
  have hm : (0xFF#32).getLsbD i = true := by
    have : ∀ j : Fin 8, (0xFF#32).getLsbD j = true := by decide
    exact this ⟨i, hi⟩
  rw [hm]
  simp [hi]
  omega

theorem uartRxd_view (k : Fin 2) (s : State) : portsView (0x400F040C + 0x40 * k.val) s = uartRxdView s k := by
  have hoff : (0x400F040C + 0x40 * k.val) % 0x10000 = 0x40C + 0x40 * k.val := by omega
  rw [portsView, hoff]
  rw [if_neg (by omega), if_pos (by omega)]
  congr 1
  omega

theorem uartRxd_effect0 (r : RegRow) (s : State) : readEffect 0x400F040C r s = uartRxdPop 0 s := rfl

theorem uartRxd_effect1 (r : RegRow) (s : State) : readEffect 0x400F044C r s = uartRxdPop 1 s := rfl

/-- A read of UART_RXD_k answers the oldest entry and takes it. -/
theorem uartRxd_fetch {s : State} {m : Master} (k : Fin 2) (h : reaches s m false (0x400F040C + 0x40 * k.val) = true)
    (hd : (whoOf s m).debug = false) : regFetch m (0x400F040C + 0x40 * k.val) .word s =
      (uartRxdPop k s).modBus fun b => { b with answer := some (BitVec.ofNat 64 (uartRxdView s k).toNat) } := by
  have hrow : ∀ k : Fin 2, (rowAt (0x400F040C + 0x40 * k.val)).map (fun r => (r.cls, r.mask)) = some (.rc, 0xFFF) := by decide
  have hk := k.isLt
  obtain ⟨r, -, hc, hx⟩ := regFetch_own s m _ .rc h (row_of_map_cls (hrow k)) (by simp [inSlots]; omega) (by omega) hd
  have hview : slotView (0x400F040C + 0x40 * k.val) r s = uartRxdView s k := by
    rw [slotView_ports _ r s (by omega) (by omega) (by rw [hc]; decide) (by rw [hc]; decide)]
    exact uartRxd_view k s
  have heff : readEffect (0x400F040C + 0x40 * k.val) r s = uartRxdPop k s := by
    obtain rfl | rfl : k = 0 ∨ k = 1 := by omega
    · rw [show 0x400F040C + 0x40 * (0 : Fin 2).val = 0x400F040C from rfl, uartRxd_effect0]
      rfl
    · rw [show 0x400F040C + 0x40 * (1 : Fin 2).val = 0x400F044C from rfl, uartRxd_effect1]
      rfl
  rw [hx, hview, heff]

/-- Settles O46: each command of a port is the operation of its name, branch by branch. -/
theorem hostAndSerialPortsCarryData : Obligations.HostAndSerialPortsCarryData := by
  unfold Obligations.HostAndSerialPortsCarryData
  intro irq put bad up far near txd rxd first ran ended
  have hwr (a : Word) (c : BitVec 16) (ws : List Word) (s : State) :
      exec (.hostWrite a c ws) s = .next (hsWrite 4 a c.toNat ws s) := rfl
  have hwf (a : Word) (c : BitVec 16) (ws : List Word) (s : State) :
      exec (.writeFixed a c ws) s = .next (hsWrite 0 a c.toNat ws s) := rfl
  have hrd (a : Word) (n : Nat) (cut : Option Nat) (s : State) : exec (.hostRead a n cut) s = .next (hostRead 4 a n cut s) := rfl
  have hrf (a : Word) (n : Nat) (cut : Option Nat) (s : State) : exec (.readFixed a n cut) s = .next (hostRead 0 a n cut s) := rfl
  refine ⟨?write, ?writeBad, ?read, ?readOne, ?readCut, ?readBad, ?closed, ?asleep, ?status, ?word, ?noWord, ?txd, ?rxd, ?received,
    ?sent, ?i2cWaits, ?i2cRuns, ?i2cTimeout, ?gpio⟩
  case write =>
    intro s a c ws hup hfar ha h1 h64
    intro xs
    have harg : hsArgsOk a c.toNat = true := hsArgsOk_iff.mpr ⟨ha, h1, h64⟩
    have hgo (step : Nat) : hsWrite step a c.toNat ws s = hsEnqueue (xs.mapIdx fun i w => (a + BitVec.ofNat 32 (step * i), w)) s := by
      rw [hsWrite_awake _ hup, if_neg (by rw [hfar]; decide), if_pos harg]
    have hfixed : (xs.mapIdx fun i w => (a + BitVec.ofNat 32 (0 * i), w)) = xs.mapIdx fun _ w => (a, w) := by
      simp only [Nat.zero_mul, BitVec.add_zero, BitVec.ofNat_eq_ofNat]
    rw [hwr, hwf, hgo, hgo, hfixed]
    refine ⟨fun hroom => ⟨?_, ?_⟩, fun w hw hfull => ?_⟩
    · rw [hsEnqueue_room _ _ (by rw [List.length_mapIdx]; exact hroom)]
    · rw [hsEnqueue_room _ _ (by rw [List.length_mapIdx]; exact hroom)]
    · rw [hw]
      exact ⟨congrArg _ (hsEnqueue_full _ hfull), congrArg _ (hsEnqueue_full _ hfull)⟩
  case writeBad =>
    intro s a c ws hup hfar hc
    rw [hwr, hwf, hsWrite_awake _ hup, hsWrite_awake _ hup, if_neg (by rw [hfar]; decide), if_neg (by rw [hsArgsOk_not hc]; decide),
      if_neg (by rw [hfar]; decide), if_neg (by rw [hsArgsOk_not hc]; decide)]
    exact ⟨rfl, rfl⟩
  case read =>
    intro s a n cut hup hfar hnear ha h1 h64 fixed
    rw [exec_read, hostRead_runs _ hup hfar hnear (hsArgsOk_iff.mpr ⟨ha, h1, h64⟩)]
    refine ⟨_, rfl, ?_, ?_⟩
    · rintro rfl
      generalize hr : hsReads _ _ _ _ = r
      have hlen : r.1.length = n := by rw [← hr, hsReads_length]; rfl
      obtain ⟨ws, ok, t⟩ := r
      cases ok
      · exact .inl rfl
      · exact .inr ⟨ws, hlen, rfl⟩
    · intro hc
      exact if_pos hc
  case readOne =>
    intro s a hup hfar hnear ha fixed
    rw [exec_read, hostRead_runs _ hup hfar hnear (hsArgsOk_iff.mpr ⟨ha, by decide, by decide⟩)]
    simp only [Option.map_none, Option.getD_none, hsReads_one]
    obtain ⟨_ | x, t⟩ := readNow .hostSpi a.toNat 4 s
    · rfl
    · rfl
  case readCut =>
    intro s a n hup hfar hnear ha h1 h64 fixed
    rw [exec_read, hostRead_runs _ hup hfar hnear (hsArgsOk_iff.mpr ⟨ha, h1, h64⟩)]
    simp only [Option.map_some, Option.getD_some, Nat.min_zero, hsReads]
    rfl
  case readBad =>
    intro s a n cut hup hfar hc
    rw [hrd, hrf, hostRead_bad _ hup hfar (hsArgsOk_not hc), hostRead_bad _ hup hfar (hsArgsOk_not hc)]
    exact ⟨rfl, rfl⟩
  case closed =>
    intro s a n c ws cut hup hfar
    have hf : (!tget false s.bus.readyFar 4) = true := by
      rw [Bool.not_eq_true', ← Bool.not_eq_true]
      exact hfar
    rw [hrd, hrf, hwr, hwf, hostRead_closed _ hup hfar, hostRead_closed _ hup hfar, hsWrite_awake _ hup, hsWrite_awake _ hup,
      if_pos hf, if_pos hf]
    exact ⟨rfl, rfl, rfl, rfl⟩
  case asleep =>
    intro s a n c ws cut hup
    simp only [List.forall_mem_cons, hrd, hrf, hwr, hwf]
    refine ⟨congrArg _ (hostRead_asleep _ hup cut), congrArg _ (hostRead_asleep _ hup cut), congrArg _ (hsWrite_asleep _ hup ws),
      congrArg _ (hsWrite_asleep _ hup ws), ?_, fun _ h => nomatch h⟩
    exact congrArg Host.Outcome.next (if_pos (by rw [Bool.not_eq_true', ← Bool.not_eq_true, hsLives_iff]; exact hup))
  case status =>
    intro s hup
    exact congrArg Host.Outcome.next (if_neg (by rw [hsLives_iff.mpr hup]; decide))
  case word =>
    intro s a v t hnear hl
    have hx : exec .hostWordWrite s = .next (hostWordWrite s) := rfl
    rw [hx, hostWordWrite, if_neg (by rw [show tget false s.bus.readyNear 4 = true from hnear]; decide), hl]
    dsimp only
    obtain ⟨_ | _, u⟩ := masterWrite .hostSpi a.toNat 4 v.toNat (s.modHs fun h => { h with fifo := t }) <;> rfl
  case noWord =>
    intro s h
    have hx : exec .hostWordWrite s = .next (hostWordWrite s) := rfl
    rw [hx, hostWordWrite]
    obtain h | h := h
    · rw [h]
      exact congrArg _ (ite_self s)
    · exact congrArg _ (if_pos (by rw [Bool.not_eq_true', ← Bool.not_eq_true]; exact h))
  case txd =>
    intro s m k v h
    have hx : exec (.uartTxdWrite m k .word v) s = .next (regAccess m (0x400F0408 + 0x40 * k.val) .word v s) := rfl
    rw [hx, uartTxd_access k v h, uartTxd]
    dsimp only
    refine ⟨fun hl => ?_, fun hl => ?_⟩
    · rw [if_neg (by omega), low_byte]
    · rw [if_pos hl]
  case rxd =>
    intro s m k h hd
    have hx : exec (.uartRxdRead m k .word) s = .next (regFetch m (0x400F040C + 0x40 * k.val) .word s) := rfl
    rw [hx, uartRxd_fetch k h hd, uartRxdPop, uartRxdView]
    obtain _ | ⟨⟨c, p, f, b⟩, t⟩ := (s.uart k).rx
    · rfl
    · have hlt : c.toNat + 256 * b2n p + 512 * b2n f + 1024 * b2n b < 2 ^ 32 := by
        have h1 := c.isLt
        have h2 (x : Bool) : b2n x ≤ 1 := by cases x <;> decide
        have := h2 p
        have := h2 f
        have := h2 b
        omega
      dsimp only
      rw [BitVec.toNat_ofNat, Nat.mod_eq_of_lt hlt]
  case received =>
    intro s k ch p f b
    have hx : exec (.characterReceived k ch p f b) s = .next (characterReceived k ch p f b s) := rfl
    rw [hx, characterReceived]
    dsimp only
    refine ⟨fun h => ?_, fun h hl => ?_, fun h hl => ?_⟩
    · rw [if_neg (by rw [h]; decide)]
    · rw [if_pos h, if_neg (by omega)]
    · rw [if_pos h, if_pos hl]
  case sent =>
    intro s k c t hb hl
    have hx : exec (.characterSent k) s = .next (characterSent k s) := rfl
    rw [hx, characterSent]
    dsimp only
    rw [if_pos hb, hl]
  case i2cWaits =>
    intro s k w rest d r hc h
    have hop : ∀ op ∈ [1, 2, 3, 4, 5], s.bit (Reg.i2cCtrl k) 0 = false ∨ w / 256 % 8 ≠ op := by
      intro op hop
      exact h.imp_right fun hn he => hn (he ▸ hop)
    simp only [List.forall_mem_cons] at hop ⊢
    obtain ⟨h1, h2, h3, h4, h5, -⟩ := hop
    exact ⟨congrArg _ (i2cRun_waits hc h1 r), congrArg _ (i2cRun_waits hc h2 r), congrArg _ (i2cRun_waits hc h3 r),
      congrArg _ (i2cRun_waits hc h4 r), congrArg _ (i2cRun_waits hc h5 r), fun _ h => nomatch h⟩
  case i2cRuns =>
    intro s k w rest d
    have hx1 (r : I2cEnd) : exec (.i2cStart k r) s = .next (i2cRun k 1 (fun _ => none) r s) := rfl
    have hx2 (r : I2cEnd) : exec (.i2cWrite k r) s = .next (i2cRun k 2 (fun b => some (i2cEntry b (r == .nack))) r s) := rfl
    have hx3 (r : I2cEnd) : exec (.i2cReadAck k d r) s = .next (i2cRun k 3 (fun _ => some (i2cEntry d.toNat false)) r s) := rfl
    have hx4 (r : I2cEnd) : exec (.i2cReadNack k d r) s = .next (i2cRun k 4 (fun _ => some (i2cEntry d.toNat false)) r s) := rfl
    have hx5 (r : I2cEnd) : exec (.i2cStop k r) s = .next (i2cRun k 5 (fun _ => none) r s) := rfl
    have hentry (n : Bool) : i2cEntry (w % 256) n = w % 256 + 512 + 256 * b2n n := by
      rw [i2cEntry]
      omega
    have hdata : i2cEntry d.toNat false = d.toNat + 512 := by
      have := d.isLt
      rw [i2cEntry, show b2n false = 0 from rfl]
      omega
    refine ⟨?_, ?_, ?_, ?_, ?_⟩ <;> rintro ⟨hb, hc, hop⟩
    · rw [hx1, hx1, hx1, i2cRun_runs hb hc hop, i2cRun_runs hb hc hop, i2cRun_runs hb hc hop]
      exact ⟨rfl, rfl, rfl⟩
    · rw [hx2, hx2, i2cRun_runs hb hc hop, i2cRun_runs hb hc hop]
      simp only [i2cRan, hentry]
      exact ⟨rfl, rfl⟩
    · rw [hx3, i2cRun_runs hb hc hop, i2cRan, hdata]
      rfl
    · rw [hx4, i2cRun_runs hb hc hop, i2cRan, hdata]
      rfl
    · rw [hx5, i2cRun_runs hb hc hop]
      rfl
  case i2cTimeout =>
    intro s k hb
    exact congrArg Host.Outcome.next (if_pos hb)
  case gpio =>
    intro s n l
    intro t sel
    have hx : exec (.gpioEdge n l) s = .next (gpioEdge n l s) := rfl
    rw [hx, gpioEdge]
    cases l <;> simp [sel, t]

end Sys2Proof.Machine
end

section
/-! The CAN controllers and Riller's segments on them (chapters 17 and 20). -/

namespace Sys2Proof.Machine
open Sys2Proof

section
variable {s : State} {k : Nat}

theorem canSends_iff : canSends s k = true ↔
    s.bit (Reg.canCtrl k) 0 = true ∧ s.bit (Reg.canCtrl k) 1 = false ∧ (s.can k).busOff = false := by
  simp [canSends, and_assoc]

theorem canNext_iff {j : Nat} : canNext s k j = true ↔
    j ∈ (s.can k).pending ∧ ∀ i ∈ (s.can k).pending, (canBuffer s k j).ident ≤ (canBuffer s k i).ident := by
  simp [canNext]

/-- A controller that is on the bus hears a frame, in error or whole. -/
theorem canReceived_hears (h : s.bit (Reg.canCtrl k) 0 = true ∧ (s.can k).busOff = false) (f : CanFrame) (bad : Bool) :
    canReceived k f bad s = if bad then canRxError k s else
      if rilFrame s k f then rilSegment k f (canRxWell k s) else canFifo k f (canRxWell k s) :=
  if_pos (by rw [h.1, h.2]; rfl)

theorem canReceived_deaf (h : ¬ (s.bit (Reg.canCtrl k) 0 = true ∧ (s.can k).busOff = false)) (f : CanFrame) (bad : Bool) :
    canReceived k f bad s = s :=
  if_neg (by simpa using h)

theorem canRxWell_rx : ((canRxWell k s).can k).rx = (s.can k).rx := by
  rw [canRxWell, State.can_setCan, if_pos rfl]

/-- The first segment of a message that is not under way. -/
theorem rilSegment_first {f : CanFrame} {h : Byte} {part : List Byte} (hd : f.data = h :: part) (h1 : 128 ≤ h.toNat)
    (hi : h.toNat % 16 = 0) (hr : reasmOf s k f.ident = none) : rilSegment k f s =
      if 192 ≤ h.toNat then reassembled k part s
      else s.modRil fun r => { r with reasm := r.reasm ++ [⟨k, f.ident, 1, part, 0⟩] } := by
  have hlt := h.isLt
  rw [rilSegment, hd]
  dsimp only
  rw [if_pos (by omega), hr]
  simp only [Option.isSome_none, Bool.false_eq_true, if_false]
  rw [if_neg (by omega)]
  by_cases h2 : 192 ≤ h.toNat
  · rw [if_pos h2, if_pos (by omega)]
  · rw [if_neg h2, if_neg (by omega)]

theorem rilSegment_stray {f : CanFrame} {h : Byte} {part : List Byte} (hd : f.data = h :: part) (h1 : h.toNat < 128)
    (hr : reasmOf s k f.ident = none) : rilSegment k f s = s := by
  rw [rilSegment, hd]
  dsimp only
  rw [if_neg (by omega), hr]

/-- A further segment of a message under way. -/
theorem rilSegment_next {f : CanFrame} {h : Byte} {part : List Byte} {x : Reasm} (hd : f.data = h :: part) (h1 : h.toNat < 128)
    (hr : reasmOf s k f.ident = some x) : rilSegment k f s =
      if h.toNat % 16 ≠ x.next ∨ 160 < x.age then reasmDrop k f.ident s
      else if 64 ≤ h.toNat then reassembled k (x.bytes ++ part) (reasmDrop k f.ident s)
      else (reasmDrop k f.ident s).modRil fun r => { r with
        reasm := r.reasm ++ [{ x with next := x.next + 1, bytes := x.bytes ++ part, age := 0 }] } := by
  rw [rilSegment, hd]
  dsimp only
  rw [if_neg (by omega), hr]
  dsimp only
  refine if_congr Iff.rfl rfl ?_
  exact if_congr (by omega) rfl rfl

end

/-- A word of the receive window is read only, and reading word 17 takes the frame. -/
theorem readEffect_plain {a : Nat} {r : RegRow} (hc : r.cls ≠ .rc)
    (h : ∀ b ∈ [0x400F040C, 0x400F044C, 0x400F070C, 0x400F074C, 0x400F12A4, 0x400F16A4, 0x4000010C], a ≠ b) (s : State) :
    readEffect a r s = s := by
  simp only [List.forall_mem_cons] at h
  obtain ⟨h1, h2, h3, h4, h5, h6, h7, -⟩ := h
  unfold readEffect
  split
  · contradiction
  · contradiction
  · contradiction
  · contradiction
  · contradiction
  · contradiction
  · rw [if_neg hc, if_neg h7]

theorem canWindow_pop0 (r : RegRow) (s : State) : readEffect 0x400F12A4 r s = canRxPop 0 s := rfl

theorem canWindow_pop1 (r : RegRow) (s : State) : readEffect 0x400F16A4 r s = canRxPop 1 s := rfl

theorem canWindow_effect {k : Fin 2} {i : Fin 18} {r : RegRow} (hc : r.cls = .ro) (s : State) :
    readEffect (0x400F1260 + 0x400 * k.val + 4 * i.val) r s = if i.val = 17 then canRxPop k s else s := by
  by_cases h : i.val = 17
  · rw [if_pos h, h]
    obtain rfl | rfl : k = 0 ∨ k = 1 := by omega
    · rw [show 0x400F1260 + 0x400 * (0 : Fin 2).val + 4 * 17 = 0x400F12A4 from rfl, canWindow_pop0]
      rfl
    · rw [show 0x400F1260 + 0x400 * (1 : Fin 2).val + 4 * 17 = 0x400F16A4 from rfl, canWindow_pop1]
      rfl
  · rw [if_neg h]
    refine readEffect_plain (by rw [hc]; decide) ?_ s
    have hi := i.isLt
    have hk := k.isLt
    intro b hb
    simp only [List.mem_cons, List.not_mem_nil, or_false] at hb
    omega

theorem canWindow_view (k : Fin 2) (i : Fin 18) (s : State) :
    portsView (0x400F1260 + 0x400 * k.val + 4 * i.val) s = canRxView s k i := by
  have hi := i.isLt
  have hk := k.isLt
  have hoff : (0x400F1260 + 0x400 * k.val + 4 * i.val) % 0x10000 = 0x1260 + 0x400 * k.val + 4 * i.val := by omega
  rw [portsView, hoff]
  rw [if_neg (by omega), if_neg (by omega), if_neg (by omega), if_neg (by omega), if_neg (by omega), if_neg (by omega),
    if_neg (by omega)]
  obtain hk | hk : k.val = 0 ∨ k.val = 1 := by omega
  · rw [if_pos (by omega), hk]
    congr 1
    omega
  · rw [if_neg (by omega), if_pos (by omega), hk]
    congr 1
    omega

theorem canWindow_fetch {s : State} {m : Master} (k : Fin 2) (i : Fin 18)
    (h : reaches s m false (0x400F1260 + 0x400 * k.val + 4 * i.val) = true) (hd : (whoOf s m).debug = false) :
    regFetch m (0x400F1260 + 0x400 * k.val + 4 * i.val) .word s = (if i.val = 17 then canRxPop k s else s).modBus fun b =>
      { b with answer := some (BitVec.ofNat 64 (canRxView s k i).toNat) } := by
  have hrow : ∀ (k : Fin 2) (i : Fin 18), (rowAt (0x400F1260 + 0x400 * k.val + 4 * i.val)).map (fun r => (r.cls, r.mask)) =
    some (.ro, 0xFFFFFFFF) := by decide
  have hi := i.isLt
  have hk := k.isLt
  obtain ⟨r, -, hc, hx⟩ := regFetch_own s m _ .ro h (row_of_map_cls (hrow k i)) (by simp [inSlots]; omega) (by omega) hd
  rw [hx, canWindow_effect hc, slotView_ports _ r s (by omega) (by omega) (by rw [hc]; decide) (by rw [hc]; decide), canWindow_view]

theorem canTxreq_access {s : State} {m : Master} (k : Fin 2) (v : BitVec 64)
    (h : reaches s m true (0x400F1014 + 0x400 * k.val) = true) :
    regAccess m (0x400F1014 + 0x400 * k.val) .word v s = canTxreq k (v.setWidth 32) s := by
  have hrow : ∀ k : Fin 2, (rowAt (0x400F1014 + 0x400 * k.val)).map (fun r => (r.cls, r.mask)) = some (.w1, 0xFF) := by decide
  have hk := k.isLt
  have hslot : (0x400F1014 + 0x400 * k.val) / 0x10000 % 16 = 15 := by omega
  have hoff : (0x400F1014 + 0x400 * k.val) % 0x10000 = 0x1014 + 0x400 * k.val := by omega
  rw [regAccess_w1 s m _ v h (row_of_map_cls (hrow k)) (by simp [inSlots]; omega) (by omega) (by omega), w1Write, hslot, hoff]
  show (if 0x1014 + 0x400 * k.val = 0x1014 ∨ 0x1014 + 0x400 * k.val = 0x1414
    then canTxreq ((0x1014 + 0x400 * k.val - 0x1000) / 0x400) _ s else s) = _
  rw [if_pos (by omega), show (0x1014 + 0x400 * k.val - 0x1000) / 0x400 = k.val by omega]

/-- Settles O45: each command of a controller is the operation of its name, branch by branch. -/
theorem canControllersSendAndReceive : Obligations.CanControllersSendAndReceive := by
  unfold Obligations.CanControllersSendAndReceive
  intro sends least hears ev well drop
  have hrx (k : Fin 2) (f : CanFrame) (bad : Bool) (s : State) : exec (.canFrameReceived k f bad) s = .next (canReceived k f bad s) := rfl
  have htx (k : Fin 2) (b : Fin 8) (r : CanEnd) (s : State) : exec (.canFrameSent k b r) s = .next (canFrameSent k b r s) := rfl
  refine ⟨?txreq, ?waits, ?sent, ?deaf, ?error, ?fifo, ?segment, ?window, ?recovery, ?late, ?noLate⟩
  case txreq =>
    intro s m k v h
    have hx : exec (.canTxreq m k .word v) s = .next (regAccess m (0x400F1014 + 0x400 * k.val) .word v s) := rfl
    rw [hx, canTxreq_access k v h, canTxreq, BitVec.toNat_setWidth]
  case waits =>
    intro s k b r h
    rw [htx]
    exact congrArg Host.Outcome.next (if_neg (by rw [Bool.and_eq_true, canSends_iff, canNext_iff]; exact h))
  case sent =>
    intro s k b hs hl
    have hgo : (canSends s k && canNext s k b) = true := by
      rw [Bool.and_eq_true, canSends_iff, canNext_iff]
      exact ⟨hs, hl⟩
    have herr : canFrameSent k b .error s = canTxError k s := if_pos hgo
    rw [htx, htx, htx, herr, canTxError]
    refine ⟨congrArg _ (if_pos hgo), congrArg _ (if_pos hgo), fun h => ?_, fun h1 h2 => ?_, fun h => ?_⟩
    · exact congrArg _ (if_pos (by omega))
    · dsimp only
      rw [if_neg (by omega), if_pos (by omega)]
    · dsimp only
      rw [if_neg (by omega), if_neg (by omega)]
  case deaf =>
    intro s k f bad h
    rw [hrx, canReceived_deaf h]
  case error =>
    intro s k f h
    rw [hrx, canReceived_hears h]
    rfl
  case fifo =>
    intro s k f h hf
    have hgo : canReceived k f false s = canFifo k f (canRxWell k s) := by
      rw [canReceived_hears h, if_neg (by decide), if_neg (by rw [hf]; decide)]
    rw [hrx, hgo, canFifo]
    rw [← canRxWell_rx]
    exact ⟨fun hl => congrArg _ (if_neg (by omega)), fun hl => congrArg _ (if_pos hl)⟩
  case segment =>
    intro s k f h part hh hf hd
    intro w arrived
    have hgo : exec (.canFrameReceived k f false) s = .next (rilSegment k f w) := by
      rw [hrx, canReceived_hears hh, if_neg (by decide), if_pos hf]
      rfl
    rw [hgo]
    refine ⟨fun h1 hi hr => ?_, fun h1 hr => ?_, fun x h1 hr => ⟨fun hbad => ?_, fun hn ha hlast => ?_, fun hn ha hmore => ?_⟩⟩
    · rw [rilSegment_first (s := w) hd h1 hi hr]
      exact ⟨fun h2 => congrArg _ (if_pos h2), fun h2 => congrArg _ (if_neg (by omega))⟩
    · rw [rilSegment_stray (s := w) hd h1 hr]
    · rw [rilSegment_next (s := w) hd h1 hr, if_pos hbad]
      rfl
    · rw [rilSegment_next (s := w) hd h1 hr, if_neg (by omega), if_pos hlast]
      rfl
    · rw [rilSegment_next (s := w) hd h1 hr, if_neg (by omega), if_neg (by omega)]
      rfl
  case window =>
    intro s m k i h hd
    intro w
    have hx : exec (.receiveWindowRead m k i .word) s = .next (regFetch m (0x400F1260 + 0x400 * k.val + 4 * i.val) .word s) := rfl
    rw [hx, canWindow_fetch k i h hd]
    rfl
  case recovery =>
    intro s k hb h0 h2
    exact congrArg Host.Outcome.next (if_pos (by rw [hb, h0, h2]; rfl))
  case late =>
    intro s k i x hr
    have hx : exec (.reassemblyTimeout k i) s = .next (reassemblyTimeout k i s) := rfl
    rw [hx, reassemblyTimeout, hr]
    exact ⟨fun h => congrArg _ (if_pos h), fun h => congrArg _ (if_neg (by omega))⟩
  case noLate =>
    intro s k i hr
    have hx : exec (.reassemblyTimeout k i) s = .next (reassemblyTimeout k i s) := rfl
    rw [hx, reassemblyTimeout, hr]

end Sys2Proof.Machine
end

section
/-! Line supervision and the silent test (chapter 19). -/

namespace Sys2Proof.Machine
open Sys2Proof

/-! ### Results of the line monitors -/

theorem mon_of_sense {s t : State} (h : t.sense = s.sense) (n : Nat) : t.mon n = s.mon n := by
  rw [State.mon, State.mon, h]

theorem sqSet_sense (a b : Nat) (s : State) : (sqSet a [b] s).sense = s.sense := by rw [sqSet_rest]

theorem senseEvent_mon (b m : Nat) (s : State) (n : Nat) : (senseEvent b m s).mon n = s.mon n :=
  mon_of_sense (sqSet_sense _ _ _) n

theorem senseEvent_sq (b m : Nat) (s : State) : (senseEvent b m s).sq Reg.senseEvt = (s.sq Reg.senseEvt).event [b] :=
  sqSet_sq _ _ _ (by decide) (by decide)

theorem senseEvent_rd {a : Nat} (hr : recordReg a = false) (ha : a ≠ Reg.senseEvtSrc) (b m : Nat) (s : State) :
    (senseEvent b m s).rd a = s.rd a := by
  rw [senseEvent, sqSet_rd _ _ _ _ hr, State.rd_wrn, if_neg ha]

/-- The squared magnitude of a phasor. -/
def magSq (re im : Int) : Nat := (re * re + im * im).toNat

/-- |Z| of a monitor's sums: all ones where the current is below one LSB. -/
def resZ (s : State) (n : Nat) : Nat :=
  if magSq (s.mon n).ic (s.mon n).is < (512 * windowUnit) ^ 2 then 0xFFFFFFFF
  else zMag (s.rd (Reg.lmZscale n)).toNat (magSq (s.mon n).vc (s.mon n).vs) (magSq (s.mon n).ic (s.mon n).is)

/-- The phase of a monitor's sums, 0 where the current is below one LSB. -/
def resPh (s : State) (n : Nat) : Int :=
  if magSq (s.mon n).ic (s.mon n).is < (512 * windowUnit) ^ 2 then 0
  else phase64 ((s.mon n).vc * (s.mon n).ic + (s.mon n).vs * (s.mon n).is) ((s.mon n).vs * (s.mon n).ic - (s.mon n).vc * (s.mon n).is)

def resAmp (s : State) (n : Nat) : Int := db64 57 (magSq (s.mon n).vc (s.mon n).vs) ((2 ^ 24 * windowUnit) ^ 2)

/-- The class of a result whose |Z| is `z`. -/
def resCls (s : State) (n z : Nat) : Nat := classify s n z (resPh s n) (resAmp s n) (decide (magSq (s.mon n).vc (s.mon n).vs = 0))

/-- The monitor once its result with |Z| `w` stands. -/
def resMon (s : State) (n : Nat) (w : Word) : Monitor :=
  { s.mon n with
    cls := resCls s n w.toNat, prevOut := decide (resCls s n w.toNat ≠ 0), formed := true, count := ((s.mon n).count + 1) % 256, z := w
    ph := (resPh s n % 65536).toNat, amp := (resAmp s n % 65536).toNat }

/-- What a monitor makes of its result: it learns, watches, or keeps its fault. -/
def judge (s : State) (n : Nat) (w : Word) (t : State) : State :=
  match (s.mon n).st with
  | .learn =>
    if 16 ≤ ((s.mon n).learned ++ [(w.toNat, resPh s n, decide (resCls s n w.toNat = 4))]).length then
      learnEnd n ((s.mon n).learned ++ [(w.toNat, resPh s n, decide (resCls s n w.toNat = 4))]) t
    else t.setMon n { t.mon n with learned := (s.mon n).learned ++ [(w.toNat, resPh s n, decide (resCls s n w.toNat = 4))] }
  | .watch => if decide (resCls s n w.toNat ≠ 0) && (s.mon n).prevOut then declareFault n (resCls s n w.toNat) t else t
  | _ => t

/-- A window's result is formed from its phase `ph` and its |Z| `d.1`. -/
def windowForms (s : State) (m : Nat) (ph : Int) (d : Word × State) : State :=
  let x := s.mon m
  let z := d.1.toNat
  let amp := resAmp s m
  let cls := classify s m z ph amp (decide (magSq x.vc x.vs = 0))
  let s1 := d.2.setMon m { x with
    cls := cls, prevOut := decide (cls ≠ 0), formed := true, count := (x.count + 1) % 256, z := d.1
    ph := (ph % 65536).toNat, amp := (amp % 65536).toNat }
  match x.st with
  | .learn =>
    let l := x.learned ++ [(z, ph, decide (cls = 4))]
    if 16 ≤ l.length then learnEnd m l s1 else s1.setMon m { s1.mon m with learned := l }
  | .watch => if decide (cls ≠ 0) && x.prevOut then declareFault m cls s1 else s1
  | _ => s1

theorem windowResult_due {s : State} {n : Nat} (h : resultDue s n = true) : windowResult n s =
    if 0xFFFFFFFF < resZ s n then judge s n s.draw.1 (s.draw.2.setMon n (resMon s n s.draw.1))
    else judge s n (BitVec.ofNat 32 (resZ s n)) (s.setMon n (resMon s n (BitVec.ofNat 32 (resZ s n)))) := by
  have hz : resZ s n = (if decide (magSq (s.mon n).ic (s.mon n).is < (512 * windowUnit) ^ 2) = true then 0xFFFFFFFF
      else zMag (s.rd (Reg.lmZscale n)).toNat (magSq (s.mon n).vc (s.mon n).vs) (magSq (s.mon n).ic (s.mon n).is)) :=
    if_congr decide_eq_true_iff.symm rfl rfl
  have hp : resPh s n = (if decide (magSq (s.mon n).ic (s.mon n).is < (512 * windowUnit) ^ 2) = true then 0
      else phase64 ((s.mon n).vc * (s.mon n).ic + (s.mon n).vs * (s.mon n).is)
        ((s.mon n).vs * (s.mon n).ic - (s.mon n).vc * (s.mon n).is)) :=
    if_congr decide_eq_true_iff.symm rfl rfl
  have hgo (d : Word × State) (ph : Int) (e : ph = resPh s n) : windowForms s n ph d = judge s n d.1 (d.2.setMon n (resMon s n d.1)) := by
    rw [e]
    rfl
  have hw : windowResult n s = windowForms s n (if decide (magSq (s.mon n).ic (s.mon n).is < (512 * windowUnit) ^ 2) = true then 0
      else phase64 ((s.mon n).vc * (s.mon n).ic + (s.mon n).vs * (s.mon n).is)
        ((s.mon n).vs * (s.mon n).ic - (s.mon n).vc * (s.mon n).is))
      (if decide (0xFFFFFFFF < if decide (magSq (s.mon n).ic (s.mon n).is < (512 * windowUnit) ^ 2) = true then 0xFFFFFFFF
        else zMag (s.rd (Reg.lmZscale n)).toNat (magSq (s.mon n).vc (s.mon n).vs) (magSq (s.mon n).ic (s.mon n).is)) = true then s.draw
      else (BitVec.ofNat 32 (if decide (magSq (s.mon n).ic (s.mon n).is < (512 * windowUnit) ^ 2) = true then 0xFFFFFFFF
        else zMag (s.rd (Reg.lmZscale n)).toNat (magSq (s.mon n).vc (s.mon n).vs) (magSq (s.mon n).ic (s.mon n).is)), s)) := if_pos h
  rw [hw, ← hz, hgo _ _ hp.symm]
  by_cases hbig : 0xFFFFFFFF < resZ s n
  · rw [if_pos hbig, if_pos (decide_eq_true hbig)]
  · rw [if_neg hbig, if_neg (by simpa using hbig)]

theorem resultDue_iff {s : State} {n : Nat} : resultDue s n = true ↔
    s.enabled 12 = true ∧ (s.mon n).st ≠ .off ∧ (s.mon n).formed = false ∧ 15000 ≤ ((s.mon n).age).getD 0 := by
  simp [resultDue, monitorRuns, and_assoc]

/-- A fault declared: the monitor keeps the class, and the FAULT latch is set. -/
theorem declareFault_spec {s t : State} {n : Nat} (cls : Nat) (hrd : t.rd (Reg.lmCfg n) = s.rd (Reg.lmCfg n)) :
    (declareFault n cls t).mon n = { t.mon n with
      st := .fault, cause := cls, palarm := (t.mon n).palarm + 1#16
      relayDue := decide (1 ≤ cls ∧ cls ≤ 3) && s.bit (Reg.lmCfg n) 22 && s.bit (Reg.lmCfg n) (24 + (cls - 1)) } ∧
    (declareFault n cls t).sq Reg.senseEvt = (t.sq Reg.senseEvt).event [0] ∧
    (declareFault n cls t).bit Reg.faultStat 0 = true ∧ (declareFault n cls t).bit Reg.faultStat 2 = true := by
  refine ⟨?_, senseEvent_sq 0 n _, bit_wrn_latch _ 2 (by decide)⟩
  have h (u : State) : (latchFault 2 (senseEvent 0 n u)).mon n = u.mon n := senseEvent_mon 0 n u n
  rw [declareFault]
  dsimp only
  rw [h, State.mon_setMon, if_pos rfl, hrd]
  rfl

/-- The end of learning. -/
theorem learnEnd_spec (n : Nat) (hn : n < 8) (l : List (Nat × Int × Bool)) (t : State) :
    (learnEnd n l t).mon n = { t.mon n with st := .watch, learned := [] } ∧
    (learnEnd n l t).sq Reg.senseEvt = (t.sq Reg.senseEvt).event [if learnOk l = true then 2 else 3] ∧
    (learnEnd n l t).rd (Reg.lmBaseZ n) = (if learnOk l = true then
      BitVec.ofNat 32 (scaleOpen 31 ((l.foldl (fun a x => a + x.1) 0 : Nat) : Int) 1 16).toNat else t.rd (Reg.lmBaseZ n)) := by
  have hrec : ∀ n : Fin 8, recordReg (Reg.lmBaseZ n) = false := by decide
  have hsrc : Reg.lmBaseZ n ≠ Reg.senseEvtSrc := by
    unfold Reg.lmBaseZ Reg.senseEvtSrc
    omega
  have hph : Reg.lmBaseZ n ≠ Reg.lmBasePh n := by
    unfold Reg.lmBaseZ Reg.lmBasePh
    omega
  have hmon (x : Monitor) : (t.setMon n x).mon n = x := by rw [State.mon_setMon, if_pos rfl]
  unfold learnEnd
  dsimp only
  by_cases hok : learnOk l = true
  · simp only [hok, if_true]
    refine ⟨?_, senseEvent_sq 2 n _, ?_⟩
    · rw [senseEvent_mon]
      exact hmon _
    · rw [senseEvent_rd (hrec ⟨n, hn⟩) hsrc, State.rd_wrn, if_neg hph, State.rd_wrn, if_pos rfl]
  · simp only [hok, Bool.false_eq_true, if_false]
    refine ⟨?_, senseEvent_sq 3 n _, ?_⟩
    · rw [senseEvent_mon]
      exact hmon _
    · rw [senseEvent_rd (hrec ⟨n, hn⟩) hsrc]
      rfl

/-- Whatever a monitor makes of its result, the result stands. -/
theorem judge_result {s t : State} {n : Nat} (hn : n < 8) (w : Word) : ((judge s n w t).mon n).z = (t.mon n).z ∧
    ((judge s n w t).mon n).count = (t.mon n).count ∧ ((judge s n w t).mon n).formed = (t.mon n).formed := by
  unfold judge
  split
  · split
    · rw [(learnEnd_spec n hn _ t).1]
      exact ⟨rfl, rfl, rfl⟩
    · rw [State.mon_setMon, if_pos rfl]
      exact ⟨rfl, rfl, rfl⟩
  · split
    · rw [(declareFault_spec (s := t) _ rfl).1]
      exact ⟨rfl, rfl, rfl⟩
    · exact ⟨rfl, rfl, rfl⟩
  · exact ⟨rfl, rfl, rfl⟩

/-! ### Monitors named in a register -/

/-- Each named monitor that meets a condition changes, and nothing else does. -/
theorem foldl_setMon (p : Monitor → Prop) [DecidablePred p] (g : Monitor → Monitor) (l : List Nat) (hl : l.Nodup) (s : State) :
    (l.foldl (fun s m => if p (s.mon m) then s.setMon m (g (s.mon m)) else s) s).regs = s.regs ∧
    (l.foldl (fun s m => if p (s.mon m) then s.setMon m (g (s.mon m)) else s) s).sqs = s.sqs ∧
    ∀ k, (l.foldl (fun s m => if p (s.mon m) then s.setMon m (g (s.mon m)) else s) s).mon k =
      if k ∈ l ∧ p (s.mon k) then g (s.mon k) else s.mon k := by
  induction l generalizing s with
  | nil => exact ⟨rfl, rfl, fun k => (if_neg (by simp)).symm⟩
  | cons m l ih =>
    obtain ⟨hm, hl⟩ := List.nodup_cons.mp hl
    obtain ⟨h1, h2, h3⟩ := ih hl (if p (s.mon m) then s.setMon m (g (s.mon m)) else s)
    have hstep (k : Nat) : (if p (s.mon m) then s.setMon m (g (s.mon m)) else s).mon k =
        if k = m ∧ p (s.mon m) then g (s.mon m) else s.mon k := by
      by_cases hp : p (s.mon m)
      · simp [hp]
      · simp [hp]
    refine ⟨h1.trans (by split <;> rfl), h2.trans (by split <;> rfl), fun k => ?_⟩
    rw [List.foldl_cons, h3, hstep]
    by_cases e : k = m
    · subst e
      simp [hm]
    · simp [e]

theorem bitsOf_nodup (n v : Nat) : (bitsOf n v).Nodup := List.nodup_range.filter _

theorem mem_bitsOf8 (v : BitVec 64) (k : Nat) : k ∈ bitsOf 8 (v.setWidth 32).toNat ↔ k < 8 ∧ v.getLsbD k = true := by
  rw [mem_bitsOf, ← BitVec.testBit_toNat, BitVec.toNat_setWidth, Nat.testBit_mod_two_pow]
  constructor
  · rintro ⟨h, hb⟩
    simp only [Bool.and_eq_true, decide_eq_true_eq] at hb
    exact ⟨h, hb.2⟩
  · rintro ⟨h, hb⟩
    exact ⟨h, by simp only [Bool.and_eq_true, decide_eq_true_eq]; exact ⟨by omega, hb⟩⟩

/-! ### The silent test -/

/-- A valid reference's level at the end of AMBIENT. -/
def ambientRef (s : State) (r : Nat) : State :=
  s.wrn (Reg.vtAmb r) (db64 53 (tget 0 s.vt.sumSq r) (48000 * 2 ^ 48) % 65536).toNat

/-- The level a valid slot wants, from its reference's. -/
def ambientWant (s : State) (k : Nat) (d : Word) : Int :=
  sfld d 0 16 + sfld (s.rd Reg.vtParam) 0 16 - slotGBase s k

/-- A valid slot's level at the end of AMBIENT, from the level `d` of its reference. -/
def ambientLevel (s : State) (k : Nat) (d : Word) : Int := clampInt (-6144) (sfld (s.rd Reg.vtParam) 16 16) (ambientWant s k d)

/-- A valid slot at the end of AMBIENT. -/
def ambientSlot (s : State) (k : Nat) : State :=
  let d := if refValid s (slotRef s k) then (s.rd (Reg.vtAmb (slotRef s k)), s) else s.draw
  let s3 := (d.2.wrf (Reg.slotWord k 8) 0 16 (ambientLevel s k d.1 % 65536).toNat).wrb (Reg.slotWord k 8) 19
    (decide (ambientLevel s k d.1 ≠ ambientWant s k d.1))
  s3.setVtSlot k { s3.vtSlot k with amp := ofDb (ambientLevel s k d.1) }

theorem ambientEnd_due {s : State} (h : s.vt.phase = 2 ∧ 16000 ≤ s.vt.hinges) : ambientEnd s =
    ((validSlots ((validRefs s).foldl ambientRef s)).foldl ambientSlot ((validRefs s).foldl ambientRef s)).modVt fun v =>
      { v with phase := 3, frame := 0 } := if_pos h

theorem foldl_ambientRef (l : List Nat) (s : State) : (l.foldl ambientRef s).sense = s.sense ∧
    (∀ a, (∀ r ∈ l, a ≠ Reg.vtAmb r) → (l.foldl ambientRef s).rd a = s.rd a) ∧
    ∀ r ∈ l, (l.foldl ambientRef s).rd (Reg.vtAmb r) =
      BitVec.ofNat 32 (db64 53 (tget 0 s.vt.sumSq r) (48000 * 2 ^ 48) % 65536).toNat := by
  induction l generalizing s with
  | nil => exact ⟨rfl, fun _ _ => rfl, fun _ h => nomatch h⟩
  | cons r l ih =>
    obtain ⟨h1, h2, h3⟩ := ih (ambientRef s r)
    refine ⟨h1, fun a ha => ?_, fun j hj => ?_⟩
    · rw [List.foldl_cons, h2 a fun j hj => ha j (List.mem_cons_of_mem _ hj), ambientRef, State.rd_wrn,
        if_neg (ha r List.mem_cons_self)]
    · by_cases hjl : j ∈ l
      · exact h3 j hjl
      · obtain rfl := (List.mem_cons.mp hj).resolve_right hjl
        have hne : ∀ i ∈ l, Reg.vtAmb j ≠ Reg.vtAmb i := fun i hi he => hjl (by
          unfold Reg.vtAmb at he
          obtain rfl : i = j := by omega
          exact hi)
        rw [List.foldl_cons, h2 _ hne, ambientRef, State.rd_wrn, if_pos rfl]

/-- What one slot's level changes: that slot alone. -/
theorem ambientSlot_frame (s : State) (k : Nat) : (∀ a, a ≠ Reg.slotWord k 8 → (ambientSlot s k).rd a = s.rd a) ∧
    ∀ j, j ≠ k → (ambientSlot s k).vtSlot j = s.vtSlot j := by
  unfold ambientSlot
  dsimp only
  generalize hd : (if refValid s (slotRef s k) then (s.rd (Reg.vtAmb (slotRef s k)), s) else s.draw) = d
  have hd2 : d.2.regs = s.regs ∧ d.2.sense = s.sense := by
    rw [← hd]
    split <;> exact ⟨rfl, rfl⟩
  refine ⟨fun a ha => ?_, fun j hj => ?_⟩
  · have h2 : d.2.rd a = s.rd a := by rw [State.rd, State.rd, hd2.1]
    rw [← h2]
    exact (State.rd_wrb_ne ha _ _ _).trans (by rw [State.wrf, State.rd_wr, if_neg ha])
  · rw [State.vtSlot_setVtSlot, if_neg hj]
    show tget VtSlot.none d.2.sense.vt.slots j = _
    rw [hd2.2]
    rfl

theorem ambientSlot_valid {s : State} {k : Nat} (h : refValid s (slotRef s k) = true) :
    (ambientSlot s k).rd (Reg.slotWord k 8) = wsetBit (setFld (s.rd (Reg.slotWord k 8)) 0 16
      (ambientLevel s k (s.rd (Reg.vtAmb (slotRef s k))) % 65536).toNat) 19
      (decide (ambientLevel s k (s.rd (Reg.vtAmb (slotRef s k))) ≠ ambientWant s k (s.rd (Reg.vtAmb (slotRef s k))))) ∧
    ((ambientSlot s k).vtSlot k).amp = ofDb (ambientLevel s k (s.rd (Reg.vtAmb (slotRef s k)))) := by
  unfold ambientSlot
  rw [if_pos h]
  dsimp only
  generalize ambientLevel s k (s.rd (Reg.vtAmb (slotRef s k))) = lvl
  generalize ambientWant s k (s.rd (Reg.vtAmb (slotRef s k))) = want
  refine ⟨?_, ?_⟩
  · show (((s.wrf (Reg.slotWord k 8) 0 16 (lvl % 65536).toNat).wrb (Reg.slotWord k 8) 19 (decide (lvl ≠ want))).rd _) = _
    rw [State.wrb, State.rd_wr, if_pos rfl, State.wrf, State.rd_wr, if_pos rfl]
  · rw [State.vtSlot_setVtSlot, if_pos rfl]

theorem foldl_ambientSlot_frame (l : List Nat) (s : State) :
    (∀ a, (∀ k ∈ l, a ≠ Reg.slotWord k 8) → (l.foldl ambientSlot s).rd a = s.rd a) ∧
    ∀ j, j ∉ l → (l.foldl ambientSlot s).vtSlot j = s.vtSlot j := by
  induction l generalizing s with
  | nil => exact ⟨fun _ _ => rfl, fun _ _ => rfl⟩
  | cons k l ih =>
    obtain ⟨h1, h2⟩ := ih (ambientSlot s k)
    obtain ⟨h3, h4⟩ := ambientSlot_frame s k
    refine ⟨fun a ha => (h1 a fun j hj => ha j (List.mem_cons_of_mem _ hj)).trans (h3 a (ha k List.mem_cons_self)), fun j hj => ?_⟩
    rw [List.mem_cons, not_or] at hj
    exact (h2 j hj.2).trans (h4 j hj.1)

/-- A slot's own level depends on registers that no slot's level changes. -/
theorem foldl_ambientSlot_valid {l : List Nat} (hl : l.Nodup) (h16 : ∀ j ∈ l, j < 16) {s : State} {k : Nat} (hk : k ∈ l)
    (h : refValid s (slotRef s k) = true) :
    (l.foldl ambientSlot s).rd (Reg.slotWord k 8) = wsetBit (setFld (s.rd (Reg.slotWord k 8)) 0 16
      (ambientLevel s k (s.rd (Reg.vtAmb (slotRef s k))) % 65536).toNat) 19
      (decide (ambientLevel s k (s.rd (Reg.vtAmb (slotRef s k))) ≠ ambientWant s k (s.rd (Reg.vtAmb (slotRef s k))))) ∧
    ((l.foldl ambientSlot s).vtSlot k).amp = ofDb (ambientLevel s k (s.rd (Reg.vtAmb (slotRef s k)))) := by
  obtain ⟨l1, l2, rfl⟩ := List.append_of_mem hk
  have hn := List.nodup_middle.mp hl
  obtain ⟨hk12, -⟩ := List.nodup_cons.mp hn
  rw [List.mem_append, not_or] at hk12
  rw [List.foldl_append, List.foldl_cons]
  generalize ht : l1.foldl ambientSlot s = t
  obtain ⟨hb, -⟩ := foldl_ambientSlot_frame l1 s
  rw [ht] at hb
  obtain ⟨ha1, ha2⟩ := foldl_ambientSlot_frame l2 (ambientSlot t k)
  have hsame (a : Nat) (h8 : ∀ j < 16, j ≠ k → a ≠ Reg.slotWord j 8) : t.rd a = s.rd a :=
    hb a fun j hj => h8 j (h16 j (List.mem_append_left _ hj)) fun e => hk12.1 (e ▸ hj)
  have hcfg : t.rd (Reg.slotWord k 0) = s.rd (Reg.slotWord k 0) := hsame _ fun j _ _ => by unfold Reg.slotWord; omega
  have hbase : t.rd (Reg.slotWord k 4) = s.rd (Reg.slotWord k 4) := hsame _ fun j _ _ => by unfold Reg.slotWord; omega
  have hparam : t.rd Reg.vtParam = s.rd Reg.vtParam := hsame _ fun j _ _ => by unfold Reg.slotWord Reg.vtParam; omega
  have hown : t.rd (Reg.slotWord k 8) = s.rd (Reg.slotWord k 8) := hsame _ fun j _ hj => by unfold Reg.slotWord; omega
  have href : slotRef t k = slotRef s k := by rw [slotRef, slotRef, State.rdf, State.rdf, hcfg]
  have hlt : slotRef s k < 4 := fld_lt _ 8 2
  have hamb : t.rd (Reg.vtAmb (slotRef s k)) = s.rd (Reg.vtAmb (slotRef s k)) :=
    hsame _ fun j _ _ => by unfold Reg.slotWord Reg.vtAmb; omega
  have hval : refValid t (slotRef t k) = true := by
    have hr : t.rd (Reg.vtRef (slotRef s k)) = s.rd (Reg.vtRef (slotRef s k)) :=
      hsame _ fun j _ _ => by unfold Reg.slotWord Reg.vtRef; omega
    rw [href, refValid, State.bit, hr]
    exact h
  have hwant (d : Word) : ambientWant t k d = ambientWant s k d := by
    rw [ambientWant, ambientWant, hparam, slotGBase, slotGBase, hbase]
  have hlevel (d : Word) : ambientLevel t k d = ambientLevel s k d := by rw [ambientLevel, ambientLevel, hwant, hparam]
  obtain ⟨h1, h2⟩ := ambientSlot_valid hval
  rw [ha1 _ fun j hj => by
    unfold Reg.slotWord
    have : k ≠ j := fun e => hk12.2 (e ▸ hj)
    omega, ha2 k hk12.2, h1, h2, href, hamb, hown, hwant, hlevel]
  exact ⟨rfl, rfl⟩

/-- The buffers of the valid references are zeroed. -/
theorem foldl_vtClear (l : List Nat) (s : State) :
    (l.foldl (fun s r => s.mclr (0x30000000 + vtBuffer s r) (0x30000000 + vtBuffer s r + 0x80000)) s).sense = s.sense ∧
    ∀ a, memGet (l.foldl (fun s r => s.mclr (0x30000000 + vtBuffer s r) (0x30000000 + vtBuffer s r + 0x80000)) s).mem a =
      if l.any (fun r => decide (0x30000000 + vtBuffer s r ≤ a ∧ a < 0x30000000 + vtBuffer s r + 0x80000))
      then 0#8 else memGet s.mem a := by
  induction l generalizing s with
  | nil => exact ⟨rfl, fun _ => rfl⟩
  | cons r l ih =>
    obtain ⟨h1, h2⟩ := ih (s.mclr (0x30000000 + vtBuffer s r) (0x30000000 + vtBuffer s r + 0x80000))
    refine ⟨h1, fun a => ?_⟩
    have hz : memGet (memZero s.mem (0x30000000 + vtBuffer s r) (0x30000000 + vtBuffer s r + 0x80000)) a =
        if 0x30000000 + vtBuffer s r ≤ a ∧ a < 0x30000000 + vtBuffer s r + 0x80000 then 0#8 else memGet s.mem a := by
      rw [memGet_memZero]
      by_cases h : 0x30000000 + vtBuffer s r ≤ a ∧ a < 0x30000000 + vtBuffer s r + 0x80000
      · rw [if_neg (by omega), if_pos h]
        rfl
      · rw [if_pos (by omega), if_neg h]
    have hany : (l.any fun j => decide (0x30000000 + vtBuffer (s.mclr (0x30000000 + vtBuffer s r) (0x30000000 + vtBuffer s r + 0x80000)) j ≤ a ∧
        a < 0x30000000 + vtBuffer (s.mclr (0x30000000 + vtBuffer s r) (0x30000000 + vtBuffer s r + 0x80000)) j + 0x80000)) =
        l.any fun j => decide (0x30000000 + vtBuffer s j ≤ a ∧ a < 0x30000000 + vtBuffer s j + 0x80000) := rfl
    have hmem : (s.mclr (0x30000000 + vtBuffer s r) (0x30000000 + vtBuffer s r + 0x80000)).mem =
        memZero s.mem (0x30000000 + vtBuffer s r) (0x30000000 + vtBuffer s r + 0x80000) := rfl
    rw [List.foldl_cons, h2 a, List.any_cons, hany, hmem, hz]
    by_cases h : 0x30000000 + vtBuffer s r ≤ a ∧ a < 0x30000000 + vtBuffer s r + 0x80000
    · rw [if_pos h, decide_eq_true h, Bool.true_or, if_pos rfl, ite_self]
    · rw [if_neg h, decide_eq_false h, Bool.false_or]

/-- Every live slot of a list fades. -/
theorem foldl_vtFade (l : List Nat) (hl : l.Nodup) (s : State) (k : Nat) :
    (l.foldl (fun s k => if (s.vtSlot k).live then s.setVtSlot k { s.vtSlot k with fade := some (480, 480) } else s) s).vtSlot k =
      if k ∈ l ∧ (s.vtSlot k).live = true then { s.vtSlot k with fade := some (480, 480) } else s.vtSlot k := by
  induction l generalizing s with
  | nil => exact (if_neg (by simp)).symm
  | cons j l ih =>
    obtain ⟨hj, hl⟩ := List.nodup_cons.mp hl
    have hstep : (if (s.vtSlot j).live then s.setVtSlot j { s.vtSlot j with fade := some (480, 480) } else s).vtSlot k =
        if k = j ∧ (s.vtSlot j).live = true then { s.vtSlot j with fade := some (480, 480) } else s.vtSlot k := by
      by_cases hp : (s.vtSlot j).live = true
      · simp [hp]
      · simp [hp]
    rw [List.foldl_cons, ih hl, hstep]
    by_cases e : k = j
    · subst e
      simp [hj]
    · simp [e]

/-! ### VT_CTRL -/

theorem vtCtrl_access {s : State} {m : Master} (v : BitVec 64) (h : reaches s m true 0x400C0400 = true) :
    regAccess m 0x400C0400 .word v s = vtCtrl (v.setWidth 32) s :=
  (regAccess_w1 s m _ v h (row_of_map_cls (k := 3) (by decide)) (by decide) (by decide) (by decide)).trans rfl

theorem passStart_may {s : State} (h : s.enabled 12 = true ∧ (s.vt.phase = 0 ∨ s.vt.phase = 6) ∧
    (s.modes.mode = .service ∨ s.modes.mode = .watch) ∧ s.modes.sleep = .awake) : passStart s =
      if (validRefs s).any fun r => decide (0x800000 < vtBuffer s r + 0x80000) then vtEvent 1 s else passBegin s := if_pos h

theorem passRuns_iff {s : State} : passRuns s = true ↔ 1 ≤ s.vt.phase ∧ s.vt.phase ≤ 5 := decide_eq_true_iff

theorem vtCtrl_start {s : State} (v : BitVec 64) (h : passRuns s = false ∨ v.getLsbD 1 = false) :
    vtCtrl ((v ||| 1#64).setWidth 32) s = passStart s := by
  have h0 : ((v ||| 1#64).setWidth 32).getLsbD 0 = true := by simp
  have h1 : ((v ||| 1#64).setWidth 32).getLsbD 1 = v.getLsbD 1 := by simp
  rw [vtCtrl, h0, h1, if_pos rfl]
  obtain h | h := h
  · have hstop : abortPass s = s := if_neg (by rw [h]; decide)
    rw [hstop, ite_self]
  · rw [if_neg (by rw [h]; decide)]

theorem vtCtrl_abort {s : State} (v : BitVec 64) : vtCtrl ((v ||| 2#64).setWidth 32) s =
    if v.getLsbD 0 then passStart (abortPass s) else abortPass s := by
  have h0 : ((v ||| 2#64).setWidth 32).getLsbD 0 = v.getLsbD 0 := by simp
  have h1 : ((v ||| 2#64).setWidth 32).getLsbD 1 = true := by simp
  rw [vtCtrl, h0, h1, if_pos rfl]

theorem passStart_not {s : State} (h : ¬ (s.enabled 12 = true ∧ (s.vt.phase = 0 ∨ s.vt.phase = 6) ∧
    (s.modes.mode = .service ∨ s.modes.mode = .watch) ∧ s.modes.sleep = .awake)) : passStart s = s := if_neg h

/-- Settles O49: a window's result by the monitor's state, and the pass by its phase. -/
theorem linesAreJudgedAndTheSilentTestRuns : Obligations.LinesAreJudgedAndTheSilentTestRuns := by
  unfold Obligations.LinesAreJudgedAndTheSilentTestRuns
  intro res sumsq
  have hwin (s : State) (n : Fin 8) : exec (.windowResult n) s = .next (windowResult n s) := rfl
  refine ⟨?notDue, ?due, ?relay, ?ack, ?learn, ?control, ?ambient, ?preroll, ?accum, ?transform, ?early⟩
  case notDue =>
    intro s n h
    rw [hwin]
    refine congrArg _ (if_neg ?_)
    rw [resultDue_iff]
    rintro ⟨h1, h2, h3, h4⟩
    obtain h | h | h | h := h
    · rw [h] at h1
      cases h1
    · exact h2 h
    · rw [h] at h3
      cases h3
    · cases ha : (s.mon n).age with
      | none => rw [ha] at h4; exact absurd h4 (by decide)
      | some a =>
        rw [ha] at h4
        exact absurd (h a ha) (by rw [Option.getD_some] at h4; omega)
  case due =>
    intro s n a h1 h2 h3 ha h4
    intro x i2 v2 low z ph amp cls t l
    have hdue := windowResult_due (resultDue_iff.mpr ⟨h1, h2, h3, by rw [ha]; exact h4⟩ : resultDue s n = true)
    have hz : resZ s n = z := rfl
    have hp : resPh s n = ph := rfl
    have hsmall (h : z ≤ 0xFFFFFFFF) : exec (.windowResult n) s = .next (judge s n (BitVec.ofNat 32 z) t) ∧
        resCls s n (BitVec.ofNat 32 z).toNat = cls ∧ (BitVec.ofNat 32 z).toNat = z := by
      have hw : (BitVec.ofNat 32 z).toNat = z := by rw [BitVec.toNat_ofNat, Nat.mod_eq_of_lt (by omega)]
      have ht : s.setMon n (resMon s n (BitVec.ofNat 32 z)) = t := by
        rw [resMon, hw]
        rfl
      refine ⟨?_, by rw [hw]; rfl, hw⟩
      rw [hwin, hdue, hz, if_neg (by omega), ht]
    refine ⟨fun h hst => ?keep, fun h hst hc hout => ?fault, fun h hst hlen => ?learning, fun h hst hlen => ?learnt, fun h => ?big⟩
    case keep =>
      obtain ⟨hgo, hcls, -⟩ := hsmall h
      rw [hgo, judge]
      obtain hst | ⟨hst, hn⟩ := hst
      · rw [hst]
      · rw [hst]
        refine congrArg _ (if_neg ?_)
        rw [hcls]
        simpa using hn
    case fault =>
      obtain ⟨hgo, hcls, -⟩ := hsmall h
      have hj : judge s n (BitVec.ofNat 32 z) t = declareFault n cls t := by
        rw [judge, hst]
        dsimp only
        rw [hcls]
        exact if_pos (by rw [decide_eq_true hc, hout]; rfl)
      obtain ⟨hmon, hsq, hb0, hb2⟩ := declareFault_spec (s := s) (t := t) (n := n) cls rfl
      have htm : t.mon n = _ := (State.mon_setMon s n n _).trans (if_pos rfl)
      rw [hgo, hj]
      refine ⟨_, rfl, ?_, ?_, ?_, hsq, hb0, hb2, ?_⟩
      · rw [hmon]
      · rw [hmon]
      · rw [hmon, htm]
      · rw [hmon]
    case learning =>
      obtain ⟨hgo, hcls, hw⟩ := hsmall h
      rw [hgo, judge, hst]
      dsimp only
      rw [hcls, hw, hp]
      have hlen' : (s.mon n).learned.length < 15 := hlen
      exact congrArg _ (if_neg (by rw [List.length_append, List.length_singleton]; omega))
    case learnt =>
      obtain ⟨hgo, hcls, hw⟩ := hsmall h
      have hj : judge s n (BitVec.ofNat 32 z) t = learnEnd n l t := by
        rw [judge, hst]
        dsimp only
        rw [hcls, hw, hp]
        have hlen' : 15 ≤ (s.mon n).learned.length := hlen
        exact if_pos (by rw [List.length_append, List.length_singleton]; omega)
      obtain ⟨hmon, hsq, hrd⟩ := learnEnd_spec n n.isLt l t
      rw [hgo, hj]
      exact ⟨_, rfl, by rw [hmon], hsq, hrd⟩
    case big =>
      rw [hwin, hdue, hz, if_pos h]
      obtain ⟨hjz, hjc, hjf⟩ := judge_result (s := s) (t := s.draw.2.setMon n (resMon s n s.draw.1)) n.isLt s.draw.1
      have hm : (s.draw.2.setMon n (resMon s n s.draw.1)).mon n = resMon s n s.draw.1 := (State.mon_setMon _ n n _).trans (if_pos rfl)
      rw [hm] at hjz hjc hjf
      exact ⟨_, rfl, hjz, hjc, hjf⟩
  case relay =>
    intro s n
    have hx : exec (.relayDrive n) s = .next (relayDrive n s) := rfl
    rw [hx, relayDrive]
    refine ⟨fun h => congrArg _ (if_neg ?_), fun hd ha => ?_⟩
    · simp only [Bool.and_eq_true, bne_iff_ne]
      rintro ⟨h1, h2⟩
      obtain h | h := h
      · rw [h] at h1
        cases h1
      · exact h2 h
    · rw [if_pos (by rw [hd, Bool.true_and, bne_iff_ne]; exact ha)]
      refine ⟨_, rfl, ?_, ?_, senseEvent_sq 1 n _⟩
      · rw [State.bit, senseEvent_rd (by decide) (by decide)]
        exact (State.bit_wrb _ _ _ _ _ (by omega)).trans (by simp)
      · rw [senseEvent_mon]
        show ((s.setMon n _).mon n).relayDue = false
        rw [State.mon_setMon, if_pos rfl]
  case ack =>
    intro s m v h
    have hx : exec (.lmAck m .word v) s = .next (lmAck (v.setWidth 32) s) := congrArg Host.Outcome.next
      ((regAccess_w1 s m 0x400C0028 v h (row_of_map_cls (k := 0xFF) (by decide)) (by decide) (by decide) (by decide)).trans rfl)
    obtain ⟨h1, h2, h3⟩ := foldl_setMon (fun x => x.st = .fault ∧ x.cls = 0) (fun x => { x with st := .watch, prevOut := false })
      (bitsOf 8 (v.setWidth 32).toNat) (bitsOf_nodup _ _) s
    refine ⟨_, hx, h1, h2, fun k => (h3 k).trans (if_congr ?_ rfl rfl)⟩
    rw [mem_bitsOf8, and_assoc]
  case learn =>
    intro s m v h
    have hx : exec (.lmLearn m .word v) s = .next (lmLearn (v.setWidth 32) s) := congrArg Host.Outcome.next
      ((regAccess_w1 s m 0x400C002C v h (row_of_map_cls (k := 0xFF) (by decide)) (by decide) (by decide) (by decide)).trans rfl)
    obtain ⟨h1, h2, h3⟩ := foldl_setMon (fun x => x.st = .watch ∨ x.st = .learn) (fun x => { x with learnDue := true })
      (bitsOf 8 (v.setWidth 32).toNat) (bitsOf_nodup _ _) s
    refine ⟨_, hx, h1, h2, fun k => (h3 k).trans (if_congr ?_ rfl rfl)⟩
    rw [mem_bitsOf8, and_assoc]
  case control =>
    intro s m v h
    intro may tooBig
    have hs : exec (.passStart m .word v) s = .next (vtCtrl ((v ||| 1#64).setWidth 32) s) := congrArg Host.Outcome.next (vtCtrl_access _ h)
    have ha : exec (.abort m .word v) s = .next (vtCtrl ((v ||| 2#64).setWidth 32) s) := congrArg Host.Outcome.next (vtCtrl_access _ h)
    have hstop (hm : may) : passRuns s = false := by
      obtain ⟨-, hm, -⟩ := hm
      rw [← Bool.not_eq_true, passRuns_iff]
      omega
    rw [hs, ha]
    refine ⟨fun hm hb => ?_, fun hm hb => ?_, fun hm hv => ?_, fun hr => ?_, fun hr hv => ?_⟩
    · rw [vtCtrl_start v (.inl (hstop hm)), passStart_may hm, if_neg (Bool.eq_false_iff.mp hb)]
      rfl
    · rw [vtCtrl_start v (.inl (hstop hm)), passStart_may hm, if_pos hb]
      rfl
    · rw [vtCtrl_start v (.inr hv), passStart_not hm]
    · have habort : abortPass s = s.modVt fun x => { x with abortDue := true } := if_pos hr
      have hnot : passStart (abortPass s) = abortPass s := by
        rw [passRuns_iff] at hr
        refine passStart_not ?_
        rw [habort]
        rintro ⟨-, hp, -⟩
        have hp' : s.vt.phase = 0 ∨ s.vt.phase = 6 := hp
        omega
      rw [vtCtrl_abort, hnot, ite_self, habort]
    · rw [vtCtrl_abort, if_neg (by rw [hv]; decide), abortPass, if_neg (by rw [hr]; decide)]
  case ambient =>
    intro s hp hh
    have hx : exec .ambientEnd s = .next (ambientEnd s) := rfl
    rw [hx, ambientEnd_due ⟨hp, hh⟩]
    obtain ⟨h1, h2, h3⟩ := foldl_ambientRef (validRefs s) s
    generalize (validRefs s).foldl ambientRef s = t at h1 h2 h3 ⊢
    have hlow (r : Nat) (hr : r ∈ validRefs s) : r < 4 := List.mem_range.mp (List.mem_filter.mp hr).1
    have hslot (j o : Nat) (hj : j < 16) (ho : o < 0x20) : t.rd (Reg.slotWord j o) = s.rd (Reg.slotWord j o) :=
      h2 _ fun r hr => by
        have := hlow r hr
        unfold Reg.slotWord Reg.vtAmb
        omega
    have hvs : validSlots t = validSlots s := List.filter_congr fun j hj => by
      rw [slotValid, slotValid, State.bit, State.bit, hslot j 0 (List.mem_range.mp hj) (by decide)]
    have h16 : ∀ j ∈ validSlots s, j < 16 := fun j hj => List.mem_range.mp (List.mem_filter.mp hj).1
    have hamb (r : Nat) (hr : r < 4) : ((validSlots t).foldl ambientSlot t).rd (Reg.vtAmb r) = t.rd (Reg.vtAmb r) :=
      (foldl_ambientSlot_frame _ t).1 _ fun j hj => by
        have := h16 j (hvs ▸ hj)
        unfold Reg.slotWord Reg.vtAmb
        omega
    refine ⟨_, rfl, rfl, rfl, ?_, ?_⟩
    · intro r hr
      exact (hamb r (hlow r hr)).trans (h3 r hr)
    · intro k hk hv
      intro want lvl
      have hk16 := h16 k hk
      have href : slotRef t k = slotRef s k := by rw [slotRef, slotRef, State.rdf, State.rdf, hslot k 0 hk16 (by decide)]
      have hlt : slotRef s k < 4 := fld_lt _ 8 2
      have hval : refValid t (slotRef t k) = true := by
        have : t.rd (Reg.vtRef (slotRef s k)) = s.rd (Reg.vtRef (slotRef s k)) := h2 _ fun r hr => by
          have := hlow r hr
          unfold Reg.vtRef Reg.vtAmb
          omega
        rw [href, refValid, State.bit, this]
        exact hv
      have hparam : t.rd Reg.vtParam = s.rd Reg.vtParam := h2 _ fun r hr => by
        unfold Reg.vtParam Reg.vtAmb
        omega
      have hwant : ambientWant t k (t.rd (Reg.vtAmb (slotRef t k))) = want := by
        rw [href, ambientWant, hparam, slotGBase, hslot k 4 hk16 (by decide), ← hamb _ hlt]
        rfl
      have hlevel : ambientLevel t k (t.rd (Reg.vtAmb (slotRef t k))) = lvl := by rw [ambientLevel, hwant, hparam]
      obtain ⟨ha, hb⟩ := foldl_ambientSlot_valid (l := validSlots t) (List.nodup_range.filter _) (hvs ▸ h16) (hvs ▸ hk) hval
      rw [hlevel, hwant, hslot k 8 hk16 (by decide)] at ha
      rw [hlevel] at hb
      exact ⟨ha, hb⟩
  case preroll =>
    intro s hp hf
    have hx : exec .prerollEnd s = .next (prerollEnd s) := rfl
    obtain ⟨h1, h2⟩ := foldl_vtClear (validRefs s) s
    rw [hx, prerollEnd, if_pos ⟨hp, hf⟩]
    refine ⟨_, rfl, ?_, h2⟩
    dsimp only
    generalize List.foldl _ s _ = t at h1 ⊢
    show { t.sense.vt with phase := 4, periods := 0 } = { s.sense.vt with phase := 4, periods := 0 }
    rw [h1]
  case accum =>
    intro s hp hf
    have hx : exec .accumEnd s = .next (accumEnd s) := rfl
    rw [hx, accumEnd, if_pos ⟨hp, hf⟩]
    refine ⟨_, rfl, rfl, fun k hk => ?_⟩
    have h := foldl_vtFade (List.range 16) List.nodup_range s k
    dsimp only
    generalize List.foldl _ s _ = t at h ⊢
    show t.vtSlot k = _
    rw [h]
    simp [hk]
  case transform =>
    intro s hp
    exact congrArg Host.Outcome.next (if_pos hp)
  case early =>
    intro s
    exact ⟨fun h => congrArg Host.Outcome.next (if_neg (by omega)), fun h => congrArg Host.Outcome.next (if_neg (by omega)),
      fun h => congrArg Host.Outcome.next (if_neg (by omega)), fun h => congrArg Host.Outcome.next (if_neg h)⟩

end Sys2Proof.Machine
end

section
/-! The handlers' answers, the log and the tenants of the dictionary (chapter 16). -/

namespace Sys2Proof.Machine
open Sys2Proof

/-! ### Answers -/

/-- A state that differs from another in nothing that the room for a response depends on. -/
theorem HasRoom.congr {t : Nat} {q q' : Req} {s u : State} (h : HasRoom t q s) (ht : u.tenant t = s.tenant t) (hr : u.regs = s.regs)
    (hl : u.ril = s.ril) (hs : q'.sess = q.sess) (hi : q'.sid = q.sid) : HasRoom t q' u := by
  obtain ⟨hlen, hsess⟩ := h
  have hq : u.queueSize (8 * t + 2) = s.queueSize (8 * t + 2) := by simp only [State.queueSize, State.rdf, State.rd, hr]
  refine ⟨by rw [ht, hq]; exact hlen, ?_⟩
  rw [reqSession, hs, hi, hl]
  exact hsess

theorem reqOf_congr {t tag : Nat} {q : Req} {s u : State} (h : reqOf s t tag = some q) (ht : u.tenant t = s.tenant t) :
    reqOf u t tag = some q := by
  rw [reqOf, ht]
  exact h

section
variable {s : State} {t : Nat} {q : Req}

theorem handlerEnd_fails (hq : reqOf s t q.tag = some q) {result : Nat} (h : result ≠ 0) :
    handlerEnd t q.tag result s = finish t q.tag 14 0#32 result [] s := by
  rw [handlerEnd, hq]
  exact if_pos h

/-- A READ that a handler answered gets a value that nothing fixes. -/
theorem handlerEnd_read (hq : reqOf s t q.tag = some q) {i sub : Nat} (hop : q.op = .read i sub) :
    ∃ b f, handlerEnd t q.tag 0 s = finish t q.tag 0 0#32 0 b { s with free := f } := by
  have hv (r : DRec) : ∃ f, (handlerValue r s).2 = { s with free := f } := by
    obtain ⟨f, hf⟩ := drawBytes_state ((r.len + 3) / 4 + 2) s
    rw [handlerValue]
    split
    · exact ⟨f, hf⟩
    · refine ⟨f + 1, ?_⟩
      show (drawBytes ((r.len + 3) / 4 + 2) s).2.draw.2 = _
      rw [hf]
      rfl
  rw [handlerEnd, hq]
  dsimp only
  rw [if_neg (by decide), hop]
  dsimp only
  cases recOf s i sub with
  | none => exact ⟨[], s.free, rfl⟩
  | some r =>
    obtain ⟨f, hf⟩ := hv r
    refine ⟨(handlerValue r s).1, f, ?_⟩
    dsimp only
    rw [hf]

theorem handlerEnd_write (hq : reqOf s t q.tag = some q) {m : Member} (hop : q.op = .write m) (hlog : logMembers s t q.tag q.warden [m] = []) :
    handlerEnd t q.tag 0 s = finish t q.tag 0 0#32 0 [] (noteLengths [m] s) := by
  rw [handlerEnd, hq]
  dsimp only
  rw [if_neg (by decide), hop]
  dsimp only
  rw [writeInForce, hq]
  dsimp only
  rw [hop]
  exact if_pos hlog

/-- The last record of a request answers it. -/
theorem recordLogged_last {r : LogRec} (hq : reqOf s r.tenant r.tag = some q) (hst : q.st = .logging 1) (ok : Bool) :
    recordLogged r ok s = finish r.tenant r.tag (if ok then q.status else 15) q.hinge q.detail [] s := by
  rw [recordLogged, hq]
  dsimp only
  rw [hst]
  exact if_pos (by decide)
end

/-! ### Resets of tenants -/

theorem cancelSwap_eq (s : State) : ∃ e, cancelSwap s = { s with eng := e } := by
  unfold cancelSwap
  split
  · exact ⟨_, rfl⟩
  · exact ⟨s.eng, rfl⟩

/-- A reset of a tenant that exists marks it; a swap of its may be cancelled. -/
theorem requestReset_exists {s : State} {t : Nat} (h : (s.tenant t).st ≠ .absent) (d : Bool) : ∃ e, requestReset t d s =
    { s with eng := e }.setTenant t { s.tenant t with
      st := .resetting, resetting := max 1 (s.tenant t).resetting, del := (s.tenant t).del || d } := by
  rw [requestReset]
  dsimp only
  rw [if_neg h]
  split
  · obtain ⟨e, he⟩ := cancelSwap_eq s
    rw [he]
    exact ⟨e, rfl⟩
  · exact ⟨s.eng, rfl⟩

theorem requestReset_tenant {s : State} {t : Nat} (h : (s.tenant t).st ≠ .absent) (d : Bool) (k : Nat) :
    (requestReset t d s).tenant k = if k = t then { s.tenant t with
      st := .resetting, resetting := max 1 (s.tenant t).resetting, del := (s.tenant t).del || d } else s.tenant k := by
  obtain ⟨e, he⟩ := requestReset_exists h d
  rw [he, State.tenant_setTenant]
  rfl

theorem requestReset_absent {s : State} {t : Nat} (h : (s.tenant t).st = .absent) (d : Bool) : requestReset t d s = s := if_pos h

theorem requestReset_stores (t : Nat) (d : Bool) (s : State) : (requestReset t d s).regs = s.regs ∧ (requestReset t d s).sqs = s.sqs ∧
    (requestReset t d s).mem = s.mem := by
  by_cases h : (s.tenant t).st = .absent
  · rw [requestReset_absent h]
    exact ⟨rfl, rfl, rfl⟩
  · obtain ⟨e, he⟩ := requestReset_exists h d
    rw [he]
    exact ⟨rfl, rfl, rfl⟩

theorem foldl_requestReset (l : List Nat) (hl : l.Nodup) (s : State) :
    (l.foldl (fun s t => requestReset t false s) s).regs = s.regs ∧ (l.foldl (fun s t => requestReset t false s) s).sqs = s.sqs ∧
    (l.foldl (fun s t => requestReset t false s) s).mem = s.mem ∧
    ∀ k, (l.foldl (fun s t => requestReset t false s) s).tenant k = if k ∈ l ∧ (s.tenant k).st ≠ .absent then { s.tenant k with
      st := .resetting, resetting := max 1 (s.tenant k).resetting, del := (s.tenant k).del || false } else s.tenant k := by
  induction l generalizing s with
  | nil => exact ⟨rfl, rfl, rfl, fun k => (if_neg (by simp)).symm⟩
  | cons t l ih =>
    obtain ⟨ht, hl⟩ := List.nodup_cons.mp hl
    obtain ⟨h1, h2, h3, h4⟩ := ih hl (requestReset t false s)
    obtain ⟨g1, g2, g3⟩ := requestReset_stores t false s
    refine ⟨h1.trans g1, h2.trans g2, h3.trans g3, fun k => ?_⟩
    rw [List.foldl_cons, h4]
    have hstep : (requestReset t false s).tenant k = if k = t ∧ (s.tenant t).st ≠ .absent then { s.tenant t with
        st := .resetting, resetting := max 1 (s.tenant t).resetting, del := (s.tenant t).del || false } else s.tenant k := by
      by_cases h : (s.tenant t).st = .absent
      · rw [requestReset_absent h, if_neg (by simp [h])]
      · rw [requestReset_tenant h]
        simp [h]
    by_cases e : k = t
    · subst e
      rw [if_neg (by simp [ht]), hstep]
      simp
    · rw [hstep]
      simp [e]

/-! ### A lost heartbeat -/

theorem incSat_rd_congr {s u : State} {a : Nat} (h : u.rd a = s.rd a) : (u.incSat a).rd a = (s.incSat a).rd a := by
  have e : u.rdf a 0 16 = s.rdf a 0 16 := by rw [State.rdf, State.rdf, h]
  unfold State.incSat
  dsimp only
  rw [e]
  split
  · rw [State.wrf, State.wrf, State.rd_wr, State.rd_wr, if_pos rfl, if_pos rfl, h]
  · exact h

/-- What a record about a tenant leaves of every tenant's standing. -/
structure Standing (t : Nat) (s u : State) : Prop where
  lost : (u.tenant t).lost = (s.tenant t).lost
  st : (u.tenant t).st = (s.tenant t).st
  releaseDue : (u.tenant t).releaseDue = (s.tenant t).releaseDue

theorem EventFrame.standing {s u : State} (h : EventFrame s u) (t : Nat) : Standing t s u := by
  have := h.ten t
  exact ⟨by rw [this], by rw [this], by rw [this]⟩

theorem Standing.of_dict {s u : State} (h : u.dict = s.dict) (t : Nat) : Standing t s u := by
  have : u.tenant t = s.tenant t := by rw [State.tenant, State.tenant, h]
  exact ⟨by rw [this], by rw [this], by rw [this]⟩

theorem Standing.trans {t : Nat} {s u v : State} (h : Standing t s u) (k : Standing t u v) : Standing t s v :=
  ⟨k.lost.trans h.lost, k.st.trans h.st, k.releaseDue.trans h.releaseDue⟩

/-- A tenant that lost its heartbeats, counted, with its event and its record. -/
def heartbeatGone (t : Nat) (s : State) : State :=
  tenantRecord t (t == 0) (tenantCount t 3 (dictEvent 2 t (s.setTenant t { s.tenant t with lost := true })))

theorem tenantRecord_frame (t : Nat) (c : Bool) (s : State) : Standing t s (tenantRecord t c s) ∧
    ∀ a, recordReg a = false → (tenantRecord t c s).rd a = s.rd a := by
  unfold tenantRecord
  dsimp only
  generalize hu : s.draw.2.draw.2.draw.2.draw.2 = u
  have hd : u.dict = s.dict ∧ u.regs = s.regs := by
    simp only [draw_state] at hu
    rw [← hu]
    exact ⟨rfl, rfl⟩
  have h := makeRecord_frame (24 + t) (if c then 5 else 2) (0x8000 + s.draw.1.toNat % 0x8000)
    (dataWords s.draw.2.draw.1 s.draw.2.draw.2.draw.1 s.draw.2.draw.2.draw.2.draw.1) u
  refine ⟨(Standing.of_dict hd.1 t).trans (h.standing t), fun a ha => (h.regs a ha).trans ?_⟩
  rw [State.rd, State.rd, hd.2]

theorem heartbeatGone_spec (t : Fin 8) (s : State) : ((heartbeatGone t s).tenant t).lost = true ∧
    ((heartbeatGone t s).tenant t).st = (s.tenant t).st ∧ ((heartbeatGone t s).tenant t).releaseDue = (s.tenant t).releaseDue ∧
    (heartbeatGone t s).rd (Reg.tenCnt t 3) = (s.incSat (Reg.tenCnt t 3)).rd (Reg.tenCnt t 3) := by
  have hrec : ∀ t : Fin 8, recordReg (Reg.tenCnt t 3) = false := by decide
  have hsrc : Reg.tenCnt t 3 ≠ Reg.dictEvtSrc := by
    unfold Reg.tenCnt Reg.dictEvtSrc
    omega
  generalize hs0 : s.setTenant t { s.tenant t with lost := true } = s0
  have h0 : s0.tenant t = { s.tenant t with lost := true } := by rw [← hs0, State.tenant_setTenant, if_pos rfl]
  have hreg : s0.regs = s.regs := by rw [← hs0]; rfl
  have hev := sqSet_frame Reg.dictEvt 2 (s0.wrn Reg.dictEvtSrc t)
  have h1 : Standing t s0 (dictEvent 2 t s0) := Standing.trans (Standing.of_dict (s := s0) (u := (s0.wrn Reg.dictEvtSrc t).setSq Reg.dictEvt
    (((s0.wrn Reg.dictEvtSrc t).sq Reg.dictEvt).event [2])) rfl t) (hev.standing t)
  have h2 : Standing t (dictEvent 2 t s0) (tenantCount t 3 (dictEvent 2 t s0)) :=
    .of_dict (by rw [tenantCount, incSat_rest]) t
  obtain ⟨h3, hrd⟩ := tenantRecord_frame t (t.val == 0) (tenantCount t 3 (dictEvent 2 t s0))
  have h := (h1.trans h2).trans h3
  have hgo : heartbeatGone t s = tenantRecord t (t.val == 0) (tenantCount t 3 (dictEvent 2 t s0)) := by rw [heartbeatGone, hs0]
  rw [hgo]
  refine ⟨h.lost.trans (by rw [h0]), h.st.trans (by rw [h0]), h.releaseDue.trans (by rw [h0]), ?_⟩
  rw [hrd _ (hrec t), tenantCount]
  apply incSat_rd_congr
  rw [dictEvent, sqSet_rd _ _ _ _ (hrec t), State.rd_wrn, if_neg hsrc, State.rd, State.rd, hreg]

theorem heartbeatDue_iff {s : State} {t : Nat} : heartbeatDue s t = true ↔
    (s.tenant t).hbSince + 16 * (s.rdf (Reg.tenHb t) 16 4 * s.rdf (Reg.tenHb t) 0 16) ≤ s.dict.hinges := decide_eq_true_iff

/-- A lost heartbeat: the record, the summary for T_0, and the action of another tenant. -/
theorem heartbeatLost_due {s : State} {t : Nat} (hen : s.enabled 10 = true) (hst : (s.tenant t).st = .active)
    (hl : (s.tenant t).lost = false) (hd : heartbeatDue s t = true) : heartbeatLost t s =
      if t = 0 then summaryCheck (heartbeatGone t s)
      else if s.rdf (Reg.tenHb t) 20 2 = 1 then (heartbeatGone t s).modTenant t fun x => { x with releaseDue := true }
      else if s.rdf (Reg.tenHb t) 20 2 = 2 then requestReset t false (heartbeatGone t s) else heartbeatGone t s := by
  rw [heartbeatLost]
  dsimp only
  rw [if_pos ⟨hst, hl, hen, hd⟩, ← heartbeatGone]
  by_cases ht : t = 0
  · simp only [ht, if_true]
  · simp only [ht, if_false]
    split
    · rename_i h
      rw [if_pos h]
    · rename_i h
      rw [if_neg (by omega), if_pos h]
    · rename_i h1 h2
      rw [if_neg h1, if_neg h2]

/-! ### Local requests -/

theorem qProd_row : ∀ q : Fin 64, (rowAt (Reg.qProd q)).map (fun r => (r.cls, r.mask)) = some (.rw, 0xFFFFFFFF) := by decide

theorem regAccess_qProd {s : State} {m : Master} (q : Fin 64) (v : BitVec 64) (h : reaches s m true (Reg.qProd q) = true) :
    regAccess m (Reg.qProd q) .word v s =
      if qprodOk s (m == .hostSpi) q then localRequests q (v.setWidth 32) s
      else logPriv (whoOf s m) true false 4 (Reg.qProd q) s := by
  have hq := q.isLt
  have ha : Reg.qProd q = 0x400A0408 + 0x10 * q.val := rfl
  have hs : Reg.qProd q / 0x10000 % 16 = 10 := by rw [ha]; omega
  have hoff : Reg.qProd q % 0x10000 = 0x408 + 0x10 * q.val := by rw [ha]; omega
  rw [regAccess_rw s m _ 0xFFFFFFFF v h (row_of_map (qProd_row q)) (by rw [ha]; simp [inSlots]; omega) (by rw [hoff]; omega)
    (by rw [ha]; omega), and_full, rwWrite, hs, hoff]
  show (if 0x408 + 0x10 * q.val = 4 then _ else
    if 0x400 ≤ 0x408 + 0x10 * q.val ∧ 0x408 + 0x10 * q.val < 0x800 ∧ (0x408 + 0x10 * q.val) % 16 = 8
    then (if qprodOk s (m == .hostSpi) ((0x408 + 0x10 * q.val - 0x400) / 16)
      then localRequests ((0x408 + 0x10 * q.val - 0x400) / 16) _ s else _) else _) = _
  rw [if_neg (by omega), if_pos (by omega), show (0x408 + 0x10 * q.val - 0x400) / 16 = q.val by omega]

/-- The ring's one new entry is placed. -/
theorem localRequests_one {s : State} {q : Nat} {v : Word} (hsize : 2 ≤ s.queueSize q) (hold : (s.rd (Reg.qProd q)).toNat < s.queueSize q)
    (hv : v.toNat = ((s.rd (Reg.qProd q)).toNat + 1) % s.queueSize q) (hst : (s.tenant (q / 8)).st = .active)
    (hreset : (s.tenant (q / 8)).resetting = 0) (hlen : (s.tenant (q / 8)).reqs.length < 256) (hlost : (s.tenant (q / 8)).lost = false)
    (hnew : ∀ y ∈ (s.tenant (q / 8)).reqs, y.tag ≠ (ringRequest s q ((s.rd (Reg.qProd q)).toNat % s.queueSize q)).1) :
    localRequests q v s =
      ((s.wr (Reg.qProd q) v).setTenant (q / 8) { s.tenant (q / 8) with
        arrival := (s.tenant (q / 8)).arrival + 1#32
        reqs := (s.tenant (q / 8)).reqs ++ [⟨(ringRequest s q ((s.rd (Reg.qProd q)).toNat % s.queueSize q)).1,
          (s.tenant (q / 8)).arrival + 1#32, q % 8, (ringRequest s q ((s.rd (Reg.qProd q)).toNat % s.queueSize q)).2, none, 0#32,
          false, .queued, 0, 0#32, 0, []⟩] }).modTenant (q / 8) fun y => { y with lost := false, hbSince := s.dict.hinges } := by
  have hn : (v.toNat + s.queueSize q - (s.rd (Reg.qProd q)).toNat % s.queueSize q) % s.queueSize q = 1 := by
    rw [hv, Nat.mod_eq_of_lt hold]
    by_cases h : (s.rd (Reg.qProd q)).toNat + 1 < s.queueSize q
    · rw [Nat.mod_eq_of_lt h, show (s.rd (Reg.qProd q)).toNat + 1 + s.queueSize q - (s.rd (Reg.qProd q)).toNat = s.queueSize q + 1 by omega,
        Nat.add_mod_left, Nat.mod_eq_of_lt hsize]
    · rw [show (s.rd (Reg.qProd q)).toNat + 1 = s.queueSize q by omega, Nat.mod_self,
        show 0 + s.queueSize q - (s.rd (Reg.qProd q)).toNat = 1 by omega, Nat.mod_eq_of_lt hsize]
  have hring (k : Nat) : ringRequest (s.wr (Reg.qProd q) v) q k = ringRequest s q k := by
    have hb : (s.wr (Reg.qProd q) v).rd (Reg.qBase q) = s.rd (Reg.qBase q) := by
      rw [State.rd_wr, if_neg (by unfold Reg.qBase Reg.qProd; omega)]
    unfold ringRequest
    rw [hb]
    rfl
  have hcause : placeCause (s.wr (Reg.qProd q) v) (q / 8) (ringRequest s q ((s.rd (Reg.qProd q)).toNat % s.queueSize q)).1 = 0 := by
    have hfree : ¬ ((s.tenant (q / 8)).st ≠ .active ∨ (s.tenant (q / 8)).resetting ≠ 0 ∨ 256 ≤ (s.tenant (q / 8)).reqs.length) := by
      rintro (h | h | h)
      · exact h hst
      · exact h hreset
      · omega
    have hany : ((s.tenant (q / 8)).reqs.any fun y =>
        decide (y.tag = (ringRequest s q ((s.rd (Reg.qProd q)).toNat % s.queueSize q)).1)) = false := by simpa using hnew
    exact (if_neg hfree).trans (if_neg (by rw [Bool.not_eq_true]; exact hany))
  unfold localRequests
  dsimp only
  rw [if_neg (by omega), hn, List.range_one, List.foldl_cons, List.foldl_nil, Nat.add_zero, hring, hcause]
  have hl : ∀ x : Tenant, (((s.wr (Reg.qProd q) v).setTenant (q / 8) x).tenant (q / 8)) = x := fun x => by
    rw [State.tenant_setTenant, if_pos rfl]
  have ht : (s.wr (Reg.qProd q) v).tenant (q / 8) = s.tenant (q / 8) := rfl
  unfold placeRequest
  dsimp only
  rw [if_neg (by decide), heartbeat, hl, ht, if_neg (by rw [hlost]; decide)]
  rfl

theorem localRequests_refused {s : State} {m : Master} {q : Fin 64}
    (h : q.val % 8 ∉ [0, 1, 4] ∨ m = .hostSpi ∧ s.bit Reg.hostTen (q.val / 8) = false) : qprodOk s (m == .hostSpi) q = false := by
  unfold qprodOk
  obtain h | ⟨rfl, h⟩ := h
  · rw [Bool.eq_false_iff.mpr (fun hc => h (List.contains_iff_mem.mp hc)), Bool.false_and]
  · rw [h]
    simp

theorem qprodOk_may {s : State} {m : Master} {q : Fin 64} (hq : q.val % 8 ∈ [0, 1, 4])
    (h : m ≠ .hostSpi ∨ s.bit Reg.hostTen (q.val / 8) = true) : qprodOk s (m == .hostSpi) q = true := by
  unfold qprodOk
  rw [List.contains_iff_mem.mpr hq, Bool.true_and]
  obtain h | h := h
  · rw [beq_eq_false_iff_ne.mpr h]
    rfl
  · rw [h, Bool.or_true]

/-- Settles O43: answers through the response queue, tenants by their own state. -/
theorem handlersLogAndTenants : Obligations.HandlersLogAndTenants := by
  unfold Obligations.HandlersLogAndTenants
  intro place room answer freed ev resetting
  have hfreed (slot t : Nat) (s : State) : (freed slot s).tenant t = s.tenant t := rfl
  refine ⟨?hdone, ?timeout, ?record, ?compaction, ?enable, ?early, ?lost, ?reset, ?delete, ?create, ?placed⟩
  case hdone =>
    intro s m v h
    intro slot result
    have hx : exec (.hdone m .word v) s = .next (hdone (v.setWidth 32) s) := congrArg Host.Outcome.next
      ((regAccess_w1 s m 0x400A0090 v h (row_of_map_cls (k := 0xFFFFFFFF) (by decide)) (by decide) (by decide) (by decide)).trans rfl)
    rw [hx]
    refine ⟨fun hn => ?_, fun t q since hslot hroom => ?_⟩
    · have hn' : tget none s.dict.hslots (fld (v.setWidth 32) 0 10) = none := hn
      rw [hdone, hn']
    · have hgo : hdone (v.setWidth 32) s = handlerEnd t q.tag result (freed slot s) := by
        have hslot' : tget none s.dict.hslots (fld (v.setWidth 32) 0 10) = some (t, q.tag, since) := hslot
        rw [hdone, hslot']
      obtain ⟨hq, hlen, hsess⟩ := hroom
      have hr : HasRoom t q (freed slot s) := ⟨hlen, hsess⟩
      rw [hgo]
      refine ⟨fun hres => ?_, fun i sub hres hop => ?_, fun mm hres hop hlog => ?_⟩
      · rw [handlerEnd_fails hq hres, finish_room hq hr (by decide) rfl]
        rfl
      · rw [hres]
        obtain ⟨b, f, hb⟩ := handlerEnd_read hq hop
        refine ⟨b, f, ?_⟩
        rw [hb, finish_room (s := { freed slot s with free := f }) (q' := answer q 0 0 b) (reqOf_congr hq rfl) (hr.congr rfl rfl rfl rfl rfl) (by decide) rfl]
        rfl
      · rw [hres, handlerEnd_write hq hop hlog,
          finish_room (s := noteLengths [mm] (freed slot s)) (q' := answer q 0 0 []) (reqOf_congr hq rfl) (hr.congr rfl rfl rfl rfl rfl) (by decide) rfl]
        rfl
  case timeout =>
    intro s slot t since q hslot
    have hx : exec (.handlerTimeout slot) s = .next (handlerTimeout slot s) := rfl
    rw [hx, handlerTimeout, hslot]
    refine ⟨fun h => congrArg _ (if_pos h), fun h hroom => ?_⟩
    obtain ⟨hq, hlen, hsess⟩ := hroom
    have hr : HasRoom t q (freed slot s) := ⟨hlen, hsess⟩
    dsimp only
    rw [if_neg (by omega)]
    have hf := finish_room (status := 13) (h := 0#32) (detail := 0) (v := []) hq hr (by decide) rfl
    exact congrArg (fun u => Host.Outcome.next (dictEvent 4 t u)) hf
  case record =>
    intro s r rest q hlog htag hst5 hroom
    intro ls n got
    obtain ⟨hq, hlen, hsess⟩ := hroom
    rw [htag] at hq
    have hr : HasRoom r.tenant q s := ⟨hlen, hsess⟩
    have hx (ok : Bool) : exec (.persistRecord ok) s = .next (persistRecord ok s) := rfl
    have hend (u : State) (ok : Bool) (hl : q.st = .logging 1) (ht : u.tenant r.tenant = s.tenant r.tenant) (hreg : u.regs = s.regs)
        (hril : u.ril = s.ril) : recordLogged r ok u = got u (if ok then q.status else 15) := by
      rw [recordLogged_last (reqOf_congr hq ht) hl,
        finish_room (q' := { q with status := if ok then q.status else 15, value := [] }) (reqOf_congr hq ht)
          (hr.congr ht hreg hril rfl rfl) (by cases ok with
            | false => exact (by decide : (15 : Nat) ≠ 5)
            | true => exact hst5) rfl]
      rfl
    refine ⟨fun hl hn => ?_, fun ok hl hbad => ?_⟩
    · rw [hx, persistRecord, hlog]
      dsimp only
      rw [if_pos ⟨rfl, hn⟩]
      refine congrArg Host.Outcome.next (hend _ true hl ?_ ?_ ?_) <;> rfl
    · rw [hx, persistRecord, hlog]
      dsimp only
      rw [if_neg (by
        rintro ⟨h1, h2⟩
        obtain h | h := hbad
        · rw [h] at h1
          cases h1
        · exact absurd h2 (Nat.not_le.mpr h))]
      refine congrArg Host.Outcome.next (hend _ false hl ?_ ?_ ?_) <;> rfl
  case compaction =>
    intro s h
    exact congrArg Host.Outcome.next (if_pos h)
  case enable =>
    intro s hen hl
    have hx : exec .dictEnable s = .next (dictEnable s) := rfl
    rw [hx, dictEnable, if_pos ⟨hen, hl⟩]
    refine ⟨fun k hk => ?_, fun hk => ?_⟩
    · rw [hk]
      rfl
    · rw [hk]
      exact ⟨_, rfl, rfl, rfl⟩
  case early =>
    intro s t hen hst hl hd
    have hx : exec (.heartbeatLost t) s = .next (heartbeatLost t s) := rfl
    rw [hx, heartbeatLost]
    refine congrArg _ (if_neg ?_)
    rintro ⟨-, -, -, h⟩
    rw [heartbeatDue_iff] at h
    omega
  case lost =>
    intro s t hen hst hl hd
    have hx : exec (.heartbeatLost t) s = .next (heartbeatLost t s) := rfl
    obtain ⟨h1, h2, h3, h4⟩ := heartbeatGone_spec t s
    rw [hx, heartbeatLost_due hen hst hl (heartbeatDue_iff.mpr hd)]
    refine ⟨_, rfl, ?_⟩
    by_cases h0 : t.val = 0
    · have hcnt : Reg.tenCnt t 3 ≠ Reg.faultStat := by
        unfold Reg.tenCnt Reg.faultStat
        omega
      rw [if_pos h0, summaryCheck_rd hcnt, summaryCheck_rest]
      refine ⟨h1, h3.trans ?_, h2.trans ?_, h4⟩
      · simp [h0]
      · rw [hst, if_neg (by simp [h0])]
    · rw [if_neg h0]
      by_cases ha : s.rdf (Reg.tenHb t) 20 2 = 1
      · have ht : ((heartbeatGone t s).modTenant t fun x => { x with releaseDue := true }).tenant t =
            { (heartbeatGone t s).tenant t with releaseDue := true } := by
          rw [State.modTenant, State.tenant_setTenant, if_pos rfl]
        rw [if_pos ha, ht]
        refine ⟨h1, ?_, ?_, h4⟩
        · simp [h0, ha]
        · rw [if_neg (by omega)]
          exact h2.trans hst
      · rw [if_neg ha]
        by_cases hb : s.rdf (Reg.tenHb t) 20 2 = 2
        · have hact : ((heartbeatGone t s).tenant t).st ≠ .absent := by rw [h2, hst]; decide
          rw [if_pos hb, requestReset_tenant hact, if_pos rfl]
          refine ⟨h1, ?_, ?_, ?_⟩
          · simp [h3, hb]
          · rw [if_pos ⟨h0, hb⟩]
          · rw [State.rd, (requestReset_stores t false _).1]
            exact h4
        · rw [if_neg hb]
          refine ⟨h1, ?_, ?_, h4⟩
          · simp [h3, ha]
          · rw [if_neg (by omega)]
            exact h2.trans hst
  case reset =>
    intro s m v h
    have hx : exec (.tenantReset m .word v) s = .next ((bitsOf 8 (v.setWidth 32).toNat).foldl (fun s t => requestReset t false s) s) :=
      congrArg Host.Outcome.next
        ((regAccess_w1 s m 0x400A003C v h (row_of_map_cls (k := 0xFF) (by decide)) (by decide) (by decide) (by decide)).trans rfl)
    obtain ⟨h1, h2, h3, h4⟩ := foldl_requestReset _ (bitsOf_nodup 8 (v.setWidth 32).toNat) s
    refine ⟨_, hx, h1, h2, h3, fun t ht => (h4 t).trans (if_congr ?_ rfl rfl)⟩
    rw [mem_bitsOf8]
    exact and_congr_left fun _ => and_iff_right ht
  case delete =>
    intro s t h0 hst
    have hx : exec (.tenantDeletion t) s = .next (requestReset t true s) := congrArg Host.Outcome.next (if_neg h0)
    exact ⟨_, hx, (requestReset_stores t true s).1, fun k => requestReset_tenant hst true k⟩
  case create =>
    intro s t blob n
    have hx : exec (.tenantCreation t blob n) s = .next ((createTenant t blob n s).getD s) := rfl
    rw [hx]
    refine ⟨fun h => ?_, fun x hsess h0 ht hw hlen hle hst => ?_⟩
    · rw [createTenant, h]
      rfl
    · rw [createTenant, hsess]
      dsimp only
      rw [if_neg (by
        rintro (h | h | h | h | h | h)
        · exact h0 h
        · exact h ht
        · rw [hw] at h
          cases h
        · exact h hlen
        · exact h hle
        · exact h hst)]
      cases Config.gcmOpen _ _ _ _ _ <;> rfl
  case placed =>
    intro s m q h
    intro old v r x
    have hx (w : BitVec 64) : exec (.localRequest m q .word w) s = .next (regAccess m (Reg.qProd q) .word w s) := rfl
    refine ⟨fun hq hm hsize hold hst hreset hlen hlost hnew => ?_, fun w hno => ?_⟩
    · have hsz : s.queueSize q < 2 ^ 11 := fld_lt _ 0 11
      have hlt : v < s.queueSize q := Nat.mod_lt _ (by omega)
      have hv : ((BitVec.ofNat 64 v).setWidth 32) = BitVec.ofNat 32 v := BitVec.setWidth_ofNat_of_le (by decide) v
      have hvn : (BitVec.ofNat 32 v).toNat = v := by rw [BitVec.toNat_ofNat, Nat.mod_eq_of_lt (by omega)]
      rw [hx, regAccess_qProd q _ h, if_pos (qprodOk_may hq hm), hv, localRequests_one hsize hold hvn hst hreset hlen hlost hnew]
      rfl
    · rw [hx, regAccess_qProd q _ h, if_neg (by rw [localRequests_refused hno]; decide)]

end Sys2Proof.Machine
end

section
/-! The Riller sessions (O44): the event message that leaves while the crossing to the switch resynchronises. The frame is
dropped and counted there (R92), the drop is a CLKMON event, and its record goes to the very subscription that the
message was emptying: the queue of the tenant is not what the message left. -/

namespace Sys2Proof.Machine
open Sys2Proof

/-- The session of the counterexample: tenant 0's, on the network. -/
def listener : Session := ⟨0, false, .udp, 1#32, 0#32, 0, 0, 0, 0, 1#64, 0, [], [], [], [], []⟩

/-- Tenant 0 subscribes to every event, on session 0, and one record waits in its queue of 64. -/
def subscribed : Tenant :=
  { Tenant.init .active with subEvent := some ⟨0, 0, BitVec.allOnes 64⟩, events := [[1#8]] }

/-- The part of the counterexample: the event log runs, the record has waited 16 hinges, and the crossings to the network
block have not resynchronised. -/
def cutOff : State :=
  let s := (setSess 0 (some listener) (State.reset.setTenant 0 subscribed)).wr (slotBase 14 + 4) 1#32
  let s1 := s.wr 0x400A0434 64#32
  { s1 with dict := { s1.dict with hinges := 16 }, modes := { s1.modes with sleep := .awake } }

/-- The message takes the one record that waited, and its dropped frame puts new ones behind it. -/
theorem cutOff_leaves_records : ((eventMessage 0 false cutOff).tenant 0).events.length = 4 := by decide

/-- Refutes O44: an EVENT over the network while the crossing to the switch resynchronises. Its frame is dropped, the
CLKMON record of the drop joins the subscription's own queue, and the queue is not the rest of what it was. -/
theorem not_rillerSessionsOpenCarryAndClose : ¬ Obligations.RillerSessionsOpenCarryAndClose := by
  unfold Obligations.RillerSessionsOpenCarryAndClose
  intro h
  obtain ⟨-, -, -, -, -, -, -, -, hev, -⟩ := h
  obtain ⟨-, leaves⟩ := hev cutOff 0 false ⟨0, 0, BitVec.allOnes 64⟩ listener (by decide) (by decide) (by decide)
  obtain ⟨u, hu, -, hten⟩ := leaves (by decide) (.inr (by decide))
  have hx : exec (.eventMsg 0 false) cutOff = .next (eventMessage 0 false cutOff) := rfl
  obtain rfl : eventMessage 0 false cutOff = u := Host.Outcome.next.inj (hx.symm.trans hu)
  have hleft : ((eventMessage 0 false cutOff).tenant 0).events = [] := (congrArg Tenant.events hten).trans (by decide)
  have := cutOff_leaves_records
  rw [hleft] at this
  exact absurd this (by decide)

end Sys2Proof.Machine
end

section
/-! The Warden's boot (O56): what reading a copy notes, an attempt that fails or passes, what each image installs, and the
handover (chapters 23 and 24). -/

namespace Sys2Proof.Machine
open Sys2Proof

/-! ### ECC of the Keep: event records are rows of the ring, which lies in the Hearth -/

/-- A read of the Keep meets the same ECC errors as before. -/
def EccHigh (s t : State) : Prop := ∀ a n, 0x50000000 ≤ a → eccHit t a n = eccHit s a n

theorem EccHigh.of_ecc {s t : State} (h : t.ecc = s.ecc) : EccHigh s t := fun a n _ => by rw [eccHit, eccHit, h]

theorem EccHigh.trans {s t u : State} (h : EccHigh s t) (k : EccHigh t u) : EccHigh s u :=
  fun a n ha => (k a n ha).trans (h a n ha)

theorem mwrBytes_eccHigh {b : Nat} {r : List Byte} (hb : b + r.length ≤ 0x20200000) (s : State) :
    EccHigh s (s.mwrBytes b r) := by
  intro a n ha
  have hf : (eccOut b r.length s.ecc).filter (eccMeets a n) = s.ecc.filter (eccMeets a n) := by
    rw [eccOut, List.filter_filter]
    refine List.filter_congr fun x _ => ?_
    cases hx : eccMeets a n x
    · rfl
    · have hwide : eccWidth x.1 ≤ 8 := by
        unfold eccWidth
        split
        · omega
        · split <;> omega
      have : eccMeets b r.length x = false := by
        refine decide_eq_false fun hm => ?_
        have := of_decide_eq_true hx
        omega
      rw [this]
      rfl
  rw [eccHit, eccHit]
  show ((List.filter _ (List.filter (eccMeets a n) (eccOut b r.length s.ecc))).length, _) = _
  rw [show (s.mwrBytes b r).ecc = eccOut b r.length s.ecc from rfl, hf]

@[simp] theorem incSat_ecc (a : Nat) (s : State) : (s.incSat a).ecc = s.ecc := by rw [incSat_rest]

theorem ringPut_ecc {r : List Byte} (hr : r.length = 32) (s : State) : EccHigh s (ringPut r s).1 := by
  unfold ringPut
  dsimp only
  split
  next hok =>
    have hwr : s.rdf Reg.evtRingWr 0 14 < 2 ^ 14 := fld_lt _ _ _
    simp only [ringOk, decide_eq_true_eq] at hok
    have hrow : ∀ u : State, EccHigh u (u.mwrBytes ((s.rd Reg.evtRingBase).toNat + 32 * s.rdf Reg.evtRingWr 0 14) r) :=
      fun u => mwrBytes_eccHigh (by omega) u
    split
    · exact EccHigh.trans (t := (s.wrf Reg.evtRingRd 0 14 ((s.rdf Reg.evtRingRd 0 14 + 1) % 16384)).incSat Reg.evtOverruns)
        (.of_ecc (incSat_ecc _ _)) (hrow _)
    · exact hrow s
  next => exact .of_ecc (incSat_ecc _ s)

theorem offerEvent_ecc (r : List Byte) (source sev t : Nat) (s : State) : (offerEvent r source sev t s).1.ecc = s.ecc := by
  unfold offerEvent
  dsimp only
  repeat' split
  all_goals rfl

theorem offerAll_ecc {offer : Nat → State → State × Bool} (h : ∀ t s, (offer t s).1.ecc = s.ecc) (s : State) :
    (offerAll offer s).1.ecc = s.ecc := by
  have hl : ∀ (l : List Nat) (acc : State × Bool), (l.foldl (fun acc t =>
      let r := offer t acc.1
      (r.1, acc.2 || r.2)) acc).1.ecc = acc.1.ecc := by
    intro l
    induction l with
    | nil => exact fun acc => rfl
    | cons t l ih => exact fun acc => (ih _).trans (h t acc.1)
  exact hl _ (s, false)

theorem EccHigh.evt {s t : State} (e : Evt) (h : EccHigh { s with evt := e } t) : EccHigh s t := h

theorem rowOffered_ecc {r : List Byte} (hr : r.length = 32) (source sev : Nat) (s : State) :
    EccHigh s (offerAll (offerEvent r source sev) (ringPut r s).1).1 :=
  (ringPut_ecc hr s).trans (.of_ecc (offerAll_ecc (fun t s => offerEvent_ecc r source sev t s) _))

theorem recordCore_ecc (source sev code : Nat) {data : List Byte} (hd : data.length = 12) (s : State) :
    EccHigh s (recordCore source sev code data s).s := by
  unfold recordCore
  dsimp only
  cases s.enabled 14 && (if 4 ≤ sev then decide (1 ≤ s.evt.bucket) else decide (16 < s.evt.bucket))
  · rw [if_neg (by decide)]
    exact .of_ecc (incSat_ecc _ _)
  · rw [if_pos rfl]
    dsimp only
    have hlen : ∀ f c q l t, (recordBytes source sev f c q l t data).length = 32 := fun f c q l t => by
      rw [recordBytes_length, hd]
    generalize hr : recordBytes source sev _ code _ 0 s.mclk.frameCnt.toNat data = r
    generalize ({ s.evt with seq := _, begun := _, bucket := _, jwait := _ } : Evt) = e
    have h32 : r.length = 32 := hr ▸ hlen _ _ _ _ _
    exact (rowOffered_ecc h32 source sev { s with evt := e }).evt e

theorem overrunRecord_ecc (s : State) : EccHigh s (overrunRecord s) := by
  have h : (setOverrun s).ecc = s.ecc := rfl
  exact (EccHigh.of_ecc h).trans (recordCore_ecc _ _ _ (dataWords_length _ _ _) _)

theorem makeRecord_ecc (source sev code : Nat) {data : List Byte} (hd : data.length = 12) (s : State) :
    EccHigh s (makeRecord source sev code data s) := by
  have h1 := recordCore_ecc source sev code hd s
  unfold makeRecord
  dsimp only
  generalize recordCore source sev code data s = o at h1 ⊢
  have hjoin : EccHigh s (if o.bits = [] then o.s else
      let s2 := pulse 224 (o.s.setSq Reg.evtEvt ((o.s.sq Reg.evtEvt).event o.bits))
      let o2 := recordCore 15 3 ((0x0030 / 4) * 16 + o.bits.headD 0) (dataWords (s2.sq Reg.evtEvt).view 0#32 0#32) s2
      if o2.bits = [] then o2.s else o2.s.setSq Reg.evtEvt ((o2.s.sq Reg.evtEvt).join o2.bits)) := by
    split
    · exact h1
    · dsimp only
      have hm : (pulse 224 (o.s.setSq Reg.evtEvt ((o.s.sq Reg.evtEvt).event o.bits))).ecc = o.s.ecc := rfl
      generalize pulse 224 (o.s.setSq Reg.evtEvt ((o.s.sq Reg.evtEvt).event o.bits)) = s2 at hm ⊢
      have h2 := (h1.trans (.of_ecc hm)).trans (recordCore_ecc 15 3 ((0x0030 / 4) * 16 + o.bits.headD 0)
        (dataWords_length (s2.sq Reg.evtEvt).view 0#32 0#32) s2)
      generalize recordCore 15 3 ((0x0030 / 4) * 16 + o.bits.headD 0) (dataWords (s2.sq Reg.evtEvt).view 0#32 0#32) s2 = o2 at h2 ⊢
      split
      · exact h2
      · exact h2
  split
  · exact hjoin.trans (overrunRecord_ecc _)
  · exact hjoin

theorem sqSetX_ecc (a : Nat) (bits : List Nat) (sev : Option Nat) (extra : Word) (s : State) :
    EccHigh s (sqSetX a bits sev extra s) := by
  unfold sqSetX sqSetData
  split
  · exact .of_ecc rfl
  · have hp : ∀ t : State, ∀ o : Option Nat, (match o with
        | some p => pulse p t
        | none => t).ecc = t.ecc := by
      intro t o
      cases o <;> rfl
    dsimp only
    split
    · exact .of_ecc (hp _ _)
    · exact EccHigh.trans (.of_ecc (hp (s.setSq a ((s.sq a).event bits)) _)) (makeRecord_ecc _ _ _ (dataWords_length _ _ _) _)

/-! ### What reading a copy notes -/

/-- A copy's reads leave the Warden, the flash, and the Keep with its ECC marks. -/
structure CopyKept (s t : State) : Prop where
  ward : t.ward = s.ward
  flash : t.flash = s.flash
  power : t.power = s.power
  msg : t.msg = s.msg
  high : KeepsHigh s t
  ecc : EccHigh s t

theorem CopyKept.refl (s : State) : CopyKept s s := ⟨rfl, rfl, rfl, rfl, .of_mem rfl, .of_ecc rfl⟩

theorem CopyKept.trans {s t u : State} (h : CopyKept s t) (k : CopyKept t u) : CopyKept s u :=
  ⟨k.ward.trans h.ward, k.flash.trans h.flash, k.power.trans h.power, k.msg.trans h.msg, h.high.trans k.high, h.ecc.trans k.ecc⟩

theorem CopyKept.regs (s : State) (r : List (Nat × Word)) : CopyKept s { s with regs := r } :=
  ⟨rfl, rfl, rfl, rfl, .of_mem rfl, .of_ecc rfl⟩

theorem sqSet_copyKept (a b : Nat) (s : State) : CopyKept s (sqSet a [b] s) := by
  have hr := sqSet_rest a b s
  refine ⟨?_, ?_, ?_, ?_, sqSetX_high _ _ _ _ _, sqSetX_ecc _ _ _ _ _⟩ <;> rw [hr]

theorem keepNoted_copyKept (a n : Nat) (s : State) : CopyKept s (keepNoted a n s) := by
  unfold keepNoted
  dsimp only
  generalize (if s.ward.release.getLsbD 13 then eccHit s a n else (0, false)) = x
  have h1 : CopyKept s (if x.1 = 0 then s else s.addSat Reg.keepEcc x.1) := by
    split
    · exact .refl s
    · exact .regs s _
  split
  · exact h1.trans (sqSet_copyKept _ _ _)
  · exact h1

/-- The reads of an attempt, noted. -/
def readsNoted (l : List (Nat × Nat)) (s : State) : State := l.foldl (fun s r => keepNoted r.1 r.2 s) s

theorem readsNoted_copyKept (l : List (Nat × Nat)) (s : State) : CopyKept s (readsNoted l s) := by
  unfold readsNoted
  induction l generalizing s with
  | nil => exact .refl s
  | cons r l ih => exact (keepNoted_copyKept r.1 r.2 s).trans (ih _)

/-- Reads that meet no uncorrectable error touch registers alone. -/
theorem readsNoted_regs {l : List (Nat × Nat)} {s : State} (h : (l.any fun r => (eccHit s r.1 r.2).2) = false) :
    ∃ r, readsNoted l s = { s with regs := r } := by
  unfold readsNoted
  induction l generalizing s with
  | nil => exact ⟨s.regs, rfl⟩
  | cons x l ih =>
    obtain ⟨hx, hl⟩ := Bool.or_eq_false_iff.mp (List.any_cons.symm.trans h)
    have hk : ∃ r, keepNoted x.1 x.2 s = { s with regs := r } := by
      unfold keepNoted
      dsimp only
      have h2 : (if s.ward.release.getLsbD 13 then eccHit s x.1 x.2 else (0, false)).2 = false := by
        split
        · exact hx
        · rfl
      generalize (if s.ward.release.getLsbD 13 then eccHit s x.1 x.2 else (0, false)) = y at h2
      rw [if_neg (by simp [h2])]
      split
      · exact ⟨s.regs, rfl⟩
      · exact ⟨_, rfl⟩
    obtain ⟨r, hr⟩ := hk
    obtain ⟨r', hr'⟩ := ih (s := keepNoted x.1 x.2 s) (by rw [hr]; exact hl)
    exact ⟨r', by rw [List.foldl_cons, hr', hr]⟩

theorem CopyKept.memBytes {s t : State} (h : CopyKept s t) {a : Nat} (ha : 0x30000000 ≤ a) (n : Nat) :
    memBytes t.mem a n = memBytes s.mem a n :=
  memBytes_congr _ _ _ _ fun j hj _ => h.high j (by omega)

theorem CopyKept.copyBytes {s t : State} (h : CopyKept s t) (c : CopyId) (off n : Nat) :
    copyBytes t c off n = copyBytes s c off n := by
  unfold Machine.copyBytes
  rw [h.flash, h.memBytes (by omega)]

theorem CopyKept.planBytes {s t : State} (h : CopyKept s t) : planBytes t = planBytes s := by
  unfold Machine.planBytes State.mrd
  rw [h.memBytes (by omega), h.memBytes (by omega)]

theorem CopyKept.attemptReads {s t : State} (h : CopyKept s t) (k : ImageKind) (c : CopyId) :
    attemptReads t k c = attemptReads s k c := by
  unfold Machine.attemptReads
  rw [h.planBytes, h.copyBytes]

theorem attemptReads_high {s : State} {k : ImageKind} {c : CopyId} {r : Nat × Nat} (h : r ∈ attemptReads s k c) :
    0x50000000 ≤ r.1 := by
  unfold attemptReads keepBase at h
  split at h
  · rw [List.mem_singleton.mp h]
  · rcases List.mem_cons.mp h with rfl | h
    · decide
    · obtain ⟨e, -, rfl⟩ := List.mem_map.mp h
      dsimp only
      omega
  · exact absurd h List.not_mem_nil

theorem CopyKept.attemptBytes {s t : State} (h : CopyKept s t) (k : ImageKind) (c : CopyId) :
    attemptBytes t k c = attemptBytes s k c := by
  have hany : ((Machine.attemptReads s k c).any fun r => (eccHit t r.1 r.2).2) =
      (Machine.attemptReads s k c).any fun r => (eccHit s r.1 r.2).2 := by
    rw [Bool.eq_iff_iff, List.any_eq_true, List.any_eq_true]
    exact exists_congr fun r => and_congr_right fun hr => by rw [h.ecc _ _ (attemptReads_high hr)]
  have hcopy : ∀ c, Machine.copyBytes t c = Machine.copyBytes s c := fun c => by
    funext off n
    exact h.copyBytes c off n
  unfold Machine.attemptBytes
  rw [h.attemptReads, hany, h.planBytes, h.ward]
  cases c <;> simp only [hcopy]

theorem CopyKept.rootKey {s t : State} (h : CopyKept s t) (i : Nat) : rootKey t i = rootKey s i :=
  h.memBytes (by omega) 64

theorem CopyKept.keyUsable {s t : State} (h : CopyKept s t) (i : Nat) : keyUsable t i = keyUsable s i := by
  unfold Machine.keyUsable rootStands
  rw [h.rootKey, h.ward]

theorem CopyKept.imageCause {s t : State} (h : CopyKept s t) (k : ImageKind) (b : List Byte) :
    imageCause t k b = imageCause s k b := by
  unfold Machine.imageCause floorOf joenoPlain bootBody keySlot
  rw [h.rootKey, h.keyUsable, h.ward]

/-! ### An attempt and its cause -/

/-- The cause for which an attempt on a copy fails before anything is installed, 0 for none. -/
def causeOf (s : State) (k : ImageKind) (c : CopyId) : Nat :=
  if (attemptBytes s k c).2 ≠ 0 then (attemptBytes s k c).2 else imageCause s k (attemptBytes s k c).1

/-- The body of the image that an attempt reads, in the clear. -/
def clearBody (s : State) (k : ImageKind) (c : CopyId) : List Byte :=
  (if isJoeno k then joenoPlain s (attemptBytes s k c).1 else bootBody s (attemptBytes s k c).1).getD []

/-- The state once an attempt has read its copy. -/
def noted (s : State) (k : ImageKind) (c : CopyId) : State := readsNoted (attemptReads s k c) s

theorem noted_copyKept (s : State) (k : ImageKind) (c : CopyId) : CopyKept s (noted s k c) := readsNoted_copyKept _ s

theorem noted_ward (s : State) (k : ImageKind) (c : CopyId) : (noted s k c).ward = s.ward := (noted_copyKept s k c).ward

theorem causeOf_noted (s : State) (k : ImageKind) (c : CopyId) :
    (if (attemptBytes (noted s k c) k c).2 ≠ 0 then (attemptBytes (noted s k c) k c).2
      else imageCause (noted s k c) k (attemptBytes (noted s k c) k c).1) = causeOf s k c := by
  have h := noted_copyKept s k c
  rw [h.attemptBytes, h.imageCause, causeOf]

theorem joenoPlain_noted (s : State) (k : ImageKind) (c : CopyId) (b : List Byte) :
    joenoPlain (noted s k c) b = joenoPlain s b := by
  unfold joenoPlain keySlot
  rw [noted_ward]

theorem bootBody_noted (s : State) (k : ImageKind) (c : CopyId) (b : List Byte) : bootBody (noted s k c) b = bootBody s b := by
  unfold bootBody keySlot
  rw [noted_ward]

/-- An image whose checks pass was read without an uncorrectable error: only registers have changed. -/
theorem noted_regs {s : State} {k : ImageKind} {c : CopyId} (h : causeOf s k c = 0) : ∃ r, noted s k c = { s with regs := r } := by
  refine readsNoted_regs (Bool.eq_false_iff.mpr fun hhit => ?_)
  have hb : attemptBytes s k c = ([], 1) := by
    unfold attemptBytes
    exact if_pos hhit
  rw [causeOf, hb] at h
  exact Nat.one_ne_zero h

theorem attempt_fails {s : State} {k : ImageKind} {c : CopyId} (h : causeOf s k c ≠ 0) :
    attempt' k c s = attemptFails k c (causeOf s k c) (noted s k c) := by
  rw [← causeOf_noted] at h ⊢
  exact if_pos h

theorem attempt_installs {s u : State} {k : ImageKind} {c : CopyId} (h : causeOf s k c = 0)
    (hi : install k c (attemptBytes s k c).1 (noted s k c) = some u) : attempt' k c s = u := by
  rw [← causeOf_noted] at h
  rw [← (noted_copyKept s k c).attemptBytes] at hi
  refine (if_neg (not_not_intro h)).trans ?_
  show (match install k c (attemptBytes (noted s k c) k c).1 (noted s k c) with
    | some s1 => s1
    | none => attemptFails k c 9 (contentLeft k (attemptBytes (noted s k c) k c).1 (noted s k c))) = u
  rw [hi]

theorem attempt_content {s : State} {k : ImageKind} {c : CopyId} (h : causeOf s k c = 0)
    (hi : install k c (attemptBytes s k c).1 (noted s k c) = none) :
    attempt' k c s = attemptFails k c 9 (contentLeft k (attemptBytes s k c).1 (noted s k c)) := by
  rw [← causeOf_noted] at h
  rw [← (noted_copyKept s k c).attemptBytes] at hi ⊢
  refine (if_neg (not_not_intro h)).trans ?_
  show (match install k c (attemptBytes (noted s k c) k c).1 (noted s k c) with
    | some s1 => s1
    | none => attemptFails k c 9 (contentLeft k (attemptBytes (noted s k c) k c).1 (noted s k c))) = _
  rw [hi]

/-- A copy other than the network's whose turn it is, and of no PENDING slot, is tried. -/
theorem imageAttempt_turn {s : State} {k : ImageKind} {c : CopyId} (hn : nextCopy s k = some c) (hc : c ≠ .network)
    (hp : isPendingCopy s c = false) : exec (.imageAttempt k c) s = .next (attempt' k c s) := by
  have hx : exec (.imageAttempt k c) s = .next (imageAttempt k c s) := rfl
  rw [hx, imageAttempt, if_pos hn, hp]
  exact congrArg Host.Outcome.next (if_neg hc)

/-! ### An attempt that fails -/

/-- What a failed attempt leaves of the Warden. -/
structure AttemptFailed (s u : State) (c : CopyId) (cause : Nat) : Prop where
  cause : u.ward.cause = cause
  causeStage : u.ward.causeStage = s.ward.stage
  copy : u.ward.copy = copyNo c
  attempts : u.ward.attempts = s.ward.attempts + 1
  failed : u.ward.failed = s.ward.failed + 1
  tried : u.ward.tried = s.ward.tried + 1
  stage : u.ward.stage = s.ward.stage
  imgs : u.ward.imgs = s.ward.imgs
  tallies : u.ward.tallies = s.ward.tallies
  log : u.ward.log = s.ward.log
  xfer : u.ward.xfer = none
  engTry : u.ward.engTry = none
  release : u.ward.release = s.ward.release
  keylock : u.ward.keylock = s.ward.keylock
  slot : isPendingCopy s c = false → u.ward.slot = s.ward.slot
  slotFailed : isPendingCopy s c = true →
    u.ward.slot = { setStateOf (c == .slotB) .failed s.ward.slot with seq := s.ward.slot.seq + 1#32 }

/-- A record of the boot is held, or is made: of the Warden only what is held changes. -/
theorem bootRecord_ward (sev : Nat) (s : State) :
    (bootRecord sev s).ward = { s.ward with held := (bootRecord sev s).ward.held } ∧ (bootRecord sev s).eng = s.eng ∧
    ∀ a, recordReg a = false → (bootRecord sev s).rd a = s.rd a := by
  unfold bootRecord
  simp only [draw_state]
  split
  · obtain ⟨hrest, hregs, -, -⟩ := makeRecord_frame 19 sev
      (0x8000 + s.draw.1.toNat % 0x8000) _ { s with free := s.free + 1 + 1 + 1 + 1 }
    refine ⟨?_, ?_, hregs⟩ <;> rw [hrest]
  · refine ⟨?_, rfl, fun _ _ => rfl⟩
    dsimp only [State.modWard]
    split <;> rfl

/-- The Warden as a failed attempt notes it. -/
def failNoted (c : CopyId) (cause : Nat) (s : State) : State := s.modWard fun w => { w with
  cause := cause, causeStage := w.stage, copy := copyNo c, attempts := w.attempts + 1, failed := w.failed + 1,
  tried := w.tried + 1, xfer := none, engTry := none }

theorem attemptFails_other {k : ImageKind} (hk : k ≠ .plan) (c : CopyId) (cause : Nat) (s : State) :
    attemptFails k c cause s =
      if isPendingCopy (bootRecord 4 (failNoted c cause s)) c then
        slotWrite (setStateOf (c == .slotB) .failed) (bootRecord 4 (failNoted c cause s))
      else bootRecord 4 (failNoted c cause s) := if_neg hk

/-- The Warden after a failed attempt, what is held and the slot record apart. -/
def failedWarden (c : CopyId) (cause : Nat) (held : List BootRec) (slot : SlotRec) (w : Warden) : Warden := { w with
  cause := cause, causeStage := w.stage, copy := copyNo c, attempts := w.attempts + 1, failed := w.failed + 1,
  tried := w.tried + 1, xfer := none, engTry := none, held := held, slot := slot }

/-- The slot record after a failed attempt: a PENDING slot that fails is FAILED. -/
def slotAfterFail (s : State) (c : CopyId) : SlotRec :=
  if isPendingCopy s c then { setStateOf (c == .slotB) .failed s.ward.slot with seq := s.ward.slot.seq + 1#32 }
  else s.ward.slot

theorem AttemptFailed.of_ward {s u : State} {c : CopyId} {cause : Nat} {held : List BootRec}
    (h : u.ward = failedWarden c cause held (slotAfterFail s c) s.ward) : AttemptFailed s u c cause where
  cause := congrArg Warden.cause h
  causeStage := congrArg Warden.causeStage h
  copy := congrArg Warden.copy h
  attempts := congrArg Warden.attempts h
  failed := congrArg Warden.failed h
  tried := congrArg Warden.tried h
  stage := (congrArg Warden.stage h).trans rfl
  imgs := (congrArg Warden.imgs h).trans rfl
  tallies := (congrArg Warden.tallies h).trans rfl
  log := (congrArg Warden.log h).trans rfl
  xfer := congrArg Warden.xfer h
  engTry := congrArg Warden.engTry h
  release := (congrArg Warden.release h).trans rfl
  keylock := (congrArg Warden.keylock h).trans rfl
  slot hp := (congrArg Warden.slot h).trans (if_neg (by rw [hp]; decide))
  slotFailed hp := (congrArg Warden.slot h).trans (if_pos hp)

theorem failNoted_recorded (c : CopyId) (cause : Nat) (t : State) : ∃ held,
    (bootRecord 4 (failNoted c cause t)).ward = failedWarden c cause held t.ward.slot t.ward := by
  obtain ⟨hrec, -, -⟩ := bootRecord_ward 4 (failNoted c cause t)
  generalize (bootRecord 4 (failNoted c cause t)).ward = w at hrec
  generalize w.held = l at hrec
  exact ⟨l, hrec⟩

theorem failedWarden_slot (c : CopyId) (cause : Nat) (held : List BootRec) (r r' : SlotRec) (w : Warden) :
    { failedWarden c cause held r w with slot := r' } = failedWarden c cause held r' w := rfl

theorem slotWrite_ward (f : SlotRec → SlotRec) (s : State) :
    (slotWrite f s).ward = { s.ward with slot := { f s.ward.slot with seq := s.ward.slot.seq + 1#32 } } := rfl

theorem slotWrite_eng (f : SlotRec → SlotRec) (s : State) : (slotWrite f s).eng = s.eng := by
  unfold slotWrite
  rw [State.modWard_eng, State.mwrBytes_eng]

/-- An attempt that fails does so from the state before it, whatever has been staged. -/
theorem attemptFails_failed {k : ImageKind} (hk : k ≠ .plan) {s t : State} (hw : t.ward = s.ward) (c : CopyId) (cause : Nat) :
    AttemptFailed s (attemptFails k c cause t) c cause ∧ (attemptFails k c cause t).eng = t.eng := by
  have heng : (bootRecord 4 (failNoted c cause t)).eng = t.eng := (bootRecord_ward 4 (failNoted c cause t)).2.1.trans
    (State.modWard_eng t _)
  obtain ⟨held, hward⟩ := failNoted_recorded c cause t
  rw [attemptFails_other hk]
  generalize bootRecord 4 (failNoted c cause t) = u at hward heng
  rw [hw] at hward
  have hslot : u.ward.slot = s.ward.slot := by
    rw [hward]
    rfl
  have hpend : isPendingCopy u c = isPendingCopy s c := by
    unfold isPendingCopy
    rw [hslot]
  rw [hpend]
  split
  next hp =>
    refine ⟨.of_ward (held := held) ?_, (slotWrite_eng _ u).trans heng⟩
    rw [slotWrite_ward, hslot, hward, failedWarden_slot, slotAfterFail, if_pos hp]
  next hp =>
    refine ⟨.of_ward (held := held) ?_, heng⟩
    rw [slotAfterFail, if_neg hp]
    exact hward

/-! ### An attempt that passes -/

/-- What an attempt that passes leaves of the Warden. -/
structure AttemptPassed (s u : State) (k : ImageKind) (img : BootImg) : Prop where
  stage : u.ward.stage = stageFor k + 1
  tried : u.ward.tried = 0
  attempts : u.ward.attempts = s.ward.attempts + 1
  failed : u.ward.failed = s.ward.failed
  imgs : u.ward.imgs = tset none s.ward.imgs (kindNo k) (some img)

theorem tallySum_rest (s : State) :
    ∃ r, tallySum s = { s with regs := r } ∧ ∀ a, a ≠ 0x40010284 → tget (regDefault a) r a = s.rd a := by
  unfold tallySum
  generalize leNat _ = v
  exact ⟨_, rfl, fun a ha => (State.rd_wr s 0x40010284 a _).trans (if_neg ha)⟩

/-- A measurement joins the log, of which the last 64 are kept. -/
def logged (m : Meas) (s : State) : State := s.modWard fun w =>
  let l := w.log ++ [m]
  { w with log := l.drop (l.length - 64) }

/-- The tallies with one replaced. -/
def talliesWith (n : Nat) (v : List Byte) (s : State) : State := s.modWard fun w =>
  { w with tallies := (List.range 8).map fun i => if i = n then v else tallyOf s i }

theorem measure_eq (n : Nat) (m : Meas) (s : State) : measure n m s = if s.ward.freeze.getLsbD n then logged m s
    else tallySum (talliesWith n (Config.sha256 (tallyOf s n ++ Config.sha256 (measBytes m))) (logged m s)) := by
  unfold measure tallyExtend logged talliesWith
  rfl

theorem logged_state (m : Meas) (s : State) : ∃ lg, logged m s = { s with ward := { s.ward with log := lg } } := ⟨_, rfl⟩

theorem talliesWith_state (n : Nat) (v : List Byte) (s : State) :
    ∃ ta, talliesWith n v s = { s with ward := { s.ward with tallies := ta } } := ⟨_, rfl⟩

/-- A measurement changes the tallies, the log and the tallies' sum. -/
theorem measure_rest (n : Nat) (m : Meas) (s : State) :
    ∃ r ta lg, measure n m s = { s with regs := r, ward := { s.ward with tallies := ta, log := lg } } ∧
      ∀ a, a ≠ 0x40010284 → tget (regDefault a) r a = s.rd a := by
  obtain ⟨lg, hlog⟩ := logged_state m s
  rw [measure_eq, hlog]
  split
  · exact ⟨s.regs, s.ward.tallies, lg, rfl, fun _ _ => rfl⟩
  · generalize Config.sha256 _ = v
    obtain ⟨ta, hta⟩ := talliesWith_state n v { s with ward := { s.ward with log := lg } }
    rw [hta]
    obtain ⟨r, hr, hregs⟩ := tallySum_rest { s with ward := { s.ward with tallies := ta, log := lg } }
    exact ⟨r, ta, lg, hr, hregs⟩

theorem attemptPasses_rest (k : ImageKind) (m : Meas) (img : BootImg) (s : State) :
    ∃ r ta lg, attemptPasses k m img s = { s with regs := r, ward := { s.ward with
      tallies := ta, log := lg, imgs := tset none s.ward.imgs (kindNo k) (some img), attempts := s.ward.attempts + 1,
      tried := 0, stage := stageFor k + 1, xfer := none, engTry := none } } ∧
      ∀ a, a ≠ 0x40010284 → tget (regDefault a) r a = s.rd a := by
  obtain ⟨r, ta, lg, hrest, hregs⟩ := measure_rest (measType k).2 m s
  unfold attemptPasses
  rw [hrest]
  exact ⟨r, ta, lg, rfl, hregs⟩

theorem attemptPasses_passed (k : ImageKind) (m : Meas) (img : BootImg) {s t : State}
    (h : t.ward.attempts = s.ward.attempts ∧ t.ward.failed = s.ward.failed ∧ t.ward.imgs = s.ward.imgs) :
    AttemptPassed s (attemptPasses k m img t) k img := by
  obtain ⟨hatt, hfail, himg⟩ := h
  obtain ⟨r, ta, lg, hrest, -⟩ := attemptPasses_rest k m img t
  rw [hrest]
  exact ⟨rfl, rfl, congrArg (· + 1) hatt, hfail, congrArg (tset none · (kindNo k) (some img)) himg⟩

end Sys2Proof.Machine
end

section
/-! The Warden's boot, continued (O56): releases, staging, the images one by one, and the cold boot. -/

namespace Sys2Proof.Machine
open Sys2Proof

/-! ### Releases -/

/-- A release changes nothing of the Warden but RELEASE, takes no bit of that back, and leaves each tenant's state. -/
structure Released (s t : State) : Prop where
  ward : t.ward = { s.ward with release := t.ward.release }
  grows : ∀ j, s.ward.release.getLsbD j = true → t.ward.release.getLsbD j = true
  ten : ∀ k, (t.tenant k).st = (s.tenant k).st

theorem Released.refl (s : State) : Released s s := ⟨rfl, fun _ h => h, fun _ => rfl⟩

theorem Released.trans {s t u : State} (h : Released s t) (k : Released t u) : Released s u :=
  ⟨by rw [k.ward, h.ward], fun j hj => k.grows j (h.grows j hj), fun n => (k.ten n).trans (h.ten n)⟩

theorem Released.keylock {s t : State} (h : Released s t) : t.ward.keylock = s.ward.keylock := by rw [h.ward]

/-- The bit of RELEASE that a release sets. -/
def withRelease (i : Nat) (s : State) : State := s.modWard fun w => { w with release := w.release ||| BitVec.ofNat 21 (2 ^ i) }

theorem withRelease_bit {i : Nat} (hi : i < 21) (s : State) (j : Nat) :
    (withRelease i s).ward.release.getLsbD j = (s.ward.release.getLsbD j || decide (j = i)) := by
  show (s.ward.release ||| BitVec.ofNat 21 (2 ^ i)).getLsbD j = _
  rw [BitVec.getLsbD_or, BitVec.getLsbD_ofNat, Nat.testBit_two_pow]
  by_cases h : j = i
  · subst h
    simp [hi]
  · simp [h, Ne.symm h]

theorem releaseBit_eq (s : State) (i : Nat) : releaseBit s i =
    if released s i ∨ (17 ≤ i ∧ s.ward.keylock = false) then s
    else if 17 ≤ i then coreStart (i - 17) (withRelease i (releaseZero i s))
    else if i = 14 ∧ (withRelease i (releaseZero i s)).enabled 14 then journalScan (withRelease i (releaseZero i s))
    else withRelease i (releaseZero i s) := rfl

theorem releaseZero_ward (i : Nat) (s : State) : (releaseZero i s).ward = s.ward ∧ (releaseZero i s).dict = s.dict := by
  unfold releaseZero
  split <;> exact ⟨rfl, rfl⟩

theorem withRelease_released {i : Nat} (hi : i < 21) {s t : State} (hw : t.ward = s.ward) (hd : t.dict = s.dict) :
    Released s (withRelease i t) := by
  refine ⟨?_, fun j hj => ?_, fun k => ?_⟩
  · show { t.ward with release := (withRelease i t).ward.release } = _
    rw [hw]
  · rw [withRelease_bit hi, hw, hj]
    rfl
  · show (tget _ t.dict.tenants k).st = _
    rw [hd]
    rfl

theorem journalScan_released (s : State) : Released s (journalScan s) := by
  obtain ⟨f, hf⟩ : ∃ f, journalScan s = sqSet Reg.evtEvt [3] (s.modEvt f) := ⟨_, rfl⟩
  obtain ⟨hrest, -, hten, -⟩ := sqSet_frame Reg.evtEvt 3 (s.modEvt f)
  rw [hf]
  generalize sqSet Reg.evtEvt [3] (s.modEvt f) = t at hrest hten
  have hward : t.ward = s.ward := by rw [hrest]; rfl
  refine ⟨by rw [hward], fun j hj => by rw [hward]; exact hj, fun k => ?_⟩
  rw [hten k]
  rfl

theorem releaseBit_released {i : Nat} (hi : i < 21) (s : State) : Released s (releaseBit s i) := by
  obtain ⟨hw, hd⟩ := releaseZero_ward i s
  have h := withRelease_released hi hw hd
  rw [releaseBit_eq]
  split
  · exact .refl s
  · split
    · exact ⟨h.ward, h.grows, h.ten⟩
    · split
      · exact h.trans (journalScan_released _)
      · exact h

theorem releaseBit_sets {i : Nat} (hi : i < 21) {s : State} (h : i < 17 ∨ s.ward.keylock = true) :
    (releaseBit s i).ward.release.getLsbD i = true := by
  have hset : (withRelease i (releaseZero i s)).ward.release.getLsbD i = true := by
    rw [withRelease_bit hi]
    simp
  rw [releaseBit_eq]
  split
  next hr =>
    rcases hr with hr | ⟨hge, hk⟩
    · exact hr
    · rcases h with h | h
      · omega
      · exact absurd (hk.symm.trans h) (by decide)
  next =>
    split
    · exact hset
    · split
      · exact (journalScan_released _).grows i hset
      · exact hset

theorem releaseBits_released {l : List Nat} (hl : ∀ i ∈ l, i < 21) (s : State) : Released s (l.foldl releaseBit s) := by
  induction l generalizing s with
  | nil => exact .refl s
  | cons i l ih =>
    exact (releaseBit_released (hl i List.mem_cons_self) s).trans (ih (fun j hj => hl j (List.mem_cons_of_mem _ hj)) _)

theorem releaseBits_sets {l : List Nat} (hl : ∀ i ∈ l, i < 21) {s : State} (h : ∀ i ∈ l, i < 17 ∨ s.ward.keylock = true)
    {i : Nat} (hi : i ∈ l) : (l.foldl releaseBit s).ward.release.getLsbD i = true := by
  induction l generalizing s with
  | nil => exact absurd hi List.not_mem_nil
  | cons j l ih =>
    have hj := hl j List.mem_cons_self
    have htail : ∀ i ∈ l, i < 21 := fun k hk => hl k (List.mem_cons_of_mem _ hk)
    rw [List.foldl_cons]
    rcases List.mem_cons.mp hi with rfl | hi
    · exact (releaseBits_released htail _).grows _ (releaseBit_sets hj (h _ List.mem_cons_self))
    · refine ih htail (fun k hk => ?_) hi
      rw [(releaseBit_released hj s).keylock]
      exact h k (List.mem_cons_of_mem _ hk)

theorem bitsOf_lt {n v i : Nat} (h : i ∈ bitsOf n v) : i < n := ((mem_bitsOf n v i).mp h).1

theorem releaseWrite_released (v : Nat) (s : State) : Released s (releaseWrite v s) := by
  unfold releaseWrite
  split
  · exact releaseBits_released (fun _ => bitsOf_lt) s
  · exact .refl s

/-- Once the trim load is done a write of RELEASE leaves its bits set. -/
theorem releaseWrite_sets {v : Nat} {s : State} (ht : s.power.trimDone = true)
    (h : ∀ i ∈ bitsOf 21 v, i < 17 ∨ s.ward.keylock = true) :
    (releaseWrite v s).ward.release &&& BitVec.ofNat 21 v = BitVec.ofNat 21 v := by
  refine BitVec.eq_of_getLsbD_eq fun i hi => ?_
  rw [BitVec.getLsbD_and]
  cases hb : (BitVec.ofNat 21 v).getLsbD i
  · exact Bool.and_false _
  · have hmem : i ∈ bitsOf 21 v := by
      rw [BitVec.getLsbD_ofNat] at hb
      exact (mem_bitsOf 21 v i).mpr ⟨hi, (Bool.and_eq_true_iff.mp hb).2⟩
    rw [releaseWrite, if_pos ht, releaseBits_sets (fun _ => bitsOf_lt) h hmem]
    rfl

/-- A bit that is neither a memory's nor the event log's: nothing but RELEASE and the core named. -/
theorem releaseBit_other {i : Nat} (h0 : i ≠ 0) (h14 : i ≠ 14) (h16 : i ≠ 16) {n : Nat} (hn : i ≠ 17 + n) (hi : i < 21) (s : State) :
    (releaseBit s i).ctlCore n = s.ctlCore n ∧ (∀ a, (releaseBit s i).rd a = s.rd a) ∧
    (releaseBit s i).ward.release.getLsbD (17 + n) = s.ward.release.getLsbD (17 + n) := by
  have hz : releaseZero i s = s := by
    unfold releaseZero
    split
    · exact absurd rfl h0
    · exact absurd rfl h16
    · rfl
  have hb : (withRelease i s).ward.release.getLsbD (17 + n) = s.ward.release.getLsbD (17 + n) := by
    rw [withRelease_bit hi, decide_eq_false (Ne.symm hn), Bool.or_false]
  rw [releaseBit_eq, hz]
  split
  · exact ⟨rfl, fun _ => rfl, rfl⟩
  · split
    · refine ⟨?_, fun _ => rfl, hb⟩
      rw [coreStart, State.ctlCore_setCtl, if_neg (by omega)]
      rfl
    · rw [if_neg (fun h => h14 h.1)]
      exact ⟨rfl, fun _ => rfl, hb⟩

/-- A core runs from its CC_START. -/
def CoreRuns (n : Nat) (pc : Word) (s : State) : Prop := (s.ctlCore n).st = .run ∧ (s.ctlCore n).r.pc = pc

theorem releaseBit_starts {n : Nat} {s : State} (hk : s.ward.keylock = true) (hn : n < 4)
    (hr : s.ward.release.getLsbD (17 + n) = false) : CoreRuns n (s.rd (Reg.ccStart n) &&& 0xFFFFFFFE#32) (releaseBit s (17 + n)) := by
  have hz : releaseZero (17 + n) s = s := by
    unfold releaseZero
    split
    · omega
    · omega
    · rfl
  have hnot : ¬(released s (17 + n) = true ∨ (17 ≤ 17 + n ∧ s.ward.keylock = false)) := by
    simp [released, hr, hk]
  rw [releaseBit_eq, hz, if_neg hnot, if_pos (by omega), show 17 + n - 17 = n by omega]
  have hkey : (withRelease (17 + n) s).ward.keylock = true := hk
  have hrel : released (withRelease (17 + n) s) (17 + n) = true := by
    rw [released, withRelease_bit (by omega)]
    simp
  rw [CoreRuns, coreStart, hkey, hrel, State.ctlCore_setCtl, if_pos rfl]
  exact ⟨rfl, rfl⟩

theorem releaseBits_kept {l : List Nat} {n : Nat} (hl : ∀ i ∈ l, i ≠ 0 ∧ i ≠ 14 ∧ i ≠ 16 ∧ i < 21) (hn : 17 + n ∉ l) (s : State) :
    (l.foldl releaseBit s).ctlCore n = s.ctlCore n ∧ (∀ a, (l.foldl releaseBit s).rd a = s.rd a) ∧
    (l.foldl releaseBit s).ward.release.getLsbD (17 + n) = s.ward.release.getLsbD (17 + n) := by
  induction l generalizing s with
  | nil => exact ⟨rfl, fun _ => rfl, rfl⟩
  | cons i l ih =>
    obtain ⟨h0, h14, h16, hi⟩ := hl i List.mem_cons_self
    obtain ⟨hctl, hrd, hrel⟩ := releaseBit_other h0 h14 h16 (fun h => hn (h ▸ List.mem_cons_self)) hi s
    obtain ⟨hctl', hrd', hrel'⟩ := ih (fun j hj => hl j (List.mem_cons_of_mem _ hj)) (fun h => hn (List.mem_cons_of_mem _ h))
      (releaseBit s i)
    exact ⟨hctl'.trans hctl, fun a => (hrd' a).trans (hrd a), hrel'.trans hrel⟩

/-- The core named among the bits starts at its CC_START, which no release changes. -/
theorem releaseBits_start {l : List Nat} (hd : l.Nodup) (hl : ∀ i ∈ l, i ≠ 0 ∧ i ≠ 14 ∧ i ≠ 16 ∧ i < 21) {n : Nat} (hn : n < 4)
    (hmem : 17 + n ∈ l) {s : State} (hk : s.ward.keylock = true) (hr : s.ward.release.getLsbD (17 + n) = false) :
    CoreRuns n (s.rd (Reg.ccStart n) &&& 0xFFFFFFFE#32) (l.foldl releaseBit s) := by
  obtain ⟨a, b, rfl⟩ := List.append_of_mem hmem
  obtain ⟨hna, hnb⟩ : 17 + n ∉ a ∧ 17 + n ∉ b :=
    not_or.mp fun h => (List.nodup_middle.mp hd).notMem (List.mem_append.mpr h)
  have hla : ∀ i ∈ a, i ≠ 0 ∧ i ≠ 14 ∧ i ≠ 16 ∧ i < 21 := fun i hi => hl i (List.mem_append_left _ hi)
  have hlb : ∀ i ∈ b, i ≠ 0 ∧ i ≠ 14 ∧ i ≠ 16 ∧ i < 21 := fun i hi =>
    hl i (List.mem_append_right _ (List.mem_cons_of_mem _ hi))
  obtain ⟨-, hrd, hrel⟩ := releaseBits_kept hla hna s
  have hkey := (releaseBits_released (fun i hi => (hla i hi).2.2.2) s).keylock.trans hk
  rw [List.foldl_append, List.foldl_cons]
  have hstart := releaseBit_starts (s := a.foldl releaseBit s) hkey hn (hrel.trans hr)
  rw [CoreRuns, (releaseBits_kept hlb hnb _).1, ← hrd]
  exact hstart

/-! ### Staging touches nothing of the Warden -/

theorem sqSet_ward (a b : Nat) (s : State) : (sqSet a [b] s).ward = s.ward := by rw [sqSet_rest]

theorem stageWritten_ward (s : State) : (stageWritten s).ward = s.ward := by
  rw [stageWritten, sqSet_ward]

theorem setDirty_ward (c : CSet) (s : State) : (s.setDirty c).ward = s.ward := by
  unfold State.setDirty
  split <;> rfl

theorem engEvent_ward (bit n : Nat) (s : State) : (engEvent bit n s).ward = s.ward := by
  rw [engEvent, sqSet_ward, State.wrn_ward]

theorem pairedIgnored_ward (a master : Nat) (s : State) : (pairedIgnored a master s).ward = s.ward := by
  rw [pairedIgnored, sqSet_ward, State.wrn_ward, State.wrn_ward]

/-- A write into a core's window, by the core and the place in it. -/
def windowWriteAt (w : Who) (a n v k off : Nat) (s : State) : State :=
  if off < 0xC000 then
    if decide (0x6000 ≤ off) = (s.sc k).pbank ∧ coreEnable s k = true then engEvent 1 k s
    else (if inStagedBank s k off then stageWritten s else s).mwr a n v
  else if off < 0x14000 then s.mwr a n v
  else if decide (0x16000 ≤ off) = (s.sc k).cbank then
    if coreEnable s k then pairedIgnored a (masterId w.m) s
    else if s.isDirty (.coef k) then s.mwr a n v
    else (s.mwr a n v).mwr (if 0x16000 ≤ off then a - 0x2000 else a + 0x2000) n v
  else if (s.sc k).copying then s.setSc k { s.sc k with held := (s.sc k).held ++ [(a, n, v)] }
  else (s.setDirty (.coef k)).mwr a n v

theorem windowWrite_at (w : Who) (a n v : Nat) (s : State) :
    windowWrite w a n v s = windowWriteAt w a n v ((a - 0x38000000) / 0x20000) ((a - 0x38000000) % 0x20000) s := rfl

theorem windowWriteAt_ward (w : Who) (a n v k off : Nat) (s : State) : (windowWriteAt w a n v k off s).ward = s.ward := by
  unfold windowWriteAt
  simp only [apply_ite State.ward, engEvent_ward, pairedIgnored_ward, State.mwr_ward, stageWritten_ward, setDirty_ward,
    State.setSc_ward, ite_self]

theorem windowWrite_ward (w : Who) (a n v : Nat) (s : State) : (windowWrite w a n v s).ward = s.ward := by
  rw [windowWrite_at, windowWriteAt_ward]

theorem putTable_ward (a : Nat) (b : List Byte) (s : State) : (putTable a b s).ward = s.ward := by
  unfold putTable
  induction b generalizing s a with
  | nil => rfl
  | cons v b ih => exact (ih _ _).trans (State.wr_ward _ _ _)

theorem stageSection_ward (x : Section) (body : List Byte) (s : State) : (stageSection x body s).ward = s.ward := by
  unfold stageSection
  split
  · split
    · rfl
    · exact windowWrite_ward _ _ _ _ _
  · split
    · rfl
    · exact windowWrite_ward _ _ _ _ _
  · exact (putTable_ward _ _ _).trans (stageWritten_ward s)
  · exact (putTable_ward _ _ _).trans (stageWritten_ward s)
  · rfl

/-- One section of an image, of the types that are staged. -/
def sectionStaged (b plain : List Byte) (only : Nat → Bool) (acc : State × Nat) (x : Section) : State × Nat :=
  let code := x.type == 1 || x.type == 2
  let body := if code then cut plain acc.2 x.len else cut b x.off x.len
  (if only x.type && decide (x.core < 16) then stageSection x body acc.1 else acc.1,
    if code then acc.2 + x.len else acc.2)

theorem sectionStaged_ward (b plain : List Byte) (only : Nat → Bool) (acc : State × Nat) (x : Section) :
    (sectionStaged b plain only acc x).1.ward = acc.1.ward := by
  unfold sectionStaged
  dsimp only
  split
  · exact stageSection_ward _ _ _
  · rfl

theorem stageImage_ward (b plain : List Byte) (only : Nat → Bool) (s : State) : (stageImage b plain only s).ward = s.ward := by
  have h : ∀ (l : List Section) (acc : State × Nat), (l.foldl (sectionStaged b plain only) acc).1.ward = acc.1.ward := by
    intro l
    induction l with
    | nil => exact fun _ => rfl
    | cons x l ih => exact fun acc => (ih _).trans (sectionStaged_ward b plain only acc x)
  exact h _ (s, 0)

theorem stageWhole_ward (b plain : List Byte) (s : State) : (stageWhole b plain s).ward = s.ward :=
  (stageImage_ward _ _ _ _).trans (stageImage_ward _ _ _ _)

theorem stagedAgrees_ward (b plain : List Byte) (s : State) : (stagedAgrees b plain s).2.ward = s.ward := by
  unfold stagedAgrees
  dsimp only
  split
  · split <;> rfl
  · rfl

theorem contentLeft_ward (k : ImageKind) (b : List Byte) (s : State) : (contentLeft k b s).ward = s.ward := by
  unfold contentLeft
  split
  · exact (stagedAgrees_ward _ _ _).trans (stageWhole_ward _ _ _)
  · rfl

/-! ### What an image that passes installs -/

theorem AttemptPassed.of_ward {s t u : State} {k : ImageKind} {img : BootImg} (h : AttemptPassed s t k img)
    (hw : ∃ r, u.ward = { t.ward with release := r }) : AttemptPassed s u k img := by
  obtain ⟨r, hr⟩ := hw
  exact ⟨(congrArg Warden.stage hr).trans h.stage, (congrArg Warden.tried hr).trans h.tried,
    (congrArg Warden.attempts hr).trans h.attempts, (congrArg Warden.failed hr).trans h.failed,
    (congrArg Warden.imgs hr).trans h.imgs⟩

theorem Released.passed {s t u : State} {k : ImageKind} {img : BootImg} (h : AttemptPassed s t k img) (hr : Released t u) :
    AttemptPassed s u k img := h.of_ward ⟨_, hr.ward⟩

/-- STAGE1: the body stands in memory, and the Warden's core at its entry. -/
theorem install_stage1 (c : CopyId) (b : List Byte) {s t : State} (hw : t.ward = s.ward) :
    ∃ u, install .stage1 c b t = some u ∧ AttemptPassed s u .stage1 (bootImg .stage1 c b) ∧
      (u.ctlCore 4).r.pc = (BitVec.ofNat 32 (le b 0x10 4) + BitVec.ofNat 32 (le b 0x14 4)) &&& 0xFFFFFFFE#32 ∧
      u.mem = memPutBytes t.mem (BitVec.ofNat 32 (le b 0x10 4)).toNat ((bootBody t b).getD []) := by
  generalize hs1 : t.mwrBytes (BitVec.ofNat 32 (le b 0x10 4)).toNat ((bootBody t b).getD []) = s1
  have hinst : ∃ x : CtlCore, x.r.pc = (BitVec.ofNat 32 (le b 0x10 4) + BitVec.ofNat 32 (le b 0x14 4)) &&& 0xFFFFFFFE#32 ∧
      install .stage1 c b t = some ((attemptPasses .stage1 (imgMeas (measType .stage1).1 (copyNo c) .stage1 b)
        (bootImg .stage1 c b) s1).setCtl 4 x) := by
    rw [← hs1]
    exact ⟨_, rfl, rfl⟩
  obtain ⟨x, hpc, hinst⟩ := hinst
  have hpass := attemptPasses_passed .stage1 (imgMeas (measType .stage1).1 (copyNo c) .stage1 b) (bootImg .stage1 c b)
    (s := s) (t := s1) (by rw [← hs1, State.mwrBytes_ward, hw]; exact ⟨rfl, rfl, rfl⟩)
  obtain ⟨r, ta, lg, hrest, -⟩ := attemptPasses_rest .stage1 (imgMeas (measType .stage1).1 (copyNo c) .stage1 b)
    (bootImg .stage1 c b) s1
  generalize attemptPasses .stage1 (imgMeas (measType .stage1).1 (copyNo c) .stage1 b) (bootImg .stage1 c b) s1 = s2
    at hinst hpass hrest
  refine ⟨_, hinst, hpass.of_ward ⟨s2.ward.release, State.setCtl_ward s2 4 x⟩, ?_, ?_⟩
  · rw [State.ctlCore_setCtl, if_pos rfl]
    exact hpc
  · rw [State.setCtl_mem, hrest, ← hs1]
    rfl

/-- TENANT: the tenant is active with its keys, and the blocks are released. -/
theorem install_tenant (c : CopyId) (b : List Byte) {s t : State} (hw : t.ward = s.ward) (hp : t.power = s.power)
    (hok : tenantOk t ((bootBody t b).getD []) = true) :
    ∃ u, install .tenant c b t = some u ∧ AttemptPassed s u .tenant (bootImg .tenant c b) ∧ (u.tenant 0).st = .active ∧
      keySlot u 8 = cut ((bootBody t b).getD []) 24 32 ∧ keySlot u 5 = cut ((bootBody t b).getD []) 56 32 ∧
      (s.power.trimDone = true → u.ward.release &&& 0x171FC#21 = 0x171FC#21) := by
  generalize hbody : (bootBody t b).getD [] = body at hok
  have hinst : install .tenant c b t = some (releaseWrite 0x171FC (attemptPasses .tenant
      (imgMeas (measType .tenant).1 (copyNo c) .tenant b) (bootImg .tenant c b)
      ((keyPut 5 (cut body 56 32) (keyPut 8 (cut body 24 32) t)).modTenant 0 fun t => { t with st := .active }))) := by
    rw [← hbody] at hok ⊢
    exact if_pos hok
  generalize hs1 : (keyPut 5 (cut body 56 32) (keyPut 8 (cut body 24 32) t)).modTenant 0
    (fun t => { t with st := .active }) = s1 at hinst
  have hward : s1.ward = { s.ward with keys := tset [] (tset [] s.ward.keys 8 (cut body 24 32)) 5 (cut body 56 32) } := by
    rw [← hs1, ← hw]
    rfl
  have hpow : s1.power = s.power := by
    rw [← hs1, ← hp]
    rfl
  have hten : (s1.tenant 0).st = .active := by
    rw [← hs1, State.modTenant, State.tenant_setTenant, if_pos rfl]
  have hpass := attemptPasses_passed .tenant (imgMeas (measType .tenant).1 (copyNo c) .tenant b) (bootImg .tenant c b)
    (s := s) (t := s1) (by rw [hward]; exact ⟨rfl, rfl, rfl⟩)
  obtain ⟨r, ta, lg, hrest, -⟩ := attemptPasses_rest .tenant (imgMeas (measType .tenant).1 (copyNo c) .tenant b)
    (bootImg .tenant c b) s1
  generalize attemptPasses .tenant (imgMeas (measType .tenant).1 (copyNo c) .tenant b) (bootImg .tenant c b) s1 = s2
    at hinst hpass hrest
  have hkeys : s2.ward.keys = tset [] (tset [] s.ward.keys 8 (cut body 24 32)) 5 (cut body 56 32) := by
    rw [hrest]
    exact congrArg Warden.keys hward
  have hrel := releaseWrite_released 0x171FC s2
  have hkey : ∀ i, keySlot (releaseWrite 0x171FC s2) i = tget [] s2.ward.keys i := fun i => by
    rw [keySlot, hrel.ward]
  refine ⟨_, hinst, hrel.passed hpass, (hrel.ten 0).trans ?_, ?_, ?_, fun ht => ?_⟩
  · rw [hrest]
    exact hten
  · rw [hkey, hkeys, tget_tset_ne _ _ _ _ _ (by decide), tget_tset_self]
  · rw [hkey, hkeys, tget_tset_self]
  · refine releaseWrite_sets ?_ fun i hi => .inl ?_
    · rw [hrest]
      exact hpow ▸ ht
    · revert i
      decide

/-! ### Handover -/

/-- One held record, made with the frame count of its instant. -/
def heldMade (s : State) (r : BootRec) : State :=
  makeRecord r.source r.sev r.code r.data { s with mclk := { s.mclk with frameCnt := r.ts } }

/-- The Warden, the power and the registers that records leave. -/
structure Spoken (s t : State) : Prop where
  ward : t.ward = s.ward
  power : t.power = s.power
  regs : ∀ a, recordReg a = false → t.rd a = s.rd a

theorem heldMade_spoken (s : State) (r : BootRec) : Spoken s (heldMade s r) := by
  obtain ⟨hrest, hregs, -, -⟩ := makeRecord_frame r.source r.sev r.code r.data { s with mclk := { s.mclk with frameCnt := r.ts } }
  unfold heldMade
  refine ⟨?_, ?_, hregs⟩ <;> rw [hrest]

theorem submitHeld_spoken (s : State) : (submitHeld s).ward = { s.ward with held := [] } ∧
    (submitHeld s).power = s.power ∧ ∀ a, recordReg a = false → (submitHeld s).rd a = s.rd a := by
  have h : ∀ (l : List BootRec) (t : State), Spoken t (l.foldl heldMade t) := by
    intro l
    induction l with
    | nil => exact fun t => ⟨rfl, rfl, fun _ _ => rfl⟩
    | cons r l ih =>
      intro t
      have h1 := heldMade_spoken t r
      have h2 := ih (heldMade t r)
      exact ⟨h2.ward.trans h1.ward, h2.power.trans h1.power, fun a ha => (h2.regs a ha).trans (h1.regs a ha)⟩
  have hs := h s.ward.held s
  have hsub : submitHeld s = { s.ward.held.foldl heldMade s with
      mclk := { (s.ward.held.foldl heldMade s).mclk with frameCnt := s.mclk.frameCnt },
      ward := { (s.ward.held.foldl heldMade s).ward with held := [] } } := rfl
  rw [hsub]
  generalize s.ward.held.foldl heldMade s = t at hs
  exact ⟨by rw [hs.ward], hs.power, hs.regs⟩

/-- CC_START of each core. -/
def startsAt (v : Word) (s : State) : State := (List.range 4).foldl (fun s n => s.wr (Reg.ccStart n) v) s

theorem startsAt_rd (v : Word) (s : State) {n : Nat} (hn : n < 4) : (startsAt v s).rd (Reg.ccStart n) = v := by
  rcases (by omega : n = 0 ∨ n = 1 ∨ n = 2 ∨ n = 3) with rfl | rfl | rfl | rfl <;>
    simp [startsAt, List.range_succ, Reg.ccStart]

/-- What the handover leaves of the Warden before the release. -/
def handed (s : State) : State := (submitHeld s).modWard fun w =>
  { w with stage := 9, freeze := w.freeze ||| 0x5F#8, keylock := true }

theorem handed_ward (s : State) : (handed s).ward = { s.ward with
    held := [], stage := 9, freeze := s.ward.freeze ||| 0x5F#8, keylock := true } := by
  obtain ⟨hw, -, -⟩ := submitHeld_spoken s
  unfold handed State.modWard
  generalize submitHeld s = t at hw
  rw [hw]

/-- Handover: KEYLOCK, the freeze, the blocks released, and the cores that were in reset at their CC_START. -/
theorem handover_spec (s : State) : (handover s).ward.stage = 9 ∧ (handover s).ward.keylock = true ∧
    (handover s).ward.freeze = s.ward.freeze ||| 0x5F#8 ∧ (handover s).ward.held = [] ∧
    (s.power.trimDone = true → (handover s).ward.release &&& 0x1E8E00#21 = 0x1E8E00#21 ∧
      ∀ n < 4, s.ward.release.getLsbD (17 + n) = false → CoreRuns n (s.rd (Reg.ccStart n) &&& 0xFFFFFFFE#32) (handover s)) := by
  have hover : handover s = releaseWrite 0x1E8E00 (handed s) := rfl
  obtain ⟨-, hpow, hregs⟩ := submitHeld_spoken s
  have hrd : ∀ n, n < 4 → (handed s).rd (Reg.ccStart n) = s.rd (Reg.ccStart n) := fun n hn =>
    hregs _ (by rcases (by omega : n = 0 ∨ n = 1 ∨ n = 2 ∨ n = 3) with rfl | rfl | rfl | rfl <;> decide)
  have hpow' : (handed s).power = s.power := (State.modWard_power _ _).trans hpow
  have hward := handed_ward s
  rw [hover]
  generalize handed s = t at hrd hpow' hward
  have hrel := releaseWrite_released 0x1E8E00 t
  have hkey : t.ward.keylock = true := by rw [hward]
  refine ⟨?_, ?_, ?_, ?_, fun ht => ⟨?_, fun n hn hr => ?_⟩⟩
  · rw [hrel.ward, hward]
  · rw [hrel.ward, hward]
  · rw [hrel.ward, hward]
  · rw [hrel.ward, hward]
  · exact releaseWrite_sets (by rw [hpow', ht]) fun _ _ => .inr hkey
  · rw [← hrd n hn, releaseWrite, if_pos (by rw [hpow', ht])]
    refine releaseBits_start (by decide) (by decide) hn ?_ hkey (by rw [hward]; exact hr)
    rcases (by omega : n = 0 ∨ n = 1 ∨ n = 2 ∨ n = 3) with rfl | rfl | rfl | rfl <;> decide

theorem startsAt_ward (v : Word) (s : State) : (startsAt v s).ward = s.ward := rfl

/-- CONTROL: what the handover leaves, the cores at the image's entry. -/
theorem install_control (c : CopyId) (b : List Byte) {s t : State} (hw : t.ward = s.ward) (hp : t.power = s.power) :
    ∃ u, install .control c b t = some u ∧ u.ward.stage = 9 ∧ u.ward.keylock = true ∧
      u.ward.freeze = s.ward.freeze ||| 0x5F#8 ∧ u.ward.held = [] ∧
      (s.power.trimDone = true → u.ward.release &&& 0x1E8E00#21 = 0x1E8E00#21 ∧
        ∀ n < 4, s.ward.release.getLsbD (17 + n) = false → CoreRuns n
          ((BitVec.ofNat 32 (le b 0x10 4) + BitVec.ofNat 32 (le b 0x14 4)) &&& 0xFFFFFFFE#32) u) := by
  generalize hs1 : t.mwrBytes (BitVec.ofNat 32 (le b 0x10 4)).toNat ((bootBody t b).getD []) = s1
  generalize hentry : BitVec.ofNat 32 (le b 0x10 4) + BitVec.ofNat 32 (le b 0x14 4) = entry
  have hinst : install .control c b t = some (handover (startsAt entry (attemptPasses .control
      (imgMeas (measType .control).1 (copyNo c) .control b) (bootImg .control c b) s1))) := by
    rw [← hs1, ← hentry]
    rfl
  obtain ⟨r, ta, lg, hrest, -⟩ := attemptPasses_rest .control (imgMeas (measType .control).1 (copyNo c) .control b)
    (bootImg .control c b) s1
  have hward : s1.ward = s.ward := by rw [← hs1, State.mwrBytes_ward, hw]
  have hpow : s1.power = s.power := by rw [← hs1, State.mwrBytes_power, hp]
  generalize attemptPasses .control (imgMeas (measType .control).1 (copyNo c) .control b) (bootImg .control c b) s1 = s2
    at hinst hrest
  have hfreeze : s2.ward.freeze = s.ward.freeze := by rw [hrest, ← hward]
  have hrel : s2.ward.release = s.ward.release := by rw [hrest, ← hward]
  have hpow2 : s2.power = s.power := by rw [hrest, ← hpow]
  obtain ⟨hstage, hkey, hfr, hheld, hgo⟩ := handover_spec (startsAt entry s2)
  rw [startsAt_ward] at hfr hgo
  refine ⟨_, hinst, hstage, hkey, hfr.trans (by rw [hfreeze]), hheld, fun ht => ?_⟩
  obtain ⟨hmask, hrun⟩ := hgo (show s2.power.trimDone = true by rw [hpow2, ht])
  refine ⟨hmask, fun n hn hr => ?_⟩
  have := hrun n hn (by rw [hrel, hr])
  rwa [startsAt_rd entry s2 hn] at this

/-! ### PRESET, PLAN and ENGINE -/

theorem install_preset (c : CopyId) (b : List Byte) {t : State} (hlen : ((bootBody t b).getD []).length % 8 = 0)
    (hall : ∀ e ∈ presetEntries ((bootBody t b).getD []), presetAddr e.1 = true) :
    ∃ u, install .preset c b t = some u ∧ u.ward.stage = 6 ∧ u.ward.tried = 0 ∧ u.ward.xfer = none := by
  obtain ⟨r, ta, lg, hrest, -⟩ := attemptPasses_rest .preset (imgMeas (measType .preset).1 (copyNo c) .preset b)
    (bootImg .preset c b) ((presetEntries ((bootBody t b).getD [])).foldl presetWrite t)
  have hinst : install .preset c b t = some (attemptPasses .preset (imgMeas (measType .preset).1 (copyNo c) .preset b)
      (bootImg .preset c b) ((presetEntries ((bootBody t b).getD [])).foldl presetWrite t)) :=
    if_pos ⟨hlen, List.all_eq_true.mpr hall⟩
  refine ⟨_, hinst, ?_⟩
  rw [hrest]
  exact ⟨rfl, rfl, rfl⟩

/-- The plan's load is due. -/
def planDue (s : State) : State := s.modMsg fun x => { x with loadDue := true }

theorem install_plan (c : CopyId) (b : List Byte) {s t : State} (hw : t.ward = s.ward) :
    ∃ u, install .plan c b t = some u ∧ AttemptPassed s u .plan (bootImg .plan c b) ∧ u.msg.loadDue = true := by
  have hpass := attemptPasses_passed .plan (imgMeas (measType .plan).1 (copyNo c) .plan b) (bootImg .plan c b)
    (s := s) (t := t) (by rw [hw]; exact ⟨rfl, rfl, rfl⟩)
  have hinst : install .plan c b t = some (planDue (attemptPasses .plan
    (imgMeas (measType .plan).1 (copyNo c) .plan b) (bootImg .plan c b) t)) := rfl
  generalize attemptPasses .plan (imgMeas (measType .plan).1 (copyNo c) .plan b) (bootImg .plan c b) t = s2 at hinst hpass
  exact ⟨_, hinst, hpass.of_ward ⟨s2.ward.release, State.modMsg_ward s2 _⟩, rfl⟩

/-- A staged ENGINE image that agrees arms its swap and waits for the hinge. -/
def engineArmed (m : Meas) (img : BootImg) (b : List Byte) (s : State) : State :=
  (armSwap (setVerified b s)).modWard fun w => { w with engTry := some (m, img) }

theorem engineArmed_spec (m : Meas) (img : BootImg) (b : List Byte) (s : State) : (engineArmed m img b s).eng.armed = true ∧
    (engineArmed m img b s).eng.verified = true ∧ (engineArmed m img b s).ward = { s.ward with engTry := some (m, img) } :=
  ⟨rfl, rfl, rfl⟩

theorem install_engine_eq (c : CopyId) (b : List Byte) (t : State) : install .engine c b t =
    if le b 9 1 / 2 % 2 = 1 then none
    else if (stagedAgrees b ((joenoPlain t b).getD []) (stageWhole b ((joenoPlain t b).getD []) t)).1 then
      some (engineArmed (imgMeas (measType .engine).1 (copyNo c) .engine b) (bootImg .engine c b) b
        (stagedAgrees b ((joenoPlain t b).getD []) (stageWhole b ((joenoPlain t b).getD []) t)).2)
    else none := rfl

theorem install_engine (c : CopyId) (b : List Byte) {s t : State} (hw : t.ward = s.ward) (hinc : le b 9 1 / 2 % 2 = 0)
    (hst : (stagedAgrees b ((joenoPlain t b).getD []) (stageWhole b ((joenoPlain t b).getD []) t)).1 = true) :
    ∃ u, install .engine c b t = some u ∧ u.eng.armed = true ∧ u.eng.verified = true ∧
      u.ward.engTry = some (imgMeas (measType .engine).1 (copyNo c) .engine b, bootImg .engine c b) ∧
      u.ward.stage = s.ward.stage ∧ u.ward.imgs = s.ward.imgs := by
  have hward := (stagedAgrees_ward b ((joenoPlain t b).getD []) (stageWhole b ((joenoPlain t b).getD []) t)).trans
    ((stageWhole_ward b ((joenoPlain t b).getD []) t).trans hw)
  have hinst := install_engine_eq c b t
  rw [if_neg (by omega), if_pos hst] at hinst
  generalize (stagedAgrees b ((joenoPlain t b).getD []) (stageWhole b ((joenoPlain t b).getD []) t)).2 = v at hward hinst
  obtain ⟨harm, hver, hw2⟩ := engineArmed_spec (imgMeas (measType .engine).1 (copyNo c) .engine b) (bootImg .engine c b) b v
  refine ⟨_, hinst, harm, hver, ?_, ?_, ?_⟩ <;> rw [hw2]
  · rw [hward]
  · rw [hward]

/-- What fails CONTENT: a tenant table or a PRESET out of form, an incremental ENGINE, and one that does not agree. -/
theorem install_none {k : ImageKind} {c : CopyId} {b : List Byte} {t : State} {body : List Byte}
    (hbody : (if isJoeno k then joenoPlain t b else bootBody t b).getD [] = body)
    (h : k = .tenant ∧ tenantOk t body = false ∨
      k = .preset ∧ (body.length % 8 ≠ 0 ∨ ∃ e ∈ presetEntries body, presetAddr e.1 = false) ∨
      k = .engine ∧ (le b 9 1 / 2 % 2 = 1 ∨ (stagedAgrees b body (stageWhole b body t)).1 = false)) :
    install k c b t = none := by
  rcases h with ⟨rfl, h⟩ | ⟨rfl, h⟩ | ⟨rfl, h⟩ <;> subst hbody
  · exact if_neg (by rw [h]; decide)
  · refine if_neg fun hok => ?_
    obtain ⟨hlen, hall⟩ := hok
    rcases h with h | ⟨e, he, h⟩
    · exact h hlen
    · exact absurd ((List.all_eq_true.mp hall e he).symm.trans h) (by decide)
  · rw [install_engine_eq]
    rcases h with h | h
    · exact if_pos h
    · split
      · rfl
      · exact if_neg (by
          intro ht
          exact absurd (ht.symm.trans h) (by decide))

end Sys2Proof.Machine
end

section
/-! The Warden's boot, closed (O56): the cold boot, the recovery loader, and the obligation. -/

namespace Sys2Proof.Machine
open Sys2Proof

/-! ### The cold boot -/

/-- What the start of a boot leaves: the release, the keys, the fuses and the recovery bit. -/
structure BootKeeps (s t : State) : Prop where
  release : t.ward.release = s.ward.release
  keys : t.ward.keys = s.ward.keys
  fuses : t.ward.fuses = s.ward.fuses
  recov : t.rd Reg.recov = s.rd Reg.recov

theorem BootKeeps.refl (s : State) : BootKeeps s s := ⟨rfl, rfl, rfl, rfl⟩

theorem BootKeeps.trans {s t u : State} (h : BootKeeps s t) (k : BootKeeps t u) : BootKeeps s u :=
  ⟨k.release.trans h.release, k.keys.trans h.keys, k.fuses.trans h.fuses, k.recov.trans h.recov⟩

theorem bootRecord_bootKeeps (sev : Nat) (s : State) : BootKeeps s (bootRecord sev s) := by
  obtain ⟨hw, -, hr⟩ := bootRecord_ward sev s
  exact ⟨by rw [hw], by rw [hw], by rw [hw], hr _ (by decide)⟩

theorem slotWrite_bootKeeps (f : SlotRec → SlotRec) (s : State) : BootKeeps s (slotWrite f s) := by
  have hrd : (slotWrite f s).rd Reg.recov = s.rd Reg.recov := by
    rw [State.rd, slotWrite, State.modWard_regs, State.mwrBytes_regs, ← State.rd]
  refine ⟨?_, ?_, ?_, hrd⟩ <;> rw [slotWrite_ward]

theorem slotSet_bootKeeps (r : SlotRec) (s : State) : BootKeeps s (s.modWard fun w => { w with slot := r }) := ⟨rfl, rfl, rfl, rfl⟩

theorem mwrBytes_bootKeeps (a : Nat) (l : List Byte) (s : State) : BootKeeps s (s.mwrBytes a l) := by
  refine ⟨?_, ?_, ?_, rfl⟩ <;> rw [State.mwrBytes_ward]

theorem loadSlot_bootKeeps (s : State) : BootKeeps s (loadSlot s) := by
  unfold loadSlot
  split
  · exact slotSet_bootKeeps _ s
  · exact ((mwrBytes_bootKeeps _ _ s).trans (slotSet_bootKeeps _ _)).trans (bootRecord_bootKeeps 5 _)

theorem spentTrial_bootKeeps (s : State) : BootKeeps s (spentTrial s) := by
  unfold spentTrial
  split
  · split
    · exact (slotWrite_bootKeeps _ s).trans (bootRecord_bootKeeps 4 _)
    · exact .refl s
  · exact .refl s

theorem measure_bootKeeps (n : Nat) (m : Meas) (s : State) : BootKeeps s (measure n m s) := by
  obtain ⟨r, ta, lg, hrest, hregs⟩ := measure_rest n m s
  rw [hrest]
  exact ⟨rfl, rfl, rfl, hregs _ (by decide)⟩

theorem romMeasures_bootKeeps (s : State) : BootKeeps s (romMeasures s) := by
  obtain ⟨k, hk⟩ := drawBytes_state 8 s
  unfold romMeasures
  dsimp only
  have h : BootKeeps s (drawBytes 8 s).2.draw.2 := by
    rw [hk]
    exact ⟨rfl, rfl, rfl, rfl⟩
  exact (h.trans (measure_bootKeeps _ _ _)).trans (measure_bootKeeps _ _ _)

/-- The control fabric is released and the keybox filled. -/
theorem fuseKeys_released (s : State) (ht : s.power.trimDone = true) :
    (fuseKeys (releaseWrite 1 s)).ward.release.getLsbD 0 = true ∧ keySlot (fuseKeys (releaseWrite 1 s)) 0 = s.ward.fuses.kImgf ∧
    (fuseKeys (releaseWrite 1 s)).ward.fuses = s.ward.fuses ∧ (fuseKeys (releaseWrite 1 s)).rd Reg.recov = s.rd Reg.recov := by
  have hone : releaseWrite 1 s = releaseBit s 0 := by
    rw [releaseWrite, if_pos ht]
    rfl
  have hset := releaseBit_sets (i := 0) (by decide) (s := s) (.inl (by decide))
  have hrel := releaseBit_released (i := 0) (by decide) s
  have hrd : (releaseBit s 0).rd Reg.recov = s.rd Reg.recov := by
    rw [releaseBit_eq]
    split
    · rfl
    · rfl
  have hfuses : (releaseBit s 0).ward.fuses = s.ward.fuses := by rw [hrel.ward]
  rw [hone]
  generalize releaseBit s 0 = t at hset hrd hfuses
  have hkey : keySlot (fuseKeys t) 0 = t.ward.fuses.kImgf := by
    simp [keySlot, fuseKeys, keyPut, State.modWard, tget_tset]
  have hr : (fuseKeys t).ward.release = t.ward.release := by simp only [fuseKeys, keyPut, State.modWard]
  have hf : (fuseKeys t).ward.fuses = t.ward.fuses := by simp only [fuseKeys, keyPut, State.modWard]
  have hd : (fuseKeys t).rd Reg.recov = t.rd Reg.recov := by
    simp only [fuseKeys, keyPut, State.rd, State.modWard_regs]
  rw [hkey, hfuses, hr, hf, hd]
  exact ⟨hset, rfl, hfuses, hrd⟩

/-- The seeking of images begins. -/
theorem coldBoot_eq {s : State} {straps : Nat} (hm : s.power.trimDone = true ∧ s.power.held = false ∧ s.ward.stage = 1) :
    coldBoot straps s = (if (fuseKeys (releaseWrite 1 s)).bit Reg.recov 0 then
      (loadSlot ((fuseKeys (releaseWrite 1 s)).wrb Reg.recov 0 false)).modWard fun w => { w with
        stage := 3, order := [], tried := 0, anv := { w.anv with chalCnt := w.slot.anvCeil } }
    else
      ((romMeasures (spentTrial (loadSlot (fuseKeys (releaseWrite 1 s))))).modWard fun w => { w with
          selection := selectionOf (spentTrial (loadSlot (fuseKeys (releaseWrite 1 s)))) straps,
          order := copyOrder (selectionOf (spentTrial (loadSlot (fuseKeys (releaseWrite 1 s)))) straps) w.slot,
          tried := 0, trialTaken := false, stage := 3,
          anv := { w.anv with chalCnt := w.slot.anvCeil } }).modRil fun r => { r with
        openCnt := (romMeasures (spentTrial (loadSlot (fuseKeys (releaseWrite 1 s))))).ward.slot.openCeil,
        ceiling := (romMeasures (spentTrial (loadSlot (fuseKeys (releaseWrite 1 s))))).ward.slot.openCeil }) := by
  obtain ⟨ht, hh, hs⟩ := hm
  refine if_pos ?_
  rw [ht, hh, hs]
  rfl

theorem coldBoot_recovery {s : State} {straps : Nat} (hm : s.power.trimDone = true ∧ s.power.held = false ∧ s.ward.stage = 1)
    (hr : s.bit Reg.recov 0 = true) : (coldBoot straps s).ward.stage = 3 ∧ (coldBoot straps s).ward.order = [] ∧
      (coldBoot straps s).ward.tried = 0 ∧ (coldBoot straps s).bit Reg.recov 0 = false ∧
      (coldBoot straps s).ward.release.getLsbD 0 = true ∧ keySlot (coldBoot straps s) 0 = s.ward.fuses.kImgf := by
  obtain ⟨hrel, hkey, -, hrd⟩ := fuseKeys_released s hm.1
  rw [coldBoot_eq hm]
  generalize fuseKeys (releaseWrite 1 s) = t at hrel hkey hrd
  rw [if_pos (by rw [State.bit, hrd]; exact hr)]
  have hk := loadSlot_bootKeeps (t.wrb Reg.recov 0 false)
  generalize loadSlot (t.wrb Reg.recov 0 false) = u at hk
  refine ⟨rfl, rfl, rfl, ?_, ?_, ?_⟩
  · show (u.rd Reg.recov).getLsbD 0 = false
    rw [hk.recov]
    exact (State.bit_wrb t Reg.recov 0 0 false (by decide)).trans (if_pos rfl)
  · show u.ward.release.getLsbD 0 = true
    rw [hk.release]
    exact hrel
  · show tget [] u.ward.keys 0 = _
    rw [hk.keys]
    exact hkey

theorem coldBoot_seeks {s : State} {straps : Nat} (hm : s.power.trimDone = true ∧ s.power.held = false ∧ s.ward.stage = 1)
    (hr : s.bit Reg.recov 0 = false) : (coldBoot straps s).ward.stage = 3 ∧ (coldBoot straps s).ward.tried = 0 ∧
      (coldBoot straps s).ward.release.getLsbD 0 = true ∧ keySlot (coldBoot straps s) 0 = s.ward.fuses.kImgf ∧
      (coldBoot straps s).ward.selection =
        (if 8 ≤ s.ward.fuses.bootLock.toNat then s.ward.fuses.bootLock.toNat % 8 else straps) ∧
      (coldBoot straps s).ward.order = copyOrder (coldBoot straps s).ward.selection (coldBoot straps s).ward.slot ∧
      (coldBoot straps s).ril.openCnt = (coldBoot straps s).ward.slot.openCeil ∧
      (coldBoot straps s).ril.ceiling = (coldBoot straps s).ward.slot.openCeil := by
  obtain ⟨hrel, hkey, hfuse, hrd⟩ := fuseKeys_released s hm.1
  rw [coldBoot_eq hm]
  generalize fuseKeys (releaseWrite 1 s) = t at hrel hkey hfuse hrd
  rw [if_neg (by rw [State.bit, hrd]; exact Bool.eq_false_iff.mp hr)]
  have hk := (loadSlot_bootKeeps t).trans (spentTrial_bootKeeps _)
  generalize spentTrial (loadSlot t) = u at hk
  have hsel : selectionOf u straps = if 8 ≤ s.ward.fuses.bootLock.toNat then s.ward.fuses.bootLock.toNat % 8 else straps := by
    unfold selectionOf
    rw [hk.fuses, hfuse]
  have hv := hk.trans (romMeasures_bootKeeps u)
  generalize romMeasures u = v at hv
  generalize selectionOf u straps = sel at hsel
  refine ⟨rfl, rfl, ?_, ?_, hsel, rfl, rfl, rfl⟩
  · show v.ward.release.getLsbD 0 = true
    rw [hv.release]
    exact hrel
  · show tget [] v.ward.keys 0 = _
    rw [hv.keys]
    exact hkey

theorem coldBoot_idle {s : State} {straps : Nat}
    (hm : ¬(s.power.trimDone = true ∧ s.power.held = false ∧ s.ward.stage = 1)) : coldBoot straps s = s := by
  refine if_neg fun h => hm ?_
  simpa [and_assoc] using h

/-! ### The recovery loader -/

theorem tallyOf_talliesWith {n : Nat} (hn : n < 8) (v : List Byte) (s : State) : tallyOf (talliesWith n v s) n = v := by
  show (((List.range 8).map fun i => if i = n then v else tallyOf s i)[n]?).getD _ = v
  rw [List.getElem?_map, List.getElem?_range hn]
  exact if_pos rfl

/-- A measurement into a tally that is not frozen extends it. -/
theorem measure_extends {n : Nat} (hn : n < 8) (m : Meas) {s : State} (hf : s.ward.freeze.getLsbD n = false) :
    tallyOf (measure n m s) n = Config.sha256 (tallyOf s n ++ Config.sha256 (measBytes m)) := by
  rw [measure_eq, hf, if_neg (by decide)]
  generalize hv : Config.sha256 (tallyOf s n ++ Config.sha256 (measBytes m)) = v
  obtain ⟨r, hr, -⟩ := tallySum_rest (talliesWith n v (logged m s))
  have hward : (tallySum (talliesWith n v (logged m s))).ward = (talliesWith n v (logged m s)).ward := by rw [hr]
  unfold tallyOf
  rw [hward]
  exact tallyOf_talliesWith hn v _

/-- The Warden as its recovery loader starts. -/
def loaderStarted (s : State) : State := s.modWard fun w =>
  { w with keylock := true, recovery := true, stage := 14, xfer := none }

theorem recoveryLoader_starts {s : State} (h : exhausted s = true) :
    (recoveryLoader s).ward.keylock = true ∧ (recoveryLoader s).ward.recovery = true ∧ (recoveryLoader s).ward.stage = 14 ∧
      (recoveryLoader s).bit Reg.faultStat 0 = true ∧ (recoveryLoader s).ward.xfer = none ∧
      (s.ward.freeze.getLsbD 7 = false → tallyOf (recoveryLoader s) 7 = Config.sha256 (tallyOf s 7 ++
        Config.sha256 (measBytes ⟨13, 0xFF, 0xFF, 0, 0, 0, List.replicate 32 0#8⟩))) := by
  have he : recoveryLoader s =
      (measure 7 ⟨13, 0xFF, 0xFF, 0, 0, 0, List.replicate 32 0#8⟩ (loaderStarted s)).wrb Reg.faultStat 0 true := if_pos h
  obtain ⟨r, ta, lg, hrest, -⟩ := measure_rest 7 ⟨13, 0xFF, 0xFF, 0, 0, 0, List.replicate 32 0#8⟩ (loaderStarted s)
  have hext := measure_extends (n := 7) (by decide) ⟨13, 0xFF, 0xFF, 0, 0, 0, List.replicate 32 0#8⟩ (s := loaderStarted s)
  rw [he]
  generalize measure 7 ⟨13, 0xFF, 0xFF, 0, 0, 0, List.replicate 32 0#8⟩ (loaderStarted s) = t at hrest hext
  refine ⟨?_, ?_, ?_, ?_, ?_, hext⟩
  · rw [State.wrb_ward, hrest]
    rfl
  · rw [State.wrb_ward, hrest]
    rfl
  · rw [State.wrb_ward, hrest]
    rfl
  · exact (State.bit_wrb t Reg.faultStat 0 0 true (by decide)).trans (if_pos rfl)
  · rw [State.wrb_ward, hrest]
    rfl

/-! ### The obligation -/

theorem AttemptFailed.all {s u : State} {c : CopyId} {cause : Nat} (h : AttemptFailed s u c cause) :
    u.ward.cause = cause ∧ u.ward.causeStage = s.ward.stage ∧ u.ward.copy = copyNo c ∧
    u.ward.attempts = s.ward.attempts + 1 ∧ u.ward.failed = s.ward.failed + 1 ∧ u.ward.tried = s.ward.tried + 1 ∧
    u.ward.stage = s.ward.stage ∧ u.ward.imgs = s.ward.imgs ∧ u.ward.tallies = s.ward.tallies ∧ u.ward.log = s.ward.log ∧
    u.ward.xfer = none ∧ u.ward.engTry = none ∧ u.ward.release = s.ward.release ∧ u.ward.keylock = s.ward.keylock ∧
    (isPendingCopy s c = false → u.ward.slot = s.ward.slot) ∧
    (isPendingCopy s c = true → u.ward.slot = { setStateOf (c == .slotB) .failed s.ward.slot with seq := s.ward.slot.seq + 1#32 }) :=
  ⟨h.cause, h.causeStage, h.copy, h.attempts, h.failed, h.tried, h.stage, h.imgs, h.tallies, h.log, h.xfer, h.engTry, h.release,
    h.keylock, h.slot, h.slotFailed⟩

theorem AttemptPassed.all {s u : State} {k : ImageKind} {img : BootImg} (h : AttemptPassed s u k img) :
    u.ward.stage = stageFor k + 1 ∧ u.ward.tried = 0 ∧ u.ward.attempts = s.ward.attempts + 1 ∧
    u.ward.failed = s.ward.failed ∧ u.ward.imgs = tset none s.ward.imgs (kindNo k) (some img) :=
  ⟨h.stage, h.tried, h.attempts, h.failed, h.imgs⟩

/-- A copy whose turn it is and whose image passes installs it. -/
theorem imageAttempt_installs {s u : State} {k : ImageKind} {c : CopyId} (hn : nextCopy s k = some c) (hc : c ≠ .network)
    (hp : isPendingCopy s c = false) (h0 : causeOf s k c = 0)
    (hi : install k c (attemptBytes s k c).1 (noted s k c) = some u) : exec (.imageAttempt k c) s = .next u :=
  (imageAttempt_turn hn hc hp).trans (congrArg Host.Outcome.next (attempt_installs h0 hi))

theorem keepPlan_notPending (s : State) : isPendingCopy s .keepPlan = false := by
  unfold isPendingCopy
  rcases pendingSlot s.ward.slot with _ | b
  · rfl
  · cases b <;> rfl

/-- A first attempt from a PENDING slot takes one trial. -/
def trialTakenFrom (s : State) : State :=
  (slotWrite (fun r => { r with trials := r.trials - 1 }) s).modWard fun w => { w with trialTaken := true }

theorem trialTakenFrom_next (s : State) (k : ImageKind) : nextCopy (trialTakenFrom s) k = nextCopy s k := by
  obtain ⟨r, hr⟩ : ∃ r, (trialTakenFrom s).ward = { s.ward with slot := r, trialTaken := true } := ⟨_, rfl⟩
  have hm : (trialTakenFrom s).msg = s.msg := by
    rw [trialTakenFrom, State.modWard_msg, slotWrite, State.modWard_msg, State.mwrBytes_msg]
  unfold nextCopy
  rw [hr, hm]

/-- The attempt itself, once a trial has been counted. -/
def attemptOn (k : ImageKind) (c : CopyId) (s : State) : State :=
  if c = .network then
    match s.ward.xfer with
    | none =>
      if optionRow s 34 = 0#32 ∨ optionRow s 36 = 0#32 then attemptFails k c 1 s
      else xferStart false k none 0#16 [] (netBoot s)
    | some x => if xferWhole x then attempt' k c s else s
  else attempt' k c s

theorem imageAttempt_eq (k : ImageKind) (c : CopyId) (s : State) : imageAttempt k c s =
    if nextCopy s k = some c then attemptOn k c
      (if isPendingCopy s c && !s.ward.trialTaken && decide (s.ward.slot.trials ≠ 0) then trialTakenFrom s else s)
    else s := rfl

theorem imageAttempt_trial {s : State} {k : ImageKind} {c : CopyId} (hn : nextCopy s k = some c) (hp : isPendingCopy s c = true)
    (ht : s.ward.trialTaken = false) (hz : s.ward.slot.trials ≠ 0) :
    imageAttempt k c s = imageAttempt k c (trialTakenFrom s) := by
  have hfirst : (isPendingCopy s c && !s.ward.trialTaken && decide (s.ward.slot.trials ≠ 0)) = true := by
    rw [hp, ht, decide_eq_true hz]
    rfl
  have hagain : (isPendingCopy (trialTakenFrom s) c && !(trialTakenFrom s).ward.trialTaken &&
      decide ((trialTakenFrom s).ward.slot.trials ≠ 0)) = false := by
    rw [show (trialTakenFrom s).ward.trialTaken = true from rfl, Bool.not_true, Bool.and_false, Bool.false_and]
  rw [imageAttempt_eq, imageAttempt_eq, if_pos hn, if_pos ((trialTakenFrom_next s k).trans hn), if_pos hfirst, hagain,
    if_neg (by decide)]

/-- A network copy without the part's address or its server's fails with SOURCE. -/
theorem imageAttempt_unaddressed {s : State} {k : ImageKind} (hn : nextCopy s k = some .network) (hx : s.ward.xfer = none)
    (hr : s.rd 0x40000888 = 0#32 ∨ s.rd 0x40000890 = 0#32) :
    imageAttempt k .network s = attemptFails k .network 1 s := by
  have hp : isPendingCopy s .network = false := by
    unfold isPendingCopy
    rcases pendingSlot s.ward.slot with _ | b
    · rfl
    · cases b <;> rfl
  rw [imageAttempt_eq, if_pos hn, hp, Bool.false_and, Bool.false_and, if_neg (by decide)]
  unfold attemptOn
  rw [if_pos rfl, hx]
  exact if_pos hr

theorem bootTimeout_turn {s : State} {k : ImageKind} {c : CopyId} (hn : nextCopy s k = some c) :
    bootTimeout k c s = attemptFails k c 10 s := by
  have htry : s.ward.engTry = none := by
    unfold nextCopy at hn
    split at hn
    next h => exact h.2.2.1
    next => cases hn
  have hwait : (k == .engine && s.ward.engTry.isSome && s.ward.order[s.ward.tried]? == some c) = false := by
    rw [htry]
    simp
  unfold bootTimeout
  rw [hwait]
  exact if_pos (.inl hn)

theorem bootTimeout_idle {s : State} {k : ImageKind} {c : CopyId} (hn : nextCopy s k ≠ some c)
    (h : k ≠ .engine ∨ s.ward.engTry = none ∨ s.ward.order[s.ward.tried]? ≠ some c) : bootTimeout k c s = s := by
  have hwait : (k == .engine && s.ward.engTry.isSome && s.ward.order[s.ward.tried]? == some c) = false := by
    rcases h with h | h | h
    · simp [h]
    · simp [h]
    · simp [h]
  unfold bootTimeout
  rw [hwait]
  exact if_neg (not_or.mpr ⟨hn, by decide⟩)

theorem bootTimeout_waiting {s : State} {c : CopyId} (he : s.ward.engTry ≠ none) (ho : s.ward.order[s.ward.tried]? = some c) :
    bootTimeout .engine c s = attemptFails .engine c 10 (cancelSwap s) := by
  have hwait : (ImageKind.engine == .engine && s.ward.engTry.isSome && s.ward.order[s.ward.tried]? == some c) = true := by
    rw [ho, Option.isSome_iff_ne_none.mpr he]
    simp
  unfold bootTimeout
  rw [hwait]
  exact if_pos (.inr rfl)

theorem cancelSwap_spec (s : State) : (cancelSwap s).ward = s.ward ∧
    (cancelSwap s).eng.swapCancel = (s.eng.swapCancel || s.eng.armed) := by
  unfold cancelSwap
  split
  next h => exact ⟨rfl, by rw [h, Bool.or_true]⟩
  next h => exact ⟨rfl, by rw [Bool.eq_false_iff.mpr h, Bool.or_false]⟩

/-- Settles O56: each copy is read, checked, and installed or failed, by what its kind installs. -/
theorem bootAttemptsInstallOrFail : Obligations.BootAttemptsInstallOrFail := by
  unfold Obligations.BootAttemptsInstallOrFail
  intro may causeOf' bytes body turn failed noted' staged passed
  refine ⟨?idle, ?recovery, ?seeks, ?notTurn, ?fails, ?planFails, ?trial, ?stage1, ?content, ?tenant, ?preset, ?plan, ?engine,
    ?control, ?timeout, ?netTimeout, ?unaddressed, ?loader⟩
  case idle => exact fun s straps h => congrArg Host.Outcome.next (coldBoot_idle h)
  case recovery => exact fun s straps hm hr => ⟨_, rfl, coldBoot_recovery hm hr⟩
  case seeks => exact fun s straps hm hr => ⟨_, rfl, coldBoot_seeks hm hr⟩
  case notTurn => exact fun s k c h => congrArg Host.Outcome.next (if_neg h)
  case fails =>
    rintro s k c ⟨hn, hc, hp⟩ hk h0
    have hx := imageAttempt_turn hn hc hp
    rw [attempt_fails h0] at hx
    exact ⟨_, hx, (attemptFails_failed hk (noted_ward s k c) c _).1.all⟩
  case planFails =>
    intro s hn h0
    have hx := imageAttempt_turn hn (by decide) (keepPlan_notPending s)
    rw [attempt_fails h0] at hx
    exact ⟨_, hx, rfl, rfl, rfl⟩
  case trial =>
    intro s k c hn hp ht hz
    exact congrArg Host.Outcome.next (imageAttempt_trial hn hp ht hz)
  case stage1 =>
    rintro s c ⟨hn, hc, hp⟩ h0
    obtain ⟨u, hi, hpass, hpc, hmem⟩ := install_stage1 c (attemptBytes s .stage1 c).1 (noted_ward s .stage1 c)
    obtain ⟨r, hr⟩ := noted_regs h0
    rw [bootBody_noted, hr] at hmem
    exact ⟨u, imageAttempt_installs hn hc hp h0 hi, hpass.all, hpc, hmem⟩
  case content =>
    rintro s k c ⟨hn, hc, hp⟩ h0 hbad
    have hk : k ≠ .plan := by rcases hbad with ⟨rfl, -⟩ | ⟨rfl, -⟩ | ⟨rfl, -⟩ <;> decide
    have hbody : (if isJoeno k then joenoPlain (noted s k c) (attemptBytes s k c).1
        else bootBody (noted s k c) (attemptBytes s k c).1).getD [] = body s k c := by
      rw [joenoPlain_noted, bootBody_noted]
    have hi := install_none (c := c) (b := (attemptBytes s k c).1) hbody (by
      refine hbad.imp (fun h => ⟨h.1, ?_⟩) (Or.imp id fun h => ⟨h.1, ?_⟩)
      · rw [tenantOk, noted_ward]
        exact h.2
      · obtain ⟨rfl, h⟩ := h
        exact h)
    have hx := imageAttempt_turn hn hc hp
    rw [attempt_content h0 hi] at hx
    exact ⟨_, hx, (attemptFails_failed hk ((contentLeft_ward _ _ _).trans (noted_ward s k c)) c 9).1.all⟩
  case tenant =>
    rintro s c ⟨hn, hc, hp⟩ h0 hok
    have hbody : (bootBody (noted s .tenant c) (attemptBytes s .tenant c).1).getD [] = body s .tenant c := by
      rw [bootBody_noted]
      rfl
    obtain ⟨u, hi, hpass, hact, hkey, hkey', hrel⟩ := install_tenant c (attemptBytes s .tenant c).1 (noted_ward s .tenant c)
      (noted_copyKept s .tenant c).power (by rw [tenantOk, noted_ward, hbody]; exact hok)
    rw [hbody] at hkey hkey'
    exact ⟨u, imageAttempt_installs hn hc hp h0 hi, hpass.all, hact, hkey, hkey', hrel⟩
  case preset =>
    rintro s c ⟨hn, hc, hp⟩ h0 hlen hall
    have hbody : (bootBody (noted s .preset c) (attemptBytes s .preset c).1).getD [] = body s .preset c := by
      rw [bootBody_noted]
      rfl
    obtain ⟨u, hi, hend⟩ := install_preset c (attemptBytes s .preset c).1 (t := noted s .preset c)
      (by rw [hbody]; exact hlen) (by rw [hbody]; exact hall)
    exact ⟨u, imageAttempt_installs hn hc hp h0 hi, hend⟩
  case plan =>
    intro s hn h0
    obtain ⟨u, hi, hpass, hdue⟩ := install_plan .keepPlan (attemptBytes s .plan .keepPlan).1 (noted_ward s .plan .keepPlan)
    exact ⟨u, imageAttempt_installs hn (by decide) (keepPlan_notPending s) h0 hi, hpass.all, hdue⟩
  case engine =>
    rintro s c ⟨hn, hc, hp⟩ h0 hinc hst
    obtain ⟨u, hi, hend⟩ := install_engine c (attemptBytes s .engine c).1 (noted_ward s .engine c) hinc
      (by rw [joenoPlain_noted]; exact hst)
    exact ⟨u, imageAttempt_installs hn hc hp h0 hi, hend⟩
  case control =>
    rintro s c ⟨hn, hc, hp⟩ h0
    obtain ⟨u, hi, hend⟩ := install_control c (attemptBytes s .control c).1 (noted_ward s .control c)
      (noted_copyKept s .control c).power
    exact ⟨u, imageAttempt_installs hn hc hp h0 hi, hend⟩
  case timeout =>
    intro s k c
    refine ⟨fun hn hk => ?_, fun hn h => congrArg Host.Outcome.next (bootTimeout_idle hn h), fun he ho => ?_⟩
    · exact ⟨_, congrArg Host.Outcome.next (bootTimeout_turn hn), (attemptFails_failed hk rfl c 10).1.all⟩
    · obtain ⟨hw, hswap⟩ := cancelSwap_spec s
      obtain ⟨hfail, heng⟩ := attemptFails_failed (k := .engine) (by decide) hw c 10
      exact ⟨_, congrArg Host.Outcome.next (bootTimeout_waiting he ho), hfail.all, (by rw [heng]; exact hswap)⟩
  case netTimeout =>
    intro s k
    refine ⟨fun hn hk hx => ?_, fun h => congrArg Host.Outcome.next (if_neg ?_)⟩
    · exact ⟨_, congrArg Host.Outcome.next (if_pos ⟨hn, Option.isSome_iff_ne_none.mpr hx⟩),
        (attemptFails_failed hk rfl .network 1).1.all⟩
    · rintro ⟨hn, hx⟩
      exact h.elim (fun h => h hn) (fun h => Option.isSome_iff_ne_none.mp hx h)
  case unaddressed =>
    intro s k hn hk hx hr
    exact ⟨_, congrArg Host.Outcome.next (imageAttempt_unaddressed hn hx hr), (attemptFails_failed hk rfl .network 1).1.all⟩
  case loader =>
    intro s
    refine ⟨fun h => congrArg Host.Outcome.next (if_neg (by rw [h]; decide)), fun h => ⟨_, rfl, recoveryLoader_starts h⟩⟩

end Sys2Proof.Machine
end

section
/-! The Warden's mailbox, the revocation of roots, tallies, and the flash window (O57, chapters 23 and 24). -/

namespace Sys2Proof.Machine
open Sys2Proof

/-! ### Issuing a command -/

theorem masterWrite_word (m : Master) (a : Nat) (v : Word) (s : State) :
    (masterWrite m a 4 v.toNat s).2 = regAccess m a .word (v.setWidth 64) s := by
  have hv : (v.setWidth 64).toNat % 2 ^ 32 = v.toNat := by
    rw [BitVec.toNat_setWidth_of_le (by decide)]
    exact Nat.mod_eq_of_lt v.isLt
  show _ = (masterWrite m a 4 ((v.setWidth 64).toNat % 2 ^ 32) s).2
  rw [hv]

theorem mailbox_argument {s : State} {m : Master} (h : reaches s m true 0x40000604 = true) (arg : Word) :
    (masterWrite m 0x40000604 4 arg.toNat s).2 = s.wr 0x40000604 arg := by
  have hv : (arg.setWidth 64).setWidth 32 = arg := by
    apply BitVec.eq_of_toNat_eq
    rw [BitVec.toNat_setWidth, BitVec.toNat_setWidth_of_le (by decide)]
    exact Nat.mod_eq_of_lt arg.isLt
  rw [masterWrite_word, regAccess_rw s m _ 0xFFFFFFFF _ h (row_of_map (by decide)) (by decide) (by decide) (by decide),
    and_full, hv]
  rfl

/-- The nine commands of the mailbox, by their values. -/
def mailboxCodes : List Nat := [1, 2, 16, 17, 18, 19, 20, 21, 22]

theorem mailbox_command {s : State} {m : Master} (h : reaches s m true 0x40000600 = true) {cmd : Nat} (hc : cmd ∈ mailboxCodes) :
    (masterWrite m 0x40000600 4 cmd s).2 = wmboxCommand (BitVec.ofNat 32 cmd) s := by
  have hlt : cmd < 256 := by
    revert cmd
    decide
  have hn : cmd = (BitVec.ofNat 32 cmd).toNat := by
    rw [BitVec.toNat_ofNat, Nat.mod_eq_of_lt (by omega)]
  have hv : ((BitVec.ofNat 32 cmd).setWidth 64).setWidth 32 &&& BitVec.ofNat 32 255 = BitVec.ofNat 32 cmd := by
    revert cmd
    decide
  have hw := masterWrite_word m 0x40000600 (BitVec.ofNat 32 cmd) s
  rw [← hn] at hw
  rw [hw, regAccess_rw s m _ 255 _ h (row_of_map (by decide)) (by decide) (by decide) (by decide), hv]
  rfl

/-- A command under way, in the state in which it has been issued. -/
def issuedState (s : State) (cmd : Nat) (arg : Word) : State := wardenInt 0
  (((s.wr 0x40000604 arg).wr 0x40000600 (BitVec.ofNat 32 cmd)).modWard fun w =>
    { w with mbox := some (cmd, arg, none), mboxOverrun := false })

theorem wmboxCommand_issues {s : State} (h : s.ward.mbox = none) {cmd : Nat} (hc : cmd ∈ mailboxCodes) (arg : Word) :
    wmboxCommand (BitVec.ofNat 32 cmd) (s.wr 0x40000604 arg) = issuedState s cmd arg := by
  have hbyte : BitVec.ofNat 32 cmd &&& 0xFF#32 = BitVec.ofNat 32 cmd ∧ fld (BitVec.ofNat 32 cmd) 0 8 = cmd := by
    revert cmd
    decide
  unfold wmboxCommand
  rw [State.wr_ward, h, if_neg (by decide), hbyte.1, hbyte.2, State.rd_wr, if_pos rfl]
  rfl

theorem issuedState_ward (s : State) (cmd : Nat) (arg : Word) :
    (issuedState s cmd arg).ward = { s.ward with mbox := some (cmd, arg, none), mboxOverrun := false } := rfl

theorem issuedState_serves (s : State) (cmd : Nat) (arg : Word) : wardenServes (issuedState s cmd arg) = wardenServes s := by
  unfold wardenServes
  rw [issuedState_ward]
  rfl

theorem mailboxServe_under {s : State} {c : Nat} {a : Word} (h : s.ward.mbox = some (c, a, none)) :
    mailboxServe s = if wardenServes s then (mailboxAct c a.toNat s).2.modWard fun w =>
      { w with mbox := some (c, a, some (mailboxAct c a.toNat s).1) } else s := by
  unfold mailboxServe
  rw [h]

/-- A mailbox command: behind one under way it sets OVERRUN, else it is issued, and served where the Warden serves. -/
theorem mailboxIssue_spec {s : State} {m : Master} {arg : Word} (h1 : reaches s m true 0x40000604 = true)
    (h2 : reaches (s.wr 0x40000604 arg) m true 0x40000600 = true) {cmd : Nat} (hc : cmd ∈ mailboxCodes) :
    (s.ward.mbox ≠ none → mailboxIssue cmd m arg s = (s.wr 0x40000604 arg).modWard fun w => { w with mboxOverrun := true }) ∧
    (s.ward.mbox = none → wardenServes s = false → mailboxIssue cmd m arg s = issuedState s cmd arg) ∧
    (s.ward.mbox = none → wardenServes s = true → mailboxIssue cmd m arg s =
      (mailboxAct cmd arg.toNat (issuedState s cmd arg)).2.modWard fun w => { w with
        mbox := some (cmd, arg, some (mailboxAct cmd arg.toNat (issuedState s cmd arg)).1) }) := by
  have hi : mailboxIssue cmd m arg s = if s.ward.mbox.isNone then
      mailboxServe (wmboxCommand (BitVec.ofNat 32 cmd) (s.wr 0x40000604 arg))
      else wmboxCommand (BitVec.ofNat 32 cmd) (s.wr 0x40000604 arg) := by
    unfold mailboxIssue
    dsimp only
    rw [mailbox_argument h1, mailbox_command h2 hc, State.wr_ward]
  have hserve : s.ward.mbox = none → mailboxIssue cmd m arg s = if wardenServes s then
      (mailboxAct cmd arg.toNat (issuedState s cmd arg)).2.modWard fun w => { w with
        mbox := some (cmd, arg, some (mailboxAct cmd arg.toNat (issuedState s cmd arg)).1) } else issuedState s cmd arg := by
    intro hm
    rw [hi, hm, Option.isNone_none, if_pos rfl, wmboxCommand_issues hm hc, mailboxServe_under (congrArg Warden.mbox (issuedState_ward s cmd arg)), issuedState_serves]
  refine ⟨fun hm => ?_, fun hm hs => ?_, fun hm hs => ?_⟩
  · have hsome := Option.isSome_iff_ne_none.mpr hm
    rw [hi, ← Option.not_isSome, hsome, if_neg (by decide), wmboxCommand, State.wr_ward, hsome, if_pos rfl]
  · rw [hserve hm, hs, if_neg (by decide)]
  · rw [hserve hm, hs, if_pos rfl]

/-! ### Slot commands -/

/-- One slot record with the next SEQ stands in its line. -/
def SlotRecorded (s u : State) : Prop := u.ward.slot.seq = s.ward.slot.seq + 1#32 ∧
  u.mem = memPutBytes s.mem (slotLine u.ward.slot.seq.toNat) (slotBytes u.ward.slot)

theorem slotWrite_recorded (f : SlotRec → SlotRec) (s : State) : SlotRecorded s (slotWrite f s) := by
  rw [SlotRecorded, slotWrite_ward]
  refine ⟨rfl, ?_⟩
  simp only [slotWrite, State.modWard_mem, State.mwrBytes]

theorem slotWindow_ward (b on : Bool) (s : State) : (slotWindow b on s).ward = s.ward := State.wrb_ward _ _ _ _

theorem slotWindow_mem (b on : Bool) (s : State) : (slotWindow b on s).mem = s.mem := State.wrb_mem _ _ _ _

theorem SlotRecorded.window {s u : State} (h : SlotRecorded s u) (b on : Bool) : SlotRecorded s (slotWindow b on u) := by
  rw [SlotRecorded, slotWindow_ward, slotWindow_mem]
  exact h

theorem SlotRecorded.of_window {s u : State} {b on : Bool} (h : SlotRecorded (slotWindow b on s) u) : SlotRecorded s u := by
  rw [SlotRecorded, slotWindow_ward, slotWindow_mem] at h
  exact h

theorem slotWindow_bit (b on : Bool) (s : State) : (slotWindow b on s).bit Reg.flashWp (b2n b) = on :=
  (State.bit_wrb s Reg.flashWp (b2n b) (b2n b) on (by cases b <;> decide)).trans (if_pos rfl)

theorem stateOf_setStateOf (b : Bool) (x : SlotSt) (r : SlotRec) : stateOf (setStateOf b x r) b = x ∧
    stateOf (setStateOf b x r) (!b) = stateOf r (!b) := by
  cases b <;> exact ⟨rfl, rfl⟩

/-- The states of a record's slots are those of any record with its fields. -/
theorem stateOf_congr {r r' : SlotRec} (hA : r'.stA = r.stA) (hB : r'.stB = r.stB) (b : Bool) : stateOf r' b = stateOf r b := by
  unfold stateOf
  rw [hA, hB]

theorem slotWrite_state (f : SlotRec → SlotRec) (s : State) (b : Bool) :
    stateOf (slotWrite f s).ward.slot b = stateOf (f s.ward.slot) b := rfl

theorem mailboxAct_at {a : Nat} (h : argOk a = true) (s : State) :
    mailboxAct 16 a s = beginSlotAct (argWord s a) s ∧ mailboxAct 17 a s = markPendingAct (argWord s a) s ∧
    mailboxAct 20 a s = writeKAct a s ∧ mailboxAct 21 a s = writePlanAct a s ∧ mailboxAct 22 a s = burnFloorAct (argWord s a) s ∧
    mailboxAct 1 a s = verifyGraphAct a s ∧ mailboxAct 2 a s = measureAct a s :=
  ⟨if_pos h, if_pos h, if_pos h, if_pos h, if_pos h, if_pos h, if_pos h⟩

theorem beginSlotAct_spec {s : State} {n : Nat} {b : Bool} (hn : slotNamed n = some b) :
    (s.ward.slot.activeB = b ∨ suppliedAny s (copyOf b) = true → beginSlotAct n s = (33, s)) ∧
    (s.ward.slot.activeB ≠ b → suppliedAny s (copyOf b) = false → ∃ u, beginSlotAct n s = (0, u) ∧ SlotRecorded s u ∧
      stateOf u.ward.slot b = .writing ∧ stateOf u.ward.slot (!b) = stateOf s.ward.slot (!b) ∧ u.bit Reg.flashWp (b2n b) = true) := by
  have he : beginSlotAct n s = if s.ward.slot.activeB = b ∨ suppliedAny s (copyOf b) = true then refusedCmd s
      else (0, slotWindow b true (slotWrite (setStateOf b .writing) s)) := by
    unfold beginSlotAct
    rw [hn]
  refine ⟨fun h => he.trans (if_pos h), fun ha hs => ?_⟩
  obtain ⟨hset, hother⟩ := stateOf_setStateOf b .writing s.ward.slot
  refine ⟨_, he.trans (if_neg (not_or.mpr ⟨ha, by rw [hs]; decide⟩)), (slotWrite_recorded _ s).window b true, ?_, ?_,
    slotWindow_bit _ _ _⟩
  · rw [slotWindow_ward]
    exact hset
  · rw [slotWindow_ward]
    exact hother

/-- What MARK_PENDING writes of the record. -/
def pendingRec (b : Bool) (build : Word) (r : SlotRec) : SlotRec :=
  let r1 := { setStateOf b .pending r with trials := 3 }
  if b then { r1 with buildB := build } else { r1 with buildA := build }

theorem pendingRec_spec (b : Bool) (build : Word) (r : SlotRec) : stateOf (pendingRec b build r) b = .pending ∧
    stateOf (pendingRec b build r) (!b) = stateOf r (!b) ∧ (pendingRec b build r).trials = 3 := by
  cases b <;> exact ⟨rfl, rfl, rfl⟩

theorem markPendingAct_spec {s : State} {n : Nat} {b : Bool} (hn : slotNamed n = some b) :
    (stateOf s.ward.slot b ≠ .writing → markPendingAct n s = (33, s)) ∧
    (stateOf s.ward.slot b = .writing →
      (setCheck (slotWindow b false s) (copyBytes (slotWindow b false s) (copyOf b)) 0x400000 ≠ 0 → markPendingAct n s =
        (setCheck (slotWindow b false s) (copyBytes (slotWindow b false s) (copyOf b)) 0x400000, slotWindow b false s)) ∧
      (setCheck (slotWindow b false s) (copyBytes (slotWindow b false s) (copyOf b)) 0x400000 = 0 →
        ∃ u, markPendingAct n s = (0, u) ∧ SlotRecorded s u ∧ stateOf u.ward.slot b = .pending ∧ u.ward.slot.trials = 3 ∧
          stateOf u.ward.slot (!b) = stateOf s.ward.slot (!b) ∧ u.bit Reg.flashWp (b2n b) = false)) := by
  have he : markPendingAct n s = if stateOf s.ward.slot b ≠ .writing then refusedCmd s
      else if setCheck (slotWindow b false s) (copyBytes (slotWindow b false s) (copyOf b)) 0x400000 ≠ 0 then
        (setCheck (slotWindow b false s) (copyBytes (slotWindow b false s) (copyOf b)) 0x400000, slotWindow b false s)
      else (0, slotWrite (pendingRec b (BitVec.ofNat 32 (le (copyBytes (slotWindow b false s) (copyOf b) 0 16) 8 4)))
        (slotWindow b false s)) := by
    unfold markPendingAct
    rw [hn]
    rfl
  refine ⟨fun h => he.trans (if_pos h), fun hw => ?_⟩
  rw [if_neg (not_not_intro hw)] at he
  refine ⟨fun hc => he.trans (if_pos hc), fun hc => ?_⟩
  rw [if_neg (not_not_intro hc)] at he
  generalize BitVec.ofNat 32 (le (copyBytes (slotWindow b false s) (copyOf b) 0 16) 8 4) = build at he
  obtain ⟨hset, hother, htrial⟩ := pendingRec_spec b build s.ward.slot
  have hbit : (slotWrite (pendingRec b build) (slotWindow b false s)).bit Reg.flashWp (b2n b) =
      (slotWindow b false s).bit Reg.flashWp (b2n b) := by
    rw [State.bit, State.rd, slotWrite, State.modWard_regs, State.mwrBytes_regs, ← State.rd, ← State.bit]
  refine ⟨_, he, (slotWrite_recorded _ _).of_window, ?_⟩
  rw [hbit, slotWrite_ward, slotWindow_ward]
  exact ⟨hset, htrial, hother, slotWindow_bit b false s⟩

theorem raiseSvn_at (k : ImageKind) (v : Nat) (r : SlotRec) {j : Nat} (hj : j < 6) : ((raiseSvn k v r).svnMin[j]?).getD 0 =
    if j = svnPlace k then max ((r.svnMin[j]?).getD 0) v else (r.svnMin[j]?).getD 0 := by
  show (((List.range 6).map fun i =>
    if i = svnPlace k then max ((r.svnMin[i]?).getD 0) v else (r.svnMin[i]?).getD 0)[j]?).getD 0 = _
  rw [List.getElem?_map, List.getElem?_range hj]
  rfl

/-- The SVN of the running image of a kind, 0 where none runs. -/
def runningSvn (s : State) (k : ImageKind) : Nat := ((runningImg s k).map (·.svn)).getD 0

/-- What CONFIRM writes of the record. -/
def confirmedRec (s : State) (b : Bool) (r : SlotRec) : SlotRec :=
  fiveKinds.foldl (fun r k => raiseSvn k (runningSvn s k) r) { setStateOf b .confirmed r with activeB := b, trials := 0 }

theorem confirmedRec_spec (s : State) (b : Bool) (r : SlotRec) : stateOf (confirmedRec s b r) b = .confirmed ∧
    (confirmedRec s b r).activeB = b ∧ (confirmedRec s b r).trials = 0 ∧ ∀ k ∈ fiveKinds,
      ((confirmedRec s b r).svnMin[svnPlace k]?).getD 0 = max ((r.svnMin[svnPlace k]?).getD 0) (runningSvn s k) := by
  have hmin : (setStateOf b .confirmed r).svnMin = r.svnMin := by cases b <;> rfl
  refine ⟨?_, rfl, rfl, fun k hk => ?_⟩
  · cases b <;> rfl
  · simp only [fiveKinds, List.mem_cons, List.not_mem_nil, or_false] at hk
    simp only [confirmedRec, fiveKinds, List.foldl_cons, List.foldl_nil]
    rcases hk with rfl | rfl | rfl | rfl | rfl <;>
      simp [raiseSvn_at, svnPlace, kindNo, hmin]

theorem confirmAct_spec {s : State} {b : Bool} (hb : pendingSlot s.ward.slot = some b) :
    (suppliedAll s (copyOf b) = false → confirmAct s = (33, s)) ∧
    (suppliedAll s (copyOf b) = true → ∃ u, confirmAct s = (0, u) ∧ SlotRecorded s u ∧ stateOf u.ward.slot b = .confirmed ∧
      u.ward.slot.activeB = b ∧ u.ward.slot.trials = 0 ∧ ∀ k ∈ fiveKinds, (u.ward.slot.svnMin[svnPlace k]?).getD 0 =
        max ((s.ward.slot.svnMin[svnPlace k]?).getD 0) (runningSvn s k)) := by
  have he : confirmAct s = if suppliedAll s (copyOf b) then (0, slotWrite (confirmedRec s b) s) else refusedCmd s := by
    unfold confirmAct
    rw [hb]
    rfl
  obtain ⟨hst, hact, htr, hsvn⟩ := confirmedRec_spec s b s.ward.slot
  refine ⟨fun h => he.trans (if_neg (by rw [h]; decide)), fun h => ⟨_, he.trans (if_pos h), slotWrite_recorded _ s, ?_⟩⟩
  rw [slotWrite_ward]
  exact ⟨hst, hact, htr, hsvn⟩

theorem abandonAct_spec {s : State} {b : Bool} (hb : pendingSlot s.ward.slot = some b) :
    ∃ u, abandonAct s = (0, u) ∧ SlotRecorded s u ∧ stateOf u.ward.slot b = .failed ∧
      u.ward.slot.activeB = s.ward.slot.activeB := by
  have he : abandonAct s = (0, slotWrite (setStateOf b .failed) s) := by
    unfold abandonAct
    rw [hb]
  refine ⟨_, he, slotWrite_recorded _ s, (stateOf_setStateOf b .failed s.ward.slot).1, ?_⟩
  rw [slotWrite_ward]
  cases b <;> rfl

/-! ### Images and measurements -/

theorem writePlanAct_spec {s : State} {a : Nat} (he : inEvacuate s = false) (hr : regionOf a ≠ .keep) :
    (argImage s a = none → writePlanAct a s = (1, s)) ∧
    (∀ b, argImage s a = some b → (imageCause s .plan b ≠ 0 → writePlanAct a s = (imageCause s .plan b, s)) ∧
      (imageCause s .plan b = 0 → ∃ u, writePlanAct a s = (0, u) ∧ u.msg.loadDue = true ∧ u.msg.planClear = true ∧
        SlotRecorded (s.mwrBytes 0x50000000 b) u ∧
        (u.ward.slot.svnMin[5]?).getD 0 = max ((s.ward.slot.svnMin[5]?).getD 0) (imgSvn .plan b))) := by
  have hgo : ¬(inEvacuate s = true ∨ regionOf a = .keep) := not_or.mpr ⟨by rw [he]; decide, hr⟩
  refine ⟨fun h => ?_, fun b h => ⟨fun hc => ?_, fun hc => ?_⟩⟩
  · unfold writePlanAct
    rw [if_neg hgo, h]
  · unfold writePlanAct
    rw [if_neg hgo, h]
    exact if_pos hc
  · have hw : writePlanAct a s = (0, (programPlan b s).modMsg fun m => { m with loadDue := true, planClear := true }) := by
      unfold writePlanAct
      rw [if_neg hgo, h]
      exact if_neg (not_not_intro hc)
    have hrec : SlotRecorded (s.mwrBytes 0x50000000 b) (programPlan b s) := slotWrite_recorded _ _
    refine ⟨_, hw, rfl, rfl, ?_, ?_⟩
    · rw [SlotRecorded, State.modMsg_ward, State.modMsg_mem]
      exact hrec
    rw [State.modMsg_ward, programPlan, slotWrite_ward]
    exact (raiseSvn_at .plan (imgSvn .plan b) s.ward.slot (by decide)).trans (if_pos rfl)

theorem verifyGraphAct_spec {s : State} {a : Nat} :
    (argImage s a = none → verifyGraphAct a s = (1, s)) ∧
    (∀ b, argImage s a = some b → (imageCause s .engine b ≠ 0 → verifyGraphAct a s = (imageCause s .engine b, s)) ∧
      (imageCause s .engine b = 0 →
        (verifyGraphAct a s).1 = 0 ∧ (verifyGraphAct a s).2.eng.verified = true ∨ (verifyGraphAct a s).1 = 9)) := by
  refine ⟨fun h => ?_, fun b h => ⟨fun hc => ?_, fun hc => ?_⟩⟩
  · unfold verifyGraphAct
    rw [h]
  · unfold verifyGraphAct
    rw [h]
    exact if_pos hc
  · unfold verifyGraphAct
    rw [h]
    dsimp only
    rw [if_neg (not_not_intro hc)]
    generalize stagedAgrees b ((joenoPlain s b).getD []) _ = v
    split
    · exact .inl ⟨rfl, rfl⟩
    · exact .inr rfl

theorem measureAct_spec {s : State} {a : Nat} :
    (le (argBytes s a 48) 0 2 ≠ 11 → measureAct a s = (33, s)) ∧
    (le (argBytes s a 48) 0 2 = 11 → s.ward.freeze.getLsbD 7 = false → ∃ u, measureAct a s = (0, u) ∧ tallyOf u 7 =
      Config.sha256 (tallyOf s 7 ++ Config.sha256 (measBytes (measOf (argBytes s a 48))))) :=
  ⟨fun h => if_neg h, fun h hf => ⟨_, if_pos h, measure_extends (by decide) _ hf⟩⟩

theorem burnFloorAct_spec {s : State} {n : Nat} :
    (¬(s.ward.fuses.svnFloor ≤ n ∧ n ≤ 64 ∧ ∀ x ∈ s.ward.imgs, ∀ i, x.2 = some i → n ≤ i.svn) → burnFloorAct n s = (33, s)) ∧
    (s.ward.fuses.svnFloor ≤ n ∧ n ≤ 64 ∧ (∀ x ∈ s.ward.imgs, ∀ i, x.2 = some i → n ≤ i.svn) →
      ∃ u, burnFloorAct n s = (0, u) ∧ u.ward.fuses = { s.ward.fuses with svnFloor := n }) := by
  have hall : ((s.ward.imgs.filterMap fun x => x.2.map (·.svn)).all fun v => decide (n ≤ v)) = true ↔
      ∀ x ∈ s.ward.imgs, ∀ i, x.2 = some i → n ≤ i.svn := by
    rw [List.all_eq_true]
    constructor
    · intro h x hx i hi
      exact of_decide_eq_true (h i.svn (List.mem_filterMap.mpr ⟨x, hx, by rw [hi]; rfl⟩))
    · intro h v hv
      obtain ⟨x, hx, hv⟩ := List.mem_filterMap.mp hv
      obtain ⟨i, hi, rfl⟩ := Option.map_eq_some_iff.mp hv
      exact decide_eq_true (h x hx i hi)
  refine ⟨fun h => if_neg ?_, fun h => ⟨_, if_pos ⟨h.1, h.2.1, hall.mpr h.2.2⟩, ?_⟩⟩
  · rintro ⟨hlo, hhi, hs⟩
    exact h ⟨hlo, hhi, hall.mp hs⟩
  · rw [(bootRecord_ward 2 _).1]
    rfl

/-! ### Completion, revocation, tallies and the flash window -/

theorem mailboxCompletion_spec (s : State) : (s.ward.mbox = none → mailboxCompletion s = s) ∧
    (∀ c a r, s.ward.mbox = some (c, a, some r) → mailboxCompletion s =
      pulse 15 (s.modWard fun w => { w with mbox := none, mboxResult := r, mboxSeq := w.mboxSeq + 1#16 })) := by
  refine ⟨fun h => ?_, fun c a r h => ?_⟩
  · have hs : mailboxServe s = s := by
      unfold mailboxServe
      rw [h]
    unfold mailboxCompletion
    dsimp only
    rw [hs, h]
  · have hs : mailboxServe s = s := by
      unfold mailboxServe
      rw [h]
    unfold mailboxCompletion
    dsimp only
    rw [hs, h]

/-- A revocation's measurement, from the state in which the fuse is programmed. -/
def revoked (k : Nat) (s : State) : State := s.modWard fun w => { w with
  fuses := { w.fuses with rootRevoke := w.fuses.rootRevoke ||| BitVec.ofNat 4 (2 ^ k) } }

theorem measure_log (n : Nat) (m : Meas) (s : State) :
    (measure n m s).ward.log = (s.ward.log ++ [m]).drop (s.ward.log.length + 1 - 64) ∧ (measure n m s).ward.fuses = s.ward.fuses := by
  have hl : (logged m s).ward.log = (s.ward.log ++ [m]).drop (s.ward.log.length + 1 - 64) := by
    show (s.ward.log ++ [m]).drop ((s.ward.log ++ [m]).length - 64) = _
    rw [List.length_append, List.length_singleton]
  rw [measure_eq]
  split
  · exact ⟨hl, rfl⟩
  · generalize Config.sha256 _ = v
    obtain ⟨r, hr, -⟩ := tallySum_rest (talliesWith n v (logged m s))
    rw [hr]
    exact ⟨hl, rfl⟩

theorem anvClose_ward (s : State) : (anvClose s).ward.fuses = s.ward.fuses ∧ (anvClose s).ward.log = s.ward.log ∧
    (anvClose s).ward.tallies = s.ward.tallies := ⟨rfl, rfl, rfl⟩

theorem rootRevokeAct_revokes {s : State} {k : Nat} (hk : k < 4) (hsign : (runningImg s .stage1).map (·.key) ≠ some k)
    (hleft : ∃ j < 4, j ≠ k ∧ keyUsable s j = true) :
    (rootRevokeAct k s).2.ward.fuses = { s.ward.fuses with rootRevoke := s.ward.fuses.rootRevoke ||| BitVec.ofNat 4 (2 ^ k) } ∧
    ∃ m, (rootRevokeAct k s).2.ward.log = (s.ward.log ++ [m]).drop (s.ward.log.length + 1 - 64) ∧ m.type = 14 ∧
      (s.ward.freeze.getLsbD 7 = false → tallyOf (rootRevokeAct k s).2 7 =
        Config.sha256 (tallyOf s 7 ++ Config.sha256 (measBytes m))) := by
  obtain ⟨j, hj, hjk, huse⟩ := hleft
  have hany : ((List.range 4).any fun j => j != k && keyUsable s j) = true :=
    List.any_eq_true.mpr ⟨j, List.mem_range.mpr hj, by rw [huse, Bool.and_true]; exact bne_iff_ne.mpr hjk⟩
  have hnot : ¬(4 ≤ k ∨ ((runningImg s .stage1).map (·.key) == some k) = true ∨
      ((List.range 4).any fun j => j != k && keyUsable s j) = false) := by
    rintro (h | h | h)
    · omega
    · exact hsign (eq_of_beq h)
    · exact absurd (hany.symm.trans h) (by decide)
  obtain ⟨m, t, ht, htype, he⟩ : ∃ m t, (∃ f, t = { revoked k s with free := f }) ∧ m.type = 14 ∧ (rootRevokeAct k s).2 =
      if (measure 7 m t).ward.anv.grants ≠ 0#3 ∧ (measure 7 m t).ward.anv.key = k then anvClose (measure 7 m t)
      else measure 7 m t := by
    obtain ⟨f, hf⟩ := drawBytes_state 8 (revoked k s)
    have hact : (rootRevokeAct k s) = (0, if (measure 7 ⟨14, 0xFF, k, 0, 0, (drawBytes 8 (revoked k s)).2.draw.1.toNat,
        (drawBytes 8 (revoked k s)).1⟩ (drawBytes 8 (revoked k s)).2.draw.2).ward.anv.grants ≠ 0#3 ∧
        (measure 7 ⟨14, 0xFF, k, 0, 0, (drawBytes 8 (revoked k s)).2.draw.1.toNat, (drawBytes 8 (revoked k s)).1⟩
          (drawBytes 8 (revoked k s)).2.draw.2).ward.anv.key = k then
        anvClose (measure 7 ⟨14, 0xFF, k, 0, 0, (drawBytes 8 (revoked k s)).2.draw.1.toNat, (drawBytes 8 (revoked k s)).1⟩
          (drawBytes 8 (revoked k s)).2.draw.2)
        else measure 7 ⟨14, 0xFF, k, 0, 0, (drawBytes 8 (revoked k s)).2.draw.1.toNat, (drawBytes 8 (revoked k s)).1⟩
          (drawBytes 8 (revoked k s)).2.draw.2) := if_neg hnot
    exact ⟨_, _, ⟨f + 1, by rw [hf]; rfl⟩, rfl, congrArg Prod.snd hact⟩
  obtain ⟨f, rfl⟩ := ht
  obtain ⟨hlog, hfuse⟩ := measure_log 7 m { revoked k s with free := f }
  have htally := measure_extends (n := 7) (by decide) m (s := { revoked k s with free := f })
  rw [he]
  generalize measure 7 m { revoked k s with free := f } = u at hlog hfuse htally
  split
  · obtain ⟨cf, cl, ct⟩ := anvClose_ward u
    refine ⟨cf.trans hfuse, m, cl.trans hlog, htype, fun hz => ?_⟩
    rw [tallyOf, ct]
    exact htally hz
  · exact ⟨hfuse, m, hlog, htype, htally⟩

theorem rootRevokeAct_refused {s : State} {k : Nat} (h : (runningImg s .stage1).map (·.key) = some k ∨
    ¬∃ j < 4, j ≠ k ∧ keyUsable s j = true) : (rootRevokeAct k s).2 = s := by
  have hno : 4 ≤ k ∨ ((runningImg s .stage1).map (·.key) == some k) = true ∨
      ((List.range 4).any fun j => j != k && keyUsable s j) = false := by
    rcases h with h | h
    · exact .inr (.inl (by rw [h]; exact beq_self_eq_true _))
    · refine .inr (.inr (Bool.eq_false_iff.mpr fun ha => h ?_))
      obtain ⟨j, hj, hb⟩ := List.any_eq_true.mp ha
      obtain ⟨hne, hu⟩ := Bool.and_eq_true_iff.mp hb
      exact ⟨j, List.mem_range.mp hj, bne_iff_ne.mp hne, hu⟩
  exact congrArg Prod.snd (if_pos hno)

/-- The Warden's write of TALLY_EXT. -/
theorem regAccess_tallyExt {s : State} {v : BitVec 64} (hh : s.power.held = false)
    (hpost : (postedOf s false).all (fun p => p.master != .warden) = true) :
    regAccess .warden 0xE0000240 .word v s = tallyExtend (v.toNat % 8)
      ((List.range 8).flatMap fun i => leBytes 4 (s.rd (0xE0000220 + 4 * i)).toNat) s := by
  obtain ⟨r, hrow, -⟩ := row_of_map_cls (a := 0xE0000240) (k := 7) (c := .w1) (by decide)
  have hfld : fld (BitVec.ofNat 32 (v.toNat % 2 ^ 32)) 0 3 = v.toNat % 8 := by
    rw [fld, BitVec.toNat_ofNat]
    omega
  have hheld : heldAt s 0xE0000240 = false := hh
  have hw : regWrite (whoOf s .warden) 0xE0000240 4 (v.toNat % 2 ^ 32) s = (true, tallyExtend (v.toNat % 8)
      ((List.range 8).flatMap fun i => leBytes 4 (s.rd (0xE0000220 + 4 * i)).toNat) s) := by
    unfold regWrite
    rw [show filterOf (whoOf s .warden) true 0xE0000240 = .pass from rfl]
    dsimp only
    rw [if_neg (by decide), hheld, show netDown s 0xE0000240 = false from rfl, if_neg (by decide),
      show wordOf (if regionOf 0xE0000240 = .slots then directOf 0xE0000240 else 0xE0000240) = 0xE0000240 from rfl,
      if_neg (by decide), hrow]
    dsimp only
    rw [if_neg (by decide), if_neg (by decide), if_neg (fun h => h.1 rfl), if_pos (by decide), ← hfld]
    rfl
  unfold regAccess masterWrite
  rw [show crosses s .warden 0xE0000240 = false from rfl, if_neg (by decide),
    writeNow_idle s .warden _ _ _ (fun h => absurd h (by decide)) (by exact hpost)]
  unfold busWrite
  rw [if_pos (by decide), if_neg (by decide)]
  exact congrArg Prod.snd hw

/-- Another master's write of TALLY_EXT is turned away and logged. -/
theorem regAccess_tallyExt_other {s : State} {m : Master} (hl : lvlOf s m ≠ .secure) (hc : crosses s m 0xE0000240 = false)
    (hpost : (postedOf s false).all (fun p => p.master != m) = true) (v : BitVec 64) :
    regAccess m 0xE0000240 .word v s = logAccess Reg.privFault 3 (masterId m) 4 0xE0000240 true s := by
  have hf : filterOf (whoOf s m) true 0xE0000240 = .dropped true := if_neg hl
  have hw : regWrite (whoOf s m) 0xE0000240 4 (v.toNat % 2 ^ 32) s =
      (true, logAccess Reg.privFault 3 (masterId m) 4 0xE0000240 true s) := by
    unfold regWrite
    rw [hf]
    rfl
  unfold regAccess masterWrite
  rw [hc, if_neg (by decide), writeNow_idle s m _ _ _ (fun h => absurd h (by decide)) (by exact hpost)]
  unfold busWrite
  rw [if_pos (by decide), if_neg (by decide)]
  exact congrArg Prod.snd hw

theorem tallyExtend_frozen {n : Nat} {s : State} (h : s.ward.freeze.getLsbD n = true) (m : List Byte) : tallyExtend n m s = s :=
  if_pos h

/-- A command into a slot whose window is closed is an event; another is done. -/
theorem flashProgram_spec (s : State) (off : Word) (erase : Bool) (bytes : List Byte) :
    (s.ward.release.getLsbD 0 = false → flashProgram off erase bytes s = s) ∧
    (s.ward.release.getLsbD 0 = true → (∃ i < max 1 bytes.length, flashClosed s (off.toNat + i) = true) →
      flashProgram off erase bytes s = sqSet Reg.flashWpEvt [0] (s.wr Reg.flashWpAddr off)) ∧
    (s.ward.release.getLsbD 0 = true → (¬∃ i < max 1 bytes.length, flashClosed s (off.toNat + i) = true) →
      flashProgram off erase bytes s =
        flashPut off.toNat (if erase then List.replicate bytes.length 0xFF#8 else bytes) s) := by
  have hany : ((List.range (max 1 bytes.length)).any fun i => flashClosed s (off.toNat + i)) = true ↔
      ∃ i < max 1 bytes.length, flashClosed s (off.toNat + i) = true := by
    rw [List.any_eq_true]
    exact exists_congr fun i => and_congr_left' List.mem_range
  refine ⟨fun h => if_neg (by rw [released, h]; decide), fun h hs => ?_, fun h hs => ?_⟩
  · exact (if_pos h).trans (if_pos (hany.mpr hs))
  · exact (if_pos h).trans (if_neg (mt hany.mp hs))

theorem flashRefused_spec (s : State) (off : Word) :
    (sqSet Reg.flashWpEvt [0] (s.wr Reg.flashWpAddr off)).flash = s.flash ∧
    (sqSet Reg.flashWpEvt [0] (s.wr Reg.flashWpAddr off)).rd Reg.flashWpAddr = off ∧
    (sqSet Reg.flashWpEvt [0] (s.wr Reg.flashWpAddr off)).sq Reg.flashWpEvt = (s.sq Reg.flashWpEvt).event [0] := by
  refine ⟨?_, ?_, ?_⟩
  · rw [sqSet_rest]
    rfl
  · rw [sqSet_rd _ _ _ _ (by decide), State.rd_wr, if_pos rfl]
  · rw [sqSet_sq _ _ _ (by decide) (by decide)]
    rfl

/-- The commands of the mailbox with their values. -/
def mailboxRows : List ((Master → Word → Instr) × Nat) := [(.verifyGraph, 1), (.measure, 2), (.beginSlot, 16),
  (.markPending, 17), (.confirm, 18), (.abandon, 19), (.writeK, 20), (.writePlan, 21), (.burnFloor, 22)]

theorem mailboxRows_exec {p : (Master → Word → Instr) × Nat} (hp : p ∈ mailboxRows) (m : Master) (arg : Word) (s : State) :
    exec (p.1 m arg) s = .next (mailboxIssue p.2 m arg s) ∧ p.2 ∈ mailboxCodes := by
  simp only [mailboxRows, List.mem_cons, List.not_mem_nil, or_false] at hp
  rcases hp with rfl | rfl | rfl | rfl | rfl | rfl | rfl | rfl | rfl <;> exact ⟨rfl, by decide⟩

/-- Settles O57: a command is issued or overruns, and each does what its conditions at the argument allow. -/
theorem theWardenServesItsMailbox : Obligations.TheWardenServesItsMailbox := by
  unfold Obligations.TheWardenServesItsMailbox
  intro rows issued next
  refine ⟨?issue, ?address, ?slots, ?pending, ?images, ?floor, ?completion, ?revoke, ?tally, ?turnedAway, ?flash⟩
  case issue =>
    intro p hp s m arg h1 h2
    obtain ⟨hx, hc⟩ := mailboxRows_exec hp m arg s
    obtain ⟨hover, hwait, hserve⟩ := mailboxIssue_spec h1 h2 hc
    rw [hx]
    exact ⟨fun h => congrArg _ (hover h), fun h hs => congrArg _ (hwait h hs), fun h hs => congrArg _ (hserve h hs)⟩
  case address =>
    intro s a h cmd hcmd
    have hno : ∀ f : State → Done, (if argOk a then f s else (32, s)) = (32, s) := fun f => if_neg (by rw [h]; decide)
    simp only [List.mem_cons, List.not_mem_nil, or_false] at hcmd
    rcases hcmd with rfl | rfl | rfl | rfl | rfl | rfl | rfl <;> exact hno _
  case slots =>
    intro s a h
    obtain ⟨hbegin, hmark, -⟩ := mailboxAct_at h s
    refine ⟨fun hn => ?_, fun b hn => ?_⟩
    · rw [hbegin, hmark, beginSlotAct, markPendingAct, hn]
      exact ⟨rfl, rfl⟩
    · obtain ⟨hrefuse, hopen⟩ := beginSlotAct_spec (s := s) hn
      obtain ⟨hnot, hcheck⟩ := markPendingAct_spec (s := s) hn
      rw [hbegin, hmark]
      exact ⟨hrefuse, hopen, hnot, hcheck⟩
  case pending =>
    refine fun s a => ⟨fun hn => ?_, fun b hb => ?_⟩
    · have hc : confirmAct s = (33, s) := by rw [confirmAct, hn]; rfl
      have ha : abandonAct s = (33, s) := by rw [abandonAct, hn]; rfl
      exact ⟨hc, ha⟩
    · obtain ⟨hno, hyes⟩ := confirmAct_spec hb
      exact ⟨hno, hyes, abandonAct_spec hb⟩
  case images =>
    intro s a h rd c
    obtain ⟨-, -, hk, hplan, -, hgraph, hmeas⟩ := mailboxAct_at h s
    rw [hk, hplan, hgraph, hmeas]
    refine ⟨fun h => if_pos h, fun he hr => if_neg (not_or.mpr ⟨by rw [he]; decide, not_not_intro hr⟩), fun h => if_pos h,
      fun he hr => writePlanAct_spec he hr, verifyGraphAct_spec.1, verifyGraphAct_spec.2, measureAct_spec.1, measureAct_spec.2⟩
  case floor =>
    intro s a h n ok
    obtain ⟨-, -, -, -, hburn, -⟩ := mailboxAct_at h s
    rw [hburn]
    exact burnFloorAct_spec
  case completion =>
    intro s
    obtain ⟨hnone, hsome⟩ := mailboxCompletion_spec s
    have hx : exec .mailboxCompletion s = .next (mailboxCompletion s) := rfl
    rw [hx]
    exact ⟨fun h => congrArg _ (hnone h), fun c a r h => ⟨_, congrArg _ (hsome c a r h), rfl, rfl, rfl⟩⟩
  case revoke =>
    intro s k signs left
    have hx : exec (.rootRevoke k) s = .next (rootRevokeAct k.val s).2 := rfl
    rw [hx]
    exact ⟨fun h => congrArg _ (rootRevokeAct_refused h), fun hs hl => ⟨_, rfl, rootRevokeAct_revokes k.isLt hs hl⟩⟩
  case tally =>
    intro s v hh hpost
    have hx : exec (.tallyExt .warden .word v) s = .next (regAccess .warden 0xE0000240 .word v s) := rfl
    rw [hx, regAccess_tallyExt hh hpost]
    split
    next hf => exact congrArg _ (tallyExtend_frozen hf _)
    next => rfl
  case turnedAway =>
    intro s m v hl hc hpost
    exact congrArg Host.Outcome.next (regAccess_tallyExt_other hl hc hpost v)
  case flash =>
    intro s off erase bytes shut
    obtain ⟨hheld, hshut, hopen⟩ := flashProgram_spec s off erase bytes
    have hx : exec (.flashProgramCommand off erase bytes) s = .next (flashProgram off erase bytes s) := rfl
    rw [hx]
    exact ⟨fun h => congrArg _ (hheld h), fun h hs => ⟨_, congrArg _ (hshut h hs), flashRefused_spec s off⟩,
      fun h hs => congrArg _ (hopen h hs)⟩

end Sys2Proof.Machine
end

section
/-! The Anvil port (O58, chapter 24): the status, PUT and GET, and the transfers of images. -/

namespace Sys2Proof.Machine
open Sys2Proof

@[simp] theorem beBytes_length (n v : Nat) : (beBytes n v).length = n := by simp [beBytes]

/-! ### The status -/

/-- The bytes of the status before the count. -/
def statusHead (s : State) : List Byte := beBytes 4 (s.rd Reg.tallySum).toNat
  ++ beBytes 2 (s.rdf 0x40010244 0 16) ++ beBytes 2 (s.rdf Reg.wakeStat 0 16)
  ++ beBytes 1 (statusMode s) ++ beBytes 1 (s.rdf Reg.anvStat 0 8)

theorem statusHead_length (s : State) : (statusHead s).length = 10 := by simp [statusHead]

theorem statusPublication_eq (s : State) : statusPublication s = s.modAnv fun a => { a with
    pubIdx := !a.pubIdx,
    pub := beBytes 4 (bootStageView s).toNat ++ statusHead s ++ beBytes 2 (s.ward.anv.pubCnt + 1#16).toNat,
    pubCnt := s.ward.anv.pubCnt + 1#16 } := by
  unfold statusPublication statusHead
  simp only [List.append_assoc]

theorem status_bytes {a b c : List Byte} (ha : a.length = 4) (hb : b.length = 10) (hc : c.length = 2) :
    (a ++ b ++ c).length = 16 ∧ (a ++ b ++ c).take 4 = a ∧ (a ++ b ++ c).drop 14 = c := by
  refine ⟨by simp [ha, hb, hc], ?_, List.drop_left' (by rw [List.length_append, ha, hb])⟩
  rw [List.append_assoc]
  exact List.take_left' ha

/-- The bytes that STATUS answers before its CRC. -/
def statusBody (s : State) : List Byte := [BitVec.ofNat 8 (0xA0 + b2n s.ward.anv.pubIdx)] ++ s.ward.anv.pub ++
  beBytes 2 (anvGettable s) ++ beBytes 2 (anvSpace s) ++ [BitVec.ofNat 8 (0xA0 + b2n s.ward.anv.pubIdx)]

theorem anvilStatus_eq (s : State) : anvilStatus s = s.modAnv fun a => { a with
    answer := statusBody s ++ beBytes 2 (crc16 (statusBody s)) } := rfl

theorem statusAnswer_spec {m p g f c : List Byte} (hm : m.length = 1) (hp : p.length = 16) (hg : g.length = 2) (hf : f.length = 2)
    (hc : c.length = 2) : (m ++ p ++ g ++ f ++ m ++ c).length = 24 ∧ (m ++ p ++ g ++ f ++ m ++ c).take 1 = m ∧
      cut (m ++ p ++ g ++ f ++ m ++ c) 1 16 = p ∧ cut (m ++ p ++ g ++ f ++ m ++ c) 17 2 = g ∧
      cut (m ++ p ++ g ++ f ++ m ++ c) 19 2 = f ∧ (m ++ p ++ g ++ f ++ m ++ c).drop 22 = c ∧
      (m ++ p ++ g ++ f ++ m ++ c).take 22 = m ++ p ++ g ++ f ++ m := by
  have h1 : m ++ p ++ g ++ f ++ m ++ c = m ++ (p ++ (g ++ (f ++ (m ++ c)))) := by simp only [List.append_assoc]
  have h17 : m ++ p ++ g ++ f ++ m ++ c = (m ++ p) ++ (g ++ (f ++ (m ++ c))) := by simp only [List.append_assoc]
  have h19 : m ++ p ++ g ++ f ++ m ++ c = (m ++ p ++ g) ++ (f ++ (m ++ c)) := by simp only [List.append_assoc]
  have hl : (m ++ p ++ g ++ f ++ m).length = 22 := by simp [hm, hp, hg, hf]
  refine ⟨by rw [List.length_append, hl, hc], ?_, ?_, ?_, ?_, List.drop_left' hl, List.take_left' hl⟩
  · rw [h1]
    exact List.take_left' hm
  · rw [h1, cut, List.drop_left' hm]
    exact List.take_left' hp
  · rw [h17, cut, List.drop_left' (by rw [List.length_append, hm, hp])]
    exact List.take_left' hg
  · rw [h19, cut, List.drop_left' (by rw [List.length_append, List.length_append, hm, hp, hg])]
    exact List.take_left' hf

/-! ### PUT and GET -/

theorem noticePost_ward (x : Nat) (b : Word) (s : State) : (noticePost x b s).ward = s.ward := by
  unfold noticePost
  dsimp only
  split <;> rfl

theorem wakeRequest_ward (bit contact : Nat) (s : State) : (wakeRequest bit contact s).ward = s.ward := by
  unfold wakeRequest
  split
  · rfl
  · dsimp only
    rw [State.modModes_ward, noticePost_ward]
    split <;> split <;> rfl

theorem xingDropped_stays (k : Nat) (s : State) : (xingDropped k s).ward = s.ward ∧ (xingDropped k s).modes = s.modes := by
  have h := (xingDropped_frame k s).1.rest
  generalize xingDropped k s = t at h
  rw [h]
  exact ⟨rfl, rfl⟩

/-- The bytes that a side which is not ready drops. -/
def bytesDropped (bytes : List Byte) (s : State) : State := bytes.foldl (fun s _ => xingDropped 5 s) s

theorem bytesDropped_stays (bytes : List Byte) (s : State) :
    (bytesDropped bytes s).ward = s.ward ∧ (bytesDropped bytes s).modes = s.modes := by
  unfold bytesDropped
  induction bytes generalizing s with
  | nil => exact ⟨rfl, rfl⟩
  | cons b bytes ih =>
    obtain ⟨hw, hm⟩ := xingDropped_stays 5 s
    obtain ⟨hw', hm'⟩ := ih (xingDropped 5 s)
    exact ⟨hw'.trans hw, hm'.trans hm⟩

/-- The state before a PUT answers: what is dropped is counted. -/
def putBefore (bytes : List Byte) (s : State) : State := if xingReady s 5 then s else bytesDropped bytes s

theorem putBefore_stays (bytes : List Byte) (s : State) :
    (putBefore bytes s).ward = s.ward ∧ (putBefore bytes s).modes = s.modes := by
  unfold putBefore
  split
  · exact ⟨rfl, rfl⟩
  · exact bytesDropped_stays bytes s

/-- An answer on the port. -/
def answered (b : List Byte) (s : State) : State := s.modAnv fun a => { a with answer := b }

theorem answered_ward (b : List Byte) (s : State) :
    (answered b s).ward = { s.ward with anv := { s.ward.anv with answer := b } } := rfl

/-- Bytes that a PUT brings. -/
def putTaken (bytes : List Byte) (s : State) : State :=
  anvDraw (wardenInt 5 (s.modAnv fun a => { a with toWarden := a.toWarden ++ bytes }))

theorem anvilPut_eq (len : Nat) (bytes : List Byte) (crc : Half) (s : State) : anvilPut len bytes crc true s =
    if s.modes.sleep = .asleep then wakeRequest 4 0
      ((answered [BitVec.ofNat 8 (putResult len bytes crc.toNat s)] (putBefore bytes s)).modWard fun w => { w with untouched := false })
    else if putResult len bytes crc.toNat s = 0 then
      putTaken bytes (answered [BitVec.ofNat 8 (putResult len bytes crc.toNat s)] (putBefore bytes s))
    else answered [BitVec.ofNat 8 (putResult len bytes crc.toNat s)] (putBefore bytes s) := rfl

/-- The conditions of a PUT that is taken. -/
def PutTakes (s : State) (len : Nat) (bytes : List Byte) (crc : Half) : Prop :=
  xingReady s 5 = true ∧ s.modes.sleep ≠ .asleep ∧ 1 ≤ len ∧ len ≤ 256 ∧ bytes.length = len ∧
    crc16 (beBytes 2 len ++ bytes) = crc.toNat ∧ s.ward.anv.toWarden.length + len ≤ 1024

theorem putResult_shut {s : State} (h : xingReady s 5 = false ∨ s.modes.sleep = .asleep) (len : Nat) (bytes : List Byte)
    (crc : Nat) : putResult len bytes crc s = 4 := by
  refine if_pos ?_
  rcases h with h | h
  · rw [h]
    rfl
  · rw [h]
    exact Bool.or_true _

theorem putResult_open {s : State} (hr : xingReady s 5 = true) (hs : s.modes.sleep ≠ .asleep) (len : Nat) (bytes : List Byte)
    (crc : Nat) : putResult len bytes crc s = if len < 1 ∨ 256 < len ∨ bytes.length ≠ len then 3
      else if crc16 (beBytes 2 len ++ bytes) ≠ crc then 1 else if 1024 - s.ward.anv.toWarden.length < len then 2 else 0 := by
  have hno : (!xingReady s 5 || s.modes.sleep == .asleep) = false := by
    rw [hr, beq_eq_false_iff_ne.mpr hs]
    rfl
  unfold putResult anvSpace
  rw [hno, hr, if_neg (by decide), if_pos rfl]

theorem putResult_takes {s : State} {len : Nat} {bytes : List Byte} {crc : Half} (h : PutTakes s len bytes crc) :
    putResult len bytes crc.toNat s = 0 := by
  obtain ⟨hr, hs, h1, h2, hl, hc, hroom⟩ := h
  rw [putResult_open hr hs, if_neg (by omega), if_neg (not_not_intro hc), if_neg (by omega)]

theorem putResult_refused {s : State} {len : Nat} {bytes : List Byte} {crc : Half} (hr : xingReady s 5 = true)
    (hs : s.modes.sleep ≠ .asleep) (h : ¬PutTakes s len bytes crc) :
    1 ≤ putResult len bytes crc.toNat s ∧ putResult len bytes crc.toNat s ≤ 3 := by
  rw [putResult_open hr hs]
  split
  · exact ⟨by decide, by decide⟩
  next h1 =>
    split
    · exact ⟨by decide, by decide⟩
    next h2 =>
      split
      · exact ⟨by decide, by decide⟩
      next h3 => exact absurd ⟨hr, hs, by omega, by omega, by omega, not_not.mp h2, by omega⟩ h

theorem anvServes_congr {s t : State} (hw : t.ward.stage = s.ward.stage ∧ t.ward.recovery = s.ward.recovery)
    (hm : t.modes = s.modes) (hp : t.power = s.power) : anvServes t = anvServes s := by
  unfold anvServes wardenServes
  rw [hw.1, hw.2, hm, hp]

theorem putTaken_spec (bytes : List Byte) (s : State) :
    (putTaken bytes s).ward.anv.answer = s.ward.anv.answer ∧
    (anvServes s = true → (putTaken bytes s).ward.anv.toWarden = [] ∧
      (putTaken bytes s).ward.anv.rx = s.ward.anv.rx ++ s.ward.anv.toWarden ++ bytes) ∧
    (anvServes s = false → (putTaken bytes s).ward.anv.toWarden = s.ward.anv.toWarden ++ bytes ∧
      (putTaken bytes s).ward.anv.rx = s.ward.anv.rx) := by
  have hserves : anvServes (wardenInt 5 (s.modAnv fun a => { a with toWarden := a.toWarden ++ bytes })) = anvServes s :=
    anvServes_congr ⟨rfl, rfl⟩ rfl rfl
  unfold putTaken anvDraw
  rw [hserves]
  cases h : anvServes s
  · exact ⟨rfl, fun h => absurd h (by decide), fun _ => ⟨rfl, rfl⟩⟩
  · refine ⟨rfl, fun _ => ⟨rfl, ?_⟩, fun h => absurd h (by decide)⟩
    exact (List.append_assoc _ _ _).symm

theorem anvilPut_asleep {s : State} (h : s.modes.sleep = .asleep) (len : Nat) (bytes : List Byte) (crc : Half) :
    (anvilPut len bytes crc true s).ward.anv.answer = [4#8] ∧ (anvilPut len bytes crc true s).modes.sleep = .waking ∧
      (anvilPut len bytes crc true s).modes.wake = true ∧ (anvilPut len bytes crc true s).ward.untouched = false ∧
      (anvilPut len bytes crc true s).ward.anv.toWarden = s.ward.anv.toWarden := by
  obtain ⟨hw, hm⟩ := putBefore_stays bytes s
  rw [anvilPut_eq, if_pos h, putResult_shut (.inr h)]
  generalize putBefore bytes s = t at hw hm
  have hm' : ((answered [BitVec.ofNat 8 4] t).modWard fun w => { w with untouched := false }).modes = s.modes := by
    rw [State.modWard_modes, answered, State.modAnv, State.modWard_modes, hm]
  have hw' : ((answered [BitVec.ofNat 8 4] t).modWard fun w => { w with untouched := false }).ward =
      { s.ward with anv := { s.ward.anv with answer := [4#8] }, untouched := false } := by
    show { (answered [BitVec.ofNat 8 4] t).ward with untouched := false } = _
    rw [answered_ward, hw]
  generalize (answered [BitVec.ofNat 8 4] t).modWard _ = u at hm' hw'
  rw [wakeRequest_ward, hw', wakeRequest_modes (by rw [hm', h]; decide), hm', h]
  exact ⟨rfl, rfl, rfl, rfl, rfl⟩

theorem anvilPut_takes {s : State} {len : Nat} {bytes : List Byte} {crc : Half} (h : PutTakes s len bytes crc) :
    (anvilPut len bytes crc true s).ward.anv.answer = [0#8] ∧
      (anvServes s = true → (anvilPut len bytes crc true s).ward.anv.toWarden = [] ∧
        (anvilPut len bytes crc true s).ward.anv.rx = s.ward.anv.rx ++ s.ward.anv.toWarden ++ bytes) ∧
      (anvServes s = false → (anvilPut len bytes crc true s).ward.anv.toWarden = s.ward.anv.toWarden ++ bytes ∧
        (anvilPut len bytes crc true s).ward.anv.rx = s.ward.anv.rx) := by
  have hr := h.1
  have hs := h.2.1
  rw [anvilPut_eq, if_neg hs, if_pos (putResult_takes h), putResult_takes h, putBefore, if_pos hr]
  obtain ⟨hans, hyes, hno⟩ := putTaken_spec bytes (answered [BitVec.ofNat 8 0] s)
  have hserves : anvServes (answered [BitVec.ofNat 8 0] s) = anvServes s := anvServes_congr ⟨rfl, rfl⟩ rfl rfl
  rw [hserves] at hyes hno
  exact ⟨hans, hyes, hno⟩

theorem anvilPut_refused {s : State} {len : Nat} {bytes : List Byte} {crc : Half} (hs : s.modes.sleep ≠ .asleep)
    (hr : xingReady s 5 = true) (h : ¬PutTakes s len bytes crc) : ∃ r : Nat, 1 ≤ r ∧ r ≤ 3 ∧
      anvilPut len bytes crc true s = answered [BitVec.ofNat 8 r] s := by
  obtain ⟨h1, h3⟩ := putResult_refused hr hs h
  refine ⟨_, h1, h3, ?_⟩
  rw [anvilPut_eq, if_neg hs, if_neg (by omega), putBefore, if_pos hr]

theorem anvilPut_notReady {s : State} (hs : s.modes.sleep ≠ .asleep) (hr : xingReady s 5 = false) (len : Nat) (bytes : List Byte)
    (crc : Half) : anvilPut len bytes crc true s = answered [4#8] (bytesDropped bytes s) := by
  rw [anvilPut_eq, if_neg hs, putResult_shut (.inl hr), if_neg (by decide), putBefore, hr, if_neg (by decide)]

theorem anvilGet_notReady {s : State} (h : xingReady s 5 = false) (rep : Bool) (n : Nat) :
    anvilGet rep n s = s.modAnv fun a => { a with answer := beBytes 2 0 ++ beBytes 2 (crc16 (beBytes 2 0)) } :=
  if_neg (by rw [h]; decide)

theorem anvilGet_fresh {s : State} (h : xingReady s 5 = true) {n : Nat} (hn : n ≤ 256) :
    anvilGet false n s = s.modAnv fun a => { a with
      held := a.toHost.take n, toHost := a.toHost.drop n,
      answer := beBytes 2 (a.toHost.take n).length ++ a.toHost.take n ++
        beBytes 2 (crc16 (beBytes 2 (a.toHost.take n).length ++ a.toHost.take n)) } := by
  have hmin : min (min n 256) 1024 = n := by omega
  have hdrop : s.ward.anv.toHost.drop (s.ward.anv.toHost.take n).length = s.ward.anv.toHost.drop n := by
    rw [List.length_take]
    rcases Nat.le_total n s.ward.anv.toHost.length with hle | hge
    · rw [Nat.min_eq_left hle]
    · rw [Nat.min_eq_right hge, List.drop_length, List.drop_of_length_le hge]
  have hget : anvilGet false n s = s.modAnv fun a => { a with
      held := s.ward.anv.toHost.take (min (min n 256) 1024),
      toHost := s.ward.anv.toHost.drop (s.ward.anv.toHost.take (min (min n 256) 1024)).length,
      answer := beBytes 2 (s.ward.anv.toHost.take (min (min n 256) 1024)).length ++
        s.ward.anv.toHost.take (min (min n 256) 1024) ++
        beBytes 2 (crc16 (beBytes 2 (s.ward.anv.toHost.take (min (min n 256) 1024)).length ++
          s.ward.anv.toHost.take (min (min n 256) 1024))) } := if_pos h
  rw [hget, hmin, hdrop]
  rfl

theorem anvilGet_again {s : State} (h : xingReady s 5 = true) (n : Nat) :
    anvilGet true n s = s.modAnv fun a => { a with
      answer := beBytes 2 a.held.length ++ a.held ++ beBytes 2 (crc16 (beBytes 2 a.held.length ++ a.held)) } := if_pos h

/-! ### Transfers -/

theorem takeMsg_xfer (m : List Byte) (s : State) : (takeMsg m s).ward.xfer = s.ward.xfer ∧
    (takeMsg m s).ward.askSeq = s.ward.askSeq ∧ (takeMsg m s).ward.fuses = s.ward.fuses ∧
    (takeMsg m s).ward.anv.toHost = s.ward.anv.toHost ∧ (takeMsg m s).ward.recovery = s.ward.recovery ∧
    (takeMsg m s).ward.anv.grants = s.ward.anv.grants ∧ (takeMsg m s).modes = s.modes := by
  obtain ⟨rx, tw, h⟩ := takeMsg_eq m s
  rw [h]
  exact ⟨rfl, rfl, rfl, rfl, rfl, rfl, rfl⟩

/-- A message to the Anvil host joins the FIFO; nothing else of the Warden, and no register, changes. -/
theorem anvSend_spec (m : List Byte) (s : State) : (anvSend m s).ward.anv.toHost = s.ward.anv.toHost ++ m ∧
    (anvSend m s).ward.xfer = s.ward.xfer ∧ (anvSend m s).ward.slot = s.ward.slot ∧ (anvSend m s).ward.askSeq = s.ward.askSeq ∧
    ∀ a, (anvSend m s).rd a = s.rd a := ⟨rfl, rfl, rfl, rfl, fun _ => rfl⟩

theorem askSend_anvil {s : State} {x : Xfer} (h : s.ward.xfer = some x) (ha : x.anvil = true) :
    askSend s = anvSend (xmsg 1 (xferKind x.kind) x.off x.count x.seq s.ward.fuses.serial) s := by
  unfold askSend
  rw [h]
  exact if_pos ha

/-- The outstanding ASK leaves; the transfer is the same. -/
theorem askSend_xfer (s : State) : (askSend s).ward.xfer = s.ward.xfer ∧ (askSend s).ward.askSeq = s.ward.askSeq := by
  unfold askSend
  split
  · exact ⟨rfl, rfl⟩
  next x _ =>
    dsimp only
    split
    · exact ⟨rfl, rfl⟩
    · have h := (sendIp_frame (optionRow s 36) 0 none ((xmsg 1 (xferKind x.kind) x.off x.count x.seq s.ward.fuses.serial).length + 46)
        (.udp (ownIp s) (optionRow s 36) 47131 47131 (xmsg 1 (xferKind x.kind) x.off x.count x.seq s.ward.fuses.serial)) s).1.rest
      rw [h]
      exact ⟨rfl, rfl⟩

/-- How many bytes the next ASK of a transfer asks for. -/
def askCount (x : Xfer) : Nat :=
  if x.got.length < 64 then 64
  else min 1024 ((if x.got.length < 64 then 64 else le x.got 0xC 4) - x.got.length)

/-- A transfer with its next ASK outstanding. -/
def askedXfer (x : Xfer) (seq : BitVec 16) : Xfer := { x with seq := seq, off := x.got.length, count := askCount x }

/-- The state in which the next ASK of a transfer leaves. -/
def askedState (x : Xfer) (s : State) : State := s.modWard fun w => { w with
  askSeq := w.askSeq + 1#16, xfer := some (askedXfer x (w.askSeq + 1#16)) }

theorem askNext_eq (x : Xfer) (s : State) : askNext x s = askSend (askedState x s) := rfl

theorem askNext_xfer (x : Xfer) (s : State) : (askNext x s).ward.xfer = some (askedXfer x (s.ward.askSeq + 1#16)) := by
  rw [askNext_eq, (askSend_xfer _).1]
  rfl

/-- On the Anvil port the next ASK joins what is to be sent. -/
theorem askNext_anvil {x : Xfer} (ha : x.anvil = true) (s : State) : (askNext x s).ward.anv.toHost = s.ward.anv.toHost ++
      xmsg 1 (xferKind x.kind) x.got.length (askCount x) (s.ward.askSeq + 1#16) s.ward.fuses.serial ∧
    (askNext x s).ward.slot = s.ward.slot ∧ ∀ a, (askNext x s).rd a = s.rd a := by
  have hx : (askedState x s).ward.xfer = some (askedXfer x (s.ward.askSeq + 1#16)) := rfl
  rw [askNext_eq, askSend_anvil hx ha]
  obtain ⟨hsent, -, hslot, -, hrd⟩ := anvSend_spec (xmsg 1 (xferKind (askedXfer x (s.ward.askSeq + 1#16)).kind)
    (askedXfer x (s.ward.askSeq + 1#16)).off (askedXfer x (s.ward.askSeq + 1#16)).count
    (askedXfer x (s.ward.askSeq + 1#16)).seq (askedState x s).ward.fuses.serial) (askedState x s)
  exact ⟨hsent, hslot, hrd⟩

/-- What is left of a recovery's slot once it has ended. -/
def slotClosed (x : Xfer) (s : State) : State :=
  match x.target.bind targetSlot with
  | some b => slotWrite (setStateOf b .failed) (slotWindow b false s)
  | none => s

theorem recoverEnd_fails {r : Nat} (hr : r ≠ 0) (x : Xfer) (k : Nat) (s : State) : recoverEnd x r k s =
    anvSend (xmsg 0x15 r k 0 x.reqSeq []) ((slotClosed x s).modWard fun w => { w with xfer := none }) := by
  unfold recoverEnd slotClosed
  cases x.target.bind targetSlot with
  | none => rfl
  | some b =>
    dsimp only
    rw [if_neg hr]

theorem slotClosed_anv (x : Xfer) (s : State) : (slotClosed x s).ward.anv = s.ward.anv := by
  unfold slotClosed
  split
  · rw [slotWrite_ward, slotWindow_ward]
  · rfl

theorem slotClosed_slot {x : Xfer} {b : Bool} (h : x.target.bind targetSlot = some b) (s : State) :
    stateOf (slotClosed x s).ward.slot b = .failed ∧ (slotClosed x s).bit Reg.flashWp (b2n b) = false := by
  unfold slotClosed
  rw [h]
  dsimp only
  refine ⟨?_, ?_⟩
  · rw [slotWrite_ward, slotWindow_ward]
    exact (stateOf_setStateOf b .failed s.ward.slot).1
  · rw [State.bit, State.rd, slotWrite, State.modWard_regs, State.mwrBytes_regs, ← State.rd, ← State.bit]
    exact slotWindow_bit b false s

/-- What the end of a failed recovery leaves. -/
def TransferEnded (s u : State) (x : Xfer) (r k : Nat) : Prop :=
  u.ward.xfer = none ∧ u.ward.anv.toHost = s.ward.anv.toHost ++ xmsg 0x15 r k 0 x.reqSeq [] ∧
    ∀ t b, x.target = some t → targetSlot t = some b → stateOf u.ward.slot b = .failed ∧ u.bit Reg.flashWp (b2n b) = false

theorem recoverEnd_ended {r : Nat} (hr : r ≠ 0) (x : Xfer) (k : Nat) {s t : State}
    (ht : t.ward.anv.toHost = s.ward.anv.toHost) : TransferEnded s (recoverEnd x r k t) x r k := by
  have hanv := slotClosed_anv x t
  have hslot : ∀ b, x.target.bind targetSlot = some b → stateOf (slotClosed x t).ward.slot b = .failed ∧
      (slotClosed x t).bit Reg.flashWp (b2n b) = false := fun b h => slotClosed_slot h t
  rw [recoverEnd_fails hr]
  generalize slotClosed x t = v at hanv hslot
  refine ⟨rfl, ?_, fun t' b htar hb => hslot b ?_⟩
  · show v.ward.anv.toHost ++ _ = _
    rw [hanv, ht]
  · rw [htar]
    exact hb

/-- Does a chunk answer the outstanding ASK? -/
def Answers (x : Xfer) (k : ImageKind) (off : Word) (seq : BitVec 16) (bytes : List Byte) : Prop :=
  x.kind = k ∧ x.off = off.toNat ∧ x.seq = seq ∧ x.count = bytes.length

/-- The state in which a chunk is looked at: on the Anvil port its bytes have left the Warden's buffer. -/
def chunkAt (k : ImageKind) (off : Word) (seq : BitVec 16) (bytes : List Byte) (s : State) : State :=
  if (s.ward.xfer.map (·.anvil)) = some false then s else takeMsg (xmsg 2 (xferKind k) off.toNat 0 seq bytes) s

theorem chunkAt_xfer (k : ImageKind) (off : Word) (seq : BitVec 16) (bytes : List Byte) (s : State) :
    (chunkAt k off seq bytes s).ward.xfer = s.ward.xfer := by
  unfold chunkAt
  split
  · rfl
  · exact (takeMsg_xfer _ _).1

theorem dataMsg_none {s : State} (h : s.ward.xfer = none) (k : ImageKind) (off : Word) (seq : BitVec 16) (bytes : List Byte) :
    dataMsg k off seq bytes s = takeMsg (xmsg 2 (xferKind k) off.toNat 0 seq bytes) s := by
  have hat : chunkAt k off seq bytes s = takeMsg (xmsg 2 (xferKind k) off.toNat 0 seq bytes) s := if_neg (by rw [h]; decide)
  have hx := chunkAt_xfer k off seq bytes s
  rw [← hat]
  unfold dataMsg
  show (match (chunkAt k off seq bytes s).ward.xfer with
    | none => chunkAt k off seq bytes s
    | some x => _) = _
  rw [hx, h]

/-- A chunk while a transfer is under way. -/
theorem dataMsg_some {s : State} {x : Xfer} (h : s.ward.xfer = some x) (k : ImageKind) (off : Word) (seq : BitVec 16)
    (bytes : List Byte) : dataMsg k off seq bytes s =
      if x.kind = k ∧ x.off = off.toNat ∧ x.seq = seq ∧ x.count = bytes.length then
        if xferWhole { x with got := x.got ++ bytes } then
          if x.anvil then recoverImage { x with got := x.got ++ bytes } (chunkAt k off seq bytes s)
          else (chunkAt k off seq bytes s).modWard fun w => { w with
            xfer := some { x with got := x.got ++ bytes, off := (x.got ++ bytes).length, count := 0 } }
        else if x.anvil = true ∧ 0x400000 < le (x.got ++ bytes) 0xC 4 then
          recoverEnd { x with got := x.got ++ bytes } 2 (xferKind k) (chunkAt k off seq bytes s)
        else askNext { x with got := x.got ++ bytes } (chunkAt k off seq bytes s)
      else chunkAt k off seq bytes s := by
  have hx := (chunkAt_xfer k off seq bytes s).trans h
  unfold dataMsg
  show (match (chunkAt k off seq bytes s).ward.xfer with
    | none => chunkAt k off seq bytes s
    | some x => _) = _
  rw [hx]
  rfl

theorem chunkAt_net {s : State} {x : Xfer} (h : s.ward.xfer = some x) (ha : x.anvil = false) (k : ImageKind) (off : Word)
    (seq : BitVec 16) (bytes : List Byte) : chunkAt k off seq bytes s = s := if_pos (by rw [h, Option.map_some, ha])

theorem chunkAt_anvil {s : State} {x : Xfer} (h : s.ward.xfer = some x) (ha : x.anvil = true) (k : ImageKind) (off : Word)
    (seq : BitVec 16) (bytes : List Byte) :
    chunkAt k off seq bytes s = takeMsg (xmsg 2 (xferKind k) off.toNat 0 seq bytes) s :=
  if_neg (by rw [h, Option.map_some, ha]; decide)

/-- A chunk of a network copy that answers its ASK. -/
theorem dataMsg_net {s : State} {x : Xfer} (h : s.ward.xfer = some x) (hnet : x.anvil = false) {k : ImageKind} {off : Word}
    {seq : BitVec 16} {bytes : List Byte} (ha : Answers x k off seq bytes) : dataMsg k off seq bytes s =
      if xferWhole { x with got := x.got ++ bytes } then s.modWard fun w => { w with
        xfer := some { x with got := x.got ++ bytes, off := (x.got ++ bytes).length, count := 0 } }
      else askNext { x with got := x.got ++ bytes } s := by
  have hno : ¬(x.anvil = true) := by rw [hnet]; decide
  unfold Answers at ha
  rw [dataMsg_some h, if_pos ha, chunkAt_net h hnet, if_neg hno,
    if_neg (fun h : x.anvil = true ∧ 0x400000 < le (x.got ++ bytes) 0xC 4 => hno h.1)]

/-- A chunk of an Anvil transfer that answers its ASK and leaves more to come. -/
theorem dataMsg_part {s : State} {x : Xfer} (h : s.ward.xfer = some x) (hanv : x.anvil = true) {k : ImageKind} {off : Word}
    {seq : BitVec 16} {bytes : List Byte} (ha : Answers x k off seq bytes)
    (hpart : xferWhole { x with got := x.got ++ bytes } = false) (hmax : le (x.got ++ bytes) 0xC 4 ≤ 0x400000) :
    (dataMsg k off seq bytes s).ward.xfer = some (askedXfer { x with got := x.got ++ bytes } (s.ward.askSeq + 1#16)) ∧
    (dataMsg k off seq bytes s).ward.anv.toHost = s.ward.anv.toHost ++ xmsg 1 (xferKind k) (x.got ++ bytes).length
      (askCount { x with got := x.got ++ bytes }) (s.ward.askSeq + 1#16) s.ward.fuses.serial := by
  unfold Answers at ha
  rw [dataMsg_some h, if_pos ha, if_neg (by rw [hpart]; decide), if_neg (fun h => absurd h.2 (by omega)), chunkAt_anvil h hanv]
  obtain ⟨-, hseq, hfuse, hhost, -⟩ := takeMsg_xfer (xmsg 2 (xferKind k) off.toNat 0 seq bytes) s
  generalize takeMsg (xmsg 2 (xferKind k) off.toNat 0 seq bytes) s = u at hseq hfuse hhost
  rw [askNext_xfer, (askNext_anvil (x := { x with got := x.got ++ bytes }) hanv u).1, hseq, hhost, hfuse, ← ha.1]
  exact ⟨rfl, rfl⟩

theorem noneMsg_some {s : State} {x : Xfer} (h : s.ward.xfer = some x) (k : ImageKind) : noneMsg k s =
    if x.kind ≠ k then s
    else if x.anvil then recoverEnd x 1 (xferKind k) (takeMsg (xmsg 3 (xferKind k) 0 0 x.seq []) s)
    else attemptFails k .network 1 s := by
  unfold noneMsg
  rw [h]

theorem noneMsg_none {s : State} (h : s.ward.xfer = none) (k : ImageKind) : noneMsg k s = s := by
  unfold noneMsg
  rw [h]

/-- An ASK that is sent again, under the next SEQ. -/
def askedAgain (x : Xfer) (s : State) : State := s.modWard fun w => { w with
  askSeq := w.askSeq + 1#16, xfer := some { x with seq := w.askSeq + 1#16 } }

theorem askTimeout_some {s : State} {x : Xfer} (h : s.ward.xfer = some x) :
    askTimeout s = if xferWhole x then s else askSend (askedAgain x s) := by
  unfold askTimeout
  rw [h]
  rfl

theorem askTimeout_none {s : State} (h : s.ward.xfer = none) : askTimeout s = s := by
  unfold askTimeout
  rw [h]

theorem recoverTimeout_some {s : State} {x : Xfer} (h : s.ward.xfer = some x) :
    recoverTimeout s = if x.anvil then recoverEnd x 1 0 s else s := by
  unfold recoverTimeout
  rw [h]

theorem recoverTimeout_none {s : State} (h : s.ward.xfer = none) : recoverTimeout s = s := by
  unfold recoverTimeout
  rw [h]

/-! ### RECOVER -/

/-- May a RECOVER begin? -/
def RecoverMay (t : RecoverTarget) (s : State) : Prop :=
  s.ward.recovery = true ∧ s.ward.anv.grants.getLsbD 0 = true ∧ s.ward.xfer = none ∧
    ¬(s.modes.mode = .evacuate ∧ targetSlot t = none)

/-- The slot of a recovery is WRITING and its window open. -/
def recoverOpened (t : RecoverTarget) (s : State) : State :=
  match targetSlot t with
  | some b => slotWindow b true (slotWrite (setStateOf b .writing) s)
  | none => s

theorem recoverOpened_ward (t : RecoverTarget) (s : State) : (recoverOpened t s).ward.anv = s.ward.anv ∧
    (recoverOpened t s).ward.fuses = s.ward.fuses := by
  unfold recoverOpened
  split
  · rw [slotWindow_ward, slotWrite_ward]
    exact ⟨rfl, rfl⟩
  · exact ⟨rfl, rfl⟩

theorem recoverOpened_slot {t : RecoverTarget} {b : Bool} (h : targetSlot t = some b) (s : State) :
    stateOf (recoverOpened t s).ward.slot b = .writing ∧ (recoverOpened t s).bit Reg.flashWp (b2n b) = true := by
  unfold recoverOpened
  rw [h]
  dsimp only
  refine ⟨?_, slotWindow_bit b true _⟩
  rw [slotWindow_ward, slotWrite_ward]
  exact (stateOf_setStateOf b .writing s.ward.slot).1

/-- The transfer that a RECOVER begins. -/
def recoverXfer (t : RecoverTarget) (seq : BitVec 16) : Xfer :=
  ⟨true, if t = .plan then .plan else .stage1, [], 0#16, 0, 0, some t, seq, []⟩

theorem recoverMsg_eq {s : State} (h : anvServes s = true) (t : RecoverTarget) (seq : BitVec 16) : recoverMsg t seq s =
    if (takeMsg (xmsg 0x14 (targetCode t) 0 0 seq []) s).ward.recovery &&
        granted (takeMsg (xmsg 0x14 (targetCode t) 0 0 seq []) s) 0 &&
        (takeMsg (xmsg 0x14 (targetCode t) 0 0 seq []) s).ward.xfer.isNone &&
        !(inEvacuate (takeMsg (xmsg 0x14 (targetCode t) 0 0 seq []) s) && (targetSlot t).isNone) then
      askNext (recoverXfer t seq) (recoverOpened t (takeMsg (xmsg 0x14 (targetCode t) 0 0 seq []) s))
    else anvSend (xmsg 0x15 33 0 0 seq []) (takeMsg (xmsg 0x14 (targetCode t) 0 0 seq []) s) := if_pos h

theorem recoverMay_iff (t : RecoverTarget) (m : List Byte) (s : State) :
    ((takeMsg m s).ward.recovery && granted (takeMsg m s) 0 && (takeMsg m s).ward.xfer.isNone &&
      !(inEvacuate (takeMsg m s) && (targetSlot t).isNone)) = true ↔ RecoverMay t s := by
  obtain ⟨hx, -, -, -, hrec, hgr, hm⟩ := takeMsg_xfer m s
  have hno : (!(s.modes.mode == .evacuate && (targetSlot t).isNone)) = true ↔
      ¬(s.modes.mode = .evacuate ∧ targetSlot t = none) := by
    rw [Bool.not_eq_true', ← Bool.not_eq_true, Bool.and_eq_true, beq_iff_eq, Option.isNone_iff_eq_none]
  unfold granted inEvacuate RecoverMay
  rw [hx, hrec, hgr, hm, Bool.and_eq_true, hno, Bool.and_eq_true, Bool.and_eq_true, Option.isNone_iff_eq_none, and_assoc,
    and_assoc]

theorem recoverMsg_opens {s : State} (h : anvServes s = true) {t : RecoverTarget} (hm : RecoverMay t s) (seq : BitVec 16) :
    (∃ x, (recoverMsg t seq s).ward.xfer = some x ∧ x.anvil = true ∧ x.target = some t ∧ x.reqSeq = seq ∧ x.got = [] ∧
      x.kind = (if t = .plan then .plan else .stage1) ∧ (recoverMsg t seq s).ward.anv.toHost = s.ward.anv.toHost ++
        xmsg 1 (xferKind x.kind) 0 64 x.seq s.ward.fuses.serial) ∧
    ∀ b, targetSlot t = some b →
      stateOf (recoverMsg t seq s).ward.slot b = .writing ∧ (recoverMsg t seq s).bit Reg.flashWp (b2n b) = true := by
  rw [recoverMsg_eq h, if_pos ((recoverMay_iff t _ s).mpr hm)]
  obtain ⟨-, -, hfuse, hhost, -⟩ := takeMsg_xfer (xmsg 0x14 (targetCode t) 0 0 seq []) s
  generalize takeMsg (xmsg 0x14 (targetCode t) 0 0 seq []) s = u at hfuse hhost
  obtain ⟨hanv, hfuse'⟩ := recoverOpened_ward t u
  have hslot : ∀ b, targetSlot t = some b → stateOf (recoverOpened t u).ward.slot b = .writing ∧
      (recoverOpened t u).bit Reg.flashWp (b2n b) = true := fun b hb => recoverOpened_slot hb u
  generalize recoverOpened t u = v at hanv hfuse' hslot
  obtain ⟨hsent, hsl, hrd⟩ := askNext_anvil (x := recoverXfer t seq) rfl v
  refine ⟨⟨_, askNext_xfer _ _, rfl, rfl, rfl, rfl, rfl, hsent.trans ?_⟩, fun b hb => ?_⟩
  · rw [hanv, hhost, hfuse', hfuse]
    rfl
  · rw [hsl, State.bit, hrd]
    exact hslot b hb

/-! ### The obligation -/

/-- Settles O58: the port's own commands, and the transfers by what the outstanding ASK is. -/
theorem anvilCarriesBytesAndTransfers : Obligations.AnvilCarriesBytesAndTransfers := by
  unfold Obligations.AnvilCarriesBytesAndTransfers
  intro only takes sent answers ended
  refine ⟨?publication, ?status, ?put, ?get, ?data, ?none', ?again, ?recover, ?timeout⟩
  case publication =>
    intro s
    obtain ⟨hlen, hhead, htail⟩ := status_bytes (beBytes_length 4 (bootStageView s).toNat) (statusHead_length s)
      (beBytes_length 2 (s.ward.anv.pubCnt + 1#16).toNat)
    refine ⟨statusPublication s, rfl, ?_⟩
    rw [statusPublication_eq]
    exact ⟨rfl, rfl, rfl, hlen, hhead, htail, rfl, rfl, rfl⟩
  case status =>
    intro s hp
    obtain ⟨hlen, hmark, hpub, hget, hspace, hcrc, hbody⟩ := statusAnswer_spec
      (m := [BitVec.ofNat 8 (0xA0 + b2n s.ward.anv.pubIdx)]) rfl hp (beBytes_length 2 (anvGettable s))
      (beBytes_length 2 (anvSpace s)) (beBytes_length 2 (crc16 (statusBody s)))
    refine ⟨anvilStatus s, rfl, ?_⟩
    rw [anvilStatus_eq]
    exact ⟨rfl, hlen, hmark, hpub, hget, hspace, hcrc.trans (congrArg (fun b => beBytes 2 (crc16 b)) hbody.symm)⟩
  case put =>
    intro s len bytes crc
    have hx : exec (.anvPut len bytes crc true) s = .next (anvilPut len bytes crc true s) := rfl
    rw [hx]
    exact ⟨rfl, fun h => ⟨_, rfl, anvilPut_asleep h len bytes crc⟩, fun h => ⟨_, rfl, anvilPut_takes h⟩,
      fun hs hr h => (anvilPut_refused hs hr h).imp fun r h => ⟨h.1, h.2.1, congrArg _ h.2.2⟩,
      fun hs hr => congrArg _ (anvilPut_notReady hs hr len bytes crc)⟩
  case get =>
    exact fun s n => ⟨fun h rep => congrArg Host.Outcome.next (anvilGet_notReady h rep n),
      fun h hn => congrArg Host.Outcome.next (anvilGet_fresh h hn), fun h => congrArg Host.Outcome.next (anvilGet_again h n)⟩
  case data =>
    intro s k off seq bytes m
    have hx : exec (.dataChunk k off seq bytes) s = .next (dataMsg k off seq bytes s) := rfl
    rw [hx]
    refine ⟨fun h => congrArg _ (dataMsg_none h k off seq bytes), fun x h hno => congrArg _ ?_, fun x h ha hnet => ?_,
      fun x h ha hanv hpart hmax => ?_⟩
    · rw [dataMsg_some h, if_neg hno]
      cases hanv : x.anvil
      · exact (chunkAt_net h hanv k off seq bytes).trans (if_neg (by decide)).symm
      · exact (chunkAt_anvil h hanv k off seq bytes).trans (if_pos rfl).symm
    · intro y
      rw [dataMsg_net h hnet ha]
      refine ⟨fun hw => congrArg _ (if_pos hw), fun hw => ⟨_, rfl, ?_⟩⟩
      rw [if_neg (by rw [hw]; decide), askNext_xfer]
      exact ⟨_, rfl, rfl, rfl, rfl, ha.1⟩
    · obtain ⟨hxfer, hsent⟩ := dataMsg_part h hanv ha hpart hmax
      exact ⟨_, rfl, _, hxfer, rfl, rfl, rfl, rfl, hsent⟩
  case none' =>
    intro s k
    have hx : exec (.noneImage k) s = .next (noneMsg k s) := rfl
    rw [hx]
    refine ⟨fun h => congrArg _ ?_, fun x h hk ha => ?_, fun x h hk ha hp => ?_⟩
    · rcases h with h | ⟨x, h, hk⟩
      · exact noneMsg_none h k
      · rw [noneMsg_some h, if_pos hk]
    · rw [noneMsg_some h, if_neg (not_not_intro hk), if_pos ha]
      exact ⟨_, rfl, recoverEnd_ended (by decide) x _ (takeMsg_xfer _ s).2.2.2.1⟩
    · rw [noneMsg_some h, if_neg (not_not_intro hk), ha, if_neg (by decide)]
      obtain ⟨hf, -⟩ := attemptFails_failed hp (s := s) rfl .network 1
      exact ⟨_, rfl, hf.xfer, hf.cause, hf.copy, hf.tried, hf.failed⟩
  case again =>
    intro s
    have hx : exec .askTimeout s = .next (askTimeout s) := rfl
    rw [hx]
    refine ⟨fun h => congrArg _ ?_, fun x h hw => ?_⟩
    · rcases h with h | ⟨x, h, hw⟩
      · exact askTimeout_none h
      · rw [askTimeout_some h, if_pos hw]
    · rw [askTimeout_some h, hw, if_neg (by decide)]
      obtain ⟨hxfer, hseq⟩ := askSend_xfer (askedAgain x s)
      refine ⟨_, rfl, hseq, hxfer, fun ha => ?_⟩
      have hunder : (askedAgain x s).ward.xfer = some { x with seq := s.ward.askSeq + 1#16 } := rfl
      rw [askSend_anvil hunder ha]
      exact (anvSend_spec _ _).1
  case recover =>
    intro s t seq may
    have hx : exec (.recover t seq) s = .next (recoverMsg t seq s) := rfl
    rw [hx]
    refine ⟨fun h => congrArg _ (if_neg (by rw [h]; decide)), fun h hno => congrArg _ ?_,
      fun h hm => ⟨_, rfl, recoverMsg_opens h hm seq⟩⟩
    rw [recoverMsg_eq h, if_neg (mt (recoverMay_iff t _ s).mp hno)]
  case timeout =>
    intro s
    have hx : exec .recoverTimeout s = .next (recoverTimeout s) := rfl
    rw [hx]
    refine ⟨fun h => congrArg _ ?_, fun x h ha => ?_⟩
    · rcases h with h | ⟨x, h, ha⟩
      · exact recoverTimeout_none h
      · rw [recoverTimeout_some h, ha, if_neg (by decide)]
    · rw [recoverTimeout_some h, if_pos ha]
      exact ⟨_, rfl, recoverEnd_ended (by decide) x 0 rfl⟩

end Sys2Proof.Machine
end

section
/-! READ, WRITE, WRITE_GROUP and BURST of the dictionary (chapter 16). -/

namespace Sys2Proof.Machine
open Sys2Proof

/-- The tag of the request that a tag names. -/
theorem reqOf_tag {s : State} {t tag : Nat} {q : Req} (h : reqOf s t tag = some q) : q.tag = tag := by
  have := List.find?_some h
  simpa using this

/-! ### The handler ring -/

/-- A request that finds a free slot: its place in the ring, and nothing else of the dictionary but the ring's own bytes. -/
theorem passHandler_free {t tag : Nat} {s : State} (h : hringFull s = false) :
    (passHandler t tag s).dict.hprod = (s.dict.hprod + 1) % hringSize s ∧
    tget none (passHandler t tag s).dict.hslots s.dict.hprod = some (t, tag, s.dict.hinges) ∧
    ((passHandler t tag s).tenant t).reqs = (s.tenant t).reqs.map fun y =>
      if y.tag = tag then { y with st := .handler s.dict.hprod } else y := by
  obtain ⟨k, hk⟩ := drawBytes_state 8 s
  rw [passHandler, if_neg (by rw [h]; decide)]
  dsimp only
  rw [hk]
  refine ⟨rfl, by simp [modReq, State.modTenant, State.setTenant, State.modDict], ?_⟩
  simp only [modReq, State.modTenant, State.tenant_setTenant, if_true]
  rfl

theorem passHandler_full {t tag : Nat} {s : State} (h : hringFull s = true) : passHandler t tag s = s := if_pos h

/-! ### The lengths of values in force -/

theorem noteLengths_one (m : Member) (s : State) : noteLengths [m] s = if (typeBytes m.type).isSome then s else s.modDict fun d =>
    { d with lengths := tset none d.lengths (256 * m.index + m.sub) (some m.value.length) } := by
  unfold noteLengths
  simp only [List.foldl_cons, List.foldl_nil]
  split <;> rfl

/-- What a write in force leaves of what its answer rests on. -/
theorem noteLengths_hasRoom {t : Nat} {q q' : Req} {ms : List Member} {s : State} (h : HasRoom t q s) (hs : q'.sess = q.sess)
    (hi : q'.sid = q.sid) : HasRoom t q' (noteLengths ms s) := h.congr rfl rfl rfl hs hi

section
variable {s : State} {t : Nat} {q : Req} {m : Member}

/-- A write in force that asks for no record is answered. -/
theorem writeInForce_answered (hq : reqOf s t q.tag = some q) (hroom : HasRoom t q s) (hop : q.op = .write m)
    (hlog : logMembers s t q.tag q.warden [m] = []) :
    writeInForce t q.tag 0 0#32 0 s =
      responsePlaced t { q with status := 0, hinge := 0#32, detail := 0, value := [] } (noteLengths [m] s) := by
  have hm : opMembers q.op = [m] := by rw [hop]; rfl
  simp only [writeInForce, hq, hm, hlog, if_true]
  exact finish_room hq (noteLengths_hasRoom hroom rfl rfl) (by decide) rfl

/-- A write in force of a persistent entry waits for its record. -/
theorem writeInForce_logged (hq : reqOf s t q.tag = some q) (hop : q.op = .write m) {l : LogRec}
    (hlog : logMembers s t q.tag q.warden [m] = [l]) :
    writeInForce t q.tag 0 0#32 0 s = (modReq t q.tag (fun y => { y with st := .logging 1, status := 0, hinge := 0#32, detail := 0 })
      (noteLengths [m] s)).modDict fun d => { d with log := d.log ++ [l] } := by
  have hm : opMembers q.op = [m] := by rw [hop]; rfl
  simp only [writeInForce, hq, hm, hlog, List.cons_ne_nil, if_false]
  rfl

/-! ### A write of memory -/

/-- An entry whose place is its element, and that is no entry of a tenant, a zone, a claim or a node. -/
def PlainMember (m : Member) : Prop := placeOf m.index m.sub = none ∧ (m.index < 0x2000 ∨ 0x2280 ≤ m.index) ∧
  (m.index < 0x3000 ∨ 0x3100 ≤ m.index) ∧ m.index ≠ 0x1011

theorem PlainMember.tenantWrite (h : PlainMember m) : tenantWrite t q m s = none := by
  obtain ⟨-, hidx, -, -⟩ := h
  exact if_neg (by omega)

theorem PlainMember.claim (h : PlainMember m) : claimOfMember t m = none := by
  obtain ⟨-, hidx, -, -⟩ := h
  exact if_neg (by omega)

theorem PlainMember.nodes (h : PlainMember m) (r : DRec) : nodeMembers [(r, m)] = [] := by
  obtain ⟨-, -, hnode, -⟩ := h
  have hn : ¬ (0x3000 ≤ m.index ∧ m.index < 0x3100 ∧ leNat m.value ≠ 0) := by omega
  simp [nodeMembers, hn]

theorem nodesFull_nil : nodesFull s [] = false := rfl

theorem PlainMember.writeNow (h : PlainMember m) {r : DRec} (hr : r.backing = 2) :
    writeNowMember t r m s = ⟨(putBytes (r.elem m.index m.sub) m.value s).1, none, (putBytes (r.elem m.index m.sub) m.value s).2⟩ := by
  obtain ⟨hplace, hidx, -, -⟩ := h
  rw [writeNowMember, hplace]
  dsimp only
  rw [if_neg (by omega), if_pos hr]

theorem withRecs_one {r : DRec} (hr : recOf s m.index m.sub = some r) : withRecs s [m] = [(r, m)] := by
  simp [withRecs, hr]

/-- A member backed by memory is the whole of its burst: its bytes. -/
theorem PlainMember.issueMembers (h : PlainMember m) {r : DRec} (hrec : recOf s m.index m.sub = some r) (hr : r.backing = 2) :
    issueMembers false t 0 [m] s = ⟨(putBytes (r.elem m.index m.sub) m.value s).2, none, none, false,
      (putBytes (r.elem m.index m.sub) m.value s).1⟩ := by
  have hcom : ([(r, m)].filter fun x => decide (x.1.backing = 3)) = [] := by simp [hr]
  have hoth : ([(r, m)].filter fun x => decide (x.1.backing ≠ 3 ∧ (claimOfMember t x.2).isNone)) = [(r, m)] := by
    simp [hr, h.claim]
  have hclaim : [m].filterMap (claimOfMember t) = [] := by simp [h.claim]
  rw [Machine.issueMembers]
  simp only [withRecs_one hrec, hcom, hoth, hclaim, List.filterMap_nil, List.eraseDups_nil, List.foldl_nil, List.foldl_cons,
    if_true, Bool.false_eq_true, if_false, h.writeNow hr, Option.or_none, Option.isSome_none, Bool.or_false, Bool.true_and]

theorem PlainMember.issueWrite (h : PlainMember m) (hop : q.op = .write m) {r : DRec} (hrec : recOf s m.index m.sub = some r)
    (hr : r.backing = 2) :
    issueWrite t q s = if (putBytes (r.elem m.index m.sub) m.value s).1 = true
      then writeInForce t q.tag 0 0#32 0 (putBytes (r.elem m.index m.sub) m.value s).2
      else finish t q.tag 11 0#32 0 [] (putBytes (r.elem m.index m.sub) m.value s).2 := by
  have hcs : ([(r, m)].filterMap fun x => if x.1.backing = 3 then commitSet (x.1.elem x.2.index x.2.sub) else none) = [] := by
    simp [hr]
  rw [Machine.issueWrite, hop]
  simp only [opMembers, withRecs_one hrec, hcs, h.nodes r, nodesFull_nil, h.issueMembers hrec hr, List.eraseDups_nil, if_true,
    Bool.false_eq_true, if_false, Bool.true_and]
  cases (putBytes (r.elem m.index m.sub) m.value s).1 <;> rfl

theorem PlainMember.executeWrite (h : PlainMember m) (hw : q.warden = false) {r : DRec} (hrec : recOf s m.index m.sub = some r)
    (hr : r.backing = 2) : executeWrite t q m s = Machine.issueWrite t q s := by
  obtain ⟨-, -, -, hdef⟩ := id h
  rw [Machine.executeWrite, if_neg (by rw [hw]; decide), hrec]
  dsimp only
  rw [if_neg (by rw [hr]; decide), h.tenantWrite]
  exact if_neg fun hd => hdef hd.1

/-! ### A group's burst -/

/-- The sets that some members bind. -/
def boundSets (s : State) (ms : List Member) : List CSet :=
  ((withRecs s ms).filterMap fun x => if x.1.backing = 3 then commitSet (x.1.elem x.2.index x.2.sub) else none).eraseDups

/-- A group whose nodes fit issues its members on the commit group that it gets, and waits for the hinge. -/
theorem issueWrite_group {n : Nat} {ms : List Member} (hop : q.op = .group n ms)
    (hfit : nodesFull s (nodeMembers (withRecs s ms)) = false) {g : Nat}
    (hg : if boundSets s ms = [] then g = 0 else boundElsewhere s t (boundSets s ms) = false ∧ freeGroup s t = some g)
    (hh : (Machine.issueMembers false t g ms s).hinge = true) :
    Machine.issueWrite t q s = modReq t q.tag (fun y => { y with
      st := .atHinge (Machine.issueMembers false t g ms s).grp, status := if (Machine.issueMembers false t g ms s).ok then 0 else 12 })
      (Machine.issueMembers false t g ms s).s := by
  have hgrp : (if boundSets s ms = [] then some 0 else if boundElsewhere s t (boundSets s ms) then none else freeGroup s t) = some g := by
    split at hg
    · rw [if_pos ‹_›, hg]
    · rw [if_neg ‹_›, hg.1]
      exact hg.2
  rw [boundSets] at hgrp
  simp only [Machine.issueWrite, hop, opMembers, hfit, Bool.false_eq_true, if_false, Bool.false_and, false_and, hgrp]
  exact if_pos hh
end

/-- Settles O42: reads and their values, the handler ring, the write of a memory entry and its answer, the burst of a group. -/
theorem entriesAreReadAndWritten : Obligations.EntriesAreReadAndWritten := by
  unfold Obligations.EntriesAreReadAndWritten
  intro place room taken answer state plain
  refine ⟨?read, ?write, fun m s => noteLengths_one m s, ?group, ?burst⟩
  case read =>
    rintro s t tag q i sub ⟨hruns, hq, hst⟩ hop
    have hx : exec (.readReq t tag) s = .next (readRequest t.val tag.toNat s) := rfl
    have htag := reqOf_tag hq
    have htk := takenReq_taken hruns hq hst
    refine ⟨fun hw hserves hroom => ?_, fun r hw hrec hb hroom => ?_, fun r hw hrec hb => ?_⟩
    · obtain ⟨hqt, hlen, hsess⟩ := hroom
      rw [htag] at hqt
      rw [hx, readRequest, htk]
      simp only [hop, hw, hserves, if_true]
      exact congrArg _ (finish_room hqt ⟨hlen, hsess⟩ (by decide) rfl)
    · obtain ⟨hqt, hlen, hsess⟩ := hroom
      rw [htag] at hqt
      refine ⟨fun b hv => ?_, fun hv => ?_⟩
      · rw [hx, readRequest, htk]
        simp only [hop, hw, Bool.false_eq_true, if_false, hrec, hb, hv]
        exact congrArg _ (finish_room hqt ⟨hlen, hsess⟩ (by decide) rfl)
      · rw [hx, readRequest, htk]
        simp only [hop, hw, Bool.false_eq_true, if_false, hrec, hb, hv]
        exact congrArg _ (finish_room hqt ⟨hlen, hsess⟩ (by decide) rfl)
    · have hread : readRequest t.val tag.toNat s = passHandler t.val tag.toNat s := by
        rw [readRequest, htk]
        simp only [hop, hw, Bool.false_eq_true, if_false, hrec, hb, if_true]
      refine ⟨fun hfull => ?_, fun hfree => ⟨_, hx, ?_⟩⟩
      · rw [hx, hread, passHandler_full hfull]
      · rw [hread]
        exact passHandler_free hfree
  case write =>
    rintro s t tag q m r ⟨hruns, hq, hst⟩ hop hw hrec hb hplain w
    have htag := reqOf_tag hq
    have hx : exec (.writeReq t tag) s = .next (if w.1 = true then writeInForce t q.tag 0 0#32 0 w.2
        else finish t q.tag 11 0#32 0 [] w.2) := by
      show Host.Outcome.next (writeRequest t.val tag.toNat s) = _
      rw [writeRequest, takenReq_taken hruns hq hst]
      simp only [hop]
      rw [PlainMember.executeWrite hplain hw hrec hb, PlainMember.issueWrite hplain hop hrec hb]
    refine ⟨fun hbad hroom => ?_, fun hok hroom hlog => ?_, fun l hok hroom hlog => ?_⟩
    · obtain ⟨hqt, hlen, hsess⟩ := hroom
      rw [hx, hbad, if_neg (by decide)]
      exact congrArg _ (finish_room hqt ⟨hlen, hsess⟩ (by decide) rfl)
    · obtain ⟨hqt, hlen, hsess⟩ := hroom
      rw [hx, hok, if_pos rfl]
      exact congrArg _ (writeInForce_answered hqt ⟨hlen, hsess⟩ hop (by rw [hw, htag]; exact hlog))
    · obtain ⟨hqt, -, -⟩ := hroom
      rw [hx, hok, if_pos rfl, writeInForce_logged hqt hop (by rw [hw, htag]; exact hlog), htag]
      rfl
  case group =>
    rintro s t tag q n ms ⟨hruns, hq, hst⟩ hop
    show Host.Outcome.next (groupRequest t.val tag.toNat s) = _
    rw [groupRequest, takenReq_taken hruns hq hst]
    simp only [hop]
    rfl
  case burst =>
    intro s t tag q n ms hruns hq hst hop
    have htag := reqOf_tag hq
    have hx : exec (.burst t tag) s = .next (issueWrite t.val q s) := by
      show Host.Outcome.next (burst t.val tag.toNat s) = _
      rw [burst, if_pos hruns, hq]
      simp only [hst, hop, ne_eq, not_true_eq_false, if_false]
    refine ⟨fun hfull hroom => ?_, fun g hfit hg hh => ?_⟩
    · obtain ⟨hqt, hlen, hsess⟩ := hroom
      rw [hx]
      simp only [issueWrite, hop, opMembers, hfull, if_true]
      exact congrArg _ (finish_room hqt ⟨hlen, hsess⟩ (by decide) rfl)
    · rw [hx, issueWrite_group hop hfit hg hh, htag]
      rfl

end Sys2Proof.Machine
end

section
/-! The block operations (chapters 7 and 9): their operands, one element at a time, and their end. -/

namespace Sys2Proof.Machine
open Sys2Proof

/-! ### The registers of a core, written and read again -/

theorem regsOf_setRegs (c : CoreId) (r : CoreRegs) (s : State) : regsOf c (setRegs c r s) = r := by
  cases c <;> simp [regsOf, setRegs, State.modSc]

theorem retsOf_setRegs {c : CoreId} (hs : isSample c = false) (r : CoreRegs) (s : State) : retsOf c (setRegs c r s) = retsOf c s := by
  cases c with
  | sc n => cases hs
  | cc n => simp [retsOf, setRegs]
  | warden => simp [retsOf, setRegs]

theorem updRegs_ok (c : CoreId) (f : CoreRegs → CoreRegs) (x : RunSt) : updRegs c f x = .ok () (ranOn c f x) := rfl

theorem passSlots_control {c : CoreId} (hs : isSample c = false) (n : Nat) (x : RunSt) : passSlots c n x = .ok () x := by
  cases c with
  | sc n => cases hs
  | cc n => rfl
  | warden => rfl

/-! ### The operands -/

/-- The address that an operand names. -/
def opdAddr (o : Opd) : Nat := (o.addr.getD 0#32).toNat

/-- How far behind its first element a block operation of `n` begins: at its last where it runs downwards. -/
def blockOff (op : AOp) (sz : Nat) (a b : Opd) (n : Nat) : Nat :=
  if op == .bmov && copiesDown (opdAddr b) (opdAddr a) n sz then (n - 1) * sz else 0

/-- The registers that the operands of a block operation load. -/
def blockRegs (c : CoreId) (op : AOp) (sz : Nat) (a b : Opd) (n : Nat) (r : CoreRegs) : CoreRegs :=
  { r with
    bsrc := BitVec.ofNat 32 (if op = .bfil then b.val else if op = .bscn then opdAddr a else opdAddr b + blockOff op sz a b n)
    bdst := BitVec.ofNat 32 (if op = .bscn then b.val else if op = .bcrc then 0 else opdAddr a + blockOff op sz a b n)
    bcnt := BitVec.ofNat 32 n
    bstep := bstepOf op sz (op == .bmov && copiesDown (opdAddr b) (opdAddr a) n sz)
    acc := if op = .bcrc then BitVec.ofNat 72 a.val else r.acc
    psw := if isSample c then r.psw else wsetBit r.psw pswBA true }

section
variable {c : CoreId} {e : Enc} {a b d : Opd} {x0 x y z : RunSt}

/-- The count: the third operand, or the encoding's own. -/
theorem blockCount_ok (k : Nat → Run Unit)
    (hd : if e.shape = 5 then readOperand c 3 4 e.c y = .ok d z else d = Opd.lit 3 e.imm ∧ z = y) :
    (if e.shape == 5 then andThen (readOperand c 3 4 e.c) fun n => k n.val else k e.imm) y = k d.val z := by
  split at hd
  · rw [if_pos (beq_iff_eq.mpr ‹_›), andThen_ok _ hd]
  · obtain ⟨rfl, rfl⟩ := hd
    rw [if_neg (by simpa using ‹_›)]
    rfl

theorem blockLoad_ok {op : AOp} {cc : Nat} (hop : isBlockOp op = true)
    (ha : (if op = .bcrc then readOperand c 1 (szBytes e.sz) e.a x0 else addrOperand c 1 (szBytes e.sz) e.a x0) = .ok a x)
    (hb : (if op = .bfil ∨ op = .bscn then readOperand c 2 (szBytes e.sz) e.b x else addrOperand c 2 (szBytes e.sz) e.b x) = .ok b y)
    (hd : if e.shape = 5 then readOperand c 3 4 e.c y = .ok d z else d = Opd.lit 3 e.imm ∧ z = y) :
    blockLoad c ⟨op, e, cc⟩ x0 = .ok () (ranOn c (blockRegs c op (szBytes e.sz) a b d.val) z) := by
  have hrun : ∀ {p q : Run Opd}, p x0 = .ok a x → q x = .ok b y → andThen p (fun a => andThen q fun b =>
      if e.shape == 5 then andThen (readOperand c 3 4 e.c) fun n => updRegs c (blockRegs c op (szBytes e.sz) a b n.val)
      else updRegs c (blockRegs c op (szBytes e.sz) a b e.imm)) x0 = .ok () (ranOn c (blockRegs c op (szBytes e.sz) a b d.val) z) :=
    fun h1 h2 => by
      rw [andThen_ok _ h1, andThen_ok _ h2, blockCount_ok (fun n => updRegs c (blockRegs c op (szBytes e.sz) a b n)) hd, updRegs_ok]
  cases op
  case bmov => exact hrun (p := addrOperand c 1 (szBytes e.sz) e.a) (q := addrOperand c 2 (szBytes e.sz) e.b) ha hb
  case bfil => exact hrun (p := addrOperand c 1 (szBytes e.sz) e.a) (q := readOperand c 2 (szBytes e.sz) e.b) ha hb
  case bcmp => exact hrun (p := addrOperand c 1 (szBytes e.sz) e.a) (q := addrOperand c 2 (szBytes e.sz) e.b) ha hb
  case bscn => exact hrun (p := addrOperand c 1 (szBytes e.sz) e.a) (q := readOperand c 2 (szBytes e.sz) e.b) ha hb
  case bcrc => exact hrun (p := readOperand c 1 (szBytes e.sz) e.a) (q := addrOperand c 2 (szBytes e.sz) e.b) ha hb
  all_goals cases hop
end

/-! ### One element on a control-class core -/

/-- How an element without an end steps the pointers and counts. -/
def elemRegs (op : AOp) (sz : Nat) (down : Bool) (v : Nat) (r : CoreRegs) : CoreRegs :=
  { r with
    bsrc := if op = .bfil then r.bsrc else blockStep down sz r.bsrc
    bdst := if op = .bscn ∨ op = .bcrc then r.bdst else blockStep down sz r.bdst
    bcnt := r.bcnt - 1#32
    acc := if op = .bcrc then
        accSet r.acc 0 32 (BitVec.ofNat 32 ((leBytes sz v).foldl (fun k b => crcByte k b.toNat) (r.acc.toNat % 2 ^ 32)))
      else r.acc }

section
variable {c : CoreId} {sz u v : Nat} {x0 x y z w : RunSt} (hs : isSample c = false)
include hs

theorem blockElem_bmov (hp : coreProbe c (regsOf c x0.s).bdst sz 1 x0 = .ok () x)
    (hr : coreRead c (regsOf c x0.s).bsrc sz 2 x = .ok v y)
    (hw : writeAll c [⟨(regsOf c x0.s).bdst, sz, v, 1⟩] y = .ok () w) :
    blockElem c .bmov sz x0 = .ok false (ranOn c (elemRegs .bmov sz ((regsOf c x0.s).bstep.getLsbD 8) v) w) := by
  rw [blockElem, andThen_ok _ getRegs_ok]
  dsimp only
  rw [andThen_ok _ hp, andThen_ok _ hr, andThen_ok _ (passSlots_control hs 1 y), andThen_ok _ hw,
    andThen_ok _ (passSlots_control hs 1 w)]
  rfl

theorem blockElem_bfil (hp : coreProbe c (regsOf c x0.s).bdst sz 1 x0 = .ok () y)
    (hw : writeAll c [⟨(regsOf c x0.s).bdst, sz, (regsOf c x0.s).bsrc.toNat % 2 ^ (8 * sz), 1⟩] y = .ok () w) :
    blockElem c .bfil sz x0 = .ok false (ranOn c (elemRegs .bfil sz ((regsOf c x0.s).bstep.getLsbD 8) v) w) := by
  rw [blockElem, andThen_ok _ getRegs_ok]
  dsimp only
  rw [andThen_ok _ hp, andThen_ok _ hw, andThen_ok _ (passSlots_control hs 1 w)]
  rfl

theorem blockElem_bcmp (hu : coreRead c (regsOf c x0.s).bdst sz 1 x0 = .ok u x) (hv : coreRead c (regsOf c x0.s).bsrc sz 2 x = .ok v z) :
    blockElem c .bcmp sz x0 = if u = v then .ok false (ranOn c (elemRegs .bcmp sz ((regsOf c x0.s).bstep.getLsbD 8) v) z)
      else .ok true (ranOn c (fun r => { r with psw := takeNzcv r.psw (aluSub (8 * sz) u v r.psw).2 }) z) := by
  rw [blockElem, andThen_ok _ getRegs_ok]
  dsimp only
  rw [andThen_ok _ hu, andThen_ok _ (passSlots_control hs 1 x), andThen_ok _ hv, andThen_ok _ (passSlots_control hs 1 z)]
  split <;> rfl

theorem blockElem_bscn (hv : coreRead c (regsOf c x0.s).bsrc sz 1 x0 = .ok v x) :
    blockElem c .bscn sz x0 = if v = (regsOf c x0.s).bdst.toNat % 2 ^ (8 * sz)
      then .ok true (ranOn c (fun r => { r with psw := wsetBit r.psw pswZ true }) x)
      else .ok false (ranOn c (elemRegs .bscn sz ((regsOf c x0.s).bstep.getLsbD 8) v) x) := by
  rw [blockElem, andThen_ok _ getRegs_ok]
  dsimp only
  rw [andThen_ok _ hv, andThen_ok _ (passSlots_control hs 1 x)]
  split <;> rfl

theorem blockElem_bcrc (hv : coreRead c (regsOf c x0.s).bsrc sz 2 x0 = .ok v x) :
    blockElem c .bcrc sz x0 = .ok false (ranOn c (elemRegs .bcrc sz ((regsOf c x0.s).bstep.getLsbD 8) v) x) := by
  rw [blockElem, andThen_ok _ getRegs_ok]
  dsimp only
  rw [andThen_ok _ hv, andThen_ok _ (passSlots_control hs sz x)]
  rfl
end

/-! ### The end on a control-class core -/

/-- The registers of an operation that is over. -/
def endedRegs (op : AOp) (early : Bool) (nx : Word) (r : CoreRegs) : CoreRegs :=
  { r with pc := nx, psw := wsetBit (if early then r.psw else blockOut op r.psw) pswBA false }

theorem blockEnd_run (c : CoreId) (op : AOp) (early : Bool) (nx : Word) (s : State) :
    (runPlain (blockEnd c op early nx) () s).2 = setRegs c (endedRegs op early nx (regsOf c s)) s := rfl

section
variable {c : CoreId} {i : AInstr} {s : State}

/-- A ready control-class core that begins a block operation, or goes on with one. -/
theorem exec_block {op : AOp} {e : Enc} (k : Nat) (hop : isBlockOp op = true) (hs : isSample c = false)
    (hready : coreReady c ⟨op, e, 0⟩ s = true) :
    exec (atward c op e 0 k) s = .next (ctlBlock c ⟨op, e, 0⟩ k (regsOf c s).pc (nextPc ⟨op, e, 0⟩ (regsOf c s).pc)
      (setRegs c (noPrefix (regsOf c s)) (coreBegin c ⟨op, e, 0⟩ s).s)) := by
  rw [exec_atward_eq, atwardCc_zero, atwardElems, if_pos hop, coreRun_ctl hs, ctlRun_ready _ hs hready, ctlOnce, if_pos hop,
    noPrefix_fetched hs]

/-- What an instruction's bus accesses return stands from where it begins. -/
theorem retsOf_begun (hs : isSample c = false) (r : CoreRegs) : retsOf c (setRegs c r (coreBegin c i s).s) = (coreBegin c i s).todo := by
  rw [retsOf_setRegs hs, coreBegin_ctl hs, fetchLines_rets]

/-- Operands that are read without a fault: the elements follow. -/
theorem ctlBlock_loaded {t : State} {x : RunSt} {k : Nat} {pc nx : Word} (hba : (regsOf c t).psw.getLsbD 28 = false)
    (hload : blockLoad c i ⟨t, retsOf c t, [], none⟩ = .ok () x) (hecc : x.ecc = none) :
    ctlBlock c i k pc nx t = ctlElems c i.op (szBytes i.e.sz) pc nx k (setRets c [] x.s) := by
  rw [ctlBlock]
  dsimp only
  rw [if_neg (by rw [show wbit (regsOf c t).psw pswBA = false from hba]; decide), attempt, andThen_ok _ hload]
  simp only [eccCheck, hecc]

theorem ctlBlock_resumes {t : State} {k : Nat} {pc nx : Word} (hba : (regsOf c t).psw.getLsbD 28 = true) :
    ctlBlock c i k pc nx t = ctlElems c i.op (szBytes i.e.sz) pc nx k
      (setRegs c { regsOf c t with bstep := bstepOf i.op (szBytes i.e.sz) (resumesDown i.op (szBytes i.e.sz) (regsOf c t)) } t) := by
  rw [ctlBlock]
  dsimp only
  rw [if_pos (show wbit (regsOf c t).psw pswBA = true from hba)]

variable {op : AOp} {sz : Nat} {pc nx : Word} {x : RunSt}

/-- One element that does not end the operation. -/
theorem ctlElems_goesOn (hcnt : (regsOf c s).bcnt ≠ 0#32) (he : blockElem c op sz ⟨s, retsOf c s, [], none⟩ = .ok false x)
    (hecc : x.ecc = none) : ctlElems c op sz pc nx 1 s = elemsOver c op nx (setRets c [] x.s) := by
  rw [ctlElems]
  dsimp only
  rw [if_neg hcnt, andThen_ok _ he]
  simp only [andThen, eccCheck, hecc, ret, Bool.false_eq_true, if_false, ctlElems, ite_self]

/-- One element that ends it. -/
theorem ctlElems_stops (hcnt : (regsOf c s).bcnt ≠ 0#32) (he : blockElem c op sz ⟨s, retsOf c s, [], none⟩ = .ok true x)
    (hecc : x.ecc = none) :
    ctlElems c op sz pc nx 1 s = setRegs c (endedRegs op true nx (regsOf c (setRets c [] x.s))) (setRets c [] x.s) := by
  rw [ctlElems]
  dsimp only
  rw [if_neg hcnt, andThen_ok _ he]
  simp only [andThen, eccCheck, hecc, ret, if_true]
  rfl
end

end Sys2Proof.Machine
end

section
/-! The block operations on a sample core, whole and at one cost (chapters 5 and 9); what O33 says. -/

namespace Sys2Proof.Machine
open Sys2Proof

/-! ### What leaves a sample core's place in its frame and its registers -/

/-- A sample core's slot, domain and registers stand as before. -/
def ScStays (n : Nat) (s t : State) : Prop := (t.sc n).slot = (s.sc n).slot ∧ (t.sc n).dom = (s.sc n).dom ∧ (t.sc n).r = (s.sc n).r

theorem ScStays.refl (n : Nat) (s : State) : ScStays n s s := ⟨rfl, rfl, rfl⟩

theorem ScStays.trans {n : Nat} {s t u : State} (h : ScStays n s t) (k : ScStays n t u) : ScStays n s u := by
  obtain ⟨h1, h2, h3⟩ := h
  obtain ⟨k1, k2, k3⟩ := k
  exact ⟨k1.trans h1, k2.trans h2, k3.trans h3⟩

theorem sc_modSc (s : State) (n : Nat) (f : SampleCore → SampleCore) : (s.modSc n f).sc n = f (s.sc n) := by
  rw [State.modSc, State.sc_setSc, if_pos rfl]

theorem ScStays.modSc (n : Nat) (s : State) {f : SampleCore → SampleCore} (hslot : (f (s.sc n)).slot = (s.sc n).slot)
    (hdom : (f (s.sc n)).dom = (s.sc n).dom) (hr : (f (s.sc n)).r = (s.sc n).r) : ScStays n s (s.modSc n f) := by
  unfold ScStays
  rw [sc_modSc]
  exact ⟨hslot, hdom, hr⟩

theorem recordCause_stays (n k : Nat) (s : State) : ScStays n s (recordCause n k s) := by
  unfold recordCause
  apply ScStays.modSc <;> split <;> rfl

theorem scMet_stays (n : Nat) (h : Nat × Bool) (s : State) : ScStays n s (scMet n h s) := by
  have hcount : ScStays n s (if h.1 = 0 then s else s.modSc n fun c => { c with eccNew := c.eccNew + h.1 }) := by
    split
    · exact .refl n s
    · exact .modSc n s rfl rfl rfl
  unfold scMet
  dsimp only
  split
  · exact hcount.trans (recordCause_stays ..)
  · exact hcount

theorem scTouched_stays (n a : Nat) (s : State) : ScStays n s (scTouched n a s) := by
  unfold scTouched
  split
  · exact .modSc n s rfl rfl rfl
  · exact .refl n s

theorem scRead_stays (n a size : Nat) (s : State) : ScStays n s (scRead n a size s).2 := by
  unfold scRead
  split
  · exact (scTouched_stays ..).trans (scMet_stays ..)
  · exact recordCause_stays ..

theorem scWrite_stays (n a size v : Nat) (s : State) : ScStays n s (scWrite n a size v s) := by
  unfold scWrite
  split
  · next b _ =>
    have hm : ScStays n s (s.mwr b size v) := ⟨rfl, rfl, rfl⟩
    exact hm.trans (scTouched_stays ..)
  · exact recordCause_stays ..

/-! ### The pieces of an instruction on a sample core never fail -/

/-- A piece that neither waits nor raises, and leaves the core's place and registers. -/
def RunStays {α : Type} (n : Nat) (p : Run α) : Prop := ∀ x, ∃ a y, p x = .ok a y ∧ ScStays n x.s y.s

theorem RunStays.ret {α : Type} (n : Nat) (a : α) : RunStays n (ret a) := fun x => ⟨a, x, rfl, .refl n x.s⟩

theorem RunStays.andThen {α β : Type} {n : Nat} {p : Run α} {f : α → Run β} (hp : RunStays n p) (hf : ∀ a, RunStays n (f a)) :
    RunStays n (andThen p f) := by
  intro x
  obtain ⟨a, y, h, hxy⟩ := hp x
  obtain ⟨b, z, k, hyz⟩ := hf a y
  exact ⟨b, z, (andThen_ok f h).trans k, hxy.trans hyz⟩

theorem RunStays.look {α : Type} (n : Nat) (f : State → α) : RunStays n (look f) := fun x => ⟨_, x, rfl, .refl n x.s⟩

theorem RunStays.upd {n : Nat} {f : State → State} (h : ∀ s, ScStays n s (f s)) : RunStays n (upd f) :=
  fun x => ⟨(), { x with s := f x.s }, rfl, h x.s⟩

variable (n : Fin 16)

theorem coreRead_sample (a : Word) (k ix : Nat) : RunStays n.val (coreRead (.sc n) a k ix) :=
  fun x => ⟨_, _, rfl, scRead_stays n.val a.toNat k x.s⟩

theorem coreProbe_sample (a : Word) (k ix : Nat) : RunStays n.val (coreProbe (.sc n) a k ix) := .ret n.val ()

theorem writeAll_sample (ws : List CoreWrite) : RunStays n.val (writeAll (.sc n) ws) := by
  have hall (s : State) : ScStays n.val s (ws.foldl (fun s w => scWrite n.val w.addr.toNat w.size w.val s) s) := by
    induction ws generalizing s with
    | nil => exact .refl n.val s
    | cons w ws ih => exact (scWrite_stays ..).trans (ih _)
  exact fun x => ⟨(), _, rfl, hall x.s⟩

theorem evalAddr_sample (ix sz : Nat) (write : Bool) (p : Spec) : RunStays n.val (evalAddr (.sc n) ix sz write p) := by
  have hcause (α : Type) (a : α) : RunStays n.val (andThen (upd (recordCause n.val 6)) fun _ => ret a) :=
    .andThen (.upd fun s => recordCause_stays n.val 6 s) fun _ => .ret n.val a
  refine .andThen (.look n.val _) fun r => ?_
  cases p with
  | disp m d => exact .andThen (coreRead_sample n _ 4 ix) fun v => .ret n.val _
  | postInc m => exact .andThen (coreRead_sample n _ 4 ix) fun v => .andThen (coreProbe_sample n _ 4 ix) fun _ => .ret n.val _
  | preDec m => exact .andThen (coreRead_sample n _ 4 ix) fun v => .andThen (coreProbe_sample n _ 4 ix) fun _ => .ret n.val _
  | tap line t =>
    refine .andThen (.look n.val _) fun a => ?_
    cases a with
    | none => exact hcause _ _
    | some ad => exact .ret n.val _
  | coef f =>
    dsimp only
    split
    · exact .ret n.val _
    · exact hcause _ _
  | pageDirect f => exact .ret n.val _
  | stack f => exact .ret n.val _
  | imm v => exact .ret n.val _
  | none => exact .ret n.val _

theorem addrOperand_sample (ix sz : Nat) (p : Spec) : RunStays n.val (addrOperand (.sc n) ix sz p) :=
  .andThen (evalAddr_sample n ix sz false p) fun _ => .ret n.val _

theorem readOperand_sample (ix sz : Nat) (p : Spec) : RunStays n.val (readOperand (.sc n) ix sz p) := by
  have haddr : RunStays n.val (andThen (evalAddr (.sc n) ix sz false p) fun a =>
      match a.1 with
      | some ad => andThen (coreRead (.sc n) ad sz ix) fun v => ret (Opd.mk (some ad) v a.2 ix)
      | none => ret ⟨none, 0, a.2, ix⟩) := by
    refine .andThen (evalAddr_sample n ix sz false p) fun a => ?_
    split
    · exact .andThen (coreRead_sample n _ sz ix) fun v => .ret n.val _
    · exact .ret n.val _
  cases p with
  | imm v => exact .ret n.val _
  | _ => exact haddr

/-! ### Operands, elements and end -/

theorem runPlain_ok {α : Type} {p : Run α} {d a : α} {s : State} {x : RunSt} (h : p ⟨s, [], [], none⟩ = .ok a x) :
    runPlain p d s = (a, x.s) := by
  rw [runPlain, h]

/-- The operands of a sample core's block operation: they load the count that the encoding gives, and take no slot. -/
theorem blockLoad_sample {op : AOp} {e : Enc} {cc : Nat} (hop : isBlockOp op = true) (hsh : e.shape ≠ 5) (s : State) :
    ∃ t, (runPlain (blockLoad (.sc n) ⟨op, e, cc⟩) () s).2 = t ∧ (t.sc n.val).slot = (s.sc n.val).slot ∧
      (t.sc n.val).dom = (s.sc n.val).dom ∧ (t.sc n.val).r.bcnt = BitVec.ofNat 32 e.imm := by
  have h1 : RunStays n.val (if op = .bcrc then readOperand (.sc n) 1 (szBytes e.sz) e.a else addrOperand (.sc n) 1 (szBytes e.sz) e.a) := by
    split
    · exact readOperand_sample n _ _ _
    · exact addrOperand_sample n _ _ _
  have h2 : RunStays n.val (if op = .bfil ∨ op = .bscn then readOperand (.sc n) 2 (szBytes e.sz) e.b
      else addrOperand (.sc n) 2 (szBytes e.sz) e.b) := by
    split
    · exact readOperand_sample n _ _ _
    · exact addrOperand_sample n _ _ _
  obtain ⟨a, x, ha, hx⟩ := h1 ⟨s, [], [], none⟩
  obtain ⟨b, y, hb, hy⟩ := h2 x
  rw [ite_apply] at ha hb
  have hload := blockLoad_ok (cc := cc) hop ha hb (if_neg hsh ▸ ⟨rfl, rfl⟩ : if e.shape = 5 then
    readOperand (.sc n) 3 4 e.c y = .ok (Opd.lit 3 e.imm) y else Opd.lit 3 e.imm = Opd.lit 3 e.imm ∧ y = y)
  obtain ⟨hslot, hdom, -⟩ := hx.trans hy
  refine ⟨_, congrArg Prod.snd (runPlain_ok hload), ?_, ?_, ?_⟩ <;> simp only [ranOn, setRegs, sc_modSc]
  · exact hslot
  · exact hdom
  · rfl

/-- A piece that takes `k` slots, and where `counts` holds counts BCNT down and does not end the operation. -/
def RunEnds (n k : Nat) (counts : Prop) (p : Run Bool) : Prop :=
  ∀ x, ∃ b y, p x = .ok b y ∧ (y.s.sc n).slot = (x.s.sc n).slot + k ∧ (y.s.sc n).dom = (x.s.sc n).dom ∧
    (counts → b = false ∧ (y.s.sc n).r.bcnt = (x.s.sc n).r.bcnt - 1#32)

theorem RunEnds.after {α : Type} {n k : Nat} {counts : Prop} {p : Run α} {f : α → Run Bool} (hp : RunStays n p)
    (hf : ∀ a, RunEnds n k counts (f a)) : RunEnds n k counts (Machine.andThen p f) := by
  intro x
  obtain ⟨a, y, h, h1, h2, h3⟩ := hp x
  obtain ⟨b, z, hz, hslot, hdom, hcnt⟩ := hf a y
  exact ⟨b, z, (andThen_ok f h).trans hz, by rw [hslot, h1], hdom.trans h2, by rw [← h3]; exact hcnt⟩

theorem RunEnds.slots {n : Fin 16} {k : Nat} {counts : Prop} (j : Nat) {p : Run Bool} (hp : RunEnds n.val k counts p) :
    RunEnds n.val (j + k) counts (Machine.andThen (passSlots (.sc n) j) fun _ => p) := by
  intro x
  obtain ⟨b, z, hz, hslot, hdom, hcnt⟩ := hp { x with s := x.s.modSc n.val fun c => { c with slot := c.slot + j } }
  simp only [sc_modSc] at hslot hdom hcnt
  exact ⟨b, z, hz, by rw [hslot, Nat.add_assoc], hdom, hcnt⟩

theorem RunEnds.registers {n : Fin 16} {counts : Prop} {f : CoreRegs → CoreRegs} {b : Bool}
    (h : counts → b = false ∧ ∀ r, (f r).bcnt = r.bcnt - 1#32) :
    RunEnds n.val 0 counts (Machine.andThen (updRegs (.sc n) f) fun _ => Machine.ret b) := by
  refine fun x => ⟨b, ranOn (.sc n) f x, rfl, ?_⟩
  unfold ranOn setRegs
  rw [sc_modSc]
  exact ⟨rfl, rfl, fun hc => ⟨(h hc).1, (h hc).2 _⟩⟩

theorem blockElem_takes {op : AOp} (hop : isBlockOp op = true) (sz : Nat) :
    RunEnds n.val (elemCost op sz) (op ≠ .bcmp ∧ op ≠ .bscn) (blockElem (.sc n) op sz) := by
  refine .after (.look n.val _) fun r => ?_
  have hcount {op : AOp} {f : CoreRegs → CoreRegs} (hf : ∀ r, (f r).bcnt = r.bcnt - 1#32) :
      RunEnds n.val 0 (op ≠ .bcmp ∧ op ≠ .bscn) (Machine.andThen (updRegs (.sc n) f) fun _ => ret false) :=
    .registers fun _ => ⟨rfl, hf⟩
  cases op
  case bmov =>
    exact .after (coreProbe_sample n _ _ _) fun _ => .after (coreRead_sample n _ _ _) fun v => .slots 1 <|
      .after (writeAll_sample n _) fun _ => .slots 1 <| hcount fun _ => rfl
  case bfil =>
    exact .after (coreProbe_sample n _ _ _) fun _ => .after (writeAll_sample n _) fun _ => .slots 1 <| hcount fun _ => rfl
  case bcmp =>
    refine .after (coreRead_sample n _ _ _) fun u => .slots (k := 1) 1 <|
      .after (coreRead_sample n _ _ _) fun v => .slots (k := 0) 1 ?_
    split
    · exact hcount fun _ => rfl
    · exact .registers fun h => absurd rfl h.1
  case bscn =>
    refine .after (coreRead_sample n _ _ _) fun v => .slots (k := 0) 1 ?_
    split
    · exact .registers fun h => absurd rfl h.2
    · exact hcount fun _ => rfl
  case bcrc =>
    exact .after (coreRead_sample n _ _ _) fun v => .slots sz <| hcount fun _ => rfl
  all_goals cases hop

/-- An element on a sample core takes its slots; one that cannot end the operation counts BCNT down. -/
theorem blockElem_sample {op : AOp} (hop : isBlockOp op = true) (sz : Nat) (s : State) :
    ∃ b t, runPlain (blockElem (.sc n) op sz) true s = (b, t) ∧ (t.sc n.val).slot = (s.sc n.val).slot + elemCost op sz ∧
      (t.sc n.val).dom = (s.sc n.val).dom ∧
      (op ≠ .bcmp → op ≠ .bscn → b = false ∧ (t.sc n.val).r.bcnt = (s.sc n.val).r.bcnt - 1#32) := by
  obtain ⟨b, y, h, hslot, hdom, hcnt⟩ := blockElem_takes n hop sz ⟨s, [], [], none⟩
  exact ⟨b, y.s, runPlain_ok h, hslot, hdom, fun h1 h2 => hcnt ⟨h1, h2⟩⟩

/-- The elements of a block operation whose slots fit: all of them, or fewer. -/
theorem scElems_fits {op : AOp} (hop : isBlockOp op = true) (sz k : Nat) (s : State)
    (hfit : (s.sc n.val).slot + k * elemCost op sz ≤ slotLimit (s.sc n.val)) :
    (scElems n op sz k s).1 ≠ 2 ∧ ((scElems n op sz k s).2.sc n.val).dom = (s.sc n.val).dom ∧
      (op ≠ .bcmp → op ≠ .bscn → ((scElems n op sz k s).2.sc n.val).r.bcnt = (s.sc n.val).r.bcnt - BitVec.ofNat 32 k) := by
  induction k generalizing s with
  | zero => exact ⟨Nat.zero_ne_add_one 1, rfl, fun _ _ => (BitVec.sub_zero _).symm⟩
  | succ k ih =>
    obtain ⟨b, t, hrun, hslot, hdom, hcnt⟩ := blockElem_sample n hop sz s
    rw [Nat.succ_mul] at hfit
    have hlim : slotLimit (t.sc n.val) = slotLimit (s.sc n.val) := by rw [slotLimit, hdom, slotLimit]
    have hnext := ih t (by rw [hslot, hlim]; omega)
    have hf : scFits s n.val (elemCost op sz) = true := decide_eq_true (by omega)
    rw [scElems, if_pos hf, hrun]
    dsimp only
    cases b with
    | true =>
      refine ⟨(by decide : 1 ≠ 2), hdom, fun h1 h2 => ?_⟩
      exact absurd (hcnt h1 h2).1 (by decide)
    | false =>
      obtain ⟨hne, hd, hc⟩ := hnext
      refine ⟨hne, hd.trans hdom, fun h1 h2 => ?_⟩
      simp only [Bool.false_eq_true, if_false]
      rw [hc h1 h2, (hcnt h1 h2).2]
      apply BitVec.eq_of_toNat_eq
      simp only [BitVec.toNat_sub, BitVec.toNat_ofNat]
      omega

theorem slotCost_block {op : AOp} {e : Enc} {cc : Nat} (hop : isBlockOp op = true) :
    slotCost ⟨op, e, cc⟩ = 2 + e.imm * elemCost op (szBytes e.sz) := by
  cases op
  case bmov => rfl
  case bfil => rfl
  case bcmp => rfl
  case bscn => rfl
  case bcrc => rfl
  all_goals cases hop

/-- A block operation on a sample core whose slots fit: its whole cost, the next instruction, and BA 0. -/
theorem scBlock_fits {op : AOp} {e : Enc} {nx : Word} (hop : isBlockOp op = true) (hsh : e.shape ≠ 5) (s : State)
    (hfit : (s.sc n.val).slot + slotCost ⟨op, e, 0⟩ ≤ slotLimit (s.sc n.val)) :
    ((scBlock n ⟨op, e, 0⟩ nx s).sc n.val).slot = (s.sc n.val).slot + slotCost ⟨op, e, 0⟩ ∧
    ((scBlock n ⟨op, e, 0⟩ nx s).sc n.val).r.pc = nx ∧ ((scBlock n ⟨op, e, 0⟩ nx s).sc n.val).r.psw.getLsbD 28 = false ∧
    (op ≠ .bcmp → op ≠ .bscn → ((scBlock n ⟨op, e, 0⟩ nx s).sc n.val).r.bcnt = 0#32) := by
  have hcost : slotCost ⟨op, e, 0⟩ = 2 + e.imm * elemCost op (szBytes e.sz) := slotCost_block hop
  rw [hcost] at hfit
  have h2 : scFits s n.val 2 = true := decide_eq_true (by omega)
  obtain ⟨t, ht, hslot, hdom, hcnt⟩ := blockLoad_sample n (cc := 0) hop hsh s
  have hlim : slotLimit (t.sc n.val) = slotLimit (s.sc n.val) := by rw [slotLimit, hdom, slotLimit]
  have hspent : (scSpend n.val 2 t).sc n.val = { t.sc n.val with slot := (s.sc n.val).slot + 2 } := by
    rw [scSpend, sc_modSc, hlim, hslot, Nat.min_eq_right (by omega)]
  obtain ⟨hne, hd, hc⟩ := scElems_fits n hop (szBytes e.sz) e.imm (scSpend n.val 2 t) (by
    rw [hspent]
    show (s.sc n.val).slot + 2 + _ ≤ slotLimit (t.sc n.val)
    omega)
  generalize hx : scElems n op (szBytes e.sz) e.imm (scSpend n.val 2 t) = x at hne hd hc
  rw [hspent] at hd hc
  have hlim' : slotLimit (x.2.sc n.val) = slotLimit (s.sc n.val) := by rw [slotLimit, hd, hdom, slotLimit]
  have hblock : scBlock n ⟨op, e, 0⟩ nx s = (setRegs (.sc n) (endedRegs op (x.1 == 1) nx (regsOf (.sc n) x.2)) x.2).modSc n.val
      fun c => { c with slot := min (slotLimit c) ((s.sc n.val).slot + slotCost ⟨op, e, 0⟩) } := by
    rw [scBlock]
    dsimp only
    rw [if_pos h2, ht, hx, if_neg hne, blockEnd_run]
  have hcore : (scBlock n ⟨op, e, 0⟩ nx s).sc n.val = { x.2.sc n.val with
      slot := (s.sc n.val).slot + slotCost ⟨op, e, 0⟩, r := endedRegs op (x.1 == 1) nx (x.2.sc n.val).r } := by
    rw [hblock, sc_modSc, setRegs, sc_modSc, hcost]
    show SampleCore.mk .. = _
    rw [show slotLimit { x.2.sc n.val with r := endedRegs op (x.1 == 1) nx (regsOf (.sc n) x.2) } = slotLimit (s.sc n.val) from hlim',
      Nat.min_eq_right hfit]
    rfl
  rw [hcore]
  refine ⟨rfl, rfl, ?_, fun h1 h3 => ?_⟩
  · exact (getLsbD_wsetBit _ 28 28 false (by decide)).trans (if_pos rfl)
  · show (x.2.sc n.val).r.bcnt = 0#32
    rw [hc h1 h3]
    show (t.sc n.val).r.bcnt - _ = _
    rw [hcnt, BitVec.sub_self]

end Sys2Proof.Machine
end

section
/-! What O33 says of the block operations. -/

namespace Sys2Proof.Machine
open Sys2Proof

theorem elemsOver_eq (c : CoreId) (op : AOp) (nx : Word) (t : State) : elemsOver c op nx t =
    if (regsOf c t).bcnt = 0#32 then setRegs c (endedRegs op false nx (regsOf c t)) t else t := rfl

/-- N, Z, C and V of another word, the mask written out. -/
theorem takeNzcv_eq (psw v : Word) : takeNzcv psw v = (psw &&& 0xFFFFFFF0#32) ||| (v &&& 0xF#32) := by
  rw [takeNzcv, show ~~~0xF#32 = 0xFFFFFFF0#32 by decide]

theorem blockOut_bcmp (psw : Word) : blockOut .bcmp psw = (psw &&& 0xFFFFFFF0#32) ||| 4#32 := by
  rw [blockOut, show ~~~0xF#32 = 0xFFFFFFF0#32 by decide]

theorem endedRegs_early (op : AOp) (nx : Word) (r : CoreRegs) :
    endedRegs op true nx r = { r with pc := nx, psw := wsetBit r.psw 28 false } := rfl

theorem endedRegs_over (op : AOp) (nx : Word) (r : CoreRegs) :
    endedRegs op false nx r = { r with pc := nx, psw := wsetBit (blockOut op r.psw) 28 false } := rfl

/-- An operation with a direction of its own is BMOV alone. -/
theorem bstepOf_dir (op : AOp) (e : Enc) (down : Bool) : (bstepOf op (szBytes e.sz) down).getLsbD 8 = down := by
  cases op <;> cases e.sz <;> cases down <;> decide

section
variable {c : CoreId} {op : AOp} {e : Enc} {s : State} (hop : isBlockOp op = true) (hs : isSample c = false)
  (hready : coreReady c ⟨op, e, 0⟩ s = true)
include hop hs hready

/-- Where a block operation begins on a control-class core. -/
def blockBegin (c : CoreId) (i : AInstr) (s : State) : State := setRegs c (noPrefix (regsOf c s)) (coreBegin c i s).s

/-- Where a resumed one begins: BSTEP is derived again. -/
def blockResume (c : CoreId) (i : AInstr) (s : State) : State :=
  setRegs c { regsOf c (blockBegin c i s) with
    bstep := bstepOf i.op (szBytes i.e.sz) (resumesDown i.op (szBytes i.e.sz) (regsOf c (blockBegin c i s))) } (blockBegin c i s)

theorem exec_block_loads {a b d : Opd} {x y z : RunSt} (hba : (regsOf c s).psw.getLsbD 28 = false)
    (ha : (if op = .bcrc then readOperand c 1 (szBytes e.sz) e.a ⟨blockBegin c ⟨op, e, 0⟩ s, (coreBegin c ⟨op, e, 0⟩ s).todo, [], none⟩
      else addrOperand c 1 (szBytes e.sz) e.a ⟨blockBegin c ⟨op, e, 0⟩ s, (coreBegin c ⟨op, e, 0⟩ s).todo, [], none⟩) = .ok a x)
    (hb : (if op = .bfil ∨ op = .bscn then readOperand c 2 (szBytes e.sz) e.b x else addrOperand c 2 (szBytes e.sz) e.b x) = .ok b y)
    (hd : if e.shape = 5 then readOperand c 3 4 e.c y = .ok d z else d = Opd.lit 3 e.imm ∧ z = y) (hecc : z.ecc = none) :
    exec (atward c op e 0 0) s = .next (elemsOver c op (nextPc ⟨op, e, 0⟩ (regsOf c s).pc)
      (setRets c [] (setRegs c (blockRegs c op (szBytes e.sz) a b d.val (regsOf c z.s)) z.s))) := by
  have hload := blockLoad_ok (cc := 0) hop ha hb hd
  rw [← retsOf_begun hs (noPrefix (regsOf c s))] at hload
  rw [exec_block 0 hop hs hready]
  have hba' : (regsOf c (setRegs c (noPrefix (regsOf c s)) (coreBegin c ⟨op, e, 0⟩ s).s)).psw.getLsbD 28 = false := by
    rw [regsOf_setRegs]
    exact hba
  rw [ctlBlock_loaded hba' hload hecc]
  rfl

theorem exec_block_resumes (hba : (regsOf c s).psw.getLsbD 28 = true) :
    exec (atward c op e 0 1) s = .next (ctlElems c op (szBytes e.sz) (regsOf c s).pc (nextPc ⟨op, e, 0⟩ (regsOf c s).pc) 1
      (blockResume c ⟨op, e, 0⟩ s)) := by
  have hba' : (regsOf c (setRegs c (noPrefix (regsOf c s)) (coreBegin c ⟨op, e, 0⟩ s).s)).psw.getLsbD 28 = true := by
    rw [regsOf_setRegs]
    exact hba
  rw [exec_block 1 hop hs hready, ctlBlock_resumes hba']
  rfl

omit hop hready in
theorem retsOf_blockResume : retsOf c (blockResume c ⟨op, e, 0⟩ s) = (coreBegin c ⟨op, e, 0⟩ s).todo := by
  rw [blockResume, retsOf_setRegs hs, blockBegin, retsOf_begun hs]

theorem exec_block_goesOn {x : RunSt} (hba : (regsOf c s).psw.getLsbD 28 = true)
    (hcnt : (regsOf c (blockResume c ⟨op, e, 0⟩ s)).bcnt ≠ 0#32)
    (he : blockElem c op (szBytes e.sz) ⟨blockResume c ⟨op, e, 0⟩ s, (coreBegin c ⟨op, e, 0⟩ s).todo, [], none⟩ = .ok false x)
    (hecc : x.ecc = none) :
    exec (atward c op e 0 1) s = .next (elemsOver c op (nextPc ⟨op, e, 0⟩ (regsOf c s).pc) (setRets c [] x.s)) := by
  rw [← retsOf_blockResume hs] at he
  rw [exec_block_resumes hop hs hready hba, ctlElems_goesOn hcnt he hecc]

theorem exec_block_stops {f : Word → Word} {w : RunSt} (hba : (regsOf c s).psw.getLsbD 28 = true)
    (hcnt : (regsOf c (blockResume c ⟨op, e, 0⟩ s)).bcnt ≠ 0#32)
    (he : blockElem c op (szBytes e.sz) ⟨blockResume c ⟨op, e, 0⟩ s, (coreBegin c ⟨op, e, 0⟩ s).todo, [], none⟩
      = .ok true (ranOn c (fun r => { r with psw := f r.psw }) w))
    (hecc : w.ecc = none) :
    exec (atward c op e 0 1) s = .next (
      let t := setRets c [] (setRegs c { regsOf c w.s with psw := f (regsOf c w.s).psw } w.s)
      setRegs c { regsOf c t with pc := nextPc ⟨op, e, 0⟩ (regsOf c s).pc, psw := wsetBit (regsOf c t).psw 28 false } t) := by
  rw [← retsOf_blockResume hs] at he
  have h := ctlElems_stops (pc := (regsOf c s).pc) (nx := nextPc ⟨op, e, 0⟩ (regsOf c s).pc) hcnt he hecc
  rw [endedRegs_early] at h
  rw [exec_block_resumes hop hs hready hba]
  exact congrArg _ h
end

theorem isBlockOp_of_mem {op : AOp} (h : op ∈ [AOp.bmov, .bfil, .bcmp, .bscn, .bcrc]) : isBlockOp op = true := by
  simp only [List.mem_cons, List.not_mem_nil, or_false] at h
  rcases h with rfl | rfl | rfl | rfl | rfl <;> rfl

section
variable {n : Fin 16} {op : AOp} {e : Enc} {s : State}

theorem sampleFits {i : AInstr} (h : coreReady (.sc n) i s = true) : (s.sc n.val).slot + slotCost i ≤ slotLimit (s.sc n.val) := by
  simp only [coreReady, Bool.and_eq_true] at h
  exact of_decide_eq_true h.2.2

/-- A block operation of a sample core has its count in its encoding. -/
theorem sampleShape_block (hop : isBlockOp op = true) (h : coreReady (.sc n) ⟨op, e, 0⟩ s = true) : e.shape ≠ 5 := by
  have hl := opLegal_of_legalAlone (readyAlone_of_coreReady h).legal
  have hblock : (!([e.a, e.b, e.c].any blockSpecBad) && !(e.shape == 5 && isSample (.sc n))) = true := by
    cases op
    case bmov => exact hl
    case bfil => exact hl
    case bcmp => exact hl
    case bscn => exact hl
    case bcrc => exact hl
    all_goals cases hop
  simpa [isSample, coreClass] using (Bool.and_eq_true_iff.mp hblock).2

theorem sampleRun_block (hop : isBlockOp op = true) {k : Nat} (h : coreReady (.sc n) ⟨op, e, 0⟩ s = true) :
    exec (atward (.sc n) op e 0 k) s
      = .next (scBlock n ⟨op, e, 0⟩ (nextPc ⟨op, e, 0⟩ (s.sc n.val).r.pc) (coreBegin (.sc n) ⟨op, e, 0⟩ s).s) := by
  have hr := readyAlone_of_coreReady h
  have hrpt : (s.sc n.val).r.rpt = none := hr.rpt
  have hready := h
  simp only [coreReady, Bool.and_eq_true, Bool.or_eq_true, Bool.not_eq_true'] at hready
  obtain ⟨⟨-, hskp⟩, ⟨hact, hfet⟩, -⟩ := hready
  have hbad : ((s.sc n.val).r.skp.isSome && badAfterSkp op) = false := by
    rcases hskp with hnone | ⟨-, hb⟩
    · rw [← Option.not_isNone, show (s.sc n.val).r.skp.isNone = true from hnone]
      rfl
    · rw [show badAfterSkp op = false from hb, Bool.and_false]
  have hrun := scRun_legal (i := ⟨op, e, 0⟩) hact hfet hr.legal (by rw [hrpt]; rfl) hbad
  rw [exec_atward_eq, atwardCc_zero]
  show Host.Outcome.next (scRun n ⟨op, e, 0⟩ s) = _
  rw [hrun, if_neg (show ¬ ((s.sc n.val).r.skp.map (·.2)) = some false from hr.skp), if_pos hop]
end

/-- Settles O33: the operands, one element of each operation, its end, and the whole on a sample core. -/
theorem blockOperations : Obligations.BlockOperations := by
  unfold Obligations.BlockOperations
  intro ofOp code step flagsOut ended blocks
  have hended : ∀ (op : AOp) (nx : Word) (r : CoreRegs), op ∈ blocks → r.bcnt = 0#32 → endedRegs op false nx r = ended op nx r := by
    intro op nx r hop h0
    have hout : blockOut op r.psw = flagsOut op r.psw := by
      simp only [blocks, List.mem_cons, List.not_mem_nil, or_false] at hop
      rcases hop with rfl | rfl | rfl | rfl | rfl
      case inr.inr.inl => exact blockOut_bcmp r.psw
      all_goals rfl
    rw [endedRegs_over, hout]
    exact (if_pos h0).symm
  have hover : ∀ (c : CoreId) (op : AOp) (nx : Word) (t : State), op ∈ blocks → elemsOver c op nx t =
      if (regsOf c t).bcnt = 0#32 then setRegs c (ended op nx (regsOf c t)) t else t := by
    intro c op nx t hop
    rw [elemsOver_eq]
    split
    · rw [hended op nx _ hop ‹_›]
    · rfl
  refine ⟨?load, ?resume, ?sample⟩
  case load =>
    intro op hop c e s a b d x y z i sz x0 ea n down off r hs hready hba ha hb hd hecc
    have h := exec_block_loads (isBlockOp_of_mem hop) hs hready hba ha hb hd hecc
    rw [hover _ _ _ _ hop] at h
    simp only [blockRegs, hs, Bool.false_eq_true, if_false] at h
    simp only [blocks, List.mem_cons, List.not_mem_nil, or_false] at hop
    rcases hop with rfl | rfl | rfl | rfl | rfl <;> exact h
  case resume =>
    intro op hop c e s u v x y z w i sz nx t0 r0 down x0 r go stop both hs hready hba hcnt
    have hblock := isBlockOp_of_mem hop
    have hdown : resumesDown op sz r0 = down := by
      simp only [blocks, List.mem_cons, List.not_mem_nil, or_false] at hop
      rcases hop with rfl | rfl | rfl | rfl | rfl <;> rfl
    have hstep : bstepOf op sz down = BitVec.ofNat 32 (sz + 256 * b2n down + 4096 * code op) := by
      simp only [blocks, List.mem_cons, List.not_mem_nil, or_false] at hop
      rcases hop with rfl | rfl | rfl | rfl | rfl <;> rfl
    have hx0 : x0 = ⟨blockResume c ⟨op, e, 0⟩ s, (coreBegin c ⟨op, e, 0⟩ s).todo, [], none⟩ := by
      have hb : bstepOf op sz (resumesDown op sz r0) = BitVec.ofNat 32 (sz + 256 * b2n down + 4096 * code op) := by rw [hdown, hstep]
      show RunSt.mk (setRegs c { r0 with bstep := BitVec.ofNat 32 (sz + 256 * b2n down + 4096 * code op) } t0) _ _ _ = _
      rw [← hb]
      rfl
    have hr : regsOf c (blockResume c ⟨op, e, 0⟩ s) = r := congrArg (fun x => regsOf c x.s) hx0.symm
    have hdir : r.bstep.getLsbD 8 = down := by
      have hb : r.bstep = bstepOf op sz down := by
        rw [hstep]
        exact congrArg CoreRegs.bstep (regsOf_setRegs c _ t0)
      rw [hb]
      exact bstepOf_dir op e down
    have hgoes : ∀ (f : CoreRegs → CoreRegs) (w : RunSt), blockElem c op sz x0 = .ok false (ranOn c f w) → w.ecc = none →
        exec (ofOp op c e 1) s = go f w := by
      intro f w he hecc
      rw [hx0] at he
      have h := exec_block_goesOn hblock hs hready hba (by rw [hr]; exact hcnt) he hecc
      rw [hover _ _ _ _ hop] at h
      exact h
    have hstops : ∀ (f : Word → Word) (w : RunSt), blockElem c op sz x0 = .ok true (ranOn c (fun r => { r with psw := f r.psw }) w) →
        w.ecc = none → exec (ofOp op c e 1) s = stop f w := by
      intro f w he hecc
      rw [hx0] at he
      have h := exec_block_stops hblock hs hready hba (by rw [hr]; exact hcnt) he hecc
      exact h
    refine ⟨?bmov, ?bfil, ?bcmp, ?bscn, ?bcrc⟩
    case bmov =>
      rintro rfl hp hrd hw
      have hf : elemRegs .bmov sz down v = fun r => { r with bsrc := step down sz r.bsrc, bdst := step down sz r.bdst, bcnt := r.bcnt - 1#32 } := rfl
      have he := blockElem_bmov hs hp hrd hw
      rw [hdir, hf] at he
      have h := hgoes _ w he (writeAll_ecc c _ y w hs hw)
      exact h
    case bfil =>
      rintro rfl hp hw
      have hf : elemRegs .bfil sz down 0 = fun r => { r with bdst := step down sz r.bdst, bcnt := r.bcnt - 1#32 } := rfl
      have he := blockElem_bfil (v := 0) hs hp hw
      rw [hdir, hf] at he
      have hecc := writeAll_ecc c _ y w hs hw
      have h := hgoes _ w he hecc
      exact h
    case bcmp =>
      rintro rfl hu hv hecc
      have hf : elemRegs .bcmp sz down v = fun r => { r with bsrc := step down sz r.bsrc, bdst := step down sz r.bdst, bcnt := r.bcnt - 1#32 } := rfl
      have he := blockElem_bcmp hs hu hv
      rw [hdir, hf] at he
      refine ⟨fun huv => ?_, fun huv => ?_⟩
      · rw [if_pos huv] at he
        have h := hgoes _ z he hecc
        exact h
      · rw [if_neg huv] at he
        simp only [takeNzcv_eq] at he
        have h := hstops (fun p => (p &&& 0xFFFFFFF0#32) ||| ((aluSub (8 * sz) u v p).2 &&& 0xF#32)) z he hecc
        exact h
    case bscn =>
      rintro rfl hv hecc
      have hf : elemRegs .bscn sz down v = fun r => { r with bsrc := step down sz r.bsrc, bcnt := r.bcnt - 1#32 } := rfl
      have he := blockElem_bscn hs hv
      rw [hdir, hf] at he
      refine ⟨fun hm => ?_, fun hm => ?_⟩
      · rw [if_pos hm] at he
        have h := hstops (fun p => wsetBit p 2 true) x he hecc
        exact h
      · rw [if_neg hm] at he
        have h := hgoes _ x he hecc
        exact h
    case bcrc =>
      rintro rfl hv hecc
      have hf : elemRegs .bcrc sz down v = fun r => { r with
        acc := accSet r.acc 0 32 (BitVec.ofNat 32 ((leBytes sz v).foldl (fun k b => crcByte k b.toNat) (r.acc.toNat % 2 ^ 32)))
        bsrc := step down sz r.bsrc
        bcnt := r.bcnt - 1#32 } := rfl
      have he := blockElem_bcrc hs hv
      rw [hdir, hf] at he
      have h := hgoes _ x he hecc
      exact h
  case sample =>
    intro op hop n e k s i hready
    have hblock := isBlockOp_of_mem hop
    have hrun := sampleRun_block (k := k) hblock hready
    have hstay : ScStays n.val s (scMet n.val (eccHit s (regsOf (.sc n) s).pc.toNat (instrLen i)) s) := scMet_stays ..
    obtain ⟨hslot, hdom, -⟩ := hstay
    have hslot' : ((coreBegin (.sc n) i s).s.sc n.val).slot = (s.sc n.val).slot := by
      rw [coreBegin, scRegs, setRegs, sc_modSc]
      exact hslot
    have hdom' : ((coreBegin (.sc n) i s).s.sc n.val).dom = (s.sc n.val).dom := by
      rw [coreBegin, scRegs, setRegs, sc_modSc]
      exact hdom
    have hlim : slotLimit ((coreBegin (.sc n) i s).s.sc n.val) = slotLimit (s.sc n.val) := by rw [slotLimit, hdom', slotLimit]
    obtain ⟨hs, hpc, hba, hcnt⟩ := scBlock_fits n (e := e) (nx := nextPc i (s.sc n.val).r.pc) hblock (sampleShape_block hblock hready)
      (coreBegin (.sc n) i s).s (by
        rw [hslot', hlim]
        exact sampleFits hready)
    rw [hslot', slotCost_block hblock] at hs
    exact ⟨_, hrun, hs, hpc, hba, hcnt⟩

end Sys2Proof.Machine
end

section
/-! How far a channel of the DMA engine has come with a transfer (chapter 18) is read by its own moves alone: whatever a bus write
does is the same with that progress forgotten. -/

namespace Sys2Proof.Machine
open Sys2Proof

/-! ### Canonical tables that read alike are equal -/

theorem tget_below {α : Type} [DecidableEq α] {d : Nat → α} {t : Table α} {k : Nat} (h : ∀ y ∈ t, k < y.1) : tget (d k) t k = d k := by
  induction t with
  | nil => rfl
  | cons y t ih =>
    obtain ⟨j, v⟩ := y
    have hj : k < j := h (j, v) (List.mem_cons_self ..)
    rw [tget, if_neg (Nat.ne_of_lt hj)]
    exact ih fun y hy => h y (List.mem_cons_of_mem _ hy)

theorem twf_ext {α : Type} [DecidableEq α] {d : Nat → α} {t u : Table α} (ht : twf d t = true) (hu : twf d u = true)
    (h : ∀ k, tget (d k) t k = tget (d k) u k) : t = u := by
  induction t generalizing u with
  | nil =>
    cases u with
    | nil => rfl
    | cons y u =>
      obtain ⟨hv, -, -⟩ := (twf_cons d y u).mp hu
      have hy := h y.1
      rw [show tget (d y.1) (y :: u) y.1 = y.2 from if_pos rfl] at hy
      exact absurd hy.symm hv
  | cons x t ih =>
    obtain ⟨hxv, hxlt, hxt⟩ := (twf_cons d x t).mp ht
    have hx := h x.1
    rw [show tget (d x.1) (x :: t) x.1 = x.2 from if_pos rfl] at hx
    cases u with
    | nil => exact absurd hx hxv
    | cons y u =>
      obtain ⟨hyv, hylt, hyu⟩ := (twf_cons d y u).mp hu
      have hy := h y.1
      rw [show tget (d y.1) (y :: u) y.1 = y.2 from if_pos rfl] at hy
      have hkey : x.1 = y.1 := by
        rcases Nat.lt_trichotomy x.1 y.1 with hlt | heq | hgt
        · rw [tget_below (t := y :: u) fun z hz => (List.mem_cons.mp hz).elim (fun e => e ▸ hlt) fun hz => Nat.lt_trans hlt (hylt z hz)] at hx
          exact absurd hx hxv
        · exact heq
        · rw [tget_below (t := x :: t) fun z hz => (List.mem_cons.mp hz).elim (fun e => e ▸ hgt) fun hz => Nat.lt_trans hgt (hxlt z hz)] at hy
          exact absurd hy.symm hyv
      have hval : x.2 = y.2 := by
        rw [hx, hkey]
        exact if_pos rfl
      obtain ⟨j, v⟩ := x
      obtain ⟨j', v'⟩ := y
      obtain rfl : j = j' := hkey
      obtain rfl : v = v' := hval
      refine congrArg _ (ih hxt hyu fun k => ?_)
      by_cases hk : k = j
      · subst hk
        rw [tget_below hxlt, tget_below hylt]
      · have hjk := h k
        rwa [tget, tget, if_neg hk, if_neg hk] at hjk

/-! ### Progress forgotten -/

/-- A channel as if it had moved nothing yet. -/
def DmaCh.rewound (x : DmaCh) : DmaCh := { x with lines := 0, xfer := 0 }

section
variable (x : DmaCh)
@[simp] theorem DmaCh.rewound_cur : x.rewound.cur = x.cur := rfl
@[simp] theorem DmaCh.rewound_regMode : x.rewound.regMode = x.regMode := rfl
@[simp] theorem DmaCh.rewound_outstanding : x.rewound.outstanding = x.outstanding := rfl
@[simp] theorem DmaCh.rewound_heldEnable : x.rewound.heldEnable = x.heldEnable := rfl
@[simp] theorem DmaCh.rewound_cause : x.rewound.cause = x.cause := rfl
@[simp] theorem DmaCh.rewound_late : x.rewound.late = x.late := rfl
end

/-- Every channel so, in a canonical table. -/
def Dma.rewound (d : Dma) : Dma := ⟨d.ch.foldr (fun y t => tset DmaCh.idle t y.1 y.2.rewound) []⟩

theorem Dma.rewound_wf (d : Dma) : twf (fun _ => DmaCh.idle) d.rewound.ch = true := by
  unfold Dma.rewound
  induction d.ch with
  | nil => rfl
  | cons y t ih => exact twf_tset (fun _ => DmaCh.idle) _ y.1 _ ih

theorem Dma.rewound_get (d : Dma) (k : Nat) : tget DmaCh.idle d.rewound.ch k = (tget DmaCh.idle d.ch k).rewound := by
  unfold Dma.rewound
  induction d.ch with
  | nil => rfl
  | cons y t ih =>
    rw [List.foldr_cons, tget_tset, tget]
    split
    · rfl
    · exact ih

theorem Dma.rewound_set (d : Dma) (k : Nat) (x : DmaCh) : (Dma.mk (tset DmaCh.idle d.ch k x)).rewound =
    ⟨tset DmaCh.idle d.rewound.ch k x.rewound⟩ := by
  have h := twf_ext (Dma.rewound_wf ⟨tset DmaCh.idle d.ch k x⟩) (twf_tset (fun _ => DmaCh.idle) _ k x.rewound d.rewound_wf) fun j => by
    rw [Dma.rewound_get, tget_tset, tget_tset, Dma.rewound_get]
    split <;> rfl
  exact congrArg Dma.mk h

/-- The part as if no channel had moved anything of what it does. -/
def State.rewound (s : State) : State := { s with dma := s.dma.rewound }

section
variable (s : State)
@[simp] theorem State.regs_rewound : s.rewound.regs = s.regs := rfl
@[simp] theorem State.wbPend_rewound : s.rewound.wbPend = s.wbPend := rfl
@[simp] theorem State.sqs_rewound : s.rewound.sqs = s.sqs := rfl
@[simp] theorem State.mem_rewound : s.rewound.mem = s.mem := rfl
@[simp] theorem State.flash_rewound : s.rewound.flash = s.flash := rfl
@[simp] theorem State.ecc_rewound : s.rewound.ecc = s.ecc := rfl
@[simp] theorem State.bus_rewound : s.rewound.bus = s.bus := rfl
@[simp] theorem State.clk_rewound : s.rewound.clk = s.clk := rfl
@[simp] theorem State.mclk_rewound : s.rewound.mclk = s.mclk := rfl
@[simp] theorem State.bridges_rewound : s.rewound.bridges = s.bridges := rfl
@[simp] theorem State.ctl_rewound : s.rewound.ctl = s.ctl := rfl
@[simp] theorem State.eng_rewound : s.rewound.eng = s.eng := rfl
@[simp] theorem State.safe_rewound : s.rewound.safe = s.safe := rfl
@[simp] theorem State.weld_rewound : s.rewound.weld = s.weld := rfl
@[simp] theorem State.qnch_rewound : s.rewound.qnch = s.qnch := rfl
@[simp] theorem State.tone_rewound : s.rewound.tone = s.tone := rfl
@[simp] theorem State.tdm_rewound : s.rewound.tdm = s.tdm := rfl
@[simp] theorem State.net_rewound : s.rewound.net = s.net := rfl
@[simp] theorem State.dict_rewound : s.rewound.dict = s.dict := rfl
@[simp] theorem State.ril_rewound : s.rewound.ril = s.ril := rfl
@[simp] theorem State.dma_rewound : s.rewound.dma = s.dma.rewound := rfl
@[simp] theorem State.sense_rewound : s.rewound.sense = s.sense := rfl
@[simp] theorem State.ports_rewound : s.rewound.ports = s.ports := rfl
@[simp] theorem State.msg_rewound : s.rewound.msg = s.msg := rfl
@[simp] theorem State.evt_rewound : s.rewound.evt = s.evt := rfl
@[simp] theorem State.modes_rewound : s.rewound.modes = s.modes := rfl
@[simp] theorem State.ward_rewound : s.rewound.ward = s.ward := rfl
@[simp] theorem State.power_rewound : s.rewound.power = s.power := rfl
@[simp] theorem State.free_rewound : s.rewound.free = s.free := rfl
@[simp] theorem State.pending_rewound : s.rewound.pending = s.pending := rfl
end

/-- A change of anything but the DMA engine. -/
@[simp] theorem State.mk_rewound (regs wbPend sqs mem flash ecc bus clk mclk bridges ctl eng safe weld qnch tone tdm net dict ril dma sense ports msg evt modes ward power free pending) :
    State.mk regs wbPend sqs mem flash ecc bus clk mclk bridges ctl eng safe weld qnch tone tdm net dict ril dma.rewound sense ports msg evt modes ward power free pending = (State.mk regs wbPend sqs mem flash ecc bus clk mclk bridges ctl eng safe weld qnch tone tdm net dict ril dma sense ports msg evt modes ward power free pending).rewound := rfl

@[simp] theorem State.dch_rewound (s : State) (n : Nat) : s.rewound.dch n = (s.dch n).rewound := s.dma.rewound_get n

theorem State.setDch_rewound (s : State) (n : Nat) (x : DmaCh) : s.rewound.setDch n x.rewound = (s.setDch n x).rewound :=
  congrArg (fun d => { s with dma := d }) (s.dma.rewound_set n x).symm

/-- A change of a channel that does not rest on its progress. -/
theorem State.modDch_rewound (s : State) (n : Nat) {f : DmaCh → DmaCh} (h : ∀ x, f x.rewound = (f x).rewound) :
    s.rewound.modDch n f = (s.modDch n f).rewound := by
  rw [State.modDch, State.dch_rewound, h, State.setDch_rewound]
  rfl

/-- States whose channels differ in their progress alone. -/
theorem State.rewound_modDch (s : State) (n : Nat) {f : DmaCh → DmaCh} (h : (f (s.dch n)).rewound = (s.dch n).rewound) :
    (s.modDch n f).rewound = s.rewound := by
  have hch : (Dma.mk (tset DmaCh.idle s.dma.ch n (f (s.dch n)))).rewound.ch = s.dma.rewound.ch :=
    twf_ext (d := fun _ => DmaCh.idle) (Dma.rewound_wf _) s.dma.rewound_wf fun j => by
      rw [Dma.rewound_get, tget_tset, Dma.rewound_get]
      split
      · next hj =>
        rw [h, hj]
        rfl
      · rfl
  exact congrArg (fun d => { s with dma := ⟨d⟩ }) hch

/-! ### Ends of a case split -/

@[simp] theorem ite_rewound (c : Prop) [Decidable c] (s t : State) : (if c then s.rewound else t.rewound) = (if c then s else t).rewound :=
  (apply_ite State.rewound c s t).symm

/-- An answer and the state with it, progress forgotten. -/
def sndRewound {α : Type} (p : α × State) : α × State := (p.1, p.2.rewound)

section
variable {α : Type} (a : α) (s : State) (p q : α × State)
@[simp] theorem sndRewound_fst : (sndRewound p).1 = p.1 := rfl
@[simp] theorem sndRewound_snd : (sndRewound p).2 = p.2.rewound := rfl
@[simp] theorem mk_sndRewound : (a, s.rewound) = sndRewound (a, s) := rfl
@[simp] theorem ite_sndRewound (c : Prop) [Decidable c] : (if c then sndRewound p else sndRewound q) = sndRewound (if c then p else q) :=
  (apply_ite sndRewound c p q).symm
end

/-- A state and what it answers, progress forgotten. -/
def fstRewound {α : Type} (p : State × α) : State × α := (p.1.rewound, p.2)

section
variable {α : Type} (a : α) (s : State) (p q : State × α)
@[simp] theorem fstRewound_fst : (fstRewound p).1 = p.1.rewound := rfl
@[simp] theorem fstRewound_snd : (fstRewound p).2 = p.2 := rfl
@[simp] theorem mk_fstRewound : (s.rewound, a) = fstRewound (s, a) := rfl
@[simp] theorem ite_fstRewound (c : Prop) [Decidable c] : (if c then fstRewound p else fstRewound q) = fstRewound (if c then p else q) :=
  (apply_ite fstRewound c p q).symm
end

/-- A record made, progress forgotten. -/
def RecOut.rewound (o : RecOut) : RecOut := { o with s := o.s.rewound }

section
variable (s : State) (bits : List Nat) (late : Bool) (o o' : RecOut)
@[simp] theorem RecOut.rewound_s : o.rewound.s = o.s.rewound := rfl
@[simp] theorem RecOut.rewound_bits : o.rewound.bits = o.bits := rfl
@[simp] theorem RecOut.rewound_late : o.rewound.late = o.late := rfl
@[simp] theorem RecOut.mk_rewound : RecOut.mk s.rewound bits late = (RecOut.mk s bits late).rewound := rfl
@[simp] theorem RecOut.ite_rewound (c : Prop) [Decidable c] : (if c then o.rewound else o'.rewound) = (if c then o else o').rewound :=
  (apply_ite RecOut.rewound c o o').symm
end

/-- One after the other, what does not rest on the progress does not rest on it. -/
theorem foldl_rewound {α : Type} {f : State → α → State} (h : ∀ s x, f s.rewound x = (f s x).rewound) (l : List α) (s : State) :
    l.foldl f s.rewound = (l.foldl f s).rewound := by
  induction l generalizing s with
  | nil => rfl
  | cons x l ih => rw [List.foldl_cons, h, ih, List.foldl_cons]

end Sys2Proof.Machine
end

section
/-! What a bus write does, with the progress of the DMA channels forgotten before it or after it: the operations of the model in
the order of its files, each by the ones it is made of. What an operation reads is stated with `(rfl)`, so that `simp` rewrites
with it inside a condition and the condition's decision alike. -/

namespace Sys2Proof.Machine
open Sys2Proof

/-! ### Stores, registers, queues and events (chapters 2 and 21) -/

@[simp] theorem State.mwr_rewound (s : State) (a n v : Nat) : s.rewound.mwr a n v = (s.mwr a n v).rewound := by simp [State.mwr]
@[simp] theorem State.mwrBytes_rewound (s : State) (a : Nat) (bs : List Byte) :
    s.rewound.mwrBytes a bs = (s.mwrBytes a bs).rewound := by simp [State.mwrBytes]
@[simp] theorem State.mclr_rewound (s : State) (lo hi : Nat) : s.rewound.mclr lo hi = (s.mclr lo hi).rewound := by simp [State.mclr]
@[simp] theorem State.rd_rewound (s : State) (a : Nat) : s.rewound.rd a = s.rd a := (rfl)
@[simp] theorem State.wr_rewound (s : State) (a : Nat) (v : Word) : s.rewound.wr a v = (s.wr a v).rewound := by simp [State.wr]
@[simp] theorem State.wrn_rewound (s : State) (a v : Nat) : s.rewound.wrn a v = (s.wrn a v).rewound := by simp [State.wrn]
@[simp] theorem State.rdf_rewound (s : State) (a lo n : Nat) : s.rewound.rdf a lo n = s.rdf a lo n := (rfl)
@[simp] theorem State.bit_rewound (s : State) (a i : Nat) : s.rewound.bit a i = s.bit a i := (rfl)
@[simp] theorem State.wrf_rewound (s : State) (a lo n v : Nat) :
    s.rewound.wrf a lo n v = (s.wrf a lo n v).rewound := by simp [State.wrf]
@[simp] theorem State.wrb_rewound (s : State) (a i : Nat) (b : Bool) :
    s.rewound.wrb a i b = (s.wrb a i b).rewound := by simp [State.wrb]
@[simp] theorem State.inc_rewound (s : State) (a : Nat) : s.rewound.inc a = (s.inc a).rewound := by simp [State.inc]
@[simp] theorem State.incSat_rewound (s : State) (a : Nat) : s.rewound.incSat a = (s.incSat a).rewound := by simp [State.incSat]
@[simp] theorem State.enabled_rewound (s : State) (slot : Nat) : s.rewound.enabled slot = s.enabled slot := (rfl)
@[simp] theorem State.draw_rewound (s : State) : s.rewound.draw = sndRewound (s.draw) := by simp [State.draw]
@[simp] theorem pulse_rewound (src : Nat) (s : State) : pulse src s.rewound = (pulse src s).rewound := by simp [pulse]
@[simp] theorem unlatch_rewound (src : Nat) (s : State) : unlatch src s.rewound = (unlatch src s).rewound := by simp [unlatch]
@[simp] theorem State.sq_rewound (s : State) (a : Nat) : s.rewound.sq a = s.sq a := (rfl)
@[simp] theorem State.setSq_rewound (s : State) (a : Nat) (q : SqReg) :
    s.rewound.setSq a q = (s.setSq a q).rewound := by simp [State.setSq]
@[simp] theorem State.queueSize_rewound (s : State) (q : Nat) : s.rewound.queueSize q = s.queueSize q := (rfl)
@[simp] theorem State.tenant_rewound (s : State) (t : Nat) : s.rewound.tenant t = s.tenant t := (rfl)
@[simp] theorem State.setTenant_rewound (s : State) (t : Nat) (x : Tenant) :
    s.rewound.setTenant t x = (s.setTenant t x).rewound := by simp [State.setTenant]
@[simp] theorem State.modTenant_rewound (s : State) (t : Nat) (f : Tenant → Tenant) :
    s.rewound.modTenant t f = (s.modTenant t f).rewound := by simp [State.modTenant]
@[simp] theorem offerEvent_rewound (r : List Byte) (source sev t : Nat) (s : State) :
    offerEvent r source sev t s.rewound = fstRewound (offerEvent r source sev t s) := by simp [offerEvent]

theorem offerAll_rewound {offer : Nat → State → State × Bool} (h : ∀ t s, offer t s.rewound = fstRewound (offer t s))
    (s : State) : offerAll offer s.rewound = fstRewound (offerAll offer s) := by
  have hall (l : List Nat) (p : State × Bool) : l.foldl (fun acc t => ((offer t acc.1).1, acc.2 || (offer t acc.1).2)) (fstRewound p)
      = fstRewound (l.foldl (fun acc t => ((offer t acc.1).1, acc.2 || (offer t acc.1).2)) p) := by
    induction l generalizing p with
    | nil => rfl
    | cons t l ih =>
      rw [List.foldl_cons, List.foldl_cons, ← ih]
      simp [h]
  exact hall (List.range 8) (s, false)

@[simp] theorem ringPut_rewound (r : List Byte) (s : State) : ringPut r s.rewound = fstRewound (ringPut r s) := by simp [ringPut]

@[simp] theorem recordCore_rewound (source sev code : Nat) (data : List Byte) (s : State) :
    recordCore source sev code data s.rewound = (recordCore source sev code data s).rewound := by
  have hroom : (s.rewound.enabled 14 && (if 4 ≤ sev then decide (1 ≤ s.rewound.evt.bucket) else decide (16 < s.rewound.evt.bucket)))
    = (s.enabled 14 && (if 4 ≤ sev then decide (1 ≤ s.evt.bucket) else decide (16 < s.evt.bucket))) := rfl
  unfold recordCore
  dsimp only
  rw [hroom]
  split <;> simp [offerAll_rewound (offerEvent_rewound _ source sev)]

@[simp] theorem setOverrun_rewound (s : State) : setOverrun s.rewound = (setOverrun s).rewound := by simp [setOverrun]
@[simp] theorem overrunRecord_rewound (s : State) : overrunRecord s.rewound = (overrunRecord s).rewound := by simp [overrunRecord]
@[simp] theorem makeRecord_rewound (source sev code : Nat) (data : List Byte) (s : State) :
    makeRecord source sev code data s.rewound = (makeRecord source sev code data s).rewound := by simp [makeRecord]

@[simp] theorem sqSetData_rewound (a : Nat) (bits : List Nat) (sev : Option Nat) (mid : Option Word) (extra : Word) (s : State) :
    sqSetData a bits sev mid extra s.rewound = (sqSetData a bits sev mid extra s).rewound := by
  unfold sqSetData
  split
  · rfl
  · cases sqPulse a <;> cases sqSource a <;> cases sqSrcReg a <;> simp

@[simp] theorem sqSetX_rewound (a : Nat) (bits : List Nat) (sev : Option Nat) (extra : Word) (s : State) :
    sqSetX a bits sev extra s.rewound = (sqSetX a bits sev extra s).rewound := by simp [sqSetX]
@[simp] theorem sqSet_rewound (a : Nat) (bits : List Nat) (s : State) :
    sqSet a bits s.rewound = (sqSet a bits s).rewound := by simp [sqSet]
@[simp] theorem logAccess_rewound (a bit master size addr : Nat) (write : Bool) (s : State) :
    logAccess a bit master size addr write s.rewound = (logAccess a bit master size addr write s).rewound := by simp [logAccess]

/-! ### Crossings (chapter 3) -/

@[simp] theorem xingDropped_rewound (k : Nat) (s : State) :
    xingDropped k s.rewound = (xingDropped k s).rewound := by simp [xingDropped]
@[simp] theorem fifoUnready_rewound (near far : Bool) (k : Nat) (s : State) :
    fifoUnready near far k s.rewound = (fifoUnready near far k s).rewound := by simp [fifoUnready]

theorem viaFifo_rewound {go : State → State} (h : ∀ s, go s.rewound = (go s).rewound) (toFabric runs : Bool) (k : Nat) (s : State) :
    viaFifo toFabric runs k go s.rewound = (viaFifo toFabric runs k go s).rewound := by
  simp [viaFifo, h]

@[simp] theorem State.notice_rewound (s : State) (x : Nat) : s.rewound.notice x = s.notice x := (rfl)
@[simp] theorem State.setNotice_rewound (s : State) (x : Nat) (n : Notice) :
    s.rewound.setNotice x n = (s.setNotice x n).rewound := by simp [State.setNotice]
@[simp] theorem noticePost_rewound (x : Nat) (bits : Word) (s : State) :
    noticePost x bits s.rewound = (noticePost x bits s).rewound := by simp [noticePost]

/-! ### Sample cores and lanes (chapter 5) -/

@[simp] theorem State.sc_rewound (s : State) (n : Nat) : s.rewound.sc n = s.sc n := (rfl)
@[simp] theorem State.setSc_rewound (s : State) (n : Nat) (c : SampleCore) :
    s.rewound.setSc n c = (s.setSc n c).rewound := by simp [State.setSc]
@[simp] theorem State.modSc_rewound (s : State) (n : Nat) (f : SampleCore → SampleCore) :
    s.rewound.modSc n f = (s.modSc n f).rewound := by simp [State.modSc]
@[simp] theorem State.lane_rewound (s : State) (l : Nat) : s.rewound.lane l = s.lane l := (rfl)
@[simp] theorem State.setLane_rewound (s : State) (l : Nat) (v : LaneVal) :
    s.rewound.setLane l v = (s.setLane l v).rewound := by simp [State.setLane]
@[simp] theorem State.lanePut_rewound (s : State) (l : Nat) (v : Word) :
    s.rewound.lanePut l v = (s.lanePut l v).rewound := by simp [State.lanePut]
@[simp] theorem coreEnable_rewound (s : State) (n : Nat) : coreEnable s.rewound n = coreEnable s n := (rfl)
@[simp] theorem engEvent_rewound (bit n : Nat) (s : State) :
    engEvent bit n s.rewound = (engEvent bit n s).rewound := by simp [engEvent]
@[simp] theorem startCoefCopy_rewound (n : Nat) (s : State) :
    startCoefCopy n s.rewound = (startCoefCopy n s).rewound := by simp [startCoefCopy]

/-! ### Staged sets and commit groups (chapter 6) -/

@[simp] theorem State.isDirty_rewound (s : State) (c : CSet) : s.rewound.isDirty c = s.isDirty c := (rfl)
@[simp] theorem State.setDirty_rewound (s : State) (c : CSet) :
    s.rewound.setDirty c = (s.setDirty c).rewound := by simp [State.setDirty]
@[simp] theorem State.setClean_rewound (s : State) (c : CSet) :
    s.rewound.setClean c = (s.setClean c).rewound := by simp [State.setClean]

@[simp] theorem discardSet_rewound (c : CSet) (s : State) : discardSet c s.rewound = (discardSet c s).rewound := by
  cases c <;> simp [discardSet]

@[simp] theorem stagedWord_rewound (s : State) (c : CSet) (a : Nat) : stagedWord s.rewound c a = stagedWord s c a := (rfl)

@[simp] theorem stageWord_rewound (c : CSet) (a : Nat) (v : Word) (s : State) :
    stageWord c a v s.rewound = (stageWord c a v s).rewound := by
  unfold stageWord
  generalize shadowOff = k
  have h (l : List Nat) := foldl_rewound (f := fun s a => s.wr (a + k) (stagedWord s c a)) (fun s a => by simp) l s
  simp only [State.isDirty_rewound, h]
  simp

@[simp] theorem pairedLocked_rewound (s : State) (c : CSet) : pairedLocked s.rewound c = pairedLocked s c := by
  cases c <;> rfl

@[simp] theorem pairedIgnored_rewound (a master : Nat) (s : State) :
    pairedIgnored a master s.rewound = (pairedIgnored a master s).rewound := by simp [pairedIgnored]
@[simp] theorem State.grp_rewound (s : State) (g : Nat) : s.rewound.grp g = s.grp g := (rfl)
@[simp] theorem State.setGrp_rewound (s : State) (g : Nat) (x : Group) :
    s.rewound.setGrp g x = (s.setGrp g x).rewound := by simp [State.setGrp]
@[simp] theorem safeEvent_rewound (bit g : Nat) (s : State) :
    safeEvent bit g s.rewound = (safeEvent bit g s).rewound := by simp [safeEvent]
@[simp] theorem mayCommit_rewound (s : State) (g master : Nat) (privileged : Bool) :
    mayCommit s.rewound g master privileged = mayCommit s g master privileged := (rfl)
@[simp] theorem commitRequest_rewound (master : Nat) (privileged : Bool) (g : Nat) (s : State) :
    commitRequest master privileged g s.rewound = (commitRequest master privileged g s).rewound := by simp [commitRequest]

@[simp] theorem commitReqWrite_rewound (base master : Nat) (privileged : Bool) (v : Word) (s : State) :
    commitReqWrite base master privileged v s.rewound = (commitReqWrite base master privileged v s).rewound := by
  exact foldl_rewound (by simp) _ s

@[simp] theorem cancelGroup_rewound (g : Nat) (s : State) :
    cancelGroup g s.rewound = (cancelGroup g s).rewound := by simp [cancelGroup]

@[simp] theorem safeEnableWrite_rewound (on : Bool) (s : State) :
    safeEnableWrite on s.rewound = (safeEnableWrite on s).rewound := by
  have h (t : State) := foldl_rewound (f := fun s g => cancelGroup g s) (by simp) (List.range 64) t
  simp [safeEnableWrite, h]

/-! ### Nodes and claims (chapter 10) -/

@[simp] theorem State.modWeld_rewound (s : State) (f : Weld → Weld) :
    s.rewound.modWeld f = (s.modWeld f).rewound := by simp [State.modWeld]
@[simp] theorem weldEvent_rewound (bit src : Nat) (s : State) :
    weldEvent bit src s.rewound = (weldEvent bit src s).rewound := by simp [weldEvent]
@[simp] theorem nodeFull_rewound (s : State) (o i g : Nat) : nodeFull s.rewound o i g = nodeFull s o i g := (rfl)
@[simp] theorem nodeRefused_rewound (a o : Nat) (s : State) :
    nodeRefused a o s.rewound = (nodeRefused a o s).rewound := by simp [nodeRefused]
@[simp] theorem claimWrite_rewound (v : Word) (s : State) :
    claimWrite v s.rewound = (claimWrite v s).rewound := by simp [claimWrite]

/-! ### Tone generators (chapter 12) -/

@[simp] theorem toneStateView_rewound (s : State) (k : Nat) : toneStateView s.rewound k = toneStateView s k := (rfl)

/-! ### The graph swap (chapter 11) -/

@[simp] theorem armSwap_rewound (s : State) : armSwap s.rewound = (armSwap s).rewound := by simp [armSwap]

@[simp] theorem cancelSwap_rewound (s : State) : cancelSwap s.rewound = (cancelSwap s).rewound := by
  unfold cancelSwap
  by_cases h : s.eng.armed = true <;> simp [h]

@[simp] theorem engEnableWrite_rewound (on : Bool) (s : State) :
    engEnableWrite on s.rewound = (engEnableWrite on s).rewound := by simp [engEnableWrite]
@[simp] theorem gswapCtrlWrite_rewound (v : Word) (s : State) :
    gswapCtrlWrite v s.rewound = (gswapCtrlWrite v s).rewound := by simp [gswapCtrlWrite]
@[simp] theorem stageWritten_rewound (s : State) : stageWritten s.rewound = (stageWritten s).rewound := by simp [stageWritten]
@[simp] theorem inStagedBank_rewound (s : State) (n off : Nat) : inStagedBank s.rewound n off = inStagedBank s n off := (rfl)

/-! ### The fault latch (chapter 20) -/

@[simp] theorem State.ctlCore_rewound (s : State) (c : Nat) : s.rewound.ctlCore c = s.ctlCore c := (rfl)
@[simp] theorem State.setCtl_rewound (s : State) (c : Nat) (x : CtlCore) :
    s.rewound.setCtl c x = (s.setCtl c x).rewound := by simp [State.setCtl]
@[simp] theorem State.mic_rewound (s : State) (x : Nat) : s.rewound.mic x = s.mic x := (rfl)
@[simp] theorem State.contact_rewound (s : State) (n : Nat) : s.rewound.contact n = s.contact n := (rfl)
@[simp] theorem micPlug_rewound (s : State) (x : Nat) : micPlug s.rewound x = micPlug s x := (rfl)
@[simp] theorem faultSum_rewound (s : State) : faultSum s.rewound = faultSum s := (rfl)
@[simp] theorem latchFault_rewound (why : Nat) (s : State) :
    latchFault why s.rewound = (latchFault why s).rewound := by simp [latchFault]
@[simp] theorem summaryCheck_rewound (s : State) : summaryCheck s.rewound = (summaryCheck s).rewound := by simp [summaryCheck]
@[simp] theorem forceFault_rewound (s : State) : forceFault s.rewound = (forceFault s).rewound := by simp [forceFault]
@[simp] theorem contactFault_rewound (s : State) (n : Nat) : contactFault s.rewound n = contactFault s n := (rfl)
@[simp] theorem clearFault_rewound (force : Bool) (s : State) :
    clearFault force s.rewound = (clearFault force s).rewound := by simp [clearFault]
@[simp] theorem faultCtrl_rewound (v : Word) (s : State) : faultCtrl v s.rewound = (faultCtrl v s).rewound := by simp [faultCtrl]

/-! ### Line monitors and the silent test (chapter 19) -/

@[simp] theorem State.modSense_rewound (s : State) (f : Sense → Sense) :
    s.rewound.modSense f = (s.modSense f).rewound := by simp [State.modSense]
@[simp] theorem State.mon_rewound (s : State) (m : Nat) : s.rewound.mon m = s.mon m := (rfl)
@[simp] theorem State.setMon_rewound (s : State) (m : Nat) (x : Monitor) :
    s.rewound.setMon m x = (s.setMon m x).rewound := by simp [State.setMon]
@[simp] theorem vtEvent_rewound (bit : Nat) (s : State) : vtEvent bit s.rewound = (vtEvent bit s).rewound := by simp [vtEvent]

@[simp] theorem lmAck_rewound (v : Word) (s : State) : lmAck v s.rewound = (lmAck v s).rewound := by
  exact foldl_rewound (by simp) _ s

@[simp] theorem lmLearn_rewound (v : Word) (s : State) : lmLearn v s.rewound = (lmLearn v s).rewound := by
  exact foldl_rewound (by simp) _ s

@[simp] theorem State.vt_rewound (s : State) : s.rewound.vt = s.vt := (rfl)
@[simp] theorem State.modVt_rewound (s : State) (f : Vt → Vt) : s.rewound.modVt f = (s.modVt f).rewound := by simp [State.modVt]
@[simp] theorem State.setVtSlot_rewound (s : State) (k : Nat) (x : VtSlot) :
    s.rewound.setVtSlot k x = (s.setVtSlot k x).rewound := by simp [State.setVtSlot]
@[simp] theorem passRuns_rewound (s : State) : passRuns s.rewound = passRuns s := (rfl)
@[simp] theorem vtClaimant_rewound (s : State) : vtClaimant s.rewound = vtClaimant s := (rfl)
@[simp] theorem vtLevel_rewound (s : State) : vtLevel s.rewound = vtLevel s := (rfl)
@[simp] theorem slotZone_rewound (s : State) (k : Nat) : slotZone s.rewound k = slotZone s k := (rfl)
@[simp] theorem validSlots_rewound (s : State) : validSlots s.rewound = validSlots s := (rfl)
@[simp] theorem validRefs_rewound (s : State) : validRefs s.rewound = validRefs s := (rfl)
@[simp] theorem vtBuffer_rewound (s : State) (r : Nat) : vtBuffer s.rewound r = vtBuffer s r := (rfl)

@[simp] theorem passBegin_rewound (s : State) : passBegin s.rewound = (passBegin s).rewound := by
  simp only [passBegin, State.modVt_rewound, validSlots_rewound]
  exact foldl_rewound (by simp) _ _

@[simp] theorem passStart_rewound (s : State) : passStart s.rewound = (passStart s).rewound := by simp [passStart]
@[simp] theorem abortPass_rewound (s : State) : abortPass s.rewound = (abortPass s).rewound := by simp [abortPass]
@[simp] theorem vtCtrl_rewound (v : Word) (s : State) : vtCtrl v s.rewound = (vtCtrl v s).rewound := by simp [vtCtrl]

@[simp] theorem senseBlockReset_rewound (s : State) : senseBlockReset s.rewound = (senseBlockReset s).rewound := by
  simp [senseBlockReset, foldl_rewound (f := fun s k => s.lanePut (0x1D0 + k) 0#32) (by simp)]

/-! ### Microphone lines, contacts and local ports (chapter 20) -/

@[simp] theorem State.modPorts_rewound (s : State) (f : Ports → Ports) :
    s.rewound.modPorts f = (s.modPorts f).rewound := by simp [State.modPorts]
@[simp] theorem State.setMic_rewound (s : State) (x : Nat) (m : MicLine) :
    s.rewound.setMic x m = (s.setMic x m).rewound := by simp [State.setMic]
@[simp] theorem micPost_rewound (x bits : Nat) (s : State) :
    micPost x bits s.rewound = (micPost x bits s).rewound := by simp [micPost]
@[simp] theorem biasChange_rewound (x : Nat) (was : Bool) (s : State) :
    biasChange x was s.rewound = (biasChange x was s).rewound := by simp [biasChange]
@[simp] theorem relearn_rewound (x : Nat) (s : State) : relearn x s.rewound = (relearn x s).rewound := by simp [relearn]
@[simp] theorem micDcWrite_rewound (x : Nat) (v : Word) (s : State) :
    micDcWrite x v s.rewound = (micDcWrite x v s).rewound := by simp [micDcWrite]
@[simp] theorem State.setContact_rewound (s : State) (n : Nat) (c : Contact) :
    s.rewound.setContact n c = (s.setContact n c).rewound := by simp [State.setContact]
@[simp] theorem ctEnabled_rewound (s : State) (n : Nat) : ctEnabled s.rewound n = ctEnabled s n := (rfl)
@[simp] theorem ctCfgWrite_rewound (n : Nat) (v : Word) (s : State) :
    ctCfgWrite n v s.rewound = (ctCfgWrite n v s).rewound := by simp [ctCfgWrite]
@[simp] theorem State.uart_rewound (s : State) (k : Nat) : s.rewound.uart k = s.uart k := (rfl)
@[simp] theorem State.setUart_rewound (s : State) (k : Nat) (u : Uart) :
    s.rewound.setUart k u = (s.setUart k u).rewound := by simp [State.setUart]
@[simp] theorem uartTxd_rewound (k : Nat) (v : Word) (s : State) :
    uartTxd k v s.rewound = (uartTxd k v s).rewound := by simp [uartTxd]
@[simp] theorem State.can_rewound (s : State) (k : Nat) : s.rewound.can k = s.can k := (rfl)
@[simp] theorem State.setCan_rewound (s : State) (k : Nat) (c : Can) :
    s.rewound.setCan k c = (s.setCan k c).rewound := by simp [State.setCan]
@[simp] theorem canTxreq_rewound (k : Nat) (v : Word) (s : State) :
    canTxreq k v s.rewound = (canTxreq k v s).rewound := by simp [canTxreq]
@[simp] theorem canRejoin_rewound (k : Nat) (s : State) : canRejoin k s.rewound = (canRejoin k s).rewound := by simp [canRejoin]
@[simp] theorem canCtrlWrite_rewound (k : Nat) (v : Word) (s : State) :
    canCtrlWrite k v s.rewound = (canCtrlWrite k v s).rewound := by simp [canCtrlWrite]
@[simp] theorem State.i2c_rewound (s : State) (k : Nat) : s.rewound.i2c k = s.i2c k := (rfl)
@[simp] theorem State.setI2c_rewound (s : State) (k : Nat) (c : I2c) :
    s.rewound.setI2c k c = (s.setI2c k c).rewound := by simp [State.setI2c]
@[simp] theorem i2cCmd_rewound (k : Nat) (v : Word) (s : State) : i2cCmd k v s.rewound = (i2cCmd k v s).rewound := by simp [i2cCmd]
@[simp] theorem portsBlockReset_rewound (s : State) :
    portsBlockReset s.rewound = (portsBlockReset s).rewound := by simp [portsBlockReset]

/-! ### The Keep and the journal (chapter 21) -/

@[simp] theorem State.modMsg_rewound (s : State) (f : Msg → Msg) :
    s.rewound.modMsg f = (s.modMsg f).rewound := by simp [State.modMsg]
@[simp] theorem State.modEvt_rewound (s : State) (f : Evt → Evt) :
    s.rewound.modEvt f = (s.modEvt f).rewound := by simp [State.modEvt]
@[simp] theorem keepEvent_rewound (bit : Nat) (s : State) :
    keepEvent bit s.rewound = (keepEvent bit s).rewound := by simp [keepEvent]
@[simp] theorem State.keepLine_rewound (s : State) (port : Nat) : s.rewound.keepLine port = s.keepLine port := (rfl)
@[simp] theorem setKeepLine_rewound (port : Nat) (l : Option KeepLine) (s : State) :
    setKeepLine port l s.rewound = (setKeepLine port l s).rewound := by simp [setKeepLine]
@[simp] theorem nextPort_rewound (s : State) : nextPort s.rewound = nextPort s := (rfl)

@[simp] theorem keepServe_rewound (s : State) : keepServe s.rewound = (keepServe s).rewound := by
  unfold keepServe
  simp only [State.msg_rewound, nextPort_rewound]
  split
  · rfl
  · split <;> simp

@[simp] theorem drawBytes_rewound (n : Nat) (s : State) : drawBytes n s.rewound = sndRewound (drawBytes n s) := by
  induction n generalizing s with
  | zero => rfl
  | succ n ih => simp [drawBytes, ih]

@[simp] theorem keepOffer_rewound (port off : Nat) (bytes : List Byte) (s : State) :
    keepOffer port off bytes s.rewound = (keepOffer port off bytes s).rewound := by simp [keepOffer]
@[simp] theorem keepBusy_rewound (s : State) : keepBusy s.rewound = keepBusy s := (rfl)
@[simp] theorem keepBufWrite_rewound (i : Nat) (v : Word) (s : State) :
    keepBufWrite i v s.rewound = (keepBufWrite i v s).rewound := by simp [keepBufWrite]
@[simp] theorem keepCmdWrite_rewound (v : Word) (s : State) :
    keepCmdWrite v s.rewound = (keepCmdWrite v s).rewound := by simp [keepCmdWrite]

@[simp] theorem msgBlockReset_rewound (s : State) : msgBlockReset s.rewound = (msgBlockReset s).rewound := by
  simp [msgBlockReset, foldl_rewound (f := fun s p => s.lanePut (0x240 + p) 0#32) (by simp)]

@[simp] theorem fwGo_rewound (s : State) : fwGo s.rewound = (fwGo s).rewound := by simp [fwGo]
@[simp] theorem journalScan_rewound (s : State) : journalScan s.rewound = (journalScan s).rewound := by simp [journalScan]
@[simp] theorem evtEnable_rewound (on : Bool) (s : State) : evtEnable on s.rewound = (evtEnable on s).rewound := by simp [evtEnable]

/-! ### Tallies (chapter 23) -/

@[simp] theorem State.modWard_rewound (s : State) (f : Warden → Warden) :
    s.rewound.modWard f = (s.modWard f).rewound := by simp [State.modWard]
@[simp] theorem tallyOf_rewound (s : State) (n : Nat) : tallyOf s.rewound n = tallyOf s n := (rfl)

@[simp] theorem tallySum_rewound (s : State) : tallySum s.rewound = (tallySum s).rewound := by
  rw [tallySum, funext fun i => tallyOf_rewound s i, State.wrn_rewound]
  rfl

@[simp] theorem tallyExtend_rewound (n : Nat) (m : List Byte) (s : State) :
    tallyExtend n m s.rewound = (tallyExtend n m s).rewound := by simp [tallyExtend]

/-! ### Mode requests and watchdogs (chapter 22) -/

@[simp] theorem State.modModes_rewound (s : State) (f : Modes → Modes) :
    s.rewound.modModes f = (s.modModes f).rewound := by simp [State.modModes]
@[simp] theorem modeReqWrite_rewound (fromDict : Bool) (v : Nat) (s : State) :
    modeReqWrite fromDict v s.rewound = (modeReqWrite fromDict v s).rewound := by simp [modeReqWrite]
@[simp] theorem wdogPeriod_rewound (s : State) (c : Nat) : wdogPeriod s.rewound c = wdogPeriod s c := (rfl)
@[simp] theorem setWdog_rewound (c n : Nat) (s : State) : setWdog c n s.rewound = (setWdog c n s).rewound := by simp [setWdog]
@[simp] theorem wdogReload_rewound (c : Nat) (s : State) : wdogReload c s.rewound = (wdogReload c s).rewound := by simp [wdogReload]
@[simp] theorem wdogCfgWrite_rewound (c : Nat) (v : Word) (s : State) :
    wdogCfgWrite c v s.rewound = (wdogCfgWrite c v s).rewound := by simp [wdogCfgWrite]
@[simp] theorem wdogKick_rewound (c : Nat) (v : Word) (s : State) :
    wdogKick c v s.rewound = (wdogKick c v s).rewound := by simp [wdogKick]

/-! ### The channels themselves (chapter 18) -/

@[simp] theorem dmaEvent_rewound (bits : List Nat) (n : Nat) (s : State) :
    dmaEvent bits n s.rewound = (dmaEvent bits n s).rewound := by simp [dmaEvent]
@[simp] theorem chEnabled_rewound (s : State) (n : Nat) : chEnabled s.rewound n = chEnabled s n := (rfl)
@[simp] theorem chRing_rewound (s : State) (n : Nat) : chRing s.rewound n = chRing s n := (rfl)
@[simp] theorem chSize_rewound (s : State) (n : Nat) : chSize s.rewound n = chSize s n := (rfl)
@[simp] theorem chHead_rewound (s : State) (n : Nat) : chHead s.rewound n = chHead s n := (rfl)
@[simp] theorem chEmpty_rewound (s : State) (n : Nat) : chEmpty s.rewound n = chEmpty s n := (rfl)
@[simp] theorem chSlot_rewound (s : State) (n i : Nat) : chSlot s.rewound n i = chSlot s n i := (rfl)
@[simp] theorem regDesc_rewound (s : State) (n : Nat) : regDesc s.rewound n = regDesc s n := (rfl)

@[simp] theorem chApply_rewound (n : Nat) (s : State) : chApply n s.rewound = (chApply n s).rewound := by
  exact foldl_rewound (fun s a => by cases h : tget none s.wbPend a <;> simp [h]) (chWb n) s

@[simp] theorem chPend_rewound (s : State) (n : Nat) : chPend s.rewound n = chPend s n := (rfl)

@[simp] theorem chStaged_rewound (n : Nat) (s : State) : chStaged n s.rewound = (chStaged n s).rewound := by
  simp [chStaged]

@[simp] theorem chIdle_rewound (s : State) (n : Nat) : chIdle s.rewound n = chIdle s n := by
  simp [chIdle]

@[simp] theorem chStatView_rewound (s : State) (n : Nat) : chStatView s.rewound n = chStatView s n := by
  simp [chStatView]

@[simp] theorem irqSumView_rewound (s : State) (k : Nat) : irqSumView s.rewound k = irqSumView s k := (rfl)

@[simp] theorem scramble_rewound (a n : Nat) (s : State) : scramble a n s.rewound = (scramble a n s).rewound := by
  induction n generalizing a s with
  | zero => rfl
  | succ n ih => simp [scramble, ih]

@[simp] theorem chStop_rewound (n : Nat) (s : State) : chStop n s.rewound = (chStop n s).rewound := by
  have hs (l : List (Int × Nat)) (t : State) := foldl_rewound (f := fun s r => scramble (addr32 r.1) r.2 s) (by simp) l t
  have hset (t : State) := t.setDch_rewound n { DmaCh.idle with outstanding := true, cause := (s.dch n).cause }
  simp only [chStop, State.dch_rewound, State.wrb_rewound, DmaCh.rewound_cur, DmaCh.rewound_regMode, DmaCh.rewound_cause]
  split
  · exact State.modDch_rewound _ n fun _ => rfl
  · simp only [hs, State.draw_rewound, sndRewound_fst, sndRewound_snd, State.wr_rewound, chSlot_rewound, chHead_rewound, scramble_rewound,
      State.wrn_rewound, ite_rewound]
    exact hset _

@[simp] theorem chCause_rewound (n cause : Nat) (s : State) : chCause n cause s.rewound = (chCause n cause s).rewound := by
  rw [chCause, State.modDch_rewound (f := fun x => { x with cause := cause }) s n fun _ => rfl, dmaEvent_rewound]
  rfl

@[simp] theorem chCfgOk_rewound (s : State) (n : Nat) : chCfgOk s.rewound n = chCfgOk s n := (rfl)
@[simp] theorem chEnable_rewound (n : Nat) (s : State) : chEnable n s.rewound = (chEnable n s).rewound := by simp [chEnable]

@[simp] theorem chStart_rewound (n : Nat) (s : State) : chStart n s.rewound = (chStart n s).rewound := by
  have hset (t : State) (d : Desc) := t.modDch_rewound n (f := fun x => { x with
    cur := some d, regMode := true, lines := 0, xfer := 0, err := none }) fun _ => rfl
  simp [chStart, hset]

@[simp] theorem chCtrlWrite_rewound (n : Nat) (v : Word) (s : State) : chCtrlWrite n v s.rewound = (chCtrlWrite n v s).rewound := by
  have hset (b : Bool) := s.modDch_rewound n (f := fun x => { x with heldEnable := b }) fun _ => rfl
  simp [chCtrlWrite, hset]

@[simp] theorem chTailWrite_rewound (n : Nat) (v : Word) (s : State) :
    chTailWrite n v s.rewound = (chTailWrite n v s).rewound := by simp [chTailWrite]

@[simp] theorem chsStop_rewound (s : State) : chsStop s.rewound = (chsStop s).rewound := by
  simp only [chsStop, chEnabled_rewound, State.dch_rewound]
  exact foldl_rewound (by simp) _ s

@[simp] theorem dmaEnableWrite_rewound (on : Bool) (s : State) :
    dmaEnableWrite on s.rewound = (dmaEnableWrite on s).rewound := by simp [dmaEnableWrite]

@[simp] theorem dmaBlockReset_rewound (s : State) : dmaBlockReset s.rewound = (dmaBlockReset s).rewound := by
  simp only [dmaBlockReset, chsStop_rewound]
  rfl

/-! ### Tenants and requests of the dictionary (chapter 16) -/

@[simp] theorem State.modDict_rewound (s : State) (f : Dict → Dict) :
    s.rewound.modDict f = (s.modDict f).rewound := by simp [State.modDict]
@[simp] theorem dictEvent_rewound (bit t : Nat) (s : State) :
    dictEvent bit t s.rewound = (dictEvent bit t s).rewound := by simp [dictEvent]
@[simp] theorem recOf_rewound (s : State) (i sub : Nat) : recOf s.rewound i sub = recOf s i sub := (rfl)
@[simp] theorem tenantRecord_rewound (t : Nat) (crit : Bool) (s : State) :
    tenantRecord t crit s.rewound = (tenantRecord t crit s).rewound := by simp [tenantRecord]
@[simp] theorem tenantCount_rewound (t j : Nat) (s : State) :
    tenantCount t j s.rewound = (tenantCount t j s).rewound := by simp [tenantCount]
@[simp] theorem heartbeat_rewound (t : Nat) (s : State) : heartbeat t s.rewound = (heartbeat t s).rewound := by simp [heartbeat]
@[simp] theorem ringStep_rewound (a size n : Nat) (s : State) :
    ringStep a size n s.rewound = (ringStep a size n s).rewound := by simp [ringStep]
@[simp] theorem placeCause_rewound (s : State) (t tag : Nat) : placeCause s.rewound t tag = placeCause s t tag := (rfl)
@[simp] theorem placeRequest_rewound (t queue tag : Nat) (op : ReqOp) (sess : Option Nat) (sid : Word) (warden adv : Bool) (s : State) :
    placeRequest t queue tag op sess sid warden adv s.rewound = (placeRequest t queue tag op sess sid warden adv s).rewound :=
  by simp [placeRequest]
@[simp] theorem respType_rewound (s : State) (q : Req) : respType s.rewound q = respType s q := (rfl)
@[simp] theorem reqSession_rewound (s : State) (q : Req) : reqSession s.rewound q = reqSession s q := (rfl)
@[simp] theorem modReq_rewound (t tag : Nat) (f : Req → Req) (s : State) :
    modReq t tag f s.rewound = (modReq t tag f s).rewound := by simp [modReq]
@[simp] theorem reqOf_rewound (s : State) (t tag : Nat) : reqOf s.rewound t tag = reqOf s t tag := (rfl)
@[simp] theorem placeResponse_rewound (t : Nat) (q : Req) (s : State) :
    placeResponse t q s.rewound = (placeResponse t q s).rewound := by simp [placeResponse]

@[simp] theorem finish_rewound (t tag status : Nat) (hinge : Word) (detail : Nat) (value : List Byte) (s : State) :
    finish t tag status hinge detail value s.rewound = (finish t tag status hinge detail value s).rewound := by
  unfold finish
  simp only [reqOf_rewound]
  split <;> simp

@[simp] theorem logMembers_rewound (s : State) (t tag : Nat) (warden : Bool) (ms : List Member) :
    logMembers s.rewound t tag warden ms = logMembers s t tag warden ms := (rfl)
@[simp] theorem noteLengths_rewound (ms : List Member) (s : State) :
    noteLengths ms s.rewound = (noteLengths ms s).rewound := by simp [noteLengths]

@[simp] theorem writeInForce_rewound (t tag status : Nat) (hinge : Word) (detail : Nat) (s : State) :
    writeInForce t tag status hinge detail s.rewound = (writeInForce t tag status hinge detail s).rewound := by
  unfold writeInForce
  simp only [reqOf_rewound]
  split <;> simp

@[simp] theorem handlerValue_rewound (r : DRec) (s : State) : handlerValue r s.rewound = sndRewound (handlerValue r s) := by
  unfold handlerValue
  cases typeBytes r.type <;> simp

@[simp] theorem handlerEnd_rewound (t tag result : Nat) (s : State) :
    handlerEnd t tag result s.rewound = (handlerEnd t tag result s).rewound := by
  unfold handlerEnd
  simp only [reqOf_rewound]
  split
  · rfl
  · split
    · simp
    · split <;> simp
      split <;> simp

@[simp] theorem hdone_rewound (v : Word) (s : State) : hdone v s.rewound = (hdone v s).rewound := by
  unfold hdone
  simp only [State.dict_rewound]
  split <;> simp

@[simp] theorem requestReset_rewound (t : Nat) (del : Bool) (s : State) :
    requestReset t del s.rewound = (requestReset t del s).rewound := by
  simp only [requestReset, State.tenant_rewound, State.rdf_rewound]
  split
  · rfl
  · split <;> simp

@[simp] theorem dictEnableWrite_rewound (on : Bool) (s : State) :
    dictEnableWrite on s.rewound = (dictEnableWrite on s).rewound := by simp [dictEnableWrite]
@[simp] theorem qprodOk_rewound (s : State) (host : Bool) (q : Nat) : qprodOk s.rewound host q = qprodOk s host q := (rfl)
@[simp] theorem ringRequest_rewound (s : State) (q k : Nat) : ringRequest s.rewound q k = ringRequest s q k := (rfl)

@[simp] theorem localRequests_rewound (q : Nat) (v : Word) (s : State) :
    localRequests q v s.rewound = (localRequests q v s).rewound := by
  simp only [localRequests, State.queueSize_rewound, State.rd_rewound, State.wr_rewound]
  refine foldl_rewound (fun s k => ?_) _ _
  simp only [ringRequest_rewound, placeCause_rewound]
  split <;> simp

@[simp] theorem queueConsume_rewound (q : Nat) (v : Word) (s : State) :
    queueConsume q v s.rewound = (queueConsume q v s).rewound := by
  unfold queueConsume
  split <;> simp

/-! ### The ring and its ports (chapter 15) -/

@[simp] theorem State.modNet_rewound (s : State) (f : Net → Net) :
    s.rewound.modNet f = (s.modNet f).rewound := by simp [State.modNet]
@[simp] theorem netEvent_rewound (bit : Nat) (s : State) : netEvent bit s.rewound = (netEvent bit s).rewound := by simp [netEvent]
@[simp] theorem ownMac_rewound (s : State) : ownMac s.rewound = ownMac s := (rfl)
@[simp] theorem ownIp_rewound (s : State) : ownIp s.rewound = ownIp s := (rfl)
@[simp] theorem netModeOf_rewound (s : State) : netModeOf s.rewound = netModeOf s := (rfl)
@[simp] theorem linkOf_rewound (s : State) (b : Bool) : linkOf s.rewound b = linkOf s b := (rfl)
@[simp] theorem frameClass_rewound (s : State) (f : NetFrame) : frameClass s.rewound f = frameClass s f := (rfl)

@[simp] theorem byClass_rewound (s : State) (f : NetFrame) (l : List NetFrame) : byClass s.rewound f l = byClass s f l := by
  induction l with
  | nil => rfl
  | cons g l ih => simp [byClass, ih]

@[simp] theorem egress_rewound (b : Bool) (f : NetFrame) (s : State) : egress b f s.rewound = (egress b f s).rewound := by
  have h (g : NetFrame) (l : List NetFrame) : enqueue s.rewound g l = enqueue s g l := by
    cases l <;> simp [enqueue]
  unfold egress
  cases b <;> simp [h]

@[simp] theorem ownEgress_rewound (b : Bool) (f : NetFrame) (s : State) : ownEgress b f s.rewound = (ownEgress b f s).rewound := by
  exact viaFifo_rewound (by simp) _ _ _ s

@[simp] theorem learnedPort_rewound (s : State) (m : BitVec 48) : learnedPort s.rewound m = learnedPort s m := (rfl)

@[simp] theorem originate_rewound (f : NetFrame) (s : State) : originate f s.rewound = (originate f s).rewound := by
  simp only [originate, netModeOf_rewound, State.net_rewound, learnedPort_rewound, State.rdf_rewound]
  split
  · simp
  · split <;> simp
  · simp
  · rfl

@[simp] theorem ownFrame_rewound (s : State) (dst : BitVec 48) (len : Nat) (body : NetBody) :
    ownFrame s.rewound dst len body = ownFrame s dst len body := (rfl)

@[simp] theorem sendIp_rewound (dst : Word) (dscp : Nat) (ttl : Option Nat) (len : Nat) (body : NetBody) (s : State) :
    sendIp dst dscp ttl len body s.rewound = (sendIp dst dscp ttl len body s).rewound := by
  simp only [sendIp, ownFrame_rewound, State.net_rewound, State.rd_rewound, ownIp_rewound, ownMac_rewound, originate_rewound]
  split
  · rfl
  · split <;> rfl

@[simp] theorem portOn_rewound (s : State) (b : Bool) : portOn s.rewound b = portOn s b := (rfl)

@[simp] theorem linkSet_rewound (b up : Bool) (s : State) : linkSet b up s.rewound = (linkSet b up s).rewound := by
  simp only [linkSet, linkOf_rewound, State.net_rewound]
  split
  · rfl
  · cases b <;> cases up <;> simp

@[simp] theorem portsCheck_rewound (s : State) : portsCheck s.rewound = (portsCheck s).rewound := by
  simp [portsCheck]

@[simp] theorem streamsOff_rewound (s : State) : streamsOff s.rewound = (streamsOff s).rewound := by
  simp only [streamsOff, State.modNet_rewound]
  exact foldl_rewound (by simp) _ _

@[simp] theorem ptpCycle_rewound (s : State) : ptpCycle s.rewound = ptpCycle s := (rfl)
@[simp] theorem ptpRun_rewound (cycles : Nat) (s : State) : ptpRun cycles s.rewound = (ptpRun cycles s).rewound := by simp [ptpRun]
@[simp] theorem ptpRoles_rewound (synced gm : Bool) (s : State) :
    ptpRoles synced gm s.rewound = (ptpRoles synced gm s).rewound := by simp [ptpRoles]
@[simp] theorem ptpStep_rewound (s : State) : ptpStep s.rewound = (ptpStep s).rewound := by simp [ptpStep]

@[simp] theorem ptpSnap_rewound (cycles : Nat) (s : State) : ptpSnap cycles s.rewound = (ptpSnap cycles s).rewound := by
  simp [ptpSnap]

@[simp] theorem ptpCtrlWrite_rewound (cycles : Nat) (v : Word) (s : State) :
    ptpCtrlWrite cycles v s.rewound = (ptpCtrlWrite cycles v s).rewound := by
  simp only [ptpCtrlWrite, State.rd_rewound, State.wr_rewound, ptpRoles_rewound, ptpStep_rewound, ite_rewound, ptpSnap_rewound]

/-! ### Riller sessions (chapter 17) -/

@[simp] theorem State.modRil_rewound (s : State) (f : Riller → Riller) :
    s.rewound.modRil f = (s.modRil f).rewound := by simp [State.modRil]
@[simp] theorem State.sess_rewound (s : State) (n : Nat) : s.rewound.sess n = s.sess n := (rfl)
@[simp] theorem setSess_rewound (n : Nat) (x : Option Session) (s : State) :
    setSess n x s.rewound = (setSess n x s).rewound := by simp [setSess]
@[simp] theorem rilEvent_rewound (bit : Nat) (s : State) : rilEvent bit s.rewound = (rilEvent bit s).rewound := by simp [rilEvent]

@[simp] theorem rilEmit_rewound (tr : Transport) (ip : Word) (port prio tenant : Nat) (msg : List Byte) (s : State) :
    rilEmit tr ip port prio tenant msg s.rewound = (rilEmit tr ip port prio tenant msg s).rewound := by
  unfold rilEmit
  split <;> simp

@[simp] theorem sessDrop_rewound (n : Nat) (s : State) : sessDrop n s.rewound = (sessDrop n s).rewound := by
  unfold sessDrop
  simp only [State.sess_rewound]
  split <;> simp

@[simp] theorem rilSend_rewound (n kind prio : Nat) (body : List Byte) (s : State) :
    rilSend n kind prio body s.rewound = (rilSend n kind prio body s).rewound := by
  unfold rilSend
  simp only [State.sess_rewound]
  split <;> simp

@[simp] theorem sessClose_rewound (n reason : Nat) (s : State) :
    sessClose n reason s.rewound = (sessClose n reason s).rewound := by simp [sessClose]
@[simp] theorem sessionsOf_rewound (s : State) (f : Session → Bool) : sessionsOf s.rewound f = sessionsOf s f := (rfl)

@[simp] theorem transportReset_rewound (tr : Transport) (s : State) :
    transportReset tr s.rewound = (transportReset tr s).rewound := by
  simp only [transportReset, sessionsOf_rewound]
  exact foldl_rewound (by simp) _ s

@[simp] theorem sessCloseWrite_rewound (v : Word) (s : State) : sessCloseWrite v s.rewound = (sessCloseWrite v s).rewound := by
  exact foldl_rewound (by simp) _ s

@[simp] theorem dictBlockReset_rewound (s : State) : dictBlockReset s.rewound = (dictBlockReset s).rewound := by
  have h (i : Nat) := foldl_rewound (f := fun s k => cancelGroup (i + k) s) (by simp) (List.range 16) s
  simp [dictBlockReset, h]

/-! ### Resets and releases (chapter 25) -/

@[simp] theorem State.modBus_rewound (s : State) (f : BusState → BusState) :
    s.rewound.modBus f = (s.modBus f).rewound := by simp [State.modBus]

@[simp] theorem scLand_rewound (a : Nat) (v : Word) (s : State) : scLand a v s.rewound = (scLand a v s).rewound := by
  unfold scLand
  split
  · simp
  · split <;> simp

@[simp] theorem scLanded_rewound (s : State) : scLanded s.rewound = (scLanded s).rewound := by
  unfold scLanded
  simp only [State.clk_rewound, State.bus_rewound, State.modBus_rewound]
  cases s.bus.sc <;> simp

@[simp] theorem keepCut_rewound (completes : Bool) (s : State) : keepCut completes s.rewound = (keepCut completes s).rewound := by
  unfold keepCut
  simp only [State.msg_rewound, State.keepLine_rewound]
  split
  · rfl
  · split <;> simp

@[simp] theorem fresh_rewound (s : State) : fresh s.rewound = (fresh s).rewound := (rfl)

@[simp] theorem resetDevice_rewound (cause : Nat) (keepXtal : Bool) (s : State) :
    resetDevice cause keepXtal s.rewound = (resetDevice cause keepXtal s).rewound := by
  unfold resetDevice
  simp only [State.bus_rewound]
  cases s.bus.sc <;> simp

@[simp] theorem released_rewound (s : State) (i : Nat) : released s.rewound i = released s i := (rfl)
@[simp] theorem coreStart_rewound (c : Nat) (s : State) : coreStart c s.rewound = (coreStart c s).rewound := by simp [coreStart]
@[simp] theorem netNext_rewound (s : State) : netNext s.rewound = (netNext s).rewound := by simp [netNext]

@[simp] theorem netOrphan_rewound (m : Master) (s : State) : netOrphan m s.rewound = (netOrphan m s).rewound := by
  unfold netOrphan
  simp only [State.modBus_rewound, State.bus_rewound, State.draw_rewound, sndRewound_fst, sndRewound_snd]
  split
  · split
    · simp
    · rfl
  · rfl

@[simp] theorem coreReset_rewound (c : Nat) (s : State) : coreReset c s.rewound = (coreReset c s).rewound := by simp [coreReset]

@[simp] theorem releaseZero_rewound (i : Nat) (s : State) : releaseZero i s.rewound = (releaseZero i s).rewound := by
  unfold releaseZero
  split <;> simp

@[simp] theorem releaseBit_rewound (s : State) (i : Nat) : releaseBit s.rewound i = (releaseBit s i).rewound := by simp [releaseBit]

@[simp] theorem releaseWrite_rewound (v : Nat) (s : State) : releaseWrite v s.rewound = (releaseWrite v s).rewound := by
  simp [releaseWrite, foldl_rewound (f := releaseBit) (by simp)]

@[simp] theorem giveRet_rewound (m : Master) (b : BusRet) (s : State) : giveRet m b s.rewound = (giveRet m b s).rewound := by
  unfold giveRet
  split <;> simp

@[simp] theorem bridgeReset_rewound (slot : Nat) (s : State) : bridgeReset slot s.rewound = (bridgeReset slot s).rewound := by
  simp only [bridgeReset, State.modBus_rewound, State.bus_rewound]
  exact foldl_rewound (by simp) _ _

@[simp] theorem lanesZero_rewound (lo n : Nat) (s : State) : lanesZero lo n s.rewound = (lanesZero lo n s).rewound := by
  exact foldl_rewound (by simp) _ s

@[simp] theorem blockState_rewound (slot : Nat) (s : State) : blockState slot s.rewound = (blockState slot s).rewound := by
  have hd (t : State) := foldl_rewound (f := fun s c => discardSet c s) (by simp) s.safe.dirty t
  have hf (t : State) := foldl_rewound (f := fun s p => fifoUnready true false (8 + p) s) (by simp) (List.range 6) t
  have hn (t : State) := foldl_rewound (f := fun s k => fifoUnready false true k s) (by simp) (List.range 4) t
  unfold blockState
  split <;> simp [hd, hf, hn]

@[simp] theorem blockReset_rewound (slot : Nat) (s : State) :
    blockReset slot s.rewound = (blockReset slot s).rewound := by simp [blockReset]

/-! ### Accesses (chapter 2) -/

@[simp] theorem logPriv_rewound (w : Who) (write sec : Bool) (n a : Nat) (s : State) :
    logPriv w write sec n a s.rewound = (logPriv w write sec n a s).rewound := by simp [logPriv]
@[simp] theorem logAcc_rewound (w : Who) (bit : Nat) (write : Bool) (n a : Nat) (s : State) :
    logAcc w bit write n a s.rewound = (logAcc w bit write n a s).rewound := by simp [logAcc]
@[simp] theorem heldAt_rewound (s : State) (a : Nat) : heldAt s.rewound a = heldAt s a := (rfl)
@[simp] theorem sysView_rewound (a : Nat) (s : State) : sysView a s.rewound = sysView a s := (rfl)
@[simp] theorem aonView_rewound (a : Nat) (s : State) : aonView a s.rewound = aonView a s := (rfl)
@[simp] theorem pendView_rewound (slot : Nat) (s : State) : pendView slot s.rewound = pendView slot s := (rfl)
@[simp] theorem engView_rewound (a : Nat) (s : State) : engView a s.rewound = engView a s := (rfl)
@[simp] theorem safeView_rewound (a : Nat) (s : State) : safeView a s.rewound = safeView a s := (rfl)
@[simp] theorem weldView_rewound (a : Nat) (s : State) : weldView a s.rewound = weldView a s := (rfl)
@[simp] theorem brdgView_rewound (a : Nat) (s : State) : brdgView a s.rewound = brdgView a s := (rfl)
@[simp] theorem qnchView_rewound (a : Nat) (s : State) : qnchView a s.rewound = qnchView a s := (rfl)
@[simp] theorem tdmView_rewound (a : Nat) (s : State) : tdmView a s.rewound = tdmView a s := (rfl)
@[simp] theorem netView_rewound (a : Nat) (s : State) : netView a s.rewound = netView a s := (rfl)
@[simp] theorem dictView_rewound (a : Nat) (s : State) : dictView a s.rewound = dictView a s := (rfl)
@[simp] theorem dmaView_rewound (a : Nat) (s : State) : dmaView a s.rewound = dmaView a s := by simp [dmaView]
@[simp] theorem senseView_rewound (a : Nat) (s : State) : senseView a s.rewound = senseView a s := (rfl)
@[simp] theorem msgView_rewound (a : Nat) (s : State) : msgView a s.rewound = msgView a s := (rfl)
@[simp] theorem evtView_rewound (a : Nat) (s : State) : evtView a s.rewound = evtView a s := (rfl)
@[simp] theorem portsView_rewound (a : Nat) (s : State) : portsView a s.rewound = portsView a s := (rfl)
@[simp] theorem slotView_rewound (a : Nat) (r : RegRow) (s : State) : slotView a r s.rewound = slotView a r s := by simp [slotView]
@[simp] theorem govOn_rewound (slot : Nat) (r : RegRow) (i : Nat) (s : State) : govOn slot r i s.rewound = govOn slot r i s := (rfl)
@[simp] theorem writeRejected_rewound (slot path off : Nat) (s : State) :
    writeRejected slot path off s.rewound = (writeRejected slot path off s).rewound := by simp [writeRejected]
@[simp] theorem pendingOr_rewound (a : Nat) (live : Word) (s : State) : pendingOr a live s.rewound = pendingOr a live s := (rfl)
@[simp] theorem setPending_rewound (a : Nat) (v : Word) (s : State) :
    setPending a v s.rewound = (setPending a v s).rewound := by simp [setPending]

theorem releaseLo_rewound {put : Nat → Word → State → State} (h : ∀ a v s, put a v s.rewound = (put a v s).rewound) (a : Nat) (s : State) :
    releaseLo a put s.rewound = (releaseLo a put s).rewound := by
  unfold releaseLo
  simp only [State.bus_rewound]
  split <;> simp [h]

theorem pairWrite_rewound {put : Nat → Word → State → State} (h : ∀ a v s, put a v s.rewound = (put a v s).rewound) (a : Nat) (v : Word)
    (s : State) : pairWrite a v put s.rewound = (pairWrite a v put s).rewound := by
  simp [pairWrite, h, releaseLo_rewound h]

@[simp] theorem wardenInt_rewound (n : Nat) (s : State) : wardenInt n s.rewound = (wardenInt n s).rewound := by simp [wardenInt]
@[simp] theorem wmboxCommand_rewound (v : Word) (s : State) :
    wmboxCommand v s.rewound = (wmboxCommand v s).rewound := by simp [wmboxCommand]
@[simp] theorem flashReads_rewound (s : State) : flashReads s.rewound = flashReads s := (rfl)
@[simp] theorem flashBankWrite_rewound (v : Word) (s : State) :
    flashBankWrite v s.rewound = (flashBankWrite v s).rewound := by simp [flashBankWrite]

@[simp] theorem ctrlWrite_rewound (slot : Nat) (on : Bool) (s : State) :
    ctrlWrite slot on s.rewound = (ctrlWrite slot on s).rewound := by
  unfold ctrlWrite
  split <;> simp

@[simp] theorem sysWrite'_rewound (w : Who) (a : Nat) (v : Word) (s : State) :
    sysWrite' w a v s.rewound = (sysWrite' w a v s).rewound := by
  unfold sysWrite'
  dsimp only
  split
  · simp
  · split <;> simp

@[simp] theorem rwWrite_rewound (w : Who) (a : Nat) (v : Word) (s : State) :
    rwWrite w a v s.rewound = (rwWrite w a v s).rewound := by
  have hp := pairWrite_rewound (put := fun a v s => s.wr a v) (by simp)
  unfold rwWrite
  dsimp only
  split
  · simp
  · split <;> simp [hp]

@[simp] theorem wbWrite_rewound (a : Nat) (v : Word) (s : State) :
    wbWrite a v s.rewound = (wbWrite a v s).rewound := by simp [wbWrite]

@[simp] theorem netCut_rewound (s : State) : netCut s.rewound = (netCut s).rewound := by
  unfold netCut
  simp only [State.bus_rewound]
  cases s.bus.net <;> simp

@[simp] theorem w1Write_rewound (w : Who) (a : Nat) (v : Word) (s : State) :
    w1Write w a v s.rewound = (w1Write w a v s).rewound := by
  unfold w1Write
  dsimp only
  split <;> simp [foldl_rewound]

@[simp] theorem sqWrite_rewound (w : Who) (a : Nat) (v : Word) (s : State) :
    sqWrite w a v s.rewound = (sqWrite w a v s).rewound := by simp [sqWrite]

@[simp] theorem classWrite_rewound (w : Who) (path a : Nat) (r : RegRow) (v : Word) (s : State) :
    classWrite w path a r v s.rewound = (classWrite w path a r v s).rewound := by
  unfold classWrite
  split <;> simp

@[simp] theorem netDown_rewound (s : State) (a : Nat) : netDown s.rewound a = netDown s a := (rfl)

@[simp] theorem wardenWrite_rewound (a : Nat) (r : RegRow) (v : Word) (s : State) :
    wardenWrite a r v s.rewound = (wardenWrite a r v s).rewound := by
  unfold wardenWrite
  split <;> simp

@[simp] theorem devResetWrite_rewound (w : Who) (path a : Nat) (v : Word) (s : State) :
    devResetWrite w path a v s.rewound = (devResetWrite w path a v s).rewound := by simp [devResetWrite]

@[simp] theorem regWrite_rewound (w : Who) (a n v : Nat) (s : State) :
    regWrite w a n v s.rewound = sndRewound (regWrite w a n v s) := by
  unfold regWrite
  cases filterOf w true a with
  | refused => simp
  | dropped sec => simp
  | pass =>
    dsimp only
    cases rowAt (wordOf (if regionOf a = .slots then directOf a else a)) <;> simp

@[simp] theorem apBase_rewound (a : Nat) (t : ApTable) (s : State) : apBase a t s.rewound = apBase a t s := (rfl)

@[simp] theorem shadowWrite_rewound (t : ApTable) (c : CSet) (a : Nat) (v : Word) (s : State) :
    shadowWrite t c a v s.rewound = (shadowWrite t c a v s).rewound := by
  unfold shadowWrite
  generalize shadowOff = k
  cases c <;> simp

@[simp] theorem streamEntryWrite_rewound (live a : Nat) (k : Nat) (v : Word) (s : State) :
    streamEntryWrite live a k v s.rewound = (streamEntryWrite live a k v s).rewound := by simp [streamEntryWrite]

@[simp] theorem tableWrite_rewound (w : Who) (t : ApTable) (a : Nat) (v : Word) (src : Nat) (s : State) :
    tableWrite w t a v src s.rewound = (tableWrite w t a v src s).rewound := by
  cases t <;> simp [tableWrite]

@[simp] theorem apertureWrite_rewound (w : Who) (a n v src : Nat) (s : State) :
    apertureWrite w a n v src s.rewound = (apertureWrite w a n v src s).rewound := by
  unfold apertureWrite
  dsimp only
  cases apTableAt (wordOf a) with
  | none => simp
  | some t => cases h : tableSet t <;> simp [h]

@[simp] theorem windowWrite_rewound (w : Who) (a n v : Nat) (s : State) :
    windowWrite w a n v s.rewound = (windowWrite w a n v s).rewound := by simp [windowWrite]

@[simp] theorem memoryWrite_rewound (w : Who) (a n v : Nat) (s : State) :
    memoryWrite w a n v s.rewound = sndRewound (memoryWrite w a n v s) := by
  unfold memoryWrite
  split <;> simp

@[simp] theorem busWrite_rewound (w : Who) (a n v : Nat) (s : State) :
    busWrite w a n v s.rewound = sndRewound (busWrite w a n v s) := by
  unfold busWrite
  cases filterOf w true a <;> simp

@[simp] theorem deliverPosted_rewound (p : Posted) (s : State) :
    deliverPosted p s.rewound = (deliverPosted p s).rewound := by simp [deliverPosted]
@[simp] theorem postedOf_rewound (s : State) (toAudio : Bool) : postedOf s.rewound toAudio = postedOf s toAudio := (rfl)
@[simp] theorem setPosted_rewound (toAudio : Bool) (l : List Posted) (s : State) :
    setPosted toAudio l s.rewound = (setPosted toAudio l s).rewound := by simp [setPosted]

@[simp] theorem deliverOf_rewound (m : Master) (toAudio : Bool) (s : State) :
    deliverOf m toAudio s.rewound = (deliverOf m toAudio s).rewound := by
  simp only [deliverOf, postedOf_rewound, setPosted_rewound]
  exact foldl_rewound (by simp) _ _

end Sys2Proof.Machine
end

section
/-! How the DMA channels fetch descriptors, move lines and complete (chapter 18). -/

namespace Sys2Proof.Machine
open Sys2Proof

/-! ### Bytes of a line, of a fill, and of a beat -/

theorem lineBytes_none (mode : Nat) (src : List Byte) :
    lineBytes mode none src = (List.range src.length).map fun i => (src[swapAt mode i]?).getD 0#8 := by
  show (List.range src.length).foldl (fun out i => out ++ [(src[swapAt mode i]?).getD 0#8]) [] = _
  rw [List.foldl_append_eq_append, List.nil_append]
  exact List.map_eq_flatMap.symm

theorem touchesRegs_drop {a n z : Nat} (h : touchesRegs a n = false) : touchesRegs (a + z) (n - z) = false := by
  simp only [touchesRegs, Bool.and_eq_false_iff, Bool.or_eq_false_iff, decide_eq_false_iff_not] at h ⊢
  omega

theorem beatSize_pos (a n : Nat) : 0 < beatSize a n := by
  unfold beatSize
  repeat' split
  all_goals decide

/-- Outside the registers a beat is aligned to its size and within what is left. -/
theorem beatSize_aligned {a n : Nat} (h : touchesRegs a n = false) (hn : 0 < n) : a % beatSize a n = 0 ∧ beatSize a n ≤ n := by
  rw [beatSize, if_neg (by simp [h])]
  split
  · omega
  split
  · omega
  split <;> omega

/-- Each byte of a range lies in one of its beats. -/
theorem mem_beatsFrom {fuel a n off i : Nat} (hf : n ≤ fuel) (hi : i < n) : ∃ b ∈ beatsFrom fuel a n off,
    b.1 + off = a + b.2.2 ∧ b.2.2 ≤ off + i ∧ off + i < b.2.2 + b.2.1 ∧
      (touchesRegs a n = false → b.1 % b.2.1 = 0 ∧ b.2.2 + b.2.1 ≤ off + n) := by
  induction fuel generalizing a n off i with
  | zero => omega
  | succ fuel ih =>
    have hz := beatSize_pos a n
    rw [beatsFrom, if_neg (by omega)]
    by_cases hb : i < beatSize a n
    · refine ⟨_, List.mem_cons_self .., ?_⟩
      dsimp only
      refine ⟨by omega, by omega, by omega, fun ht => ?_⟩
      have := beatSize_aligned ht (by omega)
      exact ⟨this.1, by omega⟩
    · obtain ⟨b, hm, h1, h2, h3, h4⟩ := ih (a := a + beatSize a n) (n := n - beatSize a n) (off := off + beatSize a n)
        (i := i - beatSize a n) (by omega) (by omega)
      refine ⟨b, List.mem_cons_of_mem _ hm, by omega, by omega, by omega, fun ht => ?_⟩
      have := h4 (touchesRegs_drop ht)
      exact ⟨this.1, by omega⟩

/-! ### What events and staged values leave of a channel -/

theorem dma_record {n off : Nat} (hn : n < 128) (ho : off < 0x40) : recordReg (Reg.dma n off) = false := by
  simp only [recordReg, Reg.dma, Reg.evtRingRd, Reg.evtRingWr, Reg.evtOverruns, Reg.evtDrops, List.contains_cons, List.contains_nil,
    Bool.or_eq_false_iff, decide_eq_false_iff_not, beq_eq_false_iff_ne, ne_eq]
  exact ⟨decide_eq_false (by omega), by omega, by omega, by omega, by omega, trivial⟩

theorem dmaEvent_rd {bits : List Nat} (h : bits ≠ []) (n : Fin 128) (s : State) {off : Nat} (ho : off < 0x40) :
    (dmaEvent bits n s).rd (Reg.dma n off) = s.rd (Reg.dma n off) :=
  (sqSetX_frame _ bits none 0#32 s h).regs _ (dma_record n.isLt ho)

theorem dmaEvent_dch {bits : List Nat} (h : bits ≠ []) (n : Nat) (s : State) (k : Nat) : (dmaEvent bits n s).dch k = s.dch k := by
  have hr := congrArg State.dma (sqSetX_frame (Reg.dma n 0x0C) bits none 0#32 s h).rest
  show tget DmaCh.idle (sqSetX (Reg.dma n 0x0C) bits none 0#32 s).dma.ch k = _
  rw [hr]
  rfl

theorem dmaEvent_sq (b : Nat) (n : Fin 128) (s : State) : (dmaEvent [b] n s).sq (Reg.dma n 0x0C) = (s.sq (Reg.dma n 0x0C)).event [b] :=
  sqSet_sq _ b s (by have := n.isLt; simp only [Reg.dma, Reg.evtEvt]; omega) (by have := n.isLt; simp only [Reg.dma]; omega)

theorem chApply_rd (n : Nat) (s : State) {a : Nat} (h : a ∉ chWb n) : (chApply n s).rd a = s.rd a := by
  unfold chApply
  generalize chWb n = l at h
  induction l generalizing s with
  | nil => rfl
  | cons b l ih =>
    obtain ⟨hb, hl⟩ := not_or.mp (mt List.mem_cons.mpr h)
    rw [List.foldl_cons, ih _ hl]
    cases tget none s.wbPend b with
    | none => rfl
    | some v =>
      show (s.wr b v).rd a = _
      rw [State.rd_wr, if_neg hb]

theorem chLatch_rd (n i : Nat) (s : State) {a : Nat} (h1 : a ≠ Reg.dma n 0x38) (h2 : a ≠ Reg.dma n 0x3C) :
    (chLatch n i s).rd a = s.rd a := by
  unfold chLatch
  split
  · rw [State.rd_wrn, if_neg h2, State.rd_wr, if_neg h1]
  · rfl

/-! ### What begins -/

theorem chBegin_dch (n : Nat) (d : Desc) (b : Bool) (s : State) : (chBegin n d b s).dch n =
    { s.dch n with
      cur := some d, regMode := b, lines := 0, xfer := 0
      err := if dmaCheck (chAudio s n) d = 0 then none else some (dmaCheck (chAudio s n) d, s.draw.1) } := by
  unfold chBegin
  dsimp only
  rw [State.modDch, State.dch_setDch, if_pos rfl]
  split <;> rfl

theorem chRemain_dch (n k : Nat) (s : State) : (chRemain n s).dch k = s.dch k := by
  unfold chRemain
  split <;> rfl

theorem chRemain_rd {n : Nat} {s : State} {d : Desc} (h : (s.dch n).cur = some d) :
    (chRemain n s).rd (Reg.dma n 0x24) = BitVec.ofNat 32 (d.lineCnt - (s.dch n).lines) := by
  rw [chRemain]
  simp only [h]
  rw [State.rd_wrn, if_pos rfl]

theorem chRunFree_idle {n : Fin 128} {s : State} (h : (s.dch n).cur = none) : chRunFree n s = s := by
  rw [chRunFree]
  simp only [h]

theorem chRunFree_paced {n : Fin 128} {s : State} (h : chReq s n ≠ 0) : chRunFree n s = s := by
  rw [chRunFree]
  cases (s.dch n).cur with
  | none => rfl
  | some d => exact if_neg h

end Sys2Proof.Machine
end

section
/-! What becomes of the moves of a DMA channel, command by command (chapter 18). -/

namespace Sys2Proof.Machine
open Sys2Proof

theorem rd_modDch (s : State) (n : Nat) (f : DmaCh → DmaCh) (a : Nat) : (s.modDch n f).rd a = s.rd a := rfl

theorem sq_modDch (s : State) (n : Nat) (f : DmaCh → DmaCh) (a : Nat) : (s.modDch n f).sq a = s.sq a := rfl

theorem dch_modDch (s : State) (n : Nat) (f : DmaCh → DmaCh) : (s.modDch n f).dch n = f (s.dch n) := by
  rw [State.modDch, State.dch_setDch, if_pos rfl]

theorem dch_wrn (s : State) (a v k : Nat) : (s.wrn a v).dch k = s.dch k := rfl

theorem sq_wrn (s : State) (a v k : Nat) : (s.wrn a v).sq k = s.sq k := rfl

/-! ### Register-mode transfers -/

/-- A transfer whose accesses are made, with its posted writes delivered and the channel handed back (R575). -/
def transferDone (n : Fin 128) (d : Desc) (s : State) : State :=
  ((chDelivered n true s).wrn (Reg.dma n 0x24) (d.lineLen - (s.dch n).xfer)).modDch n fun x => { x with cur := none, regMode := false }

theorem transferDone_dch (n : Fin 128) (d : Desc) (s : State) :
    (transferDone n d s).dch n = { (chDelivered n true s).dch n with cur := none, regMode := false } := by
  rw [transferDone, dch_modDch]
  rfl

theorem transferDone_remain (n : Fin 128) (d : Desc) (s : State) :
    (transferDone n d s).rd (Reg.dma n 0x24) = BitVec.ofNat 32 (d.lineLen - (s.dch n).xfer) := by
  rw [transferDone, rd_modDch, State.rd_wrn, if_pos rfl]

theorem transferDone_sq (n : Fin 128) (d : Desc) (s : State) (a : Nat) : (transferDone n d s).sq a = (chDelivered n true s).sq a := rfl

/-- What TRANSFER_COMPLETE makes of a transfer that is moved in one go. -/
theorem transferComplete_moved {n : Fin 128} {d : Desc} {s t : State} (hr : chRuns s n = true) (hc : (s.dch n).cur = some d)
    (hm : (s.dch n).regMode = true) (hl : (s.dch n).lines = 0) (he : (s.dch n).err = none) (hq : chReq s n = 0)
    (ht : moveLines n d (unitsOf d) (chBegin n d true s) = t) (hv : chMoved (t.dch n) = true) :
    transferComplete n s = (if (t.dch n).err.isSome then
        dmaEvent [3] n (chLatch n (fld (transferDone n d t).draw.1 0 12) (transferDone n d t).draw.2)
      else dmaEvent [0] n (transferDone n d t)).modDch n fun x => { x with lines := 0, xfer := 0, err := none } := by
  rw [transferComplete]
  simp only [hc]
  rw [if_pos (by rw [hr, hm]; rfl), if_pos (show (s.dch n).lines = 0 ∧ (s.dch n).err = none from ⟨hl, he⟩), if_pos hq, ht, if_pos hv]
  rfl

theorem chBegin_ok {n : Nat} {d : Desc} {b : Bool} {s : State} (h : dmaCheck (chAudio s n) d = 0) :
    chBegin n d b s = s.modDch n fun x => { x with cur := some d, regMode := b, lines := 0, xfer := 0, err := none } := by
  rw [chBegin]
  simp only [h, if_true]

theorem moveLines_one {n : Fin 128} {d : Desc} {s : State} (hc : (s.dch n).cur.isNone = false) (he : (s.dch n).err = none) :
    moveLines n d 1 s = moveLine n d s := by
  rw [moveLines, moveLines]
  exact if_neg (by simp [hc, he])

theorem moveLines_failed {n : Fin 128} {d : Desc} {s : State} (h : (s.dch n).err.isSome = true) (k : Nat) :
    moveLines n d k s = s := by
  cases k with
  | zero => rfl
  | succ k =>
    rw [moveLines]
    exact if_pos (by simp [h])

/-- The line at hand of a descriptor that is not interleaved. -/
def lineMove (n : Fin 128) (d : Desc) (k : Nat) (s : State) : Nat × Option (Nat × Nat) × State :=
  moveBytes n (chMaster n) d (addr32 ((d.src.toNat : Int) + (k : Int) * d.sstride.toInt))
    (addr32 ((d.dst.toNat : Int) + (k : Int) * d.dstride.toInt)) d.lineLen s

theorem moveLine_flat {n : Fin 128} {d : Desc} (h : d.il = 0) (s : State) :
    moveLine n d s = (lineMove n d (s.dch n).lines s).2.2.modDch n fun y => { y with
      lines := if (lineMove n d (s.dch n).lines s).1 = d.lineLen then y.lines + 1 else y.lines
      xfer := y.xfer + (lineMove n d (s.dch n).lines s).1
      err := (lineMove n d (s.dch n).lines s).2.1.map fun e => (e.1, BitVec.ofNat 32 e.2) } := by
  rw [moveLine, if_neg (by simp [h])]
  rfl

/-- A line moved whole: the channel has one more, and nothing else but its progress is changed. -/
theorem moveLine_whole {n : Fin 128} {d : Desc} {s : State} (h : d.il = 0) (he : (s.dch n).err = none)
    (hok : (lineMove n d (s.dch n).lines s).2.1 = none) (hlen : (lineMove n d (s.dch n).lines s).1 = d.lineLen)
    (hch : (lineMove n d (s.dch n).lines s).2.2.dch n = s.dch n) :
    (moveLine n d s).dch n = { s.dch n with lines := (s.dch n).lines + 1, xfer := (s.dch n).xfer + d.lineLen } ∧
    (moveLine n d s).rewound = (lineMove n d (s.dch n).lines s).2.2.rewound := by
  rw [moveLine_flat h, hok, hlen]
  simp only [if_true, Option.map_none]
  refine ⟨?_, State.rewound_modDch _ _ ?_⟩
  · rw [dch_modDch, hch, ← he]
  · rw [hch, ← he]
    rfl

theorem chDelivered_sq {s t : State} (h : s.rewound = t.rewound) (n : Fin 128) (a : Nat) :
    (chDelivered n true s).sq a = (chDelivered n true t).sq a := by
  have hd (u : State) : (chDelivered n true u).rewound = chDelivered n true u.rewound := by
    show (deliverOf _ true (deliverOf _ false u)).rewound = deliverOf _ true (deliverOf _ false u.rewound)
    rw [deliverOf_rewound, deliverOf_rewound]
  rw [← State.sq_rewound, hd, h, ← hd, State.sq_rewound]

/-- A transfer of one line that passes its checks and moves every byte ends with EOC (R575). -/
theorem transferComplete_line {n : Fin 128} {d : Desc} {s b : State} (hr : chRuns s n = true) (hc : (s.dch n).cur = some d)
    (hm : (s.dch n).regMode = true) (hl : (s.dch n).lines = 0) (he : (s.dch n).err = none) (hq : chReq s n = 0)
    (hi : d.il = 0) (h1 : d.lineCnt = 1) (hp : 0 < d.lineLen) (hk : dmaCheck (chAudio s n) d = 0)
    (hb : (s.modDch n fun x => { x with cur := some d, regMode := true, lines := 0, xfer := 0, err := none }) = b)
    (hok : (lineMove n d 0 b).2.1 = none) (hlen : (lineMove n d 0 b).1 = d.lineLen) (hch : (lineMove n d 0 b).2.2.dch n = b.dch n) :
    ∃ u, transferComplete n s = u ∧ (u.dch n).cur = none ∧ (u.dch n).regMode = false ∧ u.rd (Reg.dma n 0x24) = 0#32 ∧
      u.sq (Reg.dma n 0x0C) = ((chDelivered n true (lineMove n d 0 b).2.2).sq (Reg.dma n 0x0C)).event [0] := by
  have hbn : b.dch n = { s.dch n with cur := some d, regMode := true, lines := 0, xfer := 0, err := none } := by
    rw [← hb, dch_modDch]
  have hbl : (b.dch n).lines = 0 := congrArg DmaCh.lines hbn
  have hbc : (b.dch n).cur = some d := congrArg DmaCh.cur hbn
  have hbe : (b.dch n).err = none := congrArg DmaCh.err hbn
  have hbx : (b.dch n).xfer = 0 := congrArg DmaCh.xfer hbn
  have hu : unitsOf d = 1 := by
    rw [unitsOf, if_neg (by omega), if_neg (by simp [hi]), h1]
  have ht : moveLines n d (unitsOf d) (chBegin n d true s) = moveLine n d b := by
    rw [chBegin_ok hk, hb, hu, moveLines_one (by rw [hbc]; rfl) hbe]
  obtain ⟨hdch, hrew⟩ := moveLine_whole (s := b) hi hbe (by rwa [hbl]) (by rwa [hbl]) (by rwa [hbl])
  rw [hbl] at hrew
  rw [hbl, hbx] at hdch
  have hv : chMoved ((moveLine n d b).dch n) = true := by
    rw [hdch, chMoved]
    simp [hbc, hi, h1]
  have he' : ((moveLine n d b).dch n).err.isSome = false := by
    rw [hdch]
    simp [hbe]
  have hx : ((moveLine n d b).dch n).xfer = d.lineLen := by
    rw [hdch]
    exact Nat.zero_add _
  rw [transferComplete_moved hr hc hm hl he hq ht hv, he', if_neg (by simp)]
  refine ⟨_, rfl, ?cur, ?mode, ?remain, ?events⟩
  case cur =>
    rw [dch_modDch, dmaEvent_dch (by simp), transferDone_dch]
  case mode =>
    rw [dch_modDch, dmaEvent_dch (by simp), transferDone_dch]
  case remain =>
    rw [rd_modDch, dmaEvent_rd (by simp) n _ (by decide), transferDone_remain, hx, Nat.sub_self]
  case events =>
    rw [sq_modDch, dmaEvent_sq, transferDone_sq, chDelivered_sq hrew]

theorem dmaCheck_lt (b : Bool) (d : Desc) : dmaCheck b d < 65536 := by
  unfold dmaCheck
  repeat' split
  all_goals decide

/-- The error of a transfer that fails is latched, with its event. -/
theorem chLatch_event {n : Fin 128} {s : State} {c : Nat} {a : Word} (h : (s.dch n).err = some (c, a)) (hc : c < 65536) (i : Nat) :
    ((dmaEvent [3] n (chLatch n i s)).dch n = s.dch n ∧ (dmaEvent [3] n (chLatch n i s)).rd (Reg.dma n 0x24) = s.rd (Reg.dma n 0x24)) ∧
    (dmaEvent [3] n (chLatch n i s)).rdf (Reg.dma n 0x3C) 0 16 = c ∧
    (dmaEvent [3] n (chLatch n i s)).sq (Reg.dma n 0x0C) = (s.sq (Reg.dma n 0x0C)).event [3] := by
  have hl : chLatch n i s = (s.wr (Reg.dma n 0x38) a).wrn (Reg.dma n 0x3C) (c + 65536 * i) := by
    rw [chLatch]
    simp only [h]
  rw [dmaEvent_dch (by simp), dmaEvent_rd (by simp) n _ (by decide), dmaEvent_sq, State.rdf, dmaEvent_rd (by simp) n _ (by decide),
    chLatch_rd n i s (dma_ne (.inr (by decide)) (by decide) (by decide)) (dma_ne (.inr (by decide)) (by decide) (by decide)), hl,
    State.rd_wrn, if_pos rfl, sq_wrn, fld, BitVec.toNat_ofNat]
  exact ⟨⟨rfl, rfl⟩, by omega, rfl⟩

theorem chBegin_bus (n : Nat) (d : Desc) (b : Bool) (s : State) : (chBegin n d b s).bus = s.bus := by
  unfold chBegin
  dsimp only
  split <;> rfl

theorem chBegin_sq (n : Nat) (d : Desc) (b : Bool) (s : State) (a : Nat) : (chBegin n d b s).sq a = s.sq a := by
  unfold chBegin
  dsimp only
  split <;> rfl

theorem chDelivered_none {n : Fin 128} {s : State} (h : ∀ p ∈ s.bus.toAudio ++ s.bus.toCtl, p.master ≠ chMaster n) :
    chDelivered n true s = s := by
  have hposted (b : Bool) : (postedOf s b).all (fun p => p.master != chMaster n) = true := by
    refine List.all_eq_true.mpr fun p hp => bne_iff_ne.mpr (h p (List.mem_append.mpr ?_))
    cases b with
    | false => exact .inr hp
    | true => exact .inl hp
  show deliverOf _ true (deliverOf _ false s) = s
  rw [deliverOf_none _ false s (hposted false), deliverOf_none _ true s (hposted true)]

/-- A transfer that fails a check ends with ERR and its code (R576). -/
theorem transferComplete_failed {n : Fin 128} {d : Desc} {s : State} (hr : chRuns s n = true) (hc : (s.dch n).cur = some d)
    (hm : (s.dch n).regMode = true) (hl : (s.dch n).lines = 0) (he : (s.dch n).err = none) (hq : chReq s n = 0)
    (hk : dmaCheck (chAudio s n) d ≠ 0) (hp : ∀ p ∈ s.bus.toAudio ++ s.bus.toCtl, p.master ≠ chMaster n) :
    ∃ u, transferComplete n s = u ∧ (u.dch n).cur = none ∧ u.rd (Reg.dma n 0x24) = BitVec.ofNat 32 d.lineLen ∧
      u.rdf (Reg.dma n 0x3C) 0 16 = dmaCheck (chAudio s n) d ∧ u.sq (Reg.dma n 0x0C) = (s.sq (Reg.dma n 0x0C)).event [3] := by
  have hdch := chBegin_dch n d true s
  rw [if_neg hk] at hdch
  have htb := chBegin_bus n d true s
  have hts := chBegin_sq n d true s (Reg.dma n 0x0C)
  generalize ht : chBegin n d true s = t at hdch htb hts
  generalize hcode : dmaCheck (chAudio s n) d = code at hdch
  have hte : (t.dch n).err = some (code, s.draw.1) := congrArg DmaCh.err hdch
  have htx : (t.dch n).xfer = 0 := congrArg DmaCh.xfer hdch
  have hv : chMoved (t.dch n) = true := by
    rw [chMoved, congrArg DmaCh.cur hdch]
    simp [hte]
  have hdel : chDelivered n true t = t := chDelivered_none (by rwa [htb])
  have hmove : moveLines n d (unitsOf d) (chBegin n d true s) = t := by
    rw [ht, moveLines_failed (by rw [hte]; rfl)]
  rw [transferComplete_moved hr hc hm hl he hq hmove hv, hte, Option.isSome_some, if_pos rfl]
  have hdone := transferDone_dch n d t
  rw [hdel] at hdone
  have herr : ((transferDone n d t).draw.2.dch n).err = some (code, s.draw.1) :=
    (congrArg DmaCh.err hdone).trans hte
  obtain ⟨⟨h1, h2⟩, h3, h4⟩ := chLatch_event herr (hcode ▸ dmaCheck_lt _ _) (fld (transferDone n d t).draw.1 0 12)
  refine ⟨_, rfl, ?cur, ?remain, ?code, ?events⟩
  case cur =>
    rw [dch_modDch, h1]
    exact congrArg DmaCh.cur hdone
  case remain =>
    rw [rd_modDch, h2]
    exact (transferDone_remain n d t).trans (by rw [htx, Nat.sub_zero])
  case code => exact h3
  case events =>
    rw [sq_modDch, h4]
    exact congrArg (SqReg.event [3]) ((transferDone_sq n d t _).trans (by rw [hdel, hts]))

end Sys2Proof.Machine
end

section
/-! Descriptors fetched, moved on request lines and completed (chapter 18). -/

namespace Sys2Proof.Machine
open Sys2Proof

/-! ### A descriptor fetched -/

section
variable {n : Fin 128} {s : State} (hr : chRuns s n = true) (hg : chRing s n = true) (hc : (s.dch n).cur = none)
include hr hg hc

theorem descriptorFetch_empty (he : chEmpty s n = true) : descriptorFetch n s = s := by
  rw [descriptorFetch]
  simp only [hr, hg, Bool.and_self, if_true, chRunFree_idle hc, hc, Option.isNone_none, he]

/-- A fetch that meets a bus error stops the channel (R608). -/
theorem descriptorFetch_failed {r : List Word × Option Nat × State} {a : Nat} (he : chEmpty s n = false)
    (hf : fetchWords n (chSlot s n (chHead s n)) 6 s = r) (ha : r.2.1 = some a) : descriptorFetch n s = chBusStop n 2 a r.2.2 := by
  rw [descriptorFetch]
  simp only [hr, hg, Bool.and_self, if_true, chRunFree_idle hc, hc, Option.isNone_none, he, hf, ha, Bool.false_eq_true, if_false]

/-- A descriptor that is fetched whole begins (R577 to R579). -/
theorem descriptorFetch_begun {r : List Word × Option Nat × State} (he : chEmpty s n = false)
    (hf : fetchWords n (chSlot s n (chHead s n)) 6 s = r) (ha : r.2.1 = none) : descriptorFetch n s =
      chRemain n (chBegin n (asRequested s n (descOf fun k => (r.1[k]?).getD 0#32)) false r.2.2) := by
  rw [descriptorFetch]
  simp only [hr, hg, Bool.and_self, if_true, chRunFree_idle hc, hc, Option.isNone_none, he, hf, ha, Bool.false_eq_true, if_false]

end

theorem chBegin_err (n : Nat) (d : Desc) (b : Bool) (s : State) : ((chBegin n d b s).dch n).err.map (·.1) =
    if dmaCheck (chAudio s n) d = 0 then none else some (dmaCheck (chAudio s n) d) := by
  rw [chBegin_dch]
  split <;> rfl

/-! ### A descriptor completed -/

theorem dmaEvents_rd (bits : List Nat) (n : Fin 128) (s : State) {off : Nat} (ho : off < 0x40) :
    (if bits = [] then s else dmaEvent bits n s).rd (Reg.dma n off) = s.rd (Reg.dma n off) := by
  split
  · rfl
  · next h => exact dmaEvent_rd h n s ho

theorem chHead_not_staged (n : Nat) : Reg.dma n 0x30 ∉ chWb n := by
  simp [chWb, Reg.dma]

section
variable {n : Fin 128} {d : Desc} {s v : State} {w : Bool × State} (he : (s.dch n).err = none) (hp : d.lineLen ≠ 0)
  (hv : chDelivered n d.barrier s = v) (hw : writeNow (chMaster n) (chSlot s n (chHead s n) + 0x18) 8
    (64 + 65536 * (s.dch n).lines + 4294967296 * (s.dch n).xfer) v = w)
include he hp hv hw

/-- A status that meets a bus error stops the channel (R608). -/
theorem chFinish_failed (hok : w.1 = false) : chFinish n d s = chBusStop n 3 (chSlot s n (chHead s n) + 0x18) w.2 := by
  rw [chFinish]
  simp only [he, hv, if_true, hp, false_and, if_false, hw, hok, Bool.not_false]

/-- A status that is written leaves HEAD one on and the channel free (R580, R610). -/
theorem chFinish_free (ha : (s.dch n).ahead = none) (hok : w.1 = true) :
    ∃ t : State, chFinish n d s =
        (t.modDch n fun x => { x with cur := none, lines := 0, xfer := 0, err := none }).wrn (Reg.dma n 0x24) 0 ∧
      t.rd (Reg.dma n 0x30) = BitVec.ofNat 32 ((chHead s n + 1) % chSize v n) := by
  rw [chFinish]
  simp only [he, hv, if_true, hp, false_and, if_false, hw, hok, ha, Bool.not_true, Bool.false_eq_true]
  refine ⟨_, rfl, ?_⟩
  rw [chApply_rd _ _ (chHead_not_staged n), dmaEvents_rd _ n _ (by decide),
    chLatch_rd _ _ _ (dma_ne (.inr (by decide)) (by decide) (by decide)) (dma_ne (.inr (by decide)) (by decide) (by decide)),
    State.rd_wrn, if_pos rfl]

end

theorem descriptorCompletion_paced {n : Fin 128} {d : Desc} {s : State} (hr : chRuns s n = true) (hc : (s.dch n).cur = some d)
    (hm : (s.dch n).regMode = false) (hq : chReq s n ≠ 0) (hv : chMoved (s.dch n) = true) :
    descriptorCompletion n s = chFinish n d s := by
  rw [descriptorCompletion]
  simp only [hc, hr, hm, Bool.not_false, Bool.and_self, if_true, chRunFree_paced hq, hv]

/-! ### Request lines -/

theorem requestLine_off {n : Fin 128} {s : State} (h : chReq s n = 0 ∨ lineAsserted s (chReq s n) = false) : requestLine n s = s := by
  have hno : (chReq s n != 0 && lineAsserted s (chReq s n)) = false := by
    obtain h | h := h <;> simp [h]
  rw [requestLine]
  cases (s.dch n).cur with
  | none => rfl
  | some d =>
    dsimp only
    rw [Bool.and_assoc, hno, Bool.and_false]
    rfl

/-- On an asserted line a channel in ring mode moves the next line (R598). -/
theorem requestLine_moves {n : Fin 128} {d : Desc} {s : State} (hr : chRuns s n = true) (hc : (s.dch n).cur = some d)
    (hm : (s.dch n).regMode = false) (hq : chReq s n ≠ 0) (hl : lineAsserted s (chReq s n) = true) (hv : chMoved (s.dch n) = false) :
    requestLine n s = chRemain n (if chReq s n = 1 then frameLine n d s else moveLine n d s) := by
  rw [requestLine]
  simp only [hc, hr, hm, hl, hv, bne_iff_ne.mpr hq, Bool.and_self, if_true, Bool.false_eq_true, false_and, if_false]

/-- The channel after a received frame (R600). -/
theorem frameLine_dch {n : Fin 128} {d : Desc} {s : State} {f : NetFrame} {rest : List NetFrame} (h : s.net.hostRing = f :: rest) :
    ((frameLine n d s).dch n).lines = 1 ∧ ((frameLine n d s).dch n).xfer = f.len := by
  rw [frameLine]
  simp only [h]
  rw [dch_modDch]
  exact ⟨rfl, rfl⟩

/-! ### The statement -/

/-- Settles O48: fetches, transfers, completions and request lines, and the bytes that a line, a fill and a beat hold. -/
theorem dmaFetchesMovesAndCompletes : Obligations.DmaFetchesMovesAndCompletes := by
  unfold Obligations.DmaFetchesMovesAndCompletes
  intro take desc begun delivered line
  refine ⟨?fetch, ?transfer, ?completion, ?request, ?lines, ?fill, ?beat⟩
  case fetch =>
    intro s n hr hg hc
    have hx : exec (.descriptorFetch n) s = .next (descriptorFetch n s) := rfl
    rw [hx]
    refine ⟨fun he => congrArg _ (descriptorFetch_empty hr hg hc he), fun he ha => ?_,
      fun a he ha => congrArg _ (descriptorFetch_failed hr hg hc he rfl ha)⟩
    rw [descriptorFetch_begun hr hg hc he rfl ha]
    have hd := chBegin_dch n (desc n s) false (take n s).2.2
    refine ⟨_, rfl, ?_⟩
    rw [chRemain_dch]
    refine ⟨congrArg DmaCh.cur hd, congrArg DmaCh.regMode hd, congrArg DmaCh.lines hd, congrArg DmaCh.xfer hd, chBegin_err .., ?_⟩
    have hl := congrArg DmaCh.lines hd
    exact (chRemain_rd (congrArg DmaCh.cur hd)).trans (by rw [hl]; rfl)
  case transfer =>
    intro s n d hr hc hm hl he hq hi h1 hp
    have hx : exec (.transferComplete n) s = .next (transferComplete n s) := rfl
    rw [hx]
    refine ⟨fun hk hok hlen hch => ?_, fun hk hno => ?_⟩
    · obtain ⟨u, hu, h⟩ := transferComplete_line hr hc hm hl he hq hi h1 hp hk rfl hok hlen hch
      exact ⟨u, congrArg _ hu, h⟩
    · obtain ⟨u, hu, h⟩ := transferComplete_failed hr hc hm hl he hq hk hno
      exact ⟨u, congrArg _ hu, h⟩
  case completion =>
    intro s n d hr hc hm hq hv he ha hp v w
    have hx : exec (.descriptorCompletion n) s = .next (descriptorCompletion n s) := rfl
    rw [hx, descriptorCompletion_paced hr hc hm hq hv]
    refine ⟨fun hok => ?_, fun hok => congrArg _ (chFinish_failed he (Nat.ne_of_gt hp) rfl rfl hok)⟩
    obtain ⟨t, ht, hh⟩ := chFinish_free he (Nat.ne_of_gt hp) rfl rfl ha hok
    refine ⟨_, congrArg _ ht, ?_, ?_, ?_⟩
    · rw [dch_wrn, dch_modDch]
    · rw [State.rd_wrn, if_pos rfl]
    · rw [State.rd_wrn, if_neg (dma_ne (.inr (by decide)) (by decide) (by decide)), rd_modDch]
      exact hh
  case request =>
    intro s n d hc hm
    have hx : exec (.requestLine n) s = .next (requestLine n s) := rfl
    rw [hx]
    refine ⟨fun h => congrArg _ (requestLine_off h), fun hr hq hl hv hi => ?_, fun f rest hr hq hf hv => ?_⟩
    · intro r
      rw [requestLine_moves hr hc hm (by omega) hl hv, if_neg (by omega), moveLine_flat hi]
      rfl
    · rw [requestLine_moves hr hc hm (by omega) (by rw [hq]; simp [lineAsserted, hf]) hv, if_pos hq]
      refine ⟨_, rfl, ?_⟩
      rw [chRemain_dch]
      exact frameLine_dch hf
  case lines =>
    intro mode src i h
    rw [lineBytes_none]
    exact ⟨by simp [h], by simp⟩
  case fill =>
    intro pat n i h
    simp [fillBytes, h]
  case beat =>
    intro a n i h
    obtain ⟨b, hm, h1, h2, h3, h4⟩ := mem_beatsFrom (a := a) (off := 0) (Nat.le_refl n) h
    refine ⟨b, hm, h1, ?_, ?_, fun ht => ?_⟩
    · simpa using h2
    · simpa using h3
    · simpa using h4 ht

end Sys2Proof.Machine
end
